-- ==== Sys2Proof/Word.lean ====
section
/-! DEFINITION. The words of the device: bytes, 32-bit register words and sparse tables (spec/00_scope.md R11, R14). -/

namespace Sys2Proof

/-- A byte of a packet, a frame or a memory. -/
abbrev Byte := BitVec 8

/-- A 32-bit register of the register window or of a Tine (spec/15 R486, spec/07 R227). -/
abbrev Word := BitVec 32

/-- A sparse array by index: the keys rise strictly, and no entry holds what an unlisted index reads as. -/
abbrev Table (α : Type) := List (Nat × α)

/-- The two complete forwarding planes (spec/01 R25). -/
inductive Furrow where
  | a
  | b
  deriving DecidableEq, Repr

end Sys2Proof
end

