-- ==== Sys2Proof/Syntax.lean ====
section
/-! DEFINITION. The commands of the block: one constructor per row of spec/opcode_table.json, with what the outside supplies. -/

namespace Sys2Proof

/-- A WCP transport endpoint: a PCIe ring pair, an in-band (port, source address) pair or the SPI target (spec/02 R69). -/
inductive Endpoint where
  | ring (k : Nat)
  | inband (port addr : Nat)
  | spi
  deriving DecidableEq, Repr

/-- A WCP command packet: the header of spec/02 R55 and its parameter block.
reserved is bytes 11-15 of the header as one little-endian number. -/
structure Packet where
  src : Endpoint
  verMajor : Nat := 0
  verMinor : Nat := 0
  flags : Nat := 0
  opcode : Nat := 0
  tag : Nat := 0
  session : Nat := 0
  paramLen : Nat := 0
  reserved : Nat := 0
  params : List Byte := []
  /-- The CRC trailer it carried (in-band, SPI): spec/02 R91 compares it. -/
  trailer : Nat := 0
  /-- The 802.1Q tag of the in-band frame that carried it, for the reply (spec/02 R90). -/
  vlan : Option Nat := none
  /-- What the outside decides: the word that the command reads to change it holds an uncorrectable sheaf (spec/01 R44). -/
  upset : Bool := false
  /-- What the outside decides: the memories, as the stook numbers them, of which the command reads a word with one or two bits in error (spec/01 R43). -/
  fixed : List Nat := []
  /-- What the outside supplies to a command that reads a module: the bytes read, or none where it does not answer (spec/04 R143). -/
  ext : Option (List Byte) := none
  deriving DecidableEq, Repr

/-- What a lane receives, as the outside decides it (spec/03 R99): the lane, is a signal detected, code-group synchronisation or marker alignment, the
sync headers, and the invalid ones of the present error ratio window. -/
structure Hears where
  lane : Nat
  signal : Bool
  sync : Bool
  headers : List Nat
  ber : Nat
  deriving DecidableEq, Repr

/-- What a lane receives as it gains its lock (spec/03 R97, R99, R100), with the speed that a PHY's in-band word reports and the step that an adaptive
CTLE has reached. -/
structure Gains where
  speed : Nat
  lane : Nat
  headers : List Nat
  sync : Bool
  step : Nat
  deriving DecidableEq, Repr

/-- Consecutive blocks at or above the density threshold, and the step of least error margin by then (spec/03 R100, R102). -/
structure Resumes where
  blocks : Nat
  step : Nat
  deriving DecidableEq, Repr

/-- The two ledger slots of a module as they were read (spec/04 R137). -/
structure LedgerSlots where
  slot0 : List Byte
  slot1 : List Byte
  deriving DecidableEq, Repr

/-- Raw readings of a module (spec/04 R134): supply voltage, and bias, transmit and receive power by channel. -/
structure Readings where
  vcc : Nat
  bias : List Nat
  tx : List Nat
  rx : List Nat
  deriving DecidableEq, Repr

/-- A furrow's address table at work: the furrow, and the places that are read and found uncorrectable (spec/01 R44, R45). -/
structure TabRead where
  f : Furrow
  bad : List Nat
  deriving DecidableEq, Repr

/-- The commands. Each constructor is the row of spec/opcode_table.json that its comment names. -/
inductive Instr where
  /-- POWER_ON_DETECT (R502). The power-on detector finds a supply below its operating range and asserts reset in every domain. -/
  | powerOnDetect (lost : Bool) (copies part : Nat)
  /-- RESET_N_ASSERT (R503). RESET_N falls for at least 20 ns; reset is asserted everywhere and outputs go to their reset levels. -/
  | resetNAssert (ns copies part : Nat)
  /-- FALLOW_RELEASE (R505). On the RESET_N rising edge, or once the last supply is in range with XTAL_FAL running, the fallow domain is released and LAST_RESET is set. -/
  | fallowRelease (xtal bypass test : Bool) (bad : List Nat)
  /-- HEADLAND_RELEASE (R505). After the Headland PLL locks, Headland is released and finds its trail position. -/
  | headlandRelease
  /-- OPTION_LOAD (R513). The loader updates FAILED_LOADS, then reads and votes the trim rows and the option generations and selects the options. -/
  | optionLoad
  /-- CP_BOOT_START (R516). Once PLL_SH locks, the command processor and PCIe endpoint are released and the boot ROM starts reading the QSPI flash. -/
  | cpBootStart
  /-- FIRMWARE_AUTHENTICATED (R515). A firmware image is authenticated and started; otherwise the alternate image is tried, or the command processor halts with a halt cause. -/
  | firmwareAuthenticated (img0 img1 : Option (List (BitVec 8)))
  /-- FURROW_DOMAIN_RELEASE (R506). Furrow PLLs lock and sheaves are initialised; each furrow is released, or is held fenced if its rail or PLL fails. -/
  | furrowDomainRelease (aRail aLocked bRail bLocked : Bool)
  /-- PORT_DOMAIN_RELEASE (R505). MACs and PCSs leave reset with every lane disabled, and the in-band options apply. -/
  | portDomainRelease
  /-- RELEASE_PLL_TIMEOUT (R506). A release step whose PLL has not locked within 10 ms is not released, and release stops there. -/
  | releasePllTimeout
  /-- XTAL_FAL_STOP (R31). The internal oscillator measures XTAL_FAL as stopped for 10 µs; the device enters SAFE with cause 0x03 and holds every transmitter at idle. -/
  | xtalFalStop
  /-- PLL_SH_LOCK_LOSS (R31). PLL_SH loses lock and the device enters SAFE with cause 0x03. -/
  | pllShLockLoss
  /-- FURROW_PLL_LOCK_LOSS (R31). PLL_FA or PLL_FB loses lock, and that furrow's clock-loss alarm is set to Headland within 1.28 µs. -/
  | furrowPllLockLoss (f : Furrow)
  /-- HEADLAND_PLL_LOSS (R387). Loss of the Headland PLL stops Headland until reset and fires event 0x1E7. -/
  | headlandPllLoss
  /-- RAIL_MONITOR (R375). VDD_FA or VDD_FB stays outside its operating range for 1 µs and raises the RAIL_MONITOR alarm. -/
  | railMonitor (f : Furrow)
  /-- SUPPLY_OVER_RANGE (R530). A rail stays above its operating range for 1 µs and fires source 0x3CB. -/
  | supplyOverRange (rail : Nat)
  /-- VBAK_LOW (R532). VBAK falls below 1.50 V while VDD_FAL is in range, and source 0x3CC fires. -/
  | vbakLow
  /-- FURROW_RAIL_LOSS (R28). A fenced island's rail falls; descriptors into its half are freed as residence discards and FANOUT is recounted. -/
  | furrowRailLoss (f : Furrow)
  /-- THERMAL_SENSOR_UPDATE (R546). Every 1 ms the on-die sensors update, and warning or critical events fire at their thresholds. -/
  | thermalSensorUpdate (temps : List Int) (rails : List Nat)
  /-- PCIE_LINK_UP (R541). The PCIe link trains and comes up, and source 0x3CD fires. -/
  | pcieLinkUp (enable mask : Bool)
  /-- PCIE_LINK_DOWN (R541). The PCIe link goes down; every PCIe session closes and the shadow compare is suspended. -/
  | pcieLinkDown
  /-- PCIE_PERST (R541). PCIE_PERST_N is asserted and resets the endpoint only. -/
  | pciePerst
  /-- SLICE_CLOCK_START (R35). A requested slice clock runs, within 160 ns, and the MAC drains the wake buffer in arrival order. -/
  | sliceClockStart (slice : Nat)
  /-- SLICE_FALLOW_EXPIRY (R33). A slice clock with no activity for its fallow delay is stopped by the wake controller. -/
  | sliceFallowExpiry (clock : Nat)
  /-- BED_WAKE (R35). A stopped Bed clock starts within 40 ns of a dispatch to that Bed. -/
  | bedWake (bed : Nat)
  /-- FURROW_CORE_WAKE_FOR_TIMER (R402). The wake controller starts a furrow core clock 2 µs before its earliest armed Bed deadline. -/
  | furrowCoreWakeForTimer (f : Furrow)
  /-- SCRUB_READ (R46). The scrubber reads a sheaf, writes back a corrected word and applies R45 to an uncorrectable one. -/
  | scrubRead (mem loc kind errors : Nat)
  /-- START_OF_FRAME (R114). The PCS detects start-of-frame; the ingress time and bank and lead bits are latched, and the MAC finds the early class, admits the frame and stamps its furrow tag. -/
  | startOfFrame (p : Nat) (bytes : List Byte)
  /-- RX_FRAME_END (R119). A received frame ends; the MAC checks FCS and length, updates its counters and sends the frame length to Harrow. -/
  | rxFrameEnd (p : Nat) (bad upset : Bool) (ext : Option (List (BitVec 8)))
  /-- OVERSIZE_DETECT (R113). Byte MAX_FRAME + 1 is received; the frame is dropped, or tail-marked if its head has left. -/
  | oversizeDetect (p : Nat)
  /-- PAUSE_TIMER_EXPIRY (R116). A class's pause time runs out and the class may transmit again. -/
  | pauseTimerExpiry (p cls : Nat)
  /-- PAUSE_WATCHDOG_EXPIRY (R117). A class paused continuously for PAUSE_WATCHDOG is released and its pause requests are then ignored for one period. -/
  | pauseWatchdogExpiry (p cls : Nat)
  /-- PAUSE_IGNORE_END (R117). The watchdog ignore period ends, and pause requests for the class are obeyed again. -/
  | pauseIgnoreEnd (p cls : Nat)
  /-- LINK_DOWN (R107). A receive or transmit link goes down; frames in flight are dropped or tail-marked, and queued frames are discarded at dequeue. -/
  | linkDown (p : Nat) (rx phy : Bool) (h : Hears)
  /-- LINK_UP (R99). Block lock or synchronisation is gained and the port's receive link comes up, with a link event. -/
  | linkUp (p : Nat) (g : Gains)
  /-- RETRAIN (R103). More than 32 symbol errors in 1 ms force a lane retrain; a fourth retrain in 1 s restarts bring-up. -/
  | retrain (m errors : Nat)
  /-- ADAPTATION_FREEZE (R102). A 1,024 UI window below DENSITY_THRESHOLD freezes CTLE adaptation. -/
  | adaptationFreeze (m transitions : Nat)
  /-- ADAPTATION_RESUME (R102). After 4,096 consecutive blocks at or above the threshold, CTLE adaptation resumes. -/
  | adaptationResume (m : Nat) (r : Resumes)
  /-- FEC_DEGRADE_WINDOW (R98). At the end of each 1 ms window, the FEC degrade event fires if the window's conditions are met. -/
  | fecDegradeWindow (p corrected uncorrectable symbols : Nat)
  /-- PHY_POLL (R97). Every 10 ms the device polls the external PHY's link status over MDIO. -/
  | phyPoll (p : Nat) (status : Option Nat)
  /-- BRINGUP_START (R104). An enabled port starts FIXED or STEP bring-up on entry to RUN or on PORT_ENABLE. -/
  | bringupStart (p : Nat)
  /-- AUTONEG_COMPLETE (R104). The Clause 37 and step message exchange completes, and the lane moves to the chosen rate. -/
  | autonegComplete (p : Nat) (np : Bool) (code mask : Nat)
  /-- STEP_WAIT_EXPIRY (R104). No Clause 37 ordered sets arrive within STEP_WAIT, and the lane moves to MODE and FEC. -/
  | stepWaitExpiry (p : Nat)
  /-- STEP_FAIL_TIMEOUT (R106). No lock within 500 ms after a step fails it; the lane renegotiates a reduced mask or schedules a restart. -/
  | stepFailTimeout (p : Nat)
  /-- BRINGUP_RESTART (R106). 1 s after a failed move to MODE, the whole bring-up restarts. -/
  | bringupRestart (p : Nat)
  /-- I2C_BUS_RECOVERY (R131). A master with SDA stuck low is recovered; after three failures it is faulted and cause 0x09 is raised. -/
  | i2cBusRecovery (k : Nat) (ok : Bool)
  /-- I2C_RECOVERY_RETRY (R131). Every 10 s, recovery of a faulted I²C master is retried. -/
  | i2cRecoveryRetry (k : Nat) (ok : Bool)
  /-- MODULE_POLL (R132). Every 1 s the device polls empty cages to detect insertion and known modules to detect removal. -/
  | modulePoll (m : Nat) (ident : Option Nat) (mux : Bool)
  /-- MODULE_DATA_READY (R132). Data_Ready_Bar clears, or 2 s pass; the device reads identity, sets soft disable if needed and classifies the ledger. -/
  | moduleDataReady (m : Nat) (cleared : Bool) (identity external : List Byte) (slots : LedgerSlots)
  /-- DDM_SAMPLE (R134). Each second the device reads diagnostics, counts hours and tests the bias drift for end of life. -/
  | ddmSample (m temp : Nat) (r : Readings) (alarms : Nat)
  /-- LEDGER_DAILY_WRITE (R139). 24 h after the previous write, the device starts a ledger write. -/
  | ledgerDailyWrite (m : Nat)
  /-- LEDGER_WRITE_DONE (R139). A ledger write finishes with its readback compare; a mismatch makes the ledger read-only. -/
  | ledgerWriteDone (m : Nat) (back : Option (List (BitVec 8)))
  /-- HARROW_DECISION (R146). Within 256 ns of the decision point, a furrow's Harrow parses, runs its stages and resolves a decision, including the digest entry. -/
  | harrowDecision (f : Furrow) (uid upset : Nat)
  /-- HARROW_FRAME_END (R147). At frame end each Harrow completes its frame-end checks, and a late exception tail-marks or applies its action. -/
  | harrowFrameEnd (f : Furrow) (uid : Nat)
  /-- FRAGMENT_SWEEP (R168). The sweeper frees fragment entries that are no longer live and counts FRAG_EXPIRED. -/
  | fragmentSweep (f : Furrow)
  /-- BANK_FLIP (R172). When the time base reaches the swap tick, the bank bit flips and reaches every PCS within 8 ns. -/
  | bankFlip
  /-- BANK_SWAP_COMPLETE (R173). At T + 50 µs the old bank becomes inactive and the swap COMPLETION is sent. -/
  | bankSwapComplete
  /-- LEARN_INSERT (R193). A pending source address is learned, moved or refused, subject to the budget, port limit and table room. -/
  | learnInsert (t : TabRead)
  /-- AGEING_SWEEP (R196). Every SWEEP_PERIOD the sweeper advances its stamp and ages learned entries. -/
  | ageingSweep (t : TabRead)
  /-- STAGING_RECORD_RETIRE (R199). At TE + 50 µs a staging record retires, and the object holds its new value. -/
  | stagingRecordRetire
  /-- SHADOW_COMPARE_UNIT (R201). Every 8 µs each furrow reads one shadow unit by DMA and compares or repairs it. -/
  | shadowCompareUnit (t : TabRead) (ok : Bool) (data : List Byte)
  /-- ACTIVATION_START (R223). An inline frame, queued frame or timer activation starts on a free Tine once a record and a release entry are available. -/
  | activationStart (bed : Nat)
  /-- RECORD_FETCH_DONE (R225). A supervision record fetched from the deep store arrives in the Bed cache, zeroed if the fetch failed. -/
  | recordFetchDone (bed_ : Nat) (bad : Bool)
  /-- ALU_R (R229). An OP 0x00 instruction (ADD through MULHU) computes rd from rs1 and rs2. -/
  | aluR (bed tine : Nat)
  /-- ADDI (R229). rd is set to rs1 plus the sign-extended immediate. -/
  | addi (bed tine : Nat)
  /-- ANDI_ORI_XORI (R229). A logical operation with the zero-extended immediate. -/
  | andiOriXori (bed tine : Nat)
  /-- SLTI_SLTIU (R229). rd is set to 1 if rs1 is less than the immediate, signed or unsigned. -/
  | sltiSltiu (bed tine : Nat)
  /-- SLLI_SRLI_SRAI (R229). A shift by an immediate count. -/
  | slliSrliSrai (bed tine : Nat)
  /-- LUI (R229). rd is set to the immediate shifted left by 16. -/
  | lui (bed tine : Nat)
  /-- BRANCH (R229). BEQ to BGEU branch when the comparison of rs1 with rs2 holds. -/
  | branch (bed tine : Nat)
  /-- JAL (R229). A jump that stores the return address. -/
  | jal (bed tine : Nat)
  /-- JALR (R229). A jump to rs1 plus the immediate that stores the return address. -/
  | jalr (bed tine : Nat)
  /-- LOAD (R229). LW, LH, LHU, LB or LBU load from data memory. -/
  | load (bed tine : Nat)
  /-- STORE (R229). SW, SH or SB store to data memory. -/
  | store (bed tine : Nat)
  /-- CLD (R229). A load of an image constant word. -/
  | cld (bed tine : Nat)
  /-- PLD (R229). A load of a word of the stream's parameter set. -/
  | pld (bed tine : Nat)
  /-- WSEL (R229). Binds a window register to a field and an offset. -/
  | wsel (bed tine : Nat)
  /-- WLD (R228). A read from a bound window field, stalling until the data is final. -/
  | wld (bed tine : Nat)
  /-- BERS (R229). Reads the BER TLV header at a window offset. -/
  | bers (bed tine : Nat)
  /-- CRC (R229). Computes a CRC-32C over window bytes. -/
  | crc (bed tine : Nat)
  /-- HASH (R229). Applies the R185 mix to a register. -/
  | hash (bed tine : Nat)
  /-- SLD (R226). Loads a record word and takes the stream lock. -/
  | sld (bed tine : Nat)
  /-- SST (R226). Buffers a store of a record word. -/
  | sst (bed tine : Nat)
  /-- SREL (R226). Commits the buffered record, HST and TMSET effects and releases the lock. -/
  | srel (bed tine : Nat)
  /-- HST (R229). Buffers a write of the hot word's ACTIVE bit. -/
  | hst (bed tine : Nat)
  /-- TRD (R229). Reads the furrow's current time. -/
  | trd (bed tine : Nat)
  /-- TMSET (R236). Buffers arming or disarming of the stream's deadline, and reports a full table. -/
  | tmset (bed tine : Nat)
  /-- AKEY (R229). Selects a key slot and returns its KEY_ID if the slot is valid. -/
  | akey (bed tine : Nat)
  /-- AUTH (R237). Submits a tag check to the Bed's SHA-256 or AES-GCM unit. -/
  | auth (bed tine : Nat)
  /-- AUTH_UNIT_DONE (R237). The cryptographic unit finishes a check and returns the result code to the waiting Tine. -/
  | authUnitDone (bed tine : Nat)
  /-- EMIT (R239). Buffers a finding until retirement. -/
  | emit (bed tine : Nat)
  /-- VRD (R232). Retires the activation with a verdict, committing its effects and findings. -/
  | vrd (bed tine : Nat)
  /-- ILLEGAL_INSTRUCTION (R230). An unused OP or FN faults the Tine, discarding its effects and applying the default verdict. -/
  | illegalInstruction (bed tine : Nat)
  /-- BUDGET_EXCEEDED (R231). An activation that reaches BUDGET without a VRD is stopped and takes its default verdict. -/
  | budgetExceeded (bed tine : Nat)
  /-- VERDICT_RELEASE (R234). A verdict is released in dispatch order and applied to the frame, counters and Gleaner. -/
  | verdictRelease (bed : Nat) (inl : Bool)
  /-- BED_LOCKUP (R235). A Tine not idle within 64 cycles, or a release entry unreleased for 100 µs, sets the Tine lock-up alarm. -/
  | bedLockup (bed_ : Nat) (stuck : Bool)
  /-- DEADLINE_FIRE (R236). At deadline + 50 µs the Bed queues a timer activation for the stream's TIMER_ENTRY. -/
  | deadlineFire (bed_ : Nat)
  /-- TIMER_QUEUE_RETRY (R223). A timer activation refused by a full queue is offered again 10 µs later. -/
  | timerQueueRetry (bed_ : Nat)
  /-- IMAGE_ACTIVATION_COMPLETE (R252). At T + 100 µs queued old-image activations take their default verdict and the old area becomes inactive. -/
  | imageActivationComplete (bed_ : Nat)
  /-- TINE_IMAGE_VERIFIED (R260). Verification of a loaded image ends and the END COMPLETION is sent. -/
  | tineImageVerified
  /-- CELL_REQUEST (R279). The accounting stage grants cell requests in rank order each drill clock and walks the pool levels. -/
  | cellRequest (h : Nat) (d0 d1 : Option Nat)
  /-- REBUILD_SCAN_COMPLETE (R269). The rebuild scan finishes threading free cells onto the new list, and REBUILDS counts it. -/
  | rebuildScanComplete (h : Nat) (bad : List Nat)
  /-- GRANARY_ADMIT (R285). The lead furrow's decision arrives and the Granary admits the frame: meters, rebooks and releases or queues it. -/
  | granaryAdmit (uid bad : Nat)
  /-- COPY_COMPLETE (R314). The last cell of a copy is written, and its waiting lane entries are offered or discarded. -/
  | copyComplete (uid half : Nat)
  /-- SPILL_WRITE (R287). At frame end a spilling copy is copied to its spill ring, and its cells and descriptor are returned. -/
  | spillWrite (uid : Nat) (poison : List Nat)
  /-- REFILL_REQUEST (R287). A spilled entry within 4 of its lane head is refilled into new cells. -/
  | refillRequest (f : Furrow) (inp out cls : Nat)
  /-- REFILL_RETRY (R287). A refill lacking a descriptor or cell is retried every 1 µs. -/
  | refillRetry
  /-- RESIDENCE_CHECK (R290). A lane head is checked at arrival, at offer or every 64 µs, and is discarded if expired. -/
  | residenceCheck (f : Furrow) (inp out cls : Nat)
  /-- CROSSBAR_MATCH (R301). Each cell time the matcher runs three grant and accept iterations and moves the matched words. -/
  | crossbarMatch (f : Furrow) (bad : List (Nat × Nat))
  /-- CROSSBAR_PARITY_ERROR (R300). Parity on crossbar control state poisons crossing copies and sets the Headland alarm. -/
  | crossbarParityError (f : Furrow) (uids : List Nat)
  /-- EGRESS_UNDERRUN (R305). A word missing when the transmitter needs it ends the frame with a bad tail and abandons the copy. -/
  | egressUnderrun (p : Nat)
  /-- HEADER_TRANSFER (R310). After its decision, a TC7 copy's first five words are sent toward the Gleaner. -/
  | headerTransfer (f : Furrow) (uid : Nat)
  /-- HEADER_TRANSFER_TIMEOUT (R310). A header transfer not granted within 1 µs is skipped and HEADER_SKIPS counts it. -/
  | headerTransferTimeout (f : Furrow) (uid : Nat)
  /-- TC7_WAIT_TIMEOUT (R319). A TC7 head unmatched within 1 µs of its offer fires event b + 6. -/
  | tc7WaitTimeout (f : Furrow) (inp out : Nat)
  /-- WINNOW_ARRIVAL (R359). A copy's first word reaches Winnow, which passes, defers or drops it by its checks. -/
  | winnowArrival (p upset : Nat)
  /-- DRILL_START_OPPORTUNITY (R324). At a start opportunity the Drill picks the first eligible class and starts, continues or preempts a frame. -/
  | drillStartOpportunity (p : Nat)
  /-- TX_FRAME_END (R363). A transmitted copy ends good, bad-tailed or discarded; its twin or redundancy slot and any deferred copy follow. -/
  | txFrameEnd (p : Nat)
  /-- STREAM_SHAPER_RELEASE (R329). A stream shaper with T ≥ 0 releases its complete list head toward the lane FIFOs. -/
  | streamShaperRelease (handle : Nat)
  /-- GATE_TRANSITION (R339). A gate list entry's interval ends, or a cycle starts, and the gate states change. -/
  | gateTransition (p : Nat)
  /-- GATE_LIST_TAKEOVER (R342). The pending list takes over at CONFIG_CHANGE_TIME or the next cycle start, and the commit completes. -/
  | gateListTakeover (p : Nat)
  /-- VERIFY_TIMER (R345). Every VERIFY_TIME a verify mPacket is sent; after 3 sends without a response, verification fails. -/
  | verifyTimer (p : Nat)
  /-- VERIFY_RESPOND_RX (R345). A respond mPacket completes preemption verification. -/
  | verifyRespondRx (p : Nat)
  /-- TWIN_SWEEP (R361). Every 100 µs the sweeper clears VALID on stale twin history pairs. -/
  | twinSweep
  /-- NODE_FORGET (R367). Node table windows are opened after ENTRY_FORGET, and idle entries are removed after NODE_FORGET. -/
  | nodeForget
  /-- TURN_FILTER_EXPIRY (R382). A turn filter entry is freed once the residence limit plus 1 ms has passed. -/
  | turnFilterExpiry (p : Nat)
  /-- FRER_RECOVERY_TIMEOUT (R371). A recovery function idle for RECOVERY_TIMEOUT resets its history. -/
  | frerRecoveryTimeout (handle p : Nat)
  /-- LATENT_ERROR_TEST (R371). Every 2,000 ms each recovery function tests for latent errors and fires 0x1ED on a breach. -/
  | latentErrorTest (handle p : Nat)
  /-- DIGEST_CLOSE (R374). 50 µs after an epoch ends, a furrow closes its digest and sends it to Headland. -/
  | digestClose (f : Furrow) (ns : Nat)
  /-- DIGEST_COMPARE (R376). Headland compares the two digests of an epoch and reaches a match, disagreement or failure verdict. -/
  | digestCompare
  /-- DIGEST_MISS_TIMEOUT (R376). A digest not arriving 2.048 µs after the other furrow's counts as a miss; three misses fail the furrow. -/
  | digestMissTimeout (f : Furrow)
  /-- HEADLAND_ALARM (R376). A furrow alarm reaches Headland and fails that furrow, or leaves the lead as it is when both furrows alarm. -/
  | headlandAlarm
  /-- ARB_RULING (R379). A RULING from HL_ARB_IN settles the outstanding disagreement. -/
  | arbRuling (bytes : List Byte)
  /-- ARB_STATUS_IN (R379). A STATUS message from the arbiter is received and counts toward the link coming up. -/
  | arbStatusIn (bytes : List Byte)
  /-- ARB_RULING_TIMEOUT (R379). No ruling within 200 µs means POLICY applies and ARB_TIMEOUTS counts it. -/
  | arbRulingTimeout
  /-- ARB_LINK_DOWN (R379). 5 ms without a valid message takes the arbiter link down. -/
  | arbLinkDown
  /-- ARB_STATUS_OUT (R379). Every 1 ms Headland sends STATUS on HL_ARB_OUT. -/
  | arbStatusOut
  /-- TURN_START (R381). At T_o the lead bit flips and the overlap begins. -/
  | turnStart
  /-- TURN_END (R381). At T_f the overlap ends and the old lead is fenced. -/
  | turnEnd
  /-- LANE_FLUSH_COMPLETE (R384). The fenced furrow's lane entries are discarded; event 0x1E4 fires and any pending turn completes. -/
  | laneFlushComplete (f : Furrow)
  /-- RESTART_COPY_DONE (R386). A restarting furrow finishes its state and record copies, and counting of matching epochs starts. -/
  | restartCopyDone
  /-- RESTART_ADMISSION (R386). After 1,000 matching epochs the furrow is admitted at the next epoch boundary. -/
  | restartAdmission
  /-- RESTART_FAIL_TIMEOUT (R386). Without 1,000 matches within 1 s, the restart fails with HW_FAULT. -/
  | restartFailTimeout
  /-- TIME_CORRECTION (R403). A servo correction slews or steps the time base and updates the clock state. -/
  | timeCorrection
  /-- REPLICA_COMPARE (R401). At each epoch boundary a replica is compared with the master and reloaded if it differs by more than 4 ns. -/
  | replicaCompare (f : Furrow) (drift : Int)
  /-- REFERENCE_LOSS (R406). The selected reference is lost and the clock enters HOLDOVER. -/
  | referenceLoss
  /-- HOLDOVER_EXPIRY (R406). HOLDOVER_TIME passes and the clock enters HOLDOVER_EXPIRED. -/
  | holdoverExpiry
  /-- HOLDOVER_EXT_MEASURE (R407). Each second in holdover, CLK10M_IN is measured and ADJ is set. -/
  | holdoverExtMeasure (deviation : Int)
  /-- PPS_IN_EDGE (R409). A PPS_IN edge is stamped and, in GRANDMASTER mode, labelled by TOD_RX to lock the time base. -/
  | ppsInEdge
  /-- TOD_RX_MESSAGE (R409). A TOD message is received and checked. -/
  | todRxMessage (bytes : List Byte)
  /-- TOD_TX_MESSAGE (R409). Between 100 and 500 ms after each second, TOD_TX sends the device's message. -/
  | todTxMessage
  /-- CLK10M_PRESENCE (R539). CLK10M_IN becomes present after 1,000 good periods, or is lost after 2 µs without an edge. -/
  | clk10mPresence (present : Bool)
  /-- PTP_MESSAGE_RX (R412). A received PTP message is handled by the engine or forwarded as a transparent clock. -/
  | ptpMessageRx
  /-- PTP_MESSAGE_TX (R412). At each profile interval the engine sends a PTP message through HOST. -/
  | ptpMessageTx (p kind : Nat)
  /-- ANNOUNCE_RECEIPT_TIMEOUT (R406). announceReceiptTimeout expires at a port, and the port state and reference are reconsidered. -/
  | announceReceiptTimeout (p : Nat)
  /-- STAMP_FIFO_READ (R415). The engine reads a stamp FIFO entry, and a pending overflow marker takes the freed entry. -/
  | stampFifoRead (p : Nat)
  /-- IRIG_FRAME (R417). An IRIG_IN frame is decoded, validated and used for lock, disciplining or comparison. -/
  | irigFrame (pulses : List Nat) (age : Nat)
  /-- PPS_OUT_EDGE (R419). A PPS output's leading edge falls at its configured instant. -/
  | ppsOutEdge (n : Nat)
  /-- LEAP_APPLY (R410). A leap second changes the UTC offset at 23:59:60 UTC. -/
  | leapApply
  /-- GPIO_EDGE_ACCEPT (R420). A GPIO level change held for DEBOUNCE is accepted and journalled with its first-sample stamp. -/
  | gpioEdgeAccept (n : Nat)
  /-- GPIO_CHATTER_QUIET (R420). An input silenced by chatter records again after 1 s without an accepted edge. -/
  | gpioChatterQuiet (n : Nat)
  /-- JOURNAL_RECORD_WRITE (R424). A staged record, or a pending loss marker, is written to the journal ring once room exists. -/
  | journalRecordWrite
  /-- JOURNAL_HOLDOFF_EXPIRY (R427). JOURNAL_HOLDOFF after the oldest unread record, the journal vector is signalled. -/
  | journalHoldoffExpiry
  /-- VECTOR_HOLDOFF_EXPIRY (R429). A vector's holdoff ends and its pending signal is sent. -/
  | vectorHoldoffExpiry (v : Nat)
  /-- GLEANER_TRANSFER_ARRIVAL (R437). A header transfer reaches the Gleaner and opens or completes a pair entry. -/
  | gleanerTransferArrival
  /-- GLEANER_PAIR_TIMEOUT (R437). 10 µs without the lead transfer builds the record from the other furrow's. -/
  | gleanerPairTimeout (seq : Nat)
  /-- GLEANER_RECORD_RELEASE (R440). A staged record is released on completion, VERDICT_WAIT, 1 ms or a full buffer. -/
  | gleanerRecordRelease (seq : Nat)
  /-- GLEANER_RECORD_WRITE (R441). A released record is written to its ring slot, or lost if the write queue refuses it. -/
  | gleanerRecordWrite (accepted : Bool)
  /-- GLEANER_FREEZE (R444). The freeze falls at T_g + POST_TIME + 100 µs or at half the ring. -/
  | gleanerFreeze
  /-- GLEANER_FROZEN (R444). The last staged records are written; the ring state becomes FROZEN and 0x380 fires. -/
  | gleanerFrozen
  /-- GLEANER_INIT_COMPLETE (R439). Ring initialisation completes and the CONFIGURE COMPLETION is sent. -/
  | gleanerInitComplete
  /-- GLEANER_COPY_DONE (R445). A COPY finishes writing records and its header to host memory. -/
  | gleanerCopyDone (bad : List Nat)
  /-- MIRROR_GRACE_EXPIRY (R447). A mirror copy of a TC5–TC7 frame not started 20 µs after the original has gone is discarded. -/
  | mirrorGraceExpiry (session uid : Nat)
  /-- STOOK_TICK (R449). At a tick time every counter unit latches its counters, or the tick is skipped. -/
  | stookTick
  /-- STOOK_SNAPSHOT_WRITTEN (R450). A snapshot is completely written to its host slot and 0x390 fires. -/
  | stookSnapshotWritten (ok : Bool)
  /-- REFRESH_DUE (R465). A rank's refresh interval passes and a refresh is issued or postponed. -/
  | refreshDue (ch rank : Nat) (postpone : Bool)
  /-- SELF_REFRESH_ENTRY (R465). After SR_IDLE without requests, a channel enters self-refresh. -/
  | selfRefreshEntry (ch : Nat)
  /-- PATROL_READ (R470). The patrol scrubber reads a half and writes back a corrected one. It reads the two halves of a burst: of each the bits in error of
  its ABP and what its BCH check finds, and of both the POISON bits in error. -/
  | patrolRead (ch abp0 bch0 abp1 bch1 poison : Nat)
  /-- DEEP_STORE_READ_DONE (R468). A deep store read returns and is checked for ABP, poison and BCH. -/
  | deepStoreReadDone (client ch half abp : Nat) (poison : Bool) (bch uid handle : Nat)
  /-- DISTURB_WINDOW_CLEAR (R478). At the start of each refresh window, the activate sample table clears. -/
  | disturbWindowClear (ch : Nat)
  /-- SPILL_DRAIN_TIMEOUT (R479). During DRAM_TRAIN, spill records still held after 1 s are dropped. -/
  | spillDrainTimeout
  /-- DRAM_TRAINING_DONE (R479). Channel training ends and clients resume; DRAM_TRAIN or RUN-to-CONFIG completes. -/
  | dramTrainingDone (ok0 ok1 : Bool) (margin0 margin1 : Nat)
  /-- REGION_INIT_DONE (R472). Region initialisation ends and DEEP_STORE_SET completes. -/
  | regionInitDone
  /-- LANE_EYE_DONE (R126). An eye measurement ends and its COMPLETION is sent. -/
  | laneEyeDone (m height width errors : Nat)
  /-- ADDR_FLUSH_DONE (R211). A flush walk ends and its COMPLETION gives the counts removed. -/
  | addrFlushDone
  /-- OPTION_BURN_DONE (R519). A burnt generation is read back and classified, and the burn completes. -/
  | optionBurnDone (fail0 fail1 fail2 : Nat)
  /-- CP_RELOAD_DONE (R517). A reload authenticates and starts an image, or halts, and the transports serve again. -/
  | cpReloadDone (img0 img1 : Option (List (BitVec 8)))
  /-- LAST_TRACEABLE_TIME_WRITE (R523). Every 1 s while the time is traceable, the time is written to the retained header. -/
  | lastTraceableTimeWrite
  /-- IDLE_TIMEOUT (R75). A session idle for IDLE_TIMEOUT closes and event 0x3C3 fires. -/
  | idleTimeout (slot : Nat)
  /-- MAINTAIN_LOCKOUT_END (R73). 60 s after three mismatches, MAINTAIN requests are compared again. -/
  | maintainLockoutEnd
  /-- SPI_STATUS (R92). An SPI STATUS transaction returns the flags and next reply length. -/
  | spiStatus
  /-- SPI_WRITE (R93). An SPI WRITE delivers a packet, or sets OVERRUN or CRC_ERR. -/
  | spiWrite (bytes : List (BitVec 8)) (upset : Bool) (ext : Option (List (BitVec 8)))
  /-- SPI_READ (R93). An SPI READ clocks out the next reply. -/
  | spiRead (n : Nat)
  /-- RING_CMD_TAIL (R86). A doorbell write to the command ring tail makes the device read the covered descriptors. -/
  | ringCmdTail (k be value : Nat)
  /-- RING_DESCRIPTOR_FETCH (R88). A command descriptor and packet are read from host memory, or a ring fault is raised. -/
  | ringDescriptorFetch (k : Nat) (desc packet : Option (List (BitVec 8))) (upset : Bool) (ext : Option (List (BitVec 8)))
  /-- RING_RPL_TAIL (R87). A doorbell write posts reply buffers and resumes a stopped command ring. -/
  | ringRplTail (k be value : Nat)
  /-- RING_PAIR_ENABLE (R492). Setting ENABLE in RING_CTRL_k starts a ring pair, or sets BAD_CONFIG. -/
  | ringPairEnable (k vector : Nat)
  /-- RING_PAIR_DISABLE (R75). Clearing ENABLE in RING_CTRL_k closes the ring pair's session. -/
  | ringPairDisable (k vector : Nat)
  /-- RING_FAULT_READ (R492). A read of RING_FAULT_k returns and clears the fault flags. -/
  | ringFaultRead (k be : Nat)
  /-- WINDOW_FAULT_READ (R489). A read of WINDOW_FAULT returns and clears its counts. -/
  | windowFaultRead (be : Nat)
  /-- NONCONTIG_ACCESS (R488). An access with non-contiguous byte enables is dropped, counted and fires 0x3C4. -/
  | noncontigAccess (off be : Nat) (write : Bool)
  /-- EVENT_STATUS_READ (R494). A read of EVENT_STATUS_r returns and clears the register and may release INT_N. -/
  | eventStatusRead (r be : Nat)
  /-- EVENT_MASK_WRITE (R494). A write of EVENT_MASK_r changes the masks and may assert INT_N. -/
  | eventMaskWrite (r be value : Nat)
  /-- JOURNAL_CONSUMER_WRITE (R493). A write of JOURNAL_CONSUMER frees ring entries, or is ignored and fires 0x3C4. -/
  | journalConsumerWrite (be value : Nat)
  /-- HFR_TX_TAIL (R497). A doorbell write to the host transmit ring makes the device send the described frames. -/
  | hfrTxTail (be value : Nat)
  /-- HOST_FRAME_SEND (R308). A transmit descriptor's frame is written into the Granary, or refused, and DONE is written. -/
  | hostFrameSend (desc frame : Option (List Byte))
  /-- HFR_RX_TAIL (R498). A doorbell write posts receive buffers, which lets HOST grant again. -/
  | hfrRxTail (be value : Nat)
  /-- HFR_TX_ENABLE (R496). Bit TX_ENABLE of HFR_CTRL enables or disables the host transmit ring. -/
  | hfrTxEnable (on : Bool)
  /-- HFR_RX_ENABLE (R496). Bit RX_ENABLE of HFR_CTRL enables or disables the host receive ring. -/
  | hfrRxEnable (on : Bool)
  /-- HFR_FAULT_READ (R496). A read of HFR_FAULT returns and clears the host ring fault flags. -/
  | hfrFaultRead (be : Nat)
  /-- MSIX_VECTOR_MASK_WRITE (R499). Unmasking an MSI-X vector signals its pending firing, subject to holdoff. -/
  | msixVectorMaskWrite (v : Nat) (mask : Bool)
  /-- REGISTER_WRITE (R487). A write to a register without behaviour of its own takes effect on the next core clock edge. -/
  | registerWrite (off be value : Nat)
  /-- OPEN_SESSION (R74). Negotiates the version and privilege and opens a session. -/
  | openSession (p : Packet)
  /-- CLOSE_SESSION (R75). Closes the session after its reply. -/
  | closeSession (p : Packet)
  /-- GET_IDENTITY (R82). Returns the part, revision, firmware and option generation. -/
  | getIdentity (p : Packet)
  /-- GET_STATE (R78). Returns the device state, SAFE cause and profile. -/
  | getState (p : Packet)
  /-- SET_STATE (R77). Makes a legal device state transition or profile selection. -/
  | setState (p : Packet)
  /-- ECHO (R82). Returns its parameters unchanged, as a keep-alive. -/
  | echo (p : Packet)
  /-- PORT_CONFIGURE (R122). Configures a port's mode, FEC, bring-up and classification fields. -/
  | portConfigure (p : Packet)
  /-- PORT_ENABLE (R123). Enables a port or holds it down. -/
  | portEnable (p : Packet)
  /-- PORT_STATUS (R124). Returns a port's link and lane status. -/
  | portStatus (p : Packet)
  /-- LANE_TUNE (R125). Sets the CTLE mode, density threshold and FFE taps of a lane. -/
  | laneTune (p : Packet)
  /-- LANE_EYE (R126). Starts an eye measurement on a lane. -/
  | laneEye (p : Packet)
  /-- MAC_FILTER_SET (R127). Writes a MAC perfect-match filter entry. -/
  | macFilterSet (p : Packet)
  /-- MAC_STATS_READ (R128). Latches and returns, and optionally clears, MAC counters. -/
  | macStatsRead (p : Packet)
  /-- XCVR_READ (R143). Reads bytes from a transceiver module. -/
  | xcvrRead (p : Packet)
  /-- XCVR_LEDGER_READ (R143). Returns a module's current ledger record and state. -/
  | xcvrLedgerRead (p : Packet)
  /-- XCVR_LEDGER_WRITE (R143). Writes or initialises a module ledger. -/
  | xcvrLedgerWrite (p : Packet)
  /-- XCVR_RETIRE (R141). Retires or reinstates a module and holds its port down accordingly. -/
  | xcvrRetire (p : Packet)
  /-- HARROW_STAGE_LOAD (R176). Configures, writes, clears or copies a stage or the policy in the inactive bank. -/
  | harrowStageLoad (p : Packet)
  /-- HARROW_BANK_SWAP (R179). Arms a bank swap at a tick. -/
  | harrowBankSwap (p : Packet)
  /-- HARROW_PATTERN_LOAD (R180). Writes, clears or copies patterns of the inactive bank. -/
  | harrowPatternLoad (p : Packet)
  /-- FRAGMENT_TABLE_READ (R181). Returns the fragment table summary and entries. -/
  | fragmentTableRead (p : Packet)
  /-- ADDR_ADD (R208). Adds a static address entry in both furrows. -/
  | addrAdd (p : Packet)
  /-- ADDR_DELETE (R209). Removes the static and learned entries of a key. -/
  | addrDelete (p : Packet)
  /-- ADDR_LOOKUP (R210). Looks up an address in one furrow. -/
  | addrLookup (p : Packet)
  /-- ADDR_FLUSH (R211). Starts a walk removing entries by scope. -/
  | addrFlush (p : Packet)
  /-- AGEING_SET (R212). Sets the furrow-wide ageing and learning or per-port learning settings. -/
  | ageingSet (p : Packet)
  /-- SHADOW_SET (R213). Sets the shadow base and compare mode and starts a new pass. -/
  | shadowSet (p : Packet)
  /-- SHADOW_STATUS (R214). Returns the shadow compare status. -/
  | shadowStatus (p : Packet)
  /-- MGROUP_SET (R215). Stages a change to a multicast group mask. -/
  | mgroupSet (p : Packet)
  /-- STREAM_BIND (R216). Stages the binding or modification of a stream's key and egress. -/
  | streamBind (p : Packet)
  /-- STREAM_UNBIND (R217). Stages the removal of a stream's key and binding. -/
  | streamUnbind (p : Packet)
  /-- STREAM_READ (R217). Returns a stream's binding word and key placement. -/
  | streamRead (p : Packet)
  /-- STREAM_SUPERVISE (R258). Sets or reads supervision, writes a parameter set, or resets a stream's records. -/
  | streamSupervise (p : Packet)
  /-- KEY_SLOT_WRITE (R259). Stages the writing or erasing of a key slot. -/
  | keySlotWrite (p : Packet)
  /-- TINE_IMAGE_LOAD (R260). Begins, sends data for, ends or aborts an image load into the inactive area. -/
  | tineImageLoad (p : Packet)
  /-- TINE_IMAGE_ACTIVATE (R261). Schedules activation of the loaded image at a time T. -/
  | tineImageActivate (p : Packet)
  /-- TINE_SAMPLE_SET (R262). Configures and restarts precise sampling. -/
  | tineSampleSet (p : Packet)
  /-- BED_STATUS (R263). Returns a Bed's state and counters. -/
  | bedStatus (p : Packet)
  /-- POOL_SET (R294). Sets global, class, port, profile or queue pool parameters. -/
  | poolSet (p : Packet)
  /-- POOL_READ (R295). Returns a half's pool levels for a port. -/
  | poolRead (p : Packet)
  /-- QUEUE_READ (R296). Returns a queue descriptor, optionally clearing DROP_SEEN. -/
  | queueRead (p : Packet)
  /-- RESIDENCE_LIMIT_SET (R297). Sets class residence limits. -/
  | residenceLimitSet (p : Packet)
  /-- DEEP_STORE_SET (R485). Places and enables the deep store client regions. -/
  | deepStoreSet (p : Packet)
  /-- DRILL_SET (R354). Sets or reads the weighted group quanta and Drill state. -/
  | drillSet (p : Packet)
  /-- SHAPER_SET (R355). Sets a class or stream shaper, or reads a stream shaper. -/
  | shaperSet (p : Packet)
  /-- METER_SET (R356). Configures, reads or unblocks a meter, or sets a colour map. -/
  | meterSet (p : Packet)
  /-- GATE_LIST_SET (R357). Writes, commits, reads or aborts gate control lists. -/
  | gateListSet (p : Packet)
  /-- PREEMPT_SET (R358). Sets or reads frame preemption. -/
  | preemptSet (p : Packet)
  /-- FURROW_STATUS (R392). Returns furrow, lead and Headland status and counters. -/
  | furrowStatus (p : Packet)
  /-- HEADLAND_POLICY_SET (R393). Sets the disagreement policy and flags. -/
  | headlandPolicySet (p : Packet)
  /-- HEADLAND_TURN (R394). Commands a turn of the lead. -/
  | headlandTurn (p : Packet)
  /-- FURROW_RESTART (R395). Restarts a fenced furrow or powers it off. -/
  | furrowRestart (p : Packet)
  /-- PRP_PAIR_SET (R396). Sets or clears a PRP network. -/
  | prpPairSet (p : Packet)
  /-- HSR_RING_SET (R397). Sets or clears an HSR ring. -/
  | hsrRingSet (p : Packet)
  /-- FRER_SET (R398). Sets, removes or reads an 802.1CB generation or recovery function. -/
  | frerSet (p : Packet)
  /-- WINNOW_READ (R399). Latches and returns, and optionally clears, Winnow counters. -/
  | winnowRead (p : Packet)
  /-- CLOCK_CONFIGURE (R430). Sets the clock mode, profile, servo limits and PPS outputs, and may set the time. -/
  | clockConfigure (p : Packet)
  /-- CLOCK_STATUS (R431). Returns the clock state and time. -/
  | clockStatus (p : Packet)
  /-- PTP_PORT_SET (R432). Sets or reads a port's PTP role and stamping. -/
  | ptpPortSet (p : Packet)
  /-- IRIG_SET (R433). Sets the IRIG input and output formats. -/
  | irigSet (p : Packet)
  /-- GPIO_CAPTURE_SET (R434). Sets or reads GPIO capture. -/
  | gpioCaptureSet (p : Packet)
  /-- JOURNAL_SET (R435). Configures, enables or disables the journal ring. -/
  | journalSet (p : Packet)
  /-- EVENT_ROUTE_SET (R436). Sets or reads source routes and vector holdoffs. -/
  | eventRouteSet (p : Packet)
  /-- GLEANER_SET (R456). Configures the Gleaner, returns its status or starts a copy. -/
  | gleanerSet (p : Packet)
  /-- GLEANER_TRIGGER (R457). Fires a trigger or re-arms a frozen ring. -/
  | gleanerTrigger (p : Packet)
  /-- MIRROR_SET (R459). Sets, clears or reads a mirror session. -/
  | mirrorSet (p : Packet)
  /-- STOOK_SET (R460). Configures the stook buffer and period. -/
  | stookSet (p : Packet)
  /-- COUNTER_SELECT (R461). Selects or reads performance counter events. -/
  | counterSelect (p : Packet)
  /-- STOOK_NOW (R462). Schedules a manual snapshot 10 µs ahead. -/
  | stookNow (p : Packet)
  /-- DRAM_CONFIGURE (R482). Describes an SDRAM channel. -/
  | dramConfigure (p : Packet)
  /-- DRAM_TRAIN (R483). Starts training of the named channels. -/
  | dramTrain (p : Packet)
  /-- DRAM_STATUS (R485). Returns a channel's state and counts. -/
  | dramStatus (p : Packet)
  /-- DRAM_MAP_SET (R484). Builds the device address map and disables the regions. -/
  | dramMapSet (p : Packet)
  /-- OPTION_READ (R520). Returns an option generation and its status. -/
  | optionRead (p : Packet)
  /-- OPTION_BURN (R518). Starts burning the next option generation. -/
  | optionBurn (p : Packet)
  /-- RETAINED_READ (R526). Reads retained memory, the backup registers or the retained status. -/
  | retainedRead (p : Packet)
  /-- RETAINED_WRITE (R527). Writes the host area or backup registers, or clears FAILED_LOADS. -/
  | retainedWrite (p : Packet)
  /-- CONFIG_DIGEST (R501). Returns CRC digests of the window and port configuration. -/
  | configDigest (p : Packet)
  /-- CP_RELOAD (R83). Closes every session and reloads the command processor firmware. -/
  | cpReload (p : Packet)
  /-- THERMAL_STATUS (R549). Returns sensor temperatures and rail voltages. -/
  | thermalStatus (p : Packet)
  /-- FALLOW_MIRROR_REFRESH (R490). At every fallow clock edge the fallow domain advances FALLOW_TICK and copies its slow status, lock bits, states and coarse time into the mirror registers. -/
  | fallowMirrorRefresh
  /-- IRIG_OUT_FRAME (R418). IRIG_OUT encodes the time base in the selected format each second, or stays idle under SQUELCH while the time is untraceable. -/
  | irigOutFrame
  /-- SCHEDULED_EVENT_WAKE (R33). 1 µs before a scheduled gate list transition or PTP transmission at one of its ports, the wake controller counts activity for the slice and requests its clocks. -/
  | scheduledEventWake (p : Nat)
  /-- GPIO_INPUT_CHANGE (R420). A GPIO input changes level, which starts its debounce, or ends one early as a glitch counted in GLITCHES_n. -/
  | gpioInputChange (n : Nat) (level : Bool)
  /-- DEEP_STORE_PLL_LOCK_LOSS (R480). The deep store PLL loses lock, and the channels it clocks fail, with event 0x39E or 0x39F cause 0x03. -/
  | deepStorePllLockLoss
  /-- VERIFY_MPACKET_RX (R345). A verify mPacket received from the partner, while ENABLE is set, is answered with a respond mPacket. -/
  | verifyMpacketRx (p : Nat)
  /-- BED_FALLOW_STOP (R35). A Bed that is idle, and holds no inline program, has its clock stopped, and its memories keep their contents under the scrubber. -/
  | bedFallowStop (bed : Nat)
  /-- REFERENCE_INPUT_TIMEOUT (R422). PPS_IN without an edge for 1.5 s, or TOD_RX without a valid message for 2 s, fires source 0x182 whether or not that input is the selected reference. -/
  | referenceInputTimeout (tod : Bool)
  deriving DecidableEq, Repr

end Sys2Proof
end

