-- ==== Sys2Proof/Decode.lean ====
section
/-! DEFINITION. The reading of a table word. The device takes commands, not instruction words: no row of spec/opcode_table.json
gives its command any bits, so no word spells a command (log 5). -/

namespace Sys2Proof

/-- The command that a word of nbits bits spells by the table: none, as no row of the table has bits. -/
def decodeTableWord (_nbits _w : Nat) : Option Instr := none

end Sys2Proof
end

