-- ==== Sys2Proof/Config.lean ====
section
/-! DEFINITION. What the spec leaves open: free values and free functions, with no body, so that nothing can be proved of a
particular value (log 2, log 16, log 17). -/

namespace Sys2Proof.Config

/-- The n-th free value: what the hardware holds where the spec states no value. A field of w bits takes it modulo 2^w. -/
opaque freeValue : Nat → Nat

/-- The order in which BANK_CRC takes the words of a stage or a pattern set (spec/05 R171 states the CRC, not the order). -/
opaque bankOrder : List Nat → List Byte

/-- The fixed internal order in which PORT_DIGEST takes the settings of a port (spec/15 R501). -/
opaque portOrder : List Nat → List Byte

/-- The GMAC initialisation vector of a tag check (IEC 62351-6; spec/07 R237): from the frame's kind, as its APP_KIND, and the bytes of its security
information, which are the security extension of a GOOSE or SV frame and the session header of a routed one. -/
opaque gmacIv : Nat → List Byte → List Byte

/-- The length in bytes of an IEC 62351-6 security extension, from Reserved1, Reserved2 and the bytes that follow the APDU
(spec/05 R153 recognises it "as that standard defines"); 0 where there is none. -/
opaque secExtLength : Nat → Nat → List Byte → Nat

/-- The metadata word that a timer activation reads, of its handle and deadline: alike in both furrows (spec/07 R228 says that it can be read, R236 that
the inputs are identical, neither what it holds; log 26). -/
opaque timerMetadata : Nat → Nat → BitVec 128

/-- May a command be issued to a bank at a clock, by the JESD79-4 timing of the speed bin, the density and the width, after the commands issued
before (clock, kind and bank, the latest first; kinds 0 activate, 1 precharge, 2 read, 3 write, 4 refresh of a rank) (spec/14 R463, R477 name that timing
and do not restate it; log 15). -/
opaque dramAllows : Nat → Nat → Nat → List (Nat × Nat × Nat) → Nat → Nat → Nat → Bool

/-- The 20 check bits of a sheaf's 256 data bits: spec/01 R43 states what the BCH code corrects and detects, not its polynomial. -/
opaque sheafCheck : List Byte → Nat

/-- The 64 bytes in which retained memory holds a DRAM description (spec/16 R523 states their place, not their layout). -/
opaque dramDescription : List Byte → List Byte

/-- The nominal trim values, of the identity row and of the calibration row (spec/16 R513 names them and gives none). -/
opaque nominalTrim : Nat → Nat

/-- The IEEE_C37_238 TLV of Announce (spec/12 R411 names it and its two fields, not their bytes). -/
opaque profileTlv : List Byte

/-- The clockClass of the own data set while LOCKED in mode IRIG, which R406 leaves unsent. -/
opaque lockedClass : Nat

end Sys2Proof.Config
end

