-- ==== Sys2Proof/Machine/Bytes.lean ====
section
/-! DEFINITION. Bit fields, byte order, CRCs and sparse-table access (spec/00_scope.md R11, R14). -/

namespace Sys2Proof.Machine

/-- Field [hi:lo] of a number (R11). -/
def bits (v hi lo : Nat) : Nat := (v >>> lo) % 2 ^ (hi + 1 - lo)

/-- Bit i of a number. -/
def bit (v i : Nat) : Bool := (v >>> i) % 2 == 1

/-- One as a number for a flag. -/
def b2n (b : Bool) : Nat := if b then 1 else 0

/-- A number with bit i set to b. -/
def setBit (v i : Nat) (b : Bool) : Nat :=
  match bit v i, b with
  | true, false => v - 2 ^ i
  | false, true => v + 2 ^ i
  | _, _ => v

/-- The bits of v that m does not hold. -/
def andNot (v m : Nat) : Nat := v - (v &&& m)

/-- How many of the lowest n bits of v are set. -/
def popcount : Nat → Nat → Nat
  | 0, _ => 0
  | n + 1, v => v % 2 + popcount n (v / 2)

/-- The positions below n whose bit is set, rising. -/
def bitList (n v : Nat) : List Nat := (List.range n).filter (bit v)

/-- A mask with the listed bits set. -/
def maskOf (l : List Nat) : Nat := l.foldl (fun m i => setBit m i true) 0

/-- The two's complement value of the low w bits of v. -/
def signed (w v : Nat) : Int :=
  let u := v % 2 ^ w
  if u < 2 ^ (w - 1) then (u : Int) else (u : Int) - (2 ^ w : Nat)

/-- The low w bits of an integer, as two's complement. -/
def unsigned (w : Nat) (i : Int) : Nat := (i % ((2 ^ w : Nat) : Int)).toNat

/-- Counter arithmetic: modulo 2^32. -/
def wrap32 (v : Nat) : Nat := v % 0x100000000

/-- Counter arithmetic: saturating at a maximum. -/
def satAdd (max v k : Nat) : Nat := if max < v + k then max else v + k

/-- The number that a list of bytes spells, first byte least significant (R14). -/
def leNat : List Byte → Nat
  | [] => 0
  | b :: bs => b.toNat + 256 * leNat bs

/-- The number that a list of bytes spells, first byte most significant (network order). -/
def beNat (bs : List Byte) : Nat := bs.foldl (fun v b => v * 256 + b.toNat) 0

/-- The n bytes at an offset; bytes past the end are zero. -/
def slice (bs : List Byte) (off n : Nat) : List Byte :=
  let t := (bs.drop off).take n
  t ++ List.replicate (n - t.length) 0

/-- The little-endian field of n bytes at an offset of a parameter block. -/
def le (bs : List Byte) (off n : Nat) : Nat := leNat ((bs.drop off).take n)

/-- The network-order field of n bytes at an offset of a frame. -/
def be (bs : List Byte) (off n : Nat) : Nat := beNat (slice bs off n)

/-- The n low bytes of v, little-endian. -/
def toLE : Nat → Nat → List Byte
  | 0, _ => []
  | n + 1, v => BitVec.ofNat 8 v :: toLE n (v / 256)

/-- The n low bytes of v in network order. -/
def toBE (n v : Nat) : List Byte := (toLE n v).reverse

/-- n zero bytes. -/
def zeros (n : Nat) : List Byte := List.replicate n 0

/-- Byte i of a list, zero past its end. -/
def byteAt (bs : List Byte) (i : Nat) : Nat := (bs.getD i 0).toNat

/-- The list with the bytes at an offset replaced; it keeps its length. -/
def overlay (bs : List Byte) (off : Nat) (new : List Byte) : List Byte :=
  (bs.take off ++ new ++ bs.drop (off + new.length)).take bs.length

/-- Do all bytes of a field hold zero. -/
def allZero (bs : List Byte) : Bool := bs.all (· == 0)

/-- n shift steps of a reflected CRC with polynomial p. -/
def crcShiftR (p : Nat) : Nat → Nat → Nat
  | 0, c => c
  | n + 1, c => crcShiftR p n (if c % 2 == 1 then (c / 2) ^^^ p else c / 2)

/-- A reflected CRC register over bytes. -/
def crcR (p init : Nat) (bs : List Byte) : Nat :=
  bs.foldl (fun c b => crcShiftR p 8 (c ^^^ b.toNat)) init

/-- CRC-32 of IEEE 802.3: reflected 0x04C11DB7, all ones in and out (spec/02 R60). -/
def crc32 (bs : List Byte) : Nat := (crcR 0xEDB88320 0xFFFFFFFF bs) ^^^ 0xFFFFFFFF

/-- CRC-32C: reflected 0x1EDC6F41, all ones in and out (spec/07 R229). -/
def crc32c (bs : List Byte) : Nat := (crcR 0x82F63B78 0xFFFFFFFF bs) ^^^ 0xFFFFFFFF

/-- n shift steps of a CRC of width w, most significant bit first. -/
def crcShiftL (w p : Nat) : Nat → Nat → Nat
  | 0, c => c
  | n + 1, c => crcShiftL w p n (if bit c (w - 1) then ((c * 2) % 2 ^ w) ^^^ p else (c * 2) % 2 ^ w)

/-- A CRC register of width w, most significant bit first, over bytes. -/
def crcL (w p init : Nat) (bs : List Byte) : Nat :=
  bs.foldl (fun c b => crcShiftL w p 8 (c ^^^ (b.toNat * 2 ^ (w - 8)))) init

/-- What a sparse table holds at an index, if it lists it. -/
def tget? {α : Type} (t : Table α) (k : Nat) : Option α :=
  match t with
  | [] => none
  | (j, v) :: r => if j == k then some v else tget? r k

/-- What a sparse table holds at an index; d where it lists none. -/
def tget {α : Type} (d : α) (t : Table α) (k : Nat) : α := (tget? t k).getD d

/-- Does a table list an index. -/
def tmem {α : Type} (t : Table α) (k : Nat) : Bool := (tget? t k).isSome

/-- The table without an index. -/
def tdel {α : Type} (t : Table α) (k : Nat) : Table α :=
  match t with
  | [] => []
  | (j, v) :: r => if j == k then r else (j, v) :: tdel r k

/-- The table with an index listed; the keys keep rising. -/
def tput {α : Type} (t : Table α) (k : Nat) (v : α) : Table α :=
  match t with
  | [] => [(k, v)]
  | (j, w) :: r =>
    if k < j then (k, v) :: (j, w) :: r
    else if k == j then (k, v) :: r
    else (j, w) :: tput r k v

/-- The table with value v at an index, where an unlisted index reads as d: v = d unlists the index. -/
def tset {α : Type} [DecidableEq α] (d : α) (t : Table α) (k : Nat) (v : α) : Table α :=
  if v = d then tdel t k else tput t k v

/-- One entry of a table changed, where an unlisted index reads as d. -/
def tmod {α : Type} [DecidableEq α] (d : α) (t : Table α) (k : Nat) (f : α → α) : Table α :=
  tset d t k (f (tget d t k))

/-- Every listed value of a table changed, where an unlisted index reads as d. -/
def tmap {α : Type} [DecidableEq α] (d : α) (t : Table α) (f : α → α) : Table α :=
  (t.map (fun e => (e.1, f e.2))).filter (fun e => decide (e.2 ≠ d))

/-- Counter k raised by n. A 32-bit register shows its lower bits, so it wraps there; a performance counter takes 48 (R453). -/
def cinc (t : Table Nat) (k n : Nat) : Table Nat := tset 0 t k ((tget 0 t k + n) % 2 ^ 48)

/-- Counter k raised by n, saturating at 2^32 - 1. -/
def csat (t : Table Nat) (k n : Nat) : Table Nat := tset 0 t k (satAdd 0xFFFFFFFF (tget 0 t k) n)

/-- Do the keys of a table rise strictly. -/
def Rising {α : Type} : Table α → Bool
  | [] => true
  | [_] => true
  | (j, _) :: (k, w) :: r => decide (j < k) && Rising ((k, w) :: r)

/-- The canonical form of a sparse table whose unlisted indexes read as d. -/
def Canon {α : Type} [DecidableEq α] (d : α) (t : Table α) : Bool :=
  Rising t && t.all (fun e => decide (e.2 ≠ d))

end Sys2Proof.Machine
end

