-- ==== Sys2Proof/Machine/State.lean ====
section
/-! DEFINITION. The state of the device: every register, table, queue, counter and mode of spec/00 to spec/18, as plain data.
The default of a field is its value at reset (spec/16 R504: reset clears; a setting with a stated default holds that default;
what the model itself chose is in the assumption log). Times of the device's own clocks are counted in shared core clock
edges of 0.8 ns (spec/01 R30). -/

namespace Sys2Proof.Machine

/-! ## What the device sends out -/

/-- The output pins while reset is asserted (R503): lane transmitters at electrical idle, PCIe link down, PPS, IRIG and TOD outputs at their idle levels, the
level of HL_ARB_OUT, INT_N released, the QSPI, I2C, MDIO and SPI interfaces released and their chip selects inactive, both SDRAM channels in reset. -/
structure PinLevels where
  lanesIdle : Bool := true
  pcieDown : Bool := true
  pps0Idle : Bool := true
  pps1Idle : Bool := true
  irigIdle : Bool := true
  todIdle : Bool := true
  arbOut : Bool := true
  intReleased : Bool := true
  qspiReleased : Bool := true
  i2cReleased : Bool := true
  mdioReleased : Bool := true
  spiReleased : Bool := true
  selectsInactive : Bool := true
  sdramReset : Bool := true
  deriving DecidableEq, Repr

/-- What leaves the device. The outbox is the model's own record of it (log 4). -/
inductive Output where
  /-- A reply written into the buffer of a slot of reply ring k (R87, step 1); its descriptor follows as host-memory writes. -/
  | ringReply (k slot : Nat) (bytes : List Byte)
  /-- A write to host memory (R14): journal, stook, Gleaner copies, descriptors. -/
  | hostWrite (addr : Nat) (bytes : List Byte)
  /-- A received frame written into the buffer of a slot of the host receive ring, with its descriptor (R498). -/
  | hostFrame (slot : Nat) (desc bytes : List Byte)
  /-- The result written into a slot of the host transmit ring (R497). -/
  | hostTxDone (slot result : Nat)
  /-- An MSI-X message: address, data (R499). -/
  | msix (vector addr data : Nat)
  /-- Frame bytes transmitted by a port, and whether they ended with a good FCS (R305, R344). -/
  | frame (port : Nat) (bytes : List Byte) (good : Bool)
  /-- A control code or mPacket of a port's PCS or MAC: verify, respond, PAUSE, PFC, ordered sets (R118, R345). -/
  | control (port : Nat) (bytes : List Byte)
  /-- What a register or SPI read returns (R488, R92). -/
  | readData (offset value : Nat)
  | spiOut (bytes : List Byte)
  /-- Bytes written to a module over I2C, or a word over MDIO (R97, R137). -/
  | i2cWrite (lane page off : Nat) (bytes : List Byte)
  /-- A read of n bytes of a module, whose answer is an operand of the command that makes it (R132, R134, R143). -/
  | i2cRead (lane page off n : Nat)
  /-- A write of the channel register of the multiplexer of master k (R129); 9 clock pulses and a STOP on that master (R131). -/
  | i2cMux (k value : Nat)
  | i2cRecover (k : Nat)
  | mdioWrite (address reg value : Nat)
  /-- A read of a PHY register over MDIO (R97); its answer is the operand of PHY_POLL. -/
  | mdioRead (address reg : Nat)
  /-- Messages and edges of pins: TOD_TX, IRIG_OUT, HL_ARB_OUT, PPS_OUT_n. -/
  | todTx (bytes : List Byte)
  | irigOut (format : Nat) (pulses : List (Nat × Nat))
  | arbOut (bytes : List Byte)
  | ppsEdge (n t64 width : Nat) (polarity : Bool)
  /-- A read of the QSPI flash by the boot ROM (R516): the instruction, the 3-byte address, the dummy clocks, the data lines and the clock in MHz. -/
  | qspiRead (instruction address dummy lines mhz : Nat)
  /-- The levels that the output pins take as reset is asserted (R503). -/
  | resetPins (levels : PinLevels)
  deriving DecidableEq, Repr

/-! ## Clocks, device state, supplies (spec/01, spec/02, spec/16, spec/17) -/

/-- The clocks and the time base (R30, R31, R400, R403). tb counts the time base in units of 1/20,480,000,000,000 ns, so that
one edge adds exactly 0.8 ns x (1 + ADJ) (log 80). slew is the phase still to be absorbed, in the same units. -/
structure Clocks where
  edges : Nat := 0
  tb : Nat := 0
  adj : Int := 0
  slew : Int := 0
  lockSh : Bool := false
  lockFa : Bool := false
  lockFb : Bool := false
  lockHl : Bool := false
  lockDs : Bool := false
  runDs : Bool := false
  xtalOk : Bool := false
  intOsc : Bool := false
  coreRunning : Bool := false
  coreStopped : Bool := false
  /-- Edges counted for the performance events that are cycles (R453): 0 and 1 with a furrow's core clock running, 2 and 3 with one of its dispatch
  queues full, 4 and 5 with a channel out of self-refresh, 6 and 7 with it in self-refresh (log 68). -/
  cycles : Table Nat := []
  deriving DecidableEq, Repr

/-- A place where a COMPLETION is still due: what its command carried (R64). -/
structure Ticket where
  session : Nat
  opcode : Nat
  tag : Nat
  src : Endpoint
  vlan : Option Nat := none
  trailer : Nat := 0
  verMajor : Nat
  verMinor : Nat
  /-- The legal-state mask of its row, for the DETAIL of a STATE_CONFLICT (R59, R79). -/
  mask : Nat := 0
  deriving DecidableEq, Repr

/-- The device state and what goes with it (R58, R76-R78, R502-R506). -/
structure Device where
  state : Nat := 0
  safeCause : Nat := 0
  profile : Nat := 0
  lastChange : Nat := 0
  resetPin : Bool := true
  resetPor : Bool := true
  relStep : Nat := 0
  relStopped : Bool := false
  lastReset : Nat := 1
  strapBypass : Bool := false
  strapTest : Bool := false
  /-- A transition to CONFIG whose channels train: its command, and the state it came from (R77). -/
  retrain : Option (Ticket × Nat) := none
  jtagLimited : Bool := true
  /-- The levels at which reset holds the output pins while it is asserted; none once it is released (R503). -/
  pins : Option PinLevels := some {}
  deriving DecidableEq, Repr

/-- Slice and Bed clocks (R30, R33-R38). Index of a slice clock: slice + 4 x (0 shared, 1 furrow A, 2 furrow B).
running and requested are 12-bit masks; last gives the edge of the last activity of each clock. -/
structure Slices where
  running : Nat := 0
  requested : Nat := 0
  last : Table Nat := []
  /-- Edge of the activity that asked for a stopped clock (R35). -/
  reqAt : Table Nat := []
  coreA : Bool := false
  coreB : Bool := false
  bedClocks : Nat := 0
  /-- Since when a furrow's core clock has been stopped by the wake controller, in ns (R38). -/
  stoppedSince : Table Nat := []
  /-- The stops that have ended: furrow, from, to. The wake controller reports the epochs within them to Headland (R38); older than 1 ms they are gone. -/
  stops : List (Nat × Nat × Nat) := []
  deriving DecidableEq, Repr

/-- The fallow mirror copies of the register window (R490), refreshed at each fallow clock edge. -/
structure Mirror where
  tick : Nat := 0
  r0044 : Nat := 0
  r0048 : Nat := 0
  r004c : Nat := 0
  r0050 : Nat := 0
  r0054 : Nat := 0
  r0058 : Nat := 0
  r005c : Nat := 0
  r0060 : Nat := 0
  r0064 : Nat := 0
  r0068 : Nat := 1
  deriving DecidableEq, Repr

/-- Supplies: is each furrow rail in its range, is each island powered, and the measured values in mV (R529, R530, R549).
Inputs, not registers: the values before the first measurement are the nominal ones (log 7). -/
structure Supply where
  faOk : Bool := true
  fbOk : Bool := true
  mvFa : Nat := 750
  mvFb : Nat := 750
  mvSh : Nat := 750
  mvBak : Nat := 1800
  poweredA : Bool := true
  poweredB : Bool := true
  deriving DecidableEq, Repr

/-- On-die sensors in 1/16 degree, their latches and the counts of THERMAL_STATUS (R546, R549). -/
structure Thermal where
  sensors : Table Int := []
  warn : Nat := 0
  crit : Nat := 0
  highest : Int := 0
  read : Bool := false
  ms105 : Nat := 0
  ms115 : Nat := 0
  readAt : Nat := 0
  /-- The T64 time of the reading. -/
  readT : Nat := 0
  deriving DecidableEq, Repr

/-- The PCIe endpoint (R541, R499): link, PERST, and the MSI-X capability of configuration space. -/
structure Pcie where
  up : Bool := false
  perst : Bool := false
  released : Bool := false
  msixEnable : Bool := false
  msixMaskAll : Bool := false
  deriving DecidableEq, Repr

/-! ## Options and retained state (spec/16) -/

/-- The part on the die (R3). -/
inductive Part where
  | cz6416
  | cz6408
  deriving DecidableEq, Repr

/-- One generation of the option store: three copies of the 128-bit burn record and of the 512-bit option row (R508). -/
structure Gen where
  rec0 : Nat := 0
  rec1 : Nat := 0
  rec2 : Nat := 0
  row0 : Nat := 0
  row1 : Nat := 0
  row2 : Nat := 0
  deriving DecidableEq, Repr

/-- A trim row in its three copies (R508), laid out as an option row is: its CRC-16 in the top two bytes (R512). -/
structure TrimRow where
  copy0 : Nat := 51675 * 2 ^ 496
  copy1 : Nat := 51675 * 2 ^ 496
  copy2 : Nat := 51675 * 2 ^ 496
  deriving DecidableEq, Repr

/-- A burn in progress (R519). -/
structure Burn where
  gen : Nat
  record : Nat
  row : Nat
  step : Nat
  startedAt : Nat
  ticket : Ticket
  deriving DecidableEq, Repr

/-- What is fused or burnt: kept across every reset (R504, R508). Which device it is is log 8. -/
structure NonVolatile where
  part : Part := .cz6416
  serial : Nat := 0
  /-- The trim rows (log 97): the values that R509 marks Trim, at their places in an option row; and the calibration, of the SerDes in bits 495:256, of
  the thermal sensors in 255:128 and of the voltages in 127:0. -/
  trimIds : TrimRow := {}
  trimCal : TrimRow := {}
  gens : Table Gen := []
  burn : Option Burn := none
  deriving DecidableEq, Repr

/-- The loaded options and the outcome of the load (R509, R513). -/
structure Options where
  use : Nat := 0
  fallback : Bool := false
  row : Nat := 0
  debugLock : Bool := false
  minFwEpoch : Nat := 0
  trimFault : Bool := false
  forced : Bool := false
  safeAfterBoot : Bool := false
  statusMap : Nat := 0
  /-- The trim values in force: as voted, or nominal with a trim fault (R508, R513). -/
  trimIds : Nat := 0
  trimCal : Nat := 0
  inbandOn : Bool := false
  mgmtMac : Nat := 0
  deriving DecidableEq, Repr

/-- Retained state (R521-R526): 8,192 bytes and 16 registers on VBAK, and what the last check found. -/
structure Retained where
  mem : Table Byte := []
  bad : List Nat := []
  backup : Table Word := []
  /-- The DRAM description saved for each channel, as its parameter block (R464). -/
  descs : Table (List Byte) := []
  valid : Bool := false
  replaced : Nat := 0
  lost : Nat := 0
  /-- The edge of the last write of LAST_TRACEABLE_TIME (R523). -/
  tracedAt : Nat := 0
  deriving DecidableEq, Repr

/-! ## The command processor and its transports (spec/02, spec/15) -/

/-- A command that has passed check 3 and awaits its final reply (R62). -/
structure Outst where
  tag : Nat
  opcode : Nat
  deriving DecidableEq, Repr

/-- A final reply kept for an in-band session (R91). -/
structure KeptReply where
  tag : Nat
  trailer : Nat
  packets : List (List Byte)
  deriving DecidableEq, Repr

/-- A session slot (R69-R75). gen is the generation of its last opening; idle is IDLE_TIMEOUT in seconds; closing: CLOSE_SESSION is answered OK,
and the session closes once that reply is written. -/
structure Session where
  isOpen : Bool := false
  gen : Nat := 0
  endpoint : Endpoint := .spi
  verMajor : Nat := 0
  verMinor : Nat := 0
  priv : Nat := 0
  idle : Nat := 0
  lastPacket : Nat := 0
  identity : Nat := 0
  outstanding : List Outst := []
  closing : Bool := false
  kept : List KeptReply := []
  deriving DecidableEq, Repr

/-- The command processor and the front end of its transports (R61-R73, R83, R515-R517). waiting: packets that have passed
checks 1-7, in arrival order. -/
structure CmdProc where
  released : Bool := false
  running : Bool := false
  halted : Bool := false
  haltCause : Nat := 0
  imageStarted : Nat := 0
  fwVersion : Nat := 0
  buildTime : Nat := 0
  reloading : Bool := false
  serving : Bool := false
  sessions : Table Session := []
  opens : Nat := 0
  mismatch : Nat := 0
  lockUntil : Option Nat := none
  waiting : List Packet := []
  /-- Each closed session, by identifier, of which commands still wait, as it stood when it closed (R75). -/
  closed : Table Session := []
  /-- CP_RELOAD is answered OK and its reply is not written yet: the reload starts when it is (R83). -/
  reloadAsked : Bool := false
  lastSlot : Nat := 3
  /-- The packet that runs came off the waiting list: those of its session behind it do not make it wait (R63). -/
  inTurn : Bool := false
  transportFaults : Nat := 0
  deriving DecidableEq, Repr

/-- A reply to an in-band command on its way into a frame: the port, the destination address, the tag control word and the packet (R90). -/
structure InbandReply where
  port : Nat
  dst : Nat
  vlan : Option Nat
  packet : List Byte
  /-- A kept reply sent again (R91): its command is not outstanding. -/
  again : Bool := false
  deriving DecidableEq, Repr

/-- The SPI target (R92, R93), and the replies of the in-band transport that no frame carries yet (R90). The packets that the target holds are the
ones of its endpoint in the front end's waiting list. -/
structure Spi where
  /-- The target's queue of at most 16 replies, and the replies that wait to enter it (log 71). -/
  replies : List (List Byte) := []
  held : List (List Byte) := []
  inband : List InbandReply := []
  crcErr : Bool := false
  overrun : Bool := false
  deriving DecidableEq, Repr

/-- The registers of a command ring pair (R84, R492), and of the host frame rings, which mirror it (R496). -/
structure Ring where
  cmdBaseLo : Word := 0
  cmdBaseHi : Word := 0
  cmdSize : Word := 0
  cmdTail : Nat := 0
  cmdHead : Nat := 0
  rplBaseLo : Word := 0
  rplBaseHi : Word := 0
  rplSize : Word := 0
  rplTail : Nat := 0
  rplHead : Nat := 0
  enable : Bool := false
  vector : Nat := 0xFF
  faults : Nat := 0
  ignored : Nat := 0
  /-- Replies that wait for a posted buffer (R87), oldest first. -/
  held : List (List Byte) := []
  deriving DecidableEq, Repr

/-- The host frame rings (R496-R498). -/
structure HostRings where
  tx : Ring := {}
  rx : Ring := {}
  txEnable : Bool := false
  rxEnable : Bool := false
  txVector : Nat := 0xFF
  rxVector : Nat := 0xFF
  faults : Nat := 0
  ignored : Nat := 0
  deriving DecidableEq, Repr

/-- Window faults, event status and masks, MSI-X table and pending bits (R489, R494, R499). An unlisted mask register is all ones. -/
structure Window where
  noncontig : Nat := 0
  narrow : Nat := 0
  status : Table Nat := []
  mask : Table Nat := []
  msix : Table Word := []
  pba : Nat := 0
  deriving DecidableEq, Repr

/-- Event routes, suppression and vector holdoffs (R421, R428, R429). An unlisted route is 0x80FF. lastFire: the edge of the
last firing under each limit (source + 1,024 x what the limit is kept for); lastSig and vecPend are by vector. -/
structure Events where
  route : Table Nat := []
  suppressed : Table Nat := []
  lastFire : Table Nat := []
  holdoff : Table Nat := []
  lastSig : Table Nat := []
  vecPend : Nat := 0
  deriving DecidableEq, Repr

/-- A journal record (R423). kind 1 is a loss marker. -/
structure JRecord where
  stamp : Nat
  qns : Nat
  source : Nat
  kind : Nat := 0
  cause : Nat := 0
  untraceable : Bool := false
  suppressed : Nat := 0
  sequence : Nat := 0
  payload : List Byte := []
  deriving DecidableEq, Repr

/-- A loss being counted (R423, R424): first lost source, sequence and stamp, and the count. -/
structure Loss where
  source : Nat
  sequence : Nat
  stamp : Nat
  count : Nat
  deriving DecidableEq, Repr

/-- The journal (R424-R427, R435). -/
structure Journal where
  enable : Bool := false
  base : Nat := 0
  sizeLog2 : Nat := 0
  vector : Nat := 0xFF
  watermark : Nat := 0
  holdoff : Nat := 0
  producer : Nat := 0
  consumer : Nat := 0
  lostCount : Nat := 0
  sequence : Nat := 0
  staged : List JRecord := []
  loss : Option Loss := none
  writtenAt : Table Nat := []
  oldestSince : Nat := 0
  wmArmed : Bool := true
  signalledOldest : Bool := false
  deriving DecidableEq, Repr

/-! ## Time (spec/12) -/

/-- CLOCK_CONFIGURE (R430). -/
structure ClockCfg where
  mode : Nat := 0
  profile : Nat := 1
  domain : Nat := 0
  prio1 : Nat := 128
  prio2 : Nat := 128
  slaveOnly : Bool := false
  holdoverExt : Bool := false
  stepInRun : Bool := true
  ppsFalling : Bool := false
  slewMax : Nat := 100
  stepThreshold : Nat := 100
  holdoverTime : Nat := 5
  utcOffset : Int := 0
  leap : Nat := 0
  ptpClass : Nat := 6
  todBaud : Nat := 115200
  deriving DecidableEq, Repr

/-- A PPS output (R419, R430): the settings in force, those that apply from the next leading edge, and that edge's latest time. -/
structure PpsOut where
  period : Nat := 1
  width : Nat := 10000
  polarity : Bool := false
  squelch : Bool := false
  offset : Int := 0
  next : Option (Nat × Nat × Bool × Bool × Int) := none
  lastEdge : Option Nat := none
  deriving DecidableEq, Repr

/-- IRIG_SET (R433). -/
structure IrigCfg where
  inFormat : Nat := 0
  outFormat : Nat := 0
  inLocal : Bool := false
  outLocal : Bool := false
  cf : Bool := false
  squelch : Bool := false
  localOffset : Int := 0
  tolerance : Nat := 10000
  deriving DecidableEq, Repr

/-- The labelled second of a TOD message (R409). -/
structure TodMsg where
  seconds : Nat
  utcOffset : Int
  flags : Nat
  clockClass : Nat
  accuracy : Nat
  variance : Nat
  deriving DecidableEq, Repr

/-- The data set of a foreign master, or of the device itself (R412, R431). -/
structure Parent where
  gm : Nat := 0
  prio1 : Nat := 128
  clockClass : Nat := 248
  accuracy : Nat := 0xFE
  variance : Nat := 0xFFFF
  prio2 : Nat := 128
  stepsRemoved : Nat := 0
  utcOffset : Int := 0
  leap : Nat := 0
  /-- The other flags of its Announce messages (UTC offset valid, PTP timescale, time and frequency traceable) and its timeSource. -/
  flags : Nat := 0
  timeSource : Nat := 0xA0
  deriving DecidableEq, Repr

/-- The control function that C37.118.1 assigns to an IRIG frame (R417): leap second pending and its sign (a second removed), daylight saving pending
and in force, the local offset in half hours and its sign, and time quality. -/
structure IrigControl where
  leapPending : Bool := false
  leapDelete : Bool := false
  dstPending : Bool := false
  dst : Bool := false
  offsetNegative : Bool := false
  offsetHalves : Nat := 0
  quality : Nat := 0
  deriving DecidableEq, Repr

/-- The reference inputs (R409, R417, R422, R539). Times are edges. -/
structure RefInputs where
  ppsPresent : Bool := false
  ppsLast : Nat := 0
  tod : Option TodMsg := none
  todValid : Bool := false
  todLast : Nat := 0
  clk10m : Bool := false
  irigLocked : Bool := false
  irigGood : Nat := 0
  irigBad : Nat := 0
  irigLast : Option Nat := none
  /-- The control function of the last valid frame with CF_C37118 (R417). -/
  irigControl : IrigControl := {}
  deriving DecidableEq, Repr

/-- What the PTP engine asked of a frame that it sends (R412, R413): its port, messageType, sequenceId and domainNumber; addCorr: a one-step
port adds the time since ingress to correctionField, else it writes originTimestamp; ingress and stamped in quarter nanoseconds. -/
structure PtpTx where
  port : Nat
  kind : Nat
  seq : Nat
  domain : Nat
  oneStep : Bool
  addCorr : Bool := false
  ingress : Nat := 0
  stamped : Option Nat := none
  /-- The source port identity of the message that it forwards or answers. -/
  src : Nat := 0
  deriving DecidableEq, Repr

/-- An entry of a stamp FIFO (R415): a stamp, or a marker with the count lost. -/
structure StampEnt where
  marker : Bool := false
  t64 : Nat
  q : Nat := 0
  kind : Nat := 0
  seq : Nat
  domain : Nat
  lost : Nat := 0
  /-- The model's own: the source port identity of the message that the stamp is of, by which the engine tells it (log 96). -/
  src : Nat := 0
  deriving DecidableEq, Repr

/-- A foreign master at a port: its port identity, data set, and the edges of its latest Announce messages. -/
structure Foreign where
  src : Nat
  data : Parent
  heard : List Nat
  deriving DecidableEq, Repr

/-- A message of which the engine awaits a partner: its source, sequenceId, times in quarter nanoseconds and correctionField. -/
structure PtpHalf where
  src : Nat
  seq : Nat
  t : Nat
  u : Nat := 0
  corr : Int := 0
  deriving DecidableEq, Repr

/-- A Sync forwarded by a two-step transparent port (R412): where it came in and goes out, what waits. -/
structure TcSync where
  src : Nat
  seq : Nat
  inPort : Nat
  out : Nat
  ingress : Nat
  /-- Residence time in quarter nanoseconds, once the stamp is read. -/
  residence : Option Int := none
  /-- The Follow_Up to send, once it is here or made from a one-step Sync. -/
  follow : Option (List Byte) := none
  deriving DecidableEq, Repr

/-- A port of the PTP engine (R412-R415, R432). state as IEEE 1588 encodes it; linkDelay in quarter nanoseconds. -/
structure PtpPort where
  role : Nat := 0
  oneStep : Bool := false
  tagged : Bool := false
  tci : Nat := 0
  asymmetry : Int := 0
  delayLimit : Nat := 10000
  state : Nat := 3
  linkDelay : Int := 0
  capable : Bool := true
  stampsLost : Nat := 0
  rxSync : Nat := 0
  rxFollow : Nat := 0
  rxReq : Nat := 0
  rxResp : Nat := 0
  fifo : List StampEnt := []
  marker : Option StampEnt := none
  foreign : List Foreign := []
  announceAt : Nat := 0
  syncAt : Nat := 0
  /-- Edge of the last message sent and next sequenceId, by messageType. -/
  txAt : Table Nat := []
  txSeq : Table Nat := []
  /-- The Sync that waits for its Follow_Up; the Pdelay_Req sent (t: its stamp); the Pdelay_Resp that waits (t: t2, u: t4). -/
  sync : Option PtpHalf := none
  req : Option PtpHalf := none
  resp : Option PtpHalf := none
  /-- Pdelay requests being answered: t is their ingress. -/
  answering : List PtpHalf := []
  qualAt : Option Nat := none
  deriving DecidableEq, Repr

/-- A frequency word in force from an edge, with the slew that began there: what it has to absorb and what it absorbs in one edge, in time base units
(R403, R407). -/
structure AdjSeg where
  since : Nat
  adj : Int
  slew : Int
  rate : Nat
  deriving DecidableEq, Repr

/-- The servo and the clock state (R403-R410, R431). lastDelta and pendDelta in quarter nanoseconds. adjHist: the frequency words in force in
LOCKED and the edges from which, newest first. -/
structure TimeState where
  cfg : ClockCfg := {}
  irig : IrigCfg := {}
  ref : RefInputs := {}
  state : Nat := 0
  goodRun : Nat := 0
  firstLock : Bool := true
  fromHoldover : Bool := false
  lastDelta : Int := 0
  steps : Nat := 0
  lastStep : Nat := 0
  holdoverAt : Nat := 0
  pendDelta : Option Int := none
  adjHist : List AdjSeg := []
  adjAt : Nat := 0
  ptpDiscards : Nat := 0
  utc : Int := 0
  leap : Nat := 0
  pps0 : PpsOut := {}
  pps1 : PpsOut := {}
  parent : Option Parent := none
  slavePort : Option Nat := none
  parentSrc : Nat := 0
  ptp : Table PtpPort := []
  /-- PTP frames received and not yet handled: port, ingress time in quarter nanoseconds, bytes. -/
  ptpRx : List (Nat × Nat × List Byte) := []
  tcs : List TcSync := []
  deriving DecidableEq, Repr

/-- A GPIO input under capture (R420, R434). changing: the time base (ns, quarter ns) and the edge of the first sample at the new level. -/
structure Gpio where
  level : Bool := false
  accepted : Bool := false
  edges : Nat := 0
  debounce : Nat := 0
  chatter : Nat := 0
  changing : Option (Nat × Nat × Nat) := none
  count : Nat := 0
  glitches : Nat := 0
  notRecorded : Nat := 0
  silentRecords : Nat := 0
  silenced : Bool := false
  recent : List Nat := []
  deriving DecidableEq, Repr

/-! ## Lanes, PCS and MAC (spec/03), transceivers (spec/04) -/

/-- PORT_CONFIGURE (R122). An unlisted PCP maps as R110 gives: n to TCn, 7 to TC6. -/
structure PortCfg where
  configured : Bool := false
  mode : Nat := 0
  fec : Nat := 0
  bringup : Nat := 0
  stepMask : Nat := 0
  neverFallow : Bool := false
  pauseRx : Bool := false
  pauseTx : Bool := false
  pfcTx : Bool := false
  maxFrame : Nat := 1536
  fallowDelay : Nat := 50
  pauseWatchdog : Nat := 10
  pfcRxMask : Nat := 0
  defaultPcp : Nat := 0
  streamDomain : Nat := 0
  mdio : Nat := 0
  gooseClass : Nat := 7
  svClass : Nat := 7
  stepWait : Nat := 20
  pcpMap : Nat := 0xDAC688
  fecLimit : Nat := 1000
  vidRules : List Nat := []
  deriving DecidableEq, Repr

/-- Link and bring-up (R99, R103-R108, R123, R124). phase: 0 idle, 1 Clause 37, 2 seeking lock after a step or a move,
3 has been up, 4 waiting to restart, 5 due to start. since is the edge at which the phase began. -/
structure LinkState where
  enabled : Bool := false
  heldDown : Bool := false
  rxUp : Bool := false
  txUp : Bool := false
  phyUp : Bool := false
  speed : Nat := 0
  runMode : Nat := 0
  runFec : Nat := 0
  result : Nat := 0
  partnerMask : Nat := 0
  offered : Nat := 0
  chosen : Nat := 0
  phase : Nat := 0
  since : Nat := 0
  failReported : Bool := false
  lastChange : Nat := 0
  retrains : List Nat := []
  fecArmed : Bool := true
  /-- The edge at which its present 1 ms window began (R98). -/
  fecFrom : Nat := 0
  /-- The fault sequence that the MAC sends while the link is down (R107): 0 none, 2 remote fault. -/
  fault : Nat := 0
  /-- Edge of the last poll of the PHY, or of the restart of its auto-negotiation (R97). -/
  polledAt : Nat := 0
  deriving DecidableEq, Repr

/-- Pause of one class (R116, R117): paused since, until (none: ended), in force from, and the end of the ignore period. -/
structure Pause where
  since : Nat := 0
  untilE : Option Nat := none
  fromE : Nat := 0
  waiting : Bool := false
  ignore : Option Nat := none
  deriving DecidableEq, Repr

/-- A MAC filter entry (R112, R127). -/
structure FilterEntry where
  valid : Bool := false
  addr : Nat := 0
  deriving DecidableEq, Repr

/-- The MAC (R111-R120): filter, furrow tags by class, counters and their half-range latch, wake buffer, pause, frame in reception. -/
structure MacState where
  filter : Table FilterEntry := []
  tag : Table Nat := []
  ctr : Table Nat := []
  base : Table Nat := []
  wakeUsed : Nat := 0
  /-- Frames that ended while the slice clock was stopped (R36), oldest first, with whether their reassembly failed. -/
  wakeDone : List (Nat × Bool) := []
  pause : Table Pause := []
  txPaused : Bool := false
  rx : Option Nat := none
  /-- The frame in reception that its sender has preempted, and the edge since which no byte of it has come (R346). -/
  rxHeld : Option (Nat × Nat) := none
  deriving DecidableEq, Repr

/-- LANE_TUNE and the receiver of a lane (R99-R103, R124-R126). -/
structure Lane where
  fixed : Bool := false
  step : Nat := 6
  density : Nat := 6
  pre : Nat := 4
  main : Nat := 52
  post : Nat := 8
  lock : Bool := false
  signal : Bool := false
  frozen : Bool := false
  goodBlocks : Nat := 0
  /-- Block alignment (R99): the bit offset of the hunt, its run of valid headers, the last headers while locked (true: valid), and alignment by
  markers. -/
  offset : Nat := 0
  run : Nat := 0
  seen : List Bool := []
  aligned : Bool := false
  /-- Symbol errors of the last 1 ms (R103): their edges and counts. -/
  errs : List (Nat × Nat) := []
  eye : Option Ticket := none
  deriving DecidableEq, Repr

/-- An I2C master (R129, R131). started: the multiplexer probe has been made. -/
structure I2c where
  started : Bool := false
  mux : Bool := false
  /-- The multiplexer's channel register. -/
  channel : Nat := 0
  failed : Nat := 0
  faulted : Bool := false
  tryAt : Nat := 0
  deriving DecidableEq, Repr

/-- A ledger record (R137). -/
structure Ledger where
  flags : Nat := 0
  writeSeq : Nat := 0
  laserHours : Nat := 0
  poweredHours : Nat := 0
  firstSeen : Nat := 0
  lastWrite : Nat := 0
  baselines : Table Nat := []
  lastMean : Nat := 0
  lastBand : Nat := 0
  insertions : Nat := 0
  retireReason : Nat := 0
  deriving DecidableEq, Repr

/-- What a ledger write is for (R139, R143): kind 0 the device's own, 1 XCVR_LEDGER_WRITE, 2 XCVR_RETIRE; fresh: a new ledger. -/
structure LedgerJob where
  kind : Nat
  fresh : Bool
  ticket : Option Ticket
  deriving DecidableEq, Repr

/-- A ledger write in progress (R139): the record and its slot, what asked for it, and the writes that wait behind it. Of one that overwrites a ledger
with a new one, also the seconds counted by then, which the new ledger does not take. -/
structure LedgerWrite where
  slot : Nat
  record : Ledger
  laser0 : Nat := 0
  powered0 : Nat := 0
  job : LedgerJob
  jobs : List LedgerJob := []
  deriving DecidableEq, Repr

/-- The module of a lane's cage (R130-R141). ledger is the record as the device keeps it, stored as last written. -/
structure Module where
  present : Bool := false
  identifier : Nat := 0
  tracked : Bool := false
  ready : Bool := false
  misses : Nat := 0
  insertedAt : Nat := 0
  identity : List Byte := []
  /-- Soft transmit disable, one bit per lane of the module. -/
  softDisable : Nat := 0
  external : List Byte := []
  alarms : Nat := 0
  /-- The last sample (R134), calibrated: temperature in 1/256 degree, supply voltage, and bias, transmit and receive power by channel. -/
  temp : Int := 0
  vcc : Nat := 0
  bias : List Nat := []
  txPower : List Nat := []
  rxPower : List Nat := []
  /-- Retirement holds its ports down (R141). -/
  held : Bool := false
  /-- Edge of the last poll of the cage, once there was one (R132). -/
  polledAt : Option Nat := none
  state : Nat := 0
  slot : Nat := 0
  /-- One of its slots holds a current record. -/
  hasRecord : Bool := false
  ledger : Ledger := {}
  stored : Ledger := {}
  countedAt : Nat := 0
  laserSec : Nat := 0
  poweredSec : Nat := 0
  newInsertion : Bool := false
  baseSum : Table Nat := []
  baseCount : Table Nat := []
  samples : Table (List Nat) := []
  write : Option LedgerWrite := none
  /-- Writes of XCVR_LEDGER_WRITE that wait for the ledger to be classified (R140, R143; log 78). -/
  asked : List LedgerJob := []
  /-- The edge at which the daily write is due (R139). -/
  dailyAt : Nat := 0
  deriving DecidableEq, Repr

/-! ## Harrow (spec/05) -/

/-- A key segment (R157). -/
structure Segment where
  field : Nat := 0
  width : Nat := 0
  offset : Nat := 0
  deriving DecidableEq, Repr

/-- An entry of a stage: key, value or LOW; mask or HIGH; result (R158). -/
structure StageEntry where
  key : Nat := 0
  mask : Nat := 0
  result : Nat := 0
  deriving DecidableEq, Repr

/-- A stage in a bank (R158, R171). entries lists the valid entries: by index, or by 4 x bucket + way for an exact-hash stage. -/
structure Stage where
  kind : Nat := 0
  size : Nat := 0
  segments : List Segment := []
  miss : Nat := 0
  entries : Table StageEntry := []
  inconsistent : Bool := false
  deriving DecidableEq, Repr

/-- A pattern (R155, R180). -/
structure Pattern where
  length : Nat := 0
  start : Nat := 0
  stop : Nat := 0
  bytes : List Byte := []
  mask : List Byte := []
  deriving DecidableEq, Repr

/-- The policy block of a bank (R166, R178): actions for TC0-TC7. -/
structure Policy where
  malformed : List Nat := [0, 0, 0, 0, 0, 1, 1, 1]
  undecoded : List Nat := [0, 0, 0, 0, 0, 0, 0, 1]
  fragMiss : List Nat := [0, 0, 0, 0, 0, 0, 0, 1]
  parseDepth : List Nat := [0, 0, 0, 0, 0, 0, 0, 0]
  fragTimeout : Nat := 10
  rudpPort : Nat := 102
  rgSi : Nat := 0xA1
  rsSi : Nat := 0xA2
  extraTpid : Nat := 0x9100
  deriving DecidableEq, Repr

/-- A bank of a furrow's Harrow (R171). -/
structure Bank where
  stages : Table Stage := []
  patterns : Table Pattern := []
  patInconsistent : Bool := false
  polInconsistent : Bool := false
  policy : Policy := {}
  deriving DecidableEq, Repr

/-- What a Harrow decides of a frame (R160, R163). dropped: 0 no, 1 rule, 2 exception, 3 same port, 4 empty flood,
5 header poison, 6 short. hostReason as R498, when host is set. -/
structure Decision where
  class_ : Nat := 0
  /-- CLASS after stage 7, before a demotion for an unbound stream (R166). -/
  stageClass : Nat := 0
  handle : Nat := 0
  egress : Nat := 0
  host : Bool := false
  hostReason : Nat := 0
  caseCode : Nat := 0
  /-- The action of that case (R166). -/
  action : Nat := 0
  dropped : Nat := 0
  disposition : Nat := 0
  mirror : Nat := 0
  program : Nat := 0
  tineMode : Nat := 0
  meter : Nat := 0
  parseFlags : Nat := 0
  appKind : Nat := 0
  bank : Nat := 0
  /-- Rules in force after R163: the digest's egress set (R164). -/
  digestEgress : Nat := 0
  /-- The metadata word after resolve (R160). -/
  md : Nat := 0
  deriving DecidableEq, Repr

/-- An entry of the fragment table (R168, R169). first is the ingress time of the first fragment in nanoseconds. -/
structure Frag where
  port : Nat := 0
  src : Nat := 0
  dst : Nat := 0
  proto : Nat := 0
  ident : Nat := 0
  v6 : Bool := false
  dec : Decision := {}
  first : Nat := 0
  timeout : Nat := 0
  seen : Nat := 0
  total : Option Nat := none
  frags : Nat := 0
  deriving DecidableEq, Repr

/-- A bank swap armed or draining (R172, R173): the tick in nanoseconds, the flip (T64) and the edge of the flip. -/
structure Swap where
  tick : Nat
  ticket : Ticket
  flippedAt : Option (Nat × Nat) := none
  deriving DecidableEq, Repr

/-! ## Address and stream tables (spec/06) -/

/-- An address or stream entry (R186, R187): kind 1 address, 2 stream. -/
structure TabEntry where
  kind : Nat := 1
  key : Nat := 0
  static : Bool := false
  group : Bool := false
  hit : Bool := false
  dest : Nat := 0
  age : Nat := 0
  handle : Nat := 0
  deriving DecidableEq, Repr

/-- A binding word with the key it was bound by (R189, R217). -/
structure Binding where
  bound : Bool := false
  egressKind : Nat := 0
  keyKind : Nat := 0
  egress : Nat := 0
  domain : Nat := 0
  ident : Nat := 0
  da : Nat := 0
  te : Nat := 0
  deriving DecidableEq, Repr

/-- A key slot (R204). -/
structure KeySlot where
  valid : Bool := false
  material : List Byte := []
  keyId : Nat := 0
  alg : Nat := 0
  len : Nat := 0
  notBefore : Nat := 0
  notAfter : Nat := 0
  deriving DecidableEq, Repr

/-- What a staging record keeps (R199): the object and its old value. -/
inductive Staged where
  | mgroup (g old : Nat)
  | bind (h : Nat) (old : Binding)
  | key (kind key : Nat) (old : Option Nat)
  | slot (n : Nat) (old : KeySlot)
  | hot (h old : Nat)
  | param (i : Nat) (old : List Byte)
  /-- A RESET of a stream: its record, and its deadline, as activations stamped before TE see them (R258). -/
  | reset (h : Nat) (old : Table Word) (dl : Option Nat)
  deriving DecidableEq, Repr

/-- A staging record (R199): TE in nanoseconds of the time base. -/
structure StagingRec where
  what : Staged
  te : Nat
  deriving DecidableEq, Repr

/-- A source address waiting to be learned (R194). -/
structure PendLearn where
  key : Nat
  port : Nat
  deriving DecidableEq, Repr

/-- A furrow's address and stream tables (R183). Address index: 4 x bucket + way. tokens: the learn budget in 1/1,250,000 of a learn. -/
structure Tables where
  addr : Table TabEntry := []
  strm : Table TabEntry := []
  direct : Table Bool := []
  ovf : Table TabEntry := []
  mgroup : Table Nat := []
  keys : Table KeySlot := []
  bind : Table Binding := []
  staging : List StagingRec := []
  pend : List PendLearn := []
  tokens : Nat := 1250000000
  tokensAt : Nat := 0
  sweepStamp : Nat := 0
  nextSweep : Option Nat := none
  ctr : Table Nat := []
  ovfArmed : Bool := true
  deriving DecidableEq, Repr

/-- Per-port learning (R212). -/
structure LearnCfg where
  learn : Bool := true
  flushDown : Bool := false
  limit : Nat := 0
  fidOffset : Nat := 0
  deriving DecidableEq, Repr

/-- Furrow-wide ageing and learning (R212). -/
structure AgeCfg where
  sweepPeriod : Nat := 100
  ageLimit : Nat := 3
  learnRate : Nat := 100
  deriving DecidableEq, Repr

/-- The shadow compare (R200, R201, R213, R214). -/
structure Shadow where
  base : Nat := 0
  mode : Nat := 0
  suspended : Bool := false
  unitA : Nat := 0
  unitB : Nat := 0
  passes : Nat := 0
  lastUnit : Nat := 0
  nextA : Nat := 0
  nextB : Nat := 0
  deriving DecidableEq, Repr

/-- A flush walk running (R211). -/
structure Flush where
  scope : Nat
  port : Nat
  fid : Nat
  mask : Nat
  ticket : Option Ticket
  /-- Keys learned behind the walk, which survive it. -/
  survivors : List Nat := []
  deriving DecidableEq, Repr

/-! ## Frames and their copies (spec/05, spec/08, spec/09) -/

/-- A frame copy (R272): its descriptor, its cells with the level each is charged to (R271, R278), and its flags. -/
structure Copy where
  desc : Nat := 0
  cells : List (Nat × Nat) := []
  fanout : Nat := 0
  twin : Bool := false
  earlyRelease : Bool := false
  /-- The furrows in whose crossbar its head has left toward an output (R312), one bit each. -/
  left : Nat := 0
  complete : Bool := false
  tailMark : Bool := false
  poison : Bool := false
  /-- The frame bytes written when the copy ended early, and the counter index of the cause (R315). -/
  cutAt : Option Nat := none
  cause : Nat := 0
  /-- The number of its first poisoned word (R315). -/
  poisonAt : Option Nat := none
  /-- Cells are still charged to level 0 (R277). -/
  undecided : Bool := true
  /-- The edge of its furrow's decision, from which a header transfer is timed (R310). -/
  decidedAt : Nat := 0
  /-- A header transfer is due, and the matcher has granted it (R302, R310). -/
  transfer : Bool := false
  granted : Bool := false
  /-- The other copy of the pair was lost before this one had a cell (R274). -/
  alone : Bool := false
  /-- Its lane entries have been taken, or it takes none (R288); its frame was dropped at the decision or at admission (R310). -/
  released : Bool := false
  dropped : Bool := false
  deriving DecidableEq, Repr

/-- What a meter took from a frame (R338). -/
structure Debit where
  meter : Nat
  tc : Bool
  tp : Bool
  deriving DecidableEq, Repr

/-- A word of a frame's copy that was read with wrong data and accepted (R43): its half and number, what it reads as, and the egress copies, by port and
id, that had the word before. -/
structure WrongWord where
  half : Nat
  word : Nat
  value : Nat
  had : List (Nat × Nat) := []
  deriving DecidableEq, Repr

/-- What follows once a whole frame has its cells (R267, R279): one of the device's own or of host software toward an egress set, one of host software
toward a RECIRC lane, each with the slot of its result, or the refill of a spill record. -/
inductive Ask where
  | direct (slot : Option Nat) (egress : Nat)
  | lookup (slot : Nat)
  | refill (rec : Nat)
  deriving DecidableEq, Repr

/-- A frame in the device. bytes are its frame bytes with the FCS as they arrive at the ball; start is the edge of its first preamble
bit, tick the tenths of an edge per byte. ns and qns are its ingress time (R109). -/
structure Frame where
  /-- 0 received, 1 host DIRECT, 2 host LOOKUP (R308). -/
  kind : Nat := 0
  port : Nat := 0
  bytes : List Byte := []
  start : Nat := 0
  tick : Nat := 100
  ns : Nat := 0
  qns : Nat := 0
  bank : Nat := 0
  lead : Nat := 0
  early : Nat := 0
  tag : Nat := 0
  arrUs : Nat := 0
  fidOff : Nat := 0
  /-- FRAME_LEN of the frame header, 0 before the frame's end, and STREAM_HANDLE, 0 before admission (R265). -/
  frameLen : Nat := 0
  handle : Nat := 0
  /-- Frame bytes received when the reception was cut (R107, R113), with the cause index of R320. -/
  rxCut : Option (Nat × Nat) := none
  rxDone : Bool := false
  /-- Taken by the device: 1 in-band management, 2 PTP (R112), 3 MAC control (R115); 0 for a frame that is switched. -/
  own : Nat := 0
  /-- Not admitted by the MAC (R114). -/
  refused : Bool := false
  /-- A case found late ended it with its head gone (R147). -/
  late : Bool := false
  /-- Receive limit in force: the smaller of MAX_FRAME and MAX_SDU (R113, R337). -/
  limit : Nat := 1536
  /-- Furrows whose decision is still due (R144), one bit each. -/
  due : Nat := 0
  /-- Furrows whose Harrow it entered (R193), one bit each. -/
  entered : Nat := 0
  /-- The port's settings as they were at start-of-frame (R122). -/
  domain : Nat := 0
  pauseRx : Bool := false
  pfcRxMask : Nat := 0
  defaultPcp : Nat := 0
  /-- The bytes received of a frame when its sender preempted it, and whether none has come since (R346). -/
  rxFloor : Nat := 0
  rxFrozen : Bool := false
  /-- Furrows whose frame-end checks are made, or wait for the decision (R147), one bit each. -/
  endSeen : Nat := 0
  decA : Option Decision := none
  decB : Option Decision := none
  admitted : Bool := false
  /-- Its admission waits for its cells to be rebooked (R279, R285), with what GRANARY_ADMIT found of its words. -/
  admitting : Option Nat := none
  queue : Nat := 0
  class_ : Nat := 0
  limited : Bool := false
  dropElig : Bool := false
  mark : Bool := false
  shaped : Bool := false
  expect : Nat := 0
  wrong : List WrongWord := []
  debits : List Debit := []
  copyA : Option Copy := none
  copyB : Option Copy := none
  /-- Inline activations whose verdict is awaited, by furrow (R233). -/
  holdA : Bool := false
  holdB : Bool := false
  /-- Output ports at which the LAN identifier of its trailer is still to be checked, when it ends (R368). -/
  lanDue : List Nat := []
  /-- The sequence numbers assigned at admission (R367, R371): network code and number; the R-TAG's number. -/
  netSeq : List (Nat × Nat) := []
  rtag : Option Nat := none
  spilled : Bool := false
  /-- Its cells are in the deep store (R287). -/
  spillDone : Bool := false
  refilled : Bool := false
  /-- The edge at which the last of its lane entries but for its mirror copies' has gone (R447). -/
  restGone : Option Nat := none
  reaped : Bool := false
  /-- The half in which it asks for its cells one by one, and what follows. -/
  asks : Option (Nat × Ask) := none
  /-- The bad-tail causes counted for it, 64 x furrow + cause; 64 x furrow where BAD_TAIL_IN was (R318). -/
  tailed : List Nat := []
  /-- LANE_FULL_DROPS has counted it (R288). -/
  laneFull : Bool := false
  /-- A program was dispatched for it by its lead furrow, and the verdict that was released (R440). -/
  prog : Bool := false
  verdict : Option Nat := none
  /-- The stamp work of a frame that the PTP engine sends. -/
  ptp : Option PtpTx := none
  deriving DecidableEq, Repr

/-- A lane entry (R288): the frame, the half of its copy, words moved (R301), how it was offered, and when its residence was checked. -/
structure Entry where
  uid : Nat
  half : Nat
  moved : Nat := 0
  offered : Option Nat := none
  cutThrough : Bool := false
  checkedAt : Nat := 0
  spill : Bool := false
  /-- A mirror copy: its session and its truncation length in bytes, 0 for none; whether a truncated one ends with a bad tail (R447). -/
  mirror : Option (Nat × Nat) := none
  cutBad : Bool := false
  /-- The PRP check (R369): 0 not made, 1 passed by a slot, 2 deferred, 4 passed unchecked (R367), 5 passed by a slot whose entry has been cleared
  since (R363). -/
  prp : Nat := 0
  tc7Waited : Bool := false
  deriving DecidableEq, Repr

/-- A word on a fabric link (R299): the fabric port that it goes to, its frame and which copy of it, its number in the copy and its word tag. -/
structure LinkWord where
  out : Nat
  uid : Nat
  id : Nat
  word : Nat
  tag : Nat
  deriving DecidableEq, Repr

/-- A crossbar (R301-R306, R320): grant pointers by 8 x output + rank, accept pointers by input, the class last offered by
72 x input + output, and its counters. -/
structure Crossbar where
  /-- The words that cross in the present cell time, in order. -/
  link : List LinkWord := []
  grant : Table Nat := []
  accept : Table Nat := []
  rot : Table Nat := []
  /-- The edge of its next cell time. -/
  at_ : Nat := 0
  ctr : Table Nat := []
  deriving DecidableEq, Repr

/-! ## The Granary (spec/08) -/

/-- A cell on its way back to the free list (R267, R291): the cell, the level that it is charged to, and whose it was. -/
structure Return where
  cell : Nat
  level : Nat
  queue : Nat
  cls : Nat
  port : Nat
  host : Bool
  deriving DecidableEq, Repr

/-- A half of the cell store (R266-R280). The free list is the returned cells, newest first, then the ranges never taken. -/
structure Half where
  stack : List Nat := []
  runs : List (Nat × Nat) := [(0, 81919)]
  epoch : Nat := 0
  /-- Quarantined cells whose link holds the free state of epoch 0, and those of epoch 1 (R269, R271). -/
  quarantined : List Nat := []
  quarRuns : List (Nat × Nat) := []
  quarantined1 : List Nat := []
  quarRuns1 : List (Nat × Nat) := []
  /-- Cells whose return waits for an allocator port (R267, R291), oldest first. -/
  returns : List Return := []
  rebuilding : Option Nat := none
  retired : List Nat := []
  fenced : Bool := false
  head : Table Nat := []
  stream : Nat := 0
  cls : Table Nat := []
  port : Table Nat := []
  shared : Table Nat := []
  hostShared : Nat := 0
  /-- The next edge of its accounting stage. -/
  at_ : Nat := 0
  ctr : Table Nat := []
  deriving DecidableEq, Repr

/-- A stream queue or a default queue (R281-R283). list: the frames held for a stream shaper. -/
structure Queue where
  kind : Nat := 0
  state : Nat := 0
  profile : Nat := 0xFF
  frames : Nat := 0
  cells : Nat := 0
  spilled : Nat := 0
  dropSeen : Bool := false
  list : List Nat := []
  lastClass : Nat := 0xFF
  deriving DecidableEq, Repr

/-- A queue profile (R284); none of a table's entry means the class default. -/
structure Profile where
  reserve : Nat := 0
  maxCells : Nat := 8192
  maxFrames : Nat := 8192
  spillCells : Nat := 2048
  deriving DecidableEq, Repr

/-- The settings of a port's pools (R276, R294). -/
structure PortPool where
  headroom : Nat := 64
  portMin : Nat := 64
  sharedMax : Nat := 16384
  deriving DecidableEq, Repr

/-- The Granary's registers, queues and settings (R273-R297). handleCells: HALF_CELLS by 2 x handle + half (R283). -/
structure Granary where
  halfA : Half := {}
  halfB : Half := {}
  descStack : List Nat := []
  descNext : Nat := 0
  descUsed : Nat := 0
  descArmed : Bool := true
  streamPool : Nat := 2048
  spillThreshold : Nat := 8192
  balance : Nat := 4096
  descReserve : Nat := 2048
  laneReserve : Nat := 8192
  classMin : Table Nat := []
  ports : Table PortPool := []
  profiles : Table Profile := []
  queues : Table Queue := []
  handleCells : Table Nat := []
  residence : Table Nat := []
  spillAt : Option Nat := none
  /-- Requests not granted in their drill clock (R279, R453). -/
  ungranted : Nat := 0
  deriving DecidableEq, Repr

/-! ## Drill (spec/10) -/

/-- A shaper (R327): T in units of 2^-40 bytes, and the edge of its last update. -/
structure Shaper where
  rate : Nat := 0
  burst : Nat := 0
  t : Int := 0
  at_ : Nat := 0
  deriving DecidableEq, Repr

/-- A meter (R330-R337): Tc and Tp in units of 2^-40 bytes; t_last in nanoseconds. -/
structure Meter where
  mode : Nat := 0
  actions : Nat := 0
  cir : Nat := 0
  cbs : Nat := 0
  pir : Nat := 0
  pbs : Nat := 0
  maxSdu : Nat := 0
  blocked : Bool := false
  tc : Int := 0
  tp : Int := 0
  last : Nat := 0
  green : Nat := 0
  yellow : Nat := 0
  red : Nat := 0
  drops : Nat := 0
  /-- What METER_SET READ's CLEAR has counted off, by counter (R449). -/
  base : Table Nat := []
  deriving DecidableEq, Repr

/-- A gate control list (R339): gate states and INTERVAL of its entries; BASE_TIME in nanoseconds. -/
structure GateList where
  entries : Table (Nat × Nat) := []
  length : Nat := 0
  base : Nat := 0
  cycle : Nat := 0
  deriving DecidableEq, Repr

/-- A committed change of gate list (R342, R357). -/
structure GateCommit where
  base : Nat
  cycle : Nat
  length : Nat
  at_ : Nat
  ticket : Ticket
  deriving DecidableEq, Repr

/-- Preemption of a port (R344-R347). state: 0 idle, 1 verifying, 2 verified, 3 failed. -/
structure Preempt where
  enable : Bool := false
  verifyDisable : Bool := false
  express : Nat := 0xC0
  addFrag : Nat := 0
  verifyTime : Nat := 10
  state : Nat := 0
  sends : Nat := 0
  sentAt : Nat := 0
  deriving DecidableEq, Repr

/-- What a Winnow check holds for a copy (R362, R363): kind 1 twin, 2 turn filter, 3 PRP, 4 HSR, 5 FRER; the entry's key and its slot. -/
structure Hold where
  kind : Nat
  key : Nat
  slot : Nat
  /-- The history or entry of its slot has been cleared since (R363): it holds the slot no more. -/
  gone : Bool := false
  deriving DecidableEq, Repr

/-- A copy at an egress port (R322, R359): words got, and its state: 0 not yet ruled, 1 queued, 2 deferred, 3 dropped, 4 in transmission,
5 preempted. bad: the cause index of R320 under which its last word carries TAIL_MARK. -/
structure EgCopy where
  uid : Nat
  /-- Which copy of the frame: its furrow, or 2 + 2 x session + furrow for a mirror copy. -/
  id : Nat
  fur : Nat
  input : Nat
  cls : Nat
  got : Nat := 0
  state : Nat := 0
  closed : Bool := false
  bad : Option Nat := none
  /-- Frame bytes of the copy, once its last word is here. -/
  total : Option Nat := none
  mirror : Option (Nat × Nat) := none
  cutBad : Bool := false
  holds : List Hold := []
  waits : Option (Nat × Nat) := none
  /-- The checks still to be made after the one it is deferred on. -/
  waitKind : Nat := 0
  firstAt : Nat := 0
  deferCounted : Bool := false
  /-- Bytes that the port has transmitted of it, in fragments already ended. -/
  sent : Nat := 0
  frags : Nat := 0
  /-- The edge at which its gate closes, as its fit test found it (R340), and whether GATE_DEFERRALS has counted it. -/
  close : Option Nat := none
  gateCounted : Bool := false
  deriving DecidableEq, Repr

/-- A transmission under way (R322): the copy, the edge of its first preamble bit, and the frame bytes that its class's shaper and deficit have
paid for already (R326, R328). -/
structure Tx where
  uid : Nat
  id : Nat
  start : Nat
  paid : Nat := 0
  deriving DecidableEq, Repr

/-- The Drill and the egress buffer of a port. queues: by class, the copies in the order Winnow passed them. -/
structure Drill where
  quantum : Table Nat := []
  deficit : Table Int := []
  round : Nat := 0
  shapers : Table Shaper := []
  active : Option GateList := none
  pend : GateList := {}
  /-- The list that took over with LENGTH 0: none is active, and it is not the pending one (R339, R342). -/
  idle : GateList := {}
  commit : Option GateCommit := none
  pre : Preempt := {}
  /-- The settings still in force until the next start opportunity at which no preempted frame is outstanding (R347). -/
  preOld : Option Preempt := none
  buf : List EgCopy := []
  queues : Table (List (Nat × Nat)) := []
  tx : Option Tx := none
  held : Option (Nat × Nat) := none
  freeAt : Nat := 0
  ctr : Table Nat := []
  colourMap : Nat := 0x44444444
  shapeCounted : Nat := 0
  deriving DecidableEq, Repr

/-! ## Winnow (spec/11) -/

/-- A twin history (R361): slots are 2 bits each. -/
structure Twin where
  valid : Bool := false
  topUs : Nat := 0
  top : Nat := 0
  slots : Nat := 0
  /-- The whole microsecond count at the last arrival (R365): what the pair's staleness is judged by. -/
  lastUs : Nat := 0
  deriving DecidableEq, Repr

/-- An entry of a turn filter (R382). -/
structure TurnEntry where
  port : Nat
  early : Nat
  tag : Nat
  slot : Nat := 0
  ns : Nat := 0
  cls : Nat := 0
  seen : Nat := 0
  deriving DecidableEq, Repr

/-- The Winnow of an egress port: twin histories by ingress port, the turn filter, the last tag passed by 8 x input + class, counters. -/
structure Winnow where
  twins : Table Twin := []
  filter : List TurnEntry := []
  lastTag : Table Nat := []
  ctr : Table Nat := []
  /-- What WINNOW_READ's CLEAR has counted off (R449). -/
  base : Table Nat := []
  deriving DecidableEq, Repr

/-- A discard entry (proxy = false) or proxy entry of the node table (R367). net: 0-3 PRP networks, 16-23 HSR rings. -/
structure Node where
  proxy : Bool
  net : Nat
  src : Nat
  egress : Nat := 0
  top : Nat := 0
  valid : Bool := false
  slots : Nat := 0
  seq : Nat := 0
  last : Nat := 0
  lan : Nat := 0
  deriving DecidableEq, Repr

/-- A PRP network (R368, R396). -/
structure PrpNet where
  enable : Bool := false
  lanA : Nat := 0
  lanB : Nat := 0
  flags : Nat := 0
  entryForget : Nat := 400
  nodeForget : Nat := 60
  deriving DecidableEq, Repr

/-- An HSR ring (R370, R397). mode 1 RedBox, 2 QuadBox. -/
structure HsrRing where
  enable : Bool := false
  portA : Nat := 0
  portB : Nat := 0
  mode : Nat := 1
  peer : Nat := 0
  entryForget : Nat := 400
  nodeForget : Nat := 60
  deriving DecidableEq, Repr

/-- A recovery function (R371, R398). recov is RecovSeqNum; hist its SequenceHistory, bit n for recov - n; sending the numbers
whose copy is SENDING. -/
structure FrerRec where
  alg : Nat := 0
  history : Nat := 2
  flags : Nat := 0
  timeout : Nat := 1
  take : Bool := true
  recov : Nat := 0
  hist : Nat := 0
  sending : List Nat := []
  /-- The last sequence number accepted (R398); 0 before any (log 25). -/
  lastSeq : Nat := 0
  last : Nat := 0
  passed : Nat := 0
  discarded : Nat := 0
  outOfOrder : Nat := 0
  rogue : Nat := 0
  resets : Nat := 0
  basePassed : Nat := 0
  baseDiscarded : Nat := 0
  testedAt : Nat := 0
  /-- The edge of its last latent error reset (log 25). -/
  baseAt : Nat := 0
  deriving DecidableEq, Repr

/-- Network redundancy shared by all ports (R366-R371). frerRec is keyed by 64 x handle + port. -/
structure Redund where
  prp : Table PrpNet := []
  hsr : Table HsrRing := []
  nodes : List Node := []
  gen : Table Nat := []
  frerRec : Table FrerRec := []
  /-- The edge of the sweeper's last visit to the twin histories (R361). -/
  sweptAt : Nat := 0
  deriving DecidableEq, Repr

/-! ## Tines and Beds (spec/07) -/

/-- A program table entry (R250). -/
structure ProgEnt where
  flags : Nat := 0
  entry : Nat := 0
  timerEntry : Nat := 0
  budget : Nat := 16
  default_ : Nat := 0
  deriving DecidableEq, Repr

/-- An image area (R252): none loaded and verified while loaded is clear. -/
structure Image where
  loaded : Bool := false
  version : Nat := 0
  layout : Nat := 0
  code : List Byte := []
  consts : List Byte := []
  progs : Table ProgEnt := []
  deriving DecidableEq, Repr

/-- A finding (R239). -/
structure Finding where
  ns : Nat
  handle : Nat
  prog : Nat
  timer : Bool
  code : Nat
  d0 : Word
  d1 : Word
  qns : Nat := 0
  deriving DecidableEq, Repr

/-- An activation waiting in the dispatch queue (R223): its frame, or none for a timer. ns is its ingress time or deadline. -/
structure QEnt where
  uid : Option Nat
  handle : Nat
  prog : Nat
  ns : Nat
  area : Nat
  seq : Nat
  deriving DecidableEq, Repr

/-- An activation on a Tine (R227, R226): phase 0 running, 1 waiting for a cryptographic unit, 2 retired, stopped or faulted. stall: the cause
of R254 while it waits. -/
structure Act where
  uid : Option Nat
  handle : Nat
  prog : Nat
  ns : Nat
  area : Nat
  seq : Nat
  inline_ : Bool := false
  pc : Nat := 0
  g : Table Word := []
  win : Table (Nat × Nat) := []
  data : Table (Option Byte) := []
  slot : Option Nat := none
  recBuf : Table Word := []
  hst : Option Bool := none
  tm : Option (Option Nat) := none
  finds : List Finding := []
  locked : Bool := false
  lockDone : Bool := false
  /-- The metadata word (R160), and the free value that a timer activation reads for it. -/
  md : Nat := 0
  start : Nat := 0
  cycles : Nat := 0
  stall : Nat := 0
  phase : Nat := 0
  authRd : Nat := 0
  authCode : Nat := 0
  authDone : Nat := 0
  /-- The word of an AUTH that waits for its unit, and its cycles without the wait. authDone: the cycle count at its retirement. -/
  authWord : Nat := 0
  authCost : Nat := 0
  endedAt : Nat := 0
  deriving DecidableEq, Repr

/-- An activation whose verdict is not yet released (R234). window: does it hold an entry of the release window; one that never started holds none. -/
structure RelEnt where
  seq : Nat
  inline_ : Bool
  window : Bool := true
  uid : Option Nat
  handle : Nat
  since : Nat
  verdict : Option Nat := none
  finds : List Finding := []
  deriving DecidableEq, Repr

/-- A record in the cache (R225): its words, and the sequence of its last use. -/
structure Rec where
  words : Table Word := []
  pinned : Bool := false
  used : Nat := 0
  deriving DecidableEq, Repr

/-- An activation of an image pending (R252, R261): T in nanoseconds. -/
structure ImgAct where
  t : Nat
  since : Nat
  ticket : Option Ticket := none
  deriving DecidableEq, Repr

/-- A Bed (R218-R257). tines lists the busy ones. -/
structure Bed where
  area0 : Image := {}
  area1 : Image := {}
  active : Nat := 0
  pendAct : Option ImgAct := none
  params : Table (List Byte) := []
  recs : Table Rec := []
  fetching : List Nat := []
  queue : List QEnt := []
  tines : Table Act := []
  release : List RelEnt := []
  lock : Table Nat := []
  deadlines : Table Nat := []
  /-- Timer activations that found the queue full: the stream, the deadline and the edge of the next offer (R223). -/
  retry : List (Nat × Nat × Nat) := []
  ctr : Table Nat := []
  fifo : List Finding := []
  seq : Nat := 0
  /-- The count of record uses, which ranks the records by their last use (R225). -/
  uses : Nat := 0
  noProgArmed : Bool := false
  stopped : Bool := false
  locked : Bool := false
  shaFree : Nat := 0
  gcmFree : Nat := 0
  deriving DecidableEq, Repr

/-- The sampling of a furrow (R253, R262). buf holds the newest first. -/
structure Sampling where
  mode : Nat := 0
  filter : Nat := 0
  n : Nat := 1
  count : Nat := 0
  buf : List (List Byte) := []
  /-- The edge at which the count last reached N, and the Tine sampled there, none where a full buffer took no entry. -/
  reached : Option (Nat × Option Nat) := none
  /-- The lowest-numbered Tine counted at the last edge of a retirement: that edge, the Tine and its entry. -/
  low : Option (Nat × Nat × List Byte) := none
  deriving DecidableEq, Repr

/-- An image load held open by a session (R260). -/
structure ImgLoad where
  session : Nat
  mask : Nat
  total : Nat
  bytes : List Byte
  /-- The END waiting for its verification. -/
  ticket : Option Ticket := none
  deriving DecidableEq, Repr


/-! ## Gleaner, mirror, stook (spec/13) -/

/-- A header transfer (R310): the frame it came from, the furrow that sends it, and what the record takes from it (R438). code: 6 or 7 of the VERDICT
table from the decision, else 0. -/
structure GlXfer where
  uid : Nat
  fur : Nat
  port : Nat
  tag : Nat
  lead : Nat
  ns : Nat
  qns : Nat
  handle : Nat
  code : Nat
  prog : Bool
  head : List Byte
  /-- What has become of the frame by now: its length once it has ended, and the verdict released by the furrow that leads for it. -/
  length : Option Nat := none
  verdict : Option Nat := none
  deriving DecidableEq, Repr

/-- A pair entry in the staging buffer (R437, R440). seq: none while the entry was refused. built: the record exists. -/
structure GlRec where
  x : GlXfer
  seq : Option Nat
  opened : Nat
  built : Bool
  deriving DecidableEq, Repr

/-- A COPY running (R445). -/
structure GlCopy where
  first : Nat
  count : Nat
  addr : Nat
  startSeq : Nat
  startedAt : Nat
  ticket : Ticket
  deriving DecidableEq, Repr

/-- The Gleaner (R437-R445, R456-R458). state as R445 byte 31; T_g in nanoseconds. slots lists the written records of the ring. -/
structure Gleaner where
  enable : Bool := false
  mode : Nat := 0
  flags : Nat := 0
  verdictWait : Nat := 10
  postTime : Nat := 0
  handle : Nat := 0
  gpioMask : Nat := 0
  state : Nat := 0
  seq : Nat := 0
  tg : Nat := 0
  trigSeq : Nat := 0
  trigSrc : Nat := 0
  freezeCause : Nat := 0
  freezeSeq : Nat := 0
  fullReported : Bool := false
  input : List GlXfer := []
  recs : List GlRec := []
  recent : List (Nat × Nat × Nat) := []
  outq : List (Nat × List Byte) := []
  slots : Table (List Byte) := []
  initAt : Nat := 0
  /-- The commands whose COMPLETION the initialisation owes, and the copies to make, in order: the first is being made. -/
  initTickets : List Ticket := []
  copies : List GlCopy := []
  /-- When the input may drain its next transfer and the writer write its next record, in 1/97 of an edge (R437, R441). -/
  inAt : Nat := 0
  outAt : Nat := 0
  ctr : Table Nat := []
  deriving DecidableEq, Repr

/-- A mirror session (R446, R459). -/
structure MirrorCfg where
  set : Bool := false
  port : Nat := 0
  flags : Nat := 0
  classMask : Nat := 0
  truncate : Nat := 0
  inMask : Nat := 0
  egMask : Nat := 0
  copies : Nat := 0
  drops : Nat := 0
  deriving DecidableEq, Repr

/-- A snapshot being written (R450): its header fields and its sections. T in nanoseconds. -/
structure Snapshot where
  t : Nat
  manual : Bool
  header : List Byte
  body : List Byte
  ticket : Option Ticket := none
  /-- What its latch cleared: the skipped ticks, STEPPED, the longest waits of TC7 by furrow and by egress port, and the sample buffers. -/
  skipped : Nat := 0
  stepped : Bool := false
  waits : List Nat := []
  egWaits : Table Nat := []
  bufs : List (List (List Byte)) := []
  deriving DecidableEq, Repr

/-- The stook (R448-R454, R460-R462). prev: the last latch of the four bandwidth counts by 4 x port + count. -/
structure Stook where
  enable : Bool := false
  samples : Bool := false
  meters : Bool := false
  base : Nat := 0
  slotBytes : Nat := 0
  nSlots : Nat := 0
  period : Nat := 0
  generation : Nat := 0
  lastGen : Nat := 0xFFFFFFFF
  lastSlot : Nat := 0
  skipped : Nat := 0
  stepped : Bool := false
  nextTick : Option Nat := none
  manual : Option (Nat × Ticket) := none
  latchUs : Option Nat := none
  prev : Table Nat := []
  writing : Option Snapshot := none
  deriving DecidableEq, Repr

/-- A performance counter (R453): its event, one that applies at the next latch, and its event's count when it was selected. -/
structure Perf where
  event : Nat := 0
  pend : Option Nat := none
  base : Nat := 0
  deriving DecidableEq, Repr

/-! ## The deep store (spec/14) -/

/-- A request of a client to a channel (R473, R477): a burst of 64 bytes and the halves of it that are moved. heldTill: the clock at which its
activate is let go by a throttle (R478). -/
structure DramReq where
  client : Nat
  write : Bool
  burst : Nat
  mask : Nat
  seq : Nat
  heldTill : Option Nat := none
  deriving DecidableEq, Repr

/-- A bank: its queue of 16, its open row and the column commands since its activate (R477). -/
structure DramBank where
  queue : List DramReq := []
  row : Option Nat := none
  hits : Nat := 0
  deriving DecidableEq, Repr

/-- The scheduler of a channel (R473, R477). Banks are numbered 16 x rank + 4 x bank + bank group. -/
structure Sched where
  /-- Requests that wait in their client's queue, by client. -/
  clients : Table (List DramReq) := []
  banks : Table DramBank := []
  nextSeq : Nat := 0
  /-- The edge up to which its SDRAM clocks have run (log 15). -/
  ranTo : Nat := 0
  /-- Whose turn of the round robin it is, and the requests left of it. -/
  turn : Nat := 1
  left : Nat := 0
  /-- The period of 64 µs for which PATROL takes its requests, and those taken. -/
  patrolIn : Nat := 0
  patrolTaken : Nat := 0
  pointer : Nat := 0
  /-- The direction, and the writes since the turn to it. -/
  writing : Bool := false
  written : Nat := 0
  /-- SDRAM clocks since reset, and the latest commands: clock, kind and bank. -/
  clock : Nat := 0
  recent : List (Nat × Nat × Nat) := []
  /-- Counts of read bursts, write bursts, activates and throttle delay cycles (R453). -/
  reads : Nat := 0
  writes : Nat := 0
  activates : Nat := 0
  delays : Nat := 0
  deriving DecidableEq, Repr

/-- An SDRAM channel (R463-R470, R478-R482, R485). state as R485 byte 0. samples: the activate table, by the key (rank, bank, row group) as one number;
throttled lists the clients throttled in this window, with their key. -/
structure Chan where
  ranks : Nat := 0
  width : Nat := 8
  density : Nat := 8
  speed : Nat := 0
  flags : Nat := 4
  srIdle : Nat := 100
  threshold : Nat := 2048
  throttleNs : Nat := 200
  patrolHours : Nat := 24
  state : Nat := 0
  cause : Nat := 0
  margin : Nat := 0
  faults : Nat := 0
  poisonReads : Nat := 0
  refillDrops : Nat := 0
  copyErrors : Nat := 0
  throttles : Nat := 0
  passes : Nat := 0
  /-- When the latest patrol read of the channel was due (R470). -/
  patrolAt : Nat := 0
  /-- The lower half of the burst that the patrol reads next, and the halves of it that a client has written since that read was due, one bit each
(R470). -/
  patrolPos : Nat := 0
  patrolOwn : Nat := 0
  /-- When the latest refresh of each rank was due, and when the refresh window began (R465, R478). -/
  refreshedAt : Table Nat := []
  windowAt : Nat := 0
  postponed : Table Nat := []
  /-- Refresh commands of each rank that are postponed no longer (R477). -/
  due : Table Nat := []
  /-- Refresh commands issued (R453). -/
  refreshes : Nat := 0
  /-- It is part of the map in force (R471, R480). -/
  mapped : Bool := false
  /-- Activates of each bank since reset modulo 8, by 16 x rank + bank (R478). -/
  acts : Table Nat := []
  lastRequest : Nat := 0
  samples : Table Nat := []
  throttled : List (Nat × Nat) := []
  recentFaults : List Nat := []
  sched : Sched := {}
  deriving DecidableEq, Repr

/-- A spill record (R476): the frame it holds, in state 0 writing, 1 held, 2 refilling, 3 freed. -/
structure SpillRec where
  uid : Nat
  state : Nat := 0
  ring : Nat
  offset : Nat
  cells : Nat
  handle : Nat
  port : Nat
  arrUs : Nat
  /-- The half that was chosen for the frame (R292). -/
  half : Nat := 0
  /-- The halves that its refill has yet to get, by device address (R469). -/
  reads : List Nat := []
  /-- Its lane entry has gone while its writes had yet to complete (R476). -/
  gone : Bool := false
  deriving DecidableEq, Repr

/-- A spill ring (R475): HEAD and TAIL by cell, and its records in ring order with the cells skipped before each. -/
structure SpillRing where
  head : Nat := 0
  tail : Nat := 0
  order : List (Nat × Nat) := []
  deriving DecidableEq, Repr

/-- A training in progress (R479): stage 1 while spill records drain, 5 while the channels train. ticket: DRAM_TRAIN or SET_STATE. -/
structure Training where
  mask : Nat
  stage : Nat
  startedAt : Nat
  ticket : Option Ticket
  deriving DecidableEq, Repr

/-- The deep store (R463-R485). -/
structure Deep where
  ch0 : Chan := {}
  ch1 : Chan := {}
  weights : Nat := 0x4344
  copyWeight : Nat := 1
  grain : Option Nat := none
  /-- The bytes of each channel in the map in force (R471). -/
  map0 : Nat := 0
  map1 : Nat := 0
  /-- The check-lane words of the halves written since their region was initialised, by device address in halves (R466). -/
  lanes : Table Nat := []
  enables : Nat := 0
  gleanBase : Nat := 0
  gleanSize : Nat := 0
  streamBase : Nat := 0
  spillBase : Nat := 0
  spillSize : Nat := 0
  /-- The initialisation of R472: its start, its bytes, the enables it ends with, and its command. -/
  init : Option (Nat × Nat × Nat × Ticket) := none
  recs : Table SpillRec := []
  rings : Table SpillRing := []
  training : Option Training := none
  deriving DecidableEq, Repr

/-! ## Headland (spec/11) -/

/-- A digest message (R374). -/
structure Digest where
  epoch : Nat
  count : Nat
  sum : Nat
  alarms : Nat := 0
  arrived : Nat := 0
  deriving DecidableEq, Repr

/-- A disagreement whose resolution is pending (R377, R379). deadline: the edge 200 us after the last byte of the DISAGREE. -/
structure Disagree where
  seq : Nat
  epoch : Nat
  sumA : Nat
  sumB : Nat
  countA : Nat
  countB : Nat
  deadline : Nat
  deriving DecidableEq, Repr

/-- A commanded turn (R380, R381): T_o (tStart) and T_f in nanoseconds of the time base. -/
structure Turn where
  tStart : Nat
  tf : Nat
  newLead : Nat
  started : Bool := false
  ended : Bool := false
  discards0 : Nat
  ticket : Ticket
  deriving DecidableEq, Repr

/-- A restart of a fenced furrow (R386). copiedAt: the edge of step 5. admitting: the matching epochs are complete. -/
structure Restart where
  furrow : Nat
  ticket : Ticket
  startedAt : Nat
  copiedAt : Option Nat := none
  matched : Nat := 0
  /-- Handles whose record the restart copy could not read (R469). -/
  badRecs : List Nat := []
  deriving DecidableEq, Repr

/-- Headland (R375-R395). Furrow 0 is A, 1 is B. states: the codes of R392. -/
structure Headland where
  running : Bool := false
  lead : Nat := 0
  stateA : Nat := 0
  stateB : Nat := 0
  alarmsA : Nat := 0
  alarmsB : Nat := 0
  /-- Alarm bits on which a verdict has been reached (R376). -/
  seenA : Nat := 0
  seenB : Nat := 0
  policy : Nat := 0
  tolerance : Nat := 0
  arbEnable : Bool := false
  autoPower : Bool := false
  rxA : List Digest := []
  rxB : List Digest := []
  /-- The latest epochs judged without a furrow's digest, newest first (R376). -/
  judgedA : List Nat := []
  judgedB : List Nat := []
  missA : Nat := 0
  missB : Nat := 0
  disagree : Option Disagree := none
  seq : Nat := 0
  /-- The window of 1,000,000 epochs of the last disagreement, and the disagreements in it (R377). -/
  tolFrom : Nat := 0
  tolCount : Nat := 0
  arbUp : Bool := false
  arbTimes : List Nat := []
  /-- The edge of the last STATUS message due to the arbiter (R379). -/
  statusAt : Nat := 0
  turn : Option Turn := none
  restart : Option Restart := none
  /-- Edge of a fence whose lane flush is not complete, by furrow, with the alarm bits that led to it (R384). -/
  flushA : Option (Nat × Nat) := none
  flushB : Option (Nat × Nat) := none
  trailSeq : Nat := 0
  lastVerdict : Nat := 0
  ctr : Table Nat := []
  /-- Epoch starts (ns) from and to which no digest is compared after a step (R404). -/
  noCompare : List (Nat × Nat) := []
  /-- The overlap window of the last commanded turn (R380), in nanoseconds. -/
  overlap : Option (Nat × Nat) := none
  deriving DecidableEq, Repr

/-! ## Assembly -/

/-- A port: configuration, link, MAC, learning, Drill with its egress buffer, and Winnow. -/
structure Port where
  cfg : PortCfg := {}
  link : LinkState := {}
  mac : MacState := {}
  learn : LearnCfg := {}
  drill : Drill := {}
  win : Winnow := {}
  deriving DecidableEq, Repr

/-- What a furrow island holds (R26). -/
structure FurrowSt where
  /-- Counts of the performance events that no other counter holds (R453). -/
  perf : Table Nat := []
  banks : Table Bank := []
  harrowStale : Bool := false
  frags : Table Frag := []
  harrowCtr : Table Nat := []
  tab : Tables := {}
  released : Bool := false
  /-- Replica minus master, in time base units, and the last difference reported, in ns (R401, R431). -/
  repOff : Int := 0
  repDiff : Int := 0
  repReload : Bool := false
  openDigests : Table (Nat × Nat) := []
  closedTo : Nat := 0
  /-- Lanes by (72 x input + output) x 8 + class (R288), the crossbar, and re-entries waiting by slice (R309). -/
  lanes : Table (List Entry) := []
  xb : Crossbar := {}
  recirc : Table (List Nat) := []
  /-- Supervision bits [31:12] of the hot words (R220), the Beds, sampling, and this furrow's half of the records in the deep store. -/
  hot : Table Nat := []
  beds : Table Bed := []
  samp : Sampling := {}
  deepRecs : Table (List Byte) := []
  deriving DecidableEq, Repr

/-- The whole device, and the queue of commands that wait (first in, first out). -/
structure State where
  pending : List Instr := []
  dev : Device := {}
  clk : Clocks := {}
  slices : Slices := {}
  mir : Mirror := {}
  sup : Supply := {}
  therm : Thermal := {}
  pcie : Pcie := {}
  nv : NonVolatile := {}
  opt : Options := {}
  ret : Retained := {}
  cp : CmdProc := {}
  spi : Spi := {}
  rings : Table Ring := []
  hfr : HostRings := {}
  win : Window := {}
  ev : Events := {}
  jr : Journal := {}
  tim : TimeState := {}
  gpio : Table Gpio := []
  ports : Table Port := []
  lanes : Table Lane := []
  i2c : Table I2c := []
  mods : Table Module := []
  bankBit : Nat := 0
  swap : Option Swap := none
  fa : FurrowSt := {}
  fb : FurrowSt := {}
  hl : Headland := {}
  age : AgeCfg := {}
  shadow : Shadow := {}
  flush : List Flush := []
  memErr : Table Nat := []
  /-- The corrected reads by memory, modulo 2^48: those of the SDRAM channels, 35 and 36, are an event of the performance section (R453). -/
  corr48 : Table Nat := []
  frames : Table Frame := []
  gran : Granary := {}
  meters : Table Meter := []
  shapers : Table Shaper := []
  meterInvalid : Nat := 0
  red : Redund := {}
  imgLoad : Option ImgLoad := none
  gle : Gleaner := {}
  mirrors : Table MirrorCfg := []
  stook : Stook := {}
  perf : Table Perf := []
  deep : Deep := {}
  out : List Output := []
  free : Nat := 0
  nextUid : Nat := 0
  deriving DecidableEq, Repr

/-- Why the machine stops: nothing in this model raises one (see NOTES.md, Stops). Safe: a stop proves nothing of the hardware. -/
inductive Fault where
  /-- Raised by no command. -/
  | none
  deriving DecidableEq, Repr

/-- Why a command is refused. -/
inductive Refusal where
  /-- The command has no meaning yet; raised by exec's arm of that command only. Safe. -/
  | notModelled (mnemonic : String)
  deriving DecidableEq, Repr

/-- The machine under reset, just before its release begins (R502-R505): every field at its default above. -/
def State.reset : State := {}

end Sys2Proof.Machine
end

