-- ==== Sys2Proof/Machine/Ops.lean ====
section
/-! DEFINITION. The named operations that every command is built from: time, accessors of the state, the outbox, events, the
journal, interrupt vectors and free values (spec/01, spec/12, spec/15). -/

namespace Sys2Proof.Machine

/-! ## Time (R21-R23, R30, R400, R403) -/

/-- Units of the time base in one nanosecond: an edge adds 4 x (4,096,000,000,000 + ADJ) of them, which is 0.8 ns x (1 + ADJ). -/
def tbuPerNs : Nat := 20480000000000

/-- Shared core clock edges in one microsecond, millisecond and second of the device's own clock (R30). -/
def usE : Nat := 1250
def msE : Nat := 1250000
def secE : Nat := 1250000000

/-- The span after which the time base wraps: 2^34 seconds (R21). -/
def tbWrap : Nat := 2 ^ 34 * 1000000000 * tbuPerNs

/-- The T64 encoding of a count of nanoseconds since the epoch (R21). -/
def t64OfNs (ns : Nat) : Nat := ((ns / 1000000000) % 2 ^ 34) * 2 ^ 30 + ns % 1000000000

/-- The count of nanoseconds that a T64 value encodes. -/
def nsOfT64 (t : Nat) : Nat := (t / 2 ^ 30) * 1000000000 + t % 2 ^ 30

/-- A T64 parameter is legal when its nanosecond field is below 1,000,000,000 (R21). -/
def t64Ok (t : Nat) : Bool := decide (t % 2 ^ 30 < 1000000000)

/-- The time base in whole nanoseconds. -/
def nowNs (s : State) : Nat := s.clk.tb / tbuPerNs

/-- The 32-bit fraction of a nanosecond below the T64 value (R400); the remainder of an addition below it is carried on (log 80). -/
def tbFraction (tb : Nat) : Nat := tb % tbuPerNs * 2 ^ 32 / tbuPerNs

/-- The quarter nanoseconds of a reading: the top two bits of its fraction (R22). -/
def qnsOf (tb : Nat) : Nat := tbFraction tb / 2 ^ 30

/-- The quarter nanoseconds of the time base (R22). -/
def nowQns (s : State) : Nat := qnsOf s.clk.tb

/-- The time base as T64. -/
def nowT64 (s : State) : Nat := t64OfNs (nowNs s)

/-- The free-running microsecond count of the shared core clock (R265). -/
def arrivalUs (s : State) : Nat := wrap32 (s.clk.edges / usE)

/-- The limit of ADJ (R400). -/
def adjMax : Int := 2048000000

/-- What a slew adds to ADJ, in its units: SLEW_MAX, within the range of ADJ (R400, R403). -/
def slewAdj (s : State) : Nat :=
  min (s.tim.cfg.slewMax * 4096000) (if s.clk.slew < 0 then s.clk.adj + adjMax else adjMax - s.clk.adj).toNat

/-- What a slew absorbs in one edge, in time base units (R403). -/
def slewPerEdge (s : State) : Nat := 4 * slewAdj s

/-- What one edge adds to the time base without a slew (R400). -/
def tbPerEdge (s : State) : Nat := (4 * ((4096000000000 : Int) + s.clk.adj)).toNat

/-- Does the shared core clock run. -/
def coreLive (s : State) : Bool := s.clk.coreRunning && !s.clk.coreStopped

/-- The part of a pending slew that n edges absorb. -/
def slewTaken (n : Nat) (s : State) : Int :=
  let most := n * slewPerEdge s
  if s.clk.slew.natAbs ≤ most then s.clk.slew
  else if s.clk.slew < 0 then -(most : Int) else (most : Int)

/-- The SDRAM clock of a channel runs while the channel is configured present and out of self-refresh (R30). -/
def sdramRuns (x : Chan) : Bool := x.ranks != 0 && x.state != 4

/-- The cycle counts after n edges (R453). -/
def cyclesAfter (n : Nat) (s : State) : Table Nat :=
  let up := fun (f : Nat) => if f = 0 then s.slices.coreA && s.clk.lockFa else s.slices.coreB && s.clk.lockFb
  let full := fun (x : FurrowSt) => x.beds.any (fun e => decide (512 ≤ e.2.queue.length))
  let cond := [up 0, up 1, up 0 && full s.fa, up 1 && full s.fb,
    s.clk.lockDs && sdramRuns s.deep.ch0, s.clk.lockDs && sdramRuns s.deep.ch1, s.clk.lockDs && s.deep.ch0.state == 4, s.clk.lockDs && s.deep.ch1.state == 4]
  cond.zipIdx.foldl (fun t e => if e.1 then tset 0 t e.2 ((tget 0 t e.2 + n) % 2 ^ 64) else t) s.clk.cycles

/-- n edges of 0.8 ns pass: the time base advances while the shared core clock runs (R400, R403). -/
def advance (n : Nat) (s : State) : State :=
  if coreLive s then
    let d := slewTaken n s
    { s with clk := { s.clk with
        edges := s.clk.edges + n
        cycles := cyclesAfter n s
        tb := ((s.clk.tb : Int) + (n * tbPerEdge s : Nat) + d).toNat % tbWrap
        slew := s.clk.slew - d } }
  else { s with clk := { s.clk with edges := s.clk.edges + n } }

/-- The clocks move on to an edge, if it lies ahead. -/
def reachEdge (e : Nat) (s : State) : State := advance (e - s.clk.edges) s

/-- a divided by b, rounded up; 0 for b = 0. -/
def ceilDiv (a b : Nat) : Nat := (a + b - 1) / b

/-- How many edges until the time base reads at least a time in nanoseconds. -/
def edgesToNs (ns : Nat) (s : State) : Nat :=
  let goal := ns * tbuPerNs
  if goal ≤ s.clk.tb then 0
  else
    let d := goal - s.clk.tb
    let r := tbPerEdge s
    let sp := slewPerEdge s
    if s.clk.slew = 0 || sp = 0 then ceilDiv d r
    else
      let m := ceilDiv s.clk.slew.natAbs sp
      let fast := if s.clk.slew < 0 then r - sp else r + sp
      if d ≤ m * fast then ceilDiv d fast
      else ceilDiv (((d : Int) - s.clk.slew).toNat) r

/-- The clocks move on until the time base reads at least a time in nanoseconds. -/
def reachNs (ns : Nat) (s : State) : State := if coreLive s then advance (edgesToNs ns s) s else s

/-- The ADJ word reported (R400, R403): with the slew in progress. -/
def adjNow (s : State) : Int :=
  s.clk.adj + (if s.clk.slew = 0 then 0 else if s.clk.slew < 0 then -(slewAdj s : Int) else (slewAdj s : Int))

/-- PTP messages received while the command processor does not run, or not yet handled as it stops, are discarded and counted (R408). -/
def ptpLose (n : Nat) (s : State) : State :=
  { s with tim := { s.tim with ptpRx := [], ptpDiscards := wrap32 (s.tim.ptpDiscards + s.tim.ptpRx.length + n) } }

/-- Is the time base untraceable (R406). -/
def untraceable (s : State) : Bool := s.tim.state == 0 || s.tim.state == 1 || s.tim.state == 4

/-! ## Accessors -/

def nPorts (s : State) : Nat := match s.nv.part with | .cz6416 => 64 | .cz6408 => 32

def port (s : State) (p : Nat) : Port := tget {} s.ports p
def modPort (p : Nat) (f : Port → Port) (s : State) : State := { s with ports := tmod {} s.ports p f }
def lane (s : State) (m : Nat) : Lane := tget {} s.lanes m
def modLane (m : Nat) (f : Lane → Lane) (s : State) : State := { s with lanes := tmod {} s.lanes m f }
def master (s : State) (k : Nat) : I2c := tget {} s.i2c k
def modMaster (k : Nat) (f : I2c → I2c) (s : State) : State := { s with i2c := tmod {} s.i2c k f }
def module (s : State) (m : Nat) : Module := tget {} s.mods m
def modModule (m : Nat) (f : Module → Module) (s : State) : State := { s with mods := tmod {} s.mods m f }
/-- The first lane of the cage whose module covers a lane (R130). -/
def cageOf (s : State) (m : Nat) : Nat :=
  let q := m / 4 * 4
  if (module s q).present && (module s q).identifier = 0x11 then q else m

def ring (s : State) (k : Nat) : Ring := tget {} s.rings k
def modRing (k : Nat) (f : Ring → Ring) (s : State) : State := { s with rings := tmod {} s.rings k f }
def gpio (s : State) (n : Nat) : Gpio := tget {} s.gpio n
def modGpio (n : Nat) (f : Gpio → Gpio) (s : State) : State := { s with gpio := tmod {} s.gpio n f }

/-- Furrow 0 is A, furrow 1 is B. -/
def fur (s : State) (f : Nat) : FurrowSt := if f = 0 then s.fa else s.fb
def modFur (f : Nat) (g : FurrowSt → FurrowSt) (s : State) : State :=
  if f = 0 then { s with fa := g s.fa } else { s with fb := g s.fb }
def other (f : Nat) : Nat := if f = 0 then 1 else 0
def furNo : Furrow → Nat
  | .a => 0
  | .b => 1

/-- A performance event of a furrow occurs n times (R453). -/
def perfF (f k n : Nat) (s : State) : State := modFur f (fun x => { x with perf := tset 0 x.perf k ((tget 0 x.perf k + n) % 2 ^ 48) }) s

/-- The performance counters of a furrow, 64 f on, count from 0 again (R449): its units' counts have started again, and so do those of its cycles. -/
def perfRestart (f : Nat) (s : State) : State :=
  { s with
    perf := (List.range 64).foldl (fun t i => tmod {} t (64 * f + i) (fun x => { x with base := 0 })) s.perf
    clk := { s.clk with cycles := tset 0 (tset 0 s.clk.cycles f 0) (f + 2) 0 } }

/-- The state code of a furrow (R392). -/
def furState (s : State) (f : Nat) : Nat := if f = 0 then s.hl.stateA else s.hl.stateB
def setFurState (f c : Nat) (s : State) : State :=
  if f = 0 then { s with hl := { s.hl with stateA := c } } else { s with hl := { s.hl with stateB := c } }

/-- Is the furrow's island powered. -/
def powered (s : State) (f : Nat) : Bool := furState s f != 2 && (if f = 0 then s.sup.poweredA else s.sup.poweredB)

/-- Does a furrow take part in forwarding: released and admitted (R27, R386). -/
def live (s : State) (f : Nat) : Bool := (fur s f).released && furState s f == 0

/-- Does a furrow decide frames: live, or in the shadow run of a restart (R386). -/
def decides (s : State) (f : Nat) : Bool := (fur s f).released && (furState s f == 0 || furState s f == 4)

/-- Do commands and shared blocks reach a furrow: it is powered, not fenced, and its restart has begun to copy (R27, R257, R260). -/
def reaches (s : State) (f : Nat) : Bool := powered s f && furState s f != 1 && furState s f != 3

/-- Both furrows, for an update that a command makes in each live or shadowing one (R173, R198). -/
def eachFur (g : FurrowSt → FurrowSt) (s : State) : State :=
  let s1 := if reaches s 0 then modFur 0 g s else s
  if reaches s1 1 then modFur 1 g s1 else s1

/-! ## The outbox and free values -/

/-- What the fallow domain, Headland and the PCIe endpoint drive themselves: it leaves the device in SAFE with cause 0x03 too (R31). -/
def ownClock : Output → Bool
  | .readData _ _ => true
  | .msix _ _ _ => true
  | .arbOut _ => true
  | _ => false

/-- Something leaves the device (log 4). -/
def emitOut (o : Output) (s : State) : State := if s.clk.coreStopped && !ownClock o then s else { s with out := o :: s.out }

/-- The next free value, taken modulo 2^w (log 2). -/
def takeFree (w : Nat) (s : State) : Nat × State :=
  (Config.freeValue s.free % 2 ^ w, { s with free := s.free + 1 })

/-! ## Interrupt vectors (R429, R499) -/

/-- Is a vector masked by its vector control bit or by the function mask. -/
def vecMasked (s : State) (v : Nat) : Bool :=
  s.pcie.msixMaskAll || bit (tget 0 s.win.msix (4 * v + 3)).toNat 0

/-- The message of vector v goes out. -/
def sendVec (v : Nat) (s : State) : State :=
  let w := fun i => (tget 0 s.win.msix (4 * v + i)).toNat
  emitOut (.msix v (w 0 + w 1 * 2 ^ 32) (w 2))
    { s with ev := { s.ev with lastSig := tput s.ev.lastSig v s.clk.edges
                               vecPend := setBit s.ev.vecPend v false }
             win := { s.win with pba := setBit s.win.pba v false } }

/-- The edge from which vector v may be signalled again (R429). -/
def vecFreeAt (s : State) (v : Nat) : Nat :=
  match tget? s.ev.lastSig v with
  | none => 0
  | some e => e + tget 0 s.ev.holdoff v * usE

/-- Vector v is to be signalled: masked sets its pending bit, a holdoff sets its pending state, else the message goes (R429, R499). -/
def signalVec (v : Nat) (s : State) : State :=
  if 64 ≤ v then s
  else if vecMasked s v then { s with win := { s.win with pba := setBit s.win.pba v true } }
  else if !s.pcie.msixEnable || !s.pcie.up then s
  else if s.clk.edges < vecFreeAt s v then { s with ev := { s.ev with vecPend := setBit s.ev.vecPend v true } }
  else sendVec v s

/-- Pending vectors that no mask holds any more are signalled (R499). -/
def signalPending (s : State) : State :=
  (List.range 64).foldl (fun s v => if bit s.win.pba v && !vecMasked s v then signalVec v s else s) s

/-! ## The journal (R423-R427) -/

def jSize (s : State) : Nat := 2 ^ s.jr.sizeLog2
/-- Is the ring full (R424). -/
def jFull (s : State) : Bool := (s.jr.producer + 1) % jSize s == s.jr.consumer
/-- The unread records (R427). -/
def jUnread (s : State) : Nat := (s.jr.producer + jSize s - s.jr.consumer) % jSize s

/-- The 32 bytes of a journal record (R423). -/
def jBytes (r : JRecord) : List Byte :=
  toLE 8 r.stamp ++
  toLE 2 (r.source + r.qns * 1024 + r.kind * 4096 + b2n r.untraceable * 16384) ++
  toLE 1 r.cause ++ toLE 1 r.suppressed ++ toLE 4 r.sequence ++ slice r.payload 0 16

/-- A pending loss marker is generated once neither the ring nor the staging buffer is full (R423, R424). -/
def settleLoss (s : State) : State :=
  match s.jr.loss with
  | none => s
  | some l =>
    if jFull s || 4096 ≤ s.jr.staged.length then s
    else
      let r : JRecord := { stamp := nowT64 s, qns := nowQns s, source := l.source, kind := 1, untraceable := untraceable s,
                           sequence := s.jr.sequence,
                           payload := toLE 4 l.count ++ toLE 4 l.sequence ++ toLE 8 l.stamp }
      { s with jr := { s.jr with sequence := wrap32 (s.jr.sequence + 1), staged := s.jr.staged ++ [r], loss := none } }

/-- A record is generated: staged with the next SEQUENCE, or lost (R424). -/
def jRecord (stamp qns src cause sup : Nat) (payload : List Byte) (s0 : State) : State :=
  if !s0.jr.enable then s0
  else
    let s := settleLoss s0
    let seq := s.jr.sequence
    if jFull s || 4096 ≤ s.jr.staged.length then
      let loss := match s.jr.loss with
        | none => { source := src, sequence := seq, stamp := stamp, count := 1 }
        | some l => { l with count := wrap32 (l.count + 1) }
      { s with jr := { s.jr with sequence := wrap32 (seq + 1), lostCount := wrap32 (s.jr.lostCount + 1), loss := some loss } }
    else
      { s with jr := { s.jr with
          sequence := wrap32 (seq + 1)
          staged := s.jr.staged ++ [{ stamp := stamp, qns := qns, source := src, cause := cause,
                                      untraceable := untraceable s, suppressed := sup, sequence := seq, payload := payload }] } }

/-! ## Events (R421, R428) -/

def route (s : State) (src : Nat) : Nat := tget 0x80FF s.ev.route src
def statusReg (s : State) (r : Nat) : Nat := tget 0 s.win.status r
def maskReg (s : State) (r : Nat) : Nat := tget 0xFFFFFFFF s.win.mask r

/-- Sources that never fire: those of absent ports and lanes (R7). -/
def srcAbsent (s : State) (src : Nat) : Bool :=
  s.nv.part == .cz6408 && ((0x080 ≤ src && src ≤ 0x0FF) || (0x140 ≤ src && src ≤ 0x17F))

/-- Sources of Headland, the register window, the supplies, the sensors and PCIe, which do not need the shared core clock (R31, R546). -/
def srcOwnClock (src : Nat) : Bool := (0x1E0 ≤ src && src ≤ 0x1E8) || src == 0x3C4 || (0x3C9 ≤ src && src ≤ 0x3CD)

/-- A firing with a given stamp: status bit, journal record, signal (R421). While the journal is disabled it sets the status bit only (R424). -/
def fireStamp (stamp qns src cause : Nat) (payload : List Byte) (s : State) : State :=
  if srcAbsent s src || (s.clk.coreStopped && !srcOwnClock src) then s
  else
    let r := src / 32
    let s1 := { s with win := { s.win with status := tset 0 s.win.status r (setBit (statusReg s r) (src % 32) true) } }
    let rt := route s src
    let s2 :=
      if bit rt 15 && s1.jr.enable then
        { jRecord stamp qns src cause (tget 0 s1.ev.suppressed src) payload s1 with
          ev := { s1.ev with suppressed := tset 0 s1.ev.suppressed src 0 } }
      else s1
    if !s.jr.enable || bit (maskReg s2 r) (src % 32) then s2 else signalVec (rt % 256) s2

/-- A firing stamped by the master time base. -/
def fire (src cause : Nat) (payload : List Byte) (s : State) : State :=
  fireStamp (nowT64 s) (nowQns s) src cause payload s

/-- The reading of a furrow's replica in time base units (R401). -/
def repTb (s : State) (f : Nat) : Nat := ((s.clk.tb : Int) + (fur s f).repOff).toNat % tbWrap
def repNs (s : State) (f : Nat) : Nat := repTb s f / tbuPerNs

/-- Do the isolation cells hold a furrow's event requests at idle: it is fenced, unpowered, or not yet admitted by its restart (R27, R386). -/
def isolated (s : State) (f : Nat) : Bool := furState s f != 0

/-- A firing of a source in a furrow, stamped by its replica (R423), where the isolation cells let it pass (R27). -/
def fireFur (f src cause : Nat) (payload : List Byte) (s : State) : State :=
  if isolated s f then s else fireStamp (t64OfNs (repNs s f)) (qnsOf (repTb s f)) src cause payload s

/-- Has a limited source fired within its interval. key: source + 1,024 x what the limit is kept for. -/
def limited (key interval : Nat) (s : State) : Bool :=
  match tget? s.ev.lastFire key with
  | none => false
  | some e => decide (s.clk.edges < e + interval)

/-- A firing of a source limited to one per interval (in edges) for each value of sub; a suppressed one is counted (R421). -/
def fireLim (interval sub : Nat) (go : State → State) (src : Nat) (s : State) : State :=
  let key := src + 1024 * sub
  if limited key interval s then
    { s with ev := { s.ev with suppressed := tset 0 s.ev.suppressed src (satAdd 255 (tget 0 s.ev.suppressed src) 1) } }
  else go { s with ev := { s.ev with lastFire := tput s.ev.lastFire key s.clk.edges } }

/-- At most once per 1 ms, master stamp. -/
def fireMs (sub src cause : Nat) (payload : List Byte) (s : State) : State :=
  fireLim msE sub (fire src cause payload) src s

/-- At most once per 1 ms, furrow stamp. An isolated furrow requests nothing. -/
def fireFurMs (f src cause : Nat) (payload : List Byte) (s : State) : State :=
  if isolated s f then s else fireLim msE 0 (fireFur f src cause payload) src s

/-- Is INT_N asserted: a source routed to it has its status bit set and its mask bit clear (R429); never while the journal is disabled, when firings
set their status bits only (R424; log 92). -/
def intN (s : State) : Bool :=
  s.jr.enable && s.win.status.any fun e => (bitList 32 e.2).any fun b => !bit (maskReg s e.1) b && bit (route s (32 * e.1 + b)) 14

/-! ## Headland alarms and memory errors (R43, R45, R375) -/

/-- An alarm of furrow f is raised toward Headland; it stays set until FURROW_RESTART (R375). HEADLAND_ALARM is its arrival. -/
def raiseAlarm (f b : Nat) (s : State) : State :=
  if f = 0 then { s with hl := { s.hl with alarmsA := setBit s.hl.alarmsA b true } }
  else { s with hl := { s.hl with alarmsB := setBit s.hl.alarmsB b true } }

/-- The corrected and uncorrectable counts of a memory, numbered as the stook section 0x0A numbers it, saturating (R43, R451). -/
def memCorr (m : Nat) (s : State) : State :=
  { s with memErr := csat s.memErr (2 * m) 1, corr48 := tset 0 s.corr48 m ((tget 0 s.corr48 m + 1) % 2 ^ 48) }
def memUnc (m : Nat) (s : State) : State := { s with memErr := csat s.memErr (2 * m + 1) 1 }

/-- What a functional read found: below lim an uncorrectable word, as the caller names it; lim + m a word of memory m with one or two bits in error,
which is corrected, counted and then read as if clean (R43). -/
def readBelow (lim v : Nat) (s : State) : Nat × State := if v < lim then (v, s) else (0, memCorr ((v - lim) % 37) s)
def readWord (v : Nat) (s : State) : Nat × State := readBelow 16 v s

def alarms (s : State) (f : Nat) : Nat := if f = 0 then s.hl.alarmsA else s.hl.alarmsB

/-! ## Deferred commands (R64) -/

/-- What a command must remember until its COMPLETION. -/
def ticketOf (p : Packet) : Ticket :=
  { session := p.session, opcode := p.opcode, tag := p.tag, src := p.src, vlan := p.vlan, trailer := p.trailer,
    verMajor := p.verMajor, verMinor := p.verMinor }

/-! ## Activity of a slice (R33, R34) -/

/-- Activity of one of the 12 slice clocks: a running clock counts it; a stopped one is requested, from its first activity on. -/
def touchClock (k : Nat) (s : State) : State :=
  { s with slices := { s.slices with
      last := tput s.slices.last k s.clk.edges
      reqAt := if bit s.slices.running k || bit s.slices.requested k then s.slices.reqAt else tput s.slices.reqAt k s.clk.edges
      requested := if bit s.slices.running k then s.slices.requested else setBit s.slices.requested k true } }

/-- Activity that names a port: all three clocks, or the shared and the lead's (R34). -/
def touchPort (p : Nat) (all : Bool) (s : State) : State :=
  let k := p / 16
  let s1 := touchClock k s
  if all then touchClock (k + 8) (touchClock (k + 4) s1) else touchClock (k + 4 + 4 * s.hl.lead) s1

/-- A command touches ports (R33, R34; log 56). -/
def touchPorts (l : List Nat) (s : State) : State := l.foldl (fun s p => touchPort p true s) s

/-- A furrow's core clock starts, and loads its replica from the master (R401). -/
def startCore (f : Nat) (s : State) : State :=
  if (if f = 0 then s.slices.coreA else s.slices.coreB) then s
  else
    let now := nowNs s
    let old := s.slices.stops.filter (fun r => decide (now < r.2.2 + 1000000))
    let s1 := { s with slices := { s.slices with
      coreA := s.slices.coreA || f == 0, coreB := s.slices.coreB || f != 0, stoppedSince := tdel s.slices.stoppedSince f
      stops := match tget? s.slices.stoppedSince f with | some t => (f, t, now) :: old | none => old } }
    modFur f (fun x => { x with repOff := 0, repReload := false }) s1

/-- A furrow's core clock stops once neither a slice nor a Bed of it runs. -/
def coreIdle (f : Nat) (s : State) : State :=
  if bits s.slices.running (7 + 4 * f) (4 + 4 * f) != 0 || bits s.slices.bedClocks (8 * f + 7) (8 * f) != 0 || !(if f = 0 then s.slices.coreA else s.slices.coreB) then s
  else { s with slices := { s.slices with
    coreA := s.slices.coreA && f != 0, coreB := s.slices.coreB && f == 0, stoppedSince := tput s.slices.stoppedSince f (nowNs s) } }

end Sys2Proof.Machine
end

