-- ==== Sys2Proof/Machine/HarrowParse.lean ====
section
/-! DEFINITION. Harrow's parser: the header chain, redundancy headers, IP, 90-5 sessions, BER and patterns (spec/05 R148-R156, R161,
R165). A case or flag carries the count of frame bytes by which it is found; 0 is the decision point itself. A header that the window
does not hold whole is not read: the walk ends there and WINDOW_END is set (log 60). -/

namespace Sys2Proof.Machine

/-- What the parser finds: field values and places by the IDs of R156, flags of R161 and cases of R165 with the byte count by which
each is found, and the places that the Tines use. -/
structure Parsed where
  vals : Table Nat := []
  pos : Table (Nat × Nat) := []
  flags : List (Nat × Nat) := []
  cases : List (Nat × Nat) := []
  l3 : Nat := 0
  app : Nat := 0
  tags : Nat := 0
  /-- IP fragment fields: is the datagram a fragment, offset in bytes, more fragments, identification, payload bytes, IPv6. -/
  frag : Bool := false
  fragOff : Nat := 0
  fragMore : Bool := false
  ident : Nat := 0
  ipLen : Nat := 0
  /-- Places of the APDU, of the first ASDU, of the security extension, and of the 90-5 session. -/
  apdu : Nat × Nat := (0, 0)
  sec : Nat × Nat := (0, 0)
  spdu : Nat × Nat := (0, 0)
  asdu : Nat × Nat := (0, 0)

/-- The frame as the parser reads it: its bytes, its length with the FCS, and the policy of its bank. -/
structure PFrame where
  bytes : List Byte
  len : Nat
  pol : Policy

/-- Where the frame's data ends: before the FCS. -/
def PFrame.stop (f : PFrame) : Nat := f.len - 4

def fEnd (f : PFrame) : Nat := f.len - 4
def b8 (f : PFrame) (i : Nat) : Nat := byteAt f.bytes i
def b16 (f : PFrame) (i : Nat) : Nat := b8 f i * 256 + b8 f (i + 1)
def b32 (f : PFrame) (i : Nat) : Nat := b16 f i * 65536 + b16 f (i + 2)
def bN (f : PFrame) (i n : Nat) : Nat := be f.bytes i n

def setField (id v start len : Nat) (p : Parsed) : Parsed :=
  { p with vals := tset 0 p.vals id v, pos := tput p.pos id (start, len) }
/-- The parse window's end (R148). -/
def winEnd : Nat := 512
def addFlag (b pos : Nat) (p : Parsed) : Parsed := { p with flags := (b, pos) :: p.flags }
def addCase (c pos : Nat) (p : Parsed) : Parsed := { p with cases := (c, pos) :: p.cases }
/-- Decoding reached the end of the window. -/
def atWindow (p : Parsed) : Parsed := addFlag 13 winEnd p
def fieldVal (p : Parsed) (id : Nat) : Nat := tget 0 p.vals id

/-! ## Redundancy headers (R149) -/

/-- The PRP trailer: suffix 0x88FB in the last two bytes before the FCS and an LSDU size equal to the frame's (log 18). -/
def prpTrailer (f : PFrame) (lsdu : Nat) : Option Nat :=
  let e := fEnd f
  if lsdu + 6 ≤ e && b16 f (e - 2) == 0x88FB && b16 f (e - 4) % 4096 == e - lsdu then
    some (b16 f (e - 6) * 65536 + (b16 f (e - 4) / 4096) * 4096 + b16 f (e - 4) % 4096)
  else none

/-- Does the end that a length field gives agree with the frame under the excess rule of R165: it is the FCS, or what lies between is padding to 64
frame bytes and the trailer, each of which may be absent. -/
def excessOk (f : PFrame) (trailer : Bool) (e : Nat) : Bool :=
  let t := if trailer then 6 else 0
  e == fEnd f || e + t == fEnd f || (decide (e + t < fEnd f) && f.len - t == 64)

/-! ## BER (R152) -/

/-- A decoded header: tag, content offset, content length. -/
structure Tlv where
  tag : Nat
  off : Nat
  len : Nat
  /-- The whole tag, with the bytes of a high-tag-number form. -/
  full : Nat := 0

/-- How many bytes follow the first byte of a tag in high-tag-number form. -/
def highTag (f : PFrame) : Nat → Nat → Nat
  | 0, _ => 0
  | n + 1, i => if b8 f i < 128 then 1 else 1 + highTag f n (i + 1)

/-- How many bytes a tag takes. -/
def tagBytes (f : PFrame) (i : Nat) : Nat := if b8 f i % 32 = 31 then 1 + highTag f winEnd (i + 1) else 1

/-- How many bytes an element header takes. -/
def headBytes (f : PFrame) (i : Nat) : Nat :=
  let h := tagBytes f i
  let l0 := b8 f (i + h)
  if 128 < l0 && l0 ≤ 132 then h + 1 + (l0 - 128) else h + 1

/-- Does an element at an offset start beyond the window, or have a header that it does not hold whole (R152, log 60). -/
def pastWindow (f : PFrame) (i : Nat) : Bool := winEnd ≤ i || winEnd < i + headBytes f i

/-- The element header at an offset within an enclosing end: a case code, or the header (R152). -/
def tlvAt (f : PFrame) (i lim : Nat) : Sum Nat Tlv :=
  let h := tagBytes f i
  let l0 := b8 f (i + h)
  let full := bN f i h
  if lim < i + h + 1 then .inl 0x0A
  else if l0 < 128 then
    if lim < i + h + 1 + l0 then .inl 0x0A else .inr { tag := b8 f i, off := i + h + 1, len := l0, full := full }
  else
    let n := l0 - 128
    if n = 0 || 4 < n then .inl 0x0B
    else
      let l := bN f (i + h + 1) n
      if lim < i + h + 1 + n + l then .inl 0x0A else .inr { tag := b8 f i, off := i + h + 1 + n, len := l, full := full }

def isConstructed (tag : Nat) : Bool := bit tag 5
def highForm (t : Tlv) : Bool := t.tag % 32 == 31

/-- Is a content of len bytes at an offset a legal unsigned value of w bytes (R152). -/
def unsignedOk (f : PFrame) (off len w : Nat) : Bool :=
  1 ≤ len && (len ≤ w || (len == w + 1 && b8 f off == 0)) && b8 f off < 128

/-- An element's type and size rule (R153): 1 string, 2 32-bit unsigned, 3 16-bit unsigned, 4 UtcTime, 5 BOOLEAN, 6 place only,
7 noASDU, 8 one byte, 9 nested ASDU. -/
def sizeOk (f : PFrame) (rule off len : Nat) : Bool :=
  match rule with
  | 1 => 1 ≤ len && len ≤ 129
  | 2 => unsignedOk f off len 4
  | 3 => unsignedOk f off len 2
  | 4 => len == 8
  | 5 => len == 1
  | 7 => unsignedOk f off len 1 && 1 ≤ bN f off len && bN f off len ≤ 255
  | 8 => len == 1
  | _ => true

/-- The elements of R153: tag, field ID, rule, required. GOOSE; SV at level 2; SV inside an ASDU. The places of allData, seqASDU and
seqData use IDs of the model above 0x3F. -/
def gooseElems : List (Nat × Nat × Nat × Bool) :=
  [(0x80, 0x17, 1, true), (0x81, 0x1B, 2, true), (0x82, 0x18, 1, true), (0x83, 0x19, 1, false), (0x84, 0x21, 4, true),
   (0x85, 0x1C, 2, true), (0x86, 0x1D, 2, true), (0x87, 0x40, 5, false), (0x88, 0x1E, 2, true), (0x89, 0x41, 5, true),
   (0x8A, 0x20, 2, true), (0xAB, 0x42, 6, true)]
def svElems : List (Nat × Nat × Nat × Bool) := [(0x80, 0x22, 7, true), (0xA2, 0x43, 9, true)]
def asduElems : List (Nat × Nat × Nat × Bool) :=
  [(0x80, 0x1A, 1, true), (0x82, 0x23, 3, true), (0x83, 0x1E, 2, true), (0x85, 0x24, 8, true), (0x86, 0x25, 3, false),
   (0x87, 0x44, 6, true)]

/-- The value that a field takes from its content: a hash of a string, or a number (R153, R154). -/
def elemVal (f : PFrame) (rule off len : Nat) : Nat :=
  if rule = 1 then crc32c (slice f.bytes off len) else if rule = 6 || rule = 9 then 0 else bN f off len

/-- WINDOW_END where an element that is skipped by its length crosses the window's end (R152). -/
def crossing (e : Nat) (p : Parsed) : Parsed := if winEnd < e then atWindow p else p

/-- Elements below those that carry fields, to level 8; deeper ones are skipped by length with case 0x0E (R152).
The count of elements is bounded by the window alone (log 29). -/
def walkBer (f : PFrame) : Nat → Nat → Nat → Nat → Parsed → Parsed
  | 0, _, _, _, p => p
  | n + 1, level, i, lim, p =>
    if lim ≤ i then p
    else if pastWindow f i then atWindow p
    else
      match tlvAt f i lim with
      | .inl c => addCase c (i + 1) p
      | .inr t =>
        let e := t.off + t.len
        if 9 ≤ level then walkBer f n level e lim (crossing e (addFlag 14 t.off (addCase 0x0E t.off p)))
        else if highForm t || !isConstructed t.tag then walkBer f n level e lim (crossing e p)
        else walkBer f n level e lim (walkBer f n (level + 1) t.off e p)

/-- One element that may carry a field: the size rule, the window rule, and its inner elements. -/
def takeElem (f : PFrame) (elems : List (Nat × Nat × Nat × Bool)) (level : Nat) (t : Tlv) (p : Parsed) : Parsed :=
  let e := t.off + t.len
  match elems.find? (fun y => y.1 == t.tag) with
  | none => if isConstructed t.tag && !highForm t then walkBer f 600 (level + 1) t.off e p else crossing e p
  | some (_, id, rule, req) =>
    if isConstructed t.tag then
      let p1 := setField id 0 t.off t.len p
      if rule = 9 then p1 else walkBer f 600 (level + 1) t.off e p1
    else if winEnd < e then
      let p1 := atWindow { p with pos := tput p.pos id (t.off, t.len) }
      if req then addCase 0x0F winEnd p1 else p1
    else if !sizeOk f rule t.off t.len then addCase 0x0C t.off { p with pos := tput p.pos id (t.off, t.len) }
    else setField id (elemVal f rule t.off t.len) t.off t.len p

/-- An element at i that starts in the window and whose header crosses its end: a constructed one is entered, and nothing in it is examined; a
primitive one is skipped (R152). -/
def cutElem (f : PFrame) (elems : List (Nat × Nat × Nat × Bool)) (i lim : Nat) (p : Parsed) : Parsed :=
  match if isConstructed (b8 f i) then elems.find? (fun y => y.1 == b8 f i) else none with
  | none => atWindow p
  | some (_, id, _, _) => atWindow (match tlvAt f i lim with | .inr t => setField id 0 t.off t.len p | .inl _ => setField id 0 winEnd 0 p)

/-- The elements of one enclosing element, in any order, none twice; whether the walk ended neither by a case nor at the window. -/
def takeElems (f : PFrame) (elems : List (Nat × Nat × Nat × Bool)) (level : Nat) : Nat → List Nat → Nat → Nat → Parsed → Parsed × Bool
  | 0, _, _, _, p => (p, false)
  | n + 1, seen, i, lim, p =>
    if lim ≤ i then (p, true)
    else if winEnd ≤ i then (atWindow p, false)
    else if pastWindow f i then (if seen.contains (b8 f i) then addCase 0x0D winEnd (atWindow p) else cutElem f elems i lim p, false)
    else
      match tlvAt f i lim with
      | .inl c => (addCase c (i + 1) p, false)
      | .inr t =>
        let p1 := if seen.contains t.full then addCase 0x0D t.off p else takeElem f elems level t p
        takeElems f elems level n (t.full :: seen) (t.off + t.len) lim p1

/-- Required elements not seen: case 0x0D at the end of the APDU, 0x0F where the window ended the walk (R153). -/
def requireElems (elems : List (Nat × Nat × Nat × Bool)) (done : Bool) (stop : Nat) (p : Parsed) : Parsed :=
  if elems.all (fun e => !e.2.2.2 || tmem p.pos e.2.1) then p
  else if done then addCase 0x0D stop p
  else if p.flags.any (fun x => x.1 == 13) then addCase 0x0F winEnd p
  else p

/-- GOOSE_FLAGS from simulation and ndsCom: it ends where the later of the two does. -/
def gooseFlags (p : Parsed) : Parsed :=
  let sim := tget? p.pos 0x40
  let nds := tget? p.pos 0x41
  let p1 := match sim with
    | some (o, l) => if fieldVal p 0x40 != 0 then addFlag 1 (o + l) p else p
    | none => p
  let v := b2n (fieldVal p 0x40 != 0) + 2 * b2n (fieldVal p 0x41 != 0)
  match sim, nds with
  | some a, some b => if a.1 ≤ b.1 then setField 0x1F v b.1 b.2 p1 else setField 0x1F v a.1 a.2 p1
  | some a, none => setField 0x1F v a.1 a.2 p1
  | none, some b => setField 0x1F v b.1 b.2 p1
  | none, none => p1

/-- The goosePdu or savPdu whose content lies at off (R152, R153). The SV fields come from the first ASDU; one that is absent, as in an empty
seqASDU, is found absent where the APDU ends. -/
def decodeApdu (f : PFrame) (sv : Bool) (off len : Nat) (p0 : Parsed) : Parsed :=
  let p := { p0 with apdu := (off, len) }
  let lim := off + len
  if !sv then
    let (p1, done) := takeElems f gooseElems 2 600 [] off lim p
    gooseFlags (requireElems gooseElems done lim p1)
  else
    let (p1, done) := takeElems f svElems 2 600 [] off lim p
    let p2 := requireElems svElems done lim p1
    match tget? p2.pos 0x43 with
    | none => p2
    | some (so, sl) =>
      if pastWindow f so then requireElems asduElems false lim (atWindow p2)
      else if sl = 0 then requireElems asduElems true lim p2
      else match tlvAt f so (so + sl) with
        | .inl c => addCase c (so + 1) p2
        | .inr t =>
          let (p3, d3) := takeElems f asduElems 4 600 [] t.off (t.off + t.len) { p2 with asdu := (t.off, t.len) }
          let p4 := requireElems asduElems d3 lim p3
          walkBer f 600 3 (t.off + t.len) (so + sl) p4

/-! ## GOOSE and SV over layer 2 (R153) -/

/-- The header APPID, Length, Reserved1, Reserved2 at off and the APDU after it; kind 1 GOOSE, 2 SV. -/
def decodeL2App (f : PFrame) (kind off : Nat) (trailer : Bool) (p0 : Parsed) : Parsed :=
  let p := { p0 with app := kind }
  if fEnd f < off + 8 then addCase 0x01 0 p
  else
    let l := b16 f (off + 2)
    let p1 := setField 0x15 (b16 f off) off 2 (setField 0x16 l (off + 2) 2 p)
    let p2 := if bit (b16 f (off + 4)) 15 then addFlag 1 (off + 6) p1 else p1
    let want := if kind = 1 then 0x61 else 0x60
    if fEnd f ≤ off + 8 || b8 f (off + 8) != want then addCase 0x0D (off + 9) p2
    else if pastWindow f (off + 8) then addCase 0x0F winEnd (atWindow p2)
    else match tlvAt f (off + 8) (fEnd f) with
      | .inl c => addCase c (off + 9) p2
      | .inr t =>
        let e := t.off + t.len
        let x := Config.secExtLength (b16 f (off + 4)) (b16 f (off + 6)) ((f.bytes.drop e).take (fEnd f - e))
        let p3 := if x = 0 then p2 else addFlag 3 (off + 8) { p2 with sec := (e, x) }
        let p4 := decodeApdu f (kind == 2) t.off t.len p3
        if l < 8 || l != 8 + (e - (off + 8)) + x || !excessOk f trailer (off + l) then addCase 0x09 f.len p4 else p4

/-! ## 90-5 sessions (R151; the layout is IEC 61850-90-5's, log 19) -/

/-- Payload elements: the first GOOSE (0x81) or SV (0x82) one is decoded, later ones are checked by length only. Where the window ends the walk
before the first, its required fields start beyond it (case 0x0F). -/
def walkPayload (f : PFrame) : Nat → Nat → Nat → Bool → Parsed → Parsed
  | 0, _, _, _, p => p
  | n + 1, i, lim, found, p =>
    if lim ≤ i then p
    else if lim < i + 6 then addCase 0x08 (i + 1) p
    else if winEnd < i + 6 then (if found then atWindow p else addCase 0x0F winEnd (atWindow p))
    else
      let l := b16 f (i + 4)
      let e := i + 6 + l
      if lim < e then addCase 0x08 (i + 6) p
      else if found || !(b8 f i == 0x81 || b8 f i == 0x82) then walkPayload f n e lim found p
      else
        let sv := b8 f i == 0x82
        let p1 := setField 0x15 (b16 f (i + 2)) (i + 2) 2 (setField 0x16 l (i + 4) 2 p)
        let p2 := if b8 f (i + 1) != 0 then addFlag 1 (i + 2) p1 else p1
        let p3 :=
          if l = 0 then addCase 0x0D (i + 7) p2
          else if pastWindow f (i + 6) then addCase 0x0F winEnd (atWindow p2)
          else if b8 f (i + 6) != (if sv then 0x60 else 0x61) then addCase 0x0D (i + 7) p2
          else match tlvAt f (i + 6) e with
            | .inl c => addCase c (i + 7) p2
            | .inr t => decodeApdu f sv t.off t.len p2
        walkPayload f n e lim true p3

/-- The session PDU at u, within a UDP payload that ends at lim. -/
def decode905 (f : PFrame) (u lim : Nat) (p0 : Parsed) : Parsed :=
  let p := { p0 with app := 8, spdu := (u, lim - u) }
  if lim < u + 3 then addCase 0x08 lim p
  else if winEnd < u + 3 then atWindow p
  else
    let si := b8 f (u + 2)
    let kind := if si = f.pol.rgSi then 3 else if si = f.pol.rsSi then 4 else 8
    let p := { p with app := kind }
    if kind = 8 then p
    else if lim < u + 33 then addCase 0x08 lim p
    else if winEnd < u + 33 then addCase 0x0F winEnd (atWindow p)
    else
      let sl := b32 f (u + 6)
      let p1 := setField 0x26 (b32 f (u + 10)) (u + 10) 4 (setField 0x27 (b32 f (u + 24)) (u + 24) 4 p)
      let q := u + 29 + b8 f (u + 28)
      if lim < u + 10 + sl || lim < q + 4 then addCase 0x08 (u + 10) p1
      else if winEnd < q + 4 then addCase 0x0F winEnd (atWindow p1)
      else
        let e := q + 4 + b32 f q
        if lim < e then addCase 0x08 (q + 4) p1 else walkPayload f 600 (q + 4) e false p1

/-! ## IP (R150) -/

/-- UDP or TCP at i, in an IP payload that ends at lim; whole tells that the datagram is not a fragment. -/
def decodeL4 (f : PFrame) (proto i lim : Nat) (whole : Bool) (p : Parsed) : Parsed :=
  if proto = 17 then
    if fEnd f < i + 8 then addCase 0x01 0 p
    else if winEnd < i + 8 then atWindow p
    else
      let p1 := { setField 0x12 (b16 f i) i 2 (setField 0x13 (b16 f (i + 2)) (i + 2) 2 p) with app := 7 }
      let l := b16 f (i + 4)
      if l < 8 || (whole && lim < i + l) then addCase 0x07 0 p1
      else if b16 f (i + 2) = f.pol.rudpPort then decode905 f (i + 8) (min (i + l) (fEnd f)) p1
      else p1
  else if proto = 6 then
    if fEnd f < i + 20 then addCase 0x01 0 p
    else if winEnd < i + 20 then atWindow p
    else
      let p1 := { setField 0x12 (b16 f i) i 2 (setField 0x13 (b16 f (i + 2)) (i + 2) 2 (setField 0x14 (b8 f (i + 13)) (i + 13) 1 p))
        with app := 6 }
      let d := b8 f (i + 12) / 16
      if d < 5 || (whole && lim < i + 4 * d) then addCase 0x07 0 p1 else p1
  else p

/-- Fragment fields and their flags; the payload has n bytes at fragment offset o. -/
def readFrag (o n : Nat) (more : Bool) (ident pos : Nat) (p0 : Parsed) : Parsed :=
  if o = 0 && !more then { p0 with ipLen := n }
  else
    let p := addFlag 12 pos { p0 with frag := true, fragOff := o, fragMore := more, ident := ident, ipLen := n }
    if o = 0 then addFlag 11 pos p else p

/-- Fragment fields, their flags and case 0x11. -/
def noteFrag (o n : Nat) (more : Bool) (ident pos : Nat) (p0 : Parsed) : Parsed :=
  let p1 := readFrag o n more ident pos p0
  if o = 0 && !more then p1
  else
    if 65535 < o + n || (more && n % 8 != 0) then addCase 0x11 0 p1 else p1

def ipChecksumOk (f : PFrame) (i n : Nat) : Bool :=
  let w := (List.range (n / 2)).foldl (fun a k => a + b16 f (i + 2 * k)) 0
  let w1 := w % 65536 + w / 65536
  (w1 % 65536 + w1 / 65536) == 0xFFFF

/-- IPv4. A header that fails its checks is parsed no further, but its fragment fields stand at their fixed positions, so that case 0x04 of a
later fragment meets its entry (R150, R169, log 58). -/
def decodeV4 (f : PFrame) (i : Nat) (trailer : Bool) (p0 : Parsed) : Parsed :=
  if fEnd f < i + 20 then addCase 0x01 0 { p0 with l3 := 1 }
  else
    let p := setField 0x0D (b32 f (i + 12)) (i + 12) 4 (setField 0x0E (b32 f (i + 16)) (i + 16) 4
      (setField 0x0F (b8 f (i + 9)) (i + 9) 1 (setField 0x10 (b8 f (i + 1)) (i + 1) 1 (setField 0x11 (b8 f (i + 8)) (i + 8) 1
      { p0 with l3 := 1 }))))
    let ihl := b8 f i % 16
    let tot := b16 f (i + 2)
    let fo := b16 f (i + 6)
    let o := fo % 8192 * 8
    let bad := addCase 0x04 0 (readFrag o (tot - 4 * ihl) (bit fo 13) (b16 f (i + 4)) (i + 8) p)
    if b8 f i / 16 != 4 || ihl < 5 then bad
    else if fEnd f < i + 4 * ihl then addCase 0x01 0 p
    else if !ipChecksumOk f i (4 * ihl) then bad
    else
      let p1 := if ihl = 5 then p else addFlag 4 (i + 20) p
      let p2 := if tot < 4 * ihl || !excessOk f trailer (i + tot) then addCase 0x05 f.len p1 else p1
      let p3 := noteFrag o (tot - 4 * ihl) (bit fo 13) (b16 f (i + 4)) (i + 8) p2
      if o = 0 then decodeL4 f (b8 f (i + 9)) (i + 4 * ihl) (i + tot) (!p3.frag) p3 else p3

/-- IPv6 extension headers, at most 4 (R148, R150): the next header, the place of the byte that names it, offset of the header it names. The fifth is
found with case 0x06, at the decision point. -/
def walkV6 (f : PFrame) (lim : Nat) : Nat → Nat → Nat → Nat → Nat → Parsed → Parsed
  | 0, _, _, _, _, p => p
  | n + 1, count, nh, at_, i, p =>
    if nh = 0 || nh = 43 || nh = 60 || nh = 44 then
      if count = 4 then addFlag 14 0 (addCase 0x06 0 p)
      else if fEnd f < i + 8 then addCase 0x01 0 p
      else if winEnd < i + 8 then atWindow p
      else
        let p1 := addFlag 4 (i + 2) p
        if nh = 44 then
          let w := b16 f (i + 2)
          walkV6 f lim n (count + 1) (b8 f i) i (i + 8) (noteFrag (w / 8 * 8) (lim - (i + 8)) (bit w 0) (b32 f (i + 4)) (i + 8) p1)
        else
          let l := 8 * (b8 f (i + 1) + 1)
          if fEnd f < i + l then addCase 0x01 0 p1 else walkV6 f lim n (count + 1) (b8 f i) i (i + l) p1
    else
      let p1 := setField 0x0F nh at_ 1 p
      if p1.fragOff = 0 then decodeL4 f nh i lim (!p1.frag) { p1 with ipLen := if p1.frag then p1.ipLen else lim - i } else p1

def decodeV6 (f : PFrame) (i : Nat) (trailer : Bool) (p0 : Parsed) : Parsed :=
  if fEnd f < i + 40 then addCase 0x01 0 { p0 with l3 := 2 }
  else
    let p := setField 0x0D (bN f (i + 8) 16) (i + 8) 16 (setField 0x0E (bN f (i + 24) 16) (i + 24) 16
      (setField 0x10 (b16 f i / 16 % 256) i 2 (setField 0x11 (b8 f (i + 7)) (i + 7) 1 { p0 with l3 := 2 })))
    let lim := i + 40 + b16 f (i + 4)
    let p1 := if excessOk f trailer lim then p else addCase 0x05 f.len p
    walkV6 f lim 8 0 (b8 f (i + 6)) (i + 6) (i + 40) p1

/-! ## The chain (R148) -/

def isTpid (pol : Policy) (t : Nat) : Bool := t == 0x8100 || t == 0x88A8 || (pol.extraTpid != 0 && t == pol.extraTpid)

/-- VLAN tags from an offset: how many (at most 4), and the offset after them; a fifth TPID is case 0x02. -/
def walkTags (f : PFrame) : Nat → Nat → Nat → Parsed → Parsed × Nat × Bool
  | 0, _, i, p => (p, i, false)
  | n + 1, k, i, p =>
    if isTpid f.pol (b16 f i) then
      if k = 4 then (addFlag 14 (i + 2) (addCase 0x02 0 p), i, true)
      else if fEnd f < i + 6 then (addCase 0x01 0 p, i, true)
      else walkTags f n (k + 1) (i + 4) (setField (5 + k) (b16 f (i + 2)) (i + 2) 2 { p with tags := k + 1 })
    else (p, i, false)

/-- PTP_HEADER: messageType in bits 27:24, domainNumber in 23:16, sequenceId in 15:0. R156 lists the three and gives them no places (DESIGN CHOICE,
log 89). -/
def ptpHeader (f : PFrame) (i : Nat) : Nat := b8 f i % 16 * 0x1000000 + b8 f (i + 4) * 0x10000 + b16 f (i + 30)

/-- The whole parse of a frame. -/
def parse (f : PFrame) : Parsed :=
  let p0 := setField 0x03 (bN f 0 6) 0 6 (setField 0x04 (bN f 6 6) 6 6 {})
  let (p1, i, stop) := walkTags f 6 0 12 p0
  let lsdu := i + 2
  let tr := prpTrailer f lsdu
  let p2 := match tr with
    | some v => addFlag 8 f.len (setField 0x0C v (f.len - 10) 6 p1)
    | none => p1
  if stop then setField 0x0A (b16 f i) i 2 p2
  else
    let hsr := b16 f i == 0x892F
    let p3 :=
      if !hsr then p2
      else if fEnd f < i + 8 then addCase 0x01 0 p2
      else
        let q := addFlag 9 (i + 6) (setField 0x0B (b32 f (i + 2)) (i + 2) 4 p2)
        let sz := b16 f (i + 2) % 4096
        let real := fEnd f - lsdu
        if sz == real || (f.len == 64 && sz < real) then q else addCase 0x03 f.len q
    let j := if hsr then i + 6 else i
    let et := b16 f j
    let p4 := setField 0x0A et j 2 p3
    if hsr && fEnd f < i + 8 then p4
    else if et = 0x88B8 then decodeL2App f 1 (j + 2) tr.isSome p4
    else if et = 0x88BA then decodeL2App f 2 (j + 2) tr.isSome p4
    else if et = 0x0800 then decodeV4 f (j + 2) tr.isSome p4
    else if et = 0x86DD then decodeV6 f (j + 2) tr.isSome p4
    else if et = 0x88F7 then
      if fEnd f < j + 2 + 34 then addCase 0x01 0 { p4 with app := 5 }
      else setField 0x28 (ptpHeader f (j + 2)) (j + 2) 32 { p4 with app := 5 }
    else p4

/-! ## Patterns (R155) -/

/-- Does a pattern match at an offset. -/
def patAt (f : PFrame) (pt : Pattern) (i : Nat) : Bool :=
  i + pt.length ≤ min 512 f.len &&
  (List.range pt.length).all (fun k =>
    let m := byteAt pt.mask k
    (b8 f (i + k) &&& m) == (byteAt pt.bytes k &&& m))

def patHit (f : PFrame) (pt : Pattern) : Bool :=
  pt.length != 0 && (List.range (pt.stop + 1 - pt.start)).any (fun k => patAt f pt (pt.start + k))

/-- The hit vector of a bank's patterns. -/
def patHits (f : PFrame) (pats : Table Pattern) : Nat :=
  pats.foldl (fun v e => if patHit f e.2 then setBit v e.1 true else v) 0

/-- PATTERN_FIRST: the lowest index, or bit 8. -/
def patFirst (hits : Nat) : Nat :=
  match (List.range 256).find? (bit hits) with
  | some i => i
  | none => 256

/-- The end of the bytes that the pattern fields wait for. -/
def patPoint (pats : Table Pattern) : Nat := pats.foldl (fun m e => if e.2.length = 0 then m else max m (e.2.stop + e.2.length)) 0

end Sys2Proof.Machine
end

