-- ==== Sys2Proof/Machine/Wcp.lean ====
section
/-! DEFINITION. The Wideat Command Protocol: reply packets, transports' reply side, sessions, and the checks of R61 in their
order (spec/02). -/

namespace Sys2Proof.Machine

/-! ## Status codes (R94) -/

def stOk : Nat := 0x0000
def stAccepted : Nat := 0x0001
def stBadOpcode : Nat := 0x0101
def stBadLength : Nat := 0x0102
def stBadParam : Nat := 0x0103
def stVersion : Nat := 0x0104
def stStateConflict : Nat := 0x0201
def stPrivilege : Nat := 0x0202
def stBusy : Nat := 0x0203
def stExhausted : Nat := 0x0301
def stNotFound : Nat := 0x0302
def stExists : Nat := 0x0303
def stHwFault : Nat := 0x0401
def stOptionSpent : Nat := 0x0402
def stAuthFail : Nat := 0x0403

/-! ## Reply packets (R55, R57, R66) -/

/-- The 16 header bytes of a packet and its parameters (R55). -/
def packetBytes (verMajor verMinor flags opcode tag session state status detail : Nat) (params : List Byte) : List Byte :=
  toLE 1 0x5A ++ toLE 1 verMajor ++ toLE 1 verMinor ++ toLE 1 flags ++ toLE 2 opcode ++ toLE 2 tag ++ toLE 1 session ++
  toLE 2 params.length ++ toLE 1 state ++ toLE 2 status ++ toLE 2 detail ++ params

/-- A packet with the CRC-32 trailer of the in-band and SPI transports (R60). -/
def withTrailer (b : List Byte) : List Byte := b ++ toLE 4 (crc32 b)

/-- A list of bytes cut into pieces of n, at least one (R66). -/
def chunks (n : Nat) : Nat → List Byte → List (List Byte)
  | 0, b => [b]
  | k + 1, b => if b.length ≤ n then [b] else b.take n :: chunks n k (b.drop n)

/-- The packets of one reply: MORE is set on all but the last (R66). -/
def replyPackets (t : Ticket) (flags state status detail : Nat) : List (List Byte) → List (List Byte)
  | [] => []
  | [c] => [packetBytes t.verMajor t.verMinor flags t.opcode t.tag t.session state status detail c]
  | c :: r => packetBytes t.verMajor t.verMinor (flags + 0x20) t.opcode t.tag t.session state status detail c
      :: replyPackets t flags state status detail r

/-! ## The reply side of the transports (R87, R90, R93) -/

/-- The host address of the descriptor of a slot of a reply ring: base bits [3:0] are ignored (R84). -/
def rplDescriptor (r : Ring) (slot : Nat) : Nat := r.rplBaseHi.toNat * 2 ^ 32 + r.rplBaseLo.toNat / 16 * 16 + 16 * slot

/-- Is a packet the OK of CLOSE_SESSION: once it is written its session closes (R75). -/
def closesSession (b : List Byte) : Bool := le b 4 2 == 0x0102 && le b 12 2 == stOk

/-- What is left of the replies behind a written one: those of a session that it closes are discarded (R75). -/
def afterReply (b : List Byte) (rest : List (List Byte)) : List (List Byte) :=
  if closesSession b then rest.filter (fun x => byteAt x 8 != byteAt b 8) else rest

/-- Held replies of ring pair k go into posted buffers, oldest first: the reply, its length in bytes 10-11 of the descriptor, DONE in byte 15 last,
then the head advances and the vector is signalled (R85, R87). -/
def drainRing (k : Nat) : Nat → State → State
  | 0, s => s
  | n + 1, s =>
    let r := ring s k
    match r.held with
    | [] => s
    | b :: rest =>
      if r.rplHead == r.rplTail then s
      else
        let d := rplDescriptor r r.rplHead
        let s1 := emitOut (.hostWrite (d + 15) [1]) (emitOut (.hostWrite (d + 10) (toLE 2 b.length)) (emitOut (.ringReply k r.rplHead b) s))
        let s2 := modRing k (fun r => { r with held := afterReply b rest, rplHead := (r.rplHead + 1) % max 1 r.rplSize.toNat }) s1
        drainRing k n (signalVec r.vector s2)

/-- Replies enter the queue of the SPI target while it holds fewer than 16 (R93); the rest wait outside it (DESIGN CHOICE, log 71). -/
def fillSpi : Nat → Spi → Spi
  | 0, q => q
  | n + 1, q =>
    match q.held with
    | [] => q
    | b :: rest => if 16 ≤ q.replies.length then q else fillSpi n { q with replies := q.replies ++ [b], held := afterReply b rest }

/-- A reply packet goes to its endpoint. -/
def sendPacket (dst : Endpoint) (vlan : Option Nat) (b : List Byte) (s : State) : State :=
  match dst with
  | .ring k =>
    if (ring s k).enable then
      let s1 := modRing k (fun r => { r with held := r.held ++ [b] }) s
      drainRing k ((ring s1 k).held.length) s1
    else s
  | .inband p a => { s with spi := { s.spi with inband := s.spi.inband ++ [{ port := p, dst := a, vlan := vlan, packet := withTrailer b }] } }
  | .spi => { s with spi := fillSpi (s.spi.held.length + 1) { s.spi with held := s.spi.held ++ [withTrailer b] } }

def sendPackets (dst : Endpoint) (vlan : Option Nat) : List (List Byte) → State → State
  | [], s => s
  | b :: r, s => sendPackets dst vlan r (sendPacket dst vlan b s)

/-! ## Sessions (R69-R75) -/

def session (s : State) (slot : Nat) : Session := tget {} s.cp.sessions slot
def modSession (slot : Nat) (f : Session → Session) (s : State) : State :=
  { s with cp := { s.cp with sessions := tmod {} s.cp.sessions slot f } }

/-- The identifier of a session (R70). -/
def sessionId (s : State) (slot : Nat) : Nat := (session s slot).gen * 4 + slot

/-- Does an identifier name an open session bound to this endpoint (R61, check 3). -/
def sessionOpen (s : State) (id : Nat) (src : Endpoint) : Bool :=
  let x := session s (id % 4)
  x.isOpen && x.gen == id / 4 && x.endpoint == src

/-! ### Replies not yet written (R62, R65, R75)

A reply of a ring pair is written when a posted buffer takes it (R87), one of the in-band transport when its frame is formed (R90), one of the SPI
target when it enters the target's queue (DESIGN CHOICE, log 37). -/

/-- The reply packets of a session that its transport has not written yet, kept ones sent again (R91) apart. -/
def unwritten (s : State) (id : Nat) (src : Endpoint) : List (List Byte) :=
  match src with
  | .ring k => (ring s k).held.filter (fun b => byteAt b 8 == id)
  | .inband p a => (s.spi.inband.filter (fun r => r.port == p && r.dst == a && byteAt r.packet 8 == id && !r.again)).map (·.packet)
  | .spi => s.spi.held.filter (fun b => byteAt b 8 == id)

/-- Is a packet the final reply of a command that was outstanding: not ACCEPTED (R64), not of OPEN_SESSION, not VERSION, which check 2 answers
before check 3 passes, and not BUSY of check 11, which alone carries a count (R59, R62). -/
def endsCommand (b : List Byte) : Bool :=
  let st := le b 12 2
  st != stAccepted && st != stVersion && !(st == stBusy && le b 14 2 != 0) && le b 4 2 != 0x0101

/-- The final replies among the unwritten ones: those of commands that are outstanding still (R62, R64, R66). -/
def unwrittenFinal (s : State) (id : Nat) (src : Endpoint) : List (List Byte) := (unwritten s id src).filter endsCommand

/-- The last 16 final replies of an in-band session are kept (R91). -/
def keepReply (t : Ticket) (b : List (List Byte)) (s : State) : State :=
  match t.src with
  | .inband _ _ =>
    modSession (t.session % 4)
      (fun x => { x with kept := ({ tag := t.tag, trailer := t.trailer, packets := b } :: x.kept).take 16 }) s
  | _ => s

/-- The reply to a command, not yet through any session test. -/
def respond (t : Ticket) (flags status detail : Nat) (params : List Byte) (s : State) : State :=
  let pk := replyPackets t flags s.dev.state status detail (chunks 4080 (params.length / 4080 + 1) params)
  let s1 := sendPackets t.src t.vlan pk s
  if status = stAccepted then s1
  else if sessionOpen s t.session t.src then keepReply t pk s1 else s1

/-- A command leaves those that execute. -/
def commandEnds (t : Ticket) (l : List Outst) : List Outst := l.filter (fun o => !(o.tag == t.tag && o.opcode == t.opcode))

/-- The COMPLETION of a deferred command, with the DETAIL of R59: if its session is still open, it leaves the commands that execute, and its final
reply goes to the transport (R64, R75). In SAFE with cause 0x03 nothing replies (R31). -/
def complete (t : Ticket) (status : Nat) (params : List Byte) (s : State) : State :=
  if s.clk.coreStopped then s
  else if sessionOpen s t.session t.src then
    respond t 0xC0 status (if status = stStateConflict then t.mask else 0) params
      (modSession (t.session % 4) (fun x => { x with outstanding := commandEnds t x.outstanding }) s)
  else if tmem s.cp.closed t.session then
    { s with cp := { s.cp with closed := tmod {} s.cp.closed t.session (fun x => { x with outstanding := commandEnds t x.outstanding }) } }
  else s

/-- Do packets of a session wait in the front end. -/
def anyWaits (id : Nat) (s : State) : Bool := s.cp.waiting.any (fun q => q.session == id && q.opcode != 0x0101)

/-- An image load that a session holds open ends with it, once none of its commands waits (R75, R260). -/
def endLoad (id : Nat) (s : State) : State :=
  { s with imgLoad := if anyWaits id s then s.imgLoad else s.imgLoad.filter (fun l => l.session != id || l.ticket.isSome) }

/-- A session closes (R75): replies not yet written are discarded, and the commands that wait keep the session that they were checked against. -/
def closeSession (slot : Nat) (s : State) : State :=
  let x := session s slot
  let id := sessionId s slot
  endLoad id { s with
    rings := match x.endpoint with
      | .ring k => tmod {} s.rings k (fun r => { r with held := r.held.filter (fun b => byteAt b 8 != id) })
      | _ => s.rings
    spi := { s.spi with
      inband := s.spi.inband.filter (fun r => !(x.endpoint == .inband r.port r.dst && byteAt r.packet 8 == id))
      held := if x.endpoint == .spi then s.spi.held.filter (fun b => byteAt b 8 != id) else s.spi.held }
    cp := { s.cp with
      sessions := tmod {} s.cp.sessions slot (fun x => { x with isOpen := false, closing := false, outstanding := [], kept := [] })
      closed := if anyWaits id s then tput s.cp.closed id { x with closing := false, kept := [] } else s.cp.closed } }

/-- A session whose CLOSE_SESSION reply is written closes (R75). -/
def settleClosing (slot : Nat) (s : State) : State :=
  let x := session s slot
  if x.closing && !(unwritten s (sessionId s slot) x.endpoint).any closesSession then closeSession slot s else s

/-- The same for every slot. -/
def settleClosings (s : State) : State := (List.range 4).foldl (fun t k => settleClosing k t) s

/-- The waiting packets of a session. -/
def waitingOf (s : State) (id : Nat) (src : Endpoint) : Nat :=
  (s.cp.waiting.filter (fun q => q.session == id && q.src == src)).length

/-- Has a waiting packet the version of its session, or of the one that closed since: check 2 of R61, without which check 3 is not passed. -/
def versionHeld (s : State) (q : Packet) : Bool :=
  let x := if sessionOpen s q.session q.src then session s (q.session % 4) else tget {} s.cp.closed q.session
  q.verMajor == x.verMajor && q.verMinor == x.verMinor

/-- The commands outstanding in a session that wait in the front end: those that pass check 3 (R62). -/
def waitingOutstanding (s : State) (id : Nat) (src : Endpoint) : Nat :=
  (s.cp.waiting.filter (fun q => q.session == id && q.src == src && versionHeld s q)).length

/-- The other outstanding commands of a session: those that execute, those that wait, those whose final reply is not written; a series of reply
packets is one reply (R62, R66). -/
def othersOutstanding (s : State) (p : Packet) : Nat :=
  (session s (p.session % 4)).outstanding.length + waitingOutstanding s p.session p.src +
    ((unwrittenFinal s p.session p.src).filter (fun b => !bit (byteAt b 3) 5)).length

/-! ## Command forms (R56, R61) -/

/-- What a command's own checks and execution answer. -/
inductive CmdResult where
  /-- Check 10: the byte offset of the first field found wrong (R59). -/
  | badParam (off : Nat)
  /-- Checks 12 and 13 without side effect: status and DETAIL. -/
  | refuse (status detail : Nat)
  /-- Check 12: STATE_CONFLICT of an object (R79). -/
  | conflict
  /-- Check 13: OK with the reply parameters and the next state. -/
  | ok (reply : List Byte) (s : State)
  /-- Check 13: another final status with an effect. -/
  | final (status : Nat) (reply : List Byte) (s : State)
  /-- Check 13: ACCEPTED; the COMPLETION follows. -/
  | accepted (s : State)

/-- A row of the opcode index (R81): mask bits 0 CONFIG, 1 RUN, 2 MAINTENANCE, 3 SAFE. upsetAct is the consequence of an
uncorrectable sheaf in the table that the command updates (R44, R45). -/
structure CmdSpec where
  opcode : Nat
  priv : Nat
  mask : Nat
  lenOk : List Byte → Bool
  upsetAct : Option (State → State) := none

/-- Exactly n parameter bytes. -/
def len (n : Nat) (b : List Byte) : Bool := b.length == n

/-- A command with an OP byte: each form's own length; an OP that names no form passes if its 4-byte word is there (R56). -/
def lenForms (opOff : Nat) (forms : List (Nat × (List Byte → Bool))) (b : List Byte) : Bool :=
  if b.length < (opOff / 4) * 4 + 4 then false
  else match forms.find? (fun f => f.1 == byteAt b opOff) with
    | some f => f.2 b
    | none => true

/-- The legal-state mask bit of the present state (R59). -/
def stateBit (s : State) : Nat :=
  match s.dev.state with
  | 3 => 1
  | 4 => 2
  | 5 => 4
  | 6 => 8
  | _ => 0

/-- The ordinary check 8 (R61, R81). -/
def check8 (c : CmdSpec) (_ : Packet) (_ : Session) (s : State) : Option (Nat × Nat) :=
  if c.mask &&& stateBit s = 0 then some (stStateConflict, c.mask) else none

/-- Checks 2 to 7 of R61, made by the front end: the failing status and DETAIL. -/
def frontCheck (c : CmdSpec) (p : Packet) (s : State) : Option (Nat × Nat) :=
  let here := sessionOpen s p.session p.src
  let x := session s (p.session % 4)
  let isOpen := c.opcode == 0x0101
  if !isOpen && here && !(p.verMajor == x.verMajor && p.verMinor == x.verMinor) then some (stVersion, 0x0302)
  else if !here && !(isOpen && p.session == 0) then some (stPrivilege, 0)
  else if p.paramLen % 4 != 0 || 4080 < p.paramLen || p.params.length != p.paramLen then some (stBadLength, 0)
  else if !c.lenOk p.params then some (stBadLength, 0)
  else if !isOpen && x.priv < c.priv then some (stPrivilege, 0)
  else none

/-- Check 9 of R61: the header. OPEN_SESSION has no negotiated version and no earlier command of its session: bit 0 (ORDERED) is accepted on it and
has no effect (DESIGN CHOICE, log 72). -/
def headerOk (c : CmdSpec) (p : Packet) (s : State) : Bool :=
  let x := session s (p.session % 4)
  p.reserved == 0 && p.flags / 2 == 0 &&
  (c.opcode == 0x0101 ||
    (!(bit p.flags 0 && (x.verMajor < 3 || (x.verMajor == 3 && x.verMinor == 0))) &&
     x.outstanding.all (fun o => o.tag != p.tag) && (unwrittenFinal s p.session p.src).all (fun b => le b 6 2 != p.tag)))

/-- What a packet carries to its replies. -/
def ticketFor (c : CmdSpec) (p : Packet) : Ticket := { ticketOf p with opcode := c.opcode, mask := c.mask }

/-- A packet on a session restarts its idle time (R74, R75). -/
def touchSession (p : Packet) (s : State) : State :=
  if sessionOpen s p.session p.src then modSession (p.session % 4) (fun x => { x with lastPacket := s.clk.edges }) s else s

/-- The reply that R61 gives for the outcome of a command's own checks. -/
def finish (c : CmdSpec) (p : Packet) (r : CmdResult) (s : State) : State :=
  let t := ticketFor c p
  let x := session s (p.session % 4)
  let say := fun st d => respond t 0x80 st d [] s
  match r with
  | .badParam off => say stBadParam off
  | r =>
    if c.opcode != 0x0101 && 256 ≤ othersOutstanding s p then say stBusy (othersOutstanding s p)
    else if p.upset && c.upsetAct.isSome then
      match r with
      | .ok _ _ | .final _ _ _ | .accepted _ => respond t 0x80 stHwFault 0 [] ((c.upsetAct.getD id) s)
      | .refuse st d => say st d
      | _ => say stStateConflict c.mask
    else match r with
    | .badParam off => say stBadParam off
    | .refuse st d => say st d
    | .conflict => say stStateConflict c.mask
    | .ok reply s1 =>
      if c.opcode = 0x0101 then respond { t with session := byteAt reply 8 } 0x80 stOk 0 reply s1
      else if 4080 < reply.length && x.verMajor < 3 then say stBadLength 0 else respond t 0x80 stOk 0 reply s1
    | .final st reply s1 => respond t 0x80 st 0 reply s1
    | .accepted s1 =>
      respond t 0x80 stAccepted 0 []
        (modSession (p.session % 4) (fun x => { x with outstanding := { tag := p.tag, opcode := c.opcode } :: x.outstanding }) s1)

/-- The corrected words that a command reads are counted (R43). -/
def corrected (p : Packet) (s : State) : State := p.fixed.foldl (fun s m => memCorr (m % 37) s) s

/-- They are read at check 13: a refused command reads none (R24, R61). -/
def withCorrected (p : Packet) : CmdResult → CmdResult
  | .ok reply s => .ok reply (corrected p s)
  | .final st reply s => .final st reply (corrected p s)
  | .accepted s => .accepted (corrected p s)
  | r => r

/-- Checks 8 to 13 of R61, made by the command processor. -/
def execute (c : CmdSpec) (chk8 : Packet → Session → State → Option (Nat × Nat)) (body : Packet → State → CmdResult)
    (p : Packet) (s : State) : State :=
  match chk8 p (session s (p.session % 4)) s with
  | some (st, d) => respond (ticketFor c p) 0x80 st d [] s
  | none =>
    if headerOk c p s then finish c p (withCorrected p (body p s)) s
    else respond (ticketFor c p) 0x80 stBadParam 0xFFFF [] s

/-- Are WCP packets served: the transports run, in CONFIG, RUN, MAINTENANCE or SAFE except with cause 0x03 (R58, R76). -/
def serving (s : State) : Bool := s.cp.serving && stateBit s != 0 && !s.clk.coreStopped

/-! ### Turns (R57, R63) -/

/-- The turn that a packet waits for: its session's slot. R63 gives OPEN_SESSION, which names no session, no turn: it has one of its own after slot 3
(DESIGN CHOICE, log 72). -/
def turnOf (p : Packet) : Nat := if p.opcode = 0x0101 then 4 else p.session % 4

/-- Is ORDERED honoured: from version 3.1 (R57, R67). -/
def orderedOn (p : Packet) (s : State) : Bool :=
  let x := session s (p.session % 4)
  bit p.flags 0 && (3 < x.verMajor || (x.verMajor == 3 && 1 ≤ x.verMinor))

/-- Does a transceiver command find a ledger write to its module in progress, for which it waits (R143). -/
def ledgerBusy (p : Packet) (s : State) : Bool :=
  decide (0x0301 ≤ p.opcode ∧ p.opcode ≤ 0x0304) && (module s (cageOf s (byteAt p.params 0))).write.isSome

/-- What keeps the first packet of a session from starting: ORDERED, while an earlier command has not sent its final reply, or a ledger write. No
final reply of a session that has closed is sent, and none is waited for (DESIGN CHOICE, log 85). -/
def heldBack (p : Packet) (s : State) : Bool :=
  p.opcode != 0x0101 &&
  ((sessionOpen s p.session p.src && orderedOn p s && !((session s (p.session % 4)).outstanding.isEmpty && (unwrittenFinal s p.session p.src).isEmpty)) || ledgerBusy p s)

/-- The packet whose turn it is: the first of its session, sessions in rising order of slot after the last served (R63). -/
def nextPacket (s : State) : Option Packet :=
  (List.range 5).findSome? (fun i =>
    match s.cp.waiting.find? (fun p => turnOf p == (s.cp.lastSlot + 1 + i) % 5) with
    | some p => if heldBack p s then none else some p
    | none => none)

/-- Does an earlier command of the same open session wait in the front end. -/
def behindOwn (p : Packet) (s : State) : Bool := !s.cp.inTurn && p.opcode != 0x0101 && waitingOf s p.session p.src != 0

/-- Must a command wait: behind an earlier one of its session, held back itself, or while it is the turn of a packet that waits (R57, R63). -/
def mustWait (p : Packet) (s : State) : Bool := behindOwn p s || (!s.cp.inTurn && (heldBack p s || (nextPacket s).isSome))

/-- The slot in whose session the reply to an in-band packet would be kept: the one it names, or for OPEN_SESSION the one its endpoint holds. -/
def keptSlot (p : Packet) (s : State) : Option Nat :=
  if p.opcode = 0x0101 then (List.range 4).find? (fun k => (session s k).isOpen && (session s k).endpoint == p.src)
  else if sessionOpen s p.session p.src then some (p.session % 4) else none

/-- A reply kept for the TAG and trailer of an in-band command (R91). -/
def keptReply (p : Packet) (s : State) : Option KeptReply :=
  match p.src with
  | .inband _ _ => (keptSlot p s).bind (fun k => (session s k).kept.find? (fun r => r.tag == p.tag && r.trailer == p.trailer))
  | _ => none

def isInband : Endpoint → Bool
  | .inband _ _ => true
  | _ => false

/-- A kept reply goes out again (R91). -/
def resend (p : Packet) (k : KeptReply) (s : State) : State :=
  match p.src with
  | .inband a d =>
    { s with spi := { s.spi with
        inband := s.spi.inband ++ k.packets.map (fun b => { port := a, dst := d, vlan := p.vlan, packet := withTrailer b, again := true }) } }
  | _ => s

/-- Is there no place for an in-band packet: 64 wait already (R91). A packet whose turn it is holds a place. -/
def queueFull (p : Packet) (s : State) : Bool :=
  !s.cp.inTurn && isInband p.src && decide (64 ≤ (s.cp.waiting.filter (fun q => isInband q.src)).length)

/-- A packet that finds no place is dropped without reply as a transport fault (R65, R91). -/
def dropPacket (s : State) : State := { s with cp := { s.cp with transportFaults := s.cp.transportFaults + 1 } }

/-- A packet waits in the front end (R65). -/
def queuePacket (p : Packet) (s : State) : State := { s with cp := { s.cp with waiting := s.cp.waiting ++ [p] } }

/-- Does the command processor take commands: it runs, and no reload is about to start (R83). -/
def cpTakes (s : State) : Bool := s.cp.running && !s.cp.reloadAsked

/-- The front end's part (R61, R63, R65, R91): a packet without a place is dropped, a kept reply is sent again, one behind an earlier command of its
session waits and is checked when its turn comes, so that first replies keep the order of arrival; checks 2 to 7 of the rest come before pass. -/
def frontEnd (c : CmdSpec) (p : Packet) (s0 : State) (pass : State → State) : State :=
  if !serving s0 then s0
  else if queueFull p s0 then dropPacket s0
  else
    let s := touchSession p s0
    match keptReply p s with
    | some k => resend p k s
    | none =>
      if cpTakes s && behindOwn p s && sessionOpen s p.session p.src then queuePacket p s
      else match frontCheck c p s with
      | some (st, d) => respond (ticketFor c p) 0x80 st d [] s
      | none => pass s

/-- A packet arrives for command c and is checked and run (R61, R63). While the command processor is halted or reloading, or while it must wait, a
packet that passes checks 1-7 waits in the front end (R65). -/
def serve (c : CmdSpec) (chk8 : Packet → Session → State → Option (Nat × Nat)) (body : Packet → State → CmdResult)
    (p0 : Packet) (s0 : State) : State :=
  let p := { p0 with opcode := c.opcode }
  frontEnd c p s0 (fun s => if !cpTakes s || mustWait p s then queuePacket p s else execute c chk8 body p s)

/-- Until a transition to CONFIG has trained its channels, SET_STATE, group 0x0D, DEEP_STORE_SET and GLEANER_SET answer BUSY (R77). -/
def unlessRetrain (body : Packet → State → CmdResult) (p : Packet) (s : State) : CmdResult :=
  match body p s with
  | .badParam off => .badParam off
  | r => if s.dev.retrain.isSome then .refuse stBusy 0 else r

/-- A command with the ordinary check 8. -/
def serveCmd (c : CmdSpec) (body : Packet → State → CmdResult) (p : Packet) (s : State) :
    Host.Outcome State Fault Refusal :=
  .next (serve c (check8 c) body p s)

/-! ## Parameter checks (R15) -/

/-- The offset of the first nonzero byte of a reserved field. -/
def reservedAt (b : List Byte) (off n : Nat) : Bool := allZero ((b.drop off).take n)

/-- The first failing check of a list, as its byte offset. -/
def firstBad : List (Bool × Nat) → Option Nat
  | [] => none
  | (ok, off) :: r => if ok then firstBad r else some off

/-- Run the rest of a command if every parameter check holds. -/
def checked (l : List (Bool × Nat)) (k : CmdResult) : CmdResult :=
  match firstBad l with
  | some off => .badParam off
  | none => k

/-- A command that meets an uncorrectable word of the memory it updates answers HW_FAULT, and the memory's own rule acts (R44). -/
def unlessUpset (p : Packet) (act : State → State) (s : State) (k : CmdResult) : CmdResult :=
  if p.upset then .final stHwFault [] (act s) else k

/-- Does the part have this port, and does no four-lane port hide it (R7, R18). -/
def portExists (s : State) (p : Nat) : Bool :=
  decide (p < nPorts s) &&
  (p % 4 == 0 || !((port s (p / 4 * 4)).cfg.configured && (port s (p / 4 * 4)).cfg.mode == 0x09))

/-- A mask of ports that the part has (R7), none of them hidden under a QSGMII lane (R18). -/
def maskOk (s : State) (m : Nat) : Bool := decide (m < 2 ^ nPorts s) && (List.range 64).all (fun p => !bit m p || portExists s p)

/-- The ports of a mask. -/
def maskPorts (m : Nat) : List Nat := bitList 64 m

end Sys2Proof.Machine
end

