-- ==== Sys2Proof/Machine/Tables.lean ====
section
/-! DEFINITION. Address and stream tables: keys, lookups, staged updates, learning, ageing, the shadow compare and their commands
(spec/06). -/

namespace Sys2Proof.Machine

/-! ## Keys and buckets (R183-R185) -/

def wide (s : State) : Bool := s.dev.profile == 2
def ways (s : State) : Nat := if wide s then 2 else 4

/-- The bijective mix of a 60-bit key (R185). -/
def mix (k : Nat) : Nat :=
  let m := 2 ^ 60
  let h := k % m * 0x9E3779B97F4A7C1 % m
  let h1 := h ^^^ (h >>> 29)
  let h2 := h1 * 0xC2B2AE3D27D4EB5 % m
  h2 ^^^ (h2 >>> 32)

def bucketOf (k : Nat) : Nat := bits (mix k) 59 44
def setOf (s : State) (k : Nat) : Nat := if wide s then bits (mix k) 59 46 else bucketOf k

/-- FID || MAC (R184). -/
def addrKey (fid mac : Nat) : Nat := fid * 2 ^ 48 + mac
def keyFid (k : Nat) : Nat := k / 2 ^ 48
def keyMac (k : Nat) : Nat := k % 2 ^ 48
def appKey (domain appid : Nat) : Nat := 0xFFF * 2 ^ 48 + domain * 65536 + appid
def daKey (vid da : Nat) : Nat := vid * 2 ^ 48 + da

/-! ## Places: 4 x bucket + way, or ovfBase + index -/

def ovfBase : Nat := 0x1000000

def entryAt (t : Tables) (pl : Nat) : Option TabEntry :=
  if pl < ovfBase then tget? t.addr pl else tget? t.ovf (pl - ovfBase)
def putEntry (pl : Nat) (e : TabEntry) (t : Tables) : Tables :=
  if pl < ovfBase then { t with addr := tput t.addr pl e } else { t with ovf := tput t.ovf (pl - ovfBase) e }
def delEntry (pl : Nat) (t : Tables) : Tables :=
  if pl < ovfBase then { t with addr := tdel t.addr pl } else { t with ovf := tdel t.ovf (pl - ovfBase) }

/-- The place and entry of an address key: its bucket, then the overflow store. -/
def findAddr (s : State) (t : Tables) (key : Nat) : Option (Nat × TabEntry) :=
  let b := 4 * bucketOf key
  let inBucket := (List.range (ways s)).findSome? (fun w =>
    match tget? t.addr (b + w) with
    | some e => if e.key == key then some (b + w, e) else none
    | none => none)
  match inBucket with
  | some x => some x
  | none => (t.ovf.find? (fun x => x.2.kind == 1 && x.2.key == key)).map (fun x => (ovfBase + x.1, x.2))

/-- The entry of a stream key: its set, then the overflow store. Places as above. -/
def findStream (s : State) (t : Tables) (key : Nat) : Option (Nat × Nat) :=
  let b := 4 * setOf s key
  let inSet := (List.range 4).findSome? (fun w =>
    match tget? t.strm (b + w) with
    | some e => if e.key == key then some (b + w, e.handle) else none
    | none => none)
  match inSet with
  | some x => some x
  | none => (t.ovf.find? (fun x => x.2.kind == 2 && x.2.key == key)).map (fun x => (ovfBase + x.1, x.2.handle))

def learnedOf (t : Tables) : List (Nat × TabEntry) :=
  (t.addr.filter (fun x => !x.2.static)) ++ ((t.ovf.filter (fun x => x.2.kind == 1 && !x.2.static)).map (fun x => (ovfBase + x.1, x.2)))

def tctr (k n : Nat) (t : Tables) : Tables := { t with ctr := cinc t.ctr k n }
def modTab (f : Nat) (g : Tables → Tables) (s : State) : State := modFur f (fun x => { x with tab := g x.tab }) s
def eachTab (g : Tables → Tables) (s : State) : State := eachFur (fun x => { x with tab := g x.tab }) s
def tabBase (f : Nat) : Nat := 0x290 + 8 * f

/-- The overflow event fires as occupancy rises through 1,843 entries (R206). -/
def ovfWatch (f : Nat) (s : State) : State :=
  let t := (fur s f).tab
  if t.ovf.length < 1843 then modTab f (fun t => { t with ovfArmed := true }) s
  else if t.ovfArmed then fireFur f (tabBase f + 6) 0 [] (modTab f (fun t => { t with ovfArmed := false }) s)
  else s
def ovfWatchBoth (s : State) : State := ovfWatch 1 (ovfWatch 0 s)

/-! ## Values seen by a frame of an ingress time (R199) -/

def stagedFor (t : Tables) (ns : Nat) (p : Staged → Bool) : Option Staged :=
  (t.staging.find? (fun r => decide (ns < r.te) && p r.what)).map (·.what)

def mgroupAt (t : Tables) (g ns : Nat) : Nat :=
  match stagedFor t ns (fun w => match w with | .mgroup g1 _ => g1 == g | _ => false) with
  | some (.mgroup _ old) => old
  | _ => tget 0 t.mgroup g

def bindAt (t : Tables) (h ns : Nat) : Binding :=
  match stagedFor t ns (fun w => match w with | .bind h1 _ => h1 == h | _ => false) with
  | some (.bind _ old) => old
  | _ => tget {} t.bind h

def slotAt (t : Tables) (n ns : Nat) : KeySlot :=
  match stagedFor t ns (fun w => match w with | .slot n1 _ => n1 == n | _ => false) with
  | some (.slot _ old) => old
  | _ => tget {} t.keys n

/-- The handle that a stream key has now: kind 1 APP, 2 DA_VID. In WIDE an APP key has a DIRECT flag (R190). -/
def keyNow (s : State) (t : Tables) (kind key : Nat) : Option Nat :=
  if wide s && kind = 1 then
    let h := key % 65536 * 16 + key / 65536 % 16
    if tget false t.direct h then some h else none
  else (findStream s t key).map (·.2)

def keyAt (s : State) (t : Tables) (kind key ns : Nat) : Option Nat :=
  match stagedFor t ns (fun w => match w with | .key k1 x _ => k1 == kind && x == key | _ => false) with
  | some (.key _ _ old) => old
  | _ => keyNow s t kind key

/-- Is an egress set static: PORT or GROUP (R189). -/
def staticEgress (b : Binding) : Bool := b.egressKind == 1 || b.egressKind == 2

/-! ## Staging (R199) -/

def sameObject : Staged → Staged → Bool
  | .mgroup a _, .mgroup b _ => a == b
  | .bind a _, .bind b _ => a == b
  | .key k a _, .key k2 b _ => k == k2 && a == b
  | .slot a _, .slot b _ => a == b
  | .hot a _, .hot b _ => a == b
  | .param a _, .param b _ => a == b
  | .reset a _ _, .reset b _ _ => a == b
  | _, _ => false

/-- Records whose TE + 50 us has passed retire. -/
def purgeStaging (s : State) : State :=
  let keep := fun (t : Tables) => { t with staging := t.staging.filter (fun r => decide (nowNs s < r.te + 50000)) }
  modTab 1 keep (modTab 0 keep s)

/-- The waits of a command that needs a record while all are used, or whose object is staged: time passes, STAGED_WAITS counts. -/
def stageWait : Nat → List Staged → State → State
  | 0, _, s => s
  | n + 1, objs, s =>
    let t := (fur s s.hl.lead).tab
    let busy := t.staging.find? (fun r => objs.any (sameObject r.what))
    let oldest := if 64 < t.staging.length + objs.length then t.staging.head? else none
    match (match busy with | some r => some r | none => oldest) with
    | none => s
    | some r => stageWait n objs (purgeStaging (eachTab (tctr 18 1) (reachNs (r.te + 50000) s)))

/-- TE: 100 us after execution, rounded up to a whole microsecond, in nanoseconds. -/
def stageTe (s : State) : Nat := (s.clk.tb + 100000 * tbuPerNs + 1000 * tbuPerNs - 1) / (1000 * tbuPerNs) * 1000

/-- A staged change: the records of the objects with their old values, and the new values. -/
def stageAll (objs : Tables → List Staged) (te : Nat) (new : Tables → Tables) (s : State) : State :=
  eachTab (fun t => new { t with staging := t.staging ++ (objs t).map (fun w => { what := w, te := te }) }) s

/-- STAGING_RECORD_RETIRE: at TE + 50 us of the oldest record, it retires (R199). -/
def execStagingRecordRetire (s : State) : Host.Outcome State Fault Refusal :=
  if s.clk.coreStopped then .next s else
  match (s.fa.tab.staging ++ s.fb.tab.staging).foldl
      (fun (m : Option Nat) r => match m with | none => some r.te | some x => some (min x r.te)) none with
  | none => .next s
  | some te => .next (purgeStaging (reachNs (te + 50000) s))

/-! ## Lookups of a frame (R191, R192) -/

/-- Stream lookup: the handle found and whether a hit or a miss is counted. -/
def streamLookup (s : State) (f : Nat) (app appid domain vid da ns : Nat) : Nat × State :=
  let t := (fur s f).tab
  let hit := if 1 ≤ app && app ≤ 4 then some (keyAt s t 1 (appKey domain appid) ns)
    else if vid != 0xFFF then some (keyAt s t 2 (daKey vid da) ns) else none
  match hit with
  | some (some h) => (h, modTab f (tctr 16 1) s)
  | some none => (0, modTab f (tctr 17 1) s)
  | none => (0, s)

/-- Address lookup: the egress mask, 0 with the drop's disposition (3 same port, 4 empty flood). -/
def addressLookup (s : State) (f fid da ingress ns : Nat) : Nat × Nat × State :=
  let t := (fur s f).tab
  let less := fun m => andNot m (2 ^ ingress)
  let flood := fun (s1 : State) =>
    let m := less (mgroupAt t fid ns)
    if m = 0 then (0, 4, fireFurMs f (tabBase f + 5) 0 (toLE 2 fid) (modTab f (tctr 11 1) s1)) else (m, 0, s1)
  if da = 2 ^ 48 - 1 then flood s
  else
    match findAddr s t (addrKey fid da) with
    | none => flood (modTab f (tctr 10 1) s)
    | some (_, e) =>
      let s1 := modTab f (tctr 9 1) s
      let m := less (if e.static && e.group then mgroupAt t e.dest ns else 2 ^ e.dest)
      if m = 0 then (0, 3, modTab f (tctr 12 1) s1) else (m, 0, s1)

/-! ## Learning (R193-R195) -/

/-- Tokens of the learn budget up to now (R194). -/
def refillLearn (s : State) (t : Tables) : Tables :=
  { t with tokens := min 1250000000 (t.tokens + (s.clk.edges - t.tokensAt) * s.age.learnRate), tokensAt := s.clk.edges }

/-- An uncorrectable address entry, whoever reads it: it reads as a miss from now on, with event and alarm (R45, R206). -/
def addrFault (f : Nat) (s : State) (pl : Nat) : State :=
  raiseAlarm f 0 (fireFur f (tabBase f + 7) 0 [] (ovfWatch f (modTab f (delEntry pl) (memUnc (6 + f) s))))

def learnLimited (f : Nat) (s : State) : State := fireFurMs f (tabBase f + 1) 0 [] s

/-- A frame with good FCS ends: its SA is examined, against the group of a static entry as a frame of its ingress time sees it (R193, R194, R199). -/
def learnExamine (f key port ns : Nat) (s : State) : State :=
  let mac := keyMac key
  let t := (fur s f).tab
  if mac = 0 || bit mac 40 then modTab f (tctr 8 1) s
  else
    let wait := fun (s : State) =>
      if t.pend.any (fun x => x.key == key) then s
      else if 64 ≤ t.pend.length then learnLimited f (modTab f (tctr 6 1) s)
      else modTab f (fun t => { t with pend := t.pend ++ [{ key := key, port := port }] }) s
    match findAddr s t key with
    | none => wait s
    | some (pl, e) =>
      if e.static then
        let includes := if e.group then bit (mgroupAt t e.dest ns) port else e.dest == port
        if includes then s else fireFurMs f (tabBase f + 3) 0 [] (modTab f (tctr 7 1) s)
      else if e.dest == port then modTab f (putEntry pl { e with hit := true }) s
      else wait s

/-- The first free place for a learned key: a way of its bucket, else the lowest free overflow index. -/
def learnPlace (s : State) (t : Tables) (key : Nat) : Option Nat :=
  let b := 4 * bucketOf key
  match (List.range (ways s)).find? (fun w => !tmem t.addr (b + w)) with
  | some w => some (b + w)
  | none => ((List.range 2048).find? (fun i => !tmem t.ovf i)).map (fun i => ovfBase + i)

/-- A key inserted while a flush walks may lie behind the walk, and then survives it (R211): which is left open (log 2). -/
def noteSurvivor (f key : Nat) (s : State) : State :=
  if s.flush.isEmpty then s
  else
    let (v, s1) := takeFree 1 s
    if v = 0 then s1
    else { s1 with flush := s1.flush.map (fun x => { x with survivors := (2 * key + f) :: x.survivors }) }

/-- LEARN_INSERT (R193-R195): the oldest pending learn of a furrow moves or inserts its entry. -/
def learnStep (f : Nat) (s0 : State) : State :=
  match (fur s0 f).tab.pend with
  | [] => s0
  | x :: rest =>
    let s := modTab f (fun t => refillLearn s0 { t with pend := rest }) s0
    let t := (fur s f).tab
    let paid := fun (g : Tables → Tables) (s : State) => modTab f (fun t => g { t with tokens := t.tokens - 1250000 }) s
    match findAddr s t x.key with
    | some (pl, e) =>
      if e.static then s
      else if e.dest == x.port then modTab f (putEntry pl { e with hit := true }) s
      else if t.tokens < 1250000 then learnLimited f (modTab f (tctr 4 1) s)
      else paid (fun t => tctr 1 1 (putEntry pl { e with dest := x.port, hit := true } t)) s
    | none =>
      let lim := (port s x.port).learn.limit
      if lim != 0 && lim ≤ ((learnedOf t).filter (fun e => e.2.dest == x.port)).length then learnLimited f (modTab f (tctr 5 1) s)
      else if t.tokens < 1250000 then learnLimited f (modTab f (tctr 4 1) s)
      else
        match learnPlace s t x.key with
        | none => fireFurMs f (tabBase f) 0 (toLE 1 x.port ++ toLE 2 (keyFid x.key)) (modTab f (tctr 3 1) s)
        | some pl =>
          let e : TabEntry := { kind := 1, key := x.key, hit := true, dest := x.port, age := t.sweepStamp }
          noteSurvivor f x.key (ovfWatch f (paid (fun t => tctr 0 1 (putEntry pl e t)) s))

/-- LEARN_INSERT, after the uncorrectable places that it reads. -/
def execLearnInsert (t : TabRead) (s : State) : Host.Outcome State Fault Refusal :=
  if s.clk.coreStopped then .next s else
  .next (learnStep (furNo t.f) (t.bad.foldl (addrFault (furNo t.f)) s))

/-! ## Ageing and flushing (R196, R197, R211) -/

/-- One sweep with stamp S: an entry hit is stamped; one whose age reached the limit is removed. -/
def sweepEntry (stamp limit : Nat) (e : TabEntry) : Option TabEntry :=
  if e.kind != 1 || e.static then some e
  else if e.hit then some { e with hit := false, age := stamp }
  else if limit != 0 && limit ≤ (stamp + 16 - e.age) % 16 then none
  else some e

def sweepTable (stamp limit : Nat) (t : Table TabEntry) : Table TabEntry :=
  t.filterMap (fun x => (sweepEntry stamp limit x.2).map (fun e => (x.1, e)))

/-- AGEING_SWEEP of a furrow, at the end of its period (R196): it starts the core clock for the sweep, and is no slice activity. -/
def execAgeingSweep (w : TabRead) (s0 : State) : Host.Outcome State Fault Refusal :=
  if s0.clk.coreStopped then .next s0 else
  let n := furNo w.f
  if !decides s0 n then .next s0
  else
    let due := ((fur s0 n).tab.nextSweep).getD s0.clk.edges
    let s := w.bad.foldl (addrFault n) (startCore n (reachEdge due s0))
    .next (coreIdle n (ovfWatch n (modTab n (fun t =>
      let st := (t.sweepStamp + 1) % 16
      let a := sweepTable st s.age.ageLimit t.addr
      let o := sweepTable st s.age.ageLimit t.ovf
      tctr 2 (t.addr.length - a.length + (t.ovf.length - o.length))
        { t with sweepStamp := st, addr := a, ovf := o, nextSweep := some (due + s.age.sweepPeriod * secE) }) s)))

/-- Does a flush of this scope remove an entry (R211). -/
def flushHits (x : Flush) (f : Nat) (e : TabEntry) : Bool :=
  if e.kind != 1 then false
  else if x.scope = 0x10 then e.static
  else !e.static && bit x.mask f && !x.survivors.contains (2 * e.key + f) &&
    ((x.scope != 1 && x.scope != 3) || e.dest == x.port) && ((x.scope != 2 && x.scope != 3) || keyFid e.key == x.fid)

def flushTable (x : Flush) (f : Nat) (t : Table TabEntry) : Table TabEntry := t.filter (fun e => !flushHits x f e.2)

/-- The walk of a flush in one furrow: its tables and how many entries go. -/
def flushTab (x : Flush) (f : Nat) (t : Tables) : Tables × Nat :=
  let a := flushTable x f t.addr
  let o := flushTable x f t.ovf
  ({ t with addr := a, ovf := o }, t.addr.length - a.length + (t.ovf.length - o.length))

def flushReaches (s : State) (f : Nat) : Bool := powered s f && furState s f != 1 && furState s f != 3

/-- The end of the oldest flush walk: entries removed, COMPLETION where a command asked (R211). -/
def flushDone (s : State) : State :=
  match s.flush with
  | [] => s
  | x :: rest =>
    let go := fun f (st : Tables) => if flushReaches s f then flushTab x f st else (st, 0)
    let ra := go 0 s.fa.tab
    let rb := go 1 s.fb.tab
    let s1 := ovfWatchBoth (modTab 0 (fun _ => ra.1) (modTab 1 (fun _ => rb.1) { s with flush := rest }))
    match x.ticket with
    | none => s1
    | some t => complete t stOk (toLE 4 ra.2 ++ toLE 4 rb.2) s1

def execAddrFlushDone (s : State) : Host.Outcome State Fault Refusal :=
  if s.clk.coreStopped then .next s else
  .next (flushDone s)

/-- A port with FLUSH_ON_LINK_DOWN loses its link (R197). -/
def flushOnLinkDown (p : Nat) (s : State) : State :=
  if (port s p).learn.flushDown then
    { s with flush := s.flush ++ [{ scope := 1, port := p, fid := 0, mask := 3, ticket := none }] }
  else s

/-! ## Shadow compare (R200, R201) -/

/-- A 16-byte shadow entry: valid, key, DEST, GROUP. -/
def shadowEntry (b : List Byte) : Bool × Nat × Nat × Bool :=
  let w := le b 6 2
  (bit w 15, addrKey (w % 4096) (be b 0 6), le b 8 2, bit (byteAt b 10) 0)

/-- The places of a compare unit (R201): the ways of a bucket, or four overflow indices. -/
def unitPlaces (s : State) (u : Nat) : List Nat :=
  if u < 65536 then (List.range 4).filterMap (fun w => if w < ways s then some (4 * u + w) else none)
  else (List.range 4).map (fun i => ovfBase + 4 * (u - 65536) + i)

/-- Does a place hold a learned entry, which a static write displaces (R188). -/
def displacedAt (pl : Nat) (t : Tables) : Bool := match entryAt t pl with | some e => e.kind == 1 && !e.static | none => false

/-- ADDR_ADD in one furrow: a learned entry at the place is displaced, a learned entry with the key goes from wherever it lies. -/
def addStatic (s : State) (pl key dest : Nat) (group : Bool) (t : Tables) : Tables :=
  let t1 := match findAddr s t key with
    | some (q, e) => if e.static then t else delEntry q t
    | none => t
  tctr 13 (b2n (displacedAt pl t)) (putEntry pl { kind := 1, key := key, static := true, group := group, dest := dest } t1)

/-- One way of a compare unit: mismatch counted and, in REPAIR, repaired as ADDR_ADD or ADDR_DELETE would (R202). -/
def shadowWay (f u way pl : Nat) (b : List Byte) (s : State) : State :=
  let (valid, key, dest, group) := shadowEntry b
  let cur := entryAt (fur s f).tab pl
  let isStatic := match cur with | some e => e.static | none => false
  let same := match cur with
    | some e => e.static && e.key == key && e.dest == dest && e.group == group
    | none => false
  if (valid && same) || (!valid && !isStatic) then s
  else
    let s1 := fireFurMs f (tabBase f + 2) 0 (toLE 4 u ++ toLE 1 way)
      { modTab f (tctr 14 1) s with shadow := { s.shadow with lastUnit := u } }
    if s.shadow.mode != 2 then s1
    else
      let s2 := modTab f (tctr 15 1) s1
      if valid then modTab f (addStatic s2 pl key dest group) s2
      else modTab f (delEntry pl) s2

def shadowSuspend (s : State) : State :=
  if s.shadow.mode = 0 || s.shadow.suspended then s
  else
    let s1 := { s with shadow := { s.shadow with suspended := true } }
    fireFur 1 (tabBase 1 + 4) 0 [] (fireFur 0 (tabBase 0 + 4) 0 [] s1)

def zipWays (f u : Nat) (b : List Byte) : Nat → List Nat → State → State
  | _, [], s => s
  | i, pl :: r, s => zipWays f u b (i + 1) r (shadowWay f u i pl (slice b (16 * i) 16) s)

/-- SHADOW_COMPARE_UNIT: a furrow's next unit, whose 64 bytes the DMA reads; ok is clear for a read error (R201). -/
def execShadowCompareUnit (t : TabRead) (ok : Bool) (data : List Byte) (s0 : State) : Host.Outcome State Fault Refusal :=
  if s0.clk.coreStopped then .next s0 else
  let n := furNo t.f
  if s0.shadow.mode = 0 || s0.shadow.suspended || !decides s0 n then .next s0
  else
    let s := reachEdge (if n = 0 then s0.shadow.nextA else s0.shadow.nextB) s0
    if !ok || !s.pcie.up then .next (shadowSuspend s)
    else
      let u := if n = 0 then s.shadow.unitA else s.shadow.unitB
      let s1 := zipWays n u data 0 (unitPlaces s u) (t.bad.foldl (addrFault n) (perfF n 0x112 1 s))
      let last := u == 65791
      let nx := if last then 0 else u + 1
      let sh := s1.shadow
      .next (ovfWatch n { s1 with shadow :=
        if n = 0 then { sh with unitA := nx, nextA := sh.nextA + 10000, passes := wrap32 (sh.passes + b2n last) }
        else { sh with unitB := nx, nextB := sh.nextB + 10000 } })

/-! ## Commands (R207-R217) -/

/-- The MAC of a command, in transmission order. -/
def cmdMac (b : List Byte) (off : Nat) : Nat := be b off 6
def fidOk (b : List Byte) (off : Nat) : Bool × Nat := (decide (le b off 2 < 4096), off)

/-- An uncorrectable word in table memory (R45): the entry reads as a miss; event and alarm. -/
def tabUpsetIn (f : Nat) (s : State) : State := raiseAlarm f 0 (fireFur f (tabBase f + 7) 0 [] (memUnc (6 + f) s))
def tabUpset (s : State) : State := tabUpsetIn s.hl.lead s

def specAddrAdd : CmdSpec := { opcode := 0x0501, priv := 1, mask := 0x7, lenOk := len 16, upsetAct := some tabUpset }

/-- Does a command that names no furrow write this one (R198). -/
def tabWritten (s : State) (f : Nat) : Bool := powered s f && furState s f != 1 && furState s f != 3

/-- R208. -/
def bodyAddrAdd (p : Packet) (s : State) : CmdResult :=
  let b := p.params
  let fid := le b 6 2
  let dest := le b 8 2
  let group := bit (byteAt b 10) 0
  let whr := byteAt b 11
  let ix := le b 12 2
  checked [(group || !bit (byteAt b 0) 0, 0), fidOk b 6,
    (group || (dest < 64 && portExists s dest), 8), (byteAt b 10 < 2, 10),
    (whr < 2 || (whr < 4 && !wide s) || whr == 0x80, 11), (whr != 0x80 || ix < 1024, 12), (reservedAt b 14 2, 14)] <|
  let key := addrKey fid (cmdMac b 0)
  let pl := if whr = 0x80 then ovfBase + ix else 4 * bucketOf key + whr
  let t := (fur s s.hl.lead).tab
  let elsewhere := match findAddr s t key with | some (q, e) => e.static && q != pl | none => false
  let there := match entryAt t pl with | some e => (e.static || e.kind == 2) && e.key != key | none => false
  if elsewhere || there then .refuse stExists 0
  else
    let replaced := match entryAt t pl with | some e => e.static && e.key == key && !(e.dest == dest && e.group == group) | none => false
    let disp := (List.range 2).any (fun f => tabWritten s f && displacedAt pl (fur s f).tab)
    .ok (toLE 2 (bucketOf key) ++ toLE 1 (b2n disp + 2 * b2n replaced) ++ zeros 5)
      (if group then ovfWatchBoth (eachTab (addStatic s pl key dest group) s)
       else touchPort dest true (ovfWatchBoth (eachTab (addStatic s pl key dest group) s)))

def execAddrAdd (p : Packet) (s : State) : Host.Outcome State Fault Refusal := serveCmd specAddrAdd bodyAddrAdd p s

def specAddrDelete : CmdSpec := { opcode := 0x0502, priv := 1, mask := 0x7, lenOk := len 8, upsetAct := some tabUpset }

/-- Is there an entry with a key, static or learned. -/
def holdsKey (key : Nat) (static : Bool) (t : Tables) : Bool :=
  (t.addr ++ t.ovf).any (fun e => e.2.kind == 1 && e.2.key == key && e.2.static == static)

/-- Every address entry with a key goes: the static one and the learned one (R209). -/
def deleteKey (key : Nat) (t : Tables) : Tables :=
  let keep := fun (e : Nat × TabEntry) => !(e.2.kind == 1 && e.2.key == key)
  { t with addr := t.addr.filter keep, ovf := t.ovf.filter keep }

/-- R209. -/
def bodyAddrDelete (p : Packet) (s : State) : CmdResult :=
  let b := p.params
  checked [fidOk b 6] <|
  let key := addrKey (le b 6 2) (cmdMac b 0)
  let learned := fun f => tabWritten s f && holdsKey key false (fur s f).tab
  .ok (toLE 1 (b2n (holdsKey key true (fur s s.hl.lead).tab) + 2 * b2n (learned 0) + 4 * b2n (learned 1)) ++ zeros 3)
    (ovfWatchBoth (eachTab (deleteKey key) s))

def execAddrDelete (p : Packet) (s : State) : Host.Outcome State Fault Refusal := serveCmd specAddrDelete bodyAddrDelete p s

/-- A command that names a furrow: 0 or 1, and powered (R207). -/
def onFurrow (s : State) (f : Nat) (k : CmdResult) : CmdResult := if powered s f then k else .conflict

def specAddrLookup : CmdSpec := { opcode := 0x0503, priv := 0, mask := 0xF, lenOk := len 12 }
/-- R210. An entry that reads uncorrectable is a miss (R45). -/
def bodyAddrLookup (p : Packet) (s : State) : CmdResult :=
  let b := p.params
  let f := byteAt b 8
  checked [fidOk b 6, (f < 2, 8), (reservedAt b 9 3, 9)] <| onFurrow s f <|
  if p.upset then .ok (zeros 16) (tabUpsetIn f s)
  else match findAddr s (fur s f).tab (addrKey (le b 6 2) (cmdMac b 0)) with
  | none => .ok (zeros 16) s
  | some (pl, e) =>
    .ok (toLE 1 (if e.static then 1 else 2) ++ toLE 1 (if pl < ovfBase then pl % 4 else 0x80) ++
      toLE 2 (if pl < ovfBase then pl / 4 else pl - ovfBase) ++ toLE 2 e.dest ++ toLE 1 (b2n e.group + 2 * b2n e.hit) ++
      toLE 1 (if e.static then 0 else e.age) ++ zeros 8) s

def execAddrLookup (p : Packet) (s : State) : Host.Outcome State Fault Refusal := serveCmd specAddrLookup bodyAddrLookup p s

def specAddrFlush : CmdSpec := { opcode := 0x0504, priv := 1, mask := 0x7, lenOk := len 8 }
/-- R211; a mask that names an unpowered furrow is a conflict (R207), and scope 0x10 takes no notice of the mask. The FID's upper bits are reserved
in every scope. -/
def bodyAddrFlush (p : Packet) (s : State) : CmdResult :=
  let b := p.params
  let sc := byteAt b 0
  let pt := byteAt b 1
  let m := byteAt b 4
  checked [(sc < 4 || sc == 0x10, 0), (!(sc == 1 || sc == 3) || portExists s pt, 1), fidOk b 2, (m < 4 || sc == 0x10, 4), (reservedAt b 5 3, 5)] <|
  if sc != 0x10 && (List.range 2).any (fun f => bit m f && !powered s f) then .conflict
  else .accepted <| (if sc = 1 || sc = 3 then touchPort pt true else id) { s with flush := s.flush ++
    [{ scope := sc, port := pt, fid := le b 2 2, mask := if sc = 0x10 then 3 else m, ticket := some (ticketFor specAddrFlush p) }] }

def execAddrFlush (p : Packet) (s : State) : Host.Outcome State Fault Refusal := serveCmd specAddrFlush bodyAddrFlush p s

def specAgeingSet : CmdSpec := { opcode := 0x0505, priv := 1, mask := 0x7, lenOk := lenForms 0 [(0, len 16), (1, len 16)] }
/-- R212. The bytes that its forms neither list nor call reserved (OP 0x00: 1, 5, 8-15; OP 0x01: 3, 10-15) are ignored (DESIGN CHOICE, log 73). -/
def bodyAgeingSet (p : Packet) (s : State) : CmdResult :=
  let b := p.params
  let op := byteAt b 0
  if op = 0 then
    let per := le b 2 2
    let lim := byteAt b 4
    let rate := le b 6 2
    checked [(1 ≤ per && per ≤ 3600, 2), (lim == 0 || (2 ≤ lim && lim ≤ 15), 4), (1 ≤ rate && rate ≤ 1000, 6)] <|
    .ok [] { eachTab (refillLearn s) s with age := { sweepPeriod := per, ageLimit := lim, learnRate := rate } }
  else if op = 1 then
    let pt := byteAt b 1
    let lim := le b 4 4
    let off := le b 8 2
    checked [(portExists s pt, 1), (byteAt b 2 < 4, 2), (lim ≤ 262144, 4), (off ≤ 4095, 8)] <|
    .ok [] (modPort pt (fun x => { x with learn := { learn := bit (byteAt b 2) 0, flushDown := bit (byteAt b 2) 1, limit := lim,
                                                     fidOffset := off } }) (touchPort pt true s))
  else .badParam 0

def execAgeingSet (p : Packet) (s : State) : Host.Outcome State Fault Refusal := serveCmd specAgeingSet bodyAgeingSet p s

def specShadowSet : CmdSpec := { opcode := 0x0506, priv := 1, mask := 0x7, lenOk := len 16 }
/-- R213: a new pass starts at unit 0; the furrows run 4 us apart. -/
def bodyShadowSet (p : Packet) (s : State) : CmdResult :=
  let b := p.params
  let m := byteAt b 8
  checked [(le b 0 8 % 64 == 0, 0), (m < 3, 8), (reservedAt b 9 7, 9)] <|
  if m != 0 && !s.pcie.up then .conflict
  else .ok [] { s with shadow := { s.shadow with base := le b 0 8, mode := m, suspended := false, unitA := 0, unitB := 0,
                                                 nextA := s.clk.edges + 10000, nextB := s.clk.edges + 15000 } }

def execShadowSet (p : Packet) (s : State) : Host.Outcome State Fault Refusal := serveCmd specShadowSet bodyShadowSet p s

def specShadowStatus : CmdSpec := { opcode := 0x0507, priv := 0, mask := 0xF, lenOk := len 0 }
/-- R214. -/
def bodyShadowStatus (_ : Packet) (s : State) : CmdResult :=
  let c := fun (x : FurrowSt) k => toLE 4 (tget 0 x.tab.ctr k)
  .ok (toLE 1 s.shadow.mode ++ toLE 1 (b2n s.shadow.suspended) ++ zeros 2 ++ toLE 4 s.shadow.passes ++
    c s.fa 14 ++ c s.fb 14 ++ c s.fa 15 ++ c s.fb 15 ++ toLE 4 s.shadow.lastUnit ++ zeros 4) s

def execShadowStatus (p : Packet) (s : State) : Host.Outcome State Fault Refusal := serveCmd specShadowStatus bodyShadowStatus p s

def specMgroupSet : CmdSpec := { opcode := 0x0508, priv := 1, mask := 0x7, lenOk := lenForms 2 [(0, len 16), (1, len 16), (2, len 16)], upsetAct := some tabUpset }
/-- R215: staged; the reply is TE and the new mask. -/
def bodyMgroupSet (p : Packet) (s0 : State) : CmdResult :=
  let b := p.params
  let g := le b 0 2
  let op := byteAt b 2
  let m := le b 8 8
  checked [(op < 3, 2), (reservedAt b 3 5, 3), (maskOk s0 m, 8)] <|
  let s := stageWait 130 [.mgroup g 0] (purgeStaging s0)
  let te := stageTe s
  let new := fun old => if op = 0 then m else if op = 1 then old ||| m else andNot old m
  let cur := tget 0 (fur s s.hl.lead).tab.mgroup g
  .ok (toLE 8 (t64OfNs te) ++ toLE 8 (new cur))
    (touchPorts ((List.range 64).filter (bit m)) (stageAll (fun t => [.mgroup g (tget 0 t.mgroup g)]) te (fun t => { t with mgroup := tset 0 t.mgroup g (new (tget 0 t.mgroup g)) }) s))

def execMgroupSet (p : Packet) (s : State) : Host.Outcome State Fault Refusal := serveCmd specMgroupSet bodyMgroupSet p s

/-- The place a stream key takes (R188): a way of its set, a free overflow index above 1,023, or that of a learned entry. -/
def streamPlace (s : State) (t : Tables) (key : Nat) : Option Nat :=
  let b := 4 * setOf s key
  match (List.range 4).find? (fun w => !tmem t.strm (b + w)) with
  | some w => some (b + w)
  | none =>
    match (List.range 1024).find? (fun i => !tmem t.ovf (1024 + i)) with
    | some i => some (ovfBase + 1024 + i)
    | none =>
      ((List.range 1024).find? (fun i => match tget? t.ovf (1024 + i) with | some e => e.kind == 1 && !e.static | none => false)).map
        (fun i => ovfBase + 1024 + i)

def insertStream (s : State) (key handle : Nat) (t : Tables) : Tables :=
  match streamPlace s t key with
  | none => t
  | some pl =>
    let e : TabEntry := { kind := 2, key := key, handle := handle }
    if pl < ovfBase then { t with strm := tput t.strm pl e }
    else tctr 13 (b2n (tmem t.ovf (pl - ovfBase))) { t with ovf := tput t.ovf (pl - ovfBase) e }

def removeStream (s : State) (key : Nat) (t : Tables) : Tables :=
  match findStream s t key with
  | none => t
  | some (pl, _) => if pl < ovfBase then { t with strm := tdel t.strm pl } else { t with ovf := tdel t.ovf (pl - ovfBase) }

/-- The 60-bit key of a binding (R184). -/
def bindingKey (x : Binding) : Nat := if x.keyKind = 1 then appKey x.domain x.ident else daKey x.ident x.da

/-- A key enters or leaves the tables: the DIRECT flag of a WIDE APP key, else a hashed entry. -/
def setKey (s : State) (x : Binding) (h : Nat) (on : Bool) (t : Tables) : Tables :=
  if x.keyKind = 0 then t
  else if wide s && x.keyKind = 1 then { t with direct := tset false t.direct h on }
  else if on then insertStream s (bindingKey x) h t else removeStream s (bindingKey x) t

def specStreamBind : CmdSpec := { opcode := 0x0601, priv := 1, mask := 0x7, lenOk := len 24, upsetAct := some tabUpset }

def keyObject (x : Binding) (old : Option Nat) : List Staged := if x.keyKind = 0 then [] else [.key x.keyKind (bindingKey x) old]

/-- R216. -/
def bodyStreamBind (p : Packet) (s0 : State) : CmdResult :=
  let b := p.params
  let h := le b 0 4
  let kk := byteAt b 4
  let dom := byteAt b 5
  let id := le b 6 2
  let ek := byteAt b 16
  let md := bit (byteAt b 17) 0
  let eg := le b 18 2
  checked [(1 ≤ h && h < 2 ^ 20, 0), (kk < 3, 4), (kk != 1 || dom < 16, 5), (kk != 2 || id < 0xFFF, 6), (reservedAt b 14 2, 14),
    (ek < 3, 16), (byteAt b 17 < 2, 17), (ek != 1 || (eg < 64 && portExists s0 eg), 18), (reservedAt b 20 4, 20),
    (!(wide s0 && kk == 1) || h == id * 16 + dom, 0)] <|
  let x : Binding := { bound := true, egressKind := ek, keyKind := kk, egress := eg, domain := if kk = 1 then dom else 0,
                       ident := if kk = 0 then 0 else id, da := if kk = 2 then cmdMac b 8 else 0 }
  let t0 := (fur s0 s0.hl.lead).tab
  let old := tget {} t0.bind h
  let sameKey := old.keyKind == x.keyKind && old.domain == x.domain && old.ident == x.ident && old.da == x.da
  if md && !(old.bound && sameKey) then .refuse stNotFound 0
  else if !md && (old.bound || (kk != 0 && (keyNow s0 t0 kk (bindingKey x)).isSome) ||
      (wide s0 && kk == 2 && tget false t0.direct h)) then .refuse stExists 0
  else if !md && kk != 0 && !(wide s0 && kk == 1) && (streamPlace s0 t0 (bindingKey x)).isNone then .refuse stExhausted 0
  else
    let objs := .bind h {} :: (if md then [] else keyObject x none)
    let s := stageWait 130 objs (purgeStaging s0)
    let te := stageTe s
    .ok (toLE 8 (t64OfNs te)) (touchPorts (if ek = 1 then [eg] else []) <| ovfWatchBoth
      (stageAll (fun t => .bind h (tget {} t.bind h) :: (if md then [] else keyObject x none)) te
        (fun t => { (if md then t else setKey s x h true t) with bind := tset {} t.bind h { x with te := te } }) s))

def execStreamBind (p : Packet) (s : State) : Host.Outcome State Fault Refusal := serveCmd specStreamBind bodyStreamBind p s

def specStreamUnbind : CmdSpec := { opcode := 0x0602, priv := 1, mask := 0x7, lenOk := len 4, upsetAct := some tabUpset }
/-- R217. -/
def bodyStreamUnbind (p : Packet) (s0 : State) : CmdResult :=
  let h := le p.params 0 4
  checked [(1 ≤ h && h < 2 ^ 20, 0)] <|
  let old := tget {} (fur s0 s0.hl.lead).tab.bind h
  if !old.bound then .refuse stNotFound 0
  else
    let s := stageWait 130 (.bind h {} :: keyObject old none) (purgeStaging s0)
    let te := stageTe s
    .ok (toLE 8 (t64OfNs te)) (ovfWatchBoth
      (stageAll (fun t => .bind h (tget {} t.bind h) :: keyObject old (some h)) te
        (fun t => { setKey s old h false t with bind := tset {} t.bind h { te := te } }) s))

def execStreamUnbind (p : Packet) (s : State) : Host.Outcome State Fault Refusal := serveCmd specStreamUnbind bodyStreamUnbind p s

/-- The binding word of a handle (R189). -/
def bindingWord (x : Binding) : Nat := b2n x.bound * 2 ^ 31 + x.egressKind * 2 ^ 29 + x.keyKind * 2 ^ 27 + x.egress

def specStreamRead : CmdSpec := { opcode := 0x0603, priv := 0, mask := 0xF, lenOk := len 8 }
/-- R217: 32 bytes. A key whose entry reads uncorrectable is not found (R45). -/
def bodyStreamRead (p : Packet) (s : State) : CmdResult :=
  let b := p.params
  let h := le b 0 4
  let f := byteAt b 4
  checked [(1 ≤ h && h < 2 ^ 20, 0), (f < 2, 4), (reservedAt b 5 3, 5)] <| onFurrow s f <|
  let t := (fur s f).tab
  let x := tget {} t.bind h
  let pl := if x.keyKind = 0 || (wide s && x.keyKind == 1) || p.upset then none else (findStream s t (bindingKey x)).map (·.1)
  let way := match pl with | none => 0xFF | some q => if q < ovfBase then q % 4 else 0x80
  let set := match pl with | none => 0 | some q => if q < ovfBase then q / 4 else q - ovfBase
  .ok (toLE 4 (bindingWord x) ++ toLE 1 x.keyKind ++ toLE 1 x.domain ++ toLE 2 x.ident ++ toBE 6 x.da ++ toLE 1 way ++ zeros 1 ++
    toLE 4 set ++ toLE 8 (if x.te = 0 then 0 else t64OfNs x.te) ++ zeros 4) (if p.upset then tabUpsetIn f s else s)

def execStreamRead (p : Packet) (s : State) : Host.Outcome State Fault Refusal := serveCmd specStreamRead bodyStreamRead p s

end Sys2Proof.Machine
end

