-- ==== Sys2Proof/Machine/Harrow.lean ====
section
/-! DEFINITION. Harrow's stages, resolve, fragments, banks and their commands (spec/05 R144-R147, R157-R182). -/

namespace Sys2Proof.Machine

/-! ## Frames -/

def frame (s : State) (u : Nat) : Frame := tget {} s.frames u
def modFrame (u : Nat) (g : Frame → Frame) (s : State) : State :=
  match tget? s.frames u with
  | none => s
  | some x => { s with frames := tput s.frames u (g x) }

/-- The frame bytes that the device received, or will receive if nothing cuts the reception. -/
def effBytes (x : Frame) : List Byte :=
  match x.rxCut with
  | some (n, _) => x.bytes.take n
  | none => x.bytes

/-- The edge by which n frame bytes have arrived: 8 bytes of preamble go first. -/
def byteEdge (x : Frame) (n : Nat) : Nat := x.start + ceilDiv ((8 + n) * x.tick) 10

/-- Frame bytes received up to an edge; none comes while its sender has preempted it (R346). -/
def rxBytes (x : Frame) (e : Nat) : Nat := min (effBytes x).length (if x.rxFrozen then x.rxFloor else max x.rxFloor ((e - x.start) * 10 / x.tick - 8))

def bankOf (s : State) (f b : Nat) : Bank := tget {} (fur s f).banks b
/-- The frame as a furrow's parser reads it. The parser keeps to its window; the last bytes are there for the PRP trailer (R148, R149). -/
def pframe (s : State) (f : Nat) (x : Frame) : PFrame :=
  { bytes := effBytes x, len := (effBytes x).length, pol := (bankOf s f x.bank).policy }

/-- The decision of a furrow for a frame. -/
def decOf (x : Frame) (f : Nat) : Option Decision := if f = 0 then x.decA else x.decB
def setDec (f : Nat) (d : Decision) (x : Frame) : Frame := if f = 0 then { x with decA := some d } else { x with decB := some d }

/-! ## Fields and keys (R156, R157) -/

/-- Widths of the fields 0x01 to 0x31 in bits (R156). -/
def fieldBits : List Nat :=
  [0, 6, 3, 48, 48, 16, 16, 16, 16, 3, 16, 32, 32, 128, 128, 8, 8, 8, 16, 16, 8, 16, 16, 32, 32] ++
  [32, 32, 32, 32, 32, 32, 8, 32, 64, 8, 16, 8, 16, 32, 32, 32, 16, 4, 4, 64, 64, 64, 64, 9, 32]

/-- What the keys of a frame read beside the parsed fields. -/
structure KeyCtx where
  f : PFrame
  p : Parsed
  port : Nat
  early : Nat
  flags : Nat
  hits : Nat
  scratch : Nat

/-- The value of a named field (R156). -/
def fieldOf (c : KeyCtx) (id : Nat) : Nat :=
  match id with
  | 0x01 => c.port
  | 0x02 => c.early
  | 0x09 => c.p.tags
  | 0x29 => c.flags
  | 0x2A => c.p.app
  | 0x2B => c.p.l3
  | 0x2C => c.hits % 2 ^ 64
  | 0x2D => bits c.hits 127 64
  | 0x2E => bits c.hits 191 128
  | 0x2F => bits c.hits 255 192
  | 0x30 => patFirst c.hits
  | 0x31 => c.scratch
  | _ => fieldVal c.p id

/-- The value of a segment (R157). RAW takes bits from a byte onward in frame order; a byte beyond the frame reads 0. -/
def segVal (c : KeyCtx) (g : Segment) : Nat :=
  if g.field = 0x3F then
    let n := (g.width + 7) / 8
    bn g.offset n >>> (8 * n - g.width)
  else (fieldOf c g.field >>> g.offset) % 2 ^ g.width
where
  bn (o n : Nat) : Nat := be (slice c.f.bytes 0 512) o n

/-- The value of all segments together, and their width. -/
def keyRaw (c : KeyCtx) (l : List Segment) : Nat × Nat :=
  l.foldl (fun (a : Nat × Nat) g => (a.1 * 2 ^ g.width + segVal c g, a.2 + g.width)) (0, 0)

/-- The key of a stage: packed from bit 255 down for exact hash and ternary, right-aligned for range and direct. -/
def stageKey (c : KeyCtx) (st : Stage) : Nat :=
  let (v, w) := keyRaw c st.segments
  if st.kind = 1 || st.kind = 2 then v * 2 ^ (256 - w) else v

/-- Where the bytes of a field end that places the decision point (R146, R149, R155); 0 for one that places none. -/
def fieldPoint (f : PFrame) (p : Parsed) (pats : Table Pattern) (g : Segment) : Nat :=
  let after := fun id => match tget? p.pos id with | some (o, l) => o + l | none => 0
  match g.field with
  | 0x01 | 0x02 | 0x29 | 0x31 | 0x00 => 0
  | 0x09 => 14 + 4 * p.tags
  | 0x0C => f.len
  | 0x2A => if p.app = 3 || p.app = 4 || p.app = 8 then p.spdu.1 + 3 else if p.app = 6 || p.app = 7 then after 0x13 else after 0x0A
  | 0x2B => after 0x0A
  | 0x2C | 0x2D | 0x2E | 0x2F | 0x30 => patPoint pats
  | 0x3F => min 512 (g.offset + (g.width + 7) / 8)
  | id => after id

/-- The decision point in frame bytes (R146). -/
def decisionPoint (f : PFrame) (p : Parsed) (b : Bank) : Nat :=
  let segs := b.stages.foldl (fun l x => if x.2.kind = 0 then l else l ++ x.2.segments) []
  min f.len (segs.foldl (fun m g => max m (fieldPoint f p b.patterns g)) 64)

/-! ## Stage lookup (R158, R159) -/

def keyLE (k : Nat) : List Byte := toLE 32 k
def bucket1 (st : Stage) (k : Nat) : Nat := crc32c (keyLE k) % max 1 (st.size / 4)
def bucket2 (st : Stage) (k : Nat) : Nat := crc32 (keyLE k) % max 1 (st.size / 4)

/-- The place of a key in an exact-hash stage. -/
def findHash (st : Stage) (k : Nat) : Option Nat :=
  ([bucket1 st k, bucket2 st k].flatMap (fun b => (List.range 4).map (fun w => 4 * b + w))).find?
    (fun i => match tget? st.entries i with | some e => e.key == k | none => false)

/-- The place of the entry that a key hits. -/
def stagePlace (st : Stage) (k : Nat) : Option Nat :=
  match st.kind with
  | 1 => findHash st k
  | 2 => (st.entries.find? (fun e => (k &&& e.2.mask) == (e.2.key &&& e.2.mask))).map (·.1)
  | 3 => (st.entries.find? (fun e => e.2.key ≤ k && k ≤ e.2.mask)).map (·.1)
  | 4 => if k < st.size && tmem st.entries k then some k else none
  | _ => none

/-- The result of the entry that a key hits. -/
def stageHit (st : Stage) (k : Nat) : Option Nat := (stagePlace st k).bind (fun i => (tget? st.entries i).map (·.result))

/-- An entry reads as a miss from now on: an uncorrectable word (R45). -/
def loseEntry (i : Nat) (st : Stage) : Stage := { st with entries := tdel st.entries i }

/-! ## The metadata word (R160-R162) -/

/-- The writable fields of the metadata word, the stop of a result, and the counters to raise. -/
structure HMeta where
  cls : Nat
  disp : Nat := 0
  handle : Nat := 0
  mirror : Nat := 0
  egValid : Bool := false
  egress : Nat := 0
  program : Nat := 0
  tine : Nat := 0
  meter : Nat := 0
  scratch : Nat := 0
  stopped : Bool := false
  counts : List Nat := []
  /-- The stage and place of an entry found uncorrectable. -/
  lost : Option (Nat × Nat) := none

/-- A CLASS write of value c (R162). -/
def writeClass (early c : Nat) (m : HMeta) : HMeta :=
  if early = 7 && m.cls = 7 then { m with cls := c, counts := if c < 7 then 12 :: m.counts else m.counts }
  else { m with cls := min c 6, counts := if c = 7 then 13 :: m.counts else m.counts }

/-- One result applied (R162). -/
def applyResult (early r : Nat) (m : HMeta) : HMeta :=
  let m1 := if bit r 127 then writeClass early (bits r 119 117) m else m
  let m2 := if bit r 126 then { m1 with disp := bits r 116 115 } else m1
  let m3 := if bit r 125 then { m2 with handle := bits r 114 95 } else m2
  let m4 := if bit r 124 then { m3 with egValid := true, egress := bits r 94 89 } else m3
  let m5 := if bit r 123 then { m4 with program := bits r 88 82, tine := bits r 81 80 } else m4
  let m6 := if bit r 122 then { m5 with meter := bits r 79 64 } else m5
  let m7 := if bit r 121 then { m6 with mirror := m6.mirror ||| bits r 63 60 } else m6
  let m8 := if bit r 120 then { m7 with scratch := bits r 31 0 } else m7
  if bit r 59 then { m8 with stopped := true } else m8

/-- One stage: its hit or miss result; a faulty entry, that which the key hits, reads as a miss (R45). -/
def runStage (c : KeyCtx) (n : Nat) (st : Stage) (faulty : Bool) (m0 : HMeta) : HMeta :=
  if st.kind = 0 || m0.stopped then m0
  else
    let k := stageKey { c with scratch := m0.scratch } st
    let gone := if faulty then stagePlace st k else none
    let m := { m0 with lost := match gone with | some i => some (n, i) | none => m0.lost }
    match stageHit (match gone with | some i => loseEntry i st | none => st) k with
    | some r => applyResult c.early r { m with counts := (16 + 2 * n) :: m.counts }
    | none => applyResult c.early st.miss { m with counts := (17 + 2 * n) :: m.counts }

/-- Stages 0 to 7; bad is the stage whose entry is uncorrectable, 8 for none. -/
def runStages (c : KeyCtx) (b : Bank) (bad : Nat) (m : HMeta) : HMeta :=
  (List.range 8).foldl (fun m n => runStage c n (tget {} b.stages n) (n == bad) m) m

/-! ## Exceptions (R165, R166) -/

/-- 0 MALFORMED, 1 UNDECODED, 2 FRAG_MISS, 3 PARSE_DEPTH. -/
def caseKind (c : Nat) : Nat :=
  if c = 0x02 || c = 0x06 || c = 0x0F then 1 else if c = 0x10 then 2 else if c = 0x0E then 3 else 0

def caseAction (pol : Policy) (c cls : Nat) : Nat :=
  (match caseKind c with
    | 0 => pol.malformed
    | 1 => pol.undecoded
    | 2 => pol.fragMiss
    | _ => pol.parseDepth).getD cls 0

/-- The first case found among those a test admits; a case of the decision point is found there. -/
def firstCase (dp : Nat) (ok : Nat → Bool) (l : List (Nat × Nat)) : Option Nat :=
  let at_ := fun (x : Nat × Nat) => if x.2 = 0 then dp else x.2
  (l.foldl (fun (best : Option (Nat × Nat)) x =>
    if !ok (at_ x) then best
    else match best with
      | none => some (at_ x, x.1)
      | some (q, c) => if at_ x < q || (at_ x == q && x.1 < c) then some (at_ x, x.1) else best) none).map (·.2)

/-- PARSE_FLAGS known by a byte count (R161). -/
def parseFlags (p : Parsed) (case_ : Option Nat) (miss : Bool) (hits n : Nat) : Nat :=
  let base := maskOf ((p.flags.filter (fun x => x.2 ≤ n)).map (·.1))
  let v := if 14 + 4 * p.tags ≤ n then base + p.tags * 32 else base
  let v1 := if hits != 0 then setBit v 2 true else v
  let v2 := if miss then setBit v1 10 true else v1
  match case_ with
  | some c => if caseKind c = 0 then setBit v2 15 true else v2
  | none => v2

/-! ## Resolve (R163) -/

def hctr (k : Nat) (f : Nat) (s : State) : State := modFur f (fun x => { x with harrowCtr := cinc x.harrowCtr k 1 }) s
def hctrs (l : List Nat) (f : Nat) (s : State) : State := l.foldl (fun s k => hctr k f s) s
def hBase (f : Nat) : Nat := 0x280 + 8 * f
def hostBit : Nat := 2 ^ 64

/-- The stream's egress set without the ingress port (R163, R189). -/
def streamEgress (s : State) (f : Nat) (x : Frame) (b : Binding) (fid : Nat) : Nat × Nat × State :=
  let t := (fur s f).tab
  if b.egressKind = 1 then (andNot (2 ^ (b.egress % 64)) (2 ^ x.port), 0, s)
  else if b.egressKind = 2 then (andNot (mgroupAt t b.egress x.ns) (2 ^ x.port), 0, s)
  else addressLookup s f fid (be x.bytes 0 6) x.port x.ns

def outerVid (p : Parsed) : Nat := if p.tags = 0 then 0 else fieldVal p 5 % 4096
def frameFid (x : Frame) (p : Parsed) : Nat := (outerVid p + x.fidOff) % 4096

/-- The metadata word after resolve (R160): what the stages wrote, class and handle as resolve left them, and the parser's fields. -/
def mdWord (x : Frame) (p : Parsed) (m : HMeta) (cls handle flags : Nat) : Nat :=
  let hits := maskOf ((m.counts.filter (fun k => 16 ≤ k && k % 2 == 0)).map (fun k => (k - 16) / 2))
  cls * 2 ^ 125 + x.early * 2 ^ 122 + m.disp * 2 ^ 120 + handle * 2 ^ 100 + m.mirror * 2 ^ 96 + b2n m.egValid * 2 ^ 95 + m.egress * 2 ^ 89 +
  m.program * 2 ^ 82 + m.tine * 2 ^ 80 + m.meter * 2 ^ 64 + flags * 2 ^ 48 + p.l3 * 2 ^ 44 + p.app * 2 ^ 40 + hits * 2 ^ 32 + m.scratch

/-- The metadata word of a later fragment: what its entry holds of the first one's, and its own early class and parser fields (R160, R169). -/
def fragWord (x : Frame) (p : Parsed) (d : Decision) (flags : Nat) : Nat :=
  mdWord x p { cls := d.class_, disp := d.disposition, mirror := d.mirror, program := d.program, tine := d.tineMode, meter := d.meter } d.class_ d.handle flags

/-- The table entry that a frame's lookup reads is uncorrectable, and reads as a miss from now on (R45): k 3 its stream entry, 4 its address entry. -/
def loseRead (f k : Nat) (x : Frame) (p : Parsed) (s : State) : State :=
  if k = 3 then
    let app := p.app
    ovfWatch f (if 1 ≤ app && app ≤ 4 then
      modTab f (fun t => if wide s then { t with direct := tset false t.direct (fieldVal p 0x15 * 16 + x.domain % 16) false }
        else removeStream s (appKey x.domain (fieldVal p 0x15)) t) s
    else modTab f (removeStream s (daKey (outerVid p) (be x.bytes 0 6))) s)
  else if k = 4 then
    match findAddr s (fur s f).tab (addrKey (frameFid x p) (be x.bytes 0 6)) with
    | some (pl, _) => ovfWatch f (modTab f (delEntry pl) s)
    | none => s
  else s

/-- Resolve after stage 7: the decision, and the counters and events it raises. An exception's drop or trap, and a rule's drop, end it before the
mirror mask of the metadata is taken. The APP domain is that of the frame's start (R122). -/
def resolve (s0 : State) (f : Nat) (x : Frame) (p : Parsed) (pol : Policy) (m0 : HMeta) (case_ : Option Nat) (flags : Nat)
    (host0 : Bool) : Decision × State :=
  let d0 : Decision :=
    { class_ := m0.cls, stageClass := m0.cls, handle := m0.handle, disposition := m0.disp, program := m0.program, tineMode := m0.tine,
      meter := m0.meter, parseFlags := flags, appKind := p.app, bank := x.bank, caseCode := case_.getD 0 }
  let act := match case_ with | some c => caseAction pol c m0.cls | none => 0
  let s1 := match case_ with
    | some c =>
      let s := match caseKind c with | 0 => hctr 3 f s0 | 1 => hctr 4 f s0 | 2 => s0 | _ => hctr 5 f s0
      if act = 0 then s else fireFurMs f (hBase f) 0 (toLE 1 c ++ toLE 1 x.port) s
    | none => s0
  let d0 := { d0 with action := act }
  if act = 1 then ({ d0 with dropped := 2 }, s1)
  else if act = 2 then ({ d0 with egress := hostBit, host := true, hostReason := 2 }, hctr 2 f s1)
  else
    let hostCopy := host0 || act == 3
    let reason := if act = 3 then 3 else 1
    if m0.disp = 1 then
      let s2 := hctr 1 f s1
      if hostCopy then ({ d0 with egress := hostBit, host := true, hostReason := reason }, s2) else ({ d0 with dropped := 1 }, s2)
    else
      let (h0, s2) :=
        if m0.handle != 0 then (m0.handle, s1)
        else streamLookup s1 f p.app (fieldVal p 0x15) x.domain (outerVid p) (be x.bytes 0 6) x.ns
      let b := bindAt (fur s2 f).tab h0 x.ns
      let h := if b.bound then h0 else 0
      let demote := m0.cls == 7 && (h == 0 || !staticEgress b)
      let cls := if demote then 5 else m0.cls
      let s3 := if demote then fireFurMs f (hBase f + 1) 0 (toLE 1 x.port ++ toLE 2 (fieldVal p 0x15)) (hctr 11 f s2) else s2
      let (eg, why, s4) :=
        if cls = 7 then streamEgress s3 f x b (frameFid x p)
        else if m0.egValid then (2 ^ m0.egress, 0, s3)
        else if h != 0 then streamEgress s3 f x b (frameFid x p)
        else addressLookup s3 f (frameFid x p) (be x.bytes 0 6) x.port x.ns
      let d := { d0 with class_ := cls, handle := h, mirror := m0.mirror, md := mdWord x p m0 cls h flags, digestEgress := if cls = 7 && m0.disp != 2 then eg else 0 }
      if m0.disp = 2 then ({ d with egress := hostBit, host := true, hostReason := 0 }, hctr 2 f s4)
      else if m0.disp = 3 || hostCopy then
        ({ d with egress := eg + hostBit, host := true, hostReason := if m0.disp = 3 then 1 else reason }, s4)
      else ({ d with egress := eg, dropped := if eg = 0 then (if why = 0 then 4 else why) else 0 }, s4)

/-! ## Fragments (R168-R170) -/

/-- The key of a fragment, as numbers (R168). -/
def fragIs (x : Frame) (p : Parsed) (g : Frag) : Bool :=
  g.port == x.port && g.src == fieldVal p 0x0D && g.dst == fieldVal p 0x0E && g.v6 == (p.l3 == 2) && g.ident == p.ident &&
  (p.l3 == 2 || g.proto == fieldVal p 0x0F)

/-- CRC-32C of the key; the order of its bytes is left open (log 16). -/
def fragCrc (port src dst proto ident : Nat) (v6 : Bool) : Nat :=
  crc32c (Config.bankOrder [port, src, dst, if v6 then 0 else proto, ident, b2n v6])

def fragSet (x : Frame) (p : Parsed) : Nat :=
  fragCrc x.port (fieldVal p 0x0D) (fieldVal p 0x0E) (fieldVal p 0x0F) p.ident (p.l3 == 2) % 1024

def fragLive (ns : Nat) (g : Frag) : Bool := decide (ns ≤ g.first + g.timeout * 1000000)

/-- The place of the live entry that a fragment hits. A TC7 fragment looks in the TC7 ways only, which both furrows hold alike; any other looks in the
ways of its own class first (log 59). -/
def fragFind (s : State) (f : Nat) (x : Frame) (p : Parsed) : Option (Nat × Frag) :=
  let b := 4 * fragSet x p
  (if x.early = 7 then [0, 1] else [2, 3, 0, 1]).findSome? (fun w =>
    match tget? (fur s f).frags (b + w) with
    | some g => if fragIs x p g && fragLive x.ns g then some (b + w, g) else none
    | none => none)

/-- A first fragment's entry (R169): over a live entry of its key, else in the lowest free or non-live way of its class. A TC7 one also removes a live
entry of its key from the other ways; a first fragment of lower class leaves a TC7 way as it is, which both furrows hold alike (log 59). -/
def fragInsert (f : Nat) (x : Frame) (p : Parsed) (d : Decision) (timeout : Nat) (s00 : State) : State :=
  let lo := if x.early = 7 then 0 else 2
  let base := 4 * fragSet x p
  let b := base + lo
  let s := if x.early = 7 then
      modFur f (fun y => { y with frags := y.frags.filter (fun e => !((e.1 == base + 2 || e.1 == base + 3) && fragIs x p e.2 && fragLive x.ns e.2)) }) s00
    else s00
  let t := (fur s f).frags
  let own := (List.range 2).find? (fun w => match tget? t (b + w) with | some g => fragIs x p g && fragLive x.ns g | none => false)
  let free := (List.range 2).find? (fun w => match tget? t (b + w) with | some g => !fragLive x.ns g | none => true)
  match (match own with | some w => some w | none => free) with
  | none => fireFurMs f (hBase f + 2) 0 [] (hctr 9 f s)
  | some w =>
    let s1 := if own.isNone && tmem t (b + w) then hctr 10 f s else s
    let g : Frag := { port := x.port, src := fieldVal p 0x0D, dst := fieldVal p 0x0E, proto := fieldVal p 0x0F, ident := p.ident,
                      v6 := p.l3 == 2, dec := d, first := x.ns, timeout := timeout, seen := p.ipLen, frags := 1 }
    modFur f (fun y => { y with frags := tput y.frags (b + w) g }) s1

/-- A later fragment counted into its entry; the entry is freed once the datagram is whole. -/
def fragTake (f k : Nat) (g : Frag) (p : Parsed) (s : State) : State :=
  let g1 := { g with seen := g.seen + p.ipLen, frags := g.frags + 1,
                     total := if p.fragMore then g.total else some (p.fragOff + p.ipLen) }
  let whole := match g1.total with | some t => decide (t ≤ g1.seen) | none => false
  modFur f (fun y => { y with frags := if whole then tdel y.frags k else tput y.frags k g1 }) s

/-- The cases of R165 that a later fragment with a live entry meets (R169). -/
def fragCase (y : Nat × Nat) : Bool := y.1 == 0x01 || y.1 == 0x04 || y.1 == 0x05 || y.1 == 0x11

/-- A stored TRAP or DROP taken by a later fragment is counted as resolve counts it (R163, R167). -/
def storedCount (d : Decision) : Option Nat :=
  if d.action = 2 || (d.action != 1 && d.disposition = 2) then some 2
  else if d.action != 1 && d.disposition = 1 then some 1 else none

/-- The stored decision applied to a later fragment, under the cases of R165 that still apply (R169). Its metadata word carries its own early class
and parser fields. -/
def fragDecide (s : State) (f : Nat) (x : Frame) (p : Parsed) (pol : Policy) (g : Frag) (case_ : Option Nat) (flags : Nat) : Decision × State :=
  let cap := fun c => if x.early = 7 then c else min c 6
  let cls := cap g.dec.class_
  let d0 := { g.dec with class_ := cls, stageClass := cap g.dec.stageClass, parseFlags := flags, appKind := p.app, caseCode := case_.getD 0, action := 0,
                         digestEgress := if cls = 7 then g.dec.digestEgress else 0 }
  let d := { d0 with md := fragWord x p d0 flags }
  let stored := fun (s : State) => match storedCount g.dec with | some k => hctr k f s | none => s
  match case_ with
  | none => (d, stored s)
  | some c =>
    let act := caseAction pol c d.stageClass
    let d := { d with action := act }
    let s1 := hctr 3 f s
    let s2 := if act = 0 then s1 else fireFurMs f (hBase f) 0 (toLE 1 c ++ toLE 1 x.port) s1
    if act = 1 then ({ d with dropped := 2, egress := 0, host := false, digestEgress := 0 }, s2)
    else if act = 2 then ({ d with dropped := 0, egress := hostBit, host := true, hostReason := 2, digestEgress := 0 }, hctr 2 f s2)
    else if act = 3 then
      ({ d with dropped := 0, host := true, hostReason := 3, egress := if d.dropped != 0 then hostBit else if d.host then d.egress else d.egress + hostBit }, stored s2)
    else (d, stored s2)

/-! ## The decision of a furrow (R144-R147) -/

/-- Event, alarm and count of an uncorrectable word that a decision reads (R45, R182, R206). k: 0 none, 1 header path, 2 fragment entry, 3 stream
entry, 4 address entry, 8 + n the entry that the key of stage n hits, 64 + i pattern i. -/
def harrowUpset (f k : Nat) (s : State) : State :=
  if k = 2 then raiseAlarm f 0 (fireFur f (hBase f + 5) 0 [] (memUnc (28 + f) s))
  else if k = 3 || k = 4 then raiseAlarm f 0 (fireFur f (tabBase f + 7) 0 [] (memUnc (6 + f) s))
  else if 8 ≤ k then raiseAlarm f 0 (fireFur f (hBase f + 5) 0 [] (memUnc (6 + f) s))
  else s

/-- The entry of a fragment's key that reads uncorrectable is freed (R45). -/
def loseFrag (f : Nat) (x : Frame) (p : Parsed) (s : State) : State :=
  match fragFind s f x p with
  | some (pl, _) => modFur f (fun y => { y with frags := tdel y.frags pl }) s
  | none => s

/-- A pattern that reads uncorrectable matches nothing from now on. -/
def losePattern (f b i : Nat) (s : State) : State :=
  modFur f (fun y => { y with banks := tmod {} y.banks b (fun k => { k with patterns := tdel k.patterns i }) }) s

/-- What an entry of rule memory that reads uncorrectable leaves: it reads as a miss from now on. -/
def loseRule (f b n i : Nat) (s : State) : State :=
  modFur f (fun y => { y with banks := tmod {} y.banks b (fun k => { k with stages := tmod {} k.stages n (loseEntry i) }) }) s

/-- The decision of furrow f for a frame, with every effect on the furrow's Harrow and tables. upset: as for harrowUpset, and 16 + m (m below 37) a
corrected word of memory m. -/
def harrowDecide (f : Nat) (x : Frame) (upset : Nat) (s00 : State) : Option Decision × State :=
  let (k, s0) := if 64 ≤ upset then (upset, s00) else readWord upset s00
  let s1 := harrowUpset f k (hctr 0 f (if x.early = 7 then perfF f 0x101 1 s0 else s0))
  if k = 1 then
    let s2 := hctr 15 f s1
    (some { class_ := x.early, dropped := 5, bank := x.bank }, if x.early = 7 then raiseAlarm f 0 s2 else s2)
  else
    let pf := pframe s1 f x
    if pf.len < 64 then (some { class_ := x.early, dropped := 6, bank := x.bank }, s1)
    else
      let s := if 64 ≤ k then losePattern f x.bank (k - 64) s1 else s1
      let b := bankOf s f x.bank
      let p0 := parse pf
      let dp := decisionPoint pf p0 b
      let hits := patHits { pf with len := dp } b.patterns
      let later := p0.frag && p0.fragOff != 0
      let s := loseRead f k x p0 (if k = 2 then loseFrag f x p0 s else s)
      let hit := if later then fragFind s f x p0 else none
      let miss := later && hit.isNone
      let p := if miss then addCase 0x10 0 p0 else p0
      let early := fun q => decide (q ≤ dp)
      match hit with
      | some (pl, g) =>
        let c := firstCase dp early (p.cases.filter fragCase)
        let (d, s2) := fragDecide (hctr 7 f s) f x p b.policy g c (parseFlags p c false hits dp)
        (some d, if x.early = 7 || pl % 4 ≥ 2 then fragTake f pl g p s2 else s2)
      | none =>
        let c := firstCase dp early p.cases
        let fl := parseFlags p c miss hits dp
        let kc : KeyCtx := { f := pf, p := p, port := x.port, early := x.early, flags := fl, hits := hits, scratch := 0 }
        let m := runStages kc b (if 8 ≤ k && k < 16 then k - 8 else 8) { cls := x.early }
        let s2 := match m.lost with | some (n, i) => loseRule f x.bank n i s | none => s
        let (d, s3) := resolve (hctrs m.counts f (if miss then hctr 8 f s2 else s2)) f x p b.policy m c fl false
        let s4 := if p.frag && p.fragOff == 0 && p.fragMore then fragInsert f x p d b.policy.fragTimeout (hctr 6 f s3) else s3
        (some d, s4)

/-- The edge at which Harrow delivers a frame's decision: 256 ns after the decision point (R146). -/
def decisionEdge (s : State) (f : Nat) (x : Frame) : Nat :=
  let pf := pframe s f x
  byteEdge x (if pf.len < 64 then pf.len else decisionPoint pf (parse pf) (bankOf s f x.bank)) + 320

/-- The first case found only after the decision point, where the decision met none (R147, R165). A later fragment that took the decision of its entry
meets those of R169 alone. -/
def lateCase (s : State) (f : Nat) (x : Frame) (d : Decision) : Option Nat :=
  let pf := pframe s f x
  if pf.len < 64 || d.dropped = 5 || d.caseCode != 0 then none
  else
    let p := parse pf
    let dp := decisionPoint pf p (bankOf s f x.bank)
    let stored := p.frag && p.fragOff != 0
    firstCase dp (fun q => decide (dp < q)) (if stored then p.cases.filter fragCase else p.cases)

/-- The length that a frame's headers announce (R325): of the APPID field and APP_LENGTH, or of the IP header; 0 for none. -/
def headerLength (pf : PFrame) (p : Parsed) : Nat :=
  if p.app = 1 || p.app = 2 then
    match tget? p.pos 0x15 with
    | some (o, _) => o + fieldVal p 0x16 + 4
    | none => 0
  else match tget? p.pos 0x0D with
    | some (o, _) =>
      if p.l3 = 1 then o - 12 + b16 pf (o - 10) + 4 else if p.l3 = 2 then o - 8 + 40 + b16 pf (o - 4) + 4 else 0
    | none => 0

/-! ## FRAGMENT_SWEEP -/

/-- Is an entry live for a fragment whose decision is still due in this furrow. -/
def fragAwaited (s : State) (f : Nat) (g : Frag) : Bool :=
  s.frames.any (fun e => bit e.2.due f && fragLive e.2.ns g && fragIs e.2 (parse (pframe s f e.2)) g)

/-- The sweeper frees the entries that are not live, neither now nor for a fragment that awaits its decision (R168, R169). -/
def execFragmentSweep (f : Furrow) (s : State) : Host.Outcome State Fault Refusal :=
  if s.clk.coreStopped then .next s else
  let n := furNo f
  let t := (fur s n).frags
  let keep := t.filter (fun e => fragLive (nowNs s) e.2 || fragAwaited s n e.2)
  .next (modFur n (fun y => { y with frags := keep, harrowCtr := cinc y.harrowCtr 10 (t.length - keep.length) }) s)

/-! ## Banks and swaps (R171-R174) -/

def inactive (s : State) : Nat := 1 - s.bankBit

/-- BANK_CRC of a stage, a pattern set or the policy of a bank (R171); the order of the words is left open (log 16). -/
def stageCrc (st : Stage) : Nat :=
  crc32 (Config.bankOrder ([st.kind, st.size, st.miss] ++ st.segments.flatMap (fun g => [g.field, g.width, g.offset]) ++
    st.entries.flatMap (fun e => [e.1, e.2.key, e.2.mask, e.2.result])))
def patternCrc (b : Bank) : Nat :=
  crc32 (Config.bankOrder (b.patterns.flatMap (fun e => [e.1, e.2.length, e.2.start, e.2.stop, leNat e.2.bytes, leNat e.2.mask])))
def policyCrc (q : Policy) : Nat :=
  crc32 (Config.bankOrder (q.malformed ++ q.undecoded ++ q.fragMiss ++ q.parseDepth ++
    [q.fragTimeout, q.rudpPort, q.rgSi, q.rsSi, q.extraTpid]))

/-- A swap armed or draining bars loads and swaps (R173, R179). -/
def swapBusy (s : State) : Bool := s.swap.isSome

def bankUpset (s : State) : State :=
  let f := s.hl.lead
  raiseAlarm f 0 (fireFur f (hBase f + 5) 0 [] (memUnc (6 + f) s))

def modBank (b : Nat) (g : Bank → Bank) (s : State) : State := eachFur (fun x => { x with banks := tmod {} x.banks b g }) s
def modStage (b n : Nat) (g : Stage → Stage) (s : State) : State := modBank b (fun x => { x with stages := tmod {} x.stages n g }) s

/-- After a load each furrow computes BANK_CRC and the values are compared (R171). -/
def loadDone (crc : Bank → Nat) (markBad : Bool → Bank → Bank) (s : State) : CmdResult :=
  let b := inactive s
  let both := furState s 0 == 0 && furState s 1 == 0
  let ca := crc (bankOf s 0 b)
  let cb := crc (bankOf s 1 b)
  if both && ca != cb then
    .final stHwFault [] (fireFur 1 (hBase 1 + 4) 0 [] (fireFur 0 (hBase 0 + 4) 0 [] (modBank b (markBad true) s)))
  else .ok (toLE 4 (if s.hl.lead = 0 then ca else cb) ++ toLE 1 b ++ zeros 3) (modBank b (markBad false) s)

/-! ## HARROW_STAGE_LOAD (R176-R178) -/

def poolOf (kind : Nat) : Nat := match kind with | 1 => 16384 | 2 => 4096 | 3 => 2048 | 4 => 32768 | _ => 0
def isPow2 (n : Nat) : Bool := popcount 20 n == 1

def sizeLegal (kind n : Nat) : Bool :=
  match kind with
  | 0 => true
  | 1 => isPow2 n && 64 ≤ n && n ≤ 16384
  | 2 => n % 64 == 0 && 64 ≤ n && n ≤ 4096
  | 3 => n % 16 == 0 && 16 ≤ n && n ≤ 2048
  | 4 => isPow2 n && 16 ≤ n && n ≤ 32768
  | _ => false

/-- Entries of a kind taken in both banks, without one stage of the inactive bank (R158). -/
def poolUsed (s : State) (f kind skip : Nat) : Nat :=
  [0, 1].foldl (fun n b => (bankOf s f b).stages.foldl (fun n e =>
    if e.2.kind = kind && !(b == inactive s && e.1 == skip) then n + e.2.size else n) n) 0

def poolFits (s : State) (n kind size : Nat) : Bool :=
  kind == 0 || decide (poolUsed s s.hl.lead kind n + size ≤ poolOf kind)

/-- The segments of a CONFIGURE, offset of the first wrong one (R157). -/
def readSegs (b : List Byte) : List Segment :=
  ((List.range 8).map (fun i => { field := byteAt b (16 + 4 * i), width := byteAt b (17 + 4 * i), offset := le b (18 + 4 * i) 2 })).filter
    (fun g => g.field != 0)

def segOk (g : Segment) : Bool :=
  1 ≤ g.width && g.width ≤ 64 &&
  (if g.field = 0x3F then decide (g.offset ≤ 511)
   else 1 ≤ g.field && g.field ≤ 0x31 && decide (g.offset + g.width ≤ fieldBits.getD g.field 0))

/-- Do the segments suit the kind (R157). An enabled stage has at least one segment (DESIGN CHOICE, log 90). -/
def segsOk (kind : Nat) (l : List Segment) : Bool :=
  l.all segOk && (kind == 0 || !l.isEmpty) && decide ((l.foldl (fun n g => n + g.width) 0) ≤ 256) &&
  (kind != 3 || l.length == 1) && (kind != 4 || (l.length == 1 && l.all (fun g => g.width ≤ 15)))

/-- A result's reserved bits are zero, and a port that it sets exists (R7, R18, R162). -/
def resultOk (s : State) (r : Nat) : Bool := bits r 58 32 == 0 && (!bit r 124 || portExists s (bits r 94 89))

def entrySize (kind : Nat) : Nat := match kind with | 1 => 48 | 2 => 80 | 3 => 32 | 4 => 16 | _ => 0
def mostEntries (kind : Nat) : Nat := match kind with | 1 => 84 | 2 => 50 | 3 => 127 | 4 => 254 | _ => 0

/-- An entry of a WRITE (R177). -/
def readEntry (kind : Nat) (b : List Byte) (o : Nat) : StageEntry :=
  match kind with
  | 1 => { key := le b o 32, result := le b (o + 32) 16 }
  | 2 => { key := le b o 32, mask := le b (o + 32) 32, result := le b (o + 64) 16 }
  | 3 => { key := le b o 8, mask := le b (o + 8) 8, result := le b (o + 16) 16 }
  | _ => { result := le b o 16 }

def readEntries (kind count : Nat) (b : List Byte) : List StageEntry :=
  (List.range count).map (fun i => readEntry kind b (16 + i * entrySize kind))

/-- PARAM_LEN of a form; the policy form has STAGE 0xFF (R176, R178). -/
def stageLoadLen (b : List Byte) : Bool :=
  let n := b.length
  if n < 4 then false
  else match byteAt b 1 with
    | 0 => n == 64
    | 1 => let k := byteAt b 2; if 1 ≤ k && k ≤ 4 then n == 16 + byteAt b 3 * entrySize k else 16 ≤ n
    | 2 => if byteAt b 2 = 1 then n == 16 + 32 * byteAt b 3 else n == 16
    | 3 => n == 16
    | _ => true

def specHarrowStageLoad : CmdSpec := { opcode := 0x0401, priv := 1, mask := 0x7, lenOk := stageLoadLen, upsetAct := some bankUpset }

/-- A free way of a bucket, lowest first. -/
def freeWay (st : Stage) (b : Nat) : Option Nat := ((List.range 4).find? (fun w => !tmem st.entries (4 * b + w))).map (fun w => 4 * b + w)
def freeCount (st : Stage) (b : Nat) : Nat := ((List.range 4).filter (fun w => !tmem st.entries (4 * b + w))).length

/-- An exact-hash write (R159); none if both candidate buckets are full. -/
def hashWrite (e : StageEntry) (st : Stage) : Option Stage :=
  match findHash st e.key with
  | some i => some { st with entries := tput st.entries i e }
  | none =>
    let b1 := bucket1 st e.key
    let b2 := bucket2 st e.key
    (freeWay st (if freeCount st b1 < freeCount st b2 then b2 else b1)).map (fun i => { st with entries := tput st.entries i e })

def writeAll : List StageEntry → Option Stage → Option Stage
  | [], st => st
  | e :: r, some st => writeAll r (hashWrite e st)
  | _ :: _, none => none

def putFrom (st : Stage) : Nat → List StageEntry → Stage
  | _, [] => st
  | i, e :: r => putFrom { st with entries := tput st.entries i e } (i + 1) r

def clearKeys (keys : List Nat) (st : Stage) : Stage :=
  keys.foldl (fun st k => match findHash st k with | some i => { st with entries := tdel st.entries i } | none => st) st

def readPolicy (b : List Byte) : Policy :=
  let row := fun o => (List.range 8).map (fun i => byteAt b (o + i))
  { malformed := row 16, undecoded := row 24, fragMiss := row 32, parseDepth := row 40, fragTimeout := le b 48 2, rudpPort := le b 50 2,
    rgSi := byteAt b 52, rsSi := byteAt b 53, extraTpid := le b 54 2 }

/-- The byte offset of the first illegal action: TC7 of the first three rows takes DROP or TRAP only (R166). -/
def badAction (b : List Byte) : Option Nat :=
  (List.range 32).findSome? (fun i =>
    let a := byteAt b (16 + i)
    if a < 4 && !(i % 8 == 7 && i < 24 && (a == 0 || a == 3)) then none else some (16 + i))

def policyDone (s : State) : CmdResult := loadDone (fun x => policyCrc x.policy) (fun bad x => { x with polInconsistent := bad }) s

/-- STAGE 0xFF: the policy block (R178). -/
def loadPolicy (op : Nat) (b : List Byte) (s : State) : CmdResult :=
  if op = 3 then
    if swapBusy s then .refuse stBusy 0
    else policyDone (eachFur (fun y => { y with banks := tmod {} y.banks (inactive s) (fun x => { x with policy := (tget {} y.banks s.bankBit).policy }) }) s)
  else if op != 0 then .badParam 1
  else match badAction b with
    | some o => .badParam o
    | none =>
      let q := readPolicy b
      checked [(1 ≤ q.fragTimeout && q.fragTimeout ≤ 1000, 48), (1 ≤ q.rudpPort, 50), (reservedAt b 56 8, 56)] <|
      if swapBusy s then .refuse stBusy 0
      else policyDone (modBank (inactive s) (fun x => { x with policy := q }) s)

def stageDone (n : Nat) (s : State) : CmdResult :=
  loadDone (fun x => stageCrc (tget {} x.stages n)) (fun bad x => { x with stages := tmod {} x.stages n (fun st => { st with inconsistent := bad }) }) s

/-- R176. -/
def bodyHarrowStageLoad (p : Packet) (s : State) : CmdResult :=
  let b := p.params
  let n := byteAt b 0
  let op := byteAt b 1
  let kind := byteAt b 2
  let count := byteAt b 3
  let first := le b 4 4
  let size := le b 8 4
  let ib := inactive s
  let cur := tget {} (bankOf s s.hl.lead ib).stages n
  checked [(n < 8 || n == 0xFF, 0), (op < 4, 1), (reservedAt b 12 4, 12)] <|
  if n = 0xFF then loadPolicy op b s
  else if op = 0 then
    let segs := readSegs b
    let miss := le b 48 16
    checked [(kind ≤ 4, 2), (sizeLegal kind size, 8), (segsOk kind segs, 16), (resultOk s miss, 48)] <|
    if swapBusy s then .refuse stBusy 0
    else if !poolFits s n kind size then .refuse stExhausted 0
    else stageDone n (modStage ib n (fun _ => if kind = 0 then {} else { kind := kind, size := size, segments := segs, miss := miss }) s)
  else if op = 3 then
    let src := tget {} (bankOf s s.hl.lead s.bankBit).stages n
    if swapBusy s then .refuse stBusy 0
    else if !poolFits s n src.kind src.size then .refuse stExhausted 0
    else stageDone n (eachFur (fun y => { y with banks := tmod {} y.banks ib (fun x =>
      { x with stages := tset {} x.stages n { tget {} (tget {} y.banks s.bankBit).stages n with inconsistent := false } }) }) s)
  else
    let es := readEntries kind count b
    checked [(1 ≤ kind && kind ≤ 4, 2), (op != 1 || count ≤ mostEntries kind, 3), (kind == 1 || first + count ≤ cur.size, 4),
      (op != 1 || kind != 3 || es.all (fun e => e.key ≤ e.mask), 16), (op != 1 || es.all (fun e => resultOk s e.result), 16)] <|
    if kind != cur.kind then .conflict
    else if swapBusy s then .refuse stBusy 0
    else if op = 1 then
      if kind = 1 then
        match writeAll es (some cur) with
        | none => .refuse stExhausted 0
        | some _ => stageDone n (modStage ib n (fun st => (writeAll es (some st)).getD st) s)
      else stageDone n (modStage ib n (fun st => putFrom st first es) s)
    else if kind = 1 then
      let keys := (List.range count).map (fun i => le b (16 + 32 * i) 32)
      if keys.any (fun k => (findHash cur k).isNone) then .refuse stNotFound 0
      else stageDone n (modStage ib n (clearKeys keys) s)
    else stageDone n (modStage ib n (fun st =>
      { st with entries := st.entries.filter (fun e => !(first ≤ e.1 && e.1 < first + count)) }) s)

def execHarrowStageLoad (p : Packet) (s : State) : Host.Outcome State Fault Refusal := serveCmd specHarrowStageLoad bodyHarrowStageLoad p s

/-! ## HARROW_PATTERN_LOAD (R180) -/

def patternLoadLen (b : List Byte) : Bool :=
  lenForms 0 [(1, fun b => b.length == 16 + 72 * byteAt b 1), (2, len 16), (3, len 16)] b

def specHarrowPatternLoad : CmdSpec :=
  { opcode := 0x0403, priv := 1, mask := 0x7, lenOk := patternLoadLen, upsetAct := some bankUpset }

def readPattern (b : List Byte) (o : Nat) : Pattern :=
  { length := byteAt b o, start := le b (o + 2) 2, stop := le b (o + 4) 2, bytes := slice b (o + 8) 32, mask := slice b (o + 40) 32 }

def patternOk (b : List Byte) (o : Nat) : Option Nat :=
  firstBad [(byteAt b o ≤ 32, o), (reservedAt b (o + 1) 1, o + 1), (le b (o + 2) 2 ≤ le b (o + 4) 2, o + 2),
    (le b (o + 4) 2 ≤ 511, o + 4), (reservedAt b (o + 6) 2, o + 6)]

def patternsDone (s : State) : CmdResult := loadDone patternCrc (fun bad x => { x with patInconsistent := bad }) s

def bodyHarrowPatternLoad (p : Packet) (s : State) : CmdResult :=
  let b := p.params
  let op := byteAt b 0
  let count := byteAt b 1
  let first := le b 2 2
  let ib := inactive s
  checked [(1 ≤ op && op ≤ 3, 0), (count ≤ 56, 1), (first + count ≤ 256, 2),
    (reservedAt b 4 12, 4)] <|
  match if op = 1 then (List.range count).findSome? (fun i => patternOk b (16 + 72 * i)) else none with
  | some o => .badParam o
  | none =>
    if swapBusy s then .refuse stBusy 0
    else if op = 1 then
      patternsDone (modBank ib (fun x => { x with patterns := (List.range count).foldl (fun t i =>
        let q := readPattern b (16 + 72 * i)
        if q.length = 0 then tdel t (first + i) else tput t (first + i) q) x.patterns }) s)
    else if op = 2 then
      patternsDone (modBank ib (fun x => { x with patterns := x.patterns.filter (fun e => !(first ≤ e.1 && e.1 < first + count)) }) s)
    else patternsDone (eachFur (fun y => { y with banks := tmod {} y.banks ib (fun x =>
      { x with patterns := (tget {} y.banks s.bankBit).patterns }) }) s)

def execHarrowPatternLoad (p : Packet) (s : State) : Host.Outcome State Fault Refusal :=
  serveCmd specHarrowPatternLoad bodyHarrowPatternLoad p s

/-! ## HARROW_BANK_SWAP and the flip (R172, R173, R179) -/

/-- The first whole millisecond at least 1 ms ahead, in nanoseconds. -/
def nextWholeMs (s : State) : Nat := (nowNs s + (if s.clk.tb % tbuPerNs = 0 then 0 else 1) + 1000000 + 999999) / 1000000 * 1000000

/-- A time 1 ms to 60 s ahead. -/
def inMinute (s : State) (ns : Nat) : Bool := decide (nowNs s + 1000000 ≤ ns && ns ≤ nowNs s + 60000000000)

def bankBad (s : State) : Bool :=
  let b := inactive s
  let bad := fun (x : Bank) => x.patInconsistent || x.polInconsistent || x.stages.any (fun e => e.2.inconsistent)
  bad (bankOf s 0 b) || bad (bankOf s 1 b)

def specHarrowBankSwap : CmdSpec := { opcode := 0x0402, priv := 1, mask := 0x7, lenOk := len 16 }

def bodyHarrowBankSwap (p : Packet) (s : State) : CmdResult :=
  let b := p.params
  let raw := le b 0 8
  let tick := if raw = 0 then nextWholeMs s else nsOfT64 raw
  checked [(t64Ok raw && inMinute s tick, 0), (reservedAt b 8 8, 8)] <|
  if swapBusy s then .refuse stBusy 0
  else if bankBad s then .conflict
  else .accepted { s with swap := some { tick := tick, ticket := ticketFor specHarrowBankSwap p } }

def execHarrowBankSwap (p : Packet) (s : State) : Host.Outcome State Fault Refusal := serveCmd specHarrowBankSwap bodyHarrowBankSwap p s

/-- BANK_FLIP: the time base first reads T or later, and the bank bit flips (R172). -/
def execBankFlip (s0 : State) : Host.Outcome State Fault Refusal :=
  if s0.clk.coreStopped then .next s0 else
  match s0.swap with
  | some w =>
    if w.flippedAt.isSome then .next s0
    else
      let s := reachNs w.tick s0
      .next { s with bankBit := 1 - s.bankBit, swap := some { w with flippedAt := some (nowT64 s, s.clk.edges) } }
  | none => .next s0

/-- BANK_SWAP_COMPLETE: 50 us after the flip the old bank becomes the inactive one; event and COMPLETION (R173, R179). -/
def execBankSwapComplete (s0 : State) : Host.Outcome State Fault Refusal :=
  if s0.clk.coreStopped then .next s0 else
  match s0.swap with
  | some w =>
    match w.flippedAt with
    | none => .next s0
    | some (t, e) =>
      let s := reachEdge (e + 50 * usE) s0
      let ev := fun f (s : State) => if decides s f then fireFur f (hBase f + 3) 0 (toLE 1 s.bankBit) s else s
      .next (complete w.ticket stOk (toLE 8 t ++ toLE 1 s.bankBit ++ zeros 3) (ev 1 (ev 0 { s with swap := none })))
  | none => .next s0

/-! ## FRAGMENT_TABLE_READ (R181) -/

def specFragmentTableRead : CmdSpec := { opcode := 0x0404, priv := 0, mask := 0xF, lenOk := len 8 }

def fragRecord (i : Nat) (g : Frag) : List Byte :=
  toLE 2 i ++ toLE 1 (b2n (i % 4 < 2) + 2 * b2n g.total.isSome + 4 * b2n g.v6 + 8 * g.dec.bank) ++ toLE 1 g.port ++ toLE 4 g.ident ++
  toLE 8 (t64OfNs g.first) ++ toLE 4 (g.dec.handle + g.dec.class_ * 2 ^ 20 + g.dec.disposition * 2 ^ 23) ++ toLE 2 g.seen ++
  toLE 2 (g.total.getD 0) ++ toLE 4 (fragCrc g.port g.src g.dst g.proto g.ident g.v6) ++ toLE 2 g.frags ++ zeros 2

def bodyFragmentTableRead (p : Packet) (s : State) : CmdResult :=
  let b := p.params
  let f := byteAt b 0
  let first := le b 2 2
  let count := le b 4 2
  checked [(f < 2, 0), (reservedAt b 1 1, 1), (first ≤ 4095, 2), (1 ≤ count && first + count ≤ 4096, 4), (reservedAt b 6 2, 6)] <|
  onFurrow s f <|
  let x := fur s f
  let live := fun tc7 => ((x.frags.filter (fun e => decide (e.1 % 4 < 2) == tc7 && fragLive (nowNs s) e.2)).length)
  .ok (toLE 2 (live true) ++ toLE 2 (live false) ++ toLE 4 (tget 0 x.harrowCtr 9) ++ toLE 4 (tget 0 x.harrowCtr 8) ++
      toLE 4 (tget 0 x.harrowCtr 10) ++
      (x.frags.filter (fun e => first ≤ e.1 && e.1 < first + count)).flatMap (fun e => fragRecord e.1 e.2)) s

def execFragmentTableRead (p : Packet) (s : State) : Host.Outcome State Fault Refusal :=
  serveCmd specFragmentTableRead bodyFragmentTableRead p s

end Sys2Proof.Machine
end

