-- ==== Sys2Proof/Machine/Granary.lean ====
section
/-! DEFINITION. The Granary: cells, descriptors, pools, queues, lane entries, residence and their commands (spec/08), and the counters of a
MAC (spec/03 R119, R120). -/

namespace Sys2Proof.Machine

/-! ## MAC counters (R119, R120) -/

/-- Counter k of port p rises by n; its half-range event fires as bit 31 sets. -/
def macCtr (p k n : Nat) (s : State) : State :=
  let old := tget 0 (port s p).mac.ctr k
  let new := wrap32 (old + n)
  let s1 := modPort p (fun x => { x with mac := { x.mac with ctr := tset 0 x.mac.ctr k new } }) s
  if !bit old 31 && bit new 31 then fire (4 * p) 0x10 (toLE 1 k) s1 else s1

/-- The size bucket of a frame length, from the index of the 64-byte bucket. -/
def sizeBucket (base n : Nat) : Nat :=
  if n ≤ 64 then base else if n ≤ 127 then base + 1 else if n ≤ 255 then base + 2 else if n ≤ 511 then base + 3
  else if n ≤ 1023 then base + 4 else if n ≤ 1518 then base + 5 else base + 6

/-! ## Halves -/

def half (s : State) (h : Nat) : Half := if h = 0 then s.gran.halfA else s.gran.halfB
def modGran (g : Granary → Granary) (s : State) : State := { s with gran := g s.gran }
def modDeep (g : Deep → Deep) (s : State) : State := { s with deep := g s.deep }
def modGle (g : Gleaner → Gleaner) (s : State) : State := { s with gle := g s.gle }
def modHalf (h : Nat) (g : Half → Half) (s : State) : State :=
  if h = 0 then modGran (fun x => { x with halfA := g x.halfA }) s else modGran (fun x => { x with halfB := g x.halfB }) s
def gctr (k h : Nat) (s : State) : State := modHalf h (fun x => { x with ctr := cinc x.ctr k 1 }) s
def gctrN (k n h : Nat) (s : State) : State := modHalf h (fun x => { x with ctr := cinc x.ctr k n }) s

def runLen (l : List (Nat × Nat)) : Nat := l.foldl (fun n r => n + (r.2 + 1 - r.1)) 0
/-- Cells on the free list, and cells quarantined. -/
def freeCells (x : Half) : Nat := x.stack.length + runLen x.runs
def quarCells (x : Half) : Nat := x.quarantined.length + runLen x.quarRuns + x.quarantined1.length + runLen x.quarRuns1

/-- The head of the free list and the cell after it (R266). -/
def listHead (x : Half) : Option Nat := match x.stack, x.runs with | c :: _, _ => some c | [], (a, _) :: _ => some a | [], [] => none
def popCell (x : Half) : Half :=
  match x.stack, x.runs with
  | _ :: r, _ => { x with stack := r }
  | [], (a, b) :: r => { x with runs := if a < b then (a + 1, b) :: r else r }
  | [], [] => x

/-- The first word of the head cell as it was written: MARKER and NEXT (R266). -/
def cellOffset (h i : Nat) : Nat := h * 0x1400000 + i * 256
def headWord (h : Nat) (x : Half) : Nat :=
  0xFA110000 * 2 ^ 32 + (match listHead (popCell x) with | some c => cellOffset h c | none => 0xFFFFFFFF)

/-- The check of a take (R268), in the order of its table: the cause, 0 when it passes. A word of 2^256 or more is uncorrectable. -/
def takeCheck (h cell free w : Nat) : Nat :=
  let nx := w % 2 ^ 32
  let lo := h * 0x1400000
  if w / 2 ^ 32 % 2 ^ 32 != 0xFA110000 then 0x01
  else if 1 < free && nx % 256 != 0 then 0x02
  else if 1 < free && 0x2800000 ≤ nx then 0x03
  else if 1 < free && (nx < lo || lo + 0x1400000 ≤ nx || nx = cellOffset h cell) then 0x04
  else if (1 < free && nx = 0xFFFFFFFF) || (free ≤ 1 && nx != 0xFFFFFFFF) then 0x05
  else if 2 ^ 256 ≤ w then 0x06
  else 0

/-- The list of a half is abandoned: its cells are quarantined in the free state of its epoch, the epoch flips and a rebuild begins (R269). -/
def abandon (at_ : Nat) (x : Half) : Half :=
  let y := if x.epoch = 0 then { x with quarantined := x.stack ++ x.quarantined, quarRuns := x.runs ++ x.quarRuns }
    else { x with quarantined1 := x.stack ++ x.quarantined1, quarRuns1 := x.runs ++ x.quarRuns1 }
  { y with stack := [], runs := [], epoch := 1 - x.epoch, rebuilding := some at_ }

/-- A failed check (R269). -/
def listFail (h cell cause : Nat) (s : State) : State :=
  let s1 := modHalf h (abandon s.clk.edges) (gctr 10 h s)
  fire (0x200 + h) cause (toLE 4 (cellOffset h cell)) (if cause = 6 then memUnc h s1 else s1)

/-- A take (R267-R269): the cell delivered. disturbed is what the head's first word reads, where it is not what was written. -/
def takeCell (h : Nat) (disturbed : Option Nat) (s : State) : Option Nat × State :=
  let x := half s h
  match listHead x with
  | none => (none, if x.rebuilding.isSome then gctr 12 h s else s)
  | some c =>
    match takeCheck h c (freeCells x) (disturbed.getD (headWord h x)) with
    | 0 => (some c, gctr 0 h (modHalf h popCell s))
    | cause => (none, listFail h c cause s)

def giveCell (h c : Nat) (s : State) : State := gctr 1 h (modHalf h (fun x => { x with stack := c :: x.stack }) s)

/-! ## Descriptors (R272, R273) -/

def descFree (s : State) : Nat := 131072 - s.gran.descUsed

/-- The low-descriptor event and its re-arming. -/
def descWatch (s : State) : State :=
  if descFree s ≤ s.gran.descReserve then
    if s.gran.descArmed then fire 0x204 0 [] (modGran (fun g => { g with descArmed := false }) s) else s
  else if 2 * s.gran.descReserve < descFree s then modGran (fun g => { g with descArmed := true }) s
  else s

def takeDesc (s : State) : Nat × State :=
  match s.gran.descStack with
  | d :: r => (d, descWatch (modGran (fun g => { g with descStack := r, descUsed := g.descUsed + 1 }) s))
  | [] => (s.gran.descNext, descWatch (modGran (fun g => { g with descNext := g.descNext + 1, descUsed := g.descUsed + 1 }) s))
def giveDesc (d : Nat) (s : State) : State :=
  descWatch (modGran (fun g => { g with descStack := d :: g.descStack, descUsed := g.descUsed - 1 }) s)

/-! ## Pools (R276-R278) -/

def classMin (s : State) (k : Nat) : Nat := (tget? s.gran.classMin k).getD (if 5 ≤ k then 1024 else 512)
def portPool (s : State) (p : Nat) : PortPool := tget {} s.gran.ports p

/-- All reserves of a half, with one port's or class's settings replaced by the caller. -/
def reserves (s : State) : Nat :=
  s.gran.streamPool + (List.range 8).foldl (fun n k => n + classMin s k) 0 +
  (List.range (nPorts s)).foldl (fun n p => n + (portPool s p).headroom + (portPool s p).portMin) 0

def sharedUsed (x : Half) : Nat := x.shared.foldl (fun n e => n + e.2) 0 + x.hostShared
def sharedFree (s : State) (h : Nat) : Nat := 81920 - reserves s - (half s h).retired.length - sharedUsed (half s h)

/-- Stream queue of a handle; a default queue lies at 2^20 + 8 x port + class (R281). -/
def queueKey (handle p k : Nat) : Nat := if handle = 0 then 2 ^ 20 + 8 * p + k else handle
def queue (s : State) (q : Nat) : Queue := tget {} s.gran.queues q
def modQueue (q : Nat) (g : Queue → Queue) (s : State) : State := modGran (fun x => { x with queues := tmod {} x.queues q g }) s

def profileDefault (i : Nat) : Profile :=
  if i = 7 then { reserve := 2, maxCells := 64, maxFrames := 64, spillCells := 0 }
  else if i = 5 || i = 6 then { maxCells := 1024, maxFrames := 1024, spillCells := 0 } else {}
def profile (s : State) (i : Nat) : Profile := (tget? s.gran.profiles i).getD (profileDefault i)
def profileOf (s : State) (q k : Nat) : Profile :=
  let i := (queue s q).profile
  profile s (if i = 0xFF || 2 ^ 20 ≤ q then k else i)

/-- HALF_CELLS of a handle in a half (R283). -/
def halfCells (s : State) (q h : Nat) : Nat := tget 0 s.gran.handleCells (2 * q + h)

/-- Cells of queue q that the walk counts in half h. -/
def queueCells (s : State) (q k h : Nat) : Nat := if k = 7 then halfCells s q h else (queue s q).cells

inductive Walk where
  | level (n : Nat)
  | limit
  | full (last : Nat)

/-- The walk of R278 for one cell of a decided copy. de: MARK_DE bars level 4 (R334); mirror copies and host frames bar others. -/
def walk (s : State) (q k p h : Nat) (de host : Bool) : Walk :=
  let x := half s h
  let pr := profileOf s q k
  let n := queueCells s q k h
  let most := if k = 7 then min pr.maxCells 4095 else pr.maxCells
  if host then
    if 0 < sharedFree s h && x.hostShared < 1024 then .level 4 else .full 4
  else if most ≤ n then .limit
  else if n < pr.reserve && x.stream < s.gran.streamPool then .level 1
  else if tget 0 x.cls k < classMin s k then .level 2
  else if tget 0 x.port p < (portPool s p).portMin then .level 3
  else if de then .full 3
  else if 0 < sharedFree s h && tget 0 x.shared p < (portPool s p).sharedMax then .level 4
  else .full 4

/-- A cell charged to a level, or credited (R278, R291). -/
def chargeLevel (h lvl k p : Nat) (host up : Bool) (s : State) : State :=
  let add := fun (n : Nat) => if up then n + 1 else n - 1
  modHalf h (fun x =>
    match lvl with
    | 0 => { x with head := tmod 0 x.head p add }
    | 1 => { x with stream := add x.stream }
    | 2 => { x with cls := tmod 0 x.cls k add }
    | 3 => { x with port := tmod 0 x.port p add }
    | _ => if host then { x with hostShared := add x.hostShared } else { x with shared := tmod 0 x.shared p add }) s

/-- A cell enters or leaves the count of its queue (R282, R283). -/
def countCell (q k h : Nat) (up : Bool) (s : State) : State :=
  let add := fun (n : Nat) => if up then n + 1 else n - 1
  if k = 7 then modGran (fun g => { g with handleCells := tmod 0 g.handleCells (2 * q + h) add }) s
  else modQueue q (fun x => { x with cells := add x.cells }) s

/-! ## Copies -/

def copyOf (x : Frame) (h : Nat) : Option Copy := if h = 0 then x.copyA else x.copyB
def setCopy (h : Nat) (c : Option Copy) (x : Frame) : Frame := if h = 0 then { x with copyA := c } else { x with copyB := c }
def modCopy (u h : Nat) (g : Copy → Copy) (s : State) : State := modFrame u (fun x => setCopy h ((copyOf x h).map g) x) s

/-- The 32-byte frame header with which the first cell of a copy begins (R265). CLASS reads 0 before admission writes it. -/
def frameHeader (x : Frame) : List Byte :=
  toLE 8 (t64OfNs x.ns) ++ toLE 4 x.arrUs ++ toLE 2 x.frameLen ++ toLE 2 x.tag ++
  toLE 4 (x.handle % 2 ^ 20 + 2 ^ 20 * ((if x.admitted then x.class_ else 0) % 8) + 2 ^ 23 * (x.early % 8) + 2 ^ 26 * (x.qns % 4)) ++
  [BitVec.ofNat 8 (x.port % 64), BitVec.ofNat 8 (b2n x.limited + 2 * b2n x.refilled + 4 * b2n x.mark)] ++ zeros 10

/-- What the cells of a copy hold: the frame header, then the frame bytes from the destination address onward (R265). -/
def copyImage (x : Frame) : List Byte := frameHeader x ++ effBytes x

/-- Is a copy the one by which a shaped stream's list holds its frame (R286): admitted, and not dropped. -/
def listedCopy (x : Frame) (c : Copy) : Bool := x.shaped && !c.undecided && !c.dropped

/-- The descriptor by which a shaped stream's list holds a frame. -/
def frameDesc (s : State) (u : Nat) : Nat :=
  let x := frame s u
  ([x.copyA, x.copyB].findSome? (fun c => c.bind (fun c => if listedCopy x c then some c.desc else none))).getD 0

/-- The cell link of cell i of a half (R271): free in an epoch, retired, or in use with its CHARGE, LAST and NEXT_CELL. -/
def cellLink (s : State) (h i : Nat) : Nat :=
  let x := half s h
  let inRuns := fun (l : List (Nat × Nat)) => l.any (fun r => decide (r.1 ≤ i) && decide (i ≤ r.2))
  let at_ := s.frames.findSome? (fun e => match copyOf e.2 h with
    | some c => if c.cells.any (fun y => y.1 == i) then some (c.cells.dropWhile (fun y => y.1 != i)) else none
    | none => none)
  match at_ with
  | some ((_, l) :: r) => 2 * 2 ^ 22 + l * 2 ^ 19 + (match r with | [] => 2 ^ 18 | (j, _) :: _ => j)
  | _ =>
    match x.returns.find? (fun r => r.cell == i) with
    | some r => 2 * 2 ^ 22 + r.level * 2 ^ 19 + 2 ^ 18
    | none => if x.retired.contains i then 3 * 2 ^ 22
      else if x.quarantined.contains i || inRuns x.quarRuns then 0
      else if x.quarantined1.contains i || inRuns x.quarRuns1 then 2 ^ 22 else x.epoch * 2 ^ 22

/-- The descriptor of a frame's copy in a half (R272). NEXT is the descriptor after it on a shaped stream's list. A copy without a cell has none
(R273). -/
def descWord (s : State) (u h : Nat) : Nat :=
  let x := frame s u
  match (copyOf x h).bind (fun c => if c.cells.isEmpty then none else some c) with
  | none => 0
  | some c =>
    let next := ((queue s x.queue).list.dropWhile (· != u)).drop 1
    2 ^ 47 + h * 2 ^ 46 + (c.cells.head?.elim 0 (·.1)) * 2 ^ 29 + (if listedCopy x c then next.head?.elim 0 (frameDesc s) else (c.desc + 1) % 131072) * 2 ^ 12 +
      c.fanout * 2 ^ 5 + b2n c.twin * 2 ^ 4 + b2n c.earlyRelease * 8 + b2n c.complete * 4 + b2n c.tailMark * 2 + b2n c.poison

/-- Cells that n frame bytes take with the header (R265). -/
def cellsFor (n : Nat) : Nat := (32 + n + 255) / 256

def isHost (x : Frame) : Bool := x.kind != 0

/-- The half whose counters a frame's own drops take: the lead's for TC7, else the half that holds it (R292). -/
def frameHalf (s : State) (x : Frame) : Nat :=
  if x.early = 7 then s.hl.lead else if x.copyB.isSome && x.copyA.isNone then 1 else 0

/-! ## Lanes (R288) -/

def laneKey (inp out k : Nat) : Nat := (72 * inp + out) * 8 + k
def laneOf (s : State) (f key : Nat) : List Entry := tget [] (fur s f).lanes key
def setLane (f key : Nat) (l : List Entry) (s : State) : State := modFur f (fun x => { x with lanes := tset [] x.lanes key l }) s
def laneUsed (s : State) (f : Nat) : Nat := (fur s f).lanes.foldl (fun n e => n + e.2.length) 0
def hostEntries (s : State) (f : Nat) : Nat :=
  ((fur s f).lanes.filter (fun e => e.1 / 8 % 72 == 64)).foldl (fun n e => n + e.2.length) 0

def xBase (f : Nat) : Nat := 0x220 + 8 * f
def xctr (k n f : Nat) (s : State) : State := modFur f (fun x => { x with xb := { x.xb with ctr := cinc x.xb.ctr k n } }) s

/-! ## Returning copies (R291) -/

/-- Is a frame still in any egress buffer. -/
def inEgress (s : State) (u : Nat) : Bool := s.ports.any (fun e => e.2.drill.buf.any (fun c => c.uid == u))

/-- Is a furrow's decision of a frame still to come. -/
def isDue (s : State) (x : Frame) : Bool := (bit x.due 0 && decides s 0) || (bit x.due 1 && decides s 1)

/-- Does a Bed still hold an activation or a verdict of a frame. -/
def inBeds (s : State) (u : Nat) : Bool :=
  [s.fa, s.fb].any (fun f => f.beds.any (fun e =>
    e.2.queue.any (fun q => q.uid == some u) || e.2.tines.any (fun t => t.2.uid == some u) || e.2.release.any (fun r => r.uid == some u)))

/-- Are the frame-end checks of a frame still to be made by a furrow that decided it (R147). -/
def endDue (s : State) (x : Frame) : Bool :=
  x.kind == 0 && x.rxCut.isNone && !x.refused &&
    ((x.decA.isSome && !bit x.endSeen 0 && decides s 0) || (x.decB.isSome && !bit x.endSeen 1 && decides s 1))

/-- A frame without a copy is wholly freed: its queue counts it out (R282). One that has ended and that nothing refers to any more leaves the
model. -/
def reap (u : Nat) (s : State) : State :=
  let x := frame s u
  if !tmem s.frames u || x.copyA.isSome || x.copyB.isSome || x.spilled then s
  else
    let s1 := if x.admitted && !x.reaped then
        modFrame u (fun x => { x with reaped := true }) (modQueue x.queue (fun q =>
          let n := q.frames - 1
          { q with frames := n, state := if n = 0 && q.spilled = 0 then 0 else q.state }) s)
      else s
    if !x.rxDone || inEgress s1 u || isDue s1 x || inBeds s1 u || endDue s1 x then s1 else { s1 with frames := tdel s1.frames u }

/-- The descriptor of a copy returns, and its cells wait for the allocator (R267, R291); lane entries of it are gone. -/
def freeCopy (u h : Nat) (s : State) : State :=
  let x := frame s u
  match copyOf x h with
  | none => s
  | some c =>
    let back := c.cells.map (fun e => ({ cell := e.1, level := e.2, queue := x.queue, cls := x.class_, port := x.port, host := isHost x } : Return))
    let s1 := modHalf h (fun y => { y with returns := y.returns ++ back }) s
    let s2 := if c.cells.isEmpty then s1 else giveDesc c.desc s1
    reap u (modFrame u (fun x => setCopy h none x) s2)

/-- A return: the cell is the new head of the list, and its level and its queue are credited (R267, R291). -/
def serveReturn (h : Nat) (s : State) : State :=
  match (half s h).returns with
  | [] => s
  | r :: rest =>
    let s1 := giveCell h r.cell (chargeLevel h r.level r.cls r.port r.host false (modHalf h (fun x => { x with returns := rest }) s))
    if r.level = 0 then s1 else countCell r.queue r.cls h false s1

/-- Entries of a copy that a lane set holds. -/
def dropEntries (u h f : Nat) (keepStarted : Bool) (s : State) : State :=
  modFur f (fun x => { x with lanes := x.lanes.filterMap (fun e =>
    let l := e.2.filter (fun y => !(y.uid == u && y.half == h && !y.spill && !(keepStarted && (y.moved != 0 || y.mirror.isSome))))
    if l.isEmpty then none else some (e.1, l)) }) s

/-- How many entries of a copy have not begun to cross. -/
def unsentEntries (s : State) (u h f : Nat) : Nat :=
  (fur s f).lanes.foldl (fun n e => n + (e.2.filter (fun y => y.uid == u && y.half == h && y.moved == 0 && !y.spill && y.mirror.isNone)).length) 0

def anyEntry (s : State) (u h : Nat) : Bool :=
  [0, 1].any (fun f => (fur s f).lanes.any (fun e => e.2.any (fun y => y.uid == u && y.half == h && !y.spill)))

/-- A frame that only mirror copies refer to notes when its last other entry went (R447). -/
def noteRest (u : Nat) (s : State) : State :=
  let of_ := fun (p : Entry → Bool) => [0, 1].any (fun f => (fur s f).lanes.any (fun e => e.2.any (fun y => y.uid == u && p y)))
  if (frame s u).restGone.isNone && of_ (·.mirror.isSome) && !of_ (·.mirror.isNone) then modFrame u (fun x => { x with restGone := some s.clk.edges }) s else s

/-- A copy is returned once it is complete, truncated or dropped, refers to no lane entry or list, and owes no header transfer (R291, R310). -/
def tryReturn (u h : Nat) (s : State) : State :=
  let x := frame s u
  match copyOf x h with
  | none => reap u s
  | some c =>
    if (c.complete || c.tailMark || c.dropped) && c.fanout = 0 && !listedCopy x c && !c.transfer && c.released && (!x.spilled || x.spillDone) && !anyEntry s u h
    then freeCopy u h s else noteRest u s

/-- A frame leaves the list of its shaped stream. -/
def unqueue (u : Nat) (s : State) : State :=
  let x := frame s u
  if x.shaped then modQueue x.queue (fun q => { q with list := q.list.filter (· != u) }) (modFrame u (fun x => { x with shaped := false }) s) else s

/-! ## Spill records (R475, R476) -/

/-- The spill record of a frame. -/
def spillRecOf (s : State) (u : Nat) : Option (Nat × SpillRec) := s.deep.recs.find? (fun e => e.2.uid == u && e.2.state != 3)

/-- HEAD of a ring moves past the records that are freed (R475). -/
def ringAdvance (n : Nat) : Nat → State → State
  | 0, s => s
  | k + 1, s =>
    let g := tget {} s.deep.rings n
    match g.order with
    | [] => s
    | (i, _) :: r =>
      match tget? s.deep.recs i with
      | some y =>
        if y.state != 3 then s
        else ringAdvance n k (modDeep (fun d => { d with
          recs := tdel d.recs i, rings := tset {} d.rings n { g with head := y.offset + y.cells, order := r } }) s)
      | none => ringAdvance n k (modDeep (fun d => { d with rings := tset {} d.rings n { g with order := r } }) s)

/-- A training that waits for the spill records goes on once all are freed (R479). -/
def trainGo (s : State) : State :=
  match s.deep.training with
  | some t =>
    if t.stage = 1 && s.deep.recs.isEmpty then
      let on := fun (c : Nat) (x : Chan) => if bit t.mask c then { x with state := 2 } else x
      modDeep (fun d => { d with ch0 := on 0 d.ch0, ch1 := on 1 d.ch1, training := some { t with stage := 5 } }) s
    else s
  | none => s

/-- The record of a frame is freed (R476): it waits for HEAD, and its queue counts a written one out (R287). -/
def freeSpill (u : Nat) (s : State) : State :=
  let s1 := match spillRecOf s u with
    | none => s
    | some (i, r) =>
      let s2 := if r.state = 0 then s else modQueue (frame s u).queue (fun q =>
        let n := q.spilled - 1
        { q with spilled := n, state := if n = 0 then (if q.frames = 0 then 0 else 1) else q.state }) s
      ringAdvance r.ring ((tget {} s.deep.rings r.ring).order.length) (modDeep (fun d => { d with recs := tput d.recs i { r with state := 3 } }) s2)
  trainGo (tryReturn u 1 (tryReturn u 0 (modFrame u (fun x => { x with spilled := false, spillDone := false }) s1)))

/-- The lane entry of a spilled frame has gone: its record is freed, one that is still being written once its writes are done (R476). -/
def spillGone (u : Nat) (s : State) : State :=
  match spillRecOf s u with
  | some (i, r) => if r.state = 0 then modDeep (fun d => { d with recs := tput d.recs i { r with gone := true } }) s else freeSpill u s
  | none => freeSpill u s

/-- The lane entries that name a frame's spill record go. -/
def cutSpillEntries (u : Nat) (s : State) : State :=
  let cut := fun (x : FurrowSt) => { x with lanes := x.lanes.filterMap (fun e =>
    let l := e.2.filter (fun y => !(y.uid == u && y.spill))
    if l.isEmpty then none else some (e.1, l)) }
  modFur 1 cut (modFur 0 cut s)

/-- A frame whose copy is dropped spills no more: its lane entry goes, and its record is freed. -/
def unspill (u : Nat) (s : State) : State :=
  let x := frame s u
  if x.spilled && !x.spillDone then freeSpill u (cutSpillEntries u s) else s

/-- A copy that is dropped leaves what held its frame by it: the list of a shaped stream, and the spill. -/
def unhold (u h : Nat) (s : State) : State :=
  unspill u (if (copyOf (frame s u) h).any (listedCopy (frame s u)) then unqueue u s else s)

/-- Dropped whole: no lane entry and no list holds it any more, and it returns at once. -/
def dropCopy (u h : Nat) (s : State) : State := freeCopy u h (dropEntries u h 1 false (dropEntries u h 0 false (unhold u h s)))

/-- A copy's first cell fails, or finds no descriptor: dropped whole, and the other copy of a TC7 frame is no pair's any more (R272). The frame is
written once if that one has a cell, or gets one (R274). -/
def loseFirst (u h : Nat) (s : State) : State :=
  dropCopy u h (modCopy u (1 - h) (fun c => { c with twin := false, alone := c.cells.isEmpty }) s)

/-- A TC7 frame is written to one half only (R274). -/
def singleWrite (s : State) : State := fireMs 0 0x20C 0 [] (gctr 7 s.hl.lead s)

/-- The same, counted at once where the other copy has a cell already. -/
def loseOne (u h : Nat) (s : State) : State :=
  let x := frame s u
  if x.early = 7 && (copyOf x (1 - h)).any (!·.cells.isEmpty) then singleWrite (loseFirst u h s) else loseFirst u h s

/-- A bad tail in furrow f of a frame whose head has left there: BAD_TAIL_IN and the cause's counter, each once for its copy, and event b + 0
(R318, R321). -/
def countTail (u f cause : Nat) (s : State) : State :=
  let x := frame s u
  let once := fun (k c : Nat) (s : State) => if x.tailed.contains k then s else xctr c 1 f s
  fireFurMs f (xBase f) 0 (toLE 1 x.port ++ toLE 1 cause)
    (modFrame u (fun x => { x with tailed := (64 * f + cause) :: (64 * f) :: x.tailed }) (once (64 * f) (32 + x.port % 64) (once (64 * f + cause) cause s)))

/-- The mirror entries of a copy that has ended are offered (R311, R314). -/
def offerMirrors (u h f : Nat) (s : State) : State :=
  let mine := fun (y : Entry) => y.uid == u && y.half == h && y.mirror.isSome && y.offered.isNone
  let n := (fur s f).lanes.foldl (fun n e => n + (e.2.filter mine).length) 0
  xctr 4 n f (modFur f (fun x => { x with lanes := x.lanes.map (fun e =>
    (e.1, e.2.map (fun y => if mine y then { y with offered := some s.clk.edges } else y))) }) s)

/-- What the transfers and the records of a frame in the Gleaner learn of it (R438). -/
def gleanNote (u : Nat) (g : GlXfer → GlXfer) (s : State) : State :=
  let on := fun (x : GlXfer) => if x.uid = u then g x else x
  modGle (fun y => { y with input := y.input.map on, recs := y.recs.map (fun r => { r with x := on r.x }) }) s

/-- A cause ends a copy (R312, R315): in both crossbars, entries whose head has not left are discarded and counted NOT_SENT; the rest end with a bad
tail, and mirror copies take the copy whole. cause is a counter index of R320, n the frame bytes written. -/
def tailCopy (u h cause n : Nat) (s : State) : State :=
  match copyOf (frame s u) h with
  | none => s
  | some c =>
    let drop := fun (f : Nat) (s : State) =>
      let un := unsentEntries s u h f
      modCopy u h (fun c => { c with fanout := c.fanout - un }) (xctr 14 un f (dropEntries u h f true s))
    let s1 := modCopy u h (fun c => { c with tailMark := true, complete := true, cutAt := some n, cause := cause }) (drop 1 (drop 0 s))
    let s2 := offerMirrors u h 1 (offerMirrors u h 0 s1)
    tryReturn u h ((bitList 2 c.left).foldl (fun s f => countTail u f cause s) (gleanNote u (fun x => if x.fur = h then { x with length := some n } else x) s2))

/-- The drop events of R280. -/
def allocEvent (p k lvl : Nat) (s : State) : State := fireMs 0 0x205 0 (toLE 1 p ++ toLE 1 k ++ toLE 1 lvl) s
def limitEvent (handle : Nat) (s : State) : State := fireMs 0 0x206 0 (toLE 4 handle) s

/-- The result of a transmit descriptor is written into its slot, DONE last, and the vector signalled (R497). -/
def hostTxDone (slot result : Nat) (s : State) : State := signalVec s.hfr.txVector (emitOut (.hostTxDone slot result) s)

/-- A whole frame finds no cell or no descriptor: what it has got returns. One of host software is refused (R308); a refill is tried again (R287). -/
def askFails (u h : Nat) (a : Ask) (s0 : State) : State :=
  let s := modFrame u (fun x => { x with asks := none }) s0
  match a with
  | .direct (some slot) _ | .lookup slot => hostTxDone slot 2 (dropCopy u h s)
  | .direct none _ => dropCopy u h s
  | .refill _ => modFrame u (fun x => { x with spilled := true }) (dropCopy u h s)

/-- A failed request of a copy (R280): lvl is the level last tried, room whether level 0 refused, limit whether the queue did, first whether it is
for the copy's first cell. -/
def requestFails (u h lvl : Nat) (room limit first : Bool) (s : State) : State :=
  let x := frame s u
  let c := (copyOf x h).getD {}
  let ev := fun s => if limit then limitEvent (if x.queue < 2 ^ 20 then x.queue else 0) s else allocEvent x.port (if x.admitted then x.class_ else x.early) lvl s
  let gone := if first then loseOne u h else dropCopy u h
  match x.asks with
  | some (_, a) => askFails u h a s
  | none =>
    if c.undecided then ev (gctr (if first && !room then 2 else 3) h (gone s))
    else
      let s1 := ev (modQueue x.queue (fun q => { q with dropSeen := true }) s)
      if c.earlyRelease then
        tailCopy u h 10 (min (rxBytes x s.clk.edges) (c.cells.length * 256 - 32)) (gctr 5 h s1)
      else gctr (if limit then 6 else 4) h (gone s1)

/-! ## CELL_REQUEST (R277-R280) -/

/-- Is a half open to allocation (R28, R274, R275). -/
def halfOpen (s : State) (h : Nat) : Bool := !(half s h).fenced && powered s h && furState s h == 0

/-- Does a copy of a frame want a cell now. The MAC hands nothing on while its slice clock is stopped (R36); a frame that is whole in the device waits
for its cells alone. -/
def wantsCell (s : State) (h : Nat) (x : Frame) : Bool :=
  match copyOf x h with
  | none => false
  | some c =>
    !c.tailMark && !c.dropped && (isHost x || x.asks.isSome || bit s.slices.running (x.port / 16)) && decide (c.cells.length < max 1 (cellsFor (if isHost x || x.rxDone then (effBytes x).length else rxBytes x s.clk.edges)))

/-- The level 0 cells of a copy that its frame's admission has yet to rebook (R277, R285). -/
def unbooked (x : Frame) (h : Nat) : List Nat :=
  match copyOf x h with
  | none => []
  | some c => if x.admitting.isSome && !c.undecided && !c.dropped then (c.cells.filter (fun e => e.2 == 0)).map (·.1) else []

/-- Has a copy of a frame a request at the accounting stage of a half: a take or a rebooking (R279). -/
def wants (s : State) (h : Nat) (x : Frame) : Bool := wantsCell s h x || !(unbooked x h).isEmpty

/-- The rank of a request: TC7 copies first, then by slice from the rotation pointer, then in order of arrival (R279). -/
def reqRank (s : State) (u : Nat) (x : Frame) : Nat × Nat × Nat :=
  (if x.early = 7 then 0 else 1, (x.port / 16 + 4 - s.clk.edges % 4) % 4, u)
def rankLt (a b : Nat × Nat × Nat) : Bool :=
  decide (a.1 < b.1) || (a.1 == b.1 && (decide (a.2.1 < b.2.1) || (a.2.1 == b.2.1 && decide (a.2.2 < b.2.2))))

/-- The best request of a half, other than one already served. -/
def bestReq (s : State) (h : Nat) (skip : Option Nat) : Option Nat :=
  ((s.frames.filter (fun e => wants s h e.2 && some e.1 != skip)).foldl (fun (b : Option (Nat × (Nat × Nat × Nat))) e =>
    let r := reqRank s e.1 e.2
    match b with
    | none => some (e.1, r)
    | some (u, q) => if rankLt r q then some (e.1, r) else some (u, q)) none).map (·.1)

/-- A PAUSE or PFC frame sent, as counter k of the MAC and as a multicast frame of 64 bytes (R119). -/
def countPause (p k : Nat) (s : State) : State := macCtr p 36 1 (macCtr p 32 1 (macCtr p 30 1 (macCtr p 29 64 (macCtr p k 1 s))))

/-- Pause or PFC toward the partner (R118): the port-pool threshold that triggers it is not stated, so a free value decides, and
the pause time is a free value (log 22). With both PAUSE_TX and PFC_TX set, PFC is sent for TC0-TC6 and PAUSE for TC7 (DESIGN CHOICE, log 87). -/
def pauseTx (p k : Nat) (s : State) : State :=
  let c := (port s p).cfg
  if !c.pauseTx && !(c.pfcTx && k < 7) then s
  else
    let (go, s1) := takeFree 1 s
    if go = 0 then s1
    else
      let (t, s2) := takeFree 16 s1
      if c.pfcTx && k < 7 then
        countPause p 35 (emitOut (.control p (toBE 2 0x8808 ++ toBE 2 0x0101 ++ toBE 2 (2 ^ k) ++
          (List.range 8).flatMap (fun i => toBE 2 (if i = k then t else 0)))) s2)
      else countPause p 34 (emitOut (.control p (toBE 2 0x8808 ++ toBE 2 0x0001 ++ toBE 2 t)) s2)

/-- A copy that finds no descriptor is dropped: a TC7 frame then goes on with its other copy, where that has one; else the frame counts in DESC_DROPS,
with its last copy (R273, R274). A refill waits (R287). -/
def noDescriptor (u h : Nat) (s : State) : State :=
  let x := frame s u
  match x.asks with
  | some (_, .refill i) => askFails u h (.refill i) s
  | some (_, a) => gctr 8 h (askFails u h a s)
  | none => if x.early = 7 && (copyOf x (1 - h)).isSome then loseOne u h s else gctr 8 (frameHalf s x) (dropCopy u h s)

/-- One request served: the walk, the take, and the charge (R267, R278). -/
def serveReq (h u : Nat) (disturbed : Option Nat) (s : State) : State :=
  let x := frame s u
  let c := (copyOf x h).getD {}
  let first := c.cells.isEmpty
  if !halfOpen s h then requestFails u h (if c.undecided then 0 else 4) false false first s
  else
    let room := decide (tget 0 (half s h).head x.port < (portPool s x.port).headroom)
    let w := if c.undecided then (if isHost x then walk s x.queue x.class_ x.port h false true else if room then .level 0 else .full 0)
      else walk s x.queue x.class_ x.port h x.dropElig (isHost x)
    match w with
    | .limit => requestFails u h 4 false true first s
    | .full l => requestFails u h l (l == 0) false first s
    | .level l =>
      let noDesc := first && (descFree s = 0 || (x.early < 7 && descFree s ≤ s.gran.descReserve))
      let lone := first && x.early = 7 && descFree s = 1 && h != s.hl.lead && (copyOf x (1 - h)).any (·.cells.isEmpty)
      if lone then loseFirst u h s
      else if noDesc then noDescriptor u h s
      else
        match takeCell h disturbed s with
        | (none, s1) => requestFails u h l false false first s1
        | (some cell, s1) =>
          let (d, s2) := if first then takeDesc s1 else (c.desc, s1)
          let s3 := modCopy u h (fun c => { c with desc := d, cells := c.cells ++ [(cell, l)] }) (chargeLevel h l x.class_ x.port (isHost x) true s2)
          let s4 := if first && c.alone then singleWrite s3 else s3
          let s4 := if l = 0 then s4 else countCell x.queue x.class_ h true s4
          if l = 3 then pauseTx x.port (if x.admitted then x.class_ else x.early) s4 else s4

/-! ## REBUILD_SCAN_COMPLETE (R269, R270) -/

def insertSorted (c : Nat) : List Nat → List Nat
  | [] => [c]
  | d :: r => if c < d then c :: d :: r else if c = d then d :: r else d :: insertSorted c r

/-- The ranges of a rising list of single cells and given ranges, in index order. -/
def toRuns (cells : List Nat) (runs : List (Nat × Nat)) : List (Nat × Nat) :=
  let all := cells.map (fun c => (c, c)) ++ runs
  (all.foldl (fun (acc : List (Nat × Nat)) r => insertRun r acc) [])
where
  insertRun (r : Nat × Nat) : List (Nat × Nat) → List (Nat × Nat)
    | [] => [r]
    | q :: t => if r.1 < q.1 then r :: q :: t else q :: insertRun r t

/-- A range without one cell. -/
def cutRun (c : Nat) (l : List (Nat × Nat)) : List (Nat × Nat) :=
  l.flatMap (fun r => if r.1 ≤ c && c ≤ r.2 then
    ((if r.1 < c then [(r.1, c - 1)] else []) ++ (if c < r.2 then [(c + 1, r.2)] else [])) else [r])

/-- REBUILD_SCAN_COMPLETE: the quarantined cells are threaded in index order; those whose word fails the read back retire. -/
def execRebuildScanComplete (h : Nat) (bad : List Nat) (s : State) : Host.Outcome State Fault Refusal :=
  if s.clk.coreStopped then .next s else
  let h := h % 2
  let x := half s h
  match x.rebuilding with
  | none => .next s
  | some _ =>
    let runs0 := toRuns (x.quarantined ++ x.quarantined1) (x.quarRuns ++ x.quarRuns1)
    let dead := bad.filter (fun c => runs0.any (fun r => r.1 ≤ c && c ≤ r.2))
    let runs := dead.foldl (fun l c => cutRun c l) runs0
    let s1 := modHalf h (fun x => { x with runs := x.runs ++ runs, quarantined := [], quarRuns := [], quarantined1 := [], quarRuns1 := [], rebuilding := none,
                                           retired := dead.foldl (fun l c => insertSorted c l) x.retired }) s
    let s2 := dead.foldl (fun s _ => fire (0x202 + h) 0 [] s) s1
    .next (fire (0x200 + h) 0x80 (toLE 4 (runLen runs)) (gctr 11 h s2))

/-! ## Residence (R290) -/

def resLimit (s : State) (k : Nat) : Nat := (tget? s.gran.residence k).getD (if k = 7 then 1 else 100)

/-- Has a frame of a class expired. -/
def expired (s : State) (x : Frame) : Bool :=
  let lim := resLimit s x.class_
  x.limited && lim != 0 && decide (lim * 1000 < (arrivalUs s + 2 ^ 32 - x.arrUs) % 2 ^ 32)

/-- Have a furrow's lanes room for the n entries of a frame of class k (R288). -/
def laneRoom (s : State) (f k n : Nat) : Bool :=
  let free := 262144 - laneUsed s f
  if k = 7 then decide (n ≤ free) else decide (n + s.gran.laneReserve ≤ free)

/-- A frame that finds no lane entries counts once in LANE_FULL_DROPS (R288). -/
def laneFullDrop (u : Nat) (s : State) : State :=
  let x := frame s u
  fireMs 0 0x209 0 [] (if x.laneFull then s else gctr 9 (frameHalf s x) (modFrame u (fun x => { x with laneFull := true }) s))

/-- The head of a lane is checked; an expired entry whose head has not left is removed. -/
def residenceCheck (f key : Nat) (s : State) : State :=
  match laneOf s f key with
  | [] => s
  | e :: r =>
    let x := frame s e.uid
    if e.moved = 0 && expired s x then
      let s1 := setLane f key r s
      let s2 := gctr (18 + x.class_) e.half (modQueue x.queue (fun q => { q with dropSeen := true }) s1)
      let s3 := fireMs 0 0x207 0 (toLE 1 x.class_ ++ toLE 1 e.half) s2
      if e.spill then s3
      else tryReturn e.uid e.half (modCopy e.uid e.half (fun c => { c with fanout := c.fanout - 1 }) s3)
    else setLane f key ({ e with checkedAt := s.clk.edges } :: r) s

/-! ## Commands (R294-R297) -/

def specPoolRead : CmdSpec := { opcode := 0x0802, priv := 0, mask := 0xF, lenOk := len 4 }
/-- R295. -/
def bodyPoolRead (p : Packet) (s : State) : CmdResult :=
  let b := p.params
  let h := byteAt b 0
  let pt := byteAt b 1
  checked [(h < 2, 0), (portExists s pt, 1), (reservedAt b 2 2, 2)] <|
  let x := half s h
  let t := touchPort pt true s
  if !powered s h then .ok (zeros 12 ++ toLE 1 3 ++ zeros 55 ++ toLE 4 (descFree s)) t
  else
    let st := if furState s h != 0 || x.fenced then 2 else if x.rebuilding.isSome then 1 else 0
    .ok (toLE 4 (freeCells x) ++ toLE 4 (quarCells x) ++ toLE 4 x.retired.length ++ toLE 1 st ++ zeros 3 ++
      toLE 4 (s.gran.streamPool - x.stream) ++ (List.range 8).flatMap (fun k => toLE 4 (classMin s k - tget 0 x.cls k)) ++
      toLE 4 ((portPool s pt).portMin - tget 0 x.port pt) ++ toLE 4 (tget 0 x.shared pt) ++
      toLE 4 ((portPool s pt).headroom - tget 0 x.head pt) ++ toLE 4 (sharedFree s h) ++ toLE 4 (descFree s)) t
def execPoolRead (p : Packet) (s : State) : Host.Outcome State Fault Refusal := serveCmd specPoolRead bodyPoolRead p s

/-- The 96-bit descriptor of a queue (R282): HEAD and TAIL name the oldest and the newest descriptor of its list. -/
def queueWord (s : State) (q : Queue) : Nat :=
  q.kind * 2 ^ 95 + q.state * 2 ^ 93 + q.profile * 2 ^ 85 + min q.frames 65535 * 2 ^ 69 + min (if q.kind = 1 then 0 else q.cells) 65535 * 2 ^ 53 +
  q.list.head?.elim 0 (frameDesc s) * 2 ^ 36 + q.list.getLast?.elim 0 (frameDesc s) * 2 ^ 19 + q.spilled * 4 + b2n q.dropSeen * 2 + b2n (!q.list.isEmpty)

def specResidenceLimitSet : CmdSpec := { opcode := 0x0804, priv := 1, mask := 0x7, lenOk := len 20 }
/-- R297. -/
def bodyResidenceLimitSet (p : Packet) (s : State) : CmdResult :=
  let b := p.params
  let m := byteAt b 16
  checked ((List.range 8).map (fun k => (!bit m k || le b (2 * k) 2 ≤ 1000, 2 * k)) ++ [(reservedAt b 17 3, 17)]) <|
  .ok [] (modGran (fun g => { g with residence := (bitList 8 m).foldl (fun t k => tput t k (le b (2 * k) 2)) g.residence }) s)
def execResidenceLimitSet (p : Packet) (s : State) : Host.Outcome State Fault Refusal :=
  serveCmd specResidenceLimitSet bodyResidenceLimitSet p s

end Sys2Proof.Machine
end

