-- ==== Sys2Proof/Machine/Meter.lean ====
section
/-! DEFINITION. Shapers, meters and stream filters (spec/10 R325, R327-R338, R356). -/

namespace Sys2Proof.Machine

/-! ## Expected length (R325) -/

/-- The expected length E of a frame. -/
def expectOf (s : State) (x : Frame) : Nat :=
  let most := (port s x.port).cfg.maxFrame
  let pf := pframe s s.hl.lead x
  let n := if x.rxDone then (effBytes x).length else
    let h := headerLength pf (parse pf)
    if h = 0 then most else h
  max 64 (min most n)

/-! ## Shapers (R327-R329) -/

/-- Tokens that a cell time of 6.4 ns adds: RATE x 8 x 10^-7 bytes, rounded down to 2^-40 byte. -/
def shaperStep (rate : Nat) : Nat := rate * 8 * 2 ^ 40 / 10 ^ 7

/-- A shaper with every cell time up to an edge added. -/
def shaperAt (e : Nat) (h : Shaper) : Shaper :=
  { h with t := min ((h.burst * 2 ^ 40 : Nat) : Int) (h.t + ((e / 8 - h.at_ / 8) * shaperStep h.rate : Nat)), at_ := max e h.at_ }

/-- A shaper configured at an edge: T starts at BURST. -/
def shaperNew (e rate burst : Nat) : Shaper := { rate := rate, burst := burst, t := ((burst * 2 ^ 40 : Nat) : Int), at_ := e }

/-- A number of bytes taken. -/
def shaperTake (n : Nat) (h : Shaper) : Shaper := { h with t := h.t - ((n * 2 ^ 40 : Nat) : Int) }

/-- The whole bytes of a count, as a signed word. -/
def wholeBytes (t : Int) : Nat := unsigned 32 (t / 2 ^ 40)

def classShaper (s : State) (p k : Nat) : Shaper := shaperAt s.clk.edges (tget {} (port s p).drill.shapers k)
def modDrill (p : Nat) (g : Drill → Drill) (s : State) : State := modPort p (fun x => { x with drill := g x.drill }) s
def dctrN (k n p : Nat) (s : State) : State := modDrill p (fun d => { d with ctr := cinc d.ctr k n }) s
def dctr (k p : Nat) (s : State) : State := dctrN k 1 p s

/-- A Drill finding: the cause on the port's link and statistics source, at most once per 1 ms for each cause (R353). -/
def drillFind (p cause : Nat) (payload : List Byte) (s : State) : State := fireMs cause (4 * p) cause payload s

/-! ## Meters (R330-R335) -/

def meterOn (m : Meter) : Bool := m.cir != 0 || m.pir != 0

/-- A meter as METER_SET configures it: full buckets, zeroed counters, not blocked (R332). -/
def meterFresh (m : Meter) : Meter :=
  { m with tc := ((m.cbs * 2 ^ 40 : Nat) : Int), tp := ((m.pbs * 2 ^ 40 : Nat) : Int), blocked := false,
           green := 0, yellow := 0, red := 0, drops := 0, base := [] }

/-- Tokens of a rate over an interval in nanoseconds. -/
def meterGain (rate ns : Nat) : Nat := rate * ns * 2 ^ 40 / 8000000

/-- A frame's ingress time refills a meter if it is later than the last (R332). -/
def meterFill (ns : Nat) (m : Meter) : Meter :=
  if m.last < ns then
    { m with tc := min ((m.cbs * 2 ^ 40 : Nat) : Int) (m.tc + meterGain m.cir (ns - m.last)),
             tp := min ((m.pbs * 2 ^ 40 : Nat) : Int) (m.tp + meterGain m.pir (ns - m.last)), last := ns }
  else m

/-- The mark of a frame of b bytes (R333): the colour, and which buckets give b bytes. Colours: 0 green, 1 yellow, 2 red. -/
def meterMark (m : Meter) (b colour : Nat) : Nat × Bool × Bool :=
  let n : Int := ((b * 2 ^ 40 : Nat) : Int)
  let aware := bit m.mode 0
  if aware && colour == 2 then (2, false, false)
  else if m.tp < n then (2, false, false)
  else if aware && colour == 1 then (1, false, true)
  else if m.tc < n then (1, false, true)
  else (0, true, true)

def meterTake (b : Nat) (tc tp : Bool) (m : Meter) : Meter :=
  let n : Int := ((b * 2 ^ 40 : Nat) : Int)
  { m with tc := if tc then m.tc - n else m.tc, tp := if tp then m.tp - n else m.tp }

def meterCount (c : Nat) (m : Meter) : Meter :=
  match c with
  | 0 => { m with green := wrap32 (m.green + 1) }
  | 1 => { m with yellow := wrap32 (m.yellow + 1) }
  | _ => { m with red := wrap32 (m.red + 1) }

def meter (s : State) (i : Nat) : Meter := tget {} s.meters i
def modMeter (i : Nat) (g : Meter → Meter) (s : State) : State := { s with meters := tmod {} s.meters i g }

/-- An uncorrectable meter word (R43, R336): it counts, the meter is as configured anew, and the event fires; by is the ingress port of the frame that found it, or 0xFF. -/
def meterFault (i by_ : Nat) (s : State) : State :=
  let s1 := modMeter i meterFresh (memUnc 32 s)
  if 0x8000 ≤ i then drillFind ((i - 0x8000) / 8) 0x27 [] s1
  else fire 0x20D 0 (toLE 2 i ++ toLE 1 by_ ++ toLE 1 0 ++ toLE 4 0) s1

/-- What metering answers: drop, drop-eligible, and what each meter gave. -/
structure Metered where
  drop : Bool := false
  de : Bool := false
  colour : Nat := 0
  debits : List Debit := []
  /-- A nonzero MAX_SDU of the stream meter (R337). -/
  sdu : Nat := 0

/-- The colour that an action code follows: 0 forward, 1 mark, 2 drop (R334). -/
def meterAction (m : Meter) (cls colour : Nat) : Nat :=
  if colour = 0 then 0 else if cls = 7 then 2 else if colour = 1 then m.actions % 4 else m.actions / 4 % 4

/-- BLOCKED is set (R337). -/
def meterBlock (i p : Nat) (s : State) : State :=
  drillFind p 0x24 (toLE 2 i) (modMeter i (fun m => { m with blocked := true }) s)

/-- One meter's step: bad marks the frame green against a meter initialised anew (R336). -/
def meterStep (i : Nat) (x : Frame) (cls e : Nat) (bad : Bool) (r : Metered) (s : State) : Metered × State :=
  if bad then
    let s1 := modMeter i (fun m => meterCount 0 (meterTake e true true (meterFill x.ns m))) (meterFault i x.port s)
    ({ r with colour := 0, debits := { meter := i, tc := true, tp := true } :: r.debits }, s1)
  else
    let m := meterFill x.ns (meter s i)
    let (c, tc, tp) := meterMark m e r.colour
    let act := meterAction m cls c
    let s1 := { s with meters := tset {} s.meters i (meterCount c (meterTake e tc tp m)) }
    let s2 := if c == 2 && bit m.mode 1 && i < 0x8000 then meterBlock i x.port s1 else s1
    ({ r with colour := c, drop := act == 2, de := r.de || act == 1,
              debits := if tc || tp then { meter := i, tc := tc, tp := tp } :: r.debits else r.debits }, s2)

/-- The stream filter drops the frame (R337). -/
def filterDrops (m : Meter) (e : Nat) : Bool := m.blocked || (m.maxSdu != 0 && decide (m.maxSdu < e))

/-- The colour that a frame comes with, from its ingress port's map (R335). -/
def precolour (s : State) (x : Frame) : Nat :=
  let p := parse (pframe s s.hl.lead x)
  let v := if p.tags = 0 then x.defaultPcp * 2 else fieldVal p 5 / 4096
  (port s x.port).drill.colourMap / 4 ^ (v % 16) % 4

/-- The meter step of admission (R331). badS, badC: the word of the stream or class meter is uncorrectable. -/
def meterFrame (x : Frame) (cls metr : Nat) (badS badC : Bool) (s0 : State) : Metered × State :=
  let s := if 0x8000 ≤ metr then { s0 with meterInvalid := wrap32 (s0.meterInvalid + 1) } else s0
  let e := expectOf s x
  let i := if 0x8000 ≤ metr then 0 else metr
  let r0 : Metered := { colour := precolour s x }
  let (r1, s1) :=
    if i = 0 || !meterOn (meter s i) then (r0, s)
    else if badS then meterStep i x cls e true r0 s
    else if filterDrops (meter s i) e then
      let tooLong := !(meter s i).blocked && bit (meter s i).mode 2
      let s1 := modMeter i (fun m => { m with drops := wrap32 (m.drops + 1) }) s
      ({ r0 with drop := true }, if tooLong then meterBlock i x.port s1 else s1)
    else meterStep i x cls e false r0 s
  let r1 := { r1 with sdu := if i = 0 || !meterOn (meter s i) then 0 else (meter s i).maxSdu }
  let c := 0x8000 + 8 * x.port + cls
  if r1.drop || !meterOn (meter s1 c) then (r1, s1) else meterStep c x cls e badC r1 s1

/-- The correction at frame end (R338): E - L bytes go back to each bucket that gave. -/
def meterCorrect (x : Frame) (e l : Nat) (s : State) : State :=
  let d : Int := ((e : Int) - (l : Int)) * 2 ^ 40
  x.debits.foldl (fun s b => modMeter b.meter (fun m =>
    { m with tc := if b.tc then min ((m.cbs * 2 ^ 40 : Nat) : Int) (m.tc + d) else m.tc
             tp := if b.tp then min ((m.pbs * 2 ^ 40 : Nat) : Int) (m.tp + d) else m.tp }) s) s

/-! ## METER_SET (R356) -/

def specMeterSet : CmdSpec :=
  { opcode := 0x0903, priv := 1, mask := 0x7, lenOk := lenForms 0 [(0, len 28), (1, len 12), (2, len 8), (3, len 8)] }

def meterIndexOk (s : State) (i : Nat) : Bool := i != 0 && decide (i < 0x8200) && (decide (i < 0x8000) || portExists s ((i - 0x8000) / 8))

/-- READ's CLEAR counts off what it returns (R356, R449). -/
def meterClear (m : Meter) : Meter :=
  { m with base := tset 0 (tset 0 (tset 0 (tset 0 [] 0 m.green) 1 m.yellow) 2 m.red) 3 m.drops }

def meterReply (i : Nat) (m : Meter) : List Byte :=
  toLE 2 i ++ toLE 1 m.mode ++ toLE 1 m.actions ++ toLE 4 m.cir ++ toLE 4 m.cbs ++ toLE 4 m.pir ++ toLE 4 m.pbs ++ toLE 2 m.maxSdu ++
  toLE 1 (b2n m.blocked) ++ zeros 1 ++ toLE 4 (wholeBytes m.tc) ++ toLE 4 (wholeBytes m.tp) ++
  ([m.green, m.yellow, m.red, m.drops].zipIdx.flatMap (fun e => toLE 4 (e.1 + 2 ^ 32 - tget 0 m.base e.2)))

/-- The port that a meter index names: that of a class meter. -/
def meterPorts (i : Nat) : List Nat := if 0x8000 ≤ i then [(i - 0x8000) / 8] else []

/-- R356. For an uncorrectable word of the colour map R45 has no row: it is counted and the command answers HW_FAULT (DEDUCED, log 91). -/
def bodyMeterSet (p : Packet) (s : State) : CmdResult :=
  let b := p.params
  let i := le b 4 2
  match byteAt b 0 with
  | 0 =>
    let mode := byteAt b 6
    let act := byteAt b 7
    let cir := le b 8 4
    let cbs := le b 12 4
    let pir := le b 16 4
    let pbs := le b 20 4
    let sdu := le b 24 2
    let on := cir != 0 || pir != 0
    let burst := fun n => !on || (64 ≤ n && n ≤ 16777215)
    let isClass := decide (0x8000 ≤ i)
    checked [(reservedAt b 1 3, 1), (meterIndexOk s i, 4), (mode < 8 && !(isClass && (bit mode 1 || bit mode 2)), 6),
      (act < 16 && act % 4 ≤ 2 && act / 4 ≤ 2, 7), (cir ≤ 100000000, 8), (burst cbs, 12), (cir ≤ pir && pir ≤ 100000000, 16), (burst pbs, 20),
      ((sdu == 0 || (64 ≤ sdu && sdu ≤ 9216)) && !(isClass && sdu != 0), 24), (reservedAt b 26 2, 26)] <|
    unlessUpset p (meterFault i 0xFF) s <|
    .ok [] <| touchPorts (meterPorts i) { s with meters := tset {} s.meters i (meterFresh
      { mode := mode, actions := act, cir := cir, cbs := cbs, pir := pir, pbs := pbs, maxSdu := sdu, last := (meter s i).last }) }
  | 1 =>
    let pt := byteAt b 4
    let m := le b 8 4
    checked [(reservedAt b 1 3, 1), (portExists s pt, 4), (reservedAt b 5 3, 5),
      ((List.range 16).all (fun n => m / 4 ^ n % 4 != 3), 8)] <|
    unlessUpset p (memUnc 32) s <|
    .ok [] (modDrill pt (fun d => { d with colourMap := m }) (touchPort pt true s))
  | 2 =>
    checked [(reservedAt b 1 3, 1), (meterIndexOk s i, 4), (byteAt b 6 ≤ 1, 6), (reservedAt b 7 1, 7)] <|
    unlessUpset p (meterFault i 0xFF) s <|
    .ok (meterReply i (meter s i))
      (touchPorts (meterPorts i) (if byteAt b 6 = 1 then modMeter i meterClear s else s))
  | 3 =>
    checked [(reservedAt b 1 3, 1), (meterIndexOk s i, 4), (reservedAt b 6 2, 6)] <|
    unlessUpset p (meterFault i 0xFF) s <|
    .ok [] (touchPorts (meterPorts i) (modMeter i (fun m => { m with blocked := false }) s))
  | _ => .badParam 0
def execMeterSet (p : Packet) (s : State) : Host.Outcome State Fault Refusal := serveCmd specMeterSet bodyMeterSet p s

end Sys2Proof.Machine
end

