-- ==== Sys2Proof/Machine/Winnow.lean ====
section
/-! DEFINITION. Winnow: twin histories, turn filters, PRP, HSR and 802.1CB, and their commands (spec/11 R359-R371, R382, R396-R399). -/

namespace Sys2Proof.Machine

/-! ## The egress buffer's copies -/

def wctr (k p : Nat) (s : State) : State := modPort p (fun x => { x with win := { x.win with ctr := cinc x.win.ctr k 1 } }) s
def modWin (p : Nat) (g : Winnow → Winnow) (s : State) : State := modPort p (fun x => { x with win := g x.win }) s

def isEg (u i : Nat) (c : EgCopy) : Bool := c.uid == u && c.id == i
def egCopy (s : State) (p u i : Nat) : Option EgCopy := (port s p).drill.buf.find? (isEg u i)
def modEg (p u i : Nat) (g : EgCopy → EgCopy) (s : State) : State :=
  modDrill p (fun d => { d with buf := d.buf.map (fun c => if isEg u i c then g c else c) }) s

/-- The class queue of a port. -/
def egQueue (s : State) (p k : Nat) : List (Nat × Nat) := tget [] (port s p).drill.queues k

/-- The word with LAST and ABANDON by which an output closes a lane entry (R299, R305). -/
def abandonWord (p : Nat) (c : EgCopy) (e : Entry) : LinkWord :=
  { out := p, uid := c.uid, id := c.id, word := e.moved
    tag := 2 ^ 5 + b2n c.mirror.isSome * 2 ^ 6 + b2n e.cutThrough * 2 ^ 7 + c.fur * 2 ^ 8 + c.cls * 2 ^ 9 + 2 ^ 14 }

/-- The lane entry of a copy toward a port closes with LAST and ABANDON; FANOUT falls and the copy may return (R305, R359). -/
def closeEntry (p : Nat) (c : EgCopy) (s : State) : State :=
  let mine := fun (e : Entry) => e.uid == c.uid && (match c.mirror, e.mirror with
    | none, none => true
    | some (m, _), some (n, _) => m == n
    | _, _ => false) && !e.spill
  let gone := (fur s c.fur).lanes.flatMap (fun e => if e.1 / 8 % 72 = p then e.2.filter mine else [])
  let keep := fun (e : Nat × List Entry) =>
    if e.1 / 8 % 72 = p then
      let l := e.2.filter (fun y => !mine y)
      if l.isEmpty then none else some (e.1, l)
    else some e
  let s1 := modFur c.fur (fun x => { x with lanes := x.lanes.filterMap keep, xb := { x.xb with link := x.xb.link ++ gone.map (abandonWord p c) } }) s
  gone.foldl (fun s e => tryReturn c.uid e.half (modCopy c.uid e.half (fun x => { x with fanout := x.fanout - 1 }) s)) s1

/-- A copy leaves the egress buffer. -/
def removeEg (p : Nat) (c : EgCopy) (s : State) : State :=
  let s1 := modDrill p (fun d =>
    let q := (tget [] d.queues c.cls).filter (fun e => !(e.1 == c.uid && e.2 == c.id))
    { d with buf := d.buf.filter (fun y => !isEg c.uid c.id y), queues := tset [] d.queues c.cls q }) s
  reap c.uid (closeEntry p c s1)

/-- A copy that has passed every check enters its class queue (R364). -/
def enqueueEg (p u i : Nat) (s : State) : State :=
  match egCopy s p u i with
  | none => s
  | some c =>
    modDrill p (fun d => { d with queues := tset [] d.queues c.cls (tget [] d.queues c.cls ++ [(u, i)]) })
      (modEg p u i (fun c => { c with state := 1, waits := none }) s)

/-! ## Slots (R361, R362) -/

def slotGet (v i : Nat) : Nat := v / 4 ^ (i % 256) % 4
def slotSet (v i n : Nat) : Nat := v - slotGet v i * 4 ^ (i % 256) + n * 4 ^ (i % 256)
/-- n slots from tag t on are set OPEN. -/
def slotsOpen (v t : Nat) : Nat → Nat
  | 0 => v
  | n + 1 => slotsOpen (slotSet v t 0) (t + 1) n

/-- What a check rules: pass, defer on a SENDING copy, or drop. -/
inductive WinRule where
  | pass
  | defer (u i : Nat)
  | drop

/-- The copy that holds a slot SENDING: the one that took it last. -/
def holderOf (s : State) (p kind key slot : Nat) : Option EgCopy :=
  ((port s p).drill.buf.filter (fun c => c.holds.any (fun h => !h.gone && h.kind == kind && h.key == key && h.slot == slot))).getLast?

/-- The history or entry by which copies at a port hold slots is cleared: their outcomes update no slot of it any more (R363). -/
def clearHolds (p kind key : Nat) (s : State) : State :=
  modDrill p (fun d => { d with buf := d.buf.map (fun c =>
    { c with holds := c.holds.map (fun h => if h.kind = kind && h.key = key then { h with gone := true } else h) }) }) s

/-- Is a copy of furrow f deferred on a holder at this check. -/
def deferredOn (s : State) (p kind u i f : Nat) : Bool :=
  (port s p).drill.buf.any (fun c => c.state == 2 && c.waitKind == kind && c.fur == f && c.waits == some (u, i))

/-- Rows 5 to 7 of R362 for a copy of furrow f on a slot's state: 5 pass, 6 defer, 7 drop. -/
def slotRow (slot f : Nat) (deferred : Bool) : Nat :=
  if slot = 0 then 5 else if slot != 3 && slot != 1 + f && !deferred then 6 else 7

def addHold (p u i : Nat) (h : Hold) (s : State) : State := modEg p u i (fun c => { c with holds := h :: c.holds }) s

/-- Rows 5 to 7 applied: set writes the slot's state. -/
def ruleSlot (p u i f kind key slot st : Nat) (set : Nat → State → State) (cPass cDup : Nat) (s : State) : WinRule × State :=
  let h := holderOf s p kind key slot
  let dfr := match h with | some c => deferredOn s p kind c.uid c.id f | none => false
  match slotRow st f dfr, h with
  | 5, _ => (.pass, wctr cPass p (addHold p u i { kind := kind, key := key, slot := slot } (set (1 + f) s)))
  | 6, some c => (.defer c.uid c.id, s)
  | _, _ => (.drop, wctr cDup p s)

/-! ## Check 2: twin (R362) -/

def twin (s : State) (p i : Nat) : Twin := tget {} (port s p).win.twins i
def setTwin (p i : Nat) (t : Twin) (s : State) : State := modWin p (fun w => { w with twins := tset {} w.twins i t }) s

/-- TWIN_STALE and its event (R391). -/
def twinStale (p : Nat) (s : State) : State := fireMs 0 0x1EA 0x01 [] (wctr 4 p s)

def usSince (now t : Nat) : Nat := (now + 2 ^ 32 - t) % 2 ^ 32

/-- The window after rows 2 and 3 for a tag, or none where row 4 applies. -/
def twinSlide (now t : Nat) (w : Twin) : Option Twin :=
  if !w.valid || 200 < usSince now w.lastUs then some { w with valid := true, top := t, slots := 0 }
  else
    let ahead := (t + 65536 - w.top) % 65536
    if 0 < ahead && ahead < 32768 then
      some { w with top := t, slots := if 256 ≤ ahead then 0 else slotsOpen w.slots (w.top + 1) ahead }
    else if 256 ≤ (w.top + 65536 - t) % 65536 then none
    else some w

def checkTwin (p u i : Nat) (c : EgCopy) (x : Frame) (s : State) : WinRule × State :=
  let now := arrivalUs s
  if 200 < usSince now x.arrUs then (.drop, twinStale p s)
  else
    match twinSlide now x.tag (twin s p x.port) with
    | none => (.drop, twinStale p s)
    | some w =>
      let w1 := { w with topUs := now % 32768, lastUs := now }
      ruleSlot p u i c.fur 1 x.port x.tag (slotGet w1.slots x.tag)
        (fun v s => setTwin p x.port { w1 with slots := slotSet w1.slots x.tag v } s) 0 1 (setTwin p x.port w1 s)

/-! ## Check 3: turn filter (R382) -/

def inOverlap (s : State) (ns : Nat) : Bool := match s.hl.overlap with | some (a, b) => decide (a ≤ ns && ns < b) | none => false
def turnKey (x : Frame) : Nat := (x.port * 8 + x.early) * 65536 + x.tag
def isTurn (k : Nat) (e : TurnEntry) : Bool := (e.port * 8 + e.early) * 65536 + e.tag == k
def turnEntry (s : State) (p k : Nat) : Option TurnEntry := (port s p).win.filter.find? (isTurn k)
def modTurn (p k : Nat) (g : TurnEntry → TurnEntry) (s : State) : State :=
  modWin p (fun w => { w with filter := w.filter.map (fun e => if isTurn k e then g e else e) }) s
def freeTurn (p k : Nat) (s : State) : State := clearHolds p 2 k (modWin p (fun w => { w with filter := w.filter.filter (fun e => !isTurn k e) }) s)

/-- A copy of the entry has been passed or dropped: the second frees it. -/
def turnSeen (p k : Nat) (s : State) : State :=
  match turnEntry s p k with
  | none => s
  | some e => if 1 ≤ e.seen then freeTurn p k s else modTurn p k (fun e => { e with seen := e.seen + 1 }) s

/-- The oldest entry makes room in a full filter. -/
def turnRoom (p : Nat) (s : State) : State :=
  let l := (port s p).win.filter
  if l.length < 2048 then s
  else
    match l with
    | [] => s
    | e0 :: r =>
      let old := r.foldl (fun a e => if e.ns < a.ns then e else a) e0
      fireMs 0 0x1EA 0x02 [] (wctr 8 p (freeTurn p ((old.port * 8 + old.early) * 65536 + old.tag) s))

/-- TURN_REORDERS: a tag below that of the last copy passed for the pair. -/
def noteOrder (p : Nat) (c : EgCopy) (x : Frame) (s : State) : State :=
  let key := 8 * x.port + c.cls
  let late := match tget? (port s p).win.lastTag key with
    | some l => decide (0 < (l + 65536 - x.tag) % 65536) && decide ((l + 65536 - x.tag) % 65536 < 32768)
    | none => false
  modWin p (fun w => { w with lastTag := tput w.lastTag key x.tag }) (if late then wctr 7 p s else s)

def checkTurn (p u i : Nat) (c : EgCopy) (x : Frame) (s : State) : WinRule × State :=
  if !(c.cls < 7 && inOverlap s x.ns) then (.pass, if c.cls < 7 then modWin p (fun w => { w with lastTag := tput w.lastTag (8 * x.port + c.cls) x.tag }) s else s)
  else
    let k := turnKey x
    let s1 := match turnEntry s p k with
      | some _ => s
      | none => modWin p (fun w => { w with filter := { port := x.port, early := x.early, tag := x.tag, ns := x.ns, cls := c.cls } :: w.filter })
          (turnRoom p s)
    let st := match turnEntry s1 p k with | some e => e.slot | none => 0
    match ruleSlot p u i c.fur 2 k x.tag st (fun v s => modTurn p k (fun e => { e with slot := v }) s) 5 6 s1 with
    | (.pass, s2) => (.pass, noteOrder p c x (turnSeen p k s2))
    | (.drop, s2) => (.drop, turnSeen p k s2)
    | r => r

/-! ## PRP networks and HSR rings (R367-R370) -/

def prpNet (s : State) (n : Nat) : PrpNet := tget {} s.red.prp n
def hsrRing (s : State) (n : Nat) : HsrRing := tget {} s.red.hsr n
def modRed (g : Redund → Redund) (s : State) : State := { s with red := g s.red }

/-- The network of a port and its LAN, 0 for A. -/
def netOf (s : State) (p : Nat) : Option (Nat × Nat) :=
  (List.range 4).findSome? (fun n =>
    let w := prpNet s n
    if w.enable && bit w.lanA p then some (n, 0) else if w.enable && bit w.lanB p then some (n, 1) else none)

/-- The ring of a port and its side, 0 for RING_A. -/
def ringOf (s : State) (p : Nat) : Option (Nat × Nat) :=
  (List.range 8).findSome? (fun n =>
    let r := hsrRing s n
    if r.enable && r.portA == p then some (n, 0) else if r.enable && r.portB == p then some (n, 1) else none)

/-- A node entry by what it is keyed with. Codes of networks: 0-3 PRP, 16-23 HSR. -/
def nodeIs (proxy : Bool) (net src egress : Nat) (n : Node) : Bool :=
  n.proxy == proxy && n.net == net && n.src == src && (proxy || n.egress == egress)
def nodeAt (s : State) (proxy : Bool) (net src egress : Nat) : Option Node := s.red.nodes.find? (nodeIs proxy net src egress)
def modNode (proxy : Bool) (net src egress : Nat) (g : Node → Node) (s : State) : State :=
  modRed (fun r => { r with nodes := r.nodes.map (fun n => if nodeIs proxy net src egress n then g n else n) }) s

def forgetMs (s : State) (net : Nat) : Nat := if net < 16 then (prpNet s net).entryForget else (hsrRing s (net - 16)).entryForget
def forgetSec (s : State) (net : Nat) : Nat := if net < 16 then (prpNet s net).nodeForget else (hsrRing s (net - 16)).nodeForget

/-- A new key takes an entry, or none when the table is full (R367). -/
def nodeMake (proxy : Bool) (net src egress : Nat) (s : State) : State :=
  if (nodeAt s proxy net src egress).isSome then s
  else if 16384 ≤ s.red.nodes.length then fireMs 0 0x1EC 0 [] (wctr 22 egress s)
  else modRed (fun r => { r with nodes := { proxy := proxy, net := net, src := src, egress := egress, last := s.clk.edges } :: r.nodes }) s

/-- The next number that a RedBox sends for a source (R367): 0 where no entry can be taken. port is where a miss is counted. -/
def proxySeq (net src port_ : Nat) (s : State) : Nat × State :=
  let s1 := nodeMake true net src port_ s
  match nodeAt s1 true net src 0 with
  | none => (0, s1)
  | some n => (n.seq, modNode true net src 0 (fun n => { n with seq := (n.seq + 1) % 65536, last := s1.clk.edges }) s1)

/-- A discard entry's window moved to hold a sequence number (R361, R367; log 24). -/
def nodeSlide (now forget seq : Nat) (n : Node) : Node :=
  let n := if n.last + forget * msE < now then { n with slots := 0 } else n
  if !n.valid then { n with valid := true, top := seq, slots := 0 }
  else
    let ahead := (seq + 65536 - n.top) % 65536
    if 0 < ahead && ahead < 32768 then
      { n with top := seq, slots := if 256 ≤ ahead then 0 else slotsOpen n.slots (n.top + 1) ahead }
    else if 256 ≤ (n.top + 65536 - seq) % 65536 then { n with top := seq, slots := 0 }
    else n

def nodeKey (net src egress : Nat) : Nat := (net * 2 ^ 48 + src) * 64 + egress

/-- The row of a sequence number in a discard entry: none where the table is full, for the frame then passes unchecked. The window and the
last arrival are updated. -/
def nodeSlot (net src egress seq lan : Nat) (s : State) : Option Nat × State :=
  let s1 := nodeMake false net src egress s
  match nodeAt s1 false net src egress with
  | none => (none, s1)
  | some n =>
    let m := { nodeSlide s1.clk.edges (forgetMs s net) seq n with last := s1.clk.edges, lan := lan }
    (some (slotGet m.slots seq), modNode false net src egress (fun _ => m) s1)

def setNodeSlot (net src egress seq v : Nat) (s : State) : State :=
  modNode false net src egress (fun n =>
    if n.valid && decide ((n.top + 65536 - seq) % 65536 < 256) then { n with slots := slotSet n.slots seq v } else n) s

/-- The header fields of a frame that the redundancy functions read. -/
def winParse (s : State) (f : Nat) (x : Frame) : Parsed := parse (pframe s f x)
def hasTrailer (p : Parsed) : Bool := tmem p.vals 0x0C
def trailerSeq (p : Parsed) : Nat := fieldVal p 0x0C / 65536 % 65536
def trailerLan (p : Parsed) : Nat := fieldVal p 0x0C / 4096 % 16
def hasHsr (p : Parsed) : Bool := tmem p.vals 0x0B
def hsrSeq (p : Parsed) : Nat := fieldVal p 0x0B % 65536
def srcOf (x : Frame) : Nat := be x.bytes 6 6

/-- Does the PRP check apply to a frame at a port (row 4 of R359). -/
def prpApplies (s : State) (p : Nat) (x : Frame) (ps : Parsed) : Bool :=
  x.kind == 0 && (netOf s x.port).isSome && (netOf s p).isNone && (ringOf s p).isNone && hasTrailer ps

/-- From one LAN of a network to the other: dropped at egress (R368). -/
def prpCross (s : State) (inp p : Nat) : Bool :=
  match netOf s inp, netOf s p with
  | some (n, a), some (m, b) => n == m && a != b
  | _, _ => false

/-- The LAN identifier that a port's mask gives (R368): 0xA or 0xB. -/
def lanId (s : State) (p : Nat) : Nat := match netOf s p with | some (_, 1) => 0xB | _ => 0xA

/-- A frame from a network port whose trailer disagrees with the port's mask is counted at the output, and handled as one of the port's LAN (R368). -/
def noteWrongLan (p : Nat) (x : Frame) (ps : Parsed) (s : State) : State :=
  if x.kind == 0 && (netOf s x.port).isSome && hasTrailer ps && trailerLan ps != lanId s x.port then fireMs 0 0x1EB 0x01 [] (wctr 11 p s) else s

/-- A copy that crosses from one LAN to the other. The LAN of its trailer is checked once: where its last word has come it has been, and where the frame has
not ended it waits for that. -/
def checkPrp (p : Nat) (c : EgCopy) (x : Frame) (s : State) : WinRule × State :=
  if x.kind == 0 && prpCross s x.port p then
    (.drop, wctr 12 p (if c.closed then s else if x.rxDone then noteWrongLan p x (winParse s c.fur x) s
      else modFrame c.uid (fun x => { x with lanDue := p :: x.lanDue }) s))
  else (.pass, s)

/-- Check 5. HSR_PASSED counts every copy that it passes, checked against a discard entry or not (R390). -/
def checkHsr (p u i : Nat) (c : EgCopy) (x : Frame) (s : State) : WinRule × State :=
  match ringOf s x.port with
  | none => (.pass, if (ringOf s p).isSome then wctr 13 p s else s)
  | some (r, side) =>
    let ps := winParse s c.fur x
    let src := srcOf x
    let ring := hsrRing s r
    let other_ := if side = 0 then ring.portB else ring.portA
    let outside := (ringOf s p).isNone && (netOf s p).isNone
    let peer := ring.mode == 2 && (match ringOf s p with | some (q, _) => q == ring.peer | none => false)
    if (nodeAt s true (16 + r) src 0).isSome then (.drop, wctr 15 p s)
    else if !hasHsr ps then (.pass, wctr 13 p (fireMs 0 0x1EB 0x02 [] (wctr 16 p s)))
    else if p == other_ || outside || peer then
      match nodeSlot (16 + r) src p (hsrSeq ps) side s with
      | (none, s1) => (.pass, wctr 13 p s1)
      | (some st, s1) => ruleSlot p u i c.fur 4 (nodeKey (16 + r) src p) (hsrSeq ps) st (setNodeSlot (16 + r) src p (hsrSeq ps)) 13 14 s1
    else (.pass, wctr 13 p s)

/-! ## Check 6: 802.1CB recovery (R371) -/

def frerKey (h p : Nat) : Nat := 64 * h + p
def frer (s : State) (k : Nat) : Option FrerRec := tget? s.red.frerRec k
def modFrer (k : Nat) (g : FrerRec → FrerRec) (s : State) : State :=
  modRed (fun r => match tget? r.frerRec k with
    | none => r
    | some x => { r with frerRec := tput r.frerRec k (g x) }) s

/-- Where the headers of a frame end before its EtherType: after the VLAN tags and the HSR tag. -/
def etherAt (ps : Parsed) : Nat := 12 + 4 * ps.tags + (if hasHsr ps then 6 else 0)
/-- The R-TAG's sequence number, where the frame carries one. -/
def rtagOf (ps : Parsed) (x : Frame) : Option Nat :=
  let j := etherAt ps
  if be x.bytes j 2 = 0xF1C1 && j + 10 ≤ (effBytes x).length then some (be x.bytes (j + 4) 2) else none

/-- The verdict of the chosen algorithm of 802.1CB on a sequence number (log 25): accepted, out of order, rogue, and the next state. -/
def frerRule (r : FrerRec) (n now : Nat) : Bool × Bool × Bool × FrerRec :=
  let hist := fun v => v % 2 ^ r.history
  let r := { r with lastSeq := n }
  if r.take then (true, false, false, { r with take := false, recov := n, hist := 1, last := now })
  else
    let d := signed 16 (n + 65536 - r.recov)
    if r.alg = 1 then
      if d = 0 then (false, false, false, r)
      else (true, d != 1, false, { r with recov := n, hist := 1, last := now })
    else if (r.history : Int) ≤ d || d ≤ -(r.history : Int) then (false, false, true, r)
    else if d ≤ 0 then
      if bit r.hist d.natAbs then (false, false, false, r)
      else (true, true, false, { r with hist := setBit r.hist d.natAbs true, last := now })
    else (true, d != 1, false, { r with recov := n, hist := hist (r.hist * 2 ^ d.natAbs + 1), last := now })

/-- The event of source 0x1ED (R391). -/
def frerEvent (cause h p : Nat) (s : State) : State := fireMs 0 0x1ED cause (toLE 4 h ++ toLE 1 p) s

def frerDiscard (k p : Nat) (s : State) : State := wctr 18 p (modFrer k (fun r => { r with discarded := wrap32 (r.discarded + 1) }) s)
def frerPass (k p : Nat) (s : State) : State := wctr 17 p (modFrer k (fun r => { r with passed := wrap32 (r.passed + 1) }) s)

def checkFrer (p u i h : Nat) (c : EgCopy) (x : Frame) (s : State) : WinRule × State :=
  let k := frerKey h p
  match frer s k with
  | none => (.pass, s)
  | some r =>
    match rtagOf (winParse s c.fur x) x with
    | none => if bit r.flags 0 then (.pass, frerPass k p s) else (.drop, frerDiscard k p s)
    | some n =>
      let hold := if r.sending.contains n then holderOf s p 5 k n else none
      match hold with
      | some e =>
        if e.fur != c.fur && !deferredOn s p 5 e.uid e.id c.fur then (.defer e.uid e.id, s) else (.drop, frerDiscard k p s)
      | none =>
        match frerRule r n s.clk.edges with
        | (true, ooo, _, r1) =>
          let s1 := modFrer k (fun _ => { r1 with sending := n :: r1.sending, outOfOrder := wrap32 (r1.outOfOrder + b2n ooo) }) s
          (.pass, frerPass k p (addHold p u i { kind := 5, key := k, slot := n } (if ooo then wctr 19 p s1 else s1)))
        | (false, _, rogue, _) =>
          let s1 := frerDiscard k p s
          if rogue then (.drop, frerEvent 0x02 h p (wctr 20 p (modFrer k (fun r => { r with rogue := wrap32 (r.rogue + 1) }) s1)))
          else (.drop, s1)

/-! ## The checks in order, and their outcomes (R359, R363) -/

/-- One check of the table of R359 for a copy. -/
def checkOne (k p u i : Nat) (s : State) : WinRule × State :=
  match egCopy s p u i with
  | none => (.pass, s)
  | some c =>
    let x := frame s u
    if c.mirror.isSome || c.input = 64 then (.pass, s)
    else match k with
    | 2 => if c.cls = 7 && x.early = 7 then checkTwin p u i c x s else (.pass, s)
    | 3 => checkTurn p u i c x s
    | 4 => checkPrp p c x s
    | 5 => checkHsr p u i c x s
    | _ =>
      let h := match decOf x c.fur with | some d => d.handle | none => if x.queue < 2 ^ 20 then x.queue else 0
      if h = 0 then (.pass, s) else checkFrer p u i h c x s

/-- Work that Winnow still has to do at a port: checks of a copy, or the outcome of one that held slots. -/
inductive WinWork where
  | check (u i : Nat) (ks : List Nat)
  | outcome (c : EgCopy) (good : Bool)

/-- Counters of passed, duplicate by kind of hold. -/
def kindCtr (kind : Nat) : Nat × Nat :=
  match kind with
  | 1 => (0, 1)
  | 2 => (5, 6)
  | 3 => (9, 10)
  | 4 => (13, 14)
  | _ => (17, 18)

/-- The slot of a hold takes a state, while its tag is in the window (R363). A recovery function reset meanwhile holds the sequence no more (R365). -/
def holdSet (p : Nat) (h : Hold) (v : Nat) (s : State) : State :=
  if h.gone then s else match h.kind with
  | 1 =>
    let w := twin s p h.key
    if w.valid && decide ((w.top + 65536 - h.slot) % 65536 < 256) then setTwin p h.key { w with slots := slotSet w.slots h.slot v } s else s
  | 2 => modTurn p h.key (fun e => { e with slot := v }) s
  | 5 =>
    modFrer h.key (fun r =>
      let r1 := { r with sending := r.sending.filter (· != h.slot) }
      if !r.sending.contains h.slot then r
      else if v = 0 then
        let d := (r.recov + 65536 - h.slot) % 65536
        if r.alg = 1 then (if d = 0 then { r1 with take := true } else r1)
        else if d < r.history then { r1 with hist := setBit r1.hist d false } else r1
      else if v = 3 then r1
      else { r with lastSeq := h.slot }) s
  | _ => setNodeSlot (h.key / 64 / 2 ^ 48) (h.key / 64 % 2 ^ 48) (h.key % 64) h.slot v s

/-- Lane entries toward a port that wait under R369 for a slot: the outcome of its SENDING copy. One that passes is offered at once. -/
def prpLaneOutcome (p : Nat) (h : Hold) (good : Bool) (s : State) : State :=
  let net := h.key / 64 / 2 ^ 48
  let waits := fun (f : Nat) (e : Entry) =>
    e.prp == 2 &&
      (let x := frame s e.uid
       let ps := winParse s f x
       srcOf x == h.key / 64 % 2 ^ 48 && trailerSeq ps == h.slot && (match netOf s x.port with | some (n, _) => n == net | none => false))
  let pick := [0, 1].findSome? (fun f => (fur s f).lanes.findSome? (fun e =>
    if e.1 / 8 % 72 = p then (e.2.find? (waits f)).map (fun y => (f, e.1, y)) else none))
  match pick with
  | none => s
  | some (f, key, y) =>
    let l := laneOf s f key
    if good then
      let s1 := setLane f key (l.filter (fun e => !(e.uid == y.uid && e.prp == 2))) s
      wctr 10 p (tryReturn y.uid y.half (modCopy y.uid y.half (fun c => { c with fanout := c.fanout - 1 }) s1))
    else
      let pass := fun (e : Entry) => { e with prp := if h.gone then 5 else 1, offered := some s.clk.edges }
      xctr 4 1 f (wctr 9 p (holdSet p h (1 + f) (setLane f key (l.map (fun e => if e.uid == y.uid && e.prp == 2 then pass e else e)) s)))

/-- A copy ends without the wire: its words and its lane entry go, and what it held is decided. -/
def winDo (p : Nat) : Nat → List WinWork → State → State
  | 0, _, s => s
  | _ + 1, [], s => s
  | n + 1, .check u i [] :: w, s => winDo p n w (enqueueEg p u i s)
  | n + 1, .check u i (k :: ks) :: w, s =>
    match checkOne k p u i s with
    | (.pass, s1) => winDo p n (.check u i ks :: w) s1
    | (.defer a b, s1) =>
      let s2 := if k = 2 && !((egCopy s1 p u i).map (·.deferCounted)).getD true then wctr 2 p s1 else s1
      winDo p n w (modEg p u i (fun c => { c with state := 2, waits := some (a, b), waitKind := k - 1, deferCounted := true }) s2)
    | (.drop, s1) =>
      match egCopy s1 p u i with
      | none => winDo p n w s1
      | some c => winDo p n (.outcome c false :: w) (removeEg p c s1)
  | n + 1, .outcome c good :: w, s =>
    let r := c.holds.foldl (fun (acc : List WinWork × State) h =>
      let s0 := acc.2
      if h.kind = 3 then (acc.1, prpLaneOutcome p h good (holdSet p h (if good then 3 else 0) s0))
      else
        match (port s0 p).drill.buf.find? (fun e => e.state == 2 && e.waits == some (c.uid, c.id) && e.waitKind == h.kind) with
        | none => (acc.1, holdSet p h (if good then 3 else 0) s0)
        | some e =>
          let (cp, cd) := kindCtr h.kind
          let seen := fun s => if h.kind = 2 then turnSeen p h.key s else s
          let s1 := holdSet p h (if good then 3 else if e.bad.isSome then 0 else 1 + e.fur) s0
          if good || e.bad.isSome then
            let dropped := wctr cd p (if h.kind = 5 then modFrer h.key (fun r => { r with discarded := wrap32 (r.discarded + 1) }) s1 else s1)
            (acc.1 ++ [.outcome e false], seen (removeEg p e dropped))
          else
            let s2 := addHold p e.uid e.id h s1
            let s3 := wctr cp p (if h.kind = 1 then wctr 3 p s2 else if h.kind = 5 then modFrer h.key (fun r => { r with passed := wrap32 (r.passed + 1) }) s2 else s2)
            let s4 := modEg p e.uid e.id (fun c => { c with state := 0, waits := none }) s3
            let s5 := if h.kind = 2 then noteOrder p e (frame s4 e.uid) (seen s4) else s4
            (acc.1 ++ [.check e.uid e.id ((List.range 7).filter (fun k => h.kind + 1 < k))], s5)) ([], s)
    winDo p n (r.1 ++ w) r.2

def winFuel (s : State) (p : Nat) : Nat := 16 * ((port s p).drill.buf.length + 2)

/-- The outcome of a copy that held slots (R363): good, ended bad, or discarded before its first bit. -/
def winOutcome (p : Nat) (c : EgCopy) (good : Bool) (s : State) : State := winDo p (winFuel s p) [.outcome c good] s

/-- A copy is discarded from the egress buffer before its first bit, or after a bad end. One deferred at the turn filter is its entry's second
copy (R382). -/
def discardEg (p : Nat) (c : EgCopy) (s : State) : State :=
  winOutcome p c false (removeEg p c (if c.state = 2 && c.waitKind = 2 then turnSeen p (turnKey (frame s c.uid)) s else s))

/-- Event 0x1E9 for a port, and the error counted (R45, R391). -/
def winUncorrectable (p : Nat) (s : State) : State := fire 0x1E9 0 (toLE 1 p) (memUnc 32 s)

/-- The sequence state that a recovery function starts from (log 25): the spec gives RecovSeqNum no reset value, and 802.1CB's is the highest
sequence number (PRESUMED). -/
def frerFresh (r : FrerRec) : FrerRec := { r with take := true, hist := 0, recov := 65535 }

/-- Lane entries toward a port that passed the PRP check by a discard entry which has been cleared since. -/
def clearLaneHolds (net src p : Nat) (s : State) : State :=
  let hit := fun (e : Entry) => e.prp == 1 && (let x := frame s e.uid; srcOf x == src && (netOf s x.port).map (·.1) == some net)
  let g := fun (x : FurrowSt) => { x with lanes := x.lanes.map (fun e =>
    if e.1 / 8 % 72 = p then (e.1, e.2.map (fun y => if hit y then { y with prp := 5 } else y)) else e) }
  modFur 1 g (modFur 0 g s)

/-- An uncorrectable word in a node entry: the entry goes (R45, R365). p is the port whose Winnow read it. -/
def nodeFault (proxy : Bool) (net src egress p : Nat) (s : State) : State :=
  if (nodeAt s proxy net src egress).isSome then
    let s1 := winUncorrectable p (modRed (fun r => { r with nodes := r.nodes.filter (fun n => !nodeIs proxy net src egress n) }) s)
    if proxy then s1 else clearLaneHolds net src egress (clearHolds egress 3 (nodeKey net src egress) (clearHolds egress 4 (nodeKey net src egress) s1))
  else s

/-- The same in a recovery function: the next copy of each sequence that it held passes, and FRER_RESETS counts it (R45, R365). -/
def frerFault (k p : Nat) (s : State) : State :=
  if (frer s k).isSome then
    winUncorrectable p (wctr 21 p (clearHolds p 5 k (modFrer k (fun r => { frerFresh r with sending := [], lastSeq := 0, resets := wrap32 (r.resets + 1) }) s)))
  else s

/-- The same in a generation function, whose sequence starts again at 0. The port that the event carries is a free value (log 55). -/
def genFault (h : Nat) (s : State) : State :=
  if tmem s.red.gen h then
    let (p, s1) := takeFree 6 s
    winUncorrectable p (modRed (fun r => { r with gen := tput r.gen h 0 }) s1)
  else s

/-- An uncorrectable word in the entry that a copy's checks read: of the turn filter, the node table, or its recovery function. -/
def entryUpset (p : Nat) (c : EgCopy) (s : State) : State :=
  let x := frame s c.uid
  let h := match decOf x c.fur with | some d => d.handle | none => 0
  if c.cls < 7 && inOverlap s x.ns && (turnEntry s p (turnKey x)).isSome then winUncorrectable p (freeTurn p (turnKey x) s)
  else
    match ringOf s x.port with
    | some (r, _) =>
      if (nodeAt s true (16 + r) (srcOf x) 0).isSome then nodeFault true (16 + r) (srcOf x) 0 p s else nodeFault false (16 + r) (srcOf x) p p s
    | none => frerFault (frerKey h p) p s

/-- A twin history is cleared (R365). -/
def clearTwin (p inp : Nat) (s : State) : State := fire 0x1E9 0 (toLE 1 p) (wctr 24 p (clearHolds p 1 inp (setTwin p inp {} s)))

/-- What a read of Winnow's state for a copy found (R43, R45, R365): bits 0 to 2, an uncorrectable word in that copy of the twin history, where one
is outvoted and two or more clear it; bit 3, one in a turn filter, node or recovery entry. -/
def winUpset (p v : Nat) (c : EgCopy) (s0 : State) : State :=
  let (upset, s) := readWord v s0
  let twins := (List.range 3).filter (bit upset)
  let s1 := twins.foldl (fun s i => memUnc (25 + i) s) s
  let s2 := match twins.length with
    | 0 => s1
    | 1 => wctr 23 p s1
    | _ => clearTwin p (frame s c.uid).port s1
  if bit upset 3 then entryUpset p c s2 else s2

/-- WINNOW_ARRIVAL: the earliest copy at Pp that Winnow has not ruled on, the lead furrow's first within one drill clock (R360). -/
def nextUnruled (s : State) (p : Nat) : Option EgCopy :=
  ((port s p).drill.buf.filter (fun c => c.state == 0)).foldl (fun (b : Option EgCopy) c =>
    match b with
    | none => some c
    | some a => if c.firstAt < a.firstAt || (c.firstAt == a.firstAt && c.fur == s.hl.lead && a.fur != s.hl.lead) then some c else some a) none

/-- WINNOW_ARRIVAL (R359-R363). -/
def execWinnowArrival (p upset : Nat) (s : State) : Host.Outcome State Fault Refusal :=
  if s.clk.coreStopped then .next s else
  match nextUnruled s p with
  | none => .next s
  | some c => .next (winDo p (winFuel s p) [.check c.uid c.id [2, 3, 4, 5, 6]] (winUpset p upset c s))

/-! ## Timed rows -/

/-- A twin history's head word (R361). -/
def twinHead (t : Twin) : Nat := t.top % 2 ^ 16 + t.topUs % 2 ^ 15 * 2 ^ 16 + b2n t.valid * 2 ^ 31

/-- TWIN_SWEEP: every 100 us VALID is cleared on every stale pair (R361). -/
def execTwinSweep (s0 : State) : Host.Outcome State Fault Refusal :=
  if s0.clk.coreStopped then .next s0 else
  let s1 := reachEdge (s0.red.sweptAt + 100 * usE) s0
  let now := arrivalUs s1
  let s := modRed (fun r => { r with sweptAt := s1.clk.edges }) s1
  .next { s with ports := tmap {} s.ports (fun x => { x with win := { x.win with
    twins := x.win.twins.map (fun t => (t.1, if 200 < usSince now t.2.lastUs then { t.2 with valid := false } else t.2)) } }) }

/-- NODE_FORGET: entries idle for NODE_FORGET are removed (R367). -/
def execNodeForget (s : State) : Host.Outcome State Fault Refusal :=
  if s.clk.coreStopped then .next s else
  .next (modRed (fun r => { r with nodes := r.nodes.filter (fun n => decide (s.clk.edges < n.last + forgetSec s n.net * secE)) }) s)

/-- TURN_FILTER_EXPIRY: entries whose class's residence limit plus 1 ms has passed are freed; 1,001 ms for a limit of 0 (R382). -/
def execTurnFilterExpiry (p : Nat) (s : State) : Host.Outcome State Fault Refusal :=
  if s.clk.coreStopped then .next s else
  let gone := fun (e : TurnEntry) =>
    let l := resLimit s e.cls
    decide (e.ns + ((if l = 0 then 1000 else l) + 1) * 1000000 < nowNs s)
  .next (modWin p (fun w => { w with filter := w.filter.filter (fun e => !gone e) }) s)

/-- A recovery function returns to its reset state, counted (R371). -/
def frerReset (h p : Nat) (s : State) : State :=
  let k := frerKey h p
  frerEvent 0x03 h p (wctr 21 p (modFrer k (fun r =>
    { frerFresh r with resets := wrap32 (r.resets + 1), last := s.clk.edges }) s))

/-- FRER_RECOVERY_TIMEOUT: RECOVERY_TIMEOUT has passed since the last accepted frame. -/
def execFrerRecoveryTimeout (h p : Nat) (s : State) : Host.Outcome State Fault Refusal :=
  if s.clk.coreStopped then .next s else
  match frer s (frerKey h p) with
  | none => .next s
  | some r => if r.take then .next s else .next (frerReset h p (reachEdge (r.last + r.timeout * msE) s))

/-- The difference of passed and discarded frames of a recovery function since its last latent error reset, for two paths (log 25). -/
def latentDiff (r : FrerRec) : Int := ((r.passed : Int) - r.basePassed) - ((r.discarded : Int) - r.baseDiscarded)

/-- The test is made at an edge; where 30 s have passed since the last latent error reset, that is made after it. -/
def latentTested (e : Nat) (r : FrerRec) : FrerRec :=
  if r.baseAt + 30 * secE ≤ e then { r with testedAt := e, baseAt := e, basePassed := r.passed, baseDiscarded := r.discarded } else { r with testedAt := e }

/-- LATENT_ERROR_TEST: every 2,000 ms (R371, log 25). -/
def execLatentErrorTest (h p : Nat) (s0 : State) : Host.Outcome State Fault Refusal :=
  if s0.clk.coreStopped then .next s0 else
  match frer s0 (frerKey h p) with
  | none => .next s0
  | some r =>
    if !bit r.flags 2 then .next s0
    else
      let s := modFrer (frerKey h p) (latentTested (r.testedAt + 2000 * msE)) (reachEdge (r.testedAt + 2000 * msE) s0)
      .next (if 2 * r.history < (latentDiff r).natAbs then frerEvent 0x01 h p s else s)

/-! ## Commands -/

def specPrpPairSet : CmdSpec := { opcode := 0x0A05, priv := 1, mask := 0x7, lenOk := lenForms 1 [(0, len 24), (1, len 24)] }
/-- R396. -/
def bodyPrpPairSet (p : Packet) (s : State) : CmdResult :=
  let b := p.params
  let n := byteAt b 0
  let a := le b 4 8
  let c := le b 12 8
  let forget := le b 22 2
  let set := byteAt b 1 == 0
  let taken := (List.range 64).any (fun q => (bit a q || bit c q) &&
    ((ringOf s q).isSome || (match netOf s q with | some (m, _) => m != n | none => false)))
  checked (([(byteAt b 1 ≤ 1, 1), (n < 4, 0), (reservedAt b 2 2, 2)] : List (Bool × Nat)) ++
    (if set then [(maskOk s a && a != 0, 4), (maskOk s c && c != 0 && a &&& c == 0, 12), (byteAt b 20 < 4, 20), (1 ≤ byteAt b 21, 21),
      (10 ≤ forget && forget ≤ 10000, 22)] else [(byteAt b 20 < 4, 20)])) <|
  if !set then
    let w := prpNet s n
    .ok [] (modRed (fun r => { r with prp := tdel r.prp n, nodes := r.nodes.filter (fun x => x.net != n) }) (touchPorts (maskPorts (w.lanA ||| w.lanB)) s))
  else if taken then .refuse stExists 0
  else .ok [] (touchPorts (maskPorts (a ||| c)) <| modRed (fun r => { r with prp := tset {} r.prp n { enable := true, lanA := a, lanB := c, flags := byteAt b 20, entryForget := forget, nodeForget := byteAt b 21 } }) s)
def execPrpPairSet (p : Packet) (s : State) : Host.Outcome State Fault Refusal := serveCmd specPrpPairSet bodyPrpPairSet p s

def specHsrRingSet : CmdSpec := { opcode := 0x0A06, priv := 1, mask := 0x7, lenOk := lenForms 1 [(0, len 16), (1, len 16)] }
/-- R397. -/
def bodyHsrRingSet (p : Packet) (s : State) : CmdResult :=
  let b := p.params
  let n := byteAt b 0
  let a := byteAt b 2
  let c := byteAt b 3
  let forget := le b 6 2
  let set := byteAt b 1 == 0
  let mode := byteAt b 4
  let taken := fun q => (netOf s q).isSome || (ringOf s q).isSome
  checked (([(byteAt b 1 ≤ 1, 1), (n < 8, 0)] : List (Bool × Nat)) ++
    (if set then [(portExists s a, 2), (portExists s c && a != c, 3), (mode == 1 || mode == 2, 4),
      (mode != 2 || (byteAt b 5 < 8 && (hsrRing s (byteAt b 5)).enable), 5), (10 ≤ forget && forget ≤ 10000, 6), (1 ≤ byteAt b 8, 8)] else []) ++
    [(reservedAt b 9 7, 9)]) <|
  if !set then .ok [] (modRed (fun r => { r with hsr := tdel r.hsr n }) (touchPorts (if (hsrRing s n).enable then [(hsrRing s n).portA, (hsrRing s n).portB] else []) s))
  else if taken a || taken c then .refuse stExists 0
  else .ok [] (touchPorts [a, c] <| modRed (fun r => { r with hsr := tset {} r.hsr n { enable := true, portA := a, portB := c, mode := mode, peer := byteAt b 5, entryForget := forget, nodeForget := byteAt b 8 } }) s)
def execHsrRingSet (p : Packet) (s : State) : Host.Outcome State Fault Refusal := serveCmd specHsrRingSet bodyHsrRingSet p s

def specFrerSet : CmdSpec := { opcode := 0x0A07, priv := 1, mask := 0x7, lenOk := lenForms 0 [(0, len 16), (1, len 16), (2, len 16), (3, len 16)] }
/-- R398. -/
def bodyFrerSet (p : Packet) (s : State) : CmdResult :=
  let b := p.params
  let op := byteAt b 0
  let h := le b 4 4
  let pt := byteAt b 8
  let gen := pt == 0xFF
  let tmo := le b 12 2
  let k := frerKey h pt
  checked (([(op ≤ 3, 0), (reservedAt b 1 3, 1), (1 ≤ h && h < 2 ^ 20, 4)] : List (Bool × Nat)) ++
    (if op = 1 then [(portExists s pt, 8), (byteAt b 9 ≤ 1, 9), (2 ≤ byteAt b 10 && byteAt b 10 ≤ 128, 10), (byteAt b 11 < 8, 11),
      (1 ≤ tmo && tmo ≤ 10000, 12)] else if op = 0 then [] else [(gen || portExists s pt, 8)]) ++ [(reservedAt b 14 2, 14)]) <|
  let touch := fun (s : State) => touchPort pt true s
  match op with
  | 0 =>
    if 4096 ≤ s.red.gen.length && !tmem s.red.gen h then .refuse stExhausted 0
    else unlessUpset p (genFault h) s <| .ok [] (modRed (fun r => { r with gen := tput r.gen h 0 }) s)
  | 1 =>
    if 16384 ≤ s.red.frerRec.length && !tmem s.red.frerRec k then .refuse stExhausted 0
    else
      unlessUpset p (frerFault k pt) s <|
      .ok [] (touch (modRed (fun r => { r with frerRec := tput r.frerRec k (frerFresh { alg := byteAt b 9, history := byteAt b 10, flags := byteAt b 11, timeout := tmo, last := s.clk.edges, testedAt := s.clk.edges, baseAt := s.clk.edges }) }) s))
  | 2 =>
    if gen then
      (if !tmem s.red.gen h then .refuse stNotFound 0
       else unlessUpset p (genFault h) s <| .ok [] (modRed (fun r => { r with gen := tdel r.gen h }) s))
    else if !tmem s.red.frerRec k then .refuse stNotFound 0
    else unlessUpset p (frerFault k pt) s <| .ok [] (touch (modRed (fun r => { r with frerRec := tdel r.frerRec k }) s))
  | _ =>
    if gen then
      match tget? s.red.gen h with
      | none => .refuse stNotFound 0
      | some n => .ok (zeros 20 ++ toLE 2 ((n + 65535) % 65536) ++ zeros 2) s
    else
      match frer s k with
      | none => .refuse stNotFound 0
      | some r => .ok (toLE 4 r.passed ++ toLE 4 r.discarded ++ toLE 4 r.outOfOrder ++ toLE 4 r.rogue ++ toLE 4 r.resets ++ toLE 2 r.lastSeq ++ zeros 2) (touch s)
def execFrerSet (p : Packet) (s : State) : Host.Outcome State Fault Refusal := serveCmd specFrerSet bodyFrerSet p s

def specWinnowRead : CmdSpec := { opcode := 0x0A08, priv := 0, mask := 0xF, lenOk := len 4 }
/-- R399. -/
def bodyWinnowRead (p : Packet) (s : State) : CmdResult :=
  let b := p.params
  let pt := byteAt b 0
  checked [(portExists s pt, 0), (byteAt b 1 ≤ 1, 1), (reservedAt b 2 2, 2)] <|
  let w := (port s pt).win
  .ok (toLE 8 (nowT64 s) ++ (List.range 28).flatMap (fun i => toLE 4 (tget 0 w.ctr i + 2 ^ 48 - tget 0 w.base i)))
    (if byteAt b 1 = 1 then modWin pt (fun w => { w with base := w.ctr }) (touchPort pt true s) else touchPort pt true s)
def execWinnowRead (p : Packet) (s : State) : Host.Outcome State Fault Refusal := serveCmd specWinnowRead bodyWinnowRead p s

end Sys2Proof.Machine
end

