-- ==== Sys2Proof/Machine/Dram.lean ====
section
/-! DEFINITION. The channels of the deep store: address map, requests of the clients, shares, bank queues and the choice of commands, the sampling of
activates (spec/14 R463, R465, R471, R473, R474, R477, R478). -/

namespace Sys2Proof.Machine

/-! ## The deep store as its clients see it (R471, R479, R480) -/

def chan (s : State) (c : Nat) : Chan := if c = 0 then s.deep.ch0 else s.deep.ch1
def modChan (c : Nat) (g : Chan → Chan) (s : State) : State :=
  if c = 0 then modDeep (fun d => { d with ch0 := g d.ch0 }) s else modDeep (fun d => { d with ch1 := g d.ch1 }) s

/-- Data bytes of a channel (R463). -/
def chanSize (c : Chan) : Nat := c.ranks * (if c.width = 8 then c.density else c.density / 2) * 2 ^ 30
def chanReady (c : Chan) : Bool := c.state == 3 || c.state == 4

/-- Channel and channel-local address of a device address, by the map in force (R471). -/
def mapAddr (s : State) (a : Nat) : Nat × Nat :=
  let g := 2 ^ (s.deep.grain.getD 8)
  let c0 := s.deep.map0
  let c1 := s.deep.map1
  let m := min c0 c1
  if m != 0 && a < 2 * m then (a / g % 2, a / (2 * g) * g + a % g)
  else if m != 0 then (if c0 < c1 then 1 else 0, a - m)
  else (if c0 = 0 then 1 else 0, a)

/-- The device address of a channel-local address (R471). -/
def unmapAddr (s : State) (c l : Nat) : Nat :=
  let g := 2 ^ (s.deep.grain.getD 8)
  let m := min s.deep.map0 s.deep.map1
  if m = 0 then l else if l < m then l / g * (2 * g) + c * g + l % g else l + m

/-- The size of the device address space (R471). -/
def deepSize (s : State) : Nat := s.deep.map0 + s.deep.map1

/-- Have the clients stopped for a training (R479, steps 3 to 5). -/
def deepTraining (s : State) : Bool := match s.deep.training with | some t => t.stage != 1 | none => false

/-- Can the deep store serve an address now. -/
def deepUp (s : State) (a : Nat) : Bool :=
  let c := chan s (mapAddr s a).1
  s.deep.grain.isSome && !deepTraining s && chanReady c && c.mapped

/-- Does the deep store hold what was written at an address: its channel has not failed, nor been configured anew (R479, R480, R482). -/
def deepHolds (s : State) (a : Nat) : Bool := s.deep.grain.isSome && (chan s (mapAddr s a).1).mapped

/-! ## Halves and their check lanes (R466, R467) -/

/-- The address word of R467. -/
def halfWord (c half : Nat) : Nat := half % 2 ^ 29 + (c % 2) * 2 ^ 31
/-- ABP of a half (R467). -/
def abpOf (c half : Nat) (poison : Bool) : Nat := crcL 8 0x07 0xFF (toLE 4 (halfWord c half) ++ toLE 1 (b2n poison))

/-- The 32 check-lane bits of a half with 32 data bytes: POISON, ABP and CHECK (R466). -/
def checkLanes (c half : Nat) (poison : Bool) (b : List Byte) : Nat := b2n poison * 2 ^ 28 + abpOf c half poison * 2 ^ 20 + Config.sheafCheck b % 2 ^ 20

/-- Beat 4h + i of half h of a burst: its 64 data lanes and its 8 check lanes, of the half's data and its check-lane word (R466). -/
def halfBeat (data lanes i : Nat) : Nat × Nat := (data / 2 ^ (64 * i) % 2 ^ 64, lanes / 2 ^ (8 * i) % 2 ^ 8)

/-- The check-lane word that a half of a channel holds: as it was written, else as its region's initialisation left it. -/
def halfLanes (s : State) (c half : Nat) : Nat := (tget? s.deep.lanes (unmapAddr s c (32 * half) / 32)).getD (checkLanes c half false (zeros 32))

/-! ## Bursts and banks (R471) -/

/-- Where a burst of a channel lies: its bank, numbered 16 x rank + 4 x bank + bank group, and its row. -/
def burstPlace (x : Chan) (n : Nat) : Nat × Nat :=
  let two := x.ranks = 2
  if x.width = 8 then
    (16 * (if two then n / 2048 % 2 else 0) + 4 * (n / 512 % 4) + n % 4, n / (if two then 4096 else 2048))
  else (16 * (if two then n / 1024 % 2 else 0) + 4 * (n / 256 % 4) + n % 2, n / (if two then 2048 else 1024))

/-- MT/s of the speed bin (R482). -/
def chanMts (x : Chan) : Nat := match x.speed with | 0 => 3200 | 1 => 2933 | 2 => 2666 | _ => 2400

def modSched (c : Nat) (g : Sched → Sched) (s : State) : State := modChan c (fun x => { x with sched := g x.sched }) s
def modDramBank (k : Nat) (g : DramBank → DramBank) (y : Sched) : Sched := { y with banks := tmod {} y.banks k g }
/-- Every request that waits at a channel: in the bank queues, in the clients' queues. -/
def bankWaits (y : Sched) : List DramReq := y.banks.flatMap (fun e => e.2.queue)
def allWaits (y : Sched) : List DramReq := bankWaits y ++ y.clients.flatMap (fun e => e.2)
/-- Do requests wait for a rank (R465). -/
def rankWaits (x : Chan) (rank : Nat) : Bool := (allWaits x.sched).any (fun q => (burstPlace x q.burst).1 / 16 == rank)

/-! ## Requests of the clients (R465, R473, R474) -/

/-- A request reaches a channel: it leaves self-refresh, which has refreshed its ranks (R465). -/
def chanTouch (c : Nat) (s : State) : State :=
  modChan c (fun x => if x.state = 4 then { x with lastRequest := s.clk.edges, state := 3, refreshedAt := [(0, s.clk.edges), (1, s.clk.edges)] }
    else { x with lastRequest := s.clk.edges }) s

/-- Do two requests touch a common half. -/
def sameHalf (a b : DramReq) : Bool := a.burst == b.burst && a.mask &&& b.mask != 0

/-- WEIGHT of a client, requests in a round (R473, R482). -/
def weightOf (s : State) (client : Nat) : Nat :=
  match client with
  | 1 => s.deep.weights % 16
  | 2 => s.deep.weights / 256 % 16
  | 3 => s.deep.weights / 16 % 16
  | 4 => s.deep.weights / 4096 % 16
  | _ => s.deep.copyWeight

/-- The head of a client's queue, where its bank queue of 16 has room, and no earlier request to one of its halves is still outside the bank queues
(R474). -/
def canEnter (x : Chan) (client : Nat) : Option DramReq :=
  match tget [] x.sched.clients client with
  | [] => none
  | q :: _ =>
    let behind := x.sched.clients.any (fun e => e.2.any (fun z => decide (z.seq < q.seq) && sameHalf z q))
    if (tget {} x.sched.banks (burstPlace x q.burst).1).queue.length < 16 && !behind then some q else none

/-- Requests that PATROL's rate needs in 64 µs (R470, R473). -/
def patrolNeed (x : Chan) : Nat := ceilDiv (chanSize x / 64 * 64) (3600000000 * max 1 x.patrolHours)

/-- The client that is served next, and what is left of its turn. -/
def nextClient (s : State) (x : Chan) : Option (Nat × Nat) :=
  let y := x.sched
  let may := fun k => (canEnter x k).isSome
  if y.left != 0 && may y.turn then some (y.turn, y.left - 1)
  else (([1, 2, 3, 4, 5].map (fun i => (y.turn + i - 1) % 5 + 1)).find? may).map (fun k => (k, weightOf s k - 1))

/-- A request leaves its client's queue for that of its bank. -/
def enterBank (x : Chan) (client : Nat) (q : DramReq) (y : Sched) : Sched :=
  modDramBank (burstPlace x q.burst).1 (fun b => { b with queue := b.queue ++ [q] })
    { y with clients := tset [] y.clients client ((tget [] y.clients client).drop 1) }

/-- The 64 µs span that an edge is in, and the requests of PATROL taken in it (R473). -/
def patrolSpan (e : Nat) : Nat := e / (64 * usE)
def patrolDone (x : Chan) (e : Nat) : Nat := if x.sched.patrolIn = patrolSpan e then x.sched.patrolTaken else 0

/-- The next client's head request is taken, by weighted round robin. -/
def takeTurn (c : Nat) (s : State) : State :=
  let x := chan s c
  match nextClient s x with
  | none => s
  | some (k, left) =>
    match canEnter x k with
    | none => s
    | some q => modSched c (fun y => enterBank x k q { y with turn := k, left := left }) s

/-- PATROL's head request is taken, else the next client's. -/
def takePatrol (c e : Nat) (s : State) : State :=
  let x := chan s c
  match canEnter x 6 with
  | some q => modSched c (fun y => enterBank x 6 q { y with patrolIn := patrolSpan e, patrolTaken := patrolDone x e + 1 }) s
  | none => takeTurn c s

/-- One request is taken from the clients at edge e: PATROL's while its rate needs more in this span, else by weighted round robin (R473). -/
def takeRequest (c e : Nat) (s : State) : State :=
  if patrolDone (chan s c) e < patrolNeed (chan s c) then takePatrol c e s else takeTurn c s

/-! ## The sampling of activates (R478) -/

/-- The counter with the lowest count, the lowest key first. -/
def lowestSample (t : Table Nat) : Option (Nat × Nat) :=
  t.foldl (fun m e => match m with | none => some e | some x => if e.2 < x.2 then some e else some x) none

/-- A sampled activate (R478): its key is counted, and a threshold reached throttles the client. -/
def sampleAct (c client rank bank group : Nat) (s : State) : State :=
  let x := chan s c
  let key := rank % 2 + 2 * (bank % 16) + 32 * group
  let (t, old, n) := match tget? x.samples key with
    | some n => (x.samples, n, n + 1)
    | none =>
      if x.samples.length < 256 then (x.samples, 0, 1)
      else match lowestSample x.samples with
        | some (k, n) => (tdel x.samples k, n, n + 1)
        | none => (x.samples, 0, 1)
  let s1 := modChan c (fun x => { x with samples := tput t key n }) s
  if old < x.threshold && x.threshold ≤ n then
    fireMs 0 (0x39C + c) 0 (toLE 1 client ++ toLE 1 rank ++ toLE 1 bank ++ toLE 4 group)
      (modChan c (fun x => { x with throttles := wrap32 (x.throttles + 1), throttled := (client, key) :: x.throttled }) s1)
  else s1

/-- An activate of a bank: every eighth is sampled. -/
def countAct (c client rank bank group : Nat) (s : State) : State :=
  let k := 16 * (rank % 2) + bank % 16
  let n := (tget 0 (chan s c).acts k + 1) % 8
  let s1 := modChan c (fun x => { x with acts := tset 0 x.acts k n }) s
  if n = 0 then sampleAct c client rank bank group s1 else s1

/-! ## The choice of a command (R477) -/

/-- The direction: reads are preferred; 32 waiting writes, or none but writes, turn it, and 16 writes, or none left, turn it back. -/
def turnAround (y : Sched) : Sched :=
  let w := ((bankWaits y).filter (·.write)).length
  let r := (bankWaits y).length - w
  if y.writing then if 16 ≤ y.written || w = 0 then { y with writing := false } else y
  else if 32 ≤ w || (r = 0 && w != 0) then { y with writing := true, written := 0 } else y

/-- The requests of a bank that may go: no earlier one of the queue touches a half of theirs (R474). -/
def goers : List DramReq → List DramReq → List DramReq
  | _, [] => []
  | before, q :: r => if !before.any (sameHalf q) then q :: goers (q :: before) r else goers (q :: before) r

/-- Those of them in the current direction. -/
def bankGoers (y : Sched) (b : DramBank) : List DramReq := (goers [] b.queue).filter (fun q => q.write == y.writing)

/-- May a command go to a bank now. -/
def timed (x : Chan) (kind bank : Nat) : Bool := Config.dramAllows x.speed x.density x.width x.sched.recent kind bank x.sched.clock

/-- The oldest request that its bank's open row holds, in the current direction; a bank has lost its turn after 16 column commands. -/
def columnPick (x : Chan) : Option (Nat × DramReq) :=
  (x.sched.banks.flatMap (fun e =>
    match e.2.row with
    | none => []
    | some r => if 16 ≤ e.2.hits then [] else ((bankGoers x.sched e.2).filter (fun q => (burstPlace x q.burst).2 == r && timed x (if q.write then 3 else 2) e.1)).map (fun q => (e.1, q)))).foldl
    (fun m e => match m with | none => some e | some a => if e.2.seq < a.2.seq then some e else some a) none

/-- The key of R478 of a request: rank, bank and row group of 64 rows, and as a number. -/
def actGroup (x : Chan) (q : DramReq) : Nat := (burstPlace x q.burst).2 / 64
def actKey (x : Chan) (q : DramReq) : Nat := (burstPlace x q.burst).1 / 16 + 2 * ((burstPlace x q.burst).1 % 16) + 32 * actGroup x q

/-- Is the activate that a request needs delayed: its client is throttled there, and its wait is not over (R478). -/
def throttledNow (x : Chan) (q : DramReq) : Bool :=
  x.throttled.contains (q.client, actKey x q) && (match q.heldTill with | some t => decide (x.sched.clock < t) | none => true)

/-- What a bank wants on its row for one of some requests, in either direction: 0 an activate, 1 a precharge, with the request that wants it. A bank
whose open row is still to be read or written wants neither. -/
def rowWant (x : Chan) (b : DramBank) (l : List DramReq) : Option (Nat × DramReq) :=
  match l with
  | [] => none
  | q :: _ => match b.row with
    | none => some (0, q)
    | some r => if b.hits < 16 && (goers [] b.queue).any (fun z => (burstPlace x z.burst).2 == r) then none else some (1, q)

/-- The first bank, at or after the pointer, that a row command can serve. A request whose activate is delayed holds no other one up (R477, R478). -/
def rowPick (x : Chan) : Option (Nat × Nat × DramReq) :=
  ((List.range 32).map (fun i => (x.sched.pointer + i) % 32)).findSome? (fun k =>
    let b := tget {} x.sched.banks k
    match rowWant x b ((goers [] b.queue).filter (fun q => !throttledNow x q)) with
    | none => none
    | some (kind, q) => if timed x kind k then some (k, kind, q) else none)

/-- A command is issued: it is remembered for the timing of those after it. -/
def issued (kind bank : Nat) (y : Sched) : Sched := { y with recent := ((y.clock, kind, bank) :: y.recent).take 128 }

/-- Requests whose activate a throttle delays wait THROTTLE_NS from when it was due; each clock of the wait counts (R453, R478). -/
def throttleHold (c : Nat) (s : State) : State :=
  let x := chan s c
  let due := x.sched.banks.filterMap (fun e => match rowWant x e.2 (goers [] e.2.queue) with
    | some (0, q) => if x.throttled.contains (q.client, actKey x q) then some (e.1, q) else none
    | _ => none)
  due.foldl (fun s e => match e.2.heldTill with
    | none => modSched c (fun y => modDramBank e.1 (fun b => { b with queue := b.queue.map (fun q =>
        if q.seq = e.2.seq then { q with heldTill := some (y.clock + ceilDiv (x.throttleNs * chanMts x) 2000) } else q) }) { y with delays := y.delays + 1 }) s
    | some t => if x.sched.clock < t then modSched c (fun y => { y with delays := y.delays + 1 }) s else s) s

/-- The rank that a refresh which is postponed no longer can go to (R477). -/
def dueRefresh (x : Chan) : Option Nat := (List.range x.ranks).find? (fun r => tget 0 x.due r != 0 && timed x 4 (16 * r))
/-- The rank that a postponed refresh can go to: no request waits for it (R465). -/
def idleRefresh (x : Chan) : Option Nat :=
  (List.range x.ranks).find? (fun r => tget 0 x.postponed r != 0 && !rankWaits x r && timed x 4 (16 * r))

/-- A refresh goes to a rank, whose rows close. -/
def refreshRank (rank : Nat) (x : Chan) : Chan :=
  { x with refreshes := x.refreshes + 1
           sched := issued 4 (16 * rank) { x.sched with banks := x.sched.banks.map (fun e => if e.1 / 16 = rank then (e.1, { e.2 with row := none, hits := 0 }) else e) } }

/-- The command of an SDRAM clock (R477): a refresh that is due, a column command, a row command, else a postponed refresh of an idle rank. -/
def dramCommand (c : Nat) (s : State) : State :=
  let x := chan s c
  match dueRefresh x with
  | some r => modChan c (fun x => { refreshRank r x with due := tset 0 x.due r (tget 0 x.due r - 1) }) s
  | none =>
    match columnPick x with
    | some (k, q) =>
      modSched c (fun y => issued (if q.write then 3 else 2) k (modDramBank k (fun b => { b with queue := b.queue.filter (fun z => z.seq != q.seq), hits := b.hits + 1 })
        (if q.write then { y with writes := y.writes + 1, written := y.written + 1 } else { y with reads := y.reads + 1 }))) s
    | none =>
      match rowPick x with
      | some (k, 0, q) =>
        countAct c q.client (k / 16) (k % 16) (actGroup x q)
          (modSched c (fun y => issued 0 k (modDramBank k (fun b => { b with row := some (burstPlace x q.burst).2, hits := 0 })
            { y with activates := y.activates + 1, pointer := (k + 1) % 32 })) s)
      | some (k, _, _) =>
        modSched c (fun y => issued 1 k (modDramBank k (fun b => { b with row := none, hits := 0 }) { y with pointer := (k + 1) % 32 })) s
      | none => match idleRefresh x with
        | some r => modChan c (fun x => { refreshRank r x with postponed := tset 0 x.postponed r (tget 0 x.postponed r - 1) }) s
        | none => s

/-- One SDRAM clock of a channel, at edge e: a request is taken, the direction settled, and at most one command issued (R473, R477). -/
def dramClock (c e : Nat) (s : State) : State :=
  dramCommand c (throttleHold c (modSched c (fun y => turnAround { y with clock := y.clock + 1 }) (takeRequest c e s)))

/-- Has the scheduler of a channel something to do. -/
def dramBusy (s : State) (c : Nat) : Bool :=
  let x := chan s c
  s.clk.lockDs && x.state == 3 && (!(allWaits x.sched).isEmpty || (List.range x.ranks).any (fun r => tget 0 x.postponed r + tget 0 x.due r != 0))

/-- The last n SDRAM clocks of a channel up to now. Those in which its scheduler has nothing to do only pass. -/
def runClocks (c m : Nat) : Nat → State → State
  | 0, s => s
  | n + 1, s =>
    if dramBusy s c then runClocks c m n (dramClock c (s.clk.edges - n * 2500 / m) s) else modSched c (fun y => { y with clock := y.clock + n + 1 }) s

/-- A channel's SDRAM clocks run up to now (log 15). -/
def syncDram (c : Nat) (s : State) : State :=
  let m := chanMts (chan s c)
  runClocks c m (s.clk.edges * m / 2500 - (chan s c).sched.ranTo * m / 2500) (modSched c (fun y => { y with ranTo := s.clk.edges }) s)

/-! ## Requests of the clients (R466, R468, R473, R474) -/

/-- Edges from one patrol read of a burst to the next: every half once per PATROL_HOURS, evenly (R470). -/
def patrolPeriod (x : Chan) : Nat := x.patrolHours * 3600 * secE / max 1 (chanSize x / 64)

/-- A client's request reaches its channel. A read takes the halves that queued writes hold from them, without an SDRAM read (R474). -/
def putReq (client : Nat) (write : Bool) (c burst mask : Nat) (s0 : State) : State :=
  let s := chanTouch c (syncDram c s0)
  let y := (chan s c).sched
  let held := if write then 0 else (allWaits y).foldl (fun m x => if x.write && x.burst == burst then m ||| x.mask else m) 0
  let left := mask - (mask &&& held)
  let q : DramReq := { client := client, write := write, burst := burst, mask := left, seq := y.nextSeq }
  let s1 := if write && client != 6 then modChan c (fun x => if burst = x.patrolPos / 2 && decide (x.patrolAt + patrolPeriod x ≤ s.clk.edges) then { x with patrolOwn := x.patrolOwn ||| mask } else x) s else s
  if left = 0 then s1
  else modSched c (fun y => { y with nextSeq := y.nextSeq + 1, clients := tset [] y.clients client (tget [] y.clients client ++ [q]) }) s1

/-- A client's requests for n bytes at a device address, burst by burst (R466, R471). -/
def putBytes64 (client : Nat) (write : Bool) (a n : Nat) (s : State) : State :=
  if n < 64 then putReq client write (mapAddr s a).1 ((mapAddr s a).2 / 64) (2 ^ ((mapAddr s a).2 / 32 % 2)) s
  else (List.range (n / 64)).foldl (fun s i => putReq client write (mapAddr s (a + 64 * i)).1 ((mapAddr s (a + 64 * i)).2 / 64) 3 s) s

/-- A client writes bytes b, whole halves, at a device address: each half with its check lanes, those listed in bad poisoned (R468). -/
def writeHalves (client a : Nat) (b : List Byte) (bad : List Nat) (s : State) : State :=
  putBytes64 client true a b.length ((List.range (b.length / 32)).foldl (fun s i =>
    let p := mapAddr s (a + 32 * i)
    modDeep (fun d => { d with lanes := tput d.lanes (a / 32 + i) (checkLanes p.1 (p.2 / 32) (bad.contains i) (slice b (32 * i) 32)) }) s) s)

end Sys2Proof.Machine
end

