-- ==== Sys2Proof/Machine/Gleaner.lean ====
section
/-! DEFINITION. The Gleaner and the mirror sessions (spec/09 R310; spec/13 R437-R447, R456-R459). -/

namespace Sys2Proof.Machine

/-! ## Ring and counters -/

def glCtr (k : Nat) (s : State) : State := { s with gle := { s.gle with ctr := cinc s.gle.ctr k 1 } }
def ringRecords (s : State) : Nat := s.deep.gleanSize / 128
def ringLog (s : State) : Nat := Nat.log2 (ringRecords s)

/-- A Gleaner region of 2^k records, k from 13 to 26 (R456). -/
def glRegion (s : State) : Bool :=
  bit s.deep.enables 2 && s.deep.grain.isSome && 13 ≤ ringLog s && ringLog s ≤ 26 && s.deep.gleanSize == 128 * 2 ^ ringLog s

/-- Event 0x382: cause 1 for RECORDS_LOST, 2 for EARLY_RELEASES (R423, R455). -/
def glLoss (cause : Nat) (s : State) : State := fireMs 0 0x382 cause [] s
/-- A record is lost (R441). -/
def glLost (s : State) : State := glLoss 1 (glCtr 1 s)

/-! ## Header transfers (R310) -/

/-- The length of a furrow's copy of a frame, once it is complete or truncated. -/
def copyLength (x : Frame) (f : Nat) : Option Nat :=
  match copyOf x f with
  | some c => if c.tailMark then some (c.cutAt.getD 0) else if x.rxDone then some (effBytes x).length else none
  | none => if x.rxDone then some (effBytes x).length else none

/-- What a transfer carries: what the frame header says, and the first 128 frame bytes. -/
def xferOf (s : State) (f u : Nat) : GlXfer :=
  let x := frame s u
  let d := (decOf x f).getD {}
  { uid := u, fur := f, port := x.port, tag := x.tag, lead := x.lead, ns := x.ns, qns := x.qns, handle := d.handle,
    code := if d.dropped != 0 then 6 else if d.egress = hostBit then 7 else 0, prog := x.prog && f == x.lead, head := slice (effBytes x) 0 128,
    length := copyLength x f, verdict := x.verdict }

/-- Is a copy's header transfer due: its furrow has decided it, and it has not been sent (R310). -/
def xferDue (s : State) (f u : Nat) : Bool :=
  match copyOf (frame s u) f with
  | none => false
  | some c => c.transfer && (decOf (frame s u) f).isSome

/-- Transfers on their way: at the Gleaner's input, and granted (R310, R437). -/
def xfersHeld (s : State) : Nat :=
  s.gle.input.length + s.frames.foldl (fun n e => n + b2n (e.2.copyA.any (·.granted)) + b2n (e.2.copyB.any (·.granted))) 0

/-- HEADER_TRANSFER: the words of a transfer that the matcher has granted reach the Gleaner's input. The fabric outputs of a fenced furrow are held idle
(R27). -/
def headerTransfer (f u : Nat) (s : State) : State :=
  match copyOf (frame s u) f with
  | none => s
  | some c =>
    if !live s f || !c.granted || !xferDue s f u then s
    else
      let s1 := modGle (fun g => { g with input := g.input ++ [xferOf s f u] }) s
      tryReturn u f (modCopy u f (fun c => { c with transfer := false, granted := false }) s1)
def execHeaderTransfer (f : Furrow) (uid : Nat) (s : State) : Host.Outcome State Fault Refusal :=
  if s.clk.coreStopped then .next s else
  .next (headerTransfer (furNo f) uid s)

/-- HEADER_TRANSFER_TIMEOUT: a transfer not granted within 1 µs of its decision is skipped. -/
def execHeaderTransferTimeout (f : Furrow) (uid : Nat) (s : State) : Host.Outcome State Fault Refusal :=
  if s.clk.coreStopped then .next s else
  let n := furNo f
  match copyOf (frame s uid) n with
  | none => .next s
  | some c =>
    if c.granted || !xferDue s n uid then .next s
    else .next (fireFurMs n (xBase n + 3) 0 [] (xctr 16 1 n (tryReturn uid n (modCopy uid n (fun c => { c with transfer := false })
      (reachEdge (c.decidedAt + usE) s)))))

/-! ## Staging and release (R437, R440) -/

/-- The length of an entry's frame, once its copy is complete or truncated. -/
def recLength (s : State) (r : GlRec) : Option Nat :=
  match r.x.length, tget? s.frames r.x.uid with
  | some n, _ => some n
  | none, none => some 0
  | none, some x => copyLength x r.x.fur

/-- The verdict field of a record (R438). -/
def recVerdict (r : GlRec) : Nat :=
  if r.x.code != 0 then r.x.code else if r.x.fur != r.x.lead then 5 else if r.x.prog then r.x.verdict.getD 5 else 5

/-- The 128 bytes of a record (R438). -/
def recBytes (s : State) (r : GlRec) : List Byte :=
  let sq := r.seq.getD 0
  toLE 8 (t64OfNs r.x.ns) ++
  toLE 8 (r.x.port * 2 ^ 58 + r.x.handle * 2 ^ 38 + recVerdict r * 2 ^ 35 + ((recLength s r).getD 0) % 16384 * 2 ^ 21 + r.x.tag * 32 + r.x.qns * 8 +
    r.x.fur * 4 + (sq >>> ringLog s) % 4) ++ slice r.x.head 0 112

/-- Is a record releasable at an edge. -/
def releasable (s : State) (r : GlRec) (e : Nat) : Bool :=
  let done := (recLength s r).isSome
  r.built && ((done && (!r.x.prog || r.x.verdict.isSome || decide (r.opened + s.gle.verdictWait * usE ≤ e))) || decide (r.opened + msE ≤ e))

/-- A record goes to the writer as it stands; VERDICT_MISSING counts one without a verdict (R440). -/
def releaseRec (r : GlRec) (s : State) : State :=
  let s1 := if recVerdict r = 5 then glCtr 4 s else s
  modGle (fun g => { g with recs := g.recs.filter (fun y => y.seq != r.seq), outq := g.outq ++ [(r.seq.getD 0, recBytes s r)] }) s1

/-- GLEANER_RECORD_RELEASE: the record of a SEQUENCE, unless an earlier one of its port is still staged. -/
def execGleanerRecordRelease (seq : Nat) (s0 : State) : Host.Outcome State Fault Refusal :=
  if s0.clk.coreStopped then .next s0 else
  match s0.gle.recs.find? (fun r => r.seq == some seq) with
  | none => .next s0
  | some r =>
    if !r.built || s0.gle.recs.any (fun y => y.x.port == r.x.port && decide (y.seq.getD 0 < seq)) then .next s0
    else
      let due := if releasable s0 r s0.clk.edges then s0.clk.edges
        else if (recLength s0 r).isSome then r.opened + s0.gle.verdictWait * usE else r.opened + msE
      .next (releaseRec r (reachEdge due s0))

/-! ## Arrival (R437, R439, R442, R444) -/

/-- The freeze falls (R444). -/
def freeze (cause : Nat) (s : State) : State := modGle (fun g => { g with freezeCause := cause, freezeSeq := g.seq }) s

/-- The pair is remembered, so that its other transfer opens nothing. -/
def remember (x : GlXfer) (s : State) : State :=
  modGle (fun g => { g with recent := (x.port, x.tag, s.clk.edges) :: g.recent.filter (fun r => decide (s.clk.edges < r.2.2 + 200 * usE)) }) s

/-- The edge at which a paced action may happen, and when the next may: t and the cost are in 1/97 of an edge. -/
def paceEdge (t : Nat) : Nat := ceilDiv t 97
def paceNext (t cost : Nat) (s : State) : Nat := max t (97 * s.clk.edges) + cost

/-- The oldest released record goes to its slot, or is lost where the deep store cannot take it (R441, R479, R480). -/
def writeRecord (accepted : Bool) (s : State) : State :=
  match s.gle.outq with
  | [] => s
  | (sq, b) :: r =>
    let slot := sq % max 1 (ringRecords s)
    let a := s.deep.gleanBase + 128 * slot
    let s1 := modGle (fun g => { g with outq := r, outAt := paceNext g.outAt 1250 s }) s
    if accepted && glRegion s && deepUp s a then writeHalves 4 a b [] (glCtr 0 (modGle (fun g => { g with slots := tput g.slots slot b }) s1)) else glLost s1

/-- The oldest of the records that are not yet released. -/
def oldestRec (l : List GlRec) : Option GlRec :=
  l.foldl (fun a b => match a with | none => some b | some r => if b.seq.getD 0 < r.seq.getD 0 then some b else some r) none

/-- Room in the staging buffer: where it is full the oldest unreleased record is released as it stands, and the record released first goes to the deep
store at once (R440; log 94); none when all 4,096 wait for the deep store. -/
def stageRoom (s : State) : Option State :=
  if s.gle.recs.length + s.gle.outq.length < 4096 then some s
  else (oldestRec s.gle.recs).map (fun r => writeRecord true (glLoss 2 (glCtr 2 (releaseRec r s))))

/-- A STOP ring that SEQUENCE has filled is full, and event 0x380 tells it once (R442). -/
def stopFull (s : State) : State :=
  let g := s.gle
  if g.state = 2 && g.mode = 1 && ringRecords s ≤ g.seq then
    let s1 := modGle (fun g => { g with state := 5, fullReported := true }) s
    if g.fullReported then s1 else fire 0x380 0x02 [] s1
  else s

/-- A new pair entry takes the next SEQUENCE. -/
def openPair (x : GlXfer) (s0 : State) : State :=
  let sq := s0.gle.seq
  let s1 := modGle (fun g => { g with seq := (g.seq + 1) % 2 ^ 48 }) s0
  let s2 := match stageRoom s1 with
    | none => glLost s1
    | some s => modGle (fun g => { g with recs := g.recs ++ [{ x := x, seq := some sq, opened := s.clk.edges, built := x.fur == x.lead }] }) s
  stopFull (if s2.gle.state = 3 && s2.gle.freezeCause = 0 && s2.gle.trigSeq + ringRecords s2 / 2 ≤ s2.gle.seq then freeze 2 s2 else s2)

/-- The two transfers of a pair: what the frame's end and its verdict have added to either is known. -/
def joinXfer (old new : GlXfer) : GlXfer := { new with length := new.length.or old.length, verdict := new.verdict.or old.verdict }

/-- One transfer paired, or a new entry opened, or refused. One stamped past T_g + POST_TIME counts from the trigger's acceptance on (R444). -/
def pairXfer (x : GlXfer) (s0 : State) : State :=
  let g := s0.gle
  match g.recs.find? (fun r => r.x.port == x.port && r.x.tag == x.tag) with
  | some r =>
    if r.built || x.fur != x.lead then s0
    else modGle (fun g => { g with recs := g.recs.map (fun y => if y.seq == r.seq then { y with x := joinXfer y.x x, built := true } else y) }) s0
  | none =>
    if g.recent.any (fun r => r.1 == x.port && r.2.1 == x.tag && decide (s0.clk.edges < r.2.2 + 200 * usE)) then s0
    else
      let s := remember x s0
      if g.state = 2 then openPair x s
      else if g.state = 3 || g.state = 4 then
        if g.tg + g.postTime * 1000000 < x.ns then glCtr 7 s else if g.state = 3 && g.freezeCause = 0 then openPair x s else s
      else if g.state = 5 then glCtr 7 s
      else s

/-- GLEANER_TRANSFER_ARRIVAL: the oldest transfer at the input, 194,000,000 a second. -/
def execGleanerTransferArrival (s0 : State) : Host.Outcome State Fault Refusal :=
  if s0.clk.coreStopped then .next s0 else
  match s0.gle.input with
  | [] => .next s0
  | x :: r =>
    let s := reachEdge (paceEdge s0.gle.inAt) s0
    .next (pairXfer x (modGle (fun g => { g with input := r, inAt := paceNext g.inAt 625 s }) s))

/-- GLEANER_PAIR_TIMEOUT: 10 µs after the other furrow's transfer, the record is built from it. -/
def execGleanerPairTimeout (seq : Nat) (s0 : State) : Host.Outcome State Fault Refusal :=
  if s0.clk.coreStopped then .next s0 else
  match s0.gle.recs.find? (fun r => r.seq == some seq && !r.built) with
  | none => .next s0
  | some r =>
    .next (glCtr 3 (modGle (fun g => { g with recs := g.recs.map (fun y => if y.seq == some seq then { y with built := true } else y) })
      (reachEdge (r.opened + 10 * usE) s0)))

/-- A frame has ended: its records keep the length. -/
def gleanEnd (u n : Nat) (s : State) : State := gleanNote u (fun x => { x with length := x.length.or (some n) }) s

/-- The verdict that furrow f releases for a frame that it leads. -/
def gleanVerdict (f u v : Nat) (s : State) : State := gleanNote u (fun x => if x.lead = f then { x with verdict := x.verdict.or (some v) } else x) s

/-- GLEANER_RECORD_WRITE: the oldest released record is written, 97,000,000 a second (R441). accepted: the deep store's write queue takes it. -/
def execGleanerRecordWrite (accepted : Bool) (s : State) : Host.Outcome State Fault Refusal :=
  if s.clk.coreStopped then .next s else
  if s.gle.outq.isEmpty then .next s else .next (writeRecord accepted (reachEdge (paceEdge s.gle.outAt) s))

/-! ## Triggers and freeze (R443, R444) -/

/-- A trigger of an enabled source: accepted with its TRIGGER_SEQ, or ignored. From any other source there is none. -/
def glTrigger (src tg : Nat) (enabled : Bool) (s : State) : Bool × State :=
  let g := s.gle
  if g.mode = 2 && g.state = 2 && enabled then
    (true, fire 0x381 0x01 (toLE 8 (t64OfNs tg) ++ toLE 6 g.seq ++ toLE 1 src)
      (glCtr 5 (modGle (fun g => { g with state := 3, tg := tg, trigSeq := g.seq, trigSrc := src, freezeCause := 0 }) s)))
  else if enabled && (g.state = 3 || g.state = 4) then (false, fireMs 1 0x381 0x02 [] (glCtr 6 s))
  else (false, s)

/-- GLEANER_FREEZE: the time base reaches T_g + POST_TIME + 100 µs. -/
def execGleanerFreeze (s0 : State) : Host.Outcome State Fault Refusal :=
  if s0.clk.coreStopped then .next s0 else
  let g := s0.gle
  if g.state != 3 || g.freezeCause != 0 then .next s0
  else .next (freeze 1 (reachNs (g.tg + g.postTime * 1000000 + 100000) s0))

/-- GLEANER_FROZEN: the last staged records are written. -/
def execGleanerFrozen (s : State) : Host.Outcome State Fault Refusal :=
  if s.clk.coreStopped then .next s else
  let g := s.gle
  if g.state != 3 || g.freezeCause = 0 || !g.recs.isEmpty || !g.outq.isEmpty then .next s
  else .next (fire 0x380 0x03 (toLE 6 g.freezeSeq ++ toLE 1 g.freezeCause) (modGle (fun g => { g with state := 4 }) s))

/-- GLEANER_INIT_COMPLETE: 2 x 10^9 bytes/s (R439). Switched off meanwhile, the ring is initialised to the end and then off (log 70). -/
def execGleanerInitComplete (s0 : State) : Host.Outcome State Fault Refusal :=
  if s0.clk.coreStopped then .next s0 else
  if s0.gle.state != 1 then .next s0
  else
    let s := reachEdge (s0.gle.initAt + ceilDiv (s0.deep.gleanSize * 5) 8) s0
    let s1 := fire 0x380 0x01 [] (modGle (fun g => { g with state := if g.enable then 2 else 0, initTickets := [] }) s)
    .next (s.gle.initTickets.foldl (fun s t => complete t stOk [] s) s1)

/-! ## COPY and the copy header (R445) -/

/-- The 64-byte copy header. -/
def glHeader (s : State) (first count seq0 : Nat) : List Byte :=
  let g := s.gle
  let b := [0x47, 0x4C, 0x01] ++ toLE 1 (ringLog s) ++ toLE 6 first ++ zeros 2 ++ toLE 4 count ++ toLE 6 seq0 ++ zeros 2 ++ toLE 6 g.seq ++
    toLE 1 g.mode ++ toLE 1 g.state ++ toLE 8 (if g.trigSrc = 0 then 0 else t64OfNs g.tg) ++ toLE 6 g.trigSeq ++ toLE 1 g.trigSrc ++
    toLE 1 g.freezeCause ++ toLE 6 g.freezeSeq ++ zeros 2 ++ toLE 4 (tget 0 g.ctr 1)
  b ++ toLE 4 (crc32 b)

/-- A slot as initialisation leaves it: LAP 0b11, the rest 0. -/
def slotEmpty : List Byte := zeros 8 ++ toLE 8 3 ++ zeros 112
/-- A slot of the ring. -/
def slotAtRing (s : State) (i : Nat) : List Byte := (tget? s.gle.slots i).getD slotEmpty

/-- A record whose read fails goes out with STAMP and META 0 (R469). bad lists the SEQUENCEs. -/
def copyRecord (s : State) (bad : List Nat) (sq : Nat) : List Byte :=
  let b := slotAtRing s (sq % max 1 (ringRecords s))
  if bad.contains sq then zeros 16 ++ b.drop 16 else b

/-- The device address of the slot of a SEQUENCE (R439). -/
def slotAddr (s : State) (sq : Nat) : Nat := s.deep.gleanBase + 128 * (sq % max 1 (ringRecords s))

/-- The copy at the front of the queue starts: its reads are put (R473). -/
def copyStarts (s : State) : State :=
  match s.gle.copies with
  | [] => s
  | c :: r => (List.range c.count).foldl (fun s i => putBytes64 5 false (slotAddr s (c.first + i)) 128 s)
      (modGle (fun g => { g with copies := { c with startSeq := s.gle.seq, startedAt := s.clk.edges } :: r }) s)

/-- GLEANER_COPY_DONE: the header and the records are in host memory; those on a channel that has failed are lost (R469, R480). -/
def execGleanerCopyDone (bad : List Nat) (s0 : State) : Host.Outcome State Fault Refusal :=
  if s0.clk.coreStopped then .next s0 else
  match s0.gle.copies with
  | [] => .next s0
  | c :: rest =>
    let s := reachEdge (c.startedAt + ceilDiv (c.count * 128 * 5) 8) s0
    let h := glHeader s c.first c.count c.startSeq
    let sqs := (List.range c.count).map (fun i => c.first + i)
    let lost := sqs.filter (fun q => bad.contains q || !deepHolds s (slotAddr s q))
    let s1 := lost.foldl (fun s q => modChan (mapAddr s (slotAddr s q)).1 (fun ch => { ch with copyErrors := wrap32 (ch.copyErrors + 1) }) s) s
    .next (complete c.ticket stOk h (copyStarts (emitOut (.hostWrite c.addr (h ++ sqs.flatMap (copyRecord s lost))) (modGle (fun g => { g with copies := rest }) s1))))

/-! ## Commands (R456, R457) -/

def specGleanerSet : CmdSpec := { opcode := 0x0C01, priv := 1, mask := 0x7, lenOk := lenForms 0 [(0, len 20), (1, len 4), (2, len 24)] }
/-- R456. -/
def bodyGleanerSet (p : Packet) (s : State) : CmdResult :=
  let b := p.params
  let g := s.gle
  match byteAt b 0 with
  | 0 =>
    let on := byteAt b 4 == 1
    let h := le b 12 4
    checked [(reservedAt b 1 3, 1), (byteAt b 4 ≤ 1, 4), (byteAt b 5 ≤ 2, 5), (byteAt b 6 < 4, 6), (1 ≤ byteAt b 7 && byteAt b 7 ≤ 100, 7),
      (le b 8 4 ≤ 60000, 8),
      (decide (h < 2 ^ 20) && (h != 0 || !bit (byteAt b 6) 1), 12)] <|
    if !glRegion s then .conflict
    else
      let g1 := { g with mode := byteAt b 5, flags := byteAt b 6, verdictWait := byteAt b 7, postTime := le b 8 4, handle := h, gpioMask := le b 16 4 }
      if on && !g.enable then
        .accepted { s with gle := { g1 with
          enable := true, state := 1, seq := 0, tg := 0, trigSeq := 0, trigSrc := 0, freezeCause := 0, freezeSeq := 0, fullReported := false,
          recs := [], outq := [], slots := [], initAt := s.clk.edges, initTickets := g.initTickets ++ [ticketFor specGleanerSet p] } }
      else .ok [] (stopFull { s with gle := { g1 with
        enable := on, state := if !on && g.state != 1 then 0 else if g.state = 5 && g1.mode != 1 then 2 else g.state } })
  | 1 => checked [(reservedAt b 1 3, 1)] (.ok (glHeader s 0 0 g.seq) s)
  | 2 =>
    let first := le b 4 6
    let n := le b 12 4
    let ad := le b 16 8
    checked [(reservedAt b 1 3, 1), (reservedAt b 10 2, 10), (1 ≤ n && n ≤ 67108864, 12), (ad % 64 == 0, 16)] <|
    if g.state = 1 then .refuse stBusy 0
    else checked [(decide (g.seq ≤ first + ringRecords s) && decide (first + n ≤ g.seq), 4)] <|
      let s1 := modGle (fun g => { g with copies := g.copies ++ [{ first := first, count := n, addr := ad, startSeq := g.seq, startedAt := s.clk.edges, ticket := ticketFor specGleanerSet p }] }) s
      .accepted (if g.copies.isEmpty then copyStarts s1 else s1)
  | _ => .badParam 0
def execGleanerSet (p : Packet) (s : State) : Host.Outcome State Fault Refusal := serveCmd specGleanerSet (unlessRetrain bodyGleanerSet) p s

def specGleanerTrigger : CmdSpec := { opcode := 0x0C02, priv := 1, mask := 0x6, lenOk := lenForms 0 [(0, len 12), (1, len 12)] }
/-- R457. -/
def bodyGleanerTrigger (p : Packet) (s : State) : CmdResult :=
  let b := p.params
  let t := le b 4 8
  match byteAt b 0 with
  | 0 =>
    checked [(reservedAt b 1 3, 1), (t64Ok t && decide (nsOfT64 t ≤ nowNs s), 4)] <|
    match glTrigger 0x03 (if t = 0 then nowNs s else nsOfT64 t) true s with
    | (true, s1) => .ok (toLE 6 s1.gle.trigSeq ++ zeros 2) s1
    | (false, s1) => .ok (List.replicate 6 0xFF ++ zeros 2) s1
  | 1 =>
    checked [(reservedAt b 1 3, 1)] <|
    if s.gle.state != 4 then .conflict
    else .ok [] (stopFull (modGle (fun g => { g with state := 2, freezeCause := 0, trigSrc := 0, tg := 0, trigSeq := 0 }) s))
  | _ => .badParam 0
def execGleanerTrigger (p : Packet) (s : State) : Host.Outcome State Fault Refusal := serveCmd specGleanerTrigger bodyGleanerTrigger p s

/-! ## Mirror (R446, R447, R459) -/

def mirrorCfg (s : State) (i : Nat) : MirrorCfg := tget {} s.mirrors i
def modMirror (i : Nat) (g : MirrorCfg → MirrorCfg) (s : State) : State := { s with mirrors := tmod {} s.mirrors i g }

/-- A copy of session i was lost: MIRROR_DROPS and its event. -/
def mirrorDrop (i : Nat) (s : State) : State :=
  fireMs 0 (0x388 + i) 0 [] (modMirror i (fun m => { m with drops := wrap32 (m.drops + 1) }) s)

/-- Does session i select a frame (R446). -/
def mirrorPicks (s : State) (i : Nat) (x : Frame) (cls egress mask : Nat) : Bool :=
  let m := mirrorCfg s i
  m.set && bit m.classMask cls && (bit m.inMask x.port || m.egMask &&& egress != 0 || (bit m.flags 0 && bit mask i))

/-- A frame's copies enter the lanes (MIRROR, analysis port, TC0) of the furrow that admits it, outside the TC7 reserve (R288, R447). -/
def mirrorFrame (f u h cls egress mask : Nat) (s : State) : State :=
  let x := frame s u
  (List.range 4).foldl (fun s i =>
    if !mirrorPicks s i x cls egress mask then s
    else if 262144 ≤ laneUsed s f + s.gran.laneReserve then mirrorDrop i s
    else
      let m := mirrorCfg s i
      let key := laneKey 70 m.port 0
      touchPort m.port false <| modMirror i (fun m => { m with copies := wrap32 (m.copies + 1) })
        (modCopy u h (fun c => { c with fanout := c.fanout + 1 })
          (setLane f key (laneOf s f key ++ [{ uid := u, half := h, mirror := some (i, m.truncate), cutBad := bit m.flags 1 }]) s))) s

/-- MIRROR_GRACE_EXPIRY: 20 µs after the original's last other lane entry has gone, a copy of TC5-TC7 that has not begun to cross goes. -/
def execMirrorGraceExpiry (session uid : Nat) (s : State) : Host.Outcome State Fault Refusal :=
  if s.clk.coreStopped then .next s else
  let x := frame s uid
  let is := fun (e : Entry) => e.uid == uid && e.moved == 0 && (match e.mirror with | some (i, _) => i == session | none => false)
  let others := [0, 1].any (fun f => (fur s f).lanes.any (fun e => e.2.any (fun y => y.uid == uid && y.mirror.isNone)))
  if x.class_ < 5 || others then .next s
  else
    .next ([0, 1].foldl (fun s f =>
      match (fur s f).lanes.findSome? (fun l => (l.2.find? is).map (fun e => (l.1, e))) with
      | none => s
      | some (key, e) =>
        mirrorDrop session (tryReturn uid e.half (modCopy uid e.half (fun c => { c with fanout := c.fanout - 1 })
          (setLane f key ((laneOf s f key).filter (fun y => !is y)) s)))) (reachEdge (x.restGone.getD s.clk.edges + 20 * usE) s))

def specMirrorSet : CmdSpec := { opcode := 0x0C03, priv := 1, mask := 0x7, lenOk := lenForms 1 [(0, len 24), (1, len 24), (2, len 24)] }
/-- The ports that a mirror session names. -/
def mirrorPorts (m : MirrorCfg) : List Nat := if m.set then m.port :: maskPorts (m.inMask ||| m.egMask) else []

/-- R459. It touches the ports that the session named and those that it names now (R33). -/
def bodyMirrorSet (p : Packet) (s : State) : CmdResult :=
  let b := p.params
  let i := byteAt b 0
  let a := byteAt b 2
  let tr := le b 6 2
  let im := le b 8 8
  let em := le b 16 8
  let all : List (Bool × Nat) := [(i < 4, 0), (byteAt b 3 < 4, 3), (reservedAt b 5 1, 5)]
  let t := touchPorts (mirrorPorts (mirrorCfg s i)) s
  match byteAt b 1 with
  | 0 =>
    checked [(i < 4, 0), (portExists s a && !bit im a && !bit em a, 2), (byteAt b 3 < 4, 3), (reservedAt b 5 1, 5),
      (tr == 0 || (64 ≤ tr && tr ≤ 9216), 6), (maskOk s im, 8), (maskOk s em, 16)] <|
    .ok [] (touchPorts (a :: maskPorts (im ||| em)) <|
      modMirror i (fun m => { m with set := true, port := a, flags := byteAt b 3, classMask := byteAt b 4, truncate := tr, inMask := im, egMask := em }) t)
  | 1 => checked all (.ok [] (modMirror i (fun m => { copies := m.copies, drops := m.drops }) t))
  | 2 =>
    checked all <|
    let m := mirrorCfg s i
    .ok (toLE 1 i ++ zeros 1 ++ toLE 1 m.port ++ toLE 1 m.flags ++ toLE 1 m.classMask ++ zeros 1 ++ toLE 2 m.truncate ++ toLE 8 m.inMask ++
      toLE 8 m.egMask ++ toLE 4 m.copies ++ toLE 4 m.drops) t
  | _ => .badParam 1
def execMirrorSet (p : Packet) (s : State) : Host.Outcome State Fault Refusal := serveCmd specMirrorSet bodyMirrorSet p s

end Sys2Proof.Machine
end

