-- ==== Sys2Proof/Machine/Admit.lean ====
section
/-! DEFINITION. Admission, release to the lanes, offers, spill and shaped streams (spec/08 R277, R285-R290; spec/09 R307-R314;
spec/10 R329, R355; spec/11 R367-R371, R380). -/

namespace Sys2Proof.Machine

/-! ## Data rates (R95) -/

/-- Tenths of an edge that one byte takes at a mode and, for PHY ports, a speed code of R124. -/
def tickOf (mode speed : Nat) : Nat :=
  match mode with
  | 1 => 1000
  | 2 => 100
  | 3 | 5 => if speed = 0 then 10000 else if speed = 1 then 1000 else 100
  | 4 => 40
  | 6 => match speed with | 0 => 10000 | 1 => 1000 | 2 => 100 | 3 => 40 | 4 => 20 | _ => 10
  | 7 => 10
  | 8 => 4
  | 9 => 1
  | _ => 100

/-- A port's mode in force: as its bring-up left it, else as configured. -/
def modeOf (s : State) (p : Nat) : Nat :=
  let x := port s p
  if x.link.runMode = 0 then x.cfg.mode else x.link.runMode
def portTick (s : State) (p : Nat) : Nat := tickOf (modeOf s p) (port s p).link.speed

/-! ## The words of a copy (R299, R301) -/

/-- Frame bytes that a copy holds in the end. -/
def copyLen (x : Frame) (c : Copy) : Nat := match c.cutAt with | some n => n | none => (effBytes x).length
/-- Words of a copy: its header and 32 frame bytes a word. -/
def copyWords (x : Frame) (c : Copy) : Nat := 1 + ceilDiv (copyLen x c) 32
/-- Words written by an edge. -/
def writtenWords (x : Frame) (c : Copy) (e : Nat) : Nat :=
  if c.complete then copyWords x c
  else min (c.cells.length * 8) (if x.rxDone then copyWords x c else 1 + rxBytes x e / 32)

/-! ## Offers (R313, R314, R369) -/

/-- May the PRP check apply to a copy toward a port: the trailer itself is known only at frame end. -/
def prpMaybe (s : State) (x : Frame) (out : Nat) : Bool :=
  x.kind == 0 && (netOf s x.port).isSome && (netOf s out).isNone && (ringOf s out).isNone && decide (out < 64)

/-- Is a furrow's copy held by an inline activation (R233). -/
def heldInline (x : Frame) (f : Nat) : Bool := if f = 0 then x.holdA else x.holdB

/-- How a lane entry of furrow f may be offered now: cut-through, store-and-forward, or not. -/
def offerKind (s : State) (f key : Nat) (e : Entry) : Option Bool :=
  let x := frame s e.uid
  match copyOf x e.half with
  | none => none
  | some c =>
    let inp := key / 8 / 72
    let out := key / 8 % 72
    if e.spill then none
    else if e.mirror.isSome then (if c.complete then some false else none)
    else if c.tailMark || c.poison || heldInline x f then none
    else if c.complete then some false
    else if inp < 64 && out < 64 && x.kind = 0 && !x.spilled && !prpMaybe s x out && portTick s inp ≤ portTick s out then some true
    else none

/-- The PRP check of an entry about to be offered (R369): 1 passed, 2 deferred, 3 dropped, 4 passed unchecked. -/
def prpCheck (f key : Nat) (e : Entry) (s : State) : Nat × State :=
  let x := frame s e.uid
  let out := key / 8 % 72
  let ps := winParse s f x
  if !(prpMaybe s x out && hasTrailer ps) then (1, s)
  else
    let net := match netOf s x.port with | some (n, _) => n | none => 0
    let s0 := noteWrongLan out x ps s
    match nodeSlot net (srcOf x) out (trailerSeq ps) (lanId s x.port - 0xA) s0 with
    | (none, s1) => (4, wctr 9 out s1)
    | (some st, s1) =>
      let waiting := (fur s1 f).lanes.any (fun l => l.1 / 8 % 72 == out && l.2.any (fun y =>
        y.prp == 2 && (netOf s1 (frame s1 y.uid).port).map (·.1) == some net && srcOf (frame s1 y.uid) == srcOf x && trailerSeq (winParse s1 f (frame s1 y.uid)) == trailerSeq ps))
      match slotRow st f waiting with
      | 5 => (1, wctr 9 out (setNodeSlot net (srcOf x) out (trailerSeq ps) (1 + f) s1))
      | 6 => (2, s1)
      | _ => (3, wctr 10 out s1)

/-- The discard entry that the PRP check of a frame reads toward a port is uncorrectable (R365, R369). -/
def discardUpset (u out : Nat) (s : State) : State :=
  let x := frame s u
  if prpMaybe s x out && hasTrailer (winParse s s.hl.lead x) then
    match netOf s x.port with
    | some (n, _) => nodeFault false n (srcOf x) out out s
    | none => s
  else s

/-- What an entry that passed the PRP check holds. -/
def prpHold (s : State) (f out : Nat) (e : Entry) : List Hold :=
  let x := frame s e.uid
  let ps := winParse s f x
  if (e.prp = 1 || e.prp = 5) && prpMaybe s x out && hasTrailer ps then
    match netOf s x.port with
    | some (n, _) => [{ kind := 3, key := nodeKey n (srcOf x) out, slot := trailerSeq ps, gone := e.prp == 5 }]
    | none => []
  else []

/-- An entry with a passed PRP check goes without being sent: the slot is OPEN again (R363). -/
def prpGone (f key : Nat) (e : Entry) (s : State) : State :=
  let out := key / 8 % 72
  if e.prp = 1 || e.prp = 5 then winOutcome out { uid := e.uid, id := f, fur := f, input := 0, cls := 0, holds := prpHold s f out e } false s else s

/-- A lane entry goes: FANOUT falls, and the copy may return. -/
def entryGone (f key : Nat) (e : Entry) (s : State) : State :=
  tryReturn e.uid e.half (modCopy e.uid e.half (fun c => { c with fanout := c.fanout - 1 }) (prpGone f key e s))

/-- One entry of a copy offered, or dropped by the PRP check. -/
def offerEntry (f key : Nat) (e : Entry) (s : State) : State :=
  let put := fun (g : Entry → Entry) (s : State) =>
    setLane f key ((laneOf s f key).map (fun y => if y.uid = e.uid && y.half = e.half && y.mirror = e.mirror then g y else y)) s
  match offerKind s f key e with
  | none => s
  | some ct =>
    let (k, s1) := if ct || e.mirror.isSome then (1, s) else prpCheck f key e s
    match k with
    | 1 | 4 => xctr (if ct then 3 else 4) 1 f (put (fun y => { y with offered := some s1.clk.edges, cutThrough := ct, prp := if ct then 0 else k }) s1)
    | 2 => put (fun y => { y with prp := 2 }) s1
    | _ => entryGone f key { e with prp := 0 } (setLane f key ((laneOf s1 f key).filter (fun y => !(y.uid = e.uid && y.half = e.half && y.mirror.isNone))) s1)

/-- Every unoffered entry of a copy in a furrow. -/
def offerCopy (u h f : Nat) (s : State) : State :=
  let l := (fur s f).lanes.flatMap (fun e => (e.2.filter (fun y => y.uid == u && y.half == h && y.offered.isNone && y.prp == 0)).map (fun y => (e.1, y)))
  l.foldl (fun s e => offerEntry f e.1 e.2 s) s

/-- COPY_COMPLETE: the last cell is written. Entries of a bad copy not yet offered are discarded (R314). -/
def copyComplete (u h : Nat) (s : State) : State :=
  let x := frame s u
  match copyOf x h with
  | none => s
  | some c =>
    if !x.rxDone || c.complete || x.spillDone || c.cells.length < cellsFor (effBytes x).length then s
    else
      let s1 := modCopy u h (fun c => { c with complete := true }) s
      let s2 := [0, 1].foldl (fun s f =>
        if c.poison then
          let gone := (fur s f).lanes.flatMap (fun e => (e.2.filter (fun y => y.uid == u && y.half == h && y.offered.isNone && y.mirror.isNone)).map (fun y => (e.1, y)))
          gone.foldl (fun s e => entryGone f e.1 e.2 (xctr 14 1 f (setLane f e.1 ((laneOf s f e.1).filter (fun y => !(y.uid = u && y.half = h && y.offered.isNone && y.mirror.isNone))) s)))
            (offerCopy u h f s)
        else offerCopy u h f s) s1
      tryReturn u h s2
/-- COPY_COMPLETE. half: bit 0 the half of the copy; with 2 x (1 + p) added the discard entry of an offer toward Pp is uncorrectable, and with
2 x (128 + m) a word of memory m is corrected. -/
def execCopyComplete (uid half : Nat) (s : State) : Host.Outcome State Fault Refusal :=
  if s.clk.coreStopped then .next s else
  .next (copyComplete uid (half % 2) (if half < 2 then s else if half < 256 then discardUpset uid (half / 2 - 1) s else (readBelow 128 (half / 2) s).2))

/-! ## Release to the lanes (R288, R307) -/

/-- Ports of an egress set, rising. -/
def portsOf (egress : Nat) : List Nat := bitList 72 egress

/-- A copy is dropped after its decision: no list and no lane entry holds it any more, and its cells return once its header transfer has gone (R310). -/
def dropLate (u h : Nat) (s : State) : State :=
  tryReturn u h (modCopy u h (fun c => { c with dropped := true, released := true, undecided := false, fanout := 0 })
    (dropEntries u h 1 false (dropEntries u h 0 false (unhold u h s))))

/-- A copy takes its lane entries in furrow f for an egress set, all or none (R288). LANE_FULL_DROPS counts the frame. Those of a copy that has ended
are discarded (R312). -/
def releaseCopy (u h f egress : Nat) (s : State) : State :=
  let x := frame s u
  match copyOf x h with
  | none => s
  | some c =>
    let hostFull := bit egress 64 && 4096 ≤ hostEntries s f
    let s1 := if hostFull then fireFurMs f (xBase f + 2) 0 [] (xctr 15 1 f s) else s
    let eg := if hostFull then egress - hostBit else egress
    let outs := portsOf eg
    if outs.isEmpty then dropLate u h s1
    else if !laneRoom s1 f x.class_ outs.length then dropLate u h (laneFullDrop u s1)
    else if c.tailMark then tryReturn u h (xctr 14 outs.length f (modCopy u h (fun c => { c with released := true }) s1))
    else
      let k := x.class_
      let inp := if x.kind != 0 then 64 else x.port
      let spill := x.spilled
      let s2 := outs.foldl (fun s o =>
        let key := laneKey inp o k
        setLane f key (laneOf s f key ++ [{ uid := u, half := h, spill := spill }]) s) s1
      let s3 := modCopy u h (fun c => { c with
        fanout := c.fanout + (if spill then 0 else outs.length), released := true, earlyRelease := c.earlyRelease || (!c.complete && !spill) }) s2
      let s4 := outs.foldl (fun s o => if o < 64 then touchPort o (k == 7) s else s) s3
      offerCopy u h f s4

def setHold (u f : Nat) (v : Bool) (s : State) : State := modFrame u (fun x => if f = 0 then { x with holdA := v } else { x with holdB := v }) s

/-- Did a furrow's header path fail for a frame: it dropped its copy and decides nothing (R144). -/
def headerFailed (x : Frame) (f : Nat) : Bool := match decOf x f with | some d => d.dropped == 5 | none => false

/-- The furrow whose decision admits a frame: its lead bit's, or the other where the frame is TC7 and that one is fenced, or dropped its copy for its
header path (R144, R285, R383). -/
def admitFur (s : State) (x : Frame) : Nat :=
  if x.early = 7 && (furState s x.lead != 0 || headerFailed x x.lead) && live s (other x.lead) then other x.lead else x.lead

/-- The half that holds a frame written once. -/
def onlyHalf (x : Frame) : Nat := if x.copyA.isSome then 0 else 1

/-- The half whose copy of a frame is forwarded, and released: the admitting furrow's where it was written to both (R54). -/
def relHalf (s : State) (x : Frame) : Nat := if x.early = 7 then admitFur s x else onlyHalf x

/-- The furrow whose lanes take an admitted frame of TC0-TC6: the one that admitted it, or the lead where that is fenced by now (R28, R288). -/
def laneFur (s : State) (x : Frame) : Nat := if live s (admitFur s x) then admitFur s x else s.hl.lead

/-- A TC7 copy is released once its frame is admitted and its own furrow has decided it. -/
def releaseTwin (u f : Nat) (s : State) : State :=
  let x := frame s u
  match copyOf x f, decOf x f with
  | some c, some d =>
    if !x.admitted || c.released || heldInline x f then s
    else if d.dropped != 0 || d.class_ < 7 then dropLate u f s
    else
      let eg := if bit d.egress 64 && f != s.hl.lead then d.egress - hostBit else d.egress
      releaseCopy u f f eg s
  | _, _ => s

/-- An admitted, unshaped frame goes to the lanes (R288, R380). -/
def releaseFrame (u : Nat) (s : State) : State :=
  let x := frame s u
  let l := admitFur s x
  if x.class_ = 7 then releaseTwin u 1 (releaseTwin u 0 s)
  else if heldInline x l then s
  else
    let eg := match decOf x l with | some d => d.egress | none => 0
    releaseCopy u (relHalf s x) (laneFur s x) eg s

/-- The entries of furrow f, which did not admit it, for an overlap frame: once the admitting furrow's decision is in, to network ports only, and as
many as FANOUT 72 leaves room for, the lowest ports first (log 75); none once f is fenced (R380), or where f's lanes have no room for them all (R288).
An inline frame waits for f's verdict (R313). -/
def releaseOverlap (u f : Nat) (s : State) : State :=
  let x := frame s u
  let h := onlyHalf x
  match copyOf x h, decOf x f with
  | some c, some d =>
    if !x.admitted || x.class_ = 7 || d.dropped != 0 || x.shaped || x.spilled || d.class_ = 7 || heldInline x f || !live s f then s
    else
      let outs := ((portsOf d.egress).filter (· < 64)).take (72 - c.fanout)
      if outs.isEmpty then s
      else if !laneRoom s f d.class_ outs.length then laneFullDrop u s
      else
        let s1 := outs.foldl (fun s o =>
          let key := laneKey x.port o d.class_
          touchPort o false (setLane f key (laneOf s f key ++ [{ uid := u, half := h }]) s)) s
        offerCopy u h f (modCopy u h (fun c => { c with fanout := c.fanout + outs.length, earlyRelease := c.earlyRelease || !c.complete }) s1)
  | _, _ => s

/-- Has a copy of a frame cells still to keep. -/
def keeps (s : State) (u h : Nat) : Bool := match copyOf (frame s u) h with | some c => !c.dropped | none => false

/-- The mirror copies of a frame, taken as it is released, in the furrow that forwards it (R446, R447). -/
def mirrorOut (u : Nat) (s : State) : State :=
  let x := frame s u
  let l := admitFur s x
  let d := (decOf x l).getD {}
  let h := relHalf s x
  if keeps s u h then mirrorFrame (if x.class_ = 7 then l else laneFur s x) u h x.class_ d.egress d.mirror s else s

/-! ## Admission (R285) -/

/-- One cell of a copy rebooked along levels 1-4 (R277, R278): the level, or what failed. -/
def rebookCell (u h cell : Nat) (s : State) : Walk × State :=
  let x := frame s u
  match walk s x.queue x.class_ x.port h x.dropElig (isHost x) with
  | .level l =>
    let s1 := countCell x.queue x.class_ h true (chargeLevel h l x.class_ x.port (isHost x) true (chargeLevel h 0 x.class_ x.port false false
      (modCopy u h (fun c => { c with cells := c.cells.map (fun e => if e.1 = cell then (cell, l) else e) }) s)))
    (.level l, if l = 3 then pauseTx x.port x.class_ s1 else s1)
  | w => (w, s)

/-- The accounting stage serves the rebooking of a copy's cell; one that fails drops the copy (R279, R280). -/
def serveRebook (h u cell : Nat) (s : State) : State :=
  let seen := fun (s : State) => dropLate u h (modQueue (frame s u).queue (fun q => { q with dropSeen := true }) s)
  let x := frame s u
  if !halfOpen s h then allocEvent x.port x.class_ 4 (gctr 4 h (seen s))
  else
    match rebookCell u h cell s with
    | (.level _, s1) => s1
    | (.limit, s1) => limitEvent (if x.queue < 2 ^ 20 then x.queue else 0) (gctr 6 h (seen s1))
    | (.full l, s1) => allocEvent x.port x.class_ l (gctr 4 h (seen s1))

/-- Every copy of a frame is dropped after its decision. -/
def dropFrame (u : Nat) (s : State) : State :=
  reap u (dropLate u 1 (dropLate u 0 (modFrame u (fun x => { x with admitted := false }) s)))

/-- The networks and rings that a frame toward an egress set enters from outside, each with its first port in the set (R368, R370). Codes as in
nodeIs. -/
def seqNets (s : State) (x : Frame) (egress : Nat) : List (Nat × Nat) :=
  let ps := winParse s s.hl.lead x
  let outs := (portsOf egress).filter (· < 64)
  let from_ := fun (place : Option (Nat × Nat)) (n : Nat) => x.kind == 0 && (place.map (·.1)) == some n
  let first := fun (place : Nat → Option (Nat × Nat)) (n code : Nat) =>
    (outs.find? (fun o => ((place o).map (·.1)) == some n)).map (fun o => (code, o))
  (List.range 4).filterMap (fun n =>
    if from_ (netOf s x.port) n || !bit (prpNet s n).flags 0 || hasTrailer ps then none else first (netOf s) n n) ++
  (List.range 8).filterMap (fun n => if from_ (ringOf s x.port) n || hasHsr ps then none else first (ringOf s) n (16 + n))

/-- The sequence numbers of networks and rings that the frame enters from outside (R367, R368, R370), and of a generation function (R371). -/
def assignSeqs (u handle egress : Nat) (s0 : State) : State :=
  let x := frame s0 u
  let s2 := (seqNets s0 x egress).foldl (fun s n =>
    let (v, s1) := proxySeq n.1 (srcOf x) n.2 s
    modFrame u (fun x => { x with netSeq := (n.1, v) :: x.netSeq }) s1) s0
  match (if handle = 0 then none else tget? s2.red.gen handle) with
  | none => s2
  | some n => modFrame u (fun x => { x with rtag := some n }) (modRed (fun r => { r with gen := tput r.gen handle ((n + 1) % 65536) }) s2)

/-- Does a frame spill (R287). -/
def spills (s : State) (q k h egress : Nat) : Bool :=
  let pr := profileOf s q k
  let y := queue s q
  k < 5 && (portsOf egress).length == 1 && !bit egress 64 && bit s.deep.enables 0 && s.deep.grain.isSome &&
    (y.state == 2 || s.deep.training.isNone && ((pr.spillCells != 0 && decide (pr.spillCells ≤ y.cells)) || decide (sharedFree s h < s.gran.spillThreshold)))

/-- SPILL_FULL_DROPS and event 0x208 (R287). -/
def spillFull (h : Nat) (s : State) : State := fire 0x208 0 [] (gctr 16 h s)

/-- The lowest free spill record (R476). -/
def freeSpillRec (s : State) : Option Nat := if s.deep.recs.length < 65536 then (List.range (s.deep.recs.length + 1)).find? (fun i => !tmem s.deep.recs i) else none

/-- The ring of an egress port and class (R475). -/
def spillRingNo (p k : Nat) : Nat := 5 * p + k

/-- Cells of a record in its ring. -/
def recCells (s : State) (i : Nat) : Nat := (tget? s.deep.recs i).elim 0 (·.cells)

/-- Cells of a ring: RING_CELLS. -/
def ringCells (s : State) : Nat := s.deep.spillSize / (5 * nPorts s * 256)

/-- Where a copy of n cells goes in a ring: its offset and the cells skipped before it; none where it does not fit. -/
def ringPlace (rc n : Nat) (g : SpillRing) : Option (Nat × Nat) :=
  let m := max 1 rc
  let t := g.tail % m
  let h := if g.order.isEmpty then t else g.head % m
  if g.order.isEmpty || h < t then
    if t + n ≤ rc then some (t, 0) else if n ≤ h then some (0, rc - t) else none
  else if t < h && t + n ≤ h then some (t, 0) else none

/-- The device addresses of the cells of a record. -/
def spillAddrs (s : State) (r : SpillRec) : List Nat :=
  (List.range r.cells).map (fun i => s.deep.spillBase + (r.ring * ringCells s + r.offset + i) * 256)

/-- A frame enters the spill: its record is taken, and its cells of the ring with the skipped ones, or the frame is dropped (R475). An empty ring's
HEAD is its TAIL. -/
def startSpill (u q k h egress : Nat) (s : State) : Bool × State :=
  let x := frame s u
  let n := min 37 (cellsFor (effBytes x).length)
  let ring := spillRingNo ((portsOf egress).headD 0) k
  let g := tget {} s.deep.rings ring
  match (if s.deep.training.isSome then none else freeSpillRec s), ringPlace (ringCells s) n g with
  | some i, some (o, skip) =>
    let r : SpillRec := { uid := u, ring := ring, offset := o, cells := n, handle := if q < 2 ^ 20 then q else 0, port := x.port, arrUs := x.arrUs, half := h }
    let s1 := modFrame u (fun x => { x with spilled := true }) (modDeep (fun d => { d with
      recs := tput d.recs i r
      rings := tput d.rings ring { head := if g.order.isEmpty then g.tail else g.head, tail := o + n, order := g.order ++ [(i, skip)] } }) s)
    (true, fireMs 1 0x208 0 [] (modQueue q (fun y => { y with state := 2 }) s1))
  | _, _ => (false, spillFull h (dropLate u h s))

/-- The release step of an admitted frame: shaped streams wait on their list (R286), and a frame that an inline verdict holds for it (R233). -/
def admitRelease (u handle k : Nat) (s : State) : State :=
  let x := frame s u
  if k < 7 && handle != 0 && tmem s.shapers handle then
    let s1 := modFrame u (fun x => { x with shaped := true }) s
    modQueue x.queue (fun q => { q with list := q.list ++ [u] }) s1
  else
    let l := admitFur s x
    let s1 := releaseFrame u s
    let s2 := if heldInline x l then s1 else mirrorOut u s1
    if k < 7 && x.early < 7 && (decOf x (other l)).isSome then releaseOverlap u (other l) s2 else s2

/-- The header sheaf of a copy is read to write the admission's fields into it: an uncorrectable one is a Granary cell's, so that the copy, whose
head has not left, is dropped whole (R44, R45, R285). -/
def headerWord (u h : Nat) (bad : Bool) (s : State) : State :=
  if !bad || !keeps s u h then s else dropLate u h (modCopy u h (fun c => { c with poison := true }) (memUnc h s))

/-- The proxy entries, or the generation function, that an admission reads are uncorrectable (R365, R367, R371). -/
def seqUpset (u handle egress bad : Nat) (s : State) : State :=
  let x := frame s u
  let s1 := if bit bad 4 then (seqNets s x egress).foldl (fun s n => nodeFault true n.1 (srcOf x) 0 n.2 s) s else s
  if bit bad 5 && handle != 0 then genFault handle s1 else s1

/-- The halves whose copies an admission takes (R277, R285). -/
def admitHalves (s : State) (x : Frame) : List Nat := if x.class_ = 7 then [0, 1] else [relHalf s x]

/-- The end of an admission, once its cells are rebooked (R285): the headers are written, and the frame is counted in and released or queued. -/
def admitFinish (u : Nat) (s00 : State) : State :=
  let x0 := frame s00 u
  match x0.admitting, decOf x0 (admitFur s00 x0) with
  | some bad, some d =>
    let k := x0.class_
    let q := x0.queue
    let hs := admitHalves s00 x0
    let s0 := modFrame u (fun x => { x with admitting := none }) s00
    let s3 := hs.foldl (fun s h => headerWord u h (bit bad (2 + h)) s) s0
    if d.dropped != 0 then dropFrame u s3
    else if !(hs.any (keeps s3 u)) then reap u s3
    else
      let s4 := modFrame u (fun x => { x with admitted := true, handle := d.handle, limited := resLimit s3 k != 0 }) s3
      let s5 := modQueue q (fun y => { y with
        frames := y.frames + 1, kind := if y.frames = 0 then b2n (k == 7) else y.kind, state := if y.state = 2 then 2 else 1, lastClass := k }) s4
      let s6 := assignSeqs u d.handle d.egress (seqUpset u d.handle d.egress bad s5)
      let h := relHalf s00 x0
      if spills s6 q k h d.egress then
        match startSpill u q k h d.egress s6 with
        | (true, s7) => admitRelease u d.handle k s7
        | (false, s7) => reap u s7
      else admitRelease u d.handle k s6
  | _, _ => s00

/-- Are a frame's cells rebooked, or gone. -/
def booked (x : Frame) : Bool := x.admitting.isSome && (unbooked x 0).isEmpty && (unbooked x 1).isEmpty

/-- The admission of a frame ends once its cells are rebooked, in order of arrival for each input and class (R289). -/
def admitNext (u : Nat) (s : State) : State :=
  let x := frame s u
  if booked x && !(s.frames.any (fun e => decide (e.1 < u) && e.2.admitting.isSome && e.2.port == x.port && e.2.class_ == x.class_)) then admitFinish u s else s

/-- The frames of a queue: those that hold it, and those whose admission has begun (R285). -/
def framesOf (s : State) (q : Nat) : Nat := (queue s q).frames + (s.frames.filter (fun e => e.2.admitting.isSome && e.2.queue == q)).length

/-- GRANARY_ADMIT (R285): the lead's decision arrives, the meters rule, and the cells ask to be rebooked (R279). bad, bit 0 an uncorrectable stream
meter word, bit 1 class meter word, bits 2 and 3 a header sheaf in half A or B, bit 4 the proxy entries, bit 5 the generation function; 64 + m a
corrected word of memory m; 128 + p the discard entry of an offer toward Pp. -/
def admitFrame (u bad_ : Nat) (s00 : State) : State :=
  let (bad, s0) := if 128 ≤ bad_ then (0, discardUpset u (bad_ - 128) s00) else readBelow 64 bad_ s00
  let x0 := frame s0 u
  let l := admitFur s0 x0
  match decOf x0 l with
  | none => s00
  | some d =>
    if x0.admitted || x0.admitting.isSome || x0.kind != 0 || (x0.copyA.isNone && x0.copyB.isNone) || !(keeps s0 u 0 || keeps s0 u 1) then s00
    else
      let k := d.class_
      let q := queueKey d.handle x0.port k
      let s := modFrame u (fun x => { x with class_ := k, queue := q }) s0
      let drop := fun (s : State) => dropFrame u s
      if d.dropped != 0 then drop s
      else
        let y := queue s q
        let pr := profileOf s q k
        if !y.list.isEmpty && y.kind != b2n (k == 7) then gctr 17 (frameHalf s x0) (drop s)
        else if pr.maxFrames ≤ framesOf s q then limitEvent d.handle (gctr 6 (frameHalf s x0) (drop (modQueue q (fun y => { y with dropSeen := true }) s)))
        else
          let (m, s1) := meterFrame x0 k d.meter (bit bad 0) (bit bad 1) s
          let s2 := modFrame u (fun x => { x with
            dropElig := m.de, debits := m.debits, expect := expectOf s1 x0, limit := if m.sdu = 0 then x.limit else min x.limit m.sdu }) s1
          if m.drop then drop s2
          else
            let s3 := (admitHalves s2 (frame s2 u)).foldl (fun s h => if keeps s u h then modCopy u h (fun c => { c with undecided := false }) s else s)
              (modFrame u (fun x => { x with admitting := some bad }) s2)
            admitNext u s3
def execGranaryAdmit (uid bad : Nat) (s : State) : Host.Outcome State Fault Refusal :=
  if s.clk.coreStopped then .next s else
  .next (admitFrame uid bad s)

/-! ## CELL_REQUEST (R267, R277-R280) -/

/-- A whole frame has all its cells: one of the device or of host software is released (R308), a refill reads its cells. -/
def askDone (u : Nat) (s0 : State) : State :=
  let x := frame s0 u
  match x.asks with
  | none => s0
  | some (h, a) =>
    let s := modFrame u (fun x => { x with asks := none }) s0
    let l := s.hl.lead
    let whole := fun (slot : Option Nat) => (match slot with | some i => hostTxDone i 1 | none => id) (modCopy u h (fun c => { c with complete := true }) s)
    match a with
    | .direct slot eg =>
      let s1 := releaseCopy u h l eg (assignSeqs u 0 eg (whole slot))
      if keeps s1 u h then mirrorFrame l u h x.class_ eg 0 s1 else s1
    | .lookup slot =>
      let s1 := whole (some slot)
      let key := laneKey 64 (65 + x.port / 16) x.class_
      if !laneRoom s1 l x.class_ 1 then dropLate u h (laneFullDrop u s1)
      else offerCopy u h l (modCopy u h (fun c => { c with fanout := 1, released := true }) (setLane l key (laneOf s1 l key ++ [{ uid := u, half := h }]) s1))
    | .refill i => match tget? s.deep.recs i with
      | some r => (spillAddrs s r).foldl (fun s a => putBytes64 3 false a 256 s)
          (modDeep (fun d => { d with recs := tput d.recs i { r with reads := (spillAddrs s r).flatMap (fun a => (List.range 8).map (fun j => a / 32 + j)) } }) s)
      | none => s

/-- Has a whole frame all its cells. -/
def askMet (x : Frame) : Bool := match x.asks with | some (h, _) => (copyOf x h).any (fun c => decide (cellsFor (effBytes x).length ≤ c.cells.length)) | none => false

/-- A request granted to an allocator port: the rebooking of a cell, or a take, and the port's return (R267, R279; log 74). -/
def servePort (h : Nat) (req : Option Nat) (disturbed : Option Nat) (s : State) : State :=
  serveReturn h (match req with
    | none => s
    | some u =>
      if !tmem s.frames u || !wants s h (frame s u) then s
      else
        match unbooked (frame s u) h with
        | cell :: _ => serveRebook h u cell s
        | [] => serveReq h u disturbed s)

/-- CELL_REQUEST: one drill clock of a half's accounting stage, port 0 before port 1; d0 and d1 are what the first words read where they are disturbed.
Admissions whose cells are all rebooked go on, and so do the whole frames that have all theirs. -/
def execCellRequest (h : Nat) (d0 d1 : Option Nat) (s : State) : Host.Outcome State Fault Refusal :=
  if s.clk.coreStopped then .next s else
  let h := h % 2
  let s0 := reachEdge (half s h).at_ s
  let more := (s0.frames.filter (fun e => wants s0 h e.2)).length - 2
  let s := modGran (fun g => { g with ungranted := (g.ungranted + more) % 2 ^ 48 }) (modHalf h (fun x => { x with at_ := s0.clk.edges + 1 }) s0)
  let first := bestReq s h none
  let s1 := servePort h (first.bind (fun u => bestReq s h (some u))) d1 (servePort h first d0 s)
  let s2 := (s1.frames.filter (fun e => booked e.2)).foldl (fun s e => admitNext e.1 s) s1
  .next ((s2.frames.filter (fun e => askMet e.2)).foldl (fun s e => askDone e.1 s) s2)

/-! ## RESIDENCE_CHECK (R290) -/

/-- The head of a lane is checked. -/
def execResidenceCheck (f : Furrow) (inp out cls : Nat) (s : State) : Host.Outcome State Fault Refusal :=
  if s.clk.coreStopped then .next s else
  let n := furNo f
  let key := laneKey inp out cls
  match laneOf s n key with
  | [] => .next s
  | e :: _ =>
    let s1 := residenceCheck n key s
    if !(e.moved = 0 && expired s (frame s e.uid)) then .next s1
    else
      let s2 := prpGone n key e s1
      let s3 := match e.mirror with | some (i, _) => mirrorDrop i s2 | none => s2
      let s4 := if e.spill then spillGone e.uid s3 else s3
      .next s4

/-! ## Stream shapers (R329, R355) -/

def shaper (s : State) (h : Nat) : Shaper := shaperAt s.clk.edges (tget {} s.shapers h)

/-- The head of a shaped list leaves it and goes to the lanes (R286, R289). The cells of a spilled one, held by the list until now, return (R287,
R291). -/
def unlist (h u : Nat) (s : State) : State :=
  let s1 := modQueue h (fun q => { q with list := q.list.filter (· != u) }) (modFrame u (fun x => { x with shaped := false }) s)
  let x := frame s1 u
  let s2 := mirrorOut u (releaseFrame u s1)
  if x.spillDone then tryReturn u (relHalf s1 x) s2 else s2

/-- STREAM_SHAPER_RELEASE: the head of the list is released once it is complete and T >= 0 (R329). It is checked for residence then, and an expired
one is discarded in its place, with the next one at the head (R290). -/
def shaperRelease (h : Nat) : Nat → State → State
  | 0, s => s
  | n + 1, s =>
    match (queue s h).list with
    | [] => s
    | u :: _ =>
      let x := frame s u
      let hf := relHalf s x
      let t := shaper s h
      let done := match copyOf x hf with | some c => c.complete | none => x.spillDone
      if !done || heldInline x (admitFur s x) || t.t < 0 then s
      else if expired s x then
        let s0 := if x.spilled then freeSpill u s else s
        let s1 := modQueue h (fun q => { q with list := q.list.filter (· != u), dropSeen := true }) (modFrame u (fun x => { x with shaped := false }) s0)
        shaperRelease h n (fireMs 0 0x207 0 (toLE 1 x.class_ ++ toLE 1 hf) (gctr (18 + x.class_) hf (dropLate u hf s1)))
      else unlist h u { s with shapers := tput s.shapers h (shaperTake (effBytes x).length t) }
def execStreamShaperRelease (handle : Nat) (s : State) : Host.Outcome State Fault Refusal :=
  if s.clk.coreStopped then .next s else
  if tmem s.shapers handle then .next (shaperRelease handle ((queue s handle).list.length + 1) s) else .next s

/-- A stream shaper is removed: its list is released at once, in order. -/
def shaperRemove (h : Nat) (s : State) : State :=
  let l := (queue s h).list
  l.foldl (fun s u => unlist h u s) { s with shapers := tdel s.shapers h }

/-- The consequence of an uncorrectable shaper word (R336). -/
def classShaperFault (p k : Nat) (s : State) : State := drillFind p 0x27 [] (modDrill p (fun d => { d with shapers := tdel d.shapers k }) (memUnc 32 s))
def streamShaperFault (h by_ : Nat) (s : State) : State :=
  fire 0x20D 0 (toLE 2 0 ++ toLE 1 by_ ++ toLE 1 1 ++ toLE 4 h) (shaperRemove h (memUnc 32 s))

/-! ## POOL_SET (R294) -/

/-- A queue descriptor: the frames on its list are discarded and counted as not sent (log 57), and it is empty with its configured parameters (R45,
R282). -/
def queueFault (q : Nat) (s0 : State) : State :=
  let s := fire 0x20A 0 [] (memUnc 2 s0)
  let s1 := (queue s q).list.foldl (fun s u =>
    let x := frame s u
    let s0 := if x.spilled then freeSpill u s else s
    xctr 14 1 (laneFur s x) (dropLate u 1 (dropLate u 0 (modFrame u (fun x => { x with shaped := false }) s0)))) s
  modQueue q (fun x => { profile := x.profile }) s1

def poolLen : List Byte → Bool :=
  lenForms 0 [(0, len 24), (1, len 12), (2, len 16), (3, len 20), (4, len 12)]
def specPoolSet : CmdSpec := { opcode := 0x0801, priv := 1, mask := 0x1, lenOk := poolLen }

/-- A setting is refused if the reserves of a half exceed 73,728 cells (R276). For an uncorrectable word of the allocator's registers R45 has no row: it
is counted and the command answers HW_FAULT (DEDUCED, log 91). -/
def poolIf (p : Packet) (s0 s : State) : CmdResult :=
  if 73728 < reserves s then .refuse stExhausted 0 else unlessUpset p (memUnc 3) s0 <| .ok [] (descWatch s)

/-- R294. -/
def bodyPoolSet (p : Packet) (s : State) : CmdResult :=
  let b := p.params
  let v := fun o => le b o 4
  match byteAt b 0 with
  | 0 =>
    checked [(reservedAt b 1 3, 1), (v 4 ≤ 40960, 4), (v 8 ≤ 81920, 8), (v 12 ≤ 81920, 12), (v 16 ≤ 65536, 16), (v 20 ≤ 65536, 20)] <|
    poolIf p s (modGran (fun g => { g with streamPool := v 4, spillThreshold := v 8, balance := v 12, descReserve := v 16, laneReserve := v 20 }) s)
  | 1 =>
    let k := byteAt b 4
    checked [(reservedAt b 1 3, 1), (k < 8, 4), (reservedAt b 5 3, 5), (v 8 ≤ 16384, 8)] <|
    poolIf p s (modGran (fun g => { g with classMin := tput g.classMin k (v 8) }) s)
  | 2 =>
    let pt := byteAt b 4
    let hr := le b 8 2
    let pm := le b 10 2
    checked [(reservedAt b 1 3, 1), (portExists s pt, 4), (reservedAt b 5 3, 5), (1 ≤ hr && hr ≤ 4096, 8), (pm ≤ 8192, 10),
      (v 12 ≤ 81920, 12)] <|
    poolIf p s (modGran (fun g => { g with ports := tset {} g.ports pt { headroom := hr, portMin := pm, sharedMax := v 12 } }) (touchPort pt true s))
  | 3 =>
    let i := byteAt b 4
    let q : Profile := { reserve := le b 8 2, maxCells := le b 10 2, maxFrames := le b 12 2, spillCells := le b 14 2 }
    checked [(reservedAt b 1 3, 1), (i ≤ 254, 4), (reservedAt b 5 3, 5), (q.reserve ≤ 64, 8), (1 ≤ q.maxCells, 10), (1 ≤ q.maxFrames, 12),
      (reservedAt b 16 4, 16)] <|
    poolIf p s (modGran (fun g => { g with profiles := tput g.profiles i q }) s)
  | 4 =>
    let h := v 4
    checked [(reservedAt b 1 3, 1), (1 ≤ h && h < 2 ^ 20, 4), (reservedAt b 9 3, 9)] <|
    unlessUpset p (queueFault h) s <| .ok [] (modQueue h (fun q => { q with profile := byteAt b 8 }) s)
  | _ => .badParam 0
def execPoolSet (p : Packet) (s : State) : Host.Outcome State Fault Refusal := serveCmd specPoolSet bodyPoolSet p s

/-! ## QUEUE_READ (R296) -/

def specQueueRead : CmdSpec := { opcode := 0x0803, priv := 0, mask := 0xF, lenOk := len 8 }
/-- R296. -/
def bodyQueueRead (p : Packet) (s : State) : CmdResult :=
  let b := p.params
  let h := le b 0 4
  let pt := byteAt b 4
  let k := byteAt b 5
  checked [(h < 2 ^ 20, 0), (h != 0 || portExists s pt, 4), (h != 0 || k < 8, 5), (byteAt b 6 < 2, 6), (reservedAt b 7 1, 7)] <|
  let key := queueKey h pt k
  let q := queue s key
  let hc := fun f => if powered s f then halfCells s key f else 0xFFFF
  let eff := if h = 0 then k else if q.profile = 0xFF then q.lastClass else q.profile
  (if bit (byteAt b 6) 0 then unlessUpset p (queueFault key) s else id) <|
  .ok (toLE 12 (queueWord s q) ++ toLE 2 (hc 0) ++ toLE 2 (hc 1) ++ toLE 1 eff ++ zeros 3)
    (let t := if h = 0 then touchPort pt true s else s
     if bit (byteAt b 6) 0 then modQueue key (fun q => { q with dropSeen := false }) t else t)
def execQueueRead (p : Packet) (s : State) : Host.Outcome State Fault Refusal := serveCmd specQueueRead bodyQueueRead p s

end Sys2Proof.Machine
end

