-- ==== Sys2Proof/Machine/Ingress.lean ====
section
/-! DEFINITION. The receive path of a MAC: early class, furrow tag, receive FIFO, wake buffer, frame end, counters, pause (spec/03 R107-R120,
spec/01 R33-R36). -/

namespace Sys2Proof.Machine

/-! ## Early class and the device's own frames (R110, R112, R115) -/

def isQTag (t : Nat) : Bool := t == 0x8100 || t == 0x88A8
/-- VLAN tags that the MAC parses: at most two. -/
def earlyTags (b : List Byte) : Nat := if isQTag (be b 12 2) then (if isQTag (be b 16 2) then 2 else 1) else 0
/-- The EtherType after the tags and one HSR tag. -/
def earlyType (b : List Byte) : Nat :=
  let o := 12 + 4 * earlyTags b
  if be b o 2 = 0x892F then be b (o + 6) 2 else be b o 2

def pcpClass (c : PortCfg) (n : Nat) : Nat := c.pcpMap / 8 ^ n % 8
/-- The class of the first valid VID rule that a VLAN ID equals: of several, the lowest-numbered one (R110 does not say which; DESIGN CHOICE, log 79). -/
def vidClass (c : PortCfg) (vid : Nat) : Option Nat := (c.vidRules.find? (fun r => bit r 15 && r % 4096 == vid)).map (fun r => bits r 14 12)

/-- The early class: the first row of the table of R110. -/
def earlyClass (c : PortCfg) (b : List Byte) : Nat :=
  let t := earlyType b
  if t = 0x88B8 then c.gooseClass
  else if t = 0x88BA then c.svClass
  else if earlyTags b = 0 then pcpClass c c.defaultPcp
  else match vidClass c (be b 14 2 % 4096) with
    | some k => k
    | none => pcpClass c (be b 14 2 / 8192)

/-- What the device takes of the frames that a port receives: the field own of Frame. -/
def ownKind (s : State) (p : Nat) (b : List Byte) : Nat :=
  let mine := (port s p).mac.filter.any (fun e => e.2.valid && e.2.addr == be b 0 6)
  if be b 12 2 = 0x8808 then 3
  else if mine && s.opt.inbandOn && (be b 12 2 == 0x88B5 || (be b 12 2 == 0x8100 && be b 16 2 == 0x88B5)) then 1
  else if mine && earlyType b == 0x88F7 then 2
  else 0

/-! ## The receive FIFO and the wake buffer (R36, R114) -/

/-- Bytes of a frame that no cell has taken yet. -/
def heldBytes (s : State) (x : Frame) : Nat :=
  [x.copyA, x.copyB].foldl (fun m c => match c with
    | some c => if c.tailMark || c.dropped then m else max m (rxBytes x s.clk.edges - (c.cells.length * 256 - 32))
    | none => m) 0

/-- Free bytes of the receive FIFO of a port. -/
def fifoFree (s : State) (p : Nat) : Nat :=
  32768 - s.frames.foldl (fun n e => if e.2.kind = 0 && e.2.port = p then n + heldBytes s e.2 else n) 0

/-- Does the shared clock of a port's slice run. -/
def sliceUp (s : State) (p : Nat) : Bool := bit s.slices.running (p / 16)

/-- Receive overflow: counted, and the event at most once per 1 ms. -/
def rxOverflow (p : Nat) (s : State) : State := fireMs 0 (4 * p + 3) 0 [] (macCtr p 22 1 s)

def macTag (s : State) (p k : Nat) : Nat := tget 0 (port s p).mac.tag k
def setMacTag (p k v : Nat) (s : State) : State := modPort p (fun x => { x with mac := { x.mac with tag := tset 0 x.mac.tag k (v % 65536) } }) s

/-- A frame overflows the wake buffer of its port: it is dropped whole and counted, and takes no tag. -/
def wakeOverflow (p u : Nat) (s : State) : State :=
  let x := frame s u
  if x.refused then s
  else
    let s1 := modFrame u (fun x => { x with refused := true, due := 0, entered := 0 }) s
    rxOverflow p (dropCopy u 1 (dropCopy u 0 (if x.own = 0 then setMacTag p x.early x.tag s1 else s1)))

/-- The frame in reception overflows if the wake buffer would hold more than 2,048 bytes. -/
def wakeCheck (p : Nat) (s : State) : State :=
  match (port s p).mac.rx with
  | none => s
  | some u => if 2048 < (port s p).mac.wakeUsed + rxBytes (frame s u) s.clk.edges then wakeOverflow p u s else s

/-! ## START_OF_FRAME -/

/-- The ingress time: the time base at the first bit after the SFD (R109), in its units. -/
def ingressTb (s : State) (tick : Nat) : Nat := s.clk.tb + 8 * tick * tbPerEdge s / 10

/-- The half of a frame of TC0-TC6 (R275). -/
def homeHalf (s : State) (p : Nat) : Nat :=
  let h := p / 32 % 2
  let o := 1 - h
  if sharedFree s h + s.gran.balance < sharedFree s o || !halfOpen s h || (half s h).rebuilding.isSome then o else h

/-- Can a half take a copy of a TC7 frame (R274). -/
def twinHalf (s : State) (h : Nat) : Bool := halfOpen s h && !((half s h).rebuilding.isSome && (listHead (half s h)).isNone)

/-- Furrows that will decide a frame (R144, R380). -/
def dueOf (s : State) (early ns : Nat) : Nat :=
  let l := s.hl.lead
  b2n (decides s l) * 2 ^ l + (if (early = 7 || inOverlap s ns) && decides s (other l) then 2 ^ other l else 0)

/-- The bank bit of a frame of ingress time ns: after the swap tick, the new one (R172). -/
def bankAt (s : State) (ns : Nat) : Nat :=
  match s.swap with
  | some w => if w.flippedAt.isNone && decide (w.tick ≤ ns) then 1 - s.bankBit else s.bankBit
  | none => s.bankBit

/-- The frame in reception is preempted by its sender (R345, R346): an express frame begins while reassembly is on and no other frame is
held so (log 81). -/
def rxPreempt (p : Nat) (s : State) : State :=
  match (port s p).mac.rx with
  | none => s
  | some u =>
    if !(port s p).drill.pre.enable || (port s p).mac.rxHeld.isSome then s
    else
      modFrame u (fun x => { x with rxFloor := rxBytes x s.clk.edges, rxFrozen := true })
        (modPort p (fun y => { y with mac := { y.mac with rx := none, rxHeld := some (u, s.clk.edges) } }) s)

/-- The express frame has ended, and the preempted one's next fragment follows: 12 bytes of gap and 8 of preamble later its bytes go on. -/
def rxResume (p : Nat) (s : State) : State :=
  match (port s p).mac.rxHeld with
  | none => s
  | some (u, e) =>
    modFrame u (fun x => { x with rxFrozen := false, start := x.start + (s.clk.edges - e) + ceilDiv (20 * x.tick) 10 })
      (modPort p (fun y => { y with mac := { y.mac with rx := some u, rxHeld := none } }) s)

/-- A frame begins at a port whose receive link is up: its bytes are those that the lane will deliver, FCS last. The admission test of R114 is not
made of the device's own frames and of control frames, which enter no cell (log 45). -/
def startFrame (p : Nat) (b : List Byte) (s0 : State) : State :=
  let s := rxPreempt p s0
  if !(port s p).link.rxUp || (port s p).mac.rx.isSome then s0
  else
    let c := (port s p).cfg
    let u := s.nextUid
    let own := ownKind s p b
    let k := earlyClass c b
    let tb := ingressTb s (portTick s p)
    let ns := tb / tbuPerNs
    let full := own = 0 && decide (fifoFree s p < c.maxFrame)
    let tag := macTag s p k
    let a := k == 7 && twinHalf s 0 || k < 7 && homeHalf s p == 0
    let d := k == 7 && twinHalf s 1 || k < 7 && homeHalf s p == 1
    let cp : Copy := { transfer := k == 7, twin := k == 7 && a && d }
    let keep := own = 0 && !full
    let x : Frame := {
      port := p, bytes := b, start := s.clk.edges, tick := portTick s p, ns := ns, qns := tb * 4 / tbuPerNs % 4
      bank := bankAt s ns, lead := s.hl.lead, early := k, class_ := k, tag := tag, arrUs := arrivalUs s
      fidOff := (port s p).learn.fidOffset, own := own, refused := full, limit := c.maxFrame
      domain := c.streamDomain, pauseRx := c.pauseRx, pfcRxMask := c.pfcRxMask, defaultPcp := c.defaultPcp
      due := if keep then dueOf s k ns else 0
      entered := if keep then dueOf s k ns else 0
      copyA := if keep && a then some cp else none
      copyB := if keep && d then some cp else none }
    let s1 := { s with frames := tput s.frames u x, nextUid := u + 1 }
    let s2 := modPort p (fun y => { y with mac := { y.mac with rx := some u } }) s1
    let s3 := touchPort p (!sliceUp s p || k == 7) s2
    let s4 := if full then rxOverflow p s3 else if keep then setMacTag p k (tag + 1) s3 else s3
    if keep && k == 7 && a != d then fireMs 0 0x20C 0 [] (gctr 7 s.hl.lead s4) else s4
def execStartOfFrame (p : Nat) (bytes : List Byte) (s : State) : Host.Outcome State Fault Refusal :=
  if s.clk.coreStopped then .next s else
  .next (startFrame p bytes s)

/-! ## Ending a copy -/

/-- A bad frame's copy ends (R312-R315): entries whose head has not left go, the rest end with a bad tail; a copy with no entry is dropped. -/
def cutCopy (u h cause n : Nat) (s : State) : State :=
  match copyOf (frame s u) h with
  | none => s
  | some c =>
    if c.tailMark then s
    else if c.dropped then tryReturn u h (modCopy u h (fun c => { c with complete := true }) s)
    else if !c.released then dropCopy u h s
    else
      let s1 := if (frame s u).spilled then
          freeSpill u (cutSpillEntries u s)
        else s
      tailCopy u h cause n s1
def cutBoth (u cause n : Nat) (s : State) : State := reap u (cutCopy u 1 cause n (cutCopy u 0 cause n s))

/-! ## Counters of a received frame (R107, R119) -/

def fcsGood (b : List Byte) : Bool := 4 ≤ b.length && crc32 (b.take (b.length - 4)) == le b (b.length - 4) 4

def daCtr (base : Nat) (b : List Byte) : Nat :=
  if be b 0 6 = 0xFFFFFFFFFFFF then base + 2 else if bit (byteAt b 0) 0 then base + 1 else base

/-- The frame bytes received of a frame, whose limit is most (R113, R337); good: with a good FCS. -/
def countRx (p : Nat) (b : List Byte) (early most : Nat) (good cut : Bool) (s : State) : State :=
  let n := b.length
  let s1 := macCtr p 1 n s
  let s2 := if good then macCtr p 0 n s1 else s1
  let s3 := if early = 7 then macCtr p 25 1 s2 else s2
  if n < 64 then macCtr p (if good then 16 else 17) 1 s3
  else if most < n && !cut then macCtr p (if good then 18 else 19) 1 s3
  else
    let s4 := macCtr p (sizeBucket 9 n) 1 s3
    if !good then macCtr p 20 1 s4
    else
      let s5 := macCtr p (daCtr 3 b) 1 (macCtr p 2 1 s4)
      if earlyTags b = 0 then s5 else macCtr p 24 1 s5

/-! ## Pause and PFC (R115-R117) -/

def pauseOf (s : State) (p k : Nat) : Pause := tget {} (port s p).mac.pause k
def modPause (p k : Nat) (g : Pause → Pause) (s : State) : State :=
  modPort p (fun x => { x with mac := { x.mac with pause := tmod {} x.mac.pause k g } }) s

/-- Is a class paused now, its frame-end wait over. -/
def paused (s : State) (p k : Nat) : Bool :=
  let y := pauseOf s p k
  !y.waiting && (match y.untilE with | some e => decide (s.clk.edges < e) | none => false)

/-- One pause quantum: 512 bit times, in tenths of an edge. -/
def quantum (s : State) (p : Nat) : Nat := 64 * portTick s p

/-- A request of t quanta for a class; its time counts from the request, also where it waits for a frame's end (log 46). -/
def pauseReq (p k t : Nat) (s : State) : State :=
  let y := pauseOf s p k
  let e := s.clk.edges
  if (match y.ignore with | some i => decide (e < i) | none => false) then s
  else if t = 0 then modPause p k (fun y => { y with untilE := none, waiting := false }) s
  else
    let til := e + ceilDiv (t * quantum s p) 10
    let on := match y.untilE with | some z => decide (e < z) || y.waiting | none => false
    if on then modPause p k (fun y => { y with untilE := some til }) s
    else
      let busy := (port s p).drill.tx.isSome || (port s p).drill.held.isSome
      modPause p k (fun y => { y with since := e, fromE := e, untilE := some til, waiting := busy, ignore := none }) s

/-- The frame in transmission has ended, and none is preempted: pauses that waited for it take effect (R116). -/
def pauseBegin (p : Nat) (s : State) : State :=
  if (port s p).drill.tx.isSome || (port s p).drill.held.isSome then s
  else (List.range 7).foldl (fun s k => if (pauseOf s p k).waiting then modPause p k (fun y => { y with waiting := false, fromE := s.clk.edges }) s else s) s

/-- A control frame with good FCS (R115), under the settings that it began with. -/
def controlFrame (p : Nat) (x : Frame) (b : List Byte) (s : State) : State :=
  match be b 14 2 with
  | 0x0001 =>
    let s1 := macCtr p 6 1 s
    if x.pauseRx then (List.range 7).foldl (fun s k => pauseReq p k (be b 16 2) s) s1 else s1
  | 0x0101 =>
    let en := be b 16 2
    let s1 := macCtr p 7 1 s
    let s2 := if bit en 7 then macCtr p 26 1 s1 else s1
    (List.range 7).foldl (fun s k => if bit en k && bit x.pfcRxMask k then pauseReq p k (be b (18 + 2 * k) 2) s else s) s2
  | _ => macCtr p 8 1 s

/-- PAUSE_TIMER_EXPIRY: the timer of a class runs out. -/
def execPauseTimerExpiry (p cls : Nat) (s : State) : Host.Outcome State Fault Refusal :=
  if s.clk.coreStopped then .next s else
  match (pauseOf s p cls).untilE with
  | none => .next s
  | some e => .next (modPause p cls (fun y => { y with untilE := none, waiting := false }) (reachEdge e s))

/-- PAUSE_WATCHDOG_EXPIRY: paused continuously for PAUSE_WATCHDOG (R117). -/
def execPauseWatchdogExpiry (p cls : Nat) (s : State) : Host.Outcome State Fault Refusal :=
  if s.clk.coreStopped then .next s else
  let w := (port s p).cfg.pauseWatchdog
  let y := pauseOf s p cls
  match y.untilE with
  | none => .next s
  | some e =>
    if w = 0 || y.waiting || e < y.fromE + w * msE then .next s
    else
      let s1 := reachEdge (y.fromE + w * msE) s
      .next (fire (4 * p + 2) 0 [] (macCtr p 47 1
        (modPause p cls (fun y => { y with untilE := none, waiting := false, ignore := some (s1.clk.edges + w * msE) }) s1)))

/-- PAUSE_IGNORE_END: one further watchdog period has passed. -/
def execPauseIgnoreEnd (p cls : Nat) (s : State) : Host.Outcome State Fault Refusal :=
  if s.clk.coreStopped then .next s else
  match (pauseOf s p cls).ignore with
  | none => .next s
  | some e => .next (modPause p cls (fun y => { y with ignore := none }) (reachEdge e s))

/-! ## Frame end -/

/-- Does the parse of a frame find a case of kind MALFORMED (R165, R193). -/
def malformed (s : State) (f : Nat) (x : Frame) : Bool := (parse (pframe s f x)).cases.any (fun c => caseKind c.1 == 0)

/-- The source address is examined in each furrow that the frame entered (R193). -/
def learnFrame (x : Frame) (due : Nat) (s : State) : State :=
  if !(port s x.port).learn.learn || x.refused then s
  else
    (List.range 2).foldl (fun s f =>
      if bit due f && decides s f && !malformed s f x then
        learnExamine f (addrKey (frameFid x (parse (pframe s f x))) (srcOf x)) x.port x.ns s
      else s) s

/-- A frame's length exceeds the limit in force (R113, R337): the bytes up to it stay, and the copies end as oversize. -/
def oversize (u : Nat) (s : State) : State :=
  let x := frame s u
  if x.limit < x.bytes.length && x.rxCut.isNone then cutBoth u 7 x.limit s else s

/-- What the end of a frame, whole or cut, leaves in the MAC, the Granary, the meters, the tables and the Gleaner. bad: its reassembly
failed (R346). -/
def macEnd (p u : Nat) (bad : Bool) (s : State) : State :=
  let x := frame s u
  let b := effBytes x
  let good := !bad && x.rxCut.isNone && fcsGood b
  let s3 := countRx p b x.early x.limit good x.rxCut.isSome s
  let legal := 64 ≤ b.length && b.length ≤ x.limit
  if x.own != 0 || x.refused then
    let s4 := if good && legal && !x.refused then
        (match x.own with
         | 3 => controlFrame p x b s3
         | 0 => s3
         | _ => macCtr p 23 1 s3)
      else s3
    reap u s4
  else
    let s4 := gleanEnd u b.length (if x.debits.isEmpty then s3 else meterCorrect x x.expect b.length s3)
    if !good then cutBoth u (match x.rxCut with | some (_, k) => k | none => 6) b.length s4
    else if x.limit < b.length then cutBoth u 7 x.limit s4
    else learnFrame x x.entered (x.lanDue.foldl (fun s p => noteWrongLan p x (winParse s s.hl.lead x) s) s4)

/-- The frame in reception has ended at the PCS. While the slice clock is stopped it stays in the wake buffer, or overflows it (R36). -/
def rxEnd (p u : Nat) (bad : Bool) (s : State) : State :=
  let n := (effBytes (frame s u)).length
  let s1 := rxResume p (modPort p (fun y => { y with mac := { y.mac with rx := none } }) (modFrame u (fun x => { x with rxDone := true, frameLen := (effBytes x).length }) s))
  if sliceUp s p then macEnd p u bad s1
  else
    let s2 := if 2048 < (port s p).mac.wakeUsed + n then wakeOverflow p u s1
      else modPort p (fun y => { y with mac := { y.mac with wakeUsed := y.mac.wakeUsed + n } }) s1
    modPort p (fun y => { y with mac := { y.mac with wakeDone := y.mac.wakeDone ++ [(u, bad)] } }) s2

/-- The MAC drains its wake buffer in arrival order (R36). -/
def wakeDrain (p : Nat) (s : State) : State :=
  (port s p).mac.wakeDone.foldl (fun s e => macEnd p e.1 e.2 s)
    (modPort p (fun y => { y with mac := { y.mac with wakeUsed := 0, wakeDone := [] } }) (wakeCheck p s))

/-- OVERSIZE_DETECT: byte limit + 1 of the frame in reception arrives. -/
def execOversizeDetect (p : Nat) (s : State) : Host.Outcome State Fault Refusal :=
  if s.clk.coreStopped then .next s else
  match (port s p).mac.rx with
  | none => .next s
  | some u =>
    let x := frame s u
    if x.own = 0 && sliceUp s p && x.limit < x.bytes.length then .next (oversize u (reachEdge (byteEdge x (x.limit + 1)) s)) else .next s

/-- SLICE_CLOCK_START: the three clocks that were asked for run, and the MACs of the slice drain their wake buffers (R35, R36). -/
def execSliceClockStart (slice : Nat) (s : State) : Host.Outcome State Fault Refusal :=
  if s.clk.coreStopped then .next s else
  let k := slice % 4
  let want := [k, k + 4, k + 8].filter (fun c => bit s.slices.requested c && !(c != k && !powered s (c / 4 - 1)))
  if want.isEmpty then .next s
  else
    let asked := want.foldl (fun e c => min e (tget 0 s.slices.reqAt c)) s.clk.edges
    let s1 := reachEdge (asked + 200) s
    let s2 := { s1 with slices := { s1.slices with
      running := want.foldl (fun m c => setBit m c true) s1.slices.running
      requested := want.foldl (fun m c => setBit m c false) s1.slices.requested } }
    let s3 := if want.contains (k + 4) then startCore 0 s2 else s2
    let s4 := if want.contains (k + 8) then startCore 1 s3 else s3
    .next (if want.contains k then
      (List.range 16).foldl (fun s i => wakeDrain (16 * k + i) s) s4
    else s4)

end Sys2Proof.Machine
end

