-- ==== Sys2Proof/Machine/Crypto.lean ====
section
/-! DEFINITION. The hash, message authentication and signature functions that the spec names: SHA-256 (spec/02 R73, spec/16 R515),
HMAC and GMAC (spec/07 R237), ECDSA P-256 (spec/07 R251, spec/16 R515). -/

namespace Sys2Proof.Machine

/-! ## SHA-256 -/

def shaK : List Nat :=
  [0x428A2F98, 0x71374491, 0xB5C0FBCF, 0xE9B5DBA5, 0x3956C25B, 0x59F111F1, 0x923F82A4, 0xAB1C5ED5,
   0xD807AA98, 0x12835B01, 0x243185BE, 0x550C7DC3, 0x72BE5D74, 0x80DEB1FE, 0x9BDC06A7, 0xC19BF174,
   0xE49B69C1, 0xEFBE4786, 0x0FC19DC6, 0x240CA1CC, 0x2DE92C6F, 0x4A7484AA, 0x5CB0A9DC, 0x76F988DA,
   0x983E5152, 0xA831C66D, 0xB00327C8, 0xBF597FC7, 0xC6E00BF3, 0xD5A79147, 0x06CA6351, 0x14292967,
   0x27B70A85, 0x2E1B2138, 0x4D2C6DFC, 0x53380D13, 0x650A7354, 0x766A0ABB, 0x81C2C92E, 0x92722C85,
   0xA2BFE8A1, 0xA81A664B, 0xC24B8B70, 0xC76C51A3, 0xD192E819, 0xD6990624, 0xF40E3585, 0x106AA070,
   0x19A4C116, 0x1E376C08, 0x2748774C, 0x34B0BCB5, 0x391C0CB3, 0x4ED8AA4A, 0x5B9CCA4F, 0x682E6FF3,
   0x748F82EE, 0x78A5636F, 0x84C87814, 0x8CC70208, 0x90BEFFFA, 0xA4506CEB, 0xBEF9A3F7, 0xC67178F2]

def shaH0 : List Nat :=
  [0x6A09E667, 0xBB67AE85, 0x3C6EF372, 0xA54FF53A, 0x510E527F, 0x9B05688C, 0x1F83D9AB, 0x5BE0CD19]

def rotr32 (n x : Nat) : Nat := ((x >>> n) ||| (x <<< (32 - n))) % 0x100000000

/-- The message schedule, newest word first, extended by n words. -/
def shaExtend : Nat → List Nat → List Nat
  | 0, w => w
  | n + 1, w =>
    let w2 := w.getD 1 0
    let w7 := w.getD 6 0
    let w15 := w.getD 14 0
    let w16 := w.getD 15 0
    let s0 := rotr32 7 w15 ^^^ rotr32 18 w15 ^^^ (w15 >>> 3)
    let s1 := rotr32 17 w2 ^^^ rotr32 19 w2 ^^^ (w2 >>> 10)
    shaExtend n (((w16 + s0 + w7 + s1) % 0x100000000) :: w)

/-- The eight working variables of SHA-256. -/
structure Sha where
  a : Nat
  b : Nat
  c : Nat
  d : Nat
  e : Nat
  f : Nat
  g : Nat
  h : Nat

def shaRound (v : Sha) (kw : Nat) : Sha :=
  let s1 := rotr32 6 v.e ^^^ rotr32 11 v.e ^^^ rotr32 25 v.e
  let ch := (v.e &&& v.f) ^^^ ((0xFFFFFFFF - v.e) &&& v.g)
  let t1 := v.h + s1 + ch + kw
  let s0 := rotr32 2 v.a ^^^ rotr32 13 v.a ^^^ rotr32 22 v.a
  let mj := (v.a &&& v.b) ^^^ (v.a &&& v.c) ^^^ (v.b &&& v.c)
  { a := (t1 + s0 + mj) % 0x100000000, b := v.a, c := v.b, d := v.c, e := (v.d + t1) % 0x100000000,
    f := v.e, g := v.f, h := v.g }

def shaBlock (hs : List Nat) (w : List Nat) : List Nat :=
  let ws := (shaExtend 48 w.reverse).reverse
  let i : Sha := { a := hs.getD 0 0, b := hs.getD 1 0, c := hs.getD 2 0, d := hs.getD 3 0,
                   e := hs.getD 4 0, f := hs.getD 5 0, g := hs.getD 6 0, h := hs.getD 7 0 }
  let v := (List.zipWith (· + ·) shaK ws).foldl shaRound i
  List.zipWith (fun x y => (x + y) % 0x100000000) hs [v.a, v.b, v.c, v.d, v.e, v.f, v.g, v.h]

/-- The 32-bit words of a byte list, most significant byte first. -/
def wordsBE : Nat → List Byte → List Nat
  | 0, _ => []
  | n + 1, b => beNat (b.take 4) :: wordsBE n (b.drop 4)

def shaBlocks : Nat → List Nat → List Byte → List Nat
  | 0, hs, _ => hs
  | n + 1, hs, b => shaBlocks n (shaBlock hs (wordsBE 16 b)) (b.drop 64)

/-- SHA-256 as a 256-bit number, first digest byte most significant. -/
def sha256 (m : List Byte) : Nat :=
  let n := m.length
  let pad := (119 - n % 64) % 64
  let b := m ++ [0x80] ++ zeros pad ++ toBE 8 (8 * n)
  (shaBlocks (b.length / 64) shaH0 b).foldl (fun v w => v * 0x100000000 + w) 0

/-- HMAC-SHA-256 of a message under a key of at most 64 bytes. -/
def hmac256 (key msg : List Byte) : Nat :=
  let k := key ++ zeros (64 - key.length)
  let ip := k.map (fun b => b ^^^ 0x36)
  let op := k.map (fun b => b ^^^ 0x5C)
  sha256 (op ++ toBE 32 (sha256 (ip ++ msg)))

/-! ## AES and GMAC -/

/-- The S-box of AES, byte i at bits [8i+7:8i]. -/
def aesSbox : Nat := 0x16BB54B00F2D99416842E6BF0D89A18CDF2855CEE9871E9B948ED9691198F8E19E1DC186B95735610EF6034866B53E708A8BBD4B1F74DDE8C6B4A61C2E2578BA08AE7A65EAF4566CA94ED58D6D37C8E779E4959162ACD3C25C2406490A3A32E0DB0B5EDE14B8EE4688902A22DC4F816073195D643D7EA7C41744975FEC130CCDD2F3FF1021DAB6BCF5389D928F40A351A89F3C507F02F94585334D43FBAAEFD0CF584C4A39BECB6A5BB1FC20ED00D153842FE329B3D63B52A05A6E1B1A2C830975B227EBE28012079A059618C323C7041531D871F1E5A534CCF73F362693FDB7C072A49CAFA2D4ADF04759FA7DC982CA76ABD7FE2B670130C56F6BF27B777C63

def sbox (b : Nat) : Nat := (aesSbox >>> (8 * b)) % 256

def xtime (b : Nat) : Nat := if b < 128 then 2 * b else (2 * b) ^^^ 0x11B

def subWord (w : Nat) : Nat :=
  sbox (w / 0x1000000) * 0x1000000 + sbox (w / 0x10000 % 256) * 0x10000 + sbox (w / 0x100 % 256) * 0x100 + sbox (w % 256)

/-- Key expansion, newest word first: nk key words, n more words, i the index of the next, rc its round constant. -/
def aesExpand (nk : Nat) : Nat → Nat → Nat → List Nat → List Nat
  | 0, _, _, w => w
  | n + 1, i, rc, w =>
    let t := w.getD 0 0
    let u :=
      if i % nk = 0 then subWord ((t * 256) % 0x100000000 + t / 0x1000000) ^^^ (rc * 0x1000000)
      else if 6 < nk && i % nk = 4 then subWord t else t
    aesExpand nk n (i + 1) (if i % nk = 0 then xtime rc else rc) ((w.getD (nk - 1) 0 ^^^ u) :: w)

def mixColumn (c : List Nat) : List Nat :=
  let a := c.getD 0 0
  let b := c.getD 1 0
  let d := c.getD 2 0
  let e := c.getD 3 0
  let t := a ^^^ b ^^^ d ^^^ e
  [a ^^^ t ^^^ xtime (a ^^^ b), b ^^^ t ^^^ xtime (b ^^^ d), d ^^^ t ^^^ xtime (d ^^^ e), e ^^^ t ^^^ xtime (e ^^^ a)]

/-- SubBytes and ShiftRows on 16 bytes, column by column. -/
def subShift (st : List Nat) : List Nat :=
  (List.range 16).map (fun i => sbox (st.getD ((i + 4 * (i % 4)) % 16) 0))

def addKey (st : List Nat) (k : List Nat) : List Nat := List.zipWith (· ^^^ ·) st k

/-- The 16 bytes of four key words. -/
def keyBytes (w : List Nat) : List Nat := w.flatMap (fun x => (toBE 4 x).map (·.toNat))

def aesRounds : Nat → List Nat → List Nat → List Nat
  | 0, w, st => addKey (subShift st) (keyBytes (w.take 4))
  | n + 1, w, st =>
    let t := subShift st
    let m := (List.range 4).flatMap (fun c => mixColumn ((t.drop (4 * c)).take 4))
    aesRounds n (w.drop 4) (addKey m (keyBytes (w.take 4)))

/-- AES encryption of a 128-bit block under a key of 16 or 32 bytes. -/
def aes (key : List Byte) (block : Nat) : Nat :=
  let nk := key.length / 4
  let w := (aesExpand nk (4 * (nk + 7) - nk) nk 1 (wordsBE nk key).reverse).reverse
  let st := addKey ((toBE 16 block).map (·.toNat)) (keyBytes (w.take 4))
  (aesRounds (nk + 5) (w.drop 4) st).foldl (fun v b => v * 256 + b) 0

/-- Multiplication in GF(2^128) as GCM orders its bits: n steps over the bits of x. -/
def gfMulSteps : Nat → Nat → Nat → Nat → Nat
  | 0, _, _, z => z
  | n + 1, x, v, z =>
    gfMulSteps n x (if v % 2 = 1 then (v / 2) ^^^ (0xE1 * 2 ^ 120) else v / 2) (if bit x n then z ^^^ v else z)

def gfMul (x y : Nat) : Nat := gfMulSteps 128 x y 0

def ghash (h : Nat) : Nat → Nat → List Byte → Nat
  | 0, y, _ => y
  | n + 1, y, b => ghash h n (gfMul (y ^^^ beNat (slice b 0 16)) h) (b.drop 16)

/-- The GMAC tag (128 bits) of associated data under a key and a 12-byte initialisation vector. -/
def gmac (key iv aad : List Byte) : Nat :=
  let h := aes key 0
  let n := (aad.length + 15) / 16
  let y := gfMul (ghash h n 0 aad ^^^ (8 * aad.length * 2 ^ 64)) h
  y ^^^ aes key (beNat (slice iv 0 12) * 0x100000000 + 1)

/-! ## ECDSA P-256 -/

def p256P : Nat := 0xFFFFFFFF00000001000000000000000000000000FFFFFFFFFFFFFFFFFFFFFFFF
def p256N : Nat := 0xFFFFFFFF00000000FFFFFFFFFFFFFFFFBCE6FAADA7179E84F3B9CAC2FC632551
def p256B : Nat := 0x5AC635D8AA3A93E7B3EBBD55769886BC651D06B0CC53B0F63BCE3C3E27D2604B
def p256Gx : Nat := 0x6B17D1F2E12C4247F8BCE6E563A440F277037D812DEB33A0F4A13945D898C296
def p256Gy : Nat := 0x4FE342E2FE1A7F9B8EE7EB4A7C0F9E162BCE33576B315ECECBB6406837BF51F5

/-- b to the power e modulo m, over the lowest n bits of e. -/
def powMod (m b : Nat) : Nat → Nat → Nat
  | 0, _ => 1 % m
  | n + 1, e => let r := powMod m b n (e / 2); let q := r * r % m; if e % 2 = 1 then q * b % m else q

/-- The inverse modulo a prime. -/
def invMod (m b : Nat) : Nat := powMod m b 256 (m - 2)

/-- A point of the curve; none is the point at infinity. -/
abbrev Point := Option (Nat × Nat)

def subMod (m a b : Nat) : Nat := (a + m - b % m) % m

def pointAdd (p q : Point) : Point :=
  match p, q with
  | none, q => q
  | p, none => p
  | some (x1, y1), some (x2, y2) =>
    let m := p256P
    if x1 = x2 && (y1 + y2) % m = 0 then none
    else
      let l :=
        if x1 = x2 then subMod m (3 * x1 * x1) 3 * invMod m (2 * y1 % m) % m
        else subMod m y2 y1 * invMod m (subMod m x2 x1) % m
      let x3 := subMod m (subMod m (l * l) x1) x2
      some (x3, subMod m (l * subMod m x1 x3) y1)

/-- k times a point, over the lowest n bits of k. -/
def pointMul (p : Point) : Nat → Nat → Point
  | 0, _ => none
  | n + 1, k =>
    let r := pointMul p n (k / 2)
    let d := pointAdd r r
    if k % 2 = 1 then pointAdd d p else d

/-- Does a signature (r, s) over a digest verify under the public key (x, y). -/
def ecdsaOk (x y digest r s : Nat) : Bool :=
  decide (x < p256P) && decide (y < p256P) &&
  decide (y * y % p256P = (x * x % p256P * x + (p256P - 3) * x + p256B) % p256P) &&
  decide (0 < r) && decide (r < p256N) && decide (0 < s) && decide (s < p256N) &&
  (let w := invMod p256N s
   match pointAdd (pointMul (some (p256Gx, p256Gy)) 256 (digest * w % p256N)) (pointMul (some (x, y)) 256 (r * w % p256N)) with
   | none => false
   | some (vx, _) => vx % p256N == r)

/-- The CRC-16 of option rows, ledgers, TOD and arbiter messages: polynomial 0x1021, initial 0xFFFF, not reflected (spec/16 R512). -/
def crc16 (b : List Byte) : Nat := crcL 16 0x1021 0xFFFF b

end Sys2Proof.Machine
end

