-- ==== Sys2Proof/Machine/Retained.lean ====
section
/-! DEFINITION. Retained state and the option rows: the header, the check at release, the load, burning and their commands
(spec/16 R508-R527). -/

namespace Sys2Proof.Machine

/-! ## Retained memory (R521-R525) -/

/-- The canonical form of the retained memory: rising addresses, no byte listed as zero, and none past its 8,192 bytes. -/
def Memory.wf (m : Table Byte) : Bool := Canon 0 m && m.all (fun e => decide (e.1 < 8192))

def retBytes (s : State) (off n : Nat) : List Byte := (List.range n).map (fun i => tget 0 s.ret.mem (off + i))

/-- Bytes put into a sparse byte memory whose unlisted bytes are zero. -/
def putBytes (t : Table Byte) : Nat → List Byte → Table Byte
  | _, [] => t
  | a, b :: r => putBytes (tset 0 t a b) (a + 1) r

/-- Bytes written at an offset; the memory ends at byte 8,191. -/
def retWrite (off : Nat) (b : List Byte) (s : State) : State := { s with ret := { s.ret with mem := putBytes s.ret.mem off (b.take (8192 - off)) } }

/-- A header copy (R523). -/
def hdrCopy (s : State) (k : Nat) : List Byte := retBytes s (32 * k) 32

def hdrOk (b : List Byte) : Bool :=
  (b.take 4 == [0x46, 0x41, 0x4C, 0x57]) && byteAt b 4 == 1 && le b 28 4 == crc32 (b.take 28)

/-- Which copy is current: the one that checks with the higher HDR_SEQ modulo 2^32 (R523). -/
def hdrCurrent (s : State) : Nat :=
  let a := hdrCopy s 0
  let b := hdrCopy s 1
  if !hdrOk b then 0
  else if !hdrOk a then 1
  else if (le b 24 4 + 2 ^ 32 - le a 24 4) % 2 ^ 32 < 2 ^ 31 && le b 24 4 != le a 24 4 then 1 else 0

def hdr (s : State) : List Byte := hdrCopy s (hdrCurrent s)

/-- A header with its sequence and CRC. -/
def hdrSeal (b : List Byte) (seq : Nat) : List Byte :=
  let c := b.take 24 ++ toLE 4 seq
  c ++ toLE 4 (crc32 c)

/-- An update of the header writes the other copy, with HDR_SEQ increased by 1 (R523). -/
def hdrUpdate (f : List Byte → List Byte) (s : State) : State :=
  let k := hdrCurrent s
  let b := hdrCopy s k
  retWrite (32 * (1 - k)) (hdrSeal (f b) (wrap32 (le b 24 4 + 1))) s

def failedLoads (s : State) : Nat := byteAt (hdr s) 5 % 4
def setFailedLoads (n : Nat) (s : State) : State := hdrUpdate (fun b => overlay b 5 [BitVec.ofNat 8 n]) s
def setBootField (cause image : Nat) (s : State) : State := hdrUpdate (fun b => overlay b 7 (toLE 1 (cause + 16 * image))) s
def setSafeField (cause : Nat) (s : State) : State := hdrUpdate (fun b => overlay b 6 (toLE 1 cause)) s

/-- A saturating 16-bit count of the header raised by 1. -/
def hdrCount (off : Nat) (s : State) : State :=
  hdrUpdate (fun b => overlay b off (toLE 2 (satAdd 0xFFFF (le b off 2) 1))) s

/-- One uncorrectable sheaf replaced, as step 3 of R524 gives: host sheaves are marked lost. -/
def replaceSheaf (k : Nat) (s : State) : State :=
  let s1 :=
    if k < 2 then retWrite (32 * k) (hdrCopy s (1 - k)) s
    else if k < 128 then retWrite (32 * k) (zeros 32) s
    else { retWrite (32 * k) (zeros 32) s with ret := { (retWrite (32 * k) (zeros 32) s).ret with lost := setBit s.ret.lost (k - 128) true } }
  { s1 with ret := { s1.ret with
      replaced := satAdd 255 s1.ret.replaced 1, bad := s1.ret.bad.filter (· != k)
      descs := if 66 ≤ k && k ≤ 69 then tdel s1.ret.descs ((k - 66) / 2) else s1.ret.descs } }

def replaceSheaves : List Nat → State → State
  | [], s => s
  | k :: r, s => replaceSheaves r (replaceSheaf k s)

/-- The check of step 1 of the release (R524); bad lists the sheaves found uncorrectable. -/
def retainedCheck (bad : List Nat) (s : State) : State :=
  let ok0 := hdrOk (hdrCopy s 0) && !bad.contains 0
  let ok1 := hdrOk (hdrCopy s 1) && !bad.contains 1
  if !ok0 && !ok1 then
    let s1 := { s with ret := { mem := [], bad := [], backup := [], valid := false, replaced := 0, lost := 0 } }
    fire 0x3C7 0x01 [] (retWrite 0 (hdrSeal ([0x46, 0x41, 0x4C, 0x57, 1] ++ zeros 19) 1) s1)
  else
    let s1 := replaceSheaves (bad.filter (· < 256)) { s with ret := { s.ret with valid := true, replaced := 0, lost := 0 } }
    if bad.isEmpty then s1 else fire 0x3C7 0x02 [] s1

/-! ## Option rows (R508-R513) -/

def maj (a b c : Nat) : Nat := (a &&& b) ||| (a &&& c) ||| (b &&& c)
def gen (s : State) (g : Nat) : Gen := tget {} s.nv.gens g
def votedRec (g : Gen) : Nat := maj g.rec0 g.rec1 g.rec2
def votedRow (g : Gen) : Nat := maj g.row0 g.row1 g.row2

/-- Bits in which the three copies disagree, saturating at 255 (R519, R520). -/
def copyDiff (g : Gen) : Nat :=
  let d := fun n a b c => popcount n ((a ^^^ b) ||| (a ^^^ c))
  min 255 (d 128 g.rec0 g.rec1 g.rec2 + d 512 g.row0 g.row1 g.row2)

/-- Does the CRC-16 in the top two bytes of a row of n bytes check (R512). -/
def rowCrcOk (n v : Nat) : Bool := crc16 (toLE (n - 2) v) == v / 2 ^ (8 * (n - 2))

/-- The status of a generation: 0 UNUSED, 1 VALID, 2 INVALID (R511). -/
def genStatus (n : Nat) (g : Gen) : Nat :=
  let r := votedRec g
  let o := votedRow g
  if r = 0 && o = 0 then 0
  else if rowCrcOk 16 r && bits r 111 104 == n && o != 0 && rowCrcOk 64 o then 1 else 2

def statusOf (s : State) (g : Nat) : Nat := genStatus g (gen s g)
def statusMapOf (s : State) : Nat := (List.range 8).foldl (fun v i => v + statusOf s (i + 1) * 4 ^ i) 0

/-- The highest of the generations 1..n that f accepts; 0 for none. -/
def highest (f : Nat → Bool) : Nat → Nat
  | 0 => 0
  | n + 1 => if f (n + 1) then n + 1 else highest f n

/-- A trim row as voted, and whether one fails its CRC (R508, R513). -/
def votedTrim (t : TrimRow) : Nat := maj t.copy0 t.copy1 t.copy2
def trimFaultOf (nv : NonVolatile) : Bool := !(rowCrcOk 64 (votedTrim nv.trimIds) && rowCrcOk 64 (votedTrim nv.trimCal))

/-- The factory defaults (R509): the trim values, POLICY LEAD_WINS, COMPACT, quad boot. -/
def factoryRow (trimIds : Nat) : Nat :=
  bits trimIds 495 240 * 2 ^ 240 + bits trimIds 239 112 * 2 ^ 112 + bits trimIds 111 64 * 2 ^ 64 + 1 * 2 ^ 34

def optFwKey (s : State) : Nat := bits s.opt.row 495 240
def optMaint (s : State) : Nat := bits s.opt.row 239 112
def optAltOffset (s : State) : Nat := bits s.opt.row 63 48

/-- The loader's procedure (R513). FAILED_LOADS is updated first. -/
def optionLoad (s0 : State) : State :=
  let n := failedLoads s0
  let forced := decide (3 ≤ n)
  let s := if forced then s0 else setFailedLoads (n + 1) s0
  let latest := highest (fun g => statusOf s g != 0) 8
  let use := highest (fun g => statusOf s g == 1) latest
  let fault := trimFaultOf s.nv
  let ids := if fault then Config.nominalTrim 0 else votedTrim s.nv.trimIds
  let row := if use = 0 then factoryRow ids else votedRow (gen s use)
  let valid := (List.range 8).filter (fun i => statusOf s (i + 1) == 1)
  let rows := valid.map (fun i => votedRow (gen s (i + 1)))
  { s with opt := { s.opt with
      use := use, fallback := use != 0 && use != latest, row := row,
      debugLock := rows.any (fun r => bit r 30),
      minFwEpoch := rows.foldl (fun m r => max m (bits r 29 22)) 0,
      trimFault := fault, forced := forced, trimIds := ids,
      trimCal := if fault then Config.nominalTrim 1 else votedTrim s.nv.trimCal,
      safeAfterBoot := use == 0 || fault || forced,
      statusMap := statusMapOf s } }

/-- Options that apply at step 7: in-band management and the management address (R514). -/
def applyPortOptions (s : State) : State :=
  let m := bits s.opt.row 111 64
  { s with opt := { s.opt with inbandOn := bit s.opt.row 31, mgmtMac := if m = 0 then bits s.opt.trimIds 111 64 else m } }

/-- An instruction of the JTAG port: boundary scan of IEEE 1149.1 and 1149.6, IDCODE, BYPASS, any other. -/
inductive JtagOp where
  | boundaryScan
  | idcode
  | bypass
  | other (code : Nat)
  deriving DecidableEq, Repr

/-- What an instruction of the JTAG port acts as: with the port limited, every one but boundary scan and IDCODE acts as BYPASS (R509, R514). -/
def jtagActs (s : State) (o : JtagOp) : JtagOp :=
  match o with
  | .other c => if s.dev.jtagLimited then .bypass else .other c
  | o => o

/-! ## Firmware images (R515, R516) -/

/-- The halt cause of an image; 0 when the boot ROM accepts it. The trailer is X, Y, r, s, 32 bytes each (R251). -/
def imageCause (s : State) : Option (List Byte) → Nat
  | none => 1
  | some b =>
    let n := le b 8 4
    if !(b.take 4 == [0x43, 0x50, 0x46, 0x57]) || n % 4 != 0 || n < 4 || 786432 < n || !reservedAt b 13 3 || !reservedAt b 24 40 ||
        b.length < 64 + n + 128 then 2
    else
      let tr := b.drop (64 + n)
      let x := beNat (slice tr 0 32)
      let y := beNat (slice tr 32 32)
      if !ecdsaOk x y (sha256 (b.take (64 + n))) (beNat (slice tr 64 32)) (beNat (slice tr 96 32)) then 3
      else if sha256 (slice tr 0 64) != optFwKey s then 4
      else if byteAt b 12 < s.opt.minFwEpoch then 5
      else 0

/-- What the boot ROM finds in the flash: the image started (0 primary, 1 alternate, 3 none) and the halt cause (R516). -/
def bootChoice (img0 img1 : Option (List Byte)) (s : State) : Nat × Nat :=
  let c0 := imageCause s img0
  if c0 = 0 then (0, 0)
  else if optAltOffset s = 0 then (3, c0)
  else
    let c1 := imageCause s img1
    if c1 = 0 then (1, 0) else (3, c1)

/-- The boot ROM's read of the flash from an address, as BOOT_SOURCE selects (R509, R516): Quad Output Fast Read at 50 MHz, or Fast Read at 25 MHz. -/
def bootRead (s : State) (address : Nat) : Output :=
  if bits s.opt.row 33 32 = 1 then .qspiRead 0x0B address 8 1 25 else .qspiRead 0x6B address 8 4 50

/-- The images that the boot ROM reads: the primary, and the alternate where that is rejected and there is one. -/
def readImages (img0 : Option (List Byte)) (s : State) : State :=
  let s1 := emitOut (bootRead s 0) s
  if imageCause s img0 = 0 || optAltOffset s = 0 then s1 else emitOut (bootRead s (optAltOffset s * 65536)) s1

/-- The image starts, or the command processor halts; BOOT is written (R516, R517). -/
def startImage (img0 img1 : Option (List Byte)) (s0 : State) : State :=
  let s := readImages img0 s0
  let (im, cause) := bootChoice img0 img1 s
  let b := (if im = 0 then img0 else img1).getD []
  let s1 := setBootField cause im s
  if im = 3 then
    { s1 with cp := { s1.cp with running := false, halted := true, haltCause := cause, imageStarted := 3 } }
  else
    { s1 with cp := { s1.cp with running := true, halted := false, haltCause := 0, imageStarted := im,
                                 fwVersion := le b 4 4, buildTime := le b 16 8 } }

/-! ## Commands (R518, R520, R526, R527) -/

def nextGen (s : State) : Nat := highest (fun g => statusOf s g != 0) 8 + 1

def specOptionBurn : CmdSpec := { opcode := 0x0E02, priv := 2, mask := 0xC, lenOk := len 68 }

/-- R518: the row's own checks. -/
def bodyOptionBurn (p : Packet) (s : State) : CmdResult :=
  let b := p.params
  let v := leNat (b.drop 4)
  let alt := bits v 63 48
  checked [(1 ≤ byteAt b 0 && byteAt b 0 ≤ 8, 0), (reservedAt b 1 3, 1), (bits v 21 0 == 0, 4), (bits v 511 496 == 0, 66),
    (bits v 39 38 != 3, 8), (bits v 35 34 == 1 || bits v 35 34 == 2, 8), (bits v 33 32 < 2, 8),
    (!(bits v 39 38 == 2 && bits v 47 40 == 0), 9), (bits v 495 240 != 0, 34), (bits v 239 112 != 0, 18),
    (alt == 0 || (13 ≤ alt && alt ≤ 255), 10)] <|
  if s.nv.burn.isSome then .refuse stBusy 0
  else if statusOf s 8 != 0 then .refuse stOptionSpent 0
  else if byteAt b 0 != nextGen s then .conflict
  else
    let g := byteAt b 0
    let row := v + crc16 (toLE 62 v) * 2 ^ 496
    let tag := (session s (p.session % 4)).identity
    let r0 := g * 2 ^ 104 + nowT64 s * 2 ^ 40 + tag * 2 ^ 8 + b2n (untraceable s)
    let br := r0 + crc16 (toLE 14 r0) * 2 ^ 112
    .accepted (fire 0x3C6 0x01 []
      { s with nv := { s.nv with burn := some { gen := g, record := br, row := row, step := 0, startedAt := s.clk.edges,
                                                ticket := ticketFor specOptionBurn p } } })

def execOptionBurn (p : Packet) (s : State) : Host.Outcome State Fault Refusal := serveCmd specOptionBurn bodyOptionBurn p s

/-- The first k of the six copies (record 0-2, row 0-2) burnt whole, and part of the bits of the next (R519). -/
def burnCopies (k part : Nat) (b : Burn) (g : Gen) : Gen :=
  let f := fun (i old want : Nat) => if i < k then old ||| want else if i = k then old ||| (want &&& part) else old
  { rec0 := f 0 g.rec0 b.record, rec1 := f 1 g.rec1 b.record, rec2 := f 2 g.rec2 b.record,
    row0 := f 3 g.row0 b.row, row1 := f 4 g.row1 b.row, row2 := f 5 g.row2 b.row }

/-- What a burn that is cut leaves of its generation: k whole copies and part of the bits of the next. R519 says that such a generation is found
INVALID: where those copies would be found otherwise, the record stands burnt and the row unburnt (log 98). -/
def cutGen (k part : Nat) (b : Burn) (g : Gen) : Gen :=
  if genStatus b.gen (burnCopies k part b g) = 2 then burnCopies k part b g else burnCopies 3 0 b g

/-- A burn in progress is cut by a reset or a power loss: it stays as far as it went (R519). -/
def cutBurn (k part : Nat) (nv : NonVolatile) : NonVolatile :=
  match nv.burn with
  | none => nv
  | some b => { nv with gens := tmod {} nv.gens b.gen (cutGen k part b), burn := none }

/-- OPTION_BURN_DONE (R519): the generation is written in its copies, save the bits that the antifuses left unburnt (fail gives,
per copy, the bits that did not burn), read back, voted and classified. -/
def execOptionBurnDone (fail0 fail1 fail2 : Nat) (s0 : State) : Host.Outcome State Fault Refusal :=
  if s0.clk.coreStopped then .next s0 else
  match s0.nv.burn with
  | none => .next s0
  | some b =>
    let s := reachEdge b.startedAt s0
    let k := fun (v f : Nat) => andNot v f
    let g := gen s b.gen
    let g1 : Gen := { rec0 := g.rec0 ||| k b.record (fail0 / 2 ^ 512), rec1 := g.rec1 ||| k b.record (fail1 / 2 ^ 512),
                      rec2 := g.rec2 ||| k b.record (fail2 / 2 ^ 512), row0 := g.row0 ||| k b.row (fail0 % 2 ^ 512),
                      row1 := g.row1 ||| k b.row (fail1 % 2 ^ 512), row2 := g.row2 ||| k b.row (fail2 % 2 ^ 512) }
    let s1 := { s with nv := { s.nv with gens := tset {} s.nv.gens b.gen g1, burn := none } }
    let reply := toLE 1 b.gen ++ toLE 1 (copyDiff g1) ++ zeros 2 ++ toLE 4 (bits b.record 39 8) ++ toLE 8 (bits b.record 103 40)
    if genStatus b.gen g1 = 1 then
      .next (complete b.ticket stOk reply (fire 0x3C6 0x02 [] (setFailedLoads 0 s1)))
    else .next (complete b.ticket stHwFault reply (fire 0x3C6 0x03 [] s1))

def specOptionRead : CmdSpec := { opcode := 0x0E01, priv := 0, mask := 0xF, lenOk := len 4 }

/-- R520. For GENERATION 0 with factory defaults in use, the generation reported is 0. -/
def bodyOptionRead (p : Packet) (s : State) : CmdResult :=
  let b := p.params
  checked [(byteAt b 0 ≤ 8, 0), (reservedAt b 1 3, 1)] <|
  let g := if byteAt b 0 = 0 then s.opt.use else byteAt b 0
  let x := gen s g
  let row := if g = 0 then factoryRow s.opt.trimIds else votedRow x
  let nx := nextGen s
  .ok (toLE 1 g ++ toLE 1 (if g = 0 then 0 else statusOf s g) ++ toLE 2 (statusMapOf s) ++ toLE 1 s.opt.use ++
    toLE 1 (b2n s.opt.fallback + 2 * b2n (s.opt.use == 0) + 4 * b2n s.opt.debugLock + 8 * b2n s.opt.trimFault +
      16 * b2n s.opt.forced) ++
    toLE 1 nx ++ toLE 1 (if g = 0 then 0 else copyDiff x) ++ toLE 16 (if g = 0 then 0 else votedRec x) ++ toLE 64 row ++ zeros 8) s

def execOptionRead (p : Packet) (s : State) : Host.Outcome State Fault Refusal := serveCmd specOptionRead bodyOptionRead p s

def specRetainedRead : CmdSpec := { opcode := 0x0E03, priv := 0, mask := 0xF, lenOk := len 8 }

/-- The sheaves of a byte range that are uncorrectable. -/
def badIn (s : State) (off n : Nat) : List Nat :=
  s.ret.bad.filter (fun k => off < 32 * (k + 1) && 32 * k < off + n)

def backupBytes (s : State) (off n : Nat) : List Byte :=
  slice ((List.range 16).flatMap (fun i => toLE 4 (tget 0 s.ret.backup i).toNat)) off n

/-- R526. An uncorrectable sheaf found by a read is replaced as in step 3 of R524 and reads as zeros. -/
def bodyRetainedRead (p : Packet) (s : State) : CmdResult :=
  let b := p.params
  let off := le b 0 2
  let n := le b 2 2
  let area := byteAt b 4
  let rangeOk := fun top => area == 2 || (off % 4 == 0 && decide (off + n ≤ top))
  checked [(rangeOk (if area = 1 then 64 else 8192), 0), (area == 2 || (4 ≤ n && n ≤ 4080 && n % 4 == 0), 2), (area ≤ 2, 4),
    (reservedAt b 5 3, 5)] <|
  match area with
  | 0 =>
    let bad := badIn s off n
    let s1 := replaceSheaves bad s
    let s2 := if bad.isEmpty then s1 else fire 0x3C7 0x02 [] s1
    let raw := retBytes s2 off n
    let seen := raw.zipIdx.map (fun e => if bad.contains ((off + e.2) / 32) then (0 : Byte) else e.1)
    .ok seen s2
  | 1 => .ok (backupBytes s off n) s
  | _ => .ok (toLE 1 (b2n s.ret.valid) ++ toLE 1 s.ret.replaced ++ zeros 2 ++ toLE 16 s.ret.lost ++ zeros 12) s

def execRetainedRead (p : Packet) (s : State) : Host.Outcome State Fault Refusal :=
  serveCmd specRetainedRead bodyRetainedRead p s

def specRetainedWrite : CmdSpec :=
  { opcode := 0x0E04, priv := 2, mask := 0xD, lenOk := fun b => 8 ≤ b.length && b.length == 8 + le b 2 2 && b.length % 4 == 0 }

/-- The backup registers with their bytes from an offset replaced. -/
def backupWrite (off : Nat) (d : List Byte) (s : State) : State :=
  let all := overlay (backupBytes s 0 64) off d
  { s with ret := { s.ret with
      backup := (List.range 16).foldl (fun t i => tset (0 : Word) t i (BitVec.ofNat 32 (le all (4 * i) 4))) s.ret.backup } }

/-- Sheaves written in rising order until an uncorrectable one stops the command (R527). -/
def writeSheaves : Nat → Nat → List Byte → State → Bool × State
  | 0, _, _, s => (true, s)
  | n + 1, off, d, s =>
    if d.isEmpty then (true, s)
    else
      let k := off / 32
      let m := 32 * (k + 1) - off
      if s.ret.bad.contains k then (false, s)
      else
        let s1 := retWrite off (d.take m) s
        writeSheaves n (off + (d.take m).length) (d.drop m)
          { s1 with ret := { s1.ret with lost := if 128 ≤ k then setBit s1.ret.lost (k - 128) false else s1.ret.lost } }

/-- R527. -/
def bodyRetainedWrite (p : Packet) (s : State) : CmdResult :=
  let b := p.params
  let off := le b 0 2
  let n := le b 2 2
  let area := byteAt b 4
  checked [((area == 0 && 0x1000 ≤ off && off + n ≤ 8192 && off % 4 == 0) || (area == 1 && off + n ≤ 64 && off % 4 == 0) || area == 3 ||
      !(area == 0 || area == 1 || area == 3), 0),
    (n % 4 == 0 && n ≤ 4072 && (area != 3 || n == 0), 2), (area == 0 || area == 1 || area == 3, 4), (reservedAt b 5 3, 5)] <|
  match area with
  | 0 =>
    if p.upset then .final stHwFault [] { s with ret := { s.ret with bad := s.ret.bad ++ [off / 32] } }
    else
      let (ok, s1) := writeSheaves 130 off (b.drop 8) s
      if ok then .ok [] s1 else .final stHwFault [] s1
  | 1 => .ok [] (backupWrite off (b.drop 8) s)
  | _ => .ok [] (setFailedLoads 0 s)

def execRetainedWrite (p : Packet) (s : State) : Host.Outcome State Fault Refusal :=
  serveCmd specRetainedWrite bodyRetainedWrite p s

/-- LAST_TRACEABLE_TIME_WRITE (R523): every 1 s while the time is traceable. -/
def execLastTraceableTimeWrite (s0 : State) : Host.Outcome State Fault Refusal :=
  .next (if untraceable s0 || !coreLive s0 then s0
         else
           let s := reachEdge (s0.ret.tracedAt + secE) s0
           let t := nowT64 s
           hdrUpdate (fun b => overlay b 8 (toLE 8 t)) { s with ret := { s.ret with tracedAt := s.clk.edges } })

end Sys2Proof.Machine
end

