-- ==== Sys2Proof/Machine/Tine.lean ====
section
/-! DEFINITION. The Tine: TIS2 instructions, faults, budget, records and the stream lock, up to the retirement of an activation
(spec/07 R218-R239). A Tine command names a Bed and a Tine: it issues the instruction at that Tine's program counter if it is of
the command's kind, and has no effect where the Tine is idle, waits, or stands at another instruction. -/

namespace Sys2Proof.Machine

/-! ## Beds -/

/-- Bed 0-7 is of furrow A, 8-15 of furrow B. -/
def bedFur (n : Nat) : Nat := n / 8 % 2
def bed (s : State) (n : Nat) : Bed := tget {} (fur s (bedFur n)).beds (n % 8)
def modBed (n : Nat) (g : Bed → Bed) (s : State) : State := modFur (bedFur n) (fun x => { x with beds := tmod {} x.beds (n % 8) g }) s
def bctr (k n : Nat) (s : State) : State := modBed n (fun b => { b with ctr := cinc b.ctr k 1 }) s
def bedBase (n : Nat) : Nat := 0x300 + 8 * n
def area (b : Bed) (a : Nat) : Image := if a = 0 then b.area0 else b.area1

/-- The Bed of a stream, or of a port for handle 0 (R222). -/
def bedIndex (handle port : Nat) : Nat :=
  if handle = 0 then port % 8
  else crc32c [BitVec.ofNat 8 handle, BitVec.ofNat 8 (handle / 256), BitVec.ofNat 8 (handle / 65536)] % 8

def act? (s : State) (n t : Nat) : Option Act := tget? (bed s n).tines t
def setAct (n t : Nat) (a : Act) (s : State) : State := modBed n (fun b => { b with tines := tput b.tines t a }) s

def progOf (s : State) (n : Nat) (a : Act) : ProgEnt := tget {} (area (bed s n) a.area).progs a.prog

/-- The supervision bits of a hot word as a frame of an ingress time sees them (R199, R220), as the 20 bits [31:12]. -/
def hotAt (s : State) (f h ns : Nat) : Nat :=
  match stagedFor (fur s f).tab ns (fun w => match w with | .hot h1 _ => h1 == h | _ => false) with
  | some (.hot _ old) => old
  | _ => tget 0 (fur s f).hot h
def hotProg (w : Nat) : Nat := bits w 19 13
def hotInline (w : Nat) : Bool := bit w 12
def hotSet (w : Nat) : Nat := bits w 11 2
def hotActive (w : Nat) : Bool := bit w 1

/-- A parameter set at its defaults (R241); SILENT_US reads 0 (log 20). -/
def paramDefault : List Byte :=
  toLE 2 8 ++ toLE 2 0 ++ toLE 2 4800 ++ toLE 2 0xFFFF ++ toLE 4 500000 ++ toLE 4 10000 ++ toLE 4 0 ++ zeros 12

def paramAt (s : State) (n i ns : Nat) : List Byte :=
  match stagedFor (fur s (bedFur n)).tab ns (fun w => match w with | .param j _ => j == i | _ => false) with
  | some (.param _ old) => old
  | _ => tget paramDefault (bed s n).params i

/-! ## Fields of the word -/

def wOp (w : Nat) : Nat := bits w 31 26
def wRd (w : Nat) : Nat := bits w 25 21
def wR1 (w : Nat) : Nat := bits w 20 16
def wR2 (w : Nat) : Nat := bits w 15 11
def wFn (w : Nat) : Nat := bits w 10 0
def wImm (w : Nat) : Nat := bits w 15 0
def wSImm (w : Nat) : Int := signed 16 w

/-- g0 reads as 0 and discards writes (R227). -/
def getG (a : Act) (r : Nat) : Word := if r = 0 then 0 else tget 0 a.g r
def setG (r : Nat) (v : Word) (a : Act) : Act := if r = 0 then a else { a with g := tset 0 a.g r v }
def w32 (n : Nat) : Word := BitVec.ofNat 32 n
def addImm (a : Act) (w : Nat) : Nat := unsigned 32 ((getG a (wR1 w)).toNat + wSImm w)

/-! ## Ending an activation -/

/-- The release entry of an activation takes its verdict, and the Tine is idle (R234). -/
def settle (n t : Nat) (a : Act) (verdict : Nat) (s : State) : State :=
  modBed n (fun b => { b with
    tines := tdel b.tines t
    lock := if tget? b.lock a.handle == some a.seq then tdel b.lock a.handle else b.lock
    release := b.release.map (fun e => if e.seq = a.seq then { e with verdict := some verdict } else e) }) s

/-- A fault (R230): effects and findings are discarded, the default verdict applies. -/
def tineFault (n t : Nat) (a : Act) (code : Nat) (s : State) : State :=
  let s1 := bctr 4 n (settle n t a (progOf s n a).default_ s)
  fireFurMs (bedFur n) (bedBase n + 2) 0 (toLE 1 code ++ toLE 4 a.handle ++ toLE 2 a.pc) s1

/-- The stop of an activation whose budget ran out (R231). -/
def budgetStop (n t : Nat) (a : Act) (s : State) : State :=
  let s1 := bctr 3 n (settle n t a (progOf s n a).default_ s)
  fireFurMs (bedFur n) (bedBase n + 1) 0 (toLE 4 a.handle ++ toLE 1 a.prog ++ toLE 2 a.pc) s1

def recOf (s : State) (n h : Nat) : Rec := tget {} (bed s n).recs h

/-- The staged RESET of a stream that an activation of an ingress time does not see (R199, R258): its TE, and the words that its record still has for it.
Once the staging record has retired, every activation sees the reset record. -/
def oldRecord (s : State) (n h ns : Nat) : Option (Nat × Table Word) :=
  (fur s (bedFur n)).tab.staging.findSome? (fun r => match r.what with
    | .reset h1 old _ => if h1 = h && ns < r.te then some (r.te, old) else none
    | _ => none)

/-- The record words of an activation. -/
def wordsOf (s : State) (n : Nat) (a : Act) : Table Word := ((oldRecord s n a.handle a.ns).map (·.2)).getD (recOf s n a.handle).words

/-- Does an activation lie before a staged RESET of its stream. -/
def beforeReset (s : State) (n : Nat) (a : Act) : Bool := (oldRecord s n a.handle a.ns).isSome

/-- The deadlines that a commit leaves. -/
def newDeadline (a : Act) (t : Table Nat) : Table Nat :=
  match a.tm with
  | none => t
  | some (some d) => tput t a.handle d
  | some none => tdel t a.handle

/-- The deadline that a commit before a RESET leaves: what it arms stands only up to TE, when the RESET disarms it. -/
def oldDeadline (a : Act) (te : Nat) (dl : Option Nat) : Option Nat :=
  match a.tm with
  | none => dl
  | some v => v.filter (fun d => decide (d < te))

/-- The buffered effects of an activation before a staged RESET go to the old record and the old deadline, which the RESET does away with. -/
def commitOld (a : Act) (write : Table Word → Table Word) (r : StagingRec) : StagingRec :=
  match r.what with
  | .reset h old dl => if h = a.handle then { r with what := .reset h (write old) (oldDeadline a r.te dl) } else r
  | _ => r

/-- Buffered effects take effect together, and the lock is released (R226). -/
def commit (n : Nat) (a : Act) (s : State) : State :=
  let write := fun (t : Table Word) => a.recBuf.foldl (fun t e => tset 0 t e.1 e.2) t
  let before := beforeReset s n a
  let s1 := modBed n (fun b => { b with
    recs := if a.recBuf.isEmpty || before then b.recs
      else tput b.recs a.handle (let r := tget {} b.recs a.handle; { r with words := write r.words })
    deadlines := if before then b.deadlines else newDeadline a b.deadlines
    lock := if tget? b.lock a.handle == some a.seq then tdel b.lock a.handle else b.lock }) s
  let s2 := if before then modTab (bedFur n) (fun t => { t with staging := t.staging.map (commitOld a write) }) s1 else s1
  match a.hst with
  | none => s2
  | some v => modFur (bedFur n) (fun x => { x with hot := tset 0 x.hot a.handle (setBit (tget 0 x.hot a.handle) 1 v) }) s2

def committed (a : Act) : Act := { a with recBuf := [], hst := none, tm := none, locked := false, lockDone := a.lockDone || a.locked }

/-! ## Cycles and sampling (R231, R253) -/

/-- Cycles of 1 ns since the start of an activation. -/
def cyclesNow (s : State) (a : Act) : Nat := (s.clk.edges - a.start) * 4 / 5
/-- The edge at which an activation has run for c cycles. -/
def cycleEdge (a : Act) (c : Nat) : Nat := a.start + ceilDiv (c * 5) 4

/-- Every Nth retirement is written to the furrow's sample buffer; of the Tines that retire in the cycle in which the count reaches N, the
lowest-numbered one is (R253, R254). Those retirements count no further (log 67). cause: as byte 11; at_: the edge of the retirement. -/
def sample (n t : Nat) (a : Act) (w latency cost cause at_ : Nat) (s0 : State) : State :=
  let f := bedFur n
  let s1 := perfF f 0x201 latency (perfF f 0x200 1 s0)
  let s := if cause = 0 then s1 else perfF f (0x201 + cause) (latency - cost) s1
  let m := (fur s f).samp
  let tine := n * 64 + t
  let put := fun (y : Sampling) => modFur f (fun x => { x with samp := y }) s
  if m.mode = 0 || (m.filter != 0 && m.filter != a.prog) then s
  else
    let e := toLE 2 (tine + b2n a.uid.isNone * 32768) ++ toLE 2 a.pc ++ toLE 4 w ++ toLE 2 (min 65535 latency) ++ toLE 1 a.prog ++
      toLE 1 (if cause != 0 then cause else if 1 < cost then 6 else 0) ++ toLE 4 (repNs s f % 1000000000)
    match m.reached with
    | some (e0, t0) =>
      if e0 = at_ then
        put (match t0 with
          | some t1 => if tine < t1 then { m with buf := e :: m.buf.drop 1, reached := some (e0, some tine) } else m
          | none => m)
      else count e { m with reached := none } put
    | none => count e m put
where
  count (e : List Byte) (m : Sampling) (put : Sampling → State) : State :=
    let f := bedFur n
    let tine := n * 64 + t
    let (tLow, eLow) := match m.low with
      | some (e0, t0, b0) => if e0 = at_ && t0 < tine then (t0, b0) else (tine, e)
      | none => (tine, e)
    let m := { m with low := some (at_, tLow, eLow) }
    if m.count + 1 < m.n then put { m with count := m.count + 1 }
    else if 4096 ≤ m.buf.length && m.mode = 2 then put { m with count := 0, reached := some (at_, none) }
    else
      let buf := (eLow :: m.buf).take 4096
      let s1 := put { m with count := 0, buf := buf, reached := some (at_, some tLow) }
      if m.mode = 2 && buf.length = 4096 then fireFur f (if f = 0 then 0x307 else 0x347) 0 [] s1 else s1

/-- What an instruction does: nothing until data arrives (cause), a fault, a stop in a unit, or its result with its cycles. -/
inductive TineOut where
  | stall (cause : Nat)
  | fault (code : Nat)
  | done (cost : Nat) (a : Act) (s : State)
  | wait (a : Act) (s : State)
  | retire (verdict : Nat)

/-- Cycles counted before an instruction, a stall that ends now included. -/
def cyclesBefore (s : State) (a : Act) : Nat := if a.stall = 0 then a.cycles else max a.cycles (cyclesNow s a)

/-! ## Findings (R239) -/

/-- Does a furrow's finding go to the journal: lead, EMIT_BOTH, or a turn overlap. -/
def emits (s : State) (n : Nat) (a : Act) : Bool :=
  let f := bedFur n
  let overlap := match s.hl.turn with | some t => t.started && !t.ended | none => false
  f == s.hl.lead || overlap || bit (byteAt (paramAt s n (hotSet (hotAt s f a.handle a.ns)) a.ns) 0) 6

/-- A finding's journal record (R239). -/
def fireFinding (n : Nat) (x : Finding) (s : State) : State :=
  fireStamp (t64OfNs x.ns) x.qns (bedBase n) 0
    (toLE 4 (x.handle + x.prog * 2 ^ 20 + b2n x.timer * 2 ^ 27) ++ toLE 1 x.code ++ zeros 3 ++ toLE 4 x.d0.toNat ++ toLE 4 x.d1.toNat) s

/-- The findings of a retirement enter the FIFO; one that finds 256 entries there is lost. -/
def findingsOut (n : Nat) (l : List Finding) (s : State) : State :=
  modBed n (fun b =>
    let kept := l.take (256 - b.fifo.length)
    { b with fifo := b.fifo ++ kept, ctr := cinc (cinc b.ctr 8 kept.length) 9 (l.length - kept.length) }) s

/-- The Bed whose oldest finding goes to the journal next: the lowest-numbered one that holds a finding and whose furrow is not isolated (log 63). -/
def findingBed (s : State) : Option Nat := (List.range 16).find? (fun n => !isolated s (bedFur n) && !(bed s n).fifo.isEmpty)

/-- A Bed's oldest finding leaves its FIFO for the journal. -/
def findingToJournal (n : Nat) (s : State) : State :=
  match (bed s n).fifo with
  | [] => s
  | x :: r => fireFinding n x (modBed n (fun b => { b with fifo := r }) s)

/-- Retirement (R226, R232): effects and findings together. -/
def retire (n t : Nat) (a : Act) (verdict : Nat) (s : State) : State :=
  let s1 := commit n a s
  let s2 := if emits s n a then findingsOut n a.finds s1 else s1
  settle n t a verdict s2

/-- One instruction of a Tine: kind tells which words the command takes. -/
def tineStep (kind : Nat → Bool) (run : State → Nat → Nat → Act → Nat → TineOut) (n t : Nat) (s : State) : State :=
  match (if s.clk.coreStopped then none else act? s n t) with
  | none => s
  | some a =>
    if a.phase != 0 then s
    else
      let img := area (bed s n) a.area
      if img.code.length < a.pc + 4 then tineFault n t a 0x06 s
      else
        let w := le img.code a.pc 4
        if !kind w then s
        else
          let c0 := cyclesBefore s a
          let budget := (progOf s n a).budget
          if a.stall != 0 && budget ≤ c0 then budgetStop n t a s
          else match run s n t a w with
            | .stall cause => setAct n t { a with stall := cause } s
            | .fault code => tineFault n t a code s
            | .retire v =>
              if budget < c0 + 1 then budgetStop n t a (reachEdge (cycleEdge a budget) s)
              else
                let s1 := reachEdge (cycleEdge a (c0 + 1)) s
                retire n t a v (sample n t a w (c0 + 1 - a.cycles) 1 a.stall (cycleEdge a (c0 + 1)) s1)
            | .wait a1 s1 => setAct n t a1 s1
            | .done cost a1 s1 =>
              if budget ≤ c0 + cost then budgetStop n t a (reachEdge (cycleEdge a budget) s)
              else
                let s2 := reachEdge (cycleEdge a (c0 + cost)) s1
                setAct n t { a1 with cycles := c0 + cost, stall := 0 } (sample n t a w (c0 + cost - a.cycles) cost a.stall (cycleEdge a (c0 + cost)) s2)

/-- The usual end of an instruction: the next one follows. -/
def next (cost : Nat) (a : Act) (s : State) : TineOut := .done cost { a with pc := a.pc + 4 } s
def opIs (op : Nat) (w : Nat) : Bool := wOp w == op
def opIn (lo hi : Nat) (w : Nat) : Bool := lo ≤ wOp w && wOp w ≤ hi

/-! ## Arithmetic -/

def sgn (x : Word) : Int := x.toInt

/-- The result of an OP 0x00 instruction by FN (R229). -/
def aluOp (fn : Nat) (x y : Word) : Word :=
  match fn with
  | 0 => x + y
  | 1 => x - y
  | 2 => x &&& y
  | 3 => x ||| y
  | 4 => x ^^^ y
  | 5 => x <<< (y.toNat % 32)
  | 6 => x >>> (y.toNat % 32)
  | 7 => x.sshiftRight (y.toNat % 32)
  | 8 => if sgn x < sgn y then 1 else 0
  | 9 => if x.toNat < y.toNat then 1 else 0
  | 10 => w32 (x.toNat * y.toNat)
  | _ => w32 (x.toNat * y.toNat / 2 ^ 32)

def runAlu (s : State) (_ _ : Nat) (a : Act) (w : Nat) : TineOut :=
  next (if 10 ≤ wFn w then 2 else 1) (setG (wRd w) (aluOp (wFn w) (getG a (wR1 w)) (getG a (wR2 w))) a) s
def execAluR (bed tine : Nat) (s : State) : Host.Outcome State Fault Refusal :=
  .next (tineStep (fun w => wOp w == 0 && wFn w < 12) runAlu bed tine s)

def runAddi (s : State) (_ _ : Nat) (a : Act) (w : Nat) : TineOut := next 1 (setG (wRd w) (w32 (addImm a w)) a) s
def execAddi (bed tine : Nat) (s : State) : Host.Outcome State Fault Refusal := .next (tineStep (opIs 0x01) runAddi bed tine s)

def runLogicImm (s : State) (_ _ : Nat) (a : Act) (w : Nat) : TineOut :=
  let x := getG a (wR1 w)
  let y := w32 (wImm w)
  next 1 (setG (wRd w) (if wOp w = 2 then x &&& y else if wOp w = 3 then x ||| y else x ^^^ y) a) s
def execAndiOriXori (bed tine : Nat) (s : State) : Host.Outcome State Fault Refusal := .next (tineStep (opIn 0x02 0x04) runLogicImm bed tine s)

def runSlt (s : State) (_ _ : Nat) (a : Act) (w : Nat) : TineOut :=
  let x := getG a (wR1 w)
  let lt := if wOp w = 5 then decide (sgn x < wSImm w) else decide (x.toNat < wImm w)
  next 1 (setG (wRd w) (if lt then 1 else 0) a) s
def execSltiSltiu (bed tine : Nat) (s : State) : Host.Outcome State Fault Refusal := .next (tineStep (opIn 0x05 0x06) runSlt bed tine s)

/-- SLLI, SRLI, SRAI; IMM[6:5] = 0b11 names no kind, and its result is a free value (log 2). -/
def runShift (s : State) (_ _ : Nat) (a : Act) (w : Nat) : TineOut :=
  let x := getG a (wR1 w)
  let k := bits w 4 0
  match bits w 6 5 with
  | 0 => next 1 (setG (wRd w) (x <<< k) a) s
  | 1 => next 1 (setG (wRd w) (x >>> k) a) s
  | 2 => next 1 (setG (wRd w) (x.sshiftRight k) a) s
  | _ => let (v, s1) := takeFree 32 s; next 1 (setG (wRd w) (w32 v) a) s1
def execSlliSrliSrai (bed tine : Nat) (s : State) : Host.Outcome State Fault Refusal := .next (tineStep (opIs 0x07) runShift bed tine s)

def runLui (s : State) (_ _ : Nat) (a : Act) (w : Nat) : TineOut := next 1 (setG (wRd w) (w32 (wImm w * 65536)) a) s
def execLui (bed tine : Nat) (s : State) : Host.Outcome State Fault Refusal := .next (tineStep (opIs 0x08) runLui bed tine s)

/-! ## Control flow. Offsets count instructions from the next one. -/

/-- The address an offset names; a negative one lies beyond the code length. -/
def target (a : Act) (off : Int) : Nat := unsigned 32 ((a.pc : Int) + 4 + 4 * off)

def branchTaken (op : Nat) (x y : Word) : Bool :=
  match op with
  | 0x10 => x == y
  | 0x11 => x != y
  | 0x12 => decide (sgn x < sgn y)
  | 0x13 => decide (sgn y ≤ sgn x)
  | 0x14 => decide (x.toNat < y.toNat)
  | _ => decide (y.toNat ≤ x.toNat)

def runBranch (s : State) (_ _ : Nat) (a : Act) (w : Nat) : TineOut :=
  if branchTaken (wOp w) (getG a (wRd w)) (getG a (wR1 w)) then .done 2 { a with pc := target a (wSImm w) } s else next 1 a s
def execBranch (bed tine : Nat) (s : State) : Host.Outcome State Fault Refusal := .next (tineStep (opIn 0x10 0x15) runBranch bed tine s)

def runJal (s : State) (_ _ : Nat) (a : Act) (w : Nat) : TineOut :=
  .done 2 { setG (wRd w) (w32 (a.pc + 4)) a with pc := target a (signed 21 w) } s
def execJal (bed tine : Nat) (s : State) : Host.Outcome State Fault Refusal := .next (tineStep (opIs 0x16) runJal bed tine s)

/-- JALR: the counter is always a multiple of 4, so the low two bits of the sum are dropped (DEDUCED, log 21). -/
def runJalr (s : State) (_ _ : Nat) (a : Act) (w : Nat) : TineOut :=
  .done 2 { setG (wRd w) (w32 (a.pc + 4)) a with pc := addImm a w / 4 * 4 } s
def execJalr (bed tine : Nat) (s : State) : Host.Outcome State Fault Refusal := .next (tineStep (opIs 0x17) runJalr bed tine s)

/-! ## Data memory: undefined at the start of an activation (R218) -/

/-- A byte of data memory; one not yet written is a free value, and stays it. -/
def readByte (a : Act) (i : Nat) (s : State) : Nat × Act × State :=
  match tget none a.data i with
  | some b => (b.toNat, a, s)
  | none =>
    let (v, s1) := takeFree 8 s
    (v, { a with data := tput a.data i (some (BitVec.ofNat 8 v)) }, s1)

def readBytes (a : Act) (i : Nat) : Nat → State → Nat × Act × State
  | 0, s => (0, a, s)
  | n + 1, s =>
    let (v, a1, s1) := readByte a i s
    let (r, a2, s2) := readBytes a1 (i + 1) n s1
    (v + 256 * r, a2, s2)

def writeBytes (a : Act) (i : Nat) : List Byte → Act
  | [] => a
  | b :: r => writeBytes { a with data := tput a.data i (some b) } (i + 1) r

def dataBad (ad size : Nat) : Bool := ad % size != 0 || 0x7FF < ad

def runLoad (s : State) (_ _ : Nat) (a : Act) (w : Nat) : TineOut :=
  let op := wOp w
  let size := if op = 0x18 then 4 else if op ≤ 0x1A then 2 else 1
  let ad := addImm a w
  if dataBad ad size then .fault 0x02
  else
    let (v, a1, s1) := readBytes a ad size s
    let r := if op = 0x19 then w32 (unsigned 32 (signed 16 v)) else if op = 0x1B then w32 (unsigned 32 (signed 8 v)) else w32 v
    next 2 (setG (wRd w) r a1) s1
def execLoad (bed tine : Nat) (s : State) : Host.Outcome State Fault Refusal := .next (tineStep (opIn 0x18 0x1C) runLoad bed tine s)

def runStore (s : State) (_ _ : Nat) (a : Act) (w : Nat) : TineOut :=
  let size := if wOp w = 0x1D then 4 else if wOp w = 0x1E then 2 else 1
  let ad := addImm a w
  if dataBad ad size then .fault 0x02 else next 1 (writeBytes a ad (toLE size (getG a (wRd w)).toNat)) s
def execStore (bed tine : Nat) (s : State) : Host.Outcome State Fault Refusal := .next (tineStep (opIn 0x1D 0x1F) runStore bed tine s)

/-! ## Constants and parameters -/

/-- CLD; an address that is no multiple of 4 reads a free value (log 2). -/
def runCld (s : State) (n _ : Nat) (a : Act) (w : Nat) : TineOut :=
  let c := (area (bed s n) a.area).consts
  let ad := addImm a w
  if c.length < ad + 4 then .fault 0x05
  else if ad % 4 != 0 then let (v, s1) := takeFree 32 s; next 3 (setG (wRd w) (w32 v) a) s1
  else next 3 (setG (wRd w) (w32 (le c ad 4)) a) s
def execCld (bed tine : Nat) (s : State) : Host.Outcome State Fault Refusal := .next (tineStep (opIs 0x20) runCld bed tine s)

def runPld (s : State) (n _ : Nat) (a : Act) (w : Nat) : TineOut :=
  let set := hotSet (hotAt s (bedFur n) a.handle a.ns)
  next 3 (setG (wRd w) (w32 (le (paramAt s n set a.ns) (4 * (wImm w % 8)) 4)) a) s
def execPld (bed tine : Nat) (s : State) : Host.Outcome State Fault Refusal := .next (tineStep (opIs 0x21) runPld bed tine s)

/-! ## The frame window (R228) -/

def runWsel (s : State) (_ _ : Nat) (a : Act) (w : Nat) : TineOut :=
  let fld := bits w 15 10
  let off := bits w 9 0
  if fld != 0x3F && off != 0 then .fault 0x03
  else next 1 { a with win := tset (0, 0) a.win (wRd w % 8) (fld, off) } s
def execWsel (bed tine : Nat) (s : State) : Host.Outcome State Fault Refusal := .next (tineStep (opIs 0x24) runWsel bed tine s)

/-- Has a window byte arrived by now; a byte beyond the frame reads 0 at once, once the frame has ended. -/
def arrived (s : State) (x : Frame) (upto : Nat) : Bool :=
  x.rxDone || decide (min upto (effBytes x).length ≤ rxBytes x s.clk.edges)

def ended (s : State) (x : Frame) : Bool := x.rxDone || decide ((effBytes x).length ≤ rxBytes x s.clk.edges)

/-- The offset and length of an element, packed (R228). -/
def locOf (l : Nat × Nat) : Nat := l.1 % 65536 * 65536 + l.2 % 65536

/-- A field of a frame activation: its value, or none while it is not final. -/
def frameField (s : State) (n : Nat) (a : Act) (u id : Nat) : Option Nat :=
  let x := frame s u
  let f := bedFur n
  let pf := pframe s f x
  let p := parse pf
  match id with
  | 0x32 => some (t64OfNs a.ns)
  | 0x33 => if ended s x then some (effBytes x).length else none
  | 0x34 => some x.tag
  | 0x35 => some a.md
  | 0x36 => some (locOf p.sec)
  | 0x37 => some (match tget? p.pos 0x42, tget? p.pos 0x44 with | some l, _ => locOf l | _, some l => locOf l | _, _ => 0)
  | 0x38 => some (match tget? p.pos 0x17, tget? p.pos 0x1A with | some l, _ => locOf l | _, some l => locOf l | _, _ => 0)
  | 0x0C => if ended s x then some (fieldVal p 0x0C) else none
  | 0x29 => if ended s x then some (parseFlags p (firstCase pf.len (fun _ => true) p.cases) (bit (((decOf x f).getD {}).parseFlags) 10)
      (patHits pf (bankOf s f x.bank).patterns) pf.len) else none
  | _ =>
    some (fieldOf { f := pf, p := p, port := x.port, early := x.early, flags := 0, hits := patHits pf (bankOf s f x.bank).patterns,
                    scratch := a.md % 2 ^ 32 } id)

def runWld (s : State) (n _ : Nat) (a : Act) (w : Nat) : TineOut :=
  let (fld, off) := tget (0, 0) a.win (wR1 w % 8)
  let put := fun v => next 2 (setG (wRd w) (w32 v) a) s
  if fld = 0x3F then
    let i := (off : Int) + wSImm w
    if i < 0 || 508 < i then .fault 0x03
    else match a.uid with
      | none => put 0
      | some u =>
        let x := frame s u
        if arrived s x (i.toNat + 4) then put (be (effBytes x) i.toNat 4) else .stall 1
  else
    let word := fun v => (v >>> (32 * wImm w)) % 2 ^ 32
    match a.uid with
    | none => put (if fld = 0x32 then word (t64OfNs a.ns) else if fld = 0x35 then word a.md else 0)
    | some u => match frameField s n a u fld with
      | some v => put (word v)
      | none => .stall 1
def execWld (bed tine : Nat) (s : State) : Host.Outcome State Fault Refusal := .next (tineStep (opIs 0x25) runWld bed tine s)

/-- Window bytes for BERS, CRC and AUTH: those of the frame, or zeros in a timer activation; none while some have not arrived. -/
def winBytes (s : State) (a : Act) (off len : Nat) : Option (List Byte) :=
  match a.uid with
  | none => some (zeros len)
  | some u =>
    let x := frame s u
    if arrived s x (off + len) then some (slice (effBytes x) off len) else none

/-- BERS. With 4 length bytes the header has 6 bytes, which the rule's range 2-5 for that field does not hold: the field is a free value (log 66). -/
def runBers (s : State) (_ _ : Nat) (a : Act) (w : Nat) : TineOut :=
  let i := (getG a (wR1 w)).toNat
  let put := fun v => next 3 (setG (wRd w) (w32 v) a) s
  if 510 < i then put 0
  else match winBytes s a i 2 with
    | none => .stall 1
    | some h =>
      let l0 := byteAt h 1
      let k := if l0 < 128 then 0 else l0 - 128
      if l0 = 128 || 4 < k then put 0
      else match winBytes s a (i + 2) k with
        | none => .stall 1
        | some lb =>
          let len := if l0 < 128 then l0 else beNat lb
          let (hl, s1) := if k = 4 then takeFree 4 s else (2 + k, s)
          if 512 < i + 2 + k + len then put 0
          else next 3 (setG (wRd w) (w32 (byteAt h 0 * 2 ^ 24 + hl * 65536 + len)) a) s1
def execBers (bed tine : Nat) (s : State) : Host.Outcome State Fault Refusal := .next (tineStep (opIs 0x26) runBers bed tine s)

def runCrc (s : State) (_ _ : Nat) (a : Act) (w : Nat) : TineOut :=
  let off := (getG a (wR1 w)).toNat
  let len := (getG a (wR2 w)).toNat
  if 512 < off + len then .fault 0x03
  else match winBytes s a off len with
    | none => .stall 1
    | some b => next (2 + (len + 7) / 8) (setG (wRd w) (w32 (crc32c b)) a) s
def execCrc (bed tine : Nat) (s : State) : Host.Outcome State Fault Refusal := .next (tineStep (opIs 0x27) runCrc bed tine s)

def runHash (s : State) (_ _ : Nat) (a : Act) (w : Nat) : TineOut := next 1 (setG (wRd w) (w32 (mix (getG a (wR1 w)).toNat)) a) s
def execHash (bed tine : Nat) (s : State) : Host.Outcome State Fault Refusal := .next (tineStep (opIs 0x28) runHash bed tine s)

/-! ## The record, the hot word and the deadline (R226, R236) -/

/-- May an activation hold its stream's lock: no other holds it, and every earlier one of the stream has held and released it. -/
def mayLock (b : Bed) (a : Act) : Bool :=
  (match tget? b.lock a.handle with | none => true | some q => q == a.seq) &&
  b.tines.all (fun e => !(e.2.handle == a.handle && decide (e.2.seq < a.seq)) || e.2.lockDone) &&
  b.queue.all (fun e => !(e.handle == a.handle && decide (e.seq < a.seq)))

/-- A record is used: it is now the most recently used one of its Bed (R225). -/
def useRecord (h : Nat) (b : Bed) : Bed :=
  if tmem b.recs h then { b with uses := b.uses + 1, recs := tmod {} b.recs h (fun r => { r with used := b.uses + 1 }) } else b

/-- The lock is taken by the first SLD or SST. -/
def withLock (s : State) (n : Nat) (a : Act) (k : Act → State → TineOut) : TineOut :=
  if a.handle = 0 then .fault 0x04
  else if a.locked then k a (modBed n (useRecord a.handle) s)
  else if mayLock (bed s n) a then
    k { a with locked := true } (modBed n (fun b => useRecord a.handle { b with lock := tput b.lock a.handle a.seq }) s)
  else .stall 2

def runSld (s : State) (n _ : Nat) (a : Act) (w : Nat) : TineOut :=
  withLock s n a (fun a s => next 2 (setG (wRd w) (tget 0 (wordsOf s n a) (wImm w % 8)) a) s)
def execSld (bed tine : Nat) (s : State) : Host.Outcome State Fault Refusal := .next (tineStep (opIs 0x2C) runSld bed tine s)

def runSst (s : State) (n _ : Nat) (a : Act) (w : Nat) : TineOut :=
  withLock s n a (fun a s => next 1 { a with recBuf := tput a.recBuf (wImm w % 8) (getG a (wRd w)) } s)
def execSst (bed tine : Nat) (s : State) : Host.Outcome State Fault Refusal := .next (tineStep (opIs 0x2D) runSst bed tine s)

def runSrel (s : State) (n _ : Nat) (a : Act) (_ : Nat) : TineOut := next 1 (committed a) (commit n a s)
def execSrel (bed tine : Nat) (s : State) : Host.Outcome State Fault Refusal := .next (tineStep (opIs 0x2E) runSrel bed tine s)

def runHst (s : State) (_ _ : Nat) (a : Act) (w : Nat) : TineOut :=
  if a.handle = 0 then .fault 0x04 else next 1 { a with hst := some (bit (getG a (wR1 w)).toNat 0) } s
def execHst (bed tine : Nat) (s : State) : Host.Outcome State Fault Refusal := .next (tineStep (opIs 0x2F) runHst bed tine s)

def runTrd (s : State) (n _ : Nat) (a : Act) (w : Nat) : TineOut :=
  let t := t64OfNs (repNs s (bedFur n))
  next 2 (setG (wRd w) (w32 (if wImm w = 0 then t / 2 ^ 32 else t)) a) s
def execTrd (bed tine : Nat) (s : State) : Host.Outcome State Fault Refusal := .next (tineStep (opIs 0x30) runTrd bed tine s)

/-- The deadlines held, with those that activations on Tines will arm (R236). -/
def deadlinesHeld (b : Bed) (h : Nat) : Nat :=
  b.deadlines.length + ((b.tines.filter (fun e => e.2.handle != h && !tmem b.deadlines e.2.handle && e.2.tm.any (·.isSome))).map (·.2.handle)).eraseDups.length

def runTmset (s : State) (n _ : Nat) (a : Act) (w : Nat) : TineOut :=
  if a.handle = 0 then .fault 0x04
  else
    let us := (getG a (wR1 w)).toNat
    let b := bed s n
    if us = 0 then next 2 (setG (wRd w) 0 { a with tm := some none }) s
    else if !tmem b.deadlines a.handle && 8192 ≤ deadlinesHeld b a.handle then
      next 2 (setG (wRd w) 1 a)
        (fireFurMs (bedFur n) (bedBase n + 4) 0x02 [] (bctr 12 n s))
    else next 2 (setG (wRd w) 0 { a with tm := some (some (a.ns + us * 1000)) }) s
def execTmset (bed tine : Nat) (s : State) : Host.Outcome State Fault Refusal := .next (tineStep (opIs 0x31) runTmset bed tine s)

/-! ## Authentication (R237, R238) -/

/-- R238. -/
def slotValid (k : KeySlot) (ns : Nat) : Bool := k.valid && k.alg != 0 && decide (k.notBefore ≤ ns) && decide (ns < k.notAfter)

def runAkey (s : State) (n _ : Nat) (a : Act) (w : Nat) : TineOut :=
  let i := (getG a (wR1 w)).toNat
  if 4095 < i then .fault 0x07
  else
    let k := slotAt (fur s (bedFur n)).tab i a.ns
    next 4 (setG (wRd w) (if slotValid k a.ns then w32 k.keyId else 0xFFFFFFFF) { a with slot := some i }) s
def execAkey (bed tine : Nat) (s : State) : Host.Outcome State Fault Refusal := .next (tineStep (opIs 0x34) runAkey bed tine s)

/-- The tag length of an algorithm (R238). -/
def tagLen (alg : Nat) : Nat := [0, 10, 16, 32, 8, 16, 8, 16].getD alg 0

/-- The tag that a slot's algorithm gives over the covered bytes. kind and sec: the kind of the frame and its security information. -/
def tagOf (k : KeySlot) (data : List Byte) (kind : Nat) (sec : List Byte) : List Byte :=
  let key := k.material.take k.len
  if k.alg ≤ 3 then (toBE 32 (hmac256 key data)).take (tagLen k.alg) else (toBE 16 (gmac key (Config.gmacIv kind sec) data)).take (tagLen k.alg)

/-- Cycles of a unit for L bytes (R237). -/
def unitCycles (alg len : Nat) : Nat := if alg ≤ 3 then 64 * ((len + 73 + 63) / 64 + 2) else 40 + 4 * ((len + 15) / 16)

/-- The APP_KIND of an activation's frame and its security information: the security extension, or the session header of a routed frame up to the end
of its security information (R151). -/
def secInfo (s : State) (n : Nat) (a : Act) : Nat × List Byte :=
  match a.uid with
  | none => (0, [])
  | some u =>
    let x := frame s u
    let p := parse (pframe s (bedFur n) x)
    let b := effBytes x
    if p.app = 3 || p.app = 4 then (p.app, slice b p.spdu.1 (29 + byteAt b (p.spdu.1 + 28))) else (p.app, slice b p.sec.1 p.sec.2)

def runAuth (s : State) (n _ : Nat) (a : Act) (w : Nat) : TineOut :=
  match a.slot with
  | none => .fault 0x07
  | some i =>
    let k := slotAt (fur s (bedFur n)).tab i a.ns
    let r1 := (getG a (wR1 w)).toNat
    let r2 := (getG a (wR2 w)).toNat
    let (o, l) := (r1 / 65536, r1 % 65536)
    let (q, m) := (r2 / 65536, r2 % 65536)
    if 512 < o + l || 512 < q + m then next 2 (setG (wRd w) 3 a) s
    else if !k.valid || k.alg = 0 || 7 < k.alg || m != tagLen k.alg then next 2 (setG (wRd w) 2 a) s
    else match winBytes s a o l, winBytes s a q m with
      | some d, some tag =>
        let (kind, sec) := secInfo s n a
        let code := if tagOf k d kind sec == tag then 0 else 1
        let b := bed s n
        let sha := decide (k.alg ≤ 3)
        let c0 := cyclesBefore s a
        let asked := cycleEdge a c0
        let unit := if sha then b.shaFree else b.gcmFree
        -- The cycles of the wait for the unit, and the edge at which the unit is free again.
        let c1 := c0 + ceilDiv ((unit - asked) * 4) 5
        let free := cycleEdge a (c1 + unitCycles k.alg l)
        .wait { a with phase := 1, authRd := wRd w, authCode := code, authCost := 2 + unitCycles k.alg l, authWord := w
                       stall := if asked < unit then (if sha then 3 else 4) else a.stall
                       authDone := c1 + 2 + unitCycles k.alg l }
          (modBed n (fun b => if sha then { b with shaFree := free } else { b with gcmFree := free }) s)
      | _, _ => .stall 1
def execAuth (bed tine : Nat) (s : State) : Host.Outcome State Fault Refusal := .next (tineStep (opIs 0x35) runAuth bed tine s)

/-- The unit finishes a check, and AUTH retires 2 cycles later: the Tine takes the result code, or its budget has run out before (R237, R231). -/
def authDone (n t : Nat) (s : State) : State :=
  match act? s n t with
  | none => s
  | some a =>
    if a.phase != 1 then s
    else
      let budget := (progOf s n a).budget
      let c := a.authDone
      if budget ≤ c then budgetStop n t a (reachEdge (cycleEdge a budget) s)
      else
        setAct n t { setG a.authRd (w32 a.authCode) a with phase := 0, pc := a.pc + 4, cycles := c, stall := 0 }
          (sample n t a a.authWord (c - a.cycles) a.authCost a.stall (cycleEdge a c) (reachEdge (cycleEdge a c) s))
def execAuthUnitDone (bed tine : Nat) (s : State) : Host.Outcome State Fault Refusal :=
  if s.clk.coreStopped then .next s else
  .next (authDone bed tine s)

/-! ## Findings and the verdict -/

def actQns (s : State) (a : Act) : Nat := match a.uid with | some u => (frame s u).qns | none => 0

def runEmit (s : State) (_ _ : Nat) (a : Act) (w : Nat) : TineOut :=
  let x : Finding := { ns := a.ns, qns := actQns s a, handle := a.handle, prog := a.prog, timer := a.uid.isNone, code := wFn w % 256,
                       d0 := getG a (wR1 w), d1 := getG a (wR2 w) }
  next 2 { a with finds := a.finds ++ [x] } s
def execEmit (bed tine : Nat) (s : State) : Host.Outcome State Fault Refusal := .next (tineStep (opIs 0x38) runEmit bed tine s)

def runVrd (_ : State) (_ _ : Nat) (_ : Act) (w : Nat) : TineOut := if 4 < wImm w % 8 then .fault 0x01 else .retire (wImm w % 8)
def execVrd (bed tine : Nat) (s : State) : Host.Outcome State Fault Refusal := .next (tineStep (opIs 0x3C) runVrd bed tine s)

/-- Is a word an instruction of R229. -/
def legalWord (w : Nat) : Bool :=
  if wOp w = 0 then decide (wFn w < 12)
  else [0x01, 0x02, 0x03, 0x04, 0x05, 0x06, 0x07, 0x08, 0x10, 0x11, 0x12, 0x13, 0x14, 0x15, 0x16, 0x17, 0x18, 0x19, 0x1A, 0x1B, 0x1C,
    0x1D, 0x1E, 0x1F, 0x20, 0x21, 0x24, 0x25, 0x26, 0x27, 0x28, 0x2C, 0x2D, 0x2E, 0x2F, 0x30, 0x31, 0x34, 0x35, 0x38, 0x3C].contains (wOp w)

def runIllegal (_ : State) (_ _ : Nat) (_ : Act) (_ : Nat) : TineOut := .fault 0x01
def execIllegalInstruction (bed tine : Nat) (s : State) : Host.Outcome State Fault Refusal :=
  .next (tineStep (fun w => !legalWord w) runIllegal bed tine s)

/-- BUDGET_EXCEEDED: the count of an activation that still runs or waits reaches its BUDGET (R231). -/
def execBudgetExceeded (bed tine : Nat) (s : State) : Host.Outcome State Fault Refusal :=
  if s.clk.coreStopped then .next s else
  match act? s bed tine with
  | none => .next s
  | some a => .next (budgetStop bed tine a (reachEdge (cycleEdge a (progOf s bed a).budget) s))

end Sys2Proof.Machine
end

