-- ==== Sys2Proof/Machine/Bed.lean ====
section
/-! DEFINITION. The Beds: dispatch, records, timers, release of verdicts, images, sampling, and their commands (spec/07 R218-R226, R231-R236,
R250-R263). -/

namespace Sys2Proof.Machine

/-- Codes that a limited source with several reasons carries: the lowest byte of a payload says which (R423). -/
def fireBed (n k cause : Nat) (payload : List Byte) (s : State) : State :=
  fireFurMs (bedFur n) (bedBase n + k) cause payload s

/-! ## Programs (R221, R252) -/

/-- The image area that an ingress time runs. -/
def areaFor (b : Bed) (ns : Nat) : Nat :=
  match b.pendAct with
  | some p => if p.t ≤ ns then 1 - b.active else b.active
  | none => b.active

def progIn (b : Bed) (ar k : Nat) : Option ProgEnt := if (area b ar).loaded then tget? (area b ar).progs k else none

/-- The effective program and mode of a frame: 1 alongside, 2 inline, 3 none (R221, R250). -/
def effProgram (s : State) (f : Nat) (d : Decision) (ns port : Nat) : Nat × Nat :=
  let hot := if d.handle = 0 then 0 else hotAt s f d.handle ns
  let k := if d.program != 0 then d.program else hotProg hot
  let n := 8 * f + bedIndex d.handle port
  let b := bed s n
  let ok := match progIn b (areaFor b ns) k with | some e => bit e.flags 1 | none => false
  let mode := if d.tineMode != 0 then d.tineMode else if hotInline hot && ok then 2 else 1
  (k, mode)

/-- Does resolve forward the frame, or forward it and copy it to the host, with no exception action but FORWARD. -/
def supervised (d : Decision) : Bool := d.dropped == 0 && (d.disposition == 0 || d.disposition == 3) && d.action == 0

/-- NO_PROGRAM, and its event after an activation. -/
def noProgram (n : Nat) (s : State) : State :=
  let s1 := bctr 7 n s
  if (bed s n).noProgArmed then fireFur (bedFur n) (bedBase n + 5) 0x03 [] (modBed n (fun b => { b with noProgArmed := false }) s1) else s1

/-! ## Records (R224, R225) -/

/-- Is the extended stream state region configured and usable. -/
def streamRegion (s : State) : Bool := bit s.deep.enables 1 && s.deep.grain.isSome

def pinnedCount (b : Bed) : Nat := (b.recs.filter (fun e => e.2.pinned)).length

/-- The record to evict: least recently used, unpinned and unlocked. One of an activation on a Tine is never the least recently used. -/
def victim (b : Bed) : Option Nat :=
  (b.recs.foldl (fun (m : Option (Nat × Nat)) e =>
    if e.2.pinned || tmem b.lock e.1 || b.tines.any (fun t => t.2.handle == e.1) then m
    else match m with
      | none => some (e.1, e.2.used)
      | some (h, u) => if e.2.used < u then some (e.1, e.2.used) else some (h, u)) none).map (·.1)

def recBytesOf (r : Rec) : List Byte := (List.range 8).flatMap (fun i => toLE 4 (tget 0 r.words i).toNat)
def recOfBytes (b : List Byte) : Table Word := (List.range 8).foldl (fun t i => tset 0 t i (BitVec.ofNat 32 (le b (4 * i) 4))) []

/-- The device address of a furrow's half of a record (R472). -/
def recAddr (s : State) (f h : Nat) : Nat := s.deep.streamBase + 64 * h + 32 * f

/-- A record is fetched: at most one fetch of it at a time. The request of a fenced furrow reaches no shared block (R27). -/
def beginFetch (n h : Nat) (s : State) : State :=
  if (bed s n).fetching.contains h || !reaches s (bedFur n) then s else putBytes64 1 false (recAddr s (bedFur n) h) 32 (bctr 10 n (modBed n (fun b => { b with fetching := b.fetching ++ [h] }) s))

/-- A record leaves the cache: written back, or discarded where no region holds it, or where its furrow is fenced (R27); its channel may serve no
request (R480). That of a queued activation
is fetched again. -/
def evict (n h : Nat) (s : State) : State :=
  let r := tget {} (bed s n).recs h
  let s1 := modBed n (fun b => { b with recs := tdel b.recs h }) s
  if !reaches s (bedFur n) then s1
  else if streamRegion s then
    let a := recAddr s (bedFur n) h
    let s2 := if deepUp s a then writeHalves 1 a (recBytesOf r) [] (modFur (bedFur n) (fun x => { x with deepRecs := tput x.deepRecs h (recBytesOf r) }) s1) else s1
    if (bed s n).queue.any (fun q => q.handle == h) then beginFetch n h s2 else s2
  else fireBed n 4 0x01 [] (bctr 11 n s1)

/-- A record enters the cache. -/
def install (n h : Nat) (w : Table Word) (pin : Bool) (s : State) : State :=
  let s1 := if 4096 ≤ (bed s n).recs.length then (match victim (bed s n) with | some v => evict n v s | none => s) else s
  modBed n (fun b => { b with uses := b.uses + 1, recs := tput b.recs h { words := w, pinned := pin, used := b.uses + 1 }, fetching := b.fetching.filter (· != h) }) s1

/-- A record is wanted: a fetch from the deep store begins, or a zeroed record is there at once. -/
def wantRecord (n h : Nat) (s : State) : State :=
  if h = 0 || tmem (bed s n).recs h || (bed s n).fetching.contains h then s
  else if streamRegion s then beginFetch n h s
  else install n h [] false s

/-- Would a record have to be fetched while the deep store trains (R479, step 3): the activation is not supervised. -/
def fetchBarred (s : State) (n h : Nat) : Bool :=
  deepTraining s && streamRegion s && h != 0 && !tmem (bed s n).recs h

/-- The stored half of a record in the deep store, zeroed where its channel has lost it (R480). -/
def deepRec (s : State) (f h : Nat) : Table Word :=
  if deepHolds s (recAddr s f h) then recOfBytes ((tget? (fur s f).deepRecs h).getD []) else []

/-- RECORD_FETCH_DONE (R225): bad where the burst comes back poisoned or uncorrectable. None comes back while the clients have stopped for a training
(R479). -/
def execRecordFetchDone (bed_ : Nat) (bad : Bool) (s : State) : Host.Outcome State Fault Refusal :=
  if s.clk.coreStopped then .next s else
  match (bed s bed_).fetching with
  | [] => .next s
  | h :: _ =>
    let pin := hotInline (tget 0 (fur s (bedFur bed_)).hot h)
    if deepTraining s then .next s
    else if bad || !deepUp s (recAddr s (bedFur bed_) h) then .next (fireBed bed_ 4 0x03 [] (bctr 11 bed_ (install bed_ h [] pin s)))
    else .next (install bed_ h (deepRec s (bedFur bed_) h) pin s)

/-! ## Verdicts (R232-R234) -/

/-- TRAP in inline mode: the host fabric port only, and only the copy of the furrow that leads for the frame (R232, R233, R380). -/
def trapCopy (f u : Nat) (s : State) : State :=
  let h := if (frame s u).early = 7 then f else onlyHalf (frame s u)
  if f = (frame s u).lead then modFrame u (fun x => match decOf x f with
    | some d => setDec f { d with egress := hostBit, host := true, hostReason := 4 } x
    | none => x) s
  else if (frame s u).early = 7 then dropLate u h s else s

/-- What a released verdict of a frame does. The furrow that leads for the frame is the one that its ingress time found (R380). -/
def verdictFrame (n u v handle : Nat) (inl : Bool) (s0 : State) : State :=
  let f := bedFur n
  let x := frame s0 u
  let h := if x.early = 7 then f else onlyHalf x
  let lead := f == x.lead
  let s1 := gleanVerdict f u v (if lead then modFrame u (fun x => { x with verdict := some v }) s0 else s0)
  let s2 := if v = 2 then modFrame u (fun x => { x with mark := true }) s1 else s1
  let s3 := if v = 4 && lead then
      (glTrigger 1 x.ns (bit s2.gle.flags 0 && (!bit s2.gle.flags 1 || s2.gle.handle == handle)) s2).2
    else s2
  if !inl then s3
  else
    let s4 := setHold u f false s3
    let s5 := if v = 1 then (if x.early = 7 || lead then dropLate u h s4 else s4) else if v = 3 then trapCopy f u s4 else s4
    if !(frame s5 u).admitted || (frame s5 u).shaped then s5
    else if (frame s5 u).class_ < 7 && f != admitFur s5 (frame s5 u) then releaseOverlap u f s5
    else
      let s6 := releaseFrame u s5
      if f = admitFur s5 (frame s5 u) then mirrorOut u s6 else s6

/-- A verdict is released: counted, and applied to the frame. -/
def giveVerdict (n v handle : Nat) (inl : Bool) (uid : Option Nat) (s : State) : State :=
  let s1 := bctr (13 + v) n (bctr 2 n s)
  match uid with
  | none => s1
  | some u => if tmem s1.frames u then reap u (verdictFrame n u v handle inl s1) else
      gleanVerdict (bedFur n) u v s1

/-- An entry of the release window stands in dispatch order (R226, R234; log 65). -/
def putRel (e : RelEnt) : List RelEnt → List RelEnt
  | [] => [e]
  | y :: r => if e.seq < y.seq then e :: y :: r else y :: putRel e r

/-! ## Dispatch (R221-R223) -/

/-- An activation starts on a Tine. -/
def startAct (n t : Nat) (q : QEnt) (inl : Bool) (md : Nat) (s : State) : State :=
  let e := (tget? (area (bed s n) q.area).progs q.prog).getD {}
  let a : Act := { uid := q.uid, handle := q.handle, prog := q.prog, ns := q.ns, area := q.area, seq := q.seq, inline_ := inl,
                   pc := if q.uid.isNone then e.timerEntry else e.entry, md := md, start := s.clk.edges }
  modBed n (fun b => useRecord q.handle { b with
    tines := tput b.tines t a
    release := putRel { seq := q.seq, inline_ := inl, uid := q.uid, handle := q.handle, since := s.clk.edges } b.release }) s

/-- Is an entry of the release window free (R218). -/
def windowFree (b : Bed) : Bool := decide ((b.release.filter (·.window)).length < 128)

/-- The lowest-numbered free Tine of a range. -/
def freeTine (b : Bed) (lo hi : Nat) : Option Nat := ((List.range (hi + 1 - lo)).map (· + lo)).find? (fun t => !tmem b.tines t)

/-- An inline frame: a Tine of 56-63 at once, or its default verdict at once, which no earlier verdict holds (R223). It starts only with a free entry
of the release window (log 64). -/
def dispatchInline (f n u k ar : Nat) (d : Decision) (e : ProgEnt) (ns : Nat) (s : State) : State :=
  let b := bed s n
  let resident := d.handle = 0 || !bit e.flags 2 || tmem b.recs d.handle
  match (if resident && windowFree b then freeTine b 56 63 else none) with
  | some t =>
    let s1 := modBed n (fun b => { b with seq := b.seq + 1 }) s
    setHold u f true (startAct n t { uid := some u, handle := d.handle, prog := k, ns := ns, area := ar, seq := b.seq + 1 } true d.md s1)
  | none => giveVerdict n e.default_ d.handle true (some u) (fireBed n 3 0x02 [] (bctr 6 n s))

/-- An alongside frame or a timer enters the dispatch queue; false where it is full. -/
def enqueueAct (n : Nat) (q : QEnt) (s : State) : Bool × State :=
  let b := bed s n
  if 512 ≤ b.queue.length then (false, s)
  else
    let q1 := { q with seq := b.seq + 1 }
    (true, wantRecord n q.handle (modBed n (fun b => { b with seq := b.seq + 1, queue := b.queue ++ [q1] }) s))

/-- Does a Bed's clock run (R35). -/
def bedRuns (s : State) (n : Nat) : Bool := bit s.slices.bedClocks n
def setBedClock (n : Nat) (v : Bool) (s : State) : State := { s with slices := { s.slices with bedClocks := setBit s.slices.bedClocks n v } }

/-- Does a Bed hold a program in inline mode, so that its clock never stops (R35). -/
def bedInline (b : Bed) : Bool := (area b b.active).loaded && (area b b.active).progs.any (fun e => bit e.2.flags 1)

/-- A decided frame is dispatched to its Bed in furrow f; inline frames hold their copy (R221-R223, R233). -/
def dispatchFrame (f u : Nat) (d : Decision) (s : State) : State :=
  let x := frame s u
  let n := 8 * f + bedIndex d.handle x.port
  let (k, mode) := effProgram s f d x.ns x.port
  let b := bed s n
  if k = 0 || mode = 3 || !supervised d || b.stopped then s
  else
    let ar := areaFor b x.ns
    match progIn b ar k with
    | none => noProgram n s
    | some e =>
      if d.handle = 0 && bit e.flags 2 then noProgram n s
      else
        let s1 := (if mode = 2 then setBedClock n true else id) (bctr 0 n s)
        let s2 := if f = x.lead then modFrame u (fun x => { x with prog := true }) s1 else s1
        if fetchBarred s2 n d.handle then fireBed n 3 0x01 [] (bctr 5 n s2)
        else if mode = 2 then dispatchInline f n u k ar d e x.ns s2
        else match enqueueAct n { uid := some u, handle := d.handle, prog := k, ns := x.ns, area := ar, seq := 0 } s2 with
          | (true, s3) => s3
          | (false, s3) => fireBed n 3 0x01 [] (bctr 5 n s3)

/-! ## ACTIVATION_START (R223) -/

/-- The deadlines of a Bed that are armed: those of its table, and those before TE of streams whose RESET is staged (R199, R258). -/
def armed (s : State) (n : Nat) : List (Nat × Nat) :=
  (bed s n).deadlines ++ (fur s (bedFur n)).tab.staging.filterMap (fun r => match r.what with
    | .reset h _ (some d) => if bedIndex h 0 = n % 8 && d < r.te then some (h, d) else none
    | _ => none)

/-- A deadline of a stream is armed no longer: it has fired. -/
def disarm (n h d : Nat) (s : State) : State :=
  let s1 := modBed n (fun b => if tget? b.deadlines h = some d then { b with deadlines := tdel b.deadlines h } else b) s
  modTab (bedFur n) (fun t => { t with staging := t.staging.map (fun r => match r.what with
    | .reset h1 old dl => if h1 = h && dl = some d then { r with what := .reset h1 old none } else r
    | _ => r) }) s1

/-- The first queue entry that may start: its record resident, no earlier entry of its stream before it. -/
def startable (b : Bed) : Option QEnt :=
  b.queue.find? (fun q => (q.handle = 0 || tmem b.recs q.handle) &&
    b.queue.all (fun y => !(y.handle == q.handle && q.handle != 0 && decide (y.seq < q.seq))))

/-- The records of the queue's activations are wanted until they are there (R225). -/
def wantQueued (n : Nat) (s : State) : State := (bed s n).queue.foldl (fun s q => wantRecord n q.handle s) s

/-- One start. A timer activation whose deadline has changed is cancelled (R236). -/
def activationStart (n : Nat) (s0 : State) : State :=
  let s := wantQueued n s0
  let b := bed s n
  match startable b with
  | none => s
  | some q =>
    let drop := modBed n (fun b => { b with queue := b.queue.filter (fun y => y.seq != q.seq) }) s
    if q.uid.isNone && !(armed s n).contains (q.handle, q.ns) then drop
    else if !windowFree b then s
    else
      match freeTine b 0 (if pinnedCount b = 0 then 63 else 55) with
      | none => s
      | some t =>
        match q.uid with
        | some u => startAct n t q false (match decOf (frame s u) (bedFur n) with | some d => d.md | none => 0) drop
        | none =>
          startAct n t q false (Config.timerMetadata q.handle q.ns).toNat (disarm n q.handle q.ns drop)
def execActivationStart (bed : Nat) (s : State) : Host.Outcome State Fault Refusal :=
  if s.clk.coreStopped then .next s else
  .next (if bedRuns s bed then activationStart bed s else s)

/-! ## Release of verdicts (R232-R234) -/

/-- VERDICT_RELEASE: the earliest-dispatched activation of one order, once its verdict is there. One that still waits in the dispatch queue, where no
inline frame waits, holds back those dispatched after it (log 65). -/
def verdictRelease (n : Nat) (inl : Bool) (s : State) : State :=
  match (bed s n).release.find? (fun e => e.inline_ == inl) with
  | none => s
  | some e =>
    match e.verdict with
    | none => s
    | some v =>
      if !inl && (bed s n).queue.any (fun q => decide (q.seq < e.seq)) then s else
      giveVerdict n v e.handle inl e.uid (modBed n (fun b => { b with release := b.release.filter (fun y => y.seq != e.seq) }) s)
def execVerdictRelease (bed : Nat) (inl : Bool) (s : State) : Host.Outcome State Fault Refusal :=
  if s.clk.coreStopped then .next s else
  .next (verdictRelease bed inl s)

/-! ## Lockup, timers (R235, R236) -/

/-- BED_LOCKUP: stuck tells that a stopped Tine has not come back to idle; else the oldest release entry must be 100 us old. -/
def execBedLockup (bed_ : Nat) (stuck : Bool) (s0 : State) : Host.Outcome State Fault Refusal :=
  if s0.clk.coreStopped then .next s0 else
  let lock := fun (s : State) => raiseAlarm (bedFur bed_) 1 (fireFur (bedFur bed_) (bedBase bed_ + 6) 0x02 [] (modBed bed_ (fun b => { b with locked := true }) s))
  if stuck then .next (lock s0)
  else match (bed s0 bed_).release.filter (·.window) with
    | [] => .next s0
    | e :: r => if (bed s0 bed_).tines.isEmpty && (bed s0 bed_).queue.isEmpty then .next s0
      else .next (lock (reachEdge (r.foldl (fun m y => min m y.since) e.since + 100 * usE) s0))

/-- The furrow's replica reaches a time in nanoseconds. -/
def reachRep (f ns : Nat) (s : State) : State :=
  let goal := (((ns * tbuPerNs : Nat) : Int) - (fur s f).repOff).toNat
  reachNs (ceilDiv goal tbuPerNs) s

/-- Is a deadline's activation queued, or waiting to be offered again. -/
def timerQueued (b : Bed) (h d : Nat) : Bool :=
  b.queue.any (fun q => q.uid.isNone && q.handle == h && q.ns == d) || b.retry.any (fun r => r.1 == h && r.2.1 == d)

/-- The earliest deadline that has not fired. -/
def nextDeadline (s : State) (n : Nat) : Option (Nat × Nat) :=
  (armed s n).foldl (fun (m : Option (Nat × Nat)) e =>
    if timerQueued (bed s n) e.1 e.2 then m
    else match m with | none => some e | some y => if e.2 < y.2 then some e else some y) none

/-- A timer activation is queued, offered again 10 us later, or has no program to run. -/
def queueTimer (n h d : Nat) (s0 : State) : State :=
  let s := modBed n (fun b => { b with retry := b.retry.filter (fun r => !(r.1 == h && r.2.1 == d)) }) s0
  let b := bed s n
  let k := hotProg (hotAt s (bedFur n) h d)
  let ar := areaFor b d
  let gone := disarm n h d s
  match progIn b ar k with
  | none => if k = 0 then gone else noProgram n gone
  | some e =>
    if !bit e.flags 0 then gone
    else if fetchBarred s n h then fireBed n 3 0x01 [] (bctr 5 n gone)
    else
      match enqueueAct n { uid := none, handle := h, prog := k, ns := d, area := ar, seq := 0 } s with
      | (true, s2) => bctr 1 n s2
      | (false, s2) => modBed n (fun b => { b with retry := b.retry ++ [(h, d, s2.clk.edges + 10 * usE)] }) s2

/-- DEADLINE_FIRE: the furrow's time reaches the earliest deadline + 50 us. -/
def execDeadlineFire (bed_ : Nat) (s : State) : Host.Outcome State Fault Refusal :=
  if s.clk.coreStopped then .next s else
  match nextDeadline s bed_ with
  | none => .next s
  | some (h, d) => if (bed s bed_).stopped then .next s else .next (queueTimer bed_ h d (reachRep (bedFur bed_) (d + 50000) s))

/-- TIMER_QUEUE_RETRY: the oldest timer activation that found the queue full. One whose deadline was re-armed or disarmed meanwhile is cancelled
(R236). -/
def execTimerQueueRetry (bed_ : Nat) (s0 : State) : Host.Outcome State Fault Refusal :=
  if s0.clk.coreStopped then .next s0 else
  match (bed s0 bed_).retry with
  | [] => .next s0
  | (h, d, e) :: r =>
    let s := reachEdge e s0
    .next (if (armed s bed_).contains (h, d) then queueTimer bed_ h d s else modBed bed_ (fun b => { b with retry := r }) s)

/-! ## Image activation (R249, R252, R261) -/

/-- Every record of a Bed zeroed, the cached ones and those in the deep store, and every deadline disarmed (R249). -/
def wipeBed (n : Nat) (s : State) : State :=
  modFur (bedFur n) (fun x => { x with deepRecs := x.deepRecs.filter (fun e => bedIndex e.1 0 != n % 8) })
    (modBed n (fun b => { b with recs := b.recs.filterMap (fun e => if e.2.pinned then some (e.1, { pinned := true }) else none), deadlines := [], retry := [] }) s)

/-- A queued activation that never starts has its program's default verdict, which is released in its turn (R234). -/
def giveDefault (n : Nat) (q : QEnt) (s : State) : State :=
  modBed n (fun b =>
    let v := ((tget? (area b q.area).progs q.prog).getD {}).default_
    let e : RelEnt := { seq := q.seq, inline_ := false, window := false, uid := q.uid, handle := q.handle, since := s.clk.edges, verdict := some v }
    { b with release := putRel e b.release }) s

/-- IMAGE_ACTIVATION_COMPLETE: T + 100 us. The activations stamped before T that still wait take their default verdict; one whose deadline has changed
is cancelled (R236). -/
def imageDone (n : Nat) (s : State) : State :=
  match (bed s n).pendAct with
  | none => s
  | some p =>
    let b := bed s n
    let old := b.queue.filter (fun q => decide (q.ns < p.t))
    let s1 := modBed n (fun b => { b with queue := b.queue.filter (fun q => !decide (q.ns < p.t)) }) s
    let s2 := old.foldl (fun s1 q =>
      if q.uid.isSome then giveDefault n q s1
      else if (armed s n).contains (q.handle, q.ns) then disarm n q.handle q.ns (giveDefault n q s1) else s1) s1
    let differ := (area b 0).layout != (area b 1).layout && (area b b.active).loaded
    let s3 := modBed n (fun b => { b with active := 1 - b.active, pendAct := none, noProgArmed := true }) s2
    fireFur (bedFur n) (bedBase n + 5) 0x02 [] (if differ then wipeBed n s3 else s3)
def execImageActivationComplete (bed_ : Nat) (s : State) : Host.Outcome State Fault Refusal :=
  if s.clk.coreStopped then .next s else
  match (bed s bed_).pendAct with
  | none => .next s
  | some p =>
    let s1 := reachNs (p.t + 100000) s
    -- Every Bed that the same command named completes with it, and one COMPLETION follows.
    let s2 := (List.range 16).foldl (fun s n => match (bed s n).pendAct with
      | some q => if q.t = p.t && q.ticket = p.ticket then imageDone n s else s
      | none => s) s1
    .next (match p.ticket with
      | none => s2
      | some t => complete t stOk (toLE 8 (t64OfNs p.t) ++ toLE 1 (1 - (bed s bed_).active) ++ zeros 3) s2)

/-! ## Uncorrectable words (R45) -/

/-- Stream hot state of a handle: its queue state, ACTIVE, record and deadline are reset; its settings stand, so that its supervision restarts. -/
def hotFault (f h : Nat) (s0 : State) : State :=
  let s := raiseAlarm f 0 (fireFur f (tabBase f + 7) 0 [] (memUnc (4 + f) s0))
  let k := 8 * f + bedIndex h 0
  let s1 := modFur f (fun x => { x with hot := tmod 0 x.hot h (fun w => setBit w 1 false), deepRecs := tdel x.deepRecs h }) (modGran (fun g => { g with handleCells := tset 0 g.handleCells (2 * h + f) 0 }) s)
  modBed k (fun b => { b with deadlines := tdel b.deadlines h, recs := match tget? b.recs h with | some r => tput b.recs h { r with words := [] } | none => b.recs }) s1

/-- A Bed stops dispatch; what was dispatched to it takes its default verdict (R45). -/
def bedFault (n : Nat) (s0 : State) : State :=
  let f := bedFur n
  let s := raiseAlarm f 0 (fireFur f (bedBase n + 6) 0x01 [] s0)
  let b := bed s n
  let s1 := modBed n (fun b =>
    let r := b.release.map (fun e =>
      if e.verdict.isSome then e
      else match b.tines.find? (fun t => t.2.seq == e.seq) with
        | some t => { e with verdict := some ((tget? (area b t.2.area).progs t.2.prog).getD {}).default_ }
        | none => { e with verdict := some 0 })
    { b with stopped := true, queue := [], tines := [], lock := [], retry := [], release := r }) s
  b.queue.foldl (fun s q => giveDefault n q s) s1

/-! ## STREAM_SUPERVISE (R258) -/

def specStreamSupervise : CmdSpec :=
  { opcode := 0x0604, priv := 1, mask := 0x7, lenOk := lenForms 0 [(0, len 16), (1, len 12), (2, len 40), (3, len 8)] }

/-- The Beds of a handle in both furrows. -/
def bedsOf (h : Nat) : List Nat := [bedIndex h 0, 8 + bedIndex h 0]

/-- How many streams of a Bed have supervision. -/
def supervisedOn (s : State) (f k : Nat) : Nat := ((fur s f).hot.filter (fun e => hotProg e.2 != 0 && bedIndex e.1 0 == k)).length

/-- The records of a Bed that are pinned, or being fetched to be pinned. -/
def pinsOf (s : State) (n : Nat) : Nat :=
  pinnedCount (bed s n) + ((bed s n).fetching.filter (fun h => hotInline (tget 0 (fur s (bedFur n)).hot h) && !tmem (bed s n).recs h)).length

/-- The record is pinned or unpinned. One that is not resident is fetched, and is pinned once it is there (R225). -/
def pinRecord (n h : Nat) (on : Bool) (s : State) : State :=
  if on then
    if tmem (bed s n).recs h then modBed n (fun b => { b with recs := tmod {} b.recs h (fun r => { r with pinned := true }) }) s
    else if streamRegion s then wantRecord n h s
    else install n h [] true s
  else modBed n (fun b => if tmem b.recs h then { b with recs := tput b.recs h { (tget {} b.recs h) with pinned := false } } else b) s

/-- A parameter set is legal (R241). -/
def paramOk (b : List Byte) (o : Nat) : List (Bool × Nat) :=
  [(le b o 2 < 128, o), (1 ≤ le b (o + 4) 2 && le b (o + 4) 2 ≤ 4800, o + 4), (le b (o + 6) 2 ≤ 4094 || le b (o + 6) 2 == 0xFFFF, o + 6),
   (byteAt b (o + 20) ≤ 8, o + 20), (reservedAt b (o + 21) 11, o + 21)]

/-- RESET of a stream in one furrow (R199, R258): its record is zeroed and its deadline disarmed. Frames and deadlines before TE see both as they were,
in the staging record. -/
def resetStream (f h te : Nat) (s : State) : State :=
  let n := 8 * f + bedIndex h 0
  let old := match tget? (bed s n).recs h with
    | some r => r.words
    | none => if streamRegion s then deepRec s f h else []
  let s1 := modFur f (fun x => { x with
    deepRecs := tdel x.deepRecs h
    tab := { x.tab with staging := x.tab.staging ++ [{ what := .reset h old ((tget? (bed s n).deadlines h).filter (fun d => decide (d < te))), te := te }] } }) s
  modBed n (fun b => { b with
    recs := if tmem b.recs h then tmod {} b.recs h (fun r => { r with words := [] }) else b.recs
    deadlines := tdel b.deadlines h }) s1

def bodyStreamSupervise (p : Packet) (s0 : State) : CmdResult :=
  let b := p.params
  let h := le b 4 4
  let okH := decide (1 ≤ h && h < 2 ^ 20)
  match byteAt b 0 with
  | 0 =>
    let set := le b 10 2
    let inl := bit (byteAt b 9) 0
    checked [(reservedAt b 1 3, 1), (okH, 4), (byteAt b 8 < 128, 8), (byteAt b 9 < 2, 9), (set ≤ 1023, 10), (reservedAt b 12 4, 12)] <|
    if !(tget {} (fur s0 s0.hl.lead).tab.bind h).bound then .refuse stNotFound 0
    else
      let k := bedIndex h 0
      let l := s0.hl.lead
      let was := tget 0 (fur s0 l).hot h
      if (inl && !hotInline was && 1024 ≤ pinsOf s0 (8 * l + k)) ||
          (!streamRegion s0 && byteAt b 8 != 0 && hotProg was = 0 && 4096 ≤ supervisedOn s0 l k) then .refuse stExhausted 0
      else unlessUpset p (hotFault l h) s0 <|
        let s := stageWait 128 [.hot h 0] (purgeStaging s0)
        let te := stageTe s
        let s1 := eachFur (fun x =>
          let old := tget 0 x.hot h
          let new := byteAt b 8 * 2 ^ 13 + b2n inl * 2 ^ 12 + set * 4 + b2n (hotActive old) * 2
          { x with hot := tset 0 x.hot h new, tab := { x.tab with staging := x.tab.staging ++ [{ what := .hot h old, te := te }] } }) s
        let s2 := [0, 1].foldl (fun s f => if reaches s f then pinRecord (8 * f + k) h inl s else s) s1
        .ok (toLE 8 (t64OfNs te)) s2
  | 1 =>
    let f := byteAt b 8
    checked [(reservedAt b 1 3, 1), (okH, 4), (f < 2, 8), (reservedAt b 9 3, 9)] <|
    onFurrow s0 f <|
    let n := 8 * f + bedIndex h 0
    let bd := bed s0 n
    let hot := tget 0 (fur s0 f).hot h
    let r := tget? bd.recs h
    let res := match r with | none => 0 | some r => if r.pinned then 2 else 1
    let along := hotInline hot && !(match progIn bd bd.active (hotProg hot) with | some e => bit e.flags 1 | none => true)
    let dl := match tget? bd.deadlines h with | some d => t64OfNs d | none => 0
    let body := match r with | some r => recBytesOf r | none => if streamRegion s0 then recBytesOf { words := deepRec s0 f h } else zeros 32
    .ok (toLE 4 (hot * 4096) ++ toLE 1 res ++ toLE 1 n ++ toLE 1 (b2n along) ++ zeros 1 ++ toLE 8 dl ++ body) s0
  | 2 =>
    let i := le b 4 2
    checked (([(reservedAt b 1 3, 1), (i ≤ 1023, 4), (reservedAt b 6 2, 6)] : List (Bool × Nat)) ++ paramOk b 8) <|
    unlessUpset p (fun s => bedFault (8 * s.hl.lead) (memUnc (8 + 8 * s.hl.lead) s)) s0 <|
    let s := stageWait 128 [.param i []] (purgeStaging s0)
    let te := stageTe s
    let new := slice b 8 32
    .ok (toLE 8 (t64OfNs te)) (eachFur (fun x =>
      let old := tget paramDefault ((tget? x.beds 0).getD {}).params i
      { x with
        beds := (List.range 8).foldl (fun t k => tmod {} t k (fun bd => { bd with params := tset paramDefault bd.params i new })) x.beds
        tab := { x.tab with staging := x.tab.staging ++ [{ what := .param i old, te := te }] } }) s)
  | 3 =>
    checked [(reservedAt b 1 3, 1), (okH, 4)] <|
    unlessUpset p (hotFault s0.hl.lead h) s0 <|
    let s := stageWait 128 [.reset h [] none] (purgeStaging s0)
    let te := stageTe s
    .ok (toLE 8 (t64OfNs te)) ([0, 1].foldl (fun s f => if reaches s f then resetStream f h te s else s) s)
  | _ => .badParam 0
def execStreamSupervise (p : Packet) (s : State) : Host.Outcome State Fault Refusal := serveCmd specStreamSupervise bodyStreamSupervise p s

/-! ## KEY_SLOT_WRITE (R259) -/

def specKeySlotWrite : CmdSpec := { opcode := 0x0605, priv := 2, mask := 0x7, lenOk := lenForms 2 [(0, len 68), (1, len 68)], upsetAct := some tabUpset }

def keyLenOk (alg n : Nat) : Bool :=
  if 1 ≤ alg && alg ≤ 3 then decide (16 ≤ n && n ≤ 32) else if alg = 4 || alg = 5 then n == 16 else if alg = 6 || alg = 7 then n == 32 else true

/-- R259. Algorithm 0x00 is an empty slot (R238). -/
def bodyKeySlotWrite (p : Packet) (s0 : State) : CmdResult :=
  let b := p.params
  let n := le b 0 2
  let op := byteAt b 2
  let alg := byteAt b 40
  let w := op != 0
  let nb := le b 44 8
  let na := le b 52 8
  checked [(op < 2, 2), (n < 4096, 0), (reservedAt b 3 1, 3), (w || alg ≤ 7, 40), (w || keyLenOk alg (byteAt b 41), 41), (w || reservedAt b 42 2, 42),
    (w || (t64Ok nb && decide (nsOfT64 nb < nsOfT64 na)), 44), (w || t64Ok na, 52), (w || reservedAt b 60 8, 60)] <|
  let s := stageWait 128 [.slot n {}] (purgeStaging s0)
  let te := stageTe s
  let new : KeySlot := if op = 1 then {} else
    { valid := alg != 0, material := slice b 4 32, keyId := le b 36 4, alg := alg, len := byteAt b 41, notBefore := nsOfT64 nb, notAfter := nsOfT64 na }
  .ok (toLE 8 (t64OfNs te)) (stageAll (fun t => [.slot n (tget {} t.keys n)]) te (fun t => { t with keys := tset {} t.keys n new }) s)
def execKeySlotWrite (p : Packet) (s : State) : Host.Outcome State Fault Refusal := serveCmd specKeySlotWrite bodyKeySlotWrite p s

/-! ## TINE_IMAGE_LOAD (R247-R251, R260) -/

def specTineImageLoad : CmdSpec :=
  { opcode := 0x0701, priv := 2, mask := 0x5, lenOk := fun b =>
      if b.length < 4 then false
      else if byteAt b 0 = 1 then decide (16 ≤ b.length && b.length ≤ 16 + 4064) else if byteAt b 0 ≤ 3 then b.length == 16 else true }

/-- The Beds of a mask in every furrow that supervision commands write: powered, and not fenced (R257, R260). -/
def maskBeds (s : State) (m : Nat) : List Nat := ([0, 1].filter (reaches s)).flatMap (fun f => (bitList 8 m).map (fun k => 8 * f + k))

/-- One program table entry, and the offset of its first illegal byte. -/
def readProg (b : List Byte) (o : Nat) : ProgEnt :=
  { flags := byteAt b (o + 1), entry := le b (o + 2) 2, timerEntry := le b (o + 4) 2, budget := le b (o + 6) 2, default_ := byteAt b (o + 8) }
def progBad (b : List Byte) (code o : Nat) : Option Nat :=
  let e := readProg b o
  firstBad [(1 ≤ byteAt b o && byteAt b o ≤ 127, o), (e.flags < 8, o + 1), (e.entry % 4 == 0 && decide (e.entry < code), o + 2),
    (!bit e.flags 0 || (e.timerEntry % 4 == 0 && decide (e.timerEntry < code)), o + 4), (16 ≤ e.budget && e.budget ≤ 4096, o + 6), (e.default_ ≤ 4, o + 8),
    (reservedAt b (o + 9) 7, o + 9)]

/-- The first offset at which an image breaks R248 and R250; none if it is sound. -/
def imageBad (b : List Byte) : Option Nat :=
  let code := le b 12 2
  let consts := le b 14 2
  let n := byteAt b 16
  match firstBad [(b.take 4 == [0x54, 0x49, 0x53, 0x32], 0), (byteAt b 4 == 2, 4), (byteAt b 5 ≤ 1, 5), (code % 4 == 0 && 4 ≤ code && code ≤ 2048, 12),
      (consts % 4 == 0 && consts ≤ 14336, 14), (1 ≤ n && n ≤ 127, 16), (reservedAt b 17 47, 17),
      (b.length == 64 + 16 * n + code + consts + 128, 12)] with
  | some o => some o
  | none =>
    let ents := (List.range n).map (fun i => 64 + 16 * i)
    match ents.findSome? (progBad b code) with
    | some o => some o
    | none => ents.find? (fun o => ents.any (fun q => decide (q < o) && byteAt b q == byteAt b o))

/-- Does the trailer authenticate the image (R251). -/
def imageAuth (s : State) (b : List Byte) : Bool :=
  let m := b.take (b.length - 128)
  let t := b.drop (b.length - 128)
  ecdsaOk (beNat (slice t 0 32)) (beNat (slice t 32 32)) (sha256 m) (beNat (slice t 64 32)) (beNat (slice t 96 32)) && sha256 (t.take 64) == optFwKey s

def readImage (b : List Byte) : Image :=
  let n := byteAt b 16
  let code := le b 12 2
  { loaded := true, version := le b 8 4, layout := le b 6 2
    code := slice b (64 + 16 * n) code
    consts := slice b (64 + 16 * n + code) (le b 14 2)
    progs := (List.range n).foldl (fun t i => tput t (byteAt b (64 + 16 * i)) (readProg b (64 + 16 * i))) [] }

def setArea (a : Nat) (i : Image) (b : Bed) : Bed := if a = 0 then { b with area0 := i } else { b with area1 := i }

def bodyTineImageLoad (p : Packet) (s : State) : CmdResult :=
  let b := p.params
  let m := byteAt b 1
  let off := le b 4 4
  let total := le b 8 4
  let mine := match s.imgLoad with | some l => l.session == p.session && l.ticket.isNone | none => false
  match byteAt b 0 with
  | 0 =>
    checked [(m != 0, 1), (reservedAt b 2 2, 2), (total ≤ 18608, 8), (reservedAt b 12 4, 12)] <|
    if (s.imgLoad.isSome && !mine) || (maskBeds s m).any (fun n => (bed s n).pendAct.isSome) then .refuse stBusy 0
    else .ok [] ((maskBeds s m).foldl (fun s n => modBed n (fun b => setArea (1 - b.active) {} b) s)
      { s with imgLoad := some { session := p.session, mask := m, total := total, bytes := zeros total } })
  | 1 =>
    match s.imgLoad with
    | some l =>
      if !mine then checked [(reservedAt b 2 2, 2), (reservedAt b 12 4, 12)] .conflict
      else
        checked [(reservedAt b 2 2, 2), (off + (b.length - 16) ≤ l.total, 4), (reservedAt b 12 4, 12)] <|
        .ok [] { s with imgLoad := some { l with bytes := overlay l.bytes off (b.drop 16) } }
    | none => checked [(reservedAt b 2 2, 2), (reservedAt b 12 4, 12)] .conflict
  | 2 =>
    checked [(reservedAt b 2 2, 2), (reservedAt b 12 4, 12)] <|
    match s.imgLoad with
    | some l => if mine then .accepted { s with imgLoad := some { l with ticket := some (ticketFor specTineImageLoad p) } } else .conflict
    | none => .conflict
  | 3 =>
    checked [(reservedAt b 2 2, 2), (reservedAt b 12 4, 12)] <|
    .ok [] (if mine then { s with imgLoad := none } else s)
  | _ => .badParam 0
def execTineImageLoad (p : Packet) (s : State) : Host.Outcome State Fault Refusal := serveCmd specTineImageLoad bodyTineImageLoad p s

/-- A COMPLETION with a status and DETAIL. -/
def completeDetail (t : Ticket) (status detail : Nat) (params : List Byte) (s : State) : State :=
  if sessionOpen s t.session t.src then
    respond t 0xC0 status detail params
      (modSession (t.session % 4)
        (fun x => { x with outstanding := x.outstanding.filter (fun o => !(o.tag == t.tag && o.opcode == t.opcode)) }) s)
  else s

/-- TINE_IMAGE_VERIFIED: the END of a load is answered; a good image stands in the inactive area of each named Bed. -/
def execTineImageVerified (s : State) : Host.Outcome State Fault Refusal :=
  if s.clk.coreStopped then .next s else
  match s.imgLoad with
  | none => .next s
  | some l =>
    match l.ticket with
    | none => .next s
    | some t =>
      let s1 := { s with imgLoad := none }
      match imageBad l.bytes with
      | some o => .next (completeDetail t stBadParam o [] s1)
      | none =>
        if !imageAuth s l.bytes then .next (completeDetail t stAuthFail 0 [] s1)
        else
          let i := readImage l.bytes
          let s2 := (maskBeds s l.mask).foldl (fun s n =>
            fireFur (bedFur n) (bedBase n + 5) 0x01 [] (modBed n (fun b => setArea (1 - b.active) i b) s)) s1
          .next (complete t stOk (toLE 4 i.version) s2)

/-! ## TINE_IMAGE_ACTIVATE, TINE_SAMPLE_SET, BED_STATUS (R261-R263) -/

def specTineImageActivate : CmdSpec := { opcode := 0x0702, priv := 2, mask := 0x5, lenOk := len 16 }
def bodyTineImageActivate (p : Packet) (s : State) : CmdResult :=
  let b := p.params
  let m := byteAt b 0
  let t0 := le b 8 8
  let t := if t0 = 0 then nextWholeMs s else nsOfT64 t0
  checked [(m != 0, 0), (reservedAt b 1 7, 1), (t0 == 0 || (t64Ok t0 && inMinute s t), 8)] <|
  let bs := maskBeds s m
  if bs.any (fun n => (bed s n).pendAct.isSome) then .refuse stBusy 0
  else if bs.any (fun n =>
      let x := bed s n
      !(area x (1 - x.active)).loaded || ((area x x.active).loaded && (area x 0).layout != (area x 1).layout && s.dev.state != 3)) then .conflict
  else
    let act : ImgAct := { t := t, since := s.clk.edges, ticket := some (ticketFor specTineImageActivate p) }
    .accepted (bs.foldl (fun s n => modBed n (fun x => { x with pendAct := some act }) s) s)
def execTineImageActivate (p : Packet) (s : State) : Host.Outcome State Fault Refusal := serveCmd specTineImageActivate bodyTineImageActivate p s

def specTineSampleSet : CmdSpec := { opcode := 0x0703, priv := 1, mask := 0x7, lenOk := len 16 }
def bodyTineSampleSet (p : Packet) (s : State) : CmdResult :=
  let b := p.params
  let m := byteAt b 0
  let n := le b 4 4
  checked [(1 ≤ m && m ≤ 3, 0), (byteAt b 1 ≤ 2, 1), (byteAt b 2 ≤ 127, 2), (reservedAt b 3 1, 3), (1 ≤ n && n ≤ 16777216, 4), (reservedAt b 8 8, 8)] <|
  let new : Sampling := { mode := byteAt b 1, filter := byteAt b 2, n := n }
  .ok [] ((bitList 2 m).foldl (fun s f => if reaches s f then modFur f (fun x => { x with samp := new }) s else s) s)
def execTineSampleSet (p : Packet) (s : State) : Host.Outcome State Fault Refusal := serveCmd specTineSampleSet bodyTineSampleSet p s

def specBedStatus : CmdSpec := { opcode := 0x0704, priv := 0, mask := 0xF, lenOk := len 4 }
def bodyBedStatus (p : Packet) (s : State) : CmdResult :=
  let b := p.params
  let n := byteAt b 0
  checked [(n < 16, 0), (reservedAt b 1 3, 1)] <|
  if !powered s (bedFur n) then .ok (toLE 1 3 ++ zeros 91) s
  else
    let x := bed s n
    let st := if x.stopped then 2 else if bit s.slices.bedClocks n then 1 else 0
    .ok (toLE 1 st ++ toLE 1 x.active ++ toLE 1 (b2n x.area0.loaded + 2 * b2n x.area1.loaded) ++ zeros 1 ++ toLE 4 (area x x.active).version ++
      toLE 2 x.tines.length ++ toLE 2 x.queue.length ++ toLE 2 x.recs.length ++ toLE 2 (pinnedCount x) ++ toLE 2 x.deadlines.length ++ zeros 2 ++
      (List.range 18).flatMap (fun k => toLE 4 (tget 0 x.ctr k))) s
def execBedStatus (p : Packet) (s : State) : Host.Outcome State Fault Refusal := serveCmd specBedStatus bodyBedStatus p s

end Sys2Proof.Machine
end

