-- ==== Sys2Proof/Machine/Decide.lean ====
section
/-! DEFINITION. A furrow's decision reaches its digest, its Beds and the Granary; cases found at frame end (spec/05 R144-R147, R164;
spec/11 R372-R374, R380). -/

namespace Sys2Proof.Machine

/-! ## Digests (R372-R374) -/

/-- The first nanosecond of the epoch that a time lies in, and of the next one; the last epoch of a second is short. -/
def epochStart (ns : Nat) : Nat := ns - ns % 1000000000 % 1024
def epochNext (ns : Nat) : Nat := min (epochStart ns + 1024) ((ns / 1000000000 + 1) * 1000000000)
/-- The epoch number. -/
def epochNo (ns : Nat) : Nat := ns / 1000000000 % 4096 * 2 ^ 20 + ns % 1000000000 / 1024

/-- The 24-byte record of a decision (R373). -/
def digestRecord (x : Frame) (d : Decision) : List Byte :=
  toLE 8 (t64OfNs x.ns) ++ toLE 1 (x.port + 64 * d.bank) ++ toLE 1 x.qns ++ toLE 2 x.tag ++ toLE 4 d.handle ++
  toLE 8 (if d.action = 0 && d.dropped = 0 then d.digestEgress else 0)

def hlCtr (k : Nat) (s : State) : State := { s with hl := { s.hl with ctr := cinc s.hl.ctr k 1 } }
def hlCtrN (k n : Nat) (s : State) : State := { s with hl := { s.hl with ctr := cinc s.hl.ctr k n } }

/-- A decision of early class TC7 enters its epoch's digest, or LATE_DECISIONS. One whose header path failed enters none (R144). -/
def digestAdd (f : Nat) (x : Frame) (d : Decision) (s : State) : State :=
  if x.early != 7 || d.dropped = 5 then s
  else if epochStart x.ns < (fur s f).closedTo then hlCtr 8 s
  else
    let k := epochStart x.ns
    modFur f (fun y =>
      let (n, m) := tget (0, 0) y.openDigests k
      { y with openDigests := tput y.openDigests k (n + 1, wrap32 (m + crc32 (digestRecord x d))) }) s

/-! ## HARROW_DECISION -/

/-- What a decision does to the frame's copy where its furrow does not admit the frame (R54, R164, R288, R380). -/
def settleCopy (f u : Nat) (d : Decision) (s : State) : State :=
  let x := frame s u
  if x.early = 7 then
    let s1 := modCopy u f (fun c => { c with transfer := c.transfer && !(d.class_ < 7), decidedAt := s.clk.edges }) s
    if f = admitFur s1 x then s1
    else if d.dropped != 0 || d.class_ < 7 then dropLate u f s1
    else releaseTwin u f s1
  else if f != x.lead then releaseOverlap u f s
  else s

/-- Is a decided frame dispatched by this furrow: TC7 in both, others by the lead's, overlap frames by both (R221, R380). -/
def dispatches (f : Nat) (x : Frame) (d : Decision) : Bool := d.class_ == 7 || f == x.lead || x.early != 7

/-- A re-entered host frame takes the entries of its decision and frees its RECIRC entry (R309). -/
def reenter (f u : Nat) (d : Decision) (s : State) : State :=
  let s1 := modFur f (fun y => { y with recirc := y.recirc.filterMap (fun e =>
    let l := e.2.filter (· != u)
    if l.isEmpty then none else some (e.1, l)) }) s
  let h := onlyHalf (frame s1 u)
  if d.dropped != 0 then dropLate u h s1
  else
    let k := min 6 d.class_
    let s2 := releaseCopy u h f d.egress (assignSeqs u d.handle d.egress (modFrame u (fun x => { x with class_ := k }) s1))
    let s3 := if keeps s2 u h then mirrorFrame f u h k d.egress d.mirror s2 else s2
    tryReturn u h (modCopy u h (fun c => { c with fanout := c.fanout - 1 }) s3)

/-- Does a MAC frame of a re-entered frame's slice wait at the header input of furrow f: it has come to its decision point, and its decision is due
(R309). -/
def headerBusy (s : State) (f : Nat) (x : Frame) : Bool :=
  x.kind != 0 && s.frames.any (fun e =>
    e.2.kind == 0 && e.2.port / 16 == x.port / 16 && bit e.2.due f && decide (decisionEdge s f e.2 ≤ s.clk.edges))

/-! ## Frame-end checks (R147) -/

/-- Has the head of a frame left the Granary (R312). -/
def headLeft (x : Frame) : Bool := x.copyA.any (·.left != 0) || x.copyB.any (·.left != 0)

/-- A late COPY adds one host entry to a released copy (R147, R163): the head is still in. A spilled frame's record holds one egress, so that it has
none to add (log 61). -/
def hostLate (u h f : Nat) (s : State) : State :=
  let x := frame s u
  let inp := if x.kind != 0 then 64 else x.port
  if x.spilled then s
  else if 4096 ≤ hostEntries s f then fireFurMs f (xBase f + 2) 0 [] (xctr 15 1 f s)
  else if !laneRoom s f x.class_ 1 then laneFullDrop u s
  else
    let key := laneKey inp 64 x.class_
    offerCopy u h f (modCopy u h (fun c => { c with fanout := c.fanout + 1, earlyRelease := c.earlyRelease || !c.complete }) (setLane f key (laneOf s f key ++ [{ uid := u, half := h }]) s))

/-- The exception action of a late case, with the head still in: counted as at resolve, applied to the whole frame by its admitting furrow. -/
def lateAction (f u c : Nat) (d : Decision) (s : State) : State :=
  let x := frame s u
  let act := caseAction (bankOf s f x.bank).policy c d.stageClass
  let s0 := match caseKind c with | 0 => hctr 3 f s | 1 => hctr 4 f s | 2 => s | _ => hctr 5 f s
  let s1 := if act = 2 then hctr 2 f s0 else s0
  let s2 := if act = 0 then s1 else fireFurMs f (hBase f) 0 (toLE 1 c ++ toLE 1 x.port) s1
  let h := relHalf s2 x
  if act = 0 then s2
  else if f != admitFur s x then (if x.early = 7 && act != 3 then dropLate u f s2 else s2)
  else if act = 1 then
    dropLate u 1 (dropLate u 0 (modFrame u (fun x => setDec f { d with dropped := 2, egress := 0, host := false } x) s2))
  else
    let eg := if act = 2 then hostBit else if d.dropped != 0 then hostBit else if d.host then d.egress else d.egress + hostBit
    let s3 := modFrame u (fun x => setDec f { d with dropped := 0, egress := eg, host := true, hostReason := act, caseCode := c } x) s2
    match copyOf x h with
    | none => s3
    | some y =>
      if !x.admitted || x.shaped || !y.released || y.dropped then s3
      else if act = 2 then
        releaseFrame u (modCopy u h (fun c => { c with released := false, fanout := 0 }) (dropEntries u h 1 false (dropEntries u h 0 false s3)))
      else if d.host || (x.class_ = 7 && f != s.hl.lead) then s3
      else hostLate u h (if x.class_ = 7 then f else laneFur s3 x) s3

/-- The checks that complete at frame end, for a whole frame that furrow f has decided. -/
def frameEndCheck (f u : Nat) (s : State) : State :=
  let x := frame s u
  match decOf x f with
  | none => s
  | some d =>
    match lateCase s f x d with
    | none => s
    | some c => reap u (if x.late || headLeft x then
        cutBoth u 9 x.bytes.length (modFrame u (fun x => { x with late := true }) (hctr 14 f s))
      else lateAction f u c d s)

/-! ## HARROW_DECISION and HARROW_FRAME_END (R146, R147) -/

/-- Furrow f's Harrow delivers a frame's decision; frame-end checks that came first follow it. upset as for harrowUpset. -/
def harrowDecision (f u upset : Nat) (s0 : State) : State :=
  let x := frame s0 u
  if !tmem s0.frames u || !bit x.due f || !decides s0 f || headerBusy s0 f x then s0
  else
    let s := reachEdge (decisionEdge s0 f x) s0
    match harrowDecide f x upset s with
    | (none, s1) => s1
    | (some d, s1) =>
      let s2 := digestAdd f x d (modFrame u (fun x => setDec f d { x with due := setBit x.due f false }) s1)
      let s4 := if x.kind != 0 then reap u (reenter f u d s2)
        else reap u (settleCopy f u d (if dispatches f x d then dispatchFrame f u d s2 else s2))
      if bit x.endSeen f then frameEndCheck f u s4 else s4

def execHarrowDecision (f : Furrow) (uid upset : Nat) (s : State) : Host.Outcome State Fault Refusal :=
  if s.clk.coreStopped then .next s else
  .next (harrowDecision (furNo f) uid upset s)

/-- HARROW_FRAME_END: the frame-end checks of a whole frame, once. Those of a frame whose decision is still due follow it. -/
def execHarrowFrameEnd (f : Furrow) (uid : Nat) (s : State) : Host.Outcome State Fault Refusal :=
  if s.clk.coreStopped then .next s else
  let n := furNo f
  let x := frame s uid
  if !x.rxDone || x.rxCut.isSome || bit x.endSeen n || ((decOf x n).isNone && !bit x.due n) then .next s
  else
    let s1 := modFrame uid (fun x => { x with endSeen := setBit x.endSeen n true }) s
    .next (if (decOf x n).isNone then s1 else frameEndCheck n uid s1)

end Sys2Proof.Machine
end

