-- ==== Sys2Proof/Machine/Session.lean ====
section
/-! DEFINITION. Sessions: opening, closing, identity, state and echo; the idle time and the lock-out (spec/02 R68-R75, R78, R82). -/

namespace Sys2Proof.Machine

def specOpenSession : CmdSpec := { opcode := 0x0101, priv := 0, mask := 0xF, lenOk := len 24 }

/-- The versions of R67, highest first. -/
def versions : List Nat := [0x0302, 0x0301, 0x0300, 0x0200]

def transportCode : Endpoint → Nat
  | .ring _ => 1
  | .inband _ _ => 2
  | .spi => 3

/-- The lowest free session slot (R70). -/
def freeSlot (s : State) : Option Nat := (List.range 4).find? (fun k => !(session s k).isOpen)

/-- Is MAINTAIN locked out (R73). -/
def lockedOut (s : State) : Bool :=
  match s.cp.lockUntil with
  | none => false
  | some e => decide (s.clk.edges < e)

/-- The session opens in a slot (R70, R71, R74). -/
def openIn (k v priv idle : Nat) (src : Endpoint) (s : State) : CmdResult :=
  let g0 := (session s k).gen
  let g := if 63 ≤ g0 then 1 else g0 + 1
  let n := (s.cp.opens + 1) % 65536
  let id := g * 4 + k
  let tag := n * 65536 + transportCode src * 256 + id
  let x : Session := { isOpen := true, gen := g, endpoint := src, verMajor := v / 256, verMinor := v % 256, priv := priv, idle := idle,
                       lastPacket := s.clk.edges, identity := tag }
  .ok (toLE 1 (v / 256) ++ toLE 1 (v % 256) ++ toLE 1 priv ++ toLE 1 k ++ toLE 2 256 ++ zeros 2 ++ toLE 4 tag)
    { s with cp := { s.cp with opens := n, sessions := tset {} s.cp.sessions k x } }

/-- A mismatch of the authorization code (R73). -/
def authMismatch (s : State) : State :=
  if 2 ≤ s.cp.mismatch then { s with cp := { s.cp with mismatch := 0, lockUntil := some (s.clk.edges + 60 * secE) } }
  else { s with cp := { s.cp with mismatch := s.cp.mismatch + 1 } }

/-- R61 (OPEN_SESSION), R68, R69, R73, R74. R74's "0 only on PCIe" is read as: only a PCIe session may have no timeout; a PCIe session may also have
one of 1-3,600 s (DEDUCED, log 40). -/
def bodyOpenSession (p : Packet) (s : State) : CmdResult :=
  let b := p.params
  let idle := le b 6 2
  let priv := byteAt b 4
  checked [(priv ≤ 2, 4), (reservedAt b 5 1, 5),
    (idle ≤ 3600 && (idle != 0 || transportCode p.src == 1), 6)] <|
  let lo := byteAt b 0 * 256 + byteAt b 1
  let hi := byteAt b 2 * 256 + byteAt b 3
  match versions.find? (fun v => lo ≤ v && v ≤ hi) with
  | none => .refuse stVersion 0x0302
  | some v =>
    if (List.range 4).any (fun k => (session s k).isOpen && (session s k).endpoint == p.src) then .refuse stExists 0
    else
      match freeSlot s with
      | none => .refuse stExhausted 0
      | some k =>
        if priv != 2 then openIn k v priv idle p.src s
        else if lockedOut s then .refuse stAuthFail 0
        else if sha256 (slice b 8 16) / 2 ^ 128 = optMaint s then
          openIn k v priv idle p.src { s with cp := { s.cp with mismatch := 0 } }
        else .final stAuthFail [] (authMismatch s)

def execOpenSession (p : Packet) (s : State) : Host.Outcome State Fault Refusal := serveCmd specOpenSession bodyOpenSession p s

def specCloseSession : CmdSpec := { opcode := 0x0102, priv := 0, mask := 0xF, lenOk := len 0 }
/-- The session is marked: it closes once the OK reply is written. -/
def bodyCloseSession (p : Packet) (s : State) : CmdResult := .ok [] (modSession (p.session % 4) (fun x => { x with closing := true }) s)

/-- CLOSE_SESSION closes the session after its reply is written (R75): at once where the transport takes the reply, else when it does. -/
def serveClose (p : Packet) (s : State) : State :=
  settleClosings (serve specCloseSession (check8 specCloseSession) bodyCloseSession p s)

def execCloseSession (p : Packet) (s : State) : Host.Outcome State Fault Refusal := .next (serveClose p s)

def partCode (s : State) : Nat := match s.nv.part with | .cz6416 => 0x6416 | .cz6408 => 0x6408

def specGetIdentity : CmdSpec := { opcode := 0x0103, priv := 0, mask := 0xF, lenOk := len 0 }
/-- R82. -/
def bodyGetIdentity (_ : Packet) (s : State) : CmdResult :=
  .ok (toLE 2 (partCode s) ++ toLE 1 0xB1 ++ zeros 1 ++ toLE 4 s.cp.fwVersion ++ toLE 2 0x0200 ++ toLE 2 0x0302 ++
    toLE 1 s.opt.use ++ toLE 1 (b2n s.opt.fallback) ++ zeros 2 ++ toLE 8 s.nv.serial ++ toLE 8 s.cp.buildTime) s

def execGetIdentity (p : Packet) (s : State) : Host.Outcome State Fault Refusal := serveCmd specGetIdentity bodyGetIdentity p s

def specGetState : CmdSpec := { opcode := 0x0104, priv := 0, mask := 0xF, lenOk := len 0 }
/-- R78. -/
def bodyGetState (_ : Packet) (s : State) : CmdResult :=
  .ok (toLE 1 s.dev.state ++ toLE 1 (if s.dev.state = 6 then s.dev.safeCause else 0) ++ toLE 1 s.dev.profile ++ zeros 1 ++
    toLE 8 s.dev.lastChange) s

def execGetState (p : Packet) (s : State) : Host.Outcome State Fault Refusal := serveCmd specGetState bodyGetState p s

def specEcho : CmdSpec := { opcode := 0x0106, priv := 0, mask := 0xF, lenOk := fun _ => true }
def bodyEcho (p : Packet) (s : State) : CmdResult := .ok p.params s
def execEcho (p : Packet) (s : State) : Host.Outcome State Fault Refusal := serveCmd specEcho bodyEcho p s

/-- IDLE_TIMEOUT (R75): the session of a slot that has been idle for its time closes, and 0x3C3 fires. -/
def execIdleTimeout (slot : Nat) (s0 : State) : Host.Outcome State Fault Refusal :=
  if s0.clk.coreStopped then .next s0 else
  let x := session s0 (slot % 4)
  if x.isOpen && x.idle != 0 then
    let s := reachEdge (x.lastPacket + x.idle * secE) s0
    .next (fire 0x3C3 0x01 [] (closeSession (slot % 4) s))
  else .next s0

/-- MAINTAIN_LOCKOUT_END (R73): 60 s after the third mismatch. -/
def execMaintainLockoutEnd (s0 : State) : Host.Outcome State Fault Refusal :=
  if s0.clk.coreStopped then .next s0 else
  match s0.cp.lockUntil with
  | none => .next s0
  | some e => .next (let s := reachEdge e s0; { s with cp := { s.cp with lockUntil := none } })

end Sys2Proof.Machine
end

