-- ==== Sys2Proof/Machine/Window.lean ====
section
/-! DEFINITION. The register window: access rules, doorbells, ring control, event status and masks, journal consumer, MSI-X
(spec/15, spec/02 R84-R88). be is the mask of enabled bytes of an access. -/

namespace Sys2Proof.Machine

/-- The window is served while the endpoint is released and its link is up (R505, R541). -/
def windowUp (s : State) : Bool := s.pcie.released && s.pcie.up

/-- Contiguous byte enables within one register (R488). -/
def contiguous (be : Nat) : Bool := [1, 2, 4, 8, 3, 6, 12, 7, 14, 15].contains be

/-- The bit mask of the enabled bytes. -/
def beMask (be : Nat) : Nat := (List.range 4).foldl (fun m i => if bit be i then m + 0xFF * 2 ^ (8 * i) else m) 0

/-- The enabled bytes of v merged into a register (R488). -/
def merge (be old v : Nat) : Nat := andNot old (beMask be) ||| (v &&& beMask be)

def powerOfTwo (n : Nat) : Bool := [16, 32, 64, 128, 256, 512, 1024, 2048, 4096].contains n

/-! ## Ring faults (R88, R492) -/

/-- A fault of ring pair k: its flag, and 0x3C1 with the reason's cause. -/
def ringFault (k flag cause : Nat) (s : State) : State :=
  fire 0x3C1 cause [] (modRing k (fun r => { r with faults := setBit r.faults flag true }) s)

def ringIgnored (k : Nat) (s : State) : State := modRing k (fun r => { r with ignored := satAdd 0xFFFF r.ignored 1 }) s

def hfrFault (flag cause : Nat) (s : State) : State :=
  fire 0x3C1 cause [] { s with hfr := { s.hfr with faults := setBit s.hfr.faults flag true } }

def hfrIgnored (s : State) : State := { s with hfr := { s.hfr with ignored := satAdd 0xFFFF s.hfr.ignored 1 } }

def narrowCount (s : State) : State := { s with win := { s.win with narrow := satAdd 0xFFFF s.win.narrow 1 } }

/-- A doorbell write: narrow or out of range is ignored with its fault, else go (R84, R88). -/
def doorbell (be v size : Nat) (ign : State → State) (flt : Nat → Nat → State → State) (go : State → State) (s : State) : State :=
  if be != 0xF then flt 1 2 (ign (narrowCount s))
  else if size ≤ v then flt 0 1 (ign s)
  else go s

def ringCmdTail (k be v : Nat) (s : State) : State :=
  doorbell be v (ring s k).cmdSize.toNat (ringIgnored k) (ringFault k) (modRing k (fun r => { r with cmdTail := v })) s

/-- Posted buffers take the held replies; a stopped command ring resumes (R87), and a session whose CLOSE_SESSION reply is now written closes (R75). -/
def ringRplTail (k be v : Nat) (s : State) : State :=
  doorbell be v (ring s k).rplSize.toNat (ringIgnored k) (ringFault k)
    (fun s => settleClosings (drainRing k (ring s k).held.length (modRing k (fun r => { r with rplTail := v }) s))) s

/-! ## Ring control (R75, R84, R492) -/

def ringConfigOk (r : Ring) : Bool := powerOfTwo r.cmdSize.toNat && powerOfTwo r.rplSize.toNat

/-- The session of an endpoint closes. -/
def closeEndpoint (e : Endpoint) (s : State) : State :=
  (List.range 4).foldl (fun t k => if (session t k).isOpen && (session t k).endpoint == e then closeSession k t else t) s

def ringDisable (k : Nat) (s : State) : State :=
  closeEndpoint (.ring k) (modRing k (fun r => { r with enable := false, held := [] }) s)

/-- A write of RING_CTRL_k; a size that breaks R84 is the fault BAD_CONFIG, the fifth of 0x3C1 (log 35). The heads and
tails stand as they are over a disable and an enable: the spec says nothing of them (DESIGN CHOICE, log 41). -/
def ringCtrl (k v : Nat) (s : State) : State :=
  let s1 := modRing k (fun r => { r with vector := v % 256 }) s
  if bit v 31 then
    if (ring s k).enable then s1
    else if ringConfigOk (ring s k) then modRing k (fun r => { r with enable := true }) s1
    else ringFault k 4 5 s1
  else if (ring s k).enable then ringDisable k s1 else s1

def ringCtrlValue (s : State) (k : Nat) : Nat := b2n (ring s k).enable * 2 ^ 31 + (ring s k).vector

/-! ## Host frame ring control (R496) -/

def hfrCtrlValue (s : State) : Nat :=
  b2n s.hfr.txEnable * 2 ^ 31 + b2n s.hfr.rxEnable * 2 ^ 30 + s.hfr.txVector * 256 + s.hfr.rxVector

def hfrTxEnable (on : Bool) (s : State) : State :=
  if on && !s.hfr.txEnable && !powerOfTwo s.hfr.tx.cmdSize.toNat then hfrFault 4 5 s
  else { s with hfr := { s.hfr with txEnable := on } }

def hfrRxEnable (on : Bool) (s : State) : State :=
  if on && !s.hfr.rxEnable && !powerOfTwo s.hfr.rx.rplSize.toNat then hfrFault 4 5 s
  else { s with hfr := { s.hfr with rxEnable := on } }

def hfrCtrl (v : Nat) (s : State) : State :=
  hfrRxEnable (bit v 30) (hfrTxEnable (bit v 31)
    { s with hfr := { s.hfr with txVector := bits v 15 8, rxVector := v % 256 } })

def hfrTxTail (be v : Nat) (s : State) : State :=
  doorbell be v s.hfr.tx.cmdSize.toNat hfrIgnored hfrFault
    (fun s => { s with hfr := { s.hfr with tx := { s.hfr.tx with cmdTail := v } } }) s

def hfrRxTail (be v : Nat) (s : State) : State :=
  doorbell be v s.hfr.rx.rplSize.toNat hfrIgnored hfrFault
    (fun s => { s with hfr := { s.hfr with rx := { s.hfr.rx with rplTail := v } } }) s

/-! ## Event masks, MSI-X, journal consumer (R427, R493, R494, R499) -/

def eventMask (r be v : Nat) (s : State) : State :=
  { s with win := { s.win with mask := tset 0xFFFFFFFF s.win.mask r (merge be (maskReg s r) v) } }

/-- A write of an MSI-X table word; unmasking a vector signals its pending firing, subject to its holdoff (R499). -/
def msixWrite (i v : Nat) (s : State) : State :=
  let w : Word := BitVec.ofNat 32 (if i % 4 = 3 then v % 2 else v)
  let s1 := { s with win := { s.win with msix := tset 0 s.win.msix i w } }
  if i % 4 = 3 && !vecMasked s1 (i / 4) && bit s1.win.pba (i / 4) then signalVec (i / 4) s1 else s1

/-- The journal vector for the holdoff of the oldest unread record (R427). -/
def journalHoldoff (s : State) : State :=
  if s.jr.enable && jUnread s != 0 && !s.jr.signalledOldest && s.jr.oldestSince + s.jr.holdoff * usE ≤ s.clk.edges then
    signalVec s.jr.vector { s with jr := { s.jr with signalledOldest := true } }
  else s

/-- A write of JOURNAL_CONSUMER, bits 19:0 of the register (R15, R493): ignored with 0x3C4, or entries are freed and the watermark is armed again (R427). -/
def journalConsumer (be v0 : Nat) (s : State) : State :=
  let v := merge be s.jr.consumer v0 % 2 ^ 20
  let size := jSize s
  if !s.jr.enable || size ≤ v || jUnread s < (v + size - s.jr.consumer) % size then fire 0x3C4 0x02 (toLE 4 0x0204) s
  else
    let s1 := { s with jr := { s.jr with consumer := v } }
    let s2 := { s1 with jr := { s1.jr with wmArmed := s1.jr.wmArmed || decide (jUnread s1 < s1.jr.watermark) } }
    let s3 :=
      if v != s.jr.consumer && jUnread s2 != 0 then
        { s2 with jr := { s2.jr with oldestSince := tget 0 s2.jr.writtenAt v, signalledOldest := false } }
      else s2
    settleLoss (journalHoldoff s3)

/-! ## The window (R486) -/

/-- A write to a register of the window; RO, RC, clear-on-read and reserved registers ignore it (R15, R487). -/
def regWrite (off be v : Nat) (s : State) : State :=
  let w := fun (old : Word) => BitVec.ofNat 32 (merge be old.toNat v)
  if 0x100 ≤ off && off < 0x200 then
    let k := (off - 0x100) / 0x40
    match (off - 0x100) % 0x40 with
    | 0x00 => modRing k (fun r => { r with cmdBaseLo := w r.cmdBaseLo }) s
    | 0x04 => modRing k (fun r => { r with cmdBaseHi := w r.cmdBaseHi }) s
    | 0x08 => modRing k (fun r => { r with cmdSize := w r.cmdSize }) s
    | 0x0C => ringCmdTail k be v s
    | 0x14 => modRing k (fun r => { r with rplBaseLo := w r.rplBaseLo }) s
    | 0x18 => modRing k (fun r => { r with rplBaseHi := w r.rplBaseHi }) s
    | 0x1C => modRing k (fun r => { r with rplSize := w r.rplSize }) s
    | 0x20 => ringRplTail k be v s
    | 0x28 => ringCtrl k (merge be (ringCtrlValue s k) v) s
    | _ => s
  else if off = 0x204 then journalConsumer be v s
  else if 0x380 ≤ off && off < 0x400 then eventMask ((off - 0x380) / 4) be v s
  else if 0x400 ≤ off && off < 0x500 then
    match off with
    | 0x400 => { s with hfr := { s.hfr with tx := { s.hfr.tx with cmdBaseLo := w s.hfr.tx.cmdBaseLo } } }
    | 0x404 => { s with hfr := { s.hfr with tx := { s.hfr.tx with cmdBaseHi := w s.hfr.tx.cmdBaseHi } } }
    | 0x408 => { s with hfr := { s.hfr with tx := { s.hfr.tx with cmdSize := w s.hfr.tx.cmdSize } } }
    | 0x40C => hfrTxTail be v s
    | 0x414 => { s with hfr := { s.hfr with rx := { s.hfr.rx with rplBaseLo := w s.hfr.rx.rplBaseLo } } }
    | 0x418 => { s with hfr := { s.hfr with rx := { s.hfr.rx with rplBaseHi := w s.hfr.rx.rplBaseHi } } }
    | 0x41C => { s with hfr := { s.hfr with rx := { s.hfr.rx with rplSize := w s.hfr.rx.rplSize } } }
    | 0x420 => hfrRxTail be v s
    | 0x428 => hfrCtrl (merge be (hfrCtrlValue s) v) s
    | _ => s
  else if 0x1000 ≤ off && off < 0x1400 then
    let i := (off - 0x1000) / 4
    msixWrite i (merge be (tget 0 s.win.msix i).toNat v) s
  else s

/-- The RW registers that WINDOW_DIGEST covers, in rising offset order (R501). -/
def digestWords (s : State) : List Nat :=
  ((List.range 4).flatMap fun k =>
    let r := ring s k
    [r.cmdBaseLo.toNat, r.cmdBaseHi.toNat, r.cmdSize.toNat, r.rplBaseLo.toNat, r.rplBaseHi.toNat, r.rplSize.toNat, ringCtrlValue s k]) ++
  ((List.range 32).map (maskReg s)) ++
  [s.hfr.tx.cmdBaseLo.toNat, s.hfr.tx.cmdBaseHi.toNat, s.hfr.tx.cmdSize.toNat,
   s.hfr.rx.rplBaseLo.toNat, s.hfr.rx.rplBaseHi.toNat, s.hfr.rx.rplSize.toNat, hfrCtrlValue s] ++
  ((List.range 256).map fun i => (tget 0 s.win.msix i).toNat)

def windowDigest (s : State) : Nat := crc32 ((digestWords s).flatMap (toLE 4))

/-- The value that a register of the window reads, without the side effect of the clear-on-read ones; a doorbell reads the index last written, a
reserved offset 0 (R84, R486-R499). -/
def regValue (s : State) (off : Nat) : Nat :=
  let part := match s.nv.part with | .cz6416 => 0x6416 | .cz6408 => 0x6408
  let m := s.mir
  if off % 4 != 0 then 0
  else if off < 0x100 then
    match off with
    | 0x00 => 0xB1 * 65536 + part
    | 0x04 => 1
    | 0x08 => s.nv.serial % 2 ^ 32
    | 0x0C => s.nv.serial / 2 ^ 32 % 2 ^ 32
    | 0x10 => s.win.noncontig * 65536 + s.win.narrow
    | 0x40 => m.tick
    | 0x44 => m.r0044
    | 0x48 => m.r0048
    | 0x4C => m.r004c
    | 0x50 => m.r0050
    | 0x54 => m.r0054
    | 0x58 => m.r0058
    | 0x5C => m.r005c
    | 0x60 => m.r0060
    | 0x64 => m.r0064
    | 0x68 => m.r0068
    | _ => 0
  else if off < 0x200 then
    let k := (off - 0x100) / 0x40
    let r := ring s k
    match (off - 0x100) % 0x40 with
    | 0x00 => r.cmdBaseLo.toNat
    | 0x04 => r.cmdBaseHi.toNat
    | 0x08 => r.cmdSize.toNat
    | 0x0C => r.cmdTail
    | 0x10 => r.cmdHead
    | 0x14 => r.rplBaseLo.toNat
    | 0x18 => r.rplBaseHi.toNat
    | 0x1C => r.rplSize.toNat
    | 0x20 => r.rplTail
    | 0x24 => r.rplHead
    | 0x28 => ringCtrlValue s k
    | 0x2C => r.ignored * 65536 + r.faults
    | _ => 0
  else if off < 0x300 then
    match off with
    | 0x200 => s.jr.producer
    | 0x204 => s.jr.consumer
    | 0x208 => s.jr.lostCount
    | 0x20C => s.jr.staged.length
    | 0x210 => s.stook.lastGen
    | 0x214 => s.stook.lastSlot
    | _ => 0
  else if off < 0x380 then statusReg s ((off - 0x300) / 4)
  else if off < 0x400 then maskReg s ((off - 0x380) / 4)
  else if off < 0x500 then
    match off with
    | 0x400 => s.hfr.tx.cmdBaseLo.toNat
    | 0x404 => s.hfr.tx.cmdBaseHi.toNat
    | 0x408 => s.hfr.tx.cmdSize.toNat
    | 0x40C => s.hfr.tx.cmdTail
    | 0x410 => s.hfr.tx.cmdHead
    | 0x414 => s.hfr.rx.rplBaseLo.toNat
    | 0x418 => s.hfr.rx.rplBaseHi.toNat
    | 0x41C => s.hfr.rx.rplSize.toNat
    | 0x420 => s.hfr.rx.rplTail
    | 0x424 => s.hfr.rx.rplHead
    | 0x428 => hfrCtrlValue s
    | 0x42C => s.hfr.ignored * 65536 + s.hfr.faults
    | _ => 0
  else if 0x1000 ≤ off && off < 0x1400 then (tget 0 s.win.msix ((off - 0x1000) / 4)).toNat
  else if off = 0x1400 then (s.win.pba ||| s.ev.vecPend) % 2 ^ 32
  else if off = 0x1404 then (s.win.pba ||| s.ev.vecPend) / 2 ^ 32 % 2 ^ 32
  else 0

/-- A non-contiguous access: counted, 0x3C4, a read returns all ones, a write is dropped (R488). -/
def noncontig (off be : Nat) (write : Bool) (s : State) : State :=
  let s1 := fire 0x3C4 0x01 (toLE 4 off ++ toLE 1 be ++ toLE 1 (b2n write))
    { s with win := { s.win with noncontig := satAdd 0xFFFF s.win.noncontig 1 } }
  if write then s1 else emitOut (.readData off 0xFFFFFFFF) s1

/-- An access of any shape that writes: contiguous bytes go to the register (R488). -/
def hostWrite (off be v : Nat) (s : State) : State :=
  if !windowUp s || s.clk.coreStopped then s
  else if contiguous be then regWrite off be v s
  else noncontig off be true s

/-- A read: the whole register takes the side effect, the enabled bytes are returned (R488). -/
def hostRead (off be v : Nat) (clear : State → State) (s : State) : State :=
  if !windowUp s then s
  else if contiguous be then emitOut (.readData off (v &&& beMask be)) (clear s)
  else noncontig off be false s

/-! ## The commands of the window -/

def execRegisterWrite (off be value : Nat) (s : State) : Host.Outcome State Fault Refusal := .next (hostWrite off be value s)
def execRingCmdTail (k be value : Nat) (s : State) : Host.Outcome State Fault Refusal :=
  .next (hostWrite (0x10C + 0x40 * (k % 4)) be value s)
def execRingRplTail (k be value : Nat) (s : State) : Host.Outcome State Fault Refusal :=
  .next (hostWrite (0x120 + 0x40 * (k % 4)) be value s)
/-- RING_CTRL_k written with ENABLE set. -/
def execRingPairEnable (k vector : Nat) (s : State) : Host.Outcome State Fault Refusal :=
  .next (hostWrite (0x128 + 0x40 * (k % 4)) 0xF (2 ^ 31 + vector % 256) s)
/-- RING_CTRL_k written with ENABLE clear. -/
def execRingPairDisable (k vector : Nat) (s : State) : Host.Outcome State Fault Refusal :=
  .next (hostWrite (0x128 + 0x40 * (k % 4)) 0xF (vector % 256) s)
def execRingFaultRead (k be : Nat) (s : State) : Host.Outcome State Fault Refusal :=
  .next (hostRead (0x12C + 0x40 * (k % 4)) be (regValue s (0x12C + 0x40 * (k % 4))) (modRing (k % 4) (fun r => { r with faults := 0, ignored := 0 })) s)
def execWindowFaultRead (be : Nat) (s : State) : Host.Outcome State Fault Refusal :=
  .next (hostRead 0x0010 be (regValue s 0x10)
    (fun s => { s with win := { s.win with noncontig := 0, narrow := 0 } }) s)
def execNoncontigAccess (off be : Nat) (write : Bool) (s : State) : Host.Outcome State Fault Refusal :=
  .next (if windowUp s then noncontig off be write s else s)
/-- A read of any width clears all 32 bits (R494). -/
def execEventStatusRead (r be : Nat) (s : State) : Host.Outcome State Fault Refusal :=
  let k := r % 32
  .next (hostRead (0x300 + 4 * k) be (regValue s (0x300 + 4 * k)) (fun s => { s with win := { s.win with status := tdel s.win.status k } }) s)
def execEventMaskWrite (r be value : Nat) (s : State) : Host.Outcome State Fault Refusal :=
  .next (hostWrite (0x380 + 4 * (r % 32)) be value s)
def execJournalConsumerWrite (be value : Nat) (s : State) : Host.Outcome State Fault Refusal :=
  .next (hostWrite 0x204 be value s)
def execHfrTxTail (be value : Nat) (s : State) : Host.Outcome State Fault Refusal := .next (hostWrite 0x40C be value s)
def execHfrRxTail (be value : Nat) (s : State) : Host.Outcome State Fault Refusal := .next (hostWrite 0x420 be value s)
/-- Bit TX_ENABLE of HFR_CTRL written, the rest of the register as it stands. -/
def execHfrTxEnable (on : Bool) (s : State) : Host.Outcome State Fault Refusal :=
  .next (hostWrite 0x428 0xF (setBit (hfrCtrlValue s) 31 on) s)
def execHfrRxEnable (on : Bool) (s : State) : Host.Outcome State Fault Refusal :=
  .next (hostWrite 0x428 0xF (setBit (hfrCtrlValue s) 30 on) s)
def execHfrFaultRead (be : Nat) (s : State) : Host.Outcome State Fault Refusal :=
  .next (hostRead 0x42C be (regValue s 0x42C) (fun s => { s with hfr := { s.hfr with faults := 0, ignored := 0 } }) s)
def execMsixVectorMaskWrite (v : Nat) (mask : Bool) (s : State) : Host.Outcome State Fault Refusal :=
  .next (hostWrite (0x100C + 16 * (v % 64)) 0xF (b2n mask) s)

/-! ## The SPI target (R92, R93) -/

def spiReady (s : State) : Bool := (s.cp.waiting.filter (fun q => q.src == .spi)).length < 4 && s.spi.replies.length < 16

/-- SPI_STATUS. R76 and R92 do not say what it answers while the command transports are not served: it answers the flags by their own rules all the
same, with RX_READY by R93 (DESIGN CHOICE, log 39). -/
def execSpiStatus (s : State) : Host.Outcome State Fault Refusal :=
  let f := b2n (spiReady s) + 2 * b2n (!s.spi.replies.isEmpty) + 4 * b2n s.spi.crcErr + 8 * b2n s.spi.overrun
  .next (emitOut (.spiOut (toLE 1 f ++ toLE 2 (s.spi.replies.headD []).length ++ zeros 1))
    { s with spi := { s.spi with crcErr := false, overrun := false } })

/-- A READ of n bytes after the command byte: one dummy byte, the reply, then 0xFF. The reply leaves the queue only when its last byte has been
clocked out; one that waits takes its place. R92 gives the dummy byte no value: it is a free value (log 38). While the transports are not served, a READ reads the queue as it stands
(log 39). -/
def execSpiRead (n : Nat) (s : State) : Host.Outcome State Fault Refusal :=
  let d := s.spi.replies.headD []
  let (v, s0) := takeFree 8 s
  let out := (BitVec.ofNat 8 v :: d ++ List.replicate n 0xFF).take n
  let s1 := if d.length < n && !s.spi.replies.isEmpty then
      settleClosings { s0 with spi := fillSpi s.spi.held.length { s.spi with replies := s.spi.replies.tail } } else s0
  .next (emitOut (.spiOut out) s1)

end Sys2Proof.Machine
end

