-- ==== Sys2Proof/Machine/Fabric.lean ====
section
/-! DEFINITION. The crossbars: requests, the matcher, crossings, the HOST and RECIRC ports, faults (spec/09 R298-R311, R319-R321; spec/15
R496-R498). -/

namespace Sys2Proof.Machine

/-! ## Words (R299, R301) -/

/-- Words of a copy that an entry will move in all, once that is known. A mirror entry takes a bad copy whole, and a truncated one stops at its length
(R311). Any other entry of a poisoned copy ends at the first poisoned word, or, where it has moved that one already, with the last word written before
the cause was found (R315). -/
def entryTotal (x : Frame) (c : Copy) (e : Entry) : Option Nat :=
  let whole := if c.tailMark || x.rxDone then
      some (match e.mirror with
        | some (_, n) => if n = 0 then copyWords x c else min (copyWords x c) (1 + ceilDiv n 32)
        | none => copyWords x c)
    else none
  match e.mirror, c.poisonAt with
  | none, some w => if e.moved ≤ w then some (w + 1) else whole
  | _, _ => whole

/-- Frame bytes of a copy that an entry has brought to its output once it ends: those before the poisoned word that ends it, if one does. now: one of
the n words that cross is poisoned, the last of them. -/
def entryBytes (x : Frame) (c : Copy) (e : Entry) (n : Nat) (now : Bool) : Nat :=
  match e.mirror, now, c.poisonAt with
  | some (_, m), _, _ => if m = 0 then copyLen x c else min m (copyLen x c)
  | none, true, _ => min ((e.moved + n - 2) * 32) (copyLen x c)
  | none, false, some w => if e.moved ≤ w then min ((w - 1) * 32) (copyLen x c) else copyLen x c
  | none, false, none => copyLen x c

/-- Words written and not yet moved by an entry; a copy that has ended with nothing left still owes its last word. -/
def entryAvail (s : State) (x : Frame) (c : Copy) (e : Entry) : Nat :=
  match entryTotal x c e with
  | some t =>
    let n := min t (writtenWords x c s.clk.edges) - e.moved
    if c.tailMark || t ≤ e.moved then max 1 n else n
  | none => writtenWords x c s.clk.edges - e.moved

/-! ## Credit (R304, R307, R309) -/

/-- Words of a copy that its port's transmitter has taken. -/
def wordsSent (s : State) (p : Nat) (c : EgCopy) : Nat :=
  match (port s p).drill.tx with
  | some t =>
    if t.uid = c.uid && t.id = c.id then
      min c.got (1 + (c.sent + ((s.clk.edges - t.start) * 10 / portTick s p - 8)) / 32)
    else if c.sent = 0 then 0 else min c.got (1 + c.sent / 32)
  | none => if c.sent = 0 then 0 else min c.got (1 + c.sent / 32)

/-- Words that a class of a furrow holds in an egress buffer. -/
def wordsHeld (s : State) (p k f : Nat) : Nat :=
  ((port s p).drill.buf.filter (fun c => c.cls == k && c.fur == f)).foldl (fun n c => n + (c.got - wordsSent s p c)) 0

/-- The number of a lane entry's copy in an egress buffer. -/
def egId (f : Nat) (e : Entry) : Nat := match e.mirror with | some (i, _) => 2 + 2 * i + f | none => f

/-- Is an entry the copy that its output is transmitting, with fewer than 8 words ahead of the transmitter (R302). -/
def continues (s : State) (f out : Nat) (e : Entry) : Bool :=
  match (port s out).drill.tx with
  | none => false
  | some t =>
    t.uid == e.uid && t.id == egId f e &&
      (match (port s out).drill.buf.find? (isEg t.uid t.id) with | some c => decide (c.got - wordsSent s out c < 8) | none => false)

/-- HOST entries whose crossing has begun. -/
def hostBegun (s : State) : Nat :=
  [0, 1].foldl (fun n f => (fur s f).lanes.foldl (fun n l => if l.1 / 8 % 72 = 64 then n + (l.2.filter (fun e => e.moved != 0)).length else n) n) 0

/-- Buffers posted in the host receive ring. -/
def hostPosted (s : State) : Nat :=
  let n := s.hfr.rx.rplSize.toNat
  if s.hfr.rxEnable && windowUp s && n != 0 then (s.hfr.rx.rplTail + n - s.hfr.rx.rplHead) % n else 0

/-- Words beyond the class credit that a port's continuations hold. -/
def overdrawn (s : State) (p : Nat) : Nat := (List.range 16).foldl (fun n i => n + (wordsHeld s p (i % 8) (i / 8) - 16)) 0

/-- Words for which an output holds credit toward an entry: of its class, and for a continuation without any, of the port's further 8 (R304). -/
def credit (s : State) (f key : Nat) (e : Entry) : Nat :=
  let out := key / 8 % 72
  let k := key % 8
  if out < 64 then
    let held := wordsHeld s out k f
    if held < 16 then 16 - held else if continues s f out e then 8 - overdrawn s out else 0
  else if out = 64 then (if e.moved != 0 || hostBegun s < hostPosted s then 8 else 0)
  else if out ≤ 68 then (if (tget [] (fur s f).recirc (out - 65)).length < 4 then 8 else 0)
  else 0

/-! ## Requests (R302) -/

/-- A request of an input for an output. -/
structure Req where
  key : Nat
  e : Entry
  rank : Nat
  words : Nat

def Req.inp (r : Req) : Nat := r.key / 8 / 72
def Req.out (r : Req) : Nat := r.key / 8 % 72

/-- The request of a lane: its head, if it is eligible. A store-and-forward entry moves whole cells (R314). -/
def laneReq (s : State) (f key : Nat) (l : List Entry) : Option Req :=
  match l with
  | [] => none
  | e :: _ =>
    let x := frame s e.uid
    match copyOf x e.half with
    | none => none
    | some c =>
      if e.offered.isNone || (e.moved = 0 && expired s x) then none
      else
        let cell := min (8 - e.moved % 8) (entryAvail s x c e)
        let room := credit s f key e
        let n := if e.cutThrough then min cell room else if cell ≤ room then cell else 0
        if n = 0 then none
        else
          let k := key % 8
          let rank := if key / 8 % 72 < 64 && continues s f (key / 8 % 72) e then 1 else if k = 7 then 2 else if k = 6 then 4 else if k = 5 then 5 else 6
          some { key := key, e := e, rank := rank, words := n }

/-- Does a request go before another of the same input and output: by rank; in the group, the class after the one last offered. -/
def reqBefore (s : State) (f : Nat) (a b : Req) : Bool :=
  let last := tget 4 (fur s f).xb.rot (a.key / 8)
  let turn := fun (k : Nat) => (k + 4 - last) % 5
  a.rank < b.rank || (a.rank == b.rank && a.rank == 6 && decide (turn (a.key % 8) < turn (b.key % 8)))

/-- The best request of each input and output pair. Keys of one pair are neighbours. -/
def bestReqs (s : State) (f : Nat) (l : List Req) : List Req :=
  l.foldr (fun r acc => match acc with
    | [] => [r]
    | q :: t => if q.key / 8 = r.key / 8 then (if reqBefore s f r q then r :: t else q :: t) else r :: q :: t) []

/-- Is a request one for a header transfer: toward GLEANER, where no lane leads (R298, R310). -/
def Req.transfer (r : Req) : Bool := r.out == 69

/-- The request of a copy's header transfer toward GLEANER: 5 words, or all of a shorter copy (R310). -/
def xferReq (s : State) (f u : Nat) (x : Frame) : Option Req :=
  match copyOf x f with
  | none => none
  | some c =>
    let n := min 5 (writtenWords x c s.clk.edges)
    if c.granted || !xferDue s f u || (n < 5 && !c.complete && !c.tailMark) then none
    else some { key := laneKey x.port 69 7, e := { uid := u, half := f }, rank := 3, words := n }

/-- The header transfers that inputs request: the oldest of each, while the Gleaner has buffer credit (R302, R310, R437). -/
def xferReqs (s : State) (f : Nat) : List Req :=
  if 64 ≤ xfersHeld s then []
  else (s.frames.filterMap (fun e => xferReq s f e.1 e.2)).foldl (fun acc r => if acc.any (fun q => q.inp == r.inp) then acc else acc ++ [r]) []

def requests (s : State) (f : Nat) : List Req := bestReqs s f ((fur s f).lanes.filterMap (fun e => laneReq s f e.1 e.2)) ++ xferReqs s f

/-! ## The matcher (R303, R306) -/

/-- Distance at or after a pointer, in rising order modulo 72. -/
def after (ptr n : Nat) : Nat := (n + 72 - ptr % 72) % 72

/-- The request that an output grants. -/
def grantOf (x : Crossbar) (out : Nat) (l : List Req) : Option Req :=
  (l.filter (fun r => r.out == out)).foldl (fun (b : Option Req) r =>
    match b with
    | none => some r
    | some q =>
      if r.rank < q.rank || (r.rank == q.rank && decide (after (tget 0 x.grant (8 * out + r.rank)) r.inp < after (tget 0 x.grant (8 * out + r.rank)) q.inp))
      then some r else some q) none

/-- The grant that an input accepts. -/
def acceptOf (s : State) (x : Crossbar) (inp : Nat) (l : List Req) : Option Req :=
  let p := tget 0 x.accept inp
  (l.filter (fun r => r.inp == inp)).foldl (fun (b : Option Req) r =>
    match b with
    | none => some r
    | some q =>
      let better := if r.rank != q.rank then decide (r.rank < q.rank)
        else if r.rank = 2 then
          (let nr := (frame s r.e.uid).ns; let nq := (frame s q.e.uid).ns
           decide (nr < nq) || (nr == nq && decide (after p r.out < after p q.out)))
        else decide (after p r.out < after p q.out)
      if better then some r else some q) none

/-- Lane entries of the same copy at the same next word (R306). -/
def sameWord (a b : Req) : Bool :=
  a.e.uid == b.e.uid && a.e.half == b.e.half && a.e.moved == b.e.moved && a.e.mirror.isSome == b.e.mirror.isSome && !a.transfer && !b.transfer

/-- An accepted grant with the others that its input accepts with it: those of the same word, but for a store-and-forward entry that would move less
than its cell with them (R306, R314; log 76). -/
def joinReqs (r : Req) (l : List Req) : List Req :=
  if !r.e.cutThrough then r :: l.filter (fun q => decide (r.words ≤ q.words))
  else
    let n := l.foldl (fun m q => if q.e.cutThrough then min m q.words else m) r.words
    r :: l.filter (fun q => q.e.cutThrough || q.words == n)

/-- One iteration: the connections it adds. -/
def matchStep (s : State) (x : Crossbar) (l : List Req) : List (List Req) :=
  let outs := (l.map Req.out).eraseDups
  let grants := outs.filterMap (fun o => grantOf x o l)
  let ins := (grants.map Req.inp).eraseDups
  ins.filterMap (fun i => (acceptOf s x i grants).map (fun r => joinReqs r (grants.filter (fun q => q.inp == i && q.key != r.key && sameWord r q))))

/-- Pointers after iteration 1. -/
def movePointers (x : Crossbar) (cs : List (List Req)) : Crossbar :=
  cs.foldl (fun x c =>
    let top := c.foldl (fun m r => max m r.out) 0
    { x with
      grant := c.foldl (fun t r => tset 0 t (8 * r.out + r.rank) ((r.inp + 1) % 72)) x.grant
      accept := match c with | [] => x.accept | r :: _ => tset 0 x.accept r.inp ((top + 1) % 72) }) x

/-- The requests that the connections so far leave open. -/
def leftOver (l : List Req) (cs : List (List Req)) : List Req :=
  l.filter (fun r => cs.all (fun c => c.all (fun q => q.inp != r.inp && q.out != r.out)))

/-! ## HOST delivery (R307, R498) -/

/-- The part of a receive descriptor that the device writes: bytes 10-31. -/
def hostDescriptor (x : Frame) (d : Decision) (f n : Nat) : List Byte :=
  toLE 2 n ++ toLE 1 x.port ++ toLE 1 (x.class_ + d.hostReason * 8 + f * 64) ++ toLE 1 d.caseCode ++ zeros 1 ++ toLE 8 (t64OfNs x.ns) ++
  toLE 4 (d.handle + x.qns * 2 ^ 20) ++ zeros 3 ++ toLE 1 1

/-- HOST_FRAME_DELIVER: the copy's last word has crossed. A copy that ended bad takes no buffer. -/
def hostDeliver (f u : Nat) (bad : Bool) (s : State) : State :=
  if bad then s
  else
    let x := frame s u
    let b := effBytes x
    let slot := s.hfr.rx.rplHead
    let s1 := emitOut (.hostFrame slot (hostDescriptor x ((decOf x f).getD {}) f b.length) b)
      { s with hfr := { s.hfr with rx := { s.hfr.rx with rplHead := (slot + 1) % max 1 s.hfr.rx.rplSize.toNat } } }
    signalVec s1.hfr.rxVector s1

/-! ## Crossings (R301, R306) -/

/-- The tag of word w of a copy (R299). bad: this word reads as uncorrectable; last: the frame bytes of the copy for its output, where the word is its
last, with TAIL_MARK where the copy ends with a bad tail. -/
def wordTag (f k w : Nat) (e : Entry) (c : Copy) (bad : Bool) (last : Option Nat) : Nat :=
  (match last with | some n => (n + 31) % 32 + b2n (c.tailMark || c.poison || bad) * 2 ^ 13 + 2 ^ 14 | none => 0) + b2n e.mirror.isSome * 2 ^ 6 +
    b2n e.cutThrough * 2 ^ 7 + f * 2 ^ 8 + k * 2 ^ 9 + b2n (c.poison || bad) * 2 ^ 12 + b2n (w == 0) * 2 ^ 15

/-- The n words of an entry that cross to an output, one in each drill clock. bad: the last of them reads as uncorrectable; last: as for wordTag, for
the last of them. -/
def linkWords (f out k n : Nat) (e : Entry) (c : Copy) (bad : Bool) (last : Option Nat) (s : State) : State :=
  modFur f (fun x => { x with xb := { x.xb with link := x.xb.link ++ (List.range n).map (fun i =>
    let w := e.moved + i
    { out := out, uid := e.uid, id := egId f e, word := w, tag := if i + 1 = n then wordTag f k w e c bad last else wordTag f k w e c false none }) } }) s

/-- Words of a copy reach an egress buffer. last: the entry's last word is among them; poisoned: so is one that reads as uncorrectable. -/
def egressWords (f key n : Nat) (last poisoned : Bool) (e : Entry) (s : State) : State :=
  let p := key / 8 % 72
  let x := frame s e.uid
  let id := egId f e
  let c := (copyOf x e.half).getD {}
  let bad := if last && c.tailMark then some c.cause else if last && poisoned then some 11 else none
  let total := if last then some (entryBytes x c e n poisoned) else none
  match egCopy s p e.uid id with
  | some _ => modEg p e.uid id (fun y => { y with got := y.got + n, closed := y.closed || last, bad := bad.or y.bad, total := total }) s
  | none =>
    let y : EgCopy := { uid := e.uid, id := id, fur := f, input := key / 8 / 72, cls := key % 8, got := n, closed := last, bad := bad, total := total,
                        mirror := e.mirror, cutBad := e.cutBad, holds := prpHold s f p e, firstAt := s.clk.edges }
    modDrill p (fun d => { d with buf := d.buf ++ [y] }) s

/-- One lane entry of a connection moves n words. A poisoned one ends the entry, but for a mirror copy's (R311, R315). A frame whose trailer disagrees
with its port's mask is counted as its last word leaves, where no PRP check was due at its output (R368). -/
def crossEntry (f n : Nat) (poisoned : Bool) (r : Req) (s : State) : State :=
  let e := r.e
  let x := frame s e.uid
  let c := (copyOf x e.half).getD {}
  let out := r.out
  let last := (match entryTotal x c e with | some t => decide (t ≤ e.moved + n) | none => false) || (poisoned && e.mirror.isNone)
  let bad := c.tailMark || poisoned
  let s0 := modCopy e.uid e.half (fun c => { c with left := setBit c.left f true }) s
  let sl := linkWords f out (r.key % 8) n e c poisoned (if last then some (entryBytes x c e n poisoned) else none) s0
  let s1 := if out < 64 then egressWords f r.key n last poisoned e sl else sl
  let wait := match e.offered with | some o => (s.clk.edges - o) * 4 / 5 | none => 0
  let s2 := if r.key % 8 = 7 && e.moved = 0 then
      modFur f (fun y => { y with xb := { y.xb with ctr := tset 0 y.xb.ctr 20 (max (tget 0 y.xb.ctr 20) (min 0xFFFFFFFF wait)) } }) s1
    else s1
  let mine := fun (y : Entry) => y.uid == e.uid && y.half == e.half && y.mirror == e.mirror
  let l := laneOf s2 f r.key
  if !last then setLane f r.key (l.map (fun y => if mine y then { y with moved := y.moved + n } else y)) s2
  else
    let s3 := setLane f r.key (l.filter (fun y => !mine y)) s2
    let s4 := if out < 64 && e.mirror.isNone && x.kind = 0 && !bad && !prpMaybe s3 x out then noteWrongLan out x (winParse s3 f x) s3 else s3
    if 65 ≤ out && !bad then
      modFrame e.uid (fun x => { x with due := setBit 0 f true, start := s4.clk.edges, tick := 1 })
        (modFur f (fun y => { y with recirc := tset [] y.recirc (out - 65) (tget [] y.recirc (out - 65) ++ [e.uid]) }) s4)
    else
      let s5 := if out = 64 then hostDeliver f e.uid bad s4 else s4
      tryReturn e.uid e.half (modCopy e.uid e.half (fun c => { c with fanout := c.fanout - 1 }) s5)

/-- What a word of a copy in half h reads as: a corrected one counts (code 16 + memory); an uncorrectable one counts in the Granary half of its cell
(code 0) or on the furrow's fabric link (code 1), and poisons the copy (R43, R45). -/
def wordRead (f h code : Nat) (s : State) : Bool × State :=
  match readWord code s with
  | (0, s1) => if code = 0 then (true, memUnc h s1) else (false, s1)
  | (_, s1) => (true, memUnc (33 + f) s1)

/-- A copy at an output ends there with the words that are here, but for the last lost of them (R305), and the cause is counted for its furrow. -/
def endEg (p cause lost : Nat) (c : EgCopy) (s : State) : State :=
  countTail c.uid c.fur cause (closeEntry p c
    (modEg p c.uid c.id (fun y => { y with closed := true, bad := some cause, total := some ((y.got - 1 - lost) * 32) }) s))

/-- A copy of which a word is uncorrectable, word w where that is known: its entries end there, or it is dropped whole where its head has not left
(R45, R315). -/
def poisonCopy (u h : Nat) (w : Option Nat) (s : State) : State :=
  let x := frame s u
  let n := if x.rxDone then (effBytes x).length else rxBytes x s.clk.edges
  -- A copy dropped before it has lane entries is counted by NOT_SENT too (log 57).
  let early := (copyOf x h).any (fun c => !c.released && !c.dropped && !c.tailMark)
  cutCopy u h 11 n <| (if early then xctr 14 1 (laneFur s x) else id) (modCopy u h (fun c => { c with
    poison := true
    poisonAt := match c.poisonAt, w with | some a, some b => some (min a b) | none, b => b | a, none => a }) s)

/-- The word that a connection of n words found uncorrectable, the last of them: its copy is poisoned. One whose last word has left it ends bad at its
outputs alone (R315). -/
def poisonWords (f : Nat) (r : Req) (n : Nat) (s : State) : State :=
  if (copyOf (frame s r.e.uid) r.e.half).isSome then poisonCopy r.e.uid r.e.half (some (r.e.moved + n - 1)) s else countTail r.e.uid f 11 s

/-- A deferred copy whose words arrive tail-marked or poisoned is dropped; the slot that it waits on does not change (R363). -/
def dropDeferred (f : Nat) (r : Req) (poisoned : Bool) (s : State) : State :=
  match if r.out < 64 then egCopy s r.out r.e.uid (egId f r.e) else none with
  | none => s
  | some y => if y.state == 2 && (poisoned || (y.closed && y.bad.isSome)) then discardEg r.out y s else s

/-- A header transfer is granted: its words cross toward GLEANER (R302, R310). -/
def grantXfer (f : Nat) (poisoned : Bool) (r : Req) (s : State) : State :=
  let x := frame s r.e.uid
  let c := (copyOf x r.e.half).getD {}
  linkWords f r.out 7 r.words r.e c poisoned (some (min ((r.words - 1) * 32) (copyLen x c)))
    (modCopy r.e.uid r.e.half (fun c => { c with granted := true }) s)

/-- A connection: the smallest count of words that its entries allow, moved by all of them at once. -/
def connect (f : Nat) (bad : List (Nat × Nat)) (c : List Req) (s : State) : State :=
  match c with
  | [] => s
  | r0 :: rest =>
    let n := rest.foldl (fun m r => min m r.words) r0.words
    let s1 := xctr 1 n f (xctr 0 1 f (if rest.isEmpty then s else xctr 2 1 f s))
    let s2 := xctr 5 (c.filter (fun r => r.rank == 1)).length f s1
    let (poisoned, s3) := (bad.filter (fun b => b.1 == r0.e.uid)).foldl (fun (a : Bool × State) b =>
      let w := wordRead f r0.e.half b.2 a.2
      (a.1 || w.1, w.2)) (false, s2)
    let s4 := if r0.transfer then grantXfer f poisoned r0 s3 else c.foldl (fun s r => crossEntry f n poisoned r s) s3
    let s5 := if poisoned then poisonWords f r0 n s4 else s4
    c.foldl (fun s r => dropDeferred f r poisoned s) s5

/-- Each input remembers the class of TC0-TC4 that it offers an output now (R302). -/
def noteOffered (l : List Req) (x : Crossbar) : Crossbar :=
  { x with rot := (l.filter (fun r => r.rank == 6)).foldl (fun t r => tset 4 t (r.key / 8) (r.key % 8)) x.rot }

/-- A request is activity of the slice of the port that it names (R33, R34). -/
def touchReq (r : Req) (s : State) : State := if r.out < 64 then touchPort r.out (r.key % 8 == 7) s else s

/-- CROSSBAR_MATCH: one cell time of furrow f. bad lists frames of which a word reads with bits in error, each with its code (wordRead). -/
def crossbarMatch (f : Nat) (bad : List (Nat × Nat)) (s0 : State) : State :=
  if !live s0 f then s0
  else
    let t := reachEdge (fur s0 f).xb.at_ s0
    let l := requests t f
    let s := l.foldl (fun s r => touchReq r s) t
    let x := noteOffered l (fur s f).xb
    let c1 := matchStep s x l
    let x1 := movePointers x c1
    let l2 := leftOver l c1
    let c2 := matchStep s x1 l2
    let c3 := matchStep s x1 (leftOver l2 c2)
    let many := fun (cs : List (List Req)) => cs.foldl (fun n c => n + c.length) 0
    let ctr := cinc (cinc (cinc x1.ctr 17 (many c1)) 18 (many c2)) 19 (many c3)
    let lone := l.any (fun r => r.key % 8 == 7 && !((c1 ++ c2 ++ c3).any (fun c => c.any (fun q => q.key == r.key))))
    let s1 := modFur f (fun y => { y with xb := { x1 with link := [], at_ := s.clk.edges + 8, ctr := ctr } }) (if lone then perfF f 0x302 1 s else s)
    (c1 ++ c2 ++ c3).foldl (fun s c => connect f bad c s) s1
def execCrossbarMatch (f : Furrow) (bad : List (Nat × Nat)) (s : State) : Host.Outcome State Fault Refusal :=
  if s.clk.coreStopped then .next s else
  .next (crossbarMatch (furNo f) bad s)

/-- A word that crossed is poisoned (R300). A copy at an output ends there, its last word or not; a deferred one is dropped (R363), and a mirror copy
goes on to its end, which is bad (R311). -/
def poisonLink (f : Nat) (w : LinkWord) (s : State) : State :=
  match if w.out < 64 then egCopy s w.out w.uid w.id else none with
  | none => s
  | some c =>
    if c.bad.isSome || c.got != w.word + 1 then s
    else if c.state = 2 then discardEg w.out c s
    else if c.mirror.isSome then countTail w.uid f 11 (modEg w.out w.uid w.id (fun y => { y with bad := some 11 }) s)
    else endEg w.out 11 1 c s

/-- The words of a frame that crossed last in furrow f, one toward each output (R301). -/
def lastCrossed (s : State) (f u : Nat) : List LinkWord :=
  let l := (fur s f).xb.link.filter (fun w => w.uid == u && !bit w.tag 5)
  l.filter (fun w => l.all (fun y => y.out != w.out || y.id != w.id || decide (y.word ≤ w.word)))

/-- The last words of a frame that crossed in furrow f are poisoned (R300), and the copy itself from there on, where it is still here and the word was
not a mirror copy's. -/
def poisonCrossed (f u : Nat) (s : State) : State :=
  let l := lastCrossed s f u
  let s1 := l.foldl (fun s w => poisonLink f w s) s
  let x := frame s1 u
  let h := if x.class_ = 7 then f else relHalf s1 x
  match l.find? (fun w => decide (w.id < 2)) with
  | some w => if (copyOf x h).isSome then poisonCopy u h (some w.word) s1 else s1
  | none => s1

/-- CROSSBAR_PARITY_ERROR: the copies whose words crossed in that drill clock are poisoned (R300). -/
def execCrossbarParityError (f : Furrow) (uids : List Nat) (s : State) : Host.Outcome State Fault Refusal :=
  if s.clk.coreStopped then .next s else
  let n := furNo f
  let s1 := raiseAlarm n 2 (fireFur n (xBase n + 1) 0 [] (xctr 21 1 n s))
  .next (uids.foldl (fun s u => poisonCrossed n u s) s1)

/-- TC7_WAIT_TIMEOUT: a TC7 head not matched within 1 us of its offer (R319). -/
def execTc7WaitTimeout (f : Furrow) (inp out : Nat) (s : State) : Host.Outcome State Fault Refusal :=
  if s.clk.coreStopped then .next s else
  let n := furNo f
  let key := laneKey inp out 7
  match laneOf s n key with
  | [] => .next s
  | e :: r =>
    match e.offered with
    | none => .next s
    | some o =>
      if e.moved != 0 || e.tc7Waited then .next s
      else
        let s1 := reachEdge (o + usE) s
        .next (fireFurMs n (xBase n + 6) 0 (toLE 1 inp ++ toLE 1 out) (setLane n key ({ e with tc7Waited := true } :: r) s1))

/-! ## Frames sent by host software (R308, R497) -/

/-- Is a transmit descriptor legal for a frame (R497). -/
def txDescOk (s : State) (d : List Byte) : Bool :=
  let n := le d 8 2
  let m := le d 16 8
  60 ≤ n && n ≤ 9212 && byteAt d 10 < 16 && reservedAt d 12 4 && reservedAt d 24 6 &&
  (if bit (byteAt d 10) 0 then decide (byteAt d 11 < nPorts s) else m != 0 && maskOk s m)

/-- A whole frame of the device or of host software begins to ask for its cells, in the half of slice 0 (R308). -/
def hostFrame (x : Frame) (a : Ask) (s : State) : State :=
  let h := homeHalf s 0
  let bytes := x.bytes
  { s with frames := tput s.frames s.nextUid { x with
             frameLen := bytes.length, start := s.clk.edges, tick := 1, ns := nowNs s, qns := nowQns s, bank := s.bankBit, lead := s.hl.lead
             arrUs := arrivalUs s, rxDone := true, limited := resLimit s x.class_ != 0, asks := some (h, a)
             copyA := if h = 0 then some { undecided := false } else none, copyB := if h = 1 then some { undecided := false } else none }
           nextUid := s.nextUid + 1 }

/-- The device sends a frame of its own, FCS not in f, to port p in class k: as a DIRECT frame through the HOST input (R308, R412; log 28). -/
def ownSend (p k : Nat) (f : List Byte) (y : Option PtpTx) (s : State) : State :=
  let body := f ++ zeros (60 - f.length)
  hostFrame { kind := 1, port := 0, bytes := body ++ toLE 4 (crc32 body), early := k, class_ := k, ptp := y } (.direct none (2 ^ p)) s

/-- The frame of a reply to an in-band command (R89, R90). -/
def inbandReplyFrame (s : State) (r : InbandReply) : List Byte :=
  toBE 6 r.dst ++ toBE 6 s.opt.mgmtMac ++ (match r.vlan with | some v => toBE 2 0x8100 ++ toBE 2 v | none => []) ++ toBE 2 0x88B5 ++ r.packet

/-- The oldest reply to an in-band command goes into a frame of class TC6 (R90). -/
def sendInband (s : State) : State :=
  match s.spi.inband with
  | [] => s
  | r :: l => ownSend r.port 6 (inbandReplyFrame s r) none { s with spi := { s.spi with inband := l } }

/-- The frame that a transmit descriptor d sends, with the frame bytes b of its buffer, and what follows once it is in the Granary (R497). -/
def txFrame (s : State) (d b : List Byte) : Frame :=
  let lookup := bit (byteAt d 10) 0
  let k := min 6 (bits (byteAt d 10) 3 1)
  let p := if lookup then byteAt d 11 else 0
  let body := slice b 0 (le d 8 2)
  let bytes := body ++ toLE 4 (crc32 body)
  { kind := if lookup then 2 else 1, port := p, bytes := bytes, early := if lookup then min 6 (earlyClass (port s p).cfg bytes) else k, class_ := k
    fidOff := (port s p).learn.fidOffset, domain := (port s p).cfg.streamDomain }
def txAsk (d : List Byte) (slot : Nat) : Ask := if bit (byteAt d 10) 0 then .lookup slot else .direct (some slot) (le d 16 8)

/-- The transmit ring is disabled by a PCIe error (R88, R496). -/
def hfrBroken (s : State) : State := hfrFault 3 4 (hfrTxEnable false s)

/-- HOST_FRAME_SEND: the descriptor at the transmit ring's head, and the frame bytes that its buffer holds, as the host's memory returns them; none for
a PCIe error. -/
def hostFrameSend (desc body : Option (List Byte)) (s : State) : State :=
  if !s.hfr.txEnable || !windowUp s || s.hfr.tx.cmdHead = s.hfr.tx.cmdTail then s
  else
    let slot := s.hfr.tx.cmdHead
    let taken := { s with hfr := { s.hfr with tx := { s.hfr.tx with cmdHead := (slot + 1) % max 1 s.hfr.tx.cmdSize.toNat } } }
    match desc with
    | none => hfrBroken s
    | some d =>
      if !txDescOk s d then hostTxDone slot 3 taken
      else match body with
        | none => hfrBroken s
        | some b => hostFrame (txFrame s d b) (txAsk d slot) taken
def execHostFrameSend (desc frame : Option (List Byte)) (s : State) : Host.Outcome State Fault Refusal :=
  if s.clk.coreStopped then .next s else
  .next (hostFrameSend desc frame s)

end Sys2Proof.Machine
end

