-- ==== Sys2Proof/Machine/Lanes.lean ====
section
/-! DEFINITION. Lanes: which lanes a port has, their alignment, their idle state and the soft transmit disable of their modules (spec/03
R95, R96, R99, R108; spec/04 R132). -/

namespace Sys2Proof.Machine

/-! ## Ports and lanes (R18, R95, R96) -/

def modLink (p : Nat) (g : LinkState → LinkState) (s : State) : State := modPort p (fun x => { x with link := g x.link }) s

/-- Modes of ports that connect to an external PHY (R97). -/
def phyMode (m : Nat) : Bool := m == 3 || m == 5 || m == 6
/-- Modes for which BRINGUP counts (R104). -/
def stepMode (m : Nat) : Bool := m == 2 || m == 4 || m == 7 || m == 8
def stepping (c : PortCfg) : Bool := c.bringup == 1 && stepMode c.mode

/-- The lanes of a port. -/
def lanesOf (s : State) (p : Nat) : List Nat :=
  match (port s p).cfg.mode with
  | 9 => (List.range 4).map (p + ·)
  | 5 => [p / 4 * 4]
  | _ => [p]

/-- The ports that a lane carries. -/
def portsOfLane (s : State) (m : Nat) : List Nat :=
  let q := m / 4 * 4
  let c := (port s q).cfg
  if c.configured && c.mode = 9 then [q]
  else if c.configured && c.mode = 5 then (if m = q then (List.range 4).map (q + ·) else [])
  else [m]

/-- The port that keeps the lane counters of a port (R119). -/
def laneCtrPort (s : State) (p : Nat) : Nat := if (port s p).cfg.mode = 5 then p / 4 * 4 else p

/-- Is a lane of the part, and not one that a QSGMII lane powers down (R7, R96). -/
def laneExists (s : State) (m : Nat) : Bool :=
  decide (m < nPorts s) && !(m % 4 != 0 && (port s (m / 4 * 4)).cfg.configured && (port s (m / 4 * 4)).cfg.mode == 5)
/-- Does a configured port use a lane. -/
def laneUsed_ (s : State) (m : Nat) : Bool := (portsOfLane s m).any (fun p => (port s p).cfg.configured)

/-! ## Holding down (R76, R108, R141) -/

/-- Does the device forward (R76). -/
def forwarding (s : State) : Bool := s.dev.state == 4 || s.dev.state == 5

/-- Does a retired module hold a port down. -/
def retiredPort (s : State) (p : Nat) : Bool := (lanesOf s p).any (fun m => (module s (cageOf s m)).held)

/-- Is a port held down, as PORT_STATUS shows it. -/
def shownHeld (s : State) (p : Nat) : Bool := let l := (port s p).link; l.heldDown || retiredPort s p || !l.enabled || !forwarding s

/-! ## Modules: the I2C masters and the hours counted (R129, R135) -/

/-- A transaction with the cage of a lane: with a multiplexer, its channel is selected for it and deselected afterwards. -/
def i2cOp (m : Nat) (go : State → State) (s : State) : State :=
  let k := m / 8
  let select := fun (v : Nat) (s : State) => emitOut (.i2cMux k v) (modMaster k (fun x => { x with channel := v }) s)
  if (master s k).mux then select 0 (go (select (2 ^ (m % 8)) s)) else go s

/-- The lanes that a module covers. -/
def moduleLanes (x : Module) (c : Nat) : List Nat := if x.identifier = 0x11 then (List.range 4).map (c + ·) else [c]
/-- Are the lasers of a module on: one of its lanes has its soft transmit disable clear, and a port that is enabled and not held down: with several ports, any one
of them (log 78). -/
def laserOn (s : State) (c : Nat) : Bool :=
  let x := module s c
  (moduleLanes x c).any (fun m => !bit x.softDisable (m - c) && (portsOfLane s m).any (fun p => (port s p).link.enabled && !shownHeld s p))

/-- The whole seconds since the last count are credited to a module, before what its lasers depend on changes. -/
def creditModule (c : Nat) (s : State) : State :=
  let n := (s.clk.edges - (module s c).countedAt) / secE
  if !(module s c).present || n = 0 then s
  else
    let on := laserOn s c
    modModule c (fun x => { x with countedAt := x.countedAt + n * secE, poweredSec := x.poweredSec + n, laserSec := if on then x.laserSec + n else x.laserSec }) s
def creditPort (p : Nat) (s : State) : State := (lanesOf s p).foldl (fun s m => creditModule (cageOf s m) s) s

/-! ## Soft transmit disable of a module (R108, R132) -/

/-- The module of a lane is told to disable, or to enable, its transmitter. -/
def softTx (m : Nat) (off : Bool) (s0 : State) : State :=
  let c := cageOf s0 m
  let s := creditModule c s0
  let x := module s c
  if !x.present || !(x.identifier == 0x11 || x.identifier == 0x03) || (master s (c / 8)).faulted then s
  else
    let v := setBit x.softDisable (m - c) off
    let s1 := modModule c (fun x => { x with softDisable := v }) s
    if v = x.softDisable then s1
    else i2cOp c (emitOut (if x.identifier = 0x11 then .i2cWrite c 0 86 (toLE 1 v) else .i2cWrite c 0x51 110 (toLE 1 (64 * v)))) s1
def softPort (p : Nat) (off : Bool) (s : State) : State := (lanesOf s p).foldl (fun s m => softTx m off s) s

def setLanes (p : Nat) (g : Lane → Lane) (s : State) : State := (lanesOf s p).foldl (fun s m => modLane m g s) s


/-! ## Block alignment (R99) -/

/-- The modes of 64b/66b coding (R95). -/
def coded64 (m : Nat) : Bool := 6 ≤ m && m ≤ 9

/-- A valid sync header: 0b01 or 0b10. -/
def syncHeader (h : Nat) : Bool := h == 1 || h == 2

/-- A lane loses lock: the hunt begins anew at the present bit offset. -/
def unlock (x : Lane) : Lane := { x with lock := false, aligned := false, run := 0, seen := [] }

/-- A header at the present bit offset: an invalid one slips the hunt by one bit, 64 valid ones in a row lock it, and 16 invalid ones of any 64
unlock it. -/
def hunt (x : Lane) (h : Nat) : Lane :=
  if x.lock then
    let l := (syncHeader h :: x.seen).take 64
    if 16 ≤ (l.filter (fun v => !v)).length then unlock x else { x with seen := l }
  else if !syncHeader h then { x with offset := (x.offset + 1) % 66, run := 0 }
  else if x.run + 1 = 64 then { x with lock := true, run := 0, seen := [] }
  else { x with run := x.run + 1 }

/-- Invalid headers in a window of the high error ratio rule that make it hold: 16 in Clause 49, 97 in Clauses 82 and 107 (log 43). -/
def berLimit (m : Nat) : Nat := if m = 8 || m = 9 then 97 else 16

/-- Do all lanes of a port hold lock, and on a four-lane port alignment. -/
def portLocked (s : State) (p : Nat) : Bool := (lanesOf s p).all (fun m => (lane s m).lock && ((port s p).cfg.mode != 9 || (lane s m).aligned))

/-! ## Electrical idle (R108, R123) -/

/-- Does a port keep nothing on its lane: held down or disabled, with no frame in transmission. -/
def portQuiet (s : State) (p : Nat) : Bool :=
  let x := port s p
  (x.link.heldDown || !x.link.enabled) && x.drill.tx.isNone && x.drill.held.isNone

/-- The lane of a port goes to electrical idle once the last of its ports is quiet; the soft transmit disable of its module is set. -/
def laneIdle (p : Nat) (s : State) : State :=
  if (portsOfLane s ((lanesOf s p).headD p)).all (portQuiet s) then softPort p true (setLanes p unlock s) else s

/-- A held-down port's transmitter goes idle once its last frame is out (R108). -/
def txIdle (p : Nat) (s : State) : State :=
  let x := port s p
  if x.link.heldDown && x.drill.tx.isNone && x.drill.held.isNone then laneIdle p (modLink p (fun l => { l with txUp := false }) s) else s

end Sys2Proof.Machine
end

