-- ==== Sys2Proof/Machine/Drill.lean ====
section
/-! DEFINITION. The Drill: start opportunities, the weighted group, time gates, preemption, and the end of a transmission (spec/10 R322-R328,
R339-R347, R352-R358; spec/03 R107, R113; spec/09 R305, R315-R318; spec/11 R363). -/

namespace Sys2Proof.Machine

/-! ## The bytes that a port transmits (R113, R315, R368, R370, R371, R447) -/

/-- Bytes put into a frame at an offset. -/
def insertBytes (o : Nat) (new b : List Byte) : List Byte := b.take o ++ new ++ b.drop o
/-- n bytes taken out at an offset. -/
def removeBytes (o n : Nat) (b : List Byte) : List Byte := b.take o ++ b.drop (o + n)

/-- What a port changes in the frames of a copy: RCT, HSR tag and R-TAG to remove and to add. -/
structure Edits where
  tagEnd : Nat := 12
  rctOff : Bool := false
  hsrOff : Bool := false
  rtagOff : Bool := false
  rtagOn : Option Nat := none
  hsrOn : Option (Nat × Nat) := none
  rctOn : Option (Nat × Nat) := none

/-- The edits of a copy at a port. Mirror copies are sent as the Granary holds them. -/
def editsOf (s : State) (p : Nat) (c : EgCopy) (x : Frame) : Edits :=
  if c.mirror.isSome then {}
  else
    let ps := winParse s c.fur x
    let seqOf := fun n => (x.netSeq.find? (fun e => e.1 == n)).map (·.2)
    let rx := x.kind == 0
    let h := match decOf x c.fur with | some d => d.handle | none => 0
    { tagEnd := 12 + 4 * ps.tags
      rctOff := prpApplies s p x ps && (match netOf s x.port with | some (n, _) => bit (prpNet s n).flags 1 | none => false)
      hsrOff := rx && (ringOf s x.port).isSome && (ringOf s p).isNone && (netOf s p).isNone && hasHsr ps
      rtagOff := h != 0 && (rtagOf ps x).isSome && (match frer s (frerKey h p) with | some r => bit r.flags 1 | none => false)
      rtagOn := x.rtag
      hsrOn := match ringOf s p with | some (r, side) => (seqOf (16 + r)).map (fun q => (side, q)) | none => none
      rctOn := match netOf s p with | some (n, lan) => (seqOf n).map (fun q => (lan, q)) | none => none }

/-- Bytes that the edits add. -/
def Edits.added (e : Edits) : Nat := 6 * (b2n e.rtagOn.isSome + b2n e.hsrOn.isSome + b2n e.rctOn.isSome)

/-- The frame bytes without their FCS after the edits; whole: the trailer's place is there. -/
def editBody (e : Edits) (hsr whole : Bool) (b0 : List Byte) : List Byte :=
  let b1 := if e.rctOff && whole then b0.take (b0.length - 6) else b0
  let t := e.tagEnd + (if hsr then 6 else 0)
  let b2 := if e.rtagOff then removeBytes t 6 b1 else b1
  let b3 := match e.rtagOn with | some q => insertBytes t (toBE 2 0xF1C1 ++ zeros 2 ++ toBE 2 q) b2 | none => b2
  let b4 := if e.hsrOff then removeBytes e.tagEnd 6 b3 else b3
  let b5 := match e.hsrOn with
    | some (side, q) => insertBytes e.tagEnd (toBE 2 0x892F ++ toBE 2 (side * 4096 + (b4.length + 4 - e.tagEnd) % 4096) ++ toBE 2 q) b4
    | none => b4
  match e.rctOn with
  | some (lan, q) => if whole then b5 ++ toBE 2 q ++ toBE 2 ((0xA + lan) * 4096 + (b5.length + 4 - e.tagEnd) % 4096) ++ toBE 2 0x88FB else b5
  | none => b5

/-- A bad tail (R315): what was transmitted, padded to 60 bytes, and the complement of its FCS. -/
def badTail (b : List Byte) : List Byte :=
  let t := b ++ zeros (60 - b.length)
  t ++ toLE 4 (crc32 t ^^^ 0xFFFFFFFF)
def goodTail (b : List Byte) : List Byte := b ++ toLE 4 (crc32 b)

/-- What a one-step port writes into a PTP frame as it transmits it (R413): originTimestamp, or the time since ingress into
correctionField. -/
def oneStepEdit (x : Frame) (b : List Byte) : List Byte :=
  match x.ptp with
  | none => b
  | some y =>
    match y.stamped with
    | none => b
    | some q =>
      if !y.oneStep then b
      else
        let o := 14 + 4 * earlyTags b
        if y.addCorr then overlay b (o + 8) (toBE 8 (unsigned 64 (signed 64 (be b (o + 8) 8) + ((q : Int) - y.ingress) * 2 ^ 14)))
        else overlay b (o + 34) (toBE 6 (q / 4 / 1000000000) ++ toBE 4 (q / 4 % 1000000000))

/-- The frame bytes that an egress copy holds: those received, with the words of its Granary copy that were accepted with wrong data (R43). -/
def egBytes (p : Nat) (c : EgCopy) (x : Frame) : List Byte :=
  let b := effBytes x
  (x.wrong.foldl (fun b w => if (x.early != 7 || w.half == c.fur) && !w.had.contains (p, c.id) then overlay b (32 * (w.word - 1)) (toLE 32 w.value) else b) b).take
    b.length

/-- The bytes that a port sends for a copy whose last word is here, and whether they end good. -/
def txImage (s : State) (p : Nat) (c : EgCopy) : List Byte × Bool :=
  let x := frame s c.uid
  let all := oneStepEdit x ((egBytes p c x).take (c.total.getD (effBytes x).length))
  match c.mirror with
  | some (_, n) =>
    if n != 0 && decide (n < all.length) then
      (if c.cutBad then (badTail (all.take (n - 4)), false) else (goodTail (all.take (n - 4)), true))
    else if c.bad.isSome then (badTail all, false) else (all, true)
  | none =>
    let e := editsOf s p c x
    let hsr := hasHsr (winParse s c.fur x)
    if c.bad.isSome then (badTail (editBody e hsr false all), false)
    else (goodTail (editBody e hsr true (all.take (all.length - 4))), true)

/-- The length that the MAC tests (R113): the frame as it will be sent, or E and the added bytes while it is not complete; a truncated mirror copy goes
to its truncation length (R447). -/
def txLen (s : State) (p : Nat) (c : EgCopy) : Nat :=
  let cut := fun (n : Nat) => match c.mirror with | some (_, m) => if m = 0 then n else min m n | none => n
  if c.closed then (txImage s p c).1.length
  else cut <| expectOf s (frame s c.uid) + (editsOf s p c (frame s c.uid)).added

/-! ## Time gates (R339-R342) -/

/-- The spans of a cycle from entry i at offset t: gate states, start and end. -/
def spansFrom (g : GateList) : Nat → Nat → Nat → List (Nat × Nat × Nat)
  | 0, _, _ => []
  | n + 1, i, t =>
    let e := tget (0, 0) g.entries i
    if g.cycle ≤ t then [] else (e.1, t, if n = 0 then g.cycle else min g.cycle (t + e.2)) :: spansFrom g n (i + 1) (t + e.2)
def spans (g : GateList) : List (Nat × Nat × Nat) := spansFrom g g.length 0 0
/-- The position of a time in the cycle. -/
def gatePos (g : GateList) (ns : Nat) : Nat := (((ns : Int) - g.base) % (g.cycle : Int)).toNat

/-- The entry in force at a position: its index and gate states. -/
def gateEntry (g : GateList) (pos : Nat) : Nat × Nat :=
  let i := ((spans g).filter (fun e => e.2.2 ≤ pos)).length
  (i, (tget (0, 0) g.entries i).1)

/-- Nanoseconds from a position until the first later time at which class k is closed; none if never. -/
def closeIn (g : GateList) (k pos : Nat) : Option Nat :=
  ((((spans g).filter (fun e => decide (pos < e.2.2))) ++ (spans g).map (fun e => (e.1, e.2.1 + g.cycle, e.2.2 + g.cycle))).find?
    (fun e => !bit e.1 k)).map (fun e => e.2.1 - pos)

/-- The pending list as a commit gives it its times. -/
def pendingList (d : Drill) (c : GateCommit) : GateList := { d.pend with length := c.length, base := c.base, cycle := c.cycle }
/-- The list that a commit makes active: none for LENGTH 0. -/
def commitList (d : Drill) (c : GateCommit) : Option GateList := if c.length = 0 then none else some (pendingList d c)

/-- When a pending list takes over (R342). -/
def takeoverNs (d : Drill) (c : GateCommit) : Nat :=
  match d.active with
  | none => c.at_
  | some g => c.at_ + (g.cycle - gatePos g c.at_) % g.cycle

def gateStates (s : State) (p : Nat) : Nat :=
  match (port s p).drill.active with
  | none => 0xFF
  | some g => (gateEntry g (gatePos g (nowNs s))).2

/-- Nanoseconds from now until the gate of class k closes, across a pending change; none if it never does. -/
def gateClose (s : State) (p k : Nat) : Option Nat :=
  let d := (port s p).drill
  let now := nowNs s
  let a := match d.active with | none => none | some g => closeIn g k (gatePos g now)
  match d.commit with
  | none => a
  | some c =>
    let t := takeoverNs d c
    let later := match commitList d c with | none => none | some g => (closeIn g k (gatePos g t)).map (fun n => n + (t - now))
    match a with
    | none => later
    | some n => if n < t - now then some n else later

/-- Device clock edges until the gate of class k closes. -/
def gateCloseEdges (s : State) (p k : Nat) : Option Nat := (gateClose s p k).map (fun n => edgesToNs (nowNs s + n) s)

/-- Does a head of expected length e end before its gate closes (R340). -/
def gateFits (s : State) (p k e : Nat) : Bool :=
  match gateCloseEdges s p k with
  | none => true
  | some n => decide (ceilDiv ((8 + e) * portTick s p) 10 ≤ n)

/-- The longest open span W_k of class k in nanoseconds; none: it is always open (R341). -/
def gateSpan (g : GateList) (k : Nat) : Option Nat :=
  if (spans g).all (fun e => bit e.1 k) then none
  else some ((spans g ++ spans g).foldl (fun (a : Nat × Nat) e =>
    let c := if bit e.1 k then a.1 + (e.2.2 - e.2.1) else 0
    (c, max a.2 c)) (0, 0)).2

/-- Can a head never fit. -/
def neverFits (s : State) (p k e : Nat) : Bool :=
  match (port s p).drill.active with
  | none => false
  | some g => match gateSpan g k with | none => false | some w => decide (w * 100 < (8 + e) * portTick s p * 8)

/-- A list with every gate open. -/
def openGates (g : GateList) : GateList := { g with entries := g.entries.map (fun e => (e.1, (0xFF, e.2.2))) }

/-- An uncorrectable gate list word, of the pending list or of the active one: every gate of that list opens (R336). -/
def gateListFault (p : Nat) (pending : Bool) (s : State) : State :=
  drillFind p 0x27 [] (modDrill p (fun d =>
    if pending then { d with pend := openGates d.pend } else { d with active := d.active.map openGates }) (memUnc 32 s))

/-- The time base has stepped: every active list finds its position anew (R343). -/
def gateStep (s : State) : State :=
  (s.ports.filter (fun e => e.2.drill.active.isSome)).foldl (fun s e => drillFind e.1 0x21 [] (dctr 11 e.1 s)) s

/-- When the gate interval in force at a port ends: none without an active list. -/
def nextGateNs (s : State) (p : Nat) : Option Nat :=
  (port s p).drill.active.map (fun g =>
    let pos := gatePos g (nowNs s)
    nowNs s + ((match (spans g).find? (fun e => decide (pos < e.2.2)) with | some e => e.2.2 | none => g.cycle) - pos))

/-- GATE_TRANSITION: the interval in force ends; the slice wakes 1 us ahead (R33, R342). -/
def execGateTransition (p : Nat) (s : State) : Host.Outcome State Fault Refusal :=
  if s.clk.coreStopped then .next s else
  match nextGateNs s p with
  | none => .next s
  | some t => .next (reachNs t (touchPort p false (reachNs (t - 1000) s)))

/-- GATE_LIST_TAKEOVER: the two lists change places (R342, R357). -/
def execGateListTakeover (p : Nat) (s : State) : Host.Outcome State Fault Refusal :=
  if s.clk.coreStopped then .next s else
  let d := (port s p).drill
  match d.commit with
  | none => .next s
  | some c =>
    let s1 := reachNs (takeoverNs d c) s
    let s2 := modDrill p (fun d => { d with active := commitList d c, idle := pendingList d c, pend := d.active.getD d.idle, commit := none }) s1
    .next (complete c.ticket stOk (toLE 8 (nowT64 s1) ++ toLE 2 c.length ++ zeros 6) (drillFind p 0x20 [] (touchPort p false s2)))

/-! ## Preemption (R344, R345, R347) -/

/-- The settings in force: a change waits until no preempted frame is outstanding. -/
def preNow (d : Drill) : Preempt := d.preOld.getD d.pre
def preActive (s : State) (p : Nat) : Bool :=
  let x := port s p
  let y := preNow x.drill
  y.enable && x.link.txUp && x.link.rxUp && (y.verifyDisable || y.state == 2)

/-- Verification starts, at a link-up and at a PREEMPT_SET with ENABLE (R345). -/
def verifyStart (p : Nat) (s : State) : State :=
  modDrill p (fun d => { d with pre := { d.pre with state := if d.pre.enable && !d.pre.verifyDisable then 1 else 0, sends := 0, sentAt := s.clk.edges } }) s

/-- VERIFY_TIMER: the next verify mPacket, or the failure after three. -/
def execVerifyTimer (p : Nat) (s : State) : Host.Outcome State Fault Refusal :=
  if s.clk.coreStopped then .next s else
  let y := (port s p).drill.pre
  if y.state != 1 || !(port s p).link.txUp then .next s
  else
    let s1 := reachEdge (y.sentAt + (if y.sends = 0 then 0 else y.verifyTime * msE)) s
    if y.sends < 3 then
      .next (emitOut (.control p [0x07]) (dctr 14 p
        (modDrill p (fun d => { d with pre := { d.pre with sends := d.pre.sends + 1, sentAt := s1.clk.edges } }) s1)))
    else .next (drillFind p 0x23 [] (modDrill p (fun d => { d with pre := { d.pre with state := 3 } }) s1))

def execVerifyRespondRx (p : Nat) (s : State) : Host.Outcome State Fault Refusal :=
  if s.clk.coreStopped then .next s else
  let y := (port s p).drill.pre
  .next (if y.state = 1 && y.sends != 0 then drillFind p 0x22 [] (modDrill p (fun d => { d with pre := { d.pre with state := 2 } }) s) else s)

def execVerifyMpacketRx (p : Nat) (s : State) : Host.Outcome State Fault Refusal :=
  if s.clk.coreStopped then .next s else
  .next (if (port s p).drill.pre.enable && (port s p).link.rxUp then emitOut (.control p [0x19]) s else s)

/-! ## Start opportunities (R322-R328) -/

def headOf (s : State) (p k : Nat) : Option EgCopy :=
  match egQueue s p k with
  | [] => none
  | (u, i) :: _ => egCopy s p u i

/-- A copy is discarded at dequeue, counted by counter k of the MAC. -/
def dropHead (p : Nat) (c : EgCopy) (k : Nat) (s : State) : State := discardEg p c (macCtr p k 1 s)

/-- Heads that can never fit their gate are discarded (R341). -/
def gatePurge (p k : Nat) : Nat → State → State
  | 0, s => s
  | n + 1, s =>
    match headOf s p k with
    | none => s
    | some c => if neverFits s p k (expectOf s (frame s c.uid)) then gatePurge p k n (discardEg p c (drillFind p 0x25 (toLE 1 k) (dctr 9 p s))) else s

/-- May a class start its head, but for its shaper and the fit: the conditions of R323 that count nothing. -/
def classReady (s : State) (p k : Nat) : Bool :=
  let d := (port s p).drill
  let free := match d.held with
    | none => true
    | some (u, i) => bit (preNow d).express k || (match egCopy s p u i with | some c => c.cls == k | none => true)
  free && (headOf s p k).isSome && !paused s p k && bit (gateStates s p) k

/-- The class of the outstanding preempted frame, if its next word is here. -/
def heldClass (s : State) (p : Nat) : Option Nat :=
  match (port s p).drill.held with
  | none => none
  | some (u, i) => (egCopy s p u i).bind (fun c => if c.closed || c.sent < (c.got - 1) * 32 then some c.cls else none)

/-- Is a class eligible (R323): the next fragment of its preempted frame asks no gate and no pause (R347). SHAPER_DEFERRALS and GATE_DEFERRALS count
what bars it. only: the classes considered. -/
def eligible (p : Nat) (only : Nat → Bool) (k : Nat) (s : State) : Bool × State :=
  let next := heldClass s p == some k
  let waits := ((port s p).drill.held.bind (fun h => egCopy s p h.1 h.2)).any (fun c => c.cls == k)
  if !only k || (!next && (waits || !classReady s p k)) then (false, s)
  else
    let h := classShaper s p k
    if k < 7 && h.rate != 0 && decide (h.t < 0) then
      (false, if bit (port s p).drill.shapeCounted k then s
        else dctr 15 p (modDrill p (fun d => { d with shapeCounted := setBit d.shapeCounted k true }) s))
    else if next then (true, s)
    else
      match headOf s p k with
      | none => (false, s)
      | some c =>
        if gateFits s p k (expectOf s (frame s c.uid)) then (true, s)
        else (false, if c.gateCounted then s else dctr 8 p (modEg p c.uid c.id (fun c => { c with gateCounted := true }) s))

def drrQuantum (d : Drill) (k : Nat) : Nat := (tget? d.quantum k).getD 1536

/-- pick_group of R326. -/
def pickGroup (elig queued : Nat → Bool) : Nat → Drill → Option Nat × Drill
  | 0, d => (none, d)
  | n + 1, d =>
    let k := d.round
    let v := tget 0 d.deficit k
    if elig k && decide (0 < v) then (some k, d)
    else
      let w : Int := if elig k then v + drrQuantum d k else if queued k then v else 0
      pickGroup elig queued n { d with deficit := tset 0 d.deficit k w, round := (k + 1) % 5 }

/-- The class that the Drill serves next (R324). -/
def chooseClass (p : Nat) (only : Nat → Bool) (s : State) : Option Nat × State :=
  let r := [7, 6, 5, 4, 3, 2, 1, 0].foldl (fun (a : List Nat × State) k => let (b, s1) := eligible p only k a.2; (if b then k :: a.1 else a.1, s1)) ([], s)
  match [7, 6, 5].find? (fun k => r.1.contains k) with
  | some k => (some k, r.2)
  | none =>
    if r.1.isEmpty then (none, r.2)
    else
      let d := (port r.2 p).drill
      let queued := fun k => !(egQueue r.2 p k).isEmpty || heldClass r.2 p == some k
      let (k, d1) := pickGroup (fun k => r.1.contains k) queued 4096 d
      (k, modDrill p (fun _ => d1) r.2)

/-- The edge of the first frame byte of a fragment. -/
def firstByte (s : State) (p : Nat) (t : Tx) : Nat := t.start + ceilDiv (8 * portTick s p) 10

/-- A class's shaper and deficit pay for n frame bytes sent from edge e on: T is refilled, and capped, up to there first (R326-R328). -/
def payBytes (p k n e : Nat) (s : State) : State :=
  modDrill p (fun d => { d with
    shapers := if k < 7 && tmem d.shapers k then tput d.shapers k (shaperTake n (shaperAt (min e s.clk.edges) (tget {} d.shapers k))) else d.shapers
    deficit := if k < 5 then tmod 0 d.deficit k (fun v => v - n) else d.deficit }) s

/-- Frame bytes of the fragment in transmission sent by now. -/
def sentNow (s : State) (p : Nat) (t : Tx) : Nat := (s.clk.edges - t.start) * 10 / portTick s p - 8

/-- The class in transmission has paid for every byte sent by now (R326, R328). -/
def settlePay (p : Nat) (s : State) : State :=
  match (port s p).drill.tx with
  | none => s
  | some t =>
    match egCopy s p t.uid t.id with
    | none => s
    | some c =>
      let n := min (sentNow s p t) ((if c.closed then (txImage s p c).1.length else (c.got - 1) * 32) - c.sent)
      modDrill p (fun d => { d with tx := d.tx.map (fun t => { t with paid := max t.paid n }) }) (payBytes p c.cls (n - t.paid) (firstByte s p t) s)

/-- The stamp FIFO of a port takes the egress stamp of a two-step frame; a full one loses it (R415). -/
def pushStamp (p : Nat) (y : PtpTx) (q : Nat) (s : State) : State :=
  let x := tget {} s.tim.ptp p
  let t := t64OfNs (q / 4)
  let put := fun (g : PtpPort → PtpPort) (s : State) => { s with tim := { s.tim with ptp := tmod {} s.tim.ptp p g } }
  if x.fifo.length < 64 && x.marker.isNone then
    put (fun x => { x with fifo := x.fifo ++ [{ t64 := t, q := q % 4, kind := y.kind, seq := y.seq, domain := y.domain, src := y.src }] }) s
  else
    let s1 := put (fun x => { x with
      stampsLost := wrap32 (x.stampsLost + 1)
      marker := some (match x.marker with
        | some m => { m with lost := satAdd 65535 m.lost 1 }
        | none => { marker := true, t64 := t, seq := y.seq, domain := y.domain, lost := 1 }) }) s
    fireMs p 0x188 0 (toLE 1 p ++ toLE 2 (match x.marker with | some m => m.seq | none => y.seq)) s1

/-- The first bit of a frame with a stamp request leaves: the time base at its message timestamp point (R413-R415). -/
def stampTx (p u : Nat) (s : State) : State :=
  match (frame s u).ptp with
  | none => s
  | some y =>
    let q := (ingressTb s (portTick s p) * 4 / tbuPerNs)
    let s1 := modFrame u (fun x => { x with ptp := some { y with stamped := some q } }) s
    if y.oneStep then s1 else pushStamp p y q s1

/-- The transmitter takes a copy: the head of its queue, or the next fragment of the preempted frame. -/
def startTx (p : Nat) (c : EgCopy) (s : State) : State :=
  let e := s.clk.edges
  let k := c.cls
  let s1 := modDrill p (fun d => { d with
    tx := some { uid := c.uid, id := c.id, start := e }, held := if c.state = 5 then none else d.held, shapeCounted := if c.state = 5 then d.shapeCounted else 0
    queues := tset [] d.queues k ((tget [] d.queues k).filter (fun q => !(q.1 == c.uid && q.2 == c.id)))
    shapers := if tmem d.shapers k then tput d.shapers k (shaperAt e (tget {} d.shapers k)) else d.shapers }) s
  let cl := if c.state = 5 then c.close else (gateCloseEdges s p k).map (· + e)
  let s2 := touchPort p (k == 7) (modEg p c.uid c.id (fun c => { c with state := 4, close := cl }) s1)
  if c.state = 5 then dctr 13 p s2
  else if c.mirror.isNone && (frame s2 c.uid).ptp.isSome then stampTx p c.uid s2
  else if k = 7 then
    modDrill p (fun d => { d with ctr := tset 0 d.ctr 16 (max (tget 0 d.ctr 16) (min 0xFFFFFFFF ((e - c.firstAt) * 4 / 5))) }) s2
  else s2

/-- The choice and the start; heads that fail a test at dequeue are discarded and the choice is made again (R107, R113). -/
def startNext (p : Nat) (only : Nat → Bool) : Nat → State → State
  | 0, s => s
  | n + 1, s =>
    let (k, s1) := chooseClass p only s
    match k with
    | none => s1
    | some k =>
      match (if heldClass s1 p = some k then (port s1 p).drill.held.bind (fun h => egCopy s1 p h.1 h.2) else headOf s1 p k) with
      | none => s1
      | some c =>
        if c.state != 5 && decide ((port s1 p).cfg.maxFrame < txLen s1 p c) then
          startNext p only n (dropHead p c 46 (match c.mirror with | some (i, _) => mirrorDrop i s1 | none => s1))
        else startTx p c s1

/-- The copies queued at a port: what bounds its discards. -/
def queuedCopies (s : State) (p : Nat) : Nat := (port s p).drill.buf.length

/-- Every head of a port whose receive or transmit link is down (log 44), or that is held down, is discarded (R107). -/
def purgeDown (p : Nat) : Nat → State → State
  | 0, s => s
  | n + 1, s =>
    match (List.range 8).findSome? (fun k => headOf s p k) with
    | none => s
    | some c => purgeDown p n (dropHead p c 45 s)

/-- The inter-frame gap of 12 bytes follows n bytes, preamble included, sent from edge e on. -/
def gapAfter (p e n : Nat) (s : State) : State := modDrill p (fun d => { d with freeAt := e + ceilDiv ((n + 12) * portTick s p) 10 }) s

/-- An express head preempts the frame in transmission, if that yields two legal fragments (R344). -/
def preemptTx (p : Nat) (s : State) : State :=
  let d := (port s p).drill
  match d.tx with
  | none => s
  | some t =>
    match egCopy s p t.uid t.id with
    | none => s
    | some c =>
      let y := preNow d
      let express := fun k => bit y.express k
      if !preActive s p || express c.cls || d.held.isSome then s
      else
        match chooseClass p express s with
        | (none, _) => s
        | (some _, _) =>
          let n := max (sentNow s p t) ((1 + y.addFrag) * 64 - 4)
          if txLen s p c < c.sent + n + 64 || (!c.closed && decide ((c.got - 1) * 32 < c.sent + n)) then s
          else
            let s1 := modDrill p (fun d => { d with tx := none, held := some (c.uid, c.id) })
              (modEg p c.uid c.id (fun c => { c with state := 5, sent := c.sent + n, frags := c.frags + 1 }) s)
            gapAfter p t.start (12 + n) (dctr 12 p (payBytes p c.cls (n - t.paid) (firstByte s1 p t) s1))

/-- DRILL_START_OPPORTUNITY: the inter-frame gap is over, or an idle transmitter finds a head, or an express head meets a preemptable frame. -/
def startOpportunity (p : Nat) (s0 : State) : State :=
  let s1 := preemptTx p s0
  let d := (port s1 p).drill
  if d.tx.isSome then s1
  else
    let s2 := reachEdge d.freeAt s1
    let s3 := if d.held.isNone then modDrill p (fun d => { d with preOld := none }) s2 else s2
    let l := (port s3 p).link
    let up := l.rxUp && !l.heldDown
    if !l.txUp || (!up && d.held.isNone) then purgeDown p (queuedCopies s3 p) s3
    else
      let s4 := (List.range 8).foldl (fun s k => gatePurge p k (queuedCopies s p) s) s3
      let held := (d.held.bind (fun h => egCopy s4 p h.1 h.2)).map (·.cls)
      startNext p (fun k => up || held == some k) (queuedCopies s4 p + 1) s4
def execDrillStartOpportunity (p : Nat) (s : State) : Host.Outcome State Fault Refusal :=
  if s.clk.coreStopped then .next s else
  .next (startOpportunity p s)

/-! ## The end of a transmission (R305, R315, R318, R363) -/

/-- What the MAC and the Drill count of a frame sent (R119, R352). -/
def countTx (p : Nat) (c : EgCopy) (b : List Byte) (good : Bool) (s : State) : State :=
  let n := b.length
  let s1 := macCtr p (daCtr 31 b) 1 (macCtr p 30 1 (macCtr p 29 n s))
  let s2 := if n < 64 then s1 else macCtr p (sizeBucket 36 n) 1 s1
  let s3 := if good then s2 else macCtr p 43 1 s2
  dctr c.cls p (if c.frags = 0 then s3 else macCtr p 44 1 s3)

/-- The code that ends a bad tail on a port's PCS (R316; log 69): an /E/ block and a terminate block, /V/T/R/, or the symbols /H/T/R/. -/
def badTailCode (mode : Nat) : List Byte :=
  if coded64 mode then toLE 1 0x1E ++ toLE 7 ((List.range 8).foldl (fun v i => v + 0x1E * 2 ^ (7 * i)) 0) ++ toLE 1 0x87 ++ zeros 7
  else if mode = 1 then [0x04, 0x0D, 0x07]
  else [0xFE, 0xFD, 0xF7]

/-- A copy has left the transmitter: bytes b, of which n in this fragment. -/
def finishTx (p : Nat) (t : Tx) (c : EgCopy) (b : List Byte) (good : Bool) (s0 : State) : State :=
  let n := b.length - c.sent
  let s := reachEdge (t.start + ceilDiv ((8 + n) * portTick s0 p) 10) s0
  let past := match c.close with | some e => decide (e < s.clk.edges) | none => false
  let s1 := gapAfter p t.start (8 + n) (modDrill p (fun d => { d with tx := none }) (payBytes p c.cls (n - t.paid) (firstByte s p t) s))
  let s2 := countTx p c b good (if past then dctr 10 p s1 else s1)
  let sent := emitOut (.frame p b good) s2
  let s3 := pauseBegin p (if good then sent else emitOut (.control p (badTailCode (modeOf s0 p))) sent)
  txIdle p (winOutcome p c good (removeEg p c s3))

/-- TX_FRAME_END: the last byte of the frame in transmission is out; a frame that outgrows MAX_FRAME ends there (R113). -/
def txFrameEnd (p : Nat) (s : State) : State :=
  match (port s p).drill.tx with
  | none => s
  | some t =>
    match egCopy s p t.uid t.id with
    | none => modDrill p (fun d => { d with tx := none }) s
    | some c =>
      let most := (port s p).cfg.maxFrame
      let x := frame s c.uid
      let part := editBody (editsOf s p c x) (hasHsr (winParse s c.fur x)) false ((egBytes p c x).take ((c.got - 1) * 32))
      let im := if c.closed then txImage s p c else (part, true)
      if most < im.1.length then
        finishTx p t c (badTail (im.1.take most)) false (countTail c.uid c.fur 7 (macCtr p 46 1 s))
      else if c.closed then finishTx p t c im.1 im.2 s
      else s
def execTxFrameEnd (p : Nat) (s : State) : Host.Outcome State Fault Refusal :=
  if s.clk.coreStopped then .next s else
  .next (txFrameEnd p s)

/-- A copy in transmission ends with the words that are here, for a cause found at the egress. -/
def cutTx (p : Nat) (t : Tx) (c : EgCopy) (k : Nat) (s : State) : State :=
  let x := frame s c.uid
  let b := editBody (editsOf s p c x) (hasHsr (winParse s c.fur x)) false ((egBytes p c x).take ((c.got - 1) * 32))
  finishTx p t c (badTail b) false (countTail c.uid c.fur k s)

/-- EGRESS_UNDERRUN: the transmitter needs a word that is not here (R305). A preempted frame never underruns. -/
def egressUnderrun (p : Nat) (s : State) : State :=
  match (port s p).drill.tx with
  | none => s
  | some t =>
    match egCopy s p t.uid t.id with
    | none => s
    | some c =>
      if c.closed then s
      else
        let s1 := fireFurMs c.fur (xBase c.fur + 5) 0 (toLE 1 p ++ toLE 1 c.cls) s
        cutTx p t c 12 s1
def execEgressUnderrun (p : Nat) (s : State) : Host.Outcome State Fault Refusal :=
  if s.clk.coreStopped then .next s else
  .next (egressUnderrun p s)

/-! ## Commands -/

def specDrillSet : CmdSpec := { opcode := 0x0901, priv := 1, mask := 0x7, lenOk := lenForms 0 [(0, len 20), (1, len 8)] }

def pausedMask (s : State) (p : Nat) : Nat := maskOf ((List.range 7).filter (paused s p))

/-- R354. -/
def bodyDrillSet (p : Packet) (s : State) : CmdResult :=
  let b := p.params
  let pt := byteAt b 4
  let set := byteAt b 0 == 0
  checked (([(byteAt b 0 ≤ 1, 0), (reservedAt b 1 3, 1), (portExists s pt, 4), (reservedAt b 5 3, 5)] : List (Bool × Nat)) ++
    (if set then (List.range 5).map (fun k => (decide (64 ≤ le b (8 + 2 * k) 2), 8 + 2 * k)) ++ [(reservedAt b 18 2, 18)] else [])) <|
  if set then
    .ok [] (touchPort pt true (modDrill pt (fun d => { d with
      quantum := (List.range 5).foldl (fun t k => tput t k (le b (8 + 2 * k) 2)) d.quantum }) s))
  else
    let s := settlePay pt s
    let d := (port s pt).drill
    let entry := match d.active with | none => 0xFFFF | some g => (gateEntry g (gatePos g (nowNs s))).1
    .ok ((List.range 8).flatMap (fun k => toLE 1 (min 255 (egQueue s pt k).length)) ++ toLE 1 (gateStates s pt) ++ toLE 1 (pausedMask s pt) ++
      toLE 2 entry ++ (List.range 5).flatMap (fun k => toLE 4 (unsigned 32 (tget 0 d.deficit k))) ++
      (List.range 7).flatMap (fun k => toLE 4 (wholeBytes (classShaper s pt k).t)) ++ zeros 4) (touchPort pt true s)
def execDrillSet (p : Packet) (s : State) : Host.Outcome State Fault Refusal := serveCmd specDrillSet bodyDrillSet p s

def gateLen (b : List Byte) : Bool :=
  if b.length < 4 then false
  else match byteAt b 0 with
    | 0 => b.length == 16 + 8 * le b 2 2
    | 1 => b.length == 40
    | 2 | 3 | 4 => b.length == 16
    | _ => true

def specShaperSet : CmdSpec := { opcode := 0x0902, priv := 1, mask := 0x7, lenOk := lenForms 0 [(0, len 16), (1, len 16), (2, len 8)] }
/-- R355. -/
def bodyShaperSet (p : Packet) (s : State) : CmdResult :=
  let b := p.params
  let h := le b 4 4
  let rate := le b 8 4
  let burst := le b 12 4
  let ok := rate == 0 || (64 ≤ burst && burst ≤ 16777215)
  match byteAt b 0 with
  | 0 =>
    let pt := byteAt b 4
    let k := byteAt b 5
    checked [(reservedAt b 1 3, 1), (portExists s pt, 4), (k < 7, 5), (reservedAt b 6 2, 6), (rate ≤ 100000000, 8), (ok, 12)] <|
    unlessUpset p (classShaperFault pt k) s <|
    .ok [] (modDrill pt (fun d => { d with shapers := if rate = 0 then tdel d.shapers k else tput d.shapers k (shaperNew s.clk.edges rate burst) })
      (settlePay pt (touchPort pt true s)))
  | 1 =>
    checked [(reservedAt b 1 3, 1), (1 ≤ h && h < 2 ^ 20, 4), (rate ≤ 100000000, 8), (ok, 12)] <|
    if rate != 0 && 16384 ≤ s.shapers.length && !tmem s.shapers h then .refuse stExhausted 0
    else
      unlessUpset p (streamShaperFault h 0xFF) s <|
      .ok [] (if rate = 0 then shaperRemove h s else { s with shapers := tput s.shapers h (shaperNew s.clk.edges rate burst) })
  | 2 =>
    checked [(reservedAt b 1 3, 1), (1 ≤ h && h < 2 ^ 20, 4)] <|
    if !tmem s.shapers h then .refuse stNotFound 0
    else
      let t := shaper s h
      .ok (toLE 4 t.rate ++ toLE 4 t.burst ++ toLE 4 (wholeBytes t.t) ++ toLE 4 (queue s h).list.length) s
  | _ => .badParam 0
def execShaperSet (p : Packet) (s : State) : Host.Outcome State Fault Refusal := serveCmd specShaperSet bodyShaperSet p s

def specGateListSet : CmdSpec := { opcode := 0x0904, priv := 1, mask := 0x7, lenOk := gateLen }

/-- R357. -/
def bodyGateListSet (p : Packet) (s : State) : CmdResult :=
  let b := p.params
  let op := byteAt b 0
  let pt := byteAt b 1
  let count := le b 2 2
  let first := le b 4 2
  let d := (port s pt).drill
  let up := ceilDiv s.clk.tb tbuPerNs
  let cct := le b 32 8
  let at_ := if cct = 0 then (up + 1000000 + 999999) / 1000000 * 1000000 else nsOfT64 cct
  let n := le b 28 2
  let hold := fun i => let e := tget (0, 0) d.pend.entries i; decide (64 ≤ e.2 && e.2 ≤ 1000000000)
  let fields : List (Bool × Nat) := match op with
    | 0 => [(1 ≤ count && count ≤ 508, 2), (first + count ≤ 1024, 4), (reservedAt b 6 10, 6)] ++
        (List.range count).map (fun i => (reservedAt b (17 + 8 * i) 3, 17 + 8 * i))
    | 1 => [(reservedAt b 6 10, 6), (t64Ok (le b 16 8), 16), (1024 ≤ le b 24 4 && le b 24 4 ≤ 1000000000, 24),
        (n ≤ 1024 && (List.range (min n 1024)).all hold, 28), (reservedAt b 30 2, 30),
        (cct == 0 || (t64Ok cct && decide (up + 1000000 ≤ at_) && decide (at_ * tbuPerNs ≤ s.clk.tb + 60000000000 * tbuPerNs)), 32)]
    | 4 => [(1 ≤ count && count ≤ 510, 2), (first + count ≤ 1024, 4), (reservedAt b 6 10, 6)]
    | _ => [(reservedAt b 6 10, 6)]
  checked (([(op ≤ 4, 0), (portExists s pt, 1)] : List (Bool × Nat)) ++ fields) <|
  let t := touchPort pt true s
  match op with
  | 0 =>
    if d.commit.isSome then .refuse stBusy 0
    else
      unlessUpset p (gateListFault pt true) s <|
      .ok [] (modDrill pt (fun d => { d with pend := { d.pend with
        entries := (List.range count).foldl (fun t i => tset (0, 0) t (first + i) (byteAt b (16 + 8 * i), le b (20 + 8 * i) 4)) d.pend.entries } }) t)
  | 1 =>
    if d.commit.isSome then .refuse stBusy 0
    else .accepted (modDrill pt (fun d => { d with commit := some { base := nsOfT64 (le b 16 8), cycle := le b 24 4, length := n, at_ := at_, ticket := ticketFor specGateListSet p } }) t)
  | 2 =>
    let g := d.active.getD {}
    let e := match d.active with | none => 0xFFFF | some g => (gateEntry g (gatePos g (nowNs s))).1
    let st := if d.commit.isSome then 2 else if d.active.isSome then 1 else 0
    let st := if d.active.isNone && st = 2 then 0 else st
    .ok (toLE 1 st ++ zeros 1 ++ toLE 2 g.length ++ toLE 2 e ++ toLE 1 (gateStates s pt) ++ zeros 1 ++ toLE 8 (t64OfNs g.base) ++ toLE 4 g.cycle ++
      toLE 8 (match d.commit with | some c => t64OfNs c.at_ | none => 0) ++ zeros 4) t
  | 3 =>
    match d.commit with
    | none => .ok [] t
    | some c => .ok [] (complete c.ticket stStateConflict [] (modDrill pt (fun d => { d with commit := none }) t))
  | _ =>
    let g := d.active.getD {}
    .ok ((List.range count).flatMap (fun i => let e := tget (0, 0) g.entries (first + i); toLE 1 e.1 ++ zeros 3 ++ toLE 4 e.2)) t
def execGateListSet (p : Packet) (s : State) : Host.Outcome State Fault Refusal := serveCmd specGateListSet bodyGateListSet p s

def specPreemptSet : CmdSpec := { opcode := 0x0905, priv := 1, mask := 0x7, lenOk := lenForms 0 [(0, len 12), (1, len 8)] }

/-- A mode whose bytes are replicated below 1 Gb/s (R95, R358). -/
def replicated (s : State) (p : Nat) : Bool := (modeOf s p == 3 || modeOf s p == 5) && decide ((port s p).link.speed < 2)

/-- R358. -/
def bodyPreemptSet (p : Packet) (s : State) : CmdResult :=
  let b := p.params
  let pt := byteAt b 4
  let set := byteAt b 0 == 0
  let fl := byteAt b 5
  checked (([(byteAt b 0 ≤ 1, 0), (reservedAt b 1 3, 1), (portExists s pt, 4)] : List (Bool × Nat)) ++
    (if set then [(fl < 4 && !(bit fl 0 && replicated s pt), 5), (bit (byteAt b 6) 7, 6), (byteAt b 7 ≤ 3, 7), (1 ≤ byteAt b 8 && byteAt b 8 ≤ 128, 8),
      (reservedAt b 9 3, 9)] else [(reservedAt b 5 3, 5)])) <|
  let d := (port s pt).drill
  if set then
    let old := if d.held.isSome || d.tx.isSome then some (preNow d) else none
    let y : Preempt := { enable := bit fl 0, verifyDisable := bit fl 1, express := byteAt b 6, addFrag := byteAt b 7, verifyTime := byteAt b 8 }
    .ok [] (verifyStart pt (touchPort pt true (modDrill pt (fun d => { d with pre := y, preOld := old }) s)))
  else
    let y := d.pre
    let st := if !y.enable then 0 else if y.verifyDisable then 4 else if y.state = 2 then 2 else if y.state = 3 then 3 else 1
    .ok (toLE 1 st ++ toLE 1 y.express ++ toLE 1 y.addFrag ++ zeros 1 ++ toLE 4 (tget 0 d.ctr 12) ++ toLE 4 (tget 0 d.ctr 17) ++ zeros 4) (touchPort pt true s)
def execPreemptSet (p : Packet) (s : State) : Host.Outcome State Fault Refusal := serveCmd specPreemptSet bodyPreemptSet p s

end Sys2Proof.Machine
end

