-- ==== Sys2Proof/Machine/Headland.lean ====
section
/-! DEFINITION. Headland: digests, alarms and verdicts, the arbiter pins, turns, fences, restarts, the trail and their commands
(spec/11 R372-R395; spec/01 R27, R28, R38). -/

namespace Sys2Proof.Machine

def modHl (g : Headland → Headland) (s : State) : State := { s with hl := g s.hl }
def furDigests (s : State) (f : Nat) : List Digest := if f = 0 then s.hl.rxA else s.hl.rxB
/-- Epochs judged without a furrow's digest: one that comes late is not compared. -/
def judged (s : State) (f : Nat) : List Nat := if f = 0 then s.hl.judgedA else s.hl.judgedB
def setJudged (f : Nat) (l : List Nat) (s : State) : State := modHl (fun h => if f = 0 then { h with judgedA := l } else { h with judgedB := l }) s
def setDigests (f : Nat) (l : List Digest) (s : State) : State := modHl (fun h => if f = 0 then { h with rxA := l } else { h with rxB := l }) s
def missed (s : State) (f : Nat) : Nat := if f = 0 then s.hl.missA else s.hl.missB
def setMissed (f n : Nat) (s : State) : State := modHl (fun h => if f = 0 then { h with missA := n } else { h with missB := n }) s
def flushOf (s : State) (f : Nat) : Option (Nat × Nat) := if f = 0 then s.hl.flushA else s.hl.flushB
def setFlush (f : Nat) (v : Option (Nat × Nat)) (s : State) : State := modHl (fun h => if f = 0 then { h with flushA := v } else { h with flushB := v }) s
def seenAlarms (s : State) (f : Nat) : Nat := if f = 0 then s.hl.seenA else s.hl.seenB

/-! ## The arbiter pins (R378, R379) -/

/-- A message: sync, TYPE, LEN, payload, CRC-16 over TYPE, LEN and payload. -/
def arbMsg (ty : Nat) (pay : List Byte) : List Byte :=
  let b := toLE 1 ty ++ toLE 1 pay.length ++ pay
  toLE 1 0xA5 ++ b ++ toLE 2 (crc16 b)
def arbSend (ty : Nat) (pay : List Byte) (s : State) : State := emitOut (.arbOut (arbMsg ty pay)) s

/-- Does a received message hold: sync, a known TYPE, its LEN, and its CRC. -/
def arbValid (ty n : Nat) (b : List Byte) : Bool :=
  b.length == 5 + n && byteAt b 0 == 0xA5 && byteAt b 1 == ty && byteAt b 2 == n && crc16 ((b.drop 1).take (2 + n)) == le b (3 + n) 2

/-- A valid message: the link comes up after 3 within 5 ms. -/
def arbHeard (s : State) : State :=
  let l := s.clk.edges :: s.hl.arbTimes.filter (fun e => decide (s.clk.edges < e + 5 * msE))
  let s1 := modHl (fun h => { h with arbTimes := l }) s
  if !s.hl.arbUp && 3 ≤ l.length then fire 0x1E6 0x01 [] (modHl (fun h => { h with arbUp := true }) s1) else s1

/-! ## The trail (R388) -/

/-- What a verdict found, for its record. -/
structure Finds where
  epoch : Nat := 0
  sumA : Nat := 0
  sumB : Nat := 0
  countA : Nat := 0
  countB : Nat := 0
  missed : Nat := 0

/-- Is a trail code one of a verdict (R376, R377, R388): the others record a turn, an admission, a failed restart and a power-off. -/
def isVerdict (code : Nat) : Bool := code ≤ 4 || code == 8

/-- A trail record, and the VERDICT message to the arbiter; neither comes while Headland is stopped (R387). -/
def trail (code source before after_ seq : Nat) (z : Finds) (s : State) : State :=
  if !s.hl.running then s else
  let q := s.hl.trailSeq
  let b := toLE 8 (nowT64 s) ++ toLE 4 z.epoch ++ toLE 1 code ++ toLE 1 (before + 4 * after_) ++ toLE 1 s.hl.alarmsA ++ toLE 1 s.hl.alarmsB ++
    toLE 4 z.sumA ++ toLE 4 z.sumB ++ toLE 2 z.countA ++ toLE 2 z.countB ++ toLE 1 source ++ toLE 1 z.missed ++ toLE 2 q
  arbSend 0x03 (toLE 1 seq ++ toLE 1 code ++ toLE 1 after_ ++ zeros 1)
    (modHl (fun h => { h with trailSeq := (q + 1) % 65536, lastVerdict := if isVerdict code then nowT64 s else h.lastVerdict }) (retWrite (0x40 + 32 * (q % 64)) b s))

/-! ## The fence (R27, R28, R317, R384) -/

/-- A copy at an egress port when its furrow is fenced: begun, it ends with the words that are here; not begun, it is discarded. The count of
copies cut: those whose last word has not crossed. -/
def fenceCopy (p : Nat) (c : EgCopy) (r : Nat × State) : Nat × State :=
  let begun := c.state == 4 || c.state == 5
  if c.closed then (r.1, if begun then r.2 else discardEg p c r.2)
  else if begun then (r.1 + 1, endEg p 13 0 c r.2)
  else (r.1 + 1, discardEg p c (countTail c.uid c.fur 13 r.2))

/-- Entries toward HOST and RECIRC whose crossing is cut end there (R317). -/
def fenceInner (x : Nat) (r : Nat × State) : Nat × State :=
  ((fur r.2 x).lanes.flatMap (fun l => if 64 ≤ l.1 / 8 % 72 then (l.2.filter (fun e => e.moved != 0)).map (fun e => (l.1, e)) else [])).foldl (fun r e =>
    (r.1 + 1, entryGone x e.1 e.2 (setLane x e.1 ((laneOf r.2 x e.1).filter (fun y => !(y.uid == e.2.uid && y.half == e.2.half)))
      (countTail e.2.uid x 13 r.2)))) r

/-- The copies of a furrow at every egress port: deferred ones first. -/
def fenceEgress (x : Nat) (s : State) : Nat × State :=
  s.ports.foldl (fun r e =>
    let l := e.2.drill.buf.filter (fun c => c.fur == x)
    (l.filter (fun c => c.state == 2) ++ l.filter (fun c => c.state != 2)).foldl (fun r c =>
      match egCopy r.2 e.1 c.uid c.id with | some y => fenceCopy e.1 y r | none => r) r) (0, s)

/-- The half of a frame's copy that awaits furrow x, if one does: its decision, its admission on that decision, or its inline verdict. An admitted
frame on the list of a shaped stream awaits nothing of the furrow: it stays readable (R28). -/
def awaitsHalf (s : State) (x u : Nat) : Option Nat :=
  let f := frame s u
  let ok := fun h => match copyOf f h with | some c => !c.released && !c.dropped | none => false
  if f.kind != 0 then (if (fur s x).recirc.any (fun e => e.2.contains u) then some (onlyHalf f) else none)
  else if f.early = 7 then (if ok x && !f.shaped then some x else none)
  else if f.lead = x && ok (onlyHalf f) && (!f.admitted || heldInline f x) then some (onlyHalf f)
  else none

/-- The Granary drops what awaits the furrow's decision, and the furrow decides and dispatches no more. -/
def fenceFrames (x : Nat) (s : State) : State :=
  (s.frames.map (·.1)).foldl (fun s u =>
    let s1 := match awaitsHalf s x u with
      | some h => hlCtr 9 (dropCopy u h s)
      | none => s
    reap u (modFrame u (fun f => { f with due := setBit f.due x false }) s1)) s

/-- The Beds of a furrow hold no frame any more. -/
def idleBeds (x : Nat) (s : State) : State :=
  modFur x (fun y => { y with
    recirc := []
    beds := y.beds.map (fun e => (e.1, { e.2 with queue := e.2.queue.filter (fun q => q.uid.isNone), tines := e.2.tines.filter (fun t => t.2.uid.isNone),
                                                  release := e.2.release.filter (fun r => r.uid.isNone) })) }) s

/-- A furrow's crossings are cut, with the event of the cut, as its isolation cells close (R317); then it is isolated, and what awaits it is dropped.
bits are the alarms that led to it. -/
def isolate (x bits_ : Nat) (s : State) : State :=
  let r := fenceInner x (fenceEgress x s)
  let s1 := if r.1 = 0 then r.2 else fireFur x (xBase x + 4) 0 (toLE 2 r.1) r.2
  let s2 := modHalf x (fun h => { h with fenced := true }) (setFurState x 1 s1)
  setFlush x (some (s.clk.edges, bits_)) (fenceFrames x (idleBeds x (modFur x (fun y => { y with harrowStale := true }) s2)))

/-- FURROW_FENCE: of an admitted furrow. -/
def fence (x bits_ : Nat) (s : State) : State := if furState s x != 0 then s else hlCtr 5 (isolate x bits_ s)

/-! ## Turns (R380, R383) -/

/-- The lead bit flips at T_o. -/
def flipLead (new toNs : Nat) (s : State) : State :=
  fire 0x1E3 0 (toLE 8 (t64OfNs toNs) ++ toLE 1 new) (hlCtr 4 (modHl (fun h => { h with lead := new % 2 }) s))

/-- X is failed: the record, the event, a failure turn where X leads, and the fence (R376, R383). -/
def failFurrow (x code source seq : Nat) (z : Finds) (s : State) : State :=
  let old := s.hl.lead
  let new := if x = old then other x else old
  let a := alarms s x
  let s1 := fire (0x1E0 + x) 0 (toLE 1 a ++ toLE 1 source) (trail code source old new seq z (modHl (fun h => { h with disagree := none }) s))
  fence x (if source = 0 then a else 0) (if new = old then s1 else flipLead new (nowNs s1) s1)

/-! ## Digests (R374, R376, R377) -/

/-- DIGEST_CLOSE: furrow f closes the digest of the epoch that holds the time ns, 50 us after its end, and sends it. -/
def execDigestClose (f : Furrow) (ns : Nat) (s0 : State) : Host.Outcome State Fault Refusal :=
  if s0.clk.coreStopped then .next s0 else
  let n := furNo f
  let e := epochStart ns
  if e < (fur s0 n).closedTo || !decides s0 n || !(if n = 0 then s0.slices.coreA else s0.slices.coreB) then .next s0
  else
    let s := reachRep n (epochNext ns + 50000) s0
    let (c, m) := tget (0, 0) (fur s n).openDigests e
    let s1 := modFur n (fun y => { y with closedTo := epochNext ns, openDigests := y.openDigests.filter (fun o => decide (epochNext ns ≤ o.1)) }) s
    .next (if (judged s n).contains e then setJudged n ((judged s n).filter (· != e)) s1
      else if s1.hl.running && decides s1 (other n) then
      setDigests n (furDigests s1 n ++ [{ epoch := e, count := c % 65536, sum := m, alarms := alarms s1 n, arrived := s1.clk.edges }]) s1
      else s1)

/-- Is an epoch excluded from comparison by a step (R404). -/
def notCompared (s : State) (e : Nat) : Bool := s.hl.noCompare.any (fun w => decide (w.1 ≤ e && e ≤ w.2))

/-- "Both kept": the event and the record. -/
def keepBoth (source seq : Nat) (z : Finds) (s : State) : State :=
  fire 0x1E2 0 (toLE 4 z.epoch ++ toLE 4 z.sumA ++ toLE 4 z.sumB) (trail 0x03 source s.hl.lead s.hl.lead seq z s)

/-- POLICY resolves a disagreement (R377). seq: of the DISAGREE that it answers, or 0. -/
def byPolicy (seq : Nat) (z : Finds) (s : State) : State :=
  let wins := s.hl.policy == 0 || (s.hl.policy == 2 && decide (s.hl.tolerance < s.hl.tolCount))
  if wins then failFurrow (other s.hl.lead) 0x04 0x02 seq z s else keepBoth 0x02 seq z s

/-- A disagreement of an epoch starting at e. -/
def disagreement (e : Nat) (z : Finds) (s : State) : State :=
  let w := (e / 1000000000 * 976563 + e % 1000000000 / 1024) / 1000000
  let s1 := hlCtr 1 (modHl (fun h => { h with tolFrom := w, tolCount := if h.tolFrom = w then h.tolCount + 1 else 1 }) s)
  if s.hl.disagree.isSome then s1
  else if s.hl.arbEnable && s.hl.arbUp then
    let q := (s.hl.seq + 1) % 256
    arbSend 0x02 (toLE 1 q ++ toLE 1 s.hl.lead ++ toLE 4 z.epoch ++ toLE 4 z.sumA ++ toLE 4 z.sumB ++ toLE 2 z.countA ++ toLE 2 z.countB)
      (modHl (fun h => { h with
        seq := q
        disagree := some { seq := q, epoch := z.epoch, sumA := z.sumA, sumB := z.sumB, countA := z.countA, countB := z.countB, deadline := s.clk.edges + 23000 + 200 * usE } }) s1)
  else byPolicy 0 z s1

/-- The shadow run's consecutive matches (R386). -/
def shadowMatch (same : Bool) (s : State) : State :=
  modHl (fun h => { h with restart := h.restart.map (fun r => if r.copiedAt.isNone then r else { r with matched := if same then r.matched + 1 else 0 }) }) s

/-- Both digests of an epoch are here. -/
def compareDigests (a b : Digest) (s0 : State) : State :=
  let s := setMissed 0 0 (setMissed 1 0 s0)
  let same := a.sum == b.sum && a.count == b.count
  if notCompared s a.epoch || s.hl.alarmsA != 0 || s.hl.alarmsB != 0 then s
  else if s.hl.stateA != 0 || s.hl.stateB != 0 then shadowMatch same s
  else if same then hlCtr 0 s
  else disagreement a.epoch { epoch := epochNo a.epoch, sumA := a.sum, sumB := b.sum, countA := a.count, countB := b.count } s

/-- DIGEST_COMPARE: the oldest epoch whose two digests are here. -/
def execDigestCompare (s : State) : Host.Outcome State Fault Refusal :=
  if !s.hl.running then .next s
  else
    match s.hl.rxA.find? (fun a => s.hl.rxB.any (fun b => b.epoch == a.epoch)) with
    | none => .next s
    | some a =>
      match s.hl.rxB.find? (fun b => b.epoch == a.epoch) with
      | none => .next s
      | some b =>
        .next (compareDigests a b (modHl (fun h => { h with rxA := h.rxA.filter (fun d => d.epoch != a.epoch), rxB := h.rxB.filter (fun d => d.epoch != a.epoch) }) s))

/-- Did the wake controller report a furrow stopped for the whole of an epoch (R38). -/
def stoppedFor (s : State) (f e : Nat) : Bool :=
  (!(if f = 0 then s.slices.coreA else s.slices.coreB) && (match tget? s.slices.stoppedSince f with | some t => decide (t ≤ e) | none => false)) ||
    s.slices.stops.any (fun r => r.1 == f && decide (r.2.1 ≤ e) && decide (epochNext e ≤ r.2.2))

/-- DIGEST_MISS_TIMEOUT: 2.048 us after the other furrow's digest of an epoch, that of f is still missing. -/
def digestMiss (f : Nat) (s0 : State) : State :=
  match (furDigests s0 (other f)).find? (fun d => !(furDigests s0 f).any (fun y => y.epoch == d.epoch)) with
  | none => s0
  | some d =>
    let s1 := reachEdge (d.arrived + 2560) s0
    let s := setJudged f (d.epoch :: (judged s1 f).take 63) (setDigests (other f) ((furDigests s1 (other f)).filter (fun y => y.epoch != d.epoch)) s1)
    if notCompared s d.epoch then s
    else if stoppedFor s f d.epoch then (if d.count = 0 && s.hl.lead != f && s.hl.stateA = 0 && s.hl.stateB = 0 then hlCtr 0 s else s)
    else if furState s f != 0 || furState s (other f) != 0 then shadowMatch false (hlCtr (2 + f) s)
    else
      let n := missed s f + 1
      let s2 := setMissed f n (hlCtr (2 + f) s)
      if n < 3 then s2
      else failFurrow f 0x02 0x01 0 { epoch := epochNo d.epoch, missed := n } (setMissed f 0 s2)
def execDigestMissTimeout (f : Furrow) (s : State) : Host.Outcome State Fault Refusal := .next (if s.hl.running then digestMiss (furNo f) s else s)

/-! ## Power and the lost half (R28, R385) -/

/-- The half of a furrow loses its cells: each descriptor that points into it is freed, as a residence discard. -/
def halfLost (h : Nat) (s : State) : State :=
  (s.frames.filter (fun e => (copyOf e.2 h).isSome)).foldl (fun s e => gctr (18 + e.2.class_) h (dropCopy e.1 h s)) s

def setLock (f : Nat) (v : Bool) (s : State) : State :=
  { s with clk := if f = 0 then { s.clk with lockFa := v } else { s.clk with lockFb := v } }
def setCore (f : Nat) (v : Bool) (s : State) : State :=
  { s with slices := if f = 0 then { s.slices with coreA := v } else { s.slices with coreB := v } }

/-- Every clock of an island stops: its PLL, its core clock, its slice clocks and the clocks of its Beds (R30). -/
def clocksOff (x : Nat) (s : State) : State :=
  let s1 := setCore x false (setLock x false s)
  let four := fun (m : Nat) => (List.range 4).foldl (fun m i => setBit m (4 + 4 * x + i) false) m
  { s1 with slices := { s1.slices with
      running := four s1.slices.running, requested := four s1.slices.requested
      bedClocks := (List.range 8).foldl (fun m i => setBit m (8 * x + i) false) s1.slices.bedClocks } }

/-- The clocks of an island that runs again: the slice clocks whose shared one runs, and the core clock for them (R30). -/
def clocksOn (x : Nat) (s : State) : State :=
  let on := (List.range 4).filter (fun i => bit s.slices.running i)
  let s1 := setCore x (!on.isEmpty) (setLock x true s)
  { s1 with slices := { s1.slices with
      running := on.foldl (fun m i => setBit m (4 + 4 * x + i) true) s1.slices.running
      last := on.foldl (fun t i => tput t (4 + 4 * x + i) s.clk.edges) s1.slices.last } }

/-! ## Restart (R386) -/

/-- A restart fails: the furrow is fenced again, with all that follows a fence (R384). source: an alarm, or the command's time that ran out (log 77). -/
def restartFails (r : Restart) (source : Nat) (s : State) : State :=
  let s1 := hlCtr 5 (isolate r.furrow (if source = 0 then alarms s r.furrow else 0) (modHl (fun h => { h with restart := none }) s))
  complete r.ticket stHwFault (zeros 8) (fire 0x1E5 0x03 [] (trail 0x07 source s.hl.lead s.hl.lead 0 {} s1))

/-- What a Bed takes from the live furrow's Bed, but for its records (R257). -/
def copyBed (b : Bed) : Bed :=
  { area0 := b.area0, area1 := b.area1, active := b.active, params := b.params, deadlines := b.deadlines, noProgArmed := b.noProgArmed,
    uses := b.uses, pendAct := b.pendAct, shaFree := b.shaFree, gcmFree := b.gcmFree }

/-- The furrow that a restart starts from (R173, R198, R257, R283). -/
def copyFurrow (live_ : FurrowSt) : FurrowSt :=
  { banks := live_.banks
    frags := live_.frags.filter (fun e => decide (e.1 % 4 < 2))
    tab := { addr := live_.tab.addr.filter (fun e => e.2.static), strm := live_.tab.strm, direct := live_.tab.direct
             ovf := live_.tab.ovf.filter (fun e => e.2.static || e.2.kind == 2), mgroup := live_.tab.mgroup, keys := live_.tab.keys, bind := live_.tab.bind
             staging := live_.tab.staging, sweepStamp := live_.tab.sweepStamp, nextSweep := live_.tab.nextSweep, tokensAt := live_.tab.tokensAt
             ovfArmed := decide ((live_.tab.ovf.filter (fun e => e.2.static || e.2.kind == 2)).length < 1843) }
    released := true
    closedTo := live_.closedTo
    hot := live_.hot
    beds := live_.beds.map (fun e => (e.1, copyBed e.2))
    samp := { live_.samp with buf := [], count := 0, reached := none } }

/-- The records of the live Beds; what the live Bed has already applied is not applied again. -/
def copyRecords (bad : List Nat) (live_ mine : FurrowSt) : FurrowSt :=
  { mine with
    deepRecs := live_.deepRecs.filter (fun e => !bad.contains e.1)
    beds := live_.beds.map (fun e =>
      let b := tget {} mine.beds e.1
      let waits := fun (u : Option Nat) => e.2.queue.any (fun q => q.uid == u) || e.2.tines.any (fun t => t.2.uid == u)
      (e.1, { b with recs := e.2.recs, params := e.2.params, deadlines := e.2.deadlines, queue := b.queue.filter (fun q => waits q.uid), tines := [],
                     release := b.release.filter (fun r => r.verdict.isSome), lock := [] })) }

/-- A half as its island's initialisation leaves it: every cell free but the retired ones. -/
def freshHalf (h : Half) : Half :=
  { runs := h.retired.foldl (fun l c => cutRun c l) [(0, 81919)], retired := h.retired, epoch := h.epoch, fenced := true, at_ := h.at_, ctr := h.ctr }

/-- COPY reads the records of the live furrow from the deep store, then writes those of the restarting furrow x, one that could not be read zeroed
(R469, R473). -/
def readRecords (x : Nat) (s : State) : State :=
  if streamRegion s then (fur s (other x)).deepRecs.foldl (fun s e => putBytes64 5 false (recAddr s (other x) e.1) 32 s) s else s
def writeRecords (x : Nat) (bad : List Nat) (s : State) : State :=
  if streamRegion s then
    (fur s (other x)).deepRecs.foldl (fun s e => writeHalves 5 (recAddr s x e.1) (if bad.contains e.1 then zeros 32 else e.2) [] s) s
  else s

/-- RESTART_COPY_DONE: first the state of the live furrow is copied and the shadow run begins (step 4); then the records are (step 5). -/
def execRestartCopyDone (s0 : State) : Host.Outcome State Fault Refusal :=
  if s0.clk.coreStopped then .next s0 else
  match s0.hl.restart with
  | none => .next s0
  | some r =>
    let x := r.furrow
    if furState s0 x = 3 then
      let s := reachEdge (r.startedAt + 4 * msE) s0
      let s1 := modHalf x freshHalf (modGran (fun g => { g with handleCells := g.handleCells.filter (fun e => e.1 % 2 != x) }) s)
      .next (readRecords x (setFurState x 4 (clocksOn x (perfRestart x (modFur x (fun _ => copyFurrow (fur s (other x))) s1)))))
    else if r.copiedAt.isNone then
      let s := reachEdge (r.startedAt + 104 * msE) s0
      .next (fire 0x1E5 0x01 [] (modHl (fun h => { h with restart := some { r with copiedAt := some s.clk.edges, matched := 0 } })
        (writeRecords x r.badRecs (modFur x (copyRecords r.badRecs (fur s (other x))) s))))
    else .next s0

/-- RESTART_ADMISSION: at the epoch boundary after 1,000 consecutive matching epochs. -/
def execRestartAdmission (s0 : State) : Host.Outcome State Fault Refusal :=
  if s0.clk.coreStopped then .next s0 else
  match s0.hl.restart with
  | none => .next s0
  | some r =>
    if r.matched < 1000 || furState s0 r.furrow != 4 || !s0.hl.running then .next s0
    else
      let ta := epochNext (nowNs s0)
      let s := reachNs ta s0
      let s1 := modHalf r.furrow (fun h => { h with fenced := false }) (setFurState r.furrow 0 (modHl (fun h => { h with restart := none }) s))
      .next (complete r.ticket stOk (toLE 8 (t64OfNs ta)) (fire 0x1E5 0x02 [] (trail 0x06 0x04 s1.hl.lead s1.hl.lead 0 {} s1)))

/-- RESTART_FAIL_TIMEOUT: 1 s after step 5, without 1,000 consecutive matching epochs. -/
def execRestartFailTimeout (s : State) : Host.Outcome State Fault Refusal :=
  match s.hl.restart with
  | none => .next s
  | some r =>
    match r.copiedAt with
    | none => .next s
    | some e => .next (if 1000 ≤ r.matched then s else restartFails r 0x04 (reachEdge (e + secE) s))

/-! ## Alarms (R375, R376) -/

/-- HEADLAND_ALARM: the alarms that Headland has not yet judged. -/
def headlandAlarm (s0 : State) : State :=
  let a := andNot s0.hl.alarmsA s0.hl.seenA
  let b := andNot s0.hl.alarmsB s0.hl.seenB
  if !s0.hl.running || (a = 0 && b = 0) then s0
  else
    let s := modHl (fun h => { h with seenA := h.alarmsA, seenB := h.alarmsB }) s0
    let s1 := match s.hl.restart with
      | some r => if (if r.furrow = 0 then a else b) != 0 then restartFails r 0x00 s else s
      | none => s
    let na := a != 0 && furState s0 0 == 0
    let nb := b != 0 && furState s0 1 == 0
    if !na && !nb then s1
    else
      let s2 := modHl (fun h => { h with disagree := none }) s1
      let x := if na then 0 else 1
      if (na && nb) || furState s2 (other x) != 0 || alarms s2 (other x) != 0 then
        fire 0x1E7 0x01 [] (trail 0x08 0x00 s2.hl.lead s2.hl.lead 0 {} s2)
      else failFurrow x 0x01 0x00 0 {} s2
def execHeadlandAlarm (s : State) : Host.Outcome State Fault Refusal := .next (headlandAlarm s)

/-! ## Arbiter rows (R379) -/

/-- ARB_RULING: a message of TYPE 0x81. One that comes after its 200 us is not awaited. -/
def execArbRuling (bytes : List Byte) (s0 : State) : Host.Outcome State Fault Refusal :=
  if !s0.hl.running || !arbValid 0x81 2 bytes then .next s0
  else
    let s := arbHeard s0
    let code := byteAt bytes 4
    match s.hl.disagree with
    | none => .next s
    | some d =>
      if byteAt bytes 3 != d.seq || !(1 ≤ code && code ≤ 3) || d.deadline < s.clk.edges then .next s
      else
        let z : Finds := { epoch := d.epoch, sumA := d.sumA, sumB := d.sumB, countA := d.countA, countB := d.countB }
        let s1 := hlCtr 6 (modHl (fun h => { h with disagree := none }) s)
        .next (if code = 3 then keepBoth 0x03 d.seq z s1 else failFurrow (2 - code) 0x04 0x03 d.seq z s1)

/-- ARB_STATUS_IN: a message of TYPE 0x82. -/
def execArbStatusIn (bytes : List Byte) (s : State) : Host.Outcome State Fault Refusal :=
  .next (if s.hl.running && arbValid 0x82 0 bytes then arbHeard s else s)

/-- ARB_RULING_TIMEOUT. -/
def execArbRulingTimeout (s : State) : Host.Outcome State Fault Refusal :=
  match s.hl.disagree with
  | none => .next s
  | some d =>
    let z : Finds := { epoch := d.epoch, sumA := d.sumA, sumB := d.sumB, countA := d.countA, countB := d.countB }
    let s1 := modHl (fun h => { h with disagree := none }) (reachEdge d.deadline s)
    .next (if s.hl.running then byPolicy d.seq z (fire 0x1E6 0x03 [] (hlCtr 7 s1)) else s)

/-- ARB_LINK_DOWN: 5 ms without a valid message. -/
def execArbLinkDown (s : State) : Host.Outcome State Fault Refusal :=
  if !s.hl.arbUp || !s.hl.running then .next s
  else
    let last := s.hl.arbTimes.headD s.clk.edges
    .next (fire 0x1E6 0x02 [] (modHl (fun h => { h with arbUp := false, arbTimes := [] }) (reachEdge (last + 5 * msE) s)))

/-- ARB_STATUS_OUT: every 1 ms. -/
def execArbStatusOut (s0 : State) : Host.Outcome State Fault Refusal :=
  let s := modHl (fun h => { h with statusAt := max s0.clk.edges (h.statusAt + msE) }) (reachEdge (s0.hl.statusAt + msE) s0)
  .next (if s.hl.running then arbSend 0x01 (toLE 1 s.hl.lead ++ toLE 1 s.hl.stateA ++ toLE 1 s.hl.stateB ++ toLE 1 s.hl.policy) s else s)

/-! ## Commanded turns (R381) -/

/-- The turn's COMPLETION (R394). -/
def turnDone (t : Turn) (s : State) : State :=
  complete t.ticket stOk (toLE 8 (t64OfNs t.tStart) ++ toLE 4 (tget 0 s.hl.ctr 9 + 2 ^ 32 - t.discards0) ++ zeros 4) (modHl (fun h => { h with turn := none }) s)

/-- TURN_START: at T_o. A turn whose new lead is no longer admitted, or that Headland cannot make, does not take place. -/
def execTurnStart (s0 : State) : Host.Outcome State Fault Refusal :=
  match s0.hl.turn with
  | none => .next s0
  | some t =>
    if t.started then .next s0
    else
      let s := reachNs t.tStart s0
      if !s.hl.running || furState s t.newLead != 0 then .next (complete t.ticket stStateConflict [] (modHl (fun h => { h with turn := none }) s))
      else if s.hl.lead = t.newLead then .next (turnDone t s)
      else
        let old := s.hl.lead
        let s1 := modHl (fun h => { h with turn := some { t with started := true }, overlap := some (t.tStart, t.tf) }) s
        .next (flipLead t.newLead t.tStart (trail 0x05 0x04 old t.newLead 0 {} s1))

/-- TURN_END: at T_f the old lead is fenced. -/
def execTurnEnd (s0 : State) : Host.Outcome State Fault Refusal :=
  match s0.hl.turn with
  | none => .next s0
  | some t =>
    if !t.started || t.ended then .next s0
    else
      let s := modHl (fun h => { h with turn := some { t with ended := true } }) (reachNs t.tf s0)
      let old := other t.newLead
      if s.hl.running && s.hl.lead = t.newLead && furState s old = 0 then .next (fence old 0 s)
      else if (flushOf s old).isSome then .next s
      else .next (turnDone t s)

/-! ## The lane flush (R384) -/

/-- Lane entries of fenced furrow f return to the Granary as discards. A frame whose last entry goes so counts. -/
def flushEntries (f : Nat) : List (Nat × Entry) → State → State
  | [], s => s
  | (key, e) :: r, s =>
    let s1 := if e.spill then spillGone e.uid s else entryGone f key e (modCopy e.uid e.half (fun c => { c with transfer := false, granted := false }) s)
    let left := r.any (fun y => y.2.uid == e.uid) || [0, 1].any (fun g => (fur s1 g).lanes.any (fun l => l.2.any (fun y => y.uid == e.uid)))
    flushEntries f r (if left then s1 else hlCtr 9 s1)

/-- Cells of a half that copies hold. -/
def cellsHeld (s : State) (h : Nat) : Nat := s.frames.foldl (fun n e => n + (match copyOf e.2 h with | some c => c.cells.length | none => 0)) 0

/-- The lane entries of an unpowered furrow are lost: the FANOUT of the copies in the live half is what the live furrow's entries give (R384). -/
def lostEntries (x : Nat) (s : State) : State :=
  let all := (fur s x).lanes.flatMap (·.2)
  all.foldl (fun s e => if e.spill then s else
    tryReturn e.uid e.half (modCopy e.uid e.half (fun c => { c with fanout := c.fanout - 1, transfer := false }) s)) (modFur x (fun y => { y with lanes := [] }) s)

/-- A turn whose old lead's lane flush is over, or has no more to do, is done (R383, R384). -/
def flushOver (x : Nat) (s : State) : State :=
  match s.hl.turn with
  | some t => if t.ended && other t.newLead = x then turnDone t s else s
  | none => s

/-- The rail of a fenced island falls: what its half holds is freed, with the rail monitor event where cells were allocated (R28). A lane flush that has
not ended never does: FANOUT is recounted from the live furrow's lane entries (R384). -/
def railFell (n : Nat) (s : State) : State :=
  let s1 := (if cellsHeld s n = 0 then id else fire 0x1E8 0 []) (halfLost n s)
  if (flushOf s n).isSome then setFlush n none (lostEntries n s1) else s1

/-- ISLAND_POWER_OFF: the switch opens; the furrow PLL stops (R31, R385). source: of R388, an alarm for AUTO_POWER_OFF or a command, which may come before
the lane flush has ended. -/
def powerOff (x source : Nat) (s : State) : State :=
  let lost := if (flushOf s x).isSome then flushOver x (railFell x s) else halfLost x s
  trail 0x09 source s.hl.lead s.hl.lead 0 {} (clocksOff x (setFurState x 2 lost))

/-- LANE_FLUSH_COMPLETE. -/
def laneFlush (x : Nat) (s0 : State) : State :=
  match flushOf s0 x with
  | none => s0
  | some (e, bits_) =>
    let s := setFlush x none (reachEdge (e + 220 * usE) s0)
    let s1 := flushEntries x ((fur s x).lanes.flatMap (fun l => l.2.map (fun e => (l.1, e)))) (modFur x (fun y => { y with lanes := [] }) s)
    let s2 := fire 0x1E4 0 (toLE 4 (tget 0 s1.hl.ctr 9)) s1
    flushOver x (if s2.hl.autoPower && (bit bits_ 3 || bit bits_ 4) && furState s2 x = 1 then powerOff x 0x00 s2 else s2)
def execLaneFlushComplete (f : Furrow) (s : State) : Host.Outcome State Fault Refusal :=
  if s.clk.coreStopped then .next s else
  .next (laneFlush (furNo f) s)

/-! ## Commands -/

def specFurrowStatus : CmdSpec := { opcode := 0x0A01, priv := 0, mask := 0xF, lenOk := len 0 }


/-- R392. -/
def bodyFurrowStatus (_ : Packet) (s : State) : CmdResult :=
  let h := s.hl
  let held := [0, 1].foldl (fun n x => if (half s x).fenced then n + cellsHeld s x else n) 0
  .ok (toLE 1 h.lead ++ toLE 1 h.stateA ++ toLE 1 h.stateB ++ toLE 1 h.policy ++ toLE 1 h.alarmsA ++ toLE 1 h.alarmsB ++
    toLE 1 (if !h.arbEnable then 0 else if h.arbUp then 1 else 2) ++ toLE 1 (b2n h.turn.isSome + 2 * b2n h.disagree.isSome) ++ toLE 4 held ++
    toLE 4 (match h.restart with | some r => r.matched | none => 0) ++ toLE 8 h.lastVerdict ++
    (List.range 10).flatMap (fun i => toLE 4 (tget 0 h.ctr i))) s
def execFurrowStatus (p : Packet) (s : State) : Host.Outcome State Fault Refusal := serveCmd specFurrowStatus bodyFurrowStatus p s

def specHeadlandPolicySet : CmdSpec := { opcode := 0x0A02, priv := 1, mask := 0x7, lenOk := len 8 }

/-- R393. -/
def bodyHeadlandPolicySet (p : Packet) (s : State) : CmdResult :=
  let b := p.params
  checked [(byteAt b 0 ≤ 2, 0), (1 ≤ byteAt b 1, 1), (byteAt b 2 < 4, 2), (reservedAt b 3 5, 3)] <|
  .ok [] (modHl (fun h => { h with policy := byteAt b 0, tolerance := byteAt b 1, arbEnable := bit (byteAt b 2) 0, autoPower := bit (byteAt b 2) 1 }) s)
def execHeadlandPolicySet (p : Packet) (s : State) : Host.Outcome State Fault Refusal := serveCmd specHeadlandPolicySet bodyHeadlandPolicySet p s

def specHeadlandTurn : CmdSpec := { opcode := 0x0A03, priv := 1, mask := 0x6, lenOk := len 4 }

/-- R381, R394. -/
def bodyHeadlandTurn (p : Packet) (s : State) : CmdResult :=
  let b := p.params
  let new := byteAt b 0
  checked [(new ≤ 1, 0), (reservedAt b 1 3, 1)] <|
  if new = s.hl.lead then .ok [] s
  else if s.hl.turn.isSome || s.hl.disagree.isSome then .refuse stBusy 0
  else if furState s new != 0 then .conflict
  else
    let t := epochNext (epochNext (nowNs s))
    .accepted (modHl (fun h => { h with turn := some { tStart := t, tf := t + 12800, newLead := new, discards0 := tget 0 h.ctr 9, ticket := ticketFor specHeadlandTurn p } }) s)
def execHeadlandTurn (p : Packet) (s : State) : Host.Outcome State Fault Refusal := serveCmd specHeadlandTurn bodyHeadlandTurn p s

def specFurrowRestart : CmdSpec := { opcode := 0x0A04, priv := 1, mask := 0x7, lenOk := len 4 }

/-- R386, R395. -/
def bodyFurrowRestart (p : Packet) (s : State) : CmdResult :=
  let b := p.params
  let x := byteAt b 0
  checked [(x ≤ 1, 0), (byteAt b 1 ≤ 1, 1), (reservedAt b 2 2, 2)] <|
  if furState s x = 0 then .conflict
  else if s.hl.restart.isSome then .refuse stBusy 0
  else if byteAt b 1 = 1 then .ok [] (if furState s x = 2 then s else powerOff x 0x04 s)
  else
    let s1 := modHl (fun h => { h with
      restart := some { furrow := x, ticket := ticketFor specFurrowRestart p, startedAt := s.clk.edges }
      alarmsA := if x = 0 then 0 else h.alarmsA, alarmsB := if x = 1 then 0 else h.alarmsB
      seenA := if x = 0 then 0 else h.seenA, seenB := if x = 1 then 0 else h.seenB }) (laneFlush x s)
    let s2 := { s1 with sup := if x = 0 then { s1.sup with poweredA := true } else { s1.sup with poweredB := true } }
    .accepted (setFurState x 3 (setDigests x [] (setMissed x 0 (halfLost x s2))))
def execFurrowRestart (p : Packet) (s : State) : Host.Outcome State Fault Refusal := serveCmd specFurrowRestart bodyFurrowRestart p s

end Sys2Proof.Machine
end

