-- ==== Sys2Proof/Machine/Deep.lean ====
section
/-! DEFINITION. The deep store: spill and refill, reads and their checks, refresh, training, regions and their commands (spec/14; spec/08
R287). -/

namespace Sys2Proof.Machine

/-- A spilled frame is dropped whole: its lane entry, what it holds in the Granary, its record. -/
def dropSpilled (u : Nat) (s : State) : State :=
  let s1 := cutSpillEntries u s
  let keep := fun (h : Nat) (s : State) => match copyOf (frame s u) h with
    | some _ => modCopy u h (fun c => { c with dropped := true, released := true, fanout := 0 }) s
    | none => s
  freeSpill u (keep 1 (keep 0 s1))

/-- SPILL_WRITE: a complete spilling copy goes to its place in the ring; its cells and descriptor return (R287, R475). bad: the halves of the copy that
read as uncorrectable in the Granary, which are written poisoned (R468). A record whose lane entry has gone by now is freed (R476). -/
def execSpillWrite (uid : Nat) (bad : List Nat) (s : State) : Host.Outcome State Fault Refusal :=
  if s.clk.coreStopped then .next s else
  let x := frame s uid
  let h := relHalf s x
  match spillRecOf s uid, copyOf x h with
  | some (i, r), some c =>
    if !x.spilled || x.spillDone || !c.complete then .next s
    else
      let r1 := { r with cells := c.cells.length, state := 1 }
      let s0 := bad.foldl (fun s _ => memUnc h s) s
      if !(spillAddrs s r1).all (deepUp s) then .next (dropSpilled uid (spillFull h s0))
      else
        let b := copyImage x
        let s1 := (List.range r1.cells).foldl (fun s j =>
          writeHalves 2 ((spillAddrs s r1).getD j 0) (slice b (256 * j) 256) ((List.range 8).filter (fun k => bad.contains (8 * j + k))) s) s0
        let s2 := gctr 14 h (modQueue x.queue (fun q => { q with spilled := q.spilled + 1 }) (modDeep (fun d => { d with recs := tput d.recs i r1 }) s1))
        let s3 := tryReturn uid h (modFrame uid (fun x => { x with spillDone := true }) s2)
        .next (if r.gone then freeSpill uid s3 else s3)
  | _, _ => .next s

/-! ## Refill (R287, R480) -/

/-- The half that a refill's cells come from. -/
def refillHalf (s : State) (x : Frame) : Nat :=
  let h := homeHalf s x.port
  if (copyOf x h).isSome then 1 - h else h

/-- A refill is tried: its new cells and its descriptor are asked for (R279). A frame with a cell on a channel that serves no request is dropped. -/
def tryRefill (u i : Nat) (r : SpillRec) (s : State) : State :=
  let x := frame s u
  if (spillAddrs s r).any (fun a => !(chanReady (chan s (mapAddr s a).1) && (chan s (mapAddr s a).1).mapped) && (chan s (mapAddr s a).1).state != 2) then
    let c := (mapAddr s ((spillAddrs s r).headD 0)).1
    dropSpilled u (modChan c (fun ch => { ch with refillDrops := wrap32 (ch.refillDrops + 1) }) s)
  else if deepTraining s then s
  else
    let h := refillHalf s x
    if (copyOf x h).isSome then s
    else
      let new : Copy := { undecided := false, released := true, fanout := 1 }
      modDeep (fun d => { d with recs := tput d.recs i { r with state := 2 } })
        (modFrame u (fun x => { setCopy h (some new) x with asks := some (h, .refill i) }) s)

/-- The first spilled entry within 4 of the head of a lane. -/
def refillDue (s : State) (f key : Nat) : Option Nat :=
  ((laneOf s f key).take 4).findSome? (fun e =>
    if e.spill then
      match spillRecOf s e.uid with
      | some (_, r) => if r.state = 1 then some e.uid else none
      | none => none
    else none)

/-- REFILL_REQUEST; that of a fenced furrow reaches no shared block (R27). -/
def execRefillRequest (f : Furrow) (inp out cls : Nat) (s : State) : Host.Outcome State Fault Refusal :=
  if s.clk.coreStopped then .next s else
  if isolated s (furNo f) then .next s
  else match refillDue s (furNo f) (laneKey inp out cls) with
  | none => .next s
  | some u =>
    match spillRecOf s u with
    | some (i, r) => .next (tryRefill u i r s)
    | none => .next s

/-- Has a half no cells for a refill. -/
def refillWaits (s : State) (u h : Nat) : Bool :=
  match copyOf (frame s u) h with
  | some c => c.complete || c.cells.isEmpty
  | none => true

/-- REFILL_RETRY: the oldest refill that waits for cells, 1 µs after its last attempt (R287). -/
def execRefillRetry (s0 : State) : Host.Outcome State Fault Refusal :=
  if s0.clk.coreStopped then .next s0 else
  match s0.deep.recs.find? (fun e => e.2.state == 2 && (frame s0 e.2.uid).asks.isNone && refillWaits s0 e.2.uid 0 && refillWaits s0 e.2.uid 1) with
  | none => .next s0
  | some (i, r) => .next (tryRefill r.uid i r (advance usE s0))

/-! ## Reads (R466-R469, R477, R478) -/

/-- A channel fails (R480). -/
def chanFail (c cause : Nat) (s : State) : State :=
  fire (0x39E + c) cause [] (modChan c (fun x => { x with state := 5, cause := cause, mapped := false, due := [], postponed := [], sched := { x.sched with clients := [], banks := [] } }) (syncDram c s))

/-- A read of a half whose check lanes read as w: true where it gives good data, and what is counted (R468). bch: 0 clean, 1 corrected, 2
uncorrectable. -/
def checkRead (client c half w bch : Nat) (s : State) : Bool × State :=
  let a := toLE 4 (halfWord c half)
  let poison := bit w 28
  if w / 2 ^ 20 % 256 != abpOf c half poison then
    let now := s.clk.edges
    let l := ((chan s c).recentFaults.filter (fun e => decide (now < e + secE))) ++ [now]
    let s1 := memUnc (35 + c) (modChan c (fun x => { x with faults := wrap32 (x.faults + 1), recentFaults := l }) s)
    let s2 := fireMs 0 (0x398 + c) 0 (toLE 1 client ++ a) (fireMs 0 (0x39A + c) 0 a s1)
    (false, if 64 ≤ l.length then chanFail c 3 s2 else s2)
  else if poison then (false, modChan c (fun x => { x with poisonReads := wrap32 (x.poisonReads + 1) }) s)
  else match bch with
    | 0 => (true, s)
    | 1 => (true, memCorr (35 + c) s)
    | _ => (false, fireMs 0 (0x398 + c) 0 (toLE 1 client ++ a) (memUnc (35 + c) s))

/-- A read of a half: its check lanes are as written, but for the bits abp of ABP and POISON that come back in error. -/
def readCheck (client c half abp : Nat) (poison : Bool) (bch : Nat) (s : State) : Bool × State :=
  checkRead client c half (halfLanes s c half ^^^ (abp % 256 * 2 ^ 20 + b2n poison * 2 ^ 28)) bch s

/-- The refill of a frame ends: its lane entry is a stored copy again (R287). -/
def refillDone (u : Nat) (r : SpillRec) (s : State) : State :=
  let h := if refillWaits s u 0 then 1 else 0
  let back := fun (x : FurrowSt) => { x with lanes := x.lanes.map (fun e =>
    (e.1, e.2.map (fun y => if y.uid == u && y.spill then { y with spill := false, half := h } else y))) }
  let s1 := modFur 1 back (modFur 0 back s)
  let s2 := modCopy u h (fun c => { c with complete := true }) (modFrame u (fun x => { x with refilled := true }) s1)
  offerCopy u h 1 (offerCopy u h 0 (touchPort (r.ring / 5) false (gctr 15 h (freeSpill u s2))))

/-- Half k of the deep store comes back for the refill of a frame: a bad one drops the frame whole, the last one ends the refill (R469). -/
def refillHalfDone (u c k : Nat) (good : Bool) (s : State) : State :=
  match spillRecOf s u with
  | none => s
  | some (i, r) =>
    if r.state != 2 || !r.reads.contains k then s
    else if !good then dropSpilled u (modChan c (fun x => { x with refillDrops := wrap32 (x.refillDrops + 1) }) s)
    else
      let left := r.reads.filter (· != k)
      if left.isEmpty then refillDone u r s else modDeep (fun d => { d with recs := tput d.recs i { r with reads := left } }) s

/-- DEEP_STORE_READ_DONE: a read of a client returns and is checked (R468). abp and poison: the bits of ABP, and whether POISON, that come back in
error. What follows for a stream record or a Gleaner COPY is the effect of RECORD_FETCH_DONE and GLEANER_COPY_DONE. uid: the frame of a refill; handle:
that of a restart copy. -/
def execDeepStoreReadDone (client ch half abp : Nat) (poison : Bool) (bch uid handle : Nat) (s : State) :
    Host.Outcome State Fault Refusal :=
  let c := ch % 2
  if s.clk.coreStopped || !chanReady (chan s c) then .next s
  else
    let (good, s1) := readCheck client c half abp poison bch (chanTouch c (syncDram c s))
    .next (match client with
      | 3 => refillHalfDone uid c (unmapAddr s c (32 * half) / 32) good s1
      | 5 =>
        if good then s1
        else match s1.hl.restart with
          | none => s1
          | some r =>
            if r.copiedAt.isSome then modFur r.furrow (fun x => { x with deepRecs := tdel x.deepRecs handle }) s1
            else modHl (fun h => { h with restart := some { r with badRecs := handle :: r.badRecs } }) s1
      | _ => s1)

/-- PATROL_READ (R470): the read of the next burst, which began when it was due, returns. Both halves are checked, and a corrected one is written back,
unless a client has written it since the read began. -/
def execPatrolRead (ch abp0 bch0 abp1 bch1 poison : Nat) (s0 : State) : Host.Outcome State Fault Refusal :=
  if s0.clk.coreStopped then .next s0 else
  let c := ch % 2
  if !chanReady (chan s0 c) || deepTraining s0 then .next s0
  else
    let half := (chan s0 c).patrolPos
    let own := (chan s0 c).patrolOwn
    let due := (chan s0 c).patrolAt + patrolPeriod (chan s0 c)
    let x0 := readCheck 6 c half abp0 (bit poison 0) bch0 (putReq 6 false c (half / 2) 3 (reachEdge due s0))
    let x1 := readCheck 6 c (half + 1) abp1 (bit poison 1) bch1 x0.2
    let m := b2n (x0.1 && bch0 == 1 && !bit own 0) + 2 * b2n (x1.1 && bch1 == 1 && !bit own 1)
    let s1 := if m = 0 then x1.2 else putReq 6 true c (half / 2) m x1.2
    let n := (half + 2) % max 1 (chanSize (chan s0 c) / 32)
    .next (modChan c (fun x => { x with patrolAt := due, patrolPos := n, patrolOwn := 0, passes := if n = 0 then wrap32 (x.passes + 1) else x.passes }) s1)

/-! ## Refresh, self-refresh, the refresh window (R465, R478) -/

/-- The refresh interval of a rank, 7.8 µs or 3.9 µs, and the refresh window, 64 ms or 32 ms (R465). -/
def refreshPeriod (x : Chan) : Nat := if bit x.flags 0 then 4875 else 9750
def refreshWindow (x : Chan) : Nat := (if bit x.flags 0 then 32 else 64) * msE

/-- REFRESH_DUE: the interval of a rank has passed. While requests wait for the rank the scheduler may postpone the refresh, 8 at most; else it goes
in one of the next SDRAM clocks, with those postponed before where none waits (R465, R477; log 15). -/
def execRefreshDue (ch rank : Nat) (postpone : Bool) (s0 : State) : Host.Outcome State Fault Refusal :=
  if s0.clk.coreStopped then .next s0 else
  let c := ch % 2
  let at_ := tget 0 (chan s0 c).refreshedAt rank + refreshPeriod (chan s0 c)
  if (chan s0 c).state != 3 || (chan s0 c).ranks ≤ rank then .next s0
  else
    let s := modChan c (fun x => { x with refreshedAt := tset 0 x.refreshedAt rank at_ }) (syncDram c (reachEdge at_ s0))
    let waits := rankWaits (chan s c) rank
    let n := tget 0 (chan s c).postponed rank
    .next (modChan c (fun x =>
      if waits && postpone && n < 8 then { x with postponed := tset 0 x.postponed rank (n + 1) }
      else if waits then { x with due := tset 0 x.due rank (tget 0 x.due rank + 1) }
      else { x with due := tset 0 x.due rank (tget 0 x.due rank + 1 + n), postponed := tset 0 x.postponed rank 0 }) s)

/-- SELF_REFRESH_ENTRY: SR_IDLE has passed with no request; the SDRAM refreshes itself from now on (R465). -/
def execSelfRefreshEntry (ch : Nat) (s0 : State) : Host.Outcome State Fault Refusal :=
  if s0.clk.coreStopped then .next s0 else
  let c := ch % 2
  let s := syncDram c s0
  let x := chan s c
  if x.state != 3 || !bit x.flags 2 || !(allWaits x.sched).isEmpty then .next s
  else .next (modChan c (fun x => { x with state := 4, due := [], postponed := [], sched := { x.sched with banks := [] } })
    (reachEdge (x.lastRequest + x.srIdle * usE) s))

/-- DISTURB_WINDOW_CLEAR: the next refresh window begins. -/
def execDisturbWindowClear (ch : Nat) (s : State) : Host.Outcome State Fault Refusal :=
  if s.clk.coreStopped then .next s else
  let c := ch % 2
  let due := (chan s c).windowAt + refreshWindow (chan s c)
  .next (modChan c (fun x => { x with samples := [], throttled := [], windowAt := due }) (syncDram c (reachEdge due s)))

/-! ## Loss of a channel (R31, R480) -/

def execDeepStorePllLockLoss (s0 : State) : Host.Outcome State Fault Refusal :=
  if !s0.clk.lockDs then .next s0
  else
    let s := { s0 with clk := { s0.clk with lockDs := false } }
    if s.clk.coreStopped then .next s else
    let fail := fun (c : Nat) (s : State) => if 2 ≤ (chan s c).state && (chan s c).state ≤ 4 then chanFail c 3 s else s
    .next (fail 1 (fail 0 s))

/-! ## Training (R464, R479) -/

/-- A training of the channels of a mask begins. -/
def startTraining (mask : Nat) (t : Option Ticket) (s : State) : State :=
  trainGo (modDeep (fun d => { d with training := some { mask := mask, stage := 1, startedAt := s.clk.edges, ticket := t } }) (syncDram 1 (syncDram 0 s)))

/-- SPILL_DRAIN_TIMEOUT: the frames of records still held after 1 s are dropped. -/
def execSpillDrainTimeout (s0 : State) : Host.Outcome State Fault Refusal :=
  if s0.clk.coreStopped then .next s0 else
  match s0.deep.training with
  | none => .next s0
  | some t =>
    if t.stage != 1 then .next s0
    else
      let s := reachEdge (t.startedAt + secE) s0
      .next (trainGo (s.deep.recs.foldl (fun s e =>
        if e.2.state = 3 then s else dropSpilled e.2.uid (spillFull e.2.half s)) s))

/-- One channel's training ends. -/
def trainChan (c : Nat) (ok : Bool) (margin : Nat) (s : State) : State :=
  if (chan s c).state != 2 then s
  else
    let s1 := modChan c (fun x => { x with margin := margin % 65536 }) s
    if ok then
      let s2 := modChan c (fun x => { x with state := 3, lastRequest := s1.clk.edges, patrolAt := s1.clk.edges, windowAt := s1.clk.edges, refreshedAt := [(0, s1.clk.edges), (1, s1.clk.edges)] }) s1
      fire (0x39E + c) 0x01 [] { s2 with clk := { s2.clk with lockDs := true } }
    else chanFail c 2 s1

/-- The training ends and the clients resume. -/
def trainingDone (ok0 ok1 : Bool) (m0 m1 : Nat) (s : State) : State :=
  match s.deep.training with
  | none => s
  | some t =>
    if t.stage = 1 then s
    else
      let s1 := modDeep (fun d => { d with training := none }) (trainChan 1 ok1 m1 (trainChan 0 ok0 m0 s))
      match t.ticket with
      | none => s1
      | some k => complete k stOk (if k.opcode = 0x0D02 then toLE 1 (chan s1 0).state ++ toLE 1 (chan s1 1).state ++ zeros 2 else []) s1

/-! ## Regions (R472) -/

/-- Does a half, by device address, lie in a region of some enables. -/
def inRegions (d : Deep) (en k : Nat) : Bool :=
  let within := fun (base size : Nat) => decide (base ≤ 32 * k) && decide (32 * k < base + size)
  (bit en 0 && within d.spillBase d.spillSize) || (bit en 1 && within d.streamBase (2 ^ 26)) || (bit en 2 && within d.gleanBase d.gleanSize)

/-- REGION_INIT_DONE: 2 x 10^9 bytes/s. Every half of the regions is as initialisation writes it (R466). -/
def execRegionInitDone (s0 : State) : Host.Outcome State Fault Refusal :=
  if s0.clk.coreStopped then .next s0 else
  match s0.deep.init with
  | none => .next s0
  | some (start, bytes, en, t) =>
    let s := reachEdge (start + ceilDiv (bytes * 5) 8) s0
    let s1 := modDeep (fun d => { d with init := none, enables := en, recs := [], rings := [], lanes := d.lanes.filter (fun e => !inRegions d en e.1) }) s
    let s2 := if bit en 1 then modFur 1 (fun x => { x with deepRecs := [] }) (modFur 0 (fun x => { x with deepRecs := [] }) s1) else s1
    let s3 := if bit en 2 then modGle (fun g => { g with slots := [] }) s2 else s2
    .next (complete t stOk [] s3)

/-! ## Commands (R482-R485) -/

/-- The checks of a channel's parameter block (R463, R482). -/
def dramChecks (b : List Byte) : List (Bool × Nat) :=
  let w := le b 14 2
  [(byteAt b 0 < 2, 0), (byteAt b 1 ≤ 2 && !(byteAt b 1 == 2 && byteAt b 2 == 8 && byteAt b 3 == 16), 1), (byteAt b 2 == 8 || byteAt b 2 == 16, 2),
    (byteAt b 3 == 8 || byteAt b 3 == 16, 3), (byteAt b 4 < 4, 4), (byteAt b 5 < 8, 5), (10 ≤ le b 6 2 && le b 6 2 ≤ 10000, 6),
    (decide (64 ≤ le b 8 2), 8), (10 ≤ le b 10 2 && le b 10 2 ≤ 10000, 10), (1 ≤ le b 12 2 && le b 12 2 ≤ 168, 12),
    ((List.range 4).all (fun i => w / 16 ^ i % 16 != 0), 14), (1 ≤ byteAt b 16 && byteAt b 16 ≤ 15, 16), (reservedAt b 17 3, 17)]

/-- A channel as its parameter block describes it: configured and untrained, or absent. -/
def chanSet (b : List Byte) (x : Chan) : Chan :=
  { x with
    ranks := byteAt b 1, width := byteAt b 2, density := byteAt b 3, speed := byteAt b 4, flags := byteAt b 5, srIdle := le b 6 2, threshold := le b 8 2
    throttleNs := le b 10 2, patrolHours := le b 12 2, state := if byteAt b 1 = 0 then 0 else 1, mapped := false, patrolPos := 0, due := [], postponed := [], samples := [], throttled := []
    sched := { x.sched with clients := [], banks := [] } }

/-- Does a region touch channel c: it starts in the interleaved part, or lies at one end in the channel (R471). -/
def touchesChan (s : State) (c base size : Nat) : Bool :=
  decide (base < 2 * min s.deep.map0 s.deep.map1) || (mapAddr s base).1 == c || (mapAddr s (base + size - 1)).1 == c

/-- The enables without the regions of channel c (R482). -/
def regionsWithout (s : State) (c en : Nat) : Nat :=
  let d := s.deep
  let keep := fun (i base size : Nat) => if bit en i && !touchesChan s c base size then 2 ^ i else 0
  keep 0 d.spillBase d.spillSize + keep 1 d.streamBase (2 ^ 26) + keep 2 d.gleanBase d.gleanSize

/-- A description takes force: the shared weights, the channel, and the loss of its regions, also of those still being initialised (R482; log 93). -/
def dramSet (c : Nat) (b : List Byte) (s0 : State) : State :=
  let s := syncDram c s0
  let cut := fun (en : Nat) => if (if c = 0 then s.deep.map0 else s.deep.map1) = 0 then en else regionsWithout s c en
  let s1 := modDeep (fun d => { d with
    weights := le b 14 2, copyWeight := byteAt b 16, enables := cut d.enables
    init := d.init.map (fun y => (y.1, y.2.1, cut y.2.2.1, y.2.2.2)) }) (modChan c (chanSet b) s)
  let on := s1.deep.ch0.ranks != 0 || s1.deep.ch1.ranks != 0
  { s1 with clk := { s1.clk with runDs := on, lockDs := on && (s.clk.lockDs || !s.clk.runDs) } }

def specDramConfigure : CmdSpec := { opcode := 0x0D01, priv := 1, mask := 0x1, lenOk := len 20 }
/-- R482. -/
def bodyDramConfigure (p : Packet) (s : State) : CmdResult :=
  let b := p.params
  let c := byteAt b 0
  checked (dramChecks b) <|
  if (chan s c).state = 2 then .refuse stBusy 0
  else
    let s1 := dramSet c b s
    .ok [] (if bit (byteAt b 5) 1 then
      { retWrite (0x840 + 64 * c) (slice (Config.dramDescription b) 0 64) s1 with
        ret := { (retWrite (0x840 + 64 * c) (slice (Config.dramDescription b) 0 64) s1).ret with descs := tput s1.ret.descs c b } }
    else s1)
def execDramConfigure (p : Packet) (s : State) : Host.Outcome State Fault Refusal := serveCmd specDramConfigure (unlessRetrain bodyDramConfigure) p s

def specDramTrain : CmdSpec := { opcode := 0x0D02, priv := 2, mask := 0x5, lenOk := len 4 }
/-- R483. -/
def bodyDramTrain (p : Packet) (s : State) : CmdResult :=
  let b := p.params
  let m := byteAt b 0
  checked [(m < 4, 0), (reservedAt b 1 3, 1)] <|
  if s.deep.training.isSome then .refuse stBusy 0
  else if (bitList 2 m).any (fun c => (chan s c).state == 0) then .conflict
  else .accepted (startTraining m (some (ticketFor specDramTrain p)) s)
def execDramTrain (p : Packet) (s : State) : Host.Outcome State Fault Refusal := serveCmd specDramTrain (unlessRetrain bodyDramTrain) p s

/-- Bytes that a channel gives a new map. -/
def readySize (x : Chan) : Nat := if chanReady x then chanSize x else 0

def specDramMapSet : CmdSpec := { opcode := 0x0D04, priv := 1, mask := 0x1, lenOk := len 4 }
/-- R484. A new map disables every region, also one still being initialised (R472; log 93). -/
def bodyDramMapSet (p : Packet) (s : State) : CmdResult :=
  let b := p.params
  checked [(8 ≤ byteAt b 0 && byteAt b 0 ≤ 16, 0), (reservedAt b 1 3, 1)] <|
  let st := fun c => (chan s c).state
  let okc := fun c => st c == 0 || chanReady (chan s c)
  if !(okc 0 && okc 1) || (st 0 == 0 && st 1 == 0) then .conflict
  else
    let on := fun (x : Chan) => { x with mapped := chanReady x }
    let m0 := readySize s.deep.ch0
    let m1 := readySize s.deep.ch1
    .ok (toLE 8 (m0 + m1) ++ toLE 8 (2 * min m0 m1))
      (modDeep (fun d => { d with
        grain := some (byteAt b 0), map0 := m0, map1 := m1, enables := 0, ch0 := on d.ch0, ch1 := on d.ch1
        init := d.init.map (fun y => (y.1, y.2.1, 0, y.2.2.2)) }) s)
def execDramMapSet (p : Packet) (s : State) : Host.Outcome State Fault Refusal := serveCmd specDramMapSet (unlessRetrain bodyDramMapSet) p s

/-- Do two byte ranges (base, size) overlap. -/
def overlaps (a b : Nat × Nat) : Bool := decide (a.1 < b.1 + b.2 && b.1 < a.1 + a.2)

def specDeepStoreSet : CmdSpec := { opcode := 0x0805, priv := 1, mask := 0x1, lenOk := lenForms 0 [(0, len 48)] }
/-- R485. -/
def bodyDeepStoreSet (p : Packet) (s : State) : CmdResult :=
  let b := p.params
  let en := byteAt b 4
  let mb := 2 ^ 20
  let gl := if bit en 2 then (le b 8 8, le b 16 8) else (0, 0)
  let st := if bit en 1 then (le b 24 8, 64 * mb) else (0, 0)
  let sp := if bit en 0 then (le b 32 8, le b 40 8) else (0, 0)
  let ins := fun (x : Nat × Nat) => s.deep.grain.isNone || decide (x.1 + x.2 ≤ deepSize s)
  let clash := fun (x y : Nat × Nat) => x.2 != 0 && y.2 != 0 && overlaps x y
  let glOk := (List.range 14).any (fun i => gl.2 == 128 * 2 ^ (i + 13))
  checked [(byteAt b 0 == 0, 0), (reservedAt b 1 3, 1), (en < 8, 4), (reservedAt b 5 3, 5),
    (!bit en 2 || (gl.1 % mb == 0 && ins gl), 8), (!bit en 2 || glOk, 16),
    (!bit en 1 || (st.1 % (64 * mb) == 0 && ins st && !clash gl st), 24),
    (!bit en 0 || (sp.1 % mb == 0 && ins sp && !clash gl sp && !clash st sp), 32),
    (!bit en 0 || (sp.2 % mb == 0 && decide (4 * mb ≤ sp.2) && decide (sp.2 ≤ 2 ^ 34)), 40)] <|
  if s.deep.init.isSome then .refuse stBusy 0
  else if s.deep.grain.isNone then .conflict
  else
    let t := ticketFor specDeepStoreSet p
    .accepted (modDeep (fun d => { d with
      enables := 0
      gleanBase := if bit en 2 then gl.1 else d.gleanBase, gleanSize := if bit en 2 then gl.2 else d.gleanSize
      streamBase := if bit en 1 then st.1 else d.streamBase
      spillBase := if bit en 0 then sp.1 else d.spillBase, spillSize := if bit en 0 then sp.2 else d.spillSize
      init := some (s.clk.edges, gl.2 + st.2 + sp.2, en, t) }) s)
def execDeepStoreSet (p : Packet) (s : State) : Host.Outcome State Fault Refusal := serveCmd specDeepStoreSet (unlessRetrain bodyDeepStoreSet) p s

def specDramStatus : CmdSpec := { opcode := 0x0D03, priv := 0, mask := 0xF, lenOk := len 4 }
/-- R485. -/
def bodyDramStatus (p : Packet) (s : State) : CmdResult :=
  let b := p.params
  let c := byteAt b 0
  checked [(c < 2, 0), (reservedAt b 1 3, 1)] <|
  let t := syncDram c s
  let x := chan t c
  .ok (toLE 1 x.state ++ toLE 1 x.cause ++ toLE 2 x.margin ++ toLE 8 (chanSize x) ++
    toLE 4 (tget 0 s.memErr (2 * (35 + c))) ++ toLE 4 (tget 0 s.memErr (2 * (35 + c) + 1)) ++ toLE 4 x.faults ++ toLE 4 x.poisonReads ++
    toLE 4 x.refillDrops ++ toLE 4 x.copyErrors ++ toLE 4 x.throttles ++ toLE 4 x.passes ++ toLE 2 s.deep.recs.length ++ zeros 2) t
def execDramStatus (p : Packet) (s : State) : Host.Outcome State Fault Refusal := serveCmd specDramStatus (unlessRetrain bodyDramStatus) p s

end Sys2Proof.Machine
end

