-- ==== Sys2Proof/Machine/Ports.lean ====
section
/-! DEFINITION. Lanes and ports: bring-up, link state, holding down, retraining, adaptation, FEC, and their commands (spec/03 R95-R108,
R119-R128). -/

namespace Sys2Proof.Machine

/-! ## The links go down and up (R99, R107) -/

/-- The frame in reception ends where it is, and then one that its sender has preempted: bad frames of the bytes received (R107). -/
def cutRx (p : Nat) (s : State) : State :=
  let cut := fun (s : State) => match (port s p).mac.rx with
    | none => s
    | some u => rxEnd p u false (modFrame u (fun x => { x with rxCut := some (rxBytes x s.clk.edges, 8) }) s)
  cut (cut s)

/-- The frame in transmission, or a preempted one, is lost (R107). -/
def loseTx (p : Nat) (s : State) : State :=
  let lose := fun (u i : Nat) (s : State) => match egCopy s p u i with
    | some c => discardEg p c (macCtr p 45 1 s)
    | none => s
  let s1 := match (port s p).drill.tx with
    | some t => lose t.uid t.id (modDrill p (fun d => { d with tx := none, freeAt := s.clk.edges }) (settlePay p s))
    | none => s
  pauseBegin p (match (port s1 p).drill.held with
    | some h => lose h.1 h.2 (modDrill p (fun d => { d with held := none }) s1)
    | none => s1)

/-- The transmit link goes down. -/
def txDown (p : Nat) (s : State) : State := txIdle p (modLink p (fun l => { l with txUp := false }) (loseTx p s))

/-- The MAC of a port in a 64b/66b mode answers a receive link that is down with remote-fault sequences, until it is up (R107; log 47). -/
def sendFault (p : Nat) (s : State) : State :=
  let l := (port s p).link
  if !coded64 (modeOf s p) || l.heldDown || !l.enabled || l.fault != 0 then s
  else emitOut (.control p (toBE 4 0x9C000002)) (modLink p (fun l => { l with fault := 2 }) s)

/-- The receive link of a port goes down: LINK_DOWN_COUNT counts it where count says, the event fires, and the addresses learned at the port
may be flushed (R107, R119, R121, R197). The last link change of PORT_STATUS is the receive link's (log 48). -/
def rxDown (p : Nat) (count : Bool) (s : State) : State :=
  if !(port s p).link.rxUp then s
  else
    let s1 := modLink p (fun l => { l with rxUp := false, lastChange := nowT64 s }) (cutRx p s)
    let s2 := if count then macCtr (laneCtrPort s p) 48 1 s1 else s1
    sendFault p (flushOnLinkDown p (fire (4 * p) 0x02 [] s2))

/-- The ports that a loss on the lane of a port takes down. -/
def lanePorts (s : State) (p : Nat) : List Nat := portsOfLane s ((lanesOf s p).headD p)

/-- A lane loss takes the receive links of its ports down: one LINK_DOWN_COUNT, which belongs to the lane, where one of them was up (R119). -/
def laneDown (ps : List Nat) (s : State) : State :=
  ps.foldl (fun t q => rxDown q false t) (if ps.any (fun q => (port s q).link.rxUp) then macCtr (laneCtrPort s (ps.headD 0)) 48 1 s else s)

/-- What a lane has received: sync headers in 64b/66b modes, and the invalid ones of the present error ratio window; sync, code-group
synchronisation in the other modes and marker alignment on a four-lane port; signal, is a signal detected (R99). -/
def laneHears (mode : Nat) (signal sync : Bool) (headers : List Nat) (ber : Nat) (x : Lane) : Lane :=
  if !signal then { unlock x with signal := false }
  else if coded64 mode then
    let y := headers.foldl hunt { x with signal := true }
    if y.lock && berLimit mode ≤ ber then unlock y else { y with aligned := y.lock && sync }
  else { x with signal := true, lock := sync }

/-- LINK_DOWN: the transmit link (rx clear); or the receive link, as a PHY or the in-band word of one port reports it (phy), so that the lane keeps
its lock, or by what a lane of the port hears. -/
def execLinkDown (p : Nat) (rx phy : Bool) (h : Hears) (s : State) : Host.Outcome State Fault Refusal :=
  if s.clk.coreStopped then .next s else
  if nPorts s ≤ p then .next s
  else if !rx then .next (txDown p s)
  else if phy then .next (rxDown p true s)
  else if !(lanesOf s p).contains h.lane then .next s
  else
    let s1 := modLane h.lane (laneHears (modeOf s p) h.signal h.sync h.headers h.ber) s
    .next (if portLocked s1 p then s1 else laneDown (lanePorts s1 p) s1)

/-- LINK_UP: what a lane of the port hears; the receive link comes up once every lane of the port holds lock, and goes down with the lock (R99, R107). -/
def execLinkUp (p : Nat) (g : Gains) (s : State) : Host.Outcome State Fault Refusal :=
  if s.clk.coreStopped then .next s else
  let x := port s p
  let l := x.link
  if !x.cfg.configured || !forwarding s || !(l.phase == 2 || l.phase == 3) || l.heldDown || !(lanesOf s p).contains g.lane then .next s
  else
    let s1 := modLane g.lane (fun x => { laneHears (modeOf s p) true g.sync g.headers 0 x with step := if x.fixed || x.frozen then x.step else g.step }) s
    if !portLocked s1 p then .next (laneDown (lanePorts s1 p) s1)
    else if phyMode x.cfg.mode && !l.phyUp then .next s1
    else if l.rxUp then .next (modLink p (fun l => { l with txUp := true }) s1)
    else
      let res := if stepping x.cfg then (if l.chosen = 0 then 2 else 1) else 0
      let s2 := modLink p (fun l => { l with
        rxUp := true, txUp := true, phase := 3, result := res, failReported := false, lastChange := nowT64 s, fault := 0
        speed := if phyMode x.cfg.mode then g.speed else l.speed }) s1
      .next (verifyStart p (fire (4 * p) 0x01 [] s2))

/-! ## Bring-up (R97, R104-R106) -/

/-- Does another port keep the lane of a port in bring-up or up: a QSGMII lane starts with the first of its ports (R123). -/
def laneStarted (s : State) (p : Nat) : Bool :=
  (lanePorts s p).any (fun q => let l := (port s q).link; q != p && 1 ≤ l.phase && l.phase ≤ 4 && !l.heldDown)

/-- The lane starts a training, unless another port has started it: an adaptive CTLE goes to step 6 (R100). -/
def trainLanes (p : Nat) (s : State) : State :=
  if laneStarted s p then s else setLanes p (fun x => { unlock x with step := if x.fixed then x.step else 6 }) s

/-- The lane is to run at a mode and FEC; chosen is the rate bit plus 1, 0 for MODE. -/
def settleAt (p mode fec chosen : Nat) (s : State) : State :=
  sendFault p (modLink p (fun l => { l with runMode := mode, runFec := fec, chosen := chosen, phase := 2, since := s.clk.edges, fault := 0, fecFrom := s.clk.edges }) s)

/-- The lane moves to a mode and FEC, and trains. -/
def moveTo (p mode fec chosen : Nat) (s : State) : State := settleAt p mode fec chosen (trainLanes p s)

def moveToMode (p : Nat) (s : State) : State := moveTo p (port s p).cfg.mode (port s p).cfg.fec 0 s

/-- The PHY's auto-negotiation is restarted: Clause 22 register 0 bit 9, or Clause 45 register 7.0 bit 9. -/
def phyRestart (p : Nat) (s : State) : State :=
  let m := (port s p).cfg.mode
  let a := (port s p).cfg.mdio
  if m = 6 then emitOut (.mdioWrite a 0x70000 0x200) s else if phyMode m then emitOut (.mdioWrite a 0 0x200) s else s

/-- Clause 37 with the step message: 1.25 Gbaud, offering a mask whose bit 0 is set (R105). The base page sets Next Page; its other bits are not
stated. -/
def negotiate (p offer : Nat) (s : State) : State :=
  let (v, s1) := takeFree 15 s
  emitOut (.control p (toBE 2 (0x8000 + v))) (modLink p (fun l => { l with
    runMode := 2, runFec := 0, chosen := 0, partnerMask := 0, offered := setBit (offer % 64) 0 true, phase := 1, since := s.clk.edges, fault := 0 }) (trainLanes p s1))

/-- The whole bring-up of an enabled port. -/
def bringUp (p : Nat) (s0 : State) : State :=
  let c := (port s0 p).cfg
  let s := phyRestart p (softPort p false (modLink p (fun l => { l with
    heldDown := false, txUp := false, retrains := [], polledAt := s0.clk.edges
    result := if l.failReported then 4 else if stepping c then 3 else 0 }) (loseTx p s0)))
  if stepping c then negotiate p c.stepMask s else moveToMode p s

/-- May a port start: enabled, in a state that forwards, and not held by a retired module (R104, R141). -/
def mayStart (s : State) (p : Nat) : Bool :=
  let x := port s p
  x.cfg.configured && x.link.enabled && !retiredPort s p && forwarding s

/-- An enabled port is due to start. -/
def startDue (p : Nat) (s : State) : State :=
  if mayStart s p then modLink p (fun l => { l with phase := 5, since := s.clk.edges }) (creditPort p s) else s

def execBringupStart (p : Nat) (s : State) : Host.Outcome State Fault Refusal :=
  if s.clk.coreStopped then .next s else
  .next (if (port s p).link.phase = 5 && mayStart s p then bringUp p s else s)

/-- Mode and FEC of a rate bit (R105). -/
def rateMode (b : Nat) : Nat × Nat :=
  match b with
  | 0 => (2, 0)
  | 1 => (4, 0)
  | 2 => (7, 0)
  | 3 => (8, 0)
  | 4 => (8, 1)
  | _ => (8, 2)

/-- The two next pages of the step message (R105), as the device sends them; the bits that Clause 37 sets as they pass, Ack and Toggle, are shown
as 0 (log 30). -/
def stepPages (p : Nat) (s : State) : State :=
  emitOut (.control p (toBE 2 (port s p).link.offered)) (emitOut (.control p (toBE 2 0xA4F5)) s)

/-- AUTONEG_COMPLETE: np, did the base page set Next Page and its first next page come; code, that page's message code; mask, what the
unformatted page held. Masks that share no rate move the lane to MODE and FEC (log 49). -/
def execAutonegComplete (p : Nat) (np : Bool) (code mask : Nat) (s : State) : Host.Outcome State Fault Refusal :=
  if s.clk.coreStopped then .next s else
  let l := (port s p).link
  if l.phase != 1 then .next s
  else if np && code = 0x4F5 then
    let m := mask % 64
    let s1 := modLink p (fun l => { l with partnerMask := m }) (stepPages p s)
    match ((List.range 6).reverse).find? (bit (m &&& l.offered)) with
    | some b => .next (moveTo p (rateMode b).1 (rateMode b).2 (b + 1) s1)
    | none => .next (moveToMode p s1)
  else
    let s1 := if np then emitOut (.control p (toBE 2 0x2001)) (emitOut (.control p (toBE 2 0xA4F5)) s) else s
    -- Case 2: a lane whose MODE is 1000BASE-X is at its rate already, and stays as it is.
    .next (if (port s p).cfg.mode = 2 then settleAt p 2 (port s p).cfg.fec 0 s1 else moveToMode p s1)

/-- STEP_WAIT_EXPIRY: STEP_WAIT passes with no valid ordered sets. -/
def execStepWaitExpiry (p : Nat) (s : State) : Host.Outcome State Fault Refusal :=
  if s.clk.coreStopped then .next s else
  let l := (port s p).link
  .next (if l.phase = 1 then moveToMode p (reachEdge (l.since + (port s p).cfg.stepWait * msE) s) else s)

/-- STEP_FAIL_TIMEOUT: 500 ms without lock after a step or a move to MODE (R106). -/
def execStepFailTimeout (p : Nat) (s0 : State) : Host.Outcome State Fault Refusal :=
  if s0.clk.coreStopped then .next s0 else
  let l := (port s0 p).link
  if l.phase != 2 || l.rxUp || !stepping (port s0 p).cfg then .next s0
  else
    let s := reachEdge (l.since + 500 * msE) s0
    let m := (lanesOf s p).headD p
    let s1 := if l.failReported then s else fire (0x100 + 2 * m) 0x01 [] s
    let s2 := modLink p (fun l => { l with failReported := true, result := 4 }) s1
    .next (if l.chosen = 0 then modLink p (fun l => { l with phase := 4, since := s2.clk.edges }) s2
      else negotiate p (l.offered % 2 ^ (l.chosen - 1)) s2)

/-- BRINGUP_RESTART: 1 s after a failed move to MODE. -/
def execBringupRestart (p : Nat) (s : State) : Host.Outcome State Fault Refusal :=
  if s.clk.coreStopped then .next s else
  let l := (port s p).link
  .next (if l.phase = 4 && mayStart s p then bringUp p (reachEdge (l.since + secE) s) else s)

/-- PHY_POLL: every 10 ms the PHY's status register is read, and bit 2 of it is the link; none where the transaction got no turnaround (R97). -/
def execPhyPoll (p : Nat) (status : Option Nat) (s0 : State) : Host.Outcome State Fault Refusal :=
  if s0.clk.coreStopped then .next s0 else
  let x := port s0 p
  if !x.cfg.configured || !x.link.enabled || !phyMode x.cfg.mode then .next s0
  else
    let s := reachEdge (x.link.polledAt + 10 * msE) s0
    let up := match status with | some v => bit v 2 | none => false
    let s1 := emitOut (.mdioRead x.cfg.mdio (if x.cfg.mode = 6 then 0x10001 else 1)) (modLink p (fun l => { l with phyUp := up, polledAt := s.clk.edges }) s)
    .next (if up then s1 else rxDown p true s1)

/-! ## Errors, adaptation, FEC (R98, R102, R103) -/

/-- A lane is forced to retrain; a fourth time within 1 s, of whichever lanes of its port (DESIGN CHOICE, log 86), restarts the port's bring-up. -/
def forceRetrain (m : Nat) (s : State) : State :=
  let ps := portsOfLane s m
  let p := ps.headD m
  let s2 := fire (0x100 + 2 * m) 0x02 [] (macCtr (laneCtrPort s p) 49 1 s)
  let s3 := modLane m (fun x => { unlock x with step := if x.fixed then x.step else 6, frozen := false, goodBlocks := 0, errs := [] }) s2
  let s4 := laneDown ps s3
  let now := s.clk.edges
  let l := ((port s p).link.retrains.filter (fun e => decide (now < e + secE))) ++ [now]
  let s5 := modLink p (fun x => { x with retrains := if 4 ≤ l.length then [] else l }) s4
  if 4 ≤ l.length then ps.foldl (fun t q => if mayStart t q then bringUp q t else t) s5 else s5

/-- n symbol errors on a lane: counted, and more than 32 within any 1 ms force a retrain (R103). A lane without lock counts none (DESIGN CHOICE, log 86). -/
def symbolErrors (m n : Nat) (s : State) : State :=
  if n = 0 || !(lane s m).lock then s
  else
    let now := s.clk.edges
    let w := ((lane s m).errs.filter (fun e => decide (now < e.1 + msE))) ++ [(now, n)]
    let s1 := modLane m (fun x => { x with errs := w }) (macCtr (laneCtrPort s ((portsOfLane s m).headD m)) 21 n s)
    if 32 < (w.map (·.2)).sum then forceRetrain m s1 else s1

/-- RETRAIN: so many symbol errors fall on a lane now. -/
def execRetrain (m errors : Nat) (s : State) : Host.Outcome State Fault Refusal :=
  if s.clk.coreStopped then .next s else
  .next (symbolErrors m errors s)

/-- ADAPTATION_FREEZE: a window of 1,024 UI with this many transitions. A lane with CTLE FIXED does not adapt, and does not freeze (DESIGN CHOICE, log 86). -/
def execAdaptationFreeze (m transitions : Nat) (s : State) : Host.Outcome State Fault Refusal :=
  if s.clk.coreStopped then .next s else
  let x := lane s m
  if x.fixed || x.density * 1024 ≤ transitions * 20 then .next s
  else
    let s1 := modLane m (fun x => { x with frozen := true, goodBlocks := 0 }) s
    .next (if x.frozen then s1 else fire (0x100 + 2 * m) 0x03 [] s1)

/-- ADAPTATION_RESUME: so many more consecutive blocks at or above the threshold, and the setting that an adapting CTLE has come to by then. -/
def execAdaptationResume (m : Nat) (r : Resumes) (s : State) : Host.Outcome State Fault Refusal :=
  if s.clk.coreStopped then .next s else
  .next (modLane m (fun x =>
    if x.frozen && x.goodBlocks + r.blocks < 4096 then { x with goodBlocks := x.goodBlocks + r.blocks }
    else { x with frozen := false, goodBlocks := 0, step := if x.fixed then x.step else r.step }) s)

/-- FEC_DEGRADE_WINDOW: the end of a 1 ms window, which began where the one before it ended (log 82), with its corrected and uncorrectable codewords
and those of its symbol errors that no RETRAIN has brought. -/
def execFecDegradeWindow (p corrected uncorrectable symbols : Nat) (s0 : State) : Host.Outcome State Fault Refusal :=
  if s0.clk.coreStopped then .next s0 else
  let x := port s0 p
  let m := (lanesOf s0 p).headD p
  if x.link.runFec = 0 then .next (symbolErrors m symbols s0)
  else
    let s := reachEdge (x.link.fecFrom + msE) s0
    let q := laneCtrPort s p
    let s1 := symbolErrors m symbols s
    let s2 := macCtr q 28 uncorrectable (macCtr q 27 corrected s1)
    let met := uncorrectable != 0 || decide (x.cfg.fecLimit < corrected)
    let s3 := modLink p (fun l => { l with fecArmed := !met, fecFrom := s.clk.edges }) s2
    .next (if met && x.link.fecArmed then fire (4 * p + 1) 0 [] s3 else s3)

/-! ## Holding down (R108) -/

/-- A port is held down as PORT_ENABLE with ENABLE 0 does: reception stops, the frame in transmission completes first. -/
def holdPort (p : Nat) (s : State) : State :=
  txIdle p (rxDown p true (modLink p (fun l => { l with heldDown := true, phase := 0, phyUp := false, fault := 0 }) (creditPort p s)))

/-- A port is held down at once: its lanes go to electrical idle (R77). -/
def holdNow (p : Nat) (s : State) : State := txDown p (holdPort p s)

/-- Every port is held down. -/
def holdAll (s : State) : State := (List.range (nPorts s)).foldl (fun s p => if (port s p).cfg.configured then holdNow p s else s) s

/-! ## Commands (R122-R128) -/

/-- The checks of PORT_CONFIGURE. Bits 6:5 of byte 15, which R122 neither lists nor calls reserved, are taken as reserved (DESIGN CHOICE, log 83). -/
def portChecks (s : State) (b : List Byte) : List (Bool × Nat) :=
  let p := byteAt b 0
  let m := byteAt b 1
  let base := (port s (p / 4 * 4)).cfg
  let modeOk := 1 ≤ m && m ≤ 9 && !(m == 1 && decide (48 ≤ p)) && !(m == 9 && p % 4 != 0) &&
    !(m == 5 && p % 4 != 0 && !(base.configured && base.mode == 5))
  let fecOk := if m = 8 then decide (byteAt b 2 ≤ 2) else if m = 9 then byteAt b 2 == 3 else byteAt b 2 == 0
  [(portExists s p, 0), (modeOk, 1), (fecOk, 2), (byteAt b 3 < 2, 3), (byteAt b 4 < 64 && bit (byteAt b 4) 0, 4), (byteAt b 5 < 16, 5),
    (1518 ≤ le b 6 2 && le b 6 2 ≤ 9216, 6), (10 ≤ le b 8 2 && le b 8 2 ≤ 10000, 8), (le b 10 2 ≤ 1000, 10), (byteAt b 12 < 128, 12),
    (byteAt b 13 < 8, 13), (byteAt b 14 < 16, 14), (bits (byteAt b 15) 6 5 == 0, 15), (byteAt b 16 < 8, 16), (byteAt b 17 < 8, 17),
    (10 ≤ le b 18 2 && le b 18 2 ≤ 1000, 18), (byteAt b 23 == 0, 23), (1 ≤ le b 24 2, 24), (reservedAt b 26 6, 26)]

/-- The configuration that a parameter block gives. -/
def portBlock (b : List Byte) : PortCfg :=
  let f := byteAt b 5
  { configured := true, mode := byteAt b 1, fec := byteAt b 2, bringup := byteAt b 3, stepMask := byteAt b 4, neverFallow := bit f 0, pauseRx := bit f 1
    pauseTx := bit f 2, pfcTx := bit f 3, maxFrame := le b 6 2, fallowDelay := le b 8 2, pauseWatchdog := le b 10 2, pfcRxMask := byteAt b 12
    defaultPcp := byteAt b 13, streamDomain := byteAt b 14, mdio := byteAt b 15, gooseClass := byteAt b 16, svClass := byteAt b 17, stepWait := le b 18 2
    pcpMap := le b 20 4, fecLimit := le b 24 2, vidRules := (List.range 8).map (fun i => le b (32 + 2 * i) 2) }

/-- The fields that follow the lane: those of a QSGMII sub-port are those of P(4k) (R123). -/
def laneFields (c d : PortCfg) : PortCfg := { d with mode := c.mode, fec := c.fec, bringup := c.bringup, stepMask := c.stepMask, mdio := c.mdio }

/-- Do the fields differ that change only while the port is disabled. -/
def lockedDiffer (c d : PortCfg) : Bool := c.maxFrame != d.maxFrame || laneFields c d != d

/-- A port takes a configuration. -/
def configurePort (p : Nat) (c : PortCfg) (s : State) : State :=
  modPort p (fun x => { x with
    cfg := c
    link := if laneFields c x.cfg != x.cfg then { x.link with runMode := 0, runFec := 0, speed := 0, result := 0, partnerMask := 0 } else x.link }) s

/-- The ports whose lanes or numbers a new mode of P(4k) would take. -/
def laneOwners (s : State) (p m : Nat) : List Nat :=
  let q := p / 4 * 4
  let base := (port s q).cfg
  let was5 := base.configured && base.mode == 5
  if p % 4 != 0 then (if was5 && m != 5 then [q] else [])
  else if (m = 9 || m = 5) && !was5 then ((List.range 3).map (q + 1 + ·)).filter (fun x => (port s x).cfg.configured && !(base.configured && base.mode == 9))
  else []

def specPortConfigure : CmdSpec := { opcode := 0x0201, priv := 1, mask := 0x7, lenOk := len 48 }
/-- R122, R123. -/
def bodyPortConfigure (p : Packet) (s : State) : CmdResult :=
  let b := p.params
  let pt := byteAt b 0
  let old := (port s pt).cfg
  let base := (port s (pt / 4 * 4)).cfg
  checked (portChecks s b) <|
  let quad := old.configured && old.mode == 5
  let sub := pt % 4 != 0 && quad && byteAt b 1 == 5
  let c := if sub then laneFields base (portBlock b) else portBlock b
  let subs := (List.range 3).map (pt + 1 + ·)
  let tied := pt % 4 == 0 && quad && laneFields c old != old
  if ((port s pt).link.enabled && lockedDiffer c old) || (tied && subs.any (fun q => (port s q).link.enabled)) then .conflict
  else if !(laneOwners s pt (byteAt b 1)).isEmpty then .refuse stExists 0
  else
    let s1 := configurePort pt c (touchPort pt true s)
    if pt % 4 != 0 then .ok [] s1
    else if c.mode = 5 && !quad then .ok [] (subs.foldl (fun s q => configurePort q c s) s1)
    else if c.mode = 5 then .ok [] (subs.foldl (fun s q => configurePort q (laneFields c (port s q).cfg) s) s1)
    else if quad then .ok [] (subs.foldl (fun s q => configurePort q {} s) s1)
    else .ok [] s1
def execPortConfigure (p : Packet) (s : State) : Host.Outcome State Fault Refusal := serveCmd specPortConfigure bodyPortConfigure p s

def specPortEnable : CmdSpec := { opcode := 0x0202, priv := 1, mask := 0x7, lenOk := len 4 }
/-- R123. -/
def bodyPortEnable (p : Packet) (s : State) : CmdResult :=
  let b := p.params
  let pt := byteAt b 0
  checked [(portExists s pt, 0), (byteAt b 1 < 2, 1), (reservedAt b 2 2, 2)] <|
  let on := byteAt b 1 == 1
  if !(port s pt).cfg.configured then .conflict
  else if (port s pt).link.enabled == on then .ok [] s
  else
    let s1 := modLink pt (fun l => { l with enabled := on }) (touchPort pt true (creditPort pt s))
    .ok [] (if on then startDue pt s1 else holdPort pt s1)
def execPortEnable (p : Packet) (s : State) : Host.Outcome State Fault Refusal := serveCmd specPortEnable bodyPortEnable p s

def specPortStatus : CmdSpec := { opcode := 0x0203, priv := 0, mask := 0xF, lenOk := len 4 }
/-- R124. The RETRAIN and FEC counts of a QSGMII sub-port are its lane's, kept at P(4k) (R119; log 48). A configured port that has not started its
bring-up shows its configured MODE and FEC as the running ones (log 48). -/
def bodyPortStatus (p : Packet) (s : State) : CmdResult :=
  let b := p.params
  let pt := byteAt b 0
  checked [(portExists s pt, 0), (reservedAt b 1 3, 1)] <|
  let x := port s pt
  let l := x.link
  let t := touchPort pt true s
  if !x.cfg.configured then .ok (zeros 40) t
  else
    let ls := (lanesOf s pt).map (lane s)
    let mk := fun (g : Lane → Bool) => (ls.zipIdx.filter (fun e => g e.1)).foldl (fun n e => n + 2 ^ e.2) 0
    let ctr := fun k => tget 0 (port s (laneCtrPort s pt)).mac.ctr k
    .ok (toLE 1 (b2n l.rxUp + 2 * b2n l.txUp + 4 * b2n (shownHeld s pt) + 8 * b2n l.enabled) ++ toLE 1 (modeOf s pt) ++
      toLE 1 (if l.runMode = 0 then x.cfg.fec else l.runFec) ++ toLE 1 l.result ++ toLE 1 l.partnerMask ++
      toLE 1 (if phyMode x.cfg.mode then l.speed else 0) ++ toLE 1 (mk (·.lock)) ++ toLE 1 (mk (·.frozen)) ++
      slice (ls.flatMap (fun y => toLE 1 y.step)) 0 4 ++ toLE 1 (maskOf ((List.range 7).filter (paused s pt))) ++ zeros 3 ++ toLE 8 l.lastChange ++
      toLE 4 (ctr 49) ++ toLE 4 (ctr 27) ++ toLE 4 (ctr 28) ++ zeros 4) t
def execPortStatus (p : Packet) (s : State) : Host.Outcome State Fault Refusal := serveCmd specPortStatus bodyPortStatus p s

def specLaneTune : CmdSpec := { opcode := 0x0204, priv := 1, mask := 0x7, lenOk := len 12 }
/-- R125; the sum of the FFE taps is charged to the last of them. -/
def bodyLaneTune (p : Packet) (s : State) : CmdResult :=
  let b := p.params
  let m := byteAt b 0
  checked [(laneExists s m && laneUsed_ s m, 0), (byteAt b 1 < 2, 1), (byteAt b 2 < 16, 2), (1 ≤ byteAt b 3 && byteAt b 3 ≤ 10, 3),
    (byteAt b 4 ≤ 16, 4), (32 ≤ byteAt b 5 && byteAt b 5 ≤ 64, 5), (byteAt b 6 ≤ 24 && byteAt b 4 + byteAt b 5 + byteAt b 6 ≤ 64, 6),
    (reservedAt b 7 5, 7)] <|
  let fixed := byteAt b 1 == 1
  .ok [] (modLane m (fun x => { x with
    fixed := fixed, step := if fixed then byteAt b 2 else x.step, density := byteAt b 3, pre := byteAt b 4, main := byteAt b 5, post := byteAt b 6 })
    ((portsOfLane s m).foldl (fun s q => touchPort q true s) s))
def execLaneTune (p : Packet) (s : State) : Host.Outcome State Fault Refusal := serveCmd specLaneTune bodyLaneTune p s

def specLaneEye : CmdSpec := { opcode := 0x0205, priv := 0, mask := 0xF, lenOk := len 4 }
/-- R126. -/
def bodyLaneEye (p : Packet) (s : State) : CmdResult :=
  let b := p.params
  let m := byteAt b 0
  checked [(laneExists s m, 0), (1 ≤ byteAt b 1 && byteAt b 1 ≤ 100, 1), (reservedAt b 2 2, 2)] <|
  if (lane s m).eye.isSome then .refuse stBusy 0
  else .accepted (modLane m (fun x => { x with eye := some (ticketFor specLaneEye p) }) ((portsOfLane s m).foldl (fun s q => touchPort q true s) s))
def execLaneEye (p : Packet) (s : State) : Host.Outcome State Fault Refusal := serveCmd specLaneEye bodyLaneEye p s

/-- LANE_EYE_DONE: the measured height in mV, width in mUI, and error count (R126). -/
def execLaneEyeDone (m height width errors : Nat) (s : State) : Host.Outcome State Fault Refusal :=
  if s.clk.coreStopped then .next s else
  match (lane s m).eye with
  | none => .next s
  | some t => .next (complete t stOk (toLE 2 height ++ toLE 2 width ++ toLE 4 errors ++ zeros 4) (modLane m (fun x => { x with eye := none }) s))

def specMacFilterSet : CmdSpec := { opcode := 0x0206, priv := 1, mask := 0x7, lenOk := len 12 }
/-- R127. -/
def bodyMacFilterSet (p : Packet) (s : State) : CmdResult :=
  let b := p.params
  let pt := byteAt b 0
  checked [(portExists s pt, 0), (byteAt b 1 < 4, 1), (byteAt b 2 < 2, 2), (reservedAt b 3 1, 3), (reservedAt b 10 2, 10)] <|
  .ok [] (modPort pt (fun x => { x with mac := { x.mac with
    filter := tset {} x.mac.filter (byteAt b 1) { valid := byteAt b 2 == 1, addr := be b 4 6 } } }) (touchPort pt true s))
def execMacFilterSet (p : Packet) (s : State) : Host.Outcome State Fault Refusal := serveCmd specMacFilterSet bodyMacFilterSet p s

def specMacStatsRead : CmdSpec := { opcode := 0x0207, priv := 0, mask := 0xF, lenOk := len 8 }
/-- R128. CLEAR clears the command's own view (R449). -/
def bodyMacStatsRead (p : Packet) (s : State) : CmdResult :=
  let b := p.params
  let pt := byteAt b 0
  let f := byteAt b 1
  let n := byteAt b 2
  checked [(portExists s pt, 0), (f < 50, 1), (1 ≤ n && n ≤ 50 && f + n ≤ 50, 2), (byteAt b 3 < 2, 3), (reservedAt b 4 4, 4)] <|
  let x := (port s pt).mac
  let ks := (List.range n).map (f + ·)
  let v := fun k => (tget 0 x.ctr k + 2 ^ 32 - tget 0 x.base k) % 2 ^ 32
  let s1 := if byteAt b 3 = 1 then
      modPort pt (fun y => { y with mac := { y.mac with base := ks.foldl (fun t k => tset 0 t k (tget 0 x.ctr k)) y.mac.base } }) s
    else s
  .ok (toLE 8 (nowT64 s) ++ ks.flatMap (fun k => toLE 4 (v k))) (touchPort pt true s1)
def execMacStatsRead (p : Packet) (s : State) : Host.Outcome State Fault Refusal := serveCmd specMacStatsRead bodyMacStatsRead p s

end Sys2Proof.Machine
end

