-- ==== Sys2Proof/Machine/Xcvr.lean ====
section
/-! DEFINITION. Transceivers: cages, insertion and removal, diagnostics, the ledger and its commands (spec/04). -/

namespace Sys2Proof.Machine

/-! ## The ledger record (R137) -/

def ledgerBody (l : Ledger) : List Byte :=
  [0x4C, 0x47, 0x01] ++ toLE 1 l.flags ++ toLE 4 l.writeSeq ++ toLE 4 l.laserHours ++ toLE 4 l.poweredHours ++ toLE 8 l.firstSeen ++
  toLE 8 l.lastWrite ++ (List.range 8).flatMap (fun i => toLE 2 (tget 0 l.baselines i)) ++ toLE 2 l.lastMean ++ toLE 1 l.lastBand ++
  toLE 1 l.insertions ++ toLE 1 l.retireReason ++ zeros 1
/-- The 56 bytes of a slot. -/
def ledgerBytes (l : Ledger) : List Byte := let b := ledgerBody l; b ++ toLE 2 (crc16 b)

def ledgerValid (b : List Byte) : Bool :=
  b.take 3 == [0x4C, 0x47, 0x01] && le b 54 2 == crc16 (b.take 54) && b.length == 56
def slotBlank (b : List Byte) : Bool := b.all (· == 0) || b.all (· == 0xFF)

def ledgerOf (b : List Byte) : Ledger :=
  { flags := byteAt b 3 % 8, writeSeq := le b 4 4, laserHours := le b 8 4, poweredHours := le b 12 4, firstSeen := le b 16 8, lastWrite := le b 24 8
    baselines := (List.range 8).foldl (fun t i => tset 0 t i (le b (32 + 2 * i) 2)) [], lastMean := le b 48 2, lastBand := byteAt b 50
    insertions := byteAt b 51, retireReason := byteAt b 52 }

/-- The slot that holds the current record: the valid one with the higher WRITE_SEQ modulo 2^32. -/
def currentSlot (a b : List Byte) : Nat :=
  if !ledgerValid a then 1
  else if !ledgerValid b then 0
  else
    let d := (le b 4 4 + 2 ^ 32 - le a 4 4) % 2 ^ 32
    if d != 0 && d < 2 ^ 31 then 1 else 0

/-! ## Cages -/

/-- Transceiver source of the first lane of a module (R142). -/
def xcvrEvent (c cause : Nat) (s : State) : State := fire (0x101 + 2 * c) cause [] s

/-- The ports of those lanes. -/
def modulePorts (s : State) (c : Nat) : List Nat := (moduleLanes (module s c) c).foldl (fun l m => l ++ (portsOfLane s m).filter (fun p => !l.contains p)) []

/-- Does a master serve the cage of a lane (R129). -/
def cageServed (s : State) (m : Nat) : Bool :=
  let k := master s (m / 8)
  decide (m < nPorts s) && !k.faulted && (k.mux || m % 8 == 0) && cageOf s m == m

/-! ## Ledger writes (R139) -/

/-- Does a job overwrite a ledger with a new one: XCVR_LEDGER_WRITE's initialisation (R143). -/
def renews (j : LedgerJob) : Bool := j.fresh && j.kind == 1

/-- The record of a write: a new ledger, or the device's own with WRITE_SEQ raised. A new one that overwrites another is not retired. -/
def nextRecord (s : State) (x : Module) (j : LedgerJob) : Ledger :=
  if j.fresh then
    { flags := x.ledger.flags &&& (if renews j then 4 else 5), writeSeq := 1, firstSeen := nowT64 s, lastWrite := nowT64 s, insertions := 1
      retireReason := if renews j then 0 else x.ledger.retireReason }
  else
    { x.ledger with
      writeSeq := wrap32 (x.ledger.writeSeq + 1), lastWrite := nowT64 s, laserHours := x.laserSec / 3600, poweredHours := x.poweredSec / 3600
      insertions := if x.newInsertion then satAdd 255 x.ledger.insertions 1 else x.ledger.insertions }

/-- The page writes of a record: 8 bytes each. -/
def emitPages (c : Nat) (qsfp : Bool) (off : Nat) : Nat → List Byte → State → State
  | 0, _, s => s
  | n + 1, b, s => emitPages c qsfp (off + 8) n (b.drop 8) (i2cOp c (emitOut (.i2cWrite c (if qsfp then 2 else 0x51) off (b.take 8))) s)

/-- What asked for a write that could not be made, or that failed, is answered (R143). -/
def jobFailed (j : LedgerJob) (s : State) : State :=
  match j.ticket with
  | none => s
  | some t => if j.kind = 1 then complete t stHwFault [] s else complete t stOk (zeros 4) s

/-- Can a write be made to the ledger of a module: to a VALID or NEW one, a fresh one to any, a READ_ONLY one among them (R140, R143; log 78). -/
def canWrite (c : Nat) (fresh : Bool) (s : State) : Bool :=
  let x := module s c
  !(master s (c / 8)).faulted && (x.state == 1 || x.state == 2 || fresh)

/-- The slot of a write: the one that does not hold the current record (R139); slot 0 where neither does (R140). -/
def writeSlot (x : Module) : Nat := if x.hasRecord then 1 - x.slot else 0

/-- The first of a list of writes that can be made begins; a fresh one is made to any ledger (R140, R143). -/
def startJobs (c : Nat) : List LedgerJob → State → State
  | [], s => s
  | j :: r, s =>
    if !canWrite c j.fresh s then startJobs c r (jobFailed j s)
    else
      let s := if renews j then creditModule c s else s
      let x := module s c
      let rec_ := nextRecord s x j
      let slot := writeSlot x
      emitPages c (x.identifier == 0x11) (128 + 56 * slot) 7 (ledgerBytes rec_)
        (modModule c (fun x =>
          let taken := fun (n : Nat) => if renews j then n else 0
          { x with write := some { slot := slot, record := rec_, laser0 := taken x.laserSec, powered0 := taken x.poweredSec,
                                   job := j, jobs := r } }) s)

/-- A write is asked for: it begins, or waits for the one in progress. -/
def askWrite (c : Nat) (j : LedgerJob) (s : State) : State :=
  match (module s c).write with
  | some w => modModule c (fun x => { x with write := some { w with jobs := w.jobs ++ [j] } }) s
  | none => startJobs c [j] s

/-- A command's write: one that cannot be made is kept until the ACCEPTED reply has gone (R143). XCVR_LEDGER_WRITE on a ledger that is not yet
classified waits for that (log 78). -/
def askKept (c : Nat) (j : LedgerJob) (s : State) : State :=
  if j.kind = 1 && (module s c).state = 0 then modModule c (fun x => { x with asked := x.asked ++ [j] }) s
  else if (module s c).write.isNone && !canWrite c j.fresh s then
    modModule c (fun x => { x with write := some { slot := x.slot, record := x.ledger, job := j, jobs := [] } }) s
  else askWrite c j s

/-- The writes that waited for the classification are asked for, in their order. -/
def runAsked (c : Nat) (s : State) : State :=
  (module s c).asked.foldl (fun s j => askWrite c j s) (modModule c (fun x => { x with asked := [] }) s)

/-- The writes that wait for the classification end without it: the master is faulted (R143). -/
def failAsked (c : Nat) (s : State) : State :=
  (module s c).asked.foldl (fun s j => jobFailed j s) (modModule c (fun x => { x with asked := [] }) s)

/-- A write kept that cannot be made ends with its COMPLETION. -/
def settleKept (c : Nat) (s : State) : State :=
  match (module s c).write with
  | none => s
  | some w => if canWrite c w.job.fresh s then s else startJobs c (w.job :: w.jobs) (modModule c (fun x => { x with write := none }) s)

/-- The device's own write; a second one is not queued behind itself. -/
def ownWrite (c : Nat) (fresh : Bool) (s : State) : State :=
  match (module s c).write with
  | some w => if w.jobs.any (fun j => j.kind == 0) then s else askWrite c { kind := 0, fresh := fresh, ticket := none } s
  | none => askWrite c { kind := 0, fresh := fresh, ticket := none } s

/-! ## The I2C masters (R131) -/

/-- I2C_BUS_RECOVERY: a recovery of a master whose SDA stays low; ok, is SDA high after it. -/
def execI2cBusRecovery (k : Nat) (ok : Bool) (s0 : State) : Host.Outcome State Fault Refusal :=
  if s0.clk.coreStopped then .next s0 else
  let m := master s0 k
  if 8 ≤ k || m.faulted then .next s0
  else
    let s := emitOut (.i2cRecover k) s0
    if ok then .next (modMaster k (fun m => { m with failed := 0 }) s)
    else if m.failed < 2 then .next (modMaster k (fun m => { m with failed := m.failed + 1 }) s)
    else .next ((List.range 8).foldl (fun s i => failAsked (8 * k + i) (xcvrEvent (8 * k + i) 0x09 s)) (modMaster k (fun m => { m with failed := 3, faulted := true, tryAt := s.clk.edges }) s))

/-- I2C_RECOVERY_RETRY: 10 s after the last attempt. -/
def execI2cRecoveryRetry (k : Nat) (ok : Bool) (s0 : State) : Host.Outcome State Fault Refusal :=
  if s0.clk.coreStopped then .next s0 else
  let m := master s0 k
  if !m.faulted then .next s0
  else
    let s := emitOut (.i2cRecover k) (reachEdge (m.tryAt + 10 * secE) s0)
    .next (modMaster k (fun m => if ok then { m with failed := 0, faulted := false } else { m with tryAt := s.clk.edges }) s)

/-! ## Insertion and removal (R132, R133, R140) -/

/-- A module is gone: what waited for it is answered NOT_FOUND, and the hold of a retired one ends (R133, R141, R143). -/
def moduleGone (c : Nat) (s : State) : State :=
  let x := module s c
  let ps := modulePorts s c
  let ts : List Ticket := ((match x.write with | some w => w.job :: w.jobs | none => []) ++ x.asked).filterMap (fun j => j.ticket)
  let s1 := ts.foldl (fun s t => complete t stNotFound [] s) (xcvrEvent c 0x02 (modModule c (fun x => { polledAt := x.polledAt }) s))
  if x.held then ps.foldl (fun s p => startDue p s) s1 else s1

/-- A master starts: it writes 0x00 to the multiplexer's address; mux, is that acknowledged (R129). -/
def masterStart (k : Nat) (mux : Bool) (s : State) : State :=
  if (master s k).started then s else emitOut (.i2cMux k 0) (modMaster k (fun x => { x with started := true, mux := mux }) s)

/-- MODULE_POLL: every 1 s; ident is what byte 0 of address 0x50 returned, none where it was not acknowledged; mux, what a master not yet started
finds at 0x70. A module of another identifier is reported by cause 0x01 alone, as any insertion is (R130; log 50). -/
def execModulePoll (m : Nat) (ident : Option Nat) (mux : Bool) (s0 : State) : Host.Outcome State Fault Refusal :=
  if s0.clk.coreStopped then .next s0 else
  if nPorts s0 ≤ m then .next s0
  else
    let s1 := masterStart (m / 8) mux s0
    if !cageServed s1 m then .next s1
    else
      let s2 := match (module s1 m).polledAt with | some e => reachEdge (e + secE) s1 | none => s1
      let s := i2cOp m (emitOut (.i2cRead m 0x50 0 1)) (modModule m (fun x => { x with polledAt := some s2.clk.edges }) s2)
      let x := module s m
      match ident with
      | some i =>
        if x.present then .next (modModule m (fun x => { x with misses := 0 }) s)
        else
          let i := i % 256
          let tracked := i == 0x03 || (i == 0x11 && m % 4 == 0)
          .next (xcvrEvent m 0x01 (modModule m (fun x => { x with
            present := true, identifier := i, tracked := tracked, insertedAt := s.clk.edges, countedAt := s.clk.edges }) s))
      | none =>
        if !x.present then .next s
        else if x.misses = 0 then .next (modModule m (fun x => { x with misses := 1 }) s)
        else .next (moduleGone m s)

/-- CC_BASE (R132): byte 63 is the sum of bytes 0-62. -/
def ccBaseOk (b : List Byte) : Bool := (b.take 63).foldl (fun n x => n + x.toNat) 0 % 256 == byteAt b 63

/-- The ports of a retired module are held down (R141). -/
def retireHold (c : Nat) (s : State) : State :=
  (modulePorts s c).foldl (fun s p => holdPort p s) (modModule c (fun x => { x with held := true }) (creditModule c s))

/-- The edge at which the daily write after a LAST_WRITE is due; one that lies ahead of the time base counts as now (R139; log 78). -/
def dailyDue (s : State) (last : Nat) : Nat := s.clk.edges + (86400 * secE - (nowNs s - nsOfT64 last) * 5 / 4)

/-- The ledger is classified (R140). A VALID record's NO_DDM is kept, whatever byte 92 says (log 78). RETIRED and REASON of an XCVR_RETIRE that came
before stand, and are written (R141). -/
def classify (c : Nat) (a b : List Byte) (noDdm : Bool) (s : State) : State :=
  let y := (module s c).ledger
  let early := bit y.flags 0
  let fl := (if noDdm then 4 else 0) + b2n early
  let blank : Ledger := { flags := fl, retireReason := y.retireReason }
  if ledgerValid a || ledgerValid b then
    let k := currentSlot a b
    let l := ledgerOf (if k = 0 then a else b)
    let s1 := modModule c (fun x => { x with
      state := 1, slot := k, hasRecord := true, stored := l, newInsertion := true, dailyAt := dailyDue s l.lastWrite
      ledger := { l with flags := l.flags ||| fl, retireReason := if early then y.retireReason else l.retireReason }
      laserSec := x.laserSec + 3600 * l.laserHours, poweredSec := x.poweredSec + 3600 * l.poweredHours }) s
    let s2 := if bit l.flags 0 then xcvrEvent c 0x08 (retireHold c s1) else s1
    if early then ownWrite c false s2 else s2
  else if slotBlank a && slotBlank b then ownWrite c true (modModule c (fun x => { x with state := 2, ledger := blank }) s)
  else xcvrEvent c 0x04 (modModule c (fun x => { x with state := 3, ledger := blank }) s)

/-- MODULE_DATA_READY: the identity bytes, the calibration constants of 0x51 bytes 56-91, and the two ledger slots as they were read. cleared: does
Data_Ready_Bar read clear; else 2 s pass first. A lane that carries no port counts as held down (log 51). -/
def execModuleDataReady (m : Nat) (cleared : Bool) (identity external : List Byte) (slots : LedgerSlots) (s0 : State) : Host.Outcome State Fault Refusal :=
  if s0.clk.coreStopped then .next s0 else
  let x := module s0 m
  if !x.present || x.ready || !x.tracked || (master s0 (m / 8)).faulted then .next s0
  else
    let sfp := x.identifier != 0x11
    let s := i2cOp m (fun s => emitOut (.i2cRead m (if sfp then 0x51 else 2) 128 112) (emitOut (if sfp then .i2cRead m 0x50 0 96 else .i2cRead m 0 128 96) s))
      (if cleared then s0 else reachEdge (x.insertedAt + 2 * secE) s0)
    let ext := if sfp && bit (byteAt identity 92) 4 then external else []
    let s1 := modModule m (fun x => { x with identity := identity, external := ext, ready := true }) s
    let s2 := if ccBaseOk identity then s1 else xcvrEvent m 0x03 s1
    let s3 := (moduleLanes x m).foldl (fun s k => if (portsOfLane s k).all (shownHeld s) then softTx k true s else s) s2
    .next (runAsked m (classify m slots.slot0 slots.slot1 (sfp && !bit (byteAt identity 92) 6) s3))

/-! ## Diagnostics (R134-R136) -/

/-- A raw value with the slope and offset of its calibration constants, at an offset from byte 56 (SFF-8472; log 53). -/
def calibrated (ext : List Byte) (o : Nat) (raw : Int) : Int :=
  if ext.isEmpty then raw else raw * (be ext o 2 : Nat) / 256 + signed 16 (be ext (o + 2) 2)

/-- An IEEE 754 single-precision number, in units of 2^-149. -/
def floatUnits (w : Nat) : Int :=
  let e := w / 2 ^ 23 % 256
  let m := w % 2 ^ 23
  let v : Nat := if e = 0 then m else (2 ^ 23 + m) * 2 ^ (e - 1)
  if bit w 31 then -(v : Int) else v

/-- Received power with the polynomial of bytes 56-75: the coefficient of the fourth power first (SFF-8472). -/
def calibratedRx (ext : List Byte) (raw : Nat) : Int :=
  if ext.isEmpty then raw
  else (List.range 5).foldl (fun (a : Int) i => a + floatUnits (be ext (4 * i) 4) * (raw ^ (4 - i) : Nat)) 0 / 2 ^ 149

/-- A value that does not go below 0 nor above 16 bits. -/
def clamp16 (v : Int) : Nat := min 65535 v.toNat

/-- The temperature band of a temperature in 1/256 degree. -/
def tempBand (t : Int) : Nat := min 7 ((t + 40 * 256) / (16 * 256)).toNat

/-- One bias sample in its band. A recorded baseline and LAST_MEAN are rounded down, and LAST_MEAN is at first the mean of fewer than 64 (log 78); the
end of life is judged by the exact running mean. -/
def biasSample (c : Nat) (b bias : Nat) (on : Bool) (s : State) : State :=
  let x := module s c
  let l := (bias :: tget [] x.samples b).take 64
  let total := l.foldl (· + ·) 0
  let mean := total / max 1 l.length
  let n := tget 0 x.baseCount b
  let take := on && n < 64 && tget 0 x.ledger.baselines b = 0
  let sum := tget 0 x.baseSum b + bias
  let bl := if take && n = 63 then tset 0 x.ledger.baselines b (sum / 64) else x.ledger.baselines
  let base := tget 0 bl b
  let eol := l.length = 64 && base != 0 && 3 * base * 64 < 2 * total && !bit x.ledger.flags 1
  let s1 := modModule c (fun x => { x with
    samples := tput x.samples b l
    baseCount := if take then tset 0 x.baseCount b (n + 1) else x.baseCount, baseSum := if take then tset 0 x.baseSum b sum else x.baseSum
    ledger := { x.ledger with baselines := bl, lastMean := mean % 65536, lastBand := b, flags := if eol then x.ledger.flags ||| 2 else x.ledger.flags } }) s
  if eol then ownWrite c false (xcvrEvent c 0x06 s1) else s1

/-- DDM_SAMPLE: one second after the last; the raw values read, by channel where there are four, and the module's alarm flags. The seconds count also
while the master is faulted, and for a module with no diagnostics nothing else does. -/
def execDdmSample (m temp : Nat) (r : Readings) (alarms : Nat) (s0 : State) : Host.Outcome State Fault Refusal :=
  if s0.clk.coreStopped then .next s0 else
  let x := module s0 m
  if !x.present || !x.ready then .next s0
  else
    let s := creditModule m (reachEdge (x.countedAt + secE) s0)
    let on := laserOn s m
    if (master s (m / 8)).faulted || bit x.ledger.flags 2 then .next s
    else
      let e := x.external
      let t := calibrated e 28 (signed 16 temp)
      let bs := r.bias.map (fun v => clamp16 (calibrated e 20 (v : Nat)))
      let read := if x.identifier = 0x11 then [(22, 2), (26, 2), (34, 24), (9, 6)] else [(96, 10), (112, 2)]
      let s1 := i2cOp m (fun s => read.foldl (fun s r => emitOut (.i2cRead m (if x.identifier = 0x11 then 0 else 0x51) r.1 r.2) s) s) s
      let s2 := modModule m (fun x => { x with
        temp := t, vcc := clamp16 (calibrated e 32 (r.vcc : Nat)), bias := bs, txPower := r.tx.map (fun v => clamp16 (calibrated e 24 (v : Nat)))
        rxPower := r.rx.map (fun v => clamp16 (calibratedRx e v)), alarms := alarms }) s1
      .next (biasSample m (tempBand t) (bs.foldl max 0) on (if andNot alarms x.alarms != 0 then xcvrEvent m 0x0A s2 else s2))

/-! ## Ledger rows (R139) -/

/-- LEDGER_DAILY_WRITE: 24 h after the previous write of a ledger that has been written; a write in progress is the previous one. -/
def execLedgerDailyWrite (m : Nat) (s : State) : Host.Outcome State Fault Refusal :=
  if s.clk.coreStopped then .next s else
  let x := module s m
  .next (if x.present && x.hasRecord && x.write.isNone && (x.state == 1 || x.state == 2) then ownWrite m false (reachEdge x.dailyAt s) else s)

/-- The record that XCVR_LEDGER_READ shows (R143). -/
def shownLedger (x : Module) : Ledger :=
  if x.state = 3 || x.state = 4 then { x.ledger with laserHours := x.laserSec / 3600, poweredHours := x.poweredSec / 3600 } else x.stored

/-- XCVR_LEDGER_READ's reply. A ledger that is not yet classified reads as state 0x00 and an empty record (DESIGN CHOICE, log 88). -/
def ledgerReply (x : Module) : List Byte :=
  ledgerBytes (shownLedger x) ++ toLE 4 (x.laserSec - 3600 * x.stored.laserHours) ++ toLE 1 x.state ++ toLE 1 x.slot ++ zeros 2

/-! ## Commands (R143) -/

/-- The cage that a command names. -/
def cmdCage (s : State) (p : Packet) : Nat := cageOf s (byteAt p.params 0)

/-- The refusals that the four commands share, in the order of checks 12 and 13 (R61). -/
def withModule (s : State) (p : Packet) (k : CmdResult) : CmdResult :=
  let c := cmdCage s p
  if !(module s c).present || !(module s c).tracked then .refuse stNotFound 0
  else if (master s (c / 8)).faulted then .refuse stHwFault 0
  else k

/-- Where PAGE names a page, byte 127 is read first, written with PAGE, and restored after the read: the bytes that the module returns begin with the
one that byte 127 held. -/
def specXcvrRead : CmdSpec := { opcode := 0x0301, priv := 0, mask := 0xF, lenOk := len 8 }
def bodyXcvrRead (p : Packet) (s : State) : CmdResult :=
  let b := p.params
  let n := byteAt b 4
  checked [(laneExists s (byteAt b 0), 0), (byteAt b 1 == 0x50 || byteAt b 1 == 0x51, 1), (1 ≤ n && n ≤ 128 && byteAt b 3 + n ≤ 256, 4),
    (reservedAt b 5 3, 5)] <|
  withModule s p <|
  match p.ext with
  | none => .refuse stNotFound 0
  | some d =>
    let c := cmdCage s p
    let a := byteAt b 1
    let pg := byteAt b 2
    let read := emitOut (.i2cRead c a (byteAt b 3) n)
    if pg = 0xFF then .ok (slice d 0 n ++ zeros ((4 - n % 4) % 4)) (i2cOp c read s)
    else .ok (slice d 1 n ++ zeros ((4 - n % 4) % 4)) (i2cOp c (fun s => emitOut (.i2cWrite c a 127 (slice d 0 1))
      (read (emitOut (.i2cWrite c a 127 (toLE 1 pg)) (emitOut (.i2cRead c a 127 1) s)))) s)

def specXcvrLedgerRead : CmdSpec := { opcode := 0x0302, priv := 0, mask := 0xF, lenOk := len 8 }
def bodyXcvrLedgerRead (p : Packet) (s : State) : CmdResult :=
  let b := p.params
  checked [(laneExists s (byteAt b 0), 0), (reservedAt b 1 7, 1)] <|
  withModule s p <| .ok (ledgerReply (module s (cmdCage s p))) s

def execXcvrRead (p : Packet) (s : State) : Host.Outcome State Fault Refusal := serveCmd specXcvrRead bodyXcvrRead p s
def execXcvrLedgerRead (p : Packet) (s : State) : Host.Outcome State Fault Refusal := serveCmd specXcvrLedgerRead bodyXcvrLedgerRead p s

/-- A slot is cleared: the other one of a ledger that was overwritten with a new one, so that the new record is the current one (log 52). -/
def blankSlot (c slot : Nat) (s : State) : State := emitPages c ((module s c).identifier == 0x11) (128 + 56 * slot) 7 (zeros 56) s

/-- The device's ledger after a write: with what the record numbered, or the new one. -/
def ledgerAfter (x : Module) (w : LedgerWrite) : Ledger :=
  let r := w.record
  if renews w.job then r
  else
    { x.ledger with writeSeq := r.writeSeq, lastWrite := r.lastWrite, firstSeen := r.firstSeen, laserHours := r.laserHours, poweredHours := r.poweredHours
                    insertions := r.insertions }

/-- A write whose slot read back right: it holds the current record, and the next daily write is due 24 h later. A new ledger that overwrote another
starts its baselines afresh, with none of the samples taken while it was written, and its counts but for the seconds of that time (DESIGN CHOICE, log
88); the other slot is cleared. -/
def ledgerWritten (m : Nat) (w : LedgerWrite) (s : State) : State :=
  let n := renews w.job
  modModule m (fun x => { x with
    write := none, slot := w.slot, hasRecord := true, stored := w.record, dailyAt := s.clk.edges + 86400 * secE, newInsertion := false
    state := if w.job.fresh then 2 else x.state
    ledger := ledgerAfter x w
    laserSec := x.laserSec - w.laser0, poweredSec := x.poweredSec - w.powered0
    baseSum := if n then [] else x.baseSum, baseCount := if n then [] else x.baseCount })
    (if n then blankSlot m (1 - w.slot) s else s)

/-- LEDGER_WRITE_DONE: back, what the slot reads back as; none where a page was not acknowledged within 10 ms, or the master is faulted. -/
def execLedgerWriteDone (m : Nat) (back : Option (List Byte)) (s0 : State) : Host.Outcome State Fault Refusal :=
  if s0.clk.coreStopped then .next s0 else
  match (module s0 m).write with
  | none => .next s0
  | some w =>
    let up := !(master s0 (m / 8)).faulted
    let s := if back.isSome && up then i2cOp m (emitOut (.i2cRead m (if (module s0 m).identifier = 0x11 then 2 else 0x51) (128 + 56 * w.slot) 56)) s0 else s0
    let ok := back == some (ledgerBytes w.record) && up
    let s1 := if ok then ledgerWritten m w s else xcvrEvent m 0x05 (modModule m (fun x => { x with write := none, state := 4 }) s)
    let s2 := match w.job.ticket with
      | none => s1
      | some t => if !ok then jobFailed w.job s1 else if w.job.kind = 1 then complete t stOk [] s1 else complete t stOk (toLE 1 1 ++ zeros 3) s1
    .next (startJobs m w.jobs s2)

def specXcvrLedgerWrite : CmdSpec := { opcode := 0x0303, priv := 1, mask := 0x7, lenOk := len 8 }
/-- R143. The ledger's state is an object condition, and comes before the fault of the master (checks 12 and 13 of R61). -/
def bodyXcvrLedgerWrite (p : Packet) (s : State) : CmdResult :=
  let b := p.params
  checked [(laneExists s (byteAt b 0), 0), (byteAt b 1 < 2, 1), (reservedAt b 2 6, 2)] <|
  let c := cmdCage s p
  let x := module s c
  let fresh := byteAt b 1 == 1
  if x.present && x.tracked && !fresh && (x.state = 3 || x.state = 4) then .conflict
  else withModule s p <| .accepted (askKept c { kind := 1, fresh := fresh, ticket := some (ticketFor specXcvrLedgerWrite p) } s)

/-- A command whose write, left by it and not to be made, ends after its reply. -/
def serveKept (c : CmdSpec) (body : Packet → State → CmdResult) (p : Packet) (s : State) : State :=
  let t := serve c (check8 c) body p s
  if (module s (cmdCage s p)).write.isNone then settleKept (cmdCage s p) t else t
def execXcvrLedgerWrite (p : Packet) (s : State) : Host.Outcome State Fault Refusal := .next (serveKept specXcvrLedgerWrite bodyXcvrLedgerWrite p s)

def specXcvrRetire : CmdSpec := { opcode := 0x0304, priv := 1, mask := 0x7, lenOk := len 8 }
/-- R141, R143. -/
def bodyXcvrRetire (p : Packet) (s : State) : CmdResult :=
  let b := p.params
  checked [(laneExists s (byteAt b 0), 0), (byteAt b 1 < 2, 1), (reservedAt b 3 5, 3)] <|
  withModule s p <|
  let c := cmdCage s p
  let x := module s c
  let on := byteAt b 1 == 1
  let was := bit x.ledger.flags 0 || x.held
  if on == was then .ok [] s
  else
    let j : LedgerJob := { kind := 2, fresh := false, ticket := some (ticketFor specXcvrRetire p) }
    if on then
      let s1 := modModule c (fun x => { x with ledger := { x.ledger with flags := x.ledger.flags ||| 1, retireReason := byteAt b 2 } }) (retireHold c s)
      .accepted (askKept c j (xcvrEvent c 0x07 s1))
    else
      let s1 := modModule c (fun x => { x with held := false, ledger := { x.ledger with flags := andNot x.ledger.flags 1, retireReason := 0 } })
        (creditModule c s)
      let s2 := (modulePorts s c).foldl (fun s q => startDue q s) s1
      .accepted (askKept c j s2)
def execXcvrRetire (p : Packet) (s : State) : Host.Outcome State Fault Refusal := .next (serveKept specXcvrRetire bodyXcvrRetire p s)

end Sys2Proof.Machine
end

