-- ==== Sys2Proof/Machine/Time.lean ====
section
/-! DEFINITION. The time base's corrections, the clock states, PPS and TOD, GPIO capture, and CLOCK_CONFIGURE, CLOCK_STATUS, GPIO_CAPTURE_SET
(spec/12 R400-R410, R419, R420, R430, R431, R434). -/

namespace Sys2Proof.Machine

def modTim (g : TimeState → TimeState) (s : State) : State := { s with tim := g s.tim }
def modRef (g : RefInputs → RefInputs) (s : State) : State := modTim (fun t => { t with ref := g t.ref }) s

/-- The time base in quarter nanoseconds. -/
def nowQ (s : State) : Nat := s.clk.tb * 4 / tbuPerNs
/-- Time base units in a quarter nanosecond. -/
def tbuPerQ : Nat := tbuPerNs / 4
def clampAdj (a : Int) : Int := max (-adjMax) (min adjMax a)

/-- The PTP engine's port p. -/
def ptpPort (s : State) (p : Nat) : PtpPort := tget ({} : PtpPort) s.tim.ptp p
def modPtp (p : Nat) (g : PtpPort → PtpPort) (s : State) : State := modTim (fun t => { t with ptp := tmod ({} : PtpPort) t.ptp p g }) s

/-! ## Clock states (R406, R407) -/

/-- The clock state changes, with source 0x181. -/
def setClock (new : Nat) (s : State) : State :=
  let old := s.tim.state
  if old = new then s
  else fire 0x181 0 (toLE 1 old ++ toLE 1 new ++ toLE 1 s.tim.cfg.mode) (modTim (fun t => { t with state := new }) s)

/-- The frequency word and the slew in force from now on. -/
def adjSeg (s : State) : AdjSeg := { since := s.clk.edges, adj := s.clk.adj, slew := s.clk.slew, rate := slewPerEdge s }

/-- In LOCKED what is in force is kept for the mean of R407. -/
def keepAdj (s : State) : State :=
  if s.tim.state = 2 then modTim (fun t => { t with adjHist := adjSeg s :: t.adjHist.take 4096 }) s else s

/-- ADJ takes a value. -/
def setAdj (a : Int) (s : State) : State := keepAdj { s with clk := { s.clk with adj := clampAdj a } }

/-- What the slew of a segment has absorbed k edges after its start, in time base units (R403). -/
def segTaken (g : AdjSeg) (k : Nat) : Int :=
  if g.slew < 0 then -((min g.slew.natAbs (k * g.rate) : Nat) : Int) else ((min g.slew.natAbs (k * g.rate) : Nat) : Int)

/-- The sum over the edges of a window, from w to til, of ADJ with what a slew adds to it, and the edges: an edge adds 4 ADJ to the time base
(R400, R403). -/
def adjSum (w : Nat) : Nat → List AdjSeg → Int × Nat
  | _, [] => (0, 0)
  | til, g :: r =>
    if til ≤ w then (0, 0)
    else
      let b := max g.since w
      let (x, n) := adjSum w (min til g.since) r
      (x + g.adj * ((til - b : Nat) : Int) + (segTaken g (til - g.since) - segTaken g (b - g.since)) / 4, n + (til - b))

/-- The mean of ADJ over the last 64 s of LOCKED (R407). -/
def meanAdj (s : State) : Int :=
  let (x, n) := adjSum (s.clk.edges - 64 * secE) s.clk.edges s.tim.adjHist
  if n = 0 then s.clk.adj else x / (n : Int)

/-- The reference is lost: from LOCKED the clock enters HOLDOVER, with ADJ frozen. -/
def enterHoldover (s : State) : State :=
  if s.tim.state != 2 then s
  else
    let a := meanAdj s
    let s1 := { s with clk := { s.clk with adj := clampAdj a, slew := 0 } }
    setClock 3 (modTim (fun t => { t with holdoverAt := s.clk.edges, adjAt := s.clk.edges, goodRun := 0, pendDelta := none }) s1)

/-- The command processor stops: the PTP messages that wait for it are discarded, and the PTP and GRANDMASTER servos stop (R406, R408). -/
def servosStop (s0 : State) : State :=
  let s := ptpLose 0 s0
  if s.tim.cfg.mode = 1 || s.tim.cfg.mode = 2 then enterHoldover s else s

/-- The clockClass sent; none where the state sends none (R406). -/
def classSent (s : State) : Option Nat :=
  match s.tim.state with
  | 0 => some 248
  | 1 => some (if s.tim.fromHoldover then 7 else 248)
  | 2 => if s.tim.cfg.mode = 2 then some 6 else none
  | 3 => some 7
  | _ => some 52

/-! ## Steps and slews (R403, R404) -/

/-- A forward step past a swap tick flips the bank bit at the step. -/
def flipIfDue (s : State) : State :=
  match s.swap with
  | some w => if w.flippedAt.isNone && w.tick ≤ nowNs s then
      { s with bankBit := 1 - s.bankBit, swap := some { w with flippedAt := some (nowT64 s, s.clk.edges) } } else s
  | none => s

/-- The time base and both replicas step by d units, with the consequences of R404. -/
def stepBy (d : Int) (s : State) : State :=
  let old := nowNs s
  let oldT := nowT64 s
  let dn := Int.tdiv d tbuPerNs
  let mv := fun (t : Nat) => ((t : Int) + dn).toNat
  let s1 := { s with clk := { s.clk with tb := (((s.clk.tb : Int) + d) % (tbWrap : Int)).toNat, slew := 0 } }
  let new := nowNs s1
  let stage := fun (x : FurrowSt) => { x with tab := { x.tab with
    staging := x.tab.staging.map (fun r => { r with te := mv r.te })
    bind := x.tab.bind.map (fun e => if x.tab.staging.any (fun r => r.te == e.2.te) then (e.1, { e.2 with te := mv e.2.te }) else e) } }
  let s2 := modFur 1 stage (modFur 0 stage s1)
  let s3 := { s2 with
    meters := tmap {} s2.meters (fun m => { m with last := mv m.last })
    hl := { s2.hl with noCompare := (min old new, max old (new + 128000)) :: s2.hl.noCompare.filter (fun w => decide (new ≤ w.2 + 1000000000)) }
    stook := { s2.stook with stepped := true }
    tim := { s2.tim with
      steps := wrap32 (s2.tim.steps + 1), lastStep := nowT64 s1
      pps0 := { s2.tim.pps0 with lastEdge := none }, pps1 := { s2.tim.pps1 with lastEdge := none } } }
  gateStep (flipIfDue (fire 0x180 0x01 (toLE 8 oldT ++ toLE 8 (unsigned 64 dn)) s3))

/-- A correction of d quarter nanoseconds is applied: a slew or a step. first: the first after FREE_RUN or HOLDOVER_EXPIRED. -/
def applyDelta (d : Int) (first : Bool) (s : State) : State :=
  let u := d * tbuPerQ
  let slew := { s with clk := { s.clk with slew := u } }
  if d.natAbs ≤ s.tim.cfg.stepThreshold * 4000 then slew
  else if !first && forwarding s && !s.tim.cfg.stepInRun then
    fire 0x180 0x02 (toLE 8 (nowT64 s) ++ toLE 8 (unsigned 64 (Int.tdiv d 4))) slew
  else stepBy u s

/-- Is CLK10M_IN the frequency reference: in GRANDMASTER while it is present (R405), taken as that of ACQUIRING and LOCKED (log 95). -/
def clk10mFreq (s : State) : Bool := s.tim.cfg.mode == 2 && s.tim.ref.clk10m && s.cp.running && (s.tim.state == 1 || s.tim.state == 2)

/-- TIME_CORRECTION: the servo applies the last measured difference, and the clock state follows (R403, R406). The frequency word that the
servo sets is a free value; with CLK10M_IN as the frequency reference ADJ follows that alone (R405). -/
def timeCorrection (d : Int) (s : State) : State :=
  let t := s.tim
  let small := d.natAbs ≤ 400
  let good := if small then t.goodRun + 1 else 0
  let next := if small && 16 ≤ good then 2 else if !small || t.state = 0 || 3 ≤ t.state then 1 else t.state
  let s1 := modTim (fun t => { t with
    lastDelta := d, pendDelta := none, goodRun := good, firstLock := false
    fromHoldover := if next = 2 then false else t.fromHoldover || t.state == 3 }) s
  let s2 := applyDelta d t.firstLock s1
  let (v, s3) := takeFree 32 s2
  let s4 := setClock next s3
  let s5 := if next = 2 && t.state != 2 then modTim (fun t => { t with adjHist := [adjSeg s4] }) s4 else s4
  if clk10mFreq s5 then keepAdj s5 else setAdj (signed 32 v) s5

def execTimeCorrection (s : State) : Host.Outcome State Fault Refusal :=
  if s.clk.coreStopped then .next s else
  match s.tim.pendDelta with
  | none => .next s
  | some d =>
    if s.tim.cfg.mode = 0 || (s.tim.cfg.mode != 3 && !s.cp.running) then .next (modTim (fun t => { t with pendDelta := none }) s)
    else .next (timeCorrection d s)

/-- REPLICA_COMPARE: drift, in units of 1/20,480,000,000,000 ns, is what the replica of a furrow has departed since the last epoch boundary
(R401). -/
def execReplicaCompare (f : Furrow) (drift : Int) (s0 : State) : Host.Outcome State Fault Refusal :=
  if s0.clk.coreStopped then .next s0 else
  let n := furNo f
  if !(fur s0 n).released || !powered s0 n || !(if n = 0 then s0.slices.coreA else s0.slices.coreB) then .next s0
  else
    let s := reachNs (epochNext (nowNs s0)) s0
    let off := if (fur s n).repReload then 0 else (fur s n).repOff + drift
    let dn := Int.tdiv off tbuPerNs
    let far := 4 * tbuPerNs < off.natAbs
    let s1 := modFur n (fun x => { x with repOff := off, repDiff := dn, repReload := far }) s
    .next (if far then fireFur n 0x186 0 (toLE 1 n ++ toLE 2 (unsigned 16 dn)) s1 else s1)

/-- REFERENCE_LOSS: the selected mode's reference passes its limit (R406). -/
def execReferenceLoss (s : State) : Host.Outcome State Fault Refusal :=
  if s.clk.coreStopped then .next s else
  let r := s.tim.ref
  let due := match s.tim.cfg.mode with
    | 1 => s.tim.slavePort.map (fun p => (ptpPort s p).syncAt + 3 * secE)
    | 2 => some (min (r.ppsLast + 3 * secE / 2) (r.todLast + 2 * secE))
    | _ => none
  match due with
  | none => .next s
  | some e => .next (if s.tim.state = 2 then enterHoldover (reachEdge e s) else s)

def execHoldoverExpiry (s : State) : Host.Outcome State Fault Refusal :=
  if s.clk.coreStopped then .next s else
  .next (if s.tim.state = 3 then
    setClock 4 (modTim (fun t => { t with firstLock := true, fromHoldover := false }) (reachEdge (s.tim.holdoverAt + s.tim.cfg.holdoverTime * secE) s))
  else s)

/-- HOLDOVER_EXT_MEASURE: CLK10M_IN's frequency against the time base, in units of 2^-12 ppb, in HOLDOVER with HOLDOVER_EXT (R407) and where it is
GRANDMASTER's frequency reference (R405). -/
def execHoldoverExtMeasure (deviation : Int) (s : State) : Host.Outcome State Fault Refusal :=
  if s.clk.coreStopped then .next s else
  if (s.tim.state = 3 && s.tim.cfg.holdoverExt && s.tim.ref.clk10m) || clk10mFreq s then
    let s1 := reachEdge (s.tim.adjAt + secE) s
    .next (setAdj (s1.clk.adj + deviation) (modTim (fun t => { t with adjAt := s1.clk.edges }) s1))
  else .next s

/-! ## UTC and leap seconds (R410) -/

/-- The UTC offset and leap flags that the reference gives; a leap first announced fires 0x187. -/
def setUtc (off : Int) (leap : Nat) (s : State) : State :=
  let s1 := modTim (fun t => { t with utc := off, leap := leap }) s
  if leap != 0 && s.tim.leap != leap then fire 0x187 0x01 [] s1 else s1

/-- LEAP_APPLY: at 23:59:60 UTC; for LEAP59 where the second it removes would begin. -/
def execLeapApply (s0 : State) : Host.Outcome State Fault Refusal :=
  if s0.clk.coreStopped then .next s0 else
  if s0.tim.leap = 0 then .next s0
  else
    let utcS := (nowNs s0 / 1000000000 : Nat) - s0.tim.utc
    let day := (utcS / 86400 + 1) * 86400
    let at_ := (day + s0.tim.utc - (if s0.tim.leap = 2 then 1 else 0)).toNat
    let s := reachNs (at_ * 1000000000) s0
    .next (fire 0x187 0x02 [] (modTim (fun t => { t with utc := if t.leap = 1 then t.utc + 1 else t.utc - 1, leap := 0 }) s))

/-! ## PPS_IN and TOD (R409, R422) -/

/-- PPS_IN_EDGE: an edge of the configured polarity. -/
def execPpsInEdge (s : State) : Host.Outcome State Fault Refusal :=
  if s.clk.coreStopped then .next s else
  let r := s.tim.ref
  let s1 := modRef (fun r => { r with ppsPresent := true, ppsLast := s.clk.edges, tod := none }) s
  let s2 := if r.ppsPresent then s1 else fire 0x182 0x02 [] s1
  match (if s.tim.cfg.mode = 2 && s.cp.running then r.tod else none) with
  | none => .next s2
  | some m => .next (modTim (fun t => { t with pendDelta := some ((m.seconds * 4000000000 : Nat) - (nowQ s : Nat)) }) s2)

/-- Is a TOD message good (R409). -/
def todOk (b : List Byte) : Bool :=
  b.length == 20 && byteAt b 0 == 0xC3 && byteAt b 1 == 1 && byteAt b 2 == 15 && le b 18 2 == crc16 ((b.drop 1).take 17) && bit (byteAt b 11) 2

def execTodRxMessage (bytes : List Byte) (s : State) : Host.Outcome State Fault Refusal :=
  if s.clk.coreStopped then .next s else
  if !todOk bytes then .next s
  else
    let fl := byteAt bytes 11
    let m : TodMsg := { seconds := le bytes 3 6 % 2 ^ 34, utcOffset := signed 16 (le bytes 9 2), flags := fl, clockClass := byteAt bytes 12
                        accuracy := byteAt bytes 13, variance := le bytes 14 2 }
    let s1 := modRef (fun r => { r with tod := some m, todValid := true, todLast := s.clk.edges }) s
    .next (if s.tim.cfg.mode = 2 then setUtc m.utcOffset (if bit fl 0 then 1 else if bit fl 1 then 2 else 0) s1 else s1)

/-- The device's own TOD message for a second (R409). -/
def todMessage (s : State) (sec : Nat) : List Byte :=
  let ok := s.tim.state == 2 || s.tim.state == 3
  let own := match s.tim.ref.tod with | some m => (m.accuracy, m.variance) | none => (0xFE, 0xFFFF)
  let b := toLE 1 1 ++ toLE 1 15 ++ toLE 6 sec ++ toLE 2 (unsigned 16 s.tim.utc) ++
    toLE 1 (b2n (s.tim.leap == 1) + 2 * b2n (s.tim.leap == 2) + 4 * b2n ok + 8 * b2n ok) ++ toLE 1 ((classSent s).getD 248) ++ toLE 1 own.1 ++
    toLE 2 own.2 ++ zeros 2
  toLE 1 0xC3 ++ b ++ toLE 2 (crc16 b)

/-- TOD_TX_MESSAGE: between 100 ms and 500 ms after a second, labelling the next. -/
def execTodTxMessage (s0 : State) : Host.Outcome State Fault Refusal :=
  if !coreLive s0 then .next s0
  else
    let now := nowNs s0
    let sec := now / 1000000000
    let sub := now % 1000000000
    let t := if sub < 100000000 then sec * 1000000000 + 100000000 else if sub ≤ 500000000 then now else (sec + 1) * 1000000000 + 100000000
    let s := reachNs t s0
    .next (emitOut (.todTx (todMessage s (t / 1000000000 + 1))) s)

/-- CLK10M_PRESENCE: present after 1,000 good periods, lost after 2 us without an edge (R539). -/
def execClk10mPresence (present : Bool) (s : State) : Host.Outcome State Fault Refusal :=
  if s.clk.coreStopped then .next s else
  .next (if s.tim.ref.clk10m == present then s else fire 0x182 (if present then 4 else 3) [] (modRef (fun r => { r with clk10m := present }) s))

/-- REFERENCE_INPUT_TIMEOUT: PPS_IN without an edge for 1.5 s, or TOD_RX without a valid message for 2 s (R422). -/
def execReferenceInputTimeout (tod : Bool) (s : State) : Host.Outcome State Fault Refusal :=
  if s.clk.coreStopped then .next s else
  let r := s.tim.ref
  if tod then
    .next (if r.todValid then fire 0x182 0x05 [] (modRef (fun r => { r with todValid := false, tod := none }) (reachEdge (r.todLast + 2 * secE) s)) else s)
  else .next (if r.ppsPresent then fire 0x182 0x01 [] (modRef (fun r => { r with ppsPresent := false }) (reachEdge (r.ppsLast + 3 * secE / 2) s)) else s)

/-! ## PPS outputs (R419) -/

def ppsOut (s : State) (n : Nat) : PpsOut := if n = 0 then s.tim.pps0 else s.tim.pps1
def modPps (n : Nat) (g : PpsOut → PpsOut) (s : State) : State :=
  modTim (fun t => if n = 0 then { t with pps0 := g t.pps0 } else { t with pps1 := g t.pps1 }) s

/-- The next leading edge of an output, in nanoseconds. -/
def ppsNext (s : State) (y : PpsOut) : Nat :=
  let off := unsigned 64 (y.offset % 1000000000)
  let now := nowNs s
  let p := max 1 y.period
  let t := ceilDiv (now / 1000000000) p * p * 1000000000 + off
  if t < now || y.lastEdge == some t then t + p * 1000000000 else t

/-- PPS_OUT_EDGE: a leading edge; a new configuration takes force at it. -/
def execPpsOutEdge (n : Nat) (s0 : State) : Host.Outcome State Fault Refusal :=
  if !coreLive s0 then .next s0
  else
    let t := ppsNext s0 (ppsOut s0 n)
    let s := reachNs t s0
    let s1 := modPps n (fun y => match y.next with
      | some (p, w, pol, sq, off) => { period := p, width := w, polarity := pol, squelch := sq, offset := off, lastEdge := some t }
      | none => { y with lastEdge := some t }) s
    let y := ppsOut s1 n
    .next (if y.squelch && untraceable s1 then s1 else emitOut (.ppsEdge n (t64OfNs t) y.width y.polarity) s1)

/-! ## GPIO capture (R420, R434) -/

/-- Is an edge to a level of a selected kind. -/
def edgeSelected (e : Nat) (level : Bool) : Bool := if level then bit e 0 else bit e 1

/-- A change of level is accepted: its stamp, the record, the chatter limit, the Gleaner's trigger. -/
def gpioAccept (n : Nat) (level : Bool) (ns qns : Nat) (s : State) : State :=
  let g := gpio s n
  let now := s.clk.edges
  let recent := ((g.recent.filter (fun e => decide (now < e + secE))) ++ [now])
  let cnt := wrap32 (g.count + 1)
  let sel := edgeSelected g.edges level
  let s1 := modGpio n (fun g => { g with accepted := level, changing := none, count := cnt, recent := recent }) s
  let s2 := if !sel then s1
    else if g.silenced then modGpio n (fun g => { g with notRecorded := wrap32 (g.notRecorded + 1), silentRecords := wrap32 (g.silentRecords + 1) }) s1
    else fireStamp (t64OfNs ns) qns (0x1C0 + n) 0x01 (toLE 1 (b2n level) ++ zeros 3 ++ toLE 4 g.debounce ++ toLE 4 cnt) s1
  let s3 := if !g.silenced && g.chatter != 0 && g.chatter ≤ recent.length then
      fire (0x1C0 + n) 0x02 [] (modGpio n (fun g => { g with silenced := true, silentRecords := 0 }) s2) else s2
  (glTrigger 2 ns (sel && bit s3.gle.gpioMask n) s3).2

/-- GPIO_INPUT_CHANGE: the first sample at a new level. -/
def execGpioInputChange (n : Nat) (level : Bool) (s : State) : Host.Outcome State Fault Refusal :=
  let g := gpio s n
  if 32 ≤ n || g.level == level then .next s
  else
    let s1 := modGpio n (fun g => { g with level := level }) s
    if s.clk.coreStopped then .next s1
    else if level == g.accepted then
      .next (if g.changing.isSome then modGpio n (fun g => { g with changing := none, glitches := wrap32 (g.glitches + 1) }) s1 else s1)
    else if g.debounce = 0 then .next (gpioAccept n level (nowNs s) (nowQns s) s1)
    else .next (modGpio n (fun g => { g with changing := some (nowNs s, nowQns s, s.clk.edges) }) s1)

/-- GPIO_EDGE_ACCEPT: the new level has held for DEBOUNCE. -/
def execGpioEdgeAccept (n : Nat) (s : State) : Host.Outcome State Fault Refusal :=
  if s.clk.coreStopped then .next s else
  let g := gpio s n
  match g.changing with
  | none => .next s
  | some (ns, q, e) => .next (gpioAccept n g.level ns q (reachEdge (e + g.debounce * usE) s))

/-- A silenced input records again, with the count of the edges not recorded. -/
def gpioResume (n : Nat) (s : State) : State :=
  let g := gpio s n
  if g.silenced then
    fire (0x1C0 + n) 0x03 (toLE 4 g.silentRecords) (modGpio n (fun g => { g with silenced := false, silentRecords := 0, recent := [] }) s)
  else s

/-- GPIO_CHATTER_QUIET: 1 s without an accepted edge. -/
def execGpioChatterQuiet (n : Nat) (s : State) : Host.Outcome State Fault Refusal :=
  if s.clk.coreStopped then .next s else
  let g := gpio s n
  if !g.silenced then .next s else .next (gpioResume n (reachEdge (g.recent.getLastD 0 + secE) s))

def specGpioCaptureSet : CmdSpec := { opcode := 0x0B05, priv := 1, mask := 0xF, lenOk := lenForms 6 [(0, len 8), (1, len 8)] }
/-- R434. -/
def bodyGpioCaptureSet (p : Packet) (s : State) : CmdResult :=
  let b := p.params
  let n := byteAt b 0
  checked [(byteAt b 6 < 2, 6), (n < 32, 0), (byteAt b 1 < 4, 1), (le b 4 2 ≤ 1000, 4), (reservedAt b 7 1, 7)] <|
  if byteAt b 6 = 0 then
    .ok [] (modGpio n (fun g => { g with
      edges := byteAt b 1, debounce := le b 2 2, chatter := le b 4 2, changing := none, accepted := g.level, recent := [] }) (gpioResume n s))
  else
    let g := gpio s n
    .ok (toLE 1 (b2n g.level) ++ zeros 3 ++ toLE 4 g.count ++ toLE 4 g.glitches ++ toLE 4 g.notRecorded) s
def execGpioCaptureSet (p : Packet) (s : State) : Host.Outcome State Fault Refusal := serveCmd specGpioCaptureSet bodyGpioCaptureSet p s

/-! ## CLOCK_CONFIGURE and CLOCK_STATUS (R430, R431) -/

/-- The checks of a PPS output at an offset. -/
def ppsChecks (b : List Byte) (o : Nat) : List (Bool × Nat) :=
  [(1 ≤ le b o 2 && le b o 2 ≤ 3600, o), (1 ≤ le b (o + 2) 4 && le b (o + 2) 4 ≤ 500000 && decide (le b (o + 2) 4 < le b o 2 * 1000000), o + 2),
    (byteAt b (o + 6) < 4, o + 6), (reservedAt b (o + 7) 1, o + 7)]
def ppsSet (b : List Byte) (o off : Nat) (y : PpsOut) : PpsOut :=
  { y with next := some (le b o 2, le b (o + 2) 4, bit (byteAt b (o + 6)) 0, bit (byteAt b (o + 6)) 1, signed 32 (le b off 4)) }
def offsetOk (b : List Byte) (o : Nat) : Bool := let v := signed 32 (le b o 4); decide (-500000000 ≤ v) && decide (v ≤ 500000000)

/-- The clock identity: the management address as EUI-64 (R412). -/
def clockIdentity (s : State) : Nat :=
  let m := s.opt.mgmtMac
  m / 2 ^ 24 * 2 ^ 40 + 0xFFFE * 2 ^ 24 + m % 2 ^ 24

/-- A port changes state, with source 0x189 (R412). -/
def setPtpState (p new : Nat) (s : State) : State :=
  let old := (ptpPort s p).state
  if old = new then s
  else
    let s1 := modPtp p (fun x => { x with state := new, sync := none, qualAt := if new = 5 then x.qualAt else none
                                          txAt := if new = 6 then tdel (tdel x.txAt 0) 11 else x.txAt }) s
    fire 0x189 0x02 (toLE 1 p ++ toLE 1 old ++ toLE 1 new) s1

/-- The grandmaster that the device follows, or is. -/
def gmNow (s : State) : Nat := match s.tim.parent with | some x => x.gm | none => clockIdentity s

/-- A change of grandmaster fires source 0x189 (R412). -/
def gmEvent (old : Nat) (s : State) : State := if gmNow s = old then s else fire 0x189 0x01 (toBE 8 (gmNow s)) s

/-- The PTP protocol restarts: every port listens again, and no foreign master is known. -/
def ptpRestart (s : State) : State :=
  let s1 := s.tim.ptp.foldl (fun s e => setPtpState e.1 (if e.2.role = 0 || e.2.role = 3 then 3 else 4) s) s
  gmEvent (gmNow s) (modTim (fun t => { t with
    parent := none, slavePort := none, tcs := [], pendDelta := none
    ptp := t.ptp.map (fun e => (e.1, { e.2 with
      foreign := [], announceAt := s.clk.edges, sync := none, req := none, resp := none, answering := [], qualAt := none })) }) s1)

def clockBlock (b : List Byte) : ClockCfg :=
  let f := byteAt b 5
  { mode := byteAt b 0, profile := byteAt b 1, domain := byteAt b 2, prio1 := byteAt b 3, prio2 := byteAt b 4, slaveOnly := bit f 0, holdoverExt := bit f 1
    stepInRun := bit f 2, ppsFalling := bit f 3, slewMax := le b 6 2, stepThreshold := le b 8 4, holdoverTime := le b 12 4
    utcOffset := signed 16 (le b 16 2), leap := byteAt b 18, ptpClass := byteAt b 19, todBaud := le b 28 4 }

def specClockConfigure : CmdSpec := { opcode := 0x0B01, priv := 1, mask := 0xF, lenOk := len 64 }
/-- R430. -/
def bodyClockConfigure (p : Packet) (s : State) : CmdResult :=
  let b := p.params
  let c := clockBlock b
  let st := le b 20 8
  checked (([(c.mode < 4, 0), (c.profile == 1 || c.profile == 2, 1), (byteAt b 5 < 16, 5), (1 ≤ c.slewMax && c.slewMax ≤ 500, 6),
    (1 ≤ c.stepThreshold && c.stepThreshold ≤ 1000000, 8), (1 ≤ c.holdoverTime && c.holdoverTime ≤ 86400, 12), (c.leap < 3, 18), (c.ptpClass < 7, 19),
    (t64Ok st && (st == 0 || c.mode == 0), 20), (9600 ≤ c.todBaud && c.todBaud ≤ 460800, 28)] : List (Bool × Nat)) ++ ppsChecks b 32 ++ ppsChecks b 40 ++
    [(offsetOk b 48, 48), (offsetOk b 52, 52), (reservedAt b 56 8, 56)]) <|
  if c.mode = 3 && s.tim.irig.inFormat = 0 then .conflict
  else
    let old := s.tim.cfg
    let s1 := modPps 1 (ppsSet b 40 52) (modPps 0 (ppsSet b 32 48) (keepAdj (modTim (fun t => { t with cfg := c }) s)))
    let s2 := if c.mode != old.mode || c.profile != old.profile then
        let r := ptpRestart (modTim (fun t => { t with
          goodRun := 0, pendDelta := none, fromHoldover := t.state == 3, firstLock := t.firstLock || t.state == 0 || t.state == 4 || c.mode == 0 }) s1)
        setClock (if c.mode = 0 then 0 else 1) r
      else s1
    let s3 := if c.mode = 0 then setUtc c.utcOffset c.leap s2 else s2
    .ok [] (if st = 0 then s3 else stepBy (((nsOfT64 st * tbuPerNs : Nat) : Int) - s3.clk.tb) s3)
def execClockConfigure (p : Packet) (s : State) : Host.Outcome State Fault Refusal := serveCmd specClockConfigure bodyClockConfigure p s

def specClockStatus : CmdSpec := { opcode := 0x0B02, priv := 0, mask := 0xF, lenOk := len 0 }
/-- R431. Where the state sends no clockClass, byte 2 is a free value. -/
def bodyClockStatus (_ : Packet) (s0 : State) : CmdResult :=
  let (cls, s) := match classSent s0 with | some c => (c, s0) | none => takeFree 8 s0
  let t := s.tim
  let fl := b2n (untraceable s) + 2 * b2n t.ref.ppsPresent + 4 * b2n t.ref.clk10m + 8 * b2n t.ref.todValid + 16 * b2n t.ref.irigLocked + 32 * b2n (t.leap != 0)
  let gm := match t.parent with | some x => if t.cfg.mode = 1 then x.gm else clockIdentity s | none => clockIdentity s
  let delay := match t.slavePort with | some q => (ptpPort s q).linkDelay | none => 0
  let rep := fun f => toLE 2 (unsigned 16 (fur s f).repDiff)
  .ok (toLE 1 t.state ++ toLE 1 t.cfg.mode ++ toLE 1 cls ++ toLE 1 fl ++ toLE 8 (nowT64 s) ++ toLE 8 (unsigned 64 t.lastDelta) ++
    toLE 4 (unsigned 32 delay) ++ toLE 4 (unsigned 32 (adjNow s)) ++ toBE 8 gm ++ toLE 2 (unsigned 16 t.utc) ++ toLE 1 (t.slavePort.getD 0xFF) ++ zeros 1 ++
    toLE 4 t.steps ++ toLE 8 t.lastStep ++ toLE 4 (if t.state = 3 then (s.clk.edges - t.holdoverAt) / secE else 0) ++ rep 0 ++ rep 1 ++ toLE 4 t.ptpDiscards) s
def execClockStatus (p : Packet) (s : State) : Host.Outcome State Fault Refusal := serveCmd specClockStatus bodyClockStatus p s

end Sys2Proof.Machine
end

