-- ==== Sys2Proof/Machine/Ptp.lean ====
section
/-! DEFINITION. The PTP engine: messages, the port state machine, the best master clock algorithm, transparent clocks, stamps, and PTP_PORT_SET
(spec/12 R408, R411-R415, R432). Message layouts and the algorithm are those of IEEE 1588-2019, which R412 makes the rule. -/

namespace Sys2Proof.Machine

/-! ## Messages -/

/-- A message as received: the bytes from its header. -/
structure PtpMsg where
  kind : Nat
  b : List Byte

def PtpMsg.domain (m : PtpMsg) : Nat := byteAt m.b 4
def PtpMsg.twoStep (m : PtpMsg) : Bool := bit (byteAt m.b 6) 1
def PtpMsg.corr (m : PtpMsg) : Int := signed 64 (be m.b 8 8)
/-- The source port identity as one 80-bit number. -/
def PtpMsg.src (m : PtpMsg) : Nat := be m.b 20 10
def PtpMsg.seq (m : PtpMsg) : Nat := be m.b 30 2
/-- The timestamp of a message's body, in quarter nanoseconds. -/
def PtpMsg.stamp (m : PtpMsg) : Nat := be m.b 34 6 * 4000000000 + be m.b 40 4 * 4

/-- The least length of a message by type. -/
def ptpMin (k : Nat) : Nat :=
  match k with
  | 0 | 1 | 8 => 44
  | 2 | 3 | 9 | 10 => 54
  | 11 => 64
  | _ => 34

/-- A correctionField value of d quarter nanoseconds. -/
def corrOfQ (d : Int) : Int := d * 2 ^ 14
/-- Quarter nanoseconds of a correctionField value. -/
def qOfCorr (c : Int) : Int := Int.tdiv c (2 ^ 14)

/-- An 80-bit timestamp of quarter nanoseconds. -/
def ptpStamp (q : Nat) : List Byte := toBE 6 (q / 4 / 1000000000) ++ toBE 4 (q / 4 % 1000000000)

/-- A message header and body (IEEE 1588-2019 13.3). -/
def ptpMessage (s : State) (p kind seq f0 f1 : Nat) (corr : Int) (body : List Byte) : List Byte :=
  let ctl := match kind with | 0 => 0 | 8 => 2 | _ => 5
  let interval := if kind = 3 || kind = 10 then 0x7F else 0
  toBE 1 kind ++ toBE 1 2 ++ toBE 2 (34 + body.length) ++ toBE 1 s.tim.cfg.domain ++ zeros 1 ++ toBE 1 f0 ++ toBE 1 f1 ++ toBE 8 (unsigned 64 corr) ++ zeros 4 ++
    toBE 8 (clockIdentity s) ++ toBE 2 (p + 1) ++ toBE 2 seq ++ toBE 1 ctl ++ toBE 1 interval ++ body

/-- The engine sends a message through the HOST input as a DIRECT frame of class PTP_CLASS (R412). -/
def ptpSend (p : Nat) (msg : List Byte) (y : Option PtpTx) (s : State) : State :=
  let x := ptpPort s p
  let kind := byteAt msg 0 % 16
  let da := if kind = 2 || kind = 3 || kind = 10 then 0x0180C200000E else 0x011B19000000
  let f := toBE 6 da ++ toBE 6 s.opt.mgmtMac ++ (if x.tagged then toBE 2 0x8100 ++ toBE 2 x.tci else []) ++ toBE 2 0x88F7 ++ msg
  ownSend p s.tim.cfg.ptpClass f y s

/-- The next sequenceId of a message type at a port. -/
def ptpSeq (p kind : Nat) (s : State) : Nat × State :=
  let q := tget 0 (ptpPort s p).txSeq kind
  (q, modPtp p (fun x => { x with txSeq := tset 0 x.txSeq kind ((q + 1) % 65536) }) s)

/-! ## Data sets and the best master clock algorithm -/

/-- The own data set (R406, R409). -/
def ownData (s : State) : Parent :=
  let t := s.tim
  let cls := match classSent s with
    | some c => c
    | none => if t.cfg.mode = 1 then 248 else Config.lockedClass % 256
  let q := if t.cfg.mode = 2 then (match t.ref.tod with | some m => (m.accuracy, m.variance) | none => (0xFE, 0xFFFF)) else (0xFE, 0xFFFF)
  { gm := clockIdentity s, prio1 := t.cfg.prio1, clockClass := if t.cfg.slaveOnly then 255 else cls, accuracy := q.1, variance := q.2, prio2 := t.cfg.prio2
    utcOffset := t.utc, leap := t.leap
    flags := 4 + 8 + (if untraceable s then 0 else 16 + 32)
    timeSource := match t.cfg.mode with | 1 => 0x40 | 2 | 3 => 0x20 | _ => 0xA0 }

/-- What the Announce messages of the device carry: the parent's data set while a port is SLAVE, else its own. -/
def announced (s : State) : Parent :=
  match s.tim.parent with
  | some x => { x with stepsRemoved := x.stepsRemoved + 1 }
  | none => ownData s

/-- Is a list of numbers lexicographically less than another. -/
def lexLt : List Nat → List Nat → Bool
  | [], [] => false
  | [], _ => true
  | _, [] => false
  | a :: r, b :: t => decide (a < b) || (a == b && lexLt r t)

/-- Data set a, sent by port identity sa and received at ra, against b, sent by sb and received at rb (IEEE 1588-2019 9.3.4): 0 a is better, 1 better by
topology, 2 b is better by topology, 3 better, 4 neither. -/
def compareData (a : Parent) (sa ra : Nat) (b : Parent) (sb rb : Nat) : Nat :=
  let order := fun (x y less more : Nat) => if x < y then less else if y < x then more else 4
  if a.gm = b.gm then
    if b.stepsRemoved + 1 < a.stepsRemoved then 3
    else if a.stepsRemoved + 1 < b.stepsRemoved then 0
    else if b.stepsRemoved < a.stepsRemoved then order ra sa 3 2
    else if a.stepsRemoved < b.stepsRemoved then order rb sb 0 1
    else if sa = sb then order ra rb 1 2
    else order sa sb 1 2
  else if lexLt [a.prio1, a.clockClass, a.accuracy, a.variance, a.prio2, a.gm] [b.prio1, b.clockClass, b.accuracy, b.variance, b.prio2, b.gm] then 0
  else 3

/-- A port's own identity. -/
def ownIdentity (s : State) (p : Nat) : Nat := clockIdentity s * 2 ^ 16 + p + 1

/-- Is what port p heard from one foreign master better, or better by topology, than what port q heard from another. -/
def better (s : State) (f : Foreign) (p : Nat) (g : Foreign) (q : Nat) : Bool :=
  decide (compareData f.data f.src (ownIdentity s p) g.data g.src (ownIdentity s q) ≤ 1)

/-- The foreign masters of a port that qualify: two Announce messages within 4 s. -/
def qualified (s : State) (x : PtpPort) : List Foreign :=
  x.foreign.filter (fun f => 2 ≤ (f.heard.filter (fun e => decide (s.clk.edges < e + 4 * secE))).length && f.data.stepsRemoved < 255)

/-- The best foreign master of a port. -/
def erBest (s : State) (p : Nat) : Option Foreign :=
  (qualified s (ptpPort s p)).foldl (fun a f => match a with
    | none => some f
    | some g => if better s f p g p then some f else some g) none

def ptpPorts (s : State) : List Nat := (s.tim.ptp.filter (fun e => e.2.role = 1 || e.2.role = 2)).map (·.1)

/-- The best foreign master of all AUTO ports, with its port. -/
def eBest (s : State) : Option (Nat × Foreign) :=
  (ptpPorts s).foldl (fun a p => match erBest s p, a with
    | none, a => a
    | some f, none => some (p, f)
    | some f, some (q, g) => if better s f p g q then some (p, f) else some (q, g)) none

/-- The state that the algorithm recommends to a port, with the wait before MASTER in Announce intervals (IEEE 1588-2019 9.3.3). Only in mode PTP
may a port be SLAVE (log 27). -/
def recommend (s : State) (best : Option (Nat × Foreign)) (p : Nat) : Nat × Nat :=
  let x := ptpPort s p
  let d0 := ownData s
  let own := clockIdentity s * 2 ^ 16
  let beats := fun (q : Nat) (f : Foreign) => decide (compareData d0 own own f.data f.src (ownIdentity s q) ≤ 1)
  let master := if s.tim.cfg.slaveOnly then 4 else 6
  match erBest s p, best with
  | none, none => (if x.state = 4 then 4 else master, 0)
  | r, b =>
    if r.isNone && x.state = 4 then (4, 0)
    else if d0.clockClass ≤ 127 || s.tim.cfg.mode != 1 then
      (if (match r with | some f => beats p f | none => true) then (master, 0) else (7, 0))
    else match b with
      | none => (master, 0)
      | some (q, g) =>
        if beats q g then (master, 0)
        else if q = p && x.role = 1 then (if x.state = 9 && s.tim.parentSrc = g.src then 9 else 8, 0)
        else match r with
          | some f => if compareData g.data g.src (ownIdentity s q) f.data f.src (ownIdentity s p) = 1 then (7, 0) else (master, g.data.stepsRemoved + 2)
          | none => (master, g.data.stepsRemoved + 2)

/-- One port takes what the algorithm recommends; a wait makes it PRE_MASTER first. -/
def takeState (p : Nat) (r : Nat × Nat) (s : State) : State :=
  let x := ptpPort s p
  if r.1 = 6 && r.2 != 0 && x.state != 6 then
    if x.state = 5 then s else setPtpState p 5 (modPtp p (fun x => { x with qualAt := some (s.clk.edges + r.2 * secE) }) s)
  else setPtpState p r.1 s

/-- The state decision over all ports, and the events of R412. -/
def ptpDecide (s : State) : State :=
  let old := gmNow s
  let best := eBest s
  let s1 := (ptpPorts s).foldl (fun t p => takeState p (recommend s best p) t) s
  let slave := (ptpPorts s1).find? (fun p => (ptpPort s1 p).state == 8 || (ptpPort s1 p).state == 9)
  let s2 := match slave, best with
    | some p, some (_, f) => modTim (fun t => { t with slavePort := some p, parent := some f.data, parentSrc := f.src }) s1
    | _, _ => modTim (fun t => { t with slavePort := none, parent := none }) s1
  let s3 := match slave with
    | some p => if s.tim.slavePort = some p then s2 else modPtp p (fun x => { x with syncAt := s.clk.edges }) s2
    | none => s2
  gmEvent old s3

/-! ## Messages received -/

/-- A fault of a message: at most once per 1 ms (R422). Causes 0x01 malformed, 0x02 domain, 0x03 profile. -/
def ptpFault (p kind cause : Nat) (s : State) : State := fireMs 0 0x183 cause (toLE 1 p ++ toLE 1 kind) s

/-- An offset from the master: the servo's next correction, in mode PTP (R403). -/
def ptpOffset (p : Nat) (off : Int) (s : State) : State :=
  let s1 := modTim (fun t => { t with pendDelta := some (-off) }) s
  if (ptpPort s p).state = 8 then setPtpState p 9 s1 else s1

/-- The Sync and Follow_Up times give the offset: t2 - t1 - corrections - link delay - asymmetry. -/
def syncOffset (p t1 t2 : Nat) (corr : Int) (s : State) : State :=
  let x := ptpPort s p
  ptpOffset p ((t2 : Int) - t1 - qOfCorr corr - x.linkDelay - x.asymmetry * 4) s

/-- Is a message from the parent, at a port that follows it. -/
def fromParent (s : State) (p : Nat) (m : PtpMsg) : Bool :=
  let x := ptpPort s p
  (x.state == 8 || x.state == 9) && m.src == s.tim.parentSrc && x.capable

def rxSyncMsg (p t : Nat) (m : PtpMsg) (s : State) : State :=
  if !fromParent s p m then s
  else
    let s1 := modPtp p (fun x => { x with syncAt := s.clk.edges }) s
    if m.twoStep then modPtp p (fun x => { x with sync := some { src := m.src, seq := m.seq, t := t, corr := m.corr } }) s1
    else syncOffset p m.stamp t m.corr s1

def rxFollowUp (p : Nat) (m : PtpMsg) (s : State) : State :=
  match (ptpPort s p).sync with
  | none => s
  | some h =>
    if fromParent s p m && h.src == m.src && h.seq == m.seq then
      syncOffset p m.stamp h.t (h.corr + m.corr) (modPtp p (fun x => { x with sync := none }) s)
    else s

/-- A Pdelay_Req is answered (R412, R413): a one-step port's MAC writes the turnaround into correctionField. -/
def rxPdelayReq (p t : Nat) (m : PtpMsg) (s : State) : State :=
  let x := ptpPort s p
  let y : PtpTx := { port := p, kind := 3, seq := m.seq, domain := m.domain, oneStep := x.oneStep, addCorr := true, ingress := t, src := m.src }
  if x.oneStep then ptpSend p (ptpMessage s p 3 m.seq 0 0 m.corr (zeros 10 ++ toBE 10 m.src)) (some y) s
  else
    let a : PtpHalf := { src := m.src, seq := m.seq, t := t, corr := m.corr }
    let s1 := modPtp p (fun x => { x with answering := (x.answering ++ [a]).drop (x.answering.length + 1 - 64) }) s
    ptpSend p (ptpMessage s p 3 m.seq 2 0 (-corrOfQ (t % 4 : Nat)) (ptpStamp t ++ toBE 10 m.src)) (some y) s1

/-- The link delay of a completed exchange; above the limit the port is not asCapable (R432). -/
def setLinkDelay (p : Nat) (twice : Int) (s : State) : State :=
  let d := Int.tdiv twice 2
  modPtp p (fun x => { x with linkDelay := d, capable := decide (d ≤ x.delayLimit * 4), req := none, resp := none }) s

def rxPdelayResp (p t : Nat) (m : PtpMsg) (s : State) : State :=
  match (ptpPort s p).req with
  | none => s
  | some q =>
    if be m.b 44 10 != ownIdentity s p || m.seq != q.seq then s
    else if m.twoStep then modPtp p (fun x => { x with resp := some { src := m.src, seq := m.seq, t := m.stamp, u := t, corr := m.corr } }) s
    else setLinkDelay p ((t : Int) - q.t - qOfCorr m.corr) s

def rxPdelayFollow (p : Nat) (m : PtpMsg) (s : State) : State :=
  match (ptpPort s p).req, (ptpPort s p).resp with
  | some q, some r =>
    if be m.b 44 10 != ownIdentity s p || m.seq != r.seq || m.src != r.src then s
    else setLinkDelay p ((r.u : Int) - q.t - ((m.stamp : Int) - r.t) - qOfCorr r.corr - qOfCorr m.corr) s
  | _, _ => s

/-- An Announce message: the foreign master's record, the state decision, and UTC from the parent (R410, R412). -/
def rxAnnounce (p : Nat) (m : PtpMsg) (s : State) : State :=
  let x := ptpPort s p
  if x.role != 1 || !x.capable || m.src / 2 ^ 16 == clockIdentity s then s
  else
    let f1 := byteAt m.b 7
    let d : Parent := { gm := be m.b 53 8, prio1 := byteAt m.b 47, clockClass := byteAt m.b 48, accuracy := byteAt m.b 49, variance := be m.b 50 2, prio2 := byteAt m.b 52
                        stepsRemoved := be m.b 61 2, utcOffset := signed 16 (be m.b 44 2), leap := if bit f1 0 then 1 else if bit f1 1 then 2 else 0
                        flags := f1 / 4 % 16 * 4, timeSource := byteAt m.b 63 }
    let old := match x.foreign.find? (fun f => f.src == m.src) with | some f => f.heard | none => []
    let f : Foreign := { src := m.src, data := d, heard := (s.clk.edges :: old).take 4 }
    let s1 := modPtp p (fun x => { x with foreign := f :: x.foreign.filter (fun f => f.src != m.src), announceAt := s.clk.edges }) s
    let s2 := ptpDecide s1
    if s2.tim.cfg.mode = 1 && s2.tim.slavePort = some p && s2.tim.parentSrc = m.src && bit f1 2 then setUtc d.utcOffset d.leap s2 else s2

/-! ## Transparent clocks (R412, R413) -/

/-- The other TRANSPARENT ports. -/
def tcPorts (s : State) (p : Nat) : List Nat := (s.tim.ptp.filter (fun e => e.2.role = 3 && e.1 != p)).map (·.1)

/-- A message with its correctionField raised. -/
def addCorr (b : List Byte) (d : Int) : List Byte := overlay b 8 (toBE 8 (unsigned 64 (signed 64 (be b 8 8) + d)))

/-- The ingress link delay and asymmetry, as a correction. -/
def pathCorr (s : State) (p : Nat) : Int := let x := ptpPort s p; corrOfQ (x.linkDelay + x.asymmetry * 4)

/-- A waiting Sync whose residence time and Follow_Up are both here sends its Follow_Up. -/
def tcFlush (s : State) : State :=
  let ready := s.tim.tcs.filter (fun x => x.residence.isSome && x.follow.isSome)
  let s1 := modTim (fun t => { t with tcs := t.tcs.filter (fun x => !(x.residence.isSome && x.follow.isSome)) }) s
  ready.foldl (fun t x => ptpSend x.out (addCorr (x.follow.getD []) (corrOfQ (x.residence.getD 0) + pathCorr s x.inPort)) none t) s1

/-- The Follow_Up that the engine makes of a one-step Sync. -/
def followOf (b : List Byte) : List Byte := overlay (overlay (overlay b 0 [BitVec.ofNat 8 (byteAt b 0 / 16 * 16 + 8)]) 6 (toBE 1 (byteAt b 6 - 2 * b2n (bit (byteAt b 6) 1)))) 32 (toBE 1 2)

/-- A Sync goes out at one other port. -/
def tcSync (p t : Nat) (m : PtpMsg) (s : State) (q : Nat) : State :=
  let y : PtpTx := { port := q, kind := 0, seq := m.seq, domain := m.domain, oneStep := (ptpPort s q).oneStep, addCorr := true, ingress := t, src := m.src }
  if y.oneStep then ptpSend q (addCorr m.b (pathCorr s p)) (some y) s
  else
    let w : TcSync := { src := m.src, seq := m.seq, inPort := p, out := q, ingress := t, follow := if m.twoStep then none else some (followOf m.b) }
    let s1 := modTim (fun t => { t with tcs := (t.tcs.filter (fun x => !(x.out == q && x.src == m.src))) ++ [w] }) s
    ptpSend q (overlay (if m.twoStep then m.b else overlay m.b 8 (zeros 8)) 6 (toBE 1 (setBit (byteAt m.b 6) 1 true))) (some y) s1

/-- A Follow_Up waits for the residence time of its Sync; at a one-step port it goes out as it is. -/
def tcFollow (m : PtpMsg) (s : State) (q : Nat) : State :=
  if (ptpPort s q).oneStep then ptpSend q m.b none s
  else tcFlush (modTim (fun t => { t with tcs := t.tcs.map (fun x => if x.out == q && x.src == m.src && x.seq == m.seq && x.follow.isNone then { x with follow := some m.b } else x) }) s)

def tcForward (p t : Nat) (m : PtpMsg) (s : State) : State :=
  let out := tcPorts s p
  match m.kind with
  | 0 => tcFlush (out.foldl (tcSync p t m) s)
  | 8 => out.foldl (tcFollow m) s
  | 11 => out.foldl (fun s q => ptpSend q m.b none s) s
  | _ => s

/-- The counts of R432. -/
def ptpCount (p kind : Nat) (s : State) : State :=
  modPtp p (fun x => match kind with
    | 0 => { x with rxSync := wrap32 (x.rxSync + 1) }
    | 8 => { x with rxFollow := wrap32 (x.rxFollow + 1) }
    | 2 => { x with rxReq := wrap32 (x.rxReq + 1) }
    | 3 => { x with rxResp := wrap32 (x.rxResp + 1) }
    | _ => x) s

/-- A PTP frame that a port has received is handled (R408, R411-R413). -/
def ptpHandle (p t : Nat) (bytes : List Byte) (s : State) : State :=
  let x := ptpPort s p
  let b := (bytes.take (bytes.length - 4)).drop (14 + 4 * earlyTags bytes)
  let kind := byteAt b 0 % 16
  let n := be b 2 2
  if !s.cp.running then modTim (fun t => { t with ptpDiscards := wrap32 (t.ptpDiscards + 1) }) s
  else if x.role = 0 then s
  else if b.length < 34 || byteAt b 1 % 16 != 2 || n < ptpMin kind || b.length < n then ptpFault p kind 0x01 s
  else if byteAt b 4 != s.tim.cfg.domain then ptpFault p kind 0x02 s
  else if byteAt b 0 / 16 != 0 || byteAt b 5 != 0 || kind = 1 || kind = 9 then ptpFault p kind 0x03 s
  else
    let m : PtpMsg := { kind := kind, b := b.take n }
    let s1 := ptpCount p kind s
    match kind with
    | 2 => rxPdelayReq p t m s1
    | 3 => rxPdelayResp p t m s1
    | 10 => rxPdelayFollow p m s1
    | k => if x.role = 3 then tcForward p t m s1
      else match k with
        | 0 => rxSyncMsg p t m s1
        | 8 => rxFollowUp p m s1
        | 11 => rxAnnounce p m s1
        | _ => s1

/-- PTP_MESSAGE_RX: the oldest message received. -/
def execPtpMessageRx (s : State) : Host.Outcome State Fault Refusal :=
  if s.clk.coreStopped then .next s else
  match s.tim.ptpRx with
  | [] => .next s
  | (p, t, b) :: r => .next (ptpHandle p t b (modTim (fun t => { t with ptpRx := r }) s))

/-! ## Messages sent, and time limits -/

/-- The flags of Announce: leap, UTC offset valid, PTP timescale, traceable. -/
def announceFlags (s : State) : Nat :=
  let a := announced s
  b2n (a.leap == 1) + 2 * b2n (a.leap == 2) + a.flags

def announceBody (s : State) : List Byte :=
  let a := announced s
  ptpStamp 0 ++ toBE 2 (unsigned 16 a.utcOffset) ++ zeros 1 ++ toBE 1 a.prio1 ++ toBE 1 a.clockClass ++ toBE 1 a.accuracy ++ toBE 2 a.variance ++ toBE 1 a.prio2 ++
    toBE 8 a.gm ++ toBE 2 a.stepsRemoved ++ toBE 1 a.timeSource ++
    (if s.tim.cfg.profile = 2 then Config.profileTlv else [])

/-- A port sends a message of a type: 0 Sync, 2 Pdelay_Req, 11 Announce. -/
def ptpEmit (p kind : Nat) (s : State) : State :=
  let (q, s1) := ptpSeq p kind (modPtp p (fun x => { x with txAt := tput x.txAt kind s.clk.edges }) s)
  let one := (ptpPort s p).oneStep && kind = 0
  let y : PtpTx := { port := p, kind := kind, seq := q, domain := s.tim.cfg.domain, oneStep := one }
  match kind with
  | 0 => ptpSend p (ptpMessage s1 p 0 q (if one then 0 else 2) 0 0 (zeros 10)) (some y) s1
  | 2 => ptpSend p (ptpMessage s1 p 2 q 0 0 0 (zeros 20)) (some y) (modPtp p (fun x => { x with req := none, resp := none }) s1)
  | _ => ptpSend p (ptpMessage s1 p 11 q 0 (announceFlags s1) 0 (announceBody s1)) none s1

/-- PTP_MESSAGE_TX: the next message of a type at a port, 1 s after the last (R411). A PRE_MASTER port whose wait is over is MASTER first. -/
def execPtpMessageTx (p kind : Nat) (s0 : State) : Host.Outcome State Fault Refusal :=
  if s0.clk.coreStopped then .next s0 else
  let x0 := ptpPort s0 p
  if !s0.cp.running || x0.role = 0 || !portExists s0 p then .next s0
  else
    let s1 := match x0.qualAt with
      | some e => if x0.state = 5 then setPtpState p 6 (reachEdge e s0) else s0
      | none => s0
    let x := ptpPort s1 p
    let may := match kind with
      | 2 => true
      | 0 | 11 => (x.role = 1 || x.role = 2) && x.state = 6 && x.capable
      | _ => false
    if !may then .next s1
    else .next (ptpEmit p kind (match tget? x.txAt kind with | some e => reachEdge (e + secE) s1 | none => s1))

/-- ANNOUNCE_RECEIPT_TIMEOUT: three Announce intervals without one (R406, R411). -/
def execAnnounceReceiptTimeout (p : Nat) (s0 : State) : Host.Outcome State Fault Refusal :=
  if s0.clk.coreStopped then .next s0 else
  let x := ptpPort s0 p
  if !s0.cp.running || !(x.role = 1 || x.role = 2) || x.state = 6 || x.state = 3 then .next s0
  else
    let s := reachEdge (x.announceAt + 3 * secE) s0
    let slave := s.tim.slavePort = some p
    let s1 := modPtp p (fun x => { x with foreign := [], announceAt := s.clk.edges }) s
    let s2 := setPtpState p (if s.tim.cfg.slaveOnly then 4 else 6) s1
    let s3 := ptpDecide s2
    .next (if slave && s.tim.cfg.mode = 1 then enterHoldover s3 else s3)

/-! ## The stamp FIFO (R415) -/

/-- What the engine does with a stamp: the Follow_Up of its message, t1 of a Pdelay_Req, the residence time of a forwarded Sync. -/
def pairStamp (p : Nat) (e : StampEnt) (s : State) : State :=
  let t := nsOfT64 e.t64 * 4 + e.q
  let x := ptpPort s p
  let frac := corrOfQ (t % 4 : Nat)
  match e.kind with
  | 0 =>
    if x.role = 3 then
      tcFlush (modTim (fun y => { y with tcs := y.tcs.map (fun w =>
        if w.out == p && w.seq == e.seq && w.src == e.src && w.residence.isNone then { w with residence := some ((t : Int) - w.ingress) } else w) }) s)
    else ptpSend p (ptpMessage s p 8 e.seq 0 0 frac (ptpStamp t)) none s
  | 2 => modPtp p (fun x => { x with req := some { src := 0, seq := e.seq, t := t } }) s
  | 3 =>
    match x.answering.find? (fun a => a.seq == e.seq && a.src == e.src) with
    | none => s
    | some a =>
      let s1 := modPtp p (fun x => { x with answering := x.answering.filter (fun b => !(b == a)) }) s
      ptpSend p (ptpMessage s1 p 10 e.seq 0 0 (a.corr + frac) (ptpStamp t ++ toBE 10 a.src)) none s1
  | _ => s

/-- STAMP_FIFO_READ: the engine reads the oldest entry; a pending marker takes the entry that frees. -/
def execStampFifoRead (p : Nat) (s : State) : Host.Outcome State Fault Refusal :=
  if s.clk.coreStopped then .next s else
  let x := ptpPort s p
  match (if s.cp.running then x.fifo else []) with
  | [] => .next s
  | e :: r =>
    let full := r ++ (match x.marker with | some m => [{ m with t64 := nowT64 s }] | none => [])
    let s1 := modPtp p (fun x => { x with fifo := full, marker := none }) s
    .next (if e.marker then s1 else pairStamp p e s1)

/-! ## PTP_PORT_SET (R432) -/

/-- A port takes its role; AUTO and MASTER_ONLY begin in LISTENING. -/
def ptpRole (r : Nat) (s : State) (x : PtpPort) : PtpPort :=
  if x.role = r then x
  else { x with role := r, state := if r = 0 || r = 3 then 3 else 4, foreign := [], announceAt := s.clk.edges, sync := none, req := none, resp := none, answering := []
                txAt := [], qualAt := none, capable := true, linkDelay := 0 }

def specPtpPortSet : CmdSpec := { opcode := 0x0B03, priv := 1, mask := 0x7, lenOk := lenForms 0 [(0, len 16), (1, len 16)] }
/-- R432, which lays out bytes 2-15 for OP 0x00 alone: in OP 0x01 they are taken as reserved, 0 (DESIGN CHOICE, log 73). -/
def bodyPtpPortSet (p : Packet) (s : State) : CmdResult :=
  let b := p.params
  let op := byteAt b 0
  let q := byteAt b 1
  let x := ptpPort s q
  if op = 0 then
    checked [(portExists s q, 1), (byteAt b 2 < 4, 2), (byteAt b 3 < 4, 3), (reservedAt b 6 2, 6)] <|
    let s1 := modPtp q (fun x => { ptpRole (byteAt b 2) s x with
      oneStep := bit (byteAt b 3) 0, tagged := bit (byteAt b 3) 1, tci := le b 4 2, asymmetry := signed 32 (le b 8 4), delayLimit := le b 12 4 }) (touchPort q true s)
    let new := (ptpPort s1 q).state
    let s2 := if x.state = new then s1 else fire 0x189 0x02 (toLE 1 q ++ toLE 1 x.state ++ toLE 1 new) s1
    .ok [] (ptpDecide s2)
  else
    checked [(op == 1, 0), (portExists s q, 1), (reservedAt b 2 14, 2)] <|
    .ok (toLE 1 x.state ++ toLE 1 x.role ++ zeros 2 ++ toLE 4 (unsigned 32 x.linkDelay) ++ toLE 4 x.stampsLost ++ toLE 4 x.rxSync ++ toLE 4 x.rxFollow ++
      toLE 4 x.rxReq ++ toLE 4 x.rxResp ++ zeros 4) (touchPort q true s)
def execPtpPortSet (p : Packet) (s : State) : Host.Outcome State Fault Refusal := serveCmd specPtpPortSet bodyPtpPortSet p s

/-! ## SCHEDULED_EVENT_WAKE (R33) -/

/-- The edge of a port's next scheduled PTP transmission: 1 s after the last of its type (R411). -/
def nextPtpTx (s : State) (p : Nat) : Option Nat :=
  let x := ptpPort s p
  let may := fun k => s.cp.running && x.role != 0 && (k == 2 || ((x.role == 1 || x.role == 2) && x.state == 6 && x.capable))
  (x.txAt.filter (fun e => may e.1)).foldl (fun m e => match m with | none => some (e.2 + secE) | some a => some (min a (e.2 + secE))) none

/-- The edge of a port's next scheduled event: the end of the gate interval in force, or a PTP transmission. -/
def nextScheduled (s : State) (p : Nat) : Option Nat :=
  let gate := (nextGateNs s p).map (fun t => s.clk.edges + edgesToNs t s)
  match gate, nextPtpTx s p with
  | some a, some b => some (min a b)
  | some a, none => some a
  | none, b => b

/-- 1 us ahead of a scheduled gate transition or PTP transmission, the wake controller counts activity of the port's slice; a port with neither has
no such activity. -/
def execScheduledEventWake (p : Nat) (s : State) : Host.Outcome State Fault Refusal :=
  if s.clk.coreStopped then .next s else
  .next (match nextScheduled s p with
    | none => s
    | some e => touchPort p false (reachEdge (e - usE) s))

end Sys2Proof.Machine
end

