-- ==== Sys2Proof/Machine/Irig.lean ====
section
/-! DEFINITION. IRIG-B input and output, and IRIG_SET (spec/12 R416-R418, R433). Symbol positions are those of IRIG Standard 200. -/

namespace Sys2Proof.Machine

/-! ## The calendar -/

def isLeapYear (y : Nat) : Bool := y % 4 == 0 && (y % 100 != 0 || y % 400 == 0)
/-- Days from 1 January 1970 to 1 January of a year. -/
def daysTo (y : Nat) : Nat := 365 * (y - 1970) + ((y - 1) / 4 - 492) + 19 + (y - 1) / 400 - 4 - (y - 1) / 100
/-- The year in which a day since 1970 lies. -/
def yearOf (d : Nat) : Nat :=
  let y := 1970 + d * 400 / 146097
  if daysTo (y + 1) ≤ d then y + 1 else if d < daysTo y then y - 1 else y

/-! ## Frames of 100 symbols: 0, 1, 2 a position marker -/

/-- Where the markers stand. -/
def irigMarker (i : Nat) : Bool := i == 0 || i % 10 == 9
/-- The binary number of the symbols from a position, least significant first. -/
def symNum (l : List Nat) (i n : Nat) : Nat := (List.range n).foldl (fun v j => v + l.getD (i + j) 0 * 2 ^ j) 0
def irigYear (f : Nat) (cf : Bool) : Bool := 4 ≤ f % 16 || cf
def irigCf (f : Nat) : Bool := f % 16 % 4 == 0 || f % 16 % 4 == 1
def irigSbs (f : Nat) : Bool := f % 16 % 4 == 0 || f % 16 % 4 == 3

/-- Do the markers stand where they must, and only there; is every BCD digit in range. -/
def irigWellFormed (f : Nat) (cf : Bool) (l : List Nat) : Bool :=
  let n := symNum l
  l.length == 100 && (List.range 100).all (fun i => (l.getD i 0 == 2) == irigMarker i && decide (l.getD i 0 ≤ 2)) &&
  decide (n 1 4 ≤ 9 ∧ n 6 3 ≤ 5 ∧ n 10 4 ≤ 9 ∧ n 15 3 ≤ 5 ∧ n 20 4 ≤ 9 ∧ n 25 2 * 10 + n 20 4 ≤ 23 ∧ n 30 4 ≤ 9 ∧ n 35 4 ≤ 9) &&
  decide (1 ≤ n 40 2 * 100 + n 35 4 * 10 + n 30 4 ∧ n 40 2 * 100 + n 35 4 * 10 + n 30 4 ≤ 366) &&
  (!irigYear f cf || decide (n 50 4 ≤ 9 ∧ n 55 4 ≤ 9))

/-- The symbol of a pulse: 2 is a 0, 5 a 1 and 8 a marker, in milliseconds of width for B00x and in carrier cycles of mark amplitude for B12x (R416);
any other pulse is no symbol. -/
def irigSymbol (n : Nat) : Nat := match n with | 2 => 0 | 5 => 1 | 8 => 2 | _ => 3
/-- The pulse of a symbol. -/
def irigPulse (x : Nat) : Nat := match x with | 0 => 2 | 1 => 5 | _ => 8
/-- Is a format amplitude modulated, B12x. -/
def irigAm (f : Nat) : Bool := f / 16 == 2

/-- The edges since a frame's on-time point, age after its first pulse: for B12x that pulse comes 250 us after it (R416). -/
def irigAge (s : State) (age : Nat) : Nat := if irigAm s.tim.irig.inFormat then age + 250 * usE else age

/-- The UTC second that a well-formed frame labels, counted from 1970. A format with no year takes it from the time base at the on-time point, to the nearest
second and in the frame's timescale. -/
def irigSecond (s : State) (l : List Nat) (age : Nat) : Int :=
  let c := s.tim.irig
  let n := symNum l
  let cf := c.cf && irigCf c.inFormat
  let yy := n 55 4 * 10 + n 50 4
  let year := if irigYear c.inFormat cf then (if yy < 70 then 2000 + yy else 1900 + yy)
    else yearOf ((((nowNs s + 500000000 - age * 4 / 5) / 1000000000 : Nat) - s.tim.utc + (if c.inLocal then c.localOffset * 60 else 0)).toNat / 86400)
  let day := daysTo year + n 40 2 * 100 + n 35 4 * 10 + n 30 4 - 1
  let sod := (n 25 2 * 10 + n 20 4) * 3600 + (n 15 3 * 10 + n 10 4) * 60 + n 6 3 * 10 + n 1 4
  (day * 86400 + sod : Nat) - (if c.inLocal then c.localOffset * 60 else 0)

/-! ## The input (R417) -/

/-- The control function of a frame (R417). -/
def irigControlOf (l : List Nat) : IrigControl :=
  let b := fun i => symNum l i 1 == 1
  { leapPending := b 60, leapDelete := b 61, dstPending := b 62, dst := b 63, offsetNegative := b 64, offsetHalves := 2 * symNum l 65 4 + symNum l 70 1,
    quality := symNum l 71 4 }

/-- An invalid frame: the third in a row loses lock. -/
def irigInvalid (s : State) : State :=
  let r := s.tim.ref
  let s1 := if r.irigLocked then fireLim secE 3 (fire 0x184 0x03 []) 0x184 s else s
  if r.irigBad < 2 then modRef (fun r => { r with irigBad := r.irigBad + 1, irigGood := 0 }) s1
  else
    let s2 := modRef (fun r => { r with irigBad := 0, irigGood := 0, irigLocked := false, irigLast := none }) s1
    if !r.irigLocked then s2
    else
      let s3 := fire 0x184 0x02 [] s2
      if s.tim.cfg.mode = 3 then enterHoldover s3 else s3

/-- A valid frame for a UTC second, whose on-time point lies age edges back. -/
def irigValid (l : List Nat) (sec : Int) (age : Nat) (s : State) : State :=
  let r := s.tim.ref
  let c := s.tim.irig
  let lock := r.irigLocked || 1 ≤ r.irigGood
  let s1 := modRef (fun r => { r with irigBad := 0, irigGood := r.irigGood + 1, irigLocked := lock, irigLast := some sec.toNat }) s
  let s1' := if c.cf && irigCf c.inFormat then modRef (fun r => { r with irigControl := irigControlOf l }) s1 else s1
  let s2 := if lock && !r.irigLocked then fire 0x184 0x01 [] s1' else s1'
  let d : Int := (sec + s.tim.utc) * 4000000000 + (age * 16 / 5 : Nat) - (nowQ s : Nat)
  if s.tim.cfg.mode = 3 then
    let s3 := modTim (fun t => { t with pendDelta := some d }) s2
    if c.cf && irigCf c.inFormat then
      setUtc s.tim.utc (if !(irigControlOf l).leapPending then 0 else if (irigControlOf l).leapDelete then 2 else 1) s3
    else s3
  else if c.tolerance * 4 < d.natAbs then fireLim secE 0 (fire 0x185 0 (toLE 8 (unsigned 64 (Int.tdiv d 4)))) 0x185 s2
  else s2

/-- IRIG_FRAME: the pulses of a frame on IRIG_IN, one for each interval of 10 ms, and the edges since the leading edge of the first. -/
def execIrigFrame (pulses : List Nat) (first : Nat) (s : State) : Host.Outcome State Fault Refusal :=
  if s.clk.coreStopped then .next s else
  let c := s.tim.irig
  let symbols := pulses.map irigSymbol
  let age := irigAge s first
  if c.inFormat = 0 then .next s
  else if !irigWellFormed c.inFormat (c.cf && irigCf c.inFormat) symbols then .next (irigInvalid s)
  else
    let sec := irigSecond s symbols age
    let follows := match s.tim.ref.irigLast with | some t => decide (sec = t + 1) | none => true
    if follows then .next (irigValid symbols sec age s)
    else if s.tim.ref.irigLocked then .next (irigInvalid s)
    else .next (modRef (fun r => { r with irigGood := 1, irigBad := 0, irigLast := some sec.toNat }) s)

/-! ## The output (R418) -/

/-- n symbols of a number, least significant first. -/
def numSym (n v : Nat) : List Nat := (List.range n).map (fun i => v / 2 ^ i % 2)

/-- The control function of C37.118.1 in symbols 60-68 and 70-78: leap and local offset; daylight saving, time quality and parity are free. -/
def irigControl (s : State) (fr : Nat) : List Nat × List Nat :=
  let t := s.tim
  let off : Int := if t.irig.outLocal then -t.irig.localOffset else 0
  let q := if t.state = 2 then 0 else fr / 4 % 16
  (numSym 1 (b2n (t.leap != 0)) ++ numSym 1 (b2n (t.leap == 2)) ++ numSym 2 (fr % 4) ++ numSym 1 (b2n (decide (off < 0))) ++ numSym 4 (off.natAbs / 60),
    numSym 1 (off.natAbs / 30 % 2) ++ numSym 4 q ++ numSym 1 (fr / 64 % 2) ++ numSym 3 0)

/-- The frame for a second in a format; fr is the free value of its control function. -/
def irigSymbols (s : State) (f sec fr : Nat) : List Nat :=
  let c := s.tim.irig
  let t := ((sec : Int) - s.tim.utc + (if c.outLocal then c.localOffset * 60 else 0)).toNat
  let d := t / 86400
  let y := yearOf d
  let doy := d - daysTo y + 1
  let sod := t % 86400
  let bcd := fun (n : Nat) (v : Nat) => numSym 4 (v % 10) ++ [0] ++ numSym n (v / 10)
  let sec10 := [2] ++ bcd 3 (sod % 60) ++ [2]
  let min10 := bcd 3 (sod / 60 % 60) ++ [0, 2]
  let hr10 := bcd 2 (sod / 3600) ++ [0, 0, 2]
  let day10 := bcd 4 (doy % 100) ++ [2] ++ numSym 2 (doy / 100) ++ [0, 0, 0, 0, 0, 0, 0, 2]
  let cf := irigControl s fr
  let useCf := c.cf && irigCf f
  let yr10 := if irigYear f useCf then bcd 4 (y % 100) ++ [2] else numSym 9 0 ++ [2]
  let cf20 := if useCf then cf.1 ++ [2] ++ cf.2 ++ [2] else numSym 9 0 ++ [2] ++ numSym 9 0 ++ [2]
  let sb := if irigSbs f then sod else 0
  sec10 ++ min10 ++ hr10 ++ day10 ++ yr10 ++ cf20 ++ numSym 9 sb ++ [2] ++ numSym 8 (sb / 512) ++ [0, 2]

/-- The pulses on IRIG_OUT for a frame's symbols, each by its start after the second and its width, in microseconds (R416): for B00x one a symbol; for B12x one
a carrier cycle, centred 250 us after its zero crossing, 500 us wide at mark amplitude and 100 us at space amplitude. -/
def irigPulses (f : Nat) (l : List Nat) : List (Nat × Nat) :=
  l.zipIdx.flatMap (fun e =>
    if irigAm f then (List.range 10).map (fun c =>
      let at_ := e.2 * 10000 + c * 1000
      if c < irigPulse e.1 then (at_, 500) else (at_ + 200, 100))
    else [(e.2 * 10000, irigPulse e.1 * 1000)])

/-- IRIG_OUT_FRAME: at each whole second; idle under SQUELCH while the time is untraceable. -/
def execIrigOutFrame (s0 : State) : Host.Outcome State Fault Refusal :=
  if !coreLive s0 || s0.tim.irig.outFormat = 0 then .next s0
  else
    let sec := nowNs s0 / 1000000000 + 1
    let s := reachNs (sec * 1000000000) s0
    if s.tim.irig.squelch && untraceable s then .next s
    else
      let (v, s1) := takeFree 7 s
      .next (emitOut (.irigOut s.tim.irig.outFormat (irigPulses s.tim.irig.outFormat (irigSymbols s s.tim.irig.outFormat sec v))) s1)

/-! ## IRIG_SET (R433) -/

def irigFormatOk (f : Nat) : Bool := f == 0 || (0x10 ≤ f && f ≤ 0x17) || (0x20 ≤ f && f ≤ 0x27)

def specIrigSet : CmdSpec := { opcode := 0x0B04, priv := 1, mask := 0xF, lenOk := len 12 }
/-- R433. Another input format starts the search for lock anew. -/
def bodyIrigSet (p : Packet) (s : State) : CmdResult :=
  let b := p.params
  let f := byteAt b 2
  let off := signed 16 (le b 4 2)
  checked [(irigFormatOk (byteAt b 0), 0), (irigFormatOk (byteAt b 1), 1), (f < 16, 2), (reservedAt b 3 1, 3),
    (decide (-720 ≤ off ∧ off ≤ 720 ∧ off % 15 = 0), 4), (reservedAt b 6 2, 6), (1 ≤ le b 8 4 && le b 8 4 ≤ 1000000, 8)] <|
  let old := s.tim.irig
  let c : IrigCfg := { inFormat := byteAt b 0, outFormat := byteAt b 1, inLocal := bit f 0, outLocal := bit f 1, cf := bit f 2, squelch := bit f 3
                       localOffset := off, tolerance := le b 8 4 }
  let s1 := modTim (fun t => { t with irig := c }) s
  let same := c.inFormat == old.inFormat && c.inLocal == old.inLocal && c.cf == old.cf && c.localOffset == old.localOffset
  if same then .ok [] s1
  else
    let s2 := modRef (fun r => { r with irigLocked := false, irigGood := 0, irigBad := 0, irigLast := none }) s1
    let s3 := if s.tim.ref.irigLocked then fire 0x184 0x02 [] s2 else s2
    .ok [] (if s.tim.ref.irigLocked && s.tim.cfg.mode = 3 then enterHoldover s3 else s3)
def execIrigSet (p : Packet) (s : State) : Host.Outcome State Fault Refusal := serveCmd specIrigSet bodyIrigSet p s

end Sys2Proof.Machine
end

