-- ==== Sys2Proof/Machine/Stook.lean ====
section
/-! DEFINITION. The stook: ticks, latches, snapshots, performance counters, and STOOK_SET, COUNTER_SELECT, STOOK_NOW (spec/13 R448-R455,
R460-R462). -/

namespace Sys2Proof.Machine

def modStook (g : Stook → Stook) (s : State) : State := { s with stook := g s.stook }

/-! ## Performance counters (R453) -/

/-- First counter and number of counters of a block: furrow A, B, the Granary, channel 0, 1. -/
def perfBlock (b : Nat) : Nat × Nat :=
  match b with
  | 0 => (0, 64)
  | 1 => (64, 64)
  | 2 => (128, 32)
  | 3 => (160, 16)
  | _ => (176, 16)

/-- The block of a counter. -/
def perfOf (i : Nat) : Nat := if i < 64 then 0 else if i < 128 then 1 else if i < 160 then 2 else if i < 176 then 3 else 4

/-- Is an event listed for a block. -/
def perfOk (b e : Nat) : Bool :=
  e ≤ 1 ||
  (if b ≤ 1 then [0x100, 0x101, 0x110, 0x111, 0x112].contains e || (0x200 ≤ e && e ≤ 0x207) || (0x300 ≤ e && e ≤ 0x302)
   else if b = 2 then 0x400 ≤ e && e ≤ 0x404
   else 0x500 ≤ e && e ≤ 0x506)

/-- How often an event of a block has occurred (R453). Its source counters hold 48 bits. -/
def perfCount (s : State) (b e : Nat) : Nat :=
  let x := fur s b
  let g := fun k => tget 0 s.gran.halfA.ctr k + tget 0 s.gran.halfB.ctr k
  let c := if b = 3 then s.deep.ch0 else s.deep.ch1
  match e with
  | 0x000 => 0
  | 0x001 => (if b = 2 then s.clk.edges else if b < 2 then tget 0 s.clk.cycles b else tget 0 s.clk.cycles (b + 1) * chanMts c / 2500)
  | 0x207 => tget 0 s.clk.cycles (b + 2)
  | 0x100 => tget 0 x.harrowCtr 0
  | 0x110 => tget 0 x.tab.ctr 9 + tget 0 x.tab.ctr 10
  | 0x111 => tget 0 x.tab.ctr 0
  | 0x101 | 0x112 | 0x200 | 0x201 | 0x202 | 0x203 | 0x204 | 0x205 | 0x302 => tget 0 x.perf e
  | 0x206 => (x.beds.foldl (fun n y => n + tget 0 y.2.ctr 10) 0)
  | 0x300 => tget 0 x.xb.ctr 1
  | 0x301 => tget 0 x.xb.ctr 5
  | 0x400 => g 0
  | 0x401 => g 1
  | 0x402 => s.gran.ungranted
  | 0x403 => g 14
  | 0x404 => g 15
  | 0x500 => c.sched.reads
  | 0x501 => c.sched.writes
  | 0x502 => c.sched.activates
  | 0x503 => c.refreshes
  | 0x504 => (tget 0 s.clk.cycles (b + 3) * chanMts c / 2500)
  | 0x505 => c.sched.delays
  | 0x506 => (tget 0 s.corr48 (32 + b))
  | _ => 0

def perf (s : State) (i : Nat) : Perf := tget {} s.perf i

/-- The value of a counter: event and count. -/
def perfValue (s : State) (i : Nat) : Nat :=
  let x := perf s i
  let b := perfOf i
  if b ≤ 1 && !powered s b then x.event * 2 ^ 52 else x.event * 2 ^ 52 + (perfCount s b x.event + 2 ^ 48 - x.base) % 2 ^ 48

/-- The counters from i, n of them, as bytes. -/
def perfBytes (i n : Nat) (s : State) : List Byte := (List.range n).flatMap (fun k => toLE 8 (perfValue s (i + k)))

/-- A counter takes an event and restarts from 0. -/
def perfTake (i e : Nat) (s : State) : State :=
  { s with perf := tset {} s.perf i { event := e, pend := none, base := perfCount s (perfOf i) e % 2 ^ 48 } }

/-- At a latch, the events selected since the last one apply. -/
def perfApply (s : State) : State :=
  (s.perf.filterMap (fun e => e.2.pend.map (fun v => (e.1, v)))).foldl (fun s e => perfTake e.1 e.2 s) s

/-! ## The sections of a snapshot (R451, R452) -/

def secHeader (id inst words : Nat) : List Byte := toLE 1 id ++ [1] ++ toLE 2 inst ++ toLE 2 words ++ zeros 2
/-- The first n counters of a table as words. -/
def ctrWords (n : Nat) (t : Table Nat) : List Byte := (List.range n).flatMap (fun k => toLE 4 (tget 0 t k))

/-- An instance of a furrow: zeros while its island is unpowered (R449). -/
def furWords (s : State) (f n : Nat) (b : List Byte) : List Byte := if powered s f then b else zeros (4 * n)

def deviceWords (s : State) : List Byte :=
  ctrWords 10 s.hl.ctr ++ toLE 4 s.jr.lostCount ++ ctrWords 8 s.gle.ctr ++
  (List.range 4).flatMap (fun i => toLE 4 (mirrorCfg s i).copies ++ toLE 4 (mirrorCfg s i).drops) ++
  toLE 4 s.meterInvalid ++ toLE 4 s.tim.ptpDiscards ++ zeros 12

def tableWords (s : State) (f : Nat) : List Byte := ctrWords 19 (fur s f).tab.ctr ++ toLE 4 (learnedOf (fur s f).tab).length
def halfWords (s : State) (h : Nat) : List Byte :=
  ctrWords 13 (half s h).ctr ++ toLE 4 (half s h).retired.length ++ (List.range 12).flatMap (fun k => toLE 4 (tget 0 (half s h).ctr (14 + k)))

/-- The counts that the bandwidth section takes: receive bytes, transmit bytes, receive frames, transmit frames. -/
def bwNow (s : State) (p k : Nat) : Nat :=
  let c := fun i => tget 0 (port s p).mac.ctr i
  match k with
  | 0 => c 1
  | 1 => c 29
  | 2 => ((List.range 11).foldl (fun n i => n + c (9 + i)) 0) % 2 ^ 32
  | _ => c 30

/-- Rates over a window of w microseconds. -/
def bwWords (s : State) (w p : Nat) : List Byte :=
  let r := fun k => if w = 0 then 0 else ((bwNow s p k + 2 ^ 32 - tget 0 s.stook.prev (4 * p + k)) % 2 ^ 32) * 1000000 / w
  toLE 8 (r 0) ++ toLE 8 (r 1) ++ toLE 4 (r 2) ++ toLE 4 (r 3)

def sampleSection (s : State) (f : Nat) : List Byte :=
  let l := if powered s f then (fur s f).samp.buf else []
  secHeader (0x0D + f) l.length 4 ++ l.reverse.flatMap id

def meterWords (s : State) (i : Nat) : List Byte :=
  let m := meter s i
  toLE 4 m.green ++ toLE 4 m.yellow ++ toLE 4 m.red ++ toLE 4 m.drops

/-- The body of a snapshot whose window is w. -/
def stookBody (w : Nat) (s : State) : List Byte :=
  let ports := fun (g : Nat → List Byte) => (List.range 64).flatMap g
  let two := fun (n : Nat) (g : Nat → List Byte) => furWords s 0 n (g 0) ++ furWords s 1 n (g 1)
  secHeader 1 1 32 ++ deviceWords s ++
   secHeader 2 64 50 ++ ports (fun p => ctrWords 50 (port s p).mac.ctr) ++
   secHeader 3 64 20 ++ ports (fun p => ctrWords 20 (port s p).drill.ctr) ++
   secHeader 4 64 28 ++ ports (fun p => ctrWords 28 (port s p).win.ctr) ++
   secHeader 5 2 32 ++ two 32 (fun f => ctrWords 32 (fur s f).harrowCtr) ++
   secHeader 6 2 20 ++ two 20 (tableWords s) ++
   secHeader 7 16 18 ++ (List.range 16).flatMap (fun n => furWords s (bedFur n) 18 (ctrWords 18 (bed s n).ctr)) ++
   secHeader 8 2 26 ++ halfWords s 0 ++ halfWords s 1 ++
   secHeader 9 2 96 ++ two 96 (fun f => ctrWords 96 (fur s f).xb.ctr) ++
   secHeader 10 37 2 ++ ctrWords 74 s.memErr ++
   secHeader 11 64 6 ++ ports (bwWords s w) ++
   secHeader 12 192 2 ++ perfBytes 0 192 s ++
   (if s.stook.samples then sampleSection s 0 ++ sampleSection s 1 else []) ++
   (if s.stook.meters then secHeader 15 33279 4 ++ (List.range 32767).flatMap (fun i => meterWords s (i + 1)) ++
      (List.range 512).flatMap (fun i => meterWords s (0x8000 + i)) else [])

def stookSize (samples meters : Bool) : Nat := 31288 + (if samples then 131088 else 0) + (if meters then 532472 else 0)

/-! ## Ticks and latches (R448-R450) -/

/-- The first multiple of a period after a time. -/
def nextMult (per now : Nat) : Nat := (now / max 1 per + 1) * max 1 per
/-- The period in nanoseconds. -/
def stookPer (s : State) : Nat := s.stook.period * 1000000

/-- What a latch clears: the level counters, and the sample buffers that it copies. -/
def stookClear (s : State) : State :=
  let g := fun (x : FurrowSt) => { x with
    xb := { x.xb with ctr := tdel x.xb.ctr 20 }
    samp := if s.stook.samples then { x.samp with buf := [] } else x.samp }
  let s1 := modFur 1 g (modFur 0 g s)
  { s1 with ports := tmap {} s1.ports (fun x => { x with drill := { x.drill with ctr := tdel x.drill.ctr 16 } }) }

/-- What a latch clears. -/
def stookTaken (w : Snapshot) (s : State) : Snapshot :=
  { w with
    skipped := s.stook.skipped
    stepped := s.stook.stepped
    waits := [tget 0 s.fa.xb.ctr 20, tget 0 s.fb.xb.ctr 20]
    egWaits := (List.range 64).foldl (fun t p => tset 0 t p (tget 0 (port s p).drill.ctr 16)) []
    bufs := if s.stook.samples then [s.fa.samp.buf, s.fb.samp.buf] else [[], []] }

/-- The tick of a snapshot is skipped after all, so it has cleared nothing (R449): what its latch took is back, beside what came since. -/
def stookUndo (w : Snapshot) (s : State) : State :=
  let g := fun (f : Nat) (x : FurrowSt) =>
    let l := x.samp.buf ++ w.bufs.getD f []
    let cut := if x.samp.mode = 2 then l.drop (l.length - 4096) else l.take 4096
    { x with
      xb := { x.xb with ctr := tset 0 x.xb.ctr 20 (max (tget 0 x.xb.ctr 20) (w.waits.getD f 0)) }
      samp := { x.samp with buf := cut } }
  let s1 := modFur 1 (g 1) (modFur 0 (g 0) s)
  let s2 := (List.range 64).foldl (fun s p => modPort p (fun x =>
    { x with drill := { x.drill with ctr := tset 0 x.drill.ctr 16 (max (tget 0 x.drill.ctr 16) (tget 0 w.egWaits p)) } }) s) s1
  modStook (fun x => { x with skipped := satAdd 0xFFFF x.skipped w.skipped, stepped := x.stepped || w.stepped }) s2

/-- The counters are latched for a snapshot of time t (ns): its header and body begin to be written. -/
def stookLatch (t : Nat) (ticket : Option Ticket) (s0 : State) : State :=
  let s := syncDram 1 (syncDram 0 (reachEdge ((reachNs t s0).clk.edges + 80) (reachNs t s0)))
  let k := s.stook
  let us := arrivalUs s
  let w := match k.latchUs with | some u => (us + 2 ^ 32 - u) % 2 ^ 32 | none => 0
  let body := stookBody w s
  let gen := (k.lastGen + 1) % 0xFFFFFFFF
  let g := if k.lastGen = 0xFFFFFFFF then 0 else gen
  let h : List Byte := [0x53, 0x4B, 0x01] ++
    toLE 1 (b2n ticket.isSome + 2 * b2n k.stepped + 4 * b2n (untraceable s) + 8 * s.hl.lead) ++ toLE 4 g ++ toLE 8 (t64OfNs t) ++ toLE 4 (64 + body.length) ++
    toLE 2 (12 + 2 * b2n k.samples + b2n k.meters) ++ toLE 2 k.skipped ++ toLE 4 k.period ++ toLE 4 w ++ toLE 1 s.hl.stateA ++ toLE 1 s.hl.stateB ++ zeros 26
  let prev := (List.range 64).foldl (fun a p => (List.range 4).foldl (fun a j => tset 0 a (4 * p + j) (bwNow s p j)) a) []
  perfApply (stookClear (modStook (fun x => { x with
    generation := g, skipped := 0, stepped := false, latchUs := some us, prev := prev
    writing := some (stookTaken { t := t, manual := ticket.isSome, header := h, body := body, ticket := ticket } s) }) s))

/-- A tick is skipped: cause 0x01 busy, 0x02 DMA or link failure. -/
def stookSkip (cause : Nat) (s : State) : State := fire 0x391 cause [] (modStook (fun x => { x with skipped := satAdd 0xFFFF x.skipped 1 }) s)

/-- The periodic tick that is due, with the ticks that a step has passed (R448). -/
def stookPeriodic (n : Nat) (s0 : State) : State :=
  let per := stookPer s0
  let now := nowNs s0
  let due := min n (nextMult per now)
  let t := if due + per ≤ now then now / per * per else due
  let s1 := modStook (fun x => { x with nextTick := some (t + per), skipped := satAdd 0xFFFF x.skipped ((t - due) / per) }) s0
  let s2 := reachNs t s1
  if s2.stook.writing.isSome then stookSkip 1 s2
  else if !s2.pcie.up then stookSkip 2 s2
  else stookLatch t none s2

/-- STOOK_NOW's latch. -/
def stookManual (t : Nat) (k : Ticket) (s0 : State) : State :=
  let s := modStook (fun x => { x with manual := none }) (reachNs t s0)
  if s.stook.writing.isSome then complete k stBusy [] (stookSkip 1 s)
  else if !s.pcie.up then complete k stHwFault [] (stookSkip 2 s)
  else stookLatch t (some k) s

/-- STOOK_TICK: the next tick, periodic or of STOOK_NOW. -/
def execStookTick (s : State) : Host.Outcome State Fault Refusal :=
  if s.clk.coreStopped then .next s else
  let k := s.stook
  let per := if k.enable then k.nextTick else none
  match per, k.manual with
  | none, none => .next s
  | some n, none => .next (stookPeriodic n s)
  | none, some (t, x) => .next (stookManual t x s)
  | some n, some (t, x) => .next (if min n (nextMult (stookPer s) (nowNs s)) ≤ t then stookPeriodic n s else stookManual t x s)

/-- STOOK_SNAPSHOT_WRITTEN: the DMA of the snapshot ends, ok or not. -/
def execStookSnapshotWritten (ok : Bool) (s : State) : Host.Outcome State Fault Refusal :=
  if s.clk.coreStopped then .next s else
  match s.stook.writing with
  | none => .next s
  | some w =>
    let g := s.stook.generation
    let slot := g % max 1 s.stook.nSlots
    let a := s.stook.base + slot * s.stook.slotBytes
    let s1 := modStook (fun x => { x with writing := none }) s
    if !ok || !s.pcie.up then
      let s2 := stookSkip 2 (stookUndo w s1)
      .next (match w.ticket with | some k => complete k stHwFault [] s2 | none => s2)
    else
      let s2 := emitOut (.hostWrite (a + 60) (toLE 4 (crc32 (w.header ++ w.body)))) (emitOut (.hostWrite a w.header)
        (emitOut (.hostWrite (a + 64) w.body) (emitOut (.hostWrite (a + 4) (toLE 4 0xFFFFFFFF)) s1)))
      let s3 := fire 0x390 0 (toLE 4 g ++ toLE 1 slot) (modStook (fun x => { x with lastGen := g, lastSlot := slot }) s2)
      .next (match w.ticket with | some k => complete k stOk (toLE 4 g ++ toLE 8 (t64OfNs w.t)) s3 | none => s3)

/-! ## Commands -/

def stookPeriods : List Nat := [1, 2, 5, 10, 20, 50, 100, 200, 500, 1000, 2000, 5000, 10000]

def specStookSet : CmdSpec := { opcode := 0x0C04, priv := 1, mask := 0xF, lenOk := len 24 }
/-- R460. -/
def bodyStookSet (p : Packet) (s : State) : CmdResult :=
  let b := p.params
  let base := le b 0 8
  let n := le b 8 4
  let sl := byteAt b 12
  let f := byteAt b 13
  let per := le b 16 4
  let size := stookSize (bit f 1) (bit f 2)
  checked [(base % 64 == 0, 0), (n % 64 == 0 && size ≤ n, 8), (2 ≤ sl && sl ≤ 64, 12), (f < 8, 13), (reservedAt b 14 2, 14),
    (stookPeriods.contains per && !(bit f 2 && decide (per < 100)), 16), (reservedAt b 20 4, 20)] <|
  let k := s.stook
  if k.writing.isSome && !(base == k.base && n == k.slotBytes && sl == k.nSlots) then .refuse stBusy 0
  else
    let on := bit f 0
    let t := nextMult (per * 1000000) (nowNs s)
    let s1 := modStook (fun x => { x with
      enable := on, samples := bit f 1, meters := bit f 2, base := base, slotBytes := n, nSlots := sl, period := per
      nextTick := if on then some t else none, latchUs := if on && !x.enable then none else x.latchUs }) s
    .ok (toLE 4 size ++ zeros 4 ++ toLE 8 (if on then t64OfNs t else 0)) (if on then s1 else perfApply s1)
def execStookSet (p : Packet) (s : State) : Host.Outcome State Fault Refusal := serveCmd specStookSet bodyStookSet p s

/-- The length of COUNTER_SELECT by OP. -/
def counterLen (b : List Byte) : Bool := b.length == 8 + (2 * byteAt b 2 + 3) / 4 * 4

def specCounterSelect : CmdSpec := { opcode := 0x0C05, priv := 1, mask := 0xF, lenOk := lenForms 3 [(0, counterLen), (1, len 8)] }
/-- R461. -/
def bodyCounterSelect (p : Packet) (s : State) : CmdResult :=
  let b := p.params
  let blk := byteAt b 0
  let first := byteAt b 1
  let n := byteAt b 2
  let op := byteAt b 3
  let (at_, total) := perfBlock blk
  let ev := (List.range n).map (fun i => (i, le b (8 + 2 * i) 2))
  checked (([(blk < 5, 0), (first < total || (n == 0 && first == total), 1), (decide (first + n ≤ total), 2), (op < 2, 3), (reservedAt b 4 4, 4)] : List (Bool × Nat)) ++
    (if op = 0 then ev.map (fun e => (perfOk blk e.2, 8 + 2 * e.1)) ++ [(reservedAt b (8 + 2 * n) 2, 8 + 2 * n)] else [])) <|
  if op = 0 then
    .ok [] (ev.foldl (fun s e =>
      let i := at_ + first + e.1
      if s.stook.enable then { s with perf := tmod {} s.perf i (fun x => { x with pend := some e.2 }) } else perfTake i e.2 s)
      (if blk < 3 then s else syncDram (blk - 3) s))
  else
    let s1 := if blk < 3 then s else syncDram (blk - 3) s
    .ok (perfBytes (at_ + first) n s1) s1
def execCounterSelect (p : Packet) (s : State) : Host.Outcome State Fault Refusal := serveCmd specCounterSelect bodyCounterSelect p s

def specStookNow : CmdSpec := { opcode := 0x0C06, priv := 1, mask := 0xF, lenOk := len 0 }
/-- R462. -/
def bodyStookNow (p : Packet) (s : State) : CmdResult :=
  if s.stook.nSlots = 0 then .conflict
  else if s.stook.writing.isSome || s.stook.manual.isSome then .refuse stBusy 0
  else .accepted (modStook (fun x => { x with manual := some (nowNs s + 10000, ticketFor specStookNow p) }) s)
def execStookNow (p : Packet) (s : State) : Host.Outcome State Fault Refusal := serveCmd specStookNow bodyStookNow p s

end Sys2Proof.Machine
end

