-- ==== Sys2Proof/Machine/Release.lean ====
section
/-! DEFINITION. Reset: its assertion, what it clears and keeps, and the release of the domains step by step (spec/16 R502-R507, R513-R516,
R521-R525). -/

namespace Sys2Proof.Machine

def modDev (g : Device → Device) (s : State) : State := { s with dev := g s.dev }
def modClk (g : Clocks → Clocks) (s : State) : State := { s with clk := g s.clk }
def modSlices (g : Slices → Slices) (s : State) : State := { s with slices := g s.slices }
def modCp (g : CmdProc → CmdProc) (s : State) : State := { s with cp := g s.cp }

/-! ## Assertion (R503, R504, R507) -/

/-- Every register, memory, counter, table, queue and configuration is cleared; what is retained or not volatile stays, and so do the levels that
come from outside, and the output pins take their reset levels (R503). A burn in progress stays as far as it went: k whole copies and part of the bits of
the next (R519). -/
def resetAll (k part : Nat) (s : State) : State :=
  { (({} : State)) with
    pending := s.pending
    out := .resetPins {} :: s.out
    free := s.free
    nextUid := s.nextUid
    nv := cutBurn k part s.nv
    ret := { mem := s.ret.mem, bad := s.ret.bad, backup := s.ret.backup, descs := s.ret.descs }
    sup := { s.sup with poweredA := true, poweredB := true }
    therm := { sensors := s.therm.sensors, warn := s.therm.warn, crit := s.therm.crit }
    gpio := tmap {} s.gpio (fun g => { level := g.level, accepted := g.level })
    clk := { xtalOk := s.clk.xtalOk } }

/-- POWER_ON_DETECT (R502): a supply below its operating range. lost: VBAK and VDD_FAL were both out of range, so that retained state is gone
(R530). -/
def execPowerOnDetect (lost : Bool) (copies part : Nat) (s0 : State) : Host.Outcome State Fault Refusal :=
  let s := modDev (fun d => { d with resetPor := true, resetPin := s0.dev.resetPin }) (resetAll copies part s0)
  .next (if lost then { s with ret := { s.ret with mem := [], backup := [], bad := [], descs := [] } } else s)

/-- RESET_N_ASSERT (R503): RESET_N low for this many nanoseconds. 20 ns or more reset the device; fewer than 5 ns are filtered (R542); between
them the outcome is not stated. -/
def execResetNAssert (ns copies part : Nat) (s0 : State) : Host.Outcome State Fault Refusal :=
  let (f, s) := if 5 ≤ ns && ns < 20 then takeFree 1 s0 else (b2n (decide (20 ≤ ns)), s0)
  if f = 0 then .next s
  else .next (modDev (fun d => { d with resetPin := true, resetPor := s.dev.resetPor }) (resetAll copies part s))

/-! ## Release, steps 1 to 4 (R505) -/

/-- The device state changes (R58, R78). -/
def setState (n : Nat) (s : State) : State := modDev (fun d => { d with state := n, lastChange := nowT64 s }) s

/-- May the release go on with this step: the one before it is done, and it has not stopped (R506). -/
def relReady (s : State) (n : Nat) : Bool := s.dev.relStep == n && !s.dev.relStopped

/-- FALLOW_RELEASE, step 1: XTAL_FAL runs; the straps are sampled; bad lists the sheaves of the retained memory found uncorrectable (R524). -/
def execFallowRelease (xtal bypass test : Bool) (bad : List Nat) (s : State) : Host.Outcome State Fault Refusal :=
  if !relReady s 0 || !xtal then .next s
  else
    let por := s.dev.resetPor
    let s1 := modDev (fun d => { d with
      relStep := 1, lastReset := if por then 1 else 2, resetPin := false, resetPor := false, strapBypass := bypass, strapTest := test, jtagLimited := true, pins := none }) s
    let s2 := retainedCheck (s.ret.bad ++ bad) (modClk (fun c => { c with xtalOk := true }) s1)
    .next (if por then (if s2.ret.valid then hdrCount 16 s2 else s2) else hdrCount 18 s2)

/-- The sequence of the trail record in a slot; none where the slot is empty (R388, R521). -/
def trailSlot (s : State) (k : Nat) : Option Nat :=
  let b := retBytes s (0x40 + 32 * (k % 64)) 32
  if allZero (b.take 8) then none else some (le b 30 2)

/-- The newest trail record is the one whose next slot does not hold the next sequence: the sequence that follows it (R521). -/
def trailNext (s : State) : Nat :=
  match (List.range 64).findSome? (fun k =>
    match trailSlot s k with
    | some q => if trailSlot s (k + 1) = some ((q + 1) % 65536) then none else some q
    | none => none) with
  | some q => (q + 1) % 65536
  | none => 0

/-- HEADLAND_RELEASE, step 2. -/
def execHeadlandRelease (s : State) : Host.Outcome State Fault Refusal :=
  if !relReady s 1 then .next s
  else
    let s1 := modHl (fun h => { h with running := true, trailSeq := trailNext s }) (modClk (fun c => { c with lockHl := true }) s)
    .next (setState 1 (modDev (fun d => { d with relStep := 2 }) s1))

/-- OPTION_LOAD, step 3; the JTAG port opens only if no valid generation locks it (R514). -/
def execOptionLoad (s : State) : Host.Outcome State Fault Refusal :=
  if !relReady s 2 then .next s
  else
    let s1 := optionLoad s
    .next (modDev (fun d => { d with relStep := 3, jtagLimited := s1.opt.debugLock }) s1)

/-- CP_BOOT_START, step 4: PLL_SH has locked; the boot ROM starts, PCIe trains, the register window is served. -/
def execCpBootStart (s : State) : Host.Outcome State Fault Refusal :=
  if !relReady s 3 then .next s
  else
    let s1 := modClk (fun c => { c with lockSh := true, coreRunning := true }) s
    let s2 := { modCp (fun c => { c with released := true }) s1 with pcie := { s1.pcie with released := true } }
    .next (setState 2 (modDev (fun d => { d with relStep := 4 }) s2))

/-! ## Steps 5 to 9 -/

/-- What 0x3C0 reports of a boot or reload (R528): the firmware version and the image started; for a halt, the halt cause. -/
def bootEvent (ok halt : Nat) (s : State) : State :=
  let b := toLE 4 s.cp.fwVersion ++ toLE 1 s.cp.imageStarted
  if s.cp.running then fire 0x3C0 ok b s else fire 0x3C0 halt (b ++ toLE 1 s.cp.haltCause) s

/-- FIRMWARE_AUTHENTICATED, step 5: what the flash holds at each image's offset; none where it does not answer. -/
def execFirmwareAuthenticated (img0 img1 : Option (List (BitVec 8))) (s : State) : Host.Outcome State Fault Refusal :=
  if !relReady s 4 || s.cp.halted then .next s
  else
    let s1 := startImage img0 img1 s
    .next (bootEvent 1 2 (if s1.cp.running then modDev (fun d => { d with relStep := 5 }) s1 else s1))

/-- A furrow is released, or held fenced with the alarm that kept it (R386, R506). rail: its rail is in range. -/
def releaseFurrow (f : Nat) (rail locked : Bool) (s0 : State) : State :=
  let s := { s0 with sup := if f = 0 then { s0.sup with faOk := rail } else { s0.sup with fbOk := rail } }
  if rail && locked then
    let k := 4 + 4 * f
    let s1 := setCore f true (setLock f true (modFur f (fun x => { x with
      released := true, closedTo := epochStart (nowNs s), tab := { x.tab with nextSweep := some (s.clk.edges + s.age.sweepPeriod * secE), tokensAt := s.clk.edges } }) s))
    modSlices (fun l => { l with
      running := (List.range 4).foldl (fun m i => setBit m (k + i) true) l.running
      last := (List.range 4).foldl (fun t i => tput t (k + i) s.clk.edges) l.last }) s1
  else
    let b := if rail then 3 else 4
    let s1 := modHl (fun h => if f = 0 then { h with seenA := setBit h.seenA b true } else { h with seenB := setBit h.seenB b true }) (raiseAlarm f b s)
    let s2 := modHalf f (fun h => { h with fenced := true }) (setFurState f 1 s1)
    if b = 4 then fire 0x1E8 0 [] s2 else s2

/-- Step 6, with each furrow's rail in range and PLL locked or not. Headland takes the option policy. -/
def releaseFurrows (aRail aLocked bRail bLocked : Bool) (s : State) : State :=
  let row := s.opt.row
  let s1 := modHl (fun h => { h with policy := bits row 39 38, tolerance := bits row 47 40, arbEnable := bit row 37, autoPower := bit row 36 }) s
  let s2 := releaseFurrow 1 bRail bLocked (releaseFurrow 0 aRail aLocked s1)
  let a := s2.fa.released
  let b := s2.fb.released
  let lead := if a || !b then 0 else 1
  let s3 := modHl (fun h => { h with lead := lead }) s2
  let s4 := if a then s3 else trail 0x01 0x00 lead lead 0 {} s3
  let s5 := if b then s4 else trail 0x01 0x00 lead lead 0 {} s4
  modDev (fun d => { d with relStep := if a || b then 6 else 5, relStopped := !(a || b) }) s5

/-- FURROW_DOMAIN_RELEASE, step 6. -/
def execFurrowDomainRelease (aRail aLocked bRail bLocked : Bool) (s : State) : Host.Outcome State Fault Refusal :=
  .next (if relReady s 5 then releaseFurrows aRail aLocked bRail bLocked s else s)

/-- 0x3C5 (R528): how the options were found. A trim fault comes before a forced SAFE, that before the generation used. -/
def loadEvent (s : State) : State :=
  let c := if s.opt.trimFault then 5 else if s.opt.forced then 4 else if s.opt.use = 0 then 3 else if s.opt.fallback then 2 else 1
  fire 0x3C5 c (toLE 1 s.opt.use ++ toLE 2 s.opt.statusMap) s

/-- 0x3C8 (R528). -/
def resetEvent (s : State) : State := fire 0x3C8 0 (toLE 1 s.dev.lastReset ++ slice (hdr s) 16 4) s

/-- Step 9: CONFIG, or SAFE with cause 0x02 (R505, R514). -/
def finishRelease (s0 : State) : State :=
  let s := modDev (fun d => { d with relStep := 9, profile := if bits s0.opt.row 35 34 = 2 then 2 else 1 }) s0
  let s1 := if s.opt.safeAfterBoot then setSafeField 2 (setState 6 (modDev (fun d => { d with safeCause := 2 }) s))
    else setFailedLoads 0 (setState 3 s)
  resetEvent (loadEvent (modCp (fun c => { c with serving := true }) s1))

/-- The channels with a saved description are described again (R464). -/
def restoreDescs (s : State) : State := s.ret.descs.foldl (fun s e => if e.1 < 2 then dramSet e.1 e.2 s else s) s

/-- PORT_DOMAIN_RELEASE, steps 7 and 8: the ports leave reset with every lane disabled, and the described channels train. -/
def execPortDomainRelease (s : State) : Host.Outcome State Fault Refusal :=
  if !relReady s 6 then .next s
  else
    let s1 := modSlices (fun l => { l with
      running := (List.range 4).foldl (fun m i => setBit m i true) l.running
      last := (List.range 4).foldl (fun t i => tput t i s.clk.edges) l.last }) (applyPortOptions s)
    let s2 := restoreDescs (modDev (fun d => { d with relStep := 7 }) s1)
    let m := b2n ((chan s2 0).state == 1) + 2 * b2n ((chan s2 1).state == 1)
    .next (if m = 0 then finishRelease s2 else startTraining m none s2)

/-- RELEASE_PLL_TIMEOUT (R506): the PLL of step 2 or 4, or both PLLs of step 6, have not locked within 10 ms; release stops where it is. -/
def execReleasePllTimeout (s : State) : Host.Outcome State Fault Refusal :=
  let n := s.dev.relStep
  .next (if s.dev.relStopped then s
    else if n = 1 || n = 3 then modDev (fun d => { d with relStopped := true }) (advance (10 * msE) s)
    else if n = 5 then releaseFurrows s.sup.faOk false s.sup.fbOk false (advance (10 * msE) s)
    else s)

end Sys2Proof.Machine
end

