-- ==== Sys2Proof/Machine/Power.lean ====
section
/-! DEFINITION. Clocks and their losses, supplies, sensors, the PCIe endpoint, the wake controller and the fallow mirrors (spec/01 R28-R38; spec/11
R375, R387; spec/12 R402; spec/15 R490; spec/17 R530, R532, R541, R546, R549). -/

namespace Sys2Proof.Machine

/-! ## SAFE with cause 0x03 (R31) -/

/-! ## The fallow mirrors (R490) -/

/-- What the fallow domain copies at an edge, all at once. -/
def mirrorOf (s : State) : Mirror :=
  let c := s.clk
  let sig := fun (lo : Nat) => ((List.range 32).filter (fun i => (lane s (lo + i)).signal)).foldl (fun m i => m + 2 ^ i) 0
  let t := nowT64 s
  { tick := wrap32 (s.clk.edges / 800)
    r0044 := s.opt.use * 2 ^ 24 + b2n s.opt.fallback * 2 ^ 23 + s.dev.profile * 2 ^ 16 + (if s.dev.state = 6 then s.dev.safeCause else 0) * 256 + s.dev.state
    r0048 := b2n s.cp.running * 128 + b2n s.ret.valid * 64 + b2n c.lockDs * 32 + b2n c.lockHl * 16 + b2n c.lockFb * 8 + b2n c.lockFa * 4 + b2n c.lockSh * 2 + b2n c.xtalOk
    r004c := s.hl.alarmsB * 2 ^ 24 + s.hl.alarmsA * 2 ^ 16 + s.hl.stateB * 256 + s.hl.stateA * 16 + s.hl.lead
    r0050 := bits s.slices.running 11 8 * 2 ^ 24 + bits s.slices.running 7 4 * 2 ^ 20 + bits s.slices.running 3 0 * 2 ^ 16 + s.slices.bedClocks
    r0054 := sig 0
    r0058 := if s.nv.part = .cz6408 then 0 else sig 32
    r005c := t % 2 ^ 32
    r0060 := t / 2 ^ 32
    r0064 := ((List.range 32).filter (fun r => statusReg s r != 0)).foldl (fun m r => m + 2 ^ r) 0
    r0068 := failedLoads s * 16 + s.dev.lastReset }

/-- The next fallow clock edge: every mirror copy changes on it. -/
def mirrorEdge (s0 : State) : State :=
  let s := reachEdge ((s0.clk.edges / 800 + 1) * 800) s0
  { s with mir := mirrorOf s }

/-- The fallow domain holds SAFE: every lane transmitter is idle, the shared core, the command processor and both furrows are stopped, and what they
had in progress (a training, a transition, a reload) never ends. The mirrors show it from the next fallow clock edge on. -/
def safeStop (s : State) : State :=
  let s1 := setSafeField 3 (modDev (fun d => { d with safeCause := 3, relStopped := true, retrain := none }) (setState 6 s))
  let s2 := modCp (fun c => { c with running := false, serving := false, reloading := false, reloadAsked := false })
    (modClk (fun c => { c with coreStopped := true }) { s1 with deep := { s1.deep with training := none } })
  let s3 := modFur 1 (fun x => { x with released := false }) (modFur 0 (fun x => { x with released := false }) s2)
  let s4 := modSlices (fun l => { l with running := 0, requested := 0, coreA := false, coreB := false, bedClocks := 0 }) s3
  mirrorEdge { s4 with ports := tmap {} s4.ports (fun x => { x with
    link := { x.link with rxUp := false, txUp := false, phase := 0 }, drill := { x.drill with tx := none } }) }

/-- XTAL_FAL_STOP: no PLL keeps its lock; the fallow domain runs on its own oscillator. -/
def execXtalFalStop (s : State) : Host.Outcome State Fault Refusal :=
  if s.dev.relStep = 0 || !s.clk.xtalOk then .next s
  else
    .next (safeStop (modHl (fun h => { h with running := false }) (modClk (fun c => { c with
      xtalOk := false, intOsc := true, lockSh := false, lockFa := false, lockFb := false, lockHl := false, lockDs := false }) s)))

/-- PLL_SH_LOCK_LOSS. -/
def execPllShLockLoss (s : State) : Host.Outcome State Fault Refusal :=
  .next (if s.clk.lockSh then safeStop (modClk (fun c => { c with lockSh := false }) s) else s)

/-! ## Furrow and Headland clocks, rails (R28, R31, R375, R387, R530) -/

/-- FURROW_PLL_LOCK_LOSS. -/
def execFurrowPllLockLoss (f : Furrow) (s : State) : Host.Outcome State Fault Refusal :=
  let n := furNo f
  .next (if (if n = 0 then s.clk.lockFa else s.clk.lockFb) then raiseAlarm n 3 (setLock n false s) else s)

/-- HEADLAND_PLL_LOSS: Headland stops until reset. -/
def execHeadlandPllLoss (s : State) : Host.Outcome State Fault Refusal :=
  .next (if s.clk.lockHl then fire 0x1E7 0x02 [] (modHl (fun h => { h with running := false }) (modClk (fun c => { c with lockHl := false }) s)) else s)

/-- RAIL_MONITOR: a furrow rail has been outside its range for 1 us, after the first release of step 6. -/
def execRailMonitor (f : Furrow) (s : State) : Host.Outcome State Fault Refusal :=
  let n := furNo f
  if s.dev.relStep < 6 || !s.hl.running || bit (alarms s n) 4 then .next s
  else .next (fire 0x1E8 0 [] (raiseAlarm n 4 { s with sup := if n = 0 then { s.sup with faOk := false } else { s.sup with fbOk := false } }))

/-- SUPPLY_OVER_RANGE: rail 0 VDD_FAL to 7 VDDIO33 above its range for 1 us; at most once per 1 s per rail. -/
def execSupplyOverRange (rail : Nat) (s : State) : Host.Outcome State Fault Refusal :=
  .next (if rail < 8 && s.dev.relStep != 0 then fireLim secE rail (fire 0x3CB 0 (toLE 1 rail)) 0x3CB s else s)

/-- VBAK_LOW: VBAK below 1.50 V. -/
def execVbakLow (s : State) : Host.Outcome State Fault Refusal :=
  .next (if s.dev.relStep = 0 then s else fireLim secE 0 (fire 0x3CC 0 []) 0x3CC s)

/-- FURROW_RAIL_LOSS: the rail of a fenced island falls (R28). What the island held is gone; the deep store keeps its half of the records. -/
def furrowRailLoss (n : Nat) (s : State) : State :=
  if furState s n != 1 || !powered s n then s
  else
    let s2 := railFell n s
    let s3 := modFur n (fun x => { released := x.released, deepRecs := x.deepRecs, harrowStale := true }) s2
    let s4 := { s3 with sup := if n = 0 then { s3.sup with poweredA := false, faOk := false } else { s3.sup with poweredB := false, fbOk := false } }
    flushOver n (clocksOff n s4)
def execFurrowRailLoss (f : Furrow) (s : State) : Host.Outcome State Fault Refusal := .next (furrowRailLoss (furNo f) s)

/-! ## Sensors (R546, R549) -/

def sensor (s : State) (i : Nat) : Int := tget 0 s.therm.sensors i
def modTherm (g : Thermal → Thermal) (s : State) : State := { s with therm := g s.therm }

/-- A sensor against one of the two points: its latch, and the event as it rises or falls. -/
def thermPoint (src hi lo i : Nat) (v : Int) (on : Bool) (set : Bool → State → State) (s : State) : State :=
  let b := toLE 1 i ++ zeros 1 ++ toLE 2 (unsigned 16 v)
  if !on && decide ((16 * hi : Nat) ≤ v) then fire src 0x01 b (set true s)
  else if on && decide (v ≤ (16 * lo : Nat)) then fire src 0x02 b (set false s)
  else s

/-- One sensor of a new reading. -/
def thermSensor (i : Nat) (v : Int) (s : State) : State :=
  let s1 := modTherm (fun t => { t with sensors := tset 0 t.sensors i v }) s
  let s2 := thermPoint 0x3C9 105 102 i v (bit s.therm.warn i) (fun b => modTherm (fun t => { t with warn := setBit t.warn i b })) s1
  thermPoint 0x3CA 115 112 i v (bit s.therm.crit i) (fun b => modTherm (fun t => { t with crit := setBit t.crit i b })) s2

/-- THERMAL_SENSOR_UPDATE: the eight sensors in 1/16 degree, and VDD_FA, VDD_FB, VDD_SH and VBAK in mV. -/
def thermalUpdate (temps : List Int) (mv : List Nat) (s0 : State) : State :=
  let s := reachEdge (s0.therm.readAt + msE) s0
  let v := (List.range 8).map (fun i => temps.getD i (sensor s i))
  let s1 := v.zipIdx.foldl (fun s e => thermSensor e.2 e.1 s) s
  let top := v.foldl max (v.headD 0)
  let s2 := modTherm (fun t => { t with
    highest := if t.read then max t.highest top else top, read := true, readAt := s.clk.edges, readT := nowT64 s
    ms105 := t.ms105 + b2n (decide (1680 ≤ top)), ms115 := t.ms115 + b2n (decide (1840 < top)) }) s1
  let r := fun (i d : Nat) => mv.getD i d
  { s2 with sup := { s2.sup with mvFa := r 0 s.sup.mvFa, mvFb := r 1 s.sup.mvFb, mvSh := r 2 s.sup.mvSh, mvBak := r 3 s.sup.mvBak } }
def execThermalSensorUpdate (temps : List Int) (rails : List Nat) (s : State) : Host.Outcome State Fault Refusal := .next (thermalUpdate temps rails s)

def specThermalStatus : CmdSpec := { opcode := 0x0E07, priv := 0, mask := 0xF, lenOk := len 0 }
/-- R549. -/
def bodyThermalStatus (_ : Packet) (s : State) : CmdResult :=
  let t := s.therm
  let v := (List.range 8).map (sensor s)
  let at_ := fun (n : Nat) => b2n (v.any (fun x => decide ((16 * n : Nat) ≤ x)))
  let rail := fun (f mv : Nat) => toLE 2 (if powered s f then mv else 0)
  .ok (toLE 1 8 ++ toLE 1 (at_ 105 + 2 * at_ 115) ++ zeros 2 ++ v.flatMap (fun x => toLE 2 (unsigned 16 x)) ++ toLE 2 (unsigned 16 t.highest) ++ zeros 2 ++
    rail 0 s.sup.mvFa ++ rail 1 s.sup.mvFb ++ toLE 2 s.sup.mvSh ++ toLE 2 s.sup.mvBak ++ toLE 4 (t.ms105 / 1000) ++ toLE 4 (t.ms115 / 1000) ++ toLE 8 t.readT) s
def execThermalStatus (p : Packet) (s : State) : Host.Outcome State Fault Refusal := serveCmd specThermalStatus bodyThermalStatus p s

/-! ## The PCIe endpoint (R75, R201, R541) -/

def modPcie (g : Pcie → Pcie) (s : State) : State := { s with pcie := g s.pcie }

/-- PCIE_LINK_UP: the link has trained; the MSI-X enable and function mask are as host software sets them in configuration space,
and a vector that this leaves unmasked is signalled where its pending bit is set (R499). -/
def execPcieLinkUp (enable mask : Bool) (s : State) : Host.Outcome State Fault Refusal :=
  if !s.pcie.released then .next s
  else
    let s1 := modPcie (fun p => { p with up := true, perst := false, msixEnable := enable, msixMaskAll := mask }) s
    .next (signalPending (if s.pcie.up then s1 else fire 0x3CD 0x01 [] s1))

/-- Every session of the PCIe transport closes, each with 0x3C3; the shadow compare is suspended. -/
def pcieLost (s : State) : State :=
  let s1 := (List.range 4).foldl (fun s k =>
    match (session s k).isOpen, (session s k).endpoint with
    | true, .ring _ => fire 0x3C3 0x02 [] (closeSession k s)
    | _, _ => s) (modPcie (fun p => { p with up := false }) s)
  shadowSuspend s1

/-- PCIE_LINK_DOWN. -/
def execPcieLinkDown (s : State) : Host.Outcome State Fault Refusal :=
  .next (if s.pcie.up then fire 0x3CD 0x02 [] (pcieLost s) else s)

/-- PCIE_PERST: the endpoint is reset, with its MSI-X capability, table and pending bits; the device is not. -/
def execPciePerst (s : State) : Host.Outcome State Fault Refusal :=
  let s1 := if s.pcie.up then pcieLost s else s
  let s2 := modPcie (fun p => { p with perst := true, msixEnable := false, msixMaskAll := false }) s1
  .next (if s.pcie.perst || !s.pcie.released then s else fire 0x3CD 0x03 [] { s2 with win := { s2.win with msix := [], pba := 0 } })

/-! ## The wake controller (R33-R38, R402) -/

/-- The longest fallow delay of a slice's configured ports; none where one of them never stops (R33, R37). -/
def sliceDelay (s : State) (k : Nat) : Option Nat :=
  let l := ((List.range 16).map (fun i => (port s (16 * (k % 4) + i)).cfg)).filter (·.configured)
  if l.any (·.neverFallow) then none
  else match l with
    | [] => some 50
    | c :: r => some (r.foldl (fun m c => max m c.fallowDelay) c.fallowDelay)

/-- SLICE_FALLOW_EXPIRY: a slice clock (slice + 4 x (0 shared, 1 A, 2 B)) has had no activity for its delay. -/
def execSliceFallowExpiry (clock : Nat) (s0 : State) : Host.Outcome State Fault Refusal :=
  if s0.clk.coreStopped then .next s0 else
  if 12 ≤ clock || !bit s0.slices.running clock then .next s0
  else match sliceDelay s0 clock with
    | none => .next s0
    | some d =>
      let s := reachEdge (tget 0 s0.slices.last clock + d * usE) s0
      let s1 := modSlices (fun l => { l with running := setBit l.running clock false }) s
      .next (if clock < 4 then s1 else coreIdle (clock / 4 - 1) s1)

/-- BED_WAKE: a stopped Bed was given work. -/
def execBedWake (bed_ : Nat) (s : State) : Host.Outcome State Fault Refusal :=
  if s.clk.coreStopped then .next s else
  if 16 ≤ bed_ || bedRuns s bed_ || !powered s (bedFur bed_) || ((bed s bed_).queue.isEmpty && !bedInline (bed s bed_)) then .next s
  else .next (setBedClock bed_ true (startCore (bedFur bed_) s))

/-- BED_FALLOW_STOP: an idle Bed with no inline program stops. -/
def execBedFallowStop (bed_ : Nat) (s : State) : Host.Outcome State Fault Refusal :=
  if s.clk.coreStopped then .next s else
  let b := bed s bed_
  if !bedRuns s bed_ || !b.queue.isEmpty || !b.tines.isEmpty || bedInline b then .next s
  else .next (coreIdle (bedFur bed_) (setBedClock bed_ false s))

/-- The earliest armed deadline of a furrow's Beds. -/
def earliest (s : State) (f : Nat) : Option Nat :=
  (List.range 8).foldl (fun m i =>
    match nextDeadline s (8 * f + i), m with
    | some (_, d), none => some d
    | some (_, d), some e => some (min d e)
    | none, m => m) none

/-- FURROW_CORE_WAKE_FOR_TIMER: 2 us before that deadline. -/
def execFurrowCoreWakeForTimer (f : Furrow) (s : State) : Host.Outcome State Fault Refusal :=
  if s.clk.coreStopped then .next s else
  let n := furNo f
  if (if n = 0 then s.slices.coreA else s.slices.coreB) || !decides s n then .next s
  else match earliest s n with
    | none => .next s
    | some d => .next (startCore n (reachNs (d - 2000) s))

/-- FALLOW_MIRROR_REFRESH: the next fallow clock edge. -/
def execFallowMirrorRefresh (s0 : State) : Host.Outcome State Fault Refusal :=
  .next (if s0.dev.relStep = 0 then s0 else mirrorEdge s0)

end Sys2Proof.Machine
end

