-- ==== Sys2Proof/Machine/Scrub.lean ====
section
/-! DEFINITION. The scrubber: corrected words, and what an uncorrectable one does in each memory (spec/01 R43-R46; spec/10 R336; spec/11 R365). -/

namespace Sys2Proof.Machine

/-! ## Shared memories -/

/-- The frame whose copy in a half holds a cell. -/
def cellOwner (s : State) (h cell : Nat) : Option Nat :=
  (s.frames.find? (fun e => match copyOf e.2 h with | some c => c.cells.any (fun y => y.1 == cell) | none => false)).map (·.1)

def isFreeCell (x : Half) (cell : Nat) : Bool := x.stack.contains cell || x.runs.any (fun r => decide (r.1 ≤ cell && cell ≤ r.2))

/-- The number of a cell's word in the copy that holds it. -/
def cellWord (s : State) (h u loc : Nat) : Option Nat :=
  (copyOf (frame s u) h).map (fun c => 8 * (c.cells.takeWhile (fun y => y.1 != loc / 8)).length + loc % 8)

/-- A sheaf of a Granary half: 8 to a cell, a free cell's first one holding its list word. -/
def granaryFault (h loc : Nat) (s : State) : State :=
  let cell := loc / 8
  match cellOwner s h cell with
  | some u => poisonCopy u h (cellWord s h u loc) (memUnc h s)
  | none => if isFreeCell (half s h) cell && loc % 8 = 0 then listFail h cell 6 s else memUnc h s

/-- A cell link or frame descriptor of a frame's copy: the frame goes, and the half's free list is rebuilt. -/
def linkFault (u h : Nat) (s0 : State) : State :=
  let s := poisonCopy u h none (fire 0x20B 0 [] (memUnc 3 s0))
  modHalf h (abandon s.clk.edges) s

/-- The command processor halts until CP_RELOAD (R45, R517). -/
def cpFault (s0 : State) : State :=
  let s := memUnc 24 s0
  if !s.cp.running then s
  else
    let s1 := modCp (fun c => { c with running := false, halted := true, haltCause := 6 }) (setBootField 6 s.cp.imageStarted s)
    bootEvent 1 2 (servosStop s1)

/-- A twin history: one copy of three is outvoted; with two or three it is cleared (R365). -/
def winnowFault (copy p inp : Nat) (more : Bool) (s0 : State) : State :=
  let s := memUnc (25 + copy) s0
  if more then clearTwin p inp s else wctr 23 p s

/-- An entry of the other shared memory. kind: 0 meter, 1 class shaper (8 x port + class), 2 stream shaper, 3 gate list of a port (64 more for its pending one, and
128 for each sheaf before the word), 4 turn filter
(4,096 x port + place), 5 node entry, 6 recovery function (its key), 7 generation function (its handle); any other array only counts. -/
def sharedFault (kind loc : Nat) (s : State) : State :=
  match kind with
  | 0 => meterFault loc 0xFF s
  | 1 => classShaperFault (loc / 8) (loc % 8) s
  | 2 => streamShaperFault loc 0xFF s
  | 3 => gateListFault (loc % 64) (bit loc 6) s
  | 4 => winUncorrectable (loc / 4096) (modWin (loc / 4096) (fun w => { w with filter := w.filter.eraseIdx (loc % 4096) }) s)
  | 5 => winUncorrectable ((s.red.nodes.map (·.egress)).getD loc 0) (modRed (fun r => { r with nodes := r.nodes.eraseIdx loc }) s)
  | 6 => if (frer s loc).isSome then frerFault loc (loc % 64) s else memUnc 32 s
  | 7 => if tmem s.red.gen loc then genFault loc s else memUnc 32 s
  | _ => memUnc 32 s

/-! ## Memories of a furrow -/

/-- An entry of the lookup tables reads as a miss from now on. kind: 0 address place, 1 stream place, 2 multicast group, 3 binding, 4 key slot, 5 rule
entry (2^18 x bank + 2^15 x stage + place), 6 pattern (256 x bank + index). -/
def tableFault (f kind loc : Nat) (s0 : State) : State :=
  let s := if 5 ≤ kind then harrowUpset f 64 s0 else tabUpsetIn f s0
  match kind with
  | 0 => ovfWatch f (modTab f (delEntry loc) s)
  | 1 => modTab f (fun t => { t with strm := tdel t.strm loc }) s
  | 2 => modTab f (fun t => { t with mgroup := tdel t.mgroup loc }) s
  | 3 => modTab f (fun t => { t with bind := tdel t.bind loc }) s
  | 4 => modTab f (fun t => { t with keys := tdel t.keys loc }) s
  | 5 => loseRule f (loc / 2 ^ 18 % 2) (loc / 2 ^ 15 % 8) (loc % 2 ^ 15) s
  | 6 => losePattern f (loc / 256 % 2) (loc % 256) s
  | _ => s

/-- An entry of a furrow's lane FIFOs is discarded: NOT_SENT, and a bad tail where its head had left. loc: lane key + 41,472 x place. -/
def laneFault (f loc : Nat) (s : State) : State :=
  let key := loc % 41472
  match (laneOf s f key)[loc / 41472]? with
  | none => s
  | some e =>
    let p := key / 8 % 72
    let id := match e.mirror with | some (i, _) => 2 + 2 * i + f | none => f
    match (if e.moved = 0 then none else egCopy s p e.uid id) with
    | some c => endEg p 11 0 c (xctr 14 1 f s)
    | none =>
      let s1 := setLane f key ((laneOf s f key).eraseIdx (loc / 41472)) (xctr 14 1 f s)
      if e.spill then spillGone e.uid s1
      else tryReturn e.uid e.half (modCopy e.uid e.half (fun c => { c with fanout := c.fanout - 1 }) s1)

/-- The consequence of R45 for memory mem of the stook's numbering (R451; 37 is the retained memory). A word of a Bed's dispatch queue, release window or
findings FIFO, which R41 sends to R45 without a row there, acts as Bed memory (log 62). -/
def uncorrectable (mem loc kind : Nat) (s : State) : State :=
  if mem < 2 then granaryFault mem loc s
  else if mem = 2 then queueFault loc s
  else if mem = 3 then linkFault (loc / 2) (loc % 2) s
  else if mem < 6 then hotFault (mem - 4) loc s
  else if mem < 8 then tableFault (mem - 6) kind loc s
  else if mem < 24 then bedFault (mem - 8) (memUnc mem s)
  else if mem = 24 then cpFault s
  else if mem < 28 then winnowFault (mem - 25) (loc / 64) (loc % 64) (kind == 1) s
  else if mem < 30 then
    let f := mem - 28
    raiseAlarm f 0 (fireFur f (hBase f + 5) 0 [] (modFur f (fun x => { x with frags := tdel x.frags loc }) (memUnc mem s)))
  else if mem < 32 then (if kind = 0 then laneFault (mem - 30) loc (memUnc mem s) else if loc < 8 then bedFault (8 * (mem - 30) + loc) (memUnc mem s) else memUnc mem s)
  else if mem = 32 then sharedFault kind loc s
  else if mem = 37 then (if loc < 256 then fire 0x3C7 0x02 [] (replaceSheaf loc s) else s)
  else s

/-- The island that a memory lies in; none for the shared and fallow domains (R40, R41). -/
def islandOf (mem : Nat) : Option Nat :=
  if mem = 0 || mem = 4 || mem = 6 || (8 ≤ mem && mem < 16) || mem = 28 || mem = 30 then some 0
  else if mem = 1 || mem = 5 || mem = 7 || (16 ≤ mem && mem < 24) || mem = 29 || mem = 31 then some 1
  else none

/-- A word of a frame's copy reads wrong from now on; the frame header's word and a free cell's stay right. -/
def garbleCell (h loc v : Nat) (s : State) : State :=
  match cellOwner s h (loc / 8) with
  | none => s
  | some u => match cellWord s h u loc with
    | none => s
    | some 0 => s
    | some w =>
      let had := (List.range 64).flatMap (fun p => ((port s p).drill.buf.filter (fun c => c.uid == u && decide (w < c.got))).map (fun c => (p, c.id)))
      modFrame u (fun x => { x with wrong := x.wrong ++ [{ half := h, word := w, value := v, had := had }] }) s

/-- 32 bytes of a memory read wrong, from an offset on. -/
def garbleBytes (off v : Nat) (l : List Byte) : List Byte := (l.take off ++ toLE 32 v ++ l.drop (off + 32)).take l.length

/-- An entry of the lookup tables reads wrong: a destination, a stream entry's handle, a group, a binding's egress, key material. -/
def garbleTable (kind loc v : Nat) (t : Tables) : Tables :=
  match kind with
  | 0 => match entryAt t loc with | some e => putEntry loc { e with dest := v % 64 } t | none => t
  | 1 => { t with strm := if tmem t.strm loc then tmod {} t.strm loc (fun e => { e with handle := v % 2 ^ 20 }) else t.strm }
  | 2 => { t with mgroup := if tmem t.mgroup loc then tput t.mgroup loc (v % 2 ^ 64) else t.mgroup }
  | 3 => { t with bind := if tmem t.bind loc then tmod {} t.bind loc (fun b => { b with egress := v % (if b.egressKind = 1 then 64 else 65536) }) else t.bind }
  | 4 => { t with keys := if tmem t.keys loc then tmod {} t.keys loc (fun k => { k with material := toLE 32 v }) else t.keys }
  | _ => t

/-- A sheaf of a bank of furrow f reads wrong: the result of a rule entry, or the first bytes of a pattern; loc as in tableFault. -/
def garbleBank (f kind loc v : Nat) (s : State) : State :=
  if kind = 5 then
    modFur f (fun y => { y with banks := tmod {} y.banks (loc / 2 ^ 18 % 2) (fun k => { k with stages := tmod {} k.stages (loc / 2 ^ 15 % 8) (fun g =>
      { g with entries := if tmem g.entries (loc % 2 ^ 15) then tmod {} g.entries (loc % 2 ^ 15) (fun e => { e with result := v % 2 ^ 128 }) else g.entries }) }) }) s
  else if kind = 6 then
    modFur f (fun y => { y with banks := tmod {} y.banks (loc / 256 % 2) (fun k => { k with
      patterns := if tmem k.patterns (loc % 256) then tmod {} k.patterns (loc % 256) (fun p => { p with bytes := garbleBytes 0 v p.bytes }) else k.patterns }) }) s
  else s

/-- A sheaf of a Bed's memories reads wrong: a cached record, by handle; 32 bytes of program memory (2 x sheaf + area), of a Tine's data memory
(64 x Tine + sheaf), or a parameter set. -/
def garbleBed (kind loc v : Nat) (b : Bed) : Bed :=
  let code := fun (y : Image) => { y with code := garbleBytes (32 * (loc / 2)) v y.code }
  match kind with
  | 0 => { b with recs := if tmem b.recs loc then tmod {} b.recs loc (fun r => { r with words := recOfBytes (toLE 32 v) }) else b.recs }
  | 1 => if loc % 2 = 0 then { b with area0 := code b.area0 } else { b with area1 := code b.area1 }
  | 2 => match tget? b.tines (loc / 64) with
    | some a => { b with tines := tput b.tines (loc / 64) { a with
        data := (List.range 32).foldl (fun t i => tset none t (32 * (loc % 64) + i) (some (BitVec.ofNat 8 (v / 256 ^ i)))) a.data } }
    | none => b
  | 3 => { b with params := if tmem b.params loc then tput b.params loc (toLE 32 v) else b.params }
  | _ => b

/-- A word of the link memory reads wrong: the level that the first cell of a copy is charged to. -/
def garbleLink (u h v : Nat) (s : State) : State :=
  modCopy u h (fun c => { c with cells := match c.cells with | (k, _) :: r => (k, v % 5) :: r | [] => [] }) s

/-- A lane FIFO entry reads wrong, addressed as in laneFault: it names another frame. -/
def garbleLane (f loc v : Nat) (s : State) : State :=
  let key := loc % 41472
  let l := laneOf s f key
  if loc / 41472 < l.length then setLane f key (l.modify (loc / 41472) (fun e => { e with uid := v % max 1 s.nextUid })) s else s

/-- An entry of the other shared memory reads wrong: a meter's buckets, a shaper's tokens, four gate states of a list
(128 x sheaf + 64 x pending + port), the tag of a turn filter entry, the source of a node entry, the sequence state of a recovery or generation function. -/
def garbleShared (kind loc v : Nat) (s : State) : State :=
  match kind with
  | 0 => if tmem s.meters loc then modMeter loc (fun m => { m with tc := v % 2 ^ 31, tp := v / 2 ^ 32 % 2 ^ 31 }) s else s
  | 1 => modDrill (loc / 8) (fun d => { d with shapers := if tmem d.shapers (loc % 8) then tmod {} d.shapers (loc % 8) (fun y => { y with t := signed 32 v }) else d.shapers }) s
  | 2 => match tget? s.shapers loc with
    | some y => { s with shapers := tput s.shapers loc { y with t := signed 32 v } }
    | none => s
  | 3 =>
    let wrong := fun (g : GateList) => { g with entries := (List.range 4).foldl (fun t i =>
      let k := 4 * (loc / 128) + i
      match tget? t k with | some e => tput t k (v / 256 ^ i % 256, e.2) | none => t) g.entries }
    modDrill (loc % 64) (fun d => if bit loc 6 then { d with pend := wrong d.pend } else { d with active := d.active.map wrong }) s
  | 4 => modWin (loc / 4096) (fun w => { w with filter := w.filter.modify (loc % 4096) (fun e => { e with tag := v % 65536 }) }) s
  | 5 => modRed (fun r => { r with nodes := r.nodes.modify loc (fun n => { n with src := v % 2 ^ 48 }) }) s
  | 6 => modFrer loc (fun r => { r with recov := v % 65536, lastSeq := v / 65536 % 65536, hist := v / 2 ^ 32 % 2 ^ 64 }) s
  | 7 => modRed (fun r => { r with gen := if tmem r.gen loc then tput r.gen loc (v % 65536) else r.gen }) s
  | _ => s

/-- A word with four or more bits in error that is accepted, with wrong data (R43): what it held is now a free value. The memories and fields for which
the model does this are in log 54; the data of the others stays right. The two right copies of a Winnow history outvote a wrong one (R45). -/
def garble (mem loc kind : Nat) (s0 : State) : State :=
  let (v, s) := takeFree 256 s0
  if mem < 2 then garbleCell mem loc v s
  else if mem = 2 then modQueue loc (fun q => { q with profile := v % 64 }) s
  else if mem = 3 then garbleLink (loc / 2) (loc % 2) v s
  else if mem < 6 then modFur (mem - 4) (fun x => { x with hot := if tmem x.hot loc then tput x.hot loc (v % 2 ^ 20) else x.hot }) s
  else if mem < 8 then (if 5 ≤ kind then garbleBank (mem - 6) kind loc v s else modTab (mem - 6) (garbleTable kind loc v) s)
  else if mem < 24 then modBed (mem - 8) (garbleBed kind loc v) s
  else if mem < 28 then s
  else if mem < 30 then
    modFur (mem - 28) (fun x => { x with frags := if tmem x.frags loc then tmod {} x.frags loc (fun e => { e with ident := v % 65536, dec := { e.dec with md := v / 65536 % 2 ^ 128 } }) else x.frags }) s
  else if mem < 32 then
    if kind = 0 then garbleLane (mem - 30) loc v s
    else if loc < 8 then modBed (8 * (mem - 30) + loc) (fun b => { b with queue := match b.queue with | q :: r => { q with handle := v % 2 ^ 20 } :: r | [] => [] }) s
    else s
  else if mem = 32 then garbleShared kind loc v s
  else s

/-- SCRUB_READ: the scrubber reads a sheaf with this many bits in error. Four or more may be found or not. An unpowered island is not scrubbed; the
links and the SDRAM have no scrubber. -/
def execScrubRead (mem loc kind errors : Nat) (s0 : State) : Host.Outcome State Fault Refusal :=
  let idle := match islandOf mem with | some f => !powered s0 f | none => (s0.clk.coreStopped && mem != 37) || 37 < mem || (33 ≤ mem && mem < 37)
  if idle || errors = 0 then .next s0
  else if errors < 3 then .next (if mem < 37 then memCorr mem s0 else s0)
  else
    let (found, s) := if 3 < errors then takeFree 1 s0 else (1, s0)
    .next (if found = 0 then garble mem loc kind s else uncorrectable mem loc kind s)

end Sys2Proof.Machine
end

