-- ==== Sys2Proof/Machine/Control.lean ====
section
/-! DEFINITION. The commands that act on the whole device: SET_STATE, CONFIG_DIGEST, CP_RELOAD, and the ends of trainings and reloads (spec/02
R76, R77, R83; spec/14 R479; spec/15 R501; spec/16 R517). -/

namespace Sys2Proof.Machine

/-! ## SET_STATE (R77) -/

/-- The states from which a target is legal with a PROFILE, as the mask of R59. -/
def fromMask (target profile : Nat) : Nat :=
  if target = 3 && (profile = 1 || profile = 2) then 0x1
  else if profile != 0 then 0
  else match target with
    | 3 => 0xA
    | 4 => 0x5
    | 5 => 0x2
    | 6 => 0x7
    | _ => 0

/-- Check 8 of SET_STATE: legality first, then the privilege that the transition needs. -/
def checkTransition (p : Packet) (x : Session) (s : State) : Option (Nat × Nat) :=
  let goal := byteAt p.params 0
  let pr := byteAt p.params 1
  let now := s.dev.state
  let m := fromMask goal pr
  if goal = now && pr = 0 then none
  else if m &&& stateBit s = 0 || (now = 6 && s.dev.safeCause != 1) then some (stStateConflict, m)
  else if x.priv < 2 && (goal = 5 || now = 6) then some (stPrivilege, 0)
  else none

/-- The tables that a profile selection clears: address, stream, multicast and key slots (R77). -/
def clearTables (t : Tables) : Tables :=
  { tokens := t.tokens, tokensAt := t.tokensAt, sweepStamp := t.sweepStamp, nextSweep := t.nextSweep, ctr := t.ctr }

/-- The egress ports to which a resident frame is bound: by lane entries, egress buffers, or the list of its shaped stream. -/
def boundPorts (s : State) (e : Nat × Frame) : List Nat :=
  let u := e.1
  let lanes := [s.fa, s.fb].flatMap (fun f => (f.lanes.filter (fun l => l.2.any (fun y => y.uid == u))).map (fun l => l.1 / 8 % 72))
  let bufs := (s.ports.filter (fun y => y.2.drill.buf.any (fun c => c.uid == u))).map (·.1)
  let list := if e.2.shaped then (match decOf e.2 (admitFur s e.2) with | some d => portsOf d.egress | none => []) else []
  (lanes ++ bufs ++ list).eraseDups

/-- A resident frame goes: its egress copies, its place on a list, its spill record, its cells. -/
def discardFrame (u : Nat) (s : State) : State :=
  let out := fun (l : List EgCopy) (p : Nat) (s : State) => l.foldl (fun s c => match egCopy s p c.uid c.id with | some y => discardEg p y s | none => s) s
  let s1 := s.ports.foldl (fun s e =>
    let l := e.2.drill.buf.filter (fun c => c.uid == u)
    out (l.filter (fun c => c.state != 2)) e.1 (out (l.filter (fun c => c.state == 2)) e.1 s)) s
  let x := frame s1 u
  let s2 := unqueue u s1
  let s3 := if x.spilled then dropSpilled u s2 else s2
  reap u (dropLate u 1 (dropLate u 0 s3))

/-- Every frame bound to an egress port is discarded, and TX_LINK_DOWN_DISCARDS of each such port counts it once; every port is held down. -/
def discardResident (s0 : State) : State :=
  let bound := (s0.frames.map (fun e => (e.1, boundPorts s0 e))).filter (fun e => !e.2.isEmpty)
  let quiet := { s0 with ports := tmap {} s0.ports (fun x => { x with drill := { x.drill with tx := none, held := none } }) }
  bound.foldl (fun s e => discardFrame e.1 ((e.2.filter (· < 64)).foldl (fun s p => macCtr p 45 1 s) s)) (holdAll quiet)

/-- The device enters CONFIG: FAILED_LOADS is cleared (R514). -/
def enterConfig (s : State) : State := setFailedLoads 0 (setState 3 (modDev (fun d => { d with safeCause := 0 }) s))

/-- RUN or SAFE to CONFIG: the ready channels train. -/
def toConfig (t : Ticket) (prev : Nat) (s : State) : State :=
  let s1 := modDev (fun d => { d with retrain := some (t, prev) }) (enterConfig (discardResident s))
  let m := b2n (chanReady s1.deep.ch0) + 2 * b2n (chanReady s1.deep.ch1)
  match s1.deep.training with
  | some y => startTraining (m ||| y.mask) y.ticket s1
  | none => if m = 0 then s1 else startTraining m none s1

/-- The COMPLETION of a transition to CONFIG, once no training runs. -/
def finishRetrain (s : State) : State :=
  match s.dev.retrain with
  | none => s
  | some (t, prev) => if s.deep.training.isSome then s else complete t stOk (toLE 1 prev ++ zeros 3) (modDev (fun d => { d with retrain := none }) s)

def specSetState : CmdSpec := { opcode := 0x0105, priv := 1, mask := 0xF, lenOk := len 4 }
/-- R77. -/
def bodySetState (p : Packet) (s : State) : CmdResult :=
  let goal := byteAt p.params 0
  let pr := byteAt p.params 1
  let prev := s.dev.state
  let r := toLE 1 prev ++ zeros 3
  checked [(reservedAt p.params 2 2, 2)] <|
  if goal = prev && pr = 0 then .ok r s
  else match goal with
    | 3 =>
      if prev = 3 then .ok r (eachTab clearTables (modDev (fun d => { d with profile := pr }) s))
      else .accepted (toConfig (ticketFor specSetState p) prev s)
    | 4 =>
      if prev = 5 then (if s.nv.burn.isSome || s.imgLoad.isSome || s.deep.training.isSome then .refuse stBusy 0 else .ok r (setState 4 s))
      else .ok r ((List.range (nPorts s)).foldl (fun s p => startDue p s) (setState 4 s))
    | 5 => .ok r (setState 5 s)
    | _ => .ok r (setSafeField 1 (modDev (fun d => { d with safeCause := 1 }) (setState 6 (holdAll s))))

/-- SET_STATE; a transition to CONFIG with no channel to train completes after its first reply. -/
def serveSetState (p : Packet) (s : State) : State :=
  let s1 := serve specSetState checkTransition (unlessRetrain bodySetState) p s
  if s.dev.retrain.isNone then finishRetrain s1 else s1
def execSetState (p : Packet) (s : State) : Host.Outcome State Fault Refusal := .next (serveSetState p s)

/-- DRAM_TRAINING_DONE: which channels trained, with the margins found. What waited for the training goes on: the release, or the transition. -/
def execDramTrainingDone (ok0 ok1 : Bool) (margin0 margin1 : Nat) (s : State) : Host.Outcome State Fault Refusal :=
  if s.clk.coreStopped then .next s else
  match s.deep.training with
  | none => .next s
  | some t =>
    if t.stage = 1 then .next s
    else
      let s1 := trainingDone ok0 ok1 margin0 margin1 s
      .next (if s1.dev.relStep = 7 then finishRelease s1 else finishRetrain s1)

/-! ## CONFIG_DIGEST (R501) -/

/-- The configuration of the MAC and PCS of a port: what R501 lists the commands of. -/
def portSettings (s : State) (p : Nat) : List Nat :=
  let x := port s p
  let c := x.cfg
  let q := x.drill.pre
  let t := ptpPort s p
  [b2n x.link.enabled, c.mode, c.fec, c.bringup, c.stepMask, b2n c.neverFallow, b2n c.pauseRx, b2n c.pauseTx, b2n c.pfcTx, c.maxFrame, c.fallowDelay,
   c.pauseWatchdog, c.pfcRxMask, c.defaultPcp, c.streamDomain, c.mdio, c.gooseClass, c.svClass, c.stepWait, c.pcpMap, c.fecLimit] ++ c.vidRules ++
  (lanesOf s p).flatMap (fun m =>
    let l := lane s m
    [b2n l.fixed, if l.fixed then l.step else 0, l.density, l.pre, l.main, l.post]) ++
  (List.range 4).flatMap (fun i =>
    let f := tget {} x.mac.filter i
    [b2n f.valid, f.addr]) ++
  [b2n q.enable, b2n q.verifyDisable, q.express, q.addFrag, q.verifyTime, t.role, b2n t.oneStep, b2n t.tagged, t.tci, unsigned 32 t.asymmetry, t.delayLimit,
   x.drill.colourMap]

def portDigest (s : State) (p : Nat) : Nat :=
  if nPorts s ≤ p || !(port s p).cfg.configured then 0 else crc32 (Config.portOrder (portSettings s p))

def specConfigDigest : CmdSpec := { opcode := 0x0E05, priv := 0, mask := 0xF, lenOk := len 0 }
/-- R501. -/
def bodyConfigDigest (_ : Packet) (s : State) : CmdResult :=
  .ok (toLE 8 (nowT64 s) ++ toLE 4 (windowDigest s) ++ zeros 4 ++ (List.range 64).flatMap (fun p => toLE 4 (portDigest s p))) s
def execConfigDigest (p : Packet) (s : State) : Host.Outcome State Fault Refusal := serveCmd specConfigDigest bodyConfigDigest p s

/-! ## CP_RELOAD (R65, R83, R517) -/

/-- The reload begins: every session closes, what waits in the front end is discarded (log 42), the servos stop. -/
def startReload (s : State) : State :=
  let s1 := (List.range 4).foldl (fun s k => closeSession k s) (modCp (fun c => { c with waiting := [], closed := [] }) s)
  let s2 := modCp (fun c => { c with running := false, halted := false, reloadAsked := false, reloading := true }) (hdrCount 20 s1)
  ptpRestart (servosStop s2)

def specCpReload : CmdSpec := { opcode := 0x0E06, priv := 2, mask := 0xF, lenOk := len 0 }
/-- Is a command outstanding in the session of a slot (R62), those that wait in the front end apart. -/
def slotBusy (s : State) (k : Nat) : Bool :=
  !((session s k).outstanding.isEmpty && (unwrittenFinal s (sessionId s k) (session s k).endpoint).isEmpty)

/-- R83 while the command processor runs. An OPEN_SESSION that waits is outstanding in no session (R62). The DETAIL of this BUSY is 0, as for a resource
in use: R59 names neither of its two causes for it (DESIGN CHOICE, log 72). -/
def bodyCpReload (_ : Packet) (s : State) : CmdResult :=
  if (List.range 4).any (slotBusy s) || s.cp.waiting.any (fun q => q.opcode != 0x0101 && versionHeld s q) then .refuse stBusy 0
  else .ok [] (modCp (fun c => { c with reloadAsked := true }) s)

/-- Is a packet the OK of CP_RELOAD. -/
def reloadsCp (b : List Byte) : Bool := le b 4 2 == 0x0E06 && le b 12 2 == stOk

/-- Is a reload asked for, with its OK written or discarded (R83). -/
def reloadDue (s : State) : Bool :=
  s.cp.reloadAsked && !(s.rings.any (fun r => r.2.held.any reloadsCp) || s.spi.inband.any (fun r => reloadsCp r.packet) || s.spi.held.any reloadsCp)

/-- The reload starts at once where the transport has taken the OK, else on an idle step after it does. -/
def reloadWhenDue (s : State) : State := if reloadDue s then startReload s else s

/-- CP_RELOAD: a halted command processor's front end answers it itself, after checks 1 to 7. -/
def serveReload (p : Packet) (s : State) : State :=
  if serving s && s.cp.halted && !s.cp.reloadAsked then
    let q := { p with opcode := specCpReload.opcode }
    let s1 := touchSession q s
    match frontCheck specCpReload q s1 with
    | some (st, d) => respond (ticketFor specCpReload q) 0x80 st d [] s1
    | none => reloadWhenDue (respond (ticketFor specCpReload q) 0x80 stOk 0 [] (modCp (fun c => { c with reloadAsked := true }) s1))
  else reloadWhenDue (serve specCpReload (check8 specCpReload) bodyCpReload p s)
def execCpReload (p : Packet) (s : State) : Host.Outcome State Fault Refusal := .next (serveReload p s)

/-- CP_RELOAD_DONE: what the flash holds at each image's offset; the transports serve again. -/
def execCpReloadDone (img0 img1 : Option (List (BitVec 8))) (s : State) : Host.Outcome State Fault Refusal :=
  if s.clk.coreStopped then .next s else
  if !s.cp.reloading then .next s
  else .next (bootEvent 3 4 (modCp (fun c => { c with reloading := false }) (startImage img0 img1 s)))

end Sys2Proof.Machine
end

