-- ==== Sys2Proof/Machine/Journal.lean ====
section
/-! DEFINITION. The journal ring, interrupt holdoffs and GPIO capture (spec/12 R420-R436). -/

namespace Sys2Proof.Machine

/-- JOURNAL_RECORD_WRITE (R424, R426, R427): the oldest staged record goes to the ring once it has room and the link is up. -/
def journalWrite (s : State) : State :=
  if !s.jr.enable || !s.pcie.up then s
  else match s.jr.staged with
    | [] => s
    | r :: rest =>
      if jFull s then s
      else
        let i := s.jr.producer
        let was := jUnread s
        let s1 := emitOut (.hostWrite (s.jr.base + 32 * i) (jBytes r))
          { s with jr := { s.jr with staged := rest, producer := (i + 1) % jSize s, writtenAt := tput s.jr.writtenAt i s.clk.edges } }
        let s2 := if was = 0 then { s1 with jr := { s1.jr with oldestSince := s.clk.edges, signalledOldest := false } } else s1
        let s3 :=
          if s2.jr.wmArmed && s2.jr.watermark ≤ jUnread s2 then
            signalVec s2.jr.vector { s2 with jr := { s2.jr with wmArmed := false, signalledOldest := true } }
          else s2
        settleLoss s3

def execJournalRecordWrite (s : State) : Host.Outcome State Fault Refusal :=
  if s.clk.coreStopped then .next s else
  .next (journalWrite s)

/-- JOURNAL_HOLDOFF_EXPIRY (R427). -/
def execJournalHoldoffExpiry (s : State) : Host.Outcome State Fault Refusal :=
  if s.clk.coreStopped then .next s else
  .next (if s.jr.enable && jUnread s != 0 && !s.jr.signalledOldest then
           journalHoldoff (reachEdge (s.jr.oldestSince + s.jr.holdoff * usE) s)
         else s)

/-- VECTOR_HOLDOFF_EXPIRY (R429): the pending signal of vector v is sent when its holdoff ends. -/
def execVectorHoldoffExpiry (v : Nat) (s : State) : Host.Outcome State Fault Refusal :=
  if s.clk.coreStopped then .next s else
  .next (if bit s.ev.vecPend v then
           let s1 := reachEdge (vecFreeAt s v) s
           signalVec v { s1 with ev := { s1.ev with vecPend := setBit s1.ev.vecPend v false } }
         else s)

/-! ## Commands -/

def specJournalSet : CmdSpec := { opcode := 0x0B06, priv := 1, mask := 0xF, lenOk := len 24 }

/-- R435. -/
def bodyJournalSet (p : Packet) (s : State) : CmdResult :=
  let b := p.params
  let base := le b 0 8
  let sz := byteAt b 8
  let en := bit (byteAt b 9) 0
  let vec := byteAt b 10
  let wm := le b 12 4
  checked [(base % 64 == 0, 0), (10 ≤ sz && sz ≤ 20, 8), (byteAt b 9 < 2, 9), (vec < 64 || vec == 0xFF, 10), (reservedAt b 11 1, 11),
    (1 ≤ wm && wm ≤ 2 ^ sz - 1, 12), (le b 16 4 ≤ 100000, 16), (reservedAt b 20 4, 20)] <|
  if s.jr.enable && (base != s.jr.base || sz != s.jr.sizeLog2) then .conflict
  else
    let j := { s.jr with base := base, sizeLog2 := sz, vector := vec, watermark := wm, holdoff := le b 16 4 }
    if en && !s.jr.enable then
      .ok [] { s with jr := { j with enable := true, producer := 0, consumer := 0, sequence := 0, staged := [], loss := none,
                                     writtenAt := [], wmArmed := true, signalledOldest := false, oldestSince := s.clk.edges } }
    else if !en then
      .ok [] { s with jr := { j with enable := false, producer := 0, consumer := 0, staged := [], loss := none } }
    else .ok [] { s with jr := { j with wmArmed := s.jr.wmArmed || decide (jUnread s < wm) } }

def execJournalSet (p : Packet) (s : State) : Host.Outcome State Fault Refusal := serveCmd specJournalSet bodyJournalSet p s

def specEventRouteSet : CmdSpec := { opcode := 0x0B07, priv := 1, mask := 0xF, lenOk := lenForms 0 [(0, len 12), (1, len 12), (2, len 12)] }

/-- R436. -/
def bodyEventRouteSet (p : Packet) (s : State) : CmdResult :=
  let b := p.params
  let op := byteAt b 0
  let first := le b 2 2
  let count := le b 4 2
  let rt := le b 6 2
  checked [(op ≤ 2, 0), (reservedAt b 1 1, 1), (if op = 1 then first < 64 else first < 1024, 2),
    (op == 1 || (1 ≤ count && count ≤ 1024 && first + count ≤ 1024), 4),
    (op != 0 || (bits rt 13 8 == 0 && (rt % 256 < 64 || rt % 256 == 0xFF)), 6),
    (op != 1 || le b 8 4 ≤ 1000, 8)] <|
  match op with
  | 0 =>
    .ok [] { s with ev := { s.ev with
      route := (List.range count).foldl (fun t i => tset 0x80FF t (first + i) rt) s.ev.route } }
  | 1 => .ok [] { s with ev := { s.ev with holdoff := tset 0 s.ev.holdoff first (le b 8 4) } }
  | _ => .ok ((List.range count).flatMap (fun i => toLE 2 (route s (first + i))) ++ (if count % 2 = 1 then zeros 2 else [])) s

def execEventRouteSet (p : Packet) (s : State) : Host.Outcome State Fault Refusal := serveCmd specEventRouteSet bodyEventRouteSet p s

end Sys2Proof.Machine
end

