-- ==== Sys2Proof/Machine/Service.lean ====
section
/-! DEFINITION. The command processor's choice among waiting packets, and what an edge without a command does (spec/02 R57, R61, R63, R75). -/

namespace Sys2Proof.Machine

/-! ## The opcode index (R81): opcode and meaning, by group -/

def group01 : List (Nat × (Packet → State → Host.Outcome State Fault Refusal)) :=
  [(0x0101, execOpenSession), (0x0102, execCloseSession), (0x0103, execGetIdentity),
   (0x0104, execGetState), (0x0105, execSetState), (0x0106, execEcho)]
def group02 : List (Nat × (Packet → State → Host.Outcome State Fault Refusal)) :=
  [(0x0201, execPortConfigure), (0x0202, execPortEnable), (0x0203, execPortStatus),
   (0x0204, execLaneTune), (0x0205, execLaneEye), (0x0206, execMacFilterSet),
   (0x0207, execMacStatsRead)]
def group03 : List (Nat × (Packet → State → Host.Outcome State Fault Refusal)) :=
  [(0x0301, execXcvrRead), (0x0302, execXcvrLedgerRead), (0x0303, execXcvrLedgerWrite),
   (0x0304, execXcvrRetire)]
def group04 : List (Nat × (Packet → State → Host.Outcome State Fault Refusal)) :=
  [(0x0401, execHarrowStageLoad), (0x0402, execHarrowBankSwap), (0x0403, execHarrowPatternLoad),
   (0x0404, execFragmentTableRead)]
def group05 : List (Nat × (Packet → State → Host.Outcome State Fault Refusal)) :=
  [(0x0501, execAddrAdd), (0x0502, execAddrDelete), (0x0503, execAddrLookup),
   (0x0504, execAddrFlush), (0x0505, execAgeingSet), (0x0506, execShadowSet),
   (0x0507, execShadowStatus), (0x0508, execMgroupSet)]
def group06 : List (Nat × (Packet → State → Host.Outcome State Fault Refusal)) :=
  [(0x0601, execStreamBind), (0x0602, execStreamUnbind), (0x0603, execStreamRead),
   (0x0604, execStreamSupervise), (0x0605, execKeySlotWrite)]
def group07 : List (Nat × (Packet → State → Host.Outcome State Fault Refusal)) :=
  [(0x0701, execTineImageLoad), (0x0702, execTineImageActivate), (0x0703, execTineSampleSet),
   (0x0704, execBedStatus)]
def group08 : List (Nat × (Packet → State → Host.Outcome State Fault Refusal)) :=
  [(0x0801, execPoolSet), (0x0802, execPoolRead), (0x0803, execQueueRead),
   (0x0804, execResidenceLimitSet), (0x0805, execDeepStoreSet)]
def group09 : List (Nat × (Packet → State → Host.Outcome State Fault Refusal)) :=
  [(0x0901, execDrillSet), (0x0902, execShaperSet), (0x0903, execMeterSet),
   (0x0904, execGateListSet), (0x0905, execPreemptSet)]
def group0A : List (Nat × (Packet → State → Host.Outcome State Fault Refusal)) :=
  [(0x0A01, execFurrowStatus), (0x0A02, execHeadlandPolicySet), (0x0A03, execHeadlandTurn),
   (0x0A04, execFurrowRestart), (0x0A05, execPrpPairSet), (0x0A06, execHsrRingSet),
   (0x0A07, execFrerSet), (0x0A08, execWinnowRead)]
def group0B : List (Nat × (Packet → State → Host.Outcome State Fault Refusal)) :=
  [(0x0B01, execClockConfigure), (0x0B02, execClockStatus), (0x0B03, execPtpPortSet),
   (0x0B04, execIrigSet), (0x0B05, execGpioCaptureSet), (0x0B06, execJournalSet),
   (0x0B07, execEventRouteSet)]
def group0C : List (Nat × (Packet → State → Host.Outcome State Fault Refusal)) :=
  [(0x0C01, execGleanerSet), (0x0C02, execGleanerTrigger), (0x0C03, execMirrorSet),
   (0x0C04, execStookSet), (0x0C05, execCounterSelect), (0x0C06, execStookNow)]
def group0D : List (Nat × (Packet → State → Host.Outcome State Fault Refusal)) :=
  [(0x0D01, execDramConfigure), (0x0D02, execDramTrain), (0x0D03, execDramStatus),
   (0x0D04, execDramMapSet)]
def group0E : List (Nat × (Packet → State → Host.Outcome State Fault Refusal)) :=
  [(0x0E01, execOptionRead), (0x0E02, execOptionBurn), (0x0E03, execRetainedRead),
   (0x0E04, execRetainedWrite), (0x0E05, execConfigDigest), (0x0E06, execCpReload),
   (0x0E07, execThermalStatus)]

def opcodeIndex : List (Nat × (Packet → State → Host.Outcome State Fault Refusal)) :=
  group01 ++ group02 ++ group03 ++ group04 ++ group05 ++ group06 ++ group07 ++ group08 ++ group09 ++ group0A ++ group0B ++ group0C ++ group0D ++ group0E

/-- The next state of an outcome; a state of its own where there is none. -/
def nextOf (s : State) : Host.Outcome State Fault Refusal → State
  | .next t => t
  | _ => s

/-- Check 5: an opcode outside the index, after checks 2 to 4 (R61). -/
def unknownOpcode (p : Packet) (s : State) : State :=
  let c : CmdSpec := { opcode := p.opcode, priv := 0, mask := 0, lenOk := fun _ => true }
  frontEnd c p s (respond (ticketFor c p) 0x80 stBadOpcode 0 [])

/-- A packet of any opcode arrives at the front end (R61). -/
def arrive (p : Packet) (s : State) : State :=
  match opcodeIndex.find? (fun e => e.1 == p.opcode) with
  | some (_, run) => nextOf s (run p s)
  | none => unknownOpcode p s

/-! ## Waiting packets (R63) -/

/-- Remove the first equal packet. -/
def dropFirst (p : Packet) : List Packet → List Packet
  | [] => []
  | q :: r => if q = p then r else q :: dropFirst p r

/-- A packet whose session has closed since runs to completion without a reply (R75): for its run the slot holds the session as it closed, on an
endpoint that takes no reply. A CP_RELOAD finds the commands outstanding in the session that has the slot now, and closes it too (R83). -/
def runClosed (p : Packet) (s : State) : State :=
  let k := p.session % 4
  let x := session s k
  if p.opcode = 0x0E06 && slotBusy s k then endLoad p.session s
  else
    let own : Session := { tget {} s.cp.closed p.session with isOpen := true, gen := p.session / 4, endpoint := .ring 99 }
    let s1 := arrive { p with src := .ring 99 } (modSession k (fun _ => own) s)
    let done := session s1 k
    let s2 := modSession k (fun _ => x) s1
    if s1.cp.reloading && !s.cp.reloading then closeSession k s2
    else if anyWaits p.session s2 then modCp (fun c => { c with closed := tput c.closed p.session done }) s2
    else endLoad p.session (modCp (fun c => { c with closed := tdel c.closed p.session }) s2)

/-- A waiting packet runs. Its session's idle time does not start anew, and the packets behind it keep their places. -/
def runWaiting (p : Packet) (s : State) : State :=
  let s1 := modCp (fun c => { c with waiting := dropFirst p c.waiting, lastSlot := turnOf p, inTurn := true }) s
  let s2 :=
    if turnOf p = 4 then arrive p s1
    else if sessionOpen s p.session p.src then
      let last := (session s (p.session % 4)).lastPacket
      let t := arrive p s1
      if sessionOpen t p.session p.src then modSession (p.session % 4) (fun x => { x with lastPacket := last }) t else t
    else runClosed p s1
  modCp (fun c => { c with inTurn := false }) s2

/-- What a step does with no command pending: a reload whose OK is written starts, or a reply to an in-band command goes into its frame, or a finding
leaves its FIFO for the journal, or the command processor serves a packet that waits, else one edge of 0.8 ns passes (log 1, log 36). -/
def idle (s : State) : State :=
  if reloadDue s then startReload s
  else if !s.spi.inband.isEmpty && coreLive s then settleClosings (sendInband s)
  else if (findingBed s).isSome && coreLive s then findingToJournal ((findingBed s).getD 0) s
  else match (if cpTakes s && serving s then nextPacket s else none) with
  | some p => runWaiting p s
  | none => syncDram 1 (syncDram 0 (advance 1 s))

end Sys2Proof.Machine
end

