-- ==== Sys2Proof/Machine/Transports.lean ====
section
/-! DEFINITION. The transports: PCIe command rings, the SPI target, in-band frames, and the end of a received frame (spec/02 R55, R60, R61, R84-R93;
spec/03 R115, R119). upset and ext are what the outside supplies to the command that a packet carries (Packet). -/

namespace Sys2Proof.Machine

/-! ## Check 1 and the packet (R55, R61) -/

/-- A packet that fails check 1: no reply, a transport fault, 0x3C2. -/
def transportFault (s : State) : State := fire 0x3C2 0 [] (modCp (fun c => { c with transportFaults := c.transportFaults + 1 }) s)

/-- The header and the parameter bytes of a packet. -/
def packetOf (src : Endpoint) (b params : List Byte) (trailer : Nat) (vlan : Option Nat) (upset : Bool) (ext : Option (List Byte)) : Packet :=
  { src := src, verMajor := byteAt b 1, verMinor := byteAt b 2, flags := byteAt b 3, opcode := le b 4 2, tag := le b 6 2, session := byteAt b 8, paramLen := le b 9 2
    reserved := le b 11 5, params := params, trailer := trailer, vlan := vlan, upset := upset, ext := ext }

/-! ## PCIe command rings (R84-R88) -/

/-- The reply to a descriptor whose length is wrong. -/
def badDescriptorReply (s : State) : List Byte := toLE 1 0x5A ++ zeros 2 ++ toLE 1 0x80 ++ zeros 7 ++ toLE 1 s.dev.state ++ toLE 2 stBadLength ++ zeros 2

/-- RING_DESCRIPTOR_FETCH: the descriptor at the head of ring pair k and its packet, as the host's memory returns them; none for a PCIe error. The
device reads while the ring is enabled, a doorbell covers the slot, and a posted reply buffer is free. -/
def ringFetch (k : Nat) (desc packet : Option (List Byte)) (upset : Bool) (ext : Option (List Byte)) (s : State) : State :=
  let r := ring s k
  if !serving s || !windowUp s || !r.enable || r.cmdHead = r.cmdTail || r.rplHead = r.rplTail || !r.held.isEmpty then s
  else
    let taken := modRing k (fun r => { r with cmdHead := (r.cmdHead + 1) % max 1 r.cmdSize.toNat })
    let broken := ringFault k 3 4 (ringDisable k s)
    match desc with
    | none => broken
    | some d =>
      let n := le d 8 2
      if n < 16 || 4096 < n || n % 4 != 0 then sendPacket (.ring k) none (badDescriptorReply s) (ringFault k 2 3 (taken s))
      else match packet with
        | none => broken
        | some b0 =>
          let b := slice b0 0 n
          if byteAt b 0 != 0x5A then transportFault (taken s)
          else arrive (packetOf (.ring k) b (b.drop 16) 0 none upset ext) (taken s)
def execRingDescriptorFetch (k : Nat) (desc packet : Option (List (BitVec 8))) (upset : Bool) (ext : Option (List (BitVec 8))) (s : State) :
    Host.Outcome State Fault Refusal := .next (ringFetch (k % 4) desc packet upset ext s)

/-! ## SPI (R92, R93) -/

/-- SPI_WRITE: the bytes after the command byte, trailer last. Fewer than 20 hold no header and trailer, and fail as a bad trailer does (DESIGN CHOICE,
log 84). -/
def spiWrite (b : List Byte) (upset : Bool) (ext : Option (List Byte)) (s : State) : State :=
  if !serving s then s
  else if !spiReady s then { modCp (fun c => { c with transportFaults := c.transportFaults + 1 }) s with spi := { s.spi with overrun := true } }
  else
    let m := b.take (b.length - 4)
    let tr := le b (b.length - 4) 4
    if b.length < 20 || crc32 m != tr then let t := transportFault s; { t with spi := { t.spi with crcErr := true } }
    else if byteAt b 0 != 0x5A then transportFault s
    else arrive (packetOf .spi m (m.drop 16) tr none upset ext) s
def execSpiWrite (bytes : List (BitVec 8)) (upset : Bool) (ext : Option (List (BitVec 8))) (s : State) : Host.Outcome State Fault Refusal :=
  .next (spiWrite bytes upset ext s)

/-! ## In-band frames (R89-R91) -/

/-- The payload of an in-band frame at port p: frame bytes b, FCS last. A frame too short for its parameters and trailer fails check 4. -/
def inbandFrame (p : Nat) (b : List Byte) (upset : Bool) (ext : Option (List Byte)) (s : State) : State :=
  let tagged := be b 12 2 == 0x8100
  let o := if tagged then 18 else 14
  let m := (b.take (b.length - 4)).drop o
  let n := 16 + le m 9 2
  let tr := le m n 4
  let src : Endpoint := .inband p (be b 6 6)
  let vlan := if tagged then some (be b 14 2) else none
  if !serving s then s
  else if m.length < n + 4 then (if byteAt m 0 != 0x5A then transportFault s else arrive (packetOf src m [] 0 vlan upset ext) s)
  else if byteAt m 0 != 0x5A || crc32 (m.take n) != tr then transportFault s
  else arrive (packetOf src m (slice m 16 (n - 16)) tr vlan upset ext) s

/-! ## RX_FRAME_END (R109, R112, R113, R119, R346) -/

/-- The frame in reception at Pp ends; bad: its fragments did not reassemble, which only a port with ENABLE set finds (R345). What is the device's own is
taken. -/
def rxFrameEnd (p : Nat) (bad_ upset : Bool) (ext : Option (List Byte)) (s0 : State) : State :=
  match (port s0 p).mac.rx with
  | none => s0
  | some u =>
    let bad := bad_ && (port s0 p).drill.pre.enable
    let x := frame s0 u
    let b := effBytes x
    let s := reachEdge (byteEdge x b.length) s0
    let s1 := rxEnd p u bad (if bad then dctr 17 p s else s)
    let good := !bad && x.rxCut.isNone && fcsGood b && 64 ≤ b.length && b.length ≤ x.limit && !x.refused
    if !good then s1
    else match x.own with
      | 1 => inbandFrame p b upset ext s1
      | 2 => if s1.cp.running then modTim (fun t => { t with ptpRx := t.ptpRx ++ [(p, 4 * x.ns + x.qns, b)] }) s1 else ptpLose 1 s1
      | _ => s1
def execRxFrameEnd (p : Nat) (bad upset : Bool) (ext : Option (List (BitVec 8))) (s : State) : Host.Outcome State Fault Refusal :=
  if s.clk.coreStopped then .next s else
  .next (rxFrameEnd p bad upset ext s)

end Sys2Proof.Machine
end

