-- ==== Sys2Proof/Machine/Dispatch.lean ====
section
/-! DEFINITION. The dispatch of a command to its meaning: one arm per row of spec/opcode_table.json. -/

namespace Sys2Proof.Machine

/-- What a command does to everything but the queue. -/
def exec (i : Instr) (s : State) : Host.Outcome State Fault Refusal :=
  match i with
  | .powerOnDetect lost copies part => Sys2Proof.Machine.execPowerOnDetect lost copies part s
  | .resetNAssert ns copies part => Sys2Proof.Machine.execResetNAssert ns copies part s
  | .fallowRelease xtal bypass test bad => Sys2Proof.Machine.execFallowRelease xtal bypass test bad s
  | .headlandRelease => Sys2Proof.Machine.execHeadlandRelease s
  | .optionLoad => Sys2Proof.Machine.execOptionLoad s
  | .cpBootStart => Sys2Proof.Machine.execCpBootStart s
  | .firmwareAuthenticated img0 img1 => Sys2Proof.Machine.execFirmwareAuthenticated img0 img1 s
  | .furrowDomainRelease aRail aLocked bRail bLocked => Sys2Proof.Machine.execFurrowDomainRelease aRail aLocked bRail bLocked s
  | .portDomainRelease => Sys2Proof.Machine.execPortDomainRelease s
  | .releasePllTimeout => Sys2Proof.Machine.execReleasePllTimeout s
  | .xtalFalStop => Sys2Proof.Machine.execXtalFalStop s
  | .pllShLockLoss => Sys2Proof.Machine.execPllShLockLoss s
  | .furrowPllLockLoss f => Sys2Proof.Machine.execFurrowPllLockLoss f s
  | .headlandPllLoss => Sys2Proof.Machine.execHeadlandPllLoss s
  | .railMonitor f => Sys2Proof.Machine.execRailMonitor f s
  | .supplyOverRange rail => Sys2Proof.Machine.execSupplyOverRange rail s
  | .vbakLow => Sys2Proof.Machine.execVbakLow s
  | .furrowRailLoss f => Sys2Proof.Machine.execFurrowRailLoss f s
  | .thermalSensorUpdate temps rails => Sys2Proof.Machine.execThermalSensorUpdate temps rails s
  | .pcieLinkUp enable mask => Sys2Proof.Machine.execPcieLinkUp enable mask s
  | .pcieLinkDown => Sys2Proof.Machine.execPcieLinkDown s
  | .pciePerst => Sys2Proof.Machine.execPciePerst s
  | .sliceClockStart slice => Sys2Proof.Machine.execSliceClockStart slice s
  | .sliceFallowExpiry clock => Sys2Proof.Machine.execSliceFallowExpiry clock s
  | .bedWake bed => Sys2Proof.Machine.execBedWake bed s
  | .furrowCoreWakeForTimer f => Sys2Proof.Machine.execFurrowCoreWakeForTimer f s
  | .scrubRead mem loc kind errors => Sys2Proof.Machine.execScrubRead mem loc kind errors s
  | .startOfFrame p bytes => Sys2Proof.Machine.execStartOfFrame p bytes s
  | .rxFrameEnd p bad upset ext => Sys2Proof.Machine.execRxFrameEnd p bad upset ext s
  | .oversizeDetect p => Sys2Proof.Machine.execOversizeDetect p s
  | .pauseTimerExpiry p cls => Sys2Proof.Machine.execPauseTimerExpiry p cls s
  | .pauseWatchdogExpiry p cls => Sys2Proof.Machine.execPauseWatchdogExpiry p cls s
  | .pauseIgnoreEnd p cls => Sys2Proof.Machine.execPauseIgnoreEnd p cls s
  | .linkDown p rx phy h => Sys2Proof.Machine.execLinkDown p rx phy h s
  | .linkUp p g => Sys2Proof.Machine.execLinkUp p g s
  | .retrain m errors => Sys2Proof.Machine.execRetrain m errors s
  | .adaptationFreeze m transitions => Sys2Proof.Machine.execAdaptationFreeze m transitions s
  | .adaptationResume m r => Sys2Proof.Machine.execAdaptationResume m r s
  | .fecDegradeWindow p corrected uncorrectable symbols => Sys2Proof.Machine.execFecDegradeWindow p corrected uncorrectable symbols s
  | .phyPoll p status => Sys2Proof.Machine.execPhyPoll p status s
  | .bringupStart p => Sys2Proof.Machine.execBringupStart p s
  | .autonegComplete p np code mask => Sys2Proof.Machine.execAutonegComplete p np code mask s
  | .stepWaitExpiry p => Sys2Proof.Machine.execStepWaitExpiry p s
  | .stepFailTimeout p => Sys2Proof.Machine.execStepFailTimeout p s
  | .bringupRestart p => Sys2Proof.Machine.execBringupRestart p s
  | .i2cBusRecovery k ok => Sys2Proof.Machine.execI2cBusRecovery k ok s
  | .i2cRecoveryRetry k ok => Sys2Proof.Machine.execI2cRecoveryRetry k ok s
  | .modulePoll m ident mux => Sys2Proof.Machine.execModulePoll m ident mux s
  | .moduleDataReady m cleared identity external slots => Sys2Proof.Machine.execModuleDataReady m cleared identity external slots s
  | .ddmSample m temp r alarms => Sys2Proof.Machine.execDdmSample m temp r alarms s
  | .ledgerDailyWrite m => Sys2Proof.Machine.execLedgerDailyWrite m s
  | .ledgerWriteDone m back => Sys2Proof.Machine.execLedgerWriteDone m back s
  | .harrowDecision f uid upset => Sys2Proof.Machine.execHarrowDecision f uid upset s
  | .harrowFrameEnd f uid => Sys2Proof.Machine.execHarrowFrameEnd f uid s
  | .fragmentSweep f => Sys2Proof.Machine.execFragmentSweep f s
  | .bankFlip => Sys2Proof.Machine.execBankFlip s
  | .bankSwapComplete => Sys2Proof.Machine.execBankSwapComplete s
  | .learnInsert t => Sys2Proof.Machine.execLearnInsert t s
  | .ageingSweep t => Sys2Proof.Machine.execAgeingSweep t s
  | .stagingRecordRetire => Sys2Proof.Machine.execStagingRecordRetire s
  | .shadowCompareUnit t ok data => Sys2Proof.Machine.execShadowCompareUnit t ok data s
  | .activationStart bed => Sys2Proof.Machine.execActivationStart bed s
  | .recordFetchDone bed_ bad => Sys2Proof.Machine.execRecordFetchDone bed_ bad s
  | .aluR bed tine => Sys2Proof.Machine.execAluR bed tine s
  | .addi bed tine => Sys2Proof.Machine.execAddi bed tine s
  | .andiOriXori bed tine => Sys2Proof.Machine.execAndiOriXori bed tine s
  | .sltiSltiu bed tine => Sys2Proof.Machine.execSltiSltiu bed tine s
  | .slliSrliSrai bed tine => Sys2Proof.Machine.execSlliSrliSrai bed tine s
  | .lui bed tine => Sys2Proof.Machine.execLui bed tine s
  | .branch bed tine => Sys2Proof.Machine.execBranch bed tine s
  | .jal bed tine => Sys2Proof.Machine.execJal bed tine s
  | .jalr bed tine => Sys2Proof.Machine.execJalr bed tine s
  | .load bed tine => Sys2Proof.Machine.execLoad bed tine s
  | .store bed tine => Sys2Proof.Machine.execStore bed tine s
  | .cld bed tine => Sys2Proof.Machine.execCld bed tine s
  | .pld bed tine => Sys2Proof.Machine.execPld bed tine s
  | .wsel bed tine => Sys2Proof.Machine.execWsel bed tine s
  | .wld bed tine => Sys2Proof.Machine.execWld bed tine s
  | .bers bed tine => Sys2Proof.Machine.execBers bed tine s
  | .crc bed tine => Sys2Proof.Machine.execCrc bed tine s
  | .hash bed tine => Sys2Proof.Machine.execHash bed tine s
  | .sld bed tine => Sys2Proof.Machine.execSld bed tine s
  | .sst bed tine => Sys2Proof.Machine.execSst bed tine s
  | .srel bed tine => Sys2Proof.Machine.execSrel bed tine s
  | .hst bed tine => Sys2Proof.Machine.execHst bed tine s
  | .trd bed tine => Sys2Proof.Machine.execTrd bed tine s
  | .tmset bed tine => Sys2Proof.Machine.execTmset bed tine s
  | .akey bed tine => Sys2Proof.Machine.execAkey bed tine s
  | .auth bed tine => Sys2Proof.Machine.execAuth bed tine s
  | .authUnitDone bed tine => Sys2Proof.Machine.execAuthUnitDone bed tine s
  | .emit bed tine => Sys2Proof.Machine.execEmit bed tine s
  | .vrd bed tine => Sys2Proof.Machine.execVrd bed tine s
  | .illegalInstruction bed tine => Sys2Proof.Machine.execIllegalInstruction bed tine s
  | .budgetExceeded bed tine => Sys2Proof.Machine.execBudgetExceeded bed tine s
  | .verdictRelease bed inl => Sys2Proof.Machine.execVerdictRelease bed inl s
  | .bedLockup bed_ stuck => Sys2Proof.Machine.execBedLockup bed_ stuck s
  | .deadlineFire bed_ => Sys2Proof.Machine.execDeadlineFire bed_ s
  | .timerQueueRetry bed_ => Sys2Proof.Machine.execTimerQueueRetry bed_ s
  | .imageActivationComplete bed_ => Sys2Proof.Machine.execImageActivationComplete bed_ s
  | .tineImageVerified => Sys2Proof.Machine.execTineImageVerified s
  | .cellRequest h d0 d1 => Sys2Proof.Machine.execCellRequest h d0 d1 s
  | .rebuildScanComplete h bad => Sys2Proof.Machine.execRebuildScanComplete h bad s
  | .granaryAdmit uid bad => Sys2Proof.Machine.execGranaryAdmit uid bad s
  | .copyComplete uid half => Sys2Proof.Machine.execCopyComplete uid half s
  | .spillWrite uid poison => Sys2Proof.Machine.execSpillWrite uid poison s
  | .refillRequest f inp out cls => Sys2Proof.Machine.execRefillRequest f inp out cls s
  | .refillRetry => Sys2Proof.Machine.execRefillRetry s
  | .residenceCheck f inp out cls => Sys2Proof.Machine.execResidenceCheck f inp out cls s
  | .crossbarMatch f bad => Sys2Proof.Machine.execCrossbarMatch f bad s
  | .crossbarParityError f uids => Sys2Proof.Machine.execCrossbarParityError f uids s
  | .egressUnderrun p => Sys2Proof.Machine.execEgressUnderrun p s
  | .headerTransfer f uid => Sys2Proof.Machine.execHeaderTransfer f uid s
  | .headerTransferTimeout f uid => Sys2Proof.Machine.execHeaderTransferTimeout f uid s
  | .tc7WaitTimeout f inp out => Sys2Proof.Machine.execTc7WaitTimeout f inp out s
  | .winnowArrival p upset => Sys2Proof.Machine.execWinnowArrival p upset s
  | .drillStartOpportunity p => Sys2Proof.Machine.execDrillStartOpportunity p s
  | .txFrameEnd p => Sys2Proof.Machine.execTxFrameEnd p s
  | .streamShaperRelease handle => Sys2Proof.Machine.execStreamShaperRelease handle s
  | .gateTransition p => Sys2Proof.Machine.execGateTransition p s
  | .gateListTakeover p => Sys2Proof.Machine.execGateListTakeover p s
  | .verifyTimer p => Sys2Proof.Machine.execVerifyTimer p s
  | .verifyRespondRx p => Sys2Proof.Machine.execVerifyRespondRx p s
  | .twinSweep => Sys2Proof.Machine.execTwinSweep s
  | .nodeForget => Sys2Proof.Machine.execNodeForget s
  | .turnFilterExpiry p => Sys2Proof.Machine.execTurnFilterExpiry p s
  | .frerRecoveryTimeout handle p => Sys2Proof.Machine.execFrerRecoveryTimeout handle p s
  | .latentErrorTest handle p => Sys2Proof.Machine.execLatentErrorTest handle p s
  | .digestClose f ns => Sys2Proof.Machine.execDigestClose f ns s
  | .digestCompare => Sys2Proof.Machine.execDigestCompare s
  | .digestMissTimeout f => Sys2Proof.Machine.execDigestMissTimeout f s
  | .headlandAlarm => Sys2Proof.Machine.execHeadlandAlarm s
  | .arbRuling bytes => Sys2Proof.Machine.execArbRuling bytes s
  | .arbStatusIn bytes => Sys2Proof.Machine.execArbStatusIn bytes s
  | .arbRulingTimeout => Sys2Proof.Machine.execArbRulingTimeout s
  | .arbLinkDown => Sys2Proof.Machine.execArbLinkDown s
  | .arbStatusOut => Sys2Proof.Machine.execArbStatusOut s
  | .turnStart => Sys2Proof.Machine.execTurnStart s
  | .turnEnd => Sys2Proof.Machine.execTurnEnd s
  | .laneFlushComplete f => Sys2Proof.Machine.execLaneFlushComplete f s
  | .restartCopyDone => Sys2Proof.Machine.execRestartCopyDone s
  | .restartAdmission => Sys2Proof.Machine.execRestartAdmission s
  | .restartFailTimeout => Sys2Proof.Machine.execRestartFailTimeout s
  | .timeCorrection => Sys2Proof.Machine.execTimeCorrection s
  | .replicaCompare f drift => Sys2Proof.Machine.execReplicaCompare f drift s
  | .referenceLoss => Sys2Proof.Machine.execReferenceLoss s
  | .holdoverExpiry => Sys2Proof.Machine.execHoldoverExpiry s
  | .holdoverExtMeasure deviation => Sys2Proof.Machine.execHoldoverExtMeasure deviation s
  | .ppsInEdge => Sys2Proof.Machine.execPpsInEdge s
  | .todRxMessage bytes => Sys2Proof.Machine.execTodRxMessage bytes s
  | .todTxMessage => Sys2Proof.Machine.execTodTxMessage s
  | .clk10mPresence present => Sys2Proof.Machine.execClk10mPresence present s
  | .ptpMessageRx => Sys2Proof.Machine.execPtpMessageRx s
  | .ptpMessageTx p kind => Sys2Proof.Machine.execPtpMessageTx p kind s
  | .announceReceiptTimeout p => Sys2Proof.Machine.execAnnounceReceiptTimeout p s
  | .stampFifoRead p => Sys2Proof.Machine.execStampFifoRead p s
  | .irigFrame pulses age => Sys2Proof.Machine.execIrigFrame pulses age s
  | .ppsOutEdge n => Sys2Proof.Machine.execPpsOutEdge n s
  | .leapApply => Sys2Proof.Machine.execLeapApply s
  | .gpioEdgeAccept n => Sys2Proof.Machine.execGpioEdgeAccept n s
  | .gpioChatterQuiet n => Sys2Proof.Machine.execGpioChatterQuiet n s
  | .journalRecordWrite => Sys2Proof.Machine.execJournalRecordWrite s
  | .journalHoldoffExpiry => Sys2Proof.Machine.execJournalHoldoffExpiry s
  | .vectorHoldoffExpiry v => Sys2Proof.Machine.execVectorHoldoffExpiry v s
  | .gleanerTransferArrival => Sys2Proof.Machine.execGleanerTransferArrival s
  | .gleanerPairTimeout seq => Sys2Proof.Machine.execGleanerPairTimeout seq s
  | .gleanerRecordRelease seq => Sys2Proof.Machine.execGleanerRecordRelease seq s
  | .gleanerRecordWrite accepted => Sys2Proof.Machine.execGleanerRecordWrite accepted s
  | .gleanerFreeze => Sys2Proof.Machine.execGleanerFreeze s
  | .gleanerFrozen => Sys2Proof.Machine.execGleanerFrozen s
  | .gleanerInitComplete => Sys2Proof.Machine.execGleanerInitComplete s
  | .gleanerCopyDone bad => Sys2Proof.Machine.execGleanerCopyDone bad s
  | .mirrorGraceExpiry session uid => Sys2Proof.Machine.execMirrorGraceExpiry session uid s
  | .stookTick => Sys2Proof.Machine.execStookTick s
  | .stookSnapshotWritten ok => Sys2Proof.Machine.execStookSnapshotWritten ok s
  | .refreshDue ch rank postpone => Sys2Proof.Machine.execRefreshDue ch rank postpone s
  | .selfRefreshEntry ch => Sys2Proof.Machine.execSelfRefreshEntry ch s
  | .patrolRead ch abp0 bch0 abp1 bch1 poison => Sys2Proof.Machine.execPatrolRead ch abp0 bch0 abp1 bch1 poison s
  | .deepStoreReadDone client ch half abp poison bch uid handle => Sys2Proof.Machine.execDeepStoreReadDone client ch half abp poison bch uid handle s
  | .disturbWindowClear ch => Sys2Proof.Machine.execDisturbWindowClear ch s
  | .spillDrainTimeout => Sys2Proof.Machine.execSpillDrainTimeout s
  | .dramTrainingDone ok0 ok1 margin0 margin1 => Sys2Proof.Machine.execDramTrainingDone ok0 ok1 margin0 margin1 s
  | .regionInitDone => Sys2Proof.Machine.execRegionInitDone s
  | .laneEyeDone m height width errors => Sys2Proof.Machine.execLaneEyeDone m height width errors s
  | .addrFlushDone => Sys2Proof.Machine.execAddrFlushDone s
  | .optionBurnDone fail0 fail1 fail2 => Sys2Proof.Machine.execOptionBurnDone fail0 fail1 fail2 s
  | .cpReloadDone img0 img1 => Sys2Proof.Machine.execCpReloadDone img0 img1 s
  | .lastTraceableTimeWrite => Sys2Proof.Machine.execLastTraceableTimeWrite s
  | .idleTimeout slot => Sys2Proof.Machine.execIdleTimeout slot s
  | .maintainLockoutEnd => Sys2Proof.Machine.execMaintainLockoutEnd s
  | .spiStatus => Sys2Proof.Machine.execSpiStatus s
  | .spiWrite bytes upset ext => Sys2Proof.Machine.execSpiWrite bytes upset ext s
  | .spiRead n => Sys2Proof.Machine.execSpiRead n s
  | .ringCmdTail k be value => Sys2Proof.Machine.execRingCmdTail k be value s
  | .ringDescriptorFetch k desc packet upset ext => Sys2Proof.Machine.execRingDescriptorFetch k desc packet upset ext s
  | .ringRplTail k be value => Sys2Proof.Machine.execRingRplTail k be value s
  | .ringPairEnable k vector => Sys2Proof.Machine.execRingPairEnable k vector s
  | .ringPairDisable k vector => Sys2Proof.Machine.execRingPairDisable k vector s
  | .ringFaultRead k be => Sys2Proof.Machine.execRingFaultRead k be s
  | .windowFaultRead be => Sys2Proof.Machine.execWindowFaultRead be s
  | .noncontigAccess off be write => Sys2Proof.Machine.execNoncontigAccess off be write s
  | .eventStatusRead r be => Sys2Proof.Machine.execEventStatusRead r be s
  | .eventMaskWrite r be value => Sys2Proof.Machine.execEventMaskWrite r be value s
  | .journalConsumerWrite be value => Sys2Proof.Machine.execJournalConsumerWrite be value s
  | .hfrTxTail be value => Sys2Proof.Machine.execHfrTxTail be value s
  | .hostFrameSend desc frame => Sys2Proof.Machine.execHostFrameSend desc frame s
  | .hfrRxTail be value => Sys2Proof.Machine.execHfrRxTail be value s
  | .hfrTxEnable on => Sys2Proof.Machine.execHfrTxEnable on s
  | .hfrRxEnable on => Sys2Proof.Machine.execHfrRxEnable on s
  | .hfrFaultRead be => Sys2Proof.Machine.execHfrFaultRead be s
  | .msixVectorMaskWrite v mask => Sys2Proof.Machine.execMsixVectorMaskWrite v mask s
  | .registerWrite off be value => Sys2Proof.Machine.execRegisterWrite off be value s
  | .openSession p => Sys2Proof.Machine.execOpenSession p s
  | .closeSession p => Sys2Proof.Machine.execCloseSession p s
  | .getIdentity p => Sys2Proof.Machine.execGetIdentity p s
  | .getState p => Sys2Proof.Machine.execGetState p s
  | .setState p => Sys2Proof.Machine.execSetState p s
  | .echo p => Sys2Proof.Machine.execEcho p s
  | .portConfigure p => Sys2Proof.Machine.execPortConfigure p s
  | .portEnable p => Sys2Proof.Machine.execPortEnable p s
  | .portStatus p => Sys2Proof.Machine.execPortStatus p s
  | .laneTune p => Sys2Proof.Machine.execLaneTune p s
  | .laneEye p => Sys2Proof.Machine.execLaneEye p s
  | .macFilterSet p => Sys2Proof.Machine.execMacFilterSet p s
  | .macStatsRead p => Sys2Proof.Machine.execMacStatsRead p s
  | .xcvrRead p => Sys2Proof.Machine.execXcvrRead p s
  | .xcvrLedgerRead p => Sys2Proof.Machine.execXcvrLedgerRead p s
  | .xcvrLedgerWrite p => Sys2Proof.Machine.execXcvrLedgerWrite p s
  | .xcvrRetire p => Sys2Proof.Machine.execXcvrRetire p s
  | .harrowStageLoad p => Sys2Proof.Machine.execHarrowStageLoad p s
  | .harrowBankSwap p => Sys2Proof.Machine.execHarrowBankSwap p s
  | .harrowPatternLoad p => Sys2Proof.Machine.execHarrowPatternLoad p s
  | .fragmentTableRead p => Sys2Proof.Machine.execFragmentTableRead p s
  | .addrAdd p => Sys2Proof.Machine.execAddrAdd p s
  | .addrDelete p => Sys2Proof.Machine.execAddrDelete p s
  | .addrLookup p => Sys2Proof.Machine.execAddrLookup p s
  | .addrFlush p => Sys2Proof.Machine.execAddrFlush p s
  | .ageingSet p => Sys2Proof.Machine.execAgeingSet p s
  | .shadowSet p => Sys2Proof.Machine.execShadowSet p s
  | .shadowStatus p => Sys2Proof.Machine.execShadowStatus p s
  | .mgroupSet p => Sys2Proof.Machine.execMgroupSet p s
  | .streamBind p => Sys2Proof.Machine.execStreamBind p s
  | .streamUnbind p => Sys2Proof.Machine.execStreamUnbind p s
  | .streamRead p => Sys2Proof.Machine.execStreamRead p s
  | .streamSupervise p => Sys2Proof.Machine.execStreamSupervise p s
  | .keySlotWrite p => Sys2Proof.Machine.execKeySlotWrite p s
  | .tineImageLoad p => Sys2Proof.Machine.execTineImageLoad p s
  | .tineImageActivate p => Sys2Proof.Machine.execTineImageActivate p s
  | .tineSampleSet p => Sys2Proof.Machine.execTineSampleSet p s
  | .bedStatus p => Sys2Proof.Machine.execBedStatus p s
  | .poolSet p => Sys2Proof.Machine.execPoolSet p s
  | .poolRead p => Sys2Proof.Machine.execPoolRead p s
  | .queueRead p => Sys2Proof.Machine.execQueueRead p s
  | .residenceLimitSet p => Sys2Proof.Machine.execResidenceLimitSet p s
  | .deepStoreSet p => Sys2Proof.Machine.execDeepStoreSet p s
  | .drillSet p => Sys2Proof.Machine.execDrillSet p s
  | .shaperSet p => Sys2Proof.Machine.execShaperSet p s
  | .meterSet p => Sys2Proof.Machine.execMeterSet p s
  | .gateListSet p => Sys2Proof.Machine.execGateListSet p s
  | .preemptSet p => Sys2Proof.Machine.execPreemptSet p s
  | .furrowStatus p => Sys2Proof.Machine.execFurrowStatus p s
  | .headlandPolicySet p => Sys2Proof.Machine.execHeadlandPolicySet p s
  | .headlandTurn p => Sys2Proof.Machine.execHeadlandTurn p s
  | .furrowRestart p => Sys2Proof.Machine.execFurrowRestart p s
  | .prpPairSet p => Sys2Proof.Machine.execPrpPairSet p s
  | .hsrRingSet p => Sys2Proof.Machine.execHsrRingSet p s
  | .frerSet p => Sys2Proof.Machine.execFrerSet p s
  | .winnowRead p => Sys2Proof.Machine.execWinnowRead p s
  | .clockConfigure p => Sys2Proof.Machine.execClockConfigure p s
  | .clockStatus p => Sys2Proof.Machine.execClockStatus p s
  | .ptpPortSet p => Sys2Proof.Machine.execPtpPortSet p s
  | .irigSet p => Sys2Proof.Machine.execIrigSet p s
  | .gpioCaptureSet p => Sys2Proof.Machine.execGpioCaptureSet p s
  | .journalSet p => Sys2Proof.Machine.execJournalSet p s
  | .eventRouteSet p => Sys2Proof.Machine.execEventRouteSet p s
  | .gleanerSet p => Sys2Proof.Machine.execGleanerSet p s
  | .gleanerTrigger p => Sys2Proof.Machine.execGleanerTrigger p s
  | .mirrorSet p => Sys2Proof.Machine.execMirrorSet p s
  | .stookSet p => Sys2Proof.Machine.execStookSet p s
  | .counterSelect p => Sys2Proof.Machine.execCounterSelect p s
  | .stookNow p => Sys2Proof.Machine.execStookNow p s
  | .dramConfigure p => Sys2Proof.Machine.execDramConfigure p s
  | .dramTrain p => Sys2Proof.Machine.execDramTrain p s
  | .dramStatus p => Sys2Proof.Machine.execDramStatus p s
  | .dramMapSet p => Sys2Proof.Machine.execDramMapSet p s
  | .optionRead p => Sys2Proof.Machine.execOptionRead p s
  | .optionBurn p => Sys2Proof.Machine.execOptionBurn p s
  | .retainedRead p => Sys2Proof.Machine.execRetainedRead p s
  | .retainedWrite p => Sys2Proof.Machine.execRetainedWrite p s
  | .configDigest p => Sys2Proof.Machine.execConfigDigest p s
  | .cpReload p => Sys2Proof.Machine.execCpReload p s
  | .thermalStatus p => Sys2Proof.Machine.execThermalStatus p s
  | .fallowMirrorRefresh => Sys2Proof.Machine.execFallowMirrorRefresh s
  | .irigOutFrame => Sys2Proof.Machine.execIrigOutFrame s
  | .scheduledEventWake p => Sys2Proof.Machine.execScheduledEventWake p s
  | .gpioInputChange n level => Sys2Proof.Machine.execGpioInputChange n level s
  | .deepStorePllLockLoss => Sys2Proof.Machine.execDeepStorePllLockLoss s
  | .verifyMpacketRx p => Sys2Proof.Machine.execVerifyMpacketRx p s
  | .bedFallowStop bed => Sys2Proof.Machine.execBedFallowStop bed s
  | .referenceInputTimeout tod => Sys2Proof.Machine.execReferenceInputTimeout tod s

end Sys2Proof.Machine
end

