-- ==== Sys2Proof/Safety.lean ====
section
/-! DEFINITION. What counts as a well-formed state and as a safe run. -/

namespace Sys2Proof.Machine

/-- The canonical form of the state: every sparse table lists rising indexes, and none at what an unlisted index reads as; the device state is one of
R58's, each furrow's state one of R392's, the lead is a furrow. -/
def State.wf (s : State) : Bool :=
  Canon {} s.ports && Canon {} s.lanes && Canon {} s.i2c && Canon {} s.mods && Canon {} s.rings && Canon {} s.gpio && Canon {} s.cp.sessions &&
  Canon 0 s.memErr && Canon {} s.meters && Canon {} s.mirrors && Canon {} s.perf && Rising s.frames && Rising s.shapers &&
  Memory.wf s.ret.mem && Canon 0 s.ret.backup && Canon {} s.nv.gens &&
  decide (s.dev.state ≤ 6) && decide (s.hl.stateA ≤ 4) && decide (s.hl.stateB ≤ 4) && decide (s.hl.lead ≤ 1)

/-- The machine goes on from a state: its step is neither a fault nor a refusal. -/
def goesOn (s : State) : Prop := ∃ t, step s = .next t

/-- A run of n steps is safe: it reaches a well-formed state. -/
def safeRun (n : Nat) (s : State) : Prop := ∃ t, Sys2Proof.core.run n s = .next t ∧ State.wf t = true

/-! ## A command that is served at once (R61) -/

/-- The packet as the command processor runs it: with the opcode of its row. -/
def asked (c : CmdSpec) (p : Packet) : Packet := { p with opcode := c.opcode }

/-- The state on which a served packet runs: the idle time of its session starts anew. -/
def reached (c : CmdSpec) (p : Packet) (s : State) : State := touchSession (asked c p) s

/-- The packet finds a place (R91), passes checks 2 to 9 of R61 (with check 8 as given), waits behind no other packet, finds fewer than 256 others outstanding (R62), is
new to its endpoint (R91), and the tables that it reads are clean (R43, R44). -/
def acceptsBy (chk8 : Packet → Session → State → Option (Nat × Nat)) (c : CmdSpec) (p : Packet) (s : State) : Bool :=
  let q := asked c p
  let t := reached c p s
  serving s && !queueFull q s && (keptReply q t).isNone && (frontCheck c q t).isNone && cpTakes t && !mustWait q t &&
  (chk8 q (session t (q.session % 4)) t).isNone && headerOk c q t && (c.opcode == 0x0101 || decide (othersOutstanding t q < 256)) && p.fixed.isEmpty && !p.upset

/-- The same with the ordinary check 8: the legal states of the opcode index (R81). -/
def accepts (c : CmdSpec) (p : Packet) (s : State) : Bool := acceptsBy (check8 c) c p s

/-- The final reply to the packet, with a status and reply parameters, on a state. -/
def answered (c : CmdSpec) (p : Packet) (status : Nat) (reply : List Byte) (s : State) : State :=
  respond (ticketFor c (asked c p)) 0x80 status 0 reply s

/-- The packet is answered ACCEPTED on a state: the command is outstanding (R62, R64). -/
def deferred (c : CmdSpec) (p : Packet) (s : State) : State :=
  respond (ticketFor c (asked c p)) 0x80 stAccepted 0 []
    (modSession (p.session % 4) (fun x => { x with outstanding := { tag := p.tag, opcode := c.opcode } :: x.outstanding }) s)

end Sys2Proof.Machine
end

