-- ==== Sys2Proof/WellFormed.lean ====
section
/-! DEFINITION. Well-formed commands: every operand in the range that the spec gives it (spec/00 R4-R6; spec/02 R55, R69; spec/15 R486, R488). -/

namespace Sys2Proof

/-- An endpoint of the device: one of four ring pairs, a port with a 48-bit source address, the SPI target (R69, R84, R90). -/
def Endpoint.wf : Endpoint → Bool
  | .ring k => decide (k < 4)
  | .inband port addr => decide (port < 64) && decide (addr < 2 ^ 48)
  | .spi => true

/-- A packet whose fields have the widths of its header (R55), its trailer 32 bits and its VLAN tag 16. -/
def Packet.wf (p : Packet) : Bool :=
  p.src.wf && decide (p.verMajor < 256) && decide (p.verMinor < 256) && decide (p.flags < 256) && decide (p.opcode < 65536) &&
  decide (p.tag < 65536) && decide (p.session < 256) && decide (p.paramLen < 65536) && decide (p.reserved < 2 ^ 40) &&
  decide (p.trailer < 2 ^ 32) && decide (p.vlan.getD 0 < 65536)

/-- Ports, classes, Beds, Tines, halves, channels, ranks, lanes, masters, session slots, slice clocks, rails, ring pairs, byte enables, event
registers, vectors, crossbar points, handles, window offsets and 32-bit values are in range; what the outside supplies is any. -/
def Instr.wf : Instr → Bool
  | .powerOnDetect _ _ _ => true
  | .resetNAssert _ _ _ => true
  | .fallowRelease _ _ _ _ => true
  | .headlandRelease => true
  | .optionLoad => true
  | .cpBootStart => true
  | .firmwareAuthenticated _ _ => true
  | .furrowDomainRelease _ _ _ _ => true
  | .portDomainRelease => true
  | .releasePllTimeout => true
  | .xtalFalStop => true
  | .pllShLockLoss => true
  | .furrowPllLockLoss _ => true
  | .headlandPllLoss => true
  | .railMonitor _ => true
  | .supplyOverRange rail => decide (rail < 8)
  | .vbakLow => true
  | .furrowRailLoss _ => true
  | .thermalSensorUpdate _ _ => true
  | .pcieLinkUp _ _ => true
  | .pcieLinkDown => true
  | .pciePerst => true
  | .sliceClockStart slice => decide (slice < 4)
  | .sliceFallowExpiry clock => decide (clock < 12)
  | .bedWake bed => decide (bed < 16)
  | .furrowCoreWakeForTimer _ => true
  | .scrubRead _ _ _ _ => true
  | .startOfFrame p _ => decide (p < 64)
  | .rxFrameEnd p _ _ _ => decide (p < 64)
  | .oversizeDetect p => decide (p < 64)
  | .pauseTimerExpiry p cls => decide (p < 64) && decide (cls < 8)
  | .pauseWatchdogExpiry p cls => decide (p < 64) && decide (cls < 8)
  | .pauseIgnoreEnd p cls => decide (p < 64) && decide (cls < 8)
  | .linkDown p _ _ h => decide (p < 64) && decide (h.lane < 64) && h.headers.all (fun v => decide (v < 4))
  | .linkUp p g => decide (p < 64) && decide (g.lane < 64) && g.headers.all (fun v => decide (v < 4)) && decide (g.step < 16)
  | .retrain m _ => decide (m < 64)
  | .adaptationFreeze m _ => decide (m < 64)
  | .adaptationResume m r => decide (m < 64) && decide (r.step < 16)
  | .fecDegradeWindow p _ _ _ => decide (p < 64)
  | .phyPoll p status => decide (p < 64) && status.all (fun v => decide (v < 65536))
  | .bringupStart p => decide (p < 64)
  | .autonegComplete p _ _ _ => decide (p < 64)
  | .stepWaitExpiry p => decide (p < 64)
  | .stepFailTimeout p => decide (p < 64)
  | .bringupRestart p => decide (p < 64)
  | .i2cBusRecovery k _ => decide (k < 8)
  | .i2cRecoveryRetry k _ => decide (k < 8)
  | .modulePoll m _ _ => decide (m < 64)
  | .moduleDataReady m _ _ _ _ => decide (m < 64)
  | .ddmSample m temp r alarms => decide (m < 64) && (temp :: r.vcc :: (r.bias ++ r.tx ++ r.rx)).all (fun v => decide (v < 65536)) &&
    r.bias.length ≤ 4 && r.tx.length ≤ 4 && r.rx.length ≤ 4 && decide (alarms < 2 ^ 48)
  | .ledgerDailyWrite m => decide (m < 64)
  | .ledgerWriteDone m _ => decide (m < 64)
  | .harrowDecision _ _ _ => true
  | .harrowFrameEnd _ _ => true
  | .fragmentSweep _ => true
  | .bankFlip => true
  | .bankSwapComplete => true
  | .learnInsert _ => true
  | .ageingSweep _ => true
  | .stagingRecordRetire => true
  | .shadowCompareUnit _ _ _ => true
  | .activationStart bed => decide (bed < 16)
  | .recordFetchDone bed_ _ => decide (bed_ < 16)
  | .aluR bed tine => decide (bed < 16) && decide (tine < 64)
  | .addi bed tine => decide (bed < 16) && decide (tine < 64)
  | .andiOriXori bed tine => decide (bed < 16) && decide (tine < 64)
  | .sltiSltiu bed tine => decide (bed < 16) && decide (tine < 64)
  | .slliSrliSrai bed tine => decide (bed < 16) && decide (tine < 64)
  | .lui bed tine => decide (bed < 16) && decide (tine < 64)
  | .branch bed tine => decide (bed < 16) && decide (tine < 64)
  | .jal bed tine => decide (bed < 16) && decide (tine < 64)
  | .jalr bed tine => decide (bed < 16) && decide (tine < 64)
  | .load bed tine => decide (bed < 16) && decide (tine < 64)
  | .store bed tine => decide (bed < 16) && decide (tine < 64)
  | .cld bed tine => decide (bed < 16) && decide (tine < 64)
  | .pld bed tine => decide (bed < 16) && decide (tine < 64)
  | .wsel bed tine => decide (bed < 16) && decide (tine < 64)
  | .wld bed tine => decide (bed < 16) && decide (tine < 64)
  | .bers bed tine => decide (bed < 16) && decide (tine < 64)
  | .crc bed tine => decide (bed < 16) && decide (tine < 64)
  | .hash bed tine => decide (bed < 16) && decide (tine < 64)
  | .sld bed tine => decide (bed < 16) && decide (tine < 64)
  | .sst bed tine => decide (bed < 16) && decide (tine < 64)
  | .srel bed tine => decide (bed < 16) && decide (tine < 64)
  | .hst bed tine => decide (bed < 16) && decide (tine < 64)
  | .trd bed tine => decide (bed < 16) && decide (tine < 64)
  | .tmset bed tine => decide (bed < 16) && decide (tine < 64)
  | .akey bed tine => decide (bed < 16) && decide (tine < 64)
  | .auth bed tine => decide (bed < 16) && decide (tine < 64)
  | .authUnitDone bed tine => decide (bed < 16) && decide (tine < 64)
  | .emit bed tine => decide (bed < 16) && decide (tine < 64)
  | .vrd bed tine => decide (bed < 16) && decide (tine < 64)
  | .illegalInstruction bed tine => decide (bed < 16) && decide (tine < 64)
  | .budgetExceeded bed tine => decide (bed < 16) && decide (tine < 64)
  | .verdictRelease bed _ => decide (bed < 16)
  | .bedLockup bed_ _ => decide (bed_ < 16)
  | .deadlineFire bed_ => decide (bed_ < 16)
  | .timerQueueRetry bed_ => decide (bed_ < 16)
  | .imageActivationComplete bed_ => decide (bed_ < 16)
  | .tineImageVerified => true
  | .cellRequest h _ _ => decide (h < 2)
  | .rebuildScanComplete h _ => decide (h < 2)
  | .granaryAdmit _ _ => true
  | .copyComplete _ half => decide (half < 2)
  | .spillWrite _ _ => true
  | .refillRequest _ inp out cls => decide (inp < 72) && decide (out < 72) && decide (cls < 8)
  | .refillRetry => true
  | .residenceCheck _ inp out cls => decide (inp < 72) && decide (out < 72) && decide (cls < 8)
  | .crossbarMatch _ _ => true
  | .crossbarParityError _ _ => true
  | .egressUnderrun p => decide (p < 64)
  | .headerTransfer _ _ => true
  | .headerTransferTimeout _ _ => true
  | .tc7WaitTimeout _ inp out => decide (inp < 72) && decide (out < 72)
  | .winnowArrival p _ => decide (p < 64)
  | .drillStartOpportunity p => decide (p < 64)
  | .txFrameEnd p => decide (p < 64)
  | .streamShaperRelease handle => decide (handle < 0x100000)
  | .gateTransition p => decide (p < 64)
  | .gateListTakeover p => decide (p < 64)
  | .verifyTimer p => decide (p < 64)
  | .verifyRespondRx p => decide (p < 64)
  | .twinSweep => true
  | .nodeForget => true
  | .turnFilterExpiry p => decide (p < 64)
  | .frerRecoveryTimeout handle p => decide (handle < 0x100000) && decide (p < 64)
  | .latentErrorTest handle p => decide (handle < 0x100000) && decide (p < 64)
  | .digestClose _ _ => true
  | .digestCompare => true
  | .digestMissTimeout _ => true
  | .headlandAlarm => true
  | .arbRuling _ => true
  | .arbStatusIn _ => true
  | .arbRulingTimeout => true
  | .arbLinkDown => true
  | .arbStatusOut => true
  | .turnStart => true
  | .turnEnd => true
  | .laneFlushComplete _ => true
  | .restartCopyDone => true
  | .restartAdmission => true
  | .restartFailTimeout => true
  | .timeCorrection => true
  | .replicaCompare _ _ => true
  | .referenceLoss => true
  | .holdoverExpiry => true
  | .holdoverExtMeasure _ => true
  | .ppsInEdge => true
  | .todRxMessage _ => true
  | .todTxMessage => true
  | .clk10mPresence _ => true
  | .ptpMessageRx => true
  | .ptpMessageTx p _ => decide (p < 64)
  | .announceReceiptTimeout p => decide (p < 64)
  | .stampFifoRead p => decide (p < 64)
  | .irigFrame _ _ => true
  | .ppsOutEdge n => decide (n < 2)
  | .leapApply => true
  | .gpioEdgeAccept n => decide (n < 32)
  | .gpioChatterQuiet n => decide (n < 32)
  | .journalRecordWrite => true
  | .journalHoldoffExpiry => true
  | .vectorHoldoffExpiry v => decide (v < 64)
  | .gleanerTransferArrival => true
  | .gleanerPairTimeout _ => true
  | .gleanerRecordRelease _ => true
  | .gleanerRecordWrite _ => true
  | .gleanerFreeze => true
  | .gleanerFrozen => true
  | .gleanerInitComplete => true
  | .gleanerCopyDone _ => true
  | .mirrorGraceExpiry _ _ => true
  | .stookTick => true
  | .stookSnapshotWritten _ => true
  | .refreshDue ch rank _ => decide (ch < 2) && decide (rank < 2)
  | .selfRefreshEntry ch => decide (ch < 2)
  | .patrolRead ch abp0 bch0 abp1 bch1 poison => decide (ch < 2) && decide (abp0 < 256) && decide (bch0 < 3) && decide (abp1 < 256) && decide (bch1 < 3) && decide (poison < 4)
  | .deepStoreReadDone client ch half abp _ bch _ _ => decide (1 ≤ client) && decide (client ≤ 5) && decide (ch < 2) && decide (half < 2 ^ 29) && decide (abp < 256) && decide (bch < 3)
  | .disturbWindowClear ch => decide (ch < 2)
  | .spillDrainTimeout => true
  | .dramTrainingDone _ _ _ _ => true
  | .regionInitDone => true
  | .laneEyeDone m _ _ _ => decide (m < 64)
  | .addrFlushDone => true
  | .optionBurnDone _ _ _ => true
  | .cpReloadDone _ _ => true
  | .lastTraceableTimeWrite => true
  | .idleTimeout slot => decide (slot < 4)
  | .maintainLockoutEnd => true
  | .spiStatus => true
  | .spiWrite _ _ _ => true
  | .spiRead _ => true
  | .ringCmdTail k be value => decide (k < 4) && decide (be < 16) && decide (value < 0x100000000)
  | .ringDescriptorFetch k _ _ _ _ => decide (k < 4)
  | .ringRplTail k be value => decide (k < 4) && decide (be < 16) && decide (value < 0x100000000)
  | .ringPairEnable k _ => decide (k < 4)
  | .ringPairDisable k _ => decide (k < 4)
  | .ringFaultRead k be => decide (k < 4) && decide (be < 16)
  | .windowFaultRead be => decide (be < 16)
  | .noncontigAccess off be _ => decide (off < 0x4000) && decide (be < 16)
  | .eventStatusRead r be => decide (r < 32) && decide (be < 16)
  | .eventMaskWrite r be value => decide (r < 32) && decide (be < 16) && decide (value < 0x100000000)
  | .journalConsumerWrite be value => decide (be < 16) && decide (value < 0x100000000)
  | .hfrTxTail be value => decide (be < 16) && decide (value < 0x100000000)
  | .hostFrameSend _ _ => true
  | .hfrRxTail be value => decide (be < 16) && decide (value < 0x100000000)
  | .hfrTxEnable _ => true
  | .hfrRxEnable _ => true
  | .hfrFaultRead be => decide (be < 16)
  | .msixVectorMaskWrite v _ => decide (v < 64)
  | .registerWrite off be value => decide (off < 0x4000) && decide (be < 16) && decide (value < 0x100000000)
  | .openSession p => p.wf
  | .closeSession p => p.wf
  | .getIdentity p => p.wf
  | .getState p => p.wf
  | .setState p => p.wf
  | .echo p => p.wf
  | .portConfigure p => p.wf
  | .portEnable p => p.wf
  | .portStatus p => p.wf
  | .laneTune p => p.wf
  | .laneEye p => p.wf
  | .macFilterSet p => p.wf
  | .macStatsRead p => p.wf
  | .xcvrRead p => p.wf
  | .xcvrLedgerRead p => p.wf
  | .xcvrLedgerWrite p => p.wf
  | .xcvrRetire p => p.wf
  | .harrowStageLoad p => p.wf
  | .harrowBankSwap p => p.wf
  | .harrowPatternLoad p => p.wf
  | .fragmentTableRead p => p.wf
  | .addrAdd p => p.wf
  | .addrDelete p => p.wf
  | .addrLookup p => p.wf
  | .addrFlush p => p.wf
  | .ageingSet p => p.wf
  | .shadowSet p => p.wf
  | .shadowStatus p => p.wf
  | .mgroupSet p => p.wf
  | .streamBind p => p.wf
  | .streamUnbind p => p.wf
  | .streamRead p => p.wf
  | .streamSupervise p => p.wf
  | .keySlotWrite p => p.wf
  | .tineImageLoad p => p.wf
  | .tineImageActivate p => p.wf
  | .tineSampleSet p => p.wf
  | .bedStatus p => p.wf
  | .poolSet p => p.wf
  | .poolRead p => p.wf
  | .queueRead p => p.wf
  | .residenceLimitSet p => p.wf
  | .deepStoreSet p => p.wf
  | .drillSet p => p.wf
  | .shaperSet p => p.wf
  | .meterSet p => p.wf
  | .gateListSet p => p.wf
  | .preemptSet p => p.wf
  | .furrowStatus p => p.wf
  | .headlandPolicySet p => p.wf
  | .headlandTurn p => p.wf
  | .furrowRestart p => p.wf
  | .prpPairSet p => p.wf
  | .hsrRingSet p => p.wf
  | .frerSet p => p.wf
  | .winnowRead p => p.wf
  | .clockConfigure p => p.wf
  | .clockStatus p => p.wf
  | .ptpPortSet p => p.wf
  | .irigSet p => p.wf
  | .gpioCaptureSet p => p.wf
  | .journalSet p => p.wf
  | .eventRouteSet p => p.wf
  | .gleanerSet p => p.wf
  | .gleanerTrigger p => p.wf
  | .mirrorSet p => p.wf
  | .stookSet p => p.wf
  | .counterSelect p => p.wf
  | .stookNow p => p.wf
  | .dramConfigure p => p.wf
  | .dramTrain p => p.wf
  | .dramStatus p => p.wf
  | .dramMapSet p => p.wf
  | .optionRead p => p.wf
  | .optionBurn p => p.wf
  | .retainedRead p => p.wf
  | .retainedWrite p => p.wf
  | .configDigest p => p.wf
  | .cpReload p => p.wf
  | .thermalStatus p => p.wf
  | .fallowMirrorRefresh => true
  | .irigOutFrame => true
  | .scheduledEventWake p => decide (p < 64)
  | .gpioInputChange n _ => decide (n < 32)
  | .deepStorePllLockLoss => true
  | .verifyMpacketRx p => decide (p < 64)
  | .bedFallowStop bed => decide (bed < 16)
  | .referenceInputTimeout _ => true

/-- The packet that a row of the command protocol carries. -/
def Instr.packet : Instr → Option Packet
  | .powerOnDetect _ _ _ => none
  | .resetNAssert _ _ _ => none
  | .fallowRelease _ _ _ _ => none
  | .headlandRelease => none
  | .optionLoad => none
  | .cpBootStart => none
  | .firmwareAuthenticated _ _ => none
  | .furrowDomainRelease _ _ _ _ => none
  | .portDomainRelease => none
  | .releasePllTimeout => none
  | .xtalFalStop => none
  | .pllShLockLoss => none
  | .furrowPllLockLoss _ => none
  | .headlandPllLoss => none
  | .railMonitor _ => none
  | .supplyOverRange _ => none
  | .vbakLow => none
  | .furrowRailLoss _ => none
  | .thermalSensorUpdate _ _ => none
  | .pcieLinkUp _ _ => none
  | .pcieLinkDown => none
  | .pciePerst => none
  | .sliceClockStart _ => none
  | .sliceFallowExpiry _ => none
  | .bedWake _ => none
  | .furrowCoreWakeForTimer _ => none
  | .scrubRead _ _ _ _ => none
  | .startOfFrame _ _ => none
  | .rxFrameEnd _ _ _ _ => none
  | .oversizeDetect _ => none
  | .pauseTimerExpiry _ _ => none
  | .pauseWatchdogExpiry _ _ => none
  | .pauseIgnoreEnd _ _ => none
  | .linkDown _ _ _ _ => none
  | .linkUp _ _ => none
  | .retrain _ _ => none
  | .adaptationFreeze _ _ => none
  | .adaptationResume _ _ => none
  | .fecDegradeWindow _ _ _ _ => none
  | .phyPoll _ _ => none
  | .bringupStart _ => none
  | .autonegComplete _ _ _ _ => none
  | .stepWaitExpiry _ => none
  | .stepFailTimeout _ => none
  | .bringupRestart _ => none
  | .i2cBusRecovery _ _ => none
  | .i2cRecoveryRetry _ _ => none
  | .modulePoll _ _ _ => none
  | .moduleDataReady _ _ _ _ _ => none
  | .ddmSample _ _ _ _ => none
  | .ledgerDailyWrite _ => none
  | .ledgerWriteDone _ _ => none
  | .harrowDecision _ _ _ => none
  | .harrowFrameEnd _ _ => none
  | .fragmentSweep _ => none
  | .bankFlip => none
  | .bankSwapComplete => none
  | .learnInsert _ => none
  | .ageingSweep _ => none
  | .stagingRecordRetire => none
  | .shadowCompareUnit _ _ _ => none
  | .activationStart _ => none
  | .recordFetchDone _ _ => none
  | .aluR _ _ => none
  | .addi _ _ => none
  | .andiOriXori _ _ => none
  | .sltiSltiu _ _ => none
  | .slliSrliSrai _ _ => none
  | .lui _ _ => none
  | .branch _ _ => none
  | .jal _ _ => none
  | .jalr _ _ => none
  | .load _ _ => none
  | .store _ _ => none
  | .cld _ _ => none
  | .pld _ _ => none
  | .wsel _ _ => none
  | .wld _ _ => none
  | .bers _ _ => none
  | .crc _ _ => none
  | .hash _ _ => none
  | .sld _ _ => none
  | .sst _ _ => none
  | .srel _ _ => none
  | .hst _ _ => none
  | .trd _ _ => none
  | .tmset _ _ => none
  | .akey _ _ => none
  | .auth _ _ => none
  | .authUnitDone _ _ => none
  | .emit _ _ => none
  | .vrd _ _ => none
  | .illegalInstruction _ _ => none
  | .budgetExceeded _ _ => none
  | .verdictRelease _ _ => none
  | .bedLockup _ _ => none
  | .deadlineFire _ => none
  | .timerQueueRetry _ => none
  | .imageActivationComplete _ => none
  | .tineImageVerified => none
  | .cellRequest _ _ _ => none
  | .rebuildScanComplete _ _ => none
  | .granaryAdmit _ _ => none
  | .copyComplete _ _ => none
  | .spillWrite _ _ => none
  | .refillRequest _ _ _ _ => none
  | .refillRetry => none
  | .residenceCheck _ _ _ _ => none
  | .crossbarMatch _ _ => none
  | .crossbarParityError _ _ => none
  | .egressUnderrun _ => none
  | .headerTransfer _ _ => none
  | .headerTransferTimeout _ _ => none
  | .tc7WaitTimeout _ _ _ => none
  | .winnowArrival _ _ => none
  | .drillStartOpportunity _ => none
  | .txFrameEnd _ => none
  | .streamShaperRelease _ => none
  | .gateTransition _ => none
  | .gateListTakeover _ => none
  | .verifyTimer _ => none
  | .verifyRespondRx _ => none
  | .twinSweep => none
  | .nodeForget => none
  | .turnFilterExpiry _ => none
  | .frerRecoveryTimeout _ _ => none
  | .latentErrorTest _ _ => none
  | .digestClose _ _ => none
  | .digestCompare => none
  | .digestMissTimeout _ => none
  | .headlandAlarm => none
  | .arbRuling _ => none
  | .arbStatusIn _ => none
  | .arbRulingTimeout => none
  | .arbLinkDown => none
  | .arbStatusOut => none
  | .turnStart => none
  | .turnEnd => none
  | .laneFlushComplete _ => none
  | .restartCopyDone => none
  | .restartAdmission => none
  | .restartFailTimeout => none
  | .timeCorrection => none
  | .replicaCompare _ _ => none
  | .referenceLoss => none
  | .holdoverExpiry => none
  | .holdoverExtMeasure _ => none
  | .ppsInEdge => none
  | .todRxMessage _ => none
  | .todTxMessage => none
  | .clk10mPresence _ => none
  | .ptpMessageRx => none
  | .ptpMessageTx _ _ => none
  | .announceReceiptTimeout _ => none
  | .stampFifoRead _ => none
  | .irigFrame _ _ => none
  | .ppsOutEdge _ => none
  | .leapApply => none
  | .gpioEdgeAccept _ => none
  | .gpioChatterQuiet _ => none
  | .journalRecordWrite => none
  | .journalHoldoffExpiry => none
  | .vectorHoldoffExpiry _ => none
  | .gleanerTransferArrival => none
  | .gleanerPairTimeout _ => none
  | .gleanerRecordRelease _ => none
  | .gleanerRecordWrite _ => none
  | .gleanerFreeze => none
  | .gleanerFrozen => none
  | .gleanerInitComplete => none
  | .gleanerCopyDone _ => none
  | .mirrorGraceExpiry _ _ => none
  | .stookTick => none
  | .stookSnapshotWritten _ => none
  | .refreshDue _ _ _ => none
  | .selfRefreshEntry _ => none
  | .patrolRead _ _ _ _ _ _ => none
  | .deepStoreReadDone _ _ _ _ _ _ _ _ => none
  | .disturbWindowClear _ => none
  | .spillDrainTimeout => none
  | .dramTrainingDone _ _ _ _ => none
  | .regionInitDone => none
  | .laneEyeDone _ _ _ _ => none
  | .addrFlushDone => none
  | .optionBurnDone _ _ _ => none
  | .cpReloadDone _ _ => none
  | .lastTraceableTimeWrite => none
  | .idleTimeout _ => none
  | .maintainLockoutEnd => none
  | .spiStatus => none
  | .spiWrite _ _ _ => none
  | .spiRead _ => none
  | .ringCmdTail _ _ _ => none
  | .ringDescriptorFetch _ _ _ _ _ => none
  | .ringRplTail _ _ _ => none
  | .ringPairEnable _ _ => none
  | .ringPairDisable _ _ => none
  | .ringFaultRead _ _ => none
  | .windowFaultRead _ => none
  | .noncontigAccess _ _ _ => none
  | .eventStatusRead _ _ => none
  | .eventMaskWrite _ _ _ => none
  | .journalConsumerWrite _ _ => none
  | .hfrTxTail _ _ => none
  | .hostFrameSend _ _ => none
  | .hfrRxTail _ _ => none
  | .hfrTxEnable _ => none
  | .hfrRxEnable _ => none
  | .hfrFaultRead _ => none
  | .msixVectorMaskWrite _ _ => none
  | .registerWrite _ _ _ => none
  | .openSession p => some p
  | .closeSession p => some p
  | .getIdentity p => some p
  | .getState p => some p
  | .setState p => some p
  | .echo p => some p
  | .portConfigure p => some p
  | .portEnable p => some p
  | .portStatus p => some p
  | .laneTune p => some p
  | .laneEye p => some p
  | .macFilterSet p => some p
  | .macStatsRead p => some p
  | .xcvrRead p => some p
  | .xcvrLedgerRead p => some p
  | .xcvrLedgerWrite p => some p
  | .xcvrRetire p => some p
  | .harrowStageLoad p => some p
  | .harrowBankSwap p => some p
  | .harrowPatternLoad p => some p
  | .fragmentTableRead p => some p
  | .addrAdd p => some p
  | .addrDelete p => some p
  | .addrLookup p => some p
  | .addrFlush p => some p
  | .ageingSet p => some p
  | .shadowSet p => some p
  | .shadowStatus p => some p
  | .mgroupSet p => some p
  | .streamBind p => some p
  | .streamUnbind p => some p
  | .streamRead p => some p
  | .streamSupervise p => some p
  | .keySlotWrite p => some p
  | .tineImageLoad p => some p
  | .tineImageActivate p => some p
  | .tineSampleSet p => some p
  | .bedStatus p => some p
  | .poolSet p => some p
  | .poolRead p => some p
  | .queueRead p => some p
  | .residenceLimitSet p => some p
  | .deepStoreSet p => some p
  | .drillSet p => some p
  | .shaperSet p => some p
  | .meterSet p => some p
  | .gateListSet p => some p
  | .preemptSet p => some p
  | .furrowStatus p => some p
  | .headlandPolicySet p => some p
  | .headlandTurn p => some p
  | .furrowRestart p => some p
  | .prpPairSet p => some p
  | .hsrRingSet p => some p
  | .frerSet p => some p
  | .winnowRead p => some p
  | .clockConfigure p => some p
  | .clockStatus p => some p
  | .ptpPortSet p => some p
  | .irigSet p => some p
  | .gpioCaptureSet p => some p
  | .journalSet p => some p
  | .eventRouteSet p => some p
  | .gleanerSet p => some p
  | .gleanerTrigger p => some p
  | .mirrorSet p => some p
  | .stookSet p => some p
  | .counterSelect p => some p
  | .stookNow p => some p
  | .dramConfigure p => some p
  | .dramTrain p => some p
  | .dramStatus p => some p
  | .dramMapSet p => some p
  | .optionRead p => some p
  | .optionBurn p => some p
  | .retainedRead p => some p
  | .retainedWrite p => some p
  | .configDigest p => some p
  | .cpReload p => some p
  | .thermalStatus p => some p
  | .fallowMirrorRefresh => none
  | .irigOutFrame => none
  | .scheduledEventWake _ => none
  | .gpioInputChange _ _ => none
  | .deepStorePllLockLoss => none
  | .verifyMpacketRx _ => none
  | .bedFallowStop _ => none
  | .referenceInputTimeout _ => none

end Sys2Proof
end

