-- ==== Sys2Proof/Certificates/Slice0/Obligations.lean ====
section
/-! DEFINITION. The statements about the device, for the provers: what each command does and leaves, and what every step keeps. -/

namespace Sys2Proof.Machine

/-- The reset state, with the levels that its pins take (R503) and what a reset does not clear: the queue and the model's own counters, the option
store with a burn cut short, the retained memory and the backup registers, the supplies with both islands powered, the sensors with their latches, the
GPIO levels, whether XTAL_FAL runs, and which reset it is. -/
def resetTo (pin por : Bool) (k part : Nat) (s : State) : State :=
  { State.reset with
    pending := s.pending
    out := .resetPins {} :: s.out
    free := s.free
    nextUid := s.nextUid
    nv := cutBurn k part s.nv
    ret := { State.reset.ret with mem := s.ret.mem, bad := s.ret.bad, backup := s.ret.backup, descs := s.ret.descs }
    sup := { s.sup with poweredA := true, poweredB := true }
    therm := { State.reset.therm with sensors := s.therm.sensors, warn := s.therm.warn, crit := s.therm.crit }
    gpio := tmap {} s.gpio (fun g => { level := g.level, accepted := g.level })
    clk := { State.reset.clk with xtalOk := s.clk.xtalOk }
    dev := { State.reset.dev with resetPin := pin, resetPor := por } }

/-- What a Harrow load answers once the inactive bank holds the load: the BANK_CRC of its part, or the mismatch of two admitted furrows (R171, R176). -/
def harrowLoaded (c : CmdSpec) (p : Packet) (crc : Bank → Nat) (mark : Bool → Bank → Bank) (t : State) : State :=
  let b := 1 - t.bankBit
  let ca := crc (bankOf t 0 b)
  let cb := crc (bankOf t 1 b)
  if furState t 0 = 0 ∧ furState t 1 = 0 ∧ ca ≠ cb then
    answered c p stHwFault [] (fireFur 1 (hBase 1 + 4) 0 [] (fireFur 0 (hBase 0 + 4) 0 [] (modBank b (mark true) t)))
  else answered c p stOk (toLE 4 (if t.hl.lead = 0 then ca else cb) ++ toLE 1 b ++ zeros 3) (modBank b (mark false) t)

/-- A stage of the inactive bank, loaded. -/
def stageLoaded (n : Nat) (p : Packet) (t : State) : State :=
  harrowLoaded specHarrowStageLoad p (fun x => stageCrc (tget {} x.stages n))
    (fun bad x => { x with stages := tmod {} x.stages n (fun st => { st with inconsistent := bad }) }) t

/-- A running Tine stands at an instruction word: the activation, and the budget of its program. A wait that ends now leaves budget. -/
def tineAt (s : State) (n t : Nat) (a : Act) (w : Nat) : Prop :=
  s.clk.coreStopped = false ∧ act? s n t = some a ∧ a.phase = 0 ∧ a.pc + 4 ≤ (area (bed s n) a.area).code.length ∧ le (area (bed s n) a.area).code a.pc 4 = w ∧
  (a.stall = 0 ∨ cyclesBefore s a < (progOf s n a).budget)

/-- What a Tine leaves after an instruction of some cycles: the activation with its cycles counted, sampled, at the edge at which they end. -/
def tineWent (n t w cost : Nat) (a a1 : Act) (s s1 : State) : State :=
  let c := cyclesBefore s a + cost
  setAct n t { a1 with cycles := c, stall := 0 } (sample n t a w (c - a.cycles) cost a.stall (cycleEdge a c) (reachEdge (cycleEdge a c) s1))

/-- The same for an instruction that changes nothing but its activation, and goes on at the next one. -/
def tineNext (n t w cost : Nat) (a a1 : Act) (s : State) : State := tineWent n t w cost a { a1 with pc := a.pc + 4 } s s

end Sys2Proof.Machine

open Sys2Proof Sys2Proof.Machine

/-- A step runs the command at the front of the queue. For every command c, state s and queue rest: a step of s with c in front of rest is exec of c
on s with the queue rest. -/
def Obligations.StepRunsTheFrontCommand : Prop := ∀ (c : Instr) (s : State) (rest : List Instr),
  step { s with pending := c :: rest } = exec c { s with pending := rest }

/-- No command faults and none is refused: every command on every state has a next state, and so has every step. For every command c and state s there
is a state t with exec c s = next t that has the queue of s; for every state s the step answers a next state, so no run of the machine stops. That
every arm has a meaning and that the model stops nowhere is the model's own property (NOTES.md, Stops), read from the device's own rule that a failed
check answers a status and that nothing but reset stops the device. -/
def Obligations.EveryCommandGoesOn : Prop :=
  (∀ (c : Instr) (s : State), ∃ t, exec c s = .next t) ∧ (∀ s : State, goesOn s) ∧
  (∀ (n : Nat) (s : State), ∃ t, Sys2Proof.core.run n s = .next t)

/-- Every step keeps the canonical form of the tables, a device state of R58, furrow states of R392 and a lead that is a furrow. If State.wf s holds
and the step of s answers next t, then State.wf t holds: every sparse table of t lists rising indexes and no default, retained memory lists only
addresses below 8,192, the state code is one of 0x00 to 0x06, each furrow state code one of 0x00 to 0x04, and the lead is furrow A or B. It holds for
every command and for the step on an empty queue. -/
def Obligations.EveryStepKeepsTheDeviceWellFormed : Prop := ∀ (s t : State), State.wf s = true → step s = .next t → State.wf t = true

/-- No step clears a burnt option bit or changes the part, the serial number or the fused trim rows. If State.wf s holds and the step of s answers
next t, then every bit that reads 1 in any of the three copies of the burn record or of the option row of a generation in s reads 1 in t, and the
part, the serial number and the three copies of both trim rows are those of s. It holds for every command, a reset and a burn included, and for the
step on an empty queue. -/
def Obligations.BurntBitsAndIdentityAreNeverChanged : Prop := ∀ (s t : State), State.wf s = true → step s = .next t →
  (∀ (g i : Nat),
    (((tget {} s.nv.gens g).rec0.testBit i = true → (tget {} t.nv.gens g).rec0.testBit i = true) ∧
     ((tget {} s.nv.gens g).rec1.testBit i = true → (tget {} t.nv.gens g).rec1.testBit i = true) ∧
     ((tget {} s.nv.gens g).rec2.testBit i = true → (tget {} t.nv.gens g).rec2.testBit i = true)) ∧
    (((tget {} s.nv.gens g).row0.testBit i = true → (tget {} t.nv.gens g).row0.testBit i = true) ∧
     ((tget {} s.nv.gens g).row1.testBit i = true → (tget {} t.nv.gens g).row1.testBit i = true) ∧
     ((tget {} s.nv.gens g).row2.testBit i = true → (tget {} t.nv.gens g).row2.testBit i = true))) ∧
  t.nv.part = s.nv.part ∧ t.nv.serial = s.nv.serial ∧ t.nv.trimIds = s.nv.trimIds ∧ t.nv.trimCal = s.nv.trimCal

/-- No command adds to, takes from or reorders the commands that wait behind it. If State.wf s holds and exec c s = next t, then the queue of t is
that of s. So a step of a state whose queue is c followed by rest leaves the queue rest, and a step on an empty queue leaves it empty. -/
def Obligations.CommandsLeaveTheQueueInOrder : Prop :=
  (∀ (c : Instr) (s t : State), State.wf s = true → exec c s = .next t → t.pending = s.pending) ∧
  (∀ (s t : State), State.wf s = true → step s = .next t → t.pending = s.pending.tail)

/-- OPEN_SESSION opens the lowest free slot with the highest common version, and its identifier is generation x 4 + slot. An OPEN_SESSION packet that
is served, asks OBSERVE or OPERATE with a valid IDLE_TIMEOUT, names a version range in which v is the highest version of the device, and finds no
session on its endpoint and k the lowest free slot, gets OK with the 12-byte reply of R74; slot k then holds an open session of that version,
privilege, idle time and endpoint, whose generation is 1 more than the last, and 1 after 63; every other slot and every other component of the state
is as on the state that it reached, and the reply carries the new identifier. The same holds for MAINTAIN with the authorization code whose digest the
option rows hold, which also resets the mismatch count. -/
def Obligations.SessionsOpenInTheLowestFreeSlot : Prop := ∀ (p : Packet) (s : State) (v k : Nat),
  let r := reached specOpenSession p s
  let b := p.params
  let g := if 63 ≤ (session r k).gen then 1 else (session r k).gen + 1
  let n := (r.cp.opens + 1) % 65536
  let tag := n * 65536 + transportCode p.src * 256 + (g * 4 + k)
  let x : Session := { isOpen := true, gen := g, endpoint := p.src, verMajor := v / 256, verMinor := v % 256, priv := byteAt b 4,
                       idle := le b 6 2, lastPacket := r.clk.edges, identity := tag }
  let mis := if byteAt b 4 = 2 then 0 else r.cp.mismatch
  accepts specOpenSession p s = true → byteAt b 5 = 0 → le b 6 2 ≤ 3600 → (le b 6 2 ≠ 0 ∨ transportCode p.src = 1) →
  versions.find? (fun v => byteAt b 0 * 256 + byteAt b 1 ≤ v && v ≤ byteAt b 2 * 256 + byteAt b 3) = some v →
  (∀ j, j < 4 → ¬((session r j).isOpen = true ∧ (session r j).endpoint = p.src)) → freeSlot r = some k →
  (byteAt b 4 ≤ 1 ∨ (byteAt b 4 = 2 ∧ lockedOut r = false ∧ sha256 (slice b 8 16) / 2 ^ 128 = optMaint r)) →
  exec (.openSession p) s =
    .next (respond { ticketFor specOpenSession (asked specOpenSession p) with session := g * 4 + k } 0x80 stOk 0
      (toLE 1 (v / 256) ++ toLE 1 (v % 256) ++ toLE 1 (byteAt b 4) ++ toLE 1 k ++ toLE 2 256 ++ zeros 2 ++ toLE 4 tag)
      { r with cp := { r.cp with opens := n, mismatch := mis, sessions := tset {} r.cp.sessions k x } })

/-- GET_IDENTITY, GET_STATE, ECHO, CONFIG_DIGEST and THERMAL_STATUS answer from the state and change nothing but the reply side. A served GET_STATE
answers OK with 12 bytes: the state code, the SAFE cause in SAFE and else 0, the profile, 0, and the T64 time of the last state change. A served
GET_IDENTITY answers 32 bytes: part code, 0xB1, 0, firmware version, 0x0200, 0x0302, generation in use, fallback bit, 0, serial number, build time. A
served ECHO answers its parameters. A served CONFIG_DIGEST answers the time, the window digest, 4 zero bytes and the digests of ports 0 to 63, which
are 0 for a port that is absent or not configured. A served THERMAL_STATUS answers the sensor count 8, the bits of the two points, eight sensors, the
highest reading, the rails (0 for one of an unpowered island), the seconds at or above 105 degrees and above 115 degrees, and the time of the reading.
In each case the state under the reply is the one that the packet reached. -/
def Obligations.ReadingTheDeviceChangesNothing : Prop :=
  (∀ (p : Packet) (s : State), let r := reached specGetState p s; accepts specGetState p s = true →
    exec (.getState p) s = .next (answered specGetState p stOk
      (toLE 1 r.dev.state ++ toLE 1 (if r.dev.state = 6 then r.dev.safeCause else 0) ++ toLE 1 r.dev.profile ++ zeros 1 ++ toLE 8 r.dev.lastChange) r)) ∧
  (∀ (p : Packet) (s : State), let r := reached specGetIdentity p s; accepts specGetIdentity p s = true →
    exec (.getIdentity p) s = .next (answered specGetIdentity p stOk
      (toLE 2 (match r.nv.part with | .cz6416 => 0x6416 | .cz6408 => 0x6408) ++ toLE 1 0xB1 ++ zeros 1 ++ toLE 4 r.cp.fwVersion ++ toLE 2 0x0200 ++
        toLE 2 0x0302 ++ toLE 1 r.opt.use ++ toLE 1 (b2n r.opt.fallback) ++ zeros 2 ++ toLE 8 r.nv.serial ++ toLE 8 r.cp.buildTime) r)) ∧
  (∀ (p : Packet) (s : State), accepts specEcho p s = true →
    exec (.echo p) s = .next (answered specEcho p stOk p.params (reached specEcho p s))) ∧
  (∀ (p : Packet) (s : State), let r := reached specConfigDigest p s; accepts specConfigDigest p s = true →
    exec (.configDigest p) s = .next (answered specConfigDigest p stOk
      (toLE 8 (nowT64 r) ++ toLE 4 (windowDigest r) ++ zeros 4 ++ (List.range 64).flatMap (fun n => toLE 4 (portDigest r n))) r)) ∧
  (∀ (s : State) (n : Nat), (nPorts s ≤ n ∨ (port s n).cfg.configured = false) → portDigest s n = 0) ∧
  (∀ (p : Packet) (s : State), let r := reached specThermalStatus p s; accepts specThermalStatus p s = true →
    let point := fun (n : Nat) => b2n (((List.range 8).map (sensor r)).any (fun x => decide ((16 * n : Nat) ≤ x)))
    exec (.thermalStatus p) s = .next (answered specThermalStatus p stOk
      (toLE 1 8 ++ toLE 1 (point 105 + 2 * point 115) ++ zeros 2 ++ ((List.range 8).map (sensor r)).flatMap (fun x => toLE 2 (unsigned 16 x)) ++
        toLE 2 (unsigned 16 r.therm.highest) ++ zeros 2 ++ toLE 2 (if powered r 0 then r.sup.mvFa else 0) ++
        toLE 2 (if powered r 1 then r.sup.mvFb else 0) ++ toLE 2 r.sup.mvSh ++ toLE 2 r.sup.mvBak ++ toLE 4 (r.therm.ms105 / 1000) ++
        toLE 4 (r.therm.ms115 / 1000) ++ toLE 8 r.therm.readT) r))

/-- CLOSE_SESSION, IDLE_TIMEOUT, MAINTAIN_LOCKOUT_END, CP_RELOAD and CP_RELOAD_DONE do what they name. A served CLOSE_SESSION is answered OK with its
session marked, and a marked session closes once no reply of OK to its CLOSE_SESSION stands unwritten: where the transport has taken it, that is at
once. IDLE_TIMEOUT of a slot whose session is open and has an idle time moves the clock to the end of that time, closes the session and fires 0x3C3.
MAINTAIN_LOCKOUT_END ends the lock-out at its edge. CP_RELOAD on a running command processor with no other command outstanding in any session, no
final reply unwritten and none waiting but OPEN_SESSION is answered OK; on a halted one it is answered OK by the front end after checks 1 to 7. The
reload starts when that reply is written, at once where no path holds it. A started reload closes every session, empties the front end, and leaves the
device state, the ports, both furrows, the frames and the Granary unchanged. CP_RELOAD_DONE starts an image as the boot ROM does and reports it with
0x3C0, cause 3 or 4. -/
def Obligations.SessionsCloseAndReloadsRun : Prop :=
  (∀ (p : Packet) (s : State), let r := reached specCloseSession p s; accepts specCloseSession p s = true →
    exec (.closeSession p) s = .next (settleClosings (answered specCloseSession p stOk []
      (modSession (p.session % 4) (fun x => { x with closing := true }) r)))) ∧
  (∀ (k : Nat) (s : State), State.wf s = true → k < 4 → (session s k).closing = true →
    (unwritten s (sessionId s k) (session s k).endpoint).any closesSession = false →
    (∀ j, j < 4 → j ≠ k → (session s j).closing = false) → settleClosings s = closeSession k s) ∧
  (∀ (k : Nat) (s : State), s.clk.coreStopped = false → k < 4 → (session s k).isOpen = true → (session s k).idle ≠ 0 →
    exec (.idleTimeout k) s =
      .next (fire 0x3C3 0x01 [] (closeSession k (reachEdge ((session s k).lastPacket + (session s k).idle * secE) s)))) ∧
  (∀ (e : Nat) (s : State), s.clk.coreStopped = false → s.cp.lockUntil = some e →
    exec .maintainLockoutEnd s = .next { reachEdge e s with cp := { s.cp with lockUntil := none } }) ∧
  (∀ (p : Packet) (s : State), let r := reached specCpReload p s; accepts specCpReload p s = true → s.cp.halted = false →
    (∀ k, k < 4 → slotBusy r k = false) → (∀ q ∈ r.cp.waiting, q.opcode = 0x0101) →
    let t := answered specCpReload p stOk [] { r with cp := { r.cp with reloadAsked := true } }
    exec (.cpReload p) s = .next (if reloadDue t then startReload t else t)) ∧
  (∀ (p : Packet) (s : State), let r := reached specCpReload p s; serving s = true → s.cp.halted = true → s.cp.reloadAsked = false →
    frontCheck specCpReload (asked specCpReload p) r = none →
    let t := answered specCpReload p stOk [] { r with cp := { r.cp with reloadAsked := true } }
    exec (.cpReload p) s = .next (if reloadDue t then startReload t else t)) ∧
  (∀ (s : State), let t := startReload s
    t.cp.waiting = [] ∧ t.cp.reloadAsked = false ∧ t.cp.running = false ∧ t.cp.halted = false ∧ t.cp.reloading = true ∧ t.dev = s.dev ∧ t.ports = s.ports ∧ t.fa = s.fa ∧
    t.fb = s.fb ∧ t.frames = s.frames ∧ t.gran = s.gran ∧ t.hl = s.hl ∧ t.deep = s.deep) ∧
  (∀ (a b : Option (List Byte)) (s : State), s.clk.coreStopped = false → s.cp.reloading = true →
    exec (.cpReloadDone a b) s = .next (bootEvent 3 4 { startImage a b s with cp := { (startImage a b s).cp with reloading := false } }))

/-- SET_STATE makes the transitions of its table, and check 8 refuses every other one first by legality, then by privilege. While no transition to
CONFIG trains, a served SET_STATE with its reserved bytes zero is answered OK with the previous state code and three zero bytes for: the present state
with PROFILE 0, no effect; CONFIG to CONFIG with PROFILE 1 or 2, the profile selected and the address, stream, multicast and key tables cleared;
CONFIG to RUN, the state RUN and every enabled port due to start; RUN to MAINTENANCE and, with no burn, image load or training, back, the state alone;
CONFIG, RUN or MAINTENANCE to SAFE, every port held down, cause 1. RUN or SAFE to CONFIG is answered ACCEPTED, on the state that its entry
into CONFIG leaves. What follows is the
COMPLETION of a transition whose channels need no training, and nothing where no transition waits. Check 8 passes a request for the present state; it
gives STATE_CONFLICT for a PROFILE in any other request than CONFIG to CONFIG, for a target that is not legal from the present state, and in SAFE with
another cause than 1; and a legal transition to MAINTENANCE or out of SAFE from a session below MAINTAIN gives PRIVILEGE. -/
def Obligations.SetStateFollowsItsTable : Prop :=
  (∀ (p : Packet) (s : State), let r := reached specSetState p s
    let goal := byteAt p.params 0
    let pr := byteAt p.params 1
    let prev := toLE 1 r.dev.state ++ zeros 3
    let say := fun t => exec (.setState p) s = .next (finishRetrain (answered specSetState p stOk prev t))
    acceptsBy checkTransition specSetState p s = true → s.dev.retrain = none → reservedAt p.params 2 2 = true →
    (goal = r.dev.state → pr = 0 → say r) ∧
    (r.dev.state = 3 → goal = 3 → pr ≠ 0 → say (eachTab clearTables { r with dev := { r.dev with profile := pr } })) ∧
    (r.dev.state = 3 → goal = 4 → say ((List.range (nPorts r)).foldl (fun s p => startDue p s) { r with dev := { r.dev with state := 4, lastChange := nowT64 r } })) ∧
    (r.dev.state = 4 → goal = 5 → say { r with dev := { r.dev with state := 5, lastChange := nowT64 r } }) ∧
    (r.dev.state = 5 → goal = 4 → r.nv.burn = none → r.imgLoad = none → r.deep.training = none →
      say { r with dev := { r.dev with state := 4, lastChange := nowT64 r } }) ∧
    ((r.dev.state = 3 ∨ r.dev.state = 4 ∨ r.dev.state = 5) → goal = 6 → let h := holdAll r
      say (setSafeField 1 { h with dev := { h.dev with state := 6, lastChange := nowT64 h, safeCause := 1 } })) ∧
    ((r.dev.state = 4 ∨ r.dev.state = 6) → goal = 3 → exec (.setState p) s =
      .next (finishRetrain (deferred specSetState p (toConfig (ticketFor specSetState (asked specSetState p)) r.dev.state r))))) ∧
  (∀ (s : State), s.dev.retrain = none → finishRetrain s = s) ∧
  (∀ (p : Packet) (x : Session) (s : State), let goal := byteAt p.params 0
    let pr := byteAt p.params 1
    let legal := (s.dev.state = 3 ∧ (pr = 0 ∧ (goal = 4 ∨ goal = 6) ∨ (pr = 1 ∨ pr = 2) ∧ goal = 3)) ∨
      (s.dev.state = 4 ∧ pr = 0 ∧ (goal = 3 ∨ goal = 5 ∨ goal = 6)) ∨ (s.dev.state = 5 ∧ pr = 0 ∧ (goal = 4 ∨ goal = 6)) ∨
      (s.dev.state = 6 ∧ s.dev.safeCause = 1 ∧ pr = 0 ∧ goal = 3)
    (goal = s.dev.state → pr = 0 → checkTransition p x s = none) ∧
    (¬(goal = s.dev.state ∧ pr = 0) → ¬legal → ∃ m, checkTransition p x s = some (stStateConflict, m)) ∧
    (legal → x.priv < 2 → (goal = 5 ∨ s.dev.state = 6) → checkTransition p x s = some (stPrivilege, 0)) ∧
    (legal → (2 ≤ x.priv ∨ (goal ≠ 5 ∧ s.dev.state ≠ 6)) → checkTransition p x s = none))

/-- A reset of 20 ns or more, or a power-on, takes the device to its reset state; fused, burnt and retained state stay. RESET_N_ASSERT of 20 ns or
more answers the reset state with the RESET_N cause noted; one of less than 5 ns changes nothing; between them it does the one or the other.
POWER_ON_DETECT answers the reset state with the power-on cause noted. The queue, the supplies, the sensors and their latches, the GPIO levels and
XTAL_FAL stay as they are, the option store too, save that a burn in progress ends with the bits burnt so far, and the retained memory and backup
registers, which are empty where POWER_ON_DETECT comes with the loss of VBAK and VDD_FAL. State.reset is well formed, with no command pending, no
frame, furrow A in the lead, FREE_RUN, every route 0x80FF, every gate open, EXPRESS_MASK 0xC0 and VERIFY_TIME 10 ms, every deficit 0, journal and deep
store regions off. What else State.reset holds where the spec gives no value is the model's choice (log 3), and so is what happens from 5 to 20 ns. -/
def Obligations.ResetClearsTheDevice : Prop :=
  (∀ (ns k part : Nat) (s : State), 20 ≤ ns → exec (.resetNAssert ns k part) s = .next (resetTo true s.dev.resetPor k part s)) ∧
  (∀ (ns k part : Nat) (s : State), ns < 5 → exec (.resetNAssert ns k part) s = .next s) ∧
  (∀ (ns k part : Nat) (s : State), 5 ≤ ns → ns < 20 → let u := { s with free := s.free + 1 }
    exec (.resetNAssert ns k part) s = .next u ∨ exec (.resetNAssert ns k part) s = .next (resetTo true s.dev.resetPor k part u)) ∧
  (∀ (k part : Nat) (s : State), exec (.powerOnDetect false k part) s = .next (resetTo s.dev.resetPin true k part s)) ∧
  (∀ (k part : Nat) (s : State), let t := resetTo s.dev.resetPin true k part s
    exec (.powerOnDetect true k part) s = .next { t with ret := { t.ret with mem := [], backup := [], bad := [], descs := [] } }) ∧
  (∀ (k part : Nat) (nv : NonVolatile), nv.burn = none → cutBurn k part nv = nv) ∧
  State.wf State.reset = true ∧ State.reset.pending = [] ∧ State.reset.frames = [] ∧ State.reset.hl.lead = 0 ∧ furState State.reset 0 = 0 ∧ furState State.reset 1 = 0 ∧
  State.reset.tim.state = 0 ∧ State.reset.ev.vecPend = 0 ∧ State.reset.jr.enable = false ∧ State.reset.jr.producer = 0 ∧ State.reset.jr.consumer = 0 ∧
  State.reset.deep.enables = 0 ∧ State.reset.deep.grain = none ∧ State.reset.shapers = [] ∧ State.reset.meters = [] ∧ State.reset.mirrors = [] ∧
  (∀ k, route State.reset k = 0x80FF) ∧ (∀ v, tget 0 State.reset.ev.holdoff v = 0) ∧
  (∀ p, let d := (port State.reset p).drill
    d.active = none ∧ gateStates State.reset p = 0xFF ∧ d.round = 0 ∧ (∀ k, tget 0 d.deficit k = 0) ∧ d.pre.express = 0xC0 ∧ d.pre.verifyTime = 10 ∧ d.pre.enable = false ∧
    preActive State.reset p = false ∧ d.buf = [] ∧ d.tx = none)

/-- The release of the domains runs its steps in order, from reset to CONFIG or SAFE, and stops where a PLL does not lock. With the step before it
done and the release not stopped, FALLOW_RELEASE with XTAL_FAL running samples the straps and records which reset it was; HEADLAND_RELEASE starts
Headland with its PLL locked, state OPTION_LOAD; OPTION_LOAD loads the options and opens the JTAG port only if no valid generation locks it;
CP_BOOT_START locks PLL_SH, starts the shared core clock and releases the command processor and PCIe, state CP_BOOT; FIRMWARE_AUTHENTICATED with an
image that the boot ROM accepts runs it; FURROW_DOMAIN_RELEASE with both rails in range and both PLLs locked releases both furrows with furrow A in
the lead; PORT_DOMAIN_RELEASE without a saved DRAM description finishes the release in CONFIG, or in SAFE with cause 2 if the options demand it, and
packets are served. RELEASE_PLL_TIMEOUT at step 2 or 4 stops the release. -/
def Obligations.ReleaseRunsStepByStep : Prop :=
  (∀ (bypass test : Bool) (bad : List Nat) (s : State), relReady s 0 = true → ∃ t, exec (.fallowRelease true bypass test bad) s = .next t ∧
    t.dev.relStep = 1 ∧ t.dev.lastReset = (if s.dev.resetPor then 1 else 2) ∧ t.dev.resetPin = false ∧ t.dev.resetPor = false ∧
    t.dev.strapBypass = bypass ∧ t.dev.strapTest = test ∧ t.clk.xtalOk = true ∧ t.dev.pins = none ∧ t.ports = s.ports ∧ t.nv = s.nv) ∧
  (∀ (s : State), relReady s 1 = true → exec .headlandRelease s = .next { s with
    clk := { s.clk with lockHl := true }
    hl := { s.hl with running := true, trailSeq := trailNext s }
    dev := { s.dev with relStep := 2, state := 1, lastChange := nowT64 s } }) ∧
  (∀ (s : State), relReady s 2 = true → exec .optionLoad s =
    .next { optionLoad s with dev := { s.dev with relStep := 3, jtagLimited := (optionLoad s).opt.debugLock } }) ∧
  (∀ (s : State), relReady s 3 = true → exec .cpBootStart s = .next { s with
    clk := { s.clk with lockSh := true, coreRunning := true }
    cp := { s.cp with released := true }
    pcie := { s.pcie with released := true }
    dev := { s.dev with relStep := 4, state := 2, lastChange := nowT64 s } }) ∧
  (∀ (a b : Option (List Byte)) (s : State), relReady s 4 = true → s.cp.halted = false → (bootChoice a b s).1 ≠ 3 →
    ∃ t, exec (.firmwareAuthenticated a b) s = .next t ∧ t.cp.running = true ∧ t.cp.halted = false ∧ t.cp.imageStarted = (bootChoice a b s).1 ∧
      t.cp.fwVersion = le ((if (bootChoice a b s).1 = 0 then a else b).getD []) 4 4 ∧ t.dev.relStep = 5) ∧
  (∀ (s : State), relReady s 5 = true → ∃ t, exec (.furrowDomainRelease true true true true) s = .next t ∧ t.fa.released = true ∧
    t.fb.released = true ∧ t.hl.lead = 0 ∧ t.dev.relStep = 6 ∧ t.hl.policy = bits s.opt.row 39 38 ∧ t.hl.stateA = s.hl.stateA ∧
    t.hl.stateB = s.hl.stateB ∧ t.clk.lockFa = true ∧ t.clk.lockFb = true) ∧
  (∀ (s : State), relReady s 6 = true → s.ret.descs = [] → s.deep.ch0.state ≠ 1 → s.deep.ch1.state ≠ 1 →
    ∃ t, exec .portDomainRelease s = .next t ∧ t.dev.relStep = 9 ∧ t.cp.serving = true ∧
      t.dev.state = (if s.opt.safeAfterBoot then 6 else 3) ∧ t.dev.safeCause = (if s.opt.safeAfterBoot then 2 else s.dev.safeCause) ∧
      t.dev.profile = (if bits s.opt.row 35 34 = 2 then 2 else 1)) ∧
  (∀ (s : State), s.dev.relStopped = false → (s.dev.relStep = 1 ∨ s.dev.relStep = 3) → exec .releasePllTimeout s =
    .next { advance (10 * msE) s with dev := { s.dev with relStopped := true } })

/-- Losses of the crystal, of a PLL, of a rail and of VBAK stop, alarm or report what they concern. Once the release has begun, the stop of XTAL_FAL,
with every PLL lock lost and Headland stopped, and, while PLL_SH holds lock, its lock loss put the device in SAFE with cause 3: the release and the
shared core stop, the command processor stops and packets are no longer served, both furrows are reset, no slice, core or Bed clock runs, every port
has both links down and no frame in transmission. From then on nothing that the stopped clocks time acts. A furrow's drill PLL that loses lock raises
alarm bit 3 of that furrow. The Headland PLL's loss stops Headland and fires 0x1E7. After step 6, a rail outside its range for 1 us, not yet alarmed,
raises alarm bit 4 of its furrow and fires 0x1E8. A rail above its range fires 0x3CB with its number, and VBAK below 1.50 V fires 0x3CC, each at most
once per second per rail. A fenced and powered island whose rail falls is unpowered, its PLL, core and slice clocks stopped, and all that it holds is
gone but its half of the records in the deep store. A lost deep store PLL fails every channel that has started. -/
def Obligations.ClockAndSupplyLossesTakeEffect : Prop :=
  (∀ (s : State), s.dev.relStep ≠ 0 → s.clk.xtalOk = true → exec .xtalFalStop s = .next (safeStop { s with
      clk := { s.clk with xtalOk := false, intOsc := true, lockSh := false, lockFa := false, lockFb := false, lockHl := false, lockDs := false }
      hl := { s.hl with running := false } })) ∧
  (∀ (s : State), s.clk.lockSh = true → exec .pllShLockLoss s = .next (safeStop { s with clk := { s.clk with lockSh := false } })) ∧
  (∀ (s : State), let t := safeStop s
    t.dev = { s.dev with state := 6, lastChange := nowT64 s, safeCause := 3, relStopped := true, retrain := none } ∧
    t.clk = { s.clk with coreStopped := true, edges := (s.clk.edges / 800 + 1) * 800 } ∧ t.mir = mirrorOf t ∧
    t.cp = { s.cp with running := false, serving := false, reloading := false, reloadAsked := false } ∧ t.fa = { s.fa with released := false } ∧ t.fb = { s.fb with released := false } ∧
    t.slices = { s.slices with running := 0, requested := 0, coreA := false, coreB := false, bedClocks := 0 } ∧
    t.ports = tmap {} s.ports (fun x => { x with link := { x.link with rxUp := false, txUp := false, phase := 0 }, drill := { x.drill with tx := none } }) ∧
    t.hl = s.hl ∧ t.frames = s.frames ∧ t.gran = s.gran ∧ t.nv = s.nv ∧ t.sup = s.sup ∧ t.deep = { s.deep with training := none } ∧ t.pending = s.pending) ∧
  (∀ (s : State), s.clk.coreStopped = true → let stays := fun i => exec i s = .next s
    stays .regionInitDone ∧ stays .tineImageVerified ∧ stays .stookTick ∧ stays .journalRecordWrite ∧ stays .bankSwapComplete ∧
    (∀ n, stays (.sliceClockStart n) ∧ stays (.bedWake n) ∧ stays (.imageActivationComplete n) ∧ stays (.activationStart n) ∧ stays (.deadlineFire n) ∧
      stays (.drillStartOpportunity n) ∧ stays (.modulePoll n none false) ∧ stays (.scheduledEventWake n)) ∧
    (∀ f, stays (.furrowCoreWakeForTimer f) ∧ stays (.crossbarMatch f []) ∧ ∀ u k, stays (.harrowDecision f u k)) ∧
    (∀ n d, stays (.cellRequest n d d)) ∧ (∀ u k, stays (.granaryAdmit u k) ∧ stays (.ptpMessageTx u k)) ∧
    (∀ c k later, stays (.refreshDue c k later)) ∧ (∀ c k p x y z, stays (.patrolRead c k p x y z))) ∧
  (∀ (s : State), s.clk.lockFa = true → exec (.furrowPllLockLoss .a) s =
    .next { s with clk := { s.clk with lockFa := false }, hl := { s.hl with alarmsA := setBit s.hl.alarmsA 3 true } }) ∧
  (∀ (s : State), s.clk.lockFb = true → exec (.furrowPllLockLoss .b) s =
    .next { s with clk := { s.clk with lockFb := false }, hl := { s.hl with alarmsB := setBit s.hl.alarmsB 3 true } }) ∧
  (∀ (s : State), s.clk.lockHl = true → exec .headlandPllLoss s =
    .next (fire 0x1E7 0x02 [] { s with clk := { s.clk with lockHl := false }, hl := { s.hl with running := false } })) ∧
  (∀ (s : State), 6 ≤ s.dev.relStep → s.hl.running = true → bit s.hl.alarmsA 4 = false → exec (.railMonitor .a) s =
    .next (fire 0x1E8 0 [] { s with sup := { s.sup with faOk := false }, hl := { s.hl with alarmsA := setBit s.hl.alarmsA 4 true } })) ∧
  (∀ (s : State), 6 ≤ s.dev.relStep → s.hl.running = true → bit s.hl.alarmsB 4 = false → exec (.railMonitor .b) s =
    .next (fire 0x1E8 0 [] { s with sup := { s.sup with fbOk := false }, hl := { s.hl with alarmsB := setBit s.hl.alarmsB 4 true } })) ∧
  (∀ (rail : Nat) (s : State), rail < 8 → s.dev.relStep ≠ 0 → limited (0x3CB + 1024 * rail) secE s = false →
    exec (.supplyOverRange rail) s = .next (fire 0x3CB 0 (toLE 1 rail)
      { s with ev := { s.ev with lastFire := tput s.ev.lastFire (0x3CB + 1024 * rail) s.clk.edges } })) ∧
  (∀ (s : State), s.dev.relStep ≠ 0 → limited 0x3CC secE s = false → exec .vbakLow s = .next (fire 0x3CC 0 []
      { s with ev := { s.ev with lastFire := tput s.ev.lastFire 0x3CC s.clk.edges } })) ∧
  (∀ (f : Furrow) (s : State), furState s (furNo f) = 1 → powered s (furNo f) = true → ∃ t, exec (.furrowRailLoss f) s = .next t ∧
    fur t (furNo f) = { released := (fur s (furNo f)).released, deepRecs := (fur s (furNo f)).deepRecs, harrowStale := true } ∧
    (∀ i, i < 4 → bit t.slices.running (4 + 4 * furNo f + i) = false) ∧
    (match f with
      | .a => t.sup = { s.sup with poweredA := false, faOk := false } ∧ t.clk = { s.clk with lockFa := false } ∧ t.slices.coreA = false
      | .b => t.sup = { s.sup with poweredB := false, fbOk := false } ∧ t.clk = { s.clk with lockFb := false } ∧ t.slices.coreB = false)) ∧
  (∀ (s : State), s.clk.lockDs = true → s.clk.coreStopped = true →
    exec .deepStorePllLockLoss s = .next { s with clk := { s.clk with lockDs := false } }) ∧
  (∀ (s : State), s.clk.lockDs = true → s.clk.coreStopped = false → ∃ t, exec .deepStorePllLockLoss s = .next t ∧ t.clk.lockDs = false ∧
    (∀ c, c < 2 → (chan t c).state = (if 2 ≤ (chan s c).state ∧ (chan s c).state ≤ 4 then 5 else (chan s c).state)))

/-- Sensor readings, the PCIe link, the wake controller, the fallow mirrors and the scrubber act as their commands say. THERMAL_SENSOR_UPDATE of eight
readings advances to 1 ms after the last one, takes the readings of rails and sensors, keeps the highest and counts the millisecond at or above 105
and above 115 degrees. A trained PCIe link is up, with 0x3CD where it was not, and the pending vectors that are no
longer masked are signalled. A lost link is down, the sessions of PCIe close and the shadow compare
is suspended, with 0x3CD; PERST of a link that is down resets the MSI-X capability, table and pending bits, with 0x3CD. SLICE_CLOCK_START runs the
requested clocks of a slice 160 ns after the first request, and its MACs drain their wake buffers; SLICE_FALLOW_EXPIRY stops a clock of a slice
without a port that never stops. BED_WAKE starts a stopped Bed that has work in a powered furrow; BED_FALLOW_STOP stops an idle one with no inline
program. FURROW_CORE_WAKE_FOR_TIMER starts a stopped core 2 us before the earliest deadline. SCHEDULED_EVENT_WAKE is activity of the port's slice 1 us
before its next gate transition or PTP transmission, and none without one. FALLOW_MIRROR_REFRESH moves to the next fallow clock edge and copies all
mirrors from one state. SCRUB_READ of a word with one or two wrong bits in a memory of a powered domain counts it corrected and changes nothing
else. -/
def Obligations.SensorsLinksAndWakesTakeEffect : Prop :=
  (∀ (temps : List Int) (mv : List Nat) (s : State), temps.length = 8 → Canon 0 s.therm.sensors = true →
    ∃ t, exec (.thermalSensorUpdate temps mv) s = .next t ∧
    (let top := temps.foldl max (temps.headD 0)
     t.therm.highest = (if s.therm.read then max s.therm.highest top else top) ∧ t.therm.read = true ∧
     t.therm.ms105 = s.therm.ms105 + b2n (decide (1680 ≤ top)) ∧ t.therm.ms115 = s.therm.ms115 + b2n (decide (1840 < top))) ∧
    (∀ i, i < 8 → sensor t i = temps.getD i 0) ∧ t.clk = (reachEdge (s.therm.readAt + msE) s).clk ∧
    t.sup = { s.sup with mvFa := mv.getD 0 s.sup.mvFa, mvFb := mv.getD 1 s.sup.mvFb, mvSh := mv.getD 2 s.sup.mvSh, mvBak := mv.getD 3 s.sup.mvBak } ∧
    t.dev = s.dev ∧ t.ports = s.ports ∧ t.cp = s.cp ∧ t.frames = s.frames ∧ t.hl = s.hl) ∧
  (∀ (enable mask : Bool) (s : State), s.pcie.released = true →
    let t := { s with pcie := { s.pcie with up := true, perst := false, msixEnable := enable, msixMaskAll := mask } }
    exec (.pcieLinkUp enable mask) s = .next (signalPending (if s.pcie.up then t else fire 0x3CD 0x01 [] t))) ∧
  (∀ (s : State), (∀ v, v < 64 → bit s.win.pba v = true → vecMasked s v = true) → signalPending s = s) ∧
  (∀ (s : State), s.pcie.up = true → exec .pcieLinkDown s = .next (fire 0x3CD 0x02 [] (shadowSuspend
    ((List.range 4).foldl (fun s k => if (session s k).isOpen && transportCode (session s k).endpoint == 1 then
      fire 0x3C3 0x02 [] (closeSession k s) else s) { s with pcie := { s.pcie with up := false } })))) ∧
  (∀ (s : State), s.pcie.released = true → s.pcie.perst = false → s.pcie.up = false → exec .pciePerst s = .next (fire 0x3CD 0x03 [] { s with
    pcie := { s.pcie with perst := true, msixEnable := false, msixMaskAll := false }
    win := { s.win with msix := [], pba := 0 } })) ∧
  (∀ (k : Nat) (s : State), s.clk.coreStopped = false → k < 4 → bit s.slices.requested k = true →
    let want := [k, k + 4, k + 8].filter (fun c => bit s.slices.requested c && !(c != k && !powered s (c / 4 - 1)))
    let at_ := reachEdge (want.foldl (fun e c => min e (tget 0 s.slices.reqAt c)) s.clk.edges + 200) s
    let u := { at_ with slices := { at_.slices with
      running := want.foldl (fun m c => setBit m c true) s.slices.running
      requested := want.foldl (fun m c => setBit m c false) s.slices.requested } }
    exec (.sliceClockStart k) s = .next ((List.range 16).foldl (fun s i => wakeDrain (16 * k + i) s)
      ((if want.contains (k + 8) then startCore 1 else id) ((if want.contains (k + 4) then startCore 0 else id) u)))) ∧
  (∀ (k d : Nat) (s : State), s.clk.coreStopped = false → k < 12 → bit s.slices.running k = true → sliceDelay s k = some d →
    let u := reachEdge (tget 0 s.slices.last k + d * usE) s
    let v := { u with slices := { u.slices with running := setBit s.slices.running k false } }
    exec (.sliceFallowExpiry k) s = .next (if k < 4 then v else coreIdle (k / 4 - 1) v)) ∧
  (∀ (n : Nat) (s : State), s.clk.coreStopped = false → n < 16 → bit s.slices.bedClocks n = false → powered s (bedFur n) = true → (bed s n).queue ≠ [] →
    let u := startCore (bedFur n) s
    exec (.bedWake n) s = .next { u with slices := { u.slices with bedClocks := setBit u.slices.bedClocks n true } }) ∧
  (∀ (n : Nat) (s : State), s.clk.coreStopped = false → bit s.slices.bedClocks n = true → (bed s n).queue = [] → (bed s n).tines = [] → bedInline (bed s n) = false →
    exec (.bedFallowStop n) s =
      .next (coreIdle (bedFur n) { s with slices := { s.slices with bedClocks := setBit s.slices.bedClocks n false } })) ∧
  (∀ (f : Furrow) (d : Nat) (s : State), s.clk.coreStopped = false → (if furNo f = 0 then s.slices.coreA else s.slices.coreB) = false → decides s (furNo f) = true →
    earliest s (furNo f) = some d → exec (.furrowCoreWakeForTimer f) s = .next (startCore (furNo f) (reachNs (d - 2000) s))) ∧
  (∀ (p : Nat) (s : State), s.clk.coreStopped = false → (∀ e, nextScheduled s p = some e → exec (.scheduledEventWake p) s = .next (touchPort p false (reachEdge (e - usE) s))) ∧
    (nextScheduled s p = none → exec (.scheduledEventWake p) s = .next s)) ∧
  (∀ (s : State), s.dev.relStep ≠ 0 → let u := reachEdge ((s.clk.edges / 800 + 1) * 800) s
    exec .fallowMirrorRefresh s = .next { u with mir := mirrorOf u }) ∧
  (∀ (mem loc kind n : Nat) (s : State), mem < 33 → (n = 1 ∨ n = 2) → s.clk.coreStopped = false → (∀ f, islandOf mem = some f → powered s f = true) →
    exec (.scrubRead mem loc kind n) s = .next { s with
      memErr := csat s.memErr (2 * mem) 1, corr48 := tset 0 s.corr48 mem ((tget 0 s.corr48 mem + 1) % 2 ^ 48) })

/-- Link, bring-up, retraining, adaptation and FEC events change the link state of their port as given. LINK_UP by which the last lane of a configured
port without an external PHY gains lock, seeking lock in a state that forwards, brings both links up, gives the result of the bring-up (0 without
stepping, 1 for a stepped rate, 2 at MODE), clears the failure report, fires the up cause and starts verification anew. LINK_DOWN of the transmit link
alone takes the transmit link down; of the receive link reported by the PHY, the receive link; by what a lane hears, it leaves the receive links of
the lane's ports where the port keeps its lock, and else takes them down and counts a link loss where one was up; so does what a lane hears as a link
comes up. BRINGUP_START of a port due runs the bring-up; AUTONEG_COMPLETE with the step message sends the device's two pages and moves to the highest
common rate, and to MODE without one, and moves to MODE without the base page's Next Page or with another message code (with a Null page), a lane
whose MODE is 1000BASE-X staying as it is; STEP_WAIT_EXPIRY moves to MODE at its time; STEP_FAIL_TIMEOUT reports the failure of a move to MODE and
waits to restart; BRINGUP_RESTART runs the bring-up 1 s later. PHY_POLL, 10 ms after the last, records bit 2 of what it reads, and takes the receive
link down where it is clear or unanswered. RETRAIN counts its symbol errors on a lane in lock; up to 32 within 1 ms do no more, and more, on a lane
that carries one port and was not retrained, fire cause 2, unlock the lane, send an adaptive CTLE to step 6 and take the port's receive link down.
ADAPTATION_FREEZE freezes an adaptive lane below its density, its event fired where it was not frozen; ADAPTATION_RESUME of a frozen lane counts good
blocks and ends the freeze at 4,096, with the step then reached. FEC_DEGRADE_WINDOW counts the window's symbol errors; with FEC it ends 1 ms after the
last one and also counts its codewords, fires where it is the first over the limit, and arms that again where it is not. LANE_EYE_DONE completes
LANE_EYE. -/
def Obligations.LinksComeUpAndGoDown : Prop :=
  (∀ (p speed m : Nat) (headers : List Nat) (sync : Bool) (step : Nat) (s : State), s.clk.coreStopped = false → let x := port s p
    let s1 := modLane m (fun x => { laneHears (modeOf s p) true sync headers 0 x with step := if x.fixed || x.frozen then x.step else step }) s
    x.cfg.configured = true → forwarding s = true → (x.link.phase = 2 ∨ x.link.phase = 3) → x.link.heldDown = false → m ∈ lanesOf s p →
    portLocked s1 p = true → phyMode x.cfg.mode = false → x.link.rxUp = false →
    exec (.linkUp p ⟨speed, m, headers, sync, step⟩) s = .next (verifyStart p (fire (4 * p) 0x01 [] (modLink p (fun l => { l with
      rxUp := true, txUp := true, phase := 3, failReported := false, lastChange := nowT64 s, fault := 0
      result := if stepping x.cfg then (if x.link.chosen = 0 then 2 else 1) else 0 }) s1)))) ∧
  (∀ (p m ber : Nat) (phy signal sync : Bool) (headers : List Nat) (s : State), s.clk.coreStopped = false → p < nPorts s →
    let s1 := modLane m (laneHears (modeOf s p) signal sync headers ber) s
    exec (.linkDown p false phy ⟨m, signal, sync, headers, ber⟩) s = .next (txDown p s) ∧
    exec (.linkDown p true true ⟨m, signal, sync, headers, ber⟩) s = .next (rxDown p true s) ∧
    (m ∈ lanesOf s p → exec (.linkDown p true false ⟨m, signal, sync, headers, ber⟩) s =
      .next (if portLocked s1 p then s1 else (lanePorts s1 p).foldl (fun t q => rxDown q false t)
        (if (lanePorts s1 p).any (fun q => (port s1 q).link.rxUp) then macCtr (laneCtrPort s1 ((lanePorts s1 p).headD 0)) 48 1 s1 else s1)))) ∧
  (∀ (p speed m : Nat) (headers : List Nat) (sync : Bool) (step : Nat) (s : State), s.clk.coreStopped = false → let x := port s p
    let s1 := modLane m (fun x => { laneHears (modeOf s p) true sync headers 0 x with step := if x.fixed || x.frozen then x.step else step }) s
    x.cfg.configured = true → forwarding s = true → (x.link.phase = 2 ∨ x.link.phase = 3) → x.link.heldDown = false → m ∈ lanesOf s p →
    portLocked s1 p = false → exec (.linkUp p ⟨speed, m, headers, sync, step⟩) s = .next (laneDown (lanePorts s1 p) s1)) ∧
  (∀ (p : Nat) (s : State), s.clk.coreStopped = false → (port s p).link.phase = 5 → mayStart s p = true → exec (.bringupStart p) s = .next (bringUp p s)) ∧
  (∀ (p mask : Nat) (s : State), s.clk.coreStopped = false → (port s p).link.phase = 1 →
    (let s1 := modLink p (fun l => { l with partnerMask := mask % 64 })
        (emitOut (.control p (toBE 2 (port s p).link.offered)) (emitOut (.control p (toBE 2 0xA4F5)) s))
     exec (.autonegComplete p true 0x4F5 mask) s = .next (match ((List.range 6).reverse).find? (bit (mask % 64 &&& (port s p).link.offered)) with
       | some b => moveTo p (rateMode b).1 (rateMode b).2 (b + 1) s1
       | none => moveToMode p s1)) ∧
    (∀ code, let own := fun (t : State) => if (port s p).cfg.mode = 2 then settleAt p 2 (port s p).cfg.fec 0 t else moveToMode p t
      exec (.autonegComplete p false code mask) s = .next (own s) ∧
      (code ≠ 0x4F5 → exec (.autonegComplete p true code mask) s =
        .next (own (emitOut (.control p (toBE 2 0x2001)) (emitOut (.control p (toBE 2 0xA4F5)) s))))) ∧
    exec (.stepWaitExpiry p) s = .next (moveToMode p (reachEdge ((port s p).link.since + (port s p).cfg.stepWait * msE) s))) ∧
  (∀ (p : Nat) (s : State), s.clk.coreStopped = false → let l := (port s p).link
    l.phase = 2 → l.rxUp = false → stepping (port s p).cfg = true → l.failReported = false → l.chosen = 0 →
    let u := reachEdge (l.since + 500 * msE) s
    let v := modLink p (fun l => { l with failReported := true, result := 4 }) (fire (0x100 + 2 * (lanesOf u p).headD p) 0x01 [] u)
    exec (.stepFailTimeout p) s = .next (modLink p (fun l => { l with phase := 4, since := v.clk.edges }) v)) ∧
  (∀ (p : Nat) (s : State), s.clk.coreStopped = false → (port s p).link.phase = 4 → mayStart s p = true →
    exec (.bringupRestart p) s = .next (bringUp p (reachEdge ((port s p).link.since + secE) s))) ∧
  (∀ (p : Nat) (status : Option Nat) (s : State), s.clk.coreStopped = false → (port s p).cfg.configured = true → (port s p).link.enabled = true → phyMode (port s p).cfg.mode = true →
    let u := reachEdge ((port s p).link.polledAt + 10 * msE) s
    let read := fun (up : Bool) => emitOut (.mdioRead (port s p).cfg.mdio (if (port s p).cfg.mode = 6 then 0x10001 else 1))
      (modLink p (fun l => { l with phyUp := up, polledAt := u.clk.edges }) u)
    (∀ v, bit v 2 = true → exec (.phyPoll p (some v)) s = .next (read true)) ∧
    (∀ v, bit v 2 = false → exec (.phyPoll p (some v)) s = .next (rxDown p true (read false))) ∧
    exec (.phyPoll p none) s = .next (rxDown p true (read false))) ∧
  (∀ (m n : Nat) (s : State), s.clk.coreStopped = false → n ≠ 0 → (lane s m).lock = true →
    let w := (lane s m).errs.filter (fun e => decide (s.clk.edges < e.1 + msE)) ++ [(s.clk.edges, n)]
    let p := (portsOfLane s m).headD m
    let s1 := modLane m (fun x => { x with errs := w }) (macCtr (laneCtrPort s p) 21 n s)
    ((w.map (·.2)).sum ≤ 32 → exec (.retrain m n) s = .next s1) ∧
    (32 < (w.map (·.2)).sum → portsOfLane s1 m = [p] → (∀ e ∈ (port s1 p).link.retrains, e + secE ≤ s1.clk.edges) →
      let s2 := fire (0x100 + 2 * m) 0x02 [] (macCtr (laneCtrPort s1 p) 49 1 s1)
      let s3 := laneDown [p] (modLane m (fun x =>
        { unlock x with step := if x.fixed then x.step else 6, frozen := false, goodBlocks := 0, errs := [] }) s2)
      exec (.retrain m n) s = .next (modLink p (fun x => { x with retrains := [s1.clk.edges] }) s3))) ∧
  (∀ (m n : Nat) (s : State), s.clk.coreStopped = false → (lane s m).fixed = false → n * 20 < (lane s m).density * 1024 →
    let t := modLane m (fun x => { x with frozen := true, goodBlocks := 0 }) s
    exec (.adaptationFreeze m n) s = .next (if (lane s m).frozen then t else fire (0x100 + 2 * m) 0x03 [] t)) ∧
  (∀ (m n step : Nat) (s : State), s.clk.coreStopped = false → (lane s m).frozen = true → exec (.adaptationResume m ⟨n, step⟩) s = .next (modLane m (fun x =>
    if x.frozen && decide (x.goodBlocks + n < 4096) then { x with goodBlocks := x.goodBlocks + n }
    else { x with frozen := false, goodBlocks := 0, step := if x.fixed then x.step else step }) s)) ∧
  (∀ (p c u y : Nat) (s : State), s.clk.coreStopped = false → let m := (lanesOf s p).headD p
    let s0 := reachEdge ((port s p).link.fecFrom + msE) s
    let s2 := macCtr (laneCtrPort s0 p) 28 u (macCtr (laneCtrPort s0 p) 27 c (symbolErrors m y s0))
    ((port s p).link.runFec = 0 → exec (.fecDegradeWindow p c u y) s = .next (symbolErrors m y s)) ∧
    ((port s p).link.runFec ≠ 0 → u = 0 → c ≤ (port s p).cfg.fecLimit →
      exec (.fecDegradeWindow p c u y) s = .next (modLink p (fun l => { l with fecArmed := true, fecFrom := s0.clk.edges }) s2)) ∧
    ((port s p).link.runFec ≠ 0 → (port s p).link.fecArmed = true → (u ≠ 0 ∨ (port s p).cfg.fecLimit < c) →
      exec (.fecDegradeWindow p c u y) s =
        .next (fire (4 * p + 1) 0 [] (modLink p (fun l => { l with fecArmed := false, fecFrom := s0.clk.edges }) s2)))) ∧
  (∀ (m height width errors : Nat) (k : Ticket) (s : State), s.clk.coreStopped = false → (lane s m).eye = some k → exec (.laneEyeDone m height width errors) s =
    .next (complete k stOk (toLE 2 height ++ toLE 2 width ++ toLE 4 errors ++ zeros 4) (modLane m (fun x => { x with eye := none }) s)))

/-- PORT_CONFIGURE, PORT_ENABLE, PORT_STATUS, LANE_TUNE, LANE_EYE, MAC_FILTER_SET and MAC_STATS_READ act on their port or lane, whose slice they wake. A
served PORT_CONFIGURE with valid fields, of a port that is disabled and whose lane belongs to no other port, gives the port that configuration with OK,
where neither the old mode nor the new is QSGMII; in a mode change to QSGMII the three other ports of the lane take it too. PORT_ENABLE of a
configured port that is disabled enables it and makes it due to start where it may; of one that is enabled disables it and holds it down; of one
already as asked is OK without effect. PORT_STATUS of a port that is not configured answers 40 zero bytes, and of one that is, its link bits, mode,
FEC, bring-up result, partner mask, speed, lock and freeze masks, CTLE steps, pause mask, last change and counts. LANE_TUNE sets the CTLE, density and
FFE of its lane. LANE_EYE of a lane with no measurement under way is ACCEPTED. MAC_FILTER_SET sets one entry of the port's filter. MAC_STATS_READ
answers the time and the counters asked for, less what its CLEAR has counted off, and CLEAR counts them off. -/
def Obligations.PortCommandsTakeEffect : Prop :=
  (∀ (p : Packet) (s : State), let r := reached specPortConfigure p s
    let n := byteAt p.params 0
    let c := portBlock p.params
    let t := configurePort n c (touchPort n true r)
    accepts specPortConfigure p s = true → firstBad (portChecks r p.params) = none → (port r n).link.enabled = false →
    laneOwners r n (byteAt p.params 1) = [] → ¬((port r n).cfg.configured = true ∧ (port r n).cfg.mode = 5) →
    (byteAt p.params 1 ≠ 5 → exec (.portConfigure p) s = .next (answered specPortConfigure p stOk [] t)) ∧
    (byteAt p.params 1 = 5 → n % 4 = 0 → exec (.portConfigure p) s = .next (answered specPortConfigure p stOk []
      (configurePort (n + 3) c (configurePort (n + 2) c (configurePort (n + 1) c t)))))) ∧
  (∀ (p : Packet) (s : State), let r := reached specPortEnable p s
    let n := byteAt p.params 0
    let on := byteAt p.params 1 == 1
    accepts specPortEnable p s = true → portExists r n = true → byteAt p.params 1 < 2 → reservedAt p.params 2 2 = true → (port r n).cfg.configured = true →
    exec (.portEnable p) s = .next (answered specPortEnable p stOk [] (if (port r n).link.enabled = on then r
      else (if on then startDue n else holdPort n) (modLink n (fun l => { l with enabled := on }) (touchPort n true (creditPort n r)))))) ∧
  (∀ (p : Packet) (s : State), let r := reached specPortStatus p s
    let n := byteAt p.params 0
    let l := (port r n).link
    let ls := (lanesOf r n).map (lane r)
    let set := fun (g : Lane → Bool) => (ls.zipIdx.filter (fun e => g e.1)).foldl (fun k e => k + 2 ^ e.2) 0
    let count := fun k => toLE 4 (tget 0 (port r (laneCtrPort r n)).mac.ctr k)
    accepts specPortStatus p s = true → portExists r n = true → reservedAt p.params 1 3 = true →
    ((port r n).cfg.configured = false → exec (.portStatus p) s = .next (answered specPortStatus p stOk (zeros 40) (touchPort n true r))) ∧
    ((port r n).cfg.configured = true → exec (.portStatus p) s = .next (answered specPortStatus p stOk
      (toLE 1 (b2n l.rxUp + 2 * b2n l.txUp + 4 * b2n (shownHeld r n) + 8 * b2n l.enabled) ++ toLE 1 (modeOf r n) ++
        toLE 1 (if l.runMode = 0 then (port r n).cfg.fec else l.runFec) ++ toLE 1 l.result ++ toLE 1 l.partnerMask ++
        toLE 1 (if phyMode (port r n).cfg.mode then l.speed else 0) ++ toLE 1 (set (·.lock)) ++ toLE 1 (set (·.frozen)) ++
        slice (ls.flatMap (fun y => toLE 1 y.step)) 0 4 ++ toLE 1 (maskOf ((List.range 7).filter (paused r n))) ++ zeros 3 ++ toLE 8 l.lastChange ++
        count 49 ++ count 27 ++ count 28 ++ zeros 4) (touchPort n true r)))) ∧
  (∀ (p : Packet) (s : State), let r := reached specLaneTune p s
    let b := p.params
    let m := byteAt b 0
    accepts specLaneTune p s = true → laneExists r m = true → laneUsed_ r m = true → byteAt b 1 < 2 → byteAt b 2 < 16 → 1 ≤ byteAt b 3 → byteAt b 3 ≤ 10 →
    byteAt b 4 ≤ 16 → 32 ≤ byteAt b 5 → byteAt b 5 ≤ 64 → byteAt b 6 ≤ 24 → byteAt b 4 + byteAt b 5 + byteAt b 6 ≤ 64 → reservedAt b 7 5 = true →
    exec (.laneTune p) s = .next (answered specLaneTune p stOk [] (modLane m (fun x => { x with
      fixed := byteAt b 1 == 1, step := if byteAt b 1 == 1 then byteAt b 2 else x.step, density := byteAt b 3, pre := byteAt b 4, main := byteAt b 5
      post := byteAt b 6 }) ((portsOfLane r m).foldl (fun s q => touchPort q true s) r)))) ∧
  (∀ (p : Packet) (s : State), let r := reached specLaneEye p s
    let m := byteAt p.params 0
    accepts specLaneEye p s = true → laneExists r m = true → 1 ≤ byteAt p.params 1 → byteAt p.params 1 ≤ 100 → reservedAt p.params 2 2 = true →
    (lane r m).eye = none →
    exec (.laneEye p) s = .next (deferred specLaneEye p (modLane m (fun x => { x with eye := some (ticketFor specLaneEye (asked specLaneEye p)) })
      ((portsOfLane r m).foldl (fun s q => touchPort q true s) r)))) ∧
  (∀ (p : Packet) (s : State), let r := reached specMacFilterSet p s
    let b := p.params
    let n := byteAt b 0
    accepts specMacFilterSet p s = true → portExists r n = true → byteAt b 1 < 4 → byteAt b 2 < 2 → reservedAt b 3 1 = true → reservedAt b 10 2 = true →
    exec (.macFilterSet p) s = .next (answered specMacFilterSet p stOk [] (modPort n (fun x => { x with mac := { x.mac with
      filter := tset {} x.mac.filter (byteAt b 1) { valid := byteAt b 2 == 1, addr := be b 4 6 } } }) (touchPort n true r)))) ∧
  (∀ (p : Packet) (s : State), let r := reached specMacStatsRead p s
    let b := p.params
    let n := byteAt b 0
    let x := (port r n).mac
    let ks := (List.range (byteAt b 2)).map (byteAt b 1 + ·)
    accepts specMacStatsRead p s = true → portExists r n = true → byteAt b 1 < 50 → 1 ≤ byteAt b 2 → byteAt b 1 + byteAt b 2 ≤ 50 → byteAt b 3 < 2 →
    reservedAt b 4 4 = true →
    exec (.macStatsRead p) s = .next (answered specMacStatsRead p stOk
      (toLE 8 (nowT64 r) ++ ks.flatMap (fun k => toLE 4 ((tget 0 x.ctr k + 2 ^ 32 - tget 0 x.base k) % 2 ^ 32)))
      (touchPort n true (if byteAt b 3 = 1 then
        modPort n (fun y => { y with mac := { y.mac with base := ks.foldl (fun t k => tset 0 t k (tget 0 x.ctr k)) y.mac.base } }) r
       else r))))

/-- I2C recovery, module insertion and removal, identity reads and diagnostic samples act on the module of their cage. I2C_BUS_RECOVERY of a bus not
faulted sends the recovery; a failure is counted, the third one faults the bus, fires 0x09 for its eight cages and fails the writes asked of them, and
a success clears the count. I2C_RECOVERY_RETRY of a faulted bus sends it 10 s after the last attempt and clears the fault where it succeeds. The first
MODULE_POLL of a bus starts its master. MODULE_POLL of a served cage reads identifier byte 0 one second after the last poll: answered in an empty cage
it inserts the module and fires 0x01; of a module present it clears the misses; without an answer the first miss of a present module is counted and
the second removes it. MODULE_DATA_READY of a tracked module, at once or 2 s after its insertion, reads and keeps its identity, fires 0x03 on a bad
CC_BASE, disables the transmitters of lanes all of whose ports are down, and classifies its ledger, then asks for the ledger writes that commands
asked for before. DDM_SAMPLE acts one second after the last and credits the seconds; of a module with diagnostics on a bus not faulted it keeps the
calibrated measurements, fires 0x0A for new alarms, and takes the sample of the highest bias. -/
def Obligations.ModulesComeGoAndAreMeasured : Prop :=
  (∀ (k : Nat) (s : State), s.clk.coreStopped = false → k < 8 → (master s k).faulted = false → let t := emitOut (.i2cRecover k) s
    exec (.i2cBusRecovery k true) s = .next (modMaster k (fun m => { m with failed := 0 }) t) ∧
    exec (.i2cBusRecovery k false) s = .next (if (master s k).failed < 2 then modMaster k (fun m => { m with failed := m.failed + 1 }) t
      else (List.range 8).foldl (fun s i => failAsked (8 * k + i) (xcvrEvent (8 * k + i) 0x09 s))
        (modMaster k (fun m => { m with failed := 3, faulted := true, tryAt := t.clk.edges }) t))) ∧
  (∀ (k : Nat) (s : State), s.clk.coreStopped = false → (master s k).faulted = true → let t := emitOut (.i2cRecover k) (reachEdge ((master s k).tryAt + 10 * secE) s)
    exec (.i2cRecoveryRetry k true) s = .next (modMaster k (fun m => { m with failed := 0, faulted := false }) t) ∧
    exec (.i2cRecoveryRetry k false) s = .next (modMaster k (fun m => { m with tryAt := t.clk.edges }) t)) ∧
  (∀ (m i : Nat) (mux : Bool) (s : State), s.clk.coreStopped = false → m < nPorts s →
    let s1 := masterStart (m / 8) mux s
    let s2 := match (module s1 m).polledAt with | some e => reachEdge (e + secE) s1 | none => s1
    let t := i2cOp m (emitOut (.i2cRead m 0x50 0 1)) (modModule m (fun x => { x with polledAt := some s2.clk.edges }) s2)
    (cageServed s1 m = false → exec (.modulePoll m (some i) mux) s = .next s1) ∧
    (cageServed s1 m = true →
      ((module t m).present = false → exec (.modulePoll m (some i) mux) s = .next (xcvrEvent m 0x01 (modModule m (fun x => { x with
        present := true, identifier := i % 256, tracked := i % 256 == 0x03 || (i % 256 == 0x11 && m % 4 == 0), insertedAt := t.clk.edges
        countedAt := t.clk.edges }) t)) ∧
        exec (.modulePoll m none mux) s = .next t) ∧
      ((module t m).present = true → exec (.modulePoll m (some i) mux) s = .next (modModule m (fun x => { x with misses := 0 }) t) ∧
        exec (.modulePoll m none mux) s = .next (if (module t m).misses = 0 then modModule m (fun x => { x with misses := 1 }) t else moduleGone m t)))) ∧
  (∀ (m : Nat) (cleared : Bool) (identity external slot0 slot1 : List Byte) (s : State), s.clk.coreStopped = false → let x := module s m
    let sfp := x.identifier != 0x11
    let s0 := i2cOp m (fun s => emitOut (.i2cRead m (if sfp then 0x51 else 2) 128 112)
      (emitOut (if sfp then .i2cRead m 0x50 0 96 else .i2cRead m 0 128 96) s)) (if cleared then s else reachEdge (x.insertedAt + 2 * secE) s)
    let ext := if sfp && bit (byteAt identity 92) 4 then external else []
    let s1 := modModule m (fun x => { x with identity := identity, external := ext, ready := true }) s0
    let s2 := if ccBaseOk identity then s1 else xcvrEvent m 0x03 s1
    let s3 := (moduleLanes x m).foldl (fun s k => if (portsOfLane s k).all (shownHeld s) then softTx k true s else s) s2
    x.present = true → x.ready = false → x.tracked = true → (master s (m / 8)).faulted = false →
    exec (.moduleDataReady m cleared identity external ⟨slot0, slot1⟩) s = .next (runAsked m (classify m slot0 slot1 (sfp && !bit (byteAt identity 92) 6) s3))) ∧
  (∀ (m temp vcc : Nat) (bias tx rx : List Nat) (alarms : Nat) (s : State), s.clk.coreStopped = false → let x := module s m
    let u := creditModule m (reachEdge (x.countedAt + secE) s)
    let e := x.external
    let q := x.identifier = 0x11
    let read := if q then [(22, 2), (26, 2), (34, 24), (9, 6)] else [(96, 10), (112, 2)]
    let mA := bias.map (fun v => clamp16 (calibrated e 20 (v : Nat)))
    let s1 := modModule m (fun x => { x with
      temp := calibrated e 28 (signed 16 temp), vcc := clamp16 (calibrated e 32 (vcc : Nat)), bias := mA
      txPower := tx.map (fun v => clamp16 (calibrated e 24 (v : Nat))), rxPower := rx.map (fun v => clamp16 (calibratedRx e v)), alarms := alarms })
      (i2cOp m (fun s => read.foldl (fun s r => emitOut (.i2cRead m (if q then 0 else 0x51) r.1 r.2) s) s) u)
    x.present = true → x.ready = true →
    ((bit x.ledger.flags 2 = true ∨ (master u (m / 8)).faulted = true) → exec (.ddmSample m temp ⟨vcc, bias, tx, rx⟩ alarms) s = .next u) ∧
    (bit x.ledger.flags 2 = false → (master u (m / 8)).faulted = false → exec (.ddmSample m temp ⟨vcc, bias, tx, rx⟩ alarms) s =
      .next (biasSample m (tempBand (calibrated e 28 (signed 16 temp))) (mA.foldl max 0) (laserOn u m)
        (if andNot alarms x.alarms != 0 then xcvrEvent m 0x0A s1 else s1))))

/-- Ledger writes begin, end and are asked for as given, and the four XCVR commands answer. LEDGER_DAILY_WRITE of a module with a stored ledger asks
for the device's own write when it is due. LEDGER_WRITE_DONE of a write with no other behind it reads the slot back on a bus not faulted; the record
read back becomes the stored one in its slot, takes off the seconds that it holds, sets the next own write 24 h on, and one that ACTION 1 asked for is
the whole ledger and clears the other slot; with any other bytes, with none, or on a faulted bus it fires 0x05 and leaves the ledger in state 4; the
command that asked for the write is then completed. XCVR_READ answers the bytes of the module, padded to whole words, and with a PAGE writes it to
byte 127 before and restores that byte after; XCVR_LEDGER_READ answers the 64 bytes of R143. XCVR_LEDGER_WRITE of a module whose ledger is not in
state 3 or 4, or with the fresh form, is ACCEPTED and asks for its write, and STATE_CONFLICT in those states. XCVR_RETIRE that changes nothing is OK
without effect; one that retires is ACCEPTED, sets the flag and reason, holds the ports down, fires 0x07 and asks for a write, one that returns the
module undoes them, and a write that either has left and that cannot be made ends after the reply. -/
def Obligations.TransceiverLedgersAreReadAndWritten : Prop :=
  (∀ (m : Nat) (s : State), s.clk.coreStopped = false → (module s m).present = true → (module s m).hasRecord = true → (module s m).write = none → ((module s m).state = 1 ∨ (module s m).state = 2) →
    exec (.ledgerDailyWrite m) s = .next (ownWrite m false (reachEdge (module s m).dailyAt s))) ∧
  (∀ (m : Nat) (back : Option (List Byte)) (s : State) (w : LedgerWrite), s.clk.coreStopped = false → (module s m).write = some w → w.jobs = [] →
    let x := module s m
    let rec_ := w.record
    let u := if back.isSome && !(master s (m / 8)).faulted then
        i2cOp m (emitOut (.i2cRead m (if x.identifier = 0x11 then 2 else 0x51) (128 + 56 * w.slot) 56)) s else s
    let whole := w.job.fresh && w.job.kind == 1
    let good := modModule m (fun y => { y with
        write := none, slot := w.slot, hasRecord := true, stored := rec_, dailyAt := u.clk.edges + 86400 * secE, newInsertion := false
        state := if w.job.fresh then 2 else y.state
        ledger := if whole then rec_ else { y.ledger with
          writeSeq := rec_.writeSeq, lastWrite := rec_.lastWrite, firstSeen := rec_.firstSeen, laserHours := rec_.laserHours
          poweredHours := rec_.poweredHours, insertions := rec_.insertions }
        laserSec := y.laserSec - w.laser0, poweredSec := y.poweredSec - w.powered0
        baseSum := if whole then [] else y.baseSum, baseCount := if whole then [] else y.baseCount })
      (if whole then blankSlot m (1 - w.slot) u else u)
    let failed := xcvrEvent m 0x05 (modModule m (fun y => { y with write := none, state := 4 }) u)
    ((master s (m / 8)).faulted = false → back = some (ledgerBytes rec_) →
      (w.job.ticket = none → exec (.ledgerWriteDone m back) s = .next good) ∧
      (∀ k, w.job.ticket = some k → w.job.kind = 1 → exec (.ledgerWriteDone m back) s = .next (complete k stOk [] good)) ∧
      (∀ k, w.job.ticket = some k → w.job.kind = 2 → exec (.ledgerWriteDone m back) s = .next (complete k stOk (toLE 1 1 ++ zeros 3) good))) ∧
    ((master s (m / 8)).faulted = true ∨ back ≠ some (ledgerBytes rec_) →
      (w.job.ticket = none → exec (.ledgerWriteDone m back) s = .next failed) ∧
      (∀ k, w.job.ticket = some k → w.job.kind = 1 → exec (.ledgerWriteDone m back) s = .next (complete k stHwFault [] failed)) ∧
      (∀ k, w.job.ticket = some k → w.job.kind = 2 → exec (.ledgerWriteDone m back) s = .next (complete k stOk (zeros 4) failed)))) ∧
  (∀ (p : Packet) (s : State) (d : List Byte), let r := reached specXcvrRead p s
    let b := p.params
    let c := cageOf r (byteAt b 0)
    let n := byteAt b 4
    let a := byteAt b 1
    let read := emitOut (.i2cRead c a (byteAt b 3) n)
    let pad := zeros ((4 - n % 4) % 4)
    accepts specXcvrRead p s = true → laneExists r (byteAt b 0) = true →
    (a = 0x50 ∨ a = 0x51) → 1 ≤ n → n ≤ 128 → byteAt b 3 + n ≤ 256 → reservedAt b 5 3 = true →
    (master r (c / 8)).faulted = false → (module r c).present = true → (module r c).tracked = true → p.ext = some d →
    (byteAt b 2 = 0xFF → exec (.xcvrRead p) s = .next (answered specXcvrRead p stOk (slice d 0 n ++ pad) (i2cOp c read r))) ∧
    (byteAt b 2 ≠ 0xFF → exec (.xcvrRead p) s = .next (answered specXcvrRead p stOk (slice d 1 n ++ pad)
      (i2cOp c (fun s => emitOut (.i2cWrite c a 127 (slice d 0 1)) (read (emitOut (.i2cWrite c a 127 (toLE 1 (byteAt b 2)))
        (emitOut (.i2cRead c a 127 1) s)))) r)))) ∧
  (∀ (p : Packet) (s : State), let r := reached specXcvrLedgerRead p s
    let b := p.params
    let c := cageOf r (byteAt b 0)
    let x := module r c
    accepts specXcvrLedgerRead p s = true → laneExists r (byteAt b 0) = true →
    reservedAt b 1 7 = true → (master r (c / 8)).faulted = false → x.present = true → x.tracked = true →
    exec (.xcvrLedgerRead p) s = .next (answered specXcvrLedgerRead p stOk (ledgerBytes (shownLedger x) ++
      toLE 4 (x.laserSec - 3600 * x.stored.laserHours) ++ toLE 1 x.state ++ toLE 1 x.slot ++ zeros 2) r)) ∧
  (∀ (p : Packet) (s : State), let r := reached specXcvrLedgerWrite p s
    let b := p.params
    let c := cageOf r (byteAt b 0)
    let c0 := cageOf s (byteAt b 0)
    let x := module r c
    let ended := fun t => if (module s c0).write.isNone then settleKept c0 t else t
    accepts specXcvrLedgerWrite p s = true → laneExists r (byteAt b 0) = true → byteAt b 1 < 2 → reservedAt b 2 6 = true →
    x.present = true → x.tracked = true →
    ((master r (c / 8)).faulted = false → (byteAt b 1 = 1 ∨ (x.state ≠ 3 ∧ x.state ≠ 4)) →
      exec (.xcvrLedgerWrite p) s = .next (ended (deferred specXcvrLedgerWrite p (askKept c {
        kind := 1, fresh := byteAt b 1 == 1, ticket := some (ticketFor specXcvrLedgerWrite (asked specXcvrLedgerWrite p)) } r)))) ∧
    (byteAt b 1 = 0 → (x.state = 3 ∨ x.state = 4) →
      exec (.xcvrLedgerWrite p) s = .next (ended (respond (ticketFor specXcvrLedgerWrite (asked specXcvrLedgerWrite p)) 0x80 stStateConflict 0x7 [] r)))) ∧
  (∀ (p : Packet) (s : State), let r := reached specXcvrRetire p s
    let b := p.params
    let c := cageOf r (byteAt b 0)
    let c0 := cageOf s (byteAt b 0)
    let x := module r c
    let was := bit x.ledger.flags 0 || x.held
    let job : LedgerJob := { kind := 2, fresh := false, ticket := some (ticketFor specXcvrRetire (asked specXcvrRetire p)) }
    let ended := fun t => if (module s c0).write.isNone then settleKept c0 t else t
    accepts specXcvrRetire p s = true → laneExists r (byteAt b 0) = true → reservedAt b 3 5 = true →
    (master r (c / 8)).faulted = false → x.present = true → x.tracked = true →
    (byteAt b 1 = 1 → exec (.xcvrRetire p) s = .next (ended (if was then answered specXcvrRetire p stOk [] r
      else deferred specXcvrRetire p (askKept c job (xcvrEvent c 0x07 (modModule c (fun x => { x with ledger := { x.ledger with
        flags := x.ledger.flags ||| 1, retireReason := byteAt b 2 } }) (retireHold c r))))))) ∧
    (byteAt b 1 = 0 → exec (.xcvrRetire p) s = .next (ended (if was then
        deferred specXcvrRetire p (askKept c job ((modulePorts r c).foldl (fun s q => startDue q s)
          (modModule c (fun x => { x with held := false, ledger := { x.ledger with flags := andNot x.ledger.flags 1, retireReason := 0 } })
            (creditModule c r))))
      else answered specXcvrRetire p stOk [] r))))

/-- A doorbell in range moves its tail, any other is ignored with its fault; ring control enables and disables as its checks say. With the window up
and the core clock running: a 32-bit doorbell write below the ring's size sets the tail index (a reply-ring doorbell then lets held replies out, and
closes a session whose CLOSE_SESSION reply is written), one at or above the size is ignored with fault flag 0 and cause 1, and a narrower contiguous
write with fault flag 1 and cause 2, each counted as ignored and the narrow one in WINDOW_FAULT too; the host frame rings alike. RING_PAIR_ENABLE of a
disabled pair whose sizes are legal sets VECTOR and ENABLE, and with an illegal size sets VECTOR and fault flag 4 with cause 5. RING_PAIR_DISABLE of
an enabled pair sets VECTOR, clears ENABLE and the held replies, and closes the session of the pair. HFR_TX_ENABLE and HFR_RX_ENABLE write HFR_CTRL
with their bit set or clear, the rest as it stands. -/
def Obligations.DoorbellsAndRingControlTakeEffect : Prop :=
  (∀ (k be v : Nat) (s : State), k < 4 → windowUp s = true → s.clk.coreStopped = false →
    (v < (ring s k).cmdSize.toNat → exec (.ringCmdTail k 0xF v) s = .next (modRing k (fun r => { r with cmdTail := v }) s)) ∧
    ((ring s k).cmdSize.toNat ≤ v → exec (.ringCmdTail k 0xF v) s = .next (ringFault k 0 1 (ringIgnored k s))) ∧
    (contiguous be = true → be ≠ 0xF → exec (.ringCmdTail k be v) s = .next (ringFault k 1 2 (ringIgnored k (narrowCount s)))) ∧
    (v < (ring s k).rplSize.toNat → exec (.ringRplTail k 0xF v) s =
      .next (settleClosings (drainRing k (ring s k).held.length (modRing k (fun r => { r with rplTail := v }) s)))) ∧
    ((ring s k).rplSize.toNat ≤ v → exec (.ringRplTail k 0xF v) s = .next (ringFault k 0 1 (ringIgnored k s))) ∧
    (contiguous be = true → be ≠ 0xF → exec (.ringRplTail k be v) s = .next (ringFault k 1 2 (ringIgnored k (narrowCount s))))) ∧
  (∀ (k v : Nat) (s : State), k < 4 → windowUp s = true → s.clk.coreStopped = false →
    let s1 := modRing k (fun r => { r with vector := v % 256 }) s
    ((ring s k).enable = false → exec (.ringPairEnable k v) s = .next (if ringConfigOk (ring s k) then modRing k (fun r => { r with enable := true }) s1
      else ringFault k 4 5 s1)) ∧
    ((ring s k).enable = true → exec (.ringPairEnable k v) s = .next s1 ∧
      exec (.ringPairDisable k v) s = .next (closeEndpoint (.ring k) (modRing k (fun r => { r with enable := false, held := [] }) s1)))) ∧
  (∀ (be v : Nat) (s : State), windowUp s = true → s.clk.coreStopped = false →
    (v < s.hfr.tx.cmdSize.toNat → exec (.hfrTxTail 0xF v) s = .next { s with hfr := { s.hfr with tx := { s.hfr.tx with cmdTail := v } } }) ∧
    (s.hfr.tx.cmdSize.toNat ≤ v → exec (.hfrTxTail 0xF v) s = .next (hfrFault 0 1 (hfrIgnored s))) ∧
    (contiguous be = true → be ≠ 0xF → exec (.hfrTxTail be v) s = .next (hfrFault 1 2 (hfrIgnored (narrowCount s)))) ∧
    (v < s.hfr.rx.rplSize.toNat → exec (.hfrRxTail 0xF v) s = .next { s with hfr := { s.hfr with rx := { s.hfr.rx with rplTail := v } } }) ∧
    (s.hfr.rx.rplSize.toNat ≤ v → exec (.hfrRxTail 0xF v) s = .next (hfrFault 0 1 (hfrIgnored s))) ∧
    (contiguous be = true → be ≠ 0xF → exec (.hfrRxTail be v) s = .next (hfrFault 1 2 (hfrIgnored (narrowCount s))))) ∧
  (∀ (on : Bool) (s : State), windowUp s = true → s.clk.coreStopped = false →
    exec (.hfrTxEnable on) s = .next (hfrCtrl (merge 0xF (hfrCtrlValue s) (setBit (hfrCtrlValue s) 31 on)) s) ∧
    exec (.hfrRxEnable on) s = .next (hfrCtrl (merge 0xF (hfrCtrlValue s) (setBit (hfrCtrlValue s) 30 on)) s))

/-- A read of a fault or event status register returns its enabled bytes and clears it whole; a non-contiguous access is counted. With the window up,
a contiguous read of EVENT_STATUS_r returns the enabled bytes of its status bits and clears all 32 of them, and leaves every other status register,
every mask and the rest of the device as they were, but for the value sent; RING_FAULT_k, HFR_FAULT and WINDOW_FAULT return their two fields and clear
them. A non-contiguous access is counted in WINDOW_FAULT, fires 0x3C4 with its offset and byte enables, and a read returns all ones. -/
def Obligations.WindowReadsReturnAndClear : Prop :=
  (∀ (r be : Nat) (s : State), r < 32 → windowUp s = true → contiguous be = true →
    let cleared := { s with win := { s.win with status := tdel s.win.status r } }
    exec (.eventStatusRead r be) s = .next (emitOut (.readData (0x300 + 4 * r) (statusReg s r &&& beMask be)) cleared) ∧
    (Canon 0 s.win.status = true → statusReg cleared r = 0 ∧ ∀ q, q ≠ r → statusReg cleared q = statusReg s q)) ∧
  (∀ (k be : Nat) (s : State), k < 4 → windowUp s = true → contiguous be = true →
    exec (.ringFaultRead k be) s = .next (emitOut (.readData (0x12C + 0x40 * k) (((ring s k).ignored * 65536 + (ring s k).faults) &&& beMask be))
      (modRing k (fun x => { x with faults := 0, ignored := 0 }) s))) ∧
  (∀ (be : Nat) (s : State), windowUp s = true → contiguous be = true →
    exec (.windowFaultRead be) s = .next (emitOut (.readData 0x10 ((s.win.noncontig * 65536 + s.win.narrow) &&& beMask be))
      { s with win := { s.win with noncontig := 0, narrow := 0 } }) ∧
    exec (.hfrFaultRead be) s = .next (emitOut (.readData 0x42C ((s.hfr.ignored * 65536 + s.hfr.faults) &&& beMask be))
      { s with hfr := { s.hfr with faults := 0, ignored := 0 } })) ∧
  (∀ (off be : Nat) (s : State), windowUp s = true →
    let t := fun w => fire 0x3C4 0x01 (toLE 4 off ++ toLE 1 be ++ toLE 1 (b2n w)) { s with win := { s.win with noncontig := satAdd 0xFFFF s.win.noncontig 1 } }
    exec (.noncontigAccess off be true) s = .next (t true) ∧
    exec (.noncontigAccess off be false) s = .next (emitOut (.readData off 0xFFFFFFFF) (t false)))

/-- Writes of event masks, MSI-X vector masks, the journal consumer and base registers change their register by its enabled bytes. With the window up
and the core clock running: a contiguous write of EVENT_MASK_r merges the enabled bytes into the mask. A write of the vector control of vector v sets
its mask bit, and unmasking a vector whose pending bit is set signals it. A write of JOURNAL_CONSUMER with the journal enabled, below the ring's size
and not past the producer, frees the records up to it, arms the watermark again where fewer are unread, and lets a pending loss marker and the holdoff
signal out; any other is ignored with 0x3C4 cause 2. REGISTER_WRITE of a reserved offset, of an identity register and of a status register changes
nothing, and of a ring's base and size registers merges the enabled bytes. -/
def Obligations.WindowWritesChangeTheirRegister : Prop :=
  (∀ (r be v : Nat) (s : State), r < 32 → windowUp s = true → s.clk.coreStopped = false → contiguous be = true →
    exec (.eventMaskWrite r be v) s = .next { s with win := { s.win with mask := tset 0xFFFFFFFF s.win.mask r (merge be (maskReg s r) v) } }) ∧
  (∀ (v : Nat) (m : Bool) (s : State), v < 64 → windowUp s = true → s.clk.coreStopped = false →
    let w : Word := BitVec.ofNat 32 (merge 0xF (tget 0 s.win.msix (4 * v + 3)).toNat (b2n m) % 2)
    let t := { s with win := { s.win with msix := tset 0 s.win.msix (4 * v + 3) w } }
    exec (.msixVectorMaskWrite v m) s = .next (if !vecMasked t v && bit t.win.pba v then signalVec v t else t)) ∧
  (∀ (be v0 : Nat) (s : State), windowUp s = true → s.clk.coreStopped = false → contiguous be = true →
    let v := merge be s.jr.consumer v0
    let fine := s.jr.enable && decide (v < jSize s) && decide ((v + jSize s - s.jr.consumer) % jSize s ≤ jUnread s)
    let s1 := { s with jr := { s.jr with consumer := v } }
    let s2 := { s1 with jr := { s1.jr with wmArmed := s.jr.wmArmed || decide (jUnread s1 < s.jr.watermark) } }
    let s3 := if v ≠ s.jr.consumer ∧ jUnread s2 ≠ 0 then
      { s2 with jr := { s2.jr with oldestSince := tget 0 s.jr.writtenAt v, signalledOldest := false } } else s2
    (fine = true → exec (.journalConsumerWrite be v0) s = .next (settleLoss (journalHoldoff s3))) ∧
    (fine = false → exec (.journalConsumerWrite be v0) s = .next (fire 0x3C4 0x02 (toLE 4 0x0204) s))) ∧
  (∀ (off be v : Nat) (s : State), windowUp s = true → s.clk.coreStopped = false → contiguous be = true →
    (off < 0x100 ∨ (0x300 ≤ off ∧ off < 0x380) ∨ (0x500 ≤ off ∧ off < 0x1000) ∨ 0x1400 ≤ off → exec (.registerWrite off be v) s = .next s)) ∧
  (∀ (k be v : Nat) (s : State), k < 4 → windowUp s = true → s.clk.coreStopped = false → contiguous be = true →
    let w := fun (old : Word) => BitVec.ofNat 32 (merge be old.toNat v)
    exec (.registerWrite (0x100 + 0x40 * k) be v) s = .next (modRing k (fun r => { r with cmdBaseLo := w r.cmdBaseLo }) s) ∧
    exec (.registerWrite (0x104 + 0x40 * k) be v) s = .next (modRing k (fun r => { r with cmdBaseHi := w r.cmdBaseHi }) s) ∧
    exec (.registerWrite (0x108 + 0x40 * k) be v) s = .next (modRing k (fun r => { r with cmdSize := w r.cmdSize }) s) ∧
    exec (.registerWrite (0x114 + 0x40 * k) be v) s = .next (modRing k (fun r => { r with rplBaseLo := w r.rplBaseLo }) s) ∧
    exec (.registerWrite (0x118 + 0x40 * k) be v) s = .next (modRing k (fun r => { r with rplBaseHi := w r.rplBaseHi }) s) ∧
    exec (.registerWrite (0x11C + 0x40 * k) be v) s = .next (modRing k (fun r => { r with rplSize := w r.rplSize }) s))

/-- SPI and the command rings hand a sound packet to the front end, and count and report an unsound one. SPI_STATUS sends the flags and the length of
the reply waiting and clears CRC_ERR and OVERRUN; SPI_READ sends a dummy byte of a free value, the reply and 0xFF, and takes the reply from the queue
once its last byte was sent, where a reply that waits then takes its place. SPI_WRITE of a packet while SPI is ready, with a good trailer and the
magic byte, is checked and run as a command; with a bad trailer it is a transport fault with CRC_ERR, and while SPI is not ready a counted one with
OVERRUN. RING_DESCRIPTOR_FETCH of an enabled ring pair with a descriptor to take, a free reply buffer and no reply held takes the packet at the head
and runs it; a descriptor whose length is wrong is answered BAD_LENGTH with fault flag 2, and a PCIe error disables the pair with fault flag 3. -/
def Obligations.TransportsTakeTheirPackets : Prop :=
  (∀ s : State, exec .spiStatus s = .next (emitOut (.spiOut (toLE 1 (b2n (spiReady s) + 2 * b2n (!s.spi.replies.isEmpty) + 4 * b2n s.spi.crcErr +
      8 * b2n s.spi.overrun) ++ toLE 2 (s.spi.replies.headD []).length ++ zeros 1)) { s with spi := { s.spi with crcErr := false, overrun := false } })) ∧
  (∀ (n : Nat) (s : State) (d : List Byte) (rest : List (List Byte)), s.spi.replies = d :: rest →
    let u := takeFree 8 s
    exec (.spiRead n) s = .next (emitOut (.spiOut ((BitVec.ofNat 8 u.1 :: d ++ List.replicate n 0xFF).take n))
      (if d.length < n then settleClosings { u.2 with spi := fillSpi s.spi.held.length { s.spi with replies := rest } } else u.2))) ∧
  (∀ (n : Nat) (s : State), s.spi.replies = [] → let u := takeFree 8 s
    exec (.spiRead n) s = .next (emitOut (.spiOut ((BitVec.ofNat 8 u.1 :: List.replicate n 0xFF).take n)) u.2)) ∧
  (∀ (m : List Byte) (upset : Bool) (ext : Option (List Byte)) (s : State), serving s = true →
    (spiReady s = true → 16 ≤ m.length → byteAt m 0 = 0x5A →
      exec (.spiWrite (m ++ toLE 4 (crc32 m)) upset ext) s = .next (arrive (packetOf .spi m (m.drop 16) (crc32 m) none upset ext) s)) ∧
    (∀ tr, spiReady s = true → tr < 2 ^ 32 → tr ≠ crc32 m → exec (.spiWrite (m ++ toLE 4 tr) upset ext) s =
      .next { transportFault s with spi := { (transportFault s).spi with crcErr := true } }) ∧
    (∀ b, spiReady s = false → exec (.spiWrite b upset ext) s =
      .next { s with cp := { s.cp with transportFaults := s.cp.transportFaults + 1 }, spi := { s.spi with overrun := true } })) ∧
  (∀ (k : Nat) (d : List Byte) (packet : Option (List Byte)) (upset : Bool) (ext : Option (List Byte)) (s : State), s.clk.coreStopped = false → let r := ring s k
    let n := le d 8 2
    let taken := modRing k (fun r => { r with cmdHead := (r.cmdHead + 1) % max 1 r.cmdSize.toNat }) s
    k < 4 → serving s = true → windowUp s = true → r.enable = true → r.cmdHead ≠ r.cmdTail → r.rplHead ≠ r.rplTail → r.held = [] →
    exec (.ringDescriptorFetch k none packet upset ext) s = .next (ringFault k 3 4 (ringDisable k s)) ∧
    ((n < 16 ∨ 4096 < n ∨ n % 4 ≠ 0) → exec (.ringDescriptorFetch k (some d) packet upset ext) s =
      .next (sendPacket (.ring k) none (badDescriptorReply s) (ringFault k 2 3 taken))) ∧
    (16 ≤ n → n ≤ 4096 → n % 4 = 0 →
      exec (.ringDescriptorFetch k (some d) none upset ext) s = .next (ringFault k 3 4 (ringDisable k s)) ∧
      (∀ b, byteAt (slice b 0 n) 0 = 0x5A → exec (.ringDescriptorFetch k (some d) (some b) upset ext) s =
        .next (arrive (packetOf (.ring k) (slice b 0 n) ((slice b 0 n).drop 16) 0 none upset ext) taken)) ∧
      (∀ b, byteAt (slice b 0 n) 0 ≠ 0x5A → exec (.ringDescriptorFetch k (some d) (some b) upset ext) s = .next (transportFault taken))))

/-- START_OF_FRAME opens the reception of a frame: its class, its own-frame test, its admission to the FIFO and its furrow tag. In a well-formed
state, START_OF_FRAME at a port whose receive link is up and that receives no frame answers a next state in which the port receives the next new
frame, whose bytes, port, first edge, early class, own-frame kind and receive limit are as R110 to R115 give them; it is refused exactly where it is a
frame to switch and the receive FIFO has fewer free bytes than MAX_FRAME; a frame that is neither refused nor the device's own takes the tag of its
class, and the next one's tag is 1 more modulo 65,536; the clocks, the command queue, the headland and the option state do not change. At a port with
preemption enabled that is receiving, the frame it receives stands held where it is and the new one begins (R346). At a port whose receive link is down, or
that is receiving otherwise, nothing changes. -/
def Obligations.AFrameBeginsAtItsPort : Prop :=
  (∀ (p : Nat) (b : List Byte) (s : State), s.clk.coreStopped = false → State.wf s = true → (port s p).link.rxUp = true → (port s p).mac.rx = none →
    let u := s.nextUid
    let c := (port s p).cfg
    let full := ownKind s p b = 0 ∧ fifoFree s p < c.maxFrame
    ∃ t, exec (.startOfFrame p b) s = .next t ∧ (port t p).mac.rx = some u ∧ t.nextUid = u + 1 ∧
      (frame t u).bytes = b ∧ (frame t u).port = p ∧ (frame t u).start = s.clk.edges ∧ (frame t u).early = earlyClass c b ∧
      (frame t u).own = ownKind s p b ∧ (frame t u).limit = c.maxFrame ∧ ((frame t u).refused = true ↔ full) ∧
      (frame t u).tag = macTag s p (earlyClass c b) ∧
      (port t p).mac.tag = (if ownKind s p b = 0 ∧ ¬full then tset 0 (port s p).mac.tag (earlyClass c b) ((macTag s p (earlyClass c b) + 1) % 65536)
        else (port s p).mac.tag) ∧
      (port t p).cfg = c ∧ (port t p).link = (port s p).link ∧ t.clk = s.clk ∧ t.pending = s.pending ∧ t.hl = s.hl ∧ t.opt = s.opt) ∧
  (∀ (p v : Nat) (b : List Byte) (s : State), s.clk.coreStopped = false → State.wf s = true → (port s p).link.rxUp = true → (port s p).mac.rx = some v →
    (port s p).drill.pre.enable = true → (port s p).mac.rxHeld = none →
    let held := modFrame v (fun x => { x with rxFloor := rxBytes x s.clk.edges, rxFrozen := true })
      (modPort p (fun y => { y with mac := { y.mac with rx := none, rxHeld := some (v, s.clk.edges) } }) s)
    exec (.startOfFrame p b) s = exec (.startOfFrame p b) held) ∧
  (∀ (p : Nat) (b : List Byte) (s : State), s.clk.coreStopped = false → ((port s p).link.rxUp = false ∨
    ((port s p).mac.rx ≠ none ∧ ((port s p).drill.pre.enable = false ∨ (port s p).mac.rxHeld ≠ none))) → exec (.startOfFrame p b) s = .next s)

/-- Oversize, the end of a received frame, the three pause timers and a host frame act at their time as given. OVERSIZE_DETECT acts when the byte past
the limit arrives, where the slice clock runs, and ends the copies of the frame as oversize. RX_FRAME_END acts when the last byte arrives, ends the
reception, counts and cuts the frame as R119 and R313 say, and, where its FCS and length are good, hands an in-band frame to the command processor and
a PTP frame to the PTP engine. PAUSE_TIMER_EXPIRY ends a pause at its time; PAUSE_WATCHDOG_EXPIRY ends one that has lasted PAUSE_WATCHDOG, fires,
counts it and ignores further requests for as long again; PAUSE_IGNORE_END ends that. HOST_FRAME_SEND whose descriptor or bytes do not come from the
host disables the ring and sets PCIE_ERROR; an illegal descriptor reports result 3; a legal one takes its descriptor, and its frame, with its FCS,
class and port, is held and asks for its cells. -/
def Obligations.FramesEndAndPausesEnd : Prop :=
  (∀ (p u : Nat) (s : State), s.clk.coreStopped = false → let x := frame s u
    (port s p).mac.rx = some u → x.own = 0 → sliceUp s p = true → x.limit < x.bytes.length →
    exec (.oversizeDetect p) s = .next (oversize u (reachEdge (byteEdge x (x.limit + 1)) s))) ∧
  (∀ (p u : Nat) (bad upset : Bool) (ext : Option (List Byte)) (s : State), s.clk.coreStopped = false → let x := frame s u
    let b := effBytes x
    let s' := reachEdge (byteEdge x b.length) s
    let t := rxEnd p u bad (if bad then dctr 17 p s' else s')
    let good := !bad && x.rxCut.isNone && fcsGood b && decide (64 ≤ b.length) && decide (b.length ≤ (port s p).cfg.maxFrame) && !x.refused
    (port s p).mac.rx = some u →
    exec (.rxFrameEnd p bad upset ext) s = .next (if good = true ∧ x.own = 1 then inbandFrame p b upset ext t
      else if good = true ∧ x.own = 2 then { t with tim := { t.tim with ptpRx := t.tim.ptpRx ++ [(p, 4 * x.ns + x.qns, b)] } } else t)) ∧
  (∀ (p k e : Nat) (s : State), s.clk.coreStopped = false → (pauseOf s p k).untilE = some e →
    exec (.pauseTimerExpiry p k) s = .next (modPause p k (fun y => { y with untilE := none, waiting := false }) (reachEdge e s)) ∧
    (let w := (port s p).cfg.pauseWatchdog
     let u := reachEdge ((pauseOf s p k).fromE + w * msE) s
     w ≠ 0 → (pauseOf s p k).waiting = false → (pauseOf s p k).fromE + w * msE ≤ e →
     exec (.pauseWatchdogExpiry p k) s = .next (fire (4 * p + 2) 0 [] (macCtr p 47 1
      (modPause p k (fun y => { y with untilE := none, waiting := false, ignore := some (u.clk.edges + w * msE) }) u))))) ∧
  (∀ (p k e : Nat) (s : State), s.clk.coreStopped = false → (pauseOf s p k).ignore = some e →
    exec (.pauseIgnoreEnd p k) s = .next (modPause p k (fun y => { y with ignore := none }) (reachEdge e s))) ∧
  (∀ (d b : List Byte) (body : Option (List Byte)) (s : State), s.clk.coreStopped = false →
    s.hfr.txEnable = true → windowUp s = true → s.hfr.tx.cmdHead ≠ s.hfr.tx.cmdTail →
    let slot := s.hfr.tx.cmdHead
    let taken := { s with hfr := { s.hfr with tx := { s.hfr.tx with cmdHead := (slot + 1) % max 1 s.hfr.tx.cmdSize.toNat } } }
    exec (.hostFrameSend none body) s = .next (hfrFault 3 4 (hfrTxEnable false s)) ∧
    (txDescOk s d = false → exec (.hostFrameSend (some d) body) s = .next (hostTxDone slot 3 taken)) ∧
    (txDescOk s d = true → exec (.hostFrameSend (some d) none) s = .next (hfrFault 3 4 (hfrTxEnable false s))) ∧
    (let lookup := bit (byteAt d 10) 0
     let p := if lookup then byteAt d 11 else 0
     let sent := slice b 0 (le d 8 2)
     let bytes := sent ++ toLE 4 (crc32 sent)
     let h := homeHalf s 0
     let k := min 6 (bits (byteAt d 10) 3 1)
     let x : Frame := {
       kind := if lookup then 2 else 1, port := p, bytes := bytes, frameLen := bytes.length, start := s.clk.edges, tick := 1, ns := nowNs s, qns := nowQns s
       bank := s.bankBit, lead := s.hl.lead, early := if lookup then min 6 (earlyClass (port s p).cfg bytes) else k, class_ := k, arrUs := arrivalUs s
       fidOff := (port s p).learn.fidOffset, domain := (port s p).cfg.streamDomain, rxDone := true, limited := resLimit s k != 0
       asks := some (h, if lookup then .lookup slot else .direct (some slot) (le d 16 8)), copyA := if h = 0 then some { undecided := false } else none
       copyB := if h = 1 then some { undecided := false } else none }
     txDescOk s d = true →
     exec (.hostFrameSend (some d) (some b)) s = .next { taken with frames := tput s.frames s.nextUid x, nextUid := s.nextUid + 1 }))

/-- Decisions, frame-end checks, the fragment sweep and the two stages of a bank swap take effect at their time. HARROW_DECISION of a received frame
that awaits this furrow's decision delivers the decision 256 ns after the decision point, enters it in the digest, dispatches its program where this
furrow does, and settles the copy; of a re-entered host frame it releases or drops the copy; frame-end checks that came first follow it. In a
well-formed state, HARROW_FRAME_END of a whole frame is taken once: where the decision is still due it is kept for it; of a frame that this furrow has
decided it does nothing more without a late case; with one it ends the copies with a bad tail where the head has left, and takes the exception action
where it has not. FRAGMENT_SWEEP removes the entries that are neither live nor awaited by a fragment to decide, and counts them. BANK_FLIP of an armed
swap flips the bank bit when the time base reads the tick, and BANK_SWAP_COMPLETE 50 us later fires in each deciding furrow and completes
HARROW_BANK_SWAP. -/
def Obligations.HarrowDecidesFramesAndFlipsBanks : Prop :=
  (∀ (fu : Furrow) (u upset : Nat) (d : Decision) (s s1 : State), s.clk.coreStopped = false → let f := furNo fu
    let x := frame s u
    let s2 := digestAdd f x d (modFrame u (fun x => setDec f d { x with due := setBit x.due f false }) s1)
    tmem s.frames u = true → bit x.due f = true → decides s f = true → harrowDecide f x upset (reachEdge (decisionEdge s f x) s) = (some d, s1) →
    let s4 := reap u (if x.kind = 0 then settleCopy f u d (if dispatches f x d then dispatchFrame f u d s2 else s2) else reenter f u d s2)
    exec (.harrowDecision fu u upset) s = .next (if bit x.endSeen f then frameEndCheck f u s4 else s4)) ∧
  (∀ (fu : Furrow) (u : Nat) (s : State), s.clk.coreStopped = false → let f := furNo fu
    let x := frame s u
    let s1 := modFrame u (fun x => { x with endSeen := setBit x.endSeen f true }) s
    let x1 := frame s1 u
    State.wf s = true → x.rxDone = true → x.rxCut = none → bit x.endSeen f = false →
    (decOf x f = none → bit x.due f = true → exec (.harrowFrameEnd fu u) s = .next s1) ∧
    (∀ d, decOf x f = some d → lateCase s1 f x1 d = none → exec (.harrowFrameEnd fu u) s = .next s1) ∧
    (∀ d c, decOf x f = some d → lateCase s1 f x1 d = some c → exec (.harrowFrameEnd fu u) s =
      .next (reap u (if x.late = true ∨ headLeft x = true then
        cutBoth u 9 x.bytes.length (modFrame u (fun x => { x with late := true }) (hctr 14 f s1)) else lateAction f u c d s1)))) ∧
  (∀ (fu : Furrow) (s : State), s.clk.coreStopped = false → let f := furNo fu
    let t := (fur s f).frags
    let keep := t.filter (fun e => fragLive (nowNs s) e.2 || fragAwaited s f e.2)
    exec (.fragmentSweep fu) s = .next (modFur f (fun y => { y with frags := keep, harrowCtr := cinc y.harrowCtr 10 (t.length - keep.length) }) s)) ∧
  (∀ (w : Swap) (s : State), s.clk.coreStopped = false → s.swap = some w → w.flippedAt = none → let t := reachNs w.tick s
    exec .bankFlip s = .next { t with bankBit := 1 - s.bankBit, swap := some { w with flippedAt := some (nowT64 t, t.clk.edges) } }) ∧
  (∀ (w : Swap) (t e : Nat) (s : State), s.clk.coreStopped = false → s.swap = some w → w.flippedAt = some (t, e) →
    let s1 := { reachEdge (e + 50 * usE) s with swap := none }
    let s2 := if decides s1 0 then fireFur 0 (hBase 0 + 3) 0 (toLE 1 s1.bankBit) s1 else s1
    let s3 := if decides s2 1 then fireFur 1 (hBase 1 + 3) 0 (toLE 1 s2.bankBit) s2 else s2
    exec .bankSwapComplete s = .next (complete w.ticket stOk (toLE 8 t ++ toLE 1 s.bankBit ++ zeros 3) s3))

/-- Stage, policy and pattern loads change the inactive bank of every updated furrow alone, and answer its BANK_CRC. With no swap armed or draining,
HARROW_STAGE_LOAD with legal fields sets, in the inactive bank of the updated furrows, for CONFIGURE the stage's kind, size, segments and miss result
within its pool, for WRITE its entries by index or by hash bucket, for CLEAR removes them, for the copy form takes the stage of the active bank, and
for stage 0xFF the policy block; HARROW_PATTERN_LOAD writes, clears or copies patterns likewise. Each then answers OK with BANK_CRC and the bank, or
HW_FAULT with an event of each furrow, and the part marked inconsistent, where the BANK_CRC values of two admitted furrows differ. HARROW_BANK_SWAP
with a legal tick 1 ms to 60 s ahead, no swap pending and no inconsistent part is ACCEPTED and arms the swap. FRAGMENT_TABLE_READ of a powered furrow
answers its counts and entries without effect. -/
def Obligations.HarrowLoadsGoToTheInactiveBank : Prop :=
  (∀ (p : Packet) (s : State), let r := reached specHarrowStageLoad p s
    let b := p.params
    let n := byteAt b 0
    let kind := byteAt b 2
    let count := byteAt b 3
    let first := le b 4 4
    let size := le b 8 4
    let ib := 1 - r.bankBit
    let cur := tget {} (bankOf r r.hl.lead ib).stages n
    let src := tget {} (bankOf r r.hl.lead r.bankBit).stages n
    let es := readEntries kind count b
    let keys := (List.range count).map (fun i => le b (16 + 32 * i) 32)
    accepts specHarrowStageLoad p s = true → r.swap = none → reservedAt b 12 4 = true →
    (n < 8 → byteAt b 1 = 0 → kind ≤ 4 → sizeLegal kind size = true → segsOk kind (readSegs b) = true → resultOk r (le b 48 16) = true →
      poolFits r n kind size = true → exec (.harrowStageLoad p) s = .next (stageLoaded n p (modStage ib n
        (fun _ => if kind = 0 then {} else { kind := kind, size := size, segments := readSegs b, miss := le b 48 16 }) r))) ∧
    (n < 8 → byteAt b 1 = 1 → 2 ≤ kind → kind ≤ 4 → kind = cur.kind → count ≤ mostEntries kind → first + count ≤ cur.size →
      (kind = 3 → ∀ e ∈ es, e.key ≤ e.mask) → (∀ e ∈ es, resultOk r e.result = true) →
      exec (.harrowStageLoad p) s = .next (stageLoaded n p (modStage ib n (fun st => putFrom st first es) r))) ∧
    (n < 8 → byteAt b 1 = 1 → kind = 1 → cur.kind = 1 → count ≤ mostEntries 1 → (∀ e ∈ es, resultOk r e.result = true) →
      (writeAll es (some cur)).isSome = true →
      exec (.harrowStageLoad p) s = .next (stageLoaded n p (modStage ib n (fun st => (writeAll es (some st)).getD st) r))) ∧
    (n < 8 → byteAt b 1 = 2 → 2 ≤ kind → kind ≤ 4 → kind = cur.kind → first + count ≤ cur.size →
      exec (.harrowStageLoad p) s = .next (stageLoaded n p (modStage ib n (fun st =>
        { st with entries := st.entries.filter (fun e => !(first ≤ e.1 && e.1 < first + count)) }) r))) ∧
    (n < 8 → byteAt b 1 = 2 → kind = 1 → cur.kind = 1 → (∀ k ∈ keys, (findHash cur k).isSome = true) →
      exec (.harrowStageLoad p) s = .next (stageLoaded n p (modStage ib n (clearKeys keys) r))) ∧
    (n < 8 → byteAt b 1 = 3 → poolFits r n src.kind src.size = true →
      exec (.harrowStageLoad p) s = .next (stageLoaded n p (eachFur (fun y => { y with banks := tmod {} y.banks ib (fun x =>
        { x with stages := tset {} x.stages n { tget {} (tget {} y.banks r.bankBit).stages n with inconsistent := false } }) }) r))) ∧
    (n = 0xFF → byteAt b 1 = 0 → badAction b = none → 1 ≤ le b 48 2 → le b 48 2 ≤ 1000 → 1 ≤ le b 50 2 → reservedAt b 56 8 = true →
      exec (.harrowStageLoad p) s = .next (harrowLoaded specHarrowStageLoad p (fun x => policyCrc x.policy)
        (fun bad x => { x with polInconsistent := bad })
        (modBank ib (fun x => { x with policy := readPolicy b }) r))) ∧
    (n = 0xFF → byteAt b 1 = 3 → exec (.harrowStageLoad p) s = .next (harrowLoaded specHarrowStageLoad p (fun x => policyCrc x.policy)
        (fun bad x => { x with polInconsistent := bad })
        (eachFur (fun y => { y with banks := tmod {} y.banks ib (fun x => { x with policy := (tget {} y.banks r.bankBit).policy }) }) r)))) ∧
  (∀ (p : Packet) (s : State), let r := reached specHarrowPatternLoad p s
    let b := p.params
    let count := byteAt b 1
    let first := le b 2 2
    let ib := 1 - r.bankBit
    let done := harrowLoaded specHarrowPatternLoad p patternCrc (fun bad x => { x with patInconsistent := bad })
    accepts specHarrowPatternLoad p s = true → r.swap = none → reservedAt b 4 12 = true →
    (byteAt b 0 = 1 → count ≤ 56 → first + count ≤ 256 → (∀ i, i < count → patternOk b (16 + 72 * i) = none) →
      exec (.harrowPatternLoad p) s = .next (done (modBank ib (fun x => { x with patterns := (List.range count).foldl (fun t i =>
        if (readPattern b (16 + 72 * i)).length = 0 then tdel t (first + i) else tput t (first + i) (readPattern b (16 + 72 * i))) x.patterns }) r))) ∧
    (byteAt b 0 = 2 → count ≤ 56 → first + count ≤ 256 → exec (.harrowPatternLoad p) s = .next (done (modBank ib (fun x =>
      { x with patterns := x.patterns.filter (fun e => !(first ≤ e.1 && e.1 < first + count)) }) r))) ∧
    (byteAt b 0 = 3 → count ≤ 56 → first + count ≤ 256 → exec (.harrowPatternLoad p) s = .next (done (eachFur (fun y => { y with banks := tmod {} y.banks ib (fun x =>
      { x with patterns := (tget {} y.banks r.bankBit).patterns }) }) r)))) ∧
  (∀ (p : Packet) (s : State), let r := reached specHarrowBankSwap p s
    let b := p.params
    let tick := if le b 0 8 = 0 then nextWholeMs r else nsOfT64 (le b 0 8)
    accepts specHarrowBankSwap p s = true → t64Ok (le b 0 8) = true → inMinute r tick = true → reservedAt b 8 8 = true → r.swap = none →
    bankBad r = false →
    exec (.harrowBankSwap p) s = .next (deferred specHarrowBankSwap p { r with
      swap := some { tick := tick, ticket := ticketFor specHarrowBankSwap (asked specHarrowBankSwap p) } })) ∧
  (∀ (p : Packet) (s : State), let r := reached specFragmentTableRead p s
    let b := p.params
    let f := byteAt b 0
    let first := le b 2 2
    let count := le b 4 2
    let x := fur r f
    let live := fun tc7 => (x.frags.filter (fun e => decide (e.1 % 4 < 2) == tc7 && fragLive (nowNs r) e.2)).length
    let reply := toLE 2 (live true) ++ toLE 2 (live false) ++ toLE 4 (tget 0 x.harrowCtr 9) ++ toLE 4 (tget 0 x.harrowCtr 8) ++
      toLE 4 (tget 0 x.harrowCtr 10) ++ (x.frags.filter (fun e => first ≤ e.1 && e.1 < first + count)).flatMap (fun e => fragRecord e.1 e.2)
    accepts specFragmentTableRead p s = true → f < 2 → reservedAt b 1 1 = true → first ≤ 4095 → 1 ≤ count → first + count ≤ 4096 →
    reservedAt b 6 2 = true → powered r f = true → (reply.length ≤ 4080 ∨ 3 ≤ (session r (p.session % 4)).verMajor) →
    exec (.fragmentTableRead p) s = .next (answered specFragmentTableRead p stOk reply r))

/-- ADDR_ADD, ADDR_DELETE, ADDR_LOOKUP, ADDR_FLUSH and AGEING_SET act on the address tables of the updated furrows. ADDR_ADD with legal fields of a
key that no other place holds as static, at a place free of other static and stream entries, puts the static entry there in each updated furrow,
removes the learned entry of the key, and answers the bucket and whether it displaced or replaced an entry; a key or place in use is EXISTS.
ADDR_DELETE removes the entries of the key in each updated furrow and answers which it found there. ADDR_LOOKUP of a powered furrow answers the entry
or a miss. ADDR_FLUSH, of powered furrows, is ACCEPTED and begins a walk; the oldest walk that ends removes what its scope names in each furrow that
it reaches, and completes its command with the two counts. A command that names a port touches its slice clocks. AGEING_SET sets the furrow-wide
periods, or the learning of one port. -/
def Obligations.AddressCommandsKeepTheTables : Prop :=
  (∀ (p : Packet) (s : State), let r := reached specAddrAdd p s
    let b := p.params
    let fid := le b 6 2
    let dest := le b 8 2
    let group := bit (byteAt b 10) 0
    let whr := byteAt b 11
    let key := addrKey fid (be b 0 6)
    let pl := if whr = 0x80 then ovfBase + le b 12 2 else 4 * bucketOf key + whr
    let t := (fur r r.hl.lead).tab
    let used := (∃ q e, findAddr r t key = some (q, e) ∧ e.static = true ∧ q ≠ pl) ∨
      (∃ e, entryAt t pl = some e ∧ (e.static = true ∨ e.kind = 2) ∧ e.key ≠ key)
    accepts specAddrAdd p s = true → (group = true ∨ bit (byteAt b 0) 0 = false) → fid < 4096 →
    (group = true ∨ (dest < 64 ∧ portExists r dest = true)) → byteAt b 10 < 2 →
    (whr < 2 ∨ (whr < 4 ∧ wide r = false) ∨ (whr = 0x80 ∧ le b 12 2 < 1024)) → reservedAt b 14 2 = true →
    (used → exec (.addrAdd p) s = .next (answered specAddrAdd p stExists [] r)) ∧
    (¬used → ∃ replaced, (replaced = true ↔ ∃ e, entryAt t pl = some e ∧ e.static = true ∧ e.key = key ∧ ¬(e.dest = dest ∧ e.group = group)) ∧
      exec (.addrAdd p) s = .next (answered specAddrAdd p stOk
        (toLE 2 (bucketOf key) ++ toLE 1 (b2n (tabWritten r 0 && displacedAt pl r.fa.tab || tabWritten r 1 && displacedAt pl r.fb.tab) +
          2 * b2n replaced) ++ zeros 5)
        (let put := ovfWatchBoth (eachTab (addStatic r pl key dest group) r)
         if group = true then put else touchPort dest true put)))) ∧
  (∀ (p : Packet) (s : State), let r := reached specAddrDelete p s
    let key := addrKey (le p.params 6 2) (be p.params 0 6)
    accepts specAddrDelete p s = true → le p.params 6 2 < 4096 →
    exec (.addrDelete p) s = .next (answered specAddrDelete p stOk
      (toLE 1 (b2n (holdsKey key true (fur r r.hl.lead).tab) + 2 * b2n (tabWritten r 0 && holdsKey key false r.fa.tab) +
        4 * b2n (tabWritten r 1 && holdsKey key false r.fb.tab)) ++ zeros 3) (ovfWatchBoth (eachTab (deleteKey key) r)))) ∧
  (∀ (p : Packet) (s : State), let r := reached specAddrLookup p s
    let b := p.params
    let f := byteAt b 8
    let key := addrKey (le b 6 2) (be b 0 6)
    accepts specAddrLookup p s = true → le b 6 2 < 4096 → f < 2 → reservedAt b 9 3 = true → powered r f = true →
    (findAddr r (fur r f).tab key = none → exec (.addrLookup p) s = .next (answered specAddrLookup p stOk (zeros 16) r)) ∧
    (∀ pl e, findAddr r (fur r f).tab key = some (pl, e) → exec (.addrLookup p) s = .next (answered specAddrLookup p stOk
      (toLE 1 (if e.static then 1 else 2) ++ toLE 1 (if pl < ovfBase then pl % 4 else 0x80) ++ toLE 2 (if pl < ovfBase then pl / 4 else pl - ovfBase) ++
       toLE 2 e.dest ++ toLE 1 (b2n e.group + 2 * b2n e.hit) ++ toLE 1 (if e.static then 0 else e.age) ++ zeros 8) r))) ∧
  (∀ (p : Packet) (s : State), let r := reached specAddrFlush p s
    let b := p.params
    let sc := byteAt b 0
    accepts specAddrFlush p s = true → (sc < 4 ∨ sc = 0x10) → (sc = 1 ∨ sc = 3 → portExists r (byteAt b 1) = true) →
    le b 2 2 < 4096 → (sc = 0x10 ∨ (byteAt b 4 < 4 ∧ ∀ f, f < 2 → bit (byteAt b 4) f = true → powered r f = true)) → reservedAt b 5 3 = true →
    let put := { r with flush := r.flush ++ [{
      scope := sc, port := byteAt b 1, fid := le b 2 2, mask := if sc = 0x10 then 3 else byteAt b 4
      ticket := some (ticketFor specAddrFlush (asked specAddrFlush p)) }] }
    exec (.addrFlush p) s = .next (deferred specAddrFlush p (if sc = 1 ∨ sc = 3 then touchPort (byteAt b 1) true put else put))) ∧
  (∀ (x : Flush) (rest : List Flush) (k : Ticket) (s : State), s.clk.coreStopped = false → s.flush = x :: rest → x.ticket = some k →
    let go := fun f (t : Tables) => if flushReaches s f then flushTab x f t else (t, 0)
    exec .addrFlushDone s = .next (complete k stOk (toLE 4 (go 0 s.fa.tab).2 ++ toLE 4 (go 1 s.fb.tab).2)
      (ovfWatchBoth (modTab 0 (fun _ => (go 0 s.fa.tab).1) (modTab 1 (fun _ => (go 1 s.fb.tab).1) { s with flush := rest }))))) ∧
  (∀ (p : Packet) (s : State), let r := reached specAgeingSet p s
    let b := p.params
    accepts specAgeingSet p s = true →
    (byteAt b 0 = 0 → 1 ≤ le b 2 2 → le b 2 2 ≤ 3600 → (byteAt b 4 = 0 ∨ (2 ≤ byteAt b 4 ∧ byteAt b 4 ≤ 15)) → 1 ≤ le b 6 2 → le b 6 2 ≤ 1000 →
      exec (.ageingSet p) s = .next (answered specAgeingSet p stOk []
        { eachTab (refillLearn r) r with age := { sweepPeriod := le b 2 2, ageLimit := byteAt b 4, learnRate := le b 6 2 } })) ∧
    (byteAt b 0 = 1 → portExists r (byteAt b 1) = true → byteAt b 2 < 4 → le b 4 4 ≤ 262144 → le b 8 2 ≤ 4095 →
      exec (.ageingSet p) s = .next (answered specAgeingSet p stOk [] (modPort (byteAt b 1) (fun x => { x with learn := {
        learn := bit (byteAt b 2) 0, flushDown := bit (byteAt b 2) 1, limit := le b 4 4, fidOffset := le b 8 2 } })
        (touchPort (byteAt b 1) true r)))))

/-- A pending learn, an ageing sweep and the staging's end change their furrow's tables, within the learn budget, and no static entry. An
uncorrectable place that LEARN_INSERT or AGEING_SWEEP reads is a miss from then on. LEARN_INSERT takes the oldest pending address: one whose key is
static changes no entry; one known at its port is marked hit; one known at another port moves for one token, and a new one is put at the first free
place for one token, where the port's limit and the budget let it, with an event where there is no place, and where they do not it is counted and not
learned. AGEING_SWEEP of a deciding furrow, at its time, stamps the entries hit, removes those as old as the limit, counts them and sets the next
sweep. STAGING_RECORD_RETIRE retires the records whose time and 50 us have passed. A sweep never changes a static entry or one that is no address. -/
def Obligations.LearningAgeingAndStagingAdvance : Prop :=
  (∀ (fu : Furrow) (bad : List Nat) (x : PendLearn) (rest : List PendLearn) (s00 : State), s00.clk.coreStopped = false → let f := furNo fu
    let s0 := bad.foldl (addrFault f) s00
    let s := modTab f (fun t => refillLearn s0 { t with pend := rest }) s0
    let t := (fur s f).tab
    let lim := (port s x.port).learn.limit
    (fur s0 f).tab.pend = x :: rest →
    (∀ pl e, findAddr s t x.key = some (pl, e) →
      (e.static = true → exec (.learnInsert ⟨fu, bad⟩) s00 = .next s) ∧
      (e.static = false → e.dest = x.port → exec (.learnInsert ⟨fu, bad⟩) s00 = .next (modTab f (putEntry pl { e with hit := true }) s)) ∧
      (e.static = false → e.dest ≠ x.port → 1250000 ≤ t.tokens → exec (.learnInsert ⟨fu, bad⟩) s00 = .next (modTab f (fun t =>
        tctr 1 1 (putEntry pl { e with dest := x.port, hit := true } { t with tokens := t.tokens - 1250000 })) s)) ∧
      (e.static = false → e.dest ≠ x.port → t.tokens < 1250000 → exec (.learnInsert ⟨fu, bad⟩) s00 = .next (learnLimited f (modTab f (tctr 4 1) s)))) ∧
    (findAddr s t x.key = none → lim ≠ 0 → lim ≤ ((learnedOf t).filter (fun e => e.2.dest == x.port)).length →
      exec (.learnInsert ⟨fu, bad⟩) s00 = .next (learnLimited f (modTab f (tctr 5 1) s))) ∧
    (findAddr s t x.key = none → (lim = 0 ∨ ((learnedOf t).filter (fun e => e.2.dest == x.port)).length < lim) → t.tokens < 1250000 →
      exec (.learnInsert ⟨fu, bad⟩) s00 = .next (learnLimited f (modTab f (tctr 4 1) s))) ∧
    (findAddr s t x.key = none → (lim = 0 ∨ ((learnedOf t).filter (fun e => e.2.dest == x.port)).length < lim) → 1250000 ≤ t.tokens →
      (learnPlace s t x.key = none → exec (.learnInsert ⟨fu, bad⟩) s00 =
        .next (fireFurMs f (tabBase f) 0 (toLE 1 x.port ++ toLE 2 (keyFid x.key)) (modTab f (tctr 3 1) s))) ∧
      (∀ pl, learnPlace s t x.key = some pl → exec (.learnInsert ⟨fu, bad⟩) s00 = .next (noteSurvivor f x.key (ovfWatch f (modTab f (fun t =>
        tctr 0 1 (putEntry pl { kind := 1, key := x.key, hit := true, dest := x.port, age := t.sweepStamp } { t with tokens := t.tokens - 1250000 })) s)))))) ∧
  (∀ (fu : Furrow) (bad : List Nat) (s0 : State), s0.clk.coreStopped = false → let f := furNo fu
    let due := ((fur s0 f).tab.nextSweep).getD s0.clk.edges
    let s := bad.foldl (addrFault f) (startCore f (reachEdge due s0))
    decides s0 f = true → exec (.ageingSweep ⟨fu, bad⟩) s0 = .next (coreIdle f (ovfWatch f (modTab f (fun t =>
      let st := (t.sweepStamp + 1) % 16
      let a := sweepTable st s.age.ageLimit t.addr
      let o := sweepTable st s.age.ageLimit t.ovf
      tctr 2 (t.addr.length - a.length + (t.ovf.length - o.length))
        { t with sweepStamp := st, addr := a, ovf := o, nextSweep := some (due + s.age.sweepPeriod * secE) }) s)))) ∧
  (∀ (stamp limit : Nat) (t : Table TabEntry), let u := sweepTable stamp limit t
    (∀ pl e, (e.static = true ∨ e.kind ≠ 1) → ((pl, e) ∈ u ↔ (pl, e) ∈ t)) ∧
    (∀ pl e, (pl, e) ∈ t → e.kind = 1 → e.static = false →
      (e.hit = true → (pl, { e with hit := false, age := stamp }) ∈ u) ∧
      (e.hit = false → (limit = 0 ∨ (stamp + 16 - e.age) % 16 < limit) → (pl, e) ∈ u) ∧
      (e.hit = false → limit ≠ 0 → limit ≤ (stamp + 16 - e.age) % 16 → Rising t = true → ∀ e', (pl, e') ∉ u))) ∧
  (∀ (x : StagingRec) (rest : List StagingRec) (s : State), s.clk.coreStopped = false → s.fa.tab.staging ++ s.fb.tab.staging = x :: rest →
    let te := rest.foldl (fun m r => min m r.te) x.te
    exec .stagingRecordRetire s = .next (purgeStaging (reachNs (te + 50000) s)))

/-- SHADOW_STATUS answers 32 bytes: mode, suspension, passes, mismatches and repairs of A and B, and the last mismatched unit. A served SHADOW_STATUS
has no parameters and answers OK, without effect, with 32 bytes: byte 0 MODE, byte 1 bit 0 suspended, bytes 2-3 reserved (0), bytes 4-7 the completed
passes, bytes 8-15 SHADOW_MISMATCHES of A then of B, bytes 16-23 SHADOW_REPAIRS of A then of B, bytes 24-27 the last mismatched unit, bytes 28-31
reserved (0). -/
def Obligations.ShadowCompareAnswersAndRepairs : Prop := ∀ (p : Packet) (s : State), let r := reached specShadowStatus p s
  accepts specShadowStatus p s = true → p.params = [] ∧ ∃ reply : List Byte,
    exec (.shadowStatus p) s = .next (answered specShadowStatus p stOk reply r) ∧ reply.length = 32 ∧
    byteAt reply 0 = r.shadow.mode % 256 ∧ byteAt reply 1 = b2n r.shadow.suspended ∧ le reply 2 2 = 0 ∧ le reply 4 4 = r.shadow.passes % 2 ^ 32 ∧
    le reply 8 4 = tget 0 r.fa.tab.ctr 14 % 2 ^ 32 ∧ le reply 12 4 = tget 0 r.fb.tab.ctr 14 % 2 ^ 32 ∧
    le reply 16 4 = tget 0 r.fa.tab.ctr 15 % 2 ^ 32 ∧ le reply 20 4 = tget 0 r.fb.tab.ctr 15 % 2 ^ 32 ∧
    le reply 24 4 = r.shadow.lastUnit % 2 ^ 32 ∧ le reply 28 4 = 0

/-- SHADOW_SET begins a new pass, SHADOW_COMPARE_UNIT compares its next unit, MGROUP_SET stages a group's mask. SHADOW_SET with an aligned base and a
legal mode sets them, ends a suspension and starts a new pass at unit 0; a mode other than OFF with the PCIe link down is STATE_CONFLICT.
SHADOW_COMPARE_UNIT of a deciding furrow, with the compare on and not suspended, at its time compares each way of its unit with the host's 64 bytes,
an uncorrectable place as a miss, and goes on to the next unit, after 65,791 to 0 with a pass counted by furrow A; a read error or a PCIe link that is
down suspends the compare with an event of each furrow. MGROUP_SET with a mask of existing ports waits for its staging record, and sets, adds or
removes the mask in each updated furrow with the old mask staged until TE, touches the named ports' slice clocks, and answers TE and the new mask. -/
def Obligations.ShadowPassesAndGroupsAreSet : Prop :=
  (∀ (p : Packet) (s : State), let r := reached specShadowSet p s
    let m := byteAt p.params 8
    accepts specShadowSet p s = true → le p.params 0 8 % 64 = 0 → m < 3 → reservedAt p.params 9 7 = true →
    (m ≠ 0 → r.pcie.up = false → exec (.shadowSet p) s = .next (respond (ticketFor specShadowSet (asked specShadowSet p)) 0x80 stStateConflict 7 [] r)) ∧
    (m = 0 ∨ r.pcie.up = true → exec (.shadowSet p) s = .next (answered specShadowSet p stOk [] { r with shadow := { r.shadow with
      base := le p.params 0 8, mode := m, suspended := false, unitA := 0, unitB := 0, nextA := r.clk.edges + 10000, nextB := r.clk.edges + 15000 } }))) ∧
  (∀ (fu : Furrow) (ok : Bool) (data : List Byte) (bad : List Nat) (s0 : State), s0.clk.coreStopped = false → let f := furNo fu
    let s := reachEdge (if f = 0 then s0.shadow.nextA else s0.shadow.nextB) s0
    let u := if f = 0 then s.shadow.unitA else s.shadow.unitB
    let s1 := zipWays f u data 0 (unitPlaces s u) (bad.foldl (addrFault f) (perfF f 0x112 1 s))
    let nx := if u = 65791 then 0 else u + 1
    s0.shadow.mode ≠ 0 → s0.shadow.suspended = false → decides s0 f = true →
    ((ok = false ∨ s.pcie.up = false) → exec (.shadowCompareUnit ⟨fu, bad⟩ ok data) s0 = .next (shadowSuspend s)) ∧
    (ok = true → s.pcie.up = true → exec (.shadowCompareUnit ⟨fu, bad⟩ ok data) s0 = .next (ovfWatch f { s1 with shadow :=
      if f = 0 then { s1.shadow with unitA := nx, nextA := s1.shadow.nextA + 10000, passes := wrap32 (s1.shadow.passes + b2n (u == 65791)) }
      else { s1.shadow with unitB := nx, nextB := s1.shadow.nextB + 10000 } }))) ∧
  (∀ (p : Packet) (s : State), let r := reached specMgroupSet p s
    let b := p.params
    let g := le b 0 2
    let m := le b 8 8
    let v := stageWait 130 [.mgroup g 0] (purgeStaging r)
    let te := stageTe v
    let new := fun old => if byteAt b 2 = 0 then m else if byteAt b 2 = 1 then old ||| m else andNot old m
    accepts specMgroupSet p s = true → byteAt b 2 < 3 → reservedAt b 3 5 = true → maskOk r m = true →
    exec (.mgroupSet p) s = .next (answered specMgroupSet p stOk (toLE 8 (t64OfNs te) ++ toLE 8 (new (tget 0 (fur v v.hl.lead).tab.mgroup g)))
      (touchPorts ((List.range 64).filter (bit m)) (eachTab (fun t => { t with
        staging := t.staging ++ [{ what := .mgroup g (tget 0 t.mgroup g), te := te }], mgroup := tset 0 t.mgroup g (new (tget 0 t.mgroup g)) }) v))))

/-- STREAM_BIND, STREAM_UNBIND and STREAM_READ bind, unbind and answer the binding of a handle. STREAM_BIND of a new handle whose key is not in use
and has a place, or of MODIFY with the bound key, with legal fields, waits for its staging records, and sets the binding and the key in each updated
furrow, with the old values staged until TE, which it answers, and touches an egress port's slice clock; a handle or key in use is EXISTS, MODIFY of
another key or of an unbound handle NOT_FOUND, no place EXHAUSTED. STREAM_UNBIND of a bound handle removes the binding and the key likewise, and of an
unbound one is NOT_FOUND. STREAM_READ of a powered furrow answers the binding word, the key, its place and TE. -/
def Obligations.StreamsAreBoundUnboundAndRead : Prop :=
  (∀ (p : Packet) (s : State), let r := reached specStreamBind p s
    let b := p.params
    let h := le b 0 4
    let kk := byteAt b 4
    let modify := byteAt b 17 = 1
    let x : Binding := {
      bound := true, egressKind := byteAt b 16, keyKind := kk, egress := le b 18 2, domain := if kk = 1 then byteAt b 5 else 0
      ident := if kk = 0 then 0 else le b 6 2, da := if kk = 2 then be b 8 6 else 0 }
    let t0 := (fur r r.hl.lead).tab
    let old := tget {} t0.bind h
    let sameKey := old.keyKind = x.keyKind ∧ old.domain = x.domain ∧ old.ident = x.ident ∧ old.da = x.da
    let inUse := old.bound = true ∨ (kk ≠ 0 ∧ (keyNow r t0 kk (bindingKey x)).isSome = true) ∨ (wide r = true ∧ kk = 2 ∧ tget false t0.direct h = true)
    let noPlace := kk ≠ 0 ∧ ¬(wide r = true ∧ kk = 1) ∧ streamPlace r t0 (bindingKey x) = none
    let objs := fun (old : Binding) => Staged.bind h old :: (if modify then [] else keyObject x none)
    let v := stageWait 130 (objs {}) (purgeStaging r)
    let te := stageTe v
    accepts specStreamBind p s = true → 1 ≤ h → h < 2 ^ 20 → kk < 3 → (kk = 1 → byteAt b 5 < 16) → (kk = 2 → le b 6 2 < 0xFFF) →
    reservedAt b 14 2 = true → byteAt b 16 < 3 → byteAt b 17 < 2 → (byteAt b 16 = 1 → le b 18 2 < 64 ∧ portExists r (le b 18 2) = true) →
    reservedAt b 20 4 = true → (wide r = true → kk = 1 → h = le b 6 2 * 16 + byteAt b 5) →
    (modify → ¬(old.bound = true ∧ sameKey) → exec (.streamBind p) s = .next (answered specStreamBind p stNotFound [] r)) ∧
    (¬modify → inUse → exec (.streamBind p) s = .next (answered specStreamBind p stExists [] r)) ∧
    (¬modify → ¬inUse → noPlace → exec (.streamBind p) s = .next (answered specStreamBind p stExhausted [] r)) ∧
    ((modify ∧ old.bound = true ∧ sameKey) ∨ (¬modify ∧ ¬inUse ∧ ¬noPlace) →
      exec (.streamBind p) s = .next (answered specStreamBind p stOk (toLE 8 (t64OfNs te)) (touchPorts (if byteAt b 16 = 1 then [le b 18 2] else []) (ovfWatchBoth
        (stageAll (fun t => objs (tget {} t.bind h)) te
          (fun t => { (if modify then t else setKey v x h true t) with bind := tset {} t.bind h { x with te := te } }) v)))))) ∧
  (∀ (p : Packet) (s : State), let r := reached specStreamUnbind p s
    let h := le p.params 0 4
    let old := tget {} (fur r r.hl.lead).tab.bind h
    let v := stageWait 130 (.bind h {} :: keyObject old none) (purgeStaging r)
    let te := stageTe v
    accepts specStreamUnbind p s = true → 1 ≤ h → h < 2 ^ 20 →
    (old.bound = false → exec (.streamUnbind p) s = .next (answered specStreamUnbind p stNotFound [] r)) ∧
    (old.bound = true → exec (.streamUnbind p) s = .next (answered specStreamUnbind p stOk (toLE 8 (t64OfNs te)) (ovfWatchBoth
      (stageAll (fun t => .bind h (tget {} t.bind h) :: keyObject old (some h)) te
        (fun t => { setKey v old h false t with bind := tset {} t.bind h { te := te } }) v))))) ∧
  (∀ (p : Packet) (s : State), let r := reached specStreamRead p s
    let b := p.params
    let h := le b 0 4
    let f := byteAt b 4
    let t := (fur r f).tab
    let x := tget {} t.bind h
    accepts specStreamRead p s = true → 1 ≤ h → h < 2 ^ 20 → f < 2 → reservedAt b 5 3 = true → powered r f = true →
    ∃ way set, exec (.streamRead p) s = .next (answered specStreamRead p stOk (toLE 4 (bindingWord x) ++ toLE 1 x.keyKind ++ toLE 1 x.domain ++
      toLE 2 x.ident ++ toBE 6 x.da ++ toLE 1 way ++ zeros 1 ++ toLE 4 set ++ toLE 8 (if x.te = 0 then 0 else t64OfNs x.te) ++ zeros 4) r) ∧
    ((x.keyKind = 0 ∨ (wide r = true ∧ x.keyKind = 1) ∨ findStream r t (bindingKey x) = none) → way = 0xFF ∧ set = 0) ∧
    (∀ q g, x.keyKind ≠ 0 → ¬(wide r = true ∧ x.keyKind = 1) → findStream r t (bindingKey x) = some (q, g) →
      (q < ovfBase → way = q % 4 ∧ set = q / 4) ∧ (ovfBase ≤ q → way = 0x80 ∧ set = q - ovfBase)))

/-- The arithmetic, immediate, shift, hash and jump instructions of a Tine write their result and go on, within the budget. Where a running Tine
stands at a word of the kind, and its cycles with the instruction's stay below the budget of its program, the command makes the Tine write the
destination with the result of R229 (add, subtract, and, or, xor, the three shifts by the low 5 bits, the two comparisons and the two halves of the
product; the immediate forms; LUI; HASH), g0 staying as it is, and go on at the next instruction; a branch goes to its target where its comparison
holds and to the next instruction where not, JAL and JALR write the next address and go to their target. The instruction's cycles (2 for the products,
a taken branch and the jumps, else 1) are counted, and the sampling sees the retirement. An immediate shift of kind 3 writes a free value, which the
specification does not state (the model's choice, log 2). -/
def Obligations.TineArithmeticAndControlFlow : Prop := ∀ (n t w : Nat) (a : Act) (s : State), tineAt s n t a w →
  let x := getG a (wR1 w)
  let y := getG a (wR2 w)
  let room := (progOf s n a).budget - cyclesBefore s a
  let put := fun v => setG (wRd w) v a
  (∀ (fn cost : Nat) (v : Word), (fn, v, cost) ∈ [(0, x + y, 1), (1, x - y, 1), (2, x &&& y, 1), (3, x ||| y, 1), (4, x ^^^ y, 1),
      (5, x <<< (y.toNat % 32), 1), (6, x >>> (y.toNat % 32), 1), (7, x.sshiftRight (y.toNat % 32), 1), (8, if x.toInt < y.toInt then 1 else 0, 1),
      (9, if x.toNat < y.toNat then 1 else 0, 1), (10, BitVec.ofNat 32 (x.toNat * y.toNat), 2),
      (11, BitVec.ofNat 32 (x.toNat * y.toNat / 2 ^ 32), 2)] →
    wOp w = 0 → wFn w = fn → cost < room → exec (.aluR n t) s = .next (tineNext n t w cost a (put v) s)) ∧
  (1 < room →
    (wOp w = 1 → exec (.addi n t) s = .next (tineNext n t w 1 a (put (BitVec.ofNat 32 (addImm a w))) s)) ∧
    (wOp w = 2 → exec (.andiOriXori n t) s = .next (tineNext n t w 1 a (put (x &&& BitVec.ofNat 32 (wImm w))) s)) ∧
    (wOp w = 3 → exec (.andiOriXori n t) s = .next (tineNext n t w 1 a (put (x ||| BitVec.ofNat 32 (wImm w))) s)) ∧
    (wOp w = 4 → exec (.andiOriXori n t) s = .next (tineNext n t w 1 a (put (x ^^^ BitVec.ofNat 32 (wImm w))) s)) ∧
    (wOp w = 5 → exec (.sltiSltiu n t) s = .next (tineNext n t w 1 a (put (if x.toInt < wSImm w then 1 else 0)) s)) ∧
    (wOp w = 6 → exec (.sltiSltiu n t) s = .next (tineNext n t w 1 a (put (if x.toNat < wImm w then 1 else 0)) s)) ∧
    (wOp w = 7 → bits w 6 5 = 0 → exec (.slliSrliSrai n t) s = .next (tineNext n t w 1 a (put (x <<< bits w 4 0)) s)) ∧
    (wOp w = 7 → bits w 6 5 = 1 → exec (.slliSrliSrai n t) s = .next (tineNext n t w 1 a (put (x >>> bits w 4 0)) s)) ∧
    (wOp w = 7 → bits w 6 5 = 2 → exec (.slliSrliSrai n t) s = .next (tineNext n t w 1 a (put (x.sshiftRight (bits w 4 0))) s)) ∧
    (wOp w = 7 → bits w 6 5 = 3 → exec (.slliSrliSrai n t) s = .next (tineWent n t w 1 a
      { put (BitVec.ofNat 32 (takeFree 32 s).1) with pc := a.pc + 4 } s (takeFree 32 s).2)) ∧
    (wOp w = 8 → exec (.lui n t) s = .next (tineNext n t w 1 a (put (BitVec.ofNat 32 (wImm w * 65536))) s)) ∧
    (wOp w = 0x28 → exec (.hash n t) s = .next (tineNext n t w 1 a (put (BitVec.ofNat 32 (mix x.toNat))) s)) ∧
    (0x10 ≤ wOp w → wOp w ≤ 0x15 → branchTaken (wOp w) (getG a (wRd w)) x = false → exec (.branch n t) s = .next (tineNext n t w 1 a a s))) ∧
  (2 < room →
    (0x10 ≤ wOp w → wOp w ≤ 0x15 → branchTaken (wOp w) (getG a (wRd w)) x = true →
      exec (.branch n t) s = .next (tineWent n t w 2 a { a with pc := target a (wSImm w) } s s)) ∧
    (wOp w = 0x16 → exec (.jal n t) s = .next (tineWent n t w 2 a { put (BitVec.ofNat 32 (a.pc + 4)) with pc := target a (signed 21 w) } s s)) ∧
    (wOp w = 0x17 → exec (.jalr n t) s = .next (tineWent n t w 2 a { put (BitVec.ofNat 32 (a.pc + 4)) with pc := addImm a w / 4 * 4 } s s))) ∧
  (∀ v, (setG 0 v a) = a)

/-- Loads, stores, constants, parameters, the frame window, BERS and CRC of a Tine read and write what their address names. Under the same premises
(the Tine stands at the word, and its cycles stay below the budget), a load at an aligned address of data memory writes its word, half or byte,
extended as its kind says, a byte not yet written being a free value; a store writes the bytes; a bad address is fault 0x02. CLD of an address within
the constants writes the word, a free value where it is not aligned, and beyond them it is fault 0x05; PLD writes the word of the stream's parameter
set. WSEL sets a window register, with fault 0x03 for an offset of a field. WLD of the raw window writes the 4 bytes once they have arrived, waits
with cause 1 before, faults beyond byte 508, and reads 0 in a timer activation; of a field it writes the word of the field once that is final, in a
timer activation of its time and metadata, else 0. BERS and CRC work on window bytes that have arrived, and wait with cause 1 before; CRC has fault
0x03 beyond byte 512, and BERS of an element with 4 length bytes writes its header length as a free value (the model's choice, log 66). -/
def Obligations.TineReadsMemoryAndItsFrame : Prop := ∀ (n t w : Nat) (a : Act) (s : State), tineAt s n t a w →
  let room := (progOf s n a).budget - cyclesBefore s a
  let put := fun v => setG (wRd w) (BitVec.ofNat 32 v) a
  let ad := addImm a w
  let waits := fun cause => setAct n t { a with stall := cause } s
  (∀ op size, (op, size) ∈ [(0x18, 4), (0x19, 2), (0x1A, 2), (0x1B, 1), (0x1C, 1)] → wOp w = op →
    (dataBad ad size = true → exec (.load n t) s = .next (tineFault n t a 0x02 s)) ∧
    (∀ v a1 s1, dataBad ad size = false → 2 < room → readBytes a ad size s = (v, a1, s1) →
      let r := if op = 0x19 then unsigned 32 (signed 16 v) else if op = 0x1B then unsigned 32 (signed 8 v) else v
      exec (.load n t) s = .next (tineWent n t w 2 a { setG (wRd w) (BitVec.ofNat 32 r) a1 with pc := a1.pc + 4 } s s1))) ∧
  (∀ op size, (op, size) ∈ [(0x1D, 4), (0x1E, 2), (0x1F, 1)] → wOp w = op →
    (dataBad ad size = true → exec (.store n t) s = .next (tineFault n t a 0x02 s)) ∧
    (dataBad ad size = false → 1 < room →
      exec (.store n t) s = .next (tineNext n t w 1 a (writeBytes a ad (toLE size (getG a (wRd w)).toNat)) s))) ∧
  (wOp w = 0x20 → let c := (area (bed s n) a.area).consts
    (c.length < ad + 4 → exec (.cld n t) s = .next (tineFault n t a 0x05 s)) ∧
    (ad + 4 ≤ c.length → ad % 4 ≠ 0 → 3 < room → exec (.cld n t) s = .next (tineWent n t w 3 a
      { put (takeFree 32 s).1 with pc := a.pc + 4 } s (takeFree 32 s).2)) ∧
    (ad + 4 ≤ c.length → ad % 4 = 0 → 3 < room → exec (.cld n t) s = .next (tineNext n t w 3 a (put (le c ad 4)) s))) ∧
  (wOp w = 0x21 → 3 < room → exec (.pld n t) s = .next (tineNext n t w 3 a
    (put (le (paramAt s n (hotSet (hotAt s (bedFur n) a.handle a.ns)) a.ns) (4 * (wImm w % 8)) 4)) s)) ∧
  (wOp w = 0x24 →
    (bits w 15 10 ≠ 0x3F → bits w 9 0 ≠ 0 → exec (.wsel n t) s = .next (tineFault n t a 0x03 s)) ∧
    ((bits w 15 10 = 0x3F ∨ bits w 9 0 = 0) → 1 < room → exec (.wsel n t) s = .next (tineNext n t w 1 a
      { a with win := tset (0, 0) a.win (wRd w % 8) (bits w 15 10, bits w 9 0) } s))) ∧
  (wOp w = 0x25 → ∀ fld off, tget (0, 0) a.win (wR1 w % 8) = (fld, off) → let i := (off : Int) + wSImm w
    (fld = 0x3F → (i < 0 ∨ 508 < i) → exec (.wld n t) s = .next (tineFault n t a 0x03 s)) ∧
    (fld = 0x3F → 0 ≤ i → i ≤ 508 →
      (∀ u, a.uid = some u →
        (arrived s (frame s u) (i.toNat + 4) = true → 2 < room → exec (.wld n t) s = .next (tineNext n t w 2 a (put (be (effBytes (frame s u)) i.toNat 4)) s)) ∧
        (arrived s (frame s u) (i.toNat + 4) = false → exec (.wld n t) s = .next (waits 1))) ∧
      (a.uid = none → 2 < room → exec (.wld n t) s = .next (tineNext n t w 2 a (put 0) s))) ∧
    (fld ≠ 0x3F → a.uid = none → 2 < room → exec (.wld n t) s = .next (tineNext n t w 2 a (put (if fld = 0x32 then
      (t64OfNs a.ns >>> (32 * wImm w)) % 2 ^ 32 else if fld = 0x35 then (a.md >>> (32 * wImm w)) % 2 ^ 32 else 0)) s)) ∧
    (∀ u, fld ≠ 0x3F → a.uid = some u →
      (∀ v, frameField s n a u fld = some v → 2 < room → exec (.wld n t) s = .next (tineNext n t w 2 a (put ((v >>> (32 * wImm w)) % 2 ^ 32)) s)) ∧
      (frameField s n a u fld = none → exec (.wld n t) s = .next (waits 1)))) ∧
  (wOp w = 0x26 → let i := (getG a (wR1 w)).toNat
    (510 < i → 3 < room → exec (.bers n t) s = .next (tineNext n t w 3 a (put 0) s)) ∧
    (∀ h, i ≤ 510 → winBytes s a i 2 = some h → let l := byteAt h 1
      (l < 128 → 3 < room → exec (.bers n t) s = .next (tineNext n t w 3 a (put (if 512 < i + 2 + l then 0 else byteAt h 0 * 2 ^ 24 + 2 * 65536 + l)) s)) ∧
      ((l = 128 ∨ 132 < l) → 3 < room → exec (.bers n t) s = .next (tineNext n t w 3 a (put 0) s)) ∧
      (∀ lb, 128 < l → l ≤ 132 → winBytes s a (i + 2) (l - 128) = some lb → 3 < room →
        (512 < i + 2 + (l - 128) + beNat lb → exec (.bers n t) s = .next (tineNext n t w 3 a (put 0) s)) ∧
        (i + 2 + (l - 128) + beNat lb ≤ 512 → l < 132 →
          exec (.bers n t) s = .next (tineNext n t w 3 a (put (byteAt h 0 * 2 ^ 24 + (2 + (l - 128)) * 65536 + beNat lb)) s)) ∧
        (i + 2 + (l - 128) + beNat lb ≤ 512 → l = 132 → exec (.bers n t) s = .next (tineWent n t w 3 a
          { put (byteAt h 0 * 2 ^ 24 + (takeFree 4 s).1 * 65536 + beNat lb) with pc := a.pc + 4 } s (takeFree 4 s).2))) ∧
      (128 < l → l ≤ 132 → winBytes s a (i + 2) (l - 128) = none → exec (.bers n t) s = .next (waits 1))) ∧
    (i ≤ 510 → winBytes s a i 2 = none → exec (.bers n t) s = .next (waits 1))) ∧
  (wOp w = 0x27 → let off := (getG a (wR1 w)).toNat
    let len := (getG a (wR2 w)).toNat
    (512 < off + len → exec (.crc n t) s = .next (tineFault n t a 0x03 s)) ∧
    (∀ b, off + len ≤ 512 → winBytes s a off len = some b → 2 + (len + 7) / 8 < room →
      exec (.crc n t) s = .next (tineNext n t w (2 + (len + 7) / 8) a (put (crc32c b)) s)) ∧
    (off + len ≤ 512 → winBytes s a off len = none → exec (.crc n t) s = .next (waits 1)))

/-- Record, timer, key, authentication, finding and verdict instructions of a Tine, its faults and its budget stop act as given. Under the same
premises: SLD and SST of a stream take its lock where no earlier activation is before it, and read the record that the activation sees or buffer the
write; they wait with cause 2 where not, and fault 0x04 for handle 0. SREL commits the buffered effects; HST and TMSET buffer the state bit and the
deadline, TMSET answering 1 for a further stream where 8,192 deadlines are held; TRD writes half of the furrow's time. AKEY names a key slot and
writes its key identifier or all ones, with fault 0x07 beyond slot 4,095; AUTH answers 2 or 3 for a bad slot or range, waits with cause 1 for window
bytes, else takes its unit when that is free, waiting the whole cycles until then, and AUTH_UNIT_DONE writes the result 2 cycles after the unit's
time, or stops the activation where the budget has run out before. EMIT appends a finding; VRD retires the activation with its verdict, committing
effects and findings together. A word that is no instruction is fault 0x01, and BUDGET_EXCEEDED stops the activation when its count reaches the
budget. -/
def Obligations.TineKeepsRecordsAndEndsActivations : Prop := (∀ (n t w : Nat) (a : Act) (s : State), tineAt s n t a w →
  let room := (progOf s n a).budget - cyclesBefore s a
  let x := getG a (wR1 w)
  let y := getG a (wR2 w)
  let put := fun v a => setG (wRd w) v a
  let fault := fun code => Host.Outcome.next (tineFault n t a code s)
  let waits := fun cause => Host.Outcome.next (setAct n t { a with stall := cause } s)
  let a1 := { a with locked := true }
  let s1 := if a.locked then s else modBed n (fun b => { b with lock := tput b.lock a.handle a.seq }) s
  let sst := { a1 with recBuf := tput a.recBuf (wImm w % 8) (getG a (wRd w)), pc := a.pc + 4 }
  (wOp w = 0x2C →
    (a.handle = 0 → exec (.sld n t) s = fault 0x04) ∧
    (a.handle ≠ 0 → a.locked = false → mayLock (bed s n) a = false → exec (.sld n t) s = waits 2) ∧
    (a.handle ≠ 0 → (a.locked = true ∨ mayLock (bed s n) a = true) → 2 < room → exec (.sld n t) s = .next (tineWent n t w 2 a
      { put (tget 0 (wordsOf s1 n a1) (wImm w % 8)) a1 with pc := a.pc + 4 } s s1))) ∧
  (wOp w = 0x2D →
    (a.handle = 0 → exec (.sst n t) s = fault 0x04) ∧
    (a.handle ≠ 0 → a.locked = false → mayLock (bed s n) a = false → exec (.sst n t) s = waits 2) ∧
    (a.handle ≠ 0 → (a.locked = true ∨ mayLock (bed s n) a = true) → 1 < room → exec (.sst n t) s = .next (tineWent n t w 1 a sst s s1))) ∧
  (wOp w = 0x2E → 1 < room → exec (.srel n t) s = .next (tineWent n t w 1 a { committed a with pc := a.pc + 4 } s (commit n a s))) ∧
  (wOp w = 0x2F →
    (a.handle = 0 → exec (.hst n t) s = fault 0x04) ∧
    (a.handle ≠ 0 → 1 < room → exec (.hst n t) s = .next (tineNext n t w 1 a { a with hst := some (bit x.toNat 0) } s))) ∧
  (wOp w = 0x30 → 2 < room → let tm := t64OfNs (repNs s (bedFur n))
    exec (.trd n t) s = .next (tineNext n t w 2 a (put (BitVec.ofNat 32 (if wImm w = 0 then tm / 2 ^ 32 else tm)) a) s)) ∧
  (wOp w = 0x31 →
    (a.handle = 0 → exec (.tmset n t) s = fault 0x04) ∧
    (a.handle ≠ 0 → x.toNat = 0 → 2 < room → exec (.tmset n t) s = .next (tineNext n t w 2 a (put 0 { a with tm := some none }) s)) ∧
    (a.handle ≠ 0 → x.toNat ≠ 0 → 2 < room → (tmem (bed s n).deadlines a.handle = true ∨ deadlinesHeld (bed s n) a.handle < 8192) →
      exec (.tmset n t) s = .next (tineNext n t w 2 a (put 0 { a with tm := some (some (a.ns + x.toNat * 1000)) }) s)) ∧
    (a.handle ≠ 0 → x.toNat ≠ 0 → 2 < room → tmem (bed s n).deadlines a.handle = false → 8192 ≤ deadlinesHeld (bed s n) a.handle →
      exec (.tmset n t) s = .next (tineWent n t w 2 a { put 1 a with pc := a.pc + 4 } s
        (fireFurMs (bedFur n) (bedBase n + 4) 0x02 [] (bctr 12 n s))))) ∧
  (wOp w = 0x34 → let k := slotAt (fur s (bedFur n)).tab x.toNat a.ns
    (4095 < x.toNat → exec (.akey n t) s = fault 0x07) ∧
    (x.toNat ≤ 4095 → 4 < room → exec (.akey n t) s = .next (tineNext n t w 4 a
      (put (if slotValid k a.ns then BitVec.ofNat 32 k.keyId else 0xFFFFFFFF) { a with slot := some x.toNat }) s))) ∧
  (wOp w = 0x35 → let o := x.toNat / 65536
    let l := x.toNat % 65536
    let q := y.toNat / 65536
    let m := y.toNat % 65536
    (a.slot = none → exec (.auth n t) s = fault 0x07) ∧
    (∀ i, a.slot = some i → let k := slotAt (fur s (bedFur n)).tab i a.ns
      let bad := k.valid = false ∨ k.alg = 0 ∨ 7 < k.alg ∨ m ≠ tagLen k.alg
      ((512 < o + l ∨ 512 < q + m) → 2 < room → exec (.auth n t) s = .next (tineNext n t w 2 a (put 3 a) s)) ∧
      (o + l ≤ 512 → q + m ≤ 512 → bad → 2 < room → exec (.auth n t) s = .next (tineNext n t w 2 a (put 2 a) s)) ∧
      (o + l ≤ 512 → q + m ≤ 512 → ¬bad → (winBytes s a o l = none ∨ winBytes s a q m = none) → exec (.auth n t) s = waits 1) ∧
      (∀ d tag, o + l ≤ 512 → q + m ≤ 512 → ¬bad → winBytes s a o l = some d → winBytes s a q m = some tag →
        let sha := decide (k.alg ≤ 3)
        let cyc := unitCycles k.alg l
        let asked := cycleEdge a (cyclesBefore s a)
        let unit := if sha then (bed s n).shaFree else (bed s n).gcmFree
        let c1 := cyclesBefore s a + ceilDiv ((unit - asked) * 4) 5
        let done := cycleEdge a (c1 + cyc)
        exec (.auth n t) s = .next (setAct n t { a with
          phase := 1, authRd := wRd w, authCode := if tagOf k d (secInfo s n a).1 (secInfo s n a).2 = tag then 0 else 1, authCost := 2 + cyc, authWord := w
          stall := if asked < unit then (if sha then 3 else 4) else a.stall, authDone := c1 + 2 + cyc }
          (modBed n (fun b => if sha then { b with shaFree := done } else { b with gcmFree := done }) s))))) ∧
  (wOp w = 0x38 → 2 < room → exec (.emit n t) s = .next (tineNext n t w 2 a { a with finds := a.finds ++
    [{ ns := a.ns, qns := actQns s a, handle := a.handle, prog := a.prog, timer := a.uid.isNone, code := wFn w % 256, d0 := x, d1 := y }] } s)) ∧
  (wOp w = 0x3C → let c := cyclesBefore s a + 1
    (4 < wImm w % 8 → exec (.vrd n t) s = fault 0x01) ∧
    (wImm w % 8 ≤ 4 → 1 ≤ room → exec (.vrd n t) s = .next (retire n t a (wImm w % 8) 
      (sample n t a w (c - a.cycles) 1 a.stall (cycleEdge a c) (reachEdge (cycleEdge a c) s))))) ∧
  (legalWord w = false → exec (.illegalInstruction n t) s = fault 0x01)) ∧
  (∀ (n t : Nat) (a : Act) (s : State), s.clk.coreStopped = false → act? s n t = some a → let budget := (progOf s n a).budget
    let c := a.authDone
    exec (.budgetExceeded n t) s = .next (budgetStop n t a (reachEdge (cycleEdge a budget) s)) ∧
    (a.phase = 1 → budget ≤ c → exec (.authUnitDone n t) s = .next (budgetStop n t a (reachEdge (cycleEdge a budget) s))) ∧
    (a.phase = 1 → c < budget → exec (.authUnitDone n t) s = .next (setAct n t { setG a.authRd (BitVec.ofNat 32 a.authCode) a with
        phase := 0, pc := a.pc + 4, cycles := c, stall := 0 }
      (sample n t a a.authWord (c - a.cycles) a.authCost a.stall (cycleEdge a c) (reachEdge (cycleEdge a c) s)))))

/-- Starts, record fetches, verdict releases, lockups, deadlines, retries and image activations act on their Bed as given. ACTIVATION_START of a
running Bed, once the records of its queue are asked for, takes its first startable entry: a frame's, with a free Tine and room in the release window,
starts there with the frame's metadata, and a timer's likewise with a free value as metadata (the model's choice), its deadline disarmed; a timer
whose deadline has changed leaves the queue. RECORD_FETCH_DONE installs the oldest record fetched, zeroed and with an event where its burst was bad,
and waits while the deep store trains. VERDICT_RELEASE of the oldest entry of its order, once it has a verdict, counts it, removes it and gives the
verdict to its frame; one that is not inline waits for the activations queued before it. BED_LOCKUP of a stuck Tine, or of an entry of the release
window 100 us old, marks the Bed locked, fires and raises the furrow's alarm. DEADLINE_FIRE queues the earliest deadline's activation 50 us after it;
TIMER_QUEUE_RETRY offers the oldest one again at its time, or drops it where its deadline is gone. IMAGE_ACTIVATION_COMPLETE completes, 100 us after
T, every Bed its command named, and the command. TINE_IMAGE_VERIFIED answers BAD_PARAM with the first wrong offset, AUTH_FAIL, or OK with the image in
the inactive area of each named Bed. -/
def Obligations.BedsDispatchAndRelease : Prop :=
  (∀ (n : Nat) (q : QEnt) (s : State), s.clk.coreStopped = false → let v := wantQueued n s
    let b := bed v n
    let drop := modBed n (fun b => { b with queue := b.queue.filter (fun y => y.seq != q.seq) }) v
    bedRuns s n = true → startable b = some q →
    (q.uid = none → (q.handle, q.ns) ∉ armed v n → exec (.activationStart n) s = .next drop) ∧
    (∀ t, (b.release.filter (·.window)).length < 128 → freeTine b 0 (if pinnedCount b = 0 then 63 else 55) = some t →
      (∀ u, q.uid = some u → exec (.activationStart n) s =
        .next (startAct n t q false (((decOf (frame v u) (bedFur n)).map (fun d => d.md)).getD 0) drop)) ∧
      (q.uid = none → (q.handle, q.ns) ∈ armed v n → exec (.activationStart n) s =
        .next (startAct n t q false (Config.timerMetadata q.handle q.ns).toNat (disarm n q.handle q.ns drop))))) ∧
  (∀ (n h : Nat) (rest : List Nat) (s : State), s.clk.coreStopped = false → (bed s n).fetching = h :: rest → let pin := hotInline (tget 0 (fur s (bedFur n)).hot h)
    (deepTraining s = true → ∀ bad, exec (.recordFetchDone n bad) s = .next s) ∧
    (deepTraining s = false → exec (.recordFetchDone n true) s = .next (fireBed n 4 0x03 [] (bctr 11 n (install n h [] pin s)))) ∧
    (deepTraining s = false → deepUp s (recAddr s (bedFur n) h) = true →
      exec (.recordFetchDone n false) s = .next (install n h (deepRec s (bedFur n) h) pin s))) ∧
  (∀ (n v : Nat) (inl : Bool) (e : RelEnt) (s : State), s.clk.coreStopped = false → (bed s n).release.find? (fun e => e.inline_ == inl) = some e → e.verdict = some v →
    (inl = false → (∃ q ∈ (bed s n).queue, q.seq < e.seq) → exec (.verdictRelease n inl) s = .next s) ∧
    ((inl = true ∨ ∀ q ∈ (bed s n).queue, e.seq ≤ q.seq) → let s1 := bctr (13 + v) n (bctr 2 n (modBed n (fun b => { b with release := b.release.filter (fun y => y.seq != e.seq) }) s))
    (e.uid = none → exec (.verdictRelease n inl) s = .next s1) ∧
    (∀ u, e.uid = some u → exec (.verdictRelease n inl) s = .next (if tmem s1.frames u then reap u (verdictFrame n u v e.handle inl s1)
      else gleanVerdict (bedFur n) u v s1)))) ∧
  (∀ (n : Nat) (s : State), s.clk.coreStopped = false →
    let lock := fun (s : State) =>
      raiseAlarm (bedFur n) 1 (fireFur (bedFur n) (bedBase n + 6) 0x02 [] (modBed n (fun b => { b with locked := true }) s))
    exec (.bedLockup n true) s = .next (lock s) ∧
    (∀ e rest, (bed s n).release.filter (·.window) = e :: rest → ((bed s n).tines ≠ [] ∨ (bed s n).queue ≠ []) →
      exec (.bedLockup n false) s = .next (lock (reachEdge (rest.foldl (fun m y => min m y.since) e.since + 100 * usE) s)))) ∧
  (∀ (n h d : Nat) (s : State), s.clk.coreStopped = false → nextDeadline s n = some (h, d) → (bed s n).stopped = false →
    exec (.deadlineFire n) s = .next (queueTimer n h d (reachRep (bedFur n) (d + 50000) s))) ∧
  (∀ (n h d e : Nat) (rest : List (Nat × Nat × Nat)) (s : State), s.clk.coreStopped = false → (bed s n).retry = (h, d, e) :: rest → let v := reachEdge e s
    ((h, d) ∈ armed v n → exec (.timerQueueRetry n) s = .next (queueTimer n h d v)) ∧
    ((h, d) ∉ armed v n → exec (.timerQueueRetry n) s = .next (modBed n (fun b => { b with retry := rest }) v))) ∧
  (∀ (n : Nat) (k : ImgAct) (s : State), s.clk.coreStopped = false → (bed s n).pendAct = some k →
    let s2 := (List.range 16).foldl (fun s m => match (bed s m).pendAct with
      | some q => if q.t = k.t && q.ticket = k.ticket then imageDone m s else s
      | none => s) (reachNs (k.t + 100000) s)
    (k.ticket = none → exec (.imageActivationComplete n) s = .next s2) ∧
    (∀ c, k.ticket = some c → exec (.imageActivationComplete n) s =
      .next (complete c stOk (toLE 8 (t64OfNs k.t) ++ toLE 1 (1 - (bed s n).active) ++ zeros 3) s2))) ∧
  (∀ (l : ImgLoad) (k : Ticket) (s : State), s.clk.coreStopped = false → s.imgLoad = some l → l.ticket = some k → let s1 := { s with imgLoad := none }
    (∀ o, imageBad l.bytes = some o → exec .tineImageVerified s = .next (completeDetail k stBadParam o [] s1)) ∧
    (imageBad l.bytes = none → imageAuth s l.bytes = false → exec .tineImageVerified s = .next (completeDetail k stAuthFail 0 [] s1)) ∧
    (imageBad l.bytes = none → imageAuth s l.bytes = true → exec .tineImageVerified s = .next (complete k stOk (toLE 4 (readImage l.bytes).version)
      ((maskBeds s l.mask).foldl (fun s n => fireFur (bedFur n) (bedBase n + 5) 0x01 []
        (modBed n (fun b => setArea (1 - b.active) (readImage l.bytes) b) s)) s1))))

/-- STREAM_SUPERVISE, KEY_SLOT_WRITE, the TINE_IMAGE commands, TINE_SAMPLE_SET and BED_STATUS take effect as given. Served with legal fields:
STREAM_SUPERVISE of a bound handle, where no limit of its Bed is met, waits for its staging record, sets program, mode and parameter set in the hot
word of each updated furrow with the old word staged, pins or unpins the record, and answers TE; its read form answers the stream's record and
deadline; its parameter form sets a parameter set in each Bed, staged; its reset form clears the record and the deadline of each updated furrow from
TE on, with the old record staged. KEY_SLOT_WRITE writes or clears a key slot, staged, and answers TE. TINE_IMAGE_LOAD begins, fills, ends (ACCEPTED)
and aborts the load of a session. TINE_IMAGE_ACTIVATE of Beds whose inactive image is loaded and whose layout fits is ACCEPTED and sets T in each.
TINE_SAMPLE_SET sets the sampling of each named furrow with its count and buffer cleared. BED_STATUS answers the state, images, levels and counters of
a Bed without effect. -/
def Obligations.SupervisionKeysAndImagesAreCommanded : Prop :=
  (∀ (p : Packet) (s : State), let r := reached specStreamSupervise p s
    let b := p.params
    let h := le b 4 4
    let i := le b 4 2
    accepts specStreamSupervise p s = true → reservedAt b 1 3 = true →
    (let k := bedIndex h 0
     let l := r.hl.lead
     let inl := bit (byteAt b 9) 0
     let was := tget 0 (fur r l).hot h
     let v := stageWait 128 [.hot h 0] (purgeStaging r)
     let te := stageTe v
     let s1 := eachFur (fun x => { x with
       hot := tset 0 x.hot h (byteAt b 8 * 2 ^ 13 + b2n inl * 2 ^ 12 + le b 10 2 * 4 + b2n (hotActive (tget 0 x.hot h)) * 2)
       tab := { x.tab with staging := x.tab.staging ++ [{ what := .hot h (tget 0 x.hot h), te := te }] } }) v
     byteAt b 0 = 0 → 1 ≤ h → h < 2 ^ 20 → byteAt b 8 < 128 → byteAt b 9 < 2 → le b 10 2 ≤ 1023 → reservedAt b 12 4 = true →
     (tget {} (fur r l).tab.bind h).bound = true → (inl = true → hotInline was = true ∨ pinsOf r (8 * l + k) < 1024) →
     (streamRegion r = true ∨ byteAt b 8 = 0 ∨ hotProg was ≠ 0 ∨ supervisedOn r l k < 4096) →
     exec (.streamSupervise p) s = .next (answered specStreamSupervise p stOk (toLE 8 (t64OfNs te))
       ([0, 1].foldl (fun s f => if reaches s f then pinRecord (8 * f + k) h inl s else s) s1))) ∧
    (let f := byteAt b 8
     let bd := bed r (8 * f + bedIndex h 0)
     let hot := tget 0 (fur r f).hot h
     let entry := progIn bd bd.active (hotProg hot)
     byteAt b 0 = 1 → 1 ≤ h → h < 2 ^ 20 → f < 2 → reservedAt b 9 3 = true → powered r f = true →
     ∃ res along body, exec (.streamSupervise p) s = .next (answered specStreamSupervise p stOk (toLE 4 (hot * 4096) ++ toLE 1 res ++
       toLE 1 (8 * f + bedIndex h 0) ++ toLE 1 (b2n along) ++ zeros 1 ++ toLE 8 (((tget? bd.deadlines h).map t64OfNs).getD 0) ++ body) r) ∧
     (along = true ↔ hotInline hot = true ∧ ∃ e, entry = some e ∧ bit e.flags 1 = false) ∧
     (∀ x, tget? bd.recs h = some x → res = (if x.pinned then 2 else 1) ∧ body = recBytesOf x) ∧
     (tget? bd.recs h = none → res = 0 ∧ body = if streamRegion r then recBytesOf { words := deepRec r f h } else zeros 32)) ∧
    (let v := stageWait 128 [.param i []] (purgeStaging r)
     let te := stageTe v
     byteAt b 0 = 2 → i ≤ 1023 → reservedAt b 6 2 = true → firstBad (paramOk b 8) = none →
     exec (.streamSupervise p) s = .next (answered specStreamSupervise p stOk (toLE 8 (t64OfNs te)) (eachFur (fun x => { x with
       beds := (List.range 8).foldl (fun t k => tmod {} t k (fun bd => { bd with params := tset paramDefault bd.params i (slice b 8 32) })) x.beds
       tab := { x.tab with staging := x.tab.staging ++ [{
         what := .param i (tget paramDefault ((tget? x.beds 0).getD {}).params i), te := te }] } }) v))) ∧
    (let v := stageWait 128 [.reset h [] none] (purgeStaging r)
     let te := stageTe v
     byteAt b 0 = 3 → 1 ≤ h → h < 2 ^ 20 →
     exec (.streamSupervise p) s = .next (answered specStreamSupervise p stOk (toLE 8 (t64OfNs te))
       ([0, 1].foldl (fun s f => if reaches s f then resetStream f h te s else s) v)))) ∧
  (∀ (f h te : Nat) (s : State), State.wf s = true → f < 2 → let t := resetStream f h te s
    let n := 8 * f + bedIndex h 0
    let old := match tget? (bed s n).recs h with
      | some r => r.words
      | none => if streamRegion s then deepRec s f h else []
    (fur t f).tab.staging = (fur s f).tab.staging ++ [{ what := .reset h old ((tget? (bed s n).deadlines h).filter (fun d => decide (d < te))), te := te }] ∧ (recOf t n h).words = [] ∧ deepRec t f h = recOfBytes [] ∧
    tget? (bed t n).deadlines h = none ∧ fur t (other f) = fur s (other f)) ∧
  (∀ (p : Packet) (s : State), let r := reached specKeySlotWrite p s
    let b := p.params
    let n := le b 0 2
    let alg := byteAt b 40
    let nb := le b 44 8
    let na := le b 52 8
    let v := stageWait 128 [.slot n {}] (purgeStaging r)
    let te := stageTe v
    let put := fun new => answered specKeySlotWrite p stOk (toLE 8 (t64OfNs te))
      (stageAll (fun t => [.slot n (tget {} t.keys n)]) te (fun t => { t with keys := tset {} t.keys n new }) v)
    accepts specKeySlotWrite p s = true → n < 4096 → reservedAt b 3 1 = true →
    (byteAt b 2 = 1 → exec (.keySlotWrite p) s = .next (put {})) ∧
    (byteAt b 2 = 0 → alg ≤ 7 → keyLenOk alg (byteAt b 41) = true → reservedAt b 42 2 = true → t64Ok nb = true → t64Ok na = true →
      nsOfT64 nb < nsOfT64 na → reservedAt b 60 8 = true → exec (.keySlotWrite p) s = .next (put {
        valid := alg != 0, material := slice b 4 32, keyId := le b 36 4, alg := alg, len := byteAt b 41, notBefore := nsOfT64 nb, notAfter := nsOfT64 na }))) ∧
  (∀ (p : Packet) (s : State), let r := reached specTineImageLoad p s
    let b := p.params
    let total := le b 8 4
    accepts specTineImageLoad p s = true → reservedAt b 2 2 = true → reservedAt b 12 4 = true →
    (byteAt b 0 = 0 → byteAt b 1 ≠ 0 → total ≤ 18608 → (∀ l, r.imgLoad = some l → l.session = p.session ∧ l.ticket = none) →
      (∀ n ∈ maskBeds r (byteAt b 1), (bed r n).pendAct = none) →
      exec (.tineImageLoad p) s = .next (answered specTineImageLoad p stOk []
        ((maskBeds r (byteAt b 1)).foldl (fun s n => modBed n (fun b => setArea (1 - b.active) {} b) s)
          { r with imgLoad := some { session := p.session, mask := byteAt b 1, total := total, bytes := zeros total } }))) ∧
    (∀ l, r.imgLoad = some l → l.session = p.session → l.ticket = none →
      (byteAt b 0 = 1 → le b 4 4 + (b.length - 16) ≤ l.total → exec (.tineImageLoad p) s = .next (answered specTineImageLoad p stOk []
        { r with imgLoad := some { l with bytes := overlay l.bytes (le b 4 4) (b.drop 16) } })) ∧
      (byteAt b 0 = 2 → exec (.tineImageLoad p) s = .next (deferred specTineImageLoad p
        { r with imgLoad := some { l with ticket := some (ticketFor specTineImageLoad (asked specTineImageLoad p)) } })) ∧
      (byteAt b 0 = 3 → exec (.tineImageLoad p) s = .next (answered specTineImageLoad p stOk [] { r with imgLoad := none })))) ∧
  (∀ (p : Packet) (s : State), let r := reached specTineImageActivate p s
    let b := p.params
    let bs := maskBeds r (byteAt b 0)
    let t := if le b 8 8 = 0 then nextWholeMs r else nsOfT64 (le b 8 8)
    accepts specTineImageActivate p s = true → byteAt b 0 ≠ 0 → reservedAt b 1 7 = true →
    (le b 8 8 = 0 ∨ (t64Ok (le b 8 8) = true ∧ inMinute r t = true)) →
    (∀ n ∈ bs, (bed r n).pendAct = none ∧ (area (bed r n) (1 - (bed r n).active)).loaded = true ∧
      ((area (bed r n) (bed r n).active).loaded = true → (bed r n).area0.layout = (bed r n).area1.layout ∨ r.dev.state = 3)) →
    exec (.tineImageActivate p) s = .next (deferred specTineImageActivate p (bs.foldl (fun s n => modBed n (fun x => { x with pendAct := some {
      t := t, since := r.clk.edges
      ticket := some (ticketFor specTineImageActivate (asked specTineImageActivate p)) } }) s) r))) ∧
  (∀ (p : Packet) (s : State), let r := reached specTineSampleSet p s
    let b := p.params
    accepts specTineSampleSet p s = true → 1 ≤ byteAt b 0 → byteAt b 0 ≤ 3 → byteAt b 1 ≤ 2 → byteAt b 2 ≤ 127 → reservedAt b 3 1 = true →
    1 ≤ le b 4 4 → le b 4 4 ≤ 16777216 → reservedAt b 8 8 = true →
    exec (.tineSampleSet p) s = .next (answered specTineSampleSet p stOk [] ((bitList 2 (byteAt b 0)).foldl (fun s f => if reaches s f then
      modFur f (fun x => { x with samp := { mode := byteAt b 1, filter := byteAt b 2, n := le b 4 4, count := 0, buf := [] } }) s else s) r))) ∧
  (∀ (p : Packet) (s : State), let r := reached specBedStatus p s
    let n := byteAt p.params 0
    let x := bed r n
    accepts specBedStatus p s = true → n < 16 → reservedAt p.params 1 3 = true →
    (powered r (bedFur n) = false → exec (.bedStatus p) s = .next (answered specBedStatus p stOk (toLE 1 3 ++ zeros 91) r)) ∧
    (powered r (bedFur n) = true → exec (.bedStatus p) s = .next (answered specBedStatus p stOk
      (toLE 1 (if x.stopped then 2 else if bit r.slices.bedClocks n then 1 else 0) ++ toLE 1 x.active ++
       toLE 1 (b2n x.area0.loaded + 2 * b2n x.area1.loaded) ++ zeros 1 ++ toLE 4 (area x x.active).version ++ toLE 2 x.tines.length ++
       toLE 2 x.queue.length ++ toLE 2 x.recs.length ++ toLE 2 (pinnedCount x) ++ toLE 2 x.deadlines.length ++ zeros 2 ++
       (List.range 18).flatMap (fun k => toLE 4 (tget 0 x.ctr k))) r)))

/-- Cell requests, rebuilds, admission, completion, residence checks and stream shaper releases act as R267 to R291 give them. CELL_REQUEST serves, in
the next drill clock of its half, the two best requests in their order, one at each allocator port, each with the take or rebooking of one cell and
then one returned cell, counts the ungranted ones, ends the admissions whose cells are all booked, each after the earlier ones of its input and class,
and releases the frames of the host, of the device and of the deep store that have all their cells; one that gets none ends with its result.
REBUILD_SCAN_COMPLETE threads the quarantined cells but those whose read back failed, which retire with an event each, and fires the end of the
rebuild. GRANARY_ADMIT of a frame decided as dropped drops it, as one whose queue holds frames of the other kind; a frame whose queue holds MAX_FRAMES
is dropped with the limit event; one that its meters drop is dropped; any other waits until its level 0 cells are rebooked, and at once where it holds
none. Then one decided as dropped meanwhile, or left in no copy by a failed rebooking or a lost header word, ends; any other is admitted: it is
counted into its queue, takes its sequence numbers, and is released, or spills first where R287 says and a spill record is free. COPY_COMPLETE of a
copy wholly written offers its entries. RESIDENCE_CHECK marks a head that has not expired or is crossing, and discards any other with its counter and
event. STREAM_SHAPER_RELEASE waits for a complete head that no verdict holds and for T not negative; then it takes the head's length and releases it,
or discards it where it has expired and looks at the next. -/
def Obligations.TheGranaryAllocatesAdmitsAndReturns : Prop :=
  (∀ (h : Nat) (d0 d1 : Option Nat) (s : State), s.clk.coreStopped = false → h < 2 → let s0 := reachEdge (half s h).at_ s
    let more := (s0.frames.filter (fun e => wants s0 h e.2)).length - 2
    let v := modGran (fun g => { g with ungranted := (g.ungranted + more) % 2 ^ 48 }) (modHalf h (fun x => { x with at_ := s0.clk.edges + 1 }) s0)
    let ends := fun (t : State) =>
      let t2 := (t.frames.filter (fun e => booked e.2)).foldl (fun t e => admitNext e.1 t) t
      (t2.frames.filter (fun e => askMet e.2)).foldl (fun t e => askDone e.1 t) t2
    let next := fun (q : Option Nat) => Host.Outcome.next (ends (servePort h q d1 (servePort h (bestReq v h none) d0 v)))
    (bestReq v h none = none → exec (.cellRequest h d0 d1) s = next none) ∧
    (∀ u, bestReq v h none = some u → exec (.cellRequest h d0 d1) s = next (bestReq v h (some u)))) ∧
  (∀ (h u : Nat) (d : Option Nat) (s : State), let x := frame s u
    servePort h none d s = serveReturn h s ∧
    (tmem s.frames u = true → wants s h x = true →
      (unbooked x h = [] → servePort h (some u) d s = serveReturn h (serveReq h u d s)) ∧
      (∀ cell rest, unbooked x h = cell :: rest → servePort h (some u) d s = serveReturn h (serveRebook h u cell s))) ∧
    ((tmem s.frames u = false ∨ wants s h x = false) → servePort h (some u) d s = serveReturn h s)) ∧
  (∀ (h : Nat) (s : State), ((half s h).returns = [] → serveReturn h s = s) ∧
    (∀ r rest, (half s h).returns = r :: rest →
      let s1 := giveCell h r.cell (chargeLevel h r.level r.cls r.port r.host false (modHalf h (fun x => { x with returns := rest }) s))
      serveReturn h s = if r.level = 0 then s1 else countCell r.queue r.cls h false s1)) ∧
  (∀ (h e : Nat) (bad : List Nat) (s : State), s.clk.coreStopped = false → h < 2 → (half s h).rebuilding = some e →
    let x := half s h
    let all := toRuns (x.quarantined ++ x.quarantined1) (x.quarRuns ++ x.quarRuns1)
    let dead := bad.filter (fun c => all.any (fun r => r.1 ≤ c && c ≤ r.2))
    let runs := dead.foldl (fun l c => cutRun c l) all
    exec (.rebuildScanComplete h bad) s = .next (fire (0x200 + h) 0x80 (toLE 4 (runLen runs)) (gctr 11 h
      (dead.foldl (fun s _ => fire (0x202 + h) 0 [] s) (modHalf h (fun x => { x with
        runs := x.runs ++ runs, quarantined := [], quarRuns := [], quarantined1 := [], quarRuns1 := [], rebuilding := none
        retired := dead.foldl (fun l c => insertSorted c l) x.retired }) s))))) ∧
  (∀ (u bad_ : Nat) (d : Decision) (s00 : State), s00.clk.coreStopped = false → let w := if 128 ≤ bad_ then (0, discardUpset u (bad_ - 128) s00) else readBelow 64 bad_ s00
    let s0 := w.2
    let x := frame s0 u
    let k := d.class_
    let q := queueKey d.handle x.port k
    let s := modFrame u (fun x => { x with class_ := k, queue := q }) s0
    let fh := frameHalf s x
    let y := queue s q
    let r := meterFrame x k d.meter (bit w.1 0) (bit w.1 1) s
    let s2 := modFrame u (fun z => { z with dropElig := r.1.de, debits := r.1.debits, expect := expectOf r.2 x
                                            limit := if r.1.sdu = 0 then z.limit else min z.limit r.1.sdu }) r.2
    let hs := if (frame s2 u).class_ = 7 then [0, 1] else [relHalf s2 (frame s2 u)]
    let s3 := hs.foldl (fun s h => if keeps s u h then modCopy u h (fun c => { c with undecided := false }) s else s)
      (modFrame u (fun x => { x with admitting := some w.1 }) s2)
    let mixed := y.list ≠ [] ∧ y.kind ≠ b2n (k == 7)
    decOf x (admitFur s0 x) = some d → x.admitted = false → x.admitting = none → x.kind = 0 → (x.copyA.isSome = true ∨ x.copyB.isSome = true) →
    (keeps s0 u 0 = true ∨ keeps s0 u 1 = true) →
    (d.dropped ≠ 0 → exec (.granaryAdmit u bad_) s00 = .next (dropFrame u s)) ∧
    (d.dropped = 0 → mixed → exec (.granaryAdmit u bad_) s00 = .next (gctr 17 fh (dropFrame u s))) ∧
    (d.dropped = 0 → ¬mixed →
      ((profileOf s q k).maxFrames ≤ framesOf s q → exec (.granaryAdmit u bad_) s00 =
        .next (limitEvent d.handle (gctr 6 fh (dropFrame u (modQueue q (fun y => { y with dropSeen := true }) s))))) ∧
      (framesOf s q < (profileOf s q k).maxFrames → r.1.drop = true → exec (.granaryAdmit u bad_) s00 = .next (dropFrame u s2)) ∧
      (framesOf s q < (profileOf s q k).maxFrames → r.1.drop = false →
        exec (.granaryAdmit u bad_) s00 = .next (admitNext u s3)))) ∧
  (∀ (u bad : Nat) (d : Decision) (s : State), let x := frame s u
    let k := x.class_
    let h := relHalf s x
    let hs := if k = 7 then [0, 1] else [h]
    let s3 := hs.foldl (fun s h => headerWord u h (bit bad (2 + h)) s) (modFrame u (fun x => { x with admitting := none }) s)
    let s5 := modQueue x.queue (fun y => { y with
        frames := y.frames + 1, kind := if y.frames = 0 then b2n (k == 7) else y.kind, state := if y.state = 2 then 2 else 1, lastClass := k })
      (modFrame u (fun x => { x with admitted := true, handle := d.handle, limited := resLimit s3 k != 0 }) s3)
    let s6 := assignSeqs u d.handle d.egress (seqUpset u d.handle d.egress bad s5)
    x.admitting = some bad → decOf x (admitFur s x) = some d →
    (d.dropped ≠ 0 → admitFinish u s = dropFrame u s3) ∧
    (d.dropped = 0 → hs.any (keeps s3 u) = false → admitFinish u s = reap u s3) ∧
    (d.dropped = 0 → hs.any (keeps s3 u) = true →
      (spills s6 x.queue k h d.egress = false → admitFinish u s = admitRelease u d.handle k s6) ∧
      (∀ v, spills s6 x.queue k h d.egress = true →
        (startSpill u x.queue k h d.egress s6 = (true, v) → admitFinish u s = admitRelease u d.handle k v) ∧
        (startSpill u x.queue k h d.egress s6 = (false, v) → admitFinish u s = reap u v)))) ∧
  (∀ (u h : Nat) (c : Copy) (s : State), s.clk.coreStopped = false → h < 2 → copyOf (frame s u) h = some c → (frame s u).rxDone = true → c.complete = false → c.poison = false →
    (frame s u).spillDone = false → cellsFor (effBytes (frame s u)).length ≤ c.cells.length →
    exec (.copyComplete u h) s = .next (tryReturn u h (offerCopy u h 1 (offerCopy u h 0 (modCopy u h (fun c => { c with complete := true }) s))))) ∧
  (∀ (u : Nat) (s : State), let x := frame s u
    let before := ∃ e ∈ s.frames, e.1 < u ∧ e.2.admitting.isSome = true ∧ e.2.port = x.port ∧ e.2.class_ = x.class_
    (booked x = true → ¬before → admitNext u s = admitFinish u s) ∧ ((booked x = false ∨ before) → admitNext u s = s)) ∧
  (∀ (u h : Nat) (s : State), let x := frame s u
    let l := s.hl.lead
    let v := modFrame u (fun x => { x with asks := none }) s
    let whole := modCopy u h (fun c => { c with complete := true }) v
    (∀ i eg, x.asks = some (h, .direct (some i) eg) → askDone u s =
      (let w := releaseCopy u h l eg (assignSeqs u 0 eg (hostTxDone i 1 whole))
       if keeps w u h then mirrorFrame l u h x.class_ eg 0 w else w)) ∧
    (∀ eg, x.asks = some (h, .direct none eg) → askDone u s =
      (let w := releaseCopy u h l eg (assignSeqs u 0 eg whole)
       if keeps w u h then mirrorFrame l u h x.class_ eg 0 w else w)) ∧
    (∀ i, x.asks = some (h, .lookup i) → let w := hostTxDone i 1 whole
      let key := laneKey 64 (65 + x.port / 16) x.class_
      (laneRoom w l x.class_ 1 = false → askDone u s = dropLate u h (laneFullDrop u w)) ∧
      (laneRoom w l x.class_ 1 = true → askDone u s = offerCopy u h l (modCopy u h (fun c => { c with fanout := 1, released := true })
        (setLane l key (laneOf w l key ++ [{ uid := u, half := h }]) w)))) ∧
    (∀ i r, x.asks = some (h, .refill i) → tget? v.deep.recs i = some r →
      let r1 := { r with reads := (spillAddrs v r).flatMap (fun a => (List.range 8).map (fun j => a / 32 + j)) }
      askDone u s = (spillAddrs v r).foldl (fun s a => putBytes64 3 false a 256 s) (modDeep (fun d => { d with recs := tput d.recs i r1 }) v))) ∧
  (∀ (u h : Nat) (s : State), let v := dropCopy u h (modFrame u (fun x => { x with asks := none }) s)
    (∀ i eg, askFails u h (.direct (some i) eg) s = hostTxDone i 2 v) ∧ (∀ eg, askFails u h (.direct none eg) s = v) ∧
    (∀ i, askFails u h (.lookup i) s = hostTxDone i 2 v) ∧
    (∀ i, askFails u h (.refill i) s = modFrame u (fun x => { x with spilled := true }) v)) ∧
  (∀ (fu : Furrow) (inp out k : Nat) (s : State), s.clk.coreStopped = false → let f := furNo fu
    let key := laneKey inp out k
    (laneOf s f key = [] → exec (.residenceCheck fu inp out k) s = .next s) ∧
    (∀ (e : Entry) (rest : List Entry), laneOf s f key = e :: rest → let x := frame s e.uid
      let s1 := modQueue x.queue (fun q => { q with dropSeen := true }) (setLane f key rest s)
      let s2 := fireMs 0 0x207 0 (toLE 1 x.class_ ++ toLE 1 e.half) (gctr (18 + x.class_) e.half s1)
      let s3 := prpGone f key e (if e.spill then s2 else tryReturn e.uid e.half (modCopy e.uid e.half (fun c => { c with fanout := c.fanout - 1 }) s2))
      (e.moved ≠ 0 ∨ expired s x = false → exec (.residenceCheck fu inp out k) s = .next (setLane f key ({ e with checkedAt := s.clk.edges } :: rest) s)) ∧
      (e.moved = 0 → expired s x = true → e.mirror = none →
        exec (.residenceCheck fu inp out k) s = .next (if e.spill then spillGone e.uid s3 else s3)) ∧
      (∀ i cut, e.moved = 0 → expired s x = true → e.mirror = some (i, cut) →
        exec (.residenceCheck fu inp out k) s = .next (if e.spill then spillGone e.uid (mirrorDrop i s3) else mirrorDrop i s3)))) ∧
  (∀ (h u : Nat) (rest : List Nat) (s : State), s.clk.coreStopped = false → let x := frame s u
    let hf := relHalf s x
    let ready := (∀ c, copyOf x hf = some c → c.complete = true) ∧ (copyOf x hf = none → x.spillDone = true) ∧
      heldInline x (admitFur s x) = false ∧ 0 ≤ (shaper s h).t
    tmem s.shapers h = true → (queue s h).list = u :: rest →
    (¬ready → exec (.streamShaperRelease h) s = .next s) ∧
    (ready → expired s x = false →
      exec (.streamShaperRelease h) s = .next (unlist h u { s with shapers := tput s.shapers h (shaperTake (effBytes x).length (shaper s h)) })) ∧
    (ready → expired s x = true → let s0 := if x.spilled then freeSpill u s else s
      let s1 := modQueue h (fun q => { q with list := q.list.filter (· != u), dropSeen := true }) (modFrame u (fun x => { x with shaped := false }) s0)
      exec (.streamShaperRelease h) s = .next (shaperRelease h (rest.length + 1)
        (fireMs 0 0x207 0 (toLE 1 x.class_ ++ toLE 1 hf) (gctr (18 + x.class_) hf (dropLate u hf s1))))))

/-- POOL_SET, POOL_READ, QUEUE_READ, RESIDENCE_LIMIT_SET and SHAPER_SET set and answer what they name. Served with legal fields: each POOL_SET form
puts its setting (the half's thresholds, a class minimum, a port's pools, a queue profile, a handle's profile), and is EXHAUSTED without effect where
the reserves of a half would exceed 73,728 cells. POOL_READ answers the 76 bytes of R295, and changes nothing but the activity of its port. QUEUE_READ
answers the queue's descriptor word, the two HALF_CELLS counts and the profile in effect, and CLEAR clears DROP_SEEN. RESIDENCE_LIMIT_SET sets the
limits of the classes that its mask names. SHAPER_SET sets or removes a class shaper once the bytes sent so far are paid, sets or removes a stream
shaper (EXHAUSTED for a new one beyond 16,384), a removal releasing its list, and reads one (NOT_FOUND where there is none). -/
def Obligations.PoolsQueuesAndShapersAreSet : Prop :=
  (∀ (p : Packet) (s : State), let r := reached specPoolSet p s
    let b := p.params
    let v := fun o => le b o 4
    let done := fun (t : State) => exec (.poolSet p) s = .next (if 73728 < reserves t then answered specPoolSet p stExhausted [] r
      else answered specPoolSet p stOk [] (descWatch t))
    accepts specPoolSet p s = true → reservedAt b 1 3 = true →
    (byteAt b 0 = 0 → v 4 ≤ 40960 → v 8 ≤ 81920 → v 12 ≤ 81920 → v 16 ≤ 65536 → v 20 ≤ 65536 → done (modGran (fun g => { g with
      streamPool := v 4, spillThreshold := v 8, balance := v 12, descReserve := v 16, laneReserve := v 20 }) r)) ∧
    (byteAt b 0 = 1 → byteAt b 4 < 8 → reservedAt b 5 3 = true → v 8 ≤ 16384 →
      done (modGran (fun g => { g with classMin := tput g.classMin (byteAt b 4) (v 8) }) r)) ∧
    (byteAt b 0 = 2 → portExists r (byteAt b 4) = true → reservedAt b 5 3 = true → 1 ≤ le b 8 2 → le b 8 2 ≤ 4096 → le b 10 2 ≤ 8192 → v 12 ≤ 81920 →
      done (modGran (fun g => { g with ports := tset {} g.ports (byteAt b 4) { headroom := le b 8 2, portMin := le b 10 2, sharedMax := v 12 } })
        (touchPort (byteAt b 4) true r))) ∧
    (byteAt b 0 = 3 → byteAt b 4 ≤ 254 → reservedAt b 5 3 = true → le b 8 2 ≤ 64 → 1 ≤ le b 10 2 → 1 ≤ le b 12 2 → reservedAt b 16 4 = true →
      done (modGran (fun g => { g with profiles := tput g.profiles (byteAt b 4) {
        reserve := le b 8 2, maxCells := le b 10 2, maxFrames := le b 12 2, spillCells := le b 14 2 } }) r)) ∧
    (byteAt b 0 = 4 → 1 ≤ v 4 → v 4 < 2 ^ 20 → reservedAt b 9 3 = true →
      exec (.poolSet p) s = .next (answered specPoolSet p stOk [] (modQueue (v 4) (fun q => { q with profile := byteAt b 8 }) r)))) ∧
  (∀ (p : Packet) (s : State), let r := reached specPoolRead p s
    let h := byteAt p.params 0
    let pt := byteAt p.params 1
    let x := half r h
    let t := touchPort pt true r
    accepts specPoolRead p s = true → h < 2 → portExists r pt = true → reservedAt p.params 2 2 = true →
    (powered r h = false → exec (.poolRead p) s = .next (answered specPoolRead p stOk (zeros 12 ++ toLE 1 3 ++ zeros 55 ++ toLE 4 (descFree r)) t)) ∧
    (powered r h = true → exec (.poolRead p) s = .next (answered specPoolRead p stOk
      (toLE 4 (freeCells x) ++ toLE 4 (quarCells x) ++ toLE 4 x.retired.length ++
       toLE 1 (if furState r h ≠ 0 ∨ x.fenced = true then 2 else if x.rebuilding.isSome then 1 else 0) ++ zeros 3 ++
       toLE 4 (r.gran.streamPool - x.stream) ++ (List.range 8).flatMap (fun k => toLE 4 (classMin r k - tget 0 x.cls k)) ++
       toLE 4 ((portPool r pt).portMin - tget 0 x.port pt) ++ toLE 4 (tget 0 x.shared pt) ++
       toLE 4 ((portPool r pt).headroom - tget 0 x.head pt) ++ toLE 4 (sharedFree r h) ++ toLE 4 (descFree r)) t))) ∧
  (∀ (p : Packet) (s : State), let r := reached specQueueRead p s
    let b := p.params
    let h := le b 0 4
    let k := byteAt b 5
    let key := queueKey h (byteAt b 4) k
    let q := queue r key
    let cells := fun f => if powered r f then halfCells r key f else 0xFFFF
    let t := if h = 0 then touchPort (byteAt b 4) true r else r
    accepts specQueueRead p s = true → h < 2 ^ 20 → (h = 0 → portExists r (byteAt b 4) = true ∧ k < 8) → byteAt b 6 < 2 → reservedAt b 7 1 = true →
    exec (.queueRead p) s = .next (answered specQueueRead p stOk (toLE 12 (queueWord r q) ++ toLE 2 (cells 0) ++ toLE 2 (cells 1) ++
        toLE 1 (if h = 0 then k else if q.profile = 0xFF then q.lastClass else q.profile) ++ zeros 3)
      (if byteAt b 6 = 1 then modQueue key (fun q => { q with dropSeen := false }) t else t))) ∧
  (∀ (p : Packet) (s : State), let r := reached specResidenceLimitSet p s
    let b := p.params
    let m := byteAt b 16
    accepts specResidenceLimitSet p s = true → (∀ k, k < 8 → bit m k = true → le b (2 * k) 2 ≤ 1000) → reservedAt b 17 3 = true →
    exec (.residenceLimitSet p) s = .next (answered specResidenceLimitSet p stOk []
      (modGran (fun g => { g with residence := (bitList 8 m).foldl (fun t k => tput t k (le b (2 * k) 2)) g.residence }) r))) ∧
  (∀ (p : Packet) (s : State), let r := reached specShaperSet p s
    let b := p.params
    let h := le b 4 4
    let rate := le b 8 4
    let burst := le b 12 4
    let pt := byteAt b 4
    let k := byteAt b 5
    let fits := rate = 0 ∨ (64 ≤ burst ∧ burst ≤ 16777215)
    let t := shaper r h
    accepts specShaperSet p s = true → reservedAt b 1 3 = true →
    (byteAt b 0 = 0 → portExists r pt = true → k < 7 → reservedAt b 6 2 = true → rate ≤ 100000000 → fits →
      exec (.shaperSet p) s = .next (answered specShaperSet p stOk [] (modDrill pt (fun d => { d with
        shapers := if rate = 0 then tdel d.shapers k else tput d.shapers k (shaperNew r.clk.edges rate burst) })
        (settlePay pt (touchPort pt true r))))) ∧
    (byteAt b 0 = 1 → 1 ≤ h → h < 2 ^ 20 → rate ≤ 100000000 → fits →
      (rate = 0 → exec (.shaperSet p) s = .next (answered specShaperSet p stOk [] (shaperRemove h r))) ∧
      (rate ≠ 0 → exec (.shaperSet p) s = .next (if 16384 ≤ r.shapers.length ∧ tmem r.shapers h = false then answered specShaperSet p stExhausted [] r
        else answered specShaperSet p stOk [] { r with shapers := tput r.shapers h (shaperNew r.clk.edges rate burst) }))) ∧
    (byteAt b 0 = 2 → 1 ≤ h → h < 2 ^ 20 → exec (.shaperSet p) s = .next (if tmem r.shapers h then answered specShaperSet p stOk
      (toLE 4 t.rate ++ toLE 4 t.burst ++ toLE 4 (wholeBytes t.t) ++ toLE 4 (queue r h).list.length) r
      else answered specShaperSet p stNotFound [] r)))

/-- A cell time of a crossbar connects each output to one input and each input to one copy, and moves the words of every connection. CROSSBAR_MATCH of
a live furrow takes its requests as activity of their ports' slices, runs three iterations on them, with the pointers moved after the first, counts
the connections of each, and moves the words of every connection in order; over all connections of three iterations no output appears twice, and no
two connections share an input, whatever the requests and pointers are. CROSSBAR_PARITY_ERROR counts, fires, raises the furrow's alarm and poisons the
frames that crossed: their last word that crossed ends bad at each output that holds it, and the copy is poisoned from that word on. TC7_WAIT_TIMEOUT
of a TC7 head that is offered, has not begun to cross and was not reported fires once, 1 us after its offer. -/
def Obligations.TheCrossbarMatchesOneToOne : Prop :=
  (∀ (s : State) (x x1 : Crossbar) (l : List Req), let c1 := matchStep s x l
    let c2 := matchStep s x1 (leftOver l c1)
    let c3 := matchStep s x1 (leftOver (leftOver l c1) c2)
    let cs := c1 ++ c2 ++ c3
    (cs.flatten.map Req.out).Nodup ∧ cs.Pairwise (fun c d => ∀ q ∈ c, ∀ r ∈ d, q.inp ≠ r.inp) ∧ (∀ c ∈ cs, ∀ q ∈ c, ∀ r ∈ c, q.inp = r.inp) ∧
    (∀ c ∈ cs, ∀ q ∈ c, q ∈ l)) ∧
  (∀ (fu : Furrow) (bad : List (Nat × Nat)) (s0 : State), s0.clk.coreStopped = false → let f := furNo fu
    let t := reachEdge (fur s0 f).xb.at_ s0
    let l := requests t f
    let s := l.foldl (fun s r => touchReq r s) t
    let x := (fur s f).xb
    let c1 := matchStep s x l
    let x1 := movePointers x c1
    let c2 := matchStep s x1 (leftOver l c1)
    let c3 := matchStep s x1 (leftOver (leftOver l c1) c2)
    let many := fun (cs : List (List Req)) => cs.foldl (fun n c => n + c.length) 0
    let lone := l.any (fun r => r.key % 8 == 7 && !((c1 ++ c2 ++ c3).any (fun c => c.any (fun q => q.key == r.key))))
    live s0 f = true → exec (.crossbarMatch fu bad) s0 = .next ((c1 ++ c2 ++ c3).foldl (fun s c => connect f bad c s)
      (modFur f (fun y => { y with xb := { x1 with
        at_ := s.clk.edges + 8, ctr := cinc (cinc (cinc x1.ctr 17 (many c1)) 18 (many c2)) 19 (many c3) } }) (if lone then perfF f 0x302 1 s else s)))) ∧
  (∀ (fu : Furrow) (s : State), s.clk.coreStopped = false → let f := furNo fu
    let s1 := raiseAlarm f 2 (fireFur f (xBase f + 1) 0 [] (xctr 21 1 f s))
    ∀ uids, exec (.crossbarParityError fu uids) s = .next (uids.foldl (fun s u => poisonCrossed f u s) s1)) ∧
  (∀ (f u : Nat) (s : State), let l := lastCrossed s f u
    let s1 := l.foldl (fun s w => poisonLink f w s) s
    let h := if (frame s1 u).class_ = 7 then f else relHalf s1 (frame s1 u)
    (∀ w ∈ l, w ∈ (fur s f).xb.link ∧ w.uid = u ∧ ∀ y ∈ (fur s f).xb.link, y.uid = u → bit y.tag 5 = false → y.out = w.out → y.id = w.id → y.word ≤ w.word) ∧
    (l = [] → poisonCrossed f u s = s) ∧
    (∀ w, l.find? (fun w => decide (w.id < 2)) = some w →
      (copyOf (frame s1 u) h = none → poisonCrossed f u s = s1) ∧
      ((copyOf (frame s1 u) h).isSome = true → poisonCrossed f u s = poisonCopy u h (some w.word) s1)) ∧
    (l.find? (fun w => decide (w.id < 2)) = none → poisonCrossed f u s = s1)) ∧
  (∀ (f : Nat) (w : LinkWord) (c : EgCopy) (s : State), w.out < 64 → egCopy s w.out w.uid w.id = some c → c.bad = none → c.got = w.word + 1 → c.mirror = none →
    (c.state = 2 → poisonLink f w s = discardEg w.out c s) ∧ (c.state ≠ 2 → poisonLink f w s = endEg w.out 11 1 c s)) ∧
  (∀ (fu : Furrow) (inp out o : Nat) (e : Entry) (rest : List Entry) (s : State), s.clk.coreStopped = false → let f := furNo fu
    let key := laneKey inp out 7
    laneOf s f key = e :: rest → e.offered = some o → e.moved = 0 → e.tc7Waited = false →
    exec (.tc7WaitTimeout fu inp out) s = .next (fireFurMs f (xBase f + 6) 0 (toLE 1 inp ++ toLE 1 out)
      (setLane f key ({ e with tc7Waited := true } :: rest) (reachEdge (o + usE) s))))

/-- A start opportunity of an idle transmitter serves TC7 before every other class, and the end of a whole frame counts it and frees the transmitter.
Wherever no preempted frame is outstanding and the TC7 head of a port may start (its class is not paused, its gate is open and its frame fits), the
Drill's choice is TC7, whatever waits in the other classes. DRILL_START_OPPORTUNITY preempts a frame in transmission where an express head may, and
else leaves it; of an idle transmitter with its links up it purges the heads that can never fit their gates and starts what the choice gives, with the
receive link down or the port held only a preempted frame's class; with the transmit link down it discards every head. TX_FRAME_END of a closed copy
within MAX_FRAME sends its image; of one beyond MAX_FRAME, closed or not, it ends the frame there with a bad tail, counted; where the copy is gone the
transmitter is idle. EGRESS_UNDERRUN of a copy whose words have not all arrived fires its event and ends the frame with a bad tail. -/
def Obligations.TheDrillServesItsClassesInOrder : Prop :=
  (∀ (p : Nat) (only : Nat → Bool) (s : State), (port s p).drill.held = none → only 7 = true → classReady s p 7 = true →
    (∀ c, headOf s p 7 = some c → gateFits s p 7 (expectOf s (frame s c.uid)) = true) → (chooseClass p only s).1 = some 7) ∧
  (∀ (p : Nat) (s : State), s.clk.coreStopped = false → let s1 := preemptTx p s
    let d := (port s1 p).drill
    let s2 := reachEdge d.freeAt s1
    let s3 := if d.held = none then modDrill p (fun d => { d with preOld := none }) s2 else s2
    let l := (port s3 p).link
    let up := l.rxUp && !l.heldDown
    let s4 := (List.range 8).foldl (fun s k => gatePurge p k (queuedCopies s p) s) s3
    let held := (d.held.bind (fun h => egCopy s4 p h.1 h.2)).map (·.cls)
    (d.tx ≠ none → exec (.drillStartOpportunity p) s = .next s1) ∧
    (d.tx = none → (l.txUp = false ∨ (up = false ∧ d.held = none)) →
      exec (.drillStartOpportunity p) s = .next (purgeDown p (queuedCopies s3 p) s3)) ∧
    (d.tx = none → l.txUp = true → (up = true ∨ d.held ≠ none) →
      exec (.drillStartOpportunity p) s = .next (startNext p (fun k => up || held == some k) (queuedCopies s4 p + 1) s4))) ∧
  (∀ (p : Nat) (t : Tx) (s : State), s.clk.coreStopped = false → (port s p).drill.tx = some t → egCopy s p t.uid t.id = none →
    exec (.txFrameEnd p) s = .next (modDrill p (fun d => { d with tx := none }) s)) ∧
  (∀ (p : Nat) (t : Tx) (c : EgCopy) (s : State), s.clk.coreStopped = false → let x := frame s c.uid
    let part := editBody (editsOf s p c x) (hasHsr (winParse s c.fur x)) false ((egBytes p c x).take ((c.got - 1) * 32))
    (port s p).drill.tx = some t → egCopy s p t.uid t.id = some c → c.closed = false → (port s p).cfg.maxFrame < part.length →
    exec (.txFrameEnd p) s = .next (finishTx p t c (badTail (part.take (port s p).cfg.maxFrame)) false (countTail c.uid c.fur 7 (macCtr p 46 1 s)))) ∧
  (∀ (p : Nat) (t : Tx) (c : EgCopy) (s : State), s.clk.coreStopped = false → let im := txImage s p c
    (port s p).drill.tx = some t → egCopy s p t.uid t.id = some c → c.closed = true →
    (im.1.length ≤ (port s p).cfg.maxFrame → exec (.txFrameEnd p) s = .next (finishTx p t c im.1 im.2 s)) ∧
    ((port s p).cfg.maxFrame < im.1.length → exec (.txFrameEnd p) s =
      .next (finishTx p t c (badTail (im.1.take (port s p).cfg.maxFrame)) false (countTail c.uid c.fur 7 (macCtr p 46 1 s))))) ∧
  (∀ (p : Nat) (t : Tx) (c : EgCopy) (s : State), s.clk.coreStopped = false → (port s p).drill.tx = some t → egCopy s p t.uid t.id = some c → c.closed = false →
    exec (.egressUnderrun p) s = .next (cutTx p t c 12 (fireFurMs c.fur (xBase c.fur + 5) 0 (toLE 1 p ++ toLE 1 c.cls) s)))

/-- A gate interval ends, a committed list takes over, and verification of preemption runs to its outcome. GATE_TRANSITION of a port with an active
list passes to the end of the interval in force, with the slice woken 1 us ahead. GATE_LIST_TAKEOVER of a pending commit makes the pending list active
with the commit's base, cycle and length at the takeover time, keeps the old active list as the pending one (without an active
list, the one of the last takeover), fires cause 0x20 and completes the commit
with the time and LENGTH. VERIFY_TIMER while verifying sends a verify mPacket for each of the first three times and then fails with cause 0x23. A
respond mPacket completes a verification that has sent, with cause 0x22. A verify mPacket is answered while ENABLE is set and the receive link is up.
The code bytes of the two mPackets are the model's reading of IEEE 802.3br (log 32). -/
def Obligations.GatesAndPreemptionVerifyAsDefined : Prop :=
  (∀ (p : Nat) (g : GateList) (s : State), s.clk.coreStopped = false → let pos := gatePos g (nowNs s)
    let stop := (((spans g).find? (fun e => decide (pos < e.2.2))).map (·.2.2)).getD g.cycle
    let t := nowNs s + (stop - pos)
    (port s p).drill.active = some g → exec (.gateTransition p) s = .next (reachNs t (touchPort p false (reachNs (t - 1000) s)))) ∧
  (∀ (p : Nat) (c : GateCommit) (s : State), s.clk.coreStopped = false → let d := (port s p).drill
    let s1 := reachNs (takeoverNs d c) s
    d.commit = some c → exec (.gateListTakeover p) s = .next (complete c.ticket stOk (toLE 8 (nowT64 s1) ++ toLE 2 c.length ++ zeros 6)
      (drillFind p 0x20 [] (touchPort p false (modDrill p (fun d => { d with
        active := if c.length = 0 then none else some { d.pend with length := c.length, base := c.base, cycle := c.cycle }
        idle := { d.pend with length := c.length, base := c.base, cycle := c.cycle }
        pend := d.active.getD d.idle, commit := none }) s1))))) ∧
  (∀ (p : Nat) (s : State), s.clk.coreStopped = false → let y := (port s p).drill.pre
    let s1 := reachEdge (y.sentAt + (if y.sends = 0 then 0 else y.verifyTime * msE)) s
    y.state = 1 → (port s p).link.txUp = true →
    (y.sends < 3 → exec (.verifyTimer p) s = .next (emitOut (.control p [0x07]) (dctr 14 p
      (modDrill p (fun d => { d with pre := { d.pre with sends := d.pre.sends + 1, sentAt := s1.clk.edges } }) s1)))) ∧
    (3 ≤ y.sends → exec (.verifyTimer p) s = .next (drillFind p 0x23 [] (modDrill p (fun d => { d with pre := { d.pre with state := 3 } }) s1)))) ∧
  (∀ (p : Nat) (s : State), s.clk.coreStopped = false → (port s p).drill.pre.state = 1 → (port s p).drill.pre.sends ≠ 0 →
    exec (.verifyRespondRx p) s = .next (drillFind p 0x22 [] (modDrill p (fun d => { d with pre := { d.pre with state := 2 } }) s))) ∧
  (∀ (p : Nat) (s : State), s.clk.coreStopped = false → exec (.verifyMpacketRx p) s =
    .next (if (port s p).drill.pre.enable = true ∧ (port s p).link.rxUp = true then emitOut (.control p [0x19]) s else s))

/-- DRILL_SET and METER_SET set and answer what they name. Served with legal fields: DRILL_SET SET puts the five quanta, and READ, once the bytes sent
so far are paid, answers the queue lengths, gate states, pause states, current gate entry, deficits and shaper tokens. METER_SET SET puts a fresh
meter, COLOUR_MAP the port's map, READ answers the meter's settings, tokens and counters (and CLEAR counts them off), and UNBLOCK lifts a block; a
meter index outside the range is BAD_PARAM at offset 4. -/
def Obligations.DrillAndMeterCommandsSetTheirPort : Prop :=
  (∀ (p : Packet) (s : State), let r := reached specDrillSet p s
    let b := p.params
    let pt := byteAt b 4
    accepts specDrillSet p s = true → reservedAt b 1 3 = true → portExists r pt = true → reservedAt b 5 3 = true →
    (byteAt b 0 = 0 → (∀ k, k < 5 → 64 ≤ le b (8 + 2 * k) 2) → reservedAt b 18 2 = true →
      exec (.drillSet p) s = .next (answered specDrillSet p stOk [] (touchPort pt true (modDrill pt (fun d => { d with
        quantum := (List.range 5).foldl (fun t k => tput t k (le b (8 + 2 * k) 2)) d.quantum }) r)))) ∧
    (byteAt b 0 = 1 → let v := settlePay pt r
      let e := (port v pt).drill
      exec (.drillSet p) s = .next (answered specDrillSet p stOk
      ((List.range 8).flatMap (fun k => toLE 1 (min 255 (egQueue v pt k).length)) ++ toLE 1 (gateStates v pt) ++
       toLE 1 (pausedMask v pt) ++
       toLE 2 ((e.active.map (fun g => (gateEntry g (gatePos g (nowNs v))).1)).getD 0xFFFF) ++
       (List.range 5).flatMap (fun k => toLE 4 (unsigned 32 (tget 0 e.deficit k))) ++
       (List.range 7).flatMap (fun k => toLE 4 (wholeBytes (classShaper v pt k).t)) ++ zeros 4) (touchPort pt true v)))) ∧
  (∀ (p : Packet) (s : State), let r := reached specMeterSet p s
    let b := p.params
    let i := le b 4 2
    let pt := byteAt b 4
    let m := meter r i
    let isClass := 0x8000 ≤ i
    let burst := fun n => (le b 8 4 = 0 ∧ le b 16 4 = 0) ∨ (64 ≤ n ∧ n ≤ 16777215)
    accepts specMeterSet p s = true → reservedAt b 1 3 = true → p.upset = false →
    (byteAt b 0 = 0 → meterIndexOk r i = true → byteAt b 6 < 8 → (isClass → bit (byteAt b 6) 1 = false ∧ bit (byteAt b 6) 2 = false) →
      byteAt b 7 < 16 → byteAt b 7 % 4 ≤ 2 → byteAt b 7 / 4 ≤ 2 → le b 8 4 ≤ 100000000 → burst (le b 12 4) → le b 8 4 ≤ le b 16 4 →
      le b 16 4 ≤ 100000000 → burst (le b 20 4) → (le b 24 2 = 0 ∨ (64 ≤ le b 24 2 ∧ le b 24 2 ≤ 9216)) → (isClass → le b 24 2 = 0) →
      reservedAt b 26 2 = true →
      exec (.meterSet p) s = .next (answered specMeterSet p stOk [] (touchPorts (meterPorts i) { r with meters := tset {} r.meters i (meterFresh {
        mode := byteAt b 6, actions := byteAt b 7, cir := le b 8 4, cbs := le b 12 4, pir := le b 16 4, pbs := le b 20 4, maxSdu := le b 24 2, last := m.last }) }))) ∧
    (byteAt b 0 = 1 → portExists r pt = true → reservedAt b 5 3 = true → (∀ n, n < 16 → le b 8 4 / 4 ^ n % 4 ≠ 3) →
      exec (.meterSet p) s = .next (answered specMeterSet p stOk [] (modDrill pt (fun d => { d with colourMap := le b 8 4 }) (touchPort pt true r)))) ∧
    (byteAt b 0 = 2 → meterIndexOk r i = true → byteAt b 6 ≤ 1 → reservedAt b 7 1 = true →
      exec (.meterSet p) s = .next (answered specMeterSet p stOk (toLE 2 i ++ toLE 1 m.mode ++ toLE 1 m.actions ++ toLE 4 m.cir ++ toLE 4 m.cbs ++
        toLE 4 m.pir ++ toLE 4 m.pbs ++ toLE 2 m.maxSdu ++ toLE 1 (b2n m.blocked) ++ zeros 1 ++ toLE 4 (wholeBytes m.tc) ++ toLE 4 (wholeBytes m.tp) ++
        toLE 4 (m.green + 2 ^ 32 - tget 0 m.base 0) ++ toLE 4 (m.yellow + 2 ^ 32 - tget 0 m.base 1) ++
        toLE 4 (m.red + 2 ^ 32 - tget 0 m.base 2) ++ toLE 4 (m.drops + 2 ^ 32 - tget 0 m.base 3))
        (touchPorts (meterPorts i) (if byteAt b 6 = 1 then modMeter i meterClear r else r)))) ∧
    (byteAt b 0 = 3 → meterIndexOk r i = true → reservedAt b 6 2 = true →
      exec (.meterSet p) s = .next (answered specMeterSet p stOk [] (touchPorts (meterPorts i) (modMeter i (fun m => { m with blocked := false }) r)))) ∧
    (byteAt b 0 = 3 → meterIndexOk r i = false →
      exec (.meterSet p) s = .next (respond (ticketFor specMeterSet (asked specMeterSet p)) 0x80 stBadParam 4 [] r)))

/-- GATE_LIST_SET and PREEMPT_SET set and answer what they name. Served with legal fields: GATE_LIST_SET WRITE with no commit pending puts its entries
into the pending list, COMMIT with a legal list and time is ACCEPTED and left pending with its ticket, either is BUSY while a commit is pending, ABORT
cancels a pending commit (whose completion is STATE_CONFLICT) and has no effect without one, READ answers the state, length, entry, gates, times and
cycle, and READ_ENTRIES answers the active entries. PREEMPT_SET
SET puts the settings, keeps the old ones in force while a frame is in transmission or held and starts verification; READ answers the status, the mask,
the fragment size and two counters. -/
def Obligations.GateListsAndPreemptionAreSet : Prop :=
  (∀ (p : Packet) (s : State), let r := reached specGateListSet p s
    let b := p.params
    let pt := byteAt b 1
    let count := le b 2 2
    let first := le b 4 2
    let d := (port r pt).drill
    let t := touchPort pt true r
    let g := d.active.getD {}
    let up := ceilDiv r.clk.tb tbuPerNs
    let cct := le b 32 8
    let at_ := if cct = 0 then (up + 1999999) / 1000000 * 1000000 else nsOfT64 cct
    accepts specGateListSet p s = true → portExists r pt = true → reservedAt b 6 10 = true → p.upset = false →
    (byteAt b 0 = 0 → 1 ≤ count → count ≤ 508 → first + count ≤ 1024 → (∀ i, i < count → reservedAt b (17 + 8 * i) 3 = true) →
      (d.commit.isSome = true → exec (.gateListSet p) s = .next (answered specGateListSet p stBusy [] r)) ∧
      (d.commit = none → exec (.gateListSet p) s = .next (answered specGateListSet p stOk [] (modDrill pt (fun d => { d with pend := { d.pend with
        entries := (List.range count).foldl (fun t i => tset (0, 0) t (first + i) (byteAt b (16 + 8 * i), le b (20 + 8 * i) 4)) d.pend.entries } }) t)))) ∧
    (byteAt b 0 = 1 → t64Ok (le b 16 8) = true → 1024 ≤ le b 24 4 → le b 24 4 ≤ 1000000000 → le b 28 2 ≤ 1024 → reservedAt b 30 2 = true →
      (∀ i, i < le b 28 2 → 64 ≤ (tget (0, 0) d.pend.entries i).2 ∧ (tget (0, 0) d.pend.entries i).2 ≤ 1000000000) →
      (cct = 0 ∨ (t64Ok cct = true ∧ up + 1000000 ≤ at_ ∧ at_ * tbuPerNs ≤ r.clk.tb + 60000000000 * tbuPerNs)) →
      (d.commit.isSome = true → exec (.gateListSet p) s = .next (answered specGateListSet p stBusy [] r)) ∧
      (d.commit = none → exec (.gateListSet p) s = .next (deferred specGateListSet p (modDrill pt (fun d => { d with
        commit := some { base := nsOfT64 (le b 16 8), cycle := le b 24 4, length := le b 28 2, at_ := at_, ticket := ticketFor specGateListSet (asked specGateListSet p) } }) t)))) ∧
    (byteAt b 0 = 2 → exec (.gateListSet p) s = .next (answered specGateListSet p stOk
      (toLE 1 (if d.active = none then 0 else if d.commit.isSome then 2 else 1) ++ zeros 1 ++ toLE 2 g.length ++
       toLE 2 ((d.active.map (fun g => (gateEntry g (gatePos g (nowNs r))).1)).getD 0xFFFF) ++ toLE 1 (gateStates r pt) ++ zeros 1 ++ toLE 8 (t64OfNs g.base) ++
       toLE 4 g.cycle ++ toLE 8 ((d.commit.map (fun c => t64OfNs c.at_)).getD 0) ++ zeros 4) t)) ∧
    (byteAt b 0 = 3 → d.commit = none → exec (.gateListSet p) s = .next (answered specGateListSet p stOk [] t)) ∧
    (byteAt b 0 = 3 → ∀ c, d.commit = some c → exec (.gateListSet p) s = .next (answered specGateListSet p stOk []
      (complete c.ticket stStateConflict [] (modDrill pt (fun d => { d with commit := none }) t)))) ∧
    (byteAt b 0 = 4 → 1 ≤ count → count ≤ 510 → first + count ≤ 1024 → exec (.gateListSet p) s = .next (answered specGateListSet p stOk
      ((List.range count).flatMap (fun i => toLE 1 (tget (0, 0) g.entries (first + i)).1 ++ zeros 3 ++ toLE 4 (tget (0, 0) g.entries (first + i)).2)) t))) ∧
  (∀ (p : Packet) (s : State), let r := reached specPreemptSet p s
    let b := p.params
    let pt := byteAt b 4
    let fl := byteAt b 5
    let d := (port r pt).drill
    let y := d.pre
    accepts specPreemptSet p s = true → reservedAt b 1 3 = true → portExists r pt = true →
    (byteAt b 0 = 0 → fl < 4 → (bit fl 0 = true → replicated r pt = false) → bit (byteAt b 6) 7 = true → byteAt b 7 ≤ 3 → 1 ≤ byteAt b 8 →
      byteAt b 8 ≤ 128 → reservedAt b 9 3 = true →
      exec (.preemptSet p) s = .next (answered specPreemptSet p stOk [] (verifyStart pt (touchPort pt true (modDrill pt (fun d => { d with
        pre := { enable := bit fl 0, verifyDisable := bit fl 1, express := byteAt b 6, addFrag := byteAt b 7, verifyTime := byteAt b 8 }
        preOld := if d.held.isSome || d.tx.isSome then some (preNow d) else none }) r))))) ∧
    (byteAt b 0 = 1 → reservedAt b 5 3 = true →
      exec (.preemptSet p) s = .next (answered specPreemptSet p stOk
        (toLE 1 (if y.enable = false then 0 else if y.verifyDisable = true then 4 else if y.state = 2 then 2 else if y.state = 3 then 3 else 1) ++
         toLE 1 y.express ++ toLE 1 y.addFrag ++ zeros 1 ++ toLE 4 (tget 0 d.ctr 12) ++ toLE 4 (tget 0 d.ctr 17) ++ zeros 4) (touchPort pt true r))))

/-- WINNOW_ARRIVAL runs the checks on the earliest unruled copy; a twin tag passes once, and the sweeps forget what is stale. WINNOW_ARRIVAL of a port
with an unruled copy runs the five checks of R359 in order on the earliest one (the lead furrow's first on a tie), after the fault that its operand
names. In the twin check a copy older than 200 us, or whose tag lies below the window, is dropped as stale; otherwise an OPEN slot passes it, counted,
and holds the slot for its furrow, and a slot whose copy was sent drops it as a duplicate. TWIN_SWEEP, 100 us after the last sweep, clears VALID of
exactly the pairs not seen for more than 200 us. NODE_FORGET keeps exactly the node entries younger than their NODE_FORGET. TURN_FILTER_EXPIRY keeps
exactly the entries whose residence limit plus 1 ms (1,001 ms for no limit) has not passed. FRER_RECOVERY_TIMEOUT resets a recovery function
RECOVERY_TIMEOUT after its last accepted frame, counted; LATENT_ERROR_TEST fires exactly where the copies passed and discarded since the last latent
error reset differ by more than twice the history length, and resets it every 30 s (the algorithm is the model's reading of IEEE 802.1CB, log 25). -/
def Obligations.WinnowRulesOnCopiesAndForgets : Prop :=
  (∀ (p upset : Nat) (s : State), s.clk.coreStopped = false → (nextUnruled s p = none → exec (.winnowArrival p upset) s = .next s) ∧
    (∀ c, nextUnruled s p = some c →
      exec (.winnowArrival p upset) s = .next (winDo p (winFuel s p) [.check c.uid c.id [2, 3, 4, 5, 6]] (winUpset p upset c s)))) ∧
  (∀ (p : Nat) (s : State) (c : EgCopy), nextUnruled s p = some c →
    c ∈ (port s p).drill.buf ∧ c.state = 0 ∧ ∀ d ∈ (port s p).drill.buf, d.state = 0 → c.firstAt ≤ d.firstAt) ∧
  (∀ (p u i : Nat) (c : EgCopy) (x : Frame) (s : State), let now := arrivalUs s
    (200 < usSince now x.arrUs → checkTwin p u i c x s = (.drop, twinStale p s)) ∧
    (usSince now x.arrUs ≤ 200 →
      (twinSlide now x.tag (twin s p x.port) = none → checkTwin p u i c x s = (.drop, twinStale p s)) ∧
      (∀ w, twinSlide now x.tag (twin s p x.port) = some w → let w1 := { w with topUs := now % 32768, lastUs := now }
        let s1 := setTwin p x.port w1 s
        (slotGet w.slots x.tag = 0 → checkTwin p u i c x s = (.pass, wctr 0 p (addHold p u i { kind := 1, key := x.port, slot := x.tag }
          (setTwin p x.port { w1 with slots := slotSet w.slots x.tag (1 + c.fur) } s1)))) ∧
        (slotGet w.slots x.tag = 3 → checkTwin p u i c x s = (.drop, wctr 1 p s1))))) ∧
  (∀ (s : State), s.clk.coreStopped = false → let v := reachEdge (s.red.sweptAt + 100 * usE) s
    exec .twinSweep s = .next { modRed (fun r => { r with sweptAt := v.clk.edges }) v with ports := tmap {} v.ports (fun x => { x with win := { x.win with
      twins := x.win.twins.map (fun e => (e.1, if 200 < usSince (arrivalUs v) e.2.lastUs then { e.2 with valid := false } else e.2)) } }) }) ∧
  (∀ (s : State), s.clk.coreStopped = false → exec .nodeForget s = .next { s with red := { s.red with
    nodes := s.red.nodes.filter (fun n => decide (s.clk.edges < n.last + forgetSec s n.net * secE)) } }) ∧
  (∀ (p : Nat) (s : State), s.clk.coreStopped = false → exec (.turnFilterExpiry p) s = .next (modWin p (fun w => { w with filter := w.filter.filter (fun e =>
    decide (nowNs s ≤ e.ns + ((if resLimit s e.cls = 0 then 1000 else resLimit s e.cls) + 1) * 1000000)) }) s)) ∧
  (∀ (h p : Nat) (r : FrerRec) (s : State), s.clk.coreStopped = false → frer s (frerKey h p) = some r →
    (r.take = true → exec (.frerRecoveryTimeout h p) s = .next s) ∧
    (r.take = false → let s1 := reachEdge (r.last + r.timeout * msE) s
      exec (.frerRecoveryTimeout h p) s = .next (frerEvent 0x03 h p (wctr 21 p (modFrer (frerKey h p) (fun r => { frerFresh r with
        resets := wrap32 (r.resets + 1), last := s1.clk.edges }) s1))))) ∧
  (∀ (h p : Nat) (r : FrerRec) (s : State), s.clk.coreStopped = false → frer s (frerKey h p) = some r →
    (bit r.flags 2 = false → exec (.latentErrorTest h p) s = .next s) ∧
    (bit r.flags 2 = true → let due := r.testedAt + 2000 * msE
      let d : Int := ((r.passed : Int) - r.basePassed) - ((r.discarded : Int) - r.baseDiscarded)
      let t := modFrer (frerKey h p) (fun r => if r.baseAt + 30 * secE ≤ due then { r with
          testedAt := due, baseAt := due, basePassed := r.passed, baseDiscarded := r.discarded }
        else { r with testedAt := due }) (reachEdge due s)
      exec (.latentErrorTest h p) s = .next (if 2 * (r.history : Int) < d ∨ d < -(2 * (r.history : Int)) then frerEvent 0x01 h p t else t)))

/-- PRP_PAIR_SET, HSR_RING_SET, FRER_SET and WINNOW_READ set and answer what they name. Served with legal fields: PRP_PAIR_SET SET with ports that
serve no other network or ring puts the network, is EXISTS where one does, and CLEAR removes the network and its node entries. HSR_RING_SET SET puts
the ring, is EXISTS where a port is in a network or a ring, and CLEAR removes it. FRER_SET creates a generation from 0 (4,096 at most) or a recovery
function (16,384 at most), deletes and reads them, NOT_FOUND where there is none. WINNOW_READ answers the time and the 28 counters of a port since the
last clear, and clears them where asked. -/
def Obligations.RedundancyCommandsSetNetworksRingsAndFunctions : Prop :=
  (∀ (p : Packet) (s : State), let r := reached specPrpPairSet p s
    let b := p.params
    let n := byteAt b 0
    let a := le b 4 8
    let c := le b 12 8
    let mine := fun q => ringOf r q = none ∧ ∀ m l, netOf r q = some (m, l) → m = n
    accepts specPrpPairSet p s = true → n < 4 → reservedAt b 2 2 = true →
    (byteAt b 1 = 1 → byteAt b 20 < 4 → exec (.prpPairSet p) s = .next (answered specPrpPairSet p stOk [] (modRed (fun r => { r with
      prp := tdel r.prp n, nodes := r.nodes.filter (fun x => x.net != n) }) (touchPorts (maskPorts ((prpNet r n).lanA ||| (prpNet r n).lanB)) r)))) ∧
    (byteAt b 1 = 0 → maskOk r a = true → a ≠ 0 → maskOk r c = true → c ≠ 0 → a &&& c = 0 → byteAt b 20 < 4 → 1 ≤ byteAt b 21 →
      10 ≤ le b 22 2 → le b 22 2 ≤ 10000 →
      ((∀ q, q < 64 → bit a q = true ∨ bit c q = true → mine q) → exec (.prpPairSet p) s = .next (answered specPrpPairSet p stOk []
        (touchPorts (maskPorts (a ||| c)) (modRed (fun r => { r with
          prp := tset {} r.prp n { enable := true, lanA := a, lanB := c, flags := byteAt b 20, entryForget := le b 22 2, nodeForget := byteAt b 21 } }) r)))) ∧
      ((∃ q, q < 64 ∧ (bit a q = true ∨ bit c q = true) ∧ ¬ mine q) → exec (.prpPairSet p) s = .next (answered specPrpPairSet p stExists [] r)))) ∧
  (∀ (p : Packet) (s : State), let r := reached specHsrRingSet p s
    let b := p.params
    let n := byteAt b 0
    let a := byteAt b 2
    let c := byteAt b 3
    let mine := fun q => netOf r q = none ∧ ringOf r q = none
    accepts specHsrRingSet p s = true → n < 8 → reservedAt b 9 7 = true →
    (byteAt b 1 = 1 → exec (.hsrRingSet p) s = .next (answered specHsrRingSet p stOk [] (modRed (fun r => { r with hsr := tdel r.hsr n })
      (touchPorts (if (hsrRing r n).enable then [(hsrRing r n).portA, (hsrRing r n).portB] else []) r)))) ∧
    (byteAt b 1 = 0 → portExists r a = true → portExists r c = true → a ≠ c →
      (byteAt b 4 = 1 ∨ (byteAt b 4 = 2 ∧ byteAt b 5 < 8 ∧ (hsrRing r (byteAt b 5)).enable = true)) → 10 ≤ le b 6 2 → le b 6 2 ≤ 10000 → 1 ≤ byteAt b 8 →
      (mine a ∧ mine c → exec (.hsrRingSet p) s = .next (answered specHsrRingSet p stOk [] (touchPorts [a, c] (modRed (fun r => { r with
        hsr := tset {} r.hsr n { enable := true, portA := a, portB := c, mode := byteAt b 4, peer := byteAt b 5, entryForget := le b 6 2, nodeForget := byteAt b 8 } }) r)))) ∧
      (¬ (mine a ∧ mine c) → exec (.hsrRingSet p) s = .next (answered specHsrRingSet p stExists [] r)))) ∧
  (∀ (p : Packet) (s : State), let r := reached specFrerSet p s
    let b := p.params
    let h := le b 4 4
    let pt := byteAt b 8
    let k := frerKey h pt
    accepts specFrerSet p s = true → reservedAt b 1 3 = true → 1 ≤ h → h < 2 ^ 20 → reservedAt b 14 2 = true →
    (byteAt b 0 = 0 → exec (.frerSet p) s = .next (if 4096 ≤ r.red.gen.length ∧ tmem r.red.gen h = false then answered specFrerSet p stExhausted [] r
      else answered specFrerSet p stOk [] (modRed (fun r => { r with gen := tput r.gen h 0 }) r))) ∧
    (byteAt b 0 = 1 → portExists r pt = true → byteAt b 9 ≤ 1 → 2 ≤ byteAt b 10 → byteAt b 10 ≤ 128 → byteAt b 11 < 8 → 1 ≤ le b 12 2 → le b 12 2 ≤ 10000 →
      exec (.frerSet p) s = .next (if 16384 ≤ r.red.frerRec.length ∧ tmem r.red.frerRec k = false then answered specFrerSet p stExhausted [] r
        else answered specFrerSet p stOk [] (touchPort pt true (modRed (fun x => { x with frerRec := tput x.frerRec k (frerFresh {
          alg := byteAt b 9, history := byteAt b 10, flags := byteAt b 11, timeout := le b 12 2, last := r.clk.edges, testedAt := r.clk.edges
          baseAt := r.clk.edges }) }) r)))) ∧
    (byteAt b 0 = 2 → pt = 0xFF → exec (.frerSet p) s = .next (if tmem r.red.gen h then
        answered specFrerSet p stOk [] (modRed (fun r => { r with gen := tdel r.gen h }) r) else answered specFrerSet p stNotFound [] r)) ∧
    (byteAt b 0 = 2 → pt ≠ 0xFF → portExists r pt = true → exec (.frerSet p) s = .next (if tmem r.red.frerRec k then
        answered specFrerSet p stOk [] (touchPort pt true (modRed (fun r => { r with frerRec := tdel r.frerRec k }) r)) else answered specFrerSet p stNotFound [] r)) ∧
    (byteAt b 0 = 3 → (pt = 0xFF ∧ tget? r.red.gen h = none ∨ pt ≠ 0xFF ∧ portExists r pt = true ∧ frer r k = none) →
      exec (.frerSet p) s = .next (answered specFrerSet p stNotFound [] r)) ∧
    (byteAt b 0 = 3 → pt = 0xFF → ∀ n, tget? r.red.gen h = some n →
      exec (.frerSet p) s = .next (answered specFrerSet p stOk (zeros 20 ++ toLE 2 ((n + 65535) % 65536) ++ zeros 2) r)) ∧
    (byteAt b 0 = 3 → pt ≠ 0xFF → portExists r pt = true → ∀ x, frer r k = some x →
      exec (.frerSet p) s = .next (answered specFrerSet p stOk (toLE 4 x.passed ++ toLE 4 x.discarded ++ toLE 4 x.outOfOrder ++ toLE 4 x.rogue ++
        toLE 4 x.resets ++ toLE 2 x.lastSeq ++ zeros 2) (touchPort pt true r)))) ∧
  (∀ (p : Packet) (s : State), let r := reached specWinnowRead p s
    let b := p.params
    let pt := byteAt b 0
    let w := (port r pt).win
    accepts specWinnowRead p s = true → portExists r pt = true → byteAt b 1 ≤ 1 → reservedAt b 2 2 = true →
    exec (.winnowRead p) s = .next (answered specWinnowRead p stOk
      (toLE 8 (nowT64 r) ++ (List.range 28).flatMap (fun i => toLE 4 (tget 0 w.ctr i + 2 ^ 48 - tget 0 w.base i)))
      (if byteAt b 1 = 1 then modWin pt (fun w => { w with base := w.ctr }) (touchPort pt true r) else touchPort pt true r)))

/-- Digests are closed and compared, missed digests and alarms fail a furrow, and the arbiter's messages act as R374 to R379 give them. DIGEST_CLOSE
of a deciding, clocked furrow sends the epoch's digest 50 us after the epoch ends, but not one whose epoch a miss has judged meanwhile. DIGEST_COMPARE
of two equal digests of admitted furrows without alarms counts a match; of unequal ones it counts a disagreement, which POLICY settles where no
arbiter answers: under LEAD_WINS the other furrow is failed, under REPORT both are kept. The third miss in a row of DIGEST_MISS_TIMEOUT fails the
furrow. HEADLAND_ALARM of one admitted furrow fails it where the other is admitted without alarm, and of both fences neither. ARB_RULING of the
pending SEQ within its 200 us fences the one it names or keeps both; a valid message of either type is heard. ARB_RULING_TIMEOUT applies POLICY,
ARB_LINK_DOWN takes the link of a running Headland down 5 ms after the last message, ARB_STATUS_OUT, 1 ms after the last, sends the status message of
a running Headland. -/
def Obligations.DigestsAlarmsAndRulingsReachTheirVerdict : Prop :=
  (∀ (fu : Furrow) (ns : Nat) (s0 : State), s0.clk.coreStopped = false → let n := furNo fu
    let e := epochStart ns
    let s := reachRep n (epochNext ns + 50000) s0
    let d := tget (0, 0) (fur s n).openDigests e
    let s1 := modFur n (fun y => { y with closedTo := epochNext ns, openDigests := y.openDigests.filter (fun o => decide (epochNext ns ≤ o.1)) }) s
    (fur s0 n).closedTo ≤ e → decides s0 n = true → (if n = 0 then s0.slices.coreA else s0.slices.coreB) = true →
    (e ∈ judged s n → exec (.digestClose fu ns) s0 = .next (setJudged n ((judged s n).filter (· != e)) s1)) ∧
    (e ∉ judged s n → s1.hl.running = true → decides s1 (other n) = true →
      exec (.digestClose fu ns) s0 = .next (setDigests n (furDigests s1 n ++
        [{ epoch := e, count := d.1 % 65536, sum := d.2, alarms := alarms s1 n, arrived := s1.clk.edges }]) s1)) ∧
    (e ∉ judged s n → s1.hl.running = false ∨ decides s1 (other n) = false → exec (.digestClose fu ns) s0 = .next s1)) ∧
  (∀ (a b : Digest) (s0 : State), let s := modHl (fun h => { h with
      rxA := h.rxA.filter (fun d => d.epoch != a.epoch), rxB := h.rxB.filter (fun d => d.epoch != a.epoch), missA := 0, missB := 0 }) s0
    let z : Finds := { epoch := epochNo a.epoch, sumA := a.sum, sumB := b.sum, countA := a.count, countB := b.count }
    s0.hl.running = true → s0.hl.rxA.find? (fun a => s0.hl.rxB.any (fun b => b.epoch == a.epoch)) = some a →
    s0.hl.rxB.find? (fun b => b.epoch == a.epoch) = some b →
    notCompared s0 a.epoch = false → s0.hl.alarmsA = 0 → s0.hl.alarmsB = 0 → s0.hl.stateA = 0 → s0.hl.stateB = 0 →
    (a.sum = b.sum → a.count = b.count → exec .digestCompare s0 = .next (hlCtr 0 s)) ∧
    (¬ (a.sum = b.sum ∧ a.count = b.count) → exec .digestCompare s0 = .next (disagreement a.epoch z s))) ∧
  (∀ (q : Nat) (z : Finds) (s : State),
    (s.hl.policy = 0 → byPolicy q z s = failFurrow (other s.hl.lead) 0x04 0x02 q z s) ∧
    (s.hl.policy = 1 → byPolicy q z s = keepBoth 0x02 q z s) ∧
    (s.hl.policy = 2 → byPolicy q z s = if s.hl.tolCount ≤ s.hl.tolerance then keepBoth 0x02 q z s else failFurrow (other s.hl.lead) 0x04 0x02 q z s)) ∧
  (∀ (fu : Furrow) (d : Digest) (s0 : State), let f := furNo fu
    let v := reachEdge (d.arrived + 2560) s0
    let s := setJudged f (d.epoch :: (judged v f).take 63) (setDigests (other f) ((furDigests v (other f)).filter (fun y => y.epoch != d.epoch)) v)
    s0.hl.running = true → (furDigests s0 (other f)).find? (fun d => !(furDigests s0 f).any (fun y => y.epoch == d.epoch)) = some d →
    notCompared s d.epoch = false → stoppedFor s f d.epoch = false → furState s f = 0 → furState s (other f) = 0 →
    (missed s f + 1 < 3 → exec (.digestMissTimeout fu) s0 = .next (setMissed f (missed s f + 1) (hlCtr (2 + f) s))) ∧
    (3 ≤ missed s f + 1 → exec (.digestMissTimeout fu) s0 = .next (failFurrow f 0x02 0x01 0 { epoch := epochNo d.epoch, missed := missed s f + 1 }
      (setMissed f 0 (setMissed f (missed s f + 1) (hlCtr (2 + f) s)))))) ∧
  (∀ (s : State), let a := andNot s.hl.alarmsA s.hl.seenA
    let b := andNot s.hl.alarmsB s.hl.seenB
    let s1 := modHl (fun h => { h with seenA := h.alarmsA, seenB := h.alarmsB, disagree := none }) s
    s.hl.running = true → s.hl.restart = none → s.hl.stateA = 0 → s.hl.stateB = 0 →
    (a ≠ 0 → b = 0 → s.hl.alarmsB = 0 → exec .headlandAlarm s = .next (failFurrow 0 0x01 0x00 0 {} s1)) ∧
    (a = 0 → b ≠ 0 → s.hl.alarmsA = 0 → exec .headlandAlarm s = .next (failFurrow 1 0x01 0x00 0 {} s1)) ∧
    (a ≠ 0 → b ≠ 0 → exec .headlandAlarm s = .next (fire 0x1E7 0x01 [] (trail 0x08 0x00 s.hl.lead s.hl.lead 0 {} s1)))) ∧
  (∀ (m : List Byte) (d : Disagree) (s0 : State), let s := arbHeard s0
    let z : Finds := { epoch := d.epoch, sumA := d.sumA, sumB := d.sumB, countA := d.countA, countB := d.countB }
    let s1 := hlCtr 6 (modHl (fun h => { h with disagree := none }) s)
    s0.hl.running = true → arbValid 0x81 2 m = true → s.hl.disagree = some d → byteAt m 3 = d.seq → s.clk.edges ≤ d.deadline →
    (byteAt m 4 = 1 → exec (.arbRuling m) s0 = .next (failFurrow 1 0x04 0x03 d.seq z s1)) ∧
    (byteAt m 4 = 2 → exec (.arbRuling m) s0 = .next (failFurrow 0 0x04 0x03 d.seq z s1)) ∧
    (byteAt m 4 = 3 → exec (.arbRuling m) s0 = .next (keepBoth 0x03 d.seq z s1))) ∧
  (∀ (m : List Byte) (d : Disagree) (s0 : State), s0.hl.running = true → arbValid 0x81 2 m = true → (arbHeard s0).hl.disagree = some d →
    (byteAt m 3 ≠ d.seq ∨ d.deadline < (arbHeard s0).clk.edges) → exec (.arbRuling m) s0 = .next (arbHeard s0)) ∧
  (∀ (m : List Byte) (s : State), s.hl.running = true → arbValid 0x82 0 m = true → exec (.arbStatusIn m) s = .next (arbHeard s)) ∧
  (∀ (d : Disagree) (s : State), s.hl.disagree = some d → s.hl.running = true →
    exec .arbRulingTimeout s = .next (byPolicy d.seq { epoch := d.epoch, sumA := d.sumA, sumB := d.sumB, countA := d.countA, countB := d.countB }
      (fire 0x1E6 0x03 [] (hlCtr 7 (modHl (fun h => { h with disagree := none }) (reachEdge d.deadline s)))))) ∧
  (∀ (s : State), (s.hl.arbUp = true → s.hl.running = true → exec .arbLinkDown s = .next (fire 0x1E6 0x02 []
      (modHl (fun h => { h with arbUp := false, arbTimes := [] }) (reachEdge (s.hl.arbTimes.headD s.clk.edges + 5 * msE) s)))) ∧
    (s.hl.arbUp = false ∨ s.hl.running = false → exec .arbLinkDown s = .next s)) ∧
  (∀ (s : State), let v := reachEdge (s.hl.statusAt + msE) s
    let t := modHl (fun h => { h with statusAt := max s.clk.edges (v.hl.statusAt + msE) }) v
    exec .arbStatusOut s = .next (if t.hl.running then arbSend 0x01
      (toLE 1 t.hl.lead ++ toLE 1 t.hl.stateA ++ toLE 1 t.hl.stateB ++ toLE 1 t.hl.policy) t else t))

/-- A commanded turn starts and ends, a lane flush completes, and a restart copies, is admitted or fails, as R381, R384 and R386 give it. TURN_START
of a turn whose new lead is admitted flips the lead at T_o, opens the overlap window and writes the trail; with a new lead no longer admitted it
completes STATE_CONFLICT. TURN_END fences the old lead at T_f. LANE_FLUSH_COMPLETE returns every lane entry of the fenced furrow as a discard and
fires 0x1E4 with the counter; under AUTO_POWER_OFF a flush after a clock loss or a rail monitor alarm powers the furrow off, and the old lead's flush
ends a turn. RESTART_COPY_DONE copies the live furrow's state at step 4 and asks for its records, whose copies it writes at step 5. RESTART_ADMISSION
with 1,000 matching epochs admits the furrow at the next epoch boundary and completes OK with T_a; RESTART_FAIL_TIMEOUT with fewer, 1 s after step 5,
fences it again and completes HW_FAULT. -/
def Obligations.TurnsFlushesAndRestartsRunTheirSteps : Prop :=
  (∀ (t : Turn) (s0 : State), let s := reachNs t.tStart s0
    s0.hl.turn = some t → t.started = false →
    (s.hl.running = true → furState s t.newLead = 0 → s.hl.lead ≠ t.newLead →
      exec .turnStart s0 = .next (flipLead t.newLead t.tStart (trail 0x05 0x04 s.hl.lead t.newLead 0 {}
        (modHl (fun h => { h with turn := some { t with started := true }, overlap := some (t.tStart, t.tf) }) s)))) ∧
    (furState s t.newLead ≠ 0 → exec .turnStart s0 = .next (complete t.ticket stStateConflict [] (modHl (fun h => { h with turn := none }) s)))) ∧
  (∀ (t : Turn) (s0 : State), let s := modHl (fun h => { h with turn := some { t with ended := true } }) (reachNs t.tf s0)
    s0.hl.turn = some t → t.started = true → t.ended = false → s.hl.running = true → s.hl.lead = t.newLead → furState s (other t.newLead) = 0 →
    exec .turnEnd s0 = .next (fence (other t.newLead) 0 s)) ∧
  (∀ (fu : Furrow) (e b : Nat) (s0 : State), s0.clk.coreStopped = false → let x := furNo fu
    let s := setFlush x none (reachEdge (e + 220 * usE) s0)
    let s1 := flushEntries x ((fur s x).lanes.flatMap (fun l => l.2.map (fun e => (l.1, e)))) (modFur x (fun y => { y with lanes := [] }) s)
    let s2 := fire 0x1E4 0 (toLE 4 (tget 0 s1.hl.ctr 9)) s1
    let off := s2.hl.autoPower = true ∧ (bit b 3 = true ∨ bit b 4 = true) ∧ furState s2 x = 1
    flushOf s0 x = some (e, b) →
    (off → exec (.laneFlushComplete fu) s0 = .next (flushOver x (powerOff x 0x00 s2))) ∧
    (¬off → exec (.laneFlushComplete fu) s0 = .next (flushOver x s2))) ∧
  (∀ (x : Nat) (s : State), (s.hl.turn = none → flushOver x s = s) ∧ (∀ t, s.hl.turn = some t →
    flushOver x s = if t.ended = true ∧ other t.newLead = x then turnDone t s else s)) ∧
  (∀ (fu : Furrow) (s : State), s.clk.coreStopped = false → flushOf s (furNo fu) = none → exec (.laneFlushComplete fu) s = .next s) ∧
  (∀ (r : Restart) (s0 : State), s0.clk.coreStopped = false → let x := r.furrow
    let s4 := reachEdge (r.startedAt + 4 * msE) s0
    let s5 := reachEdge (r.startedAt + 104 * msE) s0
    s0.hl.restart = some r →
    (furState s0 x = 3 → exec .restartCopyDone s0 = .next (readRecords x (setFurState x 4 (clocksOn x (perfRestart x
      (modFur x (fun _ => copyFurrow (fur s4 (other x)))
      (modHalf x freshHalf (modGran (fun g => { g with handleCells := g.handleCells.filter (fun e => e.1 % 2 != x) }) s4)))))))) ∧
    (furState s0 x = 4 → r.copiedAt = none → exec .restartCopyDone s0 = .next (fire 0x1E5 0x01 [] (modHl (fun h => { h with
      restart := some { r with copiedAt := some s5.clk.edges, matched := 0 } })
      (writeRecords x r.badRecs (modFur x (copyRecords r.badRecs (fur s5 (other x))) s5))))) ∧
    (∀ e, r.copiedAt = some e →
      (r.matched < 1000 → exec .restartFailTimeout s0 = .next (restartFails r 0x04 (reachEdge (e + secE) s0))) ∧
      (1000 ≤ r.matched → exec .restartFailTimeout s0 = .next s0))) ∧
  (∀ (r : Restart) (s0 : State), s0.clk.coreStopped = false → let ta := epochNext (nowNs s0)
    let s := reachNs ta s0
    let s1 := modHalf r.furrow (fun h => { h with fenced := false }) (setFurState r.furrow 0 (modHl (fun h => { h with restart := none }) s))
    s0.hl.restart = some r → s0.hl.running = true → furState s0 r.furrow = 4 →
    (1000 ≤ r.matched → exec .restartAdmission s0 = .next (complete r.ticket stOk (toLE 8 (t64OfNs ta))
      (fire 0x1E5 0x02 [] (trail 0x06 0x04 s1.hl.lead s1.hl.lead 0 {} s1)))) ∧
    (r.matched < 1000 → exec .restartAdmission s0 = .next s0))

/-- FURROW_STATUS, HEADLAND_TURN and FURROW_RESTART answer, accept and refuse as R392, R394 and R395 give it. FURROW_STATUS answers lead, states,
policy, alarms, arbiter link, pending work, cells held in fenced halves, matched epochs, last verdict and ten counters, without effect. HEADLAND_TURN
to the present lead is OK without effect, is BUSY during a turn or a pending disagreement, STATE_CONFLICT where the new lead is not admitted, and
otherwise ACCEPTED with T_o at the second epoch boundary and T_f 12.8 us later. FURROW_RESTART of an admitted furrow is STATE_CONFLICT, during a
restart BUSY, and otherwise ACCEPTED: the lanes are flushed, the alarms cleared, the island powered, the half emptied
and the furrow state becomes restarting. -/
def Obligations.HeadlandCommandsAnswerTurnAndRestart : Prop :=
  (∀ (p : Packet) (s : State), let r := reached specFurrowStatus p s
    let h := r.hl
    accepts specFurrowStatus p s = true → exec (.furrowStatus p) s = .next (answered specFurrowStatus p stOk
      (toLE 1 h.lead ++ toLE 1 h.stateA ++ toLE 1 h.stateB ++ toLE 1 h.policy ++ toLE 1 h.alarmsA ++ toLE 1 h.alarmsB ++
       toLE 1 (if h.arbEnable = false then 0 else if h.arbUp = true then 1 else 2) ++ toLE 1 (b2n h.turn.isSome + 2 * b2n h.disagree.isSome) ++
       toLE 4 ((if (half r 0).fenced then cellsHeld r 0 else 0) + (if (half r 1).fenced then cellsHeld r 1 else 0)) ++
       toLE 4 ((h.restart.map (·.matched)).getD 0) ++ toLE 8 h.lastVerdict ++ (List.range 10).flatMap (fun i => toLE 4 (tget 0 h.ctr i))) r)) ∧
  (∀ (p : Packet) (s : State), let r := reached specHeadlandTurn p s
    let new := byteAt p.params 0
    let t := epochNext (epochNext (nowNs r))
    accepts specHeadlandTurn p s = true → new ≤ 1 → reservedAt p.params 1 3 = true →
    (new = r.hl.lead → exec (.headlandTurn p) s = .next (answered specHeadlandTurn p stOk [] r)) ∧
    (new ≠ r.hl.lead →
      (r.hl.turn.isSome = true ∨ r.hl.disagree.isSome = true → exec (.headlandTurn p) s = .next (answered specHeadlandTurn p stBusy [] r)) ∧
      (r.hl.turn = none → r.hl.disagree = none →
        (furState r new ≠ 0 → exec (.headlandTurn p) s =
          .next (respond (ticketFor specHeadlandTurn (asked specHeadlandTurn p)) 0x80 stStateConflict 0x6 [] r)) ∧
        (furState r new = 0 → exec (.headlandTurn p) s = .next (deferred specHeadlandTurn p (modHl (fun h => { h with
          turn := some { tStart := t, tf := t + 12800, newLead := new, discards0 := tget 0 h.ctr 9, ticket := ticketFor specHeadlandTurn (asked specHeadlandTurn p) } }) r)))))) ∧
  (∀ (p : Packet) (s : State), let r := reached specFurrowRestart p s
    let x := byteAt p.params 0
    accepts specFurrowRestart p s = true → x ≤ 1 → byteAt p.params 1 ≤ 1 → reservedAt p.params 2 2 = true →
    (furState r x = 0 → exec (.furrowRestart p) s =
      .next (respond (ticketFor specFurrowRestart (asked specFurrowRestart p)) 0x80 stStateConflict 0x7 [] r)) ∧
    (furState r x ≠ 0 →
      (r.hl.restart.isSome = true → exec (.furrowRestart p) s = .next (answered specFurrowRestart p stBusy [] r)) ∧
      (r.hl.restart = none →
        (byteAt p.params 1 = 1 → exec (.furrowRestart p) s = .next (answered specFurrowRestart p stOk [] (if furState r x = 2 then r else powerOff x 0x04 r))) ∧
        (byteAt p.params 1 = 0 →
          let s1 := modHl (fun h => { h with
            restart := some { furrow := x, ticket := ticketFor specFurrowRestart (asked specFurrowRestart p), startedAt := r.clk.edges }
            alarmsA := if x = 0 then 0 else h.alarmsA, alarmsB := if x = 1 then 0 else h.alarmsB
            seenA := if x = 0 then 0 else h.seenA, seenB := if x = 1 then 0 else h.seenB }) (laneFlush x r)
          let s2 := { s1 with sup := if x = 0 then { s1.sup with poweredA := true } else { s1.sup with poweredB := true } }
          exec (.furrowRestart p) s = .next (deferred specFurrowRestart p (setFurState x 3 (setDigests x [] (setMissed x 0 (halfLost x s2)))))))))

/-- HEADLAND_POLICY_SET has an 8-byte block of POLICY, TOLERANCE and flags, and returns OK with the new settings. A HEADLAND_POLICY_SET that is served
has a parameter block of 8 bytes. With byte 0 (POLICY) at most 0x02, byte 1 (TOLERANCE) from 1 to 255, the flags of byte 2 in bits 0 and 1 and the
reserved bytes 3 to 7 zero it returns OK and the four settings hold from then on: a disagreement settled after it is settled by them. A byte outside
its range or a reserved bit set is BAD_PARAM at that byte's offset, without effect. -/
def Obligations.PolicySetTakesItsBlock : Prop :=
  ∀ (p : Packet) (s : State), let r := reached specHeadlandPolicySet p s
    let b := p.params
    let t := answered specHeadlandPolicySet p stOk [] (modHl (fun h => { h with
      policy := byteAt b 0, tolerance := byteAt b 1, arbEnable := bit (byteAt b 2) 0, autoPower := bit (byteAt b 2) 1 }) r)
    let bad := fun off => respond (ticketFor specHeadlandPolicySet (asked specHeadlandPolicySet p)) 0x80 stBadParam off [] r
    accepts specHeadlandPolicySet p s = true → b.length = 8 ∧
    (byteAt b 0 ≤ 2 → 1 ≤ byteAt b 1 → byteAt b 2 < 4 → reservedAt b 3 5 = true → exec (.headlandPolicySet p) s = .next t ∧
      t.hl.policy = byteAt b 0 ∧ t.hl.tolerance = byteAt b 1 ∧ t.hl.arbEnable = bit (byteAt b 2) 0 ∧ t.hl.autoPower = bit (byteAt b 2) 1 ∧
      (∀ q z, byteAt b 0 = 0 → byPolicy q z t = failFurrow (other t.hl.lead) 0x04 0x02 q z t) ∧
      (∀ q z, byteAt b 0 = 1 → byPolicy q z t = keepBoth 0x02 q z t)) ∧
    (2 < byteAt b 0 → exec (.headlandPolicySet p) s = .next (bad 0)) ∧
    (byteAt b 0 ≤ 2 → byteAt b 1 = 0 → exec (.headlandPolicySet p) s = .next (bad 1)) ∧
    (byteAt b 0 ≤ 2 → 1 ≤ byteAt b 1 → 4 ≤ byteAt b 2 → exec (.headlandPolicySet p) s = .next (bad 2)) ∧
    (byteAt b 0 ≤ 2 → 1 ≤ byteAt b 1 → byteAt b 2 < 4 → reservedAt b 3 5 = false → exec (.headlandPolicySet p) s = .next (bad 3))

/-- Corrections slew or step, references are lost and found, holdover runs out and leap seconds apply, as R401 to R410 give it. TIME_CORRECTION of a
pending difference by a running servo applies it: up to STEP_THRESHOLD as a slew, beyond it as a step where it is the first, where steps in RUN are
enabled, or outside the forwarding states; sixteen small differences in a row lock the clock; ADJ takes the servo's frequency word, which is a free
value (the spec fixes no servo, log 2). REPLICA_COMPARE reloads beyond 4 ns. REFERENCE_LOSS in LOCKED enters HOLDOVER, which HOLDOVER_EXPIRY ends
after HOLDOVER_TIME, and HOLDOVER_EXT_MEASURE corrects. PPS_IN_EDGE pairs with a TOD message in mode GRANDMASTER. TOD_RX_MESSAGE takes a good message
and no other. The presence rows fire their events. LEAP_APPLY moves UTC by the announced second. -/
def Obligations.CorrectionsHoldoverAndReferencesAct : Prop :=
  (∀ (d : Int) (s : State), s.clk.coreStopped = false → let t := s.tim
    let small := d.natAbs ≤ 400
    let good := if small then t.goodRun + 1 else 0
    let next := if small ∧ 16 ≤ good then 2 else if ¬ small ∨ t.state = 0 ∨ 3 ≤ t.state then 1 else t.state
    let s1 := modTim (fun t => { t with
      lastDelta := d, pendDelta := none, goodRun := good, firstLock := false
      fromHoldover := if next = 2 then false else t.fromHoldover || t.state == 3 }) s
    let s2 := applyDelta d t.firstLock s1
    let s4 := setClock next { s2 with free := s2.free + 1 }
    t.pendDelta = some d → (t.cfg.mode = 3 ∨ ((t.cfg.mode = 1 ∨ t.cfg.mode = 2) ∧ s.cp.running = true)) →
    let s5 := if next = 2 ∧ t.state ≠ 2 then modTim (fun t => { t with adjHist := [adjSeg s4] }) s4 else s4
    (clk10mFreq s5 = false → exec .timeCorrection s = .next (setAdj (signed 32 (Config.freeValue s2.free % 2 ^ 32)) s5)) ∧
    (clk10mFreq s5 = true → exec .timeCorrection s = .next (keepAdj s5))) ∧
  (∀ (d : Int) (first : Bool) (s : State), let limit := s.tim.cfg.stepThreshold * 4000
    (d.natAbs ≤ limit → applyDelta d first s = { s with clk := { s.clk with slew := d * tbuPerQ } }) ∧
    (limit < d.natAbs → (first = true ∨ forwarding s = false ∨ s.tim.cfg.stepInRun = true) → applyDelta d first s = stepBy (d * tbuPerQ) s)) ∧
  (∀ (s : State), s.clk.coreStopped = false → s.tim.pendDelta = none → exec .timeCorrection s = .next s) ∧
  (∀ (fu : Furrow) (drift : Int) (s0 : State), s0.clk.coreStopped = false → let n := furNo fu
    let s := reachNs (epochNext (nowNs s0)) s0
    let off := if (fur s n).repReload = true then 0 else (fur s n).repOff + drift
    let dn := Int.tdiv off tbuPerNs
    let s1 := fun far => modFur n (fun x => { x with repOff := off, repDiff := dn, repReload := far }) s
    (fur s0 n).released = true → powered s0 n = true → (if n = 0 then s0.slices.coreA else s0.slices.coreB) = true →
    (off.natAbs ≤ 4 * tbuPerNs → exec (.replicaCompare fu drift) s0 = .next (s1 false)) ∧
    (4 * tbuPerNs < off.natAbs → exec (.replicaCompare fu drift) s0 = .next (fireFur n 0x186 0 (toLE 1 n ++ toLE 2 (unsigned 16 dn)) (s1 true)))) ∧
  (∀ (s : State), s.clk.coreStopped = false → let r := s.tim.ref
    (s.tim.cfg.mode = 2 → s.tim.state = 2 → exec .referenceLoss s = .next (enterHoldover (reachEdge (min (r.ppsLast + 3 * secE / 2) (r.todLast + 2 * secE)) s))) ∧
    (∀ p, s.tim.cfg.mode = 1 → s.tim.slavePort = some p → s.tim.state = 2 →
      exec .referenceLoss s = .next (enterHoldover (reachEdge ((ptpPort s p).syncAt + 3 * secE) s))) ∧
    (s.tim.state = 3 → exec .holdoverExpiry s = .next (setClock 4 (modTim (fun t => { t with firstLock := true, fromHoldover := false })
      (reachEdge (s.tim.holdoverAt + s.tim.cfg.holdoverTime * secE) s)))) ∧
    (∀ dev : Int, (s.tim.state = 3 ∧ s.tim.cfg.holdoverExt = true ∧ r.clk10m = true ∨ clk10mFreq s = true) → let s1 := reachEdge (s.tim.adjAt + secE) s
      exec (.holdoverExtMeasure dev) s = .next (setAdj (s1.clk.adj + dev) (modTim (fun t => { t with adjAt := s1.clk.edges }) s1)))) ∧
  (∀ (s : State), s.clk.coreStopped = false → let r := s.tim.ref
    let s1 := modRef (fun r => { r with ppsPresent := true, ppsLast := s.clk.edges, tod := none }) s
    let s2 := if r.ppsPresent = true then s1 else fire 0x182 0x02 [] s1
    (r.tod = none → exec .ppsInEdge s = .next s2) ∧
    (∀ m, r.tod = some m → s.tim.cfg.mode = 2 → s.cp.running = true →
      exec .ppsInEdge s = .next (modTim (fun t => { t with pendDelta := some ((m.seconds * 4000000000 : Nat) - (nowQ s : Nat)) }) s2))) ∧
  (∀ (m : List Byte) (s : State), s.clk.coreStopped = false → let fl := byteAt m 11
    let tod : TodMsg := { seconds := le m 3 6 % 2 ^ 34, utcOffset := signed 16 (le m 9 2), flags := fl, clockClass := byteAt m 12, accuracy := byteAt m 13, variance := le m 14 2 }
    let s1 := modRef (fun r => { r with tod := some tod, todValid := true, todLast := s.clk.edges }) s
    (todOk m = true → exec (.todRxMessage m) s = .next (if s.tim.cfg.mode = 2 then
      setUtc (signed 16 (le m 9 2)) (if bit fl 0 then 1 else if bit fl 1 then 2 else 0) s1 else s1)) ∧
    (todOk m = false → exec (.todRxMessage m) s = .next s)) ∧
  (∀ (present : Bool) (s : State), s.clk.coreStopped = false → exec (.clk10mPresence present) s =
    .next (if s.tim.ref.clk10m = present then s else fire 0x182 (if present then 4 else 3) [] (modRef (fun r => { r with clk10m := present }) s))) ∧
  (∀ (s : State), s.clk.coreStopped = false → let r := s.tim.ref
    (r.todValid = true → exec (.referenceInputTimeout true) s =
      .next (fire 0x182 0x05 [] (modRef (fun r => { r with todValid := false, tod := none }) (reachEdge (r.todLast + 2 * secE) s)))) ∧
    (r.ppsPresent = true → exec (.referenceInputTimeout false) s =
      .next (fire 0x182 0x01 [] (modRef (fun r => { r with ppsPresent := false }) (reachEdge (r.ppsLast + 3 * secE / 2) s))))) ∧
  (∀ (s0 : State), s0.clk.coreStopped = false → let utcS : Int := (nowNs s0 / 1000000000 : Nat) - s0.tim.utc
    let day := (utcS / 86400 + 1) * 86400
    let apply := fun (sec : Int) (by_ : Int) => fire 0x187 0x02 [] (modTim (fun t => { t with utc := t.utc + by_, leap := 0 }) (reachNs (sec.toNat * 1000000000) s0))
    (s0.tim.leap = 1 → exec .leapApply s0 = .next (apply (day + s0.tim.utc) 1)) ∧
    (s0.tim.leap = 2 → exec .leapApply s0 = .next (apply (day + s0.tim.utc - 1) (-1))) ∧
    (s0.tim.leap = 0 → exec .leapApply s0 = .next s0))

/-- TOD, PPS and IRIG outputs leave at their times, IRIG input frames lock and correct, and GPIO changes are captured. TOD_TX_MESSAGE sends the
message of the next second from 100 ms after a second on. PPS_OUT_EDGE sends an edge at the output's next time, unless squelched and untraceable, and
a pending configuration takes force at it. IRIG_OUT_FRAME sends the frame of the next second; its unspecified control bits are a free value.
IRIG_FRAME of a well-formed frame that follows its predecessor is valid, of an ill-formed one invalid. GPIO_INPUT_CHANGE of a pin with capture starts
the debounce, drops it as a glitch on the way back, or is accepted at once without debounce; GPIO_EDGE_ACCEPT takes the change after DEBOUNCE with the
time of its first sample; GPIO_CHATTER_QUIET ends the silence with its count. The IRIG symbol positions are those of IRIG Standard 200 (log 33). -/
def Obligations.OutputsAndGpioCaptureKeepTheirTimes : Prop :=
  (∀ (s0 : State), coreLive s0 = true → let now := nowNs s0
    let sec := now / 1000000000
    let sub := now % 1000000000
    let t := if sub < 100000000 then sec * 1000000000 + 100000000 else if sub ≤ 500000000 then now else (sec + 1) * 1000000000 + 100000000
    let s := reachNs t s0
    exec .todTxMessage s0 = .next (emitOut (.todTx (todMessage s (t / 1000000000 + 1))) s)) ∧
  (∀ (n : Nat) (s0 : State), coreLive s0 = true → let t := ppsNext s0 (ppsOut s0 n)
    let s1 := modPps n (fun y => match y.next with
      | some (p, w, pol, sq, off) => { period := p, width := w, polarity := pol, squelch := sq, offset := off, lastEdge := some t }
      | none => { y with lastEdge := some t }) (reachNs t s0)
    exec (.ppsOutEdge n) s0 = .next (if (ppsOut s1 n).squelch = true ∧ untraceable s1 = true then s1
      else emitOut (.ppsEdge n (t64OfNs t) (ppsOut s1 n).width (ppsOut s1 n).polarity) s1)) ∧
  (∀ (s0 : State), let sec := nowNs s0 / 1000000000 + 1
    let s := reachNs (sec * 1000000000) s0
    coreLive s0 = true → s0.tim.irig.outFormat ≠ 0 →
    (s.tim.irig.squelch = true → untraceable s = true → exec .irigOutFrame s0 = .next s) ∧
    (s.tim.irig.squelch = false → exec .irigOutFrame s0 = .next (emitOut (.irigOut s.tim.irig.outFormat
      (irigPulses s.tim.irig.outFormat (irigSymbols s s.tim.irig.outFormat sec (Config.freeValue s.free % 2 ^ 7)))) { s with free := s.free + 1 }))) ∧
  (∀ (pulses : List Nat) (first : Nat) (s : State), s.clk.coreStopped = false → let c := s.tim.irig
    let l := pulses.map (fun n => match n with | 2 => 0 | 5 => 1 | 8 => 2 | _ => 3)
    let age := if irigAm c.inFormat then first + 250 * usE else first
    let ok := irigWellFormed c.inFormat (c.cf && irigCf c.inFormat) l
    let sec := irigSecond s l age
    c.inFormat ≠ 0 →
    (ok = false → exec (.irigFrame pulses first) s = .next (irigInvalid s)) ∧
    (ok = true → s.tim.ref.irigLast = none → exec (.irigFrame pulses first) s = .next (irigValid l sec age s)) ∧
    (∀ t, ok = true → s.tim.ref.irigLast = some t →
      (sec = t + 1 → exec (.irigFrame pulses first) s = .next (irigValid l sec age s)) ∧
      (sec ≠ t + 1 → s.tim.ref.irigLocked = true → exec (.irigFrame pulses first) s = .next (irigInvalid s)))) ∧
  (∀ (n : Nat) (level : Bool) (s : State), s.clk.coreStopped = false → let g := gpio s n
    let s1 := modGpio n (fun g => { g with level := level }) s
    n < 32 → g.level ≠ level →
    (level = g.accepted → g.changing.isSome = true →
      exec (.gpioInputChange n level) s = .next (modGpio n (fun g => { g with changing := none, glitches := wrap32 (g.glitches + 1) }) s1)) ∧
    (level ≠ g.accepted → g.debounce = 0 → exec (.gpioInputChange n level) s = .next (gpioAccept n level (nowNs s) (nowQns s) s1)) ∧
    (level ≠ g.accepted → g.debounce ≠ 0 →
      exec (.gpioInputChange n level) s = .next (modGpio n (fun g => { g with changing := some (nowNs s, nowQns s, s.clk.edges) }) s1))) ∧
  (∀ (n ns q e : Nat) (s : State), s.clk.coreStopped = false → (gpio s n).changing = some (ns, q, e) →
    exec (.gpioEdgeAccept n) s = .next (gpioAccept n (gpio s n).level ns q (reachEdge (e + (gpio s n).debounce * usE) s))) ∧
  (∀ (n : Nat) (s0 : State), s0.clk.coreStopped = false → let g := gpio s0 n
    (g.silenced = true → exec (.gpioChatterQuiet n) s0 = .next (fire (0x1C0 + n) 0x03 (toLE 4 g.silentRecords)
      (modGpio n (fun g => { g with silenced := false, silentRecords := 0, recent := [] }) (reachEdge (g.recent.getLastD 0 + secE) s0)))) ∧
    (g.silenced = false → exec (.gpioChatterQuiet n) s0 = .next s0))

/-- The PTP engine handles the oldest message received, sends its messages 1 s apart, times out Announce and pairs the stamps it reads. PTP_MESSAGE_RX
takes the oldest message; while the command processor is halted it is counted as discarded and nothing else happens; at a port with a role a
well-formed Pdelay_Req of the domain is counted and answered, a message too short is a fault with cause 0x01, one of another domain with cause 0x02.
PTP_MESSAGE_TX of a Pdelay_Req, and of Sync or Announce at an asCapable MASTER port, sends the message 1 s after the last. ANNOUNCE_RECEIPT_TIMEOUT
three intervals after the last Announce forgets the foreign masters and decides anew. STAMP_FIFO_READ takes the oldest entry and lets a pending marker
take the freed place; a marker is paired with nothing. Message layouts and the state machine are the model's reading of IEEE 1588-2019, which R412
makes the rule (log 34). -/
def Obligations.PtpMessagesAreHandledSentAndTimed : Prop :=
  (∀ (s : State), s.clk.coreStopped = false → s.tim.ptpRx = [] → exec .ptpMessageRx s = .next s) ∧
  (∀ (p t : Nat) (bytes : List Byte) (rest : List (Nat × Nat × List Byte)) (s : State), s.clk.coreStopped = false → let s1 := modTim (fun t => { t with ptpRx := rest }) s
    let x := ptpPort s p
    let b := (bytes.take (bytes.length - 4)).drop (14 + 4 * earlyTags bytes)
    let kind := byteAt b 0 % 16
    let n := be b 2 2
    s.tim.ptpRx = (p, t, bytes) :: rest →
    (s.cp.running = false → exec .ptpMessageRx s = .next (modTim (fun t => { t with ptpDiscards := wrap32 (t.ptpDiscards + 1) }) s1)) ∧
    (s.cp.running = true → x.role ≠ 0 →
      (b.length < 34 → exec .ptpMessageRx s = .next (fireMs 0 0x183 0x01 (toLE 1 p ++ toLE 1 kind) s1)) ∧
      (34 ≤ b.length → byteAt b 1 % 16 = 2 → ptpMin kind ≤ n → n ≤ b.length →
        (byteAt b 4 ≠ s.tim.cfg.domain → exec .ptpMessageRx s = .next (fireMs 0 0x183 0x02 (toLE 1 p ++ toLE 1 kind) s1)) ∧
        (byteAt b 4 = s.tim.cfg.domain → byteAt b 0 = 2 → byteAt b 5 = 0 →
          exec .ptpMessageRx s = .next (rxPdelayReq p t { kind := 2, b := b.take n } (modPtp p (fun x => { x with rxReq := wrap32 (x.rxReq + 1) }) s1)))))) ∧
  (∀ (p kind : Nat) (s : State), s.clk.coreStopped = false → let x := ptpPort s p
    let due := match tget? x.txAt kind with | some e => reachEdge (e + secE) s | none => s
    s.cp.running = true → x.role ≠ 0 → portExists s p = true → x.qualAt = none →
    (kind = 2 ∨ ((kind = 0 ∨ kind = 11) ∧ (x.role = 1 ∨ x.role = 2) ∧ x.state = 6 ∧ x.capable = true) →
      exec (.ptpMessageTx p kind) s = .next (ptpEmit p kind due))) ∧
  (∀ (p kind : Nat) (s : State), s.clk.coreStopped = false → s.cp.running = false → exec (.ptpMessageTx p kind) s = .next s) ∧
  (∀ (p : Nat) (s0 : State), s0.clk.coreStopped = false → let x := ptpPort s0 p
    let s := reachEdge (x.announceAt + 3 * secE) s0
    let s3 := ptpDecide (setPtpState p (if s.tim.cfg.slaveOnly then 4 else 6) (modPtp p (fun x => { x with foreign := [], announceAt := s.clk.edges }) s))
    s0.cp.running = true → (x.role = 1 ∨ x.role = 2) → x.state ≠ 6 → x.state ≠ 3 →
    exec (.announceReceiptTimeout p) s0 = .next (if s.tim.slavePort = some p ∧ s.tim.cfg.mode = 1 then enterHoldover s3 else s3)) ∧
  (∀ (p : Nat) (e : StampEnt) (r : List StampEnt) (s : State), s.clk.coreStopped = false → s.cp.running = true → (ptpPort s p).fifo = e :: r →
    let s1 := fun (l : List StampEnt) => modPtp p (fun x => { x with fifo := l, marker := none }) s
    ((ptpPort s p).marker = none → e.marker = false → exec (.stampFifoRead p) s = .next (pairStamp p e (s1 r))) ∧
    ((ptpPort s p).marker = none → e.marker = true → exec (.stampFifoRead p) s = .next (s1 r)) ∧
    (∀ m, (ptpPort s p).marker = some m → e.marker = false → exec (.stampFifoRead p) s = .next (pairStamp p e (s1 (r ++ [{ m with t64 := nowT64 s }])))))

/-- CLOCK_CONFIGURE, CLOCK_STATUS, PTP_PORT_SET, IRIG_SET and GPIO_CAPTURE_SET set and answer what they name. Served with legal fields:
CLOCK_CONFIGURE that keeps MODE and PROFILE, outside mode FREE and without SET_TIME, puts the settings and the two pending PPS configurations; with
MODE IRIG and no input format it is STATE_CONFLICT; in mode FREE a SET_TIME steps the time base. CLOCK_STATUS answers the 64 bytes of R431; the
clockClass of a state that sends none is a free value. PTP_PORT_SET sets a port's role and settings and decides anew, and reads its state and counts.
IRIG_SET puts the settings and, for another input setting, searches for lock anew. GPIO_CAPTURE_SET sets a pin's capture, which ends a silence,
and reads its level and counts. -/
def Obligations.ClockPtpIrigAndGpioCommandsSetTheirUnits : Prop :=
  (∀ (p : Packet) (s : State), let r := reached specClockConfigure p s
    let b := p.params
    let c := clockBlock b
    let s1 := modPps 1 (ppsSet b 40 52) (modPps 0 (ppsSet b 32 48) (keepAdj (modTim (fun t => { t with cfg := c }) r)))
    let step := fun (v : State) => stepBy (((nsOfT64 (le b 20 8) * tbuPerNs : Nat) : Int) - v.clk.tb) v
    accepts specClockConfigure p s = true → c.mode < 4 → (c.profile = 1 ∨ c.profile = 2) → byteAt b 5 < 16 → 1 ≤ c.slewMax → c.slewMax ≤ 500 →
    1 ≤ c.stepThreshold → c.stepThreshold ≤ 1000000 → 1 ≤ c.holdoverTime → c.holdoverTime ≤ 86400 → c.leap < 3 → c.ptpClass < 7 →
    9600 ≤ c.todBaud → c.todBaud ≤ 460800 → (∀ e ∈ ppsChecks b 32 ++ ppsChecks b 40, e.1 = true) → offsetOk b 48 = true → offsetOk b 52 = true → reservedAt b 56 8 = true →
    t64Ok (le b 20 8) = true →
    (le b 20 8 = 0 → c.mode ≠ 0 → c.mode = r.tim.cfg.mode → c.profile = r.tim.cfg.profile → (c.mode = 3 → r.tim.irig.inFormat ≠ 0) →
      exec (.clockConfigure p) s = .next (answered specClockConfigure p stOk [] s1)) ∧
    (le b 20 8 = 0 → c.mode = 3 → r.tim.irig.inFormat = 0 →
      exec (.clockConfigure p) s = .next (respond (ticketFor specClockConfigure (asked specClockConfigure p)) 0x80 stStateConflict 0xF [] r)) ∧
    (le b 20 8 ≠ 0 → c.mode = 0 → r.tim.cfg.mode = 0 → c.profile = r.tim.cfg.profile →
      exec (.clockConfigure p) s = .next (answered specClockConfigure p stOk [] (step (setUtc c.utcOffset c.leap s1)))) ∧
    (le b 20 8 ≠ 0 → c.mode ≠ 0 →
      exec (.clockConfigure p) s = .next (respond (ticketFor specClockConfigure (asked specClockConfigure p)) 0x80 stBadParam 20 [] r))) ∧
  (∀ (p : Packet) (s : State), let r := reached specClockStatus p s
    let t := r.tim
    let reply := fun (cls : Nat) => toLE 1 t.state ++ toLE 1 t.cfg.mode ++ toLE 1 cls ++
      toLE 1 (b2n (untraceable r) + 2 * b2n t.ref.ppsPresent + 4 * b2n t.ref.clk10m + 8 * b2n t.ref.todValid + 16 * b2n t.ref.irigLocked + 32 * b2n (t.leap != 0)) ++
      toLE 8 (nowT64 r) ++ toLE 8 (unsigned 64 t.lastDelta) ++ toLE 4 (unsigned 32 ((t.slavePort.map (fun q => (ptpPort r q).linkDelay)).getD 0)) ++
      toLE 4 (unsigned 32 (adjNow r)) ++ toBE 8 (if t.cfg.mode = 1 then gmNow r else clockIdentity r) ++ toLE 2 (unsigned 16 t.utc) ++
      toLE 1 (t.slavePort.getD 0xFF) ++ zeros 1 ++ toLE 4 t.steps ++ toLE 8 t.lastStep ++
      toLE 4 (if t.state = 3 then (r.clk.edges - t.holdoverAt) / secE else 0) ++ toLE 2 (unsigned 16 (fur r 0).repDiff) ++ toLE 2 (unsigned 16 (fur r 1).repDiff) ++
      toLE 4 t.ptpDiscards
    accepts specClockStatus p s = true →
    (∀ k, classSent r = some k → exec (.clockStatus p) s = .next (answered specClockStatus p stOk (reply k) r)) ∧
    (classSent r = none → exec (.clockStatus p) s =
      .next (answered specClockStatus p stOk (reply (Config.freeValue r.free % 2 ^ 8)) { r with free := r.free + 1 }))) ∧
  (∀ (p : Packet) (s : State), let r := reached specPtpPortSet p s
    let b := p.params
    let q := byteAt b 1
    let v := touchPort q true r
    let x := ptpPort v q
    let s1 := modPtp q (fun x => { ptpRole (byteAt b 2) v x with
      oneStep := bit (byteAt b 3) 0, tagged := bit (byteAt b 3) 1, tci := le b 4 2, asymmetry := signed 32 (le b 8 4), delayLimit := le b 12 4 }) v
    accepts specPtpPortSet p s = true → portExists r q = true →
    (byteAt b 0 = 0 → byteAt b 2 < 4 → byteAt b 3 < 4 → reservedAt b 6 2 = true →
      (x.state = (ptpPort s1 q).state → exec (.ptpPortSet p) s = .next (answered specPtpPortSet p stOk [] (ptpDecide s1))) ∧
      (x.state ≠ (ptpPort s1 q).state → exec (.ptpPortSet p) s =
        .next (answered specPtpPortSet p stOk [] (ptpDecide (fire 0x189 0x02 (toLE 1 q ++ toLE 1 x.state ++ toLE 1 (ptpPort s1 q).state) s1))))) ∧
    (byteAt b 0 = 1 → reservedAt b 2 14 = true → exec (.ptpPortSet p) s = .next (answered specPtpPortSet p stOk
      (toLE 1 x.state ++ toLE 1 x.role ++ zeros 2 ++ toLE 4 (unsigned 32 x.linkDelay) ++ toLE 4 x.stampsLost ++ toLE 4 x.rxSync ++ toLE 4 x.rxFollow ++
       toLE 4 x.rxReq ++ toLE 4 x.rxResp ++ zeros 4) v))) ∧
  (∀ (p : Packet) (s : State), let r := reached specIrigSet p s
    let b := p.params
    let f := byteAt b 2
    let off := signed 16 (le b 4 2)
    let c : IrigCfg := { inFormat := byteAt b 0, outFormat := byteAt b 1, inLocal := bit f 0, outLocal := bit f 1, cf := bit f 2, squelch := bit f 3, localOffset := off, tolerance := le b 8 4 }
    let old := r.tim.irig
    let s1 := modTim (fun t => { t with irig := c }) r
    let same := c.inFormat = old.inFormat ∧ c.inLocal = old.inLocal ∧ c.cf = old.cf ∧ c.localOffset = old.localOffset
    accepts specIrigSet p s = true → irigFormatOk (byteAt b 0) = true → irigFormatOk (byteAt b 1) = true → f < 16 → reservedAt b 3 1 = true →
    -720 ≤ off → off ≤ 720 → off % 15 = 0 → reservedAt b 6 2 = true → 1 ≤ le b 8 4 → le b 8 4 ≤ 1000000 →
    (same → exec (.irigSet p) s = .next (answered specIrigSet p stOk [] s1)) ∧
    (¬ same → r.tim.ref.irigLocked = false → exec (.irigSet p) s = .next (answered specIrigSet p stOk []
      (modRef (fun r => { r with irigLocked := false, irigGood := 0, irigBad := 0, irigLast := none }) s1)))) ∧
  (∀ (p : Packet) (s : State), let r := reached specGpioCaptureSet p s
    let b := p.params
    let n := byteAt b 0
    let g := gpio r n
    accepts specGpioCaptureSet p s = true → n < 32 → byteAt b 1 < 4 → le b 4 2 ≤ 1000 → reservedAt b 7 1 = true →
    (byteAt b 6 = 0 → exec (.gpioCaptureSet p) s = .next (answered specGpioCaptureSet p stOk [] (modGpio n (fun g => { g with
      edges := byteAt b 1, debounce := le b 2 2, chatter := le b 4 2, changing := none, accepted := g.level, recent := [] }) (gpioResume n r)))) ∧
    (byteAt b 6 = 1 → exec (.gpioCaptureSet p) s = .next (answered specGpioCaptureSet p stOk
      (toLE 1 (b2n g.level) ++ zeros 3 ++ toLE 4 g.count ++ toLE 4 g.glitches ++ toLE 4 g.notRecorded) r)))

/-- Staged records go to the journal ring while it has room, the holdoffs end in their signals, and JOURNAL_SET enables, changes and disables it.
JOURNAL_RECORD_WRITE of an enabled journal with the link up and room writes the oldest staged record's 32 bytes at its ring place and advances
JOURNAL_PRODUCER, re-timing the oldest record, signalling a watermark reached from below and settling a loss; a full ring, a link that is down and an
empty staging buffer write nothing. JOURNAL_HOLDOFF_EXPIRY signals the journal's vector for an oldest unread record not yet signalled, JOURNAL_HOLDOFF
after it became the oldest, and does nothing otherwise. VECTOR_HOLDOFF_EXPIRY of a vector with a pending signal sends it at the end of its holdoff, or
sets its pending bit where it is masked, and sends nothing without MSI-X or the link. JOURNAL_SET enabling empties the ring and restarts SEQUENCE,
disabling discards the staged records, and a change of BASE or SIZE_LOG2 while enabled is STATE_CONFLICT. -/
def Obligations.TheJournalRingIsWrittenAndSignalled : Prop :=
  (∀ (x : JRecord) (rest : List JRecord) (s : State), s.clk.coreStopped = false → let i := s.jr.producer
    let was := jUnread s
    let s1 := emitOut (.hostWrite (s.jr.base + 32 * i) (jBytes x))
      { s with jr := { s.jr with staged := rest, producer := (i + 1) % jSize s, writtenAt := tput s.jr.writtenAt i s.clk.edges } }
    let s2 := if was = 0 then { s1 with jr := { s1.jr with oldestSince := s.clk.edges, signalledOldest := false } } else s1
    s.jr.enable = true → s.pcie.up = true → s.jr.staged = x :: rest → jFull s = false →
    (s2.jr.wmArmed = true ∧ s2.jr.watermark ≤ jUnread s2 → exec .journalRecordWrite s =
      .next (settleLoss (signalVec s2.jr.vector { s2 with jr := { s2.jr with wmArmed := false, signalledOldest := true } }))) ∧
    (¬ (s2.jr.wmArmed = true ∧ s2.jr.watermark ≤ jUnread s2) → exec .journalRecordWrite s = .next (settleLoss s2))) ∧
  (∀ (s : State), s.clk.coreStopped = false → s.jr.enable = false ∨ s.pcie.up = false ∨ s.jr.staged = [] ∨ jFull s = true → exec .journalRecordWrite s = .next s) ∧
  (∀ (s : State), s.clk.coreStopped = false → let s1 := reachEdge (s.jr.oldestSince + s.jr.holdoff * usE) s
    (s.jr.enable = true → jUnread s ≠ 0 → s.jr.signalledOldest = false →
      exec .journalHoldoffExpiry s = .next (signalVec s.jr.vector { s1 with jr := { s.jr with signalledOldest := true } })) ∧
    (s.jr.enable = false ∨ jUnread s = 0 ∨ s.jr.signalledOldest = true → exec .journalHoldoffExpiry s = .next s)) ∧
  (∀ (v : Nat) (s : State), s.clk.coreStopped = false → let s1 := reachEdge (vecFreeAt s v) s
    let s2 := { s1 with ev := { s1.ev with vecPend := setBit s1.ev.vecPend v false } }
    (bit s.ev.vecPend v = true → v < 64 → vecMasked s v = false → s.pcie.msixEnable = true → s.pcie.up = true →
      exec (.vectorHoldoffExpiry v) s = .next (sendVec v s2)) ∧
    (bit s.ev.vecPend v = true → v < 64 → vecMasked s v = true →
      exec (.vectorHoldoffExpiry v) s = .next { s2 with win := { s.win with pba := setBit s.win.pba v true } }) ∧
    (bit s.ev.vecPend v = true → (64 ≤ v ∨ (vecMasked s v = false ∧ (s.pcie.msixEnable = false ∨ s.pcie.up = false))) →
      exec (.vectorHoldoffExpiry v) s = .next s2) ∧
    (bit s.ev.vecPend v = false → exec (.vectorHoldoffExpiry v) s = .next s)) ∧
  (∀ (p : Packet) (s : State), let r := reached specJournalSet p s
    let b := p.params
    let base := le b 0 8
    let sz := byteAt b 8
    let wm := le b 12 4
    let j := { r.jr with base := base, sizeLog2 := sz, vector := byteAt b 10, watermark := wm, holdoff := le b 16 4 }
    accepts specJournalSet p s = true → base % 64 = 0 → 10 ≤ sz → sz ≤ 20 → (byteAt b 10 < 64 ∨ byteAt b 10 = 0xFF) → reservedAt b 11 1 = true →
    1 ≤ wm → wm ≤ 2 ^ sz - 1 → le b 16 4 ≤ 100000 → reservedAt b 20 4 = true →
    (byteAt b 9 = 1 → r.jr.enable = false → exec (.journalSet p) s = .next (answered specJournalSet p stOk [] { r with jr := { j with
      enable := true, producer := 0, consumer := 0, sequence := 0, staged := [], loss := none, writtenAt := [], wmArmed := true, signalledOldest := false, oldestSince := r.clk.edges } })) ∧
    let moves := r.jr.enable = true ∧ (base ≠ r.jr.base ∨ sz ≠ r.jr.sizeLog2)
    (byteAt b 9 < 2 → moves → exec (.journalSet p) s =
      .next (respond (ticketFor specJournalSet (asked specJournalSet p)) 0x80 stStateConflict 0xF [] r)) ∧
    (byteAt b 9 = 0 → ¬moves → exec (.journalSet p) s = .next (answered specJournalSet p stOk []
      { r with jr := { j with enable := false, producer := 0, consumer := 0, staged := [], loss := none } })) ∧
    (byteAt b 9 = 1 → r.jr.enable = true → ¬moves → exec (.journalSet p) s =
      .next (answered specJournalSet p stOk [] { r with jr := { j with wmArmed := r.jr.wmArmed || decide (jUnread r < wm) } })))

/-- EVENT_ROUTE_SET sets routes and vector holdoffs, reads routes, and refuses a vector above 63 other than 0xFF. A served EVENT_ROUTE_SET has a block
of 12 bytes. OP 0x00 with FIRST + COUNT at most 1,024 and a legal route returns OK and every source from FIRST on, COUNT of them, has that route from
then on, whether or not it ever fires. OP 0x01 with a vector below 64 and a holdoff up to 1,000 us returns OK and sets it. OP 0x02 returns the COUNT
routes in 2 bytes each, padded to a multiple of 4. A route naming a vector above 63 other than 0xFF is BAD_PARAM at offset 6, without effect. The
range of HOLDOFF_v is R429's. -/
def Obligations.EventRoutesAndHoldoffsAreSet : Prop :=
  ∀ (p : Packet) (s : State), let r := reached specEventRouteSet p s
    let b := p.params
    let first := le b 2 2
    let count := le b 4 2
    let rt := le b 6 2
    let inRange := 1 ≤ count ∧ count ≤ 1024 ∧ first + count ≤ 1024
    let bad := fun off => exec (.eventRouteSet p) s = .next (respond (ticketFor specEventRouteSet (asked specEventRouteSet p)) 0x80 stBadParam off [] r)
    accepts specEventRouteSet p s = true → (byteAt b 0 ≤ 2 → b.length = 12) ∧
    (2 < byteAt b 0 → bad 0) ∧ (byteAt b 0 ≤ 2 → reservedAt b 1 1 = false → bad 1) ∧
    (reservedAt b 1 1 = true →
      (byteAt b 0 = 0 → inRange → bits rt 13 8 = 0 → (rt % 256 < 64 ∨ rt % 256 = 0xFF) →
        exec (.eventRouteSet p) s = .next (answered specEventRouteSet p stOk [] { r with ev := { r.ev with
          route := (List.range count).foldl (fun t i => tset 0x80FF t (first + i) rt) r.ev.route } })) ∧
      (byteAt b 0 = 0 → inRange → 64 ≤ rt % 256 → rt % 256 ≠ 0xFF → bad 6) ∧
      (byteAt b 0 = 1 → first < 64 → le b 8 4 ≤ 1000 →
        exec (.eventRouteSet p) s = .next (answered specEventRouteSet p stOk [] { r with ev := { r.ev with holdoff := tset 0 r.ev.holdoff first (le b 8 4) } })) ∧
      (byteAt b 0 = 1 → 64 ≤ first → bad 2) ∧
      (byteAt b 0 = 2 → inRange → exec (.eventRouteSet p) s = .next (answered specEventRouteSet p stOk
        ((List.range count).flatMap (fun i => toLE 2 (tget 0x80FF r.ev.route (first + i))) ++ (if count % 2 = 1 then zeros 2 else [])) r)) ∧
      (byteAt b 0 ≠ 1 → byteAt b 0 ≤ 2 → 1024 ≤ first → bad 2) ∧
      (byteAt b 0 ≠ 1 → byteAt b 0 ≤ 2 → first < 1024 → ¬ inRange → bad 4))

/-- Header transfers are taken, paired, released and written once, and a trigger freezes the ring, as R310 and R437 to R445 give it. HEADER_TRANSFER
of a copy of a live furrow with its decision, whose transfer the matcher has granted, puts the transfer into the input; one not granted waits.
HEADER_TRANSFER_TIMEOUT skips one not granted 1 us after its decision, counted. GLEANER_TRANSFER_ARRIVAL takes the oldest transfer at its pace: the
lead's transfer builds the pair's record, a second one of a built pair or of a pair remembered for 200 us changes nothing, and a new pair takes a
record, or is counted where the ring is full or past its trigger window, or is left out where nothing is recorded. A record's opening numbers it,
freezes a triggered ring at half its size and stops a full one, reported once. GLEANER_PAIR_TIMEOUT builds the record from the other furrow's
transfer, counted. GLEANER_RECORD_RELEASE never overtakes an earlier record of the same port. GLEANER_RECORD_WRITE writes an accepted record to slot
SEQUENCE mod RING_RECORDS, counted, or loses it, counted with its event. GLEANER_FREEZE and GLEANER_FROZEN freeze the ring and report it.
GLEANER_INIT_COMPLETE begins recording, unless the ring was switched off meanwhile, and completes the commands that asked for it. GLEANER_COPY_DONE
writes header and records to host memory, a record whose read failed or whose channel is down with STAMP and META 0, and the next copy starts its
reads. MIRROR_GRACE_EXPIRY of a frame of TC0 to TC4 or with other lane entries does nothing; of another it takes the session's copies that have not
begun to cross, counted as drops. -/
def Obligations.TheGleanerStagesReleasesAndFreezes : Prop :=
  (∀ (fu : Furrow) (u : Nat) (c : Copy) (s : State), s.clk.coreStopped = false → let f := furNo fu
    let s1 := modCopy u f (fun c => { c with transfer := false, granted := false }) (modGle (fun g => { g with input := g.input ++ [xferOf s f u] }) s)
    copyOf (frame s u) f = some c → c.transfer = true →
    ((decOf (frame s u) f).isSome = true → c.granted = true → live s f = true → exec (.headerTransfer fu u) s = .next (tryReturn u f s1)) ∧
    ((c.granted = false ∨ live s f = false ∨ decOf (frame s u) f = none) → exec (.headerTransfer fu u) s = .next s) ∧
    ((decOf (frame s u) f).isSome = true → c.granted = false → exec (.headerTransferTimeout fu u) s =
      .next (fireFurMs f (xBase f + 3) 0 [] (xctr 16 1 f (tryReturn u f (modCopy u f (fun c => { c with transfer := false }) (reachEdge (c.decidedAt + usE) s)))))) ∧
    ((c.granted = true ∨ decOf (frame s u) f = none) → exec (.headerTransferTimeout fu u) s = .next s)) ∧
  (∀ (x : GlXfer) (rest : List GlXfer) (s : State), s.clk.coreStopped = false → let e := reachEdge (paceEdge s.gle.inAt) s
    let s0 := modGle (fun g => { g with input := rest, inAt := paceNext g.inAt 625 e }) e
    let late := s0.gle.tg + s0.gle.postTime * 1000000 < x.ns
    s.gle.input = x :: rest →
    (∀ r, s0.gle.recs.find? (fun r => r.x.port == x.port && r.x.tag == x.tag) = some r →
      (r.built = true ∨ x.fur ≠ x.lead → exec .gleanerTransferArrival s = .next s0) ∧
      (r.built = false → x.fur = x.lead → exec .gleanerTransferArrival s = .next (modGle (fun g => { g with
        recs := g.recs.map (fun y => if y.seq == r.seq then { y with x := joinXfer y.x x, built := true } else y) }) s0))) ∧
    (s0.gle.recs.find? (fun r => r.x.port == x.port && r.x.tag == x.tag) = none →
      (s0.gle.recent.any (fun r => r.1 == x.port && r.2.1 == x.tag && decide (s0.clk.edges < r.2.2 + 200 * usE)) = true →
        exec .gleanerTransferArrival s = .next s0) ∧
      (s0.gle.recent.any (fun r => r.1 == x.port && r.2.1 == x.tag && decide (s0.clk.edges < r.2.2 + 200 * usE)) = false →
        (s0.gle.state = 2 → exec .gleanerTransferArrival s = .next (openPair x (remember x s0))) ∧
        (s0.gle.state = 3 ∨ s0.gle.state = 4 → late → exec .gleanerTransferArrival s = .next (glCtr 7 (remember x s0))) ∧
        (s0.gle.state = 3 → ¬ late → s0.gle.freezeCause = 0 → exec .gleanerTransferArrival s = .next (openPair x (remember x s0))) ∧
        (s0.gle.state = 4 ∨ (s0.gle.state = 3 ∧ s0.gle.freezeCause ≠ 0) → ¬ late → exec .gleanerTransferArrival s = .next (remember x s0)) ∧
        (s0.gle.state = 5 → exec .gleanerTransferArrival s = .next (glCtr 7 (remember x s0))) ∧
        ((s0.gle.state < 2 ∨ 5 < s0.gle.state) → exec .gleanerTransferArrival s = .next (remember x s0))))) ∧
  (∀ (x : GlXfer) (s : State), let s1 := modGle (fun g => { g with seq := (s.gle.seq + 1) % 2 ^ 48 }) s
    let done := fun (t : State) => openPair x s =
      stopFull (if t.gle.state = 3 ∧ t.gle.freezeCause = 0 ∧ t.gle.trigSeq + ringRecords t / 2 ≤ t.gle.seq then freeze 2 t else t)
    (stageRoom s1 = none → done (fireMs 0 0x382 0x01 [] (glCtr 1 s1))) ∧
    (∀ v, stageRoom s1 = some v → done (modGle (fun g => { g with
      recs := g.recs ++ [{ x := x, seq := some s.gle.seq, opened := v.clk.edges, built := decide (x.fur = x.lead) }] }) v))) ∧
  (∀ (s : State), let full := s.gle.state = 2 ∧ s.gle.mode = 1 ∧ ringRecords s ≤ s.gle.seq
    let t := modGle (fun g => { g with state := 5, fullReported := true }) s
    (full → stopFull s = if s.gle.fullReported then t else fire 0x380 0x02 [] t) ∧ (¬full → stopFull s = s)) ∧
  (∀ (sq : Nat) (s : State) (r : GlRec), s.clk.coreStopped = false → s.gle.recs.find? (fun r => r.seq == some sq && !r.built) = some r →
    exec (.gleanerPairTimeout sq) s = .next (glCtr 3 (modGle (fun g => { g with recs := g.recs.map (fun y => if y.seq == some sq then { y with built := true } else y) })
      (reachEdge (r.opened + 10 * usE) s)))) ∧
  (∀ (sq : Nat) (s : State) (r : GlRec), s.clk.coreStopped = false → s.gle.recs.find? (fun r => r.seq == some sq) = some r →
    (r.built = false ∨ (∃ y ∈ s.gle.recs, y.x.port = r.x.port ∧ y.seq.getD 0 < sq) → exec (.gleanerRecordRelease sq) s = .next s) ∧
    (r.built = true → (∀ y ∈ s.gle.recs, y.x.port = r.x.port → sq ≤ y.seq.getD 0) →
      exec (.gleanerRecordRelease sq) s = .next (releaseRec r (reachEdge (if releasable s r s.clk.edges then s.clk.edges
        else if (recLength s r).isSome then r.opened + s.gle.verdictWait * usE else r.opened + msE) s)))) ∧
  (∀ (ok : Bool) (sq : Nat) (b : List Byte) (rest : List (Nat × List Byte)) (s0 : State), s0.clk.coreStopped = false → let s := reachEdge (paceEdge s0.gle.outAt) s0
    let slot := sq % max 1 (ringRecords s)
    let a := s.deep.gleanBase + 128 * slot
    let s1 := modGle (fun g => { g with outq := rest, outAt := paceNext g.outAt 1250 s }) s
    s0.gle.outq = (sq, b) :: rest →
    (ok = true → glRegion s = true → deepUp s a = true → exec (.gleanerRecordWrite ok) s0 =
      .next (writeHalves 4 a b [] (glCtr 0 (modGle (fun g => { g with slots := tput g.slots slot b }) s1)))) ∧
    (ok = false ∨ glRegion s = false ∨ deepUp s a = false → exec (.gleanerRecordWrite ok) s0 = .next (fireMs 0 0x382 0x01 [] (glCtr 1 s1)))) ∧
  (∀ (s : State), s.clk.coreStopped = false → let g := s.gle
    (g.state = 3 → g.freezeCause = 0 → exec .gleanerFreeze s = .next (freeze 1 (reachNs (g.tg + g.postTime * 1000000 + 100000) s))) ∧
    (g.state = 3 → g.freezeCause ≠ 0 → g.recs = [] → g.outq = [] → exec .gleanerFrozen s =
      .next (fire 0x380 0x03 (toLE 6 g.freezeSeq ++ toLE 1 g.freezeCause) (modGle (fun g => { g with state := 4 }) s))) ∧
    (g.state ≠ 3 → exec .gleanerFreeze s = .next s ∧ exec .gleanerFrozen s = .next s)) ∧
  (∀ (s : State), s.clk.coreStopped = false → s.gle.state = 1 → let e := reachEdge (s.gle.initAt + ceilDiv (s.deep.gleanSize * 5) 8) s
    exec .gleanerInitComplete s = .next (e.gle.initTickets.foldl (fun s t => complete t stOk [] s)
      (fire 0x380 0x01 [] (modGle (fun g => { g with state := if g.enable then 2 else 0, initTickets := [] }) e)))) ∧
  (∀ (c : GlCopy) (rest : List GlCopy) (bad : List Nat) (s0 : State), s0.clk.coreStopped = false → let s := reachEdge (c.startedAt + ceilDiv (c.count * 128 * 5) 8) s0
    let h := glHeader s c.first c.count c.startSeq
    let sqs := (List.range c.count).map (fun i => c.first + i)
    let lost := sqs.filter (fun q => bad.contains q || !deepHolds s (slotAddr s q))
    let s1 := lost.foldl (fun s q => modChan (mapAddr s (slotAddr s q)).1 (fun x => { x with copyErrors := wrap32 (x.copyErrors + 1) }) s) s
    s0.gle.copies = c :: rest → exec (.gleanerCopyDone bad) s0 = .next (complete c.ticket stOk h (copyStarts
      (emitOut (.hostWrite c.addr (h ++ sqs.flatMap (fun q => let b := slotAtRing s (q % max 1 (ringRecords s)); if lost.contains q then zeros 16 ++ b.drop 16 else b)))
        (modGle (fun g => { g with copies := rest }) s1))))) ∧
  (∀ (s : State), (s.gle.copies = [] → copyStarts s = s) ∧ (∀ c rest, s.gle.copies = c :: rest → copyStarts s =
    (List.range c.count).foldl (fun s i => putBytes64 5 false (slotAddr s (c.first + i)) 128 s)
      (modGle (fun g => { g with copies := { c with startSeq := s.gle.seq, startedAt := s.clk.edges } :: rest }) s))) ∧
  (∀ (i u : Nat) (s : State), s.clk.coreStopped = false → let x := frame s u
    let mine := fun (e : Entry) => e.uid == u && e.moved == 0 && (match e.mirror with | some (j, _) => j == i | none => false)
    let others := ∃ f ∈ [0, 1], ∃ l ∈ (fur s f).lanes, ∃ y ∈ l.2, y.uid = u ∧ y.mirror = none
    (x.class_ < 5 ∨ others → exec (.mirrorGraceExpiry i u) s = .next s) ∧
    (5 ≤ x.class_ → ¬ others → exec (.mirrorGraceExpiry i u) s = .next ([0, 1].foldl (fun s f =>
      match (fur s f).lanes.findSome? (fun l => (l.2.find? mine).map (fun e => (l.1, e))) with
      | none => s
      | some (key, e) => mirrorDrop i (tryReturn u e.half (modCopy u e.half (fun c => { c with fanout := c.fanout - 1 })
          (setLane f key ((laneOf s f key).filter (fun y => !mine y)) s)))) (reachEdge (x.restGone.getD s.clk.edges + 20 * usE) s))))

/-- GLEANER_SET, GLEANER_TRIGGER, MIRROR_SET, STOOK_SET, COUNTER_SELECT and STOOK_NOW set, accept and answer what they name. Served with legal fields:
GLEANER_SET CONFIGURE with a region is ACCEPTED where ENABLE rises, with an empty ring initialising from SEQUENCE 0, and otherwise OK, a switch off
letting an initialisation run to its end and another MODE than STOP letting a full ring record on; without a region STATE_CONFLICT; STATUS answers the
copy header; COPY is BUSY while initialising, BAD_PARAM at 4 for records that the ring does not hold, else ACCEPTED behind the copies asked for
before. GLEANER_TRIGGER OP 0 answers TRIGGER_SEQ where the trigger is accepted and 0xFF bytes where it is not; OP 1 re-arms a frozen ring and is
STATE_CONFLICT otherwise. MIRROR_SET, which wakes the session's ports, sets, clears (keeping the counts) and reads a session. STOOK_SET puts the
settings and answers the snapshot size and the next tick. COUNTER_SELECT selects events (from the next latch on while the stook runs) and reads
counters, a channel's once its SDRAM clocks have run up to now. STOOK_NOW is STATE_CONFLICT without a host ring, BUSY while a snapshot is written or
pending, and else ACCEPTED for a latch 10 us later. -/
def Obligations.RecordingMirrorAndCounterCommandsAct : Prop :=
  (∀ (p : Packet) (s : State), let r := reached specGleanerSet p s
    let b := p.params
    let g := r.gle
    let tk := ticketFor specGleanerSet (asked specGleanerSet p)
    let g1 := { g with mode := byteAt b 5, flags := byteAt b 6, verdictWait := byteAt b 7, postTime := le b 8 4, handle := le b 12 4, gpioMask := le b 16 4 }
    accepts specGleanerSet p s = true → r.dev.retrain = none → reservedAt b 1 3 = true →
    (byteAt b 0 = 0 → byteAt b 5 ≤ 2 → byteAt b 6 < 4 → 1 ≤ byteAt b 7 → byteAt b 7 ≤ 100 → le b 8 4 ≤ 60000 → le b 12 4 < 2 ^ 20 →
      (bit (byteAt b 6) 1 = true → le b 12 4 ≠ 0) → glRegion r = true →
      (byteAt b 4 = 1 → g.enable = false → exec (.gleanerSet p) s = .next (deferred specGleanerSet p { r with gle := { g1 with
        enable := true, state := 1, seq := 0, tg := 0, trigSeq := 0, trigSrc := 0, freezeCause := 0, freezeSeq := 0, fullReported := false
        recs := [], outq := [], slots := [], initAt := r.clk.edges, initTickets := g.initTickets ++ [tk] } })) ∧
      (byteAt b 4 = 1 → g.enable = true → exec (.gleanerSet p) s = .next (answered specGleanerSet p stOk [] (stopFull { r with gle := { g1 with
        enable := true, state := if g.state = 5 ∧ byteAt b 5 ≠ 1 then 2 else g.state } }))) ∧
      (byteAt b 4 = 0 → exec (.gleanerSet p) s = .next (answered specGleanerSet p stOk [] { r with gle := { g1 with enable := false, state := if g.state = 1 then 1 else 0 } }))) ∧
    (byteAt b 0 = 0 → byteAt b 4 ≤ 1 → byteAt b 5 ≤ 2 → byteAt b 6 < 4 → 1 ≤ byteAt b 7 → byteAt b 7 ≤ 100 → le b 8 4 ≤ 60000 → le b 12 4 < 2 ^ 20 →
      (bit (byteAt b 6) 1 = true → le b 12 4 ≠ 0) → glRegion r = false →
      exec (.gleanerSet p) s = .next (respond (ticketFor specGleanerSet (asked specGleanerSet p)) 0x80 stStateConflict 0x7 [] r)) ∧
    (byteAt b 0 = 1 → exec (.gleanerSet p) s = .next (answered specGleanerSet p stOk (glHeader r 0 0 g.seq) r)) ∧
    (byteAt b 0 = 2 → reservedAt b 10 2 = true → 1 ≤ le b 12 4 → le b 12 4 ≤ 67108864 → le b 16 8 % 64 = 0 →
      let put := modGle (fun g => { g with
        copies := g.copies ++ [{ first := le b 4 6, count := le b 12 4, addr := le b 16 8, startSeq := g.seq, startedAt := r.clk.edges, ticket := tk }] }) r
      (g.state = 1 → exec (.gleanerSet p) s = .next (answered specGleanerSet p stBusy [] r)) ∧
      (g.state ≠ 1 → g.seq ≤ le b 4 6 + ringRecords r → le b 4 6 + le b 12 4 ≤ g.seq →
        exec (.gleanerSet p) s = .next (deferred specGleanerSet p (if g.copies = [] then copyStarts put else put))) ∧
      (g.state ≠ 1 → (le b 4 6 + ringRecords r < g.seq ∨ g.seq < le b 4 6 + le b 12 4) →
        exec (.gleanerSet p) s = .next (respond (ticketFor specGleanerSet (asked specGleanerSet p)) 0x80 stBadParam 4 [] r)))) ∧
  (∀ (p : Packet) (s : State), let r := reached specGleanerTrigger p s
    let b := p.params
    let t := le b 4 8
    let x := glTrigger 0x03 (if t = 0 then nowNs r else nsOfT64 t) true r
    accepts specGleanerTrigger p s = true → reservedAt b 1 3 = true →
    (byteAt b 0 = 0 → t64Ok t = true → nsOfT64 t ≤ nowNs r →
      (x.1 = true → exec (.gleanerTrigger p) s = .next (answered specGleanerTrigger p stOk (toLE 6 x.2.gle.trigSeq ++ zeros 2) x.2)) ∧
      (x.1 = false → exec (.gleanerTrigger p) s = .next (answered specGleanerTrigger p stOk (List.replicate 6 0xFF ++ zeros 2) x.2))) ∧
    (byteAt b 0 = 1 → r.gle.state = 4 → exec (.gleanerTrigger p) s = .next (answered specGleanerTrigger p stOk []
      (stopFull (modGle (fun g => { g with state := 2, freezeCause := 0, trigSrc := 0, tg := 0, trigSeq := 0 }) r)))) ∧
    (byteAt b 0 = 1 → r.gle.state ≠ 4 → exec (.gleanerTrigger p) s =
      .next (respond (ticketFor specGleanerTrigger (asked specGleanerTrigger p)) 0x80 stStateConflict 0x6 [] r))) ∧
  (∀ (p : Packet) (s : State), let r := reached specMirrorSet p s
    let b := p.params
    let i := byteAt b 0
    let a := byteAt b 2
    let tr := le b 6 2
    let m := mirrorCfg r i
    let v := touchPorts (if m.set then m.port :: maskPorts (m.inMask ||| m.egMask) else []) r
    accepts specMirrorSet p s = true → i < 4 →
    (byteAt b 1 = 0 → portExists r a = true → bit (le b 8 8) a = false → bit (le b 16 8) a = false → byteAt b 3 < 4 → reservedAt b 5 1 = true →
      (tr = 0 ∨ (64 ≤ tr ∧ tr ≤ 9216)) → maskOk r (le b 8 8) = true → maskOk r (le b 16 8) = true →
      exec (.mirrorSet p) s = .next (answered specMirrorSet p stOk [] (touchPorts (a :: maskPorts (le b 8 8 ||| le b 16 8)) (modMirror i (fun m => { m with
        set := true, port := a, flags := byteAt b 3, classMask := byteAt b 4, truncate := tr, inMask := le b 8 8, egMask := le b 16 8 }) v)))) ∧
    (byteAt b 1 = 1 → byteAt b 3 < 4 → reservedAt b 5 1 = true → exec (.mirrorSet p) s = .next (answered specMirrorSet p stOk [] (modMirror i (fun m => { copies := m.copies, drops := m.drops }) v))) ∧
    (byteAt b 1 = 2 → byteAt b 3 < 4 → reservedAt b 5 1 = true → exec (.mirrorSet p) s = .next (answered specMirrorSet p stOk (toLE 1 i ++ zeros 1 ++ toLE 1 m.port ++ toLE 1 m.flags ++ toLE 1 m.classMask ++
      zeros 1 ++ toLE 2 m.truncate ++ toLE 8 m.inMask ++ toLE 8 m.egMask ++ toLE 4 m.copies ++ toLE 4 m.drops) v))) ∧
  (∀ (p : Packet) (s : State), let r := reached specStookSet p s
    let b := p.params
    let f := byteAt b 13
    let size := stookSize (bit f 1) (bit f 2)
    let per := le b 16 4
    let k := r.stook
    let t := nextMult (per * 1000000) (nowNs r)
    let s1 := modStook (fun x => { x with
      enable := bit f 0, samples := bit f 1, meters := bit f 2, base := le b 0 8, slotBytes := le b 8 4, nSlots := byteAt b 12, period := per
      nextTick := if bit f 0 then some t else none, latchUs := if bit f 0 && !x.enable then none else x.latchUs }) r
    let other := ¬ (le b 0 8 = k.base ∧ le b 8 4 = k.slotBytes ∧ byteAt b 12 = k.nSlots)
    accepts specStookSet p s = true → le b 0 8 % 64 = 0 → le b 8 4 % 64 = 0 → size ≤ le b 8 4 → 2 ≤ byteAt b 12 → byteAt b 12 ≤ 64 → f < 8 → reservedAt b 14 2 = true →
    per ∈ stookPeriods → (bit f 2 = true → 100 ≤ per) → reservedAt b 20 4 = true →
    (k.writing.isSome = true → other → exec (.stookSet p) s = .next (answered specStookSet p stBusy [] r)) ∧
    (k.writing = none ∨ ¬ other →
      (bit f 0 = true → exec (.stookSet p) s = .next (answered specStookSet p stOk (toLE 4 size ++ zeros 4 ++ toLE 8 (t64OfNs t)) s1)) ∧
      (bit f 0 = false → exec (.stookSet p) s = .next (answered specStookSet p stOk (toLE 4 size ++ zeros 4 ++ toLE 8 0) (perfApply s1))))) ∧
  (∀ (p : Packet) (s : State), let r := reached specCounterSelect p s
    let b := p.params
    let blk := byteAt b 0
    let first := byteAt b 1
    let n := byteAt b 2
    let at_ := (perfBlock blk).1
    let v := if blk < 3 then r else syncDram (blk - 3) r
    accepts specCounterSelect p s = true → blk < 5 → first < (perfBlock blk).2 → first + n ≤ (perfBlock blk).2 → reservedAt b 4 4 = true →
    (byteAt b 3 = 0 → (∀ i, i < n → perfOk blk (le b (8 + 2 * i) 2) = true) → reservedAt b (8 + 2 * n) 2 = true →
      exec (.counterSelect p) s = .next (answered specCounterSelect p stOk [] ((List.range n).foldl (fun s i =>
        if s.stook.enable then { s with perf := tmod {} s.perf (at_ + first + i) (fun x => { x with pend := some (le b (8 + 2 * i) 2) }) }
        else perfTake (at_ + first + i) (le b (8 + 2 * i) 2) s) v))) ∧
    (byteAt b 3 = 1 → exec (.counterSelect p) s =
      .next (answered specCounterSelect p stOk (perfBytes (at_ + first) n v) v))) ∧
  (∀ (p : Packet) (s : State), let r := reached specStookNow p s
    accepts specStookNow p s = true →
    (r.stook.nSlots = 0 → exec (.stookNow p) s = .next (respond (ticketFor specStookNow (asked specStookNow p)) 0x80 stStateConflict 0xF [] r)) ∧
    (r.stook.nSlots ≠ 0 → r.stook.writing.isSome = true ∨ r.stook.manual.isSome = true → exec (.stookNow p) s = .next (answered specStookNow p stBusy [] r)) ∧
    (r.stook.nSlots ≠ 0 → r.stook.writing = none → r.stook.manual = none →
      exec (.stookNow p) s = .next (deferred specStookNow p (modStook (fun x => { x with
        manual := some (nowNs r + 10000, ticketFor specStookNow (asked specStookNow p)) }) r))))

/-- A stook tick latches or is skipped, and a snapshot written whole advances the generation. STOOK_TICK with the stook off and none pending does
nothing; a periodic tick that is due latches every counter for a snapshot of its tick time, or is skipped, counted with its event, while a snapshot is
written or the link is down; STOOK_NOW's tick completes BUSY or HW_FAULT instead of being skipped silently. STOOK_SNAPSHOT_WRITTEN of a good DMA
writes the slot in R450's order (the invalid GENERATION, the body, the header, the CRC), makes the generation the last one written, fires the event
and completes a manual one OK; of a failed one what its latch cleared is
put back, the tick is skipped and a manual one completes HW_FAULT. -/
def Obligations.StookTicksLatchAndSnapshotsAreWritten : Prop :=
  (∀ (s : State), s.clk.coreStopped = false → s.stook.enable = false → s.stook.manual = none → exec .stookTick s = .next s) ∧
  (∀ (n : Nat) (s0 : State), s0.clk.coreStopped = false → let per := s0.stook.period * 1000000
    let due := min n (nextMult per (nowNs s0))
    let t := if due + per ≤ nowNs s0 then nowNs s0 / per * per else due
    let s := reachNs t (modStook (fun x => { x with nextTick := some (t + per), skipped := satAdd 0xFFFF x.skipped ((t - due) / per) }) s0)
    s0.stook.enable = true → s0.stook.nextTick = some n → s0.stook.manual = none →
    (s.stook.writing.isSome = true → exec .stookTick s0 = .next (stookSkip 1 s)) ∧
    (s.stook.writing = none → s.pcie.up = false → exec .stookTick s0 = .next (stookSkip 2 s)) ∧
    (s.stook.writing = none → s.pcie.up = true → exec .stookTick s0 = .next (stookLatch t none s))) ∧
  (∀ (t : Nat) (k : Ticket) (s0 : State), s0.clk.coreStopped = false → let s := modStook (fun x => { x with manual := none }) (reachNs t s0)
    s0.stook.enable = false → s0.stook.manual = some (t, k) →
    (s.stook.writing.isSome = true → exec .stookTick s0 = .next (complete k stBusy [] (stookSkip 1 s))) ∧
    (s.stook.writing = none → s.pcie.up = false → exec .stookTick s0 = .next (complete k stHwFault [] (stookSkip 2 s))) ∧
    (s.stook.writing = none → s.pcie.up = true → exec .stookTick s0 = .next (stookLatch t (some k) s))) ∧
  (∀ (w : Snapshot) (s : State), s.clk.coreStopped = false → let g := s.stook.generation
    let slot := g % max 1 s.stook.nSlots
    let a := s.stook.base + slot * s.stook.slotBytes
    let s1 := modStook (fun x => { x with writing := none }) s
    let s2 := emitOut (.hostWrite (a + 60) (toLE 4 (crc32 (w.header ++ w.body)))) (emitOut (.hostWrite a w.header)
      (emitOut (.hostWrite (a + 64) w.body) (emitOut (.hostWrite (a + 4) (toLE 4 0xFFFFFFFF)) s1)))
    let s3 := fire 0x390 0 (toLE 4 g ++ toLE 1 slot) (modStook (fun x => { x with lastGen := g, lastSlot := slot }) s2)
    s.stook.writing = some w →
    (s.pcie.up = true → w.ticket = none → exec (.stookSnapshotWritten true) s = .next s3) ∧
    (∀ k, s.pcie.up = true → w.ticket = some k → exec (.stookSnapshotWritten true) s = .next (complete k stOk (toLE 4 g ++ toLE 8 (t64OfNs w.t)) s3)) ∧
    (w.ticket = none → exec (.stookSnapshotWritten false) s = .next (stookSkip 2 (stookUndo w s1))) ∧
    (∀ k, w.ticket = some k → exec (.stookSnapshotWritten false) s = .next (complete k stHwFault [] (stookSkip 2 (stookUndo w s1)))))

/-- A deep store read whose ABP does not match its address is a fault that delivers nothing, and refresh, patrol and training run as R464 to R480 give
them. The check word of a half is CHECK in bits 19:0, ABP in 27:20 and POISON in 28, one byte of it on the check lanes with each 8 data bytes; ABP is
the CRC-8 with polynomial 0x07 and initial value 0xFF over the little-endian address word (half address bits 28:0, channel in bit 31) and the poison
byte. A read whose ABP differs counts an address fault, fires both events and gives no data; 64 within a second fail the channel. A poisoned half is
counted and gives no data, one wrong bit is corrected, more give no data; a half as it was written is good, and poisoned where it was written so.
PATROL_READ and DEEP_STORE_READ_DONE of a channel that serves apply this check; of one that does not, they change nothing. A half of a refill that is
good is taken off those awaited, the last one completes the refill, and a bad one drops the frame; a restart copy's failed read loses its record.
PATROL_READ reads the two halves of the next burst, writes a corrected one back where no client wrote it since the read was due, and moves on,
counting a pass at the end. REFRESH_DUE, one interval after the last, may postpone up to 8 refreshes while requests wait for the rank, and else makes
them due, the postponed ones with none waiting; a due refresh goes first among the commands and closes the rank's rows, then goes the column command
that the queues pick. SELF_REFRESH_ENTRY enters self-refresh where no request waits, DISTURB_WINDOW_CLEAR begins the next window without samples and
throttles, SPILL_DRAIN_TIMEOUT drops the frames of the records still held, and REGION_INIT_DONE enables the regions, empty, and completes its command.
-/
def Obligations.DeepStoreReadsAreCheckedAgainstTheirAddress : Prop :=
  (∀ (c half : Nat) (poison : Bool), abpOf c half poison = crcL 8 0x07 0xFF (toLE 4 (half % 2 ^ 29 + (c % 2) * 2 ^ 31) ++ toLE 1 (b2n poison)) ∧ abpOf c half poison < 256) ∧
  (∀ (c half data : Nat) (poison : Bool) (b : List Byte), let w := checkLanes c half poison b
    w % 2 ^ 20 = Config.sheafCheck b % 2 ^ 20 ∧ w / 2 ^ 20 % 256 = abpOf c half poison ∧ bit w 28 = poison ∧
    ∀ i, i < 4 → halfBeat data w i = (bits data (64 * i + 63) (64 * i), bits w (8 * i + 7) (8 * i))) ∧
  (∀ (client c half w bch : Nat) (s : State), c < 2 →
    let bad := fireMs 0 (0x398 + c) 0 (toLE 1 client ++ toLE 4 (halfWord c half))
    let recent := (chan s c).recentFaults.filter (fun e => decide (s.clk.edges < e + secE))
    let fault := bad (fireMs 0 (0x39A + c) 0 (toLE 4 (halfWord c half)) (memUnc (35 + c) (modChan c (fun x => { x with
      faults := wrap32 (x.faults + 1), recentFaults := recent ++ [s.clk.edges] }) s)))
    (w / 2 ^ 20 % 256 = abpOf c half (bit w 28) →
      (bit w 28 = true → checkRead client c half w bch s = (false, modChan c (fun x => { x with poisonReads := wrap32 (x.poisonReads + 1) }) s)) ∧
      (bit w 28 = false → bch = 0 → checkRead client c half w bch s = (true, s)) ∧
      (bit w 28 = false → bch = 1 → checkRead client c half w bch s = (true, memCorr (35 + c) s)) ∧
      (bit w 28 = false → 2 ≤ bch → checkRead client c half w bch s = (false, bad (memUnc (35 + c) s)))) ∧
    (w / 2 ^ 20 % 256 ≠ abpOf c half (bit w 28) →
      (63 ≤ recent.length → checkRead client c half w bch s = (false, chanFail c 3 fault)) ∧
      (recent.length < 63 → checkRead client c half w bch s = (false, fault)))) ∧
  (∀ (client c half abp bch : Nat) (poison : Bool) (s : State),
    readCheck client c half abp poison bch s = checkRead client c half (halfLanes s c half ^^^ (abp % 256 * 2 ^ 20 + b2n poison * 2 ^ 28)) bch s) ∧
  (∀ (client c half : Nat) (poison : Bool) (b : List Byte) (s : State),
    (tget? s.deep.lanes (unmapAddr s c (32 * half) / 32) = none → readCheck client c half 0 false 0 s = (true, s)) ∧
    (tget? s.deep.lanes (unmapAddr s c (32 * half) / 32) = some (checkLanes c half poison b) → (readCheck client c half 0 false 0 s).1 = !poison)) ∧
  (∀ (client ch half abp : Nat) (poison : Bool) (bch uid handle : Nat) (s : State), s.clk.coreStopped = false → let c := ch % 2
    let x := readCheck client c half abp poison bch (chanTouch c (syncDram c s))
    (chanReady (chan s c) = false → exec (.deepStoreReadDone client ch half abp poison bch uid handle) s = .next s) ∧
    (chanReady (chan s c) = true →
      (client = 3 → exec (.deepStoreReadDone client ch half abp poison bch uid handle) s =
        .next (refillHalfDone uid c (unmapAddr s c (32 * half) / 32) x.1 x.2)) ∧
      (client ≠ 3 → client ≠ 5 ∨ x.1 = true ∨ x.2.hl.restart = none → exec (.deepStoreReadDone client ch half abp poison bch uid handle) s = .next x.2) ∧
      (∀ r, client = 5 → x.1 = false → x.2.hl.restart = some r →
        (r.copiedAt.isSome = true → exec (.deepStoreReadDone client ch half abp poison bch uid handle) s =
          .next (modFur r.furrow (fun y => { y with deepRecs := tdel y.deepRecs handle }) x.2)) ∧
        (r.copiedAt = none → exec (.deepStoreReadDone client ch half abp poison bch uid handle) s =
          .next (modHl (fun h => { h with restart := some { r with badRecs := handle :: r.badRecs } }) x.2))))) ∧
  (∀ (u c k i : Nat) (r : SpillRec) (s : State), spillRecOf s u = some (i, r) → r.state = 2 → k ∈ r.reads →
    (refillHalfDone u c k false s = dropSpilled u (modChan c (fun x => { x with refillDrops := wrap32 (x.refillDrops + 1) }) s)) ∧
    ((∃ j ∈ r.reads, j ≠ k) → refillHalfDone u c k true s =
      modDeep (fun d => { d with recs := tput d.recs i { r with reads := r.reads.filter (· != k) } }) s) ∧
    ((∀ j ∈ r.reads, j = k) → refillHalfDone u c k true s = refillDone u r s)) ∧
  (∀ (ch abp0 bch0 abp1 bch1 poison : Nat) (s0 : State), s0.clk.coreStopped = false → let c := ch % 2
    let half := (chan s0 c).patrolPos
    let own := (chan s0 c).patrolOwn
    let due := (chan s0 c).patrolAt + (chan s0 c).patrolHours * 3600 * secE / max 1 (chanSize (chan s0 c) / 64)
    let x0 := readCheck 6 c half abp0 (bit poison 0) bch0 (putReq 6 false c (half / 2) 3 (reachEdge due s0))
    let x1 := readCheck 6 c (half + 1) abp1 (bit poison 1) bch1 x0.2
    let n := (half + 2) % max 1 (chanSize (chan s0 c) / 32)
    let lower := x0.1 = true ∧ bch0 = 1 ∧ bit own 0 = false
    let upper := x1.1 = true ∧ bch1 = 1 ∧ bit own 1 = false
    let next := fun (t : State) => exec (.patrolRead ch abp0 bch0 abp1 bch1 poison) s0 = .next (modChan c (fun x => { x with
      patrolAt := due, patrolPos := n, patrolOwn := 0, passes := if n = 0 then wrap32 (x.passes + 1) else x.passes }) t)
    (chanReady (chan s0 c) = false ∨ deepTraining s0 = true → exec (.patrolRead ch abp0 bch0 abp1 bch1 poison) s0 = .next s0) ∧
    (chanReady (chan s0 c) = true → deepTraining s0 = false →
      (¬lower → ¬upper → next x1.2) ∧
      (lower → ¬upper → next (putReq 6 true c (half / 2) 1 x1.2)) ∧
      (¬lower → upper → next (putReq 6 true c (half / 2) 2 x1.2)) ∧
      (lower → upper → next (putReq 6 true c (half / 2) 3 x1.2)))) ∧
  (∀ (c burst mask client : Nat) (s : State), client ≠ 6 → let v := chanTouch c (syncDram c s)
    burst = (chan v c).patrolPos / 2 → (chan v c).patrolAt + (chan v c).patrolHours * 3600 * secE / max 1 (chanSize (chan v c) / 64) ≤ v.clk.edges → c < 2 →
    (chan (putReq client true c burst mask s) c).patrolOwn = (chan v c).patrolOwn ||| mask) ∧
  (∀ (ch rank : Nat) (s0 : State), s0.clk.coreStopped = false → let c := ch % 2
    let at_ := tget 0 (chan s0 c).refreshedAt rank + (if bit (chan s0 c).flags 0 then 4875 else 9750)
    let s := modChan c (fun x => { x with refreshedAt := tset 0 x.refreshedAt rank at_ }) (syncDram c (reachEdge at_ s0))
    let n := tget 0 (chan s c).postponed rank
    ((chan s0 c).state ≠ 3 ∨ (chan s0 c).ranks ≤ rank → ∀ late, exec (.refreshDue ch rank late) s0 = .next s0) ∧
    ((chan s0 c).state = 3 → rank < (chan s0 c).ranks →
      (rankWaits (chan s c) rank = true → n < 8 →
        exec (.refreshDue ch rank true) s0 = .next (modChan c (fun x => { x with postponed := tset 0 x.postponed rank (n + 1) }) s)) ∧
      (rankWaits (chan s c) rank = true → ∀ late, late = false ∨ 8 ≤ n →
        exec (.refreshDue ch rank late) s0 = .next (modChan c (fun x => { x with due := tset 0 x.due rank (tget 0 x.due rank + 1) }) s)) ∧
      (rankWaits (chan s c) rank = false → ∀ late, exec (.refreshDue ch rank late) s0 = .next (modChan c (fun x => { x with
        due := tset 0 x.due rank (tget 0 x.due rank + 1 + n), postponed := tset 0 x.postponed rank 0 }) s)))) ∧
  (∀ (c : Nat) (s : State), dramCommand c s = (match dueRefresh (chan s c), columnPick (chan s c) with
    | some r, _ => modChan c (fun x => { refreshRank r x with due := tset 0 x.due r (tget 0 x.due r - 1) }) s
    | none, some (k, q) => modSched c (fun y => issued (if q.write then 3 else 2) k
        (modDramBank k (fun b => { b with queue := b.queue.filter (fun z => z.seq != q.seq), hits := b.hits + 1 })
          (if q.write then { y with writes := y.writes + 1, written := y.written + 1 } else { y with reads := y.reads + 1 }))) s
    | none, none => dramCommand c s)) ∧
  (∀ (rank : Nat) (x : Chan), (refreshRank rank x).refreshes = x.refreshes + 1 ∧
    (∀ e ∈ (refreshRank rank x).sched.banks, e.1 / 16 = rank → e.2.row = none ∧ e.2.hits = 0)) ∧
  (∀ (ch : Nat) (s0 : State), s0.clk.coreStopped = false → let c := ch % 2
    let s := syncDram c s0
    let x := chan s c
    let due := (chan s0 c).windowAt + (if bit (chan s0 c).flags 0 then 32 else 64) * msE
    (x.state = 3 → bit x.flags 2 = true → allWaits x.sched = [] → exec (.selfRefreshEntry ch) s0 =
      .next (modChan c (fun x => { x with state := 4, due := [], postponed := [], sched := { x.sched with banks := [] } })
        (reachEdge (x.lastRequest + x.srIdle * usE) s))) ∧
    (x.state ≠ 3 ∨ bit x.flags 2 = false ∨ allWaits x.sched ≠ [] → exec (.selfRefreshEntry ch) s0 = .next s) ∧
    exec (.disturbWindowClear ch) s0 = .next (modChan c (fun x => { x with samples := [], throttled := [], windowAt := due }) (syncDram c (reachEdge due s0)))) ∧
  (∀ (t : Training) (s0 : State), s0.clk.coreStopped = false → s0.deep.training = some t →
    (t.stage = 1 → let s := reachEdge (t.startedAt + secE) s0
      exec .spillDrainTimeout s0 = .next (trainGo (s.deep.recs.foldl (fun s e =>
        if e.2.state = 3 then s else dropSpilled e.2.uid (spillFull e.2.half s)) s))) ∧
    (t.stage ≠ 1 → exec .spillDrainTimeout s0 = .next s0)) ∧
  (∀ (start bytes en : Nat) (t : Ticket) (s0 : State), s0.clk.coreStopped = false → let s := reachEdge (start + ceilDiv (bytes * 5) 8) s0
    let s1 := modDeep (fun d => { d with init := none, enables := en, recs := [], rings := [], lanes := d.lanes.filter (fun e => !inRegions d en e.1) }) s
    let s2 := if bit en 1 then modFur 1 (fun x => { x with deepRecs := [] }) (modFur 0 (fun x => { x with deepRecs := [] }) s1) else s1
    let s3 := if bit en 2 then modGle (fun g => { g with slots := [] }) s2 else s2
    s0.deep.init = some (start, bytes, en, t) → exec .regionInitDone s0 = .next (complete t stOk [] s3))

/-- A spilling copy goes to its ring and comes back, and the commands of the deep store set, train, map and answer it. SPILL_WRITE of a complete
spilling copy whose place lies on channels that serve writes its halves with their check words, poisoned where the cell could not be read, counts it
and returns its cells, and frees the record where its lane entry has gone; on a channel that does not serve it drops the frame. A write of one half
puts its check word and its request. REFILL_REQUEST of a furrow that is not isolated tries the first stored entry near the head of its lane, and
REFILL_RETRY the oldest refill that waits for cells. DRAM_TRAINING_DONE of a training past its drain ends it. Served with legal fields: DRAM_CONFIGURE
puts the channel's description (BUSY while it trains) and retains it where asked; DRAM_TRAIN is BUSY during a training, STATE_CONFLICT for an absent
channel, else ACCEPTED; DRAM_MAP_SET maps the trained channels and answers the address space; DEEP_STORE_SET is BUSY during an initialisation,
STATE_CONFLICT without a map, else ACCEPTED; DRAM_STATUS answers state, errors and counts. -/
def Obligations.SpillsRefillAndDramCommandsAct : Prop :=
  (∀ (u : Nat) (bad : List Nat) (i : Nat) (q : SpillRec) (c : Copy) (s : State), s.clk.coreStopped = false → let x := frame s u
    let h := relHalf s x
    let q1 := { q with cells := c.cells.length, state := 1 }
    let s0 := bad.foldl (fun s _ => memUnc h s) s
    spillRecOf s u = some (i, q) → copyOf x h = some c → x.spilled = true → x.spillDone = false → c.complete = true →
    ((spillAddrs s q1).all (deepUp s) = false → exec (.spillWrite u bad) s = .next (dropSpilled u (spillFull h s0))) ∧
    ((spillAddrs s q1).all (deepUp s) = true →
      let s1 := (List.range q1.cells).foldl (fun s j => writeHalves 2 ((spillAddrs s q1).getD j 0) (slice (copyImage x) (256 * j) 256)
        ((List.range 8).filter (fun k => bad.contains (8 * j + k))) s) s0
      let s2 := tryReturn u h (modFrame u (fun x => { x with spillDone := true })
        (gctr 14 h (modQueue x.queue (fun q => { q with spilled := q.spilled + 1 }) (modDeep (fun d => { d with recs := tput d.recs i q1 }) s1))))
      (q.gone = false → exec (.spillWrite u bad) s = .next s2) ∧ (q.gone = true → exec (.spillWrite u bad) s = .next (freeSpill u s2)))) ∧
  (∀ (client a : Nat) (b : List Byte) (bad : List Nat) (s : State), b.length = 32 → let p := mapAddr s a
    writeHalves client a b bad s = putBytes64 client true a 32
      (modDeep (fun d => { d with lanes := tput d.lanes (a / 32) (checkLanes p.1 (p.2 / 32) (bad.contains 0) b) }) s)) ∧
  (∀ (fu : Furrow) (inp out k : Nat) (s : State), s.clk.coreStopped = false → let due := refillDue s (furNo fu) (laneKey inp out k)
    ((isolated s (furNo fu) = true ∨ due = none) → exec (.refillRequest fu inp out k) s = .next s) ∧
    (∀ u i q, isolated s (furNo fu) = false → due = some u → spillRecOf s u = some (i, q) → exec (.refillRequest fu inp out k) s = .next (tryRefill u i q s))) ∧
  (∀ (s : State), s.clk.coreStopped = false → let waits := s.deep.recs.find? (fun e => e.2.state == 2 && (frame s e.2.uid).asks.isNone && refillWaits s e.2.uid 0 && refillWaits s e.2.uid 1)
    (waits = none → exec .refillRetry s = .next s) ∧
    (∀ i q, waits = some (i, q) → exec .refillRetry s = .next (tryRefill q.uid i q (advance usE s)))) ∧
  (∀ (t : Training) (ok0 ok1 : Bool) (m0 m1 : Nat) (s : State), s.deep.training = some t → t.ticket = none →
    (t.stage ≠ 1 → (trainingDone ok0 ok1 m0 m1 s) = modDeep (fun d => { d with training := none }) (trainChan 1 ok1 m1 (trainChan 0 ok0 m0 s))) ∧
    (t.stage = 1 → trainingDone ok0 ok1 m0 m1 s = s)) ∧
  (∀ (t : Training) (ok0 ok1 : Bool) (m0 m1 : Nat) (s : State), s.clk.coreStopped = false → s.deep.training = some t → let s1 := trainingDone ok0 ok1 m0 m1 s
    (t.stage ≠ 1 → exec (.dramTrainingDone ok0 ok1 m0 m1) s = .next (if s1.dev.relStep = 7 then finishRelease s1 else finishRetrain s1)) ∧
    (t.stage = 1 → exec (.dramTrainingDone ok0 ok1 m0 m1) s = .next s)) ∧
  (∀ (p : Packet) (s : State), let r := reached specDramConfigure p s
    let b := p.params
    let c := byteAt b 0
    let s1 := dramSet c b r
    let s2 := retWrite (0x840 + 64 * c) (slice (Config.dramDescription b) 0 64) s1
    accepts specDramConfigure p s = true → r.dev.retrain = none → (∀ e ∈ dramChecks b, e.1 = true) →
    ((chan r c).state = 2 → exec (.dramConfigure p) s = .next (answered specDramConfigure p stBusy [] r)) ∧
    ((chan r c).state ≠ 2 → bit (byteAt b 5) 1 = false → exec (.dramConfigure p) s = .next (answered specDramConfigure p stOk [] s1)) ∧
    ((chan r c).state ≠ 2 → bit (byteAt b 5) 1 = true →
      exec (.dramConfigure p) s = .next (answered specDramConfigure p stOk [] { s2 with ret := { s2.ret with descs := tput s1.ret.descs c b } }))) ∧
  (∀ (p : Packet) (s : State), let r := reached specDramTrain p s
    let m := byteAt p.params 0
    let absent := (bitList 2 m).any (fun c => (chan r c).state == 0)
    accepts specDramTrain p s = true → r.dev.retrain = none → m < 4 → reservedAt p.params 1 3 = true →
    (r.deep.training.isSome = true → exec (.dramTrain p) s = .next (answered specDramTrain p stBusy [] r)) ∧
    (r.deep.training = none → absent = true → exec (.dramTrain p) s =
      .next (respond (ticketFor specDramTrain (asked specDramTrain p)) 0x80 stStateConflict 0x5 [] r)) ∧
    (r.deep.training = none → absent = false → exec (.dramTrain p) s =
      .next (deferred specDramTrain p (startTraining m (some (ticketFor specDramTrain (asked specDramTrain p))) r)))) ∧
  (∀ (p : Packet) (s : State), let r := reached specDramMapSet p s
    let b := p.params
    let st := fun c => (chan r c).state
    let on := fun (x : Chan) => { x with mapped := chanReady x }
    accepts specDramMapSet p s = true → r.dev.retrain = none → 8 ≤ byteAt b 0 → byteAt b 0 ≤ 16 → reservedAt b 1 3 = true →
    let m0 := chanSize r.deep.ch0
    let m1 := chanSize r.deep.ch1
    (st 0 = 0 → st 1 = 0 → exec (.dramMapSet p) s = .next (respond (ticketFor specDramMapSet (asked specDramMapSet p)) 0x80 stStateConflict 0x1 [] r)) ∧
    (chanReady (chan r 0) = true → chanReady (chan r 1) = true → exec (.dramMapSet p) s = .next (answered specDramMapSet p stOk
      (toLE 8 (m0 + m1) ++ toLE 8 (2 * min m0 m1))
      (modDeep (fun d => { d with grain := some (byteAt b 0), map0 := m0, map1 := m1, enables := 0, ch0 := on d.ch0, ch1 := on d.ch1
                                  init := d.init.map (fun y => (y.1, y.2.1, 0, y.2.2.2)) }) r)))) ∧
  (∀ (p : Packet) (s : State), let r := reached specDeepStoreSet p s
    let b := p.params
    let size := le b 16 8
    let base := le b 8 8
    accepts specDeepStoreSet p s = true → r.dev.retrain = none → byteAt b 0 = 0 → reservedAt b 1 3 = true → reservedAt b 5 3 = true → byteAt b 4 = 4 →
    base % 2 ^ 20 = 0 → (r.deep.grain.isSome = true → base + size ≤ deepSize r) → (∃ k, 13 ≤ k ∧ k ≤ 26 ∧ size = 128 * 2 ^ k) →
    (r.deep.init.isSome = true → exec (.deepStoreSet p) s = .next (answered specDeepStoreSet p stBusy [] r)) ∧
    (r.deep.init = none → r.deep.grain = none → exec (.deepStoreSet p) s =
      .next (respond (ticketFor specDeepStoreSet (asked specDeepStoreSet p)) 0x80 stStateConflict 0x1 [] r)) ∧
    (r.deep.init = none → r.deep.grain.isSome = true → exec (.deepStoreSet p) s = .next (deferred specDeepStoreSet p (modDeep (fun d => { d with
      enables := 0, gleanBase := base, gleanSize := size, init := some (r.clk.edges, size, 4, ticketFor specDeepStoreSet (asked specDeepStoreSet p)) }) r)))) ∧
  (∀ (p : Packet) (s : State), let r := reached specDramStatus p s
    let c := byteAt p.params 0
    let u := syncDram c r
    let x := chan u c
    accepts specDramStatus p s = true → r.dev.retrain = none → c < 2 → reservedAt p.params 1 3 = true →
    exec (.dramStatus p) s = .next (answered specDramStatus p stOk (toLE 1 x.state ++ toLE 1 x.cause ++ toLE 2 x.margin ++ toLE 8 (chanSize x) ++
      toLE 4 (tget 0 r.memErr (2 * (35 + c))) ++ toLE 4 (tget 0 r.memErr (2 * (35 + c) + 1)) ++ toLE 4 x.faults ++ toLE 4 x.poisonReads ++
      toLE 4 x.refillDrops ++ toLE 4 x.copyErrors ++ toLE 4 x.throttles ++ toLE 4 x.passes ++ toLE 2 r.deep.recs.length ++ zeros 2) u))

/-- Option rows are read and burnt and retained memory is read and written as R518 to R527 give it; a write changes only its own bytes. OPTION_READ
answers the 96 bytes of R520 without effect. OPTION_BURN is BUSY during a burn, OPTION_SPENT once generation 8 is used, STATE_CONFLICT for another
generation than the next one, and else ACCEPTED: the burn record and the row with its CRC are fixed and the event fires. OPTION_BURN_DONE burns the
copies (never clearing a bit), clears FAILED_LOADS and completes OK where the generation is VALID, and HW_FAULT otherwise. RETAINED_READ answers bytes
of the retained memory whose sheaves are good, of the backup registers, or the status. RETAINED_WRITE writes host bytes, backup registers or clears
FAILED_LOADS, and a retained write leaves every byte outside its range as it was. LAST_TRACEABLE_TIME_WRITE updates the header a second after the last,
while the time is traceable. -/
def Obligations.OptionRowsAndRetainedMemoryAreReadBurntAndWritten : Prop :=
  (∀ (p : Packet) (s : State), let r := reached specOptionRead p s
    let b := p.params
    let g := if byteAt b 0 = 0 then r.opt.use else byteAt b 0
    let x := gen r g
    accepts specOptionRead p s = true → byteAt b 0 ≤ 8 → reservedAt b 1 3 = true →
    exec (.optionRead p) s = .next (answered specOptionRead p stOk (toLE 1 g ++ toLE 1 (if g = 0 then 0 else statusOf r g) ++ toLE 2 (statusMapOf r) ++ toLE 1 r.opt.use ++
      toLE 1 (b2n r.opt.fallback + 2 * b2n (r.opt.use == 0) + 4 * b2n r.opt.debugLock + 8 * b2n r.opt.trimFault + 16 * b2n r.opt.forced) ++
      toLE 1 (nextGen r) ++ toLE 1 (if g = 0 then 0 else copyDiff x) ++ toLE 16 (if g = 0 then 0 else votedRec x) ++
      toLE 64 (if g = 0 then factoryRow r.opt.trimIds else votedRow x) ++ zeros 8) r)) ∧
  (∀ (p : Packet) (s : State), let r := reached specOptionBurn p s
    let b := p.params
    let v := leNat (b.drop 4)
    let g := byteAt b 0
    let r0 := g * 2 ^ 104 + nowT64 r * 2 ^ 40 + (session r (p.session % 4)).identity * 2 ^ 8 + b2n (untraceable r)
    accepts specOptionBurn p s = true → 1 ≤ g → g ≤ 8 → reservedAt b 1 3 = true → bits v 21 0 = 0 → bits v 511 496 = 0 → bits v 39 38 ≠ 3 →
    (bits v 35 34 = 1 ∨ bits v 35 34 = 2) → bits v 33 32 < 2 → (bits v 39 38 = 2 → bits v 47 40 ≠ 0) → bits v 495 240 ≠ 0 → bits v 239 112 ≠ 0 →
    (bits v 63 48 = 0 ∨ (13 ≤ bits v 63 48 ∧ bits v 63 48 ≤ 255)) →
    (r.nv.burn.isSome = true → exec (.optionBurn p) s = .next (answered specOptionBurn p stBusy [] r)) ∧
    (r.nv.burn = none → statusOf r 8 ≠ 0 → exec (.optionBurn p) s = .next (answered specOptionBurn p stOptionSpent [] r)) ∧
    (r.nv.burn = none → statusOf r 8 = 0 → g ≠ nextGen r → exec (.optionBurn p) s =
      .next (respond (ticketFor specOptionBurn (asked specOptionBurn p)) 0x80 stStateConflict 0xC [] r)) ∧
    (r.nv.burn = none → statusOf r 8 = 0 → g = nextGen r → exec (.optionBurn p) s = .next (deferred specOptionBurn p (fire 0x3C6 0x01 []
      { r with nv := { r.nv with burn := some { gen := g, record := r0 + crc16 (toLE 14 r0) * 2 ^ 112, row := v + crc16 (toLE 62 v) * 2 ^ 496, step := 0,
                                                startedAt := r.clk.edges, ticket := ticketFor specOptionBurn (asked specOptionBurn p) } } })))) ∧
  (∀ (k : Burn) (f0 f1 f2 : Nat) (s0 : State), s0.clk.coreStopped = false → s0.nv.burn = some k → let s := reachEdge k.startedAt s0
    let old := gen s k.gen
    let g1 : Gen := { rec0 := old.rec0 ||| andNot k.record (f0 / 2 ^ 512), rec1 := old.rec1 ||| andNot k.record (f1 / 2 ^ 512),
                      rec2 := old.rec2 ||| andNot k.record (f2 / 2 ^ 512), row0 := old.row0 ||| andNot k.row (f0 % 2 ^ 512),
                      row1 := old.row1 ||| andNot k.row (f1 % 2 ^ 512), row2 := old.row2 ||| andNot k.row (f2 % 2 ^ 512) }
    let s1 := { s with nv := { s.nv with gens := tset {} s.nv.gens k.gen g1, burn := none } }
    let reply := toLE 1 k.gen ++ toLE 1 (copyDiff g1) ++ zeros 2 ++ toLE 4 (bits k.record 39 8) ++ toLE 8 (bits k.record 103 40)
    (genStatus k.gen g1 = 1 → exec (.optionBurnDone f0 f1 f2) s0 = .next (complete k.ticket stOk reply (fire 0x3C6 0x02 [] (setFailedLoads 0 s1)))) ∧
    (genStatus k.gen g1 ≠ 1 → exec (.optionBurnDone f0 f1 f2) s0 = .next (complete k.ticket stHwFault reply (fire 0x3C6 0x03 [] s1)))) ∧
  (∀ (p : Packet) (s : State), let r := reached specRetainedRead p s
    let b := p.params
    let off := le b 0 2
    let n := le b 2 2
    accepts specRetainedRead p s = true → reservedAt b 5 3 = true →
    (byteAt b 4 = 0 → off % 4 = 0 → off + n ≤ 8192 → 4 ≤ n → n ≤ 4080 → n % 4 = 0 → badIn r off n = [] →
      exec (.retainedRead p) s = .next (answered specRetainedRead p stOk (retBytes r off n) r)) ∧
    (byteAt b 4 = 1 → off % 4 = 0 → off + n ≤ 64 → 4 ≤ n → n % 4 = 0 →
      exec (.retainedRead p) s = .next (answered specRetainedRead p stOk (backupBytes r off n) r)) ∧
    (byteAt b 4 = 2 → exec (.retainedRead p) s = .next (answered specRetainedRead p stOk
      (toLE 1 (b2n r.ret.valid) ++ toLE 1 r.ret.replaced ++ zeros 2 ++ toLE 16 r.ret.lost ++ zeros 12) r))) ∧
  (∀ (p : Packet) (s : State), let r := reached specRetainedWrite p s
    let b := p.params
    let off := le b 0 2
    let n := le b 2 2
    let w := writeSheaves 130 off (b.drop 8) r
    accepts specRetainedWrite p s = true → n % 4 = 0 → n ≤ 4072 → reservedAt b 5 3 = true → p.upset = false →
    (byteAt b 4 = 0 → 0x1000 ≤ off → off + n ≤ 8192 → off % 4 = 0 → exec (.retainedWrite p) s =
      .next (answered specRetainedWrite p (if w.1 then stOk else stHwFault) [] w.2)) ∧
    (byteAt b 4 = 1 → off + n ≤ 64 → off % 4 = 0 → exec (.retainedWrite p) s = .next (answered specRetainedWrite p stOk [] (backupWrite off (b.drop 8) r))) ∧
    (byteAt b 4 = 3 → n = 0 → exec (.retainedWrite p) s = .next (answered specRetainedWrite p stOk [] (setFailedLoads 0 r)))) ∧
  (∀ (off : Nat) (d : List Byte) (s : State) (a : Nat), Memory.wf s.ret.mem = true → a < off ∨ off + d.length ≤ a →
    tget 0 (writeSheaves 130 off d s).2.ret.mem a = tget 0 s.ret.mem a) ∧
  (∀ (off : Nat) (d : List Byte) (s : State) (i : Nat), Memory.wf s.ret.mem = true → i < d.length → off + i < 8192 →
    tget 0 (retWrite off d s).ret.mem (off + i) = d.getD i 0) ∧
  (∀ (s0 : State), let s := reachEdge (s0.ret.tracedAt + secE) s0
    (untraceable s0 = false → coreLive s0 = true → exec .lastTraceableTimeWrite s0 =
      .next (hdrUpdate (fun b => overlay b 8 (toLE 8 (nowT64 s))) { s with ret := { s.ret with tracedAt := s.clk.edges } })) ∧
    (untraceable s0 = true ∨ coreLive s0 = false → exec .lastTraceableTimeWrite s0 = .next s0))
end

