-- ==== Sys2Proof/Laws/State.lean ====
section
/-! SUPPORT. What each update of one component of the state changes and leaves: one lemma per field per update. -/

namespace Sys2Proof.Machine

variable (s : State)

/-! ## modPort -/

@[simp] theorem modPort_pending (p : Nat) (g : Port → Port) : (modPort p g s).pending = s.pending := rfl
@[simp] theorem modPort_dev (p : Nat) (g : Port → Port) : (modPort p g s).dev = s.dev := rfl
@[simp] theorem modPort_clk (p : Nat) (g : Port → Port) : (modPort p g s).clk = s.clk := rfl
@[simp] theorem modPort_slices (p : Nat) (g : Port → Port) : (modPort p g s).slices = s.slices := rfl
@[simp] theorem modPort_mir (p : Nat) (g : Port → Port) : (modPort p g s).mir = s.mir := rfl
@[simp] theorem modPort_sup (p : Nat) (g : Port → Port) : (modPort p g s).sup = s.sup := rfl
@[simp] theorem modPort_therm (p : Nat) (g : Port → Port) : (modPort p g s).therm = s.therm := rfl
@[simp] theorem modPort_pcie (p : Nat) (g : Port → Port) : (modPort p g s).pcie = s.pcie := rfl
@[simp] theorem modPort_nv (p : Nat) (g : Port → Port) : (modPort p g s).nv = s.nv := rfl
@[simp] theorem modPort_opt (p : Nat) (g : Port → Port) : (modPort p g s).opt = s.opt := rfl
@[simp] theorem modPort_ret (p : Nat) (g : Port → Port) : (modPort p g s).ret = s.ret := rfl
@[simp] theorem modPort_cp (p : Nat) (g : Port → Port) : (modPort p g s).cp = s.cp := rfl
@[simp] theorem modPort_spi (p : Nat) (g : Port → Port) : (modPort p g s).spi = s.spi := rfl
@[simp] theorem modPort_rings (p : Nat) (g : Port → Port) : (modPort p g s).rings = s.rings := rfl
@[simp] theorem modPort_hfr (p : Nat) (g : Port → Port) : (modPort p g s).hfr = s.hfr := rfl
@[simp] theorem modPort_win (p : Nat) (g : Port → Port) : (modPort p g s).win = s.win := rfl
@[simp] theorem modPort_ev (p : Nat) (g : Port → Port) : (modPort p g s).ev = s.ev := rfl
@[simp] theorem modPort_jr (p : Nat) (g : Port → Port) : (modPort p g s).jr = s.jr := rfl
@[simp] theorem modPort_tim (p : Nat) (g : Port → Port) : (modPort p g s).tim = s.tim := rfl
@[simp] theorem modPort_gpio (p : Nat) (g : Port → Port) : (modPort p g s).gpio = s.gpio := rfl
@[simp] theorem modPort_ports (p : Nat) (g : Port → Port) : (modPort p g s).ports = tmod {} s.ports p g := rfl
@[simp] theorem modPort_lanes (p : Nat) (g : Port → Port) : (modPort p g s).lanes = s.lanes := rfl
@[simp] theorem modPort_i2c (p : Nat) (g : Port → Port) : (modPort p g s).i2c = s.i2c := rfl
@[simp] theorem modPort_mods (p : Nat) (g : Port → Port) : (modPort p g s).mods = s.mods := rfl
@[simp] theorem modPort_bankBit (p : Nat) (g : Port → Port) : (modPort p g s).bankBit = s.bankBit := rfl
@[simp] theorem modPort_swap (p : Nat) (g : Port → Port) : (modPort p g s).swap = s.swap := rfl
@[simp] theorem modPort_fa (p : Nat) (g : Port → Port) : (modPort p g s).fa = s.fa := rfl
@[simp] theorem modPort_fb (p : Nat) (g : Port → Port) : (modPort p g s).fb = s.fb := rfl
@[simp] theorem modPort_hl (p : Nat) (g : Port → Port) : (modPort p g s).hl = s.hl := rfl
@[simp] theorem modPort_age (p : Nat) (g : Port → Port) : (modPort p g s).age = s.age := rfl
@[simp] theorem modPort_shadow (p : Nat) (g : Port → Port) : (modPort p g s).shadow = s.shadow := rfl
@[simp] theorem modPort_flush (p : Nat) (g : Port → Port) : (modPort p g s).flush = s.flush := rfl
@[simp] theorem modPort_memErr (p : Nat) (g : Port → Port) : (modPort p g s).memErr = s.memErr := rfl
@[simp] theorem modPort_corr48 (p : Nat) (g : Port → Port) : (modPort p g s).corr48 = s.corr48 := rfl
@[simp] theorem modPort_frames (p : Nat) (g : Port → Port) : (modPort p g s).frames = s.frames := rfl
@[simp] theorem modPort_gran (p : Nat) (g : Port → Port) : (modPort p g s).gran = s.gran := rfl
@[simp] theorem modPort_meters (p : Nat) (g : Port → Port) : (modPort p g s).meters = s.meters := rfl
@[simp] theorem modPort_shapers (p : Nat) (g : Port → Port) : (modPort p g s).shapers = s.shapers := rfl
@[simp] theorem modPort_meterInvalid (p : Nat) (g : Port → Port) : (modPort p g s).meterInvalid = s.meterInvalid := rfl
@[simp] theorem modPort_red (p : Nat) (g : Port → Port) : (modPort p g s).red = s.red := rfl
@[simp] theorem modPort_imgLoad (p : Nat) (g : Port → Port) : (modPort p g s).imgLoad = s.imgLoad := rfl
@[simp] theorem modPort_gle (p : Nat) (g : Port → Port) : (modPort p g s).gle = s.gle := rfl
@[simp] theorem modPort_mirrors (p : Nat) (g : Port → Port) : (modPort p g s).mirrors = s.mirrors := rfl
@[simp] theorem modPort_stook (p : Nat) (g : Port → Port) : (modPort p g s).stook = s.stook := rfl
@[simp] theorem modPort_perf (p : Nat) (g : Port → Port) : (modPort p g s).perf = s.perf := rfl
@[simp] theorem modPort_deep (p : Nat) (g : Port → Port) : (modPort p g s).deep = s.deep := rfl
@[simp] theorem modPort_out (p : Nat) (g : Port → Port) : (modPort p g s).out = s.out := rfl
@[simp] theorem modPort_free (p : Nat) (g : Port → Port) : (modPort p g s).free = s.free := rfl
@[simp] theorem modPort_nextUid (p : Nat) (g : Port → Port) : (modPort p g s).nextUid = s.nextUid := rfl

/-! ## modLane -/

@[simp] theorem modLane_pending (m : Nat) (g : Lane → Lane) : (modLane m g s).pending = s.pending := rfl
@[simp] theorem modLane_dev (m : Nat) (g : Lane → Lane) : (modLane m g s).dev = s.dev := rfl
@[simp] theorem modLane_clk (m : Nat) (g : Lane → Lane) : (modLane m g s).clk = s.clk := rfl
@[simp] theorem modLane_slices (m : Nat) (g : Lane → Lane) : (modLane m g s).slices = s.slices := rfl
@[simp] theorem modLane_mir (m : Nat) (g : Lane → Lane) : (modLane m g s).mir = s.mir := rfl
@[simp] theorem modLane_sup (m : Nat) (g : Lane → Lane) : (modLane m g s).sup = s.sup := rfl
@[simp] theorem modLane_therm (m : Nat) (g : Lane → Lane) : (modLane m g s).therm = s.therm := rfl
@[simp] theorem modLane_pcie (m : Nat) (g : Lane → Lane) : (modLane m g s).pcie = s.pcie := rfl
@[simp] theorem modLane_nv (m : Nat) (g : Lane → Lane) : (modLane m g s).nv = s.nv := rfl
@[simp] theorem modLane_opt (m : Nat) (g : Lane → Lane) : (modLane m g s).opt = s.opt := rfl
@[simp] theorem modLane_ret (m : Nat) (g : Lane → Lane) : (modLane m g s).ret = s.ret := rfl
@[simp] theorem modLane_cp (m : Nat) (g : Lane → Lane) : (modLane m g s).cp = s.cp := rfl
@[simp] theorem modLane_spi (m : Nat) (g : Lane → Lane) : (modLane m g s).spi = s.spi := rfl
@[simp] theorem modLane_rings (m : Nat) (g : Lane → Lane) : (modLane m g s).rings = s.rings := rfl
@[simp] theorem modLane_hfr (m : Nat) (g : Lane → Lane) : (modLane m g s).hfr = s.hfr := rfl
@[simp] theorem modLane_win (m : Nat) (g : Lane → Lane) : (modLane m g s).win = s.win := rfl
@[simp] theorem modLane_ev (m : Nat) (g : Lane → Lane) : (modLane m g s).ev = s.ev := rfl
@[simp] theorem modLane_jr (m : Nat) (g : Lane → Lane) : (modLane m g s).jr = s.jr := rfl
@[simp] theorem modLane_tim (m : Nat) (g : Lane → Lane) : (modLane m g s).tim = s.tim := rfl
@[simp] theorem modLane_gpio (m : Nat) (g : Lane → Lane) : (modLane m g s).gpio = s.gpio := rfl
@[simp] theorem modLane_ports (m : Nat) (g : Lane → Lane) : (modLane m g s).ports = s.ports := rfl
@[simp] theorem modLane_lanes (m : Nat) (g : Lane → Lane) : (modLane m g s).lanes = tmod {} s.lanes m g := rfl
@[simp] theorem modLane_i2c (m : Nat) (g : Lane → Lane) : (modLane m g s).i2c = s.i2c := rfl
@[simp] theorem modLane_mods (m : Nat) (g : Lane → Lane) : (modLane m g s).mods = s.mods := rfl
@[simp] theorem modLane_bankBit (m : Nat) (g : Lane → Lane) : (modLane m g s).bankBit = s.bankBit := rfl
@[simp] theorem modLane_swap (m : Nat) (g : Lane → Lane) : (modLane m g s).swap = s.swap := rfl
@[simp] theorem modLane_fa (m : Nat) (g : Lane → Lane) : (modLane m g s).fa = s.fa := rfl
@[simp] theorem modLane_fb (m : Nat) (g : Lane → Lane) : (modLane m g s).fb = s.fb := rfl
@[simp] theorem modLane_hl (m : Nat) (g : Lane → Lane) : (modLane m g s).hl = s.hl := rfl
@[simp] theorem modLane_age (m : Nat) (g : Lane → Lane) : (modLane m g s).age = s.age := rfl
@[simp] theorem modLane_shadow (m : Nat) (g : Lane → Lane) : (modLane m g s).shadow = s.shadow := rfl
@[simp] theorem modLane_flush (m : Nat) (g : Lane → Lane) : (modLane m g s).flush = s.flush := rfl
@[simp] theorem modLane_memErr (m : Nat) (g : Lane → Lane) : (modLane m g s).memErr = s.memErr := rfl
@[simp] theorem modLane_corr48 (m : Nat) (g : Lane → Lane) : (modLane m g s).corr48 = s.corr48 := rfl
@[simp] theorem modLane_frames (m : Nat) (g : Lane → Lane) : (modLane m g s).frames = s.frames := rfl
@[simp] theorem modLane_gran (m : Nat) (g : Lane → Lane) : (modLane m g s).gran = s.gran := rfl
@[simp] theorem modLane_meters (m : Nat) (g : Lane → Lane) : (modLane m g s).meters = s.meters := rfl
@[simp] theorem modLane_shapers (m : Nat) (g : Lane → Lane) : (modLane m g s).shapers = s.shapers := rfl
@[simp] theorem modLane_meterInvalid (m : Nat) (g : Lane → Lane) : (modLane m g s).meterInvalid = s.meterInvalid := rfl
@[simp] theorem modLane_red (m : Nat) (g : Lane → Lane) : (modLane m g s).red = s.red := rfl
@[simp] theorem modLane_imgLoad (m : Nat) (g : Lane → Lane) : (modLane m g s).imgLoad = s.imgLoad := rfl
@[simp] theorem modLane_gle (m : Nat) (g : Lane → Lane) : (modLane m g s).gle = s.gle := rfl
@[simp] theorem modLane_mirrors (m : Nat) (g : Lane → Lane) : (modLane m g s).mirrors = s.mirrors := rfl
@[simp] theorem modLane_stook (m : Nat) (g : Lane → Lane) : (modLane m g s).stook = s.stook := rfl
@[simp] theorem modLane_perf (m : Nat) (g : Lane → Lane) : (modLane m g s).perf = s.perf := rfl
@[simp] theorem modLane_deep (m : Nat) (g : Lane → Lane) : (modLane m g s).deep = s.deep := rfl
@[simp] theorem modLane_out (m : Nat) (g : Lane → Lane) : (modLane m g s).out = s.out := rfl
@[simp] theorem modLane_free (m : Nat) (g : Lane → Lane) : (modLane m g s).free = s.free := rfl
@[simp] theorem modLane_nextUid (m : Nat) (g : Lane → Lane) : (modLane m g s).nextUid = s.nextUid := rfl

/-! ## modMaster -/

@[simp] theorem modMaster_pending (k : Nat) (g : I2c → I2c) : (modMaster k g s).pending = s.pending := rfl
@[simp] theorem modMaster_dev (k : Nat) (g : I2c → I2c) : (modMaster k g s).dev = s.dev := rfl
@[simp] theorem modMaster_clk (k : Nat) (g : I2c → I2c) : (modMaster k g s).clk = s.clk := rfl
@[simp] theorem modMaster_slices (k : Nat) (g : I2c → I2c) : (modMaster k g s).slices = s.slices := rfl
@[simp] theorem modMaster_mir (k : Nat) (g : I2c → I2c) : (modMaster k g s).mir = s.mir := rfl
@[simp] theorem modMaster_sup (k : Nat) (g : I2c → I2c) : (modMaster k g s).sup = s.sup := rfl
@[simp] theorem modMaster_therm (k : Nat) (g : I2c → I2c) : (modMaster k g s).therm = s.therm := rfl
@[simp] theorem modMaster_pcie (k : Nat) (g : I2c → I2c) : (modMaster k g s).pcie = s.pcie := rfl
@[simp] theorem modMaster_nv (k : Nat) (g : I2c → I2c) : (modMaster k g s).nv = s.nv := rfl
@[simp] theorem modMaster_opt (k : Nat) (g : I2c → I2c) : (modMaster k g s).opt = s.opt := rfl
@[simp] theorem modMaster_ret (k : Nat) (g : I2c → I2c) : (modMaster k g s).ret = s.ret := rfl
@[simp] theorem modMaster_cp (k : Nat) (g : I2c → I2c) : (modMaster k g s).cp = s.cp := rfl
@[simp] theorem modMaster_spi (k : Nat) (g : I2c → I2c) : (modMaster k g s).spi = s.spi := rfl
@[simp] theorem modMaster_rings (k : Nat) (g : I2c → I2c) : (modMaster k g s).rings = s.rings := rfl
@[simp] theorem modMaster_hfr (k : Nat) (g : I2c → I2c) : (modMaster k g s).hfr = s.hfr := rfl
@[simp] theorem modMaster_win (k : Nat) (g : I2c → I2c) : (modMaster k g s).win = s.win := rfl
@[simp] theorem modMaster_ev (k : Nat) (g : I2c → I2c) : (modMaster k g s).ev = s.ev := rfl
@[simp] theorem modMaster_jr (k : Nat) (g : I2c → I2c) : (modMaster k g s).jr = s.jr := rfl
@[simp] theorem modMaster_tim (k : Nat) (g : I2c → I2c) : (modMaster k g s).tim = s.tim := rfl
@[simp] theorem modMaster_gpio (k : Nat) (g : I2c → I2c) : (modMaster k g s).gpio = s.gpio := rfl
@[simp] theorem modMaster_ports (k : Nat) (g : I2c → I2c) : (modMaster k g s).ports = s.ports := rfl
@[simp] theorem modMaster_lanes (k : Nat) (g : I2c → I2c) : (modMaster k g s).lanes = s.lanes := rfl
@[simp] theorem modMaster_i2c (k : Nat) (g : I2c → I2c) : (modMaster k g s).i2c = tmod {} s.i2c k g := rfl
@[simp] theorem modMaster_mods (k : Nat) (g : I2c → I2c) : (modMaster k g s).mods = s.mods := rfl
@[simp] theorem modMaster_bankBit (k : Nat) (g : I2c → I2c) : (modMaster k g s).bankBit = s.bankBit := rfl
@[simp] theorem modMaster_swap (k : Nat) (g : I2c → I2c) : (modMaster k g s).swap = s.swap := rfl
@[simp] theorem modMaster_fa (k : Nat) (g : I2c → I2c) : (modMaster k g s).fa = s.fa := rfl
@[simp] theorem modMaster_fb (k : Nat) (g : I2c → I2c) : (modMaster k g s).fb = s.fb := rfl
@[simp] theorem modMaster_hl (k : Nat) (g : I2c → I2c) : (modMaster k g s).hl = s.hl := rfl
@[simp] theorem modMaster_age (k : Nat) (g : I2c → I2c) : (modMaster k g s).age = s.age := rfl
@[simp] theorem modMaster_shadow (k : Nat) (g : I2c → I2c) : (modMaster k g s).shadow = s.shadow := rfl
@[simp] theorem modMaster_flush (k : Nat) (g : I2c → I2c) : (modMaster k g s).flush = s.flush := rfl
@[simp] theorem modMaster_memErr (k : Nat) (g : I2c → I2c) : (modMaster k g s).memErr = s.memErr := rfl
@[simp] theorem modMaster_corr48 (k : Nat) (g : I2c → I2c) : (modMaster k g s).corr48 = s.corr48 := rfl
@[simp] theorem modMaster_frames (k : Nat) (g : I2c → I2c) : (modMaster k g s).frames = s.frames := rfl
@[simp] theorem modMaster_gran (k : Nat) (g : I2c → I2c) : (modMaster k g s).gran = s.gran := rfl
@[simp] theorem modMaster_meters (k : Nat) (g : I2c → I2c) : (modMaster k g s).meters = s.meters := rfl
@[simp] theorem modMaster_shapers (k : Nat) (g : I2c → I2c) : (modMaster k g s).shapers = s.shapers := rfl
@[simp] theorem modMaster_meterInvalid (k : Nat) (g : I2c → I2c) : (modMaster k g s).meterInvalid = s.meterInvalid := rfl
@[simp] theorem modMaster_red (k : Nat) (g : I2c → I2c) : (modMaster k g s).red = s.red := rfl
@[simp] theorem modMaster_imgLoad (k : Nat) (g : I2c → I2c) : (modMaster k g s).imgLoad = s.imgLoad := rfl
@[simp] theorem modMaster_gle (k : Nat) (g : I2c → I2c) : (modMaster k g s).gle = s.gle := rfl
@[simp] theorem modMaster_mirrors (k : Nat) (g : I2c → I2c) : (modMaster k g s).mirrors = s.mirrors := rfl
@[simp] theorem modMaster_stook (k : Nat) (g : I2c → I2c) : (modMaster k g s).stook = s.stook := rfl
@[simp] theorem modMaster_perf (k : Nat) (g : I2c → I2c) : (modMaster k g s).perf = s.perf := rfl
@[simp] theorem modMaster_deep (k : Nat) (g : I2c → I2c) : (modMaster k g s).deep = s.deep := rfl
@[simp] theorem modMaster_out (k : Nat) (g : I2c → I2c) : (modMaster k g s).out = s.out := rfl
@[simp] theorem modMaster_free (k : Nat) (g : I2c → I2c) : (modMaster k g s).free = s.free := rfl
@[simp] theorem modMaster_nextUid (k : Nat) (g : I2c → I2c) : (modMaster k g s).nextUid = s.nextUid := rfl

/-! ## modModule -/

@[simp] theorem modModule_pending (m : Nat) (g : Module → Module) : (modModule m g s).pending = s.pending := rfl
@[simp] theorem modModule_dev (m : Nat) (g : Module → Module) : (modModule m g s).dev = s.dev := rfl
@[simp] theorem modModule_clk (m : Nat) (g : Module → Module) : (modModule m g s).clk = s.clk := rfl
@[simp] theorem modModule_slices (m : Nat) (g : Module → Module) : (modModule m g s).slices = s.slices := rfl
@[simp] theorem modModule_mir (m : Nat) (g : Module → Module) : (modModule m g s).mir = s.mir := rfl
@[simp] theorem modModule_sup (m : Nat) (g : Module → Module) : (modModule m g s).sup = s.sup := rfl
@[simp] theorem modModule_therm (m : Nat) (g : Module → Module) : (modModule m g s).therm = s.therm := rfl
@[simp] theorem modModule_pcie (m : Nat) (g : Module → Module) : (modModule m g s).pcie = s.pcie := rfl
@[simp] theorem modModule_nv (m : Nat) (g : Module → Module) : (modModule m g s).nv = s.nv := rfl
@[simp] theorem modModule_opt (m : Nat) (g : Module → Module) : (modModule m g s).opt = s.opt := rfl
@[simp] theorem modModule_ret (m : Nat) (g : Module → Module) : (modModule m g s).ret = s.ret := rfl
@[simp] theorem modModule_cp (m : Nat) (g : Module → Module) : (modModule m g s).cp = s.cp := rfl
@[simp] theorem modModule_spi (m : Nat) (g : Module → Module) : (modModule m g s).spi = s.spi := rfl
@[simp] theorem modModule_rings (m : Nat) (g : Module → Module) : (modModule m g s).rings = s.rings := rfl
@[simp] theorem modModule_hfr (m : Nat) (g : Module → Module) : (modModule m g s).hfr = s.hfr := rfl
@[simp] theorem modModule_win (m : Nat) (g : Module → Module) : (modModule m g s).win = s.win := rfl
@[simp] theorem modModule_ev (m : Nat) (g : Module → Module) : (modModule m g s).ev = s.ev := rfl
@[simp] theorem modModule_jr (m : Nat) (g : Module → Module) : (modModule m g s).jr = s.jr := rfl
@[simp] theorem modModule_tim (m : Nat) (g : Module → Module) : (modModule m g s).tim = s.tim := rfl
@[simp] theorem modModule_gpio (m : Nat) (g : Module → Module) : (modModule m g s).gpio = s.gpio := rfl
@[simp] theorem modModule_ports (m : Nat) (g : Module → Module) : (modModule m g s).ports = s.ports := rfl
@[simp] theorem modModule_lanes (m : Nat) (g : Module → Module) : (modModule m g s).lanes = s.lanes := rfl
@[simp] theorem modModule_i2c (m : Nat) (g : Module → Module) : (modModule m g s).i2c = s.i2c := rfl
@[simp] theorem modModule_mods (m : Nat) (g : Module → Module) : (modModule m g s).mods = tmod {} s.mods m g := rfl
@[simp] theorem modModule_bankBit (m : Nat) (g : Module → Module) : (modModule m g s).bankBit = s.bankBit := rfl
@[simp] theorem modModule_swap (m : Nat) (g : Module → Module) : (modModule m g s).swap = s.swap := rfl
@[simp] theorem modModule_fa (m : Nat) (g : Module → Module) : (modModule m g s).fa = s.fa := rfl
@[simp] theorem modModule_fb (m : Nat) (g : Module → Module) : (modModule m g s).fb = s.fb := rfl
@[simp] theorem modModule_hl (m : Nat) (g : Module → Module) : (modModule m g s).hl = s.hl := rfl
@[simp] theorem modModule_age (m : Nat) (g : Module → Module) : (modModule m g s).age = s.age := rfl
@[simp] theorem modModule_shadow (m : Nat) (g : Module → Module) : (modModule m g s).shadow = s.shadow := rfl
@[simp] theorem modModule_flush (m : Nat) (g : Module → Module) : (modModule m g s).flush = s.flush := rfl
@[simp] theorem modModule_memErr (m : Nat) (g : Module → Module) : (modModule m g s).memErr = s.memErr := rfl
@[simp] theorem modModule_corr48 (m : Nat) (g : Module → Module) : (modModule m g s).corr48 = s.corr48 := rfl
@[simp] theorem modModule_frames (m : Nat) (g : Module → Module) : (modModule m g s).frames = s.frames := rfl
@[simp] theorem modModule_gran (m : Nat) (g : Module → Module) : (modModule m g s).gran = s.gran := rfl
@[simp] theorem modModule_meters (m : Nat) (g : Module → Module) : (modModule m g s).meters = s.meters := rfl
@[simp] theorem modModule_shapers (m : Nat) (g : Module → Module) : (modModule m g s).shapers = s.shapers := rfl
@[simp] theorem modModule_meterInvalid (m : Nat) (g : Module → Module) : (modModule m g s).meterInvalid = s.meterInvalid := rfl
@[simp] theorem modModule_red (m : Nat) (g : Module → Module) : (modModule m g s).red = s.red := rfl
@[simp] theorem modModule_imgLoad (m : Nat) (g : Module → Module) : (modModule m g s).imgLoad = s.imgLoad := rfl
@[simp] theorem modModule_gle (m : Nat) (g : Module → Module) : (modModule m g s).gle = s.gle := rfl
@[simp] theorem modModule_mirrors (m : Nat) (g : Module → Module) : (modModule m g s).mirrors = s.mirrors := rfl
@[simp] theorem modModule_stook (m : Nat) (g : Module → Module) : (modModule m g s).stook = s.stook := rfl
@[simp] theorem modModule_perf (m : Nat) (g : Module → Module) : (modModule m g s).perf = s.perf := rfl
@[simp] theorem modModule_deep (m : Nat) (g : Module → Module) : (modModule m g s).deep = s.deep := rfl
@[simp] theorem modModule_out (m : Nat) (g : Module → Module) : (modModule m g s).out = s.out := rfl
@[simp] theorem modModule_free (m : Nat) (g : Module → Module) : (modModule m g s).free = s.free := rfl
@[simp] theorem modModule_nextUid (m : Nat) (g : Module → Module) : (modModule m g s).nextUid = s.nextUid := rfl

/-! ## modRing -/

@[simp] theorem modRing_pending (k : Nat) (g : Ring → Ring) : (modRing k g s).pending = s.pending := rfl
@[simp] theorem modRing_dev (k : Nat) (g : Ring → Ring) : (modRing k g s).dev = s.dev := rfl
@[simp] theorem modRing_clk (k : Nat) (g : Ring → Ring) : (modRing k g s).clk = s.clk := rfl
@[simp] theorem modRing_slices (k : Nat) (g : Ring → Ring) : (modRing k g s).slices = s.slices := rfl
@[simp] theorem modRing_mir (k : Nat) (g : Ring → Ring) : (modRing k g s).mir = s.mir := rfl
@[simp] theorem modRing_sup (k : Nat) (g : Ring → Ring) : (modRing k g s).sup = s.sup := rfl
@[simp] theorem modRing_therm (k : Nat) (g : Ring → Ring) : (modRing k g s).therm = s.therm := rfl
@[simp] theorem modRing_pcie (k : Nat) (g : Ring → Ring) : (modRing k g s).pcie = s.pcie := rfl
@[simp] theorem modRing_nv (k : Nat) (g : Ring → Ring) : (modRing k g s).nv = s.nv := rfl
@[simp] theorem modRing_opt (k : Nat) (g : Ring → Ring) : (modRing k g s).opt = s.opt := rfl
@[simp] theorem modRing_ret (k : Nat) (g : Ring → Ring) : (modRing k g s).ret = s.ret := rfl
@[simp] theorem modRing_cp (k : Nat) (g : Ring → Ring) : (modRing k g s).cp = s.cp := rfl
@[simp] theorem modRing_spi (k : Nat) (g : Ring → Ring) : (modRing k g s).spi = s.spi := rfl
@[simp] theorem modRing_rings (k : Nat) (g : Ring → Ring) : (modRing k g s).rings = tmod {} s.rings k g := rfl
@[simp] theorem modRing_hfr (k : Nat) (g : Ring → Ring) : (modRing k g s).hfr = s.hfr := rfl
@[simp] theorem modRing_win (k : Nat) (g : Ring → Ring) : (modRing k g s).win = s.win := rfl
@[simp] theorem modRing_ev (k : Nat) (g : Ring → Ring) : (modRing k g s).ev = s.ev := rfl
@[simp] theorem modRing_jr (k : Nat) (g : Ring → Ring) : (modRing k g s).jr = s.jr := rfl
@[simp] theorem modRing_tim (k : Nat) (g : Ring → Ring) : (modRing k g s).tim = s.tim := rfl
@[simp] theorem modRing_gpio (k : Nat) (g : Ring → Ring) : (modRing k g s).gpio = s.gpio := rfl
@[simp] theorem modRing_ports (k : Nat) (g : Ring → Ring) : (modRing k g s).ports = s.ports := rfl
@[simp] theorem modRing_lanes (k : Nat) (g : Ring → Ring) : (modRing k g s).lanes = s.lanes := rfl
@[simp] theorem modRing_i2c (k : Nat) (g : Ring → Ring) : (modRing k g s).i2c = s.i2c := rfl
@[simp] theorem modRing_mods (k : Nat) (g : Ring → Ring) : (modRing k g s).mods = s.mods := rfl
@[simp] theorem modRing_bankBit (k : Nat) (g : Ring → Ring) : (modRing k g s).bankBit = s.bankBit := rfl
@[simp] theorem modRing_swap (k : Nat) (g : Ring → Ring) : (modRing k g s).swap = s.swap := rfl
@[simp] theorem modRing_fa (k : Nat) (g : Ring → Ring) : (modRing k g s).fa = s.fa := rfl
@[simp] theorem modRing_fb (k : Nat) (g : Ring → Ring) : (modRing k g s).fb = s.fb := rfl
@[simp] theorem modRing_hl (k : Nat) (g : Ring → Ring) : (modRing k g s).hl = s.hl := rfl
@[simp] theorem modRing_age (k : Nat) (g : Ring → Ring) : (modRing k g s).age = s.age := rfl
@[simp] theorem modRing_shadow (k : Nat) (g : Ring → Ring) : (modRing k g s).shadow = s.shadow := rfl
@[simp] theorem modRing_flush (k : Nat) (g : Ring → Ring) : (modRing k g s).flush = s.flush := rfl
@[simp] theorem modRing_memErr (k : Nat) (g : Ring → Ring) : (modRing k g s).memErr = s.memErr := rfl
@[simp] theorem modRing_corr48 (k : Nat) (g : Ring → Ring) : (modRing k g s).corr48 = s.corr48 := rfl
@[simp] theorem modRing_frames (k : Nat) (g : Ring → Ring) : (modRing k g s).frames = s.frames := rfl
@[simp] theorem modRing_gran (k : Nat) (g : Ring → Ring) : (modRing k g s).gran = s.gran := rfl
@[simp] theorem modRing_meters (k : Nat) (g : Ring → Ring) : (modRing k g s).meters = s.meters := rfl
@[simp] theorem modRing_shapers (k : Nat) (g : Ring → Ring) : (modRing k g s).shapers = s.shapers := rfl
@[simp] theorem modRing_meterInvalid (k : Nat) (g : Ring → Ring) : (modRing k g s).meterInvalid = s.meterInvalid := rfl
@[simp] theorem modRing_red (k : Nat) (g : Ring → Ring) : (modRing k g s).red = s.red := rfl
@[simp] theorem modRing_imgLoad (k : Nat) (g : Ring → Ring) : (modRing k g s).imgLoad = s.imgLoad := rfl
@[simp] theorem modRing_gle (k : Nat) (g : Ring → Ring) : (modRing k g s).gle = s.gle := rfl
@[simp] theorem modRing_mirrors (k : Nat) (g : Ring → Ring) : (modRing k g s).mirrors = s.mirrors := rfl
@[simp] theorem modRing_stook (k : Nat) (g : Ring → Ring) : (modRing k g s).stook = s.stook := rfl
@[simp] theorem modRing_perf (k : Nat) (g : Ring → Ring) : (modRing k g s).perf = s.perf := rfl
@[simp] theorem modRing_deep (k : Nat) (g : Ring → Ring) : (modRing k g s).deep = s.deep := rfl
@[simp] theorem modRing_out (k : Nat) (g : Ring → Ring) : (modRing k g s).out = s.out := rfl
@[simp] theorem modRing_free (k : Nat) (g : Ring → Ring) : (modRing k g s).free = s.free := rfl
@[simp] theorem modRing_nextUid (k : Nat) (g : Ring → Ring) : (modRing k g s).nextUid = s.nextUid := rfl

/-! ## modGpio -/

@[simp] theorem modGpio_pending (n : Nat) (g : Gpio → Gpio) : (modGpio n g s).pending = s.pending := rfl
@[simp] theorem modGpio_dev (n : Nat) (g : Gpio → Gpio) : (modGpio n g s).dev = s.dev := rfl
@[simp] theorem modGpio_clk (n : Nat) (g : Gpio → Gpio) : (modGpio n g s).clk = s.clk := rfl
@[simp] theorem modGpio_slices (n : Nat) (g : Gpio → Gpio) : (modGpio n g s).slices = s.slices := rfl
@[simp] theorem modGpio_mir (n : Nat) (g : Gpio → Gpio) : (modGpio n g s).mir = s.mir := rfl
@[simp] theorem modGpio_sup (n : Nat) (g : Gpio → Gpio) : (modGpio n g s).sup = s.sup := rfl
@[simp] theorem modGpio_therm (n : Nat) (g : Gpio → Gpio) : (modGpio n g s).therm = s.therm := rfl
@[simp] theorem modGpio_pcie (n : Nat) (g : Gpio → Gpio) : (modGpio n g s).pcie = s.pcie := rfl
@[simp] theorem modGpio_nv (n : Nat) (g : Gpio → Gpio) : (modGpio n g s).nv = s.nv := rfl
@[simp] theorem modGpio_opt (n : Nat) (g : Gpio → Gpio) : (modGpio n g s).opt = s.opt := rfl
@[simp] theorem modGpio_ret (n : Nat) (g : Gpio → Gpio) : (modGpio n g s).ret = s.ret := rfl
@[simp] theorem modGpio_cp (n : Nat) (g : Gpio → Gpio) : (modGpio n g s).cp = s.cp := rfl
@[simp] theorem modGpio_spi (n : Nat) (g : Gpio → Gpio) : (modGpio n g s).spi = s.spi := rfl
@[simp] theorem modGpio_rings (n : Nat) (g : Gpio → Gpio) : (modGpio n g s).rings = s.rings := rfl
@[simp] theorem modGpio_hfr (n : Nat) (g : Gpio → Gpio) : (modGpio n g s).hfr = s.hfr := rfl
@[simp] theorem modGpio_win (n : Nat) (g : Gpio → Gpio) : (modGpio n g s).win = s.win := rfl
@[simp] theorem modGpio_ev (n : Nat) (g : Gpio → Gpio) : (modGpio n g s).ev = s.ev := rfl
@[simp] theorem modGpio_jr (n : Nat) (g : Gpio → Gpio) : (modGpio n g s).jr = s.jr := rfl
@[simp] theorem modGpio_tim (n : Nat) (g : Gpio → Gpio) : (modGpio n g s).tim = s.tim := rfl
@[simp] theorem modGpio_gpio (n : Nat) (g : Gpio → Gpio) : (modGpio n g s).gpio = tmod {} s.gpio n g := rfl
@[simp] theorem modGpio_ports (n : Nat) (g : Gpio → Gpio) : (modGpio n g s).ports = s.ports := rfl
@[simp] theorem modGpio_lanes (n : Nat) (g : Gpio → Gpio) : (modGpio n g s).lanes = s.lanes := rfl
@[simp] theorem modGpio_i2c (n : Nat) (g : Gpio → Gpio) : (modGpio n g s).i2c = s.i2c := rfl
@[simp] theorem modGpio_mods (n : Nat) (g : Gpio → Gpio) : (modGpio n g s).mods = s.mods := rfl
@[simp] theorem modGpio_bankBit (n : Nat) (g : Gpio → Gpio) : (modGpio n g s).bankBit = s.bankBit := rfl
@[simp] theorem modGpio_swap (n : Nat) (g : Gpio → Gpio) : (modGpio n g s).swap = s.swap := rfl
@[simp] theorem modGpio_fa (n : Nat) (g : Gpio → Gpio) : (modGpio n g s).fa = s.fa := rfl
@[simp] theorem modGpio_fb (n : Nat) (g : Gpio → Gpio) : (modGpio n g s).fb = s.fb := rfl
@[simp] theorem modGpio_hl (n : Nat) (g : Gpio → Gpio) : (modGpio n g s).hl = s.hl := rfl
@[simp] theorem modGpio_age (n : Nat) (g : Gpio → Gpio) : (modGpio n g s).age = s.age := rfl
@[simp] theorem modGpio_shadow (n : Nat) (g : Gpio → Gpio) : (modGpio n g s).shadow = s.shadow := rfl
@[simp] theorem modGpio_flush (n : Nat) (g : Gpio → Gpio) : (modGpio n g s).flush = s.flush := rfl
@[simp] theorem modGpio_memErr (n : Nat) (g : Gpio → Gpio) : (modGpio n g s).memErr = s.memErr := rfl
@[simp] theorem modGpio_corr48 (n : Nat) (g : Gpio → Gpio) : (modGpio n g s).corr48 = s.corr48 := rfl
@[simp] theorem modGpio_frames (n : Nat) (g : Gpio → Gpio) : (modGpio n g s).frames = s.frames := rfl
@[simp] theorem modGpio_gran (n : Nat) (g : Gpio → Gpio) : (modGpio n g s).gran = s.gran := rfl
@[simp] theorem modGpio_meters (n : Nat) (g : Gpio → Gpio) : (modGpio n g s).meters = s.meters := rfl
@[simp] theorem modGpio_shapers (n : Nat) (g : Gpio → Gpio) : (modGpio n g s).shapers = s.shapers := rfl
@[simp] theorem modGpio_meterInvalid (n : Nat) (g : Gpio → Gpio) : (modGpio n g s).meterInvalid = s.meterInvalid := rfl
@[simp] theorem modGpio_red (n : Nat) (g : Gpio → Gpio) : (modGpio n g s).red = s.red := rfl
@[simp] theorem modGpio_imgLoad (n : Nat) (g : Gpio → Gpio) : (modGpio n g s).imgLoad = s.imgLoad := rfl
@[simp] theorem modGpio_gle (n : Nat) (g : Gpio → Gpio) : (modGpio n g s).gle = s.gle := rfl
@[simp] theorem modGpio_mirrors (n : Nat) (g : Gpio → Gpio) : (modGpio n g s).mirrors = s.mirrors := rfl
@[simp] theorem modGpio_stook (n : Nat) (g : Gpio → Gpio) : (modGpio n g s).stook = s.stook := rfl
@[simp] theorem modGpio_perf (n : Nat) (g : Gpio → Gpio) : (modGpio n g s).perf = s.perf := rfl
@[simp] theorem modGpio_deep (n : Nat) (g : Gpio → Gpio) : (modGpio n g s).deep = s.deep := rfl
@[simp] theorem modGpio_out (n : Nat) (g : Gpio → Gpio) : (modGpio n g s).out = s.out := rfl
@[simp] theorem modGpio_free (n : Nat) (g : Gpio → Gpio) : (modGpio n g s).free = s.free := rfl
@[simp] theorem modGpio_nextUid (n : Nat) (g : Gpio → Gpio) : (modGpio n g s).nextUid = s.nextUid := rfl

/-! ## modMirror -/

@[simp] theorem modMirror_pending (i : Nat) (g : MirrorCfg → MirrorCfg) : (modMirror i g s).pending = s.pending := rfl
@[simp] theorem modMirror_dev (i : Nat) (g : MirrorCfg → MirrorCfg) : (modMirror i g s).dev = s.dev := rfl
@[simp] theorem modMirror_clk (i : Nat) (g : MirrorCfg → MirrorCfg) : (modMirror i g s).clk = s.clk := rfl
@[simp] theorem modMirror_slices (i : Nat) (g : MirrorCfg → MirrorCfg) : (modMirror i g s).slices = s.slices := rfl
@[simp] theorem modMirror_mir (i : Nat) (g : MirrorCfg → MirrorCfg) : (modMirror i g s).mir = s.mir := rfl
@[simp] theorem modMirror_sup (i : Nat) (g : MirrorCfg → MirrorCfg) : (modMirror i g s).sup = s.sup := rfl
@[simp] theorem modMirror_therm (i : Nat) (g : MirrorCfg → MirrorCfg) : (modMirror i g s).therm = s.therm := rfl
@[simp] theorem modMirror_pcie (i : Nat) (g : MirrorCfg → MirrorCfg) : (modMirror i g s).pcie = s.pcie := rfl
@[simp] theorem modMirror_nv (i : Nat) (g : MirrorCfg → MirrorCfg) : (modMirror i g s).nv = s.nv := rfl
@[simp] theorem modMirror_opt (i : Nat) (g : MirrorCfg → MirrorCfg) : (modMirror i g s).opt = s.opt := rfl
@[simp] theorem modMirror_ret (i : Nat) (g : MirrorCfg → MirrorCfg) : (modMirror i g s).ret = s.ret := rfl
@[simp] theorem modMirror_cp (i : Nat) (g : MirrorCfg → MirrorCfg) : (modMirror i g s).cp = s.cp := rfl
@[simp] theorem modMirror_spi (i : Nat) (g : MirrorCfg → MirrorCfg) : (modMirror i g s).spi = s.spi := rfl
@[simp] theorem modMirror_rings (i : Nat) (g : MirrorCfg → MirrorCfg) : (modMirror i g s).rings = s.rings := rfl
@[simp] theorem modMirror_hfr (i : Nat) (g : MirrorCfg → MirrorCfg) : (modMirror i g s).hfr = s.hfr := rfl
@[simp] theorem modMirror_win (i : Nat) (g : MirrorCfg → MirrorCfg) : (modMirror i g s).win = s.win := rfl
@[simp] theorem modMirror_ev (i : Nat) (g : MirrorCfg → MirrorCfg) : (modMirror i g s).ev = s.ev := rfl
@[simp] theorem modMirror_jr (i : Nat) (g : MirrorCfg → MirrorCfg) : (modMirror i g s).jr = s.jr := rfl
@[simp] theorem modMirror_tim (i : Nat) (g : MirrorCfg → MirrorCfg) : (modMirror i g s).tim = s.tim := rfl
@[simp] theorem modMirror_gpio (i : Nat) (g : MirrorCfg → MirrorCfg) : (modMirror i g s).gpio = s.gpio := rfl
@[simp] theorem modMirror_ports (i : Nat) (g : MirrorCfg → MirrorCfg) : (modMirror i g s).ports = s.ports := rfl
@[simp] theorem modMirror_lanes (i : Nat) (g : MirrorCfg → MirrorCfg) : (modMirror i g s).lanes = s.lanes := rfl
@[simp] theorem modMirror_i2c (i : Nat) (g : MirrorCfg → MirrorCfg) : (modMirror i g s).i2c = s.i2c := rfl
@[simp] theorem modMirror_mods (i : Nat) (g : MirrorCfg → MirrorCfg) : (modMirror i g s).mods = s.mods := rfl
@[simp] theorem modMirror_bankBit (i : Nat) (g : MirrorCfg → MirrorCfg) : (modMirror i g s).bankBit = s.bankBit := rfl
@[simp] theorem modMirror_swap (i : Nat) (g : MirrorCfg → MirrorCfg) : (modMirror i g s).swap = s.swap := rfl
@[simp] theorem modMirror_fa (i : Nat) (g : MirrorCfg → MirrorCfg) : (modMirror i g s).fa = s.fa := rfl
@[simp] theorem modMirror_fb (i : Nat) (g : MirrorCfg → MirrorCfg) : (modMirror i g s).fb = s.fb := rfl
@[simp] theorem modMirror_hl (i : Nat) (g : MirrorCfg → MirrorCfg) : (modMirror i g s).hl = s.hl := rfl
@[simp] theorem modMirror_age (i : Nat) (g : MirrorCfg → MirrorCfg) : (modMirror i g s).age = s.age := rfl
@[simp] theorem modMirror_shadow (i : Nat) (g : MirrorCfg → MirrorCfg) : (modMirror i g s).shadow = s.shadow := rfl
@[simp] theorem modMirror_flush (i : Nat) (g : MirrorCfg → MirrorCfg) : (modMirror i g s).flush = s.flush := rfl
@[simp] theorem modMirror_memErr (i : Nat) (g : MirrorCfg → MirrorCfg) : (modMirror i g s).memErr = s.memErr := rfl
@[simp] theorem modMirror_corr48 (i : Nat) (g : MirrorCfg → MirrorCfg) : (modMirror i g s).corr48 = s.corr48 := rfl
@[simp] theorem modMirror_frames (i : Nat) (g : MirrorCfg → MirrorCfg) : (modMirror i g s).frames = s.frames := rfl
@[simp] theorem modMirror_gran (i : Nat) (g : MirrorCfg → MirrorCfg) : (modMirror i g s).gran = s.gran := rfl
@[simp] theorem modMirror_meters (i : Nat) (g : MirrorCfg → MirrorCfg) : (modMirror i g s).meters = s.meters := rfl
@[simp] theorem modMirror_shapers (i : Nat) (g : MirrorCfg → MirrorCfg) : (modMirror i g s).shapers = s.shapers := rfl
@[simp] theorem modMirror_meterInvalid (i : Nat) (g : MirrorCfg → MirrorCfg) : (modMirror i g s).meterInvalid = s.meterInvalid := rfl
@[simp] theorem modMirror_red (i : Nat) (g : MirrorCfg → MirrorCfg) : (modMirror i g s).red = s.red := rfl
@[simp] theorem modMirror_imgLoad (i : Nat) (g : MirrorCfg → MirrorCfg) : (modMirror i g s).imgLoad = s.imgLoad := rfl
@[simp] theorem modMirror_gle (i : Nat) (g : MirrorCfg → MirrorCfg) : (modMirror i g s).gle = s.gle := rfl
@[simp] theorem modMirror_mirrors (i : Nat) (g : MirrorCfg → MirrorCfg) : (modMirror i g s).mirrors = tmod {} s.mirrors i g := rfl
@[simp] theorem modMirror_stook (i : Nat) (g : MirrorCfg → MirrorCfg) : (modMirror i g s).stook = s.stook := rfl
@[simp] theorem modMirror_perf (i : Nat) (g : MirrorCfg → MirrorCfg) : (modMirror i g s).perf = s.perf := rfl
@[simp] theorem modMirror_deep (i : Nat) (g : MirrorCfg → MirrorCfg) : (modMirror i g s).deep = s.deep := rfl
@[simp] theorem modMirror_out (i : Nat) (g : MirrorCfg → MirrorCfg) : (modMirror i g s).out = s.out := rfl
@[simp] theorem modMirror_free (i : Nat) (g : MirrorCfg → MirrorCfg) : (modMirror i g s).free = s.free := rfl
@[simp] theorem modMirror_nextUid (i : Nat) (g : MirrorCfg → MirrorCfg) : (modMirror i g s).nextUid = s.nextUid := rfl

/-! ## modMeter -/

@[simp] theorem modMeter_pending (i : Nat) (g : Meter → Meter) : (modMeter i g s).pending = s.pending := rfl
@[simp] theorem modMeter_dev (i : Nat) (g : Meter → Meter) : (modMeter i g s).dev = s.dev := rfl
@[simp] theorem modMeter_clk (i : Nat) (g : Meter → Meter) : (modMeter i g s).clk = s.clk := rfl
@[simp] theorem modMeter_slices (i : Nat) (g : Meter → Meter) : (modMeter i g s).slices = s.slices := rfl
@[simp] theorem modMeter_mir (i : Nat) (g : Meter → Meter) : (modMeter i g s).mir = s.mir := rfl
@[simp] theorem modMeter_sup (i : Nat) (g : Meter → Meter) : (modMeter i g s).sup = s.sup := rfl
@[simp] theorem modMeter_therm (i : Nat) (g : Meter → Meter) : (modMeter i g s).therm = s.therm := rfl
@[simp] theorem modMeter_pcie (i : Nat) (g : Meter → Meter) : (modMeter i g s).pcie = s.pcie := rfl
@[simp] theorem modMeter_nv (i : Nat) (g : Meter → Meter) : (modMeter i g s).nv = s.nv := rfl
@[simp] theorem modMeter_opt (i : Nat) (g : Meter → Meter) : (modMeter i g s).opt = s.opt := rfl
@[simp] theorem modMeter_ret (i : Nat) (g : Meter → Meter) : (modMeter i g s).ret = s.ret := rfl
@[simp] theorem modMeter_cp (i : Nat) (g : Meter → Meter) : (modMeter i g s).cp = s.cp := rfl
@[simp] theorem modMeter_spi (i : Nat) (g : Meter → Meter) : (modMeter i g s).spi = s.spi := rfl
@[simp] theorem modMeter_rings (i : Nat) (g : Meter → Meter) : (modMeter i g s).rings = s.rings := rfl
@[simp] theorem modMeter_hfr (i : Nat) (g : Meter → Meter) : (modMeter i g s).hfr = s.hfr := rfl
@[simp] theorem modMeter_win (i : Nat) (g : Meter → Meter) : (modMeter i g s).win = s.win := rfl
@[simp] theorem modMeter_ev (i : Nat) (g : Meter → Meter) : (modMeter i g s).ev = s.ev := rfl
@[simp] theorem modMeter_jr (i : Nat) (g : Meter → Meter) : (modMeter i g s).jr = s.jr := rfl
@[simp] theorem modMeter_tim (i : Nat) (g : Meter → Meter) : (modMeter i g s).tim = s.tim := rfl
@[simp] theorem modMeter_gpio (i : Nat) (g : Meter → Meter) : (modMeter i g s).gpio = s.gpio := rfl
@[simp] theorem modMeter_ports (i : Nat) (g : Meter → Meter) : (modMeter i g s).ports = s.ports := rfl
@[simp] theorem modMeter_lanes (i : Nat) (g : Meter → Meter) : (modMeter i g s).lanes = s.lanes := rfl
@[simp] theorem modMeter_i2c (i : Nat) (g : Meter → Meter) : (modMeter i g s).i2c = s.i2c := rfl
@[simp] theorem modMeter_mods (i : Nat) (g : Meter → Meter) : (modMeter i g s).mods = s.mods := rfl
@[simp] theorem modMeter_bankBit (i : Nat) (g : Meter → Meter) : (modMeter i g s).bankBit = s.bankBit := rfl
@[simp] theorem modMeter_swap (i : Nat) (g : Meter → Meter) : (modMeter i g s).swap = s.swap := rfl
@[simp] theorem modMeter_fa (i : Nat) (g : Meter → Meter) : (modMeter i g s).fa = s.fa := rfl
@[simp] theorem modMeter_fb (i : Nat) (g : Meter → Meter) : (modMeter i g s).fb = s.fb := rfl
@[simp] theorem modMeter_hl (i : Nat) (g : Meter → Meter) : (modMeter i g s).hl = s.hl := rfl
@[simp] theorem modMeter_age (i : Nat) (g : Meter → Meter) : (modMeter i g s).age = s.age := rfl
@[simp] theorem modMeter_shadow (i : Nat) (g : Meter → Meter) : (modMeter i g s).shadow = s.shadow := rfl
@[simp] theorem modMeter_flush (i : Nat) (g : Meter → Meter) : (modMeter i g s).flush = s.flush := rfl
@[simp] theorem modMeter_memErr (i : Nat) (g : Meter → Meter) : (modMeter i g s).memErr = s.memErr := rfl
@[simp] theorem modMeter_corr48 (i : Nat) (g : Meter → Meter) : (modMeter i g s).corr48 = s.corr48 := rfl
@[simp] theorem modMeter_frames (i : Nat) (g : Meter → Meter) : (modMeter i g s).frames = s.frames := rfl
@[simp] theorem modMeter_gran (i : Nat) (g : Meter → Meter) : (modMeter i g s).gran = s.gran := rfl
@[simp] theorem modMeter_meters (i : Nat) (g : Meter → Meter) : (modMeter i g s).meters = tmod {} s.meters i g := rfl
@[simp] theorem modMeter_shapers (i : Nat) (g : Meter → Meter) : (modMeter i g s).shapers = s.shapers := rfl
@[simp] theorem modMeter_meterInvalid (i : Nat) (g : Meter → Meter) : (modMeter i g s).meterInvalid = s.meterInvalid := rfl
@[simp] theorem modMeter_red (i : Nat) (g : Meter → Meter) : (modMeter i g s).red = s.red := rfl
@[simp] theorem modMeter_imgLoad (i : Nat) (g : Meter → Meter) : (modMeter i g s).imgLoad = s.imgLoad := rfl
@[simp] theorem modMeter_gle (i : Nat) (g : Meter → Meter) : (modMeter i g s).gle = s.gle := rfl
@[simp] theorem modMeter_mirrors (i : Nat) (g : Meter → Meter) : (modMeter i g s).mirrors = s.mirrors := rfl
@[simp] theorem modMeter_stook (i : Nat) (g : Meter → Meter) : (modMeter i g s).stook = s.stook := rfl
@[simp] theorem modMeter_perf (i : Nat) (g : Meter → Meter) : (modMeter i g s).perf = s.perf := rfl
@[simp] theorem modMeter_deep (i : Nat) (g : Meter → Meter) : (modMeter i g s).deep = s.deep := rfl
@[simp] theorem modMeter_out (i : Nat) (g : Meter → Meter) : (modMeter i g s).out = s.out := rfl
@[simp] theorem modMeter_free (i : Nat) (g : Meter → Meter) : (modMeter i g s).free = s.free := rfl
@[simp] theorem modMeter_nextUid (i : Nat) (g : Meter → Meter) : (modMeter i g s).nextUid = s.nextUid := rfl

/-! ## modDev -/

@[simp] theorem modDev_pending (g : Device → Device) : (modDev g s).pending = s.pending := rfl
@[simp] theorem modDev_dev (g : Device → Device) : (modDev g s).dev = g s.dev := rfl
@[simp] theorem modDev_clk (g : Device → Device) : (modDev g s).clk = s.clk := rfl
@[simp] theorem modDev_slices (g : Device → Device) : (modDev g s).slices = s.slices := rfl
@[simp] theorem modDev_mir (g : Device → Device) : (modDev g s).mir = s.mir := rfl
@[simp] theorem modDev_sup (g : Device → Device) : (modDev g s).sup = s.sup := rfl
@[simp] theorem modDev_therm (g : Device → Device) : (modDev g s).therm = s.therm := rfl
@[simp] theorem modDev_pcie (g : Device → Device) : (modDev g s).pcie = s.pcie := rfl
@[simp] theorem modDev_nv (g : Device → Device) : (modDev g s).nv = s.nv := rfl
@[simp] theorem modDev_opt (g : Device → Device) : (modDev g s).opt = s.opt := rfl
@[simp] theorem modDev_ret (g : Device → Device) : (modDev g s).ret = s.ret := rfl
@[simp] theorem modDev_cp (g : Device → Device) : (modDev g s).cp = s.cp := rfl
@[simp] theorem modDev_spi (g : Device → Device) : (modDev g s).spi = s.spi := rfl
@[simp] theorem modDev_rings (g : Device → Device) : (modDev g s).rings = s.rings := rfl
@[simp] theorem modDev_hfr (g : Device → Device) : (modDev g s).hfr = s.hfr := rfl
@[simp] theorem modDev_win (g : Device → Device) : (modDev g s).win = s.win := rfl
@[simp] theorem modDev_ev (g : Device → Device) : (modDev g s).ev = s.ev := rfl
@[simp] theorem modDev_jr (g : Device → Device) : (modDev g s).jr = s.jr := rfl
@[simp] theorem modDev_tim (g : Device → Device) : (modDev g s).tim = s.tim := rfl
@[simp] theorem modDev_gpio (g : Device → Device) : (modDev g s).gpio = s.gpio := rfl
@[simp] theorem modDev_ports (g : Device → Device) : (modDev g s).ports = s.ports := rfl
@[simp] theorem modDev_lanes (g : Device → Device) : (modDev g s).lanes = s.lanes := rfl
@[simp] theorem modDev_i2c (g : Device → Device) : (modDev g s).i2c = s.i2c := rfl
@[simp] theorem modDev_mods (g : Device → Device) : (modDev g s).mods = s.mods := rfl
@[simp] theorem modDev_bankBit (g : Device → Device) : (modDev g s).bankBit = s.bankBit := rfl
@[simp] theorem modDev_swap (g : Device → Device) : (modDev g s).swap = s.swap := rfl
@[simp] theorem modDev_fa (g : Device → Device) : (modDev g s).fa = s.fa := rfl
@[simp] theorem modDev_fb (g : Device → Device) : (modDev g s).fb = s.fb := rfl
@[simp] theorem modDev_hl (g : Device → Device) : (modDev g s).hl = s.hl := rfl
@[simp] theorem modDev_age (g : Device → Device) : (modDev g s).age = s.age := rfl
@[simp] theorem modDev_shadow (g : Device → Device) : (modDev g s).shadow = s.shadow := rfl
@[simp] theorem modDev_flush (g : Device → Device) : (modDev g s).flush = s.flush := rfl
@[simp] theorem modDev_memErr (g : Device → Device) : (modDev g s).memErr = s.memErr := rfl
@[simp] theorem modDev_corr48 (g : Device → Device) : (modDev g s).corr48 = s.corr48 := rfl
@[simp] theorem modDev_frames (g : Device → Device) : (modDev g s).frames = s.frames := rfl
@[simp] theorem modDev_gran (g : Device → Device) : (modDev g s).gran = s.gran := rfl
@[simp] theorem modDev_meters (g : Device → Device) : (modDev g s).meters = s.meters := rfl
@[simp] theorem modDev_shapers (g : Device → Device) : (modDev g s).shapers = s.shapers := rfl
@[simp] theorem modDev_meterInvalid (g : Device → Device) : (modDev g s).meterInvalid = s.meterInvalid := rfl
@[simp] theorem modDev_red (g : Device → Device) : (modDev g s).red = s.red := rfl
@[simp] theorem modDev_imgLoad (g : Device → Device) : (modDev g s).imgLoad = s.imgLoad := rfl
@[simp] theorem modDev_gle (g : Device → Device) : (modDev g s).gle = s.gle := rfl
@[simp] theorem modDev_mirrors (g : Device → Device) : (modDev g s).mirrors = s.mirrors := rfl
@[simp] theorem modDev_stook (g : Device → Device) : (modDev g s).stook = s.stook := rfl
@[simp] theorem modDev_perf (g : Device → Device) : (modDev g s).perf = s.perf := rfl
@[simp] theorem modDev_deep (g : Device → Device) : (modDev g s).deep = s.deep := rfl
@[simp] theorem modDev_out (g : Device → Device) : (modDev g s).out = s.out := rfl
@[simp] theorem modDev_free (g : Device → Device) : (modDev g s).free = s.free := rfl
@[simp] theorem modDev_nextUid (g : Device → Device) : (modDev g s).nextUid = s.nextUid := rfl

/-! ## modClk -/

@[simp] theorem modClk_pending (g : Clocks → Clocks) : (modClk g s).pending = s.pending := rfl
@[simp] theorem modClk_dev (g : Clocks → Clocks) : (modClk g s).dev = s.dev := rfl
@[simp] theorem modClk_clk (g : Clocks → Clocks) : (modClk g s).clk = g s.clk := rfl
@[simp] theorem modClk_slices (g : Clocks → Clocks) : (modClk g s).slices = s.slices := rfl
@[simp] theorem modClk_mir (g : Clocks → Clocks) : (modClk g s).mir = s.mir := rfl
@[simp] theorem modClk_sup (g : Clocks → Clocks) : (modClk g s).sup = s.sup := rfl
@[simp] theorem modClk_therm (g : Clocks → Clocks) : (modClk g s).therm = s.therm := rfl
@[simp] theorem modClk_pcie (g : Clocks → Clocks) : (modClk g s).pcie = s.pcie := rfl
@[simp] theorem modClk_nv (g : Clocks → Clocks) : (modClk g s).nv = s.nv := rfl
@[simp] theorem modClk_opt (g : Clocks → Clocks) : (modClk g s).opt = s.opt := rfl
@[simp] theorem modClk_ret (g : Clocks → Clocks) : (modClk g s).ret = s.ret := rfl
@[simp] theorem modClk_cp (g : Clocks → Clocks) : (modClk g s).cp = s.cp := rfl
@[simp] theorem modClk_spi (g : Clocks → Clocks) : (modClk g s).spi = s.spi := rfl
@[simp] theorem modClk_rings (g : Clocks → Clocks) : (modClk g s).rings = s.rings := rfl
@[simp] theorem modClk_hfr (g : Clocks → Clocks) : (modClk g s).hfr = s.hfr := rfl
@[simp] theorem modClk_win (g : Clocks → Clocks) : (modClk g s).win = s.win := rfl
@[simp] theorem modClk_ev (g : Clocks → Clocks) : (modClk g s).ev = s.ev := rfl
@[simp] theorem modClk_jr (g : Clocks → Clocks) : (modClk g s).jr = s.jr := rfl
@[simp] theorem modClk_tim (g : Clocks → Clocks) : (modClk g s).tim = s.tim := rfl
@[simp] theorem modClk_gpio (g : Clocks → Clocks) : (modClk g s).gpio = s.gpio := rfl
@[simp] theorem modClk_ports (g : Clocks → Clocks) : (modClk g s).ports = s.ports := rfl
@[simp] theorem modClk_lanes (g : Clocks → Clocks) : (modClk g s).lanes = s.lanes := rfl
@[simp] theorem modClk_i2c (g : Clocks → Clocks) : (modClk g s).i2c = s.i2c := rfl
@[simp] theorem modClk_mods (g : Clocks → Clocks) : (modClk g s).mods = s.mods := rfl
@[simp] theorem modClk_bankBit (g : Clocks → Clocks) : (modClk g s).bankBit = s.bankBit := rfl
@[simp] theorem modClk_swap (g : Clocks → Clocks) : (modClk g s).swap = s.swap := rfl
@[simp] theorem modClk_fa (g : Clocks → Clocks) : (modClk g s).fa = s.fa := rfl
@[simp] theorem modClk_fb (g : Clocks → Clocks) : (modClk g s).fb = s.fb := rfl
@[simp] theorem modClk_hl (g : Clocks → Clocks) : (modClk g s).hl = s.hl := rfl
@[simp] theorem modClk_age (g : Clocks → Clocks) : (modClk g s).age = s.age := rfl
@[simp] theorem modClk_shadow (g : Clocks → Clocks) : (modClk g s).shadow = s.shadow := rfl
@[simp] theorem modClk_flush (g : Clocks → Clocks) : (modClk g s).flush = s.flush := rfl
@[simp] theorem modClk_memErr (g : Clocks → Clocks) : (modClk g s).memErr = s.memErr := rfl
@[simp] theorem modClk_corr48 (g : Clocks → Clocks) : (modClk g s).corr48 = s.corr48 := rfl
@[simp] theorem modClk_frames (g : Clocks → Clocks) : (modClk g s).frames = s.frames := rfl
@[simp] theorem modClk_gran (g : Clocks → Clocks) : (modClk g s).gran = s.gran := rfl
@[simp] theorem modClk_meters (g : Clocks → Clocks) : (modClk g s).meters = s.meters := rfl
@[simp] theorem modClk_shapers (g : Clocks → Clocks) : (modClk g s).shapers = s.shapers := rfl
@[simp] theorem modClk_meterInvalid (g : Clocks → Clocks) : (modClk g s).meterInvalid = s.meterInvalid := rfl
@[simp] theorem modClk_red (g : Clocks → Clocks) : (modClk g s).red = s.red := rfl
@[simp] theorem modClk_imgLoad (g : Clocks → Clocks) : (modClk g s).imgLoad = s.imgLoad := rfl
@[simp] theorem modClk_gle (g : Clocks → Clocks) : (modClk g s).gle = s.gle := rfl
@[simp] theorem modClk_mirrors (g : Clocks → Clocks) : (modClk g s).mirrors = s.mirrors := rfl
@[simp] theorem modClk_stook (g : Clocks → Clocks) : (modClk g s).stook = s.stook := rfl
@[simp] theorem modClk_perf (g : Clocks → Clocks) : (modClk g s).perf = s.perf := rfl
@[simp] theorem modClk_deep (g : Clocks → Clocks) : (modClk g s).deep = s.deep := rfl
@[simp] theorem modClk_out (g : Clocks → Clocks) : (modClk g s).out = s.out := rfl
@[simp] theorem modClk_free (g : Clocks → Clocks) : (modClk g s).free = s.free := rfl
@[simp] theorem modClk_nextUid (g : Clocks → Clocks) : (modClk g s).nextUid = s.nextUid := rfl

/-! ## modSlices -/

@[simp] theorem modSlices_pending (g : Slices → Slices) : (modSlices g s).pending = s.pending := rfl
@[simp] theorem modSlices_dev (g : Slices → Slices) : (modSlices g s).dev = s.dev := rfl
@[simp] theorem modSlices_clk (g : Slices → Slices) : (modSlices g s).clk = s.clk := rfl
@[simp] theorem modSlices_slices (g : Slices → Slices) : (modSlices g s).slices = g s.slices := rfl
@[simp] theorem modSlices_mir (g : Slices → Slices) : (modSlices g s).mir = s.mir := rfl
@[simp] theorem modSlices_sup (g : Slices → Slices) : (modSlices g s).sup = s.sup := rfl
@[simp] theorem modSlices_therm (g : Slices → Slices) : (modSlices g s).therm = s.therm := rfl
@[simp] theorem modSlices_pcie (g : Slices → Slices) : (modSlices g s).pcie = s.pcie := rfl
@[simp] theorem modSlices_nv (g : Slices → Slices) : (modSlices g s).nv = s.nv := rfl
@[simp] theorem modSlices_opt (g : Slices → Slices) : (modSlices g s).opt = s.opt := rfl
@[simp] theorem modSlices_ret (g : Slices → Slices) : (modSlices g s).ret = s.ret := rfl
@[simp] theorem modSlices_cp (g : Slices → Slices) : (modSlices g s).cp = s.cp := rfl
@[simp] theorem modSlices_spi (g : Slices → Slices) : (modSlices g s).spi = s.spi := rfl
@[simp] theorem modSlices_rings (g : Slices → Slices) : (modSlices g s).rings = s.rings := rfl
@[simp] theorem modSlices_hfr (g : Slices → Slices) : (modSlices g s).hfr = s.hfr := rfl
@[simp] theorem modSlices_win (g : Slices → Slices) : (modSlices g s).win = s.win := rfl
@[simp] theorem modSlices_ev (g : Slices → Slices) : (modSlices g s).ev = s.ev := rfl
@[simp] theorem modSlices_jr (g : Slices → Slices) : (modSlices g s).jr = s.jr := rfl
@[simp] theorem modSlices_tim (g : Slices → Slices) : (modSlices g s).tim = s.tim := rfl
@[simp] theorem modSlices_gpio (g : Slices → Slices) : (modSlices g s).gpio = s.gpio := rfl
@[simp] theorem modSlices_ports (g : Slices → Slices) : (modSlices g s).ports = s.ports := rfl
@[simp] theorem modSlices_lanes (g : Slices → Slices) : (modSlices g s).lanes = s.lanes := rfl
@[simp] theorem modSlices_i2c (g : Slices → Slices) : (modSlices g s).i2c = s.i2c := rfl
@[simp] theorem modSlices_mods (g : Slices → Slices) : (modSlices g s).mods = s.mods := rfl
@[simp] theorem modSlices_bankBit (g : Slices → Slices) : (modSlices g s).bankBit = s.bankBit := rfl
@[simp] theorem modSlices_swap (g : Slices → Slices) : (modSlices g s).swap = s.swap := rfl
@[simp] theorem modSlices_fa (g : Slices → Slices) : (modSlices g s).fa = s.fa := rfl
@[simp] theorem modSlices_fb (g : Slices → Slices) : (modSlices g s).fb = s.fb := rfl
@[simp] theorem modSlices_hl (g : Slices → Slices) : (modSlices g s).hl = s.hl := rfl
@[simp] theorem modSlices_age (g : Slices → Slices) : (modSlices g s).age = s.age := rfl
@[simp] theorem modSlices_shadow (g : Slices → Slices) : (modSlices g s).shadow = s.shadow := rfl
@[simp] theorem modSlices_flush (g : Slices → Slices) : (modSlices g s).flush = s.flush := rfl
@[simp] theorem modSlices_memErr (g : Slices → Slices) : (modSlices g s).memErr = s.memErr := rfl
@[simp] theorem modSlices_corr48 (g : Slices → Slices) : (modSlices g s).corr48 = s.corr48 := rfl
@[simp] theorem modSlices_frames (g : Slices → Slices) : (modSlices g s).frames = s.frames := rfl
@[simp] theorem modSlices_gran (g : Slices → Slices) : (modSlices g s).gran = s.gran := rfl
@[simp] theorem modSlices_meters (g : Slices → Slices) : (modSlices g s).meters = s.meters := rfl
@[simp] theorem modSlices_shapers (g : Slices → Slices) : (modSlices g s).shapers = s.shapers := rfl
@[simp] theorem modSlices_meterInvalid (g : Slices → Slices) : (modSlices g s).meterInvalid = s.meterInvalid := rfl
@[simp] theorem modSlices_red (g : Slices → Slices) : (modSlices g s).red = s.red := rfl
@[simp] theorem modSlices_imgLoad (g : Slices → Slices) : (modSlices g s).imgLoad = s.imgLoad := rfl
@[simp] theorem modSlices_gle (g : Slices → Slices) : (modSlices g s).gle = s.gle := rfl
@[simp] theorem modSlices_mirrors (g : Slices → Slices) : (modSlices g s).mirrors = s.mirrors := rfl
@[simp] theorem modSlices_stook (g : Slices → Slices) : (modSlices g s).stook = s.stook := rfl
@[simp] theorem modSlices_perf (g : Slices → Slices) : (modSlices g s).perf = s.perf := rfl
@[simp] theorem modSlices_deep (g : Slices → Slices) : (modSlices g s).deep = s.deep := rfl
@[simp] theorem modSlices_out (g : Slices → Slices) : (modSlices g s).out = s.out := rfl
@[simp] theorem modSlices_free (g : Slices → Slices) : (modSlices g s).free = s.free := rfl
@[simp] theorem modSlices_nextUid (g : Slices → Slices) : (modSlices g s).nextUid = s.nextUid := rfl

/-! ## modCp -/

@[simp] theorem modCp_pending (g : CmdProc → CmdProc) : (modCp g s).pending = s.pending := rfl
@[simp] theorem modCp_dev (g : CmdProc → CmdProc) : (modCp g s).dev = s.dev := rfl
@[simp] theorem modCp_clk (g : CmdProc → CmdProc) : (modCp g s).clk = s.clk := rfl
@[simp] theorem modCp_slices (g : CmdProc → CmdProc) : (modCp g s).slices = s.slices := rfl
@[simp] theorem modCp_mir (g : CmdProc → CmdProc) : (modCp g s).mir = s.mir := rfl
@[simp] theorem modCp_sup (g : CmdProc → CmdProc) : (modCp g s).sup = s.sup := rfl
@[simp] theorem modCp_therm (g : CmdProc → CmdProc) : (modCp g s).therm = s.therm := rfl
@[simp] theorem modCp_pcie (g : CmdProc → CmdProc) : (modCp g s).pcie = s.pcie := rfl
@[simp] theorem modCp_nv (g : CmdProc → CmdProc) : (modCp g s).nv = s.nv := rfl
@[simp] theorem modCp_opt (g : CmdProc → CmdProc) : (modCp g s).opt = s.opt := rfl
@[simp] theorem modCp_ret (g : CmdProc → CmdProc) : (modCp g s).ret = s.ret := rfl
@[simp] theorem modCp_cp (g : CmdProc → CmdProc) : (modCp g s).cp = g s.cp := rfl
@[simp] theorem modCp_spi (g : CmdProc → CmdProc) : (modCp g s).spi = s.spi := rfl
@[simp] theorem modCp_rings (g : CmdProc → CmdProc) : (modCp g s).rings = s.rings := rfl
@[simp] theorem modCp_hfr (g : CmdProc → CmdProc) : (modCp g s).hfr = s.hfr := rfl
@[simp] theorem modCp_win (g : CmdProc → CmdProc) : (modCp g s).win = s.win := rfl
@[simp] theorem modCp_ev (g : CmdProc → CmdProc) : (modCp g s).ev = s.ev := rfl
@[simp] theorem modCp_jr (g : CmdProc → CmdProc) : (modCp g s).jr = s.jr := rfl
@[simp] theorem modCp_tim (g : CmdProc → CmdProc) : (modCp g s).tim = s.tim := rfl
@[simp] theorem modCp_gpio (g : CmdProc → CmdProc) : (modCp g s).gpio = s.gpio := rfl
@[simp] theorem modCp_ports (g : CmdProc → CmdProc) : (modCp g s).ports = s.ports := rfl
@[simp] theorem modCp_lanes (g : CmdProc → CmdProc) : (modCp g s).lanes = s.lanes := rfl
@[simp] theorem modCp_i2c (g : CmdProc → CmdProc) : (modCp g s).i2c = s.i2c := rfl
@[simp] theorem modCp_mods (g : CmdProc → CmdProc) : (modCp g s).mods = s.mods := rfl
@[simp] theorem modCp_bankBit (g : CmdProc → CmdProc) : (modCp g s).bankBit = s.bankBit := rfl
@[simp] theorem modCp_swap (g : CmdProc → CmdProc) : (modCp g s).swap = s.swap := rfl
@[simp] theorem modCp_fa (g : CmdProc → CmdProc) : (modCp g s).fa = s.fa := rfl
@[simp] theorem modCp_fb (g : CmdProc → CmdProc) : (modCp g s).fb = s.fb := rfl
@[simp] theorem modCp_hl (g : CmdProc → CmdProc) : (modCp g s).hl = s.hl := rfl
@[simp] theorem modCp_age (g : CmdProc → CmdProc) : (modCp g s).age = s.age := rfl
@[simp] theorem modCp_shadow (g : CmdProc → CmdProc) : (modCp g s).shadow = s.shadow := rfl
@[simp] theorem modCp_flush (g : CmdProc → CmdProc) : (modCp g s).flush = s.flush := rfl
@[simp] theorem modCp_memErr (g : CmdProc → CmdProc) : (modCp g s).memErr = s.memErr := rfl
@[simp] theorem modCp_corr48 (g : CmdProc → CmdProc) : (modCp g s).corr48 = s.corr48 := rfl
@[simp] theorem modCp_frames (g : CmdProc → CmdProc) : (modCp g s).frames = s.frames := rfl
@[simp] theorem modCp_gran (g : CmdProc → CmdProc) : (modCp g s).gran = s.gran := rfl
@[simp] theorem modCp_meters (g : CmdProc → CmdProc) : (modCp g s).meters = s.meters := rfl
@[simp] theorem modCp_shapers (g : CmdProc → CmdProc) : (modCp g s).shapers = s.shapers := rfl
@[simp] theorem modCp_meterInvalid (g : CmdProc → CmdProc) : (modCp g s).meterInvalid = s.meterInvalid := rfl
@[simp] theorem modCp_red (g : CmdProc → CmdProc) : (modCp g s).red = s.red := rfl
@[simp] theorem modCp_imgLoad (g : CmdProc → CmdProc) : (modCp g s).imgLoad = s.imgLoad := rfl
@[simp] theorem modCp_gle (g : CmdProc → CmdProc) : (modCp g s).gle = s.gle := rfl
@[simp] theorem modCp_mirrors (g : CmdProc → CmdProc) : (modCp g s).mirrors = s.mirrors := rfl
@[simp] theorem modCp_stook (g : CmdProc → CmdProc) : (modCp g s).stook = s.stook := rfl
@[simp] theorem modCp_perf (g : CmdProc → CmdProc) : (modCp g s).perf = s.perf := rfl
@[simp] theorem modCp_deep (g : CmdProc → CmdProc) : (modCp g s).deep = s.deep := rfl
@[simp] theorem modCp_out (g : CmdProc → CmdProc) : (modCp g s).out = s.out := rfl
@[simp] theorem modCp_free (g : CmdProc → CmdProc) : (modCp g s).free = s.free := rfl
@[simp] theorem modCp_nextUid (g : CmdProc → CmdProc) : (modCp g s).nextUid = s.nextUid := rfl

/-! ## modTherm -/

@[simp] theorem modTherm_pending (g : Thermal → Thermal) : (modTherm g s).pending = s.pending := rfl
@[simp] theorem modTherm_dev (g : Thermal → Thermal) : (modTherm g s).dev = s.dev := rfl
@[simp] theorem modTherm_clk (g : Thermal → Thermal) : (modTherm g s).clk = s.clk := rfl
@[simp] theorem modTherm_slices (g : Thermal → Thermal) : (modTherm g s).slices = s.slices := rfl
@[simp] theorem modTherm_mir (g : Thermal → Thermal) : (modTherm g s).mir = s.mir := rfl
@[simp] theorem modTherm_sup (g : Thermal → Thermal) : (modTherm g s).sup = s.sup := rfl
@[simp] theorem modTherm_therm (g : Thermal → Thermal) : (modTherm g s).therm = g s.therm := rfl
@[simp] theorem modTherm_pcie (g : Thermal → Thermal) : (modTherm g s).pcie = s.pcie := rfl
@[simp] theorem modTherm_nv (g : Thermal → Thermal) : (modTherm g s).nv = s.nv := rfl
@[simp] theorem modTherm_opt (g : Thermal → Thermal) : (modTherm g s).opt = s.opt := rfl
@[simp] theorem modTherm_ret (g : Thermal → Thermal) : (modTherm g s).ret = s.ret := rfl
@[simp] theorem modTherm_cp (g : Thermal → Thermal) : (modTherm g s).cp = s.cp := rfl
@[simp] theorem modTherm_spi (g : Thermal → Thermal) : (modTherm g s).spi = s.spi := rfl
@[simp] theorem modTherm_rings (g : Thermal → Thermal) : (modTherm g s).rings = s.rings := rfl
@[simp] theorem modTherm_hfr (g : Thermal → Thermal) : (modTherm g s).hfr = s.hfr := rfl
@[simp] theorem modTherm_win (g : Thermal → Thermal) : (modTherm g s).win = s.win := rfl
@[simp] theorem modTherm_ev (g : Thermal → Thermal) : (modTherm g s).ev = s.ev := rfl
@[simp] theorem modTherm_jr (g : Thermal → Thermal) : (modTherm g s).jr = s.jr := rfl
@[simp] theorem modTherm_tim (g : Thermal → Thermal) : (modTherm g s).tim = s.tim := rfl
@[simp] theorem modTherm_gpio (g : Thermal → Thermal) : (modTherm g s).gpio = s.gpio := rfl
@[simp] theorem modTherm_ports (g : Thermal → Thermal) : (modTherm g s).ports = s.ports := rfl
@[simp] theorem modTherm_lanes (g : Thermal → Thermal) : (modTherm g s).lanes = s.lanes := rfl
@[simp] theorem modTherm_i2c (g : Thermal → Thermal) : (modTherm g s).i2c = s.i2c := rfl
@[simp] theorem modTherm_mods (g : Thermal → Thermal) : (modTherm g s).mods = s.mods := rfl
@[simp] theorem modTherm_bankBit (g : Thermal → Thermal) : (modTherm g s).bankBit = s.bankBit := rfl
@[simp] theorem modTherm_swap (g : Thermal → Thermal) : (modTherm g s).swap = s.swap := rfl
@[simp] theorem modTherm_fa (g : Thermal → Thermal) : (modTherm g s).fa = s.fa := rfl
@[simp] theorem modTherm_fb (g : Thermal → Thermal) : (modTherm g s).fb = s.fb := rfl
@[simp] theorem modTherm_hl (g : Thermal → Thermal) : (modTherm g s).hl = s.hl := rfl
@[simp] theorem modTherm_age (g : Thermal → Thermal) : (modTherm g s).age = s.age := rfl
@[simp] theorem modTherm_shadow (g : Thermal → Thermal) : (modTherm g s).shadow = s.shadow := rfl
@[simp] theorem modTherm_flush (g : Thermal → Thermal) : (modTherm g s).flush = s.flush := rfl
@[simp] theorem modTherm_memErr (g : Thermal → Thermal) : (modTherm g s).memErr = s.memErr := rfl
@[simp] theorem modTherm_corr48 (g : Thermal → Thermal) : (modTherm g s).corr48 = s.corr48 := rfl
@[simp] theorem modTherm_frames (g : Thermal → Thermal) : (modTherm g s).frames = s.frames := rfl
@[simp] theorem modTherm_gran (g : Thermal → Thermal) : (modTherm g s).gran = s.gran := rfl
@[simp] theorem modTherm_meters (g : Thermal → Thermal) : (modTherm g s).meters = s.meters := rfl
@[simp] theorem modTherm_shapers (g : Thermal → Thermal) : (modTherm g s).shapers = s.shapers := rfl
@[simp] theorem modTherm_meterInvalid (g : Thermal → Thermal) : (modTherm g s).meterInvalid = s.meterInvalid := rfl
@[simp] theorem modTherm_red (g : Thermal → Thermal) : (modTherm g s).red = s.red := rfl
@[simp] theorem modTherm_imgLoad (g : Thermal → Thermal) : (modTherm g s).imgLoad = s.imgLoad := rfl
@[simp] theorem modTherm_gle (g : Thermal → Thermal) : (modTherm g s).gle = s.gle := rfl
@[simp] theorem modTherm_mirrors (g : Thermal → Thermal) : (modTherm g s).mirrors = s.mirrors := rfl
@[simp] theorem modTherm_stook (g : Thermal → Thermal) : (modTherm g s).stook = s.stook := rfl
@[simp] theorem modTherm_perf (g : Thermal → Thermal) : (modTherm g s).perf = s.perf := rfl
@[simp] theorem modTherm_deep (g : Thermal → Thermal) : (modTherm g s).deep = s.deep := rfl
@[simp] theorem modTherm_out (g : Thermal → Thermal) : (modTherm g s).out = s.out := rfl
@[simp] theorem modTherm_free (g : Thermal → Thermal) : (modTherm g s).free = s.free := rfl
@[simp] theorem modTherm_nextUid (g : Thermal → Thermal) : (modTherm g s).nextUid = s.nextUid := rfl

/-! ## modPcie -/

@[simp] theorem modPcie_pending (g : Pcie → Pcie) : (modPcie g s).pending = s.pending := rfl
@[simp] theorem modPcie_dev (g : Pcie → Pcie) : (modPcie g s).dev = s.dev := rfl
@[simp] theorem modPcie_clk (g : Pcie → Pcie) : (modPcie g s).clk = s.clk := rfl
@[simp] theorem modPcie_slices (g : Pcie → Pcie) : (modPcie g s).slices = s.slices := rfl
@[simp] theorem modPcie_mir (g : Pcie → Pcie) : (modPcie g s).mir = s.mir := rfl
@[simp] theorem modPcie_sup (g : Pcie → Pcie) : (modPcie g s).sup = s.sup := rfl
@[simp] theorem modPcie_therm (g : Pcie → Pcie) : (modPcie g s).therm = s.therm := rfl
@[simp] theorem modPcie_pcie (g : Pcie → Pcie) : (modPcie g s).pcie = g s.pcie := rfl
@[simp] theorem modPcie_nv (g : Pcie → Pcie) : (modPcie g s).nv = s.nv := rfl
@[simp] theorem modPcie_opt (g : Pcie → Pcie) : (modPcie g s).opt = s.opt := rfl
@[simp] theorem modPcie_ret (g : Pcie → Pcie) : (modPcie g s).ret = s.ret := rfl
@[simp] theorem modPcie_cp (g : Pcie → Pcie) : (modPcie g s).cp = s.cp := rfl
@[simp] theorem modPcie_spi (g : Pcie → Pcie) : (modPcie g s).spi = s.spi := rfl
@[simp] theorem modPcie_rings (g : Pcie → Pcie) : (modPcie g s).rings = s.rings := rfl
@[simp] theorem modPcie_hfr (g : Pcie → Pcie) : (modPcie g s).hfr = s.hfr := rfl
@[simp] theorem modPcie_win (g : Pcie → Pcie) : (modPcie g s).win = s.win := rfl
@[simp] theorem modPcie_ev (g : Pcie → Pcie) : (modPcie g s).ev = s.ev := rfl
@[simp] theorem modPcie_jr (g : Pcie → Pcie) : (modPcie g s).jr = s.jr := rfl
@[simp] theorem modPcie_tim (g : Pcie → Pcie) : (modPcie g s).tim = s.tim := rfl
@[simp] theorem modPcie_gpio (g : Pcie → Pcie) : (modPcie g s).gpio = s.gpio := rfl
@[simp] theorem modPcie_ports (g : Pcie → Pcie) : (modPcie g s).ports = s.ports := rfl
@[simp] theorem modPcie_lanes (g : Pcie → Pcie) : (modPcie g s).lanes = s.lanes := rfl
@[simp] theorem modPcie_i2c (g : Pcie → Pcie) : (modPcie g s).i2c = s.i2c := rfl
@[simp] theorem modPcie_mods (g : Pcie → Pcie) : (modPcie g s).mods = s.mods := rfl
@[simp] theorem modPcie_bankBit (g : Pcie → Pcie) : (modPcie g s).bankBit = s.bankBit := rfl
@[simp] theorem modPcie_swap (g : Pcie → Pcie) : (modPcie g s).swap = s.swap := rfl
@[simp] theorem modPcie_fa (g : Pcie → Pcie) : (modPcie g s).fa = s.fa := rfl
@[simp] theorem modPcie_fb (g : Pcie → Pcie) : (modPcie g s).fb = s.fb := rfl
@[simp] theorem modPcie_hl (g : Pcie → Pcie) : (modPcie g s).hl = s.hl := rfl
@[simp] theorem modPcie_age (g : Pcie → Pcie) : (modPcie g s).age = s.age := rfl
@[simp] theorem modPcie_shadow (g : Pcie → Pcie) : (modPcie g s).shadow = s.shadow := rfl
@[simp] theorem modPcie_flush (g : Pcie → Pcie) : (modPcie g s).flush = s.flush := rfl
@[simp] theorem modPcie_memErr (g : Pcie → Pcie) : (modPcie g s).memErr = s.memErr := rfl
@[simp] theorem modPcie_corr48 (g : Pcie → Pcie) : (modPcie g s).corr48 = s.corr48 := rfl
@[simp] theorem modPcie_frames (g : Pcie → Pcie) : (modPcie g s).frames = s.frames := rfl
@[simp] theorem modPcie_gran (g : Pcie → Pcie) : (modPcie g s).gran = s.gran := rfl
@[simp] theorem modPcie_meters (g : Pcie → Pcie) : (modPcie g s).meters = s.meters := rfl
@[simp] theorem modPcie_shapers (g : Pcie → Pcie) : (modPcie g s).shapers = s.shapers := rfl
@[simp] theorem modPcie_meterInvalid (g : Pcie → Pcie) : (modPcie g s).meterInvalid = s.meterInvalid := rfl
@[simp] theorem modPcie_red (g : Pcie → Pcie) : (modPcie g s).red = s.red := rfl
@[simp] theorem modPcie_imgLoad (g : Pcie → Pcie) : (modPcie g s).imgLoad = s.imgLoad := rfl
@[simp] theorem modPcie_gle (g : Pcie → Pcie) : (modPcie g s).gle = s.gle := rfl
@[simp] theorem modPcie_mirrors (g : Pcie → Pcie) : (modPcie g s).mirrors = s.mirrors := rfl
@[simp] theorem modPcie_stook (g : Pcie → Pcie) : (modPcie g s).stook = s.stook := rfl
@[simp] theorem modPcie_perf (g : Pcie → Pcie) : (modPcie g s).perf = s.perf := rfl
@[simp] theorem modPcie_deep (g : Pcie → Pcie) : (modPcie g s).deep = s.deep := rfl
@[simp] theorem modPcie_out (g : Pcie → Pcie) : (modPcie g s).out = s.out := rfl
@[simp] theorem modPcie_free (g : Pcie → Pcie) : (modPcie g s).free = s.free := rfl
@[simp] theorem modPcie_nextUid (g : Pcie → Pcie) : (modPcie g s).nextUid = s.nextUid := rfl

/-! ## modStook -/

@[simp] theorem modStook_pending (g : Stook → Stook) : (modStook g s).pending = s.pending := rfl
@[simp] theorem modStook_dev (g : Stook → Stook) : (modStook g s).dev = s.dev := rfl
@[simp] theorem modStook_clk (g : Stook → Stook) : (modStook g s).clk = s.clk := rfl
@[simp] theorem modStook_slices (g : Stook → Stook) : (modStook g s).slices = s.slices := rfl
@[simp] theorem modStook_mir (g : Stook → Stook) : (modStook g s).mir = s.mir := rfl
@[simp] theorem modStook_sup (g : Stook → Stook) : (modStook g s).sup = s.sup := rfl
@[simp] theorem modStook_therm (g : Stook → Stook) : (modStook g s).therm = s.therm := rfl
@[simp] theorem modStook_pcie (g : Stook → Stook) : (modStook g s).pcie = s.pcie := rfl
@[simp] theorem modStook_nv (g : Stook → Stook) : (modStook g s).nv = s.nv := rfl
@[simp] theorem modStook_opt (g : Stook → Stook) : (modStook g s).opt = s.opt := rfl
@[simp] theorem modStook_ret (g : Stook → Stook) : (modStook g s).ret = s.ret := rfl
@[simp] theorem modStook_cp (g : Stook → Stook) : (modStook g s).cp = s.cp := rfl
@[simp] theorem modStook_spi (g : Stook → Stook) : (modStook g s).spi = s.spi := rfl
@[simp] theorem modStook_rings (g : Stook → Stook) : (modStook g s).rings = s.rings := rfl
@[simp] theorem modStook_hfr (g : Stook → Stook) : (modStook g s).hfr = s.hfr := rfl
@[simp] theorem modStook_win (g : Stook → Stook) : (modStook g s).win = s.win := rfl
@[simp] theorem modStook_ev (g : Stook → Stook) : (modStook g s).ev = s.ev := rfl
@[simp] theorem modStook_jr (g : Stook → Stook) : (modStook g s).jr = s.jr := rfl
@[simp] theorem modStook_tim (g : Stook → Stook) : (modStook g s).tim = s.tim := rfl
@[simp] theorem modStook_gpio (g : Stook → Stook) : (modStook g s).gpio = s.gpio := rfl
@[simp] theorem modStook_ports (g : Stook → Stook) : (modStook g s).ports = s.ports := rfl
@[simp] theorem modStook_lanes (g : Stook → Stook) : (modStook g s).lanes = s.lanes := rfl
@[simp] theorem modStook_i2c (g : Stook → Stook) : (modStook g s).i2c = s.i2c := rfl
@[simp] theorem modStook_mods (g : Stook → Stook) : (modStook g s).mods = s.mods := rfl
@[simp] theorem modStook_bankBit (g : Stook → Stook) : (modStook g s).bankBit = s.bankBit := rfl
@[simp] theorem modStook_swap (g : Stook → Stook) : (modStook g s).swap = s.swap := rfl
@[simp] theorem modStook_fa (g : Stook → Stook) : (modStook g s).fa = s.fa := rfl
@[simp] theorem modStook_fb (g : Stook → Stook) : (modStook g s).fb = s.fb := rfl
@[simp] theorem modStook_hl (g : Stook → Stook) : (modStook g s).hl = s.hl := rfl
@[simp] theorem modStook_age (g : Stook → Stook) : (modStook g s).age = s.age := rfl
@[simp] theorem modStook_shadow (g : Stook → Stook) : (modStook g s).shadow = s.shadow := rfl
@[simp] theorem modStook_flush (g : Stook → Stook) : (modStook g s).flush = s.flush := rfl
@[simp] theorem modStook_memErr (g : Stook → Stook) : (modStook g s).memErr = s.memErr := rfl
@[simp] theorem modStook_corr48 (g : Stook → Stook) : (modStook g s).corr48 = s.corr48 := rfl
@[simp] theorem modStook_frames (g : Stook → Stook) : (modStook g s).frames = s.frames := rfl
@[simp] theorem modStook_gran (g : Stook → Stook) : (modStook g s).gran = s.gran := rfl
@[simp] theorem modStook_meters (g : Stook → Stook) : (modStook g s).meters = s.meters := rfl
@[simp] theorem modStook_shapers (g : Stook → Stook) : (modStook g s).shapers = s.shapers := rfl
@[simp] theorem modStook_meterInvalid (g : Stook → Stook) : (modStook g s).meterInvalid = s.meterInvalid := rfl
@[simp] theorem modStook_red (g : Stook → Stook) : (modStook g s).red = s.red := rfl
@[simp] theorem modStook_imgLoad (g : Stook → Stook) : (modStook g s).imgLoad = s.imgLoad := rfl
@[simp] theorem modStook_gle (g : Stook → Stook) : (modStook g s).gle = s.gle := rfl
@[simp] theorem modStook_mirrors (g : Stook → Stook) : (modStook g s).mirrors = s.mirrors := rfl
@[simp] theorem modStook_stook (g : Stook → Stook) : (modStook g s).stook = g s.stook := rfl
@[simp] theorem modStook_perf (g : Stook → Stook) : (modStook g s).perf = s.perf := rfl
@[simp] theorem modStook_deep (g : Stook → Stook) : (modStook g s).deep = s.deep := rfl
@[simp] theorem modStook_out (g : Stook → Stook) : (modStook g s).out = s.out := rfl
@[simp] theorem modStook_free (g : Stook → Stook) : (modStook g s).free = s.free := rfl
@[simp] theorem modStook_nextUid (g : Stook → Stook) : (modStook g s).nextUid = s.nextUid := rfl

/-! ## modTim -/

@[simp] theorem modTim_pending (g : TimeState → TimeState) : (modTim g s).pending = s.pending := rfl
@[simp] theorem modTim_dev (g : TimeState → TimeState) : (modTim g s).dev = s.dev := rfl
@[simp] theorem modTim_clk (g : TimeState → TimeState) : (modTim g s).clk = s.clk := rfl
@[simp] theorem modTim_slices (g : TimeState → TimeState) : (modTim g s).slices = s.slices := rfl
@[simp] theorem modTim_mir (g : TimeState → TimeState) : (modTim g s).mir = s.mir := rfl
@[simp] theorem modTim_sup (g : TimeState → TimeState) : (modTim g s).sup = s.sup := rfl
@[simp] theorem modTim_therm (g : TimeState → TimeState) : (modTim g s).therm = s.therm := rfl
@[simp] theorem modTim_pcie (g : TimeState → TimeState) : (modTim g s).pcie = s.pcie := rfl
@[simp] theorem modTim_nv (g : TimeState → TimeState) : (modTim g s).nv = s.nv := rfl
@[simp] theorem modTim_opt (g : TimeState → TimeState) : (modTim g s).opt = s.opt := rfl
@[simp] theorem modTim_ret (g : TimeState → TimeState) : (modTim g s).ret = s.ret := rfl
@[simp] theorem modTim_cp (g : TimeState → TimeState) : (modTim g s).cp = s.cp := rfl
@[simp] theorem modTim_spi (g : TimeState → TimeState) : (modTim g s).spi = s.spi := rfl
@[simp] theorem modTim_rings (g : TimeState → TimeState) : (modTim g s).rings = s.rings := rfl
@[simp] theorem modTim_hfr (g : TimeState → TimeState) : (modTim g s).hfr = s.hfr := rfl
@[simp] theorem modTim_win (g : TimeState → TimeState) : (modTim g s).win = s.win := rfl
@[simp] theorem modTim_ev (g : TimeState → TimeState) : (modTim g s).ev = s.ev := rfl
@[simp] theorem modTim_jr (g : TimeState → TimeState) : (modTim g s).jr = s.jr := rfl
@[simp] theorem modTim_tim (g : TimeState → TimeState) : (modTim g s).tim = g s.tim := rfl
@[simp] theorem modTim_gpio (g : TimeState → TimeState) : (modTim g s).gpio = s.gpio := rfl
@[simp] theorem modTim_ports (g : TimeState → TimeState) : (modTim g s).ports = s.ports := rfl
@[simp] theorem modTim_lanes (g : TimeState → TimeState) : (modTim g s).lanes = s.lanes := rfl
@[simp] theorem modTim_i2c (g : TimeState → TimeState) : (modTim g s).i2c = s.i2c := rfl
@[simp] theorem modTim_mods (g : TimeState → TimeState) : (modTim g s).mods = s.mods := rfl
@[simp] theorem modTim_bankBit (g : TimeState → TimeState) : (modTim g s).bankBit = s.bankBit := rfl
@[simp] theorem modTim_swap (g : TimeState → TimeState) : (modTim g s).swap = s.swap := rfl
@[simp] theorem modTim_fa (g : TimeState → TimeState) : (modTim g s).fa = s.fa := rfl
@[simp] theorem modTim_fb (g : TimeState → TimeState) : (modTim g s).fb = s.fb := rfl
@[simp] theorem modTim_hl (g : TimeState → TimeState) : (modTim g s).hl = s.hl := rfl
@[simp] theorem modTim_age (g : TimeState → TimeState) : (modTim g s).age = s.age := rfl
@[simp] theorem modTim_shadow (g : TimeState → TimeState) : (modTim g s).shadow = s.shadow := rfl
@[simp] theorem modTim_flush (g : TimeState → TimeState) : (modTim g s).flush = s.flush := rfl
@[simp] theorem modTim_memErr (g : TimeState → TimeState) : (modTim g s).memErr = s.memErr := rfl
@[simp] theorem modTim_corr48 (g : TimeState → TimeState) : (modTim g s).corr48 = s.corr48 := rfl
@[simp] theorem modTim_frames (g : TimeState → TimeState) : (modTim g s).frames = s.frames := rfl
@[simp] theorem modTim_gran (g : TimeState → TimeState) : (modTim g s).gran = s.gran := rfl
@[simp] theorem modTim_meters (g : TimeState → TimeState) : (modTim g s).meters = s.meters := rfl
@[simp] theorem modTim_shapers (g : TimeState → TimeState) : (modTim g s).shapers = s.shapers := rfl
@[simp] theorem modTim_meterInvalid (g : TimeState → TimeState) : (modTim g s).meterInvalid = s.meterInvalid := rfl
@[simp] theorem modTim_red (g : TimeState → TimeState) : (modTim g s).red = s.red := rfl
@[simp] theorem modTim_imgLoad (g : TimeState → TimeState) : (modTim g s).imgLoad = s.imgLoad := rfl
@[simp] theorem modTim_gle (g : TimeState → TimeState) : (modTim g s).gle = s.gle := rfl
@[simp] theorem modTim_mirrors (g : TimeState → TimeState) : (modTim g s).mirrors = s.mirrors := rfl
@[simp] theorem modTim_stook (g : TimeState → TimeState) : (modTim g s).stook = s.stook := rfl
@[simp] theorem modTim_perf (g : TimeState → TimeState) : (modTim g s).perf = s.perf := rfl
@[simp] theorem modTim_deep (g : TimeState → TimeState) : (modTim g s).deep = s.deep := rfl
@[simp] theorem modTim_out (g : TimeState → TimeState) : (modTim g s).out = s.out := rfl
@[simp] theorem modTim_free (g : TimeState → TimeState) : (modTim g s).free = s.free := rfl
@[simp] theorem modTim_nextUid (g : TimeState → TimeState) : (modTim g s).nextUid = s.nextUid := rfl

/-! ## modGran -/

@[simp] theorem modGran_pending (g : Granary → Granary) : (modGran g s).pending = s.pending := rfl
@[simp] theorem modGran_dev (g : Granary → Granary) : (modGran g s).dev = s.dev := rfl
@[simp] theorem modGran_clk (g : Granary → Granary) : (modGran g s).clk = s.clk := rfl
@[simp] theorem modGran_slices (g : Granary → Granary) : (modGran g s).slices = s.slices := rfl
@[simp] theorem modGran_mir (g : Granary → Granary) : (modGran g s).mir = s.mir := rfl
@[simp] theorem modGran_sup (g : Granary → Granary) : (modGran g s).sup = s.sup := rfl
@[simp] theorem modGran_therm (g : Granary → Granary) : (modGran g s).therm = s.therm := rfl
@[simp] theorem modGran_pcie (g : Granary → Granary) : (modGran g s).pcie = s.pcie := rfl
@[simp] theorem modGran_nv (g : Granary → Granary) : (modGran g s).nv = s.nv := rfl
@[simp] theorem modGran_opt (g : Granary → Granary) : (modGran g s).opt = s.opt := rfl
@[simp] theorem modGran_ret (g : Granary → Granary) : (modGran g s).ret = s.ret := rfl
@[simp] theorem modGran_cp (g : Granary → Granary) : (modGran g s).cp = s.cp := rfl
@[simp] theorem modGran_spi (g : Granary → Granary) : (modGran g s).spi = s.spi := rfl
@[simp] theorem modGran_rings (g : Granary → Granary) : (modGran g s).rings = s.rings := rfl
@[simp] theorem modGran_hfr (g : Granary → Granary) : (modGran g s).hfr = s.hfr := rfl
@[simp] theorem modGran_win (g : Granary → Granary) : (modGran g s).win = s.win := rfl
@[simp] theorem modGran_ev (g : Granary → Granary) : (modGran g s).ev = s.ev := rfl
@[simp] theorem modGran_jr (g : Granary → Granary) : (modGran g s).jr = s.jr := rfl
@[simp] theorem modGran_tim (g : Granary → Granary) : (modGran g s).tim = s.tim := rfl
@[simp] theorem modGran_gpio (g : Granary → Granary) : (modGran g s).gpio = s.gpio := rfl
@[simp] theorem modGran_ports (g : Granary → Granary) : (modGran g s).ports = s.ports := rfl
@[simp] theorem modGran_lanes (g : Granary → Granary) : (modGran g s).lanes = s.lanes := rfl
@[simp] theorem modGran_i2c (g : Granary → Granary) : (modGran g s).i2c = s.i2c := rfl
@[simp] theorem modGran_mods (g : Granary → Granary) : (modGran g s).mods = s.mods := rfl
@[simp] theorem modGran_bankBit (g : Granary → Granary) : (modGran g s).bankBit = s.bankBit := rfl
@[simp] theorem modGran_swap (g : Granary → Granary) : (modGran g s).swap = s.swap := rfl
@[simp] theorem modGran_fa (g : Granary → Granary) : (modGran g s).fa = s.fa := rfl
@[simp] theorem modGran_fb (g : Granary → Granary) : (modGran g s).fb = s.fb := rfl
@[simp] theorem modGran_hl (g : Granary → Granary) : (modGran g s).hl = s.hl := rfl
@[simp] theorem modGran_age (g : Granary → Granary) : (modGran g s).age = s.age := rfl
@[simp] theorem modGran_shadow (g : Granary → Granary) : (modGran g s).shadow = s.shadow := rfl
@[simp] theorem modGran_flush (g : Granary → Granary) : (modGran g s).flush = s.flush := rfl
@[simp] theorem modGran_memErr (g : Granary → Granary) : (modGran g s).memErr = s.memErr := rfl
@[simp] theorem modGran_corr48 (g : Granary → Granary) : (modGran g s).corr48 = s.corr48 := rfl
@[simp] theorem modGran_frames (g : Granary → Granary) : (modGran g s).frames = s.frames := rfl
@[simp] theorem modGran_gran (g : Granary → Granary) : (modGran g s).gran = g s.gran := rfl
@[simp] theorem modGran_meters (g : Granary → Granary) : (modGran g s).meters = s.meters := rfl
@[simp] theorem modGran_shapers (g : Granary → Granary) : (modGran g s).shapers = s.shapers := rfl
@[simp] theorem modGran_meterInvalid (g : Granary → Granary) : (modGran g s).meterInvalid = s.meterInvalid := rfl
@[simp] theorem modGran_red (g : Granary → Granary) : (modGran g s).red = s.red := rfl
@[simp] theorem modGran_imgLoad (g : Granary → Granary) : (modGran g s).imgLoad = s.imgLoad := rfl
@[simp] theorem modGran_gle (g : Granary → Granary) : (modGran g s).gle = s.gle := rfl
@[simp] theorem modGran_mirrors (g : Granary → Granary) : (modGran g s).mirrors = s.mirrors := rfl
@[simp] theorem modGran_stook (g : Granary → Granary) : (modGran g s).stook = s.stook := rfl
@[simp] theorem modGran_perf (g : Granary → Granary) : (modGran g s).perf = s.perf := rfl
@[simp] theorem modGran_deep (g : Granary → Granary) : (modGran g s).deep = s.deep := rfl
@[simp] theorem modGran_out (g : Granary → Granary) : (modGran g s).out = s.out := rfl
@[simp] theorem modGran_free (g : Granary → Granary) : (modGran g s).free = s.free := rfl
@[simp] theorem modGran_nextUid (g : Granary → Granary) : (modGran g s).nextUid = s.nextUid := rfl

/-! ## modGle -/

@[simp] theorem modGle_pending (g : Gleaner → Gleaner) : (modGle g s).pending = s.pending := rfl
@[simp] theorem modGle_dev (g : Gleaner → Gleaner) : (modGle g s).dev = s.dev := rfl
@[simp] theorem modGle_clk (g : Gleaner → Gleaner) : (modGle g s).clk = s.clk := rfl
@[simp] theorem modGle_slices (g : Gleaner → Gleaner) : (modGle g s).slices = s.slices := rfl
@[simp] theorem modGle_mir (g : Gleaner → Gleaner) : (modGle g s).mir = s.mir := rfl
@[simp] theorem modGle_sup (g : Gleaner → Gleaner) : (modGle g s).sup = s.sup := rfl
@[simp] theorem modGle_therm (g : Gleaner → Gleaner) : (modGle g s).therm = s.therm := rfl
@[simp] theorem modGle_pcie (g : Gleaner → Gleaner) : (modGle g s).pcie = s.pcie := rfl
@[simp] theorem modGle_nv (g : Gleaner → Gleaner) : (modGle g s).nv = s.nv := rfl
@[simp] theorem modGle_opt (g : Gleaner → Gleaner) : (modGle g s).opt = s.opt := rfl
@[simp] theorem modGle_ret (g : Gleaner → Gleaner) : (modGle g s).ret = s.ret := rfl
@[simp] theorem modGle_cp (g : Gleaner → Gleaner) : (modGle g s).cp = s.cp := rfl
@[simp] theorem modGle_spi (g : Gleaner → Gleaner) : (modGle g s).spi = s.spi := rfl
@[simp] theorem modGle_rings (g : Gleaner → Gleaner) : (modGle g s).rings = s.rings := rfl
@[simp] theorem modGle_hfr (g : Gleaner → Gleaner) : (modGle g s).hfr = s.hfr := rfl
@[simp] theorem modGle_win (g : Gleaner → Gleaner) : (modGle g s).win = s.win := rfl
@[simp] theorem modGle_ev (g : Gleaner → Gleaner) : (modGle g s).ev = s.ev := rfl
@[simp] theorem modGle_jr (g : Gleaner → Gleaner) : (modGle g s).jr = s.jr := rfl
@[simp] theorem modGle_tim (g : Gleaner → Gleaner) : (modGle g s).tim = s.tim := rfl
@[simp] theorem modGle_gpio (g : Gleaner → Gleaner) : (modGle g s).gpio = s.gpio := rfl
@[simp] theorem modGle_ports (g : Gleaner → Gleaner) : (modGle g s).ports = s.ports := rfl
@[simp] theorem modGle_lanes (g : Gleaner → Gleaner) : (modGle g s).lanes = s.lanes := rfl
@[simp] theorem modGle_i2c (g : Gleaner → Gleaner) : (modGle g s).i2c = s.i2c := rfl
@[simp] theorem modGle_mods (g : Gleaner → Gleaner) : (modGle g s).mods = s.mods := rfl
@[simp] theorem modGle_bankBit (g : Gleaner → Gleaner) : (modGle g s).bankBit = s.bankBit := rfl
@[simp] theorem modGle_swap (g : Gleaner → Gleaner) : (modGle g s).swap = s.swap := rfl
@[simp] theorem modGle_fa (g : Gleaner → Gleaner) : (modGle g s).fa = s.fa := rfl
@[simp] theorem modGle_fb (g : Gleaner → Gleaner) : (modGle g s).fb = s.fb := rfl
@[simp] theorem modGle_hl (g : Gleaner → Gleaner) : (modGle g s).hl = s.hl := rfl
@[simp] theorem modGle_age (g : Gleaner → Gleaner) : (modGle g s).age = s.age := rfl
@[simp] theorem modGle_shadow (g : Gleaner → Gleaner) : (modGle g s).shadow = s.shadow := rfl
@[simp] theorem modGle_flush (g : Gleaner → Gleaner) : (modGle g s).flush = s.flush := rfl
@[simp] theorem modGle_memErr (g : Gleaner → Gleaner) : (modGle g s).memErr = s.memErr := rfl
@[simp] theorem modGle_corr48 (g : Gleaner → Gleaner) : (modGle g s).corr48 = s.corr48 := rfl
@[simp] theorem modGle_frames (g : Gleaner → Gleaner) : (modGle g s).frames = s.frames := rfl
@[simp] theorem modGle_gran (g : Gleaner → Gleaner) : (modGle g s).gran = s.gran := rfl
@[simp] theorem modGle_meters (g : Gleaner → Gleaner) : (modGle g s).meters = s.meters := rfl
@[simp] theorem modGle_shapers (g : Gleaner → Gleaner) : (modGle g s).shapers = s.shapers := rfl
@[simp] theorem modGle_meterInvalid (g : Gleaner → Gleaner) : (modGle g s).meterInvalid = s.meterInvalid := rfl
@[simp] theorem modGle_red (g : Gleaner → Gleaner) : (modGle g s).red = s.red := rfl
@[simp] theorem modGle_imgLoad (g : Gleaner → Gleaner) : (modGle g s).imgLoad = s.imgLoad := rfl
@[simp] theorem modGle_gle (g : Gleaner → Gleaner) : (modGle g s).gle = g s.gle := rfl
@[simp] theorem modGle_mirrors (g : Gleaner → Gleaner) : (modGle g s).mirrors = s.mirrors := rfl
@[simp] theorem modGle_stook (g : Gleaner → Gleaner) : (modGle g s).stook = s.stook := rfl
@[simp] theorem modGle_perf (g : Gleaner → Gleaner) : (modGle g s).perf = s.perf := rfl
@[simp] theorem modGle_deep (g : Gleaner → Gleaner) : (modGle g s).deep = s.deep := rfl
@[simp] theorem modGle_out (g : Gleaner → Gleaner) : (modGle g s).out = s.out := rfl
@[simp] theorem modGle_free (g : Gleaner → Gleaner) : (modGle g s).free = s.free := rfl
@[simp] theorem modGle_nextUid (g : Gleaner → Gleaner) : (modGle g s).nextUid = s.nextUid := rfl

/-! ## modDeep -/

@[simp] theorem modDeep_pending (g : Deep → Deep) : (modDeep g s).pending = s.pending := rfl
@[simp] theorem modDeep_dev (g : Deep → Deep) : (modDeep g s).dev = s.dev := rfl
@[simp] theorem modDeep_clk (g : Deep → Deep) : (modDeep g s).clk = s.clk := rfl
@[simp] theorem modDeep_slices (g : Deep → Deep) : (modDeep g s).slices = s.slices := rfl
@[simp] theorem modDeep_mir (g : Deep → Deep) : (modDeep g s).mir = s.mir := rfl
@[simp] theorem modDeep_sup (g : Deep → Deep) : (modDeep g s).sup = s.sup := rfl
@[simp] theorem modDeep_therm (g : Deep → Deep) : (modDeep g s).therm = s.therm := rfl
@[simp] theorem modDeep_pcie (g : Deep → Deep) : (modDeep g s).pcie = s.pcie := rfl
@[simp] theorem modDeep_nv (g : Deep → Deep) : (modDeep g s).nv = s.nv := rfl
@[simp] theorem modDeep_opt (g : Deep → Deep) : (modDeep g s).opt = s.opt := rfl
@[simp] theorem modDeep_ret (g : Deep → Deep) : (modDeep g s).ret = s.ret := rfl
@[simp] theorem modDeep_cp (g : Deep → Deep) : (modDeep g s).cp = s.cp := rfl
@[simp] theorem modDeep_spi (g : Deep → Deep) : (modDeep g s).spi = s.spi := rfl
@[simp] theorem modDeep_rings (g : Deep → Deep) : (modDeep g s).rings = s.rings := rfl
@[simp] theorem modDeep_hfr (g : Deep → Deep) : (modDeep g s).hfr = s.hfr := rfl
@[simp] theorem modDeep_win (g : Deep → Deep) : (modDeep g s).win = s.win := rfl
@[simp] theorem modDeep_ev (g : Deep → Deep) : (modDeep g s).ev = s.ev := rfl
@[simp] theorem modDeep_jr (g : Deep → Deep) : (modDeep g s).jr = s.jr := rfl
@[simp] theorem modDeep_tim (g : Deep → Deep) : (modDeep g s).tim = s.tim := rfl
@[simp] theorem modDeep_gpio (g : Deep → Deep) : (modDeep g s).gpio = s.gpio := rfl
@[simp] theorem modDeep_ports (g : Deep → Deep) : (modDeep g s).ports = s.ports := rfl
@[simp] theorem modDeep_lanes (g : Deep → Deep) : (modDeep g s).lanes = s.lanes := rfl
@[simp] theorem modDeep_i2c (g : Deep → Deep) : (modDeep g s).i2c = s.i2c := rfl
@[simp] theorem modDeep_mods (g : Deep → Deep) : (modDeep g s).mods = s.mods := rfl
@[simp] theorem modDeep_bankBit (g : Deep → Deep) : (modDeep g s).bankBit = s.bankBit := rfl
@[simp] theorem modDeep_swap (g : Deep → Deep) : (modDeep g s).swap = s.swap := rfl
@[simp] theorem modDeep_fa (g : Deep → Deep) : (modDeep g s).fa = s.fa := rfl
@[simp] theorem modDeep_fb (g : Deep → Deep) : (modDeep g s).fb = s.fb := rfl
@[simp] theorem modDeep_hl (g : Deep → Deep) : (modDeep g s).hl = s.hl := rfl
@[simp] theorem modDeep_age (g : Deep → Deep) : (modDeep g s).age = s.age := rfl
@[simp] theorem modDeep_shadow (g : Deep → Deep) : (modDeep g s).shadow = s.shadow := rfl
@[simp] theorem modDeep_flush (g : Deep → Deep) : (modDeep g s).flush = s.flush := rfl
@[simp] theorem modDeep_memErr (g : Deep → Deep) : (modDeep g s).memErr = s.memErr := rfl
@[simp] theorem modDeep_corr48 (g : Deep → Deep) : (modDeep g s).corr48 = s.corr48 := rfl
@[simp] theorem modDeep_frames (g : Deep → Deep) : (modDeep g s).frames = s.frames := rfl
@[simp] theorem modDeep_gran (g : Deep → Deep) : (modDeep g s).gran = s.gran := rfl
@[simp] theorem modDeep_meters (g : Deep → Deep) : (modDeep g s).meters = s.meters := rfl
@[simp] theorem modDeep_shapers (g : Deep → Deep) : (modDeep g s).shapers = s.shapers := rfl
@[simp] theorem modDeep_meterInvalid (g : Deep → Deep) : (modDeep g s).meterInvalid = s.meterInvalid := rfl
@[simp] theorem modDeep_red (g : Deep → Deep) : (modDeep g s).red = s.red := rfl
@[simp] theorem modDeep_imgLoad (g : Deep → Deep) : (modDeep g s).imgLoad = s.imgLoad := rfl
@[simp] theorem modDeep_gle (g : Deep → Deep) : (modDeep g s).gle = s.gle := rfl
@[simp] theorem modDeep_mirrors (g : Deep → Deep) : (modDeep g s).mirrors = s.mirrors := rfl
@[simp] theorem modDeep_stook (g : Deep → Deep) : (modDeep g s).stook = s.stook := rfl
@[simp] theorem modDeep_perf (g : Deep → Deep) : (modDeep g s).perf = s.perf := rfl
@[simp] theorem modDeep_deep (g : Deep → Deep) : (modDeep g s).deep = g s.deep := rfl
@[simp] theorem modDeep_out (g : Deep → Deep) : (modDeep g s).out = s.out := rfl
@[simp] theorem modDeep_free (g : Deep → Deep) : (modDeep g s).free = s.free := rfl
@[simp] theorem modDeep_nextUid (g : Deep → Deep) : (modDeep g s).nextUid = s.nextUid := rfl

/-! ## modHl -/

@[simp] theorem modHl_pending (g : Headland → Headland) : (modHl g s).pending = s.pending := rfl
@[simp] theorem modHl_dev (g : Headland → Headland) : (modHl g s).dev = s.dev := rfl
@[simp] theorem modHl_clk (g : Headland → Headland) : (modHl g s).clk = s.clk := rfl
@[simp] theorem modHl_slices (g : Headland → Headland) : (modHl g s).slices = s.slices := rfl
@[simp] theorem modHl_mir (g : Headland → Headland) : (modHl g s).mir = s.mir := rfl
@[simp] theorem modHl_sup (g : Headland → Headland) : (modHl g s).sup = s.sup := rfl
@[simp] theorem modHl_therm (g : Headland → Headland) : (modHl g s).therm = s.therm := rfl
@[simp] theorem modHl_pcie (g : Headland → Headland) : (modHl g s).pcie = s.pcie := rfl
@[simp] theorem modHl_nv (g : Headland → Headland) : (modHl g s).nv = s.nv := rfl
@[simp] theorem modHl_opt (g : Headland → Headland) : (modHl g s).opt = s.opt := rfl
@[simp] theorem modHl_ret (g : Headland → Headland) : (modHl g s).ret = s.ret := rfl
@[simp] theorem modHl_cp (g : Headland → Headland) : (modHl g s).cp = s.cp := rfl
@[simp] theorem modHl_spi (g : Headland → Headland) : (modHl g s).spi = s.spi := rfl
@[simp] theorem modHl_rings (g : Headland → Headland) : (modHl g s).rings = s.rings := rfl
@[simp] theorem modHl_hfr (g : Headland → Headland) : (modHl g s).hfr = s.hfr := rfl
@[simp] theorem modHl_win (g : Headland → Headland) : (modHl g s).win = s.win := rfl
@[simp] theorem modHl_ev (g : Headland → Headland) : (modHl g s).ev = s.ev := rfl
@[simp] theorem modHl_jr (g : Headland → Headland) : (modHl g s).jr = s.jr := rfl
@[simp] theorem modHl_tim (g : Headland → Headland) : (modHl g s).tim = s.tim := rfl
@[simp] theorem modHl_gpio (g : Headland → Headland) : (modHl g s).gpio = s.gpio := rfl
@[simp] theorem modHl_ports (g : Headland → Headland) : (modHl g s).ports = s.ports := rfl
@[simp] theorem modHl_lanes (g : Headland → Headland) : (modHl g s).lanes = s.lanes := rfl
@[simp] theorem modHl_i2c (g : Headland → Headland) : (modHl g s).i2c = s.i2c := rfl
@[simp] theorem modHl_mods (g : Headland → Headland) : (modHl g s).mods = s.mods := rfl
@[simp] theorem modHl_bankBit (g : Headland → Headland) : (modHl g s).bankBit = s.bankBit := rfl
@[simp] theorem modHl_swap (g : Headland → Headland) : (modHl g s).swap = s.swap := rfl
@[simp] theorem modHl_fa (g : Headland → Headland) : (modHl g s).fa = s.fa := rfl
@[simp] theorem modHl_fb (g : Headland → Headland) : (modHl g s).fb = s.fb := rfl
@[simp] theorem modHl_hl (g : Headland → Headland) : (modHl g s).hl = g s.hl := rfl
@[simp] theorem modHl_age (g : Headland → Headland) : (modHl g s).age = s.age := rfl
@[simp] theorem modHl_shadow (g : Headland → Headland) : (modHl g s).shadow = s.shadow := rfl
@[simp] theorem modHl_flush (g : Headland → Headland) : (modHl g s).flush = s.flush := rfl
@[simp] theorem modHl_memErr (g : Headland → Headland) : (modHl g s).memErr = s.memErr := rfl
@[simp] theorem modHl_corr48 (g : Headland → Headland) : (modHl g s).corr48 = s.corr48 := rfl
@[simp] theorem modHl_frames (g : Headland → Headland) : (modHl g s).frames = s.frames := rfl
@[simp] theorem modHl_gran (g : Headland → Headland) : (modHl g s).gran = s.gran := rfl
@[simp] theorem modHl_meters (g : Headland → Headland) : (modHl g s).meters = s.meters := rfl
@[simp] theorem modHl_shapers (g : Headland → Headland) : (modHl g s).shapers = s.shapers := rfl
@[simp] theorem modHl_meterInvalid (g : Headland → Headland) : (modHl g s).meterInvalid = s.meterInvalid := rfl
@[simp] theorem modHl_red (g : Headland → Headland) : (modHl g s).red = s.red := rfl
@[simp] theorem modHl_imgLoad (g : Headland → Headland) : (modHl g s).imgLoad = s.imgLoad := rfl
@[simp] theorem modHl_gle (g : Headland → Headland) : (modHl g s).gle = s.gle := rfl
@[simp] theorem modHl_mirrors (g : Headland → Headland) : (modHl g s).mirrors = s.mirrors := rfl
@[simp] theorem modHl_stook (g : Headland → Headland) : (modHl g s).stook = s.stook := rfl
@[simp] theorem modHl_perf (g : Headland → Headland) : (modHl g s).perf = s.perf := rfl
@[simp] theorem modHl_deep (g : Headland → Headland) : (modHl g s).deep = s.deep := rfl
@[simp] theorem modHl_out (g : Headland → Headland) : (modHl g s).out = s.out := rfl
@[simp] theorem modHl_free (g : Headland → Headland) : (modHl g s).free = s.free := rfl
@[simp] theorem modHl_nextUid (g : Headland → Headland) : (modHl g s).nextUid = s.nextUid := rfl

/-! ## modRed -/

@[simp] theorem modRed_pending (g : Redund → Redund) : (modRed g s).pending = s.pending := rfl
@[simp] theorem modRed_dev (g : Redund → Redund) : (modRed g s).dev = s.dev := rfl
@[simp] theorem modRed_clk (g : Redund → Redund) : (modRed g s).clk = s.clk := rfl
@[simp] theorem modRed_slices (g : Redund → Redund) : (modRed g s).slices = s.slices := rfl
@[simp] theorem modRed_mir (g : Redund → Redund) : (modRed g s).mir = s.mir := rfl
@[simp] theorem modRed_sup (g : Redund → Redund) : (modRed g s).sup = s.sup := rfl
@[simp] theorem modRed_therm (g : Redund → Redund) : (modRed g s).therm = s.therm := rfl
@[simp] theorem modRed_pcie (g : Redund → Redund) : (modRed g s).pcie = s.pcie := rfl
@[simp] theorem modRed_nv (g : Redund → Redund) : (modRed g s).nv = s.nv := rfl
@[simp] theorem modRed_opt (g : Redund → Redund) : (modRed g s).opt = s.opt := rfl
@[simp] theorem modRed_ret (g : Redund → Redund) : (modRed g s).ret = s.ret := rfl
@[simp] theorem modRed_cp (g : Redund → Redund) : (modRed g s).cp = s.cp := rfl
@[simp] theorem modRed_spi (g : Redund → Redund) : (modRed g s).spi = s.spi := rfl
@[simp] theorem modRed_rings (g : Redund → Redund) : (modRed g s).rings = s.rings := rfl
@[simp] theorem modRed_hfr (g : Redund → Redund) : (modRed g s).hfr = s.hfr := rfl
@[simp] theorem modRed_win (g : Redund → Redund) : (modRed g s).win = s.win := rfl
@[simp] theorem modRed_ev (g : Redund → Redund) : (modRed g s).ev = s.ev := rfl
@[simp] theorem modRed_jr (g : Redund → Redund) : (modRed g s).jr = s.jr := rfl
@[simp] theorem modRed_tim (g : Redund → Redund) : (modRed g s).tim = s.tim := rfl
@[simp] theorem modRed_gpio (g : Redund → Redund) : (modRed g s).gpio = s.gpio := rfl
@[simp] theorem modRed_ports (g : Redund → Redund) : (modRed g s).ports = s.ports := rfl
@[simp] theorem modRed_lanes (g : Redund → Redund) : (modRed g s).lanes = s.lanes := rfl
@[simp] theorem modRed_i2c (g : Redund → Redund) : (modRed g s).i2c = s.i2c := rfl
@[simp] theorem modRed_mods (g : Redund → Redund) : (modRed g s).mods = s.mods := rfl
@[simp] theorem modRed_bankBit (g : Redund → Redund) : (modRed g s).bankBit = s.bankBit := rfl
@[simp] theorem modRed_swap (g : Redund → Redund) : (modRed g s).swap = s.swap := rfl
@[simp] theorem modRed_fa (g : Redund → Redund) : (modRed g s).fa = s.fa := rfl
@[simp] theorem modRed_fb (g : Redund → Redund) : (modRed g s).fb = s.fb := rfl
@[simp] theorem modRed_hl (g : Redund → Redund) : (modRed g s).hl = s.hl := rfl
@[simp] theorem modRed_age (g : Redund → Redund) : (modRed g s).age = s.age := rfl
@[simp] theorem modRed_shadow (g : Redund → Redund) : (modRed g s).shadow = s.shadow := rfl
@[simp] theorem modRed_flush (g : Redund → Redund) : (modRed g s).flush = s.flush := rfl
@[simp] theorem modRed_memErr (g : Redund → Redund) : (modRed g s).memErr = s.memErr := rfl
@[simp] theorem modRed_corr48 (g : Redund → Redund) : (modRed g s).corr48 = s.corr48 := rfl
@[simp] theorem modRed_frames (g : Redund → Redund) : (modRed g s).frames = s.frames := rfl
@[simp] theorem modRed_gran (g : Redund → Redund) : (modRed g s).gran = s.gran := rfl
@[simp] theorem modRed_meters (g : Redund → Redund) : (modRed g s).meters = s.meters := rfl
@[simp] theorem modRed_shapers (g : Redund → Redund) : (modRed g s).shapers = s.shapers := rfl
@[simp] theorem modRed_meterInvalid (g : Redund → Redund) : (modRed g s).meterInvalid = s.meterInvalid := rfl
@[simp] theorem modRed_red (g : Redund → Redund) : (modRed g s).red = g s.red := rfl
@[simp] theorem modRed_imgLoad (g : Redund → Redund) : (modRed g s).imgLoad = s.imgLoad := rfl
@[simp] theorem modRed_gle (g : Redund → Redund) : (modRed g s).gle = s.gle := rfl
@[simp] theorem modRed_mirrors (g : Redund → Redund) : (modRed g s).mirrors = s.mirrors := rfl
@[simp] theorem modRed_stook (g : Redund → Redund) : (modRed g s).stook = s.stook := rfl
@[simp] theorem modRed_perf (g : Redund → Redund) : (modRed g s).perf = s.perf := rfl
@[simp] theorem modRed_deep (g : Redund → Redund) : (modRed g s).deep = s.deep := rfl
@[simp] theorem modRed_out (g : Redund → Redund) : (modRed g s).out = s.out := rfl
@[simp] theorem modRed_free (g : Redund → Redund) : (modRed g s).free = s.free := rfl
@[simp] theorem modRed_nextUid (g : Redund → Redund) : (modRed g s).nextUid = s.nextUid := rfl

/-! ## modFur -/

@[simp] theorem modFur_pending (f : Nat) (g : FurrowSt → FurrowSt) : (modFur f g s).pending = s.pending := by unfold modFur; split <;> rfl
@[simp] theorem modFur_dev (f : Nat) (g : FurrowSt → FurrowSt) : (modFur f g s).dev = s.dev := by unfold modFur; split <;> rfl
@[simp] theorem modFur_clk (f : Nat) (g : FurrowSt → FurrowSt) : (modFur f g s).clk = s.clk := by unfold modFur; split <;> rfl
@[simp] theorem modFur_slices (f : Nat) (g : FurrowSt → FurrowSt) : (modFur f g s).slices = s.slices := by unfold modFur; split <;> rfl
@[simp] theorem modFur_mir (f : Nat) (g : FurrowSt → FurrowSt) : (modFur f g s).mir = s.mir := by unfold modFur; split <;> rfl
@[simp] theorem modFur_sup (f : Nat) (g : FurrowSt → FurrowSt) : (modFur f g s).sup = s.sup := by unfold modFur; split <;> rfl
@[simp] theorem modFur_therm (f : Nat) (g : FurrowSt → FurrowSt) : (modFur f g s).therm = s.therm := by unfold modFur; split <;> rfl
@[simp] theorem modFur_pcie (f : Nat) (g : FurrowSt → FurrowSt) : (modFur f g s).pcie = s.pcie := by unfold modFur; split <;> rfl
@[simp] theorem modFur_nv (f : Nat) (g : FurrowSt → FurrowSt) : (modFur f g s).nv = s.nv := by unfold modFur; split <;> rfl
@[simp] theorem modFur_opt (f : Nat) (g : FurrowSt → FurrowSt) : (modFur f g s).opt = s.opt := by unfold modFur; split <;> rfl
@[simp] theorem modFur_ret (f : Nat) (g : FurrowSt → FurrowSt) : (modFur f g s).ret = s.ret := by unfold modFur; split <;> rfl
@[simp] theorem modFur_cp (f : Nat) (g : FurrowSt → FurrowSt) : (modFur f g s).cp = s.cp := by unfold modFur; split <;> rfl
@[simp] theorem modFur_spi (f : Nat) (g : FurrowSt → FurrowSt) : (modFur f g s).spi = s.spi := by unfold modFur; split <;> rfl
@[simp] theorem modFur_rings (f : Nat) (g : FurrowSt → FurrowSt) : (modFur f g s).rings = s.rings := by unfold modFur; split <;> rfl
@[simp] theorem modFur_hfr (f : Nat) (g : FurrowSt → FurrowSt) : (modFur f g s).hfr = s.hfr := by unfold modFur; split <;> rfl
@[simp] theorem modFur_win (f : Nat) (g : FurrowSt → FurrowSt) : (modFur f g s).win = s.win := by unfold modFur; split <;> rfl
@[simp] theorem modFur_ev (f : Nat) (g : FurrowSt → FurrowSt) : (modFur f g s).ev = s.ev := by unfold modFur; split <;> rfl
@[simp] theorem modFur_jr (f : Nat) (g : FurrowSt → FurrowSt) : (modFur f g s).jr = s.jr := by unfold modFur; split <;> rfl
@[simp] theorem modFur_tim (f : Nat) (g : FurrowSt → FurrowSt) : (modFur f g s).tim = s.tim := by unfold modFur; split <;> rfl
@[simp] theorem modFur_gpio (f : Nat) (g : FurrowSt → FurrowSt) : (modFur f g s).gpio = s.gpio := by unfold modFur; split <;> rfl
@[simp] theorem modFur_ports (f : Nat) (g : FurrowSt → FurrowSt) : (modFur f g s).ports = s.ports := by unfold modFur; split <;> rfl
@[simp] theorem modFur_lanes (f : Nat) (g : FurrowSt → FurrowSt) : (modFur f g s).lanes = s.lanes := by unfold modFur; split <;> rfl
@[simp] theorem modFur_i2c (f : Nat) (g : FurrowSt → FurrowSt) : (modFur f g s).i2c = s.i2c := by unfold modFur; split <;> rfl
@[simp] theorem modFur_mods (f : Nat) (g : FurrowSt → FurrowSt) : (modFur f g s).mods = s.mods := by unfold modFur; split <;> rfl
@[simp] theorem modFur_bankBit (f : Nat) (g : FurrowSt → FurrowSt) : (modFur f g s).bankBit = s.bankBit := by unfold modFur; split <;> rfl
@[simp] theorem modFur_swap (f : Nat) (g : FurrowSt → FurrowSt) : (modFur f g s).swap = s.swap := by unfold modFur; split <;> rfl
@[simp] theorem modFur_hl (f : Nat) (g : FurrowSt → FurrowSt) : (modFur f g s).hl = s.hl := by unfold modFur; split <;> rfl
@[simp] theorem modFur_age (f : Nat) (g : FurrowSt → FurrowSt) : (modFur f g s).age = s.age := by unfold modFur; split <;> rfl
@[simp] theorem modFur_shadow (f : Nat) (g : FurrowSt → FurrowSt) : (modFur f g s).shadow = s.shadow := by unfold modFur; split <;> rfl
@[simp] theorem modFur_flush (f : Nat) (g : FurrowSt → FurrowSt) : (modFur f g s).flush = s.flush := by unfold modFur; split <;> rfl
@[simp] theorem modFur_memErr (f : Nat) (g : FurrowSt → FurrowSt) : (modFur f g s).memErr = s.memErr := by unfold modFur; split <;> rfl
@[simp] theorem modFur_corr48 (f : Nat) (g : FurrowSt → FurrowSt) : (modFur f g s).corr48 = s.corr48 := by unfold modFur; split <;> rfl
@[simp] theorem modFur_frames (f : Nat) (g : FurrowSt → FurrowSt) : (modFur f g s).frames = s.frames := by unfold modFur; split <;> rfl
@[simp] theorem modFur_gran (f : Nat) (g : FurrowSt → FurrowSt) : (modFur f g s).gran = s.gran := by unfold modFur; split <;> rfl
@[simp] theorem modFur_meters (f : Nat) (g : FurrowSt → FurrowSt) : (modFur f g s).meters = s.meters := by unfold modFur; split <;> rfl
@[simp] theorem modFur_shapers (f : Nat) (g : FurrowSt → FurrowSt) : (modFur f g s).shapers = s.shapers := by unfold modFur; split <;> rfl
@[simp] theorem modFur_meterInvalid (f : Nat) (g : FurrowSt → FurrowSt) : (modFur f g s).meterInvalid = s.meterInvalid := by unfold modFur; split <;> rfl
@[simp] theorem modFur_red (f : Nat) (g : FurrowSt → FurrowSt) : (modFur f g s).red = s.red := by unfold modFur; split <;> rfl
@[simp] theorem modFur_imgLoad (f : Nat) (g : FurrowSt → FurrowSt) : (modFur f g s).imgLoad = s.imgLoad := by unfold modFur; split <;> rfl
@[simp] theorem modFur_gle (f : Nat) (g : FurrowSt → FurrowSt) : (modFur f g s).gle = s.gle := by unfold modFur; split <;> rfl
@[simp] theorem modFur_mirrors (f : Nat) (g : FurrowSt → FurrowSt) : (modFur f g s).mirrors = s.mirrors := by unfold modFur; split <;> rfl
@[simp] theorem modFur_stook (f : Nat) (g : FurrowSt → FurrowSt) : (modFur f g s).stook = s.stook := by unfold modFur; split <;> rfl
@[simp] theorem modFur_perf (f : Nat) (g : FurrowSt → FurrowSt) : (modFur f g s).perf = s.perf := by unfold modFur; split <;> rfl
@[simp] theorem modFur_deep (f : Nat) (g : FurrowSt → FurrowSt) : (modFur f g s).deep = s.deep := by unfold modFur; split <;> rfl
@[simp] theorem modFur_out (f : Nat) (g : FurrowSt → FurrowSt) : (modFur f g s).out = s.out := by unfold modFur; split <;> rfl
@[simp] theorem modFur_free (f : Nat) (g : FurrowSt → FurrowSt) : (modFur f g s).free = s.free := by unfold modFur; split <;> rfl
@[simp] theorem modFur_nextUid (f : Nat) (g : FurrowSt → FurrowSt) : (modFur f g s).nextUid = s.nextUid := by unfold modFur; split <;> rfl

/-! ## emitOut -/

@[simp] theorem emitOut_pending (o : Output) : (emitOut o s).pending = s.pending := by unfold emitOut; split <;> rfl
@[simp] theorem emitOut_dev (o : Output) : (emitOut o s).dev = s.dev := by unfold emitOut; split <;> rfl
@[simp] theorem emitOut_clk (o : Output) : (emitOut o s).clk = s.clk := by unfold emitOut; split <;> rfl
@[simp] theorem emitOut_slices (o : Output) : (emitOut o s).slices = s.slices := by unfold emitOut; split <;> rfl
@[simp] theorem emitOut_mir (o : Output) : (emitOut o s).mir = s.mir := by unfold emitOut; split <;> rfl
@[simp] theorem emitOut_sup (o : Output) : (emitOut o s).sup = s.sup := by unfold emitOut; split <;> rfl
@[simp] theorem emitOut_therm (o : Output) : (emitOut o s).therm = s.therm := by unfold emitOut; split <;> rfl
@[simp] theorem emitOut_pcie (o : Output) : (emitOut o s).pcie = s.pcie := by unfold emitOut; split <;> rfl
@[simp] theorem emitOut_nv (o : Output) : (emitOut o s).nv = s.nv := by unfold emitOut; split <;> rfl
@[simp] theorem emitOut_opt (o : Output) : (emitOut o s).opt = s.opt := by unfold emitOut; split <;> rfl
@[simp] theorem emitOut_ret (o : Output) : (emitOut o s).ret = s.ret := by unfold emitOut; split <;> rfl
@[simp] theorem emitOut_cp (o : Output) : (emitOut o s).cp = s.cp := by unfold emitOut; split <;> rfl
@[simp] theorem emitOut_spi (o : Output) : (emitOut o s).spi = s.spi := by unfold emitOut; split <;> rfl
@[simp] theorem emitOut_rings (o : Output) : (emitOut o s).rings = s.rings := by unfold emitOut; split <;> rfl
@[simp] theorem emitOut_hfr (o : Output) : (emitOut o s).hfr = s.hfr := by unfold emitOut; split <;> rfl
@[simp] theorem emitOut_win (o : Output) : (emitOut o s).win = s.win := by unfold emitOut; split <;> rfl
@[simp] theorem emitOut_ev (o : Output) : (emitOut o s).ev = s.ev := by unfold emitOut; split <;> rfl
@[simp] theorem emitOut_jr (o : Output) : (emitOut o s).jr = s.jr := by unfold emitOut; split <;> rfl
@[simp] theorem emitOut_tim (o : Output) : (emitOut o s).tim = s.tim := by unfold emitOut; split <;> rfl
@[simp] theorem emitOut_gpio (o : Output) : (emitOut o s).gpio = s.gpio := by unfold emitOut; split <;> rfl
@[simp] theorem emitOut_ports (o : Output) : (emitOut o s).ports = s.ports := by unfold emitOut; split <;> rfl
@[simp] theorem emitOut_lanes (o : Output) : (emitOut o s).lanes = s.lanes := by unfold emitOut; split <;> rfl
@[simp] theorem emitOut_i2c (o : Output) : (emitOut o s).i2c = s.i2c := by unfold emitOut; split <;> rfl
@[simp] theorem emitOut_mods (o : Output) : (emitOut o s).mods = s.mods := by unfold emitOut; split <;> rfl
@[simp] theorem emitOut_bankBit (o : Output) : (emitOut o s).bankBit = s.bankBit := by unfold emitOut; split <;> rfl
@[simp] theorem emitOut_swap (o : Output) : (emitOut o s).swap = s.swap := by unfold emitOut; split <;> rfl
@[simp] theorem emitOut_fa (o : Output) : (emitOut o s).fa = s.fa := by unfold emitOut; split <;> rfl
@[simp] theorem emitOut_fb (o : Output) : (emitOut o s).fb = s.fb := by unfold emitOut; split <;> rfl
@[simp] theorem emitOut_hl (o : Output) : (emitOut o s).hl = s.hl := by unfold emitOut; split <;> rfl
@[simp] theorem emitOut_age (o : Output) : (emitOut o s).age = s.age := by unfold emitOut; split <;> rfl
@[simp] theorem emitOut_shadow (o : Output) : (emitOut o s).shadow = s.shadow := by unfold emitOut; split <;> rfl
@[simp] theorem emitOut_flush (o : Output) : (emitOut o s).flush = s.flush := by unfold emitOut; split <;> rfl
@[simp] theorem emitOut_memErr (o : Output) : (emitOut o s).memErr = s.memErr := by unfold emitOut; split <;> rfl
@[simp] theorem emitOut_corr48 (o : Output) : (emitOut o s).corr48 = s.corr48 := by unfold emitOut; split <;> rfl
@[simp] theorem emitOut_frames (o : Output) : (emitOut o s).frames = s.frames := by unfold emitOut; split <;> rfl
@[simp] theorem emitOut_gran (o : Output) : (emitOut o s).gran = s.gran := by unfold emitOut; split <;> rfl
@[simp] theorem emitOut_meters (o : Output) : (emitOut o s).meters = s.meters := by unfold emitOut; split <;> rfl
@[simp] theorem emitOut_shapers (o : Output) : (emitOut o s).shapers = s.shapers := by unfold emitOut; split <;> rfl
@[simp] theorem emitOut_meterInvalid (o : Output) : (emitOut o s).meterInvalid = s.meterInvalid := by unfold emitOut; split <;> rfl
@[simp] theorem emitOut_red (o : Output) : (emitOut o s).red = s.red := by unfold emitOut; split <;> rfl
@[simp] theorem emitOut_imgLoad (o : Output) : (emitOut o s).imgLoad = s.imgLoad := by unfold emitOut; split <;> rfl
@[simp] theorem emitOut_gle (o : Output) : (emitOut o s).gle = s.gle := by unfold emitOut; split <;> rfl
@[simp] theorem emitOut_mirrors (o : Output) : (emitOut o s).mirrors = s.mirrors := by unfold emitOut; split <;> rfl
@[simp] theorem emitOut_stook (o : Output) : (emitOut o s).stook = s.stook := by unfold emitOut; split <;> rfl
@[simp] theorem emitOut_perf (o : Output) : (emitOut o s).perf = s.perf := by unfold emitOut; split <;> rfl
@[simp] theorem emitOut_deep (o : Output) : (emitOut o s).deep = s.deep := by unfold emitOut; split <;> rfl
@[simp] theorem emitOut_free (o : Output) : (emitOut o s).free = s.free := by unfold emitOut; split <;> rfl
@[simp] theorem emitOut_nextUid (o : Output) : (emitOut o s).nextUid = s.nextUid := by unfold emitOut; split <;> rfl

/-! ## touchSession -/

@[simp] theorem touchSession_pending (p : Packet) : (touchSession p s).pending = s.pending := by unfold touchSession; split <;> rfl
@[simp] theorem touchSession_dev (p : Packet) : (touchSession p s).dev = s.dev := by unfold touchSession; split <;> rfl
@[simp] theorem touchSession_clk (p : Packet) : (touchSession p s).clk = s.clk := by unfold touchSession; split <;> rfl
@[simp] theorem touchSession_slices (p : Packet) : (touchSession p s).slices = s.slices := by unfold touchSession; split <;> rfl
@[simp] theorem touchSession_mir (p : Packet) : (touchSession p s).mir = s.mir := by unfold touchSession; split <;> rfl
@[simp] theorem touchSession_sup (p : Packet) : (touchSession p s).sup = s.sup := by unfold touchSession; split <;> rfl
@[simp] theorem touchSession_therm (p : Packet) : (touchSession p s).therm = s.therm := by unfold touchSession; split <;> rfl
@[simp] theorem touchSession_pcie (p : Packet) : (touchSession p s).pcie = s.pcie := by unfold touchSession; split <;> rfl
@[simp] theorem touchSession_nv (p : Packet) : (touchSession p s).nv = s.nv := by unfold touchSession; split <;> rfl
@[simp] theorem touchSession_opt (p : Packet) : (touchSession p s).opt = s.opt := by unfold touchSession; split <;> rfl
@[simp] theorem touchSession_ret (p : Packet) : (touchSession p s).ret = s.ret := by unfold touchSession; split <;> rfl
@[simp] theorem touchSession_spi (p : Packet) : (touchSession p s).spi = s.spi := by unfold touchSession; split <;> rfl
@[simp] theorem touchSession_rings (p : Packet) : (touchSession p s).rings = s.rings := by unfold touchSession; split <;> rfl
@[simp] theorem touchSession_hfr (p : Packet) : (touchSession p s).hfr = s.hfr := by unfold touchSession; split <;> rfl
@[simp] theorem touchSession_win (p : Packet) : (touchSession p s).win = s.win := by unfold touchSession; split <;> rfl
@[simp] theorem touchSession_ev (p : Packet) : (touchSession p s).ev = s.ev := by unfold touchSession; split <;> rfl
@[simp] theorem touchSession_jr (p : Packet) : (touchSession p s).jr = s.jr := by unfold touchSession; split <;> rfl
@[simp] theorem touchSession_tim (p : Packet) : (touchSession p s).tim = s.tim := by unfold touchSession; split <;> rfl
@[simp] theorem touchSession_gpio (p : Packet) : (touchSession p s).gpio = s.gpio := by unfold touchSession; split <;> rfl
@[simp] theorem touchSession_ports (p : Packet) : (touchSession p s).ports = s.ports := by unfold touchSession; split <;> rfl
@[simp] theorem touchSession_lanes (p : Packet) : (touchSession p s).lanes = s.lanes := by unfold touchSession; split <;> rfl
@[simp] theorem touchSession_i2c (p : Packet) : (touchSession p s).i2c = s.i2c := by unfold touchSession; split <;> rfl
@[simp] theorem touchSession_mods (p : Packet) : (touchSession p s).mods = s.mods := by unfold touchSession; split <;> rfl
@[simp] theorem touchSession_bankBit (p : Packet) : (touchSession p s).bankBit = s.bankBit := by unfold touchSession; split <;> rfl
@[simp] theorem touchSession_swap (p : Packet) : (touchSession p s).swap = s.swap := by unfold touchSession; split <;> rfl
@[simp] theorem touchSession_fa (p : Packet) : (touchSession p s).fa = s.fa := by unfold touchSession; split <;> rfl
@[simp] theorem touchSession_fb (p : Packet) : (touchSession p s).fb = s.fb := by unfold touchSession; split <;> rfl
@[simp] theorem touchSession_hl (p : Packet) : (touchSession p s).hl = s.hl := by unfold touchSession; split <;> rfl
@[simp] theorem touchSession_age (p : Packet) : (touchSession p s).age = s.age := by unfold touchSession; split <;> rfl
@[simp] theorem touchSession_shadow (p : Packet) : (touchSession p s).shadow = s.shadow := by unfold touchSession; split <;> rfl
@[simp] theorem touchSession_flush (p : Packet) : (touchSession p s).flush = s.flush := by unfold touchSession; split <;> rfl
@[simp] theorem touchSession_memErr (p : Packet) : (touchSession p s).memErr = s.memErr := by unfold touchSession; split <;> rfl
@[simp] theorem touchSession_corr48 (p : Packet) : (touchSession p s).corr48 = s.corr48 := by unfold touchSession; split <;> rfl
@[simp] theorem touchSession_frames (p : Packet) : (touchSession p s).frames = s.frames := by unfold touchSession; split <;> rfl
@[simp] theorem touchSession_gran (p : Packet) : (touchSession p s).gran = s.gran := by unfold touchSession; split <;> rfl
@[simp] theorem touchSession_meters (p : Packet) : (touchSession p s).meters = s.meters := by unfold touchSession; split <;> rfl
@[simp] theorem touchSession_shapers (p : Packet) : (touchSession p s).shapers = s.shapers := by unfold touchSession; split <;> rfl
@[simp] theorem touchSession_meterInvalid (p : Packet) : (touchSession p s).meterInvalid = s.meterInvalid := by unfold touchSession; split <;> rfl
@[simp] theorem touchSession_red (p : Packet) : (touchSession p s).red = s.red := by unfold touchSession; split <;> rfl
@[simp] theorem touchSession_imgLoad (p : Packet) : (touchSession p s).imgLoad = s.imgLoad := by unfold touchSession; split <;> rfl
@[simp] theorem touchSession_gle (p : Packet) : (touchSession p s).gle = s.gle := by unfold touchSession; split <;> rfl
@[simp] theorem touchSession_mirrors (p : Packet) : (touchSession p s).mirrors = s.mirrors := by unfold touchSession; split <;> rfl
@[simp] theorem touchSession_stook (p : Packet) : (touchSession p s).stook = s.stook := by unfold touchSession; split <;> rfl
@[simp] theorem touchSession_perf (p : Packet) : (touchSession p s).perf = s.perf := by unfold touchSession; split <;> rfl
@[simp] theorem touchSession_deep (p : Packet) : (touchSession p s).deep = s.deep := by unfold touchSession; split <;> rfl
@[simp] theorem touchSession_out (p : Packet) : (touchSession p s).out = s.out := by unfold touchSession; split <;> rfl
@[simp] theorem touchSession_free (p : Packet) : (touchSession p s).free = s.free := by unfold touchSession; split <;> rfl
@[simp] theorem touchSession_nextUid (p : Packet) : (touchSession p s).nextUid = s.nextUid := by unfold touchSession; split <;> rfl

/-! ## advance -/

@[simp] theorem advance_pending (n : Nat) : (advance n s).pending = s.pending := by unfold advance; split <;> rfl
@[simp] theorem advance_dev (n : Nat) : (advance n s).dev = s.dev := by unfold advance; split <;> rfl
@[simp] theorem advance_slices (n : Nat) : (advance n s).slices = s.slices := by unfold advance; split <;> rfl
@[simp] theorem advance_mir (n : Nat) : (advance n s).mir = s.mir := by unfold advance; split <;> rfl
@[simp] theorem advance_sup (n : Nat) : (advance n s).sup = s.sup := by unfold advance; split <;> rfl
@[simp] theorem advance_therm (n : Nat) : (advance n s).therm = s.therm := by unfold advance; split <;> rfl
@[simp] theorem advance_pcie (n : Nat) : (advance n s).pcie = s.pcie := by unfold advance; split <;> rfl
@[simp] theorem advance_nv (n : Nat) : (advance n s).nv = s.nv := by unfold advance; split <;> rfl
@[simp] theorem advance_opt (n : Nat) : (advance n s).opt = s.opt := by unfold advance; split <;> rfl
@[simp] theorem advance_ret (n : Nat) : (advance n s).ret = s.ret := by unfold advance; split <;> rfl
@[simp] theorem advance_cp (n : Nat) : (advance n s).cp = s.cp := by unfold advance; split <;> rfl
@[simp] theorem advance_spi (n : Nat) : (advance n s).spi = s.spi := by unfold advance; split <;> rfl
@[simp] theorem advance_rings (n : Nat) : (advance n s).rings = s.rings := by unfold advance; split <;> rfl
@[simp] theorem advance_hfr (n : Nat) : (advance n s).hfr = s.hfr := by unfold advance; split <;> rfl
@[simp] theorem advance_win (n : Nat) : (advance n s).win = s.win := by unfold advance; split <;> rfl
@[simp] theorem advance_ev (n : Nat) : (advance n s).ev = s.ev := by unfold advance; split <;> rfl
@[simp] theorem advance_jr (n : Nat) : (advance n s).jr = s.jr := by unfold advance; split <;> rfl
@[simp] theorem advance_tim (n : Nat) : (advance n s).tim = s.tim := by unfold advance; split <;> rfl
@[simp] theorem advance_gpio (n : Nat) : (advance n s).gpio = s.gpio := by unfold advance; split <;> rfl
@[simp] theorem advance_ports (n : Nat) : (advance n s).ports = s.ports := by unfold advance; split <;> rfl
@[simp] theorem advance_lanes (n : Nat) : (advance n s).lanes = s.lanes := by unfold advance; split <;> rfl
@[simp] theorem advance_i2c (n : Nat) : (advance n s).i2c = s.i2c := by unfold advance; split <;> rfl
@[simp] theorem advance_mods (n : Nat) : (advance n s).mods = s.mods := by unfold advance; split <;> rfl
@[simp] theorem advance_bankBit (n : Nat) : (advance n s).bankBit = s.bankBit := by unfold advance; split <;> rfl
@[simp] theorem advance_swap (n : Nat) : (advance n s).swap = s.swap := by unfold advance; split <;> rfl
@[simp] theorem advance_fa (n : Nat) : (advance n s).fa = s.fa := by unfold advance; split <;> rfl
@[simp] theorem advance_fb (n : Nat) : (advance n s).fb = s.fb := by unfold advance; split <;> rfl
@[simp] theorem advance_hl (n : Nat) : (advance n s).hl = s.hl := by unfold advance; split <;> rfl
@[simp] theorem advance_age (n : Nat) : (advance n s).age = s.age := by unfold advance; split <;> rfl
@[simp] theorem advance_shadow (n : Nat) : (advance n s).shadow = s.shadow := by unfold advance; split <;> rfl
@[simp] theorem advance_flush (n : Nat) : (advance n s).flush = s.flush := by unfold advance; split <;> rfl
@[simp] theorem advance_memErr (n : Nat) : (advance n s).memErr = s.memErr := by unfold advance; split <;> rfl
@[simp] theorem advance_corr48 (n : Nat) : (advance n s).corr48 = s.corr48 := by unfold advance; split <;> rfl
@[simp] theorem advance_frames (n : Nat) : (advance n s).frames = s.frames := by unfold advance; split <;> rfl
@[simp] theorem advance_gran (n : Nat) : (advance n s).gran = s.gran := by unfold advance; split <;> rfl
@[simp] theorem advance_meters (n : Nat) : (advance n s).meters = s.meters := by unfold advance; split <;> rfl
@[simp] theorem advance_shapers (n : Nat) : (advance n s).shapers = s.shapers := by unfold advance; split <;> rfl
@[simp] theorem advance_meterInvalid (n : Nat) : (advance n s).meterInvalid = s.meterInvalid := by unfold advance; split <;> rfl
@[simp] theorem advance_red (n : Nat) : (advance n s).red = s.red := by unfold advance; split <;> rfl
@[simp] theorem advance_imgLoad (n : Nat) : (advance n s).imgLoad = s.imgLoad := by unfold advance; split <;> rfl
@[simp] theorem advance_gle (n : Nat) : (advance n s).gle = s.gle := by unfold advance; split <;> rfl
@[simp] theorem advance_mirrors (n : Nat) : (advance n s).mirrors = s.mirrors := by unfold advance; split <;> rfl
@[simp] theorem advance_stook (n : Nat) : (advance n s).stook = s.stook := by unfold advance; split <;> rfl
@[simp] theorem advance_perf (n : Nat) : (advance n s).perf = s.perf := by unfold advance; split <;> rfl
@[simp] theorem advance_deep (n : Nat) : (advance n s).deep = s.deep := by unfold advance; split <;> rfl
@[simp] theorem advance_out (n : Nat) : (advance n s).out = s.out := by unfold advance; split <;> rfl
@[simp] theorem advance_free (n : Nat) : (advance n s).free = s.free := by unfold advance; split <;> rfl
@[simp] theorem advance_nextUid (n : Nat) : (advance n s).nextUid = s.nextUid := by unfold advance; split <;> rfl

end Sys2Proof.Machine
end

