-- ==== Sys2Proof/Laws/Frame.lean ====
section
/-! SUPPORT. What the shared operations leave: events, signals, journal records, alarms, clocks, sessions and replies touch only their own components. -/

namespace Sys2Proof.Machine

variable (s : State)

/-! ## sendVec -/

@[simp] theorem sendVec_pending (v : Nat) : (sendVec v s).pending = s.pending := by
  simp [sendVec]
@[simp] theorem sendVec_dev (v : Nat) : (sendVec v s).dev = s.dev := by
  simp [sendVec]
@[simp] theorem sendVec_clk (v : Nat) : (sendVec v s).clk = s.clk := by
  simp [sendVec]
@[simp] theorem sendVec_slices (v : Nat) : (sendVec v s).slices = s.slices := by
  simp [sendVec]
@[simp] theorem sendVec_mir (v : Nat) : (sendVec v s).mir = s.mir := by
  simp [sendVec]
@[simp] theorem sendVec_sup (v : Nat) : (sendVec v s).sup = s.sup := by
  simp [sendVec]
@[simp] theorem sendVec_therm (v : Nat) : (sendVec v s).therm = s.therm := by
  simp [sendVec]
@[simp] theorem sendVec_pcie (v : Nat) : (sendVec v s).pcie = s.pcie := by
  simp [sendVec]
@[simp] theorem sendVec_nv (v : Nat) : (sendVec v s).nv = s.nv := by
  simp [sendVec]
@[simp] theorem sendVec_opt (v : Nat) : (sendVec v s).opt = s.opt := by
  simp [sendVec]
@[simp] theorem sendVec_ret (v : Nat) : (sendVec v s).ret = s.ret := by
  simp [sendVec]
@[simp] theorem sendVec_cp (v : Nat) : (sendVec v s).cp = s.cp := by
  simp [sendVec]
@[simp] theorem sendVec_spi (v : Nat) : (sendVec v s).spi = s.spi := by
  simp [sendVec]
@[simp] theorem sendVec_rings (v : Nat) : (sendVec v s).rings = s.rings := by
  simp [sendVec]
@[simp] theorem sendVec_hfr (v : Nat) : (sendVec v s).hfr = s.hfr := by
  simp [sendVec]
@[simp] theorem sendVec_jr (v : Nat) : (sendVec v s).jr = s.jr := by
  simp [sendVec]
@[simp] theorem sendVec_tim (v : Nat) : (sendVec v s).tim = s.tim := by
  simp [sendVec]
@[simp] theorem sendVec_gpio (v : Nat) : (sendVec v s).gpio = s.gpio := by
  simp [sendVec]
@[simp] theorem sendVec_ports (v : Nat) : (sendVec v s).ports = s.ports := by
  simp [sendVec]
@[simp] theorem sendVec_lanes (v : Nat) : (sendVec v s).lanes = s.lanes := by
  simp [sendVec]
@[simp] theorem sendVec_i2c (v : Nat) : (sendVec v s).i2c = s.i2c := by
  simp [sendVec]
@[simp] theorem sendVec_mods (v : Nat) : (sendVec v s).mods = s.mods := by
  simp [sendVec]
@[simp] theorem sendVec_bankBit (v : Nat) : (sendVec v s).bankBit = s.bankBit := by
  simp [sendVec]
@[simp] theorem sendVec_swap (v : Nat) : (sendVec v s).swap = s.swap := by
  simp [sendVec]
@[simp] theorem sendVec_fa (v : Nat) : (sendVec v s).fa = s.fa := by
  simp [sendVec]
@[simp] theorem sendVec_fb (v : Nat) : (sendVec v s).fb = s.fb := by
  simp [sendVec]
@[simp] theorem sendVec_hl (v : Nat) : (sendVec v s).hl = s.hl := by
  simp [sendVec]
@[simp] theorem sendVec_age (v : Nat) : (sendVec v s).age = s.age := by
  simp [sendVec]
@[simp] theorem sendVec_shadow (v : Nat) : (sendVec v s).shadow = s.shadow := by
  simp [sendVec]
@[simp] theorem sendVec_flush (v : Nat) : (sendVec v s).flush = s.flush := by
  simp [sendVec]
@[simp] theorem sendVec_memErr (v : Nat) : (sendVec v s).memErr = s.memErr := by
  simp [sendVec]
@[simp] theorem sendVec_frames (v : Nat) : (sendVec v s).frames = s.frames := by
  simp [sendVec]
@[simp] theorem sendVec_gran (v : Nat) : (sendVec v s).gran = s.gran := by
  simp [sendVec]
@[simp] theorem sendVec_meters (v : Nat) : (sendVec v s).meters = s.meters := by
  simp [sendVec]
@[simp] theorem sendVec_shapers (v : Nat) : (sendVec v s).shapers = s.shapers := by
  simp [sendVec]
@[simp] theorem sendVec_meterInvalid (v : Nat) : (sendVec v s).meterInvalid = s.meterInvalid := by
  simp [sendVec]
@[simp] theorem sendVec_red (v : Nat) : (sendVec v s).red = s.red := by
  simp [sendVec]
@[simp] theorem sendVec_imgLoad (v : Nat) : (sendVec v s).imgLoad = s.imgLoad := by
  simp [sendVec]
@[simp] theorem sendVec_gle (v : Nat) : (sendVec v s).gle = s.gle := by
  simp [sendVec]
@[simp] theorem sendVec_mirrors (v : Nat) : (sendVec v s).mirrors = s.mirrors := by
  simp [sendVec]
@[simp] theorem sendVec_stook (v : Nat) : (sendVec v s).stook = s.stook := by
  simp [sendVec]
@[simp] theorem sendVec_perf (v : Nat) : (sendVec v s).perf = s.perf := by
  simp [sendVec]
@[simp] theorem sendVec_deep (v : Nat) : (sendVec v s).deep = s.deep := by
  simp [sendVec]
@[simp] theorem sendVec_free (v : Nat) : (sendVec v s).free = s.free := by
  simp [sendVec]
@[simp] theorem sendVec_nextUid (v : Nat) : (sendVec v s).nextUid = s.nextUid := by
  simp [sendVec]

/-! ## signalVec -/

@[simp] theorem signalVec_pending (v : Nat) : (signalVec v s).pending = s.pending := by
  unfold signalVec; repeat' split
  all_goals simp
@[simp] theorem signalVec_dev (v : Nat) : (signalVec v s).dev = s.dev := by
  unfold signalVec; repeat' split
  all_goals simp
@[simp] theorem signalVec_clk (v : Nat) : (signalVec v s).clk = s.clk := by
  unfold signalVec; repeat' split
  all_goals simp
@[simp] theorem signalVec_slices (v : Nat) : (signalVec v s).slices = s.slices := by
  unfold signalVec; repeat' split
  all_goals simp
@[simp] theorem signalVec_mir (v : Nat) : (signalVec v s).mir = s.mir := by
  unfold signalVec; repeat' split
  all_goals simp
@[simp] theorem signalVec_sup (v : Nat) : (signalVec v s).sup = s.sup := by
  unfold signalVec; repeat' split
  all_goals simp
@[simp] theorem signalVec_therm (v : Nat) : (signalVec v s).therm = s.therm := by
  unfold signalVec; repeat' split
  all_goals simp
@[simp] theorem signalVec_pcie (v : Nat) : (signalVec v s).pcie = s.pcie := by
  unfold signalVec; repeat' split
  all_goals simp
@[simp] theorem signalVec_nv (v : Nat) : (signalVec v s).nv = s.nv := by
  unfold signalVec; repeat' split
  all_goals simp
@[simp] theorem signalVec_opt (v : Nat) : (signalVec v s).opt = s.opt := by
  unfold signalVec; repeat' split
  all_goals simp
@[simp] theorem signalVec_ret (v : Nat) : (signalVec v s).ret = s.ret := by
  unfold signalVec; repeat' split
  all_goals simp
@[simp] theorem signalVec_cp (v : Nat) : (signalVec v s).cp = s.cp := by
  unfold signalVec; repeat' split
  all_goals simp
@[simp] theorem signalVec_spi (v : Nat) : (signalVec v s).spi = s.spi := by
  unfold signalVec; repeat' split
  all_goals simp
@[simp] theorem signalVec_rings (v : Nat) : (signalVec v s).rings = s.rings := by
  unfold signalVec; repeat' split
  all_goals simp
@[simp] theorem signalVec_hfr (v : Nat) : (signalVec v s).hfr = s.hfr := by
  unfold signalVec; repeat' split
  all_goals simp
@[simp] theorem signalVec_jr (v : Nat) : (signalVec v s).jr = s.jr := by
  unfold signalVec; repeat' split
  all_goals simp
@[simp] theorem signalVec_tim (v : Nat) : (signalVec v s).tim = s.tim := by
  unfold signalVec; repeat' split
  all_goals simp
@[simp] theorem signalVec_gpio (v : Nat) : (signalVec v s).gpio = s.gpio := by
  unfold signalVec; repeat' split
  all_goals simp
@[simp] theorem signalVec_ports (v : Nat) : (signalVec v s).ports = s.ports := by
  unfold signalVec; repeat' split
  all_goals simp
@[simp] theorem signalVec_lanes (v : Nat) : (signalVec v s).lanes = s.lanes := by
  unfold signalVec; repeat' split
  all_goals simp
@[simp] theorem signalVec_i2c (v : Nat) : (signalVec v s).i2c = s.i2c := by
  unfold signalVec; repeat' split
  all_goals simp
@[simp] theorem signalVec_mods (v : Nat) : (signalVec v s).mods = s.mods := by
  unfold signalVec; repeat' split
  all_goals simp
@[simp] theorem signalVec_bankBit (v : Nat) : (signalVec v s).bankBit = s.bankBit := by
  unfold signalVec; repeat' split
  all_goals simp
@[simp] theorem signalVec_swap (v : Nat) : (signalVec v s).swap = s.swap := by
  unfold signalVec; repeat' split
  all_goals simp
@[simp] theorem signalVec_fa (v : Nat) : (signalVec v s).fa = s.fa := by
  unfold signalVec; repeat' split
  all_goals simp
@[simp] theorem signalVec_fb (v : Nat) : (signalVec v s).fb = s.fb := by
  unfold signalVec; repeat' split
  all_goals simp
@[simp] theorem signalVec_hl (v : Nat) : (signalVec v s).hl = s.hl := by
  unfold signalVec; repeat' split
  all_goals simp
@[simp] theorem signalVec_age (v : Nat) : (signalVec v s).age = s.age := by
  unfold signalVec; repeat' split
  all_goals simp
@[simp] theorem signalVec_shadow (v : Nat) : (signalVec v s).shadow = s.shadow := by
  unfold signalVec; repeat' split
  all_goals simp
@[simp] theorem signalVec_flush (v : Nat) : (signalVec v s).flush = s.flush := by
  unfold signalVec; repeat' split
  all_goals simp
@[simp] theorem signalVec_memErr (v : Nat) : (signalVec v s).memErr = s.memErr := by
  unfold signalVec; repeat' split
  all_goals simp
@[simp] theorem signalVec_frames (v : Nat) : (signalVec v s).frames = s.frames := by
  unfold signalVec; repeat' split
  all_goals simp
@[simp] theorem signalVec_gran (v : Nat) : (signalVec v s).gran = s.gran := by
  unfold signalVec; repeat' split
  all_goals simp
@[simp] theorem signalVec_meters (v : Nat) : (signalVec v s).meters = s.meters := by
  unfold signalVec; repeat' split
  all_goals simp
@[simp] theorem signalVec_shapers (v : Nat) : (signalVec v s).shapers = s.shapers := by
  unfold signalVec; repeat' split
  all_goals simp
@[simp] theorem signalVec_meterInvalid (v : Nat) : (signalVec v s).meterInvalid = s.meterInvalid := by
  unfold signalVec; repeat' split
  all_goals simp
@[simp] theorem signalVec_red (v : Nat) : (signalVec v s).red = s.red := by
  unfold signalVec; repeat' split
  all_goals simp
@[simp] theorem signalVec_imgLoad (v : Nat) : (signalVec v s).imgLoad = s.imgLoad := by
  unfold signalVec; repeat' split
  all_goals simp
@[simp] theorem signalVec_gle (v : Nat) : (signalVec v s).gle = s.gle := by
  unfold signalVec; repeat' split
  all_goals simp
@[simp] theorem signalVec_mirrors (v : Nat) : (signalVec v s).mirrors = s.mirrors := by
  unfold signalVec; repeat' split
  all_goals simp
@[simp] theorem signalVec_stook (v : Nat) : (signalVec v s).stook = s.stook := by
  unfold signalVec; repeat' split
  all_goals simp
@[simp] theorem signalVec_perf (v : Nat) : (signalVec v s).perf = s.perf := by
  unfold signalVec; repeat' split
  all_goals simp
@[simp] theorem signalVec_deep (v : Nat) : (signalVec v s).deep = s.deep := by
  unfold signalVec; repeat' split
  all_goals simp
@[simp] theorem signalVec_free (v : Nat) : (signalVec v s).free = s.free := by
  unfold signalVec; repeat' split
  all_goals simp
@[simp] theorem signalVec_nextUid (v : Nat) : (signalVec v s).nextUid = s.nextUid := by
  unfold signalVec; repeat' split
  all_goals simp

/-! ## settleLoss -/

@[simp] theorem settleLoss_pending  : (settleLoss s).pending = s.pending := by
  unfold settleLoss; repeat' split
  all_goals rfl
@[simp] theorem settleLoss_dev  : (settleLoss s).dev = s.dev := by
  unfold settleLoss; repeat' split
  all_goals rfl
@[simp] theorem settleLoss_clk  : (settleLoss s).clk = s.clk := by
  unfold settleLoss; repeat' split
  all_goals rfl
@[simp] theorem settleLoss_slices  : (settleLoss s).slices = s.slices := by
  unfold settleLoss; repeat' split
  all_goals rfl
@[simp] theorem settleLoss_mir  : (settleLoss s).mir = s.mir := by
  unfold settleLoss; repeat' split
  all_goals rfl
@[simp] theorem settleLoss_sup  : (settleLoss s).sup = s.sup := by
  unfold settleLoss; repeat' split
  all_goals rfl
@[simp] theorem settleLoss_therm  : (settleLoss s).therm = s.therm := by
  unfold settleLoss; repeat' split
  all_goals rfl
@[simp] theorem settleLoss_pcie  : (settleLoss s).pcie = s.pcie := by
  unfold settleLoss; repeat' split
  all_goals rfl
@[simp] theorem settleLoss_nv  : (settleLoss s).nv = s.nv := by
  unfold settleLoss; repeat' split
  all_goals rfl
@[simp] theorem settleLoss_opt  : (settleLoss s).opt = s.opt := by
  unfold settleLoss; repeat' split
  all_goals rfl
@[simp] theorem settleLoss_ret  : (settleLoss s).ret = s.ret := by
  unfold settleLoss; repeat' split
  all_goals rfl
@[simp] theorem settleLoss_cp  : (settleLoss s).cp = s.cp := by
  unfold settleLoss; repeat' split
  all_goals rfl
@[simp] theorem settleLoss_spi  : (settleLoss s).spi = s.spi := by
  unfold settleLoss; repeat' split
  all_goals rfl
@[simp] theorem settleLoss_rings  : (settleLoss s).rings = s.rings := by
  unfold settleLoss; repeat' split
  all_goals rfl
@[simp] theorem settleLoss_hfr  : (settleLoss s).hfr = s.hfr := by
  unfold settleLoss; repeat' split
  all_goals rfl
@[simp] theorem settleLoss_win  : (settleLoss s).win = s.win := by
  unfold settleLoss; repeat' split
  all_goals rfl
@[simp] theorem settleLoss_ev  : (settleLoss s).ev = s.ev := by
  unfold settleLoss; repeat' split
  all_goals rfl
@[simp] theorem settleLoss_tim  : (settleLoss s).tim = s.tim := by
  unfold settleLoss; repeat' split
  all_goals rfl
@[simp] theorem settleLoss_gpio  : (settleLoss s).gpio = s.gpio := by
  unfold settleLoss; repeat' split
  all_goals rfl
@[simp] theorem settleLoss_ports  : (settleLoss s).ports = s.ports := by
  unfold settleLoss; repeat' split
  all_goals rfl
@[simp] theorem settleLoss_lanes  : (settleLoss s).lanes = s.lanes := by
  unfold settleLoss; repeat' split
  all_goals rfl
@[simp] theorem settleLoss_i2c  : (settleLoss s).i2c = s.i2c := by
  unfold settleLoss; repeat' split
  all_goals rfl
@[simp] theorem settleLoss_mods  : (settleLoss s).mods = s.mods := by
  unfold settleLoss; repeat' split
  all_goals rfl
@[simp] theorem settleLoss_bankBit  : (settleLoss s).bankBit = s.bankBit := by
  unfold settleLoss; repeat' split
  all_goals rfl
@[simp] theorem settleLoss_swap  : (settleLoss s).swap = s.swap := by
  unfold settleLoss; repeat' split
  all_goals rfl
@[simp] theorem settleLoss_fa  : (settleLoss s).fa = s.fa := by
  unfold settleLoss; repeat' split
  all_goals rfl
@[simp] theorem settleLoss_fb  : (settleLoss s).fb = s.fb := by
  unfold settleLoss; repeat' split
  all_goals rfl
@[simp] theorem settleLoss_hl  : (settleLoss s).hl = s.hl := by
  unfold settleLoss; repeat' split
  all_goals rfl
@[simp] theorem settleLoss_age  : (settleLoss s).age = s.age := by
  unfold settleLoss; repeat' split
  all_goals rfl
@[simp] theorem settleLoss_shadow  : (settleLoss s).shadow = s.shadow := by
  unfold settleLoss; repeat' split
  all_goals rfl
@[simp] theorem settleLoss_flush  : (settleLoss s).flush = s.flush := by
  unfold settleLoss; repeat' split
  all_goals rfl
@[simp] theorem settleLoss_memErr  : (settleLoss s).memErr = s.memErr := by
  unfold settleLoss; repeat' split
  all_goals rfl
@[simp] theorem settleLoss_frames  : (settleLoss s).frames = s.frames := by
  unfold settleLoss; repeat' split
  all_goals rfl
@[simp] theorem settleLoss_gran  : (settleLoss s).gran = s.gran := by
  unfold settleLoss; repeat' split
  all_goals rfl
@[simp] theorem settleLoss_meters  : (settleLoss s).meters = s.meters := by
  unfold settleLoss; repeat' split
  all_goals rfl
@[simp] theorem settleLoss_shapers  : (settleLoss s).shapers = s.shapers := by
  unfold settleLoss; repeat' split
  all_goals rfl
@[simp] theorem settleLoss_meterInvalid  : (settleLoss s).meterInvalid = s.meterInvalid := by
  unfold settleLoss; repeat' split
  all_goals rfl
@[simp] theorem settleLoss_red  : (settleLoss s).red = s.red := by
  unfold settleLoss; repeat' split
  all_goals rfl
@[simp] theorem settleLoss_imgLoad  : (settleLoss s).imgLoad = s.imgLoad := by
  unfold settleLoss; repeat' split
  all_goals rfl
@[simp] theorem settleLoss_gle  : (settleLoss s).gle = s.gle := by
  unfold settleLoss; repeat' split
  all_goals rfl
@[simp] theorem settleLoss_mirrors  : (settleLoss s).mirrors = s.mirrors := by
  unfold settleLoss; repeat' split
  all_goals rfl
@[simp] theorem settleLoss_stook  : (settleLoss s).stook = s.stook := by
  unfold settleLoss; repeat' split
  all_goals rfl
@[simp] theorem settleLoss_perf  : (settleLoss s).perf = s.perf := by
  unfold settleLoss; repeat' split
  all_goals rfl
@[simp] theorem settleLoss_deep  : (settleLoss s).deep = s.deep := by
  unfold settleLoss; repeat' split
  all_goals rfl
@[simp] theorem settleLoss_out  : (settleLoss s).out = s.out := by
  unfold settleLoss; repeat' split
  all_goals rfl
@[simp] theorem settleLoss_free  : (settleLoss s).free = s.free := by
  unfold settleLoss; repeat' split
  all_goals rfl
@[simp] theorem settleLoss_nextUid  : (settleLoss s).nextUid = s.nextUid := by
  unfold settleLoss; repeat' split
  all_goals rfl

/-! ## jRecord -/

@[simp] theorem jRecord_pending (stamp qns src cause sup : Nat) (payload : List Byte) : (jRecord stamp qns src cause sup payload s).pending = s.pending := by
  unfold jRecord; dsimp only; repeat' split
  all_goals simp
@[simp] theorem jRecord_dev (stamp qns src cause sup : Nat) (payload : List Byte) : (jRecord stamp qns src cause sup payload s).dev = s.dev := by
  unfold jRecord; dsimp only; repeat' split
  all_goals simp
@[simp] theorem jRecord_clk (stamp qns src cause sup : Nat) (payload : List Byte) : (jRecord stamp qns src cause sup payload s).clk = s.clk := by
  unfold jRecord; dsimp only; repeat' split
  all_goals simp
@[simp] theorem jRecord_slices (stamp qns src cause sup : Nat) (payload : List Byte) : (jRecord stamp qns src cause sup payload s).slices = s.slices := by
  unfold jRecord; dsimp only; repeat' split
  all_goals simp
@[simp] theorem jRecord_mir (stamp qns src cause sup : Nat) (payload : List Byte) : (jRecord stamp qns src cause sup payload s).mir = s.mir := by
  unfold jRecord; dsimp only; repeat' split
  all_goals simp
@[simp] theorem jRecord_sup (stamp qns src cause sup : Nat) (payload : List Byte) : (jRecord stamp qns src cause sup payload s).sup = s.sup := by
  unfold jRecord; dsimp only; repeat' split
  all_goals simp
@[simp] theorem jRecord_therm (stamp qns src cause sup : Nat) (payload : List Byte) : (jRecord stamp qns src cause sup payload s).therm = s.therm := by
  unfold jRecord; dsimp only; repeat' split
  all_goals simp
@[simp] theorem jRecord_pcie (stamp qns src cause sup : Nat) (payload : List Byte) : (jRecord stamp qns src cause sup payload s).pcie = s.pcie := by
  unfold jRecord; dsimp only; repeat' split
  all_goals simp
@[simp] theorem jRecord_nv (stamp qns src cause sup : Nat) (payload : List Byte) : (jRecord stamp qns src cause sup payload s).nv = s.nv := by
  unfold jRecord; dsimp only; repeat' split
  all_goals simp
@[simp] theorem jRecord_opt (stamp qns src cause sup : Nat) (payload : List Byte) : (jRecord stamp qns src cause sup payload s).opt = s.opt := by
  unfold jRecord; dsimp only; repeat' split
  all_goals simp
@[simp] theorem jRecord_ret (stamp qns src cause sup : Nat) (payload : List Byte) : (jRecord stamp qns src cause sup payload s).ret = s.ret := by
  unfold jRecord; dsimp only; repeat' split
  all_goals simp
@[simp] theorem jRecord_cp (stamp qns src cause sup : Nat) (payload : List Byte) : (jRecord stamp qns src cause sup payload s).cp = s.cp := by
  unfold jRecord; dsimp only; repeat' split
  all_goals simp
@[simp] theorem jRecord_spi (stamp qns src cause sup : Nat) (payload : List Byte) : (jRecord stamp qns src cause sup payload s).spi = s.spi := by
  unfold jRecord; dsimp only; repeat' split
  all_goals simp
@[simp] theorem jRecord_rings (stamp qns src cause sup : Nat) (payload : List Byte) : (jRecord stamp qns src cause sup payload s).rings = s.rings := by
  unfold jRecord; dsimp only; repeat' split
  all_goals simp
@[simp] theorem jRecord_hfr (stamp qns src cause sup : Nat) (payload : List Byte) : (jRecord stamp qns src cause sup payload s).hfr = s.hfr := by
  unfold jRecord; dsimp only; repeat' split
  all_goals simp
@[simp] theorem jRecord_win (stamp qns src cause sup : Nat) (payload : List Byte) : (jRecord stamp qns src cause sup payload s).win = s.win := by
  unfold jRecord; dsimp only; repeat' split
  all_goals simp
@[simp] theorem jRecord_ev (stamp qns src cause sup : Nat) (payload : List Byte) : (jRecord stamp qns src cause sup payload s).ev = s.ev := by
  unfold jRecord; dsimp only; repeat' split
  all_goals simp
@[simp] theorem jRecord_tim (stamp qns src cause sup : Nat) (payload : List Byte) : (jRecord stamp qns src cause sup payload s).tim = s.tim := by
  unfold jRecord; dsimp only; repeat' split
  all_goals simp
@[simp] theorem jRecord_gpio (stamp qns src cause sup : Nat) (payload : List Byte) : (jRecord stamp qns src cause sup payload s).gpio = s.gpio := by
  unfold jRecord; dsimp only; repeat' split
  all_goals simp
@[simp] theorem jRecord_ports (stamp qns src cause sup : Nat) (payload : List Byte) : (jRecord stamp qns src cause sup payload s).ports = s.ports := by
  unfold jRecord; dsimp only; repeat' split
  all_goals simp
@[simp] theorem jRecord_lanes (stamp qns src cause sup : Nat) (payload : List Byte) : (jRecord stamp qns src cause sup payload s).lanes = s.lanes := by
  unfold jRecord; dsimp only; repeat' split
  all_goals simp
@[simp] theorem jRecord_i2c (stamp qns src cause sup : Nat) (payload : List Byte) : (jRecord stamp qns src cause sup payload s).i2c = s.i2c := by
  unfold jRecord; dsimp only; repeat' split
  all_goals simp
@[simp] theorem jRecord_mods (stamp qns src cause sup : Nat) (payload : List Byte) : (jRecord stamp qns src cause sup payload s).mods = s.mods := by
  unfold jRecord; dsimp only; repeat' split
  all_goals simp
@[simp] theorem jRecord_bankBit (stamp qns src cause sup : Nat) (payload : List Byte) : (jRecord stamp qns src cause sup payload s).bankBit = s.bankBit := by
  unfold jRecord; dsimp only; repeat' split
  all_goals simp
@[simp] theorem jRecord_swap (stamp qns src cause sup : Nat) (payload : List Byte) : (jRecord stamp qns src cause sup payload s).swap = s.swap := by
  unfold jRecord; dsimp only; repeat' split
  all_goals simp
@[simp] theorem jRecord_fa (stamp qns src cause sup : Nat) (payload : List Byte) : (jRecord stamp qns src cause sup payload s).fa = s.fa := by
  unfold jRecord; dsimp only; repeat' split
  all_goals simp
@[simp] theorem jRecord_fb (stamp qns src cause sup : Nat) (payload : List Byte) : (jRecord stamp qns src cause sup payload s).fb = s.fb := by
  unfold jRecord; dsimp only; repeat' split
  all_goals simp
@[simp] theorem jRecord_hl (stamp qns src cause sup : Nat) (payload : List Byte) : (jRecord stamp qns src cause sup payload s).hl = s.hl := by
  unfold jRecord; dsimp only; repeat' split
  all_goals simp
@[simp] theorem jRecord_age (stamp qns src cause sup : Nat) (payload : List Byte) : (jRecord stamp qns src cause sup payload s).age = s.age := by
  unfold jRecord; dsimp only; repeat' split
  all_goals simp
@[simp] theorem jRecord_shadow (stamp qns src cause sup : Nat) (payload : List Byte) : (jRecord stamp qns src cause sup payload s).shadow = s.shadow := by
  unfold jRecord; dsimp only; repeat' split
  all_goals simp
@[simp] theorem jRecord_flush (stamp qns src cause sup : Nat) (payload : List Byte) : (jRecord stamp qns src cause sup payload s).flush = s.flush := by
  unfold jRecord; dsimp only; repeat' split
  all_goals simp
@[simp] theorem jRecord_memErr (stamp qns src cause sup : Nat) (payload : List Byte) : (jRecord stamp qns src cause sup payload s).memErr = s.memErr := by
  unfold jRecord; dsimp only; repeat' split
  all_goals simp
@[simp] theorem jRecord_frames (stamp qns src cause sup : Nat) (payload : List Byte) : (jRecord stamp qns src cause sup payload s).frames = s.frames := by
  unfold jRecord; dsimp only; repeat' split
  all_goals simp
@[simp] theorem jRecord_gran (stamp qns src cause sup : Nat) (payload : List Byte) : (jRecord stamp qns src cause sup payload s).gran = s.gran := by
  unfold jRecord; dsimp only; repeat' split
  all_goals simp
@[simp] theorem jRecord_meters (stamp qns src cause sup : Nat) (payload : List Byte) : (jRecord stamp qns src cause sup payload s).meters = s.meters := by
  unfold jRecord; dsimp only; repeat' split
  all_goals simp
@[simp] theorem jRecord_shapers (stamp qns src cause sup : Nat) (payload : List Byte) : (jRecord stamp qns src cause sup payload s).shapers = s.shapers := by
  unfold jRecord; dsimp only; repeat' split
  all_goals simp
@[simp] theorem jRecord_meterInvalid (stamp qns src cause sup : Nat) (payload : List Byte) : (jRecord stamp qns src cause sup payload s).meterInvalid = s.meterInvalid := by
  unfold jRecord; dsimp only; repeat' split
  all_goals simp
@[simp] theorem jRecord_red (stamp qns src cause sup : Nat) (payload : List Byte) : (jRecord stamp qns src cause sup payload s).red = s.red := by
  unfold jRecord; dsimp only; repeat' split
  all_goals simp
@[simp] theorem jRecord_imgLoad (stamp qns src cause sup : Nat) (payload : List Byte) : (jRecord stamp qns src cause sup payload s).imgLoad = s.imgLoad := by
  unfold jRecord; dsimp only; repeat' split
  all_goals simp
@[simp] theorem jRecord_gle (stamp qns src cause sup : Nat) (payload : List Byte) : (jRecord stamp qns src cause sup payload s).gle = s.gle := by
  unfold jRecord; dsimp only; repeat' split
  all_goals simp
@[simp] theorem jRecord_mirrors (stamp qns src cause sup : Nat) (payload : List Byte) : (jRecord stamp qns src cause sup payload s).mirrors = s.mirrors := by
  unfold jRecord; dsimp only; repeat' split
  all_goals simp
@[simp] theorem jRecord_stook (stamp qns src cause sup : Nat) (payload : List Byte) : (jRecord stamp qns src cause sup payload s).stook = s.stook := by
  unfold jRecord; dsimp only; repeat' split
  all_goals simp
@[simp] theorem jRecord_perf (stamp qns src cause sup : Nat) (payload : List Byte) : (jRecord stamp qns src cause sup payload s).perf = s.perf := by
  unfold jRecord; dsimp only; repeat' split
  all_goals simp
@[simp] theorem jRecord_deep (stamp qns src cause sup : Nat) (payload : List Byte) : (jRecord stamp qns src cause sup payload s).deep = s.deep := by
  unfold jRecord; dsimp only; repeat' split
  all_goals simp
@[simp] theorem jRecord_out (stamp qns src cause sup : Nat) (payload : List Byte) : (jRecord stamp qns src cause sup payload s).out = s.out := by
  unfold jRecord; dsimp only; repeat' split
  all_goals simp
@[simp] theorem jRecord_free (stamp qns src cause sup : Nat) (payload : List Byte) : (jRecord stamp qns src cause sup payload s).free = s.free := by
  unfold jRecord; dsimp only; repeat' split
  all_goals simp
@[simp] theorem jRecord_nextUid (stamp qns src cause sup : Nat) (payload : List Byte) : (jRecord stamp qns src cause sup payload s).nextUid = s.nextUid := by
  unfold jRecord; dsimp only; repeat' split
  all_goals simp

/-! ## fireStamp -/

@[simp] theorem fireStamp_pending (stamp qns src cause : Nat) (payload : List Byte) : (fireStamp stamp qns src cause payload s).pending = s.pending := by
  unfold fireStamp; dsimp only; repeat' split
  all_goals simp
@[simp] theorem fireStamp_dev (stamp qns src cause : Nat) (payload : List Byte) : (fireStamp stamp qns src cause payload s).dev = s.dev := by
  unfold fireStamp; dsimp only; repeat' split
  all_goals simp
@[simp] theorem fireStamp_clk (stamp qns src cause : Nat) (payload : List Byte) : (fireStamp stamp qns src cause payload s).clk = s.clk := by
  unfold fireStamp; dsimp only; repeat' split
  all_goals simp
@[simp] theorem fireStamp_slices (stamp qns src cause : Nat) (payload : List Byte) : (fireStamp stamp qns src cause payload s).slices = s.slices := by
  unfold fireStamp; dsimp only; repeat' split
  all_goals simp
@[simp] theorem fireStamp_mir (stamp qns src cause : Nat) (payload : List Byte) : (fireStamp stamp qns src cause payload s).mir = s.mir := by
  unfold fireStamp; dsimp only; repeat' split
  all_goals simp
@[simp] theorem fireStamp_sup (stamp qns src cause : Nat) (payload : List Byte) : (fireStamp stamp qns src cause payload s).sup = s.sup := by
  unfold fireStamp; dsimp only; repeat' split
  all_goals simp
@[simp] theorem fireStamp_therm (stamp qns src cause : Nat) (payload : List Byte) : (fireStamp stamp qns src cause payload s).therm = s.therm := by
  unfold fireStamp; dsimp only; repeat' split
  all_goals simp
@[simp] theorem fireStamp_pcie (stamp qns src cause : Nat) (payload : List Byte) : (fireStamp stamp qns src cause payload s).pcie = s.pcie := by
  unfold fireStamp; dsimp only; repeat' split
  all_goals simp
@[simp] theorem fireStamp_nv (stamp qns src cause : Nat) (payload : List Byte) : (fireStamp stamp qns src cause payload s).nv = s.nv := by
  unfold fireStamp; dsimp only; repeat' split
  all_goals simp
@[simp] theorem fireStamp_opt (stamp qns src cause : Nat) (payload : List Byte) : (fireStamp stamp qns src cause payload s).opt = s.opt := by
  unfold fireStamp; dsimp only; repeat' split
  all_goals simp
@[simp] theorem fireStamp_ret (stamp qns src cause : Nat) (payload : List Byte) : (fireStamp stamp qns src cause payload s).ret = s.ret := by
  unfold fireStamp; dsimp only; repeat' split
  all_goals simp
@[simp] theorem fireStamp_cp (stamp qns src cause : Nat) (payload : List Byte) : (fireStamp stamp qns src cause payload s).cp = s.cp := by
  unfold fireStamp; dsimp only; repeat' split
  all_goals simp
@[simp] theorem fireStamp_spi (stamp qns src cause : Nat) (payload : List Byte) : (fireStamp stamp qns src cause payload s).spi = s.spi := by
  unfold fireStamp; dsimp only; repeat' split
  all_goals simp
@[simp] theorem fireStamp_rings (stamp qns src cause : Nat) (payload : List Byte) : (fireStamp stamp qns src cause payload s).rings = s.rings := by
  unfold fireStamp; dsimp only; repeat' split
  all_goals simp
@[simp] theorem fireStamp_hfr (stamp qns src cause : Nat) (payload : List Byte) : (fireStamp stamp qns src cause payload s).hfr = s.hfr := by
  unfold fireStamp; dsimp only; repeat' split
  all_goals simp
@[simp] theorem fireStamp_tim (stamp qns src cause : Nat) (payload : List Byte) : (fireStamp stamp qns src cause payload s).tim = s.tim := by
  unfold fireStamp; dsimp only; repeat' split
  all_goals simp
@[simp] theorem fireStamp_gpio (stamp qns src cause : Nat) (payload : List Byte) : (fireStamp stamp qns src cause payload s).gpio = s.gpio := by
  unfold fireStamp; dsimp only; repeat' split
  all_goals simp
@[simp] theorem fireStamp_ports (stamp qns src cause : Nat) (payload : List Byte) : (fireStamp stamp qns src cause payload s).ports = s.ports := by
  unfold fireStamp; dsimp only; repeat' split
  all_goals simp
@[simp] theorem fireStamp_lanes (stamp qns src cause : Nat) (payload : List Byte) : (fireStamp stamp qns src cause payload s).lanes = s.lanes := by
  unfold fireStamp; dsimp only; repeat' split
  all_goals simp
@[simp] theorem fireStamp_i2c (stamp qns src cause : Nat) (payload : List Byte) : (fireStamp stamp qns src cause payload s).i2c = s.i2c := by
  unfold fireStamp; dsimp only; repeat' split
  all_goals simp
@[simp] theorem fireStamp_mods (stamp qns src cause : Nat) (payload : List Byte) : (fireStamp stamp qns src cause payload s).mods = s.mods := by
  unfold fireStamp; dsimp only; repeat' split
  all_goals simp
@[simp] theorem fireStamp_bankBit (stamp qns src cause : Nat) (payload : List Byte) : (fireStamp stamp qns src cause payload s).bankBit = s.bankBit := by
  unfold fireStamp; dsimp only; repeat' split
  all_goals simp
@[simp] theorem fireStamp_swap (stamp qns src cause : Nat) (payload : List Byte) : (fireStamp stamp qns src cause payload s).swap = s.swap := by
  unfold fireStamp; dsimp only; repeat' split
  all_goals simp
@[simp] theorem fireStamp_fa (stamp qns src cause : Nat) (payload : List Byte) : (fireStamp stamp qns src cause payload s).fa = s.fa := by
  unfold fireStamp; dsimp only; repeat' split
  all_goals simp
@[simp] theorem fireStamp_fb (stamp qns src cause : Nat) (payload : List Byte) : (fireStamp stamp qns src cause payload s).fb = s.fb := by
  unfold fireStamp; dsimp only; repeat' split
  all_goals simp
@[simp] theorem fireStamp_hl (stamp qns src cause : Nat) (payload : List Byte) : (fireStamp stamp qns src cause payload s).hl = s.hl := by
  unfold fireStamp; dsimp only; repeat' split
  all_goals simp
@[simp] theorem fireStamp_age (stamp qns src cause : Nat) (payload : List Byte) : (fireStamp stamp qns src cause payload s).age = s.age := by
  unfold fireStamp; dsimp only; repeat' split
  all_goals simp
@[simp] theorem fireStamp_shadow (stamp qns src cause : Nat) (payload : List Byte) : (fireStamp stamp qns src cause payload s).shadow = s.shadow := by
  unfold fireStamp; dsimp only; repeat' split
  all_goals simp
@[simp] theorem fireStamp_flush (stamp qns src cause : Nat) (payload : List Byte) : (fireStamp stamp qns src cause payload s).flush = s.flush := by
  unfold fireStamp; dsimp only; repeat' split
  all_goals simp
@[simp] theorem fireStamp_memErr (stamp qns src cause : Nat) (payload : List Byte) : (fireStamp stamp qns src cause payload s).memErr = s.memErr := by
  unfold fireStamp; dsimp only; repeat' split
  all_goals simp
@[simp] theorem fireStamp_frames (stamp qns src cause : Nat) (payload : List Byte) : (fireStamp stamp qns src cause payload s).frames = s.frames := by
  unfold fireStamp; dsimp only; repeat' split
  all_goals simp
@[simp] theorem fireStamp_gran (stamp qns src cause : Nat) (payload : List Byte) : (fireStamp stamp qns src cause payload s).gran = s.gran := by
  unfold fireStamp; dsimp only; repeat' split
  all_goals simp
@[simp] theorem fireStamp_meters (stamp qns src cause : Nat) (payload : List Byte) : (fireStamp stamp qns src cause payload s).meters = s.meters := by
  unfold fireStamp; dsimp only; repeat' split
  all_goals simp
@[simp] theorem fireStamp_shapers (stamp qns src cause : Nat) (payload : List Byte) : (fireStamp stamp qns src cause payload s).shapers = s.shapers := by
  unfold fireStamp; dsimp only; repeat' split
  all_goals simp
@[simp] theorem fireStamp_meterInvalid (stamp qns src cause : Nat) (payload : List Byte) : (fireStamp stamp qns src cause payload s).meterInvalid = s.meterInvalid := by
  unfold fireStamp; dsimp only; repeat' split
  all_goals simp
@[simp] theorem fireStamp_red (stamp qns src cause : Nat) (payload : List Byte) : (fireStamp stamp qns src cause payload s).red = s.red := by
  unfold fireStamp; dsimp only; repeat' split
  all_goals simp
@[simp] theorem fireStamp_imgLoad (stamp qns src cause : Nat) (payload : List Byte) : (fireStamp stamp qns src cause payload s).imgLoad = s.imgLoad := by
  unfold fireStamp; dsimp only; repeat' split
  all_goals simp
@[simp] theorem fireStamp_gle (stamp qns src cause : Nat) (payload : List Byte) : (fireStamp stamp qns src cause payload s).gle = s.gle := by
  unfold fireStamp; dsimp only; repeat' split
  all_goals simp
@[simp] theorem fireStamp_mirrors (stamp qns src cause : Nat) (payload : List Byte) : (fireStamp stamp qns src cause payload s).mirrors = s.mirrors := by
  unfold fireStamp; dsimp only; repeat' split
  all_goals simp
@[simp] theorem fireStamp_stook (stamp qns src cause : Nat) (payload : List Byte) : (fireStamp stamp qns src cause payload s).stook = s.stook := by
  unfold fireStamp; dsimp only; repeat' split
  all_goals simp
@[simp] theorem fireStamp_perf (stamp qns src cause : Nat) (payload : List Byte) : (fireStamp stamp qns src cause payload s).perf = s.perf := by
  unfold fireStamp; dsimp only; repeat' split
  all_goals simp
@[simp] theorem fireStamp_deep (stamp qns src cause : Nat) (payload : List Byte) : (fireStamp stamp qns src cause payload s).deep = s.deep := by
  unfold fireStamp; dsimp only; repeat' split
  all_goals simp
@[simp] theorem fireStamp_free (stamp qns src cause : Nat) (payload : List Byte) : (fireStamp stamp qns src cause payload s).free = s.free := by
  unfold fireStamp; dsimp only; repeat' split
  all_goals simp
@[simp] theorem fireStamp_nextUid (stamp qns src cause : Nat) (payload : List Byte) : (fireStamp stamp qns src cause payload s).nextUid = s.nextUid := by
  unfold fireStamp; dsimp only; repeat' split
  all_goals simp

/-! ## fire -/

@[simp] theorem fire_pending (src cause : Nat) (payload : List Byte) : (fire src cause payload s).pending = s.pending := by
  simp [fire]
@[simp] theorem fire_dev (src cause : Nat) (payload : List Byte) : (fire src cause payload s).dev = s.dev := by
  simp [fire]
@[simp] theorem fire_clk (src cause : Nat) (payload : List Byte) : (fire src cause payload s).clk = s.clk := by
  simp [fire]
@[simp] theorem fire_slices (src cause : Nat) (payload : List Byte) : (fire src cause payload s).slices = s.slices := by
  simp [fire]
@[simp] theorem fire_mir (src cause : Nat) (payload : List Byte) : (fire src cause payload s).mir = s.mir := by
  simp [fire]
@[simp] theorem fire_sup (src cause : Nat) (payload : List Byte) : (fire src cause payload s).sup = s.sup := by
  simp [fire]
@[simp] theorem fire_therm (src cause : Nat) (payload : List Byte) : (fire src cause payload s).therm = s.therm := by
  simp [fire]
@[simp] theorem fire_pcie (src cause : Nat) (payload : List Byte) : (fire src cause payload s).pcie = s.pcie := by
  simp [fire]
@[simp] theorem fire_nv (src cause : Nat) (payload : List Byte) : (fire src cause payload s).nv = s.nv := by
  simp [fire]
@[simp] theorem fire_opt (src cause : Nat) (payload : List Byte) : (fire src cause payload s).opt = s.opt := by
  simp [fire]
@[simp] theorem fire_ret (src cause : Nat) (payload : List Byte) : (fire src cause payload s).ret = s.ret := by
  simp [fire]
@[simp] theorem fire_cp (src cause : Nat) (payload : List Byte) : (fire src cause payload s).cp = s.cp := by
  simp [fire]
@[simp] theorem fire_spi (src cause : Nat) (payload : List Byte) : (fire src cause payload s).spi = s.spi := by
  simp [fire]
@[simp] theorem fire_rings (src cause : Nat) (payload : List Byte) : (fire src cause payload s).rings = s.rings := by
  simp [fire]
@[simp] theorem fire_hfr (src cause : Nat) (payload : List Byte) : (fire src cause payload s).hfr = s.hfr := by
  simp [fire]
@[simp] theorem fire_tim (src cause : Nat) (payload : List Byte) : (fire src cause payload s).tim = s.tim := by
  simp [fire]
@[simp] theorem fire_gpio (src cause : Nat) (payload : List Byte) : (fire src cause payload s).gpio = s.gpio := by
  simp [fire]
@[simp] theorem fire_ports (src cause : Nat) (payload : List Byte) : (fire src cause payload s).ports = s.ports := by
  simp [fire]
@[simp] theorem fire_lanes (src cause : Nat) (payload : List Byte) : (fire src cause payload s).lanes = s.lanes := by
  simp [fire]
@[simp] theorem fire_i2c (src cause : Nat) (payload : List Byte) : (fire src cause payload s).i2c = s.i2c := by
  simp [fire]
@[simp] theorem fire_mods (src cause : Nat) (payload : List Byte) : (fire src cause payload s).mods = s.mods := by
  simp [fire]
@[simp] theorem fire_bankBit (src cause : Nat) (payload : List Byte) : (fire src cause payload s).bankBit = s.bankBit := by
  simp [fire]
@[simp] theorem fire_swap (src cause : Nat) (payload : List Byte) : (fire src cause payload s).swap = s.swap := by
  simp [fire]
@[simp] theorem fire_fa (src cause : Nat) (payload : List Byte) : (fire src cause payload s).fa = s.fa := by
  simp [fire]
@[simp] theorem fire_fb (src cause : Nat) (payload : List Byte) : (fire src cause payload s).fb = s.fb := by
  simp [fire]
@[simp] theorem fire_hl (src cause : Nat) (payload : List Byte) : (fire src cause payload s).hl = s.hl := by
  simp [fire]
@[simp] theorem fire_age (src cause : Nat) (payload : List Byte) : (fire src cause payload s).age = s.age := by
  simp [fire]
@[simp] theorem fire_shadow (src cause : Nat) (payload : List Byte) : (fire src cause payload s).shadow = s.shadow := by
  simp [fire]
@[simp] theorem fire_flush (src cause : Nat) (payload : List Byte) : (fire src cause payload s).flush = s.flush := by
  simp [fire]
@[simp] theorem fire_memErr (src cause : Nat) (payload : List Byte) : (fire src cause payload s).memErr = s.memErr := by
  simp [fire]
@[simp] theorem fire_frames (src cause : Nat) (payload : List Byte) : (fire src cause payload s).frames = s.frames := by
  simp [fire]
@[simp] theorem fire_gran (src cause : Nat) (payload : List Byte) : (fire src cause payload s).gran = s.gran := by
  simp [fire]
@[simp] theorem fire_meters (src cause : Nat) (payload : List Byte) : (fire src cause payload s).meters = s.meters := by
  simp [fire]
@[simp] theorem fire_shapers (src cause : Nat) (payload : List Byte) : (fire src cause payload s).shapers = s.shapers := by
  simp [fire]
@[simp] theorem fire_meterInvalid (src cause : Nat) (payload : List Byte) : (fire src cause payload s).meterInvalid = s.meterInvalid := by
  simp [fire]
@[simp] theorem fire_red (src cause : Nat) (payload : List Byte) : (fire src cause payload s).red = s.red := by
  simp [fire]
@[simp] theorem fire_imgLoad (src cause : Nat) (payload : List Byte) : (fire src cause payload s).imgLoad = s.imgLoad := by
  simp [fire]
@[simp] theorem fire_gle (src cause : Nat) (payload : List Byte) : (fire src cause payload s).gle = s.gle := by
  simp [fire]
@[simp] theorem fire_mirrors (src cause : Nat) (payload : List Byte) : (fire src cause payload s).mirrors = s.mirrors := by
  simp [fire]
@[simp] theorem fire_stook (src cause : Nat) (payload : List Byte) : (fire src cause payload s).stook = s.stook := by
  simp [fire]
@[simp] theorem fire_perf (src cause : Nat) (payload : List Byte) : (fire src cause payload s).perf = s.perf := by
  simp [fire]
@[simp] theorem fire_deep (src cause : Nat) (payload : List Byte) : (fire src cause payload s).deep = s.deep := by
  simp [fire]
@[simp] theorem fire_free (src cause : Nat) (payload : List Byte) : (fire src cause payload s).free = s.free := by
  simp [fire]
@[simp] theorem fire_nextUid (src cause : Nat) (payload : List Byte) : (fire src cause payload s).nextUid = s.nextUid := by
  simp [fire]

/-! ## fireFur -/

@[simp] theorem fireFur_pending (f src cause : Nat) (payload : List Byte) : (fireFur f src cause payload s).pending = s.pending := by
  unfold fireFur; split <;> simp
@[simp] theorem fireFur_dev (f src cause : Nat) (payload : List Byte) : (fireFur f src cause payload s).dev = s.dev := by
  unfold fireFur; split <;> simp
@[simp] theorem fireFur_clk (f src cause : Nat) (payload : List Byte) : (fireFur f src cause payload s).clk = s.clk := by
  unfold fireFur; split <;> simp
@[simp] theorem fireFur_slices (f src cause : Nat) (payload : List Byte) : (fireFur f src cause payload s).slices = s.slices := by
  unfold fireFur; split <;> simp
@[simp] theorem fireFur_mir (f src cause : Nat) (payload : List Byte) : (fireFur f src cause payload s).mir = s.mir := by
  unfold fireFur; split <;> simp
@[simp] theorem fireFur_sup (f src cause : Nat) (payload : List Byte) : (fireFur f src cause payload s).sup = s.sup := by
  unfold fireFur; split <;> simp
@[simp] theorem fireFur_therm (f src cause : Nat) (payload : List Byte) : (fireFur f src cause payload s).therm = s.therm := by
  unfold fireFur; split <;> simp
@[simp] theorem fireFur_pcie (f src cause : Nat) (payload : List Byte) : (fireFur f src cause payload s).pcie = s.pcie := by
  unfold fireFur; split <;> simp
@[simp] theorem fireFur_nv (f src cause : Nat) (payload : List Byte) : (fireFur f src cause payload s).nv = s.nv := by
  unfold fireFur; split <;> simp
@[simp] theorem fireFur_opt (f src cause : Nat) (payload : List Byte) : (fireFur f src cause payload s).opt = s.opt := by
  unfold fireFur; split <;> simp
@[simp] theorem fireFur_ret (f src cause : Nat) (payload : List Byte) : (fireFur f src cause payload s).ret = s.ret := by
  unfold fireFur; split <;> simp
@[simp] theorem fireFur_cp (f src cause : Nat) (payload : List Byte) : (fireFur f src cause payload s).cp = s.cp := by
  unfold fireFur; split <;> simp
@[simp] theorem fireFur_spi (f src cause : Nat) (payload : List Byte) : (fireFur f src cause payload s).spi = s.spi := by
  unfold fireFur; split <;> simp
@[simp] theorem fireFur_rings (f src cause : Nat) (payload : List Byte) : (fireFur f src cause payload s).rings = s.rings := by
  unfold fireFur; split <;> simp
@[simp] theorem fireFur_hfr (f src cause : Nat) (payload : List Byte) : (fireFur f src cause payload s).hfr = s.hfr := by
  unfold fireFur; split <;> simp
@[simp] theorem fireFur_tim (f src cause : Nat) (payload : List Byte) : (fireFur f src cause payload s).tim = s.tim := by
  unfold fireFur; split <;> simp
@[simp] theorem fireFur_gpio (f src cause : Nat) (payload : List Byte) : (fireFur f src cause payload s).gpio = s.gpio := by
  unfold fireFur; split <;> simp
@[simp] theorem fireFur_ports (f src cause : Nat) (payload : List Byte) : (fireFur f src cause payload s).ports = s.ports := by
  unfold fireFur; split <;> simp
@[simp] theorem fireFur_lanes (f src cause : Nat) (payload : List Byte) : (fireFur f src cause payload s).lanes = s.lanes := by
  unfold fireFur; split <;> simp
@[simp] theorem fireFur_i2c (f src cause : Nat) (payload : List Byte) : (fireFur f src cause payload s).i2c = s.i2c := by
  unfold fireFur; split <;> simp
@[simp] theorem fireFur_mods (f src cause : Nat) (payload : List Byte) : (fireFur f src cause payload s).mods = s.mods := by
  unfold fireFur; split <;> simp
@[simp] theorem fireFur_bankBit (f src cause : Nat) (payload : List Byte) : (fireFur f src cause payload s).bankBit = s.bankBit := by
  unfold fireFur; split <;> simp
@[simp] theorem fireFur_swap (f src cause : Nat) (payload : List Byte) : (fireFur f src cause payload s).swap = s.swap := by
  unfold fireFur; split <;> simp
@[simp] theorem fireFur_fa (f src cause : Nat) (payload : List Byte) : (fireFur f src cause payload s).fa = s.fa := by
  unfold fireFur; split <;> simp
@[simp] theorem fireFur_fb (f src cause : Nat) (payload : List Byte) : (fireFur f src cause payload s).fb = s.fb := by
  unfold fireFur; split <;> simp
@[simp] theorem fireFur_hl (f src cause : Nat) (payload : List Byte) : (fireFur f src cause payload s).hl = s.hl := by
  unfold fireFur; split <;> simp
@[simp] theorem fireFur_age (f src cause : Nat) (payload : List Byte) : (fireFur f src cause payload s).age = s.age := by
  unfold fireFur; split <;> simp
@[simp] theorem fireFur_shadow (f src cause : Nat) (payload : List Byte) : (fireFur f src cause payload s).shadow = s.shadow := by
  unfold fireFur; split <;> simp
@[simp] theorem fireFur_flush (f src cause : Nat) (payload : List Byte) : (fireFur f src cause payload s).flush = s.flush := by
  unfold fireFur; split <;> simp
@[simp] theorem fireFur_memErr (f src cause : Nat) (payload : List Byte) : (fireFur f src cause payload s).memErr = s.memErr := by
  unfold fireFur; split <;> simp
@[simp] theorem fireFur_frames (f src cause : Nat) (payload : List Byte) : (fireFur f src cause payload s).frames = s.frames := by
  unfold fireFur; split <;> simp
@[simp] theorem fireFur_gran (f src cause : Nat) (payload : List Byte) : (fireFur f src cause payload s).gran = s.gran := by
  unfold fireFur; split <;> simp
@[simp] theorem fireFur_meters (f src cause : Nat) (payload : List Byte) : (fireFur f src cause payload s).meters = s.meters := by
  unfold fireFur; split <;> simp
@[simp] theorem fireFur_shapers (f src cause : Nat) (payload : List Byte) : (fireFur f src cause payload s).shapers = s.shapers := by
  unfold fireFur; split <;> simp
@[simp] theorem fireFur_meterInvalid (f src cause : Nat) (payload : List Byte) : (fireFur f src cause payload s).meterInvalid = s.meterInvalid := by
  unfold fireFur; split <;> simp
@[simp] theorem fireFur_red (f src cause : Nat) (payload : List Byte) : (fireFur f src cause payload s).red = s.red := by
  unfold fireFur; split <;> simp
@[simp] theorem fireFur_imgLoad (f src cause : Nat) (payload : List Byte) : (fireFur f src cause payload s).imgLoad = s.imgLoad := by
  unfold fireFur; split <;> simp
@[simp] theorem fireFur_gle (f src cause : Nat) (payload : List Byte) : (fireFur f src cause payload s).gle = s.gle := by
  unfold fireFur; split <;> simp
@[simp] theorem fireFur_mirrors (f src cause : Nat) (payload : List Byte) : (fireFur f src cause payload s).mirrors = s.mirrors := by
  unfold fireFur; split <;> simp
@[simp] theorem fireFur_stook (f src cause : Nat) (payload : List Byte) : (fireFur f src cause payload s).stook = s.stook := by
  unfold fireFur; split <;> simp
@[simp] theorem fireFur_perf (f src cause : Nat) (payload : List Byte) : (fireFur f src cause payload s).perf = s.perf := by
  unfold fireFur; split <;> simp
@[simp] theorem fireFur_deep (f src cause : Nat) (payload : List Byte) : (fireFur f src cause payload s).deep = s.deep := by
  unfold fireFur; split <;> simp
@[simp] theorem fireFur_free (f src cause : Nat) (payload : List Byte) : (fireFur f src cause payload s).free = s.free := by
  unfold fireFur; split <;> simp
@[simp] theorem fireFur_nextUid (f src cause : Nat) (payload : List Byte) : (fireFur f src cause payload s).nextUid = s.nextUid := by
  unfold fireFur; split <;> simp

/-! ## fireMs -/

@[simp] theorem fireMs_pending (sub src cause : Nat) (payload : List Byte) : (fireMs sub src cause payload s).pending = s.pending := by
  unfold fireMs fireLim; dsimp only; split <;> simp
@[simp] theorem fireMs_dev (sub src cause : Nat) (payload : List Byte) : (fireMs sub src cause payload s).dev = s.dev := by
  unfold fireMs fireLim; dsimp only; split <;> simp
@[simp] theorem fireMs_clk (sub src cause : Nat) (payload : List Byte) : (fireMs sub src cause payload s).clk = s.clk := by
  unfold fireMs fireLim; dsimp only; split <;> simp
@[simp] theorem fireMs_slices (sub src cause : Nat) (payload : List Byte) : (fireMs sub src cause payload s).slices = s.slices := by
  unfold fireMs fireLim; dsimp only; split <;> simp
@[simp] theorem fireMs_mir (sub src cause : Nat) (payload : List Byte) : (fireMs sub src cause payload s).mir = s.mir := by
  unfold fireMs fireLim; dsimp only; split <;> simp
@[simp] theorem fireMs_sup (sub src cause : Nat) (payload : List Byte) : (fireMs sub src cause payload s).sup = s.sup := by
  unfold fireMs fireLim; dsimp only; split <;> simp
@[simp] theorem fireMs_therm (sub src cause : Nat) (payload : List Byte) : (fireMs sub src cause payload s).therm = s.therm := by
  unfold fireMs fireLim; dsimp only; split <;> simp
@[simp] theorem fireMs_pcie (sub src cause : Nat) (payload : List Byte) : (fireMs sub src cause payload s).pcie = s.pcie := by
  unfold fireMs fireLim; dsimp only; split <;> simp
@[simp] theorem fireMs_nv (sub src cause : Nat) (payload : List Byte) : (fireMs sub src cause payload s).nv = s.nv := by
  unfold fireMs fireLim; dsimp only; split <;> simp
@[simp] theorem fireMs_opt (sub src cause : Nat) (payload : List Byte) : (fireMs sub src cause payload s).opt = s.opt := by
  unfold fireMs fireLim; dsimp only; split <;> simp
@[simp] theorem fireMs_ret (sub src cause : Nat) (payload : List Byte) : (fireMs sub src cause payload s).ret = s.ret := by
  unfold fireMs fireLim; dsimp only; split <;> simp
@[simp] theorem fireMs_cp (sub src cause : Nat) (payload : List Byte) : (fireMs sub src cause payload s).cp = s.cp := by
  unfold fireMs fireLim; dsimp only; split <;> simp
@[simp] theorem fireMs_spi (sub src cause : Nat) (payload : List Byte) : (fireMs sub src cause payload s).spi = s.spi := by
  unfold fireMs fireLim; dsimp only; split <;> simp
@[simp] theorem fireMs_rings (sub src cause : Nat) (payload : List Byte) : (fireMs sub src cause payload s).rings = s.rings := by
  unfold fireMs fireLim; dsimp only; split <;> simp
@[simp] theorem fireMs_hfr (sub src cause : Nat) (payload : List Byte) : (fireMs sub src cause payload s).hfr = s.hfr := by
  unfold fireMs fireLim; dsimp only; split <;> simp
@[simp] theorem fireMs_tim (sub src cause : Nat) (payload : List Byte) : (fireMs sub src cause payload s).tim = s.tim := by
  unfold fireMs fireLim; dsimp only; split <;> simp
@[simp] theorem fireMs_gpio (sub src cause : Nat) (payload : List Byte) : (fireMs sub src cause payload s).gpio = s.gpio := by
  unfold fireMs fireLim; dsimp only; split <;> simp
@[simp] theorem fireMs_ports (sub src cause : Nat) (payload : List Byte) : (fireMs sub src cause payload s).ports = s.ports := by
  unfold fireMs fireLim; dsimp only; split <;> simp
@[simp] theorem fireMs_lanes (sub src cause : Nat) (payload : List Byte) : (fireMs sub src cause payload s).lanes = s.lanes := by
  unfold fireMs fireLim; dsimp only; split <;> simp
@[simp] theorem fireMs_i2c (sub src cause : Nat) (payload : List Byte) : (fireMs sub src cause payload s).i2c = s.i2c := by
  unfold fireMs fireLim; dsimp only; split <;> simp
@[simp] theorem fireMs_mods (sub src cause : Nat) (payload : List Byte) : (fireMs sub src cause payload s).mods = s.mods := by
  unfold fireMs fireLim; dsimp only; split <;> simp
@[simp] theorem fireMs_bankBit (sub src cause : Nat) (payload : List Byte) : (fireMs sub src cause payload s).bankBit = s.bankBit := by
  unfold fireMs fireLim; dsimp only; split <;> simp
@[simp] theorem fireMs_swap (sub src cause : Nat) (payload : List Byte) : (fireMs sub src cause payload s).swap = s.swap := by
  unfold fireMs fireLim; dsimp only; split <;> simp
@[simp] theorem fireMs_fa (sub src cause : Nat) (payload : List Byte) : (fireMs sub src cause payload s).fa = s.fa := by
  unfold fireMs fireLim; dsimp only; split <;> simp
@[simp] theorem fireMs_fb (sub src cause : Nat) (payload : List Byte) : (fireMs sub src cause payload s).fb = s.fb := by
  unfold fireMs fireLim; dsimp only; split <;> simp
@[simp] theorem fireMs_hl (sub src cause : Nat) (payload : List Byte) : (fireMs sub src cause payload s).hl = s.hl := by
  unfold fireMs fireLim; dsimp only; split <;> simp
@[simp] theorem fireMs_age (sub src cause : Nat) (payload : List Byte) : (fireMs sub src cause payload s).age = s.age := by
  unfold fireMs fireLim; dsimp only; split <;> simp
@[simp] theorem fireMs_shadow (sub src cause : Nat) (payload : List Byte) : (fireMs sub src cause payload s).shadow = s.shadow := by
  unfold fireMs fireLim; dsimp only; split <;> simp
@[simp] theorem fireMs_flush (sub src cause : Nat) (payload : List Byte) : (fireMs sub src cause payload s).flush = s.flush := by
  unfold fireMs fireLim; dsimp only; split <;> simp
@[simp] theorem fireMs_memErr (sub src cause : Nat) (payload : List Byte) : (fireMs sub src cause payload s).memErr = s.memErr := by
  unfold fireMs fireLim; dsimp only; split <;> simp
@[simp] theorem fireMs_frames (sub src cause : Nat) (payload : List Byte) : (fireMs sub src cause payload s).frames = s.frames := by
  unfold fireMs fireLim; dsimp only; split <;> simp
@[simp] theorem fireMs_gran (sub src cause : Nat) (payload : List Byte) : (fireMs sub src cause payload s).gran = s.gran := by
  unfold fireMs fireLim; dsimp only; split <;> simp
@[simp] theorem fireMs_meters (sub src cause : Nat) (payload : List Byte) : (fireMs sub src cause payload s).meters = s.meters := by
  unfold fireMs fireLim; dsimp only; split <;> simp
@[simp] theorem fireMs_shapers (sub src cause : Nat) (payload : List Byte) : (fireMs sub src cause payload s).shapers = s.shapers := by
  unfold fireMs fireLim; dsimp only; split <;> simp
@[simp] theorem fireMs_meterInvalid (sub src cause : Nat) (payload : List Byte) : (fireMs sub src cause payload s).meterInvalid = s.meterInvalid := by
  unfold fireMs fireLim; dsimp only; split <;> simp
@[simp] theorem fireMs_red (sub src cause : Nat) (payload : List Byte) : (fireMs sub src cause payload s).red = s.red := by
  unfold fireMs fireLim; dsimp only; split <;> simp
@[simp] theorem fireMs_imgLoad (sub src cause : Nat) (payload : List Byte) : (fireMs sub src cause payload s).imgLoad = s.imgLoad := by
  unfold fireMs fireLim; dsimp only; split <;> simp
@[simp] theorem fireMs_gle (sub src cause : Nat) (payload : List Byte) : (fireMs sub src cause payload s).gle = s.gle := by
  unfold fireMs fireLim; dsimp only; split <;> simp
@[simp] theorem fireMs_mirrors (sub src cause : Nat) (payload : List Byte) : (fireMs sub src cause payload s).mirrors = s.mirrors := by
  unfold fireMs fireLim; dsimp only; split <;> simp
@[simp] theorem fireMs_stook (sub src cause : Nat) (payload : List Byte) : (fireMs sub src cause payload s).stook = s.stook := by
  unfold fireMs fireLim; dsimp only; split <;> simp
@[simp] theorem fireMs_perf (sub src cause : Nat) (payload : List Byte) : (fireMs sub src cause payload s).perf = s.perf := by
  unfold fireMs fireLim; dsimp only; split <;> simp
@[simp] theorem fireMs_deep (sub src cause : Nat) (payload : List Byte) : (fireMs sub src cause payload s).deep = s.deep := by
  unfold fireMs fireLim; dsimp only; split <;> simp
@[simp] theorem fireMs_free (sub src cause : Nat) (payload : List Byte) : (fireMs sub src cause payload s).free = s.free := by
  unfold fireMs fireLim; dsimp only; split <;> simp
@[simp] theorem fireMs_nextUid (sub src cause : Nat) (payload : List Byte) : (fireMs sub src cause payload s).nextUid = s.nextUid := by
  unfold fireMs fireLim; dsimp only; split <;> simp

/-! ## fireFurMs -/

@[simp] theorem fireFurMs_pending (f src cause : Nat) (payload : List Byte) : (fireFurMs f src cause payload s).pending = s.pending := by
  unfold fireFurMs fireLim; dsimp only; split; rfl; split <;> simp
@[simp] theorem fireFurMs_dev (f src cause : Nat) (payload : List Byte) : (fireFurMs f src cause payload s).dev = s.dev := by
  unfold fireFurMs fireLim; dsimp only; split; rfl; split <;> simp
@[simp] theorem fireFurMs_clk (f src cause : Nat) (payload : List Byte) : (fireFurMs f src cause payload s).clk = s.clk := by
  unfold fireFurMs fireLim; dsimp only; split; rfl; split <;> simp
@[simp] theorem fireFurMs_slices (f src cause : Nat) (payload : List Byte) : (fireFurMs f src cause payload s).slices = s.slices := by
  unfold fireFurMs fireLim; dsimp only; split; rfl; split <;> simp
@[simp] theorem fireFurMs_mir (f src cause : Nat) (payload : List Byte) : (fireFurMs f src cause payload s).mir = s.mir := by
  unfold fireFurMs fireLim; dsimp only; split; rfl; split <;> simp
@[simp] theorem fireFurMs_sup (f src cause : Nat) (payload : List Byte) : (fireFurMs f src cause payload s).sup = s.sup := by
  unfold fireFurMs fireLim; dsimp only; split; rfl; split <;> simp
@[simp] theorem fireFurMs_therm (f src cause : Nat) (payload : List Byte) : (fireFurMs f src cause payload s).therm = s.therm := by
  unfold fireFurMs fireLim; dsimp only; split; rfl; split <;> simp
@[simp] theorem fireFurMs_pcie (f src cause : Nat) (payload : List Byte) : (fireFurMs f src cause payload s).pcie = s.pcie := by
  unfold fireFurMs fireLim; dsimp only; split; rfl; split <;> simp
@[simp] theorem fireFurMs_nv (f src cause : Nat) (payload : List Byte) : (fireFurMs f src cause payload s).nv = s.nv := by
  unfold fireFurMs fireLim; dsimp only; split; rfl; split <;> simp
@[simp] theorem fireFurMs_opt (f src cause : Nat) (payload : List Byte) : (fireFurMs f src cause payload s).opt = s.opt := by
  unfold fireFurMs fireLim; dsimp only; split; rfl; split <;> simp
@[simp] theorem fireFurMs_ret (f src cause : Nat) (payload : List Byte) : (fireFurMs f src cause payload s).ret = s.ret := by
  unfold fireFurMs fireLim; dsimp only; split; rfl; split <;> simp
@[simp] theorem fireFurMs_cp (f src cause : Nat) (payload : List Byte) : (fireFurMs f src cause payload s).cp = s.cp := by
  unfold fireFurMs fireLim; dsimp only; split; rfl; split <;> simp
@[simp] theorem fireFurMs_spi (f src cause : Nat) (payload : List Byte) : (fireFurMs f src cause payload s).spi = s.spi := by
  unfold fireFurMs fireLim; dsimp only; split; rfl; split <;> simp
@[simp] theorem fireFurMs_rings (f src cause : Nat) (payload : List Byte) : (fireFurMs f src cause payload s).rings = s.rings := by
  unfold fireFurMs fireLim; dsimp only; split; rfl; split <;> simp
@[simp] theorem fireFurMs_hfr (f src cause : Nat) (payload : List Byte) : (fireFurMs f src cause payload s).hfr = s.hfr := by
  unfold fireFurMs fireLim; dsimp only; split; rfl; split <;> simp
@[simp] theorem fireFurMs_tim (f src cause : Nat) (payload : List Byte) : (fireFurMs f src cause payload s).tim = s.tim := by
  unfold fireFurMs fireLim; dsimp only; split; rfl; split <;> simp
@[simp] theorem fireFurMs_gpio (f src cause : Nat) (payload : List Byte) : (fireFurMs f src cause payload s).gpio = s.gpio := by
  unfold fireFurMs fireLim; dsimp only; split; rfl; split <;> simp
@[simp] theorem fireFurMs_ports (f src cause : Nat) (payload : List Byte) : (fireFurMs f src cause payload s).ports = s.ports := by
  unfold fireFurMs fireLim; dsimp only; split; rfl; split <;> simp
@[simp] theorem fireFurMs_lanes (f src cause : Nat) (payload : List Byte) : (fireFurMs f src cause payload s).lanes = s.lanes := by
  unfold fireFurMs fireLim; dsimp only; split; rfl; split <;> simp
@[simp] theorem fireFurMs_i2c (f src cause : Nat) (payload : List Byte) : (fireFurMs f src cause payload s).i2c = s.i2c := by
  unfold fireFurMs fireLim; dsimp only; split; rfl; split <;> simp
@[simp] theorem fireFurMs_mods (f src cause : Nat) (payload : List Byte) : (fireFurMs f src cause payload s).mods = s.mods := by
  unfold fireFurMs fireLim; dsimp only; split; rfl; split <;> simp
@[simp] theorem fireFurMs_bankBit (f src cause : Nat) (payload : List Byte) : (fireFurMs f src cause payload s).bankBit = s.bankBit := by
  unfold fireFurMs fireLim; dsimp only; split; rfl; split <;> simp
@[simp] theorem fireFurMs_swap (f src cause : Nat) (payload : List Byte) : (fireFurMs f src cause payload s).swap = s.swap := by
  unfold fireFurMs fireLim; dsimp only; split; rfl; split <;> simp
@[simp] theorem fireFurMs_fa (f src cause : Nat) (payload : List Byte) : (fireFurMs f src cause payload s).fa = s.fa := by
  unfold fireFurMs fireLim; dsimp only; split; rfl; split <;> simp
@[simp] theorem fireFurMs_fb (f src cause : Nat) (payload : List Byte) : (fireFurMs f src cause payload s).fb = s.fb := by
  unfold fireFurMs fireLim; dsimp only; split; rfl; split <;> simp
@[simp] theorem fireFurMs_hl (f src cause : Nat) (payload : List Byte) : (fireFurMs f src cause payload s).hl = s.hl := by
  unfold fireFurMs fireLim; dsimp only; split; rfl; split <;> simp
@[simp] theorem fireFurMs_age (f src cause : Nat) (payload : List Byte) : (fireFurMs f src cause payload s).age = s.age := by
  unfold fireFurMs fireLim; dsimp only; split; rfl; split <;> simp
@[simp] theorem fireFurMs_shadow (f src cause : Nat) (payload : List Byte) : (fireFurMs f src cause payload s).shadow = s.shadow := by
  unfold fireFurMs fireLim; dsimp only; split; rfl; split <;> simp
@[simp] theorem fireFurMs_flush (f src cause : Nat) (payload : List Byte) : (fireFurMs f src cause payload s).flush = s.flush := by
  unfold fireFurMs fireLim; dsimp only; split; rfl; split <;> simp
@[simp] theorem fireFurMs_memErr (f src cause : Nat) (payload : List Byte) : (fireFurMs f src cause payload s).memErr = s.memErr := by
  unfold fireFurMs fireLim; dsimp only; split; rfl; split <;> simp
@[simp] theorem fireFurMs_frames (f src cause : Nat) (payload : List Byte) : (fireFurMs f src cause payload s).frames = s.frames := by
  unfold fireFurMs fireLim; dsimp only; split; rfl; split <;> simp
@[simp] theorem fireFurMs_gran (f src cause : Nat) (payload : List Byte) : (fireFurMs f src cause payload s).gran = s.gran := by
  unfold fireFurMs fireLim; dsimp only; split; rfl; split <;> simp
@[simp] theorem fireFurMs_meters (f src cause : Nat) (payload : List Byte) : (fireFurMs f src cause payload s).meters = s.meters := by
  unfold fireFurMs fireLim; dsimp only; split; rfl; split <;> simp
@[simp] theorem fireFurMs_shapers (f src cause : Nat) (payload : List Byte) : (fireFurMs f src cause payload s).shapers = s.shapers := by
  unfold fireFurMs fireLim; dsimp only; split; rfl; split <;> simp
@[simp] theorem fireFurMs_meterInvalid (f src cause : Nat) (payload : List Byte) : (fireFurMs f src cause payload s).meterInvalid = s.meterInvalid := by
  unfold fireFurMs fireLim; dsimp only; split; rfl; split <;> simp
@[simp] theorem fireFurMs_red (f src cause : Nat) (payload : List Byte) : (fireFurMs f src cause payload s).red = s.red := by
  unfold fireFurMs fireLim; dsimp only; split; rfl; split <;> simp
@[simp] theorem fireFurMs_imgLoad (f src cause : Nat) (payload : List Byte) : (fireFurMs f src cause payload s).imgLoad = s.imgLoad := by
  unfold fireFurMs fireLim; dsimp only; split; rfl; split <;> simp
@[simp] theorem fireFurMs_gle (f src cause : Nat) (payload : List Byte) : (fireFurMs f src cause payload s).gle = s.gle := by
  unfold fireFurMs fireLim; dsimp only; split; rfl; split <;> simp
@[simp] theorem fireFurMs_mirrors (f src cause : Nat) (payload : List Byte) : (fireFurMs f src cause payload s).mirrors = s.mirrors := by
  unfold fireFurMs fireLim; dsimp only; split; rfl; split <;> simp
@[simp] theorem fireFurMs_stook (f src cause : Nat) (payload : List Byte) : (fireFurMs f src cause payload s).stook = s.stook := by
  unfold fireFurMs fireLim; dsimp only; split; rfl; split <;> simp
@[simp] theorem fireFurMs_perf (f src cause : Nat) (payload : List Byte) : (fireFurMs f src cause payload s).perf = s.perf := by
  unfold fireFurMs fireLim; dsimp only; split; rfl; split <;> simp
@[simp] theorem fireFurMs_deep (f src cause : Nat) (payload : List Byte) : (fireFurMs f src cause payload s).deep = s.deep := by
  unfold fireFurMs fireLim; dsimp only; split; rfl; split <;> simp
@[simp] theorem fireFurMs_free (f src cause : Nat) (payload : List Byte) : (fireFurMs f src cause payload s).free = s.free := by
  unfold fireFurMs fireLim; dsimp only; split; rfl; split <;> simp
@[simp] theorem fireFurMs_nextUid (f src cause : Nat) (payload : List Byte) : (fireFurMs f src cause payload s).nextUid = s.nextUid := by
  unfold fireFurMs fireLim; dsimp only; split; rfl; split <;> simp

/-! ## raiseAlarm -/

@[simp] theorem raiseAlarm_pending (f b : Nat) : (raiseAlarm f b s).pending = s.pending := by
  unfold raiseAlarm; split <;> rfl
@[simp] theorem raiseAlarm_dev (f b : Nat) : (raiseAlarm f b s).dev = s.dev := by
  unfold raiseAlarm; split <;> rfl
@[simp] theorem raiseAlarm_clk (f b : Nat) : (raiseAlarm f b s).clk = s.clk := by
  unfold raiseAlarm; split <;> rfl
@[simp] theorem raiseAlarm_slices (f b : Nat) : (raiseAlarm f b s).slices = s.slices := by
  unfold raiseAlarm; split <;> rfl
@[simp] theorem raiseAlarm_mir (f b : Nat) : (raiseAlarm f b s).mir = s.mir := by
  unfold raiseAlarm; split <;> rfl
@[simp] theorem raiseAlarm_sup (f b : Nat) : (raiseAlarm f b s).sup = s.sup := by
  unfold raiseAlarm; split <;> rfl
@[simp] theorem raiseAlarm_therm (f b : Nat) : (raiseAlarm f b s).therm = s.therm := by
  unfold raiseAlarm; split <;> rfl
@[simp] theorem raiseAlarm_pcie (f b : Nat) : (raiseAlarm f b s).pcie = s.pcie := by
  unfold raiseAlarm; split <;> rfl
@[simp] theorem raiseAlarm_nv (f b : Nat) : (raiseAlarm f b s).nv = s.nv := by
  unfold raiseAlarm; split <;> rfl
@[simp] theorem raiseAlarm_opt (f b : Nat) : (raiseAlarm f b s).opt = s.opt := by
  unfold raiseAlarm; split <;> rfl
@[simp] theorem raiseAlarm_ret (f b : Nat) : (raiseAlarm f b s).ret = s.ret := by
  unfold raiseAlarm; split <;> rfl
@[simp] theorem raiseAlarm_cp (f b : Nat) : (raiseAlarm f b s).cp = s.cp := by
  unfold raiseAlarm; split <;> rfl
@[simp] theorem raiseAlarm_spi (f b : Nat) : (raiseAlarm f b s).spi = s.spi := by
  unfold raiseAlarm; split <;> rfl
@[simp] theorem raiseAlarm_rings (f b : Nat) : (raiseAlarm f b s).rings = s.rings := by
  unfold raiseAlarm; split <;> rfl
@[simp] theorem raiseAlarm_hfr (f b : Nat) : (raiseAlarm f b s).hfr = s.hfr := by
  unfold raiseAlarm; split <;> rfl
@[simp] theorem raiseAlarm_win (f b : Nat) : (raiseAlarm f b s).win = s.win := by
  unfold raiseAlarm; split <;> rfl
@[simp] theorem raiseAlarm_ev (f b : Nat) : (raiseAlarm f b s).ev = s.ev := by
  unfold raiseAlarm; split <;> rfl
@[simp] theorem raiseAlarm_jr (f b : Nat) : (raiseAlarm f b s).jr = s.jr := by
  unfold raiseAlarm; split <;> rfl
@[simp] theorem raiseAlarm_tim (f b : Nat) : (raiseAlarm f b s).tim = s.tim := by
  unfold raiseAlarm; split <;> rfl
@[simp] theorem raiseAlarm_gpio (f b : Nat) : (raiseAlarm f b s).gpio = s.gpio := by
  unfold raiseAlarm; split <;> rfl
@[simp] theorem raiseAlarm_ports (f b : Nat) : (raiseAlarm f b s).ports = s.ports := by
  unfold raiseAlarm; split <;> rfl
@[simp] theorem raiseAlarm_lanes (f b : Nat) : (raiseAlarm f b s).lanes = s.lanes := by
  unfold raiseAlarm; split <;> rfl
@[simp] theorem raiseAlarm_i2c (f b : Nat) : (raiseAlarm f b s).i2c = s.i2c := by
  unfold raiseAlarm; split <;> rfl
@[simp] theorem raiseAlarm_mods (f b : Nat) : (raiseAlarm f b s).mods = s.mods := by
  unfold raiseAlarm; split <;> rfl
@[simp] theorem raiseAlarm_bankBit (f b : Nat) : (raiseAlarm f b s).bankBit = s.bankBit := by
  unfold raiseAlarm; split <;> rfl
@[simp] theorem raiseAlarm_swap (f b : Nat) : (raiseAlarm f b s).swap = s.swap := by
  unfold raiseAlarm; split <;> rfl
@[simp] theorem raiseAlarm_fa (f b : Nat) : (raiseAlarm f b s).fa = s.fa := by
  unfold raiseAlarm; split <;> rfl
@[simp] theorem raiseAlarm_fb (f b : Nat) : (raiseAlarm f b s).fb = s.fb := by
  unfold raiseAlarm; split <;> rfl
@[simp] theorem raiseAlarm_age (f b : Nat) : (raiseAlarm f b s).age = s.age := by
  unfold raiseAlarm; split <;> rfl
@[simp] theorem raiseAlarm_shadow (f b : Nat) : (raiseAlarm f b s).shadow = s.shadow := by
  unfold raiseAlarm; split <;> rfl
@[simp] theorem raiseAlarm_flush (f b : Nat) : (raiseAlarm f b s).flush = s.flush := by
  unfold raiseAlarm; split <;> rfl
@[simp] theorem raiseAlarm_memErr (f b : Nat) : (raiseAlarm f b s).memErr = s.memErr := by
  unfold raiseAlarm; split <;> rfl
@[simp] theorem raiseAlarm_frames (f b : Nat) : (raiseAlarm f b s).frames = s.frames := by
  unfold raiseAlarm; split <;> rfl
@[simp] theorem raiseAlarm_gran (f b : Nat) : (raiseAlarm f b s).gran = s.gran := by
  unfold raiseAlarm; split <;> rfl
@[simp] theorem raiseAlarm_meters (f b : Nat) : (raiseAlarm f b s).meters = s.meters := by
  unfold raiseAlarm; split <;> rfl
@[simp] theorem raiseAlarm_shapers (f b : Nat) : (raiseAlarm f b s).shapers = s.shapers := by
  unfold raiseAlarm; split <;> rfl
@[simp] theorem raiseAlarm_meterInvalid (f b : Nat) : (raiseAlarm f b s).meterInvalid = s.meterInvalid := by
  unfold raiseAlarm; split <;> rfl
@[simp] theorem raiseAlarm_red (f b : Nat) : (raiseAlarm f b s).red = s.red := by
  unfold raiseAlarm; split <;> rfl
@[simp] theorem raiseAlarm_imgLoad (f b : Nat) : (raiseAlarm f b s).imgLoad = s.imgLoad := by
  unfold raiseAlarm; split <;> rfl
@[simp] theorem raiseAlarm_gle (f b : Nat) : (raiseAlarm f b s).gle = s.gle := by
  unfold raiseAlarm; split <;> rfl
@[simp] theorem raiseAlarm_mirrors (f b : Nat) : (raiseAlarm f b s).mirrors = s.mirrors := by
  unfold raiseAlarm; split <;> rfl
@[simp] theorem raiseAlarm_stook (f b : Nat) : (raiseAlarm f b s).stook = s.stook := by
  unfold raiseAlarm; split <;> rfl
@[simp] theorem raiseAlarm_perf (f b : Nat) : (raiseAlarm f b s).perf = s.perf := by
  unfold raiseAlarm; split <;> rfl
@[simp] theorem raiseAlarm_deep (f b : Nat) : (raiseAlarm f b s).deep = s.deep := by
  unfold raiseAlarm; split <;> rfl
@[simp] theorem raiseAlarm_out (f b : Nat) : (raiseAlarm f b s).out = s.out := by
  unfold raiseAlarm; split <;> rfl
@[simp] theorem raiseAlarm_free (f b : Nat) : (raiseAlarm f b s).free = s.free := by
  unfold raiseAlarm; split <;> rfl
@[simp] theorem raiseAlarm_nextUid (f b : Nat) : (raiseAlarm f b s).nextUid = s.nextUid := by
  unfold raiseAlarm; split <;> rfl

/-! ## setFurState -/

@[simp] theorem setFurState_pending (f c : Nat) : (setFurState f c s).pending = s.pending := by
  unfold setFurState; split <;> rfl
@[simp] theorem setFurState_dev (f c : Nat) : (setFurState f c s).dev = s.dev := by
  unfold setFurState; split <;> rfl
@[simp] theorem setFurState_clk (f c : Nat) : (setFurState f c s).clk = s.clk := by
  unfold setFurState; split <;> rfl
@[simp] theorem setFurState_slices (f c : Nat) : (setFurState f c s).slices = s.slices := by
  unfold setFurState; split <;> rfl
@[simp] theorem setFurState_mir (f c : Nat) : (setFurState f c s).mir = s.mir := by
  unfold setFurState; split <;> rfl
@[simp] theorem setFurState_sup (f c : Nat) : (setFurState f c s).sup = s.sup := by
  unfold setFurState; split <;> rfl
@[simp] theorem setFurState_therm (f c : Nat) : (setFurState f c s).therm = s.therm := by
  unfold setFurState; split <;> rfl
@[simp] theorem setFurState_pcie (f c : Nat) : (setFurState f c s).pcie = s.pcie := by
  unfold setFurState; split <;> rfl
@[simp] theorem setFurState_nv (f c : Nat) : (setFurState f c s).nv = s.nv := by
  unfold setFurState; split <;> rfl
@[simp] theorem setFurState_opt (f c : Nat) : (setFurState f c s).opt = s.opt := by
  unfold setFurState; split <;> rfl
@[simp] theorem setFurState_ret (f c : Nat) : (setFurState f c s).ret = s.ret := by
  unfold setFurState; split <;> rfl
@[simp] theorem setFurState_cp (f c : Nat) : (setFurState f c s).cp = s.cp := by
  unfold setFurState; split <;> rfl
@[simp] theorem setFurState_spi (f c : Nat) : (setFurState f c s).spi = s.spi := by
  unfold setFurState; split <;> rfl
@[simp] theorem setFurState_rings (f c : Nat) : (setFurState f c s).rings = s.rings := by
  unfold setFurState; split <;> rfl
@[simp] theorem setFurState_hfr (f c : Nat) : (setFurState f c s).hfr = s.hfr := by
  unfold setFurState; split <;> rfl
@[simp] theorem setFurState_win (f c : Nat) : (setFurState f c s).win = s.win := by
  unfold setFurState; split <;> rfl
@[simp] theorem setFurState_ev (f c : Nat) : (setFurState f c s).ev = s.ev := by
  unfold setFurState; split <;> rfl
@[simp] theorem setFurState_jr (f c : Nat) : (setFurState f c s).jr = s.jr := by
  unfold setFurState; split <;> rfl
@[simp] theorem setFurState_tim (f c : Nat) : (setFurState f c s).tim = s.tim := by
  unfold setFurState; split <;> rfl
@[simp] theorem setFurState_gpio (f c : Nat) : (setFurState f c s).gpio = s.gpio := by
  unfold setFurState; split <;> rfl
@[simp] theorem setFurState_ports (f c : Nat) : (setFurState f c s).ports = s.ports := by
  unfold setFurState; split <;> rfl
@[simp] theorem setFurState_lanes (f c : Nat) : (setFurState f c s).lanes = s.lanes := by
  unfold setFurState; split <;> rfl
@[simp] theorem setFurState_i2c (f c : Nat) : (setFurState f c s).i2c = s.i2c := by
  unfold setFurState; split <;> rfl
@[simp] theorem setFurState_mods (f c : Nat) : (setFurState f c s).mods = s.mods := by
  unfold setFurState; split <;> rfl
@[simp] theorem setFurState_bankBit (f c : Nat) : (setFurState f c s).bankBit = s.bankBit := by
  unfold setFurState; split <;> rfl
@[simp] theorem setFurState_swap (f c : Nat) : (setFurState f c s).swap = s.swap := by
  unfold setFurState; split <;> rfl
@[simp] theorem setFurState_fa (f c : Nat) : (setFurState f c s).fa = s.fa := by
  unfold setFurState; split <;> rfl
@[simp] theorem setFurState_fb (f c : Nat) : (setFurState f c s).fb = s.fb := by
  unfold setFurState; split <;> rfl
@[simp] theorem setFurState_age (f c : Nat) : (setFurState f c s).age = s.age := by
  unfold setFurState; split <;> rfl
@[simp] theorem setFurState_shadow (f c : Nat) : (setFurState f c s).shadow = s.shadow := by
  unfold setFurState; split <;> rfl
@[simp] theorem setFurState_flush (f c : Nat) : (setFurState f c s).flush = s.flush := by
  unfold setFurState; split <;> rfl
@[simp] theorem setFurState_memErr (f c : Nat) : (setFurState f c s).memErr = s.memErr := by
  unfold setFurState; split <;> rfl
@[simp] theorem setFurState_frames (f c : Nat) : (setFurState f c s).frames = s.frames := by
  unfold setFurState; split <;> rfl
@[simp] theorem setFurState_gran (f c : Nat) : (setFurState f c s).gran = s.gran := by
  unfold setFurState; split <;> rfl
@[simp] theorem setFurState_meters (f c : Nat) : (setFurState f c s).meters = s.meters := by
  unfold setFurState; split <;> rfl
@[simp] theorem setFurState_shapers (f c : Nat) : (setFurState f c s).shapers = s.shapers := by
  unfold setFurState; split <;> rfl
@[simp] theorem setFurState_meterInvalid (f c : Nat) : (setFurState f c s).meterInvalid = s.meterInvalid := by
  unfold setFurState; split <;> rfl
@[simp] theorem setFurState_red (f c : Nat) : (setFurState f c s).red = s.red := by
  unfold setFurState; split <;> rfl
@[simp] theorem setFurState_imgLoad (f c : Nat) : (setFurState f c s).imgLoad = s.imgLoad := by
  unfold setFurState; split <;> rfl
@[simp] theorem setFurState_gle (f c : Nat) : (setFurState f c s).gle = s.gle := by
  unfold setFurState; split <;> rfl
@[simp] theorem setFurState_mirrors (f c : Nat) : (setFurState f c s).mirrors = s.mirrors := by
  unfold setFurState; split <;> rfl
@[simp] theorem setFurState_stook (f c : Nat) : (setFurState f c s).stook = s.stook := by
  unfold setFurState; split <;> rfl
@[simp] theorem setFurState_perf (f c : Nat) : (setFurState f c s).perf = s.perf := by
  unfold setFurState; split <;> rfl
@[simp] theorem setFurState_deep (f c : Nat) : (setFurState f c s).deep = s.deep := by
  unfold setFurState; split <;> rfl
@[simp] theorem setFurState_out (f c : Nat) : (setFurState f c s).out = s.out := by
  unfold setFurState; split <;> rfl
@[simp] theorem setFurState_free (f c : Nat) : (setFurState f c s).free = s.free := by
  unfold setFurState; split <;> rfl
@[simp] theorem setFurState_nextUid (f c : Nat) : (setFurState f c s).nextUid = s.nextUid := by
  unfold setFurState; split <;> rfl

/-! ## eachFur -/

@[simp] theorem eachFur_pending (g : FurrowSt → FurrowSt) : (eachFur g s).pending = s.pending := by
  unfold eachFur; dsimp only; repeat' split
  all_goals simp
@[simp] theorem eachFur_dev (g : FurrowSt → FurrowSt) : (eachFur g s).dev = s.dev := by
  unfold eachFur; dsimp only; repeat' split
  all_goals simp
@[simp] theorem eachFur_clk (g : FurrowSt → FurrowSt) : (eachFur g s).clk = s.clk := by
  unfold eachFur; dsimp only; repeat' split
  all_goals simp
@[simp] theorem eachFur_slices (g : FurrowSt → FurrowSt) : (eachFur g s).slices = s.slices := by
  unfold eachFur; dsimp only; repeat' split
  all_goals simp
@[simp] theorem eachFur_mir (g : FurrowSt → FurrowSt) : (eachFur g s).mir = s.mir := by
  unfold eachFur; dsimp only; repeat' split
  all_goals simp
@[simp] theorem eachFur_sup (g : FurrowSt → FurrowSt) : (eachFur g s).sup = s.sup := by
  unfold eachFur; dsimp only; repeat' split
  all_goals simp
@[simp] theorem eachFur_therm (g : FurrowSt → FurrowSt) : (eachFur g s).therm = s.therm := by
  unfold eachFur; dsimp only; repeat' split
  all_goals simp
@[simp] theorem eachFur_pcie (g : FurrowSt → FurrowSt) : (eachFur g s).pcie = s.pcie := by
  unfold eachFur; dsimp only; repeat' split
  all_goals simp
@[simp] theorem eachFur_nv (g : FurrowSt → FurrowSt) : (eachFur g s).nv = s.nv := by
  unfold eachFur; dsimp only; repeat' split
  all_goals simp
@[simp] theorem eachFur_opt (g : FurrowSt → FurrowSt) : (eachFur g s).opt = s.opt := by
  unfold eachFur; dsimp only; repeat' split
  all_goals simp
@[simp] theorem eachFur_ret (g : FurrowSt → FurrowSt) : (eachFur g s).ret = s.ret := by
  unfold eachFur; dsimp only; repeat' split
  all_goals simp
@[simp] theorem eachFur_cp (g : FurrowSt → FurrowSt) : (eachFur g s).cp = s.cp := by
  unfold eachFur; dsimp only; repeat' split
  all_goals simp
@[simp] theorem eachFur_spi (g : FurrowSt → FurrowSt) : (eachFur g s).spi = s.spi := by
  unfold eachFur; dsimp only; repeat' split
  all_goals simp
@[simp] theorem eachFur_rings (g : FurrowSt → FurrowSt) : (eachFur g s).rings = s.rings := by
  unfold eachFur; dsimp only; repeat' split
  all_goals simp
@[simp] theorem eachFur_hfr (g : FurrowSt → FurrowSt) : (eachFur g s).hfr = s.hfr := by
  unfold eachFur; dsimp only; repeat' split
  all_goals simp
@[simp] theorem eachFur_win (g : FurrowSt → FurrowSt) : (eachFur g s).win = s.win := by
  unfold eachFur; dsimp only; repeat' split
  all_goals simp
@[simp] theorem eachFur_ev (g : FurrowSt → FurrowSt) : (eachFur g s).ev = s.ev := by
  unfold eachFur; dsimp only; repeat' split
  all_goals simp
@[simp] theorem eachFur_jr (g : FurrowSt → FurrowSt) : (eachFur g s).jr = s.jr := by
  unfold eachFur; dsimp only; repeat' split
  all_goals simp
@[simp] theorem eachFur_tim (g : FurrowSt → FurrowSt) : (eachFur g s).tim = s.tim := by
  unfold eachFur; dsimp only; repeat' split
  all_goals simp
@[simp] theorem eachFur_gpio (g : FurrowSt → FurrowSt) : (eachFur g s).gpio = s.gpio := by
  unfold eachFur; dsimp only; repeat' split
  all_goals simp
@[simp] theorem eachFur_ports (g : FurrowSt → FurrowSt) : (eachFur g s).ports = s.ports := by
  unfold eachFur; dsimp only; repeat' split
  all_goals simp
@[simp] theorem eachFur_lanes (g : FurrowSt → FurrowSt) : (eachFur g s).lanes = s.lanes := by
  unfold eachFur; dsimp only; repeat' split
  all_goals simp
@[simp] theorem eachFur_i2c (g : FurrowSt → FurrowSt) : (eachFur g s).i2c = s.i2c := by
  unfold eachFur; dsimp only; repeat' split
  all_goals simp
@[simp] theorem eachFur_mods (g : FurrowSt → FurrowSt) : (eachFur g s).mods = s.mods := by
  unfold eachFur; dsimp only; repeat' split
  all_goals simp
@[simp] theorem eachFur_bankBit (g : FurrowSt → FurrowSt) : (eachFur g s).bankBit = s.bankBit := by
  unfold eachFur; dsimp only; repeat' split
  all_goals simp
@[simp] theorem eachFur_swap (g : FurrowSt → FurrowSt) : (eachFur g s).swap = s.swap := by
  unfold eachFur; dsimp only; repeat' split
  all_goals simp
@[simp] theorem eachFur_hl (g : FurrowSt → FurrowSt) : (eachFur g s).hl = s.hl := by
  unfold eachFur; dsimp only; repeat' split
  all_goals simp
@[simp] theorem eachFur_age (g : FurrowSt → FurrowSt) : (eachFur g s).age = s.age := by
  unfold eachFur; dsimp only; repeat' split
  all_goals simp
@[simp] theorem eachFur_shadow (g : FurrowSt → FurrowSt) : (eachFur g s).shadow = s.shadow := by
  unfold eachFur; dsimp only; repeat' split
  all_goals simp
@[simp] theorem eachFur_flush (g : FurrowSt → FurrowSt) : (eachFur g s).flush = s.flush := by
  unfold eachFur; dsimp only; repeat' split
  all_goals simp
@[simp] theorem eachFur_memErr (g : FurrowSt → FurrowSt) : (eachFur g s).memErr = s.memErr := by
  unfold eachFur; dsimp only; repeat' split
  all_goals simp
@[simp] theorem eachFur_frames (g : FurrowSt → FurrowSt) : (eachFur g s).frames = s.frames := by
  unfold eachFur; dsimp only; repeat' split
  all_goals simp
@[simp] theorem eachFur_gran (g : FurrowSt → FurrowSt) : (eachFur g s).gran = s.gran := by
  unfold eachFur; dsimp only; repeat' split
  all_goals simp
@[simp] theorem eachFur_meters (g : FurrowSt → FurrowSt) : (eachFur g s).meters = s.meters := by
  unfold eachFur; dsimp only; repeat' split
  all_goals simp
@[simp] theorem eachFur_shapers (g : FurrowSt → FurrowSt) : (eachFur g s).shapers = s.shapers := by
  unfold eachFur; dsimp only; repeat' split
  all_goals simp
@[simp] theorem eachFur_meterInvalid (g : FurrowSt → FurrowSt) : (eachFur g s).meterInvalid = s.meterInvalid := by
  unfold eachFur; dsimp only; repeat' split
  all_goals simp
@[simp] theorem eachFur_red (g : FurrowSt → FurrowSt) : (eachFur g s).red = s.red := by
  unfold eachFur; dsimp only; repeat' split
  all_goals simp
@[simp] theorem eachFur_imgLoad (g : FurrowSt → FurrowSt) : (eachFur g s).imgLoad = s.imgLoad := by
  unfold eachFur; dsimp only; repeat' split
  all_goals simp
@[simp] theorem eachFur_gle (g : FurrowSt → FurrowSt) : (eachFur g s).gle = s.gle := by
  unfold eachFur; dsimp only; repeat' split
  all_goals simp
@[simp] theorem eachFur_mirrors (g : FurrowSt → FurrowSt) : (eachFur g s).mirrors = s.mirrors := by
  unfold eachFur; dsimp only; repeat' split
  all_goals simp
@[simp] theorem eachFur_stook (g : FurrowSt → FurrowSt) : (eachFur g s).stook = s.stook := by
  unfold eachFur; dsimp only; repeat' split
  all_goals simp
@[simp] theorem eachFur_perf (g : FurrowSt → FurrowSt) : (eachFur g s).perf = s.perf := by
  unfold eachFur; dsimp only; repeat' split
  all_goals simp
@[simp] theorem eachFur_deep (g : FurrowSt → FurrowSt) : (eachFur g s).deep = s.deep := by
  unfold eachFur; dsimp only; repeat' split
  all_goals simp
@[simp] theorem eachFur_out (g : FurrowSt → FurrowSt) : (eachFur g s).out = s.out := by
  unfold eachFur; dsimp only; repeat' split
  all_goals simp
@[simp] theorem eachFur_free (g : FurrowSt → FurrowSt) : (eachFur g s).free = s.free := by
  unfold eachFur; dsimp only; repeat' split
  all_goals simp
@[simp] theorem eachFur_nextUid (g : FurrowSt → FurrowSt) : (eachFur g s).nextUid = s.nextUid := by
  unfold eachFur; dsimp only; repeat' split
  all_goals simp

/-! ## reachEdge -/

@[simp] theorem reachEdge_pending (e : Nat) : (reachEdge e s).pending = s.pending := by
  simp [reachEdge]
@[simp] theorem reachEdge_dev (e : Nat) : (reachEdge e s).dev = s.dev := by
  simp [reachEdge]
@[simp] theorem reachEdge_slices (e : Nat) : (reachEdge e s).slices = s.slices := by
  simp [reachEdge]
@[simp] theorem reachEdge_mir (e : Nat) : (reachEdge e s).mir = s.mir := by
  simp [reachEdge]
@[simp] theorem reachEdge_sup (e : Nat) : (reachEdge e s).sup = s.sup := by
  simp [reachEdge]
@[simp] theorem reachEdge_therm (e : Nat) : (reachEdge e s).therm = s.therm := by
  simp [reachEdge]
@[simp] theorem reachEdge_pcie (e : Nat) : (reachEdge e s).pcie = s.pcie := by
  simp [reachEdge]
@[simp] theorem reachEdge_nv (e : Nat) : (reachEdge e s).nv = s.nv := by
  simp [reachEdge]
@[simp] theorem reachEdge_opt (e : Nat) : (reachEdge e s).opt = s.opt := by
  simp [reachEdge]
@[simp] theorem reachEdge_ret (e : Nat) : (reachEdge e s).ret = s.ret := by
  simp [reachEdge]
@[simp] theorem reachEdge_cp (e : Nat) : (reachEdge e s).cp = s.cp := by
  simp [reachEdge]
@[simp] theorem reachEdge_spi (e : Nat) : (reachEdge e s).spi = s.spi := by
  simp [reachEdge]
@[simp] theorem reachEdge_rings (e : Nat) : (reachEdge e s).rings = s.rings := by
  simp [reachEdge]
@[simp] theorem reachEdge_hfr (e : Nat) : (reachEdge e s).hfr = s.hfr := by
  simp [reachEdge]
@[simp] theorem reachEdge_win (e : Nat) : (reachEdge e s).win = s.win := by
  simp [reachEdge]
@[simp] theorem reachEdge_ev (e : Nat) : (reachEdge e s).ev = s.ev := by
  simp [reachEdge]
@[simp] theorem reachEdge_jr (e : Nat) : (reachEdge e s).jr = s.jr := by
  simp [reachEdge]
@[simp] theorem reachEdge_tim (e : Nat) : (reachEdge e s).tim = s.tim := by
  simp [reachEdge]
@[simp] theorem reachEdge_gpio (e : Nat) : (reachEdge e s).gpio = s.gpio := by
  simp [reachEdge]
@[simp] theorem reachEdge_ports (e : Nat) : (reachEdge e s).ports = s.ports := by
  simp [reachEdge]
@[simp] theorem reachEdge_lanes (e : Nat) : (reachEdge e s).lanes = s.lanes := by
  simp [reachEdge]
@[simp] theorem reachEdge_i2c (e : Nat) : (reachEdge e s).i2c = s.i2c := by
  simp [reachEdge]
@[simp] theorem reachEdge_mods (e : Nat) : (reachEdge e s).mods = s.mods := by
  simp [reachEdge]
@[simp] theorem reachEdge_bankBit (e : Nat) : (reachEdge e s).bankBit = s.bankBit := by
  simp [reachEdge]
@[simp] theorem reachEdge_swap (e : Nat) : (reachEdge e s).swap = s.swap := by
  simp [reachEdge]
@[simp] theorem reachEdge_fa (e : Nat) : (reachEdge e s).fa = s.fa := by
  simp [reachEdge]
@[simp] theorem reachEdge_fb (e : Nat) : (reachEdge e s).fb = s.fb := by
  simp [reachEdge]
@[simp] theorem reachEdge_hl (e : Nat) : (reachEdge e s).hl = s.hl := by
  simp [reachEdge]
@[simp] theorem reachEdge_age (e : Nat) : (reachEdge e s).age = s.age := by
  simp [reachEdge]
@[simp] theorem reachEdge_shadow (e : Nat) : (reachEdge e s).shadow = s.shadow := by
  simp [reachEdge]
@[simp] theorem reachEdge_flush (e : Nat) : (reachEdge e s).flush = s.flush := by
  simp [reachEdge]
@[simp] theorem reachEdge_memErr (e : Nat) : (reachEdge e s).memErr = s.memErr := by
  simp [reachEdge]
@[simp] theorem reachEdge_frames (e : Nat) : (reachEdge e s).frames = s.frames := by
  simp [reachEdge]
@[simp] theorem reachEdge_gran (e : Nat) : (reachEdge e s).gran = s.gran := by
  simp [reachEdge]
@[simp] theorem reachEdge_meters (e : Nat) : (reachEdge e s).meters = s.meters := by
  simp [reachEdge]
@[simp] theorem reachEdge_shapers (e : Nat) : (reachEdge e s).shapers = s.shapers := by
  simp [reachEdge]
@[simp] theorem reachEdge_meterInvalid (e : Nat) : (reachEdge e s).meterInvalid = s.meterInvalid := by
  simp [reachEdge]
@[simp] theorem reachEdge_red (e : Nat) : (reachEdge e s).red = s.red := by
  simp [reachEdge]
@[simp] theorem reachEdge_imgLoad (e : Nat) : (reachEdge e s).imgLoad = s.imgLoad := by
  simp [reachEdge]
@[simp] theorem reachEdge_gle (e : Nat) : (reachEdge e s).gle = s.gle := by
  simp [reachEdge]
@[simp] theorem reachEdge_mirrors (e : Nat) : (reachEdge e s).mirrors = s.mirrors := by
  simp [reachEdge]
@[simp] theorem reachEdge_stook (e : Nat) : (reachEdge e s).stook = s.stook := by
  simp [reachEdge]
@[simp] theorem reachEdge_perf (e : Nat) : (reachEdge e s).perf = s.perf := by
  simp [reachEdge]
@[simp] theorem reachEdge_deep (e : Nat) : (reachEdge e s).deep = s.deep := by
  simp [reachEdge]
@[simp] theorem reachEdge_out (e : Nat) : (reachEdge e s).out = s.out := by
  simp [reachEdge]
@[simp] theorem reachEdge_free (e : Nat) : (reachEdge e s).free = s.free := by
  simp [reachEdge]
@[simp] theorem reachEdge_nextUid (e : Nat) : (reachEdge e s).nextUid = s.nextUid := by
  simp [reachEdge]

/-! ## reachNs -/

@[simp] theorem reachNs_pending (ns : Nat) : (reachNs ns s).pending = s.pending := by
  unfold reachNs; split <;> simp
@[simp] theorem reachNs_dev (ns : Nat) : (reachNs ns s).dev = s.dev := by
  unfold reachNs; split <;> simp
@[simp] theorem reachNs_slices (ns : Nat) : (reachNs ns s).slices = s.slices := by
  unfold reachNs; split <;> simp
@[simp] theorem reachNs_mir (ns : Nat) : (reachNs ns s).mir = s.mir := by
  unfold reachNs; split <;> simp
@[simp] theorem reachNs_sup (ns : Nat) : (reachNs ns s).sup = s.sup := by
  unfold reachNs; split <;> simp
@[simp] theorem reachNs_therm (ns : Nat) : (reachNs ns s).therm = s.therm := by
  unfold reachNs; split <;> simp
@[simp] theorem reachNs_pcie (ns : Nat) : (reachNs ns s).pcie = s.pcie := by
  unfold reachNs; split <;> simp
@[simp] theorem reachNs_nv (ns : Nat) : (reachNs ns s).nv = s.nv := by
  unfold reachNs; split <;> simp
@[simp] theorem reachNs_opt (ns : Nat) : (reachNs ns s).opt = s.opt := by
  unfold reachNs; split <;> simp
@[simp] theorem reachNs_ret (ns : Nat) : (reachNs ns s).ret = s.ret := by
  unfold reachNs; split <;> simp
@[simp] theorem reachNs_cp (ns : Nat) : (reachNs ns s).cp = s.cp := by
  unfold reachNs; split <;> simp
@[simp] theorem reachNs_spi (ns : Nat) : (reachNs ns s).spi = s.spi := by
  unfold reachNs; split <;> simp
@[simp] theorem reachNs_rings (ns : Nat) : (reachNs ns s).rings = s.rings := by
  unfold reachNs; split <;> simp
@[simp] theorem reachNs_hfr (ns : Nat) : (reachNs ns s).hfr = s.hfr := by
  unfold reachNs; split <;> simp
@[simp] theorem reachNs_win (ns : Nat) : (reachNs ns s).win = s.win := by
  unfold reachNs; split <;> simp
@[simp] theorem reachNs_ev (ns : Nat) : (reachNs ns s).ev = s.ev := by
  unfold reachNs; split <;> simp
@[simp] theorem reachNs_jr (ns : Nat) : (reachNs ns s).jr = s.jr := by
  unfold reachNs; split <;> simp
@[simp] theorem reachNs_tim (ns : Nat) : (reachNs ns s).tim = s.tim := by
  unfold reachNs; split <;> simp
@[simp] theorem reachNs_gpio (ns : Nat) : (reachNs ns s).gpio = s.gpio := by
  unfold reachNs; split <;> simp
@[simp] theorem reachNs_ports (ns : Nat) : (reachNs ns s).ports = s.ports := by
  unfold reachNs; split <;> simp
@[simp] theorem reachNs_lanes (ns : Nat) : (reachNs ns s).lanes = s.lanes := by
  unfold reachNs; split <;> simp
@[simp] theorem reachNs_i2c (ns : Nat) : (reachNs ns s).i2c = s.i2c := by
  unfold reachNs; split <;> simp
@[simp] theorem reachNs_mods (ns : Nat) : (reachNs ns s).mods = s.mods := by
  unfold reachNs; split <;> simp
@[simp] theorem reachNs_bankBit (ns : Nat) : (reachNs ns s).bankBit = s.bankBit := by
  unfold reachNs; split <;> simp
@[simp] theorem reachNs_swap (ns : Nat) : (reachNs ns s).swap = s.swap := by
  unfold reachNs; split <;> simp
@[simp] theorem reachNs_fa (ns : Nat) : (reachNs ns s).fa = s.fa := by
  unfold reachNs; split <;> simp
@[simp] theorem reachNs_fb (ns : Nat) : (reachNs ns s).fb = s.fb := by
  unfold reachNs; split <;> simp
@[simp] theorem reachNs_hl (ns : Nat) : (reachNs ns s).hl = s.hl := by
  unfold reachNs; split <;> simp
@[simp] theorem reachNs_age (ns : Nat) : (reachNs ns s).age = s.age := by
  unfold reachNs; split <;> simp
@[simp] theorem reachNs_shadow (ns : Nat) : (reachNs ns s).shadow = s.shadow := by
  unfold reachNs; split <;> simp
@[simp] theorem reachNs_flush (ns : Nat) : (reachNs ns s).flush = s.flush := by
  unfold reachNs; split <;> simp
@[simp] theorem reachNs_memErr (ns : Nat) : (reachNs ns s).memErr = s.memErr := by
  unfold reachNs; split <;> simp
@[simp] theorem reachNs_frames (ns : Nat) : (reachNs ns s).frames = s.frames := by
  unfold reachNs; split <;> simp
@[simp] theorem reachNs_gran (ns : Nat) : (reachNs ns s).gran = s.gran := by
  unfold reachNs; split <;> simp
@[simp] theorem reachNs_meters (ns : Nat) : (reachNs ns s).meters = s.meters := by
  unfold reachNs; split <;> simp
@[simp] theorem reachNs_shapers (ns : Nat) : (reachNs ns s).shapers = s.shapers := by
  unfold reachNs; split <;> simp
@[simp] theorem reachNs_meterInvalid (ns : Nat) : (reachNs ns s).meterInvalid = s.meterInvalid := by
  unfold reachNs; split <;> simp
@[simp] theorem reachNs_red (ns : Nat) : (reachNs ns s).red = s.red := by
  unfold reachNs; split <;> simp
@[simp] theorem reachNs_imgLoad (ns : Nat) : (reachNs ns s).imgLoad = s.imgLoad := by
  unfold reachNs; split <;> simp
@[simp] theorem reachNs_gle (ns : Nat) : (reachNs ns s).gle = s.gle := by
  unfold reachNs; split <;> simp
@[simp] theorem reachNs_mirrors (ns : Nat) : (reachNs ns s).mirrors = s.mirrors := by
  unfold reachNs; split <;> simp
@[simp] theorem reachNs_stook (ns : Nat) : (reachNs ns s).stook = s.stook := by
  unfold reachNs; split <;> simp
@[simp] theorem reachNs_perf (ns : Nat) : (reachNs ns s).perf = s.perf := by
  unfold reachNs; split <;> simp
@[simp] theorem reachNs_deep (ns : Nat) : (reachNs ns s).deep = s.deep := by
  unfold reachNs; split <;> simp
@[simp] theorem reachNs_out (ns : Nat) : (reachNs ns s).out = s.out := by
  unfold reachNs; split <;> simp
@[simp] theorem reachNs_free (ns : Nat) : (reachNs ns s).free = s.free := by
  unfold reachNs; split <;> simp
@[simp] theorem reachNs_nextUid (ns : Nat) : (reachNs ns s).nextUid = s.nextUid := by
  unfold reachNs; split <;> simp

/-! ## modSession -/

@[simp] theorem modSession_pending (k : Nat) (g : Session → Session) : (modSession k g s).pending = s.pending := by
  rfl
@[simp] theorem modSession_dev (k : Nat) (g : Session → Session) : (modSession k g s).dev = s.dev := by
  rfl
@[simp] theorem modSession_clk (k : Nat) (g : Session → Session) : (modSession k g s).clk = s.clk := by
  rfl
@[simp] theorem modSession_slices (k : Nat) (g : Session → Session) : (modSession k g s).slices = s.slices := by
  rfl
@[simp] theorem modSession_mir (k : Nat) (g : Session → Session) : (modSession k g s).mir = s.mir := by
  rfl
@[simp] theorem modSession_sup (k : Nat) (g : Session → Session) : (modSession k g s).sup = s.sup := by
  rfl
@[simp] theorem modSession_therm (k : Nat) (g : Session → Session) : (modSession k g s).therm = s.therm := by
  rfl
@[simp] theorem modSession_pcie (k : Nat) (g : Session → Session) : (modSession k g s).pcie = s.pcie := by
  rfl
@[simp] theorem modSession_nv (k : Nat) (g : Session → Session) : (modSession k g s).nv = s.nv := by
  rfl
@[simp] theorem modSession_opt (k : Nat) (g : Session → Session) : (modSession k g s).opt = s.opt := by
  rfl
@[simp] theorem modSession_ret (k : Nat) (g : Session → Session) : (modSession k g s).ret = s.ret := by
  rfl
@[simp] theorem modSession_spi (k : Nat) (g : Session → Session) : (modSession k g s).spi = s.spi := by
  rfl
@[simp] theorem modSession_rings (k : Nat) (g : Session → Session) : (modSession k g s).rings = s.rings := by
  rfl
@[simp] theorem modSession_hfr (k : Nat) (g : Session → Session) : (modSession k g s).hfr = s.hfr := by
  rfl
@[simp] theorem modSession_win (k : Nat) (g : Session → Session) : (modSession k g s).win = s.win := by
  rfl
@[simp] theorem modSession_ev (k : Nat) (g : Session → Session) : (modSession k g s).ev = s.ev := by
  rfl
@[simp] theorem modSession_jr (k : Nat) (g : Session → Session) : (modSession k g s).jr = s.jr := by
  rfl
@[simp] theorem modSession_tim (k : Nat) (g : Session → Session) : (modSession k g s).tim = s.tim := by
  rfl
@[simp] theorem modSession_gpio (k : Nat) (g : Session → Session) : (modSession k g s).gpio = s.gpio := by
  rfl
@[simp] theorem modSession_ports (k : Nat) (g : Session → Session) : (modSession k g s).ports = s.ports := by
  rfl
@[simp] theorem modSession_lanes (k : Nat) (g : Session → Session) : (modSession k g s).lanes = s.lanes := by
  rfl
@[simp] theorem modSession_i2c (k : Nat) (g : Session → Session) : (modSession k g s).i2c = s.i2c := by
  rfl
@[simp] theorem modSession_mods (k : Nat) (g : Session → Session) : (modSession k g s).mods = s.mods := by
  rfl
@[simp] theorem modSession_bankBit (k : Nat) (g : Session → Session) : (modSession k g s).bankBit = s.bankBit := by
  rfl
@[simp] theorem modSession_swap (k : Nat) (g : Session → Session) : (modSession k g s).swap = s.swap := by
  rfl
@[simp] theorem modSession_fa (k : Nat) (g : Session → Session) : (modSession k g s).fa = s.fa := by
  rfl
@[simp] theorem modSession_fb (k : Nat) (g : Session → Session) : (modSession k g s).fb = s.fb := by
  rfl
@[simp] theorem modSession_hl (k : Nat) (g : Session → Session) : (modSession k g s).hl = s.hl := by
  rfl
@[simp] theorem modSession_age (k : Nat) (g : Session → Session) : (modSession k g s).age = s.age := by
  rfl
@[simp] theorem modSession_shadow (k : Nat) (g : Session → Session) : (modSession k g s).shadow = s.shadow := by
  rfl
@[simp] theorem modSession_flush (k : Nat) (g : Session → Session) : (modSession k g s).flush = s.flush := by
  rfl
@[simp] theorem modSession_memErr (k : Nat) (g : Session → Session) : (modSession k g s).memErr = s.memErr := by
  rfl
@[simp] theorem modSession_frames (k : Nat) (g : Session → Session) : (modSession k g s).frames = s.frames := by
  rfl
@[simp] theorem modSession_gran (k : Nat) (g : Session → Session) : (modSession k g s).gran = s.gran := by
  rfl
@[simp] theorem modSession_meters (k : Nat) (g : Session → Session) : (modSession k g s).meters = s.meters := by
  rfl
@[simp] theorem modSession_shapers (k : Nat) (g : Session → Session) : (modSession k g s).shapers = s.shapers := by
  rfl
@[simp] theorem modSession_meterInvalid (k : Nat) (g : Session → Session) : (modSession k g s).meterInvalid = s.meterInvalid := by
  rfl
@[simp] theorem modSession_red (k : Nat) (g : Session → Session) : (modSession k g s).red = s.red := by
  rfl
@[simp] theorem modSession_imgLoad (k : Nat) (g : Session → Session) : (modSession k g s).imgLoad = s.imgLoad := by
  rfl
@[simp] theorem modSession_gle (k : Nat) (g : Session → Session) : (modSession k g s).gle = s.gle := by
  rfl
@[simp] theorem modSession_mirrors (k : Nat) (g : Session → Session) : (modSession k g s).mirrors = s.mirrors := by
  rfl
@[simp] theorem modSession_stook (k : Nat) (g : Session → Session) : (modSession k g s).stook = s.stook := by
  rfl
@[simp] theorem modSession_perf (k : Nat) (g : Session → Session) : (modSession k g s).perf = s.perf := by
  rfl
@[simp] theorem modSession_deep (k : Nat) (g : Session → Session) : (modSession k g s).deep = s.deep := by
  rfl
@[simp] theorem modSession_out (k : Nat) (g : Session → Session) : (modSession k g s).out = s.out := by
  rfl
@[simp] theorem modSession_free (k : Nat) (g : Session → Session) : (modSession k g s).free = s.free := by
  rfl
@[simp] theorem modSession_nextUid (k : Nat) (g : Session → Session) : (modSession k g s).nextUid = s.nextUid := by
  rfl

/-! ## closeSession -/

@[simp] theorem closeSession_pending (k : Nat) : (closeSession k s).pending = s.pending := by
  rfl
@[simp] theorem closeSession_dev (k : Nat) : (closeSession k s).dev = s.dev := by
  rfl
@[simp] theorem closeSession_clk (k : Nat) : (closeSession k s).clk = s.clk := by
  rfl
@[simp] theorem closeSession_slices (k : Nat) : (closeSession k s).slices = s.slices := by
  rfl
@[simp] theorem closeSession_mir (k : Nat) : (closeSession k s).mir = s.mir := by
  rfl
@[simp] theorem closeSession_sup (k : Nat) : (closeSession k s).sup = s.sup := by
  rfl
@[simp] theorem closeSession_therm (k : Nat) : (closeSession k s).therm = s.therm := by
  rfl
@[simp] theorem closeSession_pcie (k : Nat) : (closeSession k s).pcie = s.pcie := by
  rfl
@[simp] theorem closeSession_nv (k : Nat) : (closeSession k s).nv = s.nv := by
  rfl
@[simp] theorem closeSession_opt (k : Nat) : (closeSession k s).opt = s.opt := by
  rfl
@[simp] theorem closeSession_ret (k : Nat) : (closeSession k s).ret = s.ret := by
  rfl
@[simp] theorem closeSession_hfr (k : Nat) : (closeSession k s).hfr = s.hfr := by
  rfl
@[simp] theorem closeSession_win (k : Nat) : (closeSession k s).win = s.win := by
  rfl
@[simp] theorem closeSession_ev (k : Nat) : (closeSession k s).ev = s.ev := by
  rfl
@[simp] theorem closeSession_jr (k : Nat) : (closeSession k s).jr = s.jr := by
  rfl
@[simp] theorem closeSession_tim (k : Nat) : (closeSession k s).tim = s.tim := by
  rfl
@[simp] theorem closeSession_gpio (k : Nat) : (closeSession k s).gpio = s.gpio := by
  rfl
@[simp] theorem closeSession_ports (k : Nat) : (closeSession k s).ports = s.ports := by
  rfl
@[simp] theorem closeSession_lanes (k : Nat) : (closeSession k s).lanes = s.lanes := by
  rfl
@[simp] theorem closeSession_i2c (k : Nat) : (closeSession k s).i2c = s.i2c := by
  rfl
@[simp] theorem closeSession_mods (k : Nat) : (closeSession k s).mods = s.mods := by
  rfl
@[simp] theorem closeSession_bankBit (k : Nat) : (closeSession k s).bankBit = s.bankBit := by
  rfl
@[simp] theorem closeSession_swap (k : Nat) : (closeSession k s).swap = s.swap := by
  rfl
@[simp] theorem closeSession_fa (k : Nat) : (closeSession k s).fa = s.fa := by
  rfl
@[simp] theorem closeSession_fb (k : Nat) : (closeSession k s).fb = s.fb := by
  rfl
@[simp] theorem closeSession_hl (k : Nat) : (closeSession k s).hl = s.hl := by
  rfl
@[simp] theorem closeSession_age (k : Nat) : (closeSession k s).age = s.age := by
  rfl
@[simp] theorem closeSession_shadow (k : Nat) : (closeSession k s).shadow = s.shadow := by
  rfl
@[simp] theorem closeSession_flush (k : Nat) : (closeSession k s).flush = s.flush := by
  rfl
@[simp] theorem closeSession_memErr (k : Nat) : (closeSession k s).memErr = s.memErr := by
  rfl
@[simp] theorem closeSession_frames (k : Nat) : (closeSession k s).frames = s.frames := by
  rfl
@[simp] theorem closeSession_gran (k : Nat) : (closeSession k s).gran = s.gran := by
  rfl
@[simp] theorem closeSession_meters (k : Nat) : (closeSession k s).meters = s.meters := by
  rfl
@[simp] theorem closeSession_shapers (k : Nat) : (closeSession k s).shapers = s.shapers := by
  rfl
@[simp] theorem closeSession_meterInvalid (k : Nat) : (closeSession k s).meterInvalid = s.meterInvalid := by
  rfl
@[simp] theorem closeSession_red (k : Nat) : (closeSession k s).red = s.red := by
  rfl
@[simp] theorem closeSession_gle (k : Nat) : (closeSession k s).gle = s.gle := by
  rfl
@[simp] theorem closeSession_mirrors (k : Nat) : (closeSession k s).mirrors = s.mirrors := by
  rfl
@[simp] theorem closeSession_stook (k : Nat) : (closeSession k s).stook = s.stook := by
  rfl
@[simp] theorem closeSession_perf (k : Nat) : (closeSession k s).perf = s.perf := by
  rfl
@[simp] theorem closeSession_deep (k : Nat) : (closeSession k s).deep = s.deep := by
  rfl
@[simp] theorem closeSession_out (k : Nat) : (closeSession k s).out = s.out := by
  rfl
@[simp] theorem closeSession_free (k : Nat) : (closeSession k s).free = s.free := by
  rfl
@[simp] theorem closeSession_nextUid (k : Nat) : (closeSession k s).nextUid = s.nextUid := by
  rfl

/-! ## keepReply -/

@[simp] theorem keepReply_pending (t : Ticket) (b : List (List Byte)) : (keepReply t b s).pending = s.pending := by
  unfold keepReply; split <;> rfl
@[simp] theorem keepReply_dev (t : Ticket) (b : List (List Byte)) : (keepReply t b s).dev = s.dev := by
  unfold keepReply; split <;> rfl
@[simp] theorem keepReply_clk (t : Ticket) (b : List (List Byte)) : (keepReply t b s).clk = s.clk := by
  unfold keepReply; split <;> rfl
@[simp] theorem keepReply_slices (t : Ticket) (b : List (List Byte)) : (keepReply t b s).slices = s.slices := by
  unfold keepReply; split <;> rfl
@[simp] theorem keepReply_mir (t : Ticket) (b : List (List Byte)) : (keepReply t b s).mir = s.mir := by
  unfold keepReply; split <;> rfl
@[simp] theorem keepReply_sup (t : Ticket) (b : List (List Byte)) : (keepReply t b s).sup = s.sup := by
  unfold keepReply; split <;> rfl
@[simp] theorem keepReply_therm (t : Ticket) (b : List (List Byte)) : (keepReply t b s).therm = s.therm := by
  unfold keepReply; split <;> rfl
@[simp] theorem keepReply_pcie (t : Ticket) (b : List (List Byte)) : (keepReply t b s).pcie = s.pcie := by
  unfold keepReply; split <;> rfl
@[simp] theorem keepReply_nv (t : Ticket) (b : List (List Byte)) : (keepReply t b s).nv = s.nv := by
  unfold keepReply; split <;> rfl
@[simp] theorem keepReply_opt (t : Ticket) (b : List (List Byte)) : (keepReply t b s).opt = s.opt := by
  unfold keepReply; split <;> rfl
@[simp] theorem keepReply_ret (t : Ticket) (b : List (List Byte)) : (keepReply t b s).ret = s.ret := by
  unfold keepReply; split <;> rfl
@[simp] theorem keepReply_spi (t : Ticket) (b : List (List Byte)) : (keepReply t b s).spi = s.spi := by
  unfold keepReply; split <;> rfl
@[simp] theorem keepReply_rings (t : Ticket) (b : List (List Byte)) : (keepReply t b s).rings = s.rings := by
  unfold keepReply; split <;> rfl
@[simp] theorem keepReply_hfr (t : Ticket) (b : List (List Byte)) : (keepReply t b s).hfr = s.hfr := by
  unfold keepReply; split <;> rfl
@[simp] theorem keepReply_win (t : Ticket) (b : List (List Byte)) : (keepReply t b s).win = s.win := by
  unfold keepReply; split <;> rfl
@[simp] theorem keepReply_ev (t : Ticket) (b : List (List Byte)) : (keepReply t b s).ev = s.ev := by
  unfold keepReply; split <;> rfl
@[simp] theorem keepReply_jr (t : Ticket) (b : List (List Byte)) : (keepReply t b s).jr = s.jr := by
  unfold keepReply; split <;> rfl
@[simp] theorem keepReply_tim (t : Ticket) (b : List (List Byte)) : (keepReply t b s).tim = s.tim := by
  unfold keepReply; split <;> rfl
@[simp] theorem keepReply_gpio (t : Ticket) (b : List (List Byte)) : (keepReply t b s).gpio = s.gpio := by
  unfold keepReply; split <;> rfl
@[simp] theorem keepReply_ports (t : Ticket) (b : List (List Byte)) : (keepReply t b s).ports = s.ports := by
  unfold keepReply; split <;> rfl
@[simp] theorem keepReply_lanes (t : Ticket) (b : List (List Byte)) : (keepReply t b s).lanes = s.lanes := by
  unfold keepReply; split <;> rfl
@[simp] theorem keepReply_i2c (t : Ticket) (b : List (List Byte)) : (keepReply t b s).i2c = s.i2c := by
  unfold keepReply; split <;> rfl
@[simp] theorem keepReply_mods (t : Ticket) (b : List (List Byte)) : (keepReply t b s).mods = s.mods := by
  unfold keepReply; split <;> rfl
@[simp] theorem keepReply_bankBit (t : Ticket) (b : List (List Byte)) : (keepReply t b s).bankBit = s.bankBit := by
  unfold keepReply; split <;> rfl
@[simp] theorem keepReply_swap (t : Ticket) (b : List (List Byte)) : (keepReply t b s).swap = s.swap := by
  unfold keepReply; split <;> rfl
@[simp] theorem keepReply_fa (t : Ticket) (b : List (List Byte)) : (keepReply t b s).fa = s.fa := by
  unfold keepReply; split <;> rfl
@[simp] theorem keepReply_fb (t : Ticket) (b : List (List Byte)) : (keepReply t b s).fb = s.fb := by
  unfold keepReply; split <;> rfl
@[simp] theorem keepReply_hl (t : Ticket) (b : List (List Byte)) : (keepReply t b s).hl = s.hl := by
  unfold keepReply; split <;> rfl
@[simp] theorem keepReply_age (t : Ticket) (b : List (List Byte)) : (keepReply t b s).age = s.age := by
  unfold keepReply; split <;> rfl
@[simp] theorem keepReply_shadow (t : Ticket) (b : List (List Byte)) : (keepReply t b s).shadow = s.shadow := by
  unfold keepReply; split <;> rfl
@[simp] theorem keepReply_flush (t : Ticket) (b : List (List Byte)) : (keepReply t b s).flush = s.flush := by
  unfold keepReply; split <;> rfl
@[simp] theorem keepReply_memErr (t : Ticket) (b : List (List Byte)) : (keepReply t b s).memErr = s.memErr := by
  unfold keepReply; split <;> rfl
@[simp] theorem keepReply_frames (t : Ticket) (b : List (List Byte)) : (keepReply t b s).frames = s.frames := by
  unfold keepReply; split <;> rfl
@[simp] theorem keepReply_gran (t : Ticket) (b : List (List Byte)) : (keepReply t b s).gran = s.gran := by
  unfold keepReply; split <;> rfl
@[simp] theorem keepReply_meters (t : Ticket) (b : List (List Byte)) : (keepReply t b s).meters = s.meters := by
  unfold keepReply; split <;> rfl
@[simp] theorem keepReply_shapers (t : Ticket) (b : List (List Byte)) : (keepReply t b s).shapers = s.shapers := by
  unfold keepReply; split <;> rfl
@[simp] theorem keepReply_meterInvalid (t : Ticket) (b : List (List Byte)) : (keepReply t b s).meterInvalid = s.meterInvalid := by
  unfold keepReply; split <;> rfl
@[simp] theorem keepReply_red (t : Ticket) (b : List (List Byte)) : (keepReply t b s).red = s.red := by
  unfold keepReply; split <;> rfl
@[simp] theorem keepReply_imgLoad (t : Ticket) (b : List (List Byte)) : (keepReply t b s).imgLoad = s.imgLoad := by
  unfold keepReply; split <;> rfl
@[simp] theorem keepReply_gle (t : Ticket) (b : List (List Byte)) : (keepReply t b s).gle = s.gle := by
  unfold keepReply; split <;> rfl
@[simp] theorem keepReply_mirrors (t : Ticket) (b : List (List Byte)) : (keepReply t b s).mirrors = s.mirrors := by
  unfold keepReply; split <;> rfl
@[simp] theorem keepReply_stook (t : Ticket) (b : List (List Byte)) : (keepReply t b s).stook = s.stook := by
  unfold keepReply; split <;> rfl
@[simp] theorem keepReply_perf (t : Ticket) (b : List (List Byte)) : (keepReply t b s).perf = s.perf := by
  unfold keepReply; split <;> rfl
@[simp] theorem keepReply_deep (t : Ticket) (b : List (List Byte)) : (keepReply t b s).deep = s.deep := by
  unfold keepReply; split <;> rfl
@[simp] theorem keepReply_out (t : Ticket) (b : List (List Byte)) : (keepReply t b s).out = s.out := by
  unfold keepReply; split <;> rfl
@[simp] theorem keepReply_free (t : Ticket) (b : List (List Byte)) : (keepReply t b s).free = s.free := by
  unfold keepReply; split <;> rfl
@[simp] theorem keepReply_nextUid (t : Ticket) (b : List (List Byte)) : (keepReply t b s).nextUid = s.nextUid := by
  unfold keepReply; split <;> rfl

/-! ## sendPacket -/

@[simp] theorem drainRing_pending (k n : Nat) (s : State) : (drainRing k n s).pending = s.pending := by
  induction n generalizing s with
  | zero => rfl
  | succ n ih =>
    unfold drainRing; dsimp only
    split
    · rfl
    · split
      · rfl
      · rw [ih]; simp
@[simp] theorem sendPacket_pending (dst : Endpoint) (vlan : Option Nat) (b : List Byte) : (sendPacket dst vlan b s).pending = s.pending := by
  cases dst
  · simp only [sendPacket]; split
    · rw [drainRing_pending]; rfl
    · rfl
  · simp [sendPacket]
  · rfl
@[simp] theorem drainRing_dev (k n : Nat) (s : State) : (drainRing k n s).dev = s.dev := by
  induction n generalizing s with
  | zero => rfl
  | succ n ih =>
    unfold drainRing; dsimp only
    split
    · rfl
    · split
      · rfl
      · rw [ih]; simp
@[simp] theorem sendPacket_dev (dst : Endpoint) (vlan : Option Nat) (b : List Byte) : (sendPacket dst vlan b s).dev = s.dev := by
  cases dst
  · simp only [sendPacket]; split
    · rw [drainRing_dev]; rfl
    · rfl
  · simp [sendPacket]
  · rfl
@[simp] theorem drainRing_clk (k n : Nat) (s : State) : (drainRing k n s).clk = s.clk := by
  induction n generalizing s with
  | zero => rfl
  | succ n ih =>
    unfold drainRing; dsimp only
    split
    · rfl
    · split
      · rfl
      · rw [ih]; simp
@[simp] theorem sendPacket_clk (dst : Endpoint) (vlan : Option Nat) (b : List Byte) : (sendPacket dst vlan b s).clk = s.clk := by
  cases dst
  · simp only [sendPacket]; split
    · rw [drainRing_clk]; rfl
    · rfl
  · simp [sendPacket]
  · rfl
@[simp] theorem drainRing_slices (k n : Nat) (s : State) : (drainRing k n s).slices = s.slices := by
  induction n generalizing s with
  | zero => rfl
  | succ n ih =>
    unfold drainRing; dsimp only
    split
    · rfl
    · split
      · rfl
      · rw [ih]; simp
@[simp] theorem sendPacket_slices (dst : Endpoint) (vlan : Option Nat) (b : List Byte) : (sendPacket dst vlan b s).slices = s.slices := by
  cases dst
  · simp only [sendPacket]; split
    · rw [drainRing_slices]; rfl
    · rfl
  · simp [sendPacket]
  · rfl
@[simp] theorem drainRing_mir (k n : Nat) (s : State) : (drainRing k n s).mir = s.mir := by
  induction n generalizing s with
  | zero => rfl
  | succ n ih =>
    unfold drainRing; dsimp only
    split
    · rfl
    · split
      · rfl
      · rw [ih]; simp
@[simp] theorem sendPacket_mir (dst : Endpoint) (vlan : Option Nat) (b : List Byte) : (sendPacket dst vlan b s).mir = s.mir := by
  cases dst
  · simp only [sendPacket]; split
    · rw [drainRing_mir]; rfl
    · rfl
  · simp [sendPacket]
  · rfl
@[simp] theorem drainRing_sup (k n : Nat) (s : State) : (drainRing k n s).sup = s.sup := by
  induction n generalizing s with
  | zero => rfl
  | succ n ih =>
    unfold drainRing; dsimp only
    split
    · rfl
    · split
      · rfl
      · rw [ih]; simp
@[simp] theorem sendPacket_sup (dst : Endpoint) (vlan : Option Nat) (b : List Byte) : (sendPacket dst vlan b s).sup = s.sup := by
  cases dst
  · simp only [sendPacket]; split
    · rw [drainRing_sup]; rfl
    · rfl
  · simp [sendPacket]
  · rfl
@[simp] theorem drainRing_therm (k n : Nat) (s : State) : (drainRing k n s).therm = s.therm := by
  induction n generalizing s with
  | zero => rfl
  | succ n ih =>
    unfold drainRing; dsimp only
    split
    · rfl
    · split
      · rfl
      · rw [ih]; simp
@[simp] theorem sendPacket_therm (dst : Endpoint) (vlan : Option Nat) (b : List Byte) : (sendPacket dst vlan b s).therm = s.therm := by
  cases dst
  · simp only [sendPacket]; split
    · rw [drainRing_therm]; rfl
    · rfl
  · simp [sendPacket]
  · rfl
@[simp] theorem drainRing_pcie (k n : Nat) (s : State) : (drainRing k n s).pcie = s.pcie := by
  induction n generalizing s with
  | zero => rfl
  | succ n ih =>
    unfold drainRing; dsimp only
    split
    · rfl
    · split
      · rfl
      · rw [ih]; simp
@[simp] theorem sendPacket_pcie (dst : Endpoint) (vlan : Option Nat) (b : List Byte) : (sendPacket dst vlan b s).pcie = s.pcie := by
  cases dst
  · simp only [sendPacket]; split
    · rw [drainRing_pcie]; rfl
    · rfl
  · simp [sendPacket]
  · rfl
@[simp] theorem drainRing_nv (k n : Nat) (s : State) : (drainRing k n s).nv = s.nv := by
  induction n generalizing s with
  | zero => rfl
  | succ n ih =>
    unfold drainRing; dsimp only
    split
    · rfl
    · split
      · rfl
      · rw [ih]; simp
@[simp] theorem sendPacket_nv (dst : Endpoint) (vlan : Option Nat) (b : List Byte) : (sendPacket dst vlan b s).nv = s.nv := by
  cases dst
  · simp only [sendPacket]; split
    · rw [drainRing_nv]; rfl
    · rfl
  · simp [sendPacket]
  · rfl
@[simp] theorem drainRing_opt (k n : Nat) (s : State) : (drainRing k n s).opt = s.opt := by
  induction n generalizing s with
  | zero => rfl
  | succ n ih =>
    unfold drainRing; dsimp only
    split
    · rfl
    · split
      · rfl
      · rw [ih]; simp
@[simp] theorem sendPacket_opt (dst : Endpoint) (vlan : Option Nat) (b : List Byte) : (sendPacket dst vlan b s).opt = s.opt := by
  cases dst
  · simp only [sendPacket]; split
    · rw [drainRing_opt]; rfl
    · rfl
  · simp [sendPacket]
  · rfl
@[simp] theorem drainRing_ret (k n : Nat) (s : State) : (drainRing k n s).ret = s.ret := by
  induction n generalizing s with
  | zero => rfl
  | succ n ih =>
    unfold drainRing; dsimp only
    split
    · rfl
    · split
      · rfl
      · rw [ih]; simp
@[simp] theorem sendPacket_ret (dst : Endpoint) (vlan : Option Nat) (b : List Byte) : (sendPacket dst vlan b s).ret = s.ret := by
  cases dst
  · simp only [sendPacket]; split
    · rw [drainRing_ret]; rfl
    · rfl
  · simp [sendPacket]
  · rfl
@[simp] theorem drainRing_cp (k n : Nat) (s : State) : (drainRing k n s).cp = s.cp := by
  induction n generalizing s with
  | zero => rfl
  | succ n ih =>
    unfold drainRing; dsimp only
    split
    · rfl
    · split
      · rfl
      · rw [ih]; simp
@[simp] theorem sendPacket_cp (dst : Endpoint) (vlan : Option Nat) (b : List Byte) : (sendPacket dst vlan b s).cp = s.cp := by
  cases dst
  · simp only [sendPacket]; split
    · rw [drainRing_cp]; rfl
    · rfl
  · simp [sendPacket]
  · rfl
@[simp] theorem drainRing_hfr (k n : Nat) (s : State) : (drainRing k n s).hfr = s.hfr := by
  induction n generalizing s with
  | zero => rfl
  | succ n ih =>
    unfold drainRing; dsimp only
    split
    · rfl
    · split
      · rfl
      · rw [ih]; simp
@[simp] theorem sendPacket_hfr (dst : Endpoint) (vlan : Option Nat) (b : List Byte) : (sendPacket dst vlan b s).hfr = s.hfr := by
  cases dst
  · simp only [sendPacket]; split
    · rw [drainRing_hfr]; rfl
    · rfl
  · simp [sendPacket]
  · rfl
@[simp] theorem drainRing_jr (k n : Nat) (s : State) : (drainRing k n s).jr = s.jr := by
  induction n generalizing s with
  | zero => rfl
  | succ n ih =>
    unfold drainRing; dsimp only
    split
    · rfl
    · split
      · rfl
      · rw [ih]; simp
@[simp] theorem sendPacket_jr (dst : Endpoint) (vlan : Option Nat) (b : List Byte) : (sendPacket dst vlan b s).jr = s.jr := by
  cases dst
  · simp only [sendPacket]; split
    · rw [drainRing_jr]; rfl
    · rfl
  · simp [sendPacket]
  · rfl
@[simp] theorem drainRing_tim (k n : Nat) (s : State) : (drainRing k n s).tim = s.tim := by
  induction n generalizing s with
  | zero => rfl
  | succ n ih =>
    unfold drainRing; dsimp only
    split
    · rfl
    · split
      · rfl
      · rw [ih]; simp
@[simp] theorem sendPacket_tim (dst : Endpoint) (vlan : Option Nat) (b : List Byte) : (sendPacket dst vlan b s).tim = s.tim := by
  cases dst
  · simp only [sendPacket]; split
    · rw [drainRing_tim]; rfl
    · rfl
  · simp [sendPacket]
  · rfl
@[simp] theorem drainRing_gpio (k n : Nat) (s : State) : (drainRing k n s).gpio = s.gpio := by
  induction n generalizing s with
  | zero => rfl
  | succ n ih =>
    unfold drainRing; dsimp only
    split
    · rfl
    · split
      · rfl
      · rw [ih]; simp
@[simp] theorem sendPacket_gpio (dst : Endpoint) (vlan : Option Nat) (b : List Byte) : (sendPacket dst vlan b s).gpio = s.gpio := by
  cases dst
  · simp only [sendPacket]; split
    · rw [drainRing_gpio]; rfl
    · rfl
  · simp [sendPacket]
  · rfl
@[simp] theorem drainRing_ports (k n : Nat) (s : State) : (drainRing k n s).ports = s.ports := by
  induction n generalizing s with
  | zero => rfl
  | succ n ih =>
    unfold drainRing; dsimp only
    split
    · rfl
    · split
      · rfl
      · rw [ih]; simp
@[simp] theorem sendPacket_ports (dst : Endpoint) (vlan : Option Nat) (b : List Byte) : (sendPacket dst vlan b s).ports = s.ports := by
  cases dst
  · simp only [sendPacket]; split
    · rw [drainRing_ports]; rfl
    · rfl
  · simp [sendPacket]
  · rfl
@[simp] theorem drainRing_lanes (k n : Nat) (s : State) : (drainRing k n s).lanes = s.lanes := by
  induction n generalizing s with
  | zero => rfl
  | succ n ih =>
    unfold drainRing; dsimp only
    split
    · rfl
    · split
      · rfl
      · rw [ih]; simp
@[simp] theorem sendPacket_lanes (dst : Endpoint) (vlan : Option Nat) (b : List Byte) : (sendPacket dst vlan b s).lanes = s.lanes := by
  cases dst
  · simp only [sendPacket]; split
    · rw [drainRing_lanes]; rfl
    · rfl
  · simp [sendPacket]
  · rfl
@[simp] theorem drainRing_i2c (k n : Nat) (s : State) : (drainRing k n s).i2c = s.i2c := by
  induction n generalizing s with
  | zero => rfl
  | succ n ih =>
    unfold drainRing; dsimp only
    split
    · rfl
    · split
      · rfl
      · rw [ih]; simp
@[simp] theorem sendPacket_i2c (dst : Endpoint) (vlan : Option Nat) (b : List Byte) : (sendPacket dst vlan b s).i2c = s.i2c := by
  cases dst
  · simp only [sendPacket]; split
    · rw [drainRing_i2c]; rfl
    · rfl
  · simp [sendPacket]
  · rfl
@[simp] theorem drainRing_mods (k n : Nat) (s : State) : (drainRing k n s).mods = s.mods := by
  induction n generalizing s with
  | zero => rfl
  | succ n ih =>
    unfold drainRing; dsimp only
    split
    · rfl
    · split
      · rfl
      · rw [ih]; simp
@[simp] theorem sendPacket_mods (dst : Endpoint) (vlan : Option Nat) (b : List Byte) : (sendPacket dst vlan b s).mods = s.mods := by
  cases dst
  · simp only [sendPacket]; split
    · rw [drainRing_mods]; rfl
    · rfl
  · simp [sendPacket]
  · rfl
@[simp] theorem drainRing_bankBit (k n : Nat) (s : State) : (drainRing k n s).bankBit = s.bankBit := by
  induction n generalizing s with
  | zero => rfl
  | succ n ih =>
    unfold drainRing; dsimp only
    split
    · rfl
    · split
      · rfl
      · rw [ih]; simp
@[simp] theorem sendPacket_bankBit (dst : Endpoint) (vlan : Option Nat) (b : List Byte) : (sendPacket dst vlan b s).bankBit = s.bankBit := by
  cases dst
  · simp only [sendPacket]; split
    · rw [drainRing_bankBit]; rfl
    · rfl
  · simp [sendPacket]
  · rfl
@[simp] theorem drainRing_swap (k n : Nat) (s : State) : (drainRing k n s).swap = s.swap := by
  induction n generalizing s with
  | zero => rfl
  | succ n ih =>
    unfold drainRing; dsimp only
    split
    · rfl
    · split
      · rfl
      · rw [ih]; simp
@[simp] theorem sendPacket_swap (dst : Endpoint) (vlan : Option Nat) (b : List Byte) : (sendPacket dst vlan b s).swap = s.swap := by
  cases dst
  · simp only [sendPacket]; split
    · rw [drainRing_swap]; rfl
    · rfl
  · simp [sendPacket]
  · rfl
@[simp] theorem drainRing_fa (k n : Nat) (s : State) : (drainRing k n s).fa = s.fa := by
  induction n generalizing s with
  | zero => rfl
  | succ n ih =>
    unfold drainRing; dsimp only
    split
    · rfl
    · split
      · rfl
      · rw [ih]; simp
@[simp] theorem sendPacket_fa (dst : Endpoint) (vlan : Option Nat) (b : List Byte) : (sendPacket dst vlan b s).fa = s.fa := by
  cases dst
  · simp only [sendPacket]; split
    · rw [drainRing_fa]; rfl
    · rfl
  · simp [sendPacket]
  · rfl
@[simp] theorem drainRing_fb (k n : Nat) (s : State) : (drainRing k n s).fb = s.fb := by
  induction n generalizing s with
  | zero => rfl
  | succ n ih =>
    unfold drainRing; dsimp only
    split
    · rfl
    · split
      · rfl
      · rw [ih]; simp
@[simp] theorem sendPacket_fb (dst : Endpoint) (vlan : Option Nat) (b : List Byte) : (sendPacket dst vlan b s).fb = s.fb := by
  cases dst
  · simp only [sendPacket]; split
    · rw [drainRing_fb]; rfl
    · rfl
  · simp [sendPacket]
  · rfl
@[simp] theorem drainRing_hl (k n : Nat) (s : State) : (drainRing k n s).hl = s.hl := by
  induction n generalizing s with
  | zero => rfl
  | succ n ih =>
    unfold drainRing; dsimp only
    split
    · rfl
    · split
      · rfl
      · rw [ih]; simp
@[simp] theorem sendPacket_hl (dst : Endpoint) (vlan : Option Nat) (b : List Byte) : (sendPacket dst vlan b s).hl = s.hl := by
  cases dst
  · simp only [sendPacket]; split
    · rw [drainRing_hl]; rfl
    · rfl
  · simp [sendPacket]
  · rfl
@[simp] theorem drainRing_age (k n : Nat) (s : State) : (drainRing k n s).age = s.age := by
  induction n generalizing s with
  | zero => rfl
  | succ n ih =>
    unfold drainRing; dsimp only
    split
    · rfl
    · split
      · rfl
      · rw [ih]; simp
@[simp] theorem sendPacket_age (dst : Endpoint) (vlan : Option Nat) (b : List Byte) : (sendPacket dst vlan b s).age = s.age := by
  cases dst
  · simp only [sendPacket]; split
    · rw [drainRing_age]; rfl
    · rfl
  · simp [sendPacket]
  · rfl
@[simp] theorem drainRing_shadow (k n : Nat) (s : State) : (drainRing k n s).shadow = s.shadow := by
  induction n generalizing s with
  | zero => rfl
  | succ n ih =>
    unfold drainRing; dsimp only
    split
    · rfl
    · split
      · rfl
      · rw [ih]; simp
@[simp] theorem sendPacket_shadow (dst : Endpoint) (vlan : Option Nat) (b : List Byte) : (sendPacket dst vlan b s).shadow = s.shadow := by
  cases dst
  · simp only [sendPacket]; split
    · rw [drainRing_shadow]; rfl
    · rfl
  · simp [sendPacket]
  · rfl
@[simp] theorem drainRing_flush (k n : Nat) (s : State) : (drainRing k n s).flush = s.flush := by
  induction n generalizing s with
  | zero => rfl
  | succ n ih =>
    unfold drainRing; dsimp only
    split
    · rfl
    · split
      · rfl
      · rw [ih]; simp
@[simp] theorem sendPacket_flush (dst : Endpoint) (vlan : Option Nat) (b : List Byte) : (sendPacket dst vlan b s).flush = s.flush := by
  cases dst
  · simp only [sendPacket]; split
    · rw [drainRing_flush]; rfl
    · rfl
  · simp [sendPacket]
  · rfl
@[simp] theorem drainRing_memErr (k n : Nat) (s : State) : (drainRing k n s).memErr = s.memErr := by
  induction n generalizing s with
  | zero => rfl
  | succ n ih =>
    unfold drainRing; dsimp only
    split
    · rfl
    · split
      · rfl
      · rw [ih]; simp
@[simp] theorem sendPacket_memErr (dst : Endpoint) (vlan : Option Nat) (b : List Byte) : (sendPacket dst vlan b s).memErr = s.memErr := by
  cases dst
  · simp only [sendPacket]; split
    · rw [drainRing_memErr]; rfl
    · rfl
  · simp [sendPacket]
  · rfl
@[simp] theorem drainRing_frames (k n : Nat) (s : State) : (drainRing k n s).frames = s.frames := by
  induction n generalizing s with
  | zero => rfl
  | succ n ih =>
    unfold drainRing; dsimp only
    split
    · rfl
    · split
      · rfl
      · rw [ih]; simp
@[simp] theorem sendPacket_frames (dst : Endpoint) (vlan : Option Nat) (b : List Byte) : (sendPacket dst vlan b s).frames = s.frames := by
  cases dst
  · simp only [sendPacket]; split
    · rw [drainRing_frames]; rfl
    · rfl
  · simp [sendPacket]
  · rfl
@[simp] theorem drainRing_gran (k n : Nat) (s : State) : (drainRing k n s).gran = s.gran := by
  induction n generalizing s with
  | zero => rfl
  | succ n ih =>
    unfold drainRing; dsimp only
    split
    · rfl
    · split
      · rfl
      · rw [ih]; simp
@[simp] theorem sendPacket_gran (dst : Endpoint) (vlan : Option Nat) (b : List Byte) : (sendPacket dst vlan b s).gran = s.gran := by
  cases dst
  · simp only [sendPacket]; split
    · rw [drainRing_gran]; rfl
    · rfl
  · simp [sendPacket]
  · rfl
@[simp] theorem drainRing_meters (k n : Nat) (s : State) : (drainRing k n s).meters = s.meters := by
  induction n generalizing s with
  | zero => rfl
  | succ n ih =>
    unfold drainRing; dsimp only
    split
    · rfl
    · split
      · rfl
      · rw [ih]; simp
@[simp] theorem sendPacket_meters (dst : Endpoint) (vlan : Option Nat) (b : List Byte) : (sendPacket dst vlan b s).meters = s.meters := by
  cases dst
  · simp only [sendPacket]; split
    · rw [drainRing_meters]; rfl
    · rfl
  · simp [sendPacket]
  · rfl
@[simp] theorem drainRing_shapers (k n : Nat) (s : State) : (drainRing k n s).shapers = s.shapers := by
  induction n generalizing s with
  | zero => rfl
  | succ n ih =>
    unfold drainRing; dsimp only
    split
    · rfl
    · split
      · rfl
      · rw [ih]; simp
@[simp] theorem sendPacket_shapers (dst : Endpoint) (vlan : Option Nat) (b : List Byte) : (sendPacket dst vlan b s).shapers = s.shapers := by
  cases dst
  · simp only [sendPacket]; split
    · rw [drainRing_shapers]; rfl
    · rfl
  · simp [sendPacket]
  · rfl
@[simp] theorem drainRing_meterInvalid (k n : Nat) (s : State) : (drainRing k n s).meterInvalid = s.meterInvalid := by
  induction n generalizing s with
  | zero => rfl
  | succ n ih =>
    unfold drainRing; dsimp only
    split
    · rfl
    · split
      · rfl
      · rw [ih]; simp
@[simp] theorem sendPacket_meterInvalid (dst : Endpoint) (vlan : Option Nat) (b : List Byte) : (sendPacket dst vlan b s).meterInvalid = s.meterInvalid := by
  cases dst
  · simp only [sendPacket]; split
    · rw [drainRing_meterInvalid]; rfl
    · rfl
  · simp [sendPacket]
  · rfl
@[simp] theorem drainRing_red (k n : Nat) (s : State) : (drainRing k n s).red = s.red := by
  induction n generalizing s with
  | zero => rfl
  | succ n ih =>
    unfold drainRing; dsimp only
    split
    · rfl
    · split
      · rfl
      · rw [ih]; simp
@[simp] theorem sendPacket_red (dst : Endpoint) (vlan : Option Nat) (b : List Byte) : (sendPacket dst vlan b s).red = s.red := by
  cases dst
  · simp only [sendPacket]; split
    · rw [drainRing_red]; rfl
    · rfl
  · simp [sendPacket]
  · rfl
@[simp] theorem drainRing_imgLoad (k n : Nat) (s : State) : (drainRing k n s).imgLoad = s.imgLoad := by
  induction n generalizing s with
  | zero => rfl
  | succ n ih =>
    unfold drainRing; dsimp only
    split
    · rfl
    · split
      · rfl
      · rw [ih]; simp
@[simp] theorem sendPacket_imgLoad (dst : Endpoint) (vlan : Option Nat) (b : List Byte) : (sendPacket dst vlan b s).imgLoad = s.imgLoad := by
  cases dst
  · simp only [sendPacket]; split
    · rw [drainRing_imgLoad]; rfl
    · rfl
  · simp [sendPacket]
  · rfl
@[simp] theorem drainRing_gle (k n : Nat) (s : State) : (drainRing k n s).gle = s.gle := by
  induction n generalizing s with
  | zero => rfl
  | succ n ih =>
    unfold drainRing; dsimp only
    split
    · rfl
    · split
      · rfl
      · rw [ih]; simp
@[simp] theorem sendPacket_gle (dst : Endpoint) (vlan : Option Nat) (b : List Byte) : (sendPacket dst vlan b s).gle = s.gle := by
  cases dst
  · simp only [sendPacket]; split
    · rw [drainRing_gle]; rfl
    · rfl
  · simp [sendPacket]
  · rfl
@[simp] theorem drainRing_mirrors (k n : Nat) (s : State) : (drainRing k n s).mirrors = s.mirrors := by
  induction n generalizing s with
  | zero => rfl
  | succ n ih =>
    unfold drainRing; dsimp only
    split
    · rfl
    · split
      · rfl
      · rw [ih]; simp
@[simp] theorem sendPacket_mirrors (dst : Endpoint) (vlan : Option Nat) (b : List Byte) : (sendPacket dst vlan b s).mirrors = s.mirrors := by
  cases dst
  · simp only [sendPacket]; split
    · rw [drainRing_mirrors]; rfl
    · rfl
  · simp [sendPacket]
  · rfl
@[simp] theorem drainRing_stook (k n : Nat) (s : State) : (drainRing k n s).stook = s.stook := by
  induction n generalizing s with
  | zero => rfl
  | succ n ih =>
    unfold drainRing; dsimp only
    split
    · rfl
    · split
      · rfl
      · rw [ih]; simp
@[simp] theorem sendPacket_stook (dst : Endpoint) (vlan : Option Nat) (b : List Byte) : (sendPacket dst vlan b s).stook = s.stook := by
  cases dst
  · simp only [sendPacket]; split
    · rw [drainRing_stook]; rfl
    · rfl
  · simp [sendPacket]
  · rfl
@[simp] theorem drainRing_perf (k n : Nat) (s : State) : (drainRing k n s).perf = s.perf := by
  induction n generalizing s with
  | zero => rfl
  | succ n ih =>
    unfold drainRing; dsimp only
    split
    · rfl
    · split
      · rfl
      · rw [ih]; simp
@[simp] theorem sendPacket_perf (dst : Endpoint) (vlan : Option Nat) (b : List Byte) : (sendPacket dst vlan b s).perf = s.perf := by
  cases dst
  · simp only [sendPacket]; split
    · rw [drainRing_perf]; rfl
    · rfl
  · simp [sendPacket]
  · rfl
@[simp] theorem drainRing_deep (k n : Nat) (s : State) : (drainRing k n s).deep = s.deep := by
  induction n generalizing s with
  | zero => rfl
  | succ n ih =>
    unfold drainRing; dsimp only
    split
    · rfl
    · split
      · rfl
      · rw [ih]; simp
@[simp] theorem sendPacket_deep (dst : Endpoint) (vlan : Option Nat) (b : List Byte) : (sendPacket dst vlan b s).deep = s.deep := by
  cases dst
  · simp only [sendPacket]; split
    · rw [drainRing_deep]; rfl
    · rfl
  · simp [sendPacket]
  · rfl
@[simp] theorem drainRing_free (k n : Nat) (s : State) : (drainRing k n s).free = s.free := by
  induction n generalizing s with
  | zero => rfl
  | succ n ih =>
    unfold drainRing; dsimp only
    split
    · rfl
    · split
      · rfl
      · rw [ih]; simp
@[simp] theorem sendPacket_free (dst : Endpoint) (vlan : Option Nat) (b : List Byte) : (sendPacket dst vlan b s).free = s.free := by
  cases dst
  · simp only [sendPacket]; split
    · rw [drainRing_free]; rfl
    · rfl
  · simp [sendPacket]
  · rfl
@[simp] theorem drainRing_nextUid (k n : Nat) (s : State) : (drainRing k n s).nextUid = s.nextUid := by
  induction n generalizing s with
  | zero => rfl
  | succ n ih =>
    unfold drainRing; dsimp only
    split
    · rfl
    · split
      · rfl
      · rw [ih]; simp
@[simp] theorem sendPacket_nextUid (dst : Endpoint) (vlan : Option Nat) (b : List Byte) : (sendPacket dst vlan b s).nextUid = s.nextUid := by
  cases dst
  · simp only [sendPacket]; split
    · rw [drainRing_nextUid]; rfl
    · rfl
  · simp [sendPacket]
  · rfl

/-! ## sendPackets -/

@[simp] theorem sendPackets_pending (dst : Endpoint) (vlan : Option Nat) (b : List (List Byte)) : (sendPackets dst vlan b s).pending = s.pending := by
  induction b generalizing s with
  | nil => rfl
  | cons x r ih => simp only [sendPackets]; rw [ih]; simp
@[simp] theorem sendPackets_dev (dst : Endpoint) (vlan : Option Nat) (b : List (List Byte)) : (sendPackets dst vlan b s).dev = s.dev := by
  induction b generalizing s with
  | nil => rfl
  | cons x r ih => simp only [sendPackets]; rw [ih]; simp
@[simp] theorem sendPackets_clk (dst : Endpoint) (vlan : Option Nat) (b : List (List Byte)) : (sendPackets dst vlan b s).clk = s.clk := by
  induction b generalizing s with
  | nil => rfl
  | cons x r ih => simp only [sendPackets]; rw [ih]; simp
@[simp] theorem sendPackets_slices (dst : Endpoint) (vlan : Option Nat) (b : List (List Byte)) : (sendPackets dst vlan b s).slices = s.slices := by
  induction b generalizing s with
  | nil => rfl
  | cons x r ih => simp only [sendPackets]; rw [ih]; simp
@[simp] theorem sendPackets_mir (dst : Endpoint) (vlan : Option Nat) (b : List (List Byte)) : (sendPackets dst vlan b s).mir = s.mir := by
  induction b generalizing s with
  | nil => rfl
  | cons x r ih => simp only [sendPackets]; rw [ih]; simp
@[simp] theorem sendPackets_sup (dst : Endpoint) (vlan : Option Nat) (b : List (List Byte)) : (sendPackets dst vlan b s).sup = s.sup := by
  induction b generalizing s with
  | nil => rfl
  | cons x r ih => simp only [sendPackets]; rw [ih]; simp
@[simp] theorem sendPackets_therm (dst : Endpoint) (vlan : Option Nat) (b : List (List Byte)) : (sendPackets dst vlan b s).therm = s.therm := by
  induction b generalizing s with
  | nil => rfl
  | cons x r ih => simp only [sendPackets]; rw [ih]; simp
@[simp] theorem sendPackets_pcie (dst : Endpoint) (vlan : Option Nat) (b : List (List Byte)) : (sendPackets dst vlan b s).pcie = s.pcie := by
  induction b generalizing s with
  | nil => rfl
  | cons x r ih => simp only [sendPackets]; rw [ih]; simp
@[simp] theorem sendPackets_nv (dst : Endpoint) (vlan : Option Nat) (b : List (List Byte)) : (sendPackets dst vlan b s).nv = s.nv := by
  induction b generalizing s with
  | nil => rfl
  | cons x r ih => simp only [sendPackets]; rw [ih]; simp
@[simp] theorem sendPackets_opt (dst : Endpoint) (vlan : Option Nat) (b : List (List Byte)) : (sendPackets dst vlan b s).opt = s.opt := by
  induction b generalizing s with
  | nil => rfl
  | cons x r ih => simp only [sendPackets]; rw [ih]; simp
@[simp] theorem sendPackets_ret (dst : Endpoint) (vlan : Option Nat) (b : List (List Byte)) : (sendPackets dst vlan b s).ret = s.ret := by
  induction b generalizing s with
  | nil => rfl
  | cons x r ih => simp only [sendPackets]; rw [ih]; simp
@[simp] theorem sendPackets_cp (dst : Endpoint) (vlan : Option Nat) (b : List (List Byte)) : (sendPackets dst vlan b s).cp = s.cp := by
  induction b generalizing s with
  | nil => rfl
  | cons x r ih => simp only [sendPackets]; rw [ih]; simp
@[simp] theorem sendPackets_hfr (dst : Endpoint) (vlan : Option Nat) (b : List (List Byte)) : (sendPackets dst vlan b s).hfr = s.hfr := by
  induction b generalizing s with
  | nil => rfl
  | cons x r ih => simp only [sendPackets]; rw [ih]; simp
@[simp] theorem sendPackets_jr (dst : Endpoint) (vlan : Option Nat) (b : List (List Byte)) : (sendPackets dst vlan b s).jr = s.jr := by
  induction b generalizing s with
  | nil => rfl
  | cons x r ih => simp only [sendPackets]; rw [ih]; simp
@[simp] theorem sendPackets_tim (dst : Endpoint) (vlan : Option Nat) (b : List (List Byte)) : (sendPackets dst vlan b s).tim = s.tim := by
  induction b generalizing s with
  | nil => rfl
  | cons x r ih => simp only [sendPackets]; rw [ih]; simp
@[simp] theorem sendPackets_gpio (dst : Endpoint) (vlan : Option Nat) (b : List (List Byte)) : (sendPackets dst vlan b s).gpio = s.gpio := by
  induction b generalizing s with
  | nil => rfl
  | cons x r ih => simp only [sendPackets]; rw [ih]; simp
@[simp] theorem sendPackets_ports (dst : Endpoint) (vlan : Option Nat) (b : List (List Byte)) : (sendPackets dst vlan b s).ports = s.ports := by
  induction b generalizing s with
  | nil => rfl
  | cons x r ih => simp only [sendPackets]; rw [ih]; simp
@[simp] theorem sendPackets_lanes (dst : Endpoint) (vlan : Option Nat) (b : List (List Byte)) : (sendPackets dst vlan b s).lanes = s.lanes := by
  induction b generalizing s with
  | nil => rfl
  | cons x r ih => simp only [sendPackets]; rw [ih]; simp
@[simp] theorem sendPackets_i2c (dst : Endpoint) (vlan : Option Nat) (b : List (List Byte)) : (sendPackets dst vlan b s).i2c = s.i2c := by
  induction b generalizing s with
  | nil => rfl
  | cons x r ih => simp only [sendPackets]; rw [ih]; simp
@[simp] theorem sendPackets_mods (dst : Endpoint) (vlan : Option Nat) (b : List (List Byte)) : (sendPackets dst vlan b s).mods = s.mods := by
  induction b generalizing s with
  | nil => rfl
  | cons x r ih => simp only [sendPackets]; rw [ih]; simp
@[simp] theorem sendPackets_bankBit (dst : Endpoint) (vlan : Option Nat) (b : List (List Byte)) : (sendPackets dst vlan b s).bankBit = s.bankBit := by
  induction b generalizing s with
  | nil => rfl
  | cons x r ih => simp only [sendPackets]; rw [ih]; simp
@[simp] theorem sendPackets_swap (dst : Endpoint) (vlan : Option Nat) (b : List (List Byte)) : (sendPackets dst vlan b s).swap = s.swap := by
  induction b generalizing s with
  | nil => rfl
  | cons x r ih => simp only [sendPackets]; rw [ih]; simp
@[simp] theorem sendPackets_fa (dst : Endpoint) (vlan : Option Nat) (b : List (List Byte)) : (sendPackets dst vlan b s).fa = s.fa := by
  induction b generalizing s with
  | nil => rfl
  | cons x r ih => simp only [sendPackets]; rw [ih]; simp
@[simp] theorem sendPackets_fb (dst : Endpoint) (vlan : Option Nat) (b : List (List Byte)) : (sendPackets dst vlan b s).fb = s.fb := by
  induction b generalizing s with
  | nil => rfl
  | cons x r ih => simp only [sendPackets]; rw [ih]; simp
@[simp] theorem sendPackets_hl (dst : Endpoint) (vlan : Option Nat) (b : List (List Byte)) : (sendPackets dst vlan b s).hl = s.hl := by
  induction b generalizing s with
  | nil => rfl
  | cons x r ih => simp only [sendPackets]; rw [ih]; simp
@[simp] theorem sendPackets_age (dst : Endpoint) (vlan : Option Nat) (b : List (List Byte)) : (sendPackets dst vlan b s).age = s.age := by
  induction b generalizing s with
  | nil => rfl
  | cons x r ih => simp only [sendPackets]; rw [ih]; simp
@[simp] theorem sendPackets_shadow (dst : Endpoint) (vlan : Option Nat) (b : List (List Byte)) : (sendPackets dst vlan b s).shadow = s.shadow := by
  induction b generalizing s with
  | nil => rfl
  | cons x r ih => simp only [sendPackets]; rw [ih]; simp
@[simp] theorem sendPackets_flush (dst : Endpoint) (vlan : Option Nat) (b : List (List Byte)) : (sendPackets dst vlan b s).flush = s.flush := by
  induction b generalizing s with
  | nil => rfl
  | cons x r ih => simp only [sendPackets]; rw [ih]; simp
@[simp] theorem sendPackets_memErr (dst : Endpoint) (vlan : Option Nat) (b : List (List Byte)) : (sendPackets dst vlan b s).memErr = s.memErr := by
  induction b generalizing s with
  | nil => rfl
  | cons x r ih => simp only [sendPackets]; rw [ih]; simp
@[simp] theorem sendPackets_frames (dst : Endpoint) (vlan : Option Nat) (b : List (List Byte)) : (sendPackets dst vlan b s).frames = s.frames := by
  induction b generalizing s with
  | nil => rfl
  | cons x r ih => simp only [sendPackets]; rw [ih]; simp
@[simp] theorem sendPackets_gran (dst : Endpoint) (vlan : Option Nat) (b : List (List Byte)) : (sendPackets dst vlan b s).gran = s.gran := by
  induction b generalizing s with
  | nil => rfl
  | cons x r ih => simp only [sendPackets]; rw [ih]; simp
@[simp] theorem sendPackets_meters (dst : Endpoint) (vlan : Option Nat) (b : List (List Byte)) : (sendPackets dst vlan b s).meters = s.meters := by
  induction b generalizing s with
  | nil => rfl
  | cons x r ih => simp only [sendPackets]; rw [ih]; simp
@[simp] theorem sendPackets_shapers (dst : Endpoint) (vlan : Option Nat) (b : List (List Byte)) : (sendPackets dst vlan b s).shapers = s.shapers := by
  induction b generalizing s with
  | nil => rfl
  | cons x r ih => simp only [sendPackets]; rw [ih]; simp
@[simp] theorem sendPackets_meterInvalid (dst : Endpoint) (vlan : Option Nat) (b : List (List Byte)) : (sendPackets dst vlan b s).meterInvalid = s.meterInvalid := by
  induction b generalizing s with
  | nil => rfl
  | cons x r ih => simp only [sendPackets]; rw [ih]; simp
@[simp] theorem sendPackets_red (dst : Endpoint) (vlan : Option Nat) (b : List (List Byte)) : (sendPackets dst vlan b s).red = s.red := by
  induction b generalizing s with
  | nil => rfl
  | cons x r ih => simp only [sendPackets]; rw [ih]; simp
@[simp] theorem sendPackets_imgLoad (dst : Endpoint) (vlan : Option Nat) (b : List (List Byte)) : (sendPackets dst vlan b s).imgLoad = s.imgLoad := by
  induction b generalizing s with
  | nil => rfl
  | cons x r ih => simp only [sendPackets]; rw [ih]; simp
@[simp] theorem sendPackets_gle (dst : Endpoint) (vlan : Option Nat) (b : List (List Byte)) : (sendPackets dst vlan b s).gle = s.gle := by
  induction b generalizing s with
  | nil => rfl
  | cons x r ih => simp only [sendPackets]; rw [ih]; simp
@[simp] theorem sendPackets_mirrors (dst : Endpoint) (vlan : Option Nat) (b : List (List Byte)) : (sendPackets dst vlan b s).mirrors = s.mirrors := by
  induction b generalizing s with
  | nil => rfl
  | cons x r ih => simp only [sendPackets]; rw [ih]; simp
@[simp] theorem sendPackets_stook (dst : Endpoint) (vlan : Option Nat) (b : List (List Byte)) : (sendPackets dst vlan b s).stook = s.stook := by
  induction b generalizing s with
  | nil => rfl
  | cons x r ih => simp only [sendPackets]; rw [ih]; simp
@[simp] theorem sendPackets_perf (dst : Endpoint) (vlan : Option Nat) (b : List (List Byte)) : (sendPackets dst vlan b s).perf = s.perf := by
  induction b generalizing s with
  | nil => rfl
  | cons x r ih => simp only [sendPackets]; rw [ih]; simp
@[simp] theorem sendPackets_deep (dst : Endpoint) (vlan : Option Nat) (b : List (List Byte)) : (sendPackets dst vlan b s).deep = s.deep := by
  induction b generalizing s with
  | nil => rfl
  | cons x r ih => simp only [sendPackets]; rw [ih]; simp
@[simp] theorem sendPackets_free (dst : Endpoint) (vlan : Option Nat) (b : List (List Byte)) : (sendPackets dst vlan b s).free = s.free := by
  induction b generalizing s with
  | nil => rfl
  | cons x r ih => simp only [sendPackets]; rw [ih]; simp
@[simp] theorem sendPackets_nextUid (dst : Endpoint) (vlan : Option Nat) (b : List (List Byte)) : (sendPackets dst vlan b s).nextUid = s.nextUid := by
  induction b generalizing s with
  | nil => rfl
  | cons x r ih => simp only [sendPackets]; rw [ih]; simp

/-! ## respond -/

@[simp] theorem respond_pending (t : Ticket) (flags status detail : Nat) (params : List Byte) : (respond t flags status detail params s).pending = s.pending := by
  unfold respond; dsimp only; repeat' split
  all_goals simp
@[simp] theorem respond_dev (t : Ticket) (flags status detail : Nat) (params : List Byte) : (respond t flags status detail params s).dev = s.dev := by
  unfold respond; dsimp only; repeat' split
  all_goals simp
@[simp] theorem respond_clk (t : Ticket) (flags status detail : Nat) (params : List Byte) : (respond t flags status detail params s).clk = s.clk := by
  unfold respond; dsimp only; repeat' split
  all_goals simp
@[simp] theorem respond_slices (t : Ticket) (flags status detail : Nat) (params : List Byte) : (respond t flags status detail params s).slices = s.slices := by
  unfold respond; dsimp only; repeat' split
  all_goals simp
@[simp] theorem respond_mir (t : Ticket) (flags status detail : Nat) (params : List Byte) : (respond t flags status detail params s).mir = s.mir := by
  unfold respond; dsimp only; repeat' split
  all_goals simp
@[simp] theorem respond_sup (t : Ticket) (flags status detail : Nat) (params : List Byte) : (respond t flags status detail params s).sup = s.sup := by
  unfold respond; dsimp only; repeat' split
  all_goals simp
@[simp] theorem respond_therm (t : Ticket) (flags status detail : Nat) (params : List Byte) : (respond t flags status detail params s).therm = s.therm := by
  unfold respond; dsimp only; repeat' split
  all_goals simp
@[simp] theorem respond_pcie (t : Ticket) (flags status detail : Nat) (params : List Byte) : (respond t flags status detail params s).pcie = s.pcie := by
  unfold respond; dsimp only; repeat' split
  all_goals simp
@[simp] theorem respond_nv (t : Ticket) (flags status detail : Nat) (params : List Byte) : (respond t flags status detail params s).nv = s.nv := by
  unfold respond; dsimp only; repeat' split
  all_goals simp
@[simp] theorem respond_opt (t : Ticket) (flags status detail : Nat) (params : List Byte) : (respond t flags status detail params s).opt = s.opt := by
  unfold respond; dsimp only; repeat' split
  all_goals simp
@[simp] theorem respond_ret (t : Ticket) (flags status detail : Nat) (params : List Byte) : (respond t flags status detail params s).ret = s.ret := by
  unfold respond; dsimp only; repeat' split
  all_goals simp
@[simp] theorem respond_hfr (t : Ticket) (flags status detail : Nat) (params : List Byte) : (respond t flags status detail params s).hfr = s.hfr := by
  unfold respond; dsimp only; repeat' split
  all_goals simp
@[simp] theorem respond_jr (t : Ticket) (flags status detail : Nat) (params : List Byte) : (respond t flags status detail params s).jr = s.jr := by
  unfold respond; dsimp only; repeat' split
  all_goals simp
@[simp] theorem respond_tim (t : Ticket) (flags status detail : Nat) (params : List Byte) : (respond t flags status detail params s).tim = s.tim := by
  unfold respond; dsimp only; repeat' split
  all_goals simp
@[simp] theorem respond_gpio (t : Ticket) (flags status detail : Nat) (params : List Byte) : (respond t flags status detail params s).gpio = s.gpio := by
  unfold respond; dsimp only; repeat' split
  all_goals simp
@[simp] theorem respond_ports (t : Ticket) (flags status detail : Nat) (params : List Byte) : (respond t flags status detail params s).ports = s.ports := by
  unfold respond; dsimp only; repeat' split
  all_goals simp
@[simp] theorem respond_lanes (t : Ticket) (flags status detail : Nat) (params : List Byte) : (respond t flags status detail params s).lanes = s.lanes := by
  unfold respond; dsimp only; repeat' split
  all_goals simp
@[simp] theorem respond_i2c (t : Ticket) (flags status detail : Nat) (params : List Byte) : (respond t flags status detail params s).i2c = s.i2c := by
  unfold respond; dsimp only; repeat' split
  all_goals simp
@[simp] theorem respond_mods (t : Ticket) (flags status detail : Nat) (params : List Byte) : (respond t flags status detail params s).mods = s.mods := by
  unfold respond; dsimp only; repeat' split
  all_goals simp
@[simp] theorem respond_bankBit (t : Ticket) (flags status detail : Nat) (params : List Byte) : (respond t flags status detail params s).bankBit = s.bankBit := by
  unfold respond; dsimp only; repeat' split
  all_goals simp
@[simp] theorem respond_swap (t : Ticket) (flags status detail : Nat) (params : List Byte) : (respond t flags status detail params s).swap = s.swap := by
  unfold respond; dsimp only; repeat' split
  all_goals simp
@[simp] theorem respond_fa (t : Ticket) (flags status detail : Nat) (params : List Byte) : (respond t flags status detail params s).fa = s.fa := by
  unfold respond; dsimp only; repeat' split
  all_goals simp
@[simp] theorem respond_fb (t : Ticket) (flags status detail : Nat) (params : List Byte) : (respond t flags status detail params s).fb = s.fb := by
  unfold respond; dsimp only; repeat' split
  all_goals simp
@[simp] theorem respond_hl (t : Ticket) (flags status detail : Nat) (params : List Byte) : (respond t flags status detail params s).hl = s.hl := by
  unfold respond; dsimp only; repeat' split
  all_goals simp
@[simp] theorem respond_age (t : Ticket) (flags status detail : Nat) (params : List Byte) : (respond t flags status detail params s).age = s.age := by
  unfold respond; dsimp only; repeat' split
  all_goals simp
@[simp] theorem respond_shadow (t : Ticket) (flags status detail : Nat) (params : List Byte) : (respond t flags status detail params s).shadow = s.shadow := by
  unfold respond; dsimp only; repeat' split
  all_goals simp
@[simp] theorem respond_flush (t : Ticket) (flags status detail : Nat) (params : List Byte) : (respond t flags status detail params s).flush = s.flush := by
  unfold respond; dsimp only; repeat' split
  all_goals simp
@[simp] theorem respond_memErr (t : Ticket) (flags status detail : Nat) (params : List Byte) : (respond t flags status detail params s).memErr = s.memErr := by
  unfold respond; dsimp only; repeat' split
  all_goals simp
@[simp] theorem respond_frames (t : Ticket) (flags status detail : Nat) (params : List Byte) : (respond t flags status detail params s).frames = s.frames := by
  unfold respond; dsimp only; repeat' split
  all_goals simp
@[simp] theorem respond_gran (t : Ticket) (flags status detail : Nat) (params : List Byte) : (respond t flags status detail params s).gran = s.gran := by
  unfold respond; dsimp only; repeat' split
  all_goals simp
@[simp] theorem respond_meters (t : Ticket) (flags status detail : Nat) (params : List Byte) : (respond t flags status detail params s).meters = s.meters := by
  unfold respond; dsimp only; repeat' split
  all_goals simp
@[simp] theorem respond_shapers (t : Ticket) (flags status detail : Nat) (params : List Byte) : (respond t flags status detail params s).shapers = s.shapers := by
  unfold respond; dsimp only; repeat' split
  all_goals simp
@[simp] theorem respond_meterInvalid (t : Ticket) (flags status detail : Nat) (params : List Byte) : (respond t flags status detail params s).meterInvalid = s.meterInvalid := by
  unfold respond; dsimp only; repeat' split
  all_goals simp
@[simp] theorem respond_red (t : Ticket) (flags status detail : Nat) (params : List Byte) : (respond t flags status detail params s).red = s.red := by
  unfold respond; dsimp only; repeat' split
  all_goals simp
@[simp] theorem respond_imgLoad (t : Ticket) (flags status detail : Nat) (params : List Byte) : (respond t flags status detail params s).imgLoad = s.imgLoad := by
  unfold respond; dsimp only; repeat' split
  all_goals simp
@[simp] theorem respond_gle (t : Ticket) (flags status detail : Nat) (params : List Byte) : (respond t flags status detail params s).gle = s.gle := by
  unfold respond; dsimp only; repeat' split
  all_goals simp
@[simp] theorem respond_mirrors (t : Ticket) (flags status detail : Nat) (params : List Byte) : (respond t flags status detail params s).mirrors = s.mirrors := by
  unfold respond; dsimp only; repeat' split
  all_goals simp
@[simp] theorem respond_stook (t : Ticket) (flags status detail : Nat) (params : List Byte) : (respond t flags status detail params s).stook = s.stook := by
  unfold respond; dsimp only; repeat' split
  all_goals simp
@[simp] theorem respond_perf (t : Ticket) (flags status detail : Nat) (params : List Byte) : (respond t flags status detail params s).perf = s.perf := by
  unfold respond; dsimp only; repeat' split
  all_goals simp
@[simp] theorem respond_deep (t : Ticket) (flags status detail : Nat) (params : List Byte) : (respond t flags status detail params s).deep = s.deep := by
  unfold respond; dsimp only; repeat' split
  all_goals simp
@[simp] theorem respond_free (t : Ticket) (flags status detail : Nat) (params : List Byte) : (respond t flags status detail params s).free = s.free := by
  unfold respond; dsimp only; repeat' split
  all_goals simp
@[simp] theorem respond_nextUid (t : Ticket) (flags status detail : Nat) (params : List Byte) : (respond t flags status detail params s).nextUid = s.nextUid := by
  unfold respond; dsimp only; repeat' split
  all_goals simp

/-! ## complete -/

@[simp] theorem complete_pending (t : Ticket) (status : Nat) (params : List Byte) : (complete t status params s).pending = s.pending := by
  unfold complete; repeat' split
  all_goals simp
@[simp] theorem complete_dev (t : Ticket) (status : Nat) (params : List Byte) : (complete t status params s).dev = s.dev := by
  unfold complete; repeat' split
  all_goals simp
@[simp] theorem complete_clk (t : Ticket) (status : Nat) (params : List Byte) : (complete t status params s).clk = s.clk := by
  unfold complete; repeat' split
  all_goals simp
@[simp] theorem complete_slices (t : Ticket) (status : Nat) (params : List Byte) : (complete t status params s).slices = s.slices := by
  unfold complete; repeat' split
  all_goals simp
@[simp] theorem complete_mir (t : Ticket) (status : Nat) (params : List Byte) : (complete t status params s).mir = s.mir := by
  unfold complete; repeat' split
  all_goals simp
@[simp] theorem complete_sup (t : Ticket) (status : Nat) (params : List Byte) : (complete t status params s).sup = s.sup := by
  unfold complete; repeat' split
  all_goals simp
@[simp] theorem complete_therm (t : Ticket) (status : Nat) (params : List Byte) : (complete t status params s).therm = s.therm := by
  unfold complete; repeat' split
  all_goals simp
@[simp] theorem complete_pcie (t : Ticket) (status : Nat) (params : List Byte) : (complete t status params s).pcie = s.pcie := by
  unfold complete; repeat' split
  all_goals simp
@[simp] theorem complete_nv (t : Ticket) (status : Nat) (params : List Byte) : (complete t status params s).nv = s.nv := by
  unfold complete; repeat' split
  all_goals simp
@[simp] theorem complete_opt (t : Ticket) (status : Nat) (params : List Byte) : (complete t status params s).opt = s.opt := by
  unfold complete; repeat' split
  all_goals simp
@[simp] theorem complete_ret (t : Ticket) (status : Nat) (params : List Byte) : (complete t status params s).ret = s.ret := by
  unfold complete; repeat' split
  all_goals simp
@[simp] theorem complete_hfr (t : Ticket) (status : Nat) (params : List Byte) : (complete t status params s).hfr = s.hfr := by
  unfold complete; repeat' split
  all_goals simp
@[simp] theorem complete_jr (t : Ticket) (status : Nat) (params : List Byte) : (complete t status params s).jr = s.jr := by
  unfold complete; repeat' split
  all_goals simp
@[simp] theorem complete_tim (t : Ticket) (status : Nat) (params : List Byte) : (complete t status params s).tim = s.tim := by
  unfold complete; repeat' split
  all_goals simp
@[simp] theorem complete_gpio (t : Ticket) (status : Nat) (params : List Byte) : (complete t status params s).gpio = s.gpio := by
  unfold complete; repeat' split
  all_goals simp
@[simp] theorem complete_ports (t : Ticket) (status : Nat) (params : List Byte) : (complete t status params s).ports = s.ports := by
  unfold complete; repeat' split
  all_goals simp
@[simp] theorem complete_lanes (t : Ticket) (status : Nat) (params : List Byte) : (complete t status params s).lanes = s.lanes := by
  unfold complete; repeat' split
  all_goals simp
@[simp] theorem complete_i2c (t : Ticket) (status : Nat) (params : List Byte) : (complete t status params s).i2c = s.i2c := by
  unfold complete; repeat' split
  all_goals simp
@[simp] theorem complete_mods (t : Ticket) (status : Nat) (params : List Byte) : (complete t status params s).mods = s.mods := by
  unfold complete; repeat' split
  all_goals simp
@[simp] theorem complete_bankBit (t : Ticket) (status : Nat) (params : List Byte) : (complete t status params s).bankBit = s.bankBit := by
  unfold complete; repeat' split
  all_goals simp
@[simp] theorem complete_swap (t : Ticket) (status : Nat) (params : List Byte) : (complete t status params s).swap = s.swap := by
  unfold complete; repeat' split
  all_goals simp
@[simp] theorem complete_fa (t : Ticket) (status : Nat) (params : List Byte) : (complete t status params s).fa = s.fa := by
  unfold complete; repeat' split
  all_goals simp
@[simp] theorem complete_fb (t : Ticket) (status : Nat) (params : List Byte) : (complete t status params s).fb = s.fb := by
  unfold complete; repeat' split
  all_goals simp
@[simp] theorem complete_hl (t : Ticket) (status : Nat) (params : List Byte) : (complete t status params s).hl = s.hl := by
  unfold complete; repeat' split
  all_goals simp
@[simp] theorem complete_age (t : Ticket) (status : Nat) (params : List Byte) : (complete t status params s).age = s.age := by
  unfold complete; repeat' split
  all_goals simp
@[simp] theorem complete_shadow (t : Ticket) (status : Nat) (params : List Byte) : (complete t status params s).shadow = s.shadow := by
  unfold complete; repeat' split
  all_goals simp
@[simp] theorem complete_flush (t : Ticket) (status : Nat) (params : List Byte) : (complete t status params s).flush = s.flush := by
  unfold complete; repeat' split
  all_goals simp
@[simp] theorem complete_memErr (t : Ticket) (status : Nat) (params : List Byte) : (complete t status params s).memErr = s.memErr := by
  unfold complete; repeat' split
  all_goals simp
@[simp] theorem complete_frames (t : Ticket) (status : Nat) (params : List Byte) : (complete t status params s).frames = s.frames := by
  unfold complete; repeat' split
  all_goals simp
@[simp] theorem complete_gran (t : Ticket) (status : Nat) (params : List Byte) : (complete t status params s).gran = s.gran := by
  unfold complete; repeat' split
  all_goals simp
@[simp] theorem complete_meters (t : Ticket) (status : Nat) (params : List Byte) : (complete t status params s).meters = s.meters := by
  unfold complete; repeat' split
  all_goals simp
@[simp] theorem complete_shapers (t : Ticket) (status : Nat) (params : List Byte) : (complete t status params s).shapers = s.shapers := by
  unfold complete; repeat' split
  all_goals simp
@[simp] theorem complete_meterInvalid (t : Ticket) (status : Nat) (params : List Byte) : (complete t status params s).meterInvalid = s.meterInvalid := by
  unfold complete; repeat' split
  all_goals simp
@[simp] theorem complete_red (t : Ticket) (status : Nat) (params : List Byte) : (complete t status params s).red = s.red := by
  unfold complete; repeat' split
  all_goals simp
@[simp] theorem complete_imgLoad (t : Ticket) (status : Nat) (params : List Byte) : (complete t status params s).imgLoad = s.imgLoad := by
  unfold complete; repeat' split
  all_goals simp
@[simp] theorem complete_gle (t : Ticket) (status : Nat) (params : List Byte) : (complete t status params s).gle = s.gle := by
  unfold complete; repeat' split
  all_goals simp
@[simp] theorem complete_mirrors (t : Ticket) (status : Nat) (params : List Byte) : (complete t status params s).mirrors = s.mirrors := by
  unfold complete; repeat' split
  all_goals simp
@[simp] theorem complete_stook (t : Ticket) (status : Nat) (params : List Byte) : (complete t status params s).stook = s.stook := by
  unfold complete; repeat' split
  all_goals simp
@[simp] theorem complete_perf (t : Ticket) (status : Nat) (params : List Byte) : (complete t status params s).perf = s.perf := by
  unfold complete; repeat' split
  all_goals simp
@[simp] theorem complete_deep (t : Ticket) (status : Nat) (params : List Byte) : (complete t status params s).deep = s.deep := by
  unfold complete; repeat' split
  all_goals simp
@[simp] theorem complete_free (t : Ticket) (status : Nat) (params : List Byte) : (complete t status params s).free = s.free := by
  unfold complete; repeat' split
  all_goals simp
@[simp] theorem complete_nextUid (t : Ticket) (status : Nat) (params : List Byte) : (complete t status params s).nextUid = s.nextUid := by
  unfold complete; repeat' split
  all_goals simp

/-! ## queuePacket -/

@[simp] theorem queuePacket_pending (p : Packet) : (queuePacket p s).pending = s.pending := by
  rfl
@[simp] theorem queuePacket_dev (p : Packet) : (queuePacket p s).dev = s.dev := by
  rfl
@[simp] theorem queuePacket_clk (p : Packet) : (queuePacket p s).clk = s.clk := by
  rfl
@[simp] theorem queuePacket_slices (p : Packet) : (queuePacket p s).slices = s.slices := by
  rfl
@[simp] theorem queuePacket_mir (p : Packet) : (queuePacket p s).mir = s.mir := by
  rfl
@[simp] theorem queuePacket_sup (p : Packet) : (queuePacket p s).sup = s.sup := by
  rfl
@[simp] theorem queuePacket_therm (p : Packet) : (queuePacket p s).therm = s.therm := by
  rfl
@[simp] theorem queuePacket_pcie (p : Packet) : (queuePacket p s).pcie = s.pcie := by
  rfl
@[simp] theorem queuePacket_nv (p : Packet) : (queuePacket p s).nv = s.nv := by
  rfl
@[simp] theorem queuePacket_opt (p : Packet) : (queuePacket p s).opt = s.opt := by
  rfl
@[simp] theorem queuePacket_ret (p : Packet) : (queuePacket p s).ret = s.ret := by
  rfl
@[simp] theorem queuePacket_spi (p : Packet) : (queuePacket p s).spi = s.spi := by
  rfl
@[simp] theorem queuePacket_rings (p : Packet) : (queuePacket p s).rings = s.rings := by
  rfl
@[simp] theorem queuePacket_hfr (p : Packet) : (queuePacket p s).hfr = s.hfr := by
  rfl
@[simp] theorem queuePacket_win (p : Packet) : (queuePacket p s).win = s.win := by
  rfl
@[simp] theorem queuePacket_ev (p : Packet) : (queuePacket p s).ev = s.ev := by
  rfl
@[simp] theorem queuePacket_jr (p : Packet) : (queuePacket p s).jr = s.jr := by
  rfl
@[simp] theorem queuePacket_tim (p : Packet) : (queuePacket p s).tim = s.tim := by
  rfl
@[simp] theorem queuePacket_gpio (p : Packet) : (queuePacket p s).gpio = s.gpio := by
  rfl
@[simp] theorem queuePacket_ports (p : Packet) : (queuePacket p s).ports = s.ports := by
  rfl
@[simp] theorem queuePacket_lanes (p : Packet) : (queuePacket p s).lanes = s.lanes := by
  rfl
@[simp] theorem queuePacket_i2c (p : Packet) : (queuePacket p s).i2c = s.i2c := by
  rfl
@[simp] theorem queuePacket_mods (p : Packet) : (queuePacket p s).mods = s.mods := by
  rfl
@[simp] theorem queuePacket_bankBit (p : Packet) : (queuePacket p s).bankBit = s.bankBit := by
  rfl
@[simp] theorem queuePacket_swap (p : Packet) : (queuePacket p s).swap = s.swap := by
  rfl
@[simp] theorem queuePacket_fa (p : Packet) : (queuePacket p s).fa = s.fa := by
  rfl
@[simp] theorem queuePacket_fb (p : Packet) : (queuePacket p s).fb = s.fb := by
  rfl
@[simp] theorem queuePacket_hl (p : Packet) : (queuePacket p s).hl = s.hl := by
  rfl
@[simp] theorem queuePacket_age (p : Packet) : (queuePacket p s).age = s.age := by
  rfl
@[simp] theorem queuePacket_shadow (p : Packet) : (queuePacket p s).shadow = s.shadow := by
  rfl
@[simp] theorem queuePacket_flush (p : Packet) : (queuePacket p s).flush = s.flush := by
  rfl
@[simp] theorem queuePacket_memErr (p : Packet) : (queuePacket p s).memErr = s.memErr := by
  rfl
@[simp] theorem queuePacket_frames (p : Packet) : (queuePacket p s).frames = s.frames := by
  rfl
@[simp] theorem queuePacket_gran (p : Packet) : (queuePacket p s).gran = s.gran := by
  rfl
@[simp] theorem queuePacket_meters (p : Packet) : (queuePacket p s).meters = s.meters := by
  rfl
@[simp] theorem queuePacket_shapers (p : Packet) : (queuePacket p s).shapers = s.shapers := by
  rfl
@[simp] theorem queuePacket_meterInvalid (p : Packet) : (queuePacket p s).meterInvalid = s.meterInvalid := by
  rfl
@[simp] theorem queuePacket_red (p : Packet) : (queuePacket p s).red = s.red := by
  rfl
@[simp] theorem queuePacket_imgLoad (p : Packet) : (queuePacket p s).imgLoad = s.imgLoad := by
  rfl
@[simp] theorem queuePacket_gle (p : Packet) : (queuePacket p s).gle = s.gle := by
  rfl
@[simp] theorem queuePacket_mirrors (p : Packet) : (queuePacket p s).mirrors = s.mirrors := by
  rfl
@[simp] theorem queuePacket_stook (p : Packet) : (queuePacket p s).stook = s.stook := by
  rfl
@[simp] theorem queuePacket_perf (p : Packet) : (queuePacket p s).perf = s.perf := by
  rfl
@[simp] theorem queuePacket_deep (p : Packet) : (queuePacket p s).deep = s.deep := by
  rfl
@[simp] theorem queuePacket_out (p : Packet) : (queuePacket p s).out = s.out := by
  rfl
@[simp] theorem queuePacket_free (p : Packet) : (queuePacket p s).free = s.free := by
  rfl
@[simp] theorem queuePacket_nextUid (p : Packet) : (queuePacket p s).nextUid = s.nextUid := by
  rfl

/-! ## answered -/

@[simp] theorem answered_pending (c : CmdSpec) (p : Packet) (status : Nat) (params : List Byte) : (answered c p status params s).pending = s.pending := by
  simp [answered]
@[simp] theorem answered_dev (c : CmdSpec) (p : Packet) (status : Nat) (params : List Byte) : (answered c p status params s).dev = s.dev := by
  simp [answered]
@[simp] theorem answered_clk (c : CmdSpec) (p : Packet) (status : Nat) (params : List Byte) : (answered c p status params s).clk = s.clk := by
  simp [answered]
@[simp] theorem answered_slices (c : CmdSpec) (p : Packet) (status : Nat) (params : List Byte) : (answered c p status params s).slices = s.slices := by
  simp [answered]
@[simp] theorem answered_mir (c : CmdSpec) (p : Packet) (status : Nat) (params : List Byte) : (answered c p status params s).mir = s.mir := by
  simp [answered]
@[simp] theorem answered_sup (c : CmdSpec) (p : Packet) (status : Nat) (params : List Byte) : (answered c p status params s).sup = s.sup := by
  simp [answered]
@[simp] theorem answered_therm (c : CmdSpec) (p : Packet) (status : Nat) (params : List Byte) : (answered c p status params s).therm = s.therm := by
  simp [answered]
@[simp] theorem answered_pcie (c : CmdSpec) (p : Packet) (status : Nat) (params : List Byte) : (answered c p status params s).pcie = s.pcie := by
  simp [answered]
@[simp] theorem answered_nv (c : CmdSpec) (p : Packet) (status : Nat) (params : List Byte) : (answered c p status params s).nv = s.nv := by
  simp [answered]
@[simp] theorem answered_opt (c : CmdSpec) (p : Packet) (status : Nat) (params : List Byte) : (answered c p status params s).opt = s.opt := by
  simp [answered]
@[simp] theorem answered_ret (c : CmdSpec) (p : Packet) (status : Nat) (params : List Byte) : (answered c p status params s).ret = s.ret := by
  simp [answered]
@[simp] theorem answered_hfr (c : CmdSpec) (p : Packet) (status : Nat) (params : List Byte) : (answered c p status params s).hfr = s.hfr := by
  simp [answered]
@[simp] theorem answered_jr (c : CmdSpec) (p : Packet) (status : Nat) (params : List Byte) : (answered c p status params s).jr = s.jr := by
  simp [answered]
@[simp] theorem answered_tim (c : CmdSpec) (p : Packet) (status : Nat) (params : List Byte) : (answered c p status params s).tim = s.tim := by
  simp [answered]
@[simp] theorem answered_gpio (c : CmdSpec) (p : Packet) (status : Nat) (params : List Byte) : (answered c p status params s).gpio = s.gpio := by
  simp [answered]
@[simp] theorem answered_ports (c : CmdSpec) (p : Packet) (status : Nat) (params : List Byte) : (answered c p status params s).ports = s.ports := by
  simp [answered]
@[simp] theorem answered_lanes (c : CmdSpec) (p : Packet) (status : Nat) (params : List Byte) : (answered c p status params s).lanes = s.lanes := by
  simp [answered]
@[simp] theorem answered_i2c (c : CmdSpec) (p : Packet) (status : Nat) (params : List Byte) : (answered c p status params s).i2c = s.i2c := by
  simp [answered]
@[simp] theorem answered_mods (c : CmdSpec) (p : Packet) (status : Nat) (params : List Byte) : (answered c p status params s).mods = s.mods := by
  simp [answered]
@[simp] theorem answered_bankBit (c : CmdSpec) (p : Packet) (status : Nat) (params : List Byte) : (answered c p status params s).bankBit = s.bankBit := by
  simp [answered]
@[simp] theorem answered_swap (c : CmdSpec) (p : Packet) (status : Nat) (params : List Byte) : (answered c p status params s).swap = s.swap := by
  simp [answered]
@[simp] theorem answered_fa (c : CmdSpec) (p : Packet) (status : Nat) (params : List Byte) : (answered c p status params s).fa = s.fa := by
  simp [answered]
@[simp] theorem answered_fb (c : CmdSpec) (p : Packet) (status : Nat) (params : List Byte) : (answered c p status params s).fb = s.fb := by
  simp [answered]
@[simp] theorem answered_hl (c : CmdSpec) (p : Packet) (status : Nat) (params : List Byte) : (answered c p status params s).hl = s.hl := by
  simp [answered]
@[simp] theorem answered_age (c : CmdSpec) (p : Packet) (status : Nat) (params : List Byte) : (answered c p status params s).age = s.age := by
  simp [answered]
@[simp] theorem answered_shadow (c : CmdSpec) (p : Packet) (status : Nat) (params : List Byte) : (answered c p status params s).shadow = s.shadow := by
  simp [answered]
@[simp] theorem answered_flush (c : CmdSpec) (p : Packet) (status : Nat) (params : List Byte) : (answered c p status params s).flush = s.flush := by
  simp [answered]
@[simp] theorem answered_memErr (c : CmdSpec) (p : Packet) (status : Nat) (params : List Byte) : (answered c p status params s).memErr = s.memErr := by
  simp [answered]
@[simp] theorem answered_frames (c : CmdSpec) (p : Packet) (status : Nat) (params : List Byte) : (answered c p status params s).frames = s.frames := by
  simp [answered]
@[simp] theorem answered_gran (c : CmdSpec) (p : Packet) (status : Nat) (params : List Byte) : (answered c p status params s).gran = s.gran := by
  simp [answered]
@[simp] theorem answered_meters (c : CmdSpec) (p : Packet) (status : Nat) (params : List Byte) : (answered c p status params s).meters = s.meters := by
  simp [answered]
@[simp] theorem answered_shapers (c : CmdSpec) (p : Packet) (status : Nat) (params : List Byte) : (answered c p status params s).shapers = s.shapers := by
  simp [answered]
@[simp] theorem answered_meterInvalid (c : CmdSpec) (p : Packet) (status : Nat) (params : List Byte) : (answered c p status params s).meterInvalid = s.meterInvalid := by
  simp [answered]
@[simp] theorem answered_red (c : CmdSpec) (p : Packet) (status : Nat) (params : List Byte) : (answered c p status params s).red = s.red := by
  simp [answered]
@[simp] theorem answered_imgLoad (c : CmdSpec) (p : Packet) (status : Nat) (params : List Byte) : (answered c p status params s).imgLoad = s.imgLoad := by
  simp [answered]
@[simp] theorem answered_gle (c : CmdSpec) (p : Packet) (status : Nat) (params : List Byte) : (answered c p status params s).gle = s.gle := by
  simp [answered]
@[simp] theorem answered_mirrors (c : CmdSpec) (p : Packet) (status : Nat) (params : List Byte) : (answered c p status params s).mirrors = s.mirrors := by
  simp [answered]
@[simp] theorem answered_stook (c : CmdSpec) (p : Packet) (status : Nat) (params : List Byte) : (answered c p status params s).stook = s.stook := by
  simp [answered]
@[simp] theorem answered_perf (c : CmdSpec) (p : Packet) (status : Nat) (params : List Byte) : (answered c p status params s).perf = s.perf := by
  simp [answered]
@[simp] theorem answered_deep (c : CmdSpec) (p : Packet) (status : Nat) (params : List Byte) : (answered c p status params s).deep = s.deep := by
  simp [answered]
@[simp] theorem answered_free (c : CmdSpec) (p : Packet) (status : Nat) (params : List Byte) : (answered c p status params s).free = s.free := by
  simp [answered]
@[simp] theorem answered_nextUid (c : CmdSpec) (p : Packet) (status : Nat) (params : List Byte) : (answered c p status params s).nextUid = s.nextUid := by
  simp [answered]

/-! ## deferred -/

@[simp] theorem deferred_pending (c : CmdSpec) (p : Packet) : (deferred c p s).pending = s.pending := by
  simp [deferred]
@[simp] theorem deferred_dev (c : CmdSpec) (p : Packet) : (deferred c p s).dev = s.dev := by
  simp [deferred]
@[simp] theorem deferred_clk (c : CmdSpec) (p : Packet) : (deferred c p s).clk = s.clk := by
  simp [deferred]
@[simp] theorem deferred_slices (c : CmdSpec) (p : Packet) : (deferred c p s).slices = s.slices := by
  simp [deferred]
@[simp] theorem deferred_mir (c : CmdSpec) (p : Packet) : (deferred c p s).mir = s.mir := by
  simp [deferred]
@[simp] theorem deferred_sup (c : CmdSpec) (p : Packet) : (deferred c p s).sup = s.sup := by
  simp [deferred]
@[simp] theorem deferred_therm (c : CmdSpec) (p : Packet) : (deferred c p s).therm = s.therm := by
  simp [deferred]
@[simp] theorem deferred_pcie (c : CmdSpec) (p : Packet) : (deferred c p s).pcie = s.pcie := by
  simp [deferred]
@[simp] theorem deferred_nv (c : CmdSpec) (p : Packet) : (deferred c p s).nv = s.nv := by
  simp [deferred]
@[simp] theorem deferred_opt (c : CmdSpec) (p : Packet) : (deferred c p s).opt = s.opt := by
  simp [deferred]
@[simp] theorem deferred_ret (c : CmdSpec) (p : Packet) : (deferred c p s).ret = s.ret := by
  simp [deferred]
@[simp] theorem deferred_hfr (c : CmdSpec) (p : Packet) : (deferred c p s).hfr = s.hfr := by
  simp [deferred]
@[simp] theorem deferred_jr (c : CmdSpec) (p : Packet) : (deferred c p s).jr = s.jr := by
  simp [deferred]
@[simp] theorem deferred_tim (c : CmdSpec) (p : Packet) : (deferred c p s).tim = s.tim := by
  simp [deferred]
@[simp] theorem deferred_gpio (c : CmdSpec) (p : Packet) : (deferred c p s).gpio = s.gpio := by
  simp [deferred]
@[simp] theorem deferred_ports (c : CmdSpec) (p : Packet) : (deferred c p s).ports = s.ports := by
  simp [deferred]
@[simp] theorem deferred_lanes (c : CmdSpec) (p : Packet) : (deferred c p s).lanes = s.lanes := by
  simp [deferred]
@[simp] theorem deferred_i2c (c : CmdSpec) (p : Packet) : (deferred c p s).i2c = s.i2c := by
  simp [deferred]
@[simp] theorem deferred_mods (c : CmdSpec) (p : Packet) : (deferred c p s).mods = s.mods := by
  simp [deferred]
@[simp] theorem deferred_bankBit (c : CmdSpec) (p : Packet) : (deferred c p s).bankBit = s.bankBit := by
  simp [deferred]
@[simp] theorem deferred_swap (c : CmdSpec) (p : Packet) : (deferred c p s).swap = s.swap := by
  simp [deferred]
@[simp] theorem deferred_fa (c : CmdSpec) (p : Packet) : (deferred c p s).fa = s.fa := by
  simp [deferred]
@[simp] theorem deferred_fb (c : CmdSpec) (p : Packet) : (deferred c p s).fb = s.fb := by
  simp [deferred]
@[simp] theorem deferred_hl (c : CmdSpec) (p : Packet) : (deferred c p s).hl = s.hl := by
  simp [deferred]
@[simp] theorem deferred_age (c : CmdSpec) (p : Packet) : (deferred c p s).age = s.age := by
  simp [deferred]
@[simp] theorem deferred_shadow (c : CmdSpec) (p : Packet) : (deferred c p s).shadow = s.shadow := by
  simp [deferred]
@[simp] theorem deferred_flush (c : CmdSpec) (p : Packet) : (deferred c p s).flush = s.flush := by
  simp [deferred]
@[simp] theorem deferred_memErr (c : CmdSpec) (p : Packet) : (deferred c p s).memErr = s.memErr := by
  simp [deferred]
@[simp] theorem deferred_frames (c : CmdSpec) (p : Packet) : (deferred c p s).frames = s.frames := by
  simp [deferred]
@[simp] theorem deferred_gran (c : CmdSpec) (p : Packet) : (deferred c p s).gran = s.gran := by
  simp [deferred]
@[simp] theorem deferred_meters (c : CmdSpec) (p : Packet) : (deferred c p s).meters = s.meters := by
  simp [deferred]
@[simp] theorem deferred_shapers (c : CmdSpec) (p : Packet) : (deferred c p s).shapers = s.shapers := by
  simp [deferred]
@[simp] theorem deferred_meterInvalid (c : CmdSpec) (p : Packet) : (deferred c p s).meterInvalid = s.meterInvalid := by
  simp [deferred]
@[simp] theorem deferred_red (c : CmdSpec) (p : Packet) : (deferred c p s).red = s.red := by
  simp [deferred]
@[simp] theorem deferred_imgLoad (c : CmdSpec) (p : Packet) : (deferred c p s).imgLoad = s.imgLoad := by
  simp [deferred]
@[simp] theorem deferred_gle (c : CmdSpec) (p : Packet) : (deferred c p s).gle = s.gle := by
  simp [deferred]
@[simp] theorem deferred_mirrors (c : CmdSpec) (p : Packet) : (deferred c p s).mirrors = s.mirrors := by
  simp [deferred]
@[simp] theorem deferred_stook (c : CmdSpec) (p : Packet) : (deferred c p s).stook = s.stook := by
  simp [deferred]
@[simp] theorem deferred_perf (c : CmdSpec) (p : Packet) : (deferred c p s).perf = s.perf := by
  simp [deferred]
@[simp] theorem deferred_deep (c : CmdSpec) (p : Packet) : (deferred c p s).deep = s.deep := by
  simp [deferred]
@[simp] theorem deferred_free (c : CmdSpec) (p : Packet) : (deferred c p s).free = s.free := by
  simp [deferred]
@[simp] theorem deferred_nextUid (c : CmdSpec) (p : Packet) : (deferred c p s).nextUid = s.nextUid := by
  simp [deferred]

/-! ## reached -/

@[simp] theorem reached_pending (c : CmdSpec) (p : Packet) : (reached c p s).pending = s.pending := by
  simp [reached]
@[simp] theorem reached_dev (c : CmdSpec) (p : Packet) : (reached c p s).dev = s.dev := by
  simp [reached]
@[simp] theorem reached_clk (c : CmdSpec) (p : Packet) : (reached c p s).clk = s.clk := by
  simp [reached]
@[simp] theorem reached_slices (c : CmdSpec) (p : Packet) : (reached c p s).slices = s.slices := by
  simp [reached]
@[simp] theorem reached_mir (c : CmdSpec) (p : Packet) : (reached c p s).mir = s.mir := by
  simp [reached]
@[simp] theorem reached_sup (c : CmdSpec) (p : Packet) : (reached c p s).sup = s.sup := by
  simp [reached]
@[simp] theorem reached_therm (c : CmdSpec) (p : Packet) : (reached c p s).therm = s.therm := by
  simp [reached]
@[simp] theorem reached_pcie (c : CmdSpec) (p : Packet) : (reached c p s).pcie = s.pcie := by
  simp [reached]
@[simp] theorem reached_nv (c : CmdSpec) (p : Packet) : (reached c p s).nv = s.nv := by
  simp [reached]
@[simp] theorem reached_opt (c : CmdSpec) (p : Packet) : (reached c p s).opt = s.opt := by
  simp [reached]
@[simp] theorem reached_ret (c : CmdSpec) (p : Packet) : (reached c p s).ret = s.ret := by
  simp [reached]
@[simp] theorem reached_spi (c : CmdSpec) (p : Packet) : (reached c p s).spi = s.spi := by
  simp [reached]
@[simp] theorem reached_rings (c : CmdSpec) (p : Packet) : (reached c p s).rings = s.rings := by
  simp [reached]
@[simp] theorem reached_hfr (c : CmdSpec) (p : Packet) : (reached c p s).hfr = s.hfr := by
  simp [reached]
@[simp] theorem reached_win (c : CmdSpec) (p : Packet) : (reached c p s).win = s.win := by
  simp [reached]
@[simp] theorem reached_ev (c : CmdSpec) (p : Packet) : (reached c p s).ev = s.ev := by
  simp [reached]
@[simp] theorem reached_jr (c : CmdSpec) (p : Packet) : (reached c p s).jr = s.jr := by
  simp [reached]
@[simp] theorem reached_tim (c : CmdSpec) (p : Packet) : (reached c p s).tim = s.tim := by
  simp [reached]
@[simp] theorem reached_gpio (c : CmdSpec) (p : Packet) : (reached c p s).gpio = s.gpio := by
  simp [reached]
@[simp] theorem reached_ports (c : CmdSpec) (p : Packet) : (reached c p s).ports = s.ports := by
  simp [reached]
@[simp] theorem reached_lanes (c : CmdSpec) (p : Packet) : (reached c p s).lanes = s.lanes := by
  simp [reached]
@[simp] theorem reached_i2c (c : CmdSpec) (p : Packet) : (reached c p s).i2c = s.i2c := by
  simp [reached]
@[simp] theorem reached_mods (c : CmdSpec) (p : Packet) : (reached c p s).mods = s.mods := by
  simp [reached]
@[simp] theorem reached_bankBit (c : CmdSpec) (p : Packet) : (reached c p s).bankBit = s.bankBit := by
  simp [reached]
@[simp] theorem reached_swap (c : CmdSpec) (p : Packet) : (reached c p s).swap = s.swap := by
  simp [reached]
@[simp] theorem reached_fa (c : CmdSpec) (p : Packet) : (reached c p s).fa = s.fa := by
  simp [reached]
@[simp] theorem reached_fb (c : CmdSpec) (p : Packet) : (reached c p s).fb = s.fb := by
  simp [reached]
@[simp] theorem reached_hl (c : CmdSpec) (p : Packet) : (reached c p s).hl = s.hl := by
  simp [reached]
@[simp] theorem reached_age (c : CmdSpec) (p : Packet) : (reached c p s).age = s.age := by
  simp [reached]
@[simp] theorem reached_shadow (c : CmdSpec) (p : Packet) : (reached c p s).shadow = s.shadow := by
  simp [reached]
@[simp] theorem reached_flush (c : CmdSpec) (p : Packet) : (reached c p s).flush = s.flush := by
  simp [reached]
@[simp] theorem reached_memErr (c : CmdSpec) (p : Packet) : (reached c p s).memErr = s.memErr := by
  simp [reached]
@[simp] theorem reached_frames (c : CmdSpec) (p : Packet) : (reached c p s).frames = s.frames := by
  simp [reached]
@[simp] theorem reached_gran (c : CmdSpec) (p : Packet) : (reached c p s).gran = s.gran := by
  simp [reached]
@[simp] theorem reached_meters (c : CmdSpec) (p : Packet) : (reached c p s).meters = s.meters := by
  simp [reached]
@[simp] theorem reached_shapers (c : CmdSpec) (p : Packet) : (reached c p s).shapers = s.shapers := by
  simp [reached]
@[simp] theorem reached_meterInvalid (c : CmdSpec) (p : Packet) : (reached c p s).meterInvalid = s.meterInvalid := by
  simp [reached]
@[simp] theorem reached_red (c : CmdSpec) (p : Packet) : (reached c p s).red = s.red := by
  simp [reached]
@[simp] theorem reached_imgLoad (c : CmdSpec) (p : Packet) : (reached c p s).imgLoad = s.imgLoad := by
  simp [reached]
@[simp] theorem reached_gle (c : CmdSpec) (p : Packet) : (reached c p s).gle = s.gle := by
  simp [reached]
@[simp] theorem reached_mirrors (c : CmdSpec) (p : Packet) : (reached c p s).mirrors = s.mirrors := by
  simp [reached]
@[simp] theorem reached_stook (c : CmdSpec) (p : Packet) : (reached c p s).stook = s.stook := by
  simp [reached]
@[simp] theorem reached_perf (c : CmdSpec) (p : Packet) : (reached c p s).perf = s.perf := by
  simp [reached]
@[simp] theorem reached_deep (c : CmdSpec) (p : Packet) : (reached c p s).deep = s.deep := by
  simp [reached]
@[simp] theorem reached_out (c : CmdSpec) (p : Packet) : (reached c p s).out = s.out := by
  simp [reached]
@[simp] theorem reached_free (c : CmdSpec) (p : Packet) : (reached c p s).free = s.free := by
  simp [reached]
@[simp] theorem reached_nextUid (c : CmdSpec) (p : Packet) : (reached c p s).nextUid = s.nextUid := by
  simp [reached]

end Sys2Proof.Machine
end

