-- ==== Sys2Proof/Laws/Tables.lean ====
section
/-! SUPPORT. The sparse tables: what an index reads after an update, and that every update keeps the canonical form. -/

namespace Sys2Proof.Machine

variable {α : Type}

/-! ## Reading -/

@[simp] theorem tget?_nil (k : Nat) : tget? ([] : Table α) k = none := rfl
@[simp] theorem tget_nil (d : α) (k : Nat) : tget d ([] : Table α) k = d := rfl

theorem tget?_cons (j : Nat) (v : α) (r : Table α) (k : Nat) : tget? ((j, v) :: r) k = if j = k then some v else tget? r k := by
  by_cases h : j = k <;> simp [tget?, h]

theorem rising_tail {e : Nat × α} {r : Table α} (h : Rising (e :: r) = true) : Rising r = true := by
  obtain ⟨j, v⟩ := e
  cases r with
  | nil => rfl
  | cons f r => obtain ⟨k, w⟩ := f; simp [Rising] at h; exact h.2

/-- The keys after the first are larger. -/
theorem rising_lt {j : Nat} {v : α} {r : Table α} (h : Rising ((j, v) :: r) = true) : ∀ e ∈ r, j < e.1 := by
  induction r generalizing j v with
  | nil => simp
  | cons f r ih =>
    obtain ⟨k, w⟩ := f
    simp only [Rising, Bool.and_eq_true, decide_eq_true_eq] at h
    intro e he
    rcases List.mem_cons.mp he with rfl | he
    · exact h.1
    · exact Nat.lt_trans h.1 (ih h.2 e he)

theorem rising_cons {j : Nat} {v : α} {r : Table α} (hr : Rising r = true) (h : ∀ e ∈ r, j < e.1) : Rising ((j, v) :: r) = true := by
  cases r with
  | nil => rfl
  | cons f r => obtain ⟨k, w⟩ := f; simp only [Rising, Bool.and_eq_true, decide_eq_true_eq]; exact ⟨h (k, w) (by simp), hr⟩

theorem tget?_none_of_lt {r : Table α} {k : Nat} (h : ∀ e ∈ r, k < e.1) : tget? r k = none := by
  induction r with
  | nil => rfl
  | cons e r ih =>
    obtain ⟨j, v⟩ := e
    have hj : k < j := h (j, v) (by simp)
    rw [tget?_cons, if_neg (by omega)]
    exact ih (fun e he => h e (by simp [he]))

/-- What an index reads after an entry is put. -/
theorem tget?_tput (t : Table α) (k : Nat) (v : α) (i : Nat) : tget? (tput t k v) i = if k = i then some v else tget? t i := by
  induction t with
  | nil => simp [tput, tget?_cons]
  | cons e r ih =>
    obtain ⟨j, w⟩ := e
    by_cases h1 : k < j
    · simp [tput, h1, tget?_cons]
    · by_cases h2 : k = j
      · subst h2; by_cases h : k = i <;> simp [tput, tget?_cons, h]
      · simp only [tput, if_neg h1, beq_iff_eq, if_neg h2, tget?_cons, ih]
        by_cases hj : j = i
        · subst hj; simp [h2]
        · simp [hj]

@[simp] theorem tget_tput (d : α) (t : Table α) (k : Nat) (v : α) (i : Nat) : tget d (tput t k v) i = if k = i then v else tget d t i := by
  simp only [tget, tget?_tput]; split <;> rfl

theorem mem_tdel {t : Table α} {k : Nat} {e : Nat × α} (h : e ∈ tdel t k) : e ∈ t := by
  induction t with
  | nil => simp [tdel] at h
  | cons f r ih =>
    obtain ⟨j, v⟩ := f
    by_cases hj : j = k
    · subst hj; simp [tdel] at h; simp [h]
    · simp [tdel, hj] at h; rcases h with h | h
      · simp [h]
      · simp [ih h]

theorem rising_tdel {t : Table α} (k : Nat) (h : Rising t = true) : Rising (tdel t k) = true := by
  induction t with
  | nil => rfl
  | cons f r ih =>
    obtain ⟨j, v⟩ := f
    by_cases hj : j = k
    · subst hj; simpa [tdel] using (rising_tail h)
    · simp only [tdel, beq_iff_eq, if_neg hj]
      exact rising_cons (ih (rising_tail h)) (fun e he => (rising_lt h) e (mem_tdel he))

/-- What an index reads after an entry is removed. -/
theorem tget?_tdel {t : Table α} (h : Rising t = true) (k i : Nat) : tget? (tdel t k) i = if k = i then none else tget? t i := by
  induction t with
  | nil => simp [tdel]
  | cons f r ih =>
    obtain ⟨j, v⟩ := f
    by_cases hj : j = k
    · subst hj
      simp only [tdel, beq_self_eq_true, if_true]
      by_cases hi : j = i
      · subst hi; simp [tget?_none_of_lt (rising_lt h)]
      · simp [tget?_cons, hi]
    · simp only [tdel, beq_iff_eq, if_neg hj, tget?_cons, ih (rising_tail h)]
      by_cases hi : j = i
      · subst hi; simp [Ne.symm hj]
      · simp [hi]

/-- What an index reads after it is set. -/
theorem tget_tset [DecidableEq α] (d : α) {t : Table α} (h : Rising t = true) (k : Nat) (v : α) (i : Nat) :
    tget d (tset d t k v) i = if k = i then v else tget d t i := by
  unfold tset
  split
  · rename_i hv; subst hv
    simp only [tget, tget?_tdel h]
    split <;> rfl
  · simp

theorem tget_tmod [DecidableEq α] (d : α) {t : Table α} (h : Rising t = true) (k : Nat) (f : α → α) (i : Nat) :
    tget d (tmod d t k f) i = if k = i then f (tget d t k) else tget d t i := tget_tset d h k _ i

/-! ## The canonical form -/

theorem mem_tput {t : Table α} {k : Nat} {v : α} {e : Nat × α} (h : e ∈ tput t k v) : e = (k, v) ∨ e ∈ t := by
  induction t with
  | nil => simp [tput] at h; exact .inl h
  | cons f r ih =>
    obtain ⟨j, w⟩ := f
    simp only [tput] at h
    split at h
    · simpa using h
    · split at h
      · rcases List.mem_cons.mp h with h | h
        · exact .inl h
        · exact .inr (by simp [h])
      · rcases List.mem_cons.mp h with h | h
        · exact .inr (by simp [h])
        · rcases ih h with h | h
          · exact .inl h
          · exact .inr (by simp [h])

theorem rising_tput {t : Table α} (k : Nat) (v : α) (h : Rising t = true) : Rising (tput t k v) = true := by
  induction t with
  | nil => rfl
  | cons f r ih =>
    obtain ⟨j, w⟩ := f
    simp only [tput]
    split
    · rename_i hk
      refine rising_cons h (fun e he => ?_)
      rcases List.mem_cons.mp he with rfl | he
      · exact hk
      · exact Nat.lt_trans hk (rising_lt h e he)
    · rename_i hk
      split
      · rename_i hj; simp at hj; subst hj; exact rising_cons (rising_tail h) (rising_lt h)
      · rename_i hj; simp at hj
        refine rising_cons (ih (rising_tail h)) ?_
        intro e he
        rcases mem_tput he with rfl | he
        · show j < k; omega
        · exact (rising_lt h) e he

theorem rising_filter {t : Table α} (p : Nat × α → Bool) (h : Rising t = true) : Rising (t.filter p) = true := by
  induction t with
  | nil => rfl
  | cons f r ih =>
    obtain ⟨j, v⟩ := f
    simp only [List.filter_cons]
    split
    · exact rising_cons (ih (rising_tail h)) (fun e he => (rising_lt h) e ((List.mem_filter.mp he).1))
    · exact ih (rising_tail h)

theorem rising_map {β : Type} {t : Table α} (f : Nat × α → β) (h : Rising t = true) : Rising (t.map (fun e => (e.1, f e))) = true := by
  induction t with
  | nil => rfl
  | cons e r ih =>
    obtain ⟨j, v⟩ := e
    refine rising_cons (ih (rising_tail h)) ?_
    intro x hx
    obtain ⟨y, hy, rfl⟩ := List.mem_map.mp hx
    exact (rising_lt h) y hy

section canon
variable [DecidableEq α] {d : α} {t : Table α}

theorem canon_iff : Canon d t = true ↔ Rising t = true ∧ ∀ e ∈ t, e.2 ≠ d := by
  simp [Canon, List.all_eq_true]

theorem canon_rising (h : Canon d t = true) : Rising t = true := (canon_iff.mp h).1

@[simp] theorem canon_nil : Canon d ([] : Table α) = true := rfl

theorem canon_tdel (k : Nat) (h : Canon d t = true) : Canon d (tdel t k) = true :=
  canon_iff.mpr ⟨rising_tdel k (canon_rising h), fun e he => (canon_iff.mp h).2 e (mem_tdel he)⟩

theorem canon_tput {k : Nat} {v : α} (hv : v ≠ d) (h : Canon d t = true) : Canon d (tput t k v) = true := by
  refine canon_iff.mpr ⟨rising_tput k v (canon_rising h), fun e he => ?_⟩
  rcases mem_tput he with rfl | he
  · exact hv
  · exact (canon_iff.mp h).2 e he

theorem canon_tset (k : Nat) (v : α) (h : Canon d t = true) : Canon d (tset d t k v) = true := by
  unfold tset
  split
  · exact canon_tdel k h
  · rename_i hv; exact canon_tput hv h

theorem canon_tmod (k : Nat) (f : α → α) (h : Canon d t = true) : Canon d (tmod d t k f) = true := canon_tset k _ h

theorem canon_tmap (f : α → α) (h : Canon d t = true) : Canon d (tmap d t f) = true :=
  canon_iff.mpr ⟨rising_filter _ (rising_map (fun e => f e.2) (canon_rising h)), fun e he => by simpa using (List.mem_filter.mp he).2⟩

/-- In canonical form, equal readings are equal tables. -/
theorem canon_ext {u : Table α} (ht : Canon d t = true) (hu : Canon d u = true) (h : ∀ i, tget d t i = tget d u i) : t = u := by
  induction t generalizing u with
  | nil =>
    cases u with
    | nil => rfl
    | cons e r =>
      obtain ⟨j, v⟩ := e
      have h1 := h j
      simp [tget, tget?_cons] at h1
      exact absurd h1.symm ((canon_iff.mp hu).2 (j, v) (by simp))
  | cons e r ih =>
    obtain ⟨j, v⟩ := e
    have hv : v ≠ d := (canon_iff.mp ht).2 (j, v) (by simp)
    cases u with
    | nil =>
      have h1 := h j
      simp [tget, tget?_cons] at h1
      exact absurd h1 hv
    | cons f q =>
      obtain ⟨k, w⟩ := f
      have hw : w ≠ d := (canon_iff.mp hu).2 (k, w) (by simp)
      have hjk : j = k := by
        rcases Nat.lt_trichotomy j k with hlt | heq | hgt
        · have h1 := h j
          have h2 : tget? q j = none := tget?_none_of_lt (fun e he => Nat.lt_trans hlt ((rising_lt (canon_rising hu)) e he))
          simp [tget, tget?_cons, Nat.ne_of_gt hlt, h2] at h1
          exact absurd h1 hv
        · exact heq
        · have h1 := h k
          have h2 : tget? r k = none := tget?_none_of_lt (fun e he => Nat.lt_trans hgt ((rising_lt (canon_rising ht)) e he))
          simp [tget, tget?_cons, Nat.ne_of_gt hgt, h2] at h1
          exact absurd h1.symm hw
      subst hjk
      have hvw : v = w := by simpa [tget, tget?_cons] using h j
      subst hvw
      congr 1
      refine ih (canon_iff.mpr ⟨(rising_tail (canon_rising ht)), fun e he => (canon_iff.mp ht).2 e (by simp [he])⟩)
        (canon_iff.mpr ⟨(rising_tail (canon_rising hu)), fun e he => (canon_iff.mp hu).2 e (by simp [he])⟩) (fun i => ?_)
      by_cases hi : j = i
      · subst hi
        simp [tget, tget?_none_of_lt (rising_lt (canon_rising ht)), tget?_none_of_lt (rising_lt (canon_rising hu))]
      · simpa [tget, tget?_cons, hi] using h i

end canon

end Sys2Proof.Machine
end

