-- ==== Sys2Proof/Laws/Keep.lean ====
section
/-! SUPPORT. What every operation keeps: the queue, the identity and the trim rows of the device, the bits burnt in the option store, the canonical
form of the tables, a device state of R58 and a lead that is a furrow. The base is fixed, so that the lemmas chain. -/

namespace Sys2Proof.Machine

/-- Every bit burnt in a is burnt in b. -/
structure Gen.Le (a b : Gen) : Prop where
  rec0 : ∀ i, a.rec0.testBit i = true → b.rec0.testBit i = true
  rec1 : ∀ i, a.rec1.testBit i = true → b.rec1.testBit i = true
  rec2 : ∀ i, a.rec2.testBit i = true → b.rec2.testBit i = true
  row0 : ∀ i, a.row0.testBit i = true → b.row0.testBit i = true
  row1 : ∀ i, a.row1.testBit i = true → b.row1.testBit i = true
  row2 : ∀ i, a.row2.testBit i = true → b.row2.testBit i = true

/-- What a later state keeps of what is fused and burnt in an earlier one. -/
structure NvKept (a b : NonVolatile) : Prop where
  part : b.part = a.part
  serial : b.serial = a.serial
  trimIds : b.trimIds = a.trimIds
  trimCal : b.trimCal = a.trimCal
  burnt : ∀ g, Gen.Le (tget {} a.gens g) (tget {} b.gens g)

/-- The queue and the non-volatile part of an earlier state. -/
structure Base where
  queue : List Instr
  nv : NonVolatile

/-- A state that keeps what the base holds, with its tables canonical, a legal device state and a lead that is a furrow. -/
structure Keeps (b : Base) (s : State) : Prop where
  queue : s.pending = b.queue
  nv : NvKept b.nv s.nv
  shape : State.wf s = true

def ResKeeps (b : Base) : CmdResult → Prop
  | .ok _ s => Keeps b s
  | .final _ _ s => Keeps b s
  | .accepted s => Keeps b s
  | _ => True

def OutKeeps (b : Base) : Host.Outcome State Fault Refusal → Prop
  | .next s => Keeps b s
  | _ => True

/-- An update of the state keeps the same if each component that it changes keeps its form. -/
theorem Keeps.upd {b : Base} {s : State} {dev : Device} {clk : Clocks} {slices : Slices} {mir : Mirror} {sup : Supply} {therm : Thermal} {pcie : Pcie} {opt : Options} {ret : Retained} {cp : CmdProc} {spi : Spi} {rings : Table Ring} {hfr : HostRings} {win : Window} {ev : Events} {jr : Journal} {tim : TimeState} {gpio : Table Gpio} {ports : Table Port} {lanes : Table Lane} {i2c : Table I2c} {mods : Table Module} {bankBit meterInvalid free nextUid : Nat} {swap : Option Swap} {fa fb : FurrowSt} {hl : Headland} {age : AgeCfg} {shadow : Shadow} {flush : List Flush} {memErr corr48 : Table Nat} {frames : Table Frame} {gran : Granary} {meters : Table Meter} {shapers : Table Shaper} {red : Redund} {imgLoad : Option ImgLoad} {gle : Gleaner} {mirrors : Table MirrorCfg} {stook : Stook} {perf : Table Perf} {deep : Deep} {out : List Output}
    (hdev : s.dev.state ≤ 6 → dev.state ≤ 6)
    (hret : Memory.wf s.ret.mem = true ∧ Canon 0 s.ret.backup = true → Memory.wf ret.mem = true ∧ Canon 0 ret.backup = true)
    (hcp : Canon {} s.cp.sessions = true → Canon {} cp.sessions = true)
    (hrings : Canon {} s.rings = true → Canon {} rings = true)
    (hgpio : Canon {} s.gpio = true → Canon {} gpio = true)
    (hports : Canon {} s.ports = true → Canon {} ports = true)
    (hlanes : Canon {} s.lanes = true → Canon {} lanes = true)
    (hi2c : Canon {} s.i2c = true → Canon {} i2c = true)
    (hmods : Canon {} s.mods = true → Canon {} mods = true)
    (hhl : s.hl.stateA ≤ 4 ∧ s.hl.stateB ≤ 4 ∧ s.hl.lead ≤ 1 → hl.stateA ≤ 4 ∧ hl.stateB ≤ 4 ∧ hl.lead ≤ 1)
    (hmemErr : Canon 0 s.memErr = true → Canon 0 memErr = true)
    (hframes : Rising s.frames = true → Rising frames = true)
    (hmeters : Canon {} s.meters = true → Canon {} meters = true)
    (hshapers : Rising s.shapers = true → Rising shapers = true)
    (hmirrors : Canon {} s.mirrors = true → Canon {} mirrors = true)
    (hperf : Canon {} s.perf = true → Canon {} perf = true)
    (h : Keeps b s) : Keeps b (State.mk s.pending dev clk slices mir sup therm pcie s.nv opt ret cp spi rings hfr win ev jr tim gpio ports lanes i2c mods bankBit swap fa fb hl age shadow flush memErr corr48 frames gran meters shapers meterInvalid red imgLoad gle mirrors stook perf deep out free nextUid) := by
  refine ⟨h.queue, h.nv, ?_⟩
  have hs := h.shape
  simp only [State.wf, Bool.and_eq_true, decide_eq_true_eq] at hs ⊢
  obtain ⟨⟨⟨⟨⟨⟨⟨⟨⟨⟨⟨⟨⟨⟨⟨⟨⟨⟨⟨a1, a2⟩, a3⟩, a4⟩, a5⟩, a6⟩, a7⟩, a8⟩, a9⟩, a10⟩, a11⟩, a12⟩, a13⟩, a14⟩, a15⟩, a16⟩, a17⟩, a18⟩, a19⟩, a20⟩ := hs
  simp only [a16, hcp a7, hrings a5, hgpio a6, hports a1, hlanes a2, hi2c a3, hmods a4, hmemErr a8, hframes a12, hmeters a9, hshapers a13, hmirrors a10, hperf a11, hret ⟨a14, a15⟩, hdev a17, hhl ⟨a18, a19, a20⟩, and_self]

/-! ## One component changed -/

section one
variable {b : Base} {s : State} (h : Keeps b s)
include h

theorem Keeps.ports {p} (hp : Canon {} p = true) : Keeps b { s with ports := p } := by
  refine ⟨h.queue, h.nv, ?_⟩
  have hs := h.shape
  simp only [State.wf, Bool.and_eq_true] at hs ⊢
  simp only [hs, hp, and_self]
theorem Keeps.lanes {p} (hp : Canon {} p = true) : Keeps b { s with lanes := p } := by
  refine ⟨h.queue, h.nv, ?_⟩
  have hs := h.shape
  simp only [State.wf, Bool.and_eq_true] at hs ⊢
  simp only [hs, hp, and_self]
theorem Keeps.i2c {p} (hp : Canon {} p = true) : Keeps b { s with i2c := p } := by
  refine ⟨h.queue, h.nv, ?_⟩
  have hs := h.shape
  simp only [State.wf, Bool.and_eq_true] at hs ⊢
  simp only [hs, hp, and_self]
theorem Keeps.mods {p} (hp : Canon {} p = true) : Keeps b { s with mods := p } := by
  refine ⟨h.queue, h.nv, ?_⟩
  have hs := h.shape
  simp only [State.wf, Bool.and_eq_true] at hs ⊢
  simp only [hs, hp, and_self]
theorem Keeps.rings {p} (hp : Canon {} p = true) : Keeps b { s with rings := p } := by
  refine ⟨h.queue, h.nv, ?_⟩
  have hs := h.shape
  simp only [State.wf, Bool.and_eq_true] at hs ⊢
  simp only [hs, hp, and_self]
theorem Keeps.gpio {p} (hp : Canon {} p = true) : Keeps b { s with gpio := p } := by
  refine ⟨h.queue, h.nv, ?_⟩
  have hs := h.shape
  simp only [State.wf, Bool.and_eq_true] at hs ⊢
  simp only [hs, hp, and_self]
theorem Keeps.memErr {p} (hp : Canon 0 p = true) : Keeps b { s with memErr := p } := by
  refine ⟨h.queue, h.nv, ?_⟩
  have hs := h.shape
  simp only [State.wf, Bool.and_eq_true] at hs ⊢
  simp only [hs, hp, and_self]
theorem Keeps.meters {p} (hp : Canon {} p = true) : Keeps b { s with meters := p } := by
  refine ⟨h.queue, h.nv, ?_⟩
  have hs := h.shape
  simp only [State.wf, Bool.and_eq_true] at hs ⊢
  simp only [hs, hp, and_self]
theorem Keeps.mirrors {p} (hp : Canon {} p = true) : Keeps b { s with mirrors := p } := by
  refine ⟨h.queue, h.nv, ?_⟩
  have hs := h.shape
  simp only [State.wf, Bool.and_eq_true] at hs ⊢
  simp only [hs, hp, and_self]
theorem Keeps.perf {p} (hp : Canon {} p = true) : Keeps b { s with perf := p } := by
  refine ⟨h.queue, h.nv, ?_⟩
  have hs := h.shape
  simp only [State.wf, Bool.and_eq_true] at hs ⊢
  simp only [hs, hp, and_self]
theorem Keeps.frames {p} (hp : Rising p = true) : Keeps b { s with frames := p } := by
  refine ⟨h.queue, h.nv, ?_⟩
  have hs := h.shape
  simp only [State.wf, Bool.and_eq_true] at hs ⊢
  simp only [hs, hp, and_self]
theorem Keeps.shapers {p} (hp : Rising p = true) : Keeps b { s with shapers := p } := by
  refine ⟨h.queue, h.nv, ?_⟩
  have hs := h.shape
  simp only [State.wf, Bool.and_eq_true] at hs ⊢
  simp only [hs, hp, and_self]
theorem Keeps.sessions {p} (hp : Canon {} p = true) : Keeps b { s with cp := { s.cp with sessions := p } } := by
  refine ⟨h.queue, h.nv, ?_⟩
  have hs := h.shape
  simp only [State.wf, Bool.and_eq_true] at hs ⊢
  simp only [hs, hp, and_self]
theorem Keeps.mem {p} (hp : Memory.wf p = true) : Keeps b { s with ret := { s.ret with mem := p } } := by
  refine ⟨h.queue, h.nv, ?_⟩
  have hs := h.shape
  simp only [State.wf, Bool.and_eq_true] at hs ⊢
  simp only [hs, hp, and_self]
theorem Keeps.backup {p} (hp : Canon 0 p = true) : Keeps b { s with ret := { s.ret with backup := p } } := by
  refine ⟨h.queue, h.nv, ?_⟩
  have hs := h.shape
  simp only [State.wf, Bool.and_eq_true] at hs ⊢
  simp only [hs, hp, and_self]
theorem Keeps.dev {x : Device} (hx : x.state ≤ 6) : Keeps b { s with dev := x } := by
  refine ⟨h.queue, h.nv, ?_⟩
  have hs := h.shape
  simp only [State.wf, Bool.and_eq_true, decide_eq_true_eq] at hs ⊢
  simp only [hs, hx, and_self]
theorem Keeps.hl {x : Headland} (h1 : x.stateA ≤ 4) (h2 : x.stateB ≤ 4) (h3 : x.lead ≤ 1) : Keeps b { s with hl := x } := by
  refine ⟨h.queue, h.nv, ?_⟩
  have hs := h.shape
  simp only [State.wf, Bool.and_eq_true, decide_eq_true_eq] at hs ⊢
  simp only [hs, h1, h2, h3, and_self]
theorem Keeps.nvWith {x : NonVolatile} (hn : NvKept b.nv x) (hg : Canon {} x.gens = true) : Keeps b { s with nv := x } := by
  refine ⟨h.queue, hn, ?_⟩
  have hs := h.shape
  simp only [State.wf, Bool.and_eq_true, decide_eq_true_eq] at hs ⊢
  simp only [hs, hg, and_self]

/-! ## What a well-formed state gives -/

theorem Keeps.wf_ports : Canon {} s.ports = true := by have := h.shape; simp only [State.wf, Bool.and_eq_true] at this; simp only [this]
theorem Keeps.wf_lanes : Canon {} s.lanes = true := by have := h.shape; simp only [State.wf, Bool.and_eq_true] at this; simp only [this]
theorem Keeps.wf_i2c : Canon {} s.i2c = true := by have := h.shape; simp only [State.wf, Bool.and_eq_true] at this; simp only [this]
theorem Keeps.wf_mods : Canon {} s.mods = true := by have := h.shape; simp only [State.wf, Bool.and_eq_true] at this; simp only [this]
theorem Keeps.wf_rings : Canon {} s.rings = true := by have := h.shape; simp only [State.wf, Bool.and_eq_true] at this; simp only [this]
theorem Keeps.wf_gpio : Canon {} s.gpio = true := by have := h.shape; simp only [State.wf, Bool.and_eq_true] at this; simp only [this]
theorem Keeps.wf_sessions : Canon {} s.cp.sessions = true := by have := h.shape; simp only [State.wf, Bool.and_eq_true] at this; simp only [this]
theorem Keeps.wf_memErr : Canon 0 s.memErr = true := by have := h.shape; simp only [State.wf, Bool.and_eq_true] at this; simp only [this]
theorem Keeps.wf_meters : Canon {} s.meters = true := by have := h.shape; simp only [State.wf, Bool.and_eq_true] at this; simp only [this]
theorem Keeps.wf_mirrors : Canon {} s.mirrors = true := by have := h.shape; simp only [State.wf, Bool.and_eq_true] at this; simp only [this]
theorem Keeps.wf_perf : Canon {} s.perf = true := by have := h.shape; simp only [State.wf, Bool.and_eq_true] at this; simp only [this]
theorem Keeps.wf_frames : Rising s.frames = true := by have := h.shape; simp only [State.wf, Bool.and_eq_true] at this; simp only [this]
theorem Keeps.wf_shapers : Rising s.shapers = true := by have := h.shape; simp only [State.wf, Bool.and_eq_true] at this; simp only [this]
theorem Keeps.wf_mem : Memory.wf s.ret.mem = true := by have := h.shape; simp only [State.wf, Bool.and_eq_true] at this; simp only [this]
theorem Keeps.wf_backup : Canon 0 s.ret.backup = true := by have := h.shape; simp only [State.wf, Bool.and_eq_true] at this; simp only [this]
theorem Keeps.wf_gens : Canon {} s.nv.gens = true := by have := h.shape; simp only [State.wf, Bool.and_eq_true] at this; simp only [this]
theorem Keeps.wf_mode : s.dev.state ≤ 6 := by have := h.shape; simp only [State.wf, Bool.and_eq_true, decide_eq_true_eq] at this; simp only [this]
theorem Keeps.wf_stateA : s.hl.stateA ≤ 4 := by have := h.shape; simp only [State.wf, Bool.and_eq_true, decide_eq_true_eq] at this; simp only [this]
theorem Keeps.wf_stateB : s.hl.stateB ≤ 4 := by have := h.shape; simp only [State.wf, Bool.and_eq_true, decide_eq_true_eq] at this; simp only [this]
theorem Keeps.wf_lead : s.hl.lead ≤ 1 := by have := h.shape; simp only [State.wf, Bool.and_eq_true, decide_eq_true_eq] at this; simp only [this]
end one

/-! ## How the lemmas chain -/

theorem keeps_foldl {α : Type} {b : Base} {f : State → α → State} {l : List α} {s : State} (hf : ∀ t x, Keeps b t → Keeps b (f t x))
    (h : Keeps b s) : Keeps b (l.foldl f s) := by
  induction l generalizing s with
  | nil => exact h
  | cons x r ih => exact ih (hf s x h)

theorem keeps_foldl_snd {α β : Type} {b : Base} {f : β × State → α → β × State} {l : List α} {p : β × State} (hf : ∀ q x, Keeps b q.2 → Keeps b (f q x).2)
    (h : Keeps b p.2) : Keeps b (l.foldl f p).2 := by
  induction l generalizing p with
  | nil => exact h
  | cons x r ih => exact ih (hf p x h)

theorem keeps_snd {α : Type} {b : Base} {p : α × State} {a : α} {s : State} (hp : p = (a, s)) (h : Keeps b p.2) : Keeps b s := by
  rw [hp] at h; exact h

theorem keeps_thd {α β : Type} {b : Base} {p : α × β × State} {a : α} {c : β} {s : State} (hp : p = (a, c, s)) (h : Keeps b p.2.2) : Keeps b s := by
  rw [hp] at h; exact h

theorem keeps_ite {b : Base} {c : Prop} [Decidable c] {s t : State} (h : Keeps b s) (k : Keeps b t) : Keeps b (if c then s else t) := by
  split <;> assumption
theorem keeps_ite_snd {α : Type} {b : Base} {c : Prop} [Decidable c] {p q : α × State} (h : Keeps b p.2) (k : Keeps b q.2) :
    Keeps b (if c then p else q).2 := by split <;> assumption
theorem keeps_ite_thd {α β : Type} {b : Base} {c : Prop} [Decidable c] {p q : α × β × State} (h : Keeps b p.2.2) (k : Keeps b q.2.2) :
    Keeps b (if c then p else q).2.2 := by split <;> assumption
theorem resKeeps_ite {b : Base} {c : Prop} [Decidable c] {p q : CmdResult} (h : ResKeeps b p) (k : ResKeeps b q) :
    ResKeeps b (if c then p else q) := by split <;> assumption
theorem outKeeps_ite {b : Base} {c : Prop} [Decidable c] {p q : Host.Outcome State Fault Refusal} (h : OutKeeps b p) (k : OutKeeps b q) :
    OutKeeps b (if c then p else q) := by split <;> assumption
theorem resKeeps_ok {b : Base} {r : List Byte} {s : State} (h : Keeps b s) : ResKeeps b (.ok r s) := h
theorem resKeeps_final {b : Base} {n : Nat} {r : List Byte} {s : State} (h : Keeps b s) : ResKeeps b (.final n r s) := h
theorem resKeeps_accepted {b : Base} {s : State} (h : Keeps b s) : ResKeeps b (.accepted s) := h
theorem outKeeps_next {b : Base} {s : State} (h : Keeps b s) : OutKeeps b (.next s) := h

/-- What an uncorrectable sheaf does to the table of a command keeps the same. -/
def SpecKeeps (b : Base) (c : CmdSpec) : Prop := ∀ g, c.upsetAct = some g → ∀ t, Keeps b t → Keeps b (g t)

/-- An update of Headland that leaves the lead and the furrows' states. -/
def HlSame (g : Headland → Headland) : Prop := ∀ x, (g x).lead = x.lead ∧ (g x).stateA = x.stateA ∧ (g x).stateB = x.stateB

theorem specKeeps_none {b : Base} {c : CmdSpec} (h : c.upsetAct = none) : SpecKeeps b c := fun g hg => by rw [h] at hg; cases hg
theorem specKeeps_some {b : Base} {c : CmdSpec} {f : State → State} (h : c.upsetAct = some f) (hf : ∀ t, Keeps b t → Keeps b (f t)) :
    SpecKeeps b c := fun g hg => by rw [h] at hg; cases hg; exact hf

/-! ## The retained memory and the option store -/

theorem mem_tset {α : Type} [DecidableEq α] {d : α} {t : Table α} {k : Nat} {v : α} {e : Nat × α} (h : e ∈ tset d t k v) : e.1 = k ∨ e ∈ t := by
  unfold tset at h
  split at h
  · exact .inr (mem_tdel h)
  · rcases mem_tput h with rfl | h
    · exact .inl rfl
    · exact .inr h

/-- Bytes put below the end keep the form of the memory. -/
theorem memory_putBytes {t : Table Byte} {a : Nat} {l : List Byte} (hl : l.length ≤ 8192 - a) (h : Memory.wf t = true) :
    Memory.wf (putBytes t a l) = true := by
  induction l generalizing t a with
  | nil => exact h
  | cons x r ih =>
    simp only [List.length_cons] at hl
    refine ih (by omega) ?_
    simp only [Memory.wf, Bool.and_eq_true, List.all_eq_true, decide_eq_true_eq] at h ⊢
    refine ⟨canon_tset _ _ h.1, fun e he => ?_⟩
    rcases mem_tset he with h1 | h1
    · omega
    · exact h.2 e h1

theorem canon_foldl {α β : Type} [DecidableEq α] {d : α} {f : Table α → β → Table α} {l : List β} {t : Table α}
    (hf : ∀ u x, Canon d u = true → Canon d (f u x) = true) (h : Canon d t = true) : Canon d (l.foldl f t) = true := by
  induction l generalizing t with
  | nil => exact h
  | cons x r ih => exact ih (hf t x h)

theorem Gen.Le.refl (a : Gen) : Gen.Le a a := ⟨fun _ h => h, fun _ h => h, fun _ h => h, fun _ h => h, fun _ h => h, fun _ h => h⟩
theorem Gen.Le.trans {a b c : Gen} (h : Gen.Le a b) (k : Gen.Le b c) : Gen.Le a c :=
  ⟨fun i x => k.rec0 i (h.rec0 i x), fun i x => k.rec1 i (h.rec1 i x), fun i x => k.rec2 i (h.rec2 i x), fun i x => k.row0 i (h.row0 i x),
    fun i x => k.row1 i (h.row1 i x), fun i x => k.row2 i (h.row2 i x)⟩

theorem NvKept.refl (a : NonVolatile) : NvKept a a := ⟨rfl, rfl, rfl, rfl, fun _ => Gen.Le.refl _⟩

theorem testBit_or_left {a b i : Nat} (h : a.testBit i = true) : (a ||| b).testBit i = true := by
  rw [Nat.testBit_or, h, Bool.true_or]

theorem burnCopies_le (k part : Nat) (b : Burn) (g : Gen) : Gen.Le g (burnCopies k part b g) := by
  unfold burnCopies
  constructor <;> intro i hi <;> dsimp only <;> repeat' split
  all_goals first | exact hi | exact testBit_or_left hi

/-- A burn changes one generation, which keeps its bits. -/
theorem NvKept.burn {a : NonVolatile} {x : NonVolatile} {b : Option Burn} {k : Nat} {g : Gen} (h : NvKept a x) (hc : Canon {} x.gens = true)
    (hg : Gen.Le (tget {} x.gens k) g) : NvKept a { x with gens := tset {} x.gens k g, burn := b } := by
  refine ⟨h.part, h.serial, h.trimIds, h.trimCal, fun i => (h.burnt i).trans ?_⟩
  show Gen.Le _ (tget {} (tset {} x.gens k g) i)
  rw [tget_tset _ (canon_rising hc)]
  split
  · rename_i hk; subst hk; exact hg
  · exact Gen.Le.refl _

theorem cutGen_le (k part : Nat) (b : Burn) (g : Gen) : Gen.Le g (cutGen k part b g) := by
  unfold cutGen
  split <;> exact burnCopies_le _ _ _ _

theorem NvKept.cut {a x : NonVolatile} (k part : Nat) (h : NvKept a x) (hc : Canon {} x.gens = true) : NvKept a (cutBurn k part x) := by
  unfold cutBurn
  split
  · exact h
  · exact h.burn hc (cutGen_le _ _ _ _)

theorem canon_cutBurn {x : NonVolatile} (k part : Nat) (hc : Canon {} x.gens = true) : Canon {} (cutBurn k part x).gens = true := by
  unfold cutBurn
  split
  · exact hc
  · exact canon_tmod _ _ hc

end Sys2Proof.Machine
end

