-- ==== Sys2Proof/Laws/KeepOps.lean ====
section
/-! SUPPORT. What the operations of Machine/Ops.lean keep. -/

namespace Sys2Proof.Machine

theorem advance_keeps (n : Nat) (s : State) {b0 : Base} (hs : Keeps b0 s) : Keeps b0 (advance n s) := by
  unfold advance
  repeat' (first
      | with_reducible assumption | with_reducible apply keeps_ite
      | (fail_if_no_progress refine Keeps.upd id id id id id id id id id id id id id id id id ?_))

theorem reachEdge_keeps (e : Nat) (s : State) {b0 : Base} (hs : Keeps b0 s) : Keeps b0 (reachEdge e s) := by
  unfold reachEdge
  repeat' (first | with_reducible assumption | with_reducible apply advance_keeps)

theorem reachNs_keeps (ns : Nat) (s : State) {b0 : Base} (hs : Keeps b0 s) : Keeps b0 (reachNs ns s) := by
  unfold reachNs
  repeat' (first | with_reducible assumption | with_reducible apply advance_keeps | with_reducible apply keeps_ite)

theorem ptpLose_keeps (n : Nat) (s : State) {b0 : Base} (hs : Keeps b0 s) : Keeps b0 (ptpLose n s) := by
  unfold ptpLose
  repeat' (first | with_reducible assumption | (fail_if_no_progress refine Keeps.upd id id id id id id id id id id id id id id id id ?_))

theorem modPort_keeps (p : Nat) (f : Port → Port) (s : State) {b0 : Base} (hs : Keeps b0 s) : Keeps b0 (modPort p f s) := hs.ports (canon_tmod _ _ hs.wf_ports)

theorem modLane_keeps (m : Nat) (f : Lane → Lane) (s : State) {b0 : Base} (hs : Keeps b0 s) : Keeps b0 (modLane m f s) := hs.lanes (canon_tmod _ _ hs.wf_lanes)

theorem modMaster_keeps (k : Nat) (f : I2c → I2c) (s : State) {b0 : Base} (hs : Keeps b0 s) : Keeps b0 (modMaster k f s) := hs.i2c (canon_tmod _ _ hs.wf_i2c)

theorem modModule_keeps (m : Nat) (f : Module → Module) (s : State) {b0 : Base} (hs : Keeps b0 s) : Keeps b0 (modModule m f s) := hs.mods (canon_tmod _ _ hs.wf_mods)

theorem modRing_keeps (k : Nat) (f : Ring → Ring) (s : State) {b0 : Base} (hs : Keeps b0 s) : Keeps b0 (modRing k f s) := hs.rings (canon_tmod _ _ hs.wf_rings)

theorem modGpio_keeps (n : Nat) (f : Gpio → Gpio) (s : State) {b0 : Base} (hs : Keeps b0 s) : Keeps b0 (modGpio n f s) := hs.gpio (canon_tmod _ _ hs.wf_gpio)

theorem modFur_keeps (f : Nat) (g : FurrowSt → FurrowSt) (s : State) {b0 : Base} (hs : Keeps b0 s) : Keeps b0 (modFur f g s) := by
  unfold modFur
  repeat' (first
      | with_reducible assumption | with_reducible apply keeps_ite
      | (fail_if_no_progress refine Keeps.upd id id id id id id id id id id id id id id id id ?_))

theorem perfF_keeps (f k n : Nat) (s : State) {b0 : Base} (hs : Keeps b0 s) : Keeps b0 (perfF f k n s) := by
  unfold perfF
  repeat' (first | with_reducible assumption | with_reducible apply modFur_keeps)

theorem perfRestart_keeps (f : Nat) (s : State) {b0 : Base} (hs : Keeps b0 s) : Keeps b0 (perfRestart f s) :=
  Keeps.upd id id id id id id id id id id id id id id id (canon_foldl (fun _ _ h => canon_tmod _ _ h)) hs

theorem setFurState_keeps (f c : Nat) (s : State) {b0 : Base} (hs : Keeps b0 s) (hc : c ≤ 4) : Keeps b0 (setFurState f c s) := by
  unfold setFurState
  split
  · exact hs.hl hc hs.wf_stateB hs.wf_lead
  · exact hs.hl hs.wf_stateA hc hs.wf_lead

theorem eachFur_keeps (g : FurrowSt → FurrowSt) (s : State) {b0 : Base} (hs : Keeps b0 s) : Keeps b0 (eachFur g s) := by
  unfold eachFur
  try dsimp only
  repeat' (first | with_reducible assumption | with_reducible apply modFur_keeps | with_reducible apply keeps_ite)

theorem emitOut_keeps (o : Output) (s : State) {b0 : Base} (hs : Keeps b0 s) : Keeps b0 (emitOut o s) := by
  unfold emitOut
  repeat' (first
      | with_reducible assumption | with_reducible apply keeps_ite
      | (fail_if_no_progress refine Keeps.upd id id id id id id id id id id id id id id id id ?_))

theorem takeFree_keeps (w : Nat) (s : State) {b0 : Base} (hs : Keeps b0 s) : Keeps b0 (takeFree w s).2 := by
  unfold takeFree
  repeat' (first
      | with_reducible assumption | (fail_if_no_progress refine Keeps.upd id id id id id id id id id id id id id id id id ?_))

theorem sendVec_keeps (v : Nat) (s : State) {b0 : Base} (hs : Keeps b0 s) : Keeps b0 (sendVec v s) := by
  unfold sendVec
  repeat' (first
      | with_reducible assumption | with_reducible apply emitOut_keeps
      | (fail_if_no_progress refine Keeps.upd id id id id id id id id id id id id id id id id ?_))

theorem signalVec_keeps (v : Nat) (s : State) {b0 : Base} (hs : Keeps b0 s) : Keeps b0 (signalVec v s) := by
  unfold signalVec
  repeat' (first
      | with_reducible assumption | with_reducible apply sendVec_keeps | with_reducible apply keeps_ite
      | (fail_if_no_progress refine Keeps.upd id id id id id id id id id id id id id id id id ?_))

theorem signalPending_keeps (s : State) {b0 : Base} (hs : Keeps b0 s) : Keeps b0 (signalPending s) := by
  unfold signalPending
  try dsimp only
  repeat' (first
      | with_reducible assumption | with_reducible apply signalVec_keeps | with_reducible apply keeps_foldl | with_reducible apply keeps_foldl_snd
      | with_reducible apply keeps_ite | (intro _; intros))

theorem settleLoss_keeps (s : State) {b0 : Base} (hs : Keeps b0 s) : Keeps b0 (settleLoss s) := by
  unfold settleLoss
  repeat' (first
      | with_reducible assumption | with_reducible apply keeps_ite | split
      | (fail_if_no_progress refine Keeps.upd id id id id id id id id id id id id id id id id ?_))

theorem jRecord_keeps (stamp qns src cause sup : Nat) (payload : List Byte) (s0 : State) {b0 : Base} (hs0 : Keeps b0 s0) : Keeps b0 (jRecord stamp qns src cause sup payload s0) := by
  unfold jRecord
  repeat' (first
      | with_reducible assumption | with_reducible apply settleLoss_keeps | with_reducible apply keeps_ite | split
      | (fail_if_no_progress refine Keeps.upd id id id id id id id id id id id id id id id id ?_))

theorem fireStamp_keeps (stamp : Nat) (qns : Nat) (src : Nat) (cause : Nat) (payload : List Byte) (s : State) {b0 : Base} (hs : Keeps b0 s) : Keeps b0 (fireStamp stamp qns src cause payload s) := by
  unfold fireStamp
  try dsimp only
  repeat' (first
      | with_reducible assumption | with_reducible apply signalVec_keeps | with_reducible apply jRecord_keeps | with_reducible apply keeps_ite
      | (fail_if_no_progress refine Keeps.upd id id id id id id id id id id id id id id id id ?_))

theorem fire_keeps (src cause : Nat) (payload : List Byte) (s : State) {b0 : Base} (hs : Keeps b0 s) : Keeps b0 (fire src cause payload s) := by
  unfold fire
  repeat' (first | with_reducible assumption | with_reducible apply fireStamp_keeps)

theorem fireFur_keeps (f : Nat) (src : Nat) (cause : Nat) (payload : List Byte) (s : State) {b0 : Base} (hs : Keeps b0 s) : Keeps b0 (fireFur f src cause payload s) := by
  unfold fireFur
  repeat' (first | with_reducible assumption | with_reducible apply fireStamp_keeps | with_reducible apply keeps_ite | split)

theorem fireLim_keeps (interval sub : Nat) (go : State → State) (src : Nat) (s : State) {b0 : Base} (hgo : ∀ (t0 : State), Keeps b0 t0 → Keeps b0 (go t0)) (hs : Keeps b0 s) : Keeps b0 (fireLim interval sub go src s) := by
  unfold fireLim
  repeat' (first
      | with_reducible assumption | with_reducible apply hgo | with_reducible apply keeps_ite
      | (fail_if_no_progress refine Keeps.upd id id id id id id id id id id id id id id id id ?_))

theorem fireMs_keeps (sub src cause : Nat) (payload : List Byte) (s : State) {b0 : Base} (hs : Keeps b0 s) : Keeps b0 (fireMs sub src cause payload s) := by
  unfold fireMs
  repeat' (first | with_reducible assumption | with_reducible apply fireLim_keeps | with_reducible apply fire_keeps | (intro _; intros))

theorem fireFurMs_keeps (f src cause : Nat) (payload : List Byte) (s : State) {b0 : Base} (hs : Keeps b0 s) : Keeps b0 (fireFurMs f src cause payload s) := by
  unfold fireFurMs
  exact keeps_ite hs (fireLim_keeps _ _ _ _ _ (fun _ h => fireFur_keeps _ _ _ _ _ h) hs)

theorem raiseAlarm_keeps (f b : Nat) (s : State) {b0 : Base} (hs : Keeps b0 s) : Keeps b0 (raiseAlarm f b s) := by
  unfold raiseAlarm
  repeat' (first
      | with_reducible assumption | with_reducible apply keeps_ite
      | (fail_if_no_progress refine Keeps.upd id id id id id id id id id id id id id id id id ?_))

theorem memCorr_keeps (m : Nat) (s : State) {b0 : Base} (hs : Keeps b0 s) : Keeps b0 (memCorr m s) :=
  Keeps.upd id id id id id id id id id id (canon_tset _ _) id id id id id hs

theorem memUnc_keeps (m : Nat) (s : State) {b0 : Base} (hs : Keeps b0 s) : Keeps b0 (memUnc m s) := hs.memErr (canon_tset _ _ hs.wf_memErr)

theorem readBelow_keeps (lim : Nat) (v : Nat) (s : State) {b0 : Base} (hs : Keeps b0 s) : Keeps b0 (readBelow lim v s).2 := by
  unfold readBelow
  repeat' (first
      | with_reducible assumption | with_reducible apply memCorr_keeps | with_reducible apply keeps_ite | with_reducible apply keeps_ite_snd
      | (refine keeps_snd (by assumption) ?_))

theorem readWord_keeps (v : Nat) (s : State) {b0 : Base} (hs : Keeps b0 s) : Keeps b0 (readWord v s).2 := by
  unfold readWord
  repeat' (first
      | with_reducible assumption | with_reducible apply memCorr_keeps | with_reducible apply readBelow_keeps | with_reducible apply keeps_ite_snd
      | split)

theorem touchClock_keeps (k : Nat) (s : State) {b0 : Base} (hs : Keeps b0 s) : Keeps b0 (touchClock k s) := by
  unfold touchClock
  repeat' (first
      | with_reducible assumption | split | (fail_if_no_progress refine Keeps.upd id id id id id id id id id id id id id id id id ?_))

theorem touchPort_keeps (p : Nat) (all : Bool) (s : State) {b0 : Base} (hs : Keeps b0 s) : Keeps b0 (touchPort p all s) := by
  unfold touchPort
  repeat' (first | with_reducible assumption | with_reducible apply touchClock_keeps | with_reducible apply keeps_ite)

theorem touchPorts_keeps (l : List Nat) (s : State) {b0 : Base} (hs : Keeps b0 s) : Keeps b0 (touchPorts l s) := by
  unfold touchPorts
  repeat' (first
      | with_reducible assumption | with_reducible apply touchPort_keeps | with_reducible apply keeps_foldl
      | with_reducible apply keeps_foldl_snd | (intro _; intros))

theorem startCore_keeps (f : Nat) (s : State) {b0 : Base} (hs : Keeps b0 s) : Keeps b0 (startCore f s) := by
  unfold startCore
  repeat' (first
      | with_reducible assumption | with_reducible apply modFur_keeps | with_reducible apply keeps_ite
      | (fail_if_no_progress refine Keeps.upd id id id id id id id id id id id id id id id id ?_))

theorem coreIdle_keeps (f : Nat) (s : State) {b0 : Base} (hs : Keeps b0 s) : Keeps b0 (coreIdle f s) := by
  unfold coreIdle
  repeat' (first
      | with_reducible assumption | with_reducible apply keeps_ite | split
      | (fail_if_no_progress refine Keeps.upd id id id id id id id id id id id id id id id id ?_))

end Sys2Proof.Machine
end

