-- ==== Sys2Proof/Laws/KeepHarrowParse.lean ====
section
/-! SUPPORT. What the operations of Machine/HarrowParse.lean keep. -/

namespace Sys2Proof.Machine

end Sys2Proof.Machine
end

