-- ==== Sys2Proof/Laws/KeepWcp.lean ====
section
/-! SUPPORT. What the operations of Machine/Wcp.lean keep. -/

namespace Sys2Proof.Machine

theorem drainRing_keeps (k : Nat) (z0 : Nat) (z1 : State) {b0 : Base} (hz1 : Keeps b0 z1) : Keeps b0 (drainRing k z0 z1) := by
  fun_induction drainRing k z0 z1 <;> (try dsimp only) <;> repeat' (first
      | with_reducible assumption | with_reducible apply signalVec_keeps | with_reducible apply modRing_keeps
      | with_reducible apply emitOut_keeps | apply_assumption)

theorem sendPacket_keeps (dst : Endpoint) (vlan : Option Nat) (b : List Byte) (s : State) {b0 : Base} (hs : Keeps b0 s) : Keeps b0 (sendPacket dst vlan b s) := by
  unfold sendPacket
  try dsimp only
  repeat' (first
      | with_reducible assumption | with_reducible apply drainRing_keeps | with_reducible apply modRing_keeps | with_reducible apply emitOut_keeps
      | with_reducible apply keeps_ite | split | (intro _; intros)
      | (fail_if_no_progress refine Keeps.upd id id id id id id id id id id id id id id id id ?_))

theorem sendPackets_keeps (dst : Endpoint) (vlan : Option Nat) (z0 : List (List Byte)) (z1 : State) {b0 : Base} (hz1 : Keeps b0 z1) : Keeps b0 (sendPackets dst vlan z0 z1) := by
  fun_induction sendPackets dst vlan z0 z1 <;> (try dsimp only) <;> repeat' (first | with_reducible assumption | with_reducible apply sendPacket_keeps | apply_assumption)

theorem modSession_keeps (slot : Nat) (f : Session → Session) (s : State) {b0 : Base} (hs : Keeps b0 s) : Keeps b0 (modSession slot f s) := hs.sessions (canon_tmod _ _ hs.wf_sessions)

theorem keepReply_keeps (t : Ticket) (b : List (List Byte)) (s : State) {b0 : Base} (hs : Keeps b0 s) : Keeps b0 (keepReply t b s) := by
  unfold keepReply
  repeat' (first | with_reducible assumption | with_reducible apply modSession_keeps | split)

theorem respond_keeps (t : Ticket) (flags status detail : Nat) (params : List Byte) (s : State) {b0 : Base} (hs : Keeps b0 s) : Keeps b0 (respond t flags status detail params s) := by
  unfold respond
  repeat' (first
      | with_reducible assumption | with_reducible apply sendPackets_keeps | with_reducible apply keepReply_keeps
      | with_reducible apply keeps_ite)

theorem complete_keeps (t : Ticket) (status : Nat) (params : List Byte) (s : State) {b0 : Base} (hs : Keeps b0 s) : Keeps b0 (complete t status params s) := by
  unfold complete
  try dsimp only
  repeat' (first
      | with_reducible assumption | with_reducible apply modSession_keeps | with_reducible apply respond_keeps | with_reducible apply keeps_ite
      | (intro _; intros) | (fail_if_no_progress refine Keeps.upd id id id id id id id id id id id id id id id id ?_))

theorem endLoad_keeps (ident : Nat) (s : State) {b0 : Base} (hs : Keeps b0 s) : Keeps b0 (endLoad ident s) := by
  unfold endLoad
  refine Keeps.upd id id id id id id id id id id id id id id id id hs

theorem closeSession_keeps (slot : Nat) (s : State) {b0 : Base} (hs : Keeps b0 s) : Keeps b0 (closeSession slot s) := by
  unfold closeSession
  apply endLoad_keeps
  refine Keeps.upd id id (fun h => by dsimp only; exact canon_tmod _ _ h) (fun h => ?_) id id id id id id id id id id id id hs
  split
  · exact canon_tmod _ _ h
  · exact h

theorem settleClosing_keeps (slot : Nat) (s : State) {b0 : Base} (hs : Keeps b0 s) : Keeps b0 (settleClosing slot s) := by
  unfold settleClosing
  try dsimp only
  repeat' (first | with_reducible assumption | with_reducible apply closeSession_keeps | with_reducible apply keeps_ite | split)

theorem settleClosings_keeps (s : State) {b0 : Base} (hs : Keeps b0 s) : Keeps b0 (settleClosings s) := by
  unfold settleClosings
  repeat' (first
      | with_reducible assumption | with_reducible apply settleClosing_keeps | with_reducible apply keeps_foldl
      | with_reducible apply keeps_foldl_snd | (intro _; intros))

theorem touchSession_keeps (p : Packet) (s : State) {b0 : Base} (hs : Keeps b0 s) : Keeps b0 (touchSession p s) := by
  unfold touchSession
  repeat' (first | with_reducible assumption | with_reducible apply modSession_keeps | with_reducible apply keeps_ite)

theorem finish_keeps (c : CmdSpec) (p : Packet) (r : CmdResult) (s : State) {b0 : Base} (hc : SpecKeeps b0 c) (hr : ResKeeps b0 r) (hs : Keeps b0 s) : Keeps b0 (finish c p r s) := by
  have say : ∀ n st d x, Keeps b0 x → Keeps b0 (respond (ticketFor c p) n st d [] x) := fun n st d x h => respond_keeps _ _ _ _ _ _ h
  have up : Keeps b0 ((c.upsetAct.getD id) s) := by
    cases h : c.upsetAct with
    | none => exact hs
    | some g => exact hc g h s hs
  cases r with
  | badParam off => unfold finish; exact say _ _ _ _ hs
  | refuse st d => unfold finish; dsimp only; split; exacts [say _ _ _ _ hs, by split <;> exact say _ _ _ _ hs]
  | conflict => unfold finish; dsimp only; split; exacts [say _ _ _ _ hs, by split <;> exact say _ _ _ _ hs]
  | ok reply t =>
    unfold finish; dsimp only; split; exact say _ _ _ _ hs
    split; exact say _ _ _ _ up
    split; exact respond_keeps _ _ _ _ _ _ hr
    split; exacts [say _ _ _ _ hs, respond_keeps _ _ _ _ _ _ hr]
  | final st reply t =>
    unfold finish; dsimp only; split; exact say _ _ _ _ hs
    split; exacts [say _ _ _ _ up, respond_keeps _ _ _ _ _ _ hr]
  | accepted t =>
    unfold finish; dsimp only; split; exact say _ _ _ _ hs
    split; exacts [say _ _ _ _ up, respond_keeps _ _ _ _ _ _ (modSession_keeps _ _ _ hr)]

theorem corrected_keeps (p : Packet) (s : State) {b0 : Base} (hs : Keeps b0 s) : Keeps b0 (corrected p s) := by
  unfold corrected
  repeat' (first
      | with_reducible assumption | with_reducible apply memCorr_keeps | with_reducible apply keeps_foldl | with_reducible apply keeps_foldl_snd
      | (intro _; intros))

theorem withCorrected_keeps (p : Packet) (z0 : CmdResult) {b0 : Base} (hz0 : ResKeeps b0 z0) : ResKeeps b0 (withCorrected p z0) := by
  unfold withCorrected
  repeat' (first
      | with_reducible assumption | with_reducible apply corrected_keeps | with_reducible apply resKeeps_ok | with_reducible apply resKeeps_final
      | with_reducible apply resKeeps_accepted | (fail_if_no_progress unfold checked) | trivial | split)

theorem execute_keeps (c : CmdSpec) (chk8 : Packet → Session → State → Option (Nat × Nat)) (body : Packet → State → CmdResult) (p : Packet) (s : State) {b0 : Base} (hc : SpecKeeps b0 c) (hbody : ∀ (t0 : Packet) (t1 : State), Keeps b0 t1 → ResKeeps b0 (body t0 t1)) (hs : Keeps b0 s) : Keeps b0 (execute c chk8 body p s) := by
  unfold execute
  repeat' (first
      | with_reducible assumption | with_reducible apply respond_keeps | with_reducible apply finish_keeps | with_reducible apply hbody
      | with_reducible apply corrected_keeps | with_reducible apply withCorrected_keeps | with_reducible apply keeps_ite | split)

theorem resend_keeps (p : Packet) (k : KeptReply) (s : State) {b0 : Base} (hs : Keeps b0 s) : Keeps b0 (resend p k s) := by
  unfold resend
  try dsimp only
  repeat' (first
      | with_reducible assumption | (intro _; intros) | split
      | (fail_if_no_progress refine Keeps.upd id id id id id id id id id id id id id id id id ?_))

theorem dropPacket_keeps (s : State) {b0 : Base} (hs : Keeps b0 s) : Keeps b0 (dropPacket s) := by
  unfold dropPacket
  repeat' (first | with_reducible assumption | (fail_if_no_progress refine Keeps.upd id id id id id id id id id id id id id id id id ?_))

theorem queuePacket_keeps (p : Packet) (s : State) {b0 : Base} (hs : Keeps b0 s) : Keeps b0 (queuePacket p s) := by
  unfold queuePacket
  repeat' (first
      | with_reducible assumption | with_reducible apply keeps_ite
      | (fail_if_no_progress refine Keeps.upd id id id id id id id id id id id id id id id id ?_))

theorem frontEnd_keeps (c : CmdSpec) (p : Packet) (s0 : State) (pass : State → State) {b0 : Base} (hc : SpecKeeps b0 c) (hs0 : Keeps b0 s0) (hpass : ∀ (t0 : State), Keeps b0 t0 → Keeps b0 (pass t0)) : Keeps b0 (frontEnd c p s0 pass) := by
  unfold frontEnd
  try dsimp only
  repeat' (first
      | with_reducible assumption | with_reducible apply hpass | with_reducible apply dropPacket_keeps | with_reducible apply touchSession_keeps
      | with_reducible apply resend_keeps | with_reducible apply queuePacket_keeps | with_reducible apply respond_keeps
      | with_reducible apply keeps_ite | split)

theorem serve_keeps (c : CmdSpec) (chk8 : Packet → Session → State → Option (Nat × Nat)) (body : Packet → State → CmdResult) (p0 : Packet) (s0 : State) {b0 : Base} (hc : SpecKeeps b0 c) (hbody : ∀ (t0 : Packet) (t1 : State), Keeps b0 t1 → ResKeeps b0 (body t0 t1)) (hs0 : Keeps b0 s0) : Keeps b0 (serve c chk8 body p0 s0) := by
  unfold serve
  try dsimp only
  repeat' (first
      | with_reducible assumption | with_reducible apply touchSession_keeps | with_reducible apply queuePacket_keeps
      | with_reducible apply sendPackets_keeps | with_reducible apply respond_keeps | with_reducible apply execute_keeps
      | with_reducible apply frontEnd_keeps | with_reducible apply keeps_ite | split | with_reducible apply hbody | (intro _; intros)
      | (fail_if_no_progress refine Keeps.upd id id id id id id id id id id id id id id id id ?_))

theorem unlessRetrain_keeps (body : Packet → State → CmdResult) (p : Packet) (s : State) {b0 : Base} (hbody : ∀ (t0 : Packet) (t1 : State), Keeps b0 t1 → ResKeeps b0 (body t0 t1)) (hs : Keeps b0 s) : ResKeeps b0 (unlessRetrain body p s) := by
  unfold unlessRetrain
  repeat' (first | with_reducible assumption | exact trivial | with_reducible apply hbody | with_reducible apply resKeeps_ite | split)

theorem serveCmd_keeps (c : CmdSpec) (body : Packet → State → CmdResult) (p : Packet) (s : State) {b0 : Base} (hc : SpecKeeps b0 c) (hbody : ∀ (t0 : Packet) (t1 : State), Keeps b0 t1 → ResKeeps b0 (body t0 t1)) (hs : Keeps b0 s) : OutKeeps b0 (serveCmd c body p s) := by
  unfold serveCmd
  repeat' (first | with_reducible assumption | with_reducible apply serve_keeps | with_reducible apply outKeeps_next)

theorem checked_keeps (l : List (Bool × Nat)) (k : CmdResult) {b0 : Base} (hk : ResKeeps b0 k) : ResKeeps b0 (checked l k) := by
  unfold checked
  split
  · trivial
  · exact hk

theorem unlessUpset_keeps (p : Packet) (act : State → State) (s : State) (k : CmdResult) {b0 : Base} (hact : ∀ (t0 : State), Keeps b0 t0 → Keeps b0 (act t0)) (hk : ResKeeps b0 k) (hs : Keeps b0 s) : ResKeeps b0 (unlessUpset p act s k) := by
  unfold unlessUpset
  repeat' (first
      | with_reducible assumption | with_reducible apply resKeeps_final | with_reducible apply hact | with_reducible apply resKeeps_ite)

end Sys2Proof.Machine
end

