-- ==== Sys2Proof/Laws/KeepTables.lean ====
section
/-! SUPPORT. What the operations of Machine/Tables.lean keep. -/

namespace Sys2Proof.Machine

theorem modTab_keeps (f : Nat) (g : Tables → Tables) (s : State) {b0 : Base} (hs : Keeps b0 s) : Keeps b0 (modTab f g s) := by
  unfold modTab
  repeat' (first | with_reducible assumption | with_reducible apply modFur_keeps)

theorem eachTab_keeps (g : Tables → Tables) (s : State) {b0 : Base} (hs : Keeps b0 s) : Keeps b0 (eachTab g s) := by
  unfold eachTab
  repeat' (first | with_reducible assumption | with_reducible apply eachFur_keeps)

theorem ovfWatch_keeps (f : Nat) (s : State) {b0 : Base} (hs : Keeps b0 s) : Keeps b0 (ovfWatch f s) := by
  unfold ovfWatch
  repeat' (first
      | with_reducible assumption | with_reducible apply fireFur_keeps | with_reducible apply modTab_keeps | with_reducible apply keeps_ite)

theorem ovfWatchBoth_keeps (s : State) {b0 : Base} (hs : Keeps b0 s) : Keeps b0 (ovfWatchBoth s) := by
  unfold ovfWatchBoth
  repeat' (first | with_reducible assumption | with_reducible apply ovfWatch_keeps)

theorem purgeStaging_keeps (s : State) {b0 : Base} (hs : Keeps b0 s) : Keeps b0 (purgeStaging s) := by
  unfold purgeStaging
  repeat' (first | with_reducible assumption | with_reducible apply modTab_keeps)

theorem stageWait_keeps (z0 : Nat) (z1 : List Staged) (z2 : State) {b0 : Base} (hz2 : Keeps b0 z2) : Keeps b0 (stageWait z0 z1 z2) := by
  fun_induction stageWait z0 z1 z2 <;> (try dsimp only) <;> repeat' (first
      | with_reducible assumption | with_reducible apply purgeStaging_keeps | with_reducible apply eachTab_keeps
      | with_reducible apply reachNs_keeps | apply_assumption)

theorem stageAll_keeps (objs : Tables → List Staged) (te : Nat) (new : Tables → Tables) (s : State) {b0 : Base} (hs : Keeps b0 s) : Keeps b0 (stageAll objs te new s) := by
  unfold stageAll
  repeat' (first | with_reducible assumption | with_reducible apply eachTab_keeps)

theorem execStagingRecordRetire_keeps (s : State) {b0 : Base} (hs : Keeps b0 s) : OutKeeps b0 (execStagingRecordRetire s) := by
  unfold execStagingRecordRetire
  try dsimp only
  repeat' (first
      | with_reducible assumption | with_reducible apply purgeStaging_keeps | with_reducible apply reachNs_keeps | with_reducible apply next_keeps
      | with_reducible apply outKeeps_next | split | with_reducible apply keeps_foldl | with_reducible apply keeps_foldl_snd
      | with_reducible apply outKeeps_ite | with_reducible apply keeps_ite | (intro _; intros)
      | (fail_if_no_progress refine Keeps.upd id id id id id id id id id id id id id id id id ?_))

theorem streamLookup_keeps (s : State) (f : Nat) (app appid domain vid da ns : Nat) {b0 : Base} (hs : Keeps b0 s) : Keeps b0 (streamLookup s f app appid domain vid da ns).2 := by
  unfold streamLookup
  try dsimp only
  repeat' (first | with_reducible assumption | with_reducible apply modTab_keeps | split)

theorem addressLookup_keeps (s : State) (f fid da ingress ns : Nat) {b0 : Base} (hs : Keeps b0 s) : Keeps b0 (addressLookup s f fid da ingress ns).2.2 := by
  unfold addressLookup
  repeat' (first
      | with_reducible assumption | with_reducible apply fireFurMs_keeps | with_reducible apply modTab_keeps
      | with_reducible apply keeps_ite_thd | split)

theorem addrFault_keeps (f : Nat) (s : State) (pl : Nat) {b0 : Base} (hs : Keeps b0 s) : Keeps b0 (addrFault f s pl) := by
  unfold addrFault
  repeat' (first
      | with_reducible assumption | with_reducible apply raiseAlarm_keeps | with_reducible apply fireFur_keeps | with_reducible apply modTab_keeps
      | with_reducible apply memUnc_keeps | with_reducible apply ovfWatch_keeps)

theorem learnLimited_keeps (f : Nat) (s : State) {b0 : Base} (hs : Keeps b0 s) : Keeps b0 (learnLimited f s) := by
  unfold learnLimited
  repeat' (first | with_reducible assumption | with_reducible apply fireFurMs_keeps)

theorem learnExamine_keeps (f key port ns : Nat) (s : State) {b0 : Base} (hs : Keeps b0 s) : Keeps b0 (learnExamine f key port ns s) := by
  unfold learnExamine
  try dsimp only
  repeat' (first
      | with_reducible assumption | with_reducible apply modTab_keeps | with_reducible apply learnLimited_keeps
      | with_reducible apply fireFurMs_keeps | with_reducible apply keeps_ite | (intro _; intros) | split
      | (fail_if_no_progress refine Keeps.upd id id id id id id id id id id id id id id id id ?_))

theorem noteSurvivor_keeps (f key : Nat) (s : State) {b0 : Base} (hs : Keeps b0 s) : Keeps b0 (noteSurvivor f key s) := by
  unfold noteSurvivor
  repeat' (first
      | with_reducible assumption | with_reducible apply takeFree_keeps | with_reducible apply keeps_ite
      | (fail_if_no_progress refine Keeps.upd id id id id id id id id id id id id id id id id ?_))

theorem learnStep_keeps (f : Nat) (s0 : State) {b0 : Base} (hs0 : Keeps b0 s0) : Keeps b0 (learnStep f s0) := by
  unfold learnStep
  try dsimp only
  repeat' (first
      | with_reducible assumption | with_reducible apply learnLimited_keeps | with_reducible apply noteSurvivor_keeps
      | with_reducible apply fireFurMs_keeps | with_reducible apply ovfWatch_keeps | with_reducible apply modTab_keeps
      | with_reducible apply keeps_ite | split)

theorem execLearnInsert_keeps (t : TabRead) (s : State) {b0 : Base} (hs : Keeps b0 s) : OutKeeps b0 (execLearnInsert t s) := by
  unfold execLearnInsert
  repeat' (first
      | with_reducible assumption | with_reducible apply learnStep_keeps | with_reducible apply addrFault_keeps | with_reducible apply next_keeps
      | with_reducible apply keeps_foldl | with_reducible apply keeps_foldl_snd | with_reducible apply outKeeps_next | (intro _; intros)
      | with_reducible apply outKeeps_ite | with_reducible apply keeps_ite)

theorem execAgeingSweep_keeps (w : TabRead) (s0 : State) {b0 : Base} (hs0 : Keeps b0 s0) : OutKeeps b0 (execAgeingSweep w s0) := by
  unfold execAgeingSweep
  try dsimp only
  repeat' (first
      | with_reducible assumption | with_reducible apply addrFault_keeps | with_reducible apply startCore_keeps
      | with_reducible apply reachEdge_keeps | with_reducible apply coreIdle_keeps | with_reducible apply ovfWatch_keeps
      | with_reducible apply modTab_keeps | with_reducible apply next_keeps | with_reducible apply keeps_foldl
      | with_reducible apply keeps_foldl_snd | with_reducible apply outKeeps_next | with_reducible apply outKeeps_ite | (intro _; intros) | split
      | with_reducible apply keeps_ite | (fail_if_no_progress refine Keeps.upd id id id id id id id id id id id id id id id id ?_))

theorem flushDone_keeps (s : State) {b0 : Base} (hs : Keeps b0 s) : Keeps b0 (flushDone s) := by
  unfold flushDone
  repeat' (first
      | with_reducible assumption | with_reducible apply ovfWatchBoth_keeps | with_reducible apply complete_keeps
      | with_reducible apply modTab_keeps | split | (fail_if_no_progress refine Keeps.upd id id id id id id id id id id id id id id id id ?_))

theorem execAddrFlushDone_keeps (s : State) {b0 : Base} (hs : Keeps b0 s) : OutKeeps b0 (execAddrFlushDone s) := by
  unfold execAddrFlushDone
  repeat' (first
      | with_reducible assumption | with_reducible apply flushDone_keeps | with_reducible apply next_keeps | with_reducible apply outKeeps_next
      | with_reducible apply outKeeps_ite | with_reducible apply keeps_ite)

theorem flushOnLinkDown_keeps (p : Nat) (s : State) {b0 : Base} (hs : Keeps b0 s) : Keeps b0 (flushOnLinkDown p s) := by
  unfold flushOnLinkDown
  repeat' (first
      | with_reducible assumption | with_reducible apply keeps_ite
      | (fail_if_no_progress refine Keeps.upd id id id id id id id id id id id id id id id id ?_))

theorem shadowWay_keeps (f u way pl : Nat) (b : List Byte) (s : State) {b0 : Base} (hs : Keeps b0 s) : Keeps b0 (shadowWay f u way pl b s) := by
  unfold shadowWay
  repeat' (first
      | with_reducible assumption | with_reducible apply fireFurMs_keeps | with_reducible apply modTab_keeps | with_reducible apply keeps_ite
      | (fail_if_no_progress refine Keeps.upd id id id id id id id id id id id id id id id id ?_))

theorem shadowSuspend_keeps (s : State) {b0 : Base} (hs : Keeps b0 s) : Keeps b0 (shadowSuspend s) := by
  unfold shadowSuspend
  repeat' (first
      | with_reducible assumption | with_reducible apply fireFur_keeps | with_reducible apply keeps_ite
      | (fail_if_no_progress refine Keeps.upd id id id id id id id id id id id id id id id id ?_))

theorem zipWays_keeps (f u : Nat) (b : List Byte) (z0 : Nat) (z1 : List Nat) (z2 : State) {b0 : Base} (hz2 : Keeps b0 z2) : Keeps b0 (zipWays f u b z0 z1 z2) := by
  fun_induction zipWays f u b z0 z1 z2 <;> (try dsimp only) <;> repeat' (first | with_reducible assumption | with_reducible apply shadowWay_keeps | apply_assumption)

theorem execShadowCompareUnit_keeps (t : TabRead) (ok : Bool) (data : List Byte) (s0 : State) {b0 : Base} (hs0 : Keeps b0 s0) : OutKeeps b0 (execShadowCompareUnit t ok data s0) := by
  unfold execShadowCompareUnit
  try dsimp only
  repeat' (first
      | with_reducible assumption | with_reducible apply reachEdge_keeps | with_reducible apply shadowSuspend_keeps
      | with_reducible apply zipWays_keeps | with_reducible apply addrFault_keeps | with_reducible apply perfF_keeps
      | with_reducible apply ovfWatch_keeps | with_reducible apply next_keeps | with_reducible apply keeps_foldl
      | with_reducible apply keeps_foldl_snd | with_reducible apply outKeeps_next | with_reducible apply outKeeps_ite | (intro _; intros) | split
      | with_reducible apply keeps_ite | (fail_if_no_progress refine Keeps.upd id id id id id id id id id id id id id id id id ?_))

theorem tabUpsetIn_keeps (f : Nat) (s : State) {b0 : Base} (hs : Keeps b0 s) : Keeps b0 (tabUpsetIn f s) := by
  unfold tabUpsetIn
  repeat' (first
      | with_reducible assumption | with_reducible apply raiseAlarm_keeps | with_reducible apply fireFur_keeps
      | with_reducible apply memUnc_keeps)

theorem tabUpset_keeps (s : State) {b0 : Base} (hs : Keeps b0 s) : Keeps b0 (tabUpset s) := by
  unfold tabUpset
  repeat' (first | with_reducible assumption | with_reducible apply tabUpsetIn_keeps)

theorem bodyAddrAdd_keeps (p : Packet) (s : State) {b0 : Base} (hs : Keeps b0 s) : ResKeeps b0 (bodyAddrAdd p s) := by
  unfold bodyAddrAdd
  try dsimp only
  repeat' (first
      | with_reducible assumption | with_reducible apply ovfWatchBoth_keeps | with_reducible apply checked_keeps
      | with_reducible apply eachTab_keeps | with_reducible apply touchPort_keeps | with_reducible apply resKeeps_ok | exact trivial
      | with_reducible apply resKeeps_ite | with_reducible apply keeps_ite | with_reducible apply resKeeps_final
      | with_reducible apply resKeeps_accepted | (fail_if_no_progress unfold checked) | trivial | (intro _; intros) | split
      | (fail_if_no_progress refine Keeps.upd id id id id id id id id id id id id id id id id ?_))

theorem execAddrAdd_keeps (p : Packet) (s : State) {b0 : Base} (hs : Keeps b0 s) : OutKeeps b0 (execAddrAdd p s) := 
  serveCmd_keeps _ _ _ _ (specKeeps_some rfl (fun t h => tabUpset_keeps t h)) (fun p t h => bodyAddrAdd_keeps p t h) hs

theorem bodyAddrDelete_keeps (p : Packet) (s : State) {b0 : Base} (hs : Keeps b0 s) : ResKeeps b0 (bodyAddrDelete p s) := by
  unfold bodyAddrDelete
  repeat' (first
      | with_reducible assumption | with_reducible apply ovfWatchBoth_keeps | with_reducible apply checked_keeps
      | with_reducible apply eachTab_keeps | with_reducible apply resKeeps_ok)

theorem execAddrDelete_keeps (p : Packet) (s : State) {b0 : Base} (hs : Keeps b0 s) : OutKeeps b0 (execAddrDelete p s) := 
  serveCmd_keeps _ _ _ _ (specKeeps_some rfl (fun t h => tabUpset_keeps t h)) (fun p t h => bodyAddrDelete_keeps p t h) hs

theorem onFurrow_keeps (s : State) (f : Nat) (k : CmdResult) {b0 : Base} (hk : ResKeeps b0 k) (hs : Keeps b0 s) : ResKeeps b0 (onFurrow s f k) := by
  unfold onFurrow
  repeat' (first | with_reducible assumption | exact trivial | with_reducible apply resKeeps_ite)

theorem bodyAddrLookup_keeps (p : Packet) (s : State) {b0 : Base} (hs : Keeps b0 s) : ResKeeps b0 (bodyAddrLookup p s) := by
  unfold bodyAddrLookup
  try dsimp only
  repeat' (first
      | with_reducible assumption | with_reducible apply checked_keeps | with_reducible apply onFurrow_keeps
      | with_reducible apply tabUpsetIn_keeps | exact trivial | with_reducible apply resKeeps_ok | with_reducible apply resKeeps_final
      | with_reducible apply resKeeps_accepted | with_reducible apply resKeeps_ite | split)

theorem execAddrLookup_keeps (p : Packet) (s : State) {b0 : Base} (hs : Keeps b0 s) : OutKeeps b0 (execAddrLookup p s) := 
  serveCmd_keeps _ _ _ _ (specKeeps_none rfl) (fun p t h => bodyAddrLookup_keeps p t h) hs

theorem bodyAddrFlush_keeps (p : Packet) (s : State) {b0 : Base} (hs : Keeps b0 s) : ResKeeps b0 (bodyAddrFlush p s) := by
  unfold bodyAddrFlush
  try dsimp only
  repeat' (first
      | with_reducible assumption | with_reducible apply checked_keeps | with_reducible apply touchPort_keeps | exact trivial
      | with_reducible apply resKeeps_ok | with_reducible apply resKeeps_final | with_reducible apply resKeeps_accepted
      | with_reducible apply resKeeps_ite | (intro _; intros) | split | with_reducible apply keeps_ite | (fail_if_no_progress unfold checked)
      | trivial | (fail_if_no_progress refine Keeps.upd id id id id id id id id id id id id id id id id ?_))

theorem execAddrFlush_keeps (p : Packet) (s : State) {b0 : Base} (hs : Keeps b0 s) : OutKeeps b0 (execAddrFlush p s) := 
  serveCmd_keeps _ _ _ _ (specKeeps_none rfl) (fun p t h => bodyAddrFlush_keeps p t h) hs

theorem bodyAgeingSet_keeps (p : Packet) (s : State) {b0 : Base} (hs : Keeps b0 s) : ResKeeps b0 (bodyAgeingSet p s) := by
  unfold bodyAgeingSet
  repeat' (first
      | with_reducible assumption | with_reducible apply modPort_keeps | with_reducible apply checked_keeps
      | with_reducible apply eachTab_keeps | with_reducible apply resKeeps_ok | exact trivial | with_reducible apply resKeeps_ite
      | (fail_if_no_progress refine Keeps.upd id id id id id id id id id id id id id id id id ?_))

theorem execAgeingSet_keeps (p : Packet) (s : State) {b0 : Base} (hs : Keeps b0 s) : OutKeeps b0 (execAgeingSet p s) := 
  serveCmd_keeps _ _ _ _ (specKeeps_none rfl) (fun p t h => bodyAgeingSet_keeps p t h) hs

theorem bodyShadowSet_keeps (p : Packet) (s : State) {b0 : Base} (hs : Keeps b0 s) : ResKeeps b0 (bodyShadowSet p s) := by
  unfold bodyShadowSet
  repeat' (first
      | with_reducible assumption | with_reducible apply checked_keeps | with_reducible apply resKeeps_ok | exact trivial
      | with_reducible apply resKeeps_ite | (fail_if_no_progress refine Keeps.upd id id id id id id id id id id id id id id id id ?_))

theorem execShadowSet_keeps (p : Packet) (s : State) {b0 : Base} (hs : Keeps b0 s) : OutKeeps b0 (execShadowSet p s) := 
  serveCmd_keeps _ _ _ _ (specKeeps_none rfl) (fun p t h => bodyShadowSet_keeps p t h) hs

theorem bodyShadowStatus_keeps (w0 : Packet) (s : State) {b0 : Base} (hs : Keeps b0 s) : ResKeeps b0 (bodyShadowStatus w0 s) := by
  unfold bodyShadowStatus
  repeat' (first | with_reducible assumption | with_reducible apply resKeeps_ok)

theorem execShadowStatus_keeps (p : Packet) (s : State) {b0 : Base} (hs : Keeps b0 s) : OutKeeps b0 (execShadowStatus p s) := 
  serveCmd_keeps _ _ _ _ (specKeeps_none rfl) (fun p t h => bodyShadowStatus_keeps p t h) hs

theorem bodyMgroupSet_keeps (p : Packet) (s0 : State) {b0 : Base} (hs0 : Keeps b0 s0) : ResKeeps b0 (bodyMgroupSet p s0) := by
  unfold bodyMgroupSet
  try dsimp only
  repeat' (first
      | with_reducible assumption | with_reducible apply purgeStaging_keeps | with_reducible apply stageWait_keeps
      | with_reducible apply stageAll_keeps | with_reducible apply checked_keeps | with_reducible apply touchPorts_keeps
      | with_reducible apply resKeeps_ok | with_reducible apply resKeeps_ite | with_reducible apply keeps_ite
      | with_reducible apply resKeeps_final | with_reducible apply resKeeps_accepted | (fail_if_no_progress unfold checked) | trivial
      | (intro _; intros) | split | (fail_if_no_progress refine Keeps.upd id id id id id id id id id id id id id id id id ?_))

theorem execMgroupSet_keeps (p : Packet) (s : State) {b0 : Base} (hs : Keeps b0 s) : OutKeeps b0 (execMgroupSet p s) := 
  serveCmd_keeps _ _ _ _ (specKeeps_some rfl (fun t h => tabUpset_keeps t h)) (fun p t h => bodyMgroupSet_keeps p t h) hs

theorem bodyStreamBind_keeps (p : Packet) (s0 : State) {b0 : Base} (hs0 : Keeps b0 s0) : ResKeeps b0 (bodyStreamBind p s0) := by
  unfold bodyStreamBind
  try dsimp only
  repeat' (first
      | with_reducible assumption | with_reducible apply ovfWatchBoth_keeps | with_reducible apply purgeStaging_keeps
      | with_reducible apply stageWait_keeps | with_reducible apply stageAll_keeps | with_reducible apply checked_keeps
      | with_reducible apply touchPorts_keeps | with_reducible apply resKeeps_ok | exact trivial | with_reducible apply resKeeps_ite
      | with_reducible apply keeps_ite | with_reducible apply resKeeps_final | with_reducible apply resKeeps_accepted
      | (fail_if_no_progress unfold checked) | trivial | (intro _; intros) | split
      | (fail_if_no_progress refine Keeps.upd id id id id id id id id id id id id id id id id ?_))

theorem execStreamBind_keeps (p : Packet) (s : State) {b0 : Base} (hs : Keeps b0 s) : OutKeeps b0 (execStreamBind p s) := 
  serveCmd_keeps _ _ _ _ (specKeeps_some rfl (fun t h => tabUpset_keeps t h)) (fun p t h => bodyStreamBind_keeps p t h) hs

theorem bodyStreamUnbind_keeps (p : Packet) (s0 : State) {b0 : Base} (hs0 : Keeps b0 s0) : ResKeeps b0 (bodyStreamUnbind p s0) := by
  unfold bodyStreamUnbind
  repeat' (first
      | with_reducible assumption | with_reducible apply ovfWatchBoth_keeps | with_reducible apply purgeStaging_keeps
      | with_reducible apply stageWait_keeps | with_reducible apply stageAll_keeps | with_reducible apply checked_keeps
      | with_reducible apply resKeeps_ok | exact trivial | with_reducible apply resKeeps_ite)

theorem execStreamUnbind_keeps (p : Packet) (s : State) {b0 : Base} (hs : Keeps b0 s) : OutKeeps b0 (execStreamUnbind p s) := 
  serveCmd_keeps _ _ _ _ (specKeeps_some rfl (fun t h => tabUpset_keeps t h)) (fun p t h => bodyStreamUnbind_keeps p t h) hs

theorem bodyStreamRead_keeps (p : Packet) (s : State) {b0 : Base} (hs : Keeps b0 s) : ResKeeps b0 (bodyStreamRead p s) := by
  unfold bodyStreamRead
  try dsimp only
  repeat' (first
      | with_reducible assumption | with_reducible apply checked_keeps | with_reducible apply onFurrow_keeps
      | with_reducible apply tabUpsetIn_keeps | exact trivial | with_reducible apply resKeeps_ok | with_reducible apply resKeeps_final
      | with_reducible apply resKeeps_accepted | with_reducible apply resKeeps_ite | split)

theorem execStreamRead_keeps (p : Packet) (s : State) {b0 : Base} (hs : Keeps b0 s) : OutKeeps b0 (execStreamRead p s) := 
  serveCmd_keeps _ _ _ _ (specKeeps_none rfl) (fun p t h => bodyStreamRead_keeps p t h) hs

end Sys2Proof.Machine
end

