-- ==== Sys2Proof/Laws/KeepHarrow.lean ====
section
/-! SUPPORT. What the operations of Machine/Harrow.lean keep. -/

namespace Sys2Proof.Machine

theorem modFrame_keeps (u : Nat) (g : Frame → Frame) (s : State) {b0 : Base} (hs : Keeps b0 s) : Keeps b0 (modFrame u g s) := by
  unfold modFrame
  repeat' (first
      | with_reducible assumption | (intro h; (try dsimp only); exact rising_tput _ _ h) | (intro _; intros) | split
      | (fail_if_no_progress with_reducible apply Keeps.upd))

theorem hctr_keeps (k : Nat) (f : Nat) (s : State) {b0 : Base} (hs : Keeps b0 s) : Keeps b0 (hctr k f s) := by
  unfold hctr
  repeat' (first | with_reducible assumption | with_reducible apply modFur_keeps)

theorem hctrs_keeps (l : List Nat) (f : Nat) (s : State) {b0 : Base} (hs : Keeps b0 s) : Keeps b0 (hctrs l f s) := by
  unfold hctrs
  repeat' (first | with_reducible assumption | with_reducible apply hctr_keeps | with_reducible apply keeps_foldl | (intro _; intros))

theorem streamEgress_keeps (s : State) (f : Nat) (x : Frame) (b : Binding) (fid : Nat) {b0 : Base} (hs : Keeps b0 s) : Keeps b0 (streamEgress s f x b fid).2.2 := by
  unfold streamEgress
  repeat' (first | with_reducible assumption | with_reducible apply addressLookup_keeps | with_reducible apply keeps_ite_thd)

theorem loseRead_keeps (f : Nat) (k : Nat) (x : Frame) (p : Parsed) (s : State) {b0 : Base} (hs : Keeps b0 s) : Keeps b0 (loseRead f k x p s) := by
  unfold loseRead
  try dsimp only
  repeat' (first
      | with_reducible assumption | with_reducible apply modTab_keeps | with_reducible apply ovfWatch_keeps | with_reducible apply keeps_ite
      | (intro _; intros) | split | (fail_if_no_progress refine Keeps.upd id id id id id id id id id id id id id id id id ?_))

theorem resolve_keeps (s0 : State) (f : Nat) (x : Frame) (p : Parsed) (pol : Policy) (m0 : HMeta) (case_ : Option Nat) (flags : Nat) (host0 : Bool) {b0 : Base} (hs0 : Keeps b0 s0) : Keeps b0 (resolve s0 f x p pol m0 case_ flags host0).2 := by
  unfold resolve
  extract_lets d0 act s1 d1 hostCopy reason s2x
  have h1 : Keeps b0 s1 := by
    show Keeps b0 (match case_ with | some c => _ | none => _)
    repeat' (first | with_reducible assumption | with_reducible apply fireFurMs_keeps | with_reducible apply hctr_keeps | split)
  have h2x : Keeps b0 s2x := hctr_keeps _ _ _ h1
  clear_value s2x s1 d0 act d1 reason hostCopy
  split; exact h1
  split; exact hctr_keeps _ _ _ h1
  split
  · split <;> exact h2x
  · split
    rename_i h0 s2 heq
    have h2 : Keeps b0 s2 := keeps_snd heq (by split; exact h1; exact streamLookup_keeps _ _ _ _ _ _ _ _ h1)
    clear heq
    extract_lets b h demote cls s3
    have h3 : Keeps b0 s3 := keeps_ite (fireFurMs_keeps _ _ _ _ _ (hctr_keeps _ _ _ h2)) h2
    clear_value s3 b h demote cls
    split
    rename_i eg why s4 heq
    have h4 : Keeps b0 s4 := keeps_thd heq (by
      split; exact streamEgress_keeps _ _ _ _ _ h3
      split; exact h3
      split; exact streamEgress_keeps _ _ _ _ _ h3
      exact addressLookup_keeps _ _ _ _ _ _ h3)
    dsimp only
    split; exact hctr_keeps _ _ _ h4
    split <;> exact h4

theorem fragInsert_keeps (f : Nat) (x : Frame) (p : Parsed) (d : Decision) (timeout : Nat) (s00 : State) {b0 : Base} (hs00 : Keeps b0 s00) : Keeps b0 (fragInsert f x p d timeout s00) := by
  unfold fragInsert
  try dsimp only
  repeat' (first
      | with_reducible assumption | with_reducible apply modFur_keeps | with_reducible apply fireFurMs_keeps | with_reducible apply hctr_keeps
      | with_reducible apply keeps_ite | (intro _; intros) | split
      | (fail_if_no_progress refine Keeps.upd id id id id id id id id id id id id id id id id ?_))

theorem fragTake_keeps (f k : Nat) (g : Frag) (p : Parsed) (s : State) {b0 : Base} (hs : Keeps b0 s) : Keeps b0 (fragTake f k g p s) := by
  unfold fragTake
  repeat' (first | with_reducible assumption | with_reducible apply modFur_keeps)

theorem fragDecide_keeps (s : State) (f : Nat) (x : Frame) (p : Parsed) (pol : Policy) (g : Frag) (case_ : Option Nat) (flags : Nat) {b0 : Base} (hs : Keeps b0 s) : Keeps b0 (fragDecide s f x p pol g case_ flags).2 := by
  unfold fragDecide
  try dsimp only
  repeat' (first
      | with_reducible assumption | with_reducible apply hctr_keeps | with_reducible apply fireFurMs_keeps | with_reducible apply keeps_ite_snd
      | (intro _; intros) | split | (fail_if_no_progress refine Keeps.upd id id id id id id id id id id id id id id id id ?_))

theorem harrowUpset_keeps (f k : Nat) (s : State) {b0 : Base} (hs : Keeps b0 s) : Keeps b0 (harrowUpset f k s) := by
  unfold harrowUpset
  repeat' (first
      | with_reducible assumption | with_reducible apply raiseAlarm_keeps | with_reducible apply fireFur_keeps
      | with_reducible apply memUnc_keeps | with_reducible apply keeps_ite)

theorem loseFrag_keeps (f : Nat) (x : Frame) (p : Parsed) (s : State) {b0 : Base} (hs : Keeps b0 s) : Keeps b0 (loseFrag f x p s) := by
  unfold loseFrag
  repeat' (first
      | with_reducible assumption | with_reducible apply modFur_keeps | (intro _; intros) | split
      | (fail_if_no_progress refine Keeps.upd id id id id id id id id id id id id id id id id ?_))

theorem losePattern_keeps (f b i : Nat) (s : State) {b0 : Base} (hs : Keeps b0 s) : Keeps b0 (losePattern f b i s) := by
  unfold losePattern
  repeat' (first
      | with_reducible assumption | with_reducible apply modFur_keeps | (intro _; intros)
      | (fail_if_no_progress refine Keeps.upd id id id id id id id id id id id id id id id id ?_))

theorem loseRule_keeps (f b n i : Nat) (s : State) {b0 : Base} (hs : Keeps b0 s) : Keeps b0 (loseRule f b n i s) := by
  unfold loseRule
  repeat' (first
      | with_reducible assumption | with_reducible apply modFur_keeps | (intro _; intros)
      | (fail_if_no_progress refine Keeps.upd id id id id id id id id id id id id id id id id ?_))

theorem harrowDecide_keeps (f : Nat) (x : Frame) (upset : Nat) (s00 : State) {b0 : Base} (hs00 : Keeps b0 s00) : Keeps b0 (harrowDecide f x upset s00).2 := by
  suffices h : ∀ r, harrowDecide f x upset s00 = r → Keeps b0 r.2 from h _ rfl
  intro r hr
  unfold harrowDecide at hr
  split at hr
  rename_i k s0 heq
  have h0 : Keeps b0 s0 := keeps_snd heq (by split; exact hs00; exact readWord_keeps _ _ hs00)
  clear heq
  extract_lets s1 s2 pf s b p0 dp hits later s3 hit miss p early c1 c fl kc m s4 at hr
  have h1 : Keeps b0 s1 := harrowUpset_keeps _ _ _ (hctr_keeps _ _ _ (keeps_ite (perfF_keeps _ _ _ _ h0) h0))
  have h2 : Keeps b0 s2 := hctr_keeps _ _ _ h1
  have hs : Keeps b0 s := keeps_ite (losePattern_keeps _ _ _ _ h1) h1
  have h3 : Keeps b0 s3 := loseRead_keeps _ _ _ _ _ (keeps_ite (loseFrag_keeps _ _ _ _ hs) hs)
  have h4 : Keeps b0 s4 := by
    show Keeps b0 (match m.lost with | some (n, i) => loseRule f x.bank n i s3 | none => s3)
    split
    · exact loseRule_keeps _ _ _ _ _ h3
    · exact h3
  clear_value s1 s2 s s3 pf hit miss early s4 m kc fl c c1
  split at hr
  · subst hr; exact keeps_ite (raiseAlarm_keeps _ _ _ h2) h2
  split at hr
  · subst hr; exact h1
  split at hr
  · split at hr
    rename_i d s4 heq
    have h4 : Keeps b0 s4 := keeps_snd heq (fragDecide_keeps _ _ _ _ _ _ _ _ (hctr_keeps _ _ _ h3))
    subst hr; exact keeps_ite (fragTake_keeps _ _ _ _ _ h4) h4
  · split at hr
    rename_i d s5 heq
    have h5 : Keeps b0 s5 := keeps_snd heq (resolve_keeps _ _ _ _ _ _ _ _ _ (hctrs_keeps _ _ _ (keeps_ite (hctr_keeps _ _ _ h4) h4)))
    subst hr; exact keeps_ite (fragInsert_keeps _ _ _ _ _ _ (hctr_keeps _ _ _ h5)) h5

theorem execFragmentSweep_keeps (f : Furrow) (s : State) {b0 : Base} (hs : Keeps b0 s) : OutKeeps b0 (execFragmentSweep f s) := by
  unfold execFragmentSweep
  try dsimp only
  repeat' (first
      | with_reducible assumption | with_reducible apply modFur_keeps | with_reducible apply next_keeps | with_reducible apply outKeeps_next
      | with_reducible apply outKeeps_ite | with_reducible apply keeps_ite | (intro _; intros)
      | (fail_if_no_progress refine Keeps.upd id id id id id id id id id id id id id id id id ?_))

theorem bankUpset_keeps (s : State) {b0 : Base} (hs : Keeps b0 s) : Keeps b0 (bankUpset s) := by
  unfold bankUpset
  repeat' (first
      | with_reducible assumption | with_reducible apply raiseAlarm_keeps | with_reducible apply fireFur_keeps
      | with_reducible apply memUnc_keeps)

theorem modBank_keeps (b : Nat) (g : Bank → Bank) (s : State) {b0 : Base} (hs : Keeps b0 s) : Keeps b0 (modBank b g s) := by
  unfold modBank
  repeat' (first | with_reducible assumption | with_reducible apply eachFur_keeps)

theorem modStage_keeps (b n : Nat) (g : Stage → Stage) (s : State) {b0 : Base} (hs : Keeps b0 s) : Keeps b0 (modStage b n g s) := by
  unfold modStage
  repeat' (first | with_reducible assumption | with_reducible apply modBank_keeps)

theorem loadDone_keeps (crc : Bank → Nat) (markBad : Bool → Bank → Bank) (s : State) {b0 : Base} (hs : Keeps b0 s) : ResKeeps b0 (loadDone crc markBad s) := by
  unfold loadDone
  repeat' (first
      | with_reducible assumption | with_reducible apply fireFur_keeps | with_reducible apply modBank_keeps | with_reducible apply resKeeps_ok
      | with_reducible apply resKeeps_final | with_reducible apply resKeeps_ite)

theorem policyDone_keeps (s : State) {b0 : Base} (hs : Keeps b0 s) : ResKeeps b0 (policyDone s) := by
  unfold policyDone
  repeat' (first
      | with_reducible assumption | with_reducible apply loadDone_keeps | exact trivial | with_reducible apply resKeeps_ok
      | with_reducible apply resKeeps_final | with_reducible apply resKeeps_accepted | (intro _; intros)
      | (fail_if_no_progress refine Keeps.upd id id id id id id id id id id id id id id id id ?_))

theorem loadPolicy_keeps (op : Nat) (b : List Byte) (s : State) {b0 : Base} (hs : Keeps b0 s) : ResKeeps b0 (loadPolicy op b s) := by
  unfold loadPolicy
  try dsimp only
  repeat' (first
      | with_reducible assumption | with_reducible apply policyDone_keeps | with_reducible apply eachFur_keeps
      | with_reducible apply checked_keeps | with_reducible apply modBank_keeps | exact trivial | with_reducible apply resKeeps_ok
      | with_reducible apply resKeeps_final | with_reducible apply resKeeps_accepted | with_reducible apply resKeeps_ite | (intro _; intros)
      | split | (fail_if_no_progress refine Keeps.upd id id id id id id id id id id id id id id id id ?_))

theorem stageDone_keeps (n : Nat) (s : State) {b0 : Base} (hs : Keeps b0 s) : ResKeeps b0 (stageDone n s) := by
  unfold stageDone
  repeat' (first | with_reducible assumption | with_reducible apply loadDone_keeps)

theorem bodyHarrowStageLoad_keeps (p : Packet) (s : State) {b0 : Base} (hs : Keeps b0 s) : ResKeeps b0 (bodyHarrowStageLoad p s) := by
  unfold bodyHarrowStageLoad
  repeat' (first
      | with_reducible assumption | with_reducible apply loadPolicy_keeps | with_reducible apply stageDone_keeps
      | with_reducible apply modStage_keeps | with_reducible apply checked_keeps | with_reducible apply eachFur_keeps | exact trivial
      | with_reducible apply resKeeps_ite | split)

theorem execHarrowStageLoad_keeps (p : Packet) (s : State) {b0 : Base} (hs : Keeps b0 s) : OutKeeps b0 (execHarrowStageLoad p s) := 
  serveCmd_keeps _ _ _ _ (specKeeps_some rfl (fun t h => bankUpset_keeps t h)) (fun p t h => bodyHarrowStageLoad_keeps p t h) hs

theorem patternsDone_keeps (s : State) {b0 : Base} (hs : Keeps b0 s) : ResKeeps b0 (patternsDone s) := by
  unfold patternsDone
  repeat' (first | with_reducible assumption | with_reducible apply loadDone_keeps)

theorem bodyHarrowPatternLoad_keeps (p : Packet) (s : State) {b0 : Base} (hs : Keeps b0 s) : ResKeeps b0 (bodyHarrowPatternLoad p s) := by
  unfold bodyHarrowPatternLoad
  try dsimp only
  repeat' (first
      | with_reducible assumption | with_reducible apply patternsDone_keeps | with_reducible apply modBank_keeps
      | with_reducible apply checked_keeps | with_reducible apply eachFur_keeps | exact trivial | with_reducible apply resKeeps_ite | split
      | with_reducible apply keeps_foldl | with_reducible apply keeps_foldl_snd | with_reducible apply keeps_ite
      | with_reducible apply resKeeps_ok | with_reducible apply resKeeps_final | with_reducible apply resKeeps_accepted
      | (fail_if_no_progress unfold checked) | trivial | (intro _; intros)
      | (fail_if_no_progress refine Keeps.upd id id id id id id id id id id id id id id id id ?_))

theorem execHarrowPatternLoad_keeps (p : Packet) (s : State) {b0 : Base} (hs : Keeps b0 s) : OutKeeps b0 (execHarrowPatternLoad p s) := 
  serveCmd_keeps _ _ _ _ (specKeeps_some rfl (fun t h => bankUpset_keeps t h)) (fun p t h => bodyHarrowPatternLoad_keeps p t h) hs

theorem bodyHarrowBankSwap_keeps (p : Packet) (s : State) {b0 : Base} (hs : Keeps b0 s) : ResKeeps b0 (bodyHarrowBankSwap p s) := by
  unfold bodyHarrowBankSwap
  repeat' (first
      | with_reducible assumption | with_reducible apply checked_keeps | with_reducible apply resKeeps_accepted | exact trivial
      | with_reducible apply resKeeps_ite | split | (fail_if_no_progress refine Keeps.upd id id id id id id id id id id id id id id id id ?_))

theorem execHarrowBankSwap_keeps (p : Packet) (s : State) {b0 : Base} (hs : Keeps b0 s) : OutKeeps b0 (execHarrowBankSwap p s) := 
  serveCmd_keeps _ _ _ _ (specKeeps_none rfl) (fun p t h => bodyHarrowBankSwap_keeps p t h) hs

theorem execBankFlip_keeps (s0 : State) {b0 : Base} (hs0 : Keeps b0 s0) : OutKeeps b0 (execBankFlip s0) := by
  unfold execBankFlip
  try dsimp only
  repeat' (first
      | with_reducible assumption | with_reducible apply reachNs_keeps | with_reducible apply next_keeps | with_reducible apply outKeeps_next
      | with_reducible apply outKeeps_ite | split | with_reducible apply keeps_ite | (refine keeps_snd (by assumption) ?_)
      | (fail_if_no_progress refine Keeps.upd id id id id id id id id id id id id id id id id ?_))

theorem execBankSwapComplete_keeps (s0 : State) {b0 : Base} (hs0 : Keeps b0 s0) : OutKeeps b0 (execBankSwapComplete s0) := by
  unfold execBankSwapComplete
  try dsimp only
  repeat' (first
      | with_reducible assumption | with_reducible apply reachEdge_keeps | with_reducible apply complete_keeps
      | with_reducible apply fireFur_keeps | with_reducible apply next_keeps | with_reducible apply outKeeps_next | with_reducible apply keeps_ite
      | split | with_reducible apply outKeeps_ite | (intro _; intros)
      | (fail_if_no_progress refine Keeps.upd id id id id id id id id id id id id id id id id ?_))

theorem bodyFragmentTableRead_keeps (p : Packet) (s : State) {b0 : Base} (hs : Keeps b0 s) : ResKeeps b0 (bodyFragmentTableRead p s) := by
  unfold bodyFragmentTableRead
  repeat' (first
      | with_reducible assumption | with_reducible apply onFurrow_keeps | with_reducible apply checked_keeps
      | with_reducible apply resKeeps_ok)

theorem execFragmentTableRead_keeps (p : Packet) (s : State) {b0 : Base} (hs : Keeps b0 s) : OutKeeps b0 (execFragmentTableRead p s) := 
  serveCmd_keeps _ _ _ _ (specKeeps_none rfl) (fun p t h => bodyFragmentTableRead_keeps p t h) hs

end Sys2Proof.Machine
end

