-- ==== Sys2Proof/Laws/KeepGranary.lean ====
section
/-! SUPPORT. What the operations of Machine/Granary.lean keep. -/

namespace Sys2Proof.Machine

theorem macCtr_keeps (p k n : Nat) (s : State) {b0 : Base} (hs : Keeps b0 s) : Keeps b0 (macCtr p k n s) := by
  unfold macCtr
  repeat' (first
      | with_reducible assumption | with_reducible apply modPort_keeps | with_reducible apply fire_keeps | with_reducible apply keeps_ite)

theorem modGran_keeps (g : Granary → Granary) (s : State) {b0 : Base} (hs : Keeps b0 s) : Keeps b0 (modGran g s) := by
  unfold modGran
  repeat' (first
      | with_reducible assumption | (fail_if_no_progress refine Keeps.upd id id id id id id id id id id id id id id id id ?_))

theorem modDeep_keeps (g : Deep → Deep) (s : State) {b0 : Base} (hs : Keeps b0 s) : Keeps b0 (modDeep g s) := by
  unfold modDeep
  repeat' (first | with_reducible assumption | (fail_if_no_progress refine Keeps.upd id id id id id id id id id id id id id id id id ?_))

theorem modGle_keeps (g : Gleaner → Gleaner) (s : State) {b0 : Base} (hs : Keeps b0 s) : Keeps b0 (modGle g s) := by
  unfold modGle
  repeat' (first | with_reducible assumption | (fail_if_no_progress refine Keeps.upd id id id id id id id id id id id id id id id id ?_))

theorem modHalf_keeps (h : Nat) (g : Half → Half) (s : State) {b0 : Base} (hs : Keeps b0 s) : Keeps b0 (modHalf h g s) := by
  unfold modHalf
  repeat' (first | with_reducible assumption | with_reducible apply modGran_keeps | with_reducible apply keeps_ite)

theorem gctr_keeps (k h : Nat) (s : State) {b0 : Base} (hs : Keeps b0 s) : Keeps b0 (gctr k h s) := by
  unfold gctr
  repeat' (first | with_reducible assumption | with_reducible apply modHalf_keeps)

theorem gctrN_keeps (k n h : Nat) (s : State) {b0 : Base} (hs : Keeps b0 s) : Keeps b0 (gctrN k n h s) := by
  unfold gctrN
  repeat' (first | with_reducible assumption | with_reducible apply modHalf_keeps)

theorem listFail_keeps (h : Nat) (cell : Nat) (cause : Nat) (s : State) {b0 : Base} (hs : Keeps b0 s) : Keeps b0 (listFail h cell cause s) := by
  unfold listFail
  try dsimp only
  repeat' (first
      | with_reducible assumption | with_reducible apply modHalf_keeps | with_reducible apply memUnc_keeps | with_reducible apply gctr_keeps
      | with_reducible apply fire_keeps | with_reducible apply keeps_ite)

theorem takeCell_keeps (h : Nat) (disturbed : Option Nat) (s : State) {b0 : Base} (hs : Keeps b0 s) : Keeps b0 (takeCell h disturbed s).2 := by
  unfold takeCell
  try dsimp only
  repeat' (first
      | with_reducible assumption | with_reducible apply listFail_keeps | with_reducible apply modHalf_keeps | with_reducible apply gctr_keeps
      | with_reducible apply keeps_ite | split)

theorem giveCell_keeps (h c : Nat) (s : State) {b0 : Base} (hs : Keeps b0 s) : Keeps b0 (giveCell h c s) := by
  unfold giveCell
  repeat' (first | with_reducible assumption | with_reducible apply modHalf_keeps | with_reducible apply gctr_keeps)

theorem descWatch_keeps (s : State) {b0 : Base} (hs : Keeps b0 s) : Keeps b0 (descWatch s) := by
  unfold descWatch
  repeat' (first
      | with_reducible assumption | with_reducible apply modGran_keeps | with_reducible apply fire_keeps | with_reducible apply keeps_ite)

theorem takeDesc_keeps (s : State) {b0 : Base} (hs : Keeps b0 s) : Keeps b0 (takeDesc s).2 := by
  unfold takeDesc
  repeat' (first | with_reducible assumption | with_reducible apply descWatch_keeps | with_reducible apply modGran_keeps | split)

theorem giveDesc_keeps (d : Nat) (s : State) {b0 : Base} (hs : Keeps b0 s) : Keeps b0 (giveDesc d s) := by
  unfold giveDesc
  repeat' (first | with_reducible assumption | with_reducible apply descWatch_keeps | with_reducible apply modGran_keeps)

theorem modQueue_keeps (q : Nat) (g : Queue → Queue) (s : State) {b0 : Base} (hs : Keeps b0 s) : Keeps b0 (modQueue q g s) := by
  unfold modQueue
  repeat' (first | with_reducible assumption | with_reducible apply modGran_keeps)

theorem chargeLevel_keeps (h lvl k p : Nat) (host up : Bool) (s : State) {b0 : Base} (hs : Keeps b0 s) : Keeps b0 (chargeLevel h lvl k p host up s) := by
  unfold chargeLevel
  repeat' (first | with_reducible assumption | with_reducible apply modHalf_keeps)

theorem countCell_keeps (q k h : Nat) (up : Bool) (s : State) {b0 : Base} (hs : Keeps b0 s) : Keeps b0 (countCell q k h up s) := by
  unfold countCell
  repeat' (first
      | with_reducible assumption | with_reducible apply modQueue_keeps | with_reducible apply modGran_keeps | with_reducible apply keeps_ite)

theorem modCopy_keeps (u h : Nat) (g : Copy → Copy) (s : State) {b0 : Base} (hs : Keeps b0 s) : Keeps b0 (modCopy u h g s) := by
  unfold modCopy
  repeat' (first | with_reducible assumption | with_reducible apply modFrame_keeps)

theorem setLane_keeps (f key : Nat) (l : List Entry) (s : State) {b0 : Base} (hs : Keeps b0 s) : Keeps b0 (setLane f key l s) := by
  unfold setLane
  repeat' (first | with_reducible assumption | with_reducible apply modFur_keeps)

theorem xctr_keeps (k n f : Nat) (s : State) {b0 : Base} (hs : Keeps b0 s) : Keeps b0 (xctr k n f s) := by
  unfold xctr
  repeat' (first | with_reducible assumption | with_reducible apply modFur_keeps)

theorem reap_keeps (u : Nat) (s : State) {b0 : Base} (hs : Keeps b0 s) : Keeps b0 (reap u s) := by
  unfold reap
  try dsimp only
  repeat' (first
      | with_reducible assumption | with_reducible apply modFrame_keeps | with_reducible apply modQueue_keeps
      | (intro h; (try dsimp only); exact rising_tdel _ h) | with_reducible apply keeps_ite | (intro _; intros) | split
      | (refine keeps_snd (by assumption) ?_) | (fail_if_no_progress with_reducible apply Keeps.upd))

theorem freeCopy_keeps (u : Nat) (h : Nat) (s : State) {b0 : Base} (hs : Keeps b0 s) : Keeps b0 (freeCopy u h s) := by
  unfold freeCopy
  try dsimp only
  repeat' (first
      | with_reducible assumption | with_reducible apply chargeLevel_keeps | with_reducible apply countCell_keeps
      | with_reducible apply giveCell_keeps | with_reducible apply giveDesc_keeps | with_reducible apply modFrame_keeps
      | with_reducible apply reap_keeps | with_reducible apply modHalf_keeps | with_reducible apply keeps_foldl | with_reducible apply keeps_ite
      | (intro _; intros) | split | (fail_if_no_progress refine Keeps.upd id id id id id id id id id id id id id id id id ?_))

theorem serveReturn_keeps (h : Nat) (s : State) {b0 : Base} (hs : Keeps b0 s) : Keeps b0 (serveReturn h s) := by
  unfold serveReturn
  try dsimp only
  repeat' (first
      | with_reducible assumption | with_reducible apply giveCell_keeps | with_reducible apply chargeLevel_keeps
      | with_reducible apply modHalf_keeps | with_reducible apply countCell_keeps | with_reducible apply keeps_ite | (intro _; intros) | split
      | (fail_if_no_progress refine Keeps.upd id id id id id id id id id id id id id id id id ?_))

theorem dropEntries_keeps (u h f : Nat) (keepStarted : Bool) (s : State) {b0 : Base} (hs : Keeps b0 s) : Keeps b0 (dropEntries u h f keepStarted s) := by
  unfold dropEntries
  repeat' (first | with_reducible assumption | with_reducible apply modFur_keeps)

theorem noteRest_keeps (u : Nat) (s : State) {b0 : Base} (hs : Keeps b0 s) : Keeps b0 (noteRest u s) := by
  unfold noteRest
  try dsimp only
  repeat' (first
      | with_reducible assumption | with_reducible apply modFrame_keeps | with_reducible apply keeps_ite | (intro _; intros) | split
      | (fail_if_no_progress refine Keeps.upd id id id id id id id id id id id id id id id id ?_))

theorem tryReturn_keeps (u : Nat) (h : Nat) (s : State) {b0 : Base} (hs : Keeps b0 s) : Keeps b0 (tryReturn u h s) := by
  unfold tryReturn
  try dsimp only
  repeat' (first
      | with_reducible assumption | with_reducible apply reap_keeps | with_reducible apply freeCopy_keeps | with_reducible apply noteRest_keeps
      | with_reducible apply complete_keeps | with_reducible apply keeps_ite | split)

theorem unqueue_keeps (u : Nat) (s : State) {b0 : Base} (hs : Keeps b0 s) : Keeps b0 (unqueue u s) := by
  unfold unqueue
  try dsimp only
  repeat' (first
      | with_reducible assumption | with_reducible apply modQueue_keeps | with_reducible apply modFrame_keeps | with_reducible apply keeps_ite
      | (intro _; intros) | split | (fail_if_no_progress refine Keeps.upd id id id id id id id id id id id id id id id id ?_))

theorem ringAdvance_keeps (n : Nat) (z0 : Nat) (z1 : State) {b0 : Base} (hz1 : Keeps b0 z1) : Keeps b0 (ringAdvance n z0 z1) := by
  induction z0 generalizing z1 with
  | zero => exact hz1
  | succ k ih =>
    unfold ringAdvance
    dsimp only
    split
    · exact hz1
    split
    · exact keeps_ite hz1 (ih _ (modDeep_keeps _ _ hz1))
    · exact ih _ (modDeep_keeps _ _ hz1)

theorem trainGo_keeps (s : State) {b0 : Base} (hs : Keeps b0 s) : Keeps b0 (trainGo s) := by
  unfold trainGo
  try dsimp only
  repeat' (first
      | with_reducible assumption | with_reducible apply modDeep_keeps | with_reducible apply keeps_ite | (intro _; intros) | split
      | (fail_if_no_progress refine Keeps.upd id id id id id id id id id id id id id id id id ?_))

theorem freeSpill_keeps (u : Nat) (s : State) {b0 : Base} (hs : Keeps b0 s) : Keeps b0 (freeSpill u s) := by
  unfold freeSpill
  try dsimp only
  repeat' (first
      | with_reducible assumption | with_reducible apply modQueue_keeps | with_reducible apply ringAdvance_keeps
      | with_reducible apply modDeep_keeps | with_reducible apply trainGo_keeps | with_reducible apply tryReturn_keeps
      | with_reducible apply modFrame_keeps | with_reducible apply keeps_ite | (intro _; intros) | split | (refine keeps_snd (by assumption) ?_)
      | (fail_if_no_progress refine Keeps.upd id id id id id id id id id id id id id id id id ?_))

theorem spillGone_keeps (u : Nat) (s : State) {b0 : Base} (hs : Keeps b0 s) : Keeps b0 (spillGone u s) := by
  unfold spillGone
  try dsimp only
  repeat' (first
      | with_reducible assumption | with_reducible apply modDeep_keeps | with_reducible apply freeSpill_keeps | with_reducible apply keeps_ite
      | (intro _; intros) | split | (fail_if_no_progress refine Keeps.upd id id id id id id id id id id id id id id id id ?_))

theorem cutSpillEntries_keeps (u : Nat) (s : State) {b0 : Base} (hs : Keeps b0 s) : Keeps b0 (cutSpillEntries u s) := by
  unfold cutSpillEntries
  try dsimp only
  repeat' (first
      | with_reducible assumption | with_reducible apply modFur_keeps | with_reducible apply keeps_ite | (intro _; intros)
      | (fail_if_no_progress refine Keeps.upd id id id id id id id id id id id id id id id id ?_))

theorem unspill_keeps (u : Nat) (s : State) {b0 : Base} (hs : Keeps b0 s) : Keeps b0 (unspill u s) := by
  unfold unspill
  try dsimp only
  repeat' (first
      | with_reducible assumption | with_reducible apply freeSpill_keeps | with_reducible apply cutSpillEntries_keeps
      | with_reducible apply keeps_ite)

theorem unhold_keeps (u : Nat) (h : Nat) (s : State) {b0 : Base} (hs : Keeps b0 s) : Keeps b0 (unhold u h s) := by
  unfold unhold
  repeat' (first | with_reducible assumption | with_reducible apply unspill_keeps | with_reducible apply unqueue_keeps | with_reducible apply keeps_ite)

theorem dropCopy_keeps (u : Nat) (h : Nat) (s : State) {b0 : Base} (hs : Keeps b0 s) : Keeps b0 (dropCopy u h s) := by
  unfold dropCopy
  repeat' (first
      | with_reducible assumption | with_reducible apply dropEntries_keeps | with_reducible apply freeCopy_keeps
      | with_reducible apply unqueue_keeps | with_reducible apply unhold_keeps | with_reducible apply keeps_ite)

theorem loseFirst_keeps (u : Nat) (h : Nat) (s : State) {b0 : Base} (hs : Keeps b0 s) : Keeps b0 (loseFirst u h s) := by
  unfold loseFirst
  try dsimp only
  repeat' (first
      | with_reducible assumption | with_reducible apply dropCopy_keeps | with_reducible apply modCopy_keeps | (intro _; intros)
      | (fail_if_no_progress refine Keeps.upd id id id id id id id id id id id id id id id id ?_))

theorem singleWrite_keeps (s : State) {b0 : Base} (hs : Keeps b0 s) : Keeps b0 (singleWrite s) := by
  unfold singleWrite
  repeat' (first | with_reducible assumption | with_reducible apply fireMs_keeps | with_reducible apply gctr_keeps)

theorem loseOne_keeps (u : Nat) (h : Nat) (s : State) {b0 : Base} (hs : Keeps b0 s) : Keeps b0 (loseOne u h s) := by
  unfold loseOne
  try dsimp only
  repeat' (first | with_reducible assumption | with_reducible apply singleWrite_keeps | with_reducible apply loseFirst_keeps | with_reducible apply keeps_ite)

theorem countTail_keeps (u : Nat) (f : Nat) (cause : Nat) (s : State) {b0 : Base} (hs : Keeps b0 s) : Keeps b0 (countTail u f cause s) := by
  unfold countTail
  try dsimp only
  repeat' (first
      | with_reducible assumption | with_reducible apply xctr_keeps | with_reducible apply fireFurMs_keeps | with_reducible apply modFrame_keeps
      | with_reducible apply keeps_ite | (intro _; intros)
      | (fail_if_no_progress refine Keeps.upd id id id id id id id id id id id id id id id id ?_))

theorem offerMirrors_keeps (u : Nat) (h : Nat) (f : Nat) (s : State) {b0 : Base} (hs : Keeps b0 s) : Keeps b0 (offerMirrors u h f s) := by
  unfold offerMirrors
  try dsimp only
  repeat' (first
      | with_reducible assumption | with_reducible apply xctr_keeps | with_reducible apply modFur_keeps | with_reducible apply keeps_foldl
      | with_reducible apply keeps_foldl_snd | with_reducible apply keeps_ite | (intro _; intros)
      | (fail_if_no_progress refine Keeps.upd id id id id id id id id id id id id id id id id ?_))

theorem gleanNote_keeps (u : Nat) (g : GlXfer → GlXfer) (s : State) {b0 : Base} (hs : Keeps b0 s) : Keeps b0 (gleanNote u g s) := by
  unfold gleanNote
  try dsimp only
  repeat' (first
      | with_reducible assumption | with_reducible apply modGle_keeps | with_reducible apply keeps_ite | (intro _; intros)
      | (fail_if_no_progress refine Keeps.upd id id id id id id id id id id id id id id id id ?_))

theorem tailCopy_keeps (u : Nat) (h : Nat) (cause : Nat) (n : Nat) (s : State) {b0 : Base} (hs : Keeps b0 s) : Keeps b0 (tailCopy u h cause n s) := by
  unfold tailCopy
  try dsimp only
  repeat' (first
      | with_reducible assumption | with_reducible apply dropEntries_keeps | with_reducible apply xctr_keeps | with_reducible apply modCopy_keeps
      | with_reducible apply complete_keeps | with_reducible apply tryReturn_keeps | with_reducible apply fireFurMs_keeps
      | with_reducible apply offerMirrors_keeps | with_reducible apply countTail_keeps | with_reducible apply gleanNote_keeps
      | with_reducible apply keeps_ite | (intro _; intros) | split | with_reducible apply keeps_foldl | with_reducible apply keeps_foldl_snd
      | (fail_if_no_progress refine Keeps.upd id id id id id id id id id id id id id id id id ?_))

theorem allocEvent_keeps (p k lvl : Nat) (s : State) {b0 : Base} (hs : Keeps b0 s) : Keeps b0 (allocEvent p k lvl s) := by
  unfold allocEvent
  repeat' (first | with_reducible assumption | with_reducible apply fireMs_keeps)

theorem limitEvent_keeps (handle : Nat) (s : State) {b0 : Base} (hs : Keeps b0 s) : Keeps b0 (limitEvent handle s) := by
  unfold limitEvent
  repeat' (first | with_reducible assumption | with_reducible apply fireMs_keeps)

theorem hostTxDone_keeps (slot : Nat) (result : Nat) (s : State) {b0 : Base} (hs : Keeps b0 s) : Keeps b0 (hostTxDone slot result s) := by
  unfold hostTxDone
  repeat' (first | with_reducible assumption | with_reducible apply signalVec_keeps | with_reducible apply emitOut_keeps)

theorem askFails_keeps (u : Nat) (h : Nat) (a : Ask) (s0 : State) {b0 : Base} (hs0 : Keeps b0 s0) : Keeps b0 (askFails u h a s0) := by
  unfold askFails
  try dsimp only
  repeat' (first
      | with_reducible assumption | with_reducible apply modFrame_keeps | with_reducible apply hostTxDone_keeps
      | with_reducible apply dropCopy_keeps | (intro _; intros) | split
      | (fail_if_no_progress refine Keeps.upd id id id id id id id id id id id id id id id id ?_))

theorem requestFails_keeps (u : Nat) (h : Nat) (lvl : Nat) (room : Bool) (limit : Bool) (first : Bool) (s : State) {b0 : Base} (hs : Keeps b0 s) : Keeps b0 (requestFails u h lvl room limit first s) := by
  unfold requestFails
  try dsimp only
  repeat' (first
      | with_reducible assumption | with_reducible apply limitEvent_keeps | with_reducible apply allocEvent_keeps
      | with_reducible apply fireMs_keeps | with_reducible apply gctr_keeps | with_reducible apply dropCopy_keeps
      | with_reducible apply modQueue_keeps | with_reducible apply tailCopy_keeps | with_reducible apply loseFirst_keeps
      | with_reducible apply loseOne_keeps | with_reducible apply askFails_keeps | with_reducible apply keeps_ite | (intro _; intros) | split
      | (fail_if_no_progress refine Keeps.upd id id id id id id id id id id id id id id id id ?_))

theorem countPause_keeps (p k : Nat) (s : State) {b0 : Base} (hs : Keeps b0 s) : Keeps b0 (countPause p k s) := by
  unfold countPause
  repeat' (first | with_reducible assumption | with_reducible apply macCtr_keeps)

theorem pauseTx_keeps (p k : Nat) (s : State) {b0 : Base} (hs : Keeps b0 s) : Keeps b0 (pauseTx p k s) := by
  unfold pauseTx
  try dsimp only
  repeat' (first
      | with_reducible assumption | with_reducible apply takeFree_keeps | with_reducible apply countPause_keeps
      | with_reducible apply emitOut_keeps | with_reducible apply keeps_ite | (intro _; intros) | split)

theorem noDescriptor_keeps (u : Nat) (h : Nat) (s : State) {b0 : Base} (hs : Keeps b0 s) : Keeps b0 (noDescriptor u h s) := by
  unfold noDescriptor
  try dsimp only
  repeat' (first
      | with_reducible assumption | with_reducible apply gctr_keeps | with_reducible apply dropCopy_keeps | with_reducible apply fireMs_keeps
      | with_reducible apply loseFirst_keeps | with_reducible apply askFails_keeps | with_reducible apply loseOne_keeps
      | with_reducible apply keeps_ite | split)

theorem serveReq_keeps (h u : Nat) (disturbed : Option Nat) (s : State) {b0 : Base} (hs : Keeps b0 s) : Keeps b0 (serveReq h u disturbed s) := by
  unfold serveReq
  dsimp only
  refine keeps_ite (requestFails_keeps _ _ _ _ _ _ _ hs) ?_
  split
  · exact requestFails_keeps _ _ _ _ _ _ _ hs
  · exact requestFails_keeps _ _ _ _ _ _ _ hs
  rename_i l _
  refine keeps_ite (loseFirst_keeps _ _ _ hs) (keeps_ite (noDescriptor_keeps _ _ _ hs) ?_)
  split
  · rename_i heq
    exact requestFails_keeps _ _ _ _ _ _ _ (keeps_snd heq (takeCell_keeps _ _ _ hs))
  rename_i heq
  have h1 := keeps_snd heq (takeCell_keeps _ _ _ hs)
  have h2 : Keeps b0 (if ((copyOf (frame s u) h).getD {}).cells.isEmpty then takeDesc _ else (((copyOf (frame s u) h).getD {}).desc, _)).2 :=
    keeps_ite_snd (takeDesc_keeps _ h1) h1
  have h3 := fun k p z y g => modCopy_keeps u h g _ (chargeLevel_keeps h l k p z y _ h2)
  have h4 := fun k p z y g (c : Bool) => keeps_ite (c := c = true) (singleWrite_keeps _ (h3 k p z y g)) (h3 k p z y g)
  refine keeps_ite (pauseTx_keeps _ _ _ ?_) ?_ <;> exact keeps_ite (h4 _ _ _ _ _ _) (countCell_keeps _ _ _ _ _ (h4 _ _ _ _ _ _))

theorem execRebuildScanComplete_keeps (h : Nat) (bad : List Nat) (s : State) {b0 : Base} (hs : Keeps b0 s) : OutKeeps b0 (execRebuildScanComplete h bad s) := by
  unfold execRebuildScanComplete
  try dsimp only
  repeat' (first
      | with_reducible assumption | with_reducible apply modHalf_keeps | with_reducible apply gctr_keeps | with_reducible apply fire_keeps
      | with_reducible apply next_keeps | with_reducible apply keeps_foldl | with_reducible apply outKeeps_next | (intro _; intros) | split
      | with_reducible apply keeps_foldl_snd | with_reducible apply outKeeps_ite | with_reducible apply keeps_ite
      | (fail_if_no_progress refine Keeps.upd id id id id id id id id id id id id id id id id ?_))

theorem laneFullDrop_keeps (u : Nat) (s : State) {b0 : Base} (hs : Keeps b0 s) : Keeps b0 (laneFullDrop u s) := by
  unfold laneFullDrop
  try dsimp only
  repeat' (first
      | with_reducible assumption | with_reducible apply fireMs_keeps | with_reducible apply gctr_keeps | with_reducible apply modFrame_keeps
      | with_reducible apply keeps_ite | (intro _; intros)
      | (fail_if_no_progress refine Keeps.upd id id id id id id id id id id id id id id id id ?_))

theorem residenceCheck_keeps (f key : Nat) (s : State) {b0 : Base} (hs : Keeps b0 s) : Keeps b0 (residenceCheck f key s) := by
  unfold residenceCheck
  repeat' (first
      | with_reducible assumption | with_reducible apply tryReturn_keeps | with_reducible apply modQueue_keeps
      | with_reducible apply setLane_keeps | with_reducible apply modCopy_keeps | with_reducible apply fireMs_keeps
      | with_reducible apply gctr_keeps | with_reducible apply keeps_ite | split)

theorem bodyPoolRead_keeps (p : Packet) (s : State) {b0 : Base} (hs : Keeps b0 s) : ResKeeps b0 (bodyPoolRead p s) := by
  unfold bodyPoolRead
  try dsimp only
  repeat' (first
      | with_reducible assumption | with_reducible apply checked_keeps | with_reducible apply touchPort_keeps | exact trivial
      | with_reducible apply resKeeps_ok | with_reducible apply resKeeps_final | with_reducible apply resKeeps_accepted
      | with_reducible apply resKeeps_ite | (intro _; intros) | split)

theorem execPoolRead_keeps (p : Packet) (s : State) {b0 : Base} (hs : Keeps b0 s) : OutKeeps b0 (execPoolRead p s) := 
  serveCmd_keeps _ _ _ _ (specKeeps_none rfl) (fun p t h => bodyPoolRead_keeps p t h) hs

theorem bodyResidenceLimitSet_keeps (p : Packet) (s : State) {b0 : Base} (hs : Keeps b0 s) : ResKeeps b0 (bodyResidenceLimitSet p s) := by
  unfold bodyResidenceLimitSet
  repeat' (first
      | with_reducible assumption | with_reducible apply checked_keeps | with_reducible apply modGran_keeps | with_reducible apply resKeeps_ok)

theorem execResidenceLimitSet_keeps (p : Packet) (s : State) {b0 : Base} (hs : Keeps b0 s) : OutKeeps b0 (execResidenceLimitSet p s) := 
  serveCmd_keeps _ _ _ _ (specKeeps_none rfl) (fun p t h => bodyResidenceLimitSet_keeps p t h) hs

end Sys2Proof.Machine
end

