-- ==== Sys2Proof/Laws/KeepMeter.lean ====
section
/-! SUPPORT. What the operations of Machine/Meter.lean keep. -/

namespace Sys2Proof.Machine

theorem modDrill_keeps (p : Nat) (g : Drill → Drill) (s : State) {b0 : Base} (hs : Keeps b0 s) : Keeps b0 (modDrill p g s) := by
  unfold modDrill
  repeat' (first | with_reducible assumption | with_reducible apply modPort_keeps)

theorem dctrN_keeps (k n p : Nat) (s : State) {b0 : Base} (hs : Keeps b0 s) : Keeps b0 (dctrN k n p s) := by
  unfold dctrN
  repeat' (first | with_reducible assumption | with_reducible apply modDrill_keeps)

theorem dctr_keeps (k p : Nat) (s : State) {b0 : Base} (hs : Keeps b0 s) : Keeps b0 (dctr k p s) := by
  unfold dctr
  repeat' (first | with_reducible assumption | with_reducible apply dctrN_keeps)

theorem drillFind_keeps (p cause : Nat) (payload : List Byte) (s : State) {b0 : Base} (hs : Keeps b0 s) : Keeps b0 (drillFind p cause payload s) := by
  unfold drillFind
  repeat' (first | with_reducible assumption | with_reducible apply fireMs_keeps)

theorem modMeter_keeps (i : Nat) (g : Meter → Meter) (s : State) {b0 : Base} (hs : Keeps b0 s) : Keeps b0 (modMeter i g s) := hs.meters (canon_tmod _ _ hs.wf_meters)

theorem meterFault_keeps (i by_ : Nat) (s : State) {b0 : Base} (hs : Keeps b0 s) : Keeps b0 (meterFault i by_ s) := by
  unfold meterFault
  try dsimp only
  repeat' (first
      | with_reducible assumption | with_reducible apply modMeter_keeps | with_reducible apply memUnc_keeps
      | with_reducible apply drillFind_keeps | with_reducible apply fire_keeps | with_reducible apply keeps_ite | split)

theorem meterBlock_keeps (i p : Nat) (s : State) {b0 : Base} (hs : Keeps b0 s) : Keeps b0 (meterBlock i p s) := by
  unfold meterBlock
  repeat' (first | with_reducible assumption | with_reducible apply drillFind_keeps | with_reducible apply modMeter_keeps)

theorem meterStep_keeps (i : Nat) (x : Frame) (cls e : Nat) (bad : Bool) (r : Metered) (s : State) {b0 : Base} (hs : Keeps b0 s) : Keeps b0 (meterStep i x cls e bad r s).2 := by
  unfold meterStep
  repeat' (first
      | with_reducible assumption | with_reducible apply meterBlock_keeps | with_reducible apply meterFault_keeps
      | with_reducible apply modMeter_keeps | (intro h; (try dsimp only); exact canon_tset _ _ h) | with_reducible apply keeps_ite
      | with_reducible apply keeps_ite_snd | (intro _; intros) | (fail_if_no_progress with_reducible apply Keeps.upd))

theorem meterFrame_keeps (x : Frame) (cls metr : Nat) (badS badC : Bool) (s0 : State) {b0 : Base} (hs0 : Keeps b0 s0) : Keeps b0 (meterFrame x cls metr badS badC s0).2 := by
  unfold meterFrame
  repeat' (first
      | with_reducible assumption | with_reducible apply meterBlock_keeps | with_reducible apply meterStep_keeps
      | with_reducible apply modMeter_keeps | with_reducible apply keeps_ite | with_reducible apply keeps_ite_snd
      | (fail_if_no_progress refine Keeps.upd id id id id id id id id id id id id id id id id ?_))

theorem meterCorrect_keeps (x : Frame) (e l : Nat) (s : State) {b0 : Base} (hs : Keeps b0 s) : Keeps b0 (meterCorrect x e l s) := by
  unfold meterCorrect
  repeat' (first
      | with_reducible assumption | with_reducible apply modMeter_keeps | with_reducible apply keeps_foldl | (intro _; intros))

theorem bodyMeterSet_keeps (p : Packet) (s : State) {b0 : Base} (hs : Keeps b0 s) : ResKeeps b0 (bodyMeterSet p s) := by
  unfold bodyMeterSet
  try dsimp only
  repeat' (first
      | with_reducible assumption | with_reducible apply unlessUpset_keeps | with_reducible apply meterFault_keeps
      | with_reducible apply touchPort_keeps | with_reducible apply touchPorts_keeps | with_reducible apply modDrill_keeps
      | with_reducible apply checked_keeps | with_reducible apply memUnc_keeps | with_reducible apply modMeter_keeps
      | with_reducible apply resKeeps_ok | exact trivial
      | (refine Keeps.meters (by assumption) ?_; exact canon_tset _ _ (Keeps.wf_meters (by assumption))) | with_reducible apply keeps_ite
      | (intro _; intros) | split | with_reducible apply resKeeps_ite | with_reducible apply resKeeps_final
      | with_reducible apply resKeeps_accepted | (fail_if_no_progress unfold checked) | trivial
      | (fail_if_no_progress refine Keeps.upd id id id id id id id id id id id id id id id id ?_))

theorem execMeterSet_keeps (p : Packet) (s : State) {b0 : Base} (hs : Keeps b0 s) : OutKeeps b0 (execMeterSet p s) := 
  serveCmd_keeps _ _ _ _ (specKeeps_none rfl) (fun p t h => bodyMeterSet_keeps p t h) hs

end Sys2Proof.Machine
end

