-- ==== Sys2Proof/Laws/KeepWinnow.lean ====
section
/-! SUPPORT. What the operations of Machine/Winnow.lean keep. -/

namespace Sys2Proof.Machine

theorem wctr_keeps (k p : Nat) (s : State) {b0 : Base} (hs : Keeps b0 s) : Keeps b0 (wctr k p s) := by
  unfold wctr
  repeat' (first | with_reducible assumption | with_reducible apply modPort_keeps)

theorem modWin_keeps (p : Nat) (g : Winnow → Winnow) (s : State) {b0 : Base} (hs : Keeps b0 s) : Keeps b0 (modWin p g s) := by
  unfold modWin
  repeat' (first | with_reducible assumption | with_reducible apply modPort_keeps)

theorem modEg_keeps (p u i : Nat) (g : EgCopy → EgCopy) (s : State) {b0 : Base} (hs : Keeps b0 s) : Keeps b0 (modEg p u i g s) := by
  unfold modEg
  repeat' (first | with_reducible assumption | with_reducible apply modDrill_keeps)

theorem closeEntry_keeps (p : Nat) (c : EgCopy) (s : State) {b0 : Base} (hs : Keeps b0 s) : Keeps b0 (closeEntry p c s) := by
  unfold closeEntry
  try dsimp only
  repeat' (first
      | with_reducible assumption | with_reducible apply tryReturn_keeps | with_reducible apply modCopy_keeps | with_reducible apply modFur_keeps
      | with_reducible apply keeps_foldl | (intro _; intros) | with_reducible apply keeps_foldl_snd | with_reducible apply keeps_ite | split
      | (refine keeps_snd (by assumption) ?_) | (fail_if_no_progress refine Keeps.upd id id id id id id id id id id id id id id id id ?_))

theorem removeEg_keeps (p : Nat) (c : EgCopy) (s : State) {b0 : Base} (hs : Keeps b0 s) : Keeps b0 (removeEg p c s) := by
  unfold removeEg
  repeat' (first
      | with_reducible assumption | with_reducible apply closeEntry_keeps | with_reducible apply modDrill_keeps
      | with_reducible apply reap_keeps)

theorem enqueueEg_keeps (p u i : Nat) (s : State) {b0 : Base} (hs : Keeps b0 s) : Keeps b0 (enqueueEg p u i s) := by
  unfold enqueueEg
  repeat' (first | with_reducible assumption | with_reducible apply modDrill_keeps | with_reducible apply modEg_keeps | split)

theorem clearHolds_keeps (p : Nat) (kind : Nat) (key : Nat) (s : State) {b0 : Base} (hs : Keeps b0 s) : Keeps b0 (clearHolds p kind key s) := by
  unfold clearHolds
  try dsimp only
  repeat' (first
      | with_reducible assumption | with_reducible apply modDrill_keeps | with_reducible apply keeps_ite | (intro _; intros)
      | (fail_if_no_progress refine Keeps.upd id id id id id id id id id id id id id id id id ?_))

theorem addHold_keeps (p : Nat) (u : Nat) (i : Nat) (h : Hold) (s : State) {b0 : Base} (hs : Keeps b0 s) : Keeps b0 (addHold p u i h s) := by
  unfold addHold
  try dsimp only
  repeat' (first
      | with_reducible assumption | with_reducible apply modEg_keeps | (intro _; intros)
      | (fail_if_no_progress refine Keeps.upd id id id id id id id id id id id id id id id id ?_))

theorem ruleSlot_keeps (p : Nat) (u : Nat) (i : Nat) (f : Nat) (kind : Nat) (key : Nat) (slot : Nat) (st : Nat) (set : Nat → State → State) (cPass : Nat) (cDup : Nat) (s : State) {b0 : Base} (hset : ∀ (t0 : Nat) (t1 : State), Keeps b0 t1 → Keeps b0 (set t0 t1)) (hs : Keeps b0 s) : Keeps b0 (ruleSlot p u i f kind key slot st set cPass cDup s).2 := by
  unfold ruleSlot
  try dsimp only
  repeat' (first
      | with_reducible assumption | with_reducible apply addHold_keeps | with_reducible apply wctr_keeps | with_reducible apply hset | split
      | (refine keeps_snd (by assumption) ?_) | (fail_if_no_progress refine Keeps.upd id id id id id id id id id id id id id id id id ?_))

theorem setTwin_keeps (p i : Nat) (t : Twin) (s : State) {b0 : Base} (hs : Keeps b0 s) : Keeps b0 (setTwin p i t s) := by
  unfold setTwin
  repeat' (first | with_reducible assumption | with_reducible apply modWin_keeps)

theorem twinStale_keeps (p : Nat) (s : State) {b0 : Base} (hs : Keeps b0 s) : Keeps b0 (twinStale p s) := by
  unfold twinStale
  repeat' (first | with_reducible assumption | with_reducible apply fireMs_keeps | with_reducible apply wctr_keeps)

theorem checkTwin_keeps (p u i : Nat) (c : EgCopy) (x : Frame) (s : State) {b0 : Base} (hs : Keeps b0 s) : Keeps b0 (checkTwin p u i c x s).2 := by
  unfold checkTwin
  extract_lets now
  split; exact twinStale_keeps _ _ hs
  split; exact twinStale_keeps _ _ hs
  exact ruleSlot_keeps _ _ _ _ _ _ _ _ _ _ _ _ (fun v t ht => setTwin_keeps _ _ _ _ ht) (setTwin_keeps _ _ _ _ hs)

theorem modTurn_keeps (p k : Nat) (g : TurnEntry → TurnEntry) (s : State) {b0 : Base} (hs : Keeps b0 s) : Keeps b0 (modTurn p k g s) := by
  unfold modTurn
  repeat' (first | with_reducible assumption | with_reducible apply modWin_keeps)

theorem freeTurn_keeps (p : Nat) (k : Nat) (s : State) {b0 : Base} (hs : Keeps b0 s) : Keeps b0 (freeTurn p k s) := by
  unfold freeTurn
  try dsimp only
  repeat' (first
      | with_reducible assumption | with_reducible apply modWin_keeps | with_reducible apply clearHolds_keeps | (intro _; intros)
      | (fail_if_no_progress refine Keeps.upd id id id id id id id id id id id id id id id id ?_))

theorem turnSeen_keeps (p k : Nat) (s : State) {b0 : Base} (hs : Keeps b0 s) : Keeps b0 (turnSeen p k s) := by
  unfold turnSeen
  repeat' (first
      | with_reducible assumption | with_reducible apply freeTurn_keeps | with_reducible apply modTurn_keeps | with_reducible apply keeps_ite
      | split)

theorem turnRoom_keeps (p : Nat) (s : State) {b0 : Base} (hs : Keeps b0 s) : Keeps b0 (turnRoom p s) := by
  unfold turnRoom
  repeat' (first
      | with_reducible assumption | with_reducible apply freeTurn_keeps | with_reducible apply fireMs_keeps | with_reducible apply wctr_keeps
      | with_reducible apply keeps_ite | split)

theorem noteOrder_keeps (p : Nat) (c : EgCopy) (x : Frame) (s : State) {b0 : Base} (hs : Keeps b0 s) : Keeps b0 (noteOrder p c x s) := by
  unfold noteOrder
  repeat' (first
      | with_reducible assumption | with_reducible apply modWin_keeps | with_reducible apply wctr_keeps | with_reducible apply keeps_ite)

theorem checkTurn_keeps (p u i : Nat) (c : EgCopy) (x : Frame) (s : State) {b0 : Base} (hs : Keeps b0 s) : Keeps b0 (checkTurn p u i c x s).2 := by
  unfold checkTurn
  split
  · dsimp only
    split; exact modWin_keeps _ _ _ hs; exact hs
  extract_lets k s1 st
  have h1 : Keeps b0 s1 := by
    unfold s1; split; exact hs
    exact modWin_keeps _ _ _ (turnRoom_keeps _ _ hs)
  clear_value s1 st
  have hr := ruleSlot_keeps p u i c.fur 2 k x.tag st (fun v s => modTurn p k (fun e => { e with slot := v }) s) 5 6 s1
    (fun v t ht => modTurn_keeps _ _ _ _ ht) h1
  split
  · rename_i heq; rw [heq] at hr; exact noteOrder_keeps _ _ _ _ (turnSeen_keeps _ _ _ hr)
  · rename_i heq; rw [heq] at hr; exact turnSeen_keeps _ _ _ hr
  · exact hr

theorem modRed_keeps (g : Redund → Redund) (s : State) {b0 : Base} (hs : Keeps b0 s) : Keeps b0 (modRed g s) := by
  unfold modRed
  repeat' (first
      | with_reducible assumption | (fail_if_no_progress refine Keeps.upd id id id id id id id id id id id id id id id id ?_))

theorem modNode_keeps (proxy : Bool) (net src egress : Nat) (g : Node → Node) (s : State) {b0 : Base} (hs : Keeps b0 s) : Keeps b0 (modNode proxy net src egress g s) := by
  unfold modNode
  repeat' (first | with_reducible assumption | with_reducible apply modRed_keeps)

theorem nodeMake_keeps (proxy : Bool) (net src egress : Nat) (s : State) {b0 : Base} (hs : Keeps b0 s) : Keeps b0 (nodeMake proxy net src egress s) := by
  unfold nodeMake
  repeat' (first
      | with_reducible assumption | with_reducible apply fireMs_keeps | with_reducible apply wctr_keeps | with_reducible apply modRed_keeps
      | with_reducible apply keeps_ite | (intro _; intros) | split
      | (fail_if_no_progress refine Keeps.upd id id id id id id id id id id id id id id id id ?_))

theorem proxySeq_keeps (net src port_ : Nat) (s : State) {b0 : Base} (hs : Keeps b0 s) : Keeps b0 (proxySeq net src port_ s).2 := by
  unfold proxySeq
  try dsimp only
  repeat' (first | with_reducible assumption | with_reducible apply nodeMake_keeps | with_reducible apply modNode_keeps | split)

theorem nodeSlot_keeps (net src egress seq lan : Nat) (s : State) {b0 : Base} (hs : Keeps b0 s) : Keeps b0 (nodeSlot net src egress seq lan s).2 := by
  unfold nodeSlot
  extract_lets s1
  have h1 : Keeps b0 s1 := nodeMake_keeps _ _ _ _ _ hs
  clear_value s1
  split; exact h1
  exact modNode_keeps _ _ _ _ _ _ h1

theorem setNodeSlot_keeps (net src egress seq v : Nat) (s : State) {b0 : Base} (hs : Keeps b0 s) : Keeps b0 (setNodeSlot net src egress seq v s) := by
  unfold setNodeSlot
  repeat' (first | with_reducible assumption | with_reducible apply modNode_keeps)

theorem noteWrongLan_keeps (p : Nat) (x : Frame) (ps : Parsed) (s : State) {b0 : Base} (hs : Keeps b0 s) : Keeps b0 (noteWrongLan p x ps s) := by
  unfold noteWrongLan
  repeat' (first | with_reducible assumption | with_reducible apply fireMs_keeps | with_reducible apply wctr_keeps | with_reducible apply keeps_ite)

theorem checkPrp_keeps (p : Nat) (c : EgCopy) (x : Frame) (s : State) {b0 : Base} (hs : Keeps b0 s) : Keeps b0 (checkPrp p c x s).2 := by
  unfold checkPrp
  try dsimp only
  repeat' (first
      | with_reducible assumption | with_reducible apply wctr_keeps | with_reducible apply noteWrongLan_keeps
      | with_reducible apply modFrame_keeps | with_reducible apply keeps_ite_snd | with_reducible apply keeps_ite
      | (refine keeps_snd (by assumption) ?_) | (intro _; intros)
      | (fail_if_no_progress refine Keeps.upd id id id id id id id id id id id id id id id id ?_))

theorem checkHsr_keeps (p u i : Nat) (c : EgCopy) (x : Frame) (s : State) {b0 : Base} (hs : Keeps b0 s) : Keeps b0 (checkHsr p u i c x s).2 := by
  unfold checkHsr
  split; exact keeps_ite (wctr_keeps _ _ _ hs) hs
  extract_lets ps src ring other_ outside peer
  clear_value ps src ring other_ outside peer
  split; exact wctr_keeps _ _ _ hs
  split; exact wctr_keeps _ _ _ (fireMs_keeps _ _ _ _ _ (wctr_keeps _ _ _ hs))
  split
  · split
    · rename_i heq; exact wctr_keeps _ _ _ (keeps_snd heq (nodeSlot_keeps _ _ _ _ _ _ hs))
    · rename_i heq
      exact ruleSlot_keeps _ _ _ _ _ _ _ _ _ _ _ _ (fun v t ht => setNodeSlot_keeps _ _ _ _ _ _ ht) (keeps_snd heq (nodeSlot_keeps _ _ _ _ _ _ hs))
  · exact wctr_keeps _ _ _ hs

theorem modFrer_keeps (k : Nat) (g : FrerRec → FrerRec) (s : State) {b0 : Base} (hs : Keeps b0 s) : Keeps b0 (modFrer k g s) := by
  unfold modFrer
  repeat' (first | with_reducible assumption | with_reducible apply modRed_keeps)

theorem frerEvent_keeps (cause h p : Nat) (s : State) {b0 : Base} (hs : Keeps b0 s) : Keeps b0 (frerEvent cause h p s) := by
  unfold frerEvent
  repeat' (first | with_reducible assumption | with_reducible apply fireMs_keeps)

theorem frerDiscard_keeps (k p : Nat) (s : State) {b0 : Base} (hs : Keeps b0 s) : Keeps b0 (frerDiscard k p s) := by
  unfold frerDiscard
  repeat' (first | with_reducible assumption | with_reducible apply modFrer_keeps | with_reducible apply wctr_keeps)

theorem frerPass_keeps (k p : Nat) (s : State) {b0 : Base} (hs : Keeps b0 s) : Keeps b0 (frerPass k p s) := by
  unfold frerPass
  repeat' (first | with_reducible assumption | with_reducible apply modFrer_keeps | with_reducible apply wctr_keeps)

theorem checkFrer_keeps (p : Nat) (u : Nat) (i : Nat) (h : Nat) (c : EgCopy) (x : Frame) (s : State) {b0 : Base} (hs : Keeps b0 s) : Keeps b0 (checkFrer p u i h c x s).2 := by
  unfold checkFrer
  try dsimp only
  repeat' (first
      | with_reducible assumption | with_reducible apply frerDiscard_keeps | with_reducible apply frerEvent_keeps
      | with_reducible apply frerPass_keeps | with_reducible apply addHold_keeps | with_reducible apply modFrer_keeps
      | with_reducible apply wctr_keeps | with_reducible apply keeps_ite | with_reducible apply keeps_ite_snd | split | (intro _; intros)
      | (refine keeps_snd (by assumption) ?_) | (fail_if_no_progress refine Keeps.upd id id id id id id id id id id id id id id id id ?_))

theorem checkOne_keeps (k : Nat) (p : Nat) (u : Nat) (i : Nat) (s : State) {b0 : Base} (hs : Keeps b0 s) : Keeps b0 (checkOne k p u i s).2 := by
  unfold checkOne
  try dsimp only
  repeat' (first
      | with_reducible assumption | with_reducible apply checkFrer_keeps | with_reducible apply checkTwin_keeps
      | with_reducible apply checkTurn_keeps | with_reducible apply checkPrp_keeps | with_reducible apply checkHsr_keeps
      | with_reducible apply keeps_ite_snd | split | with_reducible apply keeps_ite | (refine keeps_snd (by assumption) ?_)
      | (fail_if_no_progress refine Keeps.upd id id id id id id id id id id id id id id id id ?_))

theorem holdSet_keeps (p : Nat) (h : Hold) (v : Nat) (s : State) {b0 : Base} (hs : Keeps b0 s) : Keeps b0 (holdSet p h v s) := by
  unfold holdSet
  try dsimp only
  repeat' (first
      | with_reducible assumption | with_reducible apply setNodeSlot_keeps | with_reducible apply modTurn_keeps
      | with_reducible apply setTwin_keeps | with_reducible apply modFrer_keeps | with_reducible apply keeps_ite | split | (intro _; intros)
      | (fail_if_no_progress refine Keeps.upd id id id id id id id id id id id id id id id id ?_))

theorem prpLaneOutcome_keeps (p : Nat) (h : Hold) (good : Bool) (s : State) {b0 : Base} (hs : Keeps b0 s) : Keeps b0 (prpLaneOutcome p h good s) := by
  unfold prpLaneOutcome
  try dsimp only
  repeat' (first
      | with_reducible assumption | with_reducible apply setNodeSlot_keeps | with_reducible apply tryReturn_keeps
      | with_reducible apply setLane_keeps | with_reducible apply modCopy_keeps | with_reducible apply wctr_keeps
      | with_reducible apply xctr_keeps | with_reducible apply holdSet_keeps | with_reducible apply keeps_ite | split | (intro _; intros)
      | (fail_if_no_progress refine Keeps.upd id id id id id id id id id id id id id id id id ?_))

theorem winDo_keeps (p : Nat) (z0 : Nat) (z1 : List WinWork) (z2 : State) {b0 : Base} (hz2 : Keeps b0 z2) : Keeps b0 (winDo p z0 z1 z2) := by
  induction z0 generalizing z1 z2 with
  | zero => exact hz2
  | succ n ih =>
    match z1 with
    | [] => exact hz2
    | .check u i [] :: w => exact ih _ _ (enqueueEg_keeps _ _ _ _ hz2)
    | .check u i (k :: ks) :: w =>
      have hc := checkOne_keeps k p u i z2 hz2
      unfold winDo
      split
      · rename_i heq; rw [heq] at hc; exact ih _ _ hc
      · rename_i heq; rw [heq] at hc
        refine ih _ _ (modEg_keeps _ _ _ _ _ ?_)
        split; exact wctr_keeps _ _ _ hc; exact hc
      · rename_i heq; rw [heq] at hc
        split; exact ih _ _ hc
        exact ih _ _ (removeEg_keeps _ _ _ hc)
    | .outcome c good :: w =>
      unfold winDo
      refine ih _ _ (keeps_foldl_snd (fun a h ha => ?_) hz2)
      extract_lets s0
      have hold : ∀ v, Keeps b0 (holdSet p h v s0) := fun v => holdSet_keeps _ _ _ _ ha
      clear_value s0
      split; exact prpLaneOutcome_keeps _ _ _ _ (hold _)
      split; exact hold _
      rename_i e _
      generalize kindCtr h.kind = y
      obtain ⟨cp, cd⟩ := y
      dsimp only
      generalize hg : holdSet p h (if good = true then 3 else if e.bad.isSome = true then 0 else 1 + e.fur) _ = s1
      have h1 : Keeps b0 s1 := hg ▸ hold _
      have hseen : ∀ t, Keeps b0 t → Keeps b0 (if h.kind = 2 then turnSeen p h.key t else t) := fun t ht => keeps_ite (turnSeen_keeps _ _ _ ht) ht
      split
      · exact hseen _ (removeEg_keeps _ _ _ (wctr_keeps _ _ _ (keeps_ite (modFrer_keeps _ _ _ h1) h1)))
      · have h2 := fun u i k => addHold_keeps p u i k _ h1
        have h4 := fun u i f k => modEg_keeps p u i f _ (wctr_keeps cp p _ (keeps_ite (c := h.kind = 1) (wctr_keeps 3 p _ (h2 u i k))
          (keeps_ite (c := h.kind = 5) (modFrer_keeps h.key (fun r => { r with passed := wrap32 (r.passed + 1) }) _ (h2 u i k)) (h2 u i k))))
        exact keeps_ite (noteOrder_keeps _ _ _ _ (hseen _ (h4 _ _ _ _))) (h4 _ _ _ _)

theorem winOutcome_keeps (p : Nat) (c : EgCopy) (good : Bool) (s : State) {b0 : Base} (hs : Keeps b0 s) : Keeps b0 (winOutcome p c good s) := by
  unfold winOutcome
  repeat' (first | with_reducible assumption | with_reducible apply winDo_keeps)

theorem discardEg_keeps (p : Nat) (c : EgCopy) (s : State) {b0 : Base} (hs : Keeps b0 s) : Keeps b0 (discardEg p c s) := by
  unfold discardEg
  repeat' (first
      | with_reducible assumption | with_reducible apply winOutcome_keeps | with_reducible apply removeEg_keeps
      | with_reducible apply turnSeen_keeps | with_reducible apply keeps_ite)

theorem winUncorrectable_keeps (p : Nat) (s : State) {b0 : Base} (hs : Keeps b0 s) : Keeps b0 (winUncorrectable p s) := by
  unfold winUncorrectable
  repeat' (first | with_reducible assumption | with_reducible apply fire_keeps | with_reducible apply memUnc_keeps)

theorem clearLaneHolds_keeps (net : Nat) (src : Nat) (p : Nat) (s : State) {b0 : Base} (hs : Keeps b0 s) : Keeps b0 (clearLaneHolds net src p s) := by
  unfold clearLaneHolds
  try dsimp only
  repeat' (first
      | with_reducible assumption | with_reducible apply modFur_keeps | with_reducible apply keeps_ite | (intro _; intros)
      | (fail_if_no_progress refine Keeps.upd id id id id id id id id id id id id id id id id ?_))

theorem nodeFault_keeps (proxy : Bool) (net : Nat) (src : Nat) (egress : Nat) (p : Nat) (s : State) {b0 : Base} (hs : Keeps b0 s) : Keeps b0 (nodeFault proxy net src egress p s) := by
  unfold nodeFault
  try dsimp only
  repeat' (first
      | with_reducible assumption | with_reducible apply winUncorrectable_keeps | with_reducible apply modRed_keeps
      | with_reducible apply clearLaneHolds_keeps | with_reducible apply clearHolds_keeps | with_reducible apply keeps_ite | (intro _; intros)
      | (fail_if_no_progress refine Keeps.upd id id id id id id id id id id id id id id id id ?_))

theorem frerFault_keeps (k : Nat) (p : Nat) (s : State) {b0 : Base} (hs : Keeps b0 s) : Keeps b0 (frerFault k p s) := by
  unfold frerFault
  try dsimp only
  repeat' (first
      | with_reducible assumption | with_reducible apply winUncorrectable_keeps | with_reducible apply wctr_keeps
      | with_reducible apply modFrer_keeps | with_reducible apply clearHolds_keeps | with_reducible apply keeps_ite | (intro _; intros)
      | (fail_if_no_progress refine Keeps.upd id id id id id id id id id id id id id id id id ?_))

theorem genFault_keeps (h : Nat) (s : State) {b0 : Base} (hs : Keeps b0 s) : Keeps b0 (genFault h s) := by
  unfold genFault
  try dsimp only
  repeat' (first
      | with_reducible assumption | with_reducible apply takeFree_keeps | with_reducible apply winUncorrectable_keeps
      | with_reducible apply modRed_keeps | with_reducible apply keeps_ite | (intro _; intros) | split | (refine keeps_snd (by assumption) ?_)
      | (fail_if_no_progress refine Keeps.upd id id id id id id id id id id id id id id id id ?_))

theorem entryUpset_keeps (p : Nat) (c : EgCopy) (s : State) {b0 : Base} (hs : Keeps b0 s) : Keeps b0 (entryUpset p c s) := by
  unfold entryUpset
  try dsimp only
  repeat' (first
      | with_reducible assumption | with_reducible apply fire_keeps | with_reducible apply memUnc_keeps | with_reducible apply freeTurn_keeps
      | with_reducible apply modRed_keeps | with_reducible apply wctr_keeps | with_reducible apply modFrer_keeps
      | with_reducible apply winUncorrectable_keeps | with_reducible apply nodeFault_keeps | with_reducible apply frerFault_keeps
      | with_reducible apply keeps_ite | (intro _; intros) | split
      | (fail_if_no_progress refine Keeps.upd id id id id id id id id id id id id id id id id ?_))

theorem clearTwin_keeps (p : Nat) (inp : Nat) (s : State) {b0 : Base} (hs : Keeps b0 s) : Keeps b0 (clearTwin p inp s) := by
  unfold clearTwin
  repeat' (first
      | with_reducible assumption | with_reducible apply fire_keeps | with_reducible apply wctr_keeps | with_reducible apply clearHolds_keeps
      | with_reducible apply setTwin_keeps)

theorem winUpset_keeps (p : Nat) (v : Nat) (c : EgCopy) (s0 : State) {b0 : Base} (hs0 : Keeps b0 s0) : Keeps b0 (winUpset p v c s0) := by
  unfold winUpset
  try dsimp only
  repeat' (first
      | with_reducible assumption | with_reducible apply readWord_keeps | with_reducible apply memUnc_keeps | with_reducible apply wctr_keeps
      | with_reducible apply fire_keeps | with_reducible apply setTwin_keeps | with_reducible apply entryUpset_keeps
      | with_reducible apply clearTwin_keeps | with_reducible apply keeps_foldl | with_reducible apply keeps_foldl_snd
      | with_reducible apply keeps_ite | (intro _; intros) | split | (refine keeps_snd (by assumption) ?_))

theorem execWinnowArrival_keeps (p : Nat) (upset : Nat) (s : State) {b0 : Base} (hs : Keeps b0 s) : OutKeeps b0 (execWinnowArrival p upset s) := by
  unfold execWinnowArrival
  repeat' (first
      | with_reducible assumption | with_reducible apply winUpset_keeps | with_reducible apply winDo_keeps | with_reducible apply next_keeps
      | with_reducible apply outKeeps_next | split | with_reducible apply outKeeps_ite | with_reducible apply keeps_ite)

theorem execTwinSweep_keeps (s0 : State) {b0 : Base} (hs0 : Keeps b0 s0) : OutKeeps b0 (execTwinSweep s0) := by
  unfold execTwinSweep
  split; exact outKeeps_next hs0
  extract_lets s1 now s
  have h : Keeps b0 s := modRed_keeps _ _ (reachEdge_keeps _ _ hs0)
  clear_value s
  exact outKeeps_next (h.ports (canon_tmap _ h.wf_ports))

theorem execNodeForget_keeps (s : State) {b0 : Base} (hs : Keeps b0 s) : OutKeeps b0 (execNodeForget s) := by
  unfold execNodeForget
  try dsimp only
  repeat' (first
      | with_reducible assumption | with_reducible apply modRed_keeps | with_reducible apply next_keeps | with_reducible apply outKeeps_next
      | with_reducible apply outKeeps_ite | with_reducible apply keeps_ite | (intro _; intros)
      | (fail_if_no_progress refine Keeps.upd id id id id id id id id id id id id id id id id ?_))

theorem execTurnFilterExpiry_keeps (p : Nat) (s : State) {b0 : Base} (hs : Keeps b0 s) : OutKeeps b0 (execTurnFilterExpiry p s) := by
  unfold execTurnFilterExpiry
  try dsimp only
  repeat' (first
      | with_reducible assumption | with_reducible apply modWin_keeps | with_reducible apply next_keeps | with_reducible apply outKeeps_next
      | with_reducible apply outKeeps_ite | with_reducible apply keeps_ite | (intro _; intros)
      | (fail_if_no_progress refine Keeps.upd id id id id id id id id id id id id id id id id ?_))

theorem frerReset_keeps (h : Nat) (p : Nat) (s : State) {b0 : Base} (hs : Keeps b0 s) : Keeps b0 (frerReset h p s) := by
  unfold frerReset
  try dsimp only
  repeat' (first
      | with_reducible assumption | with_reducible apply frerEvent_keeps | with_reducible apply modFrer_keeps | with_reducible apply wctr_keeps
      | (intro _; intros) | (fail_if_no_progress refine Keeps.upd id id id id id id id id id id id id id id id id ?_))

theorem execFrerRecoveryTimeout_keeps (h : Nat) (p : Nat) (s : State) {b0 : Base} (hs : Keeps b0 s) : OutKeeps b0 (execFrerRecoveryTimeout h p s) := by
  unfold execFrerRecoveryTimeout
  repeat' (first
      | with_reducible assumption | with_reducible apply reachEdge_keeps | with_reducible apply frerReset_keeps | with_reducible apply next_keeps
      | with_reducible apply outKeeps_next | with_reducible apply outKeeps_ite | split | with_reducible apply keeps_ite)

theorem execLatentErrorTest_keeps (h : Nat) (p : Nat) (s0 : State) {b0 : Base} (hs0 : Keeps b0 s0) : OutKeeps b0 (execLatentErrorTest h p s0) := by
  unfold execLatentErrorTest
  try dsimp only
  repeat' (first
      | with_reducible assumption | with_reducible apply reachEdge_keeps | with_reducible apply frerEvent_keeps
      | with_reducible apply modFrer_keeps | with_reducible apply next_keeps | with_reducible apply outKeeps_next | with_reducible apply keeps_ite
      | with_reducible apply outKeeps_ite | split)

theorem bodyPrpPairSet_keeps (p : Packet) (s : State) {b0 : Base} (hs : Keeps b0 s) : ResKeeps b0 (bodyPrpPairSet p s) := by
  unfold bodyPrpPairSet
  try dsimp only
  repeat' (first
      | with_reducible assumption | with_reducible apply checked_keeps | with_reducible apply modRed_keeps
      | with_reducible apply touchPorts_keeps | exact trivial | with_reducible apply resKeeps_ok | with_reducible apply resKeeps_final
      | with_reducible apply resKeeps_accepted | with_reducible apply resKeeps_ite | (intro _; intros) | split
      | (fail_if_no_progress refine Keeps.upd id id id id id id id id id id id id id id id id ?_))

theorem execPrpPairSet_keeps (p : Packet) (s : State) {b0 : Base} (hs : Keeps b0 s) : OutKeeps b0 (execPrpPairSet p s) := 
  serveCmd_keeps _ _ _ _ (specKeeps_none rfl) (fun p t h => bodyPrpPairSet_keeps p t h) hs

theorem bodyHsrRingSet_keeps (p : Packet) (s : State) {b0 : Base} (hs : Keeps b0 s) : ResKeeps b0 (bodyHsrRingSet p s) := by
  unfold bodyHsrRingSet
  try dsimp only
  repeat' (first
      | with_reducible assumption | with_reducible apply checked_keeps | with_reducible apply modRed_keeps | with_reducible apply touchPorts_keeps
      | exact trivial | with_reducible apply resKeeps_ok | with_reducible apply resKeeps_final | with_reducible apply resKeeps_accepted
      | with_reducible apply resKeeps_ite | (intro _; intros) | split | with_reducible apply keeps_ite | (fail_if_no_progress unfold checked)
      | trivial | (fail_if_no_progress refine Keeps.upd id id id id id id id id id id id id id id id id ?_))

theorem execHsrRingSet_keeps (p : Packet) (s : State) {b0 : Base} (hs : Keeps b0 s) : OutKeeps b0 (execHsrRingSet p s) := 
  serveCmd_keeps _ _ _ _ (specKeeps_none rfl) (fun p t h => bodyHsrRingSet_keeps p t h) hs

theorem bodyFrerSet_keeps (p : Packet) (s : State) {b0 : Base} (hs : Keeps b0 s) : ResKeeps b0 (bodyFrerSet p s) := by
  unfold bodyFrerSet
  try dsimp only
  repeat' (first
      | with_reducible assumption | with_reducible apply checked_keeps | with_reducible apply modRed_keeps | with_reducible apply touchPort_keeps
      | with_reducible apply unlessUpset_keeps | with_reducible apply genFault_keeps | with_reducible apply frerFault_keeps
      | with_reducible apply resKeeps_ok | exact trivial | with_reducible apply resKeeps_ite | split | with_reducible apply keeps_ite
      | with_reducible apply resKeeps_final | with_reducible apply resKeeps_accepted | (fail_if_no_progress unfold checked) | trivial
      | (intro _; intros) | (fail_if_no_progress refine Keeps.upd id id id id id id id id id id id id id id id id ?_))

theorem execFrerSet_keeps (p : Packet) (s : State) {b0 : Base} (hs : Keeps b0 s) : OutKeeps b0 (execFrerSet p s) := 
  serveCmd_keeps _ _ _ _ (specKeeps_none rfl) (fun p t h => bodyFrerSet_keeps p t h) hs

theorem bodyWinnowRead_keeps (p : Packet) (s : State) {b0 : Base} (hs : Keeps b0 s) : ResKeeps b0 (bodyWinnowRead p s) := by
  unfold bodyWinnowRead
  try dsimp only
  repeat' (first
      | with_reducible assumption | with_reducible apply checked_keeps | with_reducible apply modWin_keeps | with_reducible apply touchPort_keeps
      | exact trivial | with_reducible apply resKeeps_ok | with_reducible apply resKeeps_final | with_reducible apply resKeeps_accepted
      | with_reducible apply resKeeps_ite | (intro _; intros) | split | with_reducible apply keeps_ite | (fail_if_no_progress unfold checked)
      | trivial | (fail_if_no_progress refine Keeps.upd id id id id id id id id id id id id id id id id ?_))

theorem execWinnowRead_keeps (p : Packet) (s : State) {b0 : Base} (hs : Keeps b0 s) : OutKeeps b0 (execWinnowRead p s) := 
  serveCmd_keeps _ _ _ _ (specKeeps_none rfl) (fun p t h => bodyWinnowRead_keeps p t h) hs

end Sys2Proof.Machine
end

