-- ==== Sys2Proof/Laws/KeepDram.lean ====
section
/-! SUPPORT. What the operations of Machine/Dram.lean keep. -/

namespace Sys2Proof.Machine

theorem modChan_keeps (c : Nat) (g : Chan → Chan) (s : State) {b0 : Base} (hs : Keeps b0 s) : Keeps b0 (modChan c g s) := by
  unfold modChan
  repeat' (first | with_reducible assumption | with_reducible apply modDeep_keeps | with_reducible apply keeps_ite)

theorem modSched_keeps (c : Nat) (g : Sched → Sched) (s : State) {b0 : Base} (hs : Keeps b0 s) : Keeps b0 (modSched c g s) := by
  unfold modSched
  repeat' (first
      | with_reducible assumption | with_reducible apply modChan_keeps | (intro _; intros)
      | (fail_if_no_progress refine Keeps.upd id id id id id id id id id id id id id id id id ?_))

theorem chanTouch_keeps (c : Nat) (s : State) {b0 : Base} (hs : Keeps b0 s) : Keeps b0 (chanTouch c s) := by
  unfold chanTouch
  repeat' (first | with_reducible assumption | with_reducible apply modChan_keeps)

theorem takeTurn_keeps (c : Nat) (s : State) {b0 : Base} (hs : Keeps b0 s) : Keeps b0 (takeTurn c s) := by
  unfold takeTurn
  dsimp only
  repeat' (first | with_reducible assumption | with_reducible apply modSched_keeps | split)

theorem takePatrol_keeps (c e : Nat) (s : State) {b0 : Base} (hs : Keeps b0 s) : Keeps b0 (takePatrol c e s) := by
  unfold takePatrol
  dsimp only
  repeat' (first | with_reducible assumption | with_reducible apply modSched_keeps | with_reducible apply takeTurn_keeps | split)

theorem takeRequest_keeps (c e : Nat) (s : State) {b0 : Base} (hs : Keeps b0 s) : Keeps b0 (takeRequest c e s) :=
  keeps_ite (takePatrol_keeps c e s hs) (takeTurn_keeps c s hs)

theorem sampleAct_keeps (c client rank bank group : Nat) (s : State) {b0 : Base} (hs : Keeps b0 s) : Keeps b0 (sampleAct c client rank bank group s) := by
  unfold sampleAct
  repeat' (first
      | with_reducible assumption | with_reducible apply modChan_keeps | with_reducible apply fireMs_keeps | with_reducible apply keeps_ite)

theorem countAct_keeps (c client rank bank group : Nat) (s : State) {b0 : Base} (hs : Keeps b0 s) : Keeps b0 (countAct c client rank bank group s) := by
  unfold countAct
  try dsimp only
  repeat' (first
      | with_reducible assumption | with_reducible apply modChan_keeps | with_reducible apply sampleAct_keeps | with_reducible apply keeps_ite
      | (intro _; intros) | split | (fail_if_no_progress refine Keeps.upd id id id id id id id id id id id id id id id id ?_))

theorem throttleHold_keeps (c : Nat) (s : State) {b0 : Base} (hs : Keeps b0 s) : Keeps b0 (throttleHold c s) := by
  unfold throttleHold
  try dsimp only
  repeat' (first
      | with_reducible assumption | with_reducible apply modSched_keeps | with_reducible apply keeps_foldl | with_reducible apply keeps_foldl_snd
      | with_reducible apply keeps_ite | (intro _; intros) | split
      | (fail_if_no_progress refine Keeps.upd id id id id id id id id id id id id id id id id ?_))

theorem dramCommand_keeps (c : Nat) (s : State) {b0 : Base} (hs : Keeps b0 s) : Keeps b0 (dramCommand c s) := by
  unfold dramCommand
  try dsimp only
  repeat' (first
      | with_reducible assumption | with_reducible apply modChan_keeps | with_reducible apply modSched_keeps | with_reducible apply countAct_keeps
      | with_reducible apply keeps_ite | (intro _; intros) | split
      | (fail_if_no_progress refine Keeps.upd id id id id id id id id id id id id id id id id ?_))

theorem dramClock_keeps (c : Nat) (e : Nat) (s : State) {b0 : Base} (hs : Keeps b0 s) : Keeps b0 (dramClock c e s) :=
  dramCommand_keeps _ _ (throttleHold_keeps _ _ (modSched_keeps _ _ _ (takeRequest_keeps _ _ _ hs)))

theorem runClocks_keeps (c : Nat) (m : Nat) (z0 : Nat) (z1 : State) {b0 : Base} (hz1 : Keeps b0 z1) : Keeps b0 (runClocks c m z0 z1) := by
  induction z0 generalizing z1 with
  | zero => exact hz1
  | succ n ih =>
    unfold runClocks
    exact keeps_ite (ih _ (dramClock_keeps _ _ _ hz1)) (modSched_keeps _ _ _ hz1)

theorem syncDram_keeps (c : Nat) (s : State) {b0 : Base} (hs : Keeps b0 s) : Keeps b0 (syncDram c s) :=
  runClocks_keeps _ _ _ _ (modSched_keeps _ _ _ hs)

theorem putReq_keeps (client : Nat) (write : Bool) (c : Nat) (burst : Nat) (mask : Nat) (s0 : State) {b0 : Base} (hs0 : Keeps b0 s0) : Keeps b0 (putReq client write c burst mask s0) := by
  unfold putReq
  try dsimp only
  repeat' (first
      | with_reducible assumption | with_reducible apply chanTouch_keeps | with_reducible apply modSched_keeps
      | with_reducible apply syncDram_keeps | with_reducible apply modChan_keeps | with_reducible apply keeps_foldl
      | with_reducible apply keeps_foldl_snd | with_reducible apply keeps_ite | (intro _; intros) | split | (refine keeps_snd (by assumption) ?_)
      | (fail_if_no_progress refine Keeps.upd id id id id id id id id id id id id id id id id ?_))

theorem putBytes64_keeps (client : Nat) (write : Bool) (a n : Nat) (s : State) {b0 : Base} (hs : Keeps b0 s) : Keeps b0 (putBytes64 client write a n s) := by
  unfold putBytes64
  repeat' (first
      | with_reducible assumption | with_reducible apply putReq_keeps | with_reducible apply keeps_foldl | with_reducible apply keeps_foldl_snd
      | with_reducible apply keeps_ite | (intro _; intros) | split)

theorem writeHalves_keeps (client : Nat) (a : Nat) (b : List Byte) (bad : List Nat) (s : State) {b0 : Base} (hs : Keeps b0 s) : Keeps b0 (writeHalves client a b bad s) := by
  unfold writeHalves
  try dsimp only
  repeat' (first
      | with_reducible assumption | with_reducible apply putBytes64_keeps | with_reducible apply modDeep_keeps | with_reducible apply keeps_foldl
      | with_reducible apply keeps_foldl_snd | (intro _; intros)
      | (fail_if_no_progress refine Keeps.upd id id id id id id id id id id id id id id id id ?_))

end Sys2Proof.Machine
end

