-- ==== Sys2Proof/Laws/KeepGleaner.lean ====
section
/-! SUPPORT. What the operations of Machine/Gleaner.lean keep. -/

namespace Sys2Proof.Machine

theorem glCtr_keeps (k : Nat) (s : State) {b0 : Base} (hs : Keeps b0 s) : Keeps b0 (glCtr k s) := by
  unfold glCtr
  repeat' (first
      | with_reducible assumption | (fail_if_no_progress refine Keeps.upd id id id id id id id id id id id id id id id id ?_))

theorem glLoss_keeps (cause : Nat) (s : State) {b0 : Base} (hs : Keeps b0 s) : Keeps b0 (glLoss cause s) := by
  unfold glLoss
  repeat' (first | with_reducible assumption | with_reducible apply fireMs_keeps)

theorem glLost_keeps (s : State) {b0 : Base} (hs : Keeps b0 s) : Keeps b0 (glLost s) := by
  unfold glLost
  repeat' (first | with_reducible assumption | with_reducible apply glLoss_keeps | with_reducible apply glCtr_keeps)

theorem headerTransfer_keeps (f : Nat) (u : Nat) (s : State) {b0 : Base} (hs : Keeps b0 s) : Keeps b0 (headerTransfer f u s) := by
  unfold headerTransfer
  try dsimp only
  repeat' (first
      | with_reducible assumption | with_reducible apply tryReturn_keeps | with_reducible apply modCopy_keeps | with_reducible apply modGle_keeps
      | with_reducible apply keeps_ite | split | (intro _; intros)
      | (fail_if_no_progress refine Keeps.upd id id id id id id id id id id id id id id id id ?_))

theorem execHeaderTransfer_keeps (f : Furrow) (uid : Nat) (s : State) {b0 : Base} (hs : Keeps b0 s) : OutKeeps b0 (execHeaderTransfer f uid s) := by
  unfold execHeaderTransfer
  repeat' (first
      | with_reducible assumption | with_reducible apply headerTransfer_keeps | with_reducible apply next_keeps
      | with_reducible apply outKeeps_next | with_reducible apply outKeeps_ite | with_reducible apply keeps_ite)

theorem execHeaderTransferTimeout_keeps (f : Furrow) (uid : Nat) (s : State) {b0 : Base} (hs : Keeps b0 s) : OutKeeps b0 (execHeaderTransferTimeout f uid s) := by
  unfold execHeaderTransferTimeout
  try dsimp only
  repeat' (first
      | with_reducible assumption | with_reducible apply next_keeps | with_reducible apply fireFurMs_keeps | with_reducible apply xctr_keeps
      | with_reducible apply tryReturn_keeps | with_reducible apply modCopy_keeps | with_reducible apply reachEdge_keeps
      | with_reducible apply outKeeps_next | with_reducible apply outKeeps_ite | (intro _; intros) | split | with_reducible apply keeps_ite
      | (fail_if_no_progress refine Keeps.upd id id id id id id id id id id id id id id id id ?_))

theorem releaseRec_keeps (r : GlRec) (s : State) {b0 : Base} (hs : Keeps b0 s) : Keeps b0 (releaseRec r s) := by
  unfold releaseRec
  try dsimp only
  repeat' (first
      | with_reducible assumption | with_reducible apply modGle_keeps | with_reducible apply glCtr_keeps | with_reducible apply keeps_ite
      | (intro _; intros) | (fail_if_no_progress refine Keeps.upd id id id id id id id id id id id id id id id id ?_))

theorem execGleanerRecordRelease_keeps (seq : Nat) (s0 : State) {b0 : Base} (hs0 : Keeps b0 s0) : OutKeeps b0 (execGleanerRecordRelease seq s0) := by
  unfold execGleanerRecordRelease
  try dsimp only
  repeat' (first
      | with_reducible assumption | with_reducible apply releaseRec_keeps | with_reducible apply reachEdge_keeps | with_reducible apply next_keeps
      | with_reducible apply outKeeps_next | with_reducible apply outKeeps_ite | split | with_reducible apply keeps_ite | (intro _; intros))

theorem freeze_keeps (cause : Nat) (s : State) {b0 : Base} (hs : Keeps b0 s) : Keeps b0 (freeze cause s) := by
  unfold freeze
  repeat' (first | with_reducible assumption | with_reducible apply modGle_keeps)

theorem remember_keeps (x : GlXfer) (s : State) {b0 : Base} (hs : Keeps b0 s) : Keeps b0 (remember x s) := by
  unfold remember
  repeat' (first | with_reducible assumption | with_reducible apply modGle_keeps)

theorem writeRecord_keeps (accepted : Bool) (s : State) {b0 : Base} (hs : Keeps b0 s) : Keeps b0 (writeRecord accepted s) := by
  unfold writeRecord
  try dsimp only
  repeat' (first
      | with_reducible assumption | with_reducible apply modGle_keeps | with_reducible apply writeHalves_keeps | with_reducible apply glCtr_keeps
      | with_reducible apply glLost_keeps | with_reducible apply keeps_ite | (intro _; intros) | split
      | (fail_if_no_progress refine Keeps.upd id id id id id id id id id id id id id id id id ?_))

theorem stageRoom_keeps (s : State) {b0 : Base} (hs : Keeps b0 s) : ∀ t, (stageRoom s) = some t → Keeps b0 t := by
  intro t ht
  unfold stageRoom at ht
  split at ht
  · cases ht; exact hs
  · obtain ⟨r, _, rfl⟩ := Option.map_eq_some_iff.mp ht
    exact writeRecord_keeps _ _ (glLoss_keeps _ _ (glCtr_keeps _ _ (releaseRec_keeps _ _ hs)))

theorem stopFull_keeps (s : State) {b0 : Base} (hs : Keeps b0 s) : Keeps b0 (stopFull s) := by
  unfold stopFull
  try dsimp only
  repeat' (first
      | with_reducible assumption | with_reducible apply modGle_keeps | with_reducible apply fire_keeps | with_reducible apply keeps_ite
      | (intro _; intros) | (fail_if_no_progress refine Keeps.upd id id id id id id id id id id id id id id id id ?_))

theorem openPair_keeps (x : GlXfer) (s0 : State) {b0 : Base} (hs0 : Keeps b0 s0) : Keeps b0 (openPair x s0) := by
  unfold openPair
  extract_lets sq s1 s2
  have h1 : Keeps b0 s1 := modGle_keeps _ _ hs0
  have h2 : Keeps b0 s2 := by
    unfold s2
    split
    · exact glLost_keeps _ h1
    · rename_i heq; exact modGle_keeps _ _ (stageRoom_keeps _ h1 _ heq)
  clear_value s2
  exact stopFull_keeps _ (keeps_ite (freeze_keeps _ _ h2) h2)

theorem pairXfer_keeps (x : GlXfer) (s0 : State) {b0 : Base} (hs0 : Keeps b0 s0) : Keeps b0 (pairXfer x s0) := by
  unfold pairXfer
  try dsimp only
  repeat' (first
      | with_reducible assumption | with_reducible apply remember_keeps | with_reducible apply openPair_keeps | with_reducible apply modGle_keeps
      | with_reducible apply glCtr_keeps | with_reducible apply fire_keeps | with_reducible apply keeps_ite | split | (intro _; intros)
      | (fail_if_no_progress refine Keeps.upd id id id id id id id id id id id id id id id id ?_))

theorem execGleanerTransferArrival_keeps (s0 : State) {b0 : Base} (hs0 : Keeps b0 s0) : OutKeeps b0 (execGleanerTransferArrival s0) := by
  unfold execGleanerTransferArrival
  try dsimp only
  repeat' (first
      | with_reducible assumption | with_reducible apply reachEdge_keeps | with_reducible apply pairXfer_keeps | with_reducible apply modGle_keeps
      | with_reducible apply next_keeps | with_reducible apply outKeeps_next | (intro _; intros) | split | with_reducible apply outKeeps_ite
      | with_reducible apply keeps_ite | (fail_if_no_progress refine Keeps.upd id id id id id id id id id id id id id id id id ?_))

theorem execGleanerPairTimeout_keeps (seq : Nat) (s0 : State) {b0 : Base} (hs0 : Keeps b0 s0) : OutKeeps b0 (execGleanerPairTimeout seq s0) := by
  unfold execGleanerPairTimeout
  try dsimp only
  repeat' (first
      | with_reducible assumption | with_reducible apply reachEdge_keeps | with_reducible apply modGle_keeps | with_reducible apply glCtr_keeps
      | with_reducible apply next_keeps | with_reducible apply outKeeps_next | split | with_reducible apply outKeeps_ite
      | with_reducible apply keeps_ite | (intro _; intros)
      | (fail_if_no_progress refine Keeps.upd id id id id id id id id id id id id id id id id ?_))

theorem gleanEnd_keeps (u : Nat) (n : Nat) (s : State) {b0 : Base} (hs : Keeps b0 s) : Keeps b0 (gleanEnd u n s) := by
  unfold gleanEnd
  try dsimp only
  repeat' (first
      | with_reducible assumption | with_reducible apply modGle_keeps | with_reducible apply gleanNote_keeps | (intro _; intros)
      | (fail_if_no_progress refine Keeps.upd id id id id id id id id id id id id id id id id ?_))

theorem gleanVerdict_keeps (f : Nat) (u : Nat) (v : Nat) (s : State) {b0 : Base} (hs : Keeps b0 s) : Keeps b0 (gleanVerdict f u v s) := by
  unfold gleanVerdict
  try dsimp only
  repeat' (first
      | with_reducible assumption | with_reducible apply modGle_keeps | with_reducible apply gleanNote_keeps | with_reducible apply keeps_ite
      | (intro _; intros) | (fail_if_no_progress refine Keeps.upd id id id id id id id id id id id id id id id id ?_))

theorem execGleanerRecordWrite_keeps (accepted : Bool) (s : State) {b0 : Base} (hs : Keeps b0 s) : OutKeeps b0 (execGleanerRecordWrite accepted s) := by
  unfold execGleanerRecordWrite
  repeat' (first
      | with_reducible assumption | with_reducible apply reachEdge_keeps | with_reducible apply modGle_keeps
      | with_reducible apply putBytes64_keeps | with_reducible apply glCtr_keeps | with_reducible apply glLoss_keeps
      | with_reducible apply next_keeps | with_reducible apply writeRecord_keeps | with_reducible apply outKeeps_next
      | with_reducible apply outKeeps_ite | (intro _; intros) | split | with_reducible apply keeps_ite
      | (fail_if_no_progress refine Keeps.upd id id id id id id id id id id id id id id id id ?_))

theorem glTrigger_keeps (src : Nat) (tg : Nat) (enabled : Bool) (s : State) {b0 : Base} (hs : Keeps b0 s) : Keeps b0 (glTrigger src tg enabled s).2 := by
  unfold glTrigger
  try dsimp only
  repeat' (first
      | with_reducible assumption | with_reducible apply fireMs_keeps | with_reducible apply modGle_keeps | with_reducible apply glCtr_keeps
      | with_reducible apply fire_keeps | with_reducible apply keeps_ite_snd | with_reducible apply keeps_ite | (intro _; intros)
      | (refine keeps_snd (by assumption) ?_) | (fail_if_no_progress refine Keeps.upd id id id id id id id id id id id id id id id id ?_))

theorem execGleanerFreeze_keeps (s0 : State) {b0 : Base} (hs0 : Keeps b0 s0) : OutKeeps b0 (execGleanerFreeze s0) := by
  unfold execGleanerFreeze
  try dsimp only
  repeat' (first
      | with_reducible assumption | with_reducible apply reachNs_keeps | with_reducible apply freeze_keeps | with_reducible apply next_keeps
      | with_reducible apply outKeeps_next | with_reducible apply outKeeps_ite | with_reducible apply keeps_ite)

theorem execGleanerFrozen_keeps (s : State) {b0 : Base} (hs : Keeps b0 s) : OutKeeps b0 (execGleanerFrozen s) := by
  unfold execGleanerFrozen
  try dsimp only
  repeat' (first
      | with_reducible assumption | with_reducible apply modGle_keeps | with_reducible apply fire_keeps | with_reducible apply next_keeps
      | with_reducible apply outKeeps_next | with_reducible apply outKeeps_ite | with_reducible apply keeps_ite | (intro _; intros)
      | (fail_if_no_progress refine Keeps.upd id id id id id id id id id id id id id id id id ?_))

theorem execGleanerInitComplete_keeps (s0 : State) {b0 : Base} (hs0 : Keeps b0 s0) : OutKeeps b0 (execGleanerInitComplete s0) := by
  unfold execGleanerInitComplete
  try dsimp only
  repeat' (first
      | with_reducible assumption | with_reducible apply next_keeps | with_reducible apply reachEdge_keeps | with_reducible apply fire_keeps
      | with_reducible apply modGle_keeps | with_reducible apply complete_keeps | with_reducible apply keeps_foldl
      | with_reducible apply keeps_foldl_snd | with_reducible apply outKeeps_next | with_reducible apply outKeeps_ite | (intro _; intros) | split
      | with_reducible apply keeps_ite | (fail_if_no_progress refine Keeps.upd id id id id id id id id id id id id id id id id ?_))

theorem copyStarts_keeps (s : State) {b0 : Base} (hs : Keeps b0 s) : Keeps b0 (copyStarts s) := by
  unfold copyStarts
  try dsimp only
  repeat' (first
      | with_reducible assumption | with_reducible apply putBytes64_keeps | with_reducible apply modGle_keeps | with_reducible apply keeps_foldl
      | with_reducible apply keeps_foldl_snd | (intro _; intros) | split | (refine keeps_snd (by assumption) ?_)
      | (fail_if_no_progress refine Keeps.upd id id id id id id id id id id id id id id id id ?_))

theorem execGleanerCopyDone_keeps (bad : List Nat) (s0 : State) {b0 : Base} (hs0 : Keeps b0 s0) : OutKeeps b0 (execGleanerCopyDone bad s0) := by
  unfold execGleanerCopyDone
  try dsimp only
  repeat' (first
      | with_reducible assumption | with_reducible apply reachEdge_keeps | with_reducible apply complete_keeps
      | with_reducible apply modChan_keeps | with_reducible apply emitOut_keeps | with_reducible apply modGle_keeps
      | with_reducible apply next_keeps | with_reducible apply copyStarts_keeps | with_reducible apply hostWrite_keeps
      | with_reducible apply keeps_foldl | with_reducible apply outKeeps_next | (intro _; intros) | split | with_reducible apply keeps_foldl_snd
      | with_reducible apply outKeeps_ite | with_reducible apply keeps_ite
      | (fail_if_no_progress refine Keeps.upd id id id id id id id id id id id id id id id id ?_))

theorem bodyGleanerSet_keeps (p : Packet) (s : State) {b0 : Base} (hs : Keeps b0 s) : ResKeeps b0 (bodyGleanerSet p s) := by
  unfold bodyGleanerSet
  try dsimp only
  repeat' (first
      | with_reducible assumption | with_reducible apply checked_keeps | with_reducible apply modGle_keeps | with_reducible apply stopFull_keeps
      | with_reducible apply copyStarts_keeps | with_reducible apply resKeeps_ok | with_reducible apply resKeeps_accepted | exact trivial
      | with_reducible apply resKeeps_ite | split | with_reducible apply keeps_ite | with_reducible apply resKeeps_final
      | (fail_if_no_progress unfold checked) | trivial | (intro _; intros) | (refine keeps_snd (by assumption) ?_)
      | (fail_if_no_progress refine Keeps.upd id id id id id id id id id id id id id id id id ?_))

theorem execGleanerSet_keeps (p : Packet) (s : State) {b0 : Base} (hs : Keeps b0 s) : OutKeeps b0 (execGleanerSet p s) := 
  serveCmd_keeps _ _ _ _ (specKeeps_none rfl) (fun p t => unlessRetrain_keeps bodyGleanerSet p t (fun p t h => bodyGleanerSet_keeps p t h)) hs

theorem bodyGleanerTrigger_keeps (p : Packet) (s : State) {b0 : Base} (hs : Keeps b0 s) : ResKeeps b0 (bodyGleanerTrigger p s) := by
  unfold bodyGleanerTrigger
  extract_lets b t
  clear_value b t
  split
  · refine checked_keeps _ _ ?_
    have hg := glTrigger_keeps 0x03 (if t = 0 then nowNs s else nsOfT64 t) true s hs
    split
    · rename_i heq; rw [heq] at hg; exact hg
    · rename_i heq; rw [heq] at hg; exact hg
  · refine checked_keeps _ _ ?_
    split; trivial; exact stopFull_keeps _ (modGle_keeps _ _ hs)
  · trivial

theorem execGleanerTrigger_keeps (p : Packet) (s : State) {b0 : Base} (hs : Keeps b0 s) : OutKeeps b0 (execGleanerTrigger p s) := 
  serveCmd_keeps _ _ _ _ (specKeeps_none rfl) (fun p t h => bodyGleanerTrigger_keeps p t h) hs

theorem modMirror_keeps (i : Nat) (g : MirrorCfg → MirrorCfg) (s : State) {b0 : Base} (hs : Keeps b0 s) : Keeps b0 (modMirror i g s) := hs.mirrors (canon_tmod _ _ hs.wf_mirrors)

theorem mirrorDrop_keeps (i : Nat) (s : State) {b0 : Base} (hs : Keeps b0 s) : Keeps b0 (mirrorDrop i s) := by
  unfold mirrorDrop
  repeat' (first | with_reducible assumption | with_reducible apply modMirror_keeps | with_reducible apply fireMs_keeps)

theorem mirrorFrame_keeps (f : Nat) (u : Nat) (h : Nat) (cls : Nat) (egress : Nat) (mask : Nat) (s : State) {b0 : Base} (hs : Keeps b0 s) : Keeps b0 (mirrorFrame f u h cls egress mask s) := by
  unfold mirrorFrame
  try dsimp only
  repeat' (first
      | with_reducible assumption | with_reducible apply mirrorDrop_keeps | with_reducible apply touchPort_keeps
      | with_reducible apply modMirror_keeps | with_reducible apply modCopy_keeps | with_reducible apply setLane_keeps
      | with_reducible apply keeps_foldl | with_reducible apply keeps_foldl_snd | with_reducible apply keeps_ite | (intro _; intros) | split
      | (fail_if_no_progress refine Keeps.upd id id id id id id id id id id id id id id id id ?_))

theorem execMirrorGraceExpiry_keeps (session : Nat) (uid : Nat) (s : State) {b0 : Base} (hs : Keeps b0 s) : OutKeeps b0 (execMirrorGraceExpiry session uid s) := by
  unfold execMirrorGraceExpiry
  try dsimp only
  repeat' (first
      | with_reducible assumption | with_reducible apply next_keeps | with_reducible apply mirrorDrop_keeps | with_reducible apply tryReturn_keeps
      | with_reducible apply modCopy_keeps | with_reducible apply setLane_keeps | with_reducible apply reachEdge_keeps
      | with_reducible apply keeps_foldl | with_reducible apply keeps_foldl_snd | with_reducible apply outKeeps_next
      | with_reducible apply outKeeps_ite | (intro _; intros) | split | with_reducible apply keeps_ite
      | (fail_if_no_progress refine Keeps.upd id id id id id id id id id id id id id id id id ?_))

theorem bodyMirrorSet_keeps (p : Packet) (s : State) {b0 : Base} (hs : Keeps b0 s) : ResKeeps b0 (bodyMirrorSet p s) := by
  unfold bodyMirrorSet
  try dsimp only
  repeat' (first
      | with_reducible assumption | with_reducible apply checked_keeps | with_reducible apply touchPort_keeps
      | with_reducible apply modMirror_keeps | with_reducible apply touchPorts_keeps | exact trivial | with_reducible apply resKeeps_ok
      | with_reducible apply resKeeps_final | with_reducible apply resKeeps_accepted | (intro _; intros) | split
      | (fail_if_no_progress unfold checked) | trivial | (fail_if_no_progress refine Keeps.upd id id id id id id id id id id id id id id id id ?_))

theorem execMirrorSet_keeps (p : Packet) (s : State) {b0 : Base} (hs : Keeps b0 s) : OutKeeps b0 (execMirrorSet p s) := 
  serveCmd_keeps _ _ _ _ (specKeeps_none rfl) (fun p t h => bodyMirrorSet_keeps p t h) hs

end Sys2Proof.Machine
end

