-- ==== Sys2Proof/Laws/KeepAdmit.lean ====
section
/-! SUPPORT. What the operations of Machine/Admit.lean keep. -/

namespace Sys2Proof.Machine

theorem prpCheck_keeps (f key : Nat) (e : Entry) (s : State) {b0 : Base} (hs : Keeps b0 s) : Keeps b0 (prpCheck f key e s).2 := by
  unfold prpCheck
  extract_lets x out ps net s0
  refine keeps_ite_snd hs ?_
  have h0 : Keeps b0 s0 := noteWrongLan_keeps _ _ _ _ hs
  clear_value s0 net ps out
  have hn := nodeSlot_keeps net (srcOf x) out (trailerSeq ps) (lanId s x.port - 0xA) s0 h0
  split
  · rename_i heq; exact wctr_keeps _ _ _ (keeps_snd heq hn)
  · rename_i heq
    have h1 := keeps_snd heq hn
    dsimp only
    split
    · exact wctr_keeps _ _ _ (setNodeSlot_keeps _ _ _ _ _ _ h1)
    · exact h1
    · exact wctr_keeps _ _ _ h1

theorem discardUpset_keeps (u : Nat) (out : Nat) (s : State) {b0 : Base} (hs : Keeps b0 s) : Keeps b0 (discardUpset u out s) := by
  unfold discardUpset
  try dsimp only
  repeat' (first | with_reducible assumption | with_reducible apply nodeFault_keeps | with_reducible apply keeps_ite | split)

theorem prpGone_keeps (f : Nat) (key : Nat) (e : Entry) (s : State) {b0 : Base} (hs : Keeps b0 s) : Keeps b0 (prpGone f key e s) := by
  unfold prpGone
  try dsimp only
  repeat' (first | with_reducible assumption | with_reducible apply winOutcome_keeps | with_reducible apply keeps_ite)

theorem entryGone_keeps (f key : Nat) (e : Entry) (s : State) {b0 : Base} (hs : Keeps b0 s) : Keeps b0 (entryGone f key e s) := by
  unfold entryGone
  repeat' (first
      | with_reducible assumption | with_reducible apply tryReturn_keeps | with_reducible apply prpGone_keeps
      | with_reducible apply modCopy_keeps)

theorem offerEntry_keeps (f : Nat) (key : Nat) (e : Entry) (s : State) {b0 : Base} (hs : Keeps b0 s) : Keeps b0 (offerEntry f key e s) := by
  unfold offerEntry
  try dsimp only
  repeat' (first
      | with_reducible assumption | with_reducible apply entryGone_keeps | with_reducible apply prpCheck_keeps
      | with_reducible apply setLane_keeps | with_reducible apply xctr_keeps | with_reducible apply keeps_ite_snd | split
      | with_reducible apply keeps_ite | (intro _; intros) | (refine keeps_snd (by assumption) ?_)
      | (fail_if_no_progress refine Keeps.upd id id id id id id id id id id id id id id id id ?_))

theorem offerCopy_keeps (u h f : Nat) (s : State) {b0 : Base} (hs : Keeps b0 s) : Keeps b0 (offerCopy u h f s) := by
  unfold offerCopy
  repeat' (first
      | with_reducible assumption | with_reducible apply offerEntry_keeps | with_reducible apply keeps_foldl | (intro _; intros))

theorem copyComplete_keeps (u h : Nat) (s : State) {b0 : Base} (hs : Keeps b0 s) : Keeps b0 (copyComplete u h s) := by
  unfold copyComplete
  try dsimp only
  repeat' (first
      | with_reducible assumption | with_reducible apply offerCopy_keeps | with_reducible apply tryReturn_keeps
      | with_reducible apply entryGone_keeps | with_reducible apply setLane_keeps | with_reducible apply modCopy_keeps
      | with_reducible apply xctr_keeps | with_reducible apply keeps_foldl | with_reducible apply keeps_ite | (intro _; intros) | split)

theorem execCopyComplete_keeps (uid : Nat) (half : Nat) (s : State) {b0 : Base} (hs : Keeps b0 s) : OutKeeps b0 (execCopyComplete uid half s) := by
  unfold execCopyComplete
  repeat' (first
      | with_reducible assumption | with_reducible apply copyComplete_keeps | with_reducible apply next_keeps
      | with_reducible apply discardUpset_keeps | with_reducible apply readBelow_keeps | with_reducible apply outKeeps_next
      | with_reducible apply outKeeps_ite | with_reducible apply keeps_ite)

theorem dropLate_keeps (u : Nat) (h : Nat) (s : State) {b0 : Base} (hs : Keeps b0 s) : Keeps b0 (dropLate u h s) := by
  unfold dropLate
  try dsimp only
  repeat' (first
      | with_reducible assumption | with_reducible apply dropEntries_keeps | with_reducible apply tryReturn_keeps
      | with_reducible apply modCopy_keeps | with_reducible apply unhold_keeps | (intro _; intros)
      | (fail_if_no_progress refine Keeps.upd id id id id id id id id id id id id id id id id ?_))

theorem releaseCopy_keeps (u : Nat) (h : Nat) (f : Nat) (egress : Nat) (s : State) {b0 : Base} (hs : Keeps b0 s) : Keeps b0 (releaseCopy u h f egress s) := by
  unfold releaseCopy
  try dsimp only
  repeat' (first
      | with_reducible assumption | with_reducible apply dropEntries_keeps | with_reducible apply offerCopy_keeps
      | with_reducible apply touchPort_keeps | with_reducible apply tryReturn_keeps | with_reducible apply fireFurMs_keeps
      | with_reducible apply dropLate_keeps | with_reducible apply setLane_keeps | with_reducible apply modCopy_keeps
      | with_reducible apply fireMs_keeps | with_reducible apply xctr_keeps | with_reducible apply gctr_keeps
      | with_reducible apply modFrame_keeps | with_reducible apply complete_keeps | with_reducible apply laneFullDrop_keeps
      | with_reducible apply keeps_foldl | with_reducible apply keeps_ite | (intro _; intros) | split | with_reducible apply keeps_foldl_snd
      | (refine keeps_snd (by assumption) ?_) | (fail_if_no_progress refine Keeps.upd id id id id id id id id id id id id id id id id ?_))

theorem setHold_keeps (u f : Nat) (v : Bool) (s : State) {b0 : Base} (hs : Keeps b0 s) : Keeps b0 (setHold u f v s) := by
  unfold setHold
  repeat' (first | with_reducible assumption | with_reducible apply modFrame_keeps)

theorem releaseTwin_keeps (u f : Nat) (s : State) {b0 : Base} (hs : Keeps b0 s) : Keeps b0 (releaseTwin u f s) := by
  unfold releaseTwin
  try dsimp only
  repeat' (first
      | with_reducible assumption | with_reducible apply releaseCopy_keeps | with_reducible apply dropLate_keeps
      | with_reducible apply keeps_ite | split)

theorem releaseFrame_keeps (u : Nat) (s : State) {b0 : Base} (hs : Keeps b0 s) : Keeps b0 (releaseFrame u s) := by
  unfold releaseFrame
  repeat' (first
      | with_reducible assumption | with_reducible apply releaseCopy_keeps | with_reducible apply releaseTwin_keeps
      | with_reducible apply keeps_ite)

theorem releaseOverlap_keeps (u : Nat) (f : Nat) (s : State) {b0 : Base} (hs : Keeps b0 s) : Keeps b0 (releaseOverlap u f s) := by
  unfold releaseOverlap
  try dsimp only
  repeat' (first
      | with_reducible assumption | with_reducible apply touchPort_keeps | with_reducible apply setLane_keeps
      | with_reducible apply offerCopy_keeps | with_reducible apply modCopy_keeps | with_reducible apply laneFullDrop_keeps
      | with_reducible apply complete_keeps | with_reducible apply keeps_foldl | with_reducible apply keeps_foldl_snd
      | with_reducible apply keeps_ite | (intro _; intros) | split | (refine keeps_snd (by assumption) ?_)
      | (fail_if_no_progress refine Keeps.upd id id id id id id id id id id id id id id id id ?_))

theorem mirrorOut_keeps (u : Nat) (s : State) {b0 : Base} (hs : Keeps b0 s) : Keeps b0 (mirrorOut u s) := by
  unfold mirrorOut
  try dsimp only
  repeat' (first | with_reducible assumption | with_reducible apply mirrorFrame_keeps | with_reducible apply keeps_ite)

theorem rebookCell_keeps (u h cell : Nat) (s : State) {b0 : Base} (hs : Keeps b0 s) : Keeps b0 (rebookCell u h cell s).2 := by
  unfold rebookCell
  try dsimp only
  repeat' (first
      | with_reducible assumption | with_reducible apply countCell_keeps | with_reducible apply chargeLevel_keeps
      | with_reducible apply modCopy_keeps | with_reducible apply pauseTx_keeps | with_reducible apply keeps_ite_snd | (intro _; intros) | split
      | (fail_if_no_progress refine Keeps.upd id id id id id id id id id id id id id id id id ?_))

theorem serveRebook_keeps (h : Nat) (u : Nat) (cell : Nat) (s : State) {b0 : Base} (hs : Keeps b0 s) : Keeps b0 (serveRebook h u cell s) := by
  unfold serveRebook
  try dsimp only
  repeat' (first
      | with_reducible assumption | with_reducible apply dropLate_keeps | with_reducible apply modQueue_keeps
      | with_reducible apply allocEvent_keeps | with_reducible apply gctr_keeps | with_reducible apply rebookCell_keeps
      | with_reducible apply limitEvent_keeps | with_reducible apply keeps_ite | (intro _; intros) | split | (refine keeps_snd (by assumption) ?_)
      | (fail_if_no_progress refine Keeps.upd id id id id id id id id id id id id id id id id ?_))

theorem dropFrame_keeps (u : Nat) (s : State) {b0 : Base} (hs : Keeps b0 s) : Keeps b0 (dropFrame u s) := by
  unfold dropFrame
  repeat' (first
      | with_reducible assumption | with_reducible apply modFrame_keeps | with_reducible apply dropLate_keeps
      | with_reducible apply reap_keeps)

theorem assignSeqs_keeps (u : Nat) (handle : Nat) (egress : Nat) (s0 : State) {b0 : Base} (hs0 : Keeps b0 s0) : Keeps b0 (assignSeqs u handle egress s0) := by
  unfold assignSeqs
  try dsimp only
  repeat' (first
      | with_reducible assumption | with_reducible apply proxySeq_keeps | with_reducible apply modFrame_keeps | with_reducible apply modRed_keeps
      | with_reducible apply keeps_foldl | with_reducible apply keeps_ite | (intro _; intros) | split | with_reducible apply keeps_foldl_snd
      | (refine keeps_snd (by assumption) ?_) | (fail_if_no_progress refine Keeps.upd id id id id id id id id id id id id id id id id ?_))

theorem spillFull_keeps (h : Nat) (s : State) {b0 : Base} (hs : Keeps b0 s) : Keeps b0 (spillFull h s) := by
  unfold spillFull
  repeat' (first | with_reducible assumption | with_reducible apply fire_keeps | with_reducible apply gctr_keeps)

theorem startSpill_keeps (u : Nat) (q : Nat) (k : Nat) (h : Nat) (egress : Nat) (s : State) {b0 : Base} (hs : Keeps b0 s) : Keeps b0 (startSpill u q k h egress s).2 := by
  unfold startSpill
  try dsimp only
  repeat' (first
      | with_reducible assumption | with_reducible apply spillFull_keeps | with_reducible apply dropLate_keeps
      | with_reducible apply modFrame_keeps | with_reducible apply modQueue_keeps | with_reducible apply modDeep_keeps
      | with_reducible apply fireMs_keeps | split | with_reducible apply keeps_ite | with_reducible apply keeps_ite_snd | (intro _; intros)
      | (refine keeps_snd (by assumption) ?_) | (fail_if_no_progress refine Keeps.upd id id id id id id id id id id id id id id id id ?_))

theorem admitRelease_keeps (u : Nat) (handle : Nat) (k : Nat) (s : State) {b0 : Base} (hs : Keeps b0 s) : Keeps b0 (admitRelease u handle k s) := by
  unfold admitRelease
  try dsimp only
  repeat' (first
      | with_reducible assumption | with_reducible apply releaseOverlap_keeps | with_reducible apply releaseFrame_keeps
      | with_reducible apply mirrorFrame_keeps | with_reducible apply modFrame_keeps | with_reducible apply modQueue_keeps
      | with_reducible apply mirrorOut_keeps | with_reducible apply keeps_ite | (intro _; intros)
      | (fail_if_no_progress refine Keeps.upd id id id id id id id id id id id id id id id id ?_))

theorem headerWord_keeps (u h : Nat) (bad : Bool) (s : State) {b0 : Base} (hs : Keeps b0 s) : Keeps b0 (headerWord u h bad s) := by
  unfold headerWord
  repeat' (first
      | with_reducible assumption | with_reducible apply dropLate_keeps | with_reducible apply modCopy_keeps | with_reducible apply memUnc_keeps
      | with_reducible apply keeps_ite | (intro _; intros) | split
      | (fail_if_no_progress refine Keeps.upd id id id id id id id id id id id id id id id id ?_))

theorem seqUpset_keeps (u : Nat) (handle : Nat) (egress : Nat) (bad : Nat) (s : State) {b0 : Base} (hs : Keeps b0 s) : Keeps b0 (seqUpset u handle egress bad s) := by
  unfold seqUpset
  try dsimp only
  repeat' (first
      | with_reducible assumption | with_reducible apply nodeFault_keeps | with_reducible apply genFault_keeps | with_reducible apply keeps_foldl
      | with_reducible apply keeps_foldl_snd | with_reducible apply keeps_ite | (intro _; intros))

theorem admitFinish_keeps (u : Nat) (s00 : State) {b0 : Base} (hs00 : Keeps b0 s00) : Keeps b0 (admitFinish u s00) := by
  unfold admitFinish
  try dsimp only
  repeat' (first
      | with_reducible assumption | with_reducible apply modFrame_keeps | with_reducible apply headerWord_keeps
      | with_reducible apply dropFrame_keeps | with_reducible apply reap_keeps | with_reducible apply modQueue_keeps
      | with_reducible apply assignSeqs_keeps | with_reducible apply seqUpset_keeps | with_reducible apply startSpill_keeps
      | with_reducible apply admitRelease_keeps | with_reducible apply keeps_foldl | with_reducible apply keeps_foldl_snd
      | with_reducible apply keeps_ite | (intro _; intros) | split | (refine keeps_snd (by assumption) ?_)
      | (fail_if_no_progress refine Keeps.upd id id id id id id id id id id id id id id id id ?_))

theorem admitNext_keeps (u : Nat) (s : State) {b0 : Base} (hs : Keeps b0 s) : Keeps b0 (admitNext u s) := by
  unfold admitNext
  try dsimp only
  repeat' (first | with_reducible assumption | with_reducible apply admitFinish_keeps | with_reducible apply keeps_ite | (intro _; intros))

theorem admitFrame_keeps (u bad_ : Nat) (s00 : State) {b0 : Base} (hs00 : Keeps b0 s00) : Keeps b0 (admitFrame u bad_ s00) := by
  unfold admitFrame
  split
  rename_i bad s0 heq
  have hs0 : Keeps b0 s0 := keeps_snd heq (keeps_ite_snd (discardUpset_keeps _ _ _ hs00) (readBelow_keeps _ _ _ hs00))
  clear heq
  extract_lets x0 l
  clear_value x0 l
  split; exact hs00
  rename_i d _
  refine keeps_ite hs00 ?_
  have hd : ∀ t, Keeps b0 t → Keeps b0 (dropFrame u t) := fun t ht => dropFrame_keeps _ _ ht
  extract_lets k q s
  have h : Keeps b0 s := modFrame_keeps _ _ _ hs0
  clear_value s
  dsimp only
  refine keeps_ite (hd _ h) (keeps_ite (gctr_keeps _ _ _ (hd _ h)) (keeps_ite (limitEvent_keeps _ _ (gctr_keeps _ _ _ (hd _ (modQueue_keeps _ _ _ h)))) ?_))
  have hm := meterFrame_keeps x0 k d.meter (bit bad 0) (bit bad 1) s h
  have h2 := fun g => modFrame_keeps u g _ hm
  have h3 := fun g g2 l (c : State → Nat → Bool) g3 => keeps_foldl (f := fun s h => if c s h then modCopy u h g3 s else s) (l := l)
    (fun t x ht => keeps_ite (modCopy_keeps _ _ _ _ ht) ht) (modFrame_keeps u g _ (h2 g2))
  exact keeps_ite (hd _ (h2 _)) (keeps_ite (admitFinish_keeps _ _ (h3 _ _ _ (fun s h => keeps s u h) _)) (h3 _ _ _ (fun s h => keeps s u h) _))

theorem execGranaryAdmit_keeps (uid : Nat) (bad : Nat) (s : State) {b0 : Base} (hs : Keeps b0 s) : OutKeeps b0 (execGranaryAdmit uid bad s) := by
  unfold execGranaryAdmit
  repeat' (first
      | with_reducible assumption | with_reducible apply admitFrame_keeps | with_reducible apply next_keeps | with_reducible apply outKeeps_next
      | with_reducible apply outKeeps_ite | with_reducible apply keeps_ite)

theorem askDone_keeps (u : Nat) (s0 : State) {b0 : Base} (hs0 : Keeps b0 s0) : Keeps b0 (askDone u s0) := by
  unfold askDone
  extract_lets x s l
  split; exact hs0
  rename_i h a _
  extract_lets whole
  have hs : Keeps b0 s := modFrame_keeps _ _ _ hs0
  have hw : ∀ o, Keeps b0 (whole o) := fun o => by
    have h1 : Keeps b0 (modCopy u h (fun c => { c with complete := true }) s) := modCopy_keeps _ _ _ _ hs
    cases o; exact h1; exact hostTxDone_keeps _ _ _ h1
  clear_value whole s
  split
  · have h1 := fun eg slot => releaseCopy_keeps u h l eg _ (assignSeqs_keeps u 0 eg _ (hw slot))
    exact keeps_ite (mirrorFrame_keeps _ _ _ _ _ _ _ (h1 _ _)) (h1 _ _)
  · exact keeps_ite (dropLate_keeps _ _ _ (laneFullDrop_keeps _ _ (hw _)))
      (offerCopy_keeps _ _ _ _ (modCopy_keeps _ _ _ _ (setLane_keeps _ _ _ _ (hw _))))
  · split
    · exact keeps_foldl (fun _ _ h => putBytes64_keeps _ _ _ _ _ h) (modDeep_keeps _ _ hs)
    · exact hs

theorem servePort_keeps (h : Nat) (req : Option Nat) (disturbed : Option Nat) (s : State) {b0 : Base} (hs : Keeps b0 s) : Keeps b0 (servePort h req disturbed s) := by
  unfold servePort
  repeat' (first
      | with_reducible assumption | with_reducible apply serveReturn_keeps | with_reducible apply serveRebook_keeps
      | with_reducible apply serveReq_keeps | with_reducible apply keeps_ite | split)

theorem execCellRequest_keeps (h : Nat) (d0 : Option Nat) (d1 : Option Nat) (s : State) {b0 : Base} (hs : Keeps b0 s) : OutKeeps b0 (execCellRequest h d0 d1 s) := by
  unfold execCellRequest
  try dsimp only
  repeat' (first
      | with_reducible assumption | with_reducible apply reachEdge_keeps | with_reducible apply modGran_keeps | with_reducible apply modHalf_keeps
      | with_reducible apply servePort_keeps | with_reducible apply next_keeps | with_reducible apply admitFinish_keeps
      | with_reducible apply admitNext_keeps | with_reducible apply askDone_keeps | with_reducible apply keeps_foldl
      | with_reducible apply keeps_foldl_snd | with_reducible apply outKeeps_next | (intro _; intros) | with_reducible apply outKeeps_ite
      | with_reducible apply keeps_ite | (fail_if_no_progress refine Keeps.upd id id id id id id id id id id id id id id id id ?_))

theorem execResidenceCheck_keeps (f : Furrow) (inp : Nat) (out : Nat) (cls : Nat) (s : State) {b0 : Base} (hs : Keeps b0 s) : OutKeeps b0 (execResidenceCheck f inp out cls s) := by
  unfold execResidenceCheck
  try dsimp only
  repeat' (first
      | with_reducible assumption | with_reducible apply residenceCheck_keeps | with_reducible apply mirrorDrop_keeps
      | with_reducible apply freeSpill_keeps | with_reducible apply prpGone_keeps | with_reducible apply next_keeps
      | with_reducible apply spillGone_keeps | with_reducible apply outKeeps_next | with_reducible apply keeps_ite
      | with_reducible apply outKeeps_ite | split | (fail_if_no_progress refine Keeps.upd id id id id id id id id id id id id id id id id ?_))

theorem unlist_keeps (h : Nat) (u : Nat) (s : State) {b0 : Base} (hs : Keeps b0 s) : Keeps b0 (unlist h u s) := by
  unfold unlist
  try dsimp only
  repeat' (first
      | with_reducible assumption | with_reducible apply releaseFrame_keeps | with_reducible apply mirrorFrame_keeps
      | with_reducible apply modFrame_keeps | with_reducible apply modQueue_keeps | with_reducible apply tryReturn_keeps
      | with_reducible apply mirrorOut_keeps | with_reducible apply keeps_ite | (intro _; intros)
      | (fail_if_no_progress refine Keeps.upd id id id id id id id id id id id id id id id id ?_))

theorem shaperRelease_keeps (h : Nat) (z0 : Nat) (z1 : State) {b0 : Base} (hz1 : Keeps b0 z1) : Keeps b0 (shaperRelease h z0 z1) := by
  induction z0 generalizing z1 with
  | zero => exact hz1
  | succ n ih =>
    unfold shaperRelease
    split; exact hz1
    dsimp only
    refine keeps_ite hz1 (keeps_ite (ih _ (fireMs_keeps _ _ _ _ _ (gctr_keeps _ _ _ (dropLate_keeps _ _ _ (modQueue_keeps _ _ _ (modFrame_keeps _ _ _ ?_)))))) ?_)
    · exact keeps_ite (freeSpill_keeps _ _ hz1) hz1
    · exact unlist_keeps _ _ _ (hz1.shapers (rising_tput _ _ hz1.wf_shapers))

theorem execStreamShaperRelease_keeps (handle : Nat) (s : State) {b0 : Base} (hs : Keeps b0 s) : OutKeeps b0 (execStreamShaperRelease handle s) := by
  unfold execStreamShaperRelease
  repeat' (first
      | with_reducible assumption | with_reducible apply shaperRelease_keeps | with_reducible apply next_keeps
      | with_reducible apply outKeeps_next | with_reducible apply outKeeps_ite | with_reducible apply keeps_ite)

theorem shaperRemove_keeps (h : Nat) (s : State) {b0 : Base} (hs : Keeps b0 s) : Keeps b0 (shaperRemove h s) := by
  unfold shaperRemove
  repeat' (first
      | with_reducible assumption | with_reducible apply unlist_keeps | with_reducible apply keeps_foldl
      | (intro h; (try dsimp only); exact rising_tdel _ h) | (intro _; intros) | (fail_if_no_progress with_reducible apply Keeps.upd))

theorem classShaperFault_keeps (p k : Nat) (s : State) {b0 : Base} (hs : Keeps b0 s) : Keeps b0 (classShaperFault p k s) := by
  unfold classShaperFault
  repeat' (first
      | with_reducible assumption | with_reducible apply drillFind_keeps | with_reducible apply modDrill_keeps
      | with_reducible apply memUnc_keeps | (intro _; intros)
      | (fail_if_no_progress refine Keeps.upd id id id id id id id id id id id id id id id id ?_))

theorem streamShaperFault_keeps (h by_ : Nat) (s : State) {b0 : Base} (hs : Keeps b0 s) : Keeps b0 (streamShaperFault h by_ s) := by
  unfold streamShaperFault
  repeat' (first
      | with_reducible assumption | with_reducible apply fire_keeps | with_reducible apply shaperRemove_keeps | with_reducible apply memUnc_keeps)

theorem queueFault_keeps (q : Nat) (s0 : State) {b0 : Base} (hs0 : Keeps b0 s0) : Keeps b0 (queueFault q s0) := by
  unfold queueFault
  try dsimp only
  repeat' (first
      | with_reducible assumption | with_reducible apply fire_keeps | with_reducible apply memUnc_keeps | with_reducible apply xctr_keeps
      | with_reducible apply dropLate_keeps | with_reducible apply modFrame_keeps | with_reducible apply modQueue_keeps
      | with_reducible apply freeSpill_keeps | with_reducible apply keeps_foldl | with_reducible apply keeps_foldl_snd | (intro _; intros)
      | with_reducible apply keeps_ite | (fail_if_no_progress refine Keeps.upd id id id id id id id id id id id id id id id id ?_))

theorem poolIf_keeps (p : Packet) (s0 : State) (s : State) {b0 : Base} (hs0 : Keeps b0 s0) (hs : Keeps b0 s) : ResKeeps b0 (poolIf p s0 s) :=
  resKeeps_ite trivial (unlessUpset_keeps _ _ _ _ (fun t h => memUnc_keeps _ t h) (descWatch_keeps _ hs) hs0)

theorem bodyPoolSet_keeps (p : Packet) (s : State) {b0 : Base} (hs : Keeps b0 s) : ResKeeps b0 (bodyPoolSet p s) := by
  unfold bodyPoolSet
  try dsimp only
  repeat' (first
      | with_reducible assumption | with_reducible apply checked_keeps | with_reducible apply poolIf_keeps | with_reducible apply modGran_keeps
      | with_reducible apply touchPort_keeps | with_reducible apply unlessUpset_keeps | with_reducible apply queueFault_keeps
      | with_reducible apply modQueue_keeps | exact trivial | with_reducible apply resKeeps_ok | with_reducible apply resKeeps_final
      | with_reducible apply resKeeps_accepted | (intro _; intros) | split | (fail_if_no_progress unfold checked) | trivial
      | (refine keeps_snd (by assumption) ?_) | (fail_if_no_progress refine Keeps.upd id id id id id id id id id id id id id id id id ?_))

theorem execPoolSet_keeps (p : Packet) (s : State) {b0 : Base} (hs : Keeps b0 s) : OutKeeps b0 (execPoolSet p s) := 
  serveCmd_keeps _ _ _ _ (specKeeps_none rfl) (fun p t h => bodyPoolSet_keeps p t h) hs

theorem bodyQueueRead_keeps (p : Packet) (s : State) {b0 : Base} (hs : Keeps b0 s) : ResKeeps b0 (bodyQueueRead p s) := by
  unfold bodyQueueRead
  try dsimp only
  repeat' (first
      | with_reducible assumption | with_reducible apply checked_keeps | with_reducible apply unlessUpset_keeps
      | with_reducible apply queueFault_keeps | with_reducible apply touchPort_keeps | with_reducible apply modQueue_keeps
      | with_reducible apply resKeeps_ite | with_reducible apply keeps_ite | with_reducible apply resKeeps_ok
      | with_reducible apply resKeeps_final | with_reducible apply resKeeps_accepted | (fail_if_no_progress unfold checked) | trivial
      | (intro _; intros) | split | (fail_if_no_progress refine Keeps.upd id id id id id id id id id id id id id id id id ?_))

theorem execQueueRead_keeps (p : Packet) (s : State) {b0 : Base} (hs : Keeps b0 s) : OutKeeps b0 (execQueueRead p s) := by
  exact serveCmd_keeps _ _ _ _ (specKeeps_none rfl) (fun p t h => bodyQueueRead_keeps p t h) hs

end Sys2Proof.Machine
end

