-- ==== Sys2Proof/Laws/KeepIngress.lean ====
section
/-! SUPPORT. What the operations of Machine/Ingress.lean keep. -/

namespace Sys2Proof.Machine

theorem rxOverflow_keeps (p : Nat) (s : State) {b0 : Base} (hs : Keeps b0 s) : Keeps b0 (rxOverflow p s) := by
  unfold rxOverflow
  repeat' (first | with_reducible assumption | with_reducible apply macCtr_keeps | with_reducible apply fireMs_keeps)

theorem setMacTag_keeps (p k v : Nat) (s : State) {b0 : Base} (hs : Keeps b0 s) : Keeps b0 (setMacTag p k v s) := by
  unfold setMacTag
  repeat' (first | with_reducible assumption | with_reducible apply modPort_keeps)

theorem wakeOverflow_keeps (p u : Nat) (s : State) {b0 : Base} (hs : Keeps b0 s) : Keeps b0 (wakeOverflow p u s) := by
  unfold wakeOverflow
  repeat' (first
      | with_reducible assumption | with_reducible apply rxOverflow_keeps | with_reducible apply setMacTag_keeps
      | with_reducible apply modFrame_keeps | with_reducible apply dropCopy_keeps | with_reducible apply keeps_ite)

theorem wakeCheck_keeps (p : Nat) (s : State) {b0 : Base} (hs : Keeps b0 s) : Keeps b0 (wakeCheck p s) := by
  unfold wakeCheck
  repeat' (first | with_reducible assumption | with_reducible apply wakeOverflow_keeps | with_reducible apply keeps_ite | split)

theorem rxPreempt_keeps (p : Nat) (s : State) {b0 : Base} (hs : Keeps b0 s) : Keeps b0 (rxPreempt p s) := by
  unfold rxPreempt
  try dsimp only
  repeat' (first
      | with_reducible assumption | with_reducible apply modFrame_keeps | with_reducible apply modPort_keeps | with_reducible apply keeps_ite
      | (intro _; intros) | split | (refine keeps_snd (by assumption) ?_)
      | (fail_if_no_progress refine Keeps.upd id id id id id id id id id id id id id id id id ?_))

theorem rxResume_keeps (p : Nat) (s : State) {b0 : Base} (hs : Keeps b0 s) : Keeps b0 (rxResume p s) := by
  unfold rxResume
  try dsimp only
  repeat' (first
      | with_reducible assumption | with_reducible apply modFrame_keeps | with_reducible apply modPort_keeps | (intro _; intros) | split
      | (refine keeps_snd (by assumption) ?_) | (fail_if_no_progress refine Keeps.upd id id id id id id id id id id id id id id id id ?_))

theorem startFrame_keeps (p : Nat) (b : List Byte) (s0 : State) {b0 : Base} (hs0 : Keeps b0 s0) : Keeps b0 (startFrame p b s0) := by
  unfold startFrame
  have hs : Keeps b0 (rxPreempt p s0) := rxPreempt_keeps _ _ hs0
  extract_lets s c u own k tb ns full tag a d cp keep x s1 s2 s3 s4
  clear_value x
  refine keeps_ite hs0 ?_
  have h1 : Keeps b0 s1 := Keeps.upd id id id id id id id id id id id (fun h => rising_tput _ _ h) id id id id hs
  have h2 : Keeps b0 s2 := modPort_keeps _ _ _ h1
  have h3 : Keeps b0 s3 := touchPort_keeps _ _ _ h2
  have h4 : Keeps b0 s4 := keeps_ite (rxOverflow_keeps _ _ h3) (keeps_ite (setMacTag_keeps _ _ _ _ h3) h3)
  clear_value s4
  exact keeps_ite (fireMs_keeps _ _ _ _ _ (gctr_keeps _ _ _ h4)) h4

theorem execStartOfFrame_keeps (p : Nat) (bytes : List Byte) (s : State) {b0 : Base} (hs : Keeps b0 s) : OutKeeps b0 (execStartOfFrame p bytes s) := by
  unfold execStartOfFrame
  repeat' (first
      | with_reducible assumption | with_reducible apply startFrame_keeps | with_reducible apply next_keeps | with_reducible apply outKeeps_next
      | with_reducible apply outKeeps_ite | with_reducible apply keeps_ite)

theorem cutCopy_keeps (u : Nat) (h : Nat) (cause : Nat) (n : Nat) (s : State) {b0 : Base} (hs : Keeps b0 s) : Keeps b0 (cutCopy u h cause n s) := by
  unfold cutCopy
  try dsimp only
  repeat' (first
      | with_reducible assumption | with_reducible apply tryReturn_keeps | with_reducible apply freeSpill_keeps
      | with_reducible apply dropCopy_keeps | with_reducible apply tailCopy_keeps | with_reducible apply modCopy_keeps
      | with_reducible apply modFur_keeps | with_reducible apply complete_keeps | with_reducible apply cutSpillEntries_keeps
      | with_reducible apply keeps_ite | split | (intro _; intros)
      | (fail_if_no_progress refine Keeps.upd id id id id id id id id id id id id id id id id ?_))

theorem cutBoth_keeps (u cause n : Nat) (s : State) {b0 : Base} (hs : Keeps b0 s) : Keeps b0 (cutBoth u cause n s) := by
  unfold cutBoth
  repeat' (first | with_reducible assumption | with_reducible apply cutCopy_keeps | with_reducible apply reap_keeps)

theorem countRx_keeps (p : Nat) (b : List Byte) (early : Nat) (most : Nat) (good : Bool) (cut : Bool) (s : State) {b0 : Base} (hs : Keeps b0 s) : Keeps b0 (countRx p b early most good cut s) := by
  unfold countRx
  try dsimp only
  repeat' (first | with_reducible assumption | with_reducible apply macCtr_keeps | with_reducible apply keeps_ite)

theorem modPause_keeps (p k : Nat) (g : Pause → Pause) (s : State) {b0 : Base} (hs : Keeps b0 s) : Keeps b0 (modPause p k g s) := by
  unfold modPause
  repeat' (first | with_reducible assumption | with_reducible apply modPort_keeps)

theorem pauseReq_keeps (p k t : Nat) (s : State) {b0 : Base} (hs : Keeps b0 s) : Keeps b0 (pauseReq p k t s) := by
  unfold pauseReq
  repeat' (first | with_reducible assumption | with_reducible apply modPause_keeps | with_reducible apply keeps_ite)

theorem pauseBegin_keeps (p : Nat) (s : State) {b0 : Base} (hs : Keeps b0 s) : Keeps b0 (pauseBegin p s) := by
  unfold pauseBegin
  repeat' (first
      | with_reducible assumption | with_reducible apply modPause_keeps | with_reducible apply keeps_foldl | with_reducible apply keeps_ite
      | (intro _; intros))

theorem controlFrame_keeps (p : Nat) (x : Frame) (b : List Byte) (s : State) {b0 : Base} (hs : Keeps b0 s) : Keeps b0 (controlFrame p x b s) := by
  unfold controlFrame
  try dsimp only
  repeat' (first
      | with_reducible assumption | with_reducible apply macCtr_keeps | with_reducible apply pauseReq_keeps | with_reducible apply keeps_foldl
      | with_reducible apply keeps_foldl_snd | with_reducible apply keeps_ite | (intro _; intros) | split)

theorem execPauseTimerExpiry_keeps (p : Nat) (cls : Nat) (s : State) {b0 : Base} (hs : Keeps b0 s) : OutKeeps b0 (execPauseTimerExpiry p cls s) := by
  unfold execPauseTimerExpiry
  try dsimp only
  repeat' (first
      | with_reducible assumption | with_reducible apply reachEdge_keeps | with_reducible apply modPause_keeps | with_reducible apply next_keeps
      | with_reducible apply outKeeps_next | split | with_reducible apply outKeeps_ite | with_reducible apply keeps_ite | (intro _; intros)
      | (fail_if_no_progress refine Keeps.upd id id id id id id id id id id id id id id id id ?_))

theorem execPauseWatchdogExpiry_keeps (p : Nat) (cls : Nat) (s : State) {b0 : Base} (hs : Keeps b0 s) : OutKeeps b0 (execPauseWatchdogExpiry p cls s) := by
  unfold execPauseWatchdogExpiry
  try dsimp only
  repeat' (first
      | with_reducible assumption | with_reducible apply reachEdge_keeps | with_reducible apply modPause_keeps | with_reducible apply macCtr_keeps
      | with_reducible apply fire_keeps | with_reducible apply next_keeps | with_reducible apply outKeeps_next | with_reducible apply outKeeps_ite
      | split | with_reducible apply keeps_ite | (intro _; intros)
      | (fail_if_no_progress refine Keeps.upd id id id id id id id id id id id id id id id id ?_))

theorem execPauseIgnoreEnd_keeps (p : Nat) (cls : Nat) (s : State) {b0 : Base} (hs : Keeps b0 s) : OutKeeps b0 (execPauseIgnoreEnd p cls s) := by
  unfold execPauseIgnoreEnd
  try dsimp only
  repeat' (first
      | with_reducible assumption | with_reducible apply reachEdge_keeps | with_reducible apply modPause_keeps | with_reducible apply next_keeps
      | with_reducible apply outKeeps_next | split | with_reducible apply outKeeps_ite | with_reducible apply keeps_ite | (intro _; intros)
      | (fail_if_no_progress refine Keeps.upd id id id id id id id id id id id id id id id id ?_))

theorem learnFrame_keeps (x : Frame) (due : Nat) (s : State) {b0 : Base} (hs : Keeps b0 s) : Keeps b0 (learnFrame x due s) := by
  unfold learnFrame
  repeat' (first
      | with_reducible assumption | with_reducible apply learnExamine_keeps | with_reducible apply keeps_foldl
      | with_reducible apply keeps_ite | (intro _; intros))

theorem oversize_keeps (u : Nat) (s : State) {b0 : Base} (hs : Keeps b0 s) : Keeps b0 (oversize u s) := by
  unfold oversize
  repeat' (first | with_reducible assumption | with_reducible apply cutBoth_keeps | with_reducible apply keeps_ite)

theorem macEnd_keeps (p : Nat) (u : Nat) (bad : Bool) (s : State) {b0 : Base} (hs : Keeps b0 s) : Keeps b0 (macEnd p u bad s) := by
  unfold macEnd
  try dsimp only
  repeat' (first
      | with_reducible assumption | with_reducible apply countRx_keeps | with_reducible apply controlFrame_keeps
      | with_reducible apply macCtr_keeps | with_reducible apply reap_keeps | with_reducible apply gleanEnd_keeps
      | with_reducible apply meterCorrect_keeps | with_reducible apply cutBoth_keeps | with_reducible apply learnFrame_keeps
      | with_reducible apply noteWrongLan_keeps | with_reducible apply keeps_ite | split | with_reducible apply keeps_foldl
      | with_reducible apply keeps_foldl_snd | (intro _; intros)
      | (fail_if_no_progress refine Keeps.upd id id id id id id id id id id id id id id id id ?_))

theorem rxEnd_keeps (p : Nat) (u : Nat) (bad : Bool) (s : State) {b0 : Base} (hs : Keeps b0 s) : Keeps b0 (rxEnd p u bad s) := by
  unfold rxEnd
  try dsimp only
  repeat' (first
      | with_reducible assumption | with_reducible apply modPort_keeps | with_reducible apply modFrame_keeps | with_reducible apply macEnd_keeps
      | with_reducible apply wakeOverflow_keeps | with_reducible apply rxResume_keeps | with_reducible apply keeps_ite | (intro _; intros) | split
      | (fail_if_no_progress refine Keeps.upd id id id id id id id id id id id id id id id id ?_))

theorem wakeDrain_keeps (p : Nat) (s : State) {b0 : Base} (hs : Keeps b0 s) : Keeps b0 (wakeDrain p s) := by
  unfold wakeDrain
  repeat' (first
      | with_reducible assumption | with_reducible apply macEnd_keeps | with_reducible apply modPort_keeps | with_reducible apply wakeCheck_keeps
      | with_reducible apply keeps_foldl | with_reducible apply keeps_foldl_snd | (intro _; intros)
      | (fail_if_no_progress refine Keeps.upd id id id id id id id id id id id id id id id id ?_))

theorem execOversizeDetect_keeps (p : Nat) (s : State) {b0 : Base} (hs : Keeps b0 s) : OutKeeps b0 (execOversizeDetect p s) := by
  unfold execOversizeDetect
  try dsimp only
  repeat' (first
      | with_reducible assumption | with_reducible apply reachEdge_keeps | with_reducible apply oversize_keeps | with_reducible apply next_keeps
      | with_reducible apply outKeeps_next | with_reducible apply outKeeps_ite | split | with_reducible apply keeps_ite)

theorem execSliceClockStart_keeps (slice : Nat) (s : State) {b0 : Base} (hs : Keeps b0 s) : OutKeeps b0 (execSliceClockStart slice s) := by
  unfold execSliceClockStart
  try dsimp only
  repeat' (first
      | with_reducible assumption | with_reducible apply next_keeps | with_reducible apply reachEdge_keeps | with_reducible apply startCore_keeps
      | with_reducible apply wakeDrain_keeps | with_reducible apply keeps_foldl | with_reducible apply keeps_foldl_snd
      | with_reducible apply outKeeps_next | with_reducible apply outKeeps_ite | (intro _; intros) | split | with_reducible apply keeps_ite
      | (fail_if_no_progress refine Keeps.upd id id id id id id id id id id id id id id id id ?_))

end Sys2Proof.Machine
end

