-- ==== Sys2Proof/Laws/KeepRetained.lean ====
section
/-! SUPPORT. What the operations of Machine/Retained.lean keep. -/

namespace Sys2Proof.Machine

theorem retWrite_keeps (off : Nat) (b : List Byte) (s : State) {b0 : Base} (hs : Keeps b0 s) : Keeps b0 (retWrite off b s) := hs.mem (memory_putBytes (by simp only [List.length_take]; omega) hs.wf_mem)

theorem hdrUpdate_keeps (f : List Byte → List Byte) (s : State) {b0 : Base} (hs : Keeps b0 s) : Keeps b0 (hdrUpdate f s) := by
  unfold hdrUpdate
  repeat' (first | with_reducible assumption | with_reducible apply retWrite_keeps)

theorem setFailedLoads_keeps (n : Nat) (s : State) {b0 : Base} (hs : Keeps b0 s) : Keeps b0 (setFailedLoads n s) := by
  unfold setFailedLoads
  repeat' (first | with_reducible assumption | with_reducible apply hdrUpdate_keeps)

theorem setBootField_keeps (cause image : Nat) (s : State) {b0 : Base} (hs : Keeps b0 s) : Keeps b0 (setBootField cause image s) := by
  unfold setBootField
  repeat' (first | with_reducible assumption | with_reducible apply hdrUpdate_keeps)

theorem setSafeField_keeps (cause : Nat) (s : State) {b0 : Base} (hs : Keeps b0 s) : Keeps b0 (setSafeField cause s) := by
  unfold setSafeField
  repeat' (first | with_reducible assumption | with_reducible apply hdrUpdate_keeps)

theorem hdrCount_keeps (off : Nat) (s : State) {b0 : Base} (hs : Keeps b0 s) : Keeps b0 (hdrCount off s) := by
  unfold hdrCount
  repeat' (first | with_reducible assumption | with_reducible apply hdrUpdate_keeps)

theorem replaceSheaf_keeps (k : Nat) (s : State) {b0 : Base} (hs : Keeps b0 s) : Keeps b0 (replaceSheaf k s) := by
  unfold replaceSheaf
  repeat' (first
      | with_reducible assumption | with_reducible apply retWrite_keeps | split
      | (fail_if_no_progress refine Keeps.upd id id id id id id id id id id id id id id id id ?_))

theorem replaceSheaves_keeps (z0 : List Nat) (z1 : State) {b0 : Base} (hz1 : Keeps b0 z1) : Keeps b0 (replaceSheaves z0 z1) := by
  fun_induction replaceSheaves z0 z1 <;> (try dsimp only) <;> repeat' (first | with_reducible assumption | with_reducible apply replaceSheaf_keeps | apply_assumption)

theorem retainedCheck_keeps (bad : List Nat) (s : State) {b0 : Base} (hs : Keeps b0 s) : Keeps b0 (retainedCheck bad s) := by
  unfold retainedCheck; dsimp only
  split
  · refine fire_keeps _ _ _ _ (retWrite_keeps _ _ _ (Keeps.upd id (fun _ => ⟨rfl, rfl⟩) id id id id id id id id id id id id id id hs))
  · have h0 : Keeps b0 { s with ret := { s.ret with valid := true, replaced := 0, lost := 0 } } := Keeps.upd id id id id id id id id id id id id id id id id hs
    have h := replaceSheaves_keeps (bad.filter (· < 256)) _ h0
    split
    · exact h
    · exact fire_keeps _ _ _ _ h

theorem optionLoad_keeps (s0 : State) {b0 : Base} (hs0 : Keeps b0 s0) : Keeps b0 (optionLoad s0) := by
  unfold optionLoad
  try dsimp only
  repeat' (first
      | with_reducible assumption | with_reducible apply setFailedLoads_keeps | split | with_reducible apply keeps_foldl
      | with_reducible apply keeps_foldl_snd | with_reducible apply keeps_ite | (intro _; intros)
      | (fail_if_no_progress refine Keeps.upd id id id id id id id id id id id id id id id id ?_))

theorem applyPortOptions_keeps (s : State) {b0 : Base} (hs : Keeps b0 s) : Keeps b0 (applyPortOptions s) := by
  unfold applyPortOptions
  try dsimp only
  repeat' (first
      | with_reducible assumption | split | with_reducible apply keeps_ite
      | (fail_if_no_progress refine Keeps.upd id id id id id id id id id id id id id id id id ?_))

theorem readImages_keeps (img0 : Option (List Byte)) (s : State) {b0 : Base} (hs : Keeps b0 s) : Keeps b0 (readImages img0 s) := by
  unfold readImages
  try dsimp only
  repeat' (first | with_reducible assumption | with_reducible apply emitOut_keeps | with_reducible apply keeps_ite)

theorem startImage_keeps (img0 : Option (List Byte)) (img1 : Option (List Byte)) (s0 : State) {b0 : Base} (hs0 : Keeps b0 s0) : Keeps b0 (startImage img0 img1 s0) := by
  unfold startImage
  try dsimp only
  repeat' (first
      | with_reducible assumption | with_reducible apply setBootField_keeps | with_reducible apply readImages_keeps
      | with_reducible apply keeps_ite | split | (refine keeps_snd (by assumption) ?_)
      | (fail_if_no_progress refine Keeps.upd id id id id id id id id id id id id id id id id ?_))

theorem bodyOptionBurn_keeps (p : Packet) (s : State) {b0 : Base} (hs : Keeps b0 s) : ResKeeps b0 (bodyOptionBurn p s) := by
  unfold bodyOptionBurn; dsimp only
  refine checked_keeps _ _ ?_
  split; trivial
  split; trivial
  split; trivial
  exact resKeeps_accepted (fire_keeps _ _ _ _ (hs.nvWith ⟨hs.nv.part, hs.nv.serial, hs.nv.trimIds, hs.nv.trimCal, hs.nv.burnt⟩ hs.wf_gens))

theorem execOptionBurn_keeps (p : Packet) (s : State) {b0 : Base} (hs : Keeps b0 s) : OutKeeps b0 (execOptionBurn p s) := 
  serveCmd_keeps _ _ _ _ (specKeeps_none rfl) (fun p t h => bodyOptionBurn_keeps p t h) hs

theorem execOptionBurnDone_keeps (fail0 fail1 fail2 : Nat) (s0 : State) {b0 : Base} (hs0 : Keeps b0 s0) : OutKeeps b0 (execOptionBurnDone fail0 fail1 fail2 s0) := by
  unfold execOptionBurnDone; dsimp only
  split; exact hs0
  split; exact hs0
  have h := reachEdge_keeps (Burn.startedAt ‹_›) s0 hs0
  split
  · refine complete_keeps _ _ _ _ (fire_keeps _ _ _ _ (setFailedLoads_keeps _ _ (h.nvWith (h.nv.burn h.wf_gens ?_) (canon_tset _ _ h.wf_gens))))
    exact ⟨fun _ => testBit_or_left, fun _ => testBit_or_left, fun _ => testBit_or_left, fun _ => testBit_or_left, fun _ => testBit_or_left, fun _ => testBit_or_left⟩
  · refine complete_keeps _ _ _ _ (fire_keeps _ _ _ _ (h.nvWith (h.nv.burn h.wf_gens ?_) (canon_tset _ _ h.wf_gens)))
    exact ⟨fun _ => testBit_or_left, fun _ => testBit_or_left, fun _ => testBit_or_left, fun _ => testBit_or_left, fun _ => testBit_or_left, fun _ => testBit_or_left⟩

theorem bodyOptionRead_keeps (p : Packet) (s : State) {b0 : Base} (hs : Keeps b0 s) : ResKeeps b0 (bodyOptionRead p s) := by
  unfold bodyOptionRead
  try dsimp only
  repeat' (first
      | with_reducible assumption | with_reducible apply checked_keeps | with_reducible apply resKeeps_ok | with_reducible apply resKeeps_ite
      | with_reducible apply keeps_ite | with_reducible apply resKeeps_final | with_reducible apply resKeeps_accepted
      | (fail_if_no_progress unfold checked) | trivial | split)

theorem execOptionRead_keeps (p : Packet) (s : State) {b0 : Base} (hs : Keeps b0 s) : OutKeeps b0 (execOptionRead p s) := 
  serveCmd_keeps _ _ _ _ (specKeeps_none rfl) (fun p t h => bodyOptionRead_keeps p t h) hs

theorem bodyRetainedRead_keeps (p : Packet) (s : State) {b0 : Base} (hs : Keeps b0 s) : ResKeeps b0 (bodyRetainedRead p s) := by
  unfold bodyRetainedRead
  repeat' (first
      | with_reducible assumption | with_reducible apply replaceSheaves_keeps | with_reducible apply checked_keeps
      | with_reducible apply fire_keeps | with_reducible apply resKeeps_ok | with_reducible apply keeps_ite | split)

theorem execRetainedRead_keeps (p : Packet) (s : State) {b0 : Base} (hs : Keeps b0 s) : OutKeeps b0 (execRetainedRead p s) := 
  serveCmd_keeps _ _ _ _ (specKeeps_none rfl) (fun p t h => bodyRetainedRead_keeps p t h) hs

theorem backupWrite_keeps (off : Nat) (d : List Byte) (s : State) {b0 : Base} (hs : Keeps b0 s) : Keeps b0 (backupWrite off d s) := hs.backup (canon_foldl (fun _ _ h => canon_tset _ _ h) hs.wf_backup)

theorem writeSheaves_keeps (z0 : Nat) (z1 : Nat) (z2 : List Byte) (z3 : State) {b0 : Base} (hz3 : Keeps b0 z3) : Keeps b0 (writeSheaves z0 z1 z2 z3).2 := by
  induction z0 generalizing z1 z2 z3 with
  | zero => exact hz3
  | succ n ih =>
    unfold writeSheaves; dsimp only; split; exact hz3
    split; exact hz3
    exact ih _ _ _ (Keeps.upd id id id id id id id id id id id id id id id id (retWrite_keeps _ _ _ hz3))

theorem bodyRetainedWrite_keeps (p : Packet) (s : State) {b0 : Base} (hs : Keeps b0 s) : ResKeeps b0 (bodyRetainedWrite p s) := by
  unfold bodyRetainedWrite
  repeat' (first
      | with_reducible assumption | with_reducible apply setFailedLoads_keeps | with_reducible apply writeSheaves_keeps
      | with_reducible apply backupWrite_keeps | with_reducible apply checked_keeps | with_reducible apply resKeeps_ok
      | with_reducible apply resKeeps_final | with_reducible apply resKeeps_ite | split
      | (fail_if_no_progress refine Keeps.upd id id id id id id id id id id id id id id id id ?_))

theorem execRetainedWrite_keeps (p : Packet) (s : State) {b0 : Base} (hs : Keeps b0 s) : OutKeeps b0 (execRetainedWrite p s) := 
  serveCmd_keeps _ _ _ _ (specKeeps_none rfl) (fun p t h => bodyRetainedWrite_keeps p t h) hs

theorem execLastTraceableTimeWrite_keeps (s0 : State) {b0 : Base} (hs0 : Keeps b0 s0) : OutKeeps b0 (execLastTraceableTimeWrite s0) := by
  unfold execLastTraceableTimeWrite
  try dsimp only
  repeat' (first
      | with_reducible assumption | with_reducible apply reachEdge_keeps | with_reducible apply hdrUpdate_keeps
      | with_reducible apply outKeeps_next | with_reducible apply outKeeps_ite | (intro _; intros) | split
      | (fail_if_no_progress refine Keeps.upd id id id id id id id id id id id id id id id id ?_))

end Sys2Proof.Machine
end

