-- ==== Sys2Proof/Laws/KeepTine.lean ====
section
/-! SUPPORT. What the operations of Machine/Tine.lean keep. -/

namespace Sys2Proof.Machine

/-- What an instruction of a Tine leaves keeps the same. -/
def TineKeeps (b : Base) : TineOut → Prop
  | .done _ _ s => Keeps b s
  | .wait _ s => Keeps b s
  | _ => True

theorem tineKeeps_done {b : Base} {c : Nat} {a : Act} {s : State} (h : Keeps b s) : TineKeeps b (.done c a s) := h
theorem tineKeeps_ite {b : Base} {c : Prop} [Decidable c] {p q : TineOut} (h : TineKeeps b p) (k : TineKeeps b q) :
    TineKeeps b (if c then p else q) := by split <;> assumption

theorem modBed_keeps (n : Nat) (g : Bed → Bed) (s : State) {b0 : Base} (hs : Keeps b0 s) : Keeps b0 (modBed n g s) := by
  unfold modBed
  repeat' (first | with_reducible assumption | with_reducible apply modFur_keeps)

theorem bctr_keeps (k n : Nat) (s : State) {b0 : Base} (hs : Keeps b0 s) : Keeps b0 (bctr k n s) := by
  unfold bctr
  repeat' (first | with_reducible assumption | with_reducible apply modBed_keeps)

theorem setAct_keeps (n t : Nat) (a : Act) (s : State) {b0 : Base} (hs : Keeps b0 s) : Keeps b0 (setAct n t a s) := by
  unfold setAct
  repeat' (first | with_reducible assumption | with_reducible apply modBed_keeps)

theorem settle_keeps (n t : Nat) (a : Act) (verdict : Nat) (s : State) {b0 : Base} (hs : Keeps b0 s) : Keeps b0 (settle n t a verdict s) := by
  unfold settle
  repeat' (first | with_reducible assumption | with_reducible apply modBed_keeps)

theorem tineFault_keeps (n t : Nat) (a : Act) (code : Nat) (s : State) {b0 : Base} (hs : Keeps b0 s) : Keeps b0 (tineFault n t a code s) := by
  unfold tineFault
  try dsimp only
  repeat' (first
      | with_reducible assumption | with_reducible apply bctr_keeps | with_reducible apply settle_keeps | with_reducible apply fireFurMs_keeps)

theorem budgetStop_keeps (n t : Nat) (a : Act) (s : State) {b0 : Base} (hs : Keeps b0 s) : Keeps b0 (budgetStop n t a s) := by
  unfold budgetStop
  try dsimp only
  repeat' (first
      | with_reducible assumption | with_reducible apply bctr_keeps | with_reducible apply settle_keeps | with_reducible apply fireFurMs_keeps)

theorem commit_keeps (n : Nat) (a : Act) (s : State) {b0 : Base} (hs : Keeps b0 s) : Keeps b0 (commit n a s) := by
  unfold commit
  try dsimp only
  repeat' (first
      | with_reducible assumption | with_reducible apply modBed_keeps | with_reducible apply modTab_keeps | with_reducible apply modFur_keeps
      | with_reducible apply keeps_foldl | with_reducible apply keeps_foldl_snd | with_reducible apply keeps_ite | (intro _; intros) | split
      | (fail_if_no_progress refine Keeps.upd id id id id id id id id id id id id id id id id ?_))

theorem sample_count_keeps (n t at_ : Nat) (e : List Byte) (m : Sampling) (put : Sampling → State) {b0 : Base} (hput : ∀ y, Keeps b0 (put y)) :
    Keeps b0 (sample.count n t at_ e m put) := by
  unfold sample.count
  dsimp only
  refine keeps_ite (hput _) (keeps_ite (hput _) (keeps_ite (fireFur_keeps _ _ _ _ _ (hput _)) (hput _)))

theorem sample_keeps (n t : Nat) (a : Act) (w latency cost cause at_ : Nat) (s0 : State) {b0 : Base} (hs0 : Keeps b0 s0) : Keeps b0 (sample n t a w latency cost cause at_ s0) := by
  unfold sample
  extract_lets f s1 s m tine put e
  have h1 : Keeps b0 s1 := perfF_keeps _ _ _ _ (perfF_keeps _ _ _ _ hs0)
  have h : Keeps b0 s := keeps_ite h1 (perfF_keeps _ _ _ _ h1)
  have hp : ∀ y, Keeps b0 (put y) := fun y => modFur_keeps _ _ _ h
  clear_value s put
  refine keeps_ite h ?_
  split
  · exact keeps_ite (hp _) (sample_count_keeps _ _ _ _ _ _ hp)
  · exact sample_count_keeps _ _ _ _ _ _ hp

theorem fireFinding_keeps (n : Nat) (x : Finding) (s : State) {b0 : Base} (hs : Keeps b0 s) : Keeps b0 (fireFinding n x s) := by
  unfold fireFinding
  repeat' (first | with_reducible assumption | with_reducible apply fireStamp_keeps)

theorem findingsOut_keeps (n : Nat) (l : List Finding) (s : State) {b0 : Base} (hs : Keeps b0 s) : Keeps b0 (findingsOut n l s) := by
  unfold findingsOut
  try dsimp only
  repeat' (first
      | with_reducible assumption | with_reducible apply modBed_keeps | (intro _; intros)
      | (fail_if_no_progress refine Keeps.upd id id id id id id id id id id id id id id id id ?_))

theorem findingToJournal_keeps (n : Nat) (s : State) {b0 : Base} (hs : Keeps b0 s) : Keeps b0 (findingToJournal n s) := by
  unfold findingToJournal
  repeat' (first
      | with_reducible assumption | with_reducible apply fireFinding_keeps | with_reducible apply modBed_keeps | (intro _; intros) | split
      | (fail_if_no_progress refine Keeps.upd id id id id id id id id id id id id id id id id ?_))

theorem retire_keeps (n t : Nat) (a : Act) (verdict : Nat) (s : State) {b0 : Base} (hs : Keeps b0 s) : Keeps b0 (retire n t a verdict s) := by
  unfold retire
  repeat' (first
      | with_reducible assumption | with_reducible apply findingsOut_keeps | with_reducible apply settle_keeps
      | with_reducible apply commit_keeps | with_reducible apply keeps_ite)

theorem tineStep_keeps (kind : Nat → Bool) (run : State → Nat → Nat → Act → Nat → TineOut) (n t : Nat) (s : State) {b0 : Base} (hrun : ∀ (t0 : State) (t1 : Nat) (t2 : Nat) (t3 : Act) (t4 : Nat), Keeps b0 t0 → TineKeeps b0 (run t0 t1 t2 t3 t4)) (hs : Keeps b0 s) : Keeps b0 (tineStep kind run n t s) := by
  unfold tineStep
  split; exact hs
  rename_i a heq
  refine keeps_ite hs ?_
  refine keeps_ite (tineFault_keeps _ _ _ _ _ hs) ?_
  refine keeps_ite hs ?_
  refine keeps_ite (budgetStop_keeps _ _ _ _ hs) ?_
  have hr := hrun s n t a (le (area (bed s n) a.area).code a.pc 4) hs
  dsimp only
  split
  · exact setAct_keeps _ _ _ _ hs
  · exact tineFault_keeps _ _ _ _ _ hs
  · exact keeps_ite (budgetStop_keeps _ _ _ _ (reachEdge_keeps _ _ hs)) (retire_keeps _ _ _ _ _ (sample_keeps _ _ _ _ _ _ _ _ _ (reachEdge_keeps _ _ hs)))
  · rename_i heq; rw [heq] at hr
    exact setAct_keeps _ _ _ _ hr
  · rename_i heq; rw [heq] at hr
    exact keeps_ite (budgetStop_keeps _ _ _ _ (reachEdge_keeps _ _ hs)) (setAct_keeps _ _ _ _ (sample_keeps _ _ _ _ _ _ _ _ _ (reachEdge_keeps _ _ hr)))

theorem next_keeps (cost : Nat) (a : Act) (s : State) {b0 : Base} (hs : Keeps b0 s) : TineKeeps b0 (next cost a s) := by
  unfold next
  repeat' (first | with_reducible assumption | with_reducible apply tineKeeps_done)

theorem runAlu_keeps (s : State) (w0 w1 : Nat) (a : Act) (w : Nat) {b0 : Base} (hs : Keeps b0 s) : TineKeeps b0 (runAlu s w0 w1 a w) := by
  unfold runAlu
  repeat' (first | with_reducible assumption | with_reducible apply next_keeps)

theorem execAluR_keeps (bed tine : Nat) (s : State) {b0 : Base} (hs : Keeps b0 s) : OutKeeps b0 (execAluR bed tine s) := by
  unfold execAluR
  repeat' (first
      | with_reducible assumption | with_reducible apply tineStep_keeps | with_reducible apply runAlu_keeps
      | with_reducible apply outKeeps_next | (intro _; intros))

theorem runAddi_keeps (s : State) (w0 w1 : Nat) (a : Act) (w : Nat) {b0 : Base} (hs : Keeps b0 s) : TineKeeps b0 (runAddi s w0 w1 a w) := by
  unfold runAddi
  repeat' (first | with_reducible assumption | with_reducible apply next_keeps)

theorem execAddi_keeps (bed tine : Nat) (s : State) {b0 : Base} (hs : Keeps b0 s) : OutKeeps b0 (execAddi bed tine s) := by
  unfold execAddi
  repeat' (first
      | with_reducible assumption | with_reducible apply tineStep_keeps | with_reducible apply runAddi_keeps
      | with_reducible apply outKeeps_next | (intro _; intros))

theorem runLogicImm_keeps (s : State) (w0 w1 : Nat) (a : Act) (w : Nat) {b0 : Base} (hs : Keeps b0 s) : TineKeeps b0 (runLogicImm s w0 w1 a w) := by
  unfold runLogicImm
  repeat' (first | with_reducible assumption | with_reducible apply next_keeps)

theorem execAndiOriXori_keeps (bed tine : Nat) (s : State) {b0 : Base} (hs : Keeps b0 s) : OutKeeps b0 (execAndiOriXori bed tine s) := by
  unfold execAndiOriXori
  repeat' (first
      | with_reducible assumption | with_reducible apply runLogicImm_keeps | with_reducible apply tineStep_keeps
      | with_reducible apply outKeeps_next | (intro _; intros))

theorem runSlt_keeps (s : State) (w0 w1 : Nat) (a : Act) (w : Nat) {b0 : Base} (hs : Keeps b0 s) : TineKeeps b0 (runSlt s w0 w1 a w) := by
  unfold runSlt
  repeat' (first | with_reducible assumption | with_reducible apply next_keeps)

theorem execSltiSltiu_keeps (bed tine : Nat) (s : State) {b0 : Base} (hs : Keeps b0 s) : OutKeeps b0 (execSltiSltiu bed tine s) := by
  unfold execSltiSltiu
  repeat' (first
      | with_reducible assumption | with_reducible apply tineStep_keeps | with_reducible apply runSlt_keeps
      | with_reducible apply outKeeps_next | (intro _; intros))

theorem runShift_keeps (s : State) (w0 w1 : Nat) (a : Act) (w : Nat) {b0 : Base} (hs : Keeps b0 s) : TineKeeps b0 (runShift s w0 w1 a w) := by
  unfold runShift
  repeat' (first | with_reducible assumption | with_reducible apply takeFree_keeps | with_reducible apply next_keeps | split)

theorem execSlliSrliSrai_keeps (bed tine : Nat) (s : State) {b0 : Base} (hs : Keeps b0 s) : OutKeeps b0 (execSlliSrliSrai bed tine s) := by
  unfold execSlliSrliSrai
  repeat' (first
      | with_reducible assumption | with_reducible apply tineStep_keeps | with_reducible apply runShift_keeps
      | with_reducible apply outKeeps_next | (intro _; intros))

theorem runLui_keeps (s : State) (w0 w1 : Nat) (a : Act) (w : Nat) {b0 : Base} (hs : Keeps b0 s) : TineKeeps b0 (runLui s w0 w1 a w) := by
  unfold runLui
  repeat' (first | with_reducible assumption | with_reducible apply next_keeps)

theorem execLui_keeps (bed tine : Nat) (s : State) {b0 : Base} (hs : Keeps b0 s) : OutKeeps b0 (execLui bed tine s) := by
  unfold execLui
  repeat' (first
      | with_reducible assumption | with_reducible apply tineStep_keeps | with_reducible apply runLui_keeps
      | with_reducible apply outKeeps_next | (intro _; intros))

theorem runBranch_keeps (s : State) (w0 w1 : Nat) (a : Act) (w : Nat) {b0 : Base} (hs : Keeps b0 s) : TineKeeps b0 (runBranch s w0 w1 a w) := by
  unfold runBranch
  repeat' (first
      | with_reducible assumption | with_reducible apply next_keeps | with_reducible apply tineKeeps_ite | with_reducible apply tineKeeps_done)

theorem execBranch_keeps (bed tine : Nat) (s : State) {b0 : Base} (hs : Keeps b0 s) : OutKeeps b0 (execBranch bed tine s) := by
  unfold execBranch
  repeat' (first
      | with_reducible assumption | with_reducible apply runBranch_keeps | with_reducible apply tineStep_keeps
      | with_reducible apply outKeeps_next | (intro _; intros))

theorem runJal_keeps (s : State) (w0 w1 : Nat) (a : Act) (w : Nat) {b0 : Base} (hs : Keeps b0 s) : TineKeeps b0 (runJal s w0 w1 a w) := by
  unfold runJal
  repeat' (first | with_reducible assumption | with_reducible apply tineKeeps_done)

theorem execJal_keeps (bed tine : Nat) (s : State) {b0 : Base} (hs : Keeps b0 s) : OutKeeps b0 (execJal bed tine s) := by
  unfold execJal
  repeat' (first
      | with_reducible assumption | with_reducible apply tineStep_keeps | with_reducible apply runJal_keeps
      | with_reducible apply outKeeps_next | (intro _; intros))

theorem runJalr_keeps (s : State) (w0 w1 : Nat) (a : Act) (w : Nat) {b0 : Base} (hs : Keeps b0 s) : TineKeeps b0 (runJalr s w0 w1 a w) := by
  unfold runJalr
  repeat' (first | with_reducible assumption | with_reducible apply tineKeeps_done)

theorem execJalr_keeps (bed tine : Nat) (s : State) {b0 : Base} (hs : Keeps b0 s) : OutKeeps b0 (execJalr bed tine s) := by
  unfold execJalr
  repeat' (first
      | with_reducible assumption | with_reducible apply tineStep_keeps | with_reducible apply runJalr_keeps
      | with_reducible apply outKeeps_next | (intro _; intros))

theorem readByte_keeps (a : Act) (i : Nat) (s : State) {b0 : Base} (hs : Keeps b0 s) : Keeps b0 (readByte a i s).2.2 := by
  unfold readByte
  repeat' (first | with_reducible assumption | with_reducible apply takeFree_keeps | split)

theorem readBytes_keeps (a : Act) (i : Nat) (z0 : Nat) (z1 : State) {b0 : Base} (hz1 : Keeps b0 z1) : Keeps b0 (readBytes a i z0 z1).2.2 := by
  induction z0 generalizing a i z1 with
  | zero => exact hz1
  | succ n ih =>
    unfold readBytes
    have hb := readByte_keeps a i z1 hz1
    exact ih _ _ _ hb

theorem runLoad_keeps (s : State) (w0 w1 : Nat) (a : Act) (w : Nat) {b0 : Base} (hs : Keeps b0 s) : TineKeeps b0 (runLoad s w0 w1 a w) := by
  unfold runLoad
  repeat' (first
      | with_reducible assumption | with_reducible apply readBytes_keeps | with_reducible apply next_keeps | exact trivial
      | with_reducible apply tineKeeps_ite)

theorem execLoad_keeps (bed tine : Nat) (s : State) {b0 : Base} (hs : Keeps b0 s) : OutKeeps b0 (execLoad bed tine s) := by
  unfold execLoad
  repeat' (first
      | with_reducible assumption | with_reducible apply tineStep_keeps | with_reducible apply runLoad_keeps
      | with_reducible apply outKeeps_next | (intro _; intros))

theorem runStore_keeps (s : State) (w0 w1 : Nat) (a : Act) (w : Nat) {b0 : Base} (hs : Keeps b0 s) : TineKeeps b0 (runStore s w0 w1 a w) := by
  unfold runStore
  repeat' (first | with_reducible assumption | with_reducible apply next_keeps | exact trivial | with_reducible apply tineKeeps_ite)

theorem execStore_keeps (bed tine : Nat) (s : State) {b0 : Base} (hs : Keeps b0 s) : OutKeeps b0 (execStore bed tine s) := by
  unfold execStore
  repeat' (first
      | with_reducible assumption | with_reducible apply runStore_keeps | with_reducible apply tineStep_keeps
      | with_reducible apply outKeeps_next | (intro _; intros))

theorem runCld_keeps (s : State) (n w0 : Nat) (a : Act) (w : Nat) {b0 : Base} (hs : Keeps b0 s) : TineKeeps b0 (runCld s n w0 a w) := by
  unfold runCld
  repeat' (first
      | with_reducible assumption | with_reducible apply takeFree_keeps | with_reducible apply next_keeps | exact trivial
      | with_reducible apply tineKeeps_ite)

theorem execCld_keeps (bed tine : Nat) (s : State) {b0 : Base} (hs : Keeps b0 s) : OutKeeps b0 (execCld bed tine s) := by
  unfold execCld
  repeat' (first
      | with_reducible assumption | with_reducible apply tineStep_keeps | with_reducible apply runCld_keeps
      | with_reducible apply outKeeps_next | (intro _; intros))

theorem runPld_keeps (s : State) (n w0 : Nat) (a : Act) (w : Nat) {b0 : Base} (hs : Keeps b0 s) : TineKeeps b0 (runPld s n w0 a w) := by
  unfold runPld
  repeat' (first | with_reducible assumption | with_reducible apply next_keeps)

theorem execPld_keeps (bed tine : Nat) (s : State) {b0 : Base} (hs : Keeps b0 s) : OutKeeps b0 (execPld bed tine s) := by
  unfold execPld
  repeat' (first
      | with_reducible assumption | with_reducible apply tineStep_keeps | with_reducible apply runPld_keeps
      | with_reducible apply outKeeps_next | (intro _; intros))

theorem runWsel_keeps (s : State) (w0 w1 : Nat) (a : Act) (w : Nat) {b0 : Base} (hs : Keeps b0 s) : TineKeeps b0 (runWsel s w0 w1 a w) := by
  unfold runWsel
  repeat' (first | with_reducible assumption | with_reducible apply next_keeps | exact trivial | with_reducible apply tineKeeps_ite)

theorem execWsel_keeps (bed tine : Nat) (s : State) {b0 : Base} (hs : Keeps b0 s) : OutKeeps b0 (execWsel bed tine s) := by
  unfold execWsel
  repeat' (first
      | with_reducible assumption | with_reducible apply tineStep_keeps | with_reducible apply runWsel_keeps
      | with_reducible apply outKeeps_next | (intro _; intros))

theorem runWld_keeps (s : State) (n w0 : Nat) (a : Act) (w : Nat) {b0 : Base} (hs : Keeps b0 s) : TineKeeps b0 (runWld s n w0 a w) := by
  unfold runWld
  repeat' (first
      | with_reducible assumption | with_reducible apply next_keeps | exact trivial | with_reducible apply tineKeeps_ite | split)

theorem execWld_keeps (bed tine : Nat) (s : State) {b0 : Base} (hs : Keeps b0 s) : OutKeeps b0 (execWld bed tine s) := by
  unfold execWld
  repeat' (first
      | with_reducible assumption | with_reducible apply tineStep_keeps | with_reducible apply runWld_keeps
      | with_reducible apply outKeeps_next | (intro _; intros))

theorem runBers_keeps (s : State) (w0 w1 : Nat) (a : Act) (w : Nat) {b0 : Base} (hs : Keeps b0 s) : TineKeeps b0 (runBers s w0 w1 a w) := by
  unfold runBers
  extract_lets i put
  have hp : ∀ v, TineKeeps b0 (put v) := fun v => next_keeps _ _ _ hs
  clear_value put
  refine tineKeeps_ite (hp _) ?_
  split
  · trivial
  rename_i h heq
  extract_lets l0 k
  clear_value k
  refine tineKeeps_ite (hp _) ?_
  split
  · trivial
  extract_lets len
  clear_value len
  split
  rename_i hl s1 heq
  have h1 : Keeps b0 s1 := keeps_snd heq (keeps_ite_snd (takeFree_keeps _ _ hs) hs)
  exact tineKeeps_ite (hp _) (next_keeps _ _ _ h1)

theorem execBers_keeps (bed tine : Nat) (s : State) {b0 : Base} (hs : Keeps b0 s) : OutKeeps b0 (execBers bed tine s) := by
  unfold execBers
  repeat' (first
      | with_reducible assumption | with_reducible apply tineStep_keeps | with_reducible apply runBers_keeps
      | with_reducible apply outKeeps_next | (intro _; intros))

theorem runCrc_keeps (s : State) (w0 w1 : Nat) (a : Act) (w : Nat) {b0 : Base} (hs : Keeps b0 s) : TineKeeps b0 (runCrc s w0 w1 a w) := by
  unfold runCrc
  repeat' (first
      | with_reducible assumption | with_reducible apply next_keeps | exact trivial | with_reducible apply tineKeeps_ite | split)

theorem execCrc_keeps (bed tine : Nat) (s : State) {b0 : Base} (hs : Keeps b0 s) : OutKeeps b0 (execCrc bed tine s) := by
  unfold execCrc
  repeat' (first
      | with_reducible assumption | with_reducible apply tineStep_keeps | with_reducible apply runCrc_keeps
      | with_reducible apply outKeeps_next | (intro _; intros))

theorem runHash_keeps (s : State) (w0 w1 : Nat) (a : Act) (w : Nat) {b0 : Base} (hs : Keeps b0 s) : TineKeeps b0 (runHash s w0 w1 a w) := by
  unfold runHash
  repeat' (first | with_reducible assumption | with_reducible apply next_keeps)

theorem execHash_keeps (bed tine : Nat) (s : State) {b0 : Base} (hs : Keeps b0 s) : OutKeeps b0 (execHash bed tine s) := by
  unfold execHash
  repeat' (first
      | with_reducible assumption | with_reducible apply tineStep_keeps | with_reducible apply runHash_keeps
      | with_reducible apply outKeeps_next | (intro _; intros))

theorem withLock_keeps (s : State) (n : Nat) (a : Act) (k : Act → State → TineOut) {b0 : Base} (hs : Keeps b0 s) (hk : ∀ (t0 : Act) (t1 : State), Keeps b0 t1 → TineKeeps b0 (k t0 t1)) : TineKeeps b0 (withLock s n a k) := by
  unfold withLock
  try dsimp only
  repeat' (first
      | with_reducible assumption | with_reducible apply modBed_keeps | exact trivial | with_reducible apply hk
      | with_reducible apply tineKeeps_ite | with_reducible apply keeps_ite | (intro _; intros)
      | (fail_if_no_progress refine Keeps.upd id id id id id id id id id id id id id id id id ?_))

theorem runSld_keeps (s : State) (n w0 : Nat) (a : Act) (w : Nat) {b0 : Base} (hs : Keeps b0 s) : TineKeeps b0 (runSld s n w0 a w) := by
  unfold runSld
  repeat' (first
      | with_reducible assumption | with_reducible apply withLock_keeps | with_reducible apply next_keeps | (intro _; intros))

theorem execSld_keeps (bed tine : Nat) (s : State) {b0 : Base} (hs : Keeps b0 s) : OutKeeps b0 (execSld bed tine s) := by
  unfold execSld
  repeat' (first
      | with_reducible assumption | with_reducible apply tineStep_keeps | with_reducible apply runSld_keeps
      | with_reducible apply outKeeps_next | (intro _; intros))

theorem runSst_keeps (s : State) (n w0 : Nat) (a : Act) (w : Nat) {b0 : Base} (hs : Keeps b0 s) : TineKeeps b0 (runSst s n w0 a w) := by
  unfold runSst
  repeat' (first
      | with_reducible assumption | with_reducible apply withLock_keeps | with_reducible apply next_keeps | (intro _; intros))

theorem execSst_keeps (bed tine : Nat) (s : State) {b0 : Base} (hs : Keeps b0 s) : OutKeeps b0 (execSst bed tine s) := by
  unfold execSst
  repeat' (first
      | with_reducible assumption | with_reducible apply tineStep_keeps | with_reducible apply runSst_keeps
      | with_reducible apply outKeeps_next | (intro _; intros))

theorem runSrel_keeps (s : State) (n w0 : Nat) (a : Act) (w1 : Nat) {b0 : Base} (hs : Keeps b0 s) : TineKeeps b0 (runSrel s n w0 a w1) := by
  unfold runSrel
  repeat' (first | with_reducible assumption | with_reducible apply commit_keeps | with_reducible apply next_keeps)

theorem execSrel_keeps (bed tine : Nat) (s : State) {b0 : Base} (hs : Keeps b0 s) : OutKeeps b0 (execSrel bed tine s) := by
  unfold execSrel
  repeat' (first
      | with_reducible assumption | with_reducible apply tineStep_keeps | with_reducible apply runSrel_keeps
      | with_reducible apply outKeeps_next | (intro _; intros))

theorem runHst_keeps (s : State) (w0 w1 : Nat) (a : Act) (w : Nat) {b0 : Base} (hs : Keeps b0 s) : TineKeeps b0 (runHst s w0 w1 a w) := by
  unfold runHst
  repeat' (first | with_reducible assumption | with_reducible apply next_keeps | exact trivial | with_reducible apply tineKeeps_ite)

theorem execHst_keeps (bed tine : Nat) (s : State) {b0 : Base} (hs : Keeps b0 s) : OutKeeps b0 (execHst bed tine s) := by
  unfold execHst
  repeat' (first
      | with_reducible assumption | with_reducible apply tineStep_keeps | with_reducible apply runHst_keeps
      | with_reducible apply outKeeps_next | (intro _; intros))

theorem runTrd_keeps (s : State) (n w0 : Nat) (a : Act) (w : Nat) {b0 : Base} (hs : Keeps b0 s) : TineKeeps b0 (runTrd s n w0 a w) := by
  unfold runTrd
  repeat' (first | with_reducible assumption | with_reducible apply next_keeps)

theorem execTrd_keeps (bed tine : Nat) (s : State) {b0 : Base} (hs : Keeps b0 s) : OutKeeps b0 (execTrd bed tine s) := by
  unfold execTrd
  repeat' (first
      | with_reducible assumption | with_reducible apply tineStep_keeps | with_reducible apply runTrd_keeps
      | with_reducible apply outKeeps_next | (intro _; intros))

theorem runTmset_keeps (s : State) (n w0 : Nat) (a : Act) (w : Nat) {b0 : Base} (hs : Keeps b0 s) : TineKeeps b0 (runTmset s n w0 a w) := by
  unfold runTmset
  repeat' (first
      | with_reducible assumption | with_reducible apply fireFurMs_keeps | with_reducible apply bctr_keeps
      | with_reducible apply next_keeps | exact trivial | with_reducible apply tineKeeps_ite)

theorem execTmset_keeps (bed tine : Nat) (s : State) {b0 : Base} (hs : Keeps b0 s) : OutKeeps b0 (execTmset bed tine s) := by
  unfold execTmset
  repeat' (first
      | with_reducible assumption | with_reducible apply tineStep_keeps | with_reducible apply runTmset_keeps
      | with_reducible apply outKeeps_next | (intro _; intros))

theorem runAkey_keeps (s : State) (n w0 : Nat) (a : Act) (w : Nat) {b0 : Base} (hs : Keeps b0 s) : TineKeeps b0 (runAkey s n w0 a w) := by
  unfold runAkey
  repeat' (first | with_reducible assumption | with_reducible apply next_keeps | exact trivial | with_reducible apply tineKeeps_ite)

theorem execAkey_keeps (bed tine : Nat) (s : State) {b0 : Base} (hs : Keeps b0 s) : OutKeeps b0 (execAkey bed tine s) := by
  unfold execAkey
  repeat' (first
      | with_reducible assumption | with_reducible apply tineStep_keeps | with_reducible apply runAkey_keeps
      | with_reducible apply outKeeps_next | (intro _; intros))

theorem runAuth_keeps (s : State) (n w0 : Nat) (a : Act) (w : Nat) {b0 : Base} (hs : Keeps b0 s) : TineKeeps b0 (runAuth s n w0 a w) := by
  unfold runAuth
  dsimp only
  repeat' (first
      | with_reducible assumption | with_reducible apply modBed_keeps | with_reducible apply next_keeps | exact trivial
      | with_reducible apply tineKeeps_ite | exact modBed_keeps _ _ _ hs | split)

theorem execAuth_keeps (bed tine : Nat) (s : State) {b0 : Base} (hs : Keeps b0 s) : OutKeeps b0 (execAuth bed tine s) := by
  unfold execAuth
  repeat' (first
      | with_reducible assumption | with_reducible apply tineStep_keeps | with_reducible apply runAuth_keeps
      | with_reducible apply outKeeps_next | (intro _; intros))

theorem authDone_keeps (n : Nat) (t : Nat) (s : State) {b0 : Base} (hs : Keeps b0 s) : Keeps b0 (authDone n t s) := by
  unfold authDone
  try dsimp only
  repeat' (first
      | with_reducible assumption | with_reducible apply budgetStop_keeps | with_reducible apply reachEdge_keeps
      | with_reducible apply setAct_keeps | with_reducible apply sample_keeps | with_reducible apply keeps_ite | split
      | (refine keeps_snd (by assumption) ?_) | (fail_if_no_progress refine Keeps.upd id id id id id id id id id id id id id id id id ?_))

theorem execAuthUnitDone_keeps (bed : Nat) (tine : Nat) (s : State) {b0 : Base} (hs : Keeps b0 s) : OutKeeps b0 (execAuthUnitDone bed tine s) := by
  unfold execAuthUnitDone
  repeat' (first
      | with_reducible assumption | with_reducible apply authDone_keeps | with_reducible apply next_keeps | with_reducible apply outKeeps_next
      | with_reducible apply outKeeps_ite | with_reducible apply keeps_ite)

theorem runEmit_keeps (s : State) (w0 w1 : Nat) (a : Act) (w : Nat) {b0 : Base} (hs : Keeps b0 s) : TineKeeps b0 (runEmit s w0 w1 a w) := by
  unfold runEmit
  repeat' (first | with_reducible assumption | with_reducible apply next_keeps)

theorem execEmit_keeps (bed tine : Nat) (s : State) {b0 : Base} (hs : Keeps b0 s) : OutKeeps b0 (execEmit bed tine s) := by
  unfold execEmit
  repeat' (first
      | with_reducible assumption | with_reducible apply tineStep_keeps | with_reducible apply runEmit_keeps
      | with_reducible apply outKeeps_next | (intro _; intros))

theorem runVrd_keeps (w0 : State) (w1 w2 : Nat) (w3 : Act) (w : Nat) {b0 : Base} (hw0 : Keeps b0 w0) : TineKeeps b0 (runVrd w0 w1 w2 w3 w) := by
  unfold runVrd
  repeat' (first | exact trivial | with_reducible apply tineKeeps_ite)

theorem execVrd_keeps (bed tine : Nat) (s : State) {b0 : Base} (hs : Keeps b0 s) : OutKeeps b0 (execVrd bed tine s) := by
  unfold execVrd
  repeat' (first
      | with_reducible assumption | with_reducible apply tineStep_keeps | with_reducible apply runVrd_keeps
      | with_reducible apply outKeeps_next | (intro _; intros))

theorem runIllegal_keeps (w0 : State) (w1 w2 : Nat) (w3 : Act) (w4 : Nat) {b0 : Base} (hw0 : Keeps b0 w0) : TineKeeps b0 (runIllegal w0 w1 w2 w3 w4) := by
  unfold runIllegal
  repeat' (exact trivial)

theorem execIllegalInstruction_keeps (bed tine : Nat) (s : State) {b0 : Base} (hs : Keeps b0 s) : OutKeeps b0 (execIllegalInstruction bed tine s) := by
  unfold execIllegalInstruction
  repeat' (first
      | with_reducible assumption | with_reducible apply runIllegal_keeps | with_reducible apply tineStep_keeps
      | with_reducible apply outKeeps_next | (intro _; intros))

theorem execBudgetExceeded_keeps (bed : Nat) (tine : Nat) (s : State) {b0 : Base} (hs : Keeps b0 s) : OutKeeps b0 (execBudgetExceeded bed tine s) := by
  unfold execBudgetExceeded
  repeat' (first
      | with_reducible assumption | with_reducible apply budgetStop_keeps | with_reducible apply reachEdge_keeps | with_reducible apply next_keeps
      | with_reducible apply outKeeps_next | split | with_reducible apply outKeeps_ite | with_reducible apply keeps_ite)

end Sys2Proof.Machine
end

