-- ==== Sys2Proof/Laws/KeepBed.lean ====
section
/-! SUPPORT. What the operations of Machine/Bed.lean keep. -/

namespace Sys2Proof.Machine

theorem fireBed_keeps (n k cause : Nat) (payload : List Byte) (s : State) {b0 : Base} (hs : Keeps b0 s) : Keeps b0 (fireBed n k cause payload s) := by
  unfold fireBed
  repeat' (first | with_reducible assumption | with_reducible apply fireFurMs_keeps)

theorem noProgram_keeps (n : Nat) (s : State) {b0 : Base} (hs : Keeps b0 s) : Keeps b0 (noProgram n s) := by
  unfold noProgram
  repeat' (first
      | with_reducible assumption | with_reducible apply fireFur_keeps | with_reducible apply modBed_keeps | with_reducible apply bctr_keeps
      | with_reducible apply keeps_ite)

theorem beginFetch_keeps (n : Nat) (h : Nat) (s : State) {b0 : Base} (hs : Keeps b0 s) : Keeps b0 (beginFetch n h s) := by
  unfold beginFetch
  try dsimp only
  repeat' (first
      | with_reducible assumption | with_reducible apply putBytes64_keeps | with_reducible apply bctr_keeps | with_reducible apply modBed_keeps
      | with_reducible apply keeps_ite | (intro _; intros) | split
      | (fail_if_no_progress refine Keeps.upd id id id id id id id id id id id id id id id id ?_))

theorem evict_keeps (n : Nat) (h : Nat) (s : State) {b0 : Base} (hs : Keeps b0 s) : Keeps b0 (evict n h s) := by
  unfold evict
  try dsimp only
  repeat' (first
      | with_reducible assumption | with_reducible apply modBed_keeps | with_reducible apply putBytes64_keeps | with_reducible apply modFur_keeps
      | with_reducible apply beginFetch_keeps | with_reducible apply fireBed_keeps | with_reducible apply bctr_keeps
      | with_reducible apply writeHalves_keeps | with_reducible apply keeps_ite | (intro _; intros) | split
      | (fail_if_no_progress refine Keeps.upd id id id id id id id id id id id id id id id id ?_))

theorem install_keeps (n : Nat) (h : Nat) (w : Table Word) (pin : Bool) (s : State) {b0 : Base} (hs : Keeps b0 s) : Keeps b0 (install n h w pin s) := by
  unfold install
  try dsimp only
  repeat' (first
      | with_reducible assumption | with_reducible apply modBed_keeps | with_reducible apply evict_keeps | with_reducible apply keeps_ite | split
      | (intro _; intros) | (fail_if_no_progress refine Keeps.upd id id id id id id id id id id id id id id id id ?_))

theorem wantRecord_keeps (n h : Nat) (s : State) {b0 : Base} (hs : Keeps b0 s) : Keeps b0 (wantRecord n h s) := by
  unfold wantRecord
  repeat' (first
      | with_reducible assumption | with_reducible apply beginFetch_keeps | with_reducible apply install_keeps | with_reducible apply keeps_ite
      | split)

theorem execRecordFetchDone_keeps (bed_ : Nat) (bad : Bool) (s : State) {b0 : Base} (hs : Keeps b0 s) : OutKeeps b0 (execRecordFetchDone bed_ bad s) := by
  unfold execRecordFetchDone
  try dsimp only
  repeat' (first
      | with_reducible assumption | with_reducible apply install_keeps | with_reducible apply fireBed_keeps | with_reducible apply bctr_keeps
      | with_reducible apply next_keeps | with_reducible apply outKeeps_next | with_reducible apply outKeeps_ite | split
      | with_reducible apply keeps_ite)

theorem trapCopy_keeps (f : Nat) (u : Nat) (s : State) {b0 : Base} (hs : Keeps b0 s) : Keeps b0 (trapCopy f u s) := by
  unfold trapCopy
  try dsimp only
  repeat' (first
      | with_reducible assumption | with_reducible apply dropLate_keeps | with_reducible apply modFrame_keeps | with_reducible apply keeps_ite
      | (intro _; intros) | split | (fail_if_no_progress refine Keeps.upd id id id id id id id id id id id id id id id id ?_))

theorem verdictFrame_keeps (n : Nat) (u : Nat) (v : Nat) (handle : Nat) (inl : Bool) (s0 : State) {b0 : Base} (hs0 : Keeps b0 s0) : Keeps b0 (verdictFrame n u v handle inl s0) := by
  unfold verdictFrame
  try dsimp only
  repeat' (first
      | with_reducible assumption | with_reducible apply releaseFrame_keeps | with_reducible apply gleanVerdict_keeps
      | with_reducible apply glTrigger_keeps | with_reducible apply dropLate_keeps | with_reducible apply modFrame_keeps
      | with_reducible apply trapCopy_keeps | with_reducible apply setHold_keeps | with_reducible apply releaseOverlap_keeps
      | with_reducible apply mirrorOut_keeps | with_reducible apply keeps_ite | (intro _; intros)
      | (fail_if_no_progress refine Keeps.upd id id id id id id id id id id id id id id id id ?_))

theorem giveVerdict_keeps (n : Nat) (v : Nat) (handle : Nat) (inl : Bool) (uid : Option Nat) (s : State) {b0 : Base} (hs : Keeps b0 s) : Keeps b0 (giveVerdict n v handle inl uid s) := by
  unfold giveVerdict
  try dsimp only
  repeat' (first
      | with_reducible assumption | with_reducible apply bctr_keeps | with_reducible apply reap_keeps | with_reducible apply verdictFrame_keeps
      | with_reducible apply gleanVerdict_keeps | with_reducible apply keeps_ite | split)

theorem startAct_keeps (n : Nat) (t : Nat) (q : QEnt) (inl : Bool) (md : Nat) (s : State) {b0 : Base} (hs : Keeps b0 s) : Keeps b0 (startAct n t q inl md s) := by
  unfold startAct
  try dsimp only
  repeat' (first
      | with_reducible assumption | with_reducible apply modBed_keeps | with_reducible apply keeps_ite | (intro _; intros)
      | (refine keeps_snd (by assumption) ?_))

theorem dispatchInline_keeps (f n u k ar : Nat) (d : Decision) (e : ProgEnt) (ns : Nat) (s : State) {b0 : Base} (hs : Keeps b0 s) : Keeps b0 (dispatchInline f n u k ar d e ns s) := by
  unfold dispatchInline
  dsimp only
  split
  · exact setHold_keeps _ _ _ _ (startAct_keeps _ _ _ _ _ _ (modBed_keeps _ _ _ hs))
  · exact giveVerdict_keeps _ _ _ _ _ _ (fireBed_keeps _ _ _ _ _ (bctr_keeps _ _ _ hs))

theorem enqueueAct_keeps (n : Nat) (q : QEnt) (s : State) {b0 : Base} (hs : Keeps b0 s) : Keeps b0 (enqueueAct n q s).2 := by
  unfold enqueueAct
  repeat' (first
      | with_reducible assumption | with_reducible apply wantRecord_keeps | with_reducible apply modBed_keeps
      | with_reducible apply keeps_ite_snd)

theorem setBedClock_keeps (n : Nat) (v : Bool) (s : State) {b0 : Base} (hs : Keeps b0 s) : Keeps b0 (setBedClock n v s) := by
  unfold setBedClock
  repeat' (first
      | with_reducible assumption | (fail_if_no_progress refine Keeps.upd id id id id id id id id id id id id id id id id ?_))

theorem dispatchFrame_keeps (f u : Nat) (d : Decision) (s : State) {b0 : Base} (hs : Keeps b0 s) : Keeps b0 (dispatchFrame f u d s) := by
  unfold dispatchFrame
  dsimp only
  refine keeps_ite hs ?_
  split; exact noProgram_keeps _ _ hs
  rename_i e heq
  refine keeps_ite (noProgram_keeps _ _ hs) ?_
  have h1 : Keeps b0 ((if (effProgram s f d (frame s u).ns (frame s u).port).2 = 2 then setBedClock (8 * f + bedIndex d.handle (frame s u).port) true else id) (bctr 0 (8 * f + bedIndex d.handle (frame s u).port) s)) := by
    split
    · exact setBedClock_keeps _ _ _ (bctr_keeps _ _ _ hs)
    · exact bctr_keeps _ _ _ hs
  have h2 := keeps_ite (c := f = (frame s u).lead) (modFrame_keeps u (fun x => { x with prog := true }) _ h1) h1
  refine keeps_ite (fireBed_keeps _ _ _ _ _ (bctr_keeps _ _ _ h2)) (keeps_ite (dispatchInline_keeps _ _ _ _ _ _ _ _ _ h2) ?_)
  have h3 := enqueueAct_keeps (8 * f + bedIndex d.handle (frame s u).port) { uid := some u, handle := d.handle, prog := (effProgram s f d (frame s u).ns (frame s u).port).1, ns := (frame s u).ns, area := areaFor (bed s (8 * f + bedIndex d.handle (frame s u).port)) (frame s u).ns, seq := 0 } _ h2
  split
  · rename_i heq; rw [heq] at h3; exact h3
  · rename_i heq; rw [heq] at h3; exact fireBed_keeps _ _ _ _ _ (bctr_keeps _ _ _ h3)

theorem disarm_keeps (n : Nat) (h : Nat) (d : Nat) (s : State) {b0 : Base} (hs : Keeps b0 s) : Keeps b0 (disarm n h d s) := by
  unfold disarm
  try dsimp only
  repeat' (first
      | with_reducible assumption | with_reducible apply modBed_keeps | with_reducible apply modTab_keeps | with_reducible apply keeps_ite
      | (intro _; intros) | split | (fail_if_no_progress refine Keeps.upd id id id id id id id id id id id id id id id id ?_))

theorem wantQueued_keeps (n : Nat) (s : State) {b0 : Base} (hs : Keeps b0 s) : Keeps b0 (wantQueued n s) := by
  unfold wantQueued
  repeat' (first
      | with_reducible assumption | with_reducible apply wantRecord_keeps | with_reducible apply keeps_foldl
      | with_reducible apply keeps_foldl_snd | (intro _; intros))

theorem activationStart_keeps (n : Nat) (s0 : State) {b0 : Base} (hs0 : Keeps b0 s0) : Keeps b0 (activationStart n s0) := by
  unfold activationStart
  extract_lets s b
  have h : Keeps b0 s := wantQueued_keeps _ _ hs0
  clear_value s b
  split
  · exact h
  extract_lets drop
  have hd : Keeps b0 drop := modBed_keeps _ _ _ h
  clear_value drop
  refine keeps_ite hd (keeps_ite h ?_)
  split
  · exact h
  split
  · exact startAct_keeps _ _ _ _ _ _ hd
  · exact startAct_keeps _ _ _ _ _ _ (disarm_keeps _ _ _ _ hd)

theorem execActivationStart_keeps (bed : Nat) (s : State) {b0 : Base} (hs : Keeps b0 s) : OutKeeps b0 (execActivationStart bed s) := by
  unfold execActivationStart
  repeat' (first
      | with_reducible assumption | with_reducible apply activationStart_keeps | with_reducible apply next_keeps
      | with_reducible apply outKeeps_next | with_reducible apply keeps_ite | with_reducible apply outKeeps_ite)

theorem verdictRelease_keeps (n : Nat) (inl : Bool) (s : State) {b0 : Base} (hs : Keeps b0 s) : Keeps b0 (verdictRelease n inl s) := by
  unfold verdictRelease
  try dsimp only
  repeat' (first
      | with_reducible assumption | with_reducible apply giveVerdict_keeps | with_reducible apply modBed_keeps | (intro _; intros) | split
      | with_reducible apply keeps_ite | (fail_if_no_progress refine Keeps.upd id id id id id id id id id id id id id id id id ?_))

theorem execVerdictRelease_keeps (bed : Nat) (inl : Bool) (s : State) {b0 : Base} (hs : Keeps b0 s) : OutKeeps b0 (execVerdictRelease bed inl s) := by
  unfold execVerdictRelease
  repeat' (first
      | with_reducible assumption | with_reducible apply verdictRelease_keeps | with_reducible apply next_keeps
      | with_reducible apply outKeeps_next | with_reducible apply outKeeps_ite | with_reducible apply keeps_ite)

theorem execBedLockup_keeps (bed_ : Nat) (stuck : Bool) (s0 : State) {b0 : Base} (hs0 : Keeps b0 s0) : OutKeeps b0 (execBedLockup bed_ stuck s0) := by
  unfold execBedLockup
  try dsimp only
  repeat' (first
      | with_reducible assumption | with_reducible apply raiseAlarm_keeps | with_reducible apply reachEdge_keeps
      | with_reducible apply fireFur_keeps | with_reducible apply modBed_keeps | with_reducible apply next_keeps
      | with_reducible apply outKeeps_next | with_reducible apply outKeeps_ite | split | with_reducible apply keeps_foldl
      | with_reducible apply keeps_foldl_snd | with_reducible apply keeps_ite | (intro _; intros)
      | (fail_if_no_progress refine Keeps.upd id id id id id id id id id id id id id id id id ?_))

theorem reachRep_keeps (f ns : Nat) (s : State) {b0 : Base} (hs : Keeps b0 s) : Keeps b0 (reachRep f ns s) := by
  unfold reachRep
  repeat' (first | with_reducible assumption | with_reducible apply reachNs_keeps)

theorem queueTimer_keeps (n h d : Nat) (s0 : State) {b0 : Base} (hs0 : Keeps b0 s0) : Keeps b0 (queueTimer n h d s0) := by
  unfold queueTimer
  extract_lets s b k ar gone
  have hs : Keeps b0 s := modBed_keeps _ _ _ hs0
  have hg : Keeps b0 gone := disarm_keeps _ _ _ _ hs
  clear_value gone s
  split
  · exact keeps_ite hg (noProgram_keeps _ _ hg)
  · refine keeps_ite hg (keeps_ite (fireBed_keeps _ _ _ _ _ (bctr_keeps _ _ _ hg)) ?_)
    have h2 := enqueueAct_keeps n { uid := none, handle := h, prog := k, ns := d, area := ar, seq := 0 } s hs
    split
    · rename_i heq; rw [heq] at h2; exact bctr_keeps _ _ _ h2
    · rename_i heq; rw [heq] at h2; exact modBed_keeps _ _ _ h2

theorem execDeadlineFire_keeps (bed_ : Nat) (s : State) {b0 : Base} (hs : Keeps b0 s) : OutKeeps b0 (execDeadlineFire bed_ s) := by
  unfold execDeadlineFire
  repeat' (first
      | with_reducible assumption | with_reducible apply queueTimer_keeps | with_reducible apply reachRep_keeps | with_reducible apply next_keeps
      | with_reducible apply outKeeps_next | with_reducible apply outKeeps_ite | split | with_reducible apply keeps_ite)

theorem execTimerQueueRetry_keeps (bed_ : Nat) (s0 : State) {b0 : Base} (hs0 : Keeps b0 s0) : OutKeeps b0 (execTimerQueueRetry bed_ s0) := by
  unfold execTimerQueueRetry
  try dsimp only
  repeat' (first
      | with_reducible assumption | with_reducible apply queueTimer_keeps | with_reducible apply reachEdge_keeps
      | with_reducible apply modBed_keeps | with_reducible apply next_keeps | with_reducible apply outKeeps_next | split
      | with_reducible apply outKeeps_ite | with_reducible apply keeps_ite | (intro _; intros)
      | (fail_if_no_progress refine Keeps.upd id id id id id id id id id id id id id id id id ?_))

theorem wipeBed_keeps (n : Nat) (s : State) {b0 : Base} (hs : Keeps b0 s) : Keeps b0 (wipeBed n s) := by
  unfold wipeBed
  repeat' (first
      | with_reducible assumption | with_reducible apply modFur_keeps | with_reducible apply modBed_keeps | with_reducible apply keeps_ite
      | (intro _; intros) | split | (fail_if_no_progress refine Keeps.upd id id id id id id id id id id id id id id id id ?_))

theorem giveDefault_keeps (n : Nat) (q : QEnt) (s : State) {b0 : Base} (hs : Keeps b0 s) : Keeps b0 (giveDefault n q s) := by
  unfold giveDefault
  try dsimp only
  repeat' (first
      | with_reducible assumption | with_reducible apply giveVerdict_keeps | with_reducible apply modBed_keeps | (intro _; intros)
      | (refine keeps_snd (by assumption) ?_) | (fail_if_no_progress refine Keeps.upd id id id id id id id id id id id id id id id id ?_))

theorem imageDone_keeps (n : Nat) (s : State) {b0 : Base} (hs : Keeps b0 s) : Keeps b0 (imageDone n s) := by
  unfold imageDone
  try dsimp only
  repeat' (first
      | with_reducible assumption | with_reducible apply modBed_keeps | with_reducible apply giveDefault_keeps
      | with_reducible apply fireFur_keeps | with_reducible apply wipeBed_keeps | with_reducible apply disarm_keeps
      | with_reducible apply keeps_foldl | with_reducible apply keeps_foldl_snd | with_reducible apply keeps_ite | (intro _; intros) | split
      | (fail_if_no_progress refine Keeps.upd id id id id id id id id id id id id id id id id ?_))

theorem execImageActivationComplete_keeps (bed_ : Nat) (s : State) {b0 : Base} (hs : Keeps b0 s) : OutKeeps b0 (execImageActivationComplete bed_ s) := by
  unfold execImageActivationComplete
  try dsimp only
  repeat' (first
      | with_reducible assumption | with_reducible apply next_keeps | with_reducible apply reachNs_keeps | with_reducible apply imageDone_keeps
      | with_reducible apply complete_keeps | with_reducible apply keeps_foldl | with_reducible apply keeps_foldl_snd
      | with_reducible apply outKeeps_next | with_reducible apply outKeeps_ite | (intro _; intros) | split | with_reducible apply keeps_ite
      | (fail_if_no_progress refine Keeps.upd id id id id id id id id id id id id id id id id ?_))

theorem hotFault_keeps (f : Nat) (h : Nat) (s0 : State) {b0 : Base} (hs0 : Keeps b0 s0) : Keeps b0 (hotFault f h s0) := by
  unfold hotFault
  try dsimp only
  repeat' (first
      | with_reducible assumption | with_reducible apply raiseAlarm_keeps | with_reducible apply modGran_keeps
      | with_reducible apply fireFur_keeps | with_reducible apply memUnc_keeps | with_reducible apply modFur_keeps
      | with_reducible apply modBed_keeps | (intro _; intros) | split
      | (fail_if_no_progress refine Keeps.upd id id id id id id id id id id id id id id id id ?_))

theorem bedFault_keeps (n : Nat) (s0 : State) {b0 : Base} (hs0 : Keeps b0 s0) : Keeps b0 (bedFault n s0) := by
  unfold bedFault
  try dsimp only
  repeat' (first
      | with_reducible assumption | with_reducible apply raiseAlarm_keeps | with_reducible apply fireFur_keeps | with_reducible apply modBed_keeps
      | with_reducible apply giveDefault_keeps | with_reducible apply keeps_foldl | with_reducible apply keeps_foldl_snd
      | with_reducible apply keeps_ite | (intro _; intros) | split
      | (fail_if_no_progress refine Keeps.upd id id id id id id id id id id id id id id id id ?_))

theorem pinRecord_keeps (n : Nat) (h : Nat) (on : Bool) (s : State) {b0 : Base} (hs : Keeps b0 s) : Keeps b0 (pinRecord n h on s) := by
  unfold pinRecord
  try dsimp only
  repeat' (first
      | with_reducible assumption | with_reducible apply install_keeps | with_reducible apply modBed_keeps | with_reducible apply wantRecord_keeps
      | with_reducible apply keeps_ite | (intro _; intros)
      | (fail_if_no_progress refine Keeps.upd id id id id id id id id id id id id id id id id ?_))

theorem resetStream_keeps (f : Nat) (h : Nat) (te : Nat) (s : State) {b0 : Base} (hs : Keeps b0 s) : Keeps b0 (resetStream f h te s) := by
  unfold resetStream
  try dsimp only
  repeat' (first
      | with_reducible assumption | with_reducible apply modFur_keeps | with_reducible apply modBed_keeps | with_reducible apply keeps_ite
      | (intro _; intros) | split | (fail_if_no_progress refine Keeps.upd id id id id id id id id id id id id id id id id ?_))

theorem bodyStreamSupervise_keeps (p : Packet) (s0 : State) {b0 : Base} (hs0 : Keeps b0 s0) : ResKeeps b0 (bodyStreamSupervise p s0) := by
  unfold bodyStreamSupervise
  try dsimp only
  repeat' (first
      | with_reducible assumption | with_reducible apply checked_keeps | with_reducible apply unlessUpset_keeps
      | with_reducible apply hotFault_keeps | with_reducible apply stageWait_keeps | with_reducible apply purgeStaging_keeps
      | with_reducible apply eachFur_keeps | with_reducible apply pinRecord_keeps | with_reducible apply onFurrow_keeps
      | with_reducible apply bedFault_keeps | with_reducible apply memUnc_keeps | with_reducible apply resetStream_keeps
      | with_reducible apply keeps_foldl | with_reducible apply keeps_foldl_snd | exact trivial | with_reducible apply resKeeps_ok
      | with_reducible apply resKeeps_final | with_reducible apply resKeeps_accepted | with_reducible apply resKeeps_ite | (intro _; intros)
      | split | with_reducible apply keeps_ite | (fail_if_no_progress unfold checked) | trivial
      | (fail_if_no_progress refine Keeps.upd id id id id id id id id id id id id id id id id ?_))

theorem execStreamSupervise_keeps (p : Packet) (s : State) {b0 : Base} (hs : Keeps b0 s) : OutKeeps b0 (execStreamSupervise p s) := 
  serveCmd_keeps _ _ _ _ (specKeeps_none rfl) (fun p t h => bodyStreamSupervise_keeps p t h) hs

theorem bodyKeySlotWrite_keeps (p : Packet) (s0 : State) {b0 : Base} (hs0 : Keeps b0 s0) : ResKeeps b0 (bodyKeySlotWrite p s0) := by
  unfold bodyKeySlotWrite
  try dsimp only
  repeat' (first
      | with_reducible assumption | with_reducible apply stageWait_keeps | with_reducible apply purgeStaging_keeps
      | with_reducible apply stageAll_keeps | with_reducible apply checked_keeps | with_reducible apply resKeeps_ok
      | with_reducible apply resKeeps_ite | with_reducible apply keeps_ite | with_reducible apply resKeeps_final
      | with_reducible apply resKeeps_accepted | (fail_if_no_progress unfold checked) | trivial | (intro _; intros) | split
      | (fail_if_no_progress refine Keeps.upd id id id id id id id id id id id id id id id id ?_))

theorem execKeySlotWrite_keeps (p : Packet) (s : State) {b0 : Base} (hs : Keeps b0 s) : OutKeeps b0 (execKeySlotWrite p s) := 
  serveCmd_keeps _ _ _ _ (specKeeps_some rfl (fun t h => tabUpset_keeps t h)) (fun p t h => bodyKeySlotWrite_keeps p t h) hs

theorem bodyTineImageLoad_keeps (p : Packet) (s : State) {b0 : Base} (hs : Keeps b0 s) : ResKeeps b0 (bodyTineImageLoad p s) := by
  unfold bodyTineImageLoad
  try dsimp only
  repeat' (first
      | with_reducible assumption | with_reducible apply checked_keeps | with_reducible apply modBed_keeps | with_reducible apply keeps_foldl
      | with_reducible apply resKeeps_ok | with_reducible apply resKeeps_accepted | exact trivial | with_reducible apply keeps_ite
      | with_reducible apply resKeeps_ite | (intro _; intros) | split
      | (fail_if_no_progress refine Keeps.upd id id id id id id id id id id id id id id id id ?_))

theorem execTineImageLoad_keeps (p : Packet) (s : State) {b0 : Base} (hs : Keeps b0 s) : OutKeeps b0 (execTineImageLoad p s) := 
  serveCmd_keeps _ _ _ _ (specKeeps_none rfl) (fun p t h => bodyTineImageLoad_keeps p t h) hs

theorem completeDetail_keeps (t : Ticket) (status detail : Nat) (params : List Byte) (s : State) {b0 : Base} (hs : Keeps b0 s) : Keeps b0 (completeDetail t status detail params s) := by
  unfold completeDetail
  repeat' (first
      | with_reducible assumption | with_reducible apply modSession_keeps | with_reducible apply respond_keeps
      | with_reducible apply keeps_ite)

theorem execTineImageVerified_keeps (s : State) {b0 : Base} (hs : Keeps b0 s) : OutKeeps b0 (execTineImageVerified s) := by
  unfold execTineImageVerified
  split; exact outKeeps_next hs
  split; exact outKeeps_next hs
  rename_i l heq
  split; exact outKeeps_next hs
  extract_lets s1 i s2
  have h1 : Keeps b0 s1 := Keeps.upd id id id id id id id id id id id id id id id id hs
  have h2 : Keeps b0 s2 := keeps_foldl (fun t n ht => fireFur_keeps _ _ _ _ _ (modBed_keeps _ _ _ ht)) h1
  clear_value s2 i s1
  generalize imageBad l.bytes = r
  generalize imageAuth s l.bytes = q
  cases r <;> cases q
  · exact outKeeps_next (completeDetail_keeps _ _ _ _ _ h1)
  · exact outKeeps_next (complete_keeps _ _ _ _ h2)
  · exact outKeeps_next (completeDetail_keeps _ _ _ _ _ h1)
  · exact outKeeps_next (completeDetail_keeps _ _ _ _ _ h1)

theorem bodyTineImageActivate_keeps (p : Packet) (s : State) {b0 : Base} (hs : Keeps b0 s) : ResKeeps b0 (bodyTineImageActivate p s) := by
  unfold bodyTineImageActivate
  repeat' (first
      | with_reducible assumption | with_reducible apply checked_keeps | with_reducible apply modBed_keeps | with_reducible apply keeps_foldl
      | with_reducible apply resKeeps_accepted | exact trivial | with_reducible apply resKeeps_ite | (intro _; intros))

theorem execTineImageActivate_keeps (p : Packet) (s : State) {b0 : Base} (hs : Keeps b0 s) : OutKeeps b0 (execTineImageActivate p s) := 
  serveCmd_keeps _ _ _ _ (specKeeps_none rfl) (fun p t h => bodyTineImageActivate_keeps p t h) hs

theorem bodyTineSampleSet_keeps (p : Packet) (s : State) {b0 : Base} (hs : Keeps b0 s) : ResKeeps b0 (bodyTineSampleSet p s) := by
  unfold bodyTineSampleSet
  repeat' (first
      | with_reducible assumption | with_reducible apply checked_keeps | with_reducible apply modFur_keeps | with_reducible apply keeps_foldl
      | with_reducible apply resKeeps_ok | with_reducible apply keeps_ite | (intro _; intros))

theorem execTineSampleSet_keeps (p : Packet) (s : State) {b0 : Base} (hs : Keeps b0 s) : OutKeeps b0 (execTineSampleSet p s) := 
  serveCmd_keeps _ _ _ _ (specKeeps_none rfl) (fun p t h => bodyTineSampleSet_keeps p t h) hs

theorem bodyBedStatus_keeps (p : Packet) (s : State) {b0 : Base} (hs : Keeps b0 s) : ResKeeps b0 (bodyBedStatus p s) := by
  unfold bodyBedStatus
  repeat' (first
      | with_reducible assumption | with_reducible apply checked_keeps | with_reducible apply resKeeps_ok | with_reducible apply resKeeps_ite)

theorem execBedStatus_keeps (p : Packet) (s : State) {b0 : Base} (hs : Keeps b0 s) : OutKeeps b0 (execBedStatus p s) := 
  serveCmd_keeps _ _ _ _ (specKeeps_none rfl) (fun p t h => bodyBedStatus_keeps p t h) hs

end Sys2Proof.Machine
end

