-- ==== Sys2Proof/Laws/KeepDecide.lean ====
section
/-! SUPPORT. What the operations of Machine/Decide.lean keep. -/

namespace Sys2Proof.Machine

theorem hlCtr_keeps (k : Nat) (s : State) {b0 : Base} (hs : Keeps b0 s) : Keeps b0 (hlCtr k s) := by
  unfold hlCtr
  repeat' (first
      | with_reducible assumption | (fail_if_no_progress refine Keeps.upd id id id id id id id id id id id id id id id id ?_))

theorem hlCtrN_keeps (k n : Nat) (s : State) {b0 : Base} (hs : Keeps b0 s) : Keeps b0 (hlCtrN k n s) := by
  unfold hlCtrN
  repeat' (first
      | with_reducible assumption | (fail_if_no_progress refine Keeps.upd id id id id id id id id id id id id id id id id ?_))

theorem digestAdd_keeps (f : Nat) (x : Frame) (d : Decision) (s : State) {b0 : Base} (hs : Keeps b0 s) : Keeps b0 (digestAdd f x d s) := by
  unfold digestAdd
  repeat' (first
      | with_reducible assumption | with_reducible apply modFur_keeps | with_reducible apply hlCtr_keeps | with_reducible apply keeps_ite)

theorem settleCopy_keeps (f u : Nat) (d : Decision) (s : State) {b0 : Base} (hs : Keeps b0 s) : Keeps b0 (settleCopy f u d s) := by
  unfold settleCopy
  repeat' (first
      | with_reducible assumption | with_reducible apply releaseOverlap_keeps | with_reducible apply releaseTwin_keeps
      | with_reducible apply dropLate_keeps | with_reducible apply modCopy_keeps | with_reducible apply keeps_ite)

theorem reenter_keeps (f : Nat) (u : Nat) (d : Decision) (s : State) {b0 : Base} (hs : Keeps b0 s) : Keeps b0 (reenter f u d s) := by
  unfold reenter
  try dsimp only
  repeat' (first
      | with_reducible assumption | with_reducible apply releaseCopy_keeps | with_reducible apply tryReturn_keeps
      | with_reducible apply modFrame_keeps | with_reducible apply dropLate_keeps | with_reducible apply modCopy_keeps
      | with_reducible apply modFur_keeps | with_reducible apply assignSeqs_keeps | with_reducible apply mirrorFrame_keeps
      | with_reducible apply keeps_ite | (intro _; intros)
      | (fail_if_no_progress refine Keeps.upd id id id id id id id id id id id id id id id id ?_))

theorem hostLate_keeps (u : Nat) (h : Nat) (f : Nat) (s : State) {b0 : Base} (hs : Keeps b0 s) : Keeps b0 (hostLate u h f s) := by
  unfold hostLate
  try dsimp only
  repeat' (first
      | with_reducible assumption | with_reducible apply fireFurMs_keeps | with_reducible apply xctr_keeps | with_reducible apply offerCopy_keeps
      | with_reducible apply modCopy_keeps | with_reducible apply setLane_keeps | with_reducible apply laneFullDrop_keeps
      | with_reducible apply complete_keeps | with_reducible apply keeps_ite | (intro _; intros) | split
      | (fail_if_no_progress refine Keeps.upd id id id id id id id id id id id id id id id id ?_))

theorem lateAction_keeps (f : Nat) (u : Nat) (c : Nat) (d : Decision) (s : State) {b0 : Base} (hs : Keeps b0 s) : Keeps b0 (lateAction f u c d s) := by
  unfold lateAction
  try dsimp only
  repeat' (first
      | with_reducible assumption | with_reducible apply hctr_keeps | with_reducible apply fireFurMs_keeps | with_reducible apply dropLate_keeps
      | with_reducible apply unqueue_keeps | with_reducible apply modFrame_keeps | with_reducible apply releaseFrame_keeps
      | with_reducible apply modCopy_keeps | with_reducible apply dropEntries_keeps | with_reducible apply hostLate_keeps
      | with_reducible apply keeps_ite | (intro _; intros) | split
      | (fail_if_no_progress refine Keeps.upd id id id id id id id id id id id id id id id id ?_))

theorem frameEndCheck_keeps (f u : Nat) (s : State) {b0 : Base} (hs : Keeps b0 s) : Keeps b0 (frameEndCheck f u s) := by
  unfold frameEndCheck
  try dsimp only
  repeat' (first
      | with_reducible assumption | with_reducible apply lateAction_keeps | with_reducible apply modFrame_keeps
      | with_reducible apply cutBoth_keeps | with_reducible apply hctr_keeps | with_reducible apply reap_keeps
      | with_reducible apply keeps_ite | split)

theorem harrowDecision_keeps (f u upset : Nat) (s0 : State) {b0 : Base} (hs0 : Keeps b0 s0) : Keeps b0 (harrowDecision f u upset s0) := by
  unfold harrowDecision
  dsimp only
  refine keeps_ite hs0 ?_
  have hh := harrowDecide_keeps f (frame s0 u) upset _ (reachEdge_keeps (decisionEdge s0 f (frame s0 u)) s0 hs0)
  split
  · rename_i heq; rw [heq] at hh; exact hh
  · rename_i d s1 heq; rw [heq] at hh
    have h2 : Keeps b0 (digestAdd f (frame s0 u) d (modFrame u (fun x => setDec f d { x with due := setBit x.due f false }) s1)) :=
      digestAdd_keeps _ _ _ _ (modFrame_keeps _ _ _ hh)
    clear heq
    revert h2
    generalize digestAdd f (frame s0 u) d _ = s2
    intro h2
    have h4 : Keeps b0 (if ((frame s0 u).kind != 0) = true then reap u (reenter f u d s2)
        else reap u (settleCopy f u d (if dispatches f (frame s0 u) d = true then dispatchFrame f u d s2 else s2))) :=
      keeps_ite (reap_keeps _ _ (reenter_keeps _ _ _ _ h2)) (reap_keeps _ _ (settleCopy_keeps _ _ _ _ (keeps_ite (dispatchFrame_keeps _ _ _ _ h2) h2)))
    exact keeps_ite (frameEndCheck_keeps _ _ _ h4) h4

theorem execHarrowDecision_keeps (f : Furrow) (uid : Nat) (upset : Nat) (s : State) {b0 : Base} (hs : Keeps b0 s) : OutKeeps b0 (execHarrowDecision f uid upset s) := by
  unfold execHarrowDecision
  repeat' (first
      | with_reducible assumption | with_reducible apply harrowDecision_keeps | with_reducible apply next_keeps
      | with_reducible apply outKeeps_next | with_reducible apply outKeeps_ite | with_reducible apply keeps_ite)

theorem execHarrowFrameEnd_keeps (f : Furrow) (uid : Nat) (s : State) {b0 : Base} (hs : Keeps b0 s) : OutKeeps b0 (execHarrowFrameEnd f uid s) := by
  unfold execHarrowFrameEnd
  try dsimp only
  repeat' (first
      | with_reducible assumption | with_reducible apply frameEndCheck_keeps | with_reducible apply modFrame_keeps
      | with_reducible apply next_keeps | with_reducible apply outKeeps_next | with_reducible apply keeps_ite | with_reducible apply outKeeps_ite
      | split | (intro _; intros) | (fail_if_no_progress refine Keeps.upd id id id id id id id id id id id id id id id id ?_))

end Sys2Proof.Machine
end

