-- ==== Sys2Proof/Laws/KeepSession.lean ====
section
/-! SUPPORT. What the operations of Machine/Session.lean keep. -/

namespace Sys2Proof.Machine

theorem openIn_keeps (k v priv idle : Nat) (src : Endpoint) (s : State) {b0 : Base} (hs : Keeps b0 s) : ResKeeps b0 (openIn k v priv idle src s) := by
  unfold openIn
  repeat' (first
      | with_reducible assumption | with_reducible apply resKeeps_ok | (intro h; (try dsimp only); exact canon_tset _ _ h) | (intro _; intros)
      | split | (fail_if_no_progress with_reducible apply Keeps.upd))

theorem authMismatch_keeps (s : State) {b0 : Base} (hs : Keeps b0 s) : Keeps b0 (authMismatch s) := by
  unfold authMismatch
  repeat' (first
      | with_reducible assumption | with_reducible apply keeps_ite
      | (fail_if_no_progress refine Keeps.upd id id id id id id id id id id id id id id id id ?_))

theorem bodyOpenSession_keeps (p : Packet) (s : State) {b0 : Base} (hs : Keeps b0 s) : ResKeeps b0 (bodyOpenSession p s) := by
  unfold bodyOpenSession
  try dsimp only
  repeat' (first
      | with_reducible assumption | with_reducible apply authMismatch_keeps | with_reducible apply checked_keeps
      | with_reducible apply openIn_keeps | with_reducible apply resKeeps_final | exact trivial | with_reducible apply resKeeps_ite | split
      | (fail_if_no_progress refine Keeps.upd id id id id id id id id id id id id id id id id ?_))

theorem execOpenSession_keeps (p : Packet) (s : State) {b0 : Base} (hs : Keeps b0 s) : OutKeeps b0 (execOpenSession p s) := 
  serveCmd_keeps _ _ _ _ (specKeeps_none rfl) (fun p t h => bodyOpenSession_keeps p t h) hs

theorem bodyCloseSession_keeps (w0 : Packet) (s : State) {b0 : Base} (hs : Keeps b0 s) : ResKeeps b0 (bodyCloseSession w0 s) := by
  unfold bodyCloseSession
  repeat' (first
      | with_reducible assumption | with_reducible apply modSession_keeps | exact trivial | with_reducible apply resKeeps_ok
      | with_reducible apply resKeeps_final | with_reducible apply resKeeps_accepted | (intro _; intros)
      | (fail_if_no_progress refine Keeps.upd id id id id id id id id id id id id id id id id ?_))

theorem serveClose_keeps (p : Packet) (s : State) {b0 : Base} (hs : Keeps b0 s) : Keeps b0 (serveClose p s) := by
  unfold serveClose
  exact settleClosings_keeps _ (serve_keeps _ _ _ _ _ (specKeeps_none rfl) (fun p t h => bodyCloseSession_keeps p t h) hs)

theorem execCloseSession_keeps (p : Packet) (s : State) {b0 : Base} (hs : Keeps b0 s) : OutKeeps b0 (execCloseSession p s) := by
  unfold execCloseSession
  repeat' (first | with_reducible assumption | with_reducible apply serveClose_keeps | with_reducible apply outKeeps_next)

theorem bodyGetIdentity_keeps (w0 : Packet) (s : State) {b0 : Base} (hs : Keeps b0 s) : ResKeeps b0 (bodyGetIdentity w0 s) := by
  unfold bodyGetIdentity
  repeat' (first | with_reducible assumption | with_reducible apply resKeeps_ok)

theorem execGetIdentity_keeps (p : Packet) (s : State) {b0 : Base} (hs : Keeps b0 s) : OutKeeps b0 (execGetIdentity p s) := 
  serveCmd_keeps _ _ _ _ (specKeeps_none rfl) (fun p t h => bodyGetIdentity_keeps p t h) hs

theorem bodyGetState_keeps (w0 : Packet) (s : State) {b0 : Base} (hs : Keeps b0 s) : ResKeeps b0 (bodyGetState w0 s) := by
  unfold bodyGetState
  repeat' (first | with_reducible assumption | with_reducible apply resKeeps_ok)

theorem execGetState_keeps (p : Packet) (s : State) {b0 : Base} (hs : Keeps b0 s) : OutKeeps b0 (execGetState p s) := 
  serveCmd_keeps _ _ _ _ (specKeeps_none rfl) (fun p t h => bodyGetState_keeps p t h) hs

theorem bodyEcho_keeps (p : Packet) (s : State) {b0 : Base} (hs : Keeps b0 s) : ResKeeps b0 (bodyEcho p s) := by
  unfold bodyEcho
  repeat' (first | with_reducible assumption | with_reducible apply resKeeps_ok)

theorem execEcho_keeps (p : Packet) (s : State) {b0 : Base} (hs : Keeps b0 s) : OutKeeps b0 (execEcho p s) := 
  serveCmd_keeps _ _ _ _ (specKeeps_none rfl) (fun p t h => bodyEcho_keeps p t h) hs

theorem execIdleTimeout_keeps (slot : Nat) (s0 : State) {b0 : Base} (hs0 : Keeps b0 s0) : OutKeeps b0 (execIdleTimeout slot s0) := by
  unfold execIdleTimeout
  try dsimp only
  repeat' (first
      | with_reducible assumption | with_reducible apply closeSession_keeps | with_reducible apply reachEdge_keeps
      | with_reducible apply fire_keeps | with_reducible apply next_keeps | with_reducible apply idle_keeps | with_reducible apply outKeeps_next
      | with_reducible apply outKeeps_ite | with_reducible apply keeps_ite)

theorem execMaintainLockoutEnd_keeps (s0 : State) {b0 : Base} (hs0 : Keeps b0 s0) : OutKeeps b0 (execMaintainLockoutEnd s0) := by
  unfold execMaintainLockoutEnd
  try dsimp only
  repeat' (first
      | with_reducible assumption | with_reducible apply reachEdge_keeps | with_reducible apply next_keeps | with_reducible apply outKeeps_next
      | split | with_reducible apply outKeeps_ite | with_reducible apply keeps_ite
      | (fail_if_no_progress refine Keeps.upd id id id id id id id id id id id id id id id id ?_))

end Sys2Proof.Machine
end

