-- ==== Sys2Proof/Laws/KeepWindow.lean ====
section
/-! SUPPORT. What the operations of Machine/Window.lean keep. -/

namespace Sys2Proof.Machine

theorem ringFault_keeps (k flag cause : Nat) (s : State) {b0 : Base} (hs : Keeps b0 s) : Keeps b0 (ringFault k flag cause s) := by
  unfold ringFault
  repeat' (first | with_reducible assumption | with_reducible apply modRing_keeps | with_reducible apply fire_keeps)

theorem ringIgnored_keeps (k : Nat) (s : State) {b0 : Base} (hs : Keeps b0 s) : Keeps b0 (ringIgnored k s) := by
  unfold ringIgnored
  repeat' (first | with_reducible assumption | with_reducible apply modRing_keeps)

theorem hfrFault_keeps (flag cause : Nat) (s : State) {b0 : Base} (hs : Keeps b0 s) : Keeps b0 (hfrFault flag cause s) := by
  unfold hfrFault
  repeat' (first
      | with_reducible assumption | with_reducible apply fire_keeps
      | (fail_if_no_progress refine Keeps.upd id id id id id id id id id id id id id id id id ?_))

theorem hfrIgnored_keeps (s : State) {b0 : Base} (hs : Keeps b0 s) : Keeps b0 (hfrIgnored s) := by
  unfold hfrIgnored
  repeat' (first
      | with_reducible assumption | (fail_if_no_progress refine Keeps.upd id id id id id id id id id id id id id id id id ?_))

theorem narrowCount_keeps (s : State) {b0 : Base} (hs : Keeps b0 s) : Keeps b0 (narrowCount s) := by
  unfold narrowCount
  repeat' (first
      | with_reducible assumption | (fail_if_no_progress refine Keeps.upd id id id id id id id id id id id id id id id id ?_))

theorem doorbell_keeps (be v size : Nat) (ign : State → State) (flt : Nat → Nat → State → State) (go : State → State) (s : State) {b0 : Base} (hign : ∀ (t0 : State), Keeps b0 t0 → Keeps b0 (ign t0)) (hflt : ∀ (t0 : Nat) (t1 : Nat) (t2 : State), Keeps b0 t2 → Keeps b0 (flt t0 t1 t2)) (hgo : ∀ (t0 : State), Keeps b0 t0 → Keeps b0 (go t0)) (hs : Keeps b0 s) : Keeps b0 (doorbell be v size ign flt go s) := by
  unfold doorbell
  repeat' (first
      | with_reducible assumption | with_reducible apply narrowCount_keeps | with_reducible apply hign | with_reducible apply hflt
      | with_reducible apply hgo | with_reducible apply keeps_ite)

theorem ringCmdTail_keeps (k be v : Nat) (s : State) {b0 : Base} (hs : Keeps b0 s) : Keeps b0 (ringCmdTail k be v s) := by
  unfold ringCmdTail
  repeat' (first
      | with_reducible assumption | with_reducible apply ringIgnored_keeps | with_reducible apply ringFault_keeps
      | with_reducible apply doorbell_keeps | with_reducible apply modRing_keeps | (intro _; intros))

theorem ringRplTail_keeps (k be v : Nat) (s : State) {b0 : Base} (hs : Keeps b0 s) : Keeps b0 (ringRplTail k be v s) := by
  unfold ringRplTail
  repeat' (first
      | with_reducible assumption | with_reducible apply doorbell_keeps | with_reducible apply ringIgnored_keeps
      | with_reducible apply ringFault_keeps | with_reducible apply settleClosings_keeps | with_reducible apply drainRing_keeps
      | with_reducible apply modRing_keeps | (intro _; intros)
      | (fail_if_no_progress refine Keeps.upd id id id id id id id id id id id id id id id id ?_))

theorem closeEndpoint_keeps (e : Endpoint) (s : State) {b0 : Base} (hs : Keeps b0 s) : Keeps b0 (closeEndpoint e s) := by
  unfold closeEndpoint
  repeat' (first
      | with_reducible assumption | with_reducible apply closeSession_keeps | with_reducible apply keeps_foldl
      | with_reducible apply keeps_ite | (intro _; intros))

theorem ringDisable_keeps (k : Nat) (s : State) {b0 : Base} (hs : Keeps b0 s) : Keeps b0 (ringDisable k s) := by
  unfold ringDisable
  repeat' (first | with_reducible assumption | with_reducible apply closeEndpoint_keeps | with_reducible apply modRing_keeps)

theorem ringCtrl_keeps (k v : Nat) (s : State) {b0 : Base} (hs : Keeps b0 s) : Keeps b0 (ringCtrl k v s) := by
  unfold ringCtrl
  repeat' (first
      | with_reducible assumption | with_reducible apply ringDisable_keeps | with_reducible apply modRing_keeps
      | with_reducible apply ringFault_keeps | with_reducible apply keeps_ite)

theorem hfrTxEnable_keeps (on : Bool) (s : State) {b0 : Base} (hs : Keeps b0 s) : Keeps b0 (hfrTxEnable on s) := by
  unfold hfrTxEnable
  repeat' (first
      | with_reducible assumption | with_reducible apply hfrFault_keeps | with_reducible apply keeps_ite
      | (fail_if_no_progress refine Keeps.upd id id id id id id id id id id id id id id id id ?_))

theorem hfrRxEnable_keeps (on : Bool) (s : State) {b0 : Base} (hs : Keeps b0 s) : Keeps b0 (hfrRxEnable on s) := by
  unfold hfrRxEnable
  repeat' (first
      | with_reducible assumption | with_reducible apply hfrFault_keeps | with_reducible apply keeps_ite
      | (fail_if_no_progress refine Keeps.upd id id id id id id id id id id id id id id id id ?_))

theorem hfrCtrl_keeps (v : Nat) (s : State) {b0 : Base} (hs : Keeps b0 s) : Keeps b0 (hfrCtrl v s) := by
  unfold hfrCtrl
  repeat' (first
      | with_reducible assumption | with_reducible apply hfrRxEnable_keeps | with_reducible apply hfrTxEnable_keeps
      | (fail_if_no_progress refine Keeps.upd id id id id id id id id id id id id id id id id ?_))

theorem hfrTxTail_keeps (be v : Nat) (s : State) {b0 : Base} (hs : Keeps b0 s) : Keeps b0 (hfrTxTail be v s) := by
  unfold hfrTxTail
  repeat' (first
      | with_reducible assumption | with_reducible apply hfrIgnored_keeps | with_reducible apply doorbell_keeps
      | with_reducible apply hfrFault_keeps | (intro _; intros)
      | (fail_if_no_progress refine Keeps.upd id id id id id id id id id id id id id id id id ?_))

theorem hfrRxTail_keeps (be v : Nat) (s : State) {b0 : Base} (hs : Keeps b0 s) : Keeps b0 (hfrRxTail be v s) := by
  unfold hfrRxTail
  repeat' (first
      | with_reducible assumption | with_reducible apply hfrIgnored_keeps | with_reducible apply doorbell_keeps
      | with_reducible apply hfrFault_keeps | (intro _; intros)
      | (fail_if_no_progress refine Keeps.upd id id id id id id id id id id id id id id id id ?_))

theorem eventMask_keeps (r be v : Nat) (s : State) {b0 : Base} (hs : Keeps b0 s) : Keeps b0 (eventMask r be v s) := by
  unfold eventMask
  repeat' (first
      | with_reducible assumption | (fail_if_no_progress refine Keeps.upd id id id id id id id id id id id id id id id id ?_))

theorem msixWrite_keeps (i v : Nat) (s : State) {b0 : Base} (hs : Keeps b0 s) : Keeps b0 (msixWrite i v s) := by
  unfold msixWrite
  repeat' (first
      | with_reducible assumption | with_reducible apply signalVec_keeps | with_reducible apply keeps_ite | split
      | (fail_if_no_progress refine Keeps.upd id id id id id id id id id id id id id id id id ?_))

theorem journalHoldoff_keeps (s : State) {b0 : Base} (hs : Keeps b0 s) : Keeps b0 (journalHoldoff s) := by
  unfold journalHoldoff
  repeat' (first
      | with_reducible assumption | with_reducible apply signalVec_keeps | with_reducible apply keeps_ite
      | (fail_if_no_progress refine Keeps.upd id id id id id id id id id id id id id id id id ?_))

theorem journalConsumer_keeps (be : Nat) (v0 : Nat) (s : State) {b0 : Base} (hs : Keeps b0 s) : Keeps b0 (journalConsumer be v0 s) := by
  unfold journalConsumer
  try dsimp only
  repeat' (first
      | with_reducible assumption | with_reducible apply journalHoldoff_keeps | with_reducible apply settleLoss_keeps
      | with_reducible apply fire_keeps | with_reducible apply keeps_ite | (refine keeps_snd (by assumption) ?_)
      | (fail_if_no_progress refine Keeps.upd id id id id id id id id id id id id id id id id ?_))

theorem regWrite_keeps (off be v : Nat) (s : State) {b0 : Base} (hs : Keeps b0 s) : Keeps b0 (regWrite off be v s) := by
  unfold regWrite
  repeat' (first
      | with_reducible assumption | with_reducible apply journalConsumer_keeps | with_reducible apply ringCmdTail_keeps
      | with_reducible apply ringRplTail_keeps | with_reducible apply hfrRxTail_keeps | with_reducible apply eventMask_keeps
      | with_reducible apply msixWrite_keeps | with_reducible apply hfrTxTail_keeps | with_reducible apply ringCtrl_keeps
      | with_reducible apply hfrCtrl_keeps | with_reducible apply modRing_keeps | with_reducible apply keeps_ite | split
      | (fail_if_no_progress refine Keeps.upd id id id id id id id id id id id id id id id id ?_))

theorem noncontig_keeps (off be : Nat) (write : Bool) (s : State) {b0 : Base} (hs : Keeps b0 s) : Keeps b0 (noncontig off be write s) := by
  unfold noncontig
  repeat' (first
      | with_reducible assumption | with_reducible apply emitOut_keeps | with_reducible apply fire_keeps | with_reducible apply keeps_ite
      | (fail_if_no_progress refine Keeps.upd id id id id id id id id id id id id id id id id ?_))

theorem hostWrite_keeps (off be v : Nat) (s : State) {b0 : Base} (hs : Keeps b0 s) : Keeps b0 (hostWrite off be v s) := by
  unfold hostWrite
  repeat' (first
      | with_reducible assumption | with_reducible apply noncontig_keeps | with_reducible apply regWrite_keeps
      | with_reducible apply keeps_ite)

theorem hostRead_keeps (off be v : Nat) (clear : State → State) (s : State) {b0 : Base} (hclear : ∀ (t0 : State), Keeps b0 t0 → Keeps b0 (clear t0)) (hs : Keeps b0 s) : Keeps b0 (hostRead off be v clear s) := by
  unfold hostRead
  repeat' (first
      | with_reducible assumption | with_reducible apply noncontig_keeps | with_reducible apply emitOut_keeps | with_reducible apply hclear
      | with_reducible apply keeps_ite)

theorem execRegisterWrite_keeps (off be value : Nat) (s : State) {b0 : Base} (hs : Keeps b0 s) : OutKeeps b0 (execRegisterWrite off be value s) := by
  unfold execRegisterWrite
  repeat' (first | with_reducible assumption | with_reducible apply hostWrite_keeps | with_reducible apply outKeeps_next)

theorem execRingCmdTail_keeps (k be value : Nat) (s : State) {b0 : Base} (hs : Keeps b0 s) : OutKeeps b0 (execRingCmdTail k be value s) := by
  unfold execRingCmdTail
  repeat' (first | with_reducible assumption | with_reducible apply hostWrite_keeps | with_reducible apply outKeeps_next)

theorem execRingRplTail_keeps (k be value : Nat) (s : State) {b0 : Base} (hs : Keeps b0 s) : OutKeeps b0 (execRingRplTail k be value s) := by
  unfold execRingRplTail
  repeat' (first | with_reducible assumption | with_reducible apply hostWrite_keeps | with_reducible apply outKeeps_next)

theorem execRingPairEnable_keeps (k vector : Nat) (s : State) {b0 : Base} (hs : Keeps b0 s) : OutKeeps b0 (execRingPairEnable k vector s) := by
  unfold execRingPairEnable
  repeat' (first | with_reducible assumption | with_reducible apply hostWrite_keeps | with_reducible apply outKeeps_next)

theorem execRingPairDisable_keeps (k vector : Nat) (s : State) {b0 : Base} (hs : Keeps b0 s) : OutKeeps b0 (execRingPairDisable k vector s) := by
  unfold execRingPairDisable
  repeat' (first | with_reducible assumption | with_reducible apply hostWrite_keeps | with_reducible apply outKeeps_next)

theorem execRingFaultRead_keeps (k be : Nat) (s : State) {b0 : Base} (hs : Keeps b0 s) : OutKeeps b0 (execRingFaultRead k be s) := by
  unfold execRingFaultRead
  repeat' (first
      | with_reducible assumption | with_reducible apply hostRead_keeps | with_reducible apply modRing_keeps
      | with_reducible apply outKeeps_next | (intro _; intros))

theorem execWindowFaultRead_keeps (be : Nat) (s : State) {b0 : Base} (hs : Keeps b0 s) : OutKeeps b0 (execWindowFaultRead be s) := by
  unfold execWindowFaultRead
  repeat' (first
      | with_reducible assumption | with_reducible apply hostRead_keeps | with_reducible apply outKeeps_next | (intro _; intros)
      | (fail_if_no_progress refine Keeps.upd id id id id id id id id id id id id id id id id ?_))

theorem execNoncontigAccess_keeps (off be : Nat) (write : Bool) (s : State) {b0 : Base} (hs : Keeps b0 s) : OutKeeps b0 (execNoncontigAccess off be write s) := by
  unfold execNoncontigAccess
  repeat' (first
      | with_reducible assumption | with_reducible apply noncontig_keeps | with_reducible apply outKeeps_next | with_reducible apply keeps_ite)

theorem execEventStatusRead_keeps (r be : Nat) (s : State) {b0 : Base} (hs : Keeps b0 s) : OutKeeps b0 (execEventStatusRead r be s) := by
  unfold execEventStatusRead
  repeat' (first
      | with_reducible assumption | with_reducible apply hostRead_keeps | with_reducible apply outKeeps_next | (intro _; intros)
      | (fail_if_no_progress refine Keeps.upd id id id id id id id id id id id id id id id id ?_))

theorem execEventMaskWrite_keeps (r be value : Nat) (s : State) {b0 : Base} (hs : Keeps b0 s) : OutKeeps b0 (execEventMaskWrite r be value s) := by
  unfold execEventMaskWrite
  repeat' (first | with_reducible assumption | with_reducible apply hostWrite_keeps | with_reducible apply outKeeps_next)

theorem execJournalConsumerWrite_keeps (be value : Nat) (s : State) {b0 : Base} (hs : Keeps b0 s) : OutKeeps b0 (execJournalConsumerWrite be value s) := by
  unfold execJournalConsumerWrite
  repeat' (first | with_reducible assumption | with_reducible apply hostWrite_keeps | with_reducible apply outKeeps_next)

theorem execHfrTxTail_keeps (be value : Nat) (s : State) {b0 : Base} (hs : Keeps b0 s) : OutKeeps b0 (execHfrTxTail be value s) := by
  unfold execHfrTxTail
  repeat' (first | with_reducible assumption | with_reducible apply hostWrite_keeps | with_reducible apply outKeeps_next)

theorem execHfrRxTail_keeps (be value : Nat) (s : State) {b0 : Base} (hs : Keeps b0 s) : OutKeeps b0 (execHfrRxTail be value s) := by
  unfold execHfrRxTail
  repeat' (first | with_reducible assumption | with_reducible apply hostWrite_keeps | with_reducible apply outKeeps_next)

theorem execHfrTxEnable_keeps (on : Bool) (s : State) {b0 : Base} (hs : Keeps b0 s) : OutKeeps b0 (execHfrTxEnable on s) := by
  unfold execHfrTxEnable
  repeat' (first | with_reducible assumption | with_reducible apply hostWrite_keeps | with_reducible apply outKeeps_next)

theorem execHfrRxEnable_keeps (on : Bool) (s : State) {b0 : Base} (hs : Keeps b0 s) : OutKeeps b0 (execHfrRxEnable on s) := by
  unfold execHfrRxEnable
  repeat' (first | with_reducible assumption | with_reducible apply hostWrite_keeps | with_reducible apply outKeeps_next)

theorem execHfrFaultRead_keeps (be : Nat) (s : State) {b0 : Base} (hs : Keeps b0 s) : OutKeeps b0 (execHfrFaultRead be s) := by
  unfold execHfrFaultRead
  repeat' (first
      | with_reducible assumption | with_reducible apply hostRead_keeps | with_reducible apply outKeeps_next | (intro _; intros)
      | (fail_if_no_progress refine Keeps.upd id id id id id id id id id id id id id id id id ?_))

theorem execMsixVectorMaskWrite_keeps (v : Nat) (mask : Bool) (s : State) {b0 : Base} (hs : Keeps b0 s) : OutKeeps b0 (execMsixVectorMaskWrite v mask s) := by
  unfold execMsixVectorMaskWrite
  repeat' (first | with_reducible assumption | with_reducible apply hostWrite_keeps | with_reducible apply outKeeps_next)

theorem execSpiStatus_keeps (s : State) {b0 : Base} (hs : Keeps b0 s) : OutKeeps b0 (execSpiStatus s) := by
  unfold execSpiStatus
  repeat' (first
      | with_reducible assumption | with_reducible apply emitOut_keeps | with_reducible apply outKeeps_next
      | (fail_if_no_progress refine Keeps.upd id id id id id id id id id id id id id id id id ?_))

theorem execSpiRead_keeps (n : Nat) (s : State) {b0 : Base} (hs : Keeps b0 s) : OutKeeps b0 (execSpiRead n s) := by
  unfold execSpiRead
  try dsimp only
  repeat' (first
      | with_reducible assumption | with_reducible apply emitOut_keeps | with_reducible apply takeFree_keeps
      | with_reducible apply settleClosings_keeps | with_reducible apply next_keeps | with_reducible apply outKeeps_next
      | with_reducible apply keeps_ite | with_reducible apply outKeeps_ite | split | (refine keeps_snd (by assumption) ?_)
      | (fail_if_no_progress refine Keeps.upd id id id id id id id id id id id id id id id id ?_))

end Sys2Proof.Machine
end

