-- ==== Sys2Proof/Laws/KeepFabric.lean ====
section
/-! SUPPORT. What the operations of Machine/Fabric.lean keep. -/

namespace Sys2Proof.Machine

theorem hostDeliver_keeps (f u : Nat) (bad : Bool) (s : State) {b0 : Base} (hs : Keeps b0 s) : Keeps b0 (hostDeliver f u bad s) := by
  unfold hostDeliver
  repeat' (first
      | with_reducible assumption | with_reducible apply signalVec_keeps | with_reducible apply emitOut_keeps | with_reducible apply keeps_ite
      | (fail_if_no_progress refine Keeps.upd id id id id id id id id id id id id id id id id ?_))

theorem linkWords_keeps (f : Nat) (out : Nat) (k : Nat) (n : Nat) (e : Entry) (c : Copy) (bad : Bool) (last : Option Nat) (s : State) {b0 : Base} (hs : Keeps b0 s) : Keeps b0 (linkWords f out k n e c bad last s) := by
  unfold linkWords
  try dsimp only
  repeat' (first
      | with_reducible assumption | with_reducible apply modFur_keeps | with_reducible apply keeps_ite | (intro _; intros)
      | (fail_if_no_progress refine Keeps.upd id id id id id id id id id id id id id id id id ?_))

theorem egressWords_keeps (f : Nat) (key : Nat) (n : Nat) (last : Bool) (poisoned : Bool) (e : Entry) (s : State) {b0 : Base} (hs : Keeps b0 s) : Keeps b0 (egressWords f key n last poisoned e s) := by
  unfold egressWords
  try dsimp only
  repeat' (first
      | with_reducible assumption | with_reducible apply modEg_keeps | with_reducible apply modDrill_keeps | with_reducible apply keeps_ite
      | (intro _; intros) | split | (fail_if_no_progress refine Keeps.upd id id id id id id id id id id id id id id id id ?_))

theorem crossEntry_keeps (f : Nat) (n : Nat) (poisoned : Bool) (r : Req) (s : State) {b0 : Base} (hs : Keeps b0 s) : Keeps b0 (crossEntry f n poisoned r s) := by
  unfold crossEntry
  try dsimp only
  repeat' (first
      | with_reducible assumption | with_reducible apply modCopy_keeps | with_reducible apply egressWords_keeps
      | with_reducible apply modFur_keeps | with_reducible apply setLane_keeps | with_reducible apply modFrame_keeps
      | with_reducible apply hostDeliver_keeps | with_reducible apply tryReturn_keeps | with_reducible apply noteWrongLan_keeps
      | with_reducible apply linkWords_keeps | with_reducible apply keeps_ite | (intro _; intros) | split | (refine keeps_snd (by assumption) ?_)
      | (fail_if_no_progress refine Keeps.upd id id id id id id id id id id id id id id id id ?_))

theorem wordRead_keeps (f h code : Nat) (s : State) {b0 : Base} (hs : Keeps b0 s) : Keeps b0 (wordRead f h code s).2 := by
  unfold wordRead
  have h1 := readWord_keeps code s hs
  split
  · rename_i heq; rw [heq] at h1; exact keeps_ite_snd (memUnc_keeps _ _ h1) h1
  · rename_i heq; rw [heq] at h1; exact memUnc_keeps _ _ h1

theorem endEg_keeps (p : Nat) (cause : Nat) (lost : Nat) (c : EgCopy) (s : State) {b0 : Base} (hs : Keeps b0 s) : Keeps b0 (endEg p cause lost c s) := by
  unfold endEg
  try dsimp only
  repeat' (first
      | with_reducible assumption | with_reducible apply countTail_keeps | with_reducible apply closeEntry_keeps
      | with_reducible apply modEg_keeps | (intro _; intros)
      | (fail_if_no_progress refine Keeps.upd id id id id id id id id id id id id id id id id ?_))

theorem poisonCopy_keeps (u : Nat) (h : Nat) (w : Option Nat) (s : State) {b0 : Base} (hs : Keeps b0 s) : Keeps b0 (poisonCopy u h w s) := by
  unfold poisonCopy
  extract_lets x n early
  refine cutCopy_keeps _ _ _ _ _ ?_
  split
  · exact xctr_keeps _ _ _ _ (modCopy_keeps _ _ _ _ hs)
  · exact modCopy_keeps _ _ _ _ hs

theorem poisonWords_keeps (f : Nat) (r : Req) (n : Nat) (s : State) {b0 : Base} (hs : Keeps b0 s) : Keeps b0 (poisonWords f r n s) := by
  unfold poisonWords
  repeat' (first
      | with_reducible assumption | with_reducible apply cutCopy_keeps | with_reducible apply modCopy_keeps
      | with_reducible apply poisonCopy_keeps | with_reducible apply countTail_keeps | (intro _; intros)
      | split | with_reducible apply keeps_ite | (fail_if_no_progress refine Keeps.upd id id id id id id id id id id id id id id id id ?_))

theorem dropDeferred_keeps (f : Nat) (r : Req) (poisoned : Bool) (s : State) {b0 : Base} (hs : Keeps b0 s) : Keeps b0 (dropDeferred f r poisoned s) := by
  unfold dropDeferred
  repeat' (first
      | with_reducible assumption | with_reducible apply discardEg_keeps | with_reducible apply turnSeen_keeps | with_reducible apply keeps_ite
      | split)

theorem grantXfer_keeps (f : Nat) (poisoned : Bool) (r : Req) (s : State) {b0 : Base} (hs : Keeps b0 s) : Keeps b0 (grantXfer f poisoned r s) := by
  unfold grantXfer
  try dsimp only
  repeat' (first
      | with_reducible assumption | with_reducible apply modCopy_keeps | with_reducible apply linkWords_keeps | (intro _; intros)
      | (fail_if_no_progress refine Keeps.upd id id id id id id id id id id id id id id id id ?_))

theorem connect_keeps (f : Nat) (bad : List (Nat × Nat)) (c : List Req) (s : State) {b0 : Base} (hs : Keeps b0 s) : Keeps b0 (connect f bad c s) := by
  unfold connect
  try dsimp only
  repeat' (first
      | with_reducible assumption | with_reducible apply xctr_keeps | with_reducible apply wordRead_keeps | with_reducible apply crossEntry_keeps
      | with_reducible apply poisonWords_keeps | with_reducible apply dropDeferred_keeps | with_reducible apply grantXfer_keeps
      | with_reducible apply keeps_foldl | with_reducible apply keeps_foldl_snd | with_reducible apply keeps_ite | (intro _; intros) | split
      | (refine keeps_snd (by assumption) ?_))

theorem touchReq_keeps (r : Req) (s : State) {b0 : Base} (hs : Keeps b0 s) : Keeps b0 (touchReq r s) := by
  unfold touchReq
  repeat' (first | with_reducible assumption | with_reducible apply touchPort_keeps | with_reducible apply keeps_ite | split)

theorem crossbarMatch_keeps (f : Nat) (bad : List (Nat × Nat)) (s0 : State) {b0 : Base} (hs0 : Keeps b0 s0) : Keeps b0 (crossbarMatch f bad s0) := by
  unfold crossbarMatch
  try dsimp only
  repeat' (first
      | with_reducible assumption | with_reducible apply reachEdge_keeps | with_reducible apply touchReq_keeps | with_reducible apply modFur_keeps
      | with_reducible apply perfF_keeps | with_reducible apply connect_keeps | with_reducible apply keeps_foldl
      | with_reducible apply keeps_foldl_snd | with_reducible apply keeps_ite | (intro _; intros) | split
      | (fail_if_no_progress refine Keeps.upd id id id id id id id id id id id id id id id id ?_))

theorem execCrossbarMatch_keeps (f : Furrow) (bad : List (Nat × Nat)) (s : State) {b0 : Base} (hs : Keeps b0 s) : OutKeeps b0 (execCrossbarMatch f bad s) := by
  unfold execCrossbarMatch
  repeat' (first
      | with_reducible assumption | with_reducible apply crossbarMatch_keeps | with_reducible apply next_keeps
      | with_reducible apply outKeeps_next | with_reducible apply outKeeps_ite | with_reducible apply keeps_ite)

theorem poisonLink_keeps (f : Nat) (w : LinkWord) (s : State) {b0 : Base} (hs : Keeps b0 s) : Keeps b0 (poisonLink f w s) := by
  unfold poisonLink
  try dsimp only
  repeat' (first
      | with_reducible assumption | with_reducible apply discardEg_keeps | with_reducible apply countTail_keeps | with_reducible apply modEg_keeps
      | with_reducible apply endEg_keeps | with_reducible apply keeps_ite | (intro _; intros) | split
      | (fail_if_no_progress refine Keeps.upd id id id id id id id id id id id id id id id id ?_))

theorem poisonCrossed_keeps (f : Nat) (u : Nat) (s : State) {b0 : Base} (hs : Keeps b0 s) : Keeps b0 (poisonCrossed f u s) := by
  unfold poisonCrossed
  try dsimp only
  repeat' (first
      | with_reducible assumption | with_reducible apply discardEg_keeps | with_reducible apply endEg_keeps
      | with_reducible apply poisonCopy_keeps | with_reducible apply poisonLink_keeps | with_reducible apply keeps_foldl
      | with_reducible apply keeps_foldl_snd | with_reducible apply keeps_ite | (intro _; intros) | split)

theorem execCrossbarParityError_keeps (f : Furrow) (uids : List Nat) (s : State) {b0 : Base} (hs : Keeps b0 s) : OutKeeps b0 (execCrossbarParityError f uids s) := by
  unfold execCrossbarParityError
  try dsimp only
  repeat' (first
      | with_reducible assumption | with_reducible apply raiseAlarm_keeps | with_reducible apply cutCopy_keeps
      | with_reducible apply modCopy_keeps | with_reducible apply fireFur_keeps | with_reducible apply xctr_keeps
      | with_reducible apply next_keeps | with_reducible apply poisonCrossed_keeps | with_reducible apply keeps_foldl
      | with_reducible apply outKeeps_next | (intro _; intros) | with_reducible apply keeps_foldl_snd | with_reducible apply outKeeps_ite
      | with_reducible apply keeps_ite)

theorem execTc7WaitTimeout_keeps (f : Furrow) (inp : Nat) (out : Nat) (s : State) {b0 : Base} (hs : Keeps b0 s) : OutKeeps b0 (execTc7WaitTimeout f inp out s) := by
  unfold execTc7WaitTimeout
  try dsimp only
  repeat' (first
      | with_reducible assumption | with_reducible apply reachEdge_keeps | with_reducible apply fireFurMs_keeps
      | with_reducible apply setLane_keeps | with_reducible apply next_keeps | with_reducible apply outKeeps_next
      | with_reducible apply outKeeps_ite | split | with_reducible apply keeps_ite
      | (fail_if_no_progress refine Keeps.upd id id id id id id id id id id id id id id id id ?_))

theorem hostFrame_keeps (x : Frame) (a : Ask) (s : State) {b0 : Base} (hs : Keeps b0 s) : Keeps b0 (hostFrame x a s) :=
  Keeps.upd id id id id id id id id id id id (fun h => rising_tput _ _ h) id id id id hs

theorem hfrBroken_keeps (s : State) {b0 : Base} (hs : Keeps b0 s) : Keeps b0 (hfrBroken s) := by
  unfold hfrBroken
  repeat' (first | with_reducible assumption | with_reducible apply hfrFault_keeps | with_reducible apply hfrTxEnable_keeps)

theorem hostFrameSend_keeps (desc body : Option (List Byte)) (s : State) {b0 : Base} (hs : Keeps b0 s) : Keeps b0 (hostFrameSend desc body s) := by
  unfold hostFrameSend
  refine keeps_ite hs ?_
  have ht : ∀ v, Keeps b0 { s with hfr := v } := fun _ => Keeps.upd id id id id id id id id id id id id id id id id hs
  dsimp only
  split; exact hfrBroken_keeps _ hs
  refine keeps_ite (hostTxDone_keeps _ _ _ (ht _)) ?_
  split; exact hfrBroken_keeps _ hs
  exact hostFrame_keeps _ _ _ (ht _)

theorem ownSend_keeps (p k : Nat) (f : List Byte) (y : Option PtpTx) (s : State) {b0 : Base} (hs : Keeps b0 s) : Keeps b0 (ownSend p k f y s) :=
  hostFrame_keeps _ _ _ hs

theorem sendInband_keeps (s : State) {b0 : Base} (hs : Keeps b0 s) : Keeps b0 (sendInband s) := by
  unfold sendInband
  split
  · exact hs
  · exact ownSend_keeps _ _ _ _ _ (Keeps.upd id id id id id id id id id id id id id id id id hs)

theorem execHostFrameSend_keeps (desc : Option (List Byte)) (frame : Option (List Byte)) (s : State) {b0 : Base} (hs : Keeps b0 s) : OutKeeps b0 (execHostFrameSend desc frame s) := by
  unfold execHostFrameSend
  repeat' (first
      | with_reducible assumption | with_reducible apply hostFrameSend_keeps | with_reducible apply next_keeps
      | with_reducible apply outKeeps_next | with_reducible apply outKeeps_ite | with_reducible apply keeps_ite)

end Sys2Proof.Machine
end

