-- ==== Sys2Proof/Laws/KeepLanes.lean ====
section
/-! SUPPORT. What the operations of Machine/Lanes.lean keep. -/

namespace Sys2Proof.Machine

theorem modLink_keeps (p : Nat) (g : LinkState → LinkState) (s : State) {b0 : Base} (hs : Keeps b0 s) : Keeps b0 (modLink p g s) := by
  unfold modLink
  repeat' (first | with_reducible assumption | with_reducible apply modPort_keeps)

theorem i2cOp_keeps (m : Nat) (go : State → State) (s : State) {b0 : Base} (hgo : ∀ (t0 : State), Keeps b0 t0 → Keeps b0 (go t0)) (hs : Keeps b0 s) : Keeps b0 (i2cOp m go s) := by
  unfold i2cOp
  try dsimp only
  repeat' (first
      | with_reducible assumption | with_reducible apply emitOut_keeps | with_reducible apply modMaster_keeps | with_reducible apply hgo
      | with_reducible apply keeps_ite | (intro _; intros) | split
      | (fail_if_no_progress refine Keeps.upd id id id id id id id id id id id id id id id id ?_))

theorem creditModule_keeps (c : Nat) (s : State) {b0 : Base} (hs : Keeps b0 s) : Keeps b0 (creditModule c s) := by
  unfold creditModule
  try dsimp only
  repeat' (first
      | with_reducible assumption | with_reducible apply modModule_keeps | with_reducible apply keeps_ite | (intro _; intros) | split
      | (fail_if_no_progress refine Keeps.upd id id id id id id id id id id id id id id id id ?_))

theorem creditPort_keeps (p : Nat) (s : State) {b0 : Base} (hs : Keeps b0 s) : Keeps b0 (creditPort p s) := by
  unfold creditPort
  repeat' (first
      | with_reducible assumption | with_reducible apply creditModule_keeps | with_reducible apply keeps_foldl
      | with_reducible apply keeps_foldl_snd | (intro _; intros))

theorem softTx_keeps (m : Nat) (off : Bool) (s0 : State) {b0 : Base} (hs0 : Keeps b0 s0) : Keeps b0 (softTx m off s0) := by
  unfold softTx
  try dsimp only
  repeat' (first
      | with_reducible assumption | with_reducible apply creditModule_keeps | with_reducible apply modModule_keeps
      | with_reducible apply i2cOp_keeps | with_reducible apply emitOut_keeps | with_reducible apply keeps_ite | (intro _; intros) | split
      | (fail_if_no_progress refine Keeps.upd id id id id id id id id id id id id id id id id ?_))

theorem softPort_keeps (p : Nat) (off : Bool) (s : State) {b0 : Base} (hs : Keeps b0 s) : Keeps b0 (softPort p off s) := by
  unfold softPort
  repeat' (first | with_reducible assumption | with_reducible apply softTx_keeps | with_reducible apply keeps_foldl | (intro _; intros))

theorem setLanes_keeps (p : Nat) (g : Lane → Lane) (s : State) {b0 : Base} (hs : Keeps b0 s) : Keeps b0 (setLanes p g s) := by
  unfold setLanes
  repeat' (first
      | with_reducible assumption | with_reducible apply modLane_keeps | with_reducible apply keeps_foldl | (intro _; intros))

theorem laneIdle_keeps (p : Nat) (s : State) {b0 : Base} (hs : Keeps b0 s) : Keeps b0 (laneIdle p s) := by
  unfold laneIdle
  repeat' (first
      | with_reducible assumption | with_reducible apply softPort_keeps | with_reducible apply setLanes_keeps | with_reducible apply keeps_ite
      | split)

theorem txIdle_keeps (p : Nat) (s : State) {b0 : Base} (hs : Keeps b0 s) : Keeps b0 (txIdle p s) := by
  unfold txIdle
  try dsimp only
  repeat' (first
      | with_reducible assumption | with_reducible apply laneIdle_keeps | with_reducible apply modLink_keeps | with_reducible apply keeps_ite
      | (intro _; intros) | split | (fail_if_no_progress refine Keeps.upd id id id id id id id id id id id id id id id id ?_))

end Sys2Proof.Machine
end

