-- ==== Sys2Proof/Laws/KeepDrill.lean ====
section
/-! SUPPORT. What the operations of Machine/Drill.lean keep. -/

namespace Sys2Proof.Machine

theorem gateListFault_keeps (p : Nat) (pending : Bool) (s : State) {b0 : Base} (hs : Keeps b0 s) : Keeps b0 (gateListFault p pending s) := by
  unfold gateListFault
  try dsimp only
  repeat' (first
      | with_reducible assumption | with_reducible apply drillFind_keeps | with_reducible apply modDrill_keeps | with_reducible apply memUnc_keeps
      | (intro _; intros) | with_reducible apply keeps_ite
      | (fail_if_no_progress refine Keeps.upd id id id id id id id id id id id id id id id id ?_))

theorem gateStep_keeps (s : State) {b0 : Base} (hs : Keeps b0 s) : Keeps b0 (gateStep s) := by
  unfold gateStep
  repeat' (first
      | with_reducible assumption | with_reducible apply drillFind_keeps | with_reducible apply dctr_keeps | with_reducible apply keeps_foldl
      | (intro _; intros))

theorem execGateTransition_keeps (p : Nat) (s : State) {b0 : Base} (hs : Keeps b0 s) : OutKeeps b0 (execGateTransition p s) := by
  unfold execGateTransition
  repeat' (first
      | with_reducible assumption | with_reducible apply touchPort_keeps | with_reducible apply reachNs_keeps | with_reducible apply next_keeps
      | with_reducible apply outKeeps_next | split | with_reducible apply outKeeps_ite | with_reducible apply keeps_ite)

theorem execGateListTakeover_keeps (p : Nat) (s : State) {b0 : Base} (hs : Keeps b0 s) : OutKeeps b0 (execGateListTakeover p s) := by
  unfold execGateListTakeover
  try dsimp only
  repeat' (first
      | with_reducible assumption | with_reducible apply touchPort_keeps | with_reducible apply drillFind_keeps
      | with_reducible apply modDrill_keeps | with_reducible apply complete_keeps | with_reducible apply reachNs_keeps
      | with_reducible apply commit_keeps | with_reducible apply next_keeps | with_reducible apply idle_keeps | with_reducible apply outKeeps_next
      | split | (intro _; intros) | with_reducible apply outKeeps_ite | with_reducible apply keeps_ite
      | (fail_if_no_progress refine Keeps.upd id id id id id id id id id id id id id id id id ?_))

theorem verifyStart_keeps (p : Nat) (s : State) {b0 : Base} (hs : Keeps b0 s) : Keeps b0 (verifyStart p s) := by
  unfold verifyStart
  repeat' (first | with_reducible assumption | with_reducible apply modDrill_keeps)

theorem execVerifyTimer_keeps (p : Nat) (s : State) {b0 : Base} (hs : Keeps b0 s) : OutKeeps b0 (execVerifyTimer p s) := by
  unfold execVerifyTimer
  try dsimp only
  repeat' (first
      | with_reducible assumption | with_reducible apply reachEdge_keeps | with_reducible apply drillFind_keeps
      | with_reducible apply modDrill_keeps | with_reducible apply emitOut_keeps | with_reducible apply dctr_keeps
      | with_reducible apply next_keeps | with_reducible apply outKeeps_next | with_reducible apply outKeeps_ite | with_reducible apply keeps_ite
      | (intro _; intros) | (refine keeps_snd (by assumption) ?_)
      | (fail_if_no_progress refine Keeps.upd id id id id id id id id id id id id id id id id ?_))

theorem execVerifyRespondRx_keeps (p : Nat) (s : State) {b0 : Base} (hs : Keeps b0 s) : OutKeeps b0 (execVerifyRespondRx p s) := by
  unfold execVerifyRespondRx
  try dsimp only
  repeat' (first
      | with_reducible assumption | with_reducible apply drillFind_keeps | with_reducible apply modDrill_keeps | with_reducible apply next_keeps
      | with_reducible apply outKeeps_next | with_reducible apply keeps_ite | with_reducible apply outKeeps_ite | (intro _; intros)
      | (fail_if_no_progress refine Keeps.upd id id id id id id id id id id id id id id id id ?_))

theorem execVerifyMpacketRx_keeps (p : Nat) (s : State) {b0 : Base} (hs : Keeps b0 s) : OutKeeps b0 (execVerifyMpacketRx p s) := by
  unfold execVerifyMpacketRx
  repeat' (first
      | with_reducible assumption | with_reducible apply emitOut_keeps | with_reducible apply next_keeps | with_reducible apply outKeeps_next
      | with_reducible apply keeps_ite | with_reducible apply outKeeps_ite)

theorem dropHead_keeps (p : Nat) (c : EgCopy) (k : Nat) (s : State) {b0 : Base} (hs : Keeps b0 s) : Keeps b0 (dropHead p c k s) := by
  unfold dropHead
  repeat' (first | with_reducible assumption | with_reducible apply discardEg_keeps | with_reducible apply macCtr_keeps)

theorem gatePurge_keeps (p k : Nat) (z0 : Nat) (z1 : State) {b0 : Base} (hz1 : Keeps b0 z1) : Keeps b0 (gatePurge p k z0 z1) := by
  fun_induction gatePurge p k z0 z1 <;> (try dsimp only) <;> repeat' (first
      | with_reducible assumption | with_reducible apply discardEg_keeps | with_reducible apply drillFind_keeps
      | with_reducible apply dctr_keeps | apply_assumption)

theorem eligible_keeps (p : Nat) (only : Nat → Bool) (k : Nat) (s : State) {b0 : Base} (hs : Keeps b0 s) : Keeps b0 (eligible p only k s).2 := by
  unfold eligible
  try dsimp only
  repeat' (first
      | with_reducible assumption | with_reducible apply modDrill_keeps | with_reducible apply modEg_keeps | with_reducible apply dctr_keeps
      | with_reducible apply next_keeps | with_reducible apply keeps_ite | with_reducible apply keeps_ite_snd | split | (intro _; intros)
      | (refine keeps_snd (by assumption) ?_) | (fail_if_no_progress refine Keeps.upd id id id id id id id id id id id id id id id id ?_))

theorem chooseClass_keeps (p : Nat) (only : Nat → Bool) (s : State) {b0 : Base} (hs : Keeps b0 s) : Keeps b0 (chooseClass p only s).2 := by
  unfold chooseClass
  try dsimp only
  repeat' (first
      | with_reducible assumption | with_reducible apply modDrill_keeps | with_reducible apply eligible_keeps
      | with_reducible apply keeps_ite_snd | split | (fail_if_no_progress refine Keeps.upd id id id id id id id id id id id id id id id id ?_))

theorem payBytes_keeps (p : Nat) (k : Nat) (n : Nat) (e : Nat) (s : State) {b0 : Base} (hs : Keeps b0 s) : Keeps b0 (payBytes p k n e s) := by
  unfold payBytes
  try dsimp only
  repeat' (first | with_reducible assumption | with_reducible apply modDrill_keeps | with_reducible apply keeps_ite | (intro _; intros))

theorem settlePay_keeps (p : Nat) (s : State) {b0 : Base} (hs : Keeps b0 s) : Keeps b0 (settlePay p s) := by
  unfold settlePay
  try dsimp only
  repeat' (first
      | with_reducible assumption | with_reducible apply modDrill_keeps | with_reducible apply payBytes_keeps | with_reducible apply keeps_ite
      | (intro _; intros) | split | (fail_if_no_progress refine Keeps.upd id id id id id id id id id id id id id id id id ?_))

theorem pushStamp_keeps (p : Nat) (y : PtpTx) (q : Nat) (s : State) {b0 : Base} (hs : Keeps b0 s) : Keeps b0 (pushStamp p y q s) := by
  unfold pushStamp
  try dsimp only
  repeat' (first
      | with_reducible assumption | with_reducible apply fireMs_keeps | with_reducible apply keeps_ite | (intro _; intros) | split
      | (refine keeps_snd (by assumption) ?_) | (fail_if_no_progress refine Keeps.upd id id id id id id id id id id id id id id id id ?_))

theorem stampTx_keeps (p u : Nat) (s : State) {b0 : Base} (hs : Keeps b0 s) : Keeps b0 (stampTx p u s) := by
  unfold stampTx
  repeat' (first
      | with_reducible assumption | with_reducible apply pushStamp_keeps | with_reducible apply modFrame_keeps
      | with_reducible apply keeps_ite | split)

theorem startTx_keeps (p : Nat) (c : EgCopy) (s : State) {b0 : Base} (hs : Keeps b0 s) : Keeps b0 (startTx p c s) := by
  unfold startTx
  try dsimp only
  repeat' (first
      | with_reducible assumption | with_reducible apply touchPort_keeps | with_reducible apply modDrill_keeps
      | with_reducible apply stampTx_keeps | with_reducible apply modEg_keeps | with_reducible apply dctr_keeps | with_reducible apply keeps_ite
      | (intro _; intros) | (refine keeps_snd (by assumption) ?_)
      | (fail_if_no_progress refine Keeps.upd id id id id id id id id id id id id id id id id ?_))

theorem startNext_keeps (p : Nat) (only : Nat → Bool) (z0 : Nat) (z1 : State) {b0 : Base} (hz1 : Keeps b0 z1) : Keeps b0 (startNext p only z0 z1) := by
  induction z0 generalizing z1 with
  | zero => exact hz1
  | succ n ih =>
    unfold startNext
    have hc := chooseClass_keeps p only z1 hz1
    split
    rename_i k s1 heq
    rw [heq] at hc
    clear heq
    split; exact hc
    split; exact hc
    refine keeps_ite (ih _ (dropHead_keeps _ _ _ _ ?_)) (startTx_keeps _ _ _ hc)
    split; exact mirrorDrop_keeps _ _ hc; exact hc

theorem purgeDown_keeps (p : Nat) (z0 : Nat) (z1 : State) {b0 : Base} (hz1 : Keeps b0 z1) : Keeps b0 (purgeDown p z0 z1) := by
  fun_induction purgeDown p z0 z1 <;> (try dsimp only) <;> repeat' (first | with_reducible assumption | with_reducible apply dropHead_keeps | apply_assumption)

theorem gapAfter_keeps (p e n : Nat) (s : State) {b0 : Base} (hs : Keeps b0 s) : Keeps b0 (gapAfter p e n s) := by
  unfold gapAfter
  repeat' (first | with_reducible assumption | with_reducible apply modDrill_keeps)

theorem preemptTx_keeps (p : Nat) (s : State) {b0 : Base} (hs : Keeps b0 s) : Keeps b0 (preemptTx p s) := by
  unfold preemptTx
  try dsimp only
  repeat' (first
      | with_reducible assumption | with_reducible apply payBytes_keeps | with_reducible apply modDrill_keeps
      | with_reducible apply gapAfter_keeps | with_reducible apply modEg_keeps | with_reducible apply dctr_keeps
      | with_reducible apply chooseClass_keeps | with_reducible apply keeps_ite | split | (intro _; intros)
      | (refine keeps_snd (by assumption) ?_) | (fail_if_no_progress refine Keeps.upd id id id id id id id id id id id id id id id id ?_))

theorem startOpportunity_keeps (p : Nat) (s0 : State) {b0 : Base} (hs0 : Keeps b0 s0) : Keeps b0 (startOpportunity p s0) := by
  unfold startOpportunity
  try dsimp only
  repeat' (first
      | with_reducible assumption | with_reducible apply preemptTx_keeps | with_reducible apply reachEdge_keeps
      | with_reducible apply modDrill_keeps | with_reducible apply purgeDown_keeps | with_reducible apply gatePurge_keeps
      | with_reducible apply startNext_keeps | with_reducible apply keeps_foldl | with_reducible apply keeps_foldl_snd
      | with_reducible apply keeps_ite | (intro _; intros) | split
      | (fail_if_no_progress refine Keeps.upd id id id id id id id id id id id id id id id id ?_))

theorem execDrillStartOpportunity_keeps (p : Nat) (s : State) {b0 : Base} (hs : Keeps b0 s) : OutKeeps b0 (execDrillStartOpportunity p s) := by
  unfold execDrillStartOpportunity
  repeat' (first
      | with_reducible assumption | with_reducible apply startOpportunity_keeps | with_reducible apply next_keeps
      | with_reducible apply outKeeps_next | with_reducible apply outKeeps_ite | with_reducible apply keeps_ite)

theorem countTx_keeps (p : Nat) (c : EgCopy) (b : List Byte) (good : Bool) (s : State) {b0 : Base} (hs : Keeps b0 s) : Keeps b0 (countTx p c b good s) := by
  unfold countTx
  repeat' (first
      | with_reducible assumption | with_reducible apply macCtr_keeps | with_reducible apply dctr_keeps | with_reducible apply keeps_ite)

theorem finishTx_keeps (p : Nat) (t : Tx) (c : EgCopy) (b : List Byte) (good : Bool) (s0 : State) {b0 : Base} (hs0 : Keeps b0 s0) : Keeps b0 (finishTx p t c b good s0) := by
  unfold finishTx
  try dsimp only
  repeat' (first
      | with_reducible assumption | with_reducible apply pauseBegin_keeps | with_reducible apply winOutcome_keeps
      | with_reducible apply reachEdge_keeps | with_reducible apply payBytes_keeps | with_reducible apply modDrill_keeps
      | with_reducible apply removeEg_keeps | with_reducible apply gapAfter_keeps | with_reducible apply emitOut_keeps
      | with_reducible apply countTx_keeps | with_reducible apply txIdle_keeps | with_reducible apply dctr_keeps | with_reducible apply keeps_ite
      | (intro _; intros) | split | (fail_if_no_progress refine Keeps.upd id id id id id id id id id id id id id id id id ?_))

theorem txFrameEnd_keeps (p : Nat) (s : State) {b0 : Base} (hs : Keeps b0 s) : Keeps b0 (txFrameEnd p s) := by
  unfold txFrameEnd
  try dsimp only
  repeat' (first
      | with_reducible assumption | with_reducible apply modDrill_keeps | with_reducible apply finishTx_keeps | with_reducible apply macCtr_keeps
      | with_reducible apply countTail_keeps | with_reducible apply keeps_ite | split | (intro _; intros)
      | (fail_if_no_progress refine Keeps.upd id id id id id id id id id id id id id id id id ?_))

theorem execTxFrameEnd_keeps (p : Nat) (s : State) {b0 : Base} (hs : Keeps b0 s) : OutKeeps b0 (execTxFrameEnd p s) := by
  unfold execTxFrameEnd
  repeat' (first
      | with_reducible assumption | with_reducible apply txFrameEnd_keeps | with_reducible apply next_keeps | with_reducible apply outKeeps_next
      | with_reducible apply outKeeps_ite | with_reducible apply keeps_ite)

theorem cutTx_keeps (p : Nat) (t : Tx) (c : EgCopy) (k : Nat) (s : State) {b0 : Base} (hs : Keeps b0 s) : Keeps b0 (cutTx p t c k s) := by
  unfold cutTx
  try dsimp only
  repeat' (first | with_reducible assumption | with_reducible apply finishTx_keeps | with_reducible apply countTail_keeps)

theorem egressUnderrun_keeps (p : Nat) (s : State) {b0 : Base} (hs : Keeps b0 s) : Keeps b0 (egressUnderrun p s) := by
  unfold egressUnderrun
  repeat' (first
      | with_reducible assumption | with_reducible apply fireFurMs_keeps | with_reducible apply cutTx_keeps | with_reducible apply keeps_ite
      | split)

theorem execEgressUnderrun_keeps (p : Nat) (s : State) {b0 : Base} (hs : Keeps b0 s) : OutKeeps b0 (execEgressUnderrun p s) := by
  unfold execEgressUnderrun
  repeat' (first
      | with_reducible assumption | with_reducible apply egressUnderrun_keeps | with_reducible apply next_keeps
      | with_reducible apply outKeeps_next | with_reducible apply outKeeps_ite | with_reducible apply keeps_ite)

theorem bodyDrillSet_keeps (p : Packet) (s : State) {b0 : Base} (hs : Keeps b0 s) : ResKeeps b0 (bodyDrillSet p s) := by
  unfold bodyDrillSet
  try dsimp only
  repeat' (first
      | with_reducible assumption | with_reducible apply touchPort_keeps | with_reducible apply modDrill_keeps
      | with_reducible apply checked_keeps | with_reducible apply settlePay_keeps | with_reducible apply resKeeps_ok
      | with_reducible apply resKeeps_ite | with_reducible apply keeps_foldl | with_reducible apply keeps_foldl_snd
      | with_reducible apply keeps_ite | with_reducible apply resKeeps_final | with_reducible apply resKeeps_accepted
      | (fail_if_no_progress unfold checked) | trivial | (intro _; intros) | split
      | (fail_if_no_progress refine Keeps.upd id id id id id id id id id id id id id id id id ?_))

theorem execDrillSet_keeps (p : Packet) (s : State) {b0 : Base} (hs : Keeps b0 s) : OutKeeps b0 (execDrillSet p s) := 
  serveCmd_keeps _ _ _ _ (specKeeps_none rfl) (fun p t h => bodyDrillSet_keeps p t h) hs

theorem bodyShaperSet_keeps (p : Packet) (s : State) {b0 : Base} (hs : Keeps b0 s) : ResKeeps b0 (bodyShaperSet p s) := by
  unfold bodyShaperSet
  dsimp only
  repeat' (first
      | with_reducible assumption | with_reducible apply streamShaperFault_keeps | with_reducible apply classShaperFault_keeps
      | with_reducible apply shaperRemove_keeps | with_reducible apply unlessUpset_keeps | with_reducible apply settlePay_keeps
      | with_reducible apply touchPort_keeps | with_reducible apply modDrill_keeps | with_reducible apply checked_keeps
      | with_reducible apply resKeeps_ok | exact trivial
      | (intro h; (try dsimp only); exact rising_tput _ _ h) | with_reducible apply keeps_ite | with_reducible apply resKeeps_ite
      | (intro _; intros) | split | (fail_if_no_progress with_reducible apply Keeps.upd))

theorem execShaperSet_keeps (p : Packet) (s : State) {b0 : Base} (hs : Keeps b0 s) : OutKeeps b0 (execShaperSet p s) := by
  exact serveCmd_keeps _ _ _ _ (specKeeps_none rfl) (fun p t h => bodyShaperSet_keeps p t h) hs

theorem bodyGateListSet_keeps (p : Packet) (s : State) {b0 : Base} (hs : Keeps b0 s) : ResKeeps b0 (bodyGateListSet p s) := by
  unfold bodyGateListSet
  try dsimp only
  repeat' (first
      | with_reducible assumption | with_reducible apply gateListFault_keeps | with_reducible apply unlessUpset_keeps
      | with_reducible apply touchPort_keeps | with_reducible apply complete_keeps | with_reducible apply modDrill_keeps
      | with_reducible apply checked_keeps | with_reducible apply commit_keeps | with_reducible apply resKeeps_ok
      | with_reducible apply resKeeps_accepted | exact trivial | with_reducible apply resKeeps_ite | (intro _; intros) | split
      | with_reducible apply keeps_foldl | with_reducible apply keeps_foldl_snd | with_reducible apply keeps_ite
      | with_reducible apply resKeeps_final | (fail_if_no_progress unfold checked) | trivial
      | (fail_if_no_progress refine Keeps.upd id id id id id id id id id id id id id id id id ?_))

theorem execGateListSet_keeps (p : Packet) (s : State) {b0 : Base} (hs : Keeps b0 s) : OutKeeps b0 (execGateListSet p s) := 
  serveCmd_keeps _ _ _ _ (specKeeps_none rfl) (fun p t h => bodyGateListSet_keeps p t h) hs

theorem bodyPreemptSet_keeps (p : Packet) (s : State) {b0 : Base} (hs : Keeps b0 s) : ResKeeps b0 (bodyPreemptSet p s) := by
  unfold bodyPreemptSet
  try dsimp only
  repeat' (first
      | with_reducible assumption | with_reducible apply verifyStart_keeps | with_reducible apply touchPort_keeps
      | with_reducible apply modDrill_keeps | with_reducible apply checked_keeps | with_reducible apply resKeeps_ok
      | with_reducible apply resKeeps_ite | with_reducible apply keeps_ite | with_reducible apply resKeeps_final
      | with_reducible apply resKeeps_accepted | (fail_if_no_progress unfold checked) | trivial | (intro _; intros) | split
      | (fail_if_no_progress refine Keeps.upd id id id id id id id id id id id id id id id id ?_))

theorem execPreemptSet_keeps (p : Packet) (s : State) {b0 : Base} (hs : Keeps b0 s) : OutKeeps b0 (execPreemptSet p s) := 
  serveCmd_keeps _ _ _ _ (specKeeps_none rfl) (fun p t h => bodyPreemptSet_keeps p t h) hs

end Sys2Proof.Machine
end

