-- ==== Sys2Proof/Laws/KeepHeadland.lean ====
section
/-! SUPPORT. What the operations of Machine/Headland.lean keep. -/

namespace Sys2Proof.Machine

theorem modHl_keeps (g : Headland → Headland) (s : State) {b0 : Base} (hs : Keeps b0 s) (hg : HlSame g) : Keeps b0 (modHl g s) := by
  obtain ⟨h1, h2, h3⟩ := hg s.hl
  exact hs.hl (h2 ▸ hs.wf_stateA) (h3 ▸ hs.wf_stateB) (h1 ▸ hs.wf_lead)

theorem setJudged_keeps (f : Nat) (l : List Nat) (s : State) {b0 : Base} (hs : Keeps b0 s) : Keeps b0 (setJudged f l s) :=
  modHl_keeps _ _ hs (fun x => by split <;> exact ⟨rfl, rfl, rfl⟩)

theorem setDigests_keeps (f : Nat) (l : List Digest) (s : State) {b0 : Base} (hs : Keeps b0 s) : Keeps b0 (setDigests f l s) := by
  unfold setDigests
  repeat' (first
      | with_reducible assumption | with_reducible apply modHl_keeps | (intro x; dsimp only; split <;> exact ⟨rfl, rfl, rfl⟩))

theorem setMissed_keeps (f n : Nat) (s : State) {b0 : Base} (hs : Keeps b0 s) : Keeps b0 (setMissed f n s) := by
  unfold setMissed
  repeat' (first
      | with_reducible assumption | with_reducible apply modHl_keeps | (intro x; dsimp only; split <;> exact ⟨rfl, rfl, rfl⟩))

theorem setFlush_keeps (f : Nat) (v : Option (Nat × Nat)) (s : State) {b0 : Base} (hs : Keeps b0 s) : Keeps b0 (setFlush f v s) := by
  unfold setFlush
  repeat' (first
      | with_reducible assumption | with_reducible apply modHl_keeps | (intro x; dsimp only; split <;> exact ⟨rfl, rfl, rfl⟩))

theorem arbSend_keeps (ty : Nat) (pay : List Byte) (s : State) {b0 : Base} (hs : Keeps b0 s) : Keeps b0 (arbSend ty pay s) := by
  unfold arbSend
  repeat' (first | with_reducible assumption | with_reducible apply emitOut_keeps)

theorem arbHeard_keeps (s : State) {b0 : Base} (hs : Keeps b0 s) : Keeps b0 (arbHeard s) := by
  unfold arbHeard
  repeat' (first
      | with_reducible assumption | with_reducible apply modHl_keeps | with_reducible apply fire_keeps | exact fun _ => ⟨rfl, rfl, rfl⟩
      | with_reducible apply keeps_ite)

theorem trail_keeps (code : Nat) (source : Nat) (before : Nat) (after_ : Nat) (seq : Nat) (z : Finds) (s : State) {b0 : Base} (hs : Keeps b0 s) : Keeps b0 (trail code source before after_ seq z s) := by
  unfold trail
  try dsimp only
  repeat' (first
      | with_reducible assumption | with_reducible apply retWrite_keeps | with_reducible apply arbSend_keeps | with_reducible apply modHl_keeps
      | exact fun _ => ⟨rfl, rfl, rfl⟩ | with_reducible apply keeps_ite | (intro _; intros)
      | (fail_if_no_progress refine Keeps.upd id id id id id id id id id id id id id id id id ?_))

theorem fenceCopy_keeps (p : Nat) (c : EgCopy) (r : Nat × State) {b0 : Base} (hr : Keeps b0 r.2) : Keeps b0 (fenceCopy p c r).2 := by
  unfold fenceCopy
  have hd : Keeps b0 (discardEg p c r.2) := discardEg_keeps _ _ _ hr
  exact keeps_ite_snd (keeps_ite hr hd) (keeps_ite_snd (endEg_keeps _ _ _ _ _ hr) (discardEg_keeps _ _ _ (countTail_keeps _ _ _ _ hr)))

theorem fenceInner_keeps (x : Nat) (r : Nat × State) {b0 : Base} (hr : Keeps b0 r.2) : Keeps b0 (fenceInner x r).2 :=
  keeps_foldl_snd (fun _ _ hq => entryGone_keeps _ _ _ _ (setLane_keeps _ _ _ _ (countTail_keeps _ _ _ _ hq))) hr

theorem fenceEgress_keeps (x : Nat) (s : State) {b0 : Base} (hs : Keeps b0 s) : Keeps b0 (fenceEgress x s).2 := by
  refine keeps_foldl_snd (fun r e hr => keeps_foldl_snd (fun q c hq => ?_) hr) hs
  split
  · exact fenceCopy_keeps _ _ _ hq
  · exact hq

theorem fenceFrames_keeps (x : Nat) (s : State) {b0 : Base} (hs : Keeps b0 s) : Keeps b0 (fenceFrames x s) := by
  unfold fenceFrames
  repeat' (first
      | with_reducible assumption | with_reducible apply modFrame_keeps | with_reducible apply dropCopy_keeps
      | with_reducible apply hlCtr_keeps | with_reducible apply reap_keeps | with_reducible apply keeps_foldl | (intro _; intros) | split)

theorem idleBeds_keeps (x : Nat) (s : State) {b0 : Base} (hs : Keeps b0 s) : Keeps b0 (idleBeds x s) := by
  unfold idleBeds
  repeat' (first | with_reducible assumption | with_reducible apply modFur_keeps)

theorem isolate_keeps (x : Nat) (bits_ : Nat) (s : State) {b0 : Base} (hs : Keeps b0 s) : Keeps b0 (isolate x bits_ s) := by
  unfold isolate
  try dsimp only
  repeat' (first
      | with_reducible assumption | with_reducible apply fenceInner_keeps | with_reducible apply fenceEgress_keeps
      | with_reducible apply fenceFrames_keeps
      | with_reducible apply setFurState_keeps | with_reducible apply setFlush_keeps | with_reducible apply idleBeds_keeps
      | with_reducible apply modHalf_keeps | with_reducible apply fireFur_keeps | with_reducible apply modFur_keeps
      | with_reducible apply keeps_ite | decide | (intro _; intros)
      | (fail_if_no_progress refine Keeps.upd id id id id id id id id id id id id id id id id ?_))

theorem fence_keeps (x bits_ : Nat) (s : State) {b0 : Base} (hs : Keeps b0 s) : Keeps b0 (fence x bits_ s) := by
  unfold fence
  repeat' (first
      | with_reducible assumption | with_reducible apply isolate_keeps | with_reducible apply hlCtr_keeps | with_reducible apply keeps_ite)

theorem flipLead_keeps (new toNs : Nat) (s : State) {b0 : Base} (hs : Keeps b0 s) : Keeps b0 (flipLead new toNs s) := by
  have h : Keeps b0 (modHl (fun h => { h with lead := new % 2 }) s) := hs.hl hs.wf_stateA hs.wf_stateB (Nat.le_of_lt_succ (Nat.mod_lt _ (by decide)))
  exact fire_keeps _ _ _ _ (hlCtr_keeps _ _ h)

theorem failFurrow_keeps (x code source seq : Nat) (z : Finds) (s : State) {b0 : Base} (hs : Keeps b0 s) : Keeps b0 (failFurrow x code source seq z s) := by
  unfold failFurrow
  repeat' (first
      | with_reducible assumption | with_reducible apply flipLead_keeps | with_reducible apply trail_keeps | with_reducible apply modHl_keeps
      | with_reducible apply fence_keeps | with_reducible apply fire_keeps | exact fun _ => ⟨rfl, rfl, rfl⟩ | with_reducible apply keeps_ite)

theorem execDigestClose_keeps (f : Furrow) (ns : Nat) (s0 : State) {b0 : Base} (hs0 : Keeps b0 s0) : OutKeeps b0 (execDigestClose f ns s0) := by
  unfold execDigestClose
  try dsimp only
  repeat' (first
      | with_reducible assumption | with_reducible apply setDigests_keeps | with_reducible apply reachRep_keeps
      | with_reducible apply modFur_keeps | with_reducible apply next_keeps | with_reducible apply setJudged_keeps
      | with_reducible apply outKeeps_next | with_reducible apply keeps_ite | with_reducible apply outKeeps_ite | (intro _; intros) | split
      | (refine keeps_snd (by assumption) ?_) | (fail_if_no_progress refine Keeps.upd id id id id id id id id id id id id id id id id ?_))

theorem keepBoth_keeps (source seq : Nat) (z : Finds) (s : State) {b0 : Base} (hs : Keeps b0 s) : Keeps b0 (keepBoth source seq z s) := by
  unfold keepBoth
  repeat' (first | with_reducible assumption | with_reducible apply trail_keeps | with_reducible apply fire_keeps)

theorem byPolicy_keeps (seq : Nat) (z : Finds) (s : State) {b0 : Base} (hs : Keeps b0 s) : Keeps b0 (byPolicy seq z s) := by
  unfold byPolicy
  try dsimp only
  repeat' (first | with_reducible assumption | with_reducible apply failFurrow_keeps | with_reducible apply keepBoth_keeps | with_reducible apply keeps_ite)

theorem disagreement_keeps (e : Nat) (z : Finds) (s : State) {b0 : Base} (hs : Keeps b0 s) : Keeps b0 (disagreement e z s) := by
  unfold disagreement
  try dsimp only
  repeat' (first
      | with_reducible assumption | with_reducible apply byPolicy_keeps | with_reducible apply arbSend_keeps | with_reducible apply hlCtr_keeps
      | with_reducible apply modHl_keeps | exact fun _ => ⟨rfl, rfl, rfl⟩ | with_reducible apply keeps_ite | (intro _; intros)
      | (refine keeps_snd (by assumption) ?_) | (fail_if_no_progress refine Keeps.upd id id id id id id id id id id id id id id id id ?_))

theorem shadowMatch_keeps (same : Bool) (s : State) {b0 : Base} (hs : Keeps b0 s) : Keeps b0 (shadowMatch same s) := by
  unfold shadowMatch
  repeat' (first | with_reducible assumption | with_reducible apply modHl_keeps | exact fun _ => ⟨rfl, rfl, rfl⟩)

theorem compareDigests_keeps (a b : Digest) (s0 : State) {b0 : Base} (hs0 : Keeps b0 s0) : Keeps b0 (compareDigests a b s0) := by
  unfold compareDigests
  repeat' (first
      | with_reducible assumption | with_reducible apply disagreement_keeps | with_reducible apply shadowMatch_keeps
      | with_reducible apply setMissed_keeps | with_reducible apply hlCtr_keeps | with_reducible apply keeps_ite)

theorem execDigestCompare_keeps (s : State) {b0 : Base} (hs : Keeps b0 s) : OutKeeps b0 (execDigestCompare s) := by
  unfold execDigestCompare
  repeat' (first
      | with_reducible assumption | with_reducible apply compareDigests_keeps | with_reducible apply modHl_keeps
      | with_reducible apply outKeeps_next | exact fun _ => ⟨rfl, rfl, rfl⟩ | with_reducible apply outKeeps_ite | split)

theorem digestMiss_keeps (f : Nat) (s0 : State) {b0 : Base} (hs0 : Keeps b0 s0) : Keeps b0 (digestMiss f s0) := by
  unfold digestMiss
  try dsimp only
  repeat' (first
      | with_reducible assumption | with_reducible apply shadowMatch_keeps | with_reducible apply failFurrow_keeps
      | with_reducible apply setDigests_keeps | with_reducible apply setMissed_keeps | with_reducible apply reachEdge_keeps
      | with_reducible apply hlCtr_keeps | with_reducible apply setJudged_keeps | with_reducible apply keeps_ite | split | (intro _; intros))

theorem execDigestMissTimeout_keeps (f : Furrow) (s : State) {b0 : Base} (hs : Keeps b0 s) : OutKeeps b0 (execDigestMissTimeout f s) := by
  unfold execDigestMissTimeout
  repeat' (first
      | with_reducible assumption | with_reducible apply digestMiss_keeps | with_reducible apply outKeeps_next
      | with_reducible apply keeps_ite)

theorem halfLost_keeps (h : Nat) (s : State) {b0 : Base} (hs : Keeps b0 s) : Keeps b0 (halfLost h s) := by
  unfold halfLost
  try dsimp only
  repeat' (first
      | with_reducible assumption | with_reducible apply gctr_keeps | with_reducible apply dropCopy_keeps | with_reducible apply unqueue_keeps
      | with_reducible apply keeps_foldl | with_reducible apply keeps_foldl_snd | (intro _; intros))

theorem setLock_keeps (f : Nat) (v : Bool) (s : State) {b0 : Base} (hs : Keeps b0 s) : Keeps b0 (setLock f v s) := by
  unfold setLock
  repeat' (first
      | with_reducible assumption | split | (fail_if_no_progress refine Keeps.upd id id id id id id id id id id id id id id id id ?_))

theorem setCore_keeps (f : Nat) (v : Bool) (s : State) {b0 : Base} (hs : Keeps b0 s) : Keeps b0 (setCore f v s) := by
  unfold setCore
  repeat' (first
      | with_reducible assumption | split | (fail_if_no_progress refine Keeps.upd id id id id id id id id id id id id id id id id ?_))

theorem clocksOff_keeps (x : Nat) (s : State) {b0 : Base} (hs : Keeps b0 s) : Keeps b0 (clocksOff x s) := by
  unfold clocksOff
  try dsimp only
  repeat' (first
      | with_reducible assumption | with_reducible apply setCore_keeps | with_reducible apply setLock_keeps | with_reducible apply keeps_foldl
      | with_reducible apply keeps_foldl_snd | (intro _; intros)
      | (fail_if_no_progress refine Keeps.upd id id id id id id id id id id id id id id id id ?_))

theorem clocksOn_keeps (x : Nat) (s : State) {b0 : Base} (hs : Keeps b0 s) : Keeps b0 (clocksOn x s) := by
  unfold clocksOn
  try dsimp only
  repeat' (first
      | with_reducible assumption | with_reducible apply setCore_keeps | with_reducible apply setLock_keeps | with_reducible apply keeps_foldl
      | with_reducible apply keeps_foldl_snd | (intro _; intros)
      | (fail_if_no_progress refine Keeps.upd id id id id id id id id id id id id id id id id ?_))

theorem restartFails_keeps (r : Restart) (source : Nat) (s : State) {b0 : Base} (hs : Keeps b0 s) : Keeps b0 (restartFails r source s) := by
  unfold restartFails
  try dsimp only
  repeat' (first
      | with_reducible assumption | with_reducible apply complete_keeps | with_reducible apply setFlush_keeps | with_reducible apply isolate_keeps
      | with_reducible apply trail_keeps | with_reducible apply modHl_keeps | with_reducible apply fire_keeps | with_reducible apply hlCtr_keeps
      | exact fun _ => ⟨rfl, rfl, rfl⟩ | with_reducible apply keeps_ite | (intro _; intros)
      | (fail_if_no_progress refine Keeps.upd id id id id id id id id id id id id id id id id ?_))

theorem readRecords_keeps (x : Nat) (s : State) {b0 : Base} (hs : Keeps b0 s) : Keeps b0 (readRecords x s) := by
  unfold readRecords
  try dsimp only
  repeat' (first
      | with_reducible assumption | with_reducible apply putBytes64_keeps | with_reducible apply keeps_foldl
      | with_reducible apply keeps_foldl_snd | with_reducible apply keeps_ite | (intro _; intros))

theorem writeRecords_keeps (x : Nat) (bad : List Nat) (s : State) {b0 : Base} (hs : Keeps b0 s) : Keeps b0 (writeRecords x bad s) := by
  unfold writeRecords
  try dsimp only
  repeat' (first
      | with_reducible assumption | with_reducible apply writeHalves_keeps | with_reducible apply keeps_foldl
      | with_reducible apply keeps_foldl_snd | with_reducible apply keeps_ite | (intro _; intros))

theorem execRestartCopyDone_keeps (s0 : State) {b0 : Base} (hs0 : Keeps b0 s0) : OutKeeps b0 (execRestartCopyDone s0) := by
  unfold execRestartCopyDone
  try dsimp only
  repeat' (first
      | with_reducible assumption | with_reducible apply setFurState_keeps | with_reducible apply reachEdge_keeps
      | with_reducible apply clocksOn_keeps | with_reducible apply modHalf_keeps | with_reducible apply modGran_keeps
      | with_reducible apply modFur_keeps | with_reducible apply modHl_keeps | with_reducible apply fire_keeps | with_reducible apply next_keeps
      | with_reducible apply readRecords_keeps | with_reducible apply perfRestart_keeps | with_reducible apply writeRecords_keeps
      | with_reducible apply outKeeps_next | exact fun _ => ⟨rfl, rfl, rfl⟩ | with_reducible apply outKeeps_ite | split | decide
      | with_reducible apply keeps_ite | (intro _; intros)
      | (fail_if_no_progress refine Keeps.upd id id id id id id id id id id id id id id id id ?_))

theorem execRestartAdmission_keeps (s0 : State) {b0 : Base} (hs0 : Keeps b0 s0) : OutKeeps b0 (execRestartAdmission s0) := by
  unfold execRestartAdmission
  try dsimp only
  repeat' (first
      | with_reducible assumption | with_reducible apply setFurState_keeps | with_reducible apply complete_keeps
      | with_reducible apply reachNs_keeps | with_reducible apply modHalf_keeps | with_reducible apply trail_keeps
      | with_reducible apply modHl_keeps | with_reducible apply fire_keeps | with_reducible apply next_keeps | with_reducible apply outKeeps_next
      | exact fun _ => ⟨rfl, rfl, rfl⟩ | with_reducible apply outKeeps_ite | split | decide | with_reducible apply keeps_ite | (intro _; intros)
      | (fail_if_no_progress refine Keeps.upd id id id id id id id id id id id id id id id id ?_))

theorem execRestartFailTimeout_keeps (s : State) {b0 : Base} (hs : Keeps b0 s) : OutKeeps b0 (execRestartFailTimeout s) := by
  unfold execRestartFailTimeout
  repeat' (first
      | with_reducible assumption | with_reducible apply restartFails_keeps | with_reducible apply reachEdge_keeps
      | with_reducible apply next_keeps | with_reducible apply outKeeps_next | split | with_reducible apply outKeeps_ite
      | with_reducible apply keeps_ite)

theorem headlandAlarm_keeps (s0 : State) {b0 : Base} (hs0 : Keeps b0 s0) : Keeps b0 (headlandAlarm s0) := by
  unfold headlandAlarm
  try dsimp only
  repeat' (first
      | with_reducible assumption | with_reducible apply restartFails_keeps | with_reducible apply failFurrow_keeps
      | with_reducible apply trail_keeps | with_reducible apply modHl_keeps | with_reducible apply fire_keeps | exact fun _ => ⟨rfl, rfl, rfl⟩
      | with_reducible apply keeps_ite | split | (intro _; intros) | (refine keeps_snd (by assumption) ?_)
      | (fail_if_no_progress refine Keeps.upd id id id id id id id id id id id id id id id id ?_))

theorem execHeadlandAlarm_keeps (s : State) {b0 : Base} (hs : Keeps b0 s) : OutKeeps b0 (execHeadlandAlarm s) := by
  unfold execHeadlandAlarm
  repeat' (first | with_reducible assumption | with_reducible apply headlandAlarm_keeps | with_reducible apply outKeeps_next)

theorem execArbRuling_keeps (bytes : List Byte) (s0 : State) {b0 : Base} (hs0 : Keeps b0 s0) : OutKeeps b0 (execArbRuling bytes s0) := by
  unfold execArbRuling
  try dsimp only
  repeat' (first
      | with_reducible assumption | with_reducible apply failFurrow_keeps | with_reducible apply keepBoth_keeps
      | with_reducible apply arbHeard_keeps | with_reducible apply hlCtr_keeps | with_reducible apply modHl_keeps
      | with_reducible apply next_keeps | with_reducible apply outKeeps_next | exact fun _ => ⟨rfl, rfl, rfl⟩ | with_reducible apply keeps_ite
      | with_reducible apply outKeeps_ite | split | (intro _; intros) | (refine keeps_snd (by assumption) ?_)
      | (fail_if_no_progress refine Keeps.upd id id id id id id id id id id id id id id id id ?_))

theorem execArbStatusIn_keeps (bytes : List Byte) (s : State) {b0 : Base} (hs : Keeps b0 s) : OutKeeps b0 (execArbStatusIn bytes s) := by
  unfold execArbStatusIn
  repeat' (first
      | with_reducible assumption | with_reducible apply arbHeard_keeps | with_reducible apply outKeeps_next | with_reducible apply keeps_ite)

theorem execArbRulingTimeout_keeps (s : State) {b0 : Base} (hs : Keeps b0 s) : OutKeeps b0 (execArbRulingTimeout s) := by
  unfold execArbRulingTimeout
  try dsimp only
  repeat' (first
      | with_reducible assumption | with_reducible apply reachEdge_keeps | with_reducible apply byPolicy_keeps | with_reducible apply hlCtr_keeps
      | with_reducible apply modHl_keeps | with_reducible apply fire_keeps | with_reducible apply next_keeps | with_reducible apply outKeeps_next
      | exact fun _ => ⟨rfl, rfl, rfl⟩ | with_reducible apply keeps_ite | split | with_reducible apply outKeeps_ite | (intro _; intros)
      | (refine keeps_snd (by assumption) ?_) | (fail_if_no_progress refine Keeps.upd id id id id id id id id id id id id id id id id ?_))

theorem execArbLinkDown_keeps (s : State) {b0 : Base} (hs : Keeps b0 s) : OutKeeps b0 (execArbLinkDown s) := by
  unfold execArbLinkDown
  try dsimp only
  repeat' (first
      | with_reducible assumption | with_reducible apply reachEdge_keeps | with_reducible apply modHl_keeps | with_reducible apply fire_keeps
      | with_reducible apply next_keeps | with_reducible apply outKeeps_next | exact fun _ => ⟨rfl, rfl, rfl⟩ | with_reducible apply outKeeps_ite
      | with_reducible apply keeps_ite | (intro _; intros)
      | (fail_if_no_progress refine Keeps.upd id id id id id id id id id id id id id id id id ?_))

theorem execArbStatusOut_keeps (s0 : State) {b0 : Base} (hs0 : Keeps b0 s0) : OutKeeps b0 (execArbStatusOut s0) := by
  unfold execArbStatusOut
  extract_lets s
  have h : Keeps b0 s := modHl_keeps _ _ (reachEdge_keeps _ _ hs0) (fun _ => ⟨rfl, rfl, rfl⟩)
  exact outKeeps_next (keeps_ite (arbSend_keeps _ _ _ h) h)

theorem turnDone_keeps (t : Turn) (s : State) {b0 : Base} (hs : Keeps b0 s) : Keeps b0 (turnDone t s) := by
  unfold turnDone
  repeat' (first
      | with_reducible assumption | with_reducible apply complete_keeps | with_reducible apply modHl_keeps | exact fun _ => ⟨rfl, rfl, rfl⟩)

theorem execTurnStart_keeps (s0 : State) {b0 : Base} (hs0 : Keeps b0 s0) : OutKeeps b0 (execTurnStart s0) := by
  unfold execTurnStart
  repeat' (first
      | with_reducible assumption | with_reducible apply complete_keeps | with_reducible apply flipLead_keeps
      | with_reducible apply turnDone_keeps | with_reducible apply reachNs_keeps | with_reducible apply trail_keeps
      | with_reducible apply modHl_keeps | with_reducible apply outKeeps_next | exact fun _ => ⟨rfl, rfl, rfl⟩
      | with_reducible apply outKeeps_ite | split)

theorem execTurnEnd_keeps (s0 : State) {b0 : Base} (hs0 : Keeps b0 s0) : OutKeeps b0 (execTurnEnd s0) := by
  unfold execTurnEnd
  repeat' (first
      | with_reducible assumption | with_reducible apply turnDone_keeps | with_reducible apply reachNs_keeps
      | with_reducible apply modHl_keeps | with_reducible apply fence_keeps | with_reducible apply outKeeps_next
      | exact fun _ => ⟨rfl, rfl, rfl⟩ | with_reducible apply outKeeps_ite | split)

theorem flushEntries_keeps (f : Nat) (z0 : List (Nat × Entry)) (z1 : State) {b0 : Base} (hz1 : Keeps b0 z1) : Keeps b0 (flushEntries f z0 z1) := by
  induction z0 generalizing z1 with
  | nil => exact hz1
  | cons a r ih =>
    obtain ⟨key, e⟩ := a
    unfold flushEntries
    have h1 : Keeps b0 (if e.spill then spillGone e.uid z1
        else entryGone f key e (modCopy e.uid e.half (fun c => { c with transfer := false, granted := false }) z1)) :=
      keeps_ite (spillGone_keeps _ _ hz1) (entryGone_keeps _ _ _ _ (modCopy_keeps _ _ _ _ hz1))
    exact ih _ (keeps_ite h1 (hlCtr_keeps _ _ h1))

theorem lostEntries_keeps (x : Nat) (s : State) {b0 : Base} (hs : Keeps b0 s) : Keeps b0 (lostEntries x s) := by
  unfold lostEntries
  try dsimp only
  repeat' (first
      | with_reducible assumption | with_reducible apply tryReturn_keeps | with_reducible apply modCopy_keeps | with_reducible apply modFur_keeps
      | with_reducible apply keeps_foldl | with_reducible apply keeps_foldl_snd | with_reducible apply keeps_ite | (intro _; intros)
      | (fail_if_no_progress refine Keeps.upd id id id id id id id id id id id id id id id id ?_))

theorem flushOver_keeps (x : Nat) (s : State) {b0 : Base} (hs : Keeps b0 s) : Keeps b0 (flushOver x s) := by
  unfold flushOver
  repeat' (first | with_reducible assumption | with_reducible apply turnDone_keeps | with_reducible apply keeps_ite | split)

theorem railFell_keeps (n : Nat) (s : State) {b0 : Base} (hs : Keeps b0 s) : Keeps b0 (railFell n s) := by
  unfold railFell
  extract_lets s1
  have h1 : Keeps b0 s1 := by
    unfold s1; split
    · exact halfLost_keeps _ _ hs
    · exact fire_keeps _ _ _ _ (halfLost_keeps _ _ hs)
  exact keeps_ite (setFlush_keeps _ _ _ (lostEntries_keeps _ _ h1)) h1

theorem powerOff_keeps (x : Nat) (source : Nat) (s : State) {b0 : Base} (hs : Keeps b0 s) : Keeps b0 (powerOff x source s) :=
  trail_keeps _ _ _ _ _ _ _ (clocksOff_keeps _ _ (setFurState_keeps _ _ _
    (keeps_ite (flushOver_keeps _ _ (railFell_keeps _ _ hs)) (halfLost_keeps _ _ hs)) (by decide)))

theorem laneFlush_keeps (x : Nat) (s0 : State) {b0 : Base} (hs0 : Keeps b0 s0) : Keeps b0 (laneFlush x s0) := by
  unfold laneFlush
  try dsimp only
  repeat' (first
      | with_reducible assumption | with_reducible apply reachEdge_keeps | with_reducible apply setFlush_keeps
      | with_reducible apply powerOff_keeps | with_reducible apply turnDone_keeps | with_reducible apply modFur_keeps
      | with_reducible apply fire_keeps | with_reducible apply flushEntries_keeps | with_reducible apply flushOver_keeps
      | with_reducible apply keeps_foldl | with_reducible apply keeps_ite | (intro _; intros) | split
      | (fail_if_no_progress refine Keeps.upd id id id id id id id id id id id id id id id id ?_))

theorem execLaneFlushComplete_keeps (f : Furrow) (s : State) {b0 : Base} (hs : Keeps b0 s) : OutKeeps b0 (execLaneFlushComplete f s) := by
  unfold execLaneFlushComplete
  repeat' (first
      | with_reducible assumption | with_reducible apply laneFlush_keeps | with_reducible apply next_keeps | with_reducible apply outKeeps_next
      | with_reducible apply outKeeps_ite | with_reducible apply keeps_ite)

theorem bodyFurrowStatus_keeps (w0 : Packet) (s : State) {b0 : Base} (hs : Keeps b0 s) : ResKeeps b0 (bodyFurrowStatus w0 s) := by
  unfold bodyFurrowStatus
  repeat' (first | with_reducible assumption | with_reducible apply resKeeps_ok)

theorem execFurrowStatus_keeps (p : Packet) (s : State) {b0 : Base} (hs : Keeps b0 s) : OutKeeps b0 (execFurrowStatus p s) := 
  serveCmd_keeps _ _ _ _ (specKeeps_none rfl) (fun p t h => bodyFurrowStatus_keeps p t h) hs

theorem bodyHeadlandPolicySet_keeps (p : Packet) (s : State) {b0 : Base} (hs : Keeps b0 s) : ResKeeps b0 (bodyHeadlandPolicySet p s) := by
  unfold bodyHeadlandPolicySet
  repeat' (first
      | with_reducible assumption | with_reducible apply checked_keeps | with_reducible apply modHl_keeps | with_reducible apply resKeeps_ok
      | exact fun _ => ⟨rfl, rfl, rfl⟩)

theorem execHeadlandPolicySet_keeps (p : Packet) (s : State) {b0 : Base} (hs : Keeps b0 s) : OutKeeps b0 (execHeadlandPolicySet p s) := 
  serveCmd_keeps _ _ _ _ (specKeeps_none rfl) (fun p t h => bodyHeadlandPolicySet_keeps p t h) hs

theorem bodyHeadlandTurn_keeps (p : Packet) (s : State) {b0 : Base} (hs : Keeps b0 s) : ResKeeps b0 (bodyHeadlandTurn p s) := by
  unfold bodyHeadlandTurn
  repeat' (first
      | with_reducible assumption | with_reducible apply checked_keeps | with_reducible apply modHl_keeps | with_reducible apply resKeeps_ok
      | with_reducible apply resKeeps_accepted | exact trivial | exact fun _ => ⟨rfl, rfl, rfl⟩ | with_reducible apply resKeeps_ite)

theorem execHeadlandTurn_keeps (p : Packet) (s : State) {b0 : Base} (hs : Keeps b0 s) : OutKeeps b0 (execHeadlandTurn p s) := 
  serveCmd_keeps _ _ _ _ (specKeeps_none rfl) (fun p t h => bodyHeadlandTurn_keeps p t h) hs

theorem bodyFurrowRestart_keeps (p : Packet) (s : State) {b0 : Base} (hs : Keeps b0 s) : ResKeeps b0 (bodyFurrowRestart p s) := by
  unfold bodyFurrowRestart
  try dsimp only
  repeat' (first
      | with_reducible assumption | with_reducible apply setFurState_keeps | with_reducible apply setDigests_keeps
      | with_reducible apply laneFlush_keeps | with_reducible apply setMissed_keeps | with_reducible apply halfLost_keeps
      | with_reducible apply powerOff_keeps | with_reducible apply checked_keeps | with_reducible apply modHl_keeps
      | with_reducible apply resKeeps_ok | with_reducible apply resKeeps_accepted | exact trivial | exact fun _ => ⟨rfl, rfl, rfl⟩
      | with_reducible apply keeps_ite | with_reducible apply resKeeps_ite | split | with_reducible apply resKeeps_final
      | (fail_if_no_progress unfold checked) | trivial | (intro _; intros) | (refine keeps_snd (by assumption) ?_)
      | (fail_if_no_progress refine Keeps.upd id id id id id id id id id id id id id id id id ?_) | decide)

theorem execFurrowRestart_keeps (p : Packet) (s : State) {b0 : Base} (hs : Keeps b0 s) : OutKeeps b0 (execFurrowRestart p s) := 
  serveCmd_keeps _ _ _ _ (specKeeps_none rfl) (fun p t h => bodyFurrowRestart_keeps p t h) hs

end Sys2Proof.Machine
end

