-- ==== Sys2Proof/Laws/KeepDeep.lean ====
section
/-! SUPPORT. What the operations of Machine/Deep.lean keep. -/

namespace Sys2Proof.Machine

theorem dropSpilled_keeps (u : Nat) (s : State) {b0 : Base} (hs : Keeps b0 s) : Keeps b0 (dropSpilled u s) := by
  unfold dropSpilled
  try dsimp only
  repeat' (first
      | with_reducible assumption | with_reducible apply cutSpillEntries_keeps | with_reducible apply freeSpill_keeps
      | with_reducible apply modCopy_keeps | split)

theorem execSpillWrite_keeps (uid : Nat) (bad : List Nat) (s : State) {b0 : Base} (hs : Keeps b0 s) : OutKeeps b0 (execSpillWrite uid bad s) := by
  unfold execSpillWrite
  try dsimp only
  repeat' (first
      | with_reducible assumption | with_reducible apply next_keeps | with_reducible apply dropSpilled_keeps
      | with_reducible apply spillFull_keeps | with_reducible apply modDeep_keeps | with_reducible apply putBytes64_keeps
      | with_reducible apply gctr_keeps | with_reducible apply modQueue_keeps | with_reducible apply tryReturn_keeps
      | with_reducible apply modFrame_keeps | with_reducible apply complete_keeps | with_reducible apply memUnc_keeps
      | with_reducible apply writeHalves_keeps | with_reducible apply freeSpill_keeps | with_reducible apply keeps_foldl
      | with_reducible apply keeps_foldl_snd | with_reducible apply outKeeps_next | with_reducible apply outKeeps_ite | (intro _; intros) | split
      | with_reducible apply keeps_ite | (refine keeps_snd (by assumption) ?_)
      | (fail_if_no_progress refine Keeps.upd id id id id id id id id id id id id id id id id ?_))

theorem tryRefill_keeps (u i : Nat) (r : SpillRec) (s : State) {b0 : Base} (hs : Keeps b0 s) : Keeps b0 (tryRefill u i r s) := by
  unfold tryRefill
  exact keeps_ite (dropSpilled_keeps _ _ (modChan_keeps _ _ _ hs))
    (keeps_ite hs (keeps_ite hs (modDeep_keeps _ _ (modFrame_keeps _ _ _ hs))))

theorem execRefillRequest_keeps (f : Furrow) (inp : Nat) (out : Nat) (cls : Nat) (s : State) {b0 : Base} (hs : Keeps b0 s) : OutKeeps b0 (execRefillRequest f inp out cls s) := by
  unfold execRefillRequest
  repeat' (first
      | with_reducible assumption | with_reducible apply tryRefill_keeps | with_reducible apply next_keeps | with_reducible apply outKeeps_next
      | split | with_reducible apply outKeeps_ite | with_reducible apply keeps_ite)

theorem execRefillRetry_keeps (s0 : State) {b0 : Base} (hs0 : Keeps b0 s0) : OutKeeps b0 (execRefillRetry s0) := by
  unfold execRefillRetry
  try dsimp only
  repeat' (first
      | with_reducible assumption | with_reducible apply tryRefill_keeps | with_reducible apply advance_keeps | with_reducible apply next_keeps
      | with_reducible apply outKeeps_next | split | with_reducible apply outKeeps_ite | with_reducible apply keeps_ite | (intro _; intros))

theorem chanFail_keeps (c : Nat) (cause : Nat) (s : State) {b0 : Base} (hs : Keeps b0 s) : Keeps b0 (chanFail c cause s) := by
  unfold chanFail
  try dsimp only
  repeat' (first
      | with_reducible assumption | with_reducible apply modChan_keeps | with_reducible apply fire_keeps | with_reducible apply syncDram_keeps
      | (intro _; intros) | (refine keeps_snd (by assumption) ?_)
      | (fail_if_no_progress refine Keeps.upd id id id id id id id id id id id id id id id id ?_))

theorem checkRead_keeps (client : Nat) (c : Nat) (half : Nat) (w : Nat) (bch : Nat) (s : State) {b0 : Base} (hs : Keeps b0 s) : Keeps b0 (checkRead client c half w bch s).2 := by
  unfold checkRead
  try dsimp only
  repeat' (first
      | with_reducible assumption | with_reducible apply memUnc_keeps | with_reducible apply modChan_keeps | with_reducible apply fireMs_keeps
      | with_reducible apply chanFail_keeps | with_reducible apply memCorr_keeps | with_reducible apply keeps_ite
      | with_reducible apply keeps_ite_snd | (intro _; intros) | split | (refine keeps_snd (by assumption) ?_)
      | (fail_if_no_progress refine Keeps.upd id id id id id id id id id id id id id id id id ?_))

theorem readCheck_keeps (client : Nat) (c : Nat) (half : Nat) (abp : Nat) (poison : Bool) (bch : Nat) (s : State) {b0 : Base} (hs : Keeps b0 s) : Keeps b0 (readCheck client c half abp poison bch s).2 := by
  unfold readCheck
  repeat' (first
      | with_reducible assumption | with_reducible apply chanFail_keeps | with_reducible apply memCorr_keeps | with_reducible apply modChan_keeps
      | with_reducible apply fireMs_keeps | with_reducible apply memUnc_keeps | with_reducible apply checkRead_keeps
      | with_reducible apply keeps_ite | with_reducible apply keeps_ite_snd | split)

theorem refillDone_keeps (u : Nat) (r : SpillRec) (s : State) {b0 : Base} (hs : Keeps b0 s) : Keeps b0 (refillDone u r s) := by
  unfold refillDone
  try dsimp only
  repeat' (first
      | with_reducible assumption | with_reducible apply modFur_keeps | with_reducible apply modCopy_keeps | with_reducible apply complete_keeps
      | with_reducible apply modFrame_keeps | with_reducible apply offerCopy_keeps | with_reducible apply touchPort_keeps
      | with_reducible apply gctr_keeps | with_reducible apply freeSpill_keeps | with_reducible apply keeps_ite | (intro _; intros)
      | (fail_if_no_progress refine Keeps.upd id id id id id id id id id id id id id id id id ?_))

theorem refillHalfDone_keeps (u : Nat) (c : Nat) (k : Nat) (good : Bool) (s : State) {b0 : Base} (hs : Keeps b0 s) : Keeps b0 (refillHalfDone u c k good s) := by
  unfold refillHalfDone
  try dsimp only
  repeat' (first
      | with_reducible assumption | with_reducible apply dropSpilled_keeps | with_reducible apply modChan_keeps
      | with_reducible apply refillDone_keeps | with_reducible apply modDeep_keeps | with_reducible apply keeps_ite | (intro _; intros) | split
      | (fail_if_no_progress refine Keeps.upd id id id id id id id id id id id id id id id id ?_))

theorem execDeepStoreReadDone_keeps (client : Nat) (ch : Nat) (half : Nat) (abp : Nat) (poison : Bool) (bch : Nat) (uid : Nat) (handle : Nat) (s : State) {b0 : Base} (hs : Keeps b0 s) : OutKeeps b0 (execDeepStoreReadDone client ch half abp poison bch uid handle s) := by
  unfold execDeepStoreReadDone
  try dsimp only
  repeat' (first
      | with_reducible assumption | with_reducible apply readCheck_keeps | with_reducible apply readOf_keeps
      | with_reducible apply refillEnd_keeps | with_reducible apply modFur_keeps | with_reducible apply modHl_keeps
      | with_reducible apply next_keeps | with_reducible apply chanTouch_keeps | with_reducible apply syncDram_keeps
      | with_reducible apply refillHalfDone_keeps | with_reducible apply outKeeps_next | exact fun _ => ⟨rfl, rfl, rfl⟩
      | with_reducible apply keeps_ite | with_reducible apply outKeeps_ite | split | (intro _; intros) | (refine keeps_snd (by assumption) ?_)
      | (fail_if_no_progress refine Keeps.upd id id id id id id id id id id id id id id id id ?_))

theorem execPatrolRead_keeps (ch abp0 bch0 abp1 bch1 poison : Nat) (s0 : State) {b0 : Base} (hs0 : Keeps b0 s0) : OutKeeps b0 (execPatrolRead ch abp0 bch0 abp1 bch1 poison s0) := by
  unfold execPatrolRead
  try dsimp only
  repeat' (first
      | with_reducible assumption | with_reducible apply modChan_keeps | with_reducible apply reachEdge_keeps
      | with_reducible apply readCheck_keeps | with_reducible apply putReq_keeps | with_reducible apply next_keeps
      | with_reducible apply outKeeps_next | with_reducible apply outKeeps_ite | (intro _; intros) | split | with_reducible apply keeps_ite
      | (refine keeps_snd (by assumption) ?_) | (fail_if_no_progress refine Keeps.upd id id id id id id id id id id id id id id id id ?_))

theorem execRefreshDue_keeps (ch : Nat) (rank : Nat) (postpone : Bool) (s0 : State) {b0 : Base} (hs0 : Keeps b0 s0) : OutKeeps b0 (execRefreshDue ch rank postpone s0) := by
  unfold execRefreshDue
  try dsimp only
  repeat' (first
      | with_reducible assumption | with_reducible apply modChan_keeps | with_reducible apply reachEdge_keeps | with_reducible apply next_keeps
      | with_reducible apply syncDram_keeps | with_reducible apply outKeeps_next | with_reducible apply outKeeps_ite | (intro _; intros) | split
      | with_reducible apply keeps_ite | (fail_if_no_progress refine Keeps.upd id id id id id id id id id id id id id id id id ?_))

theorem execSelfRefreshEntry_keeps (ch : Nat) (s0 : State) {b0 : Base} (hs0 : Keeps b0 s0) : OutKeeps b0 (execSelfRefreshEntry ch s0) := by
  unfold execSelfRefreshEntry
  try dsimp only
  repeat' (first
      | with_reducible assumption | with_reducible apply reachEdge_keeps | with_reducible apply modChan_keeps | with_reducible apply next_keeps
      | with_reducible apply syncDram_keeps | with_reducible apply outKeeps_next | with_reducible apply outKeeps_ite
      | with_reducible apply keeps_ite | (intro _; intros) | (refine keeps_snd (by assumption) ?_)
      | (fail_if_no_progress refine Keeps.upd id id id id id id id id id id id id id id id id ?_))

theorem execDisturbWindowClear_keeps (ch : Nat) (s : State) {b0 : Base} (hs : Keeps b0 s) : OutKeeps b0 (execDisturbWindowClear ch s) := by
  unfold execDisturbWindowClear
  try dsimp only
  repeat' (first
      | with_reducible assumption | with_reducible apply next_keeps | with_reducible apply modChan_keeps | with_reducible apply reachEdge_keeps
      | with_reducible apply syncDram_keeps | with_reducible apply outKeeps_next | (intro _; intros) | with_reducible apply outKeeps_ite
      | with_reducible apply keeps_ite | (fail_if_no_progress refine Keeps.upd id id id id id id id id id id id id id id id id ?_))

theorem execDeepStorePllLockLoss_keeps (s0 : State) {b0 : Base} (hs0 : Keeps b0 s0) : OutKeeps b0 (execDeepStorePllLockLoss s0) := by
  unfold execDeepStorePllLockLoss
  try dsimp only
  repeat' (first
      | with_reducible assumption | with_reducible apply chanFail_keeps | with_reducible apply next_keeps | with_reducible apply outKeeps_next
      | with_reducible apply keeps_ite | with_reducible apply outKeeps_ite | (intro _; intros)
      | (fail_if_no_progress refine Keeps.upd id id id id id id id id id id id id id id id id ?_))

theorem startTraining_keeps (mask : Nat) (t : Option Ticket) (s : State) {b0 : Base} (hs : Keeps b0 s) : Keeps b0 (startTraining mask t s) := by
  unfold startTraining
  try dsimp only
  repeat' (first
      | with_reducible assumption | with_reducible apply trainGo_keeps | with_reducible apply modDeep_keeps | with_reducible apply syncDram_keeps
      | (intro _; intros) | (refine keeps_snd (by assumption) ?_)
      | (fail_if_no_progress refine Keeps.upd id id id id id id id id id id id id id id id id ?_))

theorem execSpillDrainTimeout_keeps (s0 : State) {b0 : Base} (hs0 : Keeps b0 s0) : OutKeeps b0 (execSpillDrainTimeout s0) := by
  unfold execSpillDrainTimeout
  try dsimp only
  repeat' (first
      | with_reducible assumption | with_reducible apply dropSpilled_keeps | with_reducible apply spillFull_keeps
      | with_reducible apply reachEdge_keeps | with_reducible apply trainGo_keeps | with_reducible apply next_keeps
      | with_reducible apply keeps_foldl | with_reducible apply outKeeps_next | with_reducible apply keeps_ite | with_reducible apply outKeeps_ite
      | (intro _; intros) | split | with_reducible apply keeps_foldl_snd)

theorem trainChan_keeps (c : Nat) (ok : Bool) (margin : Nat) (s : State) {b0 : Base} (hs : Keeps b0 s) : Keeps b0 (trainChan c ok margin s) := by
  unfold trainChan
  repeat' (first
      | with_reducible assumption | with_reducible apply chanFail_keeps | with_reducible apply modChan_keeps | with_reducible apply fire_keeps
      | with_reducible apply keeps_ite | (fail_if_no_progress refine Keeps.upd id id id id id id id id id id id id id id id id ?_))

theorem trainingDone_keeps (ok0 ok1 : Bool) (m0 m1 : Nat) (s : State) {b0 : Base} (hs : Keeps b0 s) : Keeps b0 (trainingDone ok0 ok1 m0 m1 s) := by
  unfold trainingDone
  repeat' (first
      | with_reducible assumption | with_reducible apply trainChan_keeps | with_reducible apply complete_keeps
      | with_reducible apply modDeep_keeps | with_reducible apply keeps_ite | split)

theorem execRegionInitDone_keeps (s0 : State) {b0 : Base} (hs0 : Keeps b0 s0) : OutKeeps b0 (execRegionInitDone s0) := by
  unfold execRegionInitDone
  try dsimp only
  repeat' (first
      | with_reducible assumption | with_reducible apply reachEdge_keeps | with_reducible apply complete_keeps
      | with_reducible apply modDeep_keeps | with_reducible apply modGle_keeps | with_reducible apply modFur_keeps
      | with_reducible apply next_keeps | with_reducible apply outKeeps_next | with_reducible apply keeps_ite | split
      | with_reducible apply outKeeps_ite | (intro _; intros)
      | (fail_if_no_progress refine Keeps.upd id id id id id id id id id id id id id id id id ?_))

theorem dramSet_keeps (c : Nat) (b : List Byte) (s0 : State) {b0 : Base} (hs0 : Keeps b0 s0) : Keeps b0 (dramSet c b s0) := by
  unfold dramSet
  try dsimp only
  repeat' (first
      | with_reducible assumption | with_reducible apply modChan_keeps | with_reducible apply modDeep_keeps | with_reducible apply syncDram_keeps
      | split | with_reducible apply keeps_ite | (intro _; intros)
      | (fail_if_no_progress refine Keeps.upd id id id id id id id id id id id id id id id id ?_))

theorem bodyDramConfigure_keeps (p : Packet) (s : State) {b0 : Base} (hs : Keeps b0 s) : ResKeeps b0 (bodyDramConfigure p s) := by
  unfold bodyDramConfigure
  repeat' (first
      | with_reducible assumption | with_reducible apply retWrite_keeps | with_reducible apply dramSet_keeps
      | with_reducible apply checked_keeps | with_reducible apply resKeeps_ok | exact trivial | with_reducible apply keeps_ite
      | with_reducible apply resKeeps_ite | (fail_if_no_progress refine Keeps.upd id id id id id id id id id id id id id id id id ?_))

theorem execDramConfigure_keeps (p : Packet) (s : State) {b0 : Base} (hs : Keeps b0 s) : OutKeeps b0 (execDramConfigure p s) := 
  serveCmd_keeps _ _ _ _ (specKeeps_none rfl) (fun p t => unlessRetrain_keeps bodyDramConfigure p t (fun p t h => bodyDramConfigure_keeps p t h)) hs

theorem bodyDramTrain_keeps (p : Packet) (s : State) {b0 : Base} (hs : Keeps b0 s) : ResKeeps b0 (bodyDramTrain p s) := by
  unfold bodyDramTrain
  repeat' (first
      | with_reducible assumption | with_reducible apply startTraining_keeps | with_reducible apply checked_keeps
      | with_reducible apply resKeeps_accepted | exact trivial | with_reducible apply resKeeps_ite)

theorem execDramTrain_keeps (p : Packet) (s : State) {b0 : Base} (hs : Keeps b0 s) : OutKeeps b0 (execDramTrain p s) := 
  serveCmd_keeps _ _ _ _ (specKeeps_none rfl) (fun p t => unlessRetrain_keeps bodyDramTrain p t (fun p t h => bodyDramTrain_keeps p t h)) hs

theorem bodyDramMapSet_keeps (p : Packet) (s : State) {b0 : Base} (hs : Keeps b0 s) : ResKeeps b0 (bodyDramMapSet p s) := by
  unfold bodyDramMapSet
  try dsimp only
  repeat' (first
      | with_reducible assumption | with_reducible apply modDeep_keeps | with_reducible apply checked_keeps | with_reducible apply resKeeps_ok
      | exact trivial | with_reducible apply resKeeps_ite | with_reducible apply keeps_ite | with_reducible apply resKeeps_final
      | with_reducible apply resKeeps_accepted | (fail_if_no_progress unfold checked) | trivial | (intro _; intros) | split
      | (fail_if_no_progress refine Keeps.upd id id id id id id id id id id id id id id id id ?_))

theorem execDramMapSet_keeps (p : Packet) (s : State) {b0 : Base} (hs : Keeps b0 s) : OutKeeps b0 (execDramMapSet p s) := 
  serveCmd_keeps _ _ _ _ (specKeeps_none rfl) (fun p t => unlessRetrain_keeps bodyDramMapSet p t (fun p t h => bodyDramMapSet_keeps p t h)) hs

theorem bodyDeepStoreSet_keeps (p : Packet) (s : State) {b0 : Base} (hs : Keeps b0 s) : ResKeeps b0 (bodyDeepStoreSet p s) := by
  unfold bodyDeepStoreSet
  repeat' (first
      | with_reducible assumption | with_reducible apply modDeep_keeps | with_reducible apply checked_keeps
      | with_reducible apply resKeeps_accepted | exact trivial | with_reducible apply resKeeps_ite)

theorem execDeepStoreSet_keeps (p : Packet) (s : State) {b0 : Base} (hs : Keeps b0 s) : OutKeeps b0 (execDeepStoreSet p s) := 
  serveCmd_keeps _ _ _ _ (specKeeps_none rfl) (fun p t => unlessRetrain_keeps bodyDeepStoreSet p t (fun p t h => bodyDeepStoreSet_keeps p t h)) hs

theorem bodyDramStatus_keeps (p : Packet) (s : State) {b0 : Base} (hs : Keeps b0 s) : ResKeeps b0 (bodyDramStatus p s) := by
  unfold bodyDramStatus
  try dsimp only
  repeat' (first
      | with_reducible assumption | with_reducible apply checked_keeps | with_reducible apply syncDram_keeps | with_reducible apply resKeeps_ok
      | with_reducible apply resKeeps_final | with_reducible apply resKeeps_accepted | (fail_if_no_progress unfold checked) | trivial | split)

theorem execDramStatus_keeps (p : Packet) (s : State) {b0 : Base} (hs : Keeps b0 s) : OutKeeps b0 (execDramStatus p s) := 
  serveCmd_keeps _ _ _ _ (specKeeps_none rfl) (fun p t => unlessRetrain_keeps bodyDramStatus p t (fun p t h => bodyDramStatus_keeps p t h)) hs

end Sys2Proof.Machine
end

