-- ==== Sys2Proof/Laws/KeepPorts.lean ====
section
/-! SUPPORT. What the operations of Machine/Ports.lean keep. -/

namespace Sys2Proof.Machine

theorem cutRx_keeps (p : Nat) (s : State) {b0 : Base} (hs : Keeps b0 s) : Keeps b0 (cutRx p s) := by
  unfold cutRx
  try dsimp only
  repeat' (first
      | with_reducible assumption | with_reducible apply modFrame_keeps | with_reducible apply rxEnd_keeps | split | (intro _; intros)
      | (fail_if_no_progress refine Keeps.upd id id id id id id id id id id id id id id id id ?_))

theorem loseTx_keeps (p : Nat) (s : State) {b0 : Base} (hs : Keeps b0 s) : Keeps b0 (loseTx p s) := by
  unfold loseTx
  try dsimp only
  repeat' (first
      | with_reducible assumption | with_reducible apply discardEg_keeps | with_reducible apply macCtr_keeps | with_reducible apply modDrill_keeps
      | with_reducible apply pauseBegin_keeps | with_reducible apply settlePay_keeps | (intro _; intros) | split
      | (fail_if_no_progress refine Keeps.upd id id id id id id id id id id id id id id id id ?_))

theorem txDown_keeps (p : Nat) (s : State) {b0 : Base} (hs : Keeps b0 s) : Keeps b0 (txDown p s) := by
  unfold txDown
  repeat' (first
      | with_reducible assumption | with_reducible apply txIdle_keeps | with_reducible apply modLink_keeps | with_reducible apply loseTx_keeps
      | (intro _; intros) | (fail_if_no_progress refine Keeps.upd id id id id id id id id id id id id id id id id ?_))

theorem sendFault_keeps (p : Nat) (s : State) {b0 : Base} (hs : Keeps b0 s) : Keeps b0 (sendFault p s) := by
  unfold sendFault
  try dsimp only
  repeat' (first
      | with_reducible assumption | with_reducible apply emitOut_keeps | with_reducible apply modLink_keeps | with_reducible apply keeps_ite
      | (intro _; intros) | split | (fail_if_no_progress refine Keeps.upd id id id id id id id id id id id id id id id id ?_))

theorem rxDown_keeps (p : Nat) (count : Bool) (s : State) {b0 : Base} (hs : Keeps b0 s) : Keeps b0 (rxDown p count s) := by
  unfold rxDown
  try dsimp only
  repeat' (first
      | with_reducible assumption | with_reducible apply modLink_keeps | with_reducible apply cutRx_keeps | with_reducible apply macCtr_keeps
      | with_reducible apply sendFault_keeps | with_reducible apply flushOnLinkDown_keeps | with_reducible apply fire_keeps
      | with_reducible apply keeps_ite | (intro _; intros) | split
      | (fail_if_no_progress refine Keeps.upd id id id id id id id id id id id id id id id id ?_))

theorem laneDown_keeps (ps : List Nat) (s : State) {b0 : Base} (hs : Keeps b0 s) : Keeps b0 (laneDown ps s) := by
  unfold laneDown
  try dsimp only
  repeat' (first
      | with_reducible assumption | with_reducible apply rxDown_keeps | with_reducible apply macCtr_keeps | with_reducible apply keeps_foldl
      | with_reducible apply keeps_foldl_snd | with_reducible apply keeps_ite | (intro _; intros))

theorem execLinkDown_keeps (p : Nat) (rx : Bool) (phy : Bool) (h : Hears) (s : State) {b0 : Base} (hs : Keeps b0 s) : OutKeeps b0 (execLinkDown p rx phy h s) := by
  unfold execLinkDown
  try dsimp only
  repeat' (first
      | with_reducible assumption | with_reducible apply txDown_keeps | with_reducible apply rxDown_keeps | with_reducible apply modLane_keeps
      | with_reducible apply next_keeps | with_reducible apply laneDown_keeps | with_reducible apply keeps_foldl
      | with_reducible apply keeps_foldl_snd | with_reducible apply outKeeps_next | with_reducible apply outKeeps_ite | (intro _; intros) | split
      | with_reducible apply keeps_ite)

theorem execLinkUp_keeps (p : Nat) (g : Gains) (s : State) {b0 : Base} (hs : Keeps b0 s) : OutKeeps b0 (execLinkUp p g s) := by
  unfold execLinkUp
  try dsimp only
  repeat' (first
      | with_reducible assumption | with_reducible apply modLane_keeps | with_reducible apply modLink_keeps
      | with_reducible apply verifyStart_keeps | with_reducible apply fire_keeps | with_reducible apply next_keeps
      | with_reducible apply laneDown_keeps | with_reducible apply outKeeps_next | with_reducible apply outKeeps_ite | (intro _; intros) | split
      | with_reducible apply keeps_ite | (fail_if_no_progress refine Keeps.upd id id id id id id id id id id id id id id id id ?_))

theorem trainLanes_keeps (p : Nat) (s : State) {b0 : Base} (hs : Keeps b0 s) : Keeps b0 (trainLanes p s) := by
  unfold trainLanes
  exact keeps_ite hs (setLanes_keeps _ _ _ hs)

theorem settleAt_keeps (p : Nat) (mode : Nat) (fec : Nat) (chosen : Nat) (s : State) {b0 : Base} (hs : Keeps b0 s) : Keeps b0 (settleAt p mode fec chosen s) := by
  unfold settleAt
  try dsimp only
  repeat' (first
      | with_reducible assumption | with_reducible apply sendFault_keeps | with_reducible apply modLink_keeps | (intro _; intros)
      | (refine keeps_snd (by assumption) ?_) | (fail_if_no_progress refine Keeps.upd id id id id id id id id id id id id id id id id ?_))

theorem moveTo_keeps (p : Nat) (mode : Nat) (fec : Nat) (chosen : Nat) (s : State) {b0 : Base} (hs : Keeps b0 s) : Keeps b0 (moveTo p mode fec chosen s) := by
  unfold moveTo
  repeat' (first
      | with_reducible assumption | with_reducible apply sendFault_keeps | with_reducible apply modLink_keeps
      | with_reducible apply trainLanes_keeps | with_reducible apply settleAt_keeps | (intro _; intros) | (refine keeps_snd (by assumption) ?_)
      | (fail_if_no_progress refine Keeps.upd id id id id id id id id id id id id id id id id ?_))

theorem moveToMode_keeps (p : Nat) (s : State) {b0 : Base} (hs : Keeps b0 s) : Keeps b0 (moveToMode p s) := by
  unfold moveToMode
  repeat' (first | with_reducible assumption | with_reducible apply moveTo_keeps)

theorem phyRestart_keeps (p : Nat) (s : State) {b0 : Base} (hs : Keeps b0 s) : Keeps b0 (phyRestart p s) := by
  unfold phyRestart
  repeat' (first | with_reducible assumption | with_reducible apply emitOut_keeps | with_reducible apply keeps_ite)

theorem negotiate_keeps (p offer : Nat) (s : State) {b0 : Base} (hs : Keeps b0 s) : Keeps b0 (negotiate p offer s) := by
  unfold negotiate
  try dsimp only
  repeat' (first
      | with_reducible assumption | with_reducible apply takeFree_keeps | with_reducible apply emitOut_keeps | with_reducible apply modLink_keeps
      | with_reducible apply trainLanes_keeps | (intro _; intros))

theorem bringUp_keeps (p : Nat) (s0 : State) {b0 : Base} (hs0 : Keeps b0 s0) : Keeps b0 (bringUp p s0) := by
  unfold bringUp
  try dsimp only
  repeat' (first
      | with_reducible assumption | with_reducible apply phyRestart_keeps | with_reducible apply softPort_keeps
      | with_reducible apply modLink_keeps | with_reducible apply loseTx_keeps | with_reducible apply negotiate_keeps
      | with_reducible apply moveToMode_keeps | with_reducible apply keeps_ite | (intro _; intros) | split)

theorem startDue_keeps (p : Nat) (s : State) {b0 : Base} (hs : Keeps b0 s) : Keeps b0 (startDue p s) := by
  unfold startDue
  repeat' (first
      | with_reducible assumption | with_reducible apply modLink_keeps | with_reducible apply creditPort_keeps | with_reducible apply keeps_ite
      | (intro _; intros) | split | (fail_if_no_progress refine Keeps.upd id id id id id id id id id id id id id id id id ?_))

theorem execBringupStart_keeps (p : Nat) (s : State) {b0 : Base} (hs : Keeps b0 s) : OutKeeps b0 (execBringupStart p s) := by
  unfold execBringupStart
  repeat' (first
      | with_reducible assumption | with_reducible apply bringUp_keeps | with_reducible apply next_keeps | with_reducible apply outKeeps_next
      | with_reducible apply keeps_ite | with_reducible apply outKeeps_ite)

theorem stepPages_keeps (p : Nat) (s : State) {b0 : Base} (hs : Keeps b0 s) : Keeps b0 (stepPages p s) := by
  unfold stepPages
  repeat' (first | with_reducible assumption | with_reducible apply emitOut_keeps)

theorem execAutonegComplete_keeps (p : Nat) (np : Bool) (code : Nat) (mask : Nat) (s : State) {b0 : Base} (hs : Keeps b0 s) : OutKeeps b0 (execAutonegComplete p np code mask s) := by
  unfold execAutonegComplete
  try dsimp only
  repeat' (first
      | with_reducible assumption | with_reducible apply next_keeps | with_reducible apply modLink_keeps | with_reducible apply stepPages_keeps
      | with_reducible apply moveTo_keeps | with_reducible apply moveToMode_keeps | with_reducible apply emitOut_keeps
      | with_reducible apply settleAt_keeps | with_reducible apply outKeeps_next | with_reducible apply outKeeps_ite | (intro _; intros) | split
      | with_reducible apply keeps_ite | (fail_if_no_progress refine Keeps.upd id id id id id id id id id id id id id id id id ?_))

theorem execStepWaitExpiry_keeps (p : Nat) (s : State) {b0 : Base} (hs : Keeps b0 s) : OutKeeps b0 (execStepWaitExpiry p s) := by
  unfold execStepWaitExpiry
  try dsimp only
  repeat' (first
      | with_reducible assumption | with_reducible apply moveToMode_keeps | with_reducible apply reachEdge_keeps | with_reducible apply next_keeps
      | with_reducible apply outKeeps_next | with_reducible apply keeps_ite | with_reducible apply outKeeps_ite)

theorem execStepFailTimeout_keeps (p : Nat) (s0 : State) {b0 : Base} (hs0 : Keeps b0 s0) : OutKeeps b0 (execStepFailTimeout p s0) := by
  unfold execStepFailTimeout
  try dsimp only
  repeat' (first
      | with_reducible assumption | with_reducible apply negotiate_keeps | with_reducible apply reachEdge_keeps
      | with_reducible apply modLink_keeps | with_reducible apply fire_keeps | with_reducible apply next_keeps
      | with_reducible apply outKeeps_next | with_reducible apply keeps_ite | with_reducible apply outKeeps_ite | (intro _; intros)
      | (refine keeps_snd (by assumption) ?_) | (fail_if_no_progress refine Keeps.upd id id id id id id id id id id id id id id id id ?_))

theorem execBringupRestart_keeps (p : Nat) (s : State) {b0 : Base} (hs : Keeps b0 s) : OutKeeps b0 (execBringupRestart p s) := by
  unfold execBringupRestart
  try dsimp only
  repeat' (first
      | with_reducible assumption | with_reducible apply reachEdge_keeps | with_reducible apply bringUp_keeps | with_reducible apply next_keeps
      | with_reducible apply outKeeps_next | with_reducible apply keeps_ite | with_reducible apply outKeeps_ite)

theorem execPhyPoll_keeps (p : Nat) (status : Option Nat) (s0 : State) {b0 : Base} (hs0 : Keeps b0 s0) : OutKeeps b0 (execPhyPoll p status s0) := by
  unfold execPhyPoll
  try dsimp only
  repeat' (first
      | with_reducible assumption | with_reducible apply reachEdge_keeps | with_reducible apply emitOut_keeps | with_reducible apply modLink_keeps
      | with_reducible apply rxDown_keeps | with_reducible apply next_keeps | with_reducible apply outKeeps_next
      | with_reducible apply outKeeps_ite | (intro _; intros) | split | with_reducible apply keeps_ite
      | (fail_if_no_progress refine Keeps.upd id id id id id id id id id id id id id id id id ?_))

theorem forceRetrain_keeps (m : Nat) (s : State) {b0 : Base} (hs : Keeps b0 s) : Keeps b0 (forceRetrain m s) := by
  unfold forceRetrain
  try dsimp only
  repeat' (first
      | with_reducible assumption | with_reducible apply fire_keeps | with_reducible apply macCtr_keeps | with_reducible apply modLane_keeps
      | with_reducible apply rxDown_keeps | with_reducible apply modLink_keeps | with_reducible apply bringUp_keeps
      | with_reducible apply laneDown_keeps | with_reducible apply keeps_foldl | with_reducible apply keeps_foldl_snd
      | with_reducible apply keeps_ite | (intro _; intros) | split
      | (fail_if_no_progress refine Keeps.upd id id id id id id id id id id id id id id id id ?_))

theorem symbolErrors_keeps (m n : Nat) (s : State) {b0 : Base} (hs : Keeps b0 s) : Keeps b0 (symbolErrors m n s) := by
  unfold symbolErrors
  try dsimp only
  repeat' (first
      | with_reducible assumption | with_reducible apply modLane_keeps | with_reducible apply macCtr_keeps
      | with_reducible apply forceRetrain_keeps | with_reducible apply keeps_ite | (intro _; intros) | split
      | (fail_if_no_progress refine Keeps.upd id id id id id id id id id id id id id id id id ?_))

theorem execRetrain_keeps (m : Nat) (errors : Nat) (s : State) {b0 : Base} (hs : Keeps b0 s) : OutKeeps b0 (execRetrain m errors s) := by
  unfold execRetrain
  repeat' (first
      | with_reducible assumption | with_reducible apply next_keeps | with_reducible apply symbolErrors_keeps | with_reducible apply outKeeps_next
      | with_reducible apply outKeeps_ite | with_reducible apply keeps_ite)

theorem execAdaptationFreeze_keeps (m : Nat) (transitions : Nat) (s : State) {b0 : Base} (hs : Keeps b0 s) : OutKeeps b0 (execAdaptationFreeze m transitions s) := by
  unfold execAdaptationFreeze
  try dsimp only
  repeat' (first
      | with_reducible assumption | with_reducible apply modLane_keeps | with_reducible apply fire_keeps | with_reducible apply next_keeps
      | with_reducible apply outKeeps_next | with_reducible apply keeps_ite | with_reducible apply outKeeps_ite | (intro _; intros)
      | (fail_if_no_progress refine Keeps.upd id id id id id id id id id id id id id id id id ?_))

theorem execAdaptationResume_keeps (m : Nat) (r : Resumes) (s : State) {b0 : Base} (hs : Keeps b0 s) : OutKeeps b0 (execAdaptationResume m r s) := by
  unfold execAdaptationResume
  try dsimp only
  repeat' (first
      | with_reducible assumption | with_reducible apply modLane_keeps | with_reducible apply next_keeps | with_reducible apply outKeeps_next
      | with_reducible apply outKeeps_ite | (intro _; intros) | split | with_reducible apply keeps_ite | (refine keeps_snd (by assumption) ?_)
      | (fail_if_no_progress refine Keeps.upd id id id id id id id id id id id id id id id id ?_))

theorem execFecDegradeWindow_keeps (p : Nat) (corrected : Nat) (uncorrectable : Nat) (symbols : Nat) (s0 : State) {b0 : Base} (hs0 : Keeps b0 s0) : OutKeeps b0 (execFecDegradeWindow p corrected uncorrectable symbols s0) := by
  unfold execFecDegradeWindow
  try dsimp only
  repeat' (first
      | with_reducible assumption | with_reducible apply symbolErrors_keeps | with_reducible apply next_keeps | with_reducible apply macCtr_keeps
      | with_reducible apply uncorrectable_keeps | with_reducible apply corrected_keeps | with_reducible apply modLink_keeps
      | with_reducible apply fire_keeps | with_reducible apply reachEdge_keeps | with_reducible apply outKeeps_next
      | with_reducible apply outKeeps_ite | (intro _; intros) | split | with_reducible apply keeps_ite
      | (fail_if_no_progress refine Keeps.upd id id id id id id id id id id id id id id id id ?_))

theorem holdPort_keeps (p : Nat) (s : State) {b0 : Base} (hs : Keeps b0 s) : Keeps b0 (holdPort p s) := by
  unfold holdPort
  repeat' (first
      | with_reducible assumption | with_reducible apply txIdle_keeps | with_reducible apply rxDown_keeps | with_reducible apply modLink_keeps
      | with_reducible apply creditPort_keeps | (intro _; intros)
      | (fail_if_no_progress refine Keeps.upd id id id id id id id id id id id id id id id id ?_))

theorem holdNow_keeps (p : Nat) (s : State) {b0 : Base} (hs : Keeps b0 s) : Keeps b0 (holdNow p s) := by
  unfold holdNow
  repeat' (first | with_reducible assumption | with_reducible apply holdPort_keeps | with_reducible apply txDown_keeps)

theorem holdAll_keeps (s : State) {b0 : Base} (hs : Keeps b0 s) : Keeps b0 (holdAll s) := by
  unfold holdAll
  repeat' (first
      | with_reducible assumption | with_reducible apply holdNow_keeps | with_reducible apply keeps_foldl | with_reducible apply keeps_ite
      | (intro _; intros))

theorem configurePort_keeps (p : Nat) (c : PortCfg) (s : State) {b0 : Base} (hs : Keeps b0 s) : Keeps b0 (configurePort p c s) := by
  unfold configurePort
  repeat' (first | with_reducible assumption | with_reducible apply modPort_keeps)

theorem bodyPortConfigure_keeps (p : Packet) (s : State) {b0 : Base} (hs : Keeps b0 s) : ResKeeps b0 (bodyPortConfigure p s) := by
  unfold bodyPortConfigure
  repeat' (first
      | with_reducible assumption | with_reducible apply configurePort_keeps | with_reducible apply touchPort_keeps
      | with_reducible apply checked_keeps | with_reducible apply keeps_foldl | with_reducible apply resKeeps_ok | exact trivial
      | with_reducible apply resKeeps_ite | (intro _; intros))

theorem execPortConfigure_keeps (p : Packet) (s : State) {b0 : Base} (hs : Keeps b0 s) : OutKeeps b0 (execPortConfigure p s) := 
  serveCmd_keeps _ _ _ _ (specKeeps_none rfl) (fun p t h => bodyPortConfigure_keeps p t h) hs

theorem bodyPortEnable_keeps (p : Packet) (s : State) {b0 : Base} (hs : Keeps b0 s) : ResKeeps b0 (bodyPortEnable p s) := by
  unfold bodyPortEnable
  try dsimp only
  repeat' (first
      | with_reducible assumption | with_reducible apply checked_keeps | with_reducible apply modLink_keeps
      | with_reducible apply touchPort_keeps | with_reducible apply creditPort_keeps | with_reducible apply startDue_keeps
      | with_reducible apply holdPort_keeps | exact trivial | with_reducible apply resKeeps_ok | with_reducible apply resKeeps_final
      | with_reducible apply resKeeps_accepted | with_reducible apply resKeeps_ite | (intro _; intros) | split
      | (fail_if_no_progress refine Keeps.upd id id id id id id id id id id id id id id id id ?_))

theorem execPortEnable_keeps (p : Packet) (s : State) {b0 : Base} (hs : Keeps b0 s) : OutKeeps b0 (execPortEnable p s) := 
  serveCmd_keeps _ _ _ _ (specKeeps_none rfl) (fun p t h => bodyPortEnable_keeps p t h) hs

theorem bodyPortStatus_keeps (p : Packet) (s : State) {b0 : Base} (hs : Keeps b0 s) : ResKeeps b0 (bodyPortStatus p s) := by
  unfold bodyPortStatus
  try dsimp only
  repeat' (first
      | with_reducible assumption | with_reducible apply checked_keeps | with_reducible apply touchPort_keeps | with_reducible apply keeps_foldl
      | with_reducible apply keeps_foldl_snd | exact trivial | with_reducible apply resKeeps_ok | with_reducible apply resKeeps_final
      | with_reducible apply resKeeps_accepted | with_reducible apply resKeeps_ite | (intro _; intros) | split)

theorem execPortStatus_keeps (p : Packet) (s : State) {b0 : Base} (hs : Keeps b0 s) : OutKeeps b0 (execPortStatus p s) := 
  serveCmd_keeps _ _ _ _ (specKeeps_none rfl) (fun p t h => bodyPortStatus_keeps p t h) hs

theorem bodyLaneTune_keeps (p : Packet) (s : State) {b0 : Base} (hs : Keeps b0 s) : ResKeeps b0 (bodyLaneTune p s) := by
  unfold bodyLaneTune
  repeat' (first
      | with_reducible assumption | with_reducible apply touchPort_keeps | with_reducible apply checked_keeps
      | with_reducible apply modLane_keeps | with_reducible apply keeps_foldl | with_reducible apply resKeeps_ok | (intro _; intros))

theorem execLaneTune_keeps (p : Packet) (s : State) {b0 : Base} (hs : Keeps b0 s) : OutKeeps b0 (execLaneTune p s) := 
  serveCmd_keeps _ _ _ _ (specKeeps_none rfl) (fun p t h => bodyLaneTune_keeps p t h) hs

theorem bodyLaneEye_keeps (p : Packet) (s : State) {b0 : Base} (hs : Keeps b0 s) : ResKeeps b0 (bodyLaneEye p s) := by
  unfold bodyLaneEye
  try dsimp only
  repeat' (first
      | with_reducible assumption | with_reducible apply checked_keeps | with_reducible apply modLane_keeps
      | with_reducible apply touchPort_keeps | with_reducible apply keeps_foldl | with_reducible apply keeps_foldl_snd | exact trivial
      | with_reducible apply resKeeps_ok | with_reducible apply resKeeps_final | with_reducible apply resKeeps_accepted
      | with_reducible apply resKeeps_ite | (intro _; intros) | split
      | (fail_if_no_progress refine Keeps.upd id id id id id id id id id id id id id id id id ?_))

theorem execLaneEye_keeps (p : Packet) (s : State) {b0 : Base} (hs : Keeps b0 s) : OutKeeps b0 (execLaneEye p s) := 
  serveCmd_keeps _ _ _ _ (specKeeps_none rfl) (fun p t h => bodyLaneEye_keeps p t h) hs

theorem execLaneEyeDone_keeps (m : Nat) (height : Nat) (width : Nat) (errors : Nat) (s : State) {b0 : Base} (hs : Keeps b0 s) : OutKeeps b0 (execLaneEyeDone m height width errors s) := by
  unfold execLaneEyeDone
  try dsimp only
  repeat' (first
      | with_reducible assumption | with_reducible apply complete_keeps | with_reducible apply modLane_keeps | with_reducible apply next_keeps
      | with_reducible apply outKeeps_next | split | with_reducible apply outKeeps_ite | with_reducible apply keeps_ite | (intro _; intros)
      | (fail_if_no_progress refine Keeps.upd id id id id id id id id id id id id id id id id ?_))

theorem bodyMacFilterSet_keeps (p : Packet) (s : State) {b0 : Base} (hs : Keeps b0 s) : ResKeeps b0 (bodyMacFilterSet p s) := by
  unfold bodyMacFilterSet
  repeat' (first
      | with_reducible assumption | with_reducible apply touchPort_keeps | with_reducible apply checked_keeps
      | with_reducible apply modPort_keeps | with_reducible apply resKeeps_ok)

theorem execMacFilterSet_keeps (p : Packet) (s : State) {b0 : Base} (hs : Keeps b0 s) : OutKeeps b0 (execMacFilterSet p s) := 
  serveCmd_keeps _ _ _ _ (specKeeps_none rfl) (fun p t h => bodyMacFilterSet_keeps p t h) hs

theorem bodyMacStatsRead_keeps (p : Packet) (s : State) {b0 : Base} (hs : Keeps b0 s) : ResKeeps b0 (bodyMacStatsRead p s) := by
  unfold bodyMacStatsRead
  try dsimp only
  repeat' (first
      | with_reducible assumption | with_reducible apply checked_keeps | with_reducible apply modPort_keeps
      | with_reducible apply touchPort_keeps | with_reducible apply keeps_foldl | with_reducible apply keeps_foldl_snd | exact trivial
      | with_reducible apply resKeeps_ok | with_reducible apply resKeeps_final | with_reducible apply resKeeps_accepted
      | with_reducible apply resKeeps_ite | (intro _; intros) | split
      | (fail_if_no_progress refine Keeps.upd id id id id id id id id id id id id id id id id ?_))

theorem execMacStatsRead_keeps (p : Packet) (s : State) {b0 : Base} (hs : Keeps b0 s) : OutKeeps b0 (execMacStatsRead p s) := 
  serveCmd_keeps _ _ _ _ (specKeeps_none rfl) (fun p t h => bodyMacStatsRead_keeps p t h) hs

end Sys2Proof.Machine
end

