-- ==== Sys2Proof/Laws/KeepXcvr.lean ====
section
/-! SUPPORT. What the operations of Machine/Xcvr.lean keep. -/

namespace Sys2Proof.Machine

theorem xcvrEvent_keeps (c cause : Nat) (s : State) {b0 : Base} (hs : Keeps b0 s) : Keeps b0 (xcvrEvent c cause s) := by
  unfold xcvrEvent
  repeat' (first | with_reducible assumption | with_reducible apply fire_keeps)

theorem emitPages_keeps (c : Nat) (qsfp : Bool) (off : Nat) (z0 : Nat) (z1 : List Byte) (z2 : State) {b0 : Base} (hz2 : Keeps b0 z2) : Keeps b0 (emitPages c qsfp off z0 z1 z2) := by
  induction z0 generalizing off z1 z2 with
  | zero => exact hz2
  | succ n ih =>
    unfold emitPages
    exact ih _ _ _ (i2cOp_keeps _ _ _ (fun t h => emitOut_keeps _ _ h) hz2)

theorem jobFailed_keeps (j : LedgerJob) (s : State) {b0 : Base} (hs : Keeps b0 s) : Keeps b0 (jobFailed j s) := by
  unfold jobFailed
  repeat' (first | with_reducible assumption | with_reducible apply complete_keeps | with_reducible apply keeps_ite | split)

theorem startJobs_keeps (c : Nat) (z0 : List LedgerJob) (z1 : State) {b0 : Base} (hz1 : Keeps b0 z1) : Keeps b0 (startJobs c z0 z1) := by
  induction z0 generalizing z1 with
  | nil => exact hz1
  | cons j r ih =>
    unfold startJobs
    refine keeps_ite (ih _ (jobFailed_keeps _ _ hz1)) ?_
    exact emitPages_keeps _ _ _ _ _ _ (modModule_keeps _ _ _ (keeps_ite (creditModule_keeps _ _ hz1) hz1))

theorem askWrite_keeps (c : Nat) (j : LedgerJob) (s : State) {b0 : Base} (hs : Keeps b0 s) : Keeps b0 (askWrite c j s) := by
  unfold askWrite
  repeat' (first | with_reducible assumption | with_reducible apply modModule_keeps | with_reducible apply startJobs_keeps | split)

theorem askKept_keeps (c : Nat) (j : LedgerJob) (s : State) {b0 : Base} (hs : Keeps b0 s) : Keeps b0 (askKept c j s) := by
  unfold askKept
  try dsimp only
  repeat' (first
      | with_reducible assumption | with_reducible apply modModule_keeps | with_reducible apply askWrite_keeps | with_reducible apply keeps_ite
      | (intro _; intros) | (fail_if_no_progress refine Keeps.upd id id id id id id id id id id id id id id id id ?_))

theorem runAsked_keeps (c : Nat) (s : State) {b0 : Base} (hs : Keeps b0 s) : Keeps b0 (runAsked c s) := by
  unfold runAsked
  try dsimp only
  repeat' (first
      | with_reducible assumption | with_reducible apply askWrite_keeps | with_reducible apply modModule_keeps | with_reducible apply keeps_foldl
      | with_reducible apply keeps_foldl_snd | (intro _; intros)
      | (fail_if_no_progress refine Keeps.upd id id id id id id id id id id id id id id id id ?_))

theorem failAsked_keeps (c : Nat) (s : State) {b0 : Base} (hs : Keeps b0 s) : Keeps b0 (failAsked c s) := by
  unfold failAsked
  try dsimp only
  repeat' (first
      | with_reducible assumption | with_reducible apply jobFailed_keeps | with_reducible apply modModule_keeps | with_reducible apply keeps_foldl
      | with_reducible apply keeps_foldl_snd | (intro _; intros)
      | (fail_if_no_progress refine Keeps.upd id id id id id id id id id id id id id id id id ?_))

theorem settleKept_keeps (c : Nat) (s : State) {b0 : Base} (hs : Keeps b0 s) : Keeps b0 (settleKept c s) := by
  unfold settleKept
  try dsimp only
  repeat' (first
      | with_reducible assumption | with_reducible apply startJobs_keeps | with_reducible apply modModule_keeps | with_reducible apply keeps_ite
      | (intro _; intros) | split | (fail_if_no_progress refine Keeps.upd id id id id id id id id id id id id id id id id ?_))

theorem ownWrite_keeps (c : Nat) (fresh : Bool) (s : State) {b0 : Base} (hs : Keeps b0 s) : Keeps b0 (ownWrite c fresh s) := by
  unfold ownWrite
  repeat' (first | with_reducible assumption | with_reducible apply askWrite_keeps | with_reducible apply keeps_ite | split)

theorem execI2cBusRecovery_keeps (k : Nat) (ok : Bool) (s0 : State) {b0 : Base} (hs0 : Keeps b0 s0) : OutKeeps b0 (execI2cBusRecovery k ok s0) := by
  unfold execI2cBusRecovery
  try dsimp only
  repeat' (first
      | with_reducible assumption | with_reducible apply emitOut_keeps | with_reducible apply modMaster_keeps
      | with_reducible apply xcvrEvent_keeps | with_reducible apply next_keeps | with_reducible apply failAsked_keeps
      | with_reducible apply keeps_foldl | with_reducible apply keeps_foldl_snd | with_reducible apply outKeeps_next
      | with_reducible apply outKeeps_ite | (intro _; intros) | split | with_reducible apply keeps_ite
      | (fail_if_no_progress refine Keeps.upd id id id id id id id id id id id id id id id id ?_))

theorem execI2cRecoveryRetry_keeps (k : Nat) (ok : Bool) (s0 : State) {b0 : Base} (hs0 : Keeps b0 s0) : OutKeeps b0 (execI2cRecoveryRetry k ok s0) := by
  unfold execI2cRecoveryRetry
  try dsimp only
  repeat' (first
      | with_reducible assumption | with_reducible apply next_keeps | with_reducible apply emitOut_keeps | with_reducible apply reachEdge_keeps
      | with_reducible apply modMaster_keeps | with_reducible apply outKeeps_next | with_reducible apply outKeeps_ite | (intro _; intros) | split
      | with_reducible apply keeps_ite | (fail_if_no_progress refine Keeps.upd id id id id id id id id id id id id id id id id ?_))

theorem moduleGone_keeps (c : Nat) (s : State) {b0 : Base} (hs : Keeps b0 s) : Keeps b0 (moduleGone c s) := by
  unfold moduleGone
  try dsimp only
  repeat' (first
      | with_reducible assumption | with_reducible apply xcvrEvent_keeps | with_reducible apply modModule_keeps
      | with_reducible apply complete_keeps | with_reducible apply startDue_keeps | with_reducible apply respond_keeps
      | with_reducible apply modLink_keeps | with_reducible apply keeps_foldl | with_reducible apply keeps_ite | (intro _; intros)
      | with_reducible apply keeps_foldl_snd | split | (fail_if_no_progress refine Keeps.upd id id id id id id id id id id id id id id id id ?_))

theorem masterStart_keeps (k : Nat) (mux : Bool) (s : State) {b0 : Base} (hs : Keeps b0 s) : Keeps b0 (masterStart k mux s) := by
  unfold masterStart
  repeat' (first
      | with_reducible assumption | with_reducible apply emitOut_keeps | with_reducible apply modMaster_keeps | with_reducible apply keeps_ite
      | (intro _; intros) | split | (fail_if_no_progress refine Keeps.upd id id id id id id id id id id id id id id id id ?_))

theorem execModulePoll_keeps (m : Nat) (ident : Option Nat) (mux : Bool) (s0 : State) {b0 : Base} (hs0 : Keeps b0 s0) : OutKeeps b0 (execModulePoll m ident mux s0) := by
  unfold execModulePoll
  try dsimp only
  repeat' (first
      | with_reducible assumption | with_reducible apply next_keeps | with_reducible apply masterStart_keeps
      | with_reducible apply reachEdge_keeps | with_reducible apply i2cOp_keeps | with_reducible apply emitOut_keeps
      | with_reducible apply modModule_keeps | with_reducible apply xcvrEvent_keeps | with_reducible apply moduleGone_keeps
      | with_reducible apply outKeeps_next | with_reducible apply outKeeps_ite | (intro _; intros) | split | with_reducible apply keeps_ite
      | (fail_if_no_progress refine Keeps.upd id id id id id id id id id id id id id id id id ?_))

theorem retireHold_keeps (c : Nat) (s : State) {b0 : Base} (hs : Keeps b0 s) : Keeps b0 (retireHold c s) := by
  unfold retireHold
  repeat' (first
      | with_reducible assumption | with_reducible apply holdPort_keeps | with_reducible apply modModule_keeps
      | with_reducible apply creditModule_keeps | with_reducible apply keeps_foldl | with_reducible apply keeps_foldl_snd | (intro _; intros)
      | (fail_if_no_progress refine Keeps.upd id id id id id id id id id id id id id id id id ?_))

theorem classify_keeps (c : Nat) (a : List Byte) (b : List Byte) (noDdm : Bool) (s : State) {b0 : Base} (hs : Keeps b0 s) : Keeps b0 (classify c a b noDdm s) := by
  unfold classify
  try dsimp only
  repeat' (first
      | with_reducible assumption | with_reducible apply retireHold_keeps | with_reducible apply xcvrEvent_keeps
      | with_reducible apply modModule_keeps | with_reducible apply ownWrite_keeps | with_reducible apply keeps_ite | (intro _; intros)
      | (refine keeps_snd (by assumption) ?_) | (fail_if_no_progress refine Keeps.upd id id id id id id id id id id id id id id id id ?_))

theorem execModuleDataReady_keeps (m : Nat) (cleared : Bool) (identity : List Byte) (external : List Byte) (slots : LedgerSlots) (s0 : State) {b0 : Base} (hs0 : Keeps b0 s0) : OutKeeps b0 (execModuleDataReady m cleared identity external slots s0) := by
  unfold execModuleDataReady
  try dsimp only
  repeat' (first
      | with_reducible assumption | with_reducible apply i2cOp_keeps | with_reducible apply emitOut_keeps | with_reducible apply reachEdge_keeps
      | with_reducible apply modModule_keeps | with_reducible apply xcvrEvent_keeps | with_reducible apply softTx_keeps
      | with_reducible apply classify_keeps | with_reducible apply next_keeps | with_reducible apply runAsked_keeps
      | with_reducible apply keeps_foldl | with_reducible apply keeps_foldl_snd | with_reducible apply outKeeps_next
      | with_reducible apply outKeeps_ite | (intro _; intros) | split | with_reducible apply keeps_ite
      | (fail_if_no_progress refine Keeps.upd id id id id id id id id id id id id id id id id ?_))

theorem biasSample_keeps (c : Nat) (b : Nat) (bias : Nat) (on : Bool) (s : State) {b0 : Base} (hs : Keeps b0 s) : Keeps b0 (biasSample c b bias on s) := by
  unfold biasSample
  try dsimp only
  repeat' (first
      | with_reducible assumption | with_reducible apply xcvrEvent_keeps | with_reducible apply modModule_keeps
      | with_reducible apply ownWrite_keeps | with_reducible apply keeps_ite | with_reducible apply keeps_foldl
      | with_reducible apply keeps_foldl_snd | (intro _; intros)
      | (fail_if_no_progress refine Keeps.upd id id id id id id id id id id id id id id id id ?_))

theorem execDdmSample_keeps (m : Nat) (temp : Nat) (r : Readings) (alarms : Nat) (s0 : State) {b0 : Base} (hs0 : Keeps b0 s0) : OutKeeps b0 (execDdmSample m temp r alarms s0) := by
  unfold execDdmSample
  try dsimp only
  repeat' (first
      | with_reducible assumption | with_reducible apply creditModule_keeps | with_reducible apply reachEdge_keeps
      | with_reducible apply i2cOp_keeps | with_reducible apply emitOut_keeps | with_reducible apply modModule_keeps
      | with_reducible apply biasSample_keeps | with_reducible apply xcvrEvent_keeps | with_reducible apply next_keeps
      | with_reducible apply keeps_foldl | with_reducible apply keeps_foldl_snd | with_reducible apply outKeeps_next
      | with_reducible apply outKeeps_ite | (intro _; intros) | split | with_reducible apply keeps_ite)

theorem execLedgerDailyWrite_keeps (m : Nat) (s : State) {b0 : Base} (hs : Keeps b0 s) : OutKeeps b0 (execLedgerDailyWrite m s) := by
  unfold execLedgerDailyWrite
  try dsimp only
  repeat' (first
      | with_reducible assumption | with_reducible apply reachEdge_keeps | with_reducible apply ownWrite_keeps | with_reducible apply next_keeps
      | with_reducible apply outKeeps_next | with_reducible apply keeps_ite | with_reducible apply outKeeps_ite)

theorem withModule_keeps (s : State) (p : Packet) (k : CmdResult) {b0 : Base} (hk : ResKeeps b0 k) (hs : Keeps b0 s) : ResKeeps b0 (withModule s p k) := by
  unfold withModule
  repeat' (first | with_reducible assumption | exact trivial | with_reducible apply resKeeps_ite)

theorem bodyXcvrRead_keeps (p : Packet) (s : State) {b0 : Base} (hs : Keeps b0 s) : ResKeeps b0 (bodyXcvrRead p s) := by
  unfold bodyXcvrRead
  try dsimp only
  repeat' (first
      | with_reducible assumption | with_reducible apply checked_keeps | with_reducible apply withModule_keeps
      | with_reducible apply emitOut_keeps | with_reducible apply i2cOp_keeps | exact trivial | with_reducible apply resKeeps_ok
      | with_reducible apply resKeeps_final | with_reducible apply resKeeps_accepted | with_reducible apply resKeeps_ite | (intro _; intros)
      | split)

theorem bodyXcvrLedgerRead_keeps (p : Packet) (s : State) {b0 : Base} (hs : Keeps b0 s) : ResKeeps b0 (bodyXcvrLedgerRead p s) := by
  unfold bodyXcvrLedgerRead
  repeat' (first
      | with_reducible assumption | with_reducible apply withModule_keeps | with_reducible apply checked_keeps
      | with_reducible apply resKeeps_ok)

theorem execXcvrRead_keeps (p : Packet) (s : State) {b0 : Base} (hs : Keeps b0 s) : OutKeeps b0 (execXcvrRead p s) := by
  unfold execXcvrRead
  exact serveCmd_keeps _ _ _ _ (specKeeps_none rfl) (fun p t h => bodyXcvrRead_keeps p t h) hs

theorem execXcvrLedgerRead_keeps (p : Packet) (s : State) {b0 : Base} (hs : Keeps b0 s) : OutKeeps b0 (execXcvrLedgerRead p s) := by
  unfold execXcvrLedgerRead
  exact serveCmd_keeps _ _ _ _ (specKeeps_none rfl) (fun p t h => bodyXcvrLedgerRead_keeps p t h) hs

theorem blankSlot_keeps (c slot : Nat) (s : State) {b0 : Base} (hs : Keeps b0 s) : Keeps b0 (blankSlot c slot s) := by
  unfold blankSlot
  repeat' (first | with_reducible assumption | with_reducible apply emitPages_keeps)

theorem ledgerWritten_keeps (m : Nat) (w : LedgerWrite) (s : State) {b0 : Base} (hs : Keeps b0 s) : Keeps b0 (ledgerWritten m w s) := by
  unfold ledgerWritten
  try dsimp only
  repeat' (first
      | with_reducible assumption | with_reducible apply modModule_keeps | with_reducible apply blankSlot_keeps | with_reducible apply keeps_ite
      | (intro _; intros) | (refine keeps_snd (by assumption) ?_))

theorem execLedgerWriteDone_keeps (m : Nat) (back : Option (List Byte)) (s0 : State) {b0 : Base} (hs0 : Keeps b0 s0) : OutKeeps b0 (execLedgerWriteDone m back s0) := by
  unfold execLedgerWriteDone
  try dsimp only
  repeat' (first
      | with_reducible assumption | with_reducible apply modModule_keeps | with_reducible apply blankSlot_keeps
      | with_reducible apply xcvrEvent_keeps | with_reducible apply jobFailed_keeps | with_reducible apply complete_keeps
      | with_reducible apply startJobs_keeps | with_reducible apply next_keeps | with_reducible apply i2cOp_keeps
      | with_reducible apply emitOut_keeps | with_reducible apply ledgerWritten_keeps | with_reducible apply outKeeps_next
      | with_reducible apply outKeeps_ite | (intro _; intros) | split | with_reducible apply keeps_ite | (refine keeps_snd (by assumption) ?_)
      | (fail_if_no_progress refine Keeps.upd id id id id id id id id id id id id id id id id ?_))

theorem bodyXcvrLedgerWrite_keeps (p : Packet) (s : State) {b0 : Base} (hs : Keeps b0 s) : ResKeeps b0 (bodyXcvrLedgerWrite p s) := by
  unfold bodyXcvrLedgerWrite
  try dsimp only
  repeat' (first
      | with_reducible assumption | with_reducible apply withModule_keeps | with_reducible apply askWrite_keeps
      | with_reducible apply checked_keeps | with_reducible apply askKept_keeps | with_reducible apply resKeeps_accepted | exact trivial
      | with_reducible apply resKeeps_ite | with_reducible apply keeps_ite | with_reducible apply resKeeps_ok
      | with_reducible apply resKeeps_final | (fail_if_no_progress unfold checked) | trivial | split)

theorem serveKept_keeps (c : CmdSpec) (body : Packet → State → CmdResult) (p : Packet) (s : State) {b0 : Base} (hc : SpecKeeps b0 c) (hbody : ∀ (t0 : Packet) (t1 : State), Keeps b0 t1 → ResKeeps b0 (body t0 t1)) (hs : Keeps b0 s) : Keeps b0 (serveKept c body p s) := by
  unfold serveKept
  try dsimp only
  repeat' (first
      | with_reducible assumption | with_reducible apply hbody | with_reducible apply serve_keeps | with_reducible apply settleKept_keeps
      | with_reducible apply keeps_ite)

theorem execXcvrLedgerWrite_keeps (p : Packet) (s : State) {b0 : Base} (hs : Keeps b0 s) : OutKeeps b0 (execXcvrLedgerWrite p s) := by
  exact serveKept_keeps _ _ _ _ (specKeeps_none rfl) (fun p t h => bodyXcvrLedgerWrite_keeps p t h) hs

theorem bodyXcvrRetire_keeps (p : Packet) (s : State) {b0 : Base} (hs : Keeps b0 s) : ResKeeps b0 (bodyXcvrRetire p s) := by
  unfold bodyXcvrRetire
  try dsimp only
  repeat' (first
      | with_reducible assumption | with_reducible apply checked_keeps | with_reducible apply withModule_keeps
      | with_reducible apply modModule_keeps | with_reducible apply retireHold_keeps
      | with_reducible apply xcvrEvent_keeps | with_reducible apply creditModule_keeps | with_reducible apply startDue_keeps
      | with_reducible apply askKept_keeps | with_reducible apply keeps_foldl | with_reducible apply keeps_foldl_snd | exact trivial
      | with_reducible apply resKeeps_ok | with_reducible apply resKeeps_final | with_reducible apply resKeeps_accepted
      | with_reducible apply resKeeps_ite | (intro _; intros) | split | with_reducible apply keeps_ite | (fail_if_no_progress unfold checked)
      | trivial | (fail_if_no_progress refine Keeps.upd id id id id id id id id id id id id id id id id ?_))

theorem execXcvrRetire_keeps (p : Packet) (s : State) {b0 : Base} (hs : Keeps b0 s) : OutKeeps b0 (execXcvrRetire p s) := by
  exact serveKept_keeps _ _ _ _ (specKeeps_none rfl) (fun p t h => bodyXcvrRetire_keeps p t h) hs

end Sys2Proof.Machine
end

