-- ==== Sys2Proof/Laws/KeepTime.lean ====
section
/-! SUPPORT. What the operations of Machine/Time.lean keep. -/

namespace Sys2Proof.Machine

theorem modTim_keeps (g : TimeState → TimeState) (s : State) {b0 : Base} (hs : Keeps b0 s) : Keeps b0 (modTim g s) := by
  unfold modTim
  repeat' (first
      | with_reducible assumption | (fail_if_no_progress refine Keeps.upd id id id id id id id id id id id id id id id id ?_))

theorem modRef_keeps (g : RefInputs → RefInputs) (s : State) {b0 : Base} (hs : Keeps b0 s) : Keeps b0 (modRef g s) := by
  unfold modRef
  repeat' (first | with_reducible assumption | with_reducible apply modTim_keeps)

theorem modPtp_keeps (p : Nat) (g : PtpPort → PtpPort) (s : State) {b0 : Base} (hs : Keeps b0 s) : Keeps b0 (modPtp p g s) := by
  unfold modPtp
  repeat' (first | with_reducible assumption | with_reducible apply modTim_keeps)

theorem setClock_keeps (new : Nat) (s : State) {b0 : Base} (hs : Keeps b0 s) : Keeps b0 (setClock new s) := by
  unfold setClock
  repeat' (first
      | with_reducible assumption | with_reducible apply modTim_keeps | with_reducible apply fire_keeps | with_reducible apply keeps_ite)

theorem keepAdj_keeps (s : State) {b0 : Base} (hs : Keeps b0 s) : Keeps b0 (keepAdj s) := by
  unfold keepAdj
  try dsimp only
  repeat' (first
      | with_reducible assumption | with_reducible apply modTim_keeps | with_reducible apply keeps_ite | (intro _; intros)
      | (fail_if_no_progress refine Keeps.upd id id id id id id id id id id id id id id id id ?_))

theorem setAdj_keeps (a : Int) (s : State) {b0 : Base} (hs : Keeps b0 s) : Keeps b0 (setAdj a s) := by
  unfold setAdj
  repeat' (first
      | with_reducible assumption | with_reducible apply modTim_keeps | with_reducible apply keepAdj_keeps | with_reducible apply keeps_ite
      | (fail_if_no_progress refine Keeps.upd id id id id id id id id id id id id id id id id ?_))

theorem enterHoldover_keeps (s : State) {b0 : Base} (hs : Keeps b0 s) : Keeps b0 (enterHoldover s) := by
  unfold enterHoldover
  repeat' (first
      | with_reducible assumption | with_reducible apply setClock_keeps | with_reducible apply modTim_keeps | with_reducible apply keeps_ite
      | (fail_if_no_progress refine Keeps.upd id id id id id id id id id id id id id id id id ?_))

theorem servosStop_keeps (s0 : State) {b0 : Base} (hs0 : Keeps b0 s0) : Keeps b0 (servosStop s0) := by
  unfold servosStop
  try dsimp only
  repeat' (first | with_reducible assumption | with_reducible apply enterHoldover_keeps | with_reducible apply ptpLose_keeps | with_reducible apply keeps_ite)

theorem flipIfDue_keeps (s : State) {b0 : Base} (hs : Keeps b0 s) : Keeps b0 (flipIfDue s) := by
  unfold flipIfDue
  repeat' (first
      | with_reducible assumption | with_reducible apply keeps_ite | split
      | (fail_if_no_progress refine Keeps.upd id id id id id id id id id id id id id id id id ?_))

theorem stepBy_keeps (d : Int) (s : State) {b0 : Base} (hs : Keeps b0 s) : Keeps b0 (stepBy d s) := by
  unfold stepBy
  try dsimp only
  repeat' (first
      | with_reducible assumption | with_reducible apply flipIfDue_keeps | with_reducible apply gateStep_keeps | with_reducible apply modFur_keeps
      | with_reducible apply fire_keeps | (intro h; (try dsimp only); exact canon_tmap _ h) | (intro _; intros) | with_reducible apply keeps_ite
      | (refine keeps_snd (by assumption) ?_) | (fail_if_no_progress refine Keeps.upd id id id id id id id id id id id id id id id id ?_)
      | (fail_if_no_progress with_reducible apply Keeps.upd))

theorem applyDelta_keeps (d : Int) (first : Bool) (s : State) {b0 : Base} (hs : Keeps b0 s) : Keeps b0 (applyDelta d first s) := by
  unfold applyDelta
  repeat' (first
      | with_reducible assumption | with_reducible apply stepBy_keeps | with_reducible apply fire_keeps | with_reducible apply keeps_ite
      | (fail_if_no_progress refine Keeps.upd id id id id id id id id id id id id id id id id ?_))

theorem timeCorrection_keeps (d : Int) (s : State) {b0 : Base} (hs : Keeps b0 s) : Keeps b0 (timeCorrection d s) := by
  unfold timeCorrection
  try dsimp only
  repeat' (first
      | with_reducible assumption | with_reducible apply applyDelta_keeps | with_reducible apply takeFree_keeps
      | with_reducible apply setClock_keeps | with_reducible apply setAdj_keeps | with_reducible apply modTim_keeps
      | with_reducible apply next_keeps | with_reducible apply keepAdj_keeps | with_reducible apply keeps_ite | (intro _; intros) | split
      | (refine keeps_snd (by assumption) ?_) | (fail_if_no_progress refine Keeps.upd id id id id id id id id id id id id id id id id ?_))

theorem execTimeCorrection_keeps (s : State) {b0 : Base} (hs : Keeps b0 s) : OutKeeps b0 (execTimeCorrection s) := by
  unfold execTimeCorrection
  try dsimp only
  repeat' (first
      | with_reducible assumption | with_reducible apply timeCorrection_keeps | with_reducible apply modTim_keeps
      | with_reducible apply next_keeps | with_reducible apply outKeeps_next | with_reducible apply outKeeps_ite | split
      | with_reducible apply keeps_ite | (intro _; intros)
      | (fail_if_no_progress refine Keeps.upd id id id id id id id id id id id id id id id id ?_))

theorem execReplicaCompare_keeps (f : Furrow) (drift : Int) (s0 : State) {b0 : Base} (hs0 : Keeps b0 s0) : OutKeeps b0 (execReplicaCompare f drift s0) := by
  unfold execReplicaCompare
  try dsimp only
  repeat' (first
      | with_reducible assumption | with_reducible apply fireFur_keeps | with_reducible apply reachNs_keeps | with_reducible apply modFur_keeps
      | with_reducible apply next_keeps | with_reducible apply outKeeps_next | with_reducible apply keeps_ite | with_reducible apply outKeeps_ite
      | (intro _; intros) | (fail_if_no_progress refine Keeps.upd id id id id id id id id id id id id id id id id ?_))

theorem execReferenceLoss_keeps (s : State) {b0 : Base} (hs : Keeps b0 s) : OutKeeps b0 (execReferenceLoss s) := by
  unfold execReferenceLoss
  try dsimp only
  repeat' (first
      | with_reducible assumption | with_reducible apply enterHoldover_keeps | with_reducible apply reachEdge_keeps
      | with_reducible apply next_keeps | with_reducible apply outKeeps_next | with_reducible apply keeps_ite | split
      | with_reducible apply outKeeps_ite | (intro _; intros))

theorem execHoldoverExpiry_keeps (s : State) {b0 : Base} (hs : Keeps b0 s) : OutKeeps b0 (execHoldoverExpiry s) := by
  unfold execHoldoverExpiry
  try dsimp only
  repeat' (first
      | with_reducible assumption | with_reducible apply reachEdge_keeps | with_reducible apply setClock_keeps | with_reducible apply modTim_keeps
      | with_reducible apply next_keeps | with_reducible apply outKeeps_next | with_reducible apply keeps_ite | with_reducible apply outKeeps_ite
      | (intro _; intros) | (fail_if_no_progress refine Keeps.upd id id id id id id id id id id id id id id id id ?_))

theorem execHoldoverExtMeasure_keeps (deviation : Int) (s : State) {b0 : Base} (hs : Keeps b0 s) : OutKeeps b0 (execHoldoverExtMeasure deviation s) := by
  unfold execHoldoverExtMeasure
  try dsimp only
  repeat' (first
      | with_reducible assumption | with_reducible apply reachEdge_keeps | with_reducible apply modTim_keeps | with_reducible apply next_keeps
      | with_reducible apply setAdj_keeps | with_reducible apply outKeeps_next | with_reducible apply outKeeps_ite
      | with_reducible apply keeps_ite | (intro _; intros)
      | (fail_if_no_progress refine Keeps.upd id id id id id id id id id id id id id id id id ?_))

theorem setUtc_keeps (off : Int) (leap : Nat) (s : State) {b0 : Base} (hs : Keeps b0 s) : Keeps b0 (setUtc off leap s) := by
  unfold setUtc
  repeat' (first
      | with_reducible assumption | with_reducible apply modTim_keeps | with_reducible apply fire_keeps | with_reducible apply keeps_ite)

theorem execLeapApply_keeps (s0 : State) {b0 : Base} (hs0 : Keeps b0 s0) : OutKeeps b0 (execLeapApply s0) := by
  unfold execLeapApply
  try dsimp only
  repeat' (first
      | with_reducible assumption | with_reducible apply reachNs_keeps | with_reducible apply modTim_keeps | with_reducible apply fire_keeps
      | with_reducible apply next_keeps | with_reducible apply outKeeps_next | with_reducible apply outKeeps_ite | with_reducible apply keeps_ite
      | (intro _; intros) | (fail_if_no_progress refine Keeps.upd id id id id id id id id id id id id id id id id ?_))

theorem execPpsInEdge_keeps (s : State) {b0 : Base} (hs : Keeps b0 s) : OutKeeps b0 (execPpsInEdge s) := by
  unfold execPpsInEdge
  try dsimp only
  repeat' (first
      | with_reducible assumption | with_reducible apply modRef_keeps | with_reducible apply modTim_keeps | with_reducible apply fire_keeps
      | with_reducible apply next_keeps | with_reducible apply outKeeps_next | with_reducible apply keeps_ite | split
      | with_reducible apply outKeeps_ite | (intro _; intros)
      | (fail_if_no_progress refine Keeps.upd id id id id id id id id id id id id id id id id ?_))

theorem execTodRxMessage_keeps (bytes : List Byte) (s : State) {b0 : Base} (hs : Keeps b0 s) : OutKeeps b0 (execTodRxMessage bytes s) := by
  unfold execTodRxMessage
  try dsimp only
  repeat' (first
      | with_reducible assumption | with_reducible apply setUtc_keeps | with_reducible apply modRef_keeps | with_reducible apply next_keeps
      | with_reducible apply outKeeps_next | with_reducible apply keeps_ite | with_reducible apply outKeeps_ite | (intro _; intros)
      | (fail_if_no_progress refine Keeps.upd id id id id id id id id id id id id id id id id ?_))

theorem execTodTxMessage_keeps (s0 : State) {b0 : Base} (hs0 : Keeps b0 s0) : OutKeeps b0 (execTodTxMessage s0) := by
  unfold execTodTxMessage
  repeat' (first
      | with_reducible assumption | with_reducible apply emitOut_keeps | with_reducible apply reachNs_keeps
      | with_reducible apply outKeeps_next | with_reducible apply outKeeps_ite)

theorem execClk10mPresence_keeps (present : Bool) (s : State) {b0 : Base} (hs : Keeps b0 s) : OutKeeps b0 (execClk10mPresence present s) := by
  unfold execClk10mPresence
  try dsimp only
  repeat' (first
      | with_reducible assumption | with_reducible apply modRef_keeps | with_reducible apply fire_keeps | with_reducible apply next_keeps
      | with_reducible apply outKeeps_next | with_reducible apply keeps_ite | with_reducible apply outKeeps_ite | (intro _; intros)
      | (fail_if_no_progress refine Keeps.upd id id id id id id id id id id id id id id id id ?_))

theorem execReferenceInputTimeout_keeps (tod : Bool) (s : State) {b0 : Base} (hs : Keeps b0 s) : OutKeeps b0 (execReferenceInputTimeout tod s) := by
  unfold execReferenceInputTimeout
  try dsimp only
  repeat' (first
      | with_reducible assumption | with_reducible apply reachEdge_keeps | with_reducible apply modRef_keeps | with_reducible apply fire_keeps
      | with_reducible apply next_keeps | with_reducible apply outKeeps_next | with_reducible apply keeps_ite | with_reducible apply outKeeps_ite
      | (intro _; intros) | (fail_if_no_progress refine Keeps.upd id id id id id id id id id id id id id id id id ?_))

theorem modPps_keeps (n : Nat) (g : PpsOut → PpsOut) (s : State) {b0 : Base} (hs : Keeps b0 s) : Keeps b0 (modPps n g s) := by
  unfold modPps
  repeat' (first | with_reducible assumption | with_reducible apply modTim_keeps)

theorem execPpsOutEdge_keeps (n : Nat) (s0 : State) {b0 : Base} (hs0 : Keeps b0 s0) : OutKeeps b0 (execPpsOutEdge n s0) := by
  unfold execPpsOutEdge
  repeat' (first
      | with_reducible assumption | with_reducible apply emitOut_keeps | with_reducible apply reachNs_keeps
      | with_reducible apply modPps_keeps | with_reducible apply outKeeps_next | with_reducible apply keeps_ite
      | with_reducible apply outKeeps_ite)

theorem gpioAccept_keeps (n : Nat) (level : Bool) (ns : Nat) (qns : Nat) (s : State) {b0 : Base} (hs : Keeps b0 s) : Keeps b0 (gpioAccept n level ns qns s) := by
  unfold gpioAccept
  try dsimp only
  repeat' (first
      | with_reducible assumption | with_reducible apply fireStamp_keeps | with_reducible apply glTrigger_keeps
      | with_reducible apply modGpio_keeps | with_reducible apply fire_keeps | with_reducible apply keeps_ite | (intro _; intros)
      | (refine keeps_snd (by assumption) ?_) | (fail_if_no_progress refine Keeps.upd id id id id id id id id id id id id id id id id ?_))

theorem execGpioInputChange_keeps (n : Nat) (level : Bool) (s : State) {b0 : Base} (hs : Keeps b0 s) : OutKeeps b0 (execGpioInputChange n level s) := by
  unfold execGpioInputChange
  try dsimp only
  repeat' (first
      | with_reducible assumption | with_reducible apply gpioAccept_keeps | with_reducible apply modGpio_keeps | with_reducible apply next_keeps
      | with_reducible apply outKeeps_next | with_reducible apply keeps_ite | with_reducible apply outKeeps_ite | (intro _; intros)
      | (refine keeps_snd (by assumption) ?_) | (fail_if_no_progress refine Keeps.upd id id id id id id id id id id id id id id id id ?_))

theorem execGpioEdgeAccept_keeps (n : Nat) (s : State) {b0 : Base} (hs : Keeps b0 s) : OutKeeps b0 (execGpioEdgeAccept n s) := by
  unfold execGpioEdgeAccept
  try dsimp only
  repeat' (first
      | with_reducible assumption | with_reducible apply gpioAccept_keeps | with_reducible apply reachEdge_keeps | with_reducible apply next_keeps
      | with_reducible apply outKeeps_next | split | with_reducible apply outKeeps_ite | with_reducible apply keeps_ite)

theorem gpioResume_keeps (n : Nat) (s : State) {b0 : Base} (hs : Keeps b0 s) : Keeps b0 (gpioResume n s) := by
  unfold gpioResume
  try dsimp only
  repeat' (first
      | with_reducible assumption | with_reducible apply fire_keeps | with_reducible apply modGpio_keeps | with_reducible apply keeps_ite
      | (intro _; intros) | (refine keeps_snd (by assumption) ?_)
      | (fail_if_no_progress refine Keeps.upd id id id id id id id id id id id id id id id id ?_))

theorem execGpioChatterQuiet_keeps (n : Nat) (s : State) {b0 : Base} (hs : Keeps b0 s) : OutKeeps b0 (execGpioChatterQuiet n s) := by
  unfold execGpioChatterQuiet
  try dsimp only
  repeat' (first
      | with_reducible assumption | with_reducible apply reachEdge_keeps | with_reducible apply modGpio_keeps | with_reducible apply fire_keeps
      | with_reducible apply next_keeps | with_reducible apply gpioResume_keeps | with_reducible apply outKeeps_next
      | with_reducible apply outKeeps_ite | with_reducible apply keeps_ite)

theorem bodyGpioCaptureSet_keeps (p : Packet) (s : State) {b0 : Base} (hs : Keeps b0 s) : ResKeeps b0 (bodyGpioCaptureSet p s) := by
  unfold bodyGpioCaptureSet
  try dsimp only
  repeat' (first
      | with_reducible assumption | with_reducible apply modGpio_keeps | with_reducible apply checked_keeps
      | with_reducible apply gpioResume_keeps | with_reducible apply resKeeps_ok | with_reducible apply resKeeps_ite
      | with_reducible apply keeps_ite | with_reducible apply resKeeps_final | with_reducible apply resKeeps_accepted
      | (fail_if_no_progress unfold checked) | trivial | (intro _; intros) | split
      | (fail_if_no_progress refine Keeps.upd id id id id id id id id id id id id id id id id ?_))

theorem execGpioCaptureSet_keeps (p : Packet) (s : State) {b0 : Base} (hs : Keeps b0 s) : OutKeeps b0 (execGpioCaptureSet p s) := 
  serveCmd_keeps _ _ _ _ (specKeeps_none rfl) (fun p t h => bodyGpioCaptureSet_keeps p t h) hs

theorem setPtpState_keeps (p : Nat) (new : Nat) (s : State) {b0 : Base} (hs : Keeps b0 s) : Keeps b0 (setPtpState p new s) := by
  unfold setPtpState
  try dsimp only
  repeat' (first
      | with_reducible assumption | with_reducible apply modPtp_keeps | with_reducible apply fire_keeps | with_reducible apply keeps_ite
      | (intro _; intros) | (refine keeps_snd (by assumption) ?_)
      | (fail_if_no_progress refine Keeps.upd id id id id id id id id id id id id id id id id ?_))

theorem gmEvent_keeps (old : Nat) (s : State) {b0 : Base} (hs : Keeps b0 s) : Keeps b0 (gmEvent old s) := by
  unfold gmEvent
  repeat' (first | with_reducible assumption | with_reducible apply fire_keeps | with_reducible apply keeps_ite)

theorem ptpRestart_keeps (s : State) {b0 : Base} (hs : Keeps b0 s) : Keeps b0 (ptpRestart s) := by
  unfold ptpRestart
  try dsimp only
  repeat' (first
      | with_reducible assumption | with_reducible apply modTim_keeps | with_reducible apply setPtpState_keeps
      | with_reducible apply gmEvent_keeps | with_reducible apply keeps_foldl | with_reducible apply keeps_foldl_snd
      | with_reducible apply keeps_ite | (intro _; intros) | (refine keeps_snd (by assumption) ?_))

theorem bodyClockConfigure_keeps (p : Packet) (s : State) {b0 : Base} (hs : Keeps b0 s) : ResKeeps b0 (bodyClockConfigure p s) := by
  unfold bodyClockConfigure
  try dsimp only
  repeat' (first
      | with_reducible assumption | with_reducible apply ptpRestart_keeps | with_reducible apply setClock_keeps
      | with_reducible apply checked_keeps | with_reducible apply setUtc_keeps | with_reducible apply stepBy_keeps
      | with_reducible apply modTim_keeps | with_reducible apply modPps_keeps | with_reducible apply keepAdj_keeps
      | with_reducible apply resKeeps_ok | exact trivial | with_reducible apply keeps_ite | with_reducible apply resKeeps_ite
      | with_reducible apply resKeeps_final | with_reducible apply resKeeps_accepted | (fail_if_no_progress unfold checked) | trivial
      | (intro _; intros) | split | (fail_if_no_progress refine Keeps.upd id id id id id id id id id id id id id id id id ?_))

theorem execClockConfigure_keeps (p : Packet) (s : State) {b0 : Base} (hs : Keeps b0 s) : OutKeeps b0 (execClockConfigure p s) := 
  serveCmd_keeps _ _ _ _ (specKeeps_none rfl) (fun p t h => bodyClockConfigure_keeps p t h) hs

theorem bodyClockStatus_keeps (w0 : Packet) (s0 : State) {b0 : Base} (hs0 : Keeps b0 s0) : ResKeeps b0 (bodyClockStatus w0 s0) := by
  unfold bodyClockStatus
  repeat' (first | with_reducible assumption | with_reducible apply takeFree_keeps | with_reducible apply resKeeps_ok | split)

theorem execClockStatus_keeps (p : Packet) (s : State) {b0 : Base} (hs : Keeps b0 s) : OutKeeps b0 (execClockStatus p s) := 
  serveCmd_keeps _ _ _ _ (specKeeps_none rfl) (fun p t h => bodyClockStatus_keeps p t h) hs

end Sys2Proof.Machine
end

