-- ==== Sys2Proof/Laws/KeepPtp.lean ====
section
/-! SUPPORT. What the operations of Machine/Ptp.lean keep. -/

namespace Sys2Proof.Machine

theorem ptpSend_keeps (p : Nat) (msg : List Byte) (y : Option PtpTx) (s : State) {b0 : Base} (hs : Keeps b0 s) : Keeps b0 (ptpSend p msg y s) := by
  unfold ptpSend
  exact ownSend_keeps _ _ _ _ _ hs

theorem ptpSeq_keeps (p kind : Nat) (s : State) {b0 : Base} (hs : Keeps b0 s) : Keeps b0 (ptpSeq p kind s).2 := by
  unfold ptpSeq
  repeat' (first | with_reducible assumption | with_reducible apply modPtp_keeps)

theorem takeState_keeps (p : Nat) (r : Nat × Nat) (s : State) {b0 : Base} (hs : Keeps b0 s) : Keeps b0 (takeState p r s) := by
  unfold takeState
  repeat' (first
      | with_reducible assumption | with_reducible apply setPtpState_keeps | with_reducible apply modPtp_keeps
      | with_reducible apply keeps_ite)

theorem ptpDecide_keeps (s : State) {b0 : Base} (hs : Keeps b0 s) : Keeps b0 (ptpDecide s) := by
  unfold ptpDecide
  try dsimp only
  repeat' (first
      | with_reducible assumption | with_reducible apply takeState_keeps | with_reducible apply modPtp_keeps | with_reducible apply modTim_keeps
      | with_reducible apply fire_keeps | with_reducible apply gmEvent_keeps | with_reducible apply keeps_foldl | with_reducible apply keeps_ite
      | (intro _; intros) | split | with_reducible apply keeps_foldl_snd | (refine keeps_snd (by assumption) ?_)
      | (fail_if_no_progress refine Keeps.upd id id id id id id id id id id id id id id id id ?_))

theorem ptpFault_keeps (p kind cause : Nat) (s : State) {b0 : Base} (hs : Keeps b0 s) : Keeps b0 (ptpFault p kind cause s) := by
  unfold ptpFault
  repeat' (first | with_reducible assumption | with_reducible apply fireMs_keeps)

theorem ptpOffset_keeps (p : Nat) (off : Int) (s : State) {b0 : Base} (hs : Keeps b0 s) : Keeps b0 (ptpOffset p off s) := by
  unfold ptpOffset
  repeat' (first
      | with_reducible assumption | with_reducible apply setPtpState_keeps | with_reducible apply modTim_keeps
      | with_reducible apply keeps_ite)

theorem syncOffset_keeps (p t1 t2 : Nat) (corr : Int) (s : State) {b0 : Base} (hs : Keeps b0 s) : Keeps b0 (syncOffset p t1 t2 corr s) := by
  unfold syncOffset
  repeat' (first | with_reducible assumption | with_reducible apply ptpOffset_keeps)

theorem rxSyncMsg_keeps (p t : Nat) (m : PtpMsg) (s : State) {b0 : Base} (hs : Keeps b0 s) : Keeps b0 (rxSyncMsg p t m s) := by
  unfold rxSyncMsg
  repeat' (first
      | with_reducible assumption | with_reducible apply syncOffset_keeps | with_reducible apply modPtp_keeps | with_reducible apply keeps_ite)

theorem rxFollowUp_keeps (p : Nat) (m : PtpMsg) (s : State) {b0 : Base} (hs : Keeps b0 s) : Keeps b0 (rxFollowUp p m s) := by
  unfold rxFollowUp
  repeat' (first
      | with_reducible assumption | with_reducible apply syncOffset_keeps | with_reducible apply modPtp_keeps | with_reducible apply keeps_ite
      | split)

theorem rxPdelayReq_keeps (p : Nat) (t : Nat) (m : PtpMsg) (s : State) {b0 : Base} (hs : Keeps b0 s) : Keeps b0 (rxPdelayReq p t m s) := by
  unfold rxPdelayReq
  try dsimp only
  repeat' (first
      | with_reducible assumption | with_reducible apply ptpSend_keeps | with_reducible apply modPtp_keeps | with_reducible apply keeps_ite
      | (intro _; intros) | (refine keeps_snd (by assumption) ?_)
      | (fail_if_no_progress refine Keeps.upd id id id id id id id id id id id id id id id id ?_))

theorem setLinkDelay_keeps (p : Nat) (twice : Int) (s : State) {b0 : Base} (hs : Keeps b0 s) : Keeps b0 (setLinkDelay p twice s) := by
  unfold setLinkDelay
  repeat' (first | with_reducible assumption | with_reducible apply modPtp_keeps)

theorem rxPdelayResp_keeps (p t : Nat) (m : PtpMsg) (s : State) {b0 : Base} (hs : Keeps b0 s) : Keeps b0 (rxPdelayResp p t m s) := by
  unfold rxPdelayResp
  repeat' (first
      | with_reducible assumption | with_reducible apply setLinkDelay_keeps | with_reducible apply modPtp_keeps
      | with_reducible apply keeps_ite | split)

theorem rxPdelayFollow_keeps (p : Nat) (m : PtpMsg) (s : State) {b0 : Base} (hs : Keeps b0 s) : Keeps b0 (rxPdelayFollow p m s) := by
  unfold rxPdelayFollow
  repeat' (first | with_reducible assumption | with_reducible apply setLinkDelay_keeps | with_reducible apply keeps_ite | split)

theorem rxAnnounce_keeps (p : Nat) (m : PtpMsg) (s : State) {b0 : Base} (hs : Keeps b0 s) : Keeps b0 (rxAnnounce p m s) := by
  unfold rxAnnounce
  try dsimp only
  repeat' (first
      | with_reducible assumption | with_reducible apply ptpDecide_keeps | with_reducible apply setUtc_keeps | with_reducible apply modPtp_keeps
      | with_reducible apply keeps_ite | (intro _; intros) | split
      | (fail_if_no_progress refine Keeps.upd id id id id id id id id id id id id id id id id ?_))

theorem tcFlush_keeps (s : State) {b0 : Base} (hs : Keeps b0 s) : Keeps b0 (tcFlush s) := by
  unfold tcFlush
  repeat' (first
      | with_reducible assumption | with_reducible apply ptpSend_keeps | with_reducible apply modTim_keeps | with_reducible apply keeps_foldl
      | (intro _; intros))

theorem tcSync_keeps (p : Nat) (t : Nat) (m : PtpMsg) (s : State) (q : Nat) {b0 : Base} (hs : Keeps b0 s) : Keeps b0 (tcSync p t m s q) := by
  unfold tcSync
  try dsimp only
  repeat' (first
      | with_reducible assumption | with_reducible apply ptpSend_keeps | with_reducible apply modTim_keeps | with_reducible apply keeps_ite
      | (intro _; intros) | (refine keeps_snd (by assumption) ?_)
      | (fail_if_no_progress refine Keeps.upd id id id id id id id id id id id id id id id id ?_))

theorem tcFollow_keeps (m : PtpMsg) (s : State) (q : Nat) {b0 : Base} (hs : Keeps b0 s) : Keeps b0 (tcFollow m s q) := by
  unfold tcFollow
  repeat' (first
      | with_reducible assumption | with_reducible apply ptpSend_keeps | with_reducible apply tcFlush_keeps
      | with_reducible apply modTim_keeps | with_reducible apply keeps_ite)

theorem tcForward_keeps (p t : Nat) (m : PtpMsg) (s : State) {b0 : Base} (hs : Keeps b0 s) : Keeps b0 (tcForward p t m s) := by
  unfold tcForward
  repeat' (first
      | with_reducible assumption | with_reducible apply tcFollow_keeps | with_reducible apply ptpSend_keeps
      | with_reducible apply tcFlush_keeps | with_reducible apply tcSync_keeps | with_reducible apply keeps_foldl | (intro _; intros) | split)

theorem ptpCount_keeps (p kind : Nat) (s : State) {b0 : Base} (hs : Keeps b0 s) : Keeps b0 (ptpCount p kind s) := by
  unfold ptpCount
  repeat' (first | with_reducible assumption | with_reducible apply modPtp_keeps)

theorem ptpHandle_keeps (p t : Nat) (bytes : List Byte) (s : State) {b0 : Base} (hs : Keeps b0 s) : Keeps b0 (ptpHandle p t bytes s) := by
  unfold ptpHandle
  repeat' (first
      | with_reducible assumption | with_reducible apply rxPdelayFollow_keeps | with_reducible apply rxPdelayResp_keeps
      | with_reducible apply rxPdelayReq_keeps | with_reducible apply rxFollowUp_keeps | with_reducible apply rxAnnounce_keeps
      | with_reducible apply rxSyncMsg_keeps | with_reducible apply tcForward_keeps | with_reducible apply ptpFault_keeps
      | with_reducible apply ptpCount_keeps | with_reducible apply modTim_keeps | with_reducible apply keeps_ite | split)

theorem execPtpMessageRx_keeps (s : State) {b0 : Base} (hs : Keeps b0 s) : OutKeeps b0 (execPtpMessageRx s) := by
  unfold execPtpMessageRx
  try dsimp only
  repeat' (first
      | with_reducible assumption | with_reducible apply ptpHandle_keeps | with_reducible apply modTim_keeps | with_reducible apply next_keeps
      | with_reducible apply outKeeps_next | split | with_reducible apply outKeeps_ite | with_reducible apply keeps_ite | (intro _; intros)
      | (fail_if_no_progress refine Keeps.upd id id id id id id id id id id id id id id id id ?_))

theorem ptpEmit_keeps (p kind : Nat) (s : State) {b0 : Base} (hs : Keeps b0 s) : Keeps b0 (ptpEmit p kind s) := by
  unfold ptpEmit
  try dsimp only
  repeat' (first
      | with_reducible assumption | with_reducible apply ptpSend_keeps | with_reducible apply ptpSeq_keeps | with_reducible apply modPtp_keeps
      | split)

theorem execPtpMessageTx_keeps (p : Nat) (kind : Nat) (s0 : State) {b0 : Base} (hs0 : Keeps b0 s0) : OutKeeps b0 (execPtpMessageTx p kind s0) := by
  unfold execPtpMessageTx
  try dsimp only
  repeat' (first
      | with_reducible assumption | with_reducible apply setPtpState_keeps | with_reducible apply reachEdge_keeps
      | with_reducible apply ptpEmit_keeps | with_reducible apply next_keeps | with_reducible apply outKeeps_next | with_reducible apply keeps_ite
      | with_reducible apply outKeeps_ite | split | (fail_if_no_progress refine Keeps.upd id id id id id id id id id id id id id id id id ?_))

theorem execAnnounceReceiptTimeout_keeps (p : Nat) (s0 : State) {b0 : Base} (hs0 : Keeps b0 s0) : OutKeeps b0 (execAnnounceReceiptTimeout p s0) := by
  unfold execAnnounceReceiptTimeout
  try dsimp only
  repeat' (first
      | with_reducible assumption | with_reducible apply enterHoldover_keeps | with_reducible apply setPtpState_keeps
      | with_reducible apply reachEdge_keeps | with_reducible apply ptpDecide_keeps | with_reducible apply modPtp_keeps
      | with_reducible apply next_keeps | with_reducible apply outKeeps_next | with_reducible apply keeps_ite | with_reducible apply outKeeps_ite
      | (intro _; intros) | (fail_if_no_progress refine Keeps.upd id id id id id id id id id id id id id id id id ?_))

theorem pairStamp_keeps (p : Nat) (e : StampEnt) (s : State) {b0 : Base} (hs : Keeps b0 s) : Keeps b0 (pairStamp p e s) := by
  unfold pairStamp
  try dsimp only
  repeat' (first
      | with_reducible assumption | with_reducible apply ptpSend_keeps | with_reducible apply tcFlush_keeps | with_reducible apply modTim_keeps
      | with_reducible apply modPtp_keeps | with_reducible apply keeps_ite | split | (intro _; intros) | (refine keeps_snd (by assumption) ?_)
      | (fail_if_no_progress refine Keeps.upd id id id id id id id id id id id id id id id id ?_))

theorem execStampFifoRead_keeps (p : Nat) (s : State) {b0 : Base} (hs : Keeps b0 s) : OutKeeps b0 (execStampFifoRead p s) := by
  unfold execStampFifoRead
  try dsimp only
  repeat' (first
      | with_reducible assumption | with_reducible apply pairStamp_keeps | with_reducible apply modPtp_keeps | with_reducible apply next_keeps
      | with_reducible apply outKeeps_next | with_reducible apply keeps_ite | split | with_reducible apply outKeeps_ite | (intro _; intros)
      | (fail_if_no_progress refine Keeps.upd id id id id id id id id id id id id id id id id ?_))

theorem bodyPtpPortSet_keeps (p : Packet) (s : State) {b0 : Base} (hs : Keeps b0 s) : ResKeeps b0 (bodyPtpPortSet p s) := by
  unfold bodyPtpPortSet
  try dsimp only
  repeat' (first
      | with_reducible assumption | with_reducible apply checked_keeps | with_reducible apply modPtp_keeps | with_reducible apply touchPort_keeps
      | with_reducible apply fire_keeps | with_reducible apply ptpDecide_keeps | exact trivial | with_reducible apply resKeeps_ok
      | with_reducible apply resKeeps_final | with_reducible apply resKeeps_accepted | with_reducible apply resKeeps_ite | (intro _; intros)
      | split)

theorem execPtpPortSet_keeps (p : Packet) (s : State) {b0 : Base} (hs : Keeps b0 s) : OutKeeps b0 (execPtpPortSet p s) := 
  serveCmd_keeps _ _ _ _ (specKeeps_none rfl) (fun p t h => bodyPtpPortSet_keeps p t h) hs

theorem execScheduledEventWake_keeps (p : Nat) (s : State) {b0 : Base} (hs : Keeps b0 s) : OutKeeps b0 (execScheduledEventWake p s) := by
  unfold execScheduledEventWake
  repeat' (first
      | with_reducible assumption | with_reducible apply next_keeps | with_reducible apply touchPort_keeps | with_reducible apply reachEdge_keeps
      | with_reducible apply outKeeps_next | split | with_reducible apply outKeeps_ite | with_reducible apply keeps_ite)

end Sys2Proof.Machine
end

