-- ==== Sys2Proof/Laws/KeepIrig.lean ====
section
/-! SUPPORT. What the operations of Machine/Irig.lean keep. -/

namespace Sys2Proof.Machine

theorem irigInvalid_keeps (s : State) {b0 : Base} (hs : Keeps b0 s) : Keeps b0 (irigInvalid s) := by
  unfold irigInvalid
  repeat' (first
      | with_reducible assumption | with_reducible apply enterHoldover_keeps | with_reducible apply fireLim_keeps
      | with_reducible apply modRef_keeps | with_reducible apply fire_keeps | with_reducible apply keeps_ite | (intro _; intros))

theorem irigValid_keeps (l : List Nat) (sec : Int) (age : Nat) (s : State) {b0 : Base} (hs : Keeps b0 s) : Keeps b0 (irigValid l sec age s) := by
  unfold irigValid
  try dsimp only
  repeat' (first
      | with_reducible assumption | with_reducible apply fireLim_keeps | with_reducible apply modTim_keeps | with_reducible apply modRef_keeps
      | with_reducible apply setUtc_keeps | with_reducible apply fire_keeps | with_reducible apply keeps_ite | (intro _; intros)
      | (fail_if_no_progress refine Keeps.upd id id id id id id id id id id id id id id id id ?_))

theorem execIrigFrame_keeps (pulses : List Nat) (first : Nat) (s : State) {b0 : Base} (hs : Keeps b0 s) : OutKeeps b0 (execIrigFrame pulses first s) := by
  unfold execIrigFrame
  try dsimp only
  repeat' (first
      | with_reducible assumption | with_reducible apply irigInvalid_keeps | with_reducible apply irigValid_keeps
      | with_reducible apply modRef_keeps | with_reducible apply next_keeps | with_reducible apply outKeeps_next
      | with_reducible apply outKeeps_ite | with_reducible apply keeps_ite | (intro _; intros) | split
      | (fail_if_no_progress refine Keeps.upd id id id id id id id id id id id id id id id id ?_))

theorem execIrigOutFrame_keeps (s0 : State) {b0 : Base} (hs0 : Keeps b0 s0) : OutKeeps b0 (execIrigOutFrame s0) := by
  unfold execIrigOutFrame
  try dsimp only
  repeat' (first
      | with_reducible assumption | with_reducible apply takeFree_keeps | with_reducible apply reachNs_keeps | with_reducible apply emitOut_keeps
      | with_reducible apply next_keeps | with_reducible apply outKeeps_next | with_reducible apply outKeeps_ite | with_reducible apply keeps_ite
      | split | (refine keeps_snd (by assumption) ?_))

theorem bodyIrigSet_keeps (p : Packet) (s : State) {b0 : Base} (hs : Keeps b0 s) : ResKeeps b0 (bodyIrigSet p s) := by
  unfold bodyIrigSet
  repeat' (first
      | with_reducible assumption | with_reducible apply enterHoldover_keeps | with_reducible apply checked_keeps
      | with_reducible apply modTim_keeps | with_reducible apply modRef_keeps | with_reducible apply fire_keeps
      | with_reducible apply resKeeps_ok | with_reducible apply keeps_ite | with_reducible apply resKeeps_ite)

theorem execIrigSet_keeps (p : Packet) (s : State) {b0 : Base} (hs : Keeps b0 s) : OutKeeps b0 (execIrigSet p s) := 
  serveCmd_keeps _ _ _ _ (specKeeps_none rfl) (fun p t h => bodyIrigSet_keeps p t h) hs

end Sys2Proof.Machine
end

