-- ==== Sys2Proof/Laws/KeepStook.lean ====
section
/-! SUPPORT. What the operations of Machine/Stook.lean keep. -/

namespace Sys2Proof.Machine

theorem modStook_keeps (g : Stook → Stook) (s : State) {b0 : Base} (hs : Keeps b0 s) : Keeps b0 (modStook g s) := by
  unfold modStook
  repeat' (first
      | with_reducible assumption | (fail_if_no_progress refine Keeps.upd id id id id id id id id id id id id id id id id ?_))

theorem perfTake_keeps (i e : Nat) (s : State) {b0 : Base} (hs : Keeps b0 s) : Keeps b0 (perfTake i e s) := by
  unfold perfTake
  repeat' (first
      | with_reducible assumption | (intro h; (try dsimp only); exact canon_tset _ _ h) | (intro _; intros)
      | (fail_if_no_progress with_reducible apply Keeps.upd))

theorem perfApply_keeps (s : State) {b0 : Base} (hs : Keeps b0 s) : Keeps b0 (perfApply s) := by
  unfold perfApply
  repeat' (first
      | with_reducible assumption | with_reducible apply perfTake_keeps | with_reducible apply keeps_foldl | (intro _; intros))

theorem stookClear_keeps (s : State) {b0 : Base} (hs : Keeps b0 s) : Keeps b0 (stookClear s) := by
  unfold stookClear
  repeat' (first
      | with_reducible assumption | with_reducible apply modFur_keeps | (intro h; (try dsimp only); exact canon_tmap _ h) | (intro _; intros)
      | split | (fail_if_no_progress with_reducible apply Keeps.upd))

theorem stookUndo_keeps (w : Snapshot) (s : State) {b0 : Base} (hs : Keeps b0 s) : Keeps b0 (stookUndo w s) := by
  unfold stookUndo
  try dsimp only
  repeat' (first
      | with_reducible assumption | with_reducible apply modFur_keeps | with_reducible apply modPort_keeps | with_reducible apply modStook_keeps
      | with_reducible apply keeps_foldl | with_reducible apply keeps_foldl_snd | with_reducible apply keeps_ite | (intro _; intros)
      | (refine keeps_snd (by assumption) ?_) | (fail_if_no_progress refine Keeps.upd id id id id id id id id id id id id id id id id ?_))

theorem stookLatch_keeps (t : Nat) (ticket : Option Ticket) (s0 : State) {b0 : Base} (hs0 : Keeps b0 s0) : Keeps b0 (stookLatch t ticket s0) := by
  unfold stookLatch
  try dsimp only
  repeat' (first
      | with_reducible assumption | with_reducible apply stookClear_keeps | with_reducible apply reachEdge_keeps
      | with_reducible apply perfApply_keeps | with_reducible apply modStook_keeps | with_reducible apply reachNs_keeps
      | with_reducible apply syncDram_keeps | with_reducible apply keeps_foldl | with_reducible apply keeps_foldl_snd
      | with_reducible apply keeps_ite | (intro _; intros) | split | (refine keeps_snd (by assumption) ?_)
      | (fail_if_no_progress refine Keeps.upd id id id id id id id id id id id id id id id id ?_))

theorem stookSkip_keeps (cause : Nat) (s : State) {b0 : Base} (hs : Keeps b0 s) : Keeps b0 (stookSkip cause s) := by
  unfold stookSkip
  repeat' (first | with_reducible assumption | with_reducible apply modStook_keeps | with_reducible apply fire_keeps)

theorem stookPeriodic_keeps (n : Nat) (s0 : State) {b0 : Base} (hs0 : Keeps b0 s0) : Keeps b0 (stookPeriodic n s0) := by
  unfold stookPeriodic
  repeat' (first
      | with_reducible assumption | with_reducible apply stookLatch_keeps | with_reducible apply stookSkip_keeps
      | with_reducible apply modStook_keeps | with_reducible apply reachNs_keeps | with_reducible apply keeps_ite)

theorem stookManual_keeps (t : Nat) (k : Ticket) (s0 : State) {b0 : Base} (hs0 : Keeps b0 s0) : Keeps b0 (stookManual t k s0) := by
  unfold stookManual
  repeat' (first
      | with_reducible assumption | with_reducible apply stookLatch_keeps | with_reducible apply stookSkip_keeps
      | with_reducible apply modStook_keeps | with_reducible apply complete_keeps | with_reducible apply reachNs_keeps
      | with_reducible apply keeps_ite)

theorem execStookTick_keeps (s : State) {b0 : Base} (hs : Keeps b0 s) : OutKeeps b0 (execStookTick s) := by
  unfold execStookTick
  try dsimp only
  repeat' (first
      | with_reducible assumption | with_reducible apply stookPeriodic_keeps | with_reducible apply stookManual_keeps
      | with_reducible apply next_keeps | with_reducible apply outKeeps_next | with_reducible apply keeps_ite | split
      | with_reducible apply outKeeps_ite | (refine keeps_snd (by assumption) ?_))

theorem execStookSnapshotWritten_keeps (ok : Bool) (s : State) {b0 : Base} (hs : Keeps b0 s) : OutKeeps b0 (execStookSnapshotWritten ok s) := by
  unfold execStookSnapshotWritten
  try dsimp only
  repeat' (first
      | with_reducible assumption | with_reducible apply stookSkip_keeps | with_reducible apply modStook_keeps
      | with_reducible apply complete_keeps | with_reducible apply emitOut_keeps | with_reducible apply fire_keeps
      | with_reducible apply next_keeps | with_reducible apply stookUndo_keeps | with_reducible apply hostWrite_keeps
      | with_reducible apply outKeeps_next | with_reducible apply outKeeps_ite | split | with_reducible apply keeps_ite | (intro _; intros)
      | (fail_if_no_progress refine Keeps.upd id id id id id id id id id id id id id id id id ?_))

theorem bodyStookSet_keeps (p : Packet) (s : State) {b0 : Base} (hs : Keeps b0 s) : ResKeeps b0 (bodyStookSet p s) := by
  unfold bodyStookSet
  repeat' (first
      | with_reducible assumption | with_reducible apply perfApply_keeps | with_reducible apply modStook_keeps
      | with_reducible apply checked_keeps | with_reducible apply resKeeps_ok | exact trivial | with_reducible apply keeps_ite
      | with_reducible apply resKeeps_ite)

theorem execStookSet_keeps (p : Packet) (s : State) {b0 : Base} (hs : Keeps b0 s) : OutKeeps b0 (execStookSet p s) := 
  serveCmd_keeps _ _ _ _ (specKeeps_none rfl) (fun p t h => bodyStookSet_keeps p t h) hs

theorem bodyCounterSelect_keeps (p : Packet) (s : State) {b0 : Base} (hs : Keeps b0 s) : ResKeeps b0 (bodyCounterSelect p s) := by
  unfold bodyCounterSelect
  try dsimp only
  repeat' (first
      | with_reducible assumption | with_reducible apply perfTake_keeps | with_reducible apply checked_keeps | with_reducible apply syncDram_keeps
      | with_reducible apply keeps_foldl | with_reducible apply resKeeps_ok | (intro h; (try dsimp only); exact canon_tset _ _ h)
      | with_reducible apply keeps_ite | with_reducible apply resKeeps_ite | (intro _; intros) | with_reducible apply keeps_foldl_snd
      | with_reducible apply resKeeps_final | with_reducible apply resKeeps_accepted | (fail_if_no_progress unfold checked) | trivial | split
      | (refine keeps_snd (by assumption) ?_) | (fail_if_no_progress with_reducible apply Keeps.upd))

theorem execCounterSelect_keeps (p : Packet) (s : State) {b0 : Base} (hs : Keeps b0 s) : OutKeeps b0 (execCounterSelect p s) := 
  serveCmd_keeps _ _ _ _ (specKeeps_none rfl) (fun p t h => bodyCounterSelect_keeps p t h) hs

theorem bodyStookNow_keeps (p : Packet) (s : State) {b0 : Base} (hs : Keeps b0 s) : ResKeeps b0 (bodyStookNow p s) := by
  unfold bodyStookNow
  repeat' (first
      | with_reducible assumption | with_reducible apply modStook_keeps | with_reducible apply resKeeps_accepted | exact trivial
      | with_reducible apply resKeeps_ite)

theorem execStookNow_keeps (p : Packet) (s : State) {b0 : Base} (hs : Keeps b0 s) : OutKeeps b0 (execStookNow p s) := 
  serveCmd_keeps _ _ _ _ (specKeeps_none rfl) (fun p t h => bodyStookNow_keeps p t h) hs

end Sys2Proof.Machine
end

