-- ==== Sys2Proof/Laws/KeepRelease.lean ====
section
/-! SUPPORT. What the operations of Machine/Release.lean keep. -/

namespace Sys2Proof.Machine

theorem modDev_keeps (g : Device → Device) (s : State) {b0 : Base} (hs : Keeps b0 s) (hg : ∀ d, d.state ≤ 6 → (g d).state ≤ 6) : Keeps b0 (modDev g s) := hs.dev (hg _ hs.wf_mode)

theorem modClk_keeps (g : Clocks → Clocks) (s : State) {b0 : Base} (hs : Keeps b0 s) : Keeps b0 (modClk g s) := by
  unfold modClk
  repeat' (first
      | with_reducible assumption | (fail_if_no_progress refine Keeps.upd id id id id id id id id id id id id id id id id ?_))

theorem modSlices_keeps (g : Slices → Slices) (s : State) {b0 : Base} (hs : Keeps b0 s) : Keeps b0 (modSlices g s) := by
  unfold modSlices
  repeat' (first
      | with_reducible assumption | (fail_if_no_progress refine Keeps.upd id id id id id id id id id id id id id id id id ?_))

theorem modCp_keeps (g : CmdProc → CmdProc) (s : State) {b0 : Base} (hs : Keeps b0 s) (hg : ∀ c, (g c).sessions = c.sessions) : Keeps b0 (modCp g s) := Keeps.upd id id (fun h => by rw [hg]; exact h) id id id id id id id id id id id id id hs

theorem resetAll_keeps (k part : Nat) (s : State) {b0 : Base} (hs : Keeps b0 s) : Keeps b0 (resetAll k part s) := by
  refine ⟨hs.queue, hs.nv.cut k part hs.wf_gens, ?_⟩
  have hm := hs.wf_mem
  have hb := hs.wf_backup
  have hg := canon_tmap (fun g : Gpio => { level := g.level, accepted := g.level }) hs.wf_gpio
  have hn := canon_cutBurn k part hs.wf_gens
  simp only [State.wf, resetAll, Bool.and_eq_true, hm, hb, hg, hn, canon_nil, and_true, true_and]
  exact ⟨⟨⟨⟨⟨rfl, rfl⟩, rfl⟩, rfl⟩, rfl⟩, rfl⟩

theorem execPowerOnDetect_keeps (lost : Bool) (copies part : Nat) (s0 : State) {b0 : Base} (hs0 : Keeps b0 s0) : OutKeeps b0 (execPowerOnDetect lost copies part s0) := by
  unfold execPowerOnDetect
  extract_lets s
  have h : Keeps b0 s := modDev_keeps _ _ (resetAll_keeps _ _ _ hs0) (fun _ h => h)
  clear_value s
  exact outKeeps_next (keeps_ite (Keeps.upd id (fun _ => ⟨rfl, rfl⟩) id id id id id id id id id id id id id id h) h)

theorem execResetNAssert_keeps (ns copies part : Nat) (s0 : State) {b0 : Base} (hs0 : Keeps b0 s0) : OutKeeps b0 (execResetNAssert ns copies part s0) := by
  unfold execResetNAssert
  repeat' (first
      | with_reducible assumption | with_reducible apply takeFree_keeps | with_reducible apply resetAll_keeps
      | with_reducible apply modDev_keeps | with_reducible apply outKeeps_next | exact fun _ h => h | with_reducible apply keeps_ite_snd
      | with_reducible apply outKeeps_ite)

theorem setState_keeps (n : Nat) (s : State) {b0 : Base} (hs : Keeps b0 s) (hn : n ≤ 6) : Keeps b0 (setState n s) := by
  unfold setState
  repeat' (first | with_reducible assumption | with_reducible apply modDev_keeps | (intro _; intros))

theorem execFallowRelease_keeps (xtal : Bool) (bypass : Bool) (test : Bool) (bad : List Nat) (s : State) {b0 : Base} (hs : Keeps b0 s) : OutKeeps b0 (execFallowRelease xtal bypass test bad s) := by
  unfold execFallowRelease
  try dsimp only
  repeat' (first
      | with_reducible assumption | with_reducible apply retainedCheck_keeps | with_reducible apply hdrCount_keeps
      | with_reducible apply modClk_keeps | with_reducible apply modDev_keeps | with_reducible apply next_keeps
      | with_reducible apply outKeeps_next | exact fun _ h => h | with_reducible apply keeps_ite | with_reducible apply outKeeps_ite
      | (intro _; intros) | (refine keeps_snd (by assumption) ?_)
      | (fail_if_no_progress refine Keeps.upd id id id id id id id id id id id id id id id id ?_))

theorem execHeadlandRelease_keeps (s : State) {b0 : Base} (hs : Keeps b0 s) : OutKeeps b0 (execHeadlandRelease s) := by
  unfold execHeadlandRelease
  repeat' (first
      | with_reducible assumption | with_reducible apply setState_keeps | with_reducible apply modClk_keeps
      | with_reducible apply modDev_keeps | with_reducible apply modHl_keeps | with_reducible apply outKeeps_next
      | exact fun _ => ⟨rfl, rfl, rfl⟩ | exact fun _ h => h | with_reducible apply outKeeps_ite | decide)

theorem execOptionLoad_keeps (s : State) {b0 : Base} (hs : Keeps b0 s) : OutKeeps b0 (execOptionLoad s) := by
  unfold execOptionLoad
  repeat' (first
      | with_reducible assumption | with_reducible apply optionLoad_keeps | with_reducible apply modDev_keeps
      | with_reducible apply outKeeps_next | exact fun _ h => h | with_reducible apply outKeeps_ite)

theorem execCpBootStart_keeps (s : State) {b0 : Base} (hs : Keeps b0 s) : OutKeeps b0 (execCpBootStart s) := by
  unfold execCpBootStart
  repeat' (first
      | with_reducible assumption | with_reducible apply setState_keeps | with_reducible apply modClk_keeps
      | with_reducible apply modDev_keeps | with_reducible apply modCp_keeps | with_reducible apply outKeeps_next | exact fun _ => rfl
      | exact fun _ h => h | with_reducible apply outKeeps_ite
      | (fail_if_no_progress refine Keeps.upd id id id id id id id id id id id id id id id id ?_) | decide)

theorem bootEvent_keeps (ok halt : Nat) (s : State) {b0 : Base} (hs : Keeps b0 s) : Keeps b0 (bootEvent ok halt s) := by
  unfold bootEvent
  repeat' (first | with_reducible assumption | with_reducible apply fire_keeps | with_reducible apply keeps_ite)

theorem execFirmwareAuthenticated_keeps (img0 img1 : Option (List (BitVec 8))) (s : State) {b0 : Base} (hs : Keeps b0 s) : OutKeeps b0 (execFirmwareAuthenticated img0 img1 s) := by
  unfold execFirmwareAuthenticated
  repeat' (first
      | with_reducible assumption | with_reducible apply startImage_keeps | with_reducible apply bootEvent_keeps
      | with_reducible apply modDev_keeps | with_reducible apply outKeeps_next | exact fun _ h => h | with_reducible apply keeps_ite
      | with_reducible apply outKeeps_ite)

theorem releaseFurrow_keeps (f : Nat) (rail locked : Bool) (s0 : State) {b0 : Base} (hs0 : Keeps b0 s0) : Keeps b0 (releaseFurrow f rail locked s0) := by
  unfold releaseFurrow
  repeat' (first
      | with_reducible assumption | with_reducible apply setFurState_keeps | with_reducible apply raiseAlarm_keeps
      | with_reducible apply modSlices_keeps | with_reducible apply modHalf_keeps | with_reducible apply setLock_keeps
      | with_reducible apply setCore_keeps | with_reducible apply modFur_keeps | with_reducible apply modHl_keeps
      | with_reducible apply fire_keeps | with_reducible apply keeps_ite | (intro x; dsimp only; split <;> exact ⟨rfl, rfl, rfl⟩) | split
      | (fail_if_no_progress refine Keeps.upd id id id id id id id id id id id id id id id id ?_) | decide)

theorem releaseFurrows_keeps (aRail aLocked bRail bLocked : Bool) (s : State) {b0 : Base} (hs : Keeps b0 s) : Keeps b0 (releaseFurrows aRail aLocked bRail bLocked s) := by
  unfold releaseFurrows
  extract_lets row s1 s2 a b lead s3 s4 s5
  have h1 : Keeps b0 s1 := modHl_keeps _ _ hs (fun _ => ⟨rfl, rfl, rfl⟩)
  clear_value s1
  have h2 : Keeps b0 s2 := releaseFurrow_keeps _ _ _ _ (releaseFurrow_keeps _ _ _ _ h1)
  have hl : lead ≤ 1 := by unfold lead; split <;> decide
  clear_value s2 lead
  have h3 : Keeps b0 s3 := h2.hl h2.wf_stateA h2.wf_stateB hl
  clear_value s3
  have h4 : Keeps b0 s4 := keeps_ite h3 (trail_keeps _ _ _ _ _ _ _ h3)
  clear_value s4
  have h5 : Keeps b0 s5 := keeps_ite h4 (trail_keeps _ _ _ _ _ _ _ h4)
  clear_value s5
  exact modDev_keeps _ _ h5 (fun _ h => h)

theorem execFurrowDomainRelease_keeps (aRail aLocked bRail bLocked : Bool) (s : State) {b0 : Base} (hs : Keeps b0 s) : OutKeeps b0 (execFurrowDomainRelease aRail aLocked bRail bLocked s) := by
  unfold execFurrowDomainRelease
  repeat' (first
      | with_reducible assumption | with_reducible apply releaseFurrows_keeps | with_reducible apply outKeeps_next
      | with_reducible apply keeps_ite)

theorem loadEvent_keeps (s : State) {b0 : Base} (hs : Keeps b0 s) : Keeps b0 (loadEvent s) := by
  unfold loadEvent
  repeat' (first | with_reducible assumption | with_reducible apply fire_keeps)

theorem resetEvent_keeps (s : State) {b0 : Base} (hs : Keeps b0 s) : Keeps b0 (resetEvent s) := by
  unfold resetEvent
  repeat' (first | with_reducible assumption | with_reducible apply fire_keeps)

theorem finishRelease_keeps (s0 : State) {b0 : Base} (hs0 : Keeps b0 s0) : Keeps b0 (finishRelease s0) := by
  unfold finishRelease
  repeat' (first
      | with_reducible assumption | with_reducible apply setFailedLoads_keeps | with_reducible apply setSafeField_keeps
      | with_reducible apply resetEvent_keeps | with_reducible apply loadEvent_keeps | with_reducible apply setState_keeps
      | with_reducible apply modDev_keeps | with_reducible apply modCp_keeps | exact fun _ => rfl | exact fun _ h => h
      | with_reducible apply keeps_ite | decide)

theorem restoreDescs_keeps (s : State) {b0 : Base} (hs : Keeps b0 s) : Keeps b0 (restoreDescs s) := by
  unfold restoreDescs
  repeat' (first
      | with_reducible assumption | with_reducible apply dramSet_keeps | with_reducible apply keeps_foldl | with_reducible apply keeps_ite
      | (intro _; intros))

theorem execPortDomainRelease_keeps (s : State) {b0 : Base} (hs : Keeps b0 s) : OutKeeps b0 (execPortDomainRelease s) := by
  unfold execPortDomainRelease
  repeat' (first
      | with_reducible assumption | with_reducible apply applyPortOptions_keeps | with_reducible apply finishRelease_keeps
      | with_reducible apply startTraining_keeps | with_reducible apply restoreDescs_keeps | with_reducible apply modSlices_keeps
      | with_reducible apply modDev_keeps | with_reducible apply outKeeps_next | exact fun _ h => h | with_reducible apply keeps_ite
      | with_reducible apply outKeeps_ite)

theorem execReleasePllTimeout_keeps (s : State) {b0 : Base} (hs : Keeps b0 s) : OutKeeps b0 (execReleasePllTimeout s) := by
  unfold execReleasePllTimeout
  repeat' (first
      | with_reducible assumption | with_reducible apply releaseFurrows_keeps | with_reducible apply advance_keeps
      | with_reducible apply modDev_keeps | with_reducible apply outKeeps_next | exact fun _ h => h | with_reducible apply keeps_ite)

end Sys2Proof.Machine
end

