-- ==== Sys2Proof/Laws/KeepPower.lean ====
section
/-! SUPPORT. What the operations of Machine/Power.lean keep. -/

namespace Sys2Proof.Machine

theorem mirrorEdge_keeps (s0 : State) {b0 : Base} (hs0 : Keeps b0 s0) : Keeps b0 (mirrorEdge s0) := by
  unfold mirrorEdge
  try dsimp only
  repeat' (first
      | with_reducible assumption | with_reducible apply reachEdge_keeps
      | (fail_if_no_progress refine Keeps.upd id id id id id id id id id id id id id id id id ?_))

theorem safeStop_keeps (s : State) {b0 : Base} (hs : Keeps b0 s) : Keeps b0 (safeStop s) := by
  unfold safeStop
  try dsimp only
  repeat' (first
      | with_reducible assumption | with_reducible apply setSafeField_keeps | with_reducible apply mirrorState_keeps
      | with_reducible apply modSlices_keeps | with_reducible apply setState_keeps | with_reducible apply modDev_keeps
      | with_reducible apply modFur_keeps | with_reducible apply modClk_keeps | with_reducible apply modCp_keeps
      | with_reducible apply mirrorEdge_keeps | exact fun _ => rfl | exact fun _ h => h | (intro h; (try dsimp only); exact canon_tmap _ h)
      | (intro _; intros) | (refine keeps_snd (by assumption) ?_) | (fail_if_no_progress with_reducible apply Keeps.upd) | decide)

theorem execXtalFalStop_keeps (s : State) {b0 : Base} (hs : Keeps b0 s) : OutKeeps b0 (execXtalFalStop s) := by
  unfold execXtalFalStop
  try dsimp only
  repeat' (first
      | with_reducible assumption | with_reducible apply safeStop_keeps | with_reducible apply modClk_keeps | with_reducible apply modHl_keeps
      | with_reducible apply next_keeps | with_reducible apply outKeeps_next | exact fun _ => ⟨rfl, rfl, rfl⟩ | with_reducible apply outKeeps_ite
      | with_reducible apply keeps_ite | (intro _; intros)
      | (fail_if_no_progress refine Keeps.upd id id id id id id id id id id id id id id id id ?_))

theorem execPllShLockLoss_keeps (s : State) {b0 : Base} (hs : Keeps b0 s) : OutKeeps b0 (execPllShLockLoss s) := by
  unfold execPllShLockLoss
  repeat' (first
      | with_reducible assumption | with_reducible apply safeStop_keeps | with_reducible apply modClk_keeps
      | with_reducible apply outKeeps_next | with_reducible apply keeps_ite)

theorem execFurrowPllLockLoss_keeps (f : Furrow) (s : State) {b0 : Base} (hs : Keeps b0 s) : OutKeeps b0 (execFurrowPllLockLoss f s) := by
  unfold execFurrowPllLockLoss
  repeat' (first
      | with_reducible assumption | with_reducible apply raiseAlarm_keeps | with_reducible apply setLock_keeps
      | with_reducible apply outKeeps_next | with_reducible apply keeps_ite)

theorem execHeadlandPllLoss_keeps (s : State) {b0 : Base} (hs : Keeps b0 s) : OutKeeps b0 (execHeadlandPllLoss s) := by
  unfold execHeadlandPllLoss
  repeat' (first
      | with_reducible assumption | with_reducible apply modClk_keeps | with_reducible apply modHl_keeps | with_reducible apply fire_keeps
      | with_reducible apply outKeeps_next | exact fun _ => ⟨rfl, rfl, rfl⟩ | with_reducible apply keeps_ite)

theorem execRailMonitor_keeps (f : Furrow) (s : State) {b0 : Base} (hs : Keeps b0 s) : OutKeeps b0 (execRailMonitor f s) := by
  unfold execRailMonitor
  repeat' (first
      | with_reducible assumption | with_reducible apply raiseAlarm_keeps | with_reducible apply fire_keeps
      | with_reducible apply outKeeps_next | with_reducible apply outKeeps_ite | split
      | (fail_if_no_progress refine Keeps.upd id id id id id id id id id id id id id id id id ?_))

theorem execSupplyOverRange_keeps (rail : Nat) (s : State) {b0 : Base} (hs : Keeps b0 s) : OutKeeps b0 (execSupplyOverRange rail s) := by
  unfold execSupplyOverRange
  repeat' (first
      | with_reducible assumption | with_reducible apply fireLim_keeps | with_reducible apply fire_keeps | with_reducible apply outKeeps_next
      | with_reducible apply keeps_ite | (intro _; intros))

theorem execVbakLow_keeps (s : State) {b0 : Base} (hs : Keeps b0 s) : OutKeeps b0 (execVbakLow s) := by
  unfold execVbakLow
  repeat' (first
      | with_reducible assumption | with_reducible apply fireLim_keeps | with_reducible apply fire_keeps | with_reducible apply outKeeps_next
      | with_reducible apply keeps_ite | (intro _; intros))

theorem furrowRailLoss_keeps (n : Nat) (s : State) {b0 : Base} (hs : Keeps b0 s) : Keeps b0 (furrowRailLoss n s) :=
  keeps_ite hs (flushOver_keeps _ _ (clocksOff_keeps _ _
    (Keeps.upd id id id id id id id id id id id id id id id id (modFur_keeps _ _ _ (railFell_keeps _ _ hs)))))

theorem execFurrowRailLoss_keeps (f : Furrow) (s : State) {b0 : Base} (hs : Keeps b0 s) : OutKeeps b0 (execFurrowRailLoss f s) := by
  unfold execFurrowRailLoss
  repeat' (first | with_reducible assumption | with_reducible apply furrowRailLoss_keeps | with_reducible apply outKeeps_next)

theorem modTherm_keeps (g : Thermal → Thermal) (s : State) {b0 : Base} (hs : Keeps b0 s) : Keeps b0 (modTherm g s) := by
  unfold modTherm
  repeat' (first
      | with_reducible assumption | (fail_if_no_progress refine Keeps.upd id id id id id id id id id id id id id id id id ?_))

theorem thermPoint_keeps (src hi lo i : Nat) (v : Int) (on : Bool) (set : Bool → State → State) (s : State) {b0 : Base} (hset : ∀ (t0 : Bool) (t1 : State), Keeps b0 t1 → Keeps b0 (set t0 t1)) (hs : Keeps b0 s) : Keeps b0 (thermPoint src hi lo i v on set s) := by
  unfold thermPoint
  repeat' (first
      | with_reducible assumption | with_reducible apply fire_keeps | with_reducible apply hset | with_reducible apply keeps_ite)

theorem thermSensor_keeps (i : Nat) (v : Int) (s : State) {b0 : Base} (hs : Keeps b0 s) : Keeps b0 (thermSensor i v s) := by
  unfold thermSensor
  repeat' (first
      | with_reducible assumption | with_reducible apply thermPoint_keeps | with_reducible apply modTherm_keeps | (intro _; intros))

theorem thermalUpdate_keeps (temps : List Int) (mv : List Nat) (s0 : State) {b0 : Base} (hs0 : Keeps b0 s0) : Keeps b0 (thermalUpdate temps mv s0) := by
  unfold thermalUpdate
  repeat' (first
      | with_reducible assumption | with_reducible apply thermSensor_keeps | with_reducible apply reachEdge_keeps
      | with_reducible apply modTherm_keeps | with_reducible apply keeps_foldl | (intro _; intros)
      | (fail_if_no_progress refine Keeps.upd id id id id id id id id id id id id id id id id ?_))

theorem execThermalSensorUpdate_keeps (temps : List Int) (rails : List Nat) (s : State) {b0 : Base} (hs : Keeps b0 s) : OutKeeps b0 (execThermalSensorUpdate temps rails s) := by
  unfold execThermalSensorUpdate
  repeat' (first | with_reducible assumption | with_reducible apply thermalUpdate_keeps | with_reducible apply outKeeps_next)

theorem bodyThermalStatus_keeps (w0 : Packet) (s : State) {b0 : Base} (hs : Keeps b0 s) : ResKeeps b0 (bodyThermalStatus w0 s) := by
  unfold bodyThermalStatus
  repeat' (first | with_reducible assumption | with_reducible apply resKeeps_ok)

theorem execThermalStatus_keeps (p : Packet) (s : State) {b0 : Base} (hs : Keeps b0 s) : OutKeeps b0 (execThermalStatus p s) := 
  serveCmd_keeps _ _ _ _ (specKeeps_none rfl) (fun p t h => bodyThermalStatus_keeps p t h) hs

theorem modPcie_keeps (g : Pcie → Pcie) (s : State) {b0 : Base} (hs : Keeps b0 s) : Keeps b0 (modPcie g s) := by
  unfold modPcie
  repeat' (first
      | with_reducible assumption | (fail_if_no_progress refine Keeps.upd id id id id id id id id id id id id id id id id ?_))

theorem execPcieLinkUp_keeps (enable : Bool) (mask : Bool) (s : State) {b0 : Base} (hs : Keeps b0 s) : OutKeeps b0 (execPcieLinkUp enable mask s) := by
  unfold execPcieLinkUp
  try dsimp only
  repeat' (first
      | with_reducible assumption | with_reducible apply modPcie_keeps | with_reducible apply fire_keeps | with_reducible apply next_keeps
      | with_reducible apply signalPending_keeps | with_reducible apply outKeeps_next | with_reducible apply keeps_ite
      | with_reducible apply outKeeps_ite | (intro _; intros)
      | (fail_if_no_progress refine Keeps.upd id id id id id id id id id id id id id id id id ?_))

theorem pcieLost_keeps (s : State) {b0 : Base} (hs : Keeps b0 s) : Keeps b0 (pcieLost s) := by
  unfold pcieLost
  repeat' (first
      | with_reducible assumption | with_reducible apply shadowSuspend_keeps | with_reducible apply closeSession_keeps
      | with_reducible apply modPcie_keeps | with_reducible apply fire_keeps | with_reducible apply keeps_foldl | (intro _; intros) | split)

theorem execPcieLinkDown_keeps (s : State) {b0 : Base} (hs : Keeps b0 s) : OutKeeps b0 (execPcieLinkDown s) := by
  unfold execPcieLinkDown
  repeat' (first
      | with_reducible assumption | with_reducible apply pcieLost_keeps | with_reducible apply fire_keeps | with_reducible apply outKeeps_next
      | with_reducible apply keeps_ite)

theorem execPciePerst_keeps (s : State) {b0 : Base} (hs : Keeps b0 s) : OutKeeps b0 (execPciePerst s) := by
  unfold execPciePerst
  repeat' (first
      | with_reducible assumption | with_reducible apply pcieLost_keeps | with_reducible apply modPcie_keeps | with_reducible apply fire_keeps
      | with_reducible apply outKeeps_next | with_reducible apply keeps_ite | split
      | (fail_if_no_progress refine Keeps.upd id id id id id id id id id id id id id id id id ?_))

theorem execSliceFallowExpiry_keeps (clock : Nat) (s0 : State) {b0 : Base} (hs0 : Keeps b0 s0) : OutKeeps b0 (execSliceFallowExpiry clock s0) := by
  unfold execSliceFallowExpiry
  try dsimp only
  repeat' (first
      | with_reducible assumption | with_reducible apply reachEdge_keeps | with_reducible apply modSlices_keeps
      | with_reducible apply coreIdle_keeps | with_reducible apply next_keeps | with_reducible apply outKeeps_next
      | with_reducible apply keeps_ite | with_reducible apply outKeeps_ite | split | (intro _; intros)
      | (fail_if_no_progress refine Keeps.upd id id id id id id id id id id id id id id id id ?_))

theorem execBedWake_keeps (bed_ : Nat) (s : State) {b0 : Base} (hs : Keeps b0 s) : OutKeeps b0 (execBedWake bed_ s) := by
  unfold execBedWake
  repeat' (first
      | with_reducible assumption | with_reducible apply setBedClock_keeps | with_reducible apply startCore_keeps
      | with_reducible apply next_keeps | with_reducible apply outKeeps_next | with_reducible apply outKeeps_ite | with_reducible apply keeps_ite)

theorem execBedFallowStop_keeps (bed_ : Nat) (s : State) {b0 : Base} (hs : Keeps b0 s) : OutKeeps b0 (execBedFallowStop bed_ s) := by
  unfold execBedFallowStop
  try dsimp only
  repeat' (first
      | with_reducible assumption | with_reducible apply setBedClock_keeps | with_reducible apply coreIdle_keeps | with_reducible apply next_keeps
      | with_reducible apply outKeeps_next | with_reducible apply outKeeps_ite | with_reducible apply keeps_ite)

theorem execFurrowCoreWakeForTimer_keeps (f : Furrow) (s : State) {b0 : Base} (hs : Keeps b0 s) : OutKeeps b0 (execFurrowCoreWakeForTimer f s) := by
  unfold execFurrowCoreWakeForTimer
  try dsimp only
  repeat' (first
      | with_reducible assumption | with_reducible apply startCore_keeps | with_reducible apply reachNs_keeps | with_reducible apply next_keeps
      | with_reducible apply outKeeps_next | with_reducible apply outKeeps_ite | split | with_reducible apply keeps_ite)

theorem execFallowMirrorRefresh_keeps (s0 : State) {b0 : Base} (hs0 : Keeps b0 s0) : OutKeeps b0 (execFallowMirrorRefresh s0) := by
  unfold execFallowMirrorRefresh
  repeat' (first
      | with_reducible assumption | with_reducible apply reachEdge_keeps | with_reducible apply next_keeps | with_reducible apply mirrorEdge_keeps
      | with_reducible apply outKeeps_next | with_reducible apply outKeeps_ite | with_reducible apply keeps_ite
      | (fail_if_no_progress refine Keeps.upd id id id id id id id id id id id id id id id id ?_))

end Sys2Proof.Machine
end

