-- ==== Sys2Proof/Laws/KeepScrub.lean ====
section
/-! SUPPORT. What the operations of Machine/Scrub.lean keep. -/

namespace Sys2Proof.Machine

theorem granaryFault_keeps (h : Nat) (loc : Nat) (s : State) {b0 : Base} (hs : Keeps b0 s) : Keeps b0 (granaryFault h loc s) := by
  unfold granaryFault
  try dsimp only
  repeat' (first
      | with_reducible assumption | with_reducible apply poisonCopy_keeps | with_reducible apply listFail_keeps
      | with_reducible apply memUnc_keeps | with_reducible apply keeps_ite | split)

theorem linkFault_keeps (u : Nat) (h : Nat) (s0 : State) {b0 : Base} (hs0 : Keeps b0 s0) : Keeps b0 (linkFault u h s0) := by
  unfold linkFault
  try dsimp only
  repeat' (first
      | with_reducible assumption | with_reducible apply poisonCopy_keeps | with_reducible apply modHalf_keeps | with_reducible apply memUnc_keeps
      | with_reducible apply fire_keeps)

theorem cpFault_keeps (s0 : State) {b0 : Base} (hs0 : Keeps b0 s0) : Keeps b0 (cpFault s0) := by
  unfold cpFault
  repeat' (first
      | with_reducible assumption | with_reducible apply setBootField_keeps | with_reducible apply servosStop_keeps
      | with_reducible apply bootEvent_keeps | with_reducible apply memUnc_keeps | with_reducible apply modCp_keeps | exact fun _ => rfl
      | with_reducible apply keeps_ite)

theorem winnowFault_keeps (copy : Nat) (p : Nat) (inp : Nat) (more : Bool) (s0 : State) {b0 : Base} (hs0 : Keeps b0 s0) : Keeps b0 (winnowFault copy p inp more s0) := by
  unfold winnowFault
  try dsimp only
  repeat' (first
      | with_reducible assumption | with_reducible apply setTwin_keeps | with_reducible apply memUnc_keeps | with_reducible apply wctr_keeps
      | with_reducible apply fire_keeps | with_reducible apply clearTwin_keeps | with_reducible apply keeps_ite)

theorem sharedFault_keeps (kind : Nat) (loc : Nat) (s : State) {b0 : Base} (hs : Keeps b0 s) : Keeps b0 (sharedFault kind loc s) := by
  unfold sharedFault
  try dsimp only
  repeat' (first
      | with_reducible assumption | with_reducible apply memUnc_keeps | with_reducible apply meterFault_keeps
      | with_reducible apply classShaperFault_keeps | with_reducible apply streamShaperFault_keeps | with_reducible apply gateListFault_keeps
      | with_reducible apply fire_keeps | with_reducible apply modWin_keeps | with_reducible apply modRed_keeps | with_reducible apply wctr_keeps
      | with_reducible apply modFrer_keeps | with_reducible apply takeFree_keeps | with_reducible apply winUncorrectable_keeps
      | with_reducible apply frerFault_keeps | with_reducible apply genFault_keeps | with_reducible apply keeps_ite | (intro _; intros) | split
      | (fail_if_no_progress refine Keeps.upd id id id id id id id id id id id id id id id id ?_))

theorem tableFault_keeps (f : Nat) (kind : Nat) (loc : Nat) (s0 : State) {b0 : Base} (hs0 : Keeps b0 s0) : Keeps b0 (tableFault f kind loc s0) := by
  unfold tableFault
  try dsimp only
  repeat' (first
      | with_reducible assumption | with_reducible apply harrowUpset_keeps | with_reducible apply tabUpsetIn_keeps
      | with_reducible apply modTab_keeps | with_reducible apply loseRule_keeps | with_reducible apply losePattern_keeps
      | with_reducible apply ovfWatch_keeps | with_reducible apply keeps_ite | (intro _; intros) | split
      | (fail_if_no_progress refine Keeps.upd id id id id id id id id id id id id id id id id ?_))

theorem laneFault_keeps (f : Nat) (loc : Nat) (s : State) {b0 : Base} (hs : Keeps b0 s) : Keeps b0 (laneFault f loc s) := by
  unfold laneFault
  try dsimp only
  repeat' (first
      | with_reducible assumption | with_reducible apply closeEntry_keeps | with_reducible apply freeSpill_keeps
      | with_reducible apply tryReturn_keeps | with_reducible apply setLane_keeps | with_reducible apply modCopy_keeps
      | with_reducible apply modEg_keeps | with_reducible apply xctr_keeps | with_reducible apply endEg_keeps
      | with_reducible apply spillGone_keeps | with_reducible apply keeps_ite | split | (intro _; intros)
      | (fail_if_no_progress refine Keeps.upd id id id id id id id id id id id id id id id id ?_))

theorem uncorrectable_keeps (mem loc kind : Nat) (s : State) {b0 : Base} (hs : Keeps b0 s) : Keeps b0 (uncorrectable mem loc kind s) := by
  unfold uncorrectable
  repeat' (first
      | with_reducible assumption | with_reducible apply replaceSheaf_keeps | with_reducible apply granaryFault_keeps
      | with_reducible apply sharedFault_keeps | with_reducible apply winnowFault_keeps | with_reducible apply tableFault_keeps
      | with_reducible apply queueFault_keeps | with_reducible apply raiseAlarm_keeps | with_reducible apply linkFault_keeps
      | with_reducible apply laneFault_keeps | with_reducible apply bedFault_keeps | with_reducible apply hotFault_keeps
      | with_reducible apply fireFur_keeps | with_reducible apply cpFault_keeps | with_reducible apply memUnc_keeps
      | with_reducible apply modFur_keeps | with_reducible apply fire_keeps | with_reducible apply keeps_ite)

theorem garbleCell_keeps (h : Nat) (loc : Nat) (v : Nat) (s : State) {b0 : Base} (hs : Keeps b0 s) : Keeps b0 (garbleCell h loc v s) := by
  unfold garbleCell
  try dsimp only
  repeat' (first
      | with_reducible assumption | with_reducible apply modFrame_keeps | (intro _; intros) | split
      | (fail_if_no_progress refine Keeps.upd id id id id id id id id id id id id id id id id ?_))

theorem garbleBank_keeps (f : Nat) (kind : Nat) (loc : Nat) (v : Nat) (s : State) {b0 : Base} (hs : Keeps b0 s) : Keeps b0 (garbleBank f kind loc v s) := by
  unfold garbleBank
  try dsimp only
  repeat' (first
      | with_reducible assumption | with_reducible apply modFur_keeps | with_reducible apply keeps_ite | (intro _; intros)
      | (fail_if_no_progress refine Keeps.upd id id id id id id id id id id id id id id id id ?_))

theorem garbleLink_keeps (u : Nat) (h : Nat) (v : Nat) (s : State) {b0 : Base} (hs : Keeps b0 s) : Keeps b0 (garbleLink u h v s) := by
  unfold garbleLink
  try dsimp only
  repeat' (first
      | with_reducible assumption | with_reducible apply modCopy_keeps | (intro _; intros) | split
      | (fail_if_no_progress refine Keeps.upd id id id id id id id id id id id id id id id id ?_))

theorem garbleLane_keeps (f : Nat) (loc : Nat) (v : Nat) (s : State) {b0 : Base} (hs : Keeps b0 s) : Keeps b0 (garbleLane f loc v s) := by
  unfold garbleLane
  try dsimp only
  repeat' (first
      | with_reducible assumption | with_reducible apply setLane_keeps | with_reducible apply keeps_ite | (intro _; intros)
      | (fail_if_no_progress refine Keeps.upd id id id id id id id id id id id id id id id id ?_))

theorem garbleShared_keeps (kind : Nat) (loc : Nat) (v : Nat) (s : State) {b0 : Base} (hs : Keeps b0 s) : Keeps b0 (garbleShared kind loc v s) := by
  unfold garbleShared
  split
  · exact keeps_ite (modMeter_keeps _ _ _ hs) hs
  · exact modDrill_keeps _ _ _ hs
  · split
    · exact hs.shapers (rising_tput _ _ hs.wf_shapers)
    · exact hs
  · exact modDrill_keeps _ _ _ hs
  · exact modWin_keeps _ _ _ hs
  · exact modRed_keeps _ _ hs
  · exact modFrer_keeps _ _ _ hs
  · exact modRed_keeps _ _ hs
  · exact hs

theorem garble_keeps (mem : Nat) (loc : Nat) (kind : Nat) (s0 : State) {b0 : Base} (hs0 : Keeps b0 s0) : Keeps b0 (garble mem loc kind s0) := by
  unfold garble
  try dsimp only
  repeat' (first
      | with_reducible assumption | with_reducible apply takeFree_keeps | with_reducible apply modFur_keeps | with_reducible apply modTab_keeps
      | with_reducible apply modMeter_keeps | with_reducible apply garbleCell_keeps | with_reducible apply modQueue_keeps
      | with_reducible apply modBed_keeps | with_reducible apply garbleShared_keeps | with_reducible apply garbleLink_keeps
      | with_reducible apply garbleBank_keeps | with_reducible apply garbleLane_keeps | with_reducible apply keeps_ite | (intro _; intros) | split
      | (refine keeps_snd (by assumption) ?_) | (fail_if_no_progress refine Keeps.upd id id id id id id id id id id id id id id id id ?_))

theorem execScrubRead_keeps (mem loc kind errors : Nat) (s0 : State) {b0 : Base} (hs0 : Keeps b0 s0) : OutKeeps b0 (execScrubRead mem loc kind errors s0) := by
  unfold execScrubRead
  try dsimp only
  repeat' (first
      | with_reducible assumption | with_reducible apply idle_keeps | with_reducible apply next_keeps | with_reducible apply memCorr_keeps
      | with_reducible apply takeFree_keeps | with_reducible apply garble_keeps | with_reducible apply uncorrectable_keeps
      | with_reducible apply outKeeps_next | with_reducible apply outKeeps_ite | split)

end Sys2Proof.Machine
end

