-- ==== Sys2Proof/Laws/KeepControl.lean ====
section
/-! SUPPORT. What the operations of Machine/Control.lean keep. -/

namespace Sys2Proof.Machine

theorem discardFrame_keeps (u : Nat) (s : State) {b0 : Base} (hs : Keeps b0 s) : Keeps b0 (discardFrame u s) := by
  unfold discardFrame
  try dsimp only
  repeat' (first
      | with_reducible assumption | with_reducible apply discardEg_keeps | with_reducible apply unqueue_keeps
      | with_reducible apply dropSpilled_keeps | with_reducible apply reap_keeps | with_reducible apply dropLate_keeps
      | with_reducible apply keeps_foldl | with_reducible apply keeps_foldl_snd | with_reducible apply keeps_ite | (intro _; intros) | split)

theorem discardResident_keeps (s0 : State) {b0 : Base} (hs0 : Keeps b0 s0) : Keeps b0 (discardResident s0) := by
  unfold discardResident
  try dsimp only
  repeat' (first
      | with_reducible assumption | with_reducible apply discardFrame_keeps | with_reducible apply holdAll_keeps
      | with_reducible apply macCtr_keeps | with_reducible apply keeps_foldl | (intro h; (try dsimp only); exact canon_tmap _ h)
      | (intro _; intros) | with_reducible apply keeps_foldl_snd | (fail_if_no_progress with_reducible apply Keeps.upd))

theorem enterConfig_keeps (s : State) {b0 : Base} (hs : Keeps b0 s) : Keeps b0 (enterConfig s) := by
  unfold enterConfig
  repeat' (first
      | with_reducible assumption | with_reducible apply setFailedLoads_keeps | with_reducible apply setState_keeps
      | with_reducible apply modDev_keeps | exact fun _ h => h | decide)

theorem toConfig_keeps (t : Ticket) (prev : Nat) (s : State) {b0 : Base} (hs : Keeps b0 s) : Keeps b0 (toConfig t prev s) := by
  unfold toConfig
  try dsimp only
  repeat' (first
      | with_reducible assumption | with_reducible apply modDev_keeps | with_reducible apply enterConfig_keeps
      | with_reducible apply discardResident_keeps | with_reducible apply startTraining_keeps | with_reducible apply keeps_ite
      | (intro _; intros) | split | (fail_if_no_progress refine Keeps.upd id id id id id id id id id id id id id id id id ?_))

theorem finishRetrain_keeps (s : State) {b0 : Base} (hs : Keeps b0 s) : Keeps b0 (finishRetrain s) := by
  unfold finishRetrain
  repeat' (first
      | with_reducible assumption | with_reducible apply complete_keeps | with_reducible apply modDev_keeps | exact fun _ h => h
      | with_reducible apply keeps_ite | split)

theorem bodySetState_keeps (p : Packet) (s : State) {b0 : Base} (hs : Keeps b0 s) : ResKeeps b0 (bodySetState p s) := by
  unfold bodySetState
  repeat' (first
      | with_reducible assumption | with_reducible apply setSafeField_keeps | with_reducible apply startDue_keeps
      | with_reducible apply toConfig_keeps | with_reducible apply setState_keeps | with_reducible apply checked_keeps
      | with_reducible apply eachTab_keeps | with_reducible apply holdAll_keeps | with_reducible apply modDev_keeps
      | with_reducible apply keeps_foldl | with_reducible apply resKeeps_ok | with_reducible apply resKeeps_accepted | exact trivial
      | exact fun _ h => h | with_reducible apply resKeeps_ite | (intro _; intros) | split | decide)

theorem serveSetState_keeps (p : Packet) (s : State) {b0 : Base} (hs : Keeps b0 s) : Keeps b0 (serveSetState p s) := by
  unfold serveSetState
  repeat' (first
      | with_reducible assumption | with_reducible apply unlessRetrain_keeps | with_reducible apply finishRetrain_keeps
      | with_reducible apply bodySetState_keeps | with_reducible apply serve_keeps | exact specKeeps_none rfl | with_reducible apply keeps_ite
      | (intro _; intros))

theorem execSetState_keeps (p : Packet) (s : State) {b0 : Base} (hs : Keeps b0 s) : OutKeeps b0 (execSetState p s) := by
  unfold execSetState
  repeat' (first | with_reducible assumption | with_reducible apply serveSetState_keeps | with_reducible apply outKeeps_next)

theorem execDramTrainingDone_keeps (ok0 : Bool) (ok1 : Bool) (margin0 : Nat) (margin1 : Nat) (s : State) {b0 : Base} (hs : Keeps b0 s) : OutKeeps b0 (execDramTrainingDone ok0 ok1 margin0 margin1 s) := by
  unfold execDramTrainingDone
  try dsimp only
  repeat' (first
      | with_reducible assumption | with_reducible apply finishRetrain_keeps | with_reducible apply finishRelease_keeps
      | with_reducible apply trainingDone_keeps | with_reducible apply next_keeps | with_reducible apply outKeeps_next
      | with_reducible apply keeps_ite | with_reducible apply outKeeps_ite | split)

theorem bodyConfigDigest_keeps (w0 : Packet) (s : State) {b0 : Base} (hs : Keeps b0 s) : ResKeeps b0 (bodyConfigDigest w0 s) := by
  unfold bodyConfigDigest
  repeat' (first | with_reducible assumption | with_reducible apply resKeeps_ok)

theorem execConfigDigest_keeps (p : Packet) (s : State) {b0 : Base} (hs : Keeps b0 s) : OutKeeps b0 (execConfigDigest p s) := 
  serveCmd_keeps _ _ _ _ (specKeeps_none rfl) (fun p t h => bodyConfigDigest_keeps p t h) hs

theorem startReload_keeps (s : State) {b0 : Base} (hs : Keeps b0 s) : Keeps b0 (startReload s) := by
  unfold startReload
  try dsimp only
  repeat' (first
      | with_reducible assumption | with_reducible apply closeSession_keeps | with_reducible apply ptpRestart_keeps
      | with_reducible apply servosStop_keeps | with_reducible apply hdrCount_keeps | with_reducible apply modCp_keeps
      | with_reducible apply keeps_foldl | exact fun _ => rfl | (intro _; intros) | with_reducible apply keeps_foldl_snd
      | (fail_if_no_progress refine Keeps.upd id id id id id id id id id id id id id id id id ?_))

theorem bodyCpReload_keeps (w0 : Packet) (s : State) {b0 : Base} (hs : Keeps b0 s) : ResKeeps b0 (bodyCpReload w0 s) := by
  unfold bodyCpReload
  try dsimp only
  repeat' (first
      | with_reducible assumption | with_reducible apply modCp_keeps | with_reducible apply resKeeps_ok | exact trivial | exact fun _ => rfl
      | with_reducible apply resKeeps_ite | with_reducible apply keeps_ite | with_reducible apply resKeeps_final
      | with_reducible apply resKeeps_accepted | (fail_if_no_progress unfold checked) | trivial | (intro _; intros) | split
      | (fail_if_no_progress refine Keeps.upd id id id id id id id id id id id id id id id id ?_))

theorem reloadWhenDue_keeps (s : State) {b0 : Base} (hs : Keeps b0 s) : Keeps b0 (reloadWhenDue s) := by
  unfold reloadWhenDue
  repeat' (first | with_reducible assumption | with_reducible apply startReload_keeps | with_reducible apply keeps_ite)

theorem serveReload_keeps (p : Packet) (s : State) {b0 : Base} (hs : Keeps b0 s) : Keeps b0 (serveReload p s) := by
  unfold serveReload
  try dsimp only
  repeat' (first
      | with_reducible assumption | with_reducible apply touchSession_keeps | with_reducible apply bodyCpReload_keeps
      | with_reducible apply startReload_keeps | with_reducible apply respond_keeps | with_reducible apply serve_keeps
      | with_reducible apply reloadWhenDue_keeps | with_reducible apply modCp_keeps | exact specKeeps_none rfl | exact fun _ => rfl | with_reducible apply keeps_ite
      | (intro _; intros) | split | (fail_if_no_progress refine Keeps.upd id id id id id id id id id id id id id id id id ?_))

theorem execCpReload_keeps (p : Packet) (s : State) {b0 : Base} (hs : Keeps b0 s) : OutKeeps b0 (execCpReload p s) := by
  unfold execCpReload
  repeat' (first | with_reducible assumption | with_reducible apply serveReload_keeps | with_reducible apply outKeeps_next)

theorem execCpReloadDone_keeps (img0 : Option (List (BitVec 8))) (img1 : Option (List (BitVec 8))) (s : State) {b0 : Base} (hs : Keeps b0 s) : OutKeeps b0 (execCpReloadDone img0 img1 s) := by
  unfold execCpReloadDone
  try dsimp only
  repeat' (first
      | with_reducible assumption | with_reducible apply startImage_keeps | with_reducible apply bootEvent_keeps
      | with_reducible apply modCp_keeps | with_reducible apply next_keeps | with_reducible apply outKeeps_next | exact fun _ => rfl
      | with_reducible apply outKeeps_ite | with_reducible apply keeps_ite | (intro _; intros)
      | (fail_if_no_progress refine Keeps.upd id id id id id id id id id id id id id id id id ?_))

end Sys2Proof.Machine
end

