-- ==== Sys2Proof/Laws/KeepJournal.lean ====
section
/-! SUPPORT. What the operations of Machine/Journal.lean keep. -/

namespace Sys2Proof.Machine

theorem journalWrite_keeps (s : State) {b0 : Base} (hs : Keeps b0 s) : Keeps b0 (journalWrite s) := by
  unfold journalWrite
  repeat' (first
      | with_reducible assumption | with_reducible apply settleLoss_keeps | with_reducible apply signalVec_keeps
      | with_reducible apply emitOut_keeps | with_reducible apply keeps_ite | split
      | (fail_if_no_progress refine Keeps.upd id id id id id id id id id id id id id id id id ?_))

theorem execJournalRecordWrite_keeps (s : State) {b0 : Base} (hs : Keeps b0 s) : OutKeeps b0 (execJournalRecordWrite s) := by
  unfold execJournalRecordWrite
  repeat' (first
      | with_reducible assumption | with_reducible apply journalWrite_keeps | with_reducible apply next_keeps | with_reducible apply outKeeps_next
      | with_reducible apply outKeeps_ite | with_reducible apply keeps_ite)

theorem execJournalHoldoffExpiry_keeps (s : State) {b0 : Base} (hs : Keeps b0 s) : OutKeeps b0 (execJournalHoldoffExpiry s) := by
  unfold execJournalHoldoffExpiry
  repeat' (first
      | with_reducible assumption | with_reducible apply journalHoldoff_keeps | with_reducible apply reachEdge_keeps
      | with_reducible apply next_keeps | with_reducible apply outKeeps_next | with_reducible apply keeps_ite | with_reducible apply outKeeps_ite)

theorem execVectorHoldoffExpiry_keeps (v : Nat) (s : State) {b0 : Base} (hs : Keeps b0 s) : OutKeeps b0 (execVectorHoldoffExpiry v s) := by
  unfold execVectorHoldoffExpiry
  try dsimp only
  repeat' (first
      | with_reducible assumption | with_reducible apply reachEdge_keeps | with_reducible apply signalVec_keeps | with_reducible apply next_keeps
      | with_reducible apply outKeeps_next | with_reducible apply keeps_ite | with_reducible apply outKeeps_ite
      | (fail_if_no_progress refine Keeps.upd id id id id id id id id id id id id id id id id ?_))

theorem bodyJournalSet_keeps (p : Packet) (s : State) {b0 : Base} (hs : Keeps b0 s) : ResKeeps b0 (bodyJournalSet p s) := by
  unfold bodyJournalSet
  try dsimp only
  repeat' (first
      | with_reducible assumption | with_reducible apply checked_keeps | with_reducible apply resKeeps_ok | exact trivial
      | with_reducible apply resKeeps_ite | with_reducible apply keeps_ite | with_reducible apply resKeeps_final
      | with_reducible apply resKeeps_accepted | (fail_if_no_progress unfold checked) | trivial | split | (refine keeps_snd (by assumption) ?_)
      | (fail_if_no_progress refine Keeps.upd id id id id id id id id id id id id id id id id ?_))

theorem execJournalSet_keeps (p : Packet) (s : State) {b0 : Base} (hs : Keeps b0 s) : OutKeeps b0 (execJournalSet p s) := 
  serveCmd_keeps _ _ _ _ (specKeeps_none rfl) (fun p t h => bodyJournalSet_keeps p t h) hs

theorem bodyEventRouteSet_keeps (p : Packet) (s : State) {b0 : Base} (hs : Keeps b0 s) : ResKeeps b0 (bodyEventRouteSet p s) := by
  unfold bodyEventRouteSet
  repeat' (first
      | with_reducible assumption | with_reducible apply checked_keeps | with_reducible apply resKeeps_ok | split
      | (fail_if_no_progress refine Keeps.upd id id id id id id id id id id id id id id id id ?_))

theorem execEventRouteSet_keeps (p : Packet) (s : State) {b0 : Base} (hs : Keeps b0 s) : OutKeeps b0 (execEventRouteSet p s) := 
  serveCmd_keeps _ _ _ _ (specKeeps_none rfl) (fun p t h => bodyEventRouteSet_keeps p t h) hs

end Sys2Proof.Machine
end

