-- ==== Sys2Proof/Laws/KeepService.lean ====
section
/-! SUPPORT. What the operations of Machine/Service.lean keep. -/

namespace Sys2Proof.Machine

/-- A meaning of the opcode index keeps the same. -/
def RunKeeps (run : Packet → State → Host.Outcome State Fault Refusal) : Prop :=
  ∀ (b : Base) (p : Packet) (s : State), Keeps b s → OutKeeps b (run p s)

theorem group01_keeps : ∀ e ∈ group01, RunKeeps e.2 := by
  unfold group01
  simp only [List.forall_mem_cons, List.not_mem_nil, false_imp_iff, implies_true, and_true]
  exact ⟨fun _ p s h => execOpenSession_keeps p s h,
    fun _ p s h => execCloseSession_keeps p s h,
    fun _ p s h => execGetIdentity_keeps p s h,
    fun _ p s h => execGetState_keeps p s h,
    fun _ p s h => execSetState_keeps p s h,
    fun _ p s h => execEcho_keeps p s h⟩

theorem group02_keeps : ∀ e ∈ group02, RunKeeps e.2 := by
  unfold group02
  simp only [List.forall_mem_cons, List.not_mem_nil, false_imp_iff, implies_true, and_true]
  exact ⟨fun _ p s h => execPortConfigure_keeps p s h,
    fun _ p s h => execPortEnable_keeps p s h,
    fun _ p s h => execPortStatus_keeps p s h,
    fun _ p s h => execLaneTune_keeps p s h,
    fun _ p s h => execLaneEye_keeps p s h,
    fun _ p s h => execMacFilterSet_keeps p s h,
    fun _ p s h => execMacStatsRead_keeps p s h⟩

theorem group03_keeps : ∀ e ∈ group03, RunKeeps e.2 := by
  unfold group03
  simp only [List.forall_mem_cons, List.not_mem_nil, false_imp_iff, implies_true, and_true]
  exact ⟨fun _ p s h => execXcvrRead_keeps p s h,
    fun _ p s h => execXcvrLedgerRead_keeps p s h,
    fun _ p s h => execXcvrLedgerWrite_keeps p s h,
    fun _ p s h => execXcvrRetire_keeps p s h⟩

theorem group04_keeps : ∀ e ∈ group04, RunKeeps e.2 := by
  unfold group04
  simp only [List.forall_mem_cons, List.not_mem_nil, false_imp_iff, implies_true, and_true]
  exact ⟨fun _ p s h => execHarrowStageLoad_keeps p s h,
    fun _ p s h => execHarrowBankSwap_keeps p s h,
    fun _ p s h => execHarrowPatternLoad_keeps p s h,
    fun _ p s h => execFragmentTableRead_keeps p s h⟩

theorem group05_keeps : ∀ e ∈ group05, RunKeeps e.2 := by
  unfold group05
  simp only [List.forall_mem_cons, List.not_mem_nil, false_imp_iff, implies_true, and_true]
  exact ⟨fun _ p s h => execAddrAdd_keeps p s h,
    fun _ p s h => execAddrDelete_keeps p s h,
    fun _ p s h => execAddrLookup_keeps p s h,
    fun _ p s h => execAddrFlush_keeps p s h,
    fun _ p s h => execAgeingSet_keeps p s h,
    fun _ p s h => execShadowSet_keeps p s h,
    fun _ p s h => execShadowStatus_keeps p s h,
    fun _ p s h => execMgroupSet_keeps p s h⟩

theorem group06_keeps : ∀ e ∈ group06, RunKeeps e.2 := by
  unfold group06
  simp only [List.forall_mem_cons, List.not_mem_nil, false_imp_iff, implies_true, and_true]
  exact ⟨fun _ p s h => execStreamBind_keeps p s h,
    fun _ p s h => execStreamUnbind_keeps p s h,
    fun _ p s h => execStreamRead_keeps p s h,
    fun _ p s h => execStreamSupervise_keeps p s h,
    fun _ p s h => execKeySlotWrite_keeps p s h⟩

theorem group07_keeps : ∀ e ∈ group07, RunKeeps e.2 := by
  unfold group07
  simp only [List.forall_mem_cons, List.not_mem_nil, false_imp_iff, implies_true, and_true]
  exact ⟨fun _ p s h => execTineImageLoad_keeps p s h,
    fun _ p s h => execTineImageActivate_keeps p s h,
    fun _ p s h => execTineSampleSet_keeps p s h,
    fun _ p s h => execBedStatus_keeps p s h⟩

theorem group08_keeps : ∀ e ∈ group08, RunKeeps e.2 := by
  unfold group08
  simp only [List.forall_mem_cons, List.not_mem_nil, false_imp_iff, implies_true, and_true]
  exact ⟨fun _ p s h => execPoolSet_keeps p s h,
    fun _ p s h => execPoolRead_keeps p s h,
    fun _ p s h => execQueueRead_keeps p s h,
    fun _ p s h => execResidenceLimitSet_keeps p s h,
    fun _ p s h => execDeepStoreSet_keeps p s h⟩

theorem group09_keeps : ∀ e ∈ group09, RunKeeps e.2 := by
  unfold group09
  simp only [List.forall_mem_cons, List.not_mem_nil, false_imp_iff, implies_true, and_true]
  exact ⟨fun _ p s h => execDrillSet_keeps p s h,
    fun _ p s h => execShaperSet_keeps p s h,
    fun _ p s h => execMeterSet_keeps p s h,
    fun _ p s h => execGateListSet_keeps p s h,
    fun _ p s h => execPreemptSet_keeps p s h⟩

theorem group0A_keeps : ∀ e ∈ group0A, RunKeeps e.2 := by
  unfold group0A
  simp only [List.forall_mem_cons, List.not_mem_nil, false_imp_iff, implies_true, and_true]
  exact ⟨fun _ p s h => execFurrowStatus_keeps p s h,
    fun _ p s h => execHeadlandPolicySet_keeps p s h,
    fun _ p s h => execHeadlandTurn_keeps p s h,
    fun _ p s h => execFurrowRestart_keeps p s h,
    fun _ p s h => execPrpPairSet_keeps p s h,
    fun _ p s h => execHsrRingSet_keeps p s h,
    fun _ p s h => execFrerSet_keeps p s h,
    fun _ p s h => execWinnowRead_keeps p s h⟩

theorem group0B_keeps : ∀ e ∈ group0B, RunKeeps e.2 := by
  unfold group0B
  simp only [List.forall_mem_cons, List.not_mem_nil, false_imp_iff, implies_true, and_true]
  exact ⟨fun _ p s h => execClockConfigure_keeps p s h,
    fun _ p s h => execClockStatus_keeps p s h,
    fun _ p s h => execPtpPortSet_keeps p s h,
    fun _ p s h => execIrigSet_keeps p s h,
    fun _ p s h => execGpioCaptureSet_keeps p s h,
    fun _ p s h => execJournalSet_keeps p s h,
    fun _ p s h => execEventRouteSet_keeps p s h⟩

theorem group0C_keeps : ∀ e ∈ group0C, RunKeeps e.2 := by
  unfold group0C
  simp only [List.forall_mem_cons, List.not_mem_nil, false_imp_iff, implies_true, and_true]
  exact ⟨fun _ p s h => execGleanerSet_keeps p s h,
    fun _ p s h => execGleanerTrigger_keeps p s h,
    fun _ p s h => execMirrorSet_keeps p s h,
    fun _ p s h => execStookSet_keeps p s h,
    fun _ p s h => execCounterSelect_keeps p s h,
    fun _ p s h => execStookNow_keeps p s h⟩

theorem group0D_keeps : ∀ e ∈ group0D, RunKeeps e.2 := by
  unfold group0D
  simp only [List.forall_mem_cons, List.not_mem_nil, false_imp_iff, implies_true, and_true]
  exact ⟨fun _ p s h => execDramConfigure_keeps p s h,
    fun _ p s h => execDramTrain_keeps p s h,
    fun _ p s h => execDramStatus_keeps p s h,
    fun _ p s h => execDramMapSet_keeps p s h⟩

theorem group0E_keeps : ∀ e ∈ group0E, RunKeeps e.2 := by
  unfold group0E
  simp only [List.forall_mem_cons, List.not_mem_nil, false_imp_iff, implies_true, and_true]
  exact ⟨fun _ p s h => execOptionRead_keeps p s h,
    fun _ p s h => execOptionBurn_keeps p s h,
    fun _ p s h => execRetainedRead_keeps p s h,
    fun _ p s h => execRetainedWrite_keeps p s h,
    fun _ p s h => execConfigDigest_keeps p s h,
    fun _ p s h => execCpReload_keeps p s h,
    fun _ p s h => execThermalStatus_keeps p s h⟩

theorem opcodeIndex_keeps : ∀ e ∈ opcodeIndex, RunKeeps e.2 := by
  unfold opcodeIndex
  simp only [List.forall_mem_append]
  exact ⟨⟨⟨⟨⟨⟨⟨⟨⟨⟨⟨⟨⟨group01_keeps, group02_keeps⟩, group03_keeps⟩, group04_keeps⟩, group05_keeps⟩, group06_keeps⟩, group07_keeps⟩, group08_keeps⟩, group09_keeps⟩, group0A_keeps⟩, group0B_keeps⟩, group0C_keeps⟩, group0D_keeps⟩, group0E_keeps⟩

theorem nextOf_keeps (s : State) (z0 : Host.Outcome State Fault Refusal) {b0 : Base} (hz0 : OutKeeps b0 z0) (hs : Keeps b0 s) : Keeps b0 (nextOf s z0) := by
  cases z0
  · exact hz0
  · exact hs
  · exact hs

theorem unknownOpcode_keeps (p : Packet) (s : State) {b0 : Base} (hs : Keeps b0 s) : Keeps b0 (unknownOpcode p s) := by
  unfold unknownOpcode
  try dsimp only
  repeat' (first
      | with_reducible assumption | exact specKeeps_none rfl | with_reducible apply touchSession_keeps | with_reducible apply respond_keeps
      | with_reducible apply frontEnd_keeps | with_reducible apply keeps_ite | split | (intro _; intros))

theorem arrive_keeps (p : Packet) (s : State) {b0 : Base} (hs : Keeps b0 s) : Keeps b0 (arrive p s) := by
  unfold arrive
  split
  · rename_i heq
    exact nextOf_keeps _ _ (opcodeIndex_keeps _ (List.mem_of_find?_eq_some heq) b0 p s hs) hs
  · exact unknownOpcode_keeps _ _ hs

theorem runClosed_keeps (p : Packet) (s : State) {b0 : Base} (hs : Keeps b0 s) : Keeps b0 (runClosed p s) := by
  unfold runClosed
  dsimp only
  refine keeps_ite (endLoad_keeps _ _ hs) ?_
  have h : ∀ (q : Packet) f g, Keeps b0 (modSession (p.session % 4) f (arrive q (modSession (p.session % 4) g s))) :=
    fun _ _ _ => modSession_keeps _ _ _ (arrive_keeps _ _ (modSession_keeps _ _ _ hs))
  exact keeps_ite (closeSession_keeps _ _ (h _ _ _)) (keeps_ite (modCp_keeps _ _ (h _ _ _) (fun _ => rfl))
    (endLoad_keeps _ _ (modCp_keeps _ _ (h _ _ _) (fun _ => rfl))))

theorem runWaiting_keeps (p : Packet) (s : State) {b0 : Base} (hs : Keeps b0 s) : Keeps b0 (runWaiting p s) := by
  unfold runWaiting
  repeat' (first
      | with_reducible assumption | with_reducible apply modSession_keeps | with_reducible apply runClosed_keeps
      | with_reducible apply arrive_keeps | with_reducible apply modCp_keeps | exact fun _ => rfl | with_reducible apply keeps_ite)

theorem idle_keeps (s : State) {b0 : Base} (hs : Keeps b0 s) : Keeps b0 (idle s) := by
  unfold idle
  repeat' (first
      | with_reducible assumption | with_reducible apply settleClosings_keeps | with_reducible apply sendInband_keeps
      | with_reducible apply findingToJournal_keeps | with_reducible apply runWaiting_keeps
      | exact syncDram_keeps _ _ (syncDram_keeps _ _ (advance_keeps _ _ (by assumption)))
      | with_reducible apply startReload_keeps | with_reducible apply keeps_ite | split)

end Sys2Proof.Machine
end

