-- ==== Sys2Proof/Laws/KeepTransports.lean ====
section
/-! SUPPORT. What the operations of Machine/Transports.lean keep. -/

namespace Sys2Proof.Machine

theorem transportFault_keeps (s : State) {b0 : Base} (hs : Keeps b0 s) : Keeps b0 (transportFault s) := by
  unfold transportFault
  repeat' (first | with_reducible assumption | with_reducible apply modCp_keeps | with_reducible apply fire_keeps | exact fun _ => rfl)

theorem ringFetch_keeps (k : Nat) (desc packet : Option (List Byte)) (upset : Bool) (ext : Option (List Byte)) (s : State) {b0 : Base} (hs : Keeps b0 s) : Keeps b0 (ringFetch k desc packet upset ext s) := by
  unfold ringFetch
  repeat' (first
      | with_reducible assumption | with_reducible apply transportFault_keeps | with_reducible apply ringDisable_keeps
      | with_reducible apply sendPacket_keeps | with_reducible apply ringFault_keeps | with_reducible apply modRing_keeps
      | with_reducible apply arrive_keeps | with_reducible apply keeps_ite | split)

theorem execRingDescriptorFetch_keeps (k : Nat) (desc packet : Option (List (BitVec 8))) (upset : Bool) (ext : Option (List (BitVec 8))) (s : State) {b0 : Base} (hs : Keeps b0 s) : OutKeeps b0 (execRingDescriptorFetch k desc packet upset ext s) := by
  unfold execRingDescriptorFetch
  repeat' (first | with_reducible assumption | with_reducible apply ringFetch_keeps | with_reducible apply outKeeps_next)

theorem spiWrite_keeps (b : List Byte) (upset : Bool) (ext : Option (List Byte)) (s : State) {b0 : Base} (hs : Keeps b0 s) : Keeps b0 (spiWrite b upset ext s) := by
  unfold spiWrite
  repeat' (first
      | with_reducible assumption | with_reducible apply transportFault_keeps | with_reducible apply arrive_keeps
      | with_reducible apply modCp_keeps | exact fun _ => rfl | with_reducible apply keeps_ite
      | (fail_if_no_progress refine Keeps.upd id id id id id id id id id id id id id id id id ?_))

theorem execSpiWrite_keeps (bytes : List (BitVec 8)) (upset : Bool) (ext : Option (List (BitVec 8))) (s : State) {b0 : Base} (hs : Keeps b0 s) : OutKeeps b0 (execSpiWrite bytes upset ext s) := by
  unfold execSpiWrite
  repeat' (first | with_reducible assumption | with_reducible apply spiWrite_keeps | with_reducible apply outKeeps_next)

theorem inbandFrame_keeps (p : Nat) (b : List Byte) (upset : Bool) (ext : Option (List Byte)) (s : State) {b0 : Base} (hs : Keeps b0 s) : Keeps b0 (inbandFrame p b upset ext s) := by
  unfold inbandFrame
  repeat' (first
      | with_reducible assumption | with_reducible apply transportFault_keeps | with_reducible apply arrive_keeps
      | with_reducible apply keeps_ite)

theorem rxFrameEnd_keeps (p : Nat) (bad_ : Bool) (upset : Bool) (ext : Option (List Byte)) (s0 : State) {b0 : Base} (hs0 : Keeps b0 s0) : Keeps b0 (rxFrameEnd p bad_ upset ext s0) := by
  unfold rxFrameEnd
  try dsimp only
  repeat' (first
      | with_reducible assumption | with_reducible apply inbandFrame_keeps | with_reducible apply reachEdge_keeps
      | with_reducible apply modTim_keeps | with_reducible apply rxEnd_keeps | with_reducible apply dctr_keeps
      | with_reducible apply ptpLose_keeps | with_reducible apply keeps_ite | split | (intro _; intros)
      | (fail_if_no_progress refine Keeps.upd id id id id id id id id id id id id id id id id ?_))

theorem execRxFrameEnd_keeps (p : Nat) (bad : Bool) (upset : Bool) (ext : Option (List (BitVec 8))) (s : State) {b0 : Base} (hs : Keeps b0 s) : OutKeeps b0 (execRxFrameEnd p bad upset ext s) := by
  unfold execRxFrameEnd
  repeat' (first
      | with_reducible assumption | with_reducible apply rxFrameEnd_keeps | with_reducible apply next_keeps | with_reducible apply outKeeps_next
      | with_reducible apply outKeeps_ite | with_reducible apply keeps_ite)

end Sys2Proof.Machine
end

