-- ==== Sys2Proof/Laws/KeepExec.lean ====
section
/-! SUPPORT. What every command and every step keeps, from the lemmas of the meanings. -/

namespace Sys2Proof.Machine

theorem exec_keeps (c : Instr) (s : State) {b : Base} (hs : Keeps b s) : OutKeeps b (exec c s) := by
  cases c with
  | powerOnDetect lost copies part => exact execPowerOnDetect_keeps lost copies part s hs
  | resetNAssert ns copies part => exact execResetNAssert_keeps ns copies part s hs
  | fallowRelease xtal bypass test bad => exact execFallowRelease_keeps xtal bypass test bad s hs
  | headlandRelease => exact execHeadlandRelease_keeps s hs
  | optionLoad => exact execOptionLoad_keeps s hs
  | cpBootStart => exact execCpBootStart_keeps s hs
  | firmwareAuthenticated img0 img1 => exact execFirmwareAuthenticated_keeps img0 img1 s hs
  | furrowDomainRelease aRail aLocked bRail bLocked => exact execFurrowDomainRelease_keeps aRail aLocked bRail bLocked s hs
  | portDomainRelease => exact execPortDomainRelease_keeps s hs
  | releasePllTimeout => exact execReleasePllTimeout_keeps s hs
  | xtalFalStop => exact execXtalFalStop_keeps s hs
  | pllShLockLoss => exact execPllShLockLoss_keeps s hs
  | furrowPllLockLoss f => exact execFurrowPllLockLoss_keeps f s hs
  | headlandPllLoss => exact execHeadlandPllLoss_keeps s hs
  | railMonitor f => exact execRailMonitor_keeps f s hs
  | supplyOverRange rail => exact execSupplyOverRange_keeps rail s hs
  | vbakLow => exact execVbakLow_keeps s hs
  | furrowRailLoss f => exact execFurrowRailLoss_keeps f s hs
  | thermalSensorUpdate temps rails => exact execThermalSensorUpdate_keeps temps rails s hs
  | pcieLinkUp enable mask => exact execPcieLinkUp_keeps enable mask s hs
  | pcieLinkDown => exact execPcieLinkDown_keeps s hs
  | pciePerst => exact execPciePerst_keeps s hs
  | sliceClockStart slice => exact execSliceClockStart_keeps slice s hs
  | sliceFallowExpiry clock => exact execSliceFallowExpiry_keeps clock s hs
  | bedWake bed => exact execBedWake_keeps bed s hs
  | furrowCoreWakeForTimer f => exact execFurrowCoreWakeForTimer_keeps f s hs
  | scrubRead mem loc kind errors => exact execScrubRead_keeps mem loc kind errors s hs
  | startOfFrame p bytes => exact execStartOfFrame_keeps p bytes s hs
  | rxFrameEnd p bad upset ext => exact execRxFrameEnd_keeps p bad upset ext s hs
  | oversizeDetect p => exact execOversizeDetect_keeps p s hs
  | pauseTimerExpiry p cls => exact execPauseTimerExpiry_keeps p cls s hs
  | pauseWatchdogExpiry p cls => exact execPauseWatchdogExpiry_keeps p cls s hs
  | pauseIgnoreEnd p cls => exact execPauseIgnoreEnd_keeps p cls s hs
  | linkDown p rx phy h => exact execLinkDown_keeps p rx phy h s hs
  | linkUp p g => exact execLinkUp_keeps p g s hs
  | retrain m errors => exact execRetrain_keeps m errors s hs
  | adaptationFreeze m transitions => exact execAdaptationFreeze_keeps m transitions s hs
  | adaptationResume m r => exact execAdaptationResume_keeps m r s hs
  | fecDegradeWindow p corrected uncorrectable symbols => exact execFecDegradeWindow_keeps p corrected uncorrectable symbols s hs
  | phyPoll p status => exact execPhyPoll_keeps p status s hs
  | bringupStart p => exact execBringupStart_keeps p s hs
  | autonegComplete p np code mask => exact execAutonegComplete_keeps p np code mask s hs
  | stepWaitExpiry p => exact execStepWaitExpiry_keeps p s hs
  | stepFailTimeout p => exact execStepFailTimeout_keeps p s hs
  | bringupRestart p => exact execBringupRestart_keeps p s hs
  | i2cBusRecovery k ok => exact execI2cBusRecovery_keeps k ok s hs
  | i2cRecoveryRetry k ok => exact execI2cRecoveryRetry_keeps k ok s hs
  | modulePoll m ident mux => exact execModulePoll_keeps m ident mux s hs
  | moduleDataReady m cleared identity external slots => exact execModuleDataReady_keeps m cleared identity external slots s hs
  | ddmSample m temp r alarms => exact execDdmSample_keeps m temp r alarms s hs
  | ledgerDailyWrite m => exact execLedgerDailyWrite_keeps m s hs
  | ledgerWriteDone m back => exact execLedgerWriteDone_keeps m back s hs
  | harrowDecision f uid upset => exact execHarrowDecision_keeps f uid upset s hs
  | harrowFrameEnd f uid => exact execHarrowFrameEnd_keeps f uid s hs
  | fragmentSweep f => exact execFragmentSweep_keeps f s hs
  | bankFlip => exact execBankFlip_keeps s hs
  | bankSwapComplete => exact execBankSwapComplete_keeps s hs
  | learnInsert t => exact execLearnInsert_keeps t s hs
  | ageingSweep t => exact execAgeingSweep_keeps t s hs
  | stagingRecordRetire => exact execStagingRecordRetire_keeps s hs
  | shadowCompareUnit t ok data => exact execShadowCompareUnit_keeps t ok data s hs
  | activationStart bed => exact execActivationStart_keeps bed s hs
  | recordFetchDone bed_ bad => exact execRecordFetchDone_keeps bed_ bad s hs
  | aluR bed tine => exact execAluR_keeps bed tine s hs
  | addi bed tine => exact execAddi_keeps bed tine s hs
  | andiOriXori bed tine => exact execAndiOriXori_keeps bed tine s hs
  | sltiSltiu bed tine => exact execSltiSltiu_keeps bed tine s hs
  | slliSrliSrai bed tine => exact execSlliSrliSrai_keeps bed tine s hs
  | lui bed tine => exact execLui_keeps bed tine s hs
  | branch bed tine => exact execBranch_keeps bed tine s hs
  | jal bed tine => exact execJal_keeps bed tine s hs
  | jalr bed tine => exact execJalr_keeps bed tine s hs
  | load bed tine => exact execLoad_keeps bed tine s hs
  | store bed tine => exact execStore_keeps bed tine s hs
  | cld bed tine => exact execCld_keeps bed tine s hs
  | pld bed tine => exact execPld_keeps bed tine s hs
  | wsel bed tine => exact execWsel_keeps bed tine s hs
  | wld bed tine => exact execWld_keeps bed tine s hs
  | bers bed tine => exact execBers_keeps bed tine s hs
  | crc bed tine => exact execCrc_keeps bed tine s hs
  | hash bed tine => exact execHash_keeps bed tine s hs
  | sld bed tine => exact execSld_keeps bed tine s hs
  | sst bed tine => exact execSst_keeps bed tine s hs
  | srel bed tine => exact execSrel_keeps bed tine s hs
  | hst bed tine => exact execHst_keeps bed tine s hs
  | trd bed tine => exact execTrd_keeps bed tine s hs
  | tmset bed tine => exact execTmset_keeps bed tine s hs
  | akey bed tine => exact execAkey_keeps bed tine s hs
  | auth bed tine => exact execAuth_keeps bed tine s hs
  | authUnitDone bed tine => exact execAuthUnitDone_keeps bed tine s hs
  | emit bed tine => exact execEmit_keeps bed tine s hs
  | vrd bed tine => exact execVrd_keeps bed tine s hs
  | illegalInstruction bed tine => exact execIllegalInstruction_keeps bed tine s hs
  | budgetExceeded bed tine => exact execBudgetExceeded_keeps bed tine s hs
  | verdictRelease bed inl => exact execVerdictRelease_keeps bed inl s hs
  | bedLockup bed_ stuck => exact execBedLockup_keeps bed_ stuck s hs
  | deadlineFire bed_ => exact execDeadlineFire_keeps bed_ s hs
  | timerQueueRetry bed_ => exact execTimerQueueRetry_keeps bed_ s hs
  | imageActivationComplete bed_ => exact execImageActivationComplete_keeps bed_ s hs
  | tineImageVerified => exact execTineImageVerified_keeps s hs
  | cellRequest h d0 d1 => exact execCellRequest_keeps h d0 d1 s hs
  | rebuildScanComplete h bad => exact execRebuildScanComplete_keeps h bad s hs
  | granaryAdmit uid bad => exact execGranaryAdmit_keeps uid bad s hs
  | copyComplete uid half => exact execCopyComplete_keeps uid half s hs
  | spillWrite uid poison => exact execSpillWrite_keeps uid poison s hs
  | refillRequest f inp out cls => exact execRefillRequest_keeps f inp out cls s hs
  | refillRetry => exact execRefillRetry_keeps s hs
  | residenceCheck f inp out cls => exact execResidenceCheck_keeps f inp out cls s hs
  | crossbarMatch f bad => exact execCrossbarMatch_keeps f bad s hs
  | crossbarParityError f uids => exact execCrossbarParityError_keeps f uids s hs
  | egressUnderrun p => exact execEgressUnderrun_keeps p s hs
  | headerTransfer f uid => exact execHeaderTransfer_keeps f uid s hs
  | headerTransferTimeout f uid => exact execHeaderTransferTimeout_keeps f uid s hs
  | tc7WaitTimeout f inp out => exact execTc7WaitTimeout_keeps f inp out s hs
  | winnowArrival p upset => exact execWinnowArrival_keeps p upset s hs
  | drillStartOpportunity p => exact execDrillStartOpportunity_keeps p s hs
  | txFrameEnd p => exact execTxFrameEnd_keeps p s hs
  | streamShaperRelease handle => exact execStreamShaperRelease_keeps handle s hs
  | gateTransition p => exact execGateTransition_keeps p s hs
  | gateListTakeover p => exact execGateListTakeover_keeps p s hs
  | verifyTimer p => exact execVerifyTimer_keeps p s hs
  | verifyRespondRx p => exact execVerifyRespondRx_keeps p s hs
  | twinSweep => exact execTwinSweep_keeps s hs
  | nodeForget => exact execNodeForget_keeps s hs
  | turnFilterExpiry p => exact execTurnFilterExpiry_keeps p s hs
  | frerRecoveryTimeout handle p => exact execFrerRecoveryTimeout_keeps handle p s hs
  | latentErrorTest handle p => exact execLatentErrorTest_keeps handle p s hs
  | digestClose f ns => exact execDigestClose_keeps f ns s hs
  | digestCompare => exact execDigestCompare_keeps s hs
  | digestMissTimeout f => exact execDigestMissTimeout_keeps f s hs
  | headlandAlarm => exact execHeadlandAlarm_keeps s hs
  | arbRuling bytes => exact execArbRuling_keeps bytes s hs
  | arbStatusIn bytes => exact execArbStatusIn_keeps bytes s hs
  | arbRulingTimeout => exact execArbRulingTimeout_keeps s hs
  | arbLinkDown => exact execArbLinkDown_keeps s hs
  | arbStatusOut => exact execArbStatusOut_keeps s hs
  | turnStart => exact execTurnStart_keeps s hs
  | turnEnd => exact execTurnEnd_keeps s hs
  | laneFlushComplete f => exact execLaneFlushComplete_keeps f s hs
  | restartCopyDone => exact execRestartCopyDone_keeps s hs
  | restartAdmission => exact execRestartAdmission_keeps s hs
  | restartFailTimeout => exact execRestartFailTimeout_keeps s hs
  | timeCorrection => exact execTimeCorrection_keeps s hs
  | replicaCompare f drift => exact execReplicaCompare_keeps f drift s hs
  | referenceLoss => exact execReferenceLoss_keeps s hs
  | holdoverExpiry => exact execHoldoverExpiry_keeps s hs
  | holdoverExtMeasure deviation => exact execHoldoverExtMeasure_keeps deviation s hs
  | ppsInEdge => exact execPpsInEdge_keeps s hs
  | todRxMessage bytes => exact execTodRxMessage_keeps bytes s hs
  | todTxMessage => exact execTodTxMessage_keeps s hs
  | clk10mPresence present => exact execClk10mPresence_keeps present s hs
  | ptpMessageRx => exact execPtpMessageRx_keeps s hs
  | ptpMessageTx p kind => exact execPtpMessageTx_keeps p kind s hs
  | announceReceiptTimeout p => exact execAnnounceReceiptTimeout_keeps p s hs
  | stampFifoRead p => exact execStampFifoRead_keeps p s hs
  | irigFrame pulses age => exact execIrigFrame_keeps pulses age s hs
  | ppsOutEdge n => exact execPpsOutEdge_keeps n s hs
  | leapApply => exact execLeapApply_keeps s hs
  | gpioEdgeAccept n => exact execGpioEdgeAccept_keeps n s hs
  | gpioChatterQuiet n => exact execGpioChatterQuiet_keeps n s hs
  | journalRecordWrite => exact execJournalRecordWrite_keeps s hs
  | journalHoldoffExpiry => exact execJournalHoldoffExpiry_keeps s hs
  | vectorHoldoffExpiry v => exact execVectorHoldoffExpiry_keeps v s hs
  | gleanerTransferArrival => exact execGleanerTransferArrival_keeps s hs
  | gleanerPairTimeout seq => exact execGleanerPairTimeout_keeps seq s hs
  | gleanerRecordRelease seq => exact execGleanerRecordRelease_keeps seq s hs
  | gleanerRecordWrite accepted => exact execGleanerRecordWrite_keeps accepted s hs
  | gleanerFreeze => exact execGleanerFreeze_keeps s hs
  | gleanerFrozen => exact execGleanerFrozen_keeps s hs
  | gleanerInitComplete => exact execGleanerInitComplete_keeps s hs
  | gleanerCopyDone bad => exact execGleanerCopyDone_keeps bad s hs
  | mirrorGraceExpiry session uid => exact execMirrorGraceExpiry_keeps session uid s hs
  | stookTick => exact execStookTick_keeps s hs
  | stookSnapshotWritten ok => exact execStookSnapshotWritten_keeps ok s hs
  | refreshDue ch rank postpone => exact execRefreshDue_keeps ch rank postpone s hs
  | selfRefreshEntry ch => exact execSelfRefreshEntry_keeps ch s hs
  | patrolRead ch abp0 bch0 abp1 bch1 poison => exact execPatrolRead_keeps ch abp0 bch0 abp1 bch1 poison s hs
  | deepStoreReadDone client ch half abp poison bch uid handle => exact execDeepStoreReadDone_keeps client ch half abp poison bch uid handle s hs
  | disturbWindowClear ch => exact execDisturbWindowClear_keeps ch s hs
  | spillDrainTimeout => exact execSpillDrainTimeout_keeps s hs
  | dramTrainingDone ok0 ok1 margin0 margin1 => exact execDramTrainingDone_keeps ok0 ok1 margin0 margin1 s hs
  | regionInitDone => exact execRegionInitDone_keeps s hs
  | laneEyeDone m height width errors => exact execLaneEyeDone_keeps m height width errors s hs
  | addrFlushDone => exact execAddrFlushDone_keeps s hs
  | optionBurnDone fail0 fail1 fail2 => exact execOptionBurnDone_keeps fail0 fail1 fail2 s hs
  | cpReloadDone img0 img1 => exact execCpReloadDone_keeps img0 img1 s hs
  | lastTraceableTimeWrite => exact execLastTraceableTimeWrite_keeps s hs
  | idleTimeout slot => exact execIdleTimeout_keeps slot s hs
  | maintainLockoutEnd => exact execMaintainLockoutEnd_keeps s hs
  | spiStatus => exact execSpiStatus_keeps s hs
  | spiWrite bytes upset ext => exact execSpiWrite_keeps bytes upset ext s hs
  | spiRead n => exact execSpiRead_keeps n s hs
  | ringCmdTail k be value => exact execRingCmdTail_keeps k be value s hs
  | ringDescriptorFetch k desc packet upset ext => exact execRingDescriptorFetch_keeps k desc packet upset ext s hs
  | ringRplTail k be value => exact execRingRplTail_keeps k be value s hs
  | ringPairEnable k vector => exact execRingPairEnable_keeps k vector s hs
  | ringPairDisable k vector => exact execRingPairDisable_keeps k vector s hs
  | ringFaultRead k be => exact execRingFaultRead_keeps k be s hs
  | windowFaultRead be => exact execWindowFaultRead_keeps be s hs
  | noncontigAccess off be write => exact execNoncontigAccess_keeps off be write s hs
  | eventStatusRead r be => exact execEventStatusRead_keeps r be s hs
  | eventMaskWrite r be value => exact execEventMaskWrite_keeps r be value s hs
  | journalConsumerWrite be value => exact execJournalConsumerWrite_keeps be value s hs
  | hfrTxTail be value => exact execHfrTxTail_keeps be value s hs
  | hostFrameSend desc frame => exact execHostFrameSend_keeps desc frame s hs
  | hfrRxTail be value => exact execHfrRxTail_keeps be value s hs
  | hfrTxEnable on => exact execHfrTxEnable_keeps on s hs
  | hfrRxEnable on => exact execHfrRxEnable_keeps on s hs
  | hfrFaultRead be => exact execHfrFaultRead_keeps be s hs
  | msixVectorMaskWrite v mask => exact execMsixVectorMaskWrite_keeps v mask s hs
  | registerWrite off be value => exact execRegisterWrite_keeps off be value s hs
  | openSession p => exact execOpenSession_keeps p s hs
  | closeSession p => exact execCloseSession_keeps p s hs
  | getIdentity p => exact execGetIdentity_keeps p s hs
  | getState p => exact execGetState_keeps p s hs
  | setState p => exact execSetState_keeps p s hs
  | echo p => exact execEcho_keeps p s hs
  | portConfigure p => exact execPortConfigure_keeps p s hs
  | portEnable p => exact execPortEnable_keeps p s hs
  | portStatus p => exact execPortStatus_keeps p s hs
  | laneTune p => exact execLaneTune_keeps p s hs
  | laneEye p => exact execLaneEye_keeps p s hs
  | macFilterSet p => exact execMacFilterSet_keeps p s hs
  | macStatsRead p => exact execMacStatsRead_keeps p s hs
  | xcvrRead p => exact execXcvrRead_keeps p s hs
  | xcvrLedgerRead p => exact execXcvrLedgerRead_keeps p s hs
  | xcvrLedgerWrite p => exact execXcvrLedgerWrite_keeps p s hs
  | xcvrRetire p => exact execXcvrRetire_keeps p s hs
  | harrowStageLoad p => exact execHarrowStageLoad_keeps p s hs
  | harrowBankSwap p => exact execHarrowBankSwap_keeps p s hs
  | harrowPatternLoad p => exact execHarrowPatternLoad_keeps p s hs
  | fragmentTableRead p => exact execFragmentTableRead_keeps p s hs
  | addrAdd p => exact execAddrAdd_keeps p s hs
  | addrDelete p => exact execAddrDelete_keeps p s hs
  | addrLookup p => exact execAddrLookup_keeps p s hs
  | addrFlush p => exact execAddrFlush_keeps p s hs
  | ageingSet p => exact execAgeingSet_keeps p s hs
  | shadowSet p => exact execShadowSet_keeps p s hs
  | shadowStatus p => exact execShadowStatus_keeps p s hs
  | mgroupSet p => exact execMgroupSet_keeps p s hs
  | streamBind p => exact execStreamBind_keeps p s hs
  | streamUnbind p => exact execStreamUnbind_keeps p s hs
  | streamRead p => exact execStreamRead_keeps p s hs
  | streamSupervise p => exact execStreamSupervise_keeps p s hs
  | keySlotWrite p => exact execKeySlotWrite_keeps p s hs
  | tineImageLoad p => exact execTineImageLoad_keeps p s hs
  | tineImageActivate p => exact execTineImageActivate_keeps p s hs
  | tineSampleSet p => exact execTineSampleSet_keeps p s hs
  | bedStatus p => exact execBedStatus_keeps p s hs
  | poolSet p => exact execPoolSet_keeps p s hs
  | poolRead p => exact execPoolRead_keeps p s hs
  | queueRead p => exact execQueueRead_keeps p s hs
  | residenceLimitSet p => exact execResidenceLimitSet_keeps p s hs
  | deepStoreSet p => exact execDeepStoreSet_keeps p s hs
  | drillSet p => exact execDrillSet_keeps p s hs
  | shaperSet p => exact execShaperSet_keeps p s hs
  | meterSet p => exact execMeterSet_keeps p s hs
  | gateListSet p => exact execGateListSet_keeps p s hs
  | preemptSet p => exact execPreemptSet_keeps p s hs
  | furrowStatus p => exact execFurrowStatus_keeps p s hs
  | headlandPolicySet p => exact execHeadlandPolicySet_keeps p s hs
  | headlandTurn p => exact execHeadlandTurn_keeps p s hs
  | furrowRestart p => exact execFurrowRestart_keeps p s hs
  | prpPairSet p => exact execPrpPairSet_keeps p s hs
  | hsrRingSet p => exact execHsrRingSet_keeps p s hs
  | frerSet p => exact execFrerSet_keeps p s hs
  | winnowRead p => exact execWinnowRead_keeps p s hs
  | clockConfigure p => exact execClockConfigure_keeps p s hs
  | clockStatus p => exact execClockStatus_keeps p s hs
  | ptpPortSet p => exact execPtpPortSet_keeps p s hs
  | irigSet p => exact execIrigSet_keeps p s hs
  | gpioCaptureSet p => exact execGpioCaptureSet_keeps p s hs
  | journalSet p => exact execJournalSet_keeps p s hs
  | eventRouteSet p => exact execEventRouteSet_keeps p s hs
  | gleanerSet p => exact execGleanerSet_keeps p s hs
  | gleanerTrigger p => exact execGleanerTrigger_keeps p s hs
  | mirrorSet p => exact execMirrorSet_keeps p s hs
  | stookSet p => exact execStookSet_keeps p s hs
  | counterSelect p => exact execCounterSelect_keeps p s hs
  | stookNow p => exact execStookNow_keeps p s hs
  | dramConfigure p => exact execDramConfigure_keeps p s hs
  | dramTrain p => exact execDramTrain_keeps p s hs
  | dramStatus p => exact execDramStatus_keeps p s hs
  | dramMapSet p => exact execDramMapSet_keeps p s hs
  | optionRead p => exact execOptionRead_keeps p s hs
  | optionBurn p => exact execOptionBurn_keeps p s hs
  | retainedRead p => exact execRetainedRead_keeps p s hs
  | retainedWrite p => exact execRetainedWrite_keeps p s hs
  | configDigest p => exact execConfigDigest_keeps p s hs
  | cpReload p => exact execCpReload_keeps p s hs
  | thermalStatus p => exact execThermalStatus_keeps p s hs
  | fallowMirrorRefresh => exact execFallowMirrorRefresh_keeps s hs
  | irigOutFrame => exact execIrigOutFrame_keeps s hs
  | scheduledEventWake p => exact execScheduledEventWake_keeps p s hs
  | gpioInputChange n level => exact execGpioInputChange_keeps n level s hs
  | deepStorePllLockLoss => exact execDeepStorePllLockLoss_keeps s hs
  | verifyMpacketRx p => exact execVerifyMpacketRx_keeps p s hs
  | bedFallowStop bed => exact execBedFallowStop_keeps bed s hs
  | referenceInputTimeout tod => exact execReferenceInputTimeout_keeps tod s hs

end Sys2Proof.Machine
end

