-- ==== Sys2Proof/Laws/PerInstr.lean ====
section
/-! SUPPORT. What holds of each command as syntax, constructor by constructor: the packet of a well-formed command is well formed. -/

namespace Sys2Proof.Laws.PacketForm

def Statement (i : Instr) : Prop := i.wf = true → ∀ q, i.packet = some q → q.wf = true

theorem powerOnDetect (lost : Bool) (copies part : Nat) : Statement (.powerOnDetect lost copies part) := fun _ _ hq => nomatch hq
theorem resetNAssert (ns copies part : Nat) : Statement (.resetNAssert ns copies part) := fun _ _ hq => nomatch hq
theorem fallowRelease (xtal bypass test : Bool) (bad : List Nat) : Statement (.fallowRelease xtal bypass test bad) := fun _ _ hq => nomatch hq
theorem headlandRelease : Statement (.headlandRelease) := fun _ _ hq => nomatch hq
theorem optionLoad : Statement (.optionLoad) := fun _ _ hq => nomatch hq
theorem cpBootStart : Statement (.cpBootStart) := fun _ _ hq => nomatch hq
theorem firmwareAuthenticated (img0 img1 : Option (List (BitVec 8))) : Statement (.firmwareAuthenticated img0 img1) := fun _ _ hq => nomatch hq
theorem furrowDomainRelease (aRail aLocked bRail bLocked : Bool) : Statement (.furrowDomainRelease aRail aLocked bRail bLocked) := fun _ _ hq => nomatch hq
theorem portDomainRelease : Statement (.portDomainRelease) := fun _ _ hq => nomatch hq
theorem releasePllTimeout : Statement (.releasePllTimeout) := fun _ _ hq => nomatch hq
theorem xtalFalStop : Statement (.xtalFalStop) := fun _ _ hq => nomatch hq
theorem pllShLockLoss : Statement (.pllShLockLoss) := fun _ _ hq => nomatch hq
theorem furrowPllLockLoss (f : Furrow) : Statement (.furrowPllLockLoss f) := fun _ _ hq => nomatch hq
theorem headlandPllLoss : Statement (.headlandPllLoss) := fun _ _ hq => nomatch hq
theorem railMonitor (f : Furrow) : Statement (.railMonitor f) := fun _ _ hq => nomatch hq
theorem supplyOverRange (rail : Nat) : Statement (.supplyOverRange rail) := fun _ _ hq => nomatch hq
theorem vbakLow : Statement (.vbakLow) := fun _ _ hq => nomatch hq
theorem furrowRailLoss (f : Furrow) : Statement (.furrowRailLoss f) := fun _ _ hq => nomatch hq
theorem thermalSensorUpdate (temps : List Int) (rails : List Nat) : Statement (.thermalSensorUpdate temps rails) := fun _ _ hq => nomatch hq
theorem pcieLinkUp (enable mask : Bool) : Statement (.pcieLinkUp enable mask) := fun _ _ hq => nomatch hq
theorem pcieLinkDown : Statement (.pcieLinkDown) := fun _ _ hq => nomatch hq
theorem pciePerst : Statement (.pciePerst) := fun _ _ hq => nomatch hq
theorem sliceClockStart (slice : Nat) : Statement (.sliceClockStart slice) := fun _ _ hq => nomatch hq
theorem sliceFallowExpiry (clock : Nat) : Statement (.sliceFallowExpiry clock) := fun _ _ hq => nomatch hq
theorem bedWake (bed : Nat) : Statement (.bedWake bed) := fun _ _ hq => nomatch hq
theorem furrowCoreWakeForTimer (f : Furrow) : Statement (.furrowCoreWakeForTimer f) := fun _ _ hq => nomatch hq
theorem scrubRead (mem loc kind errors : Nat) : Statement (.scrubRead mem loc kind errors) := fun _ _ hq => nomatch hq
theorem startOfFrame (p : Nat) (bytes : List Byte) : Statement (.startOfFrame p bytes) := fun _ _ hq => nomatch hq
theorem rxFrameEnd (p : Nat) (bad upset : Bool) (ext : Option (List (BitVec 8))) : Statement (.rxFrameEnd p bad upset ext) := fun _ _ hq => nomatch hq
theorem oversizeDetect (p : Nat) : Statement (.oversizeDetect p) := fun _ _ hq => nomatch hq
theorem pauseTimerExpiry (p cls : Nat) : Statement (.pauseTimerExpiry p cls) := fun _ _ hq => nomatch hq
theorem pauseWatchdogExpiry (p cls : Nat) : Statement (.pauseWatchdogExpiry p cls) := fun _ _ hq => nomatch hq
theorem pauseIgnoreEnd (p cls : Nat) : Statement (.pauseIgnoreEnd p cls) := fun _ _ hq => nomatch hq
theorem linkDown (p : Nat) (rx phy : Bool) (h : Hears) : Statement (.linkDown p rx phy h) := fun _ _ hq => nomatch hq
theorem linkUp (p : Nat) (g : Gains) : Statement (.linkUp p g) := fun _ _ hq => nomatch hq
theorem retrain (m errors : Nat) : Statement (.retrain m errors) := fun _ _ hq => nomatch hq
theorem adaptationFreeze (m transitions : Nat) : Statement (.adaptationFreeze m transitions) := fun _ _ hq => nomatch hq
theorem adaptationResume (m : Nat) (r : Resumes) : Statement (.adaptationResume m r) := fun _ _ hq => nomatch hq
theorem fecDegradeWindow (p corrected uncorrectable symbols : Nat) : Statement (.fecDegradeWindow p corrected uncorrectable symbols) := fun _ _ hq => nomatch hq
theorem phyPoll (p : Nat) (status : Option Nat) : Statement (.phyPoll p status) := fun _ _ hq => nomatch hq
theorem bringupStart (p : Nat) : Statement (.bringupStart p) := fun _ _ hq => nomatch hq
theorem autonegComplete (p : Nat) (np : Bool) (code mask : Nat) : Statement (.autonegComplete p np code mask) := fun _ _ hq => nomatch hq
theorem stepWaitExpiry (p : Nat) : Statement (.stepWaitExpiry p) := fun _ _ hq => nomatch hq
theorem stepFailTimeout (p : Nat) : Statement (.stepFailTimeout p) := fun _ _ hq => nomatch hq
theorem bringupRestart (p : Nat) : Statement (.bringupRestart p) := fun _ _ hq => nomatch hq
theorem i2cBusRecovery (k : Nat) (ok : Bool) : Statement (.i2cBusRecovery k ok) := fun _ _ hq => nomatch hq
theorem i2cRecoveryRetry (k : Nat) (ok : Bool) : Statement (.i2cRecoveryRetry k ok) := fun _ _ hq => nomatch hq
theorem modulePoll (m : Nat) (ident : Option Nat) (mux : Bool) : Statement (.modulePoll m ident mux) := fun _ _ hq => nomatch hq
theorem moduleDataReady (m : Nat) (cleared : Bool) (identity external : List Byte) (slots : LedgerSlots) : Statement (.moduleDataReady m cleared identity external slots) := fun _ _ hq => nomatch hq
theorem ddmSample (m temp : Nat) (r : Readings) (alarms : Nat) : Statement (.ddmSample m temp r alarms) := fun _ _ hq => nomatch hq
theorem ledgerDailyWrite (m : Nat) : Statement (.ledgerDailyWrite m) := fun _ _ hq => nomatch hq
theorem ledgerWriteDone (m : Nat) (back : Option (List (BitVec 8))) : Statement (.ledgerWriteDone m back) := fun _ _ hq => nomatch hq
theorem harrowDecision (f : Furrow) (uid upset : Nat) : Statement (.harrowDecision f uid upset) := fun _ _ hq => nomatch hq
theorem harrowFrameEnd (f : Furrow) (uid : Nat) : Statement (.harrowFrameEnd f uid) := fun _ _ hq => nomatch hq
theorem fragmentSweep (f : Furrow) : Statement (.fragmentSweep f) := fun _ _ hq => nomatch hq
theorem bankFlip : Statement (.bankFlip) := fun _ _ hq => nomatch hq
theorem bankSwapComplete : Statement (.bankSwapComplete) := fun _ _ hq => nomatch hq
theorem learnInsert (t : TabRead) : Statement (.learnInsert t) := fun _ _ hq => nomatch hq
theorem ageingSweep (t : TabRead) : Statement (.ageingSweep t) := fun _ _ hq => nomatch hq
theorem stagingRecordRetire : Statement (.stagingRecordRetire) := fun _ _ hq => nomatch hq
theorem shadowCompareUnit (t : TabRead) (ok : Bool) (data : List Byte) : Statement (.shadowCompareUnit t ok data) := fun _ _ hq => nomatch hq
theorem activationStart (bed : Nat) : Statement (.activationStart bed) := fun _ _ hq => nomatch hq
theorem recordFetchDone (bed_ : Nat) (bad : Bool) : Statement (.recordFetchDone bed_ bad) := fun _ _ hq => nomatch hq
theorem aluR (bed tine : Nat) : Statement (.aluR bed tine) := fun _ _ hq => nomatch hq
theorem addi (bed tine : Nat) : Statement (.addi bed tine) := fun _ _ hq => nomatch hq
theorem andiOriXori (bed tine : Nat) : Statement (.andiOriXori bed tine) := fun _ _ hq => nomatch hq
theorem sltiSltiu (bed tine : Nat) : Statement (.sltiSltiu bed tine) := fun _ _ hq => nomatch hq
theorem slliSrliSrai (bed tine : Nat) : Statement (.slliSrliSrai bed tine) := fun _ _ hq => nomatch hq
theorem lui (bed tine : Nat) : Statement (.lui bed tine) := fun _ _ hq => nomatch hq
theorem branch (bed tine : Nat) : Statement (.branch bed tine) := fun _ _ hq => nomatch hq
theorem jal (bed tine : Nat) : Statement (.jal bed tine) := fun _ _ hq => nomatch hq
theorem jalr (bed tine : Nat) : Statement (.jalr bed tine) := fun _ _ hq => nomatch hq
theorem load (bed tine : Nat) : Statement (.load bed tine) := fun _ _ hq => nomatch hq
theorem store (bed tine : Nat) : Statement (.store bed tine) := fun _ _ hq => nomatch hq
theorem cld (bed tine : Nat) : Statement (.cld bed tine) := fun _ _ hq => nomatch hq
theorem pld (bed tine : Nat) : Statement (.pld bed tine) := fun _ _ hq => nomatch hq
theorem wsel (bed tine : Nat) : Statement (.wsel bed tine) := fun _ _ hq => nomatch hq
theorem wld (bed tine : Nat) : Statement (.wld bed tine) := fun _ _ hq => nomatch hq
theorem bers (bed tine : Nat) : Statement (.bers bed tine) := fun _ _ hq => nomatch hq
theorem crc (bed tine : Nat) : Statement (.crc bed tine) := fun _ _ hq => nomatch hq
theorem hash (bed tine : Nat) : Statement (.hash bed tine) := fun _ _ hq => nomatch hq
theorem sld (bed tine : Nat) : Statement (.sld bed tine) := fun _ _ hq => nomatch hq
theorem sst (bed tine : Nat) : Statement (.sst bed tine) := fun _ _ hq => nomatch hq
theorem srel (bed tine : Nat) : Statement (.srel bed tine) := fun _ _ hq => nomatch hq
theorem hst (bed tine : Nat) : Statement (.hst bed tine) := fun _ _ hq => nomatch hq
theorem trd (bed tine : Nat) : Statement (.trd bed tine) := fun _ _ hq => nomatch hq
theorem tmset (bed tine : Nat) : Statement (.tmset bed tine) := fun _ _ hq => nomatch hq
theorem akey (bed tine : Nat) : Statement (.akey bed tine) := fun _ _ hq => nomatch hq
theorem auth (bed tine : Nat) : Statement (.auth bed tine) := fun _ _ hq => nomatch hq
theorem authUnitDone (bed tine : Nat) : Statement (.authUnitDone bed tine) := fun _ _ hq => nomatch hq
theorem emit (bed tine : Nat) : Statement (.emit bed tine) := fun _ _ hq => nomatch hq
theorem vrd (bed tine : Nat) : Statement (.vrd bed tine) := fun _ _ hq => nomatch hq
theorem illegalInstruction (bed tine : Nat) : Statement (.illegalInstruction bed tine) := fun _ _ hq => nomatch hq
theorem budgetExceeded (bed tine : Nat) : Statement (.budgetExceeded bed tine) := fun _ _ hq => nomatch hq
theorem verdictRelease (bed : Nat) (inl : Bool) : Statement (.verdictRelease bed inl) := fun _ _ hq => nomatch hq
theorem bedLockup (bed_ : Nat) (stuck : Bool) : Statement (.bedLockup bed_ stuck) := fun _ _ hq => nomatch hq
theorem deadlineFire (bed_ : Nat) : Statement (.deadlineFire bed_) := fun _ _ hq => nomatch hq
theorem timerQueueRetry (bed_ : Nat) : Statement (.timerQueueRetry bed_) := fun _ _ hq => nomatch hq
theorem imageActivationComplete (bed_ : Nat) : Statement (.imageActivationComplete bed_) := fun _ _ hq => nomatch hq
theorem tineImageVerified : Statement (.tineImageVerified) := fun _ _ hq => nomatch hq
theorem cellRequest (h : Nat) (d0 d1 : Option Nat) : Statement (.cellRequest h d0 d1) := fun _ _ hq => nomatch hq
theorem rebuildScanComplete (h : Nat) (bad : List Nat) : Statement (.rebuildScanComplete h bad) := fun _ _ hq => nomatch hq
theorem granaryAdmit (uid bad : Nat) : Statement (.granaryAdmit uid bad) := fun _ _ hq => nomatch hq
theorem copyComplete (uid half : Nat) : Statement (.copyComplete uid half) := fun _ _ hq => nomatch hq
theorem spillWrite (uid : Nat) (poison : List Nat) : Statement (.spillWrite uid poison) := fun _ _ hq => nomatch hq
theorem refillRequest (f : Furrow) (inp out cls : Nat) : Statement (.refillRequest f inp out cls) := fun _ _ hq => nomatch hq
theorem refillRetry : Statement (.refillRetry) := fun _ _ hq => nomatch hq
theorem residenceCheck (f : Furrow) (inp out cls : Nat) : Statement (.residenceCheck f inp out cls) := fun _ _ hq => nomatch hq
theorem crossbarMatch (f : Furrow) (bad : List (Nat × Nat)) : Statement (.crossbarMatch f bad) := fun _ _ hq => nomatch hq
theorem crossbarParityError (f : Furrow) (uids : List Nat) : Statement (.crossbarParityError f uids) := fun _ _ hq => nomatch hq
theorem egressUnderrun (p : Nat) : Statement (.egressUnderrun p) := fun _ _ hq => nomatch hq
theorem headerTransfer (f : Furrow) (uid : Nat) : Statement (.headerTransfer f uid) := fun _ _ hq => nomatch hq
theorem headerTransferTimeout (f : Furrow) (uid : Nat) : Statement (.headerTransferTimeout f uid) := fun _ _ hq => nomatch hq
theorem tc7WaitTimeout (f : Furrow) (inp out : Nat) : Statement (.tc7WaitTimeout f inp out) := fun _ _ hq => nomatch hq
theorem winnowArrival (p upset : Nat) : Statement (.winnowArrival p upset) := fun _ _ hq => nomatch hq
theorem drillStartOpportunity (p : Nat) : Statement (.drillStartOpportunity p) := fun _ _ hq => nomatch hq
theorem txFrameEnd (p : Nat) : Statement (.txFrameEnd p) := fun _ _ hq => nomatch hq
theorem streamShaperRelease (handle : Nat) : Statement (.streamShaperRelease handle) := fun _ _ hq => nomatch hq
theorem gateTransition (p : Nat) : Statement (.gateTransition p) := fun _ _ hq => nomatch hq
theorem gateListTakeover (p : Nat) : Statement (.gateListTakeover p) := fun _ _ hq => nomatch hq
theorem verifyTimer (p : Nat) : Statement (.verifyTimer p) := fun _ _ hq => nomatch hq
theorem verifyRespondRx (p : Nat) : Statement (.verifyRespondRx p) := fun _ _ hq => nomatch hq
theorem twinSweep : Statement (.twinSweep) := fun _ _ hq => nomatch hq
theorem nodeForget : Statement (.nodeForget) := fun _ _ hq => nomatch hq
theorem turnFilterExpiry (p : Nat) : Statement (.turnFilterExpiry p) := fun _ _ hq => nomatch hq
theorem frerRecoveryTimeout (handle p : Nat) : Statement (.frerRecoveryTimeout handle p) := fun _ _ hq => nomatch hq
theorem latentErrorTest (handle p : Nat) : Statement (.latentErrorTest handle p) := fun _ _ hq => nomatch hq
theorem digestClose (f : Furrow) (ns : Nat) : Statement (.digestClose f ns) := fun _ _ hq => nomatch hq
theorem digestCompare : Statement (.digestCompare) := fun _ _ hq => nomatch hq
theorem digestMissTimeout (f : Furrow) : Statement (.digestMissTimeout f) := fun _ _ hq => nomatch hq
theorem headlandAlarm : Statement (.headlandAlarm) := fun _ _ hq => nomatch hq
theorem arbRuling (bytes : List Byte) : Statement (.arbRuling bytes) := fun _ _ hq => nomatch hq
theorem arbStatusIn (bytes : List Byte) : Statement (.arbStatusIn bytes) := fun _ _ hq => nomatch hq
theorem arbRulingTimeout : Statement (.arbRulingTimeout) := fun _ _ hq => nomatch hq
theorem arbLinkDown : Statement (.arbLinkDown) := fun _ _ hq => nomatch hq
theorem arbStatusOut : Statement (.arbStatusOut) := fun _ _ hq => nomatch hq
theorem turnStart : Statement (.turnStart) := fun _ _ hq => nomatch hq
theorem turnEnd : Statement (.turnEnd) := fun _ _ hq => nomatch hq
theorem laneFlushComplete (f : Furrow) : Statement (.laneFlushComplete f) := fun _ _ hq => nomatch hq
theorem restartCopyDone : Statement (.restartCopyDone) := fun _ _ hq => nomatch hq
theorem restartAdmission : Statement (.restartAdmission) := fun _ _ hq => nomatch hq
theorem restartFailTimeout : Statement (.restartFailTimeout) := fun _ _ hq => nomatch hq
theorem timeCorrection : Statement (.timeCorrection) := fun _ _ hq => nomatch hq
theorem replicaCompare (f : Furrow) (drift : Int) : Statement (.replicaCompare f drift) := fun _ _ hq => nomatch hq
theorem referenceLoss : Statement (.referenceLoss) := fun _ _ hq => nomatch hq
theorem holdoverExpiry : Statement (.holdoverExpiry) := fun _ _ hq => nomatch hq
theorem holdoverExtMeasure (deviation : Int) : Statement (.holdoverExtMeasure deviation) := fun _ _ hq => nomatch hq
theorem ppsInEdge : Statement (.ppsInEdge) := fun _ _ hq => nomatch hq
theorem todRxMessage (bytes : List Byte) : Statement (.todRxMessage bytes) := fun _ _ hq => nomatch hq
theorem todTxMessage : Statement (.todTxMessage) := fun _ _ hq => nomatch hq
theorem clk10mPresence (present : Bool) : Statement (.clk10mPresence present) := fun _ _ hq => nomatch hq
theorem ptpMessageRx : Statement (.ptpMessageRx) := fun _ _ hq => nomatch hq
theorem ptpMessageTx (p kind : Nat) : Statement (.ptpMessageTx p kind) := fun _ _ hq => nomatch hq
theorem announceReceiptTimeout (p : Nat) : Statement (.announceReceiptTimeout p) := fun _ _ hq => nomatch hq
theorem stampFifoRead (p : Nat) : Statement (.stampFifoRead p) := fun _ _ hq => nomatch hq
theorem irigFrame (pulses : List Nat) (age : Nat) : Statement (.irigFrame pulses age) := fun _ _ hq => nomatch hq
theorem ppsOutEdge (n : Nat) : Statement (.ppsOutEdge n) := fun _ _ hq => nomatch hq
theorem leapApply : Statement (.leapApply) := fun _ _ hq => nomatch hq
theorem gpioEdgeAccept (n : Nat) : Statement (.gpioEdgeAccept n) := fun _ _ hq => nomatch hq
theorem gpioChatterQuiet (n : Nat) : Statement (.gpioChatterQuiet n) := fun _ _ hq => nomatch hq
theorem journalRecordWrite : Statement (.journalRecordWrite) := fun _ _ hq => nomatch hq
theorem journalHoldoffExpiry : Statement (.journalHoldoffExpiry) := fun _ _ hq => nomatch hq
theorem vectorHoldoffExpiry (v : Nat) : Statement (.vectorHoldoffExpiry v) := fun _ _ hq => nomatch hq
theorem gleanerTransferArrival : Statement (.gleanerTransferArrival) := fun _ _ hq => nomatch hq
theorem gleanerPairTimeout (seq : Nat) : Statement (.gleanerPairTimeout seq) := fun _ _ hq => nomatch hq
theorem gleanerRecordRelease (seq : Nat) : Statement (.gleanerRecordRelease seq) := fun _ _ hq => nomatch hq
theorem gleanerRecordWrite (accepted : Bool) : Statement (.gleanerRecordWrite accepted) := fun _ _ hq => nomatch hq
theorem gleanerFreeze : Statement (.gleanerFreeze) := fun _ _ hq => nomatch hq
theorem gleanerFrozen : Statement (.gleanerFrozen) := fun _ _ hq => nomatch hq
theorem gleanerInitComplete : Statement (.gleanerInitComplete) := fun _ _ hq => nomatch hq
theorem gleanerCopyDone (bad : List Nat) : Statement (.gleanerCopyDone bad) := fun _ _ hq => nomatch hq
theorem mirrorGraceExpiry (session uid : Nat) : Statement (.mirrorGraceExpiry session uid) := fun _ _ hq => nomatch hq
theorem stookTick : Statement (.stookTick) := fun _ _ hq => nomatch hq
theorem stookSnapshotWritten (ok : Bool) : Statement (.stookSnapshotWritten ok) := fun _ _ hq => nomatch hq
theorem refreshDue (ch rank : Nat) (postpone : Bool) : Statement (.refreshDue ch rank postpone) := fun _ _ hq => nomatch hq
theorem selfRefreshEntry (ch : Nat) : Statement (.selfRefreshEntry ch) := fun _ _ hq => nomatch hq
theorem patrolRead (ch abp0 bch0 abp1 bch1 poison : Nat) : Statement (.patrolRead ch abp0 bch0 abp1 bch1 poison) := fun _ _ hq => nomatch hq
theorem deepStoreReadDone (client ch half abp : Nat) (poison : Bool) (bch uid handle : Nat) : Statement (.deepStoreReadDone client ch half abp poison bch uid handle) := fun _ _ hq => nomatch hq
theorem disturbWindowClear (ch : Nat) : Statement (.disturbWindowClear ch) := fun _ _ hq => nomatch hq
theorem spillDrainTimeout : Statement (.spillDrainTimeout) := fun _ _ hq => nomatch hq
theorem dramTrainingDone (ok0 ok1 : Bool) (margin0 margin1 : Nat) : Statement (.dramTrainingDone ok0 ok1 margin0 margin1) := fun _ _ hq => nomatch hq
theorem regionInitDone : Statement (.regionInitDone) := fun _ _ hq => nomatch hq
theorem laneEyeDone (m height width errors : Nat) : Statement (.laneEyeDone m height width errors) := fun _ _ hq => nomatch hq
theorem addrFlushDone : Statement (.addrFlushDone) := fun _ _ hq => nomatch hq
theorem optionBurnDone (fail0 fail1 fail2 : Nat) : Statement (.optionBurnDone fail0 fail1 fail2) := fun _ _ hq => nomatch hq
theorem cpReloadDone (img0 img1 : Option (List (BitVec 8))) : Statement (.cpReloadDone img0 img1) := fun _ _ hq => nomatch hq
theorem lastTraceableTimeWrite : Statement (.lastTraceableTimeWrite) := fun _ _ hq => nomatch hq
theorem idleTimeout (slot : Nat) : Statement (.idleTimeout slot) := fun _ _ hq => nomatch hq
theorem maintainLockoutEnd : Statement (.maintainLockoutEnd) := fun _ _ hq => nomatch hq
theorem spiStatus : Statement (.spiStatus) := fun _ _ hq => nomatch hq
theorem spiWrite (bytes : List (BitVec 8)) (upset : Bool) (ext : Option (List (BitVec 8))) : Statement (.spiWrite bytes upset ext) := fun _ _ hq => nomatch hq
theorem spiRead (n : Nat) : Statement (.spiRead n) := fun _ _ hq => nomatch hq
theorem ringCmdTail (k be value : Nat) : Statement (.ringCmdTail k be value) := fun _ _ hq => nomatch hq
theorem ringDescriptorFetch (k : Nat) (desc packet : Option (List (BitVec 8))) (upset : Bool) (ext : Option (List (BitVec 8))) : Statement (.ringDescriptorFetch k desc packet upset ext) := fun _ _ hq => nomatch hq
theorem ringRplTail (k be value : Nat) : Statement (.ringRplTail k be value) := fun _ _ hq => nomatch hq
theorem ringPairEnable (k vector : Nat) : Statement (.ringPairEnable k vector) := fun _ _ hq => nomatch hq
theorem ringPairDisable (k vector : Nat) : Statement (.ringPairDisable k vector) := fun _ _ hq => nomatch hq
theorem ringFaultRead (k be : Nat) : Statement (.ringFaultRead k be) := fun _ _ hq => nomatch hq
theorem windowFaultRead (be : Nat) : Statement (.windowFaultRead be) := fun _ _ hq => nomatch hq
theorem noncontigAccess (off be : Nat) (write : Bool) : Statement (.noncontigAccess off be write) := fun _ _ hq => nomatch hq
theorem eventStatusRead (r be : Nat) : Statement (.eventStatusRead r be) := fun _ _ hq => nomatch hq
theorem eventMaskWrite (r be value : Nat) : Statement (.eventMaskWrite r be value) := fun _ _ hq => nomatch hq
theorem journalConsumerWrite (be value : Nat) : Statement (.journalConsumerWrite be value) := fun _ _ hq => nomatch hq
theorem hfrTxTail (be value : Nat) : Statement (.hfrTxTail be value) := fun _ _ hq => nomatch hq
theorem hostFrameSend (desc frame : Option (List Byte)) : Statement (.hostFrameSend desc frame) := fun _ _ hq => nomatch hq
theorem hfrRxTail (be value : Nat) : Statement (.hfrRxTail be value) := fun _ _ hq => nomatch hq
theorem hfrTxEnable (on : Bool) : Statement (.hfrTxEnable on) := fun _ _ hq => nomatch hq
theorem hfrRxEnable (on : Bool) : Statement (.hfrRxEnable on) := fun _ _ hq => nomatch hq
theorem hfrFaultRead (be : Nat) : Statement (.hfrFaultRead be) := fun _ _ hq => nomatch hq
theorem msixVectorMaskWrite (v : Nat) (mask : Bool) : Statement (.msixVectorMaskWrite v mask) := fun _ _ hq => nomatch hq
theorem registerWrite (off be value : Nat) : Statement (.registerWrite off be value) := fun _ _ hq => nomatch hq
theorem openSession (p : Packet) : Statement (.openSession p) := fun h _ hq => Option.some.inj hq ▸ h
theorem closeSession (p : Packet) : Statement (.closeSession p) := fun h _ hq => Option.some.inj hq ▸ h
theorem getIdentity (p : Packet) : Statement (.getIdentity p) := fun h _ hq => Option.some.inj hq ▸ h
theorem getState (p : Packet) : Statement (.getState p) := fun h _ hq => Option.some.inj hq ▸ h
theorem setState (p : Packet) : Statement (.setState p) := fun h _ hq => Option.some.inj hq ▸ h
theorem echo (p : Packet) : Statement (.echo p) := fun h _ hq => Option.some.inj hq ▸ h
theorem portConfigure (p : Packet) : Statement (.portConfigure p) := fun h _ hq => Option.some.inj hq ▸ h
theorem portEnable (p : Packet) : Statement (.portEnable p) := fun h _ hq => Option.some.inj hq ▸ h
theorem portStatus (p : Packet) : Statement (.portStatus p) := fun h _ hq => Option.some.inj hq ▸ h
theorem laneTune (p : Packet) : Statement (.laneTune p) := fun h _ hq => Option.some.inj hq ▸ h
theorem laneEye (p : Packet) : Statement (.laneEye p) := fun h _ hq => Option.some.inj hq ▸ h
theorem macFilterSet (p : Packet) : Statement (.macFilterSet p) := fun h _ hq => Option.some.inj hq ▸ h
theorem macStatsRead (p : Packet) : Statement (.macStatsRead p) := fun h _ hq => Option.some.inj hq ▸ h
theorem xcvrRead (p : Packet) : Statement (.xcvrRead p) := fun h _ hq => Option.some.inj hq ▸ h
theorem xcvrLedgerRead (p : Packet) : Statement (.xcvrLedgerRead p) := fun h _ hq => Option.some.inj hq ▸ h
theorem xcvrLedgerWrite (p : Packet) : Statement (.xcvrLedgerWrite p) := fun h _ hq => Option.some.inj hq ▸ h
theorem xcvrRetire (p : Packet) : Statement (.xcvrRetire p) := fun h _ hq => Option.some.inj hq ▸ h
theorem harrowStageLoad (p : Packet) : Statement (.harrowStageLoad p) := fun h _ hq => Option.some.inj hq ▸ h
theorem harrowBankSwap (p : Packet) : Statement (.harrowBankSwap p) := fun h _ hq => Option.some.inj hq ▸ h
theorem harrowPatternLoad (p : Packet) : Statement (.harrowPatternLoad p) := fun h _ hq => Option.some.inj hq ▸ h
theorem fragmentTableRead (p : Packet) : Statement (.fragmentTableRead p) := fun h _ hq => Option.some.inj hq ▸ h
theorem addrAdd (p : Packet) : Statement (.addrAdd p) := fun h _ hq => Option.some.inj hq ▸ h
theorem addrDelete (p : Packet) : Statement (.addrDelete p) := fun h _ hq => Option.some.inj hq ▸ h
theorem addrLookup (p : Packet) : Statement (.addrLookup p) := fun h _ hq => Option.some.inj hq ▸ h
theorem addrFlush (p : Packet) : Statement (.addrFlush p) := fun h _ hq => Option.some.inj hq ▸ h
theorem ageingSet (p : Packet) : Statement (.ageingSet p) := fun h _ hq => Option.some.inj hq ▸ h
theorem shadowSet (p : Packet) : Statement (.shadowSet p) := fun h _ hq => Option.some.inj hq ▸ h
theorem shadowStatus (p : Packet) : Statement (.shadowStatus p) := fun h _ hq => Option.some.inj hq ▸ h
theorem mgroupSet (p : Packet) : Statement (.mgroupSet p) := fun h _ hq => Option.some.inj hq ▸ h
theorem streamBind (p : Packet) : Statement (.streamBind p) := fun h _ hq => Option.some.inj hq ▸ h
theorem streamUnbind (p : Packet) : Statement (.streamUnbind p) := fun h _ hq => Option.some.inj hq ▸ h
theorem streamRead (p : Packet) : Statement (.streamRead p) := fun h _ hq => Option.some.inj hq ▸ h
theorem streamSupervise (p : Packet) : Statement (.streamSupervise p) := fun h _ hq => Option.some.inj hq ▸ h
theorem keySlotWrite (p : Packet) : Statement (.keySlotWrite p) := fun h _ hq => Option.some.inj hq ▸ h
theorem tineImageLoad (p : Packet) : Statement (.tineImageLoad p) := fun h _ hq => Option.some.inj hq ▸ h
theorem tineImageActivate (p : Packet) : Statement (.tineImageActivate p) := fun h _ hq => Option.some.inj hq ▸ h
theorem tineSampleSet (p : Packet) : Statement (.tineSampleSet p) := fun h _ hq => Option.some.inj hq ▸ h
theorem bedStatus (p : Packet) : Statement (.bedStatus p) := fun h _ hq => Option.some.inj hq ▸ h
theorem poolSet (p : Packet) : Statement (.poolSet p) := fun h _ hq => Option.some.inj hq ▸ h
theorem poolRead (p : Packet) : Statement (.poolRead p) := fun h _ hq => Option.some.inj hq ▸ h
theorem queueRead (p : Packet) : Statement (.queueRead p) := fun h _ hq => Option.some.inj hq ▸ h
theorem residenceLimitSet (p : Packet) : Statement (.residenceLimitSet p) := fun h _ hq => Option.some.inj hq ▸ h
theorem deepStoreSet (p : Packet) : Statement (.deepStoreSet p) := fun h _ hq => Option.some.inj hq ▸ h
theorem drillSet (p : Packet) : Statement (.drillSet p) := fun h _ hq => Option.some.inj hq ▸ h
theorem shaperSet (p : Packet) : Statement (.shaperSet p) := fun h _ hq => Option.some.inj hq ▸ h
theorem meterSet (p : Packet) : Statement (.meterSet p) := fun h _ hq => Option.some.inj hq ▸ h
theorem gateListSet (p : Packet) : Statement (.gateListSet p) := fun h _ hq => Option.some.inj hq ▸ h
theorem preemptSet (p : Packet) : Statement (.preemptSet p) := fun h _ hq => Option.some.inj hq ▸ h
theorem furrowStatus (p : Packet) : Statement (.furrowStatus p) := fun h _ hq => Option.some.inj hq ▸ h
theorem headlandPolicySet (p : Packet) : Statement (.headlandPolicySet p) := fun h _ hq => Option.some.inj hq ▸ h
theorem headlandTurn (p : Packet) : Statement (.headlandTurn p) := fun h _ hq => Option.some.inj hq ▸ h
theorem furrowRestart (p : Packet) : Statement (.furrowRestart p) := fun h _ hq => Option.some.inj hq ▸ h
theorem prpPairSet (p : Packet) : Statement (.prpPairSet p) := fun h _ hq => Option.some.inj hq ▸ h
theorem hsrRingSet (p : Packet) : Statement (.hsrRingSet p) := fun h _ hq => Option.some.inj hq ▸ h
theorem frerSet (p : Packet) : Statement (.frerSet p) := fun h _ hq => Option.some.inj hq ▸ h
theorem winnowRead (p : Packet) : Statement (.winnowRead p) := fun h _ hq => Option.some.inj hq ▸ h
theorem clockConfigure (p : Packet) : Statement (.clockConfigure p) := fun h _ hq => Option.some.inj hq ▸ h
theorem clockStatus (p : Packet) : Statement (.clockStatus p) := fun h _ hq => Option.some.inj hq ▸ h
theorem ptpPortSet (p : Packet) : Statement (.ptpPortSet p) := fun h _ hq => Option.some.inj hq ▸ h
theorem irigSet (p : Packet) : Statement (.irigSet p) := fun h _ hq => Option.some.inj hq ▸ h
theorem gpioCaptureSet (p : Packet) : Statement (.gpioCaptureSet p) := fun h _ hq => Option.some.inj hq ▸ h
theorem journalSet (p : Packet) : Statement (.journalSet p) := fun h _ hq => Option.some.inj hq ▸ h
theorem eventRouteSet (p : Packet) : Statement (.eventRouteSet p) := fun h _ hq => Option.some.inj hq ▸ h
theorem gleanerSet (p : Packet) : Statement (.gleanerSet p) := fun h _ hq => Option.some.inj hq ▸ h
theorem gleanerTrigger (p : Packet) : Statement (.gleanerTrigger p) := fun h _ hq => Option.some.inj hq ▸ h
theorem mirrorSet (p : Packet) : Statement (.mirrorSet p) := fun h _ hq => Option.some.inj hq ▸ h
theorem stookSet (p : Packet) : Statement (.stookSet p) := fun h _ hq => Option.some.inj hq ▸ h
theorem counterSelect (p : Packet) : Statement (.counterSelect p) := fun h _ hq => Option.some.inj hq ▸ h
theorem stookNow (p : Packet) : Statement (.stookNow p) := fun h _ hq => Option.some.inj hq ▸ h
theorem dramConfigure (p : Packet) : Statement (.dramConfigure p) := fun h _ hq => Option.some.inj hq ▸ h
theorem dramTrain (p : Packet) : Statement (.dramTrain p) := fun h _ hq => Option.some.inj hq ▸ h
theorem dramStatus (p : Packet) : Statement (.dramStatus p) := fun h _ hq => Option.some.inj hq ▸ h
theorem dramMapSet (p : Packet) : Statement (.dramMapSet p) := fun h _ hq => Option.some.inj hq ▸ h
theorem optionRead (p : Packet) : Statement (.optionRead p) := fun h _ hq => Option.some.inj hq ▸ h
theorem optionBurn (p : Packet) : Statement (.optionBurn p) := fun h _ hq => Option.some.inj hq ▸ h
theorem retainedRead (p : Packet) : Statement (.retainedRead p) := fun h _ hq => Option.some.inj hq ▸ h
theorem retainedWrite (p : Packet) : Statement (.retainedWrite p) := fun h _ hq => Option.some.inj hq ▸ h
theorem configDigest (p : Packet) : Statement (.configDigest p) := fun h _ hq => Option.some.inj hq ▸ h
theorem cpReload (p : Packet) : Statement (.cpReload p) := fun h _ hq => Option.some.inj hq ▸ h
theorem thermalStatus (p : Packet) : Statement (.thermalStatus p) := fun h _ hq => Option.some.inj hq ▸ h
theorem fallowMirrorRefresh : Statement (.fallowMirrorRefresh) := fun _ _ hq => nomatch hq
theorem irigOutFrame : Statement (.irigOutFrame) := fun _ _ hq => nomatch hq
theorem scheduledEventWake (p : Nat) : Statement (.scheduledEventWake p) := fun _ _ hq => nomatch hq
theorem gpioInputChange (n : Nat) (level : Bool) : Statement (.gpioInputChange n level) := fun _ _ hq => nomatch hq
theorem deepStorePllLockLoss : Statement (.deepStorePllLockLoss) := fun _ _ hq => nomatch hq
theorem verifyMpacketRx (p : Nat) : Statement (.verifyMpacketRx p) := fun _ _ hq => nomatch hq
theorem bedFallowStop (bed : Nat) : Statement (.bedFallowStop bed) := fun _ _ hq => nomatch hq
theorem referenceInputTimeout (tod : Bool) : Statement (.referenceInputTimeout tod) := fun _ _ hq => nomatch hq

end Sys2Proof.Laws.PacketForm
end

