-- ==== Sys2Proof/Laws/Serve.lean ====
section
/-! SUPPORT. What serving a packet comes to once it passes the checks of R61: the reply of its row on the state that its body gives. -/

namespace Sys2Proof.Machine

variable {chk8 : Packet → Session → State → Option (Nat × Nat)} {c : CmdSpec} {body : Packet → State → CmdResult} {p : Packet} {s t : State}
  {reply : List Byte}

theorem serve_of_accepts (h : acceptsBy chk8 c p s = true) :
    serve c chk8 body p s = finish c (asked c p) (body (asked c p) (reached c p s)) (reached c p s) := by
  simp only [acceptsBy, Bool.and_eq_true, Bool.not_eq_true', Option.isNone_iff_eq_none] at h
  obtain ⟨⟨⟨⟨⟨⟨⟨⟨⟨⟨h1, h0⟩, h2⟩, h3⟩, h4⟩, h5⟩, h6⟩, h7⟩, -⟩, h10⟩, -⟩ := h
  have hb : behindOwn (asked c p) (reached c p s) = false := (Bool.or_eq_false_iff.mp h5).1
  have hc : ∀ r, withCorrected (asked c p) r = r := fun r => by
    have : ∀ t, corrected (asked c p) t = t := fun t => by
      show List.foldl _ _ p.fixed = t
      rw [List.isEmpty_iff.mp h10]; rfl
    cases r <;> simp only [withCorrected, this]
  unfold serve frontEnd
  simp only [reached, asked] at *
  simp only [hb, Bool.and_false, Bool.false_and, h0, h1, h2, h3, h4, h5, h6, h7, execute, hc, Bool.not_true, Bool.or_self, Bool.false_eq_true, if_false, if_true]

theorem finish_of_accepts {r : CmdResult} (h : acceptsBy chk8 c p s = true) (hr : ∀ off, r ≠ .badParam off) :
    finish c (asked c p) r (reached c p s) =
      match r with
      | .badParam _ => reached c p s
      | .refuse st d => respond (ticketFor c (asked c p)) 0x80 st d [] (reached c p s)
      | .conflict => respond (ticketFor c (asked c p)) 0x80 stStateConflict c.mask [] (reached c p s)
      | .ok reply s1 =>
        if c.opcode = 0x0101 then respond { ticketFor c (asked c p) with session := byteAt reply 8 } 0x80 stOk 0 reply s1
        else if 4080 < reply.length && (session (reached c p s) ((asked c p).session % 4)).verMajor < 3 then
          respond (ticketFor c (asked c p)) 0x80 stBadLength 0 [] (reached c p s)
        else respond (ticketFor c (asked c p)) 0x80 stOk 0 reply s1
      | .final st reply s1 => respond (ticketFor c (asked c p)) 0x80 st 0 reply s1
      | .accepted s1 => deferred c p s1 := by
  simp only [acceptsBy, Bool.and_eq_true, Bool.not_eq_true', Bool.or_eq_true, decide_eq_true_eq, beq_iff_eq] at h
  obtain ⟨⟨⟨-, h8⟩, -⟩, h9⟩ := h
  have hu : (asked c p).upset = false := h9
  have hb : (c.opcode != 257 && decide (256 ≤ othersOutstanding (reached c p s) (asked c p))) = false := by
    rcases h8 with h8 | h8
    · simp [h8]
    · simp; omega
  cases r with
  | badParam off => exact absurd rfl (hr off)
  | _ => simp only [finish, hb, hu, Bool.false_and, Bool.false_eq_true, if_false] <;> rfl

/-- A row whose body answers OK. -/
theorem serve_ok (h : acceptsBy chk8 c p s = true) (hb : body (asked c p) (reached c p s) = .ok reply t) (ho : c.opcode ≠ 0x0101)
    (hl : reply.length ≤ 4080) : serve c chk8 body p s = answered c p stOk reply t := by
  rw [serve_of_accepts h, hb, finish_of_accepts h (by intro; simp)]
  have : ¬ 4080 < reply.length := by omega
  simp [ho, this, answered]

theorem serve_final {st : Nat} (h : acceptsBy chk8 c p s = true) (hb : body (asked c p) (reached c p s) = .final st reply t) :
    serve c chk8 body p s = answered c p st reply t := by
  rw [serve_of_accepts h, hb, finish_of_accepts h (by intro; simp)]; rfl

/-- A row whose body answers ACCEPTED. -/
theorem serve_accepted (h : acceptsBy chk8 c p s = true) (hb : body (asked c p) (reached c p s) = .accepted t) :
    serve c chk8 body p s = deferred c p t := by
  rw [serve_of_accepts h, hb, finish_of_accepts h (by intro; simp)]

theorem serve_refuse {st d : Nat} (h : acceptsBy chk8 c p s = true) (hb : body (asked c p) (reached c p s) = .refuse st d) :
    serve c chk8 body p s = respond (ticketFor c (asked c p)) 0x80 st d [] (reached c p s) := by
  rw [serve_of_accepts h, hb, finish_of_accepts h (by intro; simp)]

/-! ## The command processor under a packet and its reply -/

/-- Reaching a packet changes only the idle time of its session. -/
theorem reached_cp (c : CmdSpec) (p : Packet) (s : State) : (reached c p s).cp = { s.cp with sessions := (reached c p s).cp.sessions } := by
  unfold reached touchSession; split <;> rfl

/-- A reply changes only the kept replies of a session. -/
theorem respond_cp (t : Ticket) (flags status detail : Nat) (b : List Byte) (s : State) :
    (respond t flags status detail b s).cp = { s.cp with sessions := (respond t flags status detail b s).cp.sessions } := by
  unfold respond; dsimp only
  split
  · rw [sendPackets_cp]
  · split
    · unfold keepReply; split
      · simp only [modSession, sendPackets_cp]
      · rw [sendPackets_cp]
    · rw [sendPackets_cp]

theorem session_touchSession (q : Packet) (s : State) (h : Rising s.cp.sessions = true) (k : Nat) :
    ∃ e, session (touchSession q s) k = { session s k with lastPacket := e } := by
  unfold touchSession
  split
  · simp only [session, modSession, tget_tmod _ h]
    split
    · rename_i hk; subst hk; exact ⟨_, rfl⟩
    · exact ⟨_, rfl⟩
  · exact ⟨(session s k).lastPacket, rfl⟩

end Sys2Proof.Machine
end

