-- ==== Sys2Proof/Tests/Slice0.lean ====
section
/-! SUPPORT. Small tests: ill-formed commands, and for each statement a state and operands that meet its hypotheses. -/

namespace Sys2Proof.Tests

set_option exponentiation.threshold 600
set_option Elab.async false
set_option linter.unusedVariables false

open Sys2Proof.Machine

/-! ## States and packets to test with -/

/-- A device that serves packets in a state (R58), with a session of privilege 2 open on SPI in slot 0. -/
def ready (st : Nat) : State :=
  { State.reset with
    dev := { State.reset.dev with state := st, relStep := 8 }
    clk := { State.reset.clk with coreRunning := true }
    cp := { State.reset.cp with
      running := true, serving := true, released := true
      sessions := [(0, { isOpen := true, gen := 1, endpoint := .spi, verMajor := 3, verMinor := 2, priv := 2, idle := 60 })] } }

/-- A packet of that session with its parameter block. -/
def ask (params : List Byte) : Packet :=
  { src := .spi, verMajor := 3, verMinor := 2, session := 4, tag := 7, paramLen := params.length, params := params }

/-- A ticket of that session's command. -/
def tick : Ticket := { src := .spi, session := 4, tag := 7, opcode := 0, verMajor := 3, verMinor := 2 }

/-- The same device with its PCIe link up. -/
def linked (st : Nat) : State := { ready st with pcie := { released := true, up := true } }

/-- Activation 1 of a program on a frame, and a device whose Tine 63 of Bed 15 runs it at an instruction word. -/
def act : Act := { uid := some 9, handle := 5, prog := 1, ns := 0, area := 0, seq := 1, slot := some 4095 }

def tined (a : Act) (w : Nat) : State :=
  { ready 4 with
    frames := [(9, { port := 63, bytes := zeros 80, rxDone := true })]
    fb := { (ready 4).fb with
      beds := [(7, { area0 := { loaded := true, code := toLE 4 w, consts := zeros 4, progs := [(1, { budget := 255 })] }, tines := [(63, a)] })] } }

/-- What a witness needs to show that no entry is found. -/
theorem no_some {α : Type} {o : Option α} {x : α} (h : o = some x) (n : o.isSome = false) : False := by
  rw [h] at n; cases n

theorem tmem_of_mem {α : Type} {t : Table α} {k : Nat} {v : α} (h : (k, v) ∈ t) : tmem t k = true := by
  induction t with
  | nil => cases h
  | cons x r ih =>
    obtain ⟨j, u⟩ := x
    unfold tmem tget?
    split
    · rfl
    · next hne =>
      rcases List.mem_cons.mp h with h | h
      · injection h with h1 h2; subst h1; simp at hne
      · exact ih h

/-- Tables that list n entries from a place. -/
def brim (v : TabEntry) (a n : Nat) : Table TabEntry := (List.range n).map (fun i => (a + i, v))

theorem brim_full (v : TabEntry) (a n i : Nat) (h : i < n) : tmem (brim v a n) (a + i) = true :=
  tmem_of_mem (v := v) (List.mem_map.mpr ⟨i, List.mem_range.mpr h, rfl⟩)

theorem find_none_of {α : Type} {l : List α} {p : α → Bool} (h : ∀ x ∈ l, p x = false) : l.find? p = none :=
  List.find?_eq_none.mpr (fun x hx => by simp [h x hx])

/-- A learning furrow whose bucket and overflow are full, and a stream table whose set and overflow are full. -/
def fullAddr : Tables :=
  { pend := [{ key := addrKey 4095 1, port := 63 }], tokens := 1250000, addr := brim {} (4 * bucketOf (addrKey 4095 1)) 4, ovf := brim {} 0 2048 }

def fullStreams : Tables := { strm := brim { kind := 2 } (4 * 62973) 4, ovf := brim { kind := 2 } 1024 1024 }

def learning : State := { ready 4 with fb := { (ready 4).fb with released := true, tab := fullAddr } }

def streaming : State := { ready 4 with fa := { (ready 4).fa with tab := fullStreams } }
theorem find_full (key : Nat) (h : key = addrKey 4095 1) (s : State) (t : Tables) (ht : t.addr = fullAddr.addr) (ho : t.ovf = fullAddr.ovf) : learnPlace s t key = none := by
  subst h
  have h1 : (List.range (ways s)).find? (fun w => !tmem t.addr (4 * bucketOf (addrKey 4095 1) + w)) = none := by
    refine find_none_of (fun w hw => ?_)
    have : w < 4 := by
      have := List.mem_range.mp hw
      unfold ways at this; split at this <;> omega
    rw [ht]
    simp [fullAddr, brim_full _ _ _ _ this]
  have h2 : (List.range 2048).find? (fun i => !tmem t.ovf i) = none := by
    refine find_none_of (fun w hw => ?_)
    rw [ho]
    have := brim_full {} 0 2048 w (List.mem_range.mp hw)
    simp only [Nat.zero_add] at this
    simp [fullAddr, this]
  unfold learnPlace
  simp only [h1, h2, Option.map_none]

theorem stream_full (s : State) (t : Tables) (x : Nat) (hx : setOf s x = 62973) (ht : t.strm = fullStreams.strm) (ho : t.ovf = fullStreams.ovf) :
    streamPlace s t x = none := by
  have h1 : (List.range 4).find? (fun w => !tmem t.strm (4 * setOf s x + w)) = none := by
    refine find_none_of (fun w hw => ?_)
    rw [ht, hx]; simp [fullStreams, brim_full _ _ _ _ (List.mem_range.mp hw)]
  have h2 : (List.range 1024).find? (fun i => !tmem t.ovf (1024 + i)) = none := by
    refine find_none_of (fun w hw => ?_)
    rw [ho]; simp [fullStreams, brim_full _ _ _ _ (List.mem_range.mp hw)]
  have h3 : (List.range 1024).find? (fun i => match tget? t.ovf (1024 + i) with | some e => e.kind == 1 && !e.static | none => false) = none := by
    refine find_none_of (fun w hw => ?_)
    rw [ho]
    have hm : ∀ y ∈ fullStreams.ovf, y.2.kind = 2 := by
      intro y hy; simp only [fullStreams, brim, List.mem_map] at hy; obtain ⟨i, _, rfl⟩ := hy; rfl
    have hg : ∀ (l : Table TabEntry) k e, (∀ y ∈ l, y.2.kind = 2) → tget? l k = some e → e.kind = 2 := by
      intro l k e; induction l with
      | nil => intro _ h; cases h
      | cons y r ih =>
        intro hy h; unfold tget? at h; split at h
        · cases h; exact hy _ (List.mem_cons_self ..)
        · exact ih (fun z hz => hy z (List.mem_cons_of_mem _ hz)) h
    split
    · next e he => simp [hg _ _ _ hm he]
    · rfl
  unfold streamPlace
  simp only [h1, h2]
  exact congrArg (Option.map (fun i => ovfBase + 1024 + i)) h3

theorem all_some {α : Type} {o : Option α} {P : α → Prop} (x : α) (e : o = some x) (p : P x) : ∀ c, o = some c → P c := by
  intro c h; rw [e] at h; injection h with h; exact h ▸ p

/-- What an existence needs whose last part names the rest of a pair. -/
theorem ex_pair {α β : Type} {A : Prop} {x : α × β} {a : α} (hA : A) (h : x.1 = a) : ∃ b, A ∧ x = (a, b) := ⟨x.2, hA, Prod.ext h rfl⟩

theorem ex_pair3 {α β : Type} {A B : Prop} {x : α × β} {a : α} (hA : A) (h : x.1 = a) (hB : B) : ∃ b, A ∧ x = (a, b) ∧ B := ⟨x.2, hA, Prod.ext h rfl, hB⟩

theorem ex_pair4 {α β : Type} {A B C : Prop} {x : α × β} {a : α} (hA : A) (hB : B) (hC : C) (h : x.1 = a) : ∃ b, A ∧ B ∧ C ∧ x = (a, b) :=
  ⟨x.2, hA, hB, hC, Prod.ext h rfl⟩

/-- The IRIG symbols of the first day's second 1. -/
def symbols : List Nat := (List.range 100).map (fun i => if irigMarker i then 2 else if i = 30 || i = 1 then 1 else 0)

/-- A message of the arbiter's link. -/
def arbiter (ty : Nat) (l : List Byte) : List Byte :=
  [0xA5, BitVec.ofNat 8 ty, BitVec.ofNat 8 l.length] ++ l ++ toLE 2 (crc16 ([BitVec.ofNat 8 ty, BitVec.ofNat 8 l.length] ++ l))

/-- A TOD message of a traceable second. -/
def todMessage : List Byte :=
  let l : List Byte := [1, 15] ++ zeros 8 ++ [4] ++ zeros 6
  [0xC3] ++ l ++ toLE 2 (crc16 l)

/-! ## For each statement with hypotheses: for each of its clauses, a state and operands that meet them -/

theorem test_EveryStepKeepsTheDeviceWellFormed :
    (∃ (s t : State), State.wf s = true ∧ step s = .next t) :=
  ⟨ready 4, _, by decide +kernel, rfl⟩

theorem test_BurntBitsAndIdentityAreNeverChanged :
    (∃ (s t : State) (g i : Nat), State.wf s = true ∧ step s = .next t ∧ (tget {} s.nv.gens g).rec0.testBit i = true ∧ (tget {} s.nv.gens g).rec1.testBit i = true ∧ (tget {} s.nv.gens g).rec2.testBit i = true ∧ (tget {} s.nv.gens g).row0.testBit i = true ∧ (tget {} s.nv.gens g).row1.testBit i = true ∧ (tget {} s.nv.gens g).row2.testBit i = true) :=
  ⟨{ ready 4 with nv := { (ready 4).nv with gens := [(7, { rec0 := 2 ^ 127, rec1 := 2 ^ 127, rec2 := 2 ^ 127, row0 := 2 ^ 127, row1 := 2 ^ 127, row2 := 2 ^ 127 })] } }, _, 7, 127, by decide +kernel, rfl, by decide +kernel⟩

theorem test_CommandsLeaveTheQueueInOrder :
    (∃ (c : Instr) (s t : State), State.wf s = true ∧ exec c s = .next t) ∧
    (∃ (s t : State), State.wf s = true ∧ step s = .next t ∧ s.pending = [.vbakLow, .pcieLinkDown]) :=
  ⟨⟨.vbakLow, ready 4, _, by decide +kernel, rfl⟩,
   ⟨{ ready 4 with pending := [.vbakLow, .pcieLinkDown] }, _, by decide +kernel, rfl, rfl⟩⟩

theorem test_SessionsOpenInTheLowestFreeSlot :
    (∃ (p : Packet) (s : State) (v k : Nat),
      let r := reached specOpenSession p s
      let b := p.params
      accepts specOpenSession p s = true ∧ byteAt b 5 = 0 ∧ le b 6 2 ≤ 3600 ∧ (le b 6 2 ≠ 0 ∨ transportCode p.src = 1) ∧ versions.find? (fun v => byteAt b 0 * 256 + byteAt b 1 ≤ v && v ≤ byteAt b 2 * 256 + byteAt b 3) = some v ∧ (∀ j, j < 4 → ¬((session r j).isOpen = true ∧ (session r j).endpoint = p.src)) ∧ freeSlot r = some k ∧ (byteAt b 4 ≤ 1 ∨ (byteAt b 4 = 2 ∧ lockedOut r = false ∧ sha256 (slice b 8 16) / 2 ^ 128 = optMaint r))) :=
  ⟨{ ask ([3, 2, 3, 2, 1, 0, 60] ++ zeros 17) with src := .inband 63 1, session := 0 }, ready 4, 0x0302, 1, by decide +kernel⟩

theorem test_ReadingTheDeviceChangesNothing :
    (∃ (p : Packet) (s : State), accepts specGetState p s = true) ∧
    (∃ (p : Packet) (s : State), accepts specGetIdentity p s = true) ∧
    (∃ (p : Packet) (s : State), accepts specEcho p s = true) ∧
    (∃ (p : Packet) (s : State), accepts specConfigDigest p s = true) ∧
    (∃ (s : State) (n : Nat), (nPorts s ≤ n ∨ (port s n).cfg.configured = false)) ∧
    (∃ (p : Packet) (s : State), accepts specThermalStatus p s = true) :=
  ⟨⟨ask [], ready 4, by decide +kernel⟩,
   ⟨ask [], ready 4, by decide +kernel⟩,
   ⟨ask (zeros 4), ready 4, by decide +kernel⟩,
   ⟨ask [], ready 4, by decide +kernel⟩,
   ⟨ready 4, 0, by decide +kernel⟩,
   ⟨ask [], ready 4, by decide +kernel⟩⟩

theorem test_SessionsCloseAndReloadsRun :
    (∃ (p : Packet) (s : State), accepts specCloseSession p s = true) ∧
    (∃ (k : Nat) (s : State), State.wf s = true ∧ k < 4 ∧ (session s k).closing = true ∧ (unwritten s (sessionId s k) (session s k).endpoint).any closesSession = false ∧ (∀ j, j < 4 → j ≠ k → (session s j).closing = false)) ∧
    (∃ (k : Nat) (s : State), s.clk.coreStopped = false ∧ k < 4 ∧ (session s k).isOpen = true ∧ (session s k).idle ≠ 0) ∧
    (∃ (e : Nat) (s : State), s.clk.coreStopped = false ∧ s.cp.lockUntil = some e) ∧
    (∃ (p : Packet) (s : State),
      let r := reached specCpReload p s
      accepts specCpReload p s = true ∧ s.cp.halted = false ∧ (∀ k, k < 4 → slotBusy r k = false) ∧ (∀ q ∈ r.cp.waiting, q.opcode = 0x0101)) ∧
    (∃ (p : Packet) (s : State),
      let r := reached specCpReload p s
      serving s = true ∧ s.cp.halted = true ∧ s.cp.reloadAsked = false ∧ frontCheck specCpReload (asked specCpReload p) r = none) ∧
    (∃ (a b : Option (List Byte)) (s : State), s.clk.coreStopped = false ∧ s.cp.reloading = true) :=
  ⟨⟨ask [], ready 4, by decide +kernel⟩,
   ⟨0, { ready 4 with cp := { (ready 4).cp with sessions := [(0, { isOpen := true, gen := 1, closing := true })] } }, by decide +kernel⟩,
   ⟨0, ready 4, by decide +kernel⟩,
   ⟨5, { ready 4 with cp := { (ready 4).cp with lockUntil := some 5 } }, by decide +kernel⟩,
   ⟨ask [], ready 4, by decide +kernel⟩,
   ⟨ask [], { ready 4 with cp := { (ready 4).cp with running := false, halted := true } }, by decide +kernel⟩,
   ⟨none, none, { ready 4 with cp := { (ready 4).cp with running := false, reloading := true } }, by decide +kernel⟩⟩

theorem test_SetStateFollowsItsTable :
    (∃ (p : Packet) (s : State),
      let r := reached specSetState p s
      let goal := byteAt p.params 0
      let pr := byteAt p.params 1
      acceptsBy checkTransition specSetState p s = true ∧ s.dev.retrain = none ∧ reservedAt p.params 2 2 = true ∧ goal = r.dev.state ∧ pr = 0) ∧
    (∃ (p : Packet) (s : State),
      let r := reached specSetState p s
      let goal := byteAt p.params 0
      let pr := byteAt p.params 1
      acceptsBy checkTransition specSetState p s = true ∧ s.dev.retrain = none ∧ reservedAt p.params 2 2 = true ∧ r.dev.state = 3 ∧ goal = 3 ∧ pr ≠ 0) ∧
    (∃ (p : Packet) (s : State),
      let r := reached specSetState p s
      let goal := byteAt p.params 0
      acceptsBy checkTransition specSetState p s = true ∧ s.dev.retrain = none ∧ reservedAt p.params 2 2 = true ∧ r.dev.state = 3 ∧ goal = 4) ∧
    (∃ (p : Packet) (s : State),
      let r := reached specSetState p s
      let goal := byteAt p.params 0
      acceptsBy checkTransition specSetState p s = true ∧ s.dev.retrain = none ∧ reservedAt p.params 2 2 = true ∧ r.dev.state = 4 ∧ goal = 5) ∧
    (∃ (p : Packet) (s : State),
      let r := reached specSetState p s
      let goal := byteAt p.params 0
      acceptsBy checkTransition specSetState p s = true ∧ s.dev.retrain = none ∧ reservedAt p.params 2 2 = true ∧ r.dev.state = 5 ∧ goal = 4 ∧ r.nv.burn = none ∧ r.imgLoad = none ∧ r.deep.training = none) ∧
    (∃ (p : Packet) (s : State),
      let r := reached specSetState p s
      let goal := byteAt p.params 0
      acceptsBy checkTransition specSetState p s = true ∧ s.dev.retrain = none ∧ reservedAt p.params 2 2 = true ∧ (r.dev.state = 3 ∨ r.dev.state = 4 ∨ r.dev.state = 5) ∧ goal = 6) ∧
    (∃ (p : Packet) (s : State),
      let r := reached specSetState p s
      let goal := byteAt p.params 0
      acceptsBy checkTransition specSetState p s = true ∧ s.dev.retrain = none ∧ reservedAt p.params 2 2 = true ∧ (r.dev.state = 4 ∨ r.dev.state = 6) ∧ goal = 3) ∧
    (∃ (s : State), s.dev.retrain = none) ∧
    (∃ (p : Packet) (x : Session) (s : State),
      let goal := byteAt p.params 0
      let pr := byteAt p.params 1
      goal = s.dev.state ∧ pr = 0) ∧
    (∃ (p : Packet) (x : Session) (s : State),
      let goal := byteAt p.params 0
      let pr := byteAt p.params 1
      let legal := (s.dev.state = 3 ∧ (pr = 0 ∧ (goal = 4 ∨ goal = 6) ∨ (pr = 1 ∨ pr = 2) ∧ goal = 3)) ∨
        (s.dev.state = 4 ∧ pr = 0 ∧ (goal = 3 ∨ goal = 5 ∨ goal = 6)) ∨ (s.dev.state = 5 ∧ pr = 0 ∧ (goal = 4 ∨ goal = 6)) ∨
        (s.dev.state = 6 ∧ s.dev.safeCause = 1 ∧ pr = 0 ∧ goal = 3)
      (¬(goal = s.dev.state ∧ pr = 0)) ∧ (¬legal)) ∧
    (∃ (p : Packet) (x : Session) (s : State),
      let goal := byteAt p.params 0
      let pr := byteAt p.params 1
      let legal := (s.dev.state = 3 ∧ (pr = 0 ∧ (goal = 4 ∨ goal = 6) ∨ (pr = 1 ∨ pr = 2) ∧ goal = 3)) ∨
        (s.dev.state = 4 ∧ pr = 0 ∧ (goal = 3 ∨ goal = 5 ∨ goal = 6)) ∨ (s.dev.state = 5 ∧ pr = 0 ∧ (goal = 4 ∨ goal = 6)) ∨
        (s.dev.state = 6 ∧ s.dev.safeCause = 1 ∧ pr = 0 ∧ goal = 3)
      legal ∧ x.priv < 2 ∧ (goal = 5 ∨ s.dev.state = 6)) ∧
    (∃ (p : Packet) (x : Session) (s : State),
      let goal := byteAt p.params 0
      let pr := byteAt p.params 1
      let legal := (s.dev.state = 3 ∧ (pr = 0 ∧ (goal = 4 ∨ goal = 6) ∨ (pr = 1 ∨ pr = 2) ∧ goal = 3)) ∨
        (s.dev.state = 4 ∧ pr = 0 ∧ (goal = 3 ∨ goal = 5 ∨ goal = 6)) ∨ (s.dev.state = 5 ∧ pr = 0 ∧ (goal = 4 ∨ goal = 6)) ∨
        (s.dev.state = 6 ∧ s.dev.safeCause = 1 ∧ pr = 0 ∧ goal = 3)
      legal ∧ (2 ≤ x.priv ∨ (goal ≠ 5 ∧ s.dev.state ≠ 6))) :=
  ⟨⟨ask [3, 0, 0, 0], ready 3, by decide +kernel⟩,
   ⟨ask [3, 2, 0, 0], ready 3, by decide +kernel⟩,
   ⟨ask [4, 0, 0, 0], ready 3, by decide +kernel⟩,
   ⟨ask [5, 0, 0, 0], ready 4, by decide +kernel⟩,
   ⟨ask [4, 0, 0, 0], ready 5, by decide +kernel⟩,
   ⟨ask [6, 0, 0, 0], ready 5, by decide +kernel⟩,
   ⟨ask [3, 0, 0, 0], ready 4, by decide +kernel⟩,
   ⟨ready 4, by decide +kernel⟩,
   ⟨ask [4, 0, 0, 0], { priv := 2 }, ready 4, by decide +kernel⟩,
   ⟨ask [5, 0, 0, 0], { priv := 2 }, ready 3, by decide +kernel⟩,
   ⟨ask [5, 0, 0, 0], { priv := 1 }, ready 4, by decide +kernel⟩,
   ⟨ask [6, 0, 0, 0], { priv := 1 }, ready 5, by decide +kernel⟩⟩

theorem test_ResetClearsTheDevice :
    (∃ (ns k part : Nat) (s : State), 20 ≤ ns) ∧
    (∃ (ns k part : Nat) (s : State), ns < 5) ∧
    (∃ (ns k part : Nat) (s : State), 5 ≤ ns ∧ ns < 20) ∧
    (∃ (k part : Nat) (nv : NonVolatile), nv.burn = none) :=
  ⟨⟨20, 0, 0, ready 4, by decide +kernel⟩,
   ⟨4, 0, 0, ready 4, by decide +kernel⟩,
   ⟨5, 0, 0, ready 4, by decide +kernel⟩,
   ⟨0, 0, {}, by decide +kernel⟩⟩

theorem test_ReleaseRunsStepByStep :
    (∃ (bypass test : Bool) (bad : List Nat) (s : State), relReady s 0 = true) ∧
    (∃ (s : State), relReady s 1 = true) ∧
    (∃ (s : State), relReady s 2 = true) ∧
    (∃ (s : State), relReady s 3 = true) ∧
    (∃ (a b : Option (List Byte)) (s : State), relReady s 4 = true ∧ s.cp.halted = false ∧ (bootChoice a b s).1 ≠ 3) ∧
    (∃ (s : State), relReady s 5 = true) ∧
    (∃ (s : State), relReady s 6 = true ∧ s.ret.descs = [] ∧ s.deep.ch0.state ≠ 1 ∧ s.deep.ch1.state ≠ 1) ∧
    (∃ (s : State), s.dev.relStopped = false ∧ (s.dev.relStep = 1 ∨ s.dev.relStep = 3)) :=
  ⟨⟨false, false, [], { ready 0 with dev := { (ready 0).dev with relStep := 0 } }, by decide +kernel⟩,
   ⟨{ ready 0 with dev := { (ready 0).dev with relStep := 1 } }, by decide +kernel⟩,
   ⟨{ ready 0 with dev := { (ready 0).dev with relStep := 2 } }, by decide +kernel⟩,
   ⟨{ ready 0 with dev := { (ready 0).dev with relStep := 3 } }, by decide +kernel⟩,
   ⟨some ([0x43, 0x50, 0x46, 0x57, 0, 0, 0, 0, 4] ++ zeros 59 ++ toBE 32 0x51590b7a515140d2d784c85608668fdfef8c82fd1f5be52421554a0dc3d033ed ++ toBE 32 0xe0c17da8904a727d8ae1bf36bf8a79260d012f00d4d80888d1d0bb44fda16da4 ++ toBE 32 0x8e533b6fa0bf7b4625bb30667c01fb607ef9f8b8a80fef5b300628703187b2a3 ++ toBE 32 0xe70c9177374fe48664b915fdde4325ad89c45794a94bcffbd607e80be8f71c6f), none, { { ready 0 with dev := { (ready 0).dev with relStep := 4 } } with opt := { (ready 0).opt with row := 0x2db9dde21110dc9f1c8aee68e7adb48907460072e13742a05a2d71340958f1dc * 2 ^ 240 } }, by decide +kernel⟩,
   ⟨{ ready 0 with dev := { (ready 0).dev with relStep := 5 } }, by decide +kernel⟩,
   ⟨{ ready 0 with dev := { (ready 0).dev with relStep := 6 } }, by decide +kernel⟩,
   ⟨{ ready 0 with dev := { (ready 0).dev with relStep := 3 } }, by decide +kernel⟩⟩

theorem test_ClockAndSupplyLossesTakeEffect :
    (∃ (s : State), s.dev.relStep ≠ 0 ∧ s.clk.xtalOk = true) ∧
    (∃ (s : State), s.clk.lockSh = true) ∧
    (∃ (s : State), s.clk.coreStopped = true) ∧
    (∃ (s : State), s.clk.coreStopped = true) ∧
    (∃ (s : State), s.clk.coreStopped = true) ∧
    (∃ (s : State), s.clk.coreStopped = true) ∧
    (∃ (s : State), s.clk.coreStopped = true) ∧
    (∃ (s : State), s.clk.coreStopped = true) ∧
    (∃ (s : State), s.clk.coreStopped = true) ∧
    (∃ (s : State), s.clk.coreStopped = true) ∧
    (∃ (s : State), s.clk.lockFa = true) ∧
    (∃ (s : State), s.clk.lockFb = true) ∧
    (∃ (s : State), s.clk.lockHl = true) ∧
    (∃ (s : State), 6 ≤ s.dev.relStep ∧ s.hl.running = true ∧ bit s.hl.alarmsA 4 = false) ∧
    (∃ (s : State), 6 ≤ s.dev.relStep ∧ s.hl.running = true ∧ bit s.hl.alarmsB 4 = false) ∧
    (∃ (rail : Nat) (s : State), rail < 8 ∧ s.dev.relStep ≠ 0 ∧ limited (0x3CB + 1024 * rail) secE s = false) ∧
    (∃ (s : State), s.dev.relStep ≠ 0 ∧ limited 0x3CC secE s = false) ∧
    (∃ (f : Furrow) (s : State), furState s (furNo f) = 1 ∧ powered s (furNo f) = true) ∧
    (∃ (s : State), s.clk.lockDs = true ∧ s.clk.coreStopped = true) ∧
    (∃ (s : State), s.clk.lockDs = true ∧ s.clk.coreStopped = false) :=
  ⟨⟨{ ready 4 with clk := { (ready 4).clk with xtalOk := true } }, by decide +kernel⟩,
   ⟨{ ready 4 with clk := { (ready 4).clk with lockSh := true } }, by decide +kernel⟩,
   ⟨{ ready 4 with clk := { (ready 4).clk with coreStopped := true } }, by decide +kernel⟩,
   ⟨{ ready 4 with clk := { (ready 4).clk with coreStopped := true } }, by decide +kernel⟩,
   ⟨{ ready 4 with clk := { (ready 4).clk with coreStopped := true } }, by decide +kernel⟩,
   ⟨{ ready 4 with clk := { (ready 4).clk with coreStopped := true } }, by decide +kernel⟩,
   ⟨{ ready 4 with clk := { (ready 4).clk with coreStopped := true } }, by decide +kernel⟩,
   ⟨{ ready 4 with clk := { (ready 4).clk with coreStopped := true } }, by decide +kernel⟩,
   ⟨{ ready 4 with clk := { (ready 4).clk with coreStopped := true } }, by decide +kernel⟩,
   ⟨{ ready 4 with clk := { (ready 4).clk with coreStopped := true } }, by decide +kernel⟩,
   ⟨{ ready 4 with clk := { (ready 4).clk with lockFa := true } }, by decide +kernel⟩,
   ⟨{ ready 4 with clk := { (ready 4).clk with lockFb := true } }, by decide +kernel⟩,
   ⟨{ ready 4 with clk := { (ready 4).clk with lockHl := true } }, by decide +kernel⟩,
   ⟨{ ready 4 with hl := { (ready 4).hl with running := true } }, by decide +kernel⟩,
   ⟨{ ready 4 with hl := { (ready 4).hl with running := true } }, by decide +kernel⟩,
   ⟨7, ready 4, by decide +kernel⟩,
   ⟨ready 4, by decide +kernel⟩,
   ⟨.b, { ready 4 with hl := { (ready 4).hl with stateB := 1 } }, by decide +kernel⟩,
   ⟨{ ready 4 with clk := { (ready 4).clk with coreStopped := true, lockDs := true } }, by decide +kernel⟩,
   ⟨{ ready 4 with clk := { (ready 4).clk with lockDs := true } }, by decide +kernel⟩⟩

theorem test_SensorsLinksAndWakesTakeEffect :
    (∃ (temps : List Int) (mv : List Nat) (s : State), temps.length = 8 ∧ Canon 0 s.therm.sensors = true) ∧
    (∃ (enable mask : Bool) (s : State), s.pcie.released = true) ∧
    (∃ (s : State), (∀ v, v < 64 → bit s.win.pba v = true → vecMasked s v = true)) ∧
    (∃ (s : State), s.pcie.up = true) ∧
    (∃ (s : State), s.pcie.released = true ∧ s.pcie.perst = false ∧ s.pcie.up = false) ∧
    (∃ (k : Nat) (s : State), s.clk.coreStopped = false ∧ k < 4 ∧ bit s.slices.requested k = true) ∧
    (∃ (k d : Nat) (s : State), s.clk.coreStopped = false ∧ k < 12 ∧ bit s.slices.running k = true ∧ sliceDelay s k = some d) ∧
    (∃ (n : Nat) (s : State), s.clk.coreStopped = false ∧ n < 16 ∧ bit s.slices.bedClocks n = false ∧ powered s (bedFur n) = true ∧ (bed s n).queue ≠ []) ∧
    (∃ (n : Nat) (s : State), s.clk.coreStopped = false ∧ bit s.slices.bedClocks n = true ∧ (bed s n).queue = [] ∧ (bed s n).tines = [] ∧ bedInline (bed s n) = false) ∧
    (∃ (f : Furrow) (d : Nat) (s : State), s.clk.coreStopped = false ∧ (if furNo f = 0 then s.slices.coreA else s.slices.coreB) = false ∧ decides s (furNo f) = true ∧ earliest s (furNo f) = some d) ∧
    (∃ (p : Nat) (s : State), ∃ e, s.clk.coreStopped = false ∧ nextScheduled s p = some e) ∧
    (∃ (p : Nat) (s : State), s.clk.coreStopped = false ∧ nextScheduled s p = none) ∧
    (∃ (s : State), s.dev.relStep ≠ 0) ∧
    (∃ (mem loc kind n : Nat) (s : State), mem < 33 ∧ (n = 1 ∨ n = 2) ∧ s.clk.coreStopped = false ∧ (∀ f, islandOf mem = some f → powered s f = true)) :=
  ⟨⟨[0, 0, 0, 0, 0, 0, 0, 0], [], ready 4, by decide +kernel⟩,
   ⟨true, false, { ready 4 with pcie := { (ready 4).pcie with released := true } }, by decide +kernel⟩,
   ⟨{ ready 4 with win := { (ready 4).win with pba := 1, msix := [(3, 1)] } }, by decide +kernel⟩,
   ⟨{ ready 4 with pcie := { (ready 4).pcie with released := true, up := true } }, by decide +kernel⟩,
   ⟨{ ready 4 with pcie := { (ready 4).pcie with released := true } }, by decide +kernel⟩,
   ⟨3, { ready 4 with slices := { (ready 4).slices with requested := 8 } }, by decide +kernel⟩,
   ⟨11, 50, { ready 4 with slices := { (ready 4).slices with running := 2048 } }, by decide +kernel⟩,
   ⟨15, { ready 4 with fb := { (ready 4).fb with beds := [(7, { queue := [{ uid := none, handle := 65535, prog := 1, ns := 0, area := 0, seq := 1 }] })] } }, by decide +kernel⟩,
   ⟨15, { ready 4 with slices := { (ready 4).slices with bedClocks := 32768 } }, by decide +kernel⟩,
   ⟨.b, 77, { ready 4 with fb := { (ready 4).fb with released := true, beds := [(7, { deadlines := [(0, 77)] })] } }, by decide +kernel⟩,
   ⟨63, { ready 4 with ports := [(63, { drill := { active := some { base := 0, cycle := 1000, entries := [(0xFF, 1000)] } } })] }, _, ⟨rfl, rfl⟩⟩,
   ⟨3, { ready 4 with slices := { (ready 4).slices with requested := 8 } }, by decide +kernel⟩,
   ⟨ready 4, by decide +kernel⟩,
   ⟨31, 0, 0, 2, ready 4, by decide +kernel⟩⟩

theorem test_LinksComeUpAndGoDown :
    (∃ (p speed m : Nat) (headers : List Nat) (sync : Bool) (step : Nat) (s : State), s.clk.coreStopped = false ∧
      let x := port s p
      let s1 := modLane m (fun x => { laneHears (modeOf s p) true sync headers 0 x with step := if x.fixed || x.frozen then x.step else step }) s
      x.cfg.configured = true ∧ forwarding s = true ∧ (x.link.phase = 2 ∨ x.link.phase = 3) ∧ x.link.heldDown = false ∧ m ∈ lanesOf s p ∧ portLocked s1 p = true ∧ phyMode x.cfg.mode = false ∧ x.link.rxUp = false) ∧
    (∃ (p m ber : Nat) (phy signal sync : Bool) (headers : List Nat) (s : State), s.clk.coreStopped = false ∧ p < nPorts s) ∧
    (∃ (p m ber : Nat) (phy signal sync : Bool) (headers : List Nat) (s : State), s.clk.coreStopped = false ∧ p < nPorts s ∧ m ∈ lanesOf s p) ∧
    (∃ (p speed m : Nat) (headers : List Nat) (sync : Bool) (step : Nat) (s : State), s.clk.coreStopped = false ∧
      let x := port s p
      let s1 := modLane m (fun x => { laneHears (modeOf s p) true sync headers 0 x with step := if x.fixed || x.frozen then x.step else step }) s
      x.cfg.configured = true ∧ forwarding s = true ∧ (x.link.phase = 2 ∨ x.link.phase = 3) ∧ x.link.heldDown = false ∧ m ∈ lanesOf s p ∧ portLocked s1 p = false) ∧
    (∃ (p : Nat) (s : State), s.clk.coreStopped = false ∧ (port s p).link.phase = 5 ∧ mayStart s p = true) ∧
    (∃ (p mask : Nat) (s : State), s.clk.coreStopped = false ∧ (port s p).link.phase = 1) ∧
    (∃ (p mask : Nat) (s : State), s.clk.coreStopped = false ∧ (port s p).link.phase = 1) ∧
    (∃ (p mask : Nat) (s : State), ∃ code, s.clk.coreStopped = false ∧ (port s p).link.phase = 1 ∧ code ≠ 0x4F5) ∧
    (∃ (p : Nat) (s : State), s.clk.coreStopped = false ∧
      let l := (port s p).link
      l.phase = 2 ∧ l.rxUp = false ∧ stepping (port s p).cfg = true ∧ l.failReported = false ∧ l.chosen = 0) ∧
    (∃ (p : Nat) (s : State), s.clk.coreStopped = false ∧ (port s p).link.phase = 4 ∧ mayStart s p = true) ∧
    (∃ (p : Nat) (status : Option Nat) (s : State), ∃ v, s.clk.coreStopped = false ∧ (port s p).cfg.configured = true ∧ (port s p).link.enabled = true ∧ phyMode (port s p).cfg.mode = true ∧ bit v 2 = true) ∧
    (∃ (p : Nat) (status : Option Nat) (s : State), ∃ v, s.clk.coreStopped = false ∧ (port s p).cfg.configured = true ∧ (port s p).link.enabled = true ∧ phyMode (port s p).cfg.mode = true ∧ bit v 2 = false) ∧
    (∃ (p : Nat) (status : Option Nat) (s : State), s.clk.coreStopped = false ∧ (port s p).cfg.configured = true ∧ (port s p).link.enabled = true ∧ phyMode (port s p).cfg.mode = true) ∧
    (∃ (m n : Nat) (s : State), s.clk.coreStopped = false ∧ n ≠ 0 ∧ (lane s m).lock = true ∧
      let w := (lane s m).errs.filter (fun e => decide (s.clk.edges < e.1 + msE)) ++ [(s.clk.edges, n)]
      (w.map (·.2)).sum ≤ 32) ∧
    (∃ (m n : Nat) (s : State), s.clk.coreStopped = false ∧ n ≠ 0 ∧ (lane s m).lock = true ∧
      let w := (lane s m).errs.filter (fun e => decide (s.clk.edges < e.1 + msE)) ++ [(s.clk.edges, n)]
      let p := (portsOfLane s m).headD m
      let s1 := modLane m (fun x => { x with errs := w }) (macCtr (laneCtrPort s p) 21 n s)
      32 < (w.map (·.2)).sum ∧ portsOfLane s1 m = [p] ∧ (∀ e ∈ (port s1 p).link.retrains, e + secE ≤ s1.clk.edges)) ∧
    (∃ (m n : Nat) (s : State), s.clk.coreStopped = false ∧ (lane s m).fixed = false ∧ n * 20 < (lane s m).density * 1024) ∧
    (∃ (m n step : Nat) (s : State), s.clk.coreStopped = false ∧ (lane s m).frozen = true) ∧
    (∃ (p c u y : Nat) (s : State), s.clk.coreStopped = false ∧ (port s p).link.runFec = 0) ∧
    (∃ (p c u y : Nat) (s : State), s.clk.coreStopped = false ∧ (port s p).link.runFec ≠ 0 ∧ u = 0 ∧ c ≤ (port s p).cfg.fecLimit) ∧
    (∃ (p c u y : Nat) (s : State), s.clk.coreStopped = false ∧ (port s p).link.runFec ≠ 0 ∧ (port s p).link.fecArmed = true ∧ (u ≠ 0 ∨ (port s p).cfg.fecLimit < c)) ∧
    (∃ (m height width errors : Nat) (k : Ticket) (s : State), s.clk.coreStopped = false ∧ (lane s m).eye = some k) :=
  ⟨⟨63, 0, 63, [], true, 6, { ready 4 with ports := [(63, { cfg := { configured := true, mode := 1 }, link := { phase := 2 } })] }, by decide +kernel⟩,
   ⟨0, 0, 0, true, false, false, [], ready 4, by decide +kernel⟩,
   ⟨0, 0, 0, true, false, false, [], ready 4, by decide +kernel⟩,
   ⟨63, 0, 63, [], false, 6, { ready 4 with ports := [(63, { cfg := { configured := true, mode := 1 }, link := { phase := 3, rxUp := true } })] }, by decide +kernel⟩,
   ⟨63, { ready 4 with ports := [(63, { cfg := { configured := true, mode := 1 }, link := { enabled := true, phase := 5 } })] }, by decide +kernel⟩,
   ⟨63, 0, { ready 4 with ports := [(63, { cfg := { configured := true, mode := 1 }, link := { enabled := true, phase := 1 } })] }, by decide +kernel⟩,
   ⟨63, 0, { ready 4 with ports := [(63, { cfg := { configured := true, mode := 1 }, link := { enabled := true, phase := 1 } })] }, by decide +kernel⟩,
   ⟨63, 6, { ready 4 with ports := [(63, { link := { phase := 1 } })] }, 16, by decide +kernel⟩,
   ⟨63, { ready 4 with ports := [(63, { cfg := { configured := true, mode := 2, bringup := 1 }, link := { enabled := true, phase := 2 } })] }, by decide +kernel⟩,
   ⟨63, { ready 4 with ports := [(63, { cfg := { configured := true, mode := 1 }, link := { enabled := true, phase := 4 } })] }, by decide +kernel⟩,
   ⟨63, none, { ready 4 with ports := [(63, { cfg := { configured := true, mode := 3 }, link := { enabled := true } })] }, 4, by decide +kernel⟩,
   ⟨63, none, { ready 4 with ports := [(63, { cfg := { configured := true, mode := 3 }, link := { enabled := true } })] }, 0, by decide +kernel⟩,
   ⟨63, none, { ready 4 with ports := [(63, { cfg := { configured := true, mode := 3 }, link := { enabled := true } })] }, by decide +kernel⟩,
   ⟨63, 32, { ready 4 with lanes := [(63, { lock := true })] }, by decide +kernel⟩,
   ⟨63, 33, { ready 4 with lanes := [(63, { lock := true })] }, by decide +kernel⟩,
   ⟨63, 0, { ready 4 with ports := [(63, { cfg := { configured := true, mode := 1 }, link := { enabled := true, phase := 1 } })] }, by decide +kernel⟩,
   ⟨63, 0, 7, { ready 4 with lanes := [(63, { lock := true, frozen := true })] }, by decide +kernel⟩,
   ⟨0, 0, 0, 0, ready 4, by decide +kernel⟩,
   ⟨63, 20, 0, 1, { ready 4 with ports := [(63, { cfg := { configured := true, mode := 8, fecLimit := 20 }, link := { runFec := 1 } })] }, by decide +kernel⟩,
   ⟨63, 0, 1, 0, { ready 4 with ports := [(63, { cfg := { configured := true, mode := 8 }, link := { runFec := 1 } })] }, by decide +kernel⟩,
   ⟨63, 0, 0, 0, tick, { ready 4 with lanes := [(63, { eye := some tick })] }, by decide +kernel⟩⟩

theorem test_PortCommandsTakeEffect :
    (∃ (p : Packet) (s : State),
      let r := reached specPortConfigure p s
      let n := byteAt p.params 0
      accepts specPortConfigure p s = true ∧ firstBad (portChecks r p.params) = none ∧ (port r n).link.enabled = false ∧ laneOwners r n (byteAt p.params 1) = [] ∧ ¬((port r n).cfg.configured = true ∧ (port r n).cfg.mode = 5) ∧ byteAt p.params 1 ≠ 5) ∧
    (∃ (p : Packet) (s : State),
      let r := reached specPortConfigure p s
      let n := byteAt p.params 0
      accepts specPortConfigure p s = true ∧ firstBad (portChecks r p.params) = none ∧ (port r n).link.enabled = false ∧ laneOwners r n (byteAt p.params 1) = [] ∧ ¬((port r n).cfg.configured = true ∧ (port r n).cfg.mode = 5) ∧ byteAt p.params 1 = 5 ∧ n % 4 = 0) ∧
    (∃ (p : Packet) (s : State),
      let r := reached specPortEnable p s
      let n := byteAt p.params 0
      accepts specPortEnable p s = true ∧ portExists r n = true ∧ byteAt p.params 1 < 2 ∧ reservedAt p.params 2 2 = true ∧ (port r n).cfg.configured = true) ∧
    (∃ (p : Packet) (s : State),
      let r := reached specPortStatus p s
      let n := byteAt p.params 0
      accepts specPortStatus p s = true ∧ portExists r n = true ∧ reservedAt p.params 1 3 = true ∧ (port r n).cfg.configured = false) ∧
    (∃ (p : Packet) (s : State),
      let r := reached specPortStatus p s
      let n := byteAt p.params 0
      accepts specPortStatus p s = true ∧ portExists r n = true ∧ reservedAt p.params 1 3 = true ∧ (port r n).cfg.configured = true) ∧
    (∃ (p : Packet) (s : State),
      let r := reached specLaneTune p s
      let b := p.params
      let m := byteAt b 0
      accepts specLaneTune p s = true ∧ laneExists r m = true ∧ laneUsed_ r m = true ∧ byteAt b 1 < 2 ∧ byteAt b 2 < 16 ∧ 1 ≤ byteAt b 3 ∧ byteAt b 3 ≤ 10 ∧ byteAt b 4 ≤ 16 ∧ 32 ≤ byteAt b 5 ∧ byteAt b 5 ≤ 64 ∧ byteAt b 6 ≤ 24 ∧ byteAt b 4 + byteAt b 5 + byteAt b 6 ≤ 64 ∧ reservedAt b 7 5 = true) ∧
    (∃ (p : Packet) (s : State),
      let r := reached specLaneEye p s
      let m := byteAt p.params 0
      accepts specLaneEye p s = true ∧ laneExists r m = true ∧ 1 ≤ byteAt p.params 1 ∧ byteAt p.params 1 ≤ 100 ∧ reservedAt p.params 2 2 = true ∧ (lane r m).eye = none) ∧
    (∃ (p : Packet) (s : State),
      let r := reached specMacFilterSet p s
      let b := p.params
      let n := byteAt b 0
      accepts specMacFilterSet p s = true ∧ portExists r n = true ∧ byteAt b 1 < 4 ∧ byteAt b 2 < 2 ∧ reservedAt b 3 1 = true ∧ reservedAt b 10 2 = true) ∧
    (∃ (p : Packet) (s : State),
      let r := reached specMacStatsRead p s
      let b := p.params
      let n := byteAt b 0
      accepts specMacStatsRead p s = true ∧ portExists r n = true ∧ byteAt b 1 < 50 ∧ 1 ≤ byteAt b 2 ∧ byteAt b 1 + byteAt b 2 ≤ 50 ∧ byteAt b 3 < 2 ∧ reservedAt b 4 4 = true) :=
  ⟨⟨ask ([63, 8, 1, 0, 1, 0, 238, 5, 10, 0, 0, 0, 0, 0, 0, 0, 7, 7, 10, 0, 250, 198, 136, 0, 1, 0] ++ zeros 22), ready 3, by decide +kernel⟩,
   ⟨ask ([60, 5, 0, 0, 1, 0, 238, 5, 10, 0, 0, 0, 0, 0, 0, 0, 7, 7, 10, 0, 250, 198, 136, 0, 1, 0] ++ zeros 22), ready 3, by decide +kernel⟩,
   ⟨ask [63, 1, 0, 0], { ready 3 with ports := [(63, { cfg := { configured := true, mode := 1 } })] }, by decide +kernel⟩,
   ⟨ask [63, 0, 0, 0], ready 4, by decide +kernel⟩,
   ⟨ask [63, 0, 0, 0], { ready 4 with ports := [(63, { cfg := { configured := true, mode := 1 } })] }, by decide +kernel⟩,
   ⟨ask ([63, 1, 15, 10, 16, 32, 16] ++ zeros 5), { ready 3 with ports := [(63, { cfg := { configured := true, mode := 1 } })] }, by decide +kernel⟩,
   ⟨ask [63, 100, 0, 0], ready 4, by decide +kernel⟩,
   ⟨ask ([63, 3, 1] ++ zeros 9), ready 3, by decide +kernel⟩,
   ⟨ask ([63, 49, 1] ++ zeros 5), ready 4, by decide +kernel⟩⟩

theorem test_ModulesComeGoAndAreMeasured :
    (∃ (k : Nat) (s : State), s.clk.coreStopped = false ∧ k < 8 ∧ (master s k).faulted = false) ∧
    (∃ (k : Nat) (s : State), s.clk.coreStopped = false ∧ (master s k).faulted = true) ∧
    (∃ (m i : Nat) (mux : Bool) (s : State), s.clk.coreStopped = false ∧ m < nPorts s ∧
      let s1 := masterStart (m / 8) mux s
      cageServed s1 m = false) ∧
    (∃ (m i : Nat) (mux : Bool) (s : State), s.clk.coreStopped = false ∧ m < nPorts s ∧
      let s1 := masterStart (m / 8) mux s
      let s2 := match (module s1 m).polledAt with | some e => reachEdge (e + secE) s1 | none => s1
      let t := i2cOp m (emitOut (.i2cRead m 0x50 0 1)) (modModule m (fun x => { x with polledAt := some s2.clk.edges }) s2)
      cageServed s1 m = true ∧ (module t m).present = false) ∧
    (∃ (m i : Nat) (mux : Bool) (s : State), s.clk.coreStopped = false ∧ m < nPorts s ∧
      let s1 := masterStart (m / 8) mux s
      let s2 := match (module s1 m).polledAt with | some e => reachEdge (e + secE) s1 | none => s1
      let t := i2cOp m (emitOut (.i2cRead m 0x50 0 1)) (modModule m (fun x => { x with polledAt := some s2.clk.edges }) s2)
      cageServed s1 m = true ∧ (module t m).present = true) ∧
    (∃ (m : Nat) (cleared : Bool) (identity external slot0 slot1 : List Byte) (s : State), s.clk.coreStopped = false ∧
      let x := module s m
      x.present = true ∧ x.ready = false ∧ x.tracked = true ∧ (master s (m / 8)).faulted = false) ∧
    (∃ (m temp vcc : Nat) (bias tx rx : List Nat) (alarms : Nat) (s : State), s.clk.coreStopped = false ∧
      let x := module s m
      let u := creditModule m (reachEdge (x.countedAt + secE) s)
      x.present = true ∧ x.ready = true ∧ (bit x.ledger.flags 2 = true ∨ (master u (m / 8)).faulted = true)) ∧
    (∃ (m temp vcc : Nat) (bias tx rx : List Nat) (alarms : Nat) (s : State), s.clk.coreStopped = false ∧
      let x := module s m
      let u := creditModule m (reachEdge (x.countedAt + secE) s)
      x.present = true ∧ x.ready = true ∧ bit x.ledger.flags 2 = false ∧ (master u (m / 8)).faulted = false) :=
  ⟨⟨7, ready 4, by decide +kernel⟩,
   ⟨7, { ready 4 with i2c := [(7, { faulted := true })] }, by decide +kernel⟩,
   ⟨63, 0, false, ready 4, by decide +kernel⟩,
   ⟨63, 0, true, ready 4, by decide +kernel⟩,
   ⟨63, 0, true, { ready 4 with mods := [(63, { present := true })] }, by decide +kernel⟩,
   ⟨63, true, [], [], [], [], { ready 4 with mods := [(63, { present := true, tracked := true })] }, by decide +kernel⟩,
   ⟨63, 0, 0, [], [], [], 0, { ready 4 with mods := [(63, { present := true, ready := true, ledger := { flags := 4 } })] }, by decide +kernel⟩,
   ⟨63, 0, 0, [], [], [], 0, { ready 4 with mods := [(63, { present := true, ready := true })] }, by decide +kernel⟩⟩

theorem test_TransceiverLedgersAreReadAndWritten :
    (∃ (m : Nat) (s : State), s.clk.coreStopped = false ∧ (module s m).present = true ∧ (module s m).hasRecord = true ∧ (module s m).write = none ∧ ((module s m).state = 1 ∨ (module s m).state = 2)) ∧
    (∃ (m : Nat) (back : Option (List Byte)) (s : State) (w : LedgerWrite), s.clk.coreStopped = false ∧ (module s m).write = some w ∧ w.jobs = [] ∧
      let rec_ := w.record
      (master s (m / 8)).faulted = false ∧ back = some (ledgerBytes rec_) ∧ w.job.ticket = none) ∧
    (∃ (m : Nat) (back : Option (List Byte)) (s : State) (w : LedgerWrite), ∃ k, s.clk.coreStopped = false ∧ (module s m).write = some w ∧ w.jobs = [] ∧
      let rec_ := w.record
      (master s (m / 8)).faulted = false ∧ back = some (ledgerBytes rec_) ∧ w.job.ticket = some k ∧ w.job.kind = 1) ∧
    (∃ (m : Nat) (back : Option (List Byte)) (s : State) (w : LedgerWrite), ∃ k, s.clk.coreStopped = false ∧ (module s m).write = some w ∧ w.jobs = [] ∧
      let rec_ := w.record
      (master s (m / 8)).faulted = false ∧ back = some (ledgerBytes rec_) ∧ w.job.ticket = some k ∧ w.job.kind = 2) ∧
    (∃ (m : Nat) (back : Option (List Byte)) (s : State) (w : LedgerWrite), s.clk.coreStopped = false ∧ (module s m).write = some w ∧ w.jobs = [] ∧
      let rec_ := w.record
      ((master s (m / 8)).faulted = true ∨ back ≠ some (ledgerBytes rec_)) ∧ w.job.ticket = none) ∧
    (∃ (m : Nat) (back : Option (List Byte)) (s : State) (w : LedgerWrite), ∃ k, s.clk.coreStopped = false ∧ (module s m).write = some w ∧ w.jobs = [] ∧
      let rec_ := w.record
      ((master s (m / 8)).faulted = true ∨ back ≠ some (ledgerBytes rec_)) ∧ w.job.ticket = some k ∧ w.job.kind = 1) ∧
    (∃ (m : Nat) (back : Option (List Byte)) (s : State) (w : LedgerWrite), ∃ k, s.clk.coreStopped = false ∧ (module s m).write = some w ∧ w.jobs = [] ∧
      let rec_ := w.record
      ((master s (m / 8)).faulted = true ∨ back ≠ some (ledgerBytes rec_)) ∧ w.job.ticket = some k ∧ w.job.kind = 2) ∧
    (∃ (p : Packet) (s : State) (d : List Byte),
      let r := reached specXcvrRead p s
      let b := p.params
      let c := cageOf r (byteAt b 0)
      let n := byteAt b 4
      let a := byteAt b 1
      accepts specXcvrRead p s = true ∧ laneExists r (byteAt b 0) = true ∧ (a = 0x50 ∨ a = 0x51) ∧ 1 ≤ n ∧ n ≤ 128 ∧ byteAt b 3 + n ≤ 256 ∧ reservedAt b 5 3 = true ∧ (master r (c / 8)).faulted = false ∧ (module r c).present = true ∧ (module r c).tracked = true ∧ p.ext = some d ∧ byteAt b 2 = 0xFF) ∧
    (∃ (p : Packet) (s : State) (d : List Byte),
      let r := reached specXcvrRead p s
      let b := p.params
      let c := cageOf r (byteAt b 0)
      let n := byteAt b 4
      let a := byteAt b 1
      accepts specXcvrRead p s = true ∧ laneExists r (byteAt b 0) = true ∧ (a = 0x50 ∨ a = 0x51) ∧ 1 ≤ n ∧ n ≤ 128 ∧ byteAt b 3 + n ≤ 256 ∧ reservedAt b 5 3 = true ∧ (master r (c / 8)).faulted = false ∧ (module r c).present = true ∧ (module r c).tracked = true ∧ p.ext = some d ∧ byteAt b 2 ≠ 0xFF) ∧
    (∃ (p : Packet) (s : State),
      let r := reached specXcvrLedgerRead p s
      let b := p.params
      let c := cageOf r (byteAt b 0)
      let x := module r c
      accepts specXcvrLedgerRead p s = true ∧ laneExists r (byteAt b 0) = true ∧ reservedAt b 1 7 = true ∧ (master r (c / 8)).faulted = false ∧ x.present = true ∧ x.tracked = true) ∧
    (∃ (p : Packet) (s : State),
      let r := reached specXcvrLedgerWrite p s
      let b := p.params
      let c := cageOf r (byteAt b 0)
      let x := module r c
      accepts specXcvrLedgerWrite p s = true ∧ laneExists r (byteAt b 0) = true ∧ byteAt b 1 < 2 ∧ reservedAt b 2 6 = true ∧ (master r (c / 8)).faulted = false ∧ x.present = true ∧ x.tracked = true ∧ (byteAt b 1 = 1 ∨ (x.state ≠ 3 ∧ x.state ≠ 4))) ∧
    (∃ (p : Packet) (s : State),
      let r := reached specXcvrLedgerWrite p s
      let b := p.params
      let c := cageOf r (byteAt b 0)
      let x := module r c
      accepts specXcvrLedgerWrite p s = true ∧ laneExists r (byteAt b 0) = true ∧ byteAt b 1 < 2 ∧ reservedAt b 2 6 = true ∧ x.present = true ∧ x.tracked = true ∧ byteAt b 1 = 0 ∧ (x.state = 3 ∨ x.state = 4)) ∧
    (∃ (p : Packet) (s : State),
      let r := reached specXcvrRetire p s
      let b := p.params
      let c := cageOf r (byteAt b 0)
      let x := module r c
      accepts specXcvrRetire p s = true ∧ laneExists r (byteAt b 0) = true ∧ reservedAt b 3 5 = true ∧ (master r (c / 8)).faulted = false ∧ x.present = true ∧ x.tracked = true ∧ byteAt b 1 = 1) ∧
    (∃ (p : Packet) (s : State),
      let r := reached specXcvrRetire p s
      let b := p.params
      let c := cageOf r (byteAt b 0)
      let x := module r c
      accepts specXcvrRetire p s = true ∧ laneExists r (byteAt b 0) = true ∧ reservedAt b 3 5 = true ∧ (master r (c / 8)).faulted = false ∧ x.present = true ∧ x.tracked = true ∧ byteAt b 1 = 0) :=
  ⟨⟨63, { ready 4 with mods := [(63, { present := true, tracked := true, ready := true, state := 2, hasRecord := true })] }, by decide +kernel⟩,
   ⟨63, some (ledgerBytes {}), { ready 4 with mods := [(63, { present := true, tracked := true, write := some { slot := 0, record := {}, job := { kind := 0, fresh := false, ticket := none } } })] }, { slot := 0, record := {}, job := { kind := 0, fresh := false, ticket := none } }, by decide +kernel⟩,
   ⟨63, some (ledgerBytes {}), { ready 4 with mods := [(63, { present := true, tracked := true, write := some { slot := 0, record := {}, job := { kind := 1, fresh := false, ticket := some tick } } })] }, { slot := 0, record := {}, job := { kind := 1, fresh := false, ticket := some tick } }, tick, by decide +kernel⟩,
   ⟨63, some (ledgerBytes {}), { ready 4 with mods := [(63, { present := true, tracked := true, write := some { slot := 0, record := {}, job := { kind := 2, fresh := false, ticket := some tick } } })] }, { slot := 0, record := {}, job := { kind := 2, fresh := false, ticket := some tick } }, tick, by decide +kernel⟩,
   ⟨63, none, { ready 4 with mods := [(63, { present := true, tracked := true, write := some { slot := 0, record := {}, job := { kind := 0, fresh := false, ticket := none } } })] }, { slot := 0, record := {}, job := { kind := 0, fresh := false, ticket := none } }, by decide +kernel⟩,
   ⟨63, none, { ready 4 with mods := [(63, { present := true, tracked := true, write := some { slot := 0, record := {}, job := { kind := 1, fresh := false, ticket := some tick } } })] }, { slot := 0, record := {}, job := { kind := 1, fresh := false, ticket := some tick } }, tick, by decide +kernel⟩,
   ⟨63, none, { ready 4 with mods := [(63, { present := true, tracked := true, write := some { slot := 0, record := {}, job := { kind := 2, fresh := false, ticket := some tick } } })] }, { slot := 0, record := {}, job := { kind := 2, fresh := false, ticket := some tick } }, tick, by decide +kernel⟩,
   ⟨{ ask [63, 81, 255, 255, 1, 0, 0, 0] with ext := some [9] }, { ready 4 with mods := [(63, { present := true, tracked := true, ready := true, state := 2 })] }, [9], by decide +kernel⟩,
   ⟨{ ask [63, 81, 0, 255, 1, 0, 0, 0] with ext := some [9] }, { ready 4 with mods := [(63, { present := true, tracked := true, ready := true, state := 2 })] }, [9], by decide +kernel⟩,
   ⟨ask ([63] ++ zeros 7), { ready 4 with mods := [(63, { present := true, tracked := true, ready := true, state := 2 })] }, by decide +kernel⟩,
   ⟨ask ([63, 1] ++ zeros 6), { ready 3 with mods := [(63, { present := true, tracked := true, ready := true, state := 2 })] }, by decide +kernel⟩,
   ⟨ask ([63, 0] ++ zeros 6), { ready 4 with mods := [(63, { present := true, tracked := true, ready := true, state := 3 })] }, by decide +kernel⟩,
   ⟨ask ([63, 1] ++ zeros 6), { ready 3 with mods := [(63, { present := true, tracked := true, ready := true, state := 2 })] }, by decide +kernel⟩,
   ⟨ask ([63, 0] ++ zeros 6), { ready 3 with mods := [(63, { present := true, tracked := true, ready := true, state := 2 })] }, by decide +kernel⟩⟩

theorem test_DoorbellsAndRingControlTakeEffect :
    (∃ (k be v : Nat) (s : State), k < 4 ∧ windowUp s = true ∧ s.clk.coreStopped = false ∧ v < (ring s k).cmdSize.toNat) ∧
    (∃ (k be v : Nat) (s : State), k < 4 ∧ windowUp s = true ∧ s.clk.coreStopped = false ∧ (ring s k).cmdSize.toNat ≤ v) ∧
    (∃ (k be v : Nat) (s : State), k < 4 ∧ windowUp s = true ∧ s.clk.coreStopped = false ∧ contiguous be = true ∧ be ≠ 0xF) ∧
    (∃ (k be v : Nat) (s : State), k < 4 ∧ windowUp s = true ∧ s.clk.coreStopped = false ∧ v < (ring s k).rplSize.toNat) ∧
    (∃ (k be v : Nat) (s : State), k < 4 ∧ windowUp s = true ∧ s.clk.coreStopped = false ∧ (ring s k).rplSize.toNat ≤ v) ∧
    (∃ (k v : Nat) (s : State), k < 4 ∧ windowUp s = true ∧ s.clk.coreStopped = false ∧ (ring s k).enable = false) ∧
    (∃ (k v : Nat) (s : State), k < 4 ∧ windowUp s = true ∧ s.clk.coreStopped = false ∧ (ring s k).enable = true) ∧
    (∃ (be v : Nat) (s : State), windowUp s = true ∧ s.clk.coreStopped = false ∧ v < s.hfr.tx.cmdSize.toNat) ∧
    (∃ (be v : Nat) (s : State), windowUp s = true ∧ s.clk.coreStopped = false ∧ s.hfr.tx.cmdSize.toNat ≤ v) ∧
    (∃ (be v : Nat) (s : State), windowUp s = true ∧ s.clk.coreStopped = false ∧ contiguous be = true ∧ be ≠ 0xF) ∧
    (∃ (be v : Nat) (s : State), windowUp s = true ∧ s.clk.coreStopped = false ∧ v < s.hfr.rx.rplSize.toNat) ∧
    (∃ (be v : Nat) (s : State), windowUp s = true ∧ s.clk.coreStopped = false ∧ s.hfr.rx.rplSize.toNat ≤ v) ∧
    (∃ (on : Bool) (s : State), windowUp s = true ∧ s.clk.coreStopped = false) :=
  ⟨⟨3, 15, 4095, { linked 4 with rings := [(3, { cmdSize := 4096, rplSize := 4096 })] }, by decide +kernel⟩,
   ⟨3, 15, 4096, { linked 4 with rings := [(3, { cmdSize := 4096, rplSize := 4096 })] }, by decide +kernel⟩,
   ⟨3, 3, 0, { linked 4 with rings := [(3, { cmdSize := 4096, rplSize := 4096 })] }, by decide +kernel⟩,
   ⟨3, 15, 4095, { linked 4 with rings := [(3, { cmdSize := 4096, rplSize := 4096 })] }, by decide +kernel⟩,
   ⟨3, 15, 4096, { linked 4 with rings := [(3, { cmdSize := 4096, rplSize := 4096 })] }, by decide +kernel⟩,
   ⟨3, 0, { linked 4 with rings := [(3, { cmdSize := 4096, rplSize := 4096 })] }, by decide +kernel⟩,
   ⟨3, 0, { linked 4 with rings := [(3, { enable := true })] }, by decide +kernel⟩,
   ⟨15, 15, { linked 4 with hfr := { (linked 4).hfr with tx := { cmdSize := 16 }, rx := { rplSize := 16 } } }, by decide +kernel⟩,
   ⟨15, 16, { linked 4 with hfr := { (linked 4).hfr with tx := { cmdSize := 16 }, rx := { rplSize := 16 } } }, by decide +kernel⟩,
   ⟨3, 0, { linked 4 with hfr := { (linked 4).hfr with tx := { cmdSize := 16 }, rx := { rplSize := 16 } } }, by decide +kernel⟩,
   ⟨15, 15, { linked 4 with hfr := { (linked 4).hfr with tx := { cmdSize := 16 }, rx := { rplSize := 16 } } }, by decide +kernel⟩,
   ⟨15, 16, { linked 4 with hfr := { (linked 4).hfr with tx := { cmdSize := 16 }, rx := { rplSize := 16 } } }, by decide +kernel⟩,
   ⟨false, { linked 4 with hfr := { (linked 4).hfr with tx := { cmdSize := 16 }, rx := { rplSize := 16 } } }, by decide +kernel⟩⟩

theorem test_WindowReadsReturnAndClear :
    (∃ (r be : Nat) (s : State), r < 32 ∧ windowUp s = true ∧ contiguous be = true) ∧
    (∃ (r be : Nat) (s : State), r < 32 ∧ windowUp s = true ∧ contiguous be = true ∧ Canon 0 s.win.status = true) ∧
    (∃ (r be : Nat) (s : State), ∃ q, r < 32 ∧ windowUp s = true ∧ contiguous be = true ∧ Canon 0 s.win.status = true ∧ q ≠ r) ∧
    (∃ (k be : Nat) (s : State), k < 4 ∧ windowUp s = true ∧ contiguous be = true) ∧
    (∃ (be : Nat) (s : State), windowUp s = true ∧ contiguous be = true) ∧
    (∃ (off be : Nat) (s : State), windowUp s = true) :=
  ⟨⟨31, 15, linked 4, by decide +kernel⟩,
   ⟨31, 1, linked 4, by decide +kernel⟩,
   ⟨31, 15, linked 4, 0, by decide +kernel⟩,
   ⟨3, 15, linked 4, by decide +kernel⟩,
   ⟨15, linked 4, by decide +kernel⟩,
   ⟨0, 0, linked 4, by decide +kernel⟩⟩

theorem test_WindowWritesChangeTheirRegister :
    (∃ (r be v : Nat) (s : State), r < 32 ∧ windowUp s = true ∧ s.clk.coreStopped = false ∧ contiguous be = true) ∧
    (∃ (v : Nat) (m : Bool) (s : State), v < 64 ∧ windowUp s = true ∧ s.clk.coreStopped = false) ∧
    (∃ (be v0 : Nat) (s : State), windowUp s = true ∧ s.clk.coreStopped = false ∧ contiguous be = true ∧
      let v := merge be s.jr.consumer v0
      let fine := s.jr.enable && decide (v < jSize s) && decide ((v + jSize s - s.jr.consumer) % jSize s ≤ jUnread s)
      fine = true) ∧
    (∃ (be v0 : Nat) (s : State), windowUp s = true ∧ s.clk.coreStopped = false ∧ contiguous be = true ∧
      let v := merge be s.jr.consumer v0
      let fine := s.jr.enable && decide (v < jSize s) && decide ((v + jSize s - s.jr.consumer) % jSize s ≤ jUnread s)
      fine = false) ∧
    (∃ (off be v : Nat) (s : State), windowUp s = true ∧ s.clk.coreStopped = false ∧ contiguous be = true ∧ (off < 0x100 ∨ (0x300 ≤ off ∧ off < 0x380) ∨ (0x500 ≤ off ∧ off < 0x1000) ∨ 0x1400 ≤ off)) ∧
    (∃ (k be v : Nat) (s : State), k < 4 ∧ windowUp s = true ∧ s.clk.coreStopped = false ∧ contiguous be = true) :=
  ⟨⟨31, 15, 1, linked 4, by decide +kernel⟩,
   ⟨63, false, linked 4, by decide +kernel⟩,
   ⟨15, 200, { linked 4 with jr := { (linked 4).jr with enable := true, sizeLog2 := 8, producer := 200, consumer := 100 } }, by decide +kernel⟩,
   ⟨15, 201, { linked 4 with jr := { (linked 4).jr with enable := true, sizeLog2 := 8, producer := 200, consumer := 100 } }, by decide +kernel⟩,
   ⟨0x1400, 15, 1, linked 4, by decide +kernel⟩,
   ⟨3, 15, 1, linked 4, by decide +kernel⟩⟩

theorem test_TransportsTakeTheirPackets :
    (∃ (n : Nat) (s : State) (d : List Byte) (rest : List (List Byte)), s.spi.replies = d :: rest) ∧
    (∃ (n : Nat) (s : State), s.spi.replies = []) ∧
    (∃ (m : List Byte) (upset : Bool) (ext : Option (List Byte)) (s : State), serving s = true ∧ spiReady s = true ∧ 16 ≤ m.length ∧ byteAt m 0 = 0x5A) ∧
    (∃ (m : List Byte) (upset : Bool) (ext : Option (List Byte)) (s : State), ∃ tr, serving s = true ∧ spiReady s = true ∧ tr < 2 ^ 32 ∧ tr ≠ crc32 m) ∧
    (∃ (m : List Byte) (upset : Bool) (ext : Option (List Byte)) (s : State), serving s = true ∧ spiReady s = false) ∧
    (∃ (k : Nat) (d : List Byte) (packet : Option (List Byte)) (upset : Bool) (ext : Option (List Byte)) (s : State), s.clk.coreStopped = false ∧
      let r := ring s k
      k < 4 ∧ serving s = true ∧ windowUp s = true ∧ r.enable = true ∧ r.cmdHead ≠ r.cmdTail ∧ r.rplHead ≠ r.rplTail ∧ r.held = []) ∧
    (∃ (k : Nat) (d : List Byte) (packet : Option (List Byte)) (upset : Bool) (ext : Option (List Byte)) (s : State), s.clk.coreStopped = false ∧
      let r := ring s k
      let n := le d 8 2
      k < 4 ∧ serving s = true ∧ windowUp s = true ∧ r.enable = true ∧ r.cmdHead ≠ r.cmdTail ∧ r.rplHead ≠ r.rplTail ∧ r.held = [] ∧ (n < 16 ∨ 4096 < n ∨ n % 4 ≠ 0)) ∧
    (∃ (k : Nat) (d : List Byte) (packet : Option (List Byte)) (upset : Bool) (ext : Option (List Byte)) (s : State), s.clk.coreStopped = false ∧
      let r := ring s k
      let n := le d 8 2
      k < 4 ∧ serving s = true ∧ windowUp s = true ∧ r.enable = true ∧ r.cmdHead ≠ r.cmdTail ∧ r.rplHead ≠ r.rplTail ∧ r.held = [] ∧ 16 ≤ n ∧ n ≤ 4096 ∧ n % 4 = 0) ∧
    (∃ (k : Nat) (d : List Byte) (packet : Option (List Byte)) (upset : Bool) (ext : Option (List Byte)) (s : State), ∃ b, s.clk.coreStopped = false ∧
      let r := ring s k
      let n := le d 8 2
      k < 4 ∧ serving s = true ∧ windowUp s = true ∧ r.enable = true ∧ r.cmdHead ≠ r.cmdTail ∧ r.rplHead ≠ r.rplTail ∧ r.held = [] ∧ 16 ≤ n ∧ n ≤ 4096 ∧ n % 4 = 0 ∧ byteAt (slice b 0 n) 0 = 0x5A) ∧
    (∃ (k : Nat) (d : List Byte) (packet : Option (List Byte)) (upset : Bool) (ext : Option (List Byte)) (s : State), ∃ b, s.clk.coreStopped = false ∧
      let r := ring s k
      let n := le d 8 2
      k < 4 ∧ serving s = true ∧ windowUp s = true ∧ r.enable = true ∧ r.cmdHead ≠ r.cmdTail ∧ r.rplHead ≠ r.rplTail ∧ r.held = [] ∧ 16 ≤ n ∧ n ≤ 4096 ∧ n % 4 = 0 ∧ byteAt (slice b 0 n) 0 ≠ 0x5A) :=
  ⟨⟨0, { ready 4 with spi := { (ready 4).spi with replies := [[0x5A, 1], [2]] } }, [0x5A, 1], [[2]], by decide +kernel⟩,
   ⟨0, ready 4, by decide +kernel⟩,
   ⟨[0x5A] ++ zeros 15, false, none, ready 4, by decide +kernel⟩,
   ⟨[0x5A] ++ zeros 15, false, none, ready 4, 0, by decide +kernel⟩,
   ⟨[], false, none, { ready 4 with spi := { (ready 4).spi with replies := List.replicate 16 [0x5A] } }, by decide +kernel⟩,
   ⟨3, zeros 8 ++ [20, 0] ++ zeros 6, some ([0x5A] ++ zeros 19), false, none, { linked 4 with rings := [(3, { enable := true, cmdSize := 16, rplSize := 16, cmdTail := 1, rplTail := 1 })] }, by decide +kernel⟩,
   ⟨3, zeros 8 ++ [1, 16] ++ zeros 6, some ([0x5A] ++ zeros 19), false, none, { linked 4 with rings := [(3, { enable := true, cmdSize := 16, rplSize := 16, cmdTail := 1, rplTail := 1 })] }, by decide +kernel⟩,
   ⟨3, zeros 8 ++ [20, 0] ++ zeros 6, some ([0x5A] ++ zeros 19), false, none, { linked 4 with rings := [(3, { enable := true, cmdSize := 16, rplSize := 16, cmdTail := 1, rplTail := 1 })] }, by decide +kernel⟩,
   ⟨3, zeros 8 ++ [20, 0] ++ zeros 6, some ([0x5A] ++ zeros 19), false, none, { linked 4 with rings := [(3, { enable := true, cmdSize := 16, rplSize := 16, cmdTail := 1, rplTail := 1 })] }, [0x5A] ++ zeros 19, by decide +kernel⟩,
   ⟨3, zeros 8 ++ [20, 0] ++ zeros 6, some ([0x5A] ++ zeros 19), false, none, { linked 4 with rings := [(3, { enable := true, cmdSize := 16, rplSize := 16, cmdTail := 1, rplTail := 1 })] }, zeros 20, by decide +kernel⟩⟩

theorem test_AFrameBeginsAtItsPort :
    (∃ (p : Nat) (b : List Byte) (s : State), s.clk.coreStopped = false ∧ State.wf s = true ∧ (port s p).link.rxUp = true ∧ (port s p).mac.rx = none) ∧
    (∃ (p v : Nat) (b : List Byte) (s : State), s.clk.coreStopped = false ∧ State.wf s = true ∧ (port s p).link.rxUp = true ∧ (port s p).mac.rx = some v ∧ (port s p).drill.pre.enable = true ∧ (port s p).mac.rxHeld = none) ∧
    (∃ (p : Nat) (b : List Byte) (s : State), s.clk.coreStopped = false ∧ ((port s p).link.rxUp = false ∨ ((port s p).mac.rx ≠ none ∧ ((port s p).drill.pre.enable = false ∨ (port s p).mac.rxHeld ≠ none)))) :=
  ⟨⟨63, zeros 14, { ready 4 with ports := [(63, { link := { rxUp := true } })] }, by decide +kernel⟩,
   ⟨63, 9, [], { ready 4 with frames := [(9, { port := 63, bytes := zeros 80 })], nextUid := 10, ports := [(63, { link := { rxUp := true }, mac := { rx := some 9 }, drill := { pre := { enable := true } } })] }, by decide +kernel⟩,
   ⟨0, [], ready 4, by decide +kernel⟩⟩

theorem test_FramesEndAndPausesEnd :
    (∃ (p u : Nat) (s : State), s.clk.coreStopped = false ∧
      let x := frame s u
      (port s p).mac.rx = some u ∧ x.own = 0 ∧ sliceUp s p = true ∧ x.limit < x.bytes.length) ∧
    (∃ (p u : Nat) (bad upset : Bool) (ext : Option (List Byte)) (s : State), s.clk.coreStopped = false ∧ (port s p).mac.rx = some u) ∧
    (∃ (p k e : Nat) (s : State), s.clk.coreStopped = false ∧ (pauseOf s p k).untilE = some e) ∧
    (∃ (p k e : Nat) (s : State), s.clk.coreStopped = false ∧ (pauseOf s p k).untilE = some e ∧
      let w := (port s p).cfg.pauseWatchdog
      w ≠ 0 ∧ (pauseOf s p k).waiting = false ∧ (pauseOf s p k).fromE + w * msE ≤ e) ∧
    (∃ (p k e : Nat) (s : State), s.clk.coreStopped = false ∧ (pauseOf s p k).ignore = some e) ∧
    (∃ (d b : List Byte) (body : Option (List Byte)) (s : State), s.clk.coreStopped = false ∧ s.hfr.txEnable = true ∧ windowUp s = true ∧ s.hfr.tx.cmdHead ≠ s.hfr.tx.cmdTail) ∧
    (∃ (d b : List Byte) (body : Option (List Byte)) (s : State), s.clk.coreStopped = false ∧ s.hfr.txEnable = true ∧ windowUp s = true ∧ s.hfr.tx.cmdHead ≠ s.hfr.tx.cmdTail ∧ txDescOk s d = false) ∧
    (∃ (d b : List Byte) (body : Option (List Byte)) (s : State), s.clk.coreStopped = false ∧ s.hfr.txEnable = true ∧ windowUp s = true ∧ s.hfr.tx.cmdHead ≠ s.hfr.tx.cmdTail ∧ txDescOk s d = true) :=
  ⟨⟨63, 9, { ready 4 with ports := [(63, { mac := { rx := some 9 } })], frames := [(9, { port := 63, bytes := zeros 80, limit := 64 })], slices := { running := 15 } }, by decide +kernel⟩,
   ⟨63, 9, false, false, none, { ready 4 with frames := [(9, { port := 63, bytes := zeros 80, due := 2 })], nextUid := 10, ports := [(63, { link := { rxUp := true }, mac := { rx := some 9 } })] }, by decide +kernel⟩,
   ⟨63, 7, 9, { ready 4 with ports := [(63, { mac := { pause := [(7, { untilE := some 9 })] } })] }, by decide +kernel⟩,
   ⟨63, 7, 12500000, { ready 4 with ports := [(63, { mac := { pause := [(7, { untilE := some 12500000 })] } })] }, by decide +kernel⟩,
   ⟨63, 7, 9, { ready 4 with ports := [(63, { mac := { pause := [(7, { ignore := some 9 })] } })] }, by decide +kernel⟩,
   ⟨[], [], none, { linked 4 with hfr := { (linked 4).hfr with txEnable := true, tx := { cmdSize := 16, cmdTail := 1 } } }, by decide +kernel⟩,
   ⟨[], [], some [], { linked 4 with hfr := { (linked 4).hfr with txEnable := true, tx := { cmdSize := 16, cmdTail := 1 } } }, by decide +kernel⟩,
   ⟨zeros 8 ++ [60, 0, 13, 63] ++ zeros 20, [], some (zeros 60), { linked 4 with hfr := { (linked 4).hfr with txEnable := true, tx := { cmdSize := 16, cmdTail := 1 } } }, by decide +kernel⟩⟩

theorem test_HarrowDecidesFramesAndFlipsBanks :
    (∃ (fu : Furrow) (u upset : Nat) (d : Decision) (s s1 : State), s.clk.coreStopped = false ∧
      let f := furNo fu
      let x := frame s u
      tmem s.frames u = true ∧ bit x.due f = true ∧ decides s f = true ∧ harrowDecide f x upset (reachEdge (decisionEdge s f x) s) = (some d, s1)) ∧
    (∃ (fu : Furrow) (u : Nat) (s : State), s.clk.coreStopped = false ∧
      let f := furNo fu
      let x := frame s u
      State.wf s = true ∧ x.rxDone = true ∧ x.rxCut = none ∧ bit x.endSeen f = false ∧ decOf x f = none ∧ bit x.due f = true) ∧
    (∃ (fu : Furrow) (u : Nat) (s : State), ∃ d, s.clk.coreStopped = false ∧
      let f := furNo fu
      let x := frame s u
      let s1 := modFrame u (fun x => { x with endSeen := setBit x.endSeen f true }) s
      let x1 := frame s1 u
      State.wf s = true ∧ x.rxDone = true ∧ x.rxCut = none ∧ bit x.endSeen f = false ∧ decOf x f = some d ∧ lateCase s1 f x1 d = none) ∧
    (∃ (fu : Furrow) (u : Nat) (s : State), ∃ d c, s.clk.coreStopped = false ∧
      let f := furNo fu
      let x := frame s u
      let s1 := modFrame u (fun x => { x with endSeen := setBit x.endSeen f true }) s
      let x1 := frame s1 u
      State.wf s = true ∧ x.rxDone = true ∧ x.rxCut = none ∧ bit x.endSeen f = false ∧ decOf x f = some d ∧ lateCase s1 f x1 d = some c) ∧
    (∃ (fu : Furrow) (s : State), s.clk.coreStopped = false) ∧
    (∃ (w : Swap) (s : State), s.clk.coreStopped = false ∧ s.swap = some w ∧ w.flippedAt = none) ∧
    (∃ (w : Swap) (t e : Nat) (s : State), s.clk.coreStopped = false ∧ s.swap = some w ∧ w.flippedAt = some (t, e)) :=
  ⟨⟨.b, 9, 0, (harrowDecide 1 (frame ({ ready 4 with frames := [(9, { port := 63, bytes := zeros 80, due := 2, kind := 0 })], nextUid := 10, fb := { (ready 4).fb with released := true } }) 9) 0 (reachEdge (decisionEdge ({ ready 4 with frames := [(9, { port := 63, bytes := zeros 80, due := 2, kind := 0 })], nextUid := 10, fb := { (ready 4).fb with released := true } }) 1 (frame ({ ready 4 with frames := [(9, { port := 63, bytes := zeros 80, due := 2, kind := 0 })], nextUid := 10, fb := { (ready 4).fb with released := true } }) 9)) ({ ready 4 with frames := [(9, { port := 63, bytes := zeros 80, due := 2, kind := 0 })], nextUid := 10, fb := { (ready 4).fb with released := true } }))).1.getD {}, { ready 4 with frames := [(9, { port := 63, bytes := zeros 80, due := 2, kind := 0 })], nextUid := 10, fb := { (ready 4).fb with released := true } }, (harrowDecide 1 (frame ({ ready 4 with frames := [(9, { port := 63, bytes := zeros 80, due := 2, kind := 0 })], nextUid := 10, fb := { (ready 4).fb with released := true } }) 9) 0 (reachEdge (decisionEdge ({ ready 4 with frames := [(9, { port := 63, bytes := zeros 80, due := 2, kind := 0 })], nextUid := 10, fb := { (ready 4).fb with released := true } }) 1 (frame ({ ready 4 with frames := [(9, { port := 63, bytes := zeros 80, due := 2, kind := 0 })], nextUid := 10, fb := { (ready 4).fb with released := true } }) 9)) ({ ready 4 with frames := [(9, { port := 63, bytes := zeros 80, due := 2, kind := 0 })], nextUid := 10, fb := { (ready 4).fb with released := true } }))).2, by decide +kernel⟩,
   ⟨.b, 9, { ready 4 with frames := [(9, { port := 63, bytes := zeros 80, due := 2, rxDone := true })], nextUid := 10 }, by decide +kernel⟩,
   ⟨.b, 9, { ready 4 with frames := [(9, { port := 63, bytes := zeros 80, due := 2, rxDone := true, decB := some {} })], nextUid := 10 }, {}, by decide +kernel⟩,
   ⟨.b, 9, { ready 4 with frames := [(9, { port := 63, bytes := zeros 12 ++ [0x89, 0x2F] ++ zeros 66, rxDone := true, decB := some {} })], nextUid := 10 }, {}, 3, by decide +kernel⟩,
   ⟨.b, ready 4, by decide +kernel⟩,
   ⟨{ tick := 1000000, ticket := tick }, { ready 4 with swap := some { tick := 1000000, ticket := tick } }, by decide +kernel⟩,
   ⟨{ tick := 1000000, ticket := tick, flippedAt := some (7, 8) }, 7, 8, { ready 4 with swap := some { tick := 1000000, ticket := tick, flippedAt := some (7, 8) } }, by decide +kernel⟩⟩

theorem test_HarrowLoadsGoToTheInactiveBank :
    (∃ (p : Packet) (s : State),
      let r := reached specHarrowStageLoad p s
      let b := p.params
      let n := byteAt b 0
      let kind := byteAt b 2
      let size := le b 8 4
      accepts specHarrowStageLoad p s = true ∧ r.swap = none ∧ reservedAt b 12 4 = true ∧ n < 8 ∧ byteAt b 1 = 0 ∧ kind ≤ 4 ∧ sizeLegal kind size = true ∧ segsOk kind (readSegs b) = true ∧ resultOk r (le b 48 16) = true ∧ poolFits r n kind size = true) ∧
    (∃ (p : Packet) (s : State),
      let r := reached specHarrowStageLoad p s
      let b := p.params
      let n := byteAt b 0
      let kind := byteAt b 2
      let count := byteAt b 3
      let first := le b 4 4
      let size := le b 8 4
      let ib := 1 - r.bankBit
      let cur := tget {} (bankOf r r.hl.lead ib).stages n
      let es := readEntries kind count b
      accepts specHarrowStageLoad p s = true ∧ r.swap = none ∧ reservedAt b 12 4 = true ∧ n < 8 ∧ byteAt b 1 = 1 ∧ 2 ≤ kind ∧ kind ≤ 4 ∧ kind = cur.kind ∧ count ≤ mostEntries kind ∧ first + count ≤ cur.size ∧ (kind = 3 → ∀ e ∈ es, e.key ≤ e.mask) ∧ (∀ e ∈ es, resultOk r e.result = true)) ∧
    (∃ (p : Packet) (s : State),
      let r := reached specHarrowStageLoad p s
      let b := p.params
      let n := byteAt b 0
      let kind := byteAt b 2
      let count := byteAt b 3
      let ib := 1 - r.bankBit
      let cur := tget {} (bankOf r r.hl.lead ib).stages n
      let es := readEntries kind count b
      accepts specHarrowStageLoad p s = true ∧ r.swap = none ∧ reservedAt b 12 4 = true ∧ n < 8 ∧ byteAt b 1 = 1 ∧ kind = 1 ∧ cur.kind = 1 ∧ count ≤ mostEntries 1 ∧ (∀ e ∈ es, resultOk r e.result = true) ∧ (writeAll es (some cur)).isSome = true) ∧
    (∃ (p : Packet) (s : State),
      let r := reached specHarrowStageLoad p s
      let b := p.params
      let n := byteAt b 0
      let kind := byteAt b 2
      let count := byteAt b 3
      let first := le b 4 4
      let size := le b 8 4
      let ib := 1 - r.bankBit
      let cur := tget {} (bankOf r r.hl.lead ib).stages n
      accepts specHarrowStageLoad p s = true ∧ r.swap = none ∧ reservedAt b 12 4 = true ∧ n < 8 ∧ byteAt b 1 = 2 ∧ 2 ≤ kind ∧ kind ≤ 4 ∧ kind = cur.kind ∧ first + count ≤ cur.size) ∧
    (∃ (p : Packet) (s : State),
      let r := reached specHarrowStageLoad p s
      let b := p.params
      let n := byteAt b 0
      let kind := byteAt b 2
      let count := byteAt b 3
      let ib := 1 - r.bankBit
      let cur := tget {} (bankOf r r.hl.lead ib).stages n
      let keys := (List.range count).map (fun i => le b (16 + 32 * i) 32)
      accepts specHarrowStageLoad p s = true ∧ r.swap = none ∧ reservedAt b 12 4 = true ∧ n < 8 ∧ byteAt b 1 = 2 ∧ kind = 1 ∧ cur.kind = 1 ∧ (∀ k ∈ keys, (findHash cur k).isSome = true)) ∧
    (∃ (p : Packet) (s : State),
      let r := reached specHarrowStageLoad p s
      let b := p.params
      let n := byteAt b 0
      let kind := byteAt b 2
      let size := le b 8 4
      let src := tget {} (bankOf r r.hl.lead r.bankBit).stages n
      accepts specHarrowStageLoad p s = true ∧ r.swap = none ∧ reservedAt b 12 4 = true ∧ n < 8 ∧ byteAt b 1 = 3 ∧ poolFits r n src.kind src.size = true) ∧
    (∃ (p : Packet) (s : State),
      let r := reached specHarrowStageLoad p s
      let b := p.params
      let n := byteAt b 0
      accepts specHarrowStageLoad p s = true ∧ r.swap = none ∧ reservedAt b 12 4 = true ∧ n = 0xFF ∧ byteAt b 1 = 0 ∧ badAction b = none ∧ 1 ≤ le b 48 2 ∧ le b 48 2 ≤ 1000 ∧ 1 ≤ le b 50 2 ∧ reservedAt b 56 8 = true) ∧
    (∃ (p : Packet) (s : State),
      let r := reached specHarrowStageLoad p s
      let b := p.params
      let n := byteAt b 0
      accepts specHarrowStageLoad p s = true ∧ r.swap = none ∧ reservedAt b 12 4 = true ∧ n = 0xFF ∧ byteAt b 1 = 3) ∧
    (∃ (p : Packet) (s : State),
      let r := reached specHarrowPatternLoad p s
      let b := p.params
      let count := byteAt b 1
      let first := le b 2 2
      accepts specHarrowPatternLoad p s = true ∧ r.swap = none ∧ reservedAt b 4 12 = true ∧ byteAt b 0 = 1 ∧ count ≤ 56 ∧ first + count ≤ 256 ∧ (∀ i, i < count → patternOk b (16 + 72 * i) = none)) ∧
    (∃ (p : Packet) (s : State),
      let r := reached specHarrowPatternLoad p s
      let b := p.params
      let count := byteAt b 1
      let first := le b 2 2
      accepts specHarrowPatternLoad p s = true ∧ r.swap = none ∧ reservedAt b 4 12 = true ∧ byteAt b 0 = 2 ∧ count ≤ 56 ∧ first + count ≤ 256) ∧
    (∃ (p : Packet) (s : State),
      let r := reached specHarrowPatternLoad p s
      let b := p.params
      let count := byteAt b 1
      let first := le b 2 2
      accepts specHarrowPatternLoad p s = true ∧ r.swap = none ∧ reservedAt b 4 12 = true ∧ byteAt b 0 = 3 ∧ count ≤ 56 ∧ first + count ≤ 256) ∧
    (∃ (p : Packet) (s : State),
      let r := reached specHarrowBankSwap p s
      let b := p.params
      let tick := if le b 0 8 = 0 then nextWholeMs r else nsOfT64 (le b 0 8)
      accepts specHarrowBankSwap p s = true ∧ t64Ok (le b 0 8) = true ∧ inMinute r tick = true ∧ reservedAt b 8 8 = true ∧ r.swap = none ∧ bankBad r = false) ∧
    (∃ (p : Packet) (s : State),
      let r := reached specFragmentTableRead p s
      let b := p.params
      let f := byteAt b 0
      let first := le b 2 2
      let count := le b 4 2
      let x := fur r f
      let live := fun tc7 => (x.frags.filter (fun e => decide (e.1 % 4 < 2) == tc7 && fragLive (nowNs r) e.2)).length
      let reply := toLE 2 (live true) ++ toLE 2 (live false) ++ toLE 4 (tget 0 x.harrowCtr 9) ++ toLE 4 (tget 0 x.harrowCtr 8) ++
        toLE 4 (tget 0 x.harrowCtr 10) ++ (x.frags.filter (fun e => first ≤ e.1 && e.1 < first + count)).flatMap (fun e => fragRecord e.1 e.2)
      accepts specFragmentTableRead p s = true ∧ f < 2 ∧ reservedAt b 1 1 = true ∧ first ≤ 4095 ∧ 1 ≤ count ∧ first + count ≤ 4096 ∧ reservedAt b 6 2 = true ∧ powered r f = true ∧ (reply.length ≤ 4080 ∨ 3 ≤ (session r (p.session % 4)).verMajor)) :=
  ⟨⟨ask ([7, 0, 4, 0, 0, 0, 0, 0, 0, 128, 0, 0, 0, 0, 0, 0, 47, 1, 0, 0] ++ zeros 44), ready 3, by decide +kernel⟩,
   ⟨ask ([7, 1, 4, 1, 31, 0, 0, 0] ++ zeros 24), { ready 3 with fa := { (ready 3).fa with banks := [(1, { stages := [(7, { kind := 4, size := 32, segments := [] })] })] } }, by decide +kernel⟩,
   ⟨ask ([7, 1, 1, 1] ++ zeros 60), { ready 3 with fa := { (ready 3).fa with banks := [(1, { stages := [(7, { kind := 1, size := 64, segments := [] })] })] } }, by decide +kernel⟩,
   ⟨ask ([7, 2, 4, 1, 31, 0, 0, 0] ++ zeros 8), { ready 3 with fa := { (ready 3).fa with banks := [(1, { stages := [(7, { kind := 4, size := 32, segments := [] })] })] } }, by decide +kernel⟩,
   ⟨ask ([7, 2, 1, 0] ++ zeros 12), { ready 3 with fa := { (ready 3).fa with banks := [(1, { stages := [(7, { kind := 1, size := 64, entries := [(0, { key := 0 })] })] })] } }, by decide +kernel⟩,
   ⟨ask ([7, 3] ++ zeros 14), ready 3, by decide +kernel⟩,
   ⟨ask ([255, 0, 0, 0, 0, 0, 0, 0, 0, 0, 0, 0, 0, 0, 0, 0, 1, 1, 1, 1, 1, 1, 1, 1, 1, 1, 1, 1, 1, 1, 1, 1, 1, 1, 1, 1, 1, 1, 1, 1, 1, 1, 1, 1, 1, 1, 1, 1, 232, 3, 102, 0, 161, 162] ++ zeros 10), ready 3, by decide +kernel⟩,
   ⟨ask ([255, 3] ++ zeros 14), ready 3, by decide +kernel⟩,
   ⟨ask ([1, 1, 255, 0, 0, 0, 0, 0, 0, 0, 0, 0, 0, 0, 0, 0, 32, 0, 0, 0, 255, 1] ++ zeros 66), ready 3, by decide +kernel⟩,
   ⟨ask ([2, 56] ++ toLE 2 200 ++ zeros 12), ready 4, by decide +kernel⟩,
   ⟨ask ([3] ++ zeros 15), ready 3, by decide +kernel⟩,
   ⟨ask (zeros 16), ready 4, by decide +kernel⟩,
   ⟨ask [1, 0, 255, 15, 1, 0, 0, 0], ready 4, by decide +kernel⟩⟩

theorem test_AddressCommandsKeepTheTables :
    (∃ (p : Packet) (s : State),
      let r := reached specAddrAdd p s
      let b := p.params
      let fid := le b 6 2
      let dest := le b 8 2
      let group := bit (byteAt b 10) 0
      let whr := byteAt b 11
      let key := addrKey fid (be b 0 6)
      let pl := if whr = 0x80 then ovfBase + le b 12 2 else 4 * bucketOf key + whr
      let t := (fur r r.hl.lead).tab
      let used := (∃ q e, findAddr r t key = some (q, e) ∧ e.static = true ∧ q ≠ pl) ∨
        (∃ e, entryAt t pl = some e ∧ (e.static = true ∨ e.kind = 2) ∧ e.key ≠ key)
      accepts specAddrAdd p s = true ∧ (group = true ∨ bit (byteAt b 0) 0 = false) ∧ fid < 4096 ∧ (group = true ∨ (dest < 64 ∧ portExists r dest = true)) ∧ byteAt b 10 < 2 ∧ (whr < 2 ∨ (whr < 4 ∧ wide r = false) ∨ (whr = 0x80 ∧ le b 12 2 < 1024)) ∧ reservedAt b 14 2 = true ∧ used) ∧
    (∃ (p : Packet) (s : State),
      let r := reached specAddrAdd p s
      let b := p.params
      let fid := le b 6 2
      let dest := le b 8 2
      let group := bit (byteAt b 10) 0
      let whr := byteAt b 11
      let key := addrKey fid (be b 0 6)
      let pl := if whr = 0x80 then ovfBase + le b 12 2 else 4 * bucketOf key + whr
      let t := (fur r r.hl.lead).tab
      let used := (∃ q e, findAddr r t key = some (q, e) ∧ e.static = true ∧ q ≠ pl) ∨
        (∃ e, entryAt t pl = some e ∧ (e.static = true ∨ e.kind = 2) ∧ e.key ≠ key)
      accepts specAddrAdd p s = true ∧ (group = true ∨ bit (byteAt b 0) 0 = false) ∧ fid < 4096 ∧ (group = true ∨ (dest < 64 ∧ portExists r dest = true)) ∧ byteAt b 10 < 2 ∧ (whr < 2 ∨ (whr < 4 ∧ wide r = false) ∨ (whr = 0x80 ∧ le b 12 2 < 1024)) ∧ reservedAt b 14 2 = true ∧ (¬used)) ∧
    (∃ (p : Packet) (s : State), accepts specAddrDelete p s = true ∧ le p.params 6 2 < 4096) ∧
    (∃ (p : Packet) (s : State),
      let r := reached specAddrLookup p s
      let b := p.params
      let f := byteAt b 8
      let key := addrKey (le b 6 2) (be b 0 6)
      accepts specAddrLookup p s = true ∧ le b 6 2 < 4096 ∧ f < 2 ∧ reservedAt b 9 3 = true ∧ powered r f = true ∧ findAddr r (fur r f).tab key = none) ∧
    (∃ (p : Packet) (s : State), ∃ pl e,
      let r := reached specAddrLookup p s
      let b := p.params
      let f := byteAt b 8
      let key := addrKey (le b 6 2) (be b 0 6)
      accepts specAddrLookup p s = true ∧ le b 6 2 < 4096 ∧ f < 2 ∧ reservedAt b 9 3 = true ∧ powered r f = true ∧ findAddr r (fur r f).tab key = some (pl, e)) ∧
    (∃ (p : Packet) (s : State),
      let r := reached specAddrFlush p s
      let b := p.params
      let sc := byteAt b 0
      accepts specAddrFlush p s = true ∧ (sc < 4 ∨ sc = 0x10) ∧ (sc = 1 ∨ sc = 3 → portExists r (byteAt b 1) = true) ∧ le b 2 2 < 4096 ∧ (sc = 0x10 ∨ (byteAt b 4 < 4 ∧ ∀ f, f < 2 → bit (byteAt b 4) f = true → powered r f = true)) ∧ reservedAt b 5 3 = true) ∧
    (∃ (x : Flush) (rest : List Flush) (k : Ticket) (s : State), s.clk.coreStopped = false ∧ s.flush = x :: rest ∧ x.ticket = some k) ∧
    (∃ (p : Packet) (s : State),
      let b := p.params
      accepts specAgeingSet p s = true ∧ byteAt b 0 = 0 ∧ 1 ≤ le b 2 2 ∧ le b 2 2 ≤ 3600 ∧ (byteAt b 4 = 0 ∨ (2 ≤ byteAt b 4 ∧ byteAt b 4 ≤ 15)) ∧ 1 ≤ le b 6 2 ∧ le b 6 2 ≤ 1000) ∧
    (∃ (p : Packet) (s : State),
      let r := reached specAgeingSet p s
      let b := p.params
      accepts specAgeingSet p s = true ∧ byteAt b 0 = 1 ∧ portExists r (byteAt b 1) = true ∧ byteAt b 2 < 4 ∧ le b 4 4 ≤ 262144 ∧ le b 8 2 ≤ 4095) :=
  ⟨⟨ask [0, 0, 0, 0, 0, 1, 255, 15, 63, 0, 1, 128, 255, 3, 0, 0], { ready 4 with fa := { (ready 4).fa with tab := { ovf := [(1023, { kind := 2, key := 5 })] } } },
    by (iterate 7 refine ⟨by decide +kernel, ?_⟩); exact .inr ⟨{ kind := 2, key := 5 }, by decide +kernel⟩⟩,
   ⟨ask [0, 0, 0, 0, 0, 1, 255, 15, 63, 0, 1, 128, 255, 3, 0, 0], ready 4, (by (iterate 7 refine ⟨by decide +kernel, ?_⟩); exact fun h => h.elim (fun ⟨_, _, h, _⟩ => no_some h (by decide +kernel)) (fun ⟨_, h, _⟩ => no_some h (by decide +kernel)))⟩,
   ⟨ask (zeros 8), ready 4, by decide +kernel⟩,
   ⟨ask (zeros 12), ready 4, by decide +kernel⟩,
   ⟨ask [0, 0, 0, 0, 0, 1, 255, 15, 1, 0, 0, 0], { ready 4 with fb := { (ready 4).fb with tab := { ovf := [(2047, { key := addrKey 4095 1 })] } } }, ovfBase + 2047, { key := addrKey 4095 1 }, by decide +kernel⟩,
   ⟨ask ([2] ++ zeros 7), ready 4, by decide +kernel⟩,
   ⟨{ scope := 2, port := 0, fid := 4095, mask := 3, ticket := some tick }, [], tick, { ready 4 with flush := [{ scope := 2, port := 0, fid := 4095, mask := 3, ticket := some tick }] }, by decide +kernel⟩,
   ⟨ask ([0, 0, 1, 0, 0, 0, 1] ++ zeros 9), ready 4, by decide +kernel⟩,
   ⟨ask ([1] ++ zeros 15), ready 4, by decide +kernel⟩⟩

theorem test_LearningAgeingAndStagingAdvance :
    (∃ (fu : Furrow) (bad : List Nat) (x : PendLearn) (rest : List PendLearn) (s00 : State), ∃ pl e, s00.clk.coreStopped = false ∧
      let f := furNo fu
      let s0 := bad.foldl (addrFault f) s00
      let s := modTab f (fun t => refillLearn s0 { t with pend := rest }) s0
      let t := (fur s f).tab
      (fur s0 f).tab.pend = x :: rest ∧ findAddr s t x.key = some (pl, e) ∧ e.static = true) ∧
    (∃ (fu : Furrow) (bad : List Nat) (x : PendLearn) (rest : List PendLearn) (s00 : State), ∃ pl e, s00.clk.coreStopped = false ∧
      let f := furNo fu
      let s0 := bad.foldl (addrFault f) s00
      let s := modTab f (fun t => refillLearn s0 { t with pend := rest }) s0
      let t := (fur s f).tab
      (fur s0 f).tab.pend = x :: rest ∧ findAddr s t x.key = some (pl, e) ∧ e.static = false ∧ e.dest = x.port) ∧
    (∃ (fu : Furrow) (bad : List Nat) (x : PendLearn) (rest : List PendLearn) (s00 : State), ∃ pl e, s00.clk.coreStopped = false ∧
      let f := furNo fu
      let s0 := bad.foldl (addrFault f) s00
      let s := modTab f (fun t => refillLearn s0 { t with pend := rest }) s0
      let t := (fur s f).tab
      (fur s0 f).tab.pend = x :: rest ∧ findAddr s t x.key = some (pl, e) ∧ e.static = false ∧ e.dest ≠ x.port ∧ 1250000 ≤ t.tokens) ∧
    (∃ (fu : Furrow) (bad : List Nat) (x : PendLearn) (rest : List PendLearn) (s00 : State), ∃ pl e, s00.clk.coreStopped = false ∧
      let f := furNo fu
      let s0 := bad.foldl (addrFault f) s00
      let s := modTab f (fun t => refillLearn s0 { t with pend := rest }) s0
      let t := (fur s f).tab
      (fur s0 f).tab.pend = x :: rest ∧ findAddr s t x.key = some (pl, e) ∧ e.static = false ∧ e.dest ≠ x.port ∧ t.tokens < 1250000) ∧
    (∃ (fu : Furrow) (bad : List Nat) (x : PendLearn) (rest : List PendLearn) (s00 : State), s00.clk.coreStopped = false ∧
      let f := furNo fu
      let s0 := bad.foldl (addrFault f) s00
      let s := modTab f (fun t => refillLearn s0 { t with pend := rest }) s0
      let t := (fur s f).tab
      let lim := (port s x.port).learn.limit
      (fur s0 f).tab.pend = x :: rest ∧ findAddr s t x.key = none ∧ lim ≠ 0 ∧ lim ≤ ((learnedOf t).filter (fun e => e.2.dest == x.port)).length) ∧
    (∃ (fu : Furrow) (bad : List Nat) (x : PendLearn) (rest : List PendLearn) (s00 : State), s00.clk.coreStopped = false ∧
      let f := furNo fu
      let s0 := bad.foldl (addrFault f) s00
      let s := modTab f (fun t => refillLearn s0 { t with pend := rest }) s0
      let t := (fur s f).tab
      let lim := (port s x.port).learn.limit
      (fur s0 f).tab.pend = x :: rest ∧ findAddr s t x.key = none ∧ (lim = 0 ∨ ((learnedOf t).filter (fun e => e.2.dest == x.port)).length < lim) ∧ t.tokens < 1250000) ∧
    (∃ (fu : Furrow) (bad : List Nat) (x : PendLearn) (rest : List PendLearn) (s00 : State), s00.clk.coreStopped = false ∧
      let f := furNo fu
      let s0 := bad.foldl (addrFault f) s00
      let s := modTab f (fun t => refillLearn s0 { t with pend := rest }) s0
      let t := (fur s f).tab
      let lim := (port s x.port).learn.limit
      (fur s0 f).tab.pend = x :: rest ∧ findAddr s t x.key = none ∧ (lim = 0 ∨ ((learnedOf t).filter (fun e => e.2.dest == x.port)).length < lim) ∧ 1250000 ≤ t.tokens ∧ learnPlace s t x.key = none) ∧
    (∃ (fu : Furrow) (bad : List Nat) (x : PendLearn) (rest : List PendLearn) (s00 : State), ∃ pl, s00.clk.coreStopped = false ∧
      let f := furNo fu
      let s0 := bad.foldl (addrFault f) s00
      let s := modTab f (fun t => refillLearn s0 { t with pend := rest }) s0
      let t := (fur s f).tab
      let lim := (port s x.port).learn.limit
      (fur s0 f).tab.pend = x :: rest ∧ findAddr s t x.key = none ∧ (lim = 0 ∨ ((learnedOf t).filter (fun e => e.2.dest == x.port)).length < lim) ∧ 1250000 ≤ t.tokens ∧ learnPlace s t x.key = some pl) ∧
    (∃ (fu : Furrow) (bad : List Nat) (s0 : State), s0.clk.coreStopped = false ∧
      let f := furNo fu
      decides s0 f = true) ∧
    (∃ (stamp limit : Nat) (t : Table TabEntry) (pl : Nat) (e : TabEntry), (e.static = true ∨ e.kind ≠ 1)) ∧
    (∃ (stamp limit : Nat) (t : Table TabEntry) (pl : Nat) (e : TabEntry), (pl, e) ∈ t ∧ e.kind = 1 ∧ e.static = false ∧ e.hit = true) ∧
    (∃ (stamp limit : Nat) (t : Table TabEntry) (pl : Nat) (e : TabEntry), (pl, e) ∈ t ∧ e.kind = 1 ∧ e.static = false ∧ e.hit = false ∧ (limit = 0 ∨ (stamp + 16 - e.age) % 16 < limit)) ∧
    (∃ (stamp limit : Nat) (t : Table TabEntry) (pl : Nat) (e : TabEntry), (pl, e) ∈ t ∧ e.kind = 1 ∧ e.static = false ∧ e.hit = false ∧ limit ≠ 0 ∧ limit ≤ (stamp + 16 - e.age) % 16 ∧ Rising t = true) ∧
    (∃ (x : StagingRec) (rest : List StagingRec) (s : State), s.clk.coreStopped = false ∧ s.fa.tab.staging ++ s.fb.tab.staging = x :: rest) :=
  ⟨⟨.b, [5], { key := addrKey 4095 1, port := 63 }, [], { ready 4 with fb := { (ready 4).fb with released := true, tab := { pend := [{ key := addrKey 4095 1, port := 63 }], ovf := [(2047, { key := addrKey 4095 1, dest := 62, static := true })] } } }, ovfBase + 2047, { key := addrKey 4095 1, dest := 62, static := true }, by decide +kernel⟩,
   ⟨.b, [], { key := addrKey 4095 1, port := 63 }, [], { ready 4 with fb := { (ready 4).fb with released := true, tab := { pend := [{ key := addrKey 4095 1, port := 63 }], ovf := [(2047, { key := addrKey 4095 1, dest := 63 })] } } }, ovfBase + 2047, { key := addrKey 4095 1, dest := 63 }, by decide +kernel⟩,
   ⟨.b, [], { key := addrKey 4095 1, port := 63 }, [], { ready 4 with fb := { (ready 4).fb with released := true, tab := { pend := [{ key := addrKey 4095 1, port := 63 }], ovf := [(2047, { key := addrKey 4095 1, dest := 62 })], tokens := 1250000 } } }, ovfBase + 2047, { key := addrKey 4095 1, dest := 62 }, by decide +kernel⟩,
   ⟨.b, [], { key := addrKey 4095 1, port := 63 }, [], { ready 4 with fb := { (ready 4).fb with released := true, tab := { pend := [{ key := addrKey 4095 1, port := 63 }], ovf := [(2047, { key := addrKey 4095 1, dest := 62 })], tokens := 1249999 } } }, ovfBase + 2047, { key := addrKey 4095 1, dest := 62 }, by decide +kernel⟩,
   ⟨.b, [], { key := addrKey 4095 1, port := 63 }, [], { ready 4 with fb := { (ready 4).fb with released := true, tab := { pend := [{ key := addrKey 4095 1, port := 63 }], ovf := [(2047, { key := 5, dest := 63 })] } }, ports := [(63, { learn := { limit := 1 } })] }, by decide +kernel⟩,
   ⟨.b, [], { key := addrKey 4095 1, port := 63 }, [], { ready 4 with fb := { (ready 4).fb with released := true, tab := { pend := [{ key := addrKey 4095 1, port := 63 }], tokens := 1249999 } } }, by decide +kernel⟩,
   ⟨.b, [], { key := addrKey 4095 1, port := 63 }, [], learning, ⟨by decide +kernel, by decide +kernel, by decide +kernel, by decide +kernel, by decide +kernel, find_full (addrKey 4095 1) rfl _ _ (by simp [furNo, modTab, modFur, fur, refillLearn, learning, fullAddr]) (by simp [furNo, modTab, modFur, fur, refillLearn, learning, fullAddr])⟩⟩,
   ⟨.b, [], { key := addrKey 4095 1, port := 63 }, [], { ready 4 with fb := { (ready 4).fb with released := true, tab := { pend := [{ key := addrKey 4095 1, port := 63 }], tokens := 1250000 } } }, 4 * bucketOf (addrKey 4095 1), by decide +kernel⟩,
   ⟨.b, [5], { ready 4 with fb := { (ready 4).fb with released := true, tab := { pend := [{ key := addrKey 4095 1, port := 63 }] } } }, by decide +kernel⟩,
   ⟨0, 0, [], 0, { static := true }, by decide +kernel⟩,
   ⟨7, 1, [(3, { hit := true })], 3, { hit := true }, by decide +kernel⟩,
   ⟨1, 3, [(3, { age := 15 })], 3, { age := 15 }, by decide +kernel⟩,
   ⟨2, 3, [(3, { age := 15 })], 3, { age := 15 }, by decide +kernel⟩,
   ⟨{ what := .hot 5 0, te := 9 }, [], { ready 4 with fb := { (ready 4).fb with tab := { staging := [{ what := .hot 5 0, te := 9 }] } } }, by decide +kernel⟩⟩

theorem test_ShadowCompareAnswersAndRepairs :
    (∃ (p : Packet) (s : State), accepts specShadowStatus p s = true) :=
  ⟨ask [], ready 4, by decide +kernel⟩

theorem test_ShadowPassesAndGroupsAreSet :
    (∃ (p : Packet) (s : State),
      let r := reached specShadowSet p s
      let m := byteAt p.params 8
      accepts specShadowSet p s = true ∧ le p.params 0 8 % 64 = 0 ∧ m < 3 ∧ reservedAt p.params 9 7 = true ∧ m ≠ 0 ∧ r.pcie.up = false) ∧
    (∃ (p : Packet) (s : State),
      let r := reached specShadowSet p s
      let m := byteAt p.params 8
      accepts specShadowSet p s = true ∧ le p.params 0 8 % 64 = 0 ∧ m < 3 ∧ reservedAt p.params 9 7 = true ∧ (m = 0 ∨ r.pcie.up = true)) ∧
    (∃ (fu : Furrow) (ok : Bool) (data : List Byte) (bad : List Nat) (s0 : State), s0.clk.coreStopped = false ∧
      let f := furNo fu
      let s := reachEdge (if f = 0 then s0.shadow.nextA else s0.shadow.nextB) s0
      s0.shadow.mode ≠ 0 ∧ s0.shadow.suspended = false ∧ decides s0 f = true ∧ (ok = false ∨ s.pcie.up = false)) ∧
    (∃ (fu : Furrow) (ok : Bool) (data : List Byte) (bad : List Nat) (s0 : State), s0.clk.coreStopped = false ∧
      let f := furNo fu
      let s := reachEdge (if f = 0 then s0.shadow.nextA else s0.shadow.nextB) s0
      s0.shadow.mode ≠ 0 ∧ s0.shadow.suspended = false ∧ decides s0 f = true ∧ ok = true ∧ s.pcie.up = true) ∧
    (∃ (p : Packet) (s : State),
      let r := reached specMgroupSet p s
      let b := p.params
      let m := le b 8 8
      accepts specMgroupSet p s = true ∧ byteAt b 2 < 3 ∧ reservedAt b 3 5 = true ∧ maskOk r m = true) :=
  ⟨⟨ask ([0, 0, 0, 0, 0, 0, 0, 0, 1] ++ zeros 7), ready 4, by decide +kernel⟩,
   ⟨ask (zeros 16), ready 4, by decide +kernel⟩,
   ⟨.b, false, zeros 64, [], { linked 4 with fb := { (linked 4).fb with released := true }, shadow := { (linked 4).shadow with mode := 2 } }, by decide +kernel⟩,
   ⟨.b, true, zeros 64, [7], { linked 4 with fb := { (linked 4).fb with released := true }, shadow := { (linked 4).shadow with mode := 2 } }, by decide +kernel⟩,
   ⟨ask (zeros 16), ready 4, by decide +kernel⟩⟩

theorem test_StreamsAreBoundUnboundAndRead :
    (∃ (p : Packet) (s : State),
      let r := reached specStreamBind p s
      let b := p.params
      let h := le b 0 4
      let kk := byteAt b 4
      let modify := byteAt b 17 = 1
      let x : Binding := {
        bound := true, egressKind := byteAt b 16, keyKind := kk, egress := le b 18 2, domain := if kk = 1 then byteAt b 5 else 0
        ident := if kk = 0 then 0 else le b 6 2, da := if kk = 2 then be b 8 6 else 0 }
      let t0 := (fur r r.hl.lead).tab
      let old := tget {} t0.bind h
      let sameKey := old.keyKind = x.keyKind ∧ old.domain = x.domain ∧ old.ident = x.ident ∧ old.da = x.da
      accepts specStreamBind p s = true ∧ 1 ≤ h ∧ h < 2 ^ 20 ∧ kk < 3 ∧ (kk = 1 → byteAt b 5 < 16) ∧ (kk = 2 → le b 6 2 < 0xFFF) ∧ reservedAt b 14 2 = true ∧ byteAt b 16 < 3 ∧ byteAt b 17 < 2 ∧ (byteAt b 16 = 1 → le b 18 2 < 64 ∧ portExists r (le b 18 2) = true) ∧ reservedAt b 20 4 = true ∧ (wide r = true → kk = 1 → h = le b 6 2 * 16 + byteAt b 5) ∧ modify ∧ (¬(old.bound = true ∧ sameKey))) ∧
    (∃ (p : Packet) (s : State),
      let r := reached specStreamBind p s
      let b := p.params
      let h := le b 0 4
      let kk := byteAt b 4
      let modify := byteAt b 17 = 1
      let x : Binding := {
        bound := true, egressKind := byteAt b 16, keyKind := kk, egress := le b 18 2, domain := if kk = 1 then byteAt b 5 else 0
        ident := if kk = 0 then 0 else le b 6 2, da := if kk = 2 then be b 8 6 else 0 }
      let t0 := (fur r r.hl.lead).tab
      let old := tget {} t0.bind h
      let inUse := old.bound = true ∨ (kk ≠ 0 ∧ (keyNow r t0 kk (bindingKey x)).isSome = true) ∨ (wide r = true ∧ kk = 2 ∧ tget false t0.direct h = true)
      accepts specStreamBind p s = true ∧ 1 ≤ h ∧ h < 2 ^ 20 ∧ kk < 3 ∧ (kk = 1 → byteAt b 5 < 16) ∧ (kk = 2 → le b 6 2 < 0xFFF) ∧ reservedAt b 14 2 = true ∧ byteAt b 16 < 3 ∧ byteAt b 17 < 2 ∧ (byteAt b 16 = 1 → le b 18 2 < 64 ∧ portExists r (le b 18 2) = true) ∧ reservedAt b 20 4 = true ∧ (wide r = true → kk = 1 → h = le b 6 2 * 16 + byteAt b 5) ∧ (¬modify) ∧ inUse) ∧
    (∃ (p : Packet) (s : State),
      let r := reached specStreamBind p s
      let b := p.params
      let h := le b 0 4
      let kk := byteAt b 4
      let modify := byteAt b 17 = 1
      let x : Binding := {
        bound := true, egressKind := byteAt b 16, keyKind := kk, egress := le b 18 2, domain := if kk = 1 then byteAt b 5 else 0
        ident := if kk = 0 then 0 else le b 6 2, da := if kk = 2 then be b 8 6 else 0 }
      let t0 := (fur r r.hl.lead).tab
      let old := tget {} t0.bind h
      let inUse := old.bound = true ∨ (kk ≠ 0 ∧ (keyNow r t0 kk (bindingKey x)).isSome = true) ∨ (wide r = true ∧ kk = 2 ∧ tget false t0.direct h = true)
      let noPlace := kk ≠ 0 ∧ ¬(wide r = true ∧ kk = 1) ∧ streamPlace r t0 (bindingKey x) = none
      accepts specStreamBind p s = true ∧ 1 ≤ h ∧ h < 2 ^ 20 ∧ kk < 3 ∧ (kk = 1 → byteAt b 5 < 16) ∧ (kk = 2 → le b 6 2 < 0xFFF) ∧ reservedAt b 14 2 = true ∧ byteAt b 16 < 3 ∧ byteAt b 17 < 2 ∧ (byteAt b 16 = 1 → le b 18 2 < 64 ∧ portExists r (le b 18 2) = true) ∧ reservedAt b 20 4 = true ∧ (wide r = true → kk = 1 → h = le b 6 2 * 16 + byteAt b 5) ∧ (¬modify) ∧ (¬inUse) ∧ noPlace) ∧
    (∃ (p : Packet) (s : State),
      let r := reached specStreamBind p s
      let b := p.params
      let h := le b 0 4
      let kk := byteAt b 4
      let modify := byteAt b 17 = 1
      let x : Binding := {
        bound := true, egressKind := byteAt b 16, keyKind := kk, egress := le b 18 2, domain := if kk = 1 then byteAt b 5 else 0
        ident := if kk = 0 then 0 else le b 6 2, da := if kk = 2 then be b 8 6 else 0 }
      let t0 := (fur r r.hl.lead).tab
      let old := tget {} t0.bind h
      let sameKey := old.keyKind = x.keyKind ∧ old.domain = x.domain ∧ old.ident = x.ident ∧ old.da = x.da
      let inUse := old.bound = true ∨ (kk ≠ 0 ∧ (keyNow r t0 kk (bindingKey x)).isSome = true) ∨ (wide r = true ∧ kk = 2 ∧ tget false t0.direct h = true)
      let noPlace := kk ≠ 0 ∧ ¬(wide r = true ∧ kk = 1) ∧ streamPlace r t0 (bindingKey x) = none
      accepts specStreamBind p s = true ∧ 1 ≤ h ∧ h < 2 ^ 20 ∧ kk < 3 ∧ (kk = 1 → byteAt b 5 < 16) ∧ (kk = 2 → le b 6 2 < 0xFFF) ∧ reservedAt b 14 2 = true ∧ byteAt b 16 < 3 ∧ byteAt b 17 < 2 ∧ (byteAt b 16 = 1 → le b 18 2 < 64 ∧ portExists r (le b 18 2) = true) ∧ reservedAt b 20 4 = true ∧ (wide r = true → kk = 1 → h = le b 6 2 * 16 + byteAt b 5) ∧ ((modify ∧ old.bound = true ∧ sameKey) ∨ (¬modify ∧ ¬inUse ∧ ¬noPlace))) ∧
    (∃ (p : Packet) (s : State),
      let r := reached specStreamUnbind p s
      let h := le p.params 0 4
      let old := tget {} (fur r r.hl.lead).tab.bind h
      accepts specStreamUnbind p s = true ∧ 1 ≤ h ∧ h < 2 ^ 20 ∧ old.bound = false) ∧
    (∃ (p : Packet) (s : State),
      let r := reached specStreamUnbind p s
      let h := le p.params 0 4
      let old := tget {} (fur r r.hl.lead).tab.bind h
      accepts specStreamUnbind p s = true ∧ 1 ≤ h ∧ h < 2 ^ 20 ∧ old.bound = true) ∧
    (∃ (p : Packet) (s : State),
      let r := reached specStreamRead p s
      let b := p.params
      let h := le b 0 4
      let f := byteAt b 4
      accepts specStreamRead p s = true ∧ 1 ≤ h ∧ h < 2 ^ 20 ∧ f < 2 ∧ reservedAt b 5 3 = true ∧ powered r f = true) :=
  ⟨⟨ask ([255, 255, 15, 0, 1, 15, 255, 255, 0, 0, 0, 0, 0, 0, 0, 0, 1, 1, 63, 0] ++ zeros 4), ready 4, by decide +kernel⟩,
   ⟨ask ([255, 255, 15, 0, 1, 15, 255, 255, 0, 0, 0, 0, 0, 0, 0, 0, 0, 0, 0, 0] ++ zeros 4), { ready 4 with fa := { (ready 4).fa with tab := { bind := [(1048575, { bound := true, keyKind := 1, domain := 15, ident := 65535 })] } } }, by decide +kernel⟩,
   ⟨ask ([255, 255, 15, 0, 1, 15, 255, 255, 0, 0, 0, 0, 0, 0, 0, 0, 0, 0, 0, 0] ++ zeros 4), streaming, (by (iterate 16 refine ⟨by decide +kernel, ?_⟩); exact stream_full _ _ _ (by decide +kernel) (by rfl) (by rfl))⟩,
   ⟨ask ([255, 255, 15, 0, 1, 15, 255, 255, 0, 0, 0, 0, 0, 0, 0, 0, 0, 0, 0, 0] ++ zeros 4), ready 4, by decide +kernel⟩,
   ⟨ask [1, 0, 0, 0], ready 4, by decide +kernel⟩,
   ⟨ask [255, 255, 15, 0], { ready 4 with fa := { (ready 4).fa with tab := { bind := [(1048575, { bound := true, keyKind := 1, domain := 15, ident := 65535 })] } } }, by decide +kernel⟩,
   ⟨ask ([255, 255, 15, 0] ++ zeros 4), ready 4, by decide +kernel⟩⟩

theorem test_TineArithmeticAndControlFlow :
    (∃ (n t w : Nat) (a : Act) (s : State), ∃ (fn cost : Nat) (v : Word), tineAt s n t a w ∧
      let x := getG a (wR1 w)
      let y := getG a (wR2 w)
      let room := (progOf s n a).budget - cyclesBefore s a
      (fn, v, cost) ∈ [(0, x + y, 1), (1, x - y, 1), (2, x &&& y, 1), (3, x ||| y, 1), (4, x ^^^ y, 1),
        (5, x <<< (y.toNat % 32), 1), (6, x >>> (y.toNat % 32), 1), (7, x.sshiftRight (y.toNat % 32), 1), (8, if x.toInt < y.toInt then 1 else 0, 1),
        (9, if x.toNat < y.toNat then 1 else 0, 1), (10, BitVec.ofNat 32 (x.toNat * y.toNat), 2),
        (11, BitVec.ofNat 32 (x.toNat * y.toNat / 2 ^ 32), 2)] ∧ wOp w = 0 ∧ wFn w = fn ∧ cost < room) ∧
    (∃ (n t w : Nat) (a : Act) (s : State), tineAt s n t a w ∧
      let room := (progOf s n a).budget - cyclesBefore s a
      1 < room ∧ wOp w = 1) ∧
    (∃ (n t w : Nat) (a : Act) (s : State), tineAt s n t a w ∧
      let room := (progOf s n a).budget - cyclesBefore s a
      1 < room ∧ wOp w = 2) ∧
    (∃ (n t w : Nat) (a : Act) (s : State), tineAt s n t a w ∧
      let room := (progOf s n a).budget - cyclesBefore s a
      1 < room ∧ wOp w = 3) ∧
    (∃ (n t w : Nat) (a : Act) (s : State), tineAt s n t a w ∧
      let room := (progOf s n a).budget - cyclesBefore s a
      1 < room ∧ wOp w = 4) ∧
    (∃ (n t w : Nat) (a : Act) (s : State), tineAt s n t a w ∧
      let room := (progOf s n a).budget - cyclesBefore s a
      1 < room ∧ wOp w = 5) ∧
    (∃ (n t w : Nat) (a : Act) (s : State), tineAt s n t a w ∧
      let room := (progOf s n a).budget - cyclesBefore s a
      1 < room ∧ wOp w = 6) ∧
    (∃ (n t w : Nat) (a : Act) (s : State), tineAt s n t a w ∧
      let room := (progOf s n a).budget - cyclesBefore s a
      1 < room ∧ wOp w = 7 ∧ bits w 6 5 = 0) ∧
    (∃ (n t w : Nat) (a : Act) (s : State), tineAt s n t a w ∧
      let room := (progOf s n a).budget - cyclesBefore s a
      1 < room ∧ wOp w = 7 ∧ bits w 6 5 = 1) ∧
    (∃ (n t w : Nat) (a : Act) (s : State), tineAt s n t a w ∧
      let room := (progOf s n a).budget - cyclesBefore s a
      1 < room ∧ wOp w = 7 ∧ bits w 6 5 = 2) ∧
    (∃ (n t w : Nat) (a : Act) (s : State), tineAt s n t a w ∧
      let room := (progOf s n a).budget - cyclesBefore s a
      1 < room ∧ wOp w = 7 ∧ bits w 6 5 = 3) ∧
    (∃ (n t w : Nat) (a : Act) (s : State), tineAt s n t a w ∧
      let room := (progOf s n a).budget - cyclesBefore s a
      1 < room ∧ wOp w = 8) ∧
    (∃ (n t w : Nat) (a : Act) (s : State), tineAt s n t a w ∧
      let room := (progOf s n a).budget - cyclesBefore s a
      1 < room ∧ wOp w = 0x28) ∧
    (∃ (n t w : Nat) (a : Act) (s : State), tineAt s n t a w ∧
      let x := getG a (wR1 w)
      let room := (progOf s n a).budget - cyclesBefore s a
      1 < room ∧ 0x10 ≤ wOp w ∧ wOp w ≤ 0x15 ∧ branchTaken (wOp w) (getG a (wRd w)) x = false) ∧
    (∃ (n t w : Nat) (a : Act) (s : State), tineAt s n t a w ∧
      let x := getG a (wR1 w)
      let room := (progOf s n a).budget - cyclesBefore s a
      2 < room ∧ 0x10 ≤ wOp w ∧ wOp w ≤ 0x15 ∧ branchTaken (wOp w) (getG a (wRd w)) x = true) ∧
    (∃ (n t w : Nat) (a : Act) (s : State), tineAt s n t a w ∧
      let room := (progOf s n a).budget - cyclesBefore s a
      2 < room ∧ wOp w = 0x16) ∧
    (∃ (n t w : Nat) (a : Act) (s : State), tineAt s n t a w ∧
      let room := (progOf s n a).budget - cyclesBefore s a
      2 < room ∧ wOp w = 0x17) ∧
    (∃ (n t w : Nat) (a : Act) (s : State), tineAt s n t a w) :=
  ⟨⟨15, 63, 2226187, { act with g := [(1, 0x80000000), (31, 0xFFFFFFFF)] }, tined ({ act with g := [(1, 0x80000000), (31, 0xFFFFFFFF)] }) 2226187, 11, 2, 0x7FFFFFFF, by unfold tineAt; decide +kernel, by decide +kernel⟩,
   ⟨15, 63, 69337087, { act with g := [(1, 0x80000000), (31, 0xFFFFFFFF)] }, tined ({ act with g := [(1, 0x80000000), (31, 0xFFFFFFFF)] }) 69337087, by unfold tineAt; decide +kernel, by decide +kernel⟩,
   ⟨15, 63, 136445951, { act with g := [(1, 0x80000000), (31, 0xFFFFFFFF)] }, tined ({ act with g := [(1, 0x80000000), (31, 0xFFFFFFFF)] }) 136445951, by unfold tineAt; decide +kernel, by decide +kernel⟩,
   ⟨15, 63, 203554815, { act with g := [(1, 0x80000000), (31, 0xFFFFFFFF)] }, tined ({ act with g := [(1, 0x80000000), (31, 0xFFFFFFFF)] }) 203554815, by unfold tineAt; decide +kernel, by decide +kernel⟩,
   ⟨15, 63, 270663679, { act with g := [(1, 0x80000000), (31, 0xFFFFFFFF)] }, tined ({ act with g := [(1, 0x80000000), (31, 0xFFFFFFFF)] }) 270663679, by unfold tineAt; decide +kernel, by decide +kernel⟩,
   ⟨15, 63, 337772543, { act with g := [(1, 0x80000000), (31, 0xFFFFFFFF)] }, tined ({ act with g := [(1, 0x80000000), (31, 0xFFFFFFFF)] }) 337772543, by unfold tineAt; decide +kernel, by decide +kernel⟩,
   ⟨15, 63, 404881407, { act with g := [(1, 0x80000000), (31, 0xFFFFFFFF)] }, tined ({ act with g := [(1, 0x80000000), (31, 0xFFFFFFFF)] }) 404881407, by unfold tineAt; decide +kernel, by decide +kernel⟩,
   ⟨15, 63, 471924767, { act with g := [(1, 0x80000000), (31, 0xFFFFFFFF)] }, tined ({ act with g := [(1, 0x80000000), (31, 0xFFFFFFFF)] }) 471924767, by unfold tineAt; decide +kernel, by decide +kernel⟩,
   ⟨15, 63, 471924799, { act with g := [(1, 0x80000000), (31, 0xFFFFFFFF)] }, tined ({ act with g := [(1, 0x80000000), (31, 0xFFFFFFFF)] }) 471924799, by unfold tineAt; decide +kernel, by decide +kernel⟩,
   ⟨15, 63, 471924831, { act with g := [(1, 0x80000000), (31, 0xFFFFFFFF)] }, tined ({ act with g := [(1, 0x80000000), (31, 0xFFFFFFFF)] }) 471924831, by unfold tineAt; decide +kernel, by decide +kernel⟩,
   ⟨15, 63, 471924863, { act with g := [(1, 0x80000000), (31, 0xFFFFFFFF)] }, tined ({ act with g := [(1, 0x80000000), (31, 0xFFFFFFFF)] }) 471924863, by unfold tineAt; decide +kernel, by decide +kernel⟩,
   ⟨15, 63, 539033599, act, tined act 539033599, by unfold tineAt; decide +kernel, by decide +kernel⟩,
   ⟨15, 63, 2686517248, { act with g := [(1, 0x80000000), (31, 0xFFFFFFFF)] }, tined ({ act with g := [(1, 0x80000000), (31, 0xFFFFFFFF)] }) 2686517248, by unfold tineAt; decide +kernel, by decide +kernel⟩,
   ⟨15, 63, 1075970048, { act with g := [(1, 0x80000000), (31, 0xFFFFFFFF)] }, tined ({ act with g := [(1, 0x80000000), (31, 0xFFFFFFFF)] }) 1075970048, by unfold tineAt; decide +kernel, by decide +kernel⟩,
   ⟨15, 63, 1143078912, { act with g := [(1, 0x80000000), (31, 0xFFFFFFFF)] }, tined ({ act with g := [(1, 0x80000000), (31, 0xFFFFFFFF)] }) 1143078912, by unfold tineAt; decide +kernel, by decide +kernel⟩,
   ⟨15, 63, 1480589311, act, tined act 1480589311, by unfold tineAt; decide +kernel, by decide +kernel⟩,
   ⟨15, 63, 1545666560, { act with g := [(1, 0x80000000), (31, 0xFFFFFFFF)] }, tined ({ act with g := [(1, 0x80000000), (31, 0xFFFFFFFF)] }) 1545666560, by unfold tineAt; decide +kernel, by decide +kernel⟩,
   ⟨15, 63, 67108864, act, tined act 67108864, by unfold tineAt; decide +kernel⟩⟩

theorem test_TineReadsMemoryAndItsFrame :
    (∃ (n t w : Nat) (a : Act) (s : State), ∃ op size, tineAt s n t a w ∧
      let ad := addImm a w
      (op, size) ∈ [(0x18, 4), (0x19, 2), (0x1A, 2), (0x1B, 1), (0x1C, 1)] ∧ wOp w = op ∧ dataBad ad size = true) ∧
    (∃ (n t w : Nat) (a : Act) (s : State), ∃ op size, ∃ v a1 s1, tineAt s n t a w ∧
      let room := (progOf s n a).budget - cyclesBefore s a
      let ad := addImm a w
      (op, size) ∈ [(0x18, 4), (0x19, 2), (0x1A, 2), (0x1B, 1), (0x1C, 1)] ∧ wOp w = op ∧ dataBad ad size = false ∧ 2 < room ∧ readBytes a ad size s = (v, a1, s1)) ∧
    (∃ (n t w : Nat) (a : Act) (s : State), ∃ op size, tineAt s n t a w ∧
      let ad := addImm a w
      (op, size) ∈ [(0x1D, 4), (0x1E, 2), (0x1F, 1)] ∧ wOp w = op ∧ dataBad ad size = true) ∧
    (∃ (n t w : Nat) (a : Act) (s : State), ∃ op size, tineAt s n t a w ∧
      let room := (progOf s n a).budget - cyclesBefore s a
      let ad := addImm a w
      (op, size) ∈ [(0x1D, 4), (0x1E, 2), (0x1F, 1)] ∧ wOp w = op ∧ dataBad ad size = false ∧ 1 < room) ∧
    (∃ (n t w : Nat) (a : Act) (s : State), tineAt s n t a w ∧
      let ad := addImm a w
      wOp w = 0x20 ∧
      let c := (area (bed s n) a.area).consts
      c.length < ad + 4) ∧
    (∃ (n t w : Nat) (a : Act) (s : State), tineAt s n t a w ∧
      let room := (progOf s n a).budget - cyclesBefore s a
      let ad := addImm a w
      wOp w = 0x20 ∧
      let c := (area (bed s n) a.area).consts
      ad + 4 ≤ c.length ∧ ad % 4 ≠ 0 ∧ 3 < room) ∧
    (∃ (n t w : Nat) (a : Act) (s : State), tineAt s n t a w ∧
      let room := (progOf s n a).budget - cyclesBefore s a
      let ad := addImm a w
      wOp w = 0x20 ∧
      let c := (area (bed s n) a.area).consts
      ad + 4 ≤ c.length ∧ ad % 4 = 0 ∧ 3 < room) ∧
    (∃ (n t w : Nat) (a : Act) (s : State), tineAt s n t a w ∧
      let room := (progOf s n a).budget - cyclesBefore s a
      wOp w = 0x21 ∧ 3 < room) ∧
    (∃ (n t w : Nat) (a : Act) (s : State), tineAt s n t a w ∧ wOp w = 0x24 ∧ bits w 15 10 ≠ 0x3F ∧ bits w 9 0 ≠ 0) ∧
    (∃ (n t w : Nat) (a : Act) (s : State), tineAt s n t a w ∧
      let room := (progOf s n a).budget - cyclesBefore s a
      wOp w = 0x24 ∧ (bits w 15 10 = 0x3F ∨ bits w 9 0 = 0) ∧ 1 < room) ∧
    (∃ (n t w : Nat) (a : Act) (s : State), ∃ fld off, tineAt s n t a w ∧ wOp w = 0x25 ∧ tget (0, 0) a.win (wR1 w % 8) = (fld, off) ∧
      let i := (off : Int) + wSImm w
      fld = 0x3F ∧ (i < 0 ∨ 508 < i)) ∧
    (∃ (n t w : Nat) (a : Act) (s : State), ∃ fld off, ∃ u, tineAt s n t a w ∧
      let room := (progOf s n a).budget - cyclesBefore s a
      wOp w = 0x25 ∧ tget (0, 0) a.win (wR1 w % 8) = (fld, off) ∧
      let i := (off : Int) + wSImm w
      fld = 0x3F ∧ 0 ≤ i ∧ i ≤ 508 ∧ a.uid = some u ∧ arrived s (frame s u) (i.toNat + 4) = true ∧ 2 < room) ∧
    (∃ (n t w : Nat) (a : Act) (s : State), ∃ fld off, ∃ u, tineAt s n t a w ∧ wOp w = 0x25 ∧ tget (0, 0) a.win (wR1 w % 8) = (fld, off) ∧
      let i := (off : Int) + wSImm w
      fld = 0x3F ∧ 0 ≤ i ∧ i ≤ 508 ∧ a.uid = some u ∧ arrived s (frame s u) (i.toNat + 4) = false) ∧
    (∃ (n t w : Nat) (a : Act) (s : State), ∃ fld off, tineAt s n t a w ∧
      let room := (progOf s n a).budget - cyclesBefore s a
      wOp w = 0x25 ∧ tget (0, 0) a.win (wR1 w % 8) = (fld, off) ∧
      let i := (off : Int) + wSImm w
      fld = 0x3F ∧ 0 ≤ i ∧ i ≤ 508 ∧ a.uid = none ∧ 2 < room) ∧
    (∃ (n t w : Nat) (a : Act) (s : State), ∃ fld off, tineAt s n t a w ∧
      let room := (progOf s n a).budget - cyclesBefore s a
      wOp w = 0x25 ∧ tget (0, 0) a.win (wR1 w % 8) = (fld, off) ∧ fld ≠ 0x3F ∧ a.uid = none ∧ 2 < room) ∧
    (∃ (n t w : Nat) (a : Act) (s : State), ∃ fld off, ∃ u, ∃ v, tineAt s n t a w ∧
      let room := (progOf s n a).budget - cyclesBefore s a
      wOp w = 0x25 ∧ tget (0, 0) a.win (wR1 w % 8) = (fld, off) ∧ fld ≠ 0x3F ∧ a.uid = some u ∧ frameField s n a u fld = some v ∧ 2 < room) ∧
    (∃ (n t w : Nat) (a : Act) (s : State), ∃ fld off, ∃ u, tineAt s n t a w ∧ wOp w = 0x25 ∧ tget (0, 0) a.win (wR1 w % 8) = (fld, off) ∧ fld ≠ 0x3F ∧ a.uid = some u ∧ frameField s n a u fld = none) ∧
    (∃ (n t w : Nat) (a : Act) (s : State), tineAt s n t a w ∧
      let room := (progOf s n a).budget - cyclesBefore s a
      wOp w = 0x26 ∧
      let i := (getG a (wR1 w)).toNat
      510 < i ∧ 3 < room) ∧
    (∃ (n t w : Nat) (a : Act) (s : State), ∃ h, tineAt s n t a w ∧
      let room := (progOf s n a).budget - cyclesBefore s a
      wOp w = 0x26 ∧
      let i := (getG a (wR1 w)).toNat
      i ≤ 510 ∧ winBytes s a i 2 = some h ∧
      let l := byteAt h 1
      l < 128 ∧ 3 < room) ∧
    (∃ (n t w : Nat) (a : Act) (s : State), ∃ h, tineAt s n t a w ∧
      let room := (progOf s n a).budget - cyclesBefore s a
      wOp w = 0x26 ∧
      let i := (getG a (wR1 w)).toNat
      i ≤ 510 ∧ winBytes s a i 2 = some h ∧
      let l := byteAt h 1
      (l = 128 ∨ 132 < l) ∧ 3 < room) ∧
    (∃ (n t w : Nat) (a : Act) (s : State), ∃ h, ∃ lb, tineAt s n t a w ∧
      let room := (progOf s n a).budget - cyclesBefore s a
      wOp w = 0x26 ∧
      let i := (getG a (wR1 w)).toNat
      i ≤ 510 ∧ winBytes s a i 2 = some h ∧
      let l := byteAt h 1
      128 < l ∧ l ≤ 132 ∧ winBytes s a (i + 2) (l - 128) = some lb ∧ 3 < room ∧ 512 < i + 2 + (l - 128) + beNat lb) ∧
    (∃ (n t w : Nat) (a : Act) (s : State), ∃ h, ∃ lb, tineAt s n t a w ∧
      let room := (progOf s n a).budget - cyclesBefore s a
      wOp w = 0x26 ∧
      let i := (getG a (wR1 w)).toNat
      i ≤ 510 ∧ winBytes s a i 2 = some h ∧
      let l := byteAt h 1
      128 < l ∧ l ≤ 132 ∧ winBytes s a (i + 2) (l - 128) = some lb ∧ 3 < room ∧ i + 2 + (l - 128) + beNat lb ≤ 512 ∧ l < 132) ∧
    (∃ (n t w : Nat) (a : Act) (s : State), ∃ h, ∃ lb, tineAt s n t a w ∧
      let room := (progOf s n a).budget - cyclesBefore s a
      wOp w = 0x26 ∧
      let i := (getG a (wR1 w)).toNat
      i ≤ 510 ∧ winBytes s a i 2 = some h ∧
      let l := byteAt h 1
      128 < l ∧ l ≤ 132 ∧ winBytes s a (i + 2) (l - 128) = some lb ∧ 3 < room ∧ i + 2 + (l - 128) + beNat lb ≤ 512 ∧ l = 132) ∧
    (∃ (n t w : Nat) (a : Act) (s : State), ∃ h, tineAt s n t a w ∧ wOp w = 0x26 ∧
      let i := (getG a (wR1 w)).toNat
      i ≤ 510 ∧ winBytes s a i 2 = some h ∧
      let l := byteAt h 1
      128 < l ∧ l ≤ 132 ∧ winBytes s a (i + 2) (l - 128) = none) ∧
    (∃ (n t w : Nat) (a : Act) (s : State), tineAt s n t a w ∧ wOp w = 0x26 ∧
      let i := (getG a (wR1 w)).toNat
      i ≤ 510 ∧ winBytes s a i 2 = none) ∧
    (∃ (n t w : Nat) (a : Act) (s : State), tineAt s n t a w ∧ wOp w = 0x27 ∧
      let off := (getG a (wR1 w)).toNat
      let len := (getG a (wR2 w)).toNat
      512 < off + len) ∧
    (∃ (n t w : Nat) (a : Act) (s : State), ∃ b, tineAt s n t a w ∧
      let room := (progOf s n a).budget - cyclesBefore s a
      wOp w = 0x27 ∧
      let off := (getG a (wR1 w)).toNat
      let len := (getG a (wR2 w)).toNat
      off + len ≤ 512 ∧ winBytes s a off len = some b ∧ 2 + (len + 7) / 8 < room) ∧
    (∃ (n t w : Nat) (a : Act) (s : State), tineAt s n t a w ∧ wOp w = 0x27 ∧
      let off := (getG a (wR1 w)).toNat
      let len := (getG a (wR2 w)).toNat
      off + len ≤ 512 ∧ winBytes s a off len = none) :=
  ⟨⟨15, 63, 1612709890, act, tined act 1612709890, 0x18, 4, by unfold tineAt; decide +kernel, by decide +kernel⟩,
   ⟨15, 63, 1612711932, act, tined act 1612711932, 0x18, 4, (readBytes act 0x7FC 4 (tined act 1612711932)).1, (readBytes act 0x7FC 4 (tined act 1612711932)).2.1, (readBytes act 0x7FC 4 (tined act 1612711932)).2.2, by unfold tineAt; decide +kernel, by decide +kernel, by decide +kernel, by decide +kernel, by decide +kernel, rfl⟩,
   ⟨15, 63, 1948256256, act, tined act 1948256256, 0x1D, 4, by unfold tineAt; decide +kernel, by decide +kernel⟩,
   ⟨15, 63, 1948256252, act, tined act 1948256252, 0x1D, 4, by unfold tineAt; decide +kernel, by decide +kernel⟩,
   ⟨15, 63, 2149580801, act, tined act 2149580801, by unfold tineAt; decide +kernel, by decide +kernel⟩,
   ⟨15, 63, 2149580801, act, { ready 4 with frames := [(9, { port := 63, bytes := zeros 80, rxDone := true })], fb := { (ready 4).fb with beds := [(7, { area0 := { loaded := true, code := toLE 4 2149580801, consts := zeros 64, progs := [(1, { budget := 255 })] }, tines := [(63, act)] })] } }, by unfold tineAt; decide +kernel, by decide +kernel⟩,
   ⟨15, 63, 2149580800, act, tined act 2149580800, by unfold tineAt; decide +kernel, by decide +kernel⟩,
   ⟨15, 63, 2216689664, act, tined act 2216689664, by unfold tineAt; decide +kernel, by decide +kernel⟩,
   ⟨15, 63, 2418016257, act, tined act 2418016257, by unfold tineAt; decide +kernel, by decide +kernel⟩,
   ⟨15, 63, 2418081791, act, tined act 2418081791, by unfold tineAt; decide +kernel, by decide +kernel⟩,
   ⟨15, 63, 2485190657, { act with win := [(1, (0x3F, 508))] }, tined ({ act with win := [(1, (0x3F, 508))] }) 2485190657, 0x3F, 508, by unfold tineAt; decide +kernel, by decide +kernel⟩,
   ⟨15, 63, 2485190656, { act with win := [(1, (0x3F, 508))] }, tined ({ act with win := [(1, (0x3F, 508))] }) 2485190656, 0x3F, 508, 9, by unfold tineAt; decide +kernel, by decide +kernel⟩,
   ⟨15, 63, 2485190656, { act with win := [(1, (0x3F, 508))] }, { tined ({ act with win := [(1, (0x3F, 508))] }) 2485190656 with frames := [(9, { bytes := zeros 80 })] }, 0x3F, 508, 9, by unfold tineAt; decide +kernel, by decide +kernel⟩,
   ⟨15, 63, 2485190656, { act with win := [(1, (0x3F, 508))], uid := none }, tined ({ act with win := [(1, (0x3F, 508))], uid := none }) 2485190656, 0x3F, 508, by unfold tineAt; decide +kernel, by decide +kernel⟩,
   ⟨15, 63, 2485190656, { act with win := [(1, (0x33, 0))], uid := none }, tined ({ act with win := [(1, (0x33, 0))], uid := none }) 2485190656, 0x33, 0, by unfold tineAt; decide +kernel, by decide +kernel⟩,
   ⟨15, 63, 2485190656, { act with win := [(1, (0x33, 0))] }, tined ({ act with win := [(1, (0x33, 0))] }) 2485190656, 0x33, 0, 9, 80, by unfold tineAt; decide +kernel, by decide +kernel⟩,
   ⟨15, 63, 2485190656, { act with win := [(1, (0x33, 0))] }, { tined ({ act with win := [(1, (0x33, 0))] }) 2485190656 with frames := [(9, { bytes := zeros 80 })] }, 0x33, 0, 9, by unfold tineAt; decide +kernel, by decide +kernel⟩,
   ⟨15, 63, 2552299520, { act with g := [(1, 511), (2, 0)] }, tined ({ act with g := [(1, 511), (2, 0)] }) 2552299520, by unfold tineAt; decide +kernel, by decide +kernel⟩,
   ⟨15, 63, 2552299520, { act with g := [(1, 510), (2, 0)] }, { tined ({ act with g := [(1, 510), (2, 0)] }) 2552299520 with frames := [(9, { bytes := zeros 510 ++ [0x61, 0x7F], rxDone := true })] }, [0x61, 0x7F], by unfold tineAt; decide +kernel, by decide +kernel⟩,
   ⟨15, 63, 2552299520, { act with g := [(1, 510), (2, 0)] }, { tined ({ act with g := [(1, 510), (2, 0)] }) 2552299520 with frames := [(9, { bytes := zeros 510 ++ [0x61, 0x80], rxDone := true })] }, [0x61, 0x80], by unfold tineAt; decide +kernel, by decide +kernel⟩,
   ⟨15, 63, 2552299520, { act with g := [(1, 500), (2, 0)] }, { tined ({ act with g := [(1, 500), (2, 0)] }) 2552299520 with frames := [(9, { bytes := zeros 500 ++ [0x61, 0x84, 1, 2, 3, 4], rxDone := true })] }, [0x61, 0x84], [1, 2, 3, 4], by unfold tineAt; decide +kernel, by decide +kernel⟩,
   ⟨15, 63, 2552299520, { act with g := [(1, 500), (2, 0)] }, { tined ({ act with g := [(1, 500), (2, 0)] }) 2552299520 with frames := [(9, { bytes := zeros 500 ++ [0x61, 0x81, 9], rxDone := true })] }, [0x61, 0x81], [9], by unfold tineAt; decide +kernel, by decide +kernel⟩,
   ⟨15, 63, 2552299520, { act with g := [(1, 500), (2, 0)] }, { tined ({ act with g := [(1, 500), (2, 0)] }) 2552299520 with frames := [(9, { bytes := zeros 500 ++ [0x61, 0x84, 0, 0, 0, 6], rxDone := true })] }, [0x61, 0x84], [0, 0, 0, 6], by unfold tineAt; decide +kernel, by decide +kernel⟩,
   ⟨15, 63, 2552299520, { act with g := [(1, 500), (2, 0)] }, { tined ({ act with g := [(1, 500), (2, 0)] }) 2552299520 with frames := [(9, { port := 63, bytes := zeros 500 ++ [0x61, 0x81, 9], start := 0, tick := 8 })], clk := { (tined act 0).clk with edges := 408 } }, [0x61, 0x81], by unfold tineAt; decide +kernel, by decide +kernel⟩,
   ⟨15, 63, 2552299520, { act with g := [(1, 510), (2, 0)] }, { tined ({ act with g := [(1, 510), (2, 0)] }) 2552299520 with frames := [(9, { bytes := zeros 80 })] }, by unfold tineAt; decide +kernel, by decide +kernel⟩,
   ⟨15, 63, 2619412480, { act with g := [(1, 512), (2, 1)] }, tined ({ act with g := [(1, 512), (2, 1)] }) 2619412480, by unfold tineAt; decide +kernel, by decide +kernel⟩,
   ⟨15, 63, 2619412480, { act with g := [(1, 0), (2, 512)] }, tined ({ act with g := [(1, 0), (2, 512)] }) 2619412480, zeros 512, by unfold tineAt; decide +kernel, by decide +kernel⟩,
   ⟨15, 63, 2619412480, { act with g := [(1, 0), (2, 512)] }, { tined ({ act with g := [(1, 0), (2, 512)] }) 2619412480 with frames := [(9, { bytes := zeros 80 })] }, by unfold tineAt; decide +kernel, by decide +kernel⟩⟩

theorem test_TineKeepsRecordsAndEndsActivations :
    (∃ (n t w : Nat) (a : Act) (s : State), tineAt s n t a w ∧ wOp w = 0x2C ∧ a.handle = 0) ∧
    (∃ (n t w : Nat) (a : Act) (s : State), tineAt s n t a w ∧ wOp w = 0x2C ∧ a.handle ≠ 0 ∧ a.locked = false ∧ mayLock (bed s n) a = false) ∧
    (∃ (n t w : Nat) (a : Act) (s : State), tineAt s n t a w ∧
      let room := (progOf s n a).budget - cyclesBefore s a
      wOp w = 0x2C ∧ a.handle ≠ 0 ∧ (a.locked = true ∨ mayLock (bed s n) a = true) ∧ 2 < room) ∧
    (∃ (n t w : Nat) (a : Act) (s : State), tineAt s n t a w ∧ wOp w = 0x2D ∧ a.handle = 0) ∧
    (∃ (n t w : Nat) (a : Act) (s : State), tineAt s n t a w ∧ wOp w = 0x2D ∧ a.handle ≠ 0 ∧ a.locked = false ∧ mayLock (bed s n) a = false) ∧
    (∃ (n t w : Nat) (a : Act) (s : State), tineAt s n t a w ∧
      let room := (progOf s n a).budget - cyclesBefore s a
      wOp w = 0x2D ∧ a.handle ≠ 0 ∧ (a.locked = true ∨ mayLock (bed s n) a = true) ∧ 1 < room) ∧
    (∃ (n t w : Nat) (a : Act) (s : State), tineAt s n t a w ∧
      let room := (progOf s n a).budget - cyclesBefore s a
      wOp w = 0x2E ∧ 1 < room) ∧
    (∃ (n t w : Nat) (a : Act) (s : State), tineAt s n t a w ∧ wOp w = 0x2F ∧ a.handle = 0) ∧
    (∃ (n t w : Nat) (a : Act) (s : State), tineAt s n t a w ∧
      let room := (progOf s n a).budget - cyclesBefore s a
      wOp w = 0x2F ∧ a.handle ≠ 0 ∧ 1 < room) ∧
    (∃ (n t w : Nat) (a : Act) (s : State), tineAt s n t a w ∧
      let room := (progOf s n a).budget - cyclesBefore s a
      wOp w = 0x30 ∧ 2 < room) ∧
    (∃ (n t w : Nat) (a : Act) (s : State), tineAt s n t a w ∧ wOp w = 0x31 ∧ a.handle = 0) ∧
    (∃ (n t w : Nat) (a : Act) (s : State), tineAt s n t a w ∧
      let room := (progOf s n a).budget - cyclesBefore s a
      let x := getG a (wR1 w)
      wOp w = 0x31 ∧ a.handle ≠ 0 ∧ x.toNat = 0 ∧ 2 < room) ∧
    (∃ (n t w : Nat) (a : Act) (s : State), tineAt s n t a w ∧
      let room := (progOf s n a).budget - cyclesBefore s a
      let x := getG a (wR1 w)
      wOp w = 0x31 ∧ a.handle ≠ 0 ∧ x.toNat ≠ 0 ∧ 2 < room ∧ (tmem (bed s n).deadlines a.handle = true ∨ deadlinesHeld (bed s n) a.handle < 8192)) ∧
    (∃ (n t w : Nat) (a : Act) (s : State), tineAt s n t a w ∧
      let room := (progOf s n a).budget - cyclesBefore s a
      let x := getG a (wR1 w)
      wOp w = 0x31 ∧ a.handle ≠ 0 ∧ x.toNat ≠ 0 ∧ 2 < room ∧ tmem (bed s n).deadlines a.handle = false ∧ 8192 ≤ deadlinesHeld (bed s n) a.handle) ∧
    (∃ (n t w : Nat) (a : Act) (s : State), tineAt s n t a w ∧
      let x := getG a (wR1 w)
      wOp w = 0x34 ∧ 4095 < x.toNat) ∧
    (∃ (n t w : Nat) (a : Act) (s : State), tineAt s n t a w ∧
      let room := (progOf s n a).budget - cyclesBefore s a
      let x := getG a (wR1 w)
      wOp w = 0x34 ∧ x.toNat ≤ 4095 ∧ 4 < room) ∧
    (∃ (n t w : Nat) (a : Act) (s : State), tineAt s n t a w ∧ wOp w = 0x35 ∧ a.slot = none) ∧
    (∃ (n t w : Nat) (a : Act) (s : State), ∃ i, tineAt s n t a w ∧
      let room := (progOf s n a).budget - cyclesBefore s a
      let x := getG a (wR1 w)
      let y := getG a (wR2 w)
      wOp w = 0x35 ∧
      let o := x.toNat / 65536
      let l := x.toNat % 65536
      let q := y.toNat / 65536
      let m := y.toNat % 65536
      a.slot = some i ∧ (512 < o + l ∨ 512 < q + m) ∧ 2 < room) ∧
    (∃ (n t w : Nat) (a : Act) (s : State), ∃ i, tineAt s n t a w ∧
      let room := (progOf s n a).budget - cyclesBefore s a
      let x := getG a (wR1 w)
      let y := getG a (wR2 w)
      wOp w = 0x35 ∧
      let o := x.toNat / 65536
      let l := x.toNat % 65536
      let q := y.toNat / 65536
      let m := y.toNat % 65536
      a.slot = some i ∧
      let k := slotAt (fur s (bedFur n)).tab i a.ns
      let bad := k.valid = false ∨ k.alg = 0 ∨ 7 < k.alg ∨ m ≠ tagLen k.alg
      o + l ≤ 512 ∧ q + m ≤ 512 ∧ bad ∧ 2 < room) ∧
    (∃ (n t w : Nat) (a : Act) (s : State), ∃ i, tineAt s n t a w ∧
      let x := getG a (wR1 w)
      let y := getG a (wR2 w)
      wOp w = 0x35 ∧
      let o := x.toNat / 65536
      let l := x.toNat % 65536
      let q := y.toNat / 65536
      let m := y.toNat % 65536
      a.slot = some i ∧
      let k := slotAt (fur s (bedFur n)).tab i a.ns
      let bad := k.valid = false ∨ k.alg = 0 ∨ 7 < k.alg ∨ m ≠ tagLen k.alg
      o + l ≤ 512 ∧ q + m ≤ 512 ∧ ¬bad ∧ (winBytes s a o l = none ∨ winBytes s a q m = none)) ∧
    (∃ (n t w : Nat) (a : Act) (s : State), ∃ i, ∃ d tag, tineAt s n t a w ∧
      let x := getG a (wR1 w)
      let y := getG a (wR2 w)
      wOp w = 0x35 ∧
      let o := x.toNat / 65536
      let l := x.toNat % 65536
      let q := y.toNat / 65536
      let m := y.toNat % 65536
      a.slot = some i ∧
      let k := slotAt (fur s (bedFur n)).tab i a.ns
      let bad := k.valid = false ∨ k.alg = 0 ∨ 7 < k.alg ∨ m ≠ tagLen k.alg
      o + l ≤ 512 ∧ q + m ≤ 512 ∧ ¬bad ∧ winBytes s a o l = some d ∧ winBytes s a q m = some tag) ∧
    (∃ (n t w : Nat) (a : Act) (s : State), tineAt s n t a w ∧
      let room := (progOf s n a).budget - cyclesBefore s a
      wOp w = 0x38 ∧ 2 < room) ∧
    (∃ (n t w : Nat) (a : Act) (s : State), tineAt s n t a w ∧ wOp w = 0x3C ∧ 4 < wImm w % 8) ∧
    (∃ (n t w : Nat) (a : Act) (s : State), tineAt s n t a w ∧
      let room := (progOf s n a).budget - cyclesBefore s a
      wOp w = 0x3C ∧ wImm w % 8 ≤ 4 ∧ 1 ≤ room) ∧
    (∃ (n t w : Nat) (a : Act) (s : State), tineAt s n t a w ∧ legalWord w = false) ∧
    (∃ (n t : Nat) (a : Act) (s : State), s.clk.coreStopped = false ∧ act? s n t = some a) ∧
    (∃ (n t : Nat) (a : Act) (s : State), s.clk.coreStopped = false ∧ act? s n t = some a ∧
      let budget := (progOf s n a).budget
      let c := a.authDone
      a.phase = 1 ∧ budget ≤ c) ∧
    (∃ (n t : Nat) (a : Act) (s : State), s.clk.coreStopped = false ∧ act? s n t = some a ∧
      let budget := (progOf s n a).budget
      let c := a.authDone
      a.phase = 1 ∧ c < budget) :=
  ⟨⟨15, 63, 2954887168, { act with handle := 0 }, (tined ({ act with handle := 0 }) 2954887168), by unfold tineAt; decide +kernel, by decide +kernel⟩,
   ⟨15, 63, 2954887168, act, { (tined (act) 2954887168) with fb := { (tined (act) 2954887168).fb with beds := ((tined (act) 2954887168).fb.beds.map (fun e => (e.1, { e.2 with lock := [(5, 9)] }))) } }, by unfold tineAt; decide +kernel, by decide +kernel⟩,
   ⟨15, 63, 2954887168, act, (tined (act) 2954887168), by unfold tineAt; decide +kernel, by decide +kernel⟩,
   ⟨15, 63, 3021996032, { act with handle := 0 }, (tined ({ act with handle := 0 }) 3021996032), by unfold tineAt; decide +kernel, by decide +kernel⟩,
   ⟨15, 63, 3021996032, act, { (tined (act) 3021996032) with fb := { (tined (act) 3021996032).fb with beds := ((tined (act) 3021996032).fb.beds.map (fun e => (e.1, { e.2 with lock := [(5, 9)] }))) } }, by unfold tineAt; decide +kernel, by decide +kernel⟩,
   ⟨15, 63, 3021996032, act, (tined (act) 3021996032), by unfold tineAt; decide +kernel, by decide +kernel⟩,
   ⟨15, 63, 3087007744, act, (tined (act) 3087007744), by unfold tineAt; decide +kernel, by decide +kernel⟩,
   ⟨15, 63, 3154116608, { act with handle := 0 }, (tined ({ act with handle := 0 }) 3154116608), by unfold tineAt; decide +kernel, by decide +kernel⟩,
   ⟨15, 63, 3154116608, act, (tined (act) 3154116608), by unfold tineAt; decide +kernel, by decide +kernel⟩,
   ⟨15, 63, 3223322624, act, (tined (act) 3223322624), by unfold tineAt; decide +kernel, by decide +kernel⟩,
   ⟨15, 63, 3288399872, { act with handle := 0 }, (tined ({ act with handle := 0 }) 3288399872), by unfold tineAt; decide +kernel, by decide +kernel⟩,
   ⟨15, 63, 3288399872, act, (tined (act) 3288399872), by unfold tineAt; decide +kernel, by decide +kernel⟩,
   ⟨15, 63, 3288399872, { act with g := [(1, 1)] }, { (tined ({ act with g := [(1, 1)] }) 3288399872) with fb := { (tined ({ act with g := [(1, 1)] }) 3288399872).fb with beds := ((tined ({ act with g := [(1, 1)] }) 3288399872).fb.beds.map (fun e => (e.1, { e.2 with deadlines := (List.range 8191).map (fun h => (h + 6, 7)) }))) } }, by unfold tineAt; decide +kernel, by decide +kernel⟩,
   ⟨15, 63, 3288399872, { act with g := [(1, 1)] }, { (tined ({ act with g := [(1, 1)] }) 3288399872) with fb := { (tined ({ act with g := [(1, 1)] }) 3288399872).fb with beds := ((tined ({ act with g := [(1, 1)] }) 3288399872).fb.beds.map (fun e => (e.1, { e.2 with deadlines := (List.range 8192).map (fun h => (h + 6, 7)) }))) } }, by unfold tineAt; decide +kernel, by decide +kernel⟩,
   ⟨15, 63, 3489726464, { act with g := [(1, 4096)] }, (tined ({ act with g := [(1, 4096)] }) 3489726464), by unfold tineAt; decide +kernel, by decide +kernel⟩,
   ⟨15, 63, 3489726464, { act with g := [(1, 4095)] }, (tined ({ act with g := [(1, 4095)] }) 3489726464), by unfold tineAt; decide +kernel, by decide +kernel⟩,
   ⟨15, 63, 3558936576, { act with slot := none }, (tined ({ act with slot := none }) 3558936576), by unfold tineAt; decide +kernel, by decide +kernel⟩,
   ⟨15, 63, 3558936576, { act with g := [(1, 33554433), (2, 0)] }, (tined ({ act with g := [(1, 33554433), (2, 0)] }) 3558936576), 4095, by unfold tineAt; decide +kernel, by decide +kernel⟩,
   ⟨15, 63, 3558936576, { act with g := [(1, 33554432), (2, 33554432)] }, (tined ({ act with g := [(1, 33554432), (2, 33554432)] }) 3558936576), 4095, by unfold tineAt; decide +kernel, by decide +kernel⟩,
   ⟨15, 63, 3558936576, { act with g := [(1, 64), (2, 4194312)] }, { tined ({ act with g := [(1, 64), (2, 4194312)] }) 3558936576 with fb := { (tined ({ act with g := [(1, 64), (2, 4194312)] }) 3558936576).fb with tab := { keys := [(4095, { valid := true, alg := 6, len := 16 })] } }, frames := [(9, { port := 63, bytes := zeros 80 })] }, 4095, by unfold tineAt; decide +kernel, by decide +kernel⟩,
   ⟨15, 63, 3558936576, { act with g := [(1, 64), (2, 4194312)] }, { (tined ({ act with g := [(1, 64), (2, 4194312)] }) 3558936576) with fb := { (tined ({ act with g := [(1, 64), (2, 4194312)] }) 3558936576).fb with tab := { keys := [(4095, { valid := true, alg := 6, len := 16 })] } } }, 4095, zeros 64, zeros 8, by unfold tineAt; decide +kernel, by decide +kernel⟩,
   ⟨15, 63, 3758161920, act, (tined (act) 3758161920), by unfold tineAt; decide +kernel, by decide +kernel⟩,
   ⟨15, 63, 4026531845, act, (tined (act) 4026531845), by unfold tineAt; decide +kernel, by decide +kernel⟩,
   ⟨15, 63, 4026531844, act, (tined (act) 4026531844), by unfold tineAt; decide +kernel, by decide +kernel⟩,
   ⟨15, 63, 4227858432, act, (tined (act) 4227858432), by unfold tineAt; decide +kernel, by decide +kernel⟩,
   ⟨15, 63, act, (tined (act) 0), by decide +kernel⟩,
   ⟨15, 63, { act with phase := 1, authDone := 319 }, (tined ({ act with phase := 1, authDone := 319 }) 0), by decide +kernel⟩,
   ⟨15, 63, { act with phase := 1, authDone := 5 }, tined { act with phase := 1, authDone := 5 } 0, by decide +kernel⟩⟩

theorem test_BedsDispatchAndRelease :
    (∃ (n : Nat) (q : QEnt) (s : State), s.clk.coreStopped = false ∧
      let v := wantQueued n s
      let b := bed v n
      bedRuns s n = true ∧ startable b = some q ∧ q.uid = none ∧ (q.handle, q.ns) ∉ armed v n) ∧
    (∃ (n : Nat) (q : QEnt) (s : State), ∃ t, ∃ u, s.clk.coreStopped = false ∧
      let v := wantQueued n s
      let b := bed v n
      bedRuns s n = true ∧ startable b = some q ∧ (b.release.filter (·.window)).length < 128 ∧ freeTine b 0 (if pinnedCount b = 0 then 63 else 55) = some t ∧ q.uid = some u) ∧
    (∃ (n : Nat) (q : QEnt) (s : State), ∃ t, s.clk.coreStopped = false ∧
      let v := wantQueued n s
      let b := bed v n
      bedRuns s n = true ∧ startable b = some q ∧ (b.release.filter (·.window)).length < 128 ∧ freeTine b 0 (if pinnedCount b = 0 then 63 else 55) = some t ∧ q.uid = none ∧ (q.handle, q.ns) ∈ armed v n) ∧
    (∃ (n h : Nat) (rest : List Nat) (s : State), s.clk.coreStopped = false ∧ (bed s n).fetching = h :: rest ∧ deepTraining s = true) ∧
    (∃ (n h : Nat) (rest : List Nat) (s : State), s.clk.coreStopped = false ∧ (bed s n).fetching = h :: rest ∧ deepTraining s = false) ∧
    (∃ (n h : Nat) (rest : List Nat) (s : State), s.clk.coreStopped = false ∧ (bed s n).fetching = h :: rest ∧ deepTraining s = false ∧ deepUp s (recAddr s (bedFur n) h) = true) ∧
    (∃ (n v : Nat) (inl : Bool) (e : RelEnt) (s : State), s.clk.coreStopped = false ∧ (bed s n).release.find? (fun e => e.inline_ == inl) = some e ∧ e.verdict = some v ∧ inl = false ∧ (∃ q ∈ (bed s n).queue, q.seq < e.seq)) ∧
    (∃ (n v : Nat) (inl : Bool) (e : RelEnt) (s : State), s.clk.coreStopped = false ∧ (bed s n).release.find? (fun e => e.inline_ == inl) = some e ∧ e.verdict = some v ∧ (inl = true ∨ ∀ q ∈ (bed s n).queue, e.seq ≤ q.seq) ∧ e.uid = none) ∧
    (∃ (n v : Nat) (inl : Bool) (e : RelEnt) (s : State), ∃ u, s.clk.coreStopped = false ∧ (bed s n).release.find? (fun e => e.inline_ == inl) = some e ∧ e.verdict = some v ∧ (inl = true ∨ ∀ q ∈ (bed s n).queue, e.seq ≤ q.seq) ∧ e.uid = some u) ∧
    (∃ (n : Nat) (s : State), s.clk.coreStopped = false) ∧
    (∃ (n : Nat) (s : State), ∃ e rest, s.clk.coreStopped = false ∧ (bed s n).release.filter (·.window) = e :: rest ∧ ((bed s n).tines ≠ [] ∨ (bed s n).queue ≠ [])) ∧
    (∃ (n h d : Nat) (s : State), s.clk.coreStopped = false ∧ nextDeadline s n = some (h, d) ∧ (bed s n).stopped = false) ∧
    (∃ (n h d e : Nat) (rest : List (Nat × Nat × Nat)) (s : State), s.clk.coreStopped = false ∧ (bed s n).retry = (h, d, e) :: rest ∧
      let v := reachEdge e s
      (h, d) ∈ armed v n) ∧
    (∃ (n h d e : Nat) (rest : List (Nat × Nat × Nat)) (s : State), s.clk.coreStopped = false ∧ (bed s n).retry = (h, d, e) :: rest ∧
      let v := reachEdge e s
      (h, d) ∉ armed v n) ∧
    (∃ (n : Nat) (k : ImgAct) (s : State), s.clk.coreStopped = false ∧ (bed s n).pendAct = some k ∧ k.ticket = none) ∧
    (∃ (n : Nat) (k : ImgAct) (s : State), ∃ c, s.clk.coreStopped = false ∧ (bed s n).pendAct = some k ∧ k.ticket = some c) ∧
    (∃ (l : ImgLoad) (k : Ticket) (s : State), ∃ o, s.clk.coreStopped = false ∧ s.imgLoad = some l ∧ l.ticket = some k ∧ imageBad l.bytes = some o) ∧
    (∃ (l : ImgLoad) (k : Ticket) (s : State), s.clk.coreStopped = false ∧ s.imgLoad = some l ∧ l.ticket = some k ∧ imageBad l.bytes = none ∧ imageAuth s l.bytes = false) ∧
    (∃ (l : ImgLoad) (k : Ticket) (s : State), s.clk.coreStopped = false ∧ s.imgLoad = some l ∧ l.ticket = some k ∧ imageBad l.bytes = none ∧ imageAuth s l.bytes = true) :=
  ⟨⟨15, { uid := none, handle := 5, prog := 127, ns := 7, area := 0, seq := 1 }, { ready 4 with fb := { (ready 4).fb with beds := [(7, { queue := [{ uid := none, handle := 5, prog := 127, ns := 7, area := 0, seq := 1 }], recs := [(5, {})] })] }, slices := { (ready 4).slices with bedClocks := 32768 } }, by decide +kernel⟩,
   ⟨15, { uid := some 9, handle := 0, prog := 127, ns := 0, area := 0, seq := 1 }, { ready 4 with fb := { (ready 4).fb with beds := [(7, { queue := [{ uid := some 9, handle := 0, prog := 127, ns := 0, area := 0, seq := 1 }], tines := (List.range 54).map (fun t => (t, act)), recs := [(5, { pinned := true })] })] }, slices := { (ready 4).slices with bedClocks := 32768 } }, 54, 9, by decide +kernel⟩,
   ⟨15, { uid := none, handle := 5, prog := 127, ns := 7, area := 0, seq := 1 }, { ready 4 with fb := { (ready 4).fb with beds := [(7, { queue := [{ uid := none, handle := 5, prog := 127, ns := 7, area := 0, seq := 1 }], recs := [(5, {})], deadlines := [(5, 7)] })] }, slices := { (ready 4).slices with bedClocks := 32768 } }, 0, by decide +kernel⟩,
   ⟨15, 1048575, [], { ready 4 with fb := { (ready 4).fb with beds := [(7, { fetching := [1048575] })] }, deep := { (ready 4).deep with training := some { mask := 1, stage := 2, startedAt := 0, ticket := none } } }, by decide +kernel⟩,
   ⟨15, 1048575, [], { ready 4 with fb := { (ready 4).fb with beds := [(7, { fetching := [1048575] })] } }, by decide +kernel⟩,
   ⟨15, 1048575, [], { ready 4 with fb := { (ready 4).fb with beds := [(7, { fetching := [1048575] })] }, deep := { (ready 4).deep with grain := some 8, map0 := 2 ^ 30, ch0 := { state := 3, mapped := true } } }, by decide +kernel⟩,
   ⟨15, 4, false, { seq := 5, inline_ := false, uid := none, handle := 1048575, since := 0, verdict := some 4 }, { ready 4 with fb := { (ready 4).fb with beds := [(7, { release := [{ seq := 5, inline_ := false, uid := none, handle := 1048575, since := 0, verdict := some 4 }], queue := [{ uid := some 9, handle := 0, prog := 127, ns := 0, area := 0, seq := 1 }] })] } }, by decide +kernel⟩,
   ⟨15, 4, true, { seq := 1, inline_ := true, uid := none, handle := 1048575, since := 0, verdict := some 4 }, { ready 4 with fb := { (ready 4).fb with beds := [(7, { release := [{ seq := 1, inline_ := true, uid := none, handle := 1048575, since := 0, verdict := some 4 }] })] } }, by decide +kernel⟩,
   ⟨15, 4, true, { seq := 1, inline_ := true, uid := some 9, handle := 1048575, since := 0, verdict := some 4 }, { ready 4 with fb := { (ready 4).fb with beds := [(7, { release := [{ seq := 1, inline_ := true, uid := some 9, handle := 1048575, since := 0, verdict := some 4 }] })] }, frames := [(9, { bytes := zeros 80 })] }, 9, by decide +kernel⟩,
   ⟨15, ready 4, by decide +kernel⟩,
   ⟨15, { ready 4 with fb := { (ready 4).fb with beds := [(7, { release := [{ seq := 1, inline_ := true, uid := some 9, handle := 1048575, since := 0, verdict := some 4 }], tines := [(63, act)] })] } }, { seq := 1, inline_ := true, uid := some 9, handle := 1048575, since := 0, verdict := some 4 }, [], by decide +kernel⟩,
   ⟨15, 1048575, 9, { ready 4 with fb := { (ready 4).fb with beds := [(7, { deadlines := [(1048575, 9)] })] } }, by decide +kernel⟩,
   ⟨15, 1048575, 5, 7, [], { ready 4 with fb := { (ready 4).fb with beds := [(7, { retry := [(1048575, 5, 7)], deadlines := [(1048575, 5)] })] } }, by decide +kernel⟩,
   ⟨15, 1048575, 5, 7, [], { ready 4 with fb := { (ready 4).fb with beds := [(7, { retry := [(1048575, 5, 7)], deadlines := [(1048575, 6)] })] } }, by decide +kernel⟩,
   ⟨15, { t := 9, since := 0 }, { ready 4 with fb := { (ready 4).fb with beds := [(7, { pendAct := some { t := 9, since := 0 } })] } }, by decide +kernel⟩,
   ⟨15, { t := 9, since := 0, ticket := some tick }, { ready 4 with fb := { (ready 4).fb with beds := [(7, { pendAct := some { t := 9, since := 0, ticket := some tick } })] } }, tick, by decide +kernel⟩,
   ⟨{ session := 4, mask := 255, total := 0, bytes := [], ticket := some tick }, tick, { ready 4 with imgLoad := some { session := 4, mask := 255, total := 0, bytes := [], ticket := some tick } }, 0, by decide +kernel⟩,
   ⟨{ session := 4, mask := 255, total := 0, bytes := ([0x54, 0x49, 0x53, 0x32, 2, 0, 0, 0, 0, 0, 0, 0, 4, 0, 0, 0, 1] ++ zeros 47 ++ [127, 0, 0, 0, 0, 0, 16, 0, 4] ++ zeros 11 ++ toBE 32 0x51590b7a515140d2d784c85608668fdfef8c82fd1f5be52421554a0dc3d033ed ++ toBE 32 0xe0c17da8904a727d8ae1bf36bf8a79260d012f00d4d80888d1d0bb44fda16da4 ++ toBE 32 0x8e533b6fa0bf7b4625bb30667c01fb607ef9f8b8a80fef5b300628703187b2a3 ++ toBE 32 0x30ec63a4a1df69eea6853e0a6ae796bbc2cb0ddbdb42b3b24d85769b2a4aebfc), ticket := some tick }, tick, { ready 4 with imgLoad := some { session := 4, mask := 255, total := 0, bytes := ([0x54, 0x49, 0x53, 0x32, 2, 0, 0, 0, 0, 0, 0, 0, 4, 0, 0, 0, 1] ++ zeros 47 ++ [127, 0, 0, 0, 0, 0, 16, 0, 4] ++ zeros 11 ++ toBE 32 0x51590b7a515140d2d784c85608668fdfef8c82fd1f5be52421554a0dc3d033ed ++ toBE 32 0xe0c17da8904a727d8ae1bf36bf8a79260d012f00d4d80888d1d0bb44fda16da4 ++ toBE 32 0x8e533b6fa0bf7b4625bb30667c01fb607ef9f8b8a80fef5b300628703187b2a3 ++ toBE 32 0x30ec63a4a1df69eea6853e0a6ae796bbc2cb0ddbdb42b3b24d85769b2a4aebfc), ticket := some tick } }, by decide +kernel⟩,
   ⟨{ session := 4, mask := 255, total := 0, bytes := ([0x54, 0x49, 0x53, 0x32, 2, 0, 0, 0, 0, 0, 0, 0, 4, 0, 0, 0, 1] ++ zeros 47 ++ [127, 0, 0, 0, 0, 0, 16, 0, 4] ++ zeros 11 ++ toBE 32 0x51590b7a515140d2d784c85608668fdfef8c82fd1f5be52421554a0dc3d033ed ++ toBE 32 0xe0c17da8904a727d8ae1bf36bf8a79260d012f00d4d80888d1d0bb44fda16da4 ++ toBE 32 0x8e533b6fa0bf7b4625bb30667c01fb607ef9f8b8a80fef5b300628703187b2a3 ++ toBE 32 0x30ec63a4a1df69eea6853e0a6ae796bbc2cb0ddbdb42b3b24d85769b2a4aebfc), ticket := some tick }, tick, { ready 4 with imgLoad := some { session := 4, mask := 255, total := 0, bytes := ([0x54, 0x49, 0x53, 0x32, 2, 0, 0, 0, 0, 0, 0, 0, 4, 0, 0, 0, 1] ++ zeros 47 ++ [127, 0, 0, 0, 0, 0, 16, 0, 4] ++ zeros 11 ++ toBE 32 0x51590b7a515140d2d784c85608668fdfef8c82fd1f5be52421554a0dc3d033ed ++ toBE 32 0xe0c17da8904a727d8ae1bf36bf8a79260d012f00d4d80888d1d0bb44fda16da4 ++ toBE 32 0x8e533b6fa0bf7b4625bb30667c01fb607ef9f8b8a80fef5b300628703187b2a3 ++ toBE 32 0x30ec63a4a1df69eea6853e0a6ae796bbc2cb0ddbdb42b3b24d85769b2a4aebfc), ticket := some tick }, opt := { (ready 4).opt with row := 0x2db9dde21110dc9f1c8aee68e7adb48907460072e13742a05a2d71340958f1dc * 2 ^ 240 } }, by decide +kernel⟩⟩

theorem test_SupervisionKeysAndImagesAreCommanded :
    (∃ (p : Packet) (s : State),
      let r := reached specStreamSupervise p s
      let b := p.params
      let h := le b 4 4
      accepts specStreamSupervise p s = true ∧ reservedAt b 1 3 = true ∧
      let k := bedIndex h 0
      let l := r.hl.lead
      let inl := bit (byteAt b 9) 0
      let was := tget 0 (fur r l).hot h
      byteAt b 0 = 0 ∧ 1 ≤ h ∧ h < 2 ^ 20 ∧ byteAt b 8 < 128 ∧ byteAt b 9 < 2 ∧ le b 10 2 ≤ 1023 ∧ reservedAt b 12 4 = true ∧ (tget {} (fur r l).tab.bind h).bound = true ∧ (inl = true → hotInline was = true ∨ pinsOf r (8 * l + k) < 1024) ∧ (streamRegion r = true ∨ byteAt b 8 = 0 ∨ hotProg was ≠ 0 ∨ supervisedOn r l k < 4096)) ∧
    (∃ (p : Packet) (s : State),
      let r := reached specStreamSupervise p s
      let b := p.params
      let h := le b 4 4
      accepts specStreamSupervise p s = true ∧ reservedAt b 1 3 = true ∧
      let f := byteAt b 8
      byteAt b 0 = 1 ∧ 1 ≤ h ∧ h < 2 ^ 20 ∧ f < 2 ∧ reservedAt b 9 3 = true ∧ powered r f = true) ∧
    (∃ (p : Packet) (s : State),
      let b := p.params
      let i := le b 4 2
      accepts specStreamSupervise p s = true ∧ reservedAt b 1 3 = true ∧ byteAt b 0 = 2 ∧ i ≤ 1023 ∧ reservedAt b 6 2 = true ∧ firstBad (paramOk b 8) = none) ∧
    (∃ (p : Packet) (s : State),
      let b := p.params
      let h := le b 4 4
      accepts specStreamSupervise p s = true ∧ reservedAt b 1 3 = true ∧ byteAt b 0 = 3 ∧ 1 ≤ h ∧ h < 2 ^ 20) ∧
    (∃ (f h te : Nat) (s : State), State.wf s = true ∧ f < 2) ∧
    (∃ (p : Packet) (s : State),
      let b := p.params
      let n := le b 0 2
      accepts specKeySlotWrite p s = true ∧ n < 4096 ∧ reservedAt b 3 1 = true ∧ byteAt b 2 = 1) ∧
    (∃ (p : Packet) (s : State),
      let b := p.params
      let n := le b 0 2
      let alg := byteAt b 40
      let nb := le b 44 8
      let na := le b 52 8
      accepts specKeySlotWrite p s = true ∧ n < 4096 ∧ reservedAt b 3 1 = true ∧ byteAt b 2 = 0 ∧ alg ≤ 7 ∧ keyLenOk alg (byteAt b 41) = true ∧ reservedAt b 42 2 = true ∧ t64Ok nb = true ∧ t64Ok na = true ∧ nsOfT64 nb < nsOfT64 na ∧ reservedAt b 60 8 = true) ∧
    (∃ (p : Packet) (s : State),
      let r := reached specTineImageLoad p s
      let b := p.params
      let total := le b 8 4
      accepts specTineImageLoad p s = true ∧ reservedAt b 2 2 = true ∧ reservedAt b 12 4 = true ∧ byteAt b 0 = 0 ∧ byteAt b 1 ≠ 0 ∧ total ≤ 18608 ∧ (∀ l, r.imgLoad = some l → l.session = p.session ∧ l.ticket = none) ∧ (∀ n ∈ maskBeds r (byteAt b 1), (bed r n).pendAct = none)) ∧
    (∃ (p : Packet) (s : State), ∃ l,
      let r := reached specTineImageLoad p s
      let b := p.params
      let total := le b 8 4
      accepts specTineImageLoad p s = true ∧ reservedAt b 2 2 = true ∧ reservedAt b 12 4 = true ∧ r.imgLoad = some l ∧ l.session = p.session ∧ l.ticket = none ∧ byteAt b 0 = 1 ∧ le b 4 4 + (b.length - 16) ≤ l.total) ∧
    (∃ (p : Packet) (s : State), ∃ l,
      let r := reached specTineImageLoad p s
      let b := p.params
      accepts specTineImageLoad p s = true ∧ reservedAt b 2 2 = true ∧ reservedAt b 12 4 = true ∧ r.imgLoad = some l ∧ l.session = p.session ∧ l.ticket = none ∧ byteAt b 0 = 2) ∧
    (∃ (p : Packet) (s : State), ∃ l,
      let r := reached specTineImageLoad p s
      let b := p.params
      accepts specTineImageLoad p s = true ∧ reservedAt b 2 2 = true ∧ reservedAt b 12 4 = true ∧ r.imgLoad = some l ∧ l.session = p.session ∧ l.ticket = none ∧ byteAt b 0 = 3) ∧
    (∃ (p : Packet) (s : State),
      let r := reached specTineImageActivate p s
      let b := p.params
      let bs := maskBeds r (byteAt b 0)
      let t := if le b 8 8 = 0 then nextWholeMs r else nsOfT64 (le b 8 8)
      accepts specTineImageActivate p s = true ∧ byteAt b 0 ≠ 0 ∧ reservedAt b 1 7 = true ∧ (le b 8 8 = 0 ∨ (t64Ok (le b 8 8) = true ∧ inMinute r t = true)) ∧ (∀ n ∈ bs, (bed r n).pendAct = none ∧ (area (bed r n) (1 - (bed r n).active)).loaded = true ∧
        ((area (bed r n) (bed r n).active).loaded = true → (bed r n).area0.layout = (bed r n).area1.layout ∨ r.dev.state = 3))) ∧
    (∃ (p : Packet) (s : State),
      let b := p.params
      accepts specTineSampleSet p s = true ∧ 1 ≤ byteAt b 0 ∧ byteAt b 0 ≤ 3 ∧ byteAt b 1 ≤ 2 ∧ byteAt b 2 ≤ 127 ∧ reservedAt b 3 1 = true ∧ 1 ≤ le b 4 4 ∧ le b 4 4 ≤ 16777216 ∧ reservedAt b 8 8 = true) ∧
    (∃ (p : Packet) (s : State),
      let r := reached specBedStatus p s
      let n := byteAt p.params 0
      accepts specBedStatus p s = true ∧ n < 16 ∧ reservedAt p.params 1 3 = true ∧ powered r (bedFur n) = false) ∧
    (∃ (p : Packet) (s : State),
      let r := reached specBedStatus p s
      let n := byteAt p.params 0
      accepts specBedStatus p s = true ∧ n < 16 ∧ reservedAt p.params 1 3 = true ∧ powered r (bedFur n) = true) :=
  ⟨⟨ask ([0, 0, 0, 0, 255, 255, 15, 0, 127, 1, 255, 3] ++ zeros 4), { ready 4 with fa := { (ready 4).fa with tab := { bind := [(1048575, { bound := true })] } }, deep := { (ready 4).deep with enables := 2, grain := some 8 } }, by decide +kernel⟩,
   ⟨ask [1, 0, 0, 0, 255, 255, 15, 0, 1, 0, 0, 0], ready 4, by decide +kernel⟩,
   ⟨ask ([2, 0, 0, 0, 255, 3, 0, 0, 127, 0, 0, 0, 192, 18, 255, 255, 0, 0, 0, 0, 0, 0, 0, 0, 0, 0, 0, 0, 8] ++ zeros 11), ready 4, by decide +kernel⟩,
   ⟨ask [3, 0, 0, 0, 255, 255, 15, 0], ready 4, by decide +kernel⟩,
   ⟨1, 1048575, 9, ready 4, by decide +kernel⟩,
   ⟨ask ([255, 15, 1] ++ zeros 65), ready 4, by decide +kernel⟩,
   ⟨ask ([255, 15, 0, 0, 0, 0, 0, 0, 0, 0, 0, 0, 0, 0, 0, 0, 0, 0, 0, 0, 0, 0, 0, 0, 0, 0, 0, 0, 0, 0, 0, 0, 0, 0, 0, 0, 0, 0, 0, 0, 7, 32, 0, 0, 0, 0, 0, 0, 0, 0, 0, 0, 0, 0, 0, 64, 0, 0, 0, 0] ++ zeros 8), ready 4, by decide +kernel⟩,
   ⟨ask ([0, 255, 0, 0, 0, 0, 0, 0, 176, 72, 0, 0] ++ zeros 4), ready 3, by decide +kernel⟩,
   ⟨ask ([1, 255, 0, 0, 172, 72, 0, 0] ++ zeros 12), { ready 3 with imgLoad := some { session := 4, mask := 255, total := 18608, bytes := [], ticket := none } }, { session := 4, mask := 255, total := 18608, bytes := [], ticket := none }, by decide +kernel⟩,
   ⟨ask ([2, 255] ++ zeros 14), { ready 3 with imgLoad := some { session := 4, mask := 255, total := 18608, bytes := [], ticket := none } }, { session := 4, mask := 255, total := 18608, bytes := [], ticket := none }, by decide +kernel⟩,
   ⟨ask ([3, 255] ++ zeros 14), { ready 3 with imgLoad := some { session := 4, mask := 255, total := 18608, bytes := [], ticket := none } }, { session := 4, mask := 255, total := 18608, bytes := [], ticket := none }, by decide +kernel⟩,
   ⟨ask ([255] ++ zeros 15), { ready 3 with fa := { (ready 3).fa with beds := (List.range 8).map (fun k => (k, { area1 := { loaded := true } })) }, fb := { (ready 3).fb with beds := (List.range 8).map (fun k => (k, { area1 := { loaded := true } })) } }, by decide +kernel⟩,
   ⟨ask ([3, 2, 127, 0, 0, 0, 0, 1] ++ zeros 8), ready 4, by decide +kernel⟩,
   ⟨ask [15, 0, 0, 0], { ready 4 with sup := { (ready 4).sup with poweredB := false } }, by decide +kernel⟩,
   ⟨ask (zeros 4), ready 4, by decide +kernel⟩⟩

theorem test_TheGranaryAllocatesAdmitsAndReturns :
    (∃ (h : Nat) (d0 d1 : Option Nat) (s : State), s.clk.coreStopped = false ∧ h < 2 ∧
      let s0 := reachEdge (half s h).at_ s
      let more := (s0.frames.filter (fun e => wants s0 h e.2)).length - 2
      let v := modGran (fun g => { g with ungranted := (g.ungranted + more) % 2 ^ 48 }) (modHalf h (fun x => { x with at_ := s0.clk.edges + 1 }) s0)
      bestReq v h none = none) ∧
    (∃ (h : Nat) (d0 d1 : Option Nat) (s : State), ∃ u, s.clk.coreStopped = false ∧ h < 2 ∧
      let s0 := reachEdge (half s h).at_ s
      let more := (s0.frames.filter (fun e => wants s0 h e.2)).length - 2
      let v := modGran (fun g => { g with ungranted := (g.ungranted + more) % 2 ^ 48 }) (modHalf h (fun x => { x with at_ := s0.clk.edges + 1 }) s0)
      bestReq v h none = some u) ∧
    (∃ (h u : Nat) (d : Option Nat) (s : State),
      let x := frame s u
      tmem s.frames u = true ∧ wants s h x = true ∧ unbooked x h = []) ∧
    (∃ (h u : Nat) (d : Option Nat) (s : State), ∃ cell rest,
      let x := frame s u
      tmem s.frames u = true ∧ wants s h x = true ∧ unbooked x h = cell :: rest) ∧
    (∃ (h u : Nat) (d : Option Nat) (s : State),
      let x := frame s u
      (tmem s.frames u = false ∨ wants s h x = false)) ∧
    (∃ (h : Nat) (s : State), (half s h).returns = []) ∧
    (∃ (h : Nat) (s : State), ∃ r rest, (half s h).returns = r :: rest) ∧
    (∃ (h e : Nat) (bad : List Nat) (s : State), s.clk.coreStopped = false ∧ h < 2 ∧ (half s h).rebuilding = some e) ∧
    (∃ (u bad_ : Nat) (d : Decision) (s00 : State), s00.clk.coreStopped = false ∧
      let w := if 128 ≤ bad_ then (0, discardUpset u (bad_ - 128) s00) else readBelow 64 bad_ s00
      let s0 := w.2
      let x := frame s0 u
      decOf x (admitFur s0 x) = some d ∧ x.admitted = false ∧ x.admitting = none ∧ x.kind = 0 ∧ (x.copyA.isSome = true ∨ x.copyB.isSome = true) ∧ (keeps s0 u 0 = true ∨ keeps s0 u 1 = true) ∧ d.dropped ≠ 0) ∧
    (∃ (u bad_ : Nat) (d : Decision) (s00 : State), s00.clk.coreStopped = false ∧
      let w := if 128 ≤ bad_ then (0, discardUpset u (bad_ - 128) s00) else readBelow 64 bad_ s00
      let s0 := w.2
      let x := frame s0 u
      let k := d.class_
      let q := queueKey d.handle x.port k
      let s := modFrame u (fun x => { x with class_ := k, queue := q }) s0
      let y := queue s q
      let mixed := y.list ≠ [] ∧ y.kind ≠ b2n (k == 7)
      decOf x (admitFur s0 x) = some d ∧ x.admitted = false ∧ x.admitting = none ∧ x.kind = 0 ∧ (x.copyA.isSome = true ∨ x.copyB.isSome = true) ∧ (keeps s0 u 0 = true ∨ keeps s0 u 1 = true) ∧ d.dropped = 0 ∧ mixed) ∧
    (∃ (u bad_ : Nat) (d : Decision) (s00 : State), s00.clk.coreStopped = false ∧
      let w := if 128 ≤ bad_ then (0, discardUpset u (bad_ - 128) s00) else readBelow 64 bad_ s00
      let s0 := w.2
      let x := frame s0 u
      let k := d.class_
      let q := queueKey d.handle x.port k
      let s := modFrame u (fun x => { x with class_ := k, queue := q }) s0
      let y := queue s q
      let mixed := y.list ≠ [] ∧ y.kind ≠ b2n (k == 7)
      decOf x (admitFur s0 x) = some d ∧ x.admitted = false ∧ x.admitting = none ∧ x.kind = 0 ∧ (x.copyA.isSome = true ∨ x.copyB.isSome = true) ∧ (keeps s0 u 0 = true ∨ keeps s0 u 1 = true) ∧ d.dropped = 0 ∧ ¬mixed ∧ (profileOf s q k).maxFrames ≤ framesOf s q) ∧
    (∃ (u bad_ : Nat) (d : Decision) (s00 : State), s00.clk.coreStopped = false ∧
      let w := if 128 ≤ bad_ then (0, discardUpset u (bad_ - 128) s00) else readBelow 64 bad_ s00
      let s0 := w.2
      let x := frame s0 u
      let k := d.class_
      let q := queueKey d.handle x.port k
      let s := modFrame u (fun x => { x with class_ := k, queue := q }) s0
      let y := queue s q
      let r := meterFrame x k d.meter (bit w.1 0) (bit w.1 1) s
      let mixed := y.list ≠ [] ∧ y.kind ≠ b2n (k == 7)
      decOf x (admitFur s0 x) = some d ∧ x.admitted = false ∧ x.admitting = none ∧ x.kind = 0 ∧ (x.copyA.isSome = true ∨ x.copyB.isSome = true) ∧ (keeps s0 u 0 = true ∨ keeps s0 u 1 = true) ∧ d.dropped = 0 ∧ ¬mixed ∧ framesOf s q < (profileOf s q k).maxFrames ∧ r.1.drop = true) ∧
    (∃ (u bad_ : Nat) (d : Decision) (s00 : State), s00.clk.coreStopped = false ∧
      let w := if 128 ≤ bad_ then (0, discardUpset u (bad_ - 128) s00) else readBelow 64 bad_ s00
      let s0 := w.2
      let x := frame s0 u
      let k := d.class_
      let q := queueKey d.handle x.port k
      let s := modFrame u (fun x => { x with class_ := k, queue := q }) s0
      let y := queue s q
      let r := meterFrame x k d.meter (bit w.1 0) (bit w.1 1) s
      let mixed := y.list ≠ [] ∧ y.kind ≠ b2n (k == 7)
      decOf x (admitFur s0 x) = some d ∧ x.admitted = false ∧ x.admitting = none ∧ x.kind = 0 ∧ (x.copyA.isSome = true ∨ x.copyB.isSome = true) ∧ (keeps s0 u 0 = true ∨ keeps s0 u 1 = true) ∧ d.dropped = 0 ∧ ¬mixed ∧ framesOf s q < (profileOf s q k).maxFrames ∧ r.1.drop = false) ∧
    (∃ (u bad : Nat) (d : Decision) (s : State),
      let x := frame s u
      x.admitting = some bad ∧ decOf x (admitFur s x) = some d ∧ d.dropped ≠ 0) ∧
    (∃ (u bad : Nat) (d : Decision) (s : State),
      let x := frame s u
      let k := x.class_
      let h := relHalf s x
      let hs := if k = 7 then [0, 1] else [h]
      let s3 := hs.foldl (fun s h => headerWord u h (bit bad (2 + h)) s) (modFrame u (fun x => { x with admitting := none }) s)
      x.admitting = some bad ∧ decOf x (admitFur s x) = some d ∧ d.dropped = 0 ∧ hs.any (keeps s3 u) = false) ∧
    (∃ (u bad : Nat) (d : Decision) (s : State),
      let x := frame s u
      let k := x.class_
      let h := relHalf s x
      let hs := if k = 7 then [0, 1] else [h]
      let s3 := hs.foldl (fun s h => headerWord u h (bit bad (2 + h)) s) (modFrame u (fun x => { x with admitting := none }) s)
      let s5 := modQueue x.queue (fun y => { y with
          frames := y.frames + 1, kind := if y.frames = 0 then b2n (k == 7) else y.kind, state := if y.state = 2 then 2 else 1, lastClass := k })
        (modFrame u (fun x => { x with admitted := true, handle := d.handle, limited := resLimit s3 k != 0 }) s3)
      let s6 := assignSeqs u d.handle d.egress (seqUpset u d.handle d.egress bad s5)
      x.admitting = some bad ∧ decOf x (admitFur s x) = some d ∧ d.dropped = 0 ∧ hs.any (keeps s3 u) = true ∧ spills s6 x.queue k h d.egress = false) ∧
    (∃ (u bad : Nat) (d : Decision) (s : State),
      let x := frame s u
      let k := x.class_
      let h := relHalf s x
      let hs := if k = 7 then [0, 1] else [h]
      let s3 := hs.foldl (fun s h => headerWord u h (bit bad (2 + h)) s) (modFrame u (fun x => { x with admitting := none }) s)
      let s5 := modQueue x.queue (fun y => { y with
          frames := y.frames + 1, kind := if y.frames = 0 then b2n (k == 7) else y.kind, state := if y.state = 2 then 2 else 1, lastClass := k })
        (modFrame u (fun x => { x with admitted := true, handle := d.handle, limited := resLimit s3 k != 0 }) s3)
      let s6 := assignSeqs u d.handle d.egress (seqUpset u d.handle d.egress bad s5)
      x.admitting = some bad ∧ decOf x (admitFur s x) = some d ∧ d.dropped = 0 ∧ hs.any (keeps s3 u) = true ∧ ∃ v, spills s6 x.queue k h d.egress = true ∧ startSpill u x.queue k h d.egress s6 = (true, v)) ∧
    (∃ (u bad : Nat) (d : Decision) (s : State),
      let x := frame s u
      let k := x.class_
      let h := relHalf s x
      let hs := if k = 7 then [0, 1] else [h]
      let s3 := hs.foldl (fun s h => headerWord u h (bit bad (2 + h)) s) (modFrame u (fun x => { x with admitting := none }) s)
      let s5 := modQueue x.queue (fun y => { y with
          frames := y.frames + 1, kind := if y.frames = 0 then b2n (k == 7) else y.kind, state := if y.state = 2 then 2 else 1, lastClass := k })
        (modFrame u (fun x => { x with admitted := true, handle := d.handle, limited := resLimit s3 k != 0 }) s3)
      let s6 := assignSeqs u d.handle d.egress (seqUpset u d.handle d.egress bad s5)
      x.admitting = some bad ∧ decOf x (admitFur s x) = some d ∧ d.dropped = 0 ∧ hs.any (keeps s3 u) = true ∧ ∃ v, spills s6 x.queue k h d.egress = true ∧ startSpill u x.queue k h d.egress s6 = (false, v)) ∧
    (∃ (u h : Nat) (c : Copy) (s : State), s.clk.coreStopped = false ∧ h < 2 ∧ copyOf (frame s u) h = some c ∧ (frame s u).rxDone = true ∧ c.complete = false ∧ c.poison = false ∧ (frame s u).spillDone = false ∧ cellsFor (effBytes (frame s u)).length ≤ c.cells.length) ∧
    (∃ (u : Nat) (s : State),
      let x := frame s u
      let before := ∃ e ∈ s.frames, e.1 < u ∧ e.2.admitting.isSome = true ∧ e.2.port = x.port ∧ e.2.class_ = x.class_
      booked x = true ∧ ¬before) ∧
    (∃ (u : Nat) (s : State),
      let x := frame s u
      let before := ∃ e ∈ s.frames, e.1 < u ∧ e.2.admitting.isSome = true ∧ e.2.port = x.port ∧ e.2.class_ = x.class_
      (booked x = false ∨ before)) ∧
    (∃ (u h : Nat) (s : State), ∃ i eg,
      let x := frame s u
      x.asks = some (h, .direct (some i) eg)) ∧
    (∃ (u h : Nat) (s : State), ∃ eg,
      let x := frame s u
      x.asks = some (h, .direct none eg)) ∧
    (∃ (u h : Nat) (s : State), ∃ i,
      let x := frame s u
      let l := s.hl.lead
      let v := modFrame u (fun x => { x with asks := none }) s
      let whole := modCopy u h (fun c => { c with complete := true }) v
      x.asks = some (h, .lookup i) ∧
      let w := hostTxDone i 1 whole
      laneRoom w l x.class_ 1 = false) ∧
    (∃ (u h : Nat) (s : State), ∃ i,
      let x := frame s u
      let l := s.hl.lead
      let v := modFrame u (fun x => { x with asks := none }) s
      let whole := modCopy u h (fun c => { c with complete := true }) v
      x.asks = some (h, .lookup i) ∧
      let w := hostTxDone i 1 whole
      laneRoom w l x.class_ 1 = true) ∧
    (∃ (u h : Nat) (s : State), ∃ i r,
      let x := frame s u
      let v := modFrame u (fun x => { x with asks := none }) s
      x.asks = some (h, .refill i) ∧ tget? v.deep.recs i = some r) ∧
    (∃ (fu : Furrow) (inp out k : Nat) (s : State), s.clk.coreStopped = false ∧
      let f := furNo fu
      let key := laneKey inp out k
      laneOf s f key = []) ∧
    (∃ (fu : Furrow) (inp out k : Nat) (s : State), ∃ (e : Entry) (rest : List Entry), s.clk.coreStopped = false ∧
      let f := furNo fu
      let key := laneKey inp out k
      laneOf s f key = e :: rest ∧
      let x := frame s e.uid
      (e.moved ≠ 0 ∨ expired s x = false)) ∧
    (∃ (fu : Furrow) (inp out k : Nat) (s : State), ∃ (e : Entry) (rest : List Entry), s.clk.coreStopped = false ∧
      let f := furNo fu
      let key := laneKey inp out k
      laneOf s f key = e :: rest ∧
      let x := frame s e.uid
      e.moved = 0 ∧ expired s x = true ∧ e.mirror = none) ∧
    (∃ (fu : Furrow) (inp out k : Nat) (s : State), ∃ (e : Entry) (rest : List Entry), ∃ i cut, s.clk.coreStopped = false ∧
      let f := furNo fu
      let key := laneKey inp out k
      laneOf s f key = e :: rest ∧
      let x := frame s e.uid
      e.moved = 0 ∧ expired s x = true ∧ e.mirror = some (i, cut)) ∧
    (∃ (h u : Nat) (rest : List Nat) (s : State), s.clk.coreStopped = false ∧
      let x := frame s u
      let hf := relHalf s x
      let ready := (∀ c, copyOf x hf = some c → c.complete = true) ∧ (copyOf x hf = none → x.spillDone = true) ∧
        heldInline x (admitFur s x) = false ∧ 0 ≤ (shaper s h).t
      tmem s.shapers h = true ∧ (queue s h).list = u :: rest ∧ ¬ready) ∧
    (∃ (h u : Nat) (rest : List Nat) (s : State), s.clk.coreStopped = false ∧
      let x := frame s u
      let hf := relHalf s x
      let ready := (∀ c, copyOf x hf = some c → c.complete = true) ∧ (copyOf x hf = none → x.spillDone = true) ∧
        heldInline x (admitFur s x) = false ∧ 0 ≤ (shaper s h).t
      tmem s.shapers h = true ∧ (queue s h).list = u :: rest ∧ ready ∧ expired s x = false) ∧
    (∃ (h u : Nat) (rest : List Nat) (s : State), s.clk.coreStopped = false ∧
      let x := frame s u
      let hf := relHalf s x
      let ready := (∀ c, copyOf x hf = some c → c.complete = true) ∧ (copyOf x hf = none → x.spillDone = true) ∧
        heldInline x (admitFur s x) = false ∧ 0 ≤ (shaper s h).t
      tmem s.shapers h = true ∧ (queue s h).list = u :: rest ∧ ready ∧ expired s x = true) :=
  ⟨⟨1, none, none, ready 4, by decide +kernel⟩,
   ⟨1, none, none, { ready 4 with slices := { running := 8 }, frames := [(9, { port := 63, bytes := zeros 80, rxDone := true, copyB := some {} })], nextUid := 10 }, 9, by decide +kernel⟩,
   ⟨1, 9, none, { ready 4 with slices := { running := 8 }, frames := [(9, { port := 63, bytes := zeros 80, rxDone := true, copyB := some {} })], nextUid := 10 }, by decide +kernel⟩,
   ⟨1, 9, none, { ready 4 with slices := { running := 8 }, frames := [(9, { port := 63, bytes := zeros 80, rxDone := true, admitting := some 0, copyB := some { undecided := false, cells := [(73727, 0)] } })], nextUid := 10 }, 73727, [], by decide +kernel⟩,
   ⟨1, 9, none, ready 4, by decide +kernel⟩,
   ⟨1, ready 4, by decide +kernel⟩,
   ⟨1, { ready 4 with gran := { (ready 4).gran with halfB := { returns := [{ cell := 73727, level := 3, cls := 4, port := 63, host := false, queue := 5 }] } } }, { cell := 73727, level := 3, cls := 4, port := 63, host := false, queue := 5 }, [], by decide +kernel⟩,
   ⟨1, 9, [], { ready 4 with gran := { (ready 4).gran with halfB := { rebuilding := some 9 } } }, by decide +kernel⟩,
   ⟨9, 0, { class_ := 4, handle := 0, egress := 1, dropped := 1 }, { ready 4 with frames := [(9, { port := 63, bytes := zeros 80, rxDone := true, lead := 0, decA := some { class_ := 4, handle := 0, egress := 1, dropped := 1 }, copyA := some { cells := [(0, 0)] } })], nextUid := 10, fa := { (ready 4).fa with released := true } }, by decide +kernel⟩,
   ⟨9, 0, { class_ := 4, handle := 0, egress := 1 }, { ready 4 with frames := [(9, { port := 63, bytes := zeros 80, rxDone := true, lead := 0, decA := some { class_ := 4, handle := 0, egress := 1 }, copyA := some { cells := [(0, 0)] } })], nextUid := 10, fa := { (ready 4).fa with released := true }, gran := { (ready 4).gran with queues := [((2 ^ 20 + 8 * 63 + 4), { kind := 1, list := [5] })] } }, by decide +kernel⟩,
   ⟨9, 0, { class_ := 4, handle := 0, egress := 1 }, { ready 4 with frames := [(9, { port := 63, bytes := zeros 80, rxDone := true, lead := 0, decA := some { class_ := 4, handle := 0, egress := 1 }, copyA := some { cells := [(0, 0)] } })], nextUid := 10, fa := { (ready 4).fa with released := true }, gran := { (ready 4).gran with profiles := [(4, { maxFrames := 0 })] } }, by decide +kernel⟩,
   ⟨9, 0, { class_ := 4, handle := 0, egress := 1, meter := 5 }, { ready 4 with frames := [(9, { port := 63, bytes := zeros 80, rxDone := true, lead := 0, decA := some { class_ := 4, handle := 0, egress := 1, meter := 5 }, copyA := some { cells := [(0, 0)] } })], nextUid := 10, fa := { (ready 4).fa with released := true }, meters := [(5, { cir := 1, blocked := true })] }, by decide +kernel⟩,
   ⟨9, 4, { class_ := 4, handle := 0, egress := 1 }, { ready 4 with frames := [(9, { port := 63, bytes := zeros 80, rxDone := true, lead := 0, decA := some { class_ := 4, handle := 0, egress := 1 }, copyA := some { cells := [(0, 0)] } })], nextUid := 10, fa := { (ready 4).fa with released := true } }, by decide +kernel⟩,
   ⟨9, 0, { class_ := 4, handle := 0, egress := 1, dropped := 1 }, { ready 4 with frames := [(9, { port := 63, bytes := zeros 80, rxDone := true, lead := 0, class_ := 4, queue := 2 ^ 20 + 8 * 63 + 4, admitting := some 0, decA := some { class_ := 4, handle := 0, egress := 1, dropped := 1 }, copyA := some { undecided := false, cells := [(0, 1)] } })], nextUid := 10, fa := { (ready 4).fa with released := true } }, by decide +kernel⟩,
   ⟨9, 0, { class_ := 4, handle := 0, egress := 1 }, { ready 4 with frames := [(9, { port := 63, bytes := zeros 80, rxDone := true, lead := 0, class_ := 4, queue := 2 ^ 20 + 8 * 63 + 4, admitting := some 0, decA := some { class_ := 4, handle := 0, egress := 1 }, copyA := some { undecided := false, dropped := true } })], nextUid := 10, fa := { (ready 4).fa with released := true } }, by decide +kernel⟩,
   ⟨9, 0, { class_ := 4, handle := 0, egress := 1 }, { ready 4 with frames := [(9, { port := 63, bytes := zeros 80, rxDone := true, lead := 0, class_ := 4, queue := 2 ^ 20 + 8 * 63 + 4, admitting := some 0, decA := some { class_ := 4, handle := 0, egress := 1 }, copyA := some { undecided := false, cells := [(0, 1)] } })], nextUid := 10, fa := { (ready 4).fa with released := true } }, by decide +kernel⟩,
   ⟨9, 0, { class_ := 4, handle := 0, egress := 1 }, { ready 4 with frames := [(9, { port := 63, bytes := zeros 80, rxDone := true, lead := 0, class_ := 4, queue := 2 ^ 20 + 8 * 63 + 4, admitting := some 0, decA := some { class_ := 4, handle := 0, egress := 1 }, copyA := some { undecided := false, cells := [(0, 1)] } })], nextUid := 10, fa := { (ready 4).fa with released := true }, gran := { (ready 4).gran with queues := [((2 ^ 20 + 8 * 63 + 4), { state := 2 })] }, deep := { (ready 4).deep with enables := 1, grain := some 8, spillSize := 2 ^ 30 } }, by (iterate 4 refine ⟨by decide +kernel, ?_⟩); exact ex_pair (by decide +kernel) (by decide +kernel)⟩,
   ⟨9, 0, { class_ := 4, handle := 0, egress := 1 }, { ready 4 with frames := [(9, { port := 63, bytes := zeros 80, rxDone := true, lead := 0, class_ := 4, queue := 2 ^ 20 + 8 * 63 + 4, admitting := some 0, decA := some { class_ := 4, handle := 0, egress := 1 }, copyA := some { undecided := false, cells := [(0, 1)] } })], nextUid := 10, fa := { (ready 4).fa with released := true }, gran := { (ready 4).gran with queues := [((2 ^ 20 + 8 * 63 + 4), { state := 2 })] }, deep := { (ready 4).deep with enables := 1, grain := some 8, training := some { mask := 1, stage := 1, startedAt := 0, ticket := none } } }, by (iterate 4 refine ⟨by decide +kernel, ?_⟩); exact ex_pair (by decide +kernel) (by decide +kernel)⟩,
   ⟨9, 1, { cells := [(0, 1)], undecided := false }, { ready 4 with frames := [(9, { port := 63, bytes := zeros 80, rxDone := true, copyB := some { cells := [(0, 1)], undecided := false } })], nextUid := 10 }, by decide +kernel⟩,
   ⟨9, { ready 4 with frames := [(9, { port := 63, bytes := zeros 80, rxDone := true, admitting := some 0, copyB := some { undecided := false, cells := [(73727, 1)] } })], nextUid := 10 }, by decide +kernel⟩,
   ⟨9, { ready 4 with frames := [(9, { port := 63, bytes := zeros 80, rxDone := true, admitting := some 0, copyB := some { undecided := false, cells := [(73727, 0)] } })], nextUid := 10 }, by decide +kernel⟩,
   ⟨9, 1, { ready 4 with frames := [(9, { port := 63, bytes := zeros 80, rxDone := true, asks := some (1, .direct (some 2) 5), copyB := some { cells := [(73727, 1)] } })], nextUid := 10 }, 2, 5, by decide +kernel⟩,
   ⟨9, 1, { ready 4 with frames := [(9, { port := 63, bytes := zeros 80, rxDone := true, asks := some (1, .direct none 5), copyB := some { cells := [(73727, 1)] } })], nextUid := 10 }, 5, by decide +kernel⟩,
   ⟨9, 1, { ready 4 with frames := [(9, { port := 63, bytes := zeros 80, rxDone := true, asks := some (1, .lookup 2), copyB := some { cells := [(73727, 1)] } })], nextUid := 10, gran := { (ready 4).gran with laneReserve := 262144 } }, 2, by decide +kernel⟩,
   ⟨9, 1, { ready 4 with frames := [(9, { port := 63, bytes := zeros 80, rxDone := true, asks := some (1, .lookup 2), copyB := some { cells := [(73727, 1)] } })], nextUid := 10 }, 2, by decide +kernel⟩,
   ⟨9, 1, { ready 4 with frames := [(9, { port := 63, bytes := zeros 80, rxDone := true, asks := some (1, .refill 3), copyB := some { cells := [(73727, 1)] } })], nextUid := 10, deep := { (ready 4).deep with recs := [(3, { uid := 9, ring := 7, offset := 0, cells := 1, handle := 1048575, port := 63, arrUs := 0, state := 2 })] } }, 3, { uid := 9, ring := 7, offset := 0, cells := 1, handle := 1048575, port := 63, arrUs := 0, state := 2 }, by decide +kernel⟩,
   ⟨.b, 63, 64, 7, ready 4, by decide +kernel⟩,
   ⟨.b, 63, 64, 7, { ready 4 with fb := { (ready 4).fb with lanes := [(laneKey 63 64 7, [{ uid := 9, half := 1, moved := 1 }])] } }, { uid := 9, half := 1, moved := 1 }, [], by decide +kernel⟩,
   ⟨.b, 63, 64, 7, { ready 4 with fb := { (ready 4).fb with lanes := [(laneKey 63 64 7, [{ uid := 9, half := 1 }])] }, frames := [(9, { port := 63, bytes := zeros 80, rxDone := true, limited := true, class_ := 7, arrUs := 2 ^ 31 })], nextUid := 10 }, { uid := 9, half := 1 }, [], by decide +kernel⟩,
   ⟨.b, 63, 64, 7, { ready 4 with fb := { (ready 4).fb with lanes := [(laneKey 63 64 7, [{ uid := 9, half := 1, mirror := some (1, 64) }])] }, frames := [(9, { port := 63, bytes := zeros 80, rxDone := true, limited := true, class_ := 7, arrUs := 2 ^ 31 })], nextUid := 10 }, { uid := 9, half := 1, mirror := some (1, 64) }, [], 1, 64, by decide +kernel⟩,
   ⟨1048575, 9, [], { ready 4 with frames := [(9, { port := 63, bytes := zeros 80, rxDone := true, lead := 1, copyB := some {} })], nextUid := 10, shapers := [(1048575, {})], gran := { (ready 4).gran with queues := [(1048575, { list := [9] })] } }, by decide +kernel⟩,
   ⟨1048575, 9, [], { ready 4 with frames := [(9, { port := 63, bytes := zeros 80, rxDone := true, lead := 1, copyB := some { complete := true } })], nextUid := 10, shapers := [(1048575, {})], gran := { (ready 4).gran with queues := [(1048575, { list := [9] })] } }, by decide +kernel⟩,
   ⟨1048575, 9, [], { ready 4 with frames := [(9, { port := 63, bytes := zeros 80, rxDone := true, lead := 1, limited := true, class_ := 4, arrUs := 2 ^ 31, copyB := some { complete := true } })], nextUid := 10, shapers := [(1048575, {})], gran := { (ready 4).gran with queues := [(1048575, { list := [9] })] } }, by decide +kernel⟩⟩

theorem test_PoolsQueuesAndShapersAreSet :
    (∃ (p : Packet) (s : State),
      let b := p.params
      let v := fun o => le b o 4
      accepts specPoolSet p s = true ∧ reservedAt b 1 3 = true ∧ byteAt b 0 = 0 ∧ v 4 ≤ 40960 ∧ v 8 ≤ 81920 ∧ v 12 ≤ 81920 ∧ v 16 ≤ 65536 ∧ v 20 ≤ 65536) ∧
    (∃ (p : Packet) (s : State),
      let b := p.params
      let v := fun o => le b o 4
      accepts specPoolSet p s = true ∧ reservedAt b 1 3 = true ∧ byteAt b 0 = 1 ∧ byteAt b 4 < 8 ∧ reservedAt b 5 3 = true ∧ v 8 ≤ 16384) ∧
    (∃ (p : Packet) (s : State),
      let r := reached specPoolSet p s
      let b := p.params
      let v := fun o => le b o 4
      accepts specPoolSet p s = true ∧ reservedAt b 1 3 = true ∧ byteAt b 0 = 2 ∧ portExists r (byteAt b 4) = true ∧ reservedAt b 5 3 = true ∧ 1 ≤ le b 8 2 ∧ le b 8 2 ≤ 4096 ∧ le b 10 2 ≤ 8192 ∧ v 12 ≤ 81920) ∧
    (∃ (p : Packet) (s : State),
      let b := p.params
      accepts specPoolSet p s = true ∧ reservedAt b 1 3 = true ∧ byteAt b 0 = 3 ∧ byteAt b 4 ≤ 254 ∧ reservedAt b 5 3 = true ∧ le b 8 2 ≤ 64 ∧ 1 ≤ le b 10 2 ∧ 1 ≤ le b 12 2 ∧ reservedAt b 16 4 = true) ∧
    (∃ (p : Packet) (s : State),
      let b := p.params
      let v := fun o => le b o 4
      accepts specPoolSet p s = true ∧ reservedAt b 1 3 = true ∧ byteAt b 0 = 4 ∧ 1 ≤ v 4 ∧ v 4 < 2 ^ 20 ∧ reservedAt b 9 3 = true) ∧
    (∃ (p : Packet) (s : State),
      let r := reached specPoolRead p s
      let h := byteAt p.params 0
      let pt := byteAt p.params 1
      accepts specPoolRead p s = true ∧ h < 2 ∧ portExists r pt = true ∧ reservedAt p.params 2 2 = true ∧ powered r h = false) ∧
    (∃ (p : Packet) (s : State),
      let r := reached specPoolRead p s
      let h := byteAt p.params 0
      let pt := byteAt p.params 1
      accepts specPoolRead p s = true ∧ h < 2 ∧ portExists r pt = true ∧ reservedAt p.params 2 2 = true ∧ powered r h = true) ∧
    (∃ (p : Packet) (s : State),
      let r := reached specQueueRead p s
      let b := p.params
      let h := le b 0 4
      let k := byteAt b 5
      accepts specQueueRead p s = true ∧ h < 2 ^ 20 ∧ (h = 0 → portExists r (byteAt b 4) = true ∧ k < 8) ∧ byteAt b 6 < 2 ∧ reservedAt b 7 1 = true) ∧
    (∃ (p : Packet) (s : State),
      let b := p.params
      let m := byteAt b 16
      accepts specResidenceLimitSet p s = true ∧ (∀ k, k < 8 → bit m k = true → le b (2 * k) 2 ≤ 1000) ∧ reservedAt b 17 3 = true) ∧
    (∃ (p : Packet) (s : State),
      let r := reached specShaperSet p s
      let b := p.params
      let rate := le b 8 4
      let burst := le b 12 4
      let pt := byteAt b 4
      let k := byteAt b 5
      let fits := rate = 0 ∨ (64 ≤ burst ∧ burst ≤ 16777215)
      accepts specShaperSet p s = true ∧ reservedAt b 1 3 = true ∧ byteAt b 0 = 0 ∧ portExists r pt = true ∧ k < 7 ∧ reservedAt b 6 2 = true ∧ rate ≤ 100000000 ∧ fits) ∧
    (∃ (p : Packet) (s : State),
      let b := p.params
      let h := le b 4 4
      let rate := le b 8 4
      let burst := le b 12 4
      let fits := rate = 0 ∨ (64 ≤ burst ∧ burst ≤ 16777215)
      accepts specShaperSet p s = true ∧ reservedAt b 1 3 = true ∧ byteAt b 0 = 1 ∧ 1 ≤ h ∧ h < 2 ^ 20 ∧ rate ≤ 100000000 ∧ fits ∧ rate = 0) ∧
    (∃ (p : Packet) (s : State),
      let b := p.params
      let h := le b 4 4
      let rate := le b 8 4
      let burst := le b 12 4
      let fits := rate = 0 ∨ (64 ≤ burst ∧ burst ≤ 16777215)
      accepts specShaperSet p s = true ∧ reservedAt b 1 3 = true ∧ byteAt b 0 = 1 ∧ 1 ≤ h ∧ h < 2 ^ 20 ∧ rate ≤ 100000000 ∧ fits ∧ rate ≠ 0) ∧
    (∃ (p : Packet) (s : State),
      let b := p.params
      let h := le b 4 4
      accepts specShaperSet p s = true ∧ reservedAt b 1 3 = true ∧ byteAt b 0 = 2 ∧ 1 ≤ h ∧ h < 2 ^ 20) :=
  ⟨⟨ask [0, 0, 0, 0, 0, 160, 0, 0, 0, 64, 1, 0, 0, 64, 1, 0, 0, 0, 1, 0, 0, 0, 1, 0], ready 3, by decide +kernel⟩,
   ⟨ask [1, 0, 0, 0, 7, 0, 0, 0, 0, 64, 0, 0], ready 3, by decide +kernel⟩,
   ⟨ask [2, 0, 0, 0, 63, 0, 0, 0, 0, 16, 0, 32, 0, 64, 1, 0], ready 3, by decide +kernel⟩,
   ⟨ask ([3, 0, 0, 0, 254, 0, 0, 0, 64, 0, 255, 255, 255, 255] ++ zeros 6), ready 3, by decide +kernel⟩,
   ⟨ask ([4, 0, 0, 0, 255, 255, 15, 0] ++ zeros 4), ready 3, by decide +kernel⟩,
   ⟨ask [1, 63, 0, 0], { ready 4 with sup := { (ready 4).sup with poweredB := false } }, by decide +kernel⟩,
   ⟨ask (zeros 4), ready 4, by decide +kernel⟩,
   ⟨ask (zeros 8), ready 4, by decide +kernel⟩,
   ⟨ask (zeros 20), ready 4, by decide +kernel⟩,
   ⟨ask [0, 0, 0, 0, 63, 6, 0, 0, 0, 225, 245, 5, 255, 255, 255, 0], ready 4, by decide +kernel⟩,
   ⟨ask ([1, 0, 0, 0, 255, 255, 15, 0] ++ zeros 8), ready 4, by decide +kernel⟩,
   ⟨ask [1, 0, 0, 0, 255, 255, 15, 0, 0, 225, 245, 5, 64, 0, 0, 0], ready 4, by decide +kernel⟩,
   ⟨ask [2, 0, 0, 0, 1, 0, 0, 0], ready 4, by decide +kernel⟩⟩

theorem test_TheCrossbarMatchesOneToOne :
    (∃ (fu : Furrow) (bad : List (Nat × Nat)) (s0 : State), s0.clk.coreStopped = false ∧
      let f := furNo fu
      live s0 f = true) ∧
    (∃ (fu : Furrow) (s : State), s.clk.coreStopped = false) ∧
    (∃ (f u : Nat) (s : State),
      let l := lastCrossed s f u
      l = []) ∧
    (∃ (f u : Nat) (s : State), ∃ w,
      let l := lastCrossed s f u
      let s1 := l.foldl (fun s w => poisonLink f w s) s
      let h := if (frame s1 u).class_ = 7 then f else relHalf s1 (frame s1 u)
      l.find? (fun w => decide (w.id < 2)) = some w ∧ copyOf (frame s1 u) h = none) ∧
    (∃ (f u : Nat) (s : State), ∃ w,
      let l := lastCrossed s f u
      let s1 := l.foldl (fun s w => poisonLink f w s) s
      let h := if (frame s1 u).class_ = 7 then f else relHalf s1 (frame s1 u)
      l.find? (fun w => decide (w.id < 2)) = some w ∧ (copyOf (frame s1 u) h).isSome = true) ∧
    (∃ (f u : Nat) (s : State),
      let l := lastCrossed s f u
      l.find? (fun w => decide (w.id < 2)) = none) ∧
    (∃ (f : Nat) (w : LinkWord) (c : EgCopy) (s : State), w.out < 64 ∧ egCopy s w.out w.uid w.id = some c ∧ c.bad = none ∧ c.got = w.word + 1 ∧ c.mirror = none ∧ c.state = 2) ∧
    (∃ (f : Nat) (w : LinkWord) (c : EgCopy) (s : State), w.out < 64 ∧ egCopy s w.out w.uid w.id = some c ∧ c.bad = none ∧ c.got = w.word + 1 ∧ c.mirror = none ∧ c.state ≠ 2) ∧
    (∃ (fu : Furrow) (inp out o : Nat) (e : Entry) (rest : List Entry) (s : State), s.clk.coreStopped = false ∧
      let f := furNo fu
      let key := laneKey inp out 7
      laneOf s f key = e :: rest ∧ e.offered = some o ∧ e.moved = 0 ∧ e.tc7Waited = false) :=
  ⟨⟨.b, [], { ready 4 with fb := { (ready 4).fb with released := true } }, by decide +kernel⟩,
   ⟨.b, ready 4, by decide +kernel⟩,
   ⟨1, 9, ready 4, by decide +kernel⟩,
   ⟨1, 9, { ready 4 with fb := { (ready 4).fb with xb := { (ready 4).fb.xb with link := [{ out := 63, uid := 9, id := 0, word := 0, tag := 0 }] } }, frames := [(9, { port := 63, bytes := zeros 80, rxDone := true, class_ := 7 })], nextUid := 10 }, { out := 63, uid := 9, id := 0, word := 0, tag := 0 }, by decide +kernel⟩,
   ⟨1, 9, { ready 4 with fb := { (ready 4).fb with xb := { (ready 4).fb.xb with link := [{ out := 63, uid := 9, id := 0, word := 0, tag := 0 }] } }, frames := [(9, { port := 63, bytes := zeros 80, rxDone := true, class_ := 7, copyB := some {} })], nextUid := 10 }, { out := 63, uid := 9, id := 0, word := 0, tag := 0 }, by decide +kernel⟩,
   ⟨1, 9, ready 4, by decide +kernel⟩,
   ⟨1, { out := 63, uid := 9, id := 0, word := 0, tag := 0 }, { uid := 9, id := 0, fur := 1, input := 63, cls := 4, got := 1, state := 2 }, { ready 4 with ports := [(63, { drill := { buf := [{ uid := 9, id := 0, fur := 1, input := 63, cls := 4, got := 1, state := 2 }] } })] }, by decide +kernel⟩,
   ⟨1, { out := 63, uid := 9, id := 0, word := 0, tag := 0 }, { uid := 9, id := 0, fur := 1, input := 63, cls := 4, got := 1, state := 1 }, { ready 4 with ports := [(63, { drill := { buf := [{ uid := 9, id := 0, fur := 1, input := 63, cls := 4, got := 1, state := 1 }] } })] }, by decide +kernel⟩,
   ⟨.b, 63, 71, 5, { uid := 9, half := 1, offered := some 5 }, [], { ready 4 with frames := [(9, { port := 63, bytes := zeros 80, rxDone := true, copyB := some {} })], nextUid := 10, fb := { (ready 4).fb with lanes := [(laneKey 63 71 7, [{ uid := 9, half := 1, offered := some 5 }])] } }, by decide +kernel⟩⟩

theorem test_TheDrillServesItsClassesInOrder :
    (∃ (p : Nat) (only : Nat → Bool) (s : State), (port s p).drill.held = none ∧ only 7 = true ∧ classReady s p 7 = true ∧ (∀ c, headOf s p 7 = some c → gateFits s p 7 (expectOf s (frame s c.uid)) = true)) ∧
    (∃ (p : Nat) (s : State), s.clk.coreStopped = false ∧
      let s1 := preemptTx p s
      let d := (port s1 p).drill
      d.tx ≠ none) ∧
    (∃ (p : Nat) (s : State), s.clk.coreStopped = false ∧
      let s1 := preemptTx p s
      let d := (port s1 p).drill
      let s2 := reachEdge d.freeAt s1
      let s3 := if d.held = none then modDrill p (fun d => { d with preOld := none }) s2 else s2
      let l := (port s3 p).link
      let up := l.rxUp && !l.heldDown
      let s4 := (List.range 8).foldl (fun s k => gatePurge p k (queuedCopies s p) s) s3
      let held := (d.held.bind (fun h => egCopy s4 p h.1 h.2)).map (·.cls)
      d.tx = none ∧ (l.txUp = false ∨ (up = false ∧ d.held = none))) ∧
    (∃ (p : Nat) (s : State), s.clk.coreStopped = false ∧
      let s1 := preemptTx p s
      let d := (port s1 p).drill
      let s2 := reachEdge d.freeAt s1
      let s3 := if d.held = none then modDrill p (fun d => { d with preOld := none }) s2 else s2
      let l := (port s3 p).link
      let up := l.rxUp && !l.heldDown
      let s4 := (List.range 8).foldl (fun s k => gatePurge p k (queuedCopies s p) s) s3
      let held := (d.held.bind (fun h => egCopy s4 p h.1 h.2)).map (·.cls)
      d.tx = none ∧ l.txUp = true ∧ (up = true ∨ d.held ≠ none)) ∧
    (∃ (p : Nat) (t : Tx) (s : State), s.clk.coreStopped = false ∧ (port s p).drill.tx = some t ∧ egCopy s p t.uid t.id = none) ∧
    (∃ (p : Nat) (t : Tx) (c : EgCopy) (s : State), s.clk.coreStopped = false ∧
      let x := frame s c.uid
      let part := editBody (editsOf s p c x) (hasHsr (winParse s c.fur x)) false ((egBytes p c x).take ((c.got - 1) * 32))
      (port s p).drill.tx = some t ∧ egCopy s p t.uid t.id = some c ∧ c.closed = false ∧ (port s p).cfg.maxFrame < part.length) ∧
    (∃ (p : Nat) (t : Tx) (c : EgCopy) (s : State), s.clk.coreStopped = false ∧
      let im := txImage s p c
      (port s p).drill.tx = some t ∧ egCopy s p t.uid t.id = some c ∧ c.closed = true ∧ im.1.length ≤ (port s p).cfg.maxFrame) ∧
    (∃ (p : Nat) (t : Tx) (c : EgCopy) (s : State), s.clk.coreStopped = false ∧
      let im := txImage s p c
      (port s p).drill.tx = some t ∧ egCopy s p t.uid t.id = some c ∧ c.closed = true ∧ (port s p).cfg.maxFrame < im.1.length) ∧
    (∃ (p : Nat) (t : Tx) (c : EgCopy) (s : State), s.clk.coreStopped = false ∧ (port s p).drill.tx = some t ∧ egCopy s p t.uid t.id = some c ∧ c.closed = false) :=
  ⟨⟨63, fun _ => true, { ready 4 with frames := [(9, { port := 63, bytes := zeros 80, rxDone := true })], ports := [(63, { cfg := { configured := true, mode := 1 }, link := { txUp := true }, drill := { buf := [{ uid := 9, id := 1, fur := 1, input := 63, cls := 7, state := 1 }], queues := [(7, [(9, 1)])] } })] }, ⟨by decide +kernel, by decide +kernel, by decide +kernel, all_some ({ uid := 9, id := 1, fur := 1, input := 63, cls := 7, state := 1 }) (by decide +kernel) (by decide +kernel)⟩⟩,
   ⟨63, { ready 4 with frames := [(9, { port := 63, bytes := zeros 80, rxDone := true })], ports := [(63, { cfg := { configured := true, mode := 1 }, link := { txUp := true, rxUp := true }, drill := { tx := some { uid := 9, id := 1, start := 0 }, buf := [{ uid := 9, id := 1, fur := 1, input := 63, cls := 7, state := 4 }] } })] }, by decide +kernel⟩,
   ⟨63, { ready 4 with frames := [(9, { port := 63, bytes := zeros 80, rxDone := true })], ports := [(63, { cfg := { configured := true, mode := 1 }, link := { txUp := true }, drill := {  } })] }, by decide +kernel⟩,
   ⟨63, { ready 4 with frames := [(9, { port := 63, bytes := zeros 80, rxDone := true })], ports := [(63, { cfg := { configured := true, mode := 1 }, link := { txUp := true, rxUp := true }, drill := {  } })] }, by decide +kernel⟩,
   ⟨63, { uid := 9, id := 1, start := 0 }, { ready 4 with frames := [(9, { port := 63, bytes := zeros 80, rxDone := true })], ports := [(63, { cfg := { configured := true, mode := 1 }, link := { txUp := true, rxUp := true }, drill := { tx := some { uid := 9, id := 1, start := 0 } } })] }, by decide +kernel⟩,
   ⟨63, { uid := 9, id := 1, start := 0 }, { uid := 9, id := 1, fur := 1, input := 63, cls := 7, state := 4, got := 4 }, { ready 4 with frames := [(9, { port := 63, bytes := zeros 80, rxDone := true })], ports := [(63, { cfg := { maxFrame := 79 }, link := { txUp := true, rxUp := true }, drill := { tx := some { uid := 9, id := 1, start := 0 }, buf := [{ uid := 9, id := 1, fur := 1, input := 63, cls := 7, state := 4, got := 4 }] } })] }, by decide +kernel⟩,
   ⟨63, { uid := 9, id := 1, start := 0 }, { uid := 9, id := 1, fur := 1, input := 63, cls := 7, state := 4, closed := true, total := some 80 }, { ready 4 with frames := [(9, { port := 63, bytes := zeros 80, rxDone := true })], ports := [(63, { cfg := { configured := true, mode := 1 }, link := { txUp := true }, drill := { tx := some { uid := 9, id := 1, start := 0 }, buf := [{ uid := 9, id := 1, fur := 1, input := 63, cls := 7, state := 4, closed := true, total := some 80 }] } })] }, by decide +kernel⟩,
   ⟨63, { uid := 9, id := 1, start := 0 }, { uid := 9, id := 1, fur := 1, input := 63, cls := 7, state := 4, closed := true, total := some 80 }, { ready 4 with frames := [(9, { port := 63, bytes := zeros 80, rxDone := true })], ports := [(63, { cfg := { maxFrame := 79 }, link := { txUp := true }, drill := { tx := some { uid := 9, id := 1, start := 0 }, buf := [{ uid := 9, id := 1, fur := 1, input := 63, cls := 7, state := 4, closed := true, total := some 80 }] } })] }, by decide +kernel⟩,
   ⟨63, { uid := 9, id := 1, start := 0 }, { uid := 9, id := 1, fur := 1, input := 63, cls := 7, state := 4, got := 4 }, { ready 4 with frames := [(9, { port := 63, bytes := zeros 80, rxDone := true })], ports := [(63, { cfg := { maxFrame := 79 }, link := { txUp := true, rxUp := true }, drill := { tx := some { uid := 9, id := 1, start := 0 }, buf := [{ uid := 9, id := 1, fur := 1, input := 63, cls := 7, state := 4, got := 4 }] } })] }, by decide +kernel⟩⟩

theorem test_GatesAndPreemptionVerifyAsDefined :
    (∃ (p : Nat) (g : GateList) (s : State), s.clk.coreStopped = false ∧ (port s p).drill.active = some g) ∧
    (∃ (p : Nat) (c : GateCommit) (s : State), s.clk.coreStopped = false ∧
      let d := (port s p).drill
      d.commit = some c) ∧
    (∃ (p : Nat) (s : State), s.clk.coreStopped = false ∧
      let y := (port s p).drill.pre
      y.state = 1 ∧ (port s p).link.txUp = true ∧ y.sends < 3) ∧
    (∃ (p : Nat) (s : State), s.clk.coreStopped = false ∧
      let y := (port s p).drill.pre
      y.state = 1 ∧ (port s p).link.txUp = true ∧ 3 ≤ y.sends) ∧
    (∃ (p : Nat) (s : State), s.clk.coreStopped = false ∧ (port s p).drill.pre.state = 1 ∧ (port s p).drill.pre.sends ≠ 0) ∧
    (∃ (p : Nat) (s : State), s.clk.coreStopped = false) :=
  ⟨⟨63, { entries := [(0, (255, 1024))], length := 1, base := 0, cycle := 1024 }, { ready 4 with frames := [(9, { port := 63, bytes := zeros 80, rxDone := true })], ports := [(63, { cfg := { configured := true, mode := 1 }, link := { txUp := true }, drill := { active := some { entries := [(0, (255, 1024))], length := 1, base := 0, cycle := 1024 } } })] }, by decide +kernel⟩,
   ⟨63, { base := 0, cycle := 1024, length := 1024, at_ := 9, ticket := tick }, { ready 4 with frames := [(9, { port := 63, bytes := zeros 80, rxDone := true })], ports := [(63, { cfg := { configured := true, mode := 1 }, link := { txUp := true }, drill := { commit := some { base := 0, cycle := 1024, length := 1024, at_ := 9, ticket := tick } } })] }, by decide +kernel⟩,
   ⟨63, { ready 4 with frames := [(9, { port := 63, bytes := zeros 80, rxDone := true })], ports := [(63, { cfg := { configured := true, mode := 1 }, link := { txUp := true }, drill := { pre := { state := 1, sends := 2 } } })] }, by decide +kernel⟩,
   ⟨63, { ready 4 with frames := [(9, { port := 63, bytes := zeros 80, rxDone := true })], ports := [(63, { cfg := { configured := true, mode := 1 }, link := { txUp := true }, drill := { pre := { state := 1, sends := 3 } } })] }, by decide +kernel⟩,
   ⟨63, { ready 4 with frames := [(9, { port := 63, bytes := zeros 80, rxDone := true })], ports := [(63, { cfg := { configured := true, mode := 1 }, link := { txUp := true }, drill := { pre := { state := 1, sends := 2 } } })] }, by decide +kernel⟩,
   ⟨63, { ready 4 with frames := [(9, { port := 63, bytes := zeros 80, rxDone := true })], ports := [(63, { cfg := { configured := true, mode := 1 }, link := { txUp := true }, drill := { pre := { state := 1, sends := 2 } } })] }, by decide +kernel⟩⟩

theorem test_DrillAndMeterCommandsSetTheirPort :
    (∃ (p : Packet) (s : State),
      let r := reached specDrillSet p s
      let b := p.params
      let pt := byteAt b 4
      accepts specDrillSet p s = true ∧ reservedAt b 1 3 = true ∧ portExists r pt = true ∧ reservedAt b 5 3 = true ∧ byteAt b 0 = 0 ∧ (∀ k, k < 5 → 64 ≤ le b (8 + 2 * k) 2) ∧ reservedAt b 18 2 = true) ∧
    (∃ (p : Packet) (s : State),
      let r := reached specDrillSet p s
      let b := p.params
      let pt := byteAt b 4
      accepts specDrillSet p s = true ∧ reservedAt b 1 3 = true ∧ portExists r pt = true ∧ reservedAt b 5 3 = true ∧ byteAt b 0 = 1) ∧
    (∃ (p : Packet) (s : State),
      let r := reached specMeterSet p s
      let b := p.params
      let i := le b 4 2
      let isClass := 0x8000 ≤ i
      let burst := fun n => (le b 8 4 = 0 ∧ le b 16 4 = 0) ∨ (64 ≤ n ∧ n ≤ 16777215)
      accepts specMeterSet p s = true ∧ reservedAt b 1 3 = true ∧ p.upset = false ∧ byteAt b 0 = 0 ∧ meterIndexOk r i = true ∧ byteAt b 6 < 8 ∧ (isClass → bit (byteAt b 6) 1 = false ∧ bit (byteAt b 6) 2 = false) ∧ byteAt b 7 < 16 ∧ byteAt b 7 % 4 ≤ 2 ∧ byteAt b 7 / 4 ≤ 2 ∧ le b 8 4 ≤ 100000000 ∧ burst (le b 12 4) ∧ le b 8 4 ≤ le b 16 4 ∧ le b 16 4 ≤ 100000000 ∧ burst (le b 20 4) ∧ (le b 24 2 = 0 ∨ (64 ≤ le b 24 2 ∧ le b 24 2 ≤ 9216)) ∧ (isClass → le b 24 2 = 0) ∧ reservedAt b 26 2 = true) ∧
    (∃ (p : Packet) (s : State),
      let r := reached specMeterSet p s
      let b := p.params
      let pt := byteAt b 4
      accepts specMeterSet p s = true ∧ reservedAt b 1 3 = true ∧ p.upset = false ∧ byteAt b 0 = 1 ∧ portExists r pt = true ∧ reservedAt b 5 3 = true ∧ (∀ n, n < 16 → le b 8 4 / 4 ^ n % 4 ≠ 3)) ∧
    (∃ (p : Packet) (s : State),
      let r := reached specMeterSet p s
      let b := p.params
      let i := le b 4 2
      accepts specMeterSet p s = true ∧ reservedAt b 1 3 = true ∧ p.upset = false ∧ byteAt b 0 = 2 ∧ meterIndexOk r i = true ∧ byteAt b 6 ≤ 1 ∧ reservedAt b 7 1 = true) ∧
    (∃ (p : Packet) (s : State),
      let r := reached specMeterSet p s
      let b := p.params
      let i := le b 4 2
      accepts specMeterSet p s = true ∧ reservedAt b 1 3 = true ∧ p.upset = false ∧ byteAt b 0 = 3 ∧ meterIndexOk r i = true ∧ reservedAt b 6 2 = true) ∧
    (∃ (p : Packet) (s : State),
      let r := reached specMeterSet p s
      let b := p.params
      let i := le b 4 2
      accepts specMeterSet p s = true ∧ reservedAt b 1 3 = true ∧ p.upset = false ∧ byteAt b 0 = 3 ∧ meterIndexOk r i = false) :=
  ⟨⟨ask [0, 0, 0, 0, 63, 0, 0, 0, 64, 0, 64, 0, 64, 0, 64, 0, 64, 0, 0, 0], ready 4, by decide +kernel⟩,
   ⟨ask [1, 0, 0, 0, 63, 0, 0, 0], ready 4, by decide +kernel⟩,
   ⟨ask ([0, 0, 0, 0, 255, 129, 1, 10, 0, 225, 245, 5, 64, 0, 0, 0, 0, 225, 245, 5, 255, 255, 255, 0] ++ zeros 4), ready 4, by decide +kernel⟩,
   ⟨ask [1, 0, 0, 0, 63, 0, 0, 0, 170, 170, 170, 170], ready 4, by decide +kernel⟩,
   ⟨ask [2, 0, 0, 0, 255, 127, 1, 0], ready 4, by decide +kernel⟩,
   ⟨ask [3, 0, 0, 0, 255, 129, 0, 0], ready 4, by decide +kernel⟩,
   ⟨ask [3, 0, 0, 0, 0, 130, 0, 0], ready 4, by decide +kernel⟩⟩

theorem test_GateListsAndPreemptionAreSet :
    (∃ (p : Packet) (s : State),
      let r := reached specGateListSet p s
      let b := p.params
      let pt := byteAt b 1
      let count := le b 2 2
      let first := le b 4 2
      let d := (port r pt).drill
      accepts specGateListSet p s = true ∧ portExists r pt = true ∧ reservedAt b 6 10 = true ∧ p.upset = false ∧ byteAt b 0 = 0 ∧ 1 ≤ count ∧ count ≤ 508 ∧ first + count ≤ 1024 ∧ (∀ i, i < count → reservedAt b (17 + 8 * i) 3 = true) ∧ d.commit.isSome = true) ∧
    (∃ (p : Packet) (s : State),
      let r := reached specGateListSet p s
      let b := p.params
      let pt := byteAt b 1
      let count := le b 2 2
      let first := le b 4 2
      let d := (port r pt).drill
      accepts specGateListSet p s = true ∧ portExists r pt = true ∧ reservedAt b 6 10 = true ∧ p.upset = false ∧ byteAt b 0 = 0 ∧ 1 ≤ count ∧ count ≤ 508 ∧ first + count ≤ 1024 ∧ (∀ i, i < count → reservedAt b (17 + 8 * i) 3 = true) ∧ d.commit = none) ∧
    (∃ (p : Packet) (s : State),
      let r := reached specGateListSet p s
      let b := p.params
      let pt := byteAt b 1
      let d := (port r pt).drill
      let up := ceilDiv r.clk.tb tbuPerNs
      let cct := le b 32 8
      let at_ := if cct = 0 then (up + 1999999) / 1000000 * 1000000 else nsOfT64 cct
      accepts specGateListSet p s = true ∧ portExists r pt = true ∧ reservedAt b 6 10 = true ∧ p.upset = false ∧ byteAt b 0 = 1 ∧ t64Ok (le b 16 8) = true ∧ 1024 ≤ le b 24 4 ∧ le b 24 4 ≤ 1000000000 ∧ le b 28 2 ≤ 1024 ∧ reservedAt b 30 2 = true ∧ (∀ i, i < le b 28 2 → 64 ≤ (tget (0, 0) d.pend.entries i).2 ∧ (tget (0, 0) d.pend.entries i).2 ≤ 1000000000) ∧ (cct = 0 ∨ (t64Ok cct = true ∧ up + 1000000 ≤ at_ ∧ at_ * tbuPerNs ≤ r.clk.tb + 60000000000 * tbuPerNs)) ∧ d.commit.isSome = true) ∧
    (∃ (p : Packet) (s : State),
      let r := reached specGateListSet p s
      let b := p.params
      let pt := byteAt b 1
      let d := (port r pt).drill
      let up := ceilDiv r.clk.tb tbuPerNs
      let cct := le b 32 8
      let at_ := if cct = 0 then (up + 1999999) / 1000000 * 1000000 else nsOfT64 cct
      accepts specGateListSet p s = true ∧ portExists r pt = true ∧ reservedAt b 6 10 = true ∧ p.upset = false ∧ byteAt b 0 = 1 ∧ t64Ok (le b 16 8) = true ∧ 1024 ≤ le b 24 4 ∧ le b 24 4 ≤ 1000000000 ∧ le b 28 2 ≤ 1024 ∧ reservedAt b 30 2 = true ∧ (∀ i, i < le b 28 2 → 64 ≤ (tget (0, 0) d.pend.entries i).2 ∧ (tget (0, 0) d.pend.entries i).2 ≤ 1000000000) ∧ (cct = 0 ∨ (t64Ok cct = true ∧ up + 1000000 ≤ at_ ∧ at_ * tbuPerNs ≤ r.clk.tb + 60000000000 * tbuPerNs)) ∧ d.commit = none) ∧
    (∃ (p : Packet) (s : State),
      let r := reached specGateListSet p s
      let b := p.params
      let pt := byteAt b 1
      accepts specGateListSet p s = true ∧ portExists r pt = true ∧ reservedAt b 6 10 = true ∧ p.upset = false ∧ byteAt b 0 = 2) ∧
    (∃ (p : Packet) (s : State),
      let r := reached specGateListSet p s
      let b := p.params
      let pt := byteAt b 1
      let d := (port r pt).drill
      accepts specGateListSet p s = true ∧ portExists r pt = true ∧ reservedAt b 6 10 = true ∧ p.upset = false ∧ byteAt b 0 = 3 ∧ d.commit = none) ∧
    (∃ (p : Packet) (s : State), ∃ c,
      let r := reached specGateListSet p s
      let b := p.params
      let pt := byteAt b 1
      let d := (port r pt).drill
      accepts specGateListSet p s = true ∧ portExists r pt = true ∧ reservedAt b 6 10 = true ∧ p.upset = false ∧ byteAt b 0 = 3 ∧ d.commit = some c) ∧
    (∃ (p : Packet) (s : State),
      let r := reached specGateListSet p s
      let b := p.params
      let pt := byteAt b 1
      let count := le b 2 2
      let first := le b 4 2
      accepts specGateListSet p s = true ∧ portExists r pt = true ∧ reservedAt b 6 10 = true ∧ p.upset = false ∧ byteAt b 0 = 4 ∧ 1 ≤ count ∧ count ≤ 510 ∧ first + count ≤ 1024) ∧
    (∃ (p : Packet) (s : State),
      let r := reached specPreemptSet p s
      let b := p.params
      let pt := byteAt b 4
      let fl := byteAt b 5
      accepts specPreemptSet p s = true ∧ reservedAt b 1 3 = true ∧ portExists r pt = true ∧ byteAt b 0 = 0 ∧ fl < 4 ∧ (bit fl 0 = true → replicated r pt = false) ∧ bit (byteAt b 6) 7 = true ∧ byteAt b 7 ≤ 3 ∧ 1 ≤ byteAt b 8 ∧ byteAt b 8 ≤ 128 ∧ reservedAt b 9 3 = true) ∧
    (∃ (p : Packet) (s : State),
      let r := reached specPreemptSet p s
      let b := p.params
      let pt := byteAt b 4
      accepts specPreemptSet p s = true ∧ reservedAt b 1 3 = true ∧ portExists r pt = true ∧ byteAt b 0 = 1 ∧ reservedAt b 5 3 = true) :=
  ⟨⟨ask ([0, 63, 1, 0, 255, 3] ++ zeros 18), { ready 4 with ports := [(63, { drill := { commit := some { base := 0, cycle := 1024, length := 1024, at_ := 9, ticket := tick } } })] }, by decide +kernel⟩,
   ⟨ask ([0, 63, 1, 0, 255, 3] ++ zeros 18), ready 4, by decide +kernel⟩,
   ⟨ask [1, 63, 0, 0, 0, 0, 0, 0, 0, 0, 0, 0, 0, 0, 0, 0, 0, 0, 0, 0, 0, 0, 0, 0, 0, 202, 154, 59, 1, 0, 0, 0, 0, 0, 0, 64, 0, 0, 0, 0], { ready 4 with ports := [(63, { drill := { pend := { entries := [(0, (255, 64))] }, commit := some { base := 0, cycle := 1024, length := 1024, at_ := 9, ticket := tick } } })] }, by decide +kernel⟩,
   ⟨ask [1, 63, 0, 0, 0, 0, 0, 0, 0, 0, 0, 0, 0, 0, 0, 0, 0, 0, 0, 0, 0, 0, 0, 0, 0, 202, 154, 59, 1, 0, 0, 0, 0, 0, 0, 64, 0, 0, 0, 0], { ready 4 with ports := [(63, { drill := { pend := { entries := [(0, (255, 64))] } } })] }, by decide +kernel⟩,
   ⟨ask ([2, 63] ++ zeros 14), ready 4, by decide +kernel⟩,
   ⟨ask ([3, 63] ++ zeros 14), ready 4, by decide +kernel⟩,
   ⟨ask ([3, 63] ++ zeros 14), { ready 4 with ports := [(63, { drill := { commit := some { base := 0, cycle := 1024, length := 1024, at_ := 9, ticket := tick } } })] }, { base := 0, cycle := 1024, length := 1024, at_ := 9, ticket := tick }, by decide +kernel⟩,
   ⟨ask ([4, 63, 1, 0, 255, 3] ++ zeros 10), ready 4, by decide +kernel⟩,
   ⟨ask [0, 0, 0, 0, 63, 3, 255, 3, 128, 0, 0, 0], ready 4, by decide +kernel⟩,
   ⟨ask [1, 0, 0, 0, 63, 0, 0, 0], ready 4, by decide +kernel⟩⟩

theorem test_WinnowRulesOnCopiesAndForgets :
    (∃ (p upset : Nat) (s : State), s.clk.coreStopped = false ∧ nextUnruled s p = none) ∧
    (∃ (p upset : Nat) (s : State), ∃ c, s.clk.coreStopped = false ∧ nextUnruled s p = some c) ∧
    (∃ (p : Nat) (s : State) (c : EgCopy), nextUnruled s p = some c) ∧
    (∃ (p u i : Nat) (c : EgCopy) (x : Frame) (s : State),
      let now := arrivalUs s
      200 < usSince now x.arrUs) ∧
    (∃ (p u i : Nat) (c : EgCopy) (x : Frame) (s : State),
      let now := arrivalUs s
      usSince now x.arrUs ≤ 200 ∧ twinSlide now x.tag (twin s p x.port) = none) ∧
    (∃ (p u i : Nat) (c : EgCopy) (x : Frame) (s : State), ∃ w,
      let now := arrivalUs s
      usSince now x.arrUs ≤ 200 ∧ twinSlide now x.tag (twin s p x.port) = some w ∧ slotGet w.slots x.tag = 0) ∧
    (∃ (p u i : Nat) (c : EgCopy) (x : Frame) (s : State), ∃ w,
      let now := arrivalUs s
      usSince now x.arrUs ≤ 200 ∧ twinSlide now x.tag (twin s p x.port) = some w ∧ slotGet w.slots x.tag = 3) ∧
    (∃ (s : State), s.clk.coreStopped = false) ∧
    (∃ (p : Nat) (s : State), s.clk.coreStopped = false) ∧
    (∃ (h p : Nat) (r : FrerRec) (s : State), s.clk.coreStopped = false ∧ frer s (frerKey h p) = some r ∧ r.take = true) ∧
    (∃ (h p : Nat) (r : FrerRec) (s : State), s.clk.coreStopped = false ∧ frer s (frerKey h p) = some r ∧ r.take = false) ∧
    (∃ (h p : Nat) (r : FrerRec) (s : State), s.clk.coreStopped = false ∧ frer s (frerKey h p) = some r ∧ bit r.flags 2 = false) ∧
    (∃ (h p : Nat) (r : FrerRec) (s : State), s.clk.coreStopped = false ∧ frer s (frerKey h p) = some r ∧ bit r.flags 2 = true) :=
  ⟨⟨63, 0, ready 4, by decide +kernel⟩,
   ⟨63, 0, { ready 4 with frames := [(9, { port := 63, bytes := zeros 80, rxDone := true })], ports := [(63, { cfg := { configured := true, mode := 1 }, link := { txUp := true }, drill := { buf := [{ uid := 9, id := 1, fur := 1, input := 63, cls := 7 }] } })] }, { uid := 9, id := 1, fur := 1, input := 63, cls := 7 }, by decide +kernel⟩,
   ⟨63, { ready 4 with ports := [(63, { drill := { buf := [{ uid := 9, id := 1, fur := 1, input := 63, cls := 7 }] } })] }, { uid := 9, id := 1, fur := 1, input := 63, cls := 7 }, by decide +kernel⟩,
   ⟨63, 9, 1, { uid := 9, id := 1, fur := 1, input := 63, cls := 7 }, { port := 63, tag := 65535, arrUs := 0 }, { ready 4 with clk := { (ready 4).clk with edges := 251250 } }, by decide +kernel⟩,
   ⟨63, 9, 1, { uid := 9, id := 1, fur := 1, input := 63, cls := 7 }, { port := 63, tag := 65535, arrUs := 0 }, { ready 4 with ports := [(63, { win := { twins := [(63, { valid := true, top := 255, lastUs := 200 })] } })], clk := { (ready 4).clk with edges := 250000 } }, by decide +kernel⟩,
   ⟨63, 9, 1, { uid := 9, id := 1, fur := 1, input := 63, cls := 7 }, { port := 63, tag := 255, arrUs := 0 }, { ready 4 with ports := [(63, { win := { twins := [(63, { valid := true, top := 255, slots := 0, lastUs := 200 })] } })], clk := { (ready 4).clk with edges := 250000 } }, { valid := true, top := 255, slots := 0, lastUs := 200 }, by decide +kernel⟩,
   ⟨63, 9, 1, { uid := 9, id := 1, fur := 1, input := 63, cls := 7 }, { port := 63, tag := 255, arrUs := 0 }, { ready 4 with ports := [(63, { win := { twins := [(63, { valid := true, top := 255, slots := 3 * 4 ^ 255, lastUs := 200 })] } })], clk := { (ready 4).clk with edges := 250000 } }, { valid := true, top := 255, slots := 3 * 4 ^ 255, lastUs := 200 }, by decide +kernel⟩,
   ⟨ready 4, by decide +kernel⟩,
   ⟨63, ready 4, by decide +kernel⟩,
   ⟨1048575, 63, { take := true }, { ready 4 with red := { (ready 4).red with frerRec := [(frerKey 1048575 63, { take := true })] } }, by decide +kernel⟩,
   ⟨1048575, 63, { take := false }, { ready 4 with red := { (ready 4).red with frerRec := [(frerKey 1048575 63, { take := false })] } }, by decide +kernel⟩,
   ⟨1048575, 63, { take := true }, { ready 4 with red := { (ready 4).red with frerRec := [(frerKey 1048575 63, { take := true })] } }, by decide +kernel⟩,
   ⟨1048575, 63, { flags := 4 }, { ready 4 with red := { (ready 4).red with frerRec := [(frerKey 1048575 63, { flags := 4 })] } }, by decide +kernel⟩⟩

theorem test_RedundancyCommandsSetNetworksRingsAndFunctions :
    (∃ (p : Packet) (s : State),
      let b := p.params
      let n := byteAt b 0
      accepts specPrpPairSet p s = true ∧ n < 4 ∧ reservedAt b 2 2 = true ∧ byteAt b 1 = 1 ∧ byteAt b 20 < 4) ∧
    (∃ (p : Packet) (s : State),
      let r := reached specPrpPairSet p s
      let b := p.params
      let n := byteAt b 0
      let a := le b 4 8
      let c := le b 12 8
      let mine := fun q => ringOf r q = none ∧ ∀ m l, netOf r q = some (m, l) → m = n
      accepts specPrpPairSet p s = true ∧ n < 4 ∧ reservedAt b 2 2 = true ∧ byteAt b 1 = 0 ∧ maskOk r a = true ∧ a ≠ 0 ∧ maskOk r c = true ∧ c ≠ 0 ∧ a &&& c = 0 ∧ byteAt b 20 < 4 ∧ 1 ≤ byteAt b 21 ∧ 10 ≤ le b 22 2 ∧ le b 22 2 ≤ 10000 ∧ (∀ q, q < 64 → bit a q = true ∨ bit c q = true → mine q)) ∧
    (∃ (p : Packet) (s : State),
      let r := reached specPrpPairSet p s
      let b := p.params
      let n := byteAt b 0
      let a := le b 4 8
      let c := le b 12 8
      let mine := fun q => ringOf r q = none ∧ ∀ m l, netOf r q = some (m, l) → m = n
      accepts specPrpPairSet p s = true ∧ n < 4 ∧ reservedAt b 2 2 = true ∧ byteAt b 1 = 0 ∧ maskOk r a = true ∧ a ≠ 0 ∧ maskOk r c = true ∧ c ≠ 0 ∧ a &&& c = 0 ∧ byteAt b 20 < 4 ∧ 1 ≤ byteAt b 21 ∧ 10 ≤ le b 22 2 ∧ le b 22 2 ≤ 10000 ∧ (∃ q, q < 64 ∧ (bit a q = true ∨ bit c q = true) ∧ ¬ mine q)) ∧
    (∃ (p : Packet) (s : State),
      let b := p.params
      let n := byteAt b 0
      accepts specHsrRingSet p s = true ∧ n < 8 ∧ reservedAt b 9 7 = true ∧ byteAt b 1 = 1) ∧
    (∃ (p : Packet) (s : State),
      let r := reached specHsrRingSet p s
      let b := p.params
      let n := byteAt b 0
      let a := byteAt b 2
      let c := byteAt b 3
      let mine := fun q => netOf r q = none ∧ ringOf r q = none
      accepts specHsrRingSet p s = true ∧ n < 8 ∧ reservedAt b 9 7 = true ∧ byteAt b 1 = 0 ∧ portExists r a = true ∧ portExists r c = true ∧ a ≠ c ∧ (byteAt b 4 = 1 ∨ (byteAt b 4 = 2 ∧ byteAt b 5 < 8 ∧ (hsrRing r (byteAt b 5)).enable = true)) ∧ 10 ≤ le b 6 2 ∧ le b 6 2 ≤ 10000 ∧ 1 ≤ byteAt b 8 ∧ mine a ∧ mine c) ∧
    (∃ (p : Packet) (s : State),
      let r := reached specHsrRingSet p s
      let b := p.params
      let n := byteAt b 0
      let a := byteAt b 2
      let c := byteAt b 3
      let mine := fun q => netOf r q = none ∧ ringOf r q = none
      accepts specHsrRingSet p s = true ∧ n < 8 ∧ reservedAt b 9 7 = true ∧ byteAt b 1 = 0 ∧ portExists r a = true ∧ portExists r c = true ∧ a ≠ c ∧ (byteAt b 4 = 1 ∨ (byteAt b 4 = 2 ∧ byteAt b 5 < 8 ∧ (hsrRing r (byteAt b 5)).enable = true)) ∧ 10 ≤ le b 6 2 ∧ le b 6 2 ≤ 10000 ∧ 1 ≤ byteAt b 8 ∧ ¬ (mine a ∧ mine c)) ∧
    (∃ (p : Packet) (s : State),
      let b := p.params
      let h := le b 4 4
      accepts specFrerSet p s = true ∧ reservedAt b 1 3 = true ∧ 1 ≤ h ∧ h < 2 ^ 20 ∧ reservedAt b 14 2 = true ∧ byteAt b 0 = 0) ∧
    (∃ (p : Packet) (s : State),
      let r := reached specFrerSet p s
      let b := p.params
      let h := le b 4 4
      let pt := byteAt b 8
      accepts specFrerSet p s = true ∧ reservedAt b 1 3 = true ∧ 1 ≤ h ∧ h < 2 ^ 20 ∧ reservedAt b 14 2 = true ∧ byteAt b 0 = 1 ∧ portExists r pt = true ∧ byteAt b 9 ≤ 1 ∧ 2 ≤ byteAt b 10 ∧ byteAt b 10 ≤ 128 ∧ byteAt b 11 < 8 ∧ 1 ≤ le b 12 2 ∧ le b 12 2 ≤ 10000) ∧
    (∃ (p : Packet) (s : State),
      let b := p.params
      let h := le b 4 4
      let pt := byteAt b 8
      accepts specFrerSet p s = true ∧ reservedAt b 1 3 = true ∧ 1 ≤ h ∧ h < 2 ^ 20 ∧ reservedAt b 14 2 = true ∧ byteAt b 0 = 2 ∧ pt = 0xFF) ∧
    (∃ (p : Packet) (s : State),
      let r := reached specFrerSet p s
      let b := p.params
      let h := le b 4 4
      let pt := byteAt b 8
      accepts specFrerSet p s = true ∧ reservedAt b 1 3 = true ∧ 1 ≤ h ∧ h < 2 ^ 20 ∧ reservedAt b 14 2 = true ∧ byteAt b 0 = 2 ∧ pt ≠ 0xFF ∧ portExists r pt = true) ∧
    (∃ (p : Packet) (s : State),
      let r := reached specFrerSet p s
      let b := p.params
      let h := le b 4 4
      let pt := byteAt b 8
      let k := frerKey h pt
      accepts specFrerSet p s = true ∧ reservedAt b 1 3 = true ∧ 1 ≤ h ∧ h < 2 ^ 20 ∧ reservedAt b 14 2 = true ∧ byteAt b 0 = 3 ∧ (pt = 0xFF ∧ tget? r.red.gen h = none ∨ pt ≠ 0xFF ∧ portExists r pt = true ∧ frer r k = none)) ∧
    (∃ (p : Packet) (s : State), ∃ n,
      let r := reached specFrerSet p s
      let b := p.params
      let h := le b 4 4
      let pt := byteAt b 8
      accepts specFrerSet p s = true ∧ reservedAt b 1 3 = true ∧ 1 ≤ h ∧ h < 2 ^ 20 ∧ reservedAt b 14 2 = true ∧ byteAt b 0 = 3 ∧ pt = 0xFF ∧ tget? r.red.gen h = some n) ∧
    (∃ (p : Packet) (s : State), ∃ x,
      let r := reached specFrerSet p s
      let b := p.params
      let h := le b 4 4
      let pt := byteAt b 8
      let k := frerKey h pt
      accepts specFrerSet p s = true ∧ reservedAt b 1 3 = true ∧ 1 ≤ h ∧ h < 2 ^ 20 ∧ reservedAt b 14 2 = true ∧ byteAt b 0 = 3 ∧ pt ≠ 0xFF ∧ portExists r pt = true ∧ frer r k = some x) ∧
    (∃ (p : Packet) (s : State),
      let r := reached specWinnowRead p s
      let b := p.params
      let pt := byteAt b 0
      accepts specWinnowRead p s = true ∧ portExists r pt = true ∧ byteAt b 1 ≤ 1 ∧ reservedAt b 2 2 = true) :=
  ⟨⟨ask ([3, 1] ++ zeros 22), ready 4, by decide +kernel⟩,
   ⟨ask [3, 0, 0, 0, 0, 0, 0, 0, 0, 0, 0, 128, 1, 0, 0, 0, 0, 0, 0, 0, 3, 255, 16, 39], ready 4, (by (iterate 13 refine ⟨by decide +kernel, ?_⟩); intro q hq hb; refine ⟨?_, fun m l h => (no_some h ?_).elim⟩ <;> (try clear h) <;> clear hb <;> revert q <;> decide +kernel)⟩,
   ⟨ask [3, 0, 0, 0, 0, 0, 0, 0, 0, 0, 0, 128, 1, 0, 0, 0, 0, 0, 0, 0, 3, 255, 16, 39], { ready 4 with red := { (ready 4).red with hsr := [(7, { enable := true, portA := 63, portB := 62 })] } }, (by (iterate 13 refine ⟨by decide +kernel, ?_⟩); exact ⟨63, by decide +kernel, by decide +kernel, fun h => absurd h.1 (by decide +kernel)⟩)⟩,
   ⟨ask ([7, 1] ++ zeros 14), ready 4, by decide +kernel⟩,
   ⟨ask ([7, 0, 63, 62, 2, 6, 16, 39, 255] ++ zeros 7), { ready 4 with red := { (ready 4).red with hsr := [(6, { enable := true, portA := 60, portB := 61 })] } }, by decide +kernel⟩,
   ⟨ask ([7, 0, 63, 62, 2, 6, 16, 39, 255] ++ zeros 7), { ready 4 with red := { (ready 4).red with hsr := [(6, { enable := true, portA := 60, portB := 61 })], prp := [(0, { enable := true, lanA := 2 ^ 62, lanB := 1 })] } }, (by (iterate 11 refine ⟨by decide +kernel, ?_⟩); exact fun h => absurd h.2.1 (by decide +kernel))⟩,
   ⟨ask ([0, 0, 0, 0, 255, 255, 15, 0] ++ zeros 8), ready 4, by decide +kernel⟩,
   ⟨ask [1, 0, 0, 0, 255, 255, 15, 0, 63, 1, 128, 7, 16, 39, 0, 0], ready 4, by decide +kernel⟩,
   ⟨ask ([2, 0, 0, 0, 255, 255, 15, 0, 255] ++ zeros 7), ready 4, by decide +kernel⟩,
   ⟨ask ([2, 0, 0, 0, 255, 255, 15, 0, 63] ++ zeros 7), ready 4, by decide +kernel⟩,
   ⟨ask ([3, 0, 0, 0, 255, 255, 15, 0, 255] ++ zeros 7), ready 4, by decide +kernel⟩,
   ⟨ask ([3, 0, 0, 0, 255, 255, 15, 0, 255] ++ zeros 7), { ready 4 with red := { (ready 4).red with gen := [(1048575, 65535)] } }, 65535, by decide +kernel⟩,
   ⟨ask ([3, 0, 0, 0, 255, 255, 15, 0, 63] ++ zeros 7), { ready 4 with red := { (ready 4).red with frerRec := [(frerKey 1048575 63, {})] } }, {}, by decide +kernel⟩,
   ⟨ask [63, 1, 0, 0], ready 4, by decide +kernel⟩⟩

theorem test_DigestsAlarmsAndRulingsReachTheirVerdict :
    (∃ (fu : Furrow) (ns : Nat) (s0 : State), s0.clk.coreStopped = false ∧
      let n := furNo fu
      let e := epochStart ns
      let s := reachRep n (epochNext ns + 50000) s0
      (fur s0 n).closedTo ≤ e ∧ decides s0 n = true ∧ (if n = 0 then s0.slices.coreA else s0.slices.coreB) = true ∧ e ∈ judged s n) ∧
    (∃ (fu : Furrow) (ns : Nat) (s0 : State), s0.clk.coreStopped = false ∧
      let n := furNo fu
      let e := epochStart ns
      let s := reachRep n (epochNext ns + 50000) s0
      let s1 := modFur n (fun y => { y with closedTo := epochNext ns, openDigests := y.openDigests.filter (fun o => decide (epochNext ns ≤ o.1)) }) s
      (fur s0 n).closedTo ≤ e ∧ decides s0 n = true ∧ (if n = 0 then s0.slices.coreA else s0.slices.coreB) = true ∧ e ∉ judged s n ∧ s1.hl.running = true ∧ decides s1 (other n) = true) ∧
    (∃ (fu : Furrow) (ns : Nat) (s0 : State), s0.clk.coreStopped = false ∧
      let n := furNo fu
      let e := epochStart ns
      let s := reachRep n (epochNext ns + 50000) s0
      let s1 := modFur n (fun y => { y with closedTo := epochNext ns, openDigests := y.openDigests.filter (fun o => decide (epochNext ns ≤ o.1)) }) s
      (fur s0 n).closedTo ≤ e ∧ decides s0 n = true ∧ (if n = 0 then s0.slices.coreA else s0.slices.coreB) = true ∧ e ∉ judged s n ∧ (s1.hl.running = false ∨ decides s1 (other n) = false)) ∧
    (∃ (a b : Digest) (s0 : State), s0.hl.running = true ∧ s0.hl.rxA.find? (fun a => s0.hl.rxB.any (fun b => b.epoch == a.epoch)) = some a ∧ s0.hl.rxB.find? (fun b => b.epoch == a.epoch) = some b ∧ notCompared s0 a.epoch = false ∧ s0.hl.alarmsA = 0 ∧ s0.hl.alarmsB = 0 ∧ s0.hl.stateA = 0 ∧ s0.hl.stateB = 0 ∧ a.sum = b.sum ∧ a.count = b.count) ∧
    (∃ (a b : Digest) (s0 : State), s0.hl.running = true ∧ s0.hl.rxA.find? (fun a => s0.hl.rxB.any (fun b => b.epoch == a.epoch)) = some a ∧ s0.hl.rxB.find? (fun b => b.epoch == a.epoch) = some b ∧ notCompared s0 a.epoch = false ∧ s0.hl.alarmsA = 0 ∧ s0.hl.alarmsB = 0 ∧ s0.hl.stateA = 0 ∧ s0.hl.stateB = 0 ∧ (¬ (a.sum = b.sum ∧ a.count = b.count))) ∧
    (∃ (q : Nat) (z : Finds) (s : State), s.hl.policy = 0) ∧
    (∃ (q : Nat) (z : Finds) (s : State), s.hl.policy = 1) ∧
    (∃ (q : Nat) (z : Finds) (s : State), s.hl.policy = 2) ∧
    (∃ (fu : Furrow) (d : Digest) (s0 : State),
      let f := furNo fu
      let v := reachEdge (d.arrived + 2560) s0
      let s := setJudged f (d.epoch :: (judged v f).take 63) (setDigests (other f) ((furDigests v (other f)).filter (fun y => y.epoch != d.epoch)) v)
      s0.hl.running = true ∧ (furDigests s0 (other f)).find? (fun d => !(furDigests s0 f).any (fun y => y.epoch == d.epoch)) = some d ∧ notCompared s d.epoch = false ∧ stoppedFor s f d.epoch = false ∧ furState s f = 0 ∧ furState s (other f) = 0 ∧ missed s f + 1 < 3) ∧
    (∃ (fu : Furrow) (d : Digest) (s0 : State),
      let f := furNo fu
      let v := reachEdge (d.arrived + 2560) s0
      let s := setJudged f (d.epoch :: (judged v f).take 63) (setDigests (other f) ((furDigests v (other f)).filter (fun y => y.epoch != d.epoch)) v)
      s0.hl.running = true ∧ (furDigests s0 (other f)).find? (fun d => !(furDigests s0 f).any (fun y => y.epoch == d.epoch)) = some d ∧ notCompared s d.epoch = false ∧ stoppedFor s f d.epoch = false ∧ furState s f = 0 ∧ furState s (other f) = 0 ∧ 3 ≤ missed s f + 1) ∧
    (∃ (s : State),
      let a := andNot s.hl.alarmsA s.hl.seenA
      let b := andNot s.hl.alarmsB s.hl.seenB
      s.hl.running = true ∧ s.hl.restart = none ∧ s.hl.stateA = 0 ∧ s.hl.stateB = 0 ∧ a ≠ 0 ∧ b = 0 ∧ s.hl.alarmsB = 0) ∧
    (∃ (s : State),
      let a := andNot s.hl.alarmsA s.hl.seenA
      let b := andNot s.hl.alarmsB s.hl.seenB
      s.hl.running = true ∧ s.hl.restart = none ∧ s.hl.stateA = 0 ∧ s.hl.stateB = 0 ∧ a = 0 ∧ b ≠ 0 ∧ s.hl.alarmsA = 0) ∧
    (∃ (s : State),
      let a := andNot s.hl.alarmsA s.hl.seenA
      let b := andNot s.hl.alarmsB s.hl.seenB
      s.hl.running = true ∧ s.hl.restart = none ∧ s.hl.stateA = 0 ∧ s.hl.stateB = 0 ∧ a ≠ 0 ∧ b ≠ 0) ∧
    (∃ (m : List Byte) (d : Disagree) (s0 : State),
      let s := arbHeard s0
      s0.hl.running = true ∧ arbValid 0x81 2 m = true ∧ s.hl.disagree = some d ∧ byteAt m 3 = d.seq ∧ s.clk.edges ≤ d.deadline ∧ byteAt m 4 = 1) ∧
    (∃ (m : List Byte) (d : Disagree) (s0 : State),
      let s := arbHeard s0
      s0.hl.running = true ∧ arbValid 0x81 2 m = true ∧ s.hl.disagree = some d ∧ byteAt m 3 = d.seq ∧ s.clk.edges ≤ d.deadline ∧ byteAt m 4 = 2) ∧
    (∃ (m : List Byte) (d : Disagree) (s0 : State),
      let s := arbHeard s0
      s0.hl.running = true ∧ arbValid 0x81 2 m = true ∧ s.hl.disagree = some d ∧ byteAt m 3 = d.seq ∧ s.clk.edges ≤ d.deadline ∧ byteAt m 4 = 3) ∧
    (∃ (m : List Byte) (d : Disagree) (s0 : State), s0.hl.running = true ∧ arbValid 0x81 2 m = true ∧ (arbHeard s0).hl.disagree = some d ∧ (byteAt m 3 ≠ d.seq ∨ d.deadline < (arbHeard s0).clk.edges)) ∧
    (∃ (m : List Byte) (s : State), s.hl.running = true ∧ arbValid 0x82 0 m = true) ∧
    (∃ (d : Disagree) (s : State), s.hl.disagree = some d ∧ s.hl.running = true) ∧
    (∃ (s : State), s.hl.arbUp = true ∧ s.hl.running = true) ∧
    (∃ (s : State), (s.hl.arbUp = false ∨ s.hl.running = false)) :=
  ⟨⟨.b, 1023, { ready 4 with hl := { (ready 4).hl with running := true, judgedB := [0] }, fb := { (ready 4).fb with released := true }, fa := { (ready 4).fa with released := true }, slices := { (ready 4).slices with coreA := true, coreB := true } }, by decide +kernel⟩,
   ⟨.b, 1023, { ready 4 with hl := { (ready 4).hl with running := true }, fb := { (ready 4).fb with released := true }, fa := { (ready 4).fa with released := true }, slices := { (ready 4).slices with coreA := true, coreB := true } }, by decide +kernel⟩,
   ⟨.b, 1023, { ready 4 with hl := { (ready 4).hl with running := false }, fb := { (ready 4).fb with released := true }, fa := { (ready 4).fa with released := true }, slices := { (ready 4).slices with coreA := true, coreB := true } }, by decide +kernel⟩,
   ⟨{ epoch := 1024, count := 3, sum := 7 }, { epoch := 1024, count := 3, sum := 7 }, { ready 4 with hl := { (ready 4).hl with running := true, rxA := [{ epoch := 1024, count := 3, sum := 7 }], rxB := [{ epoch := 1024, count := 3, sum := 7 }] } }, by decide +kernel⟩,
   ⟨{ epoch := 1024, count := 3, sum := 7 }, { epoch := 1024, count := 3, sum := 8 }, { ready 4 with hl := { (ready 4).hl with running := true, rxA := [{ epoch := 1024, count := 3, sum := 7 }], rxB := [{ epoch := 1024, count := 3, sum := 8 }] } }, by decide +kernel⟩,
   ⟨255, {}, { ready 4 with hl := { (ready 4).hl with running := true, policy := 0 } }, by decide +kernel⟩,
   ⟨255, {}, { ready 4 with hl := { (ready 4).hl with running := true, policy := 1 } }, by decide +kernel⟩,
   ⟨255, {}, { ready 4 with hl := { (ready 4).hl with running := true, policy := 2 } }, by decide +kernel⟩,
   ⟨.b, { epoch := 1024, count := 3, sum := 7 }, { ready 4 with hl := { (ready 4).hl with running := true, rxA := [{ epoch := 1024, count := 3, sum := 7 }], missB := 1 } }, by decide +kernel⟩,
   ⟨.b, { epoch := 1024, count := 3, sum := 7 }, { ready 4 with hl := { (ready 4).hl with running := true, rxA := [{ epoch := 1024, count := 3, sum := 7 }], missB := 2 } }, by decide +kernel⟩,
   ⟨{ ready 4 with hl := { (ready 4).hl with running := true, alarmsA := 1 } }, by decide +kernel⟩,
   ⟨{ ready 4 with hl := { (ready 4).hl with running := true, alarmsB := 1 } }, by decide +kernel⟩,
   ⟨{ ready 4 with hl := { (ready 4).hl with running := true, alarmsA := 1, alarmsB := 1 } }, by decide +kernel⟩,
   ⟨arbiter 0x81 [255, 1], { seq := 255, epoch := 0, sumA := 1, sumB := 2, countA := 1, countB := 1, deadline := 250000 }, { ready 4 with hl := { (ready 4).hl with running := true, disagree := some { seq := 255, epoch := 0, sumA := 1, sumB := 2, countA := 1, countB := 1, deadline := 250000 } } }, by decide +kernel⟩,
   ⟨arbiter 0x81 [255, 2], { seq := 255, epoch := 0, sumA := 1, sumB := 2, countA := 1, countB := 1, deadline := 250000 }, { ready 4 with hl := { (ready 4).hl with running := true, disagree := some { seq := 255, epoch := 0, sumA := 1, sumB := 2, countA := 1, countB := 1, deadline := 250000 } } }, by decide +kernel⟩,
   ⟨arbiter 0x81 [255, 3], { seq := 255, epoch := 0, sumA := 1, sumB := 2, countA := 1, countB := 1, deadline := 250000 }, { ready 4 with hl := { (ready 4).hl with running := true, disagree := some { seq := 255, epoch := 0, sumA := 1, sumB := 2, countA := 1, countB := 1, deadline := 250000 } } }, by decide +kernel⟩,
   ⟨arbiter 0x81 [254, 1], { seq := 255, epoch := 0, sumA := 1, sumB := 2, countA := 1, countB := 1, deadline := 250000 }, { ready 4 with hl := { (ready 4).hl with running := true, disagree := some { seq := 255, epoch := 0, sumA := 1, sumB := 2, countA := 1, countB := 1, deadline := 250000 } } }, by decide +kernel⟩,
   ⟨arbiter 0x82 [], { ready 4 with hl := { (ready 4).hl with running := true, lead := 0 } }, by decide +kernel⟩,
   ⟨{ seq := 255, epoch := 0, sumA := 1, sumB := 2, countA := 1, countB := 1, deadline := 250000 }, { ready 4 with hl := { (ready 4).hl with running := true, disagree := some { seq := 255, epoch := 0, sumA := 1, sumB := 2, countA := 1, countB := 1, deadline := 250000 } } }, by decide +kernel⟩,
   ⟨{ ready 4 with hl := { (ready 4).hl with running := true, arbUp := true } }, by decide +kernel⟩,
   ⟨ready 4, by decide +kernel⟩⟩

theorem test_TurnsFlushesAndRestartsRunTheirSteps :
    (∃ (t : Turn) (s0 : State),
      let s := reachNs t.tStart s0
      s0.hl.turn = some t ∧ t.started = false ∧ s.hl.running = true ∧ furState s t.newLead = 0 ∧ s.hl.lead ≠ t.newLead) ∧
    (∃ (t : Turn) (s0 : State),
      let s := reachNs t.tStart s0
      s0.hl.turn = some t ∧ t.started = false ∧ furState s t.newLead ≠ 0) ∧
    (∃ (t : Turn) (s0 : State),
      let s := modHl (fun h => { h with turn := some { t with ended := true } }) (reachNs t.tf s0)
      s0.hl.turn = some t ∧ t.started = true ∧ t.ended = false ∧ s.hl.running = true ∧ s.hl.lead = t.newLead ∧ furState s (other t.newLead) = 0) ∧
    (∃ (fu : Furrow) (e b : Nat) (s0 : State), s0.clk.coreStopped = false ∧
      let x := furNo fu
      let s := setFlush x none (reachEdge (e + 220 * usE) s0)
      let s1 := flushEntries x ((fur s x).lanes.flatMap (fun l => l.2.map (fun e => (l.1, e)))) (modFur x (fun y => { y with lanes := [] }) s)
      let s2 := fire 0x1E4 0 (toLE 4 (tget 0 s1.hl.ctr 9)) s1
      let off := s2.hl.autoPower = true ∧ (bit b 3 = true ∨ bit b 4 = true) ∧ furState s2 x = 1
      flushOf s0 x = some (e, b) ∧ off) ∧
    (∃ (fu : Furrow) (e b : Nat) (s0 : State), s0.clk.coreStopped = false ∧
      let x := furNo fu
      let s := setFlush x none (reachEdge (e + 220 * usE) s0)
      let s1 := flushEntries x ((fur s x).lanes.flatMap (fun l => l.2.map (fun e => (l.1, e)))) (modFur x (fun y => { y with lanes := [] }) s)
      let s2 := fire 0x1E4 0 (toLE 4 (tget 0 s1.hl.ctr 9)) s1
      let off := s2.hl.autoPower = true ∧ (bit b 3 = true ∨ bit b 4 = true) ∧ furState s2 x = 1
      flushOf s0 x = some (e, b) ∧ ¬off) ∧
    (∃ (x : Nat) (s : State), s.hl.turn = none) ∧
    (∃ (x : Nat) (s : State), ∃ t, s.hl.turn = some t) ∧
    (∃ (fu : Furrow) (s : State), s.clk.coreStopped = false ∧ flushOf s (furNo fu) = none) ∧
    (∃ (r : Restart) (s0 : State), s0.clk.coreStopped = false ∧
      let x := r.furrow
      s0.hl.restart = some r ∧ furState s0 x = 3) ∧
    (∃ (r : Restart) (s0 : State), s0.clk.coreStopped = false ∧
      let x := r.furrow
      s0.hl.restart = some r ∧ furState s0 x = 4 ∧ r.copiedAt = none) ∧
    (∃ (r : Restart) (s0 : State), ∃ e, s0.clk.coreStopped = false ∧ s0.hl.restart = some r ∧ r.copiedAt = some e ∧ r.matched < 1000) ∧
    (∃ (r : Restart) (s0 : State), ∃ e, s0.clk.coreStopped = false ∧ s0.hl.restart = some r ∧ r.copiedAt = some e ∧ 1000 ≤ r.matched) ∧
    (∃ (r : Restart) (s0 : State), s0.clk.coreStopped = false ∧ s0.hl.restart = some r ∧ s0.hl.running = true ∧ furState s0 r.furrow = 4 ∧ 1000 ≤ r.matched) ∧
    (∃ (r : Restart) (s0 : State), s0.clk.coreStopped = false ∧ s0.hl.restart = some r ∧ s0.hl.running = true ∧ furState s0 r.furrow = 4 ∧ r.matched < 1000) :=
  ⟨⟨{ tStart := 0, tf := 4000, newLead := 1, discards0 := 0, ticket := tick }, { ready 4 with hl := { (ready 4).hl with running := true, turn := some { tStart := 0, tf := 4000, newLead := 1, discards0 := 0, ticket := tick } } }, by decide +kernel⟩,
   ⟨{ tStart := 0, tf := 4000, newLead := 1, discards0 := 0, ticket := tick }, { ready 4 with hl := { (ready 4).hl with running := true, stateB := 1, turn := some { tStart := 0, tf := 4000, newLead := 1, discards0 := 0, ticket := tick } } }, by decide +kernel⟩,
   ⟨{ tStart := 0, tf := 4000, newLead := 1, discards0 := 0, ticket := tick, started := true }, { ready 4 with hl := { (ready 4).hl with running := true, lead := 1, turn := some { tStart := 0, tf := 4000, newLead := 1, discards0 := 0, ticket := tick, started := true } } }, by decide +kernel⟩,
   ⟨.b, 5, 8, { ready 4 with hl := { (ready 4).hl with running := true, autoPower := true, stateB := 1, flushB := some (5, 8) } }, by decide +kernel⟩,
   ⟨.b, 0, 1, { ready 4 with hl := { (ready 4).hl with running := true, flushB := some (0, 1) } }, by decide +kernel⟩,
   ⟨1, ready 4, by decide +kernel⟩,
   ⟨1, { ready 4 with hl := { (ready 4).hl with turn := some { tStart := 5, tf := 9, newLead := 1, discards0 := 0, ticket := tick } } }, { tStart := 5, tf := 9, newLead := 1, discards0 := 0, ticket := tick }, by decide +kernel⟩,
   ⟨.b, ready 4, by decide +kernel⟩,
   ⟨{ furrow := 1, ticket := tick, startedAt := 0 }, { ready 4 with hl := { (ready 4).hl with running := true, stateB := 3, restart := some { furrow := 1, ticket := tick, startedAt := 0 } } }, by decide +kernel⟩,
   ⟨{ furrow := 1, ticket := tick, startedAt := 0 }, { ready 4 with hl := { (ready 4).hl with running := true, stateB := 4, restart := some { furrow := 1, ticket := tick, startedAt := 0 } } }, by decide +kernel⟩,
   ⟨{ furrow := 1, ticket := tick, startedAt := 0, copiedAt := some 5 }, { ready 4 with hl := { (ready 4).hl with running := true, stateB := 4, restart := some { furrow := 1, ticket := tick, startedAt := 0, copiedAt := some 5 } } }, 5, by decide +kernel⟩,
   ⟨{ furrow := 1, ticket := tick, startedAt := 0, copiedAt := some 5, matched := 1000 }, { ready 4 with hl := { (ready 4).hl with running := true, stateB := 4, restart := some { furrow := 1, ticket := tick, startedAt := 0, copiedAt := some 5, matched := 1000 } } }, 5, by decide +kernel⟩,
   ⟨{ furrow := 1, ticket := tick, startedAt := 0, matched := 1000 }, { ready 4 with hl := { (ready 4).hl with running := true, stateB := 4, restart := some { furrow := 1, ticket := tick, startedAt := 0, matched := 1000 } } }, by decide +kernel⟩,
   ⟨{ furrow := 1, ticket := tick, startedAt := 0 }, { ready 4 with hl := { (ready 4).hl with running := true, stateB := 4, restart := some { furrow := 1, ticket := tick, startedAt := 0 } } }, by decide +kernel⟩⟩

theorem test_HeadlandCommandsAnswerTurnAndRestart :
    (∃ (p : Packet) (s : State), accepts specFurrowStatus p s = true) ∧
    (∃ (p : Packet) (s : State),
      let r := reached specHeadlandTurn p s
      let new := byteAt p.params 0
      accepts specHeadlandTurn p s = true ∧ new ≤ 1 ∧ reservedAt p.params 1 3 = true ∧ new = r.hl.lead) ∧
    (∃ (p : Packet) (s : State),
      let r := reached specHeadlandTurn p s
      let new := byteAt p.params 0
      accepts specHeadlandTurn p s = true ∧ new ≤ 1 ∧ reservedAt p.params 1 3 = true ∧ new ≠ r.hl.lead ∧ (r.hl.turn.isSome = true ∨ r.hl.disagree.isSome = true)) ∧
    (∃ (p : Packet) (s : State),
      let r := reached specHeadlandTurn p s
      let new := byteAt p.params 0
      accepts specHeadlandTurn p s = true ∧ new ≤ 1 ∧ reservedAt p.params 1 3 = true ∧ new ≠ r.hl.lead ∧ r.hl.turn = none ∧ r.hl.disagree = none ∧ furState r new ≠ 0) ∧
    (∃ (p : Packet) (s : State),
      let r := reached specHeadlandTurn p s
      let new := byteAt p.params 0
      accepts specHeadlandTurn p s = true ∧ new ≤ 1 ∧ reservedAt p.params 1 3 = true ∧ new ≠ r.hl.lead ∧ r.hl.turn = none ∧ r.hl.disagree = none ∧ furState r new = 0) ∧
    (∃ (p : Packet) (s : State),
      let r := reached specFurrowRestart p s
      let x := byteAt p.params 0
      accepts specFurrowRestart p s = true ∧ x ≤ 1 ∧ byteAt p.params 1 ≤ 1 ∧ reservedAt p.params 2 2 = true ∧ furState r x = 0) ∧
    (∃ (p : Packet) (s : State),
      let r := reached specFurrowRestart p s
      let x := byteAt p.params 0
      accepts specFurrowRestart p s = true ∧ x ≤ 1 ∧ byteAt p.params 1 ≤ 1 ∧ reservedAt p.params 2 2 = true ∧ furState r x ≠ 0 ∧ r.hl.restart.isSome = true) ∧
    (∃ (p : Packet) (s : State),
      let r := reached specFurrowRestart p s
      let x := byteAt p.params 0
      accepts specFurrowRestart p s = true ∧ x ≤ 1 ∧ byteAt p.params 1 ≤ 1 ∧ reservedAt p.params 2 2 = true ∧ furState r x ≠ 0 ∧ r.hl.restart = none ∧ byteAt p.params 1 = 1) ∧
    (∃ (p : Packet) (s : State),
      let r := reached specFurrowRestart p s
      let x := byteAt p.params 0
      accepts specFurrowRestart p s = true ∧ x ≤ 1 ∧ byteAt p.params 1 ≤ 1 ∧ reservedAt p.params 2 2 = true ∧ furState r x ≠ 0 ∧ r.hl.restart = none ∧ byteAt p.params 1 = 0) :=
  ⟨⟨ask [], ready 4, by decide +kernel⟩,
   ⟨ask (zeros 4), ready 4, by decide +kernel⟩,
   ⟨ask [1, 0, 0, 0], { ready 4 with hl := { (ready 4).hl with running := true, disagree := some { seq := 255, epoch := 0, sumA := 1, sumB := 2, countA := 1, countB := 1, deadline := 250000 } } }, by decide +kernel⟩,
   ⟨ask [1, 0, 0, 0], { ready 4 with hl := { (ready 4).hl with running := true, stateB := 1 } }, by decide +kernel⟩,
   ⟨ask [1, 0, 0, 0], { ready 4 with hl := { (ready 4).hl with running := true, lead := 0 } }, by decide +kernel⟩,
   ⟨ask [1, 1, 0, 0], ready 4, by decide +kernel⟩,
   ⟨ask [1, 1, 0, 0], { ready 4 with hl := { (ready 4).hl with running := true, stateB := 3, restart := some { furrow := 1, ticket := tick, startedAt := 0 } } }, by decide +kernel⟩,
   ⟨ask [1, 1, 0, 0], { ready 4 with hl := { (ready 4).hl with running := true, stateB := 1 } }, by decide +kernel⟩,
   ⟨ask [1, 0, 0, 0], { ready 4 with hl := { (ready 4).hl with running := true, stateB := 1 } }, by decide +kernel⟩⟩

theorem test_PolicySetTakesItsBlock :
    (∃ (p : Packet) (s : State), accepts specHeadlandPolicySet p s = true) ∧
    (∃ (p : Packet) (s : State),
      let b := p.params
      accepts specHeadlandPolicySet p s = true ∧ byteAt b 0 ≤ 2 ∧ 1 ≤ byteAt b 1 ∧ byteAt b 2 < 4 ∧ reservedAt b 3 5 = true) ∧
    (∃ (p : Packet) (s : State),
      let b := p.params
      accepts specHeadlandPolicySet p s = true ∧ byteAt b 0 ≤ 2 ∧ 1 ≤ byteAt b 1 ∧ byteAt b 2 < 4 ∧ reservedAt b 3 5 = true ∧ byteAt b 0 = 0) ∧
    (∃ (p : Packet) (s : State),
      let b := p.params
      accepts specHeadlandPolicySet p s = true ∧ byteAt b 0 ≤ 2 ∧ 1 ≤ byteAt b 1 ∧ byteAt b 2 < 4 ∧ reservedAt b 3 5 = true ∧ byteAt b 0 = 1) ∧
    (∃ (p : Packet) (s : State),
      let b := p.params
      accepts specHeadlandPolicySet p s = true ∧ 2 < byteAt b 0) ∧
    (∃ (p : Packet) (s : State),
      let b := p.params
      accepts specHeadlandPolicySet p s = true ∧ byteAt b 0 ≤ 2 ∧ byteAt b 1 = 0) ∧
    (∃ (p : Packet) (s : State),
      let b := p.params
      accepts specHeadlandPolicySet p s = true ∧ byteAt b 0 ≤ 2 ∧ 1 ≤ byteAt b 1 ∧ 4 ≤ byteAt b 2) ∧
    (∃ (p : Packet) (s : State),
      let b := p.params
      accepts specHeadlandPolicySet p s = true ∧ byteAt b 0 ≤ 2 ∧ 1 ≤ byteAt b 1 ∧ byteAt b 2 < 4 ∧ reservedAt b 3 5 = false) :=
  ⟨⟨ask (zeros 8), ready 4, by decide +kernel⟩,
   ⟨ask ([2, 255, 3] ++ zeros 5), ready 4, by decide +kernel⟩,
   ⟨ask ([0, 1] ++ zeros 6), ready 4, by decide +kernel⟩,
   ⟨ask ([1, 1] ++ zeros 6), ready 4, by decide +kernel⟩,
   ⟨ask ([3] ++ zeros 7), ready 4, by decide +kernel⟩,
   ⟨ask (zeros 8), ready 4, by decide +kernel⟩,
   ⟨ask ([0, 1, 4] ++ zeros 5), ready 4, by decide +kernel⟩,
   ⟨ask [2, 1, 3, 0, 0, 0, 0, 1], ready 4, by decide +kernel⟩⟩

theorem test_CorrectionsHoldoverAndReferencesAct :
    (∃ (d : Int) (s : State), s.clk.coreStopped = false ∧
      let t := s.tim
      let small := d.natAbs ≤ 400
      let good := if small then t.goodRun + 1 else 0
      let next := if small ∧ 16 ≤ good then 2 else if ¬ small ∨ t.state = 0 ∨ 3 ≤ t.state then 1 else t.state
      let s1 := modTim (fun t => { t with
        lastDelta := d, pendDelta := none, goodRun := good, firstLock := false
        fromHoldover := if next = 2 then false else t.fromHoldover || t.state == 3 }) s
      let s2 := applyDelta d t.firstLock s1
      let s4 := setClock next { s2 with free := s2.free + 1 }
      t.pendDelta = some d ∧ (t.cfg.mode = 3 ∨ ((t.cfg.mode = 1 ∨ t.cfg.mode = 2) ∧ s.cp.running = true)) ∧
      let s5 := if next = 2 ∧ t.state ≠ 2 then modTim (fun t => { t with adjHist := [adjSeg s4] }) s4 else s4
      clk10mFreq s5 = false) ∧
    (∃ (d : Int) (s : State), s.clk.coreStopped = false ∧
      let t := s.tim
      let small := d.natAbs ≤ 400
      let good := if small then t.goodRun + 1 else 0
      let next := if small ∧ 16 ≤ good then 2 else if ¬ small ∨ t.state = 0 ∨ 3 ≤ t.state then 1 else t.state
      let s1 := modTim (fun t => { t with
        lastDelta := d, pendDelta := none, goodRun := good, firstLock := false
        fromHoldover := if next = 2 then false else t.fromHoldover || t.state == 3 }) s
      let s2 := applyDelta d t.firstLock s1
      let s4 := setClock next { s2 with free := s2.free + 1 }
      t.pendDelta = some d ∧ (t.cfg.mode = 3 ∨ ((t.cfg.mode = 1 ∨ t.cfg.mode = 2) ∧ s.cp.running = true)) ∧
      let s5 := if next = 2 ∧ t.state ≠ 2 then modTim (fun t => { t with adjHist := [adjSeg s4] }) s4 else s4
      clk10mFreq s5 = true) ∧
    (∃ (d : Int) (first : Bool) (s : State),
      let limit := s.tim.cfg.stepThreshold * 4000
      d.natAbs ≤ limit) ∧
    (∃ (d : Int) (first : Bool) (s : State),
      let limit := s.tim.cfg.stepThreshold * 4000
      limit < d.natAbs ∧ (first = true ∨ forwarding s = false ∨ s.tim.cfg.stepInRun = true)) ∧
    (∃ (s : State), s.clk.coreStopped = false ∧ s.tim.pendDelta = none) ∧
    (∃ (fu : Furrow) (drift : Int) (s0 : State), s0.clk.coreStopped = false ∧
      let n := furNo fu
      let s := reachNs (epochNext (nowNs s0)) s0
      let off := if (fur s n).repReload = true then 0 else (fur s n).repOff + drift
      (fur s0 n).released = true ∧ powered s0 n = true ∧ (if n = 0 then s0.slices.coreA else s0.slices.coreB) = true ∧ off.natAbs ≤ 4 * tbuPerNs) ∧
    (∃ (fu : Furrow) (drift : Int) (s0 : State), s0.clk.coreStopped = false ∧
      let n := furNo fu
      let s := reachNs (epochNext (nowNs s0)) s0
      let off := if (fur s n).repReload = true then 0 else (fur s n).repOff + drift
      (fur s0 n).released = true ∧ powered s0 n = true ∧ (if n = 0 then s0.slices.coreA else s0.slices.coreB) = true ∧ 4 * tbuPerNs < off.natAbs) ∧
    (∃ (s : State), s.clk.coreStopped = false ∧ s.tim.cfg.mode = 2 ∧ s.tim.state = 2) ∧
    (∃ (s : State), ∃ p, s.clk.coreStopped = false ∧ s.tim.cfg.mode = 1 ∧ s.tim.slavePort = some p ∧ s.tim.state = 2) ∧
    (∃ (s : State), s.clk.coreStopped = false ∧ s.tim.state = 3) ∧
    (∃ (s : State), s.clk.coreStopped = false ∧
      let r := s.tim.ref
      (s.tim.state = 3 ∧ s.tim.cfg.holdoverExt = true ∧ r.clk10m = true ∨ clk10mFreq s = true)) ∧
    (∃ (s : State), s.clk.coreStopped = false ∧
      let r := s.tim.ref
      r.tod = none) ∧
    (∃ (s : State), ∃ m, s.clk.coreStopped = false ∧
      let r := s.tim.ref
      r.tod = some m ∧ s.tim.cfg.mode = 2 ∧ s.cp.running = true) ∧
    (∃ (m : List Byte) (s : State), s.clk.coreStopped = false ∧ todOk m = true) ∧
    (∃ (m : List Byte) (s : State), s.clk.coreStopped = false ∧ todOk m = false) ∧
    (∃ (present : Bool) (s : State), s.clk.coreStopped = false) ∧
    (∃ (s : State), s.clk.coreStopped = false ∧
      let r := s.tim.ref
      r.todValid = true) ∧
    (∃ (s : State), s.clk.coreStopped = false ∧
      let r := s.tim.ref
      r.ppsPresent = true) ∧
    (∃ (s0 : State), s0.clk.coreStopped = false ∧ s0.tim.leap = 1) ∧
    (∃ (s0 : State), s0.clk.coreStopped = false ∧ s0.tim.leap = 2) ∧
    (∃ (s0 : State), s0.clk.coreStopped = false ∧ s0.tim.leap = 0) :=
  ⟨⟨-5, { ready 4 with tim := { (ready 4).tim with pendDelta := some (-5), cfg := { mode := 2 } } }, by decide +kernel⟩,
   ⟨0, { ready 4 with tim := { (ready 4).tim with cfg := { (ready 4).tim.cfg with mode := 2 }, pendDelta := some 0, ref := { (ready 4).tim.ref with clk10m := true } } }, by decide +kernel⟩,
   ⟨-400000, false, ready 4, by decide +kernel⟩,
   ⟨-400001, false, ready 4, by decide +kernel⟩,
   ⟨ready 4, by decide +kernel⟩,
   ⟨.b, 4 * 20480000000000, { ready 4 with fb := { (ready 4).fb with released := true }, slices := { (ready 4).slices with coreB := true } }, by decide +kernel⟩,
   ⟨.b, -(4 * 20480000000000 + 1), { ready 4 with fb := { (ready 4).fb with released := true }, slices := { (ready 4).slices with coreB := true } }, by decide +kernel⟩,
   ⟨{ ready 4 with tim := { (ready 4).tim with state := 2, cfg := { mode := 2 } } }, by decide +kernel⟩,
   ⟨{ ready 4 with tim := { (ready 4).tim with state := 2, cfg := { mode := 1 }, slavePort := some 63 } }, 63, by decide +kernel⟩,
   ⟨{ ready 4 with tim := { (ready 4).tim with state := 3 } }, by decide +kernel⟩,
   ⟨{ ready 4 with tim := { (ready 4).tim with state := 3, cfg := { (ready 4).tim.cfg with holdoverExt := true }, ref := { (ready 4).tim.ref with clk10m := true } } }, by decide +kernel⟩,
   ⟨ready 4, by decide +kernel⟩,
   ⟨{ ready 4 with tim := { (ready 4).tim with cfg := { mode := 2 }, ref := { tod := some { seconds := 5, utcOffset := 37, flags := 4, clockClass := 6, accuracy := 0x21, variance := 0 } } } }, { seconds := 5, utcOffset := 37, flags := 4, clockClass := 6, accuracy := 0x21, variance := 0 }, by decide +kernel⟩,
   ⟨todMessage, ready 4, by decide +kernel⟩,
   ⟨[], ready 4, by decide +kernel⟩,
   ⟨-5, { ready 4 with tim := { (ready 4).tim with pendDelta := some (-5), cfg := { mode := 2 } } }, by decide +kernel⟩,
   ⟨{ ready 4 with tim := { (ready 4).tim with ref := { todValid := true } } }, by decide +kernel⟩,
   ⟨{ ready 4 with tim := { (ready 4).tim with ref := { ppsPresent := true } } }, by decide +kernel⟩,
   ⟨{ ready 4 with tim := { (ready 4).tim with leap := 1 } }, by decide +kernel⟩,
   ⟨{ ready 4 with tim := { (ready 4).tim with leap := 2 } }, by decide +kernel⟩,
   ⟨ready 4, by decide +kernel⟩⟩

theorem test_OutputsAndGpioCaptureKeepTheirTimes :
    (∃ (s0 : State), coreLive s0 = true) ∧
    (∃ (n : Nat) (s0 : State), coreLive s0 = true) ∧
    (∃ (s0 : State),
      let sec := nowNs s0 / 1000000000 + 1
      let s := reachNs (sec * 1000000000) s0
      coreLive s0 = true ∧ s0.tim.irig.outFormat ≠ 0 ∧ s.tim.irig.squelch = true ∧ untraceable s = true) ∧
    (∃ (s0 : State),
      let sec := nowNs s0 / 1000000000 + 1
      let s := reachNs (sec * 1000000000) s0
      coreLive s0 = true ∧ s0.tim.irig.outFormat ≠ 0 ∧ s.tim.irig.squelch = false) ∧
    (∃ (pulses : List Nat) (first : Nat) (s : State), s.clk.coreStopped = false ∧
      let c := s.tim.irig
      let l := pulses.map (fun n => match n with | 2 => 0 | 5 => 1 | 8 => 2 | _ => 3)
      let ok := irigWellFormed c.inFormat (c.cf && irigCf c.inFormat) l
      c.inFormat ≠ 0 ∧ ok = false) ∧
    (∃ (pulses : List Nat) (first : Nat) (s : State), s.clk.coreStopped = false ∧
      let c := s.tim.irig
      let l := pulses.map (fun n => match n with | 2 => 0 | 5 => 1 | 8 => 2 | _ => 3)
      let ok := irigWellFormed c.inFormat (c.cf && irigCf c.inFormat) l
      c.inFormat ≠ 0 ∧ ok = true ∧ s.tim.ref.irigLast = none) ∧
    (∃ (pulses : List Nat) (first : Nat) (s : State), ∃ t, s.clk.coreStopped = false ∧
      let c := s.tim.irig
      let l := pulses.map (fun n => match n with | 2 => 0 | 5 => 1 | 8 => 2 | _ => 3)
      let age := if irigAm c.inFormat then first + 250 * usE else first
      let ok := irigWellFormed c.inFormat (c.cf && irigCf c.inFormat) l
      let sec := irigSecond s l age
      c.inFormat ≠ 0 ∧ ok = true ∧ s.tim.ref.irigLast = some t ∧ sec = t + 1) ∧
    (∃ (pulses : List Nat) (first : Nat) (s : State), ∃ t, s.clk.coreStopped = false ∧
      let c := s.tim.irig
      let l := pulses.map (fun n => match n with | 2 => 0 | 5 => 1 | 8 => 2 | _ => 3)
      let age := if irigAm c.inFormat then first + 250 * usE else first
      let ok := irigWellFormed c.inFormat (c.cf && irigCf c.inFormat) l
      let sec := irigSecond s l age
      c.inFormat ≠ 0 ∧ ok = true ∧ s.tim.ref.irigLast = some t ∧ sec ≠ t + 1 ∧ s.tim.ref.irigLocked = true) ∧
    (∃ (n : Nat) (level : Bool) (s : State), s.clk.coreStopped = false ∧
      let g := gpio s n
      n < 32 ∧ g.level ≠ level ∧ level = g.accepted ∧ g.changing.isSome = true) ∧
    (∃ (n : Nat) (level : Bool) (s : State), s.clk.coreStopped = false ∧
      let g := gpio s n
      n < 32 ∧ g.level ≠ level ∧ level ≠ g.accepted ∧ g.debounce = 0) ∧
    (∃ (n : Nat) (level : Bool) (s : State), s.clk.coreStopped = false ∧
      let g := gpio s n
      n < 32 ∧ g.level ≠ level ∧ level ≠ g.accepted ∧ g.debounce ≠ 0) ∧
    (∃ (n ns q e : Nat) (s : State), s.clk.coreStopped = false ∧ (gpio s n).changing = some (ns, q, e)) ∧
    (∃ (n : Nat) (s0 : State), s0.clk.coreStopped = false ∧
      let g := gpio s0 n
      g.silenced = true) ∧
    (∃ (n : Nat) (s0 : State), s0.clk.coreStopped = false ∧
      let g := gpio s0 n
      g.silenced = false) :=
  ⟨⟨ready 4, by decide +kernel⟩,
   ⟨31, ready 4, by decide +kernel⟩,
   ⟨{ ready 4 with tim := { (ready 4).tim with irig := { outFormat := 1, squelch := true } } }, by decide +kernel⟩,
   ⟨{ ready 4 with tim := { (ready 4).tim with irig := { outFormat := 1 } } }, by decide +kernel⟩,
   ⟨[], 0, { ready 4 with tim := { (ready 4).tim with irig := { inFormat := 1 }, ref := {  } } }, by decide +kernel⟩,
   ⟨(symbols.map (fun i => 2 + 3 * i)), 0, { ready 4 with tim := { (ready 4).tim with irig := { inFormat := 1 }, ref := { irigLast := none } } }, by decide +kernel⟩,
   ⟨(symbols.map (fun i => 2 + 3 * i)), 0, { ready 4 with tim := { (ready 4).tim with irig := { inFormat := 1 }, ref := { irigLast := some 0 } } }, 0, by decide +kernel⟩,
   ⟨(symbols.map (fun i => 2 + 3 * i)), 0, { ready 4 with tim := { (ready 4).tim with irig := { inFormat := 1 }, ref := { irigLast := some 1, irigLocked := true } } }, 1, by decide +kernel⟩,
   ⟨31, false, { ready 4 with gpio := [(31, { level := true, edges := 3, changing := some (1, 2, 3) })] }, by decide +kernel⟩,
   ⟨31, true, ready 4, by decide +kernel⟩,
   ⟨31, true, { ready 4 with gpio := [(31, { edges := 3, debounce := 1 })] }, by decide +kernel⟩,
   ⟨31, 1, 2, 3, { ready 4 with gpio := [(31, { changing := some (1, 2, 3) })] }, by decide +kernel⟩,
   ⟨31, { ready 4 with gpio := [(31, { silenced := true })] }, by decide +kernel⟩,
   ⟨31, ready 4, by decide +kernel⟩⟩

theorem test_PtpMessagesAreHandledSentAndTimed :
    (∃ (s : State), s.clk.coreStopped = false ∧ s.tim.ptpRx = []) ∧
    (∃ (p t : Nat) (bytes : List Byte) (rest : List (Nat × Nat × List Byte)) (s : State), s.clk.coreStopped = false ∧ s.tim.ptpRx = (p, t, bytes) :: rest ∧ s.cp.running = false) ∧
    (∃ (p t : Nat) (bytes : List Byte) (rest : List (Nat × Nat × List Byte)) (s : State), s.clk.coreStopped = false ∧
      let x := ptpPort s p
      let b := (bytes.take (bytes.length - 4)).drop (14 + 4 * earlyTags bytes)
      s.tim.ptpRx = (p, t, bytes) :: rest ∧ s.cp.running = true ∧ x.role ≠ 0 ∧ b.length < 34) ∧
    (∃ (p t : Nat) (bytes : List Byte) (rest : List (Nat × Nat × List Byte)) (s : State), s.clk.coreStopped = false ∧
      let x := ptpPort s p
      let b := (bytes.take (bytes.length - 4)).drop (14 + 4 * earlyTags bytes)
      let kind := byteAt b 0 % 16
      let n := be b 2 2
      s.tim.ptpRx = (p, t, bytes) :: rest ∧ s.cp.running = true ∧ x.role ≠ 0 ∧ 34 ≤ b.length ∧ byteAt b 1 % 16 = 2 ∧ ptpMin kind ≤ n ∧ n ≤ b.length ∧ byteAt b 4 ≠ s.tim.cfg.domain) ∧
    (∃ (p t : Nat) (bytes : List Byte) (rest : List (Nat × Nat × List Byte)) (s : State), s.clk.coreStopped = false ∧
      let x := ptpPort s p
      let b := (bytes.take (bytes.length - 4)).drop (14 + 4 * earlyTags bytes)
      let kind := byteAt b 0 % 16
      let n := be b 2 2
      s.tim.ptpRx = (p, t, bytes) :: rest ∧ s.cp.running = true ∧ x.role ≠ 0 ∧ 34 ≤ b.length ∧ byteAt b 1 % 16 = 2 ∧ ptpMin kind ≤ n ∧ n ≤ b.length ∧ byteAt b 4 = s.tim.cfg.domain ∧ byteAt b 0 = 2 ∧ byteAt b 5 = 0) ∧
    (∃ (p kind : Nat) (s : State), s.clk.coreStopped = false ∧
      let x := ptpPort s p
      s.cp.running = true ∧ x.role ≠ 0 ∧ portExists s p = true ∧ x.qualAt = none ∧ (kind = 2 ∨ ((kind = 0 ∨ kind = 11) ∧ (x.role = 1 ∨ x.role = 2) ∧ x.state = 6 ∧ x.capable = true))) ∧
    (∃ (p kind : Nat) (s : State), s.clk.coreStopped = false ∧ s.cp.running = false) ∧
    (∃ (p : Nat) (s0 : State), s0.clk.coreStopped = false ∧
      let x := ptpPort s0 p
      s0.cp.running = true ∧ (x.role = 1 ∨ x.role = 2) ∧ x.state ≠ 6 ∧ x.state ≠ 3) ∧
    (∃ (p : Nat) (e : StampEnt) (r : List StampEnt) (s : State), s.clk.coreStopped = false ∧ s.cp.running = true ∧ (ptpPort s p).fifo = e :: r ∧ (ptpPort s p).marker = none ∧ e.marker = false) ∧
    (∃ (p : Nat) (e : StampEnt) (r : List StampEnt) (s : State), s.clk.coreStopped = false ∧ s.cp.running = true ∧ (ptpPort s p).fifo = e :: r ∧ (ptpPort s p).marker = none ∧ e.marker = true) ∧
    (∃ (p : Nat) (e : StampEnt) (r : List StampEnt) (s : State), ∃ m, s.clk.coreStopped = false ∧ s.cp.running = true ∧ (ptpPort s p).fifo = e :: r ∧ (ptpPort s p).marker = some m ∧ e.marker = false) :=
  ⟨⟨ready 4, by decide +kernel⟩,
   ⟨63, 9, zeros 14 ++ [2, 2, 0, 54, 0] ++ zeros 53, [], { ready 4 with tim := { (ready 4).tim with ptp := [(63, { role := 1 })], ptpRx := [(63, 9, zeros 14 ++ [2, 2, 0, 54, 0] ++ zeros 53)] }, cp := { (ready 4).cp with running := false } }, by decide +kernel⟩,
   ⟨63, 9, zeros 51, [], { ready 4 with tim := { (ready 4).tim with ptp := [(63, { role := 1 })], ptpRx := [(63, 9, zeros 51)] } }, by decide +kernel⟩,
   ⟨63, 9, zeros 14 ++ [2, 2, 0, 54, 127] ++ zeros 53, [], { ready 4 with tim := { (ready 4).tim with ptp := [(63, { role := 1 })], ptpRx := [(63, 9, zeros 14 ++ [2, 2, 0, 54, 127] ++ zeros 53)] } }, by decide +kernel⟩,
   ⟨63, 9, zeros 14 ++ [2, 2, 0, 54, 0] ++ zeros 53, [], { ready 4 with tim := { (ready 4).tim with ptp := [(63, { role := 3 })], ptpRx := [(63, 9, zeros 14 ++ [2, 2, 0, 54, 0] ++ zeros 53)] } }, by decide +kernel⟩,
   ⟨63, 11, { ready 4 with tim := { (ready 4).tim with ptp := [(63, { role := 1, state := 6 })] } }, by decide +kernel⟩,
   ⟨63, 2, { ready 4 with tim := { (ready 4).tim with ptp := [(63, { role := 1 })] }, cp := { (ready 4).cp with running := false } }, by decide +kernel⟩,
   ⟨63, { ready 4 with tim := { (ready 4).tim with ptp := [(63, { role := 1, state := 9 })] } }, by decide +kernel⟩,
   ⟨63, { marker := false, t64 := 5, kind := 2, seq := 65535, domain := 0, lost := 1 }, [], { ready 4 with tim := { (ready 4).tim with ptp := [(63, { fifo := [{ marker := false, t64 := 5, kind := 2, seq := 65535, domain := 0, lost := 1 }] })] } }, by decide +kernel⟩,
   ⟨63, { marker := true, t64 := 5, kind := 2, seq := 65535, domain := 0, lost := 1 }, [], { ready 4 with tim := { (ready 4).tim with ptp := [(63, { fifo := [{ marker := true, t64 := 5, kind := 2, seq := 65535, domain := 0, lost := 1 }] })] } }, by decide +kernel⟩,
   ⟨63, { marker := false, t64 := 5, kind := 2, seq := 65535, domain := 0, lost := 1 }, [], { ready 4 with tim := { (ready 4).tim with ptp := [(63, { fifo := [{ marker := false, t64 := 5, kind := 2, seq := 65535, domain := 0, lost := 1 }], marker := some { marker := true, t64 := 5, kind := 2, seq := 65535, domain := 0, lost := 1 } })] } }, { marker := true, t64 := 5, kind := 2, seq := 65535, domain := 0, lost := 1 }, by decide +kernel⟩⟩

theorem test_ClockPtpIrigAndGpioCommandsSetTheirUnits :
    (∃ (p : Packet) (s : State),
      let r := reached specClockConfigure p s
      let b := p.params
      let c := clockBlock b
      accepts specClockConfigure p s = true ∧ c.mode < 4 ∧ (c.profile = 1 ∨ c.profile = 2) ∧ byteAt b 5 < 16 ∧ 1 ≤ c.slewMax ∧ c.slewMax ≤ 500 ∧ 1 ≤ c.stepThreshold ∧ c.stepThreshold ≤ 1000000 ∧ 1 ≤ c.holdoverTime ∧ c.holdoverTime ≤ 86400 ∧ c.leap < 3 ∧ c.ptpClass < 7 ∧ 9600 ≤ c.todBaud ∧ c.todBaud ≤ 460800 ∧ (∀ e ∈ ppsChecks b 32 ++ ppsChecks b 40, e.1 = true) ∧ offsetOk b 48 = true ∧ offsetOk b 52 = true ∧ reservedAt b 56 8 = true ∧ t64Ok (le b 20 8) = true ∧ le b 20 8 = 0 ∧ c.mode ≠ 0 ∧ c.mode = r.tim.cfg.mode ∧ c.profile = r.tim.cfg.profile ∧ (c.mode = 3 → r.tim.irig.inFormat ≠ 0)) ∧
    (∃ (p : Packet) (s : State),
      let r := reached specClockConfigure p s
      let b := p.params
      let c := clockBlock b
      accepts specClockConfigure p s = true ∧ c.mode < 4 ∧ (c.profile = 1 ∨ c.profile = 2) ∧ byteAt b 5 < 16 ∧ 1 ≤ c.slewMax ∧ c.slewMax ≤ 500 ∧ 1 ≤ c.stepThreshold ∧ c.stepThreshold ≤ 1000000 ∧ 1 ≤ c.holdoverTime ∧ c.holdoverTime ≤ 86400 ∧ c.leap < 3 ∧ c.ptpClass < 7 ∧ 9600 ≤ c.todBaud ∧ c.todBaud ≤ 460800 ∧ (∀ e ∈ ppsChecks b 32 ++ ppsChecks b 40, e.1 = true) ∧ offsetOk b 48 = true ∧ offsetOk b 52 = true ∧ reservedAt b 56 8 = true ∧ t64Ok (le b 20 8) = true ∧ le b 20 8 = 0 ∧ c.mode = 3 ∧ r.tim.irig.inFormat = 0) ∧
    (∃ (p : Packet) (s : State),
      let r := reached specClockConfigure p s
      let b := p.params
      let c := clockBlock b
      accepts specClockConfigure p s = true ∧ c.mode < 4 ∧ (c.profile = 1 ∨ c.profile = 2) ∧ byteAt b 5 < 16 ∧ 1 ≤ c.slewMax ∧ c.slewMax ≤ 500 ∧ 1 ≤ c.stepThreshold ∧ c.stepThreshold ≤ 1000000 ∧ 1 ≤ c.holdoverTime ∧ c.holdoverTime ≤ 86400 ∧ c.leap < 3 ∧ c.ptpClass < 7 ∧ 9600 ≤ c.todBaud ∧ c.todBaud ≤ 460800 ∧ (∀ e ∈ ppsChecks b 32 ++ ppsChecks b 40, e.1 = true) ∧ offsetOk b 48 = true ∧ offsetOk b 52 = true ∧ reservedAt b 56 8 = true ∧ t64Ok (le b 20 8) = true ∧ le b 20 8 ≠ 0 ∧ c.mode = 0 ∧ r.tim.cfg.mode = 0 ∧ c.profile = r.tim.cfg.profile) ∧
    (∃ (p : Packet) (s : State),
      let b := p.params
      let c := clockBlock b
      accepts specClockConfigure p s = true ∧ c.mode < 4 ∧ (c.profile = 1 ∨ c.profile = 2) ∧ byteAt b 5 < 16 ∧ 1 ≤ c.slewMax ∧ c.slewMax ≤ 500 ∧ 1 ≤ c.stepThreshold ∧ c.stepThreshold ≤ 1000000 ∧ 1 ≤ c.holdoverTime ∧ c.holdoverTime ≤ 86400 ∧ c.leap < 3 ∧ c.ptpClass < 7 ∧ 9600 ≤ c.todBaud ∧ c.todBaud ≤ 460800 ∧ (∀ e ∈ ppsChecks b 32 ++ ppsChecks b 40, e.1 = true) ∧ offsetOk b 48 = true ∧ offsetOk b 52 = true ∧ reservedAt b 56 8 = true ∧ t64Ok (le b 20 8) = true ∧ le b 20 8 ≠ 0 ∧ c.mode ≠ 0) ∧
    (∃ (p : Packet) (s : State), ∃ k,
      let r := reached specClockStatus p s
      accepts specClockStatus p s = true ∧ classSent r = some k) ∧
    (∃ (p : Packet) (s : State),
      let r := reached specClockStatus p s
      accepts specClockStatus p s = true ∧ classSent r = none) ∧
    (∃ (p : Packet) (s : State),
      let r := reached specPtpPortSet p s
      let b := p.params
      let q := byteAt b 1
      let v := touchPort q true r
      let x := ptpPort v q
      let s1 := modPtp q (fun x => { ptpRole (byteAt b 2) v x with
        oneStep := bit (byteAt b 3) 0, tagged := bit (byteAt b 3) 1, tci := le b 4 2, asymmetry := signed 32 (le b 8 4), delayLimit := le b 12 4 }) v
      accepts specPtpPortSet p s = true ∧ portExists r q = true ∧ byteAt b 0 = 0 ∧ byteAt b 2 < 4 ∧ byteAt b 3 < 4 ∧ reservedAt b 6 2 = true ∧ x.state = (ptpPort s1 q).state) ∧
    (∃ (p : Packet) (s : State),
      let r := reached specPtpPortSet p s
      let b := p.params
      let q := byteAt b 1
      let v := touchPort q true r
      let x := ptpPort v q
      let s1 := modPtp q (fun x => { ptpRole (byteAt b 2) v x with
        oneStep := bit (byteAt b 3) 0, tagged := bit (byteAt b 3) 1, tci := le b 4 2, asymmetry := signed 32 (le b 8 4), delayLimit := le b 12 4 }) v
      accepts specPtpPortSet p s = true ∧ portExists r q = true ∧ byteAt b 0 = 0 ∧ byteAt b 2 < 4 ∧ byteAt b 3 < 4 ∧ reservedAt b 6 2 = true ∧ x.state ≠ (ptpPort s1 q).state) ∧
    (∃ (p : Packet) (s : State),
      let r := reached specPtpPortSet p s
      let b := p.params
      let q := byteAt b 1
      accepts specPtpPortSet p s = true ∧ portExists r q = true ∧ byteAt b 0 = 1 ∧ reservedAt b 2 14 = true) ∧
    (∃ (p : Packet) (s : State),
      let r := reached specIrigSet p s
      let b := p.params
      let f := byteAt b 2
      let off := signed 16 (le b 4 2)
      let c : IrigCfg := { inFormat := byteAt b 0, outFormat := byteAt b 1, inLocal := bit f 0, outLocal := bit f 1, cf := bit f 2, squelch := bit f 3, localOffset := off, tolerance := le b 8 4 }
      let old := r.tim.irig
      let same := c.inFormat = old.inFormat ∧ c.inLocal = old.inLocal ∧ c.cf = old.cf ∧ c.localOffset = old.localOffset
      accepts specIrigSet p s = true ∧ irigFormatOk (byteAt b 0) = true ∧ irigFormatOk (byteAt b 1) = true ∧ f < 16 ∧ reservedAt b 3 1 = true ∧ -720 ≤ off ∧ off ≤ 720 ∧ off % 15 = 0 ∧ reservedAt b 6 2 = true ∧ 1 ≤ le b 8 4 ∧ le b 8 4 ≤ 1000000 ∧ same) ∧
    (∃ (p : Packet) (s : State),
      let r := reached specIrigSet p s
      let b := p.params
      let f := byteAt b 2
      let off := signed 16 (le b 4 2)
      let c : IrigCfg := { inFormat := byteAt b 0, outFormat := byteAt b 1, inLocal := bit f 0, outLocal := bit f 1, cf := bit f 2, squelch := bit f 3, localOffset := off, tolerance := le b 8 4 }
      let old := r.tim.irig
      let same := c.inFormat = old.inFormat ∧ c.inLocal = old.inLocal ∧ c.cf = old.cf ∧ c.localOffset = old.localOffset
      accepts specIrigSet p s = true ∧ irigFormatOk (byteAt b 0) = true ∧ irigFormatOk (byteAt b 1) = true ∧ f < 16 ∧ reservedAt b 3 1 = true ∧ -720 ≤ off ∧ off ≤ 720 ∧ off % 15 = 0 ∧ reservedAt b 6 2 = true ∧ 1 ≤ le b 8 4 ∧ le b 8 4 ≤ 1000000 ∧ (¬ same) ∧ r.tim.ref.irigLocked = false) ∧
    (∃ (p : Packet) (s : State),
      let b := p.params
      let n := byteAt b 0
      accepts specGpioCaptureSet p s = true ∧ n < 32 ∧ byteAt b 1 < 4 ∧ le b 4 2 ≤ 1000 ∧ reservedAt b 7 1 = true ∧ byteAt b 6 = 0) ∧
    (∃ (p : Packet) (s : State),
      let b := p.params
      let n := byteAt b 0
      accepts specGpioCaptureSet p s = true ∧ n < 32 ∧ byteAt b 1 < 4 ∧ le b 4 2 ≤ 1000 ∧ reservedAt b 7 1 = true ∧ byteAt b 6 = 1) :=
  ⟨⟨ask ([3, 2, 127, 255, 255, 15, 244, 1, 64, 66, 15, 0, 128, 81, 1, 0, 255, 255, 2, 6, 0, 0, 0, 0, 0, 0, 0, 0, 0, 8, 7, 0, 16, 14, 32, 161, 7, 0, 3, 0, 1, 0, 1, 0, 0, 0, 0, 0, 0, 101, 205, 29, 0, 155, 50, 226] ++ zeros 8), { ready 4 with tim := { (ready 4).tim with cfg := { mode := 3, profile := 2 }, irig := { inFormat := 0x27 } } }, by decide +kernel⟩,
   ⟨ask ([3, 2, 127, 255, 255, 15, 244, 1, 64, 66, 15, 0, 128, 81, 1, 0, 255, 255, 2, 6, 0, 0, 0, 0, 0, 0, 0, 0, 0, 8, 7, 0, 16, 14, 32, 161, 7, 0, 3, 0, 1, 0, 1, 0, 0, 0, 0, 0, 0, 101, 205, 29, 0, 155, 50, 226] ++ zeros 8), ready 4, by decide +kernel⟩,
   ⟨ask ([0, 2, 127, 255, 255, 15, 244, 1, 64, 66, 15, 0, 128, 81, 1, 0, 255, 255, 2, 6, 255, 201, 154, 59, 0, 0, 0, 128, 0, 8, 7, 0, 16, 14, 32, 161, 7, 0, 3, 0, 1, 0, 1, 0, 0, 0, 0, 0, 0, 101, 205, 29, 0, 155, 50, 226] ++ zeros 8), { ready 4 with tim := { (ready 4).tim with cfg := { profile := 2 } } }, by decide +kernel⟩,
   ⟨ask ([1, 2, 127, 255, 255, 15, 244, 1, 64, 66, 15, 0, 128, 81, 1, 0, 255, 255, 2, 6, 1, 0, 0, 0, 0, 0, 0, 0, 0, 8, 7, 0, 16, 14, 32, 161, 7, 0, 3, 0, 1, 0, 1, 0, 0, 0, 0, 0, 0, 101, 205, 29, 0, 155, 50, 226] ++ zeros 8), ready 4, by decide +kernel⟩,
   ⟨ask [], { ready 4 with tim := { (ready 4).tim with state := 4 } }, 52, by decide +kernel⟩,
   ⟨ask [], { ready 4 with tim := { (ready 4).tim with state := 2, cfg := { mode := 1 } } }, by decide +kernel⟩,
   ⟨ask [0, 63, 0, 3, 255, 255, 0, 0, 0, 0, 0, 128, 1, 0, 0, 0], ready 4, by decide +kernel⟩,
   ⟨ask ([0, 63, 1, 0] ++ zeros 12), ready 4, by decide +kernel⟩,
   ⟨ask ([1, 63] ++ zeros 14), ready 4, by decide +kernel⟩,
   ⟨ask [39, 16, 10, 0, 0, 0, 0, 0, 64, 66, 15, 0], { ready 4 with tim := { (ready 4).tim with irig := { inFormat := 0x27 } } }, by decide +kernel⟩,
   ⟨ask [39, 16, 15, 0, 48, 253, 0, 0, 1, 0, 0, 0], ready 4, by decide +kernel⟩,
   ⟨ask [31, 3, 0, 0, 232, 3, 0, 0], ready 4, by decide +kernel⟩,
   ⟨ask [31, 3, 0, 0, 232, 3, 1, 0], ready 4, by decide +kernel⟩⟩

theorem test_TheJournalRingIsWrittenAndSignalled :
    (∃ (x : JRecord) (rest : List JRecord) (s : State), s.clk.coreStopped = false ∧
      let i := s.jr.producer
      let was := jUnread s
      let s1 := emitOut (.hostWrite (s.jr.base + 32 * i) (jBytes x))
        { s with jr := { s.jr with staged := rest, producer := (i + 1) % jSize s, writtenAt := tput s.jr.writtenAt i s.clk.edges } }
      let s2 := if was = 0 then { s1 with jr := { s1.jr with oldestSince := s.clk.edges, signalledOldest := false } } else s1
      s.jr.enable = true ∧ s.pcie.up = true ∧ s.jr.staged = x :: rest ∧ jFull s = false ∧ s2.jr.wmArmed = true ∧ s2.jr.watermark ≤ jUnread s2) ∧
    (∃ (x : JRecord) (rest : List JRecord) (s : State), s.clk.coreStopped = false ∧
      let i := s.jr.producer
      let was := jUnread s
      let s1 := emitOut (.hostWrite (s.jr.base + 32 * i) (jBytes x))
        { s with jr := { s.jr with staged := rest, producer := (i + 1) % jSize s, writtenAt := tput s.jr.writtenAt i s.clk.edges } }
      let s2 := if was = 0 then { s1 with jr := { s1.jr with oldestSince := s.clk.edges, signalledOldest := false } } else s1
      s.jr.enable = true ∧ s.pcie.up = true ∧ s.jr.staged = x :: rest ∧ jFull s = false ∧ ¬ (s2.jr.wmArmed = true ∧ s2.jr.watermark ≤ jUnread s2)) ∧
    (∃ (s : State), s.clk.coreStopped = false ∧ (s.jr.enable = false ∨ s.pcie.up = false ∨ s.jr.staged = [] ∨ jFull s = true)) ∧
    (∃ (s : State), s.clk.coreStopped = false ∧ s.jr.enable = true ∧ jUnread s ≠ 0 ∧ s.jr.signalledOldest = false) ∧
    (∃ (s : State), s.clk.coreStopped = false ∧ (s.jr.enable = false ∨ jUnread s = 0 ∨ s.jr.signalledOldest = true)) ∧
    (∃ (v : Nat) (s : State), s.clk.coreStopped = false ∧ bit s.ev.vecPend v = true ∧ v < 64 ∧ vecMasked s v = false ∧ s.pcie.msixEnable = true ∧ s.pcie.up = true) ∧
    (∃ (v : Nat) (s : State), s.clk.coreStopped = false ∧ bit s.ev.vecPend v = true ∧ v < 64 ∧ vecMasked s v = true) ∧
    (∃ (v : Nat) (s : State), s.clk.coreStopped = false ∧ bit s.ev.vecPend v = true ∧ (64 ≤ v ∨ (vecMasked s v = false ∧ (s.pcie.msixEnable = false ∨ s.pcie.up = false)))) ∧
    (∃ (v : Nat) (s : State), s.clk.coreStopped = false ∧ bit s.ev.vecPend v = false) ∧
    (∃ (p : Packet) (s : State),
      let r := reached specJournalSet p s
      let b := p.params
      let base := le b 0 8
      let sz := byteAt b 8
      let wm := le b 12 4
      accepts specJournalSet p s = true ∧ base % 64 = 0 ∧ 10 ≤ sz ∧ sz ≤ 20 ∧ (byteAt b 10 < 64 ∨ byteAt b 10 = 0xFF) ∧ reservedAt b 11 1 = true ∧ 1 ≤ wm ∧ wm ≤ 2 ^ sz - 1 ∧ le b 16 4 ≤ 100000 ∧ reservedAt b 20 4 = true ∧ byteAt b 9 = 1 ∧ r.jr.enable = false) ∧
    (∃ (p : Packet) (s : State),
      let r := reached specJournalSet p s
      let b := p.params
      let base := le b 0 8
      let sz := byteAt b 8
      let wm := le b 12 4
      accepts specJournalSet p s = true ∧ base % 64 = 0 ∧ 10 ≤ sz ∧ sz ≤ 20 ∧ (byteAt b 10 < 64 ∨ byteAt b 10 = 0xFF) ∧ reservedAt b 11 1 = true ∧ 1 ≤ wm ∧ wm ≤ 2 ^ sz - 1 ∧ le b 16 4 ≤ 100000 ∧ reservedAt b 20 4 = true ∧
      let moves := r.jr.enable = true ∧ (base ≠ r.jr.base ∨ sz ≠ r.jr.sizeLog2)
      byteAt b 9 < 2 ∧ moves) ∧
    (∃ (p : Packet) (s : State),
      let r := reached specJournalSet p s
      let b := p.params
      let base := le b 0 8
      let sz := byteAt b 8
      let wm := le b 12 4
      accepts specJournalSet p s = true ∧ base % 64 = 0 ∧ 10 ≤ sz ∧ sz ≤ 20 ∧ (byteAt b 10 < 64 ∨ byteAt b 10 = 0xFF) ∧ reservedAt b 11 1 = true ∧ 1 ≤ wm ∧ wm ≤ 2 ^ sz - 1 ∧ le b 16 4 ≤ 100000 ∧ reservedAt b 20 4 = true ∧
      let moves := r.jr.enable = true ∧ (base ≠ r.jr.base ∨ sz ≠ r.jr.sizeLog2)
      byteAt b 9 = 0 ∧ ¬moves) ∧
    (∃ (p : Packet) (s : State),
      let r := reached specJournalSet p s
      let b := p.params
      let base := le b 0 8
      let sz := byteAt b 8
      let wm := le b 12 4
      accepts specJournalSet p s = true ∧ base % 64 = 0 ∧ 10 ≤ sz ∧ sz ≤ 20 ∧ (byteAt b 10 < 64 ∨ byteAt b 10 = 0xFF) ∧ reservedAt b 11 1 = true ∧ 1 ≤ wm ∧ wm ≤ 2 ^ sz - 1 ∧ le b 16 4 ≤ 100000 ∧ reservedAt b 20 4 = true ∧
      let moves := r.jr.enable = true ∧ (base ≠ r.jr.base ∨ sz ≠ r.jr.sizeLog2)
      byteAt b 9 = 1 ∧ r.jr.enable = true ∧ ¬moves) :=
  ⟨⟨{ stamp := 1, qns := 0, source := 1023 }, [], { linked 4 with jr := { (linked 4).jr with enable := true, sizeLog2 := 10, watermark := 1023, producer := 1022, staged := [{ stamp := 1, qns := 0, source := 1023 }] } }, by decide +kernel⟩,
   ⟨{ stamp := 1, qns := 0, source := 1023 }, [], { linked 4 with jr := { (linked 4).jr with enable := true, sizeLog2 := 10, watermark := 1023, producer := 1021, staged := [{ stamp := 1, qns := 0, source := 1023 }] } }, by decide +kernel⟩,
   ⟨{ linked 4 with jr := { (linked 4).jr with enable := true, sizeLog2 := 10, producer := 1023, staged := [{ stamp := 1, qns := 0, source := 1023 }] } }, by decide +kernel⟩,
   ⟨{ linked 4 with jr := { (linked 4).jr with enable := true, sizeLog2 := 10, producer := 1023, staged := [{ stamp := 1, qns := 0, source := 1023 }] } }, by decide +kernel⟩,
   ⟨ready 4, by decide +kernel⟩,
   ⟨63, { linked 4 with pcie := { (linked 4).pcie with msixEnable := true }, ev := { (linked 4).ev with vecPend := 2 ^ 63 }, win := { (linked 4).win with msix := [(255, 0)] } }, by decide +kernel⟩,
   ⟨63, { linked 4 with pcie := { (linked 4).pcie with msixEnable := true }, ev := { (linked 4).ev with vecPend := 2 ^ 63 }, win := { (linked 4).win with msix := [(255, 1)] } }, by decide +kernel⟩,
   ⟨63, { ready 4 with ev := { (ready 4).ev with vecPend := 2 ^ 63 } }, by decide +kernel⟩,
   ⟨63, ready 4, by decide +kernel⟩,
   ⟨ask ([192, 255, 255, 255, 255, 255, 255, 255, 20, 1, 63, 0, 255, 255, 15, 0, 160, 134, 1, 0] ++ zeros 4), ready 4, by decide +kernel⟩,
   ⟨ask ([64, 0, 0, 0, 0, 0, 0, 0, 10, 1, 63, 0, 255, 3, 0, 0, 160, 134, 1, 0] ++ zeros 4), { linked 4 with jr := { (linked 4).jr with enable := true, sizeLog2 := 10, base := 128 } }, by decide +kernel⟩,
   ⟨ask ([64, 0, 0, 0, 0, 0, 0, 0, 20, 0, 255, 0, 255, 255, 15, 0, 160, 134, 1, 0] ++ zeros 4), ready 4, by decide +kernel⟩,
   ⟨ask ([128, 0, 0, 0, 0, 0, 0, 0, 10, 1, 63, 0, 255, 3, 0, 0, 160, 134, 1, 0] ++ zeros 4), { linked 4 with jr := { (linked 4).jr with enable := true, sizeLog2 := 10, base := 128 } }, by decide +kernel⟩⟩

theorem test_EventRoutesAndHoldoffsAreSet :
    (∃ (p : Packet) (s : State),
      let b := p.params
      accepts specEventRouteSet p s = true ∧ byteAt b 0 ≤ 2) ∧
    (∃ (p : Packet) (s : State),
      let b := p.params
      accepts specEventRouteSet p s = true ∧ 2 < byteAt b 0) ∧
    (∃ (p : Packet) (s : State),
      let b := p.params
      accepts specEventRouteSet p s = true ∧ byteAt b 0 ≤ 2 ∧ reservedAt b 1 1 = false) ∧
    (∃ (p : Packet) (s : State),
      let b := p.params
      let first := le b 2 2
      let count := le b 4 2
      let rt := le b 6 2
      let inRange := 1 ≤ count ∧ count ≤ 1024 ∧ first + count ≤ 1024
      accepts specEventRouteSet p s = true ∧ reservedAt b 1 1 = true ∧ byteAt b 0 = 0 ∧ inRange ∧ bits rt 13 8 = 0 ∧ (rt % 256 < 64 ∨ rt % 256 = 0xFF)) ∧
    (∃ (p : Packet) (s : State),
      let b := p.params
      let first := le b 2 2
      let count := le b 4 2
      let rt := le b 6 2
      let inRange := 1 ≤ count ∧ count ≤ 1024 ∧ first + count ≤ 1024
      accepts specEventRouteSet p s = true ∧ reservedAt b 1 1 = true ∧ byteAt b 0 = 0 ∧ inRange ∧ 64 ≤ rt % 256 ∧ rt % 256 ≠ 0xFF) ∧
    (∃ (p : Packet) (s : State),
      let b := p.params
      let first := le b 2 2
      accepts specEventRouteSet p s = true ∧ reservedAt b 1 1 = true ∧ byteAt b 0 = 1 ∧ first < 64 ∧ le b 8 4 ≤ 1000) ∧
    (∃ (p : Packet) (s : State),
      let b := p.params
      let first := le b 2 2
      accepts specEventRouteSet p s = true ∧ reservedAt b 1 1 = true ∧ byteAt b 0 = 1 ∧ 64 ≤ first) ∧
    (∃ (p : Packet) (s : State),
      let b := p.params
      let first := le b 2 2
      let count := le b 4 2
      let inRange := 1 ≤ count ∧ count ≤ 1024 ∧ first + count ≤ 1024
      accepts specEventRouteSet p s = true ∧ reservedAt b 1 1 = true ∧ byteAt b 0 = 2 ∧ inRange) ∧
    (∃ (p : Packet) (s : State),
      let b := p.params
      let first := le b 2 2
      accepts specEventRouteSet p s = true ∧ reservedAt b 1 1 = true ∧ byteAt b 0 ≠ 1 ∧ byteAt b 0 ≤ 2 ∧ 1024 ≤ first) ∧
    (∃ (p : Packet) (s : State),
      let b := p.params
      let first := le b 2 2
      let count := le b 4 2
      let inRange := 1 ≤ count ∧ count ≤ 1024 ∧ first + count ≤ 1024
      accepts specEventRouteSet p s = true ∧ reservedAt b 1 1 = true ∧ byteAt b 0 ≠ 1 ∧ byteAt b 0 ≤ 2 ∧ first < 1024 ∧ (¬ inRange)) :=
  ⟨⟨ask (zeros 12), ready 4, by decide +kernel⟩,
   ⟨ask [3, 0, 0, 0], ready 4, by decide +kernel⟩,
   ⟨ask ([0, 1] ++ zeros 10), ready 4, by decide +kernel⟩,
   ⟨ask ([0, 0, 255, 3, 1, 0, 255, 192] ++ zeros 4), ready 4, by decide +kernel⟩,
   ⟨ask ([0, 0, 0, 0, 0, 4, 64, 0] ++ zeros 4), ready 4, by decide +kernel⟩,
   ⟨ask [1, 0, 63, 0, 0, 0, 0, 0, 232, 3, 0, 0], ready 4, by decide +kernel⟩,
   ⟨ask ([1, 0, 64] ++ zeros 9), ready 4, by decide +kernel⟩,
   ⟨ask ([2, 0, 1, 0, 255, 3] ++ zeros 6), ready 4, by decide +kernel⟩,
   ⟨ask ([0, 0, 0, 4] ++ zeros 8), ready 4, by decide +kernel⟩,
   ⟨ask ([2, 0, 1, 0, 0, 4] ++ zeros 6), ready 4, by decide +kernel⟩⟩

theorem test_TheGleanerStagesReleasesAndFreezes :
    (∃ (fu : Furrow) (u : Nat) (c : Copy) (s : State), s.clk.coreStopped = false ∧
      let f := furNo fu
      copyOf (frame s u) f = some c ∧ c.transfer = true ∧ (decOf (frame s u) f).isSome = true ∧ c.granted = true ∧ live s f = true) ∧
    (∃ (fu : Furrow) (u : Nat) (c : Copy) (s : State), s.clk.coreStopped = false ∧
      let f := furNo fu
      copyOf (frame s u) f = some c ∧ c.transfer = true ∧ (c.granted = false ∨ live s f = false ∨ decOf (frame s u) f = none)) ∧
    (∃ (fu : Furrow) (u : Nat) (c : Copy) (s : State), s.clk.coreStopped = false ∧
      let f := furNo fu
      copyOf (frame s u) f = some c ∧ c.transfer = true ∧ (decOf (frame s u) f).isSome = true ∧ c.granted = false) ∧
    (∃ (fu : Furrow) (u : Nat) (c : Copy) (s : State), s.clk.coreStopped = false ∧
      let f := furNo fu
      copyOf (frame s u) f = some c ∧ c.transfer = true ∧ (c.granted = true ∨ decOf (frame s u) f = none)) ∧
    (∃ (x : GlXfer) (rest : List GlXfer) (s : State), ∃ r, s.clk.coreStopped = false ∧
      let e := reachEdge (paceEdge s.gle.inAt) s
      let s0 := modGle (fun g => { g with input := rest, inAt := paceNext g.inAt 625 e }) e
      s.gle.input = x :: rest ∧ s0.gle.recs.find? (fun r => r.x.port == x.port && r.x.tag == x.tag) = some r ∧ (r.built = true ∨ x.fur ≠ x.lead)) ∧
    (∃ (x : GlXfer) (rest : List GlXfer) (s : State), ∃ r, s.clk.coreStopped = false ∧
      let e := reachEdge (paceEdge s.gle.inAt) s
      let s0 := modGle (fun g => { g with input := rest, inAt := paceNext g.inAt 625 e }) e
      s.gle.input = x :: rest ∧ s0.gle.recs.find? (fun r => r.x.port == x.port && r.x.tag == x.tag) = some r ∧ r.built = false ∧ x.fur = x.lead) ∧
    (∃ (x : GlXfer) (rest : List GlXfer) (s : State), s.clk.coreStopped = false ∧
      let e := reachEdge (paceEdge s.gle.inAt) s
      let s0 := modGle (fun g => { g with input := rest, inAt := paceNext g.inAt 625 e }) e
      s.gle.input = x :: rest ∧ s0.gle.recs.find? (fun r => r.x.port == x.port && r.x.tag == x.tag) = none ∧ s0.gle.recent.any (fun r => r.1 == x.port && r.2.1 == x.tag && decide (s0.clk.edges < r.2.2 + 200 * usE)) = true) ∧
    (∃ (x : GlXfer) (rest : List GlXfer) (s : State), s.clk.coreStopped = false ∧
      let e := reachEdge (paceEdge s.gle.inAt) s
      let s0 := modGle (fun g => { g with input := rest, inAt := paceNext g.inAt 625 e }) e
      s.gle.input = x :: rest ∧ s0.gle.recs.find? (fun r => r.x.port == x.port && r.x.tag == x.tag) = none ∧ s0.gle.recent.any (fun r => r.1 == x.port && r.2.1 == x.tag && decide (s0.clk.edges < r.2.2 + 200 * usE)) = false ∧ s0.gle.state = 2) ∧
    (∃ (x : GlXfer) (rest : List GlXfer) (s : State), s.clk.coreStopped = false ∧
      let e := reachEdge (paceEdge s.gle.inAt) s
      let s0 := modGle (fun g => { g with input := rest, inAt := paceNext g.inAt 625 e }) e
      let late := s0.gle.tg + s0.gle.postTime * 1000000 < x.ns
      s.gle.input = x :: rest ∧ s0.gle.recs.find? (fun r => r.x.port == x.port && r.x.tag == x.tag) = none ∧ s0.gle.recent.any (fun r => r.1 == x.port && r.2.1 == x.tag && decide (s0.clk.edges < r.2.2 + 200 * usE)) = false ∧ (s0.gle.state = 3 ∨ s0.gle.state = 4) ∧ late) ∧
    (∃ (x : GlXfer) (rest : List GlXfer) (s : State), s.clk.coreStopped = false ∧
      let e := reachEdge (paceEdge s.gle.inAt) s
      let s0 := modGle (fun g => { g with input := rest, inAt := paceNext g.inAt 625 e }) e
      let late := s0.gle.tg + s0.gle.postTime * 1000000 < x.ns
      s.gle.input = x :: rest ∧ s0.gle.recs.find? (fun r => r.x.port == x.port && r.x.tag == x.tag) = none ∧ s0.gle.recent.any (fun r => r.1 == x.port && r.2.1 == x.tag && decide (s0.clk.edges < r.2.2 + 200 * usE)) = false ∧ s0.gle.state = 3 ∧ ¬ late ∧ s0.gle.freezeCause = 0) ∧
    (∃ (x : GlXfer) (rest : List GlXfer) (s : State), s.clk.coreStopped = false ∧
      let e := reachEdge (paceEdge s.gle.inAt) s
      let s0 := modGle (fun g => { g with input := rest, inAt := paceNext g.inAt 625 e }) e
      let late := s0.gle.tg + s0.gle.postTime * 1000000 < x.ns
      s.gle.input = x :: rest ∧ s0.gle.recs.find? (fun r => r.x.port == x.port && r.x.tag == x.tag) = none ∧ s0.gle.recent.any (fun r => r.1 == x.port && r.2.1 == x.tag && decide (s0.clk.edges < r.2.2 + 200 * usE)) = false ∧ (s0.gle.state = 4 ∨ (s0.gle.state = 3 ∧ s0.gle.freezeCause ≠ 0)) ∧ ¬ late) ∧
    (∃ (x : GlXfer) (rest : List GlXfer) (s : State), s.clk.coreStopped = false ∧
      let e := reachEdge (paceEdge s.gle.inAt) s
      let s0 := modGle (fun g => { g with input := rest, inAt := paceNext g.inAt 625 e }) e
      s.gle.input = x :: rest ∧ s0.gle.recs.find? (fun r => r.x.port == x.port && r.x.tag == x.tag) = none ∧ s0.gle.recent.any (fun r => r.1 == x.port && r.2.1 == x.tag && decide (s0.clk.edges < r.2.2 + 200 * usE)) = false ∧ s0.gle.state = 5) ∧
    (∃ (x : GlXfer) (rest : List GlXfer) (s : State), s.clk.coreStopped = false ∧
      let e := reachEdge (paceEdge s.gle.inAt) s
      let s0 := modGle (fun g => { g with input := rest, inAt := paceNext g.inAt 625 e }) e
      s.gle.input = x :: rest ∧ s0.gle.recs.find? (fun r => r.x.port == x.port && r.x.tag == x.tag) = none ∧ s0.gle.recent.any (fun r => r.1 == x.port && r.2.1 == x.tag && decide (s0.clk.edges < r.2.2 + 200 * usE)) = false ∧ (s0.gle.state < 2 ∨ 5 < s0.gle.state)) ∧
    (∃ (x : GlXfer) (s : State),
      let s1 := modGle (fun g => { g with seq := (s.gle.seq + 1) % 2 ^ 48 }) s
      stageRoom s1 = none) ∧
    (∃ (x : GlXfer) (s : State), ∃ v,
      let s1 := modGle (fun g => { g with seq := (s.gle.seq + 1) % 2 ^ 48 }) s
      stageRoom s1 = some v) ∧
    (∃ (s : State),
      let full := s.gle.state = 2 ∧ s.gle.mode = 1 ∧ ringRecords s ≤ s.gle.seq
      full) ∧
    (∃ (s : State),
      let full := s.gle.state = 2 ∧ s.gle.mode = 1 ∧ ringRecords s ≤ s.gle.seq
      ¬full) ∧
    (∃ (sq : Nat) (s : State) (r : GlRec), s.clk.coreStopped = false ∧ s.gle.recs.find? (fun r => r.seq == some sq && !r.built) = some r) ∧
    (∃ (sq : Nat) (s : State) (r : GlRec), s.clk.coreStopped = false ∧ s.gle.recs.find? (fun r => r.seq == some sq) = some r ∧ (r.built = false ∨ (∃ y ∈ s.gle.recs, y.x.port = r.x.port ∧ y.seq.getD 0 < sq))) ∧
    (∃ (sq : Nat) (s : State) (r : GlRec), s.clk.coreStopped = false ∧ s.gle.recs.find? (fun r => r.seq == some sq) = some r ∧ r.built = true ∧ (∀ y ∈ s.gle.recs, y.x.port = r.x.port → sq ≤ y.seq.getD 0)) ∧
    (∃ (ok : Bool) (sq : Nat) (b : List Byte) (rest : List (Nat × List Byte)) (s0 : State), s0.clk.coreStopped = false ∧
      let s := reachEdge (paceEdge s0.gle.outAt) s0
      let slot := sq % max 1 (ringRecords s)
      let a := s.deep.gleanBase + 128 * slot
      s0.gle.outq = (sq, b) :: rest ∧ ok = true ∧ glRegion s = true ∧ deepUp s a = true) ∧
    (∃ (ok : Bool) (sq : Nat) (b : List Byte) (rest : List (Nat × List Byte)) (s0 : State), s0.clk.coreStopped = false ∧
      let s := reachEdge (paceEdge s0.gle.outAt) s0
      let slot := sq % max 1 (ringRecords s)
      let a := s.deep.gleanBase + 128 * slot
      s0.gle.outq = (sq, b) :: rest ∧ (ok = false ∨ glRegion s = false ∨ deepUp s a = false)) ∧
    (∃ (s : State), s.clk.coreStopped = false ∧
      let g := s.gle
      g.state = 3 ∧ g.freezeCause = 0) ∧
    (∃ (s : State), s.clk.coreStopped = false ∧
      let g := s.gle
      g.state = 3 ∧ g.freezeCause ≠ 0 ∧ g.recs = [] ∧ g.outq = []) ∧
    (∃ (s : State), s.clk.coreStopped = false ∧
      let g := s.gle
      g.state ≠ 3) ∧
    (∃ (s : State), s.clk.coreStopped = false ∧ s.gle.state = 1) ∧
    (∃ (c : GlCopy) (rest : List GlCopy) (bad : List Nat) (s0 : State), s0.clk.coreStopped = false ∧ s0.gle.copies = c :: rest) ∧
    (∃ (s : State), s.gle.copies = []) ∧
    (∃ (s : State), ∃ c rest, s.gle.copies = c :: rest) ∧
    (∃ (i u : Nat) (s : State), s.clk.coreStopped = false ∧
      let x := frame s u
      let others := ∃ f ∈ [0, 1], ∃ l ∈ (fur s f).lanes, ∃ y ∈ l.2, y.uid = u ∧ y.mirror = none
      (x.class_ < 5 ∨ others)) ∧
    (∃ (i u : Nat) (s : State), s.clk.coreStopped = false ∧
      let x := frame s u
      let others := ∃ f ∈ [0, 1], ∃ l ∈ (fur s f).lanes, ∃ y ∈ l.2, y.uid = u ∧ y.mirror = none
      5 ≤ x.class_ ∧ ¬ others) :=
  ⟨⟨.b, 9, { transfer := true, granted := true }, { ready 4 with frames := [(9, { port := 63, bytes := zeros 80, copyB := some { transfer := true, granted := true }, decB := some {} })], fb := { (ready 4).fb with released := true } }, by decide +kernel⟩,
   ⟨.b, 9, { transfer := true }, { ready 4 with frames := [(9, { port := 63, bytes := zeros 80, copyB := some { transfer := true }, decB := some {} })], fb := { (ready 4).fb with released := true } }, by decide +kernel⟩,
   ⟨.b, 9, { transfer := true }, { ready 4 with frames := [(9, { port := 63, bytes := zeros 80, copyB := some { transfer := true }, decB := some {} })], fb := { (ready 4).fb with released := true } }, by decide +kernel⟩,
   ⟨.b, 9, { transfer := true, granted := true }, { ready 4 with frames := [(9, { port := 63, bytes := zeros 80, copyB := some { transfer := true, granted := true }, decB := some {} })], fb := { (ready 4).fb with released := true } }, by decide +kernel⟩,
   ⟨{ uid := 9, fur := 0, port := 63, tag := 65535, lead := 0, ns := 0, qns := 0, handle := 0, code := 0, prog := false, head := [] }, [], { ready 4 with gle := { (ready 4).gle with input := [{ uid := 9, fur := 0, port := 63, tag := 65535, lead := 0, ns := 0, qns := 0, handle := 0, code := 0, prog := false, head := [] }], recs := [{ x := { uid := 9, fur := 1, port := 63, tag := 65535, lead := 0, ns := 0, qns := 0, handle := 0, code := 0, prog := false, head := [] }, seq := some 5, opened := 0, built := true }] } }, { x := { uid := 9, fur := 1, port := 63, tag := 65535, lead := 0, ns := 0, qns := 0, handle := 0, code := 0, prog := false, head := [] }, seq := some 5, opened := 0, built := true }, by decide +kernel⟩,
   ⟨{ uid := 9, fur := 0, port := 63, tag := 65535, lead := 0, ns := 0, qns := 0, handle := 0, code := 0, prog := false, head := [] }, [], { ready 4 with gle := { (ready 4).gle with input := [{ uid := 9, fur := 0, port := 63, tag := 65535, lead := 0, ns := 0, qns := 0, handle := 0, code := 0, prog := false, head := [] }], recs := [{ x := { uid := 9, fur := 1, port := 63, tag := 65535, lead := 0, ns := 0, qns := 0, handle := 0, code := 0, prog := false, head := [] }, seq := some 5, opened := 0, built := false }] } }, { x := { uid := 9, fur := 1, port := 63, tag := 65535, lead := 0, ns := 0, qns := 0, handle := 0, code := 0, prog := false, head := [] }, seq := some 5, opened := 0, built := false }, by decide +kernel⟩,
   ⟨{ uid := 9, fur := 0, port := 63, tag := 65535, lead := 0, ns := 0, qns := 0, handle := 0, code := 0, prog := false, head := [] }, [], { ready 4 with gle := { (ready 4).gle with input := [{ uid := 9, fur := 0, port := 63, tag := 65535, lead := 0, ns := 0, qns := 0, handle := 0, code := 0, prog := false, head := [] }], recent := [(63, 65535, 1)] }, clk := { (ready 4).clk with edges := 250000 } }, by decide +kernel⟩,
   ⟨{ uid := 9, fur := 0, port := 63, tag := 65535, lead := 0, ns := 0, qns := 0, handle := 0, code := 0, prog := false, head := [] }, [], { ready 4 with gle := { (ready 4).gle with input := [{ uid := 9, fur := 0, port := 63, tag := 65535, lead := 0, ns := 0, qns := 0, handle := 0, code := 0, prog := false, head := [] }], recent := [(63, 65535, 0)], state := 2, mode := 1, seq := 8191 }, clk := { (ready 4).clk with edges := 250000 }, deep := { (ready 4).deep with gleanSize := 128 * 8192 } }, by decide +kernel⟩,
   ⟨{ uid := 9, fur := 0, port := 63, tag := 65535, lead := 0, ns := 7, qns := 0, handle := 0, code := 0, prog := false, head := [] }, [], { ready 4 with gle := { (ready 4).gle with input := [{ uid := 9, fur := 0, port := 63, tag := 65535, lead := 0, ns := 7, qns := 0, handle := 0, code := 0, prog := false, head := [] }], state := 3, tg := 6 } }, by decide +kernel⟩,
   ⟨{ uid := 9, fur := 0, port := 63, tag := 65535, lead := 0, ns := 7, qns := 0, handle := 0, code := 0, prog := false, head := [] }, [], { ready 4 with gle := { (ready 4).gle with input := [{ uid := 9, fur := 0, port := 63, tag := 65535, lead := 0, ns := 7, qns := 0, handle := 0, code := 0, prog := false, head := [] }], state := 3, tg := 7 } }, by decide +kernel⟩,
   ⟨{ uid := 9, fur := 1, port := 63, tag := 5, lead := 1, ns := 0, qns := 0, handle := 1048575, code := 0, prog := false, head := [] }, [], { ready 4 with gle := { (ready 4).gle with input := [{ uid := 9, fur := 1, port := 63, tag := 5, lead := 1, ns := 0, qns := 0, handle := 1048575, code := 0, prog := false, head := [] }], state := 4 } }, by decide +kernel⟩,
   ⟨{ uid := 9, fur := 0, port := 63, tag := 65535, lead := 0, ns := 0, qns := 0, handle := 0, code := 0, prog := false, head := [] }, [], { ready 4 with gle := { (ready 4).gle with input := [{ uid := 9, fur := 0, port := 63, tag := 65535, lead := 0, ns := 0, qns := 0, handle := 0, code := 0, prog := false, head := [] }], state := 5 } }, by decide +kernel⟩,
   ⟨{ uid := 9, fur := 1, port := 63, tag := 5, lead := 1, ns := 0, qns := 0, handle := 1048575, code := 0, prog := false, head := [] }, [], { ready 4 with gle := { (ready 4).gle with input := [{ uid := 9, fur := 1, port := 63, tag := 5, lead := 1, ns := 0, qns := 0, handle := 1048575, code := 0, prog := false, head := [] }], state := 0 } }, by decide +kernel⟩,
   ⟨{ uid := 9, fur := 1, port := 63, tag := 5, lead := 1, ns := 0, qns := 0, handle := 1048575, code := 0, prog := false, head := [] }, { ready 4 with gle := { (ready 4).gle with outq := List.replicate 4096 (0, []) } }, by decide +kernel⟩,
   ⟨{ uid := 9, fur := 1, port := 63, tag := 5, lead := 1, ns := 0, qns := 0, handle := 1048575, code := 0, prog := false, head := [] }, ready 4, _, rfl⟩,
   ⟨{ ready 4 with gle := { (ready 4).gle with state := 2, mode := 1 } }, by decide +kernel⟩,
   ⟨{ ready 4 with gle := { (ready 4).gle with state := 3 } }, by decide +kernel⟩,
   ⟨5, { ready 4 with gle := { (ready 4).gle with recs := [{ x := { uid := 9, fur := 1, port := 63, tag := 65535, lead := 0, ns := 0, qns := 0, handle := 0, code := 0, prog := false, head := [] }, seq := some 5, opened := 0, built := false }] } }, { x := { uid := 9, fur := 1, port := 63, tag := 65535, lead := 0, ns := 0, qns := 0, handle := 0, code := 0, prog := false, head := [] }, seq := some 5, opened := 0, built := false }, by decide +kernel⟩,
   ⟨5, { ready 4 with gle := { (ready 4).gle with recs := [{ x := { uid := 9, fur := 1, port := 63, tag := 65535, lead := 0, ns := 0, qns := 0, handle := 0, code := 0, prog := false, head := [] }, seq := some 5, opened := 0, built := false }] } }, { x := { uid := 9, fur := 1, port := 63, tag := 65535, lead := 0, ns := 0, qns := 0, handle := 0, code := 0, prog := false, head := [] }, seq := some 5, opened := 0, built := false }, by decide +kernel⟩,
   ⟨5, { ready 4 with gle := { (ready 4).gle with recs := [{ x := { uid := 9, fur := 1, port := 63, tag := 65535, lead := 0, ns := 0, qns := 0, handle := 0, code := 0, prog := false, head := [] }, seq := some 5, opened := 0, built := true }] } }, { x := { uid := 9, fur := 1, port := 63, tag := 65535, lead := 0, ns := 0, qns := 0, handle := 0, code := 0, prog := false, head := [] }, seq := some 5, opened := 0, built := true }, by decide +kernel⟩,
   ⟨true, 5, [], [], { ready 4 with gle := { (ready 4).gle with outq := [(5, [])] }, deep := { (ready 4).deep with enables := 4, gleanSize := 2 ^ 20, grain := some 8, map0 := 2 ^ 30, ch0 := { state := 3, mapped := true } } }, by decide +kernel⟩,
   ⟨true, 16383, zeros 128, [], { ready 4 with gle := { (ready 4).gle with outq := [(16383, zeros 128)] }, deep := { (ready 4).deep with ch0 := { ranks := 1, state := 3, mapped := true }, grain := some 8, enables := 4, gleanSize := 128 * 8192 } }, by decide +kernel⟩,
   ⟨{ ready 4 with gle := { (ready 4).gle with state := 3 } }, by decide +kernel⟩,
   ⟨{ ready 4 with gle := { (ready 4).gle with state := 3, freezeCause := 1 } }, by decide +kernel⟩,
   ⟨{ ready 4 with gle := { (ready 4).gle with state := 4 } }, by decide +kernel⟩,
   ⟨{ ready 4 with gle := { (ready 4).gle with state := 1 } }, by decide +kernel⟩,
   ⟨{ first := 0, count := 1, addr := 64, startSeq := 9, startedAt := 0, ticket := tick }, [], [0], { ready 4 with gle := { (ready 4).gle with copies := [{ first := 0, count := 1, addr := 64, startSeq := 9, startedAt := 0, ticket := tick }] } }, by decide +kernel⟩,
   ⟨{ ready 4 with gle := { (ready 4).gle with state := 3 } }, by decide +kernel⟩,
   ⟨{ ready 4 with gle := { (ready 4).gle with copies := [{ first := 0, count := 1, addr := 64, startSeq := 9, startedAt := 0, ticket := tick }] } }, { first := 0, count := 1, addr := 64, startSeq := 9, startedAt := 0, ticket := tick }, [], by decide +kernel⟩,
   ⟨3, 9, { ready 4 with frames := [(9, { port := 63, bytes := zeros 80, copyB := some { transfer := true } })] }, by decide +kernel⟩,
   ⟨3, 9, { ready 4 with frames := [(9, { port := 63, bytes := zeros 80, class_ := 5 })], fb := { (ready 4).fb with lanes := [(laneKey 70 5 0, [{ uid := 9, half := 1, mirror := some (3, 0) }])] } }, by decide +kernel⟩⟩

theorem test_RecordingMirrorAndCounterCommandsAct :
    (∃ (p : Packet) (s : State),
      let r := reached specGleanerSet p s
      let b := p.params
      let g := r.gle
      accepts specGleanerSet p s = true ∧ r.dev.retrain = none ∧ reservedAt b 1 3 = true ∧ byteAt b 0 = 0 ∧ byteAt b 5 ≤ 2 ∧ byteAt b 6 < 4 ∧ 1 ≤ byteAt b 7 ∧ byteAt b 7 ≤ 100 ∧ le b 8 4 ≤ 60000 ∧ le b 12 4 < 2 ^ 20 ∧ (bit (byteAt b 6) 1 = true → le b 12 4 ≠ 0) ∧ glRegion r = true ∧ byteAt b 4 = 1 ∧ g.enable = false) ∧
    (∃ (p : Packet) (s : State),
      let r := reached specGleanerSet p s
      let b := p.params
      let g := r.gle
      accepts specGleanerSet p s = true ∧ r.dev.retrain = none ∧ reservedAt b 1 3 = true ∧ byteAt b 0 = 0 ∧ byteAt b 5 ≤ 2 ∧ byteAt b 6 < 4 ∧ 1 ≤ byteAt b 7 ∧ byteAt b 7 ≤ 100 ∧ le b 8 4 ≤ 60000 ∧ le b 12 4 < 2 ^ 20 ∧ (bit (byteAt b 6) 1 = true → le b 12 4 ≠ 0) ∧ glRegion r = true ∧ byteAt b 4 = 1 ∧ g.enable = true) ∧
    (∃ (p : Packet) (s : State),
      let r := reached specGleanerSet p s
      let b := p.params
      accepts specGleanerSet p s = true ∧ r.dev.retrain = none ∧ reservedAt b 1 3 = true ∧ byteAt b 0 = 0 ∧ byteAt b 5 ≤ 2 ∧ byteAt b 6 < 4 ∧ 1 ≤ byteAt b 7 ∧ byteAt b 7 ≤ 100 ∧ le b 8 4 ≤ 60000 ∧ le b 12 4 < 2 ^ 20 ∧ (bit (byteAt b 6) 1 = true → le b 12 4 ≠ 0) ∧ glRegion r = true ∧ byteAt b 4 = 0) ∧
    (∃ (p : Packet) (s : State),
      let r := reached specGleanerSet p s
      let b := p.params
      accepts specGleanerSet p s = true ∧ r.dev.retrain = none ∧ reservedAt b 1 3 = true ∧ byteAt b 0 = 0 ∧ byteAt b 4 ≤ 1 ∧ byteAt b 5 ≤ 2 ∧ byteAt b 6 < 4 ∧ 1 ≤ byteAt b 7 ∧ byteAt b 7 ≤ 100 ∧ le b 8 4 ≤ 60000 ∧ le b 12 4 < 2 ^ 20 ∧ (bit (byteAt b 6) 1 = true → le b 12 4 ≠ 0) ∧ glRegion r = false) ∧
    (∃ (p : Packet) (s : State),
      let r := reached specGleanerSet p s
      let b := p.params
      accepts specGleanerSet p s = true ∧ r.dev.retrain = none ∧ reservedAt b 1 3 = true ∧ byteAt b 0 = 1) ∧
    (∃ (p : Packet) (s : State),
      let r := reached specGleanerSet p s
      let b := p.params
      let g := r.gle
      accepts specGleanerSet p s = true ∧ r.dev.retrain = none ∧ reservedAt b 1 3 = true ∧ byteAt b 0 = 2 ∧ reservedAt b 10 2 = true ∧ 1 ≤ le b 12 4 ∧ le b 12 4 ≤ 67108864 ∧ le b 16 8 % 64 = 0 ∧ g.state = 1) ∧
    (∃ (p : Packet) (s : State),
      let r := reached specGleanerSet p s
      let b := p.params
      let g := r.gle
      accepts specGleanerSet p s = true ∧ r.dev.retrain = none ∧ reservedAt b 1 3 = true ∧ byteAt b 0 = 2 ∧ reservedAt b 10 2 = true ∧ 1 ≤ le b 12 4 ∧ le b 12 4 ≤ 67108864 ∧ le b 16 8 % 64 = 0 ∧ g.seq ≤ le b 4 6 + ringRecords r ∧ le b 4 6 + le b 12 4 ≤ g.seq ∧ g.state ≠ 1) ∧
    (∃ (p : Packet) (s : State),
      let r := reached specGleanerSet p s
      let b := p.params
      let g := r.gle
      accepts specGleanerSet p s = true ∧ r.dev.retrain = none ∧ reservedAt b 1 3 = true ∧ byteAt b 0 = 2 ∧ reservedAt b 10 2 = true ∧ 1 ≤ le b 12 4 ∧ le b 12 4 ≤ 67108864 ∧ le b 16 8 % 64 = 0 ∧ g.state ≠ 1 ∧ (le b 4 6 + ringRecords r < g.seq ∨ g.seq < le b 4 6 + le b 12 4)) ∧
    (∃ (p : Packet) (s : State),
      let r := reached specGleanerTrigger p s
      let b := p.params
      let t := le b 4 8
      let x := glTrigger 0x03 (if t = 0 then nowNs r else nsOfT64 t) true r
      accepts specGleanerTrigger p s = true ∧ reservedAt b 1 3 = true ∧ byteAt b 0 = 0 ∧ t64Ok t = true ∧ nsOfT64 t ≤ nowNs r ∧ x.1 = true) ∧
    (∃ (p : Packet) (s : State),
      let r := reached specGleanerTrigger p s
      let b := p.params
      let t := le b 4 8
      let x := glTrigger 0x03 (if t = 0 then nowNs r else nsOfT64 t) true r
      accepts specGleanerTrigger p s = true ∧ reservedAt b 1 3 = true ∧ byteAt b 0 = 0 ∧ t64Ok t = true ∧ nsOfT64 t ≤ nowNs r ∧ x.1 = false) ∧
    (∃ (p : Packet) (s : State),
      let r := reached specGleanerTrigger p s
      let b := p.params
      accepts specGleanerTrigger p s = true ∧ reservedAt b 1 3 = true ∧ byteAt b 0 = 1 ∧ r.gle.state = 4) ∧
    (∃ (p : Packet) (s : State),
      let r := reached specGleanerTrigger p s
      let b := p.params
      accepts specGleanerTrigger p s = true ∧ reservedAt b 1 3 = true ∧ byteAt b 0 = 1 ∧ r.gle.state ≠ 4) ∧
    (∃ (p : Packet) (s : State),
      let r := reached specMirrorSet p s
      let b := p.params
      let i := byteAt b 0
      let a := byteAt b 2
      let tr := le b 6 2
      accepts specMirrorSet p s = true ∧ i < 4 ∧ byteAt b 1 = 0 ∧ portExists r a = true ∧ bit (le b 8 8) a = false ∧ bit (le b 16 8) a = false ∧ byteAt b 3 < 4 ∧ reservedAt b 5 1 = true ∧ (tr = 0 ∨ (64 ≤ tr ∧ tr ≤ 9216)) ∧ maskOk r (le b 8 8) = true ∧ maskOk r (le b 16 8) = true) ∧
    (∃ (p : Packet) (s : State),
      let b := p.params
      let i := byteAt b 0
      accepts specMirrorSet p s = true ∧ i < 4 ∧ byteAt b 1 = 1 ∧ byteAt b 3 < 4 ∧ reservedAt b 5 1 = true) ∧
    (∃ (p : Packet) (s : State),
      let b := p.params
      let i := byteAt b 0
      accepts specMirrorSet p s = true ∧ i < 4 ∧ byteAt b 1 = 2 ∧ byteAt b 3 < 4 ∧ reservedAt b 5 1 = true) ∧
    (∃ (p : Packet) (s : State),
      let r := reached specStookSet p s
      let b := p.params
      let f := byteAt b 13
      let size := stookSize (bit f 1) (bit f 2)
      let per := le b 16 4
      let k := r.stook
      let other := ¬ (le b 0 8 = k.base ∧ le b 8 4 = k.slotBytes ∧ byteAt b 12 = k.nSlots)
      accepts specStookSet p s = true ∧ le b 0 8 % 64 = 0 ∧ le b 8 4 % 64 = 0 ∧ size ≤ le b 8 4 ∧ 2 ≤ byteAt b 12 ∧ byteAt b 12 ≤ 64 ∧ f < 8 ∧ reservedAt b 14 2 = true ∧ per ∈ stookPeriods ∧ (bit f 2 = true → 100 ≤ per) ∧ reservedAt b 20 4 = true ∧ k.writing.isSome = true ∧ other) ∧
    (∃ (p : Packet) (s : State),
      let r := reached specStookSet p s
      let b := p.params
      let f := byteAt b 13
      let size := stookSize (bit f 1) (bit f 2)
      let per := le b 16 4
      let k := r.stook
      let other := ¬ (le b 0 8 = k.base ∧ le b 8 4 = k.slotBytes ∧ byteAt b 12 = k.nSlots)
      accepts specStookSet p s = true ∧ le b 0 8 % 64 = 0 ∧ le b 8 4 % 64 = 0 ∧ size ≤ le b 8 4 ∧ 2 ≤ byteAt b 12 ∧ byteAt b 12 ≤ 64 ∧ f < 8 ∧ reservedAt b 14 2 = true ∧ per ∈ stookPeriods ∧ (bit f 2 = true → 100 ≤ per) ∧ reservedAt b 20 4 = true ∧ (k.writing = none ∨ ¬ other) ∧ bit f 0 = true) ∧
    (∃ (p : Packet) (s : State),
      let r := reached specStookSet p s
      let b := p.params
      let f := byteAt b 13
      let size := stookSize (bit f 1) (bit f 2)
      let per := le b 16 4
      let k := r.stook
      let other := ¬ (le b 0 8 = k.base ∧ le b 8 4 = k.slotBytes ∧ byteAt b 12 = k.nSlots)
      accepts specStookSet p s = true ∧ le b 0 8 % 64 = 0 ∧ le b 8 4 % 64 = 0 ∧ size ≤ le b 8 4 ∧ 2 ≤ byteAt b 12 ∧ byteAt b 12 ≤ 64 ∧ f < 8 ∧ reservedAt b 14 2 = true ∧ per ∈ stookPeriods ∧ (bit f 2 = true → 100 ≤ per) ∧ reservedAt b 20 4 = true ∧ (k.writing = none ∨ ¬ other) ∧ bit f 0 = false) ∧
    (∃ (p : Packet) (s : State),
      let b := p.params
      let blk := byteAt b 0
      let first := byteAt b 1
      let n := byteAt b 2
      accepts specCounterSelect p s = true ∧ blk < 5 ∧ first < (perfBlock blk).2 ∧ first + n ≤ (perfBlock blk).2 ∧ reservedAt b 4 4 = true ∧ byteAt b 3 = 0 ∧ (∀ i, i < n → perfOk blk (le b (8 + 2 * i) 2) = true) ∧ reservedAt b (8 + 2 * n) 2 = true) ∧
    (∃ (p : Packet) (s : State),
      let b := p.params
      let blk := byteAt b 0
      let first := byteAt b 1
      let n := byteAt b 2
      accepts specCounterSelect p s = true ∧ blk < 5 ∧ first < (perfBlock blk).2 ∧ first + n ≤ (perfBlock blk).2 ∧ reservedAt b 4 4 = true ∧ byteAt b 3 = 1) ∧
    (∃ (p : Packet) (s : State),
      let r := reached specStookNow p s
      accepts specStookNow p s = true ∧ r.stook.nSlots = 0) ∧
    (∃ (p : Packet) (s : State),
      let r := reached specStookNow p s
      accepts specStookNow p s = true ∧ r.stook.nSlots ≠ 0 ∧ (r.stook.writing.isSome = true ∨ r.stook.manual.isSome = true)) ∧
    (∃ (p : Packet) (s : State),
      let r := reached specStookNow p s
      accepts specStookNow p s = true ∧ r.stook.nSlots ≠ 0 ∧ r.stook.writing = none ∧ r.stook.manual = none) :=
  ⟨⟨ask [0, 0, 0, 0, 1, 2, 3, 100, 96, 234, 0, 0, 255, 255, 15, 0, 255, 255, 255, 255], { ready 4 with gle := { (ready 4).gle with enable := false }, deep := { (ready 4).deep with ch0 := { ranks := 1, state := 3, mapped := true }, grain := some 8, enables := 4, gleanSize := 128 * 8192 } }, by decide +kernel⟩,
   ⟨ask [0, 0, 0, 0, 1, 2, 3, 100, 96, 234, 0, 0, 255, 255, 15, 0, 255, 255, 255, 255], { ready 4 with gle := { (ready 4).gle with enable := true }, deep := { (ready 4).deep with ch0 := { ranks := 1, state := 3, mapped := true }, grain := some 8, enables := 4, gleanSize := 128 * 8192 } }, by decide +kernel⟩,
   ⟨ask [0, 0, 0, 0, 0, 2, 3, 100, 96, 234, 0, 0, 255, 255, 15, 0, 255, 255, 255, 255], { ready 4 with gle := { (ready 4).gle with enable := true }, deep := { (ready 4).deep with ch0 := { ranks := 1, state := 3, mapped := true }, grain := some 8, enables := 4, gleanSize := 128 * 8192 } }, by decide +kernel⟩,
   ⟨ask [0, 0, 0, 0, 1, 2, 3, 100, 96, 234, 0, 0, 255, 255, 15, 0, 0, 0, 0, 0], ready 4, by decide +kernel⟩,
   ⟨ask [1, 0, 0, 0], ready 4, by decide +kernel⟩,
   ⟨ask [2, 0, 0, 0, 254, 255, 255, 255, 255, 255, 0, 0, 1, 0, 0, 0, 64, 0, 0, 0, 0, 0, 0, 0], { ready 4 with gle := { (ready 4).gle with state := 1, seq := 2 ^ 48 - 1 }, deep := { (ready 4).deep with ch0 := { ranks := 1, state := 3, mapped := true }, grain := some 8, enables := 4, gleanSize := 128 * 8192 } }, by decide +kernel⟩,
   ⟨ask [2, 0, 0, 0, 254, 255, 255, 255, 255, 255, 0, 0, 1, 0, 0, 0, 64, 0, 0, 0, 0, 0, 0, 0], { ready 4 with gle := { (ready 4).gle with state := 2, seq := 2 ^ 48 - 1 }, deep := { (ready 4).deep with ch0 := { ranks := 1, state := 3, mapped := true }, grain := some 8, enables := 4, gleanSize := 128 * 8192 } }, by decide +kernel⟩,
   ⟨ask ([2, 0, 0, 0, 5, 0, 0, 0, 0, 0, 0, 0, 1, 0, 0, 0] ++ zeros 8), ready 4, by decide +kernel⟩,
   ⟨ask (zeros 12), { ready 4 with gle := { (ready 4).gle with mode := 2, state := 2 } }, by decide +kernel⟩,
   ⟨ask (zeros 12), ready 4, by decide +kernel⟩,
   ⟨ask ([1] ++ zeros 11), { ready 4 with gle := { (ready 4).gle with state := 4 } }, by decide +kernel⟩,
   ⟨ask ([1] ++ zeros 11), ready 4, by decide +kernel⟩,
   ⟨ask [3, 0, 63, 3, 255, 0, 0, 36, 255, 255, 255, 255, 255, 255, 255, 127, 255, 255, 255, 255, 255, 255, 255, 127], ready 4, by decide +kernel⟩,
   ⟨ask ([3, 1] ++ zeros 22), ready 4, by decide +kernel⟩,
   ⟨ask ([3, 2] ++ zeros 22), ready 4, by decide +kernel⟩,
   ⟨ask [64, 0, 0, 0, 0, 0, 0, 0, 64, 154, 10, 0, 64, 7, 0, 0, 100, 0, 0, 0, 0, 0, 0, 0], { ready 4 with stook := { (ready 4).stook with writing := some { t := 0, manual := false, header := zeros 64, body := zeros 4 } } }, by decide +kernel⟩,
   ⟨ask [64, 0, 0, 0, 0, 0, 0, 0, 64, 154, 10, 0, 64, 7, 0, 0, 100, 0, 0, 0, 0, 0, 0, 0], ready 4, by decide +kernel⟩,
   ⟨ask [64, 0, 0, 0, 0, 0, 0, 0, 64, 154, 10, 0, 2, 6, 0, 0, 16, 39, 0, 0, 0, 0, 0, 0], ready 4, by decide +kernel⟩,
   ⟨ask [4, 15, 1, 0, 0, 0, 0, 0, 6, 5, 0, 0], ready 4, by decide +kernel⟩,
   ⟨ask [4, 0, 16, 1, 0, 0, 0, 0], ready 4, by decide +kernel⟩,
   ⟨ask [], ready 4, by decide +kernel⟩,
   ⟨ask [], { ready 4 with stook := { (ready 4).stook with nSlots := 2, manual := some (0, tick) } }, by decide +kernel⟩,
   ⟨ask [], { ready 4 with stook := { (ready 4).stook with nSlots := 2 } }, by decide +kernel⟩⟩

theorem test_StookTicksLatchAndSnapshotsAreWritten :
    (∃ (s : State), s.clk.coreStopped = false ∧ s.stook.enable = false ∧ s.stook.manual = none) ∧
    (∃ (n : Nat) (s0 : State), s0.clk.coreStopped = false ∧
      let per := s0.stook.period * 1000000
      let due := min n (nextMult per (nowNs s0))
      let t := if due + per ≤ nowNs s0 then nowNs s0 / per * per else due
      let s := reachNs t (modStook (fun x => { x with nextTick := some (t + per), skipped := satAdd 0xFFFF x.skipped ((t - due) / per) }) s0)
      s0.stook.enable = true ∧ s0.stook.nextTick = some n ∧ s0.stook.manual = none ∧ s.stook.writing.isSome = true) ∧
    (∃ (n : Nat) (s0 : State), s0.clk.coreStopped = false ∧
      let per := s0.stook.period * 1000000
      let due := min n (nextMult per (nowNs s0))
      let t := if due + per ≤ nowNs s0 then nowNs s0 / per * per else due
      let s := reachNs t (modStook (fun x => { x with nextTick := some (t + per), skipped := satAdd 0xFFFF x.skipped ((t - due) / per) }) s0)
      s0.stook.enable = true ∧ s0.stook.nextTick = some n ∧ s0.stook.manual = none ∧ s.stook.writing = none ∧ s.pcie.up = false) ∧
    (∃ (n : Nat) (s0 : State), s0.clk.coreStopped = false ∧
      let per := s0.stook.period * 1000000
      let due := min n (nextMult per (nowNs s0))
      let t := if due + per ≤ nowNs s0 then nowNs s0 / per * per else due
      let s := reachNs t (modStook (fun x => { x with nextTick := some (t + per), skipped := satAdd 0xFFFF x.skipped ((t - due) / per) }) s0)
      s0.stook.enable = true ∧ s0.stook.nextTick = some n ∧ s0.stook.manual = none ∧ s.stook.writing = none ∧ s.pcie.up = true) ∧
    (∃ (t : Nat) (k : Ticket) (s0 : State), s0.clk.coreStopped = false ∧
      let s := modStook (fun x => { x with manual := none }) (reachNs t s0)
      s0.stook.enable = false ∧ s0.stook.manual = some (t, k) ∧ s.stook.writing.isSome = true) ∧
    (∃ (t : Nat) (k : Ticket) (s0 : State), s0.clk.coreStopped = false ∧
      let s := modStook (fun x => { x with manual := none }) (reachNs t s0)
      s0.stook.enable = false ∧ s0.stook.manual = some (t, k) ∧ s.stook.writing = none ∧ s.pcie.up = false) ∧
    (∃ (t : Nat) (k : Ticket) (s0 : State), s0.clk.coreStopped = false ∧
      let s := modStook (fun x => { x with manual := none }) (reachNs t s0)
      s0.stook.enable = false ∧ s0.stook.manual = some (t, k) ∧ s.stook.writing = none ∧ s.pcie.up = true) ∧
    (∃ (w : Snapshot) (s : State), s.clk.coreStopped = false ∧ s.stook.writing = some w ∧ s.pcie.up = true ∧ w.ticket = none) ∧
    (∃ (w : Snapshot) (s : State), ∃ k, s.clk.coreStopped = false ∧ s.stook.writing = some w ∧ s.pcie.up = true ∧ w.ticket = some k) ∧
    (∃ (w : Snapshot) (s : State), s.clk.coreStopped = false ∧ s.stook.writing = some w ∧ w.ticket = none) ∧
    (∃ (w : Snapshot) (s : State), ∃ k, s.clk.coreStopped = false ∧ s.stook.writing = some w ∧ w.ticket = some k) :=
  ⟨⟨ready 4, by decide +kernel⟩,
   ⟨1000000, { linked 4 with stook := { (linked 4).stook with enable := true, period := 1, nextTick := some 1000000, writing := some { t := 0, manual := false, header := zeros 64, body := zeros 4 } } }, by decide +kernel⟩,
   ⟨1000000, { ready 4 with stook := { (ready 4).stook with enable := true, period := 1, nextTick := some 1000000 } }, by decide +kernel⟩,
   ⟨1000000, { linked 4 with stook := { (linked 4).stook with enable := true, period := 1, nextTick := some 1000000 } }, by decide +kernel⟩,
   ⟨9, tick, { linked 4 with stook := { (linked 4).stook with manual := some (9, tick), writing := some { t := 0, manual := false, header := zeros 64, body := zeros 4 } } }, by decide +kernel⟩,
   ⟨9, tick, { ready 4 with stook := { (ready 4).stook with manual := some (9, tick) } }, by decide +kernel⟩,
   ⟨9, tick, { linked 4 with stook := { (linked 4).stook with manual := some (9, tick) } }, by decide +kernel⟩,
   ⟨{ t := 0, manual := false, header := zeros 64, body := zeros 4 }, { linked 4 with stook := { (linked 4).stook with writing := some { t := 0, manual := false, header := zeros 64, body := zeros 4 } } }, by decide +kernel⟩,
   ⟨{ t := 0, manual := false, header := zeros 64, body := zeros 4, ticket := some tick }, { linked 4 with stook := { (linked 4).stook with writing := some { t := 0, manual := false, header := zeros 64, body := zeros 4, ticket := some tick } } }, tick, by decide +kernel⟩,
   ⟨{ t := 0, manual := false, header := zeros 64, body := zeros 4 }, { linked 4 with stook := { (linked 4).stook with writing := some { t := 0, manual := false, header := zeros 64, body := zeros 4 } } }, by decide +kernel⟩,
   ⟨{ t := 0, manual := false, header := zeros 64, body := zeros 4, ticket := some tick }, { linked 4 with stook := { (linked 4).stook with writing := some { t := 0, manual := false, header := zeros 64, body := zeros 4, ticket := some tick } } }, tick, by decide +kernel⟩⟩

theorem test_DeepStoreReadsAreCheckedAgainstTheirAddress :
    (∃ (c half data : Nat) (poison : Bool) (b : List Byte), ∃ i, i < 4) ∧
    (∃ (client c half w bch : Nat) (s : State), c < 2 ∧ w / 2 ^ 20 % 256 = abpOf c half (bit w 28) ∧ bit w 28 = true) ∧
    (∃ (client c half w bch : Nat) (s : State), c < 2 ∧ w / 2 ^ 20 % 256 = abpOf c half (bit w 28) ∧ bit w 28 = false ∧ bch = 0) ∧
    (∃ (client c half w bch : Nat) (s : State), c < 2 ∧ w / 2 ^ 20 % 256 = abpOf c half (bit w 28) ∧ bit w 28 = false ∧ bch = 1) ∧
    (∃ (client c half w bch : Nat) (s : State), c < 2 ∧ w / 2 ^ 20 % 256 = abpOf c half (bit w 28) ∧ bit w 28 = false ∧ 2 ≤ bch) ∧
    (∃ (client c half w bch : Nat) (s : State), c < 2 ∧
      let recent := (chan s c).recentFaults.filter (fun e => decide (s.clk.edges < e + secE))
      w / 2 ^ 20 % 256 ≠ abpOf c half (bit w 28) ∧ 63 ≤ recent.length) ∧
    (∃ (client c half w bch : Nat) (s : State), c < 2 ∧
      let recent := (chan s c).recentFaults.filter (fun e => decide (s.clk.edges < e + secE))
      w / 2 ^ 20 % 256 ≠ abpOf c half (bit w 28) ∧ recent.length < 63) ∧
    (∃ (client c half : Nat) (poison : Bool) (b : List Byte) (s : State), tget? s.deep.lanes (unmapAddr s c (32 * half) / 32) = none) ∧
    (∃ (client c half : Nat) (poison : Bool) (b : List Byte) (s : State), tget? s.deep.lanes (unmapAddr s c (32 * half) / 32) = some (checkLanes c half poison b)) ∧
    (∃ (client ch half abp : Nat) (poison : Bool) (bch uid handle : Nat) (s : State), s.clk.coreStopped = false ∧
      let c := ch % 2
      chanReady (chan s c) = false) ∧
    (∃ (client ch half abp : Nat) (poison : Bool) (bch uid handle : Nat) (s : State), s.clk.coreStopped = false ∧
      let c := ch % 2
      chanReady (chan s c) = true ∧ client = 3) ∧
    (∃ (client ch half abp : Nat) (poison : Bool) (bch uid handle : Nat) (s : State), s.clk.coreStopped = false ∧
      let c := ch % 2
      let x := readCheck client c half abp poison bch (chanTouch c (syncDram c s))
      chanReady (chan s c) = true ∧ client ≠ 3 ∧ (client ≠ 5 ∨ x.1 = true ∨ x.2.hl.restart = none)) ∧
    (∃ (client ch half abp : Nat) (poison : Bool) (bch uid handle : Nat) (s : State), ∃ r, s.clk.coreStopped = false ∧
      let c := ch % 2
      let x := readCheck client c half abp poison bch (chanTouch c (syncDram c s))
      chanReady (chan s c) = true ∧ client = 5 ∧ x.1 = false ∧ x.2.hl.restart = some r ∧ r.copiedAt.isSome = true) ∧
    (∃ (client ch half abp : Nat) (poison : Bool) (bch uid handle : Nat) (s : State), ∃ r, s.clk.coreStopped = false ∧
      let c := ch % 2
      let x := readCheck client c half abp poison bch (chanTouch c (syncDram c s))
      chanReady (chan s c) = true ∧ client = 5 ∧ x.1 = false ∧ x.2.hl.restart = some r ∧ r.copiedAt = none) ∧
    (∃ (u c k i : Nat) (r : SpillRec) (s : State), spillRecOf s u = some (i, r) ∧ r.state = 2 ∧ k ∈ r.reads) ∧
    (∃ (u c k i : Nat) (r : SpillRec) (s : State), spillRecOf s u = some (i, r) ∧ r.state = 2 ∧ k ∈ r.reads ∧ (∃ j ∈ r.reads, j ≠ k)) ∧
    (∃ (u c k i : Nat) (r : SpillRec) (s : State), spillRecOf s u = some (i, r) ∧ r.state = 2 ∧ k ∈ r.reads ∧ (∀ j ∈ r.reads, j = k)) ∧
    (∃ (ch abp0 bch0 abp1 bch1 poison : Nat) (s0 : State), s0.clk.coreStopped = false ∧
      let c := ch % 2
      (chanReady (chan s0 c) = false ∨ deepTraining s0 = true)) ∧
    (∃ (ch abp0 bch0 abp1 bch1 poison : Nat) (s0 : State), s0.clk.coreStopped = false ∧
      let c := ch % 2
      let half := (chan s0 c).patrolPos
      let own := (chan s0 c).patrolOwn
      let due := (chan s0 c).patrolAt + (chan s0 c).patrolHours * 3600 * secE / max 1 (chanSize (chan s0 c) / 64)
      let x0 := readCheck 6 c half abp0 (bit poison 0) bch0 (putReq 6 false c (half / 2) 3 (reachEdge due s0))
      let x1 := readCheck 6 c (half + 1) abp1 (bit poison 1) bch1 x0.2
      let lower := x0.1 = true ∧ bch0 = 1 ∧ bit own 0 = false
      let upper := x1.1 = true ∧ bch1 = 1 ∧ bit own 1 = false
      chanReady (chan s0 c) = true ∧ deepTraining s0 = false ∧ ¬lower ∧ ¬upper) ∧
    (∃ (ch abp0 bch0 abp1 bch1 poison : Nat) (s0 : State), s0.clk.coreStopped = false ∧
      let c := ch % 2
      let half := (chan s0 c).patrolPos
      let own := (chan s0 c).patrolOwn
      let due := (chan s0 c).patrolAt + (chan s0 c).patrolHours * 3600 * secE / max 1 (chanSize (chan s0 c) / 64)
      let x0 := readCheck 6 c half abp0 (bit poison 0) bch0 (putReq 6 false c (half / 2) 3 (reachEdge due s0))
      let x1 := readCheck 6 c (half + 1) abp1 (bit poison 1) bch1 x0.2
      let lower := x0.1 = true ∧ bch0 = 1 ∧ bit own 0 = false
      let upper := x1.1 = true ∧ bch1 = 1 ∧ bit own 1 = false
      chanReady (chan s0 c) = true ∧ deepTraining s0 = false ∧ lower ∧ ¬upper) ∧
    (∃ (ch abp0 bch0 abp1 bch1 poison : Nat) (s0 : State), s0.clk.coreStopped = false ∧
      let c := ch % 2
      let half := (chan s0 c).patrolPos
      let own := (chan s0 c).patrolOwn
      let due := (chan s0 c).patrolAt + (chan s0 c).patrolHours * 3600 * secE / max 1 (chanSize (chan s0 c) / 64)
      let x0 := readCheck 6 c half abp0 (bit poison 0) bch0 (putReq 6 false c (half / 2) 3 (reachEdge due s0))
      let x1 := readCheck 6 c (half + 1) abp1 (bit poison 1) bch1 x0.2
      let lower := x0.1 = true ∧ bch0 = 1 ∧ bit own 0 = false
      let upper := x1.1 = true ∧ bch1 = 1 ∧ bit own 1 = false
      chanReady (chan s0 c) = true ∧ deepTraining s0 = false ∧ ¬lower ∧ upper) ∧
    (∃ (ch abp0 bch0 abp1 bch1 poison : Nat) (s0 : State), s0.clk.coreStopped = false ∧
      let c := ch % 2
      let half := (chan s0 c).patrolPos
      let own := (chan s0 c).patrolOwn
      let due := (chan s0 c).patrolAt + (chan s0 c).patrolHours * 3600 * secE / max 1 (chanSize (chan s0 c) / 64)
      let x0 := readCheck 6 c half abp0 (bit poison 0) bch0 (putReq 6 false c (half / 2) 3 (reachEdge due s0))
      let x1 := readCheck 6 c (half + 1) abp1 (bit poison 1) bch1 x0.2
      let lower := x0.1 = true ∧ bch0 = 1 ∧ bit own 0 = false
      let upper := x1.1 = true ∧ bch1 = 1 ∧ bit own 1 = false
      chanReady (chan s0 c) = true ∧ deepTraining s0 = false ∧ lower ∧ upper) ∧
    (∃ (c burst mask client : Nat) (s : State), client ≠ 6 ∧
      let v := chanTouch c (syncDram c s)
      burst = (chan v c).patrolPos / 2 ∧ (chan v c).patrolAt + (chan v c).patrolHours * 3600 * secE / max 1 (chanSize (chan v c) / 64) ≤ v.clk.edges ∧ c < 2) ∧
    (∃ (ch rank : Nat) (s0 : State), s0.clk.coreStopped = false ∧
      let c := ch % 2
      ((chan s0 c).state ≠ 3 ∨ (chan s0 c).ranks ≤ rank)) ∧
    (∃ (ch rank : Nat) (s0 : State), s0.clk.coreStopped = false ∧
      let c := ch % 2
      let at_ := tget 0 (chan s0 c).refreshedAt rank + (if bit (chan s0 c).flags 0 then 4875 else 9750)
      let s := modChan c (fun x => { x with refreshedAt := tset 0 x.refreshedAt rank at_ }) (syncDram c (reachEdge at_ s0))
      let n := tget 0 (chan s c).postponed rank
      (chan s0 c).state = 3 ∧ rank < (chan s0 c).ranks ∧ rankWaits (chan s c) rank = true ∧ n < 8) ∧
    (∃ (ch rank : Nat) (s0 : State), ∃ late, s0.clk.coreStopped = false ∧
      let c := ch % 2
      let at_ := tget 0 (chan s0 c).refreshedAt rank + (if bit (chan s0 c).flags 0 then 4875 else 9750)
      let s := modChan c (fun x => { x with refreshedAt := tset 0 x.refreshedAt rank at_ }) (syncDram c (reachEdge at_ s0))
      let n := tget 0 (chan s c).postponed rank
      (chan s0 c).state = 3 ∧ rank < (chan s0 c).ranks ∧ rankWaits (chan s c) rank = true ∧ (late = false ∨ 8 ≤ n)) ∧
    (∃ (ch rank : Nat) (s0 : State), s0.clk.coreStopped = false ∧
      let c := ch % 2
      let at_ := tget 0 (chan s0 c).refreshedAt rank + (if bit (chan s0 c).flags 0 then 4875 else 9750)
      let s := modChan c (fun x => { x with refreshedAt := tset 0 x.refreshedAt rank at_ }) (syncDram c (reachEdge at_ s0))
      (chan s0 c).state = 3 ∧ rank < (chan s0 c).ranks ∧ rankWaits (chan s c) rank = false) ∧
    (∃ (ch : Nat) (s0 : State), s0.clk.coreStopped = false ∧
      let c := ch % 2
      let s := syncDram c s0
      let x := chan s c
      x.state = 3 ∧ bit x.flags 2 = true ∧ allWaits x.sched = []) ∧
    (∃ (ch : Nat) (s0 : State), s0.clk.coreStopped = false ∧
      let c := ch % 2
      let s := syncDram c s0
      let x := chan s c
      (x.state ≠ 3 ∨ bit x.flags 2 = false ∨ allWaits x.sched ≠ [])) ∧
    (∃ (ch : Nat) (s0 : State), s0.clk.coreStopped = false) ∧
    (∃ (t : Training) (s0 : State), s0.clk.coreStopped = false ∧ s0.deep.training = some t ∧ t.stage = 1) ∧
    (∃ (t : Training) (s0 : State), s0.clk.coreStopped = false ∧ s0.deep.training = some t ∧ t.stage ≠ 1) ∧
    (∃ (start bytes en : Nat) (t : Ticket) (s0 : State), s0.clk.coreStopped = false ∧ s0.deep.init = some (start, bytes, en, t)) :=
  ⟨⟨1, 7, 5, true, [1], 3, by decide +kernel⟩,
   ⟨2, 1, 7, abpOf 1 7 true * 2 ^ 20 + 2 ^ 28, 0, ready 4, by decide +kernel⟩,
   ⟨2, 1, 7, abpOf 1 7 false * 2 ^ 20, 0, ready 4, by decide +kernel⟩,
   ⟨2, 1, 7, abpOf 1 7 false * 2 ^ 20, 1, ready 4, by decide +kernel⟩,
   ⟨2, 1, 7, abpOf 1 7 false * 2 ^ 20, 2, ready 4, by decide +kernel⟩,
   ⟨2, 1, 7, (abpOf 1 7 false ^^^ 1) * 2 ^ 20, 0, { ready 4 with deep := { (ready 4).deep with ch1 := { recentFaults := List.replicate 63 0 } } }, by decide +kernel⟩,
   ⟨4, 1, 2 ^ 29 - 1, abpOf 1 (2 ^ 29 - 1) false, 0, ready 4, by decide +kernel⟩,
   ⟨2, 1, 7, false, [], ready 4, by decide +kernel⟩,
   ⟨2, 1, 7, true, [1], { ready 4 with deep := { (ready 4).deep with lanes := [(7, checkLanes 1 7 true [1])] } }, rfl⟩,
   ⟨3, 1, 0, 0, false, 0, 9, 5, ready 4, by decide +kernel⟩,
   ⟨3, 1, 0, 0, false, 0, 9, 5, { ready 4 with deep := { (ready 4).deep with ch1 := { ranks := 1, state := 3 } } }, by decide +kernel⟩,
   ⟨2, 1, 0, 0, false, 0, 9, 5, { ready 4 with deep := { (ready 4).deep with ch1 := { ranks := 1, state := 3 } } }, by decide +kernel⟩,
   ⟨5, 1, 7, 1, false, 0, 0, 1048575, { ready 4 with deep := { (ready 4).deep with ch1 := { state := 3 }, lanes := [(7, abpOf 1 7 false * 2 ^ 20)] }, hl := { (ready 4).hl with restart := some { furrow := 1, ticket := tick, startedAt := 0, copiedAt := some 5, matched := 1000 } } }, { furrow := 1, ticket := tick, startedAt := 0, copiedAt := some 5, matched := 1000 }, by decide +kernel⟩,
   ⟨5, 1, 7, 1, false, 0, 0, 1048575, { ready 4 with deep := { (ready 4).deep with ch1 := { state := 3 }, lanes := [(7, abpOf 1 7 false * 2 ^ 20)] }, hl := { (ready 4).hl with restart := some { furrow := 1, ticket := tick, startedAt := 0, copiedAt := none, matched := 1000 } } }, { furrow := 1, ticket := tick, startedAt := 0, copiedAt := none, matched := 1000 }, by decide +kernel⟩,
   ⟨9, 1, 6, 3, { uid := 9, ring := 7, offset := 0, cells := 1, handle := 1048575, port := 63, arrUs := 0, state := 2, reads := [6, 5] }, { ready 4 with deep := { (ready 4).deep with recs := [(3, { uid := 9, ring := 7, offset := 0, cells := 1, handle := 1048575, port := 63, arrUs := 0, state := 2, reads := [6, 5] })] } }, by decide +kernel⟩,
   ⟨9, 1, 6, 3, { uid := 9, ring := 7, offset := 0, cells := 1, handle := 1048575, port := 63, arrUs := 0, state := 2, reads := [6, 5] }, { ready 4 with deep := { (ready 4).deep with recs := [(3, { uid := 9, ring := 7, offset := 0, cells := 1, handle := 1048575, port := 63, arrUs := 0, state := 2, reads := [6, 5] })] } }, by decide +kernel⟩,
   ⟨9, 1, 6, 3, { uid := 9, ring := 7, offset := 0, cells := 1, handle := 1048575, port := 63, arrUs := 0, state := 2, reads := [6] }, { ready 4 with deep := { (ready 4).deep with recs := [(3, { uid := 9, ring := 7, offset := 0, cells := 1, handle := 1048575, port := 63, arrUs := 0, state := 2, reads := [6] })] } }, by decide +kernel⟩,
   ⟨1, 0, 1, 0, 1, 0, ready 4, by decide +kernel⟩,
   ⟨1, 0, 0, 0, 2, 0, { ready 4 with deep := { (ready 4).deep with ch1 := { state := 3, patrolHours := 1 }, lanes := [(0, abpOf 1 0 false * 2 ^ 20), (1, abpOf 1 1 false * 2 ^ 20)] } }, by decide +kernel⟩,
   ⟨1, 0, 1, 0, 0, 0, { ready 4 with deep := { (ready 4).deep with ch1 := { state := 3, patrolHours := 1 }, lanes := [(0, abpOf 1 0 false * 2 ^ 20), (1, abpOf 1 1 false * 2 ^ 20)] } }, by decide +kernel⟩,
   ⟨1, 0, 0, 0, 1, 0, { ready 4 with deep := { (ready 4).deep with ch1 := { state := 3, patrolHours := 1 }, lanes := [(0, abpOf 1 0 false * 2 ^ 20), (1, abpOf 1 1 false * 2 ^ 20)] } }, by decide +kernel⟩,
   ⟨1, 0, 1, 0, 1, 0, { ready 4 with deep := { (ready 4).deep with ch1 := { state := 3, patrolHours := 1 }, lanes := [(0, abpOf 1 0 false * 2 ^ 20), (1, abpOf 1 1 false * 2 ^ 20)] } }, by decide +kernel⟩,
   ⟨1, 2, 3, 4, { ready 4 with deep := { (ready 4).deep with ch1 := { state := 3, patrolPos := 4, patrolHours := 0 } } }, by decide +kernel⟩,
   ⟨1, 1, ready 4, by decide +kernel⟩,
   ⟨1, 0, { ready 4 with deep := { (ready 4).deep with ch1 := { ranks := 1, state := 3, postponed := [(0, 7)], sched := { clients := [(2, [{ client := 2, write := false, burst := 0, mask := 3, seq := 0 }])] } } } }, by decide +kernel⟩,
   ⟨1, 0, { ready 4 with deep := { (ready 4).deep with ch1 := { ranks := 1, state := 3, postponed := [(0, 7)], sched := { clients := [(2, [{ client := 2, write := false, burst := 0, mask := 3, seq := 0 }])] } } } }, by decide +kernel⟩,
   ⟨1, 1, { ready 4 with deep := { (ready 4).deep with ch1 := { ranks := 2, state := 3, postponed := [(1, 7)] } } }, by decide +kernel⟩,
   ⟨1, { ready 4 with deep := { (ready 4).deep with ch1 := { ranks := 2, state := 3 } } }, by decide +kernel⟩,
   ⟨1, { ready 4 with deep := { (ready 4).deep with ch1 := { ranks := 1, state := 3, sched := { clients := [(2, [{ client := 2, write := false, burst := 0, mask := 3, seq := 0 }])] } } } }, by decide +kernel⟩,
   ⟨1, { ready 4 with deep := { (ready 4).deep with ch1 := { ranks := 2, state := 3 } } }, by decide +kernel⟩,
   ⟨{ mask := 3, stage := 1, startedAt := 0, ticket := none }, { ready 4 with deep := { (ready 4).deep with training := some { mask := 3, stage := 1, startedAt := 0, ticket := none } } }, by decide +kernel⟩,
   ⟨{ mask := 3, stage := 5, startedAt := 0, ticket := none }, { ready 4 with deep := { (ready 4).deep with training := some { mask := 3, stage := 5, startedAt := 0, ticket := none } } }, by decide +kernel⟩,
   ⟨0, 4096, 1, tick, { ready 4 with deep := { (ready 4).deep with init := some (0, 4096, 1, tick) } }, by decide +kernel⟩⟩

theorem test_SpillsRefillAndDramCommandsAct :
    (∃ (u : Nat) (bad : List Nat) (i : Nat) (q : SpillRec) (c : Copy) (s : State), s.clk.coreStopped = false ∧
      let x := frame s u
      let h := relHalf s x
      let q1 := { q with cells := c.cells.length, state := 1 }
      spillRecOf s u = some (i, q) ∧ copyOf x h = some c ∧ x.spilled = true ∧ x.spillDone = false ∧ c.complete = true ∧ (spillAddrs s q1).all (deepUp s) = false) ∧
    (∃ (u : Nat) (bad : List Nat) (i : Nat) (q : SpillRec) (c : Copy) (s : State), s.clk.coreStopped = false ∧
      let x := frame s u
      let h := relHalf s x
      let q1 := { q with cells := c.cells.length, state := 1 }
      spillRecOf s u = some (i, q) ∧ copyOf x h = some c ∧ x.spilled = true ∧ x.spillDone = false ∧ c.complete = true ∧ (spillAddrs s q1).all (deepUp s) = true ∧ q.gone = false) ∧
    (∃ (u : Nat) (bad : List Nat) (i : Nat) (q : SpillRec) (c : Copy) (s : State), s.clk.coreStopped = false ∧
      let x := frame s u
      let h := relHalf s x
      let q1 := { q with cells := c.cells.length, state := 1 }
      spillRecOf s u = some (i, q) ∧ copyOf x h = some c ∧ x.spilled = true ∧ x.spillDone = false ∧ c.complete = true ∧ (spillAddrs s q1).all (deepUp s) = true ∧ q.gone = true) ∧
    (∃ (client a : Nat) (b : List Byte) (bad : List Nat) (s : State), b.length = 32) ∧
    (∃ (fu : Furrow) (inp out k : Nat) (s : State), s.clk.coreStopped = false ∧
      let due := refillDue s (furNo fu) (laneKey inp out k)
      (isolated s (furNo fu) = true ∨ due = none)) ∧
    (∃ (fu : Furrow) (inp out k : Nat) (s : State), ∃ u i q, s.clk.coreStopped = false ∧
      let due := refillDue s (furNo fu) (laneKey inp out k)
      isolated s (furNo fu) = false ∧ due = some u ∧ spillRecOf s u = some (i, q)) ∧
    (∃ (s : State), s.clk.coreStopped = false ∧
      let waits := s.deep.recs.find? (fun e => e.2.state == 2 && (frame s e.2.uid).asks.isNone && refillWaits s e.2.uid 0 && refillWaits s e.2.uid 1)
      waits = none) ∧
    (∃ (s : State), ∃ i q, s.clk.coreStopped = false ∧
      let waits := s.deep.recs.find? (fun e => e.2.state == 2 && (frame s e.2.uid).asks.isNone && refillWaits s e.2.uid 0 && refillWaits s e.2.uid 1)
      waits = some (i, q)) ∧
    (∃ (t : Training) (ok0 ok1 : Bool) (m0 m1 : Nat) (s : State), s.deep.training = some t ∧ t.ticket = none ∧ t.stage ≠ 1) ∧
    (∃ (t : Training) (ok0 ok1 : Bool) (m0 m1 : Nat) (s : State), s.deep.training = some t ∧ t.ticket = none ∧ t.stage = 1) ∧
    (∃ (t : Training) (ok0 ok1 : Bool) (m0 m1 : Nat) (s : State), s.clk.coreStopped = false ∧ s.deep.training = some t ∧ t.stage ≠ 1) ∧
    (∃ (t : Training) (ok0 ok1 : Bool) (m0 m1 : Nat) (s : State), s.clk.coreStopped = false ∧ s.deep.training = some t ∧ t.stage = 1) ∧
    (∃ (p : Packet) (s : State),
      let r := reached specDramConfigure p s
      let b := p.params
      let c := byteAt b 0
      accepts specDramConfigure p s = true ∧ r.dev.retrain = none ∧ (∀ e ∈ dramChecks b, e.1 = true) ∧ (chan r c).state = 2) ∧
    (∃ (p : Packet) (s : State),
      let r := reached specDramConfigure p s
      let b := p.params
      let c := byteAt b 0
      accepts specDramConfigure p s = true ∧ r.dev.retrain = none ∧ (∀ e ∈ dramChecks b, e.1 = true) ∧ (chan r c).state ≠ 2 ∧ bit (byteAt b 5) 1 = false) ∧
    (∃ (p : Packet) (s : State),
      let r := reached specDramConfigure p s
      let b := p.params
      let c := byteAt b 0
      accepts specDramConfigure p s = true ∧ r.dev.retrain = none ∧ (∀ e ∈ dramChecks b, e.1 = true) ∧ (chan r c).state ≠ 2 ∧ bit (byteAt b 5) 1 = true) ∧
    (∃ (p : Packet) (s : State),
      let r := reached specDramTrain p s
      let m := byteAt p.params 0
      accepts specDramTrain p s = true ∧ r.dev.retrain = none ∧ m < 4 ∧ reservedAt p.params 1 3 = true ∧ r.deep.training.isSome = true) ∧
    (∃ (p : Packet) (s : State),
      let r := reached specDramTrain p s
      let m := byteAt p.params 0
      let absent := (bitList 2 m).any (fun c => (chan r c).state == 0)
      accepts specDramTrain p s = true ∧ r.dev.retrain = none ∧ m < 4 ∧ reservedAt p.params 1 3 = true ∧ r.deep.training = none ∧ absent = true) ∧
    (∃ (p : Packet) (s : State),
      let r := reached specDramTrain p s
      let m := byteAt p.params 0
      let absent := (bitList 2 m).any (fun c => (chan r c).state == 0)
      accepts specDramTrain p s = true ∧ r.dev.retrain = none ∧ m < 4 ∧ reservedAt p.params 1 3 = true ∧ r.deep.training = none ∧ absent = false) ∧
    (∃ (p : Packet) (s : State),
      let r := reached specDramMapSet p s
      let b := p.params
      let st := fun c => (chan r c).state
      accepts specDramMapSet p s = true ∧ r.dev.retrain = none ∧ 8 ≤ byteAt b 0 ∧ byteAt b 0 ≤ 16 ∧ reservedAt b 1 3 = true ∧ st 0 = 0 ∧ st 1 = 0) ∧
    (∃ (p : Packet) (s : State),
      let r := reached specDramMapSet p s
      let b := p.params
      accepts specDramMapSet p s = true ∧ r.dev.retrain = none ∧ 8 ≤ byteAt b 0 ∧ byteAt b 0 ≤ 16 ∧ reservedAt b 1 3 = true ∧ chanReady (chan r 0) = true ∧ chanReady (chan r 1) = true) ∧
    (∃ (p : Packet) (s : State),
      let r := reached specDeepStoreSet p s
      let b := p.params
      let size := le b 16 8
      let base := le b 8 8
      accepts specDeepStoreSet p s = true ∧ r.dev.retrain = none ∧ byteAt b 0 = 0 ∧ reservedAt b 1 3 = true ∧ reservedAt b 5 3 = true ∧ byteAt b 4 = 4 ∧ base % 2 ^ 20 = 0 ∧ (r.deep.grain.isSome = true → base + size ≤ deepSize r) ∧ (∃ k, 13 ≤ k ∧ k ≤ 26 ∧ size = 128 * 2 ^ k) ∧ r.deep.init.isSome = true) ∧
    (∃ (p : Packet) (s : State),
      let r := reached specDeepStoreSet p s
      let b := p.params
      let size := le b 16 8
      let base := le b 8 8
      accepts specDeepStoreSet p s = true ∧ r.dev.retrain = none ∧ byteAt b 0 = 0 ∧ reservedAt b 1 3 = true ∧ reservedAt b 5 3 = true ∧ byteAt b 4 = 4 ∧ base % 2 ^ 20 = 0 ∧ (r.deep.grain.isSome = true → base + size ≤ deepSize r) ∧ (∃ k, 13 ≤ k ∧ k ≤ 26 ∧ size = 128 * 2 ^ k) ∧ r.deep.init = none ∧ r.deep.grain = none) ∧
    (∃ (p : Packet) (s : State),
      let r := reached specDeepStoreSet p s
      let b := p.params
      let size := le b 16 8
      let base := le b 8 8
      accepts specDeepStoreSet p s = true ∧ r.dev.retrain = none ∧ byteAt b 0 = 0 ∧ reservedAt b 1 3 = true ∧ reservedAt b 5 3 = true ∧ byteAt b 4 = 4 ∧ base % 2 ^ 20 = 0 ∧ (r.deep.grain.isSome = true → base + size ≤ deepSize r) ∧ (∃ k, 13 ≤ k ∧ k ≤ 26 ∧ size = 128 * 2 ^ k) ∧ r.deep.init = none ∧ r.deep.grain.isSome = true) ∧
    (∃ (p : Packet) (s : State),
      let r := reached specDramStatus p s
      let c := byteAt p.params 0
      accepts specDramStatus p s = true ∧ r.dev.retrain = none ∧ c < 2 ∧ reservedAt p.params 1 3 = true) :=
  ⟨⟨9, [], 3, { uid := 9, ring := 7, offset := 0, cells := 1, handle := 1048575, port := 63, arrUs := 0, state := 0 }, { complete := true, cells := [(73727, 1)] }, { ready 4 with frames := [(9, { port := 63, bytes := zeros 80, rxDone := true, lead := 1, spilled := true, copyB := some { complete := true, cells := [(73727, 1)] } })], nextUid := 10, deep := { (ready 4).deep with recs := [(3, { uid := 9, ring := 7, offset := 0, cells := 1, handle := 1048575, port := 63, arrUs := 0, state := 0 })] } }, by decide +kernel⟩,
   ⟨9, [], 3, { uid := 9, ring := 7, offset := 0, cells := 1, handle := 1048575, port := 63, arrUs := 0, state := 0 }, { complete := true, cells := [(73727, 1)] }, { ready 4 with frames := [(9, { port := 63, bytes := zeros 80, rxDone := true, lead := 1, spilled := true, copyB := some { complete := true, cells := [(73727, 1)] } })], nextUid := 10, deep := { (ready 4).deep with recs := [(3, { uid := 9, ring := 7, offset := 0, cells := 1, handle := 1048575, port := 63, arrUs := 0, state := 0 })], grain := some 8, map0 := 2 ^ 30, ch0 := { state := 3, mapped := true } } }, by decide +kernel⟩,
   ⟨9, [], 3, { uid := 9, ring := 7, offset := 0, cells := 1, handle := 1048575, port := 63, arrUs := 0, state := 0, gone := true }, { complete := true, cells := [(73727, 1)] }, { ready 4 with frames := [(9, { port := 63, bytes := zeros 80, rxDone := true, lead := 1, spilled := true, copyB := some { complete := true, cells := [(73727, 1)] } })], nextUid := 10, deep := { (ready 4).deep with recs := [(3, { uid := 9, ring := 7, offset := 0, cells := 1, handle := 1048575, port := 63, arrUs := 0, state := 0, gone := true })], grain := some 8, map0 := 2 ^ 30, ch0 := { state := 3, mapped := true } } }, by decide +kernel⟩,
   ⟨1, 64, zeros 32, [], ready 4, by decide +kernel⟩,
   ⟨.b, 63, 63, 4, ready 4, by decide +kernel⟩,
   ⟨.b, 63, 63, 4, { ready 4 with deep := { (ready 4).deep with recs := [(65535, { uid := 9, state := 1, ring := 319, offset := 0, cells := 0, handle := 1048575, port := 63, arrUs := 0 })] }, fb := { (ready 4).fb with lanes := [(laneKey 63 63 4, [{ uid := 9, half := 1, spill := true }])] } }, 9, 65535, { uid := 9, state := 1, ring := 319, offset := 0, cells := 0, handle := 1048575, port := 63, arrUs := 0 }, by decide +kernel⟩,
   ⟨ready 4, by decide +kernel⟩,
   ⟨{ ready 4 with deep := { (ready 4).deep with recs := [(65535, { uid := 9, state := 2, ring := 319, offset := 0, cells := 0, handle := 1048575, port := 63, arrUs := 0 })] }, frames := [(9, { copyB := some { cells := [(0, 4)], complete := true, undecided := false } })] }, 65535, { uid := 9, state := 2, ring := 319, offset := 0, cells := 0, handle := 1048575, port := 63, arrUs := 0 }, by decide +kernel⟩,
   ⟨{ mask := 3, stage := 5, startedAt := 0, ticket := none }, false, false, 0, 0, { ready 4 with deep := { (ready 4).deep with training := some { mask := 3, stage := 5, startedAt := 0, ticket := none } } }, by decide +kernel⟩,
   ⟨{ mask := 3, stage := 1, startedAt := 0, ticket := none }, false, false, 0, 0, { ready 4 with deep := { (ready 4).deep with training := some { mask := 3, stage := 1, startedAt := 0, ticket := none } } }, by decide +kernel⟩,
   ⟨{ mask := 3, stage := 5, startedAt := 0, ticket := some tick }, false, false, 0, 0, { ready 4 with deep := { (ready 4).deep with training := some { mask := 3, stage := 5, startedAt := 0, ticket := some tick } } }, by decide +kernel⟩,
   ⟨{ mask := 3, stage := 1, startedAt := 0, ticket := some tick }, false, false, 0, 0, { ready 4 with deep := { (ready 4).deep with training := some { mask := 3, stage := 1, startedAt := 0, ticket := some tick } } }, by decide +kernel⟩,
   ⟨ask [1, 2, 16, 16, 3, 7, 16, 39, 255, 255, 16, 39, 168, 0, 241, 31, 15, 0, 0, 0], { ready 3 with deep := { (ready 3).deep with ch1 := { state := 2 } } }, by decide +kernel⟩,
   ⟨ask [1, 2, 16, 16, 3, 5, 16, 39, 255, 255, 16, 39, 168, 0, 241, 31, 15, 0, 0, 0], ready 3, by decide +kernel⟩,
   ⟨ask [1, 2, 16, 16, 3, 7, 16, 39, 255, 255, 16, 39, 168, 0, 241, 31, 15, 0, 0, 0], ready 3, by decide +kernel⟩,
   ⟨ask [3, 0, 0, 0], { ready 3 with deep := { (ready 3).deep with training := some { mask := 3, stage := 5, startedAt := 0, ticket := none } } }, by decide +kernel⟩,
   ⟨ask [3, 0, 0, 0], ready 3, by decide +kernel⟩,
   ⟨ask [3, 0, 0, 0], { ready 3 with deep := { (ready 3).deep with ch0 := { state := 1 }, ch1 := { state := 5 } } }, by decide +kernel⟩,
   ⟨ask [16, 0, 0, 0], ready 3, by decide +kernel⟩,
   ⟨ask [16, 0, 0, 0], { ready 3 with deep := { (ready 3).deep with ch0 := { ranks := 1, state := 3 }, ch1 := { ranks := 1, state := 4 } } }, by decide +kernel⟩,
   ⟨ask ([0, 0, 0, 0, 4, 0, 0, 0, 0, 0, 16, 0, 0, 0, 0, 0, 0, 0, 0, 0, 2, 0, 0, 0] ++ zeros 24), { ready 3 with deep := { (ready 3).deep with init := some (0, 0, 0, tick) } }, (by (iterate 8 refine ⟨by decide +kernel, ?_⟩); exact ⟨⟨26, by decide +kernel⟩, by decide +kernel⟩)⟩,
   ⟨ask ([0, 0, 0, 0, 4, 0, 0, 0, 0, 0, 16, 0, 0, 0, 0, 0, 0, 0, 0, 0, 2, 0, 0, 0] ++ zeros 24), { ready 3 with deep := { (ready 3).deep with grain := none } }, (by (iterate 8 refine ⟨by decide +kernel, ?_⟩); exact ⟨⟨26, by decide +kernel⟩, by decide +kernel, by decide +kernel⟩)⟩,
   ⟨ask ([0, 0, 0, 0, 4, 0, 0, 0, 0, 0, 16, 0, 0, 0, 0, 0, 0, 0, 0, 0, 2, 0, 0, 0] ++ zeros 24), { ready 3 with deep := { (ready 3).deep with grain := some 8, map0 := 2 ^ 36 } }, (by (iterate 8 refine ⟨by decide +kernel, ?_⟩); exact ⟨⟨26, by decide +kernel⟩, by decide +kernel⟩)⟩,
   ⟨ask [1, 0, 0, 0], ready 4, by decide +kernel⟩⟩

theorem test_OptionRowsAndRetainedMemoryAreReadBurntAndWritten :
    (∃ (p : Packet) (s : State),
      let b := p.params
      accepts specOptionRead p s = true ∧ byteAt b 0 ≤ 8 ∧ reservedAt b 1 3 = true) ∧
    (∃ (p : Packet) (s : State),
      let r := reached specOptionBurn p s
      let b := p.params
      let v := leNat (b.drop 4)
      let g := byteAt b 0
      accepts specOptionBurn p s = true ∧ 1 ≤ g ∧ g ≤ 8 ∧ reservedAt b 1 3 = true ∧ bits v 21 0 = 0 ∧ bits v 511 496 = 0 ∧ bits v 39 38 ≠ 3 ∧ (bits v 35 34 = 1 ∨ bits v 35 34 = 2) ∧ bits v 33 32 < 2 ∧ (bits v 39 38 = 2 → bits v 47 40 ≠ 0) ∧ bits v 495 240 ≠ 0 ∧ bits v 239 112 ≠ 0 ∧ (bits v 63 48 = 0 ∨ (13 ≤ bits v 63 48 ∧ bits v 63 48 ≤ 255)) ∧ r.nv.burn.isSome = true) ∧
    (∃ (p : Packet) (s : State),
      let r := reached specOptionBurn p s
      let b := p.params
      let v := leNat (b.drop 4)
      let g := byteAt b 0
      accepts specOptionBurn p s = true ∧ 1 ≤ g ∧ g ≤ 8 ∧ reservedAt b 1 3 = true ∧ bits v 21 0 = 0 ∧ bits v 511 496 = 0 ∧ bits v 39 38 ≠ 3 ∧ (bits v 35 34 = 1 ∨ bits v 35 34 = 2) ∧ bits v 33 32 < 2 ∧ (bits v 39 38 = 2 → bits v 47 40 ≠ 0) ∧ bits v 495 240 ≠ 0 ∧ bits v 239 112 ≠ 0 ∧ (bits v 63 48 = 0 ∨ (13 ≤ bits v 63 48 ∧ bits v 63 48 ≤ 255)) ∧ r.nv.burn = none ∧ statusOf r 8 ≠ 0) ∧
    (∃ (p : Packet) (s : State),
      let r := reached specOptionBurn p s
      let b := p.params
      let v := leNat (b.drop 4)
      let g := byteAt b 0
      accepts specOptionBurn p s = true ∧ 1 ≤ g ∧ g ≤ 8 ∧ reservedAt b 1 3 = true ∧ bits v 21 0 = 0 ∧ bits v 511 496 = 0 ∧ bits v 39 38 ≠ 3 ∧ (bits v 35 34 = 1 ∨ bits v 35 34 = 2) ∧ bits v 33 32 < 2 ∧ (bits v 39 38 = 2 → bits v 47 40 ≠ 0) ∧ bits v 495 240 ≠ 0 ∧ bits v 239 112 ≠ 0 ∧ (bits v 63 48 = 0 ∨ (13 ≤ bits v 63 48 ∧ bits v 63 48 ≤ 255)) ∧ r.nv.burn = none ∧ statusOf r 8 = 0 ∧ g ≠ nextGen r) ∧
    (∃ (p : Packet) (s : State),
      let r := reached specOptionBurn p s
      let b := p.params
      let v := leNat (b.drop 4)
      let g := byteAt b 0
      accepts specOptionBurn p s = true ∧ 1 ≤ g ∧ g ≤ 8 ∧ reservedAt b 1 3 = true ∧ bits v 21 0 = 0 ∧ bits v 511 496 = 0 ∧ bits v 39 38 ≠ 3 ∧ (bits v 35 34 = 1 ∨ bits v 35 34 = 2) ∧ bits v 33 32 < 2 ∧ (bits v 39 38 = 2 → bits v 47 40 ≠ 0) ∧ bits v 495 240 ≠ 0 ∧ bits v 239 112 ≠ 0 ∧ (bits v 63 48 = 0 ∨ (13 ≤ bits v 63 48 ∧ bits v 63 48 ≤ 255)) ∧ r.nv.burn = none ∧ statusOf r 8 = 0 ∧ g = nextGen r) ∧
    (∃ (k : Burn) (f0 f1 f2 : Nat) (s0 : State), s0.clk.coreStopped = false ∧ s0.nv.burn = some k ∧
      let s := reachEdge k.startedAt s0
      let old := gen s k.gen
      let g1 : Gen := { rec0 := old.rec0 ||| andNot k.record (f0 / 2 ^ 512), rec1 := old.rec1 ||| andNot k.record (f1 / 2 ^ 512),
                        rec2 := old.rec2 ||| andNot k.record (f2 / 2 ^ 512), row0 := old.row0 ||| andNot k.row (f0 % 2 ^ 512),
                        row1 := old.row1 ||| andNot k.row (f1 % 2 ^ 512), row2 := old.row2 ||| andNot k.row (f2 % 2 ^ 512) }
      genStatus k.gen g1 = 1) ∧
    (∃ (k : Burn) (f0 f1 f2 : Nat) (s0 : State), s0.clk.coreStopped = false ∧ s0.nv.burn = some k ∧
      let s := reachEdge k.startedAt s0
      let old := gen s k.gen
      let g1 : Gen := { rec0 := old.rec0 ||| andNot k.record (f0 / 2 ^ 512), rec1 := old.rec1 ||| andNot k.record (f1 / 2 ^ 512),
                        rec2 := old.rec2 ||| andNot k.record (f2 / 2 ^ 512), row0 := old.row0 ||| andNot k.row (f0 % 2 ^ 512),
                        row1 := old.row1 ||| andNot k.row (f1 % 2 ^ 512), row2 := old.row2 ||| andNot k.row (f2 % 2 ^ 512) }
      genStatus k.gen g1 ≠ 1) ∧
    (∃ (p : Packet) (s : State),
      let r := reached specRetainedRead p s
      let b := p.params
      let off := le b 0 2
      let n := le b 2 2
      accepts specRetainedRead p s = true ∧ reservedAt b 5 3 = true ∧ byteAt b 4 = 0 ∧ off % 4 = 0 ∧ off + n ≤ 8192 ∧ 4 ≤ n ∧ n ≤ 4080 ∧ n % 4 = 0 ∧ badIn r off n = []) ∧
    (∃ (p : Packet) (s : State),
      let b := p.params
      let off := le b 0 2
      let n := le b 2 2
      accepts specRetainedRead p s = true ∧ reservedAt b 5 3 = true ∧ byteAt b 4 = 1 ∧ off % 4 = 0 ∧ off + n ≤ 64 ∧ 4 ≤ n ∧ n % 4 = 0) ∧
    (∃ (p : Packet) (s : State),
      let b := p.params
      accepts specRetainedRead p s = true ∧ reservedAt b 5 3 = true ∧ byteAt b 4 = 2) ∧
    (∃ (p : Packet) (s : State),
      let b := p.params
      let off := le b 0 2
      let n := le b 2 2
      accepts specRetainedWrite p s = true ∧ n % 4 = 0 ∧ n ≤ 4072 ∧ reservedAt b 5 3 = true ∧ p.upset = false ∧ byteAt b 4 = 0 ∧ 0x1000 ≤ off ∧ off + n ≤ 8192 ∧ off % 4 = 0) ∧
    (∃ (p : Packet) (s : State),
      let b := p.params
      let off := le b 0 2
      let n := le b 2 2
      accepts specRetainedWrite p s = true ∧ n % 4 = 0 ∧ n ≤ 4072 ∧ reservedAt b 5 3 = true ∧ p.upset = false ∧ byteAt b 4 = 1 ∧ off + n ≤ 64 ∧ off % 4 = 0) ∧
    (∃ (p : Packet) (s : State),
      let b := p.params
      let n := le b 2 2
      accepts specRetainedWrite p s = true ∧ n % 4 = 0 ∧ n ≤ 4072 ∧ reservedAt b 5 3 = true ∧ p.upset = false ∧ byteAt b 4 = 3 ∧ n = 0) ∧
    (∃ (off : Nat) (d : List Byte) (s : State) (a : Nat), Memory.wf s.ret.mem = true ∧ (a < off ∨ off + d.length ≤ a)) ∧
    (∃ (off : Nat) (d : List Byte) (s : State) (i : Nat), Memory.wf s.ret.mem = true ∧ i < d.length ∧ off + i < 8192) ∧
    (∃ (s0 : State), untraceable s0 = false ∧ coreLive s0 = true) ∧
    (∃ (s0 : State), (untraceable s0 = true ∨ coreLive s0 = false)) :=
  ⟨⟨ask (zeros 4), ready 4, by decide +kernel⟩,
   ⟨ask [8, 0, 0, 0, 0, 0, 0, 0, 132, 1, 255, 0, 0, 0, 0, 0, 0, 0, 1, 0, 0, 0, 0, 0, 0, 0, 0, 0, 0, 0, 0, 0, 0, 0, 1, 0, 0, 0, 0, 0, 0, 0, 0, 0, 0, 0, 0, 0, 0, 0, 0, 0, 0, 0, 0, 0, 0, 0, 0, 0, 0, 0, 0, 0, 0, 0, 0, 0], { ready 5 with nv := { (ready 5).nv with burn := some { gen := 8, record := 8 * 2 ^ 104 + crc16 (toLE 14 (8 * 2 ^ 104)) * 2 ^ 112, row := 2 ^ 34 + crc16 (toLE 62 (2 ^ 34)) * 2 ^ 496, step := 0, startedAt := 0, ticket := tick } } }, by decide +kernel⟩,
   ⟨ask [8, 0, 0, 0, 0, 0, 0, 0, 132, 1, 255, 0, 0, 0, 0, 0, 0, 0, 1, 0, 0, 0, 0, 0, 0, 0, 0, 0, 0, 0, 0, 0, 0, 0, 1, 0, 0, 0, 0, 0, 0, 0, 0, 0, 0, 0, 0, 0, 0, 0, 0, 0, 0, 0, 0, 0, 0, 0, 0, 0, 0, 0, 0, 0, 0, 0, 0, 0], { ready 5 with nv := { (ready 5).nv with gens := [(8, { rec0 := 1, rec1 := 1 })] } }, by decide +kernel⟩,
   ⟨ask [8, 0, 0, 0, 0, 0, 0, 0, 132, 1, 255, 0, 0, 0, 0, 0, 0, 0, 1, 0, 0, 0, 0, 0, 0, 0, 0, 0, 0, 0, 0, 0, 0, 0, 1, 0, 0, 0, 0, 0, 0, 0, 0, 0, 0, 0, 0, 0, 0, 0, 0, 0, 0, 0, 0, 0, 0, 0, 0, 0, 0, 0, 0, 0, 0, 0, 0, 0], { ready 5 with nv := { (ready 5).nv with gens := [(6, { rec0 := 1, rec1 := 1 })] } }, by decide +kernel⟩,
   ⟨ask [8, 0, 0, 0, 0, 0, 0, 0, 132, 1, 255, 0, 0, 0, 0, 0, 0, 0, 1, 0, 0, 0, 0, 0, 0, 0, 0, 0, 0, 0, 0, 0, 0, 0, 1, 0, 0, 0, 0, 0, 0, 0, 0, 0, 0, 0, 0, 0, 0, 0, 0, 0, 0, 0, 0, 0, 0, 0, 0, 0, 0, 0, 0, 0, 0, 0, 0, 0], { ready 5 with nv := { (ready 5).nv with gens := [(7, { rec0 := 1, rec1 := 1 })] } }, by decide +kernel⟩,
   ⟨{ gen := 8, record := 8 * 2 ^ 104 + crc16 (toLE 14 (8 * 2 ^ 104)) * 2 ^ 112, row := 2 ^ 34 + crc16 (toLE 62 (2 ^ 34)) * 2 ^ 496, step := 0, startedAt := 0, ticket := tick }, 0, 0, 0, { ready 4 with nv := { (ready 4).nv with burn := some { gen := 8, record := 8 * 2 ^ 104 + crc16 (toLE 14 (8 * 2 ^ 104)) * 2 ^ 112, row := 2 ^ 34 + crc16 (toLE 62 (2 ^ 34)) * 2 ^ 496, step := 0, startedAt := 0, ticket := tick } } }, by decide +kernel⟩,
   ⟨{ gen := 8, record := 8 * 2 ^ 104 + crc16 (toLE 14 (8 * 2 ^ 104)) * 2 ^ 112, row := 2 ^ 34 + crc16 (toLE 62 (2 ^ 34)) * 2 ^ 496, step := 0, startedAt := 0, ticket := tick }, 2 ^ 640 - 1, 2 ^ 640 - 1, 0, { ready 4 with nv := { (ready 4).nv with burn := some { gen := 8, record := 8 * 2 ^ 104 + crc16 (toLE 14 (8 * 2 ^ 104)) * 2 ^ 112, row := 2 ^ 34 + crc16 (toLE 62 (2 ^ 34)) * 2 ^ 496, step := 0, startedAt := 0, ticket := tick } } }, by decide +kernel⟩,
   ⟨ask ([252, 31, 4, 0] ++ zeros 4), ready 4, by decide +kernel⟩,
   ⟨ask [60, 0, 4, 0, 1, 0, 0, 0], ready 4, by decide +kernel⟩,
   ⟨ask [0, 0, 0, 0, 2, 0, 0, 0], ready 4, by decide +kernel⟩,
   ⟨ask [252, 31, 4, 0, 0, 0, 0, 0, 1, 2, 3, 4], ready 3, by decide +kernel⟩,
   ⟨ask [60, 0, 4, 0, 1, 0, 0, 0, 1, 2, 3, 4], ready 3, by decide +kernel⟩,
   ⟨ask [0, 0, 0, 0, 3, 0, 0, 0], ready 3, by decide +kernel⟩,
   ⟨8188, [1, 2, 3, 4], ready 4, 8192, by decide +kernel⟩,
   ⟨8188, [1, 2, 3, 4], ready 4, 3, by decide +kernel⟩,
   ⟨{ ready 4 with tim := { (ready 4).tim with state := 2 } }, by decide +kernel⟩,
   ⟨ready 4, by decide +kernel⟩⟩

/-! ## Ill-formed commands: one for each check of WellFormed, which the check refuses -/

theorem test_wf_refuses_ports_classes_lanes : Instr.wf (.oversizeDetect 64) = false ∧ Instr.wf (.pauseTimerExpiry 63 8) = false ∧
    Instr.wf (.retrain 64 0) = false ∧ Instr.wf (.i2cBusRecovery 8 true) = false ∧ Instr.wf (.gpioEdgeAccept 32) = false ∧
    Instr.wf (.idleTimeout 4) = false ∧ Instr.wf (.sliceFallowExpiry 12) = false ∧ Instr.wf (.sliceClockStart 4) = false ∧
    Instr.wf (.supplyOverRange 8) = false ∧ Instr.wf (.ppsOutEdge 2) = false ∧ Instr.wf (.vectorHoldoffExpiry 64) = false := by decide

theorem test_wf_refuses_beds_cells_lane_entries : Instr.wf (.addi 16 0) = false ∧ Instr.wf (.addi 15 64) = false ∧
    Instr.wf (.cellRequest 2 none none) = false ∧ Instr.wf (.copyComplete 0 2) = false ∧ Instr.wf (.refillRequest .a 72 0 0) = false ∧
    Instr.wf (.refillRequest .a 0 72 0) = false ∧ Instr.wf (.refillRequest .a 0 0 8) = false ∧ Instr.wf (.streamShaperRelease 0x100000) = false ∧
    Instr.wf (.frerRecoveryTimeout 0x100000 0) = false ∧ Instr.wf (.refreshDue 2 0 true) = false ∧ Instr.wf (.refreshDue 0 2 true) = false := by decide

theorem test_wf_refuses_window_operands : Instr.wf (.ringCmdTail 4 0 0) = false ∧ Instr.wf (.ringCmdTail 0 16 0) = false ∧
    Instr.wf (.ringCmdTail 0 15 0x100000000) = false ∧ Instr.wf (.noncontigAccess 0x4000 0 false) = false ∧
    Instr.wf (.eventStatusRead 32 0) = false ∧ Instr.wf (.msixVectorMaskWrite 64 true) = false := by decide

theorem test_wf_refuses_packets : Packet.wf { ask [] with src := .ring 4 } = false ∧ Packet.wf { ask [] with src := .inband 64 0 } = false ∧
    Packet.wf { ask [] with src := .inband 0 (2 ^ 48) } = false ∧ Packet.wf { ask [] with verMajor := 256 } = false ∧
    Packet.wf { ask [] with verMinor := 256 } = false ∧ Packet.wf { ask [] with flags := 256 } = false ∧
    Packet.wf { ask [] with opcode := 65536 } = false ∧ Packet.wf { ask [] with tag := 65536 } = false ∧
    Packet.wf { ask [] with session := 256 } = false ∧ Packet.wf { ask [] with paramLen := 65536 } = false ∧
    Packet.wf { ask [] with reserved := 2 ^ 40 } = false ∧ Packet.wf { ask [] with trailer := 2 ^ 32 } = false ∧
    Packet.wf { ask [] with vlan := some 65536 } = false ∧ Instr.wf (.openSession { ask [] with tag := 65536 }) = false := by decide

theorem test_wf_takes_a_packet : Instr.wf (.openSession (ask (zeros 24))) = true ∧ Instr.wf (.noncontigAccess 0x3FFF 15 true) = true := by decide

/-! ## Published check values of the codes and algorithms that the specification names -/

/-- The check values of the catalogues for the nine digits: CRC-32, CRC-32C, CRC-16 with polynomial 0x1021 and initial 0xFFFF. -/
theorem test_crc_check_values : crc32 [49, 50, 51, 52, 53, 54, 55, 56, 57] = 0xCBF43926 ∧
    crc32c [49, 50, 51, 52, 53, 54, 55, 56, 57] = 0xE3069283 ∧ crc16 [49, 50, 51, 52, 53, 54, 55, 56, 57] = 0x29B1 := by decide +kernel

/-- FIPS 180-4's example, the message abc. -/
theorem test_sha256_abc : sha256 [97, 98, 99] = 0xBA7816BF8F01CFEA414140DE5DAE2223B00361A396177A9CB410FF61F20015AD := by decide +kernel

/-- RFC 4231, test case 2. -/
theorem test_hmac_sha256 : hmac256 [74, 101, 102, 101] [119, 104, 97, 116, 32, 100, 111, 32, 121, 97, 32, 119, 97, 110, 116, 32, 102, 111, 114, 32, 110, 111, 116, 104, 105, 110, 103, 63] =
    0x5BDCC146BF60754E6A042426089575C75A003F089D2739839DEC58B964EC3843 := by decide +kernel

/-- FIPS 197, appendices C.1 and C.3. -/
theorem test_aes : aes (toBE 16 0x000102030405060708090A0B0C0D0E0F) 0x00112233445566778899AABBCCDDEEFF = 0x69C4E0D86A7B0430D8CDB78070B4C55A ∧
    aes (toBE 32 0x000102030405060708090A0B0C0D0E0F101112131415161718191A1B1C1D1E1F) 0x00112233445566778899AABBCCDDEEFF =
      0x8EA2B7CA516745BFEAFC49904B496089 := by decide +kernel

/-- The GCM specification's test case 1: the tag of nothing under the zero key. -/
theorem test_gmac : gmac (zeros 16) (zeros 12) [] = 0x58E2FCCEFA7E3061367F1D57A4E7455A := by decide +kernel

/-! ## One step each -/

/-- spec/02 R81: a command whose row asks for more privilege than its session has is answered PRIVILEGE, and changes nothing but the reply. -/
theorem test_privilege_is_checked : (frontCheck specOptionBurn (asked specOptionBurn (ask (zeros 68)))
    { ready 5 with cp := { (ready 5).cp with sessions := [(0, { isOpen := true, gen := 1, verMajor := 3, verMinor := 2, priv := 1 })] } }) =
      some (0x0202, 0) := by decide +kernel

/-- The first edge of an idle device advances its time by 0.8 ns (spec/01 R30). -/
theorem test_idle_edge : (match step (ready 4) with | .next t => t.clk.edges | _ => 0) = 1 := by decide +kernel

end Sys2Proof.Tests
end

section
/-! PROOF. What a write of JOURNAL_CONSUMER leaves in the register: the field's 20 bits (R493), for the bits above it are reserved and a write to
them is ignored (R15). -/

namespace Sys2Proof.Machine

variable (s : State)

/-! ## What leaves the journal consumer alone -/

@[simp] theorem settleLoss_consumer : (settleLoss s).jr.consumer = s.jr.consumer := by
  unfold settleLoss
  split
  · rfl
  · split <;> rfl

@[simp] theorem jRecord_consumer (stamp qns src cause sup : Nat) (payload : List Byte) :
    (jRecord stamp qns src cause sup payload s).jr.consumer = s.jr.consumer := by
  unfold jRecord
  split
  · rfl
  · dsimp only
    split <;> simp

@[simp] theorem fire_consumer (src cause : Nat) (payload : List Byte) :
    (fire src cause payload s).jr.consumer = s.jr.consumer := by
  unfold fire fireStamp
  split
  · rfl
  · dsimp only
    split <;> split <;> simp

@[simp] theorem journalHoldoff_consumer : (journalHoldoff s).jr.consumer = s.jr.consumer := by
  unfold journalHoldoff
  split <;> simp

/-! ## The write itself -/

/-- R493's test of a value for the register: the journal is enabled, the value lies below the ring's size, and not past the producer. -/
def consumerFits (v : Nat) : Bool :=
  s.jr.enable && decide (v < jSize s) && decide ((v + jSize s - s.jr.consumer) % jSize s ≤ jUnread s)

/-- The register takes the field's 20 bits of what is written (R15), where they fit. -/
theorem journalConsumer_consumer_of_fits (be v0 v : Nat) (hv : merge be s.jr.consumer v0 % 2 ^ 20 = v) (hfits : consumerFits s v = true) :
    (journalConsumer be v0 s).jr.consumer = v := by
  simp only [consumerFits, Bool.and_eq_true, decide_eq_true_eq] at hfits
  obtain ⟨⟨henable, hsize⟩, hunread⟩ := hfits
  simp only [journalConsumer, hv]
  split
  · case isTrue hreject =>
      simp only [henable, Bool.not_true, Bool.false_or, Bool.or_eq_true, decide_eq_true_eq] at hreject
      omega
  · rw [settleLoss_consumer, journalHoldoff_consumer]
    split <;> rfl

theorem regWrite_journalConsumer (be v0 : Nat) : regWrite 0x204 be v0 s = journalConsumer be v0 s := by
  unfold regWrite
  rw [if_neg (by decide), if_pos rfl]

theorem hostWrite_of_contiguous (off be v : Nat) (hup : windowUp s = true) (hclk : s.clk.coreStopped = false) (hbe : contiguous be = true) :
    hostWrite off be v s = regWrite off be v s := by
  simp [hostWrite, hup, hclk, hbe]

theorem exec_journalConsumerWrite (be v0 : Nat) (hup : windowUp s = true) (hclk : s.clk.coreStopped = false) (hbe : contiguous be = true) :
    exec (.journalConsumerWrite be v0) s = .next (journalConsumer be v0 s) := by
  rw [← regWrite_journalConsumer, ← hostWrite_of_contiguous s 0x204 be v0 hup hclk hbe]
  rfl

/-! ## A write with a reserved bit set -/

/-- An enabled journal with a ring of 1,024 records, R424's least: one is written, and host software has yet to read it. -/
def oneRecordUnread : State :=
  { State.reset with
    pcie := { State.reset.pcie with released := true, up := true }
    clk := { State.reset.clk with coreRunning := true }
    jr := { State.reset.jr with enable := true, sizeLog2 := 10, producer := 1 } }

/-- Refutes O20: a write of JOURNAL_CONSUMER with index 1 in the field and the reserved bit 20 set. The model ignores the reserved bit, as R15 has it,
and frees the record; the statement takes the bit for a part of the value, which then lies past the ring's end, and wants the write ignored. -/
theorem not_windowWritesChangeTheirRegister : ¬ Obligations.WindowWritesChangeTheirRegister := by
  unfold Obligations.WindowWritesChangeTheirRegister
  rintro ⟨-, -, hconsumer, -, -⟩
  have hup : windowUp oneRecordUnread = true := by decide +kernel
  have hclk : oneRecordUnread.clk.coreStopped = false := by decide +kernel
  have hbe : contiguous 0xF = true := by decide
  have hwhole : consumerFits oneRecordUnread (merge 0xF oneRecordUnread.jr.consumer 0x100001) = false := by decide +kernel
  have hfield : merge 0xF oneRecordUnread.jr.consumer 0x100001 % 2 ^ 20 = 1 := by decide +kernel
  have hfits : consumerFits oneRecordUnread 1 = true := by decide +kernel
  have hignored : exec (.journalConsumerWrite 0xF 0x100001) oneRecordUnread = .next (fire 0x3C4 0x02 (toLE 4 0x0204) oneRecordUnread) :=
    (hconsumer 0xF 0x100001 oneRecordUnread hup hclk hbe).2 hwhole
  rw [exec_journalConsumerWrite oneRecordUnread 0xF 0x100001 hup hclk hbe, Host.Outcome.next.injEq] at hignored
  have hkept : oneRecordUnread.jr.consumer = 1 := by
    rw [← journalConsumer_consumer_of_fits oneRecordUnread 0xF 0x100001 1 hfield hfits, hignored, fire_consumer]
  exact absurd hkept (by decide +kernel)

end Sys2Proof.Machine
end

section
/-! PROOF. Gate intervals, the takeover of a committed gate list, and the verification of preemption (spec/10 R339, R342, R345, R357). -/

namespace Sys2Proof.Machine

variable (s : State) (p : Nat)

/-! ## Gate lists -/

/-- The end of the interval in force: that of the first span past the position, or of the cycle where none is. -/
theorem nextGateNs_of_active (g : GateList) (hg : (port s p).drill.active = some g) :
    nextGateNs s p = some (nowNs s +
      ((((spans g).find? (fun e => decide (gatePos g (nowNs s) < e.2.2))).map (·.2.2)).getD g.cycle - gatePos g (nowNs s))) := by
  rw [nextGateNs, hg, Option.map_some]
  cases hspan : (spans g).find? (fun e => decide (gatePos g (nowNs s) < e.2.2)) with
  | none => simp only [hspan, Option.map_none, Option.getD_none]
  | some e => simp only [hspan, Option.map_some, Option.getD_some]

theorem exec_gateTransition (t : Nat) (hclk : s.clk.coreStopped = false) (ht : nextGateNs s p = some t) :
    exec (.gateTransition p) s = .next (reachNs t (touchPort p false (reachNs (t - 1000) s))) := by
  change execGateTransition p s = _
  simp only [execGateTransition, hclk, ht, Bool.false_eq_true, if_false]

/-- The three lists of a port at a takeover (R342). -/
def listsSwapped (c : GateCommit) (d : Drill) : Drill :=
  { d with active := commitList d c, idle := pendingList d c, pend := d.active.getD d.idle, commit := none }

theorem exec_gateListTakeover (c : GateCommit) (hclk : s.clk.coreStopped = false) (hc : (port s p).drill.commit = some c) :
    exec (.gateListTakeover p) s = .next (complete c.ticket stOk
      (toLE 8 (nowT64 (reachNs (takeoverNs (port s p).drill c) s)) ++ toLE 2 c.length ++ zeros 6)
      (drillFind p 0x20 [] (touchPort p false (modDrill p (listsSwapped c) (reachNs (takeoverNs (port s p).drill c) s))))) := by
  change execGateListTakeover p s = _
  simp only [execGateListTakeover, hclk, hc, Bool.false_eq_true, if_false]
  rfl

/-! ## Verification (R345) -/

/-- The time of the next verify mPacket, or of the failure: at once for the first, else a verify time after the last. -/
def verifyDue : State :=
  let y := (port s p).drill.pre
  reachEdge (y.sentAt + (if y.sends = 0 then 0 else y.verifyTime * msE)) s

section verifying
variable (hclk : s.clk.coreStopped = false) (hstate : (port s p).drill.pre.state = 1)
include hclk hstate

theorem exec_verifyTimer_of_sends_lt (hup : (port s p).link.txUp = true) (hsends : (port s p).drill.pre.sends < 3) :
    exec (.verifyTimer p) s = .next (emitOut (.control p [0x07]) (dctr 14 p (modDrill p (fun d =>
      { d with pre := { d.pre with sends := d.pre.sends + 1, sentAt := (verifyDue s p).clk.edges } }) (verifyDue s p)))) := by
  change execVerifyTimer p s = _
  simp [execVerifyTimer, hclk, hstate, hup, hsends, verifyDue]

theorem exec_verifyTimer_of_sends_ge (hup : (port s p).link.txUp = true) (hsends : 3 ≤ (port s p).drill.pre.sends) :
    exec (.verifyTimer p) s =
      .next (drillFind p 0x23 [] (modDrill p (fun d => { d with pre := { d.pre with state := 3 } }) (verifyDue s p))) := by
  change execVerifyTimer p s = _
  simp [execVerifyTimer, hclk, hstate, hup, Nat.not_lt.mpr hsends, verifyDue]

theorem exec_verifyRespondRx_of_sent (hsends : (port s p).drill.pre.sends ≠ 0) :
    exec (.verifyRespondRx p) s = .next (drillFind p 0x22 [] (modDrill p (fun d => { d with pre := { d.pre with state := 2 } }) s)) := by
  change execVerifyRespondRx p s = _
  simp [execVerifyRespondRx, hclk, hstate, hsends]

end verifying

theorem exec_verifyMpacketRx (hclk : s.clk.coreStopped = false) :
    exec (.verifyMpacketRx p) s =
      .next (if (port s p).drill.pre.enable = true ∧ (port s p).link.rxUp = true then emitOut (.control p [0x19]) s else s) := by
  change execVerifyMpacketRx p s = _
  simp [execVerifyMpacketRx, hclk]

/-- Settles O40: clause by clause, what each command does in the case that the clause names. -/
theorem gatesAndPreemptionVerifyAsDefined : Obligations.GatesAndPreemptionVerifyAsDefined := by
  unfold Obligations.GatesAndPreemptionVerifyAsDefined
  refine ⟨?_, ?_, ?_, ?_, ?_⟩
  · intro p g s hclk pos stop t hg
    exact exec_gateTransition s p t hclk (nextGateNs_of_active s p g hg)
  · intro p c s hclk d s1 hc
    exact exec_gateListTakeover s p c hclk hc
  · intro p s hclk y s1 hstate hup
    exact ⟨exec_verifyTimer_of_sends_lt s p hclk hstate hup, exec_verifyTimer_of_sends_ge s p hclk hstate hup⟩
  · intro p s hclk hstate hsends
    exact exec_verifyRespondRx_of_sent s p hclk hstate hsends
  · intro p s hclk
    exact exec_verifyMpacketRx s p hclk

end Sys2Proof.Machine
end

section
/-! PROOF. Losses of the crystal, of a PLL, of a rail and of VBAK (spec/01 R28, R31; spec/11 R375, R387; spec/14 R480; spec/17 R530, R532). -/

namespace Sys2Proof.Machine

/-! ## What an operation leaves of a view of the state

A view collects the fields that a statement speaks of. That an operation leaves a view is one equation, with which `simp` walks through the operations
that it is built from. -/

/-- A view that each step of a fold leaves is left by the fold. -/
theorem view_foldl {α β : Type} {view : State → β} {f : State → α → State} (hf : ∀ t x, view (f t x) = view t) (l : List α) (s : State) :
    view (l.foldl f s) = view s := by
  induction l generalizing s with
  | nil => rfl
  | cons x r ih => rw [List.foldl_cons, ih, hf]

variable (s : State)

/-! ## SAFE with cause 0x03 (R31) -/

/-- Without a running shared core clock an edge passes and nothing else. -/
theorem advance_of_stopped (n : Nat) (hclk : s.clk.coreStopped = true) :
    advance n s = { s with clk := { s.clk with edges := s.clk.edges + n } } := by
  simp [advance, coreLive, hclk]

theorem reachEdge_of_stopped (e : Nat) (hclk : s.clk.coreStopped = true) (he : s.clk.edges ≤ e) :
    reachEdge e s = { s with clk := { s.clk with edges := e } } := by
  rw [reachEdge, advance_of_stopped s _ hclk, Nat.add_sub_cancel' he]

/-- The fallow clock edge that a mirror refresh waits for lies ahead. -/
theorem edges_le_fallowEdge (e : Nat) : e ≤ (e / 800 + 1) * 800 := by omega

/-- The mirrors copy nothing of themselves. -/
theorem mirrorOf_mirrorEdge : mirrorOf (mirrorEdge s) = (mirrorEdge s).mir := rfl

theorem safeStop_dev : (safeStop s).dev = { s.dev with state := 6, lastChange := nowT64 s, safeCause := 3, relStopped := true, retrain := none } :=
  reachEdge_dev _ _

theorem safeStop_clk : (safeStop s).clk = { s.clk with coreStopped := true, edges := (s.clk.edges / 800 + 1) * 800 } :=
  congrArg State.clk (reachEdge_of_stopped _ _ rfl (edges_le_fallowEdge _))

theorem safeStop_mir : (safeStop s).mir = mirrorOf (safeStop s) := (mirrorOf_mirrorEdge _).symm

theorem safeStop_cp : (safeStop s).cp = { s.cp with running := false, serving := false, reloading := false, reloadAsked := false } :=
  reachEdge_cp _ _

theorem safeStop_fa : (safeStop s).fa = { s.fa with released := false } := reachEdge_fa _ _
theorem safeStop_fb : (safeStop s).fb = { s.fb with released := false } := reachEdge_fb _ _

theorem safeStop_slices :
    (safeStop s).slices = { s.slices with running := 0, requested := 0, coreA := false, coreB := false, bedClocks := 0 } :=
  reachEdge_slices _ _

theorem safeStop_ports : (safeStop s).ports = tmap {} s.ports (fun x => { x with
    link := { x.link with rxUp := false, txUp := false, phase := 0 }, drill := { x.drill with tx := none } }) :=
  reachEdge_ports _ _

theorem safeStop_hl : (safeStop s).hl = s.hl := reachEdge_hl _ _
theorem safeStop_frames : (safeStop s).frames = s.frames := reachEdge_frames _ _
theorem safeStop_gran : (safeStop s).gran = s.gran := reachEdge_gran _ _
theorem safeStop_nv : (safeStop s).nv = s.nv := reachEdge_nv _ _
theorem safeStop_sup : (safeStop s).sup = s.sup := reachEdge_sup _ _
theorem safeStop_deep : (safeStop s).deep = { s.deep with training := none } := reachEdge_deep _ _
theorem safeStop_pending : (safeStop s).pending = s.pending := reachEdge_pending _ _

theorem exec_xtalFalStop (hrel : s.dev.relStep ≠ 0) (hxtal : s.clk.xtalOk = true) : exec .xtalFalStop s = .next (safeStop { s with
    clk := { s.clk with xtalOk := false, intOsc := true, lockSh := false, lockFa := false, lockFb := false, lockHl := false, lockDs := false }
    hl := { s.hl with running := false } }) := by
  change execXtalFalStop s = _
  simp only [execXtalFalStop, hxtal, Bool.not_true, Bool.or_false, decide_eq_true_eq, if_neg hrel]
  rfl

theorem exec_pllShLockLoss (hlock : s.clk.lockSh = true) :
    exec .pllShLockLoss s = .next (safeStop { s with clk := { s.clk with lockSh := false } }) := by
  change execPllShLockLoss s = _
  rw [execPllShLockLoss, if_pos hlock]
  rfl

/-! ## Furrow and Headland clocks, and rails -/

theorem exec_furrowPllLockLoss (f : Furrow) (hlock : (if furNo f = 0 then s.clk.lockFa else s.clk.lockFb) = true) :
    exec (.furrowPllLockLoss f) s = .next (raiseAlarm (furNo f) 3 (setLock (furNo f) false s)) := by
  change execFurrowPllLockLoss f s = _
  simp only [execFurrowPllLockLoss, hlock, if_true]

theorem exec_headlandPllLoss (hlock : s.clk.lockHl = true) : exec .headlandPllLoss s =
    .next (fire 0x1E7 0x02 [] { s with clk := { s.clk with lockHl := false }, hl := { s.hl with running := false } }) := by
  change execHeadlandPllLoss s = _
  rw [execHeadlandPllLoss, if_pos hlock]
  rfl

/-- The rail of a furrow is outside its range. -/
def railOut (f : Nat) : State := { s with sup := if f = 0 then { s.sup with faOk := false } else { s.sup with fbOk := false } }

theorem exec_railMonitor (f : Furrow) (hrel : 6 ≤ s.dev.relStep) (hrun : s.hl.running = true) (hnew : bit (alarms s (furNo f)) 4 = false) :
    exec (.railMonitor f) s = .next (fire 0x1E8 0 [] (raiseAlarm (furNo f) 4 (railOut s (furNo f)))) := by
  change execRailMonitor f s = _
  simp only [execRailMonitor, hrun, hnew, Nat.not_lt.mpr hrel, decide_false, Bool.not_true, Bool.or_self, Bool.false_eq_true, if_false]
  rfl

/-! ## Supplies, at most once per second (R532) -/

theorem fireLim_of_not_limited (interval sub src : Nat) (go : State → State) (h : limited (src + 1024 * sub) interval s = false) :
    fireLim interval sub go src s = go { s with ev := { s.ev with lastFire := tput s.ev.lastFire (src + 1024 * sub) s.clk.edges } } := by
  simp only [fireLim, h, Bool.false_eq_true, if_false]

theorem exec_supplyOverRange (rail : Nat) (hrail : rail < 8) (hrel : s.dev.relStep ≠ 0) (hlim : limited (0x3CB + 1024 * rail) secE s = false) :
    exec (.supplyOverRange rail) s = .next (fire 0x3CB 0 (toLE 1 rail)
      { s with ev := { s.ev with lastFire := tput s.ev.lastFire (0x3CB + 1024 * rail) s.clk.edges } }) := by
  change execSupplyOverRange rail s = _
  rw [execSupplyOverRange, if_pos (by simp [hrail, hrel]), fireLim_of_not_limited s secE rail 0x3CB _ hlim]

theorem exec_vbakLow (hrel : s.dev.relStep ≠ 0) (hlim : limited 0x3CC secE s = false) :
    exec .vbakLow s = .next (fire 0x3CC 0 [] { s with ev := { s.ev with lastFire := tput s.ev.lastFire 0x3CC s.clk.edges } }) := by
  change execVbakLow s = _
  rw [execVbakLow, if_neg hrel, fireLim_of_not_limited s secE 0 0x3CC _ hlim]

/-! ## The fall of a rail (R28): what the return of copies, lane entries and spill records leaves -/

/-- Supplies, clocks, and of each furrow its release and its half of the records in the deep store. -/
def powerView (s : State) : Supply × Clocks × Slices × (Bool × Table (List Byte)) × (Bool × Table (List Byte)) :=
  (s.sup, s.clk, s.slices, (s.fa.released, s.fa.deepRecs), (s.fb.released, s.fb.deepRecs))

@[simp] theorem powerView_modGran (g : Granary → Granary) : powerView (modGran g s) = powerView s := rfl
@[simp] theorem powerView_modDeep (g : Deep → Deep) : powerView (modDeep g s) = powerView s := rfl
@[simp] theorem powerView_modQueue (q : Nat) (g : Queue → Queue) : powerView (modQueue q g s) = powerView s := rfl
@[simp] theorem powerView_fire (src cause : Nat) (b : List Byte) : powerView (fire src cause b s) = powerView s := by simp [powerView]

@[simp] theorem powerView_modHalf (h : Nat) (g : Half → Half) : powerView (modHalf h g s) = powerView s := by
  unfold modHalf; split <;> rfl

@[simp] theorem powerView_gctr (k h : Nat) : powerView (gctr k h s) = powerView s := powerView_modHalf s h _

@[simp] theorem powerView_modFrame (u : Nat) (g : Frame → Frame) : powerView (modFrame u g s) = powerView s := by
  unfold modFrame; split <;> rfl

@[simp] theorem powerView_modCopy (u h : Nat) (g : Copy → Copy) : powerView (modCopy u h g s) = powerView s := powerView_modFrame s u _

/-- An update of a furrow that leaves its release and its records. -/
theorem powerView_modFur (f : Nat) (g : FurrowSt → FurrowSt) (hg : ∀ x, (g x).released = x.released ∧ (g x).deepRecs = x.deepRecs) :
    powerView (modFur f g s) = powerView s := by
  unfold modFur powerView
  split
  · simp only [hg s.fa]
  · simp only [hg s.fb]

@[simp] theorem powerView_dropEntries (u h f : Nat) (keep : Bool) : powerView (dropEntries u h f keep s) = powerView s :=
  powerView_modFur s f _ fun _ => ⟨rfl, rfl⟩

@[simp] theorem powerView_cutSpillEntries (u : Nat) : powerView (cutSpillEntries u s) = powerView s :=
  (powerView_modFur _ 1 _ fun _ => ⟨rfl, rfl⟩).trans (powerView_modFur s 0 _ fun _ => ⟨rfl, rfl⟩)

@[simp] theorem powerView_giveDesc (d : Nat) : powerView (giveDesc d s) = powerView s := by
  unfold giveDesc descWatch
  repeat' split
  all_goals simp

@[simp] theorem powerView_reap (u : Nat) : powerView (reap u s) = powerView s := by
  unfold reap
  extract_lets x s1
  have h1 : powerView s1 = powerView s := by
    unfold s1
    split <;> simp
  split
  · rfl
  · split <;> exact h1

@[simp] theorem powerView_freeCopy (u h : Nat) : powerView (freeCopy u h s) = powerView s := by
  unfold freeCopy
  dsimp only
  split
  · rfl
  · split <;> simp

@[simp] theorem powerView_noteRest (u : Nat) : powerView (noteRest u s) = powerView s := by
  unfold noteRest
  dsimp only
  split <;> simp

@[simp] theorem powerView_tryReturn (u h : Nat) : powerView (tryReturn u h s) = powerView s := by
  unfold tryReturn
  dsimp only
  split
  · simp
  · split <;> simp

@[simp] theorem powerView_unqueue (u : Nat) : powerView (unqueue u s) = powerView s := by
  unfold unqueue
  dsimp only
  split <;> simp

@[simp] theorem powerView_ringAdvance (n k : Nat) : powerView (ringAdvance n k s) = powerView s := by
  induction k generalizing s with
  | zero => rfl
  | succ k ih =>
    unfold ringAdvance
    dsimp only
    repeat' split
    all_goals simp [ih]

@[simp] theorem powerView_trainGo : powerView (trainGo s) = powerView s := by
  unfold trainGo
  repeat' split
  all_goals simp

@[simp] theorem powerView_freeSpill (u : Nat) : powerView (freeSpill u s) = powerView s := by
  unfold freeSpill
  simp only [powerView_trainGo, powerView_tryReturn, powerView_modFrame]
  repeat' split
  all_goals simp

@[simp] theorem powerView_unspill (u : Nat) : powerView (unspill u s) = powerView s := by
  unfold unspill
  dsimp only
  split <;> simp

@[simp] theorem powerView_unhold (u h : Nat) : powerView (unhold u h s) = powerView s := by
  unfold unhold
  split <;> simp

@[simp] theorem powerView_dropCopy (u h : Nat) : powerView (dropCopy u h s) = powerView s := by simp [dropCopy]

@[simp] theorem powerView_halfLost (h : Nat) : powerView (halfLost h s) = powerView s :=
  view_foldl (fun t e => by simp) _ s

@[simp] theorem powerView_lostEntries (x : Nat) : powerView (lostEntries x s) = powerView s := by
  unfold lostEntries
  refine (view_foldl (fun t e => ?_) _ _).trans (powerView_modFur s x _ fun _ => ⟨rfl, rfl⟩)
  split <;> simp

@[simp] theorem powerView_setFlush (f : Nat) (v : Option (Nat × Nat)) : powerView (setFlush f v s) = powerView s := rfl

theorem powerView_railFell (n : Nat) : powerView (railFell n s) = powerView s := by
  unfold railFell
  dsimp only
  repeat' split
  all_goals simp

/-! ### The end of a lane flush completes a turn and leaves supplies, clocks and furrows -/

theorem flushOver_frame (x : Nat) : (flushOver x s).sup = s.sup ∧ (flushOver x s).clk = s.clk ∧ (flushOver x s).slices = s.slices ∧
    ∀ f, fur (flushOver x s) f = fur s f := by
  unfold flushOver turnDone
  repeat' split
  all_goals simp [modHl, fur]

/-! ### The clocks of an island -/

theorem bit_eq_testBit (v i : Nat) : bit v i = v.testBit i := by
  rw [Nat.testBit_eq_decide_div_mod_eq, bit, Nat.shiftRight_eq_div_pow, beq_eq_decide]

theorem setBit_false (v j : Nat) : setBit v j false = if bit v j then v - 2 ^ j else v := by
  unfold setBit
  cases bit v j <;> rfl

theorem bit_setBit_false_same (v j : Nat) : bit (setBit v j false) j = false := by
  rw [setBit_false]
  split
  · next hj =>
    rw [bit_eq_testBit] at hj ⊢
    have hv : 2 ^ j + (v - 2 ^ j) = v := Nat.add_sub_cancel' (Nat.ge_two_pow_of_testBit hj)
    rw [← hv, Nat.testBit_two_pow_add_eq, Bool.not_eq_true'] at hj
    exact hj
  · next hj => exact Bool.not_eq_true _ ▸ hj

theorem bit_setBit_false_lower (v : Nat) {i j : Nat} (hij : i < j) : bit (setBit v j false) i = bit v i := by
  rw [setBit_false]
  split
  · next hj =>
    rw [bit_eq_testBit] at hj
    have hv : 2 ^ j + (v - 2 ^ j) = v := Nat.add_sub_cancel' (Nat.ge_two_pow_of_testBit hj)
    rw [bit_eq_testBit, bit_eq_testBit, ← Nat.testBit_two_pow_add_gt hij, hv]
  · rfl

/-- Consecutive bits cleared, lowest first. -/
theorem bit_clear_range (a n v i : Nat) (hi : i < n) : bit ((List.range n).foldl (fun m k => setBit m (a + k) false) v) (a + i) = false := by
  induction n with
  | zero => omega
  | succ n ih =>
    rw [List.range_succ, List.foldl_append, List.foldl_cons, List.foldl_nil]
    rcases Nat.lt_succ_iff_lt_or_eq.mp hi with hlt | rfl
    · rw [bit_setBit_false_lower _ (by omega), ih hlt]
    · exact bit_setBit_false_same _ _

theorem clocksOff_running (x i : Nat) (hi : i < 4) : bit (clocksOff x s).slices.running (4 + 4 * x + i) = false :=
  bit_clear_range (4 + 4 * x) 4 _ i hi

/-! ### The rail of a fenced island -/

/-- What a furrow keeps without power: its half of the records, in the deep store; its Harrow banks are to be loaded again. -/
def unpoweredFur (x : FurrowSt) : FurrowSt := { released := x.released, deepRecs := x.deepRecs, harrowStale := true }

/-- A furrow's rail has fallen. -/
def railDown (n : Nat) : State :=
  { s with sup := if n = 0 then { s.sup with poweredA := false, faOk := false } else { s.sup with poweredB := false, fbOk := false } }

theorem furrowRailLoss_of_fenced (n : Nat) (hfenced : furState s n = 1) (hpower : powered s n = true) :
    furrowRailLoss n s = flushOver n (clocksOff n (railDown (modFur n unpoweredFur (railFell n s)) n)) := by
  simp only [furrowRailLoss, hfenced, hpower, bne_self_eq_false, Bool.not_true, Bool.or_self, Bool.false_eq_true, if_false]
  rfl

theorem powerView_eq_iff (t : State) : powerView t = powerView s ↔ t.sup = s.sup ∧ t.clk = s.clk ∧ t.slices = s.slices ∧
    (t.fa.released = s.fa.released ∧ t.fa.deepRecs = s.fa.deepRecs) ∧ (t.fb.released = s.fb.released ∧ t.fb.deepRecs = s.fb.deepRecs) := by
  simp only [powerView, Prod.mk.injEq]

theorem furrowRailLoss_running (n i : Nat) (hfenced : furState s n = 1) (hpower : powered s n = true) (hi : i < 4) :
    bit (furrowRailLoss n s).slices.running (4 + 4 * n + i) = false := by
  obtain ⟨-, -, hslices, -⟩ := flushOver_frame (clocksOff n (railDown (modFur n unpoweredFur (railFell n s)) n)) n
  rw [furrowRailLoss_of_fenced s n hfenced hpower, hslices]
  exact clocksOff_running _ n i hi

theorem furrowRailLoss_island (n : Nat) (hfenced : furState s n = 1) (hpower : powered s n = true) :
    fur (furrowRailLoss n s) n = unpoweredFur (fur s n) ∧ (furrowRailLoss n s).sup = (railDown s n).sup ∧
    (furrowRailLoss n s).clk = (setLock n false s).clk ∧
    (if n = 0 then (furrowRailLoss n s).slices.coreA else (furrowRailLoss n s).slices.coreB) = false := by
  obtain ⟨hsup, hclk, -, ⟨hrelA, hrecsA⟩, ⟨hrelB, hrecsB⟩⟩ := (powerView_eq_iff s _).mp (powerView_railFell s n)
  obtain ⟨hsup', hclk', hslices', hfur'⟩ := flushOver_frame (clocksOff n (railDown (modFur n unpoweredFur (railFell n s)) n)) n
  rw [furrowRailLoss_of_fenced s n hfenced hpower, hsup', hclk', hslices', hfur']
  rcases eq_or_ne n 0 with rfl | hn
  · simp [clocksOff, setCore, setLock, railDown, fur, modFur, unpoweredFur, hsup, hclk, hrelA, hrecsA]
  · simp [hn, clocksOff, setCore, setLock, railDown, fur, modFur, unpoweredFur, hsup, hclk, hrelB, hrecsB]

/-! ## The loss of the deep store PLL (R31, R480) -/

/-- The clocks, and the states of the two channels. -/
def chanView (s : State) : Clocks × Nat × Nat := (s.clk, s.deep.ch0.state, s.deep.ch1.state)

@[simp] theorem chanView_fire (src cause : Nat) (b : List Byte) : chanView (fire src cause b s) = chanView s := by simp [chanView]
@[simp] theorem chanView_fireMs (sub src cause : Nat) (b : List Byte) : chanView (fireMs sub src cause b s) = chanView s := by simp [chanView]

/-- An update of a channel that leaves its state. -/
@[simp] theorem chanView_modChan (c : Nat) (g : Chan → Chan) (hg : ∀ x, (g x).state = x.state) : chanView (modChan c g s) = chanView s := by
  unfold modChan chanView
  split
  · simp only [modDeep_clk, modDeep_deep, hg s.deep.ch0]
  · simp only [modDeep_clk, modDeep_deep, hg s.deep.ch1]

@[simp] theorem chanView_modSched (c : Nat) (g : Sched → Sched) : chanView (modSched c g s) = chanView s :=
  chanView_modChan s c _ fun _ => rfl

@[simp] theorem chanView_takeTurn (c : Nat) : chanView (takeTurn c s) = chanView s := by
  unfold takeTurn
  dsimp only
  repeat' split
  all_goals simp

@[simp] theorem chanView_takeRequest (c e : Nat) : chanView (takeRequest c e s) = chanView s := by
  unfold takeRequest takePatrol
  dsimp only
  repeat' split
  all_goals simp

@[simp] theorem chanView_sampleAct (c client rank bank group : Nat) : chanView (sampleAct c client rank bank group s) = chanView s := by
  unfold sampleAct
  dsimp only
  repeat' split
  all_goals simp

@[simp] theorem chanView_countAct (c client rank bank group : Nat) : chanView (countAct c client rank bank group s) = chanView s := by
  unfold countAct
  dsimp only
  split <;> simp

@[simp] theorem chanView_throttleHold (c : Nat) : chanView (throttleHold c s) = chanView s := by
  refine view_foldl (fun t e => ?_) _ s
  repeat' split
  all_goals simp

@[simp] theorem chanView_dramCommand (c : Nat) : chanView (dramCommand c s) = chanView s := by
  unfold dramCommand
  dsimp only
  split
  · exact chanView_modChan s c _ fun _ => rfl
  split
  · exact chanView_modSched s c _
  split
  · rw [chanView_countAct, chanView_modSched]
  · exact chanView_modSched s c _
  split
  · exact chanView_modChan s c _ fun _ => rfl
  · rfl

@[simp] theorem chanView_runClocks (c m n : Nat) : chanView (runClocks c m n s) = chanView s := by
  induction n generalizing s with
  | zero => rfl
  | succ n ih =>
    unfold runClocks
    split
    · simp [ih, dramClock]
    · simp

@[simp] theorem chanView_syncDram (c : Nat) : chanView (syncDram c s) = chanView s := by simp [syncDram]

theorem chanView_chanFail (c cause : Nat) : chanView (chanFail c cause s) =
    if c = 0 then (s.clk, 5, s.deep.ch1.state) else (s.clk, s.deep.ch0.state, 5) := by
  have hsync : chanView (syncDram c s) = chanView s := chanView_syncDram s c
  simp only [chanView, Prod.mk.injEq] at hsync
  obtain ⟨hclk, hch0, hch1⟩ := hsync
  rw [chanFail, chanView_fire, chanView, modChan]
  split <;> simp [hclk, hch0, hch1]

/-- A channel's state once its PLL is lost: one that has started fails. -/
def stateAfterLoss (n : Nat) : Nat := if 2 ≤ n ∧ n ≤ 4 then 5 else n

/-- A channel that has started fails with the loss of its PLL. -/
def failStarted (c : Nat) : State := if 2 ≤ (chan s c).state && (chan s c).state ≤ 4 then chanFail c 3 s else s

theorem chanView_failStarted_zero : chanView (failStarted s 0) = (s.clk, stateAfterLoss s.deep.ch0.state, s.deep.ch1.state) := by
  simp only [failStarted, stateAfterLoss, chan, if_pos, Bool.and_eq_true, decide_eq_true_eq]
  split
  · exact chanView_chanFail s 0 3
  · rfl

theorem chanView_failStarted_one : chanView (failStarted s 1) = (s.clk, s.deep.ch0.state, stateAfterLoss s.deep.ch1.state) := by
  simp only [failStarted, stateAfterLoss, chan, one_ne_zero, if_false, Bool.and_eq_true, decide_eq_true_eq]
  split
  · exact chanView_chanFail s 1 3
  · rfl

theorem exec_deepStorePllLockLoss (hlock : s.clk.lockDs = true) : exec .deepStorePllLockLoss s =
    .next (if s.clk.coreStopped then { s with clk := { s.clk with lockDs := false } }
      else failStarted (failStarted { s with clk := { s.clk with lockDs := false } } 0) 1) := by
  change execDeepStorePllLockLoss s = _
  simp only [execDeepStorePllLockLoss, hlock, Bool.not_true, Bool.false_eq_true, if_false]
  split <;> rfl

/-- Both channels after the loss, by the view. -/
theorem chanView_failStarted_both : chanView (failStarted (failStarted s 0) 1) =
    (s.clk, stateAfterLoss s.deep.ch0.state, stateAfterLoss s.deep.ch1.state) := by
  have h0 : chanView (failStarted s 0) = _ := chanView_failStarted_zero s
  simp only [chanView, Prod.mk.injEq] at h0
  obtain ⟨hclk, hch0, hch1⟩ := h0
  rw [chanView_failStarted_one, hclk, hch0, hch1]

theorem chan_state_failStarted_both (c : Nat) : (chan (failStarted (failStarted s 0) 1) c).state = stateAfterLoss (chan s c).state := by
  have hview : chanView (failStarted (failStarted s 0) 1) = _ := chanView_failStarted_both s
  simp only [chanView, Prod.mk.injEq] at hview
  obtain ⟨-, hch0, hch1⟩ := hview
  unfold chan
  split
  · exact hch0
  · exact hch1

/-- Settles O12: clause by clause, what each loss comes to. With the shared core clock stopped, what it times acts no more: each such command begins
with that test. -/
theorem clockAndSupplyLossesTakeEffect : Obligations.ClockAndSupplyLossesTakeEffect := by
  unfold Obligations.ClockAndSupplyLossesTakeEffect
  refine ⟨exec_xtalFalStop, exec_pllShLockLoss, ?safe, ?stays, ?pllA, ?pllB, exec_headlandPllLoss, ?railA, ?railB, ?overRange, exec_vbakLow,
    ?railLoss, ?deepStopped, ?deep⟩
  case safe =>
    intro s t
    exact ⟨safeStop_dev s, safeStop_clk s, safeStop_mir s, safeStop_cp s, safeStop_fa s, safeStop_fb s, safeStop_slices s, safeStop_ports s,
      safeStop_hl s, safeStop_frames s, safeStop_gran s, safeStop_nv s, safeStop_sup s, safeStop_deep s, safeStop_pending s⟩
  case stays =>
    intro s hclk stays
    exact ⟨if_pos hclk, if_pos hclk, if_pos hclk, if_pos hclk, if_pos hclk,
      fun _ => ⟨if_pos hclk, if_pos hclk, if_pos hclk, if_pos hclk, if_pos hclk, if_pos hclk, if_pos hclk, if_pos hclk⟩,
      fun _ => ⟨if_pos hclk, if_pos hclk, fun _ _ => if_pos hclk⟩, fun _ _ => if_pos hclk, fun _ _ => ⟨if_pos hclk, if_pos hclk⟩,
      fun _ _ _ => if_pos hclk, fun _ _ _ _ _ _ => if_pos hclk⟩
  case pllA =>
    intro s hlock
    exact exec_furrowPllLockLoss s .a hlock
  case pllB =>
    intro s hlock
    exact exec_furrowPllLockLoss s .b hlock
  case railA =>
    intro s hrel hrun hnew
    exact exec_railMonitor s .a hrel hrun hnew
  case railB =>
    intro s hrel hrun hnew
    exact exec_railMonitor s .b hrel hrun hnew
  case overRange =>
    intro rail s hrail hrel hlim
    exact exec_supplyOverRange s rail hrail hrel hlim
  case railLoss =>
    intro f s hfenced hpower
    obtain ⟨hfur, hsup, hclk, hcore⟩ := furrowRailLoss_island s (furNo f) hfenced hpower
    refine ⟨furrowRailLoss (furNo f) s, rfl, hfur, fun i hi => furrowRailLoss_running s (furNo f) i hfenced hpower hi, ?_⟩
    cases f with
    | a => exact ⟨hsup, hclk, hcore⟩
    | b => exact ⟨hsup, hclk, hcore⟩
  case deepStopped =>
    intro s hlock hclk
    rw [exec_deepStorePllLockLoss s hlock, if_pos hclk]
  case deep =>
    intro s hlock hclk
    refine ⟨_, (exec_deepStorePllLockLoss s hlock).trans (by rw [hclk, if_neg Bool.false_ne_true]), ?_, fun c _ => ?_⟩
    · exact congrArg (fun v => v.1.lockDs) (chanView_failStarted_both { s with clk := { s.clk with lockDs := false } })
    · exact chan_state_failStarted_both { s with clk := { s.clk with lockDs := false } } c

end Sys2Proof.Machine
end

section
/-! PROOF. Sensors, the PCIe link, the wake controller, the fallow mirrors and the scrubber (spec/01 R33-R37, R43, R46; spec/02 R75; spec/12 R402;
spec/15 R490; spec/17 R541, R546, R549). -/

namespace Sys2Proof.Machine

variable (s : State)

/-! ## Sensors (R546, R549) -/

/-- What the reading of a sensor leaves: all but the sensors' values, their latches, and what an event writes. -/
def thermRest (s : State) : Clocks × Supply × Device × Table Port × CmdProc × Table Frame × Headland × Int × Bool × Nat × Nat :=
  (s.clk, s.sup, s.dev, s.ports, s.cp, s.frames, s.hl, s.therm.highest, s.therm.read, s.therm.ms105, s.therm.ms115)

theorem thermPoint_sensors (src hi lo i : Nat) (v : Int) (on : Bool) (set : Bool → State → State)
    (hset : ∀ b t, (set b t).therm.sensors = t.therm.sensors) :
    (thermPoint src hi lo i v on set s).therm.sensors = s.therm.sensors := by
  unfold thermPoint
  dsimp only
  repeat' split
  all_goals simp [hset]

theorem thermRest_thermPoint (src hi lo i : Nat) (v : Int) (on : Bool) (set : Bool → State → State)
    (hset : ∀ b t, thermRest (set b t) = thermRest t) : thermRest (thermPoint src hi lo i v on set s) = thermRest s := by
  have hfire : ∀ cause b t, thermRest (fire src cause b t) = thermRest t := fun _ _ _ => by simp [thermRest]
  unfold thermPoint
  dsimp only
  repeat' split
  all_goals simp [hset, hfire]

theorem thermSensor_sensors (i : Nat) (v : Int) : (thermSensor i v s).therm.sensors = tset 0 s.therm.sensors i v := by
  rw [thermSensor, thermPoint_sensors, thermPoint_sensors] <;> intros <;> rfl

theorem thermRest_thermSensor (i : Nat) (v : Int) : thermRest (thermSensor i v s) = thermRest s := by
  rw [thermSensor, thermRest_thermPoint, thermRest_thermPoint] <;> intros <;> rfl

/-- A list of readings, from sensor k on. -/
def readSensors (k : Nat) (l : List Int) (s : State) : State := (l.zipIdx k).foldl (fun s e => thermSensor e.2 e.1 s) s

theorem readSensors_cons (k : Nat) (v : Int) (l : List Int) : readSensors k (v :: l) s = readSensors (k + 1) l (thermSensor k v s) := rfl

theorem thermRest_readSensors (k : Nat) (l : List Int) : thermRest (readSensors k l s) = thermRest s := by
  induction l generalizing k s with
  | nil => rfl
  | cons v l ih => rw [readSensors_cons, ih, thermRest_thermSensor]

/-- Each sensor of the list holds its reading, every other one what it held. -/
theorem sensor_readSensors (k : Nat) (l : List Int) (i : Nat) (hs : Canon 0 s.therm.sensors = true) :
    sensor (readSensors k l s) i = if k ≤ i ∧ i < k + l.length then l.getD (i - k) 0 else sensor s i := by
  induction l generalizing k s with
  | nil =>
    rw [if_neg (by simp only [List.length_nil]; omega)]
    rfl
  | cons v l ih =>
    have hfirst : sensor (thermSensor k v s) i = if k = i then v else sensor s i := by
      rw [sensor, thermSensor_sensors, tget_tset 0 (canon_rising hs)]
      rfl
    have hcanon : Canon 0 (thermSensor k v s).therm.sensors = true := by
      rw [thermSensor_sensors]
      exact canon_tset k v hs
    rw [readSensors_cons, ih _ _ hcanon, hfirst, List.length_cons]
    rcases Nat.lt_trichotomy i k with hlt | rfl | hgt
    · rw [if_neg (by omega), if_neg (by omega), if_neg (by omega)]
    · simp
    · obtain ⟨j, rfl⟩ : ∃ j, i = k + 1 + j := ⟨i - (k + 1), by omega⟩
      have hj : k + 1 + j - k = j + 1 := by omega
      simp only [hj, List.getD_cons_succ, Nat.add_sub_cancel_left]
      split
      · rw [if_pos (by omega)]
      · rw [if_neg (by omega), if_neg (by omega)]

/-- A reading of all eight sensors is the list itself. -/
theorem readings_of_length (temps : List Int) (d : Nat → Int) (h : temps.length = 8) :
    (List.range 8).map (fun i => temps.getD i (d i)) = temps := by
  refine List.ext_getElem (by simp [h]) fun i _ hi => ?_
  simp [List.getElem?_eq_getElem hi]

/-- The state at which eight new readings are taken, 1 ms after the last, with the sensors as read. -/
def thermRead (temps : List Int) : State := readSensors 0 temps (reachEdge (s.therm.readAt + msE) s)

theorem thermalUpdate_of_length (temps : List Int) (mv : List Nat) (h : temps.length = 8) : thermalUpdate temps mv s =
    let now := reachEdge (s.therm.readAt + msE) s
    let top := temps.foldl max (temps.headD 0)
    let r := modTherm (fun t => { t with
      highest := if t.read then max t.highest top else top, read := true, readAt := now.clk.edges, readT := nowT64 now
      ms105 := t.ms105 + b2n (decide (1680 ≤ top)), ms115 := t.ms115 + b2n (decide (1840 < top)) }) (thermRead s temps)
    { r with sup := { r.sup with mvFa := mv.getD 0 now.sup.mvFa, mvFb := mv.getD 1 now.sup.mvFb, mvSh := mv.getD 2 now.sup.mvSh
                                 mvBak := mv.getD 3 now.sup.mvBak } } := by
  simp only [thermalUpdate, readings_of_length temps _ h]
  rfl

theorem thermRest_thermRead (temps : List Int) : thermRest (thermRead s temps) =
    ((reachEdge (s.therm.readAt + msE) s).clk, s.sup, s.dev, s.ports, s.cp, s.frames, s.hl, s.therm.highest, s.therm.read, s.therm.ms105,
      s.therm.ms115) := by
  rw [thermRead, thermRest_readSensors]
  simp [thermRest]

theorem sensor_thermRead (temps : List Int) (i : Nat) (h : temps.length = 8) (hi : i < 8) (hs : Canon 0 s.therm.sensors = true) :
    sensor (thermRead s temps) i = temps.getD i 0 := by
  rw [thermRead, sensor_readSensors _ _ _ _ (by rwa [reachEdge_therm]), if_pos (by omega), Nat.sub_zero]

/-! ## The PCIe endpoint (R75, R499, R541) -/

theorem exec_pcieLinkUp (enable mask : Bool) (hrel : s.pcie.released = true) :
    let t := { s with pcie := { s.pcie with up := true, perst := false, msixEnable := enable, msixMaskAll := mask } }
    exec (.pcieLinkUp enable mask) s = .next (signalPending (if s.pcie.up then t else fire 0x3CD 0x01 [] t)) := by
  intro t
  change execPcieLinkUp enable mask s = _
  simp only [execPcieLinkUp, hrel, Bool.not_true, Bool.false_eq_true, if_false]
  rfl

/-- A vector that no register numbers is never signalled; the others are masked. -/
theorem signalPending_of_masked (hmask : ∀ v, v < 64 → bit s.win.pba v = true → vecMasked s v = true) : signalPending s = s := by
  refine List.foldl_fixed' (fun v => ?_) _
  split
  · next hv =>
    simp only [Bool.and_eq_true, Bool.not_eq_true'] at hv
    have h64 : 64 ≤ v := by
      by_contra hlt
      exact absurd (hmask v (by omega) hv.1) (by simp [hv.2])
    rw [signalVec, if_pos h64]
  · rfl

/-- The sessions of PCIe are those bound to a ring pair. -/
theorem pcieLost_eq : pcieLost s = shadowSuspend ((List.range 4).foldl (fun s k =>
    if (session s k).isOpen && transportCode (session s k).endpoint == 1 then fire 0x3C3 0x02 [] (closeSession k s) else s)
    { s with pcie := { s.pcie with up := false } }) := by
  refine congrArg shadowSuspend (congrArg (fun f => List.foldl f _ _) (funext₂ fun t k => ?_))
  cases (session t k).isOpen <;> cases (session t k).endpoint <;> rfl

theorem exec_pcieLinkDown (hup : s.pcie.up = true) : exec .pcieLinkDown s = .next (fire 0x3CD 0x02 [] (pcieLost s)) := by
  change execPcieLinkDown s = _
  rw [execPcieLinkDown, if_pos hup]

theorem exec_pciePerst (hrel : s.pcie.released = true) (hperst : s.pcie.perst = false) (hdown : s.pcie.up = false) :
    exec .pciePerst s = .next (fire 0x3CD 0x03 [] { s with
      pcie := { s.pcie with perst := true, msixEnable := false, msixMaskAll := false }, win := { s.win with msix := [], pba := 0 } }) := by
  change execPciePerst s = _
  have hacts : (s.pcie.perst || !s.pcie.released) = false := by simp [hperst, hrel]
  have hlost : (if s.pcie.up then pcieLost s else s) = s := if_neg (by simp [hdown])
  simp only [execPciePerst, hacts, hlost, Bool.false_eq_true, if_false]
  rfl

/-! ## The wake controller (R33-R37, R402) -/

/-- The requested clocks of a slice, but for those of an unpowered furrow. -/
def slicesWanted (k : Nat) : List Nat := [k, k + 4, k + 8].filter (fun c => bit s.slices.requested c && !(c != k && !powered s (c / 4 - 1)))

/-- Those clocks run, 160 ns after the first of them was asked for. -/
def slicesStarted (k : Nat) : State :=
  let now := reachEdge ((slicesWanted s k).foldl (fun e c => min e (tget 0 s.slices.reqAt c)) s.clk.edges + 200) s
  { now with slices := { now.slices with
      running := (slicesWanted s k).foldl (fun m c => setBit m c true) now.slices.running
      requested := (slicesWanted s k).foldl (fun m c => setBit m c false) now.slices.requested } }

theorem exec_sliceClockStart (k : Nat) (hclk : s.clk.coreStopped = false) (hk : k < 4) (hreq : bit s.slices.requested k = true) :
    exec (.sliceClockStart k) s = .next ((List.range 16).foldl (fun s i => wakeDrain (16 * k + i) s)
      ((if (slicesWanted s k).contains (k + 8) then startCore 1 else id)
        ((if (slicesWanted s k).contains (k + 4) then startCore 0 else id) (slicesStarted s k)))) := by
  have hown : k ∈ slicesWanted s k := by simp [slicesWanted, hreq]
  have hsome : ¬ (slicesWanted s k).isEmpty = true := by simpa using List.ne_nil_of_mem hown
  have hall : (slicesWanted s k).contains k = true := by simpa using hown
  change execSliceClockStart k s = _
  rw [execSliceClockStart, hclk, if_neg Bool.false_ne_true, Nat.mod_eq_of_lt hk, ite_apply, ite_apply]
  exact (if_neg hsome).trans (congrArg Host.Outcome.next (if_pos hall))

/-- A slice clock stops, its fallow delay after the last activity. -/
def sliceStopped (k d : Nat) : State :=
  modSlices (fun l => { l with running := setBit l.running k false }) (reachEdge (tget 0 s.slices.last k + d * usE) s)

theorem exec_sliceFallowExpiry (k d : Nat) (hclk : s.clk.coreStopped = false) (hk : k < 12) (hrun : bit s.slices.running k = true)
    (hd : sliceDelay s k = some d) :
    exec (.sliceFallowExpiry k) s = .next (if k < 4 then sliceStopped s k d else coreIdle (k / 4 - 1) (sliceStopped s k d)) := by
  change execSliceFallowExpiry k s = _
  simp only [execSliceFallowExpiry, hclk, hrun, hd, Nat.not_le.mpr hk, decide_false, Bool.not_true, Bool.or_self, Bool.false_eq_true, if_false]
  rfl

theorem exec_bedWake (n : Nat) (hclk : s.clk.coreStopped = false) (hn : n < 16) (hstop : bit s.slices.bedClocks n = false)
    (hpower : powered s (bedFur n) = true) (hwork : (bed s n).queue ≠ []) :
    exec (.bedWake n) s = .next (setBedClock n true (startCore (bedFur n) s)) := by
  change execBedWake n s = _
  simp [execBedWake, hclk, hn, bedRuns, hstop, hpower, hwork]

theorem exec_bedFallowStop (n : Nat) (hclk : s.clk.coreStopped = false) (hrun : bit s.slices.bedClocks n = true)
    (hqueue : (bed s n).queue = []) (htines : (bed s n).tines = []) (hinline : bedInline (bed s n) = false) :
    exec (.bedFallowStop n) s = .next (coreIdle (bedFur n) (setBedClock n false s)) := by
  change execBedFallowStop n s = _
  simp [execBedFallowStop, hclk, bedRuns, hrun, hqueue, htines, hinline]

theorem exec_furrowCoreWakeForTimer (f : Furrow) (d : Nat) (hclk : s.clk.coreStopped = false)
    (hstop : (if furNo f = 0 then s.slices.coreA else s.slices.coreB) = false) (hdec : decides s (furNo f) = true)
    (hd : earliest s (furNo f) = some d) :
    exec (.furrowCoreWakeForTimer f) s = .next (startCore (furNo f) (reachNs (d - 2000) s)) := by
  change execFurrowCoreWakeForTimer f s = _
  simp only [execFurrowCoreWakeForTimer, hclk, hstop, hdec, hd, Bool.not_true, Bool.or_self, Bool.false_eq_true, if_false]

theorem exec_scheduledEventWake (p : Nat) (hclk : s.clk.coreStopped = false) : exec (.scheduledEventWake p) s =
    .next ((nextScheduled s p).elim s (fun e => touchPort p false (reachEdge (e - usE) s))) := by
  change execScheduledEventWake p s = _
  rw [execScheduledEventWake, hclk, if_neg Bool.false_ne_true]
  cases nextScheduled s p <;> rfl

/-! ## The fallow mirrors and the scrubber (R43, R46, R490) -/

theorem exec_fallowMirrorRefresh (hrel : s.dev.relStep ≠ 0) : exec .fallowMirrorRefresh s = .next (mirrorEdge s) := by
  change execFallowMirrorRefresh s = _
  rw [execFallowMirrorRefresh, if_neg hrel]

theorem exec_scrubRead_corrected (mem loc kind n : Nat) (hmem : mem < 33) (hn : n = 1 ∨ n = 2) (hclk : s.clk.coreStopped = false)
    (hpower : ∀ f, islandOf mem = some f → powered s f = true) : exec (.scrubRead mem loc kind n) s = .next (memCorr mem s) := by
  change execScrubRead mem loc kind n s = _
  have hbits : n ≠ 0 ∧ n < 3 := by omega
  have hlow : mem < 37 := by omega
  have hin : ¬ 37 < mem := by omega
  have hown : ¬ 33 ≤ mem := by omega
  cases hisland : islandOf mem with
  | none => simp [execScrubRead, hisland, hclk, hbits, hlow, hin, hown]
  | some f => simp [execScrubRead, hisland, hpower f hisland, hbits, hlow]

/-- Settles O13: clause by clause, what each command does in the case that the clause names. -/
theorem sensorsLinksAndWakesTakeEffect : Obligations.SensorsLinksAndWakesTakeEffect := by
  unfold Obligations.SensorsLinksAndWakesTakeEffect
  refine ⟨?sensors, fun enable mask s => exec_pcieLinkUp s enable mask, signalPending_of_masked, ?linkDown, exec_pciePerst, ?sliceStart,
    ?sliceStop, ?bedWake, ?bedStop, ?timerWake, ?eventWake, exec_fallowMirrorRefresh, ?scrub⟩
  case sensors =>
    intro temps mv s hlen hcanon
    have hrest : thermRest (thermRead s temps) = _ := thermRest_thermRead s temps
    simp only [thermRest, Prod.mk.injEq] at hrest
    obtain ⟨hclk, hsup, hdev, hports, hcp, hframes, hhl, hhigh, hread, h105, h115⟩ := hrest
    refine ⟨_, congrArg Host.Outcome.next (thermalUpdate_of_length s temps mv hlen), ⟨?_, rfl, ?_, ?_⟩,
      fun i hi => sensor_thermRead s temps i hlen hi hcanon, hclk, ?_, hdev, hports, hcp, hframes, hhl⟩
    · simp only [modTherm, hread, hhigh]
    · simp only [modTherm, h105]
    · simp only [modTherm, h115]
    · simp only [modTherm, hsup, reachEdge_sup]
  case linkDown =>
    intro s hup
    rw [exec_pcieLinkDown s hup, pcieLost_eq]
  case sliceStart =>
    intro k s hclk hk hreq want at_ u
    have hu : u = slicesStarted s k := by simp only [u, at_, want, slicesStarted, slicesWanted, reachEdge_slices]
    rw [hu]
    exact exec_sliceClockStart s k hclk hk hreq
  case sliceStop =>
    intro k d s hclk hk hrun hd u v
    have hv : v = sliceStopped s k d := by simp only [v, u, sliceStopped, modSlices, reachEdge_slices]
    rw [hv]
    exact exec_sliceFallowExpiry s k d hclk hk hrun hd
  case bedWake =>
    intro n s hclk hn hstop hpower hwork
    exact exec_bedWake s n hclk hn hstop hpower hwork
  case bedStop =>
    intro n s hclk hrun hqueue htines hinline
    exact exec_bedFallowStop s n hclk hrun hqueue htines hinline
  case timerWake =>
    intro f d s hclk hstop hdec hd
    exact exec_furrowCoreWakeForTimer s f d hclk hstop hdec hd
  case eventWake =>
    intro p s hclk
    exact ⟨fun e he => by rw [exec_scheduledEventWake s p hclk, he]; rfl, fun he => by rw [exec_scheduledEventWake s p hclk, he]; rfl⟩
  case scrub =>
    intro mem loc kind n s hmem hn hclk hpower
    exact exec_scrubRead_corrected s mem loc kind n hmem hn hclk hpower

end Sys2Proof.Machine
end

section
/-! PROOF. Bytes: lengths of fields, the number that a written field reads as, and the range of CRC-32 (spec/00 R14; spec/02 R60). -/

namespace Sys2Proof.Machine

/-! ## Fields -/

@[simp] theorem length_toLE (n v : Nat) : (toLE n v).length = n := by
  induction n generalizing v with
  | zero => rfl
  | succ n ih => rw [toLE, List.length_cons, ih]

@[simp] theorem length_zeros (n : Nat) : (zeros n).length = n := List.length_replicate

theorem leNat_toLE (n v : Nat) : leNat (toLE n v) = v % 256 ^ n := by
  induction n generalizing v with
  | zero => simp [toLE, leNat, Nat.mod_one]
  | succ n ih => rw [toLE, leNat, ih, pow_succ', Nat.mod_mul, BitVec.toNat_ofNat]

theorem byteAt_toLE_zero (n v : Nat) : byteAt (toLE (n + 1) v) 0 = v % 256 := by
  simp [byteAt, toLE]

theorem byteAt_append_left {a : List Byte} (b : List Byte) {i : Nat} (h : i < a.length) : byteAt (a ++ b) i = byteAt a i := by
  rw [byteAt, List.getD_append _ _ _ _ h, byteAt]

theorem byteAt_append_right {a : List Byte} (b : List Byte) {i : Nat} (h : a.length ≤ i) : byteAt (a ++ b) i = byteAt b (i - a.length) := by
  rw [byteAt, List.getD_append_right _ _ _ _ h, byteAt]

/-- A field of zero bytes passes the check of a reserved field of one byte. -/
theorem reservedAt_one {b : List Byte} {i : Nat} (h : byteAt b i = 0) : reservedAt b i 1 = true := by
  rcases Nat.lt_or_ge i b.length with hi | hi
  · have hzero : b[i] = 0 := BitVec.eq_of_toNat_eq (by simpa [byteAt, List.getElem?_eq_getElem hi] using h)
    simp [reservedAt, allZero, List.drop_eq_getElem_cons hi, hzero]
  · simp [reservedAt, allZero, List.drop_eq_nil_of_le hi]

theorem checked_of_none {l : List (Bool × Nat)} (k : CmdResult) (h : firstBad l = none) : checked l k = k := by
  simp only [checked, h]

/-! ## CRC-32 -/

theorem crcShiftR_lt {p : Nat} (hp : p < 2 ^ 32) (n : Nat) {c : Nat} (hc : c < 2 ^ 32) : crcShiftR p n c < 2 ^ 32 := by
  induction n generalizing c with
  | zero => exact hc
  | succ n ih =>
    rw [crcShiftR]
    split
    · exact ih (Nat.xor_lt_two_pow (by omega) hp)
    · exact ih (by omega)

theorem crcR_lt {p : Nat} (hp : p < 2 ^ 32) (b : List Byte) {c : Nat} (hc : c < 2 ^ 32) : crcR p c b < 2 ^ 32 := by
  induction b generalizing c with
  | nil => exact hc
  | cons x b ih => exact ih (crcShiftR_lt hp 8 (Nat.xor_lt_two_pow hc (by have := x.isLt; omega)))

theorem crc32_lt (b : List Byte) : crc32 b < 2 ^ 32 :=
  Nat.xor_lt_two_pow (crcR_lt (by decide) b (by decide)) (by decide)

end Sys2Proof.Machine
end

section
/-! PROOF. OPEN_SESSION, and the commands that only read the device (spec/02 R68-R74, R78, R82; spec/15 R501; spec/17 R549). -/

namespace Sys2Proof.Machine

/-! ## What an accepted packet and its answer come to -/

section serving
variable {chk8 : Packet → Session → State → Option (Nat × Nat)} {c : CmdSpec} {body : Packet → State → CmdResult} {p : Packet} {s t : State}
  {reply : List Byte}

theorem frontCheck_of_accepts (h : acceptsBy chk8 c p s = true) : frontCheck c (asked c p) (reached c p s) = none := by
  simp only [acceptsBy, Bool.and_eq_true, Option.isNone_iff_eq_none] at h
  obtain ⟨⟨⟨⟨⟨⟨⟨⟨-, hfront⟩, -⟩, -⟩, -⟩, -⟩, -⟩, -⟩, -⟩ := h
  exact hfront

/-- Check 4 (R61): no packet with more than 4,080 parameter bytes passes. -/
theorem params_length_of_frontCheck (h : frontCheck c p s = none) : p.params.length ≤ 4080 := by
  have hlen : (p.paramLen % 4 != 0 || decide (4080 < p.paramLen) || p.params.length != p.paramLen) = false := by
    refine Bool.eq_false_of_not_eq_true fun hbad => ?_
    rw [frontCheck, if_pos hbad] at h
    split_ifs at h
  simp only [Bool.or_eq_false_iff, bne_eq_false_iff_eq, decide_eq_false_iff_not] at hlen
  omega

theorem serveCmd_ok (h : accepts c p s = true) (hb : body (asked c p) (reached c p s) = .ok reply t) (ho : c.opcode ≠ 0x0101)
    (hl : reply.length ≤ 4080) : serveCmd c body p s = .next (answered c p stOk reply t) :=
  congrArg Host.Outcome.next (serve_ok h hb ho hl)

/-- The reply to OPEN_SESSION carries the identifier of the session that it opens (R74). -/
theorem serveCmd_openSession_ok (h : accepts c p s = true) (hb : body (asked c p) (reached c p s) = .ok reply t) (ho : c.opcode = 0x0101) :
    serveCmd c body p s = .next (respond { ticketFor c (asked c p) with session := byteAt reply 8 } 0x80 stOk 0 reply t) := by
  rw [serveCmd, serve_of_accepts h, hb, finish_of_accepts h (by intro; simp)]
  simp only [ho, if_true]

end serving

/-! ## OPEN_SESSION (R68-R74) -/

section opening
variable {q : Packet} {r : State} {v k : Nat}
  (hres : byteAt q.params 5 = 0) (hidle : le q.params 6 2 ≤ 3600) (hzero : le q.params 6 2 ≠ 0 ∨ transportCode q.src = 1)
  (hver : versions.find? (fun v => byteAt q.params 0 * 256 + byteAt q.params 1 ≤ v && v ≤ byteAt q.params 2 * 256 + byteAt q.params 3) = some v)
  (hnone : ∀ j, j < 4 → ¬((session r j).isOpen = true ∧ (session r j).endpoint = q.src)) (hfree : freeSlot r = some k)
include hres hidle hzero hver hnone hfree

/-- With check 10 passed, a common version, no session on the endpoint and a free slot, only the authorization for MAINTAIN is left (R73). -/
theorem bodyOpenSession_eq (hpriv : byteAt q.params 4 ≤ 2) :
    bodyOpenSession q r =
      if byteAt q.params 4 != 2 then openIn k v (byteAt q.params 4) (le q.params 6 2) q.src r
      else if lockedOut r then .refuse stAuthFail 0
      else if sha256 (slice q.params 8 16) / 2 ^ 128 = optMaint r then
        openIn k v (byteAt q.params 4) (le q.params 6 2) q.src { r with cp := { r.cp with mismatch := 0 } }
      else .final stAuthFail [] (authMismatch r) := by
  have hchecks : firstBad [(decide (byteAt q.params 4 ≤ 2), 4), (reservedAt q.params 5 1, 5),
      (decide (le q.params 6 2 ≤ 3600) && (le q.params 6 2 != 0 || transportCode q.src == 1), 6)] = none := by
    simp [firstBad, hpriv, reservedAt_one hres, hidle, hzero]
  have hexists : (List.range 4).any (fun k => (session r k).isOpen && (session r k).endpoint == q.src) = false := by
    simpa using hnone
  rw [bodyOpenSession]
  dsimp only
  rw [checked_of_none _ hchecks]
  simp only [hver, hexists, hfree, Bool.false_eq_true, if_false]

theorem bodyOpenSession_of_operate (hpriv : byteAt q.params 4 ≤ 1) :
    bodyOpenSession q r = openIn k v (byteAt q.params 4) (le q.params 6 2) q.src r := by
  have hne : byteAt q.params 4 ≠ 2 := by omega
  rw [bodyOpenSession_eq hres hidle hzero hver hnone hfree (by omega), if_pos (bne_iff_ne.mpr hne)]

theorem bodyOpenSession_of_maintain (hpriv : byteAt q.params 4 = 2) (hlock : lockedOut r = false)
    (hcode : sha256 (slice q.params 8 16) / 2 ^ 128 = optMaint r) :
    bodyOpenSession q r = openIn k v (byteAt q.params 4) (le q.params 6 2) q.src { r with cp := { r.cp with mismatch := 0 } } := by
  rw [bodyOpenSession_eq hres hidle hzero hver hnone hfree (by omega), if_neg (by simp [hpriv]), hlock, if_neg Bool.false_ne_true, if_pos hcode]

end opening

/-- The identifier of the new session stands in byte 8 of the reply, the lowest byte of its tag. -/
theorem byteAt_openReply (maj min priv k n tc g : Nat) (hg : g < 64) (hk : k < 4) :
    byteAt (toLE 1 maj ++ toLE 1 min ++ toLE 1 priv ++ toLE 1 k ++ toLE 2 256 ++ zeros 2 ++ toLE 4 (n * 65536 + tc * 256 + (g * 4 + k))) 8 =
      g * 4 + k := by
  rw [byteAt_append_right _ (by simp)]
  simp only [List.length_append, length_toLE, length_zeros, Nat.reduceAdd, Nat.sub_self, byteAt_toLE_zero]
  omega

theorem lt_four_of_freeSlot {r : State} {k : Nat} (h : freeSlot r = some k) : k < 4 := List.mem_range.mp (List.mem_of_find?_eq_some h)

/-- Settles O6: check 10 passes, no other session is bound to the endpoint, and so the body opens the slot that it finds. -/
theorem sessionsOpenInTheLowestFreeSlot : Obligations.SessionsOpenInTheLowestFreeSlot := by
  unfold Obligations.SessionsOpenInTheLowestFreeSlot
  intro p s v k r b g n tag x mis hacc hres hidle hzero hver hnone hfree hpriv
  have hg : g < 64 := by simp only [g]; split <;> omega
  have hid := byteAt_openReply (v / 256) (v % 256) (byteAt b 4) k n (transportCode p.src) g hg (lt_four_of_freeSlot hfree)
  have hopen : bodyOpenSession (asked specOpenSession p) r =
      .ok (toLE 1 (v / 256) ++ toLE 1 (v % 256) ++ toLE 1 (byteAt b 4) ++ toLE 1 k ++ toLE 2 256 ++ zeros 2 ++ toLE 4 tag)
        { r with cp := { r.cp with opens := n, mismatch := mis, sessions := tset {} r.cp.sessions k x } } := by
    rcases hpriv with hlow | ⟨hmaint, hlock, hcode⟩
    · refine (bodyOpenSession_of_operate hres hidle hzero hver hnone hfree hlow).trans ?_
      have hne : byteAt b 4 ≠ 2 := by omega
      simp only [mis, if_neg hne]
      rfl
    · refine (bodyOpenSession_of_maintain hres hidle hzero hver hnone hfree hmaint hlock hcode).trans ?_
      simp only [mis, if_pos hmaint]
      rfl
  change serveCmd specOpenSession bodyOpenSession p s = _
  rw [serveCmd_openSession_ok hacc hopen rfl, hid]

/-! ## Reading the device (R78, R82, R501, R549) -/

theorem portDigest_of_absent {s : State} {n : Nat} (h : nPorts s ≤ n ∨ (port s n).cfg.configured = false) : portDigest s n = 0 :=
  if_pos (by simpa using h)

/-- Settles O7: the bodies answer on the state that they are given, and each reply fits one packet. -/
theorem readingTheDeviceChangesNothing : Obligations.ReadingTheDeviceChangesNothing := by
  unfold Obligations.ReadingTheDeviceChangesNothing
  refine ⟨?getState, ?getIdentity, ?echo, ?configDigest, ?absent, ?thermal⟩
  case getState =>
    intro p s r hacc
    exact serveCmd_ok (body := bodyGetState) hacc rfl (by decide) (by simp)
  case getIdentity =>
    intro p s r hacc
    exact serveCmd_ok (body := bodyGetIdentity) hacc rfl (by decide) (by simp)
  case echo =>
    intro p s hacc
    exact serveCmd_ok (body := bodyEcho) hacc rfl (by decide) (params_length_of_frontCheck (frontCheck_of_accepts hacc))
  case configDigest =>
    intro p s r hacc
    exact serveCmd_ok (body := bodyConfigDigest) hacc rfl (by decide) (by simp)
  case absent =>
    intro s n habsent
    exact portDigest_of_absent habsent
  case thermal =>
    intro p s r hacc point
    exact serveCmd_ok (body := bodyThermalStatus) hacc rfl (by decide) (by simp [Function.comp_def])

end Sys2Proof.Machine
end

section
/-! PROOF. CLOSE_SESSION, the session timers, and the reload of the command processor (spec/02 R73, R75, R83; spec/16 R517). -/

namespace Sys2Proof.Machine

variable (s : State)

/-! ## Closing a session (R75) -/

theorem closeSession_sessions (k : Nat) : (closeSession k s).cp.sessions =
    tmod {} s.cp.sessions k (fun x => { x with isOpen := false, closing := false, outstanding := [], kept := [] }) := rfl

theorem session_closeSession_of_ne {k j : Nat} (h : Rising s.cp.sessions = true) (hj : j ≠ k) : session (closeSession k s) j = session s j := by
  rw [session, closeSession_sessions, tget_tmod _ h, if_neg hj.symm, session]

theorem settleClosing_of_not_closing {k : Nat} (h : (session s k).closing = false) : settleClosing k s = s := by
  simp [settleClosing, h]

theorem settleClosing_of_closing {k : Nat} (h : (session s k).closing = true)
    (hwritten : (unwritten s (sessionId s k) (session s k).endpoint).any closesSession = false) : settleClosing k s = closeSession k s := by
  simp only [settleClosing, h, hwritten, Bool.not_false, Bool.and_self, if_true]

theorem foldl_settleClosing_of_not_closing (l : List Nat) (h : ∀ j ∈ l, (session s j).closing = false) :
    l.foldl (fun t k => settleClosing k t) s = s := by
  induction l with
  | nil => rfl
  | cons j l ih =>
    rw [List.foldl_cons, settleClosing_of_not_closing s (h j (by simp))]
    exact ih fun i hi => h i (by simp [hi])

/-- Where one session alone is marked and its reply is written, that session closes: the slots before it and behind it stay as they are. -/
theorem settleClosings_of_one {k : Nat} (hrising : Rising s.cp.sessions = true) (hk : k < 4) (hclosing : (session s k).closing = true)
    (hwritten : (unwritten s (sessionId s k) (session s k).endpoint).any closesSession = false)
    (hothers : ∀ j, j < 4 → j ≠ k → (session s j).closing = false) : settleClosings s = closeSession k s := by
  obtain ⟨before, behind, hsplit⟩ := List.append_of_mem (List.mem_range.mpr hk)
  have hnodup : (before ++ k :: behind).Nodup := hsplit ▸ List.nodup_range
  have hlt : ∀ j ∈ before ++ k :: behind, j < 4 := fun j hj => List.mem_range.mp (hsplit ▸ hj)
  have hbefore : ∀ j ∈ before, j ≠ k := fun j hj => (List.nodup_append.mp hnodup).2.2 j hj k (by simp)
  have hbehind : ∀ j ∈ behind, j ≠ k := fun j hj hjk => (List.nodup_cons.mp (List.nodup_append.mp hnodup).2.1).1 (hjk ▸ hj)
  rw [settleClosings, hsplit, List.foldl_append, List.foldl_cons,
    foldl_settleClosing_of_not_closing s before fun j hj => hothers j (hlt j (by simp [hj])) (hbefore j hj),
    settleClosing_of_closing s hclosing hwritten]
  refine foldl_settleClosing_of_not_closing _ behind fun j hj => ?_
  rw [session_closeSession_of_ne s hrising (hbehind j hj)]
  exact hothers j (hlt j (by simp [hj])) (hbehind j hj)

theorem rising_sessions_of_wf (h : State.wf s = true) : Rising s.cp.sessions = true := by
  simp only [State.wf, Bool.and_eq_true] at h
  obtain ⟨⟨⟨⟨⟨⟨⟨⟨⟨⟨⟨⟨⟨⟨-, hsessions⟩, -⟩, -⟩, -⟩, -⟩, -⟩, -⟩, -⟩, -⟩, -⟩, -⟩, -⟩, -⟩, -⟩ := h
  exact canon_rising hsessions

theorem exec_closeSession (p : Packet) (h : accepts specCloseSession p s = true) : exec (.closeSession p) s = .next (settleClosings
    (answered specCloseSession p stOk [] (modSession (p.session % 4) (fun x => { x with closing := true }) (reached specCloseSession p s)))) := by
  change Host.Outcome.next (settleClosings (serve specCloseSession (check8 specCloseSession) bodyCloseSession p s)) = _
  rw [serve_ok h rfl (by decide) (by simp)]
  rfl

/-! ## Session timers (R73, R75) -/

theorem exec_idleTimeout {k : Nat} (hclk : s.clk.coreStopped = false) (hk : k < 4) (hopen : (session s k).isOpen = true) (hidle : (session s k).idle ≠ 0) :
    exec (.idleTimeout k) s = .next (fire 0x3C3 0x01 [] (closeSession k (reachEdge ((session s k).lastPacket + (session s k).idle * secE) s))) := by
  change execIdleTimeout k s = _
  simp only [execIdleTimeout, hclk, Bool.false_eq_true, if_false, Nat.mod_eq_of_lt hk, hopen, Bool.true_and, bne_iff_ne, ne_eq, hidle, not_false_eq_true,
    if_true]

theorem exec_maintainLockoutEnd {e : Nat} (hclk : s.clk.coreStopped = false) (hlock : s.cp.lockUntil = some e) :
    exec .maintainLockoutEnd s = .next { reachEdge e s with cp := { s.cp with lockUntil := none } } := by
  change execMaintainLockoutEnd s = _
  simp only [execMaintainLockoutEnd, hclk, Bool.false_eq_true, if_false, hlock, reachEdge_cp]

/-! ## CP_RELOAD (R83, R517) -/

/-- A reload is asked for. -/
def reloadRequested (t : State) : State := { t with cp := { t.cp with reloadAsked := true } }

theorem bodyCpReload_of_quiet (q : Packet) (hslots : ∀ k, k < 4 → slotBusy s k = false) (hwaiting : ∀ w ∈ s.cp.waiting, w.opcode = 0x0101) :
    bodyCpReload q s = .ok [] (reloadRequested s) := by
  have hbusy : (List.range 4).any (slotBusy s) = false := List.any_eq_false.mpr fun k hk => by simp [hslots k (List.mem_range.mp hk)]
  have hwaits : s.cp.waiting.any (fun w => w.opcode != 0x0101 && versionHeld s w) = false :=
    List.any_eq_false.mpr fun w hw => by simp [hwaiting w hw]
  simp only [bodyCpReload, hbusy, hwaits, Bool.or_self, Bool.false_eq_true, if_false]
  rfl

/-- A running command processor serves CP_RELOAD as any other command. -/
theorem exec_cpReload_of_running (p : Packet) (h : accepts specCpReload p s = true) (hrun : s.cp.halted = false)
    (hslots : ∀ k, k < 4 → slotBusy (reached specCpReload p s) k = false)
    (hwaiting : ∀ q ∈ (reached specCpReload p s).cp.waiting, q.opcode = 0x0101) :
    exec (.cpReload p) s = .next (reloadWhenDue (answered specCpReload p stOk [] (reloadRequested (reached specCpReload p s)))) := by
  change Host.Outcome.next (serveReload p s) = _
  rw [serveReload, if_neg (by simp [hrun]),
    serve_ok h (bodyCpReload_of_quiet (reached specCpReload p s) (asked specCpReload p) hslots hwaiting) (by decide) (by simp)]

/-- The front end of a halted one answers it itself, after checks 2 to 7. -/
theorem exec_cpReload_of_halted (p : Packet) (hserving : serving s = true) (hhalted : s.cp.halted = true) (hasked : s.cp.reloadAsked = false)
    (hfront : frontCheck specCpReload (asked specCpReload p) (reached specCpReload p s) = none) :
    exec (.cpReload p) s = .next (reloadWhenDue (answered specCpReload p stOk [] (reloadRequested (reached specCpReload p s)))) := by
  change Host.Outcome.next (serveReload p s) = _
  rw [reached, asked] at hfront
  rw [serveReload, if_pos (by simp [hserving, hhalted, hasked])]
  simp only [hfront]
  rfl

/-! ### What the start of a reload leaves -/

/-- The parts of the device that a reload of the command processor leaves alone. -/
def deviceView (s : State) : Device × Table Port × FurrowSt × FurrowSt × Table Frame × Granary × Headland × Deep :=
  (s.dev, s.ports, s.fa, s.fb, s.frames, s.gran, s.hl, s.deep)

/-- The same with the command processor. -/
def servoView (s : State) : CmdProc × Device × Table Port × FurrowSt × FurrowSt × Table Frame × Granary × Headland × Deep := (s.cp, deviceView s)

theorem servoView_fire (src cause : Nat) (payload : List Byte) : servoView (fire src cause payload s) = servoView s := by
  simp [servoView, deviceView]

theorem servoView_setPtpState (p new : Nat) : servoView (setPtpState p new s) = servoView s := by
  unfold setPtpState
  dsimp only
  split
  · rfl
  · rw [servoView_fire]
    rfl

theorem servoView_gmEvent (old : Nat) : servoView (gmEvent old s) = servoView s := by
  unfold gmEvent
  split
  · rfl
  · exact servoView_fire _ _ _ _

theorem servoView_ptpRestart : servoView (ptpRestart s) = servoView s := by
  rw [ptpRestart, servoView_gmEvent]
  exact view_foldl (fun t e => servoView_setPtpState t e.1 _) s.tim.ptp s

theorem servoView_setClock (new : Nat) : servoView (setClock new s) = servoView s := by
  unfold setClock
  dsimp only
  split
  · rfl
  · exact servoView_fire _ _ _ _

theorem servoView_enterHoldover : servoView (enterHoldover s) = servoView s := by
  unfold enterHoldover
  split
  · rfl
  · exact servoView_setClock _ _

theorem servoView_servosStop : servoView (servosStop s) = servoView s := by
  unfold servosStop
  dsimp only
  split
  · exact servoView_enterHoldover _
  · rfl

/-- The front end is emptied, and every session closes. -/
def allClosed (s : State) : State :=
  (List.range 4).foldl (fun s k => closeSession k s) { s with cp := { s.cp with waiting := [], closed := [] } }

/-- What a closing session leaves of the command processor's waiting packets and of the device. -/
def frontView (s : State) : List Packet × Device × Table Port × FurrowSt × FurrowSt × Table Frame × Granary × Headland × Deep :=
  (s.cp.waiting, deviceView s)

theorem frontView_closeSession (k : Nat) : frontView (closeSession k s) = frontView s := rfl

theorem frontView_allClosed : frontView (allClosed s) = ([], deviceView s) := by
  rw [allClosed, view_foldl (fun t k => frontView_closeSession t k)]
  rfl

theorem servoView_hdrCount (off : Nat) : servoView (hdrCount off s) = servoView s := rfl

theorem servoView_modCp (g : CmdProc → CmdProc) : servoView (modCp g s) = (g (servoView s).1, (servoView s).2) := rfl

theorem servoView_startReload : servoView (startReload s) =
    ({ (allClosed s).cp with running := false, halted := false, reloadAsked := false, reloading := true }, deviceView (allClosed s)) := by
  change servoView (ptpRestart (servosStop (modCp _ (hdrCount 20 (allClosed s))))) = _
  rw [servoView_ptpRestart, servoView_servosStop, servoView_modCp, servoView_hdrCount]
  rfl

theorem exec_cpReloadDone (a b : Option (List Byte)) (hclk : s.clk.coreStopped = false) (hreload : s.cp.reloading = true) :
    exec (.cpReloadDone a b) s = .next (bootEvent 3 4 { startImage a b s with cp := { (startImage a b s).cp with reloading := false } }) := by
  change execCpReloadDone a b s = _
  simp only [execCpReloadDone, hclk, hreload, Bool.not_true, Bool.false_eq_true, if_false]
  rfl

/-- Settles O8: CLOSE_SESSION marks and then settles, the timers act at their edge, and a reload starts once its OK is written. -/
theorem sessionsCloseAndReloadsRun : Obligations.SessionsCloseAndReloadsRun := by
  unfold Obligations.SessionsCloseAndReloadsRun
  refine ⟨?close, ?settle, ?idle, ?lockout, ?running, ?halted, ?start, ?done⟩
  case close =>
    intro p s r hacc
    exact exec_closeSession s p hacc
  case settle =>
    intro k s hwf hk hclosing hwritten hothers
    exact settleClosings_of_one s (rising_sessions_of_wf s hwf) hk hclosing hwritten hothers
  case idle =>
    intro k s hclk hk hopen hidle
    exact exec_idleTimeout s hclk hk hopen hidle
  case lockout =>
    intro e s hclk hlock
    exact exec_maintainLockoutEnd s hclk hlock
  case running =>
    intro p s r hacc hrun hslots hwaiting t
    exact exec_cpReload_of_running s p hacc hrun hslots hwaiting
  case halted =>
    intro p s r hserving hhalted hasked hfront t
    exact exec_cpReload_of_halted s p hserving hhalted hasked hfront
  case start =>
    intro s t
    have hview : servoView t = _ := servoView_startReload s
    have hclosed := frontView_allClosed s
    simp only [servoView, frontView, deviceView, Prod.mk.injEq] at hview hclosed
    obtain ⟨hwaiting, hdev, hports, hfa, hfb, hframes, hgran, hhl, hdeep⟩ := hclosed
    obtain ⟨hcp, hdev', hports', hfa', hfb', hframes', hgran', hhl', hdeep'⟩ := hview
    rw [hcp]
    exact ⟨hwaiting, rfl, rfl, rfl, rfl, hdev'.trans hdev, hports'.trans hports, hfa'.trans hfa, hfb'.trans hfb, hframes'.trans hframes,
      hgran'.trans hgran, hhl'.trans hhl, hdeep'.trans hdeep⟩
  case done =>
    intro a b s hclk hreload
    exact exec_cpReloadDone s a b hclk hreload

end Sys2Proof.Machine
end

section
/-! PROOF. SET_STATE: check 8, its table of transitions, and what follows a transition to CONFIG (spec/02 R76-R78). -/

namespace Sys2Proof.Machine

/-! ## Check 8 (R77) -/

/-- The transitions of R77's table: from a state, in SAFE with its cause, to a target with a PROFILE. -/
def transitionLegal (now cause goal profile : Nat) : Prop :=
  (now = 3 ∧ (profile = 0 ∧ (goal = 4 ∨ goal = 6) ∨ (profile = 1 ∨ profile = 2) ∧ goal = 3)) ∨
  (now = 4 ∧ profile = 0 ∧ (goal = 3 ∨ goal = 5 ∨ goal = 6)) ∨ (now = 5 ∧ profile = 0 ∧ (goal = 4 ∨ goal = 6)) ∨
  (now = 6 ∧ cause = 1 ∧ profile = 0 ∧ goal = 3)

theorem stateBit_eq (s : State) : stateBit s =
    if s.dev.state = 3 then 1 else if s.dev.state = 4 then 2 else if s.dev.state = 5 then 4 else if s.dev.state = 6 then 8 else 0 := by
  unfold stateBit
  split <;> simp_all

theorem fromMask_zero (goal : Nat) :
    fromMask goal 0 = if goal = 3 then 0xA else if goal = 4 then 0x5 else if goal = 5 then 0x2 else if goal = 6 then 0x7 else 0 := by
  have hprofile : ¬(decide (goal = 3) && (decide (0 = 1) || decide (0 = 2))) = true := by simp
  have hzero : ¬(0 != 0) = true := by decide
  unfold fromMask
  rw [if_neg hprofile, if_neg hzero]
  split <;> simp_all

theorem fromMask_of_profile (goal : Nat) {profile : Nat} (h : profile ≠ 0) :
    fromMask goal profile = if goal = 3 ∧ (profile = 1 ∨ profile = 2) then 1 else 0 := by
  simp [fromMask, h]

/-- The mask of R59 holds the bit of the present state where the table has a transition from it, the cause of SAFE apart. -/
theorem fromMask_and_stateBit_eq_zero (s : State) (goal profile : Nat) :
    fromMask goal profile &&& stateBit s = 0 ↔ ¬ transitionLegal s.dev.state 1 goal profile := by
  rw [stateBit_eq, transitionLegal]
  by_cases hprofile : profile = 0
  · subst hprofile
    rw [fromMask_zero]
    split_ifs <;> simp [*]
  · rw [fromMask_of_profile goal hprofile]
    split_ifs <;> simp [*]
    tauto

theorem transitionLegal_iff (now cause goal profile : Nat) :
    transitionLegal now cause goal profile ↔ transitionLegal now 1 goal profile ∧ ¬(now = 6 ∧ cause ≠ 1) := by
  by_cases hnow : now = 6 <;> simp [transitionLegal, hnow, and_comm]

section check8
variable {p : Packet} {x : Session} {s : State}

theorem checkTransition_of_present (hgoal : byteAt p.params 0 = s.dev.state) (hprofile : byteAt p.params 1 = 0) : checkTransition p x s = none := by
  simp [checkTransition, hgoal, hprofile]

theorem checkTransition_of_illegal (hother : ¬(byteAt p.params 0 = s.dev.state ∧ byteAt p.params 1 = 0))
    (hillegal : ¬ transitionLegal s.dev.state s.dev.safeCause (byteAt p.params 0) (byteAt p.params 1)) :
    checkTransition p x s = some (stStateConflict, fromMask (byteAt p.params 0) (byteAt p.params 1)) := by
  have hrefused : fromMask (byteAt p.params 0) (byteAt p.params 1) &&& stateBit s = 0 ∨ (s.dev.state = 6 ∧ s.dev.safeCause ≠ 1) := by
    rw [fromMask_and_stateBit_eq_zero]
    rw [transitionLegal_iff] at hillegal
    tauto
  simp only [checkTransition]
  rw [if_neg (by simpa using hother), if_pos (by simpa using hrefused)]

/-- A legal transition is another than to the present state, and is judged by the session's privilege alone. -/
theorem checkTransition_of_legal (hlegal : transitionLegal s.dev.state s.dev.safeCause (byteAt p.params 0) (byteAt p.params 1)) :
    checkTransition p x s = if x.priv < 2 ∧ (byteAt p.params 0 = 5 ∨ s.dev.state = 6) then some (stPrivilege, 0) else none := by
  have hother : ¬(byteAt p.params 0 = s.dev.state ∧ byteAt p.params 1 = 0) := by
    unfold transitionLegal at hlegal
    omega
  have hpasses : ¬(fromMask (byteAt p.params 0) (byteAt p.params 1) &&& stateBit s = 0 ∨ (s.dev.state = 6 ∧ s.dev.safeCause ≠ 1)) := by
    rw [fromMask_and_stateBit_eq_zero]
    rw [transitionLegal_iff] at hlegal
    tauto
  simp only [checkTransition]
  rw [if_neg (by simpa using hother), if_neg (by simpa using hpasses)]
  simp

end check8

/-! ## The rows of the table (R77) -/

theorem unlessRetrain_of_none {body : Packet → State → CmdResult} {p : Packet} {s : State} (h : s.dev.retrain = none) :
    unlessRetrain body p s = body p s := by
  unfold unlessRetrain
  split
  · next hb => exact hb.symm
  · simp [h]

section rows
variable {p : Packet} {s : State} (hres : reservedAt p.params 2 2 = true)
include hres

theorem bodySetState_present (hgoal : byteAt p.params 0 = s.dev.state) (hprofile : byteAt p.params 1 = 0) :
    bodySetState p s = .ok (toLE 1 s.dev.state ++ zeros 3) s := by
  simp [bodySetState, checked, firstBad, hres, hgoal, hprofile]

theorem bodySetState_profile (hnow : s.dev.state = 3) (hgoal : byteAt p.params 0 = 3) (hprofile : byteAt p.params 1 ≠ 0) :
    bodySetState p s = .ok (toLE 1 s.dev.state ++ zeros 3) (eachTab clearTables (modDev (fun d => { d with profile := byteAt p.params 1 }) s)) := by
  simp [bodySetState, checked, firstBad, hres, hnow, hgoal, hprofile]

theorem bodySetState_run (hnow : s.dev.state = 3) (hgoal : byteAt p.params 0 = 4) :
    bodySetState p s = .ok (toLE 1 s.dev.state ++ zeros 3) ((List.range (nPorts s)).foldl (fun s p => startDue p s) (setState 4 s)) := by
  simp [bodySetState, checked, firstBad, hres, hnow, hgoal]

theorem bodySetState_maintenance (hnow : s.dev.state = 4) (hgoal : byteAt p.params 0 = 5) :
    bodySetState p s = .ok (toLE 1 s.dev.state ++ zeros 3) (setState 5 s) := by
  simp [bodySetState, checked, firstBad, hres, hnow, hgoal]

theorem bodySetState_back (hnow : s.dev.state = 5) (hgoal : byteAt p.params 0 = 4) (hburn : s.nv.burn = none) (hload : s.imgLoad = none)
    (htrain : s.deep.training = none) : bodySetState p s = .ok (toLE 1 s.dev.state ++ zeros 3) (setState 4 s) := by
  simp [bodySetState, checked, firstBad, hres, hnow, hgoal, hburn, hload, htrain]

theorem bodySetState_safe (hnow : s.dev.state ≠ 6) (hgoal : byteAt p.params 0 = 6) :
    bodySetState p s = .ok (toLE 1 s.dev.state ++ zeros 3) (setSafeField 1 (modDev (fun d => { d with safeCause := 1 }) (setState 6 (holdAll s)))) := by
  simp [bodySetState, checked, firstBad, hres, hnow.symm, hgoal]

theorem bodySetState_config (hnow : s.dev.state ≠ 3) (hgoal : byteAt p.params 0 = 3) :
    bodySetState p s = .accepted (toConfig (ticketFor specSetState p) s.dev.state s) := by
  simp [bodySetState, checked, firstBad, hres, hnow, hnow.symm, hgoal]

end rows

section serving
variable {p : Packet} {s t : State} (h : acceptsBy checkTransition specSetState p s = true) (hretrain : s.dev.retrain = none)
include h hretrain

theorem exec_setState_ok {reply : List Byte} (hb : bodySetState (asked specSetState p) (reached specSetState p s) = .ok reply t)
    (hl : reply.length ≤ 4080) : exec (.setState p) s = .next (finishRetrain (answered specSetState p stOk reply t)) := by
  change Host.Outcome.next (serveSetState p s) = _
  rw [serveSetState, serve_ok h ((unlessRetrain_of_none (by simpa using hretrain)).trans hb) (by decide) hl]
  simp [hretrain]

theorem exec_setState_accepted (hb : bodySetState (asked specSetState p) (reached specSetState p s) = .accepted t) :
    exec (.setState p) s = .next (finishRetrain (deferred specSetState p t)) := by
  change Host.Outcome.next (serveSetState p s) = _
  rw [serveSetState, serve_accepted h ((unlessRetrain_of_none (by simpa using hretrain)).trans hb)]
  simp [hretrain]

end serving

theorem finishRetrain_of_none {s : State} (h : s.dev.retrain = none) : finishRetrain s = s := by
  simp [finishRetrain, h]

/-- Settles O9: each row of the table is what the body answers, and check 8 is the table with the privilege that it asks for. -/
theorem setStateFollowsItsTable : Obligations.SetStateFollowsItsTable := by
  unfold Obligations.SetStateFollowsItsTable
  refine ⟨?rows, fun s h => finishRetrain_of_none h, ?check8⟩
  case rows =>
    intro p s r goal pr prev say hacc hretrain hres
    have hsay : ∀ t, bodySetState (asked specSetState p) r = .ok prev t → say t := fun t hb =>
      exec_setState_ok hacc hretrain hb (by simp [prev])
    refine ⟨?present, ?profile, ?run, ?maintenance, ?back, ?safe, ?config⟩
    case present => exact fun hgoal hprofile => hsay r (bodySetState_present hres hgoal hprofile)
    case profile => exact fun hnow hgoal hprofile => hsay _ (bodySetState_profile hres hnow hgoal hprofile)
    case run => exact fun hnow hgoal => hsay _ (bodySetState_run hres hnow hgoal)
    case maintenance => exact fun hnow hgoal => hsay _ (bodySetState_maintenance hres hnow hgoal)
    case back => exact fun hnow hgoal hburn hload htrain => hsay _ (bodySetState_back hres hnow hgoal hburn hload htrain)
    case safe => exact fun hnow hgoal => hsay _ (bodySetState_safe hres (by omega) hgoal)
    case config =>
      intro hnow hgoal
      have hother : r.dev.state ≠ 3 := by omega
      exact exec_setState_accepted hacc hretrain (bodySetState_config hres hother hgoal)
  case check8 =>
    intro p x s goal pr legal
    refine ⟨checkTransition_of_present, fun hother hillegal => ⟨_, checkTransition_of_illegal hother hillegal⟩, ?below, ?passes⟩
    case below => exact fun hlegal hpriv hmaint => (checkTransition_of_legal hlegal).trans (if_pos ⟨hpriv, hmaint⟩)
    case passes =>
      intro hlegal hpriv
      have hallowed : ¬(x.priv < 2 ∧ (goal = 5 ∨ s.dev.state = 6)) := by omega
      exact (checkTransition_of_legal hlegal).trans (if_neg hallowed)

end Sys2Proof.Machine
end

section
/-! PROOF. Doorbells, and the control of the command rings and of the host frame rings (spec/02 R75, R84, R87, R88; spec/15 R488, R492, R496). -/

namespace Sys2Proof.Machine

variable (s : State)

/-! ## A write of all four bytes (R488) -/

/-- A register of 32 bits takes the whole value; what a model's number holds above them stays. -/
theorem merge_whole (old v : Nat) : merge 0xF old v = 2 ^ 32 * (old / 2 ^ 32) + v % 2 ^ 32 := by
  have hmask : beMask 0xF = 2 ^ 32 - 1 := by decide
  have hold : andNot old (2 ^ 32 - 1) = 2 ^ 32 * (old / 2 ^ 32) := by
    rw [andNot, Nat.and_two_pow_sub_one_eq_mod]
    omega
  rw [merge, hmask, hold, Nat.and_two_pow_sub_one_eq_mod, Nat.two_pow_add_eq_or_of_lt (Nat.mod_lt v (by decide))]

theorem bit_31_merge_whole (old v : Nat) : bit (merge 0xF old v) 31 = decide (2 ^ 31 ≤ v % 2 ^ 32) := by
  rw [bit, merge_whole, Nat.shiftRight_eq_div_pow, beq_eq_decide]
  congr 1
  apply propext
  omega

theorem merge_whole_mod_256 (old v : Nat) : merge 0xF old v % 256 = v % 256 := by
  rw [merge_whole]
  omega

theorem contiguous_whole : contiguous 0xF = true := by decide

/-! ## Doorbells (R84, R88) -/

section doorbell
variable {s} {be v size : Nat} {ign : State → State} {flt : Nat → Nat → State → State} {go : State → State}

theorem doorbell_of_lt (h : v < size) : doorbell 0xF v size ign flt go s = go s := by
  simp [doorbell, Nat.not_le.mpr h]

theorem doorbell_of_le (h : size ≤ v) : doorbell 0xF v size ign flt go s = flt 0 1 (ign s) := by
  simp [doorbell, h]

theorem doorbell_of_narrow (h : be ≠ 0xF) : doorbell be v size ign flt go s = flt 1 2 (ign (narrowCount s)) :=
  if_pos (bne_iff_ne.mpr h)

end doorbell

/-! ## The registers of the rings (R492, R496) -/

section registers
variable {k : Nat} (hk : k < 4) (be v : Nat)
include hk

theorem regWrite_ringCmdTail : regWrite (0x10C + 0x40 * k) be v s = ringCmdTail k be v s := by
  interval_cases k <;> rfl

theorem regWrite_ringRplTail : regWrite (0x120 + 0x40 * k) be v s = ringRplTail k be v s := by
  interval_cases k <;> rfl

theorem regWrite_ringCtrl : regWrite (0x128 + 0x40 * k) be v s = ringCtrl k (merge be (ringCtrlValue s k) v) s := by
  have hrange : (decide (0x100 ≤ 0x128 + 0x40 * k) && decide (0x128 + 0x40 * k < 0x200)) = true := by
    simp only [Bool.and_eq_true, decide_eq_true_eq]
    omega
  have hpair : (0x128 + 0x40 * k - 0x100) / 0x40 = k := by omega
  have hreg : (0x128 + 0x40 * k - 0x100) % 0x40 = 0x28 := by omega
  unfold regWrite
  rw [if_pos hrange]
  simp only [hpair, hreg]

end registers

theorem regWrite_hfrTxTail (be v : Nat) : regWrite 0x40C be v s = hfrTxTail be v s := rfl

theorem regWrite_hfrRxTail (be v : Nat) : regWrite 0x420 be v s = hfrRxTail be v s := rfl

/-- The offset is a variable, for over the numeral itself the kernel's check recurses too deep. -/
theorem regWrite_hfrCtrl {off : Nat} (hoff : off = 0x428) (be v : Nat) : regWrite off be v s = hfrCtrl (merge be (hfrCtrlValue s) v) s := by
  have hring : ¬(decide (0x100 ≤ off) && decide (off < 0x200)) = true := by simp [hoff]
  have hjournal : ¬ off = 0x204 := by omega
  have hmask : ¬(decide (0x380 ≤ off) && decide (off < 0x400)) = true := by simp [hoff]
  have hhfr : (decide (0x400 ≤ off) && decide (off < 0x500)) = true := by simp [hoff]
  unfold regWrite
  rw [if_neg hring, if_neg hjournal, if_neg hmask, if_pos hhfr]
  simp only [hoff]

section served
variable (hup : windowUp s = true) (hclk : s.clk.coreStopped = false)
include hup hclk

theorem exec_ringCmdTail {k be : Nat} (v : Nat) (hk : k < 4) (hbe : contiguous be = true) :
    exec (.ringCmdTail k be v) s = .next (ringCmdTail k be v s) := by
  change Host.Outcome.next (hostWrite (0x10C + 0x40 * (k % 4)) be v s) = _
  rw [Nat.mod_eq_of_lt hk, hostWrite_of_contiguous s _ be v hup hclk hbe, regWrite_ringCmdTail s hk]

theorem exec_ringRplTail {k be : Nat} (v : Nat) (hk : k < 4) (hbe : contiguous be = true) :
    exec (.ringRplTail k be v) s = .next (ringRplTail k be v s) := by
  change Host.Outcome.next (hostWrite (0x120 + 0x40 * (k % 4)) be v s) = _
  rw [Nat.mod_eq_of_lt hk, hostWrite_of_contiguous s _ be v hup hclk hbe, regWrite_ringRplTail s hk]

theorem exec_hfrTxTail {be : Nat} (v : Nat) (hbe : contiguous be = true) : exec (.hfrTxTail be v) s = .next (hfrTxTail be v s) := by
  change Host.Outcome.next (hostWrite 0x40C be v s) = _
  rw [hostWrite_of_contiguous s _ be v hup hclk hbe, regWrite_hfrTxTail]

theorem exec_hfrRxTail {be : Nat} (v : Nat) (hbe : contiguous be = true) : exec (.hfrRxTail be v) s = .next (hfrRxTail be v s) := by
  change Host.Outcome.next (hostWrite 0x420 be v s) = _
  rw [hostWrite_of_contiguous s _ be v hup hclk hbe, regWrite_hfrRxTail]

/-! ## Ring control (R75, R84, R492, R496) -/

theorem hostWrite_ringCtrl {k : Nat} (v : Nat) (hk : k < 4) :
    hostWrite (0x128 + 0x40 * (k % 4)) 0xF v s = ringCtrl k (merge 0xF (ringCtrlValue s k) v) s := by
  rw [Nat.mod_eq_of_lt hk, hostWrite_of_contiguous s _ 0xF v hup hclk contiguous_whole, regWrite_ringCtrl s hk]

theorem exec_ringPairEnable {k : Nat} (v : Nat) (hk : k < 4) : exec (.ringPairEnable k v) s = .next (
    let s1 := modRing k (fun r => { r with vector := v % 256 }) s
    if (ring s k).enable then s1
    else if ringConfigOk (ring s k) then modRing k (fun r => { r with enable := true }) s1
    else ringFault k 4 5 s1) := by
  change Host.Outcome.next (hostWrite (0x128 + 0x40 * (k % 4)) 0xF (2 ^ 31 + v % 256) s) = _
  have hset : 2 ^ 31 ≤ (2 ^ 31 + v % 256) % 2 ^ 32 := by omega
  have hvector : (2 ^ 31 + v % 256) % 256 = v % 256 := by omega
  rw [hostWrite_ringCtrl s hup hclk _ hk, ringCtrl, bit_31_merge_whole, merge_whole_mod_256, hvector, decide_eq_true hset]
  rfl

theorem exec_ringPairDisable {k : Nat} (v : Nat) (hk : k < 4) : exec (.ringPairDisable k v) s = .next (
    let s1 := modRing k (fun r => { r with vector := v % 256 }) s
    if (ring s k).enable then ringDisable k s1 else s1) := by
  change Host.Outcome.next (hostWrite (0x128 + 0x40 * (k % 4)) 0xF (v % 256) s) = _
  have hclear : ¬ 2 ^ 31 ≤ v % 256 % 2 ^ 32 := by omega
  rw [hostWrite_ringCtrl s hup hclk _ hk, ringCtrl, bit_31_merge_whole, merge_whole_mod_256, Nat.mod_mod, decide_eq_false hclear]
  rfl

theorem exec_hfrTxEnable (on : Bool) :
    exec (.hfrTxEnable on) s = .next (hfrCtrl (merge 0xF (hfrCtrlValue s) (setBit (hfrCtrlValue s) 31 on)) s) := by
  change Host.Outcome.next (hostWrite 0x428 0xF (setBit (hfrCtrlValue s) 31 on) s) = _
  rw [hostWrite_of_contiguous s _ 0xF _ hup hclk contiguous_whole, regWrite_hfrCtrl s rfl]

theorem exec_hfrRxEnable (on : Bool) :
    exec (.hfrRxEnable on) s = .next (hfrCtrl (merge 0xF (hfrCtrlValue s) (setBit (hfrCtrlValue s) 30 on)) s) := by
  change Host.Outcome.next (hostWrite 0x428 0xF (setBit (hfrCtrlValue s) 30 on) s) = _
  rw [hostWrite_of_contiguous s _ 0xF _ hup hclk contiguous_whole, regWrite_hfrCtrl s rfl]

end served

/-- Settles O18: each doorbell is the one rule of R84 and R88 over its own ring, and ring control acts by bit 31 and the vector of what is written. -/
theorem doorbellsAndRingControlTakeEffect : Obligations.DoorbellsAndRingControlTakeEffect := by
  unfold Obligations.DoorbellsAndRingControlTakeEffect
  refine ⟨?rings, ?control, ?hostRings, fun on s hup hclk => ⟨exec_hfrTxEnable s hup hclk on, exec_hfrRxEnable s hup hclk on⟩⟩
  case rings =>
    intro k be v s hk hup hclk
    have hcmd := fun be => exec_ringCmdTail s hup hclk (be := be) v hk
    have hrpl := fun be => exec_ringRplTail s hup hclk (be := be) v hk
    refine ⟨?cmdIn, ?cmdOut, ?cmdNarrow, ?rplIn, ?rplOut, ?rplNarrow⟩
    case cmdIn => exact fun h => (hcmd _ contiguous_whole).trans (congrArg _ (doorbell_of_lt h))
    case cmdOut => exact fun h => (hcmd _ contiguous_whole).trans (congrArg _ (doorbell_of_le h))
    case cmdNarrow => exact fun hbe hne => (hcmd be hbe).trans (congrArg _ (doorbell_of_narrow hne))
    case rplIn => exact fun h => (hrpl _ contiguous_whole).trans (congrArg _ (doorbell_of_lt h))
    case rplOut => exact fun h => (hrpl _ contiguous_whole).trans (congrArg _ (doorbell_of_le h))
    case rplNarrow => exact fun hbe hne => (hrpl be hbe).trans (congrArg _ (doorbell_of_narrow hne))
  case control =>
    intro k v s hk hup hclk s1
    have henable := exec_ringPairEnable s hup hclk v hk
    have hdisable := exec_ringPairDisable s hup hclk v hk
    refine ⟨fun hoff => ?off, fun hon => ⟨?again, ?on⟩⟩
    case off => exact henable.trans (congrArg _ (if_neg (by simp [hoff])))
    case again => exact henable.trans (congrArg _ (if_pos hon))
    case on => exact hdisable.trans (congrArg _ (if_pos hon))
  case hostRings =>
    intro be v s hup hclk
    have htx := fun be => exec_hfrTxTail s hup hclk (be := be) v
    have hrx := fun be => exec_hfrRxTail s hup hclk (be := be) v
    refine ⟨?txIn, ?txOut, ?txNarrow, ?rxIn, ?rxOut, ?rxNarrow⟩
    case txIn => exact fun h => (htx _ contiguous_whole).trans (congrArg _ (doorbell_of_lt h))
    case txOut => exact fun h => (htx _ contiguous_whole).trans (congrArg _ (doorbell_of_le h))
    case txNarrow => exact fun hbe hne => (htx be hbe).trans (congrArg _ (doorbell_of_narrow hne))
    case rxIn => exact fun h => (hrx _ contiguous_whole).trans (congrArg _ (doorbell_of_lt h))
    case rxOut => exact fun h => (hrx _ contiguous_whole).trans (congrArg _ (doorbell_of_le h))
    case rxNarrow => exact fun hbe hne => (hrx be hbe).trans (congrArg _ (doorbell_of_narrow hne))

end Sys2Proof.Machine
end

section
/-! PROOF. The SPI target and the command rings take their packets (spec/02 R60, R61, R84-R88, R92, R93). -/

namespace Sys2Proof.Machine

variable (s : State)

/-! ## SPI (R92, R93) -/

theorem exec_spiStatus : exec .spiStatus s = .next (emitOut (.spiOut (toLE 1 (b2n (spiReady s) + 2 * b2n (!s.spi.replies.isEmpty) + 4 * b2n s.spi.crcErr +
    8 * b2n s.spi.overrun) ++ toLE 2 (s.spi.replies.headD []).length ++ zeros 1)) { s with spi := { s.spi with crcErr := false, overrun := false } }) := rfl

theorem exec_spiRead_cons (n : Nat) {d : List Byte} {rest : List (List Byte)} (h : s.spi.replies = d :: rest) :
    exec (.spiRead n) s = .next (emitOut (.spiOut ((BitVec.ofNat 8 (takeFree 8 s).1 :: d ++ List.replicate n 0xFF).take n))
      (if d.length < n then settleClosings { (takeFree 8 s).2 with spi := fillSpi s.spi.held.length { s.spi with replies := rest } }
        else (takeFree 8 s).2)) := by
  change execSpiRead n s = _
  simp only [execSpiRead, h, List.headD_cons, List.isEmpty_cons, List.tail_cons, Bool.not_false, Bool.and_true, decide_eq_true_eq]

theorem exec_spiRead_nil (n : Nat) (h : s.spi.replies = []) :
    exec (.spiRead n) s = .next (emitOut (.spiOut ((BitVec.ofNat 8 (takeFree 8 s).1 :: List.replicate n 0xFF).take n)) (takeFree 8 s).2) := by
  change execSpiRead n s = _
  simp only [execSpiRead, h, List.headD_nil, List.isEmpty_nil, Bool.not_true, Bool.and_false, Bool.false_eq_true, if_false, List.cons_append, List.nil_append]

section spi
variable (upset : Bool) (ext : Option (List Byte)) (hserving : serving s = true)
include hserving

/-- What the target writes ends in a trailer of four bytes over what comes before it (R60). -/
theorem spiWrite_of_ready (m : List Byte) {tr : Nat} (hready : spiReady s = true) (hword : tr < 2 ^ 32) :
    spiWrite (m ++ toLE 4 tr) upset ext s =
      if m.length + 4 < 20 || crc32 m != tr then { transportFault s with spi := { (transportFault s).spi with crcErr := true } }
      else if byteAt (m ++ toLE 4 tr) 0 != 0x5A then transportFault s
      else arrive (packetOf .spi m (m.drop 16) tr none upset ext) s := by
  have hlength : (m ++ toLE 4 tr).length = m.length + 4 := by rw [List.length_append, length_toLE]
  have htrailer : le (m ++ toLE 4 tr) m.length 4 = tr := by
    rw [le, List.drop_left, List.take_of_length_le (by simp), leNat_toLE]
    omega
  simp only [spiWrite, hserving, hready, Bool.not_true, Bool.false_eq_true, if_false, hlength, Nat.add_sub_cancel, List.take_left, htrailer]

theorem exec_spiWrite_of_good (m : List Byte) (hready : spiReady s = true) (hlen : 16 ≤ m.length) (hmagic : byteAt m 0 = 0x5A) :
    exec (.spiWrite (m ++ toLE 4 (crc32 m)) upset ext) s = .next (arrive (packetOf .spi m (m.drop 16) (crc32 m) none upset ext) s) := by
  change Host.Outcome.next (spiWrite (m ++ toLE 4 (crc32 m)) upset ext s) = _
  have hfirst : byteAt (m ++ toLE 4 (crc32 m)) 0 = 0x5A := by rw [byteAt_append_left _ (by omega), hmagic]
  rw [spiWrite_of_ready s upset ext hserving m hready (crc32_lt m), if_neg (by simp; omega), if_neg (by simp [hfirst])]

theorem exec_spiWrite_of_badTrailer (m : List Byte) {tr : Nat} (hready : spiReady s = true) (hword : tr < 2 ^ 32) (hbad : tr ≠ crc32 m) :
    exec (.spiWrite (m ++ toLE 4 tr) upset ext) s =
      .next { transportFault s with spi := { (transportFault s).spi with crcErr := true } } := by
  change Host.Outcome.next (spiWrite (m ++ toLE 4 tr) upset ext s) = _
  rw [spiWrite_of_ready s upset ext hserving m hready hword, if_pos (by simp [hbad.symm])]

theorem exec_spiWrite_of_notReady (b : List Byte) (hfull : spiReady s = false) : exec (.spiWrite b upset ext) s =
    .next { s with cp := { s.cp with transportFaults := s.cp.transportFaults + 1 }, spi := { s.spi with overrun := true } } := by
  change Host.Outcome.next (spiWrite b upset ext s) = _
  simp only [spiWrite, hserving, hfull, Bool.not_true, Bool.not_false, Bool.false_eq_true, if_false, if_true]
  rfl

end spi
/-! ## Command rings (R84-R88) -/

/-- The head of ring pair k moves past the descriptor. -/
def descriptorTaken (k : Nat) (s : State) : State := modRing k (fun r => { r with cmdHead := (r.cmdHead + 1) % max 1 r.cmdSize.toNat }) s

/-- What keeps ring pair k from fetching: it is not served or not enabled, has no descriptor to take, no posted buffer, or a reply held (R84, R87). -/
def fetchBlocked (k : Nat) (s : State) : Bool :=
  !serving s || !windowUp s || !(ring s k).enable || (ring s k).cmdHead = (ring s k).cmdTail || (ring s k).rplHead = (ring s k).rplTail ||
    !(ring s k).held.isEmpty

/-- A packet's length is wrong in its descriptor (R85). -/
def lengthWrong (d : List Byte) : Bool := le d 8 2 < 16 || 4096 < le d 8 2 || le d 8 2 % 4 != 0

theorem fetchBlocked_eq_false {k : Nat} (hserving : serving s = true) (hup : windowUp s = true) (henable : (ring s k).enable = true)
    (htake : (ring s k).cmdHead ≠ (ring s k).cmdTail) (hbuffer : (ring s k).rplHead ≠ (ring s k).rplTail) (hheld : (ring s k).held = []) :
    fetchBlocked k s = false := by
  simp [fetchBlocked, hserving, hup, henable, htake, hbuffer, hheld]

theorem lengthWrong_iff (d : List Byte) : lengthWrong d = true ↔ le d 8 2 < 16 ∨ 4096 < le d 8 2 ∨ le d 8 2 % 4 ≠ 0 := by
  simp [lengthWrong, or_assoc]

section rings
variable {k : Nat} (hfree : fetchBlocked k s = false) (upset : Bool) (ext : Option (List Byte))
include hfree

theorem ringFetch_of_noDescriptor (packet : Option (List Byte)) :
    ringFetch k none packet upset ext s = ringFault k 3 4 (ringDisable k s) := by
  rw [fetchBlocked] at hfree
  simp only [ringFetch, hfree, Bool.false_eq_true, if_false]

theorem ringFetch_of_lengthWrong {d : List Byte} (packet : Option (List Byte)) (hlength : lengthWrong d = true) :
    ringFetch k (some d) packet upset ext s = sendPacket (.ring k) none (badDescriptorReply s) (ringFault k 2 3 (descriptorTaken k s)) := by
  rw [fetchBlocked] at hfree
  rw [lengthWrong] at hlength
  simp only [ringFetch, hfree, hlength, Bool.false_eq_true, if_false, if_true]
  rfl

theorem ringFetch_of_noPacket {d : List Byte} (hlength : lengthWrong d = false) :
    ringFetch k (some d) none upset ext s = ringFault k 3 4 (ringDisable k s) := by
  rw [fetchBlocked] at hfree
  rw [lengthWrong] at hlength
  simp only [ringFetch, hfree, hlength, Bool.false_eq_true, if_false]

theorem ringFetch_of_packet {d : List Byte} (b : List Byte) (hlength : lengthWrong d = false) : ringFetch k (some d) (some b) upset ext s =
    if byteAt (slice b 0 (le d 8 2)) 0 != 0x5A then transportFault (descriptorTaken k s)
    else arrive (packetOf (.ring k) (slice b 0 (le d 8 2)) ((slice b 0 (le d 8 2)).drop 16) 0 none upset ext) (descriptorTaken k s) := by
  rw [fetchBlocked] at hfree
  rw [lengthWrong] at hlength
  simp only [ringFetch, hfree, hlength, Bool.false_eq_true, if_false]
  rfl

end rings

theorem exec_ringDescriptorFetch {k : Nat} (hk : k < 4) (desc packet : Option (List Byte)) (upset : Bool) (ext : Option (List Byte)) :
    exec (.ringDescriptorFetch k desc packet upset ext) s = .next (ringFetch k desc packet upset ext s) := by
  change Host.Outcome.next (ringFetch (k % 4) desc packet upset ext s) = _
  rw [Nat.mod_eq_of_lt hk]

/-- Settles O21: each transport tests its packet and hands a sound one to the front end. -/
theorem transportsTakeTheirPackets : Obligations.TransportsTakeTheirPackets := by
  unfold Obligations.TransportsTakeTheirPackets
  refine ⟨exec_spiStatus, fun n s d rest h => exec_spiRead_cons s n h, fun n s h => exec_spiRead_nil s n h, ?spiWrite, ?fetch⟩
  case spiWrite =>
    intro m upset ext s hserving
    exact ⟨exec_spiWrite_of_good s upset ext hserving m, fun _ => exec_spiWrite_of_badTrailer s upset ext hserving m,
      exec_spiWrite_of_notReady s upset ext hserving⟩
  case fetch =>
    intro k d packet upset ext s _ r n taken hk hserving hup henable htake hbuffer hheld
    have hfree : fetchBlocked k s = false := fetchBlocked_eq_false s hserving hup henable htake hbuffer hheld
    have hexec := fun desc packet => exec_ringDescriptorFetch s hk desc packet upset ext
    refine ⟨?noDescriptor, ?wrong, fun hmin hmax hword => ?sound⟩
    case noDescriptor => rw [hexec, ringFetch_of_noDescriptor s hfree]
    case wrong =>
      intro hwrong
      rw [hexec, ringFetch_of_lengthWrong s hfree upset ext packet ((lengthWrong_iff d).mpr hwrong)]
      rfl
    case sound =>
      have hlength : lengthWrong d = false := Bool.eq_false_of_not_eq_true fun h => by
        have hwrong : n < 16 ∨ 4096 < n ∨ n % 4 ≠ 0 := (lengthWrong_iff d).mp h
        omega
      refine ⟨?lost, fun b hmagic => ?good, fun b hmagic => ?bad⟩
      case lost => rw [hexec, ringFetch_of_noPacket s hfree upset ext hlength]
      case good =>
        rw [hexec, ringFetch_of_packet s hfree upset ext b hlength, if_neg (by simpa using hmagic)]
        rfl
      case bad =>
        rw [hexec, ringFetch_of_packet s hfree upset ext b hlength, if_pos (by simpa using hmagic)]
        rfl

end Sys2Proof.Machine
end

section
/-! PROOF. START_OF_FRAME: the reception that it opens at its port, and what it leaves alone (spec/03 R109-R115; spec/10 R346). -/

namespace Sys2Proof.Machine

/-! ## A port after an update of it -/

theorem rising_ports_of_wf {s : State} (h : State.wf s = true) : Rising s.ports = true := by
  simp only [State.wf, Bool.and_eq_true] at h
  have hports : Canon {} s.ports = true := by simp only [h]
  exact canon_rising hports

variable (s : State) (p : Nat)

theorem rising_modPort_ports (f : Port → Port) (h : Rising s.ports = true) : Rising (modPort p f s).ports = true := by
  rw [modPort_ports, tmod, tset]
  split
  · exact rising_tdel p h
  · exact rising_tput p _ h

theorem port_modPort (f : Port → Port) (h : Rising s.ports = true) : port (modPort p f s) p = f (port s p) := by
  rw [port, modPort_ports, tget_tmod _ h, if_pos rfl, port]

/-- A port that does not become a new one reads as written, however its table is listed. -/
theorem port_modPort_of_ne (f : Port → Port) (h : f (port s p) ≠ {}) : port (modPort p f s) p = f (port s p) := by
  rw [port, modPort_ports, tmod, tset, ← port, if_neg h, tget_tput, if_pos rfl]

/-! ## What the operations on the way leave -/

/-- What the statement speaks of: of the port, its configuration, its link, its reception and its tags; the frames and the next of them; the clocks,
the command queue, the headland and the option state. -/
def arrivalView (s : State) :=
  ((port s p).cfg, (port s p).link, (port s p).mac.rx, (port s p).mac.tag, s.frames, s.nextUid, s.clk, s.pending, s.hl, s.opt)

@[simp] theorem arrivalView_touchPort (q : Nat) (all : Bool) : arrivalView p (touchPort q all s) = arrivalView p s := by
  unfold touchPort
  cases all <;> rfl

@[simp] theorem ports_touchPort (q : Nat) (all : Bool) : (touchPort q all s).ports = s.ports := by
  unfold touchPort
  cases all <;> rfl

@[simp] theorem arrivalView_fireMs (sub src cause : Nat) (payload : List Byte) :
    arrivalView p (fireMs sub src cause payload s) = arrivalView p s := by
  simp [arrivalView, port]

@[simp] theorem arrivalView_gctr (k h : Nat) : arrivalView p (gctr k h s) = arrivalView p s := by
  unfold gctr modHalf
  split <;> rfl

theorem arrivalView_macCtr (k n : Nat) (h : Rising s.ports = true) : arrivalView p (macCtr p k n s) = arrivalView p s := by
  have hcount : ∀ c : Port → Table Nat, arrivalView p (modPort p (fun x => { x with mac := { x.mac with ctr := c x } }) s) =
      arrivalView p s := fun c => by
    simp [arrivalView, port_modPort s p _ h]
  have hfire : ∀ src cause b t, arrivalView p (fire src cause b t) = arrivalView p t := fun _ _ _ _ => by simp [arrivalView, port]
  unfold macCtr
  dsimp only
  split <;> simp [hcount, hfire]

theorem arrivalView_rxOverflow (h : Rising s.ports = true) : arrivalView p (rxOverflow p s) = arrivalView p s := by
  rw [rxOverflow, arrivalView_fireMs, arrivalView_macCtr s p 22 1 h]

theorem arrivalView_setMacTag (k v : Nat) (h : Rising s.ports = true) : arrivalView p (setMacTag p k v s) =
    ((port s p).cfg, (port s p).link, (port s p).mac.rx, tset 0 (port s p).mac.tag k (v % 65536), s.frames, s.nextUid, s.clk, s.pending, s.hl,
      s.opt) := by
  simp [arrivalView, setMacTag, port_modPort s p _ h]

/-! ## A frame begins at a port that receives none -/

theorem rxPreempt_of_idle (h : (port s p).mac.rx = none) : rxPreempt p s = s := by
  simp only [rxPreempt, h]

/-- The port receives the frame x, the next new one, and its slice wakes. -/
def receiving (x : Frame) : State :=
  touchPort p (!sliceUp s p || x.early == 7) (modPort p (fun y => { y with mac := { y.mac with rx := some s.nextUid } })
    { s with frames := tput s.frames s.nextUid x, nextUid := s.nextUid + 1 })

/-- A refused frame overflows the FIFO; one to switch takes its tag; one of TC7 that finds one half only is counted in half h. -/
def noted (x : Frame) (lone : Bool) (h : Nat) (s : State) : State :=
  let t := if x.refused then rxOverflow p s else if x.own = 0 then setMacTag p x.early (x.tag + 1) s else s
  if lone then fireMs 0 0x20C 0 [] (gctr 7 h t) else t

/-- The frame that begins, as far as R109-R115 fix it. -/
structure Begins (b : List Byte) (x : Frame) : Prop where
  bytes : x.bytes = b
  port : x.port = p
  start : x.start = s.clk.edges
  early : x.early = earlyClass (Machine.port s p).cfg b
  own : x.own = ownKind s p b
  limit : x.limit = (Machine.port s p).cfg.maxFrame
  refused : x.refused = true ↔ ownKind s p b = 0 ∧ fifoFree s p < (Machine.port s p).cfg.maxFrame
  tag : x.tag = macTag s p (earlyClass (Machine.port s p).cfg b)

theorem startFrame_of_idle (b : List Byte) (hup : (port s p).link.rxUp = true) (hidle : (port s p).mac.rx = none) :
    ∃ x lone h, Begins s p b x ∧ startFrame p b s = noted p x lone h (receiving s p x) := by
  have hstarts : ¬ (!(port s p).link.rxUp || (port s p).mac.rx.isSome) = true := by simp [hup, hidle]
  unfold startFrame
  rw [rxPreempt_of_idle s p hidle]
  extract_lets now c u own k tb ns full tag a d cp keep x s1 s2 s3 s4
  have hclass : k = earlyClass (port s p).cfg b := by simp only [k, c, now]
  have hown : own = ownKind s p b := rfl
  have hrefused : full = true ↔ ownKind s p b = 0 ∧ fifoFree s p < c.maxFrame := by simp [full, hown, now]
  have htag : tag = macTag s p (earlyClass (port s p).cfg b) := by simp only [tag, hclass, now]
  have hnoted : s4 = if full then rxOverflow p s3 else if own = 0 then setMacTag p k (tag + 1) s3 else s3 := by
    cases hfull : full <;> simp [s4, keep, hfull]
  clear_value k own tag full
  have hbegins : Begins s p b x := ⟨rfl, rfl, rfl, hclass, hown, rfl, hrefused, htag⟩
  rw [if_neg hstarts, hnoted]
  exact ⟨x, keep && k == 7 && a != d, s.hl.lead, hbegins, rfl⟩

theorem frame_receiving (x : Frame) : frame (receiving s p x) s.nextUid = x := by
  unfold receiving touchPort
  cases (!sliceUp s p || x.early == 7) <;> exact (tget_tput _ _ _ _ _).trans (if_pos rfl)

theorem rising_receiving_ports (x : Frame) (h : Rising s.ports = true) : Rising (receiving s p x).ports = true := by
  rw [receiving, ports_touchPort]
  exact rising_modPort_ports _ p _ h

theorem arrivalView_receiving (x : Frame) (h : Rising s.ports = true) : arrivalView p (receiving s p x) =
    ((port s p).cfg, (port s p).link, some s.nextUid, (port s p).mac.tag, tput s.frames s.nextUid x, s.nextUid + 1, s.clk, s.pending, s.hl,
      s.opt) := by
  rw [receiving, arrivalView_touchPort, arrivalView,
    port_modPort { s with frames := tput s.frames s.nextUid x, nextUid := s.nextUid + 1 } p _ h]
  rfl

theorem arrivalView_noted (x : Frame) (lone : Bool) (h : Nat) (hports : Rising s.ports = true) : arrivalView p (noted p x lone h s) =
    ((port s p).cfg, (port s p).link, (port s p).mac.rx,
      if x.own = 0 ∧ ¬ x.refused = true then tset 0 (port s p).mac.tag x.early ((x.tag + 1) % 65536) else (port s p).mac.tag,
      s.frames, s.nextUid, s.clk, s.pending, s.hl, s.opt) := by
  have hlone : ∀ t, arrivalView p (if lone then fireMs 0 0x20C 0 [] (gctr 7 h t) else t) = arrivalView p t := fun t => by
    cases lone <;> simp
  rw [noted, hlone]
  by_cases hrefused : x.refused = true
  · rw [if_pos hrefused, if_neg (fun h => h.2 hrefused), arrivalView_rxOverflow s p hports]
    rfl
  · rw [if_neg hrefused]
    by_cases hown : x.own = 0
    · rw [if_pos hown, if_pos ⟨hown, hrefused⟩, arrivalView_setMacTag s p _ _ hports]
    · rw [if_neg hown, if_neg (fun h => hown h.1)]
      rfl

/-! ## A frame that begins while another is received (R346) -/

/-- The frame v, which its sender has preempted, stands where it is. -/
def preemptedRx (v : Nat) : State :=
  modFrame v (fun x => { x with rxFloor := rxBytes x s.clk.edges, rxFrozen := true })
    (modPort p (fun y => { y with mac := { y.mac with rx := none, rxHeld := some (v, s.clk.edges) } }) s)

theorem modFrame_ports (u : Nat) (g : Frame → Frame) : (modFrame u g s).ports = s.ports := by
  unfold modFrame
  split <;> rfl

theorem modFrame_clk (u : Nat) (g : Frame → Frame) : (modFrame u g s).clk = s.clk := by
  unfold modFrame
  split <;> rfl

theorem port_preemptedRx (v : Nat) : port (preemptedRx s p v) p =
    { port s p with mac := { (port s p).mac with rx := none, rxHeld := some (v, s.clk.edges) } } := by
  rw [preemptedRx, port, modFrame_ports]
  exact port_modPort_of_ne s p _ fun h => absurd (congrArg (·.mac.rxHeld) h) (Option.some_ne_none _)

theorem rxPreempt_of_barred (h : (port s p).drill.pre.enable = false ∨ (port s p).mac.rxHeld ≠ none) : rxPreempt p s = s := by
  have hbarred : (!(port s p).drill.pre.enable || (port s p).mac.rxHeld.isSome) = true := by
    simpa [Option.isSome_iff_ne_none] using h
  unfold rxPreempt
  split
  · rfl
  · exact if_pos hbarred

section receiving
variable {v : Nat} (hrx : (port s p).mac.rx = some v)
include hrx

theorem rxPreempt_of_enabled (henable : (port s p).drill.pre.enable = true) (hheld : (port s p).mac.rxHeld = none) :
    rxPreempt p s = preemptedRx s p v := by
  have hfree : ¬ (!(port s p).drill.pre.enable || (port s p).mac.rxHeld.isSome) = true := by simp [henable, hheld]
  simp only [rxPreempt, hrx, if_neg hfree]
  rfl

theorem startFrame_of_receiving (b : List Byte) (hup : (port s p).link.rxUp = true)
    (henable : (port s p).drill.pre.enable = true) (hheld : (port s p).mac.rxHeld = none) :
    startFrame p b s = startFrame p b (preemptedRx s p v) := by
  have hport := port_preemptedRx s p v
  have hidle : (port (preemptedRx s p v) p).mac.rx = none := by rw [hport]
  have hstarts : ¬ (!(port (preemptedRx s p v) p).link.rxUp || (port (preemptedRx s p v) p).mac.rx.isSome) = true := by simp [hport, hup]
  unfold startFrame
  rw [rxPreempt_of_enabled s p hrx henable hheld, rxPreempt_of_idle _ p hidle]
  simp only [if_neg hstarts]

end receiving

/-- Preemption by the sender leaves the links. -/
theorem link_rxPreempt : (port (rxPreempt p s) p).link = (port s p).link := by
  unfold rxPreempt
  split
  · rfl
  · next v _ =>
    split
    · rfl
    · exact (congrArg Port.link (port_preemptedRx s p v)).trans rfl

theorem startFrame_of_not_starting (b : List Byte)
    (h : (port (rxPreempt p s) p).link.rxUp = false ∨ (port (rxPreempt p s) p).mac.rx ≠ none) : startFrame p b s = s := by
  have hbarred : (!(port (rxPreempt p s) p).link.rxUp || (port (rxPreempt p s) p).mac.rx.isSome) = true := by
    simpa [Option.isSome_iff_ne_none] using h
  unfold startFrame
  exact if_pos hbarred

theorem exec_startOfFrame (b : List Byte) (hclk : s.clk.coreStopped = false) : exec (.startOfFrame p b) s = .next (startFrame p b s) := by
  change execStartOfFrame p b s = _
  simp only [execStartOfFrame, hclk, Bool.false_eq_true, if_false]

/-- Settles O22: a port that receives nothing takes the frame, one whose sender may preempt holds its frame back first, and no other takes it. -/
theorem aFrameBeginsAtItsPort : Obligations.AFrameBeginsAtItsPort := by
  unfold Obligations.AFrameBeginsAtItsPort
  refine ⟨?idle, ?preempting, ?barred⟩
  case idle =>
    intro p b s hclk hwf hup hidle u c full
    have hports := rising_ports_of_wf hwf
    obtain ⟨x, lone, h, hx, hstart⟩ := startFrame_of_idle s p b hup hidle
    have hview := arrivalView_noted (receiving s p x) p x lone h (rising_receiving_ports s p x hports)
    have hrec := arrivalView_receiving s p x hports
    simp only [arrivalView, Prod.mk.injEq] at hview hrec
    obtain ⟨hcfg, hlink, hrx, htag, hframes, huid, hclk', hpending, hhl, hopt⟩ := hview
    obtain ⟨rcfg, rlink, rrx, rtag, -, ruid, rclk, rpending, rhl, ropt⟩ := hrec
    have hframe : frame (noted p x lone h (receiving s p x)) u = x := by
      rw [frame, hframes]
      exact frame_receiving s p x
    have htags : (port (noted p x lone h (receiving s p x)) p).mac.tag =
        if ownKind s p b = 0 ∧ ¬ full then tset 0 (port s p).mac.tag (earlyClass c b) ((macTag s p (earlyClass c b) + 1) % 65536)
        else (port s p).mac.tag := by
      simp only [htag, rtag, hx.own, hx.refused, hx.early, hx.tag, full, c]
    refine ⟨_, (exec_startOfFrame s p b hclk).trans (congrArg Host.Outcome.next hstart), hrx.trans rrx, huid.trans ruid, ?_⟩
    rw [hframe]
    exact ⟨hx.bytes, hx.port, hx.start, hx.early, hx.own, hx.limit, hx.refused, hx.tag, htags, hcfg.trans rcfg, hlink.trans rlink,
      hclk'.trans rclk, hpending.trans rpending, hhl.trans rhl, hopt.trans ropt⟩
  case preempting =>
    intro p v b s hclk _ hup hrx henable hheld held
    have hclk' : held.clk.coreStopped = false := by rw [← hclk]; exact congrArg Clocks.coreStopped (modFrame_clk _ _ _)
    rw [exec_startOfFrame s p b hclk, exec_startOfFrame held p b hclk']
    exact congrArg Host.Outcome.next (startFrame_of_receiving s p hrx b hup henable hheld)
  case barred =>
    intro p b s hclk hbarred
    rw [exec_startOfFrame s p b hclk]
    refine congrArg Host.Outcome.next (startFrame_of_not_starting s p b ?_)
    rcases hbarred with hdown | ⟨hrx, hkept⟩
    · exact .inl ((congrArg LinkState.rxUp (link_rxPreempt s p)).trans hdown)
    · rw [rxPreempt_of_barred s p hkept]
      exact .inr hrx

end Sys2Proof.Machine
end

section
/-! PROOF. The Drill's choice, its start opportunities, and the end of a transmission (spec/03 R107, R113; spec/09 R305, R315; spec/10 R323,
R324, R341, R352). -/

namespace Sys2Proof.Machine

variable (s : State) (p : Nat)

/-! ## The choice of a class (R323, R324) -/

theorem heldClass_of_none (h : (port s p).drill.held = none) : heldClass s p = none := by
  simp only [heldClass, h]

/-- TC7 passes no shaper: where it is considered and ready, and its frame fits its gate, it is eligible, and nothing is counted. -/
theorem eligible_seven {only : Nat → Bool} {c : EgCopy} (hheld : (port s p).drill.held = none) (honly : only 7 = true)
    (hready : classReady s p 7 = true) (hhead : headOf s p 7 = some c) (hfits : gateFits s p 7 (expectOf s (frame s c.uid)) = true) :
    eligible p only 7 s = (true, s) := by
  have hnext : (heldClass s p == some 7) = false := by rw [heldClass_of_none s p hheld]; rfl
  simp [eligible, hnext, hheld, honly, hready, hhead, hfits]

/-- The eligible classes, collected over a list of classes, with what the tests count. -/
def collectEligible (only : Nat → Bool) (l : List Nat) (a : List Nat × State) : List Nat × State :=
  l.foldl (fun a k => (if (eligible p only k a.2).1 then k :: a.1 else a.1, (eligible p only k a.2).2)) a

/-- A class once found eligible stays in the collection. -/
theorem mem_collectEligible {only : Nat → Bool} {k : Nat} (l : List Nat) (a : List Nat × State) (h : k ∈ a.1) :
    k ∈ (collectEligible p only l a).1 := by
  induction l generalizing a with
  | nil => exact h
  | cons i l ih =>
    refine ih _ ?_
    change k ∈ if (eligible p only i a.2).1 then i :: a.1 else a.1
    split
    · exact List.mem_cons_of_mem i h
    · exact h

theorem chooseClass_of_seven_eligible {only : Nat → Bool} (h : eligible p only 7 s = (true, s)) : (chooseClass p only s).1 = some 7 := by
  have hmem : 7 ∈ (collectEligible p only [7, 6, 5, 4, 3, 2, 1, 0] ([], s)).1 := by
    refine mem_collectEligible p [6, 5, 4, 3, 2, 1, 0] _ ?_
    simp only [h, if_true, List.mem_singleton]
  have hfind : [7, 6, 5].find? (fun k => (collectEligible p only [7, 6, 5, 4, 3, 2, 1, 0] ([], s)).1.contains k) = some 7 :=
    List.find?_cons_of_pos (by simpa using hmem)
  unfold chooseClass
  dsimp only
  split
  · next k hk => exact hk.symm.trans hfind
  · next hk => exact absurd (hk.symm.trans hfind) (Option.some_ne_none 7).symm

theorem chooseClass_of_seven_ready {only : Nat → Bool} (hheld : (port s p).drill.held = none) (honly : only 7 = true)
    (hready : classReady s p 7 = true) (hfits : ∀ c, headOf s p 7 = some c → gateFits s p 7 (expectOf s (frame s c.uid)) = true) :
    (chooseClass p only s).1 = some 7 := by
  have hhead : (headOf s p 7).isSome = true := by
    simp only [classReady, Bool.and_eq_true] at hready
    obtain ⟨⟨⟨-, hhead⟩, -⟩, -⟩ := hready
    exact hhead
  obtain ⟨c, hc⟩ := Option.isSome_iff_exists.mp hhead
  exact chooseClass_of_seven_eligible s p (eligible_seven s p hheld honly hready hc (hfits c hc))

/-! ## Start opportunities (R107, R341, R347) -/

/-- The inter-frame gap of a port is over; without an outstanding frame, the preemption settings last set are in force. -/
def gapOver (t : State) : State :=
  if (port t p).drill.held.isNone then modDrill p (fun d => { d with preOld := none }) (reachEdge (port t p).drill.freeAt t)
  else reachEdge (port t p).drill.freeAt t

/-- The receive link of a port is up and the port is not held down. -/
def receives : Bool := (port s p).link.rxUp && !(port s p).link.heldDown

/-- The heads that can never fit their gates have gone (R341). -/
def gatesPurged (t : State) : State := (List.range 8).foldl (fun s k => gatePurge p k (queuedCopies s p) s) t

/-- The classes that an idle transmitter considers: without a receiving port, that of the preempted frame h alone (R347). -/
def considered (up : Bool) (h : Option (Nat × Nat)) (t : State) (k : Nat) : Bool :=
  up || (h.bind (fun h => egCopy t p h.1 h.2)).map (·.cls) == some k

section opportunity
variable {p}

theorem startOpportunity_of_busy (h : (port (preemptTx p s) p).drill.tx ≠ none) : startOpportunity p s = preemptTx p s := by
  unfold startOpportunity
  exact if_pos (Option.isSome_iff_ne_none.mpr h)

variable (htx : (port (preemptTx p s) p).drill.tx = none)
include htx

/-- With the transmitter idle, the gap passes, and then the links say what follows. -/
theorem startOpportunity_of_idle {t : State} (ht : gapOver p (preemptTx p s) = t) : startOpportunity p s =
    if !(port t p).link.txUp || (!receives t p && (port (preemptTx p s) p).drill.held.isNone) then purgeDown p (queuedCopies t p) t
    else startNext p (considered p (receives t p) (port (preemptTx p s) p).drill.held (gatesPurged p t)) (queuedCopies (gatesPurged p t) p + 1)
      (gatesPurged p t) := by
  subst ht
  have hidle : ¬ (port (preemptTx p s) p).drill.tx.isSome = true := by simp [htx]
  unfold startOpportunity
  exact if_neg hidle

end opportunity

theorem exec_drillStartOpportunity (hclk : s.clk.coreStopped = false) : exec (.drillStartOpportunity p) s = .next (startOpportunity p s) := by
  change execDrillStartOpportunity p s = _
  simp only [execDrillStartOpportunity, hclk, Bool.false_eq_true, if_false]

/-! ## The end of a transmission (R113, R305, R315) -/

theorem exec_txFrameEnd (hclk : s.clk.coreStopped = false) : exec (.txFrameEnd p) s = .next (txFrameEnd p s) := by
  change execTxFrameEnd p s = _
  simp only [execTxFrameEnd, hclk, Bool.false_eq_true, if_false]

theorem exec_egressUnderrun (hclk : s.clk.coreStopped = false) : exec (.egressUnderrun p) s = .next (egressUnderrun p s) := by
  change execEgressUnderrun p s = _
  simp only [execEgressUnderrun, hclk, Bool.false_eq_true, if_false]

/-- The bytes of a copy whose words have arrived, as they are sent. -/
def arrivedBytes (c : EgCopy) : List Byte :=
  let x := frame s c.uid
  editBody (editsOf s p c x) (hasHsr (winParse s c.fur x)) false ((egBytes p c x).take ((c.got - 1) * 32))

/-- A frame of bytes b that outgrows MAX_FRAME ends there with a bad tail, counted (R113). -/
def cutAtLimit (t : Tx) (c : EgCopy) (b : List Byte) : State :=
  finishTx p t c (badTail (b.take (port s p).cfg.maxFrame)) false (countTail c.uid c.fur 7 (macCtr p 46 1 s))

section sending
variable {s p} {t : Tx} (htx : (port s p).drill.tx = some t)
include htx

theorem txFrameEnd_of_gone (hgone : egCopy s p t.uid t.id = none) : txFrameEnd p s = modDrill p (fun d => { d with tx := none }) s := by
  simp only [txFrameEnd, htx, hgone]

variable {c : EgCopy} (hcopy : egCopy s p t.uid t.id = some c)
include hcopy

theorem txFrameEnd_of_open (hopen : c.closed = false) (hlong : (port s p).cfg.maxFrame < (arrivedBytes s p c).length) :
    txFrameEnd p s = cutAtLimit s p t c (arrivedBytes s p c) := by
  simp only [txFrameEnd, htx, hcopy, hopen, Bool.false_eq_true, if_false]
  exact if_pos hlong

theorem txFrameEnd_of_closed (hclosed : c.closed = true) : txFrameEnd p s =
    if (port s p).cfg.maxFrame < (txImage s p c).1.length then cutAtLimit s p t c (txImage s p c).1
    else finishTx p t c (txImage s p c).1 (txImage s p c).2 s := by
  simp only [txFrameEnd, htx, hcopy, hclosed, if_true]
  rfl

theorem egressUnderrun_of_open (hopen : c.closed = false) :
    egressUnderrun p s = cutTx p t c 12 (fireFurMs c.fur (xBase c.fur + 5) 0 (toLE 1 p ++ toLE 1 c.cls) s) := by
  simp only [egressUnderrun, htx, hcopy, hopen, Bool.false_eq_true, if_false]

end sending

/-- Settles O39: TC7 passes every test of the choice uncounted, and a start or an end of a transmission is the branch that the clause names. -/
theorem theDrillServesItsClassesInOrder : Obligations.TheDrillServesItsClassesInOrder := by
  unfold Obligations.TheDrillServesItsClassesInOrder
  refine ⟨?choice, ?opportunity, ?gone, ?openCopy, ?closedCopy, ?underrun⟩
  case choice =>
    intro p only s hheld honly hready hfits
    exact chooseClass_of_seven_ready s p hheld honly hready hfits
  case opportunity =>
    intro p s hclk s1 d s2 s3 l up s4 held
    have hs3 : gapOver p s1 = s3 := by simp only [gapOver, Option.isNone_iff_eq_none, s3, s2, d]
    rw [exec_drillStartOpportunity s p hclk]
    refine ⟨fun htx => ?busy, fun htx hdown => ?down, fun htx htxUp hup => ?up⟩
    case busy => rw [startOpportunity_of_busy s htx]
    case down =>
      have hpurges : (!l.txUp || (!up && d.held.isNone)) = true := by simpa using hdown
      rw [startOpportunity_of_idle s htx hs3]
      exact congrArg Host.Outcome.next (if_pos hpurges)
    case up =>
      have hstarts : ¬ (!l.txUp || (!up && d.held.isNone)) = true := by
        rcases hup with hup | hheld
        · simp [htxUp, hup]
        · simp [htxUp, hheld]
      rw [startOpportunity_of_idle s htx hs3]
      exact congrArg Host.Outcome.next (if_neg hstarts)
  case gone =>
    intro p t s hclk htx hgone
    rw [exec_txFrameEnd s p hclk, txFrameEnd_of_gone htx hgone]
  case openCopy =>
    intro p t c s hclk x part htx hcopy hopen hlong
    rw [exec_txFrameEnd s p hclk, txFrameEnd_of_open htx hcopy hopen hlong]
    rfl
  case closedCopy =>
    intro p t c s hclk im htx hcopy hclosed
    rw [exec_txFrameEnd s p hclk, txFrameEnd_of_closed htx hcopy hclosed]
    exact ⟨fun hshort => by rw [if_neg (Nat.not_lt.mpr hshort)], fun hlong => by rw [if_pos hlong]; rfl⟩
  case underrun =>
    intro p t c s hclk htx hcopy hopen
    rw [exec_egressUnderrun s p hclk, egressUnderrun_of_open htx hcopy hopen]

end Sys2Proof.Machine
end

section
/-! PROOF. Links come up and go down: what a lane hears, bring-up, PHY polls, retraining, adaptation and FEC (spec/03 R97-R107, R126). -/

namespace Sys2Proof.Machine

/-! ## LINK_UP and LINK_DOWN (R99, R107, R119) -/

/-- What a lane hears at a LINK_UP of port p, and the step that an adapting CTLE has come to. -/
def heardUp (p : Nat) (g : Gains) (s : State) : State :=
  modLane g.lane (fun x => { laneHears (modeOf s p) true g.sync g.headers 0 x with step := if x.fixed || x.frozen then x.step else g.step }) s

/-- Both links of port p come up. -/
def cameUp (p : Nat) (s t : State) : State := modLink p (fun l => { l with
  rxUp := true, txUp := true, phase := 3, failReported := false, lastChange := nowT64 s, fault := 0
  result := if stepping (port s p).cfg then (if (port s p).link.chosen = 0 then 2 else 1) else 0 }) t

section linkUp
variable {s : State} {p : Nat} {g : Gains} (hclk : s.clk.coreStopped = false) (hconf : (port s p).cfg.configured = true)
  (hfwd : forwarding s = true) (hphase : (port s p).link.phase = 2 ∨ (port s p).link.phase = 3) (hheld : (port s p).link.heldDown = false)
  (hlane : g.lane ∈ lanesOf s p)
include hconf hfwd hphase hheld hlane

theorem linkUp_seeks : (!(port s p).cfg.configured || !forwarding s || !((port s p).link.phase == 2 || (port s p).link.phase == 3) ||
    (port s p).link.heldDown || !(lanesOf s p).contains g.lane) = false := by
  simpa [hconf, hfwd, hheld, hlane] using or_iff_not_imp_left.mp hphase

include hclk

theorem exec_linkUp_of_unlocked (hlock : portLocked (heardUp p g s) p = false) :
    exec (.linkUp p g) s = .next (laneDown (lanePorts (heardUp p g s) p) (heardUp p g s)) := by
  change execLinkUp p g s = _
  simp only [heardUp] at hlock
  simp only [execLinkUp, hclk, linkUp_seeks hconf hfwd hphase hheld hlane, hlock, Bool.not_false, if_true, Bool.false_eq_true, if_false]
  rfl

theorem exec_linkUp_of_locked (hlock : portLocked (heardUp p g s) p = true) (hphy : phyMode (port s p).cfg.mode = false)
    (hdown : (port s p).link.rxUp = false) :
    exec (.linkUp p g) s = .next (verifyStart p (fire (4 * p) 0x01 [] (cameUp p s (heardUp p g s)))) := by
  change execLinkUp p g s = _
  simp only [heardUp] at hlock
  simp only [execLinkUp, hclk, linkUp_seeks hconf hfwd hphase hheld hlane, hlock, hphy, hdown, Bool.not_true, Bool.false_and, Bool.false_eq_true,
    if_false]
  rfl

end linkUp

section linkDown
variable {s : State} {p : Nat} (hclk : s.clk.coreStopped = false) (hp : p < nPorts s) (h : Hears)
include hclk hp

theorem exec_linkDown_tx (phy : Bool) : exec (.linkDown p false phy h) s = .next (txDown p s) := by
  change execLinkDown p false phy h s = _
  simp only [execLinkDown, hclk, Nat.not_le.mpr hp, Bool.not_false, Bool.false_eq_true, if_false, if_true]

theorem exec_linkDown_phy : exec (.linkDown p true true h) s = .next (rxDown p true s) := by
  change execLinkDown p true true h s = _
  simp only [execLinkDown, hclk, Nat.not_le.mpr hp, Bool.not_true, Bool.false_eq_true, if_false, if_true]

/-- What a lane hears at a LINK_DOWN of port p. -/
def heardDown (p : Nat) (h : Hears) (s : State) : State := modLane h.lane (laneHears (modeOf s p) h.signal h.sync h.headers h.ber) s

theorem exec_linkDown_lane (hlane : h.lane ∈ lanesOf s p) : exec (.linkDown p true false h) s =
    .next (if portLocked (heardDown p h s) p then heardDown p h s else laneDown (lanePorts (heardDown p h s) p) (heardDown p h s)) := by
  change execLinkDown p true false h s = _
  simp only [execLinkDown, hclk, Nat.not_le.mpr hp, List.contains_iff_mem.mpr hlane, Bool.not_true, Bool.false_eq_true, if_false]
  rfl

end linkDown

/-! ## Bring-up (R97, R104-R106) -/

section bringUp
variable {s : State} {p : Nat} (hclk : s.clk.coreStopped = false)
include hclk

theorem exec_bringupStart (hphase : (port s p).link.phase = 5) (hstart : mayStart s p = true) :
    exec (.bringupStart p) s = .next (bringUp p s) := by
  change execBringupStart p s = _
  simp only [execBringupStart, hclk, hphase, hstart, decide_true, Bool.and_self, Bool.false_eq_true, if_false, if_true]

theorem exec_bringupRestart (hphase : (port s p).link.phase = 4) (hstart : mayStart s p = true) :
    exec (.bringupRestart p) s = .next (bringUp p (reachEdge ((port s p).link.since + secE) s)) := by
  change execBringupRestart p s = _
  simp only [execBringupRestart, hclk, hphase, hstart, decide_true, Bool.and_self, Bool.false_eq_true, if_false, if_true]

theorem exec_stepWaitExpiry (hphase : (port s p).link.phase = 1) :
    exec (.stepWaitExpiry p) s = .next (moveToMode p (reachEdge ((port s p).link.since + (port s p).cfg.stepWait * msE) s)) := by
  change execStepWaitExpiry p s = _
  simp only [execStepWaitExpiry, hclk, hphase, Bool.false_eq_true, if_false, if_true]

/-- The partner's mask is kept, and the device's two pages are sent (R105). -/
def pagesSent (p mask : Nat) (s : State) : State := modLink p (fun l => { l with partnerMask := mask % 64 }) (stepPages p s)

theorem exec_autonegComplete_stepMessage (mask : Nat) (hphase : (port s p).link.phase = 1) :
    exec (.autonegComplete p true 0x4F5 mask) s =
      .next (match ((List.range 6).reverse).find? (bit (mask % 64 &&& (port s p).link.offered)) with
        | some b => moveTo p (rateMode b).1 (rateMode b).2 (b + 1) (pagesSent p mask s)
        | none => moveToMode p (pagesSent p mask s)) := by
  have hnegotiates : ((port s p).link.phase != 1) = false := by simp [hphase]
  change execAutonegComplete p true 0x4F5 mask s = _
  simp only [execAutonegComplete, hclk, hnegotiates, decide_true, Bool.and_self, Bool.false_eq_true, if_false, if_true]
  cases ((List.range 6).reverse).find? (bit (mask % 64 &&& (port s p).link.offered)) <;> rfl

/-- Without the step message, the lane moves to MODE; one whose MODE is 1000BASE-X is there (R105). -/
def ownMode (p : Nat) (s t : State) : State := if (port s p).cfg.mode = 2 then settleAt p 2 (port s p).cfg.fec 0 t else moveToMode p t

theorem exec_autonegComplete_noPage (code mask : Nat) (hphase : (port s p).link.phase = 1) :
    exec (.autonegComplete p false code mask) s = .next (ownMode p s s) := by
  have hnegotiates : ((port s p).link.phase != 1) = false := by simp [hphase]
  change execAutonegComplete p false code mask s = _
  simp only [execAutonegComplete, hclk, hnegotiates, Bool.false_and, Bool.false_eq_true, if_false]
  rfl

theorem exec_autonegComplete_otherMessage {code : Nat} (mask : Nat) (hphase : (port s p).link.phase = 1) (hcode : code ≠ 0x4F5) :
    exec (.autonegComplete p true code mask) s =
      .next (ownMode p s (emitOut (.control p (toBE 2 0x2001)) (emitOut (.control p (toBE 2 0xA4F5)) s))) := by
  have hnegotiates : ((port s p).link.phase != 1) = false := by simp [hphase]
  change execAutonegComplete p true code mask s = _
  simp only [execAutonegComplete, hclk, hnegotiates, hcode, decide_false, Bool.and_false, Bool.false_eq_true, if_false, if_true]
  rfl

/-- The failure of a move to MODE is reported (R106). -/
def moveFailed (p : Nat) (u : State) : State :=
  modLink p (fun l => { l with failReported := true, result := 4 }) (fire (0x100 + 2 * (lanesOf u p).headD p) 0x01 [] u)

theorem exec_stepFailTimeout (hphase : (port s p).link.phase = 2) (hdown : (port s p).link.rxUp = false)
    (hstep : stepping (port s p).cfg = true) (hnew : (port s p).link.failReported = false) (hmode : (port s p).link.chosen = 0) :
    exec (.stepFailTimeout p) s =
      let v := moveFailed p (reachEdge ((port s p).link.since + 500 * msE) s)
      .next (modLink p (fun l => { l with phase := 4, since := v.clk.edges }) v) := by
  have hseeks : ((port s p).link.phase != 2 || (port s p).link.rxUp || !stepping (port s p).cfg) = false := by simp [hphase, hdown, hstep]
  change execStepFailTimeout p s = _
  simp only [execStepFailTimeout, hclk, hseeks, hnew, hmode, Bool.false_eq_true, if_false, if_true]
  rfl

end bringUp

/-! ## PHY polls (R97) -/

/-- The PHY's status register is read 10 ms after the last time, and bit 2 of it kept. -/
def phyRead (p : Nat) (up : Bool) (s : State) : State :=
  let u := reachEdge ((port s p).link.polledAt + 10 * msE) s
  emitOut (.mdioRead (port s p).cfg.mdio (if (port s p).cfg.mode = 6 then 0x10001 else 1))
    (modLink p (fun l => { l with phyUp := up, polledAt := u.clk.edges }) u)

theorem exec_phyPoll {s : State} {p : Nat} (status : Option Nat) (hclk : s.clk.coreStopped = false) (hconf : (port s p).cfg.configured = true)
    (hon : (port s p).link.enabled = true) (hphy : phyMode (port s p).cfg.mode = true) :
    exec (.phyPoll p status) s = .next (if status.elim false (bit · 2) then phyRead p true s else rxDown p true (phyRead p false s)) := by
  have hpolls : (!(port s p).cfg.configured || !(port s p).link.enabled || !phyMode (port s p).cfg.mode) = false := by simp [hconf, hon, hphy]
  change execPhyPoll p status s = _
  simp only [execPhyPoll, hclk, hpolls, Bool.false_eq_true, if_false]
  cases status with
  | none => rfl
  | some v => cases hbit : bit v 2 <;> simp only [hbit, Option.elim_some, Bool.false_eq_true, if_false, if_true] <;> rfl

/-! ## Errors of a lane (R98, R103) -/

section errors
variable (s : State) (m n : Nat)

/-- The symbol errors of the last millisecond on a lane, with n more. -/
def errorWindow : List (Nat × Nat) := (lane s m).errs.filter (fun e => decide (s.clk.edges < e.1 + msE)) ++ [(s.clk.edges, n)]

/-- The port that keeps the counters of a lane counts n symbol errors, and the lane keeps its window. -/
def errorsCounted : State :=
  modLane m (fun x => { x with errs := errorWindow s m n }) (macCtr (laneCtrPort s ((portsOfLane s m).headD m)) 21 n s)

variable {s m n} (hn : n ≠ 0) (hlock : (lane s m).lock = true)
include hn hlock

theorem symbolErrors_eq : symbolErrors m n s =
    if 32 < ((errorWindow s m n).map (·.2)).sum then forceRetrain m (errorsCounted s m n) else errorsCounted s m n := by
  have hcounts : ¬ (decide (n = 0) || !(lane s m).lock) = true := by simp [hn, hlock]
  exact if_neg hcounts

end errors

/-- The lane m of port p loses its lock and trains anew, with its event and its count, and the receive link of the port goes down. -/
def retrained (m p : Nat) (s : State) : State :=
  laneDown [p] (modLane m (fun x => { unlock x with step := if x.fixed then x.step else 6, frozen := false, goodBlocks := 0, errs := [] })
    (fire (0x100 + 2 * m) 0x02 [] (macCtr (laneCtrPort s p) 49 1 s)))

/-- The first retraining of a port's only lane within a second does not restart the bring-up. -/
theorem forceRetrain_of_first {s : State} {m p : Nat} (hports : portsOfLane s m = [p])
    (hold : ∀ e ∈ (port s p).link.retrains, e + secE ≤ s.clk.edges) :
    forceRetrain m s = modLink p (fun x => { x with retrains := [s.clk.edges] }) (retrained m p s) := by
  have hrecent : (port s p).link.retrains.filter (fun e => decide (s.clk.edges < e + secE)) = [] :=
    List.filter_eq_nil_iff.mpr fun e he => by simpa using hold e he
  simp only [forceRetrain, hports, List.headD_cons, hrecent, List.nil_append, List.length_singleton]
  rfl

theorem exec_retrain (m n : Nat) {s : State} (hclk : s.clk.coreStopped = false) : exec (.retrain m n) s = .next (symbolErrors m n s) := by
  change execRetrain m n s = _
  simp only [execRetrain, hclk, Bool.false_eq_true, if_false]

/-! ## Adaptation (R98, R102) -/

theorem exec_adaptationFreeze {s : State} {m n : Nat} (hclk : s.clk.coreStopped = false) (hfree : (lane s m).fixed = false)
    (hfew : n * 20 < (lane s m).density * 1024) :
    exec (.adaptationFreeze m n) s =
      let t := modLane m (fun x => { x with frozen := true, goodBlocks := 0 }) s
      .next (if (lane s m).frozen then t else fire (0x100 + 2 * m) 0x03 [] t) := by
  have hfreezes : ((lane s m).fixed || decide ((lane s m).density * 1024 ≤ n * 20)) = false := by simp [hfree, hfew]
  change execAdaptationFreeze m n s = _
  simp only [execAdaptationFreeze, hclk, hfreezes, Bool.false_eq_true, if_false]

theorem exec_adaptationResume {s : State} (m : Nat) (r : Resumes) (hclk : s.clk.coreStopped = false) :
    exec (.adaptationResume m r) s = .next (modLane m (fun x =>
      if x.frozen && decide (x.goodBlocks + r.blocks < 4096) then { x with goodBlocks := x.goodBlocks + r.blocks }
      else { x with frozen := false, goodBlocks := 0, step := if x.fixed then x.step else r.step }) s) := by
  change execAdaptationResume m r s = _
  simp only [execAdaptationResume, hclk, Bool.false_eq_true, if_false]

/-! ## FEC windows (R103), and the eye of a lane (R126) -/

/-- The window of port p has ended: c corrected and u uncorrectable codewords, y symbol errors; met: the limit is exceeded. -/
def fecCounted (p c u y : Nat) (met : Bool) (s : State) : State :=
  let v := reachEdge ((port s p).link.fecFrom + msE) s
  modLink p (fun l => { l with fecArmed := !met, fecFrom := v.clk.edges })
    (macCtr (laneCtrPort v p) 28 u (macCtr (laneCtrPort v p) 27 c (symbolErrors ((lanesOf s p).headD p) y v)))

section fec
variable {s : State} {p : Nat} (c u y : Nat) (hclk : s.clk.coreStopped = false)
include hclk

theorem exec_fecDegradeWindow_of_noFec (hfec : (port s p).link.runFec = 0) :
    exec (.fecDegradeWindow p c u y) s = .next (symbolErrors ((lanesOf s p).headD p) y s) := by
  change execFecDegradeWindow p c u y s = _
  simp only [execFecDegradeWindow, hclk, hfec, Bool.false_eq_true, if_false, if_true]

theorem exec_fecDegradeWindow_of_fec (hfec : (port s p).link.runFec ≠ 0) :
    exec (.fecDegradeWindow p c u y) s =
      let met := u != 0 || decide ((port s p).cfg.fecLimit < c)
      .next (if met && (port s p).link.fecArmed then fire (4 * p + 1) 0 [] (fecCounted p c u y met s) else fecCounted p c u y met s) := by
  change execFecDegradeWindow p c u y s = _
  simp only [execFecDegradeWindow, hclk, hfec, Bool.false_eq_true, if_false]
  rfl

end fec

theorem exec_laneEyeDone {s : State} {m : Nat} {k : Ticket} (height width errors : Nat) (hclk : s.clk.coreStopped = false)
    (heye : (lane s m).eye = some k) : exec (.laneEyeDone m height width errors) s =
      .next (complete k stOk (toLE 2 height ++ toLE 2 width ++ toLE 4 errors ++ zeros 4) (modLane m (fun x => { x with eye := none }) s)) := by
  change execLaneEyeDone m height width errors s = _
  simp only [execLaneEyeDone, hclk, heye, Bool.false_eq_true, if_false]

/-- Settles O14: clause by clause, what each command does in the case that the clause names. -/
theorem linksComeUpAndGoDown : Obligations.LinksComeUpAndGoDown := by
  unfold Obligations.LinksComeUpAndGoDown
  refine ⟨?up, ?down, ?unlocked, ?start, ?negotiation, ?fail, ?restart, ?poll, ?retrain, ?freeze, ?resume, ?fec, ?eye⟩
  case up =>
    intro p speed m headers sync step s hclk x s1 hconf hfwd hphase hheld hlane hlock hphy hdown
    exact exec_linkUp_of_locked (g := ⟨speed, m, headers, sync, step⟩) hclk hconf hfwd hphase hheld hlane hlock hphy hdown
  case down =>
    intro p m ber phy signal sync headers s hclk hp s1
    exact ⟨exec_linkDown_tx hclk hp _ phy, exec_linkDown_phy hclk hp _, exec_linkDown_lane hclk hp ⟨m, signal, sync, headers, ber⟩⟩
  case unlocked =>
    intro p speed m headers sync step s hclk x s1 hconf hfwd hphase hheld hlane hlock
    exact exec_linkUp_of_unlocked (g := ⟨speed, m, headers, sync, step⟩) hclk hconf hfwd hphase hheld hlane hlock
  case start => exact fun p s hclk hphase hstart => exec_bringupStart hclk hphase hstart
  case negotiation =>
    intro p mask s hclk hphase
    exact ⟨exec_autonegComplete_stepMessage hclk mask hphase,
      fun code => ⟨exec_autonegComplete_noPage hclk code mask hphase, exec_autonegComplete_otherMessage hclk mask hphase⟩,
      exec_stepWaitExpiry hclk hphase⟩
  case fail =>
    intro p s hclk l hphase hdown hstep hnew hmode
    exact exec_stepFailTimeout hclk hphase hdown hstep hnew hmode
  case restart => exact fun p s hclk hphase hstart => exec_bringupRestart hclk hphase hstart
  case poll =>
    intro p status s hclk hconf hon hphy u read
    have hpoll := fun status => exec_phyPoll status hclk hconf hon hphy
    exact ⟨fun v hv => (hpoll (some v)).trans (by rw [Option.elim_some, hv]; rfl),
      fun v hv => (hpoll (some v)).trans (by rw [Option.elim_some, hv]; rfl), hpoll none⟩
  case retrain =>
    intro m n s hclk hn hlock w p s1
    rw [exec_retrain m n hclk, symbolErrors_eq hn hlock]
    refine ⟨fun hfew => ?few, fun hmany hports hold => ?many⟩
    case few => exact congrArg Host.Outcome.next (if_neg (Nat.not_lt.mpr hfew))
    case many =>
      refine congrArg Host.Outcome.next ((if_pos hmany).trans ?_)
      exact forceRetrain_of_first hports hold
  case freeze => exact fun m n s hclk hfree hfew => exec_adaptationFreeze hclk hfree hfew
  case resume => exact fun m n step s hclk _ => exec_adaptationResume m ⟨n, step⟩ hclk
  case fec =>
    intro p c u y s hclk m s0 s2
    refine ⟨exec_fecDegradeWindow_of_noFec c u y hclk, fun hfec hu hc => ?below, fun hfec harmed hover => ?above⟩
    case below =>
      have hmet : (u != 0 || decide ((port s p).cfg.fecLimit < c)) = false := by simp [hu, hc]
      rw [exec_fecDegradeWindow_of_fec c u y hclk hfec]
      simp only [hmet, Bool.false_and, Bool.false_eq_true, if_false]
      rfl
    case above =>
      have hmet : (u != 0 || decide ((port s p).cfg.fecLimit < c)) = true := by simpa using hover
      rw [exec_fecDegradeWindow_of_fec c u y hclk hfec]
      simp only [hmet, harmed, Bool.and_self, if_true]
      rfl
  case eye => exact fun m height width errors k s hclk heye => exec_laneEyeDone height width errors hclk heye

end Sys2Proof.Machine
end

section
/-! PROOF. The commands of a port, of its lane and of its MAC: what their bodies answer once check 10 has passed (spec/03 R122-R128). -/

namespace Sys2Proof.Machine

/-! ## PORT_CONFIGURE (R122, R123) -/

section configure
variable {p : Packet} {s : State} (hchecks : firstBad (portChecks s p.params) = none)
  (hoff : (port s (byteAt p.params 0)).link.enabled = false) (hown : laneOwners s (byteAt p.params 0) (byteAt p.params 1) = [])
  (hquad : ¬((port s (byteAt p.params 0)).cfg.configured = true ∧ (port s (byteAt p.params 0)).cfg.mode = 5))
include hchecks hoff hown hquad

/-- A disabled port takes its configuration; in a mode change of P(4k) to QSGMII, so do the three other ports of its lane. -/
theorem bodyPortConfigure_eq :
    let n := byteAt p.params 0
    let c := portBlock p.params
    let t := configurePort n c (touchPort n true s)
    bodyPortConfigure p s = .ok [] (if n % 4 = 0 ∧ byteAt p.params 1 = 5 then
      configurePort (n + 3) c (configurePort (n + 2) c (configurePort (n + 1) c t)) else t) := by
  intro n c t
  have hnoQuad : ((port s n).cfg.configured && (port s n).cfg.mode == 5) = false := by
    cases hconf : (port s n).cfg.configured with
    | false => rfl
    | true => exact beq_eq_false_iff_ne.mpr fun hmode => hquad ⟨hconf, hmode⟩
  have hmode : (portBlock p.params).mode = byteAt p.params 1 := rfl
  unfold bodyPortConfigure
  simp only [checked_of_none _ hchecks, hnoQuad, hoff, hown, hmode, n, Bool.and_false, Bool.false_and, Bool.or_self, Bool.false_eq_true, if_false]
  by_cases hbase : byteAt p.params 0 % 4 = 0
  · by_cases hfive : byteAt p.params 1 = 5
    · simp [hbase, hfive]
      rfl
    · simp [hbase, hfive, c, t, n]
  · simp [hbase, c, t, n]

end configure

/-! ## PORT_ENABLE and PORT_STATUS (R123, R124) -/

theorem bodyPortEnable_eq {p : Packet} {s : State} (hport : portExists s (byteAt p.params 0) = true) (hon : byteAt p.params 1 < 2)
    (hres : reservedAt p.params 2 2 = true) (hconf : (port s (byteAt p.params 0)).cfg.configured = true) :
    let n := byteAt p.params 0
    let on := byteAt p.params 1 == 1
    bodyPortEnable p s = .ok [] (if (port s n).link.enabled = on then s
      else (if on then startDue n else holdPort n) (modLink n (fun l => { l with enabled := on }) (touchPort n true (creditPort n s)))) := by
  intro n on
  simp only [bodyPortEnable, checked, firstBad, hport, hon, hres, hconf, decide_true, Bool.not_true, Bool.false_eq_true, if_false, if_true]
  by_cases hsame : (port s n).link.enabled = on
  · rw [if_pos hsame, if_pos (beq_iff_eq.mpr hsame)]
  · rw [if_neg hsame, if_neg (mt beq_iff_eq.mp hsame), ite_apply]

section status
variable {p : Packet} {s : State} (hport : portExists s (byteAt p.params 0) = true) (hres : reservedAt p.params 1 3 = true)
include hport hres

theorem bodyPortStatus_of_unconfigured (hconf : (port s (byteAt p.params 0)).cfg.configured = false) :
    bodyPortStatus p s = .ok (zeros 40) (touchPort (byteAt p.params 0) true s) := by
  simp [bodyPortStatus, checked, firstBad, hport, hres, hconf]

/-- The 40 bytes of R124 for a configured port n. -/
def statusReply (s : State) (n : Nat) : List Byte :=
  let l := (port s n).link
  let ls := (lanesOf s n).map (lane s)
  let set := fun (g : Lane → Bool) => (ls.zipIdx.filter (fun e => g e.1)).foldl (fun k e => k + 2 ^ e.2) 0
  let count := fun k => toLE 4 (tget 0 (port s (laneCtrPort s n)).mac.ctr k)
  toLE 1 (b2n l.rxUp + 2 * b2n l.txUp + 4 * b2n (shownHeld s n) + 8 * b2n l.enabled) ++ toLE 1 (modeOf s n) ++
    toLE 1 (if l.runMode = 0 then (port s n).cfg.fec else l.runFec) ++ toLE 1 l.result ++ toLE 1 l.partnerMask ++
    toLE 1 (if phyMode (port s n).cfg.mode then l.speed else 0) ++ toLE 1 (set (·.lock)) ++ toLE 1 (set (·.frozen)) ++
    slice (ls.flatMap (fun y => toLE 1 y.step)) 0 4 ++ toLE 1 (maskOf ((List.range 7).filter (paused s n))) ++ zeros 3 ++ toLE 8 l.lastChange ++
    count 49 ++ count 27 ++ count 28 ++ zeros 4

theorem bodyPortStatus_of_configured (hconf : (port s (byteAt p.params 0)).cfg.configured = true) :
    bodyPortStatus p s = .ok (statusReply s (byteAt p.params 0)) (touchPort (byteAt p.params 0) true s) := by
  simp only [bodyPortStatus, checked, firstBad, hport, hres, hconf, Bool.not_true, Bool.false_eq_true, if_false, if_true]
  rfl

end status

theorem length_slice (b : List Byte) (off n : Nat) : (slice b off n).length = n := by
  simp [slice]

theorem length_statusReply (s : State) (n : Nat) : (statusReply s n).length = 40 := by
  simp only [statusReply, List.length_append, length_toLE, length_slice, length_zeros]

/-! ## LANE_TUNE and LANE_EYE (R125, R126) -/

/-- The slices of all ports of a lane wake. -/
def laneTouched (m : Nat) (s : State) : State := (portsOfLane s m).foldl (fun s q => touchPort q true s) s

theorem bodyLaneTune_eq {p : Packet} {s : State} (hlane : laneExists s (byteAt p.params 0) = true) (hused : laneUsed_ s (byteAt p.params 0) = true)
    (hfixed : byteAt p.params 1 < 2) (hstep : byteAt p.params 2 < 16) (hdense : 1 ≤ byteAt p.params 3 ∧ byteAt p.params 3 ≤ 10)
    (hpre : byteAt p.params 4 ≤ 16) (hmain : 32 ≤ byteAt p.params 5 ∧ byteAt p.params 5 ≤ 64)
    (hpost : byteAt p.params 6 ≤ 24 ∧ byteAt p.params 4 + byteAt p.params 5 + byteAt p.params 6 ≤ 64) (hres : reservedAt p.params 7 5 = true) :
    bodyLaneTune p s = .ok [] (modLane (byteAt p.params 0) (fun x => { x with
      fixed := byteAt p.params 1 == 1, step := if byteAt p.params 1 == 1 then byteAt p.params 2 else x.step, density := byteAt p.params 3
      pre := byteAt p.params 4, main := byteAt p.params 5, post := byteAt p.params 6 }) (laneTouched (byteAt p.params 0) s)) := by
  simp only [bodyLaneTune, checked, firstBad, hlane, hused, hfixed, hstep, hdense, hpre, hmain, hpost, hres, decide_true, Bool.and_self, if_true]
  rfl

theorem bodyLaneEye_eq {p : Packet} {s : State} (hlane : laneExists s (byteAt p.params 0) = true)
    (htime : 1 ≤ byteAt p.params 1 ∧ byteAt p.params 1 ≤ 100) (hres : reservedAt p.params 2 2 = true)
    (hidle : (lane s (byteAt p.params 0)).eye = none) :
    bodyLaneEye p s = .accepted (modLane (byteAt p.params 0) (fun x => { x with eye := some (ticketFor specLaneEye p) })
      (laneTouched (byteAt p.params 0) s)) := by
  simp only [bodyLaneEye, checked, firstBad, hlane, htime, hres, hidle, decide_true, Bool.and_self, Option.isSome_none, Bool.false_eq_true, if_false,
    if_true]
  rfl

/-! ## The MAC: its address filter and its counters (R127, R128) -/

theorem bodyMacFilterSet_eq {p : Packet} {s : State} (hport : portExists s (byteAt p.params 0) = true) (hentry : byteAt p.params 1 < 4)
    (hvalid : byteAt p.params 2 < 2) (hres : reservedAt p.params 3 1 = true) (hend : reservedAt p.params 10 2 = true) :
    bodyMacFilterSet p s = .ok [] (modPort (byteAt p.params 0) (fun x => { x with mac := { x.mac with
      filter := tset {} x.mac.filter (byteAt p.params 1) { valid := byteAt p.params 2 == 1, addr := be p.params 4 6 } } })
      (touchPort (byteAt p.params 0) true s)) := by
  simp only [bodyMacFilterSet, checked, firstBad, hport, hentry, hvalid, hres, hend, decide_true, if_true]

/-- The n counters from f on, less what CLEAR has counted off, behind the time (R128). -/
def statsReply (s : State) (x : MacState) (f n : Nat) : List Byte :=
  toLE 8 (nowT64 s) ++ ((List.range n).map (f + ·)).flatMap (fun k => toLE 4 ((tget 0 x.ctr k + 2 ^ 32 - tget 0 x.base k) % 2 ^ 32))

theorem length_statsReply (s : State) (x : MacState) (f n : Nat) : (statsReply s x f n).length = 8 + 4 * n := by
  simp [statsReply, List.length_flatMap, Function.comp_def, Nat.mul_comm]

/-- The n counters of a port from f on are counted off. -/
def countedOff (q f n : Nat) (s : State) : State :=
  modPort q (fun y => { y with mac := { y.mac with
    base := ((List.range n).map (f + ·)).foldl (fun t k => tset 0 t k (tget 0 (port s q).mac.ctr k)) y.mac.base } }) s

theorem bodyMacStatsRead_eq {p : Packet} {s : State} (hport : portExists s (byteAt p.params 0) = true) (hfirst : byteAt p.params 1 < 50)
    (hcount : 1 ≤ byteAt p.params 2 ∧ byteAt p.params 2 ≤ 50 ∧ byteAt p.params 1 + byteAt p.params 2 ≤ 50) (hclear : byteAt p.params 3 < 2)
    (hres : reservedAt p.params 4 4 = true) :
    let n := byteAt p.params 0
    bodyMacStatsRead p s = .ok (statsReply s (port s n).mac (byteAt p.params 1) (byteAt p.params 2))
      (touchPort n true (if byteAt p.params 3 = 1 then countedOff n (byteAt p.params 1) (byteAt p.params 2) s else s)) := by
  simp only [bodyMacStatsRead, checked, firstBad, hport, hfirst, hcount, hclear, hres, decide_true, Bool.and_self, if_true]
  rfl

/-- Settles O15: check 10 passes in each clause, and so the body answers as the clause has it. -/
theorem portCommandsTakeEffect : Obligations.PortCommandsTakeEffect := by
  unfold Obligations.PortCommandsTakeEffect
  refine ⟨?configure, ?enable, ?status, ?tune, ?eye, ?filter, ?stats⟩
  case configure =>
    intro p s r n c t hacc hchecks hoff hown hquad
    have hbody := bodyPortConfigure_eq (p := asked specPortConfigure p) (s := r) hchecks hoff hown hquad
    refine ⟨fun hmode => ?_, fun hmode hbase => ?_⟩
    · exact serveCmd_ok (body := bodyPortConfigure) hacc (hbody.trans (congrArg _ (if_neg fun h => hmode h.2))) (by decide) (by simp)
    · exact serveCmd_ok (body := bodyPortConfigure) hacc (hbody.trans (congrArg _ (if_pos ⟨hbase, hmode⟩))) (by decide) (by simp)
  case enable =>
    intro p s r n on hacc hport hon hres hconf
    exact serveCmd_ok (body := bodyPortEnable) hacc (bodyPortEnable_eq hport hon hres hconf) (by decide) (by simp)
  case status =>
    intro p s r n l ls set count hacc hport hres
    refine ⟨fun hconf => ?_, fun hconf => ?_⟩
    · exact serveCmd_ok (body := bodyPortStatus) hacc (bodyPortStatus_of_unconfigured hport hres hconf) (by decide) (by simp)
    · have hlen : (statusReply r n).length ≤ 4080 := by rw [length_statusReply]; decide
      exact serveCmd_ok (body := bodyPortStatus) hacc (bodyPortStatus_of_configured hport hres hconf) (by decide) hlen
  case tune =>
    intro p s r b m hacc hlane hused hfixed hstep hone hten hpre hmin hmax hpost hsum hres
    exact serveCmd_ok (body := bodyLaneTune) hacc
      (bodyLaneTune_eq hlane hused hfixed hstep ⟨hone, hten⟩ hpre ⟨hmin, hmax⟩ ⟨hpost, hsum⟩ hres) (by decide) (by simp)
  case eye =>
    intro p s r m hacc hlane hone hmost hres hidle
    exact congrArg Host.Outcome.next (serve_accepted (body := bodyLaneEye) hacc (bodyLaneEye_eq hlane ⟨hone, hmost⟩ hres hidle))
  case filter =>
    intro p s r b n hacc hport hentry hvalid hres hend
    exact serveCmd_ok (body := bodyMacFilterSet) hacc (bodyMacFilterSet_eq hport hentry hvalid hres hend) (by decide) (by simp)
  case stats =>
    intro p s r b n x ks hacc hport hfirst hone hrange hclear hres
    have hcount : byteAt b 2 ≤ 50 := by omega
    have hlen : (statsReply r x (byteAt b 1) (byteAt b 2)).length ≤ 4080 := by rw [length_statsReply]; omega
    exact serveCmd_ok (body := bodyMacStatsRead) hacc (bodyMacStatsRead_eq hport hfirst ⟨hone, hcount, hrange⟩ hclear hres) (by decide) hlen

end Sys2Proof.Machine
end

section
/-! PROOF. The I2C masters, insertion and removal of modules, their identity and their diagnostic samples (spec/04 R129-R136, R140). -/

namespace Sys2Proof.Machine

variable {s : State} {m : Nat} (hclk : s.clk.coreStopped = false)

/-! ## The I2C masters (R131) -/

section masters
variable {k : Nat}
include hclk

theorem exec_i2cBusRecovery_of_recovered (hk : k < 8) (hup : (master s k).faulted = false) :
    exec (.i2cBusRecovery k true) s = .next (modMaster k (fun x => { x with failed := 0 }) (emitOut (.i2cRecover k) s)) := by
  change execI2cBusRecovery k true s = _
  simp [execI2cBusRecovery, hclk, hk, hup]

/-- The third failure in a row faults the master: each of its cages is reported, and the writes asked of it fail. -/
theorem exec_i2cBusRecovery_of_failed (hk : k < 8) (hup : (master s k).faulted = false) :
    exec (.i2cBusRecovery k false) s = .next (if (master s k).failed < 2
      then modMaster k (fun x => { x with failed := x.failed + 1 }) (emitOut (.i2cRecover k) s)
      else (List.range 8).foldl (fun t i => failAsked (8 * k + i) (xcvrEvent (8 * k + i) 0x09 t))
        (modMaster k (fun x => { x with failed := 3, faulted := true, tryAt := (emitOut (.i2cRecover k) s).clk.edges })
          (emitOut (.i2cRecover k) s))) := by
  change execI2cBusRecovery k false s = _
  simp [execI2cBusRecovery, hclk, hk, hup, apply_ite Host.Outcome.next]

theorem exec_i2cRecoveryRetry (ok : Bool) (hdown : (master s k).faulted = true) {t : State}
    (ht : emitOut (.i2cRecover k) (reachEdge ((master s k).tryAt + 10 * secE) s) = t) :
    exec (.i2cRecoveryRetry k ok) s =
      .next (modMaster k (fun x => if ok then { x with failed := 0, faulted := false } else { x with tryAt := t.clk.edges }) t) := by
  subst ht
  change execI2cRecoveryRetry k ok s = _
  simp only [execI2cRecoveryRetry, hclk, hdown, Bool.not_true, Bool.false_eq_true, if_false]

end masters

/-! ## MODULE_POLL (R132, R133) -/

/-- A poll is due one second after the last, the first at once; it reads identifier byte 0. -/
def polled (m : Nat) (t : State) : State :=
  let u := match (module t m).polledAt with | some e => reachEdge (e + secE) t | none => t
  i2cOp m (emitOut (.i2cRead m 0x50 0 1)) (modModule m (fun x => { x with polledAt := some u.clk.edges }) u)

/-- A module of identifier i is found in an empty cage (R130, R132). -/
def inserted (m i : Nat) (t : State) : State :=
  xcvrEvent m 0x01 (modModule m (fun x => { x with
    present := true, identifier := i % 256, tracked := i % 256 == 0x03 || (i % 256 == 0x11 && m % 4 == 0), insertedAt := t.clk.edges
    countedAt := t.clk.edges }) t)

section poll
variable (hm : m < nPorts s) {mux : Bool}
include hclk hm

theorem exec_modulePoll_of_unserved (ident : Option Nat) (hcage : cageServed (masterStart (m / 8) mux s) m = false) :
    exec (.modulePoll m ident mux) s = .next (masterStart (m / 8) mux s) := by
  change execModulePoll m ident mux s = _
  simp only [execModulePoll, hclk, Nat.not_le.mpr hm, hcage, Bool.not_false, Bool.false_eq_true, if_false, if_true]

variable (hcage : cageServed (masterStart (m / 8) mux s) m = true) {t : State} (ht : polled m (masterStart (m / 8) mux s) = t)
include hcage ht

theorem exec_modulePoll_of_answer (i : Nat) :
    exec (.modulePoll m (some i) mux) s =
      .next (if (module t m).present = true then modModule m (fun x => { x with misses := 0 }) t else inserted m i t) := by
  subst ht
  change execModulePoll m (some i) mux s = _
  simp only [execModulePoll, hclk, Nat.not_le.mpr hm, hcage, Bool.not_true, Bool.false_eq_true, if_false, apply_ite Host.Outcome.next]
  rfl

theorem exec_modulePoll_of_silence :
    exec (.modulePoll m none mux) s = .next (if (module t m).present = false then t
      else if (module t m).misses = 0 then modModule m (fun x => { x with misses := 1 }) t else moduleGone m t) := by
  subst ht
  change execModulePoll m none mux s = _
  simp only [execModulePoll, hclk, Nat.not_le.mpr hm, hcage, Bool.not_true, Bool.not_eq_true', Bool.false_eq_true, if_false,
    apply_ite Host.Outcome.next]
  rfl

end poll

/-! ## MODULE_DATA_READY (R132, R140) -/

/-- Does the module have one lane, and not the four of a QSFP28 (R130). -/
def isSfp (x : Module) : Bool := x.identifier != 0x11

/-- Once the module is ready, or 2 s after its insertion, its identity and its two ledger slots are read. -/
def identityRead (m : Nat) (cleared : Bool) (s : State) : State :=
  let x := module s m
  i2cOp m (fun t => emitOut (.i2cRead m (if isSfp x then 0x51 else 2) 128 112)
    (emitOut (if isSfp x then .i2cRead m 0x50 0 96 else .i2cRead m 0 128 96) t)) (if cleared then s else reachEdge (x.insertedAt + 2 * secE) s)

/-- The identity is kept, a bad CC_BASE reported, and the transmitter of each lane disabled whose ports are all down. -/
def identityKept (m : Nat) (x : Module) (identity external : List Byte) (t : State) : State :=
  let ext := if isSfp x && bit (byteAt identity 92) 4 then external else []
  let t1 := modModule m (fun y => { y with identity := identity, external := ext, ready := true }) t
  (moduleLanes x m).foldl (fun t k => if (portsOfLane t k).all (shownHeld t) then softTx k true t else t)
    (if ccBaseOk identity then t1 else xcvrEvent m 0x03 t1)

include hclk in
theorem exec_moduleDataReady (cleared : Bool) (identity external : List Byte) (slots : LedgerSlots) (hpresent : (module s m).present = true)
    (hready : (module s m).ready = false) (htracked : (module s m).tracked = true) (hup : (master s (m / 8)).faulted = false) :
    exec (.moduleDataReady m cleared identity external slots) s = .next (runAsked m (classify m slots.slot0 slots.slot1
      (isSfp (module s m) && !bit (byteAt identity 92) 6) (identityKept m (module s m) identity external (identityRead m cleared s)))) := by
  change execModuleDataReady m cleared identity external slots s = _
  simp only [execModuleDataReady, hclk, hpresent, hready, htracked, hup, Bool.not_true, Bool.or_self, Bool.false_eq_true, if_false]
  rfl

/-! ## DDM_SAMPLE (R134-R136) -/

/-- The second after the last sample has passed, and the seconds are credited (R135). -/
def secondCounted (m : Nat) (s : State) : State := creditModule m (reachEdge ((module s m).countedAt + secE) s)

/-- The measurements of a module are read. -/
def measurementsRead (m : Nat) (x : Module) (t : State) : State :=
  i2cOp m (fun t => (if x.identifier = 0x11 then [(22, 2), (26, 2), (34, 24), (9, 6)] else [(96, 10), (112, 2)]).foldl
    (fun t r => emitOut (.i2cRead m (if x.identifier = 0x11 then 0 else 0x51) r.1 r.2) t) t) t

/-- The bias of each channel, calibrated. -/
def biases (x : Module) (r : Readings) : List Nat := r.bias.map (fun v => clamp16 (calibrated x.external 20 (v : Nat)))

/-- The measurements are kept, calibrated by the constants of x, and a new alarm reported. -/
def measurementsKept (m temp : Nat) (x : Module) (r : Readings) (alarms : Nat) (t : State) : State :=
  let e := x.external
  let t1 := modModule m (fun y => { y with
    temp := calibrated e 28 (signed 16 temp), vcc := clamp16 (calibrated e 32 (r.vcc : Nat)), bias := biases x r
    txPower := r.tx.map (fun v => clamp16 (calibrated e 24 (v : Nat))), rxPower := r.rx.map (fun v => clamp16 (calibratedRx e v))
    alarms := alarms }) t
  if andNot alarms x.alarms != 0 then xcvrEvent m 0x0A t1 else t1

section sample
variable (temp : Nat) (r : Readings) (alarms : Nat) (hpresent : (module s m).present = true) (hready : (module s m).ready = true)
include hclk hpresent hready

theorem exec_ddmSample_of_unmeasured
    (hnone : bit (module s m).ledger.flags 2 = true ∨ (master (secondCounted m s) (m / 8)).faulted = true) :
    exec (.ddmSample m temp r alarms) s = .next (secondCounted m s) := by
  have hstop : ((master (secondCounted m s) (m / 8)).faulted || bit (module s m).ledger.flags 2) = true := by
    simpa [or_comm] using hnone
  change execDdmSample m temp r alarms s = _
  simp only [execDdmSample, hclk, hpresent, hready, Bool.not_true, Bool.or_self, Bool.false_eq_true, if_false]
  exact if_pos hstop

theorem exec_ddmSample_of_measured (hddm : bit (module s m).ledger.flags 2 = false)
    (hup : (master (secondCounted m s) (m / 8)).faulted = false) :
    exec (.ddmSample m temp r alarms) s =
      .next (biasSample m (tempBand (calibrated (module s m).external 28 (signed 16 temp))) ((biases (module s m) r).foldl max 0)
        (laserOn (secondCounted m s) m)
        (measurementsKept m temp (module s m) r alarms (measurementsRead m (module s m) (secondCounted m s)))) := by
  have hgo : ¬ ((master (secondCounted m s) (m / 8)).faulted || bit (module s m).ledger.flags 2) = true := by simp [hddm, hup]
  change execDdmSample m temp r alarms s = _
  simp only [execDdmSample, hclk, hpresent, hready, Bool.not_true, Bool.or_self, Bool.false_eq_true, if_false]
  exact if_neg hgo

end sample

/-- Settles O16: clause by clause, what each command does in the case that the clause names. -/
theorem modulesComeGoAndAreMeasured : Obligations.ModulesComeGoAndAreMeasured := by
  unfold Obligations.ModulesComeGoAndAreMeasured
  refine ⟨?recovery, ?retry, ?poll, ?dataReady, ?sample⟩
  case recovery =>
    intro k s hclk hk hup t
    exact ⟨exec_i2cBusRecovery_of_recovered hclk hk hup, exec_i2cBusRecovery_of_failed hclk hk hup⟩
  case retry =>
    intro k s hclk hdown t
    exact ⟨exec_i2cRecoveryRetry hclk true hdown rfl, exec_i2cRecoveryRetry hclk false hdown rfl⟩
  case poll =>
    intro m i mux s hclk hm s1 s2 t
    refine ⟨exec_modulePoll_of_unserved hclk hm (some i), fun hcage => ?_⟩
    have ht : polled m s1 = t := rfl
    rw [exec_modulePoll_of_answer hclk hm hcage ht, exec_modulePoll_of_silence hclk hm hcage ht]
    refine ⟨fun habsent => ?empty, fun hpresent => ?occupied⟩
    case empty =>
      rw [habsent, if_neg Bool.false_ne_true, if_pos rfl]
      exact ⟨rfl, rfl⟩
    case occupied =>
      rw [hpresent, if_pos rfl, if_neg Bool.false_ne_true.symm]
      exact ⟨rfl, rfl⟩
  case dataReady =>
    intro m cleared identity external slot0 slot1 s hclk x sfp s0 ext s1 s2 s3 hpresent hready htracked hup
    exact exec_moduleDataReady hclk cleared identity external ⟨slot0, slot1⟩ hpresent hready htracked hup
  case sample =>
    intro m temp vcc bias tx rx alarms s hclk x u e q read mA s1 hpresent hready
    exact ⟨exec_ddmSample_of_unmeasured hclk temp ⟨vcc, bias, tx, rx⟩ alarms hpresent hready,
      exec_ddmSample_of_measured hclk temp ⟨vcc, bias, tx, rx⟩ alarms hpresent hready⟩

end Sys2Proof.Machine
end

section
/-! PROOF. The writes of a ledger, and the commands of a transceiver: what their bodies answer once check 10 has passed (spec/04 R137-R143). -/

namespace Sys2Proof.Machine

/-! ## The ends of a write (R139) -/

/-- The slot of the write w is read back, where its master still serves and a record was read. -/
def readBack (m : Nat) (back : Option (List Byte)) (w : LedgerWrite) (s : State) : State :=
  if back.isSome && !(master s (m / 8)).faulted then
    i2cOp m (emitOut (.i2cRead m (if (module s m).identifier = 0x11 then 2 else 0x51) (128 + 56 * w.slot) 56)) s
  else s

/-- A write that did not read back right is reported and leaves the ledger in state 4. -/
def ledgerFailed (m : Nat) (s : State) : State := xcvrEvent m 0x05 (modModule m (fun x => { x with write := none, state := 4 }) s)

section writes
variable {s : State} {m : Nat} (hclk : s.clk.coreStopped = false)
include hclk

theorem exec_ledgerDailyWrite (hpresent : (module s m).present = true) (hrecord : (module s m).hasRecord = true)
    (hidle : (module s m).write = none) (hstate : (module s m).state = 1 ∨ (module s m).state = 2) :
    exec (.ledgerDailyWrite m) s = .next (ownWrite m false (reachEdge (module s m).dailyAt s)) := by
  change execLedgerDailyWrite m s = _
  simp [execLedgerDailyWrite, hclk, hpresent, hrecord, hidle, hstate]

variable {w : LedgerWrite} {back : Option (List Byte)} (hwrite : (module s m).write = some w) (hlast : w.jobs = [])
include hwrite hlast

/-- The record was read back: the command that asked for the write, if one did, is told so. -/
theorem exec_ledgerWriteDone_of_good (hup : (master s (m / 8)).faulted = false) (hback : back = some (ledgerBytes w.record)) :
    exec (.ledgerWriteDone m back) s = .next (w.job.ticket.elim (ledgerWritten m w (readBack m back w s)) fun k =>
      complete k stOk (if w.job.kind = 1 then [] else toLE 1 1 ++ zeros 3) (ledgerWritten m w (readBack m back w s))) := by
  change execLedgerWriteDone m back s = _
  have hok : (back == some (ledgerBytes w.record) && !(master s (m / 8)).faulted) = true := by simp [hback, hup]
  simp only [execLedgerWriteDone, hclk, hwrite, hok, hlast, startJobs, Bool.not_true, Bool.false_eq_true, if_false, if_true]
  cases w.job.ticket with
  | none => rfl
  | some k => exact congrArg Host.Outcome.next (apply_ite (complete k stOk · _) _ _ _).symm

/-- Other bytes were read back, or none, or the master is faulted: the job that asked for the write has failed. -/
theorem exec_ledgerWriteDone_of_bad (hbad : (master s (m / 8)).faulted = true ∨ back ≠ some (ledgerBytes w.record)) :
    exec (.ledgerWriteDone m back) s = .next (jobFailed w.job (ledgerFailed m (readBack m back w s))) := by
  change execLedgerWriteDone m back s = _
  have hok : (back == some (ledgerBytes w.record) && !(master s (m / 8)).faulted) = false := by
    rcases hbad with hdown | hback
    · simp [hdown]
    · simp [hback]
  simp only [execLedgerWriteDone, hclk, hwrite, hok, hlast, startJobs, jobFailed, Bool.not_false, Bool.false_eq_true, if_false, if_true]
  cases w.job.ticket <;> rfl

end writes

theorem jobFailed_of_none {j : LedgerJob} (s : State) (hj : j.ticket = none) : jobFailed j s = s := by
  simp only [jobFailed, hj]

theorem jobFailed_of_some {j : LedgerJob} {k : Ticket} (s : State) (hj : j.ticket = some k) :
    jobFailed j s = if j.kind = 1 then complete k stHwFault [] s else complete k stOk (zeros 4) s := by
  simp only [jobFailed, hj]

/-! ## What the four commands share (R143) -/

/-- Checks 12 and 13 pass for a tracked module whose master serves (R61). -/
theorem withModule_of_served {p : Packet} {s : State} (k : CmdResult) (hpresent : (module s (cmdCage s p)).present = true)
    (htracked : (module s (cmdCage s p)).tracked = true) (hup : (master s (cmdCage s p / 8)).faulted = false) : withModule s p k = k := by
  simp [withModule, hpresent, htracked, hup]

/-- A command that answers STATE_CONFLICT changes nothing (R79). -/
theorem serve_conflict {chk8 : Packet → Session → State → Option (Nat × Nat)} {c : CmdSpec} {body : Packet → State → CmdResult} {p : Packet}
    {s : State} (h : acceptsBy chk8 c p s = true) (hb : body (asked c p) (reached c p s) = .conflict) :
    serve c chk8 body p s = respond (ticketFor c (asked c p)) 0x80 stStateConflict c.mask [] (reached c p s) := by
  rw [serve_of_accepts h, hb, finish_of_accepts h (by intro; simp)]

/-- After its reply, a command ends the write of its cage that it has left and that cannot be made, where none was in progress before it. -/
def keptSettled (p : Packet) (s t : State) : State := if (module s (cmdCage s p)).write.isNone then settleKept (cmdCage s p) t else t

theorem serveKept_eq {c : CmdSpec} {body : Packet → State → CmdResult} {p : Packet} {s t : State} (h : serve c (check8 c) body p s = t) :
    serveKept c body p s = keptSettled p s t := by
  rw [serveKept, h, keptSettled]

section bodies
variable {p : Packet} {s : State} (hlane : laneExists s (byteAt p.params 0) = true) (hpresent : (module s (cmdCage s p)).present = true)
  (htracked : (module s (cmdCage s p)).tracked = true)
include hlane hpresent htracked

/-! ## XCVR_READ and XCVR_LEDGER_READ -/

/-- The bytes asked for, behind the first off that the module returns, padded to whole words. -/
def xcvrBytes (p : Packet) (d : List Byte) (off : Nat) : List Byte := slice d off (byteAt p.params 4) ++ zeros ((4 - byteAt p.params 4 % 4) % 4)

/-- The read that XCVR_READ asks for. -/
def xcvrRange (p : Packet) (c : Nat) : State → State := emitOut (.i2cRead c (byteAt p.params 1) (byteAt p.params 3) (byteAt p.params 4))

/-- The same with PAGE in byte 127, which held b before and holds it again after. -/
def pagedRange (p : Packet) (c : Nat) (b : List Byte) (s : State) : State :=
  emitOut (.i2cWrite c (byteAt p.params 1) 127 b) (xcvrRange p c
    (emitOut (.i2cWrite c (byteAt p.params 1) 127 (toLE 1 (byteAt p.params 2))) (emitOut (.i2cRead c (byteAt p.params 1) 127 1) s)))

theorem bodyXcvrRead_eq (haddr : byteAt p.params 1 = 0x50 ∨ byteAt p.params 1 = 0x51)
    (hcount : 1 ≤ byteAt p.params 4 ∧ byteAt p.params 4 ≤ 128 ∧ byteAt p.params 3 + byteAt p.params 4 ≤ 256) (hres : reservedAt p.params 5 3 = true)
    (hup : (master s (cmdCage s p / 8)).faulted = false) {d : List Byte} (hext : p.ext = some d) :
    bodyXcvrRead p s = if byteAt p.params 2 = 0xFF then .ok (xcvrBytes p d 0) (i2cOp (cmdCage s p) (xcvrRange p (cmdCage s p)) s)
      else .ok (xcvrBytes p d 1) (i2cOp (cmdCage s p) (pagedRange p (cmdCage s p) (slice d 0 1)) s) := by
  have haddr' : (byteAt p.params 1 == 0x50 || byteAt p.params 1 == 0x51) = true := by simpa using haddr
  simp only [bodyXcvrRead, checked, firstBad, hlane, haddr', hcount, hres, decide_true, Bool.and_self, if_true,
    withModule_of_served _ hpresent htracked hup, hext]
  rfl

theorem bodyXcvrLedgerRead_eq (hres : reservedAt p.params 1 7 = true) (hup : (master s (cmdCage s p / 8)).faulted = false) :
    bodyXcvrLedgerRead p s = .ok (ledgerReply (module s (cmdCage s p))) s := by
  simp only [bodyXcvrLedgerRead, checked, firstBad, hlane, hres, if_true, withModule_of_served _ hpresent htracked hup]

/-! ## XCVR_LEDGER_WRITE -/

section ledgerWrite
variable (hres : reservedAt p.params 2 6 = true)
include hres

theorem bodyXcvrLedgerWrite_of_writable (haction : byteAt p.params 1 < 2) (hup : (master s (cmdCage s p / 8)).faulted = false)
    (hstate : byteAt p.params 1 = 1 ∨ ((module s (cmdCage s p)).state ≠ 3 ∧ (module s (cmdCage s p)).state ≠ 4)) :
    bodyXcvrLedgerWrite p s = .accepted (askKept (cmdCage s p)
      { kind := 1, fresh := byteAt p.params 1 == 1, ticket := some (ticketFor specXcvrLedgerWrite p) } s) := by
  simp only [bodyXcvrLedgerWrite, checked, firstBad, hlane, haction, hres, decide_true, if_true, withModule_of_served _ hpresent htracked hup]
  rcases hstate with hfresh | ⟨hunread, hfailed⟩
  · simp [hfresh]
  · simp [hunread, hfailed]

theorem bodyXcvrLedgerWrite_of_conflict (haction : byteAt p.params 1 = 0)
    (hstate : (module s (cmdCage s p)).state = 3 ∨ (module s (cmdCage s p)).state = 4) : bodyXcvrLedgerWrite p s = .conflict := by
  simp [bodyXcvrLedgerWrite, checked, firstBad, hlane, haction, hres, hpresent, htracked, hstate]

end ledgerWrite

/-! ## XCVR_RETIRE -/

/-- Does a module count as retired: by the flag of its ledger, or by the hold on its ports. -/
def isRetired (x : Module) : Bool := bit x.ledger.flags 0 || x.held

/-- The write that XCVR_RETIRE asks for. -/
def retireJob (p : Packet) : LedgerJob := { kind := 2, fresh := false, ticket := some (ticketFor specXcvrRetire p) }

/-- The module of a cage is retired for a reason: its ports are held down, and the event is fired (R141). -/
def retireModule (c reason : Nat) (s : State) : State :=
  xcvrEvent c 0x07 (modModule c (fun x => { x with ledger := { x.ledger with flags := x.ledger.flags ||| 1, retireReason := reason } })
    (retireHold c s))

/-- The module of a cage is returned to service: its ports may start (R141). -/
def returnModule (c : Nat) (s : State) : State :=
  (modulePorts s c).foldl (fun t q => startDue q t)
    (modModule c (fun x => { x with held := false, ledger := { x.ledger with flags := andNot x.ledger.flags 1, retireReason := 0 } })
      (creditModule c s))

section retiring
variable (hres : reservedAt p.params 3 5 = true) (hup : (master s (cmdCage s p / 8)).faulted = false)
include hres hup

theorem bodyXcvrRetire_eq (haction : byteAt p.params 1 < 2) :
    bodyXcvrRetire p s =
      if (byteAt p.params 1 == 1) == isRetired (module s (cmdCage s p)) then .ok [] s
      else if byteAt p.params 1 == 1 then
        .accepted (askKept (cmdCage s p) (retireJob p) (retireModule (cmdCage s p) (byteAt p.params 2) s))
      else .accepted (askKept (cmdCage s p) (retireJob p) (returnModule (cmdCage s p) s)) := by
  simp only [bodyXcvrRetire, checked, firstBad, hlane, haction, hres, decide_true, if_true, withModule_of_served _ hpresent htracked hup]
  rfl

theorem bodyXcvrRetire_of_unchanged (haction : byteAt p.params 1 < 2) (hsame : (byteAt p.params 1 == 1) = isRetired (module s (cmdCage s p))) :
    bodyXcvrRetire p s = .ok [] s := by
  rw [bodyXcvrRetire_eq hlane hpresent htracked hres hup haction, if_pos (beq_iff_eq.mpr hsame)]

theorem bodyXcvrRetire_of_retires (haction : byteAt p.params 1 = 1) (hwas : isRetired (module s (cmdCage s p)) = false) :
    bodyXcvrRetire p s = .accepted (askKept (cmdCage s p) (retireJob p) (retireModule (cmdCage s p) (byteAt p.params 2) s)) := by
  rw [bodyXcvrRetire_eq hlane hpresent htracked hres hup (by omega)]
  simp [haction, hwas]

theorem bodyXcvrRetire_of_returns (haction : byteAt p.params 1 = 0) (hwas : isRetired (module s (cmdCage s p)) = true) :
    bodyXcvrRetire p s = .accepted (askKept (cmdCage s p) (retireJob p) (returnModule (cmdCage s p) s)) := by
  rw [bodyXcvrRetire_eq hlane hpresent htracked hres hup (by omega)]
  simp [haction, hwas]

end retiring

end bodies

/-! ## The length of a record (R137) -/

theorem length_ledgerBytes (l : Ledger) : (ledgerBytes l).length = 56 := by
  simp [ledgerBytes, ledgerBody]

theorem length_ledgerReply (x : Module) : (ledgerReply x).length = 64 := by
  simp [ledgerReply, length_ledgerBytes]

theorem length_xcvrBytes_le {p : Packet} (hcount : byteAt p.params 4 ≤ 128) (d : List Byte) (off : Nat) : (xcvrBytes p d off).length ≤ 4080 := by
  simp only [xcvrBytes, List.length_append, length_slice, length_zeros]
  omega

/-- Settles O17: a write ends as its read-back says, and each command answers what its body does once the module is found. -/
theorem transceiverLedgersAreReadAndWritten : Obligations.TransceiverLedgersAreReadAndWritten := by
  unfold Obligations.TransceiverLedgersAreReadAndWritten
  refine ⟨?daily, ?done, ?read, ?ledgerRead, ?ledgerWrite, ?retire⟩
  case daily => exact fun m s hclk hpresent hrecord hidle hstate => exec_ledgerDailyWrite hclk hpresent hrecord hidle hstate
  case done =>
    intro m back s w hclk hwrite hlast x rec_ u whole good failed
    refine ⟨fun hup hback => ?good, fun hbad => ?bad⟩
    case good =>
      rw [exec_ledgerWriteDone_of_good hclk hwrite hlast hup hback]
      refine ⟨fun hown => by rw [hown]; rfl, fun k hk hkind => by rw [hk, hkind]; rfl, fun k hk hkind => by rw [hk, hkind]; rfl⟩
    case bad =>
      rw [exec_ledgerWriteDone_of_bad hclk hwrite hlast hbad]
      refine ⟨fun hown => ?_, fun k hk hkind => ?_, fun k hk hkind => ?_⟩
      · rw [jobFailed_of_none _ hown]
        rfl
      · rw [jobFailed_of_some _ hk, hkind]
        rfl
      · rw [jobFailed_of_some _ hk, hkind]
        rfl
  case read =>
    intro p s d r b c n a read pad hacc hlane haddr hone hmost hend hres hup hpresent htracked hext
    have hbody := bodyXcvrRead_eq (p := asked specXcvrRead p) (s := r) hlane hpresent htracked haddr ⟨hone, hmost, hend⟩ hres hup hext
    refine ⟨fun hpage => ?_, fun hpage => ?_⟩
    · exact serveCmd_ok (body := bodyXcvrRead) hacc (hbody.trans (if_pos hpage)) (by decide) (length_xcvrBytes_le hmost d 0)
    · exact serveCmd_ok (body := bodyXcvrRead) hacc (hbody.trans (if_neg hpage)) (by decide) (length_xcvrBytes_le hmost d 1)
  case ledgerRead =>
    intro p s r b c x hacc hlane hres hup hpresent htracked
    have hlen : (ledgerReply x).length ≤ 4080 := by rw [length_ledgerReply]; decide
    exact serveCmd_ok (body := bodyXcvrLedgerRead) hacc (bodyXcvrLedgerRead_eq hlane hpresent htracked hres hup) (by decide) hlen
  case ledgerWrite =>
    intro p s r b c c0 x ended hacc hlane haction hres hpresent htracked
    refine ⟨fun hup hstate => ?writable, fun hzero hstate => ?conflict⟩
    case writable =>
      exact congrArg Host.Outcome.next (serveKept_eq (serve_accepted hacc
        (bodyXcvrLedgerWrite_of_writable (p := asked specXcvrLedgerWrite p) hlane hpresent htracked hres haction hup hstate)))
    case conflict =>
      exact congrArg Host.Outcome.next (serveKept_eq (serve_conflict hacc
        (bodyXcvrLedgerWrite_of_conflict (p := asked specXcvrLedgerWrite p) hlane hpresent htracked hres hzero hstate)))
  case retire =>
    intro p s r b c c0 x was job ended hacc hlane hres hup hpresent htracked
    refine ⟨fun hon => congrArg Host.Outcome.next (serveKept_eq ?on), fun hoff => congrArg Host.Outcome.next (serveKept_eq ?off)⟩
    case on =>
      have haction : (byteAt b 1 == 1) = true := beq_iff_eq.mpr hon
      obtain hwas | hwas := Bool.eq_false_or_eq_true was
      · rw [if_pos hwas]
        exact serve_ok hacc (bodyXcvrRetire_of_unchanged (p := asked specXcvrRetire p) hlane hpresent htracked hres hup
          (show byteAt b 1 < 2 by omega) (haction.trans hwas.symm)) (by decide) (by simp)
      · rw [if_neg (ne_true_of_eq_false hwas)]
        exact serve_accepted hacc (bodyXcvrRetire_of_retires (p := asked specXcvrRetire p) hlane hpresent htracked hres hup hon hwas)
    case off =>
      have haction : (byteAt b 1 == 1) = false := by rw [hoff]; rfl
      obtain hwas | hwas := Bool.eq_false_or_eq_true was
      · rw [if_pos hwas]
        exact serve_accepted hacc (bodyXcvrRetire_of_returns (p := asked specXcvrRetire p) hlane hpresent htracked hres hup hoff hwas)
      · rw [if_neg (ne_true_of_eq_false hwas)]
        exact serve_ok hacc (bodyXcvrRetire_of_unchanged (p := asked specXcvrRetire p) hlane hpresent htracked hres hup
          (show byteAt b 1 < 2 by omega) (haction.trans hwas.symm)) (by decide) (by simp)

end Sys2Proof.Machine
end

section
/-! PROOF. A re-entered host frame at the header input of a slice (spec/09 R309). -/

namespace Sys2Proof.Machine

theorem exec_harrowDecision_of_headerBusy {s : State} {fu : Furrow} {u : Nat} (upset : Nat)
    (hbusy : headerBusy s (furNo fu) (frame s u) = true) : exec (.harrowDecision fu u upset) s = .next s := by
  change execHarrowDecision fu u upset s = _
  simp [execHarrowDecision, harrowDecision, hbusy]

/-- Furrow A with a host frame that has re-entered slice 0, and a MAC frame of that slice that has come to its decision point: both decisions are due. -/
def reentryWaits : State :=
  { State.reset with
    clk := { State.reset.clk with coreRunning := true, edges := 2000 }
    fa := { State.reset.fa with released := true }
    frames := [(1, { kind := 2, port := 3, bytes := zeros 64, rxDone := true, due := 1, copyA := some {} }), (2, { bytes := zeros 64, due := 1 })]
    nextUid := 3 }

/-- What Harrow would make of the host frame, did it take it. -/
def reentryDecided : Option Decision × State :=
  harrowDecide 0 (frame reentryWaits 1) 0 (reachEdge (decisionEdge reentryWaits 0 (frame reentryWaits 1)) reentryWaits)

/-- The decision drops the host frame, which no table gives an egress. -/
def reentryDropped : Decision := { dropped := 4 }

/-- Refutes O24: a host frame that re-enters Harrow while a MAC frame of its slice waits at the header input. R309 has the pipeline take the host frame
only when none waits, and so has the model: HARROW_DECISION leaves it waiting. The statement lacks this condition, and has it decided, dropped and gone. -/
theorem not_harrowDecidesFramesAndFlipsBanks : ¬ Obligations.HarrowDecidesFramesAndFlipsBanks := by
  unfold Obligations.HarrowDecidesFramesAndFlipsBanks
  rintro ⟨hdecision, -⟩
  have hclk : reentryWaits.clk.coreStopped = false := by decide +kernel
  have hlisted : tmem reentryWaits.frames 1 = true := by decide +kernel
  have hdue : bit (frame reentryWaits 1).due 0 = true := by decide +kernel
  have hfurrow : decides reentryWaits 0 = true := by decide +kernel
  have hdecided : reentryDecided.1 = some reentryDropped := by decide +kernel
  have hbusy : headerBusy reentryWaits 0 (frame reentryWaits 1) = true := by decide +kernel
  have hstated := hdecision .a 1 0 reentryDropped reentryWaits reentryDecided.2 hclk hlisted hdue hfurrow (Prod.ext hdecided rfl)
  have hstays : exec (.harrowDecision .a 1 0) reentryWaits = .next reentryWaits := exec_harrowDecision_of_headerBusy 0 hbusy
  have hsame := Host.Outcome.next.inj (hstays.symm.trans hstated)
  have hgone : tmem reentryWaits.frames 1 = false := (congrArg (fun t => tmem t.frames 1) hsame).trans (by decide +kernel)
  exact absurd hlisted (ne_true_of_eq_false hgone)

end Sys2Proof.Machine
end

section
/-! PROOF. The loads of the inactive bank, the arming of a swap, and the read of a fragment table (spec/05 R171-R181). -/

namespace Sys2Proof.Machine

/-! ## The answer of a load (R171, R176) -/

/-- Two admitted furrows whose BANK_CRC values of the loaded part differ. -/
def crcDiffers (crc : Bank → Nat) (s : State) : Prop :=
  furState s 0 = 0 ∧ furState s 1 = 0 ∧ crc (bankOf s 0 (inactive s)) ≠ crc (bankOf s 1 (inactive s))

section comparison
variable {crc : Bank → Nat} (mark : Bool → Bank → Bank) {s : State}

theorem loadDone_of_differs (h : crcDiffers crc s) : loadDone crc mark s =
    .final stHwFault [] (fireFur 1 (hBase 1 + 4) 0 [] (fireFur 0 (hBase 0 + 4) 0 [] (modBank (inactive s) (mark true) s))) := by
  obtain ⟨hadmittedA, hadmittedB, hcrc⟩ := h
  simp [loadDone, hadmittedA, hadmittedB, hcrc]

theorem loadDone_of_agrees (h : ¬ crcDiffers crc s) : loadDone crc mark s =
    .ok (toLE 4 (if s.hl.lead = 0 then crc (bankOf s 0 (inactive s)) else crc (bankOf s 1 (inactive s))) ++ toLE 1 (inactive s) ++ zeros 3)
      (modBank (inactive s) (mark false) s) := by
  have hcompare : (furState s 0 == 0 && furState s 1 == 0 && crc (bankOf s 0 (inactive s)) != crc (bankOf s 1 (inactive s))) = false := by
    simpa [crcDiffers, and_assoc] using h
  simp only [loadDone, hcompare, Bool.false_eq_true, if_false]

end comparison

section serving
variable {c : CmdSpec} {body : Packet → State → CmdResult} {p : Packet} {s t : State}

/-- A row whose body ends with the comparison of the furrows' BANK_CRC values. -/
theorem serveCmd_loadDone {crc : Bank → Nat} {mark : Bool → Bank → Bank} (h : accepts c p s = true)
    (hb : body (asked c p) (reached c p s) = loadDone crc mark t) (ho : c.opcode ≠ 0x0101) :
    serveCmd c body p s = .next (harrowLoaded c p crc mark t) := by
  refine congrArg Host.Outcome.next ?_
  by_cases hcrc : crcDiffers crc t
  · exact (serve_final h (hb.trans (loadDone_of_differs mark hcrc))).trans (if_pos hcrc).symm
  · exact (serve_ok h (hb.trans (loadDone_of_agrees mark hcrc)) ho (by simp)).trans (if_neg hcrc).symm

/-- An OK reply of any length; one above 4,080 bytes goes to a session of version 3 alone (R66). -/
theorem serveCmd_ok_of_fits {reply : List Byte} (h : accepts c p s = true) (hb : body (asked c p) (reached c p s) = .ok reply t)
    (ho : c.opcode ≠ 0x0101) (hl : reply.length ≤ 4080 ∨ 3 ≤ (session (reached c p s) (p.session % 4)).verMajor) :
    serveCmd c body p s = .next (answered c p stOk reply t) := by
  have hfits : (decide (4080 < reply.length) && decide ((session (reached c p s) ((asked c p).session % 4)).verMajor < 3)) = false := by
    have : (asked c p).session = p.session := rfl
    simp only [this, Bool.and_eq_false_iff, decide_eq_false_iff_not]
    omega
  rw [serveCmd, serve_of_accepts h, hb, finish_of_accepts h (by intro; simp)]
  simp only [ho, hfits, Bool.false_eq_true, if_false, answered]

end serving

/-! ## HARROW_STAGE_LOAD (R176-R178) -/

/-- The stage that a load names, as the inactive bank of the lead holds it. -/
def loadedStage (p : Packet) (s : State) : Stage := tget {} (bankOf s s.hl.lead (inactive s)).stages (byteAt p.params 0)

/-- The entries that a WRITE carries, and the keys that a CLEAR of an exact-hash stage carries. -/
def carriedEntries (p : Packet) : List StageEntry := readEntries (byteAt p.params 2) (byteAt p.params 3) p.params
def carriedKeys (p : Packet) : List Nat := (List.range (byteAt p.params 3)).map (fun i => le p.params (16 + 32 * i) 32)

/-- The load of one stage of the inactive bank, by what it makes of that stage. -/
def stageSet (p : Packet) (g : Stage → Stage) (s : State) : CmdResult := stageDone (byteAt p.params 0) (modStage (inactive s) (byteAt p.params 0) g s)

/-- In each updated furrow the inactive bank takes what g makes of it and of the furrow's active bank. -/
def copyFromActive (g : Bank → Bank → Bank) (s : State) : State :=
  eachFur (fun y => { y with banks := tmod {} y.banks (inactive s) (g (tget {} y.banks s.bankBit)) }) s

/-- A bank with the stage of another one. -/
def withStageOf (n : Nat) (act x : Bank) : Bank := { x with stages := tset {} x.stages n { tget {} act.stages n with inconsistent := false } }

/-- The stage that a CONFIGURE describes. -/
def configuredStage (p : Packet) : Stage :=
  if byteAt p.params 2 = 0 then {}
  else { kind := byteAt p.params 2, size := le p.params 8 4, segments := readSegs p.params, miss := le p.params 48 16 }

section loads
variable {p : Packet} {s : State} (hswap : s.swap = none) (hres : reservedAt p.params 12 4 = true)
include hswap hres

section stages
variable (hn : byteAt p.params 0 < 8)
include hn

theorem bodyHarrowStageLoad_of_configure (hop : byteAt p.params 1 = 0) (hkind : byteAt p.params 2 ≤ 4)
    (hsize : sizeLegal (byteAt p.params 2) (le p.params 8 4) = true) (hsegs : segsOk (byteAt p.params 2) (readSegs p.params) = true)
    (hmiss : resultOk s (le p.params 48 16) = true) (hpool : poolFits s (byteAt p.params 0) (byteAt p.params 2) (le p.params 8 4) = true) :
    bodyHarrowStageLoad p s = stageSet p (fun _ => configuredStage p) s := by
  have hnumber : byteAt p.params 0 ≠ 0xFF := by omega
  simp [bodyHarrowStageLoad, checked, firstBad, swapBusy, hswap, hres, hn, hnumber, hop, hkind, hsize, hsegs, hmiss, hpool, stageSet, configuredStage]

theorem bodyHarrowStageLoad_of_copy (hop : byteAt p.params 1 = 3)
    (hpool : poolFits s (byteAt p.params 0) (tget {} (bankOf s s.hl.lead s.bankBit).stages (byteAt p.params 0)).kind
      (tget {} (bankOf s s.hl.lead s.bankBit).stages (byteAt p.params 0)).size = true) :
    bodyHarrowStageLoad p s = stageDone (byteAt p.params 0) (copyFromActive (withStageOf (byteAt p.params 0)) s) := by
  have hnumber : byteAt p.params 0 ≠ 0xFF := by omega
  simp [bodyHarrowStageLoad, checked, firstBad, swapBusy, hswap, hres, hn, hnumber, hop, hpool, copyFromActive]
  rfl

section entries
variable (hsame : byteAt p.params 2 = (loadedStage p s).kind)
include hsame

section write
variable (hop : byteAt p.params 1 = 1) (hcount : byteAt p.params 3 ≤ mostEntries (byteAt p.params 2))
  (hresult : ∀ e ∈ carriedEntries p, resultOk s e.result = true)
include hop hcount hresult

theorem bodyHarrowStageLoad_of_writeIndexed (hkind : 2 ≤ byteAt p.params 2 ∧ byteAt p.params 2 ≤ 4)
    (hrange : le p.params 4 4 + byteAt p.params 3 ≤ (loadedStage p s).size)
    (horder : byteAt p.params 2 = 3 → ∀ e ∈ carriedEntries p, e.key ≤ e.mask) :
    bodyHarrowStageLoad p s = stageSet p (fun st => putFrom st (le p.params 4 4) (carriedEntries p)) s := by
  obtain ⟨hleast, hmost⟩ := hkind
  have hnumber : byteAt p.params 0 ≠ 0xFF := by omega
  have hpos : 1 ≤ byteAt p.params 2 := by omega
  have hhash : byteAt p.params 2 ≠ 1 := by omega
  have hordered : byteAt p.params 2 ≠ 3 ∨ ∀ e ∈ carriedEntries p, e.key ≤ e.mask := or_iff_not_imp_left.mpr fun h => horder (not_not.mp h)
  simp only [carriedEntries, loadedStage] at *
  simp [bodyHarrowStageLoad, checked, firstBad, swapBusy, hswap, hres, hn, hnumber, hop, hpos, hmost, hcount, hrange, hordered, eq_true hresult,
    hhash, ← hsame, stageSet]

theorem bodyHarrowStageLoad_of_writeHashed (hkind : byteAt p.params 2 = 1)
    (hroom : (writeAll (carriedEntries p) (some (loadedStage p s))).isSome = true) :
    bodyHarrowStageLoad p s = stageSet p (fun st => (writeAll (carriedEntries p) (some st)).getD st) s := by
  have hnumber : byteAt p.params 0 ≠ 0xFF := by omega
  obtain ⟨st, hst⟩ := Option.isSome_iff_exists.mp hroom
  unfold carriedEntries loadedStage at *
  rw [hkind] at hsame hcount hresult hst
  simp [bodyHarrowStageLoad, checked, firstBad, swapBusy, hswap, hres, hn, hnumber, hop, hkind, hcount, eq_true hresult, ← hsame, hst, stageSet]

end write

section clear
variable (hop : byteAt p.params 1 = 2)
include hop

theorem bodyHarrowStageLoad_of_clearIndexed (hkind : 2 ≤ byteAt p.params 2 ∧ byteAt p.params 2 ≤ 4)
    (hrange : le p.params 4 4 + byteAt p.params 3 ≤ (loadedStage p s).size) :
    bodyHarrowStageLoad p s = stageSet p (fun st =>
      { st with entries := st.entries.filter (fun e => !(le p.params 4 4 ≤ e.1 && e.1 < le p.params 4 4 + byteAt p.params 3)) }) s := by
  obtain ⟨hleast, hmost⟩ := hkind
  have hnumber : byteAt p.params 0 ≠ 0xFF := by omega
  have hpos : 1 ≤ byteAt p.params 2 := by omega
  have hhash : byteAt p.params 2 ≠ 1 := by omega
  simp only [loadedStage] at *
  simp [bodyHarrowStageLoad, checked, firstBad, swapBusy, hswap, hres, hn, hnumber, hop, hpos, hmost, hrange, hhash, ← hsame, stageSet]

theorem bodyHarrowStageLoad_of_clearHashed (hkind : byteAt p.params 2 = 1)
    (hfound : ∀ k ∈ carriedKeys p, (findHash (loadedStage p s) k).isSome = true) :
    bodyHarrowStageLoad p s = stageSet p (clearKeys (carriedKeys p)) s := by
  have hnumber : byteAt p.params 0 ≠ 0xFF := by omega
  have hmissing : (carriedKeys p).any (fun k => (findHash (loadedStage p s) k).isNone) = false := by
    simpa [Option.isSome_iff_ne_none] using hfound
  unfold carriedKeys loadedStage at *
  rw [hkind] at hsame
  simp only [bodyHarrowStageLoad, hop, hkind, hmissing]
  simp [checked, firstBad, swapBusy, hswap, hres, hn, hnumber, ← hsame, stageSet]

end clear
end entries
end stages

/-! ### The policy block (R178) -/

section policy
variable (hn : byteAt p.params 0 = 0xFF)
include hn

theorem bodyHarrowStageLoad_of_policy (hop : byteAt p.params 1 = 0) (hactions : badAction p.params = none)
    (htimeout : 1 ≤ le p.params 48 2 ∧ le p.params 48 2 ≤ 1000) (hport : 1 ≤ le p.params 50 2) (hpad : reservedAt p.params 56 8 = true) :
    bodyHarrowStageLoad p s = policyDone (modBank (inactive s) (fun x => { x with policy := readPolicy p.params }) s) := by
  have hread : (readPolicy p.params).fragTimeout = le p.params 48 2 ∧ (readPolicy p.params).rudpPort = le p.params 50 2 := ⟨rfl, rfl⟩
  simp [bodyHarrowStageLoad, loadPolicy, checked, firstBad, swapBusy, hswap, hres, hn, hop, hactions, hread, htimeout, hport, hpad]

theorem bodyHarrowStageLoad_of_policyCopy (hop : byteAt p.params 1 = 3) :
    bodyHarrowStageLoad p s = policyDone (copyFromActive (fun act x => { x with policy := act.policy }) s) := by
  simp [bodyHarrowStageLoad, loadPolicy, checked, firstBad, swapBusy, hswap, hres, hn, hop, copyFromActive]

end policy
end loads

/-! ## HARROW_PATTERN_LOAD (R180) -/

/-- Pattern i of a WRITE goes to its place, or its place is cleared. -/
def putPattern (p : Packet) (t : Table Pattern) (i : Nat) : Table Pattern :=
  if (readPattern p.params (16 + 72 * i)).length = 0 then tdel t (le p.params 2 2 + i)
  else tput t (le p.params 2 2 + i) (readPattern p.params (16 + 72 * i))

section patterns
variable {p : Packet} {s : State} (hswap : s.swap = none) (hres : reservedAt p.params 4 12 = true) (hcount : byteAt p.params 1 ≤ 56)
  (hrange : le p.params 2 2 + byteAt p.params 1 ≤ 256)
include hswap hres hcount hrange

theorem bodyHarrowPatternLoad_of_write (hop : byteAt p.params 0 = 1)
    (hlegal : ∀ i, i < byteAt p.params 1 → patternOk p.params (16 + 72 * i) = none) :
    bodyHarrowPatternLoad p s = patternsDone (modBank (inactive s)
      (fun x => { x with patterns := (List.range (byteAt p.params 1)).foldl (putPattern p) x.patterns }) s) := by
  have hnone : (List.range (byteAt p.params 1)).findSome? (fun i => patternOk p.params (16 + 72 * i)) = none := by
    simpa using hlegal
  simp only [bodyHarrowPatternLoad, checked, firstBad, swapBusy, hswap, hres, hcount, hrange, hop, hnone]
  rfl

theorem bodyHarrowPatternLoad_of_clear (hop : byteAt p.params 0 = 2) :
    bodyHarrowPatternLoad p s = patternsDone (modBank (inactive s) (fun x =>
      { x with patterns := x.patterns.filter (fun e => !(le p.params 2 2 ≤ e.1 && e.1 < le p.params 2 2 + byteAt p.params 1)) }) s) := by
  simp [bodyHarrowPatternLoad, checked, firstBad, swapBusy, hswap, hres, hcount, hrange, hop]

theorem bodyHarrowPatternLoad_of_copy (hop : byteAt p.params 0 = 3) :
    bodyHarrowPatternLoad p s = patternsDone (copyFromActive (fun act x => { x with patterns := act.patterns }) s) := by
  simp [bodyHarrowPatternLoad, checked, firstBad, swapBusy, hswap, hres, hcount, hrange, hop, copyFromActive]

end patterns

/-! ## HARROW_BANK_SWAP and FRAGMENT_TABLE_READ (R179, R181) -/

/-- The tick that a swap is asked for. -/
def swapTick (p : Packet) (s : State) : Nat := if le p.params 0 8 = 0 then nextWholeMs s else nsOfT64 (le p.params 0 8)

theorem bodyHarrowBankSwap_of_legal {p : Packet} {s : State} (htime : t64Ok (le p.params 0 8) = true) (htick : inMinute s (swapTick p s) = true)
    (hres : reservedAt p.params 8 8 = true) (hswap : s.swap = none) (hbad : bankBad s = false) :
    bodyHarrowBankSwap p s = .accepted { s with swap := some { tick := swapTick p s, ticket := ticketFor specHarrowBankSwap p } } := by
  simp only [swapTick] at *
  simp [bodyHarrowBankSwap, checked, firstBad, swapBusy, htime, htick, hres, hswap, hbad]

/-- The reply to FRAGMENT_TABLE_READ: the live entries of the two ways, the three counters, and the records of the places asked for. -/
def fragmentReply (p : Packet) (s : State) : List Byte :=
  let x := fur s (byteAt p.params 0)
  let live := fun tc7 => (x.frags.filter (fun e => decide (e.1 % 4 < 2) == tc7 && fragLive (nowNs s) e.2)).length
  toLE 2 (live true) ++ toLE 2 (live false) ++ toLE 4 (tget 0 x.harrowCtr 9) ++ toLE 4 (tget 0 x.harrowCtr 8) ++ toLE 4 (tget 0 x.harrowCtr 10) ++
    (x.frags.filter (fun e => le p.params 2 2 ≤ e.1 && e.1 < le p.params 2 2 + le p.params 4 2)).flatMap (fun e => fragRecord e.1 e.2)

theorem bodyFragmentTableRead_of_legal {p : Packet} {s : State} (hf : byteAt p.params 0 < 2) (hres : reservedAt p.params 1 1 = true)
    (hfirst : le p.params 2 2 ≤ 4095) (hcount : 1 ≤ le p.params 4 2) (hrange : le p.params 2 2 + le p.params 4 2 ≤ 4096)
    (hpad : reservedAt p.params 6 2 = true) (hpower : powered s (byteAt p.params 0) = true) :
    bodyFragmentTableRead p s = .ok (fragmentReply p s) s := by
  simp [bodyFragmentTableRead, checked, firstBad, onFurrow, hf, hres, hfirst, hcount, hrange, hpad, hpower, fragmentReply]

/-! ## What the four commands come to -/

section exec
variable {p : Packet} {s : State}

theorem exec_harrowStageLoad_of_stageDone {n : Nat} {t : State} (hacc : accepts specHarrowStageLoad p s = true)
    (hbody : bodyHarrowStageLoad (asked specHarrowStageLoad p) (reached specHarrowStageLoad p s) = stageDone n t) :
    exec (.harrowStageLoad p) s = .next (stageLoaded n p t) := serveCmd_loadDone hacc hbody (by decide)

theorem exec_harrowStageLoad_of_policyDone {t : State} (hacc : accepts specHarrowStageLoad p s = true)
    (hbody : bodyHarrowStageLoad (asked specHarrowStageLoad p) (reached specHarrowStageLoad p s) = policyDone t) :
    exec (.harrowStageLoad p) s = .next (harrowLoaded specHarrowStageLoad p (fun x => policyCrc x.policy)
      (fun bad x => { x with polInconsistent := bad }) t) := serveCmd_loadDone hacc hbody (by decide)

theorem exec_harrowPatternLoad_of_patternsDone {t : State} (hacc : accepts specHarrowPatternLoad p s = true)
    (hbody : bodyHarrowPatternLoad (asked specHarrowPatternLoad p) (reached specHarrowPatternLoad p s) = patternsDone t) :
    exec (.harrowPatternLoad p) s = .next (harrowLoaded specHarrowPatternLoad p patternCrc (fun bad x => { x with patInconsistent := bad }) t) :=
  serveCmd_loadDone hacc hbody (by decide)

end exec

/-- Settles O25: clause by clause, what the body of each command answers in the case that the clause names. -/
theorem harrowLoadsGoToTheInactiveBank : Obligations.HarrowLoadsGoToTheInactiveBank := by
  unfold Obligations.HarrowLoadsGoToTheInactiveBank
  refine ⟨?stages, ?patterns, ?swap, ?fragments⟩
  case stages =>
    intro p s r b n kind count first size ib cur src es keys hacc hswap hres
    have hdone := @exec_harrowStageLoad_of_stageDone p s
    have hpolicy := @exec_harrowStageLoad_of_policyDone p s
    refine ⟨?configure, ?writeIndexed, ?writeHashed, ?clearIndexed, ?clearHashed, ?copy, ?policy, ?policyCopy⟩
    case configure =>
      intro hn hop hkind hsize hsegs hmiss hpool
      exact hdone hacc (bodyHarrowStageLoad_of_configure (p := asked specHarrowStageLoad p) hswap hres hn hop hkind hsize hsegs hmiss hpool)
    case writeIndexed =>
      intro hn hop hleast hmost hsame hcount hrange horder hresult
      exact hdone hacc (bodyHarrowStageLoad_of_writeIndexed (p := asked specHarrowStageLoad p) hswap hres hn hsame hop hcount hresult ⟨hleast, hmost⟩
        hrange horder)
    case writeHashed =>
      intro hn hop hkind hcur hcount hresult hroom
      exact hdone hacc (bodyHarrowStageLoad_of_writeHashed (p := asked specHarrowStageLoad p) hswap hres hn (hkind.trans hcur.symm) hop
        (hcount.trans_eq (congrArg mostEntries hkind.symm)) hresult hkind hroom)
    case clearIndexed =>
      intro hn hop hleast hmost hsame hrange
      exact hdone hacc (bodyHarrowStageLoad_of_clearIndexed (p := asked specHarrowStageLoad p) hswap hres hn hsame hop ⟨hleast, hmost⟩ hrange)
    case clearHashed =>
      intro hn hop hkind hcur hfound
      exact hdone hacc (bodyHarrowStageLoad_of_clearHashed (p := asked specHarrowStageLoad p) hswap hres hn (hkind.trans hcur.symm) hop hkind hfound)
    case copy =>
      intro hn hop hpool
      exact hdone hacc (bodyHarrowStageLoad_of_copy (p := asked specHarrowStageLoad p) hswap hres hn hop hpool)
    case policy =>
      intro hn hop hactions hleast hmost hport hpad
      exact hpolicy hacc (bodyHarrowStageLoad_of_policy (p := asked specHarrowStageLoad p) hswap hres hn hop hactions ⟨hleast, hmost⟩ hport hpad)
    case policyCopy =>
      intro hn hop
      exact hpolicy hacc (bodyHarrowStageLoad_of_policyCopy (p := asked specHarrowStageLoad p) hswap hres hn hop)
  case patterns =>
    intro p s r b count first ib done hacc hswap hres
    have hdone := @exec_harrowPatternLoad_of_patternsDone p s
    refine ⟨fun hop hcount hrange hlegal => ?_, fun hop hcount hrange => ?_, fun hop hcount hrange => ?_⟩
    · exact hdone hacc (bodyHarrowPatternLoad_of_write (p := asked specHarrowPatternLoad p) hswap hres hcount hrange hop hlegal)
    · exact hdone hacc (bodyHarrowPatternLoad_of_clear (p := asked specHarrowPatternLoad p) hswap hres hcount hrange hop)
    · exact hdone hacc (bodyHarrowPatternLoad_of_copy (p := asked specHarrowPatternLoad p) hswap hres hcount hrange hop)
  case swap =>
    intro p s r b tick hacc htime htick hres hswap hbad
    exact congrArg Host.Outcome.next
      (serve_accepted hacc (bodyHarrowBankSwap_of_legal (p := asked specHarrowBankSwap p) htime htick hres hswap hbad))
  case fragments =>
    intro p s r b f first count x live reply hacc hf hres hfirst hcount hrange hpad hpower hfits
    exact serveCmd_ok_of_fits hacc (bodyFragmentTableRead_of_legal (p := asked specFragmentTableRead p) hf hres hfirst hcount hrange hpad hpower)
      (by decide) hfits

end Sys2Proof.Machine
end

section
/-! PROOF. A pending learn, an ageing sweep, and the end of staging (spec/06 R193-R196, R199). -/

namespace Sys2Proof.Machine

/-- The tables of a furrow come out alike under two changes that agree on them as they are. -/
theorem modTab_congr {f : Nat} {g h : Tables → Tables} {s : State} (heq : g (fur s f).tab = h (fur s f).tab) : modTab f g s = modTab f h s := by
  unfold modTab modFur fur at *
  split
  · case isTrue hf => rw [if_pos hf] at heq; simp only [heq]
  · case isFalse hf => rw [if_neg hf] at heq; simp only [heq]

/-! ## LEARN_INSERT (R193-R195) -/

section learning
variable {f : Nat} {x : PendLearn} {rest : List PendLearn} {s0 s : State} (hpend : (fur s0 f).tab.pend = x :: rest)
  (hs : modTab f (fun t => refillLearn s0 { t with pend := rest }) s0 = s)
include hpend hs

section known
variable {pl : Nat} {e : TabEntry} (hfind : findAddr s (fur s f).tab x.key = some (pl, e))
include hfind

/-- An address that has an entry: a static one stays, a learned one is hit where it is, or moves for one token. -/
theorem learnStep_of_known : learnStep f s0 =
    if e.static = true then s
    else if e.dest = x.port then modTab f (putEntry pl { e with hit := true }) s
    else if (fur s f).tab.tokens < 1250000 then learnLimited f (modTab f (tctr 4 1) s)
    else modTab f (fun t => tctr 1 1 (putEntry pl { e with dest := x.port, hit := true } { t with tokens := t.tokens - 1250000 })) s := by
  subst hs
  simp only [learnStep, hpend, hfind, beq_iff_eq]

end known

/-- The port has as many learned entries as its limit lets it have; a limit of 0 is none (R194). -/
def learnedFull (s : State) (f p : Nat) : Prop :=
  (port s p).learn.limit ≠ 0 ∧ (port s p).learn.limit ≤ ((learnedOf (fur s f).tab).filter (fun e => e.2.dest == p)).length

/-- The new entry of a learned address, for one token. -/
def learnedAt (f pl : Nat) (x : PendLearn) (s : State) : State :=
  noteSurvivor f x.key (ovfWatch f (modTab f (fun t =>
    tctr 0 1 (putEntry pl { kind := 1, key := x.key, hit := true, dest := x.port, age := t.sweepStamp } { t with tokens := t.tokens - 1250000 })) s))

section unknown
variable (hnone : findAddr s (fur s f).tab x.key = none)
include hnone

theorem learnStep_of_full (hfull : learnedFull s f x.port) : learnStep f s0 = learnLimited f (modTab f (tctr 5 1) s) := by
  subst hs
  obtain ⟨hlimit, hcount⟩ := hfull
  simp only [learnStep, hpend, hnone, bne_iff_ne.mpr hlimit, decide_eq_true hcount, Bool.and_self, if_true]

/-- Below the limit of its port, an unknown address takes the first free place for one token. -/
theorem learnStep_of_unknown (hroom : ¬ learnedFull s f x.port) : learnStep f s0 =
    if (fur s f).tab.tokens < 1250000 then learnLimited f (modTab f (tctr 4 1) s)
    else (learnPlace s (fur s f).tab x.key).elim
      (fireFurMs f (tabBase f) 0 (toLE 1 x.port ++ toLE 2 (keyFid x.key)) (modTab f (tctr 3 1) s)) (learnedAt f · x s) := by
  subst hs
  simp only [learnStep, hpend, hnone, Bool.and_eq_true, bne_iff_ne, decide_eq_true_eq]
  refine (if_neg hroom).trans (if_congr Iff.rfl rfl ?_)
  cases learnPlace _ _ x.key with
  | none => rfl
  | some pl => exact congrArg (fun t => noteSurvivor f x.key (ovfWatch f t)) (modTab_congr rfl)

end unknown
end learning

theorem exec_learnInsert {s : State} (hclk : s.clk.coreStopped = false) (fu : Furrow) (bad : List Nat) :
    exec (.learnInsert ⟨fu, bad⟩) s = .next (learnStep (furNo fu) (bad.foldl (addrFault (furNo fu)) s)) := by
  change execLearnInsert ⟨fu, bad⟩ s = _
  simp only [execLearnInsert, hclk, Bool.false_eq_true, if_false]

/-! ## AGEING_SWEEP (R196) -/

/-- The tables of a furrow after the sweep that was due at an edge: the next is a period later. -/
def sweptTables (a : AgeCfg) (due : Nat) (t : Tables) : Tables :=
  let st := (t.sweepStamp + 1) % 16
  let ad := sweepTable st a.ageLimit t.addr
  let o := sweepTable st a.ageLimit t.ovf
  tctr 2 (t.addr.length - ad.length + (t.ovf.length - o.length))
    { t with sweepStamp := st, addr := ad, ovf := o, nextSweep := some (due + a.sweepPeriod * secE) }

theorem exec_ageingSweep {s : State} (hclk : s.clk.coreStopped = false) (fu : Furrow) (bad : List Nat) (hdecides : decides s (furNo fu) = true) {t : State}
    {due : Nat} (hdue : (fur s (furNo fu)).tab.nextSweep.getD s.clk.edges = due)
    (ht : bad.foldl (addrFault (furNo fu)) (startCore (furNo fu) (reachEdge due s)) = t) :
    exec (.ageingSweep ⟨fu, bad⟩) s = .next (coreIdle (furNo fu) (ovfWatch (furNo fu) (modTab (furNo fu) (sweptTables t.age due) t))) := by
  subst hdue ht
  change execAgeingSweep ⟨fu, bad⟩ s = _
  simp only [execAgeingSweep, hclk, hdecides, Bool.not_true, Bool.false_eq_true, if_false]
  rfl

section sweep
variable {stamp limit : Nat} {e e' : TabEntry}

theorem sweepEntry_of_exempt (h : e.static = true ∨ e.kind ≠ 1) : sweepEntry stamp limit e = some e := by
  rcases h with h | h <;> simp [sweepEntry, h]

section learned
variable (hkind : e.kind = 1) (hlearned : e.static = false)
include hkind hlearned

theorem sweepEntry_of_hit (hhit : e.hit = true) : sweepEntry stamp limit e = some { e with hit := false, age := stamp } := by
  simp [sweepEntry, hkind, hlearned, hhit]

theorem sweepEntry_of_young (hhit : e.hit = false) (hage : limit = 0 ∨ (stamp + 16 - e.age) % 16 < limit) : sweepEntry stamp limit e = some e := by
  have hstays : (limit != 0 && decide (limit ≤ (stamp + 16 - e.age) % 16)) = false := by
    rcases hage with hoff | hyoung
    · simp [hoff]
    · simp [hyoung]
  simp [sweepEntry, hkind, hlearned, hhit, hstays]

theorem sweepEntry_of_old (hhit : e.hit = false) (hlimit : limit ≠ 0) (hold : limit ≤ (stamp + 16 - e.age) % 16) : sweepEntry stamp limit e = none := by
  simp [sweepEntry, hkind, hlearned, hhit, hlimit, hold]

end learned

/-- A sweep leaves an entry what it is: static or not, and of which kind. -/
theorem static_kind_of_sweepEntry (h : sweepEntry stamp limit e = some e') : e'.static = e.static ∧ e'.kind = e.kind := by
  unfold sweepEntry at h
  split_ifs at h <;> cases h <;> exact ⟨rfl, rfl⟩

/-- What a sweep has left that is exempt was so before. -/
theorem eq_of_sweepEntry_exempt (h : sweepEntry stamp limit e = some e') (hexempt : e'.static = true ∨ e'.kind ≠ 1) : e = e' := by
  obtain ⟨hstatic, hkind⟩ := static_kind_of_sweepEntry h
  rw [hstatic, hkind] at hexempt
  exact Option.some.inj ((sweepEntry_of_exempt hexempt).symm.trans h)

theorem mem_sweepTable {t : Table TabEntry} {pl : Nat} : (pl, e') ∈ sweepTable stamp limit t ↔ ∃ e, (pl, e) ∈ t ∧ sweepEntry stamp limit e = some e' := by
  simp [sweepTable]

end sweep

/-- A table with rising keys lists an index once. -/
theorem eq_of_mem_rising {α : Type} {t : Table α} (h : Rising t = true) {k : Nat} {v w : α} (hv : (k, v) ∈ t) (hw : (k, w) ∈ t) : v = w := by
  induction t with
  | nil => cases hv
  | cons x t ih =>
    have hlt := rising_lt h
    rcases List.mem_cons.mp hv with rfl | hvt <;> rcases List.mem_cons.mp hw with hwx | hwt
    · exact (Prod.mk.inj hwx).2.symm
    · exact absurd (hlt _ hwt) (Nat.lt_irrefl _)
    · exact absurd (hwx ▸ hlt _ hvt) (Nat.lt_irrefl _)
    · exact ih (rising_tail h) hvt hwt

/-! ## STAGING_RECORD_RETIRE (R199) -/

theorem exec_stagingRecordRetire {s : State} {x : StagingRec} {rest : List StagingRec} (hclk : s.clk.coreStopped = false)
    (hrecords : s.fa.tab.staging ++ s.fb.tab.staging = x :: rest) :
    exec .stagingRecordRetire s = .next (purgeStaging (reachNs (rest.foldl (fun m r => min m r.te) x.te + 50000) s)) := by
  change execStagingRecordRetire s = _
  simp only [execStagingRecordRetire, hclk, hrecords, List.foldl_cons, Bool.false_eq_true, if_false]
  rw [List.foldl_hom some (g₁ := fun m (r : StagingRec) => min m r.te) fun _ _ => rfl]

/-- Settles O27: the learn step and the sweep act as their case says, and a sweep goes through a table entry by entry. -/
theorem learningAgeingAndStagingAdvance : Obligations.LearningAgeingAndStagingAdvance := by
  unfold Obligations.LearningAgeingAndStagingAdvance
  refine ⟨?learn, ?sweep, ?entries, ?retire⟩
  case learn =>
    intro fu bad x rest s00 hclk f s0 s t lim hpend
    rw [exec_learnInsert hclk]
    have hroom (h : lim = 0 ∨ ((learnedOf t).filter (fun e => e.2.dest == x.port)).length < lim) : ¬ learnedFull s f x.port :=
      fun hfull => h.elim hfull.1 hfull.2.not_gt
    refine ⟨fun pl e hfind => ?known, fun hnone hlimit hcount => ?full, fun hnone h htokens => ?unpaid, fun hnone h htokens => ?paid⟩
    case known =>
      rw [learnStep_of_known hpend rfl hfind]
      refine ⟨fun hstatic => ?_, fun hlearned hport => ?_, fun hlearned hport htokens => ?_, fun hlearned hport htokens => ?_⟩
      · rw [if_pos hstatic]
      · rw [if_neg (ne_true_of_eq_false hlearned), if_pos hport]
      · rw [if_neg (ne_true_of_eq_false hlearned), if_neg hport, if_neg htokens.not_gt]
      · rw [if_neg (ne_true_of_eq_false hlearned), if_neg hport, if_pos htokens]
    case full => exact congrArg Host.Outcome.next (learnStep_of_full hpend rfl hnone ⟨hlimit, hcount⟩)
    case unpaid => rw [learnStep_of_unknown hpend rfl hnone (hroom h), if_pos htokens]
    case paid =>
      rw [learnStep_of_unknown hpend rfl hnone (hroom h), if_neg htokens.not_gt]
      exact ⟨fun hplace => by rw [hplace]; rfl, fun pl hplace => by rw [hplace]; rfl⟩
  case sweep =>
    intro fu bad s0 hclk f due s hdecides
    exact exec_ageingSweep hclk fu bad hdecides rfl rfl
  case entries =>
    intro stamp limit t u
    refine ⟨fun pl e hexempt => ?_, fun pl e hlisted hkind hlearned => ⟨fun hhit => ?_, fun hhit hage => ?_, fun hhit hlimit hold hrising e' hleft => ?_⟩⟩
    · refine mem_sweepTable.trans ⟨fun ⟨d, hd, hsweep⟩ => ?_, fun hlisted => ⟨e, hlisted, sweepEntry_of_exempt hexempt⟩⟩
      exact eq_of_sweepEntry_exempt hsweep hexempt ▸ hd
    · exact mem_sweepTable.mpr ⟨e, hlisted, sweepEntry_of_hit hkind hlearned hhit⟩
    · exact mem_sweepTable.mpr ⟨e, hlisted, sweepEntry_of_young hkind hlearned hhit hage⟩
    · obtain ⟨d, hd, hsweep⟩ := mem_sweepTable.mp hleft
      rw [eq_of_mem_rising hrising hd hlisted, sweepEntry_of_old hkind hlearned hhit hlimit hold] at hsweep
      cases hsweep
  case retire =>
    intro x rest s hclk hrecords te
    exact exec_stagingRecordRetire hclk hrecords

end Sys2Proof.Machine
end

section
/-! PROOF. The commands of the address tables: what their bodies answer once check 10 has passed, and the end of a flush (spec/06 R207-R212). -/

namespace Sys2Proof.Machine

theorem any_range_two (g : Nat → Bool) : (List.range 2).any g = (g 0 || g 1) := by
  simp [List.range_succ]

section serving
variable {c : CmdSpec} {body : Packet → State → CmdResult} {p : Packet} {s : State}

/-- A row whose body refuses without a DETAIL. -/
theorem serveCmd_refuse {st : Nat} (h : accepts c p s = true) (hb : body (asked c p) (reached c p s) = .refuse st 0) :
    serveCmd c body p s = .next (answered c p st [] (reached c p s)) :=
  congrArg Host.Outcome.next (serve_refuse h hb)

/-- The words that an accepted command reads are correctable (R44). -/
theorem upset_of_accepts (h : accepts c p s = true) : p.upset = false := by
  simp only [accepts, acceptsBy, Bool.and_eq_true, Bool.not_eq_true'] at h
  exact h.2

end serving

/-! ## ADDR_ADD (R208) -/

/-- The key of a command's FID and MAC. -/
def namedKey (b : List Byte) : Nat := addrKey (le b 6 2) (be b 0 6)

/-- The place that ADDR_ADD names: an index of the overflow store, or a way of the key's bucket. -/
def namedPlace (b : List Byte) : Nat := if byteAt b 11 = 0x80 then ovfBase + le b 12 2 else 4 * bucketOf (namedKey b) + byteAt b 11

/-- The key is static at another place. -/
def staticElsewhere (s : State) (t : Tables) (pl key : Nat) : Bool := (findAddr s t key).any (fun x => x.2.static && x.1 != pl)

/-- The place holds a static or stream entry of another key. -/
def heldByOther (t : Tables) (pl key : Nat) : Bool := (entryAt t pl).any (fun e => (e.static || e.kind == 2) && e.key != key)

/-- The place holds the static entry of the key, with another destination. -/
def replacedAt (t : Tables) (pl key dest : Nat) (group : Bool) : Bool :=
  (entryAt t pl).any (fun e => e.static && e.key == key && !(e.dest == dest && e.group == group))

theorem staticElsewhere_iff {s : State} {t : Tables} {pl key : Nat} :
    staticElsewhere s t pl key = true ↔ ∃ q e, findAddr s t key = some (q, e) ∧ e.static = true ∧ q ≠ pl := by
  simp [staticElsewhere, Option.any_eq_true]

theorem heldByOther_iff {t : Tables} {pl key : Nat} :
    heldByOther t pl key = true ↔ ∃ e, entryAt t pl = some e ∧ (e.static = true ∨ e.kind = 2) ∧ e.key ≠ key := by
  simp [heldByOther, Option.any_eq_true]

theorem replacedAt_iff {t : Tables} {pl key dest : Nat} {group : Bool} :
    replacedAt t pl key dest group = true ↔ ∃ e, entryAt t pl = some e ∧ e.static = true ∧ e.key = key ∧ ¬(e.dest = dest ∧ e.group = group) := by
  simp [replacedAt, Option.any_eq_true, and_assoc, imp_iff_not_or]

section add
variable {p : Packet} {s : State}

/-- The static entry stands in each updated furrow; a destination port is touched. -/
def addrAdded (p : Packet) (s : State) : State :=
  let put := ovfWatchBoth (eachTab (addStatic s (namedPlace p.params) (namedKey p.params) (le p.params 8 2) (bit (byteAt p.params 10) 0)) s)
  if bit (byteAt p.params 10) 0 = true then put else touchPort (le p.params 8 2) true put

/-- The reply of ADDR_ADD: the bucket, and what the entry displaced or replaced. -/
def addReply (p : Packet) (s : State) : List Byte :=
  toLE 2 (bucketOf (namedKey p.params)) ++
    toLE 1 (b2n (tabWritten s 0 && displacedAt (namedPlace p.params) s.fa.tab || tabWritten s 1 && displacedAt (namedPlace p.params) s.fb.tab) +
      2 * b2n (replacedAt (fur s s.hl.lead).tab (namedPlace p.params) (namedKey p.params) (le p.params 8 2) (bit (byteAt p.params 10) 0))) ++ zeros 5

theorem bodyAddrAdd_eq (hmac : bit (byteAt p.params 10) 0 = true ∨ bit (byteAt p.params 0) 0 = false) (hfid : le p.params 6 2 < 4096)
    (hdest : bit (byteAt p.params 10) 0 = true ∨ (le p.params 8 2 < 64 ∧ portExists s (le p.params 8 2) = true)) (hflags : byteAt p.params 10 < 2)
    (hwhere : byteAt p.params 11 < 2 ∨ (byteAt p.params 11 < 4 ∧ wide s = false) ∨ (byteAt p.params 11 = 0x80 ∧ le p.params 12 2 < 1024))
    (hres : reservedAt p.params 14 2 = true) :
    bodyAddrAdd p s =
      if (staticElsewhere s (fur s s.hl.lead).tab (namedPlace p.params) (namedKey p.params) ||
          heldByOther (fur s s.hl.lead).tab (namedPlace p.params) (namedKey p.params)) = true then .refuse stExists 0
      else .ok (addReply p s) (addrAdded p s) := by
  have hplace : (decide (byteAt p.params 11 < 2) || (decide (byteAt p.params 11 < 4) && !wide s) || byteAt p.params 11 == 0x80) = true := by
    simpa [or_assoc] using hwhere.imp_right (Or.imp_right And.left)
  have hindex : (byteAt p.params 11 != 0x80 || decide (le p.params 12 2 < 1024)) = true := by
    simp only [Bool.or_eq_true, bne_iff_ne, decide_eq_true_eq]
    omega
  have hgroup : (bit (byteAt p.params 10) 0 || !bit (byteAt p.params 0) 0) = true := by simpa using hmac
  have hport : (bit (byteAt p.params 10) 0 || (decide (le p.params 8 2 < 64) && portExists s (le p.params 8 2))) = true := by simpa using hdest
  simp only [bodyAddrAdd, cmdMac, checked, firstBad, fidOk, hgroup, hfid, hport, hflags, hplace, hindex, hres, decide_true, if_true, any_range_two]
  unfold addReply addrAdded staticElsewhere heldByOther replacedAt namedPlace namedKey
  cases findAddr s (fur s s.hl.lead).tab _ <;> cases entryAt (fur s s.hl.lead).tab _ <;> rfl

end add

/-! ## ADDR_DELETE and ADDR_LOOKUP (R209, R210) -/

theorem bodyAddrDelete_eq {p : Packet} {s : State} (hfid : le p.params 6 2 < 4096) :
    bodyAddrDelete p s = .ok (toLE 1 (b2n (holdsKey (namedKey p.params) true (fur s s.hl.lead).tab) +
        2 * b2n (tabWritten s 0 && holdsKey (namedKey p.params) false s.fa.tab) +
        4 * b2n (tabWritten s 1 && holdsKey (namedKey p.params) false s.fb.tab)) ++ zeros 3)
      (ovfWatchBoth (eachTab (deleteKey (namedKey p.params)) s)) := by
  simp only [bodyAddrDelete, checked, firstBad, fidOk, hfid, decide_true, if_true]
  rfl

/-- The 16 bytes of R210 for an entry at a place. -/
def entryReply (pl : Nat) (e : TabEntry) : List Byte :=
  toLE 1 (if e.static then 1 else 2) ++ toLE 1 (if pl < ovfBase then pl % 4 else 0x80) ++ toLE 2 (if pl < ovfBase then pl / 4 else pl - ovfBase) ++
    toLE 2 e.dest ++ toLE 1 (b2n e.group + 2 * b2n e.hit) ++ toLE 1 (if e.static then 0 else e.age) ++ zeros 8

theorem length_entryReply (pl : Nat) (e : TabEntry) : (entryReply pl e).length = 16 := by
  simp only [entryReply, List.length_append, length_toLE, length_zeros]

theorem bodyAddrLookup_eq {p : Packet} {s : State} (hfid : le p.params 6 2 < 4096) (hf : byteAt p.params 8 < 2) (hres : reservedAt p.params 9 3 = true)
    (hpower : powered s (byteAt p.params 8) = true) (hclean : p.upset = false) {found : Option (Nat × TabEntry)}
    (hfound : findAddr s (fur s (byteAt p.params 8)).tab (namedKey p.params) = found) :
    bodyAddrLookup p s = .ok (found.elim (zeros 16) fun x => entryReply x.1 x.2) s := by
  unfold namedKey at hfound
  simp only [bodyAddrLookup, cmdMac, checked, firstBad, fidOk, onFurrow, hfid, hf, hres, hpower, hclean, hfound, decide_true, if_true, Bool.false_eq_true,
    if_false]
  cases found <;> rfl

/-! ## ADDR_FLUSH (R211) -/

/-- The walk that ADDR_FLUSH asks for; scope 0x10 goes through both furrows. -/
def flushAsked (p : Packet) : Flush :=
  { scope := byteAt p.params 0, port := byteAt p.params 1, fid := le p.params 2 2
    mask := if byteAt p.params 0 = 0x10 then 3 else byteAt p.params 4, ticket := some (ticketFor specAddrFlush p) }

theorem bodyAddrFlush_eq {p : Packet} {s : State} (hscope : byteAt p.params 0 < 4 ∨ byteAt p.params 0 = 0x10)
    (hport : byteAt p.params 0 = 1 ∨ byteAt p.params 0 = 3 → portExists s (byteAt p.params 1) = true) (hfid : le p.params 2 2 < 4096)
    (hmask : byteAt p.params 0 = 0x10 ∨
      (byteAt p.params 4 < 4 ∧ ∀ f, f < 2 → bit (byteAt p.params 4) f = true → powered s f = true)) (hres : reservedAt p.params 5 3 = true) :
    bodyAddrFlush p s = .accepted (if byteAt p.params 0 = 1 ∨ byteAt p.params 0 = 3
      then touchPort (byteAt p.params 1) true { s with flush := s.flush ++ [flushAsked p] } else { s with flush := s.flush ++ [flushAsked p] }) := by
  have hlegal : (decide (byteAt p.params 0 < 4) || byteAt p.params 0 == 0x10) = true := by simpa using hscope
  have hexists : (!(byteAt p.params 0 == 1 || byteAt p.params 0 == 3) || portExists s (byteAt p.params 1)) = true := by
    simpa [imp_iff_not_or] using hport
  have hfurrows : (decide (byteAt p.params 4 < 4) || byteAt p.params 0 == 0x10) = true := by simpa using hmask.symm.imp_left And.left
  have hpower : (byteAt p.params 0 != 0x10 && (List.range 2).any (fun f => bit (byteAt p.params 4) f && !powered s f)) = false := by
    rcases hmask with hall | ⟨-, hpowered⟩
    · simp [hall]
    · simp only [Bool.and_eq_false_iff, List.any_eq_false, List.mem_range]
      exact Or.inr fun f hf => by simpa using hpowered f hf
  simp only [bodyAddrFlush, checked, firstBad, fidOk, hlegal, hexists, hfid, hfurrows, hpower, hres, decide_true, if_true, Bool.false_eq_true, if_false,
    Bool.or_eq_true, decide_eq_true_eq, ite_apply]
  rfl

/-- What the end of a walk leaves of a furrow's tables, and how many entries it removed. -/
def walked (s : State) (x : Flush) (f : Nat) (t : Tables) : Tables × Nat := if flushReaches s f then flushTab x f t else (t, 0)

theorem exec_addrFlushDone {s : State} {x : Flush} {rest : List Flush} {k : Ticket} (hclk : s.clk.coreStopped = false) (hflush : s.flush = x :: rest)
    (hticket : x.ticket = some k) :
    exec .addrFlushDone s = .next (complete k stOk (toLE 4 (walked s x 0 s.fa.tab).2 ++ toLE 4 (walked s x 1 s.fb.tab).2)
      (ovfWatchBoth (modTab 0 (fun _ => (walked s x 0 s.fa.tab).1) (modTab 1 (fun _ => (walked s x 1 s.fb.tab).1) { s with flush := rest })))) := by
  change execAddrFlushDone s = _
  simp only [execAddrFlushDone, flushDone, hclk, hflush, hticket, Bool.false_eq_true, if_false]
  rfl

/-! ## AGEING_SET (R212) -/

section ageing
variable {p : Packet} {s : State}

theorem bodyAgeingSet_of_periods (hop : byteAt p.params 0 = 0) (hperiod : 1 ≤ le p.params 2 2 ∧ le p.params 2 2 ≤ 3600)
    (hlimit : byteAt p.params 4 = 0 ∨ (2 ≤ byteAt p.params 4 ∧ byteAt p.params 4 ≤ 15)) (hrate : 1 ≤ le p.params 6 2 ∧ le p.params 6 2 ≤ 1000) :
    bodyAgeingSet p s = .ok [] { eachTab (refillLearn s) s with
      age := { sweepPeriod := le p.params 2 2, ageLimit := byteAt p.params 4, learnRate := le p.params 6 2 } } := by
  simp [bodyAgeingSet, checked, firstBad, hop, hperiod, hlimit, hrate]

theorem bodyAgeingSet_of_port (hop : byteAt p.params 0 = 1) (hport : portExists s (byteAt p.params 1) = true) (hflags : byteAt p.params 2 < 4)
    (hlimit : le p.params 4 4 ≤ 262144) (hoffset : le p.params 8 2 ≤ 4095) :
    bodyAgeingSet p s = .ok [] (modPort (byteAt p.params 1) (fun x => { x with learn := {
      learn := bit (byteAt p.params 2) 0, flushDown := bit (byteAt p.params 2) 1, limit := le p.params 4 4, fidOffset := le p.params 8 2 } })
      (touchPort (byteAt p.params 1) true s)) := by
  simp [bodyAgeingSet, checked, firstBad, hop, hport, hflags, hlimit, hoffset]

end ageing

/-- Settles O26: check 10 passes in each clause, and so the body answers as the clause has it. -/
theorem addressCommandsKeepTheTables : Obligations.AddressCommandsKeepTheTables := by
  unfold Obligations.AddressCommandsKeepTheTables
  refine ⟨?add, ?delete, ?lookup, ?flush, ?flushDone, ?ageing⟩
  case add =>
    intro p s r b fid dest group whr key pl t used hacc hmac hfid hdest hflags hwhere hres
    have hbody := bodyAddrAdd_eq (p := asked specAddrAdd p) (s := r) hmac hfid hdest hflags hwhere hres
    have hused : (staticElsewhere r t pl key || heldByOther t pl key) = true ↔ used := by
      rw [Bool.or_eq_true, staticElsewhere_iff, heldByOther_iff]
    refine ⟨fun h => ?_, fun h => ⟨replacedAt t pl key dest group, replacedAt_iff, ?_⟩⟩
    · exact serveCmd_refuse (body := bodyAddrAdd) hacc (hbody.trans (if_pos (hused.mpr h)))
    · exact serveCmd_ok (body := bodyAddrAdd) hacc (hbody.trans (if_neg (mt hused.mp h))) (by decide) (by simp)
  case delete =>
    intro p s r key hacc hfid
    exact serveCmd_ok (body := bodyAddrDelete) hacc (bodyAddrDelete_eq (p := asked specAddrDelete p) hfid) (by decide) (by simp)
  case lookup =>
    intro p s r b f key hacc hfid hf hres hpower
    have hbody := @bodyAddrLookup_eq (asked specAddrLookup p) r hfid hf hres hpower (upset_of_accepts hacc)
    refine ⟨fun hmiss => ?_, fun pl e hfound => ?_⟩
    · exact serveCmd_ok (body := bodyAddrLookup) hacc (hbody hmiss) (by decide) (by simp)
    · exact serveCmd_ok (body := bodyAddrLookup) hacc (hbody hfound) (by decide) ((length_entryReply pl e).trans_le (by decide))
  case flush =>
    intro p s r b sc hacc hscope hport hfid hmask hres put
    exact congrArg Host.Outcome.next (serve_accepted hacc (bodyAddrFlush_eq (p := asked specAddrFlush p) hscope hport hfid hmask hres))
  case flushDone =>
    intro x rest k s hclk hflush hticket go
    exact exec_addrFlushDone hclk hflush hticket
  case ageing =>
    intro p s r b hacc
    refine ⟨fun hop hleast hmost hlimit hslow hfast => ?_, fun hop hport hflags hlimit hoffset => ?_⟩
    · exact serveCmd_ok (body := bodyAgeingSet) hacc
        (bodyAgeingSet_of_periods (p := asked specAgeingSet p) hop ⟨hleast, hmost⟩ hlimit ⟨hslow, hfast⟩) (by decide) (by simp)
    · exact serveCmd_ok (body := bodyAgeingSet) hacc
        (bodyAgeingSet_of_port (p := asked specAgeingSet p) hop hport hflags hlimit hoffset) (by decide) (by simp)

end Sys2Proof.Machine
end

section
/-! PROOF. The fields of a reply, and SHADOW_STATUS (spec/00 R14; spec/06 R214). -/

namespace Sys2Proof.Machine

/-! ## The fields of a reply -/

theorem le_append_right {a : List Byte} (b : List Byte) {i : Nat} (n : Nat) (h : a.length ≤ i) : le (a ++ b) i n = le b (i - a.length) n := by
  rw [le, List.drop_append, List.drop_eq_nil_of_le h, List.nil_append, le]

theorem le_toLE_append (n v : Nat) (b : List Byte) : le (toLE n v ++ b) 0 n = v % 256 ^ n := by
  rw [le, List.drop_zero, List.take_left' (length_toLE n v), leNat_toLE]

theorem leNat_zeros (n : Nat) : leNat (zeros n) = 0 := by
  induction n with
  | zero => rfl
  | succ n ih => rw [zeros, List.replicate_succ, leNat, ← zeros, ih]; rfl

theorem le_zeros (n : Nat) : le (zeros n) 0 n = 0 := by
  rw [le, List.drop_zero, List.take_of_length_le (length_zeros n).le, leNat_zeros]

theorem le_zeros_append (n : Nat) (b : List Byte) : le (zeros n ++ b) 0 n = 0 := by
  rw [le, List.drop_zero, List.take_left' (length_zeros n), leNat_zeros]

theorem byteAt_toLE_append (v : Nat) (b : List Byte) : byteAt (toLE 1 v ++ b) 0 = v % 256 := by
  rw [byteAt_append_left b (by simp), byteAt_toLE_zero]

/-- Check 5 (R61): the parameters of a packet that passes have the length of its row. -/
theorem lenOk_of_frontCheck {c : CmdSpec} {p : Packet} {s : State} (h : frontCheck c p s = none) : c.lenOk p.params = true := by
  refine Bool.eq_true_of_not_eq_false fun hbad => ?_
  simp only [frontCheck, hbad, Bool.not_false, if_true] at h
  split_ifs at h

/-! ## SHADOW_STATUS (R214) -/

/-- The 32 bytes of R214. -/
def shadowReply (s : State) : List Byte :=
  toLE 1 s.shadow.mode ++ toLE 1 (b2n s.shadow.suspended) ++ zeros 2 ++ toLE 4 s.shadow.passes ++
    toLE 4 (tget 0 s.fa.tab.ctr 14) ++ toLE 4 (tget 0 s.fb.tab.ctr 14) ++ toLE 4 (tget 0 s.fa.tab.ctr 15) ++ toLE 4 (tget 0 s.fb.tab.ctr 15) ++
    toLE 4 s.shadow.lastUnit ++ zeros 4

theorem length_shadowReply (s : State) : (shadowReply s).length = 32 := by
  simp only [shadowReply, List.length_append, length_toLE, length_zeros]

theorem b2n_lt (b : Bool) : b2n b < 2 := by
  cases b <;> decide

/-- Settles O28: the reply's ten fields, each behind those before it. -/
theorem shadowCompareAnswersAndRepairs : Obligations.ShadowCompareAnswersAndRepairs := by
  unfold Obligations.ShadowCompareAnswersAndRepairs
  intro p s r hacc
  have hempty : len 0 p.params = true := lenOk_of_frontCheck (frontCheck_of_accepts hacc)
  have hlen : (shadowReply r).length ≤ 4080 := (length_shadowReply r).trans_le (by decide)
  have hsuspended : b2n r.shadow.suspended % 256 = b2n r.shadow.suspended := Nat.mod_eq_of_lt ((b2n_lt _).trans (by decide))
  refine ⟨List.eq_nil_of_length_eq_zero (beq_iff_eq.mp hempty), shadowReply r,
    serveCmd_ok (body := bodyShadowStatus) hacc rfl (by decide) hlen, length_shadowReply r, ?_⟩
  simp only [shadowReply, List.append_assoc, byteAt_append_right, le_append_right, length_toLE, length_zeros, Nat.reduceLeDiff, Nat.reduceSub, Nat.sub_self,
    byteAt_toLE_append, le_toLE_append, le_zeros, le_zeros_append, hsuspended, Nat.reducePow, and_self]

end Sys2Proof.Machine
end

section
/-! PROOF. The shadow compare and the group masks: SHADOW_SET, SHADOW_COMPARE_UNIT and MGROUP_SET (spec/06 R199-R203, R213, R215). -/

namespace Sys2Proof.Machine

/-! ## SHADOW_SET (R213) -/

section shadow
variable {p : Packet} {s : State} (hbase : le p.params 0 8 % 64 = 0) (hmode : byteAt p.params 8 < 3) (hres : reservedAt p.params 9 7 = true)
include hbase hmode hres

theorem bodyShadowSet_of_linkDown (hon : byteAt p.params 8 ≠ 0) (hdown : s.pcie.up = false) : bodyShadowSet p s = .conflict := by
  simp [bodyShadowSet, checked, firstBad, hbase, hmode, hres, hon, hdown]

theorem bodyShadowSet_of_settable (hlink : byteAt p.params 8 = 0 ∨ s.pcie.up = true) :
    bodyShadowSet p s = .ok [] { s with shadow := { s.shadow with
      base := le p.params 0 8, mode := byteAt p.params 8, suspended := false, unitA := 0, unitB := 0
      nextA := s.clk.edges + 10000, nextB := s.clk.edges + 15000 } } := by
  have hstays : (byteAt p.params 8 != 0 && !s.pcie.up) = false := by
    rcases hlink with hoff | hup
    · simp [hoff]
    · simp [hup]
  simp only [bodyShadowSet, checked, firstBad, hbase, hmode, hres, hstays, decide_true, beq_self_eq_true, if_true, Bool.false_eq_true, if_false]

end shadow

/-! ## SHADOW_COMPARE_UNIT (R201) -/

/-- The time of a furrow's next unit. -/
def unitDue (f : Nat) (s : State) : State := reachEdge (if f = 0 then s.shadow.nextA else s.shadow.nextB) s

/-- A furrow's next unit. -/
def unitOf (f : Nat) (s : State) : Nat := if f = 0 then s.shadow.unitA else s.shadow.unitB

/-- The ways of a furrow's next unit are compared with the bytes that the host holds for it. -/
def unitCompared (f : Nat) (bad : List Nat) (data : List Byte) (s : State) : State :=
  zipWays f (unitOf f s) data 0 (unitPlaces s (unitOf f s)) (bad.foldl (addrFault f) (perfF f 0x112 1 s))

/-- A furrow goes on from unit u; furrow A counts the passes. -/
def unitPassed (f u : Nat) (sh : Shadow) : Shadow :=
  if f = 0 then { sh with unitA := if u = 65791 then 0 else u + 1, nextA := sh.nextA + 10000, passes := wrap32 (sh.passes + b2n (u == 65791)) }
  else { sh with unitB := if u = 65791 then 0 else u + 1, nextB := sh.nextB + 10000 }

section compare
variable {s t : State} {fu : Furrow} (ok : Bool) (data : List Byte) (bad : List Nat) (hclk : s.clk.coreStopped = false) (hmode : s.shadow.mode ≠ 0)
  (hrun : s.shadow.suspended = false) (hdecides : decides s (furNo fu) = true) (ht : unitDue (furNo fu) s = t)
include hclk hmode hrun hdecides ht

theorem exec_shadowCompareUnit_of_unread (hlost : ok = false ∨ t.pcie.up = false) :
    exec (.shadowCompareUnit ⟨fu, bad⟩ ok data) s = .next (shadowSuspend t) := by
  subst ht
  have hstop : (!ok || !(unitDue (furNo fu) s).pcie.up) = true := by simpa using hlost
  change execShadowCompareUnit ⟨fu, bad⟩ ok data s = _
  simp only [execShadowCompareUnit, hclk, hmode, hrun, hdecides, decide_false, Bool.not_true, Bool.or_self, Bool.false_eq_true, if_false]
  exact if_pos hstop

theorem exec_shadowCompareUnit_of_read (hok : ok = true) (hup : t.pcie.up = true) :
    exec (.shadowCompareUnit ⟨fu, bad⟩ ok data) s = .next (ovfWatch (furNo fu) { unitCompared (furNo fu) bad data t with
      shadow := unitPassed (furNo fu) (unitOf (furNo fu) t) (unitCompared (furNo fu) bad data t).shadow }) := by
  subst ht
  have hgoes : ¬ (!ok || !(unitDue (furNo fu) s).pcie.up) = true := by simp [hok, hup]
  change execShadowCompareUnit ⟨fu, bad⟩ ok data s = _
  simp only [execShadowCompareUnit, hclk, hmode, hrun, hdecides, decide_false, Bool.not_true, Bool.or_self, Bool.false_eq_true, if_false]
  refine (if_neg hgoes).trans ?_
  simp only [beq_iff_eq]
  rfl

end compare

/-! ## MGROUP_SET (R215) -/

/-- The mask that a group has after MGROUP_SET, where it had another. -/
def groupMask (b : List Byte) (old : Nat) : Nat :=
  if byteAt b 2 = 0 then le b 8 8 else if byteAt b 2 = 1 then old ||| le b 8 8 else andNot old (le b 8 8)

/-- The mask of group g is set by b, and the old one staged until te. -/
def groupSet (b : List Byte) (g te : Nat) (s : State) : State :=
  stageAll (fun t => [.mgroup g (tget 0 t.mgroup g)]) te (fun t => { t with mgroup := tset 0 t.mgroup g (groupMask b (tget 0 t.mgroup g)) }) s

theorem bodyMgroupSet_eq {p : Packet} {s t : State} (hop : byteAt p.params 2 < 3) (hres : reservedAt p.params 3 5 = true)
    (hmask : maskOk s (le p.params 8 8) = true) (ht : stageWait 130 [.mgroup (le p.params 0 2) 0] (purgeStaging s) = t) :
    bodyMgroupSet p s =
      .ok (toLE 8 (t64OfNs (stageTe t)) ++ toLE 8 (groupMask p.params (tget 0 (fur t t.hl.lead).tab.mgroup (le p.params 0 2))))
        (touchPorts ((List.range 64).filter (bit (le p.params 8 8))) (groupSet p.params (le p.params 0 2) (stageTe t) t)) := by
  subst ht
  simp only [bodyMgroupSet, checked, firstBad, hop, hres, hmask, decide_true, if_true]
  rfl

/-- Settles O29: clause by clause, what each command does in the case that the clause names. -/
theorem shadowPassesAndGroupsAreSet : Obligations.ShadowPassesAndGroupsAreSet := by
  unfold Obligations.ShadowPassesAndGroupsAreSet
  refine ⟨?set, ?compare, ?group⟩
  case set =>
    intro p s r m hacc hbase hmode hres
    refine ⟨fun hon hdown => ?_, fun hlink => ?_⟩
    · exact congrArg Host.Outcome.next (serve_conflict hacc (bodyShadowSet_of_linkDown (p := asked specShadowSet p) hbase hmode hres hon hdown))
    · exact serveCmd_ok (body := bodyShadowSet) hacc (bodyShadowSet_of_settable (p := asked specShadowSet p) hbase hmode hres hlink) (by decide) (by simp)
  case compare =>
    intro fu ok data bad s0 hclk f s u s1 nx hmode hrun hdecides
    exact ⟨exec_shadowCompareUnit_of_unread ok data bad hclk hmode hrun hdecides rfl,
      exec_shadowCompareUnit_of_read ok data bad hclk hmode hrun hdecides rfl⟩
  case group =>
    intro p s r b g m v te new hacc hop hres hmask
    exact serveCmd_ok (body := bodyMgroupSet) hacc (bodyMgroupSet_eq (p := asked specMgroupSet p) hop hres hmask rfl) (by decide) (by simp)

end Sys2Proof.Machine
end

section
/-! PROOF. STREAM_BIND, STREAM_UNBIND and STREAM_READ: what their bodies answer once check 10 has passed (spec/06 R188-R190, R199, R216, R217). -/

namespace Sys2Proof.Machine

/-! ## STREAM_BIND (R216) -/

/-- The binding that STREAM_BIND describes. -/
def namedBinding (b : List Byte) : Binding := {
  bound := true, egressKind := byteAt b 16, keyKind := byteAt b 4, egress := le b 18 2, domain := if byteAt b 4 = 1 then byteAt b 5 else 0
  ident := if byteAt b 4 = 0 then 0 else le b 6 2, da := if byteAt b 4 = 2 then be b 8 6 else 0 }

/-- The parameters of STREAM_BIND that check 10 lets pass. -/
structure BindLegal (b : List Byte) (s : State) : Prop where
  handle : 1 ≤ le b 0 4 ∧ le b 0 4 < 2 ^ 20
  keyKind : byteAt b 4 < 3
  domain : byteAt b 4 = 1 → byteAt b 5 < 16
  vid : byteAt b 4 = 2 → le b 6 2 < 0xFFF
  pad : reservedAt b 14 2 = true
  egressKind : byteAt b 16 < 3
  modify : byteAt b 17 < 2
  egress : byteAt b 16 = 1 → le b 18 2 < 64 ∧ portExists s (le b 18 2) = true
  ending : reservedAt b 20 4 = true
  direct : wide s = true → byteAt b 4 = 1 → le b 0 4 = le b 6 2 * 16 + byteAt b 5

/-- Two bindings have one key. -/
def sameKey (x y : Binding) : Bool := x.keyKind == y.keyKind && x.domain == y.domain && x.ident == y.ident && x.da == y.da

/-- The handle or the key of STREAM_BIND is in use, as the lead furrow has it. -/
def bindInUse (b : List Byte) (s : State) : Bool :=
  let t := (fur s s.hl.lead).tab
  (tget {} t.bind (le b 0 4)).bound || (byteAt b 4 != 0 && (keyNow s t (byteAt b 4) (bindingKey (namedBinding b))).isSome) ||
    (wide s && byteAt b 4 == 2 && tget false t.direct (le b 0 4))

/-- The key of STREAM_BIND needs a place, and there is none. -/
def bindNoPlace (b : List Byte) (s : State) : Bool :=
  byteAt b 4 != 0 && !(wide s && byteAt b 4 == 1) && (streamPlace s (fur s s.hl.lead).tab (bindingKey (namedBinding b))).isNone

theorem sameKey_iff {x y : Binding} :
    sameKey x y = true ↔ x.keyKind = y.keyKind ∧ x.domain = y.domain ∧ x.ident = y.ident ∧ x.da = y.da := by
  simp [sameKey, and_assoc]

theorem bindInUse_iff {b : List Byte} {s : State} :
    bindInUse b s = true ↔ (tget {} (fur s s.hl.lead).tab.bind (le b 0 4)).bound = true ∨
      (byteAt b 4 ≠ 0 ∧ (keyNow s (fur s s.hl.lead).tab (byteAt b 4) (bindingKey (namedBinding b))).isSome = true) ∨
      (wide s = true ∧ byteAt b 4 = 2 ∧ tget false (fur s s.hl.lead).tab.direct (le b 0 4) = true) := by
  simp [bindInUse, or_assoc, and_assoc]

theorem bindNoPlace_iff {b : List Byte} {s : State} :
    bindNoPlace b s = true ↔ byteAt b 4 ≠ 0 ∧ ¬(wide s = true ∧ byteAt b 4 = 1) ∧
      streamPlace s (fur s s.hl.lead).tab (bindingKey (namedBinding b)) = none := by
  simp [bindNoPlace, and_assoc, imp_iff_not_or]

/-- The objects that STREAM_BIND stages: the binding, and without MODIFY the key. -/
def bindObjects (b : List Byte) (old : Binding) : List Staged :=
  .bind (le b 0 4) old :: (if byteAt b 17 = 1 then [] else keyObject (namedBinding b) none)

/-- The binding and its key stand in each updated furrow, the old values are staged until te, and an egress port is touched. -/
def streamBound (b : List Byte) (te : Nat) (s : State) : State :=
  touchPorts (if byteAt b 16 = 1 then [le b 18 2] else []) (ovfWatchBoth (stageAll (fun t => bindObjects b (tget {} t.bind (le b 0 4))) te
    (fun t => { (if byteAt b 17 = 1 then t else setKey s (namedBinding b) (le b 0 4) true t) with
      bind := tset {} t.bind (le b 0 4) { namedBinding b with te := te } }) s))

theorem bit_zero_of_lt_two {n : Nat} (h : n < 2) : bit n 0 = decide (n = 1) := by
  interval_cases n <;> rfl

theorem bodyStreamBind_eq {p : Packet} {s t : State} (hlegal : BindLegal p.params s)
    (ht : stageWait 130 (bindObjects p.params {}) (purgeStaging s) = t) :
    let old := tget {} (fur s s.hl.lead).tab.bind (le p.params 0 4)
    let bound := CmdResult.ok (toLE 8 (t64OfNs (stageTe t))) (streamBound p.params (stageTe t) t)
    bodyStreamBind p s =
      if byteAt p.params 17 = 1 then (if (!(old.bound && sameKey old (namedBinding p.params))) = true then .refuse stNotFound 0 else bound)
      else if bindInUse p.params s = true then .refuse stExists 0
      else if bindNoPlace p.params s = true then .refuse stExhausted 0
      else bound := by
  intro old bound
  obtain ⟨⟨hleast, hmost⟩, hkind, hdomain, hvid, hpad, hegress, hmodify, hport, hend, hdirect⟩ := hlegal
  have hdomain' : (byteAt p.params 4 != 1 || decide (byteAt p.params 5 < 16)) = true := by simpa [imp_iff_not_or] using hdomain
  have hvid' : (byteAt p.params 4 != 2 || decide (le p.params 6 2 < 0xFFF)) = true := by simpa [imp_iff_not_or] using hvid
  have hport' : (byteAt p.params 16 != 1 || (decide (le p.params 18 2 < 64) && portExists s (le p.params 18 2))) = true := by
    simpa [imp_iff_not_or] using hport
  have hdirect' : (!(wide s && byteAt p.params 4 == 1) || le p.params 0 4 == le p.params 6 2 * 16 + byteAt p.params 5) = true := by
    simpa [imp_iff_not_or, or_assoc] using hdirect
  simp only [bodyStreamBind, checked, firstBad, hleast, hmost, hkind, hdomain', hvid', hpad, hegress, hmodify, hport', hend, hdirect',
    bit_zero_of_lt_two hmodify, decide_true, Bool.and_self, if_true]
  subst ht
  by_cases hmod : byteAt p.params 17 = 1
  · simp only [bound, streamBound, bindObjects, hmod, decide_true, Bool.not_true, Bool.true_and, Bool.false_and, if_true, Bool.false_eq_true, if_false]
    rfl
  · simp only [bound, streamBound, bindObjects, hmod, decide_false, Bool.not_false, Bool.true_and, Bool.false_and, Bool.false_eq_true, if_false]
    rfl

/-! ## STREAM_UNBIND (R217) -/

/-- The binding of a handle and its key leave each updated furrow, and the old values are staged until te. -/
def streamUnbound (h : Nat) (old : Binding) (te : Nat) (s : State) : State :=
  ovfWatchBoth (stageAll (fun t => .bind h (tget {} t.bind h) :: keyObject old (some h)) te
    (fun t => { setKey s old h false t with bind := tset {} t.bind h { te := te } }) s)

section unbind
variable {p : Packet} {s : State} {old : Binding} (hleast : 1 ≤ le p.params 0 4) (hmost : le p.params 0 4 < 2 ^ 20)
  (hold : tget {} (fur s s.hl.lead).tab.bind (le p.params 0 4) = old)
include hleast hmost hold

theorem bodyStreamUnbind_of_unbound (hunbound : old.bound = false) : bodyStreamUnbind p s = .refuse stNotFound 0 := by
  subst hold
  simp only [bodyStreamUnbind, checked, firstBad, hleast, hmost, hunbound, decide_true, Bool.and_self, Bool.not_false, if_true]

theorem bodyStreamUnbind_of_bound (hbound : old.bound = true) {t : State}
    (ht : stageWait 130 (.bind (le p.params 0 4) {} :: keyObject old none) (purgeStaging s) = t) :
    bodyStreamUnbind p s = .ok (toLE 8 (t64OfNs (stageTe t))) (streamUnbound (le p.params 0 4) old (stageTe t) t) := by
  subst hold ht
  simp only [bodyStreamUnbind, checked, firstBad, hleast, hmost, hbound, decide_true, Bool.and_self, Bool.not_true, if_true, Bool.false_eq_true, if_false]
  rfl

end unbind

/-! ## STREAM_READ (R217) -/

/-- The place of a binding's key, where it has one: no binding without a key, and no APP key in WIDE (R190). -/
def boundPlace (s : State) (t : Tables) (x : Binding) : Option Nat :=
  if x.keyKind = 0 ∨ (wide s = true ∧ x.keyKind = 1) then none else (findStream s t (bindingKey x)).map (·.1)

/-- The way and the set that STREAM_READ shows of a place: 0x80 and the index for one of the overflow store. -/
def shownWay (pl : Option Nat) : Nat := pl.elim 0xFF fun q => if q < ovfBase then q % 4 else 0x80
def shownSet (pl : Option Nat) : Nat := pl.elim 0 fun q => if q < ovfBase then q / 4 else q - ovfBase

/-- The 32 bytes of R217 for a binding with its key at a place. -/
def bindingReply (x : Binding) (pl : Option Nat) : List Byte :=
  toLE 4 (bindingWord x) ++ toLE 1 x.keyKind ++ toLE 1 x.domain ++ toLE 2 x.ident ++ toBE 6 x.da ++ toLE 1 (shownWay pl) ++ zeros 1 ++
    toLE 4 (shownSet pl) ++ toLE 8 (if x.te = 0 then 0 else t64OfNs x.te) ++ zeros 4

theorem length_bindingReply (x : Binding) (pl : Option Nat) : (bindingReply x pl).length = 32 := by
  simp only [bindingReply, toBE, List.length_append, List.length_reverse, length_toLE, length_zeros]

theorem bodyStreamRead_eq {p : Packet} {s : State} (hleast : 1 ≤ le p.params 0 4) (hmost : le p.params 0 4 < 2 ^ 20) (hf : byteAt p.params 4 < 2)
    (hres : reservedAt p.params 5 3 = true) (hpower : powered s (byteAt p.params 4) = true) (hclean : p.upset = false) {t : Tables} {x : Binding}
    (ht : (fur s (byteAt p.params 4)).tab = t) (hx : tget {} t.bind (le p.params 0 4) = x) :
    bodyStreamRead p s = .ok (bindingReply x (boundPlace s t x)) s := by
  subst ht hx
  simp only [bodyStreamRead, checked, firstBad, onFurrow, hleast, hmost, hf, hres, hpower, hclean, decide_true, Bool.and_self, if_true, Bool.or_false,
    Bool.false_eq_true, if_false, Bool.or_eq_true, Bool.and_eq_true, decide_eq_true_eq, beq_iff_eq]
  unfold bindingReply shownWay shownSet
  rw [← boundPlace]
  cases boundPlace _ _ _ <;> rfl

theorem boundPlace_of_none {s : State} {t : Tables} {x : Binding}
    (h : x.keyKind = 0 ∨ (wide s = true ∧ x.keyKind = 1) ∨ findStream s t (bindingKey x) = none) : boundPlace s t x = none := by
  unfold boundPlace
  split
  · rfl
  · case isFalse hkey =>
      rw [or_assoc.symm.mp h |>.resolve_left hkey, Option.map_none]

theorem boundPlace_of_some {s : State} {t : Tables} {x : Binding} {q g : Nat} (hkey : x.keyKind ≠ 0) (hhashed : ¬(wide s = true ∧ x.keyKind = 1))
    (hfind : findStream s t (bindingKey x) = some (q, g)) : boundPlace s t x = some q := by
  rw [boundPlace, if_neg (not_or.mpr ⟨hkey, hhashed⟩), hfind, Option.map_some]

/-- Settles O30: check 10 passes in each clause, and so the body answers as the clause has it. -/
theorem streamsAreBoundUnboundAndRead : Obligations.StreamsAreBoundUnboundAndRead := by
  unfold Obligations.StreamsAreBoundUnboundAndRead
  refine ⟨?bind, ?unbind, ?read⟩
  case bind =>
    intro p s r b h kk modify x t0 old same inUse noPlace objs v te hacc hleast hmost hkind hdomain hvid hpad hegress hmodify hport hend hdirect
    have hbody := bodyStreamBind_eq (p := asked specStreamBind p) (s := r)
      ⟨⟨hleast, hmost⟩, hkind, hdomain, hvid, hpad, hegress, hmodify, hport, hend, hdirect⟩ rfl
    have hkept : (!(old.bound && sameKey old x)) = true ↔ ¬(old.bound = true ∧ same) := by
      rw [Bool.not_eq_true', ← Bool.not_eq_true, Bool.and_eq_true, sameKey_iff]
    refine ⟨fun hmod hother => ?_, fun hnew hused => ?_, fun hnew hunused hfull => ?_, fun hbind => ?_⟩
    · exact serveCmd_refuse (body := bodyStreamBind) hacc (hbody.trans ((if_pos hmod).trans (if_pos (hkept.mpr hother))))
    · exact serveCmd_refuse (body := bodyStreamBind) hacc (hbody.trans ((if_neg hnew).trans (if_pos (bindInUse_iff.mpr hused))))
    · exact serveCmd_refuse (body := bodyStreamBind) hacc
        (hbody.trans ((if_neg hnew).trans ((if_neg (mt bindInUse_iff.mp hunused)).trans (if_pos (bindNoPlace_iff.mpr hfull)))))
    · refine serveCmd_ok (body := bodyStreamBind) hacc (hbody.trans ?_) (by decide) (by simp)
      rcases hbind with ⟨hmod, hbound⟩ | ⟨hnew, hunused, hroom⟩
      · exact (if_pos hmod).trans (if_neg fun h => hkept.mp h hbound)
      · exact (if_neg hnew).trans ((if_neg (mt bindInUse_iff.mp hunused)).trans (if_neg (mt bindNoPlace_iff.mp hroom)))
  case unbind =>
    intro p s r h old v te hacc hleast hmost
    refine ⟨fun hunbound => ?_, fun hbound => ?_⟩
    · exact serveCmd_refuse (body := bodyStreamUnbind) hacc
        (bodyStreamUnbind_of_unbound (p := asked specStreamUnbind p) hleast hmost rfl hunbound)
    · exact serveCmd_ok (body := bodyStreamUnbind) hacc
        (bodyStreamUnbind_of_bound (p := asked specStreamUnbind p) hleast hmost rfl hbound rfl) (by decide) (by simp)
  case read =>
    intro p s r b h f t x hacc hleast hmost hf hres hpower
    have hbody := bodyStreamRead_eq (p := asked specStreamRead p) hleast hmost hf hres hpower (upset_of_accepts hacc) rfl rfl
    refine ⟨shownWay (boundPlace r t x), shownSet (boundPlace r t x), ?reply, fun hnone => ?unplaced, fun q g hkey hhashed hfind => ?placed⟩
    case reply => exact serveCmd_ok (body := bodyStreamRead) hacc hbody (by decide) ((length_bindingReply x _).trans_le (by decide))
    case unplaced =>
      rw [boundPlace_of_none hnone]
      exact ⟨rfl, rfl⟩
    case placed =>
      rw [boundPlace_of_some hkey hhashed hfind]
      exact ⟨fun hset => ⟨if_pos hset, if_pos hset⟩, fun hovf => ⟨if_neg hovf.not_gt, if_neg hovf.not_gt⟩⟩

end Sys2Proof.Machine
end

section
/-! PROOF. What a Tine that stands at an instruction leaves: one rule per outcome of the instruction, and the registers that it writes (spec/07 R227,
R230, R231). -/

namespace Sys2Proof.Machine

/-! ## The registers of an activation -/

@[simp] theorem setG_zero (v : Word) (a : Act) : setG 0 v a = a := if_pos rfl

@[simp] theorem setG_pc (r : Nat) (v : Word) (a : Act) : (setG r v a).pc = a.pc := by
  unfold setG
  split <;> rfl

@[simp] theorem writeBytes_pc (a : Act) (i : Nat) (l : List Byte) : (writeBytes a i l).pc = a.pc := by
  induction l generalizing a i with
  | nil => rfl
  | cons b r ih => exact ih _ _

/-! ## The kinds of words -/

theorem opIs_of_eq {op w : Nat} (h : wOp w = op) : opIs op w = true := beq_iff_eq.mpr h

theorem opIn_of_le {lo hi w : Nat} (hlo : lo ≤ wOp w) (hhi : wOp w ≤ hi) : opIn lo hi w = true := by
  simp [opIn, hlo, hhi]

theorem opIn_of_eq {lo hi op w : Nat} (h : wOp w = op) (hop : lo ≤ op ∧ op ≤ hi) : opIn lo hi w = true :=
  opIn_of_le (h ▸ hop.1) (h ▸ hop.2)

/-! ## The step of a Tine -/

/-- The cycles that the budget of an activation leaves. -/
def cyclesLeft (s : State) (n : Nat) (a : Act) : Nat := (progOf s n a).budget - cyclesBefore s a

/-- What an outcome of the instruction at hand leaves of the Tine. -/
def tineLeaves (n t w : Nat) (a : Act) (s : State) : TineOut → State
  | .stall cause => setAct n t { a with stall := cause } s
  | .fault code => tineFault n t a code s
  | .wait a1 s1 => setAct n t a1 s1
  | .retire v =>
    let c := cyclesBefore s a + 1
    if (progOf s n a).budget < c then budgetStop n t a (reachEdge (cycleEdge a (progOf s n a).budget) s)
    else retire n t a v (sample n t a w (c - a.cycles) 1 a.stall (cycleEdge a c) (reachEdge (cycleEdge a c) s))
  | .done cost a1 s1 =>
    if (progOf s n a).budget ≤ cyclesBefore s a + cost then budgetStop n t a (reachEdge (cycleEdge a (progOf s n a).budget) s)
    else tineWent n t w cost a a1 s s1

section step
variable {n t w : Nat} {a : Act} {s : State} {kind : Nat → Bool} {run : State → Nat → Nat → Act → Nat → TineOut}

/-- A Tine that stands at a word of the kind runs it: no wait of it has used up the budget. -/
theorem tineStep_of_tineAt (h : tineAt s n t a w) (hkind : kind w = true) : tineStep kind run n t s = tineLeaves n t w a s (run s n t a w) := by
  obtain ⟨hclk, hact, hphase, hlen, hword, hstall⟩ := h
  have hruns : ¬ (a.phase != 0) = true := by simp [hphase]
  have hgoes : ¬ (a.stall != 0 && decide ((progOf s n a).budget ≤ cyclesBefore s a)) = true := by
    simp only [Bool.and_eq_true, bne_iff_ne, decide_eq_true_eq]
    omega
  simp only [tineStep, hclk, hact, hword, hkind, if_neg hruns, if_neg (Nat.not_lt.mpr hlen), if_neg hgoes, Bool.false_eq_true, Bool.not_true, if_false]
  cases run s n t a w <;> rfl

variable {c : Instr} (hexec : exec c s = .next (tineStep kind run n t s)) (h : tineAt s n t a w) (hkind : kind w = true)
include hexec h hkind

theorem exec_tine_of_stall {cause : Nat} (hrun : run s n t a w = .stall cause) : exec c s = .next (setAct n t { a with stall := cause } s) := by
  rw [hexec, tineStep_of_tineAt h hkind, hrun, tineLeaves]

theorem exec_tine_of_fault {code : Nat} (hrun : run s n t a w = .fault code) : exec c s = .next (tineFault n t a code s) := by
  rw [hexec, tineStep_of_tineAt h hkind, hrun, tineLeaves]

variable {cost : Nat} {a1 : Act} {s1 : State} (hroom : cost < cyclesLeft s n a)
include hroom

/-- An instruction within the budget goes where it says. -/
theorem exec_tine_of_done (hrun : run s n t a w = .done cost a1 s1) : exec c s = .next (tineWent n t w cost a a1 s s1) := by
  rw [hexec, tineStep_of_tineAt h hkind, hrun, tineLeaves, if_neg (Nat.not_le.mpr (Nat.add_lt_of_lt_sub' hroom))]

/-- An instruction within the budget that does not jump is followed by the next one. -/
theorem exec_tine_of_next (hrun : run s n t a w = next cost a1 s1) (hpc : a1.pc = a.pc) :
    exec c s = .next (tineWent n t w cost a { a1 with pc := a.pc + 4 } s s1) :=
  exec_tine_of_done hexec h hkind hroom (hpc ▸ hrun)

/-- One that writes only a register. -/
theorem exec_tine_of_put {r : Nat} {v : Word} (hrun : run s n t a w = next cost (setG r v a) s1) :
    exec c s = .next (tineWent n t w cost a { setG r v a with pc := a.pc + 4 } s s1) :=
  exec_tine_of_next hexec h hkind hroom hrun (setG_pc r v a)

end step

end Sys2Proof.Machine
end

section
/-! PROOF. The arithmetic, immediate, shift, hash and jump instructions of a Tine (spec/07 R229). -/

namespace Sys2Proof.Machine

/-- The instructions of OP 0x00 as R229 lists them: FN, result and cycles. -/
def aluResults (x y : Word) : List (Nat × Word × Nat) :=
  [(0, x + y, 1), (1, x - y, 1), (2, x &&& y, 1), (3, x ||| y, 1), (4, x ^^^ y, 1), (5, x <<< (y.toNat % 32), 1), (6, x >>> (y.toNat % 32), 1),
    (7, x.sshiftRight (y.toNat % 32), 1), (8, if x.toInt < y.toInt then 1 else 0, 1), (9, if x.toNat < y.toNat then 1 else 0, 1),
    (10, BitVec.ofNat 32 (x.toNat * y.toNat), 2), (11, BitVec.ofNat 32 (x.toNat * y.toNat / 2 ^ 32), 2)]

theorem aluResults_eq (x y : Word) : aluResults x y = (List.range 12).map fun fn => (fn, aluOp fn x y, if 10 ≤ fn then 2 else 1) := rfl

theorem mem_aluResults {x y v : Word} {fn cost : Nat} :
    (fn, v, cost) ∈ aluResults x y ↔ fn < 12 ∧ aluOp fn x y = v ∧ (if 10 ≤ fn then 2 else 1) = cost := by
  simp [aluResults_eq]

section run
variable {s : State} {n t w : Nat} {a : Act}

theorem runLogicImm_of_and (h : wOp w = 2) : runLogicImm s n t a w = next 1 (setG (wRd w) (getG a (wR1 w) &&& BitVec.ofNat 32 (wImm w)) a) s := by
  simp [runLogicImm, w32, h]

theorem runLogicImm_of_or (h : wOp w = 3) : runLogicImm s n t a w = next 1 (setG (wRd w) (getG a (wR1 w) ||| BitVec.ofNat 32 (wImm w)) a) s := by
  simp [runLogicImm, w32, h]

theorem runLogicImm_of_xor (h : wOp w = 4) : runLogicImm s n t a w = next 1 (setG (wRd w) (getG a (wR1 w) ^^^ BitVec.ofNat 32 (wImm w)) a) s := by
  simp [runLogicImm, w32, h]

theorem runSlt_of_signed (h : wOp w = 5) : runSlt s n t a w = next 1 (setG (wRd w) (if (getG a (wR1 w)).toInt < wSImm w then 1 else 0) a) s := by
  simp only [runSlt, h, if_true, decide_eq_true_eq]
  rfl

theorem runSlt_of_unsigned (h : wOp w = 6) : runSlt s n t a w = next 1 (setG (wRd w) (if (getG a (wR1 w)).toNat < wImm w then 1 else 0) a) s := by
  simp [runSlt, h]

theorem runShift_of_left (h : bits w 6 5 = 0) : runShift s n t a w = next 1 (setG (wRd w) (getG a (wR1 w) <<< bits w 4 0) a) s := by
  simp only [runShift, h]

theorem runShift_of_right (h : bits w 6 5 = 1) : runShift s n t a w = next 1 (setG (wRd w) (getG a (wR1 w) >>> bits w 4 0) a) s := by
  simp only [runShift, h]

theorem runShift_of_arith (h : bits w 6 5 = 2) : runShift s n t a w = next 1 (setG (wRd w) ((getG a (wR1 w)).sshiftRight (bits w 4 0)) a) s := by
  simp only [runShift, h]

theorem runShift_of_free (h : bits w 6 5 = 3) :
    runShift s n t a w = next 1 (setG (wRd w) (BitVec.ofNat 32 (takeFree 32 s).1) a) (takeFree 32 s).2 := by
  simp only [runShift, h, w32]

theorem runBranch_of_taken (h : branchTaken (wOp w) (getG a (wRd w)) (getG a (wR1 w)) = true) :
    runBranch s n t a w = .done 2 { a with pc := target a (wSImm w) } s := if_pos h

theorem runBranch_of_notTaken (h : branchTaken (wOp w) (getG a (wRd w)) (getG a (wR1 w)) = false) : runBranch s n t a w = next 1 a s :=
  if_neg (ne_true_of_eq_false h)

end run

section exec
variable {n t w : Nat} {a : Act} {s : State} (h : tineAt s n t a w)
include h

theorem exec_aluR {fn cost : Nat} {v : Word} (hmem : (fn, v, cost) ∈ aluResults (getG a (wR1 w)) (getG a (wR2 w))) (hop : wOp w = 0) (hfn : wFn w = fn)
    (hroom : cost < cyclesLeft s n a) : exec (.aluR n t) s = .next (tineNext n t w cost a (setG (wRd w) v a) s) := by
  obtain ⟨hlt, rfl, rfl⟩ := mem_aluResults.mp hmem
  subst hfn
  exact exec_tine_of_put rfl h (by simp [hop, hlt]) hroom rfl

end exec

/-- Settles O31: each instruction's outcome, and the rule of the step for it. -/
theorem tineArithmeticAndControlFlow : Obligations.TineArithmeticAndControlFlow := by
  unfold Obligations.TineArithmeticAndControlFlow
  intro n t w a s h x y room put
  refine ⟨?registers, ?oneCycle, ?twoCycles, fun v => setG_zero v a⟩
  case registers =>
    intro fn cost v hmem hop hfn hroom
    exact exec_aluR h hmem hop hfn hroom
  case oneCycle =>
    intro hroom
    refine ⟨?addi, ?andi, ?ori, ?xori, ?slti, ?sltiu, ?slli, ?srli, ?srai, ?free, ?lui, ?hash, ?branch⟩
    case addi => exact fun hop => exec_tine_of_put rfl h (opIs_of_eq hop) hroom rfl
    case andi => exact fun hop => exec_tine_of_put rfl h (opIn_of_eq hop (by decide)) hroom (runLogicImm_of_and hop)
    case ori => exact fun hop => exec_tine_of_put rfl h (opIn_of_eq hop (by decide)) hroom (runLogicImm_of_or hop)
    case xori => exact fun hop => exec_tine_of_put rfl h (opIn_of_eq hop (by decide)) hroom (runLogicImm_of_xor hop)
    case slti => exact fun hop => exec_tine_of_put rfl h (opIn_of_eq hop (by decide)) hroom (runSlt_of_signed hop)
    case sltiu => exact fun hop => exec_tine_of_put rfl h (opIn_of_eq hop (by decide)) hroom (runSlt_of_unsigned hop)
    case slli => exact fun hop hkind => exec_tine_of_put rfl h (opIs_of_eq hop) hroom (runShift_of_left hkind)
    case srli => exact fun hop hkind => exec_tine_of_put rfl h (opIs_of_eq hop) hroom (runShift_of_right hkind)
    case srai => exact fun hop hkind => exec_tine_of_put rfl h (opIs_of_eq hop) hroom (runShift_of_arith hkind)
    case free => exact fun hop hkind => exec_tine_of_put rfl h (opIs_of_eq hop) hroom (runShift_of_free hkind)
    case lui => exact fun hop => exec_tine_of_put rfl h (opIs_of_eq hop) hroom rfl
    case hash => exact fun hop => exec_tine_of_put rfl h (opIs_of_eq hop) hroom rfl
    case branch => exact fun hlo hhi hnot => exec_tine_of_next rfl h (opIn_of_le hlo hhi) hroom (runBranch_of_notTaken hnot) rfl
  case twoCycles =>
    intro hroom
    refine ⟨?branch, ?jal, ?jalr⟩
    case branch => exact fun hlo hhi htaken => exec_tine_of_done rfl h (opIn_of_le hlo hhi) hroom (runBranch_of_taken htaken)
    case jal => exact fun hop => exec_tine_of_done rfl h (opIs_of_eq hop) hroom rfl
    case jalr => exact fun hop => exec_tine_of_done rfl h (opIs_of_eq hop) hroom rfl

end Sys2Proof.Machine
end

section
/-! PROOF. The instructions of a Tine that read and write its data memory, its constants, its parameters and the window of its frame (spec/07 R218,
R228, R229, R241). -/

namespace Sys2Proof.Machine

/-- The bytes that each load reads. -/
def loadSizes : List (Nat × Nat) := [(0x18, 4), (0x19, 2), (0x1A, 2), (0x1B, 1), (0x1C, 1)]

/-- The bytes that each store writes. -/
def storeSizes : List (Nat × Nat) := [(0x1D, 4), (0x1E, 2), (0x1F, 1)]

theorem loadSizes_eq {op size : Nat} (h : (op, size) ∈ loadSizes) :
    (0x18 ≤ op ∧ op ≤ 0x1C) ∧ (if op = 0x18 then 4 else if op ≤ 0x1A then 2 else 1) = size := by
  simp only [loadSizes, List.mem_cons, Prod.mk.injEq, List.not_mem_nil, or_false] at h
  rcases h with ⟨rfl, rfl⟩ | ⟨rfl, rfl⟩ | ⟨rfl, rfl⟩ | ⟨rfl, rfl⟩ | ⟨rfl, rfl⟩ <;> decide

theorem storeSizes_eq {op size : Nat} (h : (op, size) ∈ storeSizes) :
    (0x1D ≤ op ∧ op ≤ 0x1F) ∧ (if op = 0x1D then 4 else if op = 0x1E then 2 else 1) = size := by
  simp only [storeSizes, List.mem_cons, Prod.mk.injEq, List.not_mem_nil, or_false] at h
  rcases h with ⟨rfl, rfl⟩ | ⟨rfl, rfl⟩ | ⟨rfl, rfl⟩ <;> decide

/-- What a load makes of the bytes read: the signed kinds extend their sign. -/
def extended (op v : Nat) : Nat := if op = 0x19 then unsigned 32 (signed 16 v) else if op = 0x1B then unsigned 32 (signed 8 v) else v

section run
variable {s : State} {n t w : Nat} {a : Act}

/-! ## Data memory (R218) -/

section load
variable {size : Nat} (hmem : (wOp w, size) ∈ loadSizes)
include hmem

theorem runLoad_of_bad (hbad : dataBad (addImm a w) size = true) : runLoad s n t a w = .fault 0x02 := by
  simp only [runLoad, (loadSizes_eq hmem).2, hbad, if_true]

theorem runLoad_of_good {v : Nat} {a1 : Act} {s1 : State} (hgood : dataBad (addImm a w) size = false) (hread : readBytes a (addImm a w) size s = (v, a1, s1)) :
    runLoad s n t a w = next 2 (setG (wRd w) (BitVec.ofNat 32 (extended (wOp w) v)) a1) s1 := by
  simp only [runLoad, (loadSizes_eq hmem).2, hgood, hread, Bool.false_eq_true, if_false, w32, extended, apply_ite (BitVec.ofNat 32)]

end load

section store
variable {size : Nat} (hmem : (wOp w, size) ∈ storeSizes)
include hmem

theorem runStore_of_bad (hbad : dataBad (addImm a w) size = true) : runStore s n t a w = .fault 0x02 := by
  simp only [runStore, (storeSizes_eq hmem).2, hbad, if_true]

theorem runStore_of_good (hgood : dataBad (addImm a w) size = false) :
    runStore s n t a w = next 1 (writeBytes a (addImm a w) (toLE size (getG a (wRd w)).toNat)) s := by
  simp only [runStore, (storeSizes_eq hmem).2, hgood, Bool.false_eq_true, if_false]

end store

/-! ## Constants (R248) -/

theorem runCld_of_beyond (hlen : (area (bed s n) a.area).consts.length < addImm a w + 4) : runCld s n t a w = .fault 0x05 := if_pos hlen

section constant
variable (hlen : addImm a w + 4 ≤ (area (bed s n) a.area).consts.length)
include hlen

theorem runCld_of_misaligned (hmis : addImm a w % 4 ≠ 0) :
    runCld s n t a w = next 3 (setG (wRd w) (BitVec.ofNat 32 (takeFree 32 s).1) a) (takeFree 32 s).2 := by
  simp only [runCld, if_neg (Nat.not_lt.mpr hlen), bne_iff_ne.mpr hmis, if_true, w32]

theorem runCld_of_aligned (haligned : addImm a w % 4 = 0) :
    runCld s n t a w = next 3 (setG (wRd w) (BitVec.ofNat 32 (le (area (bed s n) a.area).consts (addImm a w) 4)) a) s := by
  simp only [runCld, if_neg (Nat.not_lt.mpr hlen), haligned, bne_self_eq_false, Bool.false_eq_true, if_false, w32]

end constant

/-! ## The frame window (R228) -/

theorem runWsel_of_offset (hfld : bits w 15 10 ≠ 0x3F) (hoff : bits w 9 0 ≠ 0) : runWsel s n t a w = .fault 0x03 := by
  simp [runWsel, hfld, hoff]

theorem runWsel_of_legal (hlegal : bits w 15 10 = 0x3F ∨ bits w 9 0 = 0) :
    runWsel s n t a w = next 1 { a with win := tset (0, 0) a.win (wRd w % 8) (bits w 15 10, bits w 9 0) } s := by
  rcases hlegal with hraw | hzero
  · simp [runWsel, hraw]
  · simp [runWsel, hzero]

section window
variable {fld off : Nat} (hwin : tget (0, 0) a.win (wR1 w % 8) = (fld, off))
include hwin

section raw
variable (hraw : fld = 0x3F)
include hraw

theorem runWld_of_beyond (hout : (off : Int) + wSImm w < 0 ∨ 508 < (off : Int) + wSImm w) : runWld s n t a w = .fault 0x03 := by
  simp [runWld, hwin, hraw, hout]

variable {i : Int} (hi : (off : Int) + wSImm w = i) (hleast : 0 ≤ i) (hmost : i ≤ 508)
include hi hleast hmost

theorem runWld_raw_of_timer (huid : a.uid = none) : runWld s n t a w = next 2 (setG (wRd w) (BitVec.ofNat 32 0) a) s := by
  simp [runWld, hwin, hraw, hi, huid, hleast, hmost, w32]

theorem runWld_raw_of_frame {u : Nat} (huid : a.uid = some u) : runWld s n t a w =
    if arrived s (frame s u) (i.toNat + 4) then next 2 (setG (wRd w) (BitVec.ofNat 32 (be (effBytes (frame s u)) i.toNat 4)) a) s else .stall 1 := by
  simp [runWld, hwin, hraw, hi, huid, hleast, hmost, w32]

end raw

section field
variable (hfld : fld ≠ 0x3F)
include hfld

theorem runWld_field_of_timer (huid : a.uid = none) : runWld s n t a w = next 2 (setG (wRd w) (BitVec.ofNat 32 (
    if fld = 0x32 then (t64OfNs a.ns >>> (32 * wImm w)) % 2 ^ 32 else if fld = 0x35 then (a.md >>> (32 * wImm w)) % 2 ^ 32 else 0)) a) s := by
  simp only [runWld, hwin, if_neg hfld, huid, w32]

theorem runWld_field_of_final {u v : Nat} (huid : a.uid = some u) (hfinal : frameField s n a u fld = some v) :
    runWld s n t a w = next 2 (setG (wRd w) (BitVec.ofNat 32 ((v >>> (32 * wImm w)) % 2 ^ 32)) a) s := by
  simp only [runWld, hwin, if_neg hfld, huid, hfinal, w32]

theorem runWld_field_of_open {u : Nat} (huid : a.uid = some u) (hopen : frameField s n a u fld = none) : runWld s n t a w = .stall 1 := by
  simp only [runWld, hwin, if_neg hfld, huid, hopen]

end field
end window

/-- No byte is there once the bytes before it are: an empty slice of the window. -/
theorem winBytes_zero_of_some {off len : Nat} {b : List Byte} (h : winBytes s a off len = some b) : ∃ e, winBytes s a (off + len) 0 = some e := by
  unfold winBytes at h ⊢
  cases huid : a.uid with
  | none => exact ⟨_, rfl⟩
  | some u =>
    rw [huid] at h
    exact ⟨_, if_pos (Option.ite_none_right_eq_some.mp h).1⟩

/-! ## BERS -/

section bers
variable {i : Nat} (hi : (getG a (wR1 w)).toNat = i)
include hi

theorem runBers_of_beyond (hout : 510 < i) : runBers s n t a w = next 3 (setG (wRd w) (BitVec.ofNat 32 0) a) s := by
  subst hi
  exact if_pos hout

variable (hin : i ≤ 510)
include hin

theorem runBers_of_waiting (hwait : winBytes s a i 2 = none) : runBers s n t a w = .stall 1 := by
  simp only [runBers, hi, if_neg (Nat.not_lt.mpr hin), hwait]

section header
variable {h : List Byte} (hhead : winBytes s a i 2 = some h) {l : Nat} (hl : byteAt h 1 = l)
include hhead hl

/-- The length byte is the length itself. -/
theorem runBers_of_short (hshort : l < 128) : runBers s n t a w = next 3 (setG (wRd w) (BitVec.ofNat 32 (
    if 512 < i + 2 + l then 0 else byteAt h 0 * 2 ^ 24 + 2 * 65536 + l)) a) s := by
  obtain ⟨e, he⟩ := winBytes_zero_of_some hhead
  have hne : l ≠ 128 := by omega
  simp only [runBers, hi, if_neg (Nat.not_lt.mpr hin), hhead, hl, if_pos hshort, he, hne, Nat.not_lt_zero, decide_false, Bool.or_self, Bool.false_eq_true,
    OfNat.zero_ne_ofNat, if_false, w32]
  split <;> rfl

theorem runBers_of_illegal (hbad : l = 128 ∨ 132 < l) : runBers s n t a w = next 3 (setG (wRd w) (BitVec.ofNat 32 0) a) s := by
  have hlong : ¬ l < 128 := by omega
  have hstop : (decide (l = 128) || decide (4 < l - 128)) = true := by simp; omega
  simp only [runBers, hi, if_neg (Nat.not_lt.mpr hin), hhead, hl, if_neg hlong, hstop, if_true, w32]

section long
variable (hleast : 128 < l) (hmost : l ≤ 132)
include hleast hmost

theorem runBers_of_lengthWaiting (hwait : winBytes s a (i + 2) (l - 128) = none) : runBers s n t a w = .stall 1 := by
  have hlong : ¬ l < 128 := by omega
  have hgoes : (decide (l = 128) || decide (4 < l - 128)) = false := by simp; omega
  simp only [runBers, hi, if_neg (Nat.not_lt.mpr hin), hhead, hl, if_neg hlong, hgoes, hwait, Bool.false_eq_true, if_false]

variable {lb : List Byte} (hlen : winBytes s a (i + 2) (l - 128) = some lb)
include hlen

theorem runBers_of_long : runBers s n t a w =
    if 512 < i + 2 + (l - 128) + beNat lb then next 3 (setG (wRd w) (BitVec.ofNat 32 0) a) s
    else if l = 132 then next 3 (setG (wRd w) (BitVec.ofNat 32 (byteAt h 0 * 2 ^ 24 + (takeFree 4 s).1 * 65536 + beNat lb)) a) (takeFree 4 s).2
    else next 3 (setG (wRd w) (BitVec.ofNat 32 (byteAt h 0 * 2 ^ 24 + (2 + (l - 128)) * 65536 + beNat lb)) a) s := by
  have hlong : ¬ l < 128 := by omega
  have hgoes : (decide (l = 128) || decide (4 < l - 128)) = false := by simp; omega
  have hfour : l - 128 = 4 ↔ l = 132 := by omega
  simp only [runBers, hi, if_neg (Nat.not_lt.mpr hin), hhead, hl, if_neg hlong, hgoes, hlen, hfour, Bool.false_eq_true, if_false, w32]
  split_ifs <;> rfl

end long
end header
end bers

/-! ## CRC -/

section crc
variable {off len : Nat} (hoff : (getG a (wR1 w)).toNat = off) (hlen : (getG a (wR2 w)).toNat = len)
include hoff hlen

theorem runCrc_of_beyond (hout : 512 < off + len) : runCrc s n t a w = .fault 0x03 := by
  subst hoff hlen
  exact if_pos hout

variable (hin : off + len ≤ 512)
include hin

theorem runCrc_of_here {b : List Byte} (hhere : winBytes s a off len = some b) :
    runCrc s n t a w = next (2 + (len + 7) / 8) (setG (wRd w) (BitVec.ofNat 32 (crc32c b)) a) s := by
  simp only [runCrc, hoff, hlen, if_neg (Nat.not_lt.mpr hin), hhere, w32]

theorem runCrc_of_waiting (hwait : winBytes s a off len = none) : runCrc s n t a w = .stall 1 := by
  simp only [runCrc, hoff, hlen, if_neg (Nat.not_lt.mpr hin), hwait]

end crc
end run

/-- Settles O32: each instruction's outcome, and the rule of the step for it. -/
theorem tineReadsMemoryAndItsFrame : Obligations.TineReadsMemoryAndItsFrame := by
  unfold Obligations.TineReadsMemoryAndItsFrame
  intro n t w a s h room put ad waits
  refine ⟨?load, ?store, ?cld, ?pld, ?wsel, ?wld, ?bers, ?crc⟩
  case load =>
    intro op size hmem hop
    subst hop
    obtain ⟨⟨hlo, hhi⟩, -⟩ := loadSizes_eq hmem
    have hkind := opIn_of_le hlo hhi
    refine ⟨fun hbad => ?_, fun v a1 s1 hgood hroom hread => ?_⟩
    · exact exec_tine_of_fault rfl h hkind (runLoad_of_bad hmem hbad)
    · have hrun := runLoad_of_good (n := n) (t := t) hmem hgood hread
      rw [next, setG_pc] at hrun
      exact exec_tine_of_done rfl h hkind hroom hrun
  case store =>
    intro op size hmem hop
    subst hop
    obtain ⟨⟨hlo, hhi⟩, -⟩ := storeSizes_eq hmem
    have hkind := opIn_of_le hlo hhi
    refine ⟨fun hbad => ?_, fun hgood hroom => ?_⟩
    · exact exec_tine_of_fault rfl h hkind (runStore_of_bad hmem hbad)
    · exact exec_tine_of_next rfl h hkind hroom (runStore_of_good hmem hgood) (writeBytes_pc ..)
  case cld =>
    intro hop c
    have hkind := opIs_of_eq hop
    refine ⟨fun hlen => ?_, fun hlen hmis hroom => ?_, fun hlen haligned hroom => ?_⟩
    · exact exec_tine_of_fault rfl h hkind (runCld_of_beyond hlen)
    · exact exec_tine_of_put rfl h hkind hroom (runCld_of_misaligned hlen hmis)
    · exact exec_tine_of_put rfl h hkind hroom (runCld_of_aligned hlen haligned)
  case pld => exact fun hop hroom => exec_tine_of_put rfl h (opIs_of_eq hop) hroom rfl
  case wsel =>
    intro hop
    have hkind := opIs_of_eq hop
    refine ⟨fun hfld hoff => ?_, fun hlegal hroom => ?_⟩
    · exact exec_tine_of_fault rfl h hkind (runWsel_of_offset hfld hoff)
    · exact exec_tine_of_next rfl h hkind hroom (runWsel_of_legal hlegal) rfl
  case wld =>
    intro hop fld off hwin i
    have hkind := opIs_of_eq hop
    refine ⟨fun hraw hout => ?beyond,
      fun hraw hleast hmost => ⟨fun u huid => ⟨fun hhere hroom => ?here, fun hwait => ?waiting⟩, fun huid hroom => ?timer⟩,
      fun hfld huid hroom => ?timerField, fun u hfld huid => ⟨fun v hfinal hroom => ?final, fun hopen => ?notFinal⟩⟩
    case beyond => exact exec_tine_of_fault rfl h hkind (runWld_of_beyond hwin hraw hout)
    case here => exact exec_tine_of_put rfl h hkind hroom ((runWld_raw_of_frame hwin hraw rfl hleast hmost huid).trans (if_pos hhere))
    case waiting => exact exec_tine_of_stall rfl h hkind ((runWld_raw_of_frame hwin hraw rfl hleast hmost huid).trans (if_neg (ne_true_of_eq_false hwait)))
    case timer => exact exec_tine_of_put rfl h hkind hroom (runWld_raw_of_timer hwin hraw rfl hleast hmost huid)
    case timerField => exact exec_tine_of_put rfl h hkind hroom (runWld_field_of_timer hwin hfld huid)
    case final => exact exec_tine_of_put rfl h hkind hroom (runWld_field_of_final hwin hfld huid hfinal)
    case notFinal => exact exec_tine_of_stall rfl h hkind (runWld_field_of_open hwin hfld huid hopen)
  case bers =>
    intro hop i
    have hkind := opIs_of_eq hop
    refine ⟨fun hout hroom => ?beyond, fun b hin hhead => ⟨fun hshort hroom => ?short, fun hbad hroom => ?illegal, fun lb hleast hmost hlen hroom =>
      ⟨fun hout => ?out, fun hfits hl => ?fits, fun hfits hl => ?free⟩, fun hleast hmost hwait => ?lengthWaiting⟩, fun hin hwait => ?waiting⟩
    case beyond => exact exec_tine_of_put rfl h hkind hroom (runBers_of_beyond rfl hout)
    case short => exact exec_tine_of_put rfl h hkind hroom (runBers_of_short rfl hin hhead rfl hshort)
    case illegal => exact exec_tine_of_put rfl h hkind hroom (runBers_of_illegal rfl hin hhead rfl hbad)
    case out => exact exec_tine_of_put rfl h hkind hroom ((runBers_of_long rfl hin hhead rfl hleast hmost hlen).trans (if_pos hout))
    case fits =>
      exact exec_tine_of_put rfl h hkind hroom
        ((runBers_of_long rfl hin hhead rfl hleast hmost hlen).trans ((if_neg (Nat.not_lt.mpr hfits)).trans (if_neg (Nat.ne_of_lt hl))))
    case free =>
      exact exec_tine_of_put rfl h hkind hroom
        ((runBers_of_long rfl hin hhead rfl hleast hmost hlen).trans ((if_neg (Nat.not_lt.mpr hfits)).trans (if_pos hl)))
    case lengthWaiting => exact exec_tine_of_stall rfl h hkind (runBers_of_lengthWaiting rfl hin hhead rfl hleast hmost hwait)
    case waiting => exact exec_tine_of_stall rfl h hkind (runBers_of_waiting rfl hin hwait)
  case crc =>
    intro hop off len
    have hkind := opIs_of_eq hop
    refine ⟨fun hout => ?_, fun b hin hhere hroom => ?_, fun hin hwait => ?_⟩
    · exact exec_tine_of_fault rfl h hkind (runCrc_of_beyond rfl rfl hout)
    · exact exec_tine_of_put rfl h hkind hroom (runCrc_of_here rfl rfl hin hhere)
    · exact exec_tine_of_stall rfl h hkind (runCrc_of_waiting rfl rfl hin hwait)

end Sys2Proof.Machine
end

section
/-! PROOF. The Beds' rows: starts, record fetches, verdicts, lockups, timers and images, each in the case at hand (spec/07 R218, R223-R225, R232-R236,
R249, R251, R261). -/

namespace Sys2Proof.Machine

/-! ## ACTIVATION_START (R223, R236) -/

/-- An entry leaves the dispatch queue of its Bed. -/
def dequeued (n : Nat) (q : QEnt) (s : State) : State := modBed n (fun b => { b with queue := b.queue.filter (fun y => y.seq != q.seq) }) s

/-- The metadata of a frame, as furrow f has decided it. -/
def decidedMd (f u : Nat) (s : State) : Nat := ((decOf (frame s u) f).map fun d => d.md).getD 0

/-- The highest Tine that an activation of the queue may take: the last 8 are kept for inline frames where a record is pinned. -/
def lastTine (b : Bed) : Nat := if pinnedCount b = 0 then 63 else 55

theorem windowFree_of_lt {b : Bed} (h : (b.release.filter (·.window)).length < 128) : windowFree b = true := decide_eq_true h

theorem exec_activationStart {n : Nat} {s t : State} (hclk : s.clk.coreStopped = false) (hruns : bedRuns s n = true) (ht : activationStart n s = t) :
    exec (.activationStart n) s = .next t := by
  subst ht
  change execActivationStart n s = _
  simp only [execActivationStart, hclk, hruns, Bool.false_eq_true, if_true, if_false]

section start
variable {n : Nat} {q : QEnt} {s v : State} (hv : wantQueued n s = v) (hq : startable (bed v n) = some q)
include hv hq

theorem activationStart_of_cancelled (huid : q.uid = none) (hgone : (q.handle, q.ns) ∉ armed v n) : activationStart n s = dequeued n q v := by
  have hdrop : (q.uid.isNone && !(armed v n).contains (q.handle, q.ns)) = true := by simp [huid, hgone]
  simp only [activationStart, hv, hq, hdrop, if_true, dequeued]

variable {t : Nat} (hroom : windowFree (bed v n) = true) (ht : freeTine (bed v n) 0 (lastTine (bed v n)) = some t)
include hroom ht

theorem activationStart_of_frame {u : Nat} (huid : q.uid = some u) :
    activationStart n s = startAct n t q false (decidedMd (bedFur n) u v) (dequeued n q v) := by
  rw [lastTine] at ht
  simp only [activationStart, hv, hq, huid, hroom, ht, Option.isNone_some, Bool.false_and, Bool.not_true, Bool.false_eq_true, if_false, decidedMd]
  cases decOf (frame v u) (bedFur n) <;> rfl

theorem activationStart_of_timer (huid : q.uid = none) (harmed : (q.handle, q.ns) ∈ armed v n) :
    activationStart n s = startAct n t q false (Config.timerMetadata q.handle q.ns).toNat (disarm n q.handle q.ns (dequeued n q v)) := by
  rw [lastTine] at ht
  simp only [activationStart, hv, hq, huid, hroom, ht, List.contains_iff_mem.mpr harmed, Bool.not_true, Bool.and_false, Bool.false_eq_true, if_false, dequeued]

end start

/-! ## RECORD_FETCH_DONE (R225) -/

section fetch
variable {n h : Nat} {rest : List Nat} {s : State} (hclk : s.clk.coreStopped = false) (hfetch : (bed s n).fetching = h :: rest)
include hclk hfetch

theorem exec_recordFetchDone_of_training (htrain : deepTraining s = true) (bad : Bool) : exec (.recordFetchDone n bad) s = .next s := by
  change execRecordFetchDone n bad s = _
  simp only [execRecordFetchDone, hclk, hfetch, htrain, Bool.false_eq_true, if_true, if_false]

variable (htrain : deepTraining s = false)
include htrain

theorem exec_recordFetchDone_of_bad : exec (.recordFetchDone n true) s =
    .next (fireBed n 4 0x03 [] (bctr 11 n (install n h [] (hotInline (tget 0 (fur s (bedFur n)).hot h)) s))) := by
  change execRecordFetchDone n true s = _
  simp only [execRecordFetchDone, hclk, hfetch, htrain, Bool.true_or, Bool.false_eq_true, if_true, if_false]

theorem exec_recordFetchDone_of_good (hup : deepUp s (recAddr s (bedFur n) h) = true) : exec (.recordFetchDone n false) s =
    .next (install n h (deepRec s (bedFur n) h) (hotInline (tget 0 (fur s (bedFur n)).hot h)) s) := by
  change execRecordFetchDone n false s = _
  simp only [execRecordFetchDone, hclk, hfetch, htrain, hup, Bool.not_true, Bool.or_self, Bool.false_eq_true, if_false]

end fetch

/-! ## VERDICT_RELEASE (R232-R234) -/

/-- An entry leaves the release window of its Bed. -/
def unreleased (n : Nat) (e : RelEnt) (s : State) : State := modBed n (fun b => { b with release := b.release.filter (fun y => y.seq != e.seq) }) s

/-- A verdict is counted. -/
def verdictCounted (n v : Nat) (s : State) : State := bctr (13 + v) n (bctr 2 n s)

theorem giveVerdict_of_none (n v handle : Nat) (inl : Bool) (s : State) : giveVerdict n v handle inl none s = verdictCounted n v s := rfl

theorem giveVerdict_of_some (n v handle : Nat) (inl : Bool) (u : Nat) (s : State) : giveVerdict n v handle inl (some u) s =
    if tmem (verdictCounted n v s).frames u then reap u (verdictFrame n u v handle inl (verdictCounted n v s))
    else gleanVerdict (bedFur n) u v (verdictCounted n v s) := rfl

section release
variable {n v : Nat} {inl : Bool} {e : RelEnt} {s : State} (hclk : s.clk.coreStopped = false)
  (hentry : (bed s n).release.find? (fun e => e.inline_ == inl) = some e) (hverdict : e.verdict = some v)
include hclk hentry hverdict

theorem exec_verdictRelease_of_queued (hinl : inl = false) (hqueued : ∃ q ∈ (bed s n).queue, q.seq < e.seq) : exec (.verdictRelease n inl) s = .next s := by
  subst hinl
  have hholds : (!false && (bed s n).queue.any fun q => decide (q.seq < e.seq)) = true := by simpa using hqueued
  change execVerdictRelease n false s = _
  simp only [execVerdictRelease, verdictRelease, hclk, hentry, hverdict, hholds, Bool.false_eq_true, if_true, if_false]

theorem exec_verdictRelease_of_first (hfirst : inl = true ∨ ∀ q ∈ (bed s n).queue, e.seq ≤ q.seq) :
    exec (.verdictRelease n inl) s = .next (giveVerdict n v e.handle inl e.uid (unreleased n e s)) := by
  have hgoes : (!inl && (bed s n).queue.any fun q => decide (q.seq < e.seq)) = false := by
    rcases hfirst with hinl | hqueue
    · simp [hinl]
    · have hnone : (bed s n).queue.any (fun q => decide (q.seq < e.seq)) = false := by simpa using hqueue
      rw [hnone, Bool.and_false]
  change execVerdictRelease n inl s = _
  simp only [execVerdictRelease, verdictRelease, hclk, hentry, hverdict, hgoes, Bool.false_eq_true, if_false, unreleased]

end release

/-! ## BED_LOCKUP (R235) -/

/-- A Bed is locked, with its event and the alarm of its furrow. -/
def bedLocked (n : Nat) (s : State) : State :=
  raiseAlarm (bedFur n) 1 (fireFur (bedFur n) (bedBase n + 6) 0x02 [] (modBed n (fun b => { b with locked := true }) s))

section lockup
variable {n : Nat} {s : State} (hclk : s.clk.coreStopped = false)
include hclk

theorem exec_bedLockup_of_stuck : exec (.bedLockup n true) s = .next (bedLocked n s) := by
  change execBedLockup n true s = _
  simp only [execBedLockup, hclk, Bool.false_eq_true, if_true, if_false, bedLocked]

theorem exec_bedLockup_of_aged {e : RelEnt} {rest : List RelEnt} (hentries : (bed s n).release.filter (·.window) = e :: rest)
    (hbusy : (bed s n).tines ≠ [] ∨ (bed s n).queue ≠ []) :
    exec (.bedLockup n false) s = .next (bedLocked n (reachEdge (rest.foldl (fun m y => min m y.since) e.since + 100 * usE) s)) := by
  have hruns : ¬ ((bed s n).tines.isEmpty && (bed s n).queue.isEmpty) = true := by
    simpa only [Bool.and_eq_true, List.isEmpty_iff, not_and_or] using hbusy
  change execBedLockup n false s = _
  simp only [execBedLockup, hclk, hentries, if_neg hruns, Bool.false_eq_true, if_false, bedLocked]

end lockup

/-! ## Timers (R236) -/

theorem exec_deadlineFire {n h d : Nat} {s : State} (hclk : s.clk.coreStopped = false) (hnext : nextDeadline s n = some (h, d))
    (hruns : (bed s n).stopped = false) : exec (.deadlineFire n) s = .next (queueTimer n h d (reachRep (bedFur n) (d + 50000) s)) := by
  change execDeadlineFire n s = _
  simp only [execDeadlineFire, hclk, hnext, hruns, Bool.false_eq_true, if_false]

theorem exec_timerQueueRetry {n h d e : Nat} {rest : List (Nat × Nat × Nat)} {s v : State} (hclk : s.clk.coreStopped = false)
    (hretry : (bed s n).retry = (h, d, e) :: rest) (hv : reachEdge e s = v) :
    exec (.timerQueueRetry n) s = .next (if (h, d) ∈ armed v n then queueTimer n h d v else modBed n (fun b => { b with retry := rest }) v) := by
  subst hv
  change execTimerQueueRetry n s = _
  simp only [execTimerQueueRetry, hclk, hretry, List.contains_iff_mem, Bool.false_eq_true, if_false]

/-! ## Images (R249, R251, R261) -/

/-- A Bed completes the activation that the command of k named it in. -/
def imageDoneOf (k : ImgAct) (s : State) (m : Nat) : State :=
  match (bed s m).pendAct with
  | some q => if q.t = k.t && q.ticket = k.ticket then imageDone m s else s
  | none => s

/-- Every Bed that the command of k named completes it. -/
def imagesDone (k : ImgAct) (s : State) : State := (List.range 16).foldl (imageDoneOf k) s

theorem foldl_eq_imagesDone {k : ImgAct} {f : State → Nat → State} (hf : ∀ s m, f s m = imageDoneOf k s m) (s : State) :
    (List.range 16).foldl f s = imagesDone k s := by
  rw [funext₂ hf, imagesDone]

theorem exec_imageActivationComplete {n : Nat} {k : ImgAct} {s : State} (hclk : s.clk.coreStopped = false) (hpend : (bed s n).pendAct = some k) :
    exec (.imageActivationComplete n) s = .next (k.ticket.elim (imagesDone k (reachNs (k.t + 100000) s)) fun c =>
      complete c stOk (toLE 8 (t64OfNs k.t) ++ toLE 1 (1 - (bed s n).active) ++ zeros 3) (imagesDone k (reachNs (k.t + 100000) s))) := by
  change execImageActivationComplete n s = _
  simp only [execImageActivationComplete, hclk, hpend, Bool.false_eq_true, if_false]
  rw [foldl_eq_imagesDone (k := k)]
  · cases k.ticket with
    | none => simp only [Option.elim_none]
    | some c => simp only [Option.elim_some]
  · intro s m
    rfl

/-- A sound image stands in the inactive area of each named Bed. -/
def imagesLoaded (l : ImgLoad) (s s1 : State) : State :=
  (maskBeds s l.mask).foldl (fun s n => fireFur (bedFur n) (bedBase n + 5) 0x01 [] (modBed n (fun b => setArea (1 - b.active) (readImage l.bytes) b) s)) s1

section verified
variable {l : ImgLoad} {k : Ticket} {s : State} (hclk : s.clk.coreStopped = false) (hload : s.imgLoad = some l) (hticket : l.ticket = some k)
include hclk hload hticket

theorem exec_tineImageVerified_of_bad {o : Nat} (hbad : imageBad l.bytes = some o) :
    exec .tineImageVerified s = .next (completeDetail k stBadParam o [] { s with imgLoad := none }) := by
  change execTineImageVerified s = _
  simp only [execTineImageVerified, hclk, hload, hticket, hbad, Bool.false_eq_true, if_false]

variable (hsound : imageBad l.bytes = none)
include hsound

theorem exec_tineImageVerified_of_unsigned (hauth : imageAuth s l.bytes = false) :
    exec .tineImageVerified s = .next (completeDetail k stAuthFail 0 [] { s with imgLoad := none }) := by
  change execTineImageVerified s = _
  simp only [execTineImageVerified, hclk, hload, hticket, hsound, hauth, Bool.not_false, Bool.false_eq_true, if_true, if_false]

theorem exec_tineImageVerified_of_signed (hauth : imageAuth s l.bytes = true) :
    exec .tineImageVerified s = .next (complete k stOk (toLE 4 (readImage l.bytes).version) (imagesLoaded l s { s with imgLoad := none })) := by
  change execTineImageVerified s = _
  simp only [execTineImageVerified, hclk, hload, hticket, hsound, hauth, Bool.not_true, Bool.false_eq_true, if_false, imagesLoaded]

end verified

/-- Settles O34: clause by clause, what each row does in the case that the clause names. -/
theorem bedsDispatchAndRelease : Obligations.BedsDispatchAndRelease := by
  unfold Obligations.BedsDispatchAndRelease
  refine ⟨?start, ?fetch, ?release, ?lockup, ?deadline, ?retry, ?activation, ?verified⟩
  case start =>
    intro n q s hclk v b drop hruns hq
    refine ⟨fun huid hgone => ?cancelled, fun t hlen ht => ⟨fun u huid => ?frame, fun huid harmed => ?timer⟩⟩
    case cancelled => exact exec_activationStart hclk hruns (activationStart_of_cancelled rfl hq huid hgone)
    case frame => exact exec_activationStart hclk hruns (activationStart_of_frame rfl hq (windowFree_of_lt hlen) ht huid)
    case timer => exact exec_activationStart hclk hruns (activationStart_of_timer rfl hq (windowFree_of_lt hlen) ht huid harmed)
  case fetch =>
    intro n h rest s hclk hfetch pin
    exact ⟨exec_recordFetchDone_of_training hclk hfetch, exec_recordFetchDone_of_bad hclk hfetch, exec_recordFetchDone_of_good hclk hfetch⟩
  case release =>
    intro n v inl e s hclk hentry hverdict
    refine ⟨exec_verdictRelease_of_queued hclk hentry hverdict, ?_⟩
    intro hfirst s1
    have hexec := exec_verdictRelease_of_first hclk hentry hverdict hfirst
    exact ⟨fun huid => by rw [hexec, huid]; rfl, fun u huid => by rw [hexec, huid]; rfl⟩
  case lockup =>
    intro n s hclk lock
    exact ⟨exec_bedLockup_of_stuck hclk, fun e rest => exec_bedLockup_of_aged hclk⟩
  case deadline => exact fun n h d s => exec_deadlineFire
  case retry =>
    intro n h d e rest s hclk hretry v
    have hexec := exec_timerQueueRetry hclk hretry rfl
    exact ⟨fun harmed => hexec.trans (congrArg _ (if_pos harmed)), fun hgone => hexec.trans (congrArg _ (if_neg hgone))⟩
  case activation =>
    intro n k s hclk hpend s2
    have hs2 : s2 = imagesDone k (reachNs (k.t + 100000) s) := by
      refine foldl_eq_imagesDone (fun s m => ?_) _
      rfl
    have hexec := exec_imageActivationComplete hclk hpend
    exact ⟨fun hticket => by rw [hexec, hs2, hticket, Option.elim_none], fun c hticket => by rw [hexec, hs2, hticket, Option.elim_some]⟩
  case verified =>
    intro l k s hclk hload hticket s1
    exact ⟨fun o => exec_tineImageVerified_of_bad hclk hload hticket, exec_tineImageVerified_of_unsigned hclk hload hticket,
      exec_tineImageVerified_of_signed hclk hload hticket⟩

end Sys2Proof.Machine
end

section
/-! PROOF. Turns, lane flushes and restarts: what each row does in the case at hand (spec/11 R381, R384, R386; spec/07 R257). -/

namespace Sys2Proof.Machine

/-! ## Turns (R381) -/

section turn
variable {t : Turn} {s0 s : State} (hturn : s0.hl.turn = some t)
include hturn

section start
variable (hs : reachNs t.tStart s0 = s) (hwaits : t.started = false)
include hs hwaits

theorem exec_turnStart_of_admitted (hrun : s.hl.running = true) (hnew : furState s t.newLead = 0) (hlead : s.hl.lead ≠ t.newLead) :
    exec .turnStart s0 = .next (flipLead t.newLead t.tStart (trail 0x05 0x04 s.hl.lead t.newLead 0 {}
      (modHl (fun h => { h with turn := some { t with started := true }, overlap := some (t.tStart, t.tf) }) s))) := by
  change execTurnStart s0 = _
  simp only [execTurnStart, hturn, hwaits, hs, hrun, hnew, if_neg hlead, Bool.not_true, bne_self_eq_false, Bool.or_self, Bool.false_eq_true, if_false]

theorem exec_turnStart_of_notAdmitted (hnew : furState s t.newLead ≠ 0) :
    exec .turnStart s0 = .next (complete t.ticket stStateConflict [] (modHl (fun h => { h with turn := none }) s)) := by
  change execTurnStart s0 = _
  simp only [execTurnStart, hturn, hwaits, hs, bne_iff_ne.mpr hnew, Bool.or_true, Bool.false_eq_true, if_true, if_false]

end start

theorem exec_turnEnd_of_admitted (hs : modHl (fun h => { h with turn := some { t with ended := true } }) (reachNs t.tf s0) = s) (hstarted : t.started = true)
    (hopen : t.ended = false) (hrun : s.hl.running = true) (hlead : s.hl.lead = t.newLead) (hold : furState s (other t.newLead) = 0) :
    exec .turnEnd s0 = .next (fence (other t.newLead) 0 s) := by
  subst hs
  have hgoes : ¬ (!t.started || t.ended) = true := by simp [hstarted, hopen]
  change execTurnEnd s0 = _
  simp only [execTurnEnd, hturn, if_neg hgoes]
  exact if_pos (by simp only [hrun, hlead, hold, decide_true, Bool.and_self])

end turn

/-! ## The lane flush (R384) -/

theorem flushOver_of_none {x : Nat} {s : State} (hturn : s.hl.turn = none) : flushOver x s = s := by
  simp only [flushOver, hturn]

theorem flushOver_of_turn {x : Nat} {s : State} {t : Turn} (hturn : s.hl.turn = some t) :
    flushOver x s = if t.ended = true ∧ other t.newLead = x then turnDone t s else s := by
  simp only [flushOver, hturn, Bool.and_eq_true, decide_eq_true_eq]

theorem exec_laneFlushComplete {fu : Furrow} {s0 t : State} (hclk : s0.clk.coreStopped = false) (ht : laneFlush (furNo fu) s0 = t) :
    exec (.laneFlushComplete fu) s0 = .next t := by
  subst ht
  change execLaneFlushComplete fu s0 = _
  exact if_neg (ne_true_of_eq_false hclk)

/-- The lane entries of a furrow, each with its lane. -/
def laneEntries (x : Nat) (s : State) : List (Nat × Entry) := (fur s x).lanes.flatMap fun l => l.2.map fun e => (l.1, e)

/-- A furrow whose lanes are flushed, 220 us after its fence, with the event that carries the counter of discards. -/
def lanesFlushed (x e : Nat) (s0 : State) : State :=
  let s := setFlush x none (reachEdge (e + 220 * usE) s0)
  let s1 := flushEntries x (laneEntries x s) (modFur x (fun y => { y with lanes := [] }) s)
  fire 0x1E4 0 (toLE 4 (tget 0 s1.hl.ctr 9)) s1

/-- AUTO_POWER_OFF takes a fenced furrow's power after a clock loss or a rail monitor alarm. -/
def autoOff (x b : Nat) (s : State) : Prop := s.hl.autoPower = true ∧ (bit b 3 = true ∨ bit b 4 = true) ∧ furState s x = 1

theorem autoOff_iff {x b : Nat} {s : State} : (s.hl.autoPower && (bit b 3 || bit b 4) && decide (furState s x = 1)) = true ↔ autoOff x b s := by
  simp only [autoOff, Bool.and_eq_true, Bool.or_eq_true, decide_eq_true_eq, and_assoc]

theorem laneFlush_of_none {x : Nat} {s0 : State} (hflush : flushOf s0 x = none) : laneFlush x s0 = s0 := by
  simp only [laneFlush, hflush]

section due
variable {x e b : Nat} {s0 : State} (hflush : flushOf s0 x = some (e, b))
include hflush

theorem laneFlush_of_autoOff (hoff : autoOff x b (lanesFlushed x e s0)) : laneFlush x s0 = flushOver x (powerOff x 0x00 (lanesFlushed x e s0)) := by
  simp only [laneFlush, hflush]
  exact congrArg (flushOver x) (if_pos (autoOff_iff.mpr hoff))

theorem laneFlush_of_stays (hstays : ¬ autoOff x b (lanesFlushed x e s0)) : laneFlush x s0 = flushOver x (lanesFlushed x e s0) := by
  simp only [laneFlush, hflush]
  exact congrArg (flushOver x) (if_neg (mt autoOff_iff.mp hstays))

end due

/-! ## Restarts (R257, R386) -/

section restart
variable {r : Restart} {s0 : State} (hrestart : s0.hl.restart = some r)
include hrestart

section copy
variable (hclk : s0.clk.coreStopped = false)
include hclk

theorem exec_restartCopyDone_of_restarting {s : State} (hs : reachEdge (r.startedAt + 4 * msE) s0 = s) (hstate : furState s0 r.furrow = 3) :
    exec .restartCopyDone s0 = .next (readRecords r.furrow (setFurState r.furrow 4 (clocksOn r.furrow (perfRestart r.furrow
      (modFur r.furrow (fun _ => copyFurrow (fur s (other r.furrow)))
      (modHalf r.furrow freshHalf (modGran (fun g => { g with handleCells := g.handleCells.filter (fun e => e.1 % 2 != r.furrow) }) s))))))) := by
  subst hs
  change execRestartCopyDone s0 = _
  simp only [execRestartCopyDone, hclk, hrestart, hstate, Bool.false_eq_true, if_true, if_false]

theorem exec_restartCopyDone_of_shadow {s : State} (hs : reachEdge (r.startedAt + 104 * msE) s0 = s) (hstate : furState s0 r.furrow = 4)
    (hcopy : r.copiedAt = none) :
    exec .restartCopyDone s0 = .next (fire 0x1E5 0x01 [] (modHl (fun h => { h with restart := some { r with copiedAt := some s.clk.edges, matched := 0 } })
      (writeRecords r.furrow r.badRecs (modFur r.furrow (copyRecords r.badRecs (fur s (other r.furrow))) s)))) := by
  subst hs
  have hstep : ¬ furState s0 r.furrow = 3 := by omega
  change execRestartCopyDone s0 = _
  simp only [execRestartCopyDone, hclk, hrestart, if_neg hstep, Bool.false_eq_true, if_false]
  exact if_pos (hcopy ▸ rfl)

theorem exec_restartAdmission_of_waiting (hmatched : r.matched < 1000) : exec .restartAdmission s0 = .next s0 := by
  change execRestartAdmission s0 = _
  simp only [execRestartAdmission, hclk, hrestart, hmatched, decide_true, Bool.true_or, Bool.false_eq_true, if_true, if_false]

theorem exec_restartAdmission_of_matched {s1 : State} (hrun : s0.hl.running = true) (hstate : furState s0 r.furrow = 4) (hmatched : 1000 ≤ r.matched)
    (hs1 : modHalf r.furrow (fun h => { h with fenced := false })
      (setFurState r.furrow 0 (modHl (fun h => { h with restart := none }) (reachNs (epochNext (nowNs s0)) s0))) = s1) :
    exec .restartAdmission s0 = .next (complete r.ticket stOk (toLE 8 (t64OfNs (epochNext (nowNs s0))))
      (fire 0x1E5 0x02 [] (trail 0x06 0x04 s1.hl.lead s1.hl.lead 0 {} s1))) := by
  subst hs1
  have hdone : ¬ r.matched < 1000 := Nat.not_lt.mpr hmatched
  change execRestartAdmission s0 = _
  simp only [execRestartAdmission, hclk, hrestart, hstate, hrun, hdone, decide_false, bne_self_eq_false, Bool.not_true, Bool.or_self, Bool.false_eq_true,
    if_false]

end copy

theorem exec_restartFailTimeout {e : Nat} (hcopied : r.copiedAt = some e) :
    exec .restartFailTimeout s0 = .next (if 1000 ≤ r.matched then s0 else restartFails r 0x04 (reachEdge (e + secE) s0)) := by
  change execRestartFailTimeout s0 = _
  simp only [execRestartFailTimeout, hrestart, hcopied]

end restart

/-- Settles O46: clause by clause, what each row does in the case that the clause names. -/
theorem turnsFlushesAndRestartsRunTheirSteps : Obligations.TurnsFlushesAndRestartsRunTheirSteps := by
  unfold Obligations.TurnsFlushesAndRestartsRunTheirSteps
  refine ⟨?start, ?finish, ?flush, ?flushEnd, ?noFlush, ?copy, ?admission⟩
  case start =>
    intro t s0 s hturn hwaits
    exact ⟨exec_turnStart_of_admitted hturn rfl hwaits, exec_turnStart_of_notAdmitted hturn rfl hwaits⟩
  case finish =>
    intro t s0 s hturn hstarted hopen hrun hlead hold
    exact exec_turnEnd_of_admitted hturn rfl hstarted hopen hrun hlead hold
  case flush =>
    intro fu e b s0 hclk x s s1 s2 off hflush
    exact ⟨fun hoff => exec_laneFlushComplete hclk (laneFlush_of_autoOff hflush hoff),
      fun hstays => exec_laneFlushComplete hclk (laneFlush_of_stays hflush hstays)⟩
  case flushEnd => exact fun x s => ⟨flushOver_of_none, fun t => flushOver_of_turn⟩
  case noFlush =>
    intro fu s hclk hflush
    exact exec_laneFlushComplete hclk (laneFlush_of_none hflush)
  case copy =>
    intro r s0 hclk x s4 s5 hrestart
    refine ⟨exec_restartCopyDone_of_restarting hrestart hclk rfl, exec_restartCopyDone_of_shadow hrestart hclk rfl,
      fun e hcopied => ⟨fun hfew => ?_, fun hmany => ?_⟩⟩
    · exact (exec_restartFailTimeout hrestart hcopied).trans (congrArg _ (if_neg (Nat.not_le.mpr hfew)))
    · exact (exec_restartFailTimeout hrestart hcopied).trans (congrArg _ (if_pos hmany))
  case admission =>
    intro r s0 hclk ta s s1 hrestart hrun hstate
    exact ⟨fun hmany => exec_restartAdmission_of_matched hrestart hclk hrun hstate hmany rfl, exec_restartAdmission_of_waiting hrestart hclk⟩

end Sys2Proof.Machine
end

section
/-! PROOF. Cell requests, rebuilds, admission, residence checks and stream shaper releases (spec/08 R267-R291; spec/10 R329). -/

namespace Sys2Proof.Machine

/-! ## CELL_REQUEST (R267, R279) -/

/-- A drill clock of a half's accounting stage begins: the requests beyond its two ports count as not granted. -/
def requestsTaken (h : Nat) (s : State) : State :=
  let s0 := reachEdge (half s h).at_ s
  modGran (fun g => { g with ungranted := (g.ungranted + ((s0.frames.filter (fun e => wants s0 h e.2)).length - 2)) % 2 ^ 48 })
    (modHalf h (fun x => { x with at_ := s0.clk.edges + 1 }) s0)

/-- The admissions whose cells are all booked go on. -/
def bookedAdmitted (s : State) : State := (s.frames.filter (fun e => booked e.2)).foldl (fun s e => admitNext e.1 s) s

/-- The whole frames that have all their cells go on. -/
def metReleased (s : State) : State := (s.frames.filter (fun e => askMet e.2)).foldl (fun s e => askDone e.1 s) s

theorem exec_cellRequest {h : Nat} (d0 d1 : Option Nat) {s v : State} {second : Option Nat} (hclk : s.clk.coreStopped = false) (hhalf : h < 2)
    (hv : requestsTaken h s = v) (hsecond : (bestReq v h none).bind (fun u => bestReq v h (some u)) = second) :
    exec (.cellRequest h d0 d1) s = .next (metReleased (bookedAdmitted (servePort h second d1 (servePort h (bestReq v h none) d0 v)))) := by
  subst hv hsecond
  change execCellRequest h d0 d1 s = _
  simp only [execCellRequest, hclk, Nat.mod_eq_of_lt hhalf, Bool.false_eq_true, if_false]
  rfl

section ports
variable {h u : Nat} (d : Option Nat) {s : State}

theorem servePort_of_take (hlisted : tmem s.frames u = true) (hwants : wants s h (frame s u) = true) (hbooked : unbooked (frame s u) h = []) :
    servePort h (some u) d s = serveReturn h (serveReq h u d s) := by
  simp [servePort, hlisted, hwants, hbooked]

theorem servePort_of_rebook {cell : Nat} {rest : List Nat} (hlisted : tmem s.frames u = true) (hwants : wants s h (frame s u) = true)
    (hcell : unbooked (frame s u) h = cell :: rest) : servePort h (some u) d s = serveReturn h (serveRebook h u cell s) := by
  simp [servePort, hlisted, hwants, hcell]

theorem servePort_of_gone (hgone : tmem s.frames u = false ∨ wants s h (frame s u) = false) : servePort h (some u) d s = serveReturn h s := by
  have hskip : (!tmem s.frames u || !wants s h (frame s u)) = true := by simpa using hgone
  rw [servePort, if_pos hskip]

end ports

theorem serveReturn_of_none {h : Nat} {s : State} (hnone : (half s h).returns = []) : serveReturn h s = s := by
  simp only [serveReturn, hnone]

theorem serveReturn_of_cell {h : Nat} {r : Return} {rest : List Return} {s s1 : State} (hcell : (half s h).returns = r :: rest)
    (hs1 : giveCell h r.cell (chargeLevel h r.level r.cls r.port r.host false (modHalf h (fun x => { x with returns := rest }) s)) = s1) :
    serveReturn h s = if r.level = 0 then s1 else countCell r.queue r.cls h false s1 := by
  subst hs1
  simp only [serveReturn, hcell]

/-! ## REBUILD_SCAN_COMPLETE (R269, R270) -/

/-- The quarantined cells of a half, in index order. -/
def quarantine (x : Half) : List (Nat × Nat) := toRuns (x.quarantined ++ x.quarantined1) (x.quarRuns ++ x.quarRuns1)

/-- Those of the cells that failed their read back that were quarantined, and the others' ranges. -/
def deadCells (bad : List Nat) (x : Half) : List Nat := bad.filter (fun c => (quarantine x).any (fun r => r.1 ≤ c && c ≤ r.2))
def goodRuns (bad : List Nat) (x : Half) : List (Nat × Nat) := (deadCells bad x).foldl (fun l c => cutRun c l) (quarantine x)

/-- A half whose quarantined cells are threaded or retired. -/
def rethreaded (bad : List Nat) (x y : Half) : Half :=
  { y with runs := y.runs ++ goodRuns bad x, quarantined := [], quarRuns := [], quarantined1 := [], quarRuns1 := [], rebuilding := none
           retired := (deadCells bad x).foldl (fun l c => insertSorted c l) y.retired }

theorem exec_rebuildScanComplete {h e : Nat} (bad : List Nat) {s : State} (hclk : s.clk.coreStopped = false) (hhalf : h < 2)
    (hrebuild : (half s h).rebuilding = some e) :
    exec (.rebuildScanComplete h bad) s = .next (fire (0x200 + h) 0x80 (toLE 4 (runLen (goodRuns bad (half s h)))) (gctr 11 h
      ((deadCells bad (half s h)).foldl (fun s _ => fire (0x202 + h) 0 [] s) (modHalf h (rethreaded bad (half s h)) s)))) := by
  change execRebuildScanComplete h bad s = _
  simp only [execRebuildScanComplete, hclk, Nat.mod_eq_of_lt hhalf, hrebuild, Bool.false_eq_true, if_false]
  rfl

/-! ## GRANARY_ADMIT (R285) -/

/-- The words that GRANARY_ADMIT reads: what it found of them, and the state after the reads. -/
def admitWords (u bad : Nat) (s : State) : Nat × State := if 128 ≤ bad then (0, discardUpset u (bad - 128) s) else readBelow 64 bad s

/-- The queue of a frame's decision. -/
def decidedQueue (d : Decision) (x : Frame) : Nat := queueKey d.handle x.port d.class_

/-- The frame takes the class and the queue of its decision. -/
def classified (u : Nat) (d : Decision) (s : State) : State :=
  modFrame u (fun x => { x with class_ := d.class_, queue := decidedQueue d (frame s u) }) s

/-- The queue holds frames of the other kind. -/
def mixedKind (d : Decision) (y : Queue) : Bool := !y.list.isEmpty && y.kind != b2n (d.class_ == 7)

/-- The frame keeps what its meters ruled. -/
def meterNoted (u : Nat) (x : Frame) (r : Metered × State) : State :=
  modFrame u (fun z => { z with dropElig := r.1.de, debits := r.1.debits, expect := expectOf r.2 x
                                limit := if r.1.sdu = 0 then z.limit else min z.limit r.1.sdu }) r.2

/-- The admission waits for its cells: its copies are decided. -/
def admissionBegun (u bad : Nat) (s : State) : State :=
  (admitHalves s (frame s u)).foldl (fun s h => if keeps s u h then modCopy u h (fun c => { c with undecided := false }) s else s)
    (modFrame u (fun x => { x with admitting := some bad }) s)

theorem mixedKind_iff {d : Decision} {y : Queue} : mixedKind d y = true ↔ y.list ≠ [] ∧ y.kind ≠ b2n (d.class_ == 7) := by
  simp [mixedKind]

/-- A decided frame that has a copy to keep, and whose admission has not begun, may be admitted. -/
def admissible (u : Nat) (s : State) : Prop :=
  (frame s u).admitted = false ∧ (frame s u).admitting = none ∧ (frame s u).kind = 0 ∧
  ((frame s u).copyA.isSome = true ∨ (frame s u).copyB.isSome = true) ∧ (keeps s u 0 = true ∨ keeps s u 1 = true)

/-- The four tests of an admission in their order: the decision, the kind of the queue, its room, and the meters. -/
theorem admitFrame_eq {u bad_ : Nat} {d : Decision} {s00 s : State} {w : Nat × State} {r : Metered × State} (hw : admitWords u bad_ s00 = w)
    (hs : classified u d w.2 = s) (hr : meterFrame (frame w.2 u) d.class_ d.meter (bit w.1 0) (bit w.1 1) s = r)
    (hdec : decOf (frame w.2 u) (admitFur w.2 (frame w.2 u)) = some d) (hmay : admissible u w.2) :
    admitFrame u bad_ s00 =
      if d.dropped ≠ 0 then dropFrame u s
      else if mixedKind d (queue s (decidedQueue d (frame w.2 u))) = true then gctr 17 (frameHalf s (frame w.2 u)) (dropFrame u s)
      else if (profileOf s (decidedQueue d (frame w.2 u)) d.class_).maxFrames ≤ framesOf s (decidedQueue d (frame w.2 u)) then
        limitEvent d.handle (gctr 6 (frameHalf s (frame w.2 u))
          (dropFrame u (modQueue (decidedQueue d (frame w.2 u)) (fun y => { y with dropSeen := true }) s)))
      else if r.1.drop = true then dropFrame u (meterNoted u (frame w.2 u) r)
      else admitNext u (admissionBegun u w.1 (meterNoted u (frame w.2 u) r)) := by
  subst hw hs hr
  obtain ⟨hadmitted, hadmitting, hkind, hcopy, hkeeps⟩ := hmay
  have hone : ((frame (admitWords u bad_ s00).2 u).copyA.isNone && (frame (admitWords u bad_ s00).2 u).copyB.isNone) = false := by
    simpa [Option.isSome_iff_ne_none] using not_and_or.mpr (hcopy.imp Option.isSome_iff_ne_none.mp Option.isSome_iff_ne_none.mp)
  have hkept : (keeps (admitWords u bad_ s00).2 u 0 || keeps (admitWords u bad_ s00).2 u 1) = true := by simpa using hkeeps
  unfold admitWords at *
  simp only [admitFrame, hdec, hadmitted, hadmitting, hkind, hone, hkept, Option.isSome_none, bne_self_eq_false, Bool.or_self, Bool.not_true,
    Bool.false_eq_true, if_false, bne_iff_ne]
  rfl

theorem exec_granaryAdmit {u bad : Nat} {s : State} (hclk : s.clk.coreStopped = false) :
    exec (.granaryAdmit u bad) s = .next (admitFrame u bad s) := by
  change execGranaryAdmit u bad s = _
  simp only [execGranaryAdmit, hclk, Bool.false_eq_true, if_false]

/-! ## The end of an admission (R285) -/

/-- The headers of the copies that an admission takes are written. -/
def headersWritten (u bad : Nat) (s : State) : State :=
  (admitHalves s (frame s u)).foldl (fun s h => headerWord u h (bit bad (2 + h)) s) (modFrame u (fun x => { x with admitting := none }) s)

/-- The frame is admitted, and its queue counts it in. -/
def countedIn (u : Nat) (d : Decision) (x : Frame) (s : State) : State :=
  modQueue x.queue (fun y => { y with
      frames := y.frames + 1, kind := if y.frames = 0 then b2n (x.class_ == 7) else y.kind, state := if y.state = 2 then 2 else 1
      lastClass := x.class_ })
    (modFrame u (fun z => { z with admitted := true, handle := d.handle, limited := resLimit s x.class_ != 0 }) s)

/-- It takes its sequence numbers. -/
def numbered (u bad : Nat) (d : Decision) (s : State) : State := assignSeqs u d.handle d.egress (seqUpset u d.handle d.egress bad s)

/-- A frame that spills is released where it found a record and its place, and else it goes. -/
def spillOutcome (u handle k : Nat) : Bool × State → State
  | (true, v) => admitRelease u handle k v
  | (false, v) => reap u v

theorem admitFinish_eq {u bad : Nat} {d : Decision} {s s3 s6 : State} (hadmitting : (frame s u).admitting = some bad)
    (hdec : decOf (frame s u) (admitFur s (frame s u)) = some d) (hs3 : headersWritten u bad s = s3)
    (hs6 : numbered u bad d (countedIn u d (frame s u) s3) = s6) :
    admitFinish u s =
      if d.dropped ≠ 0 then dropFrame u s3
      else if (admitHalves s (frame s u)).any (keeps s3 u) = false then reap u s3
      else if spills s6 (frame s u).queue (frame s u).class_ (relHalf s (frame s u)) d.egress = true then
        spillOutcome u d.handle (frame s u).class_ (startSpill u (frame s u).queue (frame s u).class_ (relHalf s (frame s u)) d.egress s6)
      else admitRelease u d.handle (frame s u).class_ s6 := by
  subst hs3 hs6
  simp only [admitFinish, hadmitting, hdec, bne_iff_ne, Bool.not_eq_true']
  rfl

/-- An earlier frame of the same input and class is still being admitted (R289). -/
def admittingBefore (u : Nat) (s : State) : Prop :=
  ∃ e ∈ s.frames, e.1 < u ∧ e.2.admitting.isSome = true ∧ e.2.port = (frame s u).port ∧ e.2.class_ = (frame s u).class_

theorem admittingBefore_iff {u : Nat} {s : State} :
    s.frames.any (fun e => decide (e.1 < u) && e.2.admitting.isSome && e.2.port == (frame s u).port && e.2.class_ == (frame s u).class_) = true ↔
      admittingBefore u s := by
  simp [admittingBefore, and_assoc]

theorem admitNext_of_first {u : Nat} {s : State} (hbooked : booked (frame s u) = true) (hfirst : ¬ admittingBefore u s) :
    admitNext u s = admitFinish u s := by
  have hnone := Bool.eq_false_of_not_eq_true (mt admittingBefore_iff.mp hfirst)
  simp only [admitNext, hbooked, hnone, Bool.not_false, Bool.and_self, if_true]

theorem admitNext_of_waiting {u : Nat} {s : State} (hwaits : booked (frame s u) = false ∨ admittingBefore u s) : admitNext u s = s := by
  rcases hwaits with hunbooked | hbefore
  · simp only [admitNext, hunbooked, Bool.false_and, Bool.false_eq_true, if_false]
  · simp only [admitNext, admittingBefore_iff.mpr hbefore, Bool.not_true, Bool.and_false, Bool.false_eq_true, if_false]

/-! ## COPY_COMPLETE (R314) -/

theorem copyComplete_of_written {u h : Nat} {c : Copy} {s : State} (hcopy : copyOf (frame s u) h = some c) (hrx : (frame s u).rxDone = true)
    (hopen : c.complete = false) (hgood : c.poison = false) (hheld : (frame s u).spillDone = false)
    (hcells : cellsFor (effBytes (frame s u)).length ≤ c.cells.length) :
    copyComplete u h s =
      tryReturn u h (offerCopy u h 1 (offerCopy u h 0 (modCopy u h (fun c => { c with complete := true }) s))) := by
  simp [copyComplete, hcopy, hrx, hopen, hgood, hheld, Nat.not_lt.mpr hcells]

theorem exec_copyComplete {u h : Nat} {s : State} (hclk : s.clk.coreStopped = false) (hhalf : h < 2) :
    exec (.copyComplete u h) s = .next (copyComplete u h s) := by
  change execCopyComplete u h s = _
  simp only [execCopyComplete, hclk, Nat.mod_eq_of_lt hhalf, hhalf, Bool.false_eq_true, if_false, if_true]

/-! ## Whole frames (R287, R308) -/

section asks
variable {u h : Nat} {s : State}

/-- The request of a whole frame is over. -/
def unasked (u : Nat) (s : State) : State := modFrame u (fun x => { x with asks := none }) s

/-- Its copy is wholly written. -/
def askWhole (u h : Nat) (s : State) : State := modCopy u h (fun c => { c with complete := true }) (unasked u s)

/-- A whole frame takes its sequence numbers, and goes to the lanes and to the mirror sessions. -/
def sentWhole (u h l k egress : Nat) (s : State) : State :=
  let w := releaseCopy u h l egress (assignSeqs u 0 egress s)
  if keeps w u h then mirrorFrame l u h k egress 0 w else w

theorem modFrame_hl (u : Nat) (g : Frame → Frame) (s : State) : (modFrame u g s).hl = s.hl := by
  unfold modFrame
  split <;> rfl

theorem askDone_of_host {i egress : Nat} (hasks : (frame s u).asks = some (h, .direct (some i) egress)) :
    askDone u s = sentWhole u h s.hl.lead (frame s u).class_ egress (hostTxDone i 1 (askWhole u h s)) := by
  simp only [askDone, hasks, modFrame_hl]
  rfl

theorem askDone_of_device {egress : Nat} (hasks : (frame s u).asks = some (h, .direct none egress)) :
    askDone u s = sentWhole u h s.hl.lead (frame s u).class_ egress (askWhole u h s) := by
  simp only [askDone, hasks, modFrame_hl]
  rfl

section lookup
variable {i : Nat} {w : State} (hasks : (frame s u).asks = some (h, .lookup i)) (hw : hostTxDone i 1 (askWhole u h s) = w)
include hasks hw

theorem askDone_of_lookupFull (hfull : laneRoom w s.hl.lead (frame s u).class_ 1 = false) : askDone u s = dropLate u h (laneFullDrop u w) := by
  subst hw
  simp only [askDone, hasks, modFrame_hl]
  exact if_pos (congrArg (!·) hfull)

theorem askDone_of_lookup (hroom : laneRoom w s.hl.lead (frame s u).class_ 1 = true) {key : Nat}
    (hkey : laneKey 64 (65 + (frame s u).port / 16) (frame s u).class_ = key) :
    askDone u s = offerCopy u h s.hl.lead (modCopy u h (fun c => { c with fanout := 1, released := true })
      (setLane s.hl.lead key (laneOf w s.hl.lead key ++ [{ uid := u, half := h }]) w)) := by
  subst hw hkey
  simp only [askDone, hasks, modFrame_hl]
  exact if_neg (ne_true_of_eq_false (congrArg (!·) hroom))

end lookup

/-- The halves of a spill record that its refill has yet to get. -/
def awaiting (r : SpillRec) (s : State) : SpillRec := { r with reads := (spillAddrs s r).flatMap (fun a => (List.range 8).map (fun j => a / 32 + j)) }

theorem askDone_of_refill {i : Nat} {r : SpillRec} {v : State} (hasks : (frame s u).asks = some (h, .refill i)) (hv : unasked u s = v)
    (hrec : tget? v.deep.recs i = some r) :
    askDone u s = (spillAddrs v r).foldl (fun s a => putBytes64 3 false a 256 s)
      (modDeep (fun d => { d with recs := tput d.recs i (awaiting r v) }) v) := by
  subst hv
  unfold unasked at *
  simp only [askDone, hasks, hrec]
  rfl

end asks

/-! ## RESIDENCE_CHECK (R290) -/

/-- An expired entry leaves the head of its lane, is counted, and its event fires. -/
def expiredOut (f key : Nat) (e : Entry) (rest : List Entry) (s : State) : State :=
  fireMs 0 0x207 0 (toLE 1 (frame s e.uid).class_ ++ toLE 1 e.half) (gctr (18 + (frame s e.uid).class_) e.half
    (modQueue (frame s e.uid).queue (fun q => { q with dropSeen := true }) (setLane f key rest s)))

/-- What held its frame by it holds it no more. -/
def expiredGone (f key : Nat) (e : Entry) (rest : List Entry) (s : State) : State :=
  prpGone f key e (if e.spill then expiredOut f key e rest s
    else tryReturn e.uid e.half (modCopy e.uid e.half (fun c => { c with fanout := c.fanout - 1 }) (expiredOut f key e rest s)))

/-- The mirror copy of an expired entry ends with it. -/
def mirrorEnded : Option (Nat × Nat) → State → State
  | some (i, _), s => mirrorDrop i s
  | none, s => s

section residence
variable {fu : Furrow} {inp out k : Nat} {s : State} (hclk : s.clk.coreStopped = false)
include hclk

theorem exec_residenceCheck_of_empty (hempty : laneOf s (furNo fu) (laneKey inp out k) = []) : exec (.residenceCheck fu inp out k) s = .next s := by
  change execResidenceCheck fu inp out k s = _
  simp only [execResidenceCheck, hclk, hempty, Bool.false_eq_true, if_false]

variable {e : Entry} {rest : List Entry} (hhead : laneOf s (furNo fu) (laneKey inp out k) = e :: rest)
include hhead

theorem exec_residenceCheck_of_stays (hstays : e.moved ≠ 0 ∨ expired s (frame s e.uid) = false) : exec (.residenceCheck fu inp out k) s =
    .next (setLane (furNo fu) (laneKey inp out k) ({ e with checkedAt := s.clk.edges } :: rest) s) := by
  have hkept : (decide (e.moved = 0) && expired s (frame s e.uid)) = false := by simpa [imp_iff_not_or] using hstays
  change execResidenceCheck fu inp out k s = _
  simp only [execResidenceCheck, residenceCheck, hclk, hhead, hkept, Bool.not_false, Bool.false_eq_true, if_false, if_true]

theorem exec_residenceCheck_of_expired (hwhole : e.moved = 0) (hexpired : expired s (frame s e.uid) = true) {s3 s4 : State}
    (hs3 : expiredGone (furNo fu) (laneKey inp out k) e rest s = s3) (hs4 : mirrorEnded e.mirror s3 = s4) :
    exec (.residenceCheck fu inp out k) s = .next (if e.spill then spillGone e.uid s4 else s4) := by
  subst hs3 hs4
  change execResidenceCheck fu inp out k s = _
  simp only [execResidenceCheck, residenceCheck, hclk, hhead, hwhole, hexpired, decide_true, Bool.and_self, Bool.not_true, Bool.false_eq_true, if_false,
    if_true]
  cases e.mirror <;> rfl

end residence

/-! ## STREAM_SHAPER_RELEASE (R286, R290, R329) -/

/-- The head of a shaped list may go: its copy is whole, no verdict holds it, and its shaper has tokens. -/
def headReady (h : Nat) (x : Frame) (s : State) : Prop :=
  (∀ c, copyOf x (relHalf s x) = some c → c.complete = true) ∧ (copyOf x (relHalf s x) = none → x.spillDone = true) ∧
  heldInline x (admitFur s x) = false ∧ 0 ≤ (shaper s h).t

/-- The head of a shaped list leaves it unsent. -/
def unlisted (h u : Nat) (s : State) : State :=
  modQueue h (fun q => { q with list := q.list.filter (· != u), dropSeen := true })
    (modFrame u (fun x => { x with shaped := false }) (if (frame s u).spilled then freeSpill u s else s))

/-- It has expired: its copy is dropped, counted, and its event fires. -/
def headExpired (h u : Nat) (s : State) : State :=
  let x := frame s u
  fireMs 0 0x207 0 (toLE 1 x.class_ ++ toLE 1 (relHalf s x)) (gctr (18 + x.class_) (relHalf s x) (dropLate u (relHalf s x) (unlisted h u s)))

/-- The bytes of the head are taken from its shaper. -/
def headPaid (h u : Nat) (s : State) : State := { s with shapers := tput s.shapers h (shaperTake (effBytes (frame s u)).length (shaper s h)) }

section shaped
variable {h u : Nat} {rest : List Nat} {s : State}

theorem headReady_iff : headReady h (frame s u) s ↔
    (!(copyOf (frame s u) (relHalf s (frame s u))).elim (frame s u).spillDone (·.complete) ||
      heldInline (frame s u) (admitFur s (frame s u)) || decide ((shaper s h).t < 0)) = false := by
  unfold headReady
  cases copyOf (frame s u) (relHalf s (frame s u)) <;> simp [and_assoc]

theorem shaperRelease_cons (hlist : (queue s h).list = u :: rest) (n : Nat) [Decidable (headReady h (frame s u) s)] :
    shaperRelease h (n + 1) s =
      if ¬ headReady h (frame s u) s then s
      else if expired s (frame s u) = true then shaperRelease h n (headExpired h u s)
      else unlist h u (headPaid h u s) := by
  simp only [shaperRelease, hlist, headReady_iff, Bool.not_eq_false]
  cases copyOf (frame s u) (relHalf s (frame s u)) <;> rfl

theorem exec_streamShaperRelease (hclk : s.clk.coreStopped = false) (hshaper : tmem s.shapers h = true) :
    exec (.streamShaperRelease h) s = .next (shaperRelease h ((queue s h).list.length + 1) s) := by
  change execStreamShaperRelease h s = _
  simp only [execStreamShaperRelease, hclk, hshaper, Bool.false_eq_true, if_false, if_true]

end shaped

/-- Settles O36: clause by clause, what each command does in the case that the clause names. -/
theorem theGranaryAllocatesAdmitsAndReturns : Obligations.TheGranaryAllocatesAdmitsAndReturns := by
  unfold Obligations.TheGranaryAllocatesAdmitsAndReturns
  refine ⟨?request, ?port, ?returns, ?rebuild, ?admission, ?finish, ?complete, ?next, ?done, ?fails, ?residence, ?shaper⟩
  case request =>
    intro h d0 d1 s hclk hhalf s0 more v ends next
    exact ⟨fun hnone => exec_cellRequest d0 d1 hclk hhalf rfl (congrArg (Option.bind · _) hnone),
      fun u hbest => exec_cellRequest d0 d1 hclk hhalf rfl (congrArg (Option.bind · _) hbest)⟩
  case port =>
    intro h u d s x
    exact ⟨rfl, fun hlisted hwants => ⟨servePort_of_take d hlisted hwants, fun cell rest => servePort_of_rebook d hlisted hwants⟩,
      servePort_of_gone d⟩
  case returns =>
    intro h s
    exact ⟨serveReturn_of_none, fun r rest hcell => serveReturn_of_cell hcell rfl⟩
  case rebuild =>
    intro h e bad s hclk hhalf hrebuild x all dead runs
    exact exec_rebuildScanComplete bad hclk hhalf hrebuild
  case admission =>
    intro u bad_ d s00 hclk w s0 x k q s fh y r s2 hs s3 mixed hdec hadmitted hadmitting hkind hcopy hkeeps
    have hframe := admitFrame_eq (u := u) (bad_ := bad_) (s00 := s00) rfl rfl rfl hdec ⟨hadmitted, hadmitting, hkind, hcopy, hkeeps⟩
    have hexec : exec (.granaryAdmit u bad_) s00 = .next (admitFrame u bad_ s00) := exec_granaryAdmit hclk
    have hmixed : mixedKind d y = true ↔ mixed := mixedKind_iff
    refine ⟨fun hdrop => ?dropped, fun hforward hmix => ?mixed, fun hforward hpure =>
      ⟨fun hfull => ?full, fun hroom hdrop => ?metered, fun hroom hgo => ?begun⟩⟩
    all_goals refine hexec.trans (congrArg Host.Outcome.next (hframe.trans ?_))
    case dropped => exact if_pos hdrop
    all_goals refine (if_neg (not_not.mpr hforward)).trans ?_
    case mixed => exact if_pos (hmixed.mpr hmix)
    all_goals refine (if_neg (mt hmixed.mp hpure)).trans ?_
    case full => exact if_pos hfull
    all_goals refine (if_neg (Nat.not_le.mpr hroom)).trans ?_
    case metered => exact if_pos hdrop
    case begun => exact if_neg (ne_true_of_eq_false hgo)
  case finish =>
    intro u bad d s x k h hs s3 s5 s6 hadmitting hdec
    have hfinish := admitFinish_eq hadmitting hdec rfl rfl
    refine ⟨fun hdrop => ?dropped, fun hforward hlost => ?lost, fun hforward hkept =>
      ⟨fun hstays => ?released, fun v hspills => ⟨fun hstored => ?stored, fun hfull => ?full⟩⟩⟩
    case dropped => exact hfinish.trans (if_pos hdrop)
    case lost => exact hfinish.trans ((if_neg (not_not.mpr hforward)).trans (if_pos hlost))
    all_goals refine hfinish.trans ((if_neg (not_not.mpr hforward)).trans ((if_neg (ne_false_of_eq_true hkept)).trans ?_))
    case released => exact if_neg (ne_true_of_eq_false hstays)
    case stored => exact (if_pos hspills).trans (congrArg (spillOutcome u d.handle k) hstored)
    case full => exact (if_pos hspills).trans (congrArg (spillOutcome u d.handle k) hfull)
  case complete =>
    intro u h c s hclk hhalf hcopy hrx hopen hgood hheld hcells
    rw [exec_copyComplete hclk hhalf, copyComplete_of_written hcopy hrx hopen hgood hheld hcells]
  case next => exact fun u s => ⟨admitNext_of_first, admitNext_of_waiting⟩
  case done =>
    intro u h s x l v whole
    exact ⟨fun i eg => askDone_of_host, fun eg => askDone_of_device,
      fun i hasks => ⟨askDone_of_lookupFull hasks rfl, fun hroom => askDone_of_lookup hasks rfl hroom rfl⟩,
      fun i r hasks => askDone_of_refill hasks rfl⟩
  case fails => exact fun u h s => ⟨fun _ _ => rfl, fun _ => rfl, fun _ => rfl, fun _ => rfl⟩
  case residence =>
    intro fu inp out k s hclk f key
    refine ⟨exec_residenceCheck_of_empty hclk, fun e rest hhead =>
      ⟨exec_residenceCheck_of_stays hclk hhead, fun hwhole hexpired hmirror => ?own, fun i cut hwhole hexpired hmirror => ?mirror⟩⟩
    case own => exact exec_residenceCheck_of_expired hclk hhead hwhole hexpired rfl (congrArg (mirrorEnded · _) hmirror)
    case mirror => exact exec_residenceCheck_of_expired hclk hhead hwhole hexpired rfl (congrArg (mirrorEnded · _) hmirror)
  case shaper =>
    intro h u rest s hclk x hf ready hshaper hlist
    classical
    have hrelease := (exec_streamShaperRelease hclk hshaper).trans (congrArg Host.Outcome.next (shaperRelease_cons hlist (queue s h).list.length))
    refine ⟨fun hwait => ?_, fun hready hfresh => ?_, fun hready hexpired => ?_⟩
    · exact hrelease.trans (congrArg _ (if_pos hwait))
    · exact hrelease.trans (congrArg _ ((if_neg (not_not.mpr hready)).trans (if_neg (ne_true_of_eq_false hfresh))))
    · refine hrelease.trans (congrArg _ ((if_neg (not_not.mpr hready)).trans ((if_pos hexpired).trans ?_)))
      rw [hlist]
      rfl

end Sys2Proof.Machine
end

section
/-! PROOF. The settings of pools, queues, residence limits and shapers, and their reads (spec/08 R276-R297; spec/10 R355). -/

namespace Sys2Proof.Machine

/-! ## Checks 10 to 13 -/

theorem firstBad_of_all {l : List (Bool × Nat)} (h : ∀ e ∈ l, e.1 = true) : firstBad l = none := by
  induction l with
  | nil => rfl
  | cons e l ih => rw [firstBad, if_pos (h e List.mem_cons_self), ih fun x hx => h x (List.mem_cons_of_mem _ hx)]

theorem unlessUpset_of_clean {p : Packet} (act : State → State) (s : State) (h : p.upset = false) : unlessUpset p act s = id := by
  funext k
  simp [unlessUpset, h]

/-! ## POOL_SET (R276, R294) -/

section pools
variable {p : Packet} {s : State}

/-- A setting is refused where the reserves of a half would then exceed 73,728 cells. -/
theorem exec_poolSet_of_poolIf {t : State} (hacc : accepts specPoolSet p s = true)
    (hbody : bodyPoolSet (asked specPoolSet p) (reached specPoolSet p s) = poolIf (asked specPoolSet p) (reached specPoolSet p s) t) :
    exec (.poolSet p) s = .next (if 73728 < reserves t then answered specPoolSet p stExhausted [] (reached specPoolSet p s)
      else answered specPoolSet p stOk [] (descWatch t)) := by
  by_cases hbeyond : 73728 < reserves t
  · rw [if_pos hbeyond]
    exact serveCmd_refuse (body := bodyPoolSet) hacc (hbody.trans (if_pos hbeyond))
  · rw [if_neg hbeyond]
    exact serveCmd_ok (body := bodyPoolSet) hacc
      (hbody.trans ((if_neg hbeyond).trans (congrFun (unlessUpset_of_clean _ _ (upset_of_accepts hacc)) _))) (by decide) (by simp)

variable (hres : reservedAt p.params 1 3 = true)
include hres

theorem bodyPoolSet_of_half (hop : byteAt p.params 0 = 0) (hstream : le p.params 4 4 ≤ 40960) (hspill : le p.params 8 4 ≤ 81920)
    (hbalance : le p.params 12 4 ≤ 81920) (hdesc : le p.params 16 4 ≤ 65536) (hlane : le p.params 20 4 ≤ 65536) :
    bodyPoolSet p s = poolIf p s (modGran (fun g => { g with streamPool := le p.params 4 4, spillThreshold := le p.params 8 4
                                                             balance := le p.params 12 4, descReserve := le p.params 16 4
                                                             laneReserve := le p.params 20 4 }) s) := by
  simp [bodyPoolSet, checked, firstBad, hres, hop, hstream, hspill, hbalance, hdesc, hlane]

theorem bodyPoolSet_of_class (hop : byteAt p.params 0 = 1) (hclass : byteAt p.params 4 < 8) (hpad : reservedAt p.params 5 3 = true)
    (hleast : le p.params 8 4 ≤ 16384) :
    bodyPoolSet p s = poolIf p s (modGran (fun g => { g with classMin := tput g.classMin (byteAt p.params 4) (le p.params 8 4) }) s) := by
  simp [bodyPoolSet, checked, firstBad, hres, hop, hclass, hpad, hleast]

theorem bodyPoolSet_of_port (hop : byteAt p.params 0 = 2) (hport : portExists s (byteAt p.params 4) = true) (hpad : reservedAt p.params 5 3 = true)
    (hheadroom : 1 ≤ le p.params 8 2 ∧ le p.params 8 2 ≤ 4096) (hleast : le p.params 10 2 ≤ 8192) (hmost : le p.params 12 4 ≤ 81920) :
    bodyPoolSet p s = poolIf p s (modGran (fun g => { g with ports := tset {} g.ports (byteAt p.params 4) {
      headroom := le p.params 8 2, portMin := le p.params 10 2, sharedMax := le p.params 12 4 } }) (touchPort (byteAt p.params 4) true s)) := by
  simp [bodyPoolSet, checked, firstBad, hres, hop, hport, hpad, hheadroom, hleast, hmost]

theorem bodyPoolSet_of_profile (hop : byteAt p.params 0 = 3) (hprofile : byteAt p.params 4 ≤ 254) (hpad : reservedAt p.params 5 3 = true)
    (hreserve : le p.params 8 2 ≤ 64) (hcells : 1 ≤ le p.params 10 2) (hframes : 1 ≤ le p.params 12 2) (hend : reservedAt p.params 16 4 = true) :
    bodyPoolSet p s = poolIf p s (modGran (fun g => { g with profiles := tput g.profiles (byteAt p.params 4) {
      reserve := le p.params 8 2, maxCells := le p.params 10 2, maxFrames := le p.params 12 2, spillCells := le p.params 14 2 } }) s) := by
  simp [bodyPoolSet, checked, firstBad, hres, hop, hprofile, hpad, hreserve, hcells, hframes, hend]

theorem bodyPoolSet_of_handle (hop : byteAt p.params 0 = 4) (hhandle : 1 ≤ le p.params 4 4 ∧ le p.params 4 4 < 2 ^ 20)
    (hpad : reservedAt p.params 9 3 = true) (hclean : p.upset = false) :
    bodyPoolSet p s = .ok [] (modQueue (le p.params 4 4) (fun q => { q with profile := byteAt p.params 8 }) s) := by
  obtain ⟨hleast, hmost⟩ := hhandle
  norm_num at hmost
  simp [bodyPoolSet, checked, firstBad, unlessUpset, hres, hop, hleast, hmost, hpad, hclean]

end pools

/-! ## POOL_READ (R295) -/

/-- The 72 bytes of R295 for a half that is powered, and for one that is not. -/
def poolReply (s : State) (h pt : Nat) : List Byte :=
  let x := half s h
  toLE 4 (freeCells x) ++ toLE 4 (quarCells x) ++ toLE 4 x.retired.length ++
    toLE 1 (if furState s h ≠ 0 ∨ x.fenced = true then 2 else if x.rebuilding.isSome then 1 else 0) ++ zeros 3 ++
    toLE 4 (s.gran.streamPool - x.stream) ++ (List.range 8).flatMap (fun k => toLE 4 (classMin s k - tget 0 x.cls k)) ++
    toLE 4 ((portPool s pt).portMin - tget 0 x.port pt) ++ toLE 4 (tget 0 x.shared pt) ++
    toLE 4 ((portPool s pt).headroom - tget 0 x.head pt) ++ toLE 4 (sharedFree s h) ++ toLE 4 (descFree s)
def darkReply (s : State) : List Byte := zeros 12 ++ toLE 1 3 ++ zeros 55 ++ toLE 4 (descFree s)

theorem length_poolReply (s : State) (h pt : Nat) : (poolReply s h pt).length = 72 := by
  simp [poolReply, List.length_flatMap]

theorem length_darkReply (s : State) : (darkReply s).length = 72 := by
  simp only [darkReply, List.length_append, length_toLE, length_zeros]

theorem bodyPoolRead_eq {p : Packet} {s : State} (hhalf : byteAt p.params 0 < 2) (hport : portExists s (byteAt p.params 1) = true)
    (hres : reservedAt p.params 2 2 = true) :
    bodyPoolRead p s = .ok (if powered s (byteAt p.params 0) = true then poolReply s (byteAt p.params 0) (byteAt p.params 1) else darkReply s)
      (touchPort (byteAt p.params 1) true s) := by
  unfold poolReply darkReply
  cases hpower : powered s (byteAt p.params 0) <;> simp [bodyPoolRead, checked, firstBad, hhalf, hport, hres, hpower]

/-! ## QUEUE_READ (R296) -/

/-- The queue that QUEUE_READ names, and its HALF_CELLS in a half, 0xFFFF where that is not powered. -/
def namedQueue (b : List Byte) : Nat := queueKey (le b 0 4) (byteAt b 4) (byteAt b 5)
def shownCells (s : State) (key f : Nat) : Nat := if powered s f then halfCells s key f else 0xFFFF

/-- The profile in effect. -/
def shownProfile (s : State) (b : List Byte) : Nat :=
  let q := queue s (namedQueue b)
  if le b 0 4 = 0 then byteAt b 5 else if q.profile = 0xFF then q.lastClass else q.profile

/-- A default queue's port is touched; CLEAR clears DROP_SEEN. -/
def queueShown (b : List Byte) (s : State) : State :=
  let t := if le b 0 4 = 0 then touchPort (byteAt b 4) true s else s
  if byteAt b 6 = 1 then modQueue (namedQueue b) (fun q => { q with dropSeen := false }) t else t

theorem bodyQueueRead_eq {p : Packet} {s : State} (hhandle : le p.params 0 4 < 2 ^ 20)
    (hdefault : le p.params 0 4 = 0 → portExists s (byteAt p.params 4) = true ∧ byteAt p.params 5 < 8) (hclear : byteAt p.params 6 < 2)
    (hres : reservedAt p.params 7 1 = true) (hclean : p.upset = false) :
    bodyQueueRead p s = .ok (toLE 12 (queueWord s (queue s (namedQueue p.params))) ++ toLE 2 (shownCells s (namedQueue p.params) 0) ++
      toLE 2 (shownCells s (namedQueue p.params) 1) ++ toLE 1 (shownProfile s p.params) ++ zeros 3) (queueShown p.params s) := by
  have hport : (le p.params 0 4 != 0 || portExists s (byteAt p.params 4)) = true := by
    simpa [← imp_iff_not_or] using fun h => (hdefault h).1
  have hclass : (le p.params 0 4 != 0 || decide (byteAt p.params 5 < 8)) = true := by
    simpa [← imp_iff_not_or] using fun h => (hdefault h).2
  have hread : (if byteAt p.params 6 = 1 then unlessUpset p (queueFault (namedQueue p.params)) s else id) = id := by
    rw [unlessUpset_of_clean _ _ hclean, ite_self]
  simp only [bodyQueueRead, checked, firstBad, hhandle, hport, hclass, hclear, hres, bit_zero_of_lt_two hclear, decide_true, if_true, decide_eq_true_eq]
  exact congrFun hread _

/-! ## RESIDENCE_LIMIT_SET (R297) -/

theorem bodyResidenceLimitSet_eq {p : Packet} {s : State}
    (hlimits : ∀ k, k < 8 → bit (byteAt p.params 16) k = true → le p.params (2 * k) 2 ≤ 1000) (hres : reservedAt p.params 17 3 = true) :
    bodyResidenceLimitSet p s = .ok [] (modGran (fun g => { g with
      residence := (bitList 8 (byteAt p.params 16)).foldl (fun t k => tput t k (le p.params (2 * k) 2)) g.residence }) s) := by
  refine checked_of_none _ (firstBad_of_all fun e he => ?_)
  rcases List.mem_append.mp he with hlimit | hend
  · obtain ⟨k, hk, rfl⟩ := List.mem_map.mp hlimit
    simpa [imp_iff_not_or] using hlimits k (List.mem_range.mp hk)
  · rw [List.mem_singleton.mp hend, hres]

/-! ## SHAPER_SET (R355) -/

section shapers
variable {p : Packet} {s : State}

/-- RATE and BURST of a shaper are legal. -/
def ratesFit (b : List Byte) : Prop := le b 8 4 = 0 ∨ (64 ≤ le b 12 4 ∧ le b 12 4 ≤ 16777215)

theorem ratesFit_iff {b : List Byte} :
    (le b 8 4 == 0 || (decide (64 ≤ le b 12 4) && decide (le b 12 4 ≤ 16777215))) = true ↔ ratesFit b := by
  simp [ratesFit]

variable (hres : reservedAt p.params 1 3 = true)
include hres

theorem bodyShaperSet_of_class (hop : byteAt p.params 0 = 0) (hport : portExists s (byteAt p.params 4) = true) (hclass : byteAt p.params 5 < 7)
    (hpad : reservedAt p.params 6 2 = true) (hrate : le p.params 8 4 ≤ 100000000) (hfits : ratesFit p.params) (hclean : p.upset = false) :
    bodyShaperSet p s = .ok [] (modDrill (byteAt p.params 4) (fun d => { d with
      shapers := if le p.params 8 4 = 0 then tdel d.shapers (byteAt p.params 5)
        else tput d.shapers (byteAt p.params 5) (shaperNew s.clk.edges (le p.params 8 4) (le p.params 12 4)) })
      (settlePay (byteAt p.params 4) (touchPort (byteAt p.params 4) true s))) := by
  simp only [bodyShaperSet, hop, checked, firstBad, unlessUpset, hres, hport, hclass, hpad, hrate, ratesFit_iff.mpr hfits, hclean, decide_true, if_true,
    Bool.false_eq_true, if_false]

section streams
variable (hhandle : 1 ≤ le p.params 4 4 ∧ le p.params 4 4 < 2 ^ 20)
include hhandle

section set
variable (hop : byteAt p.params 0 = 1) (hclean : p.upset = false)
include hop hclean

theorem bodyShaperSet_of_remove (hzero : le p.params 8 4 = 0) : bodyShaperSet p s = .ok [] (shaperRemove (le p.params 4 4) s) := by
  simp only [bodyShaperSet, hop, checked, firstBad, unlessUpset, hres, hhandle.1, hhandle.2, hzero, hclean, bne_self_eq_false, beq_self_eq_true,
    Nat.zero_le, Bool.true_or, Bool.false_and, decide_true, Bool.and_self, if_true, Bool.false_eq_true, if_false]

theorem bodyShaperSet_of_stream (hset : le p.params 8 4 ≠ 0) (hrate : le p.params 8 4 ≤ 100000000) (hfits : ratesFit p.params) :
    bodyShaperSet p s =
      if 16384 ≤ s.shapers.length ∧ tmem s.shapers (le p.params 4 4) = false then .refuse stExhausted 0
      else .ok [] { s with shapers := tput s.shapers (le p.params 4 4) (shaperNew s.clk.edges (le p.params 8 4) (le p.params 12 4)) } := by
  simp only [bodyShaperSet, hop, checked, firstBad, unlessUpset, hres, hhandle.1, hhandle.2, hrate, ratesFit_iff.mpr hfits, hclean, hset,
    bne_iff_ne.mpr hset, Bool.true_and, Bool.and_eq_true, decide_eq_true_eq, Bool.not_eq_true', decide_true, Bool.and_self, if_true, Bool.false_eq_true,
    if_false]

end set

theorem bodyShaperSet_of_read (hop : byteAt p.params 0 = 2) :
    bodyShaperSet p s = if tmem s.shapers (le p.params 4 4) = true then
      .ok (toLE 4 (shaper s (le p.params 4 4)).rate ++ toLE 4 (shaper s (le p.params 4 4)).burst ++
        toLE 4 (wholeBytes (shaper s (le p.params 4 4)).t) ++ toLE 4 (queue s (le p.params 4 4)).list.length) s
      else .refuse stNotFound 0 := by
  simp only [bodyShaperSet, hop, checked, firstBad, hres, hhandle.1, hhandle.2, decide_true, Bool.and_self, if_true]
  cases tmem s.shapers (le p.params 4 4) <;> rfl

end streams
end shapers

/-- Settles O37: check 10 passes in each clause, and so the body answers as the clause has it. -/
theorem poolsQueuesAndShapersAreSet : Obligations.PoolsQueuesAndShapersAreSet := by
  unfold Obligations.PoolsQueuesAndShapersAreSet
  refine ⟨?poolSet, ?poolRead, ?queueRead, ?residence, ?shaper⟩
  case poolSet =>
    intro p s r b v done hacc hres
    have hdone := @exec_poolSet_of_poolIf p s
    refine ⟨?half, ?classes, ?port, ?profile, ?handle⟩
    case half =>
      intro hop hstream hspill hbalance hdesc hlane
      exact hdone hacc (bodyPoolSet_of_half (p := asked specPoolSet p) hres hop hstream hspill hbalance hdesc hlane)
    case classes =>
      intro hop hclass hpad hleast
      exact hdone hacc (bodyPoolSet_of_class (p := asked specPoolSet p) hres hop hclass hpad hleast)
    case port =>
      intro hop hport hpad hone hheadroom hleast hmost
      exact hdone hacc (bodyPoolSet_of_port (p := asked specPoolSet p) hres hop hport hpad ⟨hone, hheadroom⟩ hleast hmost)
    case profile =>
      intro hop hprofile hpad hreserve hcells hframes hend
      exact hdone hacc (bodyPoolSet_of_profile (p := asked specPoolSet p) hres hop hprofile hpad hreserve hcells hframes hend)
    case handle =>
      intro hop hleast hmost hpad
      exact serveCmd_ok (body := bodyPoolSet) hacc
        (bodyPoolSet_of_handle (p := asked specPoolSet p) hres hop ⟨hleast, hmost⟩ hpad (upset_of_accepts hacc)) (by decide) (by simp)
  case poolRead =>
    intro p s r h pt x t hacc hhalf hport hres
    have hbody := bodyPoolRead_eq (p := asked specPoolRead p) (s := r) hhalf hport hres
    refine ⟨fun hdark => ?_, fun hpower => ?_⟩
    · exact serveCmd_ok (body := bodyPoolRead) hacc (hbody.trans (congrArg (CmdResult.ok · _) (if_neg (ne_true_of_eq_false hdark)))) (by decide)
        ((length_darkReply r).trans_le (by decide))
    · exact serveCmd_ok (body := bodyPoolRead) hacc (hbody.trans (congrArg (CmdResult.ok · _) (if_pos hpower))) (by decide)
        ((length_poolReply r h pt).trans_le (by decide))
  case queueRead =>
    intro p s r b h k key q cells t hacc hhandle hdefault hclear hres
    exact serveCmd_ok (body := bodyQueueRead) hacc
      (bodyQueueRead_eq (p := asked specQueueRead p) hhandle hdefault hclear hres (upset_of_accepts hacc)) (by decide) (by simp)
  case residence =>
    intro p s r b m hacc hlimits hres
    exact serveCmd_ok (body := bodyResidenceLimitSet) hacc (bodyResidenceLimitSet_eq (p := asked specResidenceLimitSet p) hlimits hres)
      (by decide) (by simp)
  case shaper =>
    intro p s r b h rate burst pt k fits t hacc hres
    have hclean := upset_of_accepts hacc
    refine ⟨?classes, ?stream, ?read⟩
    case classes =>
      intro hop hport hclass hpad hrate hfits
      exact serveCmd_ok (body := bodyShaperSet) hacc
        (bodyShaperSet_of_class (p := asked specShaperSet p) hres hop hport hclass hpad hrate hfits hclean) (by decide) (by simp)
    case stream =>
      intro hop hleast hmost hrate hfits
      refine ⟨fun hzero => ?_, fun hset => ?_⟩
      · exact serveCmd_ok (body := bodyShaperSet) hacc
          (bodyShaperSet_of_remove (p := asked specShaperSet p) hres ⟨hleast, hmost⟩ hop hclean hzero) (by decide) (by simp)
      · have hbody := bodyShaperSet_of_stream (p := asked specShaperSet p) (s := r) hres ⟨hleast, hmost⟩ hop hclean hset hrate hfits
        by_cases hfull : 16384 ≤ r.shapers.length ∧ tmem r.shapers h = false
        · rw [if_pos hfull]
          exact serveCmd_refuse (body := bodyShaperSet) hacc (hbody.trans (if_pos hfull))
        · rw [if_neg hfull]
          exact serveCmd_ok (body := bodyShaperSet) hacc (hbody.trans (if_neg hfull)) (by decide) (by simp)
    case read =>
      intro hop hleast hmost
      have hbody := bodyShaperSet_of_read (p := asked specShaperSet p) (s := r) hres ⟨hleast, hmost⟩ hop
      by_cases hknown : tmem r.shapers h = true
      · rw [if_pos hknown]
        exact serveCmd_ok (body := bodyShaperSet) hacc (hbody.trans (if_pos hknown)) (by decide) (by simp)
      · rw [if_neg hknown]
        exact serveCmd_refuse (body := bodyShaperSet) hacc (hbody.trans (if_neg hknown))

end Sys2Proof.Machine
end

section
/-! PROOF. Spills and refills, the writes of halves, trainings, and the commands of the deep store (spec/08 R287; spec/14 R466-R485). -/

namespace Sys2Proof.Machine

/-! ## SPILL_WRITE (R287, R475) -/

/-- A record that takes the cells of a copy. -/
def stored (c : Copy) (q : SpillRec) : SpillRec := { q with cells := c.cells.length, state := 1 }

/-- The halves of a copy that could not be read are counted. -/
def cellsUnread (h : Nat) (bad : List Nat) (s : State) : State := bad.foldl (fun s _ => memUnc h s) s

/-- The image of a frame goes to the cells of a record, the halves listed in bad poisoned. -/
def imageWritten (q : SpillRec) (bad : List Nat) (x : Frame) (s : State) : State :=
  (List.range q.cells).foldl (fun s j => writeHalves 2 ((spillAddrs s q).getD j 0) (slice (copyImage x) (256 * j) 256)
    ((List.range 8).filter (fun k => bad.contains (8 * j + k))) s) s

/-- A frame's cells are in its record: it is counted, and its copy may return. -/
def spillKept (u h i : Nat) (q : SpillRec) (queue : Nat) (s : State) : State :=
  tryReturn u h (modFrame u (fun x => { x with spillDone := true })
    (gctr 14 h (modQueue queue (fun y => { y with spilled := y.spilled + 1 }) (modDeep (fun d => { d with recs := tput d.recs i q }) s))))

section spill
variable {u h : Nat} (bad : List Nat) {i : Nat} {q : SpillRec} {c : Copy} {s : State} (hclk : s.clk.coreStopped = false)
  (hh : relHalf s (frame s u) = h) (hrec : spillRecOf s u = some (i, q)) (hcopy : copyOf (frame s u) h = some c)
  (hspilled : (frame s u).spilled = true) (hopen : (frame s u).spillDone = false) (hcomplete : c.complete = true)
include hclk hh hrec hcopy hspilled hopen hcomplete

theorem exec_spillWrite_of_down (hdown : (spillAddrs s (stored c q)).all (deepUp s) = false) :
    exec (.spillWrite u bad) s = .next (dropSpilled u (spillFull h (cellsUnread h bad s))) := by
  subst hh
  unfold stored at hdown
  change execSpillWrite u bad s = _
  simp only [execSpillWrite, hclk, hrec, hcopy, hspilled, hopen, hcomplete, hdown, Bool.not_true, Bool.not_false, Bool.or_self, Bool.false_eq_true,
    if_false, if_true]
  rfl

theorem exec_spillWrite_of_up (hup : (spillAddrs s (stored c q)).all (deepUp s) = true) {t : State}
    (ht : spillKept u h i (stored c q) (frame s u).queue (imageWritten (stored c q) bad (frame s u) (cellsUnread h bad s)) = t) :
    exec (.spillWrite u bad) s = .next (if q.gone then freeSpill u t else t) := by
  subst hh ht
  unfold stored at hup
  change execSpillWrite u bad s = _
  simp only [execSpillWrite, hclk, hrec, hcopy, hspilled, hopen, hcomplete, hup, Bool.not_true, Bool.or_self, Bool.false_eq_true, if_false]
  rfl

end spill

/-! ## Writes of halves (R466, R467) -/

/-- A slice that is the whole list. -/
theorem slice_zero_length (b : List Byte) : slice b 0 b.length = b := by
  simp [slice]

theorem writeHalves_of_half (client a : Nat) {b : List Byte} (bad : List Nat) (s : State) (hb : b.length = 32) :
    writeHalves client a b bad s = putBytes64 client true a 32 (modDeep (fun d => { d with
      lanes := tput d.lanes (a / 32) (checkLanes (mapAddr s a).1 ((mapAddr s a).2 / 32) (bad.contains 0) b) }) s) := by
  have hwhole : slice b 0 32 = b := hb ▸ slice_zero_length b
  simp only [writeHalves, hb, Nat.div_self (Nat.succ_pos 31), List.range_one, List.foldl_cons, List.foldl_nil, Nat.mul_zero, Nat.add_zero, hwhole]

/-! ## REFILL_REQUEST and REFILL_RETRY (R287) -/

section refill
variable {fu : Furrow} {inp out k : Nat} {s : State} (hclk : s.clk.coreStopped = false)
include hclk

theorem exec_refillRequest_of_idle (hidle : isolated s (furNo fu) = true ∨ refillDue s (furNo fu) (laneKey inp out k) = none) :
    exec (.refillRequest fu inp out k) s = .next s := by
  change execRefillRequest fu inp out k s = _
  simp only [execRefillRequest, hclk, Bool.false_eq_true, if_false]
  rcases hidle with hisolated | hnone
  · rw [if_pos hisolated]
  · rw [hnone, ite_self]

theorem exec_refillRequest_of_due {u i : Nat} {q : SpillRec} (hreached : isolated s (furNo fu) = false)
    (hdue : refillDue s (furNo fu) (laneKey inp out k) = some u) (hrec : spillRecOf s u = some (i, q)) :
    exec (.refillRequest fu inp out k) s = .next (tryRefill u i q s) := by
  change execRefillRequest fu inp out k s = _
  simp only [execRefillRequest, hclk, hreached, hdue, hrec, Bool.false_eq_true, if_false]

/-- The oldest refill that waits for cells. -/
def waitingRefill (s : State) : Option (Nat × SpillRec) :=
  s.deep.recs.find? (fun e => e.2.state == 2 && (frame s e.2.uid).asks.isNone && refillWaits s e.2.uid 0 && refillWaits s e.2.uid 1)

theorem exec_refillRetry_of_none (hnone : waitingRefill s = none) : exec .refillRetry s = .next s := by
  unfold waitingRefill at hnone
  change execRefillRetry s = _
  simp only [execRefillRetry, hclk, hnone, Bool.false_eq_true, if_false]

theorem exec_refillRetry_of_waiting {i : Nat} {q : SpillRec} (hwaits : waitingRefill s = some (i, q)) :
    exec .refillRetry s = .next (tryRefill q.uid i q (advance usE s)) := by
  unfold waitingRefill at hwaits
  change execRefillRetry s = _
  simp only [execRefillRetry, hclk, hwaits, Bool.false_eq_true, if_false]

end refill

/-! ## DRAM_TRAINING_DONE (R479) -/

section training
variable {t : Training} {s : State} (htraining : s.deep.training = some t) (ok0 ok1 : Bool) (m0 m1 : Nat)
include htraining

theorem trainingDone_of_draining (hstage : t.stage = 1) : trainingDone ok0 ok1 m0 m1 s = s := by
  simp only [trainingDone, htraining, hstage, if_true]

theorem trainingDone_of_trained (hticket : t.ticket = none) (hstage : t.stage ≠ 1) : trainingDone ok0 ok1 m0 m1 s =
    modDeep (fun d => { d with training := none }) (trainChan 1 ok1 m1 (trainChan 0 ok0 m0 s)) := by
  simp only [trainingDone, htraining, hstage, hticket, if_false]

theorem exec_dramTrainingDone_of_draining (hclk : s.clk.coreStopped = false) (hstage : t.stage = 1) :
    exec (.dramTrainingDone ok0 ok1 m0 m1) s = .next s := by
  change execDramTrainingDone ok0 ok1 m0 m1 s = _
  simp only [execDramTrainingDone, hclk, htraining, hstage, Bool.false_eq_true, if_false, if_true]

theorem exec_dramTrainingDone_of_trained (hclk : s.clk.coreStopped = false) (hstage : t.stage ≠ 1) {s1 : State}
    (hs1 : trainingDone ok0 ok1 m0 m1 s = s1) :
    exec (.dramTrainingDone ok0 ok1 m0 m1) s = .next (if s1.dev.relStep = 7 then finishRelease s1 else finishRetrain s1) := by
  change execDramTrainingDone ok0 ok1 m0 m1 s = _
  simp only [execDramTrainingDone, hclk, htraining, hstage, hs1, Bool.false_eq_true, if_false]

end training

/-! ## The commands of the deep store (R482-R485) -/

/-- A description that is to be retained is written to retained memory. -/
def descRetained (c : Nat) (b : List Byte) (s : State) : State :=
  let t := retWrite (0x840 + 64 * c) (slice (Config.dramDescription b) 0 64) s
  { t with ret := { t.ret with descs := tput s.ret.descs c b } }

section commands
variable {p : Packet} {s : State}

theorem bodyDramConfigure_eq (hchecks : ∀ e ∈ dramChecks p.params, e.1 = true) :
    bodyDramConfigure p s =
      if (chan s (byteAt p.params 0)).state = 2 then .refuse stBusy 0
      else .ok [] (if bit (byteAt p.params 5) 1 = true then descRetained (byteAt p.params 0) p.params (dramSet (byteAt p.params 0) p.params s)
        else dramSet (byteAt p.params 0) p.params s) :=
  checked_of_none _ (firstBad_of_all hchecks)

theorem bodyDramTrain_eq (hmask : byteAt p.params 0 < 4) (hres : reservedAt p.params 1 3 = true) :
    bodyDramTrain p s =
      if s.deep.training.isSome = true then .refuse stBusy 0
      else if (bitList 2 (byteAt p.params 0)).any (fun c => (chan s c).state == 0) = true then .conflict
      else .accepted (startTraining (byteAt p.params 0) (some (ticketFor specDramTrain p)) s) := by
  refine checked_of_none _ ?_
  simp [firstBad, hmask, hres]

section map
variable (hgrain : 8 ≤ byteAt p.params 0 ∧ byteAt p.params 0 ≤ 16) (hres : reservedAt p.params 1 3 = true)
include hgrain hres

theorem bodyDramMapSet_of_absent (hfirst : (chan s 0).state = 0) (hsecond : (chan s 1).state = 0) : bodyDramMapSet p s = .conflict := by
  simp [bodyDramMapSet, checked, firstBad, hgrain, hres, hfirst, hsecond]

/-- The map of two trained channels: none of their regions is enabled any more. -/
def bothMapped (grain : Nat) (s : State) : State :=
  modDeep (fun d => { d with
    grain := some grain, map0 := chanSize s.deep.ch0, map1 := chanSize s.deep.ch1, enables := 0
    ch0 := { d.ch0 with mapped := chanReady d.ch0 }, ch1 := { d.ch1 with mapped := chanReady d.ch1 }
    init := d.init.map (fun y => (y.1, y.2.1, 0, y.2.2.2)) }) s

theorem bodyDramMapSet_of_trained (hfirst : chanReady (chan s 0) = true) (hsecond : chanReady (chan s 1) = true) :
    bodyDramMapSet p s = .ok (toLE 8 (chanSize s.deep.ch0 + chanSize s.deep.ch1) ++ toLE 8 (2 * min (chanSize s.deep.ch0) (chanSize s.deep.ch1)))
      (bothMapped (byteAt p.params 0) s) := by
  have hpresent : (chan s 0).state ≠ 0 := fun h => by simp [chanReady, h] at hfirst
  have hsize0 : readySize s.deep.ch0 = chanSize s.deep.ch0 := if_pos hfirst
  have hsize1 : readySize s.deep.ch1 = chanSize s.deep.ch1 := if_pos hsecond
  simp [bodyDramMapSet, checked, firstBad, hgrain, hres, hfirst, hsecond, hpresent, hsize0, hsize1, bothMapped]

end map

/-- The Gleaner's region is the only one, and is initialised. -/
def gleanerRegion (p : Packet) (s : State) : State :=
  modDeep (fun d => { d with
    enables := 0, gleanBase := le p.params 8 8, gleanSize := le p.params 16 8
    init := some (s.clk.edges, le p.params 16 8, 4, ticketFor specDeepStoreSet p) }) s

theorem bodyDeepStoreSet_of_gleaner (hop : byteAt p.params 0 = 0) (hres : reservedAt p.params 1 3 = true) (hpad : reservedAt p.params 5 3 = true)
    (honly : byteAt p.params 4 = 4) (haligned : le p.params 8 8 % 2 ^ 20 = 0)
    (hinside : s.deep.grain.isSome = true → le p.params 8 8 + le p.params 16 8 ≤ deepSize s)
    (hsize : ∃ k, 13 ≤ k ∧ k ≤ 26 ∧ le p.params 16 8 = 128 * 2 ^ k) :
    bodyDeepStoreSet p s =
      if s.deep.init.isSome = true then .refuse stBusy 0
      else if s.deep.grain.isNone = true then .conflict
      else .accepted (gleanerRegion p s) := by
  have hfits : (s.deep.grain.isNone || decide (le p.params 8 8 + le p.params 16 8 ≤ deepSize s)) = true := by
    cases hgrain : s.deep.grain <;> simp_all
  have hpower : (List.range 14).any (fun i => le p.params 16 8 == 128 * 2 ^ (i + 13)) = true := by
    obtain ⟨k, hleast, hmost, hk⟩ := hsize
    exact List.any_eq_true.mpr ⟨k - 13, List.mem_range.mpr (by omega), by rw [hk, Nat.sub_add_cancel hleast, beq_self_eq_true]⟩
  have hbit0 : bit 4 0 = false := by decide
  have hbit1 : bit 4 1 = false := by decide
  have hbit2 : bit 4 2 = true := by decide
  simp only [bodyDeepStoreSet, honly, hbit0, hbit1, hbit2, if_true, Bool.false_eq_true, if_false]
  refine checked_of_none _ ?_
  simpa [firstBad, hop, hres, hpad, hfits, hpower] using haligned

theorem bodyDramStatus_eq (hchan : byteAt p.params 0 < 2) (hres : reservedAt p.params 1 3 = true) {u : State} {x : Chan}
    (hu : syncDram (byteAt p.params 0) s = u) (hx : chan u (byteAt p.params 0) = x) :
    bodyDramStatus p s = .ok (toLE 1 x.state ++ toLE 1 x.cause ++ toLE 2 x.margin ++ toLE 8 (chanSize x) ++
      toLE 4 (tget 0 s.memErr (2 * (35 + byteAt p.params 0))) ++ toLE 4 (tget 0 s.memErr (2 * (35 + byteAt p.params 0) + 1)) ++ toLE 4 x.faults ++
      toLE 4 x.poisonReads ++ toLE 4 x.refillDrops ++ toLE 4 x.copyErrors ++ toLE 4 x.throttles ++ toLE 4 x.passes ++
      toLE 2 s.deep.recs.length ++ zeros 2) u := by
  subst hu hx
  refine checked_of_none _ ?_
  simp [firstBad, hchan, hres]

end commands

/-- Settles O59: clause by clause, what each command does in the case that the clause names. -/
theorem spillsRefillAndDramCommandsAct : Obligations.SpillsRefillAndDramCommandsAct := by
  unfold Obligations.SpillsRefillAndDramCommandsAct
  refine ⟨?spill, ?half, ?refill, ?retry, ?trained, ?done, ?configure, ?train, ?map, ?store, ?status⟩
  case spill =>
    intro u bad i q c s hclk x h q1 s0 hrec hcopy hspilled hopen hcomplete
    refine ⟨exec_spillWrite_of_down bad hclk rfl hrec hcopy hspilled hopen hcomplete, ?_⟩
    intro hup s1 s2
    have hwrite := exec_spillWrite_of_up bad hclk rfl hrec hcopy hspilled hopen hcomplete hup (t := s2) rfl
    exact ⟨fun hheld => hwrite.trans (congrArg _ (if_neg (ne_true_of_eq_false hheld))), fun hgone => hwrite.trans (congrArg _ (if_pos hgone))⟩
  case half => exact fun client a b bad s hb => writeHalves_of_half client a bad s hb
  case refill =>
    intro fu inp out k s hclk due
    exact ⟨exec_refillRequest_of_idle hclk, fun u i q => exec_refillRequest_of_due hclk⟩
  case retry =>
    intro s hclk waits
    exact ⟨exec_refillRetry_of_none hclk, fun i q => exec_refillRetry_of_waiting hclk⟩
  case trained =>
    intro t ok0 ok1 m0 m1 s htraining hticket
    exact ⟨trainingDone_of_trained htraining ok0 ok1 m0 m1 hticket, trainingDone_of_draining htraining ok0 ok1 m0 m1⟩
  case done =>
    intro t ok0 ok1 m0 m1 s hclk htraining s1
    exact ⟨fun hstage => exec_dramTrainingDone_of_trained htraining ok0 ok1 m0 m1 hclk hstage rfl,
      exec_dramTrainingDone_of_draining htraining ok0 ok1 m0 m1 hclk⟩
  case configure =>
    intro p s r b c s1 s2 hacc hretrain hchecks
    have hbody := (unlessRetrain_of_none hretrain).trans (bodyDramConfigure_eq (p := asked specDramConfigure p) (s := r) hchecks)
    refine ⟨fun hbusy => ?_, fun hidle hforget => ?_, fun hidle hkeep => ?_⟩
    · exact serveCmd_refuse hacc (hbody.trans (if_pos hbusy))
    · exact serveCmd_ok hacc (hbody.trans ((if_neg hidle).trans (congrArg (CmdResult.ok _) (if_neg (ne_true_of_eq_false hforget)))))
        (by decide) (by simp)
    · exact serveCmd_ok hacc (hbody.trans ((if_neg hidle).trans (congrArg (CmdResult.ok _) (if_pos hkeep)))) (by decide) (by simp)
  case train =>
    intro p s r m absent hacc hretrain hmask hres
    have hbody := (unlessRetrain_of_none hretrain).trans (bodyDramTrain_eq (p := asked specDramTrain p) (s := r) hmask hres)
    refine ⟨fun hbusy => ?_, fun hidle habsent => ?_, fun hidle hpresent => ?_⟩
    · exact serveCmd_refuse hacc (hbody.trans (if_pos hbusy))
    · have hfree : ¬ r.deep.training.isSome = true := by simp [hidle]
      exact congrArg Host.Outcome.next (serve_conflict hacc (hbody.trans ((if_neg hfree).trans (if_pos habsent))))
    · have hfree : ¬ r.deep.training.isSome = true := by simp [hidle]
      exact congrArg Host.Outcome.next
        (serve_accepted hacc (hbody.trans ((if_neg hfree).trans (if_neg (ne_true_of_eq_false hpresent)))))
  case map =>
    intro p s r b st on hacc hretrain hleast hmost hres m0 m1
    refine ⟨fun hfirst hsecond => ?_, fun hfirst hsecond => ?_⟩
    · exact congrArg Host.Outcome.next (serve_conflict hacc ((unlessRetrain_of_none hretrain).trans
        (bodyDramMapSet_of_absent (p := asked specDramMapSet p) ⟨hleast, hmost⟩ hres hfirst hsecond)))
    · exact serveCmd_ok hacc ((unlessRetrain_of_none hretrain).trans
        (bodyDramMapSet_of_trained (p := asked specDramMapSet p) ⟨hleast, hmost⟩ hres hfirst hsecond)) (by decide) (by simp)
  case store =>
    intro p s r b size base hacc hretrain hop hres hpad honly haligned hinside hsize
    have hbody := (unlessRetrain_of_none hretrain).trans
      (bodyDeepStoreSet_of_gleaner (p := asked specDeepStoreSet p) (s := r) hop hres hpad honly haligned hinside hsize)
    refine ⟨fun hbusy => ?_, fun hidle hnone => ?_, fun hidle hmapped => ?_⟩
    · exact serveCmd_refuse hacc (hbody.trans (if_pos hbusy))
    · have hfree : ¬ r.deep.init.isSome = true := by simp [hidle]
      exact congrArg Host.Outcome.next (serve_conflict hacc (hbody.trans ((if_neg hfree).trans (if_pos (Option.isNone_iff_eq_none.mpr hnone)))))
    · have hfree : ¬ r.deep.init.isSome = true := by simp [hidle]
      have hmap : ¬ r.deep.grain.isNone = true := by simpa [Option.isSome_iff_ne_none] using hmapped
      exact congrArg Host.Outcome.next (serve_accepted hacc (hbody.trans ((if_neg hfree).trans (if_neg hmap))))
  case status =>
    intro p s r c u x hacc hretrain hchan hres
    exact serveCmd_ok hacc ((unlessRetrain_of_none hretrain).trans (bodyDramStatus_eq (p := asked specDramStatus p) hchan hres rfl rfl))
      (by decide) (by simp)

end Sys2Proof.Machine
end

section
/-! PROOF. A cell time in which no head asks to cross (spec/09 R300, R301). -/

namespace Sys2Proof.Machine

/-! ## No request, no connection -/

@[simp] theorem fur_modFur_same (f : Nat) (g : FurrowSt → FurrowSt) (s : State) : fur (modFur f g s) f = g (fur s f) := by
  unfold fur modFur
  split <;> rfl

@[simp] theorem matchStep_nil (s : State) (x : Crossbar) : matchStep s x [] = [] := rfl

@[simp] theorem leftOver_nil (cs : List (List Req)) : leftOver [] cs = [] := rfl

/-- The words of the cell time before have crossed, and a cell time without requests adds none (R301). -/
theorem crossbarMatch_link_of_idle {f : Nat} (bad : List (Nat × Nat)) {s : State} (hlive : live s f = true)
    (hidle : requests (reachEdge (fur s f).xb.at_ s) f = []) : (fur (crossbarMatch f bad s) f).xb.link = [] := by
  simp [crossbarMatch, hlive, hidle]

theorem exec_crossbarMatch (fu : Furrow) (bad : List (Nat × Nat)) {s : State} (hclk : s.clk.coreStopped = false) :
    exec (.crossbarMatch fu bad) s = .next (crossbarMatch (furNo fu) bad s) := by
  change execCrossbarMatch fu bad s = _
  simp only [execCrossbarMatch, hclk, Bool.false_eq_true, if_false]

/-! ## The cell time after the last word of a frame -/

/-- Furrow A is live, the last word of frame 1 crossed in the cell time before, and no lane has an entry. -/
def lastWordCrossed : State :=
  { State.reset with
    clk := { State.reset.clk with coreRunning := true }
    fa := { State.reset.fa with released := true, xb := { State.reset.fa.xb with link := [{ out := 0, uid := 1, id := 0, word := 1, tag := 2 ^ 14 }] } } }

/-- Refutes O38: in its second clause the words that crossed in one cell time are still there after the next, where a parity error poisons the words
of its own drill clock alone (R300): the model begins every cell time without words. (The clause also leaves out the class of TC0 to TC4 that each
input remembers to have offered, R302.) -/
theorem not_theCrossbarMatchesOneToOne : ¬ Obligations.TheCrossbarMatchesOneToOne := by
  unfold Obligations.TheCrossbarMatchesOneToOne
  rintro ⟨-, hcell, -⟩
  have hclk : lastWordCrossed.clk.coreStopped = false := by decide +kernel
  have hlive : live lastWordCrossed 0 = true := by decide +kernel
  have hidle : requests (reachEdge (fur lastWordCrossed 0).xb.at_ lastWordCrossed) 0 = [] :=
    List.eq_nil_of_length_eq_zero (by decide +kernel)
  have hkept := hcell .a [] lastWordCrossed hclk hlive
  rw [exec_crossbarMatch .a [] hclk, Host.Outcome.next.injEq] at hkept
  have hcleared := crossbarMatch_link_of_idle [] hlive hidle
  rw [show crossbarMatch 0 [] lastWordCrossed = _ from hkept] at hcleared
  exact absurd hcleared (by decide +kernel)

end Sys2Proof.Machine
end

section
/-! PROOF. The Gleaner's transfers, records, freeze and copies, and the grace of mirror copies (spec/09 R310; spec/13 R437-R447). -/

namespace Sys2Proof.Machine

/-! ## Header transfers (R310) -/

section transfers
variable {fu : Furrow} {u : Nat} {c : Copy} {s : State} (hclk : s.clk.coreStopped = false)
  (hcopy : copyOf (frame s u) (furNo fu) = some c) (htransfer : c.transfer = true)

include hcopy htransfer in
theorem xferDue_of_copy : xferDue s (furNo fu) u = (decOf (frame s u) (furNo fu)).isSome := by
  simp only [xferDue, hcopy, htransfer, Bool.true_and]

include hclk hcopy htransfer

theorem exec_headerTransfer_of_granted (hdecided : (decOf (frame s u) (furNo fu)).isSome = true) (hgranted : c.granted = true)
    (hlive : live s (furNo fu) = true) :
    exec (.headerTransfer fu u) s = .next (tryReturn u (furNo fu) (modCopy u (furNo fu) (fun c => { c with transfer := false, granted := false })
      (modGle (fun g => { g with input := g.input ++ [xferOf s (furNo fu) u] }) s))) := by
  change execHeaderTransfer fu u s = _
  simp [execHeaderTransfer, headerTransfer, hclk, hcopy, hlive, hgranted, xferDue_of_copy hcopy htransfer, hdecided]

theorem exec_headerTransfer_of_waiting (hwaits : c.granted = false ∨ live s (furNo fu) = false ∨ decOf (frame s u) (furNo fu) = none) :
    exec (.headerTransfer fu u) s = .next s := by
  change execHeaderTransfer fu u s = _
  rcases hwaits with h | h | h <;> simp [execHeaderTransfer, headerTransfer, hclk, hcopy, xferDue_of_copy hcopy htransfer, h]

theorem exec_headerTransferTimeout_of_ungranted (hdecided : (decOf (frame s u) (furNo fu)).isSome = true) (hungranted : c.granted = false) :
    exec (.headerTransferTimeout fu u) s = .next (fireFurMs (furNo fu) (xBase (furNo fu) + 3) 0 [] (xctr 16 1 (furNo fu) (tryReturn u (furNo fu)
      (modCopy u (furNo fu) (fun c => { c with transfer := false }) (reachEdge (c.decidedAt + usE) s))))) := by
  change execHeaderTransferTimeout fu u s = _
  simp [execHeaderTransferTimeout, hclk, hcopy, xferDue_of_copy hcopy htransfer, hdecided, hungranted]

theorem exec_headerTransferTimeout_of_settled (hsettled : c.granted = true ∨ decOf (frame s u) (furNo fu) = none) :
    exec (.headerTransferTimeout fu u) s = .next s := by
  change execHeaderTransferTimeout fu u s = _
  rcases hsettled with h | h <;> simp [execHeaderTransferTimeout, hclk, hcopy, xferDue_of_copy hcopy htransfer, h]

end transfers

/-! ## Pairing (R437, R439, R442, R444) -/

/-- The record that is open for the pair of a transfer. -/
def openRecord (x : GlXfer) (s : State) : Option GlRec := s.gle.recs.find? (fun r => r.x.port == x.port && r.x.tag == x.tag)

/-- The pair of a transfer was opened within the last 200 us. -/
def pairRemembered (x : GlXfer) (s : State) : Bool :=
  s.gle.recent.any (fun r => r.1 == x.port && r.2.1 == x.tag && decide (s.clk.edges < r.2.2 + 200 * usE))

section pairing
variable {x : GlXfer} {s : State}

theorem exec_gleanerTransferArrival_of_input {rest : List GlXfer} (hclk : s.clk.coreStopped = false) (hinput : s.gle.input = x :: rest) :
    exec .gleanerTransferArrival s = .next (pairXfer x (modGle (fun g => { g with
      input := rest, inAt := paceNext g.inAt 625 (reachEdge (paceEdge s.gle.inAt) s) }) (reachEdge (paceEdge s.gle.inAt) s))) := by
  change execGleanerTransferArrival s = _
  simp only [execGleanerTransferArrival, hclk, hinput, Bool.false_eq_true, if_false]

theorem pairXfer_of_second {r : GlRec} (hopen : openRecord x s = some r) (hlate : r.built = true ∨ x.fur ≠ x.lead) : pairXfer x s = s := by
  unfold openRecord at hopen
  rcases hlate with h | h <;> simp [pairXfer, hopen, h]

theorem pairXfer_of_lead {r : GlRec} (hopen : openRecord x s = some r) (hunbuilt : r.built = false) (hlead : x.fur = x.lead) :
    pairXfer x s = modGle (fun g => { g with
      recs := g.recs.map (fun y => if y.seq == r.seq then { y with x := joinXfer y.x x, built := true } else y) }) s := by
  unfold openRecord at hopen
  simp [pairXfer, hopen, hunbuilt, hlead]

theorem pairXfer_of_remembered (hnone : openRecord x s = none) (hremembered : pairRemembered x s = true) : pairXfer x s = s := by
  unfold openRecord at hnone
  unfold pairRemembered at hremembered
  simp only [pairXfer, hnone, hremembered, if_true]

/-- A new pair, by the state of the ring. -/
theorem pairXfer_of_new (hnone : openRecord x s = none) (hnew : pairRemembered x s = false) :
    pairXfer x s = let t := remember x s
      if s.gle.state = 2 then openPair x t
      else if s.gle.state = 3 ∨ s.gle.state = 4 then
        if s.gle.tg + s.gle.postTime * 1000000 < x.ns then glCtr 7 t
        else if s.gle.state = 3 ∧ s.gle.freezeCause = 0 then openPair x t else t
      else if s.gle.state = 5 then glCtr 7 t
      else t := by
  unfold openRecord at hnone
  unfold pairRemembered at hnew
  simp only [pairXfer, hnone, hnew, Bool.false_eq_true, if_false, Bool.or_eq_true, Bool.and_eq_true, decide_eq_true_eq]

end pairing

/-! ## Opening a record (R439, R440, R442, R444) -/

/-- The next SEQUENCE is taken. -/
def sequenceTaken (s : State) : State := modGle (fun g => { g with seq := (g.seq + 1) % 2 ^ 48 }) s

/-- The end of an opening: a triggered ring freezes at half its size, and a full one stops. -/
def openingEnded (t : State) : State :=
  stopFull (if t.gle.state = 3 ∧ t.gle.freezeCause = 0 ∧ t.gle.trigSeq + ringRecords t / 2 ≤ t.gle.seq then freeze 2 t else t)

section opening
variable (x : GlXfer) {s : State}

theorem openPair_of_noRoom (hfull : stageRoom (sequenceTaken s) = none) :
    openPair x s = openingEnded (fireMs 0 0x382 0x01 [] (glCtr 1 (sequenceTaken s))) := by
  unfold sequenceTaken at hfull
  simp only [openPair, hfull, openingEnded, Bool.and_eq_true, decide_eq_true_eq, and_assoc]
  rfl

theorem openPair_of_room {v : State} (hroom : stageRoom (sequenceTaken s) = some v) :
    openPair x s = openingEnded (modGle (fun g => { g with
      recs := g.recs ++ [{ x := x, seq := some s.gle.seq, opened := v.clk.edges, built := decide (x.fur = x.lead) }] }) v) := by
  unfold sequenceTaken at hroom
  simp only [openPair, hroom, openingEnded, Bool.and_eq_true, decide_eq_true_eq, and_assoc]
  rfl

theorem stopFull_of_full (hstate : s.gle.state = 2) (hmode : s.gle.mode = 1) (hfull : ringRecords s ≤ s.gle.seq) :
    stopFull s = if s.gle.fullReported then modGle (fun g => { g with state := 5, fullReported := true }) s
      else fire 0x380 0x02 [] (modGle (fun g => { g with state := 5, fullReported := true }) s) := by
  simp [stopFull, hstate, hmode, hfull]

theorem stopFull_of_not_full (h : ¬(s.gle.state = 2 ∧ s.gle.mode = 1 ∧ ringRecords s ≤ s.gle.seq)) : stopFull s = s := by
  refine if_neg ?_
  simpa [and_assoc] using h

end opening

/-! ## Records built, released and written (R437, R440, R441) -/

section records
variable {sq : Nat} {r : GlRec} {s : State} (hclk : s.clk.coreStopped = false)
include hclk

theorem exec_gleanerPairTimeout_of_unbuilt (hrec : s.gle.recs.find? (fun r => r.seq == some sq && !r.built) = some r) :
    exec (.gleanerPairTimeout sq) s = .next (glCtr 3 (modGle (fun g => { g with
      recs := g.recs.map (fun y => if y.seq == some sq then { y with built := true } else y) }) (reachEdge (r.opened + 10 * usE) s))) := by
  change execGleanerPairTimeout sq s = _
  simp only [execGleanerPairTimeout, hclk, hrec, Bool.false_eq_true, if_false]

theorem exec_gleanerRecordRelease_of_held (hrec : s.gle.recs.find? (fun r => r.seq == some sq) = some r)
    (hheld : r.built = false ∨ ∃ y ∈ s.gle.recs, y.x.port = r.x.port ∧ y.seq.getD 0 < sq) : exec (.gleanerRecordRelease sq) s = .next s := by
  change execGleanerRecordRelease sq s = _
  simp only [execGleanerRecordRelease, hclk, hrec, Bool.false_eq_true, if_false]
  exact if_pos (by simpa using hheld)

theorem exec_gleanerRecordRelease_of_first (hrec : s.gle.recs.find? (fun r => r.seq == some sq) = some r) (hbuilt : r.built = true)
    (hfirst : ∀ y ∈ s.gle.recs, y.x.port = r.x.port → sq ≤ y.seq.getD 0) :
    exec (.gleanerRecordRelease sq) s = .next (releaseRec r (reachEdge (if releasable s r s.clk.edges then s.clk.edges
      else if (recLength s r).isSome then r.opened + s.gle.verdictWait * usE else r.opened + msE) s)) := by
  change execGleanerRecordRelease sq s = _
  simp only [execGleanerRecordRelease, hclk, hrec, Bool.false_eq_true, if_false]
  exact if_neg (by simpa [hbuilt] using hfirst)

theorem exec_gleanerRecordWrite_of_staged (ok : Bool) (hstaged : s.gle.outq ≠ []) :
    exec (.gleanerRecordWrite ok) s = .next (writeRecord ok (reachEdge (paceEdge s.gle.outAt) s)) := by
  change execGleanerRecordWrite ok s = _
  have hne : s.gle.outq.isEmpty = false := by simpa using hstaged
  simp only [execGleanerRecordWrite, hclk, hne, Bool.false_eq_true, if_false]

end records

/-- The record at the front of the writer's queue leaves it. -/
def recordDequeued (rest : List (Nat × List Byte)) (s : State) : State :=
  modGle (fun g => { g with outq := rest, outAt := paceNext g.outAt 1250 s }) s

section writing
variable {sq : Nat} {b : List Byte} {rest : List (Nat × List Byte)} {s : State} (hstaged : s.gle.outq = (sq, b) :: rest) {ok : Bool}
include hstaged

theorem writeRecord_of_accepted (hok : ok = true) (hregion : glRegion s = true)
    (hup : deepUp s (s.deep.gleanBase + 128 * (sq % max 1 (ringRecords s))) = true) :
    writeRecord ok s = writeHalves 4 (s.deep.gleanBase + 128 * (sq % max 1 (ringRecords s))) b []
      (glCtr 0 (modGle (fun g => { g with slots := tput g.slots (sq % max 1 (ringRecords s)) b }) (recordDequeued rest s))) := by
  simp only [writeRecord, hstaged, hok, hregion, hup, Bool.and_self, if_true]
  rfl

theorem writeRecord_of_refused
    (hlost : ok = false ∨ glRegion s = false ∨ deepUp s (s.deep.gleanBase + 128 * (sq % max 1 (ringRecords s))) = false) :
    writeRecord ok s = fireMs 0 0x382 0x01 [] (glCtr 1 (recordDequeued rest s)) := by
  have hrefused : ¬(ok && glRegion s && deepUp s (s.deep.gleanBase + 128 * (sq % max 1 (ringRecords s)))) = true := by
    rcases hlost with h | h | h <;> simp [h]
  simp only [writeRecord, hstaged, if_neg hrefused]
  rfl

end writing

/-! ## Freeze, initialisation and copies (R439, R444, R445) -/

section ring
variable {s : State} (hclk : s.clk.coreStopped = false)
include hclk

theorem exec_gleanerFreeze_of_triggered (hstate : s.gle.state = 3) (hcause : s.gle.freezeCause = 0) :
    exec .gleanerFreeze s = .next (freeze 1 (reachNs (s.gle.tg + s.gle.postTime * 1000000 + 100000) s)) := by
  change execGleanerFreeze s = _
  simp [execGleanerFreeze, hclk, hstate, hcause]

theorem exec_gleanerFrozen_of_drained (hstate : s.gle.state = 3) (hcause : s.gle.freezeCause ≠ 0) (hrecs : s.gle.recs = [])
    (houtq : s.gle.outq = []) :
    exec .gleanerFrozen s =
      .next (fire 0x380 0x03 (toLE 6 s.gle.freezeSeq ++ toLE 1 s.gle.freezeCause) (modGle (fun g => { g with state := 4 }) s)) := by
  change execGleanerFrozen s = _
  simp [execGleanerFrozen, hclk, hstate, hcause, hrecs, houtq]

theorem exec_gleanerFreeze_of_untriggered (hstate : s.gle.state ≠ 3) : exec .gleanerFreeze s = .next s := by
  change execGleanerFreeze s = _
  simp [execGleanerFreeze, hclk, hstate]

theorem exec_gleanerFrozen_of_untriggered (hstate : s.gle.state ≠ 3) : exec .gleanerFrozen s = .next s := by
  change execGleanerFrozen s = _
  simp [execGleanerFrozen, hclk, hstate]

theorem exec_gleanerInitComplete_of_initialising (hstate : s.gle.state = 1) {e : State}
    (he : reachEdge (s.gle.initAt + ceilDiv (s.deep.gleanSize * 5) 8) s = e) :
    exec .gleanerInitComplete s = .next (e.gle.initTickets.foldl (fun s t => complete t stOk [] s)
      (fire 0x380 0x01 [] (modGle (fun g => { g with state := if g.enable then 2 else 0, initTickets := [] }) e))) := by
  subst he
  change execGleanerInitComplete s = _
  simp only [execGleanerInitComplete, hclk, hstate, bne_self_eq_false, Bool.false_eq_true, if_false]

/-- The SEQUENCEs of a copy whose records cannot be read: those listed, and those on a channel that is down. -/
def copyLost (c : GlCopy) (bad : List Nat) (s : State) : List Nat :=
  ((List.range c.count).map (fun i => c.first + i)).filter (fun q => bad.contains q || !deepHolds s (slotAddr s q))

/-- Each record that a copy lost counts against its channel. -/
def copyErrorsCounted (lost : List Nat) (s : State) : State :=
  lost.foldl (fun s q => modChan (mapAddr s (slotAddr s q)).1 (fun x => { x with copyErrors := wrap32 (x.copyErrors + 1) }) s) s

theorem exec_gleanerCopyDone_of_copying {c : GlCopy} {rest : List GlCopy} (bad : List Nat) (hcopies : s.gle.copies = c :: rest) {t : State}
    (ht : reachEdge (c.startedAt + ceilDiv (c.count * 128 * 5) 8) s = t) {lost : List Nat} (hlost : copyLost c bad t = lost) :
    exec (.gleanerCopyDone bad) s = .next (complete c.ticket stOk (glHeader t c.first c.count c.startSeq) (copyStarts
      (emitOut (.hostWrite c.addr (glHeader t c.first c.count c.startSeq ++
          ((List.range c.count).map (fun i => c.first + i)).flatMap (copyRecord t lost)))
        (modGle (fun g => { g with copies := rest }) (copyErrorsCounted lost t))))) := by
  subst ht hlost
  change execGleanerCopyDone bad s = _
  simp only [execGleanerCopyDone, hclk, hcopies, Bool.false_eq_true, if_false]
  rfl

end ring

theorem copyStarts_nil {s : State} (hcopies : s.gle.copies = []) : copyStarts s = s := by
  simp only [copyStarts, hcopies]

theorem copyStarts_cons {c : GlCopy} {rest : List GlCopy} {s : State} (hcopies : s.gle.copies = c :: rest) :
    copyStarts s = (List.range c.count).foldl (fun s i => putBytes64 5 false (slotAddr s (c.first + i)) 128 s)
      (modGle (fun g => { g with copies := { c with startSeq := s.gle.seq, startedAt := s.clk.edges } :: rest }) s) := by
  simp only [copyStarts, hcopies]

/-! ## The grace of mirror copies (R447) -/

/-- A lane entry is a copy of a frame for a session that has not begun to cross. -/
def mirrorAwaits (i u : Nat) (e : Entry) : Bool :=
  e.uid == u && e.moved == 0 && (match e.mirror with | some (j, _) => j == i | none => false)

/-- A frame has lane entries besides those of its mirror copies. -/
def otherEntries (u : Nat) (s : State) : Prop := ∃ f ∈ [0, 1], ∃ l ∈ (fur s f).lanes, ∃ y ∈ l.2, y.uid = u ∧ y.mirror = none

/-- The copy of a session that has not begun to cross leaves its lane in furrow f, as a drop. -/
def mirrorCopyTaken (i u : Nat) (s : State) (f : Nat) : State :=
  match (fur s f).lanes.findSome? (fun l => (l.2.find? (mirrorAwaits i u)).map (fun e => (l.1, e))) with
  | none => s
  | some (key, e) => mirrorDrop i (tryReturn u e.half (modCopy u e.half (fun c => { c with fanout := c.fanout - 1 })
      (setLane f key ((laneOf s f key).filter (fun y => !mirrorAwaits i u y)) s)))

section grace
variable (i : Nat) {u : Nat} {s : State} (hclk : s.clk.coreStopped = false)

theorem otherEntries_iff : ([0, 1].any (fun f => (fur s f).lanes.any (fun e => e.2.any (fun y => y.uid == u && y.mirror.isNone)))) = true ↔
    otherEntries u s := by
  simp [otherEntries]

include hclk

theorem exec_mirrorGraceExpiry_of_kept (hkept : (frame s u).class_ < 5 ∨ otherEntries u s) : exec (.mirrorGraceExpiry i u) s = .next s := by
  change execMirrorGraceExpiry i u s = _
  simp only [execMirrorGraceExpiry, hclk, Bool.false_eq_true, if_false]
  exact if_pos (by rwa [Bool.or_eq_true, decide_eq_true_eq, otherEntries_iff])

theorem exec_mirrorGraceExpiry_of_alone (hclass : 5 ≤ (frame s u).class_) (halone : ¬ otherEntries u s) :
    exec (.mirrorGraceExpiry i u) s =
      .next ([0, 1].foldl (mirrorCopyTaken i u) (reachEdge ((frame s u).restGone.getD s.clk.edges + 20 * usE) s)) := by
  change execMirrorGraceExpiry i u s = _
  simp only [execMirrorGraceExpiry, hclk, Bool.false_eq_true, if_false]
  exact if_neg (by rw [Bool.or_eq_true, decide_eq_true_eq, otherEntries_iff]; exact not_or.mpr ⟨Nat.not_lt.mpr hclass, halone⟩)

end grace

/-- Settles O55: clause by clause, what each command does in the case that the clause names. -/
theorem theGleanerStagesReleasesAndFreezes : Obligations.TheGleanerStagesReleasesAndFreezes := by
  unfold Obligations.TheGleanerStagesReleasesAndFreezes
  refine ⟨?transfer, ?arrival, ?opening, ?full, ?timeout, ?release, ?write, ?freeze, ?init, ?copy, ?starts, ?grace⟩
  case transfer =>
    intro fu u c s hclk f s1 hcopy htransfer
    exact ⟨exec_headerTransfer_of_granted hclk hcopy htransfer, exec_headerTransfer_of_waiting hclk hcopy htransfer,
      exec_headerTransferTimeout_of_ungranted hclk hcopy htransfer, exec_headerTransferTimeout_of_settled hclk hcopy htransfer⟩
  case arrival =>
    intro x rest s hclk e s0 late hinput
    have harrival : exec .gleanerTransferArrival s = .next (pairXfer x s0) := exec_gleanerTransferArrival_of_input hclk hinput
    refine ⟨fun r hopen => ⟨fun hsecond => ?_, fun hunbuilt hlead => ?_⟩, fun hnone => ⟨fun hremembered => ?_, fun hnew => ?_⟩⟩
    · exact harrival.trans (congrArg _ (pairXfer_of_second hopen hsecond))
    · exact harrival.trans (congrArg _ (pairXfer_of_lead hopen hunbuilt hlead))
    · exact harrival.trans (congrArg _ (pairXfer_of_remembered hnone hremembered))
    · have hpair := harrival.trans (congrArg _ (pairXfer_of_new hnone hnew))
      have hwindow : late ↔ s0.gle.tg + s0.gle.postTime * 1000000 < x.ns := Iff.rfl
      refine ⟨fun hrecording => ?_, fun htriggered hlate => ?_, fun htriggered hintime hunfrozen => ?_, fun hfrozen hintime => ?_,
        fun hstopped => ?_, fun hoff => ?_⟩
      · exact hpair.trans (congrArg _ (if_pos hrecording))
      · exact hpair.trans (congrArg _ (by rw [if_neg (by omega), if_pos htriggered, if_pos (hwindow.mp hlate)]))
      · exact hpair.trans (congrArg _ (by rw [if_neg (by omega), if_pos (.inl htriggered), if_neg (mt hwindow.mpr hintime),
          if_pos ⟨htriggered, hunfrozen⟩]))
      · exact hpair.trans (congrArg _ (by rw [if_neg (by omega), if_pos (by omega), if_neg (mt hwindow.mpr hintime), if_neg (by omega)]))
      · exact hpair.trans (congrArg _ (by rw [if_neg (by omega), if_neg (by omega), if_pos hstopped]))
      · exact hpair.trans (congrArg _ (by rw [if_neg (by omega), if_neg (by omega), if_neg (by omega)]))
  case opening =>
    intro x s s1 done
    exact ⟨openPair_of_noRoom x, fun v => openPair_of_room x⟩
  case full =>
    intro s full t
    exact ⟨fun ⟨hstate, hmode, hfull⟩ => stopFull_of_full hstate hmode hfull, stopFull_of_not_full⟩
  case timeout =>
    intro sq s r hclk hrec
    exact exec_gleanerPairTimeout_of_unbuilt hclk hrec
  case release =>
    intro sq s r hclk hrec
    exact ⟨exec_gleanerRecordRelease_of_held hclk hrec, exec_gleanerRecordRelease_of_first hclk hrec⟩
  case write =>
    intro ok sq b rest s0 hclk s slot a s1 hstaged
    have hexec := exec_gleanerRecordWrite_of_staged hclk ok (hstaged ▸ List.cons_ne_nil _ _)
    have hhead : s.gle.outq = (sq, b) :: rest := (congrArg Gleaner.outq (reachEdge_gle s0 _)).trans hstaged
    exact ⟨fun hok hregion hup => hexec.trans (congrArg _ (writeRecord_of_accepted hhead hok hregion hup)),
      fun hlost => hexec.trans (congrArg _ (writeRecord_of_refused hhead hlost))⟩
  case freeze =>
    intro s hclk g
    exact ⟨exec_gleanerFreeze_of_triggered hclk, exec_gleanerFrozen_of_drained hclk,
      fun hstate => ⟨exec_gleanerFreeze_of_untriggered hclk hstate, exec_gleanerFrozen_of_untriggered hclk hstate⟩⟩
  case init =>
    intro s hclk hstate e
    exact exec_gleanerInitComplete_of_initialising hclk hstate rfl
  case copy =>
    intro c rest bad s0 hclk s h sqs lost s1 hcopies
    exact exec_gleanerCopyDone_of_copying hclk bad hcopies rfl rfl
  case starts =>
    intro s
    exact ⟨copyStarts_nil, fun c rest => copyStarts_cons⟩
  case grace =>
    intro i u s hclk x mine others
    exact ⟨exec_mirrorGraceExpiry_of_kept i hclk, exec_mirrorGraceExpiry_of_alone i hclk⟩

end Sys2Proof.Machine
end

section
/-! PROOF. Reset: its assertion by RESET_N and by a supply, and what its state holds (spec/16 R502-R504, R507, R519, R542). -/

namespace Sys2Proof.Machine

/-! ## Assertion -/

/-- The reset state under the pin levels of a reset is what resetTo says it is (R503). -/
theorem modDev_resetAll (pin por : Bool) (k part : Nat) (s : State) :
    modDev (fun d => { d with resetPin := pin, resetPor := por }) (resetAll k part s) = resetTo pin por k part s := rfl

theorem cutBurn_of_idle (k part : Nat) {nv : NonVolatile} (hidle : nv.burn = none) : cutBurn k part nv = nv := by
  simp only [cutBurn, hidle]

section pin
variable {ns : Nat} (k part : Nat) (s : State)

theorem exec_resetNAssert_of_long (hlong : 20 ≤ ns) : exec (.resetNAssert ns k part) s = .next (resetTo true s.dev.resetPor k part s) := by
  change execResetNAssert ns k part s = _
  have hshort : ¬ ns < 20 := by omega
  simp only [execResetNAssert, b2n, hlong, hshort, decide_true, decide_false, Bool.and_false, Bool.false_eq_true, if_false, if_true, Nat.one_ne_zero]
  exact congrArg _ (modDev_resetAll true s.dev.resetPor k part s)

theorem exec_resetNAssert_of_filtered (hfiltered : ns < 5) : exec (.resetNAssert ns k part) s = .next s := by
  change execResetNAssert ns k part s = _
  have hleast : ¬ 5 ≤ ns := by omega
  have hlong : ¬ 20 ≤ ns := by omega
  simp only [execResetNAssert, b2n, hleast, hlong, decide_false, Bool.false_and, Bool.false_eq_true, if_false, if_true]

/-- From 5 to 20 ns the free value decides (log 3). -/
theorem exec_resetNAssert_of_unstated (hleast : 5 ≤ ns) (hshort : ns < 20) :
    exec (.resetNAssert ns k part) s = .next (if (takeFree 1 s).1 = 0 then (takeFree 1 s).2
      else resetTo true s.dev.resetPor k part (takeFree 1 s).2) := by
  change execResetNAssert ns k part s = _
  simp only [execResetNAssert, hleast, hshort, decide_true, Bool.and_self, if_true]
  split_ifs with hkept
  · rfl
  · exact congrArg _ (modDev_resetAll true s.dev.resetPor k part (takeFree 1 s).2)

end pin

/-- A supply below its range: retained state goes with both of its supplies (R502, R530). -/
theorem exec_powerOnDetect (lost : Bool) (k part : Nat) (s : State) :
    exec (.powerOnDetect lost k part) s = .next (if lost = true then
      { resetTo s.dev.resetPin true k part s with
        ret := { (resetTo s.dev.resetPin true k part s).ret with mem := [], backup := [], bad := [], descs := [] } }
      else resetTo s.dev.resetPin true k part s) := by
  change execPowerOnDetect lost k part s = _
  rw [← modDev_resetAll s.dev.resetPin true k part s]
  rfl

/-! ## The reset state (R504) -/

theorem port_reset (p : Nat) : port State.reset p = {} := rfl

theorem wf_reset : State.wf State.reset = true := by decide +kernel

/-- A port without an active list has every gate open (R339). -/
theorem gateStates_of_inactive {s : State} {p : Nat} (hactive : (port s p).drill.active = none) : gateStates s p = 0xFF := by
  simp only [gateStates, hactive]

theorem preActive_of_disabled {s : State} {p : Nat} (hdisabled : (preNow (port s p).drill).enable = false) : preActive s p = false := by
  simp only [preActive, hdisabled, Bool.false_and]

/-- Settles O10: each outcome of RESET_N and of a supply below its range, and the fields of the reset state. -/
theorem resetClearsTheDevice : Obligations.ResetClearsTheDevice := by
  unfold Obligations.ResetClearsTheDevice
  refine ⟨?long, ?filtered, ?unstated, ?supply, ?lost, ?burn, wf_reset, rfl, rfl, rfl, rfl, rfl, rfl, rfl, rfl, rfl, rfl, rfl, rfl, rfl, rfl, rfl,
    ?routes, ?holdoffs, ?ports⟩
  case long => exact fun ns k part s => exec_resetNAssert_of_long k part s
  case filtered => exact fun ns k part s => exec_resetNAssert_of_filtered k part s
  case unstated =>
    intro ns k part s hleast hshort u
    have hexec := exec_resetNAssert_of_unstated k part s hleast hshort
    by_cases hkept : (takeFree 1 s).1 = 0
    · exact Or.inl (hexec.trans (congrArg _ (if_pos hkept)))
    · exact Or.inr (hexec.trans (congrArg _ (if_neg hkept)))
  case supply => exact fun k part s => exec_powerOnDetect false k part s
  case lost => exact fun k part s => exec_powerOnDetect true k part s
  case burn => exact fun k part nv => cutBurn_of_idle k part
  case routes => exact fun k => tget_nil _ k
  case holdoffs => exact fun v => tget_nil _ v
  case ports =>
    intro p d
    have hport : d = {} := congrArg Port.drill (port_reset p)
    refine ⟨congrArg Drill.active hport, gateStates_of_inactive (congrArg Drill.active hport), congrArg Drill.round hport, fun k => tget_nil _ k,
      congrArg (·.pre.express) hport, congrArg (·.pre.verifyTime) hport, congrArg (·.pre.enable) hport, preActive_of_disabled ?_,
      congrArg Drill.buf hport, congrArg Drill.tx hport⟩
    exact congrArg (fun d => (preNow d).enable) hport

end Sys2Proof.Machine
end

section
/-! PROOF. DRILL_SET and METER_SET: what their bodies answer once check 10 has passed (spec/10 R334, R335, R337, R354, R356). -/

namespace Sys2Proof.Machine

section serving
variable {c : CmdSpec} {body : Packet → State → CmdResult} {p : Packet} {s : State}

/-- A row whose body finds a parameter wrong: BAD_PARAM with the offset of its field (R59, R61). -/
theorem serveCmd_badParam {off : Nat} (h : accepts c p s = true) (hb : body (asked c p) (reached c p s) = .badParam off) :
    serveCmd c body p s = .next (respond (ticketFor c (asked c p)) 0x80 stBadParam off [] (reached c p s)) := by
  rw [serveCmd, serve_of_accepts h, hb]
  rfl

end serving

/-! ## DRILL_SET (R354) -/

/-- The five quanta that DRILL_SET carries, put over those of the port. -/
def quantaPut (b : List Byte) (d : Drill) : Drill :=
  { d with quantum := (List.range 5).foldl (fun t k => tput t k (le b (8 + 2 * k) 2)) d.quantum }

/-- The 64 bytes of R354. -/
def drillReply (v : State) (pt : Nat) : List Byte :=
  (List.range 8).flatMap (fun k => toLE 1 (min 255 (egQueue v pt k).length)) ++ toLE 1 (gateStates v pt) ++ toLE 1 (pausedMask v pt) ++
    toLE 2 (((port v pt).drill.active.map (fun g => (gateEntry g (gatePos g (nowNs v))).1)).getD 0xFFFF) ++
    (List.range 5).flatMap (fun k => toLE 4 (unsigned 32 (tget 0 (port v pt).drill.deficit k))) ++
    (List.range 7).flatMap (fun k => toLE 4 (wholeBytes (classShaper v pt k).t)) ++ zeros 4

theorem length_drillReply (v : State) (pt : Nat) : (drillReply v pt).length = 64 := by
  simp [drillReply, List.length_flatMap]

section drill
variable {p : Packet} {s : State} (hres : reservedAt p.params 1 3 = true) (hport : portExists s (byteAt p.params 4) = true)
  (hpad : reservedAt p.params 5 3 = true)
include hres hport hpad

theorem bodyDrillSet_of_set (hop : byteAt p.params 0 = 0) (hquanta : ∀ k, k < 5 → 64 ≤ le p.params (8 + 2 * k) 2)
    (hend : reservedAt p.params 18 2 = true) :
    bodyDrillSet p s = .ok [] (touchPort (byteAt p.params 4) true (modDrill (byteAt p.params 4) (quantaPut p.params) s)) := by
  have hset : (byteAt p.params 0 == 0) = true := beq_iff_eq.mpr hop
  unfold bodyDrillSet
  simp only [hset, if_true]
  refine checked_of_none _ (firstBad_of_all fun e he => ?_)
  simp only [List.mem_append, List.mem_cons, List.not_mem_nil, or_false, List.mem_map, List.mem_range] at he
  rcases he with (rfl | rfl | rfl | rfl) | ⟨k, hk, rfl⟩ | rfl
  · simp [hop]
  · exact hres
  · exact hport
  · exact hpad
  · exact decide_eq_true (hquanta k hk)
  · exact hend

theorem bodyDrillSet_of_read (hop : byteAt p.params 0 = 1) :
    bodyDrillSet p s = .ok (drillReply (settlePay (byteAt p.params 4) s) (byteAt p.params 4))
      (touchPort (byteAt p.params 4) true (settlePay (byteAt p.params 4) s)) := by
  unfold drillReply
  simp only [bodyDrillSet, hop, checked, firstBad, hres, hport, hpad, List.append_nil, decide_true, Nat.le_refl, if_true, Nat.reduceBEq,
    Bool.false_eq_true, if_false]
  cases (port (settlePay (byteAt p.params 4) s) (byteAt p.params 4)).drill.active <;> rfl

end drill

/-! ## METER_SET (R334, R335, R337, R356) -/

/-- A rate is set, and then a bucket is from 64 to 16,777,215 bytes; without one it is of any size. -/
def burstFits (b : List Byte) (n : Nat) : Prop := (le b 8 4 = 0 ∧ le b 16 4 = 0) ∨ (64 ≤ n ∧ n ≤ 16777215)

theorem burstFits_iff {b : List Byte} {n : Nat} :
    (!(le b 8 4 != 0 || le b 16 4 != 0) || (decide (64 ≤ n) && decide (n ≤ 16777215))) = true ↔ burstFits b n := by
  simp [burstFits]

/-- The fields of METER_SET SET are legal (R356). -/
structure MeterFits (b : List Byte) : Prop where
  mode : byteAt b 6 < 8
  classMode : 0x8000 ≤ le b 4 2 → bit (byteAt b 6) 1 = false ∧ bit (byteAt b 6) 2 = false
  actions : byteAt b 7 < 16
  yellow : byteAt b 7 % 4 ≤ 2
  red : byteAt b 7 / 4 ≤ 2
  cir : le b 8 4 ≤ 100000000
  cbs : burstFits b (le b 12 4)
  rates : le b 8 4 ≤ le b 16 4
  pir : le b 16 4 ≤ 100000000
  pbs : burstFits b (le b 20 4)
  sdu : le b 24 2 = 0 ∨ (64 ≤ le b 24 2 ∧ le b 24 2 ≤ 9216)
  classSdu : 0x8000 ≤ le b 4 2 → le b 24 2 = 0

/-- The meter that METER_SET SET describes, its last refill kept. -/
def meterAsked (b : List Byte) (s : State) : Meter :=
  meterFresh { mode := byteAt b 6, actions := byteAt b 7, cir := le b 8 4, cbs := le b 12 4, pir := le b 16 4, pbs := le b 20 4, maxSdu := le b 24 2
               last := (meter s (le b 4 2)).last }

theorem meterReply_eq (i : Nat) (m : Meter) :
    meterReply i m = toLE 2 i ++ toLE 1 m.mode ++ toLE 1 m.actions ++ toLE 4 m.cir ++ toLE 4 m.cbs ++ toLE 4 m.pir ++ toLE 4 m.pbs ++
      toLE 2 m.maxSdu ++ toLE 1 (b2n m.blocked) ++ zeros 1 ++ toLE 4 (wholeBytes m.tc) ++ toLE 4 (wholeBytes m.tp) ++
      toLE 4 (m.green + 2 ^ 32 - tget 0 m.base 0) ++ toLE 4 (m.yellow + 2 ^ 32 - tget 0 m.base 1) ++ toLE 4 (m.red + 2 ^ 32 - tget 0 m.base 2) ++
      toLE 4 (m.drops + 2 ^ 32 - tget 0 m.base 3) := by
  simp only [meterReply, List.zipIdx_cons, List.zipIdx_nil, List.flatMap_cons, List.flatMap_nil, List.append_nil, List.append_assoc, Nat.zero_add,
    Nat.reduceAdd]

theorem length_meterReply (i : Nat) (m : Meter) : (meterReply i m).length = 48 := by
  simp [meterReply_eq]

section meters
variable {p : Packet} {s : State} (hres : reservedAt p.params 1 3 = true)
include hres

theorem bodyMeterSet_of_unknown (hop : byteAt p.params 0 = 3) (hindex : meterIndexOk s (le p.params 4 2) = false) :
    bodyMeterSet p s = .badParam 4 := by
  simp only [bodyMeterSet, hop, checked, firstBad, hres, hindex, if_true, Bool.false_eq_true, if_false]

variable (hclean : p.upset = false)
include hclean

theorem bodyMeterSet_of_colourMap (hop : byteAt p.params 0 = 1) (hport : portExists s (byteAt p.params 4) = true)
    (hpad : reservedAt p.params 5 3 = true) (hmap : ∀ n, n < 16 → le p.params 8 4 / 4 ^ n % 4 ≠ 3) :
    bodyMeterSet p s = .ok [] (modDrill (byteAt p.params 4) (fun d => { d with colourMap := le p.params 8 4 })
      (touchPort (byteAt p.params 4) true s)) := by
  have hcolours : ((List.range 16).all fun n => le p.params 8 4 / 4 ^ n % 4 != 3) = true :=
    List.all_eq_true.mpr fun n hn => bne_iff_ne.mpr (hmap n (List.mem_range.mp hn))
  simp only [bodyMeterSet, hop, checked, firstBad, unlessUpset, hres, hport, hpad, hcolours, hclean, if_true, Bool.false_eq_true, if_false]

variable (hindex : meterIndexOk s (le p.params 4 2) = true)
include hindex

theorem bodyMeterSet_of_set (hop : byteAt p.params 0 = 0) (hfits : MeterFits p.params) (hend : reservedAt p.params 26 2 = true) :
    bodyMeterSet p s = .ok [] (touchPorts (meterPorts (le p.params 4 2))
      { s with meters := tset {} s.meters (le p.params 4 2) (meterAsked p.params s) }) := by
  have hmode : (decide (byteAt p.params 6 < 8) &&
      !(decide (0x8000 ≤ le p.params 4 2) && (bit (byteAt p.params 6) 1 || bit (byteAt p.params 6) 2))) = true := by
    simpa [hfits.mode] using imp_iff_not_or.mp hfits.classMode
  have hsdu : ((le p.params 24 2 == 0 || (decide (64 ≤ le p.params 24 2) && decide (le p.params 24 2 ≤ 9216))) &&
      !(decide (0x8000 ≤ le p.params 4 2) && le p.params 24 2 != 0)) = true := by
    simpa [imp_iff_not_or] using And.intro hfits.sdu hfits.classSdu
  simp only [bodyMeterSet, hop, checked, firstBad, unlessUpset, hres, hindex, hmode, hfits.actions, hfits.yellow, hfits.red, hfits.cir,
    burstFits_iff.mpr hfits.cbs, hfits.rates, hfits.pir, burstFits_iff.mpr hfits.pbs, hsdu, hend, hclean, decide_true, Bool.and_self, if_true,
    Bool.false_eq_true, if_false]
  rfl

theorem bodyMeterSet_of_read (hop : byteAt p.params 0 = 2) (hclear : byteAt p.params 6 ≤ 1) (hend : reservedAt p.params 7 1 = true) :
    bodyMeterSet p s = .ok (meterReply (le p.params 4 2) (meter s (le p.params 4 2)))
      (touchPorts (meterPorts (le p.params 4 2)) (if byteAt p.params 6 = 1 then modMeter (le p.params 4 2) meterClear s else s)) := by
  simp only [bodyMeterSet, hop, checked, firstBad, unlessUpset, hres, hindex, hclear, hend, hclean, decide_true, if_true, Bool.false_eq_true, if_false]

theorem bodyMeterSet_of_unblock (hop : byteAt p.params 0 = 3) (hpad : reservedAt p.params 6 2 = true) :
    bodyMeterSet p s = .ok [] (touchPorts (meterPorts (le p.params 4 2))
      (modMeter (le p.params 4 2) (fun m => { m with blocked := false }) s)) := by
  simp only [bodyMeterSet, hop, checked, firstBad, unlessUpset, hres, hindex, hpad, hclean, if_true, Bool.false_eq_true, if_false]

end meters

/-- Settles O41: check 10 passes in each clause but the last, and so the body answers as the clause has it. -/
theorem drillAndMeterCommandsSetTheirPort : Obligations.DrillAndMeterCommandsSetTheirPort := by
  unfold Obligations.DrillAndMeterCommandsSetTheirPort
  refine ⟨?drill, ?meter⟩
  case drill =>
    intro p s r b pt hacc hres hport hpad
    refine ⟨?set, ?read⟩
    case set =>
      intro hop hquanta hend
      exact serveCmd_ok (body := bodyDrillSet) hacc
        (bodyDrillSet_of_set (p := asked specDrillSet p) hres hport hpad hop hquanta hend) (by decide) (by simp)
    case read =>
      intro hop v e
      exact serveCmd_ok (body := bodyDrillSet) hacc (bodyDrillSet_of_read (p := asked specDrillSet p) hres hport hpad hop) (by decide)
        ((length_drillReply v pt).trans_le (by decide))
  case meter =>
    intro p s r b i pt m isClass burst hacc hres hclean
    refine ⟨?set, ?colourMap, ?read, ?unblock, ?unknown⟩
    case set =>
      intro hop hindex hmode hclassMode hactions hyellow hred hcir hcbs hrates hpir hpbs hsdu hclassSdu hend
      exact serveCmd_ok (body := bodyMeterSet) hacc (bodyMeterSet_of_set (p := asked specMeterSet p) hres hclean hindex hop
        ⟨hmode, hclassMode, hactions, hyellow, hred, hcir, hcbs, hrates, hpir, hpbs, hsdu, hclassSdu⟩ hend) (by decide) (by simp)
    case colourMap =>
      intro hop hport hpad hmap
      exact serveCmd_ok (body := bodyMeterSet) hacc
        (bodyMeterSet_of_colourMap (p := asked specMeterSet p) hres hclean hop hport hpad hmap) (by decide) (by simp)
    case read =>
      intro hop hindex hclear hend
      rw [← meterReply_eq]
      exact serveCmd_ok (body := bodyMeterSet) hacc
        (bodyMeterSet_of_read (p := asked specMeterSet p) hres hclean hindex hop hclear hend) (by decide)
        ((length_meterReply i m).trans_le (by decide))
    case unblock =>
      intro hop hindex hpad
      exact serveCmd_ok (body := bodyMeterSet) hacc
        (bodyMeterSet_of_unblock (p := asked specMeterSet p) hres hclean hindex hop hpad) (by decide) (by simp)
    case unknown =>
      intro hop hindex
      exact serveCmd_badParam (body := bodyMeterSet) hacc (bodyMeterSet_of_unknown (p := asked specMeterSet p) hres hop hindex)

end Sys2Proof.Machine
end

section
/-! PROOF. GATE_LIST_SET and PREEMPT_SET: what their bodies answer once check 10 has passed (spec/10 R339, R342, R344, R345, R347, R357, R358). -/

namespace Sys2Proof.Machine

/-! ## GATE_LIST_SET (R357) -/

/-- A pending commit of the port that GATE_LIST_SET names. -/
def gateCommit (b : List Byte) (s : State) : Option GateCommit := (port s (byteAt b 1)).drill.commit

/-- The active list of that port, empty where there is none. -/
def activeList (b : List Byte) (s : State) : GateList := (port s (byteAt b 1)).drill.active.getD {}

/-- The counts of WRITE and READ_ENTRIES: at most this many entries, all within the list. -/
def entriesFit (b : List Byte) (most : Nat) : Prop := 1 ≤ le b 2 2 ∧ le b 2 2 ≤ most ∧ le b 4 2 + le b 2 2 ≤ 1024

/-- The entries that WRITE carries, put over those of the pending list. -/
def entriesWritten (b : List Byte) (d : Drill) : Drill :=
  { d with pend := { d.pend with
      entries := (List.range (le b 2 2)).foldl (fun t i => tset (0, 0) t (le b 4 2 + i) (byteAt b (16 + 8 * i), le b (20 + 8 * i) 4)) d.pend.entries } }

/-- The nanoseconds since power-up, rounded up, from which the time of a commit is judged. -/
def upNs (s : State) : Nat := ceilDiv s.clk.tb tbuPerNs

/-- The time of a commit: CCT, or with CCT 0 the first whole millisecond at least 1 ms ahead. -/
def commitNs (b : List Byte) (s : State) : Nat :=
  if le b 32 8 = 0 then (upNs s + 1000000 + 999999) / 1000000 * 1000000 else nsOfT64 (le b 32 8)

theorem commitNs_eq (b : List Byte) (s : State) :
    commitNs b s = if le b 32 8 = 0 then (upNs s + 1999999) / 1000000 * 1000000 else nsOfT64 (le b 32 8) := by
  unfold commitNs
  split
  · omega
  · rfl

/-- The fields of COMMIT are legal, with the pending list of its port. -/
structure CommitFits (b : List Byte) (s : State) : Prop where
  base : t64Ok (le b 16 8) = true
  cycleLeast : 1024 ≤ le b 24 4
  cycleMost : le b 24 4 ≤ 1000000000
  length : le b 28 2 ≤ 1024
  pad : reservedAt b 30 2 = true
  holds : ∀ i, i < le b 28 2 → 64 ≤ (tget (0, 0) (port s (byteAt b 1)).drill.pend.entries i).2 ∧
    (tget (0, 0) (port s (byteAt b 1)).drill.pend.entries i).2 ≤ 1000000000
  time : le b 32 8 = 0 ∨ (t64Ok (le b 32 8) = true ∧ upNs s + 1000000 ≤ commitNs b s ∧
    commitNs b s * tbuPerNs ≤ s.clk.tb + 60000000000 * tbuPerNs)

/-- The commit that COMMIT leaves pending. -/
def commitAsked (p : Packet) (s : State) : GateCommit :=
  { base := nsOfT64 (le p.params 16 8), cycle := le p.params 24 4, length := le p.params 28 2, at_ := commitNs p.params s
    ticket := ticketFor specGateListSet p }

/-- The 32 bytes of R357's READ. -/
def gateReply (b : List Byte) (s : State) : List Byte :=
  let d := (port s (byteAt b 1)).drill
  toLE 1 (if d.active = none then 0 else if d.commit.isSome then 2 else 1) ++ zeros 1 ++ toLE 2 (activeList b s).length ++
    toLE 2 ((d.active.map (fun g => (gateEntry g (gatePos g (nowNs s))).1)).getD 0xFFFF) ++ toLE 1 (gateStates s (byteAt b 1)) ++ zeros 1 ++
    toLE 8 (t64OfNs (activeList b s).base) ++ toLE 4 (activeList b s).cycle ++ toLE 8 ((d.commit.map (fun c => t64OfNs c.at_)).getD 0) ++ zeros 4

/-- The active entries that READ_ENTRIES names, 8 bytes each. -/
def entriesReply (b : List Byte) (s : State) : List Byte :=
  (List.range (le b 2 2)).flatMap (fun i =>
    toLE 1 (tget (0, 0) (activeList b s).entries (le b 4 2 + i)).1 ++ zeros 3 ++ toLE 4 (tget (0, 0) (activeList b s).entries (le b 4 2 + i)).2)

theorem length_entriesReply (b : List Byte) (s : State) : (entriesReply b s).length = 8 * le b 2 2 := by
  simp [entriesReply, List.length_flatMap, Nat.mul_comm]

section gates
variable {p : Packet} {s : State} (hport : portExists s (byteAt p.params 1) = true) (hres : reservedAt p.params 6 10 = true)
include hport hres

theorem bodyGateListSet_of_write (hop : byteAt p.params 0 = 0) (hfit : entriesFit p.params 508)
    (hpads : ∀ i, i < le p.params 2 2 → reservedAt p.params (17 + 8 * i) 3 = true) : bodyGateListSet p s =
    if (gateCommit p.params s).isSome = true then .refuse stBusy 0
    else unlessUpset p (gateListFault (byteAt p.params 1) true) s
      (.ok [] (modDrill (byteAt p.params 1) (entriesWritten p.params) (touchPort (byteAt p.params 1) true s))) := by
  obtain ⟨hleast, hmost, hwithin⟩ := hfit
  unfold bodyGateListSet
  simp only [hop]
  refine checked_of_none _ (firstBad_of_all fun e he => ?_)
  simp only [List.mem_append, List.mem_cons, List.not_mem_nil, or_false, List.mem_map, List.mem_range] at he
  rcases he with (rfl | rfl) | (rfl | rfl | rfl) | ⟨i, hi, rfl⟩
  · rfl
  · exact hport
  · simp [hleast, hmost]
  · exact decide_eq_true hwithin
  · exact hres
  · exact hpads i hi

theorem bodyGateListSet_of_commit (hop : byteAt p.params 0 = 1) (hfits : CommitFits p.params s) : bodyGateListSet p s =
    if (gateCommit p.params s).isSome = true then .refuse stBusy 0
    else .accepted (modDrill (byteAt p.params 1) (fun d => { d with commit := some (commitAsked p s) }) (touchPort (byteAt p.params 1) true s)) := by
  have hholds : (List.range (min (le p.params 28 2) 1024)).all (fun i =>
      decide ((decide (64 ≤ (tget (0, 0) (port s (byteAt p.params 1)).drill.pend.entries i).2) &&
        decide ((tget (0, 0) (port s (byteAt p.params 1)).drill.pend.entries i).2 ≤ 1000000000)) = true)) = true := by
    refine List.all_eq_true.mpr fun i hi => ?_
    simpa using hfits.holds i ((List.mem_range.mp hi).trans_le (Nat.min_le_left _ _))
  have htime : (le p.params 32 8 == 0 || (t64Ok (le p.params 32 8) && decide (upNs s + 1000000 ≤ commitNs p.params s) &&
      decide (commitNs p.params s * tbuPerNs ≤ s.clk.tb + 60000000000 * tbuPerNs))) = true := by
    simpa [and_assoc] using hfits.time
  unfold commitNs upNs at htime
  simp only [bodyGateListSet, hop, checked, firstBad, List.cons_append, List.nil_append, hport, hres, hfits.base,
    hfits.cycleLeast, hfits.cycleMost, hfits.length, hholds, hfits.pad, htime, Nat.one_le_ofNat, decide_true, Bool.and_self, if_true]
  rfl

theorem bodyGateListSet_of_read (hop : byteAt p.params 0 = 2) :
    bodyGateListSet p s = .ok (gateReply p.params s) (touchPort (byteAt p.params 1) true s) := by
  unfold gateReply activeList
  simp only [bodyGateListSet, hop, checked, firstBad, hport, hres, List.cons_append, List.nil_append, if_true]
  cases (port s (byteAt p.params 1)).drill.active <;> cases (port s (byteAt p.params 1)).drill.commit <;> rfl

theorem bodyGateListSet_of_abort (hop : byteAt p.params 0 = 3) : bodyGateListSet p s =
    .ok [] ((gateCommit p.params s).elim (touchPort (byteAt p.params 1) true s) fun c =>
      complete c.ticket stStateConflict [] (modDrill (byteAt p.params 1) (fun d => { d with commit := none }) (touchPort (byteAt p.params 1) true s))) := by
  unfold gateCommit
  simp only [bodyGateListSet, hop, checked, firstBad, hport, hres, List.cons_append, List.nil_append, if_true]
  cases (port s (byteAt p.params 1)).drill.commit <;> rfl

theorem bodyGateListSet_of_readEntries (hop : byteAt p.params 0 = 4) (hfit : entriesFit p.params 510) :
    bodyGateListSet p s = .ok (entriesReply p.params s) (touchPort (byteAt p.params 1) true s) := by
  obtain ⟨hleast, hmost, hwithin⟩ := hfit
  simp only [bodyGateListSet, hop, checked, firstBad, hport, hres, hleast, hmost, hwithin, List.cons_append, List.nil_append, decide_true,
    Bool.and_self, if_true]
  rfl

end gates

/-! ## PREEMPT_SET (R345, R347, R358) -/

/-- The settings that PREEMPT_SET SET carries; while a frame is in transmission or held, those in force stay so (R347). -/
def preemptPut (b : List Byte) (d : Drill) : Drill :=
  { d with
    pre := { enable := bit (byteAt b 5) 0, verifyDisable := bit (byteAt b 5) 1, express := byteAt b 6, addFrag := byteAt b 7, verifyTime := byteAt b 8 }
    preOld := if d.held.isSome || d.tx.isSome then some (preNow d) else none }

/-- STATUS of R358. -/
def preemptStatus (y : Preempt) : Nat :=
  if y.enable = false then 0 else if y.verifyDisable = true then 4 else if y.state = 2 then 2 else if y.state = 3 then 3 else 1

section preempting
variable {p : Packet} {s : State} (hres : reservedAt p.params 1 3 = true) (hport : portExists s (byteAt p.params 4) = true)
include hres hport

theorem bodyPreemptSet_of_set (hop : byteAt p.params 0 = 0) (hflags : byteAt p.params 5 < 4)
    (hmode : bit (byteAt p.params 5) 0 = true → replicated s (byteAt p.params 4) = false) (hexpress : bit (byteAt p.params 6) 7 = true)
    (hfrag : byteAt p.params 7 ≤ 3) (hleast : 1 ≤ byteAt p.params 8) (hmost : byteAt p.params 8 ≤ 128) (hpad : reservedAt p.params 9 3 = true) :
    bodyPreemptSet p s = .ok [] (verifyStart (byteAt p.params 4) (touchPort (byteAt p.params 4) true
      (modDrill (byteAt p.params 4) (preemptPut p.params) s))) := by
  have hlegal : (decide (byteAt p.params 5 < 4) && !(bit (byteAt p.params 5) 0 && replicated s (byteAt p.params 4))) = true := by
    simpa [hflags, imp_iff_not_or] using hmode
  simp only [bodyPreemptSet, hop, checked, firstBad, hres, hport, hlegal, hexpress, hfrag, hleast, hmost, hpad, List.cons_append, List.nil_append,
    Nat.zero_le, decide_true, Bool.and_self, beq_self_eq_true, if_true]
  rfl

theorem bodyPreemptSet_of_read (hop : byteAt p.params 0 = 1) (hpad : reservedAt p.params 5 3 = true) :
    bodyPreemptSet p s = .ok (toLE 1 (preemptStatus (port s (byteAt p.params 4)).drill.pre) ++ toLE 1 (port s (byteAt p.params 4)).drill.pre.express ++
      toLE 1 (port s (byteAt p.params 4)).drill.pre.addFrag ++ zeros 1 ++ toLE 4 (tget 0 (port s (byteAt p.params 4)).drill.ctr 12) ++
      toLE 4 (tget 0 (port s (byteAt p.params 4)).drill.ctr 17) ++ zeros 4) (touchPort (byteAt p.params 4) true s) := by
  unfold preemptStatus
  simp only [bodyPreemptSet, hop, checked, firstBad, hres, hport, hpad, List.cons_append, List.nil_append, Nat.le_refl, decide_true, Nat.reduceBEq,
    Bool.not_eq_true', if_true, Bool.false_eq_true, if_false]

end preempting

/-- Settles O42: check 10 passes in each clause, and so the body answers as the clause has it. -/
theorem gateListsAndPreemptionAreSet : Obligations.GateListsAndPreemptionAreSet := by
  unfold Obligations.GateListsAndPreemptionAreSet
  refine ⟨?gates, ?preempt⟩
  case gates =>
    intro p s r b pt count first d t g up cct at_ hacc hport hres hclean
    refine ⟨?write, ?commit, ?read, ?abortNone, ?abort, ?readEntries⟩
    case write =>
      intro hop hleast hmost hwithin hpads
      have hbody := bodyGateListSet_of_write (p := asked specGateListSet p) hport hres hop ⟨hleast, hmost, hwithin⟩ hpads
      refine ⟨fun hpending => ?_, fun hnone => ?_⟩
      · exact serveCmd_refuse (body := bodyGateListSet) hacc (hbody.trans (if_pos hpending))
      · have hfree : ¬ (gateCommit b r).isSome = true := Option.not_isSome_iff_eq_none.mpr hnone
        exact serveCmd_ok (body := bodyGateListSet) hacc
          (hbody.trans ((if_neg hfree).trans (congrFun (unlessUpset_of_clean _ _ hclean) _))) (by decide) (by simp)
    case commit =>
      intro hop hbase hcycleLeast hcycleMost hlength hpad hholds htime
      have hat : at_ = commitNs b r := (commitNs_eq b r).symm
      rw [hat] at htime ⊢
      have hbody := bodyGateListSet_of_commit (p := asked specGateListSet p) hport hres hop
        ⟨hbase, hcycleLeast, hcycleMost, hlength, hpad, hholds, htime⟩
      refine ⟨fun hpending => ?_, fun hnone => ?_⟩
      · exact serveCmd_refuse (body := bodyGateListSet) hacc (hbody.trans (if_pos hpending))
      · have hfree : ¬ (gateCommit b r).isSome = true := Option.not_isSome_iff_eq_none.mpr hnone
        exact congrArg Host.Outcome.next (serve_accepted (body := bodyGateListSet) hacc (hbody.trans (if_neg hfree)))
    case read =>
      intro hop
      exact serveCmd_ok (body := bodyGateListSet) hacc (bodyGateListSet_of_read (p := asked specGateListSet p) hport hres hop) (by decide)
        (by simp)
    case abortNone =>
      intro hop hnone
      have hbody := bodyGateListSet_of_abort (p := asked specGateListSet p) hport hres hop
      have hcommit : gateCommit b r = none := hnone
      exact serveCmd_ok (body := bodyGateListSet) hacc (hbody.trans (congrArg (fun c => CmdResult.ok [] (Option.elim c _ _)) hcommit))
        (by decide) (by simp)
    case abort =>
      intro hop c hpending
      have hbody := bodyGateListSet_of_abort (p := asked specGateListSet p) hport hres hop
      have hcommit : gateCommit b r = some c := hpending
      exact serveCmd_ok (body := bodyGateListSet) hacc (hbody.trans (congrArg (fun c => CmdResult.ok [] (Option.elim c _ _)) hcommit))
        (by decide) (by simp)
    case readEntries =>
      intro hop hleast hmost hwithin
      exact serveCmd_ok (body := bodyGateListSet) hacc
        (bodyGateListSet_of_readEntries (p := asked specGateListSet p) hport hres hop ⟨hleast, hmost, hwithin⟩) (by decide)
        ((length_entriesReply b r).trans_le (Nat.mul_le_mul_left 8 hmost))
  case preempt =>
    intro p s r b pt fl d y hacc hres hport
    refine ⟨?set, ?read⟩
    case set =>
      intro hop hflags hmode hexpress hfrag hleast hmost hpad
      exact serveCmd_ok (body := bodyPreemptSet) hacc
        (bodyPreemptSet_of_set (p := asked specPreemptSet p) hres hport hop hflags hmode hexpress hfrag hleast hmost hpad) (by decide) (by simp)
    case read =>
      intro hop hpad
      exact serveCmd_ok (body := bodyPreemptSet) hacc (bodyPreemptSet_of_read (p := asked specPreemptSet p) hres hport hop hpad) (by decide)
        (by simp)

end Sys2Proof.Machine
end

section
/-! PROOF. What every step does and keeps (spec/02, spec/16): the front command runs, the machine goes on, and the queue, the canonical form, what is
fused and what is burnt are kept. -/

namespace Sys2Proof.Machine

/-! ## Every command has a next state -/

/-- A command whose arm is a choice goes on where both branches do. -/
theorem exists_next_ite {c : Prop} [Decidable c] {x y : Host.Outcome State Fault Refusal} (hx : ∃ t, x = .next t) (hy : ∃ t, y = .next t) :
    ∃ t, (if c then x else y) = .next t := by
  split <;> assumption

/-- Each arm is a next state, or a choice or a match whose branches are. -/
theorem exec_next (c : Instr) (s : State) : ∃ t, exec c s = .next t := by
  cases c
  case tineImageVerified =>
    refine exists_next_ite ⟨_, rfl⟩ ?_
    cases s.imgLoad with
    | none => exact ⟨_, rfl⟩
    | some l =>
      dsimp only
      cases l.ticket with
      | none => exact ⟨_, rfl⟩
      | some k =>
        cases imageBad l.bytes with
        | none => exact exists_next_ite ⟨_, rfl⟩ ⟨_, rfl⟩
        | some o => exact ⟨_, rfl⟩
  case autonegComplete p np code mask =>
    refine exists_next_ite ⟨_, rfl⟩ (exists_next_ite ⟨_, rfl⟩ (exists_next_ite ?_ ⟨_, rfl⟩))
    dsimp only
    cases (List.range 6).reverse.find? (bit (mask % 64 &&& (port s p).link.offered)) <;> exact ⟨_, rfl⟩
  case arbRulingTimeout =>
    change ∃ t, execArbRulingTimeout s = .next t
    unfold execArbRulingTimeout
    cases s.hl.disagree <;> exact ⟨_, rfl⟩
  case turnStart =>
    change ∃ t, execTurnStart s = .next t
    unfold execTurnStart
    cases s.hl.turn with
    | none => exact ⟨_, rfl⟩
    | some t => exact exists_next_ite ⟨_, rfl⟩ (exists_next_ite ⟨_, rfl⟩ (exists_next_ite ⟨_, rfl⟩ ⟨_, rfl⟩))
  case turnEnd =>
    change ∃ t, execTurnEnd s = .next t
    unfold execTurnEnd
    cases s.hl.turn with
    | none => exact ⟨_, rfl⟩
    | some t => exact exists_next_ite ⟨_, rfl⟩ (exists_next_ite ⟨_, rfl⟩ (exists_next_ite ⟨_, rfl⟩ ⟨_, rfl⟩))
  case restartFailTimeout =>
    change ∃ t, execRestartFailTimeout s = .next t
    unfold execRestartFailTimeout
    cases s.hl.restart with
    | none => exact ⟨_, rfl⟩
    | some r =>
      dsimp only
      cases r.copiedAt <;> exact ⟨_, rfl⟩
  all_goals repeat' first | exact ⟨_, rfl⟩ | apply exists_next_ite | split

theorem step_next (s : State) : ∃ t, step s = .next t := by
  unfold step
  split
  · exact exec_next _ _
  · exact ⟨_, rfl⟩

theorem run_next (n : Nat) (s : State) : ∃ t, Sys2Proof.core.run n s = .next t := by
  induction n generalizing s with
  | zero => exact ⟨s, rfl⟩
  | succ n ih =>
    obtain ⟨t, ht⟩ := step_next s
    obtain ⟨u, hu⟩ := ih t
    have hcore : Sys2Proof.core.step s = .next t := ht
    exact ⟨u, by simpa only [Host.Core.run, hcore] using hu⟩

/-! ## What every step keeps -/

/-- What a step leaves: the queue without its front, and what its state holds fused and burnt. -/
def stepBase (s : State) : Base := { queue := s.pending.tail, nv := s.nv }

theorem keeps_of_wf {s : State} (hwf : State.wf s = true) : Keeps { queue := s.pending, nv := s.nv } s := ⟨rfl, NvKept.refl _, hwf⟩

theorem exec_keeps_next {c : Instr} {s t : State} (hwf : State.wf s = true) (hexec : exec c s = .next t) :
    Keeps { queue := s.pending, nv := s.nv } t := by
  have h := exec_keeps c s (keeps_of_wf hwf)
  rwa [hexec] at h

/-- The command runs on the state without it, which holds the same tables; an empty queue runs what the device does by itself. -/
theorem step_keeps {s t : State} (hwf : State.wf s = true) (hstep : step s = .next t) : Keeps (stepBase s) t := by
  unfold step at hstep
  split at hstep
  next c rest hpending =>
    have h := exec_keeps_next (s := { s with pending := rest }) hwf hstep
    rwa [stepBase, hpending]
  next hpending =>
    obtain rfl : idle s = t := Host.Outcome.next.inj hstep
    have h := idle_keeps s (keeps_of_wf hwf)
    rw [stepBase, hpending]
    rwa [hpending] at h

/-! ## The statements -/

/-- Settles O1: the front of a queue that has one is what a step matches. -/
theorem stepRunsTheFrontCommand : Obligations.StepRunsTheFrontCommand := fun _ _ _ => rfl

/-- Settles O2: no arm ends in a fault or a refusal, so no step does, and a run goes on by induction on its steps. -/
theorem everyCommandGoesOn : Obligations.EveryCommandGoesOn := ⟨exec_next, step_next, run_next⟩

/-- Settles O3: the canonical form is a part of what every step keeps. -/
theorem everyStepKeepsTheDeviceWellFormed : Obligations.EveryStepKeepsTheDeviceWellFormed :=
  fun _ _ hwf hstep => (step_keeps hwf hstep).shape

/-- Settles O4: what is fused and burnt is a part of what every step keeps. -/
theorem burntBitsAndIdentityAreNeverChanged : Obligations.BurntBitsAndIdentityAreNeverChanged := by
  intro s t hwf hstep
  have hnv : NvKept s.nv t.nv := (step_keeps hwf hstep).nv
  refine ⟨fun g i => ?_, hnv.part, hnv.serial, hnv.trimIds, hnv.trimCal⟩
  have hburnt := hnv.burnt g
  exact ⟨⟨hburnt.rec0 i, hburnt.rec1 i, hburnt.rec2 i⟩, hburnt.row0 i, hburnt.row1 i, hburnt.row2 i⟩

/-- Settles O5: the queue is a part of what every command and every step keeps. -/
theorem commandsLeaveTheQueueInOrder : Obligations.CommandsLeaveTheQueueInOrder :=
  ⟨fun _ _ _ hwf hexec => (exec_keeps_next hwf hexec).queue, fun _ _ hwf hstep => (step_keeps hwf hstep).queue⟩

end Sys2Proof.Machine
end

section
/-! PROOF. Reads of fault and event status registers, and non-contiguous accesses (spec/15 R488, R492, R494, R496). -/

namespace Sys2Proof.Machine

/-! ## What the registers read -/

section registers
variable (s : State)

theorem regValue_eventStatus {r : Nat} (hr : r < 32) : regValue s (0x300 + 4 * r) = statusReg s r := by
  have hword : (0x300 + 4 * r) % 4 = 0 := by omega
  have hpast : ¬ 0x300 + 4 * r < 0x300 := by omega
  have hlow : ¬ 0x300 + 4 * r < 0x200 := by omega
  have hfirst : ¬ 0x300 + 4 * r < 0x100 := by omega
  have hin : 0x300 + 4 * r < 0x380 := by omega
  have hindex : (0x300 + 4 * r - 0x300) / 4 = r := by omega
  simp only [regValue, hword, hpast, hlow, hfirst, hin, hindex, bne_self_eq_false, Bool.false_eq_true, if_false, if_true]

theorem regValue_ringFault {k : Nat} (hk : k < 4) : regValue s (0x12C + 0x40 * k) = (ring s k).ignored * 65536 + (ring s k).faults := by
  interval_cases k <;> rfl

theorem regValue_windowFault : regValue s 0x10 = s.win.noncontig * 65536 + s.win.narrow := rfl

theorem regValue_hfrFault : regValue s 0x42C = s.hfr.ignored * 65536 + s.hfr.faults := rfl

end registers

/-- A contiguous read of a window that is up returns the enabled bytes, with the side effect of the whole register (R488). -/
theorem hostRead_of_contiguous {s : State} {be : Nat} (off v : Nat) (clear : State → State) (hup : windowUp s = true) (hbe : contiguous be = true) :
    hostRead off be v clear s = emitOut (.readData off (v &&& beMask be)) (clear s) := by
  simp only [hostRead, hup, hbe, Bool.not_true, Bool.false_eq_true, if_false, if_true]

/-! ## The commands -/

section reads
variable {s : State} {be : Nat} (hup : windowUp s = true)
include hup

theorem exec_eventStatusRead {r : Nat} (hr : r < 32) (hbe : contiguous be = true) : exec (.eventStatusRead r be) s =
    .next (emitOut (.readData (0x300 + 4 * r) (statusReg s r &&& beMask be)) { s with win := { s.win with status := tdel s.win.status r } }) := by
  have hindex : r % 32 = r := Nat.mod_eq_of_lt hr
  change execEventStatusRead r be s = _
  simp only [execEventStatusRead, hindex, regValue_eventStatus s hr, hostRead_of_contiguous _ _ _ hup hbe]

theorem exec_ringFaultRead {k : Nat} (hk : k < 4) (hbe : contiguous be = true) : exec (.ringFaultRead k be) s =
    .next (emitOut (.readData (0x12C + 0x40 * k) (((ring s k).ignored * 65536 + (ring s k).faults) &&& beMask be))
      (modRing k (fun x => { x with faults := 0, ignored := 0 }) s)) := by
  have hindex : k % 4 = k := Nat.mod_eq_of_lt hk
  change execRingFaultRead k be s = _
  simp only [execRingFaultRead, hindex, regValue_ringFault s hk, hostRead_of_contiguous _ _ _ hup hbe]

theorem exec_windowFaultRead (hbe : contiguous be = true) : exec (.windowFaultRead be) s =
    .next (emitOut (.readData 0x10 ((s.win.noncontig * 65536 + s.win.narrow) &&& beMask be))
      { s with win := { s.win with noncontig := 0, narrow := 0 } }) :=
  congrArg Host.Outcome.next (hostRead_of_contiguous 0x10 _ _ hup hbe)

theorem exec_hfrFaultRead (hbe : contiguous be = true) : exec (.hfrFaultRead be) s =
    .next (emitOut (.readData 0x42C ((s.hfr.ignored * 65536 + s.hfr.faults) &&& beMask be))
      { s with hfr := { s.hfr with faults := 0, ignored := 0 } }) :=
  congrArg Host.Outcome.next (hostRead_of_contiguous 0x42C _ _ hup hbe)

theorem exec_noncontigAccess (off : Nat) (write : Bool) : exec (.noncontigAccess off be write) s = .next (noncontig off be write s) :=
  congrArg Host.Outcome.next (if_pos hup)

end reads

/-- The bits of an event status register that a read has cleared, and those of every other one. -/
theorem tget_tdel_status {t : Table Nat} (ht : Canon 0 t = true) (r q : Nat) : tget 0 (tdel t r) q = if r = q then 0 else tget 0 t q := by
  simp only [tget, tget?_tdel (canon_rising ht)]
  split <;> rfl

/-- Settles O19: each register reads its fields, and a read that is contiguous clears them. -/
theorem windowReadsReturnAndClear : Obligations.WindowReadsReturnAndClear := by
  unfold Obligations.WindowReadsReturnAndClear
  refine ⟨?eventStatus, ?ringFault, ?faults, ?noncontiguous⟩
  case eventStatus =>
    intro r be s hr hup hbe cleared
    refine ⟨exec_eventStatusRead hup hr hbe, fun hstatus => ⟨?_, fun q hq => ?_⟩⟩
    · exact (tget_tdel_status hstatus r r).trans (if_pos rfl)
    · exact (tget_tdel_status hstatus r q).trans (if_neg hq.symm)
  case ringFault => exact fun k be s hk hup hbe => exec_ringFaultRead hup hk hbe
  case faults => exact fun be s hup hbe => ⟨exec_windowFaultRead hup hbe, exec_hfrFaultRead hup hbe⟩
  case noncontiguous => exact fun off be s hup => ⟨exec_noncontigAccess hup off true, exec_noncontigAccess hup off false⟩

end Sys2Proof.Machine
end

section
/-! PROOF. FURROW_STATUS, HEADLAND_POLICY_SET, HEADLAND_TURN and FURROW_RESTART: what their bodies answer (spec/11 R377, R381, R386, R392-R395). -/

namespace Sys2Proof.Machine

section serving
variable {c : CmdSpec} {body : Packet → State → CmdResult} {p : Packet} {s t : State}

/-- A row whose body finds the state unfit: STATE_CONFLICT with the states of its row (R59). -/
theorem serveCmd_conflict (h : accepts c p s = true) (hb : body (asked c p) (reached c p s) = .conflict) :
    serveCmd c body p s = .next (respond (ticketFor c (asked c p)) 0x80 stStateConflict c.mask [] (reached c p s)) :=
  congrArg Host.Outcome.next (serve_conflict h hb)

/-- A row whose body answers ACCEPTED. -/
theorem serveCmd_accepted (h : accepts c p s = true) (hb : body (asked c p) (reached c p s) = .accepted t) :
    serveCmd c body p s = .next (deferred c p t) :=
  congrArg Host.Outcome.next (serve_accepted h hb)

end serving

/-! ## FURROW_STATUS (R392) -/

/-- Cells held in the fenced halves. -/
def fencedCells (s : State) : Nat :=
  (if (half s 0).fenced then cellsHeld s 0 else 0) + (if (half s 1).fenced then cellsHeld s 1 else 0)

theorem foldl_fencedCells (s : State) :
    [0, 1].foldl (fun n x => if (half s x).fenced = true then n + cellsHeld s x else n) 0 = fencedCells s := by
  simp only [List.foldl_cons, List.foldl_nil, fencedCells]
  split_ifs <;> omega

/-- The 64 bytes of R392. -/
def furrowReply (s : State) : List Byte :=
  toLE 1 s.hl.lead ++ toLE 1 s.hl.stateA ++ toLE 1 s.hl.stateB ++ toLE 1 s.hl.policy ++ toLE 1 s.hl.alarmsA ++ toLE 1 s.hl.alarmsB ++
    toLE 1 (if s.hl.arbEnable = false then 0 else if s.hl.arbUp = true then 1 else 2) ++ toLE 1 (b2n s.hl.turn.isSome + 2 * b2n s.hl.disagree.isSome) ++
    toLE 4 (fencedCells s) ++ toLE 4 ((s.hl.restart.map (·.matched)).getD 0) ++ toLE 8 s.hl.lastVerdict ++
    (List.range 10).flatMap (fun i => toLE 4 (tget 0 s.hl.ctr i))

theorem length_furrowReply (s : State) : (furrowReply s).length = 64 := by
  simp [furrowReply, List.length_flatMap]

theorem bodyFurrowStatus_eq (p : Packet) (s : State) : bodyFurrowStatus p s = .ok (furrowReply s) s := by
  unfold furrowReply
  simp only [bodyFurrowStatus, foldl_fencedCells, Bool.not_eq_true']
  cases s.hl.restart <;> rfl

/-! ## HEADLAND_POLICY_SET (R377, R393) -/

/-- The settings that HEADLAND_POLICY_SET carries. -/
def policyPut (b : List Byte) (h : Headland) : Headland :=
  { h with policy := byteAt b 0, tolerance := byteAt b 1, arbEnable := bit (byteAt b 2) 0, autoPower := bit (byteAt b 2) 1 }

theorem bodyHeadlandPolicySet_eq (p : Packet) (s : State) : bodyHeadlandPolicySet p s =
    checked [(byteAt p.params 0 ≤ 2, 0), (1 ≤ byteAt p.params 1, 1), (byteAt p.params 2 < 4, 2), (reservedAt p.params 3 5, 3)]
      (.ok [] (modHl (policyPut p.params) s)) := rfl

/-- POLICY LEAD_WINS fails the furrow that does not lead. -/
theorem byPolicy_of_leadWins {s : State} (hpolicy : s.hl.policy = 0) (q : Nat) (z : Finds) :
    byPolicy q z s = failFurrow (other s.hl.lead) 0x04 0x02 q z s := by
  simp [byPolicy, hpolicy]

/-- POLICY REPORT keeps both furrows. -/
theorem byPolicy_of_report {s : State} (hpolicy : s.hl.policy = 1) (q : Nat) (z : Finds) : byPolicy q z s = keepBoth 0x02 q z s := by
  simp [byPolicy, hpolicy]

/-- POLICY TOLERATE keeps both until more disagreements came than TOLERANCE. -/
theorem byPolicy_of_tolerate {s : State} (hpolicy : s.hl.policy = 2) (q : Nat) (z : Finds) : byPolicy q z s =
    if s.hl.tolCount ≤ s.hl.tolerance then keepBoth 0x02 q z s else failFurrow (other s.hl.lead) 0x04 0x02 q z s := by
  by_cases hcount : s.hl.tolCount ≤ s.hl.tolerance <;> simp [byPolicy, hpolicy, hcount]

theorem lenOk_of_accepts {c : CmdSpec} {p : Packet} {s : State} (h : accepts c p s = true) : c.lenOk p.params = true :=
  lenOk_of_frontCheck (frontCheck_of_accepts h)

/-- Settles O48: the first byte out of its range is named, and with none the settings are put. -/
theorem policySetTakesItsBlock : Obligations.PolicySetTakesItsBlock := by
  unfold Obligations.PolicySetTakesItsBlock
  intro p s r b t bad hacc
  have hlen : len 8 b = true := lenOk_of_accepts hacc
  have hbody := bodyHeadlandPolicySet_eq (asked specHeadlandPolicySet p) r
  refine ⟨eq_of_beq hlen, fun hpolicy htol hflags hres => ?set, fun hpolicy => ?policy, fun hpolicy htol => ?tolerance,
    fun hpolicy htol hflags => ?flags, fun hpolicy htol hflags hres => ?reserved⟩
  case set =>
    have hput : t.hl = policyPut b r.hl := respond_hl _ _ _ _ _ _
    refine ⟨serveCmd_ok (body := bodyHeadlandPolicySet) hacc (hbody.trans (checked_of_none _ (firstBad_of_all ?_))) (by decide) (by simp),
      ?_, ?_, ?_, ?_, fun q z hzero => byPolicy_of_leadWins ?_ q z, fun q z hone => byPolicy_of_report ?_ q z⟩
    · intro e he
      simp only [List.mem_cons, List.not_mem_nil, or_false] at he
      rcases he with rfl | rfl | rfl | rfl
      exacts [decide_eq_true hpolicy, decide_eq_true htol, decide_eq_true hflags, hres]
    · rw [hput]; rfl
    · rw [hput]; rfl
    · rw [hput]; rfl
    · rw [hput]; rfl
    · rw [hput]; exact hzero
    · rw [hput]; exact hone
  case policy =>
    have hbad : ¬ byteAt b 0 ≤ 2 := Nat.not_le.mpr hpolicy
    exact serveCmd_badParam (body := bodyHeadlandPolicySet) hacc (hbody.trans (by simp [checked, firstBad, asked, b, hbad]))
  case tolerance =>
    exact serveCmd_badParam (body := bodyHeadlandPolicySet) hacc (hbody.trans (by simp [checked, firstBad, asked, b, hpolicy, htol]))
  case flags =>
    have hbad : ¬ byteAt b 2 < 4 := Nat.not_lt.mpr hflags
    exact serveCmd_badParam (body := bodyHeadlandPolicySet) hacc (hbody.trans (by simp [checked, firstBad, asked, b, hpolicy, htol, hbad]))
  case reserved =>
    exact serveCmd_badParam (body := bodyHeadlandPolicySet) hacc (hbody.trans (by simp [checked, firstBad, asked, b, hpolicy, htol, hflags, hres]))

/-! ## HEADLAND_TURN (R381, R394) -/

/-- The turn that HEADLAND_TURN asks for: T_o at the second epoch boundary from now, T_f 12.8 us later. -/
def turnAsked (p : Packet) (s : State) : Turn :=
  { tStart := epochNext (epochNext (nowNs s)), tf := epochNext (epochNext (nowNs s)) + 12800, newLead := byteAt p.params 0
    discards0 := tget 0 s.hl.ctr 9, ticket := ticketFor specHeadlandTurn p }

section turning
variable {p : Packet} {s : State} (hnew : byteAt p.params 0 ≤ 1) (hres : reservedAt p.params 1 3 = true)
include hnew hres

theorem bodyHeadlandTurn_eq : bodyHeadlandTurn p s =
    if byteAt p.params 0 = s.hl.lead then .ok [] s
    else if s.hl.turn.isSome = true ∨ s.hl.disagree.isSome = true then .refuse stBusy 0
    else if furState s (byteAt p.params 0) ≠ 0 then .conflict
    else .accepted (modHl (fun h => { h with turn := some (turnAsked p s) }) s) := by
  simp only [bodyHeadlandTurn, checked, firstBad, hnew, hres, decide_true, if_true, Bool.or_eq_true, bne_iff_ne]
  rfl

end turning

/-! ## FURROW_RESTART (R386, R395) -/

/-- A restart asked for: the lane flush is over, and the furrow's alarms are cleared. -/
def restartBegun (p : Packet) (x : Nat) (s : State) : State :=
  modHl (fun h => { h with
    restart := some { furrow := x, ticket := ticketFor specFurrowRestart p, startedAt := s.clk.edges }
    alarmsA := if x = 0 then 0 else h.alarmsA, alarmsB := if x = 1 then 0 else h.alarmsB
    seenA := if x = 0 then 0 else h.seenA, seenB := if x = 1 then 0 else h.seenB }) (laneFlush x s)

/-- The switch of an island closes. -/
def islandPowered (x : Nat) (s : State) : State :=
  { s with sup := if x = 0 then { s.sup with poweredA := true } else { s.sup with poweredB := true } }

section restarting
variable {p : Packet} {s : State} (hx : byteAt p.params 0 ≤ 1) (haction : byteAt p.params 1 ≤ 1) (hres : reservedAt p.params 2 2 = true)
include hx haction hres

theorem bodyFurrowRestart_eq : bodyFurrowRestart p s =
    if furState s (byteAt p.params 0) = 0 then .conflict
    else if s.hl.restart.isSome = true then .refuse stBusy 0
    else if byteAt p.params 1 = 1 then .ok [] (if furState s (byteAt p.params 0) = 2 then s else powerOff (byteAt p.params 0) 0x04 s)
    else .accepted (setFurState (byteAt p.params 0) 3 (setDigests (byteAt p.params 0) [] (setMissed (byteAt p.params 0) 0
      (halfLost (byteAt p.params 0) (islandPowered (byteAt p.params 0) (restartBegun p (byteAt p.params 0) s)))))) := by
  simp only [bodyFurrowRestart, checked, firstBad, hx, haction, hres, decide_true, if_true]
  rfl

end restarting

/-- Settles O47: check 10 passes in each clause, and so the body answers as the clause has it. -/
theorem headlandCommandsAnswerTurnAndRestart : Obligations.HeadlandCommandsAnswerTurnAndRestart := by
  unfold Obligations.HeadlandCommandsAnswerTurnAndRestart
  refine ⟨?status, ?turn, ?restart⟩
  case status =>
    intro p s r h hacc
    exact serveCmd_ok (body := bodyFurrowStatus) hacc (bodyFurrowStatus_eq _ r) (by decide) ((length_furrowReply r).trans_le (by decide))
  case turn =>
    intro p s r new t hacc hnew hres
    have hbody := bodyHeadlandTurn_eq (p := asked specHeadlandTurn p) (s := r) hnew hres
    refine ⟨fun hlead => ?_, fun hother => ⟨fun hbusy => ?_, fun hturn hdis => ⟨fun hfur => ?_, fun hfur => ?_⟩⟩⟩
    · exact serveCmd_ok (body := bodyHeadlandTurn) hacc (hbody.trans (if_pos hlead)) (by decide) (by simp)
    · exact serveCmd_refuse (body := bodyHeadlandTurn) hacc (hbody.trans ((if_neg hother).trans (if_pos hbusy)))
    · have hidle : ¬ (r.hl.turn.isSome = true ∨ r.hl.disagree.isSome = true) := by simp [hturn, hdis]
      exact serveCmd_conflict (body := bodyHeadlandTurn) hacc (hbody.trans ((if_neg hother).trans ((if_neg hidle).trans (if_pos hfur))))
    · have hidle : ¬ (r.hl.turn.isSome = true ∨ r.hl.disagree.isSome = true) := by simp [hturn, hdis]
      exact serveCmd_accepted (body := bodyHeadlandTurn) hacc
        (hbody.trans ((if_neg hother).trans ((if_neg hidle).trans (if_neg (not_not_intro hfur)))))
  case restart =>
    intro p s r x hacc hx haction hres
    have hbody := bodyFurrowRestart_eq (p := asked specFurrowRestart p) (s := r) hx haction hres
    refine ⟨fun hadmitted => ?_, fun hfenced => ⟨fun hbusy => ?_, fun hnone => ⟨fun hoff => ?_, fun hcopy => ?_⟩⟩⟩
    · exact serveCmd_conflict (body := bodyFurrowRestart) hacc (hbody.trans (if_pos hadmitted))
    · exact serveCmd_refuse (body := bodyFurrowRestart) hacc (hbody.trans ((if_neg hfenced).trans (if_pos hbusy)))
    · have hidle : ¬ r.hl.restart.isSome = true := by simp [hnone]
      exact serveCmd_ok (body := bodyFurrowRestart) hacc
        (hbody.trans ((if_neg hfenced).trans ((if_neg hidle).trans (if_pos hoff)))) (by decide) (by simp)
    · have hidle : ¬ r.hl.restart.isSome = true := by simp [hnone]
      have hno : ¬ byteAt p.params 1 = 1 := by omega
      exact serveCmd_accepted (body := bodyFurrowRestart) hacc
        (hbody.trans ((if_neg hfenced).trans ((if_neg hidle).trans (if_neg hno))))

end Sys2Proof.Machine
end

section
/-! PROOF. Digests, alarms and the arbiter's messages (spec/11 R374-R379). -/

namespace Sys2Proof.Machine

/-! ## DIGEST_CLOSE (R374) -/

/-- The digest that furrow n closes of the epoch that begins at e. -/
def closedDigest (n e : Nat) (d : Nat × Nat) (s : State) : Digest :=
  { epoch := e, count := d.1 % 65536, sum := d.2, alarms := alarms s n, arrived := s.clk.edges }

/-- The epoch that holds the time ns is closed at furrow n. -/
def epochClosed (n ns : Nat) (s : State) : State :=
  modFur n (fun y => { y with closedTo := epochNext ns, openDigests := y.openDigests.filter (fun o => decide (epochNext ns ≤ o.1)) }) s

section closing
variable {fu : Furrow} {ns : Nat} {s0 s : State} (hclk : s0.clk.coreStopped = false) (hopen : (fur s0 (furNo fu)).closedTo ≤ epochStart ns)
  (hdecides : decides s0 (furNo fu) = true) (hcore : (if furNo fu = 0 then s0.slices.coreA else s0.slices.coreB) = true)
  (hs : reachRep (furNo fu) (epochNext ns + 50000) s0 = s)
include hclk hopen hdecides hcore hs

theorem exec_digestClose : exec (.digestClose fu ns) s0 = .next (
    if (judged s (furNo fu)).contains (epochStart ns) then
      setJudged (furNo fu) ((judged s (furNo fu)).filter (· != epochStart ns)) (epochClosed (furNo fu) ns s)
    else if (epochClosed (furNo fu) ns s).hl.running && decides (epochClosed (furNo fu) ns s) (other (furNo fu)) then
      setDigests (furNo fu) (furDigests (epochClosed (furNo fu) ns s) (furNo fu) ++
        [closedDigest (furNo fu) (epochStart ns) (tget (0, 0) (fur s (furNo fu)).openDigests (epochStart ns)) (epochClosed (furNo fu) ns s)])
        (epochClosed (furNo fu) ns s)
    else epochClosed (furNo fu) ns s) := by
  have hdue : (decide (epochStart ns < (fur s0 (furNo fu)).closedTo) || !decides s0 (furNo fu) ||
      !(if furNo fu = 0 then s0.slices.coreA else s0.slices.coreB)) = false := by
    simp [Nat.not_lt.mpr hopen, hdecides, hcore]
  change execDigestClose fu ns s0 = _
  simp only [execDigestClose, hclk, hdue, hs, Bool.false_eq_true, if_false]
  rfl

theorem exec_digestClose_of_judged (hjudged : epochStart ns ∈ judged s (furNo fu)) : exec (.digestClose fu ns) s0 =
    .next (setJudged (furNo fu) ((judged s (furNo fu)).filter (· != epochStart ns)) (epochClosed (furNo fu) ns s)) :=
  (exec_digestClose hclk hopen hdecides hcore hs).trans (congrArg Host.Outcome.next (if_pos (List.contains_iff_mem.mpr hjudged)))

variable (hnew : epochStart ns ∉ judged s (furNo fu))
include hnew

theorem exec_digestClose_of_compared (hrun : (epochClosed (furNo fu) ns s).hl.running = true)
    (hother : decides (epochClosed (furNo fu) ns s) (other (furNo fu)) = true) : exec (.digestClose fu ns) s0 =
    .next (setDigests (furNo fu) (furDigests (epochClosed (furNo fu) ns s) (furNo fu) ++
      [closedDigest (furNo fu) (epochStart ns) (tget (0, 0) (fur s (furNo fu)).openDigests (epochStart ns)) (epochClosed (furNo fu) ns s)])
      (epochClosed (furNo fu) ns s)) := by
  have hcontains : ¬ (judged s (furNo fu)).contains (epochStart ns) = true := fun h => hnew (List.contains_iff_mem.mp h)
  exact (exec_digestClose hclk hopen hdecides hcore hs).trans
    (congrArg Host.Outcome.next ((if_neg hcontains).trans (if_pos (Bool.and_eq_true_iff.mpr ⟨hrun, hother⟩))))

theorem exec_digestClose_of_alone (halone : (epochClosed (furNo fu) ns s).hl.running = false ∨
    decides (epochClosed (furNo fu) ns s) (other (furNo fu)) = false) :
    exec (.digestClose fu ns) s0 = .next (epochClosed (furNo fu) ns s) := by
  have hcontains : ¬ (judged s (furNo fu)).contains (epochStart ns) = true := fun h => hnew (List.contains_iff_mem.mp h)
  have hnone : ¬ ((epochClosed (furNo fu) ns s).hl.running && decides (epochClosed (furNo fu) ns s) (other (furNo fu))) = true := by
    rcases halone with h | h <;> simp [h]
  exact (exec_digestClose hclk hopen hdecides hcore hs).trans (congrArg Host.Outcome.next ((if_neg hcontains).trans (if_neg hnone)))

end closing

/-! ## DIGEST_COMPARE (R374, R376) -/

/-- The two digests of an epoch are taken, and no miss in a row stands any more. -/
def digestsTaken (e : Nat) (s : State) : State :=
  modHl (fun h => { h with rxA := h.rxA.filter (fun d => d.epoch != e), rxB := h.rxB.filter (fun d => d.epoch != e), missA := 0, missB := 0 }) s

section comparing
variable {a b : Digest} {s : State} (hrun : s.hl.running = true)
  (ha : s.hl.rxA.find? (fun a => s.hl.rxB.any (fun b => b.epoch == a.epoch)) = some a)
  (hb : s.hl.rxB.find? (fun b => b.epoch == a.epoch) = some b) (hcompared : notCompared s a.epoch = false)
  (halarmsA : s.hl.alarmsA = 0) (halarmsB : s.hl.alarmsB = 0) (hstateA : s.hl.stateA = 0) (hstateB : s.hl.stateB = 0)
include hrun ha hb hcompared halarmsA halarmsB hstateA hstateB

theorem exec_digestCompare : exec .digestCompare s = .next (if a.sum == b.sum && a.count == b.count then hlCtr 0 (digestsTaken a.epoch s)
    else disagreement a.epoch { epoch := epochNo a.epoch, sumA := a.sum, sumB := b.sum, countA := a.count, countB := b.count }
      (digestsTaken a.epoch s)) := by
  have htaken : setMissed 0 0 (setMissed 1 0 (modHl (fun h => { h with
      rxA := h.rxA.filter (fun d => d.epoch != a.epoch), rxB := h.rxB.filter (fun d => d.epoch != a.epoch) }) s)) = digestsTaken a.epoch s := rfl
  have hnoted : notCompared (digestsTaken a.epoch s) a.epoch = false := hcompared
  have hfitA : (digestsTaken a.epoch s).hl.alarmsA = 0 := halarmsA
  have hfitB : (digestsTaken a.epoch s).hl.alarmsB = 0 := halarmsB
  have hliveA : (digestsTaken a.epoch s).hl.stateA = 0 := hstateA
  have hliveB : (digestsTaken a.epoch s).hl.stateB = 0 := hstateB
  change execDigestCompare s = _
  simp only [execDigestCompare, hrun, ha, hb, compareDigests, htaken, hnoted, hfitA, hfitB, hliveA, hliveB, Bool.not_true, bne_self_eq_false,
    Bool.or_self, Bool.false_eq_true, if_false]

end comparing

/-! ## DIGEST_MISS_TIMEOUT (R374) -/

/-- The epoch of a digest that came is judged without that of furrow f. -/
def missJudged (f : Nat) (d : Digest) (v : State) : State :=
  setJudged f (d.epoch :: (judged v f).take 63) (setDigests (other f) ((furDigests v (other f)).filter (fun y => y.epoch != d.epoch)) v)

/-- One more miss in a row of furrow f, counted. -/
def missCounted (f : Nat) (s : State) : State := setMissed f (missed s f + 1) (hlCtr (2 + f) s)

section missing
variable {fu : Furrow} {d : Digest} {s0 s : State} (hrun : s0.hl.running = true)
  (hd : (furDigests s0 (other (furNo fu))).find? (fun d => !(furDigests s0 (furNo fu)).any (fun y => y.epoch == d.epoch)) = some d)
  (hs : missJudged (furNo fu) d (reachEdge (d.arrived + 2560) s0) = s) (hcompared : notCompared s d.epoch = false)
  (hruns : stoppedFor s (furNo fu) d.epoch = false) (hmine : furState s (furNo fu) = 0) (hother : furState s (other (furNo fu)) = 0)
include hrun hd hs hcompared hruns hmine hother

theorem exec_digestMissTimeout : exec (.digestMissTimeout fu) s0 = .next (if missed s (furNo fu) + 1 < 3 then missCounted (furNo fu) s
    else failFurrow (furNo fu) 0x02 0x01 0 { epoch := epochNo d.epoch, missed := missed s (furNo fu) + 1 }
      (setMissed (furNo fu) 0 (missCounted (furNo fu) s))) := by
  unfold missJudged at hs
  change execDigestMissTimeout fu s0 = _
  simp only [execDigestMissTimeout, digestMiss, hrun, hd, hs, hcompared, hruns, hmine, hother, bne_self_eq_false, Bool.or_self,
    Bool.false_eq_true, if_true, if_false]
  rfl

end missing

/-! ## HEADLAND_ALARM (R375, R376) -/

/-- Headland has judged the alarms that stand, and no disagreement is pending any more. -/
def alarmsSeen (s : State) : State := modHl (fun h => { h with seenA := h.alarmsA, seenB := h.alarmsB, disagree := none }) s

section alarming
variable {s : State} (hrun : s.hl.running = true) (hnone : s.hl.restart = none) (hstateA : s.hl.stateA = 0) (hstateB : s.hl.stateB = 0)
include hrun hnone hstateA hstateB

theorem exec_headlandAlarm_of_first (ha : andNot s.hl.alarmsA s.hl.seenA ≠ 0) (hb : andNot s.hl.alarmsB s.hl.seenB = 0) (hclear : s.hl.alarmsB = 0) :
    exec .headlandAlarm s = .next (failFurrow 0 0x01 0x00 0 {} (alarmsSeen s)) := by
  rw [hclear] at hb
  change execHeadlandAlarm s = _
  simp [execHeadlandAlarm, headlandAlarm, alarmsSeen, furState, alarms, other, modHl, hrun, hnone, hstateA, hstateB, ha, hb, hclear]

theorem exec_headlandAlarm_of_second (ha : andNot s.hl.alarmsA s.hl.seenA = 0) (hb : andNot s.hl.alarmsB s.hl.seenB ≠ 0) (hclear : s.hl.alarmsA = 0) :
    exec .headlandAlarm s = .next (failFurrow 1 0x01 0x00 0 {} (alarmsSeen s)) := by
  rw [hclear] at ha
  change execHeadlandAlarm s = _
  simp [execHeadlandAlarm, headlandAlarm, alarmsSeen, furState, alarms, other, modHl, hrun, hnone, hstateA, hstateB, ha, hb, hclear]

theorem exec_headlandAlarm_of_both (ha : andNot s.hl.alarmsA s.hl.seenA ≠ 0) (hb : andNot s.hl.alarmsB s.hl.seenB ≠ 0) : exec .headlandAlarm s =
    .next (fire 0x1E7 0x01 [] (trail 0x08 0x00 s.hl.lead s.hl.lead 0 {} (alarmsSeen s))) := by
  change execHeadlandAlarm s = _
  simp [execHeadlandAlarm, headlandAlarm, alarmsSeen, furState, modHl, hrun, hnone, hstateA, hstateB, ha, hb]

end alarming

/-! ## The arbiter's messages (R378, R379) -/

/-- What a pending disagreement found. -/
def disagreeFinds (d : Disagree) : Finds := { epoch := d.epoch, sumA := d.sumA, sumB := d.sumB, countA := d.countA, countB := d.countB }

/-- A ruling settles the pending disagreement, counted. -/
def ruled (s : State) : State := hlCtr 6 (modHl (fun h => { h with disagree := none }) s)

section ruling
variable {m : List Byte} {d : Disagree} {s0 : State} (hrun : s0.hl.running = true) (hvalid : arbValid 0x81 2 m = true)
  (hpending : (arbHeard s0).hl.disagree = some d)
include hrun hvalid hpending

theorem exec_arbRuling_of_awaited (hseq : byteAt m 3 = d.seq) (htime : (arbHeard s0).clk.edges ≤ d.deadline) (hleast : 1 ≤ byteAt m 4)
    (hmost : byteAt m 4 ≤ 3) : exec (.arbRuling m) s0 = .next (if byteAt m 4 = 3 then keepBoth 0x03 d.seq (disagreeFinds d) (ruled (arbHeard s0))
      else failFurrow (2 - byteAt m 4) 0x04 0x03 d.seq (disagreeFinds d) (ruled (arbHeard s0))) := by
  have hlate : ¬ d.deadline < (arbHeard s0).clk.edges := Nat.not_lt.mpr htime
  change execArbRuling m s0 = _
  simp only [execArbRuling, hrun, hvalid, hpending, hseq, hleast, hmost, hlate, bne_self_eq_false, decide_true, decide_false, Bool.and_self,
    Bool.not_true, Bool.or_self, Bool.false_eq_true, if_false]
  rfl

theorem exec_arbRuling_of_unawaited (hunawaited : byteAt m 3 ≠ d.seq ∨ d.deadline < (arbHeard s0).clk.edges) :
    exec (.arbRuling m) s0 = .next (arbHeard s0) := by
  have hskip : (byteAt m 3 != d.seq || !(decide (1 ≤ byteAt m 4) && decide (byteAt m 4 ≤ 3)) || decide (d.deadline < (arbHeard s0).clk.edges)) = true := by
    rcases hunawaited with h | h <;> simp [h]
  change execArbRuling m s0 = _
  simp only [execArbRuling, hrun, hvalid, hpending, hskip, Bool.not_true, Bool.or_self, Bool.false_eq_true, if_false, if_true]

end ruling

theorem exec_arbStatusIn {m : List Byte} {s : State} (hrun : s.hl.running = true) (hvalid : arbValid 0x82 0 m = true) :
    exec (.arbStatusIn m) s = .next (arbHeard s) :=
  congrArg Host.Outcome.next (if_pos (Bool.and_eq_true_iff.mpr ⟨hrun, hvalid⟩))

theorem exec_arbRulingTimeout {d : Disagree} {s : State} (hpending : s.hl.disagree = some d) (hrun : s.hl.running = true) :
    exec .arbRulingTimeout s = .next (byPolicy d.seq (disagreeFinds d)
      (fire 0x1E6 0x03 [] (hlCtr 7 (modHl (fun h => { h with disagree := none }) (reachEdge d.deadline s))))) := by
  change execArbRulingTimeout s = _
  simp only [execArbRulingTimeout, hpending, hrun, if_true]
  rfl

section linking
variable {s : State}

theorem exec_arbLinkDown_of_up (hup : s.hl.arbUp = true) (hrun : s.hl.running = true) : exec .arbLinkDown s = .next (fire 0x1E6 0x02 []
    (modHl (fun h => { h with arbUp := false, arbTimes := [] }) (reachEdge (s.hl.arbTimes.headD s.clk.edges + 5 * msE) s))) := by
  change execArbLinkDown s = _
  simp only [execArbLinkDown, hup, hrun, Bool.not_true, Bool.or_self, Bool.false_eq_true, if_false]

theorem exec_arbLinkDown_of_down (hdown : s.hl.arbUp = false ∨ s.hl.running = false) : exec .arbLinkDown s = .next s := by
  have hskip : (!s.hl.arbUp || !s.hl.running) = true := by rcases hdown with h | h <;> simp [h]
  exact if_pos hskip

/-- Updates of Headland that agree on it give one state. -/
theorem modHl_congr {g h : Headland → Headland} (heq : g s.hl = h s.hl) : modHl g s = modHl h s := by
  rw [modHl, modHl, heq]

theorem exec_arbStatusOut {v t : State} (hv : reachEdge (s.hl.statusAt + msE) s = v)
    (ht : modHl (fun h => { h with statusAt := max s.clk.edges (v.hl.statusAt + msE) }) v = t) :
    exec .arbStatusOut s = .next (if t.hl.running then arbSend 0x01
      (toLE 1 t.hl.lead ++ toLE 1 t.hl.stateA ++ toLE 1 t.hl.stateB ++ toLE 1 t.hl.policy) t else t) := by
  have hsent : modHl (fun h => { h with statusAt := max s.clk.edges (h.statusAt + msE) }) v = t := by
    rw [← ht]
    exact modHl_congr rfl
  change execArbStatusOut s = _
  simp only [execArbStatusOut, hv, hsent]

end linking

/-- Settles O45: clause by clause, what each row does in the case that the clause names. -/
theorem digestsAlarmsAndRulingsReachTheirVerdict : Obligations.DigestsAlarmsAndRulingsReachTheirVerdict := by
  unfold Obligations.DigestsAlarmsAndRulingsReachTheirVerdict
  refine ⟨?close, ?compare, ?policy, ?miss, ?alarm, ?ruling, ?unawaited, ?status, ?timeout, ?down, ?out⟩
  case close =>
    intro fu ns s0 hclk n e s d s1 hopen hdecides hcore
    exact ⟨fun hjudged => exec_digestClose_of_judged hclk hopen hdecides hcore rfl hjudged,
      fun hnew hrun hother => exec_digestClose_of_compared hclk hopen hdecides hcore rfl hnew hrun hother,
      fun hnew halone => exec_digestClose_of_alone hclk hopen hdecides hcore rfl hnew halone⟩
  case compare =>
    intro a b s0 s z hrun ha hb hcompared halarmsA halarmsB hstateA hstateB
    have hexec := exec_digestCompare hrun ha hb hcompared halarmsA halarmsB hstateA hstateB
    refine ⟨fun hsum hcount => hexec.trans (congrArg Host.Outcome.next (if_pos ?_)), fun hdiffer => hexec.trans (congrArg Host.Outcome.next (if_neg ?_))⟩
    · simp [hsum, hcount]
    · simpa using hdiffer
  case policy => exact fun q z s => ⟨fun h => byPolicy_of_leadWins h q z, fun h => byPolicy_of_report h q z, fun h => byPolicy_of_tolerate h q z⟩
  case miss =>
    intro fu d s0 f v s hrun hd hcompared hruns hmine hother
    have hexec := exec_digestMissTimeout hrun hd rfl hcompared hruns hmine hother
    exact ⟨fun hfew => hexec.trans (congrArg Host.Outcome.next (if_pos hfew)),
      fun hmany => hexec.trans (congrArg Host.Outcome.next (if_neg (Nat.not_lt.mpr hmany)))⟩
  case alarm =>
    intro s a b s1 hrun hnone hstateA hstateB
    exact ⟨fun ha hb hclear => exec_headlandAlarm_of_first hrun hnone hstateA hstateB ha hb hclear,
      fun ha hb hclear => exec_headlandAlarm_of_second hrun hnone hstateA hstateB ha hb hclear,
      fun ha hb => exec_headlandAlarm_of_both hrun hnone hstateA hstateB ha hb⟩
  case ruling =>
    intro m d s0 s z s1 hrun hvalid hpending hseq htime
    have hexec := exec_arbRuling_of_awaited hrun hvalid hpending hseq htime
    refine ⟨fun hcode => ?_, fun hcode => ?_, fun hcode => ?_⟩ <;> rw [hexec (by omega) (by omega), hcode] <;> rfl
  case unawaited => exact fun m d s0 hrun hvalid hpending hunawaited => exec_arbRuling_of_unawaited hrun hvalid hpending hunawaited
  case status => exact fun m s hrun hvalid => exec_arbStatusIn hrun hvalid
  case timeout => exact fun d s hpending hrun => exec_arbRulingTimeout hpending hrun
  case down => exact fun s => ⟨exec_arbLinkDown_of_up, exec_arbLinkDown_of_down⟩
  case out => exact fun s => exec_arbStatusOut rfl rfl

end Sys2Proof.Machine
end

section
/-! PROOF. Winnow's rulings on copies, and what its sweeps and timers forget (spec/11 R359-R362, R367, R371, R382). -/

namespace Sys2Proof.Machine

/-! ## WINNOW_ARRIVAL: the copy that is ruled next (R360) -/

/-- The copies of a port that Winnow has not ruled on. -/
def unruledCopies (s : State) (p : Nat) : List EgCopy := (port s p).drill.buf.filter (fun c => c.state == 0)

/-- The one of two copies that is ruled first: the earlier, at one time the lead furrow's; where none is kept, the copy itself. -/
def ruledFirst (lead : Nat) (kept : Option EgCopy) (c : EgCopy) : Option EgCopy :=
  match kept with
  | none => some c
  | some a => if c.firstAt < a.firstAt || (c.firstAt == a.firstAt && c.fur == lead && a.fur != lead) then some c else some a

theorem nextUnruled_eq (s : State) (p : Nat) : nextUnruled s p = (unruledCopies s p).foldl (ruledFirst s.hl.lead) none := rfl

/-- Of two copies the first ruled is one of them, and begins no later than either. -/
theorem ruledFirst_some (lead : Nat) (a c : EgCopy) :
    ∃ b, ruledFirst lead (some a) c = some b ∧ (b = a ∨ b = c) ∧ b.firstAt ≤ a.firstAt ∧ b.firstAt ≤ c.firstAt := by
  unfold ruledFirst
  dsimp only
  split
  next h =>
    simp only [Bool.or_eq_true, decide_eq_true_eq, Bool.and_eq_true, beq_iff_eq] at h
    exact ⟨c, rfl, .inr rfl, by omega, le_rfl⟩
  next h =>
    simp only [Bool.or_eq_true, decide_eq_true_eq, not_or] at h
    exact ⟨a, rfl, .inl rfl, le_rfl, by omega⟩

/-- The copy that a list leaves is the kept one or one of the list, and none of them begins before it. -/
theorem foldl_ruledFirst {lead : Nat} {l : List EgCopy} {a c : EgCopy} (h : l.foldl (ruledFirst lead) (some a) = some c) :
    (c = a ∨ c ∈ l) ∧ c.firstAt ≤ a.firstAt ∧ ∀ d ∈ l, c.firstAt ≤ d.firstAt := by
  induction l generalizing a with
  | nil =>
    obtain rfl : a = c := Option.some.inj h
    simp
  | cons x l ih =>
    obtain ⟨b, hb, hmem, hleft, hright⟩ := ruledFirst_some lead a x
    rw [List.foldl_cons, hb] at h
    obtain ⟨hin, hfirst, hall⟩ := ih h
    refine ⟨?_, hfirst.trans hleft, List.forall_mem_cons.mpr ⟨hfirst.trans hright, hall⟩⟩
    rcases hin with rfl | hin
    · rcases hmem with rfl | rfl <;> simp
    · exact .inr (List.mem_cons_of_mem _ hin)

theorem nextUnruled_earliest {s : State} {p : Nat} {c : EgCopy} (h : nextUnruled s p = some c) :
    c ∈ unruledCopies s p ∧ ∀ d ∈ unruledCopies s p, c.firstAt ≤ d.firstAt := by
  rw [nextUnruled_eq] at h
  cases hl : unruledCopies s p with
  | nil => simp [hl] at h
  | cons x l =>
    rw [hl] at h
    obtain ⟨hin, hfirst, hall⟩ := foldl_ruledFirst (a := x) h
    exact ⟨List.mem_cons.mpr hin, List.forall_mem_cons.mpr ⟨hfirst, hall⟩⟩

theorem mem_unruledCopies {s : State} {p : Nat} {c : EgCopy} : c ∈ unruledCopies s p ↔ c ∈ (port s p).drill.buf ∧ c.state = 0 := by
  simp [unruledCopies]

section arrival
variable {s : State} {p : Nat} (hclk : s.clk.coreStopped = false)
include hclk

theorem exec_winnowArrival_of_none (upset : Nat) (hnone : nextUnruled s p = none) : exec (.winnowArrival p upset) s = .next s := by
  change execWinnowArrival p upset s = _
  simp only [execWinnowArrival, hclk, hnone, Bool.false_eq_true, if_false]

theorem exec_winnowArrival_of_some (upset : Nat) {c : EgCopy} (hsome : nextUnruled s p = some c) : exec (.winnowArrival p upset) s =
    .next (winDo p (winFuel s p) [.check c.uid c.id [2, 3, 4, 5, 6]] (winUpset p upset c s)) := by
  change execWinnowArrival p upset s = _
  simp only [execWinnowArrival, hclk, hsome, Bool.false_eq_true, if_false]

end arrival

/-! ## The twin check (R361, R362) -/

/-- The pair of a tag has been seen now. -/
def twinSeen (now : Nat) (w : Twin) : Twin := { w with topUs := now % 32768, lastUs := now }

section twins
variable {p u i : Nat} {c : EgCopy} {x : Frame} {s : State} {w : Twin}

theorem checkTwin_of_old (hold : 200 < usSince (arrivalUs s) x.arrUs) : checkTwin p u i c x s = (.drop, twinStale p s) := if_pos hold

variable (hyoung : usSince (arrivalUs s) x.arrUs ≤ 200)
include hyoung

theorem checkTwin_of_below (hslide : twinSlide (arrivalUs s) x.tag (twin s p x.port) = none) : checkTwin p u i c x s = (.drop, twinStale p s) := by
  simp only [checkTwin, if_neg (Nat.not_lt.mpr hyoung), hslide]

variable (hslide : twinSlide (arrivalUs s) x.tag (twin s p x.port) = some w)
include hslide

theorem checkTwin_of_open (hopen : slotGet w.slots x.tag = 0) : checkTwin p u i c x s =
    (.pass, wctr 0 p (addHold p u i { kind := 1, key := x.port, slot := x.tag }
      (setTwin p x.port { twinSeen (arrivalUs s) w with slots := slotSet w.slots x.tag (1 + c.fur) } (setTwin p x.port (twinSeen (arrivalUs s) w) s)))) := by
  simp only [checkTwin, if_neg (Nat.not_lt.mpr hyoung), hslide, ruleSlot, hopen, slotRow, if_true]
  rfl

theorem checkTwin_of_sent (hsent : slotGet w.slots x.tag = 3) :
    checkTwin p u i c x s = (.drop, wctr 1 p (setTwin p x.port (twinSeen (arrivalUs s) w) s)) := by
  simp only [checkTwin, if_neg (Nat.not_lt.mpr hyoung), hslide, ruleSlot, hsent, slotRow, bne_self_eq_false, Bool.false_and, Bool.false_eq_true,
    OfNat.ofNat_ne_zero, if_false]
  rfl

end twins

/-! ## What the sweeps forget (R361, R367, R382) -/

section sweeping
variable {s : State} (hclk : s.clk.coreStopped = false)
include hclk

theorem exec_twinSweep {v : State} (hv : reachEdge (s.red.sweptAt + 100 * usE) s = v) : exec .twinSweep s =
    .next { modRed (fun r => { r with sweptAt := v.clk.edges }) v with ports := tmap {} v.ports (fun x => { x with win := { x.win with
      twins := x.win.twins.map (fun e => (e.1, if 200 < usSince (arrivalUs v) e.2.lastUs then { e.2 with valid := false } else e.2)) } }) } := by
  change execTwinSweep s = _
  simp only [execTwinSweep, hclk, hv, Bool.false_eq_true, if_false]
  rfl

theorem exec_nodeForget : exec .nodeForget s = .next { s with red := { s.red with
    nodes := s.red.nodes.filter (fun n => decide (s.clk.edges < n.last + forgetSec s n.net * secE)) } } := by
  change execNodeForget s = _
  simp only [execNodeForget, hclk, Bool.false_eq_true, if_false]
  rfl

theorem exec_turnFilterExpiry (p : Nat) : exec (.turnFilterExpiry p) s = .next (modWin p (fun w => { w with filter := w.filter.filter (fun e =>
    decide (nowNs s ≤ e.ns + ((if resLimit s e.cls = 0 then 1000 else resLimit s e.cls) + 1) * 1000000)) }) s) := by
  change execTurnFilterExpiry p s = _
  simp only [execTurnFilterExpiry, hclk, Bool.false_eq_true, if_false, ← decide_not, Nat.not_lt]

end sweeping

/-! ## Recovery functions (R371) -/

section recovering
variable {h p : Nat} {r : FrerRec} {s : State} (hclk : s.clk.coreStopped = false) (hrec : frer s (frerKey h p) = some r)
include hclk hrec

theorem exec_frerRecoveryTimeout_of_taking (htake : r.take = true) : exec (.frerRecoveryTimeout h p) s = .next s := by
  change execFrerRecoveryTimeout h p s = _
  simp only [execFrerRecoveryTimeout, hclk, hrec, htake, Bool.false_eq_true, if_false, if_true]

theorem exec_frerRecoveryTimeout_of_accepted (htake : r.take = false) :
    exec (.frerRecoveryTimeout h p) s = .next (frerReset h p (reachEdge (r.last + r.timeout * msE) s)) := by
  change execFrerRecoveryTimeout h p s = _
  simp only [execFrerRecoveryTimeout, hclk, hrec, htake, Bool.false_eq_true, if_false]

theorem exec_latentErrorTest_of_off (hflag : bit r.flags 2 = false) : exec (.latentErrorTest h p) s = .next s := by
  change execLatentErrorTest h p s = _
  simp only [execLatentErrorTest, hclk, hrec, hflag, Bool.not_false, Bool.false_eq_true, if_false, if_true]

theorem exec_latentErrorTest_of_on (hflag : bit r.flags 2 = true) {t : State}
    (ht : modFrer (frerKey h p) (latentTested (r.testedAt + 2000 * msE)) (reachEdge (r.testedAt + 2000 * msE) s) = t) :
    exec (.latentErrorTest h p) s = .next (if 2 * r.history < (latentDiff r).natAbs then frerEvent 0x01 h p t else t) := by
  change execLatentErrorTest h p s = _
  simp only [execLatentErrorTest, hclk, hrec, hflag, ht, Bool.not_true, Bool.false_eq_true, if_false]

end recovering

/-- Passed and discarded frames differ by more than twice the history length, one way or the other. -/
theorem latentDiff_beyond_iff (r : FrerRec) : 2 * r.history < (latentDiff r).natAbs ↔
    2 * (r.history : Int) < latentDiff r ∨ latentDiff r < -(2 * (r.history : Int)) := by
  omega

/-- Settles O43: clause by clause, what each row does in the case that the clause names. -/
theorem winnowRulesOnCopiesAndForgets : Obligations.WinnowRulesOnCopiesAndForgets := by
  unfold Obligations.WinnowRulesOnCopiesAndForgets
  refine ⟨?arrival, ?earliest, ?twin, ?sweep, ?nodes, ?filter, ?recovery, ?latent⟩
  case arrival =>
    exact fun p upset s hclk => ⟨exec_winnowArrival_of_none hclk upset, fun c hsome => exec_winnowArrival_of_some hclk upset hsome⟩
  case earliest =>
    intro p s c hsome
    obtain ⟨hmem, hfirst⟩ := nextUnruled_earliest hsome
    obtain ⟨hbuf, hstate⟩ := mem_unruledCopies.mp hmem
    exact ⟨hbuf, hstate, fun d hd hopen => hfirst d (mem_unruledCopies.mpr ⟨hd, hopen⟩)⟩
  case twin =>
    intro p u i c x s now
    refine ⟨checkTwin_of_old, fun hyoung => ⟨checkTwin_of_below hyoung, fun w hslide => ?_⟩⟩
    exact ⟨checkTwin_of_open hyoung hslide, checkTwin_of_sent hyoung hslide⟩
  case sweep => exact fun s hclk => exec_twinSweep hclk rfl
  case nodes => exact fun s hclk => exec_nodeForget hclk
  case filter => exact fun p s hclk => exec_turnFilterExpiry hclk p
  case recovery =>
    intro h p r s hclk hrec
    exact ⟨exec_frerRecoveryTimeout_of_taking hclk hrec, exec_frerRecoveryTimeout_of_accepted hclk hrec⟩
  case latent =>
    intro h p r s hclk hrec
    refine ⟨exec_latentErrorTest_of_off hclk hrec, fun hflag => ?_⟩
    rw [exec_latentErrorTest_of_on hclk hrec hflag rfl]
    simp only [latentDiff_beyond_iff]
    rfl

end Sys2Proof.Machine
end

section
/-! PROOF. PRP_PAIR_SET, HSR_RING_SET, FRER_SET and WINNOW_READ: what their bodies answer once check 10 has passed (spec/11 R366, R396-R399). -/

namespace Sys2Proof.Machine

section serving
variable {c : CmdSpec} {body : Packet → State → CmdResult} {p : Packet} {s t : State} {P : Prop} [Decidable P] {st : Nat}

/-- A row whose body refuses where P holds, and is OK otherwise. -/
theorem serveCmd_refuse_or_ok (h : accepts c p s = true) (hb : body (asked c p) (reached c p s) = if P then .refuse st 0 else .ok [] t)
    (ho : c.opcode ≠ 0x0101) : serveCmd c body p s = .next (if P then answered c p st [] (reached c p s) else answered c p stOk [] t) := by
  by_cases hP : P
  · exact (serveCmd_refuse h (hb.trans (if_pos hP))).trans (congrArg Host.Outcome.next (if_pos hP).symm)
  · exact (serveCmd_ok h (hb.trans (if_neg hP)) ho (by simp)).trans (congrArg Host.Outcome.next (if_neg hP).symm)

/-- A row whose body is OK where P holds, and refuses otherwise. -/
theorem serveCmd_ok_or_refuse (h : accepts c p s = true) (hb : body (asked c p) (reached c p s) = if P then .ok [] t else .refuse st 0)
    (ho : c.opcode ≠ 0x0101) : serveCmd c body p s = .next (if P then answered c p stOk [] t else answered c p st [] (reached c p s)) := by
  by_cases hP : P
  · exact (serveCmd_ok h (hb.trans (if_pos hP)) ho (by simp)).trans (congrArg Host.Outcome.next (if_pos hP).symm)
  · exact (serveCmd_refuse h (hb.trans (if_neg hP))).trans (congrArg Host.Outcome.next (if_neg hP).symm)

end serving

/-! ## PRP_PAIR_SET (R396) -/

/-- A port serves no ring, and no network but n. -/
def freeForNet (s : State) (n q : Nat) : Prop := ringOf s q = none ∧ ∀ m l, netOf s q = some (m, l) → m = n

theorem freeForNet_iff {s : State} {n q : Nat} :
    ((ringOf s q).isSome || (match netOf s q with | some (m, _) => m != n | none => false)) = false ↔ freeForNet s n q := by
  unfold freeForNet
  cases ringOf s q <;> rcases netOf s q with _ | ⟨m, l⟩ <;> simp

/-- One of the ports of two masks is not free for network n. -/
def netTaken (s : State) (n a c : Nat) : Bool :=
  (List.range 64).any (fun q => (bit a q || bit c q) && ((ringOf s q).isSome || (match netOf s q with | some (m, _) => m != n | none => false)))

theorem netTaken_iff {s : State} {n a c : Nat} :
    netTaken s n a c = true ↔ ∃ q, q < 64 ∧ (bit a q = true ∨ bit c q = true) ∧ ¬ freeForNet s n q := by
  simp only [netTaken, List.any_eq_true, List.mem_range, Bool.and_eq_true, Bool.or_eq_true (bit a _), ← freeForNet_iff, Bool.not_eq_false]

/-- The fields of SET are legal. -/
structure PrpFits (b : List Byte) (s : State) : Prop where
  lanA : maskOk s (le b 4 8) = true
  someA : le b 4 8 ≠ 0
  lanB : maskOk s (le b 12 8) = true
  someB : le b 12 8 ≠ 0
  apart : le b 4 8 &&& le b 12 8 = 0
  flags : byteAt b 20 < 4
  forget : 1 ≤ byteAt b 21
  entryLeast : 10 ≤ le b 22 2
  entryMost : le b 22 2 ≤ 10000

/-- The network that SET carries. -/
def netAsked (b : List Byte) : PrpNet :=
  { enable := true, lanA := le b 4 8, lanB := le b 12 8, flags := byteAt b 20, entryForget := le b 22 2, nodeForget := byteAt b 21 }

section prp
variable {p : Packet} {s : State} (hnet : byteAt p.params 0 < 4) (hres : reservedAt p.params 2 2 = true)
include hnet hres

theorem bodyPrpPairSet_of_clear (hop : byteAt p.params 1 = 1) (hflags : byteAt p.params 20 < 4) : bodyPrpPairSet p s =
    .ok [] (modRed (fun r => { r with prp := tdel r.prp (byteAt p.params 0), nodes := r.nodes.filter (fun x => x.net != byteAt p.params 0) })
      (touchPorts (maskPorts ((prpNet s (byteAt p.params 0)).lanA ||| (prpNet s (byteAt p.params 0)).lanB)) s)) := by
  simp only [bodyPrpPairSet, hop, checked, firstBad, hnet, hres, hflags, List.cons_append, List.nil_append, Nat.le_refl, decide_true, Nat.reduceBEq,
    Bool.not_false, Bool.false_eq_true, if_true, if_false]

theorem bodyPrpPairSet_of_set (hop : byteAt p.params 1 = 0) (hfits : PrpFits p.params s) : bodyPrpPairSet p s =
    if netTaken s (byteAt p.params 0) (le p.params 4 8) (le p.params 12 8) = true then .refuse stExists 0
    else .ok [] (touchPorts (maskPorts (le p.params 4 8 ||| le p.params 12 8))
      (modRed (fun r => { r with prp := tset {} r.prp (byteAt p.params 0) (netAsked p.params) }) s)) := by
  obtain ⟨hlanA, hsomeA, hlanB, hsomeB, hapart, hflags, hforget, hleast, hmost⟩ := hfits
  have hA : (maskOk s (le p.params 4 8) && le p.params 4 8 != 0) = true := by simp [hlanA, hsomeA]
  have hB : (maskOk s (le p.params 12 8) && le p.params 12 8 != 0 && le p.params 4 8 &&& le p.params 12 8 == 0) = true := by
    simp [hlanB, hsomeB, hapart]
  simp only [bodyPrpPairSet, hop, checked, firstBad, hnet, hres, hA, hB, hflags, hforget, hleast, hmost, List.cons_append, List.nil_append,
    Nat.zero_le, decide_true, Bool.and_self, beq_self_eq_true, Bool.not_true, Bool.false_eq_true, if_true, if_false]
  rfl

end prp

/-! ## HSR_RING_SET (R397) -/

/-- A port serves no network and no ring. -/
def freeForRing (s : State) (q : Nat) : Prop := netOf s q = none ∧ ringOf s q = none

theorem freeForRing_iff {s : State} {q : Nat} : ((netOf s q).isSome || (ringOf s q).isSome) = false ↔ freeForRing s q := by
  simp [freeForRing]

/-- One of two ports serves a network or a ring. -/
def ringTaken (s : State) (a c : Nat) : Bool :=
  (netOf s a).isSome || (ringOf s a).isSome || ((netOf s c).isSome || (ringOf s c).isSome)

theorem ringTaken_iff {s : State} {a c : Nat} : ringTaken s a c = true ↔ ¬ (freeForRing s a ∧ freeForRing s c) := by
  rw [← freeForRing_iff, ← freeForRing_iff, ← Bool.or_eq_false_iff, Bool.not_eq_false, ringTaken]

/-- The fields of SET are legal. -/
structure HsrFits (b : List Byte) (s : State) : Prop where
  portA : portExists s (byteAt b 2) = true
  portB : portExists s (byteAt b 3) = true
  apart : byteAt b 2 ≠ byteAt b 3
  mode : byteAt b 4 = 1 ∨ (byteAt b 4 = 2 ∧ byteAt b 5 < 8 ∧ (hsrRing s (byteAt b 5)).enable = true)
  entryLeast : 10 ≤ le b 6 2
  entryMost : le b 6 2 ≤ 10000
  forget : 1 ≤ byteAt b 8

/-- The ring that SET carries. -/
def ringAsked (b : List Byte) : HsrRing :=
  { enable := true, portA := byteAt b 2, portB := byteAt b 3, mode := byteAt b 4, peer := byteAt b 5, entryForget := le b 6 2, nodeForget := byteAt b 8 }

section hsr
variable {p : Packet} {s : State} (hring : byteAt p.params 0 < 8) (hres : reservedAt p.params 9 7 = true)
include hring hres

theorem bodyHsrRingSet_of_clear (hop : byteAt p.params 1 = 1) : bodyHsrRingSet p s =
    .ok [] (modRed (fun r => { r with hsr := tdel r.hsr (byteAt p.params 0) })
      (touchPorts (if (hsrRing s (byteAt p.params 0)).enable then [(hsrRing s (byteAt p.params 0)).portA, (hsrRing s (byteAt p.params 0)).portB] else []) s)) := by
  simp only [bodyHsrRingSet, hop, checked, firstBad, hring, hres, List.cons_append, List.nil_append, Nat.le_refl, decide_true, Nat.reduceBEq,
    Bool.not_false, Bool.false_eq_true, if_true, if_false]

theorem bodyHsrRingSet_of_set (hop : byteAt p.params 1 = 0) (hfits : HsrFits p.params s) : bodyHsrRingSet p s =
    if ringTaken s (byteAt p.params 2) (byteAt p.params 3) = true then .refuse stExists 0
    else .ok [] (touchPorts [byteAt p.params 2, byteAt p.params 3]
      (modRed (fun r => { r with hsr := tset {} r.hsr (byteAt p.params 0) (ringAsked p.params) }) s)) := by
  obtain ⟨hportA, hportB, hapart, hmode, hleast, hmost, hforget⟩ := hfits
  have hB : (portExists s (byteAt p.params 3) && byteAt p.params 2 != byteAt p.params 3) = true := by simp [hportB, hapart]
  have hkind : (byteAt p.params 4 == 1 || byteAt p.params 4 == 2) = true := by rcases hmode with h | h <;> simp [h]
  have hpeer : (byteAt p.params 4 != 2 || (decide (byteAt p.params 5 < 8) && (hsrRing s (byteAt p.params 5)).enable)) = true := by
    rcases hmode with h | h <;> simp [h]
  simp only [bodyHsrRingSet, hop, checked, firstBad, hring, hres, hportA, hB, hkind, hpeer, hleast, hmost, hforget, List.cons_append, List.nil_append,
    Nat.zero_le, decide_true, Bool.and_self, beq_self_eq_true, Bool.not_true, Bool.false_eq_true, if_true, if_false]
  rfl

end hsr

/-! ## FRER_SET (R371, R398) -/

/-- The recovery function that FRER_SET creates, fresh from now. -/
def recoveryAsked (b : List Byte) (e : Nat) : FrerRec :=
  frerFresh { alg := byteAt b 9, history := byteAt b 10, flags := byteAt b 11, timeout := le b 12 2, last := e, testedAt := e, baseAt := e }

/-- The fields of a new recovery function are legal. -/
structure RecoveryFits (b : List Byte) (s : State) : Prop where
  port : portExists s (byteAt b 8) = true
  alg : byteAt b 9 ≤ 1
  historyLeast : 2 ≤ byteAt b 10
  historyMost : byteAt b 10 ≤ 128
  flags : byteAt b 11 < 8
  timeoutLeast : 1 ≤ le b 12 2
  timeoutMost : le b 12 2 ≤ 10000

/-- The counters of a recovery function, as READ answers them. -/
def recoveryReply (x : FrerRec) : List Byte :=
  toLE 4 x.passed ++ toLE 4 x.discarded ++ toLE 4 x.outOfOrder ++ toLE 4 x.rogue ++ toLE 4 x.resets ++ toLE 2 x.lastSeq ++ zeros 2

section frer
variable {p : Packet} {s : State} (hres : reservedAt p.params 1 3 = true) (hleast : 1 ≤ le p.params 4 4) (hmost : le p.params 4 4 < 2 ^ 20)
  (hend : reservedAt p.params 14 2 = true)
include hres hleast hmost hend

theorem bodyFrerSet_of_generation (hclean : p.upset = false) (hop : byteAt p.params 0 = 0) : bodyFrerSet p s =
    if 4096 ≤ s.red.gen.length ∧ tmem s.red.gen (le p.params 4 4) = false then .refuse stExhausted 0
    else .ok [] (modRed (fun r => { r with gen := tput r.gen (le p.params 4 4) 0 }) s) := by
  simp only [bodyFrerSet, hop, checked, firstBad, hres, hleast, hmost, hend, unlessUpset_of_clean _ _ hclean, List.cons_append, List.nil_append,
    Nat.zero_le, decide_true, Bool.and_self, Bool.and_eq_true, Bool.not_eq_true', decide_eq_true_eq, zero_ne_one, if_true, if_false, id]

theorem bodyFrerSet_of_recovery (hclean : p.upset = false) (hop : byteAt p.params 0 = 1) (hfits : RecoveryFits p.params s) : bodyFrerSet p s =
    if 16384 ≤ s.red.frerRec.length ∧ tmem s.red.frerRec (frerKey (le p.params 4 4) (byteAt p.params 8)) = false then .refuse stExhausted 0
    else .ok [] (touchPort (byteAt p.params 8) true (modRed (fun r => { r with
      frerRec := tput r.frerRec (frerKey (le p.params 4 4) (byteAt p.params 8)) (recoveryAsked p.params s.clk.edges) }) s)) := by
  obtain ⟨hport, halg, hhistLeast, hhistMost, hflags, htimeLeast, htimeMost⟩ := hfits
  simp only [bodyFrerSet, hop, checked, firstBad, hres, hleast, hmost, hend, hport, halg, hhistLeast, hhistMost, hflags, htimeLeast, htimeMost,
    unlessUpset_of_clean _ _ hclean, List.cons_append, List.nil_append, Nat.one_le_ofNat, decide_true, Bool.and_self, Bool.and_eq_true,
    Bool.not_eq_true', decide_eq_true_eq, if_true, id]
  rfl

/-- DELETE and READ name a generation by port 0xFF, a recovery function by a port that exists. -/
def frerNamed (b : List Byte) (s : State) : Prop := byteAt b 8 = 0xFF ∨ portExists s (byteAt b 8) = true

/-- DELETE and READ pass check 10 where they name a function. -/
theorem frerChecks_of_named (hop : byteAt p.params 0 ≤ 3) (hnamed : frerNamed p.params s) (k : CmdResult) :
    checked ([(decide (byteAt p.params 0 ≤ 3), 0), (reservedAt p.params 1 3, 1), (decide (1 ≤ le p.params 4 4) && decide (le p.params 4 4 < 2 ^ 20), 4)] ++
      [(byteAt p.params 8 == 0xFF || portExists s (byteAt p.params 8), 8)] ++ [(reservedAt p.params 14 2, 14)]) k = k := by
  refine checked_of_none _ (firstBad_of_all fun e he => ?_)
  simp only [List.mem_append, List.mem_cons, List.not_mem_nil, or_false] at he
  rcases he with ((rfl | rfl | rfl) | rfl) | rfl
  exacts [decide_eq_true hop, hres, Bool.and_eq_true_iff.mpr ⟨decide_eq_true hleast, decide_eq_true hmost⟩, by simpa [frerNamed] using hnamed, hend]

theorem bodyFrerSet_of_delete (hclean : p.upset = false) (hop : byteAt p.params 0 = 2) (hnamed : frerNamed p.params s) : bodyFrerSet p s =
    if byteAt p.params 8 = 0xFF then
      if tmem s.red.gen (le p.params 4 4) = true then .ok [] (modRed (fun r => { r with gen := tdel r.gen (le p.params 4 4) }) s)
      else .refuse stNotFound 0
    else if tmem s.red.frerRec (frerKey (le p.params 4 4) (byteAt p.params 8)) = true then
      .ok [] (touchPort (byteAt p.params 8) true (modRed (fun r => { r with
        frerRec := tdel r.frerRec (frerKey (le p.params 4 4) (byteAt p.params 8)) }) s))
    else .refuse stNotFound 0 := by
  have hchecks := frerChecks_of_named hres hleast hmost hend (hop.trans_le (by decide)) hnamed
  rw [hop] at hchecks
  simp only [bodyFrerSet, hop, hchecks, unlessUpset_of_clean _ _ hclean, OfNat.ofNat_ne_one, OfNat.ofNat_ne_zero, if_false, id, beq_iff_eq,
    Bool.not_eq_true', ← Bool.not_eq_true, ite_not]

theorem bodyFrerSet_of_read (hop : byteAt p.params 0 = 3) (hnamed : frerNamed p.params s) : bodyFrerSet p s =
    if byteAt p.params 8 = 0xFF then
      match tget? s.red.gen (le p.params 4 4) with
      | none => .refuse stNotFound 0
      | some n => .ok (zeros 20 ++ toLE 2 ((n + 65535) % 65536) ++ zeros 2) s
    else
      match frer s (frerKey (le p.params 4 4) (byteAt p.params 8)) with
      | none => .refuse stNotFound 0
      | some x => .ok (recoveryReply x) (touchPort (byteAt p.params 8) true s) := by
  have hchecks := frerChecks_of_named hres hleast hmost hend hop.le hnamed
  rw [hop] at hchecks
  simp only [bodyFrerSet, hop, hchecks, OfNat.ofNat_ne_one, OfNat.ofNat_ne_zero, if_false, beq_iff_eq]
  rfl

end frer

theorem length_recoveryReply (x : FrerRec) : (recoveryReply x).length = 24 := by
  simp [recoveryReply]

/-! ## WINNOW_READ (R399) -/

/-- The time and the 28 counters of a port since the last clear. -/
def winnowReply (s : State) (q : Nat) : List Byte :=
  toLE 8 (nowT64 s) ++ (List.range 28).flatMap (fun i => toLE 4 (tget 0 (port s q).win.ctr i + 2 ^ 48 - tget 0 (port s q).win.base i))

theorem length_winnowReply (s : State) (q : Nat) : (winnowReply s q).length = 120 := by
  simp [winnowReply, List.length_flatMap]

theorem bodyWinnowRead_of_legal {p : Packet} {s : State} (hport : portExists s (byteAt p.params 0) = true) (hclear : byteAt p.params 1 ≤ 1)
    (hres : reservedAt p.params 2 2 = true) : bodyWinnowRead p s = .ok (winnowReply s (byteAt p.params 0))
      (if byteAt p.params 1 = 1 then modWin (byteAt p.params 0) (fun w => { w with base := w.ctr }) (touchPort (byteAt p.params 0) true s)
       else touchPort (byteAt p.params 0) true s) := by
  simp only [bodyWinnowRead, checked, firstBad, hport, hclear, hres, decide_true, if_true]
  rfl

/-! ## The obligation -/

/-- Settles O44: check 10 passes in each clause, and so the body answers as the clause has it. -/
theorem redundancyCommandsSetNetworksRingsAndFunctions : Obligations.RedundancyCommandsSetNetworksRingsAndFunctions := by
  unfold Obligations.RedundancyCommandsSetNetworksRingsAndFunctions
  refine ⟨?prp, ?hsr, ?frer, ?winnow⟩
  case prp =>
    intro p s r b n a c mine hacc hnet hres
    refine ⟨fun hop hflags => ?_, fun hop hlanA hsomeA hlanB hsomeB hapart hflags hforget hleast hmost => ?_⟩
    · exact serveCmd_ok (body := bodyPrpPairSet) hacc (bodyPrpPairSet_of_clear (p := asked specPrpPairSet p) hnet hres hop hflags) (by decide) (by simp)
    · have hbody := bodyPrpPairSet_of_set (p := asked specPrpPairSet p) (s := r) hnet hres hop
        ⟨hlanA, hsomeA, hlanB, hsomeB, hapart, hflags, hforget, hleast, hmost⟩
      refine ⟨fun hfree => ?_, fun htaken => ?_⟩
      · have hnone : ¬ netTaken r n a c = true := fun h => by
          obtain ⟨q, hq, hmask, hnot⟩ := netTaken_iff.mp h
          exact hnot (hfree q hq hmask)
        exact serveCmd_ok (body := bodyPrpPairSet) hacc (hbody.trans (if_neg hnone)) (by decide) (by simp)
      · exact serveCmd_refuse (body := bodyPrpPairSet) hacc (hbody.trans (if_pos (netTaken_iff.mpr htaken)))
  case hsr =>
    intro p s r b n a c mine hacc hring hres
    refine ⟨fun hop => ?_, fun hop hportA hportB hapart hmode hleast hmost hforget => ?_⟩
    · exact serveCmd_ok (body := bodyHsrRingSet) hacc (bodyHsrRingSet_of_clear (p := asked specHsrRingSet p) hring hres hop) (by decide) (by simp)
    · have hbody := bodyHsrRingSet_of_set (p := asked specHsrRingSet p) (s := r) hring hres hop ⟨hportA, hportB, hapart, hmode, hleast, hmost, hforget⟩
      refine ⟨fun hfree => ?_, fun htaken => ?_⟩
      · exact serveCmd_ok (body := bodyHsrRingSet) hacc (hbody.trans (if_neg (mt ringTaken_iff.mp (not_not_intro hfree)))) (by decide) (by simp)
      · exact serveCmd_refuse (body := bodyHsrRingSet) hacc (hbody.trans (if_pos (ringTaken_iff.mpr htaken)))
  case frer =>
    intro p s r b h pt k hacc hres hleast hmost hend
    have hclean : (asked specFrerSet p).upset = false := upset_of_accepts hacc
    refine ⟨fun hop => ?generation, fun hop hport halg hhistLeast hhistMost hflags htimeLeast htimeMost => ?recovery,
      fun hop hgen => ?_, fun hop hrec hport => ?_, fun hop hnone => ?_, fun hop hgen n hn => ?_, fun hop hrec hport x hx => ?_⟩
    case generation =>
      exact serveCmd_refuse_or_ok (body := bodyFrerSet) hacc
        (bodyFrerSet_of_generation (p := asked specFrerSet p) (s := r) hres hleast hmost hend hclean hop) (by decide)
    case recovery =>
      exact serveCmd_refuse_or_ok (body := bodyFrerSet) hacc (bodyFrerSet_of_recovery (p := asked specFrerSet p) (s := r) hres hleast hmost hend hclean hop
        ⟨hport, halg, hhistLeast, hhistMost, hflags, htimeLeast, htimeMost⟩) (by decide)
    · exact serveCmd_ok_or_refuse (body := bodyFrerSet) hacc ((bodyFrerSet_of_delete (p := asked specFrerSet p) (s := r) hres hleast hmost hend hclean hop
        (Or.inl hgen)).trans (if_pos hgen)) (by decide)
    · exact serveCmd_ok_or_refuse (body := bodyFrerSet) hacc ((bodyFrerSet_of_delete (p := asked specFrerSet p) (s := r) hres hleast hmost hend hclean hop
        (Or.inr hport)).trans (if_neg hrec)) (by decide)
    · refine serveCmd_refuse (body := bodyFrerSet) hacc ?_
      rcases hnone with ⟨hgen, hn⟩ | ⟨hrec, hport, hx⟩
      · refine ((bodyFrerSet_of_read (p := asked specFrerSet p) (s := r) hres hleast hmost hend hop (Or.inl hgen)).trans (if_pos hgen)).trans ?_
        simp only [show tget? r.red.gen (le (asked specFrerSet p).params 4 4) = none from hn]
      · refine ((bodyFrerSet_of_read (p := asked specFrerSet p) (s := r) hres hleast hmost hend hop (Or.inr hport)).trans (if_neg hrec)).trans ?_
        simp only [show frer r (frerKey (le (asked specFrerSet p).params 4 4) (byteAt (asked specFrerSet p).params 8)) = none from hx]
    · refine serveCmd_ok (body := bodyFrerSet) hacc
        (((bodyFrerSet_of_read (p := asked specFrerSet p) (s := r) hres hleast hmost hend hop (Or.inl hgen)).trans (if_pos hgen)).trans ?_) (by decide)
        (by simp)
      simp only [show tget? r.red.gen (le (asked specFrerSet p).params 4 4) = some n from hn]
    · refine serveCmd_ok (body := bodyFrerSet) (reply := recoveryReply x) hacc
        (((bodyFrerSet_of_read (p := asked specFrerSet p) (s := r) hres hleast hmost hend hop (Or.inr hport)).trans (if_neg hrec)).trans ?_) (by decide)
        ((length_recoveryReply x).trans_le (by decide))
      simp only [show frer r (frerKey (le (asked specFrerSet p).params 4 4) (byteAt (asked specFrerSet p).params 8)) = some x from hx]
      rfl
  case winnow =>
    intro p s r b pt w hacc hport hclear hres
    exact serveCmd_ok (body := bodyWinnowRead) hacc (bodyWinnowRead_of_legal (p := asked specWinnowRead p) hport hclear hres) (by decide)
      ((length_winnowReply r pt).trans_le (by decide))

end Sys2Proof.Machine
end

section
/-! PROOF. Option rows and retained memory: what OPTION_READ, OPTION_BURN, RETAINED_READ and RETAINED_WRITE answer, and which bytes a write changes
(spec/16 R518-R527). -/

namespace Sys2Proof.Machine

/-! ## OPTION_READ (R520) -/

/-- The generation that OPTION_READ reports: the one in use where none is named. -/
def genRead (b : List Byte) (s : State) : Nat := if byteAt b 0 = 0 then s.opt.use else byteAt b 0

/-- The 96 bytes of R520 for generation g. -/
def optionReply (s : State) (g : Nat) : List Byte :=
  toLE 1 g ++ toLE 1 (if g = 0 then 0 else statusOf s g) ++ toLE 2 (statusMapOf s) ++ toLE 1 s.opt.use ++
    toLE 1 (b2n s.opt.fallback + 2 * b2n (s.opt.use == 0) + 4 * b2n s.opt.debugLock + 8 * b2n s.opt.trimFault + 16 * b2n s.opt.forced) ++
    toLE 1 (nextGen s) ++ toLE 1 (if g = 0 then 0 else copyDiff (gen s g)) ++ toLE 16 (if g = 0 then 0 else votedRec (gen s g)) ++
    toLE 64 (if g = 0 then factoryRow s.opt.trimIds else votedRow (gen s g)) ++ zeros 8

theorem length_optionReply (s : State) (g : Nat) : (optionReply s g).length = 96 := by
  simp only [optionReply, List.length_append, length_toLE, length_zeros]

theorem bodyOptionRead_of_legal {p : Packet} {s : State} (hgen : byteAt p.params 0 ≤ 8) (hres : reservedAt p.params 1 3 = true) :
    bodyOptionRead p s = .ok (optionReply s (genRead p.params s)) s := by
  simp only [bodyOptionRead, checked, firstBad, hgen, hres, decide_true, if_true]
  rfl

/-! ## OPTION_BURN (R518, R519) -/

/-- The named generation and the named option bits are legal (R518). -/
structure RowFits (b : List Byte) : Prop where
  genLeast : 1 ≤ byteAt b 0
  genMost : byteAt b 0 ≤ 8
  reserved : reservedAt b 1 3 = true
  low : bits (leNat (b.drop 4)) 21 0 = 0
  crc : bits (leNat (b.drop 4)) 511 496 = 0
  policy : bits (leNat (b.drop 4)) 39 38 ≠ 3
  board : bits (leNat (b.drop 4)) 35 34 = 1 ∨ bits (leNat (b.drop 4)) 35 34 = 2
  boot : bits (leNat (b.drop 4)) 33 32 < 2
  tolerance : bits (leNat (b.drop 4)) 39 38 = 2 → bits (leNat (b.drop 4)) 47 40 ≠ 0
  fwKey : bits (leNat (b.drop 4)) 495 240 ≠ 0
  maint : bits (leNat (b.drop 4)) 239 112 ≠ 0
  alt : bits (leNat (b.drop 4)) 63 48 = 0 ∨ (13 ≤ bits (leNat (b.drop 4)) 63 48 ∧ bits (leNat (b.drop 4)) 63 48 ≤ 255)

/-- The burn record without its CRC: generation, time, identity and whether the time is untraceable. -/
def burnTag (p : Packet) (s : State) : Nat :=
  byteAt p.params 0 * 2 ^ 104 + nowT64 s * 2 ^ 40 + (session s (p.session % 4)).identity * 2 ^ 8 + b2n (untraceable s)

/-- The burn that OPTION_BURN begins: its record and its row with their CRCs. -/
def burnAsked (p : Packet) (s : State) : Burn :=
  { gen := byteAt p.params 0, record := burnTag p s + crc16 (toLE 14 (burnTag p s)) * 2 ^ 112
    row := leNat (p.params.drop 4) + crc16 (toLE 62 (leNat (p.params.drop 4))) * 2 ^ 496, step := 0, startedAt := s.clk.edges
    ticket := ticketFor specOptionBurn p }

theorem bodyOptionBurn_of_legal {p : Packet} {s : State} (hfits : RowFits p.params) : bodyOptionBurn p s =
    if s.nv.burn.isSome = true then .refuse stBusy 0
    else if statusOf s 8 ≠ 0 then .refuse stOptionSpent 0
    else if byteAt p.params 0 ≠ nextGen s then .conflict
    else .accepted (fire 0x3C6 0x01 [] { s with nv := { s.nv with burn := some (burnAsked p s) } }) := by
  obtain ⟨hleast, hmost, hres, hlow, hcrc, hpolicy, hboard, hboot, htol, hkey, hmaint, halt⟩ := hfits
  refine (checked_of_none _ (firstBad_of_all fun e he => ?_)).trans ?_
  · simp only [List.mem_cons, List.not_mem_nil, or_false] at he
    rcases he with rfl | rfl | rfl | rfl | rfl | rfl | rfl | rfl | rfl | rfl | rfl
    · simp [hleast, hmost]
    · exact hres
    · exact beq_iff_eq.mpr hlow
    · exact beq_iff_eq.mpr hcrc
    · exact bne_iff_ne.mpr hpolicy
    · simpa using hboard
    · exact decide_eq_true hboot
    · simpa [imp_iff_not_or] using htol
    · exact bne_iff_ne.mpr hkey
    · exact bne_iff_ne.mpr hmaint
    · simpa using halt
  · simp only [bne_iff_ne]
    rfl

/-! ## RETAINED_READ (R526) -/

theorem map_fst_zipIdx_ite_false {α : Type} (l : List α) (z : α) : l.zipIdx.map (fun e => if false = true then z else e.1) = l := by
  simp only [Bool.false_eq_true, if_false, List.zipIdx_map_fst]

section reading
variable {p : Packet} {s : State} (hres : reservedAt p.params 5 3 = true)
include hres

theorem bodyRetainedRead_of_memory (harea : byteAt p.params 4 = 0) (hword : le p.params 0 2 % 4 = 0) (hend : le p.params 0 2 + le p.params 2 2 ≤ 8192)
    (hleast : 4 ≤ le p.params 2 2) (hmost : le p.params 2 2 ≤ 4080) (hmul : le p.params 2 2 % 4 = 0)
    (hgood : badIn s (le p.params 0 2) (le p.params 2 2) = []) :
    bodyRetainedRead p s = .ok (retBytes s (le p.params 0 2) (le p.params 2 2)) s := by
  simp [bodyRetainedRead, checked, firstBad, harea, hword, hend, hleast, hmost, hmul, hres, hgood, replaceSheaves]

theorem bodyRetainedRead_of_backup (harea : byteAt p.params 4 = 1) (hword : le p.params 0 2 % 4 = 0) (hend : le p.params 0 2 + le p.params 2 2 ≤ 64)
    (hleast : 4 ≤ le p.params 2 2) (hmul : le p.params 2 2 % 4 = 0) :
    bodyRetainedRead p s = .ok (backupBytes s (le p.params 0 2) (le p.params 2 2)) s := by
  have hmost : le p.params 2 2 ≤ 4080 := by omega
  simp [bodyRetainedRead, checked, firstBad, harea, hword, hend, hleast, hmost, hmul, hres]

theorem bodyRetainedRead_of_status (harea : byteAt p.params 4 = 2) : bodyRetainedRead p s =
    .ok (toLE 1 (b2n s.ret.valid) ++ toLE 1 s.ret.replaced ++ zeros 2 ++ toLE 16 s.ret.lost ++ zeros 12) s := by
  simp [bodyRetainedRead, checked, firstBad, harea, hres]

end reading

theorem length_retBytes (s : State) (off n : Nat) : (retBytes s off n).length = n := by
  simp [retBytes]

/-! ## RETAINED_WRITE (R527) -/

section writing
variable {p : Packet} {s : State} (hmul : le p.params 2 2 % 4 = 0) (hmost : le p.params 2 2 ≤ 4072) (hres : reservedAt p.params 5 3 = true)
include hmul hmost hres

theorem bodyRetainedWrite_of_memory (hclean : p.upset = false) (harea : byteAt p.params 4 = 0) (hhost : 0x1000 ≤ le p.params 0 2)
    (hend : le p.params 0 2 + le p.params 2 2 ≤ 8192) (hword : le p.params 0 2 % 4 = 0) : bodyRetainedWrite p s =
      if (writeSheaves 130 (le p.params 0 2) (p.params.drop 8) s).1 = true then .ok [] (writeSheaves 130 (le p.params 0 2) (p.params.drop 8) s).2
      else .final stHwFault [] (writeSheaves 130 (le p.params 0 2) (p.params.drop 8) s).2 := by
  simp [bodyRetainedWrite, checked, firstBad, harea, hhost, hend, hword, hmul, hmost, hres, hclean]

theorem bodyRetainedWrite_of_backup (harea : byteAt p.params 4 = 1) (hend : le p.params 0 2 + le p.params 2 2 ≤ 64) (hword : le p.params 0 2 % 4 = 0) :
    bodyRetainedWrite p s = .ok [] (backupWrite (le p.params 0 2) (p.params.drop 8) s) := by
  simp [bodyRetainedWrite, checked, firstBad, harea, hend, hword, hmul, hmost, hres]

end writing

theorem bodyRetainedWrite_of_loads {p : Packet} {s : State} (hres : reservedAt p.params 5 3 = true) (harea : byteAt p.params 4 = 3)
    (hnone : le p.params 2 2 = 0) : bodyRetainedWrite p s = .ok [] (setFailedLoads 0 s) := by
  simp [bodyRetainedWrite, checked, firstBad, harea, hnone, hres]

/-! ## What a write leaves and puts -/

theorem rising_tset {α : Type} [DecidableEq α] {d : α} {t : Table α} (k : Nat) (v : α) (h : Rising t = true) : Rising (tset d t k v) = true := by
  unfold tset
  split
  · exact rising_tdel k h
  · exact rising_tput k v h

theorem rising_of_memory {t : Table Byte} (h : Memory.wf t = true) : Rising t = true := by
  simp only [Memory.wf, Bool.and_eq_true] at h
  exact canon_rising h.1

/-- A byte of a memory after bytes were put into it. -/
theorem tget_putBytes {t : Table Byte} {a : Nat} {l : List Byte} (h : Rising t = true) (i : Nat) :
    tget 0 (putBytes t a l) i = if a ≤ i ∧ i < a + l.length then l.getD (i - a) 0 else tget 0 t i := by
  induction l generalizing t a with
  | nil => exact (if_neg (by simp only [List.length_nil]; omega)).symm
  | cons x r ih =>
    rw [putBytes, ih (rising_tset _ _ h), tget_tset _ h]
    rcases Nat.lt_trichotomy a i with hlt | rfl | hgt
    · obtain ⟨j, rfl⟩ := Nat.exists_eq_add_of_lt hlt
      have hnext : a + j + 1 - a = (a + j + 1 - (a + 1)) + 1 := by omega
      have hne : a ≠ a + j + 1 := by omega
      simp only [hnext, List.getD_cons_succ, List.length_cons, hne, if_false]
      exact if_congr (by omega) rfl rfl
    · simp
    · have hne : a ≠ i := by omega
      simp only [hne, if_false]
      rw [if_neg (by omega), if_neg (by omega)]

theorem memory_retWrite {off : Nat} {d : List Byte} {s : State} (h : Memory.wf s.ret.mem = true) : Memory.wf (retWrite off d s).ret.mem = true :=
  memory_putBytes (by simp only [List.length_take]; omega) h

theorem tget_retWrite {off : Nat} {d : List Byte} {s : State} (h : Memory.wf s.ret.mem = true) (i : Nat) :
    tget 0 (retWrite off d s).ret.mem i =
      if off ≤ i ∧ i < off + (d.take (8192 - off)).length then (d.take (8192 - off)).getD (i - off) 0 else tget 0 s.ret.mem i :=
  tget_putBytes (rising_of_memory h) i

/-- A byte inside the memory that a write covers is the byte written. -/
theorem tget_retWrite_inside {off i : Nat} {d : List Byte} {s : State} (h : Memory.wf s.ret.mem = true) (hi : i < d.length) (hin : off + i < 8192) :
    tget 0 (retWrite off d s).ret.mem (off + i) = d.getD i 0 := by
  have hroom : i < 8192 - off := by omega
  rw [tget_retWrite h, if_pos (by simp only [List.length_take]; omega), Nat.add_sub_cancel_left]
  simp [List.getD, hroom]

/-- A byte outside the range of a write stays. -/
theorem tget_retWrite_outside {off a : Nat} {d : List Byte} {s : State} (h : Memory.wf s.ret.mem = true) (ha : a < off ∨ off + d.length ≤ a) :
    tget 0 (retWrite off d s).ret.mem a = tget 0 s.ret.mem a := by
  rw [tget_retWrite h, if_neg (by simp only [List.length_take]; omega)]

/-- How far it is from a byte to the end of its sheaf. -/
def sheafRoom (off : Nat) : Nat := 32 * (off / 32 + 1) - off

/-- The bytes of the first sheaf of a write stand in it, and it is no longer lost. -/
def sheafPut (off : Nat) (d : List Byte) (s : State) : State :=
  { retWrite off (d.take (sheafRoom off)) s with ret := { (retWrite off (d.take (sheafRoom off)) s).ret with
      lost := if 128 ≤ off / 32 then setBit (retWrite off (d.take (sheafRoom off)) s).ret.lost (off / 32 - 128) false
        else (retWrite off (d.take (sheafRoom off)) s).ret.lost } }

theorem sheafPut_mem (off : Nat) (d : List Byte) (s : State) : (sheafPut off d s).ret.mem = (retWrite off (d.take (sheafRoom off)) s).ret.mem := rfl

theorem writeSheaves_succ (n off : Nat) (d : List Byte) (s : State) : writeSheaves (n + 1) off d s =
    if d.isEmpty = true then (true, s)
    else if s.ret.bad.contains (off / 32) = true then (false, s)
    else writeSheaves n (off + (d.take (sheafRoom off)).length) (d.drop (sheafRoom off)) (sheafPut off d s) := rfl

/-- Sheaves written one after another leave every byte outside their range. -/
theorem tget_writeSheaves_outside {n off a : Nat} {d : List Byte} {s : State} (h : Memory.wf s.ret.mem = true) (ha : a < off ∨ off + d.length ≤ a) :
    tget 0 (writeSheaves n off d s).2.ret.mem a = tget 0 s.ret.mem a := by
  induction n generalizing off d s with
  | zero => rfl
  | succ n ih =>
    rw [writeSheaves_succ]
    by_cases hempty : d.isEmpty = true
    · rw [if_pos hempty]
    · by_cases hbad : s.ret.bad.contains (off / 32) = true
      · rw [if_neg hempty, if_pos hbad]
      · have hwf : Memory.wf (sheafPut off d s).ret.mem = true := (sheafPut_mem off d s) ▸ memory_retWrite h
        rw [if_neg hempty, if_neg hbad, ih hwf (by simp only [List.length_take, List.length_drop]; omega), sheafPut_mem]
        exact tget_retWrite_outside h (by simp only [List.length_take]; omega)

/-! ## OPTION_BURN_DONE and LAST_TRACEABLE_TIME_WRITE -/

/-- A generation after a burn, save the bits that the antifuses left unburnt. -/
def burntGen (k : Burn) (f0 f1 f2 : Nat) (g : Gen) : Gen :=
  { rec0 := g.rec0 ||| andNot k.record (f0 / 2 ^ 512), rec1 := g.rec1 ||| andNot k.record (f1 / 2 ^ 512), rec2 := g.rec2 ||| andNot k.record (f2 / 2 ^ 512)
    row0 := g.row0 ||| andNot k.row (f0 % 2 ^ 512), row1 := g.row1 ||| andNot k.row (f1 % 2 ^ 512), row2 := g.row2 ||| andNot k.row (f2 % 2 ^ 512) }

/-- The reply of a finished burn. -/
def burnReply (k : Burn) (g : Gen) : List Byte :=
  toLE 1 k.gen ++ toLE 1 (copyDiff g) ++ zeros 2 ++ toLE 4 (bits k.record 39 8) ++ toLE 8 (bits k.record 103 40)

/-- The generation of a burn stands in its copies, and the burn is over. -/
def burnStored (k : Burn) (g : Gen) (s : State) : State :=
  { s with nv := { s.nv with gens := tset {} s.nv.gens k.gen g, burn := none } }

theorem exec_optionBurnDone {s : State} {k : Burn} (f0 f1 f2 : Nat) (hclk : s.clk.coreStopped = false) (hburn : s.nv.burn = some k) {t : State}
    {g : Gen} (ht : reachEdge k.startedAt s = t) (hg : burntGen k f0 f1 f2 (gen t k.gen) = g) : exec (.optionBurnDone f0 f1 f2) s =
      if genStatus k.gen g = 1 then .next (complete k.ticket stOk (burnReply k g) (fire 0x3C6 0x02 [] (setFailedLoads 0 (burnStored k g t))))
      else .next (complete k.ticket stHwFault (burnReply k g) (fire 0x3C6 0x03 [] (burnStored k g t))) := by
  subst ht hg
  change execOptionBurnDone f0 f1 f2 s = _
  simp only [execOptionBurnDone, hclk, hburn, Bool.false_eq_true, if_false]
  rfl

/-- Settles O60: check 10 passes in each clause, and a write changes exactly the bytes it covers. -/
theorem optionRowsAndRetainedMemoryAreReadBurntAndWritten : Obligations.OptionRowsAndRetainedMemoryAreReadBurntAndWritten := by
  unfold Obligations.OptionRowsAndRetainedMemoryAreReadBurntAndWritten
  refine ⟨?read, ?burn, ?done, ?retRead, ?retWrite, ?outside, ?inside, ?traceable⟩
  case read =>
    intro p s r b g x hacc hgen hres
    exact serveCmd_ok (body := bodyOptionRead) hacc (bodyOptionRead_of_legal (p := asked specOptionRead p) hgen hres) (by decide)
      ((length_optionReply r _).trans_le (by decide))
  case burn =>
    intro p s r b v g r0 hacc hleast hmost hres hlow hcrc hpolicy hboard hboot htol hkey hmaint halt
    have hbody := bodyOptionBurn_of_legal (p := asked specOptionBurn p) (s := r)
      ⟨hleast, hmost, hres, hlow, hcrc, hpolicy, hboard, hboot, htol, hkey, hmaint, halt⟩
    refine ⟨fun hbusy => ?_, fun hidle hspent => ?_, fun hidle hfree hother => ?_, fun hidle hfree hnext => ?_⟩
    · exact serveCmd_refuse (body := bodyOptionBurn) hacc (hbody.trans (if_pos hbusy))
    · have hnone : ¬ r.nv.burn.isSome = true := by simp [hidle]
      exact serveCmd_refuse (body := bodyOptionBurn) hacc (hbody.trans ((if_neg hnone).trans (if_pos hspent)))
    · have hnone : ¬ r.nv.burn.isSome = true := by simp [hidle]
      exact serveCmd_conflict (body := bodyOptionBurn) hacc
        (hbody.trans ((if_neg hnone).trans ((if_neg (not_not_intro hfree)).trans (if_pos hother))))
    · have hnone : ¬ r.nv.burn.isSome = true := by simp [hidle]
      exact serveCmd_accepted (body := bodyOptionBurn) hacc
        (hbody.trans ((if_neg hnone).trans ((if_neg (not_not_intro hfree)).trans (if_neg (not_not_intro hnext)))))
  case done =>
    intro k f0 f1 f2 s0 hclk hburn s old g1 s1 reply
    have hexec := exec_optionBurnDone (t := s) (g := g1) f0 f1 f2 hclk hburn rfl rfl
    exact ⟨fun hvalid => hexec.trans (if_pos hvalid), fun hinvalid => hexec.trans (if_neg hinvalid)⟩
  case retRead =>
    intro p s r b off n hacc hres
    refine ⟨fun harea hword hend hleast hmost hmul hgood => ?_, fun harea hword hend hleast hmul => ?_, fun harea => ?_⟩
    · exact serveCmd_ok (body := bodyRetainedRead) hacc
        (bodyRetainedRead_of_memory (p := asked specRetainedRead p) hres harea hword hend hleast hmost hmul hgood) (by decide)
        ((length_retBytes r off n).trans_le hmost)
    · exact serveCmd_ok (body := bodyRetainedRead) hacc
        (bodyRetainedRead_of_backup (p := asked specRetainedRead p) hres harea hword hend hleast hmul) (by decide)
        ((length_slice _ off n).trans_le (by omega))
    · exact serveCmd_ok (body := bodyRetainedRead) hacc (bodyRetainedRead_of_status (p := asked specRetainedRead p) hres harea) (by decide) (by simp)
  case retWrite =>
    intro p s r b off n w hacc hmul hmost hres hclean
    refine ⟨fun harea hhost hend hword => ?_, fun harea hend hword => ?_, fun harea hnone => ?_⟩
    · have hbody := bodyRetainedWrite_of_memory (p := asked specRetainedWrite p) (s := r) hmul hmost hres hclean harea hhost hend hword
      by_cases hw : w.1 = true
      · rw [if_pos hw]
        exact serveCmd_ok (body := bodyRetainedWrite) hacc (hbody.trans (if_pos hw)) (by decide) (by simp)
      · rw [if_neg hw]
        exact congrArg Host.Outcome.next (serve_final (body := bodyRetainedWrite) hacc (hbody.trans (if_neg hw)))
    · exact serveCmd_ok (body := bodyRetainedWrite) hacc (bodyRetainedWrite_of_backup (p := asked specRetainedWrite p) hmul hmost hres harea hend hword)
        (by decide) (by simp)
    · exact serveCmd_ok (body := bodyRetainedWrite) hacc (bodyRetainedWrite_of_loads (p := asked specRetainedWrite p) hres harea hnone)
        (by decide) (by simp)
  case outside => exact fun off d s a hwf ha => tget_writeSheaves_outside hwf ha
  case inside => exact fun off d s i hwf hi hin => tget_retWrite_inside hwf hi hin
  case traceable =>
    intro s0 s
    refine ⟨fun htime hlive => congrArg Host.Outcome.next (if_neg ?_), fun hidle => congrArg Host.Outcome.next (if_pos ?_)⟩
    · simp [htime, hlive]
    · simpa using hidle

end Sys2Proof.Machine
end

section
/-! PROOF. The check lanes of a deep store half, the check of a read, and what follows a read, a patrol, a refresh and an initialisation
(spec/14 R464-R480). -/

namespace Sys2Proof.Machine

/-! ## The check lanes (R466, R467) -/

theorem crcShiftL_lt {w p : Nat} (hp : p < 2 ^ w) (n : Nat) {c : Nat} (hc : c < 2 ^ w) : crcShiftL w p n c < 2 ^ w := by
  induction n generalizing c with
  | zero => exact hc
  | succ n ih =>
    have hshift : c * 2 % 2 ^ w < 2 ^ w := Nat.mod_lt _ (Nat.two_pow_pos w)
    rw [crcShiftL]
    split
    · exact ih (Nat.xor_lt_two_pow hshift hp)
    · exact ih hshift

theorem crcL_eight_lt {p : Nat} (hp : p < 2 ^ 8) (b : List Byte) {c : Nat} (hc : c < 2 ^ 8) : crcL 8 p c b < 2 ^ 8 := by
  induction b generalizing c with
  | nil => exact hc
  | cons x b ih => exact ih (crcShiftL_lt hp 8 (Nat.xor_lt_two_pow hc (by have := x.isLt; omega)))

theorem abpOf_lt (c half : Nat) (poison : Bool) : abpOf c half poison < 256 := crcL_eight_lt (by decide) _ (by decide)

theorem bit_iff_div (v i : Nat) : bit v i = (v / 2 ^ i % 2 == 1) := by
  rw [bit, Nat.shiftRight_eq_div_pow]

section lanes
variable (c half : Nat) (poison : Bool) (b : List Byte)

theorem checkLanes_check : checkLanes c half poison b % 2 ^ 20 = Config.sheafCheck b % 2 ^ 20 := by
  simp only [checkLanes]
  omega

theorem checkLanes_abp : checkLanes c half poison b / 2 ^ 20 % 256 = abpOf c half poison := by
  have habp := abpOf_lt c half poison
  simp only [checkLanes]
  omega

theorem checkLanes_poison : bit (checkLanes c half poison b) 28 = poison := by
  have habp := abpOf_lt c half poison
  have hdiv : checkLanes c half poison b / 2 ^ 28 = b2n poison := by
    simp only [checkLanes]
    omega
  rw [bit_iff_div, hdiv]
  cases poison <;> rfl

end lanes

theorem halfBeat_eq (data w i : Nat) : halfBeat data w i = (bits data (64 * i + 63) (64 * i), bits w (8 * i + 7) (8 * i)) := by
  have hdata : 64 * i + 63 + 1 - 64 * i = 64 := by omega
  have hlane : 8 * i + 7 + 1 - 8 * i = 8 := by omega
  simp only [halfBeat, bits, Nat.shiftRight_eq_div_pow, hdata, hlane]

/-! ## The check of a read (R468, R478) -/

section check
variable {client c half w bch : Nat} {s : State}

/-- A read whose data is not to be used fires the channel's bad read event. -/
def badRead (client c half : Nat) (s : State) : State := fireMs 0 (0x398 + c) 0 (toLE 1 client ++ toLE 4 (halfWord c half)) s

/-- The address faults of a channel within the last second. -/
def faultsRecent (s : State) (c : Nat) : List Nat := (chan s c).recentFaults.filter (fun e => decide (s.clk.edges < e + secE))

/-- An address fault is counted and fires both events. -/
def addressFault (client c half : Nat) (l : List Nat) (s : State) : State :=
  badRead client c half (fireMs 0 (0x39A + c) 0 (toLE 4 (halfWord c half))
    (memUnc (35 + c) (modChan c (fun x => { x with faults := wrap32 (x.faults + 1), recentFaults := l }) s)))

/-- The 64th address fault within a second fails the channel. -/
theorem checkRead_of_mismatch (habp : w / 2 ^ 20 % 256 ≠ abpOf c half (bit w 28)) {l : List Nat} (hl : faultsRecent s c = l) :
    checkRead client c half w bch s = (false, if 63 ≤ l.length then chanFail c 3 (addressFault client c half (l ++ [s.clk.edges]) s)
      else addressFault client c half (l ++ [s.clk.edges]) s) := by
  subst hl
  refine (if_pos (bne_iff_ne.mpr habp)).trans ?_
  refine congrArg (Prod.mk false) (if_congr ?_ rfl rfl)
  simp only [List.length_append, List.length_singleton, faultsRecent]
  omega

theorem checkRead_of_match (habp : w / 2 ^ 20 % 256 = abpOf c half (bit w 28)) : checkRead client c half w bch s =
    if bit w 28 = true then (false, modChan c (fun x => { x with poisonReads := wrap32 (x.poisonReads + 1) }) s)
    else match bch with
      | 0 => (true, s)
      | 1 => (true, memCorr (35 + c) s)
      | _ => (false, badRead client c half (memUnc (35 + c) s)) := by
  exact if_neg (by simp only [habp, bne_self_eq_false, Bool.false_eq_true, not_false_eq_true])

/-- A half as it was written is good, and poisoned where it was written so. -/
theorem checkRead_checkLanes (poison : Bool) (b : List Byte) : checkRead client c half (checkLanes c half poison b) 0 s =
    if poison = true then (false, modChan c (fun x => { x with poisonReads := wrap32 (x.poisonReads + 1) }) s) else (true, s) := by
  rw [checkRead_of_match (by rw [checkLanes_abp, checkLanes_poison]), checkLanes_poison]
  rfl

end check

/-- A read whose check lanes come back as they are stored. -/
theorem readCheck_clean (client c half bch : Nat) (s : State) : readCheck client c half 0 false bch s = checkRead client c half (halfLanes s c half) bch s := by
  simp only [readCheck, b2n, Nat.zero_mod, Nat.zero_mul, Nat.zero_add, Bool.false_eq_true, if_false, Nat.xor_zero]

/-! ## What follows a read (R468, R469) -/

section reads
variable {client ch half abp bch uid handle : Nat} {poison : Bool} {s : State} (hclk : s.clk.coreStopped = false)
include hclk

theorem exec_deepStoreReadDone_of_down (hready : chanReady (chan s (ch % 2)) = false) :
    exec (.deepStoreReadDone client ch half abp poison bch uid handle) s = .next s := by
  change execDeepStoreReadDone client ch half abp poison bch uid handle s = _
  simp only [execDeepStoreReadDone, hclk, hready, Bool.not_false, Bool.or_true, if_true]

/-- What a client does with a half that was read: a refill takes it, a restart copy gives up the record of a bad one. -/
def halfDelivered (client c half uid handle : Nat) (x : Bool × State) : State :=
  match client with
  | 3 => refillHalfDone uid c half x.1 x.2
  | 5 =>
    if x.1 then x.2
    else match x.2.hl.restart with
      | none => x.2
      | some r =>
        if r.copiedAt.isSome then modFur r.furrow (fun y => { y with deepRecs := tdel y.deepRecs handle }) x.2
        else modHl (fun h => { h with restart := some { r with badRecs := handle :: r.badRecs } }) x.2
  | _ => x.2

theorem exec_deepStoreReadDone_of_ready (hready : chanReady (chan s (ch % 2)) = true) {x : Bool × State}
    (hx : readCheck client (ch % 2) half abp poison bch (chanTouch (ch % 2) (syncDram (ch % 2) s)) = x) :
    exec (.deepStoreReadDone client ch half abp poison bch uid handle) s =
      .next (halfDelivered client (ch % 2) (unmapAddr s (ch % 2) (32 * half) / 32) uid handle x) := by
  change execDeepStoreReadDone client ch half abp poison bch uid handle s = _
  simp only [execDeepStoreReadDone, hclk, hready, Bool.not_true, Bool.or_self, Bool.false_eq_true, if_false, hx]
  rfl

end reads

section delivered
variable {client c half uid handle : Nat} {x : Bool × State}

theorem halfDelivered_of_refill (hclient : client = 3) : halfDelivered client c half uid handle x = refillHalfDone uid c half x.1 x.2 := by
  subst hclient
  rfl

theorem halfDelivered_of_other (hrefill : client ≠ 3) (hkept : client ≠ 5 ∨ x.1 = true ∨ x.2.hl.restart = none) :
    halfDelivered client c half uid handle x = x.2 := by
  unfold halfDelivered
  split
  · exact absurd rfl hrefill
  · rcases hkept with hcopy | hgood | hnone
    · exact absurd rfl hcopy
    · exact if_pos hgood
    · rw [hnone]
      exact ite_self _
  · rfl

theorem halfDelivered_of_badCopy (hclient : client = 5) (hbad : x.1 = false) {r : Restart} (hrestart : x.2.hl.restart = some r) :
    halfDelivered client c half uid handle x =
      if r.copiedAt.isSome then modFur r.furrow (fun y => { y with deepRecs := tdel y.deepRecs handle }) x.2
      else modHl (fun h => { h with restart := some { r with badRecs := handle :: r.badRecs } }) x.2 := by
  subst hclient
  simp only [halfDelivered, hbad, hrestart, Bool.false_eq_true, if_false]

end delivered

section refill
variable {u c k i : Nat} {r : SpillRec} {s : State} (hrec : spillRecOf s u = some (i, r)) (hstate : r.state = 2) (hk : k ∈ r.reads)
include hrec hstate hk

theorem refillHalfDone_of_awaited (good : Bool) : refillHalfDone u c k good s =
    if good = false then dropSpilled u (modChan c (fun x => { x with refillDrops := wrap32 (x.refillDrops + 1) }) s)
    else if r.reads.filter (· != k) = [] then refillDone u r s
    else modDeep (fun d => { d with recs := tput d.recs i { r with reads := r.reads.filter (· != k) } }) s := by
  simp only [refillHalfDone, hrec, hstate, List.contains_iff_mem.mpr hk, bne_self_eq_false, Bool.not_true, Bool.or_self, Bool.false_eq_true, if_false,
    Bool.not_eq_true', List.isEmpty_iff]

end refill

/-! ## PATROL_READ (R470) -/

section patrol

/-- The halves of a burst that PATROL writes back: those read good and corrected, where no client wrote them since the read was due. -/
def correctedHalves (good0 : Bool) (bch0 : Nat) (good1 : Bool) (bch1 own : Nat) : Nat :=
  b2n (good0 && bch0 == 1 && !bit own 0) + 2 * b2n (good1 && bch1 == 1 && !bit own 1)

theorem correctedHalves_eq {good0 : Bool} {bch0 : Nat} {good1 : Bool} {bch1 own : Nat} {lower upper : Prop} [Decidable lower] [Decidable upper]
    (hlower : lower ↔ good0 = true ∧ bch0 = 1 ∧ bit own 0 = false) (hupper : upper ↔ good1 = true ∧ bch1 = 1 ∧ bit own 1 = false) :
    correctedHalves good0 bch0 good1 bch1 own = (if lower then 1 else 0) + 2 * (if upper then 1 else 0) := by
  have h0 : (good0 && bch0 == 1 && !bit own 0) = decide lower := by rw [Bool.eq_iff_iff]; simp [hlower, and_assoc]
  have h1 : (good1 && bch1 == 1 && !bit own 1) = decide upper := by rw [Bool.eq_iff_iff]; simp [hupper, and_assoc]
  simp only [correctedHalves, h0, h1, b2n, decide_eq_true_eq]

/-- PATROL moves on to burst n, a pass being over at the first one. -/
def patrolMoved (due n : Nat) (x : Chan) : Chan :=
  { x with patrolAt := due, patrolPos := n, patrolOwn := 0, passes := if n = 0 then wrap32 (x.passes + 1) else x.passes }

variable {ch abp0 bch0 abp1 bch1 poison : Nat} {s : State} (hclk : s.clk.coreStopped = false)
include hclk

theorem exec_patrolRead_of_idle (hidle : chanReady (chan s (ch % 2)) = false ∨ deepTraining s = true) :
    exec (.patrolRead ch abp0 bch0 abp1 bch1 poison) s = .next s := by
  have hdown : (!chanReady (chan s (ch % 2)) || deepTraining s) = true := by simpa using hidle
  change execPatrolRead ch abp0 bch0 abp1 bch1 poison s = _
  simp only [execPatrolRead, hclk, hdown, Bool.false_eq_true, if_false, if_true]

theorem exec_patrolRead_of_ready (hready : chanReady (chan s (ch % 2)) = true) (hfree : deepTraining s = false) {c half due n : Nat}
    {x0 x1 : Bool × State} (hc : ch % 2 = c) (hhalf : (chan s c).patrolPos = half) (hdue : (chan s c).patrolAt + patrolPeriod (chan s c) = due)
    (hx0 : readCheck 6 c half abp0 (bit poison 0) bch0 (putReq 6 false c (half / 2) 3 (reachEdge due s)) = x0)
    (hx1 : readCheck 6 c (half + 1) abp1 (bit poison 1) bch1 x0.2 = x1) (hn : (half + 2) % max 1 (chanSize (chan s c) / 32) = n) :
    exec (.patrolRead ch abp0 bch0 abp1 bch1 poison) s = .next (modChan c (patrolMoved due n)
      (if correctedHalves x0.1 bch0 x1.1 bch1 (chan s c).patrolOwn = 0 then x1.2
       else putReq 6 true c (half / 2) (correctedHalves x0.1 bch0 x1.1 bch1 (chan s c).patrolOwn) x1.2)) := by
  subst hc
  change execPatrolRead ch abp0 bch0 abp1 bch1 poison s = _
  simp only [execPatrolRead, hclk, hready, hfree, hhalf, hdue, hx0, hx1, hn, Bool.not_true, Bool.or_self, Bool.false_eq_true, if_false]
  rfl

end patrol

/-! ## What a client's write leaves PATROL (R470, R474) -/

section channels
variable (s : State)

theorem chan_modChan (c : Nat) (g : Chan → Chan) : chan (modChan c g s) c = g (chan s c) := by
  unfold chan modChan
  split <;> rfl

theorem patrolOwn_modSched (c : Nat) (g : Sched → Sched) : (chan (modSched c g s) c).patrolOwn = (chan s c).patrolOwn := by
  rw [modSched, chan_modChan]

/-- A write of the burst that PATROL's read is out for records its halves as the client's own. -/
theorem patrolOwn_putReq {client c burst mask : Nat} (hclient : client ≠ 6) {v : State} (hv : chanTouch c (syncDram c s) = v)
    (hburst : burst = (chan v c).patrolPos / 2) (hdue : (chan v c).patrolAt + patrolPeriod (chan v c) ≤ v.clk.edges) :
    (chan (putReq client true c burst mask s) c).patrolOwn = (chan v c).patrolOwn ||| mask := by
  have hother : (true && client != 6) = true := by simp [hclient]
  subst hv
  unfold putReq
  dsimp only
  rw [if_pos hother, if_pos (rfl : true = true)]
  by_cases hleft : mask - (mask &&& 0) = 0
  · rw [if_pos hleft, chan_modChan]
    simp [hburst, hdue]
  · rw [if_neg hleft, patrolOwn_modSched, chan_modChan]
    simp [hburst, hdue]

end channels

/-! ## Refresh and the choice of a command (R465, R477) -/

section refresh
variable {ch rank : Nat} {s : State} (hclk : s.clk.coreStopped = false)
include hclk

theorem exec_refreshDue_of_off (hoff : (chan s (ch % 2)).state ≠ 3 ∨ (chan s (ch % 2)).ranks ≤ rank) (late : Bool) :
    exec (.refreshDue ch rank late) s = .next s := by
  have hskip : ((chan s (ch % 2)).state != 3 || decide ((chan s (ch % 2)).ranks ≤ rank)) = true := by simpa using hoff
  change execRefreshDue ch rank late s = _
  simp only [execRefreshDue, hclk, hskip, Bool.false_eq_true, if_false, if_true]

/-- A refresh of a rank becomes due, with those postponed where no request waits for it, or is postponed. -/
def refreshQueued (rank : Nat) (waits late : Bool) (n : Nat) (x : Chan) : Chan :=
  if waits && late && n < 8 then { x with postponed := tset 0 x.postponed rank (n + 1) }
  else if waits then { x with due := tset 0 x.due rank (tget 0 x.due rank + 1) }
  else { x with due := tset 0 x.due rank (tget 0 x.due rank + 1 + n), postponed := tset 0 x.postponed rank 0 }

theorem exec_refreshDue_of_on (hstate : (chan s (ch % 2)).state = 3) (hrank : rank < (chan s (ch % 2)).ranks) (late : Bool) {e : Nat} {t : State}
    (he : tget 0 (chan s (ch % 2)).refreshedAt rank + refreshPeriod (chan s (ch % 2)) = e)
    (ht : modChan (ch % 2) (fun x => { x with refreshedAt := tset 0 x.refreshedAt rank e }) (syncDram (ch % 2) (reachEdge e s)) = t) :
    exec (.refreshDue ch rank late) s =
      .next (modChan (ch % 2) (refreshQueued rank (rankWaits (chan t (ch % 2)) rank) late (tget 0 (chan t (ch % 2)).postponed rank)) t) := by
  have hon : ((chan s (ch % 2)).state != 3 || decide ((chan s (ch % 2)).ranks ≤ rank)) = false := by simp [hstate, hrank]
  change execRefreshDue ch rank late s = _
  simp only [execRefreshDue, hclk, hon, he, ht, Bool.false_eq_true, if_false]
  rfl

end refresh

theorem modChan_congr {c : Nat} {f g : Chan → Chan} (s : State) (h : f = g) : modChan c f s = modChan c g s := by rw [h]

section queued
variable {rank n : Nat}

theorem refreshQueued_of_postponed (hn : n < 8) :
    refreshQueued rank true true n = fun x => { x with postponed := tset 0 x.postponed rank (n + 1) } := by
  funext x
  simp [refreshQueued, hn]

theorem refreshQueued_of_full {late : Bool} (hlate : late = false ∨ 8 ≤ n) :
    refreshQueued rank true late n = fun x => { x with due := tset 0 x.due rank (tget 0 x.due rank + 1) } := by
  have hno : (true && late && decide (n < 8)) = false := by rcases hlate with h | h <;> simp [h]
  funext x
  simp only [refreshQueued, hno, Bool.false_eq_true, if_false, if_true]

theorem refreshQueued_of_idle (late : Bool) : refreshQueued rank false late n =
    fun x => { x with due := tset 0 x.due rank (tget 0 x.due rank + 1 + n), postponed := tset 0 x.postponed rank 0 } := rfl

end queued

/-- A due refresh goes first. -/
theorem dramCommand_of_refresh {c r : Nat} {s : State} (hdue : dueRefresh (chan s c) = some r) :
    dramCommand c s = modChan c (fun x => { refreshRank r x with due := tset 0 x.due r (tget 0 x.due r - 1) }) s := by
  simp only [dramCommand, hdue]

/-- With no refresh due, the column command goes that the queues pick. -/
theorem dramCommand_of_column {c k : Nat} {q : DramReq} {s : State} (hdue : dueRefresh (chan s c) = none) (hpick : columnPick (chan s c) = some (k, q)) :
    dramCommand c s = modSched c (fun y => issued (if q.write then 3 else 2) k
      (modDramBank k (fun b => { b with queue := b.queue.filter (fun z => z.seq != q.seq), hits := b.hits + 1 })
        (if q.write then { y with writes := y.writes + 1, written := y.written + 1 } else { y with reads := y.reads + 1 }))) s := by
  simp only [dramCommand, hdue, hpick]

/-- A refresh closes the rows of its rank. -/
theorem refreshRank_closes {rank : Nat} {x : Chan} {e : Nat × DramBank} (he : e ∈ (refreshRank rank x).sched.banks) (hrank : e.1 / 16 = rank) :
    e.2.row = none ∧ e.2.hits = 0 := by
  obtain ⟨e0, -, rfl⟩ := List.mem_map.mp (show e ∈ x.sched.banks.map _ from he)
  by_cases h : e0.1 / 16 = rank
  · simp [h]
  · rw [if_neg h] at hrank
    exact absurd hrank h

/-! ## Self-refresh, the window, the drain and the initialisation (R465, R472, R478, R479) -/

section idle
variable {ch : Nat} {s : State} (hclk : s.clk.coreStopped = false)
include hclk

/-- A channel in self-refresh, with nothing queued. -/
def selfRefreshed (x : Chan) : Chan := { x with state := 4, due := [], postponed := [], sched := { x.sched with banks := [] } }

theorem exec_selfRefreshEntry_of_idle {t : State} (ht : syncDram (ch % 2) s = t) (hstate : (chan t (ch % 2)).state = 3)
    (hflag : bit (chan t (ch % 2)).flags 2 = true) (hnone : allWaits (chan t (ch % 2)).sched = []) : exec (.selfRefreshEntry ch) s =
      .next (modChan (ch % 2) selfRefreshed (reachEdge ((chan t (ch % 2)).lastRequest + (chan t (ch % 2)).srIdle * usE) t)) := by
  change execSelfRefreshEntry ch s = _
  simp only [execSelfRefreshEntry, hclk, ht, hstate, hflag, hnone, bne_self_eq_false, Bool.not_true, List.isEmpty_nil, Bool.or_self, Bool.false_eq_true,
    if_false]
  rfl

theorem exec_selfRefreshEntry_of_busy {t : State} (ht : syncDram (ch % 2) s = t) (hbusy : (chan t (ch % 2)).state ≠ 3 ∨
    bit (chan t (ch % 2)).flags 2 = false ∨ allWaits (chan t (ch % 2)).sched ≠ []) : exec (.selfRefreshEntry ch) s = .next t := by
  have hskip : ((chan t (ch % 2)).state != 3 || !bit (chan t (ch % 2)).flags 2 || !(allWaits (chan t (ch % 2)).sched).isEmpty) = true := by
    simpa [or_assoc] using hbusy
  change execSelfRefreshEntry ch s = _
  simp only [execSelfRefreshEntry, hclk, ht, hskip, Bool.false_eq_true, if_false, if_true]

/-- The next refresh window of a channel, with no samples and no throttles. -/
def windowCleared (due : Nat) (x : Chan) : Chan := { x with samples := [], throttled := [], windowAt := due }

theorem exec_disturbWindowClear {due : Nat} (hdue : (chan s (ch % 2)).windowAt + refreshWindow (chan s (ch % 2)) = due) :
    exec (.disturbWindowClear ch) s = .next (modChan (ch % 2) (windowCleared due) (syncDram (ch % 2) (reachEdge due s))) := by
  change execDisturbWindowClear ch s = _
  simp only [execDisturbWindowClear, hclk, hdue, Bool.false_eq_true, if_false]
  rfl

end idle

/-- The frames of the records still held are dropped. -/
def heldDropped (s : State) : State :=
  s.deep.recs.foldl (fun s e => if e.2.state = 3 then s else dropSpilled e.2.uid (spillFull e.2.half s)) s

section training
variable {t : Training} {s : State} (hclk : s.clk.coreStopped = false) (htraining : s.deep.training = some t)
include hclk htraining

theorem exec_spillDrainTimeout_of_draining (hstage : t.stage = 1) {v : State} (hv : reachEdge (t.startedAt + secE) s = v) :
    exec .spillDrainTimeout s = .next (trainGo (heldDropped v)) := by
  change execSpillDrainTimeout s = _
  simp only [execSpillDrainTimeout, hclk, htraining, hstage, hv, bne_self_eq_false, Bool.false_eq_true, if_false]
  rfl

theorem exec_spillDrainTimeout_of_drained (hstage : t.stage ≠ 1) : exec .spillDrainTimeout s = .next s := by
  change execSpillDrainTimeout s = _
  simp only [execSpillDrainTimeout, hclk, htraining, bne_iff_ne.mpr hstage, Bool.false_eq_true, if_false, if_true]

end training

theorem exec_regionInitDone {start bytes en : Nat} {t : Ticket} {s : State} (hclk : s.clk.coreStopped = false)
    (hinit : s.deep.init = some (start, bytes, en, t)) {v v1 v2 v3 : State} (hv : reachEdge (start + ceilDiv (bytes * 5) 8) s = v)
    (hv1 : modDeep (fun d => { d with init := none, enables := en, recs := [], rings := [], lanes := d.lanes.filter (fun e => !inRegions d en e.1) }) v = v1)
    (hv2 : (if bit en 1 then modFur 1 (fun x => { x with deepRecs := [] }) (modFur 0 (fun x => { x with deepRecs := [] }) v1) else v1) = v2)
    (hv3 : (if bit en 2 then modGle (fun g => { g with slots := [] }) v2 else v2) = v3) :
    exec .regionInitDone s = .next (complete t stOk [] v3) := by
  change execRegionInitDone s = _
  simp only [execRegionInitDone, hclk, hinit, hv, hv1, hv2, hv3, Bool.false_eq_true, if_false]

/-! ## The obligation -/

/-- Settles O58: clause by clause, what the check finds and what follows it. -/
theorem deepStoreReadsAreCheckedAgainstTheirAddress : Obligations.DeepStoreReadsAreCheckedAgainstTheirAddress := by
  unfold Obligations.DeepStoreReadsAreCheckedAgainstTheirAddress
  refine ⟨?abp, ?lanes, ?check, ?errors, ?written, ?done, ?refill, ?patrol, ?own, ?refresh, ?command, ?rank, ?idle, ?drain, ?init⟩
  case abp => exact fun c half poison => ⟨rfl, abpOf_lt c half poison⟩
  case lanes =>
    intro c half data poison b w
    exact ⟨checkLanes_check c half poison b, checkLanes_abp c half poison b, checkLanes_poison c half poison b, fun i _ => halfBeat_eq data w i⟩
  case check =>
    intro client c half w bch s hc bad recent fault
    refine ⟨fun habp => ?agrees, fun habp => ?mismatch⟩
    case agrees =>
      have hcheck := checkRead_of_match (client := client) (bch := bch) (s := s) habp
      refine ⟨fun hpoison => hcheck.trans (if_pos hpoison), fun hclean hbch => ?_, fun hclean hbch => ?_, fun hclean hbch => ?_⟩
      all_goals rw [hcheck, hclean, if_neg Bool.false_ne_true]
      · rw [hbch]; rfl
      · rw [hbch]; rfl
      · match bch, hbch with
        | n + 2, _ => rfl
    case mismatch =>
      have hcheck := checkRead_of_mismatch (client := client) (bch := bch) (s := s) habp (l := recent) rfl
      exact ⟨fun hmany => hcheck.trans (congrArg (Prod.mk false) (if_pos hmany)),
        fun hfew => hcheck.trans (congrArg (Prod.mk false) (if_neg (Nat.not_le.mpr hfew)))⟩
  case errors => exact fun _ _ _ _ _ _ _ => rfl
  case written =>
    intro client c half poison b s
    refine ⟨fun hnone => ?_, fun hsome => ?_⟩
    · rw [readCheck_clean, halfLanes, hnone]
      exact checkRead_checkLanes false (zeros 32)
    · rw [readCheck_clean, halfLanes, hsome, Option.getD_some, checkRead_checkLanes]
      cases poison <;> rfl
  case done =>
    intro client ch half abp poison bch uid handle s hclk c x
    refine ⟨fun hdown => exec_deepStoreReadDone_of_down hclk hdown, fun hready => ?_⟩
    have hexec := exec_deepStoreReadDone_of_ready (client := client) (uid := uid) (handle := handle) hclk hready (x := x) rfl
    refine ⟨fun hrefill => ?_, fun hother hkept => ?_, fun r hcopy hbad hrestart => ⟨fun hcopied => ?_, fun hcopying => ?_⟩⟩
    · exact hexec.trans (congrArg Host.Outcome.next (halfDelivered_of_refill hrefill))
    · exact hexec.trans (congrArg Host.Outcome.next (halfDelivered_of_other hother hkept))
    · exact hexec.trans (congrArg Host.Outcome.next ((halfDelivered_of_badCopy hcopy hbad hrestart).trans (if_pos hcopied)))
    · exact hexec.trans (congrArg Host.Outcome.next ((halfDelivered_of_badCopy hcopy hbad hrestart).trans (if_neg (by simp [hcopying]))))
  case refill =>
    intro u c k i r s hrec hstate hk
    have hhalf := refillHalfDone_of_awaited (c := c) hrec hstate hk
    refine ⟨(hhalf false).trans (if_pos rfl), fun hmore => ?_, fun hlast => ?_⟩
    · obtain ⟨j, hj, hne⟩ := hmore
      have hleft : r.reads.filter (· != k) ≠ [] := List.ne_nil_of_mem (List.mem_filter.mpr ⟨hj, bne_iff_ne.mpr hne⟩)
      exact (hhalf true).trans ((if_neg (by decide)).trans (if_neg hleft))
    · have hnone : r.reads.filter (· != k) = [] := List.filter_eq_nil_iff.mpr fun j hj => by simp [hlast j hj]
      exact (hhalf true).trans ((if_neg (by decide)).trans (if_pos hnone))
  case patrol =>
    intro ch abp0 bch0 abp1 bch1 poison s0 hclk c half own due x0 x1 n lower upper next
    refine ⟨fun hidle => exec_patrolRead_of_idle hclk hidle, fun hready hfree => ?_⟩
    classical
    have hexec := exec_patrolRead_of_ready hclk hready hfree (c := c) (half := half) (due := due) (n := n) (x0 := x0) (x1 := x1) rfl rfl rfl rfl rfl rfl
    rw [correctedHalves_eq (lower := lower) (upper := upper) Iff.rfl Iff.rfl] at hexec
    refine ⟨fun hl hu => ?_, fun hl hu => ?_, fun hl hu => ?_, fun hl hu => ?_⟩
    all_goals
      simp only [hl, hu, if_true, if_false] at hexec
      exact hexec
  case own =>
    intro c burst mask client s hclient v hburst hdue hc
    exact patrolOwn_putReq s hclient rfl hburst hdue
  case refresh =>
    intro ch rank s0 hclk c e s n
    refine ⟨fun hoff => exec_refreshDue_of_off hclk hoff, fun hstate hrank => ?_⟩
    have hexec := fun late => exec_refreshDue_of_on hclk hstate hrank late (e := e) (t := s) rfl rfl
    refine ⟨fun hwaits hn => ?_, fun hwaits late hlate => ?_, fun hnone late => ?_⟩
    · refine (hexec true).trans (congrArg Host.Outcome.next (modChan_congr s ?_))
      rw [show rankWaits (chan s (ch % 2)) rank = true from hwaits]
      exact refreshQueued_of_postponed hn
    · refine (hexec late).trans (congrArg Host.Outcome.next (modChan_congr s ?_))
      rw [show rankWaits (chan s (ch % 2)) rank = true from hwaits]
      exact refreshQueued_of_full hlate
    · refine (hexec late).trans (congrArg Host.Outcome.next (modChan_congr s ?_))
      rw [show rankWaits (chan s (ch % 2)) rank = false from hnone]
      exact refreshQueued_of_idle late
  case command =>
    intro c s
    split
    · next r hdue => exact dramCommand_of_refresh hdue
    · next k q hdue hpick => exact dramCommand_of_column hdue hpick
    · rfl
  case rank => exact fun rank x => ⟨rfl, fun e he hrank => refreshRank_closes he hrank⟩
  case idle =>
    intro ch s0 hclk c s x due
    exact ⟨fun hstate hflag hnone => exec_selfRefreshEntry_of_idle hclk rfl hstate hflag hnone,
      fun hbusy => exec_selfRefreshEntry_of_busy hclk rfl hbusy, exec_disturbWindowClear hclk rfl⟩
  case drain =>
    intro t s0 hclk htraining
    exact ⟨fun hstage => exec_spillDrainTimeout_of_draining hclk htraining hstage rfl, fun hstage => exec_spillDrainTimeout_of_drained hclk htraining hstage⟩
  case init =>
    intro start bytes en t s0 hclk s s1 s2 s3 hinit
    exact exec_regionInitDone hclk hinit rfl rfl rfl rfl

end Sys2Proof.Machine
end

section
/-! PROOF. The ticks of the stook, and the end of a snapshot's DMA (spec/13 R448-R450, R462). -/

namespace Sys2Proof.Machine

/-! ## The ticks (R448, R449) -/

/-- The instant that a periodic tick stands for: the due one, or the last one before now where a step has passed some. -/
def tickTime (per due now : Nat) : Nat := if due + per ≤ now then now / per * per else due

/-- The next periodic tick is set, and those that a step has passed are counted as skipped. -/
def tickSet (per due t : Nat) (x : Stook) : Stook := { x with nextTick := some (t + per), skipped := satAdd 0xFFFF x.skipped ((t - due) / per) }

section ticks
variable {n per due t : Nat} {k : Ticket} {s v : State}

theorem stookPeriodic_eq (hper : s.stook.period * 1000000 = per) (hdue : min n (nextMult per (nowNs s)) = due) (ht : tickTime per due (nowNs s) = t)
    (hv : reachNs t (modStook (tickSet per due t) s) = v) : stookPeriodic n s =
      if v.stook.writing.isSome = true then stookSkip 1 v else if v.pcie.up = false then stookSkip 2 v else stookLatch t none v := by
  subst hper hdue ht hv
  simp only [stookPeriodic, Bool.not_eq_true']
  rfl

theorem stookManual_eq (hv : modStook (fun x => { x with manual := none }) (reachNs t s) = v) : stookManual t k s =
    if v.stook.writing.isSome = true then complete k stBusy [] (stookSkip 1 v)
    else if v.pcie.up = false then complete k stHwFault [] (stookSkip 2 v) else stookLatch t (some k) v := by
  subst hv
  simp only [stookManual, Bool.not_eq_true']

variable (hclk : s.clk.coreStopped = false)
include hclk

theorem exec_stookTick_of_off (henable : s.stook.enable = false) (hmanual : s.stook.manual = none) : exec .stookTick s = .next s := by
  change execStookTick s = _
  simp only [execStookTick, hclk, henable, hmanual, Bool.false_eq_true, if_false]

theorem exec_stookTick_of_periodic (henable : s.stook.enable = true) (hnext : s.stook.nextTick = some n) (hmanual : s.stook.manual = none) :
    exec .stookTick s = .next (stookPeriodic n s) := by
  change execStookTick s = _
  simp only [execStookTick, hclk, henable, hnext, hmanual, Bool.false_eq_true, if_false, if_true]

theorem exec_stookTick_of_manual (henable : s.stook.enable = false) (hmanual : s.stook.manual = some (t, k)) :
    exec .stookTick s = .next (stookManual t k s) := by
  change execStookTick s = _
  simp only [execStookTick, hclk, henable, hmanual, Bool.false_eq_true, if_false]

end ticks

/-! ## A snapshot written (R450) -/

/-- No snapshot is being written. -/
def writingEnded (s : State) : State := modStook (fun x => { x with writing := none }) s

/-- A snapshot goes to its slot at address a: the invalid GENERATION, the body, the header, the CRC. -/
def slotWritten (w : Snapshot) (a : Nat) (s : State) : State :=
  emitOut (.hostWrite (a + 60) (toLE 4 (crc32 (w.header ++ w.body)))) (emitOut (.hostWrite a w.header)
    (emitOut (.hostWrite (a + 64) w.body) (emitOut (.hostWrite (a + 4) (toLE 4 0xFFFFFFFF)) s)))

/-- Generation g in a slot is the last one written. -/
def generationReached (g slot : Nat) (s : State) : State :=
  fire 0x390 0 (toLE 4 g ++ toLE 1 slot) (modStook (fun x => { x with lastGen := g, lastSlot := slot }) s)

section written
variable {w : Snapshot} {s v : State} (hclk : s.clk.coreStopped = false) (hwriting : s.stook.writing = some w)
include hclk hwriting

theorem exec_stookSnapshotWritten_good (hup : s.pcie.up = true) {g slot a : Nat} (hg : s.stook.generation = g) (hslot : g % max 1 s.stook.nSlots = slot)
    (ha : s.stook.base + slot * s.stook.slotBytes = a) (hv : generationReached g slot (slotWritten w a (writingEnded s)) = v) :
    exec (.stookSnapshotWritten true) s =
      .next (match w.ticket with | some k => complete k stOk (toLE 4 g ++ toLE 8 (t64OfNs w.t)) v | none => v) := by
  subst hg hslot ha hv
  change execStookSnapshotWritten true s = _
  simp only [execStookSnapshotWritten, hclk, hwriting, hup, Bool.not_true, Bool.or_self, Bool.false_eq_true, if_false]
  rfl

theorem exec_stookSnapshotWritten_bad (hv : stookSkip 2 (stookUndo w (writingEnded s)) = v) : exec (.stookSnapshotWritten false) s =
    .next (match w.ticket with | some k => complete k stHwFault [] v | none => v) := by
  subst hv
  change execStookSnapshotWritten false s = _
  simp only [execStookSnapshotWritten, hclk, hwriting, Bool.not_false, Bool.true_or, Bool.false_eq_true, if_false, if_true]
  rfl

end written

/-- Settles O57: the tick that a command takes, and what it finds being written. -/
theorem stookTicksLatchAndSnapshotsAreWritten : Obligations.StookTicksLatchAndSnapshotsAreWritten := by
  unfold Obligations.StookTicksLatchAndSnapshotsAreWritten
  refine ⟨fun s hclk henable hmanual => exec_stookTick_of_off hclk henable hmanual, ?periodic, ?manual, ?written⟩
  case periodic =>
    intro n s0 hclk per due t s henable hnext hmanual
    have hexec := (exec_stookTick_of_periodic hclk henable hnext hmanual).trans
      (congrArg Host.Outcome.next (stookPeriodic_eq (per := per) (due := due) (t := t) (v := s) rfl rfl rfl rfl))
    refine ⟨fun hbusy => ?_, fun hfree hdown => ?_, fun hfree hup => ?_⟩
    · exact hexec.trans (congrArg Host.Outcome.next (if_pos hbusy))
    · exact hexec.trans (congrArg Host.Outcome.next ((if_neg (by simp [hfree])).trans (if_pos hdown)))
    · exact hexec.trans (congrArg Host.Outcome.next ((if_neg (by simp [hfree])).trans (if_neg (by simp [hup]))))
  case manual =>
    intro t k s0 hclk s henable hmanual
    have hexec := (exec_stookTick_of_manual hclk henable hmanual).trans (congrArg Host.Outcome.next (stookManual_eq (v := s) rfl))
    refine ⟨fun hbusy => ?_, fun hfree hdown => ?_, fun hfree hup => ?_⟩
    · exact hexec.trans (congrArg Host.Outcome.next (if_pos hbusy))
    · exact hexec.trans (congrArg Host.Outcome.next ((if_neg (by simp [hfree])).trans (if_pos hdown)))
    · exact hexec.trans (congrArg Host.Outcome.next ((if_neg (by simp [hfree])).trans (if_neg (by simp [hup]))))
  case written =>
    intro w s hclk g slot a s1 s2 s3 hwriting
    refine ⟨fun hup hnone => ?_, fun k hup hsome => ?_, fun hnone => ?_, fun k hsome => ?_⟩
    · rw [exec_stookSnapshotWritten_good hclk hwriting hup (g := g) (slot := slot) (a := a) (v := s3) rfl rfl rfl rfl, hnone]
    · rw [exec_stookSnapshotWritten_good hclk hwriting hup (g := g) (slot := slot) (a := a) (v := s3) rfl rfl rfl rfl, hsome]
    · rw [exec_stookSnapshotWritten_bad hclk hwriting rfl, hnone]
      rfl
    · rw [exec_stookSnapshotWritten_bad hclk hwriting rfl, hsome]
      rfl

end Sys2Proof.Machine
end

section
/-! PROOF. GLEANER_SET, GLEANER_TRIGGER, MIRROR_SET, STOOK_SET, COUNTER_SELECT and STOOK_NOW: what their bodies answer (spec/13 R443-R462). -/

namespace Sys2Proof.Machine

/-! ## GLEANER_SET (R456) -/

/-- The settings that CONFIGURE carries are legal, and byte 4 says on or off. -/
structure GleanerFits (b : List Byte) : Prop where
  reserved : reservedAt b 1 3 = true
  switch : byteAt b 4 ≤ 1
  mode : byteAt b 5 ≤ 2
  flags : byteAt b 6 < 4
  waitLeast : 1 ≤ byteAt b 7
  waitMost : byteAt b 7 ≤ 100
  post : le b 8 4 ≤ 60000
  handle : le b 12 4 < 2 ^ 20
  named : bit (byteAt b 6) 1 = true → le b 12 4 ≠ 0

/-- The settings that CONFIGURE carries. -/
def gleanerPut (b : List Byte) (g : Gleaner) : Gleaner :=
  { g with mode := byteAt b 5, flags := byteAt b 6, verdictWait := byteAt b 7, postTime := le b 8 4, handle := le b 12 4, gpioMask := le b 16 4 }

/-- The ring starts, empty, initialising from SEQUENCE 0. -/
def gleanerStarted (p : Packet) (s : State) : State :=
  { s with gle := { gleanerPut p.params s.gle with
      enable := true, state := 1, seq := 0, tg := 0, trigSeq := 0, trigSrc := 0, freezeCause := 0, freezeSeq := 0, fullReported := false
      recs := [], outq := [], slots := [], initAt := s.clk.edges, initTickets := s.gle.initTickets ++ [ticketFor specGleanerSet p] } }

/-- The settings of a ring that is on already: another mode than STOP lets a full one record on. -/
def gleanerKept (b : List Byte) (s : State) : State :=
  { s with gle := { gleanerPut b s.gle with enable := true, state := if s.gle.state = 5 ∧ byteAt b 5 ≠ 1 then 2 else s.gle.state } }

/-- The ring is switched off; an initialisation runs to its end. -/
def gleanerOff (b : List Byte) (s : State) : State :=
  { s with gle := { gleanerPut b s.gle with enable := false, state := if s.gle.state = 1 then 1 else 0 } }

/-- The copy that COPY asks for. -/
def copyAsked (p : Packet) (s : State) : GlCopy :=
  { first := le p.params 4 6, count := le p.params 12 4, addr := le p.params 16 8, startSeq := s.gle.seq, startedAt := s.clk.edges
    ticket := ticketFor specGleanerSet p }

/-- A copy waits behind those asked for before. -/
def copyQueued (c : GlCopy) (s : State) : State := modGle (fun g => { g with copies := g.copies ++ [c] }) s

section gleanerSet
variable {p : Packet} {s : State}

theorem gleanerChecks_of_fits (hfits : GleanerFits p.params) (k : CmdResult) :
    checked [(reservedAt p.params 1 3, 1), (decide (byteAt p.params 4 ≤ 1), 4), (decide (byteAt p.params 5 ≤ 2), 5), (decide (byteAt p.params 6 < 4), 6),
      (decide (1 ≤ byteAt p.params 7) && decide (byteAt p.params 7 ≤ 100), 7), (decide (le p.params 8 4 ≤ 60000), 8),
      (decide (le p.params 12 4 < 2 ^ 20) && (le p.params 12 4 != 0 || !bit (byteAt p.params 6) 1), 12)] k = k := by
  obtain ⟨hres, hswitch, hmode, hflags, hleast, hmost, hpost, hhandle, hnamed⟩ := hfits
  refine checked_of_none _ (firstBad_of_all fun e he => ?_)
  simp only [List.mem_cons, List.not_mem_nil, or_false] at he
  rcases he with rfl | rfl | rfl | rfl | rfl | rfl | rfl
  · exact hres
  · exact decide_eq_true hswitch
  · exact decide_eq_true hmode
  · exact decide_eq_true hflags
  · exact Bool.and_eq_true_iff.mpr ⟨decide_eq_true hleast, decide_eq_true hmost⟩
  · exact decide_eq_true hpost
  · refine Bool.and_eq_true_iff.mpr ⟨decide_eq_true hhandle, ?_⟩
    cases hbit : bit (byteAt p.params 6) 1
    · exact Bool.or_true _
    · simp [hnamed hbit]

section configure
variable (hop : byteAt p.params 0 = 0) (hfits : GleanerFits p.params)
include hop hfits

theorem bodyGleanerSet_of_noRegion (hregion : glRegion s = false) : bodyGleanerSet p s = .conflict := by
  simp only [bodyGleanerSet, hop, hregion, Bool.not_false, if_true]
  exact gleanerChecks_of_fits hfits _

variable (hregion : glRegion s = true)
include hregion

theorem bodyGleanerSet_of_start (hon : byteAt p.params 4 = 1) (hoff : s.gle.enable = false) : bodyGleanerSet p s = .accepted (gleanerStarted p s) := by
  simp only [bodyGleanerSet, hop, hregion, Bool.not_true, Bool.false_eq_true, if_false]
  refine (gleanerChecks_of_fits hfits _).trans (if_pos ?_)
  simp [hon, hoff]

theorem bodyGleanerSet_of_on (hon : byteAt p.params 4 = 1) (hwas : s.gle.enable = true) :
    bodyGleanerSet p s = .ok [] (stopFull (gleanerKept p.params s)) := by
  simp only [bodyGleanerSet, hop, hregion, Bool.not_true, Bool.false_eq_true, if_false]
  refine (gleanerChecks_of_fits hfits _).trans ((if_neg ?_).trans ?_)
  · simp [hwas]
  · simp only [hon, beq_self_eq_true, Bool.not_true, Bool.false_and, Bool.false_eq_true, if_false, Bool.and_eq_true, decide_eq_true_eq, bne_iff_ne]
    rfl

theorem bodyGleanerSet_of_off (hoff : byteAt p.params 4 = 0) : bodyGleanerSet p s = .ok [] (gleanerOff p.params s) := by
  have hstate : (gleanerOff p.params s).gle.state ≠ 2 := by
    simp only [gleanerOff]
    split <;> decide
  rw [← stopFull_of_not_full (s := gleanerOff p.params s) fun h => hstate h.1]
  simp only [bodyGleanerSet, hop, hregion, Bool.not_true, Bool.false_eq_true, if_false]
  refine (gleanerChecks_of_fits hfits _).trans ((if_neg ?_).trans ?_)
  · simp [hoff]
  · by_cases hinit : s.gle.state = 1 <;> simp [hoff, hinit, gleanerOff, gleanerPut]

end configure

theorem bodyGleanerSet_of_status (hres : reservedAt p.params 1 3 = true) (hop : byteAt p.params 0 = 1) :
    bodyGleanerSet p s = .ok (glHeader s 0 0 s.gle.seq) s := by
  simp [bodyGleanerSet, hop, checked, firstBad, hres]

theorem bodyGleanerSet_of_copy (hres : reservedAt p.params 1 3 = true) (hop : byteAt p.params 0 = 2) (hpad : reservedAt p.params 10 2 = true)
    (hleast : 1 ≤ le p.params 12 4) (hmost : le p.params 12 4 ≤ 67108864) (haddr : le p.params 16 8 % 64 = 0) : bodyGleanerSet p s =
      if s.gle.state = 1 then .refuse stBusy 0
      else if s.gle.seq ≤ le p.params 4 6 + ringRecords s ∧ le p.params 4 6 + le p.params 12 4 ≤ s.gle.seq then
        .accepted (if s.gle.copies = [] then copyStarts (copyQueued (copyAsked p s) s) else copyQueued (copyAsked p s) s)
      else .badParam 4 := by
  have hheld : ∀ P Q : Prop, ∀ [Decidable P] [Decidable Q], ∀ k : CmdResult,
      checked [(decide P && decide Q, 4)] k = if P ∧ Q then k else .badParam 4 := fun P Q _ _ k => by
    by_cases hP : P <;> by_cases hQ : Q <;> simp [checked, firstBad, hP, hQ]
  simp only [bodyGleanerSet, hop, hheld, List.isEmpty_iff]
  refine checked_of_none _ ?_
  simp [firstBad, hres, hpad, hleast, hmost, haddr]

end gleanerSet

theorem length_glHeader (s : State) (first count seq0 : Nat) : (glHeader s first count seq0).length = 64 := by
  simp [glHeader]

/-! ## GLEANER_TRIGGER (R457) -/

section trigger
variable {p : Packet} {s : State} (hres : reservedAt p.params 1 3 = true)
include hres

theorem bodyGleanerTrigger_of_trigger (hop : byteAt p.params 0 = 0) (htime : t64Ok (le p.params 4 8) = true) (hpast : nsOfT64 (le p.params 4 8) ≤ nowNs s)
    {x : Bool × State} (hx : glTrigger 0x03 (if le p.params 4 8 = 0 then nowNs s else nsOfT64 (le p.params 4 8)) true s = x) :
    bodyGleanerTrigger p s = .ok ((if x.1 = true then toLE 6 x.2.gle.trigSeq else List.replicate 6 0xFF) ++ zeros 2) x.2 := by
  simp only [bodyGleanerTrigger, hop, checked, firstBad, hres, htime, hpast, decide_true, Bool.and_self, if_true, hx]
  obtain ⟨taken, t⟩ := x
  cases taken <;> rfl

/-- A frozen ring records again. -/
def rearmed (s : State) : State := modGle (fun g => { g with state := 2, freezeCause := 0, trigSrc := 0, tg := 0, trigSeq := 0 }) s

theorem bodyGleanerTrigger_of_rearm (hop : byteAt p.params 0 = 1) :
    bodyGleanerTrigger p s = if s.gle.state ≠ 4 then .conflict else .ok [] (stopFull (rearmed s)) := by
  simp only [bodyGleanerTrigger, hop, checked, firstBad, hres, if_true, bne_iff_ne]
  rfl

end trigger

/-! ## MIRROR_SET (R459) -/

/-- The ports that a session has named so far are awake. -/
def mirrorWoken (i : Nat) (s : State) : State := touchPorts (mirrorPorts (mirrorCfg s i)) s

/-- The session that SET carries. -/
def mirrorAsked (b : List Byte) (m : MirrorCfg) : MirrorCfg :=
  { m with set := true, port := byteAt b 2, flags := byteAt b 3, classMask := byteAt b 4, truncate := le b 6 2, inMask := le b 8 8, egMask := le b 16 8 }

/-- What READ answers of a session. -/
def mirrorReply (i : Nat) (m : MirrorCfg) : List Byte :=
  toLE 1 i ++ zeros 1 ++ toLE 1 m.port ++ toLE 1 m.flags ++ toLE 1 m.classMask ++ zeros 1 ++ toLE 2 m.truncate ++ toLE 8 m.inMask ++ toLE 8 m.egMask ++
    toLE 4 m.copies ++ toLE 4 m.drops

/-- The fields of SET are legal. -/
structure MirrorFits (b : List Byte) (s : State) : Prop where
  port : portExists s (byteAt b 2) = true
  notIn : bit (le b 8 8) (byteAt b 2) = false
  notOut : bit (le b 16 8) (byteAt b 2) = false
  truncate : le b 6 2 = 0 ∨ (64 ≤ le b 6 2 ∧ le b 6 2 ≤ 9216)
  inMask : maskOk s (le b 8 8) = true
  egMask : maskOk s (le b 16 8) = true

section mirror
variable {p : Packet} {s : State} (hi : byteAt p.params 0 < 4) (hflags : byteAt p.params 3 < 4) (hres : reservedAt p.params 5 1 = true)
include hi hflags hres

theorem bodyMirrorSet_of_set (hop : byteAt p.params 1 = 0) (hfits : MirrorFits p.params s) : bodyMirrorSet p s =
    .ok [] (touchPorts (byteAt p.params 2 :: maskPorts (le p.params 8 8 ||| le p.params 16 8))
      (modMirror (byteAt p.params 0) (mirrorAsked p.params) (mirrorWoken (byteAt p.params 0) s))) := by
  obtain ⟨hport, hin, hout, htr, him, hem⟩ := hfits
  have htr' : (le p.params 6 2 == 0 || (decide (64 ≤ le p.params 6 2) && decide (le p.params 6 2 ≤ 9216))) = true := by simpa using htr
  simp only [bodyMirrorSet, hop, checked, firstBad, hi, hflags, hres, hport, hin, hout, htr', him, hem, decide_true, Bool.not_false, Bool.and_self, if_true]
  rfl

theorem bodyMirrorSet_of_clear (hop : byteAt p.params 1 = 1) : bodyMirrorSet p s =
    .ok [] (modMirror (byteAt p.params 0) (fun m => { copies := m.copies, drops := m.drops }) (mirrorWoken (byteAt p.params 0) s)) := by
  simp only [bodyMirrorSet, hop, checked, firstBad, hi, hflags, hres, decide_true, if_true]
  rfl

theorem bodyMirrorSet_of_read (hop : byteAt p.params 1 = 2) : bodyMirrorSet p s =
    .ok (mirrorReply (byteAt p.params 0) (mirrorCfg s (byteAt p.params 0))) (mirrorWoken (byteAt p.params 0) s) := by
  simp only [bodyMirrorSet, hop, checked, firstBad, hi, hflags, hres, decide_true, if_true]
  rfl

end mirror

/-! ## STOOK_SET (R460) -/

/-- The fields of STOOK_SET are legal. -/
structure StookFits (b : List Byte) : Prop where
  base : le b 0 8 % 64 = 0
  slot : le b 8 4 % 64 = 0
  size : stookSize (bit (byteAt b 13) 1) (bit (byteAt b 13) 2) ≤ le b 8 4
  slotsLeast : 2 ≤ byteAt b 12
  slotsMost : byteAt b 12 ≤ 64
  flags : byteAt b 13 < 8
  reserved : reservedAt b 14 2 = true
  period : le b 16 4 ∈ stookPeriods
  meters : bit (byteAt b 13) 2 = true → 100 ≤ le b 16 4
  pad : reservedAt b 20 4 = true

/-- The block names the ring that is in force. -/
def sameRing (b : List Byte) (k : Stook) : Prop := le b 0 8 = k.base ∧ le b 8 4 = k.slotBytes ∧ byteAt b 12 = k.nSlots

/-- The next tick of the period that STOOK_SET carries. -/
def tickAsked (b : List Byte) (s : State) : Nat := nextMult (le b 16 4 * 1000000) (nowNs s)

/-- The settings that STOOK_SET carries. -/
def stookPut (b : List Byte) (t : Nat) (x : Stook) : Stook :=
  { x with
    enable := bit (byteAt b 13) 0, samples := bit (byteAt b 13) 1, meters := bit (byteAt b 13) 2, base := le b 0 8, slotBytes := le b 8 4
    nSlots := byteAt b 12, period := le b 16 4, nextTick := if bit (byteAt b 13) 0 then some t else none
    latchUs := if bit (byteAt b 13) 0 && !x.enable then none else x.latchUs }

theorem bodyStookSet_of_fits {p : Packet} {s : State} (hfits : StookFits p.params) [Decidable (sameRing p.params s.stook)] : bodyStookSet p s =
    if s.stook.writing.isSome = true ∧ ¬ sameRing p.params s.stook then .refuse stBusy 0
    else .ok (toLE 4 (stookSize (bit (byteAt p.params 13) 1) (bit (byteAt p.params 13) 2)) ++ zeros 4 ++
        toLE 8 (if bit (byteAt p.params 13) 0 = true then t64OfNs (tickAsked p.params s) else 0))
      (if bit (byteAt p.params 13) 0 = true then modStook (stookPut p.params (tickAsked p.params s)) s
       else perfApply (modStook (stookPut p.params (tickAsked p.params s)) s)) := by
  obtain ⟨hbase, hslot, hsize, hleast, hmost, hflags, hres, hper, hmeters, hpad⟩ := hfits
  refine (checked_of_none _ (firstBad_of_all fun e he => ?_)).trans (if_congr ?_ rfl rfl)
  · simp only [List.mem_cons, List.not_mem_nil, or_false] at he
    rcases he with rfl | rfl | rfl | rfl | rfl | rfl | rfl
    · exact beq_iff_eq.mpr hbase
    · exact Bool.and_eq_true_iff.mpr ⟨beq_iff_eq.mpr hslot, decide_eq_true hsize⟩
    · exact Bool.and_eq_true_iff.mpr ⟨decide_eq_true hleast, decide_eq_true hmost⟩
    · exact decide_eq_true hflags
    · exact hres
    · refine Bool.and_eq_true_iff.mpr ⟨List.contains_iff_mem.mpr hper, ?_⟩
      cases hbit : bit (byteAt p.params 13) 2
      · rfl
      · simp [hmeters hbit]
    · exact hpad
  · simp [sameRing, imp_iff_not_or, or_assoc]

/-! ## COUNTER_SELECT (R461) -/

/-- A block's clocks have run up to now: those of a channel are SDRAM clocks. -/
def blockRun (blk : Nat) (s : State) : State := if blk < 3 then s else syncDram (blk - 3) s

/-- Counter i takes an event, from the next latch on while the stook runs. -/
def counterTakes (i e : Nat) (s : State) : State :=
  if s.stook.enable then { s with perf := tmod {} s.perf i (fun x => { x with pend := some e }) } else perfTake i e s

section counters
variable {p : Packet} {s : State} (hblk : byteAt p.params 0 < 5) (hfirst : byteAt p.params 1 < (perfBlock (byteAt p.params 0)).2)
  (hin : byteAt p.params 1 + byteAt p.params 2 ≤ (perfBlock (byteAt p.params 0)).2) (hres : reservedAt p.params 4 4 = true)
include hblk hfirst hin hres

theorem bodyCounterSelect_of_select (hop : byteAt p.params 3 = 0)
    (hevents : ∀ i, i < byteAt p.params 2 → perfOk (byteAt p.params 0) (le p.params (8 + 2 * i) 2) = true)
    (hpad : reservedAt p.params (8 + 2 * byteAt p.params 2) 2 = true) : bodyCounterSelect p s =
      .ok [] ((List.range (byteAt p.params 2)).foldl
        (fun s i => counterTakes ((perfBlock (byteAt p.params 0)).1 + byteAt p.params 1 + i) (le p.params (8 + 2 * i) 2) s) (blockRun (byteAt p.params 0) s)) := by
  simp only [bodyCounterSelect, hop, if_true, List.foldl_map]
  refine checked_of_none _ (firstBad_of_all fun e he => ?_)
  simp only [List.mem_append, List.mem_cons, List.not_mem_nil, or_false, List.map_map, List.mem_map, List.mem_range] at he
  rcases he with (rfl | rfl | rfl | rfl | rfl) | ⟨i, hi, rfl⟩ | rfl
  · exact decide_eq_true hblk
  · simp [hfirst]
  · exact decide_eq_true hin
  · rfl
  · exact hres
  · exact hevents i hi
  · exact hpad

theorem bodyCounterSelect_of_read (hop : byteAt p.params 3 = 1) : bodyCounterSelect p s =
    .ok (perfBytes ((perfBlock (byteAt p.params 0)).1 + byteAt p.params 1) (byteAt p.params 2) (blockRun (byteAt p.params 0) s))
      (blockRun (byteAt p.params 0) s) := by
  simp only [bodyCounterSelect, hop, one_ne_zero, if_false]
  refine checked_of_none _ (firstBad_of_all fun e he => ?_)
  simp only [List.mem_append, List.mem_cons, List.not_mem_nil, or_false] at he
  rcases he with rfl | rfl | rfl | rfl | rfl
  · exact decide_eq_true hblk
  · simp [hfirst]
  · exact decide_eq_true hin
  · rfl
  · exact hres

end counters

theorem length_perfBytes (i n : Nat) (s : State) : (perfBytes i n s).length = 8 * n := by
  simp [perfBytes, List.length_flatMap, Nat.mul_comm]

theorem perfBlock_size_le (b : Nat) : (perfBlock b).2 ≤ 64 := by
  unfold perfBlock
  split <;> decide

/-! ## STOOK_NOW (R462) -/

theorem bodyStookNow_eq (p : Packet) (s : State) : bodyStookNow p s =
    if s.stook.nSlots = 0 then .conflict
    else if s.stook.writing.isSome = true ∨ s.stook.manual.isSome = true then .refuse stBusy 0
    else .accepted (modStook (fun x => { x with manual := some (nowNs s + 10000, ticketFor specStookNow p) }) s) := by
  simp only [bodyStookNow, Bool.or_eq_true]

/-! ## The obligation -/

/-- Settles O56: check 10 passes in each clause, and so the body answers as the clause has it. -/
theorem recordingMirrorAndCounterCommandsAct : Obligations.RecordingMirrorAndCounterCommandsAct := by
  unfold Obligations.RecordingMirrorAndCounterCommandsAct
  refine ⟨?gleaner, ?trigger, ?mirror, ?stook, ?counter, ?now⟩
  case gleaner =>
    intro p s r b g tk g1 hacc hretrain hres
    have hrun := unlessRetrain_of_none (body := bodyGleanerSet) (p := asked specGleanerSet p) (s := r) hretrain
    refine ⟨fun hop hmode hflags hleast hmost hpost hhandle hnamed hregion => ⟨fun hon hoff => ?_, fun hon hwas => ?_, fun hoff => ?_⟩,
      fun hop hswitch hmode hflags hleast hmost hpost hhandle hnamed hregion => ?_, fun hop => ?_,
      fun hop hpad hleast hmost haddr => ⟨fun hinit => ?_, fun hinit hlow hhigh => ?_, fun hinit hgone => ?_⟩⟩
    · have hfits : GleanerFits (asked specGleanerSet p).params := ⟨hres, hon.le, hmode, hflags, hleast, hmost, hpost, hhandle, hnamed⟩
      exact serveCmd_accepted hacc (hrun.trans (bodyGleanerSet_of_start hop hfits hregion hon hoff))
    · have hfits : GleanerFits (asked specGleanerSet p).params := ⟨hres, hon.le, hmode, hflags, hleast, hmost, hpost, hhandle, hnamed⟩
      exact serveCmd_ok hacc (hrun.trans (bodyGleanerSet_of_on hop hfits hregion hon hwas)) (by decide) (by simp)
    · have hfits : GleanerFits (asked specGleanerSet p).params :=
        ⟨hres, hoff.trans_le (by decide), hmode, hflags, hleast, hmost, hpost, hhandle, hnamed⟩
      exact serveCmd_ok hacc (hrun.trans (bodyGleanerSet_of_off hop hfits hregion hoff)) (by decide) (by simp)
    · have hfits : GleanerFits (asked specGleanerSet p).params := ⟨hres, hswitch, hmode, hflags, hleast, hmost, hpost, hhandle, hnamed⟩
      exact serveCmd_conflict hacc (hrun.trans (bodyGleanerSet_of_noRegion hop hfits hregion))
    · exact serveCmd_ok hacc (hrun.trans (bodyGleanerSet_of_status hres hop)) (by decide) ((length_glHeader r 0 0 g.seq).trans_le (by decide))
    all_goals have hcopy := hrun.trans (bodyGleanerSet_of_copy (p := asked specGleanerSet p) (s := r) hres hop hpad hleast hmost haddr)
    · exact serveCmd_refuse hacc (hcopy.trans (if_pos hinit))
    · exact serveCmd_accepted hacc (hcopy.trans ((if_neg hinit).trans (if_pos ⟨hlow, hhigh⟩)))
    · have hnot : ¬ (r.gle.seq ≤ le b 4 6 + ringRecords r ∧ le b 4 6 + le b 12 4 ≤ r.gle.seq) := by
        rcases hgone with h | h
        · exact fun hheld => absurd hheld.1 (Nat.not_le.mpr h)
        · exact fun hheld => absurd hheld.2 (Nat.not_le.mpr h)
      exact serveCmd_badParam hacc (hcopy.trans ((if_neg hinit).trans (if_neg hnot)))
  case trigger =>
    intro p s r b t x hacc hres
    refine ⟨fun hop htime hpast => ?_, fun hop hfrozen => ?_, fun hop hother => ?_⟩
    · have hbody := bodyGleanerTrigger_of_trigger (p := asked specGleanerTrigger p) (s := r) hres hop htime hpast (x := x) rfl
      refine ⟨fun htaken => ?_, fun hrefused => ?_⟩
      · rw [if_pos htaken] at hbody
        exact serveCmd_ok (body := bodyGleanerTrigger) hacc hbody (by decide) (by simp)
      · rw [if_neg (by simp [hrefused])] at hbody
        exact serveCmd_ok (body := bodyGleanerTrigger) hacc hbody (by decide) (by simp)
    · exact serveCmd_ok (body := bodyGleanerTrigger) hacc
        ((bodyGleanerTrigger_of_rearm (p := asked specGleanerTrigger p) (s := r) hres hop).trans (if_neg (not_not_intro hfrozen))) (by decide) (by simp)
    · exact serveCmd_conflict (body := bodyGleanerTrigger) hacc
        ((bodyGleanerTrigger_of_rearm (p := asked specGleanerTrigger p) (s := r) hres hop).trans (if_pos hother))
  case mirror =>
    intro p s r b i a tr m v hacc hi
    refine ⟨fun hop hport hin hout hflags hres htr him hem => ?_, fun hop hflags hres => ?_, fun hop hflags hres => ?_⟩
    · exact serveCmd_ok (body := bodyMirrorSet) hacc (bodyMirrorSet_of_set (p := asked specMirrorSet p) (s := r) hi hflags hres hop
        ⟨hport, hin, hout, htr, him, hem⟩) (by decide) (by simp)
    · exact serveCmd_ok (body := bodyMirrorSet) hacc (bodyMirrorSet_of_clear (p := asked specMirrorSet p) (s := r) hi hflags hres hop) (by decide) (by simp)
    · exact serveCmd_ok (body := bodyMirrorSet) hacc (bodyMirrorSet_of_read (p := asked specMirrorSet p) (s := r) hi hflags hres hop) (by decide) (by simp)
  case stook =>
    intro p s r b f size per k t s1 other hacc hbase hslot hsize hleast hmost hflags hres hper hmeters hpad
    classical
    have hbody := bodyStookSet_of_fits (p := asked specStookSet p) (s := r) ⟨hbase, hslot, hsize, hleast, hmost, hflags, hres, hper, hmeters, hpad⟩
    refine ⟨fun hwriting hother => ?_, fun hfree => ?_⟩
    · exact serveCmd_refuse (body := bodyStookSet) hacc (hbody.trans (if_pos ⟨hwriting, hother⟩))
    · have hnot : ¬ (r.stook.writing.isSome = true ∧ other) := by
        rintro ⟨hwriting, hother⟩
        rcases hfree with h | h
        · simp [k, h] at hwriting
        · exact h hother
      replace hbody := hbody.trans (if_neg hnot)
      refine ⟨fun hon => ?_, fun hoff => ?_⟩
      · have hyes : bit (byteAt (asked specStookSet p).params 13) 0 = true := hon
        rw [if_pos hyes, if_pos hyes] at hbody
        exact serveCmd_ok (body := bodyStookSet) hacc hbody (by decide) (by simp)
      · have hno : ¬ bit (byteAt (asked specStookSet p).params 13) 0 = true := fun h => absurd (hoff.symm.trans h) (by decide)
        rw [if_neg hno, if_neg hno] at hbody
        exact serveCmd_ok (body := bodyStookSet) hacc hbody (by decide) (by simp)
  case counter =>
    intro p s r b blk first n at_ v hacc hblk hfirst hin hres
    refine ⟨fun hop hevents hpad => ?_, fun hop => ?_⟩
    · exact serveCmd_ok (body := bodyCounterSelect) hacc
        (bodyCounterSelect_of_select (p := asked specCounterSelect p) (s := r) hblk hfirst hin hres hop hevents hpad) (by decide) (by simp)
    · have hsize : n ≤ 64 := (Nat.le_add_left n first).trans (hin.trans (perfBlock_size_le blk))
      exact serveCmd_ok (body := bodyCounterSelect) hacc (bodyCounterSelect_of_read (p := asked specCounterSelect p) (s := r) hblk hfirst hin hres hop)
        (by decide) ((length_perfBytes (at_ + first) n v).trans_le (by omega))
  case now =>
    intro p s r hacc
    have hbody := bodyStookNow_eq (asked specStookNow p) r
    refine ⟨fun hnone => ?_, fun hring hbusy => ?_, fun hring hfree hidle => ?_⟩
    · exact serveCmd_conflict (body := bodyStookNow) hacc (hbody.trans (if_pos hnone))
    · exact serveCmd_refuse (body := bodyStookNow) hacc (hbody.trans ((if_neg hring).trans (if_pos hbusy)))
    · exact serveCmd_accepted (body := bodyStookNow) hacc (hbody.trans ((if_neg hring).trans (if_neg (by simp [hfree, hidle]))))

end Sys2Proof.Machine
end

section
/-! PROOF. The journal ring, its signals and its command (spec/12 R424-R429, R435). -/

namespace Sys2Proof.Machine

/-! ## The clocks (R21) -/

theorem advance_edges (n : Nat) (s : State) : (advance n s).clk.edges = s.clk.edges + n := by
  unfold advance
  split <;> rfl

theorem le_edges_reachEdge (e : Nat) (s : State) : e ≤ (reachEdge e s).clk.edges := by
  rw [reachEdge, advance_edges]
  omega

/-! ## JOURNAL_RECORD_WRITE (R424, R426, R427) -/

/-- A record stands at its ring place, and the next one goes behind it. -/
def recordPut (x : JRecord) (rest : List JRecord) (s : State) : State :=
  emitOut (.hostWrite (s.jr.base + 32 * s.jr.producer) (jBytes x)) { s with jr := { s.jr with
    staged := rest, producer := (s.jr.producer + 1) % jSize s, writtenAt := tput s.jr.writtenAt s.jr.producer s.clk.edges } }

/-- A record written to an empty ring is the oldest one from now on. -/
def oldestTimed (was e : Nat) (s : State) : State :=
  if was = 0 then { s with jr := { s.jr with oldestSince := e, signalledOldest := false } } else s

/-- The watermark is reached from below. -/
def wmReached (s : State) : Prop := s.jr.wmArmed = true ∧ s.jr.watermark ≤ jUnread s

/-- The watermark is signalled, and waits to be armed again. -/
def wmSignalled (s : State) : State := signalVec s.jr.vector { s with jr := { s.jr with wmArmed := false, signalledOldest := true } }

/-- The holdoff of a vector is over, and its pending signal is taken. -/
def holdoffOver (v : Nat) (s : State) : State :=
  let t := reachEdge (vecFreeAt s v) s
  { t with ev := { t.ev with vecPend := setBit t.ev.vecPend v false } }

/-- What a signal at the end of its holdoff comes to. -/
theorem signalVec_holdoffOver (v : Nat) (s : State) : signalVec v (holdoffOver v s) =
    if 64 ≤ v then holdoffOver v s
    else if vecMasked s v = true then { holdoffOver v s with win := { s.win with pba := setBit s.win.pba v true } }
    else if s.pcie.msixEnable = false ∨ s.pcie.up = false then holdoffOver v s
    else sendVec v (holdoffOver v s) := by
  have hwin : (holdoffOver v s).win = s.win := reachEdge_win s _
  have hpcie : (holdoffOver v s).pcie = s.pcie := reachEdge_pcie s _
  have hmasked : vecMasked (holdoffOver v s) v = vecMasked s v := by simp only [vecMasked, hwin, hpcie]
  have hfree : ¬ (holdoffOver v s).clk.edges < vecFreeAt (holdoffOver v s) v := by
    have hev : vecFreeAt (holdoffOver v s) v = vecFreeAt s v := by simp [vecFreeAt, holdoffOver]
    exact hev ▸ Nat.not_lt.mpr (le_edges_reachEdge _ s)
  simp only [signalVec, hmasked, hwin, hpcie, hfree, if_false, Bool.or_eq_true, Bool.not_eq_true']

section write
variable {s : State} (hclk : s.clk.coreStopped = false)
include hclk

theorem exec_journalRecordWrite_of_room {x : JRecord} {rest : List JRecord} (henable : s.jr.enable = true) (hup : s.pcie.up = true)
    (hstaged : s.jr.staged = x :: rest) (hroom : jFull s = false) {v : State} (hv : oldestTimed (jUnread s) s.clk.edges (recordPut x rest s) = v)
    [Decidable (wmReached v)] : exec .journalRecordWrite s = .next (settleLoss (if wmReached v then wmSignalled v else v)) := by
  have hopen : ¬ (!s.jr.enable || !s.pcie.up) = true := by simp [henable, hup]
  subst hv
  change execJournalRecordWrite s = _
  simp only [execJournalRecordWrite, journalWrite, hclk, if_neg hopen, hstaged, hroom, Bool.false_eq_true, if_false]
  refine congrArg (fun t => Host.Outcome.next (settleLoss t)) (if_congr ?_ rfl rfl)
  simp only [wmReached, Bool.and_eq_true, decide_eq_true_eq]
  rfl

theorem exec_journalRecordWrite_of_idle (hidle : s.jr.enable = false ∨ s.pcie.up = false ∨ s.jr.staged = [] ∨ jFull s = true) :
    exec .journalRecordWrite s = .next s := by
  change execJournalRecordWrite s = _
  simp only [execJournalRecordWrite, hclk, Bool.false_eq_true, if_false]
  refine congrArg Host.Outcome.next ?_
  unfold journalWrite
  rcases hidle with h | h | h | h
  · simp [h]
  · simp [h]
  · simp [h]
  · cases hstaged : s.jr.staged <;> simp [h]

/-! ## The holdoffs (R427, R429) -/

theorem exec_journalHoldoffExpiry_of_unread (henable : s.jr.enable = true) (hunread : jUnread s ≠ 0) (hfresh : s.jr.signalledOldest = false) {v : State}
    (hv : reachEdge (s.jr.oldestSince + s.jr.holdoff * usE) s = v) :
    exec .journalHoldoffExpiry s = .next (signalVec s.jr.vector { v with jr := { s.jr with signalledOldest := true } }) := by
  have hjr : v.jr = s.jr := hv ▸ reachEdge_jr s _
  have hsame : jUnread v = jUnread s := by simp only [jUnread, jSize, hjr]
  have hdue : s.jr.oldestSince + s.jr.holdoff * usE ≤ v.clk.edges := hv ▸ le_edges_reachEdge _ s
  have hopen : (s.jr.enable && jUnread s != 0 && !s.jr.signalledOldest) = true := by simp [henable, hunread, hfresh]
  change execJournalHoldoffExpiry s = _
  simp only [execJournalHoldoffExpiry, hclk, hopen, hv, Bool.false_eq_true, if_false, if_true]
  refine congrArg Host.Outcome.next ((if_pos ?_).trans ?_)
  · simp [hjr, hsame, henable, hunread, hfresh, hdue]
  · rw [hjr]

theorem exec_journalHoldoffExpiry_of_idle (hidle : s.jr.enable = false ∨ jUnread s = 0 ∨ s.jr.signalledOldest = true) :
    exec .journalHoldoffExpiry s = .next s := by
  have hshut : (s.jr.enable && jUnread s != 0 && !s.jr.signalledOldest) = false := by
    rcases hidle with h | h | h <;> simp [h]
  change execJournalHoldoffExpiry s = _
  simp only [execJournalHoldoffExpiry, hclk, hshut, Bool.false_eq_true, if_false]

theorem exec_vectorHoldoffExpiry_of_pending {v : Nat} (hpend : bit s.ev.vecPend v = true) :
    exec (.vectorHoldoffExpiry v) s = .next (signalVec v (holdoffOver v s)) := by
  change execVectorHoldoffExpiry v s = _
  simp only [execVectorHoldoffExpiry, hclk, hpend, Bool.false_eq_true, if_false, if_true]
  rfl

theorem exec_vectorHoldoffExpiry_of_quiet {v : Nat} (hquiet : bit s.ev.vecPend v = false) : exec (.vectorHoldoffExpiry v) s = .next s := by
  change execVectorHoldoffExpiry v s = _
  simp only [execVectorHoldoffExpiry, hclk, hquiet, Bool.false_eq_true, if_false]

end write

/-! ## JOURNAL_SET (R435) -/

/-- The fields of JOURNAL_SET are legal. -/
structure JournalFits (b : List Byte) : Prop where
  base : le b 0 8 % 64 = 0
  sizeLeast : 10 ≤ byteAt b 8
  sizeMost : byteAt b 8 ≤ 20
  switch : byteAt b 9 < 2
  vector : byteAt b 10 < 64 ∨ byteAt b 10 = 0xFF
  reserved : reservedAt b 11 1 = true
  wmLeast : 1 ≤ le b 12 4
  wmMost : le b 12 4 ≤ 2 ^ byteAt b 8 - 1
  holdoff : le b 16 4 ≤ 100000
  pad : reservedAt b 20 4 = true

/-- The settings that JOURNAL_SET carries. -/
def journalPut (b : List Byte) (j : Journal) : Journal :=
  { j with base := le b 0 8, sizeLog2 := byteAt b 8, vector := byteAt b 10, watermark := le b 12 4, holdoff := le b 16 4 }

/-- The ring starts empty, SEQUENCE from 0. -/
def journalStarted (e : Nat) (j : Journal) : Journal :=
  { j with
    enable := true, producer := 0, consumer := 0, sequence := 0, staged := [], loss := none, writtenAt := [], wmArmed := true, signalledOldest := false
    oldestSince := e }

/-- The ring is off, and the staged records are discarded. -/
def journalStopped (j : Journal) : Journal := { j with enable := false, producer := 0, consumer := 0, staged := [], loss := none }

/-- A change of an enabled ring's place or size. -/
def ringMoves (b : List Byte) (j : Journal) : Prop := j.enable = true ∧ (le b 0 8 ≠ j.base ∨ byteAt b 8 ≠ j.sizeLog2)

theorem bodyJournalSet_of_fits {p : Packet} {s : State} (hfits : JournalFits p.params) [Decidable (ringMoves p.params s.jr)] : bodyJournalSet p s =
    if ringMoves p.params s.jr then .conflict
    else if byteAt p.params 9 = 1 ∧ s.jr.enable = false then .ok [] { s with jr := journalStarted s.clk.edges (journalPut p.params s.jr) }
    else if byteAt p.params 9 = 0 then .ok [] { s with jr := journalStopped (journalPut p.params s.jr) }
    else .ok [] { s with jr := { journalPut p.params s.jr with wmArmed := s.jr.wmArmed || decide (jUnread s < le p.params 12 4) } } := by
  obtain ⟨hbase, hleast, hmost, hswitch, hvec, hres, hwmLeast, hwmMost, hhold, hpad⟩ := hfits
  refine (checked_of_none _ (firstBad_of_all fun e he => ?_)).trans ?_
  · simp only [List.mem_cons, List.not_mem_nil, or_false] at he
    rcases he with rfl | rfl | rfl | rfl | rfl | rfl | rfl | rfl
    · exact beq_iff_eq.mpr hbase
    · exact Bool.and_eq_true_iff.mpr ⟨decide_eq_true hleast, decide_eq_true hmost⟩
    · exact decide_eq_true hswitch
    · simpa using hvec
    · exact hres
    · exact Bool.and_eq_true_iff.mpr ⟨decide_eq_true hwmLeast, decide_eq_true hwmMost⟩
    · exact decide_eq_true hhold
    · exact hpad
  · have hmoves : (s.jr.enable && (le p.params 0 8 != s.jr.base || byteAt p.params 8 != s.jr.sizeLog2)) = true ↔ ringMoves p.params s.jr := by
      simp [ringMoves]
    refine if_congr hmoves rfl ?_
    have hcases : byteAt p.params 9 = 0 ∨ byteAt p.params 9 = 1 := by omega
    rcases hcases with h | h
    · have hbit : bit 0 0 = false := rfl
      simp only [h, hbit, Bool.false_and, Bool.false_eq_true, if_false, Bool.not_false, if_true, zero_ne_one, false_and]
      rfl
    · have hbit : bit 1 0 = true := rfl
      simp only [h, hbit, Bool.true_and, Bool.not_true, Bool.not_eq_true', Bool.false_eq_true, one_ne_zero, if_false, true_and]
      rfl

/-- Settles O53: the record, the signal or the settings that each clause names. -/
theorem theJournalRingIsWrittenAndSignalled : Obligations.TheJournalRingIsWrittenAndSignalled := by
  unfold Obligations.TheJournalRingIsWrittenAndSignalled
  classical
  refine ⟨?room, fun s hclk hidle => exec_journalRecordWrite_of_idle hclk hidle, ?oldest, ?vector, ?set⟩
  case room =>
    intro x rest s hclk i was s1 s2 henable hup hstaged hroom
    have hexec := exec_journalRecordWrite_of_room hclk henable hup hstaged hroom (v := s2) rfl
    exact ⟨fun hwm => hexec.trans (congrArg (fun t => Host.Outcome.next (settleLoss t)) (if_pos hwm)),
      fun hlow => hexec.trans (congrArg (fun t => Host.Outcome.next (settleLoss t)) (if_neg hlow))⟩
  case oldest =>
    intro s hclk s1
    exact ⟨fun henable hunread hfresh => exec_journalHoldoffExpiry_of_unread hclk henable hunread hfresh rfl,
      fun hidle => exec_journalHoldoffExpiry_of_idle hclk hidle⟩
  case vector =>
    intro v s hclk s1 s2
    have hsignal := fun hpend => (exec_vectorHoldoffExpiry_of_pending (v := v) hclk hpend).trans (congrArg Host.Outcome.next (signalVec_holdoffOver v s))
    refine ⟨fun hpend hv hopen henable hup => ?_, fun hpend hv hmasked => ?_, fun hpend hnone => ?_,
      fun hquiet => exec_vectorHoldoffExpiry_of_quiet hclk hquiet⟩
    · refine (hsignal hpend).trans (congrArg Host.Outcome.next ?_)
      rw [if_neg (Nat.not_le.mpr hv), if_neg (by simp [hopen]), if_neg (by simp [henable, hup])]
      rfl
    · refine (hsignal hpend).trans (congrArg Host.Outcome.next ?_)
      rw [if_neg (Nat.not_le.mpr hv), if_pos hmasked]
      rfl
    · refine (hsignal hpend).trans (congrArg Host.Outcome.next ?_)
      rcases hnone with hbeyond | ⟨hopen, hdown⟩
      · exact if_pos hbeyond
      · by_cases hv : 64 ≤ v
        · exact if_pos hv
        · rw [if_neg hv, if_neg (by simp [hopen]), if_pos hdown]
          rfl
  case set =>
    intro p s r b base sz wm j hacc hbase hleast hmost hvec hres hwmLeast hwmMost hhold hpad
    have hbody := fun hswitch => bodyJournalSet_of_fits (p := asked specJournalSet p) (s := r)
      ⟨hbase, hleast, hmost, hswitch, hvec, hres, hwmLeast, hwmMost, hhold, hpad⟩
    refine ⟨fun hon hwas => ?_, fun hswitch hmoves => ?_, fun hoff hstays => ?_, fun hon hwas hstays => ?_⟩
    · have hstays : ¬ ringMoves (asked specJournalSet p).params r.jr := fun h => absurd (hwas.symm.trans h.1) (by decide)
      exact serveCmd_ok (body := bodyJournalSet) hacc ((hbody (hon.trans_lt (by decide))).trans ((if_neg hstays).trans (if_pos ⟨hon, hwas⟩))) (by decide)
        (by simp)
    · exact serveCmd_conflict (body := bodyJournalSet) hacc ((hbody hswitch).trans (if_pos hmoves))
    · have hno : ¬ (byteAt (asked specJournalSet p).params 9 = 1 ∧ r.jr.enable = false) := fun h => absurd (hoff.symm.trans h.1) (by decide)
      exact serveCmd_ok (body := bodyJournalSet) hacc
        ((hbody (hoff.trans_lt (by decide))).trans ((if_neg hstays).trans ((if_neg hno).trans (if_pos hoff)))) (by decide) (by simp)
    · have hno : ¬ (byteAt (asked specJournalSet p).params 9 = 1 ∧ r.jr.enable = false) := fun h => absurd (hwas.symm.trans h.2) (by decide)
      have hone : ¬ byteAt (asked specJournalSet p).params 9 = 0 := fun h => absurd (hon.symm.trans h) (by decide)
      exact serveCmd_ok (body := bodyJournalSet) hacc
        ((hbody (hon.trans_lt (by decide))).trans ((if_neg hstays).trans ((if_neg hno).trans (if_neg hone)))) (by decide) (by simp)

end Sys2Proof.Machine
end

section
/-! PROOF. EVENT_ROUTE_SET (spec/12 R429, R436). -/

namespace Sys2Proof.Machine

/-- The checks of EVENT_ROUTE_SET. -/
def routeChecks (b : List Byte) : List (Bool × Nat) :=
  [(byteAt b 0 ≤ 2, 0), (reservedAt b 1 1, 1), (if byteAt b 0 = 1 then le b 2 2 < 64 else le b 2 2 < 1024, 2),
    (byteAt b 0 == 1 || (1 ≤ le b 4 2 && le b 4 2 ≤ 1024 && le b 2 2 + le b 4 2 ≤ 1024), 4),
    (byteAt b 0 != 0 || (bits (le b 6 2) 13 8 == 0 && (le b 6 2 % 256 < 64 || le b 6 2 % 256 == 0xFF)), 6),
    (byteAt b 0 != 1 || le b 8 4 ≤ 1000, 8)]

/-- The sources that the block names exist. -/
def sourcesIn (b : List Byte) : Prop := 1 ≤ le b 4 2 ∧ le b 4 2 ≤ 1024 ∧ le b 2 2 + le b 4 2 ≤ 1024

section body
variable {p : Packet} {s : State}

/-- The first check that fails is answered. -/
theorem bodyEventRouteSet_of_bad {off : Nat} (hbad : firstBad (routeChecks p.params) = some off) : bodyEventRouteSet p s = .badParam off := by
  change checked (routeChecks p.params) _ = _
  simp only [checked, hbad]

theorem bodyEventRouteSet_of_good (hgood : firstBad (routeChecks p.params) = none) : bodyEventRouteSet p s =
    match byteAt p.params 0 with
    | 0 => .ok [] { s with ev := { s.ev with
        route := (List.range (le p.params 4 2)).foldl (fun t i => tset 0x80FF t (le p.params 2 2 + i) (le p.params 6 2)) s.ev.route } }
    | 1 => .ok [] { s with ev := { s.ev with holdoff := tset 0 s.ev.holdoff (le p.params 2 2) (le p.params 8 4) } }
    | _ => .ok ((List.range (le p.params 4 2)).flatMap (fun i => toLE 2 (route s (le p.params 2 2 + i))) ++ (if le p.params 4 2 % 2 = 1 then zeros 2 else [])) s :=
  checked_of_none _ hgood

end body

section checks
variable {b : List Byte}

theorem routeChecks_op (hop : 2 < byteAt b 0) : firstBad (routeChecks b) = some 0 := by
  simp [routeChecks, firstBad, Nat.not_le.mpr hop]

theorem routeChecks_reserved (hop : byteAt b 0 ≤ 2) (hres : reservedAt b 1 1 = false) : firstBad (routeChecks b) = some 1 := by
  simp [routeChecks, firstBad, hop, hres]

variable (hres : reservedAt b 1 1 = true)
include hres

theorem routeChecks_route (hop : byteAt b 0 = 0) (hin : sourcesIn b) : firstBad (routeChecks b) =
    if bits (le b 6 2) 13 8 = 0 ∧ (le b 6 2 % 256 < 64 ∨ le b 6 2 % 256 = 0xFF) then none else some 6 := by
  obtain ⟨hleast, hmost, hend⟩ := hin
  have hfirst : le b 2 2 < 1024 := by omega
  simp [routeChecks, firstBad, hop, hres, hleast, hmost, hend, hfirst]

theorem routeChecks_holdoff (hop : byteAt b 0 = 1) :
    firstBad (routeChecks b) = if le b 2 2 < 64 then if le b 8 4 ≤ 1000 then none else some 8 else some 2 := by
  simp [routeChecks, firstBad, hop, hres]

theorem routeChecks_read (hop : byteAt b 0 = 2) (hin : sourcesIn b) : firstBad (routeChecks b) = none := by
  obtain ⟨hleast, hmost, hend⟩ := hin
  have hfirst : le b 2 2 < 1024 := by omega
  simp [routeChecks, firstBad, hop, hres, hleast, hmost, hend, hfirst]

theorem routeChecks_first (hone : byteAt b 0 ≠ 1) (hop : byteAt b 0 ≤ 2) (hfirst : 1024 ≤ le b 2 2) : firstBad (routeChecks b) = some 2 := by
  simp [routeChecks, firstBad, hop, hres, hone, Nat.not_lt.mpr hfirst]

theorem routeChecks_count (hone : byteAt b 0 ≠ 1) (hop : byteAt b 0 ≤ 2) (hfirst : le b 2 2 < 1024) (hout : ¬ sourcesIn b) :
    firstBad (routeChecks b) = some 4 := by
  have hbad : (decide (1 ≤ le b 4 2) && decide (le b 4 2 ≤ 1024) && decide (le b 2 2 + le b 4 2 ≤ 1024)) = false := by
    rw [← Bool.not_eq_true]
    simpa [sourcesIn, and_assoc] using hout
  simp only [routeChecks, firstBad, hop, hres, hone, hfirst, hbad, decide_true, if_true, if_false, beq_eq_false_iff_ne.mpr hone, Bool.or_self,
    Bool.false_eq_true]

end checks

/-- The three forms of EVENT_ROUTE_SET have 12 bytes. -/
theorem length_of_routeForm {b : List Byte} (hlen : lenForms 0 [(0, len 12), (1, len 12), (2, len 12)] b = true) (hop : byteAt b 0 ≤ 2) : b.length = 12 := by
  unfold lenForms at hlen
  split at hlen
  · exact absurd hlen (by decide)
  · have hcases : byteAt b 0 = 0 ∨ byteAt b 0 = 1 ∨ byteAt b 0 = 2 := by omega
    rcases hcases with h | h | h
    all_goals
      rw [h] at hlen
      exact eq_of_beq hlen

/-- The routes of COUNT sources fit an answer. -/
theorem length_routes_le (g : Nat → Nat) {n : Nat} (hn : n ≤ 1024) :
    ((List.range n).flatMap (fun i => toLE 2 (g i)) ++ (if n % 2 = 1 then zeros 2 else [])).length ≤ 4080 := by
  have hpad : (if n % 2 = 1 then zeros 2 else []).length ≤ 2 := by split <;> simp
  simp only [List.length_append, List.length_flatMap, length_toLE, List.map_const', List.length_range, List.sum_replicate, smul_eq_mul]
  omega

/-- Settles O54: the first check that fails is named, and with none the form does what its number says. -/
theorem eventRoutesAndHoldoffsAreSet : Obligations.EventRoutesAndHoldoffsAreSet := by
  unfold Obligations.EventRoutesAndHoldoffsAreSet
  intro p s r b first count rt inRange bad hacc
  have hbad : ∀ {off}, firstBad (routeChecks b) = some off → bad off := fun h =>
    serveCmd_badParam (body := bodyEventRouteSet) hacc (bodyEventRouteSet_of_bad (p := asked specEventRouteSet p) h)
  have hgood := fun h => bodyEventRouteSet_of_good (p := asked specEventRouteSet p) (s := r) h
  refine ⟨fun hop => length_of_routeForm (lenOk_of_accepts hacc) hop, fun hop => hbad (routeChecks_op hop),
    fun hop hres => hbad (routeChecks_reserved hop hres), fun hres => ⟨fun hop hin hzero hvec => ?_, fun hop hin hbeyond hnone => ?_,
      fun hop hfirst hhold => ?_, fun hop hfirst => ?_, fun hop hin => ?_, fun hone hop hfirst => hbad (routeChecks_first hres hone hop hfirst),
      fun hone hop hfirst hout => hbad (routeChecks_count hres hone hop hfirst hout)⟩⟩
  · have hbody := hgood ((routeChecks_route hres hop hin).trans (if_pos ⟨hzero, hvec⟩))
    rw [show byteAt (asked specEventRouteSet p).params 0 = 0 from hop] at hbody
    exact serveCmd_ok (body := bodyEventRouteSet) hacc hbody (by decide) (by simp)
  · exact hbad ((routeChecks_route hres hop hin).trans (if_neg fun h => h.2.elim (Nat.not_lt.mpr hbeyond) hnone))
  · have hbody := hgood ((routeChecks_holdoff hres hop).trans ((if_pos hfirst).trans (if_pos hhold)))
    rw [show byteAt (asked specEventRouteSet p).params 0 = 1 from hop] at hbody
    exact serveCmd_ok (body := bodyEventRouteSet) hacc hbody (by decide) (by simp)
  · exact hbad ((routeChecks_holdoff hres hop).trans (if_neg (Nat.not_lt.mpr hfirst)))
  · have hbody := hgood (routeChecks_read hres hop hin)
    rw [show byteAt (asked specEventRouteSet p).params 0 = 2 from hop] at hbody
    exact serveCmd_ok (body := bodyEventRouteSet) hacc hbody (by decide) (length_routes_le _ hin.2.1)

end Sys2Proof.Machine
end

section
/-! PROOF. The release of the domains, step by step (spec/16 R505, R506, R514, R516). -/

namespace Sys2Proof.Machine

section steps
variable {s : State}

theorem relStep_of_relReady {n : Nat} (h : relReady s n = true) : s.dev.relStep = n := by
  simp only [relReady, Bool.and_eq_true, beq_iff_eq] at h
  exact h.1

theorem relStopped_of_relReady {n : Nat} (h : relReady s n = true) : s.dev.relStopped = false := by
  simp only [relReady, Bool.and_eq_true, Bool.not_eq_true'] at h
  exact h.2

theorem not_not_of_relReady {n : Nat} (h : relReady s n = true) : ¬ (!relReady s n) = true := by
  simp [h]

/-! ## FALLOW_RELEASE, step 1 (R505, R524) -/

/-- What the check of the retained memory leaves of the device: its state, its clocks, its ports, and what is not volatile. -/
def fallowView (s : State) : Device × Clocks × Table Port × NonVolatile := (s.dev, s.clk, s.ports, s.nv)

theorem fallowView_ret (r : Retained) (s : State) : fallowView { s with ret := r } = fallowView s := rfl
theorem fallowView_retWrite (off : Nat) (b : List Byte) (s : State) : fallowView (retWrite off b s) = fallowView s := rfl

theorem fallowView_ite {P : Prop} [Decidable P] {x y : State} {v : Device × Clocks × Table Port × NonVolatile} (hx : fallowView x = v)
    (hy : fallowView y = v) : fallowView (if P then x else y) = v := by
  split <;> assumption

theorem fallowView_fire (src cause : Nat) (b : List Byte) (s : State) : fallowView (fire src cause b s) = fallowView s := by
  simp [fallowView]

theorem fallowView_replaceSheaf (k : Nat) (s : State) : fallowView (replaceSheaf k s) = fallowView s := by
  unfold replaceSheaf
  dsimp only
  by_cases hheader : k < 2
  · rw [if_pos hheader]; rfl
  · rw [if_neg hheader]
    by_cases hlow : k < 128
    · rw [if_pos hlow]; rfl
    · rw [if_neg hlow]; rfl

theorem fallowView_replaceSheaves (l : List Nat) (s : State) : fallowView (replaceSheaves l s) = fallowView s := by
  induction l generalizing s with
  | nil => rfl
  | cons k l ih => exact (ih _).trans (fallowView_replaceSheaf k s)

theorem fallowView_retainedCheck (bad : List Nat) (s : State) : fallowView (retainedCheck bad s) = fallowView s := by
  unfold retainedCheck
  dsimp only
  refine fallowView_ite ?_ (fallowView_ite ?_ ?_)
  · rw [fallowView_fire, fallowView_retWrite, fallowView_ret]
  · rw [fallowView_replaceSheaves, fallowView_ret]
  · rw [fallowView_fire, fallowView_replaceSheaves, fallowView_ret]

theorem fallowView_hdrCount (off : Nat) (s : State) : fallowView (hdrCount off s) = fallowView s := rfl

/-- The device as step 1 leaves it: the straps are sampled, and which reset it was is recorded. -/
def fallowReleased (bypass test : Bool) (d : Device) : Device :=
  { d with
    relStep := 1, lastReset := if d.resetPor then 1 else 2, resetPin := false, resetPor := false, strapBypass := bypass, strapTest := test
    jtagLimited := true, pins := none }

theorem exec_fallowRelease (bypass test : Bool) (bad : List Nat) (h : relReady s 0 = true) : ∃ t, exec (.fallowRelease true bypass test bad) s = .next t ∧
    fallowView t = (fallowReleased bypass test s.dev, { s.clk with xtalOk := true }, s.ports, s.nv) := by
  have hopen : ¬ (!relReady s 0 || !true) = true := by simp [h]
  refine ⟨_, if_neg hopen, fallowView_ite (fallowView_ite ?_ ?_) ?_⟩
  · rw [fallowView_hdrCount, fallowView_retainedCheck]
    rfl
  · rw [fallowView_retainedCheck]
    rfl
  · rw [fallowView_hdrCount, fallowView_retainedCheck]
    rfl

/-! ## Steps 2 to 4 (R505, R514) -/

theorem exec_headlandRelease (h : relReady s 1 = true) : exec .headlandRelease s = .next { s with
    clk := { s.clk with lockHl := true }, hl := { s.hl with running := true, trailSeq := trailNext s }
    dev := { s.dev with relStep := 2, state := 1, lastChange := nowT64 s } } :=
  if_neg (not_not_of_relReady h)

theorem optionLoad_dev (s : State) : (optionLoad s).dev = s.dev := by
  unfold optionLoad
  dsimp only
  split <;> rfl

theorem exec_optionLoad (h : relReady s 2 = true) : exec .optionLoad s =
    .next { optionLoad s with dev := { s.dev with relStep := 3, jtagLimited := (optionLoad s).opt.debugLock } } := by
  refine (if_neg (not_not_of_relReady h)).trans ?_
  rw [modDev, optionLoad_dev]

theorem exec_cpBootStart (h : relReady s 3 = true) : exec .cpBootStart s = .next { s with
    clk := { s.clk with lockSh := true, coreRunning := true }, cp := { s.cp with released := true }, pcie := { s.pcie with released := true }
    dev := { s.dev with relStep := 4, state := 2, lastChange := nowT64 s } } :=
  if_neg (not_not_of_relReady h)

/-! ## FIRMWARE_AUTHENTICATED, step 5 (R516) -/

theorem readImages_opt (a : Option (List Byte)) (s : State) : (readImages a s).opt = s.opt := by
  unfold readImages
  dsimp only
  split
  · exact emitOut_opt _ _
  · exact (emitOut_opt _ _).trans (emitOut_opt _ _)

theorem readImages_cp (a : Option (List Byte)) (s : State) : (readImages a s).cp = s.cp := by
  unfold readImages
  dsimp only
  split
  · exact emitOut_cp _ _
  · exact (emitOut_cp _ _).trans (emitOut_cp _ _)

theorem imageCause_congr {t : State} (h : t.opt = s.opt) (i : Option (List Byte)) : imageCause t i = imageCause s i := by
  unfold imageCause optFwKey
  rw [h]

/-- The boot ROM's choice rests on the options and the images. -/
theorem bootChoice_congr {t : State} (h : t.opt = s.opt) (a b : Option (List Byte)) : bootChoice a b t = bootChoice a b s := by
  unfold bootChoice optAltOffset
  rw [imageCause_congr h, imageCause_congr h, h]

/-- The image that the boot ROM starts. -/
def imageTaken (im : Nat) (a b : Option (List Byte)) : List Byte := (if im = 0 then a else b).getD []

theorem startImage_cp (a b : Option (List Byte)) {im cause : Nat} (hchoice : bootChoice a b s = (im, cause)) (him : im ≠ 3) :
    (startImage a b s).cp = { s.cp with
      running := true, halted := false, haltCause := 0, imageStarted := im, fwVersion := le (imageTaken im a b) 4 4
      buildTime := le (imageTaken im a b) 16 8 } := by
  have hread : bootChoice a b (readImages a s) = (im, cause) := (bootChoice_congr (readImages_opt a s) a b).trans hchoice
  unfold startImage
  dsimp only
  rw [hread]
  dsimp only
  rw [if_neg him]
  refine Eq.trans ?_ (congrArg (fun c : CmdProc => { c with
      running := true, halted := false, haltCause := 0, imageStarted := im, fwVersion := le (imageTaken im a b) 4 4
      buildTime := le (imageTaken im a b) 16 8 }) (readImages_cp a s))
  rfl

theorem bootEvent_cp (ok halt : Nat) (s : State) : (bootEvent ok halt s).cp = s.cp := by
  unfold bootEvent
  dsimp only
  split <;> exact fire_cp _ _ _ _

theorem bootEvent_dev (ok halt : Nat) (s : State) : (bootEvent ok halt s).dev = s.dev := by
  unfold bootEvent
  dsimp only
  split <;> exact fire_dev _ _ _ _

theorem exec_firmwareAuthenticated (a b : Option (List Byte)) (h : relReady s 4 = true) (hhalt : s.cp.halted = false)
    (hrun : (startImage a b s).cp.running = true) : exec (.firmwareAuthenticated a b) s =
      .next (bootEvent 1 2 (modDev (fun d => { d with relStep := 5 }) (startImage a b s))) := by
  have hopen : ¬ (!relReady s 4 || s.cp.halted) = true := by simp [h, hhalt]
  refine (if_neg hopen).trans ?_
  rw [if_pos hrun]

/-! ## FURROW_DOMAIN_RELEASE, step 6 (R505, R506) -/

theorem exec_furrowDomainRelease (h : relReady s 5 = true) : exec (.furrowDomainRelease true true true true) s =
    .next (releaseFurrows true true true true s) :=
  congrArg Host.Outcome.next (if_pos h)

/-! ## PORT_DOMAIN_RELEASE, steps 7 to 9 (R505, R514) -/

/-- The slices of the ports run, and the port options apply. -/
def portsReleased (s : State) : State :=
  modDev (fun d => { d with relStep := 7 }) (modSlices (fun l => { l with
    running := (List.range 4).foldl (fun m i => setBit m i true) l.running
    last := (List.range 4).foldl (fun t i => tput t i s.clk.edges) l.last }) (applyPortOptions s))

theorem exec_portDomainRelease (h : relReady s 6 = true) (hdescs : s.ret.descs = []) (hch0 : s.deep.ch0.state ≠ 1) (hch1 : s.deep.ch1.state ≠ 1) :
    exec .portDomainRelease s = .next (finishRelease (portsReleased s)) := by
  have hrestored : restoreDescs (portsReleased s) = portsReleased s := by
    have hnone : (portsReleased s).ret.descs = [] := hdescs
    rw [restoreDescs, hnone]
    rfl
  have hmask : b2n ((chan (portsReleased s) 0).state == 1) + 2 * b2n ((chan (portsReleased s) 1).state == 1) = 0 := by
    have h0 : (chan (portsReleased s) 0).state ≠ 1 := hch0
    have h1 : (chan (portsReleased s) 1).state ≠ 1 := hch1
    rw [beq_eq_false_iff_ne.mpr h0, beq_eq_false_iff_ne.mpr h1]
    rfl
  have hunfold : execPortDomainRelease s = if (!relReady s 6) = true then .next s else
      .next (if b2n ((chan (restoreDescs (portsReleased s)) 0).state == 1) + 2 * b2n ((chan (restoreDescs (portsReleased s)) 1).state == 1) = 0 then
        finishRelease (restoreDescs (portsReleased s))
      else startTraining (b2n ((chan (restoreDescs (portsReleased s)) 0).state == 1) + 2 * b2n ((chan (restoreDescs (portsReleased s)) 1).state == 1)) none
        (restoreDescs (portsReleased s))) := rfl
  change execPortDomainRelease s = _
  rw [hunfold, if_neg (not_not_of_relReady h), hrestored, if_pos hmask]

theorem resetEvent_dev (s : State) : (resetEvent s).dev = s.dev := fire_dev _ _ _ _
theorem resetEvent_cp (s : State) : (resetEvent s).cp = s.cp := fire_cp _ _ _ _
theorem loadEvent_dev (s : State) : (loadEvent s).dev = s.dev := fire_dev _ _ _ _
theorem loadEvent_cp (s : State) : (loadEvent s).cp = s.cp := fire_cp _ _ _ _

/-- The device as step 9 leaves it: CONFIG, or SAFE with cause 2. -/
def releasedDev (s : State) : Device :=
  { s.dev with
    relStep := 9, profile := if bits s.opt.row 35 34 = 2 then 2 else 1, lastChange := nowT64 s
    state := if s.opt.safeAfterBoot then 6 else 3, safeCause := if s.opt.safeAfterBoot then 2 else s.dev.safeCause }

theorem finishRelease_dev (s : State) : (finishRelease s).dev = releasedDev s := by
  unfold finishRelease releasedDev
  dsimp only
  rw [resetEvent_dev, loadEvent_dev]
  cases hsafe : s.opt.safeAfterBoot
  · refine congrArg State.dev (congrArg (modCp _) (if_neg ?_))
    simp [modDev, hsafe]
  · refine congrArg State.dev (congrArg (modCp _) (if_pos ?_))
    simp [modDev, hsafe]

theorem finishRelease_serving (s : State) : (finishRelease s).cp.serving = true := by
  unfold finishRelease
  rw [resetEvent_cp, loadEvent_cp]
  rfl

/-! ## RELEASE_PLL_TIMEOUT (R506) -/

theorem exec_releasePllTimeout (hrun : s.dev.relStopped = false) (hstep : s.dev.relStep = 1 ∨ s.dev.relStep = 3) {t : State}
    (ht : advance (10 * msE) s = t) : exec .releasePllTimeout s = .next { t with dev := { s.dev with relStopped := true } } := by
  have hdev : t.dev = s.dev := ht ▸ advance_dev s _
  change execReleasePllTimeout s = _
  simp only [execReleasePllTimeout, hrun, Bool.false_eq_true, if_false, ht]
  rw [if_pos (by simpa using hstep), modDev, hdev]

end steps

/-- Settles O11: each step, with the one before it done. -/
theorem releaseRunsStepByStep : Obligations.ReleaseRunsStepByStep := by
  unfold Obligations.ReleaseRunsStepByStep
  refine ⟨?fallow, fun s h => exec_headlandRelease h, fun s h => exec_optionLoad h, fun s h => exec_cpBootStart h, ?firmware, ?furrows, ?ports,
    fun s hrun hstep => exec_releasePllTimeout hrun hstep rfl⟩
  case fallow =>
    intro bypass test bad s h
    obtain ⟨t, hexec, hview⟩ := exec_fallowRelease bypass test bad h
    simp only [fallowView, Prod.mk.injEq] at hview
    obtain ⟨hdev, hclk, hports, hnv⟩ := hview
    refine ⟨t, hexec, ?_⟩
    rw [hdev, hclk, hports, hnv]
    exact ⟨rfl, rfl, rfl, rfl, rfl, rfl, rfl, rfl, rfl, rfl⟩
  case firmware =>
    intro a b s h hhalt him
    have hcp := startImage_cp (s := s) a b (cause := (bootChoice a b s).2) rfl him
    have hrun : (startImage a b s).cp.running = true := by rw [hcp]
    refine ⟨_, exec_firmwareAuthenticated a b h hhalt hrun, ?_⟩
    rw [bootEvent_cp, bootEvent_dev]
    have hsame : (modDev (fun d => { d with relStep := 5 }) (startImage a b s)).cp = (startImage a b s).cp := rfl
    rw [hsame, hcp]
    exact ⟨rfl, rfl, rfl, rfl, rfl⟩
  case furrows =>
    intro s h
    exact ⟨_, exec_furrowDomainRelease h, rfl, rfl, rfl, rfl, rfl, rfl, rfl, rfl, rfl⟩
  case ports =>
    intro s h hdescs hch0 hch1
    refine ⟨_, exec_portDomainRelease h hdescs hch0 hch1, ?_⟩
    rw [finishRelease_dev, finishRelease_serving]
    exact ⟨rfl, rfl, rfl, rfl, rfl⟩

end Sys2Proof.Machine
end

section
/-! PROOF. The time base's corrections, holdover, the reference inputs and leap seconds (spec/12 R401-R410). -/

namespace Sys2Proof.Machine

/-- Updates of the time state that agree on it give one state. -/
theorem modTim_congr {g h : TimeState → TimeState} {s : State} (heq : g s.tim = h s.tim) : modTim g s = modTim h s := by
  rw [modTim, modTim, heq]

/-! ## TIME_CORRECTION (R403, R405, R406) -/

/-- The small differences in a row, of at most 100 ns each. -/
def goodAfter (d : Int) (t : TimeState) : Nat := if d.natAbs ≤ 400 then t.goodRun + 1 else 0

/-- The clock state after a difference: sixteen small ones lock it. -/
def clockAfter (d : Int) (t : TimeState) : Nat :=
  if d.natAbs ≤ 400 ∧ 16 ≤ goodAfter d t then 2 else if ¬ d.natAbs ≤ 400 ∨ t.state = 0 ∨ 3 ≤ t.state then 1 else t.state

/-- A difference is taken by the servo, which leaves the clock in state n. -/
def deltaTaken (d : Int) (good n : Nat) (s : State) : State :=
  modTim (fun x => { x with
    lastDelta := d, pendDelta := none, goodRun := good, firstLock := false
    fromHoldover := if n = 2 then false else x.fromHoldover || s.tim.state == 3 }) s

/-- The mean of R407 starts afresh as the clock locks. -/
def lockStarted (n old : Nat) (s : State) : State := if n = 2 ∧ old ≠ 2 then modTim (fun t => { t with adjHist := [adjSeg s] }) s else s

/-- The servo's frequency word is the value v, unless CLK10M_IN sets ADJ. -/
theorem timeCorrection_eq {d : Int} {s : State} {n : Nat} {s2 s5 : State} (hn : clockAfter d s.tim = n)
    (hs2 : applyDelta d s.tim.firstLock (deltaTaken d (goodAfter d s.tim) n s) = s2)
    (hs5 : lockStarted n s.tim.state (setClock n { s2 with free := s2.free + 1 }) = s5) : timeCorrection d s =
      if clk10mFreq s5 = true then keepAdj s5 else setAdj (signed 32 (Config.freeValue s2.free % 2 ^ 32)) s5 := by
  subst hn hs2 hs5
  have hlocks : ∀ n old, (decide (n = 2) && old != 2) = true ↔ n = 2 ∧ old ≠ 2 := fun n old => by simp
  have hnext : ∀ good old : Nat, (if (decide (d.natAbs ≤ 400) && decide (16 ≤ good)) = true then 2
      else if (!decide (d.natAbs ≤ 400) || decide (old = 0) || decide (3 ≤ old)) = true then 1 else old) =
      (if d.natAbs ≤ 400 ∧ 16 ≤ good then 2 else if ¬ d.natAbs ≤ 400 ∨ old = 0 ∨ 3 ≤ old then 1 else old) := fun good old => by
    simp [or_assoc]
  unfold timeCorrection
  simp only [hlocks, hnext, takeFree]
  rfl

section corrections
variable {s : State} (hclk : s.clk.coreStopped = false)
include hclk

theorem exec_timeCorrection_of_none (hnone : s.tim.pendDelta = none) : exec .timeCorrection s = .next s := by
  change execTimeCorrection s = _
  simp only [execTimeCorrection, hclk, hnone, Bool.false_eq_true, if_false]

theorem exec_timeCorrection_of_servo {d : Int} (hd : s.tim.pendDelta = some d)
    (hservo : s.tim.cfg.mode = 3 ∨ ((s.tim.cfg.mode = 1 ∨ s.tim.cfg.mode = 2) ∧ s.cp.running = true)) :
    exec .timeCorrection s = .next (timeCorrection d s) := by
  have hruns : (decide (s.tim.cfg.mode = 0) || (s.tim.cfg.mode != 3 && !s.cp.running)) = false := by
    rcases hservo with h | ⟨h | h, hrun⟩
    · simp [h]
    · simp [h, hrun]
    · simp [h, hrun]
  change execTimeCorrection s = _
  simp only [execTimeCorrection, hclk, hd, hruns, Bool.false_eq_true, if_false]

end corrections

theorem applyDelta_of_small {d : Int} {s : State} (first : Bool) (hsmall : d.natAbs ≤ s.tim.cfg.stepThreshold * 4000) :
    applyDelta d first s = { s with clk := { s.clk with slew := d * tbuPerQ } } :=
  if_pos hsmall

theorem applyDelta_of_step {d : Int} {first : Bool} {s : State} (hlarge : s.tim.cfg.stepThreshold * 4000 < d.natAbs)
    (hsteps : first = true ∨ forwarding s = false ∨ s.tim.cfg.stepInRun = true) : applyDelta d first s = stepBy (d * tbuPerQ) s := by
  refine (if_neg (Nat.not_le.mpr hlarge)).trans (if_neg ?_)
  rcases hsteps with h | h | h <;> simp [h]

/-! ## REPLICA_COMPARE (R401) -/

/-- The replica of furrow n is off by an amount, and reloads where that is too far. -/
def replicaCompared (n : Nat) (off : Int) (far : Bool) (s : State) : State :=
  modFur n (fun x => { x with repOff := off, repDiff := Int.tdiv off tbuPerNs, repReload := far }) s

section replica
variable {fu : Furrow} {s0 : State} (hclk : s0.clk.coreStopped = false) (hreleased : (fur s0 (furNo fu)).released = true)
  (hpowered : powered s0 (furNo fu) = true) (hcore : (if furNo fu = 0 then s0.slices.coreA else s0.slices.coreB) = true)
include hclk hreleased hpowered hcore

theorem exec_replicaCompare (drift : Int) {s : State} {off : Int} (hs : reachNs (epochNext (nowNs s0)) s0 = s)
    (hoff : (if (fur s (furNo fu)).repReload = true then 0 else (fur s (furNo fu)).repOff + drift) = off) : exec (.replicaCompare fu drift) s0 =
      .next (if 4 * tbuPerNs < off.natAbs then
        fireFur (furNo fu) 0x186 0 (toLE 1 (furNo fu) ++ toLE 2 (unsigned 16 (Int.tdiv off tbuPerNs)))
          (replicaCompared (furNo fu) off (decide (4 * tbuPerNs < off.natAbs)) s)
        else replicaCompared (furNo fu) off (decide (4 * tbuPerNs < off.natAbs)) s) := by
  have hruns : (!(fur s0 (furNo fu)).released || !powered s0 (furNo fu) || !(if furNo fu = 0 then s0.slices.coreA else s0.slices.coreB)) = false := by
    simp [hreleased, hpowered, hcore]
  subst hs hoff
  change execReplicaCompare fu drift s0 = _
  simp only [execReplicaCompare, hclk, hruns, Bool.false_eq_true, if_false]
  rfl

end replica

/-! ## References and holdover (R405-R407, R422) -/

section references
variable {s : State} (hclk : s.clk.coreStopped = false)
include hclk

theorem exec_referenceLoss_of_inputs (hmode : s.tim.cfg.mode = 2) (hlocked : s.tim.state = 2) {e : Nat}
    (he : min (s.tim.ref.ppsLast + 3 * secE / 2) (s.tim.ref.todLast + 2 * secE) = e) : exec .referenceLoss s = .next (enterHoldover (reachEdge e s)) := by
  change execReferenceLoss s = _
  simp only [execReferenceLoss, hclk, hmode, hlocked, he, Bool.false_eq_true, if_false, if_true]

theorem exec_referenceLoss_of_slave {p : Nat} (hmode : s.tim.cfg.mode = 1) (hport : s.tim.slavePort = some p) (hlocked : s.tim.state = 2) {e : Nat}
    (he : (ptpPort s p).syncAt + 3 * secE = e) : exec .referenceLoss s = .next (enterHoldover (reachEdge e s)) := by
  change execReferenceLoss s = _
  simp only [execReferenceLoss, hclk, hmode, hport, hlocked, he, Option.map_some, Bool.false_eq_true, if_false, if_true]

theorem exec_holdoverExpiry (hholdover : s.tim.state = 3) {e : Nat} (he : s.tim.holdoverAt + s.tim.cfg.holdoverTime * secE = e) :
    exec .holdoverExpiry s = .next (setClock 4 (modTim (fun t => { t with firstLock := true, fromHoldover := false }) (reachEdge e s))) := by
  change execHoldoverExpiry s = _
  simp only [execHoldoverExpiry, hclk, hholdover, he, Bool.false_eq_true, if_false, if_true]

theorem exec_holdoverExtMeasure (dev : Int) (hmeasures : s.tim.state = 3 ∧ s.tim.cfg.holdoverExt = true ∧ s.tim.ref.clk10m = true ∨ clk10mFreq s = true)
    {t : State} (ht : reachEdge (s.tim.adjAt + secE) s = t) :
    exec (.holdoverExtMeasure dev) s = .next (setAdj (t.clk.adj + dev) (modTim (fun x => { x with adjAt := t.clk.edges }) t)) := by
  have hon : (decide (s.tim.state = 3) && s.tim.cfg.holdoverExt && s.tim.ref.clk10m || clk10mFreq s) = true := by
    simpa [and_assoc] using hmeasures
  change execHoldoverExtMeasure dev s = _
  simp only [execHoldoverExtMeasure, hclk, hon, ht, Bool.false_eq_true, if_false, if_true]

/-- An edge of PPS_IN is there, which the event reports where there was none for long. -/
def ppsSeen (s : State) : State :=
  if s.tim.ref.ppsPresent = true then modRef (fun r => { r with ppsPresent := true, ppsLast := s.clk.edges, tod := none }) s
  else fire 0x182 0x02 [] (modRef (fun r => { r with ppsPresent := true, ppsLast := s.clk.edges, tod := none }) s)

theorem exec_ppsInEdge_of_none (hnone : s.tim.ref.tod = none) : exec .ppsInEdge s = .next (ppsSeen s) := by
  change execPpsInEdge s = _
  simp only [execPpsInEdge, hclk, hnone, ite_self, Bool.false_eq_true, if_false]
  rfl

theorem exec_ppsInEdge_of_message {m : TodMsg} (hm : s.tim.ref.tod = some m) (hmode : s.tim.cfg.mode = 2) (hrun : s.cp.running = true) :
    exec .ppsInEdge s = .next (modTim (fun t => { t with pendDelta := some ((m.seconds * 4000000000 : Nat) - (nowQ s : Nat)) }) (ppsSeen s)) := by
  have hon : (decide (s.tim.cfg.mode = 2) && s.cp.running) = true := by simp [hmode, hrun]
  change execPpsInEdge s = _
  simp only [execPpsInEdge, hclk, hon, hm, Bool.false_eq_true, if_false, if_true]
  rfl

theorem exec_todRxMessage_of_bad {m : List Byte} (hbad : todOk m = false) : exec (.todRxMessage m) s = .next s := by
  change execTodRxMessage m s = _
  simp only [execTodRxMessage, hclk, hbad, Bool.not_false, Bool.false_eq_true, if_false, if_true]

/-- What a TOD message says. -/
def todOf (m : List Byte) : TodMsg :=
  { seconds := le m 3 6 % 2 ^ 34, utcOffset := signed 16 (le m 9 2), flags := byteAt m 11, clockClass := byteAt m 12, accuracy := byteAt m 13
    variance := le m 14 2 }

/-- A good TOD message waits for its edge. -/
def todTaken (m : List Byte) (s : State) : State := modRef (fun r => { r with tod := some (todOf m), todValid := true, todLast := s.clk.edges }) s

theorem exec_todRxMessage_of_good {m : List Byte} (hgood : todOk m = true) : exec (.todRxMessage m) s = .next (if s.tim.cfg.mode = 2 then
    setUtc (signed 16 (le m 9 2)) (if bit (byteAt m 11) 0 then 1 else if bit (byteAt m 11) 1 then 2 else 0) (todTaken m s) else todTaken m s) := by
  change execTodRxMessage m s = _
  simp only [execTodRxMessage, hclk, hgood, Bool.not_true, Bool.false_eq_true, if_false]
  rfl

theorem exec_clk10mPresence (present : Bool) : exec (.clk10mPresence present) s = .next (if s.tim.ref.clk10m = present then s
    else fire 0x182 (if present then 4 else 3) [] (modRef (fun r => { r with clk10m := present }) s)) := by
  change execClk10mPresence present s = _
  simp only [execClk10mPresence, hclk, beq_iff_eq, Bool.false_eq_true, if_false]

theorem exec_referenceInputTimeout_of_tod (hvalid : s.tim.ref.todValid = true) {e : Nat} (he : s.tim.ref.todLast + 2 * secE = e) :
    exec (.referenceInputTimeout true) s = .next (fire 0x182 0x05 [] (modRef (fun r => { r with todValid := false, tod := none }) (reachEdge e s))) := by
  change execReferenceInputTimeout true s = _
  simp only [execReferenceInputTimeout, hclk, hvalid, he, Bool.false_eq_true, if_false, if_true]

theorem exec_referenceInputTimeout_of_pps (hpresent : s.tim.ref.ppsPresent = true) {e : Nat} (he : s.tim.ref.ppsLast + 3 * secE / 2 = e) :
    exec (.referenceInputTimeout false) s = .next (fire 0x182 0x01 [] (modRef (fun r => { r with ppsPresent := false }) (reachEdge e s))) := by
  change execReferenceInputTimeout false s = _
  simp only [execReferenceInputTimeout, hclk, hpresent, he, Bool.false_eq_true, if_false, if_true]

/-! ## Leap seconds (R410) -/

/-- The leap second has come: UTC is off by one more or one less. -/
def leapTaken (by_ : Int) (s : State) : State := fire 0x187 0x02 [] (modTim (fun t => { t with utc := t.utc + by_, leap := 0 }) s)

theorem exec_leapApply_of_none (hnone : s.tim.leap = 0) : exec .leapApply s = .next s := by
  change execLeapApply s = _
  simp only [execLeapApply, hclk, hnone, Bool.false_eq_true, if_false, if_true]

/-- The midnight, in UTC seconds, at which a leap second applies. -/
def leapDay (s : State) : Int := ((((nowNs s / 1000000000 : Nat) : Int) - s.tim.utc) / 86400 + 1) * 86400

theorem exec_leapApply_of_61 (hleap : s.tim.leap = 1) {t : State} (ht : reachNs ((leapDay s + s.tim.utc).toNat * 1000000000) s = t) :
    exec .leapApply s = .next (leapTaken 1 t) := by
  have htim : t.tim.leap = 1 := by rw [← ht, reachNs_tim]; exact hleap
  have hsub : leapDay s + s.tim.utc - 0 = leapDay s + s.tim.utc := Int.sub_zero _
  unfold leapDay at ht hsub
  change execLeapApply s = _
  simp only [execLeapApply, hclk, hleap, hsub, ht, OfNat.one_ne_ofNat, one_ne_zero, Bool.false_eq_true, if_false]
  refine congrArg (fun v => Host.Outcome.next (fire 0x187 0x02 [] v)) (modTim_congr ?_)
  simp [htim]

theorem exec_leapApply_of_59 (hleap : s.tim.leap = 2) {t : State} (ht : reachNs ((leapDay s + s.tim.utc - 1).toNat * 1000000000) s = t) :
    exec .leapApply s = .next (leapTaken (-1) t) := by
  have htim : t.tim.leap = 2 := by rw [← ht, reachNs_tim]; exact hleap
  unfold leapDay at ht
  change execLeapApply s = _
  simp only [execLeapApply, hclk, hleap, ht, OfNat.ofNat_ne_zero, Bool.false_eq_true, if_false, if_true]
  refine congrArg (fun v => Host.Outcome.next (fire 0x187 0x02 [] v)) (modTim_congr ?_)
  simp [htim, Int.sub_eq_add_neg]

end references

/-- Settles O49: what each correction, loss and message does in the case that its clause names. -/
theorem correctionsHoldoverAndReferencesAct : Obligations.CorrectionsHoldoverAndReferencesAct := by
  unfold Obligations.CorrectionsHoldoverAndReferencesAct
  refine ⟨?correction, ?applied, fun s hclk hnone => exec_timeCorrection_of_none hclk hnone, ?replica, ?holdover, ?pps, ?tod,
    fun present s hclk => exec_clk10mPresence hclk present, ?timeout, ?leap⟩
  case correction =>
    intro d s hclk t small good next s1 s2 s4 hd hservo s5
    have hexec := (exec_timeCorrection_of_servo hclk hd hservo).trans
      (congrArg Host.Outcome.next (timeCorrection_eq (n := next) (s2 := s2) (s5 := s5) rfl rfl rfl))
    exact ⟨fun hown => hexec.trans (congrArg Host.Outcome.next (if_neg (by simp [hown]))),
      fun hext => hexec.trans (congrArg Host.Outcome.next (if_pos hext))⟩
  case applied =>
    intro d first s limit
    exact ⟨fun hsmall => applyDelta_of_small first hsmall, fun hlarge hsteps => applyDelta_of_step hlarge hsteps⟩
  case replica =>
    intro fu drift s0 hclk n s off dn s1 hreleased hpowered hcore
    have hexec := exec_replicaCompare hclk hreleased hpowered hcore drift (s := s) (off := off) rfl rfl
    refine ⟨fun hnear => ?_, fun hfar => ?_⟩
    · rw [if_neg (Nat.not_lt.mpr hnear), decide_eq_false (Nat.not_lt.mpr hnear)] at hexec
      exact hexec
    · rw [if_pos hfar, decide_eq_true hfar] at hexec
      exact hexec
  case holdover =>
    intro s hclk r
    exact ⟨fun hmode hlocked => exec_referenceLoss_of_inputs hclk hmode hlocked rfl,
      fun p hmode hport hlocked => exec_referenceLoss_of_slave hclk hmode hport hlocked rfl,
      fun hholdover => exec_holdoverExpiry hclk hholdover rfl, fun dev hmeasures => exec_holdoverExtMeasure hclk dev hmeasures rfl⟩
  case pps =>
    intro s hclk r s1 s2
    exact ⟨fun hnone => exec_ppsInEdge_of_none hclk hnone, fun m hm hmode hrun => exec_ppsInEdge_of_message hclk hm hmode hrun⟩
  case tod =>
    intro m s hclk fl tod s1
    exact ⟨fun hgood => exec_todRxMessage_of_good hclk hgood, fun hbad => exec_todRxMessage_of_bad hclk hbad⟩
  case timeout =>
    intro s hclk r
    exact ⟨fun hvalid => exec_referenceInputTimeout_of_tod hclk hvalid rfl, fun hpresent => exec_referenceInputTimeout_of_pps hclk hpresent rfl⟩
  case leap =>
    intro s0 hclk utcS day apply
    exact ⟨fun hleap => exec_leapApply_of_61 hclk hleap rfl, fun hleap => exec_leapApply_of_59 hclk hleap rfl, fun hnone => exec_leapApply_of_none hclk hnone⟩

end Sys2Proof.Machine
end

section
/-! PROOF. The TOD, PPS and IRIG outputs, IRIG input and GPIO capture (spec/12 R409, R416-R420). -/

namespace Sys2Proof.Machine

/-! ## TOD_TX_MESSAGE (R409) -/

/-- The time at which the next TOD message may leave: 100 to 500 ms after a second. -/
def todTxAt (now : Nat) : Nat :=
  if now % 1000000000 < 100000000 then now / 1000000000 * 1000000000 + 100000000
  else if now % 1000000000 ≤ 500000000 then now else (now / 1000000000 + 1) * 1000000000 + 100000000

section outputs
variable {s : State} (hlive : coreLive s = true)
include hlive

theorem exec_todTxMessage : exec .todTxMessage s =
    .next (emitOut (.todTx (todMessage (reachNs (todTxAt (nowNs s)) s) (todTxAt (nowNs s) / 1000000000 + 1))) (reachNs (todTxAt (nowNs s)) s)) := by
  change execTodTxMessage s = _
  simp only [execTodTxMessage, hlive, Bool.not_true, Bool.false_eq_true, if_false]
  rfl

/-! ## PPS_OUT_EDGE (R419) -/

/-- An output after an edge at t: a configuration that waited takes force. -/
def ppsAfterEdge (t : Nat) (y : PpsOut) : PpsOut :=
  match y.next with
  | some (p, w, pol, sq, off) => { period := p, width := w, polarity := pol, squelch := sq, offset := off, lastEdge := some t }
  | none => { y with lastEdge := some t }

theorem exec_ppsOutEdge (n : Nat) {t : Nat} {s1 : State} (ht : ppsNext s (ppsOut s n) = t) (hs1 : modPps n (ppsAfterEdge t) (reachNs t s) = s1) :
    exec (.ppsOutEdge n) s = .next (if (ppsOut s1 n).squelch = true ∧ untraceable s1 = true then s1
      else emitOut (.ppsEdge n (t64OfNs t) (ppsOut s1 n).width (ppsOut s1 n).polarity) s1) := by
  subst ht hs1
  change execPpsOutEdge n s = _
  simp only [execPpsOutEdge, hlive, Bool.not_true, Bool.false_eq_true, if_false, Bool.and_eq_true]
  rfl

/-! ## IRIG_OUT_FRAME (R418) -/

variable {sec : Nat} {t : State} (hformat : s.tim.irig.outFormat ≠ 0) (hsec : nowNs s / 1000000000 + 1 = sec) (ht : reachNs (sec * 1000000000) s = t)
include hformat hsec ht

theorem exec_irigOutFrame_of_squelched (hsquelch : t.tim.irig.squelch = true) (huntraceable : untraceable t = true) : exec .irigOutFrame s = .next t := by
  change execIrigOutFrame s = _
  simp only [execIrigOutFrame, hlive, hformat, hsec, ht, hsquelch, huntraceable, Bool.not_true, Bool.false_or, decide_false, Bool.false_eq_true, if_false,
    Bool.and_self, if_true]

theorem exec_irigOutFrame_of_sent (hsquelch : t.tim.irig.squelch = false) : exec .irigOutFrame s =
    .next (emitOut (.irigOut t.tim.irig.outFormat (irigPulses t.tim.irig.outFormat
      (irigSymbols t t.tim.irig.outFormat sec (Config.freeValue t.free % 2 ^ 7)))) { t with free := t.free + 1 }) := by
  change execIrigOutFrame s = _
  simp only [execIrigOutFrame, hlive, hformat, hsec, ht, hsquelch, Bool.not_true, Bool.false_or, decide_false, Bool.false_eq_true, if_false,
    Bool.false_and]
  rfl

end outputs

/-! ## IRIG_FRAME (R416, R417) -/

/-- Is a frame's symbol list well formed for the input's settings. -/
def irigFrameOk (pulses : List Nat) (s : State) : Bool :=
  irigWellFormed s.tim.irig.inFormat (s.tim.irig.cf && irigCf s.tim.irig.inFormat) (pulses.map irigSymbol)

section irigIn
variable {pulses : List Nat} {first : Nat} {s : State} (hclk : s.clk.coreStopped = false) (hformat : s.tim.irig.inFormat ≠ 0)
include hclk hformat

theorem exec_irigFrame_of_malformed (hbad : irigFrameOk pulses s = false) : exec (.irigFrame pulses first) s = .next (irigInvalid s) := by
  unfold irigFrameOk at hbad
  change execIrigFrame pulses first s = _
  simp only [execIrigFrame, hclk, hformat, hbad, Bool.not_false, Bool.false_eq_true, if_false, if_true]

variable (hok : irigFrameOk pulses s = true)
include hok

theorem exec_irigFrame_of_first (hlast : s.tim.ref.irigLast = none) :
    exec (.irigFrame pulses first) s = .next (irigValid (pulses.map irigSymbol) (irigSecond s (pulses.map irigSymbol) (irigAge s first)) (irigAge s first) s) := by
  unfold irigFrameOk at hok
  change execIrigFrame pulses first s = _
  simp only [execIrigFrame, hclk, hformat, hok, hlast, Bool.not_true, Bool.false_eq_true, if_false, if_true]

variable {t : Nat} (hlast : s.tim.ref.irigLast = some t)
include hlast

theorem exec_irigFrame_of_follows (hnext : irigSecond s (pulses.map irigSymbol) (irigAge s first) = t + 1) :
    exec (.irigFrame pulses first) s = .next (irigValid (pulses.map irigSymbol) (irigSecond s (pulses.map irigSymbol) (irigAge s first)) (irigAge s first) s) := by
  unfold irigFrameOk at hok
  change execIrigFrame pulses first s = _
  simp only [execIrigFrame, hclk, hformat, hok, hlast, decide_eq_true hnext, Bool.not_true, Bool.false_eq_true, if_false, if_true]

theorem exec_irigFrame_of_jumped (hjump : irigSecond s (pulses.map irigSymbol) (irigAge s first) ≠ t + 1) (hlocked : s.tim.ref.irigLocked = true) :
    exec (.irigFrame pulses first) s = .next (irigInvalid s) := by
  unfold irigFrameOk at hok
  change execIrigFrame pulses first s = _
  simp only [execIrigFrame, hclk, hformat, hok, hlast, decide_eq_false hjump, hlocked, Bool.not_true, Bool.false_eq_true, if_false, if_true]

end irigIn

/-! ## GPIO capture (R420) -/

section gpio
variable {n : Nat} {s : State} (hclk : s.clk.coreStopped = false)
include hclk

section change
variable {level : Bool} (hn : n < 32) (hlevel : (gpio s n).level ≠ level)
include hn hlevel

theorem exec_gpioInputChange_of_glitch (hback : level = (gpio s n).accepted) (hchanging : (gpio s n).changing.isSome = true) :
    exec (.gpioInputChange n level) s =
      .next (modGpio n (fun g => { g with changing := none, glitches := wrap32 (g.glitches + 1) }) (modGpio n (fun g => { g with level := level }) s)) := by
  subst hback
  change execGpioInputChange n _ s = _
  simp only [execGpioInputChange, hclk, hchanging, beq_eq_false_iff_ne.mpr hlevel, beq_self_eq_true, Nat.not_le.mpr hn, decide_false, Bool.or_self,
    Bool.false_eq_true, if_false, if_true]

variable (haway : level ≠ (gpio s n).accepted)
include haway

theorem exec_gpioInputChange_of_immediate (hdebounce : (gpio s n).debounce = 0) :
    exec (.gpioInputChange n level) s = .next (gpioAccept n level (nowNs s) (nowQns s) (modGpio n (fun g => { g with level := level }) s)) := by
  change execGpioInputChange n level s = _
  simp only [execGpioInputChange, hclk, hdebounce, beq_eq_false_iff_ne.mpr hlevel, beq_eq_false_iff_ne.mpr haway, Nat.not_le.mpr hn, decide_false,
    Bool.or_self, Bool.false_eq_true, if_false, if_true]

theorem exec_gpioInputChange_of_debounced (hdebounce : (gpio s n).debounce ≠ 0) : exec (.gpioInputChange n level) s =
    .next (modGpio n (fun g => { g with changing := some (nowNs s, nowQns s, s.clk.edges) }) (modGpio n (fun g => { g with level := level }) s)) := by
  change execGpioInputChange n level s = _
  simp only [execGpioInputChange, hclk, hdebounce, beq_eq_false_iff_ne.mpr hlevel, beq_eq_false_iff_ne.mpr haway, Nat.not_le.mpr hn, decide_false,
    Bool.or_self, Bool.false_eq_true, if_false]

end change

theorem exec_gpioEdgeAccept {ns q e : Nat} (hchanging : (gpio s n).changing = some (ns, q, e)) :
    exec (.gpioEdgeAccept n) s = .next (gpioAccept n (gpio s n).level ns q (reachEdge (e + (gpio s n).debounce * usE) s)) := by
  change execGpioEdgeAccept n s = _
  simp only [execGpioEdgeAccept, hclk, hchanging, Bool.false_eq_true, if_false]

theorem exec_gpioChatterQuiet_of_silenced (hsilenced : (gpio s n).silenced = true) {t : State}
    (ht : reachEdge ((gpio s n).recent.getLastD 0 + secE) s = t) : exec (.gpioChatterQuiet n) s = .next (fire (0x1C0 + n) 0x03
      (toLE 4 (gpio s n).silentRecords) (modGpio n (fun g => { g with silenced := false, silentRecords := 0, recent := [] }) t)) := by
  have hpin : gpio t n = gpio s n := by rw [← ht, gpio, gpio, reachEdge_gpio]
  change execGpioChatterQuiet n s = _
  simp only [execGpioChatterQuiet, gpioResume, hclk, hsilenced, ht, hpin, Bool.not_true, Bool.false_eq_true, if_false, if_true]

theorem exec_gpioChatterQuiet_of_recording (hsilenced : (gpio s n).silenced = false) : exec (.gpioChatterQuiet n) s = .next s := by
  change execGpioChatterQuiet n s = _
  simp only [execGpioChatterQuiet, hclk, hsilenced, Bool.not_false, Bool.false_eq_true, if_false, if_true]

end gpio

/-- Settles O50: what each output, frame and edge does in the case that its clause names. -/
theorem outputsAndGpioCaptureKeepTheirTimes : Obligations.OutputsAndGpioCaptureKeepTheirTimes := by
  unfold Obligations.OutputsAndGpioCaptureKeepTheirTimes
  refine ⟨fun s hlive => exec_todTxMessage hlive, fun n s hlive => exec_ppsOutEdge hlive n rfl rfl, ?irigOut, ?irigIn, ?change,
    fun n ns q e s hclk hchanging => exec_gpioEdgeAccept hclk hchanging, ?quiet⟩
  case irigOut =>
    intro s sec t hlive hformat
    exact ⟨fun hsquelch huntraceable => exec_irigOutFrame_of_squelched hlive hformat rfl rfl hsquelch huntraceable,
      fun hsquelch => exec_irigOutFrame_of_sent hlive hformat rfl rfl hsquelch⟩
  case irigIn =>
    intro pulses first s hclk c l age ok sec hformat
    exact ⟨fun hbad => exec_irigFrame_of_malformed hclk hformat hbad, fun hok hlast => exec_irigFrame_of_first hclk hformat hok hlast,
      fun t hok hlast => ⟨fun hnext => exec_irigFrame_of_follows hclk hformat hok hlast hnext,
        fun hjump hlocked => exec_irigFrame_of_jumped hclk hformat hok hlast hjump hlocked⟩⟩
  case change =>
    intro n level s hclk g s1 hn hlevel
    exact ⟨fun hback hchanging => exec_gpioInputChange_of_glitch hclk hn hlevel hback hchanging,
      fun haway hzero => exec_gpioInputChange_of_immediate hclk hn hlevel haway hzero,
      fun haway hdebounce => exec_gpioInputChange_of_debounced hclk hn hlevel haway hdebounce⟩
  case quiet =>
    intro n s hclk g
    exact ⟨fun hsilenced => exec_gpioChatterQuiet_of_silenced hclk hsilenced rfl, fun hrecording => exec_gpioChatterQuiet_of_recording hclk hrecording⟩

end Sys2Proof.Machine
end

section
/-! PROOF. The PTP engine: messages received and sent, Announce's time limit, and the stamp FIFO (spec/12 R408, R411-R415). -/

namespace Sys2Proof.Machine

/-! ## PTP_MESSAGE_RX (R408, R411-R413) -/

/-- A received frame from its PTP header on. -/
def ptpHeaderOn (bytes : List Byte) : List Byte := (bytes.take (bytes.length - 4)).drop (14 + 4 * earlyTags bytes)

/-- A message with every byte that its type and its length field call for, of version 2. -/
def ptpComplete (b : List Byte) : Prop := 34 ≤ b.length ∧ byteAt b 1 % 16 = 2 ∧ ptpMin (byteAt b 0 % 16) ≤ be b 2 2 ∧ be b 2 2 ≤ b.length

/-- A complete message passes the check of its form. -/
theorem malformed_of_complete {b : List Byte} (hfull : ptpComplete b) : (decide (b.length < 34) || byteAt b 1 % 16 != 2 ||
    decide (be b 2 2 < ptpMin (byteAt b 0 % 16)) || decide (b.length < be b 2 2)) = false := by
  obtain ⟨hheader, hversion, hleast, hall⟩ := hfull
  simp [hversion, Nat.not_lt.mpr hheader, Nat.not_lt.mpr hleast, Nat.not_lt.mpr hall]

section handle
variable {p t : Nat} {bytes b : List Byte} {s : State} (hb : ptpHeaderOn bytes = b)

theorem ptpHandle_of_halted (hcp : s.cp.running = false) :
    ptpHandle p t bytes s = modTim (fun t => { t with ptpDiscards := wrap32 (t.ptpDiscards + 1) }) s :=
  if_pos (by simp [hcp])

variable (hcp : s.cp.running = true) (hrole : (ptpPort s p).role ≠ 0)
include hb hcp hrole

theorem ptpHandle_of_short (hshort : b.length < 34) : ptpHandle p t bytes s = ptpFault p (byteAt b 0 % 16) 0x01 s := by
  subst hb
  refine (if_neg (by simp [hcp])).trans ((if_neg hrole).trans (if_pos ?_))
  change (decide ((ptpHeaderOn bytes).length < 34) || _ || _ || _) = true
  rw [decide_eq_true hshort, Bool.true_or, Bool.true_or, Bool.true_or]

theorem ptpHandle_of_otherDomain (hfull : ptpComplete b) (hdomain : byteAt b 4 ≠ s.tim.cfg.domain) :
    ptpHandle p t bytes s = ptpFault p (byteAt b 0 % 16) 0x02 s := by
  subst hb
  exact (if_neg (by simp [hcp])).trans ((if_neg hrole).trans ((if_neg (ne_true_of_eq_false (malformed_of_complete hfull))).trans
    (if_pos (bne_iff_ne.mpr hdomain))))

theorem ptpHandle_of_pdelayReq (hfull : ptpComplete b) (hdomain : byteAt b 4 = s.tim.cfg.domain) (hkind : byteAt b 0 = 2) (hminor : byteAt b 5 = 0) :
    ptpHandle p t bytes s = rxPdelayReq p t { kind := 2, b := b.take (be b 2 2) } (modPtp p (fun x => { x with rxReq := wrap32 (x.rxReq + 1) }) s) := by
  have hform := malformed_of_complete hfull
  rw [hkind, Nat.mod_eq_of_lt (by decide : 2 < 16)] at hform
  unfold ptpHeaderOn at hb
  simp only [ptpHandle, hb, hcp, hrole, hform, hdomain, hkind, hminor, Bool.not_true, Bool.false_eq_true, if_false, bne_self_eq_false, Nat.reduceMod,
    Nat.reduceDiv, OfNat.ofNat_ne_one, decide_false, Bool.or_self, Nat.reduceEqDiff]
  rfl

end handle

section engine
variable {s : State} (hclk : s.clk.coreStopped = false)
include hclk

theorem exec_ptpMessageRx_of_none (hnone : s.tim.ptpRx = []) : exec .ptpMessageRx s = .next s := by
  change execPtpMessageRx s = _
  simp only [execPtpMessageRx, hclk, hnone, Bool.false_eq_true, if_false]

theorem exec_ptpMessageRx_of_oldest {p t : Nat} {bytes : List Byte} {rest : List (Nat × Nat × List Byte)} (hrx : s.tim.ptpRx = (p, t, bytes) :: rest) :
    exec .ptpMessageRx s = .next (ptpHandle p t bytes (modTim (fun t => { t with ptpRx := rest }) s)) := by
  change execPtpMessageRx s = _
  simp only [execPtpMessageRx, hclk, hrx, Bool.false_eq_true, if_false]

/-! ## PTP_MESSAGE_TX and ANNOUNCE_RECEIPT_TIMEOUT (R406, R411) -/

/-- May a port send a message of a type: a Pdelay_Req in any role, Sync and Announce as an asCapable master. -/
def ptpMaySend (x : PtpPort) (kind : Nat) : Prop :=
  kind = 2 ∨ ((kind = 0 ∨ kind = 11) ∧ (x.role = 1 ∨ x.role = 2) ∧ x.state = 6 ∧ x.capable = true)

/-- The state at which a port's next message of a type is due. -/
def ptpTxDue (p kind : Nat) (s : State) : State :=
  match tget? (ptpPort s p).txAt kind with
  | some e => reachEdge (e + secE) s
  | none => s

theorem exec_ptpMessageTx_of_may {p kind : Nat} (hcp : s.cp.running = true) (hrole : (ptpPort s p).role ≠ 0) (hexists : portExists s p = true)
    (hqual : (ptpPort s p).qualAt = none) (hmay : ptpMaySend (ptpPort s p) kind) : exec (.ptpMessageTx p kind) s = .next (ptpEmit p kind (ptpTxDue p kind s)) := by
  change execPtpMessageTx p kind s = _
  simp only [execPtpMessageTx, hclk, hcp, hrole, hexists, hqual, Bool.not_true, decide_false, Bool.or_self, Bool.false_eq_true, if_false]
  rcases hmay with rfl | ⟨rfl | rfl, hmaster, hstate, hcapable⟩
  · rfl
  all_goals
    have hauto : (decide ((ptpPort s p).role = 1) || decide ((ptpPort s p).role = 2)) = true := by simpa using hmaster
    exact if_neg (by simp only [hauto, hstate, hcapable, decide_true, Bool.and_self, Bool.not_true, Bool.false_eq_true, not_false_eq_true])

theorem exec_ptpMessageTx_of_halted {p kind : Nat} (hcp : s.cp.running = false) : exec (.ptpMessageTx p kind) s = .next s := by
  change execPtpMessageTx p kind s = _
  simp only [execPtpMessageTx, hclk, hcp, Bool.not_false, Bool.true_or, Bool.false_eq_true, if_false, if_true]

/-- A port without Announce messages forgets the foreign masters, is MASTER, and the states are decided anew. -/
def announceForgotten (p : Nat) (t : State) : State :=
  ptpDecide (setPtpState p (if t.tim.cfg.slaveOnly then 4 else 6) (modPtp p (fun x => { x with foreign := [], announceAt := t.clk.edges }) t))

theorem exec_announceReceiptTimeout {p : Nat} {t : State} (ht : reachEdge ((ptpPort s p).announceAt + 3 * secE) s = t) (hcp : s.cp.running = true)
    (hrole : (ptpPort s p).role = 1 ∨ (ptpPort s p).role = 2) (hmaster : (ptpPort s p).state ≠ 6) (hlistening : (ptpPort s p).state ≠ 3) :
    exec (.announceReceiptTimeout p) s =
      .next (if t.tim.slavePort = some p ∧ t.tim.cfg.mode = 1 then enterHoldover (announceForgotten p t) else announceForgotten p t) := by
  have hauto : (decide ((ptpPort s p).role = 1) || decide ((ptpPort s p).role = 2)) = true := by simpa using hrole
  change execAnnounceReceiptTimeout p s = _
  simp only [execAnnounceReceiptTimeout, hclk, ht, hcp, hauto, hmaster, hlistening, Bool.not_true, decide_false, Bool.or_self, Bool.false_eq_true,
    if_false, Bool.and_eq_true, decide_eq_true_eq]
  rfl

/-! ## STAMP_FIFO_READ (R415) -/

section stamps
variable {p : Nat} {e : StampEnt} {r : List StampEnt} (hcp : s.cp.running = true) (hfifo : (ptpPort s p).fifo = e :: r)
include hcp hfifo

theorem exec_stampFifoRead_of_noMarker (hmarker : (ptpPort s p).marker = none) : exec (.stampFifoRead p) s =
    .next (if e.marker then modPtp p (fun x => { x with fifo := r, marker := none }) s
      else pairStamp p e (modPtp p (fun x => { x with fifo := r, marker := none }) s)) := by
  change execStampFifoRead p s = _
  simp only [execStampFifoRead, hclk, hcp, hfifo, hmarker, List.append_nil, Bool.false_eq_true, if_false, if_true]

theorem exec_stampFifoRead_of_marker {m : StampEnt} (hmarker : (ptpPort s p).marker = some m) (hstamp : e.marker = false) :
    exec (.stampFifoRead p) s = .next (pairStamp p e (modPtp p (fun x => { x with fifo := r ++ [{ m with t64 := nowT64 s }], marker := none }) s)) := by
  change execStampFifoRead p s = _
  simp only [execStampFifoRead, hclk, hcp, hfifo, hmarker, hstamp, Bool.false_eq_true, if_false, if_true]

end stamps
end engine

/-- Settles O51: what each message, time limit and stamp does in the case that its clause names. -/
theorem ptpMessagesAreHandledSentAndTimed : Obligations.PtpMessagesAreHandledSentAndTimed := by
  unfold Obligations.PtpMessagesAreHandledSentAndTimed
  refine ⟨fun s hclk hnone => exec_ptpMessageRx_of_none hclk hnone, ?received, ?sent, fun p kind s hclk hcp => exec_ptpMessageTx_of_halted hclk hcp,
    ?announce, ?stamps⟩
  case received =>
    intro p t bytes rest s hclk s1 x b kind n hrx
    have hexec := exec_ptpMessageRx_of_oldest hclk hrx
    refine ⟨fun hcp => hexec.trans (congrArg Host.Outcome.next (ptpHandle_of_halted hcp)), fun hcp hrole => ⟨fun hshort => ?_, ?_⟩⟩
    · exact hexec.trans (congrArg Host.Outcome.next (ptpHandle_of_short rfl hcp hrole hshort))
    · intro hheader hversion hleast hall
      have hfull : ptpComplete b := ⟨hheader, hversion, hleast, hall⟩
      exact ⟨fun hdomain => hexec.trans (congrArg Host.Outcome.next (ptpHandle_of_otherDomain rfl hcp hrole hfull hdomain)),
        fun hdomain hkind hminor => hexec.trans (congrArg Host.Outcome.next (ptpHandle_of_pdelayReq rfl hcp hrole hfull hdomain hkind hminor))⟩
  case sent =>
    intro p kind s hclk x due hcp hrole hexists hqual hmay
    exact exec_ptpMessageTx_of_may hclk hcp hrole hexists hqual hmay
  case announce =>
    intro p s hclk x t s3 hcp hrole hmaster hlistening
    exact exec_announceReceiptTimeout hclk rfl hcp hrole hmaster hlistening
  case stamps =>
    intro p e r s hclk hcp hfifo s1
    refine ⟨fun hmarker hstamp => ?_, fun hmarker hentry => ?_, fun m hmarker hstamp => exec_stampFifoRead_of_marker hclk hcp hfifo hmarker hstamp⟩
    · exact (exec_stampFifoRead_of_noMarker hclk hcp hfifo hmarker).trans (congrArg Host.Outcome.next (if_neg (by simp [hstamp])))
    · exact (exec_stampFifoRead_of_noMarker hclk hcp hfifo hmarker).trans (congrArg Host.Outcome.next (if_pos hentry))

end Sys2Proof.Machine
end

section
/-! PROOF. CLOCK_CONFIGURE, CLOCK_STATUS, PTP_PORT_SET, IRIG_SET and GPIO_CAPTURE_SET (spec/12 R430-R434). -/

namespace Sys2Proof.Machine

/-! ## CLOCK_CONFIGURE (R430) -/

/-- The legal fields of a CLOCK_CONFIGURE block; MODE and SET_TIME limit each other apart from them. -/
structure ClockFits (b : List Byte) : Prop where
  mode : (clockBlock b).mode < 4
  profile : (clockBlock b).profile = 1 ∨ (clockBlock b).profile = 2
  flags : byteAt b 5 < 16
  slewLeast : 1 ≤ (clockBlock b).slewMax
  slewMost : (clockBlock b).slewMax ≤ 500
  stepLeast : 1 ≤ (clockBlock b).stepThreshold
  stepMost : (clockBlock b).stepThreshold ≤ 1000000
  holdLeast : 1 ≤ (clockBlock b).holdoverTime
  holdMost : (clockBlock b).holdoverTime ≤ 86400
  leap : (clockBlock b).leap < 3
  ptpClass : (clockBlock b).ptpClass < 7
  baudLeast : 9600 ≤ (clockBlock b).todBaud
  baudMost : (clockBlock b).todBaud ≤ 460800
  pps : ∀ e ∈ ppsChecks b 32 ++ ppsChecks b 40, e.1 = true
  offset0 : offsetOk b 48 = true
  offset1 : offsetOk b 52 = true
  reserved : reservedAt b 56 8 = true
  time : t64Ok (le b 20 8) = true

/-- The checks of CLOCK_CONFIGURE ahead of SET_TIME. -/
def clockChecks (b : List Byte) : List (Bool × Nat) :=
  let c := clockBlock b
  [(c.mode < 4, 0), (c.profile == 1 || c.profile == 2, 1), (byteAt b 5 < 16, 5), (1 ≤ c.slewMax && c.slewMax ≤ 500, 6),
    (1 ≤ c.stepThreshold && c.stepThreshold ≤ 1000000, 8), (1 ≤ c.holdoverTime && c.holdoverTime ≤ 86400, 12), (c.leap < 3, 18), (c.ptpClass < 7, 19)]

/-- The check of SET_TIME: a legal time, and only in mode FREE. -/
def clockTimeOk (b : List Byte) : Bool := t64Ok (le b 20 8) && (le b 20 8 == 0 || (clockBlock b).mode == 0)

/-- The checks of CLOCK_CONFIGURE behind SET_TIME. -/
def clockChecksLate (b : List Byte) : List (Bool × Nat) :=
  (9600 ≤ (clockBlock b).todBaud && (clockBlock b).todBaud ≤ 460800, 28) :: (ppsChecks b 32 ++ ppsChecks b 40 ++
    [(offsetOk b 48, 48), (offsetOk b 52, 52), (reservedAt b 56 8, 56)])

theorem checked_of_bad {l : List (Bool × Nat)} (k : CmdResult) {off : Nat} (hbad : firstBad l = some off) : checked l k = .badParam off := by
  simp only [checked, hbad]

/-- A check that fails behind checks that hold is the first. -/
theorem firstBad_append {l r : List (Bool × Nat)} (hall : ∀ e ∈ l, e.1 = true) : firstBad (l ++ r) = firstBad r := by
  induction l with
  | nil => rfl
  | cons e l ih =>
    rw [List.cons_append, firstBad, if_pos (hall e List.mem_cons_self), ih fun x hx => hall x (List.mem_cons_of_mem _ hx)]

section clockChecks
variable {b : List Byte}

theorem clockTimeOk_of_set (htime : le b 20 8 ≠ 0) (hmode : (clockBlock b).mode ≠ 0) : clockTimeOk b = false := by
  simp [clockTimeOk, htime, hmode]

variable (hfits : ClockFits b)
include hfits

theorem clockChecks_all : ∀ e ∈ clockChecks b, e.1 = true := by
  obtain ⟨hmode, hprofile, hflags, hsl, hsm, htl, htm, hhl, hhm, hleap, hclass⟩ := hfits
  simp [clockChecks, hmode, hprofile, hflags, hsl, hsm, htl, htm, hhl, hhm, hleap, hclass]

theorem clockChecksLate_all : ∀ e ∈ clockChecksLate b, e.1 = true := by
  intro e he
  simp only [clockChecksLate, List.mem_cons, List.mem_append (t := [_, _, _]), List.not_mem_nil, or_false] at he
  rcases he with rfl | hpps | rfl | rfl | rfl
  · simp [hfits.baudLeast, hfits.baudMost]
  · exact hfits.pps e hpps
  · exact hfits.offset0
  · exact hfits.offset1
  · exact hfits.reserved

/-- With legal fields the check of SET_TIME decides. -/
theorem clockChecks_firstBad : firstBad (clockChecks b ++ (clockTimeOk b, 20) :: clockChecksLate b) = if clockTimeOk b then none else some 20 := by
  rw [firstBad_append (clockChecks_all hfits), firstBad, firstBad_of_all (clockChecksLate_all hfits)]

theorem clockTimeOk_of_none (htime : le b 20 8 = 0) : clockTimeOk b = true := by
  simp only [clockTimeOk, hfits.time, beq_iff_eq.mpr htime, Bool.true_or, Bool.and_self]

theorem clockTimeOk_of_free (hmode : (clockBlock b).mode = 0) : clockTimeOk b = true := by
  simp [clockTimeOk, hfits.time, hmode]

end clockChecks

/-- The settings and the two pending PPS configurations of a block are put. -/
def clockPut (b : List Byte) (s : State) : State :=
  modPps 1 (ppsSet b 40 52) (modPps 0 (ppsSet b 32 48) (keepAdj (modTim (fun t => { t with cfg := clockBlock b }) s)))

/-- The time base steps to the time that a block sets. -/
def clockTimeSet (b : List Byte) (s : State) : State := stepBy (((nsOfT64 (le b 20 8) * tbuPerNs : Nat) : Int) - s.clk.tb) s

/-- What a block that keeps MODE and PROFILE leaves: in mode FREE with its UTC offset and leap, and the time that it sets. -/
def clockKept (b : List Byte) (s : State) : State :=
  let t := if (clockBlock b).mode = 0 then setUtc (clockBlock b).utcOffset (clockBlock b).leap (clockPut b s) else clockPut b s
  if le b 20 8 = 0 then t else clockTimeSet b t

section configure
variable {p : Packet} {s : State} (hfits : ClockFits p.params)
include hfits

theorem bodyClockConfigure_of_badTime (htime : clockTimeOk p.params = false) : bodyClockConfigure p s = .badParam 20 :=
  checked_of_bad _ ((clockChecks_firstBad hfits).trans (if_neg (ne_true_of_eq_false htime)))

variable (htime : clockTimeOk p.params = true)
include htime

theorem bodyClockConfigure_of_noInput (hmode : (clockBlock p.params).mode = 3) (hinput : s.tim.irig.inFormat = 0) : bodyClockConfigure p s = .conflict :=
  (checked_of_none _ ((clockChecks_firstBad hfits).trans (if_pos htime))).trans (if_pos (by simp [hmode, hinput]))

theorem bodyClockConfigure_of_kept (hinput : (clockBlock p.params).mode = 3 → s.tim.irig.inFormat ≠ 0) (hmode : (clockBlock p.params).mode = s.tim.cfg.mode)
    (hprofile : (clockBlock p.params).profile = s.tim.cfg.profile) : bodyClockConfigure p s = .ok [] (clockKept p.params s) := by
  have hsame : ((clockBlock p.params).mode != s.tim.cfg.mode || (clockBlock p.params).profile != s.tim.cfg.profile) = false := by simp [hmode, hprofile]
  refine (checked_of_none _ ((clockChecks_firstBad hfits).trans (if_pos htime))).trans ((if_neg (by simpa using hinput)).trans ?_)
  simp only [hsame]
  rfl

end configure

section settings
variable {b : List Byte} {s : State}

theorem clockKept_of_settings (htime : le b 20 8 = 0) (hmode : (clockBlock b).mode ≠ 0) : clockKept b s = clockPut b s := by
  simp only [clockKept, htime, hmode, if_true, if_false]

theorem clockKept_of_time (htime : le b 20 8 ≠ 0) (hmode : (clockBlock b).mode = 0) :
    clockKept b s = clockTimeSet b (setUtc (clockBlock b).utcOffset (clockBlock b).leap (clockPut b s)) := by
  simp only [clockKept, htime, hmode, if_true, if_false]

end settings

/-! ## CLOCK_STATUS (R431) -/

/-- The 64 bytes of CLOCK_STATUS with a clockClass. -/
def clockReply (cls : Nat) (s : State) : List Byte :=
  toLE 1 s.tim.state ++ toLE 1 s.tim.cfg.mode ++ toLE 1 cls ++
    toLE 1 (b2n (untraceable s) + 2 * b2n s.tim.ref.ppsPresent + 4 * b2n s.tim.ref.clk10m + 8 * b2n s.tim.ref.todValid + 16 * b2n s.tim.ref.irigLocked + 32 * b2n (s.tim.leap != 0)) ++
    toLE 8 (nowT64 s) ++ toLE 8 (unsigned 64 s.tim.lastDelta) ++ toLE 4 (unsigned 32 ((s.tim.slavePort.map (fun q => (ptpPort s q).linkDelay)).getD 0)) ++
    toLE 4 (unsigned 32 (adjNow s)) ++ toBE 8 (if s.tim.cfg.mode = 1 then gmNow s else clockIdentity s) ++ toLE 2 (unsigned 16 s.tim.utc) ++
    toLE 1 (s.tim.slavePort.getD 0xFF) ++ zeros 1 ++ toLE 4 s.tim.steps ++ toLE 8 s.tim.lastStep ++
    toLE 4 (if s.tim.state = 3 then (s.clk.edges - s.tim.holdoverAt) / secE else 0) ++ toLE 2 (unsigned 16 (fur s 0).repDiff) ++ toLE 2 (unsigned 16 (fur s 1).repDiff) ++
    toLE 4 s.tim.ptpDiscards

theorem length_clockReply_le (cls : Nat) (s : State) : (clockReply cls s).length ≤ 4080 := by
  unfold clockReply
  simp [toBE]

section status
variable {p : Packet} {s : State}

theorem bodyClockStatus_of_class {k : Nat} (hclass : classSent s = some k) : bodyClockStatus p s = .ok (clockReply k s) s := by
  unfold clockReply
  simp only [bodyClockStatus, hclass, gmNow]
  cases s.tim.parent with
  | none => cases s.tim.slavePort <;> simp only [ite_self, Option.map, Option.getD]
  | some x => cases s.tim.slavePort <;> rfl

theorem bodyClockStatus_of_noClass (hclass : classSent s = none) :
    bodyClockStatus p s = .ok (clockReply (Config.freeValue s.free % 2 ^ 8) s) { s with free := s.free + 1 } := by
  unfold clockReply
  simp only [bodyClockStatus, hclass, gmNow, takeFree]
  cases s.tim.parent with
  | none => cases s.tim.slavePort <;> simp only [ite_self, Option.map, Option.getD] <;> rfl
  | some x => cases s.tim.slavePort <;> rfl

end status

/-! ## PTP_PORT_SET (R432) -/

/-- A port with the role and the settings of a block. -/
def ptpPortPut (b : List Byte) (s : State) (x : PtpPort) : PtpPort :=
  { ptpRole (byteAt b 2) s x with
    oneStep := bit (byteAt b 3) 0, tagged := bit (byteAt b 3) 1, tci := le b 4 2, asymmetry := signed 32 (le b 8 4), delayLimit := le b 12 4 }

/-- The state and the counts of a port. -/
def ptpPortReply (x : PtpPort) : List Byte :=
  toLE 1 x.state ++ toLE 1 x.role ++ zeros 2 ++ toLE 4 (unsigned 32 x.linkDelay) ++ toLE 4 x.stampsLost ++ toLE 4 x.rxSync ++ toLE 4 x.rxFollow ++
    toLE 4 x.rxReq ++ toLE 4 x.rxResp ++ zeros 4

section ports
variable {p : Packet} {s : State} (hexists : portExists s (byteAt p.params 1) = true)
include hexists

theorem bodyPtpPortSet_of_set {t u : State} (hop : byteAt p.params 0 = 0) (hrole : byteAt p.params 2 < 4) (hflags : byteAt p.params 3 < 4)
    (hres : reservedAt p.params 6 2 = true) (ht : touchPort (byteAt p.params 1) true s = t) (hu : modPtp (byteAt p.params 1) (ptpPortPut p.params t) t = u) :
    bodyPtpPortSet p s = .ok [] (ptpDecide (if (ptpPort t (byteAt p.params 1)).state = (ptpPort u (byteAt p.params 1)).state then u
      else fire 0x189 0x02 (toLE 1 (byteAt p.params 1) ++ toLE 1 (ptpPort t (byteAt p.params 1)).state ++ toLE 1 (ptpPort u (byteAt p.params 1)).state) u)) := by
  subst ht hu
  exact (if_pos hop).trans (checked_of_none _ (by simp only [firstBad, hexists, hrole, hflags, hres, decide_true, if_true]))

theorem bodyPtpPortSet_of_read (hop : byteAt p.params 0 = 1) (hres : reservedAt p.params 2 14 = true) : bodyPtpPortSet p s =
    .ok (ptpPortReply (ptpPort (touchPort (byteAt p.params 1) true s) (byteAt p.params 1))) (touchPort (byteAt p.params 1) true s) :=
  (if_neg (by simp [hop])).trans (checked_of_none _ (by simp only [firstBad, hop, hexists, hres, beq_self_eq_true, if_true]))

end ports

/-! ## IRIG_SET (R433) -/

/-- The legal fields of an IRIG_SET block. -/
structure IrigFits (b : List Byte) : Prop where
  inFormat : irigFormatOk (byteAt b 0) = true
  outFormat : irigFormatOk (byteAt b 1) = true
  flags : byteAt b 2 < 16
  reserved : reservedAt b 3 1 = true
  offsetLeast : -720 ≤ signed 16 (le b 4 2)
  offsetMost : signed 16 (le b 4 2) ≤ 720
  offsetStep : signed 16 (le b 4 2) % 15 = 0
  pad : reservedAt b 6 2 = true
  toleranceLeast : 1 ≤ le b 8 4
  toleranceMost : le b 8 4 ≤ 1000000

/-- The settings that IRIG_SET carries. -/
def irigPut (b : List Byte) : IrigCfg :=
  { inFormat := byteAt b 0, outFormat := byteAt b 1, inLocal := bit (byteAt b 2) 0, outLocal := bit (byteAt b 2) 1, cf := bit (byteAt b 2) 2
    squelch := bit (byteAt b 2) 3, localOffset := signed 16 (le b 4 2), tolerance := le b 8 4 }

/-- Two settings of one input. -/
def irigSameInput (c old : IrigCfg) : Prop :=
  c.inFormat = old.inFormat ∧ c.inLocal = old.inLocal ∧ c.cf = old.cf ∧ c.localOffset = old.localOffset

theorem irigSameInput_iff {c old : IrigCfg} : irigSameInput c old ↔
    (c.inFormat == old.inFormat && c.inLocal == old.inLocal && c.cf == old.cf && c.localOffset == old.localOffset) = true := by
  simp [irigSameInput, and_assoc]

section irig
variable {p : Packet} {s : State} (hfits : IrigFits p.params)
include hfits

theorem irigChecks_firstBad : firstBad [(irigFormatOk (byteAt p.params 0), 0), (irigFormatOk (byteAt p.params 1), 1), (byteAt p.params 2 < 16, 2),
    (reservedAt p.params 3 1, 3), (decide (-720 ≤ signed 16 (le p.params 4 2) ∧ signed 16 (le p.params 4 2) ≤ 720 ∧ signed 16 (le p.params 4 2) % 15 = 0), 4),
    (reservedAt p.params 6 2, 6), (1 ≤ le p.params 8 4 && le p.params 8 4 ≤ 1000000, 8)] = none := by
  obtain ⟨hin, hout, hflags, hres, hleast, hmost, hstep, hpad, htl, htm⟩ := hfits
  simp only [firstBad, hin, hout, hflags, hres, hleast, hmost, hstep, hpad, htl, htm, and_self, decide_true, Bool.and_self, if_true]

theorem bodyIrigSet_of_same (hsame : irigSameInput (irigPut p.params) s.tim.irig) :
    bodyIrigSet p s = .ok [] (modTim (fun t => { t with irig := irigPut p.params }) s) :=
  (checked_of_none _ (irigChecks_firstBad hfits)).trans (if_pos (irigSameInput_iff.mp hsame))

theorem bodyIrigSet_of_other (hother : ¬ irigSameInput (irigPut p.params) s.tim.irig) (hunlocked : s.tim.ref.irigLocked = false) :
    bodyIrigSet p s = .ok [] (modRef (fun r => { r with irigLocked := false, irigGood := 0, irigBad := 0, irigLast := none })
      (modTim (fun t => { t with irig := irigPut p.params }) s)) := by
  refine (checked_of_none _ (irigChecks_firstBad hfits)).trans ((if_neg (mt irigSameInput_iff.mpr hother)).trans ?_)
  simp only [hunlocked, Bool.false_and, Bool.false_eq_true, if_false]
  rfl

end irig

/-! ## GPIO_CAPTURE_SET (R434) -/

/-- A pin with the capture settings of a block. -/
def gpioPut (b : List Byte) (g : Gpio) : Gpio :=
  { g with edges := byteAt b 1, debounce := le b 2 2, chatter := le b 4 2, changing := none, accepted := g.level, recent := [] }

section capture
variable {p : Packet} {s : State} (hn : byteAt p.params 0 < 32) (hedges : byteAt p.params 1 < 4) (hchatter : le p.params 4 2 ≤ 1000)
  (hres : reservedAt p.params 7 1 = true)
include hn hedges hchatter hres

theorem bodyGpioCaptureSet_of_set (hop : byteAt p.params 6 = 0) :
    bodyGpioCaptureSet p s = .ok [] (modGpio (byteAt p.params 0) (gpioPut p.params) (gpioResume (byteAt p.params 0) s)) := by
  have hlt : byteAt p.params 6 < 2 := by omega
  exact (checked_of_none _ (by simp only [firstBad, hlt, hn, hedges, hchatter, hres, decide_true, if_true])).trans (if_pos hop)

theorem bodyGpioCaptureSet_of_read (hop : byteAt p.params 6 = 1) : bodyGpioCaptureSet p s =
    .ok (toLE 1 (b2n (gpio s (byteAt p.params 0)).level) ++ zeros 3 ++ toLE 4 (gpio s (byteAt p.params 0)).count ++
      toLE 4 (gpio s (byteAt p.params 0)).glitches ++ toLE 4 (gpio s (byteAt p.params 0)).notRecorded) s := by
  have hlt : byteAt p.params 6 < 2 := by omega
  exact (checked_of_none _ (by simp only [firstBad, hlt, hn, hedges, hchatter, hres, decide_true, if_true])).trans (if_neg (by simp [hop]))

end capture

/-- Settles O52: what each command sets or answers in the case that its clause names. -/
theorem clockPtpIrigAndGpioCommandsSetTheirUnits : Obligations.ClockPtpIrigAndGpioCommandsSetTheirUnits := by
  unfold Obligations.ClockPtpIrigAndGpioCommandsSetTheirUnits
  refine ⟨?configure, ?status, ?ports, ?irig, ?capture⟩
  case configure =>
    intro p s r b c s1 step hacc hmode hprofile hflags hsl hsm htl htm hhl hhm hleap hclass hbl hbm hpps ho0 ho1 hres htime
    have hfits : ClockFits b := ⟨hmode, hprofile, hflags, hsl, hsm, htl, htm, hhl, hhm, hleap, hclass, hbl, hbm, hpps, ho0, ho1, hres, htime⟩
    refine ⟨fun hnone hnotFree hsame hkept hinput => ?_, fun hnone hirig hinput => ?_, fun hset hfree hsame hkept => ?_, fun hset hnotFree => ?_⟩
    · have hbody := bodyClockConfigure_of_kept (p := asked specClockConfigure p) (s := r) hfits (clockTimeOk_of_none hfits hnone) hinput hsame hkept
      exact serveCmd_ok (body := bodyClockConfigure) hacc (hbody.trans (congrArg (CmdResult.ok []) (clockKept_of_settings hnone hnotFree))) (by decide) (by simp)
    · exact serveCmd_conflict (body := bodyClockConfigure) hacc
        (bodyClockConfigure_of_noInput (p := asked specClockConfigure p) (s := r) hfits (clockTimeOk_of_none hfits hnone) hirig hinput)
    · have hirig : c.mode = 3 → r.tim.irig.inFormat ≠ 0 := fun h => by omega
      have hbody := bodyClockConfigure_of_kept (p := asked specClockConfigure p) (s := r) hfits (clockTimeOk_of_free hfits hfree) hirig
        (hfree.trans hsame.symm) hkept
      exact serveCmd_ok (body := bodyClockConfigure) hacc (hbody.trans (congrArg (CmdResult.ok []) (clockKept_of_time hset hfree))) (by decide) (by simp)
    · exact serveCmd_badParam (body := bodyClockConfigure) hacc
        (bodyClockConfigure_of_badTime (p := asked specClockConfigure p) (s := r) hfits (clockTimeOk_of_set hset hnotFree))
  case status =>
    intro p s r t reply hacc
    exact ⟨fun k hclass => serveCmd_ok (body := bodyClockStatus) hacc (bodyClockStatus_of_class hclass) (by decide) (length_clockReply_le _ _),
      fun hclass => serveCmd_ok (body := bodyClockStatus) hacc (bodyClockStatus_of_noClass hclass) (by decide) (length_clockReply_le _ _)⟩
  case ports =>
    intro p s r b q v x s1 hacc hexists
    refine ⟨fun hop hrole hflags hres => ?_, fun hop hres => ?_⟩
    · have hbody := bodyPtpPortSet_of_set (p := asked specPtpPortSet p) (s := r) hexists hop hrole hflags hres rfl rfl
      exact ⟨fun hsame => serveCmd_ok (body := bodyPtpPortSet) hacc
          (hbody.trans (congrArg (fun v => CmdResult.ok [] (ptpDecide v)) (if_pos hsame))) (by decide) (by simp),
        fun hnew => serveCmd_ok (body := bodyPtpPortSet) hacc
          (hbody.trans (congrArg (fun v => CmdResult.ok [] (ptpDecide v)) (if_neg hnew))) (by decide) (by simp)⟩
    · exact serveCmd_ok (body := bodyPtpPortSet) hacc (bodyPtpPortSet_of_read (p := asked specPtpPortSet p) (s := r) hexists hop hres) (by decide)
        (by simp)
  case irig =>
    intro p s r b f off c old s1 same hacc hin hout hflags hres hleast hmost hstep hpad htl htm
    have hfits : IrigFits b := ⟨hin, hout, hflags, hres, hleast, hmost, hstep, hpad, htl, htm⟩
    exact ⟨fun hsame => serveCmd_ok (body := bodyIrigSet) hacc (bodyIrigSet_of_same (p := asked specIrigSet p) (s := r) hfits hsame) (by decide) (by simp),
      fun hother hunlocked => serveCmd_ok (body := bodyIrigSet) hacc
        (bodyIrigSet_of_other (p := asked specIrigSet p) (s := r) hfits hother hunlocked) (by decide) (by simp)⟩
  case capture =>
    intro p s r b n g hacc hn hedges hchatter hres
    exact ⟨fun hop => serveCmd_ok (body := bodyGpioCaptureSet) hacc
        (bodyGpioCaptureSet_of_set (p := asked specGpioCaptureSet p) (s := r) hn hedges hchatter hres hop) (by decide) (by simp),
      fun hop => serveCmd_ok (body := bodyGpioCaptureSet) hacc
        (bodyGpioCaptureSet_of_read (p := asked specGpioCaptureSet p) (s := r) hn hedges hchatter hres hop) (by decide) (by simp)⟩

end Sys2Proof.Machine
end
